-- ==== Sys2Proof/Word.lean ====
section
/-!
DEFINITION. The two word types of the spec: a byte of a packet, and 32 bits of a CRC or of a hash.
-/

namespace Sys2Proof

/-- A byte. -/
abbrev Byte := BitVec 8

/-- A 32-bit word. -/
abbrev Word := BitVec 32

end Sys2Proof
end

