-- ==== Sys2Proof/Syntax.lean ====
section
/-!
DEFINITION. The commands of the block, one constructor per row of the opcode table, and the records of what the outside
world puts at its pads when a command carries a measurement.
-/

namespace Sys2Proof

/-- SEQ and FLAGS of a host command packet (R127). The packet's CRC is right in every row but CRC_ERROR_PACKET; the model
computes its value from the other bytes (R128). -/
structure Hdr where
  seq : Byte
  flags : Byte
deriving DecidableEq, Repr

/-- One channel reading of the load channel monitoring job: current while it conducts, die temperature, and whether the die limits the
current (R350, R351). -/
structure LoadIn where
  ch : Nat
  ma : Nat
  temp : Int
  inLimit : Bool
deriving DecidableEq, Repr

/-- What a frame brings to the pads: the bits of the frame that ends as (outlet, input, bits), bit c that of modulator cycle c; the
hotter plug sensor of an outlet in 0.1 degC with the mark that both sensors read within 800 ohm to 1,900 ohm; load channels; driver
currents as (driver, mA); bank supplies as (bank, mV); and the correction of one cycle that the site loop asks for (R21, R164, R318,
R351, R377). -/
structure FrameIn where
  bits : List (Nat × Nat × BitVec 1024) := []
  plugs : List (Nat × Int × Bool) := []
  loads : List LoadIn := []
  coils : List (Nat × Nat) := []
  banks : List (Nat × Nat) := []
deriving DecidableEq, Repr

/-- What a superframe measures: VAUX and HOLD in mV, die temperature in 0.1 degC, and the seal loop reading intact (R74, R82,
R264). -/
structure SuperIn where
  vauxMv : Nat := 24000
  holdMv : Nat := 24000
  dieTemp : Int := 250
  loopIntact : Bool := true
deriving DecidableEq, Repr

/-- What boot finds at the pads: three readings of the straps and of DBGEN_N (true: low), the cells that fail their self-test, the
dies above 150 degC, the mirror inputs that read on, and the seal loop (R58, R63, R96, R262, R343). -/
structure BootIn where
  strapA : BitVec 8 := 0x3F
  strapB : BitVec 8 := 0x3F
  strapC : BitVec 8 := 0x3F
  dbgenA : Bool := false
  dbgenB : Bool := false
  dbgenC : Bool := false
  badCells : List Nat := []
  hotDies : List Nat := []
  mirrors : List Nat := []
  loopIntact : Bool := true
deriving DecidableEq, Repr

/-- The level of CPn from one edge of the PWM to the next, or over a frame where the drive is constant: its samples in mV at 4 MS/s,
oldest first (R273). -/
structure Plateau where
  outlet : Nat
  positive : Bool
  samples : List Int
deriving DecidableEq, Repr

/-- A beacon received: its frame control, the 160 bytes of its block, and the arrival of its preamble as legal frame and reference cycle
(R366, R370, R374). -/
structure BeaconIn where
  fc : List Byte
  block : List Byte
  arrFrame : Nat
  arrCycle : Nat
deriving DecidableEq, Repr

/-- A received data frame: its frame control, its SNR in 0.25 dB, the samples of its payload at 160 MHz, and its segments of 520 bytes as
the decoder gives them. No samples: nothing in them is blanked (R369 to R371). -/
structure TrvFrameIn where
  fc : List Byte
  snr : Nat
  samples : List Int
  segs : List (List Byte)
deriving DecidableEq, Repr

/-- A card found in a full round (R394, R398). -/
structure Card where
  type : Nat
  ident : List Byte
  sak : Byte
  iso4 : Bool
  rate : Nat
deriving DecidableEq, Repr


/-- The commands of the block, in the order of the opcode table. -/
inductive Instr where
  /-- Host command that returns OK with its payload copied unchanged. (R141) -/
  | nop (h : Hdr) (p : List Byte)
  /-- Host command that returns the data of an object, or of one entry or page of it, after the checks of Table 4-7. (R143) -/
  | objRead (h : Hdr) (p : List Byte)
  /-- Host command that atomically writes the masked fields of an object that has no write behaviour of its own, committing kept fields to
  MRAM before replying OK. (R144) -/
  | objWrite (h : Hdr) (p : List Byte)
  /-- Write of HOST_PORT: a QUAD or BAUD change applies once the reply has been delivered, and a ROLE_IDLE change also applies to the open
  session. (R152) -/
  | hostPortWrite (h : Hdr) (data mask : List Byte)
  /-- Write of EASEMENT_CONFIG: a change of VAUX_BUDGET places every reservation not yet begun again under R37. (R42) -/
  | easementConfigWrite (h : Hdr) (data mask : List Byte)
  /-- Write of a safety-configuration object: accepted only in STANDBY or COMMISSIONING, enters COMMISSIONING, and invalidates the stored
  start-up proof. (R116) -/
  | safetyConfigWrite (h : Hdr) (p : List Byte)
  /-- Write of a SEAL field while the seal is open: signs a PARAMETER record and updates MET_HASH. (R263) -/
  | sealFieldWrite (h : Hdr) (p : List Byte)
  /-- Write of a TARIFF entry that is neither active nor named by a pending calendar entry: sets a new device-wide VERSION. (R235) -/
  | tariffWrite (h : Hdr) (idx : Nat) (data mask : List Byte)
  /-- Write of a pulse constant or source: checks the limit of R216 and clears PULSE_ACC and PULSE_PENDING. (R217) -/
  | pulseConfigWrite (h : Hdr) (idx : Nat) (data mask : List Byte)
  /-- Write of ENERGY_CONFIG: refused if 120 % of FS_CURRENT would exceed the overrange level under the calibration in force. (R202) -/
  | energyConfigWrite (h : Hdr) (idx : Nat) (data mask : List Byte)
  /-- Write of CAL in COMMISSIONING: refused if it would break the overrange or pulse limits for the configuration in force. (R202) -/
  | calWrite (h : Hdr) (idx : Nat) (data mask : List Byte)
  /-- Write of BILLING_CONFIG: closes the open demand window as a split window. (R266) -/
  | billingConfigWrite (h : Hdr) (data mask : List Byte)
  /-- Write of LINK_CONFIG, including PROFILE: accepted only in STANDBY or COMMISSIONING with no link on the outlet. (R269) -/
  | linkConfigWrite (h : Hdr) (idx : Nat) (data mask : List Byte)
  /-- Write of LOAD_CONFIG: a non-zero PROFILE loads the profile values, and an expert field write sets PROFILE to custom. (R349) -/
  | loadConfigWrite (h : Hdr) (idx : Nat) (data mask : List Byte)
  /-- Write of TRV_CONFIG: restarts the Traverse link, which drops its routes and its alignment. (R389) -/
  | trvConfigWrite (h : Hdr) (data mask : List Byte)
  /-- Write of DISPLAY_CONFIG: refused when the scan time exceeds 1 / SCAN_HZ or when the price and always-on areas are misplaced. (R411) -/
  | displayConfigWrite (h : Hdr) (data mask : List Byte)
  /-- Host acknowledgement of an event that carries ACK_REQ: the event is released from the journal, and an unmatched acknowledgement is
  counted. (R137) -/
  | eventAcknowledgement (seq : Byte) (flags : Byte) (code : Nat) (len : Nat)
  /-- A whole host packet with a wrong CRC is not executed; it is answered with CRC_ERROR and counted. (R129) -/
  | crcErrorPacket (seq : Byte)
  /-- A WRITE begun while RX_READY is 0 is discarded without a reply and counted. (R121) -/
  | writeOverrun (sync : Byte) (len : Nat) (received : Nat)
  /-- SPI READ transaction: delivers the oldest pending packet, which stays pending if the transaction is cut short. (R122) -/
  | spiRead (clocked : Nat)
  /-- SPI STATUS transaction: returns the status byte, the length of the next pending packet and the pending count. (R119) -/
  | spiStatus
  /-- A gap of more than 1 ms inside a UART packet discards the partial packet and restarts the hunt. (R126) -/
  | uartGapDiscard (bytes : List Byte)
  /-- An unacknowledged event is sent again 1 s after each delivery. (R137) -/
  | eventResend (seq : Byte)
  /-- Host command that issues a device nonce for a role challenge. (R146) -/
  | roleChallenge (h : Hdr) (p : List Byte)
  /-- Host command that checks HOST_PROOF against a valid challenge and opens the role session, replying with DEV_PROOF. (R146) -/
  | roleOpen (h : Hdr) (p : List Byte)
  /-- Host command that ends the role session and emits ROLE_ENDED. (R148) -/
  | roleClose (h : Hdr) (p : List Byte)
  /-- No command for ROLE_IDLE seconds ends the role session with reason idle. (R148) -/
  | roleIdleTimeout
  /-- The lockout time of a role runs out, and the role may be challenged again. (R147) -/
  | roleLockoutEnd (role : Nat)
  /-- Host command in COMMISSIONING that writes a role key under the writer rules of R149. (R149) -/
  | roleKeySet (h : Hdr) (p : List Byte)
  /-- Host command that requests a CORE or SYSTEM reset, stopping open sessions first when FORCE = 1. (R103) -/
  | reset (h : Hdr) (p : List Byte)
  /-- Host command that requests STANDBY or BENCHMARK, answered under rows 6 and 7 of Table 3-13. (R110) -/
  | modeSet (h : Hdr) (p : List Byte)
  /-- Host command that leaves RECOVERY once every INTERRUPTED record is stored. (R113) -/
  | recoveryAck (h : Hdr) (p : List Byte)
  /-- Host command that leaves COMMISSIONING for STANDBY when no commissioning condition holds, and sets the debug lock at the first OK.
  (R115) -/
  | commissioningDone (h : Hdr) (p : List Byte)
  /-- VAUX rises through the power-on threshold and starts a reset of reach POWER-ON. (R95) -/
  | powerOn (vauxMv : Nat)
  /-- VAUX stays below the warning threshold for the filter time and starts the shutdown sequence of Table 3-3. (R83) -/
  | powerFailWarning (vauxMv : Nat)
  /-- By t0 + 9.5 ms after the warning, a tail slot is written; accumulation then stops and the pulse outputs are released. (R209) -/
  | tailSave
  /-- HOLD falls to 7 V: the internal rails go off, unfinished shutdown steps are lost, and the device is in MONUMENT. (R470) -/
  | holdDropOut (stepsDone : Nat)
  /-- VAUX returns before HOLD drop-out: step 6 is completed, then a POWER-ON reset with source PF_RETURN follows. (R86) -/
  | pfReturn
  /-- An internal rail is outside its window for 2 µs, which gives a POWER-ON reset. (R90) -/
  | railBor
  /-- VAUX is reversed: every output is off and the VBAT domain continues as in MONUMENT. (R78) -/
  | vauxReversed
  /-- Surge detection goes on: all load channels off within 10 µs, class 3 requests deferred, VAUX_SURGE emitted. (R77) -/
  | vauxSurgeOn
  /-- Surge detection goes off: channels that were on switch on again with new windows, and VAUX_SURGE reports the duration. (R77) -/
  | vauxSurgeOff
  /-- Hourly VBAT measurement, which sets VBAT_LOW and emits the event below 2.2 V, repeating the event every 24 h. (R80) -/
  | vbatCheck (vbatMv : Nat)
  /-- The VBAT domain falls below its retention limit without VAUX and clears the retention flag. (R81) -/
  | retentionLoss
  /-- 1 s after READY, HOLD below 20 V with VAUX above 18 V sets HOLD_LOW. (R82) -/
  | holdLowCheck (vauxMv holdMv : Nat)
  /-- A low level on RESET_N of at least 10 µs asserts a SYSTEM source. (R92) -/
  | resetNAssert
  /-- RESET_N goes high and its source is released. (R92) -/
  | resetNRelease
  /-- RESET_N held low for 10 s is masked, counted as released, and reported after READY. (R92) -/
  | stuckReset
  /-- A masked RESET_N seen high for 100 ms is armed again. (R92) -/
  | resetNRearm
  /-- A region sequencer silent for 8 frames gives a SYSTEM reset source. (R90) -/
  | regionWatchdog (region : Nat)
  /-- Firmware that has not serviced its watchdog for 100 ms gives a CORE reset source. (R90) -/
  | appWatchdog
  /-- At the end of the reset controller's hold, a SYSTEM or wider reset clears volatile state and restarts the regions. (R89) -/
  | resetTakesEffect
  /-- The last reset source is released, and the regions are released in the boot order of Table 3-6. (R95) -/
  | resetRelease (b : BootIn)
  /-- Boot completes: READY is emitted first, HRDY_N goes low, and commands are accepted. (R97) -/
  | ready (vbatMv : Nat)
  /-- 500 ms after a CORE source, an open session not yet confirmed gets Safe Ramp Stop. (R100) -/
  | sessionHoldExpired
  /-- Every 1,250 reference cycles a frame begins and the static schedule of jobs runs. (R21) -/
  | frameTick (m : FrameIn)
  /-- Every 400 frames a superframe begins, with its saves, comparisons and measurements. (R21) -/
  | superframeTick (m : SuperIn)
  /-- A cell corrects a single error and counts it. (R15) -/
  | cellErrorCorrected (cell : Nat) (count : Nat) (cycle : Nat)
  /-- A cell returns an uncorrectable result; the block retries once, then isolates the cell and reports it. (R16) -/
  | cellUncorrectable (cell : Nat) (retryOk : Bool) (sequencer : Bool) (cycle : Nat)
  /-- The lockstep comparators disagree, and the chip enters the global safe state. (R20) -/
  | lockstepMismatch (cell : Nat) (cycle : Nat)
  /-- A clock monitor detects CLOCK_LOSS or CLOCK_FREQ; for the reference clock this is a SYSTEM reset source. (R90) -/
  | clockMonitorFault (region : Nat) (lossNotFreq : Bool) (source : Nat) (cycle : Nat)
  /-- A supply monitor or the reset controller reports a POWER region fault, which gives a SYSTEM reset. (R18) -/
  | supplyFault (rail : Nat) (cycle : Nat)
  /-- A frame job has not finished by its deadline: it is reported or counted, and escalates under Table 15-3. (R24) -/
  | deadlineMiss (job inst : Nat) (endCycle : Nat) (cycle : Nat)
  /-- A region collector's 2-frame merge window closes and the merged report is forwarded to the chip collector. (R27) -/
  | regionMergeWindowClose (region : Nat) (cls : Byte) (key : Nat)
  /-- The chip window closes, a root cause is chosen, the closure is journalled, and FAULT_PRIMARY is emitted. (R28) -/
  | chipWindowClose (cls : Byte) (key : Nat)
  /-- One superframe after its emission a closure stops covering its regions. (R29) -/
  | closureOpenEnd (id : Nat)
  /-- A deferred operation reaches its start frame and may begin. (R36) -/
  | deferFrameReached (req : Nat)
  /-- An operation that has not begun within 2 frames of its leave loses it, and its charge is released. (R40) -/
  | leaveLapse (req : Nat)
  /-- A requester reports the end of its peak phase, and its charge drops to its hold or is released. (R40) -/
  | peakPhaseEnd (req : Nat)
  /-- The declared duration ends while the peak phase is still running; the operation stays charged at peak. (R40) -/
  | easementOverrun (req : Nat)
  /-- 64 identical bits mark an input stuck and invalid, with the reaction of Table 5-3. (R160) -/
  | modInputStuck (outlet input : Nat)
  /-- MCLKn read back wrong for 16 cycles marks all inputs of the outlet invalid. (R160) -/
  | mclkReadbackFault (outlet : Nat)
  /-- An invalid input clean for 400 frames becomes valid again. (R162) -/
  | modInputValid (outlet input : Nat)
  /-- Loss of the modulator clock PLL is a METROLOGY region fault for all active outlets. (R161) -/
  | modPllLoss (cycle : Nat)
  /-- A FAST change above STEP_THRESHOLD within 16 values marks outputs unsettled. (R174) -/
  | stepDetected (outlet input place : Nat)
  /-- Host command that schedules, arms or cancels a decimator reset. (R193) -/
  | sync (h : Hdr) (p : List Byte)
  /-- The time of a scheduled SYNC is reached and the decimators are reset. (R176) -/
  | syncScheduled
  /-- A falling edge on MSYNC_N is taken while armed, ignored with sessions open, or counted while not armed. (R178) -/
  | msyncEdge
  /-- At the first frame tick at least 2 µs after an armed edge, all 64 decimator cells are restarted. (R176) -/
  | decimatorReset
  /-- Expert command that stores a custom CONTROL or DIAGNOSTIC coefficient set in MRAM. (R181) -/
  | coefLoad (h : Hdr) (p : List Byte)
  /-- Expert command that selects the source of a path and starts a cross-fade. (R182) -/
  | pathSelect (h : Hdr) (p : List Byte)
  /-- After F outputs a cross-fade ends, and only the new filter runs. (R183) -/
  | fadeDone (outlet path input : Nat)
  /-- Command that starts a capture of up to 32,768 outputs. (R191) -/
  | captureStart (h : Hdr) (p : List Byte)
  /-- The capture trigger is met and recording begins. (R191) -/
  | captureTrigger
  /-- The capture completes, or its trigger is not met within 60 s. (R191) -/
  | captureDone
  /-- Every 2,000 frames the Plumb injection takes the signs of the next step of its code. (R324) -/
  | plumbStepBoundary
  /-- A code period ends: the correlations are converted into insulation, and the status and groups are judged. (R326) -/
  | plumbPeriodEnd
  /-- A 60 ms tone window ends, and its ratio and phase update TONE_STATE and the tone checks. (R190) -/
  | toneWindowEnd (outlet : Nat)
  /-- No valid tone window for 10 s while the tone is enabled sets TONE_UNAVAILABLE. (R218) -/
  | toneUnavailable (outlet : Nat)
  /-- A pulse's width expires and its output is released. (R214) -/
  | pulseEnd (k : Nat)
  /-- Current at or above the creep threshold for 1 s on an outlet without a session, repeated hourly while it lasts. (R207) -/
  | standingEnergy (outlet : Nat)
  /-- VERIFIER command that clears sticky meter flags whose conditions no longer hold. (R221) -/
  | meterWarnClear (h : Hdr) (p : List Byte)
  /-- Command that corrects legal time by a slew, a step or a set from invalid time. (R232) -/
  | timeSet (h : Hdr) (p : List Byte)
  /-- At the next superframe tick, time is set from invalid time and a TIME_SET record is signed. (R231) -/
  | timeSetApply
  /-- At the first superframe tick after the reply, legal time jumps and a CLOCK_STEP record is signed. (R234) -/
  | clockStep
  /-- Command that adds or cancels up to 16 calendar entries, all of them or none. (R236) -/
  | tariffAnnounce (h : Hdr) (p : List Byte)
  /-- Frame 0 of a calendar entry's second switches the tariff and signs TARIFF_SWITCH records. (R238) -/
  | tariffBoundary
  /-- A processed calendar entry is removed 24 h after its time. (R236) -/
  | calendarEntryExpiry (entry : Nat)
  /-- A demand sub-interval boundary closes a window and commits a boundary record. (R244) -/
  | demandWindowEnd
  /-- Once every share before the window end is added, the window value is compared with the stored maximum. (R245) -/
  | demandEvaluation
  /-- Command that requests a reset of the demand maxima. (R248) -/
  | demandReset (h : Hdr) (p : List Byte)
  /-- At the next superframe tick, DEMAND_RESET records are signed and the maxima are cleared. (R248) -/
  | demandResetApply
  /-- Command that returns up to 15 sealed records from a given sequence. (R259) -/
  | logRead (h : Hdr) (p : List Byte)
  /-- Command that acknowledges records up to a sequence and frees log space. (R259) -/
  | logAck (h : Hdr) (p : List Byte)
  /-- Signed records are stored in the legal log in sequence, or in the overflow area, and the fullness thresholds are applied. (R258) -/
  | logRecordStore
  /-- 16 records in sequence are programmed as one NAND page and verified. (R440) -/
  | logPageProgram (ok : Bool)
  /-- The seal loop opens: SEAL_BROKEN and UNVERIFIED latch, and with VAUX a record is signed within 1 s. (R261) -/
  | sealOpening
  /-- DBGEN_N low or a DBGCK edge while the debug lock is set sets TAMPER and signs a SEAL_BROKEN record. (R63) -/
  | debugAccessAttempt
  /-- VERIFIER command that signs a RESEAL record and clears the seal latches. (R264) -/
  | reseal (h : Hdr) (p : List Byte)
  /-- The pilot plateau shows a new state, decided by the pilot job, with the link reactions of R275. (R274) -/
  | pilotStateChange (pl : Plateau)
  /-- A new proximity class is taken after two agreeing frames, and loss of present ends the link. (R277) -/
  | ppChange (outlet mv : Nat)
  /-- 10 s after a REFUSE, while B persists, leave is asked again. (R278) -/
  | pwmLeaveRetry (outlet : Nat)
  /-- A SLAC parameter request starts a sounding set, and only the candidate line answers. (R283) -/
  | cmSlacParmReq (mac run : Nat) (atten : List (Option Nat))
  /-- A sounding of a set is measured on every CCS line. (R284) -/
  | soundingReceived (mac run : Nat) (atten : List (List Nat))
  /-- Sounding collection ends; CM_ATTEN_CHAR.IND is sent on the candidate only if the margin holds. (R284) -/
  | attenCollectionEnd (mac run : Nat)
  /-- The candidate answers the match request with the new network key and closes the window. (R285) -/
  | cmSlacMatchReq (mac run : Nat)
  /-- A validation request is answered that validation is not required. (R285) -/
  | cmValidateReq (outlet mac : Nat)
  /-- The vehicle joins the logical network and SLAC_MATCHED is emitted. (R285) -/
  | vehicleJoin (mac run : Nat)
  /-- The vehicle has not joined within 12 s; the match is undone and the window reopens. (R285) -/
  | joinTimeout (mac run : Nat)
  /-- A set receives no frame for 2 s and ends. (R282) -/
  | soundingSetTimeout (mac run : Nat)
  /-- SLAC_INIT runs out without a match, or too many ambiguous sets occur; a pilot restart begins. (R288) -/
  | associationWindowEnd (outlet : Nat)
  /-- After 4 s in state F the drive returns to HIGH and leave is asked again, or the link fails with SLAC_FAILED. (R288) -/
  | pilotRestartEnd (outlet : Nat)
  /-- PLCA is good and the first valid vehicle frame arrives with the pilot in B or C. (R290) -/
  | t1sLinkUp (outlet mac : Nat)
  /-- PLCA status is lost, or no vehicle frame arrives for 1 s; the link ends with cause 11. (R290) -/
  | t1sLinkLoss (outlet : Nat)
  /-- The vehicle's supported-application-protocol request is answered with the enabled protocols by priority. (R291) -/
  | supportedAppProtocolReq (outlet : Nat) (offered : List Nat)
  /-- The link reaches authorization: the refusal conditions are checked and AUTH_REQUEST is emitted if none holds. (R295) -/
  | authorizationReq (outlet mac : Nat) (method : Nat) (contract chain : List Byte)
  /-- A refusal condition has persisted for REFUSE_HOLD; the link ends and LINK_REFUSED is emitted. (R295) -/
  | refuseHoldExpiry (outlet : Nat)
  /-- The host has not accepted by the deadline; the request is denied and AUTH_EXPIRED is emitted. (R296) -/
  | authDeadlineExpiry (outlet : Nat)
  /-- Command that accepts, opening the session with SESSION_START, or denies an authorization request. (R297) -/
  | authDecide (h : Hdr) (p : List Byte)
  /-- Command that asks the vehicle to end energy transfer. (R298) -/
  | linkStop (h : Hdr) (p : List Byte)
  /-- The vehicle has not ended within STOP_GRACE, and Safe Ramp Stop starts. (R298) -/
  | stopGraceExpiry (outlet : Nat)
  /-- A sequence or communication-setup timer of the protocol runs out, and the link ends with cause 5. (R292) -/
  | protocolTimerExpiry (outlet : Nat)
  /-- Command that generates a new SECC key and returns a PKCS #10 request. (R301) -/
  | seccCsr (h : Hdr) (p : List Byte)
  /-- Command that stores an SECC chain or a root certificate. (R301) -/
  | seccCertSet (h : Hdr) (p : List Byte)
  /-- The vehicle's cable check request starts PULL_IN of the outlet pair. (R315) -/
  | cableCheckReq (outlet maxV : Nat)
  /-- The vehicle's precharge request sets voltage mode at its target. (R315) -/
  | prechargeReq (outlet target : Nat)
  /-- A power delivery start enters ENERGY after the precharge match; a stop starts Safe Ramp Stop. (R315) -/
  | powerDeliveryReq (outlet : Nat) (start : Bool)
  /-- A charge-loop request sets the current target within the limits of R318. (R318) -/
  | currentDemandReq (outlet : Nat) (amps10 : Int)
  /-- PULL_IN_MS ends and the driver holds the coil with PWM at HOLD_DUTY. (R307) -/
  | pullInEnd (driver : Nat)
  /-- A mirror input changes as commanded, confirming a contactor closed or open. (R310) -/
  | mirrorConfirmed (driver : Nat) (readsOn : Bool)
  /-- A mirror input fails to change within FB_CLOSE_MS or FB_OPEN_MS; an opening failure is a weld. (R310) -/
  | feedbackTimeout (driver : Nat) (cycle : Nat)
  /-- A driver detects an open coil or an overcurrent, which is held off as a FEEDBACK fault. (R311) -/
  | driverFault (driver cause : Nat) (cycle : Nat)
  /-- 5 ms after a PERMIT_Nn release, the hardware stop logic switches the group's drivers off. (R309) -/
  | driverOffTimer (driver : Nat)
  /-- The 100 ms short test ends, passing to CABLE_CHECK or stopping with cause short circuit. (R315) -/
  | shortTestEnd (outlet : Nat)
  /-- The cable check has not passed within CC_TIMEOUT and fails. (R315) -/
  | ccTimeout (outlet : Nat)
  /-- V_VEH and V_BUS differ by more than 5 % for 10 frames, and the session stops with cause contactor. (R317) -/
  | contactorNotConducting (outlet : Nat)
  /-- The current is still above threshold at t0 + T. (R321) -/
  | rampLate (outlet : Nat)
  /-- The current is still above threshold at t0 + T + 20 ms; PERMIT is released and the drivers follow. (R321) -/
  | rampForced (outlet : Nat)
  /-- Two consecutive FAST values of input 1 above OC_LIMIT cause a fast stop in hardware. (R332) -/
  | fastOvercurrent (outlet : Nat) (v1 v2 : Int)
  /-- The 200 ms discharge test ends and judges whether both poles are welded. (R320) -/
  | weldVoltageTestEnd (outlet : Nat)
  /-- Command that starts joining a segment to an outlet's group. (R319) -/
  | busJoin (h : Hdr) (p : List Byte)
  /-- The segment's V_BUS has matched the group's for 10 frames, and the matrix contactor asks for pull-in. (R319) -/
  | segmentVoltageMatched (segment : Nat)
  /-- Command that removes a segment's share and opens its matrix contactor. (R319) -/
  | busRelease (h : Hdr) (p : List Byte)
  /-- Every 10 frames the current targets, and every 10 ms the permit levels, are sent on CAN FD. (R313) -/
  | pmTargetTransmit (bus : Nat)
  /-- A module's status frame is received and checked. (R313) -/
  | pmStatusFrame (module : Nat) (payload : List Byte)
  /-- A module's fault frame is received, and its segment keeps only its healthy modules. (R312) -/
  | pmFaultFrame (module : Nat) (payload : List Byte)
  /-- 50 ms without a valid status frame marks a module lost. (R314) -/
  | pmLost (module : Nat)
  /-- A safety input channel enters its demand state, confirmed by FILTER_MS, with the reaction of Table 9-9. (R331) -/
  | safetyInputDemand (input : Nat) (a b : Bool)
  /-- A demand ends, directly or awaiting SAFETY_RESET. (R331) -/
  | safetyDemandEnd (input : Nat) (a b : Bool)
  /-- The channels disagree beyond DISCREPANCY_MS, and the input is faulty. (R331) -/
  | discrepancyTimeout (input : Nat)
  /-- A TPOk off-pulse is given and the channels it feeds are checked. (R333) -/
  | inputTestPulse (k : Nat) (readsOff : List (Nat × Bool × Bool))
  /-- A driver off-pulse or on-pulse is given and the pad level is checked. (R334) -/
  | driverTestPulse (driver : Nat) (padOk : Bool) (cycle : Nat)
  /-- Command that ends demands that await a manual reset. (R331) -/
  | safetyReset (h : Hdr) (p : List Byte)
  /-- Command that starts the start-up test in COMMISSIONING. (R335) -/
  | startupTest (h : Hdr) (p : List Byte)
  /-- The start-up test is not complete after 30 min and its progress is discarded. (R335) -/
  | startupTestTimeout
  /-- Command that releases a LOCKED outlet once its mirror inputs read on. (R340) -/
  | weldClear (h : Hdr) (p : List Byte)
  /-- Command that switches an auxiliary safety output. (R305) -/
  | auxContactor (h : Hdr) (p : List Byte)
  /-- Command that switches a load channel off, on or to PWM under Table 10-4. (R354) -/
  | loadSet (h : Hdr) (p : List Byte)
  /-- Command that releases a ground loss or an undervoltage lockout. (R356) -/
  | loadBankReset (h : Hdr) (p : List Byte)
  /-- A channel's inrush window ends, the steady limit applies, and the bank queue moves on. (R345) -/
  | inrushWindowEnd (ch : Nat)
  /-- A bank generator period begins, and pending duty, phase or mode changes apply. (R348) -/
  | pwmPeriodBoundary (bank : Nat)
  /-- A die passes the shutdown temperature; the channel goes off, latches and enters BACKOFF. (R350) -/
  | thermalShutdown (ch ma : Nat) (temp : Int)
  /-- The die falls below the release temperature and the latch clears. (R350) -/
  | thermalLatchRelease (ch : Nat) (temp : Int)
  /-- A channel stays in limit for OVERLOAD_MS outside its window and is switched off as a channel fault. (R350) -/
  | channelOverload (ch ma : Nat) (temp : Int)
  /-- Current below the open-load threshold for 50 ms of on-time. (R352) -/
  | openLoadDetected (ch : Nat)
  /-- Current reaches 30 mA for 50 ms of on-time. (R352) -/
  | openLoadCleared (ch : Nat)
  /-- A BACKOFF wait ends; the channel retries, or enters EXHAUSTED. (R353) -/
  | retryWaitEnd (ch : Nat)
  /-- After 10 s on without a fault, RETRIES returns to 0. (R353) -/
  | retriesReset (ch : Nat)
  /-- VBBk below threshold switches the bank off; the fourth undervoltage within 60 s locks out. (R356) -/
  | bankUndervoltage (bank vbbMv : Nat)
  /-- VBBk above the overvoltage threshold switches the bank off. (R356) -/
  | bankOvervoltage (bank vbbMv : Nat)
  /-- GNDPk above GND for 10 µs switches the bank off. (R356) -/
  | bankGroundLoss (bank vbbMv : Nat)
  /-- VBBk below −1 V holds the channels off. (R356) -/
  | bankReverseSupply (bank : Nat)
  /-- Summed bank current above 20 A for 1 s switches off the channel switched on most recently. (R356) -/
  | bankOverload (bank vbbMv : Nat)
  /-- A bank condition's release criterion is met, and HELD channels re-enter the queue. (R356) -/
  | bankHoldRelease (bank : Nat) (cause : Nat) (vbbMv : Nat) (good100ms : Bool)
  /-- Command that sends a host packet over the Traverse link. (R390) -/
  | trvSend (h : Hdr) (p : List Byte)
  /-- Command that writes a Traverse key slot. (R381) -/
  | trvKeySet (h : Hdr) (p : List Byte)
  /-- Command that schedules the switch of the transmit key slot. (R381) -/
  | trvKeyUse (h : Hdr) (p : List Byte)
  /-- At the first superframe tick at or after the given time, transmission switches key slot. (R381) -/
  | trvKeySwitch
  /-- A ZCIN edge marks the datum and starts a beacon period on the master. (R372) -/
  | datumEdge (rising : Bool) (gridMhz phaseDeg : Nat)
  /-- 100 ms without a valid edge makes the datum invalid. (R372) -/
  | datumLoss
  /-- A node's beacon slot starts and its beacon is sent. (R373) -/
  | beaconSlot (slot : Nat)
  /-- A beacon is received, giving a time measurement and neighbour and conflict data. (R376) -/
  | beaconReceived (b : BeaconIn)
  /-- 10 s without parent beacons clears LOCKED and SITE_ALIGNED. (R378) -/
  | lockTimeout
  /-- After idle time and backoff, a node starts a frame in the contention region. (R375) -/
  | contentionAccess (backoff : Nat)
  /-- A data frame is received, its segments checked, and a selective acknowledgement sent. (R370) -/
  | trvFrameReceived (f : TrvFrameIn)
  /-- An acknowledgement arrives; unacknowledged segments are resent up to ARQ_RETRIES. (R371) -/
  | selectiveAckReceived (fc : List Byte)
  /-- A whole network packet is checked, then forwarded, flooded, confirmed or delivered as TRV_RECEIVED. (R383) -/
  | trvPacketReceived (b : List Byte)
  /-- No confirmation within 10 s completes TRV_SENT with result 4. (R390) -/
  | trvConfirmationTimeout (handle : Nat)
  /-- In period 5a of a window, node a broadcasts its routing advertisement. (R385) -/
  | routingAdvertisement
  /-- At the end of each 10 s window every route is recomputed. (R385) -/
  | routingWindowEnd
  /-- A neighbour misses 4 beacons or exhausts 3 packets, and its routes move at once. (R386) -/
  | neighbourUnusable (node : Nat)
  /-- A packet without a route for 2 s is dropped. (R386) -/
  | noRouteDrop (tag : Nat)
  /-- Every 10 s without the class 5 standing grant, the link asks again. (R387) -/
  | trvGrantRetry
  /-- Every POLL_MS the reader makes a detection pulse or asks leave for a full round. (R392) -/
  | pollCycle (amplitudeMv : Nat)
  /-- A full round ends and the credentials found are reported under the multiple-card rule. (R398) -/
  | readerRoundEnd (cards : List Card)
  /-- 2 s without CARD_APDU release the held card and switch the field off. (R399) -/
  | cardHoldTimeout
  /-- Command that exchanges one APDU with the held card. (R409) -/
  | cardApdu (h : Hdr) (p : List Byte)
  /-- The card answers, times out or is lost. (R409) -/
  | cardApduDone (result : Nat) (response : List Byte)
  /-- Field-side SELECT of the witness application. (R400) -/
  | wtagSelect (aid : List Byte)
  /-- Field-side read of a 256-byte block of the witness store. (R400) -/
  | wtagReadBinary (block le : Nat)
  /-- Field-side read of the live VBAT latches and clock. (R404) -/
  | getLiveStatus (le harvestMv : Nat)
  /-- Field-side command that commits a visit note in two phases. (R406) -/
  | appendNote (harvestMv reserveMv : Nat) (data : List Byte) (lastStep : Nat)
  /-- With VAUX present, committed notes are imported to the application partition and reported. (R405) -/
  | visitNoteImport
  /-- Every TOTALS_MIN minutes, signed totals snapshots are written to the inactive copy and the copies switched. (R402) -/
  | totalsSnapshot (waitUs : Nat)
  /-- Command that writes pixels into the target buffer. (R418) -/
  | displayWrite (h : Hdr) (p : List Byte)
  /-- Command that queues a rectangle update. (R418) -/
  | displayUpdate (h : Hdr) (p : List Byte)
  /-- Command that switches the front light, waiting while the price area is being drawn. (R414) -/
  | displayLight (h : Hdr) (p : List Byte)
  /-- Expert command that loads part of a waveform table. (R415) -/
  | wfLoad (h : Hdr) (p : List Byte)
  /-- A panel scan begins and queued rectangles may join. (R411) -/
  | scanStart (temp : Int) (crackOhm : Nat)
  /-- A rectangle's waveform ends; it completes, or is re-driven after a band change. (R419) -/
  | waveformEnd (rect : Nat)
  /-- The drive rails are up in order and waveform drive may begin. (R412) -/
  | railStartDone
  /-- A rail misses its feedback time-out, the rails fall, and a retry or RAIL_FAULT follows. (R417) -/
  | railFeedbackTimeout (rail : Nat)
  /-- 1 s after a rail failure, the rail start is tried once more. (R417) -/
  | railRetry
  /-- 50 ms with no rectangle in flight start the rail fall. (R412) -/
  | railFallStart
  /-- EPTEMP is read every 100 ms during a waveform; band change, out of band or sensor fault are judged. (R416) -/
  | panelTempReading (temp : Int)
  /-- The crack loop is measured, every 60 s among other times; a crack abandons the drive. (R424) -/
  | crackCheck (ohm10 ohm10b : Nat)
  /-- 1 s after a refusal or displacement, a rectangle asks leave again. (R413) -/
  | displayRequestRetry (rect : Nat)
  /-- In STANDBY the always-on area is redrawn every AON_REFRESH_S seconds. (R422) -/
  | aonRefresh
  /-- In BENCHMARK the totals page is redrawn every 10 s. (R423) -/
  | benchmarkTotalsRedraw
  /-- Command that starts staging an image at the origin and a chain to other nodes. (R451) -/
  | updateStart (h : Hdr) (p : List Byte)
  /-- The staging slot is erased and UPDATE_PROGRESS reports it ready. (R451) -/
  | stagingSlotReady
  /-- Command that stages one half image block. (R458) -/
  | updateData (h : Hdr) (p : List Byte)
  /-- Command that ends staging and sends ABORT down the chain. (R456) -/
  | updateAbort (h : Hdr) (p : List Byte)
  /-- Command that copies the staged image to the other slot and resets into a trial. (R447) -/
  | imageActivate (h : Hdr) (p : List Byte)
  /-- The copy is checked, the boot record is committed as trial, and a SYSTEM reset follows. (R447) -/
  | activationCopyDone (tagsOk : Bool)
  /-- Command that makes the trial image the running one and raises MIN_VERSION. (R449) -/
  | confirmImage (h : Hdr) (p : List Byte)
  /-- A member receives an OFFER and accepts, refuses or resumes staging. (R451) -/
  | chainOffer (src : Nat) (origin : Nat) (header : List Byte) (nodes : List Nat) (position : Nat)
  /-- The upstream node receives an ANSWER and sends from the first block needed. (R452) -/
  | chainAnswer (src : Nat) (imageId : Nat) (result firstBlock : Nat)
  /-- A receiver takes a block half, commits progress, acknowledges, and forwards. (R453) -/
  | chainBlock (src : Nat) (imageId block half : Nat) (data tag : List Byte)
  /-- The upstream node receives a BLOCK_ACK and may send further blocks. (R453) -/
  | chainBlockAck (src : Nat) (imageId highest : Nat)
  /-- The origin receives a PROGRESS and may route around a slow hop. (R454) -/
  | chainProgress (src : Nat) (imageId highest rate : Nat)
  /-- Every 5 s a node reports its progress to the origin. (R452) -/
  | chainProgressSend
  /-- A node receives REROUTE and changes its next node. (R452) -/
  | chainReroute (src : Nat) (imageId next position : Nat)
  /-- A member receives ABORT and empties its staging slot. (R451) -/
  | chainAbort (src : Nat) (imageId : Nat)
  /-- The origin receives a node's DONE and emits CHAIN_NODE. (R456) -/
  | chainDone (src : Nat) (imageId result : Nat)
  /-- A receiver silent for 10 s is sent the OFFER again. (R455) -/
  | chainReceiverSilent
  /-- 10 min without progress anywhere end the chain with UPDATE_DONE result 4. (R456) -/
  | chainStall
  /-- Every 10 s while staging, progress is reported to the host. (R459) -/
  | updateProgress
  /-- Few free segments or a refresh start a segment reclaim with its RECLAIM record. (R441) -/
  | reclaimStart (refreshSegment : Option Nat)
  /-- A timed reclaim step completes and the next step of Table 14-6 runs. (R442) -/
  | reclaimStepDone (ok : Bool)
  /-- On UART the device begins the next pending packet while HCS_N is low and finishes it at the last stop bit, which delivers it and
  lets a BAUD change take effect. (R125) -/
  | uartPacketSend (hcsLow : Bool)
  /-- 2 ms after the reply to a RESET of reach CORE, or of SYSTEM with no session open, has been read, or 10 ms at the latest, the
  commanded reset takes effect. (R103) -/
  | resetDelayEnd
  /-- A whole command packet whose OPCODE names no command is answered UNKNOWN_OPCODE and kept for retransmission. (R135) -/
  | unknownOpcodeCommand (h : Hdr) (opcode : Nat) (p : List Byte)
  /-- An automatic load-channel switch-on that was refused asks leave again 1 s later without using a retry. (R347) -/
  | loadLeaveRetry (ch : Nat)
  /-- While a card is held active, the reader asks class 6 leave again every 100 ms so that the field stays on. (R399) -/
  | readerLeaveRenew
  /-- When no acknowledgement follows a data frame at its expected time, the sender resends the segments and doubles its contention
  window. (R371) -/
  | selectiveAckMissing (dst : Nat) (frameSeq : Byte)
  /-- Any other vehicle protocol request, such as SDP, session setup, service discovery, welding detection or session stop, is answered
  within the times of Table 8-7 and may end the link. (R292) -/
  | v2gRequest (outlet : Nat) (kind : Nat)
  /-- A reader field appears on or vanishes from the witness tag, which powers it up or down, sets FIELD_PRESENT and SELECTED, and may
  collapse an APPEND NOTE in progress. (R400) -/
  | wtagFieldChange (present : Bool) (harvestMv : Nat)
  /-- The last display rail falls below 10 %, and the display returns to rails down. (R412) -/
  | railFallDone
  /-- A block outside the legal log that is due for refresh, by correction count or by age over 5 years, is copied to a fresh block. (R431) -/
  | nandBlockRefresh (partition block : Nat) (uncorrectable : Bool)
deriving DecidableEq, Repr

end Sys2Proof
end

