-- ==== Sys2Proof/Config.lean ====
section
/-!
DEFINITION. The values that the spec leaves open, each a constant without a body: nothing can evaluate them, and a statement
that mentions one holds for every value. The counter `Factory.freeCtr` of the state supplies a fresh argument each time.
-/

namespace Sys2Proof.Config

/-- DEV_NONCE of a role challenge: drawn from the random generator (R146). -/
opaque devNonce : Nat → BitVec 128

/-- Network membership key of an association: drawn from the random generator (R280). -/
opaque membershipKey : Nat → BitVec 128

/-- Taps of the metrology ROM with 22 fraction bits, by age of the value they weigh: BILLING, CONTROL, DIAGNOSTIC (R171), and the
fractional-delay filter (R196). The spec gives their properties and not their values: `RomFilters` states the properties, and the filters
hold the DC gain of 1 by their form. -/
opaque billingTap : Nat → Int
opaque controlTap : Nat → Int
opaque diagTap : Nat → Int
opaque delayTap : Nat → Int

/-- The network identifier derived from a membership key: the rule names no derivation (R280). -/
opaque networkId : BitVec 128 → BitVec 54

/-- What a DER chain says of itself: whether it leads to a root, whether every signature under that root holds, and the validity times of
its certificates, in UTC seconds (R293). The encodings are those of the protocols, which the spec does not give. -/
opaque chainLeadsTo : List Byte → List Byte → Bool
opaque chainSigned : List Byte → List Byte → Bool
opaque chainTimes : List Byte → List (Nat × Nat)

/-- Public part of a new SECC key pair (R301). -/
opaque seccKey : Nat → BitVec 1042

/-- The PKCS #10 request for a key and a subject (R301). -/
opaque certRequest : BitVec 1042 → List Byte → List Byte

/-- Whether a DER certificate or chain is well formed (R301). -/
opaque derWellFormed : List Byte → Bool

/-- Whether the leaf of a DER chain carries a public key (R301). -/
opaque derCarriesKey : List Byte → BitVec 1042 → Bool

/-- Internal and VAUX peak of a NAND erase, 0.01 W and 0.1 W: no rule gives them (R35, R433). -/
opaque eraseInternal : Nat
opaque eraseVaux : Nat

/-- Rendered pixel levels of the price area: layout, active entry, announced start and entry, pixel index; the fonts are not
given (R420). -/
opaque pricePixel : Nat → BitVec 384 → Nat → BitVec 384 → Nat → BitVec 4

/-- Rendered pixel levels of the totals page: tariff registers, pixel index; its layout is not given (R423). -/
opaque totalsPixel : List Nat → Nat → BitVec 4

/-- Internal peak of a contactor pull-in request, 0.01 W: no rule gives it (R35, R307); alone it fits the 11 W of the budget, or no contactor
could ever close (R34, R40; log 10). -/
opaque pullInInternal : Fin 1101

/-- Frames from the first possible start of a contactor pull-in to its latest start: no rule gives them (R35, R307). -/
opaque pullInLatest : Nat

/-- Frames from the request to the latest start of the Traverse link's standing grant, and of the import of a visit note: no rule gives
them (R35, R387, R405). -/
opaque trvLatest : Nat
opaque importLatest : Nat

/-- The word that step 2 of APPEND NOTE leaves in place of a commit word, before it is made invalid: slot, note bytes (R406). -/
opaque spoiledCommit : Nat → List Byte → Nat

/-- Internal and VAUX peak of the class 2 standing grant, 0.01 W and 0.1 W: no rule gives them (R38, R324). -/
opaque plumbInternal : Nat
opaque plumbVaux : Nat

/-- A quotient whose divisor is 0 (R326: a conductance with no voltage). -/
opaque divByZero : Int → Int

/-- Origin block and cell of a fault report whose cell the spec does not name: class, key (R25). -/
opaque reportBlock : BitVec 8 → Nat → Nat
opaque reportCell : BitVec 8 → Nat → Nat

/-- Latest end of a job instance's on-time completions, in reference cycles: no command carries it (R468). -/
opaque onTimeEnd : Nat → Nat

/-- A value that the spec does not state, drawn fresh each time. -/
opaque freeNat : Nat → Nat

end Sys2Proof.Config
end

