-- ==== Sys2Proof/Machine/State.lean ====
section
/-!
DEFINITION. Everything the spec gives the machine, as plain data. One structure per unit; each field names the rule of
spec/ that gives it, and its default is its value at reset. Objects that software reads and writes whole stay packed as
their field maps give them; every other value has the type of the thing. Fields marked in INVENTORY.md as the MODEL's own
hold clocks of durations and the names the model gives to things under way.
-/

namespace Sys2Proof.Machine

/-- Variant of the module (R2). -/
inductive Variant where
  | hx8 | hx4
deriving DecidableEq, Repr

/-- State of the supply VAUX (R75, R78). -/
inductive Supply where
  | off | on | reversed
deriving DecidableEq, Repr

/-- Where reset and boot stand (R89, R93, R95): a source is asserted and the reset has not yet taken effect; held at the
end of boot step k; factory test runs (R61); every step made and `READY` not yet emitted; running. -/
inductive BootPhase where
  | asserted | held (k : Nat) | factory | released | running
deriving DecidableEq, Repr

/-- The operating modes (R104). -/
inductive Mode where
  | monument | standby | service | benchmark | recovery | commissioning
deriving DecidableEq, Repr

/-- Status codes of Table 4-8 (R135). -/
inductive Status where
  | ok | busy | denied | badParam | badMode | sealedHw | noLeave | queued | crcError | unknownOpcode | timeout | deadline
  | notConfirmed
deriving DecidableEq, Repr

/-- Reasons for which a step faults: none. The block meets every command in every state; where the spec gives a command nothing to do,
its state stays as it is. -/
inductive Fault where
deriving DecidableEq, Repr

/-- Reasons for which a step is refused. -/
inductive Refusal where
  /-- Raised by an arm of exec that has no meaning yet. Safe: nothing is claimed of it. -/
  | notModelled (mnemonic : String)
deriving DecidableEq, Repr

/-- What a meaning answers. -/
abbrev Out (σ : Type) := Host.Outcome σ Fault Refusal


/-- Values fixed at manufacture (02, 04, 08, 12). -/
structure Factory where
  /-- HX8 or HX4; fixed at manufacture (DESIGN CHOICE hx8, log 3) (R2) -/
  variant : Variant := .hx8
  /-- IDENTITY.SERIAL (factory; DESIGN CHOICE 0, log 3) (R151) -/
  serial : BitVec 64 := 0
  /-- IDENTITY.ROM_VERSION (factory; DESIGN CHOICE 0, log 3) (R151) -/
  romVersion : BitVec 32 := 0
  /-- LINK_STATE.DEV_MAC (factory; DESIGN CHOICE 0, log 3) (R300) -/
  devMac : Vector (BitVec 48) 8 := Vector.replicate 8 0
  /-- WTAG_STATE.UID (factory; DESIGN CHOICE 0, log 3) (R400) -/
  tagUid : BitVec 56 := 0
  /-- the device's private P-256 key, never readable (factory; DESIGN CHOICE 1, log 3) (R257) -/
  deviceKey : BitVec 256 := 1
  /-- SIGN_KEY: KEY_X and KEY_Y of that key, CERT (factory; CERT DESIGN CHOICE 0, log 3) (R257) -/
  signKey : BitVec 1280 := 0xf551bf376840b6cbce5e316b5733ce2b169e0f7c4aebe78e9b7f1afee242e34f96c298d84539a1f4a033eb2d817d0377f240a463e5e6bcf847422ce1f2d1176b
  /-- the device-class image key, never readable (factory; DESIGN CHOICE 0, log 3) (R444) -/
  imageKey : BitVec 256 := 0
  /-- the Derivios key held in the boot ROM: X, then Y, 48 bytes each, big-endian, byte 0 lowest (factory; DESIGN CHOICE 0, log 3) (R446) -/
  imageSigner : BitVec 768 := 0
  /-- the MODEL's own counter: position in the stream of free values (DESIGN CHOICE, log 2) -/
  freeCtr : Nat := 0
deriving DecidableEq, Repr

/-- Frames, legal time and its corrections (01, 07). -/
structure Clock where
  /-- frames since the model's origin, time without VAUX included; the clock of every duration (R21) -/
  tick : Nat := 0
  /-- reference cycles of the frame under way: 1249, 1250 or 1251 (R22) -/
  frameLen : Nat := 1250
  /-- legal time in frames since 2000-01-01 (seconds x 20000 + frame index); reset DESIGN CHOICE 0, log 4 (R229) -/
  legal : Nat := 0
  /-- LEGAL_TIME.VALID, 0 at manufacture (R231) -/
  valid : Bool := false
  /-- remaining slew in reference cycles of 40 ns (SLEW_LEFT in microseconds is slew/25) (R233) -/
  slew : Int := 0
  /-- corrections accepted as slews: tick of t0, magnitude in reference cycles (R232) -/
  slews : List (Nat × Nat) := []
  /-- step accepted and not yet made, in reference cycles (R234) -/
  pendingStep : Option Int := none
  /-- the TIME_SET of the pending step asked ACK_REQ (R137) -/
  stepAck : Bool := false
  /-- set from invalid time: given time in reference cycles, tick of t0 (R231) -/
  pendingSet : Option (Nat × Nat) := none
  /-- LEGAL_TIME.LAST_STEP_SEQ (R266) -/
  lastStepSeq : BitVec 64 := 0
  /-- tick at which the last SUPERFRAME_TICK ran, plus 1 (0: none yet) (R21) -/
  superDone : Nat := 0
deriving DecidableEq, Repr

/-- Supplies, hold-up and shutdown (03). -/
structure Power where
  /-- off (MONUMENT), on, or VAUX reversed (R75) -/
  supply : Supply := .on
  /-- SUPPLY_STATE.VAUX_MV (R82) -/
  vauxMv : Nat := 0
  /-- SUPPLY_STATE.HOLD_MV (R82) -/
  holdMv : Nat := 0
  /-- SUPPLY_STATE.VBAT_MV (R82) -/
  vbatMv : Nat := 0
  /-- SUPPLY_STATE.VBAT_LOW (R80) -/
  vbatLow : Bool := false
  /-- tick of the last VBAT_LOW event (R80) -/
  vbatLowAt : Nat := 0
  /-- tick of the last VBAT measurement (R80) -/
  vbatCheckAt : Nat := 0
  /-- surge detection on (R77) -/
  surge : Bool := false
  /-- tick at which detection went on (R77) -/
  surgeAt : Nat := 0
  /-- the VBAT domain's retention flag: true while kept (R81) -/
  retentionFlag : Bool := true
  /-- SUPPLY_STATE.RETENTION_LOST (R82) -/
  retentionLost : Bool := false
  /-- SUPPLY_STATE.HOLD_LOW (R82) -/
  holdLow : Bool := false
  /-- tick of the last READY (R82) -/
  readyAt : Nat := 0
  /-- power-fail warning raised (R83) -/
  pfw : Bool := false
  /-- tick of the warning (R83) -/
  pfwAt : Nat := 0
  /-- legal time of the warning, in frames (R471) -/
  pfwLegal : Nat := 0
  /-- VAUX at the warning, mV (R471) -/
  pfwVaux : Nat := 0
  /-- steps of Table 3-3 completed (R83) -/
  shutStep : Nat := 0
  /-- a warning preceded the last loss of VAUX or this reset (R102) -/
  pfSeen : Bool := false
  /-- the final save due before the reset or loss completed, true when none was due (R102) -/
  finalOk : Bool := true
  /-- the internal rails are up: the MODEL's own field (R55, R72, R94) -/
  rails : Bool := false
  /-- internal rail outside its window until boot step 1 ends: 0 none, 1 VCORE, 2 V3D, 3 V3A, 4 VP12, 5 VN12 (R90) -/
  railOut : Nat := 0
  /-- VAUX has been lost since the last READY (R107) -/
  vauxLost : Bool := false
  /-- VAUX is reversed and HOLD still carries the rails (R72, R78) -/
  reversed : Bool := false
  /-- VAUX is back before the shutdown sequence has ended: PF_RETURN follows step 6 (R86) -/
  returned : Bool := false
  /-- DIE_TEMP, 0.1 degC (R74) -/
  dieTemp : Int := 0
  /-- above 120 degC and not yet below 110 degC (R74) -/
  dieHot : Bool := false
deriving DecidableEq, Repr

/-- One RESET_CAUSE entry, Table 3-9 (03). -/
structure ResetCause where
  /-- SOURCES (R102) -/
  sources : BitVec 17 := 0
  /-- STUCK_RESET (R102) -/
  stuck : Bool := false
  /-- REACH (R102) -/
  reach : BitVec 2 := 0
  /-- SESSIONS_OPEN (R102) -/
  sessionsOpen : Bool := false
  /-- PFW_SEEN (R102) -/
  pfwSeen : Bool := false
  /-- FINAL_SAVE_OK (R102) -/
  finalSaveOk : Bool := false
  /-- HOLD_EXPIRED (R102) -/
  holdExpired : Bool := false
  /-- RELEASE_ORDER, oldest first, all releases (the first six are shown) (R102) -/
  order : List Nat := []
  /-- TIMESTAMP as legal frames (R102) -/
  stamp : Nat := 0
  /-- COUNT (R102) -/
  count : Nat := 0
deriving DecidableEq, Repr

/-- Reset controller and boot (02, 03). -/
structure Reset where
  /-- sources asserted now (numbers of Table 3-5); after POWER-ON reset: POR (R93) -/
  asserted : List Nat := [0]
  /-- sources asserted since the power-fail warning, for the next entry (R94; MODEL's own field) -/
  noted : List Nat := []
  /-- those released again before that entry, in order (R94; MODEL's own field) -/
  notedOrder : List Nat := []
  /-- where the boot stands: held after step k, released, running (R95) -/
  phase : BootPhase := .held 0
  /-- widest reach of the reset under way (R93) -/
  reachNow : BitVec 2 := 2
  /-- reach with which a reset not yet in effect will take effect: a POWER-ON reset past boot step 1 no longer counts (R93) -/
  takes : BitVec 2 := 0
  /-- tick of t0 of Table 3-6 (R95) -/
  bootAt : Nat := 0
  /-- tick of the first assertion of the reset under way (R89) -/
  assertedAt : Nat := 0
  /-- RESET_CAUSE, newest first, at most eight (R102) -/
  cause : List ResetCause := [({ sources := 1, reach := 2, finalSaveOk := true } : ResetCause)]
  /-- resets since the last POWER-ON, this one included (R97) -/
  count : Nat := 1
  /-- RESET_N reads low (R92) -/
  pinLow : Bool := false
  /-- tick from which the 10 s are counted (R92) -/
  pinLowAt : Nat := 0
  /-- tick from which a masked pin has been seen high (R92) -/
  pinHighAt : Nat := 0
  /-- RESET_N masked as stuck (R92) -/
  masked : Bool := false
  /-- legal time of a masking not yet reported (R92) -/
  stuckAt : Option Nat := none
  /-- STRAPS as sampled (before the sample every strap reads 1 by its pull-up, R59) (R62) -/
  straps : BitVec 8 := 0x3F
  /-- the debug port runs: DBGEN_N sampled 0 with the lock open (R63) -/
  debugRun : Bool := false
  /-- the one-way debug lock (kept); not set at manufacture (R63) -/
  debugLocked : Bool := false
  /-- BOOT_STRAP_REFUSED still to be emitted after READY (R61) -/
  bootRefusedEv : Bool := false
  /-- t0 of the session hold: tick of the first assertion of the CORE source (R100) -/
  hold : Option Nat := none
  /-- legal time of that t0 (R471) -/
  holdLegal : Nat := 0
  /-- outlets held and not yet confirmed (R100) -/
  holdMask : BitVec 8 := 0
  /-- RESET replied OK: reach, tick of the reply (R103) -/
  delayed : Option (BitVec 2 × Nat) := none
  /-- tick at which the reply to RESET was read (R103) -/
  delayedRead : Option Nat := none
  /-- RESET FORCE = 1 waits for the last session to close (R103) -/
  forced : Bool := false
  /-- mode at the reset (R107) -/
  modeBefore : Mode := .standby
deriving DecidableEq, Repr

/-- Operating mode (03). -/
structure ModeSt where
  /-- MODE.MODE (R106) -/
  mode : Mode := .standby
  /-- BENCHMARK_PENDING (R106) -/
  benchPending : Bool := false
  /-- a queued MODE_SET awaits completion; its ACK_REQ (R110) -/
  benchQueued : Option Bool := none
  /-- input of Table 3-13 that made COMMISSIONING pending, 0 none (R107) -/
  commInput : Nat := 0
  /-- INTERRUPTED_LEFT (R111) -/
  interruptedLeft : Nat := 0
  /-- a session was found open since the last READY (R108) -/
  foundOpen : Bool := false
  /-- reach of the reset that led into RECOVERY (R113) -/
  recoveryReach : BitVec 2 := 0
  /-- the exit records of a BENCHMARK that a reset ended are signed, and READY has not come (R473) -/
  benchClosed : Bool := false
  /-- an image activation is under way (R447) -/
  activating : Bool := false
deriving DecidableEq, Repr

/-- A reply packet waiting at the port (04). -/
structure Reply where
  /-- SEQ (R127) -/
  seq : Byte := 0
  /-- FLAGS (R127) -/
  flags : Byte := 1
  /-- OPCODE (R127) -/
  opcode : Nat := 0
  /-- STATUS (R135) -/
  status : Status := .ok
  /-- PAYLOAD (R127) -/
  payload : List Byte := []
deriving DecidableEq, Repr

/-- An event held or queued by the device (04, 15). -/
structure Event where
  /-- event SEQ (R136) -/
  seq : Byte := 0
  /-- event code (R462) -/
  code : Nat := 0
  /-- ACK_REQ (R137) -/
  ack : Bool := false
  /-- payload (R136) -/
  payload : List Byte := []
  /-- tick of the last delivery (R137) -/
  sentAt : Option Nat := none
  /-- waits to be sent again (R137) -/
  due : Bool := false
deriving DecidableEq, Repr

/-- An executed command kept for retransmission (04). -/
structure Kept where
  /-- SEQ (R131) -/
  seq : Byte := 0
  /-- CRC (R131) -/
  crc : BitVec 32 := 0
  /-- its reply (R131) -/
  reply : Reply := {}
deriving DecidableEq, Repr

/-- A write accepted and not yet in force (04). -/
structure Due where
  /-- OBJECT (R144) -/
  object : Nat := 0
  /-- INDEX (R144) -/
  index : Nat := 0
  /-- MASK as a number (R144) -/
  mask : Nat := 0
  /-- the new content (R144) -/
  value : Nat := 0
deriving DecidableEq, Repr

/-- The pads HIO0 to HIO3 in one clock of an SPI transaction: what the device drives, and on which of them (R119, R120). -/
structure Lanes where
  /-- levels of the driven pads, bit k for HIOk (R120) -/
  level : BitVec 4 := 0
  /-- pads that the device drives (R120) -/
  driven : BitVec 4 := 0
deriving DecidableEq, Repr

/-- A command whose reply waits for the arbiter or the next frame (04, 01). -/
structure Awaiting where
  /-- SEQ (R118) -/
  seq : Byte := 0
  /-- FLAGS (R118) -/
  flags : Byte := 0
  /-- OPCODE (R118) -/
  opcode : Nat := 0
  /-- CRC (R131) -/
  crc : BitVec 32 := 0
  /-- easement request that decides the reply (R36) -/
  req : Nat := 0
  /-- its payload, for an answer given in the next frame (R297) -/
  payload : List Byte := []
deriving DecidableEq, Repr

/-- Host port (04). -/
structure Port where
  /-- HOST_PORT.QUAD in force (R152) -/
  quad : Bool := false
  /-- HOST_PORT.BAUD in force (R152) -/
  baud : Nat := 0
  /-- HOST_PORT.ROLE_IDLE (kept; 600 when unset) (R152) -/
  roleIdle : BitVec 12 := 600
  /-- for each write not yet answered on the wire: SEQ of its reply, QUAD and BAUD that its delivery puts in force (R152) -/
  pendingLine : List (Byte × Bool × Nat) := []
  /-- writes replied OK that take effect at the next frame tick, oldest first (R144) -/
  due : List Due := []
  /-- tick before which the UART sends nothing after a change of BAUD (R152) -/
  quietAt : Nat := 0
  /-- replies pending, oldest first (R134) -/
  replies : List Reply := []
  /-- commands without a pending reply, at most 8 (R118) -/
  awaiting : List Awaiting := []
  /-- last 16 executed commands with their replies, newest first (R131) -/
  kept : List Kept := []
  /-- new events not yet delivered, in the order they arose (R134) -/
  fresh : List Event := []
  /-- delivered events not yet acknowledged (R137) -/
  flight : List Event := []
  /-- SEQ of the next new event (R136) -/
  evSeq : Byte := 0
  /-- plain events dropped and not yet reported by EVENT_LOST (R138) -/
  dropped : Nat := 0
  /-- plain events lost at a reset, to be reported after READY (R472) -/
  lostReset : Nat := 0
  /-- new sessions refused: 1,024 held, not yet below 896 (R137) -/
  blocked : Bool := false
  /-- DIAG_SUMMARY.ACK_DOWNGRADED (R463) -/
  downgraded : Nat := 0
  /-- CRC_ERRORS (R153) -/
  crcErrors : Nat := 0
  /-- LEN_ERRORS (R153) -/
  lenErrors : Nat := 0
  /-- GAP_DISCARDS (R153) -/
  gapDiscards : Nat := 0
  /-- OVERRUNS (R153) -/
  overruns : Nat := 0
  /-- DUPLICATES (R153) -/
  duplicates : Nat := 0
  /-- ACK_UNMATCHED (R153) -/
  ackUnmatched : Nat := 0
  /-- EVENTS_RESENT (R153) -/
  resent : Nat := 0
  /-- EVENTS_LOST (R153) -/
  lost : Nat := 0
  /-- UART: bytes since the SYNC of the packet in assembly, none while hunting (R126) -/
  rx : Option (List Byte) := none
  /-- bytes that the last READ or UART packet drove: the MODEL's view of HIO1 and HTXD (R122) -/
  out : List Byte := []
  /-- status byte put out on the code byte of the last SPI transaction, and what a STATUS transaction sent after it (R119) -/
  statusOut : List Byte := []
  /-- HIO pads clock by clock as the device drove them in the last SPI transaction, the code byte first: the MODEL's view (R119, R120) -/
  lanes : List Lanes := []
deriving DecidableEq, Repr

/-- A role challenge (04). -/
structure Challenge where
  /-- role (R146) -/
  role : Nat := 1
  /-- DEV_NONCE (R146) -/
  devNonce : BitVec 128 := 0
  /-- HOST_NONCE (R146) -/
  hostNonce : BitVec 128 := 0
  /-- tick of its t0 (R146) -/
  since : Nat := 0
deriving DecidableEq, Repr

/-- Access roles (04). -/
structure RoleSt where
  /-- open role, 0 PUBLIC to 4 VENDOR (R154) -/
  role : Nat := 0
  /-- tick of the last command (R148) -/
  lastCmd : Nat := 0
  /-- the valid challenge (R146) -/
  challenge : Option Challenge := none
  /-- role keys OPERATOR..VENDOR (kept); 0 not set; VERIFIER and VENDOR are loaded at manufacture with values not given (DESIGN CHOICE 3 and 4, log 3) (R149) -/
  keys : Vector (BitVec 256) 4 := #v[0, 0, 3, 4]
  /-- consecutive failures (kept) (R147) -/
  fails : Vector Nat 4 := Vector.replicate 4 0
  /-- end of the lockout in force (kept) (R147) -/
  lockedUntil : Vector (Option Nat) 4 := Vector.replicate 4 none
  /-- role whose failures FAILS shows (R154) -/
  lastFail : Nat := 0
deriving DecidableEq, Repr

/-- One monitored cell (01, 15). -/
structure CellState where
  /-- CELL_MAP.STATE (R468) -/
  state : BitVec 2 := 0
  /-- CORRECTIONS (R468) -/
  corrections : Nat := 0
  /-- ISOLATIONS (kept) (R468) -/
  isolations : Nat := 0
  /-- STATE_SINCE as legal frames (R468) -/
  since : Nat := 0
  /-- corrections in the superframe under way (R15) -/
  superCount : Nat := 0
deriving DecidableEq, Repr

/-- One fault report (01). -/
structure Report where
  /-- frame of the time stamp (R25) -/
  tick : Nat := 0
  /-- the same as legal frames (R25) -/
  legal : Nat := 0
  /-- reference cycle within the frame (R25) -/
  cycle : Nat := 0
  /-- class (R25) -/
  cls : Byte := 0
  /-- key (R25) -/
  key : Nat := 0
  /-- origin region (R25) -/
  region : Nat := 0
  /-- origin block (R25) -/
  block : Nat := 0
  /-- origin cell (R25) -/
  cell : Nat := 0
  /-- 0 CELL to 3 CHIP (R25) -/
  scope : Nat := 0
  /-- outlets affected (R25) -/
  outlets : BitVec 8 := 0
  /-- reaction called for (R461) -/
  reaction : Nat := 0
deriving DecidableEq, Repr

/-- A merge window of a region collector, or a chip window (01). -/
structure Merge where
  /-- collecting region (6 for the chip) (R27) -/
  region : Nat := 0
  /-- tick at which the window opened (R27) -/
  opened : Nat := 0
  /-- its members in order of arrival (R27) -/
  reports : List Report := []
deriving DecidableEq, Repr

/-- One closure (01, 15). -/
structure Closure where
  /-- CLOSURE_ID (R468) -/
  id : Nat := 0
  /-- root cause (R28) -/
  root : Report := {}
  /-- ECHO_COUNT (R28) -/
  echo : Nat := 0
  /-- REACTION (R461) -/
  reaction : Nat := 0
  /-- OUTLETS (R468) -/
  outlets : BitVec 8 := 0
  /-- DEPENDENT_COUNT (R29) -/
  dependents : Nat := 0
  /-- moment of its earliest report of scope REGION or CHIP, 2048 x tick + cycle (R29) -/
  opened : Nat := 0
  /-- tick of emission (R30) -/
  emitted : Nat := 0
  /-- regions covered while open (R29) -/
  openRegions : List Nat := []
  /-- open (scope REGION or CHIP) (R29) -/
  isOpen : Bool := false
  /-- LATE_ECHO (R30) -/
  lateEcho : Bool := false
  /-- LATE_COUNT (R468) -/
  lateCount : Nat := 0
  /-- CUT_SHORT (R466) -/
  cutShort : Bool := false
  /-- ACKED (R468) -/
  acked : Bool := false
  /-- FAULT_PRIMARY queued (R31) -/
  delivered : Bool := false
deriving DecidableEq, Repr

/-- A closure of scope REGION or CHIP before its emission (01). -/
structure OpenScope where
  /-- class (R29) -/
  cls : Byte := 0
  /-- key (R29) -/
  key : Nat := 0
  /-- moment of the earliest report of that scope, 2048 x tick + cycle (R29) -/
  opened : Nat := 0
  /-- regions covered (R29) -/
  regions : List Nat := []
  /-- dependents counted (R29) -/
  dependents : Nat := 0
deriving DecidableEq, Repr

/-- DEADLINE_STATS of one job instance and its run (01, 15). -/
structure JobStat where
  /-- MISSES (R468) -/
  misses : Nat := 0
  /-- MAX_RUN (R468) -/
  maxRun : Nat := 0
  /-- LATEST_END (R468) -/
  latest : Nat := 0
  /-- LAST_MISS as legal frames (R468) -/
  lastMiss : Nat := 0
  /-- length of the run of consecutive misses (R24) -/
  run : Nat := 0
  /-- tick of the last miss (R24) -/
  lastTick : Nat := 0
  /-- frames queued (R222) -/
  backlog : Nat := 0
deriving DecidableEq, Repr

/-- Cells, reports and closures (01, 15). -/
structure Faults where
  /-- cells that differ from a fresh cell, by cell index (R14) -/
  cells : List (Nat × CellState) := []
  /-- isolated blocks: region, block (R18) -/
  blocks : List (Nat × Nat) := []
  /-- outlets faulty in METROLOGY (R18) -/
  metFaulty : BitVec 8 := 0
  /-- outlets faulty in VEHICLE LINK (R18) -/
  linkFaulty : BitVec 8 := 0
  /-- outlets faulty or unavailable in SAFETY (R18) -/
  safetyFaulty : BitVec 8 := 0
  /-- Traverse block faulty (R388) -/
  traverse : Bool := false
  /-- reader block faulty (R18) -/
  reader : Bool := false
  /-- display block faulty (R417) -/
  display : Bool := false
  /-- arbiter faulty: every request answered REFUSE (R464) -/
  arbiter : Bool := false
  /-- pulse outputs reported faulty (R17) -/
  pulseFaulty : BitVec 4 := 0
  /-- contactor drivers whose cell is isolated (R17) -/
  driverCells : BitVec 24 := 0
  /-- safety inputs with an isolated channel (R17) -/
  inputCells : BitVec 8 := 0
  /-- test-pulse sources isolated (R17) -/
  pulseCells : BitVec 4 := 0
  /-- Plumb injection sources isolated (R17) -/
  plumbCells : BitVec 8 := 0
  /-- CAN FD controllers isolated (R17) -/
  canCells : BitVec 2 := 0
  /-- witness store faulty (R17, R18) -/
  witness : Bool := false
  /-- global safe state (R20) -/
  globalSafe : Bool := false
  /-- region merge windows (R27) -/
  windows : List Merge := []
  /-- chip windows (R28) -/
  chip : List Merge := []
  /-- open scopes not yet emitted (R29) -/
  scopes : List OpenScope := []
  /-- CLOSURE_STATUS, newest first (kept) (R468) -/
  closures : List Closure := []
  /-- successful retries of a block since reset: 64 x region + block, count (R16) -/
  retried : List (Nat × Nat) := []
  /-- cells isolated in a block since reset: 64 x region + block, count (R17) -/
  blockFails : List (Nat × Nat) := []
  /-- CLOSURE_ID of the newest closure, 0 none (kept) (R32) -/
  lastId : Nat := 0
  /-- job instances, by 8 x job + instance (R468) -/
  jobs : List (Nat × JobStat) := []
deriving DecidableEq, Repr

/-- An easement request waiting for evaluation (01). -/
structure Request where
  /-- the MODEL's name of the request (R35) -/
  id : Nat := 0
  /-- class (R35) -/
  cls : Nat := 0
  /-- requester (R35) -/
  requester : Nat := 0
  /-- internal peak, 0.01 W (R35) -/
  intPeak : Nat := 0
  /-- VAUX peak, 0.1 W (R35) -/
  vauxPeak : Nat := 0
  /-- frames, 1 to 65,535 (R35) -/
  duration : Nat := 1
  /-- hold, 0.1 W (R35) -/
  hold : Nat := 0
  /-- tick of the last frame at which it may begin (R35) -/
  latest : Nat := 0
  /-- earliest tick of its stagger slot (R41) -/
  slot : Nat := 0
  /-- made for a host command (R36) -/
  host : Bool := false
  /-- asks for a standing grant (R38) -/
  standing : Bool := false
deriving DecidableEq, Repr

/-- A granted or reserved operation (01). -/
structure Charge where
  /-- its request (R37) -/
  rq : Request := {}
  /-- tick at which it begins (R37) -/
  start : Nat := 0
  /-- it has begun (R40) -/
  begun : Bool := false
  /-- its start frame has been announced (GRANT, or DEFER frame reached) (R40) -/
  granted : Bool := false
  /-- it has left its peak phase (R40) -/
  inHold : Bool := false
  /-- EASEMENT_OVERRUN emitted (R40) -/
  overrun : Bool := false
deriving DecidableEq, Repr

/-- Easement arbiter (01). -/
structure Ease where
  /-- VAUX_BUDGET (kept; 1,500 when unset) (R42) -/
  vauxBudget : BitVec 16 := 1500
  /-- BANK_ON_VAUX (kept; 0b1111 when unset) (R42) -/
  bankOnVaux : BitVec 4 := 0xF
  /-- requests of the frame under way, in order of arrival (R37) -/
  requests : List Request := []
  /-- granted and reserved operations, in order of placement (R37) -/
  charges : List Charge := []
  /-- next request name (R35) -/
  nextId : Nat := 0
  /-- REFUSALS (R42) -/
  refusals : Nat := 0
  /-- tick of the restore point (R41) -/
  restoreAt : Option Nat := none
  /-- stagger origin t_S (R41) -/
  staggerAt : Option Nat := none
  /-- measured steady power of each load channel, in microwatts, updated each superframe (R34) -/
  loadSteady : Vector Nat 16 := Vector.replicate 16 0
deriving DecidableEq, Repr

/-- One decimator cell (05): sums of +1 for a 1 bit and -1 for a 0 bit, modulo 2^48. -/
structure Cell where
  /-- five integrators; the first three serve both paths (R164) -/
  ints : List (BitVec 48) := List.replicate 5 0
  /-- comb delays of the sinc3 path (R164) -/
  fastD : List (BitVec 48) := List.replicate 3 0
  /-- comb delays of the sinc5 path (R164) -/
  slowD : List (BitVec 48) := List.replicate 5 0
deriving DecidableEq, Repr

/-- One sinc5 value of a slot's history (05). -/
structure Slow where
  /-- value, 2^-40 of full scale (R164) -/
  v : Int := 0
  /-- the input was valid throughout its frame (R172) -/
  ok : Bool := false
  /-- a FAST overrange fell within its 256 cycles (R172) -/
  high : Bool := false
deriving DecidableEq, Repr

/-- One output of a fine path (05). -/
structure Sample where
  /-- output code (R158) -/
  code : Int := 0
  /-- bits [3:0] of Table 5-6 (R172) -/
  flags : Nat := 0
  /-- instant, in units of 16 modulator cycles since the model's origin (R168) -/
  instant : Nat := 0
deriving DecidableEq, Repr

/-- One modulator input (05). -/
structure ModInput where
  /-- MOD_STATUS.STUCK bit (R160) -/
  stuck : Bool := false
  /-- invalid by the read-back of MCLKn (R160) -/
  clockFault : Bool := false
  /-- tick from which the 400 clean frames are counted (R162) -/
  badAt : Nat := 0
  /-- invalid at some moment of the frame under way (R172) -/
  bad : Bool := true
  /-- instants of the disturbances of the last 128 frames, in units of 16 modulator cycles (R173) -/
  marks : List Nat := []
  /-- a FAST overrange fell in the superframe under way (R160) -/
  high : Bool := false
  /-- OVERRANGE in the last superframe (R192) -/
  overrange : Bool := false
  /-- its decimator cell (R164) -/
  cell : Cell := {}
  /-- last 63 bits of the stream, the newest highest; alternating where the checks begin afresh: the MODEL's own field (R160, R162) -/
  tail : BitVec 63 := 0x2AAAAAAAAAAAAAAA
  /-- last 79 FAST values, newest first (R174) -/
  fast : List Int := []
  /-- sinc5 values of its slot, newest first: 3.2 ms of history and the values on their way to the engine (R169, R222) -/
  slow : List Slow := []
  /-- last CONTROL output delivered (R172) -/
  control : Sample := {}
deriving DecidableEq, Repr

/-- TONE_STATE of an outlet (05, 06). -/
structure ToneState where
  /-- LAST_RATIO, ppm (R192) -/
  lastRatio : Int := 0
  /-- LAST_PHASE, 0.001 deg (R192) -/
  lastPhase : Int := 0
  /-- ratios of the last TONE_AVG valid windows, newest first (R190) -/
  ratios : List Int := []
  /-- TONE_VALID (R192) -/
  valid : Bool := false
  /-- in-phase and quadrature sums of the window under way, 2^-30 code (R190) -/
  sumI : Int := 0
  sumQ : Int := 0
  /-- outputs in those sums (R190) -/
  count : Nat := 0
  /-- every one of them VALID and SETTLED, with the tone enabled (R190) -/
  clean : Bool := true
  /-- bit k: the tone was enabled in the frame k frames back: the MODEL's own field (R190) -/
  onIn : BitVec 64 := 0
  /-- sums of a window that has ended and is not yet reported (R190) -/
  ended : Option (Int × Int × Bool) := none
  /-- consecutive valid windows with the phase outside PHASE_BAND (R218) -/
  phaseRun : Nat := 0
  /-- tick from which the 10 s without a valid window count: the last valid window, the boot or the enabling of the tone (R218) -/
  lastValidAt : Nat := 0
deriving DecidableEq, Repr

/-- A cross-fade under way (05). -/
structure Fade where
  /-- outlet (R182) -/
  outlet : Nat := 0
  /-- 0 CONTROL, 1 assignable DIAGNOSTIC (R182) -/
  path : Nat := 0
  /-- input (R182) -/
  input : Nat := 0
  /-- new source (R182) -/
  source : Nat := 0
  /-- input served before (R183) -/
  oldInput : Nat := 0
  /-- source before (R183) -/
  oldSource : Nat := 0
  /-- F (R183) -/
  len : Nat := 8
  /-- tick of the first output period after the reply (R183) -/
  since : Nat := 0
  /-- outputs made, i (R183) -/
  done : Nat := 0
  /-- command asked ACK_REQ (R137) -/
  ack : Bool := false
  /-- FADE_DONE still to be sent (R101) -/
  report : Bool := true
deriving DecidableEq, Repr

/-- The capture (05). -/
structure Capture where
  /-- outlet (R191) -/
  outlet : Nat := 0
  /-- input (R191) -/
  input : Nat := 0
  /-- path (R191) -/
  path : Nat := 0
  /-- records asked (R191) -/
  count : Nat := 1
  /-- trigger kind (R191) -/
  trigger : Nat := 0
  /-- tick of the start (R191) -/
  since : Nat := 0
  /-- first instant recorded, in units of 16 modulator cycles (R191) -/
  first : Nat := 0
  /-- instant of a step met by the trigger (R191) -/
  step : Option Nat := none
  /-- records made, newest first: value code, flags, instant (R191) -/
  recs : List (Int × Nat × Nat) := []
  /-- legal time of the first record (R194) -/
  legal : Nat := 0
  /-- trigger met (R191) -/
  recording : Bool := false
  /-- command asked ACK_REQ (R137) -/
  ack : Bool := false
  /-- CAPTURE_DONE still to be sent (R101) -/
  report : Bool := true
deriving DecidableEq, Repr

/-- One injection step that a correlator works on (05). -/
structure PlumbStep where
  /-- tick of its boundary b_j (R324) -/
  start : Nat := 0
  /-- legal frame of b_j (R192) -/
  legal : Nat := 0
  /-- number of the step since the first boundary (R324) -/
  number : Nat := 0
  /-- codes whose outlet has injected since the boundary (R187) -/
  injected : BitVec 8 := 0
  /-- sums of the window's BILLING outputs of inputs 3 and 4, by outlet (R185) -/
  sums : Vector (Int × Int) 8 := Vector.replicate 8 (0, 0)
  /-- outputs in those sums, by outlet: input 3, input 4 (R185) -/
  counts : Vector (Nat × Nat) 8 := Vector.replicate 8 (0, 0)
  /-- sums and count of all outputs of the step, by outlet: input 3, input 4 (R326) -/
  whole : Vector (Int × Int × Nat) 8 := Vector.replicate 8 (0, 0, 0)
  /-- outlets of which an output of a window was not VALID or carried OVERRANGE (R187) -/
  spoiled : BitVec 8 := 0
deriving DecidableEq, Repr

/-- One FIR engine (05, 06). -/
structure Engine where
  /-- first frame whose sinc5 values are not yet handed over, as a tick (R166, R222) -/
  taken : Nat := 0
  /-- next CONTROL frame to be made (R172) -/
  control : Nat := 0
  /-- next DIAGNOSTIC frame to be made (R172) -/
  diag : Nat := 0
  /-- BILLING periods not yet delivered, oldest first: tick and legal frame of their start (R172) -/
  billing : List (Nat × Nat) := []
  /-- a CONTROL output was delivered at this tick (R172) -/
  fresh : Bool := false
deriving DecidableEq, Repr

/-- PLUMB_CORR of a sensing outlet (05). -/
structure PlumbCorr where
  /-- PERIOD_END as legal frames (R192) -/
  periodEnd : Nat := 0
  /-- PERIOD_SEQ (R192) -/
  periodSeq : Nat := 0
  /-- VALID_MASK (R192) -/
  validMask : BitVec 8 := 0
  /-- CORR, pole P (R192) -/
  corrP : Vector Int 8 := Vector.replicate 8 0
  /-- CORR, pole N (R192) -/
  corrN : Vector Int 8 := Vector.replicate 8 0
  /-- WINDOW_MIN (R192) -/
  windowMin : Nat := 0
  /-- mean of input 3 over the period, output codes (R326) -/
  meanP : Int := 0
  /-- mean of input 4 over the period, output codes (R326) -/
  meanN : Int := 0
deriving DecidableEq, Repr

/-- Modulator inputs and filter chain (05). -/
structure FrontEnd where
  /-- MOD_CONFIG (kept; ENABLE 0x7B, SAMPLE_PHASE 2, STEP_THRESHOLD 50 when unset) (R192) -/
  modConfig : Vector (BitVec 32) 8 := Vector.replicate 8 0x0032027B
  /-- TONE_CONFIG (kept; ENABLE 1, TONE_AVG 60,000 when unset) (R192) -/
  toneConfig : Vector (BitVec 32) 8 := Vector.replicate 8 0x00EA6001
  /-- inputs, 8 x outlet + input (R160) -/
  inputs : Vector ModInput 64 := Vector.replicate 64 {}
  /-- INVALID_COUNT (R192) -/
  invalidCount : Vector Nat 8 := Vector.replicate 8 0
  /-- TONE_STATE (R192) -/
  tone : Vector ToneState 8 := Vector.replicate 8 {}
  /-- LAST_SYNC as legal frames (R192) -/
  lastSync : Nat := 0
  /-- LAST_SOURCE (R192) -/
  lastSource : Nat := 0
  /-- ARMED (R192) -/
  armed : Bool := false
  /-- the arming SYNC asked ACK_REQ (R137) -/
  armAck : Bool := false
  /-- SCHEDULED: legal frame of the pending SYNC (R192) -/
  scheduled : Option Nat := none
  /-- the scheduled SYNC asked ACK_REQ (R137) -/
  syncAck : Bool := false
  /-- tick of an edge taken, its reset still to come (R178) -/
  edgeAt : Option Nat := none
  /-- MSYNC_IGNORED (R192) -/
  msyncIgnored : Nat := 0
  /-- MSYNC_UNARMED (R192) -/
  msyncUnarmed : Nat := 0
  /-- PATH_STATE bits [29:0] (kept; DIAG_INPUT 3, sources 0 when unset) (R192) -/
  paths : Vector (BitVec 32) 8 := Vector.replicate 8 0x03000000
  /-- cross-fades under way (R183) -/
  fades : List Fade := []
  /-- COEF_SET (kept; empty when unset) (R192) -/
  coefs : Vector (BitVec 536) 8 := Vector.replicate 8 0
  /-- PLUMB_CORR (R192) -/
  plumb : Vector PlumbCorr 8 := Vector.replicate 8 {}
  /-- the capture under way (R191) -/
  capture : Option Capture := none
  /-- capture buffer: value code, flags, instant of each record (R191) -/
  buffer : List (Nat × Nat × Nat) := []
  /-- FIR engines (R167) -/
  engines : Vector Engine 4 := Vector.replicate 4 {}
  /-- tick of the last decimator reset (R176) -/
  resetAt : Nat := 0
  /-- tick at which an edge on MSYNC_N came in a frame in which a closing record was signed (R177) -/
  closedAt : Option Nat := none
  /-- step of the code period under way (R324) -/
  plumbStep : Nat := 0
  /-- injection steps of the last two code periods, newest first (R185, R186) -/
  steps : List PlumbStep := []
  /-- code periods ended since the last decimator reset (R324) -/
  plumbPeriod : Nat := 0
  /-- tick of the first step boundary after the last decimator reset (R324) -/
  plumbSince : Option Nat := none
  /-- MCLKn stopped by loss of the modulator PLL (R161) -/
  mclkStopped : Bool := false
deriving DecidableEq, Repr

/-- Accumulators, each in 2^-32 microwatt-hours (06). -/
structure Acc where
  /-- raw import (R200) -/
  rawImp : Nat := 0
  /-- raw export (R200) -/
  rawExp : Nat := 0
  /-- compensated import (R200) -/
  cmpImp : Nat := 0
  /-- compensated export (R200) -/
  cmpExp : Nat := 0
deriving DecidableEq, Repr

/-- The shares of one period, one per frame (06). -/
structure Share where
  /-- raw share, 2^-32 uWh (R197) -/
  raw : Nat := 0
  /-- compensated share (R204) -/
  cmp : Nat := 0
  /-- import (R198) -/
  imp : Bool := true
  /-- shares still to be added (R197) -/
  left : Nat := 0
  /-- current instant, legal frame (R197) -/
  instant : Nat := 0
  /-- tick of the current instant (R197) -/
  tick : Nat := 0
  /-- frame in which the next of them is due, as a tick (R197) -/
  due : Nat := 0
deriving DecidableEq, Repr

/-- The delivered BILLING outputs of inputs 0 and 1 of one period (05, 06). -/
structure Bill where
  /-- calibrated voltage, 2^-40 mV (R195, R265) -/
  v : Int := 0
  /-- calibrated current, 2^-40 mA (R195, R265) -/
  i : Int := 0
  /-- VALID of input 0 (R203) -/
  vOk : Bool := false
  /-- VALID of input 1 (R203) -/
  iOk : Bool := false
  /-- OVERRANGE (R203) -/
  overrange : Bool := false
  /-- legal frame of the current instant (R197) -/
  legal : Nat := 0
  /-- tick of the current instant (R197) -/
  tick : Nat := 0
  /-- tick of the period's start, frame 5m (R197) -/
  start : Nat := 0
  /-- its period has been computed (R197) -/
  used : Bool := false
deriving DecidableEq, Repr

/-- Energy engine of one outlet (06). -/
structure EnergyOut where
  /-- ENERGY_ACC (kept) (R225) -/
  acc : Acc := {}
  /-- STANDING (kept), 2^-32 uWh (R225) -/
  standing : Nat := 0
  /-- UNMETERED (kept), 2^-32 uWh (R225) -/
  unmetered : Nat := 0
  /-- ENERGY_NOW.POWER, W (R225) -/
  power : Int := 0
  /-- VOLTAGE, mV (R225) -/
  voltage : Int := 0
  /-- CURRENT, mA (R225) -/
  current : Int := 0
  /-- INSTANT as legal frames (R225) -/
  instant : Nat := 0
  /-- last valid v*, 2^-40 mV (R203) -/
  lastV : Int := 0
  /-- last BILLING outputs delivered, newest first, at most 12 (R196, R222) -/
  hist : List Bill := []
  /-- shares waiting to be added, oldest first (R222) -/
  queue : List Share := []
  /-- BACKLOG (R225) -/
  backlog : Nat := 0
  /-- MAX_BACKLOG (R225) -/
  maxBacklog : Nat := 0
  /-- CREEP_PERIODS (R225) -/
  creep : Nat := 0
  /-- ENERGY_DIAG.INVALID_PERIODS (R225) -/
  invalid : Nat := 0
  /-- invalid periods since manufacture (kept) (R208) -/
  invalidEver : Nat := 0
  /-- CLAMPED_PERIODS (R225) -/
  clamped : Nat := 0
  /-- DEADLINE_MISSES (R225) -/
  misses : Nat := 0
  /-- METER_WARN bits [31:0] (kept) (R225) -/
  warn : BitVec 32 := 0
  /-- legal frames at which each sticky flag of METER_WARN was set (kept) (R225) -/
  warnAt : Vector Nat 6 := .replicate 6 0
  /-- tick since when current has flowed without a session (R207) -/
  standSince : Option Nat := none
  /-- tick of the last STANDING_ENERGY (R207) -/
  standEv : Option Nat := none
  /-- d of the superframes in the mean, newest first (R219) -/
  divs : List Int := []
  /-- LAST_DIV, ppm (R225) -/
  lastDiv : Int := 0
  /-- WIT_VALID (R225) -/
  witValid : Bool := false
  /-- Q_BILL, mC (R225) -/
  qBill : Int := 0
  /-- Q_WIT, mC (R225) -/
  qWit : Int := 0
  /-- sum of i over the periods of the superframe under way, 2^-40 mA (R219) -/
  qBillSum : Int := 0
  /-- sum of the witness current, 2^-40 mA (R219) -/
  qWitSum : Int := 0
  /-- superframe of those sums, legal frames / 400 (R219) -/
  qAt : Nat := 0
  /-- every witness output in them was VALID (R219) -/
  qOk : Bool := false
  /-- sums of the last whole superframe, not yet compared (R219) -/
  qDone : Option (Int × Int × Bool) := none
deriving DecidableEq, Repr

/-- One pulse output (06). -/
structure Pulse where
  /-- PULSE_ACC (R213) -/
  acc : Nat := 0
  /-- PULSE_PENDING (R215) -/
  pending : Nat := 0
  /-- a pulse owed in the last energy job starts at the next free tick (R214) -/
  owed : Bool := false
  /-- the pad is low (R214) -/
  low : Bool := false
  /-- tick at which the pulse ends (R214) -/
  endAt : Nat := 0
  /-- tick of the last release (R215) -/
  relAt : Nat := 0
  /-- width of the pulse owed (R214) -/
  width : Nat := 1
  /-- PULSE_BACKLOG emitted for this excess (R215) -/
  backlogEv : Bool := false
deriving DecidableEq, Repr

/-- An open session (03, 06, 07). -/
structure Session where
  /-- session identifier (R256) -/
  id : BitVec 64 := 0
  /-- start instant, legal frame (R206) -/
  startL : Nat := 0
  /-- start instant, tick (R206) -/
  startT : Nat := 0
  /-- close instant: tick, legal frame (R206) -/
  closeT : Option (Nat × Nat) := none
  /-- session energy (R205) -/
  acc : Acc := {}
  /-- energy per tariff and direction of closed windows, basis kind (R242) -/
  perTariff : Vector Nat 16 := Vector.replicate 16 0
  /-- WIN_IMP (R242) -/
  winImp : Nat := 0
  /-- WIN_EXP (R242) -/
  winExp : Nat := 0
  /-- a clock step fell in its span (R253) -/
  adjusted : Bool := false
  /-- EXPORT of the authorization (R297) -/
  exportOk : Bool := false
  /-- MAX_IMPORT, kW (R297) -/
  maxImp : Nat := 0
  /-- MAX_EXPORT, kW (R297) -/
  maxExp : Nat := 0
deriving DecidableEq, Repr

/-- Billing state of a save slot, Table 7-1 (07). -/
structure BillSave where
  /-- ACTIVE_TARIFF (R243) -/
  active : Nat := 255
  /-- TIME_VALID (R243) -/
  timeValid : Bool := false
  /-- ADJUSTED (R243) -/
  adjusted : Bool := false
  /-- TARIFF_SINCE (R243) -/
  since : Nat := 0
  /-- SUB_START (R243) -/
  subStart : Nat := 0
  /-- BOUNDARY_NO (R243) -/
  boundary : Nat := 0
  /-- SLEW_LEFT (R243) -/
  slew : Int := 0
  /-- TAR_ACTIVE, TAR_FRAC, index 2u + d (R243) -/
  regs : Vector Nat 18 := Vector.replicate 18 0
  /-- SUB_ENERGY, SUB_FRAC, index 2u + d (R243) -/
  subs : Vector Nat 18 := Vector.replicate 18 0
  /-- open-session state (R243) -/
  sessions : Vector (Option Session) 8 := Vector.replicate 8 none
  /-- SES_FLAGS (R243) -/
  sesFlags : Vector (BitVec 8) 8 := Vector.replicate 8 0
deriving DecidableEq, Repr

/-- A save slot, Table 6-2 (06, 07): the registers it holds. -/
structure Slot where
  /-- SLOT_SEQ (R208) -/
  seq : Nat := 0
  /-- KIND (R208) -/
  kind : Nat := 0
  /-- SAVED_AT as legal frames (R208) -/
  savedAt : Nat := 0
  /-- ACC_TO (R208) -/
  accTo : Nat := 0
  /-- PFW (R208) -/
  pfw : Bool := false
  /-- INSTANT_TO (R208) -/
  instantTo : Nat := 0
  /-- RAW_IMP to FRAC of each outlet (R208) -/
  accs : Vector Acc 8 := Vector.replicate 8 {}
  /-- STANDING (R208) -/
  standing : Vector Nat 8 := Vector.replicate 8 0
  /-- UNMETERED (R208) -/
  unmetered : Vector Nat 8 := Vector.replicate 8 0
  /-- INVALID_PERIODS (R208) -/
  invalid : Vector Nat 8 := Vector.replicate 8 0
  /-- PULSE_ACC, PULSE_PENDING (R208) -/
  pulses : Vector (Nat × Nat) 4 := Vector.replicate 4 (0, 0)
  /-- BILLING_STATE (R243) -/
  billing : BillSave := {}
  /-- commit word missing (R208) -/
  torn : Bool := false
deriving DecidableEq, Repr

/-- Energy engine (06). -/
structure Energy where
  /-- ENERGY_CONFIG (kept; 0 when unset) (R225) -/
  config : Vector (BitVec 64) 8 := Vector.replicate 8 0
  /-- engine of each outlet (R205) -/
  outs : Vector EnergyOut 8 := Vector.replicate 8 {}
  /-- PULSE_CONFIG (kept; SOURCE k, ENABLE 1, constants 1,000 when unset) (R225) -/
  pulseConfig : Vector (BitVec 64) 4 := #v[0x3E80003E840, 0x3E80003E841, 0x3E80003E842, 0x3E80003E843]
  /-- pulse outputs (R213) -/
  pulses : Vector Pulse 4 := Vector.replicate 4 {}
  /-- VERIFY_CONFIG (kept; 200, 2,000, 0, 50, 50 when unset) (R225) -/
  verify : Vector (BitVec 64) 8 := Vector.replicate 8 0x3200320007D000C8
  /-- save ring (kept) (R208) -/
  ring : Vector (Option Slot) 64 := Vector.replicate 64 none
  /-- SLOT_SEQ of the last slot written (kept) (R208) -/
  slotSeq : Nat := 0
  /-- LAST_SLOT (kept) (R225) -/
  lastSlot : Nat := 0
  /-- LAST_KIND (kept) (R225) -/
  lastKind : Nat := 0
  /-- LAST_TIME (kept) (R225) -/
  lastTime : Nat := 0
  /-- TAIL_LOST (kept) (R225) -/
  tailLost : Bool := false
  /-- TORN_SEEN (R225) -/
  tornSeen : Bool := false
  /-- content of the ring place before the last slot was written there (R470) -/
  overwritten : Option Slot := none
  /-- content of the superframe save under way, taken before the energy job (R208) -/
  taken : Option Slot := none
  /-- RESTORED_SLOT (kept) (R225) -/
  restored : Nat := 0
  /-- ENERGY_RESTORED still to be emitted (R211) -/
  restoredEv : Bool := false
  /-- accumulation stopped after the tail save (R209) -/
  stopped : Bool := false
  /-- legal frame in which the last share was added (R208) -/
  lastShare : Nat := 0
  /-- legal frame of its current instant (R208) -/
  lastInstant : Nat := 0
deriving DecidableEq, Repr

/-- Maximum demand of one outlet or the total (07). -/
structure DemandU where
  /-- MAX_IMP, W (R266) -/
  maxImp : Nat := 0
  /-- MAX_IMP_AT (R266) -/
  maxImpAt : Nat := 0
  /-- MAX_EXP (R266) -/
  maxExp : Nat := 0
  /-- MAX_EXP_AT (R266) -/
  maxExpAt : Nat := 0
  /-- LAST_IMP (R266) -/
  lastImp : Nat := 0
  /-- LAST_EXP (R266) -/
  lastExp : Nat := 0
  /-- LAST_END (R266) -/
  lastEnd : Nat := 0
  /-- LAST_PARTIAL (R266) -/
  lastPartial : Bool := false
  /-- LAST_ADJUSTED (R266) -/
  lastAdjusted : Bool := false
  /-- MAX_IMP_ADJUSTED (R266) -/
  maxImpAdj : Bool := false
  /-- MAX_EXP_ADJUSTED (R266) -/
  maxExpAdj : Bool := false
  /-- RESET_AT (R266) -/
  resetAt : Nat := 0
  /-- MAX_IMP_BND (R266) -/
  maxImpBnd : Nat := 0
  /-- MAX_EXP_BND (R266) -/
  maxExpBnd : Nat := 0
  /-- energy of the open sub-interval, import, 2^-32 uWh (R244) -/
  subImp : Nat := 0
  /-- the same, export (R244) -/
  subExp : Nat := 0
  /-- energies of the closed sub-intervals of the window, newest first (R244) -/
  closed : List (Nat × Nat) := []
deriving DecidableEq, Repr

/-- TARIFF_CALENDAR entry (07). -/
structure CalEntry where
  /-- AT (R266) -/
  start : Nat := 0
  /-- TARIFF (R266) -/
  tariff : Nat := 0
  /-- STATE (R266) -/
  state : Nat := 0
  /-- announced while no tariff was active, for the next superframe tick (R236) -/
  soon : Bool := false
deriving DecidableEq, Repr

/-- A sealed record, Table 7-3 (07). -/
structure Record where
  /-- TYPE (R254) -/
  type : Nat := 0
  /-- OUTLET (R253) -/
  outlet : Nat := 255
  /-- SEQUENCE (R255) -/
  seq : Nat := 0
  /-- SESSION_ID bytes (R253) -/
  session : BitVec 64 := 0
  /-- TIME as legal frames (R253) -/
  time : Nat := 0
  /-- TIME_STATUS (R253) -/
  timeStatus : BitVec 16 := 0
  /-- METER_FLAGS (R253) -/
  meterFlags : BitVec 32 := 0
  /-- VALUES (R253) -/
  values : BitVec 256 := 0
  /-- TARIFF_VALUES (R253) -/
  tariffs : BitVec 1024 := 0
  /-- SIG_R, SIG_S (R257) -/
  sig : BitVec 512 := 0
deriving DecidableEq, Repr

/-- A demand window closed and not yet evaluated (07). -/
structure Eval where
  /-- window end as legal frames (R245) -/
  instant : Nat := 0
  /-- tick of the window end (R245) -/
  tick : Nat := 0
  /-- cut short by a step (R247) -/
  cut : Bool := false
  /-- began at a step (R251) -/
  adjusted : Bool := false
  /-- overlaps BENCHMARK: not evaluated (R246) -/
  frozen : Bool := false
  /-- import and export of the window by unit, late shares added (R245) -/
  energy : Vector (Nat × Nat) 9 := Vector.replicate 9 (0, 0)
  /-- import and export of the sub-interval that closed, by unit (R243) -/
  own : Vector (Nat × Nat) 9 := Vector.replicate 9 (0, 0)
  /-- L of the window, minutes (R247) -/
  minutes : Nat := 15
deriving DecidableEq, Repr

/-- A change of the active tariff at a boundary (07). -/
structure TariffChange where
  /-- active tariff before (R249) -/
  before : Nat := 255
  /-- active tariff after (R249) -/
  after : Nat := 255
  /-- boundary instant as legal frames (R238) -/
  instant : Nat := 0
  /-- by the tariff re-evaluation of a clock step (R251) -/
  byStep : Bool := false
deriving DecidableEq, Repr

/-- A boundary reached and not yet committed (07). -/
structure Commit where
  /-- instant as legal frames (R249) -/
  instant : Nat := 0
  /-- tick of the instant (R249) -/
  tick : Nat := 0
  /-- active tariff before (R249) -/
  before : Nat := 255
  /-- active tariff after (R249) -/
  after : Nat := 255
  /-- closes a demand sub-interval (R249) -/
  window : Bool := false
  /-- switches whose TARIFF_SWITCH records are due, in order (R238, R249) -/
  switches : List TariffChange := []
  /-- a clock step: the same frame in old time, step in frames (R234) -/
  step : Option (Nat × Int) := none
  /-- first frame after the step, new time (R254) -/
  stepAt : Nat := 0
  /-- correction of the step in ms (R268) -/
  stepMs : Int := 0
  /-- its TIME_SET asked ACK_REQ (R137) -/
  stepAck : Bool := false
  /-- a demand reset: its ACK_REQ, its instant (R248) -/
  reset : Option (Bool × Nat) := none
  /-- rebuilt at boot (R252) -/
  rebuilt : Bool := false
  /-- TARIFF_SINCE before the boundary (R243) -/
  since0 : Nat := 0
  /-- SUB_START before the boundary (R243) -/
  subStart0 : Nat := 0
  /-- ADJUSTED before the boundary (R243) -/
  adjusted0 : Bool := false
  /-- a clock step fell in the tariff window before the boundary (R253) -/
  tariffAdj0 : Bool := false
deriving DecidableEq, Repr

/-- The last committed boundary journal record (07). -/
structure Boundary where
  /-- boundary number (R249) -/
  no : Nat := 0
  /-- instant (R249) -/
  instant : Nat := 0
  /-- every TARIFF_REG value (R249) -/
  regs : Vector Nat 144 := Vector.replicate 144 0
  /-- active tariff before (R249) -/
  before : Nat := 255
  /-- active tariff after (R249) -/
  after : Nat := 255
  /-- TARIFF_SINCE after it (R249) -/
  since : Nat := 0
  /-- SUB_START after it (R249) -/
  subStart : Nat := 0
  /-- ADJUSTED after it (R249) -/
  adjusted : Bool := false
  /-- windows closed and maxima (R249) -/
  demand : Vector DemandU 9 := Vector.replicate 9 {}
  /-- per-tariff values, WIN_IMP and WIN_EXP (R249) -/
  sessions : Vector (Option Session) 8 := Vector.replicate 8 none
deriving DecidableEq, Repr

/-- Tariffs and demand (07). -/
structure Billing where
  /-- BILLING_CONFIG (kept; BASIS 1, SLIDING 0, INTERVAL 15, SUB 1 when unset) (R266) -/
  config : BitVec 32 := 0x00010F01
  /-- TARIFF (kept; empty when unset) (R266) -/
  tariffs : Vector (BitVec 384) 8 := Vector.replicate 8 0
  /-- device-wide version counter (kept) (R235) -/
  version : Nat := 0
  /-- TARIFF_CALENDAR (kept) (R266) -/
  calendar : Vector CalEntry 64 := Vector.replicate 64 {}
  /-- TARIFF_STATE.ACTIVE (kept), none (R266) -/
  active : Nat := 255
  /-- DISPLAYED_VERSION (kept) (R266) -/
  displayed : Nat := 0
  /-- SINCE (kept) (R266) -/
  since : Nat := 0
  /-- PRICE_MISMATCH (R239) -/
  mismatch : Bool := false
  /-- ANNOUNCED (R239) -/
  announced : Bool := false
  /-- TARIFF_REG, index 16u + 2t + d, 2^-32 uWh (kept) (R241) -/
  regs : Vector Nat 144 := Vector.replicate 144 0
  /-- DEMAND_STATE (R266) -/
  demand : Vector DemandU 9 := Vector.replicate 9 {}
  /-- SUB_START (R243) -/
  subStart : Nat := 0
  /-- open sub-interval began at a clock step (R251) -/
  adjusted : Bool := false
  /-- window ends still to come whose window began at a clock step (R247) -/
  adjLeft : Nat := 0
  /-- window ends still to come whose window overlaps BENCHMARK (R246) -/
  bench : Nat := 0
  /-- a clock step fell in the open tariff window (R253) -/
  tariffAdj : Bool := false
  /-- a clock step since the last demand reset (R253) -/
  resetAdj : Bool := false
  /-- windows closed and not yet evaluated, oldest first (R245) -/
  evals : List Eval := []
  /-- boundaries reached whose journal record is not yet committed, oldest first (R249) -/
  commits : List Commit := []
  /-- BOUNDARY_NO (kept) (R249) -/
  boundary : Nat := 0
  /-- last committed boundary record (journal) (R249) -/
  last : Boundary := {}
  /-- DEMAND_RESET accepted; its ACK_REQ (R248) -/
  resetDue : Option Bool := none
  /-- open sessions (R105) -/
  sessions : Vector (Option Session) 8 := Vector.replicate 8 none
  /-- next session number (kept), starts at 1 (R256) -/
  sessionCtr : Nat := 1
  /-- BENCHMARK ended by a warning or a reset: exit records due at boot (R473) -/
  benchLost : Bool := false
deriving DecidableEq, Repr

/-- Seal, tamper and calibration (07). -/
structure Seal where
  /-- LOOP_INTACT; reset DESIGN CHOICE false (the Default column gives 0) (R266) -/
  loopIntact : Bool := false
  /-- tick since when the loop has read intact (R264) -/
  intactAt : Nat := 0
  /-- SEAL_BROKEN (kept); DESIGN CHOICE false at manufacture, log 4 (R266) -/
  broken : Bool := false
  /-- UNVERIFIED (kept); DESIGN CHOICE false at manufacture, log 4 (R266) -/
  unverified : Bool := false
  /-- TAMPER (kept) (R266) -/
  tamper : Bool := false
  /-- OPEN_COUNT (kept) (R266) -/
  openCount : Nat := 0
  /-- BROKEN_AT (kept) (R266) -/
  brokenAt : Nat := 0
  /-- BROKEN_SEQ (kept) (R266) -/
  brokenSeq : Nat := 0
  /-- RESEALED_AT (kept) (R266) -/
  resealedAt : Nat := 0
  /-- RESEAL_SEQ (kept) (R266) -/
  resealSeq : Nat := 0
  /-- MET_HASH (kept; at reset the hash of the objects as this State.reset has them, log 4) (R263, R266) -/
  metHash : BitVec 256 := 0xda1aac082f88bccdb561c53cb9d023b004839833fef801f46847bf74d8d268ee#256
  /-- causes and times of SEAL_BROKEN records due at the next boot step 3, oldest first (R262) -/
  unrecorded : List (Nat × Nat) := []
  /-- a debug access attempt has been recorded since the last re-seal (R63) -/
  attemptDone : Bool := false
  /-- CAL (kept; gains and offsets 0, V_FS 1,000 when unset; TONE_REF has no value when unset: DESIGN CHOICE 0, log 4) (R266) -/
  cal : Vector (BitVec 608) 8 := Vector.replicate 8 (1000#608 <<< 512)
deriving DecidableEq, Repr

/-- Sequence counter and legal log (07, 14). -/
structure Log where
  /-- next SEQUENCE (kept), starts at 1 (R255) -/
  seq : Nat := 1
  /-- records signed and not yet on NAND, in sequence (R258) -/
  journal : List Record := []
  /-- records of the legal log on NAND, newest first (R258) -/
  stored : List Record := []
  /-- highest sequence stored in the legal log (journal or NAND) (R258) -/
  storedHi : Nat := 0
  /-- ACKED_SEQ (kept) (R266) -/
  acked : Nat := 0
  /-- OLDEST_SEQ (kept) (R266) -/
  oldest : Nat := 1
  /-- overflow area (R260) -/
  overflow : List Record := []
  /-- NEARLY_FULL (R266) -/
  nearlyFull : Bool := false
  /-- FULL (R266) -/
  full : Bool := false
  /-- GAP (R266) -/
  gap : Bool := false
  /-- boundaries not recorded (R260) -/
  gapCount : Nat := 0
  /-- tick of the last RECORDS_PENDING (R268) -/
  pendingEv : Option Nat := none
  /-- sequence ranges whose NAND unit is uncorrectable (R431) -/
  lostUnits : List (Nat × Nat) := []
deriving DecidableEq, Repr

/-- One contactor driver (09). -/
structure Driver where
  /-- KDRV_STATE.STATE: 0 off, 1 pull-in, 2 holding, 3 held off by fault, 4 welded (R339) -/
  state : Nat := 0
  /-- CMD, commanded on (R339) -/
  cmd : Bool := false
  /-- MAIN_OPEN, mirror input reads on (R339) -/
  mainOpen : Bool := false
  /-- FAULT, cause of Table 9-2 (R311) -/
  fault : Nat := 0
  /-- CURRENT, mA (R339) -/
  current : Nat := 0
  /-- OPERATIONS (kept) (R339) -/
  ops : Nat := 0
  /-- tick at which pull-in began (R307) -/
  pullAt : Nat := 0
  /-- tick of the last start of pull-in or switch-off (R310) -/
  changedAt : Nat := 0
  /-- mirror reading still expected after a change of command: on or off (R310) -/
  expect : Option Bool := none
  /-- tick of the PERMIT release whose 5 ms off timer runs (R309) -/
  hwOff : Option Nat := none
  /-- easement request for pull-in under way (R307) -/
  req : Option Nat := none
  /-- which of the two switches the next off-pulse tests (R334) -/
  testSwitch : Bool := false
deriving DecidableEq, Repr

/-- A Safe Ramp Stop under way (09). -/
structure Ramp where
  /-- tick of the demand (R321) -/
  t0 : Nat := 0
  /-- the same as legal frames (R321) -/
  legal : Nat := 0
  /-- T in frames, from t0 to the end of the ramp (R321) -/
  len : Nat := 0
  /-- threshold, mA (R321) -/
  threshold : Nat := 2000
  /-- magnitude of I at t0, mA (R321) -/
  start : Nat := 0
  /-- RAMP_LATE raised (R321) -/
  late : Bool := false
deriving DecidableEq, Repr

/-- DC session sequence of one outlet (09). -/
structure Seq where
  /-- SEQ_STATE.STATE, Table 9-4 (R315) -/
  state : Nat := 0
  /-- LAST_CAUSE (R339) -/
  lastCause : Nat := 0
  /-- RAMP_LATE (R339) -/
  late : Bool := false
  /-- FORCED (R339) -/
  forced : Bool := false
  /-- U_CC, V (R316) -/
  ucc : Nat := 0
  /-- GROUP_LIMIT, A (R339) -/
  limit : Nat := 0
  /-- tick at which the state was entered (R315) -/
  since : Nat := 0
  /-- voltage target of PRECHARGE, V (R315) -/
  target : Nat := 0
  /-- the vehicle's current request, 0.1 A (R318) -/
  request : Int := 0
  /-- consecutive frames in which precharge matches (R317) -/
  matchRun : Nat := 0
  /-- consecutive frames with V_VEH and V_BUS more than 5 % of V_FS apart (R317) -/
  apartRun : Nat := 0
  /-- consecutive Plumb results below fault taken near U_CC (R316) -/
  passRun : Nat := 0
  /-- the later of them was a warning (R316) -/
  warned : Bool := false
  /-- tick since when V_VEH has been within 5 % of U_CC in CABLE_CHECK (R316) -/
  ccSince : Option Nat := none
  /-- the running Safe Ramp Stop (R321) -/
  ramp : Option Ramp := none
  /-- tick and legal frame in which the pair was confirmed open, or FB_OPEN_MS expired (R320) -/
  opened : Option (Nat × Nat) := none
  /-- voltage decay test under way (R320) -/
  discharge : Bool := false
  /-- V_BUS when that test began, mV (R320) -/
  busAt : Int := 0
  /-- V_VEH has stayed within 20 V of V_BUS since (R320) -/
  follows : Bool := false
  /-- a matrix contactor of the group is welded: the outlet is LOCKED at the end of WELD_CHECK (R320) -/
  welded : Bool := false
  /-- a fast stop in WELD_CHECK: modules are in mode off for the rest of it (R322) -/
  halted : Bool := false
  /-- legal frame of a fast stop under way (R332) -/
  fastAt : Option Nat := none
  /-- last CONTROL output of input 5 (V_VEH), mV (R317) -/
  vVeh : Int := 0
  /-- last CONTROL output of input 1, mA (R321) -/
  iOut : Int := 0
  /-- last CONTROL output of input 6, mV (R317) -/
  vBus : Int := 0
  /-- hotter plug sensor, 0.1 °C (R318) -/
  plug : Int := 0
deriving DecidableEq, Repr

/-- INSULATION of one outlet (09). -/
structure Insul where
  /-- R_P, 0.1 kΩ (R339) -/
  rp : Nat := 0
  /-- R_N (R339) -/
  rn : Nat := 0
  /-- R_PAR (R339) -/
  rpar : Nat := 0
  /-- GROUP (R328) -/
  group : BitVec 8 := 0
  /-- EXPECTED (R328) -/
  expected : BitVec 8 := 0
  /-- STATUS: 0 ok, 1 warning, 2 fault, 3 no valid value (R327) -/
  status : Nat := 3
  /-- SPLIT (R326) -/
  split : Bool := false
  /-- CONSISTENT (R326) -/
  consistent : Bool := false
  /-- LOCATED (R329) -/
  located : Bool := false
  /-- AT as legal frames (R339) -/
  stamp : Nat := 0
  /-- U_DC, V (R326) -/
  udc : Nat := 0
  /-- consecutive valid periods below the warning threshold (R327) -/
  warnRun : Nat := 0
  /-- consecutive valid periods above it (R327) -/
  okRun : Nat := 0
  /-- consecutive periods with a group mismatch (R328) -/
  mismatchRun : Nat := 0
  /-- the last valid period read fault (R327) -/
  faultRead : Bool := false
  /-- status of the last valid period: 0 ok, 1 warning, 2 fault (R327) -/
  judged : Nat := 0
  /-- tick of the last class 2 request refused; asked again 1 s later (R38) -/
  leaveAt : Option Nat := none
deriving DecidableEq, Repr

/-- One dual-channel safety input (09). -/
structure SafeIn where
  /-- channel A as last confirmed (R331) -/
  a : Bool := true
  /-- channel B as last confirmed (R331) -/
  b : Bool := true
  /-- DEMAND (R339) -/
  demand : Bool := false
  /-- FAULT (R339) -/
  fault : Bool := false
  /-- AWAIT_RESET (R339) -/
  await : Bool := false
  /-- PROVEN (R339) -/
  proven : Bool := false
  /-- demand seen since the start-up test started (R335) -/
  seen : Bool := false
  /-- both channels have shown demand together since the fault (R331) -/
  bothSeen : Bool := false
  /-- tick since when the channels disagree (R331) -/
  apartAt : Option Nat := none
deriving DecidableEq, Repr

/-- One power module (09). -/
structure Module where
  /-- HEALTH: 0 not enabled, 1 healthy, 2 faulty, 3 lost (R339) -/
  health : Nat := 0
  /-- VOLTAGE, 0.1 V (R339) -/
  voltage : Nat := 0
  /-- CURRENT, 0.1 A (R339) -/
  current : Int := 0
  /-- FAULT_BITS (R339) -/
  faultBits : BitVec 16 := 0
  /-- TEMP, °C + 40 (R339) -/
  temp : Nat := 0
  /-- tick of the last valid status frame (R314) -/
  lastAt : Nat := 0
  /-- rolling counter of the last valid frame (R313) -/
  counter : Option Byte := none
  /-- mode commanded: 0 off, 1 voltage, 2 current, 3 discharge (R313) -/
  mode : Nat := 0
  /-- voltage target, 0.1 V (R313) -/
  vTarget : Nat := 0
  /-- current target, 0.1 A (R313) -/
  iTarget : Int := 0
  /-- current limit, 0.1 A (R313) -/
  iLimit : Nat := 0
  /-- mode, voltage target, current target and limit of the frame before (R313) -/
  prev : Nat × Nat × Int × Nat := (0, 0, 0, 0)
  /-- rolling counter of the last valid fault frame (R313) -/
  faultCounter : Option Byte := none
deriving DecidableEq, Repr

/-- A BUS_JOIN or BUS_RELEASE under way (09). -/
structure BusJob where
  /-- segment (R319) -/
  segment : Nat := 0
  /-- owner of the group (R319) -/
  owner : Nat := 0
  /-- matrix driver that closes, or the first that opens (R319) -/
  driver : Nat := 16
  /-- the other matrix drivers that open (R304) -/
  also : List Nat := []
  /-- segments that join or leave (R304) -/
  segments : BitVec 8 := 0
  /-- join, else release (R319) -/
  join : Bool := true
  /-- join: 0 voltage matching, 1 asking leave, 2 pulling in; release: 0 current falling, 1 opening (R319) -/
  phase : Nat := 0
  /-- consecutive frames with V_BUS within 10 V (R319) -/
  run : Nat := 0
  /-- command asked ACK_REQ (R137) -/
  ack : Bool := false
  /-- BUS_CHANGED still to be sent (R101) -/
  report : Bool := true
deriving DecidableEq, Repr

/-- Location of an insulation fault under way (09). -/
structure Locate where
  /-- owner of the stopped group (R329) -/
  owner : Nat := 0
  /-- segments of the group (R329) -/
  segments : BitVec 8 := 0
  /-- whole periods evaluated since every contactor was open (R329) -/
  periods : Nat := 0
  /-- segments that read fault (R329) -/
  faulty : BitVec 8 := 0
deriving DecidableEq, Repr

/-- Switching, insulation and safety functions (09). -/
structure Switch where
  /-- SWITCH_CONFIG (kept; 100, 25, 115, 10, 20, 90, 100 when unset) (R339) -/
  config : Vector (BitVec 64) 8 := Vector.replicate 8 0x645A140A73190064
  /-- KDRV_CONFIG (kept; FUNC 0, 80, 35, 100, 60, 300, 40 when unset) (R339) -/
  kdrv : Vector (BitVec 72) 24 := Vector.replicate 24 0x0028012C3C64235000
  /-- KDRV_STATE (R339) -/
  drivers : Vector Driver 24 := Vector.replicate 24 {}
  /-- PM_MAP (kept; 0 when unset) (R339) -/
  pmMap : Vector (BitVec 64) 16 := Vector.replicate 16 0
  /-- PM_STATE (R339) -/
  modules : Vector Module 16 := Vector.replicate 16 {}
  /-- PLUMB_CONFIG (kept; defaults of Table 9-16 when unset) (R339) -/
  plumb : Vector (BitVec 64) 8 := #v[0x0641F4640641F413, 0x0641F4640641F415, 0x0641F4640641F417, 0x0641F4640641F419, 0x0641F4640641F41B, 0x0641F4640641F41D, 0x0641F4640641F41F, 0x0641F4640641F411]
  /-- INSULATION (R339) -/
  insul : Vector Insul 8 := Vector.replicate 8 {}
  /-- SAFETY_IN_CONFIG (kept; defaults of Table 9-18 when unset) (R339) -/
  inputConfig : Vector (BitVec 48) 8 := Vector.replicate 8 0x01FF32010080
  /-- SAFETY_STATE DEMAND to PROVEN (R339) -/
  inputs : Vector SafeIn 8 := Vector.replicate 8 {}
  /-- PM_BUS_CONFIG (kept; CAN_BASE 0x100 when unset) (R339) -/
  busConfig : BitVec 16 := 0x0100
  /-- SEQ_STATE and the sequence (R339) -/
  seqs : Vector Seq 8 := Vector.replicate 8 {}
  /-- BUS_STATE.OWNER by segment, none free (R339) -/
  owner : Vector (Option Nat) 8 := Vector.replicate 8 none
  /-- BUS_STATE.PERMIT: PERMIT_Nm low (R306) -/
  permit : BitVec 8 := 0
  /-- joins and releases under way (R319) -/
  jobs : List BusJob := []
  /-- locations under way (R329) -/
  locating : List Locate := []
  /-- outlets unavailable until a SYSTEM reset after JOIN_MISMATCH (R328) -/
  unavailable : BitVec 8 := 0
  /-- a start-up test was cut off by a reset: STARTUP_TEST_DONE with result 1 is due after READY (R335) -/
  testCut : Bool := false
  /-- tick at which the running start-up test began; TEST_RUNNING (R335) -/
  testAt : Option Nat := none
  /-- STARTUP_TEST asked ACK_REQ (R137) -/
  testAck : Bool := false
  /-- configuration hash of the stored proof (kept); none: no proof (R335) -/
  proofHash : Option (BitVec 256) := none
  /-- PROOF_AT as legal frames (kept) (R339) -/
  proofAt : Nat := 0
  /-- rolling counter of the device's frames (R313) -/
  txCounter : Byte := 0
  /-- frames of the last transmission: identifier and payload (the MODEL's view of the CAN pads) (R313) -/
  canOut : List (Nat × List Byte) := []
deriving DecidableEq, Repr

/-- An authorization request (08). -/
structure AuthReq where
  /-- request number (R302) -/
  number : Nat := 0
  /-- outlet (R302) -/
  outlet : Nat := 0
  /-- method: 0 EIM, 1 contract, 2 DIN external payment (R302) -/
  method : Nat := 0
  /-- protocol (R302) -/
  protocol : Nat := 0
  /-- contract identifier (R302) -/
  contract : List Byte := []
  /-- chain check (R293) -/
  chain : Nat := 0
  /-- tick of the deadline (R296) -/
  deadline : Nat := 0
  /-- 0 pending, 1 expired, 2 withdrawn, 3 accepted, 4 denied (R297) -/
  state : Nat := 0
  /-- AUTH_REQUEST emitted since the last reset (R101) -/
  sent : Bool := true
deriving DecidableEq, Repr

/-- A sounding set (08). -/
structure SoundSet where
  /-- vehicle MAC address (R282) -/
  mac : Nat := 0
  /-- run identifier (R282) -/
  run : Nat := 0
  /-- candidate line c (R283) -/
  cand : Nat := 0
  /-- tick of the last frame of the set (R282) -/
  last : Nat := 0
  /-- 1 parameter answered, 2 collecting, 3 ATTEN_CHAR sent, 4 match answered (R284) -/
  stage : Nat := 1
  /-- tick at which collection began (R284) -/
  collectAt : Nat := 0
  /-- the soundings heard, by line: the attenuation of each group of each, 0.1 dB (R284) -/
  heard : Vector (List (List Nat)) 8 := Vector.replicate 8 []
  /-- lowest A[r] − A[c], 0.1 dB (R285) -/
  margin : Int := 0
  /-- tick of CM_SLAC_MATCH.CNF (R285) -/
  matchAt : Nat := 0
deriving DecidableEq, Repr

/-- Vehicle link of one outlet (08). -/
structure LinkOut where
  /-- LINK_STATE.PILOT (R300) -/
  pilot : Nat := 5
  /-- DRIVE (R300) -/
  drive : Nat := 2
  /-- DIODE_FAULT (R300) -/
  diodeFault : Bool := false
  /-- PP class (R300) -/
  pp : Nat := 0
  /-- class seen in the frame before (R277) -/
  ppCandidate : Option Nat := none
  /-- PHASE (R300) -/
  phase : Nat := 0
  /-- PROTOCOL (R300) -/
  protocol : Nat := 0
  /-- TLS (R300) -/
  tls : Bool := false
  /-- PP_OHM (R300) -/
  ppOhm : Nat := 0
  /-- POS_MV (R300) -/
  posMv : Int := 0
  /-- NEG_MV (R300) -/
  negMv : Int := 0
  /-- EV_MAC (R300) -/
  evMac : Nat := 0
  /-- MARGIN (R300) -/
  margin : Nat := 0
  /-- ATTEMPTS (R300) -/
  attempts : Nat := 0
  /-- pilot restarts made for this vehicle (R288) -/
  restarts : Nat := 0
  /-- disturbed plateaus in succession (R273) -/
  disturbedRun : Nat := 0
  /-- consecutive indeterminate plateaus (R274) -/
  indetRun : Nat := 0
  /-- PWM periods left of the T1S diode check (R275) -/
  diodeCheck : Nat := 0
  /-- T1S diode check made for this connection (R275) -/
  diodeDone : Bool := false
  /-- class 4 request or standing grant (R278) -/
  leave : Option Nat := none
  /-- tick of a REFUSE; leave asked again 10 s later (R278) -/
  leaveAt : Option Nat := none
  /-- tick of the PWM5 start (R278) -/
  pwmAt : Option Nat := none
  /-- association window open (R278) -/
  windowOpen : Bool := false
  /-- tick at which a pilot restart began (R288) -/
  restartAt : Option Nat := none
  /-- network membership key (R280) -/
  nmk : Option (BitVec 128) := none
  /-- network identifier derived from it (R280) -/
  nid : Option (BitVec 54) := none
  /-- MAC address last heard on the link (R270) -/
  talker : Nat := 0
  /-- SECC keys the link uses: those held when it bound (R301) -/
  keys : Vector (Option (BitVec 1042)) 2 := Vector.replicate 2 none
  /-- what the last service discovery offered: energy services (0 DC, 1 DC_BPT), control modes (0 scheduled, 1 dynamic) and
  identification methods (R291) -/
  offer : List Nat × List Nat × List Nat := ([], [], [])
  /-- identifier of the session that the link opened, 0 none (R302) -/
  session : Nat := 0
  /-- tick since when a refusal condition holds at authorization (R295) -/
  refuseAt : Option Nat := none
  /-- method at the authorization step (R295) -/
  authMethod : Nat := 0
  /-- contract at the authorization step (R295) -/
  authContract : List Byte := []
  /-- chain check at the authorization step (R293) -/
  authChain : Nat := 0
  /-- tick at which the stop notification was given (R298) -/
  stopAt : Option Nat := none
  /-- LINK_STOP asked ACK_REQ (R137) -/
  stopAck : Bool := false
  /-- the stop was asked by LINK_STOP or by RESET with FORCE = 1 (R298) -/
  stopCmd : Bool := false
  /-- LINK_ENDED cause kept until the session has closed (R298) -/
  endCause : Option Nat := none
  /-- the link has ended: no new association before A or a return from unavailable (log 24) (R278) -/
  needA : Bool := false
  /-- sets answered on this outlet since the link began (SLAC_MATCHED) (R302) -/
  tried : Nat := 0
  /-- PLCA status good (R290) -/
  plca : Bool := false
  /-- tick of the last T1S vehicle frame (R290) -/
  lastFrame : Nat := 0
deriving DecidableEq, Repr

/-- Vehicle link (08). -/
structure Link where
  /-- LINK_CONFIG (kept; defaults of Table 8-8 when unset) (R300) -/
  config : Vector (BitVec 64) 8 := Vector.replicate 8 0x00024BCE4064013D
  /-- LINK_GLOBAL (kept; defaults of Table 8-9 when unset) (R300) -/
  global : BitVec 64 := 0x053C00147823323C
  /-- LINK_STATE and the link of each outlet (R300) -/
  outs : Vector LinkOut 8 := Vector.replicate 8 {}
  /-- running sounding sets, oldest first (R282) -/
  sets : List SoundSet := []
  /-- TRI_MATRIX.A (R300) -/
  tri : Vector (Vector Nat 8) 8 := Vector.replicate 8 (Vector.replicate 8 0)
  /-- TRI_MATRIX.AT as legal frames (R300) -/
  triAt : Vector Nat 8 := Vector.replicate 8 0
  /-- pairs reported by CROSSTALK_HIGH: s, r, tick (R287) -/
  xtalk : List (Nat × Nat × Nat) := []
  /-- authorization requests, newest first (R296) -/
  requests : List AuthReq := []
  /-- number of the last request (R302) -/
  requestCtr : Nat := 0
  /-- public part of the SECC keys (kept) (R301) -/
  seccKeys : Vector (Option (BitVec 1042)) 2 := Vector.replicate 2 none
  /-- certificate slots (kept) (R301) -/
  certs : Vector (List Byte) 6 := Vector.replicate 6 []
  /-- the last answer given to a vehicle (the MODEL's view of the wire) (R286) -/
  answer : Nat := 0
  /-- the last schedule sent to a vehicle: legal frame, tariff and its TARIFF entry (the MODEL's view of the wire) (R294) -/
  schedule : List (Nat × Nat × BitVec 384) := []
  /-- outlet of that answer, 255 none (R286) -/
  answerOut : Nat := 0
deriving DecidableEq, Repr

/-- One load switch channel (10). -/
structure Chan where
  /-- LOAD_STATE.STATE: 0 OFF, 1 WAIT, 2 INRUSH, 3 ON, 4 BACKOFF, 5 EXHAUSTED, 6 HELD (R354) -/
  state : Nat := 0
  /-- CMD (R360) -/
  cmd : Bool := false
  /-- PWM mode in force (R360) -/
  pwm : Bool := false
  /-- FAULT, last cause (R360) -/
  fault : Nat := 0
  /-- LATCH (R350) -/
  latch : Bool := false
  /-- OPEN_LOAD (R352) -/
  openLoad : Bool := false
  /-- IN_LIMIT (R360) -/
  inLimit : Bool := false
  /-- RETRIES (R353) -/
  retries : Nat := 0
  /-- CURRENT, mA (R351) -/
  current : Nat := 0
  /-- TEMP, 0.1 °C (R351) -/
  temp : Int := 0
  /-- tick at which the retry wait ends (R353) -/
  waitEnd : Nat := 0
  /-- DUTY, 0.1 % (R360) -/
  duty : Nat := 0
  /-- SWITCH_ONS (kept) (R360) -/
  ons : Nat := 0
  /-- configuration in force since the last switch-on from off (R349) -/
  active : BitVec 96 := 0
  /-- tick at which the inrush window began (R345) -/
  window : Option Nat := none
  /-- tick of the last switch-on, of the last fault-free start of the 10 s (R353) -/
  onAt : Nat := 0
  /-- rank of the last switch-on, greater is more recent (R356) -/
  order : Nat := 0
  /-- class 3 request outstanding (R347) -/
  req : Option Nat := none
  /-- the switch-on waiting is automatic (R347) -/
  auto : Bool := false
  /-- LOAD_SET answered QUEUED and not completed; its ACK_REQ (R361) -/
  byCmd : Option Bool := none
  /-- tick of an automatic request refused; asked again 1 s later (R347) -/
  retryAt : Option Nat := none
  /-- mode and duty that take effect at the next period boundary (R348) -/
  next : Option (Bool × Nat) := none
  /-- on-time in limit outside the window, 0.1 µs (R350) -/
  limitTime : Nat := 0
  /-- on-time for which the open-load or the clearing condition has lasted, 0.1 µs (R352) -/
  openTime : Nat := 0
  /-- cell isolated (R344) -/
  isolated : Bool := false
deriving DecidableEq, Repr

/-- One load bank (10). -/
structure Bank where
  /-- VBB_MV (R360) -/
  vbb : Nat := 0
  /-- CURRENT, mA (R360) -/
  current : Nat := 0
  /-- UV (R356) -/
  uv : Bool := false
  /-- OV (R356) -/
  ov : Bool := false
  /-- GND_LOST (R356) -/
  gndLost : Bool := false
  /-- REVERSE (R356) -/
  reverse : Bool := false
  /-- UV_LOCKOUT (R356) -/
  lockout : Bool := false
  /-- tick of the last bank overload (R356) -/
  overAt : Option Nat := none
  /-- channels switched off by bank overloads not yet released (R356) -/
  overChs : List Nat := []
  /-- tick since when the summed current is above 20 A (R356) -/
  overSince : Option Nat := none
  /-- ticks of the undervoltages of the last 60 s (R356) -/
  uvAt : List Nat := []
  /-- GNDPk has read good for 100 ms (R356) -/
  gndGood : Bool := false
  /-- load bank isolated by its region (R344) -/
  isolated : Bool := false
  /-- switch-ons waiting, in order of arrival (R346) -/
  queue : List Nat := []
  /-- BANK_CONFIG of the generator period under way (R348) -/
  applied : BitVec 16 := 0x00C8
  /-- tick at which that period began (R348) -/
  periodAt : Option Nat := none
deriving DecidableEq, Repr

/-- Load switch channels (10). -/
structure Loads where
  /-- LOAD_CONFIG (kept; profile 1, 600, 100, c mod 4 when unset) (R360) -/
  config : Vector (BitVec 96) 16 := #v[0x0000006402580000000A05F9, 0x0001006402580000000A05F9, 0x0002006402580000000A05F9, 0x0003006402580000000A05F9, 0x0000006402580000000A05F9, 0x0001006402580000000A05F9, 0x0002006402580000000A05F9, 0x0003006402580000000A05F9, 0x0000006402580000000A05F9, 0x0001006402580000000A05F9, 0x0002006402580000000A05F9, 0x0003006402580000000A05F9, 0x0000006402580000000A05F9, 0x0001006402580000000A05F9, 0x0002006402580000000A05F9, 0x0003006402580000000A05F9]
  /-- BANK_CONFIG (kept; 200, 0 when unset) (R360) -/
  banksCfg : Vector (BitVec 16) 4 := Vector.replicate 4 0x00C8
  /-- LOAD_STATE (R360) -/
  chans : Vector Chan 16 := Vector.replicate 16 {}
  /-- BANK_STATE (R360) -/
  banks : Vector Bank 4 := Vector.replicate 4 {}
  /-- rank of the next switch-on (R356) -/
  orderCtr : Nat := 0
deriving DecidableEq, Repr

/-- A Traverse key slot (11). -/
structure KeySlot where
  /-- key (kept), 0 empty (R381) -/
  key : BitVec 128 := 0
deriving DecidableEq, Repr

/-- A time stamp with a reference cycle (11). -/
structure Beat where
  /-- legal frame (R374) -/
  frame : Nat := 0
  /-- reference cycle (R374) -/
  cycle : Nat := 0
deriving DecidableEq, Repr

/-- TRV_NEIGHBOUR entry (11). -/
structure Neigh where
  /-- USABLE (R386) -/
  usable : Bool := false
  /-- SNR, 0.25 dB (R389) -/
  snr : Nat := 0
  /-- LAST_HEARD as legal frames (R389) -/
  lastHeard : Nat := 0
  /-- tick of its last beacon (R386) -/
  heardAt : Option Nat := none
  /-- tick of its last SNR report (R367) -/
  reportAt : Option Nat := none
  /-- packets exhausted in succession (R386) -/
  exhausted : Nat := 0
  /-- segments of the last 10 s: tick, resent (R384) -/
  sent : List (Nat × Bool) := []
  /-- arrival of its last beacon (R374) -/
  arrival : Beat := {}
  /-- its last advertisement: next hop, hops, cost by destination (R385) -/
  advert : List (Nat × Nat × Nat) := []
  /-- packet tag of the next packet to it (R371) -/
  tag : Nat := 0
  /-- its serial (R379) -/
  serial : BitVec 64 := 0
  /-- DEPTH of its last beacon (R374) -/
  depth : Nat := 7
deriving DecidableEq, Repr

/-- TRV_ROUTE entry (11). -/
structure Route where
  /-- NEXT_HOP (R389) -/
  next : Nat := 0xFF
  /-- HOPS (R389) -/
  hops : Nat := 0
  /-- COST (R389) -/
  cost : Nat := 0xFFFF
  /-- SINCE as legal frames (R389) -/
  since : Nat := 0
  /-- CHANGES (R389) -/
  changes : Nat := 0
  /-- tick at which it became unreachable (R386) -/
  lostAt : Nat := 0
deriving DecidableEq, Repr

/-- A network packet held for sending (11). -/
structure TrvPkt where
  /-- SERVICE (R380) -/
  service : Nat := 0
  /-- ORIGIN (R380) -/
  origin : Nat := 0
  /-- FINAL (R380) -/
  final : Nat := 0
  /-- HOP_LIMIT (R380) -/
  hop : Nat := 7
  /-- FLAGS (R380) -/
  flags : Byte := 0
  /-- ORIGIN_SERIAL (R380) -/
  serial : BitVec 64 := 0
  /-- COUNTER (R380) -/
  counter : Nat := 0
  /-- key slot (R380) -/
  slot : Nat := 0
  /-- payload (R380) -/
  payload : List Byte := []
  /-- class (R375) -/
  cls : Nat := 2
  /-- tick at which it was stored (R386) -/
  since : Nat := 0
  /-- the MODEL's name of the packet (R386) -/
  tag : Nat := 0
deriving DecidableEq, Repr

/-- A data frame sent and not yet acknowledged (11). -/
structure TrvTx where
  /-- next hop (R371) -/
  dst : Nat := 0
  /-- FRAME_SEQ (R370) -/
  seq : Byte := 0
  /-- the packet it carries (R371) -/
  pkt : TrvPkt := {}
  /-- segments outstanding (R371) -/
  segs : List Nat := []
  /-- segments of the frame last sent, in its order (R371) -/
  frame : List Nat := []
  /-- sends so far of each segment (R371) -/
  sends : Vector Nat 16 := Vector.replicate 16 0
  /-- tick of the frame (R371) -/
  since : Nat := 0
  /-- segments of the packet (R371) -/
  segsTotal : Nat := 1
  /-- its frame is out and its acknowledgement awaited; false: waits for the medium (R371) -/
  waiting : Bool := true
deriving DecidableEq, Repr

/-- A packet being reassembled (11). -/
structure TrvRx where
  /-- sending node (R371) -/
  src : Nat := 0
  /-- packet tag (R371) -/
  tag : Nat := 0
  /-- segments received (R371) -/
  got : List (Nat × List Byte) := []
  /-- index of the last segment (R371) -/
  last : Nat := 0
deriving DecidableEq, Repr

/-- A TRV_SEND not yet completed (11). -/
structure TrvSend where
  /-- handle (R390) -/
  handle : Nat := 0
  /-- COUNTER of its packet (R383) -/
  counter : Nat := 0
  /-- confirmation requested (R390) -/
  confirm : Bool := false
  /-- destination (R390) -/
  final : Nat := 0
  /-- tick of the packet's first hop (R390) -/
  since : Nat := 0
  /-- command asked ACK_REQ (R137) -/
  ack : Bool := false
deriving DecidableEq, Repr

/-- Replay window of one origin (11). -/
structure Replay where
  /-- origin serial (R382) -/
  serial : BitVec 64 := 0
  /-- highest counter accepted (R382) -/
  highest : Nat := 0
  /-- window below it (R382) -/
  seen : BitVec 64 := 0
deriving DecidableEq, Repr

/-- The Traverse link (11). -/
structure Traverse where
  /-- TRV_CONFIG (kept; defaults of Table 11-7 when unset) (R389) -/
  config : BitVec 72 := 0x80000A0000000000FD
  /-- the link runs: receiving since the end of boot step 5 (R387) -/
  running : Bool := false
  /-- transmits: since READY, not stopped by R83 (R387) -/
  transmit : Bool := false
  /-- class 5 request or standing grant (R387) -/
  leave : Option Nat := none
  /-- GRANT (R389) -/
  grant : Bool := false
  /-- tick of the last request refused (R387) -/
  leaveAt : Option Nat := none
  /-- DATUM_VALID (R389) -/
  datumValid : Bool := false
  /-- tick of the last edge that kept the datum valid (R372) -/
  datumAt : Option Nat := none
  /-- ADDRESS_CONFLICT (R379) -/
  addrConflict : Bool := false
  /-- transmission stopped until the address is changed (R379) -/
  stopped : Bool := false
  /-- YIELDED (R379) -/
  yielded : Bool := false
  /-- MASTER (R389) -/
  master : Nat := 0xFD
  /-- PARENT (R389) -/
  parent : Nat := 0xFF
  /-- DEPTH (R389) -/
  depth : Nat := 0
  /-- GRID_MHZ (R389) -/
  gridMhz : Nat := 0
  /-- PHASE_DEG (R389) -/
  phaseDeg : Nat := 0
  /-- SITE_TIME.OFFSET, ns (R389) -/
  offset : Int := 0
  /-- own slew cycles since the POWER-ON reset, signed: MASTER_SLEW of a master (R374, R377) -/
  ownSlew : Int := 0
  /-- MASTER_SLEW of the parent's last beacon (R374) -/
  masterSlew : Int := 0
  /-- own slew cycles less MASTER_SLEW at lock; none while unlocked (R377) -/
  slewBase : Option Int := none
  /-- what the loop has still to take out of the own time, in 0.00001 ns: its error less what FREQ foresees (R377) -/
  loopDebt : Int := 0
  /-- LOCKED (R389) -/
  locked : Bool := false
  /-- consecutive parent beacons with the error within 0.5 us (R378) -/
  lockRun : Nat := 0
  /-- SITE_ALIGNED (R389) -/
  aligned : Bool := false
  /-- FREQ, 0.001 ppm (R389) -/
  freq : Int := 0
  /-- tick of the last parent beacon; BEACON_AGE (R389) -/
  beaconAt : Option Nat := none
  /-- DELAY_NS (R389) -/
  delayNs : Nat := 0
  /-- start of the own last beacon (R376) -/
  lastTx : Beat := {}
  /-- tick of the beacon slot last used (R373) -/
  slotAt : Option Nat := none
  /-- tick until which a frame heard or sent occupies the medium (R370, R375) -/
  mediumFree : Nat := 0
  /-- PERIOD_NO: the master's count, on a member that of the last beacon (R373) -/
  periodNo : Nat := 0
  /-- tick of the beacon by which a member places the period (R373) -/
  placeAt : Option Nat := none
  /-- beacon slot of that beacon, 0 to 4 (R373) -/
  placeSlot : Nat := 0
  /-- last valid period in us, 0 none measured (R373) -/
  periodUs : Nat := 0
  /-- legal second of the routing window last computed (R385) -/
  windowAt : Nat := 0
  /-- routing window in which the own advertisement was last sent (R385) -/
  advertAt : Option Nat := none
  /-- TRV_NEIGHBOUR (R389) -/
  neigh : Vector Neigh 64 := Vector.replicate 64 {}
  /-- TRV_ROUTE (R389) -/
  routes : Vector Route 64 := Vector.replicate 64 {}
  /-- FRAMES_TX (R389) -/
  framesTx : Nat := 0
  /-- FRAMES_RX (R389) -/
  framesRx : Nat := 0
  /-- SEG_RESENT (R389) -/
  segResent : Nat := 0
  /-- PKT_DROPPED (R389) -/
  pktDropped : Nat := 0
  /-- MIC_FAIL (R389) -/
  micFail : Nat := 0
  /-- REPLAYS (R389) -/
  replays : Nat := 0
  /-- BLANKED (R389) -/
  blanked : Nat := 0
  /-- BEACONS_MISSED (R389) -/
  beaconsMissed : Nat := 0
  /-- key slots (kept) (R381) -/
  keys : Vector KeySlot 2 := Vector.replicate 2 {}
  /-- slot used for transmission (kept) (R381) -/
  active : Nat := 0
  /-- pending TRV_KEY_USE: slot, time in legal frames (R390) -/
  switchTo : Option (Nat × Nat) := none
  /-- next COUNTER (R382) -/
  counter : Nat := 0
  /-- COUNTER stored in MRAM (kept) (R382) -/
  stored : Nat := 0
  /-- FRAME_SEQ of the next frame (R370) -/
  frameSeq : Byte := 0
  /-- contention window doublings under way (R375) -/
  cw : Nat := 0
  /-- replay windows (R382) -/
  replay : List Replay := []
  /-- floods of the last 60 s: serial, counter, tick (R383) -/
  floods : List (BitVec 64 × Nat × Nat) := []
  /-- packets held for forwarding, oldest first (R383) -/
  store : List TrvPkt := []
  /-- packets of this node waiting for the medium (R390) -/
  own : List TrvPkt := []
  /-- data frame awaiting its acknowledgement (R371) -/
  inFlight : Option TrvTx := none
  /-- packets being reassembled (R371) -/
  rx : List TrvRx := []
  /-- TRV_SEND not completed (R390) -/
  sends : List TrvSend := []
  /-- handle of the last TRV_SEND (R390) -/
  handleCtr : Nat := 0
  /-- serials of other masters reported by MASTER_CONFLICT (R379) -/
  conflicts : List (BitVec 64) := []
  /-- serials of other nodes reported by ADDRESS_CONFLICT (R379) -/
  clashes : List (BitVec 64) := []
  /-- security events counted since the last TRV_SECURITY, by kind (R391) -/
  secCount : Vector Nat 3 := Vector.replicate 3 0
  /-- tick of the last TRV_SECURITY, by kind (R391) -/
  secAt : Vector (Option Nat) 3 := Vector.replicate 3 none
  /-- frames transmitted by the last command: frame control or packet bytes (the MODEL's view of the medium) (R370) -/
  air : List (List Byte) := []
deriving DecidableEq, Repr

/-- A credential found by the reader (12). -/
structure Cred where
  /-- type: 1 A, 2 B, 3 ISO/IEC 15693 (R398) -/
  type : Nat := 1
  /-- identifier (R394) -/
  ident : List Byte := []
  /-- SAK or first byte of ATQB protocol information (R398) -/
  sak : Byte := 0
  /-- ISO/IEC 14443-4 capable (R398) -/
  iso4 : Bool := false
  /-- bit rate in use toward it, coded as MAX_RATE (R394) -/
  rate : Nat := 0
  /-- consecutive full rounds in which it was missing (R398) -/
  missed : Nat := 0
deriving DecidableEq, Repr

/-- Card reader (12). -/
structure Reader where
  /-- READER_CONFIG (kept; defaults of Table 12-7 when unset) (R408) -/
  config : BitVec 48 := 0x146401f47f
  /-- configuration in force since the last poll cycle (R408) -/
  active : BitVec 48 := 0x146401f47f
  /-- READER_STATE.STATE (R408) -/
  state : Nat := 0
  /-- ANTENNA_FAULT (R408) -/
  antennaFault : Bool := false
  /-- CARDS (R408) -/
  cards : Nat := 0
  /-- ANTENNA_MV (R408) -/
  antennaMv : Nat := 0
  /-- REFUSALS (R408) -/
  refusals : Nat := 0
  /-- running amplitude reference, mV (R392) -/
  reference : Nat := 0
  /-- amplitude measured at COMMISSIONING, mV; no value given before (DESIGN CHOICE 0: window not judged, log 5) (R393) -/
  commissionMv : Nat := 0
  /-- tick of the last poll cycle (R392) -/
  pollAt : Option Nat := none
  /-- class 6 request or grant (R393) -/
  req : Option Nat := none
  /-- tick at which the full round began (R393) -/
  roundAt : Option Nat := none
  /-- tick at which the field last went off (R393) -/
  offAt : Option Nat := none
  /-- credentials reported and not yet removed (R398) -/
  present : List Cred := []
  /-- credentials of the last MULTI_CARD, with their types, while two or more are present (R398) -/
  several : List (List Byte) := []
  /-- the last full round found a card: every cycle is a full round (R392) -/
  again : Bool := false
  /-- card held active (R399) -/
  held : Option Cred := none
  /-- tick of the last CARD_APDU, or of the activation (R399) -/
  heldAt : Nat := 0
  /-- tick of the last class 6 request of the held card (R399) -/
  renewAt : Nat := 0
  /-- APDU under way: bytes, tick of its start, time-out in ms (R409) -/
  apdu : Option (List Byte × Nat × Nat) := none
  /-- CARD_APDU asked ACK_REQ (R137) -/
  apduAck : Bool := false
  /-- CARD_APDU_DONE still to be sent (R101) -/
  apduReport : Bool := true
deriving DecidableEq, Repr

/-- Witness tag and its store (12). -/
structure Tag where
  /-- WTAG_CONFIG (kept; NOTES_ENABLE 1, TOTALS_MIN 1 when unset) (R408) -/
  config : BitVec 16 := 0x0101
  /-- FIELD_PRESENT (R408) -/
  field : Bool := false
  /-- SELECTED (R408) -/
  selected : Bool := false
  /-- harvested voltage, mV (R404) -/
  harvestMv : Nat := 0
  /-- WIRE_WAIT_MAX, us (R408) -/
  waitMax : Nat := 0
  /-- TORN (kept) (R408) -/
  torn : Nat := 0
  /-- witness store (kept), canonical sparse form; an unlisted byte reads 0x00 (R401) -/
  store : List Host.Cell := []
  /-- VISIT_NOTE: notes imported, newest first (kept) (R408) -/
  notes : List (List Byte) := []
  /-- class 7 request of the import under way (R405) -/
  importReq : Option Nat := none
  /-- slot whose note is being imported (R405) -/
  importing : Option Nat := none
  /-- tick of the last totals snapshot (R402) -/
  totalsAt : Nat := 0
  /-- LAST_TOTALS as legal frames (kept) (R408) -/
  lastTotals : Nat := 0
  /-- last response of the tag: data and status words (R400) -/
  response : List Byte := []
  /-- last step of Table 12-6 completed by the last APPEND NOTE (R406) -/
  lastStep : Nat := 0
deriving DecidableEq, Repr

/-- A rectangle update, queued or in flight (13). -/
structure Rect where
  /-- handle, 0 for a device drive (R427) -/
  handle : Nat := 0
  /-- x (R418) -/
  x : Nat := 0
  /-- y (R418) -/
  y : Nat := 0
  /-- width (R418) -/
  w : Nat := 8
  /-- height (R418) -/
  h : Nat := 1
  /-- table kind: 0 FULL, 1 FAST, 2 CLEAR (R418) -/
  kind : Nat := 0
  /-- price-area drive (R420) -/
  price : Bool := false
  /-- host update (or always-on refresh) (R419) -/
  host : Bool := true
  /-- re-drive after a band change (R416) -/
  redrive : Bool := false
  /-- command asked ACK_REQ (R137) -/
  ack : Bool := false
  /-- DISPLAY_DONE still to be sent (R101) -/
  report : Bool := true
  /-- tariff version drawn (R420) -/
  version : Nat := 0
  /-- start second of the announced entry that a price drive shows, plus 1; 0 none (R420) -/
  announce : Nat := 0
  /-- part of the totals page (R423) -/
  totals : Bool := false
  /-- band in use, 15 none (R416) -/
  band : Nat := 15
  /-- flagged for a re-drive (R416) -/
  flagged : Bool := false
  /-- class 9 request (R413) -/
  req : Option Nat := none
  /-- leave held (R413) -/
  granted : Bool := false
  /-- tick of a refusal or displacement; asked again 1 s later (R413) -/
  retryAt : Option Nat := none
  /-- tick of its first scan (R419) -/
  startAt : Nat := 0
  /-- scans of its waveform (R415) -/
  scans : Nat := 0
  /-- target pixels copied at its first scan (R418) -/
  pixels : List Byte := []
deriving DecidableEq, Repr

/-- A waveform band (13). -/
structure Wave where
  /-- T_LOW (R425) -/
  low : Int := 0
  /-- T_HIGH (R425) -/
  high : Int := 0
  /-- scan counts; 0 means empty (R425) -/
  scans : Vector Nat 3 := Vector.replicate 3 0
  /-- drive tables (R415) -/
  tables : Vector (List Byte) 3 := Vector.replicate 3 []
  /-- tables being loaded (R415) -/
  loading : Vector (List Byte) 3 := Vector.replicate 3 []
deriving DecidableEq, Repr, Inhabited

/-- E-paper price display (13). -/
structure Display where
  /-- DISPLAY_CONFIG (kept; defaults of Table 13-3 when unset) (R425) -/
  config : BitVec 144 := 0x19191e646403c00000000096d012c320
  /-- waveform bands (kept) (R425) -/
  waves : Vector Wave 12 := Vector.replicate 12 {}
  /-- DISPLAY_STATE.STATE (R425) -/
  state : Nat := 0
  /-- rectangles in flight (R419) -/
  flight : List Rect := []
  /-- queued rectangles, head first (R419) -/
  queue : List Rect := []
  /-- CRACK (R425) -/
  crack : Bool := false
  /-- TEMP_FAULT (R425) -/
  tempFault : Bool := false
  /-- RAIL_FAULT (R425) -/
  railFault : Bool := false
  /-- OUT_OF_BAND (R425) -/
  outOfBand : Bool := false
  /-- PRICE_DIRTY (kept) (R425) -/
  dirty : Bool := false
  /-- LIGHT (R425) -/
  light : Bool := false
  /-- DISPLAY_LIGHT on waits; its ACK_REQ (R414) -/
  lightWait : Option Bool := none
  /-- TEMP, 0.1 degC (R425) -/
  temp : Int := 0
  /-- BAND (R425) -/
  band : Nat := 15
  /-- CRACK_OHM (R425) -/
  crackOhm : Nat := 0
  /-- UPDATES (kept) (R425) -/
  updates : Nat := 0
  /-- handle of the last DISPLAY_UPDATE (R426) -/
  handleCtr : Nat := 0
  /-- consecutive readings inside the range since a sensor fault (R416) -/
  goodTemps : Nat := 0
  /-- rail starts failed in succession (R417) -/
  railTries : Nat := 0
  /-- tick of a rail failure; retried 1 s later (R417) -/
  retryAt : Option Nat := none
  /-- tick since when no rectangle is in flight (R412) -/
  idleAt : Nat := 0
  /-- tick of the last scan start (R411) -/
  scanAt : Option Nat := none
  /-- tick of the last crack reading (R424) -/
  crackAt : Nat := 0
  /-- tick of the last always-on refresh (R422) -/
  aonAt : Nat := 0
  /-- the MODEL's own: version and announced start for which the price area was last asked to be drawn (R420) -/
  asked : Nat × Nat := (0, 0)
  /-- the MODEL's own: BENCHMARK as the display last saw the mode (R423) -/
  benchPage : Bool := false
  /-- tick of the last totals redraw (R423) -/
  benchAt : Nat := 0
  /-- levels shown, canonical sparse form by pixel; an unlisted pixel reads level 15 (kept by the panel; DESIGN CHOICE white, log 5) (R418) -/
  shown : List Host.Cell := []
  /-- host target buffer, the same form (R418) -/
  target : List Host.Cell := []
deriving DecidableEq, Repr

/-- One image block as received (14). -/
structure ImgBlock where
  /-- index k (R444) -/
  index : Nat := 0
  /-- first half of the ciphertext (R452) -/
  half0 : List Byte := []
  /-- second half (R452) -/
  half1 : List Byte := []
  /-- tag (R444) -/
  tag : List Byte := []
deriving DecidableEq, Repr

/-- An image slot (14). -/
structure ImgSlot where
  /-- header, empty when the slot is empty (R444) -/
  header : List Byte := []
  /-- blocks held (R444) -/
  blocks : List ImgBlock := []
  /-- every block held (R457) -/
  complete : Bool := false
deriving DecidableEq, Repr

/-- CHAIN_STATE entry (14). -/
structure ChainPos where
  /-- CHAIN_STATE shows it: a POWER-ON reset brings the defaults back until the node reports again (R11, R457) -/
  shown : Bool := true
  /-- NODE (R457) -/
  node : Nat := 0xFF
  /-- STATE (R457) -/
  state : Nat := 0
  /-- BYPASSED (R457) -/
  bypassed : Bool := false
  /-- BLOCKS (R457) -/
  blocks : Nat := 0
  /-- RATE (R457) -/
  rate : Nat := 0
  /-- tick since when the hop is below 25 % of the median (R454) -/
  slowAt : Option Nat := none
  /-- tick of its last PROGRESS (R454) -/
  heardAt : Nat := 0
deriving DecidableEq, Repr

/-- Staging and chain update (14). -/
structure Chain where
  /-- STAGING: 0 empty, 1 running, 2 complete (kept) (R457) -/
  staging : Nat := 0
  /-- staging slot erased and ready (R451) -/
  ready : Bool := false
  /-- staging begun by UPDATE_START, else by an OFFER (R456) -/
  byHost : Bool := true
  /-- UPDATE_START asked ACK_REQ (R137) -/
  ack : Bool := false
  /-- UPDATE_DONE completes a command (R101) -/
  report : Bool := true
  /-- origin node of the chain (R451) -/
  origin : Nat := 0xFF
  /-- node from which blocks come (R452) -/
  upstream : Nat := 0xFF
  /-- next node and its position (R452) -/
  next : Option (Nat × Nat) := none
  /-- own position, 0 at the origin (R452) -/
  position : Nat := 0
  /-- chain list (R451) -/
  list : List Nat := []
  /-- CHAIN_STATE by position, origin first (R457) -/
  entries : List ChainPos := []
  /-- next block to send downstream (R453) -/
  nextFrom : Nat := 0
  /-- highest block acknowledged downstream, -1 none (R453) -/
  nextAcked : Int := -1
  /-- the next node has accepted (R452) -/
  nextAnswered : Bool := false
  /-- tick of the last message of the next node (R455) -/
  heardAt : Nat := 0
  /-- tick of the last progress anywhere (R456) -/
  progressAt : Nat := 0
  /-- tick of the own last PROGRESS (R452) -/
  sentAt : Nat := 0
  /-- tick of the last UPDATE_PROGRESS (R459) -/
  reportAt : Nat := 0
  /-- bytes received within the last 10 s: tick, bytes (R454) -/
  rateBytes : List (Nat × Nat) := []
  /-- groups of 8 blocks erased (R451) -/
  erased : Nat := 0
deriving DecidableEq, Repr

/-- A log segment (14). -/
structure Segment where
  /-- segment number (R439) -/
  id : Nat := 0
  /-- sequence of its first record (R439) -/
  first : Nat := 0
  /-- records (R439) -/
  count : Nat := 0
  /-- due for refresh, or holds a retired block (R441) -/
  repair : Bool := false
  /-- erase count (R432) -/
  erases : Nat := 0
  /-- pages programmed (R439) -/
  pages : Nat := 0
  /-- whole (R430) -/
  whole : Bool := true
deriving DecidableEq, Repr

/-- The reclaim under way (14). -/
structure Reclaim where
  /-- source segment (R442) -/
  source : Nat := 0
  /-- destination segment (R442) -/
  dest : Nat := 0
  /-- first sequence of the live range (R442) -/
  lo : Nat := 0
  /-- first sequence above the live range (R442) -/
  hi : Nat := 0
  /-- step of Table 14-6 running (R442) -/
  step : Nat := 1
  /-- refresh or repair (R441) -/
  refresh : Bool := false
  /-- the source blocks have been erased under leave (R442) -/
  erased : Bool := false
  /-- erase count of the source while it is in no list (R442) -/
  hold : Nat := 0
  /-- the destination is erased (R442) -/
  destErased : Bool := true
  /-- the source is no longer whole: it joins no free segments (R430) -/
  gone : Bool := false
deriving DecidableEq, Repr

/-- A NAND erase that asks leave or runs (14). -/
structure Erase where
  /-- 0 group of the staging slot, 1 group of the activation's target slot, 2 reclaim source, 3 reclaim destination, 4 block freed by a refresh (R433) -/
  what : Nat := 0
  /-- partition of Table 14-2, 0 image slot A to 5 spare (R429) -/
  part : Nat := 0
  /-- first logical block, or log segment (R429) -/
  block : Nat := 0
  /-- blocks (R433) -/
  count : Nat := 1
  /-- its class 8 request (R433) -/
  req : Option Nat := none
  /-- tick at which it began (R433) -/
  startAt : Option Nat := none
  /-- tick of a refusal; asked again 1 s later (R433) -/
  retryAt : Option Nat := none
deriving DecidableEq, Repr

/-- The objects of one settings copy (14). -/
structure Settings where
  /-- HOST_PORT.ROLE_IDLE (R448) -/
  roleIdle : BitVec 12 := 600
  /-- EASEMENT_CONFIG.VAUX_BUDGET (R448) -/
  vauxBudget : BitVec 16 := 1500
  /-- EASEMENT_CONFIG.BANK_ON_VAUX (R448) -/
  bankOnVaux : BitVec 4 := 0xF
  /-- MOD_CONFIG (R448) -/
  modConfig : Vector (BitVec 32) 8 := Vector.replicate 8 0x0032027B
  /-- TONE_CONFIG (R448) -/
  toneConfig : Vector (BitVec 32) 8 := Vector.replicate 8 0x00EA6001
  /-- PATH_STATE (R448) -/
  paths : Vector (BitVec 32) 8 := Vector.replicate 8 0x03000000
  /-- COEF_SET (R448) -/
  coefs : Vector (BitVec 536) 8 := Vector.replicate 8 0
  /-- TARIFF (R448) -/
  tariffs : Vector (BitVec 384) 8 := Vector.replicate 8 0
  /-- LINK_CONFIG (R448) -/
  linkConfig : Vector (BitVec 64) 8 := Vector.replicate 8 0x00024BCE4064013D
  /-- LINK_GLOBAL (R448) -/
  linkGlobal : BitVec 64 := 0x053C00147823323C
  /-- SWITCH_CONFIG (R448) -/
  switchConfig : Vector (BitVec 64) 8 := Vector.replicate 8 0x645A140A73190064
  /-- KDRV_CONFIG (R448) -/
  kdrv : Vector (BitVec 72) 24 := Vector.replicate 24 0x0028012C3C64235000
  /-- PM_MAP (R448) -/
  pmMap : Vector (BitVec 64) 16 := Vector.replicate 16 0
  /-- PLUMB_CONFIG (R448) -/
  plumb : Vector (BitVec 64) 8 := Vector.replicate 8 0x0641F4640641F413
  /-- SAFETY_IN_CONFIG (R448) -/
  inputConfig : Vector (BitVec 48) 8 := Vector.replicate 8 0x01FF32010080
  /-- PM_BUS_CONFIG (R448) -/
  busConfig : BitVec 16 := 0x0100
  /-- LOAD_CONFIG (R448) -/
  loadConfig : Vector (BitVec 96) 16 := Vector.replicate 16 0x0000006402580000000A05F9
  /-- BANK_CONFIG (R448) -/
  banksCfg : Vector (BitVec 16) 4 := Vector.replicate 4 0x00C8
  /-- TRV_CONFIG (R448) -/
  trvConfig : BitVec 72 := 0x80000A0000000000FD
  /-- READER_CONFIG (R448) -/
  reader : BitVec 48 := 0x146401f47f
  /-- WTAG_CONFIG (R448) -/
  tag : BitVec 16 := 0x0101
  /-- DISPLAY_CONFIG (R448) -/
  display : BitVec 144 := 0x19191e646403c00000000096d012c320
  /-- WAVEFORM (R448) -/
  waves : Vector Wave 12 := Vector.replicate 12 {}
deriving DecidableEq, Repr, Inhabited

/-- A live record of a journal area: the fields of its header that tell it from others (R435). -/
structure JRec where
  /-- JSEQ (R435) -/
  jseq : Nat := 0
  /-- ORIGIN_JSEQ (R435) -/
  origin : Nat := 0
  /-- TYPE, a code of Table 14-5 (R435) -/
  type : Nat := 0
  /-- FLAGS bit 0: copy (R435) -/
  copy : Bool := false
  /-- what its body names, as the retirement of its type looks for it (DESIGN CHOICE, log 29) (R436) -/
  key : Nat := 0
  /-- LENGTH (R435) -/
  len : Nat := 0
deriving DecidableEq, Repr, Inhabited

/-- NAND, journal, images (14). -/
structure Storage where
  /-- GROWN_BAD (kept) (R457) -/
  grownBad : Nat := 0
  /-- SPARE_LEFT (kept); 224 less factory bad blocks (DESIGN CHOICE none bad, log 5) (R457) -/
  spareLeft : Nat := 224
  /-- LOG_DEGRADED (kept) (R457) -/
  degraded : Bool := false
  /-- segments holding records, oldest first (kept) (R439) -/
  segments : List Segment := []
  /-- free segments and their erase counts (kept) (R457) -/
  free : List (Nat × Nat) := (List.range 80).map (fun i => (i, 0))
  /-- log segments no longer whole (kept) (R430) -/
  lost : Nat := 0
  /-- reclaim under way; RECLAIM_STEP (journalled) (R457) -/
  reclaim : Option Reclaim := none
  /-- erase counts outside the log: 4096 x partition + block (kept) (R432) -/
  eraseOther : List (Nat × Nat) := []
  /-- own spare blocks of image slots A, B and staging (kept) (R430) -/
  slotSpare : Vector Nat 3 := Vector.replicate 3 15
  /-- erases that ask leave or run (R433) -/
  erasing : List Erase := []
  /-- REFRESHES (kept) (R457) -/
  refreshes : Nat := 0
  /-- UNCORRECTABLE (kept) (R457) -/
  uncorrectable : Nat := 0
  /-- WRITE_REFUSED (R457) -/
  writeRefused : Nat := 0
  /-- JOURNAL_STATE.TORN (kept) (R457) -/
  torn : Nat := 0
  /-- MET_JSEQ (kept) (R457) -/
  metJseq : Nat := 0
  /-- APP_JSEQ (kept) (R457) -/
  appJseq : Nat := 0
  /-- bytes of the metrology area written since its tail (kept) (R437) -/
  metUsed : Nat := 0
  /-- bytes of the application area written since its tail (kept) (R437) -/
  appUsed : Nat := 0
  /-- live records of the metrology area, oldest first (kept) (R436) -/
  metLive : List JRec := []
  /-- live records of the application area, oldest first (kept) (R436) -/
  appLive : List JRec := []
  /-- a record of the metrology area lies there without its COMMIT (kept) (R436) -/
  metTorn : Bool := false
  /-- a record of the application area lies there without its COMMIT (kept) (R436) -/
  appTorn : Bool := false
  /-- COMPACTIONS (R457) -/
  compactions : Nat := 0
  /-- image slots A and B (kept); contents at manufacture not given (DESIGN CHOICE see log 5) (R429) -/
  slots : Vector ImgSlot 2 := Vector.replicate 2 {}
  /-- staging slot (kept) (R429) -/
  stagingSlot : ImgSlot := {}
  /-- RUNNING_SLOT (kept) (R457) -/
  running : Nat := 0
  /-- TRIAL (kept) (R457) -/
  trial : Bool := false
  /-- TRIAL_BOOTS (kept) (R457) -/
  trialBoots : Nat := 0
  /-- RECOVERY_ROM (R457) -/
  recoveryRom : Bool := false
  /-- SETTINGS_COPY (kept) (R457) -/
  settingsCopy : Nat := 0
  /-- valid flag of each settings copy (kept) (R448) -/
  settingsOk : Vector Bool 2 := #v[true, false]
  /-- SETTINGS_FORMAT of each copy (kept) (R448) -/
  settingsFormat : Vector Nat 2 := #v[1, 1]
  /-- OLD_COPY_KEPT (kept) (R457) -/
  oldCopy : Bool := false
  /-- the old settings copy while a trial runs (kept) (R448) -/
  oldSettings : Option Settings := none
  /-- migration done for the trial image (kept) (R448) -/
  migrated : Bool := false
  /-- VERSION_A, VERSION_B (kept); DESIGN CHOICE version 1 in A at manufacture, log 5 (R457) -/
  versions : Vector Nat 2 := #v[1, 0]
  /-- LAST_FALLBACK (kept) (R457) -/
  lastFallback : Nat := 0
  /-- MIN_VERSION (kept); DESIGN CHOICE 0, log 5 (R457) -/
  minVersion : Nat := 0
  /-- IMAGE_FALLBACK still to be emitted: cause, failed version (R446) -/
  fallbackEv : Option (Nat × Nat) := none
  /-- IMAGE_TRIAL still to be emitted (R449) -/
  trialEv : Bool := false
  /-- UPDATE_DONE result 5 still to be emitted (R447) -/
  abandonEv : Bool := false
  /-- IMAGE_ACTIVATE asked ACK_REQ (R137) -/
  activateAck : Bool := false
  /-- groups of 8 blocks of the target slot erased (R447) -/
  activateErased : Nat := 0
  /-- slot passed the boot check when its image was loaded; at manufacture A holds a valid image (DESIGN CHOICE, log 5) (R446) -/
  bootOk : Vector Bool 2 := #v[true, false]
deriving DecidableEq, Repr

/-- The whole machine. -/
structure State where
  /-- values fixed at manufacture (R2) -/
  factory : Factory := {}
  /-- frames and legal time (R21) -/
  clock : Clock := {}
  /-- supplies and shutdown (R75) -/
  power : Power := {}
  /-- reset controller and boot (R87) -/
  rst : Reset := {}
  /-- operating mode (R104) -/
  modes : ModeSt := {}
  /-- host port (R118) -/
  port : Port := {}
  /-- access roles (R145) -/
  roles : RoleSt := {}
  /-- cells, reports, closures (R13) -/
  faults : Faults := {}
  /-- easement arbiter (R33) -/
  ease : Ease := {}
  /-- metrology front end (R155) -/
  fe : FrontEnd := {}
  /-- energy engine (R195) -/
  energy : Energy := {}
  /-- tariffs, demand, sessions (R235) -/
  billing : Billing := {}
  /-- seal and calibration (R261) -/
  seals : Seal := {}
  /-- sequence counter and legal log (R255) -/
  log : Log := {}
  /-- vehicle link (R269) -/
  link : Link := {}
  /-- switching, insulation, safety (R303) -/
  sw : Switch := {}
  /-- load channels (R342) -/
  loads : Loads := {}
  /-- Traverse link (R363) -/
  trv : Traverse := {}
  /-- card reader (R392) -/
  rdr : Reader := {}
  /-- witness tag (R400) -/
  tag : Tag := {}
  /-- price display (R410) -/
  disp : Display := {}
  /-- staging and chain update (R451) -/
  chain : Chain := {}
  /-- NAND, journal, images (R428) -/
  store : Storage := {}
  /-- the queue of commands that wait, first in first out (the block's own queue, required by the model's form) -/
  pending : List Instr := []
deriving DecidableEq, Repr

/-- The device as manufactured, in the POWER-ON reset that follows the first rise of VAUX: source POR is asserted,
no boot step has run, no command waits (R11 default columns, R87, R93; the values that the spec does not give are those of
log 1 to 5). -/
def State.reset : State := {}

end Sys2Proof.Machine
end

