-- ==== Sys2Proof/Machine/Operands.lean ====
section
/-!
DEFINITION. Operand forms: little-endian fields of payloads, fields of packed objects, entries of fixed arrays.
-/

namespace Sys2Proof.Machine

/-- n as k bytes, little-endian (R127). -/
def le : Nat → Nat → List Byte
  | 0, _ => []
  | k + 1, n => BitVec.ofNat 8 n :: le k (n / 256)

/-- A signed value as k bytes, two's complement, little-endian. -/
def leInt (k : Nat) (n : Int) : List Byte := le k (n % (256 ^ k : Nat)).toNat

/-- The number that little-endian bytes spell. -/
def ofBytes : List Byte → Nat
  | [] => 0
  | b :: t => b.toNat + 256 * ofBytes t

/-- Byte i of a payload, 0 past its end. -/
def byteAt (p : List Byte) (i : Nat) : Nat := ((p[i]?).getD 0).toNat

/-- k bytes from offset i as a number. -/
def numAt (p : List Byte) (i k : Nat) : Nat := ofBytes ((p.drop i).take k)

/-- The two's complement reading of the low k bits of n. -/
def signedOf (k n : Nat) : Int :=
  let m := n % 2 ^ k
  if m < 2 ^ (k - 1) then (m : Int) else (m : Int) - (2 ^ k : Nat)

/-- The two's complement code of n in k bits. -/
def unsignedOf (k : Nat) (n : Int) : Nat := (n % (2 ^ k : Nat)).toNat

/-- p cut or padded with 0x00 to n bytes. -/
def padTo (n : Nat) (p : List Byte) : List Byte := (p ++ List.replicate n 0).take n

/-- len bits of n from bit lo. -/
def bitsOf (n lo len : Nat) : Nat := n / 2 ^ lo % 2 ^ len

/-- A field of a packed object. -/
def fld {w : Nat} (r : BitVec w) (lo len : Nat) : Nat := bitsOf r.toNat lo len

/-- One bit of a packed object. -/
def bit {w : Nat} (r : BitVec w) (i : Nat) : Bool := r.getLsbD i

/-- A packed object with one field replaced. -/
def setFld {w : Nat} (r : BitVec w) (lo len v : Nat) : BitVec w :=
  BitVec.ofNat w (r.toNat - bitsOf r.toNat lo len * 2 ^ lo + v % 2 ^ len * 2 ^ lo)

/-- A byte mask with bit i set or cleared. -/
def setBit {w : Nat} (r : BitVec w) (i : Nat) (v : Bool) : BitVec w :=
  if v then r ||| BitVec.ofNat w (2 ^ i) else r &&& ~~~ BitVec.ofNat w (2 ^ i)

/-- The bit mask that has the bits of a list. -/
def maskOf (w : Nat) (l : List Nat) : BitVec w := l.foldl (fun m i => setBit m i true) 0

/-- The bits set in a mask, ascending. -/
def bitList {w : Nat} (r : BitVec w) : List Nat := (List.range w).filter (fun i => bit r i)

/-- Entry i of a fixed array; d past its end. -/
def vget {α : Type} {n : Nat} (v : Vector α n) (i : Nat) (d : α) : α := (v[i]?).getD d

/-- The fixed array with entry i replaced; unchanged past its end. -/
def vset {α : Type} {n : Nat} (v : Vector α n) (i : Nat) (x : α) : Vector α n := v.setIfInBounds i x

/-- The fixed array with entry i rewritten by f. -/
def vmod {α : Type} {n : Nat} (v : Vector α n) (i : Nat) (f : α → α) : Vector α n :=
  match v[i]? with
  | some x => v.setIfInBounds i (f x)
  | none => v

/-- Bits of a Bool in a field map. -/
def b1 (b : Bool) : Nat := if b then 1 else 0

/-- A field map: values with their widths, least significant first, as bytes (R142). -/
def packBits : List (Nat × Nat) → Nat
  | [] => 0
  | (v, w) :: t => v % 2 ^ w + 2 ^ w * packBits t

/-- Width of a field map in bits. -/
def packWidth (l : List (Nat × Nat)) : Nat := (l.map (·.2)).foldl (· + ·) 0

/-- The bytes of an object laid out by its field map (R142). -/
def packBytes (l : List (Nat × Nat)) : List Byte := le ((packWidth l + 7) / 8) (packBits l)

/-- The bytes of a packed object. -/
def objBytes {w : Nat} (r : BitVec w) : List Byte := le ((w + 7) / 8) r.toNat

/-- n limited to what k bits hold. -/
def sat (k n : Nat) : Nat := min n (2 ^ k - 1)

/-- A counter of k bits that saturates (R153). -/
def satInc (k n : Nat) : Nat := sat k (n + 1)

/-- n clamped to k bits of two's complement. -/
def satInt (k : Nat) (n : Int) : Int := max (-((2 ^ (k - 1) : Nat) : Int)) (min n ((2 ^ (k - 1) : Nat) - 1 : Int))

/-- The first element that satisfies p is rewritten by f. -/
def updFirst {α : Type} (p : α → Bool) (f : α → α) : List α → List α
  | [] => []
  | a :: t => if p a then f a :: t else a :: updFirst p f t

end Sys2Proof.Machine
end

