-- ==== Sys2Proof/Machine/Flags.lean ====
section
/-!
DEFINITION. Check values: CRC-32C of packets (R128), SHA-256 of the safety configuration (R336), HMAC-SHA-256 of role proofs
(R146), AES-128-CCM of Traverse packets (R381), and the codes of Table 4-8. SHA-256, HMAC and AES-CCM are those of FIPS 180-4,
FIPS 198-1, FIPS 197 and SP 800-38C.
-/

namespace Sys2Proof.Machine

/-- One bit of the reflected CRC-32C register (R128). -/
def crcBit (c : Nat) : Nat := if c % 2 = 1 then Nat.xor (c / 2) 0x82F63B78 else c / 2

/-- One byte of the CRC-32C register. -/
def crcByte (c : Nat) (b : Byte) : Nat :=
  crcBit (crcBit (crcBit (crcBit (crcBit (crcBit (crcBit (crcBit (Nat.xor c b.toNat))))))))

/-- The CRC-32C register after a byte sequence. The split on the register makes Lean's kernel compute it byte by byte. -/
def crcBytes : List Byte → Nat → Nat
  | [], c => c
  | b :: p, c =>
    match crcByte c b with
    | 0 => crcBytes p 0
    | k + 1 => crcBytes p (k + 1)

/-- CRC-32C of a byte sequence (R128). -/
def crc32c (p : List Byte) : Nat := Nat.xor (crcBytes p 0xFFFFFFFF) 0xFFFFFFFF

/-- The SHA-256 round constants. -/
def shaK : List Nat :=
  [0x428a2f98, 0x71374491, 0xb5c0fbcf, 0xe9b5dba5, 0x3956c25b, 0x59f111f1, 0x923f82a4, 0xab1c5ed5] ++
  [0xd807aa98, 0x12835b01, 0x243185be, 0x550c7dc3, 0x72be5d74, 0x80deb1fe, 0x9bdc06a7, 0xc19bf174] ++
  [0xe49b69c1, 0xefbe4786, 0x0fc19dc6, 0x240ca1cc, 0x2de92c6f, 0x4a7484aa, 0x5cb0a9dc, 0x76f988da] ++
  [0x983e5152, 0xa831c66d, 0xb00327c8, 0xbf597fc7, 0xc6e00bf3, 0xd5a79147, 0x06ca6351, 0x14292967] ++
  [0x27b70a85, 0x2e1b2138, 0x4d2c6dfc, 0x53380d13, 0x650a7354, 0x766a0abb, 0x81c2c92e, 0x92722c85] ++
  [0xa2bfe8a1, 0xa81a664b, 0xc24b8b70, 0xc76c51a3, 0xd192e819, 0xd6990624, 0xf40e3585, 0x106aa070] ++
  [0x19a4c116, 0x1e376c08, 0x2748774c, 0x34b0bcb5, 0x391c0cb3, 0x4ed8aa4a, 0x5b9cca4f, 0x682e6ff3] ++
  [0x748f82ee, 0x78a5636f, 0x84c87814, 0x8cc70208, 0x90befffa, 0xa4506ceb, 0xbef9a3f7, 0xc67178f2]

/-- Rotation of a 32-bit word to the right. -/
def rotr (n x : Nat) : Nat := x / 2 ^ n + x % 2 ^ n * 2 ^ (32 - n)

/-- Exclusive or of three words. -/
def xor3 (a b c : Nat) : Nat := Nat.xor (Nat.xor a b) c

/-- The message schedule, newest word first. -/
def shaExtend : Nat → List Nat → List Nat
  | 0, w => w
  | k + 1, w =>
    let x := w.getD 14 0
    let y := w.getD 1 0
    let s0 := xor3 (rotr 7 x) (rotr 18 x) (x / 2 ^ 3)
    let s1 := xor3 (rotr 17 y) (rotr 19 y) (y / 2 ^ 10)
    shaExtend k ((w.getD 15 0 + s0 + w.getD 6 0 + s1) % 2 ^ 32 :: w)

/-- One round of the compression function. -/
def shaRound (h : List Nat) (kw : Nat × Nat) : List Nat :=
  match h with
  | [a, b, c, d, e, f, g, x] =>
    let s1 := xor3 (rotr 6 e) (rotr 11 e) (rotr 25 e)
    let ch := Nat.xor (Nat.land e f) (Nat.land (0xFFFFFFFF - e) g)
    let t1 := x + s1 + ch + kw.1 + kw.2
    let s0 := xor3 (rotr 2 a) (rotr 13 a) (rotr 22 a)
    let mj := xor3 (Nat.land a b) (Nat.land a c) (Nat.land b c)
    [(t1 + s0 + mj) % 2 ^ 32, a, b, c, (d + t1) % 2 ^ 32, e, f, g]
  | _ => h

/-- Big-endian words of a byte sequence. -/
def beWords : List Byte → List Nat
  | a :: b :: c :: d :: t => (((a.toNat * 256 + b.toNat) * 256 + c.toNat) * 256 + d.toNat) :: beWords t
  | _ => []

/-- A number as k big-endian bytes. -/
def be (k n : Nat) : List Byte := (le k n).reverse

/-- The blocks of 16 words of a padded message folded into the hash value. -/
def shaBlocks : Nat → List Nat → List Nat → List Nat
  | 0, _, h => h
  | k + 1, w, h =>
    let sched := (shaExtend 48 (w.take 16).reverse).reverse
    let r := (shaK.zip sched).foldl shaRound h
    shaBlocks k (w.drop 16) ((h.zip r).map (fun x => (x.1 + x.2) % 2 ^ 32))

/-- SHA-256. -/
def sha256 (p : List Byte) : List Byte :=
  let n := p.length
  let z := (55 + 64 * (n / 64 + 1) - n) % 64
  let m := p ++ [0x80] ++ List.replicate z 0 ++ be 8 (8 * n)
  let h0 := [0x6a09e667, 0xbb67ae85, 0x3c6ef372, 0xa54ff53a, 0x510e527f, 0x9b05688c, 0x1f83d9ab, 0x5be0cd19]
  ((shaBlocks (m.length / 64) (beWords m) h0).map (be 4)).flatten

/-- HMAC-SHA-256 under a key of 32 bytes (R146). -/
def hmac (key msg : List Byte) : List Byte :=
  let k := padTo 64 key
  sha256 (k.map (· ^^^ 0x5C) ++ sha256 (k.map (· ^^^ 0x36) ++ msg))

/-! AES-128-CCM (R381). -/

/-- The AES S-box in rows of 16 entries, entry 0 lowest. -/
def aesRows : List Nat :=
  [0x76ABD7FE2B670130C56F6BF27B777C63, 0xC072A49CAFA2D4ADF04759FA7DC982CA,
   0x1531D871F1E5A534CCF73F362693FDB7, 0x75B227EBE28012079A059618C323C704,
   0x842FE329B3D63B52A05A6E1B1A2C8309, 0xCF584C4A39BECB6A5BB1FC20ED00D153,
   0xA89F3C507F02F94585334D43FBAAEFD0, 0xD2F3FF1021DAB6BCF5389D928F40A351,
   0x73195D643D7EA7C41744975FEC130CCD, 0xDB0B5EDE14B8EE4688902A22DC4F8160,
   0x79E4959162ACD3C25C2406490A3A32E0, 0x08AE7A65EAF4566CA94ED58D6D37C8E7,
   0x8A8BBD4B1F74DDE8C6B4A61C2E2578BA, 0x9E1DC186B95735610EF6034866B53E70,
   0xDF2855CEE9871E9B948ED9691198F8E1, 0x16BB54B00F2D99416842E6BF0D89A18C]

/-- The S-box of a byte. -/
def aesSub (b : Byte) : Byte := BitVec.ofNat 8 (bitsOf (aesRows.getD (b.toNat / 16) 0) (8 * (b.toNat % 16)) 8)

/-- Twice a byte in the field of AES. -/
def aesTwice (b : Byte) : Byte := (b <<< 1) ^^^ (if b.getLsbD 7 then 0x1B else 0)

/-- Two byte sequences combined. -/
def xorBytes (a b : List Byte) : List Byte := List.zipWith (· ^^^ ·) a b

/-- The next round key. -/
def aesNextKey (rcon : Byte) (k : List Byte) : List Byte :=
  let w (i : Nat) : List Byte := (k.drop (4 * i)).take 4
  let t := ((w 3).drop 1 ++ (w 3).take 1).map aesSub
  let a := xorBytes (xorBytes (w 0) t) [rcon, 0, 0, 0]
  let b := xorBytes (w 1) a
  let c := xorBytes (w 2) b
  a ++ b ++ c ++ xorBytes (w 3) c

/-- Columns mixed, of a state held column by column. -/
def aesMix : List Byte → List Byte
  | a :: b :: c :: d :: t =>
    let u := a ^^^ b ^^^ c ^^^ d
    List.zipWith (fun x y => x ^^^ u ^^^ aesTwice (x ^^^ y)) [a, b, c, d] [b, c, d, a] ++ aesMix t
  | _ => []

/-- One block encrypted under a key of 16 bytes. -/
def aes128 (key block : List Byte) : List Byte :=
  let round (x : List Byte × List Byte) (rcon : Byte) : List Byte × List Byte :=
    let k := aesNextKey rcon x.1
    let sub := x.2.map aesSub
    let shift := (List.range 16).map (fun i => sub.getD ((i + 4 * (i % 4)) % 16) 0)
    (k, xorBytes (if rcon = 0x36 then shift else aesMix shift) k)
  (([0x01, 0x02, 0x04, 0x08, 0x10, 0x20, 0x40, 0x80, 0x1B, 0x36] : List Byte).foldl round (key, xorBytes block key)).2

/-- Blocks of 16 bytes, the last one padded with 0. -/
def blocks16 (p : List Byte) : List (List Byte) :=
  (List.range ((p.length + 15) / 16)).map (fun i => padTo 16 (p.drop (16 * i)))

/-- AES-128-CCM with a nonce of 13 bytes and an authentication code of 8 (R381): the payload encrypted, then the code. -/
def aesCcm (key nonce header payload : List Byte) : List Byte :=
  let first := [0x59] ++ nonce ++ be 2 payload.length
  let mac := (first :: blocks16 (be 2 header.length ++ header) ++ blocks16 payload).foldl
    (fun x b => aes128 key (xorBytes x b)) (List.replicate 16 0)
  let pad (i : Nat) : List Byte := aes128 key ([0x01] ++ nonce ++ be 2 i)
  let coded := (((blocks16 payload).zipIdx 1).map (fun b => xorBytes b.1 (pad b.2))).flatten
  coded.take payload.length ++ (xorBytes mac (pad 0)).take 8

/-- Status codes of Table 4-8. -/
def Status.code : Status → Nat
  | .ok => 0 | .busy => 1 | .denied => 2 | .badParam => 3 | .badMode => 4 | .sealedHw => 5 | .noLeave => 6 | .queued => 7
  | .crcError => 8 | .unknownOpcode => 9 | .timeout => 10 | .deadline => 11 | .notConfirmed => 12

/-- Codes of MODE.MODE (Table 3-12); MONUMENT is 0 in events. -/
def Mode.code : Mode → Nat
  | .monument => 0 | .standby => 1 | .service => 2 | .benchmark => 3 | .recovery => 4 | .commissioning => 5

end Sys2Proof.Machine
end

