-- ==== Sys2Proof/Machine/Crypto.lean ====
section
/-!
DEFINITION. The signatures and tags of the spec: ECDSA over P-256 with SHA-256 and the nonce of RFC 6979 for sealed records (R257), ECDSA over
P-384 with SHA-384 and AES-256-GCM for images (R444, R446). They are those of FIPS 186-5, FIPS 180-4, FIPS 197 and SP 800-38D.
-/

namespace Sys2Proof.Machine

/-! SHA-384. -/

/-- The SHA-512 round constants. -/
def sha512K : List Nat :=
  [0x428a2f98d728ae22, 0x7137449123ef65cd, 0xb5c0fbcfec4d3b2f, 0xe9b5dba58189dbbc] ++
  [0x3956c25bf348b538, 0x59f111f1b605d019, 0x923f82a4af194f9b, 0xab1c5ed5da6d8118] ++
  [0xd807aa98a3030242, 0x12835b0145706fbe, 0x243185be4ee4b28c, 0x550c7dc3d5ffb4e2] ++
  [0x72be5d74f27b896f, 0x80deb1fe3b1696b1, 0x9bdc06a725c71235, 0xc19bf174cf692694] ++
  [0xe49b69c19ef14ad2, 0xefbe4786384f25e3, 0x0fc19dc68b8cd5b5, 0x240ca1cc77ac9c65] ++
  [0x2de92c6f592b0275, 0x4a7484aa6ea6e483, 0x5cb0a9dcbd41fbd4, 0x76f988da831153b5] ++
  [0x983e5152ee66dfab, 0xa831c66d2db43210, 0xb00327c898fb213f, 0xbf597fc7beef0ee4] ++
  [0xc6e00bf33da88fc2, 0xd5a79147930aa725, 0x06ca6351e003826f, 0x142929670a0e6e70] ++
  [0x27b70a8546d22ffc, 0x2e1b21385c26c926, 0x4d2c6dfc5ac42aed, 0x53380d139d95b3df] ++
  [0x650a73548baf63de, 0x766a0abb3c77b2a8, 0x81c2c92e47edaee6, 0x92722c851482353b] ++
  [0xa2bfe8a14cf10364, 0xa81a664bbc423001, 0xc24b8b70d0f89791, 0xc76c51a30654be30] ++
  [0xd192e819d6ef5218, 0xd69906245565a910, 0xf40e35855771202a, 0x106aa07032bbd1b8] ++
  [0x19a4c116b8d2d0c8, 0x1e376c085141ab53, 0x2748774cdf8eeb99, 0x34b0bcb5e19b48a8] ++
  [0x391c0cb3c5c95a63, 0x4ed8aa4ae3418acb, 0x5b9cca4f7763e373, 0x682e6ff3d6b2b8a3] ++
  [0x748f82ee5defb2fc, 0x78a5636f43172f60, 0x84c87814a1f0ab72, 0x8cc702081a6439ec] ++
  [0x90befffa23631e28, 0xa4506cebde82bde9, 0xbef9a3f7b2c67915, 0xc67178f2e372532b] ++
  [0xca273eceea26619c, 0xd186b8c721c0c207, 0xeada7dd6cde0eb1e, 0xf57d4f7fee6ed178] ++
  [0x06f067aa72176fba, 0x0a637dc5a2c898a6, 0x113f9804bef90dae, 0x1b710b35131c471b] ++
  [0x28db77f523047d84, 0x32caab7b40c72493, 0x3c9ebe0a15c9bebc, 0x431d67c49c100d4c] ++
  [0x4cc5d4becb3e42b6, 0x597f299cfc657e2a, 0x5fcb6fab3ad6faec, 0x6c44198c4a475817]

/-- Rotation of a 64-bit word to the right. -/
def rotr64 (n x : Nat) : Nat := x / 2 ^ n + x % 2 ^ n * 2 ^ (64 - n)

/-- The message schedule of 64-bit words, newest first. -/
def sha512Extend : Nat → List Nat → List Nat
  | 0, w => w
  | k + 1, w =>
    let x := w.getD 14 0
    let y := w.getD 1 0
    let s0 := xor3 (rotr64 1 x) (rotr64 8 x) (x / 2 ^ 7)
    let s1 := xor3 (rotr64 19 y) (rotr64 61 y) (y / 2 ^ 6)
    sha512Extend k ((w.getD 15 0 + s0 + w.getD 6 0 + s1) % 2 ^ 64 :: w)

/-- One round of the compression function on 64-bit words. -/
def sha512Round (h : List Nat) (kw : Nat × Nat) : List Nat :=
  match h with
  | [a, b, c, d, e, f, g, x] =>
    let s1 := xor3 (rotr64 14 e) (rotr64 18 e) (rotr64 41 e)
    let ch := Nat.xor (Nat.land e f) (Nat.land (0xFFFFFFFFFFFFFFFF - e) g)
    let t1 := x + s1 + ch + kw.1 + kw.2
    let s0 := xor3 (rotr64 28 a) (rotr64 34 a) (rotr64 39 a)
    let mj := xor3 (Nat.land a b) (Nat.land a c) (Nat.land b c)
    [(t1 + s0 + mj) % 2 ^ 64, a, b, c, (d + t1) % 2 ^ 64, e, f, g]
  | _ => h

/-- A number from big-endian bytes. -/
def beNat (p : List Byte) : Nat := p.foldl (fun a b => 256 * a + b.toNat) 0

/-- Big-endian words of 8 bytes. -/
def beWords64 (p : List Byte) : List Nat := (List.range (p.length / 8)).map (fun i => beNat ((p.drop (8 * i)).take 8))

/-- The blocks of 16 words of a padded message folded into the hash value. -/
def sha512Blocks : Nat → List Nat → List Nat → List Nat
  | 0, _, h => h
  | k + 1, w, h =>
    let sched := (sha512Extend 64 (w.take 16).reverse).reverse
    let r := (sha512K.zip sched).foldl sha512Round h
    sha512Blocks k (w.drop 16) ((h.zip r).map (fun x => (x.1 + x.2) % 2 ^ 64))

/-- SHA-384. -/
def sha384 (p : List Byte) : List Byte :=
  let n := p.length
  let z := (111 + 128 * (n / 128 + 1) - n) % 128
  let m := p ++ [0x80] ++ List.replicate z 0 ++ be 16 (8 * n)
  let h0 :=
    [0xcbbb9d5dc1059ed8, 0x629a292a367cd507, 0x9159015a3070dd17, 0x152fecd8f70e5939,
   0x67332667ffc00b31, 0x8eb44a8768581511, 0xdb0c2e0d64f98fa7, 0x47b5481dbefa4fa4]
  (((sha512Blocks (m.length / 128) (beWords64 m) h0).map (be 8)).flatten).take 48

/-! AES-256-GCM (R444). -/

/-- The round keys of a key of 32 bytes, word by word, newest first: one more word. -/
def aesNextWord (i : Nat) (w : List (List Byte)) : List (List Byte) :=
  let t := w.headD []
  let rcon : Byte := BitVec.ofNat 8 (2 ^ (i / 8 - 1))
  let u := if i % 8 = 0 then xorBytes ((t.drop 1 ++ t.take 1).map aesSub) [rcon, 0, 0, 0]
    else if i % 8 = 4 then t.map aesSub else t
  xorBytes (w.getD 7 []) u :: w

/-- The fifteen round keys of a key of 32 bytes. -/
def aesKeys256 (key : List Byte) : List (List Byte) :=
  let w := ((List.range 52).foldl (fun w i => aesNextWord (i + 8) w)
    ((List.range 8).map (fun i => (key.drop (4 * i)).take 4)).reverse).reverse
  (List.range 15).map (fun r => ((w.drop (4 * r)).take 4).flatten)

/-- One block encrypted under the round keys of AES-256. -/
def aes256 (keys : List (List Byte)) (block : List Byte) : List Byte :=
  let round (x : List Byte) (k : Nat × List Byte) : List Byte :=
    let sub := x.map aesSub
    let shift := (List.range 16).map (fun i => sub.getD ((i + 4 * (i % 4)) % 16) 0)
    xorBytes (if k.1 = 14 then shift else aesMix shift) k.2
  (((List.range 15).zip keys).drop 1).foldl round (xorBytes block (keys.headD []))

/-- One step of the product in the field of GCM: the sum so far, the multiplicand. -/
def gcmStep (x : Nat) (a : Nat × Nat) (i : Nat) : Nat × Nat :=
  let z := if x.testBit (127 - i) then Nat.xor a.1 a.2 else a.1
  (z, if a.2 % 2 = 1 then Nat.xor (a.2 / 2) (0xE1 * 2 ^ 120) else a.2 / 2)

/-- The product of two blocks in the field of GCM. -/
def gcmMul (x y : Nat) : Nat := ((List.range 128).foldl (gcmStep x) (0, y)).1

/-- GHASH of associated data and ciphertext. -/
def ghash (h : Nat) (aad c : List Byte) : Nat :=
  let l := blocks16 aad ++ blocks16 c ++ [be 8 (8 * aad.length) ++ be 8 (8 * c.length)]
  l.foldl (fun a b => gcmMul (Nat.xor a (beNat b)) h) 0

/-- The counter stream of a nonce of 12 bytes over some bytes (AES-256-GCM; one operation enciphers and deciphers). -/
def gcmStream (key nonce p : List Byte) : List Byte :=
  let keys := aesKeys256 key
  ((((blocks16 p).zipIdx 2).map (fun b => xorBytes b.1 (aes256 keys (nonce ++ be 4 b.2)))).flatten).take p.length

/-- The tag of AES-256-GCM over associated data and ciphertext. -/
def gcmTag (key nonce aad c : List Byte) : List Byte :=
  let keys := aesKeys256 key
  let h := beNat (aes256 keys (List.replicate 16 0))
  xorBytes (be 16 (ghash h aad c)) (aes256 keys (nonce ++ be 4 1))

/-! Elliptic curves y² = x³ − 3x + b over a prime field, points in Jacobian coordinates. -/

/-- A curve: field, group order, base point, bytes of a number. -/
structure Curve where
  p : Nat
  n : Nat
  gx : Nat
  gy : Nat
  len : Nat

/-- P-256. -/
def p256 : Curve :=
  { p := 0xFFFFFFFF00000001000000000000000000000000FFFFFFFFFFFFFFFFFFFFFFFF,
    n := 0xFFFFFFFF00000000FFFFFFFFFFFFFFFFBCE6FAADA7179E84F3B9CAC2FC632551,
    gx := 0x6B17D1F2E12C4247F8BCE6E563A440F277037D812DEB33A0F4A13945D898C296,
    gy := 0x4FE342E2FE1A7F9B8EE7EB4A7C0F9E162BCE33576B315ECECBB6406837BF51F5, len := 32 }

/-- P-384. -/
def p384 : Curve :=
  { p := 0xFFFFFFFFFFFFFFFFFFFFFFFFFFFFFFFFFFFFFFFFFFFFFFFFFFFFFFFFFFFFFFFEFFFFFFFF0000000000000000FFFFFFFF,
    n := 0xFFFFFFFFFFFFFFFFFFFFFFFFFFFFFFFFFFFFFFFFFFFFFFFFC7634D81F4372DDF581A0DB248B0A77AECEC196ACCC52973,
    gx := 0xAA87CA22BE8B05378EB1C71EF320AD746E1D3B628BA79B9859F741E082542A385502F25DBF55296C3A545E3872760AB7,
    gy := 0x3617DE4A96262C6F5D9E98BF9292DC29F8F41DBD289A147CE9DA3113B5F0B8C00A60B1CE1D7E819D7A431D7C90EA0E5F, len := 48 }

/-- A power modulo m, by the bits of the exponent from the highest of `bits`. -/
def powMod (m a e bits : Nat) : Nat :=
  ((List.range bits).reverse).foldl (fun r i => if e.testBit i then r * r % m * a % m else r * r % m) (1 % m)

/-- The inverse modulo a prime of the curve. -/
def invMod (c : Curve) (m a : Nat) : Nat := powMod m (a % m) (m - 2) (8 * c.len)

/-- A difference modulo m of reduced numbers. -/
def subMod (m a b : Nat) : Nat := (a + m - b) % m

/-- A point doubled; (x, y, 0) is the point at infinity. -/
def dblPoint (c : Curve) (q : Nat × Nat × Nat) : Nat × Nat × Nat :=
  let (x, y, z) := q
  let d := z * z % c.p
  let g := y * y % c.p
  let b := x * g % c.p
  let a := 3 * (subMod c.p x d * ((x + d) % c.p)) % c.p
  let x3 := subMod c.p (a * a % c.p) (8 * b % c.p)
  let z3 := subMod c.p (subMod c.p ((y + z) * (y + z) % c.p) g) d
  (x3, subMod c.p (a * subMod c.p (4 * b % c.p) x3 % c.p) (8 * (g * g) % c.p), z3)

/-- The sum of two points. -/
def addPoint (c : Curve) (q r : Nat × Nat × Nat) : Nat × Nat × Nat :=
  let (x1, y1, z1) := q
  let (x2, y2, z2) := r
  if z1 = 0 then r
  else if z2 = 0 then q
  else
    let a := z1 * z1 % c.p
    let b := z2 * z2 % c.p
    let u1 := x1 * b % c.p
    let u2 := x2 * a % c.p
    let s1 := y1 * z2 % c.p * b % c.p
    let s2 := y2 * z1 % c.p * a % c.p
    if u1 = u2 then (if s1 = s2 then dblPoint c q else (1, 1, 0))
    else
      let h := subMod c.p u2 u1
      let k := subMod c.p s2 s1
      let hh := h * h % c.p
      let hhh := h * hh % c.p
      let v := u1 * hh % c.p
      let x3 := subMod c.p (subMod c.p (k * k % c.p) hhh) (2 * v % c.p)
      (x3, subMod c.p (k * subMod c.p v x3 % c.p) (s1 * hhh % c.p), z1 * z2 % c.p * h % c.p)

/-- A multiple of a point. -/
def mulPoint (c : Curve) (k : Nat) (q : Nat × Nat × Nat) : Nat × Nat × Nat :=
  ((List.range (8 * c.len)).reverse).foldl (fun r i =>
    let d := dblPoint c r
    if k.testBit i then addPoint c d q else d) (1, 1, 0)

/-- The affine coordinates of a point. -/
def affine (c : Curve) (q : Nat × Nat × Nat) : Nat × Nat :=
  let i := invMod c c.p q.2.2
  let i2 := i * i % c.p
  (q.1 * i2 % c.p, q.2.1 * i2 % c.p * i % c.p)

/-- The public key of a private key: X and Y. -/
def publicKey (c : Curve) (d : Nat) : Nat × Nat := affine c (mulPoint c d (c.gx, c.gy, 1))

/-- HMAC-SHA-256 state (K, V) of RFC 6979 stirred with some bytes. -/
def nonceStir (x : List Byte × List Byte) (m : List Byte) : List Byte × List Byte :=
  let k := hmac x.1 (x.2 ++ m)
  (k, hmac k x.2)

/-- The first nonce of RFC 6979 that gives a signature, among `tries`: r and s. -/
def signTry (d e : Nat) : Nat → List Byte × List Byte → Nat × Nat
  | 0, _ => (0, 0)
  | tries + 1, (k, v) =>
    let v1 := hmac k v
    let t := beNat v1
    let r := (affine p256 (mulPoint p256 t (p256.gx, p256.gy, 1))).1 % p256.n
    let s := invMod p256 p256.n t * ((e + r * d) % p256.n) % p256.n
    if t = 0 ∨ p256.n ≤ t ∨ r = 0 ∨ s = 0 then signTry d e tries (nonceStir (k, v1) [0x00]) else (r, s)

/-- ECDSA over P-256 with SHA-256 and the deterministic nonce of RFC 6979: r and s, 32 bytes each, big-endian, byte 0 lowest (R253,
R257). -/
def ecdsa256 (d : Nat) (m : List Byte) : BitVec 512 :=
  let h := beNat (sha256 m)
  let seed := be 32 d ++ be 32 (h % p256.n)
  let z := nonceStir (List.replicate 32 0, List.replicate 32 1) ([0x00] ++ seed)
  let x := signTry d h 8 (nonceStir z ([0x01] ++ seed))
  BitVec.ofNat 512 (ofBytes (be 32 x.1 ++ be 32 x.2))

/-- An ECDSA signature over P-384 with SHA-384 holds: public key, bytes, r, s (R446). -/
def ecdsa384Ok (key : Nat × Nat) (m : List Byte) (r s : Nat) : Bool :=
  let w := invMod p384 p384.n s
  let u := mulPoint p384 (beNat (sha384 m) * w % p384.n) (p384.gx, p384.gy, 1)
  let v := mulPoint p384 (r * w % p384.n) (key.1, key.2, 1)
  let q := addPoint p384 u v
  decide (0 < r) && decide (r < p384.n) && decide (0 < s) && decide (s < p384.n) && q.2.2 != 0 &&
    decide ((affine p384 q).1 % p384.n = r)

end Sys2Proof.Machine
end

