-- ==== Sys2Proof/Machine/Ops.lean ====
section
/-!
DEFINITION. The named operations that every meaning shares: time, outlets, events, the journal, modes as they stand.
-/

namespace Sys2Proof.Machine

/-- Frames in n milliseconds (R21: a frame is 50 us). -/
def msF (n : Nat) : Nat := n * 20

/-- Frames in n seconds (R21). -/
def secF (n : Nat) : Nat := n * 20000

/-- Legal frames as a 48-bit time stamp: seconds above a 16-bit frame index (R229). -/
def stampOf (legal : Nat) : Nat := legal / 20000 % 2 ^ 32 * 2 ^ 16 + legal % 20000

/-- A time stamp of 6 bytes (R229). -/
def stampB (legal : Nat) : List Byte := le 6 (stampOf legal)

/-- The legal frames that a 48-bit time stamp spells; a frame index above 19,999 spells none. -/
def frameOf (st : Nat) : Option Nat :=
  if st % 2 ^ 16 < 20000 then some (st / 2 ^ 16 * 20000 + st % 2 ^ 16) else none

namespace State

/-- Ticks since the model's origin. -/
def now (s : State) : Nat := s.clock.tick

/-- The time stamp of this frame as bytes. -/
def stamp (s : State) : List Byte := stampB s.clock.legal

/-- Outlets that are active (R2, R3). -/
def outletCount (s : State) : Nat :=
  match s.factory.variant with
  | .hx4 => 4
  | .hx8 => if bit s.rst.straps 4 then 8 else 4

/-- Outlet n is present (R4). -/
def present (s : State) (n : Nat) : Bool := decide (n < s.outletCount)

/-- The active outlets. -/
def outlets (s : State) : List Nat := List.range s.outletCount

/-- The mask of active outlets. -/
def outletMask (s : State) : BitVec 8 := maskOf 8 s.outlets

/-- The open session of outlet n (R105). -/
def session (s : State) (n : Nat) : Option Session := vget s.billing.sessions n none

/-- A session is open on outlet n. One saved open for an outlet that the strap has since made absent stays in the saved registers, untouched
and signed for nowhere, until the outlet is present again (R4, R111; DESIGN CHOICE, log 42). -/
def sessionOpen (s : State) (n : Nat) : Bool := s.present n && (s.session n).isSome

/-- Mask of the outlets with an open session. -/
def openMask (s : State) : BitVec 8 := maskOf 8 ((List.range 8).filter s.sessionOpen)

/-- Some session is open. -/
def anySession (s : State) : Bool := (List.range 8).any s.sessionOpen

/-- The internal rails are up: from the end of boot step 1 until HOLD drops out (R55, R72, R94). -/
def railsUp (s : State) : Bool := s.power.supply == .on && s.power.rails

/-- V3D is up: the D3 pads are powered (R55). -/
def v3dUp (s : State) : Bool := s.railsUp && s.power.railOut != 2

/-- VP12 and VN12 are up: the pilots have their rails (R53, R271). -/
def pilotRails (s : State) : Bool := s.railsUp && s.power.railOut != 4 && s.power.railOut != 5

/-- The device is powered and its regions run: boot has made every step (R95). -/
def running (s : State) : Bool := s.power.supply == .on && s.rst.phase == .running

/-- SITE, METROLOGY and POWER run: no reset of reach SYSTEM or wider holds them (R93, R99). -/
def regionsRun (s : State) : Bool :=
  s.power.supply == .on &&
    (match s.rst.phase with
      | .running => true
      | .released => true
      | .held k => decide (5 ≤ k)
      | .factory => false
      | .asserted => s.rst.reachNow == 0)

/-- Fault reports are collected: the regions run, or a reset has been called for and has not yet taken effect (R26, R27, worked
example of Chapter 1). -/
def collecting (s : State) : Bool := s.power.supply == .on && (s.regionsRun || s.rst.phase == .asserted)

/-- The boot step that releases a region (Table 3-6; regions by code, Table 1-2). -/
def releaseStep (region : Nat) : Nat :=
  match region with
  | 0 => 2
  | 1 => 3
  | 2 => 4
  | 3 => 1
  | 4 => 5
  | _ => 6

/-- A region has been released and is not held by a reset that has taken effect (R93, R95). -/
def regionUp (s : State) (region : Nat) : Bool :=
  s.railsUp &&
    (match s.rst.phase with
      | .running => true
      | .released => true
      | .held k => decide (releaseStep region ≤ k)
      | .factory => decide (releaseStep region ≤ 1)
      | .asserted => true)

/-- The shutdown sequence has begun (R83). -/
def shutting (s : State) : Bool := s.power.pfw

/-- The host port runs: from READY until step 6 of the shutdown sequence (R118). -/
def portRuns (s : State) : Bool := s.running && decide (s.power.shutStep < 6)

/-- The recovery ROM runs (R450). -/
def inRom (s : State) : Bool := s.store.recoveryRom

/-- Draws the next argument of the free values. -/
def drawFree (s : State) : State := { s with factory := { s.factory with freeCtr := s.factory.freeCtr + 1 } }

end State

/-! Events. -/

/-- Events that carry ACK_REQ under Table 15-2 (R462). -/
def ackCodes : List Nat :=
  [0x0115, 0x0161, 0x0162, 0x0163, 0x0166, 0x0220, 0x0320, 0x0321, 0x0322, 0x0324] ++
  [0x0420, 0x0422, 0x0423, 0x0424, 0x0425, 0x0426, 0x0427, 0x0523, 0x0525, 0x0526, 0x0527, 0x0529] ++
  [0x0620, 0x0621, 0x0622, 0x0623, 0x0624, 0x0625, 0x0626, 0x0627, 0x0628, 0x0629, 0x062A] ++
  [0x0721, 0x0723, 0x0724, 0x0824, 0x0827, 0x0923, 0x0925, 0x0A21] ++
  [0x0B21, 0x0B23, 0x0B24, 0x0B25, 0x0B26, 0x0C01]

/-- The severity of an event (Table 15-1): its code's, or by payload for the rows of Table 15-2 that say so and for FAULT_PRIMARY (R460,
R461); none for a number that is no event (R462). -/
def severity (code : Nat) (payload : List Byte) : Option Nat :=
  let b (i : Nat) : Nat := (payload.getD i 0).toNat
  if [0x0116, 0x0160, 0x0161, 0x0144, 0x0167].contains code ||
      [0x0221, 0x0222, 0x0224, 0x0225, 0x0321, 0x0420, 0x0421, 0x0422, 0x0425, 0x0428, 0x042A].contains code ||
      [0x0520, 0x0521, 0x052A, 0x0629, 0x062B, 0x062C, 0x0720, 0x0820, 0x0821, 0x0825].contains code ||
      [0x0920, 0x0922, 0x0923, 0x0924, 0x0A20, 0x0A22, 0x0B20, 0x0B21, 0x0B22, 0x0B25].contains code then
    some 1
  else if [0x0104, 0x0115, 0x0121, 0x0123, 0x0143, 0x0145, 0x0162, 0x0164, 0x0223, 0x0323, 0x0426].contains code ||
      [0x0522, 0x0524, 0x0525, 0x0526, 0x0722, 0x0826, 0x0921, 0x0B24].contains code then some 2
  else if [0x0165, 0x0320, 0x0322, 0x0523, 0x0620, 0x0622, 0x062A, 0x0721, 0x0723, 0x0824, 0x0827].contains code then some 3
  else if [0x0163, 0x0166, 0x0423, 0x0424, 0x0528, 0x0529, 0x0621, 0x0623, 0x0625, 0x0626, 0x0628, 0x0B23].contains code then some 4
  else
    match code with
    | 0x0220 => some (if b 1 ≤ 1 then 4 else 3)
    | 0x0324 => some (if b 16 ≠ 0 then 3 else 1)
    | 0x0427 => some (if b 0 = 0 then 1 else 4)
    | 0x0429 => some (if b 8 = 0 then 1 else 4)
    | 0x0527 => some (if [3, 4, 10].contains (b 9) then 4 else 1)
    | 0x0624 => some (if (b 1 = 0 ∨ b 1 = 11) ∧ b 4 = 0 then 1 else 4)
    | 0x0627 => some (if b 1 = 0 then 1 else 4)
    | 0x0724 => some (if b 2 = 0 then 1 else 3)
    | 0x0822 => some (if b 0 = 0 then 2 else 1)
    | 0x0823 => some (if b 0 = 0 then 2 else 1)
    | 0x0925 => some (if b 0 = 1 then 1 else 3)
    | 0x0A21 => some (if b 0 = 0 then 1 else if b 0 = 1 ∨ b 0 = 4 then 4 else 3)
    | 0x0B26 => some (if b 0 = 2 then 4 else 3)
    | 0x0C01 => let r := b 18; some (if r = 0 then 2 else if r ≤ 2 then 3 else if r ≤ 4 then 4 else 5)
    | _ => none

/-- EVENT_LOST has a place of its own in the plain queue (R138). -/
def eventLost : Nat := 0x0104

/-- Bytes of a journal record with a body of n bytes (Table 14-4). -/
def journalSize (n : Nat) : Nat := 24 + (n + 7) / 8 * 8 + 8

/-- Bytes 0 to 23 of a journal record (Table 14-4). -/
def JRec.header (r : JRec) : List Byte := le 8 r.jseq ++ le 8 r.origin ++ le 1 r.type ++ le 1 (if r.copy then 1 else 0) ++ le 2 r.len ++ le 4 0

/-- Size of the journal's application and metrology areas (Table 14-3). -/
def appArea : Nat := 1572864
def metArea : Nat := 524288

/-- Events with ACK_REQ held (R137): delivered and unacknowledged, or waiting. -/
def Port.held (p : Port) : Nat := p.flight.length + (p.fresh.filter (·.ack)).length

/-- Plain events queued, EVENT_LOST apart (R138). -/
def Port.plain (p : Port) : Nat := (p.fresh.filter (fun e => !e.ack && e.code != eventLost)).length

/-- Bytes that live records take (R437). -/
def liveBytes (l : List JRec) : Nat := (l.map (fun r => journalSize r.len)).foldl (· + ·) 0

/-- The live records of an area written again at its head, as copies numbered from q (R437). -/
def journalCopies (q : Nat) (l : List JRec) : List JRec :=
  l.zipWith (fun r k => { r with jseq := q + k, copy := true }) (List.range l.length)

/-- The type of a RETIRE record (Table 14-5). -/
def retireType : Nat := 0x18

/-- The live records after one more is written; a RETIRE record stays only until the space of what it names is used again (R436). -/
def journalLive (q type key n : Nat) (l : List JRec) : List JRec :=
  if type = retireType then l else l ++ [{ jseq := q, origin := q, type := type, key := key, len := n }]

/-- A record is written to the application area, which is compacted when less than 25 % of it is free (R435 to R437). -/
def journalApp (type key n : Nat) (s : State) : State :=
  let t := s.store
  let q := t.appJseq + 1
  let used := t.appUsed + journalSize n
  let l := journalLive q type key n t.appLive
  if (appArea - used) * 4 < appArea then
    { s with store := { t with appJseq := q + l.length, appUsed := liveBytes l, appLive := journalCopies (q + 1) l,
                               compactions := satInc 16 t.compactions } }
  else { s with store := { t with appJseq := q, appUsed := used, appLive := l } }

/-- A record is written to the metrology area, likewise (R435 to R437). -/
def journalMet (type key n : Nat) (s : State) : State :=
  let t := s.store
  let q := t.metJseq + 1
  let used := t.metUsed + journalSize n
  let l := journalLive q type key n t.metLive
  if (metArea - used) * 4 < metArea then
    { s with store := { t with metJseq := q + l.length, metUsed := liveBytes l, metLive := journalCopies (q + 1) l,
                               compactions := satInc 16 t.compactions } }
  else { s with store := { t with metJseq := q, metUsed := used, metLive := l } }

/-- The live records of the application area that `hit` names are retired, each by a RETIRE record (R436). -/
def appRetire (hit : JRec → Bool) (s : State) : State :=
  match s.store.appLive.filter hit with
  | [] => s
  | l => l.foldl (fun s r => journalApp retireType r.origin 8 s)
           { s with store := { s.store with appLive := s.store.appLive.filter (fun r => !hit r) } }

/-- The live records of the metrology area that `hit` names are retired (R436). -/
def metRetire (hit : JRec → Bool) (s : State) : State :=
  match s.store.metLive.filter hit with
  | [] => s
  | l => l.foldl (fun s r => journalMet retireType r.origin 8 s)
           { s with store := { s.store with metLive := s.store.metLive.filter (fun r => !hit r) } }

/-- A record of the application area that retires the older ones of its type and key (R436). -/
def journalNew (type key n : Nat) (s : State) : State :=
  let q := s.store.appJseq
  appRetire (fun r => r.type == type && r.key == key && decide (r.origin ≤ q)) (journalApp type key n s)

/-- UPDATE records, keyed by slot (2: staging) and kind: 0 progress, 1 boot record, 2 settings copy (R436; kinds DESIGN CHOICE, log 29). -/
def journalUpdate (slot kind n : Nat) (s : State) : State := journalNew 0x17 (4 * slot + kind) n s

/-- The key of an EVENT record: CODE and SEQ of its event. -/
def eventKey (code : Nat) (seq : Byte) : Nat := 256 * code + seq.toNat

/-- The oldest plain event of a queue removed (R138). -/
def dropPlain : List Event → List Event
  | [] => []
  | e :: t => if !e.ack && e.code != eventLost then t else e :: dropPlain t

/-- A plain event enters the queue of 128, which drops its oldest when full (R138). -/
def pushPlain (e : Event) (p : Port) : Port :=
  if 128 ≤ p.plain then
    { p with fresh := dropPlain p.fresh ++ [e], dropped := satInc 16 p.dropped, lost := satInc 16 p.lost }
  else { p with fresh := p.fresh ++ [e] }

/-- The next event sequence number is taken (R136). -/
def Port.seqUp (p : Port) : Port := { p with evSeq := p.evSeq + 1 }

/-- The device emits an event: with ACK_REQ it is held and journalled, up to 1,024; beyond that, and without it, it goes
through the plain queue (R136 to R138, R462, R463). `cmdAck` is the ACK_REQ of the command that the event completes. -/
def emit (code : Nat) (payload : List Byte) (cmdAck : Bool) (s : State) : State :=
  let ack := ackCodes.contains code || cmdAck
  let e : Event := { seq := s.port.evSeq, code := code, ack := ack, payload := payload }
  if ack && decide (s.port.held < 1024) then
    journalApp 0x11 (eventKey code e.seq) (2 + payload.length)
      { s with port := { s.port.seqUp with fresh := s.port.fresh ++ [e],
                                           blocked := s.port.blocked || decide (1024 ≤ s.port.held + 1) } }
  else if ack then
    let q := { s.port.seqUp with downgraded := satInc 16 s.port.downgraded, blocked := true }
    { s with port := pushPlain { e with ack := false } q }
  else { s with port := pushPlain e s.port.seqUp }

/-- An event that completes no command. -/
def event (code : Nat) (payload : List Byte) (s : State) : State := emit code payload false s

/-! Modes as they stand. -/

/-- The role key for a code 1 to 4 of Table 4-11 is set. -/
def keySet (s : State) (role : Nat) : Bool := vget s.roles.keys (role - 1) 0 != 0

/-- MODE.NOT_PROVISIONED (R149). -/
def notProvisioned (s : State) : Bool := !(keySet s 1 && keySet s 2)

/-- MODE.SEAL_OPEN (Table 3-12). -/
def sealOpen (s : State) : Bool := s.seals.broken || s.seals.unverified

/-- The bytes of the safety configuration, every index in ascending order (R336). -/
def safetyBytes (s : State) : List Byte :=
  (s.sw.config.toList.map objBytes).flatten ++ (s.sw.kdrv.toList.map objBytes).flatten ++
  (s.sw.pmMap.toList.map objBytes).flatten ++ objBytes s.sw.busConfig ++
  (s.sw.plumb.toList.map objBytes).flatten ++ (s.sw.inputConfig.toList.map objBytes).flatten

/-- SAFETY_STATE.CONFIG_HASH (R336). -/
def configHash (s : State) : BitVec 256 := BitVec.ofNat 256 (ofBytes (sha256 (safetyBytes s)))

/-- SAFETY_STATE.PROOF_VALID (R335). -/
def proofValid (s : State) : Bool := s.sw.proofHash == some (configHash s)

/-- MODE.SAFETY_UNPROVEN (R114). -/
def safetyUnproven (s : State) : Bool := !proofValid s

/-- A commissioning condition holds (R114). -/
def commCondition (s : State) : Bool := notProvisioned s || sealOpen s || safetyUnproven s

/-- MODE.COMMISSIONING_PENDING: in SERVICE or RECOVERY a condition of R114 holds (Table 3-12). -/
def commPending (s : State) : Bool :=
  (s.modes.mode == .service || s.modes.mode == .recovery) && commCondition s

/-- New sessions refused by the mode or a pending change (R109, R447). -/
def modeRefuses (s : State) : Bool :=
  !(s.modes.mode == .standby || s.modes.mode == .service) || s.modes.benchPending || commPending s ||
    s.modes.activating || s.rst.forced

/-- Mode in STANDBY or COMMISSIONING. -/
def standbyOrComm (s : State) : Bool := s.modes.mode == .standby || s.modes.mode == .commissioning

end Sys2Proof.Machine
end

