-- ==== Sys2Proof/Machine/Filters.lean ====
section
/-!
DEFINITION. The modulator inputs, the decimator cells and the FIR engines: from the bits of a frame to the outputs of the four
presets with their flags and instants (R156 to R174, R183). An instant counts units of 16 modulator cycles, 64 to a frame, from
the model's origin. The jobs of a frame are made at the tick that ends it (DESIGN CHOICE, log 33).
-/

namespace Sys2Proof.Machine

/-! Inputs. -/

/-- MOD_CONFIG of outlet n (Table 5-7). -/
def modCfg (s : State) (n : Nat) : BitVec 32 := vget s.fe.modConfig n 0

/-- Input x of outlet n is in use (R156). -/
def modEnabled (s : State) (n x : Nat) : Bool := decide (x < 8) && bit (modCfg s n) x

/-- Modulator input x of outlet n. -/
def modIn (s : State) (n x : Nat) : ModInput := vget s.fe.inputs (8 * n + x) {}

/-- Modulator input x of outlet n rewritten. -/
def updIn' (n x : Nat) (f : ModInput → ModInput) (s : State) : State :=
  { s with fe := { s.fe with inputs := vmod s.fe.inputs (8 * n + x) f } }

/-- An input is neither stuck nor under a clock fault (R160). -/
def ModInput.sound (i : ModInput) : Bool := !i.stuck && !i.clockFault

/-- Input x is enabled and valid (R160). -/
def inputValid (s : State) (n x : Nat) : Bool := modEnabled s n x && (modIn s n x).sound

/-- A value of input x in codes of 2^-30 of full scale, as 2^-40 mV or mA (R158, R265). -/
def calibrated (s : State) (n x : Nat) (code : Int) : Int :=
  let c := vget s.seals.cal n 0
  (code - signedOf 32 (fld c (64 * x + 32) 32)) * (fld c (64 * x) 32 : Nat)

/-- The slot of input x of outlet n in its engine (R167). -/
def slotOf (n x : Nat) : Nat := 8 * (n % 2) + x

/-- Engine e, and engine e rewritten. -/
def engine (s : State) (e : Nat) : Engine := vget s.fe.engines e {}
def updEngine (e : Nat) (f : Engine → Engine) (s : State) : State :=
  { s with fe := { s.fe with engines := vmod s.fe.engines e f } }

/-- A job instance missed its deadline in the frame that ends (R24, R222). -/
def missed (s : State) (job inst : Nat) : Bool :=
  match s.faults.jobs.find? (fun j => j.1 == 8 * job + inst) with
  | some j => j.2.run != 0 && decide (j.2.lastTick + 1 = s.now)
  | none => false

/-! Disturbances. -/

/-- The instant at which a tick's frame begins. -/
def unitOf (tick : Nat) : Nat := 64 * tick

/-- An input is disturbed at an instant (R173). -/
def ModInput.disturb (t : Nat) (i : ModInput) : ModInput := { i with marks := t :: i.marks }

/-- A span (t − l, t + r] holds no disturbance (R173). -/
def undisturbed (marks : List Nat) (t l r : Nat) : Bool := !marks.any (fun m => decide (t < m + l) && decide (m ≤ t + r))

/-! Decimator cells. -/

/-- One clock cycle of a chain of integrators (R164). -/
def integrate : List (BitVec 48) → BitVec 48 → List (BitVec 48)
  | [], _ => []
  | a :: t, x => (a + x) :: integrate t (a + x)

/-- One output of a chain of combs: what the delays hold next, and the last difference (R164). -/
def comb : List (BitVec 48) → BitVec 48 → List (BitVec 48) × BitVec 48
  | [], y => ([], y)
  | d :: t, y => (y :: (comb t (y - d)).1, (comb t (y - d)).2)

/-- Sixteen bits of the stream, from bit 16j (R164). -/
def feed (b : BitVec 1024) (j : Nat) (c : Cell) : Cell :=
  { c with ints := (List.range 16).foldl (fun l i => integrate l (if b.getLsbD (16 * j + i) then 1 else -1)) c.ints }

/-- The FAST value of a cell: (2d − 1) × 2^14 in steps of 4 (R158, R164). -/
def fastOut (c : Cell) : Cell × Int :=
  let r := comb c.fastD (c.ints.getD 2 0)
  ({ c with fastD := r.1 }, 4 * r.2.toInt)

/-- The sinc5 value of a cell (R164). -/
def slowOut (c : Cell) : Cell × Int :=
  let r := comb c.slowD (c.ints.getD 4 0)
  ({ c with slowD := r.1 }, r.2.toInt)

/-- A FAST value above 0.9 × 2^14 (R160). -/
def fastOver (v : Int) : Bool := decide (9 * 16384 < 10 * v.natAbs)

/-- A cell with the FAST and sinc5 values made so far, newest first. -/
structure CellRun where
  cell : Cell
  fast : List Int
  slow : List Slow

/-- Sixteen cycles of the cell in slot k: its FAST value, its sinc5 value at the cell's phase, and the next 16 bits (R164, R165). -/
def cellUnit (k : Nat) (ok : Bool) (b : BitVec 1024) (r : CellRun) (j : Nat) : CellRun :=
  let f := fastOut r.cell
  let fast := f.2 :: r.fast
  if j % 16 = 4 * (k % 4) then
    let q := slowOut f.1
    { cell := feed b j q.1, fast := fast, slow := { v := q.2, ok := ok, high := (fast.take 16).any fastOver } :: r.slow }
  else { cell := feed b j f.1, fast := fast, slow := r.slow }

/-- sinc5 values kept of a slot: 256 of history (R169) and those not yet taken or still needed by a late job (R222). -/
def slowKept : Nat := 336

/-- A word holds 64 set bits in succession. -/
def run64 (x : BitVec 1087) : Bool :=
  let a := x &&& (x >>> 1)
  let b := a &&& (a >>> 2)
  let c := b &&& (b >>> 4)
  let d := c &&& (c >>> 8)
  let e := d &&& (d >>> 16)
  (e &&& (e >>> 32)) != 0

/-- 64 identical bits in succession among the bits of a frame and the 63 before them (R160). -/
def stuckRun (tail : BitVec 63) (b : BitVec 1024) : Bool := run64 (b ++ tail) || run64 (~~~ (b ++ tail))

/-- The bits that a frame brings for an input. -/
def frameBits (m : List (Nat × Nat × BitVec 1024)) (n x : Nat) : Option (BitVec 1024) :=
  (m.find? (fun b => b.1 == n && b.2.1 == x)).map (·.2.2)

/-- An input at the end of a frame. An enabled input of which the frame brings no bits makes no value (log 33). -/
def inputFrame (bits : Option (BitVec 1024)) (now k : Nat) (valid : Bool) (i : ModInput) : ModInput :=
  let ok := valid && !i.bad
  let r := match bits with
    | some b => (List.range 64).foldl (cellUnit k ok b) { cell := i.cell, fast := i.fast, slow := i.slow }
    | none => { cell := i.cell, fast := List.replicate 64 0 ++ i.fast, slow := List.replicate 4 ({} : Slow) ++ i.slow }
  { i with tail := bits.elim 0x2AAAAAAAAAAAAAAA (fun b => b.extractLsb' 961 63), cell := r.cell, fast := r.fast.take 79, slow := r.slow.take slowKept, bad := !valid,
           high := i.high || (r.fast.take 64).any fastOver, marks := i.marks.filter (fun m => decide (unitOf now < m + unitOf 128)) }

/-- The enabled inputs of the active outlets, as (outlet, input). -/
def enabledInputs (s : State) : List (Nat × Nat) :=
  (s.outlets.map (fun n => ((List.range 8).filter (modEnabled s n)).map (fun x => (n, x)))).flatten

/-- Every enabled cell runs the bits of the frame that ends (R156, R166). -/
def cellsFrame (m : List (Nat × Nat × BitVec 1024)) (s : State) : State :=
  (enabledInputs s).foldl (fun s i =>
    updIn' i.1 i.2 (inputFrame (frameBits m i.1 i.2) s.now (slotOf i.1 i.2) (inputValid s i.1 i.2)) s) s

/-- FAST overranges of the superframe that ends become the OVERRANGE flags (R160, R192). -/
def overRange (s : State) : State :=
  { s with fe := { s.fe with inputs := s.fe.inputs.mapIdx (fun i x =>
      { x with overrange := x.high && modEnabled s (i / 8) (i % 8), high := false }) } }

/-! Filters. -/

/-- Values `hi`, `hi` − 1, … of a history whose newest is value `newest`: at most n of them. -/
def window (h : List Slow) (newest hi n : Nat) : List Slow :=
  if newest < hi then [] else (h.drop (newest - hi)).take n

/-- A sum of taps times values, those that are 0 left out. -/
def fir (tap : Nat → Int) (xs : List Int) : Int :=
  ((xs.mapIdx (fun k x => (k, x))).filter (fun p => p.2 != 0)).foldl (fun a p => a + tap p.1 * p.2) 0

/-- A code of 32 bits, two's complement: what lies beyond wraps, which the spec leaves open (R158; DESIGN CHOICE, log 43). -/
def code32 (v : Int) : Int := signedOf 32 (unsignedOf 32 v)

/-- The taps of a fine output: those of the metrology ROM, whose DC gain is 1, or a custom set as it stands (R158, R181). -/
structure Taps where
  rom : Bool
  tap : Nat → Int

/-- An output code from the values under the taps: the ROM's taps weigh departures from a middle value, so that equal values give that
value (R158, R171, Table 5-4). A part of a code is rounded down (DESIGN CHOICE, log 43). -/
def Taps.code (f : Taps) (mid : Nat) (xs : List Int) : Int :=
  let m := if f.rom then xs.getD mid 0 else 0
  code32 ((2 ^ 22 * m + fir f.tap (xs.map (· - m))) / 2 ^ 32)

/-- Flags of a fine output whose span holds 2L sinc5 values up to value i0 + L (Table 5-6, R173). -/
def fineFlags (i : ModInput) (newest i0 l t lat : Nat) : Nat :=
  let w := window i.slow newest (i0 + l) (2 * l)
  b1 (w.length == 2 * l && w.all (·.ok)) + 2 * b1 (undisturbed i.marks t lat lat) + 4 * b1 (w.any (·.high))

/-- The index of the newest sinc5 value held at a tick: the last of the frame that ended. -/
def newestSlow (now : Nat) : Nat := 4 * now - 1

/-- The BILLING output of slot k for the period that starts at a tick: 252 taps that sum to 2^22 (R168, R171, Table 5-4). -/
def billingSample (now k start : Nat) (i : ModInput) : Sample :=
  let i0 := 4 * start + 5 * k / 4
  let t := unitOf start + 20 * k
  { code := Taps.code { rom := true, tap := Config.billingTap } 126 ((window i.slow (newestSlow now) (i0 + 128) 252).map (·.v)),
    flags := fineFlags i (newestSlow now) i0 128 t 2048, instant := t }

/-- COEF_SET: sets 0 to 3 of CONTROL, then of DIAGNOSTIC (R192). -/
def coefSet (s : State) (i : Nat) : BitVec 536 := vget s.fe.coefs i 0

/-- Coefficient k of a custom set (R181). -/
def coefAt (c : BitVec 536) (k : Nat) : Int := signedOf 24 (fld c (8 + 24 * k) 24)

/-- The taps of a CONTROL source: the preset, or 22 coefficients mirrored (R181). -/
def controlTaps (s : State) (src : Nat) : Taps :=
  if src = 0 then { rom := true, tap := Config.controlTap }
  else { rom := false, tap := fun k => coefAt (coefSet s (src - 1)) (min k (43 - k)) }

/-- The taps of a DIAGNOSTIC source; coefficient k of a set weighs the value k before the newest (DESIGN CHOICE, log 33). -/
def diagTaps (s : State) (src : Nat) : Taps :=
  if src = 0 then { rom := true, tap := Config.diagTap }
  else { rom := false, tap := fun k => coefAt (coefSet s (4 + (src - 1))) k }

/-- The CONTROL output of slot k for frame j (R168, Table 5-4). -/
def controlSample (taps : Taps) (now k j : Nat) (i : ModInput) : Sample :=
  let i0 := 4 * j + k / 4
  let t := unitOf j + 4 * k
  { code := taps.code 22 ((window i.slow (newestSlow now) (i0 + 24) 44).map (·.v)),
    flags := fineFlags i (newestSlow now) i0 24 t 384, instant := t }

/-- DIAGNOSTIC output q of slot k in frame j (R168, Table 5-4). -/
def diagSample (taps : Taps) (now k j q : Nat) (i : ModInput) : Sample :=
  let i0 := 4 * j + q
  let t := unitOf j + 16 * q + 4 * (k % 4)
  { code := taps.code 8 ((window i.slow (newestSlow now) (i0 + 10) 16).map (·.v)),
    flags := fineFlags i (newestSlow now) i0 10 t 160, instant := t }

/-! Cross-fades. -/

/-- Output number i of a fade of F outputs; a part of a code is rounded down (R183; DESIGN CHOICE, log 43). -/
def mix (i f : Nat) (a b : Sample) : Sample :=
  { b with code := (a.code * ((f - i : Nat) : Int) + b.code * (i : Int)) / ((max 1 f : Nat) : Int),
           flags := Nat.lor (Nat.land (Nat.land a.flags b.flags) 3) (Nat.lor (Nat.land (Nat.lor a.flags b.flags) 4) 8) }

/-- PATH_STATE of outlet n (Table 5-9). -/
def pathSt (s : State) (n : Nat) : BitVec 32 := vget s.fe.paths n 0

/-- The fade of a path, and the number of its output in frame j (place q of a DIAGNOSTIC frame): 0 before it begins. -/
def fadeOf (s : State) (n path x : Nat) : Option Fade :=
  s.fe.fades.find? (fun f => f.outlet == n && f.path == path && f.input == x)
def Fade.place (f : Fade) (j q : Nat) : Nat :=
  if j < f.since then 0 else if f.path = 0 then j + 1 - f.since else 4 * (j - f.since) + q + 1

/-- The CONTROL output of input x of outlet n for frame j, mixed while a fade runs (R171, R183). Before the fade's first output period
only the old filter runs. -/
def controlValue (s : State) (n x j : Nat) : Sample :=
  let k := slotOf n x
  let i := modIn s n x
  let y := controlSample (controlTaps s (fld (pathSt s n) (3 * x) 3)) s.now k j i
  match fadeOf s n 0 x with
  | none => y
  | some f =>
    let p := f.place j 0
    if f.len < p then y
    else
      let old := controlSample (controlTaps s f.oldSource) s.now k j i
      if p = 0 then old else mix p f.len old y

/-- DIAGNOSTIC output q of frame j of the assignable computation of outlet n (R182, R183). -/
def assignedValue (s : State) (n j q : Nat) : Sample :=
  let x := fld (pathSt s n) 24 3
  let y := diagSample (diagTaps s (fld (pathSt s n) 27 3)) s.now (slotOf n x) j q (modIn s n x)
  match fadeOf s n 1 x with
  | none => y
  | some f =>
    let p := f.place j q
    if f.len < p then y
    else
      let old := diagSample (diagTaps s f.oldSource) s.now (slotOf n f.oldInput) j q (modIn s n f.oldInput)
      if p = 0 then old else mix p f.len old y

/-- DIAGNOSTIC output q of frame j of input 0 or 1 of outlet n: always the preset (R171, R180). -/
def presetDiag (s : State) (n x j q : Nat) : Sample := diagSample (diagTaps s 0) s.now (slotOf n x) j q (modIn s n x)

/-! Engines. -/

/-- The hand-over of sinc5 values to engine e in the frame that ends: every value completed before its tick, two frames of values
at most (R166, R222). -/
def handOver (e : Nat) (s : State) : State :=
  if missed s 2 e then s else updEngine e (fun g => { g with taken := min (s.now - 1) (g.taken + 2) }) s

/-- A BILLING period starts with a frame whose index is a multiple of 5 (R168). -/
def periodStart (e : Nat) (s : State) : State :=
  if s.clock.legal % 5 = 0 then updEngine e (fun g => { g with billing := g.billing ++ [(s.now, s.clock.legal)] }) s else s

/-- The frames from `lo` whose outputs a job makes now: those below `hi`, two at most (R222). -/
def framesDue (lo hi : Nat) : List Nat := (List.range (min 2 (hi - lo))).map (· + lo)

/-- The CONTROL and DIAGNOSTIC frames that engine e makes in the frame that ends: frame j in frame j + 7, and in frame j + 4
(Table 5-5). -/
def controlDue (s : State) (e : Nat) : List Nat :=
  let g := engine s e
  if missed s 6 e then [] else framesDue g.control (min (s.now - 7) (g.taken - 6))
def diagDue (s : State) (e : Nat) : List Nat :=
  let g := engine s e
  if missed s 6 e then [] else framesDue g.diag (min (s.now - 4) (g.taken - 3))

/-- The BILLING periods that engine e delivers in the frame that ends: period m in frame 5m + 39 (Table 5-5). -/
def billingDue (s : State) (e : Nat) : List (Nat × Nat) :=
  let g := engine s e
  if missed s 7 e then []
  else (g.billing.take 2).filter (fun b => decide (b.1 + 40 ≤ s.now) && decide (b.1 + 37 ≤ g.taken))

/-- The outlets of engine e that are active (R167). -/
def engineOutlets (s : State) (e : Nat) : List Nat := [2 * e, 2 * e + 1].filter s.present

/-- The metrology pipeline starts anew at a tick: no history, nothing handed over, no output due from before (boot step 3). -/
def startEngines (s : State) : State :=
  let g : Engine := { taken := s.now, control := s.now, diag := s.now }
  { s with fe := { s.fe with engines := Vector.replicate 4 g } }

end Sys2Proof.Machine
end

