-- ==== Sys2Proof/Machine/HostPort.lean ====
section
/-!
DEFINITION. The host port: the order of command checks, replies, retransmission, delivery and acknowledgement (R117 to R139).
-/

namespace Sys2Proof.Machine

/-- FLAGS bits (Table 4-5). -/
def flagReply (f : Byte) : Bool := bit f 0
def flagEvent (f : Byte) : Bool := bit f 1
def flagExpert (f : Byte) : Bool := bit f 2
def flagAck (f : Byte) : Bool := bit f 3

/-- FLAGS of a command: REPLY and EVENT 0, reserved flags 0 (Tables 4-5, 4-6). -/
def commandFlags (f : Byte) : Bool := !flagReply f && !flagEvent f && decide (f.toNat < 16)

/-- The bytes that a command's CRC covers: LEN to the last PAYLOAD byte (R127, R128). -/
def commandBytes (h : Hdr) (opcode : Nat) (p : List Byte) : List Byte :=
  le 2 (4 + p.length) ++ [h.seq, h.flags] ++ le 2 opcode ++ p

/-- CRC of a command packet (R128). -/
def commandCrc (h : Hdr) (opcode : Nat) (p : List Byte) : BitVec 32 :=
  BitVec.ofNat 32 (crc32c (commandBytes h opcode p))

/-- A packet from SYNC to the last CRC byte, given the bytes that its CRC covers (Table 4-4). -/
def sealPacket (body : List Byte) : List Byte := [0x7E] ++ body ++ le 4 (crc32c body)

/-- A reply on the wire (Table 4-4). -/
def Reply.bytes (r : Reply) : List Byte :=
  sealPacket (le 2 (6 + r.payload.length) ++ [r.seq, r.flags] ++ le 2 r.opcode ++ le 2 r.status.code ++ r.payload)

/-- An event on the wire (Table 4-4). -/
def Event.bytes (e : Event) : List Byte :=
  sealPacket (le 2 (4 + e.payload.length) ++ [e.seq, if e.ack then 0x0A else 0x02] ++ le 2 e.code ++ e.payload)

/-- Fewer than 8 commands await their reply and the port runs: HRDY_N is low, RX_READY is 1 (R118). -/
def rxReady (s : State) : Bool := s.portRuns && decide (s.port.awaiting.length < 8)

/-- The port's pads are configured: from the end of boot step 6 until step 6 of the shutdown sequence (R118, Table 3-8). -/
def portOpen (s : State) : Bool :=
  s.power.supply == .on && decide (s.power.shutStep < 6) && (s.rst.phase == .running || s.rst.phase == .released)

/-- The SPI transport is selected (R117). -/
def onSpi (s : State) : Bool := bit s.rst.straps 5

/-- A packet begun while HRDY_N is high is discarded and counted (R121, R125). -/
def countOverrun (s : State) : State := { s with port := { s.port with overruns := satInc 16 s.port.overruns } }

/-- A reply waits to be delivered (R133). -/
def queueReply (r : Reply) (s : State) : State := { s with port := { s.port with replies := s.port.replies ++ [r] } }

/-- The reply to a command: SEQ copied, REPLY set, EXPERT echoed (Tables 4-5, 4-6). -/
def replyTo (h : Hdr) (opcode : Nat) (st : Status) (data : List Byte) : Reply :=
  { seq := h.seq, flags := if flagExpert h.flags then 0x05 else 0x01, opcode := opcode, status := st, payload := data }

/-- A command is answered without having been executed: it is not kept (R131, R135). -/
def turnAway (h : Hdr) (opcode : Nat) (st : Status) (s : State) : State := queueReply (replyTo h opcode st []) s

/-- A command is answered, and kept with its reply for retransmission (R131, R133). -/
def answer (h : Hdr) (opcode : Nat) (crc : BitVec 32) (st : Status) (data : List Byte) (s : State) : State :=
  let r := replyTo h opcode st data
  let s1 := queueReply r s
  { s1 with port := { s1.port with kept := ({ seq := h.seq, crc := crc, reply := r } :: s1.port.kept).take 16 } }

/-- What executing a command yields: the state, its status and result data, or the easement request that decides its reply. -/
structure Result where
  st : State
  status : Status := .ok
  data : List Byte := []
  wait : Option Nat := none

/-- The command's expert level (R150): no expert form, an expert form only, or both. -/
inductive Level where
  | basic | expertOnly | both
deriving DecidableEq, Repr

/-- A command's checks of Table 4-7, steps 3 to 8, each true when it passes, and its execution. -/
structure Cmd where
  level : Level := .basic
  form : Bool := true
  role : Bool := true
  mode : Bool := true
  unsealed : Bool := true
  params : Bool := true
  free : Bool := true
  readOnly : Bool := false
  inShutdown : Bool := false
  run : Result

/-- FLAGS and expert level of step 3 (Table 4-7, R150). -/
def Level.formOk (l : Level) (f : Byte) : Bool :=
  commandFlags f && (match l with | .basic => !flagExpert f | .expertOnly => flagExpert f | .both => true)

/-- The first failing check of steps 3 to 8, or none (R135). A read is executed with either value of EXPERT; OBJ_READ alone passes step
8 from the power-fail warning on. -/
def Cmd.verdict (c : Cmd) (f : Byte) (s : State) : Option Status :=
  if !(c.level.formOk f && c.form) then some .badParam
  else if !(c.role && (!flagExpert f || c.readOnly || decide (2 ≤ s.roles.role))) then some .denied
  else if !c.mode then some .badMode
  else if !c.unsealed then some .sealedHw
  else if !c.params then some .badParam
  else if s.shutting && !c.inShutdown then some .busy
  else if !c.free then some .busy
  else none

/-- Commands that the recovery ROM runs (R450). -/
def romCommands : List Nat :=
  [0x0100, 0x0102, 0x0110, 0x0111, 0x0112, 0x0113, 0x0B10, 0x0B11, 0x0B12, 0x0B13, 0x0154]

/-- The idle time of the role session starts again (R148). -/
def touchRole (s : State) : State := { s with roles := { s.roles with lastCmd := s.now } }

/-- A command is executed, or left without a reply until the arbiter has answered its request (R36); one refused leave has failed its last
check, and is not executed (R131, R135). -/
def finish (h : Hdr) (opcode : Nat) (crc : BitVec 32) (p : List Byte) (r : Result) : State :=
  match r.wait with
  | some id =>
    { r.st with port := { r.st.port with
        awaiting := r.st.port.awaiting ++
          [{ seq := h.seq, flags := h.flags, opcode := opcode, crc := crc, req := id, payload := p }] } }
  | none => if r.status = .noLeave then turnAway h opcode .noLeave r.st else answer h opcode crc r.status r.data r.st

/-- Packets pending (Table 4-1). -/
def pendingCount (p : Port) : Nat :=
  p.replies.length + (p.flight.filter (·.due)).length + p.fresh.length

/-- HIRQ_N is driven low: the port's pads are outputs, and a reply or an event waits to be delivered (R118). -/
def hirqLow (s : State) : Bool := portOpen s && pendingCount s.port != 0

/-- The status byte of Table 4-2. -/
def statusByte (s : State) : Byte :=
  BitVec.ofNat 8 (packBits [(b1 (rxReady s), 1), (b1 (hirqLow s), 1), (b1 (s.roles.role != 0), 1),
    (b1 s.shutting, 1), (0, 3), (1, 1)])

/-- The SPI port's pads are outputs: the port is open and HOSTSEL selects it. Otherwise HIO1 is an input with pull-up (R117, R119). -/
def spiOpen (s : State) : Bool := portOpen s && onSpi s

/-- What the host reads on HIO1 while a code byte is clocked in: the status byte, or the 0xFF of an input with pull-up (R119). -/
def codeByteOut (s : State) : Byte := if spiOpen s then statusByte s else 0xFF

/-- A byte single-lane: eight clocks on HIO1, most significant bit first; the other lanes are not driven (R119, R120). -/
def singleLane (b : Byte) : List Lanes :=
  [7, 6, 5, 4, 3, 2, 1, 0].map (fun i => { level := setBit 0 1 (bit b i), driven := 0x2 })

/-- A byte on four lanes: two clocks, high nibble first, HIO3 carrying bits 7 and 3 (R120). -/
def quadLanes (b : Byte) : List Lanes :=
  [{ level := BitVec.ofNat 4 (fld b 4 4), driven := 0xF }, { level := BitVec.ofNat 4 (fld b 0 4), driven := 0xF }]

/-- Bytes after the code byte as the device drives them (R120). -/
def byteLanes (quad : Bool) (l : List Byte) : List Lanes := (l.map (if quad then quadLanes else singleLane)).flatten

/-- Clocks in which the device drives nothing: what the host sends, and the dummy clocks of a READ (R120). -/
def quietLanes (n : Nat) : List Lanes := List.replicate n { level := 0, driven := 0 }

/-- What the device puts out in an SPI transaction: its status byte with the code byte, then the bytes of READ or STATUS (R119, R120). -/
def spiShown (before : State) (dummy : Nat) (out : List Byte) (s : State) : State :=
  { s with port := { s.port with
      lanes := if spiOpen before then singleLane (codeByteOut before) ++ quietLanes dummy ++ byteLanes before.port.quad out else [] } }

/-- The SPI transaction of a packet begins with the status byte as it stood (R119). -/
def codeShifted (before : State) (s : State) : State :=
  if onSpi before then spiShown before 0 [] { s with port := { s.port with statusOut := [codeByteOut before] } } else s

/-- A packet sent over SPI while the port's pads are inputs, or with UART selected, changes nothing: the host reads 0xFF, and with the
module unpowered whatever its own board sets (R119). -/
def unheard (s : State) : State := if s.v3dUp then codeShifted s s else s

/-- A whole command packet with a right CRC arrives (R118, R121, R131, R135): discarded and counted while HRDY_N is high,
answered again when it is a retransmission, otherwise checked in the order of Table 4-7 and executed. A command that the recovery ROM
does not know is not executed, hence not kept. -/
def packetTaken (h : Hdr) (opcode : Nat) (p : List Byte) (cmd : State → Cmd) (s : State) : State :=
  if !rxReady s then countOverrun s
  else if 4096 < p.length then
    if onSpi s then { s with port := { s.port with lenErrors := satInc 16 s.port.lenErrors } } else s
  else
    let crc := commandCrc h opcode p
    let s1 := touchRole s
    match s.port.kept.find? (fun k => k.seq == h.seq && k.crc == crc) with
    | some k => { queueReply k.reply s1 with
                  port := { (queueReply k.reply s1).port with duplicates := satInc 16 s.port.duplicates } }
    | none =>
      if s.inRom && !romCommands.contains opcode then turnAway h opcode .unknownOpcode s1
      else
        let c := cmd s1
        match c.verdict h.flags s1 with
        | some st => turnAway h opcode st s1
        | none => finish h opcode crc p c.run

/-- The matched event leaves the journal, delivered or not; new sessions are admitted again below 896 (R137, R139). Where SEQ has come
round and two events in flight match, both are released: the spec does not say which (DESIGN CHOICE, log 40). -/
def acknowledge (seq : Byte) (code : Nat) (s : State) : State :=
  let hit (e : Event) : Bool := e.ack && e.seq == seq && e.code == code
  let f := (s.port.flight ++ s.port.fresh).find? hit
  let p := { s.port with flight := s.port.flight.filter (fun e => !hit e), fresh := s.port.fresh.filter (fun e => !hit e) }
  let p := { p with blocked := p.blocked && decide (896 ≤ p.held) }
  let id := match f with
    | some e => if code = 0x0C01 then numAt e.payload 20 2 else 0
    | none => 0
  let cl := s.faults.closures.map (fun c => if id ≠ 0 ∧ c.id = id then { c with acked := true } else c)
  appRetire (fun r => (r.type == 0x11 && r.key == eventKey code seq) || (r.type == 0x10 && decide (id ≠ 0) && r.key == id))
    { s with port := p, faults := { s.faults with closures := cl } }

/-- An event acknowledgement is taken on receipt: it releases its event; one that matches none, or whose LEN is not 4 or reserved flags
are not 0, is counted; one begun while HRDY_N is high is discarded and counted (R118, R121, R125, R137, R139). -/
def ackTaken (seq flags : Byte) (code len : Nat) (s : State) : State :=
  if !rxReady s then countOverrun s
  else if decide (len < 4) || decide (4100 < len) then
    if onSpi s then { s with port := { s.port with lenErrors := satInc 16 s.port.lenErrors } } else s
  else if decide (len = 4) && decide (flags.toNat < 16) &&
      (s.port.flight ++ s.port.fresh).any (fun e => e.ack && e.seq == seq && e.code == code) then acknowledge seq code s
  else { s with port := { s.port with ackUnmatched := satInc 16 s.port.ackUnmatched } }

/-- A packet with REPLY and EVENT 1 is an event acknowledgement, well formed or not, and never a command (R139). -/
def isAck (flags : Byte) : Bool := flagReply flags && flagEvent flags

/-- A command packet, with the status byte that its SPI transaction puts out (R119, R135). -/
def hostCommand (h : Hdr) (opcode : Nat) (p : List Byte) (cmd : State → Cmd) (s : State) : State :=
  if !portOpen s then unheard s
  else codeShifted s (if isAck h.flags then ackTaken h.seq h.flags opcode (4 + p.length) s else packetTaken h opcode p cmd s)

/-- The reply of a command that awaited it; one without leave, or without a free resource, has not been executed (R36, R131, R133). -/
def answerAwaiting (a : Awaiting) (st : Status) (data : List Byte) (s : State) : State :=
  let s1 := { s with port := { s.port with awaiting := s.port.awaiting.filter (fun b => b.req != a.req) } }
  if st = .noLeave ∨ st = .busy then turnAway ⟨a.seq, a.flags⟩ a.opcode st s1
  else answer ⟨a.seq, a.flags⟩ a.opcode a.crc st data s1

/-! Delivery. -/

/-- The next pending packet (R134): a reply, an event due to be sent again, a new event. At most 32 unacknowledged events are
in flight; a later one with ACK_REQ waits, a plain one passes. -/
inductive NextPacket where
  | reply (r : Reply)
  | again (e : Event)
  | fresh (e : Event)
deriving DecidableEq, Repr

/-- The packet that a READ delivers (R122, R134). -/
def nextPacket (p : Port) : Option NextPacket :=
  match p.replies with
  | r :: _ => some (.reply r)
  | [] =>
    match p.flight.find? (·.due) with
    | some e => some (.again e)
    | none => (p.fresh.find? (fun e => !e.ack || decide (p.flight.length < 32))).map .fresh

/-- The bytes of a pending packet. -/
def NextPacket.bytes : NextPacket → List Byte
  | .reply r => r.bytes
  | .again e => e.bytes
  | .fresh e => e.bytes

/-- QUAD and BAUD of a write take effect once its reply has been delivered; after a change of BAUD the device sends nothing for
1 ms (R152). -/
def lineChange (now : Nat) (seq : Byte) (p : Port) : Port :=
  match p.pendingLine.find? (fun x => x.1 == seq) with
  | some (q, quad, baud) =>
    { p with quad := quad, baud := baud, pendingLine := p.pendingLine.erase (q, quad, baud),
             quietAt := if baud = p.baud then p.quietAt else now + msF 1 }
  | none => p

/-- A reply has been delivered: a change of QUAD or BAUD takes effect, and the delay of a RESET starts (R103, R152). -/
def replyDelivered (r : Reply) (s : State) : State :=
  let p := lineChange s.now r.seq { s.port with replies := s.port.replies.tail }
  let rst := if r.opcode = 0x0150 ∧ s.rst.delayed.isSome ∧ s.rst.delayedRead.isNone
    then { s.rst with delayedRead := some s.now } else s.rst
  { s with port := p, rst := rst }

/-- EVENT_LOST once room has returned in the plain queue (R138). -/
def reportLost (s : State) : State :=
  if s.port.dropped ≠ 0 ∧ s.port.plain < 128 then
    let n := s.port.dropped
    event eventLost (le 2 n) { s with port := { s.port with dropped := 0 } }
  else s

/-- A packet has been delivered whole (R122, R125, R137). EVENTS_RESENT counts what is sent again 1 s after a delivery; an event held over
a reset and delivered again after READY, under a new SEQ, counts as new (R153; DESIGN CHOICE, log 42). -/
def delivered (k : NextPacket) (s : State) : State :=
  match k with
  | .reply r => replyDelivered r s
  | .again e =>
    { s with port := { s.port with
        resent := satInc 16 s.port.resent,
        flight := updFirst (fun f => f.due && f.seq == e.seq) (fun f => { f with due := false, sentAt := some s.now })
          s.port.flight } }
  | .fresh e =>
    let p := { s.port with fresh := s.port.fresh.erase e }
    if e.ack then { s with port := { p with flight := p.flight ++ [{ e with sentAt := some s.now, due := false }] } }
    else reportLost { s with port := p }

/-! Meanings. -/

/-- NOP copies its payload (R141). -/
def execNop (h : Hdr) (p : List Byte) (s : State) : Host.Outcome State Fault Refusal :=
  .next (hostCommand h 0x0100 p (fun s => { run := { st := s, data := p } }) s)

/-- Every opcode that names a command (R140, R141; Tables 4-10, 3-10, 5-15, 6-11, 7-15, 8-12, 9-22, 10-10, 11-13, 13-5, 14-13). -/
def commandOpcodes : List Nat :=
  [0x0100, 0x0102, 0x0103, 0x0110, 0x0111, 0x0112, 0x0113, 0x0150, 0x0153, 0x0154, 0x0155] ++
  [0x0210, 0x0211, 0x0212, 0x0213, 0x0310, 0x0410, 0x0411, 0x0412, 0x0413, 0x0414, 0x0415] ++
  [0x0510, 0x0511, 0x0512, 0x0513, 0x0610, 0x0611, 0x0612, 0x0613, 0x0614, 0x0615] ++
  [0x0710, 0x0711, 0x0810, 0x0811, 0x0812, 0x0910, 0x0A10, 0x0A11, 0x0A12, 0x0A13] ++
  [0x0B10, 0x0B11, 0x0B12, 0x0B13, 0x0B14]

/-- A whole command whose OPCODE names no command is answered UNKNOWN_OPCODE; not executed, it is not kept (R131, R135). With an opcode
that names one, the packet belongs to that command's row and nothing happens here. -/
def unknownTaken (h : Hdr) (opcode : Nat) (p : List Byte) (s : State) : State :=
  if !rxReady s then countOverrun s
  else
    let crc := commandCrc h opcode p
    match s.port.kept.find? (fun k => k.seq == h.seq && k.crc == crc) with
    | some k =>
      let s1 := queueReply k.reply (touchRole s)
      { s1 with port := { s1.port with duplicates := satInc 16 s1.port.duplicates } }
    | none => turnAway h opcode .unknownOpcode (touchRole s)

/-- UNKNOWN_OPCODE_COMMAND (R135). -/
def execUnknownOpcodeCommand (h : Hdr) (opcode : Nat) (p : List Byte) (s : State) : Host.Outcome State Fault Refusal :=
  if commandOpcodes.contains opcode || decide (65536 ≤ opcode) then .next s
  else if !portOpen s then .next (unheard s)
  else .next (codeShifted s (if isAck h.flags then ackTaken h.seq h.flags opcode (4 + p.length) s else unknownTaken h opcode p s))

/-- EVENT_ACKNOWLEDGEMENT: a packet with REPLY and EVENT 1 (R137, R139). -/
def execEventAcknowledgement (seq flags : Byte) (code len : Nat) (s : State) : Host.Outcome State Fault Refusal :=
  if !isAck flags then .next s
  else if !portOpen s then .next (unheard s)
  else .next (codeShifted s (ackTaken seq flags code len s))

/-- A whole packet with a wrong CRC is answered CRC_ERROR with SEQ as received, and counted (R129). -/
def crcErrorTaken (seq : Byte) (s : State) : State :=
  if !rxReady s then countOverrun s
  else
    let s1 := queueReply { seq := seq, flags := 0x01, opcode := 0, status := .crcError } s
    { s1 with port := { s1.port with crcErrors := satInc 16 s1.port.crcErrors } }

/-- CRC_ERROR_PACKET (R129). -/
def execCrcErrorPacket (seq : Byte) (s : State) : Host.Outcome State Fault Refusal :=
  if !portOpen s then .next (unheard s) else .next (codeShifted s (crcErrorTaken seq s))

/-- A WRITE begun while RX_READY is 0 is discarded and counted; on SPI one with a wrong first byte, a LEN outside 4 to 4,100, or
cut short is counted in LEN_ERRORS (R121, R125, R126). A whole packet received while RX_READY is 1 is another row's. -/
def writeDiscarded (sync : Byte) (len received : Nat) (s : State) : State :=
  if !rxReady s then countOverrun s
  else if onSpi s && (sync != 0x7E || decide (len < 4) || decide (4100 < len) || decide (received < len + 7)) then
    { s with port := { s.port with lenErrors := satInc 16 s.port.lenErrors } }
  else s

/-- WRITE_OVERRUN (R121, R125). -/
def execWriteOverrun (sync : Byte) (len received : Nat) (s : State) : Host.Outcome State Fault Refusal :=
  if !portOpen s then .next (unheard s) else .next (codeShifted s (writeDiscarded sync len received s))

/-- The packet that a READ delivers, none before READY (R97, R122). -/
def readable (s : State) : Option NextPacket := if s.portRuns then nextPacket s.port else none

/-- The bytes of a packet that may be absent. -/
def packetBytes (k : Option NextPacket) : List Byte :=
  match k with
  | some k => k.bytes
  | none => []

/-- A READ clocks the oldest pending packet out, after 8 dummy clocks; it is delivered once its last CRC byte is out (R120, R122). Bytes
past it, and all of them with nothing pending, are 0x00. While HIO1 is an input with pull-up the host reads 0xFF; with the module
unpowered it reads what its own board sets (R119). -/
def execSpiRead (clocked : Nat) (s : State) : Host.Outcome State Fault Refusal :=
  if !s.v3dUp then .next s
  else
    let k := readable s
    let bytes := if spiOpen s then padTo clocked (packetBytes k) else List.replicate clocked 0xFF
    let s1 := spiShown s 8 bytes { s with port := { s.port with out := bytes, statusOut := [codeByteOut s] } }
    match k with
    | some k => if spiOpen s ∧ k.bytes.length ≤ clocked then .next (delivered k s1) else .next s1
    | none => .next s1

/-- A STATUS transaction: the status byte, the length of the next pending packet, the number pending (Table 4-1). Before the end of boot
step 6 the host reads 0xFF (R119); with the module unpowered it reads what its own board sets. -/
def execSpiStatus (s : State) : Host.Outcome State Fault Refusal :=
  if !s.v3dUp then .next s
  else if !spiOpen s then .next (spiShown s 0 [] { s with port := { s.port with statusOut := List.replicate 5 0xFF } })
  else
    let l := [statusByte s] ++ le 2 (packetBytes (nextPacket s.port)).length ++ le 1 (min 255 (pendingCount s.port))
    .next (spiShown s 0 l { s with port := { s.port with statusOut := codeByteOut s :: l } })

/-- Hunting for SYNC (R126). -/
def huntByte (b : Byte) : Option (List Byte) := if b = 0x7E then some [] else none

/-- A LEN out of range: the hunt goes on from the byte after that SYNC (R126). -/
def huntAgain (a b : Byte) : Option (List Byte) := if a = 0x7E then some [b] else huntByte b

/-- One byte of the UART stream: hunt, LEN, the bytes that it announces and the CRC. A whole packet leaves the assembly; its meaning is
its own row's (R126). -/
def uartByte (rx : Option (List Byte)) (b : Byte) : Option (List Byte) :=
  match rx with
  | none => huntByte b
  | some [] => some [b]
  | some [a] =>
    let len := ofBytes [a, b]
    if 4 ≤ len ∧ len ≤ 4100 then some [a, b] else huntAgain a b
  | some l => if l.length + 1 < numAt l 0 2 + 6 then some (l ++ [b]) else none

/-- Bytes arrive on the UART, and then none for more than 1 ms: a partial packet is discarded and counted, and the hunt restarts
(R126). -/
def execUartGapDiscard (bytes : List Byte) (s : State) : Host.Outcome State Fault Refusal :=
  if !portOpen s || onSpi s then .next s
  else
    let rx := bytes.foldl uartByte s.port.rx
    .next { s with port := { s.port with rx := none,
                                         gapDiscards := if rx.isSome then satInc 16 s.port.gapDiscards else s.port.gapDiscards } }

/-- An event is sent again 1 s after each delivery until it is acknowledged (R137). -/
def execEventResend (seq : Byte) (s : State) : Host.Outcome State Fault Refusal :=
  let late (e : Event) : Bool :=
    e.seq == seq && !e.due && (match e.sentAt with | some t => decide (t + secF 1 ≤ s.now) | none => true)
  if s.portRuns then
    .next { s with port := { s.port with flight := updFirst late (fun e => { e with due := true }) s.port.flight } }
  else .next s

/-- On UART a packet begins while HCS_N is low and is delivered at its last stop bit (R125). -/
def execUartPacketSend (hcsLow : Bool) (s : State) : Host.Outcome State Fault Refusal :=
  if !(s.portRuns && !onSpi s && hcsLow) || decide (s.now < s.port.quietAt) then .next s
  else
    match nextPacket s.port with
    | some k => .next (delivered k { s with port := { s.port with out := k.bytes } })
    | none => .next s

end Sys2Proof.Machine
end

