-- ==== Sys2Proof/Machine/Memory.lean ====
section
/-!
DEFINITION. Addressed buffers as sparse lists of cells in one canonical form: addresses strictly rising, no entry equal to what an
unlisted address reads as. The witness store (R401) reads 0x00 where nothing is listed, the panel's pixels (R418) the level given.
-/

namespace Sys2Proof.Machine

/-- The byte at an address; `d` where nothing is listed. -/
def Memory.read (d : Byte) : List Host.Cell → Nat → Byte
  | [], _ => d
  | c :: t, a => if c.1 = a then c.2 else Memory.read d t a

/-- One byte written; the value of an unlisted address removes the entry. -/
def Memory.write (d : Byte) (a : Nat) (v : Byte) : List Host.Cell → List Host.Cell
  | [] => if v = d then [] else [(a, v)]
  | c :: t =>
    if a < c.1 then (if v = d then c :: t else (a, v) :: c :: t)
    else if a = c.1 then (if v = d then t else (a, v) :: t)
    else c :: Memory.write d a v t

/-- Consecutive bytes written from an address. -/
def Memory.writeAll (d : Byte) : Nat → List Byte → List Host.Cell → List Host.Cell
  | _, [], l => l
  | a, v :: t, l => Memory.writeAll d (a + 1) t (Memory.write d a v l)

/-- n bytes read from an address. -/
def Memory.range (d : Byte) (l : List Host.Cell) (a n : Nat) : List Byte := (List.range n).map (fun i => Memory.read d l (a + i))

/-- Every address is above a bound, rising, and no entry equals `d`. -/
def Memory.above (d : Byte) : Nat → List Host.Cell → Bool
  | _, [] => true
  | lo, c :: t => decide (lo ≤ c.1) && c.2 != d && Memory.above d (c.1 + 1) t

/-- The canonical form. -/
def Memory.wf (d : Byte) (l : List Host.Cell) : Bool := Memory.above d 0 l

/-! The witness store (Table 12-4). -/

/-- Bytes of the witness store. -/
def storeBytes (s : State) (a n : Nat) : List Byte := Memory.range 0 s.tag.store a n

/-- Bytes written to the witness store. -/
def putStore (a : Nat) (b : List Byte) (s : State) : State :=
  { s with tag := { s.tag with store := Memory.writeAll 0 a b s.tag.store } }

/-- An entry of a ring is written whole, and then its head index advances (R403). -/
def ringPut (base size head headBytes : Nat) (b : List Byte) (s : State) : State :=
  let i := (ofBytes (storeBytes s head headBytes) + 1) % size
  putStore head (le headBytes i) (putStore (base + 256 * i) b s)

/-- A record stored in the legal log enters the record ring; one of types 0x08, 0x09 and 0x0A enters the seal log at signing
(R403). -/
def witnessRecord (b : List Byte) (s : State) : State := ringPut 0x10000 512 0x100 2 b s
def witnessSealRecord (b : List Byte) (s : State) : State := ringPut 0x3000 64 0x102 1 b s

end Sys2Proof.Machine
end

