-- ==== Sys2Proof/Machine/Closure.lean ====
section
/-!
DEFINITION. Fault closure: collectors, windows, root cause, CLOSURE_STATUS (R25 to R32, R465, R466); and the cell map's
identifiers (R14).
-/

namespace Sys2Proof.Machine

/-- Types of monitored cells (Table 1-2). -/
inductive CellType where
  | driver | safetyInput | testPulse | plumb | can | lockstep | clock
  | decimator | fir | accumulator | pulse | sealedMram
  | butterfly | pilot | t1s
  | load
  | trvButterfly | readerCell | displayLane | witnessMram
  | mram | sram | nandEcc | crypto | fifo | cache | dma
deriving DecidableEq, Repr

/-- Cells by region: type, blocks, cells in each block. The counts are those of Table 1-2; the order of the types within a
region and their split into blocks are the model's (DESIGN CHOICE, log 6: the spec leaves the identifiers to the factory). -/
def cellPlan : List (Nat × CellType × Nat × Nat) :=
  [(0, .driver, 1, 24), (0, .safetyInput, 1, 16), (0, .testPulse, 1, 4), (0, .plumb, 1, 8), (0, .can, 1, 2)] ++
  [(0, .lockstep, 1, 2), (0, .clock, 1, 1)] ++
  [(1, .decimator, 1, 64), (1, .fir, 4, 16), (1, .accumulator, 1, 8), (1, .pulse, 1, 4), (1, .sealedMram, 1, 72)] ++
  [(1, .clock, 1, 1), (2, .butterfly, 8, 48), (2, .pilot, 1, 8), (2, .t1s, 1, 8), (2, .clock, 1, 1)] ++
  [(3, .load, 4, 4), (3, .clock, 1, 1), (4, .trvButterfly, 1, 64), (4, .readerCell, 1, 4), (4, .displayLane, 1, 16)] ++
  [(4, .witnessMram, 1, 4), (4, .clock, 1, 1), (5, .mram, 1, 180), (5, .sram, 1, 192), (5, .nandEcc, 1, 16)] ++
  [(5, .crypto, 1, 16), (5, .fifo, 1, 8), (5, .cache, 1, 64), (5, .dma, 1, 26), (5, .clock, 1, 1)]

/-- Cells in the device (R14). -/
def cellCount : Nat := 1280

/-- What a cell index names: region, block within the region, cell within the block, type, number among the cells of its type
in its region. -/
structure CellId where
  region : Nat
  block : Nat
  cell : Nat
  type : CellType
  number : Nat
deriving DecidableEq, Repr

/-- Walks the plan to cell index i; `block` counts the blocks of the region passed so far. -/
def cellWalk : List (Nat × CellType × Nat × Nat) → Nat → Nat → Nat → Option CellId
  | [], _, _, _ => none
  | (r, t, nb, per) :: rest, region, block, i =>
    let b := if r = region then block else 0
    if i < nb * per then some ⟨r, b + i / per, i % per, t, i⟩
    else cellWalk rest r (b + nb) (i - nb * per)

/-- The identifier of a cell (R14). -/
def cellId (i : Nat) : Option CellId := cellWalk cellPlan 0 0 i

/-- Scopes of a report (R25). -/
def scopeCell : Nat := 0
def scopeBlock : Nat := 1
def scopeRegion : Nat := 2
def scopeChip : Nat := 3

/-- A report precedes another as a root cause (R28): earlier stamp, wider scope, lower region, block, cell. -/
def Report.before (a b : Report) : Bool :=
  if a.tick ≠ b.tick then decide (a.tick < b.tick)
  else if a.cycle ≠ b.cycle then decide (a.cycle < b.cycle)
  else if a.scope ≠ b.scope then decide (b.scope < a.scope)
  else if a.region ≠ b.region then decide (a.region < b.region)
  else if a.block ≠ b.block then decide (a.block < b.block)
  else decide (a.cell < b.cell)

/-- The root cause among reports (R28). -/
def rootOf : List Report → Report → Report
  | [], best => best
  | r :: t, best => rootOf t (if r.before best then r else best)

/-- The widest scope among reports. -/
def widest (rs : List Report) : Nat := (rs.map (·.scope)).foldl max 0

/-- The regions that a closure's scope covers (R29). -/
def coverage (rs : List Report) : List Nat :=
  if 3 ≤ widest rs then [0, 1, 2, 3, 4, 5, 6]
  else ((rs.filter (fun r => r.scope == 2)).map (·.region)).eraseDups

/-- Whether a report's class is counted as a dependent (R29): DEADLINE, PARITY, WATCHDOG. -/
def dependentClass (cls : Byte) : Bool := cls == 0x08 || cls == 0x03 || cls == 0x09

/-- One superframe in frames (R21). -/
def superframe : Nat := 400

/-- The moment of a report: reference cycles order the reports of a frame (R25). -/
def Report.moment (r : Report) : Nat := 2048 * r.tick + r.cycle

/-- The scopes not yet emitted that cover a region at a moment, and the emitted closures open over it: when each opened. -/
def coveringOpened (f : Faults) (region moment : Nat) : List Nat :=
  (((f.scopes.filter (fun o => o.regions.contains region)).map (·.opened)) ++
    ((f.closures.filter (fun c => c.isOpen && c.openRegions.contains region)).map (·.opened))).filter (fun o => decide (o ≤ moment))

/-- A dependent report counts in the closure that opened earlier (R29). -/
def countDependent (region moment : Nat) (f : Faults) : Faults :=
  let os := coveringOpened f region moment
  let o := os.foldl min (os.headD 0)
  if f.scopes.any (fun x => x.regions.contains region && x.opened == o) then
    { f with scopes := updFirst (fun x => x.regions.contains region && x.opened == o)
               (fun x => { x with dependents := satInc 16 x.dependents }) f.scopes }
  else
    { f with closures := updFirst (fun c => c.isOpen && c.openRegions.contains region && c.opened == o)
               (fun c => { c with dependents := satInc 16 c.dependents }) f.closures }

/-- A closure of the signature emitted within one superframe (R30). -/
def recentClosure (now : Nat) (cls : Byte) (key : Nat) (c : Closure) : Bool :=
  c.root.cls == cls && c.root.key == key && decide (now ≤ c.emitted + superframe)

/-- Late echoes of an emitted closure (R30). -/
def lateEchoes (now : Nat) (cls : Byte) (key n : Nat) (f : Faults) : Faults :=
  { f with closures := updFirst (recentClosure now cls key)
             (fun c => { c with lateEcho := true, lateCount := sat 16 (c.lateCount + n) }) f.closures }

/-- A report of scope REGION or CHIP opens or widens the scope of its signature (R29). -/
def openScope (r : Report) (f : Faults) : Faults :=
  if r.scope < 2 then f
  else
    let rg := if r.scope = 3 then [0, 1, 2, 3, 4, 5, 6] else [r.region]
    if f.scopes.any (fun o => o.cls == r.cls && o.key == r.key) then
      { f with scopes := updFirst (fun o => o.cls == r.cls && o.key == r.key)
                 (fun o => { o with opened := min o.opened r.moment, regions := (o.regions ++ rg).eraseDups }) f.scopes }
    else { f with scopes := f.scopes ++ [{ cls := r.cls, key := r.key, opened := r.moment, regions := rg }] }

/-- A report reaches its region's collector (R26, R27, R29, R30). Its reaction is its raiser's. A report of a dependent class from a
covered region is a dependent even when its signature is that of an emitted or an open closure: R29 gives it no entry of its own, and
the spec does not rank R29 against R27 and R30 (DESIGN CHOICE, log 37). -/
def collect (now : Nat) (r : Report) (f : Faults) : Faults :=
  if dependentClass r.cls && !(coveringOpened f r.region r.moment).isEmpty then countDependent r.region r.moment f
  else if f.closures.any (recentClosure now r.cls r.key) then lateEchoes now r.cls r.key 1 f
  else
    let same (w : Merge) : Bool :=
      w.region == r.region && w.reports.any (fun x => x.cls == r.cls && x.key == r.key)
    let f1 := openScope r f
    if f1.windows.any same then
      { f1 with windows := updFirst same (fun w => { w with reports := w.reports ++ [r] }) f1.windows }
    else { f1 with windows := f1.windows ++ [{ region := r.region, opened := now, reports := [r] }] }

/-- Raises a fault report (R25). -/
def report (r : Report) (s : State) : State :=
  { s with faults := collect s.now { r with tick := s.now, legal := s.clock.legal } s.faults }

/-- A report from a cell, under a key. -/
def reportFrom (cls : Byte) (key i cycle : Nat) (scope : Nat) (outlets : BitVec 8) (reaction : Nat) (s : State) : State :=
  match cellId i with
  | some c => report { cls := cls, key := key, cycle := cycle, region := c.region, block := c.block, cell := c.cell,
                       scope := scope, outlets := outlets, reaction := reaction } s
  | none => s

/-- A report that names a cell (Table 1-6). -/
def cellReport (cls : Byte) (i cycle : Nat) (scope : Nat) (outlets : BitVec 8) (reaction : Nat) (s : State) : State :=
  reportFrom cls i i cycle scope outlets reaction s

/-- A window of a signature. -/
def Merge.is (cls : Byte) (key : Nat) (w : Merge) : Bool := w.reports.any (fun x => x.cls == cls && x.key == key)

/-- A region's merged report is forwarded to the chip collector (R27, R28); members whose closure has been emitted meanwhile are
late echoes (R30). -/
def forward (now : Nat) (w : Merge) (f : Faults) : Faults :=
  match w.reports with
  | [] => f
  | r :: _ =>
    if f.closures.any (recentClosure now r.cls r.key) then lateEchoes now r.cls r.key w.reports.length f
    else if f.chip.any (Merge.is r.cls r.key) then
      { f with chip := updFirst (Merge.is r.cls r.key) (fun c => { c with reports := c.reports ++ w.reports }) f.chip }
    else { f with chip := f.chip ++ [{ region := 6, opened := now, reports := w.reports }] }

/-- The payload of FAULT_PRIMARY (Table 1-7). SCOPE is the root report's own, like the other fields that name the origin, and not the
widest scope that the merged report keeps under R27: Table 1-7 does not say which (DESIGN CHOICE, log 37). -/
def primaryPayload (c : Closure) : List Byte :=
  packBytes [(stampOf c.root.legal, 48), (c.root.cycle, 11), (0, 5), (c.root.cls.toNat, 8), (c.root.key, 16),
    (c.root.scope, 2), (c.root.region, 3), (0, 3), (c.root.block, 6), (0, 2), (c.root.cell, 8), (c.echo, 16),
    (c.dependents, 16), (c.reaction, 8), (c.outlets.toNat, 8), (c.id, 16), (0, 16)]

/-- The closure number after n: 0 is never used (Table 1-7). -/
def nextClosureId (n : Nat) : Nat := if 0xFFFF ≤ n then 1 else n + 1

/-- The chip collector closes a window: root cause, journal, CLOSURE_STATUS, FAULT_PRIMARY (R28, R31, R466). -/
def closeChip (cut : Bool) (w : Merge) (s : State) : State :=
  match w.reports with
  | [] => s
  | r0 :: t =>
    let root := rootOf t r0
    let own := s.faults.scopes.filter (fun o => o.cls == r0.cls && o.key == r0.key)
    let deps := (own.map (·.dependents)).foldl (· + ·) 0
    let c : Closure :=
      { id := nextClosureId s.faults.lastId, root := root, echo := sat 16 t.length,
        reaction := (w.reports.map (·.reaction)).foldl max 0,
        outlets := (w.reports.map (·.outlets)).foldl (· ||| ·) 0, dependents := sat 16 deps,
        opened := (own.map (·.opened)).headD root.moment, emitted := s.now, openRegions := coverage w.reports, isOpen := decide (2 ≤ widest w.reports),
        cutShort := cut, delivered := true }
    let f := { s.faults with
      chip := s.faults.chip.filter (fun x => !Merge.is r0.cls r0.key x),
      scopes := s.faults.scopes.filter (fun o => !(o.cls == r0.cls && o.key == r0.key)),
      closures := (c :: s.faults.closures).take 64, lastId := c.id }
    event 0x0C01 (primaryPayload c) (journalApp 0x10 c.id 24 { s with faults := f })

/-- Every window closes at once: R466, when a reset of reach SYSTEM or wider takes effect. -/
def closeAll (s : State) : State :=
  let f := s.faults.windows.foldl (fun f w => forward s.now w f) { s.faults with windows := [] }
  f.chip.foldl (fun s w => closeChip true w s) { s with faults := f }

/-- A region's merge window of 2 frames ends and its merged report is forwarded (R27). -/
def execRegionMergeWindowClose (region : Nat) (cls : Byte) (key : Nat) (s : State) : Host.Outcome State Fault Refusal :=
  let due (w : Merge) : Bool := w.region == region && w.is cls key && decide (w.opened + 2 ≤ s.now)
  match s.faults.windows.find? due with
  | some w =>
    let f := { s.faults with windows := s.faults.windows.erase w }
    .next { s with faults := forward s.now w f }
  | none => .next s

/-- The chip window of a signature, 2 frames long, ends (R28). -/
def execChipWindowClose (cls : Byte) (key : Nat) (s : State) : Host.Outcome State Fault Refusal :=
  match s.faults.chip.find? (fun w => w.is cls key && decide (w.opened + 2 ≤ s.now)) with
  | some w => .next (closeChip false w s)
  | none => .next s

/-- One superframe after its emission a closure stops covering its regions (R29). -/
def execClosureOpenEnd (id : Nat) (s : State) : Host.Outcome State Fault Refusal :=
  let done (c : Closure) : Bool := c.id == id && c.isOpen && decide (c.emitted + superframe ≤ s.now)
  .next { s with faults := { s.faults with closures := updFirst done
                                             (fun c => { c with isOpen := false, openRegions := [] }) s.faults.closures } }

end Sys2Proof.Machine
end

