-- ==== Sys2Proof/Machine/Easement.lean ====
section
/-!
DEFINITION. The easement arbiter: budgets, charges, placement of requests and displacement (R33 to R41).
-/

namespace Sys2Proof.Machine

/-- Internal envelope, 0.01 W (R34). -/
def intBudget : Nat := 1100

/-- Internal base charge, 0.01 W (R34). -/
def intBase (s : State) : Nat := 200 + 60 * ((List.range 8).filter s.sessionOpen).length

/-- The measured steady power of load channel c, while it is on in a bank declared on VAUX (R33, R34). -/
def steadyOf (s : State) (c : Nat) : Nat :=
  let st := (vget s.loads.chans c {}).state
  if (st == 2 || st == 3) && bit s.ease.bankOnVaux (c / 4) then vget s.ease.loadSteady c 0 else 0

/-- VAUX base charge, 0.1 W: the module itself and the measured steady load power (R34). -/
def vauxBase (s : State) : Nat := 110 + ((List.range 16).map (steadyOf s)).foldl (· + ·) 0 / 100000

/-- The charge is still in its peak phase at `now`, past its declared duration (R40). -/
def Charge.late (now : Nat) (c : Charge) : Bool :=
  c.begun && !c.inHold && !c.rq.standing && decide (c.start + c.rq.duration ≤ now)

/-- The charge counts its peak in frame t, as known in frame `now` (R37, R38, R40). -/
def Charge.peakAt (now t : Nat) (c : Charge) : Bool :=
  decide (c.start ≤ t) && !c.inHold &&
    (c.rq.standing || c.late now || decide (t < c.start + c.rq.duration))

/-- VAUX charge of an operation in frame t. -/
def Charge.vauxAt (now t : Nat) (c : Charge) : Nat :=
  if c.peakAt now t then c.rq.vauxPeak else if c.start ≤ t then c.rq.hold else 0

/-- Internal charge of an operation in frame t; a hold is VAUX power only (Table 1-8). -/
def Charge.intAt (now t : Nat) (c : Charge) : Nat := if c.peakAt now t then c.rq.intPeak else 0

/-- Total VAUX charge of frame t. -/
def vauxTotal (s : State) (cs : List Charge) (t : Nat) : Nat :=
  vauxBase s + (cs.map (Charge.vauxAt s.now t)).foldl (· + ·) 0

/-- Total internal charge of frame t. -/
def intTotal (s : State) (cs : List Charge) (t : Nat) : Nat :=
  intBase s + (cs.map (Charge.intAt s.now t)).foldl (· + ·) 0

/-- Frames at which a total can rise: starts and ends of peaks. -/
def changePoints (cs : List Charge) : List Nat :=
  cs.map (·.start) ++ cs.map (fun c => c.start + c.rq.duration)

/-- Both budgets hold request r from frame a on, beside the charges cs (R37). -/
def fits (s : State) (cs : List Charge) (r : Request) (a : Nat) : Bool :=
  let c : Charge := { rq := r, start := a }
  let pts := a :: (a + r.duration) :: (changePoints cs).filter (fun t => decide (a < t))
  pts.all (fun t => decide (vauxTotal s (c :: cs) t ≤ s.ease.vauxBudget.toNat) &&
                    decide (intTotal s (c :: cs) t ≤ intBudget))

/-- Ascending order. -/
def insertNat (n : Nat) : List Nat → List Nat
  | [] => [n]
  | m :: t => if n ≤ m then n :: m :: t else m :: insertNat n t

/-- The earliest frame at which request r fits, if one is at or before its latest start (R37). -/
def place (s : State) (cs : List Charge) (r : Request) : Option Nat :=
  let first := max s.now r.slot
  let cands := first :: ((cs.map (fun c => c.start + c.rq.duration)).foldr insertNat []).filter (fun t => decide (first < t))
  (cands.filter (fun t => decide (t ≤ r.latest))).find? (fits s cs r)

/-- An answer of the arbiter (R36). -/
inductive Answer where
  | grant
  | defer (start : Nat)
  | refuse
deriving DecidableEq, Repr

/-- The name that the next request gets. -/
def nextReq (s : State) : Nat := s.ease.nextId

/-- A request is submitted in the frame under way (R36). -/
def submit (r : Request) (s : State) : State :=
  { s with ease := { s.ease with requests := s.ease.requests ++ [{ r with id := s.ease.nextId }],
                                 nextId := s.ease.nextId + 1 } }

/-- A request, a reservation or a charge is withdrawn or has ended: its charge is released at once (R33, R40). -/
def release (id : Nat) (s : State) : State :=
  { s with ease := { s.ease with requests := s.ease.requests.filter (fun r => r.id != id),
                                 charges := s.ease.charges.filter (fun c => c.rq.id != id) } }

/-- The same for an operation that may hold no request. -/
def releaseOpt (id : Option Nat) (s : State) : State :=
  match id with
  | some i => release i s
  | none => s

/-- The operation has left its peak phase: it is charged its hold, or nothing more (R40). -/
def leavePeak (id : Nat) (s : State) : State :=
  { s with ease := { s.ease with
      charges := (s.ease.charges.map (fun c => if c.rq.id = id then { c with inHold := true } else c)).filter
        (fun c => c.rq.id != id || c.rq.hold != 0) } }

/-- The operation has begun (R40). -/
def beginOp (id : Nat) (s : State) : State :=
  { s with ease := { s.ease with
      charges := s.ease.charges.map (fun c => if c.rq.id = id then { c with begun := true, granted := true } else c) } }

/-- The operation holds leave: its request is charged or reserved. -/
def chargeOf (id : Nat) (s : State) : Option Charge := s.ease.charges.find? (fun c => c.rq.id == id)

/-- The legal time of tick t, from now on (R21). -/
def legalAt (s : State) (t : Nat) : Nat := s.clock.legal + t - s.now

/-- A REFUSE is counted, and reported unless the host asked (R42). -/
def refused (r : Request) (s : State) : State :=
  let s1 := { s with ease := { s.ease with refusals := satInc 16 s.ease.refusals } }
  if r.host then s1
  else event 0x0143 (le 1 r.cls ++ le 1 r.requester ++ stampB (legalAt s r.latest)) s1

/-- LEAVE_REVISED for a request and its new answer (R39, Table 4-18). -/
def revised (r : Request) (a : Option Nat) (s : State) : State :=
  let code := match a with
    | none => 2
    | some t => if t = s.now then 0 else 1
  let st := match a with
    | none => le 6 0
    | some t => stampB (legalAt s t)
  event 0x0144 (le 1 r.cls ++ le 1 r.requester ++ le 1 code ++ st) s

/-- Order of displacement: reverse class order, the latest reserved first (R39). The list is in order of reservation. -/
def displaceOrder (cs : List Charge) : List Charge :=
  let can := cs.filter (fun c => !c.begun && decide (3 ≤ c.rq.cls))
  ([9, 8, 7, 6, 5, 4, 3].map (fun k => (can.filter (fun c => c.rq.cls == k)).reverse)).flatten

/-- Removes reserved operations one by one until the pull-in fits: what is displaced and where it fits (R39). When it does not fit with
every candidate displaced either, nothing is displaced and the pull-in is refused: R39 does not say what happens then (DESIGN CHOICE,
log 37). -/
def displace (s : State) (r : Request) : List Charge → List Charge → List Charge → Option (List Charge × List Charge × Nat)
  | [], _, _ => none
  | d :: t, cs, gone =>
    let cs' := cs.filter (fun c => c.rq.id != d.rq.id)
    match place s cs' r with
    | some a => some (gone ++ [d], cs', a)
    | none => displace s r t cs' (gone ++ [d])

/-- A request inserted by requester number. -/
def insertReq (r : Request) : List Request → List Request
  | [] => [r]
  | q :: t => if r.requester ≤ q.requester then r :: q :: t else q :: insertReq r t

/-- Staggered pull-ins of one slot take each other's places in driver-number order (R41); the other requests keep theirs. -/
def slotOrder (rs : List Request) : List Request :=
  rs.mapIdx (fun i r =>
    if r.slot = 0 then r
    else ((rs.filter (fun q => q.slot == r.slot)).foldr insertReq []).getD ((rs.take i).filter (fun q => q.slot == r.slot)).length r)

/-- Class order, then order of arrival (R37), pull-ins of one stagger slot in driver-number order (R41). -/
def byClass (rs : List Request) : List Request :=
  slotOrder (rs.filter (fun r => r.cls == 1)) ++ ([2, 3, 4, 5, 6, 7, 8, 9].map (fun k => rs.filter (fun r => r.cls == k))).flatten

/-- Charges in the class order of their requests, and within a class in order of reservation (R37). -/
def chargesByClass (cs : List Charge) : List Charge :=
  ([1, 2, 3, 4, 5, 6, 7, 8, 9].map (fun k => cs.filter (fun c => c.rq.cls == k))).flatten

/-- The stagger slot of a pull-in whose lowest outlet is n, within 10 s of the restore point (R41): the slot, and the
stagger origin when this request sets it. -/
def staggerSlot (s : State) (n : Nat) : Nat × Option Nat :=
  match s.ease.restoreAt with
  | none => (0, s.ease.staggerAt)
  | some r =>
    if s.now < r + secF 10 then
      let o := s.ease.staggerAt.getD s.now
      (o + msF (40 * n), some o)
    else (0, s.ease.staggerAt)

/-- EASEMENT_STATE.STAGGER_LEFT (Table 1-11). -/
def staggerLeft (s : State) : Nat :=
  match s.ease.restoreAt with
  | none => 0
  | some r => if s.now < r + secF 10 then (r + secF 10 - s.now) / 20 else 0

end Sys2Proof.Machine
end

