-- ==== Sys2Proof/Machine/Stops.lean ====
section
/-!
DEFINITION. Contactor drivers, permits, the sequence of Table 9-4 and its stops, the end of a vehicle link, and the global safe
state: the operations that several regions share (R20, R298, R303 to R311, R315 to R322).
-/

namespace Sys2Proof.Machine

/-! Access. -/

/-- Contactor driver d. -/
def drv (s : State) (d : Nat) : Driver := vget s.sw.drivers d {}

/-- Driver d rewritten. -/
def updDrv (d : Nat) (f : Driver → Driver) (s : State) : State :=
  { s with sw := { s.sw with drivers := vmod s.sw.drivers d f } }

/-- The sequence of outlet n. -/
def sq (s : State) (n : Nat) : Seq := vget s.sw.seqs n {}

/-- The sequence of outlet n rewritten. -/
def updSq (n : Nat) (f : Seq → Seq) (s : State) : State := { s with sw := { s.sw with seqs := vmod s.sw.seqs n f } }

/-- The vehicle link of outlet n. -/
def lk (s : State) (n : Nat) : LinkOut := vget s.link.outs n {}

/-- The vehicle link of outlet n rewritten. -/
def updLk (n : Nat) (f : LinkOut → LinkOut) (s : State) : State :=
  { s with link := { s.link with outs := vmod s.link.outs n f } }

/-- SWITCH_CONFIG of outlet n (Table 9-11). -/
def swCfg (s : State) (n : Nat) : BitVec 64 := vget s.sw.config n 0

/-- KDRV_CONFIG of driver d (Table 9-12). -/
def kCfg (s : State) (d : Nat) : BitVec 72 := vget s.sw.kdrv d 0

/-- LINK_CONFIG of outlet n (Table 8-8). -/
def lkCfg (s : State) (n : Nat) : BitVec 64 := vget s.link.config n 0

/-- T_RAMP and T_RAMP_EMERG in ms. -/
def tRamp (s : State) (n : Nat) : Nat := fld (swCfg s n) 0 16
def tRampEmerg (s : State) (n : Nat) : Nat := fld (swCfg s n) 16 8

/-! Sessions. -/

/-- The session of outlet n rewritten. -/
def updSession (n : Nat) (f : Session → Session) (s : State) : State :=
  { s with billing := { s.billing with sessions := vmod s.billing.sessions n (Option.map f) } }

/-- The session identifier of outlet n, 0 when none is open. -/
def sessionId (s : State) (n : Nat) : Nat :=
  match s.session n with
  | some x => x.id.toNat
  | none => 0

/-- The close instant of the session is now, unless it is fixed already (R206, R320). -/
def closeAt (n : Nat) (s : State) : State :=
  updSession n (fun x => { x with closeT := some (x.closeT.getD (s.now, s.clock.legal)) }) s

/-! Groups and the matrix. -/

/-- The two segments that matrix driver d joins (Table 9-1). -/
def matrixJoins (d : Nat) : Nat × Nat :=
  match d with
  | 16 => (0, 1) | 17 => (2, 3) | 18 => (4, 5) | 19 => (6, 7)
  | 20 => (1, 2) | 21 => (3, 4) | 22 => (5, 6) | _ => (7, 0)

/-- The owner of segment m (BUS_STATE.OWNER). -/
def ownerOf (s : State) (m : Nat) : Option Nat := vget s.sw.owner m none

/-- The group of outlet n: the segments it owns (R304). -/
def groupOf (s : State) (n : Nat) : BitVec 8 := maskOf 8 ((List.range 8).filter (fun m => ownerOf s m == some n))

/-- Segment m is owned by nobody, or by n. -/
def setOwner (m : Nat) (o : Option Nat) (s : State) : State :=
  { s with sw := { s.sw with owner := vset s.sw.owner m o } }

/-- Matrix drivers commanded on whose segments both belong to n's group. -/
def groupMatrix (s : State) (n : Nat) : List Nat :=
  ((List.range 8).map (· + 16)).filter (fun d =>
    fld (kCfg s d) 0 2 == 0 && (drv s d).cmd &&
      (ownerOf s (matrixJoins d).1 == some n && ownerOf s (matrixJoins d).2 == some n))

/-- Driver d is configured as an auxiliary output (R305). -/
def isAux (s : State) (d : Nat) : Bool := decide (16 ≤ d) && decide (d < 24) && fld (kCfg s d) 0 2 == 1

/-- The drivers of n's group: the outlet pair and its matrix contactors. -/
def groupDrivers (s : State) (n : Nat) : List Nat := [2 * n, 2 * n + 1] ++ groupMatrix s n

/-! Drivers. -/

/-- Driver d off: its leave ends, and its mirror input is expected to read on (R307, R310). -/
def driverOff (d : Nat) (s : State) : State :=
  let now := s.now
  updDrv d (fun x =>
    { x with cmd := false, state := if x.state = 3 ∨ x.state = 4 then x.state else 0, current := 0, req := none,
             hwOff := none, changedAt := if x.cmd then now else x.changedAt,
             expect := if x.cmd && !x.mainOpen then some true else if x.cmd then none else x.expect })
    (releaseOpt (drv s d).req s)

/-- The 5 ms hardware timer of R309 starts on every commanded driver of a list. -/
def armHwOff (ds : List Nat) (s : State) : State :=
  let now := s.now
  ds.foldl (fun s d => updDrv d (fun x =>
    if x.cmd then { x with hwOff := some (x.hwOff.getD now) } else x) s) s

/-- PERMIT_Nm released for a mask of segments; the drivers of their groups follow 5 ms later (R306, R309). -/
def releasePermits (mask : BitVec 8) (s : State) : State :=
  let low := s.sw.permit &&& mask
  let ns := (List.range 8).filter (fun n => groupOf s n &&& low != 0)
  let ds := (ns.map (groupDrivers s)).flatten
  armHwOff ds { s with sw := { s.sw with permit := s.sw.permit &&& ~~~ mask } }

/-- PERMIT_Nm low for every segment of n's group (R306), but neither after a power-fail warning nor in the global safe state (R20, R83). -/
def givePermits (n : Nat) (s : State) : State :=
  if s.shutting || s.faults.globalSafe then s
  else { s with sw := { s.sw with permit := s.sw.permit ||| groupOf s n } }

/-- Pull-in begins: the driver conducts fully, and its mirror input is expected to read off (R307, R310). -/
def beginPullIn (d : Nat) (s : State) : State :=
  let now := s.now
  updDrv d (fun x =>
    { x with cmd := true, state := 1, ops := satInc 32 x.ops, pullAt := now, changedAt := now, hwOff := none,
             expect := if x.mainOpen then some false else none }) s

/-- PULL_IN_MS, PULL_IN_W and HOLD_W of a driver. -/
def pullInMs (s : State) (d : Nat) : Nat := fld (kCfg s d) 8 8
def pullInW (s : State) (d : Nat) : Nat := fld (kCfg s d) 40 16
def holdW (s : State) (d : Nat) : Nat := fld (kCfg s d) 56 16

/-- A contactor pull-in asks leave: one class 1 request for the drivers that act together (R33, R35, R41, R307). The internal
peak and the latest start are free values: no rule gives them. -/
def requestPullIn (ds : List Nat) (lowest : Nat) (host : Bool) (s : State) : State :=
  let id := nextReq s
  let (slot, o) := staggerSlot s lowest
  let r : Request :=
    { cls := 1, requester := ds.headD 0, intPeak := Config.pullInInternal.val,
      vauxPeak := (ds.map (pullInW s)).foldl (· + ·) 0,
      duration := max 1 (msF ((ds.map (pullInMs s)).foldl max 0)), hold := (ds.map (holdW s)).foldl (· + ·) 0,
      latest := s.now + 1 + Config.pullInLatest, slot := slot, host := host }
  let s1 := submit r { s with ease := { s.ease with staggerAt := o } }
  ds.foldl (fun s d => updDrv d (fun x => { x with req := some id }) s) s1

/-! The sequence. -/

/-- The sequence of outlet n enters a state, with SEQ_CHANGED (Table 9-4). -/
def seqTo (n new : Nat) (s : State) : State :=
  let old := (sq s n).state
  if old = new then s
  else
    let now := s.now
    event 0x062B (le 1 n ++ le 1 old ++ le 1 new ++ s.stamp)
      (updSq n (fun x => { x with state := new, since := now, matchRun := 0, apartRun := 0, ccSince := none }) s)

/-- The sequence is in a state that permits delivery (Table 9-4). -/
def delivers (st : Nat) : Bool := decide (2 ≤ st) && decide (st ≤ 6)

/-! The end of a vehicle link. -/

/-- What the device last told a vehicle (the model's view of the wire): done, processing ongoing, failed. -/
def tell (n code : Nat) (s : State) : State := { s with link := { s.link with answer := code, answerOut := n } }

def ansOk : Nat := 1
def ansOngoing : Nat := 2
def ansFailed : Nat := 3

/-- The cable check is done, with the isolation status warning where `ansOk` says valid (R316). -/
def ansWarning : Nat := 9

/-- A link runs on outlet n: from its window, or from a pilot restart, to its end (DEDUCED, log 24). -/
def linkRuns (s : State) (n : Nat) : Bool :=
  let x := lk s n
  decide (2 ≤ x.phase) && decide (x.phase ≤ 8) || (x.phase == 1 && x.restarts != 0)

/-- A leave that no link holds yet is withdrawn (R278). -/
def dropLeave (n : Nat) (s : State) : State :=
  if (lk s n).phase = 1 then
    updLk n (fun y => { y with phase := 0, leave := none, leaveAt := none }) (releaseOpt (lk s n).leave s)
  else s

/-- Authorization requests of outlet n that await the host are withdrawn (R297). -/
def withdrawAuth (n : Nat) (s : State) : State :=
  let rq := s.link.requests.map (fun r => if r.outlet = n ∧ r.state = 0 then { r with state := 2 } else r)
  { s with link := { s.link with requests := rq } }

/-- The link of outlet n ends with a LINK_ENDED cause: leave, key, window, sets and requests end with it (R278, R280, R282,
R298). PWM5 goes back to HIGH at the next period boundary (R272). After SLAC_FAILED the outlet waits for state A (R288). -/
def linkEnd (n cause : Nat) (s : State) : State :=
  if !linkRuns s n then dropLeave n s
  else
    let x := lk s n
    let s1 := releaseOpt x.leave s
    let s1 := { s1 with link := { s1.link with sets := s1.link.sets.filter (fun t => t.cand != n) } }
    let s1 := withdrawAuth n s1
    let s1 := if bit (lkCfg s n) 1 && decide (3 ≤ x.phase) then event 0x052A (le 1 n ++ le 1 0 ++ le 6 x.evMac) s1 else s1
    let s1 := updLk n (fun y =>
      { y with phase := if cause = 8 then 9 else 0, needA := true, protocol := 0, tls := false, evMac := 0, margin := 0,
               attempts := 0, restarts := 0, tried := 0, windowOpen := false, pwmAt := none, leave := none, leaveAt := none,
               restartAt := none, nmk := none, nid := none, talker := 0, keys := Vector.replicate 2 none, session := 0, refuseAt := none,
               stopAt := none, stopAck := false, stopCmd := false, endCause := none, plca := false }) s1
    event 0x0527 (le 1 n ++ le 8 x.session ++ le 1 cause) s1

/-! Stops. -/

/-- Modules of n's group are commanded off (R321, R322). -/
def modulesOff (n : Nat) (s : State) : State :=
  let g := groupOf s n
  let mods := (List.range 16).foldl (fun v m =>
    if bit g (fld (vget s.sw.pmMap m 0) 8 3) then vmod v m (fun x => { x with mode := 0, iTarget := 0 }) else v)
    s.sw.modules
  { s with sw := { s.sw with modules := mods } }

/-- BUS_CHANGED: owners of all segments and the confirmed matrix contactors (Table 9-23). -/
def busChanged (ack : Bool) (s : State) : State :=
  let own := packBytes ((List.range 8).map (fun m => ((ownerOf s m).getD 0xF, 4)))
  let mat := le 1 (packBits ((List.range 8).map (fun i => (b1 ((drv s (16 + i)).cmd && !(drv s (16 + i)).mainOpen), 1))))
  emit 0x062C (own ++ mat) ack s

/-- The join or release that uses driver d. -/
def jobOf (s : State) (d : Nat) : Option BusJob := s.sw.jobs.find? (fun j => j.driver == d || j.also.contains d)

/-- A job is finished, with BUS_CHANGED unless a reset abandoned its report (R101). -/
def endJob (j : BusJob) (s : State) : State :=
  let s1 := { s with sw := { s.sw with jobs := s.sw.jobs.filter (fun k => k.segment != j.segment) } }
  if j.report then busChanged j.ack s1 else s1

/-- Joins and releases of n's group end with it, each with its BUS_CHANGED (R319, R340). -/
def dropJobs (n : Nat) (s : State) : State :=
  let js := s.sw.jobs.filter (fun j => j.owner == n)
  let s1 := js.foldl (fun s j => if j.join then driverOff j.driver s else s) s
  js.foldl (fun s j => endJob j s) s1

/-- Drivers of a list that wait for leave and do not conduct yet lose their request (R33, R40). -/
def dropPullIn (ds : List Nat) (s : State) : State :=
  (ds.filter (fun d => (drv s d).req.isSome && !(drv s d).cmd)).foldl (fun s d => driverOff d s) s

/-- A contactor of the outlet or of its group is welded: permits, modules and drivers are off, and the sequence passes through WELD_CHECK to
LOCKED until WELD_CLEAR; the session's close instant is this frame unless it is fixed already (R315, R320, Table 9-4). -/
def lockOutlet (n : Nat) (s : State) : State :=
  let s1 := modulesOff n (closeAt n { s with sw := { s.sw with permit := s.sw.permit &&& ~~~ groupOf s n } })
  let s1 := driverOff (2 * n + 1) (driverOff (2 * n) (dropJobs n s1))
  let s1 := (groupMatrix s1 n).foldl (fun s d => driverOff d s) s1
  let s1 := (bitList (groupOf s1 n)).foldl (fun s m => setOwner m none s) s1
  let s1 := updSq n (fun y => { y with ramp := none, discharge := false, welded := false, halted := false }) s1
  let s1 := seqTo n 9 (if (sq s n).state = 0 then s1 else seqTo n 8 s1)
  linkEnd n ((lk s1 n).endCause.getD 10) s1

/-- Every contactor of n's group is open, every check made: the group is dissolved and the sequence returns to IDLE; a link
that was to end with the stop ends now. With a matrix contactor welded it goes to LOCKED (R319, R320, Table 9-4). -/
def weldDone (n : Nat) (s : State) : State :=
  let x := sq s n
  let matrixShut := ((List.range 8).map (· + 16)).any (fun d =>
    fld (kCfg s d) 0 2 == 0 && !(drv s d).mainOpen &&
      (ownerOf s (matrixJoins d).1 == some n && ownerOf s (matrixJoins d).2 == some n))
  if x.state = 8 ∧ !x.discharge ∧ x.welded then lockOutlet n s
  else if x.state = 8 ∧ !x.discharge ∧ !matrixShut then
    let s1 := (bitList (groupOf s n)).foldl (fun s m => setOwner m none s) s
    let s1 := seqTo n 0 (updSq n (fun y => { y with ramp := none, opened := none, fastAt := none }) s1)
    match (lk s1 n).endCause with
    | some c => linkEnd n c s1
    | none => s1
  else s

/-- Both mirror inputs of the outlet pair read on: the pair is confirmed open, the session's close instant is this frame, the
matrix contactors open, and the voltage test begins when V_VEH is at least 100 V (R310, R319, R320). -/
def pairOpened (n : Nat) (s : State) : State :=
  let a := drv s (2 * n)
  let b := drv s (2 * n + 1)
  if (sq s n).state = 7 ∧ a.mainOpen ∧ b.mainOpen ∧ !a.cmd ∧ !b.cmd then
    let s1 := closeAt n (updSq n (fun y =>
      { y with opened := some (s.now, s.clock.legal), discharge := decide (100000 ≤ y.vVeh), busAt := y.vBus,
               follows := true }) s)
    let s1 := (groupMatrix s1 n).foldl (fun s d => driverOff d s) s1
    weldDone n (seqTo n 8 s1)
  else s

/-- The outlet pair is switched off and the sequence moves to OPENING (R321, Table 9-4). -/
def openPair (n : Nat) (s : State) : State :=
  let s1 := modulesOff n { s with sw := { s.sw with permit := s.sw.permit &&& ~~~ groupOf s n } }
  let s1 := driverOff (2 * n + 1) (driverOff (2 * n) (dropJobs n s1))
  pairOpened n (seqTo n 7 s1)

/-- SAFE_STOP at the end of a Safe Ramp Stop, with T in ms, a part of one counted whole (Table 9-23; DESIGN CHOICE, log 20). -/
def safeStopEvent (n result : Nat) (r : Ramp) (s : State) : State :=
  event 0x0624 (le 1 n ++ le 1 (sq s n).lastCause ++ le 2 ((r.len + 19) / 20) ++ le 1 result ++ s.stamp) s

/-- A running ramp is shortened to end `ms` from now, never lengthened (R321). -/
def shortenRamp (now ms : Nat) (r : Ramp) : Ramp :=
  if now + msF ms < r.t0 + r.len then { r with len := now + msF ms - r.t0 } else r

/-- Safe Ramp Stop on outlet n with a cause of SEQ_STATE.LAST_CAUSE and a ramp time in ms (R321, Table 9-6). In PULL_IN the
pull-in is withdrawn; a stop already past the ramp runs on. -/
def safeRampStop (n cause ms : Nat) (s : State) : State :=
  let x := sq s n
  let now := s.now
  let legal := s.clock.legal
  if x.state = 1 then
    openPair n (updSq n (fun y => { y with lastCause := cause, late := false, forced := false }) s)
  else if x.state = 6 then
    updSq n (fun y => { y with ramp := y.ramp.map (shortenRamp now ms) }) s
  else if 2 ≤ x.state ∧ x.state ≤ 5 then
    let i := x.iOut.natAbs
    let r : Ramp := { t0 := now, legal := legal, len := msF ms, threshold := max 2000 (i / 20), start := i }
    seqTo n 6 (updSq n (fun y => { y with lastCause := cause, late := false, forced := false, ramp := some r }) s)
  else s

/-- A failure in PULL_IN, SHORT_TEST or CABLE_CHECK passes through OPENING and WELD_CHECK; the vehicle is told the protocol's failure
(R315). -/
def failSequence (n cause : Nat) (s : State) : State :=
  tell n ansFailed (openPair n (updSq n (fun y => { y with lastCause := cause, late := false, forced := false }) s))

/-- A link that a stop of the device's own ends: LINK_ENDED with the cause given once the sequence is over (R298, R315). -/
def endAfterStop (n cause : Nat) (s : State) : State :=
  updLk n (fun y => { y with endCause := some (y.endCause.getD cause), phase := if linkRuns s n then 7 else y.phase }) s

/-- A stop that the device itself demands on an outlet with a session or a sequence: Safe Ramp Stop, and the link ends with it
(LINK_ENDED cause 10, Table 8-14). -/
def demandStop (n cause ms : Nat) (s : State) : State :=
  if (sq s n).state = 0 then
    if s.sessionOpen n then linkEnd n 10 (closeAt n s) else s
  else safeRampStop n cause ms (endAfterStop n 10 s)

/-- Fast stop of outlet n's group: every PERMIT at once, mode off, drivers 5 ms later or at once; the sequence moves to OPENING
(R322). A pull-in that waits for leave is withdrawn (R40). In WELD_CHECK, where permits and drivers are off, it sends mode off. -/
def fastStop (n cause : Nat) (atOnce : Bool) (s : State) : State :=
  let x := sq s n
  if x.state = 0 ∨ x.state = 9 then s
  else if x.state = 8 then modulesOff n (updSq n (fun y => { y with halted := true }) s)
  else
    let g := groupOf s n
    let legal := s.clock.legal
    let s1 := modulesOff n (releasePermits g (endAfterStop n 10 s))
    let s1 := dropPullIn [2 * n, 2 * n + 1] (dropJobs n s1)
    let s1 := if atOnce then (groupDrivers s1 n).foldl (fun s d => driverOff d s) s1
              else armHwOff (groupDrivers s1 n) s1
    if x.state = 7 then pairOpened n s1
    else
      let s1 := updSq n (fun y => { y with lastCause := cause, ramp := none, fastAt := some legal }) s1
      let s1 := event 0x0625 (le 1 n ++ le 1 cause ++ le 1 g.toNat ++ s.stamp) s1
      pairOpened n (seqTo n 7 s1)

/-! Load channels off, pulses released, the global safe state. -/

/-- Load channel c. -/
def chn (s : State) (c : Nat) : Chan := vget s.loads.chans c {}

/-- Load channel c rewritten. -/
def updCh (c : Nat) (f : Chan → Chan) (s : State) : State :=
  { s with loads := { s.loads with chans := vmod s.loads.chans c f } }

/-- Bank k. -/
def bnk (s : State) (k : Nat) : Bank := vget s.loads.banks k {}

/-- Bank k rewritten. -/
def updBank (k : Nat) (f : Bank → Bank) (s : State) : State :=
  { s with loads := { s.loads with banks := vmod s.loads.banks k f } }

/-- A channel changes state, with LOAD_CHANGED; a LOAD_SET answered QUEUED completes with it (Table 10-4, R361). Leaving INRUSH
and ON switches the output off. -/
def chTo (c new : Nat) (s : State) : State :=
  let x := chn s c
  if x.state = new then s
  else
    let off := decide (new = 0) || decide (new = 1) || decide (4 ≤ new)
    let cmdAck := x.byCmd == some true && (new = 0 || new = 2)
    let s1 := if off then releaseOpt x.req s else s
    let s1 := updCh c (fun y =>
      { y with state := new, byCmd := if new = 0 ∨ new = 2 then none else y.byCmd,
               req := if off then none else y.req, window := if off then none else y.window,
               current := if off then 0 else y.current, inLimit := if off then false else y.inLimit,
               limitTime := if off then 0 else y.limitTime, openTime := if off then 0 else y.openTime }) s1
    let s1 := if off && new ≠ 1 then
        updBank (c / 4) (fun b => { b with queue := b.queue.filter (· != c) }) s1 else s1
    let s1 := emit 0x0720 (le 1 c ++ le 1 new ++ le 1 (chn s1 c).fault ++ s.stamp) cmdAck s1
    if off && x.openLoad then
      event 0x0722 (le 1 c ++ le 1 0 ++ s.stamp) (updCh c (fun y => { y with openLoad := false }) s1)
    else s1

/-- Every load channel of a list off with CMD = 0 (R344). -/
def channelsOff (cs : List Nat) (s : State) : State :=
  cs.foldl (fun s c =>
    let s1 := updCh c (fun y => { y with cmd := false, retryAt := none }) s
    if (chn s c).state = 6 ∧ (chn s c).isolated then s1 else chTo c 0 s1) s

/-- Every pulse output is released (R20, R209). -/
def releasePulses (s : State) : State :=
  { s with energy := { s.energy with pulses := s.energy.pulses.map (fun p => { p with low := false }) } }

/-- The sequence of outlet n as the outputs take their safe states. -/
def safeSeq (s : State) (n : Nat) : State :=
  let s1 := modulesOff n (dropJobs n s)
  if 1 ≤ (sq s1 n).state ∧ (sq s1 n).state ≤ 6 then seqTo n 7 (updSq n (fun y => { y with ramp := none }) s1) else s1

/-- Every pilot drives state F, but one at HIZ. -/
def pilotsSafe (s : State) : State :=
  { s with link := { s.link with outs := s.link.outs.map (fun y => if y.drive = 3 then y else { y with drive := 2, pilot := 5 }) } }

/-- The panel light goes off. -/
def lightSafe (s : State) : State :=
  if s.disp.light then event 0x0A22 (le 1 0 ++ s.stamp) { s with disp := { s.disp with light := false } } else s

/-- The outputs take the states of the global safe state (R20, R89): every PERMIT released, every driver off 5 ms later, load
channels off, pilots at F, pulse outputs released, the front light released (R414). -/
def outputsSafe (s : State) : State :=
  let s1 := dropPullIn (List.range 24) (armHwOff (List.range 24) { s with sw := { s.sw with permit := 0 } })
  releasePulses (lightSafe (pilotsSafe (channelsOff (List.range 16) ((List.range 8).foldl safeSeq s1))))

end Sys2Proof.Machine
end

