-- ==== Sys2Proof/Machine/Records.lean ====
section
/-!
DEFINITION. Sealed records, meter flags, sessions as they open and close, and mode changes (R105 to R107, R220, R241, R242, R253 to
R260, R473).
-/

namespace Sys2Proof.Machine

/-! Energy values. -/

/-- Whole microwatt-hours of an accumulator (R200). -/
def uwh (e : Nat) : Nat := e / 2 ^ 32

/-- A register in mWh: whole microwatt-hours by 1,000, rounded down (R200). -/
def mwh (e : Nat) : Nat := uwh e / 1000

/-- Two accumulator sets added. -/
def Acc.add (a b : Acc) : Acc :=
  { rawImp := a.rawImp + b.rawImp, rawExp := a.rawExp + b.rawExp, cmpImp := a.cmpImp + b.cmpImp, cmpExp := a.cmpExp + b.cmpExp }

/-- The energy engine of outlet n. -/
def eng (s : State) (n : Nat) : EnergyOut := vget s.energy.outs n {}

/-- The energy engine of outlet n rewritten. -/
def updEng (n : Nat) (f : EnergyOut → EnergyOut) (s : State) : State :=
  { s with energy := { s.energy with outs := vmod s.energy.outs n f } }

/-- The accumulators of unit u: an outlet, or the device total 8 (Table 6-5). -/
def accOf (s : State) (u : Nat) : Acc :=
  if u < 8 then (eng s u).acc else s.outlets.foldl (fun a n => a.add (eng s n).acc) {}

/-- The four values of an accumulator set, in mWh. -/
def Acc.values (a : Acc) : BitVec 256 :=
  BitVec.ofNat 256 (packBits [(mwh a.rawImp, 64), (mwh a.rawExp, 64), (mwh a.cmpImp, 64), (mwh a.cmpExp, 64)])

/-- Register of unit u, tariff t, direction d (R241). -/
def tarReg (s : State) (u t d : Nat) : Nat := vget s.billing.regs (16 * u + 2 * t + d) 0

/-- Sixteen values as TARIFF_VALUES. -/
def packTariffs (l : List Nat) : BitVec 1024 := BitVec.ofNat 1024 (packBits (l.map (fun v => (mwh v, 64))))

/-- TARIFF_REG of unit u as TARIFF_VALUES. -/
def tariffValues (s : State) (u : Nat) : BitVec 1024 :=
  packTariffs ((List.range 16).map (fun i => tarReg s u (i / 2) (i % 2)))

/-- BILLING_CONFIG.BASIS is compensated (Table 7-7). -/
def compensated (s : State) : Bool := bit s.billing.config 0

/-- Import and export of the basis kind (R241). -/
def basisImp (s : State) (a : Acc) : Nat := if compensated s then a.cmpImp else a.rawImp
def basisExp (s : State) (a : Acc) : Nat := if compensated s then a.cmpExp else a.rawExp

/-- The tariff of the sessions' open windows: that before the first switch not yet committed (R242). -/
def openTariff (s : State) : Nat :=
  match s.billing.commits.find? (fun c => !c.switches.isEmpty) with
  | some c => c.before
  | none => s.billing.active

/-- A session's energy per tariff and direction: closed windows, and the open one (R242). -/
def sessionTariffs (s : State) (x : Session) : List Nat :=
  (List.range 16).map (fun i =>
    let v := vget x.perTariff i 0
    if i / 2 = openTariff s then
      v + (if i % 2 = 0 then basisImp s x.acc - x.winImp else basisExp s x.acc - x.winExp)
    else v)

/-! Meter flags. -/

/-- METER_WARN bits [31:0] of outlet n, its two live bits from the configuration (Table 6-8). -/
def meterWarn (s : State) (n : Nat) : Nat :=
  let off := b1 (!bit (vget s.fe.toneConfig n 0) 0)
  let wit := b1 (!bit (vget s.energy.verify n 0) 32)
  let w := (eng s n).warn
  fld w 0 8 + 2 ^ 8 * off + 2 ^ 9 * wit + 2 ^ 16 * fld w 16 8

/-- METER_FLAGS of a record (Table 7-5). The total carries the flags of every active outlet (DEDUCED, log 22). -/
def meterFlags (s : State) (u : Nat) : BitVec 32 :=
  let w : BitVec 32 :=
    if u < 8 then BitVec.ofNat 32 (meterWarn s u)
    else if u = 8 then s.outlets.foldl (fun m n => m ||| BitVec.ofNat 32 (meterWarn s n)) 0
    else 0
  BitVec.ofNat 32 (fld w 0 24 + 2 ^ 24 * b1 s.seals.unverified + 2 ^ 25 * b1 s.seals.tamper)

/-- A sticky flag of outlet n is set, with METER_WARNING (R220). -/
def setWarn (n b : Nat) (value : Int) (s : State) : State :=
  if bit (eng s n).warn b then s
  else
    let legal := s.clock.legal
    event 0x0320 (le 1 n ++ le 1 b ++ s.stamp ++ leInt 4 value)
      (updEng n (fun x => { x with warn := setBit x.warn b true, warnAt := vset x.warnAt b legal }) s)

/-- METER_WARN.SINCE: when the oldest of the sticky flags still set was set (Table 6-8). -/
def warnSince (x : EnergyOut) : Nat :=
  match ((List.range 6).filter (bit x.warn)).map (fun b => vget x.warnAt b 0) with
  | t :: ts => ts.foldl min t
  | [] => 0

/-- A session flag, bits [23:16], is set while a session is open on outlet n (R220). -/
def setSessionFlag (n b : Nat) (s : State) : State :=
  if s.sessionOpen n then updEng n (fun x => { x with warn := setBit x.warn b true }) s else s

/-! Signing. -/

/-- Places of the legal log (R258). -/
def logCapacity : Nat := 1228800

/-- LOG_STATE.NEWEST_SEQ: the last record signed (R255). -/
def newestSeq (s : State) : Nat := s.log.seq - 1

/-- Unacknowledged records, and FREE (R260). -/
def unacked (s : State) : Nat := newestSeq s - s.log.acked
def logFree (s : State) : Nat := logCapacity - unacked s

/-- Signed records that are in neither the legal log nor the overflow area yet. -/
def unstoredRecords (s : State) : List Record := s.log.journal.filter (fun r => decide (s.log.storedHi < r.seq))

/-- The overflow area has no place for a record of an ordinary type (R260). -/
def noRecordPlace (s : State) : Bool :=
  logFree s == 0 && decide (992 ≤ s.log.overflow.length + (unstoredRecords s).length)

/-- TIME_STATUS of a record signed now (Table 7-4). -/
def timeStatus (s : State) (adjusted rebuilt : Bool) : BitVec 16 :=
  BitVec.ofNat 16 (packBits [(b1 s.clock.valid, 1), (b1 adjusted, 1), (b1 (s.clock.slew != 0), 1), (b1 s.trv.aligned, 1),
    (b1 rebuilt, 1)])

/-- Bytes 0 to 191 of a record (Table 7-3). -/
def Record.signed (r : Record) : List Byte :=
  le 2 1 ++ le 1 r.type ++ le 1 r.outlet ++ le 8 r.seq ++ objBytes r.session ++ stampB r.time ++ objBytes r.timeStatus ++
    objBytes r.meterFlags ++ objBytes r.values ++ objBytes r.tariffs

/-- The 256 bytes of a record (Table 7-3). -/
def Record.bytes (r : Record) : List Byte := r.signed ++ objBytes r.sig

/-- RECORDS_PENDING, at most once per second while records are added (Table 7-19). -/
def recordsPending (s : State) : State :=
  let due := match s.log.pendingEv with
    | some t => decide (t + secF 1 ≤ s.now)
    | none => true
  if due then
    event 0x0428 (le 8 (newestSeq s) ++ le 4 (unacked s)) { s with log := { s.log with pendingEv := some s.now } }
  else s

/-- The SIGNED records of a set leave the journal (R436). -/
def signedRetire (l : List Record) (s : State) : State := metRetire (fun r => r.type == 0x02 && l.any (fun q => q.seq == r.key)) s

/-- The signature of a record or snapshot: ECDSA over P-256 with the device's key, deterministic (R257). -/
def signature (s : State) (bytes : List Byte) : BitVec 512 := ecdsa256 s.factory.deviceKey.toNat bytes

/-- A record is signed: it takes the next sequence number and is committed to the journal; seal records enter the seal log of the
witness store (R255, R257, R258, R403). -/
def sign (r : Record) (s : State) : State :=
  let r1 := { r with seq := s.log.seq, meterFlags := meterFlags s r.outlet }
  let r2 := { r1 with sig := signature s r1.signed }
  let s1 := if r.type = 0x08 ∨ r.type = 0x09 ∨ r.type = 0x0A then witnessSealRecord r2.bytes s else s
  recordsPending (journalMet 0x02 r2.seq 256
    { s1 with log := { s1.log with seq := s1.log.seq + 1, journal := s1.log.journal ++ [r2] } })

/-- The units that a record set covers: each active outlet and the total (R238). -/
def units (s : State) : List Nat := s.outlets ++ [8]

/-- A switch or a BENCHMARK change that finds no place is counted, not recorded (R260). -/
def countGap (s : State) : State :=
  let s1 := { s with log := { s.log with gapCount := satInc 32 s.log.gapCount, gap := true } }
  if s.log.gap then s1 else event 0x0427 (le 1 2 ++ le 4 (logFree s)) s1

/-- VERSION of tariff t, 0 for none (Table 7-8). -/
def versionOf (s : State) (t : Nat) : Nat := if t < 8 then fld (vget s.billing.tariffs t 0) 0 32 else 0

/-- A set of TARIFF_SWITCH records (Table 7-6). -/
def signSwitch (old new instant : Nat) (adjusted rebuilt : Bool) (s : State) : State :=
  if noRecordPlace s then countGap s
  else
    (units s).foldl (fun s u =>
      sign { type := 0x04, outlet := u, time := instant, timeStatus := timeStatus s adjusted rebuilt,
             session := BitVec.ofNat 64 (packBits [(old, 8), (new, 8), (versionOf s new, 32)]),
             values := (accOf s u).values, tariffs := tariffValues s u } s) s

/-- A set of BENCHMARK records (R473). -/
def signBenchmark (entry : Bool) (instant : Nat) (rebuilt : Bool) (s : State) : State :=
  if noRecordPlace s then countGap s
  else
    (units s).foldl (fun s u =>
      sign { type := 0x0C, outlet := u, time := instant, timeStatus := timeStatus s false rebuilt,
             session := BitVec.ofNat 64 (b1 entry), values := (accOf s u).values, tariffs := tariffValues s u } s) s

/-- A set of LOG_GAP records once room has returned (R260). -/
def signGap (s : State) : State :=
  let k := s.log.gapCount
  let s1 := { s with log := { s.log with gap := false, gapCount := 0 } }
  (units s1).foldl (fun s u =>
    sign { type := 0x0D, outlet := u, time := s.clock.legal, timeStatus := timeStatus s false false,
           session := BitVec.ofNat 64 k, values := (accOf s u).values, tariffs := tariffValues s u } s) s1

/-- A set of DEMAND_RESET records (Table 7-6). -/
def signDemandReset (instant : Nat) (adjusted : Bool) (s : State) : State :=
  (units s).foldl (fun s u =>
    let d := vget s.billing.demand u {}
    sign { type := 0x05, outlet := u, time := instant, timeStatus := timeStatus s adjusted false,
           values := BitVec.ofNat 256 (packBits [(d.maxImp, 64), (d.maxExp, 64)]),
           tariffs := BitVec.ofNat 1024 (packBits [(stampOf d.maxImpAt, 48), (stampOf d.maxExpAt, 48), (d.maxImpBnd, 64),
             (d.maxExpBnd, 64)]) } s) s

/-- A PARAMETER record: object, index and the SHA-256 of its content after the write (R263). -/
def signParameter (outlet object index : Nat) (content : List Byte) (s : State) : State :=
  sign { type := 0x0A, outlet := outlet, time := s.clock.legal, timeStatus := timeStatus s false false,
         values := BitVec.ofNat 256 (packBits [(object, 16), (index, 16)]),
         tariffs := BitVec.ofNat 1024 (ofBytes (sha256 content)) } s

/-- The closing record of a session: SESSION_END, or INTERRUPTED (Table 7-6). -/
def signClosing (type n time : Nat) (x : Session) (s : State) : State :=
  sign { type := type, outlet := n, session := x.id, time := time, timeStatus := timeStatus s x.adjusted false,
         values := x.acc.values, tariffs := packTariffs (sessionTariffs s x) } s

/-! Modes. -/

/-- Sub-intervals of a demand window (R244). -/
def subCount (s : State) : Nat := if bit s.billing.config 1 then max 1 (fld s.billing.config 16 4) else 1

/-- PULSE_ACC and PULSE_PENDING of every output to 0; a pulse already owed has left them and still starts (R214, R217). -/
def clearPulses (s : State) : State :=
  { s with energy := { s.energy with
      pulses := s.energy.pulses.map (fun p => { p with acc := 0, pending := 0, backlogEv := false }) } }

/-- The mode changes, on an input of Table 3-13 and with the input that had made it pending (R107). Entry into BENCHMARK and exit
from it are recorded and clear the pulse accumulators (R217, R473). -/
def enterMode (new : Mode) (input pendingInput : Nat) (s : State) : State :=
  let old := s.modes.mode
  let s1 := if old = .benchmark then signBenchmark false s.clock.legal false s else s
  let s1 := { s1 with modes := { s1.modes with mode := new, benchPending := false, benchQueued := none, commInput := 0 } }
  let s1 := if new = .benchmark then
      signBenchmark true s1.clock.legal false { s1 with billing := { s1.billing with bench := subCount s1 } } else s1
  let s1 := if old = .benchmark ∨ new = .benchmark then clearPulses s1 else s1
  event 0x0161 (le 1 old.code ++ le 1 new.code ++ le 1 input ++ le 1 pendingInput) s1

/-- MODE_REQUEST_DONE for a queued BENCHMARK that is cancelled (R110). -/
def benchCancelled (cause : Nat) (s : State) : State :=
  let s1 := { s with modes := { s.modes with benchPending := false, benchQueued := none } }
  match s.modes.benchQueued with
  | some ack => emit 0x0167 (le 1 3 ++ le 1 cause) ack s1
  | none => s1

/-- The last session has closed: COMMISSIONING if pending, else BENCHMARK if pending, else STANDBY (Table 3-13, row 5). -/
def lastClosed (s : State) : State :=
  if s.modes.mode = .service ∧ !s.anySession ∧ !s.shutting then
    if commCondition s then
      let i := s.modes.commInput
      enterMode .commissioning 5 i (if s.modes.benchPending then benchCancelled 1 s else s)
    else if s.modes.benchPending then enterMode .benchmark 5 6 s
    else enterMode .standby 5 0 s
  else s

/-! Sessions. -/

/-- SYNC_DONE for a pending SYNC that a session's opening cancels (R177, R193). No reset frame exists: the time stamp is that of the
cancellation (DESIGN CHOICE, log 35). -/
def cancelSync (s : State) : State :=
  let s1 := match s.fe.scheduled with
    | some _ => emit 0x0222 (le 1 1 ++ le 1 1 ++ s.stamp) s.fe.syncAck
        { s with fe := { s.fe with scheduled := none, syncAck := false } }
    | none => s
  s1

/-- A session opens on outlet n: identifier, SESSION_START, SERVICE (R105, R206, R256). -/
def openSession (n : Nat) (exportOk : Bool) (maxImp maxExp : Nat) (s : State) : State :=
  let id : BitVec 64 := BitVec.ofNat 64 (n + 256 * s.billing.sessionCtr)
  let x : Session := { id := id, startL := s.clock.legal, startT := s.now, exportOk := exportOk, maxImp := maxImp,
                       maxExp := maxExp }
  let s1 := { s with billing := { s.billing with sessions := vset s.billing.sessions n (some x),
                                                 sessionCtr := s.billing.sessionCtr + 1 } }
  let s1 := updEng n (fun e => { e with warn := BitVec.ofNat 32 (fld e.warn 0 16) }) s1
  let s1 := sign { type := 0x01, outlet := n, session := id, time := s1.clock.legal, timeStatus := timeStatus s1 false false,
                   values := (accOf s1 n).values, tariffs := tariffValues s1 n } s1
  let s1 := cancelSync s1
  if s1.modes.mode = .standby then enterMode .service 4 0 s1 else s1

/-- The closing record is signed and the session is over (R105, R206). -/
def closeSession (n : Nat) (s : State) : State :=
  match s.session n with
  | some x =>
    let t := match x.closeT with
      | some c => c.2
      | none => s.clock.legal
    let s1 := signClosing 0x02 n t x s
    lastClosed { s1 with billing := { s1.billing with sessions := vset s1.billing.sessions n none },
                         fe := { s1.fe with closedAt := some s1.now } }
  | none => s

end Sys2Proof.Machine
end

