-- ==== Sys2Proof/Machine/Energy.lean ====
section
/-!
DEFINITION. The energy engine: power of a period, shares, accumulators, the save ring, pulse outputs, tone and witness checks (R195
to R228).
-/

namespace Sys2Proof.Machine

/-! The power of a period. -/

/-- FS_CURRENT and CABLE_R of outlet n (Table 6-3). -/
def fsOf (s : State) (n : Nat) : Nat := fld (vget s.energy.config n 0) 0 16
def cableR (s : State) (n : Nat) : Nat := fld (vget s.energy.config n 0) 16 32

/-- |i|, in 2^-40 mA, is below 0.0002 x FS_CURRENT, 2 mA while it is unset: the comparison is exact (R199). -/
def creeps (s : State) (n : Nat) (i : Int) : Bool :=
  decide (5 * i.natAbs < (if fsOf s n = 0 then 10 else fsOf s n) * 2 ^ 40)

/-- The voltage at the current instant from eight outputs, newest first: a fixed linear filter whose taps sum to 2^22, so that equal
values give that value; the taps are not given (R196). -/
def vStar (vs : List Int) : Int :=
  let mid := vs.getD 4 0
  mid + fir Config.delayTap (vs.map (· - mid)) / 2 ^ 22

/-- A power for one frame in 2^-32 microwatt-hours: 50 us is 1/72,000,000 h (R200). Powers come in 10^-6 x 2^-80 microwatts, so that
power and cable loss are exact. -/
def shareOf (p6 : Nat) : Nat := p6 / (72000000 * 1000000 * 2 ^ 48)

/-- Power and cable loss of a period from 2^-40 mV and 2^-40 mA, in 10^-6 x 2^-80 microwatts (R195, R204). -/
def power6 (v i : Int) : Nat := (v * i).natAbs * 1000000
def loss6 (s : State) (n : Nat) (i : Int) : Nat := i.natAbs * i.natAbs * cableR s n

/-- Saturating counters of the energy diagnosis (Table 6-10). -/
def countInvalid (n : Nat) (s : State) : State :=
  updEng n (fun x => { x with invalid := satInc 32 x.invalid, invalidEver := satInc 32 x.invalidEver }) s

/-- Standing current outside BENCHMARK on an outlet without a session (R207). -/
def standingTrack (n : Nat) (flows : Bool) (s : State) : State :=
  let on := flows && !s.sessionOpen n && s.modes.mode != .benchmark
  let now := s.now
  updEng n (fun x => { x with standSince := if on then some (x.standSince.getD now) else none,
                              standEv := if on then x.standEv else none }) s

/-- The oldest period whose power is not yet computed and whose voltage outputs up to period m + 4 are there: its place in the
history (R196, R197). -/
def periodReady (h : List Bill) : Option Nat :=
  ((List.range 8).reverse.map (· + 4)).find? (fun k => match h[k]? with
    | some b => !b.used
    | none => false)

/-- The power of a ready period, and its five shares (R195 to R199, R203, R204). -/
def periodPower (n : Nat) (s : State) : State :=
  match periodReady (eng s n).hist with
  | none => s
  | some k =>
    let h := (eng s n).hist
    let b := h.getD k {}
    let vs := (h.drop (k - 4)).take 8
    let s0 := updEng n (fun x => { x with hist := x.hist.mapIdx (fun i y => if i = k then { y with used := true } else y) }) s
    let ok := b.iOk && decide (vs.length = 8) && vs.all (·.vOk)
    if !ok then
      let s1 := setSessionFlag n 16 (countInvalid n s0)
      let un := 5 * shareOf (power6 (eng s n).lastV b.i)
      let s2 := if b.iOk then updEng n (fun x => { x with unmetered := x.unmetered + un }) s1 else s1
      standingTrack n (b.iOk && !creeps s n b.i) s2
    else
      let v := vStar (vs.map (·.v))
      let p := v * b.i
      let s1 := updEng n (fun x => { x with lastV := v }) s0
      let s1 := if b.overrange then setSessionFlag n 17 s1 else s1
      if creeps s n b.i then
        standingTrack n false (updEng n (fun x => { x with creep := satInc 32 x.creep }) s1)
      else
        let s1 := updEng n (fun x =>
          { x with power := Int.tdiv p (1000000 * 2 ^ 80), voltage := Int.tdiv v (2 ^ 40), current := Int.tdiv b.i (2 ^ 40),
                   instant := b.legal }) s1
        if p = 0 then standingTrack n true s1
        else
          let imp := decide (0 < p)
          let pw := power6 v b.i
          let ls := loss6 s n b.i
          let clamp := imp && decide (pw < ls)
          let cmp := if imp then pw - ls else pw + ls
          let sh : Share := { raw := shareOf pw, cmp := shareOf cmp, imp := imp, left := 5, instant := b.legal, tick := b.tick,
                              due := b.start + 60 }
          let s2 := updEng n (fun x => { x with queue := x.queue ++ [sh],
                                                clamped := if clamp then satInc 32 x.clamped else x.clamped }) s1
          standingTrack n true (if clamp then setSessionFlag n 20 s2 else s2)

/-- The witness sums take a period's outputs by the superframe of its start (R219). -/
def witnessTake (at0 : Nat) (i w : Int) (ok : Bool) (x : EnergyOut) : EnergyOut :=
  if x.qAt = at0 then { x with qBillSum := x.qBillSum + i, qWitSum := x.qWitSum + w, qOk := x.qOk && ok }
  else { x with qDone := some (x.qBillSum, x.qWitSum, x.qOk && decide (x.qAt + 1 = at0)), qBillSum := i, qWitSum := w,
                qAt := at0, qOk := ok }

/-- The BILLING outputs of inputs 0, 1 and 2 of a period are delivered to the energy engine; the current instant lies k x 15.625 us
into the period, k the slot of input 1 (R167, R168, R172). -/
def billDelivered (n : Nat) (p : Nat × Nat) (y0 y1 y2 : Sample) (s : State) : State :=
  let at1 := 2 * (n % 2)
  let i := calibrated s n 1 y1.code
  let b : Bill := { v := calibrated s n 0 y0.code, i := i, vOk := bitsOf y0.flags 0 1 == 1, iOk := bitsOf y1.flags 0 1 == 1,
                    overrange := bitsOf (Nat.lor y0.flags y1.flags) 2 1 == 1, legal := p.2 + at1, tick := p.1 + at1, start := p.1 }
  updEng n (fun x => { witnessTake (p.2 / 400) i (calibrated s n 2 y2.code) (bitsOf y2.flags 0 1 == 1) x with
    hist := (b :: x.hist).take 12 }) s

/-- A period that a late BILLING-rate job loses: its outputs are missing, its power is not formed (R223). -/
def billLost (n : Nat) (p : Nat × Nat) (s : State) : State :=
  updEng n (fun x => { x with hist := (({ legal := p.2, tick := p.1, start := p.1, used := true } : Bill) :: x.hist).take 12 }) s

/-! Destinations of a share. -/

/-- The tariff in force at a tick: that before the first uncommitted boundary after it, else the active one (R238, R241). -/
def tariffAt (s : State) (tick : Nat) : Nat :=
  match s.billing.commits.find? (fun c => decide (tick < c.tick)) with
  | some c => c.before
  | none => s.billing.active

/-- Energy added to a register of unit n and to the total's (R241). -/
def addTariff (n t : Nat) (imp : Bool) (e : Nat) (s : State) : State :=
  if 8 ≤ t then s
  else
    let d := if imp then 0 else 1
    let r := vmod (vmod s.billing.regs (16 * n + 2 * t + d) (· + e)) (16 * 8 + 2 * t + d) (· + e)
    { s with billing := { s.billing with regs := r } }

/-- Energy added to the window of unit u that holds a tick (R244, R245): a window closed after the tick and not yet evaluated, or
the open sub-interval. -/
def addDemandU (u tick : Nat) (imp : Bool) (e : Nat) (s : State) : State :=
  if s.billing.evals.any (fun x => decide (tick < x.tick)) then
    let ev := updFirst (fun x : Eval => decide (tick < x.tick))
      (fun x =>
        let add (p : Nat × Nat) : Nat × Nat := if imp then (p.1 + e, p.2) else (p.1, p.2 + e)
        { x with energy := vmod x.energy u add, own := vmod x.own u add }) s.billing.evals
    let dm := vmod s.billing.demand u (fun d =>
      { d with closed := match d.closed with
                 | c :: t => (if imp then (c.1 + e, c.2) else (c.1, c.2 + e)) :: t
                 | [] => [] })
    { s with billing := { s.billing with evals := ev, demand := dm } }
  else
    { s with billing := { s.billing with demand := vmod s.billing.demand u (fun d =>
        if imp then { d with subImp := d.subImp + e } else { d with subExp := d.subExp + e }) } }

/-- The session of outlet n that takes a share with its instant at a tick (R206). -/
def takesShare (s : State) (n tick : Nat) : Bool :=
  match s.session n with
  | some x =>
    s.modes.mode == .service && decide (x.startT ≤ tick) &&
      (match x.closeT with | some c => decide (tick < c.1) | none => true)
  | none => false

/-- An accumulator set with one share added. -/
def Acc.take (a : Acc) (imp : Bool) (raw cmp : Nat) : Acc :=
  if imp then { a with rawImp := a.rawImp + raw, cmpImp := a.cmpImp + cmp }
  else { a with rawExp := a.rawExp + raw, cmpExp := a.cmpExp + cmp }

/-- One share is added to the destinations of Table 6-1. -/
def addShare (n : Nat) (sh : Share) (s : State) : State :=
  let m := s.modes.mode
  let total := m == .service || m == .benchmark || m == .recovery || m == .commissioning
  let ses := takesShare s n sh.tick
  let basis := if compensated s then sh.cmp else sh.raw
  let s1 := { s with energy := { s.energy with lastShare := s.clock.legal - 1, lastInstant := sh.instant } }
  let s1 := if total then addTariff n (tariffAt s sh.tick) sh.imp basis
              (updEng n (fun x => { x with acc := x.acc.take sh.imp sh.raw sh.cmp }) s1) else s1
  let s1 := if ses then updSession n (fun x => { x with acc := x.acc.take sh.imp sh.raw sh.cmp }) s1 else s1
  let s1 := if m == .service then addDemandU 8 sh.tick sh.imp basis (addDemandU n sh.tick sh.imp basis s1) else s1
  if !ses && m != .benchmark then updEng n (fun x => { x with standing := x.standing + sh.raw }) s1 else s1

/-- The oldest share of outlet n's queue is added once it is due, unless its instant lies at or after a boundary not yet committed
(R197, R250). -/
def runShare (n : Nat) (s : State) : State :=
  match (eng s n).queue with
  | [] => s
  | sh :: t =>
    if s.now ≤ sh.due || s.billing.commits.any (fun c => decide (c.tick ≤ sh.tick)) then s
    else
      let q := if sh.left ≤ 1 then t else { sh with left := sh.left - 1, due := sh.due + 1 } :: t
      addShare n sh (updEng n (fun x => { x with queue := q }) s)

/-- One frame of work of the energy job: the next period's power when no share is left, then one share (R197). -/
def energyUnit (n : Nat) (s : State) : State :=
  runShare n (if (eng s n).queue.isEmpty then periodPower n s else s)

/-- Work of outlet n is late: its oldest share, or the power of the oldest period that is ready, was due before the frame that
ends. -/
def energyLate (s : State) (n : Nat) : Bool :=
  match (eng s n).queue with
  | sh :: _ => decide (sh.due + 1 < s.now)
  | [] =>
    match periodReady (eng s n).hist with
    | some k => decide (((eng s n).hist.getD k {}).start + 61 < s.now)
    | none => false

/-- The energy job of outlet n in the frame that ends: nothing after a miss, else one frame of work, two while it is late (R222). -/
def energyJob (n : Nat) (s : State) : State :=
  if missed s 9 n then s
  else
    let late := energyLate s n
    let s1 := updEng n (fun x => { x with backlog := x.backlog - 1 }) (energyUnit n s)
    if late then energyUnit n s1 else s1

/-! Pulse outputs. -/

/-- Pulse output k and its configuration (Table 6-6). -/
def pls (s : State) (k : Nat) : Pulse := vget s.energy.pulses k {}
def updPls (k : Nat) (f : Pulse → Pulse) (s : State) : State :=
  { s with energy := { s.energy with pulses := vmod s.energy.pulses k f } }
def plsCfg (s : State) (k : Nat) : BitVec 64 := vget s.energy.pulseConfig k 0

/-- The whole-uWh count that pulse output k follows (R213). -/
def pulseSource (s : State) (k : Nat) : Nat :=
  let c := plsCfg s k
  let a := accOf s (fld c 0 4)
  uwh (if bit c 4 then (if bit c 5 then a.cmpExp else a.rawExp) else (if bit c 5 then a.cmpImp else a.rawImp))

/-- The constant in force (R213). -/
def pulseConst (s : State) (k : Nat) : Nat :=
  if s.modes.mode = .benchmark then fld (plsCfg s k) 32 17 else fld (plsCfg s k) 8 17

/-- At a frame tick: an owed pulse starts, or the pad is released first; pending pulses are issued 1 frame low, 1 frame high
(R214, R215); a disabled output is released (Table 6-6). PULSE_BACKLOG is armed again once the count has come back to 0: the spec
says only when it is first emitted (DESIGN CHOICE, log 40). -/
def pulseTick (k : Nat) (s : State) : State :=
  let p := pls s k
  let now := s.now
  if !bit (plsCfg s k) 6 then (if p.low then updPls k (fun y => { y with low := false, relAt := now }) s else s)
  else if p.owed then
    if p.low then updPls k (fun y => { y with low := false, relAt := now }) s
    else if p.relAt < now then
      updPls k (fun y => { y with low := true, endAt := now + (if 0 < y.pending then 1 else y.width), owed := false }) s
    else s
  else if 0 < p.pending then
    if p.low then (if p.endAt ≤ now then updPls k (fun y => { y with low := false, relAt := now }) s else s)
    else if p.relAt < now then
      updPls k (fun y => { y with low := true, endAt := now + 1, pending := y.pending - 1,
                                  backlogEv := y.backlogEv && decide (1 < y.pending) }) s
    else s
  else s

/-- The energy job raises PULSE_ACC by the source's increase times C; pulses owed are taken from it (R213 to R215). -/
def pulseAcc (k inc : Nat) (s : State) : State :=
  let p := pls s k
  let tot := p.acc + inc
  let owed := tot / 10 ^ 9
  if owed = 0 then updPls k (fun y => { y with acc := tot }) s
  else
    let est := (10 ^ 9 + inc - 1) / max 1 inc
    let w := min 400 (max 1 (est / 2))
    let extra := if p.owed then owed else owed - 1
    let pend := sat 16 (p.pending + extra)
    let s1 := updPls k (fun y => { y with acc := tot % 10 ^ 9, owed := true, width := if y.owed then y.width else w,
                                          pending := pend, backlogEv := y.backlogEv || decide (16 < pend) }) s
    if 16 < pend ∧ !p.backlogEv then event 0x0323 (le 1 k ++ le 2 pend) s1 else s1

/-- The pulse work of the energy job, from the source counts before the frame's shares. -/
def pulseJob (before : List Nat) (s : State) : State :=
  (List.range 4).foldl (fun s k =>
    if bit (plsCfg s k) 6 then pulseAcc k ((pulseSource s k - before.getD k 0) * pulseConst s k) s else s) s

/-! Saving. -/

/-- The remaining slew in microseconds (R233). -/
def slewUs (s : State) : Int := Int.tdiv s.clock.slew 25

/-- A boundary at an instant: what stands before it (R249). -/
def boundaryAt (instant tick : Nat) (s : State) : Commit :=
  let b := s.billing
  { instant := instant, tick := tick, before := b.active, after := b.active, since0 := b.since, subStart0 := b.subStart,
    adjusted0 := b.adjusted, tariffAdj0 := b.tariffAdj }

/-- The billing state of a save slot: that of the last committed boundary, so that one not yet committed is built anew after a cut
(R243, R250, R252). -/
def saveBilling (s : State) : BillSave :=
  let b := s.billing
  let v := b.commits.headD (boundaryAt 0 0 s)
  { active := v.before, timeValid := s.clock.valid, adjusted := v.adjusted0, since := v.since0, subStart := v.subStart0,
    boundary := b.boundary, slew := s.clock.slew,
    regs := Vector.ofFn (fun i : Fin 18 => if v.before < 8 then tarReg s (i.val / 2) v.before (i.val % 2) else 0),
    subs := Vector.ofFn (fun i : Fin 18 =>
      let p := match b.evals with
        | e :: _ => vget e.own (i.val / 2) (0, 0)
        | [] => let d := vget b.demand (i.val / 2) {}
                (d.subImp, d.subExp)
      if i.val % 2 = 0 then p.1 else p.2),
    sessions := b.sessions,
    sesFlags := Vector.ofFn (fun i : Fin 8 => BitVec.ofNat 8 (fld (eng s i.val).warn 16 8)) }

/-- The whole units of k of x, in the fine unit again: the count a report or slot of that resolution keeps. -/
def wholeOf (k x : Nat) : Nat := x / k * k

/-- The content of a save slot as it stands (Table 6-2). A pulse owed whose 10^9 is already subtracted counts as pending, so that no
pulse is lost (R217). -/
def slotContent (kind : Nat) (s : State) : Slot :=
  { kind := kind, savedAt := s.clock.legal, accTo := s.energy.lastShare, pfw := s.power.pfw,
    instantTo := s.energy.lastInstant, accs := s.energy.outs.map (·.acc), standing := s.energy.outs.map (fun x => wholeOf (2 ^ 32) x.standing),
    unmetered := s.energy.outs.map (fun x => wholeOf (1000 * 2 ^ 32) x.unmetered), invalid := s.energy.outs.map (·.invalidEver),
    pulses := s.energy.pulses.map (fun p => (p.acc, sat 16 (p.pending + b1 p.owed))), billing := saveBilling s }

/-- After a save slot only the newest BOUNDARY record stays live (R436). -/
def boundaryRetire (s : State) : State := metRetire (fun r => r.type == 0x01 && decide (r.key < s.billing.boundary)) s

/-- A slot is written in the ring, whole (R208). -/
def writeSlot (c : Slot) (s : State) : State :=
  let i := s.energy.slotSeq % 64
  let q := s.energy.slotSeq + 1
  boundaryRetire { s with energy := { s.energy with
      ring := vset s.energy.ring i (some { c with seq := q, pfw := s.power.pfw }), slotSeq := q, lastSlot := i, lastKind := c.kind,
      lastTime := c.savedAt, taken := none, overwritten := vget s.energy.ring i none } }

/-- The superframe save under way completes (R84, R208). -/
def finishSave (s : State) : State :=
  match s.energy.taken with
  | some c => writeSlot c s
  | none => s

/-- The final save, after a superframe save under way (R84, R209). -/
def finalSave (s : State) : State :=
  let s1 := finishSave s
  writeSlot (slotContent 1 s1) s1

/-- The energy of the 65 frames in the pipeline, from the last CONTROL outputs of inputs 0 and 1 (R210). -/
def pipelineEstimate (s : State) (n : Nat) : Nat :=
  65 * shareOf (power6 (calibrated s n 0 (modIn s n 0).control.code) (calibrated s n 1 (modIn s n 1).control.code))

/-- Periods still in the pipeline at a reset are not registered: their energy is estimated into UNMETERED, and the sessions carry
PIPELINE_CUT (R210). -/
def pipelineCut (s : State) : State :=
  s.outlets.foldl (fun s n =>
    let est := pipelineEstimate s n
    setSessionFlag n 21 (updEng n (fun y => { y with unmetered := y.unmetered + est, queue := [], hist := [] }) s)) s

/-! Verification. -/

/-- TONE_STATE of outlet n. -/
def tone (s : State) (n : Nat) : ToneState := vget s.fe.tone n {}
def updTone (n : Nat) (f : ToneState → ToneState) (s : State) : State :=
  { s with fe := { s.fe with tone := vmod s.fe.tone n f } }

/-- TONE_CONFIG and VERIFY_CONFIG of outlet n (Tables 5-10, 6-7). -/
def toneOn (s : State) (n : Nat) : Bool := bit (vget s.fe.toneConfig n 0) 0

/-- The tone was enabled in frame j: the last 64 frames are held (R190). -/
def toneAt (s : State) (n j : Nat) : Bool := decide (s.now ≤ j + 63) && bit (tone s n).onIn (s.now - j)

/-- The frame that begins has the tone enabled, or not (R190). -/
def toneFrame (s : State) : State :=
  { s with fe := { s.fe with tone := s.fe.tone.mapIdx (fun n t =>
      { t with onIn := setBit (t.onIn <<< (1 : Nat)) 0 (toneOn s n) }) } }
def toneAvg (s : State) (n : Nat) : Nat := fld (vget s.fe.toneConfig n 0) 8 16
def verCfg (s : State) (n : Nat) : BitVec 64 := vget s.energy.verify n 0

/-- Sum of a list of integers. -/
def sumInt (l : List Int) : Int := l.foldl (· + ·) 0

/-- The mean of a list, 0 when empty. -/
def meanInt (l : List Int) : Int := if l.isEmpty then 0 else Int.tdiv (sumInt l) l.length

/-- Conditions of the sticky flags of METER_WARN (R218, R219, R207). -/
def toneDrift (s : State) (n : Nat) : Bool :=
  let r := (tone s n).ratios
  decide (r.length = toneAvg s n) && decide (fld (verCfg s n) 0 16 * r.length < (sumInt r).natAbs)
def tonePhase (s : State) (n : Nat) : Bool := decide (100 ≤ (tone s n).phaseRun)
def toneMissing (s : State) (n : Nat) : Bool := toneOn s n && decide ((tone s n).lastValidAt + secF 10 ≤ s.now)
def witRuns (s : State) (n : Nat) : Bool :=
  bit (verCfg s n) 32 && modEnabled s n 2 && (s.sessionOpen n || s.modes.mode == .benchmark)
def witDiverges (s : State) (n : Nat) : Bool :=
  let d := (eng s n).divs
  decide (d.length = fld (verCfg s n) 56 8) && decide (100 * fld (verCfg s n) 40 16 * d.length < (sumInt d).natAbs)
def standing1s (s : State) (n : Nat) : Bool :=
  match (eng s n).standSince with
  | some t => decide (t + secF 1 ≤ s.now)
  | none => false

/-- The condition of sticky flag b holds now (R221). -/
def warnHolds (s : State) (n b : Nat) : Bool :=
  match b with
  | 0 => toneDrift s n
  | 1 => tonePhase s n
  | 2 => toneMissing s n
  | 3 => witDiverges s n
  | 4 => witRuns s n && !inputValid s n 2
  | 5 => standing1s s n
  | _ => false

/-- The witness comparison of the last superframe whose outputs are all delivered (R219). -/
def witnessSuper (n : Nat) (s : State) : State :=
  let x := eng s n
  if !witRuns s n then updEng n (fun y => { y with divs := [], witValid := false, qDone := none }) s
  else if !inputValid s n 2 then setWarn n 4 0 (updEng n (fun y => { y with divs := [], witValid := false, qDone := none }) s)
  else
    match x.qDone with
    | none => s
    | some (_, _, false) => updEng n (fun y => { y with divs := [], witValid := false, qDone := none }) s
    | some (qb, qw, true) =>
      let den : Int := max (qb.natAbs : Int) (4000 * fsOf s n * 2 ^ 40 : Int)
      let num := (qw - qb) * 1000000
      let d := if den = 0 then Config.divByZero num else Int.tdiv num den
      let s1 := updEng n (fun y =>
        { y with divs := (d :: y.divs).take (fld (verCfg s n) 56 8), lastDiv := d, witValid := true, qDone := none,
                 qBill := Int.tdiv qb (4000 * 2 ^ 40), qWit := Int.tdiv qw (4000 * 2 ^ 40) }) s
      if witDiverges s1 n then setWarn n 3 (meanInt (eng s1 n).divs) s1 else s1

/-! The benchmark tone. -/

/-- cos(2πk/60) in 2^-30, for k = 0 to 15. -/
def cosTable : List Int :=
  [1073741824, 1067859754, 1050277989, 1021189159, 980911966, 929887697, 868675383, 797945680] ++
  [718473518, 631129609, 536870912, 436730145, 331804471, 223243478, 112236583, 0]

/-- cos(2πk/60) in 2^-30. -/
def cos60 (k : Nat) : Int :=
  let q := k % 60
  if q ≤ 15 then cosTable.getD q 0 else if q ≤ 30 then -cosTable.getD (30 - q) 0
  else if q ≤ 45 then -cosTable.getD (q - 30) 0 else cosTable.getD (60 - q) 0

/-- sin(2πk/60) in 2^-30. -/
def sin60 (k : Nat) : Int := cos60 (k + 45)

/-- Tick frames of a tone window: 60 ms (R190). -/
def toneFrames : Nat := 1200

/-- One DIAGNOSTIC output of input 0 enters the sums of its window: place p of 4,800 since the last decimator reset, demodulated
against the generator's phase, which the model counts from that reset (R190; DESIGN CHOICE, log 34). -/
def toneTake (on : Bool) (p : Nat) (y : Sample) (t : ToneState) : ToneState :=
  let t := if p = 0 then { t with sumI := 0, sumQ := 0, count := 0, clean := true } else t
  let t := { t with sumI := t.sumI + y.code * cos60 p, sumQ := t.sumQ + y.code * sin60 p, count := t.count + 1,
                    clean := t.clean && on && Nat.land y.flags 3 == 3 }
  if p = 4799 then { t with ended := some (t.sumI, t.sumQ, t.clean && t.count == 4800) } else t

/-- atan(2^-k) in 10^-6 degree, k = 0 to 19. -/
def atanTable : List Int :=
  [45000000, 26565051, 14036243, 7125016, 3576334, 1789911, 895174, 447614, 223811, 111906] ++
  [55953, 27976, 13988, 6994, 3497, 1749, 874, 437, 219, 109]

/-- The angle of a vector in the right half plane in 10^-6 degree, by twenty rotations towards the axis. -/
def angleRight : List Int → Nat → Int → Int → Int → Int
  | [], _, _, _, a => a
  | w :: t, k, x, y, a =>
    if 0 ≤ y then angleRight t (k + 1) (x + y / 2 ^ k) (y - x / 2 ^ k) (a + w)
    else angleRight t (k + 1) (x - y / 2 ^ k) (y + x / 2 ^ k) (a - w)

/-- The angle of a vector in 0.001 degree, in −180,000 to 180,000. -/
def angleOf (x y : Int) : Int :=
  let a := if x = 0 ∧ y = 0 then 0
    else if 0 ≤ x then angleRight atanTable 0 (x * 2 ^ 32) (y * 2 ^ 32) 0
    else if 0 ≤ y then angleRight atanTable 0 (-x * 2 ^ 32) (-y * 2 ^ 32) 0 + 180000000
    else angleRight atanTable 0 (-x * 2 ^ 32) (-y * 2 ^ 32) 0 - 180000000
  (a + 500) / 1000

/-- An angle in 0.001 degree brought into −180,000 to 179,999. -/
def wrapAngle (a : Int) : Int := (a + 180000) % 360000 - 180000

/-- TONE_REF_AMP and TONE_REF_PHASE of outlet n (Table 7-14). -/
def toneRefAmp (s : State) (n : Nat) : Nat := fld (vget s.seals.cal n 0) 544 32
def toneRefPhase (s : State) (n : Nat) : Int := signedOf 16 (fld (vget s.seals.cal n 0) 576 16)

/-- Amplitude of a window in 2^-8 code: 2 / 4,800 of the length of (I, Q). -/
def toneAmp (i q : Int) : Nat := Nat.sqrt (i.natAbs * i.natAbs + q.natAbs * q.natAbs) * 2 ^ 8 / (2400 * 2 ^ 30)

/-- Amplitude ratio to the sealed reference, less 1, in ppm; with no reference the quotient has no value (R190). -/
def toneRatio (s : State) (n : Nat) (i q : Int) : Int :=
  let r : Int := toneRefAmp s n * 2 ^ 8
  let num := ((toneAmp i q : Int) - r) * 1000000
  if r = 0 then Config.divByZero num else Int.tdiv num r

/-- Phase against the sealed reference, in 0.001 degree; a lagging tone y = cos(wt − a) has phase −a. -/
def tonePhaseOf (s : State) (n : Nat) (i q : Int) : Int := wrapAngle (angleOf i (-q) - toneRefPhase s n)

/-- A window of the tone ends: a valid one renews TONE_STATE and the checks on it; an invalid one leaves the run of R218 as it is
(R190, R218; DESIGN CHOICE, log 34). -/
def toneWindow (n : Nat) (i q : Int) (ok : Bool) (s : State) : State :=
  if !ok then updTone n (fun t => { t with valid := false }) s
  else
    let band := fld (verCfg s n) 16 16
    let now := s.now
    let k := toneAvg s n
    let r := toneRatio s n i q
    let ph := tonePhaseOf s n i q
    let s1 := updTone n (fun t =>
      { t with lastRatio := satInt 32 r, lastPhase := satInt 16 ph, ratios := (r :: t.ratios).take k, valid := true,
               lastValidAt := now, phaseRun := if band < ph.natAbs then t.phaseRun + 1 else 0 }) s
    let s1 := if toneDrift s1 n then setWarn n 0 (meanInt (tone s1 n).ratios) s1 else s1
    if tonePhase s1 n then setWarn n 1 r s1 else s1

/-- A 60 ms tone window ends (R190). -/
def execToneWindowEnd (outlet : Nat) (s : State) : Host.Outcome State Fault Refusal :=
  match (tone s outlet).ended with
  | some (i, q, ok) =>
    if s.regionsRun && s.present outlet && modEnabled s outlet 0 then
      .next (toneWindow outlet i q ok (updTone outlet (fun t => { t with ended := none }) s))
    else .next s
  | none => .next s

/-- The tone is enabled and no window has been valid for 10 s (R218). -/
def execToneUnavailable (outlet : Nat) (s : State) : Host.Outcome State Fault Refusal :=
  if s.regionsRun && s.present outlet && toneMissing s outlet then
    .next (setWarn outlet 2 (tone s outlet).lastRatio s)
  else .next s

/-- A pulse's width expires and its output is released (R214). -/
def execPulseEnd (k : Nat) (s : State) : Host.Outcome State Fault Refusal :=
  if (pls s k).low ∧ (pls s k).endAt ≤ s.now then
    let now := s.now
    .next (updPls k (fun y => { y with low := false, relAt := now }) s)
  else .next s

/-- Current at or above the threshold for 1 s without a session, and once per hour while it lasts (R207). -/
def execStandingEnergy (outlet : Nat) (s : State) : Host.Outcome State Fault Refusal :=
  let due := match (eng s outlet).standEv with
    | some t => decide (t + secF 3600 ≤ s.now)
    | none => true
  if s.regionsRun && s.present outlet && standing1s s outlet && due then
    let now := s.now
    let s1 := updEng outlet (fun x => { x with standEv := some now }) s
    .next (setWarn outlet 5 0 (event 0x0322 (le 1 outlet ++ s.stamp ++ leInt 4 (eng s outlet).current) s1))
  else .next s

/-- METER_WARN_CLEAR (R221, R226). -/
def meterWarnClearCmd (p : List Byte) (s : State) : Cmd :=
  let n := byteAt p 0
  let mask := numAt p 1 2
  let bits := (List.range 6).filter (fun b => decide (bitsOf mask b 1 = 1))
  { form := p.length == 3, role := s.roles.role == 3,
    mode := s.modes.mode == .benchmark || s.modes.mode == .commissioning,
    params := s.present n && decide (mask < 64), free := !noRecordPlace s,
    run :=
      if bits.any (warnHolds s n) then { st := s, status := .notConfirmed }
      else
        let s1 := updEng n (fun x =>
          let w := x.warn &&& ~~~ BitVec.ofNat 32 mask
          { x with warn := w }) s
        let s1 := sign { type := 0x0B, outlet := n, time := s1.clock.legal, timeStatus := timeStatus s1 false false,
                         values := BitVec.ofNat 256 mask } s1
        { st := event 0x0321 (le 1 n ++ le 2 mask ++ s1.stamp) s1 } }

/-- METER_WARN_CLEAR clears sticky flags whose conditions no longer hold (R221). -/
def execMeterWarnClear (h : Hdr) (p : List Byte) (s : State) : Host.Outcome State Fault Refusal :=
  .next (hostCommand h 0x0310 p (meterWarnClearCmd p) s)

/-! The frame's work on energy. -/

/-- The energy jobs of the frame that ends: shares of every active outlet, then the pulses (R197, R213). -/
def energyJobs (s : State) : State :=
  let before := (List.range 4).map (pulseSource s)
  pulseJob before (s.outlets.foldl (fun s n => energyJob n s) s)

/-- The pulse pads at a tick: each output that is not faulty (R214, R215). -/
def pulsePads (s : State) : State :=
  ((List.range 4).filter (fun k => !bit s.faults.pulseFaulty k && !s.faults.globalSafe)).foldl (fun s k => pulseTick k s) s

/-- The content of a superframe save is taken at the tick of a frame whose index is a multiple of 400 (R208). -/
def takeSave (s : State) : State :=
  if s.clock.legal % 400 = 0 ∧ !s.power.pfw then
    let c := slotContent 0 s
    { s with energy := { s.energy with taken := some c } }
  else s

/-- The energy work at a frame tick: the energy job of the frame that ends, the pulse pads, the content of a superframe save (R208,
R214). The engine is stopped after the tail save (R209). -/
def energyFrame (s : State) : State := if s.energy.stopped then s else takeSave (pulsePads (energyJobs s))

end Sys2Proof.Machine
end

