-- ==== Sys2Proof/Machine/Billing.lean ====
section
/-!
DEFINITION. Legal time, tariffs, demand, boundaries, the legal log's thresholds and the seal (R229 to R268).
-/

namespace Sys2Proof.Machine

/-! Legal time. -/

/-- Reference cycles of a frame and of a millisecond (R21). -/
def frameCycles : Int := 1250
def msCycles : Int := 25000

/-- The corrections accepted as slews in the last 24 h, in reference cycles (R232). -/
def slewSum (s : State) : Nat :=
  ((s.clock.slews.filter (fun x => decide (s.now < x.1 + secF 86400))).map (·.2)).foldl (· + ·) 0

/-- 9 s in reference cycles (R232). -/
def nineSeconds : Nat := 225000000

/-- n rounded to the nearest multiple of 400 frames, halves away from zero, in frames (R234). -/
def roundSuper (frames : Int) : Int :=
  if 0 ≤ frames then (frames + 200) / 400 * 400 else -((-frames + 200) / 400 * 400)

/-- TIME_ADJUSTED (Table 7-19). -/
def timeAdjusted (kind : Nat) (ms : Int) (after seq : Nat) (ack : Bool) (s : State) : State :=
  emit 0x0422 (le 1 kind ++ leInt 4 ms ++ stampB after ++ le 8 seq) ack s

/-- TIME_SET (Tables 7-17, 7-18). -/
def timeSetCmd (h : Hdr) (p : List Byte) (s : State) : Cmd :=
  let given := frameOf (numAt p 0 6)
  let allow := byteAt p 6
  let g := given.getD 0
  let d : Int := ((g : Int) - (s.clock.legal : Int)) * frameCycles
  let slewed := decide (d.natAbs ≤ nineSeconds) && decide (d.natAbs + slewSum s ≤ nineSeconds)
  let step := roundSuper ((g : Int) - (s.clock.legal : Int))
  let slew (s : State) (count : Bool) : State :=
    timeAdjusted 0 (d / msCycles) s.clock.legal 0 (flagAck h.flags)
      { s with clock := { s.clock with slew := d, pendingStep := none,
                                       slews := if count then (s.now, d.natAbs) :: s.clock.slews else s.clock.slews } }
  { form := p.length == 7, role := decide (1 ≤ s.roles.role), params := given.isSome && decide (allow ≤ 1),
    free := !s.clock.valid || slewed || decide (step = 0) || allow == 0 || !noRecordPlace s,
    run :=
      if !s.clock.valid then
        { st := { s with clock := { s.clock with pendingSet := some (g, s.now), stepAck := flagAck h.flags } } }
      else if slewed then { st := slew s true }
      else if allow = 0 then { st := s, status := .notConfirmed }
      else if step = 0 then { st := slew s false }
      else
        { st := { s with clock := { s.clock with pendingStep := some d, stepAck := flagAck h.flags } }, status := .queued } }

/-- TIME_SET corrects legal time by a slew, a step, or a set from invalid time (R231 to R234). -/
def execTimeSet (h : Hdr) (p : List Byte) (s : State) : Host.Outcome State Fault Refusal :=
  .next (hostCommand h 0x0410 p (fun s => timeSetCmd h p s) s)

/-- A superframe tick: the frame index is a multiple of 400 (R21). -/
def atSuperframe (s : State) : Bool := s.regionsRun && s.clock.legal % 400 == 0

/-! Boundaries. -/

/-- Sub-interval length in legal frames (R244). -/
def subFrames (s : State) : Nat := max 1 (secF (fld s.billing.config 8 8 * 60 / subCount s))

/-- The price shown differs from the price in force (R239). -/
def priceWrong (s : State) : Bool := s.billing.displayed != versionOf s s.billing.active

/-- PRICE_MISMATCH begins or ends (R239). -/
def priceCheck (s : State) : State :=
  let w := priceWrong s && decide (s.billing.active < 8)
  if w = s.billing.mismatch then s
  else
    event 0x0429 (le 4 (versionOf s s.billing.active) ++ le 4 s.billing.displayed ++ le 1 (b1 w))
      { s with billing := { s.billing with mismatch := w } }

/-- Shares with an instant before a tick are still to come: BILLING outputs of that time are under way for 65 frames, and a late job
adds up to four, so a boundary waits for it with its instant unchanged (R222, R245, R250, R467). -/
def behind (s : State) (tick : Nat) : Bool :=
  s.outlets.any (fun n =>
    (eng s n).queue.any (fun q => decide (q.tick < tick)) ||
      (s.regionsRun && decide (s.now < tick + 65) && modEnabled s n 0 && modEnabled s n 1) ||
      (decide (s.now < tick + 70) && (eng s n).hist.any (fun b => !b.used && decide (b.tick < tick))))

/-- A boundary enters the list in the order of its tick. -/
def insertCommit (c : Commit) : List Commit → List Commit
  | [] => [c]
  | x :: t => if c.tick < x.tick then c :: x :: t else x :: insertCommit c t

/-- Two happenings of one instant are one boundary (R249). -/
def Commit.join (x c : Commit) : Commit :=
  { x with after := c.after, window := x.window || c.window, switches := x.switches ++ c.switches,
           step := if c.step.isSome then c.step else x.step, stepAt := if c.step.isSome then c.stepAt else x.stepAt,
           stepMs := if c.step.isSome then c.stepMs else x.stepMs, stepAck := x.stepAck || c.stepAck,
           reset := if c.reset.isSome then c.reset else x.reset }

/-- A boundary is taken (R249). -/
def takeBoundary (c : Commit) (s : State) : State :=
  let l := s.billing.commits
  let m := if l.any (fun x => x.tick == c.tick) then updFirst (fun x => x.tick == c.tick) (fun x => x.join c) l else insertCommit c l
  { s with billing := { s.billing with commits := m } }

/-- BENCHMARK runs: a start that has signed its exit records is no longer in it, whatever the mode still reads (R246, R473). -/
def inBench (s : State) : Bool := s.modes.mode == .benchmark && !s.modes.benchClosed

/-- The open sub-interval of every unit closes; the window it ends waits to be evaluated (R244, R245, R247). After a cut, windows hold
only what began since (R247). -/
def closeWindow (instant tick : Nat) (cut : Bool) (s : State) : State :=
  let k := subCount s
  let b := s.billing
  let sums := b.demand.map (fun d =>
    let l := d.closed.take (k - 1)
    ((d.subImp + (l.map (·.1)).foldl (· + ·) 0), (d.subExp + (l.map (·.2)).foldl (· + ·) 0)))
  let e : Eval := { instant := instant, tick := tick, cut := cut, adjusted := b.adjusted || decide (0 < b.adjLeft),
                    frozen := decide (0 < b.bench) || inBench s, energy := sums,
                    own := b.demand.map (fun d => (d.subImp, d.subExp)), minutes := fld b.config 8 8 }
  let dm := b.demand.map (fun d =>
    { d with closed := if cut then [] else ((d.subImp, d.subExp) :: d.closed).take (k - 1), subImp := 0, subExp := 0 })
  let bench := if inBench s then k else if cut then 0 else b.bench - 1
  { s with billing := { b with evals := b.evals ++ [e], demand := dm, subStart := instant, adjusted := false,
                               adjLeft := if cut then 0 else b.adjLeft - 1, bench := bench } }

/-- Power in W of an energy over L minutes, rounded down (R245). -/
def demandW (minutes e : Nat) : Nat := e * 60 / (max 1 minutes * (1000000 * 2 ^ 32))

/-- A window of unit u and one direction is compared with the stored maximum (R245). -/
def judgeMax (u d w no : Nat) (e : Eval) (s : State) : State :=
  let x := vget s.billing.demand u {}
  if w ≤ (if d = 0 then x.maxImp else x.maxExp) then s
  else
    let f (y : DemandU) : DemandU :=
      if d = 0 then { y with maxImp := w, maxImpAt := e.instant, maxImpAdj := e.adjusted, maxImpBnd := no }
      else { y with maxExp := w, maxExpAt := e.instant, maxExpAdj := e.adjusted, maxExpBnd := no }
    event 0x0421 (le 1 u ++ le 1 d ++ le 4 w ++ stampB e.instant)
      { s with billing := { s.billing with demand := vmod s.billing.demand u f } }

/-- One closed window is evaluated for every unit, under the number of its boundary (R245, R246). -/
def evaluateWindow (no : Nat) (e : Eval) (s : State) : State :=
  if e.frozen then s
  else
    (units s).foldl (fun s u =>
      let p := vget e.energy u (0, 0)
      let wi := sat 32 (demandW e.minutes p.1)
      let we := sat 32 (demandW e.minutes p.2)
      let s1 := { s with billing := { s.billing with demand := vmod s.billing.demand u (fun y =>
        { y with lastImp := wi, lastExp := we, lastEnd := e.instant, lastPartial := e.cut, lastAdjusted := e.adjusted }) } }
      judgeMax u 1 we no e (judgeMax u 0 wi no e s1)) s

/-- The windows that a boundary closes are evaluated, and wait no longer (R245, R249). -/
def evaluateAt (c : Commit) (s : State) : State :=
  let l := s.billing.evals
  (l.filter (fun e => e.tick == c.tick)).foldl (fun s e => evaluateWindow (s.billing.boundary + 1) e s)
    { s with billing := { s.billing with evals := l.filter (fun e => e.tick != c.tick) } }

/-- A session's open tariff window closes at a switch (R242). -/
def sessionSwitch (s : State) (before : Nat) (x : Session) : Session :=
  let i := basisImp s x.acc
  let e := basisExp s x.acc
  let pt := if before < 8 then
      vmod (vmod x.perTariff (2 * before) (· + (i - x.winImp))) (2 * before + 1) (· + (e - x.winExp)) else x.perTariff
  { x with perTariff := pt, winImp := i, winExp := e }

/-- The maxima of a unit after a reset (R248). -/
def DemandU.reset (instant : Nat) (d : DemandU) : DemandU :=
  { d with maxImp := 0, maxExp := 0, maxImpAt := 0, maxExpAt := 0, maxImpAdj := false, maxExpAdj := false, maxImpBnd := 0,
           maxExpBnd := 0, resetAt := instant }

/-- The demand state of a boundary's record: as its reset leaves it (R248, R249). -/
def Commit.demand (c : Commit) (l : Vector DemandU 9) : Vector DemandU 9 :=
  match c.reset with
  | some r => l.map (DemandU.reset r.2)
  | none => l

/-- Body bytes of a BOUNDARY record: number, instant, the tariffs before and after, every TARIFF_REG value, for each unit its closed
windows and maxima with their instants, for each outlet the session's per-tariff values, WIN_IMP and WIN_EXP (R249; the widths are those of
the objects, DESIGN CHOICE, log 29). -/
def boundaryLength : Nat := 8 + 6 + 2 + 144 * 8 + 9 * (2 * 12 + 2 * 10) + 8 * (16 * 8 + 2 * 8)

/-- The boundary's journal record (R249). -/
def commitRecord (c : Commit) (s : State) : State :=
  let b := s.billing
  let no := b.boundary + 1
  let ss := c.switches.foldl (fun l w => l.map (Option.map (sessionSwitch s w.before))) b.sessions
  let next := (b.commits.tail.head?).getD (boundaryAt c.instant c.tick s)
  let last : Boundary :=
    { no := no, instant := c.instant, regs := b.regs, before := c.before, after := c.after, since := next.since0,
      subStart := next.subStart0, adjusted := next.adjusted0, demand := c.demand b.demand, sessions := ss }
  journalMet 0x01 no boundaryLength
    { s with billing := { b with commits := b.commits.tail, boundary := no, sessions := ss, last := last } }

/-- The record of a clock step, with its event (R233, R249). -/
def commitStep (c : Commit) (s : State) : State :=
  match c.step with
  | some (old, n) =>
    let q := s.log.seq
    let t := c.stepAt
    let s1 := sign { type := 0x06, time := t, timeStatus := timeStatus s true false,
                     values := BitVec.ofNat 256 (packBits [(stampOf old, 48), (0, 16), (unsignedOf 64 n, 64)]) } s
    timeAdjusted 1 c.stepMs t q c.stepAck { s1 with clock := { s1.clock with lastStepSeq := BitVec.ofNat 64 q } }
  | none => s

/-- The records of one tariff switch, with its event (R240, R242). -/
def commitSwitch (adjusted rebuilt : Bool) (w : TariffChange) (s : State) : State :=
  let q := s.log.seq
  event 0x0420 (le 1 w.before ++ le 1 w.after ++ stampB w.instant ++ le 8 q ++ le 1 (b1 rebuilt))
    (signSwitch w.before w.after w.instant adjusted rebuilt s)

/-- The records of the calendar's switches, or of those that a step makes. Each closes its tariff window: CLOCK_ADJUSTED where a step
fell in that, or where the boundary closes an ADJUSTED demand window (R253). -/
def commitSwitches (byStep : Bool) (c : Commit) (s : State) : State :=
  (c.switches.filter (fun w => w.byStep == byStep)).foldl
    (fun s w => commitSwitch (byStep || c.tariffAdj0 || c.adjusted0 && c.window) c.rebuilt w s) s

/-- The records of a demand reset, with its event; CLOCK_ADJUSTED where a step fell since the reset before (R248, R253). -/
def commitReset (c : Commit) (s : State) : State :=
  match c.reset with
  | some (ack, instant) =>
    let q := s.log.seq
    let k := (units s).length
    let s1 := signDemandReset instant s.billing.resetAdj s
    emit 0x042A (le 8 q ++ le 1 k) ack { s1 with billing := { s1.billing with
      demand := c.demand s1.billing.demand, resetDue := none, resetAdj := s1.billing.commits.any (fun x => x.step.isSome) } }
  | none => s

/-- The oldest boundary is committed: its windows are evaluated, its journal record is written, and its sealed records are signed in the
order of R249. -/
def commitOne (c : Commit) (s : State) : State :=
  commitReset c (commitSwitches true c (commitStep c (commitSwitches false c (commitRecord c (evaluateAt c s)))))

/-- Boundaries whose last earlier share has been added are committed, oldest first (R250). -/
def runCommits : Nat → State → State
  | 0, s => s
  | k + 1, s =>
    match s.billing.commits with
    | c :: _ => if behind s c.tick then s else runCommits k (commitOne c s)
    | [] => s

/-- Every boundary that may be committed. -/
def commits (s : State) : State := runCommits s.billing.commits.length s

/-! Calendar. -/

/-- Entry i of the calendar. -/
def calEntry (s : State) (i : Nat) : CalEntry := vget s.billing.calendar i {}

/-- The calendar entries that a condition picks. -/
def calFind (s : State) (f : CalEntry → Bool) : List CalEntry := s.billing.calendar.toList.filter f

/-- The latest of some entries. -/
def latestEntry : List CalEntry → Option CalEntry
  | [] => none
  | e :: t =>
    match latestEntry t with
    | some f => if e.start < f.start then some f else some e
    | none => some e

/-- The earliest of some entries. -/
def earliestEntry : List CalEntry → Option CalEntry
  | [] => none
  | e :: t =>
    match earliestEntry t with
    | some f => if f.start < e.start then some f else some e
    | none => some e

/-- A pending entry is due: its second has begun; one announced while no tariff was active waits for the next superframe tick (R236,
R238). -/
def entryDue (s : State) (e : CalEntry) : Bool :=
  e.state == 1 && (if e.soon then s.clock.legal % 400 == 0 else decide (e.start * 20000 ≤ s.clock.legal))

/-- The last sub-interval boundary at or before legal time (R244). -/
def gridInstant (s : State) : Nat := s.clock.legal / subFrames s * subFrames s

/-- A sub-interval boundary has been reached (R244). Not while legal time is invalid (R231). -/
def windowDue (s : State) : Bool := s.clock.valid && decide (s.billing.subStart < gridInstant s)

/-- The sub-interval that has ended is closed (R249, item 1). -/
def windowNow (s : State) : State :=
  let i := gridInstant s
  let tick := s.now - (s.clock.legal - i)
  if windowDue s then takeBoundary { boundaryAt i tick s with window := true } (closeWindow i tick false s) else s

/-- The entry whose tariff takes over now. Not while legal time is invalid (R231). -/
def dueEntry (s : State) : Option CalEntry := if s.clock.valid then latestEntry (calFind s (entryDue s)) else none

/-- The tariff changes by the calendar (R238; R249, item 2). -/
def tariffNow (s : State) : State :=
  match dueEntry s with
  | none => s
  | some e =>
    let instant := if e.soon then s.clock.legal else e.start * 20000
    let tick := s.now - (s.clock.legal - instant)
    let c := boundaryAt instant tick s
    let cal := s.billing.calendar.map (fun x => if entryDue s x then { x with state := 2, soon := false } else x)
    let s1 := { s with billing := { s.billing with calendar := cal, active := e.tariff, since := instant, announced := false,
                                                   tariffAdj := false } }
    priceCheck (takeBoundary { c with after := e.tariff,
                                      switches := [{ before := c.before, after := e.tariff, instant := instant }] } s1)

/-- The tariff named by the latest entry, processed or not, at or before a time; unchanged when none qualifies (R251). -/
def tariffAtTime (s : State) (legal : Nat) : Nat :=
  match latestEntry (calFind s (fun e => e.state != 0 && decide (e.start * 20000 ≤ legal))) with
  | some e => e.tariff
  | none => s.billing.active

/-- The open sub-interval closes at a step, unless it has just begun (R251). -/
def splitAtStep (s : State) : State :=
  let k := subCount s
  if s.billing.subStart = s.clock.legal then
    { s with billing := { s.billing with demand := s.billing.demand.map (fun d => { d with closed := [] }),
                                         bench := if s.modes.mode = .benchmark then k else 0 } }
  else closeWindow s.clock.legal s.now true s

/-- Legal time steps by n frames, with the remainder slewed: the open sub-interval closes, entries and tariff are judged anew (R234,
R251; R249, item 3). -/
def stepNow (d : Int) (s : State) : State :=
  let n := roundSuper (d / frameCycles)
  let old := s.clock.legal
  let new := ((old : Int) + n).toNat
  let c0 := boundaryAt new s.now s
  let s1 := splitAtStep s
  let after := tariffAtTime s1 new
  let cal := s1.billing.calendar.map (fun e =>
    if e.state = 0 then e else { e with state := if new < e.start * 20000 then 1 else 2, soon := false })
  let ss := s1.billing.sessions.map (Option.map (fun x => { x with adjusted := true }))
  let same := decide (after = c0.before)
  let b := { s1.billing with calendar := cal, active := after, sessions := ss, adjusted := true, adjLeft := subCount s1,
                             subStart := new, tariffAdj := true, resetAdj := true,
                             since := if same then s1.billing.since else new, announced := same && s1.billing.announced }
  let c := { s1.clock with legal := new, slew := d - n * frameCycles, pendingStep := none, stepAck := false }
  priceCheck (takeBoundary
    { c0 with after := after, window := decide (s.billing.subStart ≠ old),
              switches := if same then [] else [{ before := c0.before, after := after, instant := new, byStep := true }],
              step := some (old, n), stepAt := new, stepMs := d / msCycles, stepAck := s.clock.stepAck }
    { s1 with clock := c, billing := b })

/-- A clock step waits and its superframe tick has come (R234). -/
def stepDue (s : State) : Option Int := if atSuperframe s then s.clock.pendingStep else none

/-- A demand reset waits, its superframe tick has come, and no boundary holds it yet (R248). -/
def resetReady (s : State) : Option Bool :=
  if atSuperframe s && !s.billing.commits.any (fun c => c.reset.isSome) then s.billing.resetDue else none

/-- The demand reset is taken (R248; R249, item 4). -/
def resetTaken (s : State) : State :=
  match resetReady s with
  | some ack => takeBoundary { boundaryAt s.clock.legal s.now s with reset := some (ack, s.clock.legal) } s
  | none => s

/-- All that falls at this instant is processed in the order of R249, and the boundaries whose shares are in are committed (R249,
R250). -/
def boundaryNow (s : State) : State :=
  let s1 := tariffNow (windowNow s)
  commits (resetTaken (match stepDue s1 with
    | some d => stepNow d s1
    | none => s1))

/-- Frame 0 of an entry's second: the active tariff changes, and the boundary is committed once its shares are in (R238, R249). -/
def execTariffBoundary (s : State) : Host.Outcome State Fault Refusal :=
  .next (if s.regionsRun && (dueEntry s).isSome then boundaryNow s else s)

/-- A processed entry leaves the calendar 24 h after its time (R236). -/
def execCalendarEntryExpiry (entry : Nat) (s : State) : Host.Outcome State Fault Refusal :=
  let e := calEntry s entry
  if s.regionsRun ∧ e.state = 2 ∧ (e.start + 86400) * 20000 ≤ s.clock.legal then
    .next { s with billing := { s.billing with calendar := vset s.billing.calendar entry {} } }
  else .next s

/-- An action of TARIFF_ANNOUNCE (Table 7-18). -/
structure CalAction where
  start : Nat
  tariff : Nat
  action : Nat

/-- The actions of a payload. -/
def calActions (p : List Byte) : List CalAction :=
  (List.range (byteAt p 0)).map (fun i =>
    { start := numAt p (1 + 6 * i) 4, tariff := byteAt p (5 + 6 * i), action := byteAt p (6 + 6 * i) })

/-- The first empty place takes an entry. -/
def putEntry (e : CalEntry) (cal : Vector CalEntry 64) : Vector CalEntry 64 :=
  match (List.range 64).find? (fun i => (vget cal i {}).state == 0) with
  | some i => vset cal i e
  | none => cal

/-- TARIFF_ANNOUNCE (R236). -/
def tariffAnnounceCmd (p : List Byte) (s : State) : Cmd :=
  let acts := calActions p
  let adds := acts.filter (fun a => a.action == 0)
  let cans := acts.filter (fun a => a.action == 1)
  let t0 := s.clock.legal
  let noTariff := decide (8 ≤ s.billing.active)
  let pendingAt (a : CalAction) : Bool :=
    s.billing.calendar.any (fun e => e.state == 1 && e.start == a.start && e.tariff == a.tariff)
  let kept := (calFind s (fun e => e.state != 0)).filter (fun e =>
    !(e.state == 1 && cans.any (fun a => a.start == e.start && a.tariff == e.tariff)))
  let okAdd (a : CalAction) : Bool :=
    decide (versionOf s a.tariff ≠ 0) && decide (a.start * 20000 ≤ t0 + secF (400 * 86400)) &&
      (noTariff || decide (t0 + secF 60 ≤ a.start * 20000)) && !kept.any (fun e => e.start == a.start) &&
      decide ((adds.filter (fun b => b.start == a.start)).length ≤ 1)
  let n := byteAt p 0
  let cal0 := s.billing.calendar.map (fun (e : CalEntry) =>
    if e.state = 1 ∧ cans.any (fun a => a.start == e.start && a.tariff == e.tariff) then {} else e)
  let cal := adds.foldl (fun c a =>
    putEntry { start := a.start, tariff := a.tariff, state := 1,
               soon := noTariff && decide (a.start * 20000 < t0 + secF 60) } c) cal0
  { form := decide (p.length = 1 + 6 * n), role := decide (1 ≤ s.roles.role),
    params := decide (1 ≤ n) && decide (n ≤ 16) && acts.all (fun a => decide (a.action ≤ 1) && decide (a.tariff ≤ 7)) &&
      adds.all okAdd && cans.all pendingAt,
    free := cans.all (fun a => decide (t0 + secF 60 ≤ a.start * 20000)) && decide (kept.length + adds.length ≤ 64),
    run := { st := { s with billing := { s.billing with calendar := cal } } } }

/-- TARIFF_ANNOUNCE adds and cancels calendar entries, all of them or none (R236). -/
def execTariffAnnounce (h : Hdr) (p : List Byte) (s : State) : Host.Outcome State Fault Refusal :=
  .next (hostCommand h 0x0411 p (tariffAnnounceCmd p) s)

/-! Demand. -/

/-- A sub-interval boundary closes a window (R244, R249). -/
def execDemandWindowEnd (s : State) : Host.Outcome State Fault Refusal :=
  .next (if s.regionsRun && windowDue s then boundaryNow s else s)

/-- Once every share before its end is in, a window is evaluated, in the commit of its boundary (R245, R249, R250). -/
def execDemandEvaluation (s : State) : Host.Outcome State Fault Refusal :=
  .next (if s.regionsRun then commits s else s)

/-- DEMAND_RESET (Table 7-17). -/
def demandResetCmd (h : Hdr) (p : List Byte) (s : State) : Cmd :=
  { form := p.length == 0, role := decide (1 ≤ s.roles.role),
    mode := s.modes.mode == .standby || s.modes.mode == .service,
    free := s.billing.resetDue.isNone && !noRecordPlace s,
    run := { st := { s with billing := { s.billing with resetDue := some (flagAck h.flags) } }, status := .queued } }

/-- DEMAND_RESET asks for a reset of the demand maxima (R248). -/
def execDemandReset (h : Hdr) (p : List Byte) (s : State) : Host.Outcome State Fault Refusal :=
  .next (hostCommand h 0x0412 p (fun s => demandResetCmd h p s) s)

/-- At the next superframe tick the reset takes effect, as a boundary (R248, R249). -/
def execDemandResetApply (s : State) : Host.Outcome State Fault Refusal :=
  .next (if (resetReady s).isSome then boundaryNow s else s)

/-! Steps. -/

/-- At the first superframe tick after the reply legal time jumps, as a boundary (R234, R249, R251). -/
def execClockStep (s : State) : Host.Outcome State Fault Refusal :=
  .next (if (stepDue s).isSome then boundaryNow s else s)

/-- At the next superframe tick legal time is set from invalid time; a TIME_SET record is signed (R231). -/
def execTimeSetApply (s : State) : Host.Outcome State Fault Refusal :=
  match s.clock.pendingSet with
  | none => .next s
  | some (g, t) =>
    if !atSuperframe s then .next s
    else
      let want : Int := ((g + (s.now - t) : Nat) : Int)
      let new := (roundSuper want).toNat
      let old := s.clock.legal
      let c := { s.clock with legal := new, valid := true, slew := (want - new) * frameCycles, pendingSet := none,
                              pendingStep := none, stepAck := false }
      let dm := s.billing.demand.map (fun d => { d with subImp := 0, subExp := 0, closed := [] })
      let bench := if s.modes.mode = .benchmark then subCount s else 0
      let s1 := { s with clock := c, billing := { s.billing with demand := dm, subStart := new, adjusted := false, adjLeft := 0,
                                                                 bench := bench } }
      let q := s1.log.seq
      let s2 := sign { type := 0x07, time := new, timeStatus := timeStatus s1 false false,
                       values := BitVec.ofNat 256 (stampOf old) } s1
      .next (timeAdjusted 2 ((want - old) * 50 / 1000) new q s.clock.stepAck s2)

/-! The legal log. -/

/-- The thresholds of R260: NEARLY_FULL below 122,880 places, FULL below 16,384, relieved at 32,768. -/
def logThresholds (s : State) : State :=
  let f := logFree s
  let s1 := if f < 122880 then
      (if s.log.nearlyFull then s else event 0x0426 (le 4 f) { s with log := { s.log with nearlyFull := true } })
    else { s with log := { s.log with nearlyFull := false } }
  if f < 16384 then
    (if s1.log.full then s1 else event 0x0427 (le 1 1 ++ le 4 f) { s1 with log := { s1.log with full := true } })
  else if s1.log.full ∧ 32768 ≤ f then event 0x0427 (le 1 0 ++ le 4 f) { s1 with log := { s1.log with full := false } }
  else s1

/-- A record of a kept type takes one of the last 32 overflow places (R260). -/
def keptType (t : Nat) : Bool := t == 0x02 || t == 0x03 || t == 0x08

/-- INTERRUPTED_LEFT counts down as its records are stored (R111). -/
def countInterrupted (r : Record) (s : State) : State :=
  if r.type = 3 then { s with modes := { s.modes with interruptedLeft := s.modes.interruptedLeft - 1 } } else s

/-- A record placed in a list that ascends by sequence. -/
def insertRecord (q : Record) (l : List Record) : List Record :=
  l.filter (fun x => decide (x.seq < q.seq)) ++ q :: l.filter (fun x => decide (q.seq < x.seq))

/-- A record of the overflow area moves to the log (R260). -/
def storeOverflow (r : Record) (s : State) : State :=
  logThresholds (witnessRecord r.bytes (journalMet 0x02 r.seq 256
    { s with log := { s.log with overflow := s.log.overflow.filter (fun x => x.seq != r.seq), journal := insertRecord r s.log.journal,
                                 storedHi := r.seq } }))

/-- A signed record is stored in the log (R258). -/
def storeSigned (q : Record) (s : State) : State :=
  logThresholds (witnessRecord q.bytes (countInterrupted q { s with log := { s.log with storedHi := q.seq } }))

/-- A signed record goes to the overflow area (R260). -/
def overflowSigned (q : Record) (s : State) : State :=
  logThresholds (signedRetire [q] (countInterrupted q { s with log := { s.log with
    overflow := insertRecord q s.log.overflow, journal := s.log.journal.filter (fun x => x.seq != q.seq) } }))

/-- The signed record that the overflow area takes next: the oldest while fewer than 992 are held; then, up to 1,024, the oldest of the
types that never wait for room (R260). -/
def overflowNext (s : State) : Option Record :=
  if s.log.overflow.length < 992 then (unstoredRecords s).head?
  else if s.log.overflow.length < 1024 then (unstoredRecords s).find? (fun q => keptType q.type)
  else none

/-- The next record goes to the log in sequence order, from the overflow area or the journal, or without room to the overflow area (R258,
R260). -/
def storeRecord (s : State) : State :=
  if s.log.storedHi - s.log.acked < logCapacity then
    match s.log.overflow.head?, (unstoredRecords s).head? with
    | some r, some q => if r.seq < q.seq then storeOverflow r s else storeSigned q s
    | some r, none => storeOverflow r s
    | none, some q => storeSigned q s
    | none, none => s
  else
    match overflowNext s with
    | some q => overflowSigned q s
    | none => s

/-- The next signed record is stored, after READY: the firmware stores records, and those of boot step 3 wait for it (R111); once room has
returned the gap is recorded (R260). -/
def execLogRecordStore (s : State) : Host.Outcome State Fault Refusal :=
  if !s.running then .next s
  else
    let s1 := storeRecord s
    .next (if s1.log.gap ∧ !noRecordPlace s1 then signGap s1 else s1)

/-- The 256 bytes that LOG_READ returns for a sequence number; a record of an uncorrectable unit keeps its SEQUENCE alone
(R431). -/
def findRecord (s : State) (q : Nat) : Option (List Byte) :=
  if s.log.lostUnits.any (fun r => decide (r.1 ≤ q) && decide (q ≤ r.2)) then some (le 4 0 ++ le 8 q ++ List.replicate 244 0)
  else ((s.log.journal ++ s.log.overflow ++ s.log.stored).find? (fun r => r.seq == q)).map Record.bytes

/-- Records from a sequence on, at most k (Table 7-18). -/
def readRecords (s : State) : Nat → Nat → List (List Byte)
  | 0, _ => []
  | k + 1, q =>
    if newestSeq s < q then []
    else
      match findRecord s q with
      | some r => r :: readRecords s k (q + 1)
      | none => readRecords s k (q + 1)

/-- LOG_READ (Table 7-17). -/
def logReadCmd (p : List Byte) (s : State) : Cmd :=
  let q := numAt p 0 8
  let k := byteAt p 8
  let rs := readRecords s k q
  { form := p.length == 9, role := decide (1 ≤ s.roles.role),
    params := decide (s.log.oldest ≤ q) && decide (1 ≤ k) && decide (k ≤ 15), readOnly := true,
    run := { st := s, data := le 1 rs.length ++ rs.flatten } }

/-- LOG_READ returns up to 15 sealed records from a sequence (R259). -/
def execLogRead (h : Hdr) (p : List Byte) (s : State) : Host.Outcome State Fault Refusal :=
  .next (hostCommand h 0x0413 p (logReadCmd p) s)

/-- LOG_ACK (Table 7-17). -/
def logAckCmd (p : List Byte) (s : State) : Cmd :=
  let q := numAt p 0 8
  { form := p.length == 8, role := decide (1 ≤ s.roles.role), params := decide (q ≤ newestSeq s),
    run := { st := if q ≤ s.log.acked then s else logThresholds { s with log := { s.log with acked := q } } } }

/-- LOG_ACK acknowledges every record up to a sequence (R259). -/
def execLogAck (h : Hdr) (p : List Byte) (s : State) : Host.Outcome State Fault Refusal :=
  .next (hostCommand h 0x0414 p (logAckCmd p) s)

/-! The seal. -/

/-- Row 10 of Table 3-13: the seal opens. -/
def sealModeChange (s : State) : State :=
  match s.modes.mode with
  | .standby => enterMode .commissioning 10 0 s
  | .benchmark => enterMode .commissioning 10 0 s
  | .service => { s with modes := { s.modes with commInput := 10 } }
  | .recovery => { s with modes := { s.modes with commInput := 10 } }
  | _ => s

/-- A SEAL_BROKEN record with its cause, and its event (Tables 7-6, 7-19). BROKEN_SEQ names the first opening's, never that of a tamper
attempt (Table 7-15). -/
def signSealBroken (time cause : Nat) (s : State) : State :=
  let q := s.log.seq
  let s1 := sign { type := 0x08, time := time, timeStatus := timeStatus s false false,
                   values := BitVec.ofNat 256 (packBits [(s.seals.openCount, 8), (cause, 8)]),
                   tariffs := BitVec.ofNat 1024 s.seals.metHash.toNat } s
  event 0x0424 (stampB time ++ le 1 cause ++ le 8 q)
    (if cause = 2 then s1 else { s1 with seals := { s1.seals with brokenSeq := q } })

/-- A SEAL_BROKEN record is due: at once while METROLOGY runs, else in the next boot step 3 (R63, R262). -/
def sealBreaks (cause : Nat) (s : State) : State :=
  let t := s.clock.legal
  if s.regionsRun then sealModeChange (signSealBroken t cause s)
  else { s with seals := { s.seals with unrecorded := s.seals.unrecorded ++ [(cause, t)] } }

/-- The seal loop opens: latched in every mode, recorded with VAUX present, counted when already latched (R261, R262). -/
def openSeal (s : State) : State :=
  let t := s.clock.legal
  let was := s.seals.broken
  let s1 := { s with seals := { s.seals with loopIntact := false, openCount := sat 4 (s.seals.openCount + 1), broken := true,
                                             unverified := true, brokenAt := if was then s.seals.brokenAt else t } }
  if was then s1 else sealBreaks 0 s1

/-- SEAL_OPENING (R261, R262). Each command is an opening of its own: where the loop read open before it, the loop has closed in between,
which without VAUX nothing reads. -/
def execSealOpening (s : State) : Host.Outcome State Fault Refusal := .next (openSeal s)

/-- An access attempt on the debug port of a locked device (R63): once until the re-seal. -/
def debugAttempt (s : State) : State :=
  if !s.rst.debugLocked || s.seals.attemptDone then s
  else sealBreaks 2 { s with seals := { s.seals with tamper := true, unverified := true, attemptDone := true } }

/-- DEBUG_ACCESS_ATTEMPT: detected whenever V3D is up, in reset too (R63). -/
def execDebugAccessAttempt (s : State) : Host.Outcome State Fault Refusal :=
  if s.v3dUp then .next (debugAttempt s) else .next s

/-- The latches of the seal cleared (R264). -/
def clearSeal (seq : Nat) (s : State) : State :=
  { s with seals := { s.seals with broken := false, unverified := false, tamper := false, openCount := 0, attemptDone := false,
                                   resealedAt := s.clock.legal, resealSeq := seq } }

/-- The record of a RESEAL signed (R264). -/
def signReseal (s : State) : State :=
  sign { type := 0x09, time := s.clock.legal, timeStatus := timeStatus s false false,
         values := BitVec.ofNat 256 s.seals.brokenSeq, tariffs := BitVec.ofNat 1024 s.seals.metHash.toNat } s

/-- RESEAL (R264). -/
def resealCmd (h : Hdr) (p : List Byte) (s : State) : Cmd :=
  { form := p.length == 0, role := s.roles.role == 3, mode := s.modes.mode == .commissioning, free := !noRecordPlace s,
    run :=
      if !(s.seals.loopIntact && decide (s.seals.intactAt + secF 1 ≤ s.now)) then { st := s, status := .notConfirmed }
      else
        { st := emit 0x0425 (le 8 s.log.seq ++ (objBytes s.seals.metHash).take 8) (flagAck h.flags)
            (clearSeal s.log.seq (signReseal s)), status := .queued } }

/-- RESEAL signs a RESEAL record and clears the seal latches (R264). -/
def execReseal (h : Hdr) (p : List Byte) (s : State) : Host.Outcome State Fault Refusal :=
  .next (hostCommand h 0x0415 p (fun s => resealCmd h p s) s)

/-! The frame's work on billing. -/

/-- A session whose close instant lies 65 frames back and whose shares are all in is closed (R206). -/
def closeDue (s : State) (n : Nat) : Bool :=
  match s.session n with
  | some x =>
    !s.shutting && s.present n && (match x.closeT with
      | some (t, _) => decide (t + 65 ≤ s.now) && !behind s t && s.billing.commits.all (fun c => decide (t < c.tick))
      | none => false)
  | none => false

/-- Boundaries and closing records of a frame; the time of a slew passes (R206, R250). -/
def billingFrame (s : State) : State :=
  let s1 := commits s
  (List.range 8).foldl (fun s n => if closeDue s n then closeSession n s else s) s1

end Sys2Proof.Machine
end

