-- ==== Sys2Proof/Machine/Storage.lean ====
section
/-!
DEFINITION. NAND, the legal log's pages and segments, reclaim, image slots, settings copies and the choice of the image at boot
(R428 to R450). Readings: log 29.
-/

namespace Sys2Proof.Config

open Sys2Proof.Machine in
/-- The settings of one format converted to another: no rule gives the conversion (R448). -/
opaque convertSettings : Nat → Nat → Settings → Settings

end Sys2Proof.Config

namespace Sys2Proof.Machine

/-- The storage unit rewritten. -/
def updStore (f : Storage → Storage) (s : State) : State := { s with store := f s.store }

/-- STORAGE_FAULT (Table 14-14). -/
def storageFault (kind part block : Nat) (s : State) : State := event 0x0B26 (le 1 kind ++ le 1 part ++ le 2 block) s

/-! Retirement (R430). -/

/-- LOG_WHOLE: log segments that are whole (Table 14-9). -/
def logWhole (s : State) : Nat := 80 - s.store.lost

/-- A spare block is gone; kind 1 when fewer than 16 are left. -/
def takeSpare (s : State) : State :=
  let n := s.store.spareLeft
  let s1 := updStore (fun t => { t with spareLeft := n - 1 }) s
  if n = 16 then storageFault 1 5 0 s1 else s1

/-- A log segment is no longer whole; below 77 whole segments the log is degraded. -/
def segmentLost (seg : Nat) (s : State) : State :=
  let erased (r : Reclaim) : Bool := r.source == seg && decide (5 ≤ r.step) && !r.gone
  let hit := s.store.segments.any (fun g => g.id == seg && g.whole) || s.store.free.any (fun f => f.1 == seg) ||
    s.store.reclaim.any erased
  if !hit then s
  else
    let s1 := updStore (fun t =>
      { t with lost := t.lost + 1, free := t.free.filter (fun f => f.1 != seg),
               segments := t.segments.map (fun g => if g.id = seg then { g with whole := false } else g),
               reclaim := t.reclaim.map (fun r => if r.source = seg then { r with gone := true } else r) }) s
    if logWhole s1 < 77 ∧ !s.store.degraded then storageFault 2 3 seg (updStore (fun t => { t with degraded := true }) s1) else s1

/-- A block is retired and replaced, first from its partition's own spare, then from the spare partition (R430). -/
def retireBlock (part block : Nat) (s : State) : State :=
  let s1 := storageFault 0 part block (updStore (fun t => { t with grownBad := satInc 16 t.grownBad }) s)
  let s1 := if part = 3 then
      updStore (fun t => { t with segments := t.segments.map (fun g => if g.id = block / 16 then { g with repair := true } else g) }) s1
    else s1
  if part < 3 ∧ vget s.store.slotSpare part 0 ≠ 0 then updStore (fun t => { t with slotSpare := vmod t.slotSpare part (· - 1) }) s1
  else if s.store.spareLeft ≠ 0 then takeSpare s1
  else if part = 3 then segmentLost (block / 16) s1
  else s1

/-! Erases (R433). -/

/-- Frames of an erase of n blocks: 10 ms each, as the 3,200 frames of 16 blocks (R442). -/
def eraseFrames (n : Nat) : Nat := msF (10 * n)

/-- An erase asks leave in class 8, with a latest start 500 ms ahead (R33, R442). -/
def askErase (e : Erase) (s : State) : State :=
  let id := nextReq s
  let q : Request :=
    { cls := 8, requester := e.part, intPeak := Config.eraseInternal, vauxPeak := Config.eraseVaux,
      duration := eraseFrames e.count, latest := s.now + msF 500 }
  updStore (fun t => { t with erasing := t.erasing ++ [{ e with req := some id, startAt := none, retryAt := none }] }) (submit q s)

/-- Erase counts of blocks outside the log (R432). -/
def bumpErase (key n : Nat) (l : List (Nat × Nat)) : List (Nat × Nat) :=
  (List.range n).foldl (fun l i =>
    if l.any (fun x => x.1 == key + i) then l.map (fun x => if x.1 = key + i then (x.1, x.2 + 1) else x)
    else l ++ [(key + i, 1)]) l

/-- A log segment's erase count rises. -/
def bumpSegment (seg : Nat) (t : Storage) : Storage :=
  { t with segments := t.segments.map (fun g => if g.id = seg then { g with erases := g.erases + 1 } else g),
           free := t.free.map (fun f => if f.1 = seg then (f.1, f.2 + 1) else f) }

/-- The next group of 8 blocks of the 96 of an image slot is erased (R451). -/
def askGroup (what part k : Nat) (s : State) : State :=
  if k < 12 then askErase { what := what, part := part, block := 8 * k, count := 8 } s else s

/-- The image slot that is not running, as a partition number. -/
def otherSlot (s : State) : Nat := 1 - s.store.running

/-- An erase has ended: its blocks count as erased, and what waited for it goes on. -/
def eraseDone (e : Erase) (s : State) : State :=
  let s1 := releaseOpt e.req (updStore (fun t => { t with erasing := t.erasing.erase e }) s)
  let s1 := updStore (fun t =>
    if e.part = 3 then bumpSegment (e.block / 16) t
    else { t with eraseOther := bumpErase (4096 * e.part + e.block) e.count t.eraseOther }) s1
  match e.what with
  | 0 => askGroup 0 2 (s.chain.erased + 1) { s1 with chain := { s1.chain with erased := s1.chain.erased + 1 } }
  | 1 => askGroup 1 e.part (s.store.activateErased + 1) (updStore (fun t => { t with activateErased := t.activateErased + 1 }) s1)
  | 2 => updStore (fun t => { t with reclaim := t.reclaim.map (fun r => { r with erased := true }) }) s1
  | 3 => updStore (fun t => { t with reclaim := t.reclaim.map (fun r => { r with destErased := true }) }) s1
  | _ => s1

/-- Leave is held for an erase: it begins (R433). -/
def eraseGranted (id : Nat) (s : State) : State :=
  if s.store.erasing.any (fun e => e.req == some id) then
    let now := s.now
    updStore (fun t => { t with erasing := t.erasing.map (fun e => if e.req = some id then { e with startAt := some now } else e) })
      (beginOp id s)
  else release id s

/-- Leave is refused: asked again 1 s later. -/
def eraseRefused (id : Nat) (s : State) : State :=
  let now := s.now
  updStore (fun t =>
    { t with erasing := t.erasing.map (fun e => if e.req = some id then { e with req := none, retryAt := some now } else e) }) s

/-- Every erase of a kind is forgotten and its leave released. -/
def dropErases (what : Nat) (s : State) : State :=
  let gone := s.store.erasing.filter (fun e => e.what == what)
  updStore (fun t => { t with erasing := t.erasing.filter (fun e => e.what != what) })
    (gone.foldl (fun s e => releaseOpt e.req s) s)

/-- The NAND's work of a frame: erases end after their time, refused ones ask again. No operation starts after the power-fail
warning (R433). -/
def storageFrame (s : State) : State :=
  if !s.regionsRun || s.shutting then s
  else
    s.store.erasing.foldl (fun s e =>
      match e.startAt, e.retryAt with
      | some t, _ => if t + eraseFrames e.count ≤ s.now then eraseDone e s else s
      | none, some t =>
        if t + secF 1 ≤ s.now then askErase e (updStore (fun x => { x with erasing := x.erasing.erase e }) s) else s
      | none, none => s) s

/-! Pages of the legal log (R439, R440). -/

/-- A segment can take a page: 1,024 pages, not the reclaim's source, whole. -/
def takesPage (t : Storage) (g : Segment) : Bool :=
  decide (g.pages < 1024) && g.whole && (match t.reclaim with | some r => r.source != g.id | none => true)

/-- The free segment with the lowest erase count, apart from the reclaim's destination (R432). -/
def leastErased : List (Nat × Nat) → Option (Nat × Nat)
  | [] => none
  | f :: t =>
    match leastErased t with
    | some g => if g.2 < f.2 then some g else some f
    | none => some f

/-- Free segments that nothing has claimed. -/
def unclaimed (t : Storage) : List (Nat × Nat) :=
  t.free.filter (fun f => match t.reclaim with | some r => r.dest != f.1 | none => true)

/-- The head segment that takes the next page, opened from the free segments when the last one takes none. -/
def headSegment (first : Nat) (t : Storage) : Option Storage :=
  match t.segments.getLast? with
  | some g =>
    if takesPage t g then some t
    else (leastErased (unclaimed t)).map (fun f =>
      { t with segments := t.segments ++ [{ id := f.1, first := first, erases := f.2 }], free := t.free.filter (fun x => x.1 != f.1) })
  | none => (leastErased (unclaimed t)).map (fun f =>
      { t with segments := t.segments ++ [{ id := f.1, first := first, erases := f.2 }], free := t.free.filter (fun x => x.1 != f.1) })

/-- The last segment rewritten. -/
def updHead (f : Segment → Segment) (l : List Segment) : List Segment := l.modify (l.length - 1) f

/-- The 16 oldest stored records of the journal, when 16 follow one another (R440). -/
def nextPage (s : State) : Option (List Record) :=
  let l := (s.log.journal.filter (fun r => decide (r.seq ≤ s.log.storedHi))).take 16
  match l with
  | [] => none
  | r :: _ => if l.length = 16 ∧ (l.map (·.seq)) = (List.range 16).map (· + r.seq) then some l else none

/-- 16 records are programmed as one page and read back (R440): verified, their SIGNED records are retired; a failed page is
written again to the next page, and its block is retired. -/
def execLogPageProgram (ok : Bool) (s : State) : Host.Outcome State Fault Refusal :=
  if !s.regionsRun || s.shutting then .next s
  else
    match nextPage s with
    | none => .next s
    | some l =>
      match headSegment ((l.map (·.seq)).headD 0) s.store with
      | none => .next s
      | some t =>
        let g := t.segments.getLast?.getD {}
        if ok then
          let t1 := { t with segments := updHead (fun g => { g with pages := g.pages + 1, count := g.count + 16 }) t.segments }
          let j := s.log.journal.filter (fun r => !l.any (fun q => q.seq == r.seq))
          .next (signedRetire l { s with store := t1, log := { s.log with journal := j, stored := l.reverse ++ s.log.stored } })
        else
          let t1 := { t with segments := updHead (fun g => { g with pages := g.pages + 1 }) t.segments }
          .next (retireBlock 3 (16 * g.id + g.pages / 64) { s with store := t1 })

/-! Reclaim (R441 to R443). -/

/-- Every record of a segment is acknowledged. -/
def segmentAcked (s : State) (g : Segment) : Bool := decide (g.first + g.count ≤ s.log.acked + 1)

/-- The segment that a reclaim takes, and whether for a refresh or repair: the one named as due, else the oldest acknowledged one when
fewer than 3 are free, else one due for refresh or with a retired block (R441). -/
def reclaimSource (refresh : Option Nat) (s : State) : Option (Segment × Bool) :=
  match refresh with
  | some id => (s.store.segments.find? (fun g => g.id == id)).map (·, true)
  | none =>
    match (if s.store.free.length < 3 then s.store.segments.find? (segmentAcked s) else none) with
    | some g => some (g, false)
    | none => (s.store.segments.find? (·.repair)).map (·, true)

/-- A reclaim starts with its RECLAIM record (R441, R442): the oldest acknowledged segment when fewer than 3 are free, of which nothing is
moved, or a segment due for refresh or holding a retired block, whose live range is every record, acknowledged or not. -/
def execReclaimStart (refreshSegment : Option Nat) (s : State) : Host.Outcome State Fault Refusal :=
  if !s.regionsRun || s.shutting || s.store.reclaim.isSome then .next s
  else
    match reclaimSource refreshSegment s with
    | none => .next s
    | some (g, due) =>
      match due, leastErased s.store.free with
      | true, none => .next s
      | _, f =>
        let r : Reclaim := { source := g.id, dest := if due then (f.getD (0, 0)).1 else g.id, lo := g.first,
                             hi := if due then g.first + g.count else g.first, step := 1, refresh := due, gone := !g.whole }
        .next (journalApp 0x15 g.id 24 (updStore (fun t => { t with reclaim := some r }) s))

/-- The reclaim rewritten. -/
def updReclaim (f : Reclaim → Reclaim) (s : State) : State := updStore (fun t => { t with reclaim := t.reclaim.map f }) s

/-- Step 4 (Table 14-6): the live range lies in the destination; of a segment without one the records are gone. -/
def reclaimMap (r : Reclaim) (s : State) : State :=
  match s.store.segments.find? (fun g => g.id == r.source) with
  | none => s
  | some g =>
    if r.lo < r.hi then
      let e := ((s.store.free.find? (fun f => f.1 == r.dest)).getD (r.dest, 0)).2
      let d : Segment := { id := r.dest, first := g.first, count := g.count, pages := (g.count + 15) / 16, erases := e }
      journalNew 0x16 r.source 24 (updStore (fun t =>
        { t with segments := t.segments.map (fun x => if x.id = r.source then d else x),
                 free := t.free.filter (fun f => f.1 != r.dest) }) s)
    else
      let top := g.first + g.count
      journalNew 0x16 r.source 24
        { s with store := { s.store with segments := s.store.segments.filter (fun x => x.id != r.source) },
                 log := { s.log with stored := s.log.stored.filter (fun q => decide (q.seq < g.first) || decide (top ≤ q.seq)),
                                     oldest := if s.log.oldest ≤ g.first then top else s.log.oldest } }

/-- The record of step 6 retires the RECLAIM record (R436, R442). -/
def reclaimOver (r : Reclaim) (s : State) : State :=
  appRetire (fun j => j.type == 0x15) (journalApp 0x15 r.source 24 s)

/-- The read-back of step 3 fails: the block is retired, and the destination is erased and filled again. One that is whole no longer gives
way to the next free segment; without one the reclaim ends with nothing moved (R430, R442; log 29). -/
def reclaimRefill (r : Reclaim) (s : State) : State :=
  let s1 := retireBlock 3 (16 * r.dest) s
  match (if s1.store.free.any (fun f => f.1 == r.dest) then some r.dest else (leastErased s1.store.free).map (·.1)) with
  | some d =>
    askErase { what := 3, part := 3, block := 16 * d, count := 16 } (updReclaim (fun r => { r with step := 2, dest := d, destErased := false }) s1)
  | none => appRetire (fun j => j.type == 0x15) (updStore (fun t => { t with reclaim := none }) s1)

/-- A step of Table 14-6 completes. -/
def reclaimStep (r : Reclaim) (ok : Bool) (s : State) : State :=
  match r.step with
  | 1 => updReclaim (fun r => { r with step := 2 }) s
  | 2 => if r.destErased then updReclaim (fun r => { r with step := 3 }) s else s
  | 3 =>
    if ok || decide (r.hi ≤ r.lo) then updReclaim (fun r => { r with step := 4 }) s else reclaimRefill r s
  | 4 =>
    let e := ((s.store.segments.find? (fun g => g.id == r.source)).getD {}).erases
    let s1 := updReclaim (fun r => { r with step := 5, erased := false, hold := e }) (reclaimMap r s)
    askErase { what := 2, part := 3, block := 16 * r.source, count := 16 } s1
  | 5 =>
    if r.erased then updReclaim (fun r => { r with step := 6 }) (if ok then s else retireBlock 3 (16 * r.source) s) else s
  | _ =>
    reclaimOver r (updStore (fun t =>
      { t with reclaim := none, free := if r.gone then t.free else t.free ++ [(r.source, r.hold + 1)],
               refreshes := if r.refresh then satInc 16 t.refreshes else t.refreshes }) s)

/-- A log page waits to be programmed: the NAND controller serves it before any step of a reclaim (R433). -/
def pageWaits (s : State) : Bool :=
  match nextPage s with
  | some l => (headSegment ((l.map (·.seq)).headD 0) s.store).isSome
  | none => false

/-- A timed step of the reclaim ends (R442), behind a page program that waits (R433). -/
def execReclaimStepDone (ok : Bool) (s : State) : Host.Outcome State Fault Refusal :=
  if !s.regionsRun || s.shutting || pageWaits s then .next s
  else
    match s.store.reclaim with
    | some r => .next (reclaimStep r ok s)
    | none => .next s

/-- The reclaim resumes after a reset as the last column of Table 14-6 states. -/
def reclaimResume (s : State) : State :=
  match s.store.reclaim with
  | none => s
  | some r =>
    if r.step ≤ 1 then s
    else if r.step ≤ 4 then
      if r.lo < r.hi then
        askErase { what := 3, part := 3, block := 16 * r.dest, count := 16 } (updReclaim (fun r => { r with step := 2, destErased := false }) s)
      else updReclaim (fun r => { r with step := 2 }) s
    else if r.step = 5 then
      askErase { what := 2, part := 3, block := 16 * r.source, count := 16 } (updReclaim (fun r => { r with erased := false }) s)
    else reclaimStep r true s

/-- A staging slot loses what a NAND block held; its image is then incomplete (R431, R447). -/
def loseBlocks (block : Nat) (x : ImgSlot) : ImgSlot :=
  let kept := x.blocks.filter (fun b => b.index / 64 != block)
  { x with blocks := kept, complete := x.complete && kept.length == x.blocks.length }

/-- A block is due for refresh (R431). Outside the log it is copied to a fresh block, and the old one is erased; in the log its
segment falls due for a reclaim. An uncorrectable unit loses its data, and its block is retired: which unit of the block is lost is
a free value, and an image slot that holds it is invalid. -/
def execNandBlockRefresh (partition block : Nat) (uncorrectable : Bool) (s : State) : Host.Outcome State Fault Refusal :=
  if !s.regionsRun || s.shutting || decide (5 ≤ partition) then .next s
  else
    let lose (s : State) : State :=
      retireBlock partition block
        (storageFault 3 partition block (updStore (fun t => { t with uncorrectable := satInc 16 t.uncorrectable }) s))
    if partition = 3 then
      let s1 := updStore (fun t =>
        { t with segments := t.segments.map (fun g => if g.id = block / 16 then { g with repair := true } else g) }) s
      if uncorrectable then
        let g := (s.store.segments.find? (fun g => g.id == block / 16)).getD {}
        let u := g.first + 1024 * (block % 16) + 4 * (Config.freeNat s.factory.freeCtr % 256)
        let s2 := (lose s1).drawFree
        .next { s2 with log := { s2.log with lostUnits := (u, u + 3) :: s2.log.lostUnits } }
      else .next s1
    else if uncorrectable then
      .next (updStore (fun t =>
        { t with bootOk := if partition < 2 then vset t.bootOk partition false else t.bootOk,
                 stagingSlot := if partition = 2 then loseBlocks block t.stagingSlot else t.stagingSlot }) (lose s))
    else
      .next (askErase { what := 4, part := partition, block := block, count := 1 }
        (updStore (fun t => { t with refreshes := satInc 16 t.refreshes }) s))

/-! Images (R444 to R450). -/

/-- Fields of an image header (Table 14-7). -/
def hdrFormat (b : List Byte) : Nat := numAt b 6 2
def hdrVersion (b : List Byte) : Nat := numAt b 8 4
def hdrMinRom (b : List Byte) : Nat := numAt b 12 4
def hdrBlocks (b : List Byte) : Nat := numAt b 16 4
def hdrId (b : List Byte) : Nat := numAt b 20 16

/-- Four bytes of a block's index, 0xFFFFFFFF for the header (R444, Table 14-7). -/
def hdrBlock : Nat := 0xFFFFFFFF

/-- Nonce of block k of an image: bytes 0 to 7 of IMAGE_ID, then k (R444). -/
def imageNonce (id k : Nat) : List Byte := le 8 id ++ le 4 k

/-- The image key as bytes (R444). -/
def imageKeyBytes (s : State) : List Byte := objBytes s.factory.imageKey

/-- HEADER_TAG is right (Table 14-7). -/
def headerTagOk (s : State) (b : List Byte) : Bool :=
  gcmTag (imageKeyBytes s) (imageNonce (hdrId b) hdrBlock) (b.take 496) [] == b.drop 496

/-- A header is accepted (R445). -/
def headerOk (s : State) (b : List Byte) : Bool :=
  b.length == 512 && b.take 4 == [0x48, 0x58, 0x49, 0x4D] && numAt b 4 2 == 1 &&
    headerTagOk s b && decide (1 ≤ hdrBlocks b) && decide (hdrBlocks b ≤ 5120) && decide (s.store.minVersion ≤ hdrVersion b) &&
    decide (hdrMinRom b ≤ s.factory.romVersion.toNat)

/-- A block with both halves and its tag. -/
def ImgBlock.whole (b : ImgBlock) : Bool := b.half0.length == 2048 && b.half1.length == 2048 && b.tag.length == 16

/-- The tag of a block is right (R444). -/
def blockOk (s : State) (id : Nat) (b : ImgBlock) : Bool :=
  b.whole && gcmTag (imageKeyBytes s) (imageNonce id b.index) (le 16 id ++ le 4 b.index) (b.half0 ++ b.half1) == b.tag

/-- A block decrypted (R444). -/
def blockPlain (s : State) (id : Nat) (b : ImgBlock) : List Byte :=
  gcmStream (imageKeyBytes s) (imageNonce id b.index) (b.half0 ++ b.half1)

/-- A block is held whole in a slot. -/
def holdsBlock (x : ImgSlot) (k : Nat) : Bool := x.blocks.any (fun b => b.index == k && b.whole)

/-- Blocks held from the first on without a gap (Table 14-10). -/
def contiguous (x : ImgSlot) : Nat :=
  let n := hdrBlocks x.header
  ((List.range n).find? (fun k => !holdsBlock x k)).getD n

/-- The plaintext of an image, block after block (R444, R446). -/
def imagePlain (s : State) (x : ImgSlot) : List Byte :=
  ((List.range (hdrBlocks x.header)).map (fun k =>
    ((x.blocks.find? (fun b => b.index == k)).map (blockPlain s (hdrId x.header))).getD [])).flatten

/-- SIGNATURE of a header holds against the Derivios key of the boot ROM (R446). -/
def headerSigned (s : State) (b : List Byte) : Bool :=
  let key := objBytes s.factory.imageSigner
  ecdsa384Ok (beNat (key.take 48), beNat (key.drop 48)) (b.take 400) (beNat ((b.drop 400).take 48)) (beNat ((b.drop 448).take 48))

/-- The boot check of a slot's contents, taken when the slot is filled: every block there, tags, digest, signature (R446). -/
def contentsOk (s : State) (x : ImgSlot) : Bool :=
  x.header.length == 512 && headerTagOk s x.header && (List.range (hdrBlocks x.header)).all (holdsBlock x) &&
    x.blocks.all (blockOk s (hdrId x.header)) && sha384 (imagePlain s x) == (x.header.drop 36).take 48 && headerSigned s x.header

/-- A slot passes the boot check (R446). -/
def slotBoots (s : State) (k : Nat) : Bool :=
  vget s.store.bootOk k false && decide (s.store.minVersion ≤ vget s.store.versions k 0) &&
    decide (hdrMinRom (vget s.store.slots k {}).header ≤ s.factory.romVersion.toNat)

/-- The settings of the current copy, as the live objects hold them (R448). -/
def takeSettings (s : State) : Settings :=
  { roleIdle := s.port.roleIdle, vauxBudget := s.ease.vauxBudget, bankOnVaux := s.ease.bankOnVaux, modConfig := s.fe.modConfig,
    toneConfig := s.fe.toneConfig, paths := s.fe.paths, coefs := s.fe.coefs, tariffs := s.billing.tariffs,
    linkConfig := s.link.config, linkGlobal := s.link.global, switchConfig := s.sw.config, kdrv := s.sw.kdrv, pmMap := s.sw.pmMap,
    plumb := s.sw.plumb, inputConfig := s.sw.inputConfig, busConfig := s.sw.busConfig, loadConfig := s.loads.config,
    banksCfg := s.loads.banksCfg, trvConfig := s.trv.config, reader := s.rdr.config, tag := s.tag.config,
    display := s.disp.config, waves := s.disp.waves }

/-- A settings copy comes into force. -/
def applySettings (x : Settings) (s : State) : State :=
  { s with
    port := { s.port with roleIdle := x.roleIdle },
    ease := { s.ease with vauxBudget := x.vauxBudget, bankOnVaux := x.bankOnVaux },
    fe := { s.fe with modConfig := x.modConfig, toneConfig := x.toneConfig, paths := x.paths, coefs := x.coefs },
    billing := { s.billing with tariffs := x.tariffs },
    link := { s.link with config := x.linkConfig, global := x.linkGlobal },
    sw := { s.sw with config := x.switchConfig, kdrv := x.kdrv, pmMap := x.pmMap, plumb := x.plumb,
                      inputConfig := x.inputConfig, busConfig := x.busConfig },
    loads := { s.loads with config := x.loadConfig, banksCfg := x.banksCfg },
    trv := { s.trv with config := x.trvConfig },
    rdr := { s.rdr with config := x.reader },
    tag := { s.tag with config := x.tag },
    disp := { s.disp with config := x.display, waves := x.waves } }

/-- At the first start of a trial image the settings are migrated into the other copy (R448). -/
def migrateSettings (s : State) : State :=
  let cur := s.store.settingsCopy
  let new := 1 - cur
  let old := takeSettings s
  let f0 := vget s.store.settingsFormat cur 1
  let f1 := hdrFormat (vget s.store.slots (otherSlot s) {}).header
  let conv := if f0 = f1 then old else Config.convertSettings f0 f1 old
  applySettings conv (journalUpdate (otherSlot s) 2 8 (updStore (fun t =>
    { t with settingsCopy := new, settingsOk := vset t.settingsOk new true, settingsFormat := vset t.settingsFormat new f1,
             oldCopy := true, oldSettings := some old, migrated := true }) s))

/-- The fall-back of R446: the trial slot is cleared, the copy written by migration is invalid, the old one is in force again. -/
def fallBack (cause : Nat) (s : State) : State :=
  let v := vget s.store.versions (otherSlot s) 0
  let s1 := match s.store.oldSettings with
    | some x =>
      if s.store.migrated then
        applySettings x (updStore (fun t =>
          { t with settingsOk := vset t.settingsOk t.settingsCopy false, settingsCopy := 1 - t.settingsCopy }) s)
      else s
    | none => s
  journalUpdate (otherSlot s) 1 8 (updStore (fun t =>
    { t with trial := false, trialBoots := 0, migrated := false, oldCopy := false, oldSettings := none, lastFallback := cause,
             fallbackEv := some (cause, v) }) s1)

/-- Boot step 6 chooses the image (R446, R450): the state, and whether a fall-back resets with reach SYSTEM. `rom`: BOOT1 and BOOT0
read 10 or 01. -/
def bootImage (rom : Bool) (s : State) : State × Bool :=
  let s0 := updStore (fun t => { t with recoveryRom := false }) s
  if rom then (updStore (fun t => { t with recoveryRom := true }) s0, false)
  else if s.store.trial then
    let n := s.store.trialBoots + 1
    let s1 := journalUpdate (otherSlot s0) 1 8 (updStore (fun t => { t with trialBoots := n }) s0)
    if 3 < n then (fallBack 1 s1, true)
    else if !slotBoots s1 (otherSlot s1) then (fallBack 2 s1, true)
    else (updStore (fun t => { t with trialEv := true }) (if s.store.migrated then s1 else migrateSettings s1), false)
  else if slotBoots s0 s0.store.running then (s0, false)
  else (updStore (fun t => { t with recoveryRom := true }) s0, false)

/-- RUNNING_SLOT: the slot whose image runs (Table 14-10). -/
def runningSlot (s : State) : Nat :=
  if s.store.trial ∧ s.store.trialBoots ≠ 0 then otherSlot s else s.store.running

/-- IMAGE_STATE.TRIAL: a trial image runs unconfirmed. -/
def trialRuns (s : State) : Bool := s.store.trial && s.store.trialBoots != 0

/-- IMAGE_ACTIVATE (R447, R450). -/
def imageActivateCmd (h : Hdr) (p : List Byte) (s : State) : Cmd :=
  let ok := s.chain.staging == 2 && s.store.stagingSlot.complete && !trialRuns s
  { form := p.length == 0, role := decide (2 ≤ s.roles.role), mode := s.inRom || standbyOrComm s, free := !s.modes.activating,
    run :=
      if !ok then { st := s, status := .notConfirmed }
      else
        let s1 := updStore (fun t => { t with activateAck := flagAck h.flags, activateErased := 0 })
          { s with modes := { s.modes with activating := true } }
        { st := askGroup 1 (otherSlot s) 0 s1, status := .queued } }

/-- IMAGE_ACTIVATE (Table 14-13). -/
def execImageActivate (h : Hdr) (p : List Byte) (s : State) : Host.Outcome State Fault Refusal :=
  .next (hostCommand h 0x0B13 p (imageActivateCmd h p) s)

/-- An activation ends before its boot record: the target slot is empty, the staging slot is kept (R447). -/
def abandonActivation (s : State) : State :=
  let k := otherSlot s
  let s1 := dropErases 1 s
  { s1 with modes := { s1.modes with activating := false },
            store := { s1.store with slots := vset s1.store.slots k {}, versions := vset s1.store.versions k 0,
                                     bootOk := vset s1.store.bootOk k false, activateErased := 0 } }

/-- UPDATE_DONE (Table 14-14). -/
def updateDone (result : Nat) (s : State) : State :=
  event 0x0B21 (le 1 result ++ le 4 (hdrVersion s.store.stagingSlot.header)) s

/-- The boot record with the copied slot as trial (R447): everything that precedes the reset. -/
def commitTrial (s : State) : State :=
  let k := otherSlot s
  let x := s.store.stagingSlot
  journalUpdate k 1 8 (updStore (fun t =>
    { t with slots := vset t.slots k x, versions := vset t.versions k (hdrVersion x.header), bootOk := vset t.bootOk k (contentsOk s x),
             trial := true, trialBoots := 0, migrated := false, activateErased := 0 })
    { s with modes := { s.modes with activating := false } })

/-- CONFIRM_IMAGE (R449). -/
def confirmImageCmd (p : List Byte) (s : State) : Cmd :=
  let k := otherSlot s
  let v := vget s.store.versions k 0
  let m := max s.store.minVersion v
  let s1 := journalUpdate k 1 8 (updStore (fun t =>
    { t with running := k, trial := false, trialBoots := 0, migrated := false, minVersion := m, oldCopy := false,
             oldSettings := none, settingsOk := vset t.settingsOk (1 - t.settingsCopy) false }) s)
  { form := p.length == 0, role := decide (2 ≤ s.roles.role),
    run := if !trialRuns s then { st := s, status := .notConfirmed } else { st := event 0x0B25 (le 4 v ++ le 4 m) s1 } }

/-- CONFIRM_IMAGE (Table 14-13). -/
def execConfirmImage (h : Hdr) (p : List Byte) (s : State) : Host.Outcome State Fault Refusal :=
  .next (hostCommand h 0x0B14 p (confirmImageCmd p) s)

/-- After READY: IMAGE_FALLBACK, IMAGE_TRIAL, and the abandoned activation (R446, R447, Table 14-14). -/
def storageReady (s : State) : State :=
  let s1 := match s.store.fallbackEv with
    | some (c, v) =>
      event 0x0B23 (le 1 c ++ le 4 v ++ le 4 (vget s.store.versions s.store.running 0))
        (updStore (fun t => { t with fallbackEv := none }) s)
    | none => s
  let s2 := if s1.store.trialEv then
      event 0x0B24 (le 4 (vget s1.store.versions (otherSlot s1) 0) ++ le 1 s1.store.trialBoots ++ le 1 (b1 s1.store.migrated))
        (updStore (fun t => { t with trialEv := false }) s1)
    else s1
  if s2.store.abandonEv then updateDone 5 (updStore (fun t => { t with abandonEv := false }) s2) else s2

/-- A reset of reach SYSTEM or wider: erases under way did not count; an activation before its boot record is abandoned (R433,
R447). -/
def storageReset (s : State) : State :=
  let s1 := if s.modes.activating then updStore (fun t => { t with abandonEv := true }) (abandonActivation s) else s
  updStore (fun t => { t with erasing := [], compactions := 0, writeRefused := 0 }) s1

end Sys2Proof.Machine
end

