-- ==== Sys2Proof/Machine/Traverse.lean ====
section
/-!
DEFINITION. The Traverse link: beacons and site time, frames and retransmission, packets, routing, keys (R363 to R391).
-/

namespace Sys2Proof.Machine

/-! Configuration. -/

/-- Fields of TRV_CONFIG (Table 11-7). -/
def trvNode (s : State) : Nat := fld s.trv.config 0 8
def trvSite (s : State) : Nat := fld s.trv.config 8 16
def arqRetries (s : State) : Nat := fld s.trv.config 68 4

/-- The node acts as master: ROLE = 1 and not yielded (R379). -/
def isMaster (s : State) : Bool := bit s.trv.config 24 && !s.trv.yielded

/-- The node that TRV_STATE and SITE_ALIGNMENT name as master: the own one when it acts as master (R379, Tables 11-8, 11-14). -/
def masterShown (s : State) : Nat := if isMaster s then trvNode s else s.trv.master

/-- The link receives (R387, R388). -/
def trvReceives (s : State) : Bool := s.trv.running && s.power.supply == .on && !s.faults.traverse

/-- The key of a slot, 0 empty. -/
def trvKey (s : State) (k : Nat) : BitVec 128 := (vget s.trv.keys k {}).key

/-- The node transmits: not from step 2 of the shutdown sequence on (R379, R387, R388). -/
def trvTransmits (s : State) : Bool :=
  trvReceives s && decide (s.power.shutStep < 2) && s.trv.transmit && !s.trv.stopped && decide (trvNode s < 64) && trvSite s != 0 && trvKey s s.trv.active != 0

/-- Neighbour n. -/
def ngh (s : State) (n : Nat) : Neigh := vget s.trv.neigh n {}

/-- Neighbour n rewritten. -/
def updNgh (n : Nat) (f : Neigh → Neigh) (s : State) : State :=
  { s with trv := { s.trv with neigh := vmod s.trv.neigh n f } }

/-- Route to destination d. -/
def route (s : State) (d : Nat) : Route := vget s.trv.routes d {}

/-- A beacon period in frames: the last valid one, or 20 ms or 16.667 ms (R373). -/
def periodFrames (s : State) : Nat :=
  if s.trv.periodUs ≠ 0 then max 1 (s.trv.periodUs / 50) else if bit s.rst.straps 3 then 400 else 333

/-! Schemes and link cost. -/

/-- A row of Table 11-2: bits that a carrier's symbol codes, code rate, copies of each coded bit, guard in 0.1 us, PHY rate in Mbit/s and
minimum SNR in 0.25 dB (R366). -/
structure Scheme where
  carrierBits : Nat
  rateNum : Nat
  rateDen : Nat
  copies : Nat
  guard : Nat
  rate : Nat
  snr : Int
deriving DecidableEq, Repr

/-- Table 11-2, MCS0 to MCS8: BPSK, BPSK, QPSK, 16-QAM, 16-QAM, 64-QAM, 64-QAM, 256-QAM, 256-QAM. -/
def schemes : List Scheme :=
  [⟨1, 1, 2, 6, 288, 2, -8⟩, ⟨1, 1, 2, 3, 288, 4, 0⟩, ⟨2, 1, 2, 1, 128, 30, 16⟩, ⟨4, 1, 2, 1, 128, 60, 36⟩, ⟨4, 3, 4, 1, 128, 90, 48⟩,
   ⟨6, 2, 3, 1, 128, 120, 64⟩, ⟨6, 5, 6, 1, 128, 150, 80⟩, ⟨8, 3, 4, 1, 128, 180, 96⟩, ⟨8, 5, 6, 1, 128, 200, 108⟩]

/-- Scheme m; ROBUST past the table. -/
def scheme (m : Nat) : Scheme := schemes.getD m ⟨1, 1, 2, 3, 288, 4, 0⟩

/-- PHY rate in Mbit/s and minimum SNR in 0.25 dB of a scheme (Table 11-2). -/
def phyRate (m : Nat) : Nat := (scheme m).rate
def minSnr (m : Nat) : Int := (scheme m).snr

/-- Information bits per symbol over the 1,920 data carriers (Table 11-2). -/
def symbolBits (m : Nat) : Nat := 1920 * (scheme m).carrierBits * (scheme m).rateNum / ((scheme m).rateDen * (scheme m).copies)

/-- The scheme toward a neighbour: the highest whose minimum SNR plus 3 dB the last report holds; ROBUST without a report in
10 s (R367). -/
def schemeFor (now : Nat) (x : Neigh) : Nat :=
  match x.reportAt with
  | some t =>
    if t + secF 10 < now then 1 else ([8, 7, 6, 5, 4, 3, 2, 1].find? (fun m => decide (minSnr m + 12 ≤ (x.snr : Int)))).getD 0
  | none => 1

/-- Carrier k, of the 1,945, lies at k times 19.53125 kHz; every 81st is a pilot (R365). -/
def isCarrier (k : Nat) : Bool := decide (1536 ≤ k) && decide (k ≤ 3480)
def isPilot (k : Nat) : Bool := (k - 1536) % 81 == 0

/-- The notches of Table 11-7 in kHz. -/
def notches : List (Nat × Nat) := [(40660, 40700), (50000, 54000), (66000, 68000)]

/-- Carrier k lies inside notch j: its frequency in 0.00001 kHz is k times 1,953,125 (R365, Table 11-7). -/
def inNotch (j k : Nat) : Bool :=
  match notches[j]? with
  | some (a, b) => decide (a * 100000 ≤ k * 1953125) && decide (k * 1953125 ≤ b * 100000)
  | none => false

/-- Carrier k carries no power, pilot or not: NOTCH enables a notch that it lies in (R364). -/
def notched (s : State) (k : Nat) : Bool := (List.range 3).any (fun j => bit s.trv.config (64 + j) && inNotch j k)

/-- Data carriers that remain beside the notches of TRV_CONFIG.NOTCH (R364, R365, Table 11-7). -/
def dataCarriers (s : State) : Nat :=
  1920 - (if bit s.trv.config 64 then 2 else 0) - (if bit s.trv.config 65 then 202 else 0) - (if bit s.trv.config 66 then 99 else 0)

/-- Segments resent per 100 sent in the last 10 s (R384). -/
def resentRate (now : Nat) (x : Neigh) : Nat :=
  let l := x.sent.filter (fun e => decide (now < e.1 + secF 10))
  if l.isEmpty then 0 else 100 * (l.filter (·.2)).length / l.length

/-- The link cost toward a neighbour (R384). The margin's tenth is rounded up to a whole unit (DESIGN CHOICE, log 26). -/
def linkCost (s : State) (x : Neigh) : Nat :=
  let m := schemeFor s.now x
  let den := phyRate m * dataCarriers s
  let base := (2000 * 1920 + den - 1) / den
  let margin := (x.snr : Int) - minSnr m
  let p : Int := if margin < 24 then (10 * (24 - margin) + 3) / 4 else 0
  sat 16 (base + p.toNat + 4 * resentRate s.now x)

/-- Frames between a neighbour's beacons: every period for the master, else every 16 periods (R373). -/
def beaconEvery (s : State) (n : Nat) : Nat := if n = s.trv.master then periodFrames s else 16 * periodFrames s

/-- A neighbour has ceased to be usable, or never was (R386). -/
def nghLost (s : State) (n : Nat) : Bool :=
  match (ngh s n).heardAt with
  | none => true
  | some t => decide (t + 4 * beaconEvery s n ≤ s.now) || decide (3 ≤ (ngh s n).exhausted) || decide (2000 < linkCost s (ngh s n))

/-! Routes. -/

/-- The route to d through neighbour x: cost and hops, when there is one (R385). -/
def routeVia (s : State) (d x : Nat) : Option (Nat × Nat) :=
  if !(ngh s x).usable then none
  else
    let c := linkCost s (ngh s x)
    if d = x then some (c, 1)
    else
      match (ngh s x).advert[d]? with
      | some (next, hops, cost) =>
        if next = trvNode s ∨ 0xFFFF ≤ cost ∨ 0xFFFF ≤ c + cost ∨ 7 ≤ hops then none else some (c + cost, hops + 1)
      | none => none

/-- The best route to d over the usable neighbours, the lowest node first: next hop, cost, hops. -/
def bestRoute (s : State) (d : Nat) : Option (Nat × Nat × Nat) :=
  (List.range 64).foldl (fun m x =>
    match routeVia s d x, m with
    | some (c, h), none => some (x, c, h)
    | some (c, h), some (y, c', h') => if c < c' then some (x, c, h) else some (y, c', h')
    | none, _ => m) none

/-- Route d is set; ROUTE_CHANGED when its next hop changes (R385). -/
def setRoute (d : Nat) (r : Option (Nat × Nat × Nat)) (s : State) : State :=
  let old := route s d
  let (n, c, h) := r.getD (0xFF, 0xFFFF, 0)
  let moved := old.next != n
  let new : Route := { next := n, hops := h, cost := c, since := if moved then s.clock.legal else old.since,
                       changes := if moved then satInc 16 old.changes else old.changes,
                       lostAt := if moved && n == 0xFF then s.now else old.lostAt }
  let s1 := { s with trv := { s.trv with routes := vset s.trv.routes d new } }
  if moved then event 0x0825 (le 1 d ++ le 1 n ++ le 2 c) s1 else s1

/-- The parent: the next hop toward the master; where the master's node is not known, the usable neighbour of the least depth
(R376; DEDUCED, log 26). -/
def findParent (s : State) : Nat :=
  if isMaster s then 0xFF
  else if s.trv.master < 64 then (route s s.trv.master).next
  else
    (((List.range 64).filter (fun n => (ngh s n).usable && decide ((ngh s n).depth < 7))).foldl (fun m n =>
      match m with
      | none => some n
      | some k => if (ngh s n).depth < (ngh s k).depth then some n else some k) none).getD 0xFF

/-- PARENT and DEPTH follow the routes (R376, R378). -/
def updateParent (s : State) : State :=
  let p := findParent s
  let d := if isMaster s then 0 else if p < 64 then min 7 ((ngh s p).depth + 1) else 0
  { s with trv := { s.trv with parent := p, depth := d } }

/-- A neighbour is no longer usable: its routes move at once (R386). -/
def neighbourLost (n : Nat) (s : State) : State :=
  let s1 := updNgh n (fun x => { x with usable := false }) s
  updateParent ((List.range 64).foldl (fun s d => if (route s d).next = n then setRoute d (bestRoute s d) s else s) s1)

/-- The computation at a window's end (R385): neighbours already lost go first. -/
def recompute (s : State) : State :=
  let s1 := (List.range 64).foldl (fun s n => if (ngh s n).usable && nghLost s n then neighbourLost n s else s) s
  updateParent (((List.range 64).filter (fun d => d != trvNode s)).foldl (fun s d =>
    let cur := route s d
    match bestRoute s d, routeVia s d cur.next with
    | none, _ => setRoute d none s
    | some b, none => setRoute d (some b) s
    | some (n, c, h), some (c', h') =>
      if 10 * c < 9 * c' then setRoute d (some (n, c, h)) s else setRoute d (some (cur.next, c', h')) s) s1)

/-- A neighbour has missed 4 beacons or exhausted 3 packets (R386). -/
def execNeighbourUnusable (node : Nat) (s : State) : Host.Outcome State Fault Refusal :=
  if trvReceives s && (ngh s node).usable && nghLost s node then .next (neighbourLost node s) else .next s

/-- The end of a routing window of 10 s (R385). -/
def execRoutingWindowEnd (s : State) : Host.Outcome State Fault Refusal :=
  let w := s.clock.legal / 200000 * 10
  if trvReceives s ∧ s.trv.windowAt ≠ w then
    .next (recompute { s with trv := { s.trv with windowAt := w } })
  else .next s

/-! Packets. -/

/-- The 24 bytes of a network header (Table 11-6). -/
def trvHeader (k : TrvPkt) : List Byte :=
  le 1 (1 + 16 * k.slot) ++ le 1 k.service ++ le 1 k.origin ++ le 1 k.final ++ le 1 k.hop ++ [k.flags] ++ le 2 k.payload.length ++
    objBytes k.serial ++ le 5 k.counter ++ le 3 0

/-- A packet on the wire: header, encrypted payload, MIC. The nonce is ORIGIN_SERIAL and COUNTER; the associated data take HOP_LIMIT as 0
(R380, R381). -/
def trvBytes (s : State) (k : TrvPkt) : List Byte :=
  trvHeader k ++ aesCcm (objBytes (trvKey s k.slot)) (objBytes k.serial ++ le 5 k.counter) (trvHeader { k with hop := 0 }) k.payload

/-- Bytes of a packet on the wire: header, payload, MIC (R380). -/
def trvLength (k : TrvPkt) : Nat := 24 + k.payload.length + 8

/-- Frame control (Table 11-3). -/
def frameControl (s : State) (type flags dst mcs : Nat) (seq : Byte) (symbols segs snr : Nat) (bitmap : Nat) : List Byte :=
  let b := le 1 type ++ le 1 flags ++ le 2 (trvSite s) ++ le 1 (trvNode s) ++ le 1 dst ++ le 1 mcs ++ [seq] ++ le 2 symbols ++
    le 1 segs ++ le 1 snr ++ le 4 bitmap
  b ++ le 4 (crc32c b)

/-- COUNTER for a new packet; every 4,096 packets the next one is stored (R382). -/
def takeCounter (s : State) : Nat × State :=
  let c := s.trv.counter
  let st := if s.trv.stored + 4096 ≤ c + 1 then c + 1 else s.trv.stored
  (c, { s with trv := { s.trv with counter := (c + 1) % 2 ^ 40, stored := st } })

/-- After any reset COUNTER resumes 4,096 above the stored value, which is stored in turn (R382; DEDUCED, log 26). -/
def counterResume (s : State) : State :=
  let c := (s.trv.stored + 4096) % 2 ^ 40
  { s with trv := { s.trv with counter := c, stored := c } }

/-- A packet that this node originates. -/
def ownPacket (service final : Nat) (flags : Byte) (payload : List Byte) (cls : Nat) (s : State) : TrvPkt × State :=
  let (c, s1) := takeCounter s
  ({ service := service, origin := trvNode s, final := final, flags := flags, serial := s.factory.serial, counter := c,
     slot := s.trv.active, payload := payload, cls := cls, since := s.now, tag := c }, s1)

/-- A packet waits for the medium. -/
def queueOwn (k : TrvPkt) (s : State) : State := { s with trv := { s.trv with own := s.trv.own ++ [k] } }

/-- TRV_SENT completes a TRV_SEND (Table 11-14). -/
def trvSent (counter result : Nat) (s : State) : State :=
  match s.trv.sends.find? (fun x => x.counter == counter) with
  | some x =>
    emit 0x0821 (le 2 x.handle ++ le 1 result ++ le 1 (route s x.final).hops) x.ack
      { s with trv := { s.trv with sends := s.trv.sends.filter (fun y => y.counter != counter) } }
  | none => s

/-- The link no longer transmits: what waits for the medium goes, and every TRV_SEND completes with result 5 (R379, R388, R390). -/
def trvSilent (s : State) : State :=
  s.trv.sends.foldl (fun s x => trvSent x.counter 5 s) { s with trv := { s.trv with own := [], inFlight := none } }

/-- A packet is dropped at this hop; an own one completes its TRV_SEND (R371, R383, R386). -/
def dropPacket (k : TrvPkt) (result : Nat) (s : State) : State :=
  let s1 := { s with trv := { s.trv with pktDropped := satInc 16 s.trv.pktDropped } }
  if k.serial = s.factory.serial then trvSent k.counter result s1 else s1

/-- The newest packet of the lowest class leaves a full store (R383). -/
def trimStore (l : List TrvPkt) : List TrvPkt :=
  if l.length ≤ 64 then l
  else
    let low := (l.map (·.cls)).foldl min 3
    match l.reverse.find? (fun k => k.cls == low) with
    | some k => (l.reverse.erase k).reverse
    | none => l

/-- A packet is held for forwarding with one hop less (R383). -/
def forwardPacket (k : TrvPkt) (s : State) : State :=
  if k.hop ≤ 1 then { s with trv := { s.trv with pktDropped := satInc 16 s.trv.pktDropped } }
  else
    let l := s.trv.store ++ [{ k with hop := k.hop - 1, since := s.now }]
    let t := trimStore l
    { s with trv := { s.trv with store := t,
                                 pktDropped := if t.length < l.length then satInc 16 s.trv.pktDropped else s.trv.pktDropped } }

/-- TRV_SECURITY: counted, and reported at most once per minute per kind (Table 11-14). -/
def trvSecurity (kind origin : Nat) (s : State) : State :=
  let n := satInc 16 (vget s.trv.secCount kind 0)
  let due := match vget s.trv.secAt kind none with
    | some t => decide (t + secF 60 ≤ s.now)
    | none => true
  if due then
    event 0x0826 (le 1 kind ++ le 1 origin ++ le 2 n)
      { s with trv := { s.trv with secCount := vset s.trv.secCount kind 0, secAt := vset s.trv.secAt kind (some s.now) } }
  else { s with trv := { s.trv with secCount := vset s.trv.secCount kind n } }

/-- Whether a counter is new for its origin, and the window that takes it in (R382). -/
def replayCheck (w : Replay) (c : Nat) : Option Replay :=
  if w.highest < c then
    let d := c - w.highest
    some { w with highest := c, seen := if d ≤ 64 then (w.seen <<< d) ||| (1 <<< (d - 1)) else 0 }
  else if w.highest = c ∨ 64 < w.highest - c then none
  else if bit w.seen (w.highest - c - 1) then none
  else some { w with seen := setBit w.seen (w.highest - c - 1) true }

/-- MIC, key slot and replay checks of a received packet (R381, R382): the state after them, and whether it is accepted. -/
def screenPacket (k : TrvPkt) (micOk : Bool) (s : State) : Bool × State :=
  let fail := { s with trv := { s.trv with micFail := satInc 16 s.trv.micFail } }
  if trvKey s k.slot = 0 then (false, trvSecurity 2 k.origin fail)
  else if !micOk then (false, trvSecurity 0 k.origin fail)
  else
    match s.trv.replay.find? (fun w => w.serial == k.serial) with
    | none => (true, { s with trv := { s.trv with replay := s.trv.replay ++ [{ serial := k.serial, highest := k.counter }] } })
    | some w =>
      match replayCheck w k.counter with
      | some w' => (true, { s with trv := { s.trv with replay := updFirst (fun x => x.serial == k.serial) (fun _ => w') s.trv.replay } })
      | none => (false, trvSecurity 1 k.origin { s with trv := { s.trv with replays := satInc 16 s.trv.replays } })

/-- The header of received bytes (Table 11-6); the payload is still to be opened. -/
def packetHeader (b : List Byte) : TrvPkt :=
  { service := byteAt b 1, origin := byteAt b 2, final := byteAt b 3, hop := byteAt b 4, flags := b.getD 5 0,
    serial := BitVec.ofNat 64 (numAt b 8 8), counter := numAt b 16 5, slot := byteAt b 0 / 16 % 2, tag := numAt b 16 5,
    cls := if byteAt b 3 = 0xFE ∨ byteAt b 1 = 1 ∨ byteAt b 5 / 2 % 2 = 1 then 3 else if byteAt b 1 = 3 then 1 else 2 }

/-- The payload of received bytes, decrypted, when their length is that of the header and the MIC is the one that the key of the slot
named gives: the header is authenticated with HOP_LIMIT as 0 (R381). -/
def openPayload (s : State) (b : List Byte) : Option (List Byte) :=
  let k := packetHeader b
  let coded := b.drop 24
  let header := b.take 4 ++ [0] ++ (b.drop 5).take 19
  let code (p : List Byte) : List Byte := aesCcm (objBytes (trvKey s k.slot)) (objBytes k.serial ++ le 5 k.counter) header p
  let n := numAt b 6 2
  let p := (code (coded.take n)).take n
  if b.length = 24 + n + 8 ∧ code p = coded then some p else none

/-- Entries of a routing advertisement (R385). -/
def parseAdvert : Nat → List Byte → List (Nat × Nat × Nat)
  | 0, _ => []
  | n + 1, p => (byteAt p 0, byteAt p 1, numAt p 2 2) :: parseAdvert n (p.drop 4)

/-- A packet for this node, or one that a flood or broadcast brings (R383): confirmations match their TRV_SEND, host packets
become TRV_RECEIVED, and a requested confirmation is returned, whatever the service. -/
def deliverPacket (k : TrvPkt) (s : State) : State :=
  let s1 :=
    if k.service = 1 then updNgh k.origin (fun x => { x with advert := parseAdvert 64 k.payload }) s
    else if k.service ≠ 0 then s
    else if bit k.flags 1 then trvSent (numAt k.payload 0 5) 0 s
    else event 0x0820 (le 1 k.origin ++ [k.flags] ++ le 2 k.payload.length ++ k.payload) s
  if bit k.flags 0 && !bit k.flags 1 && k.final == trvNode s then
    let (c, s2) := ownPacket 0 k.origin 0x02 (le 5 k.counter) 3 s1
    queueOwn c s2
  else s1

/-- A packet that passed its checks: delivered here, flooded or forwarded (R383). -/
def takePacket (k : TrvPkt) (s : State) : State :=
  if k.final = 0xFE then
    let fl := (k.serial, k.counter, s.now) :: s.trv.floods.filter (fun f => decide (s.now < f.2.2 + secF 60))
    forwardPacket k (deliverPacket k { s with trv := { s.trv with floods := fl } })
  else if k.final = 0xFF ∨ k.final = trvNode s then deliverPacket k s
  else forwardPacket k s

/-- A flood taken in the last 60 s (R383). -/
def floodSeen (k : TrvPkt) (s : State) : Bool :=
  k.final == 0xFE && s.trv.floods.any (fun f => f.1 == k.serial && f.2.1 == k.counter && decide (s.now < f.2.2 + secF 60))

/-- A whole packet received: screened, then delivered, flooded or forwarded (R381 to R383). Bytes of another VERSION, an own packet that a
flood brings back and a flood taken before are passed over. -/
def execTrvPacketReceived (b : List Byte) (s : State) : Host.Outcome State Fault Refusal :=
  let k := packetHeader b
  if !trvReceives s ∨ byteAt b 0 % 16 ≠ 1 ∨ k.serial = s.factory.serial ∨ floodSeen k s then .next s
  else
    let (ok, s1) := screenPacket k (openPayload s b).isSome s
    .next (if ok then takePacket { k with payload := (openPayload s b).getD [] } s1 else s1)

/-- A packet has waited 2 s without a route, since it was stored and since its route was lost (R386). -/
def routeless (k : TrvPkt) (s : State) : Bool :=
  decide (k.final < 64) && (route s k.final).next == 0xFF && decide (max k.since (route s k.final).lostAt + secF 2 ≤ s.now)

/-- A packet has waited 2 s without a route (R386). -/
def execNoRouteDrop (tag : Nat) (s : State) : Host.Outcome State Fault Refusal :=
  match (s.trv.own ++ s.trv.store).find? (fun k => k.tag == tag && routeless k s) with
  | some k =>
    .next (dropPacket k 2 { s with trv := { s.trv with own := s.trv.own.filter (fun x => x != k),
                                                       store := s.trv.store.filter (fun x => x != k) } })
  | none => .next s

/-! Frames. -/

/-- The 520-byte segments of a packet of given indexes, with their CRC (R371). -/
def segmentBytes (tag last : Nat) (b : List Byte) (i : Nat) : List Byte :=
  let x := le 2 tag ++ le 1 (i + 16 * last) ++ [0] ++ padTo 512 (b.drop (512 * i))
  x ++ le 4 (crc32c x)

/-- The highest-class packet that can go, oldest first: every flood and broadcast, and those with a route (R375, R383). -/
def nextToSend (s : State) : Option TrvPkt :=
  let l := (s.trv.own ++ s.trv.store).filter (fun k => decide (64 ≤ k.final) || (route s k.final).next != 0xFF)
  match [3, 2, 1].find? (fun c => l.any (fun k => k.cls == c)) with
  | some c => l.find? (fun k => k.cls == c)
  | none => none

/-- A packet leaves the queues. -/
def unqueue (k : TrvPkt) (s : State) : State :=
  { s with trv := { s.trv with own := s.trv.own.filter (fun x => x != k), store := s.trv.store.filter (fun x => x != k) } }

/-- Contention window of a class after doublings (R375). -/
def contentionWindow (s : State) (cls : Nat) : Nat :=
  min 256 ((if cls = 3 then 8 else if cls = 2 then 16 else 32) * 2 ^ s.trv.cw)

/-- Payload symbols that a number of information bits takes, over the carriers that remain beside the notches (R366). -/
def symbolsOf (s : State) (m bits : Nat) : Nat :=
  let den := symbolBits m * dataCarriers s
  (bits * 1920 + den - 1) / max 1 den

/-- Payload symbols of a data frame of k segments. A ROBUST frame has at least 48, and a multiple of 3 for its three copies (R366, R368;
the multiple DEDUCED, log 26). -/
def dataSymbols (s : State) (m k : Nat) : Nat :=
  let n := symbolsOf s m (4160 * k)
  if m = 1 then max 48 ((n + 2) / 3 * 3) else n

/-- The symbols that carry the copies of a coded bit of symbol i in a ROBUST frame of n payload symbols (R368). -/
def copySymbols (n i : Nat) : List Nat := [i, i + n / 3, i + 2 * (n / 3)]

/-- Duration of a frame of n payload symbols in 0.1 us: preamble, frame control, payload with the guard of its scheme (R370, Tables
11-1, 11-2). -/
def frameTime (m n : Nat) : Nat := 1024 + 800 + n * (512 + (scheme m).guard)

/-- The medium is occupied for a time in 0.1 us from now on, in whole frames (R375). -/
def occupy (tenths : Nat) (s : State) : State :=
  { s with trv := { s.trv with mediumFree := max s.trv.mediumFree (s.now + (tenths + 499) / 500) } }

/-- The medium has been idle for 200 us and a backoff of 40 us slots since (R375). -/
def mediumIdle (backoff : Nat) (s : State) : Bool := decide (s.trv.mediumFree * 500 + 2000 + 400 * backoff ≤ s.now * 500)

/-- Frame control as received: whole, with its CRC (R370). -/
def fcGood (fc : List Byte) : Bool := fc.length == 20 && numAt fc 16 4 == crc32c (fc.take 16)

/-- A frame's control is read. The frame of another site occupies the medium for its payload still to come; what is reported of a frame of
this site is reported at its end (R370, R375; DEDUCED, log 26). -/
def hearFrame (fc : List Byte) (s : State) : State :=
  occupy (if fcGood fc && numAt fc 2 2 != trvSite s then numAt fc 8 2 * (512 + (scheme (byteAt fc 6)).guard) else 0) s

/-- A frame of this site, or any while SITE_ID is unset, counts when it is for this node (R370, R379, Table 11-12). -/
def countFrame (fc : List Byte) (s : State) : State :=
  let mine := byteAt fc 5 == trvNode s || byteAt fc 5 == 0xFF || bit (BitVec.ofNat 8 (byteAt fc 1)) 0
  if fcGood fc && mine && (numAt fc 2 2 == trvSite s || trvSite s == 0) then
    { s with trv := { s.trv with framesRx := satInc 16 s.trv.framesRx } }
  else s

/-- The frame is one of this site and of a type (R370, R379). -/
def siteFrame (type : Nat) (fc : List Byte) (s : State) : Bool :=
  trvReceives s && fcGood fc && byteAt fc 0 == type && trvSite s != 0 && numAt fc 2 2 == trvSite s

/-! Blanking (R369). -/

/-- Whether each sample exceeds the rms of the 160 samples before it, 1 us, by 12 dB: its square 15.8489 times their mean square (R369; that
the rms is of the samples before DESIGN CHOICE, log 26). -/
def loudSamples : List Nat → List Int → List Bool
  | _, [] => []
  | w, x :: l =>
    let q := x.natAbs * x.natAbs
    decide (158489 * w.foldl (· + ·) 0 < 10000 * (q * w.length)) :: loudSamples ((q :: w).take 160) l

/-- A mark carried on over the 80 samples, 0.5 us, that follow (R369). -/
def spread80 : Nat → List Bool → List Bool
  | _, [] => []
  | n, b :: l => if b then true :: spread80 80 l else decide (0 < n) :: spread80 (n - 1) l

/-- The blanked samples: the loud ones with 0.5 us on either side (R369). -/
def blankMask (x : List Int) : List Bool :=
  let l := loudSamples [] x
  List.zipWith (· || ·) (spread80 0 l) (spread80 0 l.reverse).reverse

/-- The payload symbols of which more than 10 % is blanked, of n symbols of the guard's length (R369). -/
def erasedSymbols (m n : Nat) (x : List Int) : List Nat :=
  let len := 16 * (512 + (scheme m).guard)
  let b := blankMask x
  (List.range n).filter (fun i => decide (len < 10 * (((b.drop (i * len)).take len).filter (·)).length))

/-- The places of a frame's bits that erasures leave without a copy: in ROBUST a symbol's bits stand in three (R368, R369). -/
def lostSymbols (m n : Nat) (erased : List Nat) : List Nat :=
  if m = 1 then (List.range (n / 3)).filter (fun i => (copySymbols n i).all erased.contains) else erased

/-- Segment j of k is coded in erased symbols beyond recovery. One erased symbol in MCS2 to MCS8 is recovered. The segments take the symbols
in order, in equal parts (R369; the parts DESIGN CHOICE, log 26). -/
def trvSegmentLost (m n k j : Nat) (erased : List Nat) : Bool :=
  let p := if m = 1 then n / 3 else n
  let lost := lostSymbols m n erased
  (m == 1 || decide (1 < erased.length)) && lost.any (fun i => decide (j * p < (i + 1) * k) && decide (i * k < (j + 1) * p))

/-- Segment bytes as received: whole, with their CRC (R371). -/
def segmentGood (x : List Byte) : Bool := x.length == 520 && numAt x 516 4 == crc32c (x.take 516)

/-- Half a mains cycle in 0.1 us: measured, or nominal while the datum is invalid (R368). -/
def halfCycle (s : State) : Nat :=
  if s.trv.datumValid then 5000000000 / max 1 s.trv.gridMhz else if bit s.rst.straps 3 then 100000 else 83333

/-- The beacon period in 0.1 us (R373). -/
def periodTenths (s : State) : Nat :=
  if s.trv.periodUs ≠ 0 then 10 * s.trv.periodUs else if bit s.rst.straps 3 then 200000 else 166667

/-- BEACON_OFFSET in 0.1 us (Table 11-7). -/
def beaconOffset (s : State) : Nat := 1000 * fld s.trv.config 48 6

/-- Time in 0.1 us since the beacon region of the period in which a member last heard a beacon (R373). -/
def sincePlaced (s : State) : Option Nat := s.trv.placeAt.map (fun t => (s.now - t) * 500 + 10000 * s.trv.placeSlot)

/-- PERIOD_NO of the current period: the master's count; a member counts on from the last beacon (R373). -/
def periodNow (s : State) : Nat :=
  if isMaster s then s.trv.periodNo
  else (s.trv.periodNo + (sincePlaced s).getD 0 / periodTenths s) % 65536

/-- The beacon slot of a node (R373). -/
def beaconSlotOf (master : Bool) (node : Nat) : Nat := if master then 0 else 1 + node / 16

/-- Time since the beacon region of this period began, in 0.1 us: from the datum, ZC_DELAY before its edge, on the master, else as the
last beacon placed it; none before a beacon has placed the period (R373). -/
def regionPhase (s : State) : Option Nat :=
  let p := periodTenths s
  if isMaster s then some (((s.now - s.trv.datumAt.getD 0) * 500 + 10 * fld s.trv.config 32 11 + p - beaconOffset s) % p)
  else (sincePlaced s).map (· % p)

/-- Time left until the guard in the contention region, in 0.1 us; none outside it (Table 11-4). -/
def frameRoom (s : State) : Nat :=
  match regionPhase s with
  | some u => if 50000 ≤ u then periodTenths s - 5000 - u else 0
  | none => 0

/-- How many of k segments go into a frame that ends before the guard and within half a mains cycle (R368, R375). -/
def segmentsFit (s : State) (m k : Nat) : Nat :=
  (((List.range (min k 32)).map (· + 1)).reverse.find? (fun j =>
    decide (frameTime m (dataSymbols s m j) ≤ min (halfCycle s) (frameRoom s)))).getD 0

/-- The scheme of a frame: ROBUST for broadcasts and floods, else that toward the next hop (R367). -/
def frameScheme (s : State) (t : TrvTx) : Nat := if t.dst = 0xFF then 1 else schemeFor s.now (ngh s t.dst)

/-- dB below full level: TX_ATTEN, and 10 dB more without the standing grant (R364, R387). -/
def txAtten (s : State) : Nat := fld s.trv.config 56 5 + (if s.trv.grant then 0 else 10)

/-- The frame on the wire: frame control and its segments (R370, R371). -/
def dataFrame (s : State) (t : TrvTx) (m k : Nat) : List Byte :=
  let b := trvBytes s t.pkt
  let tag := if t.dst = 0xFF then t.pkt.counter else (ngh s t.dst).tag
  frameControl s 1 (if t.dst = 0xFF then 1 else 0) t.dst m s.trv.frameSeq (dataSymbols s m k) k 0 0 ++
    ((t.segs.take k).map (segmentBytes tag (t.segsTotal - 1) b)).flatten

/-- A data frame with k of the segments outstanding goes to its next hop (R371). -/
def sendSegments (t : TrvTx) (k : Nat) (s : State) : State :=
  let now := s.now
  let m := frameScheme s t
  let fr := t.segs.take k
  let again (i : Nat) : Bool := decide (0 < vget t.sends i 0)
  let s1 := updNgh t.dst (fun x =>
    { x with sent := (fr.map (fun i => (now, again i))) ++ x.sent.filter (fun e => decide (now < e.1 + secF 10)) }) s
  { s1 with trv := { s1.trv with
      frameSeq := s.trv.frameSeq + 1, framesTx := satInc 16 s1.trv.framesTx,
      segResent := sat 16 (s1.trv.segResent + (fr.filter again).length),
      mediumFree := s.now + (frameTime m (dataSymbols s m k) + 499) / 500,
      inFlight := some { t with seq := s.trv.frameSeq, waiting := true, since := now, frame := fr,
                                sends := fr.foldl (fun v i => vmod v i (· + 1)) t.sends },
      air := [dataFrame s t m k] } }

/-- A frame of a flood or broadcast goes once, in ROBUST and without acknowledgement; the packet is done with its last segment (R367,
R371, R383). -/
def sendBroadcast (t : TrvTx) (k : Nat) (s : State) : State :=
  let rest := t.segs.drop k
  let s1 := { s with trv := { s.trv with
    frameSeq := s.trv.frameSeq + 1, framesTx := satInc 16 s.trv.framesTx, air := [dataFrame s t 1 k],
    mediumFree := s.now + (frameTime 1 (dataSymbols s 1 k) + 499) / 500,
    inFlight := if rest.isEmpty then none else some { t with segs := rest, waiting := false } } }
  if rest.isEmpty && t.pkt.serial == s.factory.serial then trvSent t.pkt.counter 1 s1 else s1

/-- A packet as its first frame finds it. -/
def firstTx (k : TrvPkt) (s : State) : TrvTx :=
  let n := (trvLength k + 511) / 512
  { dst := if 64 ≤ k.final then 0xFF else (route s k.final).next, pkt := k, segs := List.range n, segsTotal := n, waiting := false }

/-- The frame that the node would start now: what is outstanding first, then the highest class; a new packet has still to leave its
queue. -/
def nextFrame (s : State) : Option (TrvTx × Bool) :=
  match s.trv.inFlight with
  | some t => if t.waiting then none else some (t, false)
  | none => (nextToSend s).map (fun k => (firstTx k s, true))

/-- A packet leaves its queue and takes the next tag toward its next hop (R371). -/
def beginTx (t : TrvTx) (s : State) : State :=
  let s1 := unqueue t.pkt s
  if t.dst = 0xFF then s1 else updNgh t.dst (fun x => { x with tag := (x.tag + 1) % 65536 }) s1

/-- After idle time and backoff the node starts a frame, unless it would not end before the guard or would last too long (R368, R375). A
backoff outside the contention window is none that the node draws. -/
def execContentionAccess (backoff : Nat) (s : State) : Host.Outcome State Fault Refusal :=
  match nextFrame s with
  | some (t, new) =>
    let k := segmentsFit s (frameScheme s t) t.segs.length
    if !trvTransmits s || !mediumIdle backoff s || decide (contentionWindow s t.pkt.cls ≤ backoff) || k == 0 then .next s
    else
      let s1 := if new then beginTx t s else s
      .next (if t.dst = 0xFF then sendBroadcast t k s1 else sendSegments t k s1)
  | none => .next s

/-- The good segments of a frame kept until their packet is whole, by the sender's node and its packet tag (R371). -/
def keepSegments (src : Nat) (good : List (List Byte)) (l : List TrvRx) : List TrvRx :=
  (good.foldl (fun (l : List TrvRx) x =>
    let tag := numAt x 0 2
    let g := (byteAt x 2 % 16, (x.drop 4).take 512)
    if l.any (fun r => r.src == src && r.tag == tag) then
      updFirst (fun r => r.src == src && r.tag == tag)
        (fun r => { r with last := byteAt x 2 / 16, got := g :: r.got.filter (fun y => y.1 != g.1) }) l
    else l ++ [{ src := src, tag := tag, last := byteAt x 2 / 16, got := [g] }]) l).filter (fun r => decide (r.got.length ≤ r.last))

/-- The indexes of the segments that a frame brings whole: not lost in erased symbols, CRC good (R369, R371). -/
def goodSegments (f : TrvFrameIn) : List Nat :=
  let m := byteAt f.fc 6
  let n := numAt f.fc 8 2
  (List.range (min 32 f.segs.length)).filter (fun j =>
    segmentGood (f.segs.getD j []) && !trvSegmentLost m n (byteAt f.fc 10) j (erasedSymbols m n f.samples))

/-- The acknowledgement of a frame: a frame control alone, with the sender's own FRAME_SEQ (R370, R371). -/
def ackFrame (f : TrvFrameIn) (s : State) : List Byte :=
  frameControl s 2 0 (byteAt f.fc 4) 0 s.trv.frameSeq 0 (goodSegments f).length f.snr (((goodSegments f).map (2 ^ ·)).foldl (· + ·) 0)

/-- An acknowledgement goes out 100 us after the frame (R371). -/
def sendAck (f : TrvFrameIn) (s : State) : State :=
  occupy (1000 + frameTime 0 0) { s with trv := { s.trv with
    air := [ackFrame f s], frameSeq := s.trv.frameSeq + 1, framesTx := satInc 16 s.trv.framesTx } }

/-- A data frame of this site for this node: blanked samples counted, its good segments kept (R369 to R371). -/
def takeFrame (f : TrvFrameIn) (s : State) : State :=
  let n := (erasedSymbols (byteAt f.fc 6) (numAt f.fc 8 2) f.samples).length
  let good := (goodSegments f).map (fun j => f.segs.getD j [])
  { s with trv := { s.trv with blanked := sat 16 (s.trv.blanked + n), rx := keepSegments (byteAt f.fc 4) good s.trv.rx } }

/-- A data frame: acknowledged when it is addressed to this node (R370, R371). A whole packet comes as TRV_PACKET_RECEIVED. -/
def execTrvFrameReceived (f : TrvFrameIn) (s : State) : Host.Outcome State Fault Refusal :=
  let mine := byteAt f.fc 5 == trvNode s
  let all := byteAt f.fc 5 == 0xFF || bit (BitVec.ofNat 8 (byteAt f.fc 1)) 0
  if !trvReceives s then .next s
  else
    let s1 := countFrame f.fc (hearFrame f.fc s)
    if !(siteFrame 1 f.fc s && (mine || all)) then .next s1
    else .next (if mine && !all && trvTransmits s then sendAck f (takeFrame f s1) else takeFrame f s1)

/-- Segments of a packet are still outstanding: they wait for a later frame, or the packet is dropped with a segment exhausted (R371). -/
def segmentsLeft (t : TrvTx) (left : List Nat) (s : State) : State :=
  if left.any (fun i => decide (arqRetries s ≤ vget t.sends i 0)) then
    dropPacket t.pkt 3 (updNgh t.dst (fun x => { x with exhausted := x.exhausted + 1 })
      { s with trv := { s.trv with inFlight := none } })
  else { s with trv := { s.trv with inFlight := some { t with segs := left, waiting := false } } }

/-- What an acknowledgement leaves of the frame that it answers, bit i for the frame's segment i (R371). -/
def ackTakenBy (t : TrvTx) (bitmap : BitVec 32) (snr : Nat) (s : State) : State :=
  let now := s.now
  let got := (t.frame.zip (List.range t.frame.length)).filterMap (fun x => if bit bitmap x.2 then some x.1 else none)
  let left := t.segs.filter (fun i => !got.contains i)
  let s1 := updNgh t.dst (fun x => { x with snr := sat 8 snr, reportAt := some now }) { s with trv := { s.trv with cw := 0 } }
  if left.isEmpty then
    let s2 := updNgh t.dst (fun x => { x with exhausted := 0 }) { s1 with trv := { s1.trv with inFlight := none } }
    if t.pkt.serial = s.factory.serial then
      if s.trv.sends.any (fun x => x.counter == t.pkt.counter && x.confirm) then
        { s2 with trv := { s2.trv with sends := updFirst (fun x => x.counter == t.pkt.counter)
                                        (fun x => { x with since := now }) s2.trv.sends } }
      else trvSent t.pkt.counter 1 s2
    else s2
  else segmentsLeft t left s1

/-- An acknowledgement arrives: a frame of this site from the addressed node to this one while it is awaited (R370, R371). -/
def execSelectiveAckReceived (fc : List Byte) (s : State) : Host.Outcome State Fault Refusal :=
  if !trvReceives s then .next s
  else
    let s1 := countFrame fc (hearFrame fc s)
    match s.trv.inFlight with
    | some t =>
      if !siteFrame 2 fc s ∨ byteAt fc 5 ≠ trvNode s ∨ !t.waiting ∨ t.dst ≠ byteAt fc 4 then .next s1
      else .next (ackTakenBy t (BitVec.ofNat 32 (numAt fc 12 4)) (byteAt fc 11) s1)
    | none => .next s1

/-- No acknowledgement follows a data frame: its contention window doubles (R371, R375). -/
def execSelectiveAckMissing (dst : Nat) (frameSeq : Byte) (s : State) : Host.Outcome State Fault Refusal :=
  match s.trv.inFlight with
  | some t =>
    if !trvReceives s ∨ !t.waiting ∨ t.dst ≠ dst ∨ t.seq ≠ frameSeq then .next s
    else .next (segmentsLeft t t.segs { s with trv := { s.trv with cw := min 8 (s.trv.cw + 1) } })
  | none => .next s

/-! Datum, beacons, site time. -/

/-- DATUM_CHANGED (Table 11-14). -/
def datumTo (v : Bool) (s : State) : State :=
  if s.trv.datumValid = v then s
  else event 0x0823 (le 1 (b1 v) ++ le 2 s.trv.gridMhz) { s with trv := { s.trv with datumValid := v } }

/-- An edge of ZCIN with the frequency and phase it shows: the one that DATUM_EDGE selects marks the datum (R372). On the master it starts a
period (R373). -/
def execDatumEdge (rising : Bool) (gridMhz phaseDeg : Nat) (s : State) : Host.Outcome State Fault Refusal :=
  if !s.trv.running ∨ s.power.supply ≠ .on ∨ rising = bit s.trv.config 25 then .next s
  else
    let ok := if bit s.rst.straps 3 then decide (45000 ≤ gridMhz) && decide (gridMhz ≤ 55000)
      else decide (55000 ≤ gridMhz) && decide (gridMhz ≤ 65000)
    let t := { s.trv with datumAt := if ok then some s.now else s.trv.datumAt, gridMhz := sat 16 gridMhz,
                          phaseDeg := if isMaster s then 0 else phaseDeg % 3600 }
    let t := if isMaster s && ok then { t with periodUs := 1000000000 / gridMhz, periodNo := (t.periodNo + 1) % 65536 } else t
    .next (datumTo ok { s with trv := t })

/-- 100 ms without an edge (R372). -/
def execDatumLoss (s : State) : Host.Outcome State Fault Refusal :=
  match s.trv.datumAt with
  | some t => if s.trv.running ∧ s.trv.datumValid ∧ t + msF 100 ≤ s.now then .next (datumTo false s) else .next s
  | none => .next s

/-- A time stamp with its cycle in ns. -/
def beatNs (frame cycle : Nat) : Int := (50000 * frame + 40 * cycle : Nat)

/-- D: own slew cycles since lock less the change of MASTER_SLEW since lock (R377). -/
def slewD (s : State) : Int :=
  match s.trv.slewBase with
  | some b => s.trv.ownSlew - s.trv.masterSlew - b
  | none => 0

/-- SITE_ALIGNED as R378 and R388 give it. -/
def alignedNow (s : State) : Bool :=
  trvReceives s && (isMaster s || (s.trv.locked && decide (s.trv.offset.natAbs ≤ 2000)))

/-- SITE_ALIGNMENT whenever SITE_ALIGNED changes (R378). -/
def alignCheck (s : State) : State :=
  let a := alignedNow s
  if s.trv.aligned = a then s
  else
    event 0x0822 (le 1 (b1 a) ++ leInt 4 (satInt 32 s.trv.offset) ++ le 1 (masterShown s)) { s with trv := { s.trv with aligned := a } }

/-- The neighbours heard last, at most eight, for the entries of a beacon (R374; which eight is DESIGN CHOICE, log 26). -/
def beaconEntries (s : State) : List Nat :=
  let heard := (List.range 64).filter (fun n => (ngh s n).heardAt.isSome)
  let newer (a b : Nat) : Bool := decide (((ngh s a).heardAt.getD 0) < ((ngh s b).heardAt.getD 0))
  (heard.filter (fun n => decide ((heard.filter (newer n)).length < 8))).take 8

/-- The 104-byte body of a beacon (Table 11-5). -/
def beaconBody (s : State) (cycle : Nat) : List Byte :=
  let entry (n : Nat) : List Byte := le 1 n ++ [0] ++ stampB (ngh s n).arrival.frame ++ le 2 (ngh s n).arrival.cycle
  let none10 : List Byte := [0xFF] ++ List.replicate 9 0
  let es := (beaconEntries s).map entry
  le 1 (trvNode s) ++ le 1 (packBits [(b1 (isMaster s), 1), (b1 s.trv.datumValid, 1), (b1 s.trv.locked, 1), (b1 s.trv.aligned, 1)]) ++
    le 1 s.trv.depth ++ le 1 s.trv.parent ++ le 2 (periodNow s) ++ le 2 (periodTenths s / 10) ++ s.stamp ++ le 2 cycle ++
    leInt 4 (if isMaster s then s.trv.ownSlew else s.trv.masterSlew) ++ leInt 4 (satInt 32 s.trv.offset) ++ (es ++ List.replicate (8 - es.length) none10).flatten

/-- Beacon slot k starts in the frame that begins now (R373). -/
def slotNow (k : Nat) (s : State) : Bool :=
  let p := periodTenths s
  match regionPhase s with
  | some u => decide ((10000 * k + p - u % p) % p < 500) && s.trv.slotAt != some s.now
  | none => false

/-- The beacon frame: its control, and the packet as one short block of 1,280 bits (R366, R374). -/
def beaconFrame (s : State) (k : TrvPkt) : List Byte :=
  frameControl s 0 1 0xFF 0 s.trv.frameSeq (symbolsOf s 0 1280) 1 0 0 ++ padTo 160 (trvBytes s k)

/-- The node's beacon goes out. The reference cycle at which its preamble starts is a free value: no frame of the model resolves it. -/
def sendBeacon (s : State) : State :=
  let cyc := Config.freeNat s.factory.freeCtr % 1250
  let (k, s1) := ownPacket 2 0xFF 0 (beaconBody s cyc) 3 s.drawFree
  occupy (frameTime 0 (symbolsOf s 0 1280)) { s1 with trv := { s1.trv with
    frameSeq := s1.trv.frameSeq + 1, framesTx := satInc 16 s1.trv.framesTx, slotAt := some s1.now,
    lastTx := { frame := s1.clock.legal, cycle := cyc }, air := [beaconFrame s1 k] } }

/-- The node's beacon slot starts (R373, R374): in the slot's frame, once. A member sends none before a beacon has placed the period. -/
def execBeaconSlot (slot : Nat) (s : State) : Host.Outcome State Fault Refusal :=
  let a := trvNode s
  let own := slot == beaconSlotOf (isMaster s) a && slotNow slot s && (isMaster s || periodNow s % 16 == a % 16)
  if !trvTransmits s ∨ !own then .next s
  else
    .next (sendBeacon
      (if isMaster s && !s.trv.datumValid then { s with trv := { s.trv with periodNo := (s.trv.periodNo + 1) % 65536 } } else s))

/-- A beacon as read: what its header and body say (Tables 11-5, 11-6), with its arrival. -/
structure BeaconSeen where
  node : Nat
  serial : BitVec 64
  flags : Byte
  depth : Nat
  parent : Nat
  periodNo : Nat
  periodUs : Nat
  tx : Beat
  masterSlew : Int
  offsetNs : Int
  /-- the arrivals that it lists, by node -/
  entries : List (Nat × Beat)
  arrival : Beat
deriving DecidableEq, Repr

/-- The legal frame that a stamp of 6 bytes names (R229). -/
def stampAt (p : List Byte) (i : Nat) : Nat := (frameOf (numAt p i 6)).getD 0

/-- The body of a beacon read (Table 11-5). -/
def beaconSeen (serial : BitVec 64) (p : List Byte) (arrival : Beat) : BeaconSeen :=
  { node := byteAt p 0, serial := serial, flags := p.getD 1 0, depth := byteAt p 2, parent := byteAt p 3, periodNo := numAt p 4 2,
    periodUs := numAt p 6 2, tx := { frame := stampAt p 8, cycle := numAt p 14 2 }, masterSlew := signedOf 32 (numAt p 16 4),
    offsetNs := signedOf 32 (numAt p 20 4),
    entries := (List.range 8).map (fun i => (byteAt p (24 + 10 * i), { frame := stampAt p (26 + 10 * i), cycle := numAt p (32 + 10 * i) 2 })),
    arrival := arrival }

/-- Two masters: the one with the higher serial yields (R379). -/
def masterConflict (b : BeaconSeen) (s : State) : State :=
  if !(isMaster s && bit b.flags 0) ∨ s.trv.conflicts.contains b.serial then s
  else
    let lose := decide (b.serial.toNat < s.factory.serial.toNat)
    event 0x0824 (le 1 b.node ++ objBytes b.serial ++ le 1 (b1 lose))
      { s with trv := { s.trv with yielded := s.trv.yielded || lose, master := if lose then b.node else s.trv.master,
                                   conflicts := b.serial :: s.trv.conflicts } }

/-- One time measurement from the parent's beacon (R376 to R378). Without the parent's entry for this node there is none. The
frequency estimate is a free value: the loop's filter is not given. -/
def measure (b : BeaconSeen) (s : State) : State :=
  let s1 := { s with trv := { s.trv with beaconAt := some s.now, masterSlew := b.masterSlew } }
  match b.entries.find? (fun e => e.1 == trvNode s) with
  | none => s1
  | some (_, e) =>
    let a1 := beatNs b.arrival.frame b.arrival.cycle - beatNs b.tx.frame b.tx.cycle
    let a2 := beatNs e.frame e.cycle - beatNs s.trv.lastTx.frame s.trv.lastTx.cycle
    let off := (a1 - a2) / 2 + b.offsetNs
    let err := (off - 40 * slewD s1 + 25000) % 50000 - 25000
    let run := if err.natAbs ≤ 500 then s.trv.lockRun + 1 else 0
    let lock := s.trv.locked || decide (10 ≤ run)
    let base := if lock && !s.trv.locked then some (s.trv.ownSlew - b.masterSlew) else s.trv.slewBase
    { s1.drawFree with trv := { s1.trv with offset := off, delayNs := sat 16 ((a1 + a2) / 2).toNat, lockRun := run, locked := lock,
                                            slewBase := base, loopDebt := 100000 * err,
                                            freq := signedOf 32 (Config.freeNat s.factory.freeCtr) } }

/-- Another node answers to this node's address: the one with the higher serial number stops; each serial is reported once (R379). -/
def addressClash (b : BeaconSeen) (s : State) : State :=
  if s.trv.clashes.contains b.serial then s
  else
    let lose := decide (b.serial.toNat < s.factory.serial.toNat)
    let s1 := event 0x0827 (le 1 b.node ++ objBytes b.serial ++ le 1 (b1 lose))
      { s with trv := { s.trv with addrConflict := true, stopped := s.trv.stopped || lose, clashes := b.serial :: s.trv.clashes } }
    if lose then trvSilent s1 else s1

/-- The beacons missed since the neighbour was last heard. -/
def beaconGap (b : BeaconSeen) (s : State) : Nat :=
  match (ngh s b.node).heardAt with
  | some t => (s.now - t + beaconEvery s b.node / 2) / max 1 (beaconEvery s b.node) - 1
  | none => 0

/-- The neighbour as its beacon shows it; the master that it names (R378, R380, R386). -/
def beaconHeard (b : BeaconSeen) (s : State) : State :=
  let now := s.now
  let legal := s.clock.legal
  let missed := if b.node = s.trv.parent then sat 16 (s.trv.beaconsMissed + beaconGap b s) else s.trv.beaconsMissed
  let m := if bit b.flags 0 then b.node else if b.depth = 1 ∧ ¬ s.trv.master < 64 then b.parent else s.trv.master
  updNgh b.node (fun x =>
    { x with heardAt := some now, lastHeard := legal, exhausted := 0, depth := min 7 b.depth, serial := b.serial, arrival := b.arrival })
    { s with trv := { s.trv with beaconsMissed := missed, master := if isMaster s then s.trv.master else m } }

/-- The neighbour's use, and the parent. A neighbour whose cost has risen too far loses its routes at once; one that is usable again has
them from the end of the window (R384 to R386). -/
def beaconRoutes (b : BeaconSeen) (s : State) : State :=
  if nghLost s b.node then (if (ngh s b.node).usable then neighbourLost b.node s else s)
  else updateParent (updNgh b.node (fun x => { x with usable := true }) s)

/-- Period and time as the beacon of the parent gives them (R377, R378). -/
def beaconTimes (b : BeaconSeen) (s : State) : State :=
  if isMaster s then alignCheck s
  else
    let s1 := { s with trv := { s.trv with periodNo := b.periodNo, periodUs := b.periodUs, placeAt := some s.now,
                                           placeSlot := beaconSlotOf (bit b.flags 0) b.node } }
    alignCheck (if b.node = s1.trv.parent then measure b s1 else s1)

/-- A beacon of this site that passed its checks: conflicts first, then what it says. -/
def useBeacon (b : BeaconSeen) (s : State) : State :=
  if 64 ≤ b.node then s
  else if b.node = trvNode s then addressClash b s
  else beaconTimes b (beaconRoutes b (beaconHeard b (masterConflict b s)))

/-- A beacon of this site arrives: it is screened as every packet is. -/
def takeBeacon (b : BeaconIn) (s : State) : State :=
  let p := b.block.take 136
  let k := packetHeader p
  if k.serial = s.factory.serial ∨ byteAt p 0 % 16 ≠ 1 ∨ k.service ≠ 2 then s
  else
    let (ok, s1) := screenPacket k (openPayload s p).isSome s
    if ok then useBeacon (beaconSeen k.serial ((openPayload s p).getD []) { frame := b.arrFrame, cycle := b.arrCycle }) s1 else s1

/-- A beacon is received: conflicts, the neighbour's data, its part in site time (R370, R373, R374, R376, R379, R386). -/
def execBeaconReceived (b : BeaconIn) (s : State) : Host.Outcome State Fault Refusal :=
  if !trvReceives s then .next s
  else
    let s1 := countFrame b.fc (hearFrame b.fc s)
    .next (if siteFrame 0 b.fc s then takeBeacon b s1 else s1)

/-- 10 s without a parent beacon clears LOCKED (R378). -/
def execLockTimeout (s : State) : Host.Outcome State Fault Refusal :=
  match s.trv.beaconAt with
  | some t =>
    if !isMaster s ∧ s.trv.locked ∧ t + secF 10 ≤ s.now then
      .next (alignCheck { s with trv := { s.trv with locked := false, lockRun := 0, slewBase := none } })
    else .next s
  | none => .next s

/-- The period of a routing window in which this node advertises is under way (R385). -/
def advertDue (s : State) : Bool :=
  s.clock.legal % 200000 / periodFrames s == 5 * trvNode s && s.trv.advertAt != some (s.clock.legal / 200000)

/-- The routing advertisement of a node, once in each window: 64 entries of next hop, hops and cost (R385). -/
def execRoutingAdvertisement (s : State) : Host.Outcome State Fault Refusal :=
  if !(trvTransmits s && advertDue s) then .next s
  else
    let entry (d : Nat) : List Byte :=
      if d = trvNode s then le 1 d ++ le 1 0 ++ le 2 0
      else le 1 (route s d).next ++ le 1 (route s d).hops ++ le 2 (route s d).cost
    let (k, s1) := ownPacket 1 0xFF 0 (((List.range 64).map entry).flatten) 3 s
    .next (queueOwn k { s1 with trv := { s1.trv with advertAt := some (s.clock.legal / 200000) } })

/-! Leave. -/

/-- The class 5 standing grant is asked for (R387). No rule gives its latest start: a free value. -/
def requestTrv (s : State) : State :=
  let id := nextReq s
  let r : Request := { cls := 5, intPeak := 110, vauxPeak := 16, latest := s.now + Config.trvLatest, standing := true }
  let s1 := submit r s
  { s1 with trv := { s1.trv with leave := some id, leaveAt := none } }

/-- Every 10 s without the grant the link asks again (R387). -/
def execTrvGrantRetry (s : State) : Host.Outcome State Fault Refusal :=
  match s.trv.leaveAt with
  | some t =>
    if trvReceives s ∧ s.trv.transmit ∧ s.trv.leave.isNone ∧ t + secF 10 ≤ s.now then .next (requestTrv s) else .next s
  | none => .next s

/-- A packet under way waits again: it was interrupted by a restart. -/
def requeue (s : State) : State :=
  match s.trv.inFlight with
  | some t =>
    let s1 := { s with trv := { s.trv with inFlight := none } }
    if t.pkt.serial = s.factory.serial then { s1 with trv := { s1.trv with own := t.pkt :: s1.trv.own } }
    else { s1 with trv := { s1.trv with store := t.pkt :: s1.trv.store } }
  | none => s

/-- The link is restarted by a write of TRV_CONFIG, with the NODE before it: routes and alignment are dropped (R389). A node that stopped
for an address conflict stays stopped until its address changes (R379); one that no longer transmits completes its sends (R390). -/
def trvRestart (oldNode : Nat) (s : State) : State :=
  let same := oldNode == trvNode s
  let s1 := (List.range 64).foldl (fun s d => if (route s d).next = 0xFF then s else setRoute d none s) (requeue s)
  let t := s1.trv
  let s2 := { s1 with trv := { t with
    neigh := Vector.replicate 64 {}, parent := 0xFF, depth := 0, master := 0xFD, addrConflict := same && t.addrConflict,
    stopped := same && t.stopped, clashes := if same then t.clashes else [], yielded := false, conflicts := [], locked := false, lockRun := 0,
    offset := 0, slewBase := none, loopDebt := 0, masterSlew := 0, beaconAt := none, placeAt := none, rx := [] } }
  alignCheck (if trvTransmits s2 || !t.transmit then s2 else trvSilent s2)

/-! Commands. -/

/-- TRV_SEND (Table 11-13). While the link does not transmit it completes with result 5. -/
def trvSendCmd (h : Hdr) (p : List Byte) (s : State) : Cmd :=
  let d := byteAt p 0
  let f := byteAt p 1
  let n := numAt p 2 2
  let handle := (s.trv.handleCtr + 1) % 65536
  { form := decide (4 ≤ p.length) && p.length == 4 + n, role := decide (1 ≤ s.roles.role),
    params := (decide (d < 64) || d == 0xFE) && d != trvNode s && decide (f ≤ 1) && !(d == 0xFE && f == 1) && decide (1 ≤ n) &&
      decide (n ≤ 4000),
    free := decide (s.trv.sends.length < 16),
    run :=
      let (k, s1) := ownPacket 0 d (BitVec.ofNat 8 f) (p.drop 4) (if d = 0xFE then 3 else 2) s
      let x : TrvSend := { handle := handle, counter := k.counter, confirm := f == 1, final := d, since := s.now,
                           ack := flagAck h.flags }
      let s2 := { s1 with trv := { s1.trv with handleCtr := handle, sends := s1.trv.sends ++ [x] } }
      { st := if trvTransmits s then queueOwn k s2 else trvSent k.counter 5 s2, status := .queued, data := le 2 handle } }

/-- TRV_SEND sends a host packet (R390). -/
def execTrvSend (h : Hdr) (p : List Byte) (s : State) : Host.Outcome State Fault Refusal :=
  .next (hostCommand h 0x0810 p (trvSendCmd h p) s)

/-- No confirmation within 10 s of the packet's first hop (R390). -/
def execTrvConfirmationTimeout (handle : Nat) (s : State) : Host.Outcome State Fault Refusal :=
  match s.trv.sends.find? (fun x => x.handle == handle && x.confirm) with
  | some x =>
    let under := s.trv.own.any (fun k => k.counter == x.counter) ||
      (match s.trv.inFlight with | some t => t.pkt.serial == s.factory.serial && t.pkt.counter == x.counter | none => false)
    if !under ∧ x.since + secF 10 ≤ s.now then .next (trvSent x.counter 4 s) else .next s
  | none => .next s

/-- TRV_KEY_SET (Table 11-13): a slot that holds no key is not in use (DEDUCED, log 26). -/
def trvKeySetCmd (p : List Byte) (s : State) : Cmd :=
  let k := byteAt p 0
  let key : BitVec 128 := BitVec.ofNat 128 (numAt p 1 16)
  { form := p.length == 17, role := decide (2 ≤ s.roles.role), params := decide (k ≤ 1) && key != 0,
    free := !(k == s.trv.active && trvKey s k != 0),
    run := { st := { s with trv := { s.trv with keys := vset s.trv.keys k { key := key } } } } }

/-- TRV_KEY_SET writes a key slot (R381). -/
def execTrvKeySet (h : Hdr) (p : List Byte) (s : State) : Host.Outcome State Fault Refusal :=
  .next (hostCommand h 0x0811 p (trvKeySetCmd p) s)

/-- TRV_KEY_USE (Table 11-13). -/
def trvKeyUseCmd (p : List Byte) (s : State) : Cmd :=
  let k := byteAt p 0
  let t := frameOf (numAt p 1 6)
  { form := p.length == 7, role := decide (2 ≤ s.roles.role), params := decide (k ≤ 1) && t.isSome,
    run :=
      if trvKey s k = 0 then { st := s, status := .notConfirmed }
      else if t.getD 0 ≤ s.clock.legal then { st := { s with trv := { s.trv with active := k, switchTo := none } } }
      else { st := { s with trv := { s.trv with switchTo := some (k, t.getD 0) } } } }

/-- TRV_KEY_USE schedules the switch of the transmit key slot (R381). -/
def execTrvKeyUse (h : Hdr) (p : List Byte) (s : State) : Host.Outcome State Fault Refusal :=
  .next (hostCommand h 0x0812 p (trvKeyUseCmd p) s)

/-- The first superframe tick at or after the given time: transmission switches slot (R381, R390). -/
def execTrvKeySwitch (s : State) : Host.Outcome State Fault Refusal :=
  match s.trv.switchTo with
  | some (k, t) =>
    if s.regionsRun ∧ s.clock.legal % 400 = 0 ∧ t ≤ s.clock.legal then
      .next { s with trv := { s.trv with active := k, switchTo := none } }
    else .next s
  | none => .next s

end Sys2Proof.Machine
end

