-- ==== Sys2Proof/Machine/Chain.lean ====
section
/-!
DEFINITION. Staging an image and the chain update over Traverse (R451 to R459). Readings: log 29.
-/

namespace Sys2Proof.Config

/-- Frames of the last 10 s in which the node upstream held a block that this node lacked, as seen at a tick: this node does not see them
(R454). -/
opaque upstreamHeld : Nat → Nat

end Sys2Proof.Config

namespace Sys2Proof.Machine

/-- The chain unit rewritten. -/
def updChain (f : Chain → Chain) (s : State) : State := { s with chain := f s.chain }

/-- IMAGE_ID and BLOCKS of the staging slot. -/
def stagedId (s : State) : Nat := hdrId s.store.stagingSlot.header
def stagedBlocks (s : State) : Nat := hdrBlocks s.store.stagingSlot.header

/-- Blocks held without a gap in the staging slot. -/
def stagedHeld (s : State) : Nat := contiguous s.store.stagingSlot

/-- A staging runs (R456). -/
def stagingRuns (s : State) : Bool := s.chain.staging == 1

/-- This node is the origin of the chain. -/
def isOrigin (s : State) : Bool := s.chain.byHost

/-- A chain message goes as a Traverse packet of service 3 and class 1 (R451, R452). -/
def chainSend (dst type : Nat) (body : List Byte) (s : State) : State :=
  let (k, s1) := ownPacket 3 dst 0 (le 1 type ++ le 16 (stagedId s) ++ body) 1 s
  queueOwn k s1

/-- OFFER to the next node (Table 14-8). -/
def sendOffer (s : State) : State :=
  match s.chain.next with
  | some (n, pos) =>
    updChain (fun c => { c with nextAnswered := false, heardAt := s.now })
      (chainSend n 0 (s.store.stagingSlot.header ++ le 1 s.chain.list.length ++ (s.chain.list.map (le 1)).flatten ++ le 1 pos) s)
  | none => s

/-- ANSWER to the node upstream. -/
def sendAnswer (dst result first : Nat) (s : State) : State := chainSend dst 1 (le 1 result ++ le 4 first) s

/-- One block as its two BLOCK messages. -/
def sendBlock (dst k : Nat) (s : State) : State :=
  match s.store.stagingSlot.blocks.find? (fun b => b.index == k) with
  | some b => chainSend dst 2 (le 4 k ++ le 1 1 ++ b.half1 ++ b.tag) (chainSend dst 2 (le 4 k ++ le 1 0 ++ b.half0) s)
  | none => s

/-- Blocks go on while at most 16 are unacknowledged and each is held with every lower one (R453). -/
def pump : Nat → State → State
  | 0, s => s
  | k + 1, s =>
    match s.chain.next with
    | some (n, _) =>
      let b := s.chain.nextFrom
      if s.chain.nextAnswered && decide (b < stagedHeld s) && decide ((b : Int) ≤ s.chain.nextAcked + 16) then
        pump k (updChain (fun c => { c with nextFrom := b + 1 }) (sendBlock n b s))
      else s
    | none => s

/-- The hop goes on. -/
def forward16 (s : State) : State := pump 16 s

/-! The staging slot. -/

/-- The incoming rate, bytes per second: bytes of the last 10 s over the time within it in which the node upstream held a block that this
node lacked (R454). This node does not see that time: a free value of it, at most what has passed (log 29). -/
def incomingRate (s : State) : Nat :=
  let l := s.chain.rateBytes.filter (fun x => decide (s.now < x.1 + secF 10))
  let held := 1 + Config.upstreamHeld s.now % min (secF 10) (s.now + 1)
  (l.map (·.2)).foldl (· + ·) 0 * 20000 / held

/-- UPDATE_DONE of the staging; after a reset the one that would complete a QUEUED UPDATE_START is never sent (R101). -/
def stagingDone (result : Nat) (s : State) : State := if isOrigin s && !s.chain.report then s else updateDone result s

/-- UPDATE_PROGRESS (Table 14-14). -/
def updateProgressEvent (s : State) : State :=
  event 0x0B20 (le 2 (stagedHeld s) ++ le 2 (stagedBlocks s) ++ le 4 (incomingRate s))
    (updChain (fun c => { c with reportAt := s.now }) s)

/-- A staging begins: the slot holds its header alone, and its blocks are erased in groups of 8 (R451). -/
def beginStaging (header : List Byte) (c : Chain) (s : State) : State :=
  askGroup 0 2 0
    { s with store := { s.store with stagingSlot := { header := header } },
             chain := { c with staging := 1, ready := false, erased := 0, progressAt := s.now, sentAt := s.now, reportAt := s.now,
                               heardAt := s.now } }

/-- The staging slot is empty and nothing is staged (R451, R456). -/
def emptyStaging (s : State) : State :=
  let s1 := dropErases 0 s
  journalUpdate 2 0 8 { s1 with store := { s1.store with stagingSlot := {} }, chain := {} }

/-- The own staging ends whole (R456): UPDATE_DONE, and DONE to the origin. -/
def stagingComplete (s : State) : State :=
  let s1 := stagingDone 0 (journalUpdate 2 0 8
    { s with store := { s.store with stagingSlot := { s.store.stagingSlot with complete := true } },
             chain := { s.chain with staging := 2 } })
  if isOrigin s then s1 else chainSend s.chain.origin 7 (le 1 0) s1

/-- A half block is stored; with both halves and the tag the block is checked, and discarded when its tag fails (R445). -/
def putHalf (s : State) (k half : Nat) (data tag : List Byte) (x : ImgSlot) : ImgSlot × Bool :=
  let b0 := (x.blocks.find? (fun b => b.index == k)).getD { index := k }
  let b := if half = 0 then { b0 with half0 := data } else { b0 with half1 := data, tag := tag }
  let rest := x.blocks.filter (fun b => b.index != k)
  if b.whole ∧ !blockOk s (hdrId x.header) b then ({ x with blocks := rest }, false)
  else ({ x with blocks := rest ++ [b] }, true)

/-- A half block arrives at a ready slot: whether its tag holds, and what follows (R453). -/
def stageHalf (k half : Nat) (data tag : List Byte) (s : State) : State × Bool :=
  if holdsBlock s.store.stagingSlot k then (s, true)
  else
    let (x, ok) := putHalf s k half data tag s.store.stagingSlot
    let before := stagedHeld s
    let s1 := { s with store := { s.store with stagingSlot := x },
                       chain := { s.chain with rateBytes := (s.now, data.length + tag.length) ::
                                    s.chain.rateBytes.filter (fun y => decide (s.now < y.1 + secF 10)) } }
    let s1 := if before < stagedHeld s1 then journalUpdate 2 0 8 (updChain (fun c => { c with progressAt := s.now }) s1) else s1
    let s1 := if stagedHeld s1 = stagedBlocks s1 ∧ s1.chain.staging = 1 then stagingComplete s1 else s1
    (s1, ok)

/-! Commands. -/

/-- UPDATE_START (R451, Table 14-13). -/
def updateStartCmd (h : Hdr) (p : List Byte) (s : State) : Cmd :=
  let hdr := p.take 512
  let nodes := (p.drop 513).map BitVec.toNat
  let own := trvNode s
  let c : Chain :=
    { byHost := true, ack := flagAck h.flags, origin := own, list := nodes,
      next := match nodes with | [] => none | n :: _ => some (n, 1),
      entries := { node := own, state := 2 } :: nodes.map (fun n => { node := n, state := 0, heardAt := s.now }) }
  let s1 := beginStaging hdr c s
  let s2 := match nodes with
    | [] => s1
    | _ => updChain (fun c => { c with entries := c.entries.modify 1 (fun e => { e with state := 1 }) }) (sendOffer s1)
  { form := decide (513 ≤ p.length), role := decide (2 ≤ s.roles.role),
    params := byteAt p 512 == nodes.length && decide (nodes.length ≤ 63) && headerOk s hdr &&
      decide (nodes.eraseDups.length = nodes.length) && !nodes.contains own && nodes.all (fun n => decide (n < 64)) &&
      (!s.inRom || nodes.isEmpty),
    free := !stagingRuns s && !s.modes.activating,
    run := { st := s2, status := .queued } }

/-- UPDATE_START (Table 14-13). -/
def execUpdateStart (h : Hdr) (p : List Byte) (s : State) : Host.Outcome State Fault Refusal :=
  .next (hostCommand h 0x0B10 p (updateStartCmd h p) s)

/-- The staging slot is erased: ready, UPDATE_PROGRESS with 0 blocks; a member answers its OFFER (R451, R452). -/
def execStagingSlotReady (s : State) : Host.Outcome State Fault Refusal :=
  if s.regionsRun && stagingRuns s && !s.chain.ready && s.chain.erased == 12 then
    let s1 := updateProgressEvent (updChain (fun c => { c with ready := true, progressAt := s.now }) s)
    .next (if isOrigin s then s1 else sendAnswer s.chain.upstream 0 (stagedHeld s1) s1)
  else .next s

/-- UPDATE_DATA (R445, Table 14-13): a discarded block gives BAD_PARAM. -/
def updateDataCmd (p : List Byte) (s : State) : Cmd :=
  let k := numAt p 0 4
  let half := byteAt p 4
  let r := stageHalf k half ((p.drop 5).take 2048) (p.drop 2053) s
  { form := p.length == (if half = 0 then 2053 else 2069), role := decide (2 ≤ s.roles.role),
    params := decide (half ≤ 1) && (!stagingRuns s || decide (k < stagedBlocks s)),
    free := stagingRuns s && s.chain.ready && isOrigin s,
    run := if r.2 then { st := forward16 r.1 } else { st := r.1, status := .badParam } }

/-- UPDATE_DATA (Table 14-13). -/
def execUpdateData (h : Hdr) (p : List Byte) (s : State) : Host.Outcome State Fault Refusal :=
  .next (hostCommand h 0x0B11 p (updateDataCmd p) s)

/-- A node's chain state is final (Table 14-11). -/
def ChainPos.ended (e : ChainPos) : Bool := decide (3 ≤ e.state)

/-- The origin's chain still has nodes that stage (R456). -/
def chainRuns (s : State) : Bool := isOrigin s && (s.chain.entries.drop 1).any (fun e => !e.ended)

/-- UPDATE_ABORT (R456): ABORT goes down the list, the staging ends, the slot is empty. -/
def updateAbortCmd (p : List Byte) (s : State) : Cmd :=
  let s1 := if isOrigin s then s.chain.list.foldl (fun s n => chainSend n 6 [] s) s else s
  let s2 := if stagingRuns s then stagingDone 1 s1 else s1
  { form := p.length == 0, role := decide (2 ≤ s.roles.role),
    run := { st := if stagingRuns s || chainRuns s then emptyStaging s2 else s } }

/-- UPDATE_ABORT (Table 14-13). -/
def execUpdateAbort (h : Hdr) (p : List Byte) (s : State) : Host.Outcome State Fault Refusal :=
  .next (hostCommand h 0x0B12 p (updateAbortCmd p) s)

/-! Chain messages. -/

/-- Chain messages are taken: the link receives and the application runs. -/
def chainListens (s : State) : Bool := trvReceives s && s.running && !s.inRom

/-- A refused OFFER: ANSWER upstream, DONE to the origin (R456, Table 14-8). -/
def refuseOffer (src origin id result : Nat) (s : State) : State :=
  let (k, s1) := ownPacket 3 src 0 (le 1 1 ++ le 16 id ++ le 1 result ++ le 4 0) 1 s
  let (q, s2) := ownPacket 3 origin 0 (le 1 7 ++ le 16 id ++ le 1 (result + 1)) 1 (queueOwn k s1)
  queueOwn q s2

/-- The chain list of a node that is sent past the node which it feeds, or, at the end, is given one to feed: that node goes to the end
(R454). -/
def reroutedList (cur : Option (Nat × Nat)) (next : Nat) (l : List Nat) : List Nat :=
  let r := match cur with | some (n, _) => n | none => next
  if cur.isSome && r == next then l else l.filter (· != r) ++ [r]

/-- A staging that runs or is complete is offered again (R455): the answer names the resume point; at a new position the node forwards to
the node that follows there (R454). -/
def resumeOffer (src origin : Nat) (nodes : List Nat) (position : Nat) (next : Option (Nat × Nat)) (s : State) : State :=
  let moved := position != s.chain.position
  let other := moved && next.map (·.1) != s.chain.next.map (·.1)
  let s1 := updChain (fun c =>
    { c with upstream := src, origin := origin, position := position, list := if moved then nodes else c.list,
             next := if moved then next else c.next, nextAnswered := c.nextAnswered && !other,
             nextAcked := if other then -1 else c.nextAcked }) s
  let s2 := if s.chain.ready || s.chain.staging == 2 then sendAnswer src 0 (stagedHeld s) s1 else s1
  if other then sendOffer s2 else s2

/-- OFFER (R451, R455, R456): refused while another image or the own host's is staged, or for its header; an image already staged
is resumed; otherwise the slot is erased and the offer goes on to the next node. -/
def execChainOffer (src origin : Nat) (header : List Byte) (nodes : List Nat) (position : Nat) (s : State) :
    Host.Outcome State Fault Refusal :=
  let next : Option (Nat × Nat) := match nodes[position]? with
    | some n => some (n, position + 1)
    | none => none
  if !chainListens s || decide (63 < nodes.length) then .next s
  else if stagingRuns s && (isOrigin s || stagedId s != hdrId header) then .next (refuseOffer src origin (hdrId header) 1 s)
  else if !isOrigin s && s.chain.staging != 0 && stagedId s == hdrId header then
    .next (resumeOffer src origin nodes position next s)
  else if !headerOk s header || s.modes.activating then
    .next (refuseOffer src origin (hdrId header) (if headerOk s header then 1 else 2) s)
  else
    .next (sendOffer (beginStaging header
      { byHost := false, origin := origin, upstream := src, next := next, position := position, list := nodes } s))

/-- CHAIN_NODE (Table 14-14). -/
def chainNode (node result blocks : Nat) (s : State) : State := event 0x0B22 (le 1 node ++ le 1 result ++ le 2 blocks) s

/-- The CHAIN_STATE entry of a node, rewritten on the origin. -/
def updEntry (node : Nat) (f : ChainPos → ChainPos) (s : State) : State :=
  updChain (fun c => { c with entries := updFirst (fun e => e.node == node) (fun e => { f e with shown := true }) c.entries }) s

/-- The CHAIN_STATE entry of a node. -/
def entryOf (s : State) (node : Nat) : ChainPos := (s.chain.entries.find? (fun e => e.node == node)).getD {}

/-- The node after a node in the list, with its position: what its upstream node turns to when it refuses (log 29). -/
def successor (s : State) (node : Nat) : Option (Nat × Nat) :=
  match (s.chain.list.zipIdx 1).find? (fun x => x.1 == node) with
  | some (_, p) =>
    match s.chain.list[p]? with
    | some n => some (n, p + 1)
    | none => none
  | none => none

/-- ANSWER (R452, R455): an accepting receiver is sent blocks from the first one it needs; past a refusing one the chain goes on. -/
def execChainAnswer (src imageId result firstBlock : Nat) (s : State) : Host.Outcome State Fault Refusal :=
  match s.chain.next with
  | some (n, _) =>
    if !(chainListens s && n == src && decide (s.chain.staging ≠ 0) && stagedId s == imageId) then .next s
    else if result = 0 then
      let s1 := updChain (fun c => { c with nextAnswered := true, nextFrom := firstBlock, nextAcked := (firstBlock : Int) - 1,
                                            heardAt := s.now }) s
      .next (forward16 (if isOrigin s then updEntry src (fun e => if e.ended then e else { e with state := 2 }) s1 else s1))
    else
      .next (sendOffer (updChain (fun c => { c with next := successor s src, nextAnswered := false, nextAcked := -1 }) s))
  | none => .next s

/-- BLOCK (R453): stored, acknowledged up to the highest contiguous block, and forwarded. -/
def execChainBlock (src imageId block half : Nat) (data tag : List Byte) (s : State) : Host.Outcome State Fault Refusal :=
  if !(chainListens s && stagingRuns s && !isOrigin s && s.chain.ready && src == s.chain.upstream && stagedId s == imageId &&
      decide (block < stagedBlocks s) && decide (half ≤ 1) && data.length == 2048) then .next s
  else
    let s1 := (stageHalf block half data tag s).1
    .next (forward16 (chainSend src 3 (leInt 4 ((stagedHeld s1 : Int) - 1)) s1))

/-- BLOCK_ACK (R453): further blocks may go. -/
def execChainBlockAck (src imageId highest : Nat) (s : State) : Host.Outcome State Fault Refusal :=
  match s.chain.next with
  | some (n, _) =>
    if !(chainListens s && n == src && decide (s.chain.staging ≠ 0) && stagedId s == imageId && decide (highest < stagedBlocks s)) then .next s
    else .next (forward16 (updChain (fun c => { c with nextAcked := max c.nextAcked highest, heardAt := s.now }) s))
  | none => .next s

/-! Slow hops (R454). -/

/-- The median of some rates: the middle one, or the mean of the two middle ones. -/
def median (l : List Nat) : Nat :=
  let m := l.foldr insertNat []
  let n := m.length
  if n % 2 = 1 then m.getD (n / 2) 0 else (m.getD (n / 2 - 1) 0 + m.getD (n / 2) 0) / 2

/-- The rate at which a hop counts: 0 for a receiver silent for 30 s. -/
def hopRate (now : Nat) (e : ChainPos) : Nat := if e.heardAt + secF 30 ≤ now then 0 else e.rate

/-- Hops below 25 % of the median of those still staging are marked with the time since when they are (R454). -/
def markSlow (s : State) : State :=
  let live := (s.chain.entries.drop 1).filter (fun e => !e.ended)
  let m := median (live.map (hopRate s.now))
  updChain (fun c => { c with entries := c.entries.map (fun e =>
    if !e.ended && e.node != c.origin && decide (4 * hopRate s.now e < m) then { e with slowAt := some (e.slowAt.getD s.now) }
    else { e with slowAt := none }) }) s

/-- A position of the chain takes blocks: it has neither refused nor failed (Table 14-11). -/
def ChainPos.fed (e : ChainPos) : Bool := decide (e.state < 4)

/-- The origin routes around one receiver (R454): its upstream node is given its successor, and it moves to the end, fed by the
previous last node. Nodes that have refused or failed feed none and are fed by none. -/
def bypass (i : Nat) (r : ChainPos) (s : State) : State :=
  let es := s.chain.entries
  let up := (((es.take i).filter (·.fed)).getLast?.getD { node := s.chain.origin }).node
  let succ := (((es.drop (i + 1)).find? (·.fed)).getD {}).node
  let last := (((es.drop (i + 1)).filter (·.fed)).getLast?.getD {}).node
  let moved := es.eraseIdx i ++ [{ r with bypassed := true, slowAt := none, heardAt := s.now }]
  let at1 := moved.findIdx (fun e => e.node == succ)
  let s1 := chainNode r.node 1 r.blocks (updChain (fun c => { c with entries := moved, list := (moved.drop 1).map (·.node) }) s)
  let s2 :=
    if up = s.chain.origin then sendOffer (updChain (fun c => { c with next := some (succ, at1), nextAcked := -1 }) s1)
    else chainSend up 5 (le 1 succ ++ le 1 at1) s1
  chainSend last 5 (le 1 r.node ++ le 1 (es.length - 1)) s2

/-- The first hop that has stayed slow for 60 s, is not the last and has not been bypassed. -/
def slowHop (s : State) : Option (Nat × ChainPos) :=
  ((List.range s.chain.entries.length).map (fun i => (i, s.chain.entries.getD i {}))).find? (fun x =>
    decide (1 ≤ x.1) && (s.chain.entries.drop (x.1 + 1)).any (·.fed) && !x.2.bypassed && !x.2.ended &&
      (match x.2.slowAt with | some t => decide (t + secF 60 ≤ s.now) | none => false))

/-- PROGRESS at the origin (R454): CHAIN_STATE, and the hops are judged. -/
def execChainProgress (src imageId highest rate : Nat) (s : State) : Host.Outcome State Fault Refusal :=
  if !(chainListens s && isOrigin s && decide (s.chain.staging ≠ 0) && stagedId s == imageId &&
      (s.chain.entries.drop 1).any (fun e => e.node == src)) then .next s
  else
    let held := (highest + 1) % 2 ^ 32
    let grew := decide ((entryOf s src).blocks < held)
    let s1 := updEntry src (fun e => { e with blocks := sat 16 held, rate := sat 32 rate, heardAt := s.now,
                                              state := if e.ended then e.state else 2 }) s
    let s2 := markSlow (updChain (fun c => { c with progressAt := if grew then s.now else c.progressAt }) s1)
    match slowHop s2 with
    | some (i, r) => .next (bypass i r s2)
    | none => .next s2

/-- Every 5 s a member reports its progress to the origin (Table 14-8). -/
def execChainProgressSend (s : State) : Host.Outcome State Fault Refusal :=
  if chainListens s && stagingRuns s && !isOrigin s && decide (s.chain.sentAt + secF 5 ≤ s.now) then
    .next (updChain (fun c => { c with sentAt := s.now })
      (chainSend s.chain.origin 4 (leInt 4 ((stagedHeld s : Int) - 1) ++ le 4 (incomingRate s)) s))
  else .next s

/-- REROUTE (R451, R454): the member forwards to another node. -/
def execChainReroute (src imageId next position : Nat) (s : State) : Host.Outcome State Fault Refusal :=
  if chainListens s && !isOrigin s && decide (s.chain.staging ≠ 0) && src == s.chain.origin && stagedId s == imageId then
    .next (sendOffer (updChain (fun c =>
      { c with next := some (next, position), nextAcked := -1, list := reroutedList c.next next c.list }) s))
  else .next s

/-- ABORT (R451): the member's staging slot is emptied. -/
def execChainAbort (src imageId : Nat) (s : State) : Host.Outcome State Fault Refusal :=
  if chainListens s && !isOrigin s && decide (s.chain.staging ≠ 0) && src == s.chain.origin && stagedId s == imageId then
    .next (emptyStaging (if stagingRuns s then stagingDone 1 s else s))
  else .next s

/-- DONE at the origin (R456): CHAIN_NODE. -/
def execChainDone (src imageId result : Nat) (s : State) : Host.Outcome State Fault Refusal :=
  if !(chainListens s && isOrigin s && decide (s.chain.staging ≠ 0) && stagedId s == imageId &&
      (s.chain.entries.drop 1).any (fun e => e.node == src && !e.ended)) then .next s
  else
    let st := if result = 0 then 3 else if result = 2 ∨ result = 3 then 4 else 5
    let k := if result = 0 then stagedBlocks s else (entryOf s src).blocks
    let s1 := updEntry src (fun e => { e with state := st, blocks := sat 16 k }) s
    .next (chainNode src result k (updChain (fun c => { c with progressAt := s.now }) s1))

/-- A receiver silent for 10 s is sent the OFFER again (R455). -/
def execChainReceiverSilent (s : State) : Host.Outcome State Fault Refusal :=
  if chainListens s && decide (s.chain.staging ≠ 0) && s.chain.next.isSome && decide (s.chain.nextAcked + 1 < (stagedBlocks s : Int)) &&
      decide (s.chain.heardAt + secF 10 ≤ s.now) then .next (sendOffer s)
  else .next s

/-- 10 min without progress anywhere end the chain (R456): UPDATE_DONE result 4, CHAIN_NODE result 5 for each node not done. -/
def execChainStall (s : State) : Host.Outcome State Fault Refusal :=
  if !(s.running && (stagingRuns s || chainRuns s) && decide (s.chain.progressAt + secF 600 ≤ s.now)) then .next s
  else
    let s1 := if isOrigin s then
        ((s.chain.entries.drop 1).filter (fun e => !e.ended)).foldl (fun s e =>
          chainNode e.node 5 e.blocks (updEntry e.node (fun e => { e with state := 5 }) s)) s
      else chainSend s.chain.origin 7 (le 1 5) s
    let s2 := stagingDone 4 s1
    .next (if stagingRuns s then emptyStaging s2 else s2)

/-- Every 10 s while staging, progress is reported to the host (Table 14-14). -/
def execUpdateProgress (s : State) : Host.Outcome State Fault Refusal :=
  if s.running && stagingRuns s && decide (s.chain.reportAt + secF 10 ≤ s.now) then .next (updateProgressEvent s) else .next s

/-- The resume point after a reset: the progress word, or the first image block of its NAND block of 64 where a page past the word reads
badly; whether one does is a free value (R446, R455; log 29). -/
def resumePoint (s : State) : Nat :=
  let n := stagedHeld s
  if Config.freeNat s.factory.freeCtr % 2 = 1 then n / 64 * 64 else n

/-- After a reset of any reach a staging resumes (R455): blocks past the resume point are dropped, and the NAND block that holds it is
erased again where it lies below the progress word; a member answers with its resume point, an unfinished erase starts again. -/
def chainResume (s : State) : State :=
  if !stagingRuns s then s
  else
    let n := resumePoint s
    let s := if n < stagedHeld s then
        askErase { what := 4, part := 2, block := n / 64 } (journalUpdate 2 0 8 s.drawFree) else s.drawFree
    let x := { s.store.stagingSlot with blocks := s.store.stagingSlot.blocks.filter (fun b => decide (b.index < n)) }
    let s1 := { s with store := { s.store with stagingSlot := x },
                       chain := { s.chain with nextAnswered := false, heardAt := s.now, sentAt := s.now, reportAt := s.now,
                                               progressAt := s.now, rateBytes := [], report := false } }
    if !s.chain.ready then askGroup 0 2 s.chain.erased (dropErases 0 s1)
    else if isOrigin s then s1
    else sendAnswer s.chain.upstream 0 n s1

end Sys2Proof.Machine
end

