-- ==== Sys2Proof/Machine/Contactless.lean ====
section
/-!
DEFINITION. Card reader and witness tag (R392 to R409).
-/

namespace Sys2Proof.Machine

/-! The reader. -/

/-- READER_CONFIG in force (Table 12-7). -/
def pollFrames (s : State) : Nat := msF (fld s.rdr.active 8 16)
def fieldPwr (s : State) : Nat := fld s.rdr.active 24 8

/-- Modes of the reader (R392). -/
def readerMode (s : State) : Bool :=
  s.modes.mode == .standby || s.modes.mode == .service || s.modes.mode == .commissioning

/-- The reader may work (R83, R392, Table 1-4). -/
def readerOn (s : State) : Bool :=
  s.regionsRun && decide (s.power.shutStep < 2) && !s.faults.reader && readerMode s && bit s.rdr.config 0

/-- The field is on: a full round runs or a card is held (R393, R399). -/
def fieldIsOn (s : State) : Bool := s.rdr.roundAt.isSome || s.rdr.held.isSome

/-- The field goes off: leave ends, no card is held (R393, R399). -/
def fieldOff (st : Nat) (s : State) : State :=
  let s1 := releaseOpt s.rdr.req s
  { s1 with rdr := { s1.rdr with req := none, roundAt := none, held := none, state := st,
                                 offAt := if fieldIsOn s then some s.now else s1.rdr.offAt } }

/-- The field has been off for the 5 ms after which a round whose field went off has ended, and which lie between two rounds (R393,
Table 12-1). -/
def fieldRested (s : State) : Bool :=
  match s.rdr.offAt with
  | some t => decide (t + msF 5 ≤ s.now)
  | none => true

/-- CARD_APDU_DONE (Table 12-11). -/
def apduDone (result : Nat) (response : List Byte) (s : State) : State :=
  let r := s.rdr
  let s1 := { s with rdr := { r with apdu := none, apduAck := false, apduReport := true, heldAt := s.now } }
  match r.apdu with
  | some _ =>
    if r.apduReport then emit 0x0924 (le 1 result ++ le 2 response.length ++ response) r.apduAck s1 else s1
  | none => s1

/-- The reader stops: an exchange under way loses its card (R392, R399). -/
def readerStop (st : Nat) (s : State) : State :=
  let s1 := if s.rdr.apdu.isSome then apduDone 2 [] s else s
  fieldOff st s1

/-- A class 6 request for the field (R393). -/
def requestField (s : State) : State :=
  let id := nextReq s
  let r : Request := { cls := 6, intPeak := 60, vauxPeak := (2 * fieldPwr s + 9) / 10, duration := 2000, latest := s.now + msF 200 }
  let s1 := submit r (releaseOpt s.rdr.req s)
  { s1 with rdr := { s1.rdr with req := some id } }

/-- Leave for the field is held: the round runs; a held card's field stays on (R393, R399). -/
def fieldGranted (id : Nat) (s : State) : State :=
  if s.rdr.req ≠ some id then s
  else
    let s1 := beginOp id s
    if s.rdr.state = 2 then { s1 with rdr := { s1.rdr with state := 3, roundAt := some s.now } } else s1

/-- Leave for the field is refused: the cycle is skipped and counted; a held card is lost (R393; DEDUCED, log 27). -/
def fieldRefused (id : Nat) (s : State) : State :=
  if s.rdr.req ≠ some id then s
  else readerStop 1 { s with rdr := { s.rdr with req := none, refusals := satInc 16 s.rdr.refusals } }

/-- READER_FAULT as the antenna amplitude leaves its window or returns (Tables 12-1, 12-11). -/
def antennaCheck (mv : Nat) (s : State) : State :=
  let c := s.rdr.commissionMv
  let bad := c != 0 && (decide (10 * mv < 6 * c) || decide (14 * c < 10 * mv))
  let ref := if s.modes.mode = .commissioning then mv else c
  let s1 := { s with rdr := { s.rdr with antennaMv := sat 16 mv, antennaFault := bad, commissionMv := ref } }
  if bad = s.rdr.antennaFault then s1 else event 0x0925 (le 1 (if bad then 0 else 1) ++ le 2 (sat 16 mv)) s1

/-- A poll cycle with the amplitude that its detection pulse shows (R392, R393). It is skipped while a round or a held card runs, and does
not begin within 5 ms of the field's end. The first pulse gives the running reference (DESIGN CHOICE, log 27). -/
def execPollCycle (amplitudeMv : Nat) (s : State) : Host.Outcome State Fault Refusal :=
  let r := s.rdr
  let due := match r.pollAt with
    | some t => decide (t + pollFrames s ≤ s.now)
    | none => true
  if !due ∨ !s.regionsRun ∨ !fieldRested s then .next s
  else
    let s1 := { s with rdr := { r with pollAt := some s.now, active := r.config } }
    if !readerOn s1 then .next (readerStop (if s.faults.reader then 7 else 0) s1)
    else if r.req.isSome ∨ r.held.isSome then .next s1
    else
      let s2 := antennaCheck amplitudeMv s1
      let d := (amplitudeMv : Int) - r.reference
      let moved := r.reference != 0 && decide (fld r.config 32 8 * r.reference < 1000 * d.natAbs)
      if !bit r.config 4 || r.again || moved then
        .next (requestField { s2 with rdr := { s2.rdr with state := 2 } })
      else .next { s2 with rdr := { s2.rdr with state := if s2.rdr.antennaFault then 7 else 1, reference := sat 16 amplitudeMv } }

/-- A credential on the wire: type, length, identifier of 10 bytes. -/
def credBytes (c : Cred) : List Byte := le 1 c.type ++ le 1 c.ident.length ++ padTo 10 c.ident

/-- CARD_PRESENTED (Table 12-11). -/
def cardPresented (c : Cred) (s : State) : State := event 0x0920 (credBytes c ++ [c.sak] ++ le 1 (b1 c.iso4) ++ s.stamp) s

/-- CARD_REMOVED (Table 12-11). -/
def cardRemoved (c : Cred) (s : State) : State := event 0x0922 (le 1 c.type ++ padTo 10 c.ident ++ s.stamp) s

/-- The bytes that the cascade levels of a UID bring into the search: a level that more follow begins with the cascade tag 0x88 (R394;
the tag PRESUMED, log 27). -/
def cascadeBytes (u : List Byte) : List Byte :=
  if u.length = 7 then 0x88 :: u else if u.length = 10 then 0x88 :: u.take 3 ++ 0x88 :: u.drop 3 else u

/-- The bits of those bytes in the order in which the search meets them, least significant first within each byte, as one number with the
first bit on top (R395). -/
def searchKey (u : List Byte) : Nat :=
  (padTo 12 (cascadeBytes u)).foldl (fun n b => (List.range 8).foldl (fun m i => 2 * m + b1 (b.getLsbD i)) n) 0

/-- A card among those that the search of R395 finds before and after it: the branch of bit 1 first. -/
def insertCard (c : Card) : List Card → List Card
  | [] => [c]
  | x :: t => if searchKey x.ident ≤ searchKey c.ident then c :: x :: t else x :: insertCard c t

/-- The slot of a 16-slot Inventory in which a tag answers: the 4 bits of its UID after k of them (R396). -/
def inventorySlot (k : Nat) (c : Card) : Nat := ofBytes c.ident / 16 ^ k % 16

/-- The tags that 16-slot Inventories find, up to n more rounds deep: the single answers slot by slot, then each collided slot under a
mask longer by 4 bits (R396). -/
def inventorySlots : Nat → Nat → List Card → List Card
  | 0, _, l => l
  | n + 1, k, l =>
    let at16 := (List.range 16).map (fun j => l.filter (fun c => inventorySlot k c == j))
    (at16.filter (fun m => decide (m.length ≤ 1))).flatten ++
      ((at16.filter (fun m => decide (2 ≤ m.length))).map (inventorySlots n (k + 1))).flatten

/-- The tags that an inventory finds: one alone answers its 1-slot round (R396). -/
def inventory (l : List Card) : List Card := if l.length ≤ 1 then l else inventorySlots 16 0 l

/-- Cards that answer alike are found once. -/
def distinctCards (l : List Card) : List Card :=
  l.foldr (fun c t => c :: t.filter (fun x => x.ident != c.ident)) []

/-- Cards of one type, in the order in which its anticollision finds them. The slots that type B cards draw are theirs: the order of the
operand (R394 to R396; log 27). -/
def cardsFound (type : Nat) (l : List Card) : List Card :=
  if type = 1 then l.foldr insertCard [] else if type = 3 then inventory l else l

/-- The identifier has a length that Table 12-2 gives its type; the reader supports nothing beyond (R394). -/
def identOk (c : Card) : Bool :=
  if c.type = 1 then [4, 7, 10].contains c.ident.length else if c.type = 2 then c.ident.length == 4 else c.ident.length == 8

/-- The bit rate toward a card: the highest that both it and MAX_RATE allow, coded as MAX_RATE; an ISO/IEC 15693 tag has its one high data
rate (R394). -/
def cardRate (s : State) (c : Card) : Nat := if c.type = 3 then 0 else min c.rate (fld s.rdr.active 5 2)

/-- Credentials of a round: the types in use in the order of polling, without the own witness tag, four at most (R394 to R397). -/
def credentials (s : State) (cards : List Card) : List Cred :=
  let of (k : Nat) : List Card :=
    if bit s.rdr.active k then
      cardsFound k (distinctCards (cards.filter (fun c => c.type == k && identOk c && c.ident != objBytes s.factory.tagUid)))
    else []
  ((of 1 ++ of 2 ++ of 3).take 4).map (fun c => { type := c.type, ident := c.ident, sak := c.sak, iso4 := c.iso4 && c.type != 3, rate := cardRate s c })

/-- Credentials reported before: missing in two consecutive rounds, they are removed (R398). -/
def roundRemovals (found : List Cred) (s : State) : State :=
  let seen (c : Cred) : Bool := found.any (fun f => f.type == c.type && f.ident == c.ident)
  let upd := s.rdr.present.map (fun c => { c with missed := if seen c then 0 else c.missed + 1 })
  let s1 := { s with rdr := { s.rdr with present := upd.filter (fun c => decide (c.missed < 2)) } }
  (upd.filter (fun c => decide (2 ≤ c.missed))).foldl (fun s c => cardRemoved c s) s1

/-- A full round ends: the multiple-card rule, and the card that is held (R393, R398, R399). -/
def execReaderRoundEnd (cards : List Card) (s : State) : Host.Outcome State Fault Refusal :=
  if s.rdr.state ≠ 3 then .next s
  else
    let found := credentials s cards
    let s1 := roundRemovals found s
    let known (c : Cred) : Bool := s1.rdr.present.any (fun f => f.type == c.type && f.ident == c.ident)
    let ids := found.map credBytes
    let s2 := match found with
      | [c] =>
        if known c then s1 else cardPresented c { s1 with rdr := { s1.rdr with present := s1.rdr.present ++ [c] } }
      | _ :: _ :: _ =>
        if ids.length = s1.rdr.several.length ∧ ids.all (s1.rdr.several.contains ·) then s1
        else event 0x0921 (le 1 found.length ++ (found.map credBytes).flatten) s1
      | [] => s1
    let r := { s2.rdr with cards := found.length, several := if 2 ≤ found.length then ids else [],
                           again := !found.isEmpty || !s2.rdr.present.isEmpty, roundAt := none }
    let s3 := { s2 with rdr := r }
    match found with
    | [c] =>
      if c.iso4 then .next { s3 with rdr := { r with state := 6, held := some c, heldAt := s.now, renewAt := s.now } }
      else .next (fieldOff 4 s3)
    | [] => .next (fieldOff 1 s3)
    | _ => .next (fieldOff 5 s3)

/-- 2 s without a CARD_APDU release the held card (R399). -/
def execCardHoldTimeout (s : State) : Host.Outcome State Fault Refusal :=
  if s.rdr.held.isSome ∧ s.rdr.apdu.isNone ∧ s.rdr.heldAt + secF 2 ≤ s.now then .next (fieldOff 4 s) else .next s

/-- While a card is held the reader asks leave again every 100 ms (R399). -/
def execReaderLeaveRenew (s : State) : Host.Outcome State Fault Refusal :=
  if s.rdr.held.isSome ∧ s.rdr.renewAt + msF 100 ≤ s.now then
    .next (requestField { s with rdr := { s.rdr with renewAt := s.now } })
  else .next s

/-- CARD_APDU (R409). -/
def cardApduCmd (h : Hdr) (p : List Byte) (s : State) : Cmd :=
  let ms := numAt p 0 2
  let n := numAt p 2 2
  { form := decide (4 ≤ p.length) && p.length == 4 + n, role := decide (1 ≤ s.roles.role), mode := readerMode s,
    params := decide (10 ≤ ms) && decide (ms ≤ 5000) && decide (4 ≤ n) && decide (n ≤ 1024),
    free := s.rdr.apdu.isNone,
    run :=
      if s.rdr.held.isNone then { st := s, status := .notConfirmed }
      else
        { st := { s with rdr := { s.rdr with apdu := some (p.drop 4, s.now, ms), apduAck := flagAck h.flags, apduReport := true,
                                             heldAt := s.now } },
          status := .queued } }

/-- CARD_APDU exchanges one APDU with the held card (R399, R409). -/
def execCardApdu (h : Hdr) (p : List Byte) (s : State) : Host.Outcome State Fault Refusal :=
  .next (hostCommand h 0x0910 p (cardApduCmd h p) s)

/-- The card answers (0), the time-out passes (1), or the card is lost (2) (R399, R409). -/
def execCardApduDone (result : Nat) (response : List Byte) (s : State) : Host.Outcome State Fault Refusal :=
  match s.rdr.apdu with
  | some (_, t, ms) =>
    if result = 0 then .next (apduDone 0 response s)
    else if result = 1 ∧ t + msF ms ≤ s.now then .next (apduDone 1 [] s)
    else if result = 2 then .next (fieldOff 1 (apduDone 2 [] s))
    else .next s
  | none => .next s

/-- A round is abandoned once it has run for 100 ms (R393). -/
def roundOver (s : State) : Bool :=
  match s.rdr.roundAt with
  | some t => s.rdr.state == 3 && decide (t + msF 100 ≤ s.now)
  | none => false

/-- The reader's work of a frame: it stops when its mode goes, and abandons a round that runs too long (R392, R393, R399). -/
def readerFrame (s : State) : State :=
  let off := !(s.regionsRun && decide (s.power.shutStep < 2) && !s.faults.reader && readerMode s)
  if off && (s.rdr.req.isSome || s.rdr.held.isSome || decide (1 ≤ s.rdr.state) && decide (s.rdr.state ≤ 6)) then
    readerStop (if s.faults.reader then 7 else 0) s
  else if roundOver s then fieldOff 1 s
  else s

/-! The witness tag: field side. -/

/-- The application identifier of the witness tag (R400). -/
def witnessAid : List Byte := [0xF0, 0x44, 0x56, 0x48, 0x58, 0x38, 0x57]

/-- A response of the tag: data and status words. -/
def tagAnswer (data : List Byte) (sw1 sw2 : Byte) (s : State) : State :=
  { s with tag := { s.tag with response := data ++ [sw1, sw2] } }

/-- SELECT (Table 12-3). -/
def execWtagSelect (aid : List Byte) (s : State) : Host.Outcome State Fault Refusal :=
  if !s.tag.field then .next s
  else if aid = witnessAid then .next (tagAnswer [] 0x90 0x00 { s with tag := { s.tag with selected := true } })
  else .next (tagAnswer [] 0x6A 0x82 s)

/-- READ BINARY (Table 12-3); Le 0 reads 256 bytes. -/
def execWtagReadBinary (block len : Nat) (s : State) : Host.Outcome State Fault Refusal :=
  if !s.tag.field then .next s
  else if !s.tag.selected then .next (tagAnswer [] 0x69 0x86 s)
  else if 1023 < block then .next (tagAnswer [] 0x6A 0x86 s)
  else .next (tagAnswer (storeBytes s (256 * block) (if len % 256 = 0 then 256 else len % 256)) 0x90 0x00 s)

/-- GET LIVE STATUS (Table 12-5): TIME is that of the VBAT clock, which keeps legal time without VAUX (R79, R404). -/
def execGetLiveStatus (len harvestMv : Nat) (s : State) : Host.Outcome State Fault Refusal :=
  if !s.tag.field then .next s
  else if !s.tag.selected then .next (tagAnswer [] 0x69 0x86 s)
  else if len ≠ 16 then .next (tagAnswer [] 0x67 0x00 s)
  else
    .next (tagAnswer (packBytes [(stampOf s.clock.legal, 48), (b1 s.seals.broken, 1), (b1 s.seals.tamper, 1),
      (b1 s.clock.valid, 1), (b1 (s.power.supply == .on), 1), (s.seals.openCount, 4), (stampOf s.seals.brokenAt, 48),
      (harvestMv / 10, 16), (0, 8)]) 0x90 0x00 { s with tag := { s.tag with harvestMv := sat 16 harvestMv } })

/-- Address of visit-note slot k. -/
def noteAt (k : Nat) : Nat := 0x7000 + 512 * k

/-- Slot k holds a committed note: its commit word is the complement of the CRC-32C of bytes 0 to 503 (R406). -/
def noteValid (s : State) (k : Nat) : Bool :=
  let b := storeBytes s (noteAt k) 512
  numAt b 508 4 == 0xFFFFFFFF - crc32c (b.take 504)

/-- NOTE_NO of slot k. -/
def noteNo (s : State) (k : Nat) : Nat := ofBytes (storeBytes s (noteAt k) 4)

/-- The IMPORTED bits, and NEXT_NOTE_NO (Table 12-4). -/
def importedMask (s : State) : BitVec 64 := BitVec.ofNat 64 (ofBytes (storeBytes s 0xF8 8))
def nextNoteNo (s : State) : Nat := ofBytes (storeBytes s 0xF4 4)

/-- Slot k is free (R405). -/
def noteFree (s : State) (k : Nat) : Bool := !noteValid s k || bit (importedMask s) k

/-- The committed slot with the highest NOTE_NO. -/
def newestNote (s : State) : Option Nat :=
  ((List.range 64).filter (noteValid s)).foldl (fun m k =>
    match m with
    | none => some k
    | some j => if noteNo s j < noteNo s k then some k else some j) none

/-- The free slot after the newest note (R405). -/
def chooseSlot (s : State) : Option Nat :=
  let first := match newestNote s with
    | some k => k + 1
    | none => 0
  ((List.range 64).map (fun i => (first + i) % 64)).find? (noteFree s)

/-- Bytes 0 to 507 of a note (Table 12-8). -/
def noteBytes (s : State) (data : List Byte) : List Byte :=
  let b := le 4 (nextNoteNo s) ++ stampB s.clock.legal ++ le 2 (packBits [(b1 s.clock.valid, 1), (b1 (s.power.supply == .on), 1)]) ++
    data.take 16 ++ le 2 (data.length - 16) ++ padTo 474 (data.drop 16)
  b ++ le 4 (crc32c b)

/-- The word that makes a slot hold no note: a free value x, moved on in its high half until it is the commit word neither of the bytes
that are there nor, with whatever low half, of the bytes to come (R406). -/
def spoiled (old new x : Nat) : Nat :=
  ((List.range 3).map (fun j => (x + 65536 * j) % 2 ^ 32)).find? (fun w => w != old && w / 65536 != new / 65536) |>.getD x

/-- Steps 2 to 4 of Table 12-6 as far as the field holds: `lastStep` is the last step completed. A collapse in step 4 leaves the low half
of the commit word. -/
def appendSteps (k : Nat) (data : List Byte) (lastStep : Nat) (s : State) : State :=
  let b := noteBytes s data
  let good := 0xFFFFFFFF - crc32c (b.take 504)
  let commit := le 4 good
  let there := 0xFFFFFFFF - crc32c (storeBytes s (noteAt k) 504)
  let word := spoiled there good (Config.spoiledCommit k b)
  let s1 := if 2 ≤ lastStep then
      putStore 0xF8 (objBytes (setBit (importedMask s) k false)) (putStore (noteAt k + 508) (le 4 word) s) else s
  let s2 := if 3 ≤ lastStep then putStore 0xF4 (le 4 (nextNoteNo s + 1)) (putStore (noteAt k) b s1) else s1
  if 4 ≤ lastStep then putStore (noteAt k + 508) commit s2
  else if lastStep = 3 then
    let s3 := putStore (noteAt k + 508) (commit.take 2) s2
    { s3 with tag := { s3.tag with torn := satInc 16 s3.tag.torn } }
  else s2

/-- APPEND NOTE (Tables 12-3, 12-6). -/
def execAppendNote (harvestMv reserveMv : Nat) (data : List Byte) (lastStep : Nat) (s : State) :
    Host.Outcome State Fault Refusal :=
  if !s.tag.field then .next s
  else if !s.tag.selected then .next (tagAnswer [] 0x69 0x86 s)
  else if data.length < 16 ∨ 490 < data.length then .next (tagAnswer [] 0x67 0x00 s)
  else if harvestMv < 2400 ∨ reserveMv < 2300 then .next (tagAnswer [] 0x69 0x85 s)
  else
    match chooseSlot s with
    | none => .next (tagAnswer [] 0x6A 0x84 s)
    | some k =>
      if !bit s.tag.config 0 then .next (tagAnswer [] 0x69 0x82 s)
      else
        let no := nextNoteNo s
        let s1 := appendSteps k data lastStep s
        let s1 := { s1 with tag := { s1.tag with lastStep := min lastStep 5 } }
        if 5 ≤ lastStep then .next (tagAnswer (le 4 no) 0x90 0x00 s1)
        else .next { s1 with tag := { s1.tag with field := false, selected := false, response := [] } }

/-- A field appears on the tag or vanishes (R400). -/
def execWtagFieldChange (present : Bool) (harvestMv : Nat) (s : State) : Host.Outcome State Fault Refusal :=
  .next { s with tag := { s.tag with field := present, selected := s.tag.selected && present && s.tag.field,
                                     harvestMv := sat 16 harvestMv } }

/-! The witness tag: wire side. -/

/-- The committed note not yet imported with the lowest NOTE_NO (R405). -/
def nextImport (s : State) : Option Nat :=
  ((List.range 64).filter (fun k => noteValid s k && !bit (importedMask s) k)).foldl (fun m k =>
    match m with
    | none => some k
    | some j => if noteNo s k < noteNo s j then some k else some j) none

/-- Class 7 leave for the next note (R405). No rule gives the latest start: a free value. -/
def requestImport (s : State) : State :=
  match (if s.faults.witness then none else nextImport s) with
  | some _ =>
    let id := nextReq s
    let r : Request := { cls := 7, intPeak := 5, vauxPeak := 1, duration := 20, latest := s.now + Config.importLatest }
    let s1 := submit r s
    { s1 with tag := { s1.tag with importReq := some id } }
  | none => s

/-- VAUX is present and the wire side runs on a store that is not faulty (R17, R403, R405). -/
def wireSide (s : State) : Bool := s.running && !s.faults.witness && decide (s.power.shutStep < 6)

/-- Committed notes not yet imported ask leave (R405). -/
def execVisitNoteImport (s : State) : Host.Outcome State Fault Refusal :=
  if wireSide s ∧ s.tag.importReq.isNone then .next (requestImport s) else .next s

/-- Leave is held: the note is copied, its IMPORTED bit set, VISIT_NOTE emitted; the next note follows (R405). -/
def importGranted (id : Nat) (s : State) : State :=
  if s.tag.importReq ≠ some id then s
  else
    let s1 := release id { s with tag := { s.tag with importReq := none } }
    match (if s.faults.witness then none else nextImport s1) with
    | some k =>
      let b := storeBytes s1 (noteAt k) 512
      let s2 := { s1 with tag := { s1.tag with notes := (b :: s1.tag.notes).take 64 } }
      let s2 := putStore 0xF8 (objBytes (setBit (importedMask s2) k true)) s2
      requestImport (event 0x0923 (b.take 10 ++ (b.drop 12).take 16) s2)
    | none => s1

/-- Leave for an import is refused: it is asked again with the next import. -/
def importRefused (id : Nat) (s : State) : State :=
  if s.tag.importReq = some id then { s with tag := { s.tag with importReq := none } } else s

/-- A totals snapshot of unit u (R402). -/
def snapshot (s : State) (u : Nat) : List Byte :=
  if u < 8 ∧ !s.present u then List.replicate 256 0
  else
    let r : Record := { type := 0x80, outlet := u, seq := newestSeq s, time := s.energy.lastShare,
                        timeStatus := timeStatus s false false, meterFlags := meterFlags s u, values := (accOf s u).values,
                        tariffs := tariffValues s u }
    { r with sig := signature s r.signed : Record }.bytes

/-- Nine snapshots go to the inactive copy, and the copies are switched (R402). -/
def writeTotals (s : State) : State :=
  let a := ofBytes (storeBytes s 0xF0 1)
  let base := if a = 1 then 0x1000 else 0x2000
  let s1 := putStore base (((List.range 9).map (snapshot s)).flatten) s
  let s1 := putStore 0xF0 (le 1 (if a = 1 then 0 else 1)) s1
  { s1 with tag := { s1.tag with totalsAt := s.now, lastTotals := s.energy.lastShare } }

/-- Every TOTALS_MIN minutes, and once more during the shutdown from the final save (R402); `waitUs` is the wait for the semaphore
(R407). -/
def execTotalsSnapshot (waitUs : Nat) (s : State) : Host.Outcome State Fault Refusal :=
  let due := wireSide s && (s.tag.totalsAt == 0 || decide (s.tag.totalsAt + secF (60 * fld s.tag.config 8 8) ≤ s.now))
  let last := !s.faults.witness && s.power.pfw && s.energy.stopped && decide (s.power.shutStep < 6) && decide (s.tag.totalsAt < s.power.pfwAt)
  if due || last then
    let s1 := writeTotals s
    .next { s1 with tag := { s1.tag with waitMax := max s1.tag.waitMax (sat 16 waitUs) } }
  else .next s

/-- SEAL_STATE bits [255:0] as the store holds them (Table 7-14). -/
def sealBytes (s : State) : List Byte :=
  let x := s.seals
  packBytes [(b1 x.loopIntact, 1), (b1 x.broken, 1), (b1 x.unverified, 1), (b1 x.tamper, 1), (x.openCount, 4), (0, 8),
    (stampOf x.brokenAt, 48), (x.brokenSeq, 64), (stampOf x.resealedAt, 48), (x.resealSeq, 64), (0, 16)]

/-- The wire side's constant part, SEAL_STATE and MET_HASH, written when they differ (R401, R403). -/
def witnessSync (s : State) : State :=
  let head := le 2 1 ++ le 6 0 ++ objBytes s.factory.serial ++ objBytes s.factory.signKey ++ sealBytes s ++ objBytes s.seals.metHash
  if s.faults.witness ∨ storeBytes s 0 0xF0 = head then s else putStore 0 head s

end Sys2Proof.Machine
end

