-- ==== Sys2Proof/Machine/Display.lean ====
section
/-!
DEFINITION. The e-paper price display: rectangles and their queue, rails, waveforms, temperature, the price area, the always-on area,
the totals page, the crack loop and the front light (R410 to R427). Readings: log 28.
-/

namespace Sys2Proof.Machine

/-! Configuration (Table 13-3). -/

/-- Fields of DISPLAY_CONFIG. -/
def dcWidth (g : BitVec 144) : Nat := fld g 0 11
def dcHeight (g : BitVec 144) : Nat := fld g 11 11
def dcGrey (g : BitVec 144) : Bool := bit g 22
def dcScanHz (g : BitVec 144) : Nat := fld g 24 7
def dcCrackBlocks (g : BitVec 144) : Bool := bit g 31
def dcPriceX (g : BitVec 144) : Nat := fld g 40 11
def dcPriceY (g : BitVec 144) : Nat := fld g 51 11
def dcLayout (g : BitVec 144) : Nat := fld g 62 2
def dcAonX (g : BitVec 144) : Nat := fld g 64 11
def dcAonY (g : BitVec 144) : Nat := fld g 75 11
def dcAonW (g : BitVec 144) : Nat := fld g 86 9
def dcAonH (g : BitVec 144) : Nat := fld g 95 8
def dcAonRefresh (g : BitVec 144) : Nat := fld g 103 8
def dcCrackMax (g : BitVec 144) : Nat := fld g 111 8
def dcEasePeak (g : BitVec 144) : Nat := fld g 119 16

/-- Width and height of the price area for a layout (Table 13-3). -/
def layoutSize (l : Nat) : Nat × Nat := if l = 0 then (400, 120) else if l = 1 then (640, 200) else (960, 300)

/-- x, y, width and height of an area. -/
abbrev Area := Nat × Nat × Nat × Nat

/-- The price area (R420). -/
def priceArea (g : BitVec 144) : Area := (dcPriceX g, dcPriceY g, (layoutSize (dcLayout g)).1, (layoutSize (dcLayout g)).2)

/-- The always-on area (R422). -/
def aonArea (g : BitVec 144) : Area := (dcAonX g, dcAonY g, dcAonW g, dcAonH g)

/-- Two areas share a pixel. -/
def overlaps (a b : Area) : Bool :=
  decide (a.1 < b.1 + b.2.2.1) && decide (b.1 < a.1 + a.2.2.1) &&
    decide (a.2.1 < b.2.1 + b.2.2.2) && decide (b.2.1 < a.2.1 + a.2.2.2)

/-- An area lies within the panel. -/
def withinPanel (g : BitVec 144) (a : Area) : Bool :=
  decide (a.1 + a.2.2.1 ≤ dcWidth g) && decide (a.2.1 + a.2.2.2 ≤ dcHeight g)

/-- A host rectangle under R418. -/
def rectOk (g : BitVec 144) (a : Area) : Bool :=
  decide (a.1 % 8 = 0) && decide (a.2.2.1 % 8 = 0) && decide (0 < a.2.2.1) && decide (0 < a.2.2.2) && withinPanel g a &&
    !overlaps a (priceArea g)

/-- The scan time is at most 1 / SCAN_HZ: lines of (WIDTH / 8 + 16) periods of 40 ns (R411). -/
def scanFits (g : BitVec 144) : Bool :=
  decide (dcHeight g * (dcWidth g / 8 + 16) * dcScanHz g ≤ 25000000)

/-- The area of a rectangle. -/
def Rect.area (r : Rect) : Area := (r.x, r.y, r.w, r.h)

/-- The parts of the panel around the price area (R423). -/
def hostAreas (g : BitVec 144) : List Area :=
  let p := priceArea g
  let all : List Area :=
    [(0, 0, dcWidth g, p.2.1), (0, p.2.1, p.1, p.2.2.2),
     (p.1 + p.2.2.1, p.2.1, dcWidth g - (p.1 + p.2.2.1), p.2.2.2),
     (0, p.2.1 + p.2.2.2, dcWidth g, dcHeight g - (p.2.1 + p.2.2.2))]
  all.filter (fun a => decide (0 < a.2.2.1) && decide (0 < a.2.2.2))

/-! Events. -/

/-- DISPLAY_DONE (Table 13-6). -/
def displayDone (r : Rect) (result : Nat) (s : State) : State :=
  if r.report then emit 0x0A20 (le 2 r.handle ++ le 1 result ++ le 1 r.band ++ s.stamp) r.ack s else s

/-- DISPLAY_FAULT (Table 13-6). -/
def displayFault (kind : Nat) (detail : Int) (s : State) : State :=
  event 0x0A21 (le 1 kind ++ leInt 2 detail ++ s.stamp) s

/-- FRONT_LIGHT (Table 13-6). -/
def lightEvent (on ack : Bool) (s : State) : State := emit 0x0A22 (le 1 (b1 on) ++ s.stamp) ack s

/-! The queue (R419). -/

/-- The display unit rewritten. -/
def updDisp (f : Display → Display) (s : State) : State := { s with disp := f s.disp }

/-- Drives may be made: no crack, the display block is not faulty. -/
def displayUsable (s : State) : Bool := !s.disp.crack && !s.faults.display && decide (s.power.shutStep < 2) && !s.power.pfw

/-- Host updates queued. -/
def hostQueued (d : Display) : Nat := (d.queue.filter (·.host)).length

/-- The band whose range contains a temperature in 0.1 degC and that holds a loaded table; 15 none (R416). -/
def bandAt (d : Display) (t : Int) : Nat :=
  ((List.range 12).find? (fun k =>
    let w := vget d.waves k {}
    (List.range 3).any (fun i => vget w.scans i 0 != 0) && decide (w.low * 10 ≤ t) && decide (t < w.high * 10))).getD 15

/-- Scans of a table, 0 when it is empty. -/
def scansOf (d : Display) (band kind : Nat) : Nat := vget (vget d.waves band {}).scans kind 0

/-- Scans that a request counts: the table of the last reading's band; with none, the longest loaded of its kind. -/
def requestScans (d : Display) (kind : Nat) : Nat :=
  if d.band < 12 then scansOf d d.band kind else ((List.range 12).map (fun b => scansOf d b kind)).foldl max 0

/-- Whole frames of n scans. -/
def scanFrames (g : BitVec 144) (n : Nat) : Nat := (n * 20000 + max 1 (dcScanHz g) - 1) / max 1 (dcScanHz g)

/-- Rectangle i of the queue rewritten. -/
def updQueue (i : Nat) (f : Rect → Rect) (s : State) : State :=
  updDisp (fun d => { d with queue := d.queue.modify i f }) s

/-- A rectangle asks leave in class 9 (R413). -/
def askRect (i : Nat) (r : Rect) (s : State) : State :=
  let g := s.disp.config
  let id := nextReq s
  let n := scanFrames g (requestScans s.disp r.kind) + (if s.disp.state = 2 then 0 else msF 20)
  let q : Request :=
    { cls := 9, requester := 0, intPeak := 40, vauxPeak := dcEasePeak g, duration := max 1 (min 65535 n),
      latest := s.now + secF 60 }
  updQueue i (fun x => { x with req := some id, retryAt := none }) (submit q s)

/-- Queue place i can start as soon as leave is held: it overlaps no rectangle in flight and no earlier queued one (R419). -/
def canStart (d : Display) (i : Nat) (r : Rect) : Bool :=
  (d.flight ++ d.queue.take i).all (fun x => !overlaps x.area r.area)

/-- Rectangles in flight, and queued ones that have asked leave or wait to ask again. -/
def slotsUsed (d : Display) : Nat :=
  d.flight.length + (d.queue.filter (fun r => r.req.isSome || r.retryAt.isSome)).length

/-- Every queued rectangle that can start asks leave, in order, while places in flight are free. -/
def serveQueue (s : State) : State :=
  if !displayUsable s || s.disp.tempFault then s
  else
    (List.range s.disp.queue.length).foldl (fun s i =>
      match s.disp.queue[i]? with
      | some r =>
        if r.req.isNone && r.retryAt.isNone && decide (slotsUsed s.disp < 4) && canStart s.disp i r &&
            (!s.disp.outOfBand || scansOf s.disp s.disp.band r.kind != 0) then askRect i r s else s
      | none => s) s

/-- A rectangle joins the tail of the queue. -/
def queueTail (r : Rect) (s : State) : State := serveQueue (updDisp (fun d => { d with queue := d.queue ++ [r] }) s)

/-- A rectangle joins the head of the queue. -/
def queueHead (r : Rect) (s : State) : State := serveQueue (updDisp (fun d => { d with queue := r :: d.queue }) s)

/-- Updates of areas that count as host updates, made only while a place is free (R419, R422). -/
def queueAreas (as : List Area) (kind : Nat) (totals : Bool) (s : State) : State :=
  as.foldl (fun s a =>
    if displayUsable s && decide (hostQueued s.disp < 8) then
      queueTail { x := a.1, y := a.2.1, w := a.2.2.1, h := a.2.2.2, kind := kind, totals := totals } s
    else s) s

/-! The price area (R420, R421, R239). -/

/-- The pending calendar entry that starts first. -/
def nextEntry (s : State) : Option CalEntry := earliestEntry (calFind s (fun e => e.state == 1))

/-- What the price area should show: the active version, and the start of the announced entry plus 1. -/
def priceWanted (s : State) : Nat × Nat :=
  (versionOf s s.billing.active, match nextEntry s with
    | some e => e.start + 1
    | none => 0)

/-- A price-area drive is asked for; one still queued is replaced (R419, R420). -/
def requestPrice (s : State) : State :=
  let a := priceArea s.disp.config
  let w := priceWanted s
  let gone := s.disp.queue.filter (fun r => r.price && !r.redrive)
  let s1 := gone.foldl (fun s r => releaseOpt r.req s) s
  let s1 := updDisp (fun d => { d with asked := w, queue := d.queue.filter (fun r => !(r.price && !r.redrive)) }) s1
  queueHead { x := a.1, y := a.2.1, w := a.2.2.1, h := a.2.2.2, price := true, host := false } s1

/-- The price area is redrawn when it no longer shows what it should (R239, R420). -/
def followPrice (s : State) : State :=
  if displayUsable s && s.running && decide (s.disp.asked ≠ priceWanted s) then requestPrice s else s

/-- An interrupted price drive (R421). -/
def priceInterrupted (s : State) : State :=
  priceCheck (journalApp 0x14 0 8 { s with disp := { s.disp with dirty := true }, billing := { s.billing with displayed := 0 } })

/-- Every rectangle is abandoned with a result; a price drive among them counts as interrupted, a queued one too when `queuedToo`
(R421, R424). -/
def abandonAll (result : Nat) (queuedToo : Bool) (s : State) : State :=
  let fl := s.disp.flight
  let qu := s.disp.queue
  let hit := fl.any (·.price) || (queuedToo && qu.any (·.price)) || qu.any (fun r => r.price && r.redrive)
  let s1 := (fl ++ qu).foldl (fun s r => releaseOpt r.req s) s
  let s1 := updDisp (fun d => { d with flight := [], queue := [], idleAt := s.now }) s1
  let s1 := (fl ++ qu.filter (·.handle != 0)).foldl (fun s r => displayDone r result s) s1
  if hit then priceInterrupted s1 else s1

/-! Rails (R412, R417). -/

/-- The rail start begins when a rectangle holds leave and the rails are down. -/
def startRails (s : State) : State :=
  if s.disp.state = 0 ∧ s.disp.retryAt = none ∧ displayUsable s ∧ s.disp.queue.any (·.granted) then
    updDisp (fun d => { d with state := 1 }) s
  else s

/-- The rails fall, from wherever they stand (R412, R424). -/
def lowerRails (s : State) : State :=
  if s.disp.state = 1 ∨ s.disp.state = 2 then updDisp (fun d => { d with state := 3, scanAt := none }) s else s

/-- Leave is held for a rectangle (R413). -/
def displayGranted (id : Nat) (s : State) : State :=
  if s.disp.queue.any (fun r => r.req == some id) then
    let s1 := beginOp id s
    startRails (updDisp (fun d =>
      { d with queue := d.queue.map (fun r => if r.req = some id then { r with granted := true } else r) }) s1)
  else release id s

/-- Leave is refused, or a reservation displaced: asked again 1 s later (R413). -/
def displayRefused (id : Nat) (s : State) : State :=
  let now := s.now
  updDisp (fun d =>
    { d with queue := d.queue.map (fun r =>
        if r.req = some id then { r with req := none, granted := false, retryAt := some now } else r) }) s

/-- 1 s after a refusal or a displacement a queued rectangle asks leave again (R413). -/
def execDisplayRequestRetry (rect : Nat) (s : State) : Host.Outcome State Fault Refusal :=
  match s.disp.queue[rect]? with
  | some r =>
    match r.retryAt with
    | some t =>
      if s.regionsRun ∧ t + secF 1 ≤ s.now then .next (serveQueue (updQueue rect (fun x => { x with retryAt := none }) s))
      else .next s
    | none => .next s
  | none => .next s

/-- Every rail has reached 90 % in order and VCOM is set: waveform drive may begin (R412). -/
def execRailStartDone (s : State) : Host.Outcome State Fault Refusal :=
  if s.regionsRun ∧ s.disp.state = 1 then
    .next (updDisp (fun d => { d with state := 2, railTries := 0, idleAt := s.now, scanAt := none }) s)
  else .next s

/-- A rail misses its feedback time-out (R417): the rails fall; one retry 1 s later; the second failure sets RAIL_FAULT and
makes the block faulty. -/
def execRailFeedbackTimeout (rail : Nat) (s : State) : Host.Outcome State Fault Refusal :=
  if !(s.regionsRun && s.disp.state == 1 && decide (rail < 5)) then .next s
  else
    let s1 := lowerRails s
    if s.disp.railTries = 0 then
      .next (updDisp (fun d => { d with railTries := 1, retryAt := some s.now }) s1)
    else
      let s2 := { s1 with disp := { s1.disp with railFault := true, retryAt := none },
                          faults := { s1.faults with display := true } }
      .next (abandonAll 2 true (displayFault 3 rail s2))

/-- 1 s after a rail failure the rail start is tried once more (R417). -/
def execRailRetry (s : State) : Host.Outcome State Fault Refusal :=
  match s.disp.retryAt with
  | some t =>
    if s.regionsRun ∧ s.disp.state = 0 ∧ t + secF 1 ≤ s.now then .next (startRails (updDisp (fun d => { d with retryAt := none }) s))
    else .next s
  | none => .next s

/-- 50 ms with no rectangle in flight start the rail fall (R412). -/
def execRailFallStart (s : State) : Host.Outcome State Fault Refusal :=
  if s.disp.state = 2 ∧ s.disp.flight = [] ∧ s.disp.idleAt + msF 50 ≤ s.now then .next (lowerRails s) else .next s

/-- The last rail is below 10 %: the rails are down (R412). The sequencer completes the fall through every reset. -/
def execRailFallDone (s : State) : Host.Outcome State Fault Refusal :=
  if s.disp.state = 3 then
    .next (startRails (updDisp (fun d => { d with state := 0 }) s))
  else .next s

/-! Temperature and waveforms (R415, R416). -/

/-- A running rectangle's band is left by more than 1.0 degC (R416). -/
def leavesBand (d : Display) (t : Int) (r : Rect) : Bool :=
  let w := vget d.waves r.band {}
  decide (t < w.low * 10 - 10) || decide (w.high * 10 + 10 < t)

/-- EPTEMP is read (R416): band, band change of the running rectangles, sensor fault and its end. -/
def panelTemp (t : Int) (s : State) : State :=
  let inside := decide (-400 ≤ t) && decide (t ≤ 850)
  let b := if inside then bandAt s.disp t else 15
  let s1 := updDisp (fun d => { d with temp := satInt 16 t, band := b }) s
  if !inside then
    let s2 := updDisp (fun d => { d with goodTemps := 0, tempFault := true }) s1
    if s.disp.tempFault then s2 else displayFault 2 (satInt 16 t) s2
  else
    let good := if s.disp.tempFault then s.disp.goodTemps + 1 else 0
    updDisp (fun d =>
      { d with goodTemps := good, tempFault := d.tempFault && decide (good < 10), outOfBand := d.outOfBand && (b == 15 || d.queue.any (fun r => scansOf d b r.kind == 0)),
               flight := d.flight.map (fun r => if leavesBand d t r then { r with flagged := true } else r) }) s1

/-- The 100 ms reading of EPTEMP (R416). -/
def execPanelTempReading (temp : Int) (s : State) : Host.Outcome State Fault Refusal :=
  if s.regionsRun then .next (serveQueue (panelTemp temp s)) else .next s

/-- Level shown for a target level: a three-colour panel maps every level but 0, 8 and 15 to black (R415). -/
def shownLevel (g : BitVec 144) (v : Byte) : Byte :=
  if dcGrey g then v else if v = 15 then 15 else if v = 8 then 8 else 0

/-- Pixel numbers of an area, row by row. -/
def areaPixels (g : BitVec 144) (a : Area) : List Nat :=
  ((List.range a.2.2.2).map (fun j => (List.range a.2.2.1).map (fun i => (a.2.1 + j) * dcWidth g + a.1 + i))).flatten

/-- The target pixels of a rectangle at its first scan (R418, R420, R423): a re-drive keeps its content. -/
def targetPixels (s : State) (r : Rect) : List Byte :=
  let g := s.disp.config
  let px := areaPixels g r.area
  if r.redrive then r.pixels
  else if r.kind = 2 then px.map (fun _ => 15)
  else if r.price then
    let next := match nextEntry s with
      | some e => (e.start + 1, vget s.billing.tariffs e.tariff 0)
      | none => (0, 0)
    (List.range px.length).map (fun i =>
      (Config.pricePixel (dcLayout g) (vget s.billing.tariffs s.billing.active 0) next.1 next.2 i).setWidth 8)
  else if r.totals then px.map (fun i => (Config.totalsPixel s.billing.regs.toList i).setWidth 8)
  else px.map (fun i => Memory.read 15 s.disp.target i)

/-- A rectangle joins at a scan start (R416, R418, R419). -/
def joinRect (i : Nat) (r : Rect) (s : State) : State :=
  let d := s.disp
  let w := priceWanted s
  let x : Rect := { r with band := d.band, scans := scansOf d d.band r.kind, startAt := s.now, pixels := targetPixels s r,
                           version := if r.price ∧ !r.redrive then w.1 else r.version,
                           announce := if r.price ∧ !r.redrive then w.2 else r.announce }
  updDisp (fun d => { d with flight := d.flight ++ [x], queue := d.queue.eraseIdx i }) s

/-- The temperature lies in no band with a table for this rectangle: it does not start, and waits at its place (R416). -/
def outOfBand (i : Nat) (r : Rect) (s : State) : State :=
  let s1 := releaseOpt r.req s
  let s1 := updQueue i (fun x => { x with req := none, granted := false }) s1
  if s.disp.outOfBand then s1
  else displayFault 5 s.disp.temp (updDisp (fun d => { d with outOfBand := true }) s1)

/-- Rectangles that hold leave join, from queue place i on, with the fuel of the queue's length. -/
def joinFrom : Nat → Nat → State → State
  | 0, _, s => s
  | k + 1, i, s =>
    match s.disp.queue[i]? with
    | none => s
    | some r =>
      if r.granted && decide (s.disp.flight.length < 4) && canStart s.disp i r then
        if scansOf s.disp s.disp.band r.kind = 0 then joinFrom k (i + 1) (outOfBand i r s)
        else joinFrom k i (joinRect i r s)
      else joinFrom k (i + 1) s

/-- A loop reading in 10 ohm lies above CRACK_MAX (R424). -/
def crackHigh (s : State) (ohm10 : Nat) : Bool := decide (dcCrackMax s.disp.config * 10 < ohm10)

/-- A scan begins (R411): before a rectangle joins, the loop and EPTEMP are read; a loop reading above CRACK_MAX keeps every
rectangle out until CRACK_CHECK has confirmed or dismissed it. -/
def execScanStart (temp : Int) (crackOhm : Nat) (s : State) : Host.Outcome State Fault Refusal :=
  let hz := dcScanHz s.disp.config
  let due := match s.disp.scanAt with
    | some t => decide (t + 20000 / max 1 hz ≤ s.now)
    | none => true
  if !(s.regionsRun && s.disp.state == 2 && due) then .next s
  else
    let s1 := updDisp (fun d => { d with scanAt := some s.now }) s
    if !s1.disp.queue.any (·.granted) then .next s1
    else
      let s2 := panelTemp temp (updDisp (fun d => { d with crackOhm := sat 16 crackOhm }) s1)
      if crackHigh s2 crackOhm || s2.disp.tempFault then .next s2
      else .next (joinFrom s2.disp.queue.length 0 s2)

/-- The drive code of a table for a scan and a pair of levels: 0 ground, 1 VPOS, 2 VNEG, 3 floating (R410, R415). Pair 16 × old + new takes
two bits, from the low end of the scan's 64 bytes on (DESIGN CHOICE, log 28). -/
def waveCode (table : List Byte) (scan old new : Nat) : Nat :=
  let pair := 16 * (old % 16) + new % 16
  (table.getD (64 * scan + pair / 4) 0).toNat / 4 ^ (pair % 4) % 4

/-- The scan of its waveform that a rectangle is in, from its start on. -/
def scanOf (s : State) (r : Rect) : Nat := (s.now - r.startAt) * dcScanHz s.disp.config / 20000

/-- The code that the source pads carry for pixel i in the scan under way: that of the rectangle in flight that covers it, ground outside
every one (R410, R411, R415). -/
def pixelCode (s : State) (i : Nat) : Nat :=
  let g := s.disp.config
  let hit (r : Rect) : Option Nat := (areaPixels g r.area).findIdx? (· == i)
  match s.disp.flight.find? (fun r => (hit r).isSome) with
  | some r =>
    let old := (Memory.read 15 s.disp.shown i).toNat
    let new := (shownLevel g (r.pixels.getD ((hit r).getD 0) 15)).toNat
    waveCode (vget (vget s.disp.waves r.band {}).tables r.kind []) (scanOf s r) old new
  | none => 0

/-- EPSD0 to EPSD15 for group k of a line: pixel i of the group on bits 2i and 2i + 1 (R410). -/
def sourceCodes (s : State) (line k : Nat) : BitVec 16 :=
  BitVec.ofNat 16 (packBits ((List.range 8).map (fun i => (pixelCode s (line * dcWidth s.disp.config + 8 * k + i), 2))))

/-- EPSDCLK periods of a line, and the time of a scan in ns (R411). -/
def linePeriods (g : BitVec 144) : Nat := dcWidth g / 8 + 16
def scanNs (g : BitVec 144) : Nat := dcHeight g * linePeriods g * 40

/-- A DISPLAY_LIGHT request that waits is applied once nothing is in flight and nothing queued covers the price area (R414). -/
def lightFree (d : Display) : Bool :=
  d.flight.isEmpty && d.queue.all (fun r => !overlaps r.area (priceArea d.config))

/-- The front light goes on for the waiting request (R414). -/
def serveLight (s : State) : State :=
  match s.disp.lightWait with
  | some ack =>
    if lightFree s.disp then lightEvent true ack (updDisp (fun d => { d with light := true, lightWait := none }) s) else s
  | none => s

/-- A waveform ends (R416, R419, R420): the pixels show their new levels; a flagged rectangle is driven again from the head of the
queue; otherwise it is complete, and a price drive shows its version. -/
def execWaveformEnd (rect : Nat) (s : State) : Host.Outcome State Fault Refusal :=
  match s.disp.flight[rect]? with
  | none => .next s
  | some r =>
    if !(s.regionsRun && decide (r.scans * 20000 ≤ (s.now - r.startAt) * dcScanHz s.disp.config)) then .next s
    else
      let g := s.disp.config
      let draw (m : List Host.Cell) : List Host.Cell :=
        ((areaPixels g r.area).zip r.pixels).foldl (fun m c => Memory.write 15 c.1 (shownLevel g c.2) m) m
      let s1 := updDisp (fun d => { d with flight := d.flight.eraseIdx rect, shown := draw d.shown, idleAt := s.now }) (releaseOpt r.req s)
      if r.flagged then
        .next (queueHead { r with redrive := true, host := false, flagged := false, req := none, granted := false } s1)
      else
        let s2 := updDisp (fun d => { d with updates := satInc 32 d.updates }) s1
        let s3 := displayDone r (b1 r.redrive) s2
        let s4 := if r.price then
            priceCheck (appRetire (fun j => j.type == 0x14)
              { s3 with billing := { s3.billing with displayed := r.version, announced := r.announce != 0 },
                        disp := { s3.disp with dirty := false } })
          else s3
        .next (serveQueue (serveLight s4))

/-! The crack loop (R424). -/

/-- A crack: every drive is abandoned, the rails fall, and DISPLAYED_VERSION goes to 0 where CRACK_BLOCKS says so. -/
def crackFound (ohm10 : Nat) (s : State) : State :=
  let s1 := lowerRails (abandonAll 2 false s)
  let s1 := displayFault 1 (sat 16 ohm10) (updDisp (fun d => { d with crack := true, retryAt := none }) s1)
  if dcCrackBlocks s.disp.config then priceCheck { s1 with billing := { s1.billing with displayed := 0 } } else s1

/-- The loop is measured every 60 s, during a rail start, and to confirm a high reading; the second reading, 10 ms later, confirms
a crack. An intact loop ends a crack at a periodic reading, and the price area is redrawn (R424). -/
def execCrackCheck (ohm10 ohm10b : Nat) (s : State) : Host.Outcome State Fault Refusal :=
  let periodic := decide (s.disp.crackAt + secF 60 ≤ s.now)
  if !(s.regionsRun && (periodic || s.disp.state == 1 || crackHigh s s.disp.crackOhm)) then .next s
  else
    let last := if crackHigh s ohm10 then ohm10b else ohm10
    let s1 := updDisp (fun d => { d with crackOhm := sat 16 last, crackAt := if periodic then s.now else d.crackAt }) s
    if crackHigh s ohm10 && crackHigh s ohm10b then
      if s.disp.crack then .next s1 else .next (crackFound ohm10b s1)
    else if s.disp.crack && periodic then
      .next (requestPrice (displayFault 0 (sat 16 last) (updDisp (fun d => { d with crack := false }) s1)))
    else .next s1

/-! Always-on area and BENCHMARK (R422, R423). -/

/-- The always-on area is queued with FAST (R422). -/
def queueAon (s : State) : State :=
  let a := aonArea s.disp.config
  if a.2.2.1 = 0 ∨ a.2.2.2 = 0 then s else queueAreas [a] 1 false s

/-- In STANDBY the always-on area is redrawn every AON_REFRESH_S seconds (R422). -/
def execAonRefresh (s : State) : Host.Outcome State Fault Refusal :=
  if s.running ∧ s.modes.mode = .standby ∧ s.disp.aonAt + secF (dcAonRefresh s.disp.config) ≤ s.now then
    .next (queueAon (updDisp (fun d => { d with aonAt := s.now }) s))
  else .next s

/-- The totals page is drawn (R423). -/
def drawTotals (s : State) : State :=
  queueAreas (hostAreas s.disp.config) 0 true (updDisp (fun d => { d with benchAt := s.now }) s)

/-- In BENCHMARK the totals page is redrawn every 10 s (R423). -/
def execBenchmarkTotalsRedraw (s : State) : Host.Outcome State Fault Refusal :=
  if s.running ∧ s.modes.mode = .benchmark ∧ s.disp.benchAt + secF 10 ≤ s.now then .next (drawTotals s) else .next s

/-- BENCHMARK is entered: totals page and price area (R420, R423). -/
def displayBenchmarkEntry (s : State) : State :=
  if displayUsable s then requestPrice (drawTotals s) else s

/-- BENCHMARK is left: the host area from the kept buffer, and the price area (R420, R423). -/
def displayBenchmarkExit (s : State) : State :=
  if displayUsable s then requestPrice (queueAreas (hostAreas s.disp.config) 0 false s) else s

/-! Commands. -/

/-- The area that a payload names. -/
def areaOf (p : List Byte) : Area := (numAt p 0 2, numAt p 2 2, numAt p 4 2, numAt p 6 2)

/-- The levels of n pixels, two to a byte, the first in the low half. -/
def unpackLevels (p : List Byte) : List Byte := (p.map (fun (b : Byte) => [b &&& 0xF, b >>> 4])).flatten

/-- DISPLAY_WRITE fills the target buffer (R418); in STANDBY a write into the always-on area queues its refresh (R422). -/
def displayWriteCmd (p : List Byte) (s : State) : Cmd :=
  let g := s.disp.config
  let a := areaOf p
  let px := (areaPixels g a).zip (unpackLevels (p.drop 8))
  let s1 := updDisp (fun d => { d with target := px.foldl (fun m c => Memory.write 15 c.1 c.2 m) d.target }) s
  { form := decide (8 ≤ p.length), role := decide (1 ≤ s.roles.role), mode := s.modes.mode != .monument,
    params := rectOk g a && p.length == 8 + a.2.2.1 * a.2.2.2 / 2,
    run := { st := if s.modes.mode = .standby && overlaps a (aonArea g) then queueAon s1 else s1 } }

/-- DISPLAY_WRITE (Table 13-5). -/
def execDisplayWrite (h : Hdr) (p : List Byte) (s : State) : Host.Outcome State Fault Refusal :=
  .next (hostCommand h 0x0A10 p (displayWriteCmd p) s)

/-- The handle after n; 0 belongs to device drives (Table 13-6). -/
def nextHandle (n : Nat) : Nat := if 0xFFFF ≤ n then 1 else n + 1

/-- DISPLAY_UPDATE queues a rectangle (R418, R419, R423, R424, R426). -/
def displayUpdateCmd (h : Hdr) (p : List Byte) (s : State) : Cmd :=
  let a := areaOf p
  let n := nextHandle s.disp.handleCtr
  let r : Rect := { handle := n, x := a.1, y := a.2.1, w := a.2.2.1, h := a.2.2.2, kind := byteAt p 8, ack := flagAck h.flags }
  { form := p.length == 9, role := decide (1 ≤ s.roles.role),
    mode := s.modes.mode != .monument && s.modes.mode != .benchmark,
    params := rectOk s.disp.config a && decide (byteAt p 8 ≤ 2), free := decide (hostQueued s.disp < 8),
    run :=
      if s.disp.crack || s.faults.display then { st := s, status := .notConfirmed }
      else { st := queueTail r (updDisp (fun d => { d with handleCtr := n }) s), status := .queued, data := le 2 n } }

/-- DISPLAY_UPDATE (Table 13-5). -/
def execDisplayUpdate (h : Hdr) (p : List Byte) (s : State) : Host.Outcome State Fault Refusal :=
  .next (hostCommand h 0x0A11 p (displayUpdateCmd h p) s)

/-- DISPLAY_LIGHT (R414, R424, R426). -/
def displayLightCmd (h : Hdr) (p : List Byte) (s : State) : Cmd :=
  let off := match s.disp.lightWait with
    | some ack => lightEvent false ack (updDisp (fun d => { d with light := false, lightWait := none }) s)
    | none => updDisp (fun d => { d with light := false }) s
  { form := p.length == 1, role := decide (1 ≤ s.roles.role), mode := s.modes.mode != .monument,
    params := decide (byteAt p 0 ≤ 1),
    run :=
      if byteAt p 0 = 0 then { st := off }
      else if s.disp.crack || s.faults.display || s.faults.globalSafe then { st := s, status := .notConfirmed }
      else if s.disp.light || lightFree s.disp then { st := updDisp (fun d => { d with light := true }) s }
      else { st := updDisp (fun d => { d with lightWait := some (flagAck h.flags) }) s, status := .queued } }

/-- DISPLAY_LIGHT (Table 13-5). -/
def execDisplayLight (h : Hdr) (p : List Byte) (s : State) : Host.Outcome State Fault Refusal :=
  .next (hostCommand h 0x0A12 p (displayLightCmd h p) s)

/-- The range of a band as a load gives it meets no other loaded band's range (R415). -/
def bandsApart (d : Display) (band : Nat) (lo hi : Int) : Bool :=
  (List.range 12).all (fun k =>
    let w := vget d.waves k {}
    k == band || (List.range 3).all (fun i => vget w.scans i 0 == 0) || decide (hi ≤ w.low) || decide (w.high ≤ lo))

/-- WF_LOAD: part of a table; the table takes effect with its last byte (R415, Table 13-5). -/
def wfLoadCmd (p : List Byte) (s : State) : Cmd :=
  let band := byteAt p 0
  let lo := signedOf 8 (byteAt p 1)
  let hi := signedOf 8 (byteAt p 2)
  let kind := byteAt p 3
  let scans := numAt p 4 2
  let off := numAt p 6 4
  let len := numAt p 10 2
  let w := vget s.disp.waves band {}
  let old := vget w.loading kind []
  let got := padTo off old ++ p.drop 12
  let w1 : Wave :=
    if off + len = 64 * scans then
      { w with low := lo, high := hi, scans := vset w.scans kind scans, tables := vset w.tables kind got,
               loading := vset w.loading kind [] }
    else { w with loading := vset w.loading kind (got ++ old.drop (off + len)) }
  { level := .expertOnly, form := decide (12 ≤ p.length), role := decide (2 ≤ s.roles.role),
    mode := s.modes.mode != .monument,
    params := p.length == 12 + len && decide (band < 12) && decide (kind < 3) && decide (1 ≤ scans) && decide (scans ≤ 256) &&
      decide (len ≤ 4084) && decide (off + len ≤ 64 * scans) && decide (lo < hi) && bandsApart s.disp band lo hi,
    free := !s.disp.flight.any (fun r => r.band == band),
    run := { st := serveQueue (updDisp (fun d => { d with waves := vset d.waves band w1 }) s) } }

/-- WF_LOAD (Table 13-5). -/
def execWfLoad (h : Hdr) (p : List Byte) (s : State) : Host.Outcome State Fault Refusal :=
  .next (hostCommand h 0x0A13 p (wfLoadCmd p) s)

/-! Frames, faults and resets. -/

/-- The display's work of a frame: the price area follows the tariff, queued rectangles ask leave, the light is served. -/
def displayFrame (s : State) : State :=
  if s.regionsRun then
    let bench := s.modes.mode == .benchmark
    let s1 := if bench == s.disp.benchPage then s
      else if bench then displayBenchmarkEntry (updDisp (fun d => { d with benchPage := true }) s)
      else displayBenchmarkExit (updDisp (fun d => { d with benchPage := false }) s)
    serveQueue (serveLight (followPrice s1))
  else s

/-- The display block becomes faulty: kind 4 (R18, Table 13-6). -/
def displayBlockFaulty (s : State) : State :=
  if s.faults.display then s
  else
    lowerRails (abandonAll 2 true (displayFault 4 0 { s with faults := { s.faults with display := true } }))

/-- Step 2 of the shutdown sequence: drive stops, rectangles are abandoned with result 3, the rails fall, the light is released
(R83, R414, R421). -/
def displayShutdown (s : State) : State :=
  let s1 := lowerRails (abandonAll 3 true s)
  let s1 := if s1.disp.light then lightEvent false false (updDisp (fun d => { d with light := false }) s1) else s1
  updDisp (fun d => { d with lightWait := none }) s1

/-- A CORE reset: rectangles in flight complete, queued host updates are cleared and completions are lost; device drives stay (R99,
R101). -/
def displayCoreReset (s : State) : State :=
  let gone := s.disp.queue.filter (·.host)
  let s1 := gone.foldl (fun s r => releaseOpt r.req s) s
  updDisp (fun d =>
    { d with queue := d.queue.filter (fun r => !r.host), flight := d.flight.map (fun r => { r with report := false }),
             lightWait := none }) s1

/-- A reset of reach SYSTEM or wider: drives are interrupted without events, faults clear; the rails fall (R412, R417, R421). -/
def displaySystemReset (s : State) : State :=
  let hit := (s.disp.flight ++ s.disp.queue).any (·.price)
  let d := s.disp
  let c : Display :=
    { config := d.config, waves := d.waves.map (fun w => { w with loading := Vector.replicate 3 [] }), dirty := d.dirty || hit,
      updates := d.updates, shown := d.shown, asked := d.asked, state := if d.state = 0 then 0 else 3,
      idleAt := s.now, crackAt := s.now, aonAt := s.now, benchAt := s.now }
  { s with disp := c, billing := { s.billing with displayed := if hit then 0 else s.billing.displayed } }

/-- READY: the price area is drawn again when its drive was interrupted (R420). -/
def displayReady (s : State) : State := if s.disp.dirty then requestPrice s else s

end Sys2Proof.Machine
end

