-- ==== Sys2Proof/Machine/FrontEnd.lean ====
section
/-!
DEFINITION. The metrology front end: modulator inputs, decimator synchronisation, paths and coefficients, capture (R155 to R194).
-/

namespace Sys2Proof.Machine

/-! Inputs. -/

/-- A METROLOGY region fault on outlets: Safe Ramp Stop, no new session until a SYSTEM reset (Table 1-4). -/
def metrologyFault (outs : List Nat) (s : State) : State :=
  let f := { s.faults with metFaulty := outs.foldl (fun m n => setBit m n true) s.faults.metFaulty }
  outs.foldl (fun s n => demandStop n 8 (tRampEmerg s n) s) { s with faults := f }

/-- REACTION of a region fault that asks for Safe Ramp Stop: 4 with a session open on an affected outlet, else 3 (Table 15-4). -/
def stopReaction (s : State) (outs : List Nat) : Nat := if outs.any s.sessionOpen then 4 else 3

/-- INSULATION of outlet n, and INSULATION rewritten. -/
def ins (s : State) (n : Nat) : Insul := vget s.sw.insul n {}
def updIns (n : Nat) (f : Insul → Insul) (s : State) : State :=
  { s with sw := { s.sw with insul := vmod s.sw.insul n f } }

/-- The insulation proof of outlet n lapses: no valid value, and a cable check begins its two periods anew (R163, R316, R327). -/
def proofLapses (n : Nat) (s : State) : State :=
  updSq n (fun y => { y with passRun := 0 }) (updIns n (fun x => { x with status := 3 }) s)

/-- The reaction to an input that is marked invalid (Table 5-3). The fast stop of input 1 shows as cause 8 (DEDUCED, log 23). -/
def invalidReaction (n x : Nat) (s : State) : State :=
  match x with
  | 0 => demandStop n 8 (tRampEmerg s n) s
  | 1 => fastStop n 8 false s
  | 2 => if witRuns s n then setWarn n 4 0 (updEng n (fun y => { y with divs := [], witValid := false, qOk := false }) s) else s
  | 3 => proofLapses n s
  | 4 => proofLapses n s
  | _ => s

/-- An enabled input is marked invalid, with an event once per cause: 1 stuck, 2 clock read-back. A repetition only starts the 400
frames again (R160, R162). -/
def invalidate (n x cause : Nat) (s : State) : State :=
  let i := modIn s n x
  let now := s.now
  if !modEnabled s n x then s
  else if (cause == 1 && i.stuck) || (cause == 2 && i.clockFault) then updIn' n x (fun i => { i with badAt := now }) s
  else
    let was := inputValid s n x
    let s1 := updIn' n x (fun i => { i with stuck := i.stuck || cause == 1, clockFault := i.clockFault || cause == 2,
                                            badAt := now, bad := true }) s
    let s1 := if was then { s1 with fe := { s1.fe with invalidCount := vmod s1.fe.invalidCount n (satInc 16) } } else s1
    let s1 := event 0x0220 (le 1 n ++ le 1 x ++ le 1 cause ++ s.stamp) s1
    if was then invalidReaction n x s1 else s1

/-- 64 identical bits in succession mark an input stuck (R160). The row is the check's own finding in the frame under way, whose bits come
with its tick; the bits themselves are looked at there (`stuckFrame`; log 43). -/
def execModInputStuck (outlet input : Nat) (s : State) : Host.Outcome State Fault Refusal :=
  if s.regionsRun ∧ s.present outlet then .next (invalidate outlet input 1 s) else .next s

/-- MCLKn read back wrong for 16 cycles marks every input of the outlet invalid (R160). -/
def execMclkReadbackFault (outlet : Nat) (s : State) : Host.Outcome State Fault Refusal :=
  if s.regionsRun ∧ s.present outlet then
    .next ((List.range 8).foldl (fun s x => invalidate outlet x 2 s) s)
  else .next s

/-- An invalid input that has run clean for 400 frames is valid again; its outputs are unsettled (R162, R173). -/
def execModInputValid (outlet input : Nat) (s : State) : Host.Outcome State Fault Refusal :=
  let i := modIn s outlet input
  if s.regionsRun ∧ s.present outlet ∧ modEnabled s outlet input ∧ (i.stuck || i.clockFault) ∧ i.badAt + 400 ≤ s.now ∧
      !s.fe.mclkStopped then
    let now := s.now
    .next (event 0x0221 (le 1 outlet ++ le 1 input ++ s.stamp)
      (updIn' outlet input (fun i => { i with stuck := false, clockFault := false, marks := unitOf now :: i.marks }) s))
  else .next s

/-- The METROLOGY clock monitor's cell, and the decimator cell of an input (Table 1-2). -/
def metClockCell : Nat := 269
def decimatorCell (n x : Nat) : Nat := 57 + 8 * n + x

/-- Loss of the modulator clock PLL: every enabled input invalid, a region fault for all active outlets; the clock monitor and
every running decimator cell report it (R161, Table 15-4). -/
def modPllLost (cycle : Nat) (s : State) : State :=
  let outs := s.outlets
  let re := stopReaction s outs
  let ins := (outs.map (fun n => ((List.range 8).filter (modEnabled s n)).map (fun x => (n, x)))).flatten
  let s1 := { s with fe := { s.fe with mclkStopped := true } }
  let s1 := reportFrom 0x05 2 metClockCell cycle scopeRegion s.outletMask re s1
  let s1 := ins.foldl (fun s i =>
    reportFrom 0x05 2 (decimatorCell i.1 i.2) (cycle + 10) scopeCell (maskOf 8 [i.1]) 0 s) s1
  let s1 := ins.foldl (fun s i => invalidate i.1 i.2 2 s) s1
  metrologyFault outs s1

/-- MOD_PLL_LOSS (R161); a second loss of the same clock changes nothing. -/
def execModPllLoss (cycle : Nat) (s : State) : Host.Outcome State Fault Refusal :=
  if !s.regionsRun || s.fe.mclkStopped then .next s else .next (modPllLost cycle s)

/-- FAST value number p of the last 79, oldest first: number 15 is the first of the frame that ended last. -/
def fastAt (i : ModInput) (p : Nat) : Int := i.fast.getD (78 - p) 0

/-- The instant of FAST value p of the last 79. -/
def fastUnit (now p : Nat) : Nat := unitOf now + p - 79

/-- The FAST value of an input changes by more than STEP_THRESHOLD, in 0.1 % of full scale, within the 16 values from number p
(R174). -/
def stepAt (s : State) (n x p : Nat) : Bool :=
  let i := modIn s n x
  (List.range 16).any (fun j => decide (fld (modCfg s n) 16 8 * 16384 < 1000 * (fastAt i (p + j) - fastAt i p).natAbs))

/-- FAST records of a capture whose span holds a disturbance at instant d lose SETTLED (R173). -/
def unsettleFast (n x d : Nat) (c : Capture) : Capture :=
  if c.path = 0 ∧ c.outlet = n ∧ c.input = x then
    { c with recs := c.recs.map (fun r => if d ≤ r.2.2 ∧ r.2.2 < d + 3 then (r.1, r.2.1 - bitsOf r.2.1 1 1 * 2, r.2.2) else r) }
  else c

/-- A step is the trigger that a capture waits for (R191). -/
def stepTrigger (n x d : Nat) (c : Capture) : Capture :=
  if !c.recording && c.trigger == 1 && c.outlet == n && c.input == x && c.step.isNone then { c with step := some d } else c

/-- A step on an input marks its outputs unsettled: `place` is its FAST value in the frame that ended last, or up to 15 values
before (R174). -/
def execStepDetected (outlet input place : Nat) (s : State) : Host.Outcome State Fault Refusal :=
  if s.regionsRun ∧ s.present outlet ∧ modEnabled s outlet input ∧ place < 64 ∧ stepAt s outlet input place then
    let d := fastUnit s.now place
    let s1 := updIn' outlet input (fun i => i.disturb d) s
    .next { s1 with fe := { s1.fe with capture := s1.fe.capture.map (fun c => stepTrigger outlet input d (unsettleFast outlet input d c)) } }
  else .next s

/-! Synchronisation. -/

/-- All 64 decimator cells are cleared and restart with the frame that begins; nothing else moves (R176). The count of tone windows
and of code periods starts here (R190, R324). -/
def decimatorReset (source : Nat) (s : State) : State :=
  let now := s.now
  let ins := s.fe.inputs.map (fun i => { i.disturb (unitOf now) with cell := {} })
  { s with fe := { s.fe with inputs := ins, lastSync := s.clock.legal, lastSource := source, resetAt := now, plumbStep := 0,
                             plumbPeriod := 0, plumbSince := none, steps := [] } }

/-- SYNC_DONE (Table 5-15). -/
def syncDone (result source : Nat) (ack : Bool) (s : State) : State :=
  emit 0x0222 (le 1 result ++ le 1 source ++ s.stamp) ack s

/-- SYNC (R193). A TIME that names the frame under way is not past: the decimators reset
in that frame (DESIGN CHOICE, log 43). -/
def syncCmd (h : Hdr) (p : List Byte) (s : State) : Cmd :=
  let w := byteAt p 0
  let t := frameOf (numAt p 1 6)
  let okT := match t with
    | some l => decide (s.clock.legal ≤ l) && decide (l ≤ s.clock.legal + secF 86400)
    | none => false
  let busy := s.fe.scheduled.isSome || s.fe.armed || s.fe.edgeAt.isSome
  let a := flagAck h.flags
  { form := p.length == 7, role := decide (2 ≤ s.roles.role), mode := !s.anySession,
    params := decide (w ≤ 3) && (w != 1 || okT), free := w == 3 || !busy,
    run :=
      match w with
      | 0 => { st := { s with fe := { s.fe with scheduled := some (s.clock.legal / 400 * 400 + 400), syncAck := a } },
               status := .queued }
      | 1 => { st := { s with fe := { s.fe with scheduled := t, syncAck := a } }, status := .queued }
      | 2 => { st := { s with fe := { s.fe with armed := true, armAck := a } } }
      | _ =>
        let s1 := cancelSync s
        { st := if s1.fe.armed then
                  syncDone 1 2 s1.fe.armAck { s1 with fe := { s1.fe with armed := false, armAck := false } }
                else s1 } }

/-- SYNC schedules, arms or cancels a decimator reset (R177, R193). -/
def execSync (h : Hdr) (p : List Byte) (s : State) : Host.Outcome State Fault Refusal :=
  .next (hostCommand h 0x0210 p (fun s => syncCmd h p s) s)

/-- The frame of a scheduled SYNC is reached (R176). -/
def execSyncScheduled (s : State) : Host.Outcome State Fault Refusal :=
  match s.fe.scheduled with
  | some t =>
    if s.regionsRun ∧ t ≤ s.clock.legal ∧ !s.anySession then
      let a := s.fe.syncAck
      let s1 := { s with fe := { s.fe with scheduled := none, syncAck := false } }
      .next (syncDone 0 1 a (decimatorReset 1 s1))
    else .next s
  | none => .next s

/-- A falling edge on MSYNC_N: taken while armed, ignored with a session open or in the frame in which the last one closed, counted
while not armed (R177, R178). -/
def execMsyncEdge (s : State) : Host.Outcome State Fault Refusal :=
  if !s.regionsRun then .next s
  else if !s.fe.armed then
    .next { s with fe := { s.fe with msyncUnarmed := satInc 16 s.fe.msyncUnarmed } }
  else if s.anySession || s.fe.closedAt == some s.now then
    .next (event 0x0223 s.stamp { s with fe := { s.fe with msyncIgnored := satInc 16 s.fe.msyncIgnored } })
  else .next { s with fe := { s.fe with armed := false, edgeAt := some s.now } }

/-- The first frame tick at least 2 us after an edge taken: the decimators restart (R178). -/
def execDecimatorReset (s : State) : Host.Outcome State Fault Refusal :=
  match s.fe.edgeAt with
  | some t =>
    if s.regionsRun ∧ t < s.now then
      let a := s.fe.armAck
      let s1 := { s with fe := { s.fe with edgeAt := none, armAck := false } }
      .next (syncDone 0 2 a (decimatorReset 2 s1))
    else .next s
  | none => .next s

/-! Coefficients and paths. -/

/-- A path uses set k of a bank, as its source or as the source it fades from (R181). -/
def setInUse (s : State) (bank k : Nat) : Bool :=
  s.outlets.any (fun n =>
    if bank = 0 then (List.range 8).any (fun x => fld (pathSt s n) (3 * x) 3 == k + 1)
    else fld (pathSt s n) 27 3 == k + 1) ||
  s.fe.fades.any (fun f => f.path == bank && f.oldSource == k + 1)

/-- Sum of signed 24-bit coefficients. -/
def coefSum (p : List Byte) (n : Nat) : Int := sumInt ((List.range n).map (fun i => signedOf 24 (numAt p (3 * i) 3)))

/-- COEF_LOAD (R181, R193). -/
def coefLoadCmd (p : List Byte) (s : State) : Cmd :=
  let bank := byteAt p 0
  let k := byteAt p 1
  let n := byteAt p 2
  let body := p.drop 3
  let unity := decide ((2 * coefSum body n - 4194304).natAbs * 10000 ≤ 4194304)
  { level := .expertOnly, form := decide (p.length = 3 + 3 * n), role := decide (2 ≤ s.roles.role),
    params := decide (k ≤ 3) && ((bank == 0 && n == 22 && unity) || (bank == 1 && n == 16)),
    free := !setInUse s bank k,
    run := { st := { s with fe := { s.fe with
      coefs := vset s.fe.coefs (4 * bank + k) (BitVec.ofNat 536 (n + 256 * ofBytes body)) } } } }

/-- COEF_LOAD stores a custom coefficient set (R181). -/
def execCoefLoad (h : Hdr) (p : List Byte) (s : State) : Host.Outcome State Fault Refusal :=
  .next (hostCommand h 0x0211 p (coefLoadCmd p) s)

/-- PATH_SELECT (R182, R193). -/
def pathSelectCmd (h : Hdr) (p : List Byte) (s : State) : Cmd :=
  let n := byteAt p 0
  let path := byteAt p 1
  let x := byteAt p 2
  let src := byteAt p 3
  let f := numAt p 4 2
  let ps := pathSt s n
  let oldX := if path = 0 then x else fld ps 24 3
  let oldS := if path = 0 then fld ps (3 * x) 3 else fld ps 27 3
  let ps1 := if path = 0 then setFld ps (3 * x) 3 src else setFld (setFld ps 24 3 x) 27 3 src
  let fade : Fade := { outlet := n, path := path, input := x, source := src, oldInput := oldX, oldSource := oldS, len := f, since := s.now + 1,
                       ack := flagAck h.flags }
  { level := .expertOnly, form := p.length == 6, role := decide (2 ≤ s.roles.role),
    params := s.present n && decide (path ≤ 1) && decide (x ≤ 7) && decide (src ≤ 4) && decide (8 ≤ f) && decide (f ≤ 256) &&
      (src == 0 || fld (coefSet s (4 * path + (src - 1))) 0 8 != 0),
    free := !s.fe.fades.any (fun g => g.outlet == n && g.path == path && (path == 1 || g.input == x)) &&
      decide ((s.fe.fades.filter (fun g => g.outlet / 2 == n / 2)).length < 2),
    run := { st := { s with fe := { s.fe with paths := vset s.fe.paths n ps1, fades := s.fe.fades ++ [fade] } },
             status := .queued } }

/-- PATH_SELECT selects a source and starts a cross-fade (R182). -/
def execPathSelect (h : Hdr) (p : List Byte) (s : State) : Host.Outcome State Fault Refusal :=
  .next (hostCommand h 0x0212 p (fun s => pathSelectCmd h p s) s)

/-- After F outputs the fade is over (R183). -/
def execFadeDone (outlet path input : Nat) (s : State) : Host.Outcome State Fault Refusal :=
  match s.fe.fades.find? (fun f => f.outlet == outlet && f.path == path && f.input == input && decide (f.len ≤ f.done)) with
  | some f =>
    let s1 := { s with fe := { s.fe with fades := s.fe.fades.erase f } }
    .next (if f.report then emit 0x0224 (le 1 outlet ++ le 1 path ++ le 1 input ++ le 1 f.source) f.ack s1 else s1)
  | none => .next s

/-! Capture. -/

/-- CAPTURE_START (R191, Table 5-14). -/
def captureStartCmd (h : Hdr) (p : List Byte) (s : State) : Cmd :=
  let n := byteAt p 0
  let x := byteAt p 1
  let path := byteAt p 2
  let k := numAt p 3 2
  let tr := byteAt p 5
  let c : Capture := { outlet := n, input := x, path := path, count := k, trigger := tr, since := s.now, first := unitOf (s.now + 1),
                       recording := tr == 0, ack := flagAck h.flags }
  { form := p.length == 6, role := decide (1 ≤ s.roles.role),
    params := s.present n && modEnabled s n x && decide (path ≤ 3) && decide (1 ≤ k) && decide (k ≤ 32768) && decide (tr ≤ 2) &&
      (path != 2 || decide (x ≤ 1) || fld (pathSt s n) 24 3 == x),
    free := s.fe.capture.isNone,
    run := { st := { s with fe := { s.fe with capture := some c } }, status := .queued } }

/-- CAPTURE_START starts a capture (R191). -/
def execCaptureStart (h : Hdr) (p : List Byte) (s : State) : Host.Outcome State Fault Refusal :=
  .next (hostCommand h 0x0213 p (fun s => captureStartCmd h p s) s)

/-- A record is made while records are wanted and its instant has come (R191). -/
def Capture.put (legal now : Nat) (y : Sample) (c : Capture) : Capture :=
  if c.recording ∧ c.recs.length < c.count ∧ c.first ≤ y.instant then
    { c with recs := (y.code, y.flags, y.instant) :: c.recs,
             legal := if c.recs.isEmpty then legal - (now - y.instant / 64) else c.legal }
  else c

/-- An output of a path of an input goes to a capture that wants it. -/
def captureTake (n x path : Nat) (y : Sample) (s : State) : State :=
  { s with fe := { s.fe with capture := s.fe.capture.map (fun c =>
      if c.outlet = n ∧ c.input = x ∧ c.path = path then c.put s.clock.legal s.now y else c) } }

/-- The FAST values of the frame that ended, as outputs; the span of 48 cycles holds the value and the two before it (R158, R168, R172,
R173). -/
def fastSamples (s : State) (n x : Nat) : List Sample :=
  let i := modIn s n x
  (List.range 64).map (fun p =>
    let v := fastAt i (p + 15)
    let t := fastUnit s.now (p + 15)
    let high := [p + 15, p + 14, p + 13].any (fun q => fastOver (fastAt i q))
    { code := v, flags := b1 (inputValid s n x && !i.bad) + 2 * b1 (undisturbed i.marks t 3 0) + 4 * b1 high, instant := t })

/-- A capture of the fast path takes the values of the frame that ended; a disabled input has none (R156, R172). -/
def captureFast (s : State) : State :=
  match s.fe.capture with
  | some c => if c.path = 0 ∧ modEnabled s c.outlet c.input then (fastSamples s c.outlet c.input).foldl (fun s y => captureTake c.outlet c.input 0 y s) s else s
  | none => s

/-- The trigger is met: a step on the input, or the next Plumb boundary, that of the frame in which the capture started being past;
recording starts at its instant (R191). -/
def execCaptureTrigger (s : State) : Host.Outcome State Fault Refusal :=
  match s.fe.capture with
  | some c =>
    let at0 := if c.trigger = 1 then c.step
      else if c.trigger = 2 ∧ s.clock.legal % 2000 = 0 ∧ c.since < s.now then some (unitOf s.now) else none
    match at0 with
    | some t =>
      if s.regionsRun && !c.recording then
        .next (captureFast { s with fe := { s.fe with capture := some { c with recording := true, first := t } } })
      else .next s
    | none => .next s
  | none => .next s

/-- CAPTURE_DONE (Table 5-15), unless a reset abandoned it (R101). A code beyond 32 bits wraps (R181; DESIGN CHOICE, log 43). With no
trigger there is no first record: no records and time stamp 0 (DESIGN CHOICE, log 35). -/
def captureEnd (c : Capture) (result : Nat) (recs : List (Int × Nat × Nat)) (legal : Nat) (s : State) : State :=
  let first := (recs.head?.map (·.2.2)).getD 0
  let s1 := { s with fe := { s.fe with capture := none, buffer := recs.map (fun r => (unsignedOf 32 r.1, r.2.1, r.2.2 - first)) } }
  if c.report then emit 0x0225 (le 1 result ++ le 2 recs.length ++ stampB legal) c.ack s1 else s1

/-- The capture ends: every record made, or no trigger within 60 s (R191). -/
def execCaptureDone (s : State) : Host.Outcome State Fault Refusal :=
  match s.fe.capture with
  | some c =>
    if c.recording ∧ c.recs.length = c.count then .next (captureEnd c 0 c.recs.reverse c.legal s)
    else if !c.recording ∧ c.since + secF 60 ≤ s.now then .next (captureEnd c 1 [] 0 s)
    else .next s
  | none => .next s

/-! Plumb correlators. -/

/-- PLUMB_CONFIG of outlet n (Table 9-16). -/
def plCfg (s : State) (n : Nat) : BitVec 64 := vget s.sw.plumb n 0
def plEnabled (s : State) (n : Nat) : Bool := bit (plCfg s n) 0
def plCode (s : State) (n : Nat) : Nat := fld (plCfg s n) 1 3

/-- The settling allowance T_s of outlet n's preset in ms: P10, P40 or P90 (R185, Table 9-16). -/
def plumbSettle (s : State) (n : Nat) : Nat := match fld (plCfg s n) 4 2 with | 0 => 10 | 1 => 40 | _ => 90

/-- An output at a place of a step, in units of 16 modulator cycles: it lies from T_s to 1.6 ms before the step's end, 100 ms after its
boundary (R185). -/
def inPlumbWindow (s : State) (n place : Nat) : Bool :=
  decide (unitOf (msF (plumbSettle s n)) ≤ place) && decide (place + 2048 < unitOf 2000)

/-- A pair of BILLING outputs of inputs 3 and 4 enters the sums of its step (R185, R187, R326). -/
def PlumbStep.take (s : State) (n : Nat) (y3 y4 : Sample) (p : PlumbStep) : PlumbStep :=
  let t := unitOf p.start
  let here (y : Sample) : Bool := decide (t ≤ y.instant) && decide (y.instant < t + unitOf 2000)
  let inW (y : Sample) : Bool := here y && inPlumbWindow s n (y.instant - t)
  let bad (y : Sample) : Bool := inW y && Nat.land y.flags 5 != 1
  { p with
    sums := vmod p.sums n (fun a => (if inW y3 then a.1 + y3.code else a.1, if inW y4 then a.2 + y4.code else a.2)),
    counts := vmod p.counts n (fun c => (c.1 + b1 (inW y3), c.2 + b1 (inW y4))),
    whole := vmod p.whole n (fun a => if here y3 then (a.1 + y3.code, a.2.1 + y4.code, a.2.2 + 1) else a),
    spoiled := if bad y3 || bad y4 then setBit p.spoiled n true else p.spoiled }

/-- The correlators of outlet n take a pair of outputs (R184). -/
def plumbTake (n : Nat) (y3 y4 : Sample) (s : State) : State :=
  { s with fe := { s.fe with steps := s.fe.steps.map (PlumbStep.take s n y3 y4) } }

/-! Outputs of the filter chain. -/

/-- CONTROL outputs of one input, with the fade's count (R172, R183). -/
def controlInput (n x j : Nat) (s : State) : State :=
  let y := controlValue s n x j
  captureTake n x 1 y (updIn' n x (fun i => { i with control := y }) s)

/-- The fades of a path of an outlet have made their outputs up to frame j (R183). -/
def fadeMade (path n j : Nat) (s : State) : State :=
  { s with fe := { s.fe with fades := s.fe.fades.map (fun f =>
      if f.outlet = n ∧ f.path = path then { f with done := min f.len (f.place j 3) } else f) } }

/-- CONTROL frame j of outlet n: every enabled input (R171). -/
def controlOutlet (n j : Nat) (s : State) : State :=
  fadeMade 0 n j (((List.range 8).filter (modEnabled s n)).foldl (fun s x => controlInput n x j s) s)

/-- An output of the DIAGNOSTIC path for a capture; a disabled input has none (R156). -/
def captureDiag (n x : Nat) (y : Sample) (s : State) : State := if modEnabled s n x then captureTake n x 2 y s else s

/-- DIAGNOSTIC frame j of outlet n, output q: inputs 0 and 1 and the assignable one (R171); input 0 carries the tone (R190). Where the
assignable computation serves input 0 or 1 too, a capture records the preset of that input (R191; DESIGN CHOICE, log 43). -/
def diagPlace (n j q : Nat) (s : State) : State :=
  let a := fld (pathSt s n) 24 3
  let y0 := presetDiag s n 0 j q
  let place := 4 * ((j - s.fe.resetAt) % toneFrames) + q
  let s1 := if modEnabled s n 0 && decide (s.fe.resetAt ≤ j) then updTone n (toneTake (toneAt s n j) place y0) s else s
  let s1 := captureDiag n 1 (presetDiag s n 1 j q) (captureDiag n 0 y0 s1)
  if 2 ≤ a then captureDiag n a (assignedValue s n j q) s1 else s1

/-- DIAGNOSTIC frame j of outlet n. -/
def diagOutlet (n j : Nat) (s : State) : State := fadeMade 1 n j ((List.range 4).foldl (fun s q => diagPlace n j q s) s)

/-- The BILLING output of input x of outlet n for the period that starts at a tick; a disabled input has none (R156, R171). -/
def billingValue (s : State) (n x start : Nat) : Sample :=
  if modEnabled s n x then billingSample s.now (slotOf n x) start (modIn s n x) else {}

/-- BILLING period p of outlet n: to the energy engine, the correlators and a capture (R171, R184, R195). -/
def billingOutlet (n : Nat) (p : Nat × Nat) (s : State) : State :=
  let y := billingValue s n
  let s1 := billDelivered n p (y 0 p.1) (y 1 p.1) (y 2 p.1) s
  let s1 := plumbTake n (y 3 p.1) (y 4 p.1) s1
  match s.fe.capture with
  | some c => if c.outlet = n then captureTake n c.input 3 (y c.input p.1) s1 else s1
  | none => s1

/-- The jobs of engine e in the frame that ends: hand-over, CONTROL rate with DIAGNOSTIC, BILLING rate (Tables 1-5 and 5-5). -/
def engineFrame (s : State) (e : Nat) : State :=
  let s1 := periodStart e (handOver e s)
  let cs := controlDue s1 e
  let ds := diagDue s1 e
  let bs := billingDue s1 e
  let outs := engineOutlets s1 e
  let s2 := cs.foldl (fun s j => outs.foldl (fun s n => controlOutlet n j s) s) s1
  let s2 := ds.foldl (fun s j => outs.foldl (fun s n => diagOutlet n j s) s) s2
  let s2 := bs.foldl (fun s p => outs.foldl (fun s n => billingOutlet n p s) s) s2
  updEngine e (fun g => { g with control := g.control + cs.length, diag := g.diag + ds.length, billing := g.billing.drop bs.length,
                                 fresh := !cs.isEmpty }) s2

/-- A run of 64 identical bits in the frame that ended marks its input stuck, and starts its 400 clean frames anew (R160, R162). -/
def stuckFrame (m : List (Nat × Nat × BitVec 1024)) (s : State) : State :=
  ((enabledInputs s).filter (fun i => (frameBits m i.1 i.2).any (stuckRun (modIn s i.1 i.2).tail))).foldl
    (fun s i => invalidate i.1 i.2 1 s) s

/-- The filter chain at a frame tick: the checks and the cells of the frame that ended, then the engines. -/
def chainFrame (m : List (Nat × Nat × BitVec 1024)) (s : State) : State :=
  (List.range 4).foldl engineFrame (captureFast (cellsFrame m (stuckFrame m (toneFrame s))))

/-! Overflow of an engine's queues (R223). -/

/-- The oldest frame of sinc5 values that engine e has not taken is lost: its values count as missing (R223). -/
def loseValues (e : Nat) (s : State) : State :=
  let g := engine s e
  let back := 4 * (s.now - 1 - g.taken)
  let lose (h : List Slow) : List Slow := h.take back ++ List.replicate (min 4 (h.length - back)) ({} : Slow) ++ h.drop (back + 4)
  let s1 := ([2 * e, 2 * e + 1].map (fun n => (List.range 8).map (fun x => (n, x)))).flatten.foldl
    (fun s i => updIn' i.1 i.2 (fun y => { y with slow := lose y.slow }) s) s
  updEngine e (fun g => { g with taken := g.taken + 1 }) s1

/-- The oldest CONTROL frame that engine e has not made is lost, with its DIAGNOSTIC frame (R223). -/
def loseControl (e : Nat) (s : State) : State :=
  updEngine e (fun g => { g with control := g.control + 1, diag := g.diag + 1 }) s

/-- The oldest BILLING period that engine e has not delivered is lost (R223). -/
def loseBilling (e : Nat) (s : State) : State :=
  match (engine s e).billing with
  | p :: t =>
    if p.1 + 40 ≤ s.now + 1 then
      (engineOutlets s e).foldl (fun s n => billLost n p s) (updEngine e (fun g => { g with billing := t }) s)
    else s
  | [] => s

end Sys2Proof.Machine
end

