-- ==== Sys2Proof/Machine/Switching.lean ====
section
/-!
DEFINITION. DC switching and safety functions: sequence cues, drivers and mirrors, power modules, safety inputs, tests (R303 to
R340). The Plumb results are in Insulation.
-/

namespace Sys2Proof.Machine

/-- Full-scale current of outlet n in A (Table 6-3) and voltage full scale in V (Table 7-14). -/
def fsCurrent (s : State) (n : Nat) : Nat := fld (vget s.energy.config n 0) 0 16
def vFs (s : State) (n : Nat) : Nat := fld (vget s.seals.cal n 0) 512 16

/-- PM_MAP of module m (Table 9-14). -/
def pmCfg (s : State) (m : Nat) : BitVec 64 := vget s.sw.pmMap m 0
def pmEnabled (s : State) (m : Nat) : Bool := bit (pmCfg s m) 0
def pmSegment (s : State) (m : Nat) : Nat := fld (pmCfg s m) 8 3
def pmIMax (s : State) (m : Nat) : Nat := fld (pmCfg s m) 16 16
def pmBidir (s : State) (m : Nat) : Bool := bit (pmCfg s m) 48
def pmVMax (s : State) (m : Nat) : Nat := fld (pmCfg s m) 32 16

/-- Module m. -/
def pmod (s : State) (m : Nat) : Module := vget s.sw.modules m {}

/-- Module m rewritten. -/
def updPm (m : Nat) (f : Module → Module) (s : State) : State :=
  { s with sw := { s.sw with modules := vmod s.sw.modules m f } }

/-- The enabled healthy modules of n's group, ascending (R312). -/
def healthyModules (s : State) (n : Nat) : List Nat :=
  (List.range 16).filter (fun m => pmEnabled s m && (pmod s m).health == 1 && bit (groupOf s n) (pmSegment s m))

/-- U_CC: the vehicle's maximum, limited by V_FS and the lowest V_MAX of the group's modules (R316). -/
def uCc (s : State) (n maxV : Nat) : Nat :=
  (healthyModules s n).foldl (fun u m => min u (pmVMax s m)) (min maxV (vFs s n))

/-! Vehicle cues. -/

/-- Input i is in demand, faulty or awaits its reset (R331). -/
def inputHeld (x : SafeIn) : Bool := x.demand || x.fault || x.await

/-- SAFETY_IN_CONFIG of input i (Table 9-18): its function and its scope. -/
def inCfg (s : State) (i : Nat) : BitVec 48 := vget s.sw.inputConfig i 0
def inFunc (s : State) (i : Nat) : Nat := fld (inCfg s i) 0 3
def inScope (s : State) (i : Nat) : BitVec 8 := BitVec.ofNat 8 (fld (inCfg s i) 32 8)

/-- A safety function that stops outlet n is in demand (Table 9-9). -/
def stopDemanded (s : State) (n : Nat) : Bool :=
  (List.range 8).any (fun i =>
    decide (1 ≤ inFunc s i) && decide (inFunc s i ≤ 3) && bit (inScope s i) n && inputHeld (vget s.sw.inputs i {}))

/-- Outlet n is faulty in METROLOGY, VEHICLE LINK or SAFETY, or unavailable, until a SYSTEM reset (Table 1-4, R311, R328). -/
def outletFaulty (s : State) (n : Nat) : Bool :=
  bit (s.faults.metFaulty ||| s.faults.linkFaulty ||| s.faults.safetyFaulty ||| s.sw.unavailable) n

/-- The vehicle link, the insulation, the safety and the metrology functions agree that outlet n may deliver (R9). -/
def mayDeliver (s : State) (n : Nat) : Bool :=
  s.regionsRun && !s.shutting && !s.faults.globalSafe && s.present n && s.sessionOpen n && !outletFaulty s n && !stopDemanded s n &&
    bit (vget s.sw.plumb n 0) 0 && !(vget s.sw.insul n {}).faultRead && inputValid s n 0 && inputValid s n 1

/-- The vehicle asks for the cable check: PULL_IN begins on an open session whose outlet may deliver and whose segment is free, with V_VEH
and V_BUS below 60 V; until the outlet may deliver, and while its segment is lent or about to be, the sequence stays in IDLE and the
answer is ongoing (R9, R304, R315). Voltages that are too high fail the sequence with cause contactor (DEDUCED, log 20). -/
def execCableCheckReq (outlet maxV : Nat) (s : State) : Host.Outcome State Fault Refusal :=
  let x := sq s outlet
  if !(s.regionsRun && !s.shutting && s.present outlet && s.sessionOpen outlet) then .next s
  else if x.state = 3 ∧ 2 ≤ x.passRun then .next (tell outlet (if x.warned then ansWarning else ansOk) s)
  else if x.state ≠ 0 ∨ (ownerOf s outlet).isSome ∨ s.sw.jobs.any (fun j => bit j.segments outlet) ∨ !mayDeliver s outlet then .next (tell outlet ansOngoing s)
  else
    let s1 := setOwner outlet (some outlet) s
    let s1 := updSq outlet (fun y => { y with ucc := uCc s1 outlet maxV, passRun := 0, warned := false, late := false,
                                              forced := false, request := 0, welded := false, halted := false }) s1
    let s1 := seqTo outlet 1 s1
    if x.vVeh.natAbs < 60000 ∧ x.vBus.natAbs < 60000 ∧ (drv s (2 * outlet)).state = 0 ∧ (drv s (2 * outlet + 1)).state = 0 then
      .next (tell outlet ansOngoing (requestPullIn [2 * outlet, 2 * outlet + 1] outlet false s1))
    else .next (failSequence outlet 5 (endAfterStop outlet 10 s1))

/-- The vehicle asks for precharge: after a passed cable check the sequence enters PRECHARGE at its target (Table 9-4). -/
def execPrechargeReq (outlet target : Nat) (s : State) : Host.Outcome State Fault Refusal :=
  let x := sq s outlet
  if !(s.regionsRun && !s.shutting && s.present outlet) then .next s
  else if x.state = 3 ∧ 2 ≤ x.passRun then
    .next (tell outlet ansOngoing (seqTo outlet 4 (updSq outlet (fun y => { y with target := sat 16 target }) s)))
  else if x.state = 4 then
    .next (tell outlet (if 10 ≤ x.matchRun then ansOk else ansOngoing)
      (updSq outlet (fun y => { y with target := sat 16 target,
                                       matchRun := if y.target = sat 16 target then y.matchRun else 0 }) s))
  else .next s

/-- Power delivery start enters ENERGY once the precharge match has held for 10 frames; a stop starts Safe Ramp Stop
(Tables 9-4, 9-6). -/
def execPowerDeliveryReq (outlet : Nat) (start : Bool) (s : State) : Host.Outcome State Fault Refusal :=
  let x := sq s outlet
  if !(s.regionsRun && !s.shutting && s.present outlet) then .next s
  else if start then
    if x.state = 4 ∧ 10 ≤ x.matchRun then .next (tell outlet ansOk (seqTo outlet 5 s))
    else if x.state = 4 then .next (tell outlet ansOngoing s)
    else .next s
  else if 2 ≤ x.state ∧ x.state ≤ 5 then
    .next (tell outlet ansOk (safeRampStop outlet 0 (tRamp s outlet) (endAfterStop outlet 0 s)))
  else .next s

/-- Plug-temperature limit in A: full current up to TPLUG_DERATE, falling linearly to zero at TPLUG_STOP (R318). -/
def plugLimit (s : State) (n : Nat) (full : Nat) (plug : Int) : Nat :=
  let lo : Int := 10 * (fld (swCfg s n) 48 8 : Nat)
  let hi : Int := 10 * (fld (swCfg s n) 56 8 : Nat)
  if plug ≤ lo then full
  else if hi ≤ plug ∨ hi ≤ lo then 0
  else ((full : Int) * (hi - plug) / (hi - lo)).toNat

/-- The current limit in A, from the authorization, the modules, FS_CURRENT and the plugs (R318). Export needs EXPORT = 1, and only
modules with BIDIR export (Table 9-14; DEDUCED, log 21). -/
def currentLimit (s : State) (n : Nat) (isExport : Bool) : Nat :=
  let x := sq s n
  let mods := (((healthyModules s n).filter (fun m => !isExport || pmBidir s m)).map (pmIMax s)).foldl (· + ·) 0
  let byPower (kw : Nat) : Nat := if kw = 0 ∨ x.vVeh ≤ 0 then 65535 else kw * 1000000 / x.vVeh.toNat
  let auth := match s.session n with
    | none => 0
    | some ses => if isExport then (if ses.exportOk then byPower ses.maxExp else 0) else byPower ses.maxImp
  let full := min (min auth mods) (fsCurrent s n)
  plugLimit s n full x.plug

/-- A charge-loop request sets the current target within the limits of R318. -/
def execCurrentDemandReq (outlet : Nat) (amps10 : Int) (s : State) : Host.Outcome State Fault Refusal :=
  if !(s.regionsRun && !s.shutting && s.present outlet) || (sq s outlet).state != 5 then .next s
  else
    let lim := currentLimit s outlet (decide (amps10 < 0))
    .next (tell outlet ansOk (updSq outlet (fun y => { y with request := amps10, limit := sat 16 lim }) s))

/-! Drivers. -/

/-- Both drivers that share a request have left their pull-in. -/
def pullDone (s : State) (id : Nat) : Bool :=
  (List.range 24).all (fun d => (drv s d).req != some id || (drv s d).state != 1)

/-- PULL_IN_MS ends: the driver holds the coil with PWM, and the charge drops to its hold (R40, R307). -/
def execPullInEnd (driver : Nat) (s : State) : Host.Outcome State Fault Refusal :=
  let x := drv s driver
  if x.state = 1 ∧ x.pullAt + msF (pullInMs s driver) ≤ s.now then
    let s1 := updDrv driver (fun y => { y with state := 2 }) s
    match x.req with
    | some id => .next (if pullDone s1 id then leavePeak id s1 else s1)
    | none => .next s1
  else .next s

/-- A matrix contactor is confirmed closed: its segment joins the group, with its permit while the owner delivers (R319). -/
def joinConfirmed (j : BusJob) (s : State) : State :=
  let s1 := setOwner j.segment (some j.owner) s
  let s1 := if delivers (sq s1 j.owner).state then givePermits j.owner s1 else s1
  endJob j s1

/-- The matrix contactors of a release are confirmed open: its segments leave the group (R319). -/
def releaseConfirmed (j : BusJob) (s : State) : State :=
  let s1 := { s with sw := { s.sw with permit := s.sw.permit &&& ~~~ j.segments } }
  endJob j ((bitList j.segments).foldl (fun s m => setOwner m none s) s1)

/-- A mirror input changes: confirmed closed lets PULL_IN pass to SHORT_TEST with delivery, and a join complete; confirmed open
ends OPENING and WELD_CHECK (R310, R315, R319, R320). -/
def execMirrorConfirmed (driver : Nat) (readsOn : Bool) (s : State) : Host.Outcome State Fault Refusal :=
  if 24 ≤ driver ∨ s.power.supply ≠ .on then .next s
  else
    let s1 := updDrv driver (fun y => { y with mainOpen := readsOn,
                                               expect := if y.expect = some readsOn then none else y.expect }) s
    if driver < 16 then
      let n := driver / 2
      let a := drv s1 (2 * n)
      let b := drv s1 (2 * n + 1)
      if !readsOn ∧ (sq s1 n).state = 1 ∧ a.cmd ∧ b.cmd ∧ !a.mainOpen ∧ !b.mainOpen then
        .next (givePermits n (seqTo n 2 s1))
      else .next (pairOpened n s1)
    else
      match jobOf s1 driver with
      | some j =>
        if j.join && !readsOn && j.phase == 2 then .next (joinConfirmed j s1)
        else if !j.join && j.phase == 1 && (j.driver :: j.also).all (fun d => (drv s1 d).mainOpen) then .next (releaseConfirmed j s1)
        else .next s1
      | none => .next ((List.range 8).foldl (fun s n => weldDone n s) s1)

/-- The owner or outlet that a driver serves; an absent outlet is named by nothing (R4). -/
def driverOutlet (s : State) (d : Nat) : Option Nat :=
  if d < 16 then (if s.present (d / 2) then some (d / 2) else none)
  else
    match ownerOf s (matrixJoins d).1 with
    | some n => if fld (kCfg s d) 0 2 = 0 then some n else none
    | none => none

/-- A FEEDBACK report keyed by the driver (Table 1-6, R310, R311). -/
def feedbackReport (d cycle : Nat) (s : State) : State :=
  let out : BitVec 8 := match driverOutlet s d with
    | some n => maskOf 8 [n]
    | none => 0
  report { cls := 0x0B, key := d, cycle := cycle, region := 0, block := 0, cell := d, scope := scopeCell, outlets := out } s

/-- A matrix contactor of n's group is welded: the outlet stops as for a contactor that does not do what it is commanded, and is LOCKED at
the end of WELD_CHECK; a group in WELD_CHECK already is LOCKED at once (R320; DEDUCED, log 20). -/
def matrixWelded (n : Nat) (s : State) : State :=
  if (sq s n).state = 8 ∧ !(sq s n).discharge then lockOutlet n s
  else demandStop n 5 (tRampEmerg s n) (updSq n (fun y => { y with welded := true }) s)

/-- A mirror input fails to change in time: an opening failure is a weld, a closing failure switches the driver off (R310,
Tables 9-2 and 9-5). -/
def execFeedbackTimeout (driver cycle : Nat) (s : State) : Host.Outcome State Fault Refusal :=
  let x := drv s driver
  let lim := match x.expect with
    | some true => msF (fld (kCfg s driver) 32 8)
    | _ => msF (fld (kCfg s driver) 24 8)
  if x.expect.isNone ∨ s.now < x.changedAt + lim then .next s
  else
    let s1 := feedbackReport driver cycle s
    if x.expect = some true then
      let s1 := updDrv driver (fun y => { y with state := 4, fault := 4, expect := none }) s1
      let s1 := event 0x0626 (le 1 driver ++ le 1 0 ++ s.stamp) s1
      match driverOutlet s1 driver with
      | some n => .next (if (sq s1 n).state = 0 then seqTo n 9 s1 else if driver < 16 then lockOutlet n s1 else matrixWelded n s1)
      | none => .next s1
    else
      let s1 := updDrv driver (fun y => { y with fault := 3, expect := none }) (driverOff driver s1)
      if driver < 16 then
        let n := driver / 2
        .next (if (sq s1 n).state = 1 then failSequence n 5 (endAfterStop n 10 s1) else s1)
      else
        match jobOf s1 driver with
        | some j => .next (endJob j s1)
        | none => .next s1

/-- A driver detects an open coil (1) or an overcurrent (2): it is held off, its outlet or group is unavailable until a SYSTEM
reset, and a running sequence stops with cause contactor (R311, Table 9-2). -/
def execDriverFault (driver cause cycle : Nat) (s : State) : Host.Outcome State Fault Refusal :=
  if 24 ≤ driver ∨ ¬(cause = 1 ∨ cause = 2) ∨ (drv s driver).state = 3 ∨ !s.regionsRun then .next s
  else
    let s1 := feedbackReport driver cycle s
    let n? := driverOutlet s1 driver
    let s1 := updDrv driver (fun y => { y with state := 3, fault := cause }) (driverOff driver s1)
    match n? with
    | some n =>
      let s1 := { s1 with sw := { s1.sw with unavailable := setBit s1.sw.unavailable n true } }
      .next (demandStop n 5 (tRampEmerg s1 n) s1)
    | none => .next s1

/-- 5 ms after a release of PERMIT the hardware stop logic switches the driver off (R309). -/
def execDriverOffTimer (driver : Nat) (s : State) : Host.Outcome State Fault Refusal :=
  match (drv s driver).hwOff with
  | some t => .next (if t + msF 5 ≤ s.now then driverOff driver s else s)
  | none => .next s

/-! Sequence timers and stops. -/

/-- The 100 ms short test ends: V_VEH of 40 V or more passes (Table 9-4). -/
def execShortTestEnd (outlet : Nat) (s : State) : Host.Outcome State Fault Refusal :=
  let x := sq s outlet
  if x.state = 2 ∧ x.since + msF 100 ≤ s.now then
    let s1 := updSq outlet (fun y => { y with passRun := 0 }) s
    if 40000 ≤ x.vVeh then .next (seqTo outlet 3 s1)
    else .next (failSequence outlet 9 (endAfterStop outlet 10 s1))
  else .next s

/-- The cable check has not passed within CC_TIMEOUT, counted from the entry into CABLE_CHECK (Table 9-4; DEDUCED, log 20). -/
def execCcTimeout (outlet : Nat) (s : State) : Host.Outcome State Fault Refusal :=
  let x := sq s outlet
  if x.state = 3 ∧ x.passRun < 2 ∧ x.since + secF (fld (swCfg s outlet) 40 8) ≤ s.now then
    .next (failSequence outlet 10 (endAfterStop outlet 10 s))
  else .next s

/-- V_VEH and V_BUS differ by more than 5 % of V_FS for 10 consecutive frames: a closed contactor does not conduct (R317). -/
def execContactorNotConducting (outlet : Nat) (s : State) : Host.Outcome State Fault Refusal :=
  let x := sq s outlet
  if 2 ≤ x.state ∧ x.state ≤ 5 ∧ 10 ≤ x.apartRun then .next (demandStop outlet 5 (tRampEmerg s outlet) s) else .next s

/-- The current is still above threshold at t0 + T (R321). -/
def execRampLate (outlet : Nat) (s : State) : Host.Outcome State Fault Refusal :=
  let x := sq s outlet
  match x.ramp with
  | some r =>
    if x.state = 6 ∧ !r.late ∧ r.t0 + r.len ≤ s.now ∧ r.threshold ≤ x.iOut.natAbs then
      .next (updSq outlet (fun y => { y with late := true, ramp := some { r with late := true } }) s)
    else .next s
  | none => .next s

/-- The current is still above threshold at t0 + T + 20 ms: PERMIT is released and the drivers follow 5 ms later (R321). -/
def execRampForced (outlet : Nat) (s : State) : Host.Outcome State Fault Refusal :=
  let x := sq s outlet
  match x.ramp with
  | some r =>
    if x.state = 6 ∧ r.t0 + r.len + msF 20 ≤ s.now ∧ r.threshold ≤ x.iOut.natAbs then
      let s1 := modulesOff outlet (releasePermits (groupOf s outlet) s)
      let s1 := armHwOff (groupDrivers s1 outlet) (dropJobs outlet s1)
      let s1 := updSq outlet (fun y => { y with late := true, forced := true, ramp := none }) s1
      .next (seqTo outlet 7 (safeStopEvent outlet 2 r s1))
    else .next s
  | none => .next s

/-- A FAST code of input 1 exceeds OC_LIMIT % of FS_CURRENT: 2^14 FAST codes are 2^30 output codes (R158, R332). -/
def fastOc (s : State) (n : Nat) (v : Int) : Bool :=
  decide (fld (swCfg s n) 24 8 * fsCurrent s n * 10 * 2 ^ 40 < (calibrated s n 1 (v * 2 ^ 16)).natAbs)

/-- Two consecutive FAST values of input 1 above the limit: fast stop in hardware (R332). A disabled input gives none (R156). -/
def execFastOvercurrent (outlet : Nat) (v1 v2 : Int) (s : State) : Host.Outcome State Fault Refusal :=
  if s.regionsRun ∧ s.present outlet ∧ modEnabled s outlet 1 ∧ fastOc s outlet v1 ∧ fastOc s outlet v2 then
    .next (fastStop outlet 4 false s)
  else .next s

/-- The 200 ms discharge ends: both poles are welded when V_VEH stayed within 20 V of V_BUS while V_BUS fell by 50 V or more
(Table 9-5); each pole's driver is reported (R311). WELD_DETECTED names driver 2n (DEDUCED, log 20), and the reports name reference cycle 0
(DESIGN CHOICE, log 44). -/
def execWeldVoltageTestEnd (outlet : Nat) (s : State) : Host.Outcome State Fault Refusal :=
  let x := sq s outlet
  if x.state = 8 ∧ x.discharge ∧ x.since + msF 200 ≤ s.now then
    let s1 := updSq outlet (fun y => { y with discharge := false }) (modulesOff outlet s)
    if x.follows ∧ 50000 ≤ x.busAt - x.vBus then
      let weld (y : Driver) : Driver := { y with state := 4, fault := 4 }
      let s1 := feedbackReport (2 * outlet + 1) 0 (feedbackReport (2 * outlet) 0 s1)
      let s1 := updDrv (2 * outlet + 1) weld (updDrv (2 * outlet) weld s1)
      .next (lockOutlet outlet (event 0x0626 (le 1 (2 * outlet) ++ le 1 1 ++ s.stamp) s1))
    else .next (weldDone outlet s1)
  else .next s

/-! Joins. -/

/-- The matrix driver that joins segment m to a segment of n's group (R304, R305). -/
def joinDriver (s : State) (n m : Nat) : Option Nat :=
  ((List.range 8).map (· + 16)).find? (fun d =>
    fld (kCfg s d) 0 2 == 0 && (drv s d).state == 0 &&
      (let j := matrixJoins d
       (j.1 == m && ownerOf s j.2 == some n) || (j.2 == m && ownerOf s j.1 == some n)))

/-- Matrix contactors commanded on or about to be. -/
def matrixClosed (s : State) : Nat :=
  (((List.range 8).map (· + 16)).filter (fun d => fld (kCfg s d) 0 2 == 0 && ((drv s d).cmd || (jobOf s d).isSome))).length

/-- The VAUX peak of matrix driver d's pull-in alone is within the budget; its internal peak always is (R36). -/
def pullInFits (s : State) (d : Nat) : Bool :=
  decide (pullInW s d ≤ s.ease.vauxBudget.toNat)

/-- BUS_JOIN (Table 9-22). An outlet outside ENERGY, and a segment under another job or owner, is busy. Leave is asked only once the
voltages match: NO_LEAVE answers a pull-in whose peak alone exceeds a budget, and a later refusal ends the join with BUS_CHANGED (DEDUCED,
log 20). -/
def busJoinCmd (h : Hdr) (p : List Byte) (s : State) : Cmd :=
  let n := byteAt p 0
  let m := byteAt p 1
  let d := joinDriver s n m
  { form := p.length == 2, role := decide (1 ≤ s.roles.role), mode := s.modes.mode == .service,
    params := s.present n && s.present m && n != m && decide (ownerOf s m ≠ some n) && d.isSome && decide (matrixClosed s < 7),
    free := (sq s n).state == 5 && (sq s m).state == 0 && (ownerOf s m).isNone && !s.sw.jobs.any (fun j => bit j.segments m),
    run :=
      { st := if !pullInFits s (d.getD 16) then s else { s with sw := { s.sw with jobs := s.sw.jobs ++
                  [{ segment := m, segments := maskOf 8 [m], owner := n, driver := d.getD 16, ack := flagAck h.flags }] } },
        status := if pullInFits s (d.getD 16) then .queued else .noLeave } }

/-- BUS_JOIN starts joining a segment to an outlet's group (R319). -/
def execBusJoin (h : Hdr) (p : List Byte) (s : State) : Host.Outcome State Fault Refusal :=
  .next (hostCommand h 0x0610 p (busJoinCmd h p) s)

/-- The segment's V_BUS has matched for 10 frames: the matrix contactor asks leave (R319, R41). -/
def execSegmentVoltageMatched (segment : Nat) (s : State) : Host.Outcome State Fault Refusal :=
  match s.sw.jobs.find? (fun j => j.segment == segment && j.join && j.phase == 0 && decide (10 ≤ j.run)) with
  | some j =>
    let s1 := { s with sw := { s.sw with jobs := s.sw.jobs.map (fun k =>
                                if k.segment = segment then { k with phase := 1 } else k) } }
    .next (requestPullIn [j.driver] (min (matrixJoins j.driver).1 (matrixJoins j.driver).2) false s1)
  | none => .next s

/-- Segments of n's group that closed matrix contactors join to those of a mask, without segment m, in one pass. -/
def spread (s : State) (n m : Nat) (g : BitVec 8) : BitVec 8 :=
  ((groupMatrix s n).filter (fun d => (matrixJoins d).1 != m && (matrixJoins d).2 != m)).foldl (fun g d =>
    let j := matrixJoins d
    if bit g j.1 || bit g j.2 then setBit (setBit g j.1 true) j.2 true else g) g

/-- The segments that leave n's group with segment m: m, and those joined to the owner only through it (R304; DESIGN CHOICE, log 20). -/
def releaseSet (s : State) (n m : Nat) : BitVec 8 :=
  groupOf s n &&& ~~~ ((List.range 8).foldl (fun g _ => spread s n m g) (maskOf 8 [n]))

/-- BUS_RELEASE (Table 9-22): every closed contactor of a leaving segment opens. -/
def busReleaseCmd (h : Hdr) (p : List Byte) (s : State) : Cmd :=
  let m := byteAt p 0
  let n := (ownerOf s m).getD m
  let g := releaseSet s n m
  let ds := (groupMatrix s n).filter (fun d => bit g (matrixJoins d).1 || bit g (matrixJoins d).2)
  { form := p.length == 1, role := decide (1 ≤ s.roles.role), mode := s.modes.mode == .service,
    params := s.present m && n != m && !ds.isEmpty,
    free := !s.sw.jobs.any (fun j => j.segments &&& g != 0),
    run :=
      { st := { s with sw := { s.sw with jobs := s.sw.jobs ++
                  [{ segment := m, segments := g, owner := n, driver := ds.headD 16, also := ds.tail, join := false,
                     ack := flagAck h.flags }] } },
        status := .queued } }

/-- BUS_RELEASE removes a segment's share and opens its matrix contactor (R319). -/
def execBusRelease (h : Hdr) (p : List Byte) (s : State) : Host.Outcome State Fault Refusal :=
  .next (hostCommand h 0x0611 p (busReleaseCmd h p) s)

/-! Power modules. -/

/-- Lengths of CAN FD payloads (ISO 11898-1, which R313 names). -/
def canLength (n : Nat) : Nat := ([8, 12, 16, 20, 24, 32, 48, 64].find? (fun l => decide (n ≤ l))).getD 64

/-- A payload of the profile: padded, rolling counter, CRC-32C over every preceding byte (R313). -/
def canPayload (p : List Byte) (counter : Byte) : List Byte :=
  let l := canLength (p.length + 5)
  let b := padTo (l - 5) p ++ [counter]
  b ++ le 4 (crc32c b)

/-- A received payload is whole: its length, its CRC, and a counter that advances past the last one (R313). An advance is a
forward difference of 1 to 127 (DEDUCED, log 21). -/
def canValid (dataLen : Nat) (last : Option Byte) (p : List Byte) : Bool :=
  let l := canLength (dataLen + 5)
  let c := (p[l - 5]?).getD 0
  p.length == l && numAt p (l - 4) 4 == crc32c (p.take (l - 4)) &&
    (match last with
      | none => true
      | some k => decide (1 ≤ (c - k).toNat) && decide ((c - k).toNat ≤ 127))

/-- The rolling counter of a received payload. -/
def canCounter (dataLen : Nat) (p : List Byte) : Byte := (p[canLength (dataLen + 5) - 5]?).getD 0

/-- A target entry of 8 bytes, with the targets of the frame before (Table 9-3, R313). -/
def targetEntry (s : State) (m : Nat) : List Byte :=
  let x := (pmod s m).prev
  le 1 m ++ le 1 x.1 ++ le 2 x.2.1 ++ leInt 2 x.2.2.1 ++ le 2 x.2.2.2

/-- Frames of targets: up to 7 entries each, identifiers 0x00, 0x01, 0x02. -/
def targetFrames (s : State) (base : Nat) : Nat → List Nat → Byte → List (Nat × List Byte)
  | 0, _, _ => []
  | k + 1, ms, c =>
    if ms.isEmpty then []
    else (base, canPayload ((ms.take 7).map (targetEntry s)).flatten c) :: targetFrames s (base + 1) k (ms.drop 7) (c + 1)

/-- Every 10 frames the targets, and every 10 ms the permit levels, are sent on a bus (Table 9-3, R313). -/
def execPmTargetTransmit (bus : Nat) (s : State) : Host.Outcome State Fault Refusal :=
  if !s.regionsRun ∨ 2 ≤ bus ∨ s.now % 10 ≠ 0 then .next s
  else
    let base := fld s.sw.busConfig 0 11
    let ms := (List.range 16).filter (fun m => pmEnabled s m && fld (pmCfg s m) 1 1 == bus)
    let fr := targetFrames s base 3 ms s.sw.txCounter
    let c1 := s.sw.txCounter + BitVec.ofNat 8 fr.length
    let pf := if s.now % 200 = 0 then [(base + 0x10, canPayload (le 1 s.sw.permit.toNat ++ s.stamp) c1)] else []
    .next { s with sw := { s.sw with canOut := fr ++ pf, txCounter := c1 + BitVec.ofNat 8 pf.length } }

/-- A group without a healthy module is stopped by Safe Ramp Stop, which ends at once with the release of its permits (R314). -/
def stopWithoutModule (n : Nat) (s : State) : State :=
  let x := sq s n
  if 2 ≤ x.state ∧ x.state ≤ 6 ∧ (healthyModules s n).isEmpty then
    let s1 := if x.state = 6 then s else safeRampStop n 7 (tRampEmerg s n) (endAfterStop n 10 s)
    match (sq s1 n).ramp with
    | some r => openPair n (safeStopEvent n 0 r (updSq n (fun y => { y with ramp := none }) s1))
    | none => s1
  else s

/-- The owner of module m's segment loses it when it was the last healthy one (R312, R314). -/
def moduleGone (m : Nat) (s : State) : State :=
  match ownerOf s (pmSegment s m) with
  | some n => stopWithoutModule n s
  | none => s

/-- Module m is enabled and its CAN FD controller works (R17). -/
def pmReached (s : State) (m : Nat) : Bool := pmEnabled s m && !bit s.faults.canCells (fld (pmCfg s m) 1 1)

/-- A module's status frame (Table 9-3): discarded unless its CRC holds and its counter advances (R313). Its fault bits decide
HEALTH; a lost module that reports again is healthy (DEDUCED, log 21). -/
def execPmStatusFrame (module : Nat) (payload : List Byte) (s : State) : Host.Outcome State Fault Refusal :=
  if !(s.regionsRun && pmReached s module && canValid 8 (pmod s module).counter payload) then .next s
  else
    let now := s.now
    let bad := numAt payload 6 2 != 0
    let s1 := updPm module (fun x =>
      { x with health := if bad then 2 else 1, voltage := numAt payload 1 2, current := signedOf 16 (numAt payload 3 2),
               temp := byteAt payload 5, faultBits := BitVec.ofNat 16 (numAt payload 6 2), lastAt := now,
               counter := some (canCounter 8 payload) }) s
    .next (if bad then moduleGone module s1 else s1)

/-- A module's fault frame: its segment keeps only its healthy modules (R312). -/
def execPmFaultFrame (module : Nat) (payload : List Byte) (s : State) : Host.Outcome State Fault Refusal :=
  if !(s.regionsRun && pmReached s module && canValid 4 (pmod s module).faultCounter payload) then .next s
  else
    .next (moduleGone module (updPm module (fun x =>
      { x with health := 2, faultBits := BitVec.ofNat 16 (numAt payload 0 2),
               faultCounter := some (canCounter 4 payload) }) s))

/-- 50 ms without a valid status frame marks the module lost (R314). -/
def execPmLost (module : Nat) (s : State) : Host.Outcome State Fault Refusal :=
  let x := pmod s module
  if s.regionsRun ∧ pmEnabled s module ∧ x.health ≠ 3 ∧ x.lastAt + msF 50 ≤ s.now then
    let s1 := updPm module (fun y => { y with health := 3 }) s
    .next (moduleGone module (event 0x062A (le 1 module ++ le 1 (pmSegment s module) ++ s.stamp) s1))
  else .next s

/-! Safety inputs. -/

/-- Safety input i. -/
def sin (s : State) (i : Nat) : SafeIn := vget s.sw.inputs i {}

/-- Safety input i rewritten. -/
def updIn (i : Nat) (f : SafeIn → SafeIn) (s : State) : State :=
  { s with sw := { s.sw with inputs := vmod s.sw.inputs i f } }

/-- A channel is in its demand state (R331): in equivalent mode off; in antivalent mode A off, B on. -/
def demandA (a : Bool) : Bool := !a
def demandB (cfg : BitVec 48) (b : Bool) : Bool := if bit cfg 3 then b else !b

/-- The reaction of Table 9-9 in the input's scope. -/
def demandReaction (i : Nat) (s : State) : State :=
  let outs := (bitList (inScope s i)).filter s.present
  if inFunc s i = 1 then
    let s1 := outs.foldl (fun s n => fastStop n 3 true s) s
    (((List.range 8).map (· + 16)).filter (isAux s)).foldl (fun s d => driverOff d s) s1
  else if inFunc s i = 2 ∨ inFunc s i = 3 then outs.foldl (fun s n => demandStop n 3 (tRampEmerg s n) s) s
  else s

/-- Input i enters its demand: SAFETY_DEMAND and the reaction, once (R331). -/
def enterDemand (i : Nat) (s : State) : State :=
  if (sin s i).demand then s
  else
    let s1 := updIn i (fun x => { x with demand := true, await := false, seen := true }) s
    demandReaction i (event 0x0627 (le 1 i ++ le 1 1 ++ s.stamp) s1)

/-- A channel of input i, or a test-pulse source that it uses, is isolated: its function stays in its demand state (R17). -/
def inputIsolated (s : State) (i : Nat) : Bool :=
  inFunc s i != 0 && (bit s.faults.inputCells i ||
    (decide (fld (inCfg s i) 4 3 < 4) && bit s.faults.pulseCells (fld (inCfg s i) 4 3)) ||
    (decide (fld (inCfg s i) 7 3 < 4) && bit s.faults.pulseCells (fld (inCfg s i) 7 3)))

/-- Every function with an isolated channel or source is in demand (R17). -/
def isolatedDemands (s : State) : State :=
  (List.range 8).foldl (fun s i => if inputIsolated s i then enterDemand i s else s) s

/-- Input i is faulty, which counts as a demand (R331, R333). -/
def inputFaulty (i kind : Nat) (s : State) : State :=
  if (sin s i).fault then s
  else
    let s1 := updIn i (fun x => { x with fault := true, bothSeen := false }) s
    enterDemand i (event 0x0628 (le 1 i ++ le 1 kind ++ s.stamp) s1)

/-- The start-up test ends with a result and the first 8 bytes of CONFIG_HASH (R335, Table 9-23). -/
def testDone (result : Nat) (s : State) : State :=
  let s1 := if result = 0 then
      { s with sw := { s.sw with proofHash := some (configHash s), proofAt := s.clock.legal } } else s
  let ack := s1.sw.testAck
  let ins := s1.sw.inputs.map (fun x => { x with proven := false, seen := false })
  emit 0x0629 (le 1 result ++ (le 32 (configHash s).toNat).take 8) ack
    { s1 with sw := { s1.sw with testAt := none, testAck := false, inputs := ins } }

/-- The start-up test is complete once every input in use has cycled (R335). -/
def testCheck (s : State) : State :=
  if s.sw.testAt.isSome ∧ (List.range 8).all (fun i => inFunc s i == 0 || (sin s i).proven) then testDone 0 s else s

/-- A demand has ended with effect (R331, R335). -/
def demandEnded (i : Nat) (s : State) : State :=
  let s1 := updIn i (fun x => { x with await := false, proven := x.proven || (s.sw.testAt.isSome && x.seen) }) s
  testCheck (event 0x0627 (le 1 i ++ le 1 0 ++ s.stamp) s1)

/-- A channel of input i with source `src` ignores an edge of its own, seen at its confirmation FILTER_MS later, in the 0.8 ms from the
start of its source's test pulse (R333). -/
def edgeMasked (s : State) (i src : Nat) : Bool :=
  decide (src < 4) && decide ((s.clock.legal % 20000 + 40000 - msF (fld (inCfg s i) 16 8) - src * 5000) % 20000 < 16)

/-- The levels of input i's channels when they are confirmed: a masked channel keeps its last one (R331, R333). -/
def confirmedA (s : State) (i : Nat) (a : Bool) : Bool := if edgeMasked s i (fld (inCfg s i) 4 3) then (sin s i).a else a
def confirmedB (s : State) (i : Nat) (b : Bool) : Bool := if edgeMasked s i (fld (inCfg s i) 7 3) then (sin s i).b else b

/-- A channel enters its demand state, confirmed by FILTER_MS (R331, Table 9-9). -/
def execSafetyInputDemand (input : Nat) (aRead bRead : Bool) (s : State) : Host.Outcome State Fault Refusal :=
  let cfg := inCfg s input
  let a := confirmedA s input aRead
  let b := confirmedB s input bRead
  let da := demandA a
  let db := demandB cfg b
  if !(s.regionsRun && decide (input < 8) && inFunc s input != 0 && (da || db)) then .next s
  else
    let now := s.now
    let s1 := updIn input (fun x =>
      { x with a := a, b := b, bothSeen := x.bothSeen || (x.fault && da && db),
               apartAt := if da && db then none else some (x.apartAt.getD now) }) s
    .next (enterDemand input s1)

/-- Both channels are normal again: the demand ends, at once or on SAFETY_RESET; a faulty input needs both channels to have
shown demand together first (R331). -/
def execSafetyDemandEnd (input : Nat) (aRead bRead : Bool) (s : State) : Host.Outcome State Fault Refusal :=
  let cfg := inCfg s input
  let a := confirmedA s input aRead
  let b := confirmedB s input bRead
  let x := sin s input
  if !(s.regionsRun && decide (input < 8) && x.demand && !demandA a && !demandB cfg b) then .next s
  else
    let s1 := updIn input (fun x => { x with a := a, b := b, apartAt := none }) s
    if (x.fault && !x.bothSeen) || inputIsolated s input then .next s1
    else if bit cfg 40 then .next (updIn input (fun x => { x with fault := false, demand := false, await := true }) s1)
    else .next (demandEnded input (updIn input (fun x => { x with fault := false, demand := false }) s1))

/-- The channels disagree for longer than DISCREPANCY_MS (R331). -/
def execDiscrepancyTimeout (input : Nat) (s : State) : Host.Outcome State Fault Refusal :=
  match (sin s input).apartAt with
  | some t =>
    if s.regionsRun ∧ input < 8 ∧ t + msF (fld (inCfg s input) 24 8) ≤ s.now then .next (inputFaulty input 0 s) else .next s
  | none => .next s

/-- What a test pulse of TPOk shows on one channel: nothing, stuck on, or a cross-short (R333). `src` is the channel's source,
`normalOn` its level without demand, `off` whether it read off during the pulse. -/
def pulseFault (k src : Nat) (normalOn off : Bool) : Option Nat :=
  if !normalOn || decide (4 ≤ src) then none
  else if src = k then (if off then none else some 1)
  else (if off then some 2 else none)

/-- A TPOk off-pulse is given at frame k × 5,000 and the channels are checked; an input in demand is not tested (R333). -/
def execInputTestPulse (k : Nat) (readsOff : List (Nat × Bool × Bool)) (s : State) : Host.Outcome State Fault Refusal :=
  if !s.regionsRun ∨ 4 ≤ k ∨ s.clock.legal % 20000 ≠ k * 5000 then .next s
  else
    .next ((List.range 8).foldl (fun s i =>
      if inFunc s i = 0 ∨ (sin s i).demand then s
      else
        let cfg := inCfg s i
        let off := readsOff.find? (fun r => r.1 == i)
        let oa := match off with | some r => r.2.1 | none => false
        let ob := match off with | some r => r.2.2 | none => false
        match pulseFault k (fld cfg 4 3) true oa, pulseFault k (fld cfg 7 3) (!bit cfg 3) ob with
        | some f, _ => inputFaulty i f s
        | none, some f => inputFaulty i f s
        | none, none => s) s)

/-- A driver's test pulse at frame 800 × d (R334): a failed test is cause 5 of Table 9-2. A demand to de-energize under way
discards the result. An unused driver, and an auxiliary output at rest, gives no pulse. -/
def execDriverTestPulse (driver : Nat) (padOk : Bool) (cycle : Nat) (s : State) : Host.Outcome State Fault Refusal :=
  let x := drv s driver
  let rest := !x.cmd && (decide (16 ≤ driver) && fld (kCfg s driver) 0 2 != 0)
  if !s.regionsRun ∨ 24 ≤ driver ∨ s.clock.legal % 20000 ≠ 800 * driver ∨ x.hwOff.isSome ∨ rest ∨ x.state = 3 ∨ x.state = 4 then
    .next s
  else if padOk then
    .next (updDrv driver (fun y => { y with testSwitch := if y.cmd then !y.testSwitch else y.testSwitch }) s)
  else
    let s1 := feedbackReport driver cycle s
    let n? := driverOutlet s1 driver
    let s1 := match n? with
      | some n => fastStop n 5 false s1
      | none => s1
    .next (updDrv driver (fun y => { y with state := 3, fault := 5 }) (driverOff driver s1))

/-- SAFETY_RESET (Table 9-22). -/
def safetyResetCmd (p : List Byte) (s : State) : Cmd :=
  let m := BitVec.ofNat 8 (byteAt p 0)
  let blocked := (bitList m).any (fun i => (sin s i).demand || (sin s i).fault)
  { form := p.length == 1, role := decide (1 ≤ s.roles.role),
    run := if blocked then { st := s, status := .notConfirmed }
           else { st := (bitList m).foldl (fun s i => if (sin s i).await then demandEnded i s else s) s } }

/-- SAFETY_RESET ends demands that await a manual reset (R331). -/
def execSafetyReset (h : Hdr) (p : List Byte) (s : State) : Host.Outcome State Fault Refusal :=
  .next (hostCommand h 0x0612 p (safetyResetCmd p) s)

/-- STARTUP_TEST (Table 9-22, R335): a GUARD or ENABLE input cycles from a demand to normal; an EMERGENCY_STOP or STOP_CAT1 input must
be pressed after the start. -/
def startupTestCmd (h : Hdr) (p : List Byte) (s : State) : Cmd :=
  let ins := Vector.ofFn (fun i : Fin 8 =>
    { sin s i.val with proven := false, seen := (sin s i.val).demand && decide (3 ≤ inFunc s i.val) })
  { form := p.length == 0, role := decide (2 ≤ s.roles.role), mode := s.modes.mode == .commissioning,
    free := s.sw.testAt.isNone,
    run := { st := testCheck { s with sw := { s.sw with testAt := some s.now, testAck := flagAck h.flags, inputs := ins } },
             status := .queued } }

/-- STARTUP_TEST starts the start-up test (R335). -/
def execStartupTest (h : Hdr) (p : List Byte) (s : State) : Host.Outcome State Fault Refusal :=
  .next (hostCommand h 0x0613 p (startupTestCmd h p) s)

/-- A start-up test not complete after 30 min ends with result 1 (R335). -/
def execStartupTestTimeout (s : State) : Host.Outcome State Fault Refusal :=
  match s.sw.testAt with
  | some t => if t + secF 1800 ≤ s.now then .next (testDone 1 s) else .next s
  | none => .next s

/-- WELD_CLEAR (Table 9-22). It ends the weld of a matrix driver too, once that driver's mirror input reads on (DEDUCED, log 20). -/
def weldClearCmd (p : List Byte) (s : State) : Cmd :=
  let n := byteAt p 0
  let ok := (drv s (2 * n)).mainOpen && (drv s (2 * n + 1)).mainOpen
  let clear (y : Driver) : Driver := if y.state = 4 then { y with state := 0, fault := 0 } else y
  { form := p.length == 1, role := decide (2 ≤ s.roles.role), mode := standbyOrComm s, params := s.present n,
    run := if ok then
        { st := if (sq s n).state = 9 then
                  let ds := [2 * n, 2 * n + 1] ++ ((List.range 8).map (· + 16)).filter (fun d => (drv s d).mainOpen)
                  seqTo n 0 (ds.foldl (fun s d => updDrv d clear s) s)
                else s }
      else { st := s, status := .notConfirmed } }

/-- WELD_CLEAR releases a LOCKED outlet once its mirror inputs read on (R340). -/
def execWeldClear (h : Hdr) (p : List Byte) (s : State) : Host.Outcome State Fault Refusal :=
  .next (hostCommand h 0x0614 p (weldClearCmd p) s)

/-- An emergency stop is in demand, faulty or awaits its reset. -/
def emergencyHeld (s : State) : Bool :=
  (List.range 8).any (fun i => inFunc s i == 1 && ((sin s i).demand || (sin s i).fault || (sin s i).await))

/-- AUX_CONTACTOR (Table 9-22). A second switch-on while the first awaits leave is busy (DEDUCED, log 20). -/
def auxCmd (p : List Byte) (s : State) : Cmd :=
  let d := byteAt p 0
  let on := byteAt p 1 == 1
  { form := p.length == 2, role := decide (1 ≤ s.roles.role),
    mode := s.modes.mode == .standby || s.modes.mode == .service || s.modes.mode == .commissioning,
    params := isAux s d && decide (byteAt p 1 ≤ 1),
    free := !on || (drv s d).req.isNone || (drv s d).cmd,
    run :=
      if !on then { st := driverOff d s }
      else if emergencyHeld s || (drv s d).state == 3 || (drv s d).state == 4 then { st := s, status := .notConfirmed }
      else if (drv s d).cmd then { st := s }
      else { st := requestPullIn [d] 0 true s, wait := some (nextReq s) } }

/-- AUX_CONTACTOR switches an auxiliary safety output (R305); switching on waits for leave (R36). -/
def execAuxContactor (h : Hdr) (p : List Byte) (s : State) : Host.Outcome State Fault Refusal :=
  .next (hostCommand h 0x0615 p (auxCmd p) s)

/-! The frame's work on switching. -/

/-- The calibrated CONTROL output of input x of outlet n in mV or mA, and whether it is VALID (R265, Table 5-6). -/
def controlMilli (s : State) (n x : Nat) : Int := Int.tdiv (calibrated s n x (modIn s n x).control.code) (2 ^ 40)
def controlOk (s : State) (n x : Nat) : Bool := modEnabled s n x && bitsOf (modIn s n x).control.flags 0 1 == 1

/-- The sequence takes new CONTROL outputs: the runs of precharge match, of contactors apart, of the cable check and of the decay test
(R316, R317, R320). An output of input 5 or 6 that is not VALID matches nothing and shows nothing apart (DESIGN CHOICE, log 33). -/
def takeControl (s : State) (n : Nat) (y : Seq) : Seq :=
  let v := controlMilli s n 5
  let b := controlMilli s n 6
  let tol : Nat := 1000 * fld (swCfg s n) 32 8
  let near := controlOk s n 5 && decide ((v - 1000 * (y.target : Int)).natAbs ≤ tol)
  let apart := controlOk s n 5 && controlOk s n 6 && decide (50 * vFs s n < (v - b).natAbs)
  { y with vVeh := v, iOut := controlMilli s n 1, vBus := b,
           matchRun := if y.state = 4 ∧ near then y.matchRun + 1 else 0,
           apartRun := if 2 ≤ y.state ∧ y.state ≤ 5 ∧ apart then y.apartRun + 1 else 0,
           ccSince := if y.state = 3 ∧ controlOk s n 5 ∧ (v - 1000 * (y.ucc : Int)).natAbs ≤ 50 * y.ucc then some (y.ccSince.getD s.now)
                      else none,
           follows := y.follows && decide ((v - b).natAbs ≤ 20000) }

/-- New CONTROL outputs of outlet n are judged: they end a ramp below its threshold, and renew the limits (R318, R321). -/
def ctrlFrame (n : Nat) (s : State) : State :=
  let s1 := updSq n (takeControl s n) s
  let x := sq s1 n
  if x.state = 6 then
    match x.ramp with
    | some r =>
      if x.iOut.natAbs < r.threshold then
        openPair n (safeStopEvent n (if r.late then 1 else 0) r (updSq n (fun y => { y with ramp := none }) s1))
      else s1
    | none => s1
  else if x.state = 5 then
    updSq n (fun y => { y with limit := sat 16 (currentLimit s1 n (decide (y.request < 0))) }) s1
  else s1

/-- The plug sensors of an outlet: at TPLUG_STOP, or with a sensor outside its range, the session stops (R318). -/
def plugFrame (n : Nat) (t : Int) (ok : Bool) (s : State) : State :=
  let s1 := updSq n (fun y => { y with plug := t }) s
  let st := (sq s n).state
  if 1 ≤ st ∧ st ≤ 6 ∧ (!ok ∨ (10 * (fld (swCfg s n) 56 8 : Nat) : Int) ≤ t) then demandStop n 6 (tRampEmerg s n) s1 else s1

/-- The mode, voltage target (0.1 V), current target and limit (0.1 A) of module m in this frame (R312, R313, R315, R319,
R321). -/
def moduleTarget (s : State) (m : Nat) : Nat × Nat × Int × Nat :=
  let seg := pmSegment s m
  let volt (v lim : Nat) : Nat × Nat × Int × Nat := (1, sat 16 (10 * v), 0, lim)
  if !pmEnabled s m || (pmod s m).health != 1 then (0, 0, 0, 0)
  else
    match s.sw.jobs.find? (fun j => bit j.segments seg) with
    | some j =>
      if j.join then (1, sat 16 ((sq s j.owner).vBus.toNat / 100), 0, 20) else (0, 0, 0, 0)
    | none =>
      match ownerOf s seg with
      | none => (0, 0, 0, 0)
      | some n =>
        let x := sq s n
        let ms := healthyModules s n
        let low : Int := if pmBidir s m then -(10 * pmIMax s m : Int) else 0
        let share (i : Int) : Int :=
          let k := max 1 (if i < 0 then ms.filter (pmBidir s) else ms).length
          max low (min (10 * pmIMax s m : Int) (Int.tdiv i (k : Int)))
        let clip (i : Int) : Int := max (-(10 * x.limit : Int)) (min (10 * x.limit : Int) i)
        match x.state with
        | 2 => volt 50 20
        | 3 => volt x.ucc 20
        | 4 => volt x.target 20
        | 5 => (2, sat 16 (10 * x.ucc), share (clip x.request), 10 * pmIMax s m)
        | 6 =>
          match x.ramp with
          | some r =>
            let left := (r.t0 + r.len) - s.now
            let i : Int := (r.start * left / max 1 r.len / 100 : Nat)
            (2, sat 16 (10 * x.ucc), share (if x.iOut < 0 then -i else i), 10 * pmIMax s m)
          | none => (0, 0, 0, 0)
        | 8 => if x.discharge && !x.halted then (3, 0, 0, 20) else (0, 0, 0, 0)
        | _ => (0, 0, 0, 0)

/-- The current targets of every module (Table 1-5); those of the frame before are what the next transmission carries (R313). -/
def targetsFrame (s : State) : State :=
  (List.range 16).foldl (fun s m =>
    let t := moduleTarget s m
    updPm m (fun x => { x with prev := (x.mode, x.vTarget, x.iTarget, x.iLimit), mode := t.1, vTarget := t.2.1,
                               iTarget := t.2.2.1, iLimit := t.2.2.2 }) s) s

/-- The current of segment g's modules in 0.1 A. -/
def segmentCurrent (s : State) (g : Nat) : Nat :=
  (((List.range 16).filter (fun m => pmEnabled s m && pmSegment s m == g)).map (fun m => (pmod s m).current.natAbs)).foldl (· + ·) 0

/-- Joins count matching frames; releases open their contactor once the segment's module current is below 2 A (R319). -/
def jobsFrame (s : State) : State :=
  let upd := s.sw.jobs.map (fun j =>
    if j.join && j.phase == 0 then
      let near := decide (((sq s j.segment).vBus - (sq s j.owner).vBus).natAbs ≤ 10000)
      { j with run := if near then j.run + 1 else 0 }
    else j)
  let s1 := { s with sw := { s.sw with jobs := upd } }
  (upd.filter (fun j => !j.join && j.phase == 0)).foldl (fun s j =>
    if (bitList j.segments).all (fun g => decide (segmentCurrent s g < 20)) then
      let js := s.sw.jobs.map (fun k => if k.segment = j.segment then { k with phase := 1 } else k)
      (j.driver :: j.also).foldl (fun s d => driverOff d s) { s with sw := { s.sw with jobs := js } }
    else s) s1

/-- The switching work of a frame. -/
def switchFrame (m : FrameIn) (s : State) : State :=
  let s1 := (s.outlets.filter (fun n => (engine s (n / 2)).fresh)).foldl (fun s n => ctrlFrame n s) s
  let s1 := (m.plugs.filter (fun c => s.present c.1)).foldl (fun s c => plugFrame c.1 c.2.1 c.2.2 s) s1
  let s1 := m.coils.foldl (fun s c => updDrv c.1 (fun y => { y with current := if y.cmd then sat 16 c.2 else 0 }) s) s1
  targetsFrame (jobsFrame (isolatedDemands s1))

end Sys2Proof.Machine
end

