-- ==== Sys2Proof/Machine/Insulation.lean ====
section
/-!
DEFINITION. Plumb insulation monitoring: injection, conversion of correlations, groups, status and location (R184 to R187, R323 to
R330). Conductances are in 10^-15 S, injected and received levels in microvolts.
-/

namespace Sys2Proof.Machine

/-- PLUMB_CORR of outlet n. -/
def corrOf (s : State) (n : Nat) : PlumbCorr := vget s.fe.plumb n {}

/-- Outlet n holds its standing grant of class 2, and its injection source works (R17, R38, R324). -/
def injects (s : State) (n : Nat) : Bool :=
  s.present n && plEnabled s n && !bit s.faults.plumbCells n && s.ease.charges.any (fun c => c.rq.cls == 2 && c.rq.requester == n)

/-- Signs of the Walsh codes (Table 9-7): sign of code q at step j. -/
def walsh (q j : Nat) : Bool :=
  match q with
  | 0 => true
  | 1 => j % 2 == 0
  | 2 => j / 2 % 2 == 0
  | 3 => (j / 2 + j) % 2 == 0
  | 4 => decide (j < 4)
  | 5 => (j / 4 + j) % 2 == 0
  | 6 => (j / 4 + j / 2) % 2 == 0
  | 7 => (j / 4 + j / 2 + j) % 2 == 0
  | _ => true

/-- The sign that outlet's code q has in step number j since the first boundary: code 0 is inverted in every second period (R184, R186,
R324). -/
def injSign (q j : Nat) : Int := if (q == 0 && j / 8 % 2 == 1) != walsh q (j % 8) then 1 else -1

/-- The outlets that inject now. -/
def injecting (s : State) : BitVec 8 := maskOf 8 ((List.range 8).filter (injects s))

/-- Every 2,000 frames the injection takes the signs of the next step (R324); the first boundary after a decimator reset starts
the count of periods. The correlators are given the step (R184). -/
def execPlumbStepBoundary (s : State) : Host.Outcome State Fault Refusal :=
  if !s.regionsRun ∨ s.clock.legal % 2000 ≠ 0 ∨ s.fe.steps.head?.map (·.start) = some s.now then .next s
  else
    let k := match s.fe.steps with
      | [] => 0
      | p :: _ => p.number + 1
    let p : PlumbStep := { start := s.now, legal := s.clock.legal, number := k, injected := injecting s }
    .next { s with fe := { s.fe with plumbSince := some (s.fe.plumbSince.getD s.now), plumbStep := k % 8,
                                     steps := (p :: s.fe.steps).take 18 } }

/-- An outlet that does not inject in a frame has not injected throughout the step (R187). -/
def injectedFrame (s : State) : State :=
  match s.fe.steps with
  | [] => s
  | p :: t => { s with fe := { s.fe with steps := { p with injected := p.injected &&& injecting s } :: t } }

/-- The frame's work on injection: the standing grant is asked for (R38, R324), with the next frame as its latest start, and again 1 s after
a refusal (DESIGN CHOICE, log 44: no rule gives either). -/
def plumbFrame (s0 : State) : State :=
  (List.range 8).foldl (fun s n =>
    let want := s.present n && plEnabled s n && !s.shutting && !s.faults.globalSafe
    let has := s.ease.charges.any (fun c => c.rq.cls == 2 && c.rq.requester == n)
    let asks := s.ease.requests.any (fun r => r.cls == 2 && r.requester == n)
    let wait := match (ins s n).leaveAt with
      | some t => decide (s.now < t + secF 1)
      | none => false
    if want && !has && !asks && !wait then
      submit { cls := 2, requester := n, intPeak := Config.plumbInternal, vauxPeak := Config.plumbVaux, duration := 1,
               latest := s.now + 1, standing := true } s
    else if !want && has then
      (s.ease.charges.filter (fun c => c.rq.cls == 2 && c.rq.requester == n)).foldl (fun s c => release c.rq.id s) s
    else s) (injectedFrame s0)

/-! Groups. -/

/-- Segments joined to those of a mask by confirmed closed matrix contactors, in one pass. -/
def growGroup (s : State) (g : BitVec 8) : BitVec 8 :=
  ((List.range 8).map (· + 16)).foldl (fun g d =>
    if fld (kCfg s d) 0 2 = 0 && (drv s d).cmd && !(drv s d).mainOpen then
      let j := matrixJoins d
      if bit g j.1 || bit g j.2 then setBit (setBit g j.1 true) j.2 true else g
    else g) g

/-- The group of segment q by confirmed contactor states (R328). -/
def expectedGroup (s : State) (q : Nat) : BitVec 8 :=
  (List.range 8).foldl (fun g _ => growGroup s g) (maskOf 8 [q])

/-- The mean of both poles' correlations with a code, as outlet r sees it, in output codes. -/
def seen (s : State) (r code : Nat) : Int := vget (corrOf s r).corrP code 0 + vget (corrOf s r).corrN code 0

/-- Code of outlet q is valid at outlet r. -/
def codeValid (s : State) (r q : Nat) : Bool := bit (corrOf s r).validMask (plCode s q)

/-- The measured group of segment q (R328); the expected one while its code is not valid. -/
def measuredGroup (s : State) (q : Nat) : BitVec 8 :=
  if !codeValid s q q then expectedGroup s q
  else
    let c := plCode s q
    maskOf 8 (s.outlets.filter (fun r =>
      r == q || (codeValid s r q && decide ((seen s q c).natAbs < 20 * (seen s r c).natAbs))))

/-! Conversion. -/

/-- A code difference of input x of outlet n in microvolts (R265, R326). -/
def toMicro (s : State) (n x : Nat) (c : Int) : Int := c * (fld (vget s.seals.cal n 0) (64 * x) 32 : Nat) * 1000 / 2 ^ 40

/-- An output code of input x of outlet n in mV (R265). -/
def toMilli (s : State) (n x : Nat) (c : Int) : Int := calibrated s n x c / 2 ^ 40

/-- 1 / R_DIV and 1 / R_COUPLE of outlet n. -/
def gDiv (s : State) (n : Nat) : Int := 10000000000 / (max 1 (fld (plCfg s n) 20 12) : Nat)
def gCouple (s : State) (n : Nat) : Int := 1000000000000 / (max 1 (fld (plCfg s n) 8 12) : Nat)

/-- The pole sum S_q of a group (R326). With no response the quotient has no value. -/
def poleSum (s : State) (g : BitVec 8) (q : Nat) : Int :=
  let c := plCode s q
  let dv := (toMicro s q 3 (vget (corrOf s q).corrP c 0) + toMicro s q 4 (vget (corrOf s q).corrN c 0)) / 2
  let u : Int := (100000 * fld (plCfg s q) 32 8 : Nat)
  let num := 2 * gCouple s q * (u - dv)
  let quot := if dv = 0 then Config.divByZero num else num / dv
  quot - sumInt ((bitList g).map (fun m => 2 * gDiv s m)) -
    sumInt (((bitList g).filter (fun m => m != q)).map (fun m => 2 * gCouple s m))

/-- The codes of a group that are valid at their own outlets. -/
def validCodes (s : State) (g : BitVec 8) : List Nat := (bitList g).filter (fun q => codeValid s q q)

/-- A resistance in 0.1 kOhm from a conductance, within 10 kOhm to 50 MOhm (R326). -/
def ohmOf (g : Int) : Nat := if g ≤ 0 then 500000 else max 100 (min 500000 (10000000000000 / g).toNat)

/-- What a period says of a group: R_P, R_N, R_PAR in 0.1 kOhm, split, consistent, U in V. -/
structure Reading where
  rp : Nat
  rn : Nat
  rpar : Nat
  split : Bool
  consistent : Bool
  udc : Nat

/-- The conversion of a group's correlations (R326). -/
def convert (s : State) (g : BitVec 8) : Option Reading :=
  let vs := validCodes s g
  match vs with
  | [] => none
  | q0 :: _ =>
    let main := vs.filter (fun q => plCode s q != 0)
    let use := if main.isEmpty then vs else main
    let sum := meanInt (use.map (poleSum s g))
    let cons := vs.all (fun q => decide (10 * (poleSum s g q - sum).natAbs ≤ sum.natAbs))
    let vp := toMilli s q0 3 (corrOf s q0).meanP
    let vn := toMilli s q0 4 (corrOf s q0).meanN
    let u := vp - vn
    let k := sumInt ((bitList g).map (fun m => gDiv s m + gCouple s m))
    if 50000 ≤ u then
      let gp := (-vn * sum - k * (vp + vn)) / u
      some { rp := ohmOf gp, rn := ohmOf (sum - gp), rpar := ohmOf sum, split := true, consistent := cons,
             udc := sat 16 (u / 1000).toNat }
    else
      some { rp := ohmOf sum, rn := ohmOf sum, rpar := ohmOf sum, split := false, consistent := cons,
             udc := sat 16 (u / 1000).toNat }

/-! Judgement. -/

/-- The highest V_FS of a group (R327). -/
def groupVfs (s : State) (g : BitVec 8) : Nat := (bitList g).foldl (fun v m => max v (vFs s m)) 0

/-- INSULATION_WARNING and INSULATION_FAULT (Table 9-23). -/
def insEvent (code n : Nat) (s : State) : State :=
  let x := ins s n
  event code (le 1 n ++ le 1 x.group.toNat ++ le 4 x.rp ++ le 4 x.rn ++ s.stamp) s

/-- LOCATED of every outlet: whether the last location names it (Table 9-17). -/
def markLocated (mask : BitVec 8) (s : State) : State :=
  (List.range 8).foldl (fun s n => updIns n (fun x => { x with located := bit mask n }) s) s

/-- A location starts for a stopped owner: at once for a single segment (R329). -/
def startLocate (n : Nat) (s : State) : State :=
  let g := groupOf s n
  if (bitList g).length ≤ 1 then
    event 0x0622 (le 1 n ++ le 1 0 ++ le 1 (maskOf 8 [n]).toNat ++ s.stamp) (markLocated (maskOf 8 [n]) s)
  else { s with sw := { s.sw with locating := s.sw.locating ++ [{ owner := n, segments := g }] } }

/-- The owner of a group that reads fault is stopped; a cable check fails (R316, R327). -/
def insulationStop (owner : Nat) (s : State) : State :=
  let st := (sq s owner).state
  if st = 0 ∨ 7 ≤ st then s
  else if st = 6 then demandStop owner 2 (tRampEmerg s owner) s
  else
    let s1 := startLocate owner s
    if st ≤ 3 then failSequence owner 2 (endAfterStop owner 10 s1)
    else demandStop owner 2 (tRampEmerg s1 owner) s1

/-- The status of outlet n from a period's reading, or from none, which breaks every run of periods (R327). -/
def judgeIns (n : Nat) (g e : BitVec 8) (r : Option Reading) (s : State) : State :=
  let old := ins s n
  let legal := s.clock.legal
  match (if bit s.faults.plumbCells n then none else r) with
  | none => updIns n (fun x => { x with status := 3, group := g, expected := e, stamp := legal, warnRun := 0, okRun := 0 }) s
  | some r =>
    let v := groupVfs s g
    let low := 100 * min r.rp r.rn
    let fault := decide (low < fld (plCfg s n) 52 12 * v)
    let warn := decide (low < fld (plCfg s n) 40 12 * v)
    let wr := if warn then old.warnRun + 1 else 0
    let ok := if warn then 0 else old.okRun + 1
    let st := if fault then 2
      else if 3 ≤ wr ∨ (warn ∧ old.judged = 2) then 1
      else if 3 ≤ ok ∨ old.judged = 0 then 0
      else if old.judged = 2 then 1 else old.judged
    let s1 := updIns n (fun x =>
      { x with rp := r.rp, rn := r.rn, rpar := r.rpar, group := g, expected := e, split := r.split, consistent := r.consistent,
               stamp := legal, udc := r.udc, warnRun := wr, okRun := ok, status := st, judged := st, faultRead := fault }) s
    if fault && old.judged != 2 then insEvent 0x0621 n s1
    else if st = 1 ∧ old.judged = 0 then insEvent 0x0620 n s1
    else s1

/-- A result counts for a cable check when the voltage was near U_CC through the whole period (R316). -/
def cableResult (n : Nat) (s : State) : State :=
  let x := sq s n
  let i := ins s n
  let near := match x.ccSince with
    | some t => decide (t + 16000 ≤ s.now)
    | none => false
  if x.state ≠ 3 then s
  else if decide (i.status ≤ 1) && near then updSq n (fun y => { y with passRun := y.passRun + 1, warned := i.status == 1 }) s
  else updSq n (fun y => { y with passRun := 0 }) s

/-- A mismatch of groups in 2 consecutive periods: every owner involved stops, the outlets are unavailable (R328). -/
def judgeGroup (n : Nat) (g e : BitVec 8) (s : State) : State :=
  if g = e then updIns n (fun x => { x with mismatchRun := 0 }) s
  else
    let k := (ins s n).mismatchRun + 1
    let s1 := updIns n (fun x => { x with mismatchRun := k }) s
    if k = 2 then
      let all := g ||| e
      let owners := ((bitList all).filterMap (ownerOf s1)).eraseDups
      let s1 := event 0x0623 (le 1 g.toNat ++ le 1 e.toNat ++ s1.stamp) s1
      let s1 := owners.foldl (fun s o => demandStop o 5 (tRampEmerg s o) s) s1
      { s1 with sw := { s1.sw with unavailable := s1.sw.unavailable ||| all } }
    else s1

/-- Every contactor of a stopped group is confirmed open. -/
def groupOpen (s : State) (l : Locate) : Bool :=
  let n := l.owner
  (drv s (2 * n)).mainOpen && (drv s (2 * n + 1)).mainOpen &&
    ((List.range 8).map (· + 16)).all (fun d =>
      !(fld (kCfg s d) 0 2 == 0 && bit l.segments (matrixJoins d).1 && bit l.segments (matrixJoins d).2) ||
        (drv s d).mainOpen)

/-- Locations advance by one whole period; after two they are reported (R329). -/
def locatePeriod (s : State) : State :=
  s.sw.locating.foldl (fun s l =>
    if !groupOpen s l then s
    else
      let bad := maskOf 8 ((bitList l.segments).filter (fun m => (ins s m).status == 2))
      let f := l.faulty ||| bad
      let drop (s : State) : State :=
        { s with sw := { s.sw with locating := s.sw.locating.filter (fun k => k.owner != l.owner) } }
      if l.periods = 2 then
        let mark := if f = 0 then maskOf 8 [l.owner] else f
        let s1 := markLocated mark (drop s)
        event 0x0622 (le 1 l.owner ++ le 1 (if f = 0 then 0 else 1) ++ le 1 f.toNat ++ s1.stamp) s1
      else
        { s with sw := { s.sw with locating := s.sw.locating.map (fun k =>
            if k.owner = l.owner then { k with periods := k.periods + 1, faulty := if k.periods = 0 then 0 else f } else k) } })
    s

/-- The steps of code period k, counted from the first boundary (R324). -/
def periodSteps (s : State) (k : Nat) : List PlumbStep := s.fe.steps.filter (fun p => p.number / 8 == k)

/-- M_j of a step at sensing outlet n, for one pole: the mean of its window, rounded down to a whole code, as its correlations are (R185,
R186; DESIGN CHOICE, log 43). -/
def stepMean (n : Nat) (poleN : Bool) (p : PlumbStep) : Int :=
  let a := vget p.sums n (0, 0)
  let c := vget p.counts n (0, 0)
  if poleN then a.2 / (max 1 c.2 : Nat) else a.1 / (max 1 c.1 : Nat)

/-- The correlation of steps with code q at outlet n: the mean of sign times M_j (R186). -/
def correlate (n q : Nat) (poleN : Bool) (ps : List PlumbStep) : Int :=
  sumInt (ps.map (fun p => injSign q p.number * stepMean n poleN p)) / (max 1 ps.length : Nat)

/-- The mean of input 3 or 4 over steps, in output codes: of the outputs delivered when the period is judged (R326; DESIGN CHOICE,
log 36). -/
def wholeMean (n : Nat) (poleN : Bool) (ps : List PlumbStep) : Int :=
  let w := ps.map (fun p => vget p.whole n (0, 0, 0))
  sumInt (w.map (fun a => if poleN then a.2.1 else a.1)) / (max 1 ((w.map (·.2.2)).foldl (· + ·) 0) : Nat)

/-- Codes whose outlet has injected throughout steps (R187). -/
def injectedCodes (s : State) (ps : List PlumbStep) : BitVec 8 :=
  let m := ps.foldl (fun m p => m &&& p.injected) 0xFF
  maskOf 8 (((List.range 8).filter (fun n => bit m n)).map (plCode s))

/-- Steps are whole at outlet n: all there, every output of their windows VALID without OVERRANGE, none empty (R187). -/
def stepsWhole (n count : Nat) (ps : List PlumbStep) : Bool :=
  ps.length == count && ps.all (fun p => !bit p.spoiled n && (vget p.counts n (0, 0)).1 != 0 && (vget p.counts n (0, 0)).2 != 0)

/-- PLUMB_CORR of outlet n for period k, which ended at a legal frame: code 0 over two periods, the other codes over one (R186,
R187). -/
def updateCorr (k endLegal n : Nat) (s : State) : State :=
  let ps := periodSteps s k
  let two := if k = 0 then ps else ps ++ periodSteps s (k - 1)
  let stepsOf (q : Nat) : List PlumbStep := if q = 0 then two else ps
  let m := if stepsWhole n 8 ps then injectedCodes s ps else 0
  let m := if stepsWhole n 16 two && bit (injectedCodes s two) 0 then m else m &&& ~~~ 1#8
  let c : PlumbCorr :=
    { periodEnd := endLegal, periodSeq := ((corrOf s n).periodSeq + 1) % 256, validMask := m,
      corrP := Vector.ofFn (fun i : Fin 8 => correlate n i.val false (stepsOf i.val)),
      corrN := Vector.ofFn (fun i : Fin 8 => correlate n i.val true (stepsOf i.val)),
      windowMin := sat 16 (((ps.map (fun p => min (vget p.counts n (0, 0)).1 (vget p.counts n (0, 0)).2)).min?).getD 0),
      meanP := wholeMean n false ps, meanN := wholeMean n true ps }
  { s with fe := { s.fe with plumb := vset s.fe.plumb n c } }

/-- The conversion and judgement of a period whose correlations are there (R326 to R329). -/
def judgePeriod (s : State) : State :=
  let gs := s.outlets.map (fun n => (n, measuredGroup s n, expectedGroup s n))
  let s1 := gs.foldl (fun s g => judgeIns g.1 g.2.1 g.2.2 (convert s g.2.1) s) s
  let s1 := gs.foldl (fun s g => judgeGroup g.1 g.2.1 g.2.2 s) s1
  let s1 := gs.foldl (fun s g => cableResult g.1 s) s1
  let bad := ((gs.filter (fun g => (ins s1 g.1).status == 2)).filterMap (fun g => ownerOf s1 g.1)).eraseDups
  locatePeriod (bad.foldl (fun s o => insulationStop o s) s1)

/-- A code period of eight steps has ended and its last outputs are delivered, 8 frames after the boundary: correlations, groups,
status, cable checks, locations (R186, R187, R326 to R329). -/
def execPlumbPeriodEnd (s : State) : Host.Outcome State Fault Refusal :=
  match s.fe.steps with
  | [] => .next s
  | p :: _ =>
    let k := p.number / 8
    if !s.regionsRun ∨ k ≤ s.fe.plumbPeriod ∨ p.number % 8 ≠ 0 ∨ s.now < p.start + 8 then .next s
    else
      let s1 := { s with fe := { s.fe with plumbPeriod := k } }
      .next (judgePeriod (s1.outlets.foldl (fun s n => updateCorr (k - 1) p.legal n s) s1))

end Sys2Proof.Machine
end

