-- ==== Sys2Proof/Machine/Link.lean ====
section
/-!
DEFINITION. The vehicle link: pilot, proximity, leave, Green PHY association with Triangulation, T1S, protocols, authorization,
certificates (R269 to R302).
-/

namespace Sys2Proof.Machine

/-! Configuration. -/

/-- VEHICLE LINK works: no reset of reach SYSTEM or wider holds it before READY, and the shutdown has not stopped it (R83, R99). -/
def linkWorks (s : State) : Bool :=
  s.power.supply == .on && decide (s.power.shutStep < 2) && (s.rst.phase == .running || s.rst.reachNow == 0)

/-- Outlet n runs the T1S profile (R269). -/
def isT1s (s : State) (n : Nat) : Bool := bit (lkCfg s n) 1

/-- Fields of LINK_GLOBAL (Table 8-9). -/
def slacMargin (s : State) : Nat := fld s.link.global 0 8
def slacInit (s : State) : Nat := secF (fld s.link.global 8 8)
def slacRetries (s : State) : Nat := fld s.link.global 16 4
def slacRestarts (s : State) : Nat := fld s.link.global 20 4
def xtalkWarn (s : State) : Nat := fld s.link.global 24 8
def authDeadline (s : State) : Nat := secF (fld s.link.global 32 9)
def refuseHold (s : State) : Nat := secF (fld s.link.global 48 8)
def stopGrace (s : State) : Nat := secF (fld s.link.global 56 4)

/-- Proximity permits an association or a session (R277). -/
def ppOk (s : State) (n : Nat) : Bool := !bit (lkCfg s n) 8 || (lk s n).pp == 1

/-- Outlet n is available to vehicles (R276, R311, R328). -/
def available (s : State) (n : Nat) : Bool :=
  s.present n && bit (lkCfg s n) 0 && (s.modes.mode == .standby || s.modes.mode == .service) &&
    !bit (s.faults.metFaulty ||| s.faults.linkFaulty ||| s.faults.safetyFaulty ||| s.sw.unavailable) n

/-- What the device sends a vehicle beside done, ongoing and failed: the answers of an association, and the stop notification. -/
def ansParm : Nat := 4
def ansAtten : Nat := 5
def ansMatch : Nat := 6
def ansValidate : Nat := 7
def ansStop : Nat := 8

/-- A link ends on an outlet, after a Safe Ramp Stop when its sequence runs (R298, Table 9-6). -/
def stopLink (n cause last ms : Nat) (s : State) : State :=
  if (sq s n).state = 0 ∨ (sq s n).state = 9 then linkEnd n cause (closeAt n s)
  else safeRampStop n last ms (endAfterStop n cause s)

/-! Leave and restarts. -/

/-- Leave is asked for PWM5 when an available CCS outlet reads B with proximity present; a T1S outlet is checked for its diode when B is
first seen (R275, R278). -/
def connect (n : Nat) (s : State) : State :=
  let x := lk s n
  if !(linkWorks s && available s n && x.pilot == 1 && x.drive == 0) then s
  else if isT1s s n then
    if x.diodeDone ∨ x.diodeCheck ≠ 0 then s else updLk n (fun y => { y with diodeCheck := 10 }) s
  else if !ppOk s n || x.needA || !(x.phase == 0 || (x.phase == 8 && x.restartAt.isNone)) then s
  else
    let id := nextReq s
    let r : Request := { cls := 4, requester := n, intPeak := 35, vauxPeak := 5, latest := s.now + secF 3, standing := true }
    updLk n (fun y => { y with phase := 1, leave := some id, leaveAt := none }) (submit r s)

/-- The answer to a class 4 request: granted, or refused and asked again 10 s later (R278). -/
def leaveRefused (n : Nat) (s : State) : State :=
  let now := s.now
  event 0x0528 (le 1 n ++ le 1 8) (updLk n (fun y => { y with leave := none, leaveAt := some now }) s)

/-- A pilot restart, or the failure of the link after RESTARTS of them (R288). -/
def pilotRestart (n : Nat) (s : State) : State :=
  let x := lk s n
  if slacRestarts s ≤ x.restarts then
    linkEnd n 8 (event 0x0523 (le 1 n ++ le 1 x.restarts) s)
  else
    let now := s.now
    let s1 := releaseOpt x.leave { s with link := { s.link with sets := s.link.sets.filter (fun t => t.cand != n) } }
    updLk n (fun y => { y with phase := 8, restarts := y.restarts + 1, attempts := 0, windowOpen := false, evMac := 0,
                               margin := 0, nmk := none, nid := none, leave := none, leaveAt := none, pwmAt := none, drive := 2,
                               restartAt := some now }) s1

/-- 10 s after a REFUSE leave is asked again while B persists (R278). -/
def execPwmLeaveRetry (outlet : Nat) (s : State) : Host.Outcome State Fault Refusal :=
  let x := lk s outlet
  match x.leaveAt with
  | some t =>
    if linkWorks s ∧ x.phase = 1 ∧ x.leave.isNone ∧ t + secF 10 ≤ s.now ∧ x.pilot = 1 then
      .next (connect outlet (updLk outlet (fun y => { y with phase := 0, leaveAt := none }) s))
    else .next s
  | none => .next s

/-- After 4 s in state F the drive returns to HIGH; leave is asked with the next B (R288). -/
def execPilotRestartEnd (outlet : Nat) (s : State) : Host.Outcome State Fault Refusal :=
  match (lk s outlet).restartAt with
  | some t =>
    if linkWorks s ∧ (lk s outlet).phase = 8 ∧ t + secF 4 ≤ s.now then
      .next (updLk outlet (fun y => { y with drive := 0, restartAt := none }) s)
    else .next s
  | none => .next s

/-- SLAC_INIT runs out without a match (R278, R288). -/
def execAssociationWindowEnd (outlet : Nat) (s : State) : Host.Outcome State Fault Refusal :=
  let x := lk s outlet
  match x.pwmAt with
  | some t =>
    if linkWorks s ∧ x.phase = 2 ∧ x.windowOpen ∧ t + slacInit s ≤ s.now then .next (pilotRestart outlet s) else .next s
  | none => .next s

/-! Pilot. -/

/-- The positive plateau's state (Table 8-2). -/
def pilotBand (mv : Int) : Option Nat :=
  if 11000 ≤ mv ∧ mv ≤ 13000 then some 0
  else if 8000 ≤ mv ∧ mv ≤ 10000 then some 1
  else if 5000 ≤ mv ∧ mv ≤ 7000 then some 2
  else if 2000 ≤ mv ∧ mv ≤ 4000 then some 3
  else if -1000 ≤ mv ∧ mv ≤ 1000 then some 4
  else none

/-- PILOT_FAULT, which ends the link with cause 3 (R275, Table 9-6). -/
def pilotFault (n kind : Nat) (s : State) : State :=
  let x := lk s n
  stopLink n 3 1 (tRampEmerg s n) (event 0x0529 (le 1 n ++ le 1 kind ++ leInt 2 x.posMv ++ leInt 2 x.negMv) s)

/-- The sets of a candidate whose pilot has left B are abandoned with cause 5 (R282, Table 8-5). -/
def abandonSets (n : Nat) (s : State) : State :=
  let gone := s.link.sets.filter (fun t => t.cand == n)
  let s1 := { s with link := { s.link with sets := s.link.sets.filter (fun t => t.cand != n) } }
  gone.foldl (fun s t => event 0x0522 (le 1 n ++ le 1 5 ++ le 1 n ++ leInt 2 t.margin ++ le 6 t.mac) s) s1

/-- State A: the vehicle has gone (R274, R275). -/
def pilotA (n : Nat) (s : State) : State :=
  let s1 := if linkRuns s n then stopLink n 2 1 (tRampEmerg s n) s else dropLeave n s
  withdrawAuth n (updLk n (fun y =>
    { y with diodeFault := false, diodeDone := false, diodeCheck := 0, needA := false, restarts := 0,
             phase := if y.phase = 9 then 0 else y.phase }) s1)

/-- State B: an end of delivery where the vehicle was in C or D, otherwise a connection (R274, Table 9-6). -/
def pilotB (n old : Nat) (s : State) : State :=
  let st := (sq s n).state
  if (old = 2 ∨ old = 3) ∧ 1 ≤ st ∧ st ≤ 5 then safeRampStop n 0 (tRamp s n) (endAfterStop n 0 s) else connect n s

/-- State F under a running sequence (Table 9-6): a pilot restart runs on. -/
def pilotF (n : Nat) (s : State) : State :=
  if 1 ≤ (sq s n).state ∧ (sq s n).state ≤ 6 then safeRampStop n 1 (tRampEmerg s n) (endAfterStop n 3 s) else s

/-- What a pilot state calls for (R274, R275, Table 9-6). -/
def pilotActs (n old new : Nat) (s : State) : State :=
  if new = 0 then pilotA n s
  else if new = 4 then
    if old = 4 ∨ (lk s n).diodeFault then s else pilotFault n 3 s
  else if new = 5 then pilotF n s
  else if new = 3 ∧ !bit (lkCfg s n) 7 then (if old = 3 then s else pilotFault n 4 s)
  else if new = 1 then pilotB n old s
  else if (lk s n).phase = 2 then stopLink n 3 1 (tRampEmerg s n) s
  else dropLeave n s

/-- The pilot of outlet n shows a state, with PILOT_CHANGED and the reactions of R274, R275 and Table 9-6. -/
def pilotTo (n new : Nat) (s : State) : State :=
  let old := (lk s n).pilot
  let s1 := updLk n (fun y => { y with pilot := new }) s
  let s1 := if old = new then s1 else event 0x0520 (le 1 n ++ le 1 old ++ le 1 new ++ s.stamp) s1
  pilotActs n old new (if new = 1 then s1 else abandonSets n s1)

/-- A PWM period of the diode check of a T1S outlet is over with its negative plateau, disturbed or not (R275). -/
def diodePeriod (n : Nat) (s : State) : State :=
  let x := lk s n
  let k := x.diodeCheck
  if x.drive = 1 ∧ k ≠ 0 then
    updLk n (fun y => { y with diodeCheck := k - 1, diodeDone := y.diodeDone || decide (k = 1) }) s
  else s

/-- A negative plateau: the diode check with PWM5, state F or E while the drive is STATE_F (R274, R275). -/
def negativePlateau (n : Nat) (mv : Int) (s : State) : State :=
  let x := lk s n
  let s1 := updLk n (fun y => { y with negMv := satInt 16 mv }) s
  if x.drive = 2 then pilotTo n (if -1000 < mv then 4 else 5) s1
  else
    if x.drive = 1 ∧ 1 ≤ x.pilot ∧ x.pilot ≤ 3 ∧ -11000 < mv then
      let s1 := updLk n (fun y => { y with diodeFault := true }) s1
      pilotTo n 4 (if x.diodeFault then s1 else pilotFault n 2 s1)
    else s1

/-- A positive plateau: the band, or an indeterminate value (R274). -/
def positivePlateau (n : Nat) (mv : Int) (s : State) : State :=
  let s1 := updLk n (fun y => { y with posMv := satInt 16 mv }) s
  match pilotBand mv with
  | some p => pilotTo n (if (lk s n).diodeFault ∧ p ≠ 0 then 4 else p) (updLk n (fun y => { y with indetRun := 0 }) s1)
  | none =>
    let k := (lk s n).indetRun + 1
    let s1 := updLk n (fun y => { y with indetRun := k }) s1
    if k = 10 then pilotFault n 1 s1 else s1

/-- A level forms a plateau: both with PWM5, the positive one with HIGH, the negative one with STATE_F, none with HIZ (R273). -/
def plateauForms (drive : Nat) (positive : Bool) : Bool :=
  match drive with
  | 0 => positive
  | 1 => true
  | 2 => !positive
  | _ => false

/-- The samples of a plateau at 4 MS/s: with PWM5 those from 10 µs after its edge to 5 µs before the next, with a constant drive those of
the last 40 µs of the frame (R273). -/
def plateauSamples (drive : Nat) (l : List Int) : List Int :=
  if drive = 1 then (l.drop 40).take (l.length - 60) else l.drop (l.length - 160)

/-- The plateau value: the mean of its samples, in whole mV rounded down (DESIGN CHOICE, log 43) (R273). -/
def plateauMv (l : List Int) : Int := l.sum / l.length

/-- The span of a plateau's samples between minimum and maximum (R273). -/
def plateauSpan (l : List Int) : Nat :=
  match l with
  | [] => 0
  | a :: t => (t.foldl max a - t.foldl min a).toNat

/-- A plateau of CPn is judged by the pilot job (R273 to R275). -/
def execPilotStateChange (pl : Plateau) (s : State) : Host.Outcome State Fault Refusal :=
  let n := pl.outlet
  let x := lk s n
  let l := plateauSamples x.drive pl.samples
  if !(s.regionsRun && s.present n && plateauForms x.drive pl.positive && !l.isEmpty) then .next s
  else if 1500 < plateauSpan l then
    let k := x.disturbedRun + 1
    let s1 := updLk n (fun y => { y with disturbedRun := k }) (if pl.positive then s else diodePeriod n s)
    .next (if k = 3 then pilotFault n 0 s1 else s1)
  else
    let s1 := updLk n (fun y => { y with disturbedRun := 0 }) s
    if !pl.positive then .next (negativePlateau n (plateauMv l) (diodePeriod n s1))
    else .next (positivePlateau n (plateauMv l) s1)

/-! Proximity. -/

/-- R_PP in ohm for a voltage in mV, saturating (R277). -/
def ppOhms (mv : Nat) : Nat := if 5000 ≤ mv then 65535 else sat 16 (330 * mv / (5000 - mv))

/-- The class of a proximity voltage (R277). -/
def ppClass (s : State) (n mv : Nat) : Nat :=
  let r := ppOhms mv
  if 4700 ≤ mv then 0
  else if mv < 150 then 2
  else if fld (lkCfg s n) 16 12 ≤ r ∧ r ≤ fld (lkCfg s n) 28 12 then 1
  else 3

/-- The proximity voltage of a frame: a class is taken when two consecutive frames agree (R277). -/
def execPpChange (outlet mv : Nat) (s : State) : Host.Outcome State Fault Refusal :=
  if !(s.regionsRun && s.present outlet && bit (lkCfg s outlet) 8) then .next s
  else
    let x := lk s outlet
    let c := ppClass s outlet mv
    let s1 := updLk outlet (fun y => { y with ppOhm := ppOhms mv }) s
    if c = x.pp then .next (updLk outlet (fun y => { y with ppCandidate := none }) s1)
    else if x.ppCandidate ≠ some c then .next (updLk outlet (fun y => { y with ppCandidate := some c }) s1)
    else
      let s1 := updLk outlet (fun y => { y with pp := c, ppCandidate := none }) s1
      if x.pp = 1 then
        .next (if linkRuns s1 outlet then stopLink outlet 4 1 (tRampEmerg s1 outlet) s1 else dropLeave outlet s1)
      else if c = 1 then .next (connect outlet s1)
      else .next s1

/-! SLAC with Triangulation. -/

/-- The set of a vehicle and run. -/
def setOf (s : State) (mac run : Nat) : Option SoundSet := s.link.sets.find? (fun t => t.mac == mac && t.run == run)

/-- The set of a vehicle and run rewritten. -/
def updSet (mac run : Nat) (f : SoundSet → SoundSet) (s : State) : State :=
  { s with link := { s.link with sets := updFirst (fun t => t.mac == mac && t.run == run) f s.link.sets } }

/-- The set has ended. -/
def endSet (mac run : Nat) (s : State) : State :=
  { s with link := { s.link with sets := s.link.sets.filter (fun t => !(t.mac == mac && t.run == run)) } }

/-- Line r belongs to a present CCS outlet, whose modem receives at all times (R281). -/
def ccsLine (s : State) (r : Nat) : Bool := s.present r && !isT1s s r

/-- Attenuations by line, CCS lines that heard only. -/
def heardLines (s : State) (atten : List (Option Nat)) : List (Nat × Nat) :=
  ((List.range 8).filter (ccsLine s)).filterMap (fun r => ((atten[r]?).getD none).map (fun a => (r, a)))

/-- The line with the lowest attenuation, the lowest number first (R283). -/
def strongest : List (Nat × Nat) → Option (Nat × Nat)
  | [] => none
  | x :: t =>
    match strongest t with
    | none => some x
    | some y => if y.2 < x.2 then some y else some x

/-- The lowest A[r] − A[c] over the other lines. -/
def lowestMargin (c a : Nat) (l : List (Nat × Nat)) : Option Int :=
  ((l.filter (fun x => x.1 != c)).map (fun x => (x.2 : Int) - a)).foldl
    (fun m d => some (match m with | some e => min e d | none => d)) none

/-- The margin of a set, a free value when no other line heard it (DESIGN CHOICE, log 24). -/
def marginOr (m : Option Int) (s : State) : Int × State :=
  match m with
  | some d => (satInt 16 d, s)
  | none => ((Config.freeNat s.factory.freeCtr % 2 ^ 15 : Nat), s.drawFree)

/-- SLAC_AMBIGUOUS (Table 8-14). -/
def ambiguous (cand cause line : Nat) (margin : Int) (mac : Nat) (s : State) : State :=
  event 0x0522 (le 1 cand ++ le 1 cause ++ le 1 line ++ leInt 2 margin ++ le 6 mac) s

/-- An ambiguous set is counted on an outlet whose window is open; too many make a pilot restart (R288). -/
def countAmbiguous (n : Nat) (s : State) : State :=
  if (lk s n).phase = 2 ∧ (lk s n).windowOpen then
    let s1 := updLk n (fun y => { y with attempts := satInc 8 y.attempts }) s
    if slacRetries s ≤ (lk s1 n).attempts then pilotRestart n s1 else s1
  else s

/-- CM_SLAC_PARM.REQ with its attenuation on each line, 0.1 dB: only the strongest line may answer (R282, R283). A ninth set at
once is not answered, and a repeated request of a running set is answered again (DEDUCED, log 24). -/
def execCmSlacParmReq (mac run : Nat) (atten : List (Option Nat)) (s : State) : Host.Outcome State Fault Refusal :=
  let l := heardLines s atten
  match strongest l with
  | none => .next s
  | some (c, a) =>
    if !linkWorks s then .next s
    else
      let now := s.now
      match setOf s mac run with
      | some t => .next (tell t.cand ansParm (updSet mac run (fun t => { t with last := now }) s))
      | none =>
        if 8 ≤ s.link.sets.length then .next s
        else
          let (m, s1) := marginOr (lowestMargin c a l) s
          let x := lk s c
          let busy := (decide (3 ≤ x.phase) && decide (x.phase ≤ 7)) || s.link.sets.any (fun t => t.cand == c)
          if busy then .next (countAmbiguous c (ambiguous 0xFF 3 c m mac s1))
          else if !(x.phase == 2 && x.windowOpen) then .next (ambiguous 0xFF 2 c m mac s1)
          else
            let t : SoundSet := { mac := mac, run := run, cand := c, last := now, margin := m }
            .next (tell c ansParm (updLk c (fun y => { y with tried := satInc 8 y.tried })
              { s1 with link := { s1.link with sets := s1.link.sets ++ [t] } }))

/-- A sounding of a set, with the attenuation of each of its groups on each line that heard it, is measured on every CCS line; the first
begins collection, and after collection it only shows that the set lives (R282, R284). -/
def execSoundingReceived (mac run : Nat) (atten : List (List Nat)) (s : State) : Host.Outcome State Fault Refusal :=
  let now := s.now
  .next (updSet mac run (fun t =>
    if !linkWorks s then t
    else if 2 < t.stage then { t with last := now }
    else
      { t with stage := 2, last := now, collectAt := if t.stage = 1 then now else t.collectAt,
               heard := ((List.range 8).filter (ccsLine s)).foldl (fun v r =>
                 match (atten[r]?).getD [] with
                 | [] => v
                 | g => vmod v r (fun l => l ++ [g])) t.heard }) s)

/-- A[r] of a set in 0.1 dB: the mean over all groups of all soundings heard, to the nearest, 1 to 1,200; none below 3 soundings
(R284). -/
def meanAtten (l : List (List Nat)) : Option Nat :=
  let g := l.flatten
  if l.length < 3 ∨ g = [] then none
  else some (max 1 (min 1200 ((2 * g.sum + g.length) / (2 * g.length))))

/-- Pairs of lines below XTALK_WARN are reported, each at most once in 24 h (R287). -/
def crosstalk (c a : Nat) (l : List (Nat × Nat)) (s : State) : State :=
  (l.filter (fun x => x.1 != c)).foldl (fun s x =>
    let d : Int := (x.2 : Int) - a
    let told := s.link.xtalk.any (fun p => p.1 == c && p.2.1 == x.1 && decide (s.now < p.2.2 + secF 86400))
    if decide (d < xtalkWarn s) && xtalkWarn s != 0 && !told then
      event 0x0524 (le 1 c ++ le 1 x.1 ++ leInt 2 d)
        { s with link := { s.link with xtalk := (c, x.1, s.now) :: s.link.xtalk.filter (fun p => !(p.1 == c && p.2.1 == x.1)) } }
    else s) s

/-- Collection ends: the set goes into TRI_MATRIX, and CM_ATTEN_CHAR.IND is answered when the margin holds against every other
line that heard it (R284, R287). -/
def execAttenCollectionEnd (mac run : Nat) (s : State) : Host.Outcome State Fault Refusal :=
  match setOf s mac run with
  | none => .next s
  | some t =>
    if 2 < t.stage ∨ !linkWorks s then .next s
    else
      let c := t.cand
      let l := ((List.range 8).filter (ccsLine s)).filterMap (fun r => (meanAtten (vget t.heard r [])).map (fun a => (r, a)))
      let row := (List.range 8).foldl (fun (v : Vector Nat 8) r =>
        vset v r (match l.find? (fun x => x.1 == r) with | some x => x.2 | none => 0)) (Vector.replicate 8 0)
      let s1 := { s with link := { s.link with tri := vset s.link.tri c row, triAt := vset s.link.triAt c s.clock.legal } }
      match l.find? (fun x => x.1 == c) with
      | none =>
        let line := match strongest l with | some x => x.1 | none => c
        .next (countAmbiguous c (ambiguous c 4 line t.margin mac (endSet mac run s1)))
      | some (_, a) =>
        let s1 := crosstalk c a l s1
        let line := match strongest l with | some x => x.1 | none => c
        match lowestMargin c a l with
        | some d =>
          if d < slacMargin s then .next (countAmbiguous c (ambiguous c 1 line d mac (endSet mac run s1)))
          else .next (tell c ansAtten (updSet mac run (fun t => { t with stage := 3, margin := satInt 16 d }) s1))
        | none =>
          let (m, s2) := marginOr none s1
          .next (tell c ansAtten (updSet mac run (fun t => { t with stage := 3, margin := m }) s2))

/-- The candidate answers CM_SLAC_MATCH.REQ with a new key and the network identifier derived from it; the window closes (R280, R285). -/
def execCmSlacMatchReq (mac run : Nat) (s : State) : Host.Outcome State Fault Refusal :=
  match setOf s mac run with
  | none => .next s
  | some t =>
    let now := s.now
    let c := t.cand
    if !linkWorks s then .next s
    else if t.stage = 4 then .next (tell c ansMatch (updSet mac run (fun t => { t with last := now }) s))
    else if t.stage = 3 ∧ (lk s c).windowOpen ∧ (lk s c).pilot = 1 then
      let k := Config.membershipKey s.factory.freeCtr
      let s1 := updLk c (fun y => { y with nmk := some k, nid := some (Config.networkId k), evMac := mac, margin := t.margin.toNat, windowOpen := false }) s.drawFree
      .next (tell c ansMatch (updSet mac run (fun t => { t with stage := 4, last := now, matchAt := now }) s1))
    else .next s

/-- CM_VALIDATE.REQ to the outlet of an association is answered that validation is not required; the modem of a T1S outlet stays silent
(R281, R285). -/
def execCmValidateReq (outlet mac : Nat) (s : State) : Host.Outcome State Fault Refusal :=
  if linkWorks s && ccsLine s outlet && (s.link.sets.any (fun t => t.mac == mac && t.cand == outlet) ||
      ((lk s outlet).evMac == mac && linkRuns s outlet)) then
    .next (tell outlet ansValidate s)
  else .next s

/-- The link of outlet n is bound to a vehicle: it takes the SECC keys held now (R270, R301). -/
def bindLink (n mac : Nat) (s : State) : State :=
  let keys := s.link.seccKeys
  updLk n (fun y => { y with phase := 3, evMac := mac, talker := mac, keys := keys }) s

/-- The vehicle joins the logical network: the link is bound (R285). -/
def execVehicleJoin (mac run : Nat) (s : State) : Host.Outcome State Fault Refusal :=
  match setOf s mac run with
  | some t =>
    if linkWorks s ∧ t.stage = 4 ∧ (lk s t.cand).phase = 2 then
      let x := lk s t.cand
      .next (event 0x0521 (le 1 t.cand ++ le 6 x.evMac ++ le 2 x.margin ++ le 1 x.tried)
        (bindLink t.cand x.evMac (endSet mac run s)))
    else .next s
  | none => .next s

/-- The vehicle has not joined within 12 s: the match is undone, and the window reopens for what remains of it (R285). -/
def execJoinTimeout (mac run : Nat) (s : State) : Host.Outcome State Fault Refusal :=
  match setOf s mac run with
  | some t =>
    if linkWorks s ∧ t.stage = 4 ∧ t.matchAt + secF 12 ≤ s.now then
      let c := t.cand
      let left := match (lk s c).pwmAt with
        | some p => decide (s.now < p + slacInit s)
        | none => false
      let s1 := updLk c (fun y => { y with evMac := 0, margin := 0, nmk := none, nid := none, windowOpen := left }) (endSet mac run s)
      let s1 := ambiguous c 6 c t.margin mac s1
      .next (if left then countAmbiguous c s1 else pilotRestart c s1)
    else .next s
  | none => .next s

/-- A set that has received no frame for 2 s ends (R282); between match and join the 12 s of R285 count instead (DEDUCED,
log 24). -/
def execSoundingSetTimeout (mac run : Nat) (s : State) : Host.Outcome State Fault Refusal :=
  match setOf s mac run with
  | some t => if linkWorks s ∧ t.stage < 4 ∧ t.last + secF 2 ≤ s.now then .next (endSet mac run s) else .next s
  | none => .next s

/-! T1S. -/

/-- Frames of outlet n's vehicle are taken: on a T1S outlet those with the pilot in A, E or F are discarded (R290). -/
def frameTaken (s : State) (n : Nat) : Bool := !isT1s s n || (lk s n).pilot == 1 || (lk s n).pilot == 2 || (lk s n).pilot == 3

/-- The pilot reads B or C, or a D that is treated as C (R290; Table 8-2). -/
def pilotReady (s : State) (n : Nat) : Bool :=
  (lk s n).pilot == 1 || (lk s n).pilot == 2 || ((lk s n).pilot == 3 && bit (lkCfg s n) 7)

/-- A valid vehicle frame with PLCA good: the first one with the pilot in B or C brings the T1S link up (R290). -/
def execT1sLinkUp (outlet mac : Nat) (s : State) : Host.Outcome State Fault Refusal :=
  if !(linkWorks s && isT1s s outlet && frameTaken s outlet) then .next s
  else
    let now := s.now
    if linkRuns s outlet then .next (updLk outlet (fun y => { y with lastFrame := now, talker := mac, plca := true }) s)
    else if !(available s outlet && ppOk s outlet && pilotReady s outlet) then .next s
    else
      .next (event 0x052A (le 1 outlet ++ le 1 1 ++ le 6 mac)
        (updLk outlet (fun y => { y with plca := true, lastFrame := now }) (bindLink outlet (mac % 2 ^ 48) s)))

/-- PLCA status is lost, or 1 s has passed without a vehicle frame: the link ends with cause 11 (R290, Table 9-6). -/
def execT1sLinkLoss (outlet : Nat) (s : State) : Host.Outcome State Fault Refusal :=
  if linkWorks s && isT1s s outlet && linkRuns s outlet then
    .next (stopLink outlet 11 8 (tRampEmerg s outlet) (updLk outlet (fun y => { y with plca := false }) s))
  else .next s

/-! Protocols. -/

/-- The protocol chosen: ISO 15118-20, then ISO 15118-2, then DIN SPEC 70121, among those enabled and offered (R291). -/
def chooseProtocol (s : State) (n : Nat) (offered : List Nat) : Option Nat :=
  [3, 2, 1].find? (fun k => bit (lkCfg s n) (k + 1) && offered.contains k)

/-- A supported-application-protocol request (R291). With none in common the link ends with cause 5 (DEDUCED, log 24). -/
def execSupportedAppProtocolReq (outlet : Nat) (offered : List Nat) (s : State) : Host.Outcome State Fault Refusal :=
  if !(linkWorks s && frameTaken s outlet) ∨ (lk s outlet).phase ≠ 3 then .next s
  else
    let now := s.now
    match chooseProtocol s outlet offered with
    | some k =>
      .next (tell outlet ansOk (updLk outlet (fun y =>
        { y with phase := 4, protocol := k, tls := k == 3 || (k == 2 && y.tls), lastFrame := now }) s))
    | none => .next (stopLink outlet 5 8 (tRampEmerg s outlet) (tell outlet ansFailed s))

/-- A sequence or communication-setup timer of the protocol runs out (R292, Table 9-6). -/
def execProtocolTimerExpiry (outlet : Nat) (s : State) : Host.Outcome State Fault Refusal :=
  if linkWorks s ∧ 3 ≤ (lk s outlet).phase ∧ (lk s outlet).phase ≤ 7 then
    .next (stopLink outlet 5 8 (tRampEmerg s outlet) s)
  else .next s

/-- The schedule sent to a vehicle: from when which tariff holds, with the prices of its TARIFF entry: the active tariff now, and every
accepted calendar entry of the next 24 h (R294). -/
def vehicleSchedule (s : State) : List (Nat × Nat × BitVec 384) :=
  let now := s.clock.legal
  let row (t k : Nat) := (t, k, vget s.billing.tariffs k 0)
  row now s.billing.active :: ((s.billing.calendar.toList.filter (fun e =>
    e.state == 1 && decide (now < secF e.start) && decide (secF e.start ≤ now + secF 86400))).map (fun e => row (secF e.start) e.tariff))

/-- What a service discovery offers under the protocol in use: energy services (0 DC, 1 DC_BPT), control modes (0 scheduled, 1 dynamic) and
identification methods (0 EIM, 1 contract, 2 DIN external payment); nothing else is offered (Table 8-6) (R291). -/
def servicesOf (s : State) (n : Nat) : List Nat × List Nat × List Nat :=
  let c := lkCfg s n
  let contract := if bit c 5 then [1] else []
  match (lk s n).protocol with
  | 1 => ([0], [], [2])
  | 2 => ([0], [], 0 :: contract)
  | 3 => (if bit c 6 then [0, 1] else [0], [0, 1], 0 :: contract)
  | _ => ([], [], [])

/-- Any other request of a bound vehicle (R291, R292, R294): 1 TLS handshake, 5 session stop, 6 certificate installation or
update, 7 charge parameters, schedules and prices, 3 service discovery; 0 SDP, 2 session setup, 4 welding detection and every
other kind are answered. Session stop ends the link; DIN SPEC 70121 runs without TLS. -/
def execV2gRequest (outlet kind : Nat) (s : State) : Host.Outcome State Fault Refusal :=
  let x := lk s outlet
  if !(linkWorks s && frameTaken s outlet) ∨ x.phase < 3 ∨ 7 < x.phase then .next s
  else
    let now := s.now
    let s1 := updLk outlet (fun y => { y with lastFrame := now }) s
    if kind = 1 then .next (tell outlet ansOk (updLk outlet (fun y => { y with tls := x.protocol != 1 }) s1))
    else if kind = 3 then .next (tell outlet ansOk (updLk outlet (fun y => { y with offer := servicesOf s outlet }) s1))
    else if kind = 5 then .next (stopLink outlet 0 0 (tRamp s outlet) (tell outlet ansOk s1))
    else if kind = 6 then .next (tell outlet ansFailed s1)
    else if kind = 7 then .next (tell outlet ansOk { s1 with link := { s1.link with schedule := vehicleSchedule s1 } })
    else .next (tell outlet ansOk s1)

/-! Authorization. -/

/-- The first session-refusal condition that holds for outlet n, as its LINK_REFUSED cause; 0 for none (R295). -/
def refuseCause (s : State) (n : Nat) : Nat :=
  let cal := vget s.seals.cal n 0
  let input := (List.range 8).any (fun i =>
    inFunc s i != 0 && bit (inScope s i) n && inputHeld (sin s i))
  if modeRefuses s then 1
  else if !s.clock.valid then 2
  else if 8 ≤ s.billing.active then 3
  else if s.billing.mismatch then 4
  else if s.log.full || s.store.degraded then 5
  else if s.port.blocked then 6
  else if fsCurrent s n = 0 ∨ fld cal 0 32 = 0 ∨ fld cal 64 32 = 0 ∨ !modEnabled s n 0 ∨ !modEnabled s n 1 then 7
  else if input then 9
  else if !bit (vget s.sw.plumb n 0) 0 ∨ (vget s.sw.insul n {}).faultRead then 10
  else if outletFaulty s n ∨ (sq s n).state = 9 ∨
      [0, 1, 5, 6].any (fun x => modEnabled s n x && !inputValid s n x) then 11
  else 0

/-- AUTH_REQUEST with the time that remains (Table 8-14). -/
def authEvent (r : AuthReq) (s : State) : State :=
  let x := lk s r.outlet
  event 0x0525 (le 1 r.outlet ++ le 4 r.number ++ le 1 r.method ++ le 1 r.protocol ++ le 6 x.evMac ++ padTo 20 r.contract ++
    le 1 r.chain ++ le 4 ((r.deadline - s.now) / 20) ++ le 2 x.margin) s

/-- A new authorization request of outlet n (R295, R296). -/
def newAuth (n : Nat) (s : State) : State :=
  let x := lk s n
  let k := (s.link.requestCtr + 1) % 2 ^ 32
  let r : AuthReq := { number := k, outlet := n, method := x.authMethod, protocol := x.protocol, contract := x.authContract,
                       chain := x.authChain, deadline := s.now + authDeadline s }
  let s1 := updLk n (fun y => { y with refuseAt := none }) s
  authEvent r { s1 with link := { s1.link with requests := (r :: s1.link.requests).take 64, requestCtr := k } }

/-- The open request of outlet n. -/
def openAuth (s : State) (n : Nat) : Option AuthReq := s.link.requests.find? (fun r => r.outlet == n && r.state == 0)

/-- The check of a contract chain against the roots of slots 2 to 5: 1 valid, 2 bad signature, 3 out of validity, 4 unknown root, as
AUTH_REQUEST reports it (R293). The times are judged at the legal time, bad signature before validity (DESIGN CHOICE, log 24). -/
def chainCheck (s : State) (chain : List Byte) : Nat :=
  let t := s.clock.legal / 20000
  match ([2, 3, 4, 5].map (fun k => vget s.link.certs k [])).find? (fun r => !r.isEmpty && Config.chainLeadsTo chain r) with
  | none => 4
  | some r =>
    if !Config.chainSigned chain r then 2
    else if (Config.chainTimes chain).all (fun v => decide (v.1 ≤ t) && decide (t ≤ v.2)) then 1
    else 3

/-- The link reaches authorization, or the vehicle repeats its request (R295), and a contract's chain is checked (R293). A vehicle other
than the one bound is not served, and the link no longer holds the identity of its binding (R270); a contract that is not offered counts as
external identification (DEDUCED, log 24). -/
def execAuthorizationReq (outlet mac : Nat) (method : Nat) (contract chain : List Byte) (s : State) :
    Host.Outcome State Fault Refusal :=
  let x := lk s outlet
  if !(linkWorks s && frameTaken s outlet) then .next s
  else if mac ≠ x.evMac then .next (if linkRuns s outlet then updLk outlet (fun y => { y with talker := mac }) s else s)
  else
    let now := s.now
    let s := updLk outlet (fun y => { y with talker := mac }) s
    if x.phase = 4 then
      let m := if x.protocol = 1 then 2 else if method = 1 ∧ bit (lkCfg s outlet) 5 then 1 else 0
      let s1 := updLk outlet (fun y =>
        { y with phase := 5, authMethod := m, authContract := if m = 1 then contract.take 20 else [],
                 authChain := if m = 1 then chainCheck s chain else 0, refuseAt := some now, lastFrame := now }) s
      .next (tell outlet ansOngoing (if refuseCause s outlet = 0 then newAuth outlet s1 else s1))
    else if x.phase = 5 then .next (tell outlet ansOngoing (updLk outlet (fun y => { y with lastFrame := now }) s))
    else if x.phase = 6 then .next (tell outlet ansOk (updLk outlet (fun y => { y with lastFrame := now }) s))
    else .next s

/-- A refusal condition has persisted for REFUSE_HOLD: the link ends (R295). -/
def execRefuseHoldExpiry (outlet : Nat) (s : State) : Host.Outcome State Fault Refusal :=
  match (lk s outlet).refuseAt with
  | some t =>
    if linkWorks s ∧ (lk s outlet).phase = 5 ∧ t + refuseHold s ≤ s.now ∧ refuseCause s outlet ≠ 0 then
      let c := refuseCause s outlet
      .next (event 0x0528 (le 1 outlet ++ le 1 c) (linkEnd outlet 7 (tell outlet ansFailed s)))
    else .next s
  | none => .next s

/-- A request's state is set. -/
def setAuth (number st : Nat) (s : State) : State :=
  { s with link := { s.link with requests := updFirst (fun r => r.number == number) (fun r => { r with state := st }) s.link.requests } }

/-- The host has not accepted by the deadline (R296). -/
def execAuthDeadlineExpiry (outlet : Nat) (s : State) : Host.Outcome State Fault Refusal :=
  match openAuth s outlet with
  | some r =>
    if linkWorks s ∧ r.deadline ≤ s.now then
      .next (event 0x0526 (le 1 outlet ++ le 4 r.number)
        (linkEnd outlet 6 (tell outlet ansFailed (setAuth r.number 1 s))))
    else .next s
  | none => .next s

/-- The authorization request of a number. -/
def authNo (s : State) (k : Nat) : Option AuthReq := s.link.requests.find? (fun r => r.number == k)

/-- AUTH_DECIDE (Tables 8-12, 8-13). An accept waits for the next frame (R297). EXPORT without DC_BPT gives BAD_PARAM (DEDUCED,
log 24). -/
def authDecideCmd (p : List Byte) (s : State) : Cmd :=
  let k := numAt p 0 4
  let yes := byteAt p 4 == 1
  let r? := authNo s k
  let st := match r? with | some r => r.state | none => 3
  let n := match r? with | some r => r.outlet | none => 0
  let bpt := bit (lkCfg s n) 6 && (match r? with | some r => r.protocol == 3 | none => false)
  { form := p.length == 10, role := decide (1 ≤ s.roles.role), mode := s.modes.mode == .standby || s.modes.mode == .service,
    params := decide (st < 3) && decide (byteAt p 4 ≤ 1) && decide (byteAt p 5 ≤ 1) && (byteAt p 5 == 0 || !yes || bpt),
    run :=
      if st = 1 then { st := s, status := .timeout }
      else if st = 2 then { st := s, status := .notConfirmed }
      else if yes then
        { st := { s with ease := { s.ease with nextId := s.ease.nextId + 1 } }, wait := some (nextReq s) }
      else { st := linkEnd n 6 (tell n ansFailed (setAuth k 4 s)) } }

/-- AUTH_DECIDE accepts or denies an authorization request (R297). -/
def execAuthDecide (h : Hdr) (p : List Byte) (s : State) : Host.Outcome State Fault Refusal :=
  .next (hostCommand h 0x0510 p (authDecideCmd p) s)

/-- An accept in the frame after its command: the conditions and the binding again, then the session opens (R297). -/
def acceptAuth (a : Awaiting) (s : State) : State :=
  let p := a.payload
  match authNo s (numAt p 0 4) with
  | none => answerAwaiting a .notConfirmed [] s
  | some r =>
    let n := r.outlet
    if r.state = 1 then answerAwaiting a .timeout [] s
    else if r.state ≠ 0 ∨ (lk s n).phase ≠ 5 then answerAwaiting a .notConfirmed [] s
    else if refuseCause s n ≠ 0 ∨ !ppOk s n ∨ (lk s n).talker ≠ (lk s n).evMac ∨ s.sessionOpen n then answerAwaiting a .busy [] s
    else
      let s1 := openSession n (byteAt p 5 == 1) (numAt p 6 2) (numAt p 8 2) (setAuth r.number 3 s)
      let s1 := answerAwaiting a .ok (le 8 (sessionId s1 n)) s1
      tell n ansOk (updLk n (fun y => { y with phase := 6, session := sessionId s1 n }) s1)

/-! LINK_STOP. -/

/-- LINK_STOP (Tables 8-12, 8-13). A second one on the same outlet is busy (DEDUCED, log 24). -/
def linkStopCmd (h : Hdr) (p : List Byte) (s : State) : Cmd :=
  let n := byteAt p 0
  let now := s.now
  { form := p.length == 2, role := decide (1 ≤ s.roles.role), mode := s.modes.mode == .standby || s.modes.mode == .service,
    params := s.present n && decide (byteAt p 1 ≤ 2) && linkRuns s n,
    free := (lk s n).stopAt.isNone,
    run := { st := tell n ansStop (updLk n (fun y =>
                { y with stopAt := some now, stopAck := flagAck h.flags, stopCmd := true, phase := 7,
                         endCause := some (y.endCause.getD 1) }) s),
             status := .queued } }

/-- LINK_STOP asks the vehicle to end energy transfer (R298). -/
def execLinkStop (h : Hdr) (p : List Byte) (s : State) : Host.Outcome State Fault Refusal :=
  .next (hostCommand h 0x0511 p (linkStopCmd h p) s)

/-- The vehicle has not ended within STOP_GRACE: Safe Ramp Stop, or the end of a link that delivers nothing (R298). -/
def execStopGraceExpiry (outlet : Nat) (s : State) : Host.Outcome State Fault Refusal :=
  match (lk s outlet).stopAt with
  | some t =>
    if linkWorks s ∧ t + stopGrace s ≤ s.now then
      .next (stopLink outlet ((lk s outlet).endCause.getD 1) 0 (tRamp s outlet)
        (updLk outlet (fun y => { y with stopAt := none }) s))
    else .next s
  | none => .next s

/-! Certificates. -/

/-- SECC_CSR (Tables 8-12, 8-13): the new key is the slot's; a link that runs goes on with the keys it was bound with (R301). -/
def seccCsrCmd (p : List Byte) (s : State) : Cmd :=
  let k := byteAt p 0
  let key := Config.seccKey s.factory.freeCtr
  { form := p.length == 65, role := decide (2 ≤ s.roles.role), mode := standbyOrComm s, params := decide (k ≤ 1),
    run := { st := { s.drawFree with link := { s.link with seccKeys := vset s.link.seccKeys k (some key) } },
             data := (Config.certRequest key (p.drop 1)).take 4096 } }

/-- SECC_CSR generates a key and answers with its certificate request (R293, R301). -/
def execSeccCsr (h : Hdr) (p : List Byte) (s : State) : Host.Outcome State Fault Refusal :=
  .next (hostCommand h 0x0512 p (seccCsrCmd p) s)

/-- SECC_CERT_SET (Tables 8-12, 8-13). -/
def seccCertCmd (p : List Byte) (s : State) : Cmd :=
  let k := byteAt p 0
  let len := numAt p 1 2
  let der := p.drop 3
  let leaf := match vget s.link.seccKeys k none with
    | some key => Config.derCarriesKey der key
    | none => false
  { form := decide (4 ≤ p.length) && decide (len ≤ 4000) && p.length == 3 + len, role := decide (2 ≤ s.roles.role),
    mode := standbyOrComm s,
    params := decide (k ≤ 5) && Config.derWellFormed der && (decide (2 ≤ k) || leaf),
    run := { st := { s with link := { s.link with certs := vset s.link.certs k der } } } }

/-- SECC_CERT_SET stores a chain or a root (R301). -/
def execSeccCertSet (h : Hdr) (p : List Byte) (s : State) : Host.Outcome State Fault Refusal :=
  .next (hostCommand h 0x0513 p (seccCertCmd p) s)

/-! The frame's work. -/

/-- Availability and drive of outlet n in a frame (R271, R272, R276, R278). -/
def driveFrame (n : Nat) (s : State) : State :=
  let x := lk s n
  let edge := s.clock.legal % 20 == 0
  if !s.present n then updLk n (fun y => { y with drive := 3 }) s
  else if !available s n then
    let s1 := updLk n (fun y => { y with drive := 2, diodeCheck := 0 }) s
    if x.phase = 10 then s1
    else if linkRuns s1 n then
      let s2 := if (lk s1 n).endCause.isSome then s1 else stopLink n 9 8 (tRampEmerg s1 n) s1
      if linkRuns s2 n then s2 else updLk n (fun y => { y with phase := 10 }) s2
    else updLk n (fun y => { y with phase := 10 }) (dropLeave n s1)
  else if x.drive = 2 ∧ x.restartAt.isNone then
    updLk n (fun y => { y with drive := 0, phase := if y.phase = 10 then 0 else y.phase,
                               needA := y.needA && y.phase != 10 }) s
  else if x.drive = 1 ∧ x.pwmAt.isNone ∧ x.diodeCheck = 0 ∧ edge then updLk n (fun y => { y with drive := 0 }) s
  else if x.drive = 0 ∧ x.diodeCheck ≠ 0 ∧ edge then updLk n (fun y => { y with drive := 1 }) s
  else if x.drive = 0 ∧ x.phase = 2 ∧ x.pwmAt.isNone ∧ edge then
    let now := s.now
    updLk n (fun y => { y with drive := 1, pwmAt := some now, windowOpen := true, attempts := 0 }) s
  else connect n s

/-- A refused authorization is judged again in every frame (R295; DEDUCED, log 24). -/
def refuseFrame (n : Nat) (s : State) : State :=
  let x := lk s n
  if x.phase = 5 ∧ x.refuseAt.isSome ∧ (openAuth s n).isNone ∧ refuseCause s n = 0 then newAuth n s else s

/-- The vehicle link's work of a frame: drives, requests, accepts of the frame before. -/
def linkFrame (s : State) : State :=
  if !linkWorks s then s
  else
    let s1 := (List.range 8).foldl (fun s n => refuseFrame n (driveFrame n s)) s
    (s.port.awaiting.filter (fun a => a.opcode == 0x0510)).foldl (fun s a => acceptAuth a s) s1

end Sys2Proof.Machine
end

