-- ==== Sys2Proof/Machine/Loads.lean ====
section
/-!
DEFINITION. Load switch channels: switching on and off, the bank queue, protection, retries and bank conditions (R342 to R362).
-/

namespace Sys2Proof.Machine

/-! Configuration. -/

/-- LOAD_CONFIG of channel c (Table 10-6). -/
def ldCfg (s : State) (c : Nat) : BitVec 96 := vget s.loads.config c 0

/-- Fields of a channel configuration (Table 10-6). -/
def openLoadEn (x : BitVec 96) : Bool := bit x 3
def retryCount (x : BitVec 96) : Nat := fld x 4 4
def inrushMs (x : BitVec 96) : Nat := fld x 8 8
def retryBase (x : BitVec 96) : Nat := fld x 16 8
def overloadMs (x : BitVec 96) : Nat := fld x 32 16
def easePeak (x : BitVec 96) : Nat := fld x 48 16
def easeHold (x : BitVec 96) : Nat := fld x 64 16

/-- The four channels of bank k (R342). -/
def bankChannels (k : Nat) : List Nat := (List.range 4).map (· + 4 * k)

/-- A condition of Table 10-5, the VAUX surge, or isolation holds bank k (R77, R344, R354). -/
def bankHeld (s : State) (k : Nat) : Bool :=
  let b := bnk s k
  b.uv || b.ov || b.gndLost || b.reverse || b.lockout || b.isolated || s.power.surge

/-- Channel c is on. -/
def chOn (s : State) (c : Nat) : Bool := (chn s c).state == 2 || (chn s c).state == 3

/-- A channel of bank k is in its inrush window or waits for leave (R346). -/
def windowBusy (s : State) (k : Nat) : Bool :=
  (bankChannels k).any (fun c => (chn s c).state == 2 || ((chn s c).state == 1 && (chn s c).req.isSome))

/-! The bank queue. -/

/-- A switch-on asks leave (R347, Table 10-1). -/
def requestLoad (c : Nat) (s : State) : State :=
  let id := nextReq s
  let g := ldCfg s c
  let onVaux := bit s.ease.bankOnVaux (c / 4)
  let auto := (chn s c).auto
  let r : Request :=
    { cls := 3, requester := c, intPeak := 80, vauxPeak := if onVaux then easePeak g else 0,
      duration := max 1 (msF (inrushMs g)), hold := if onVaux then easeHold g else 0,
      latest := s.now + secF (if auto then 60 else 10), host := !auto }
  updCh c (fun y => { y with req := some id, retryAt := none }) (submit r s)

/-- The head of the bank's queue asks leave when no window runs and no request is out (R346). -/
def serveBank (k : Nat) (s : State) : State :=
  if windowBusy s k then s
  else
    match (bnk s k).queue with
    | [] => s
    | c :: t => requestLoad c (updBank k (fun b => { b with queue := t }) s)

/-- A switch-on joins the queue of its bank (R346). -/
def joinQueue (c : Nat) (auto : Bool) (s : State) : State :=
  let s1 := chTo c 1 (updCh c (fun y => { y with auto := auto }) s)
  serveBank (c / 4) (updBank (c / 4) (fun b => { b with queue := b.queue ++ [c] }) s1)

/-- Leave is held: the output rises and the inrush window opens (R345, Table 10-4). -/
def loadStart (c id : Nat) (s : State) : State :=
  if (chn s c).state = 1 ∧ (chn s c).req = some id then
    let now := s.now
    let k := s.loads.orderCtr
    let g := ldCfg s c
    let s1 := updCh c (fun y => { y with window := some now, onAt := now, order := k, ons := satInc 32 y.ons, active := g,
                                         limitTime := 0, openTime := 0 }) s
    chTo c 2 (beginOp id { s1 with loads := { s1.loads with orderCtr := k + 1 } })
  else s

/-- Leave is refused: OFF for a command, asked again 1 s later otherwise (R347, Table 10-4). -/
def loadRefused (c id : Nat) (s : State) : State :=
  if (chn s c).state = 1 ∧ (chn s c).req = some id then
    let now := s.now
    if (chn s c).auto then
      serveBank (c / 4) (updCh c (fun y => { y with req := none, retryAt := some now }) s)
    else serveBank (c / 4) (chTo c 0 (updCh c (fun y => { y with cmd := false }) s))
  else s

/-- An automatic switch-on asks leave again 1 s after its refusal (R347). -/
def execLoadLeaveRetry (ch : Nat) (s : State) : Host.Outcome State Fault Refusal :=
  match (chn s ch).retryAt with
  | some t =>
    if (chn s ch).state = 1 ∧ t + secF 1 ≤ s.now then
      let s1 := updCh ch (fun y => { y with retryAt := none }) s
      .next (serveBank (ch / 4) (updBank (ch / 4) (fun b => { b with queue := b.queue ++ [ch] }) s1))
    else .next s
  | none => .next s

/-- A channel's inrush window ends (R345, R40). -/
def execInrushWindowEnd (ch : Nat) (s : State) : Host.Outcome State Fault Refusal :=
  let x := chn s ch
  match x.window with
  | some t =>
    if x.state = 2 ∧ t + msF (inrushMs x.active) ≤ s.now then
      let s1 := match x.req with
        | some id => leavePeak id s
        | none => s
      .next (serveBank (ch / 4) (chTo ch 3 (updCh ch (fun y => { y with window := none }) s1)))
    else .next s
  | none => .next s

/-- A period of bank k's pulse generator in 0.1 microseconds (R348). -/
def pulsePeriod (s : State) (k : Nat) : Nat := 10000000 / max 1 (fld (bnk s k).applied 0 12)

/-- Bank k's period under way is over, to the ±1 % of Table 10-2 and the frame in which its end falls (R348). -/
def periodOver (s : State) (k : Nat) : Bool :=
  match (bnk s k).periodAt with
  | some t => decide (pulsePeriod s k * 99 / 100 ≤ 500 * (s.now + 1 - t))
  | none => true

/-- A bank generator period begins: pending mode, duty and phase apply (R348). -/
def execPwmPeriodBoundary (bank : Nat) (s : State) : Host.Outcome State Fault Refusal :=
  if !s.regionsRun ∨ 4 ≤ bank ∨ !periodOver s bank then .next s
  else
    let now := s.now
    let g := vget s.loads.banksCfg bank 0
    let s1 := (bankChannels bank).foldl (fun s c =>
      let ph := fld (ldCfg s c) 80 2
      updCh c (fun y =>
        let z := { y with active := setFld y.active 80 2 ph }
        match y.next with
        | some (m, d) => { z with pwm := m, duty := d, next := none }
        | none => z) s) s
    .next (updBank bank (fun b => { b with applied := g, periodAt := some now }) s1)

/-! Protection. -/

/-- BANK_FAULT (Table 10-11). -/
def bankEvent (k cause st vbb : Nat) (s : State) : State :=
  event 0x0724 (le 1 k ++ le 1 cause ++ le 1 st ++ le 2 vbb ++ s.stamp) s

/-- A channel that a bank overload had switched off leaves its retry sequence: the condition is released (Table 10-5). -/
def overReleased (c : Nat) (s : State) : State :=
  if (bnk s (c / 4)).overChs.contains c then
    bankEvent (c / 4) 5 0 (bnk s (c / 4)).vbb (updBank (c / 4) (fun b => { b with overChs := b.overChs.filter (· != c) }) s)
  else s

/-- The retry wait of R353 in frames, from the retries used. -/
def retryWait (x : Chan) : Nat := min (msF (10 * retryBase x.active) * 2 ^ x.retries) (secF 60)

/-- A channel fault: off, LOAD_FAULT, BACKOFF (R350, R353). -/
def channelFault (c cause ma : Nat) (temp : Int) (s : State) : State :=
  let now := s.now
  let x := chn s c
  let s1 := updCh c (fun y =>
    { y with fault := cause, latch := y.latch || cause == 1, waitEnd := now + retryWait x, temp := satInt 16 temp }) s
  let s1 := event 0x0721 (le 1 c ++ le 1 cause ++ le 2 (sat 16 ma) ++ leInt 2 temp ++ le 1 x.retries ++ s.stamp) s1
  serveBank (c / 4) (chTo c 4 s1)

/-- A die passes the shutdown temperature: the channel goes off and latches (R350). -/
def execThermalShutdown (ch ma : Nat) (temp : Int) (s : State) : Host.Outcome State Fault Refusal :=
  if !s.regionsRun ∨ 16 ≤ ch ∨ temp < 1700 then .next s
  else if chOn s ch then .next (channelFault ch 1 ma temp s)
  else .next (updCh ch (fun y => { y with latch := true }) s)

/-- The die falls below the release temperature: the latch clears (R350). -/
def execThermalLatchRelease (ch : Nat) (temp : Int) (s : State) : Host.Outcome State Fault Refusal :=
  if s.regionsRun ∧ temp ≤ 1550 then .next (updCh ch (fun y => { y with latch := false }) s) else .next s

/-- The current limit in force on channel c, in mA, as it depends on the channel's own window alone: the inrush limit inside it, the steady
limit after it (R345). Table 2-18 bounds it by 10.8 and 13.2 A, and by 4.5 and 5.5 A; the lower bounds are taken (DESIGN CHOICE, log 41). -/
def limitInForce (s : State) (c : Nat) : Nat := if (chn s c).window.isSome then 10800 else 4500

/-- In limit for OVERLOAD_MS outside the window: a channel fault (R350). -/
def execChannelOverload (ch ma : Nat) (temp : Int) (s : State) : Host.Outcome State Fault Refusal :=
  let x := chn s ch
  if x.state = 3 ∧ overloadMs x.active ≠ 0 ∧ 10000 * overloadMs x.active ≤ x.limitTime then .next (channelFault ch 2 ma temp s)
  else .next s

/-- The on-time of a channel in PWM within a period, in 0.1 microseconds: on-times and off-times are at least 20 microseconds (R348). -/
def pulseOn (s : State) (c : Nat) : Nat :=
  let p := pulsePeriod s (c / 4)
  max 200 (min (p - 200) ((chn s c).duty * p / 1000))

/-- The start of a channel's pulse within a period, in 0.1 microseconds: PHASE quarters of it (R348). -/
def pulseStart (s : State) (c : Nat) : Nat := fld (chn s c).active 80 2 * pulsePeriod s (c / 4) / 4

/-- Time within pulses up to t, in 0.1 microseconds: pulses of a length that start at 0 and repeat each period. -/
def pulseTime (period len t : Nat) : Nat := t / period * len + min (t % period) len

/-- Pulses that have ended up to t. -/
def pulseEnds (period len t : Nat) : Nat := (t + period - len) / period

/-- Where the frame that ends began within channel c's pulses, in 0.1 microseconds from the start of one. -/
def framePlace (s : State) (c : Nat) : Nat :=
  500 * (s.now - 1 - (bnk s (c / 4)).periodAt.getD 0) + pulsePeriod s (c / 4) - pulseStart s c

/-- On-time of channel c in the frame that ends, in 0.1 microseconds: all of it when static (R350). -/
def frameOn (s : State) (c : Nat) : Nat :=
  let p := max 1 (pulsePeriod s (c / 4))
  let x := framePlace s c
  if (chn s c).pwm then pulseTime p (pulseOn s c) (x + 500) - pulseTime p (pulseOn s c) x else 500

/-- The part of it that counts for open load: without the first 100 microseconds of each pulse (R352). -/
def frameJudged (s : State) (c : Nat) : Nat :=
  let p := max 1 (pulsePeriod s (c / 4))
  let x := framePlace s c + p - 1000
  if (chn s c).pwm then pulseTime p (pulseOn s c - 1000) (x + 500) - pulseTime p (pulseOn s c - 1000) x else 500

/-- A pulse of channel c ends in the frame that ends; a static channel has its frame judged as one (R350). -/
def frameEnds (s : State) (c : Nat) : Bool :=
  let p := max 1 (pulsePeriod s (c / 4))
  let x := framePlace s c
  !(chn s c).pwm || decide (pulseEnds p (pulseOn s c) x < pulseEnds p (pulseOn s c) (x + 500))

/-- The condition on current has lasted 50 ms of on-time (R352). -/
def openDue (s : State) (c : Nat) : Bool := decide (500000 ≤ (chn s c).openTime)

/-- Open load: current below the threshold for 50 ms of on-time (R352). -/
def execOpenLoadDetected (ch : Nat) (s : State) : Host.Outcome State Fault Refusal :=
  let x := chn s ch
  if x.state = 3 ∧ openLoadEn x.active ∧ !x.openLoad ∧ openDue s ch then
    .next (event 0x0722 (le 1 ch ++ le 1 1 ++ s.stamp) (updCh ch (fun y => { y with openLoad := true, openTime := 0 }) s))
  else .next s

/-- Open load clears: 30 mA for 50 ms of on-time (R352). -/
def execOpenLoadCleared (ch : Nat) (s : State) : Host.Outcome State Fault Refusal :=
  let x := chn s ch
  if x.state = 3 ∧ x.openLoad ∧ openDue s ch then
    .next (event 0x0722 (le 1 ch ++ le 1 0 ++ s.stamp) (updCh ch (fun y => { y with openLoad := false, openTime := 0 }) s))
  else .next s

/-- A BACKOFF wait has ended with the latch clear: a retry once the bank is free, or EXHAUSTED (R353). -/
def execRetryWaitEnd (ch : Nat) (s : State) : Host.Outcome State Fault Refusal :=
  let x := chn s ch
  if x.state = 4 ∧ x.waitEnd ≤ s.now ∧ !x.latch then
    if x.retries < retryCount x.active then
      if bankHeld s (ch / 4) then .next s
      else .next (joinQueue ch true (overReleased ch (updCh ch (fun y => { y with retries := y.retries + 1 }) s)))
    else .next (event 0x0723 (le 1 ch ++ s.stamp) (chTo ch 5 s))
  else .next s

/-- After 10 s on without a channel fault RETRIES returns to 0 (R353). -/
def execRetriesReset (ch : Nat) (s : State) : Host.Outcome State Fault Refusal :=
  let x := chn s ch
  if chOn s ch ∧ x.onAt + secF 10 ≤ s.now then .next (updCh ch (fun y => { y with retries := 0 }) s) else .next s

/-! Bank conditions. -/

/-- Every channel of a bank that is on or waits goes off and is held (R356, Table 10-4). -/
def holdBank (k : Nat) (s : State) : State :=
  let s1 := updBank k (fun b => { b with queue := [] }) s
  (bankChannels k).foldl (fun s c =>
    let st := (chn s c).state
    if st = 1 ∨ st = 2 ∨ st = 3 then
      chTo c 6 (updCh c (fun y => { y with fault := 4, retryAt := none }) s)
    else s) s1

/-- Held channels are released when every hold has ended: in channel order as new switch-ons (R356). -/
def releaseBank (k : Nat) (s : State) : State :=
  if bankHeld s k then s
  else
    (bankChannels k).foldl (fun s c =>
      let x := chn s c
      if x.state = 6 ∧ !x.isolated then (if x.cmd then joinQueue c true s else chTo c 0 s) else s) s

/-- VBBk below the undervoltage threshold; the fourth within 60 s locks the bank out (Table 10-5). -/
def execBankUndervoltage (bank vbbMv : Nat) (s : State) : Host.Outcome State Fault Refusal :=
  let b := bnk s bank
  if !s.regionsRun ∨ 4 ≤ bank ∨ b.uv ∨ 16500 < vbbMv then .next s
  else
    let now := s.now
    let recent := b.uvAt.filter (fun t => decide (now < t + secF 60))
    let lock := decide (3 ≤ recent.length)
    let s1 := updBank bank (fun b => { b with uv := true, vbb := sat 16 vbbMv, uvAt := (now :: recent).take 4,
                                              lockout := b.lockout || lock }) s
    let s1 := bankEvent bank 1 1 vbbMv (holdBank bank s1)
    .next (if lock && !b.lockout then bankEvent bank 6 1 vbbMv s1 else s1)

/-- VBBk above the overvoltage threshold (Table 10-5). -/
def execBankOvervoltage (bank vbbMv : Nat) (s : State) : Host.Outcome State Fault Refusal :=
  if !s.regionsRun ∨ 4 ≤ bank ∨ (bnk s bank).ov ∨ vbbMv < 35000 then .next s
  else .next (bankEvent bank 2 1 vbbMv (holdBank bank (updBank bank (fun b => { b with ov := true, vbb := sat 16 vbbMv }) s)))

/-- GNDPk is lost (Table 10-5). -/
def execBankGroundLoss (bank vbbMv : Nat) (s : State) : Host.Outcome State Fault Refusal :=
  if !s.regionsRun ∨ 4 ≤ bank ∨ (bnk s bank).gndLost then .next s
  else
    .next (bankEvent bank 3 1 vbbMv (holdBank bank
      (updBank bank (fun b => { b with gndLost := true, gndGood := false, vbb := sat 16 vbbMv }) s)))

/-- VBBk is reversed: channels are held off (Table 10-5, R357). -/
def execBankReverseSupply (bank : Nat) (s : State) : Host.Outcome State Fault Refusal :=
  if !s.regionsRun ∨ 4 ≤ bank ∨ (bnk s bank).reverse then .next s
  else .next (bankEvent bank 4 1 0 (holdBank bank (updBank bank (fun b => { b with reverse := true, vbb := 0 }) s)))

/-- The channel of a bank that was switched on most recently among those that are on. -/
def latestOn (s : State) (k : Nat) : Option Nat :=
  ((bankChannels k).filter (chOn s)).foldl (fun m c =>
    match m with
    | none => some c
    | some d => if (chn s d).order < (chn s c).order then some c else some d) none

/-- More than 20 A for 1 s outside any window of the bank: the channel switched on most recently goes off (Table 10-5). -/
def execBankOverload (bank vbbMv : Nat) (s : State) : Host.Outcome State Fault Refusal :=
  match (bnk s bank).overSince, latestOn s bank with
  | some t, some c =>
    if s.regionsRun ∧ t + secF 1 ≤ s.now then
      let now := s.now
      let s1 := updBank bank (fun b => { b with overAt := some now, overSince := none, overChs := b.overChs ++ [c], vbb := sat 16 vbbMv }) s
      .next (channelFault c 3 (chn s c).current (chn s c).temp (bankEvent bank 5 1 vbbMv s1))
    else .next s
  | _, _ => .next s

/-- A condition's release criterion is met: the resume levels of Tables 2-18 and 10-2; ground loss waits for LOAD_BANK_RESET
with GNDPk read good (Table 10-5). -/
def execBankHoldRelease (bank : Nat) (cause : Nat) (vbbMv : Nat) (good100ms : Bool) (s : State) : Host.Outcome State Fault Refusal :=
  let b := bnk s bank
  if !s.regionsRun ∨ 4 ≤ bank then .next s
  else
    let s0 := updBank bank (fun b => { b with vbb := sat 16 vbbMv }) s
    if cause = 1 ∧ b.uv ∧ !b.lockout ∧ good100ms ∧ 17000 ≤ vbbMv then
      .next (releaseBank bank (bankEvent bank 1 0 vbbMv (updBank bank (fun b => { b with uv := false }) s0)))
    else if cause = 2 ∧ b.ov ∧ vbbMv < 35000 then
      .next (releaseBank bank (bankEvent bank 2 0 vbbMv (updBank bank (fun b => { b with ov := false }) s0)))
    else if cause = 3 ∧ b.gndLost then .next (updBank bank (fun b => { b with gndGood := good100ms }) s0)
    else if cause = 4 ∧ b.reverse ∧ good100ms ∧ 0 < vbbMv then
      .next (releaseBank bank (bankEvent bank 4 0 vbbMv (updBank bank (fun b => { b with reverse := false }) s0)))
    else .next s

/-! Commands. -/

/-- Modes in which channels can be on (R343). -/
def loadMode (s : State) : Bool := s.modes.mode != .monument

/-- LOAD_SET to on or PWM, for each state of Table 10-4. A hold met by a channel that is off holds it at once; a reversed supply
counts as a hold that ends by itself (DEDUCED, log 25). -/
def loadOn (h : Hdr) (c : Nat) (pwm : Bool) (duty : Nat) (s : State) : Result :=
  let x := chn s c
  let b := bnk s (c / 4)
  let start (s : State) : State := updCh c (fun y => { y with cmd := true, pwm := pwm, duty := duty, retries := 0, next := none }) s
  if x.isolated ∨ b.isolated ∨ (x.state ≠ 2 ∧ x.state ≠ 3 ∧ (b.gndLost ∨ b.lockout)) then { st := s, status := .notConfirmed }
  else if x.state = 2 ∨ x.state = 3 then
    { st := updCh c (fun y => { y with next := some (pwm, duty), retries := 0 }) s }
  else if x.state = 1 then { st := updCh c (fun y => { y with retries := 0 }) s }
  else if (x.state = 4 ∨ x.state = 5) ∧ x.latch then { st := s, status := .notConfirmed }
  else if bankHeld s (c / 4) then
    { st := chTo c 6 (updCh c (fun y => { y with byCmd := some (flagAck h.flags), fault := 4 }) (start (overReleased c s))),
      status := .queued }
  else
    let s1 := joinQueue c false (start (overReleased c s))
    match (chn s1 c).req with
    | some id => { st := s1, wait := some id }
    | none => { st := updCh c (fun y => { y with byCmd := some (flagAck h.flags) }) s1, status := .queued }

/-- LOAD_SET (Table 10-10). -/
def loadSetCmd (h : Hdr) (p : List Byte) (s : State) : Cmd :=
  let c := byteAt p 0
  let a := byteAt p 1
  let d := numAt p 2 2
  { form := p.length == 4, role := decide (1 ≤ s.roles.role), mode := loadMode s,
    params := decide (c < 16) && decide (a ≤ 2) && (a != 2 || (decide (1 ≤ d) && decide (d ≤ 999))),
    run :=
      if a = 0 then
        let s1 := updCh c (fun y => { y with cmd := false, retries := 0, retryAt := none, next := none }) (overReleased c s)
        { st := serveBank (c / 4) (chTo c 0 s1) }
      else loadOn h c (a == 2) (if a = 2 then d else 0) s }

/-- LOAD_SET switches a channel off, on or to PWM (R354). -/
def execLoadSet (h : Hdr) (p : List Byte) (s : State) : Host.Outcome State Fault Refusal :=
  .next (hostCommand h 0x0710 p (loadSetCmd h p) s)

/-- The answer to a LOAD_SET that waited: the output rises, or its start is deferred (R36, R361). -/
def loadDeferred (a : Awaiting) (c : Nat) (s : State) : State :=
  answerAwaiting a .queued [] (updCh c (fun y => { y with byCmd := some (flagAck a.flags) }) s)

/-- LOAD_BANK_RESET (Table 10-10). The resume level is taken at its typical 17.5 V (DESIGN CHOICE, log 25). -/
def bankResetCmd (p : List Byte) (s : State) : Cmd :=
  let k := byteAt p 0
  let b := bnk s k
  let held := b.gndLost || b.lockout
  let ok := (!b.gndLost || b.gndGood) && decide (17500 ≤ b.vbb)
  { form := p.length == 1, role := decide (1 ≤ s.roles.role), mode := loadMode s, params := decide (k < 4),
    run :=
      if !held then { st := s }
      else if !ok then { st := s, status := .notConfirmed }
      else
        let s1 := updBank k (fun b => { b with gndLost := false, gndGood := false, lockout := false,
                                               uv := if b.lockout then false else b.uv }) s
        let s1 := if b.gndLost then bankEvent k 3 0 b.vbb s1 else s1
        let s1 := if b.lockout then bankEvent k 6 0 b.vbb (if b.uv then bankEvent k 1 0 b.vbb s1 else s1) else s1
        { st := releaseBank k s1 } }

/-- LOAD_BANK_RESET releases a ground loss or an undervoltage lockout (R356). -/
def execLoadBankReset (h : Hdr) (p : List Byte) (s : State) : Host.Outcome State Fault Refusal :=
  .next (hostCommand h 0x0711 p (bankResetCmd p) s)

/-! Resets, isolation and the frame's work. -/

/-- A switch-on that waits for a host command goes back to OFF with CMD = 0 in a CORE reset, and the LOAD_CHANGED that would complete the
command is never sent (R101, Coincidences of chapter 10). -/
def withdrawOn (c : Nat) (s : State) : State :=
  let s1 := updCh c (fun y => { y with state := 0, cmd := false, byCmd := none, req := none }) (releaseOpt (chn s c).req s)
  serveBank (c / 4) (updBank (c / 4) (fun b => { b with queue := b.queue.filter (· != c) }) s1)

/-- A CORE reset leaves the channels as they are, but for switch-ons that wait for a host command (R343). -/
def loadsCoreReset (s : State) : State :=
  (List.range 16).foldl (fun s c =>
    if (chn s c).state = 1 ∧ !(chn s c).auto then withdrawOn c s else updCh c (fun y => { y with byCmd := none }) s) s

/-- A channel's cell is isolated: off and held until a SYSTEM reset (R344). -/
def isolateChannel (c : Nat) (s : State) : State :=
  serveBank (c / 4) (chTo c 6 (updCh c (fun y => { y with isolated := true, fault := 5, retryAt := none }) (overReleased c s)))

/-- A load bank is isolated by its region (R344, R351, Table 1-4). -/
def isolateBank (k : Nat) (s : State) : State :=
  channelsOff (bankChannels k) (updBank k (fun b => { b with isolated := true, queue := [] }) s)

/-- A channel's reading of the frame that ends: on-time in limit counts across pulses, and a pulse that ends out of limit resets it; the
open-load level is fixed at 20 mA: Table 2-18 bounds it by 15 and 25 mA (R350 to R352; DESIGN CHOICE, log 41). -/
def loadReading (l : LoadIn) (s : State) : State :=
  let on := chOn s l.ch
  let lit := frameOn s l.ch
  let part := frameJudged s l.ch
  let limits := on && l.inLimit && decide (limitInForce s l.ch ≤ l.ma)
  let ends := frameEnds s l.ch
  updCh l.ch (fun y =>
    let watch := y.state == 3 && openLoadEn y.active && (if y.openLoad then decide (30 ≤ l.ma) else decide (l.ma < 20))
    { y with current := if on then sat 16 l.ma else 0, temp := satInt 16 l.temp, inLimit := limits,
             limitTime := if y.state != 3 then 0 else if limits then y.limitTime + lit else if ends then 0 else y.limitTime,
             openTime := if watch then y.openTime + part else if y.state != 3 || part != 0 then 0 else y.openTime }) s

/-- The monitoring job of a frame (R350 to R352, R356). -/
def loadsFrame (m : FrameIn) (s : State) : State :=
  let now := s.now
  let s1 := m.loads.foldl (fun s l => loadReading l s) s
  let s1 := m.banks.foldl (fun s b => updBank b.1 (fun y => { y with vbb := sat 16 b.2 }) s) s1
  (List.range 4).foldl (fun s k =>
    let i := ((bankChannels k).map (fun c => (chn s c).current)).foldl (· + ·) 0
    let open' := (bankChannels k).any (fun c => (chn s c).state == 2)
    updBank k (fun y => { y with current := sat 16 i,
                                 overSince := if decide (20000 < i) && !open' then some (y.overSince.getD now) else none }) s) s1

/-- The measured steady power of the load channels, renewed each superframe for those that are on; holds charged for channels on
VAUX end with it (R34, R347). -/
def loadsSuper (s : State) : State :=
  { s with ease := { s.ease with
      loadSteady := Vector.ofFn (fun c : Fin 16 =>
        if (chn s c.val).state = 3 then (chn s c.val).current * (bnk s (c.val / 4)).vbb else 0),
      charges := s.ease.charges.filter (fun c => !(c.rq.cls == 3 && c.inHold)) } }

/-! SENSE pads. -/

/-- What SENSEk shows, in mV (R355): 4,800 for a fault, else 0.60 V per ampere up to 3,000. Table 2-18 bounds the fault level by 4.5 and
5.1 V (DESIGN CHOICE, log 41). -/
def senseMv (s : State) (k : Nat) : Nat :=
  let x := chn s (4 * k + fld (vget s.loads.banksCfg k 0) 12 2)
  if s.faults.globalSafe ∨ x.state = 0 ∨ x.state = 1 then 0
  else if x.state = 2 ∨ x.state = 3 then min 3000 (x.current * 6 / 10)
  else if x.cmd then 4800
  else 0

end Sys2Proof.Machine
end

