-- ==== Sys2Proof/Machine/Reset.lean ====
section
/-!
DEFINITION. Reset sources and how they are asserted and released (R87 to R94, R99, R100, R102). What a reset clears, and the boot that
follows it, are in Boot.
-/

namespace Sys2Proof.Machine

/-- Reach of a reset source: 0 CORE, 1 SYSTEM, 2 POWER-ON (Table 3-5). -/
def sourceReach (src : Nat) : Nat := if src ≤ 2 then 2 else if src = 9 ∨ src = 10 ∨ src = 16 then 0 else 1

/-- Numbers of the sources of Table 3-5. -/
def srcPor : Nat := 0
def srcPfReturn : Nat := 1
def srcRailBor : Nat := 2
def srcResetN : Nat := 3
def srcWdtApp : Nat := 9
def srcCmdCore : Nat := 10
def srcCmdSystem : Nat := 11
def srcSafetyFatal : Nat := 12
def srcClockMonitor : Nat := 13
def srcImageFallback : Nat := 14
def srcPowerFault : Nat := 15
def srcAppFault : Nat := 16

/-- The reset unit rewritten. -/
def updRst (f : Reset → Reset) (s : State) : State := { s with rst := f s.rst }

/-- The current reset-cause entry rewritten (R102). -/
def updCause (f : ResetCause → ResetCause) (s : State) : State :=
  updRst (fun r => { r with cause := match r.cause with
                              | [] => []
                              | c :: t => f c :: t }) s

/-- A source is seen in the current entry. -/
def noteSource (src : Nat) (s : State) : State :=
  updCause (fun c => { c with sources := setBit c.sources src true }) s

/-- The origin t0 of the boot: for SYSTEM, the release of the last source of that reach; for CORE, of the last source. For POWER-ON it is
VAUX's rise and stays (R95). -/
def bootOrigin (src now : Nat) (r : Reset) : Nat :=
  if r.reachNow = 0 ∨ (r.reachNow = 1 ∧ 1 ≤ sourceReach src) then now else r.bootAt

/-- A source is released: its place in RELEASE_ORDER is taken, in the next entry for a source that waits for it (R94). -/
def releaseSource (src : Nat) (s : State) : State :=
  if s.rst.noted.contains src then
    updRst (fun r => { r with asserted := r.asserted.filter (fun x => x != src), notedOrder := r.notedOrder ++ [src] }) s
  else if s.rst.asserted.contains src then
    let now := s.now
    updCause (fun c => { c with order := c.order ++ [src] })
      (updRst (fun r => { r with asserted := r.asserted.filter (fun x => x != src), bootAt := bootOrigin src now r }) s)
  else s

/-- Sources released in the same tick are recorded in ascending number (R94). -/
def releaseAll (p : Nat → Bool) (s : State) : State :=
  (((List.range 17).filter (fun x => s.rst.asserted.contains x)).filter p).foldl (fun s x => releaseSource x s) s

/-- A new reset-cause entry, with the sources that a shutdown has kept for it; a POWER-ON reset clears the history (R94, R102,
Table 3-4). -/
def openEntry (src reach : Nat) (s : State) : State :=
  let n := if reach = 2 then 1 else satInc 16 s.rst.count
  let e : ResetCause := { sources := BitVec.ofNat 17 (2 ^ src), reach := BitVec.ofNat 2 reach, sessionsOpen := s.anySession,
                          finalSaveOk := true, stamp := s.clock.legal, count := n }
  let e := { e with sources := s.rst.noted.foldl (fun v x => setBit v x true) e.sources, order := s.rst.notedOrder }
  updRst (fun r => { r with cause := if reach = 2 then [e] else (e :: r.cause).take 8, count := n, noted := [], notedOrder := [] }) s

/-- The outlet pair of outlet n is confirmed closed. -/
def pairClosed (s : State) (n : Nat) : Bool :=
  (drv s (2 * n)).cmd && !(drv s (2 * n)).mainOpen && (drv s (2 * n + 1)).cmd && !(drv s (2 * n + 1)).mainOpen

/-- The outlets whose session is held through a CORE reset: contactors closed (R100). -/
def heldSessions (s : State) : BitVec 8 :=
  maskOf 8 ((List.range 8).filter (fun n => s.sessionOpen n && pairClosed s n))

/-- A CORE source is asserted: the session hold begins at its first assertion, and a pull-in that has not closed its contactors is
withdrawn (R100, Core reset and a session start at the same moment). -/
def coreAssert (s : State) : State :=
  let s1 := match s.rst.hold with
    | some _ => s
    | none => updRst (fun r => { r with hold := some s.now, holdLegal := s.clock.legal, holdMask := heldSessions s }) s
  ((List.range 8).filter (fun n => (sq s n).state == 1 && !pairClosed s n)).foldl (fun s n =>
    driverOff (2 * n + 1) (driverOff (2 * n) s)) s1

/-- BENCHMARK ends with a reset of reach SYSTEM or wider, or with a power-fail warning: its exit records are due at the next start, unless
this start has signed them already (R473). -/
def benchEnds (s : State) : State :=
  { s with billing := { s.billing with
      benchLost := s.billing.benchLost || (s.modes.mode == .benchmark && !s.modes.benchClosed) } }

/-- The final save of R84 while the rails are good, with the pipeline's estimate (R89, R210). -/
def assertSave (s : State) : State :=
  if s.power.pfw then s
  else
    let s1 := finalSave (pipelineCut s)
    benchEnds s1

/-- Pads of SITE go back to Table 2-11 with the assertion: Traverse transmission, reader field and panel rails are off (R53, R98). -/
def sitePadsOff (s : State) : State :=
  let s1 := fieldOff 0 (lowerRails s)
  { s1 with trv := { s1.trv with transmit := false, running := false } }

/-- A source of reach SYSTEM or wider stops what runs: the outputs take their safe states, the session hold ends, and the final save
is made if the regions ran (R89). -/
def systemAssert (ran : Bool) (s : State) : State :=
  let s1 := sitePadsOff (updRst (fun r => { r with hold := none, holdMask := 0 }) (outputsSafe s))
  if ran then assertSave s1 else s1

/-- Plain events lost with a queue, each EVENT_LOST with those that it reports (R138, R472). -/
def lostCount (l : List Event) : Nat :=
  ((l.filter (fun e => !e.ack)).map (fun e => if e.code = eventLost then 1 + numAt e.payload 0 2 else 1)).foldl (· + ·) 0

/-- Plain events still pending at a reset are lost and counted; after a power-fail warning those in the journal are kept, and the others
are lost without a count (R470, R472). -/
def losePlain (s : State) : State :=
  let p := s.port
  if s.power.pfw ∧ 6 ≤ s.power.shutStep then s
  else
    let n := if s.power.pfw then 0 else p.dropped + lostCount p.fresh
    { s with port := { p with fresh := p.fresh.filter (·.ack), dropped := 0, lostReset := sat 16 (p.lostReset + n) } }

/-- A reset begins from normal operation. -/
def beginReset (src reach : Nat) (s0 : State) : State :=
  let s := losePlain s0
  updRst (fun r => { r with asserted := r.asserted ++ [src], phase := .asserted, reachNow := BitVec.ofNat 2 reach,
                                      takes := BitVec.ofNat 2 reach, assertedAt := s.now, modeBefore := s.modes.mode, delayed := none, delayedRead := none })
    (s.rst.asserted.foldl (fun s x => noteSource x s) (openEntry src reach (if reach = 0 then coreAssert s else systemAssert true s)))

/-- A further source widens a reset that is asserted or boots (R93, R94): the history goes with POWER-ON reach. -/
def widenReset (src reach : Nat) (s : State) : State :=
  let s1 := noteSource src s
  let wider := decide (s.rst.reachNow.toNat < reach)
  let s2 := updCause (fun c => { c with reach := if wider then BitVec.ofNat 2 reach else c.reach,
                                        count := if reach = 2 then 1 else c.count }) s1
  let s2 := if reach = 2 then updRst (fun r => { r with cause := r.cause.take 1, count := 1 }) s2 else s2
  updRst (fun r => { r with asserted := r.asserted ++ [src], takes := BitVec.ofNat 2 (max r.takes.toNat reach),
                            reachNow := if wider then BitVec.ofNat 2 reach else r.reachNow }) s2

/-- A source is asserted again while the device boots: it falls back to the start of the step that the source's reach requires
(R93). A CORE source takes effect at once, for the cores are in reset; with the sessions of a CORE reset it begins a hold that has ended
anew (R100). Before step 1 has ended a source without a level takes effect at once too. -/
def assertBooting (src reach : Nat) (s : State) : State :=
  let s1 := widenReset src reach s
  if reach = 0 then
    let s2 := releaseSource src (if s.rst.reachNow = 0 then coreAssert s1 else s1)
    if s.rst.phase = .released then updRst (fun r => { r with phase := .held 5 }) s2 else s2
  else if s.rst.phase = .held 0 then s1
  else updRst (fun r => { r with phase := .asserted, assertedAt := s.now }) (systemAssert s.regionsRun s1)

/-- A shutdown is under way, and no reset has followed it yet: a source waits for the next entry (R83, R94). -/
def sourceWaits (src : Nat) (s : State) : Bool := s.power.pfw && src != srcPfReturn && !s.rst.asserted.contains srcPfReturn

/-- A reset source is asserted (R90, R93, R94). After a power-fail warning it waits for the next entry, RAIL_BOR too: the shutdown runs to
its end (Power-fail warning and a reset source at the same moment). -/
def assertSource (src : Nat) (s : State) : State :=
  let reach := sourceReach src
  if s.power.supply ≠ .on ∨ s.rst.asserted.contains src then s
  else if sourceWaits src s then updRst (fun r => { r with asserted := r.asserted ++ [src], noted := r.noted ++ [src] }) s
  else
    match s.rst.phase with
    | .running => beginReset src reach s
    | .asserted =>
      let s1 := widenReset src reach s
      if reach ≠ 0 ∧ s.rst.reachNow = 0 then systemAssert s.regionsRun s1 else s1
    | _ => assertBooting src reach s

/-- A region's watchdog source (Table 3-5). -/
def watchdogSource (region : Nat) : Option Nat := if region ≤ 4 then some (region + 4) else none

/-- Origin block and cell of a report whose cell the spec does not name, free values (log 30). -/
def originBlock (cls : Byte) (key : Nat) : Nat := Config.reportBlock cls key % 64
def originCell (cls : Byte) (key : Nat) : Nat := Config.reportCell cls key % 256

/-- A region sequencer silent for 8 frames: a WATCHDOG report of its region, and a SYSTEM source (R90, Table 1-6). The report names
reference cycle 0, for no rule gives it (R25; DESIGN CHOICE, log 44). -/
def execRegionWatchdog (region : Nat) (s : State) : Host.Outcome State Fault Refusal :=
  match watchdogSource region with
  | some src =>
    if s.regionUp region then
      .next (assertSource src (report { cls := 0x09, key := region, region := region, block := originBlock 0x09 region,
                                        cell := originCell 0x09 region, scope := scopeRegion, outlets := 0, reaction := 6 } s))
    else .next s
  | none => .next s

/-- Firmware that has not serviced its watchdog for 100 ms: a WATCHDOG report of the APPLICATION region, and a CORE source (R90). -/
def execAppWatchdog (s : State) : Host.Outcome State Fault Refusal :=
  if s.running then
    .next (assertSource srcWdtApp (report { cls := 0x09, key := 5, region := 5, block := originBlock 0x09 5,
                                            cell := originCell 0x09 5, scope := scopeRegion, outlets := 0, reaction := 0 } s))
  else .next s

/-- RESET_N reads low for at least 10 us: a SYSTEM source with a level, unless the pin is masked (R92). Before the end of boot step 1
the level alone is noted. -/
def execResetNAssert (s : State) : Host.Outcome State Fault Refusal :=
  if s.rst.pinLow then .next s
  else
    let s1 := updRst (fun r => { r with pinLow := true, pinLowAt := s.now }) s
    if s.rst.masked ∨ s.rst.phase = .held 0 then .next s1 else .next (assertSource srcResetN s1)

/-- RESET_N goes high: its source is released (R92, R94). -/
def execResetNRelease (s : State) : Host.Outcome State Fault Refusal :=
  if !s.rst.pinLow then .next s
  else .next (releaseSource srcResetN (updRst (fun r => { r with pinLow := false, pinHighAt := s.now }) s))

/-- RESET_N low for 10 s: the button is stuck, the pin is masked and its source counts as released (R92). -/
def execStuckReset (s : State) : Host.Outcome State Fault Refusal :=
  if s.power.supply = .on ∧ !s.power.pfw ∧ s.rst.pinLow ∧ !s.rst.masked ∧ s.rst.asserted.contains srcResetN ∧ s.rst.pinLowAt + secF 10 ≤ s.now then
    .next (releaseSource srcResetN (updCause (fun c => { c with stuck := true })
      (updRst (fun r => { r with masked := true, stuckAt := some s.clock.legal }) s)))
  else .next s

/-- A masked pin seen high for 100 ms is armed again (R92). -/
def execResetNRearm (s : State) : Host.Outcome State Fault Refusal :=
  if s.power.supply = .on ∧ s.rst.masked ∧ !s.rst.pinLow ∧ s.rst.pinHighAt + msF 100 ≤ s.now then
    .next (updRst (fun r => { r with masked := false }) s)
  else .next s

/-- One internal rail is outside its window, which of the five a free value: it counts as down until boot step 1 ends, and without VP12 or
VN12 the pilots are at high impedance (R53, R271; log 30, log 42). -/
def railFails (s : State) : State :=
  let k := 1 + Config.freeNat (s.factory.freeCtr + 1) % 5
  let s1 := { s with power := { s.power with railOut := k } }
  if k = 4 ∨ k = 5 then { s1 with link := { s1.link with outs := s1.link.outs.map (fun y => { y with drive := 3 }) } } else s1

/-- An internal rail outside its window for 2 us: a POWER-ON reset (R90). Whether the rails still carry the final save is a free value
(R85, R89; log 30). VAUX does not rise, so t0 of the boot is the assertion (DESIGN CHOICE, log 38). -/
def execRailBor (s : State) : Host.Outcome State Fault Refusal :=
  if s.power.supply ≠ .on ∨ !s.power.rails ∨ s.rst.asserted.contains srcRailBor then .next s
  else if s.power.pfw then .next (railFails (assertSource srcRailBor s)).drawFree.drawFree
  else
    let s1 := railFails (updRst (fun r => { r with bootAt := s.now }) (assertSource srcRailBor s))
    if s.regionsRun && !s.power.pfw && Config.freeNat s.factory.freeCtr % 2 == 1 then
      .next { s1 with energy := { s1.energy with ring := s.energy.ring, slotSeq := s.energy.slotSeq, lastSlot := s.energy.lastSlot,
                                                 lastKind := s.energy.lastKind, lastTime := s.energy.lastTime },
                      power := { s1.power with finalOk := false } }.drawFree.drawFree
    else .next s1.drawFree.drawFree

/-- 500 ms after the first CORE source, sessions not yet confirmed get Safe Ramp Stop (R100, Table 9-6). -/
def execSessionHoldExpired (s : State) : Host.Outcome State Fault Refusal :=
  match s.rst.hold with
  | some t0 =>
    if s.rst.holdMask ≠ 0 ∧ t0 + msF 500 ≤ s.now then
      let m := s.rst.holdMask
      let s1 := (bitList m).foldl (fun s n => demandStop n 8 (tRampEmerg s n) s) s
      .next (event 0x0166 (le 1 m.toNat ++ stampB s.rst.holdLegal)
        (updCause (fun c => { c with holdExpired := true }) (updRst (fun r => { r with hold := none, holdMask := 0 }) s1)))
    else .next s
  | none => .next s

/-- The commanded reset takes effect 2 ms after its reply has been read, or 10 ms after it at the latest (R103). -/
def execResetDelayEnd (s : State) : Host.Outcome State Fault Refusal :=
  match s.rst.delayed with
  | some (reach, t) =>
    let due := decide (t + msF 10 ≤ s.now) || (match s.rst.delayedRead with | some r => decide (r + msF 2 ≤ s.now) | none => false)
    if s.running && due then
      .next (assertSource (if reach = 0 then srcCmdCore else srcCmdSystem) (updRst (fun r => { r with delayed := none, delayedRead := none }) s))
    else .next s
  | none => .next s

end Sys2Proof.Machine
end

