-- ==== Sys2Proof/Machine/Faults.lean ====
section
/-!
DEFINITION. Monitored cells, region faults and their reactions, the monitors, and missed deadlines (R14 to R24, R222, R223, R464).
-/

namespace Sys2Proof.Machine

/-! Tables keyed by a number. -/

/-- The value under a key, d when none is held. -/
def assocGet {α : Type} (d : α) (k : Nat) (l : List (Nat × α)) : α :=
  match l.find? (fun p => p.1 == k) with
  | some p => p.2
  | none => d

/-- The value under a key replaced, or put in its place by rising key. -/
def assocPut {α : Type} (k : Nat) (v : α) : List (Nat × α) → List (Nat × α)
  | [] => [(k, v)]
  | p :: t => if p.1 = k then (k, v) :: t else if k < p.1 then (k, v) :: p :: t else p :: assocPut k v t

/-- Cell i of CELL_MAP. -/
def cellSt (s : State) (i : Nat) : CellState := assocGet {} i s.faults.cells

/-- Cell i rewritten. -/
def updCell (i : Nat) (f : CellState → CellState) (s : State) : State :=
  { s with faults := { s.faults with cells := assocPut i (f (cellSt s i)) s.faults.cells } }

/-- A cell takes part in operation: neither isolated nor failed in its self-test (R16). -/
def cellInUse (s : State) (i : Nat) : Bool := (cellSt s i).state == 0 || (cellSt s i).state == 2

/-! Region faults. -/

/-- The global safe state (R20). -/
def globalSafeNow (s : State) : State := outputsSafe { s with faults := { s.faults with globalSafe := true } }

/-- A SAFETY region fault: global safe state, then a SYSTEM reset (Table 1-4). -/
def safetyFault (s : State) : State := assertSource srcSafetyFatal (globalSafeNow s)

/-- A VEHICLE LINK fault: link ended, Safe Ramp Stop, outlet unavailable (Table 1-4). -/
def linkFault (outs : List Nat) (s : State) : State :=
  let f := { s.faults with linkFaulty := outs.foldl (fun m n => setBit m n true) s.faults.linkFaulty }
  outs.foldl (fun s n => stopLink n 9 8 (tRampEmerg s n) s) { s with faults := f }

/-- The site functions that a SITE fault makes unavailable (Table 1-4). -/
def trvFault (s : State) : State :=
  trvSilent (releaseOpt s.trv.leave { s with faults := { s.faults with traverse := true }, trv := { s.trv with leave := none, grant := false } })
def readerFault (s : State) : State := readerStop 7 { s with faults := { s.faults with reader := true } }
def witnessFault (s : State) : State := { s with faults := { s.faults with witness := true } }

/-- Tolerance of isolated cells in a block (Table 1-3). -/
def tolerance : CellType → Nat
  | .mram => 2 | .sram => 2 | .sealedMram => 2 | .witnessMram => 2
  | .cache => 4 | .dma => 4 | .fifo => 4
  | _ => 0

/-- A bank whose contents go to a spare (Table 1-3). -/
def spared : CellType → Bool
  | .mram => true | .sram => true | .sealedMram => true | .witnessMram => true
  | _ => false

/-- The outlets that a cell serves (Table 1-3, R167, Table 9-1). -/
def cellOutlets (s : State) (c : CellId) : List Nat :=
  (match c.type with
    | .driver => if c.number < 16 then [c.number / 2] else [(matrixJoins c.number).1, (matrixJoins c.number).2]
    | .plumb => [c.number]
    | .accumulator => [c.number]
    | .pilot => [c.number]
    | .t1s => [c.number]
    | .decimator => [c.number / 8]
    | .fir => [c.number / 16 * 2 + c.number % 16 / 8]
    | .butterfly => [c.number / 48]
    | .can => s.outlets
    | .safetyInput => s.outlets
    | .testPulse => s.outlets
    | .lockstep => s.outlets
    | .sealedMram => s.outlets
    | .clock => if c.region ≤ 2 then s.outlets else []
    | _ => []).filter s.present

/-- The effect of an isolation on what the cell served (Table 1-3). -/
def cellEffect (c : CellId) (s : State) : State :=
  match c.type with
  | .driver =>
    let f := { s.faults with driverCells := setBit s.faults.driverCells c.number true,
                             safetyFaulty := s.faults.safetyFaulty ||| maskOf 8 (cellOutlets s c) }
    updDrv c.number (fun x => { x with state := 3 }) (driverOff c.number { s with faults := f })
  | .safetyInput =>
    isolatedDemands { s with faults := { s.faults with inputCells := setBit s.faults.inputCells (c.number / 2) true } }
  | .testPulse => isolatedDemands { s with faults := { s.faults with pulseCells := setBit s.faults.pulseCells c.number true } }
  | .plumb => proofLapses c.number { s with faults := { s.faults with plumbCells := setBit s.faults.plumbCells c.number true } }
  | .can =>
    let f := { s.faults with canCells := setBit s.faults.canCells c.number true }
    ((List.range 16).filter (fun m => pmEnabled s m && fld (pmCfg s m) 1 1 == c.number)).foldl (fun s m =>
      moduleGone m (updPm m (fun x => { x with health := 3 }) s)) { s with faults := f }
  | .pulse =>
    { s with faults := { s.faults with pulseFaulty := setBit s.faults.pulseFaulty c.number true },
             energy := { s.energy with pulses := vmod s.energy.pulses c.number (fun p => { p with low := false }) } }
  | .load => isolateChannel c.number s
  | .trvButterfly => trvFault s
  | .readerCell => readerFault s
  | .displayLane => displayBlockFaulty s
  | .witnessMram => witnessFault s
  | .clock => if c.region = 4 then witnessFault (displayBlockFaulty (readerFault (trvFault s))) else s
  | _ => s

/-- The reaction of a region to a faulty block (Table 1-4). -/
def regionReaction (region : Nat) (outs : List Nat) (s : State) : State :=
  match region with
  | 0 => safetyFault s
  | 1 => metrologyFault outs s
  | 2 => linkFault outs s
  | 5 => assertSource srcAppFault s
  | _ => s

/-- Code of that reaction in a report (Table 1-7). -/
def regionCode (s : State) (region : Nat) (outs : List Nat) : Nat :=
  if region = 0 then 6 else if region ≤ 2 then stopReaction s outs else 3

/-- A block whose isolated cells exceed its tolerance is faulty. A load channel is held off alone (Table 1-3, log 30). -/
def blockFails (c : CellId) (fails : Nat) : Bool := c.type != .load && decide (tolerance c.type < fails)

/-- A block is isolated until a SYSTEM or POWER-ON reset (R18). -/
def isolateBlock (region block : Nat) (s : State) : State :=
  if s.faults.blocks.contains (region, block) then s
  else { s with faults := { s.faults with blocks := s.faults.blocks ++ [(region, block)] } }

/-- A cell is isolated and reported; a faulty block gives a region fault (R16 to R18). -/
def isolateCell (cls : Byte) (i cycle failedState : Nat) (s : State) : State :=
  match cellId i with
  | none => s
  | some c =>
    let k := 64 * c.region + c.block
    let fails := assocGet 0 k s.faults.blockFails + 1
    let bad := blockFails c fails
    let legal := s.clock.legal
    let s1 := updCell i (fun x => { x with state := if spared c.type && !bad && failedState != 3 then 2 else BitVec.ofNat 2 failedState,
                                           isolations := satInc 16 x.isolations, since := legal }) s
    let s1 := { s1 with faults := { s1.faults with blockFails := assocPut k fails s1.faults.blockFails } }
    let s1 := if bad then isolateBlock c.region c.block s1 else s1
    let outs := cellOutlets s c
    let code := if bad then regionCode s c.region outs else 1
    let s2 := cellReport cls i cycle scopeCell (if bad then maskOf 8 outs else 0) code s1
    let s3 := if bad || c.type == .load then cellEffect c s2 else s2
    if bad then regionReaction c.region outs s3 else s3

/-- The cells of the block of cell i. -/
def blockCells (i : Nat) (c : CellId) : List CellId :=
  ((List.range 256).filterMap (fun j => cellId (i - c.cell + j))).filter (fun d => d.region == c.region && d.block == c.block)

/-- A block's own sequencer check fails: the block is faulty, whatever its cells (R17, R18). It is reported as PARITY, whose key is a
block; the cell of the report is a free value (log 30). A load block is a bank (Table 1-4). -/
def sequencerFault (i cycle : Nat) (s : State) : State :=
  match cellId i with
  | none => s
  | some c =>
    let key := 64 * c.region + c.block
    let cs := blockCells i c
    let outs := ((cs.map (cellOutlets s)).flatten).eraseDups
    let s1 := report { cls := 0x03, key := key, cycle := cycle, region := c.region, block := c.block, cell := originCell 0x03 key,
                       scope := scopeBlock, outlets := maskOf 8 outs, reaction := regionCode s c.region outs }
      (isolateBlock c.region c.block s)
    let s2 := if c.type = .load then isolateBank c.block s1 else cs.foldl (fun s d => cellEffect d s) s1
    regionReaction c.region outs s2

/-! Meanings. -/

/-- The region of a cell has been released (R93, R95). -/
def cellUp (s : State) (i : Nat) : Bool :=
  match cellId i with
  | some c => s.regionUp c.region
  | none => false

/-- Single errors corrected and counted; the 17th in a superframe reports CORRECTION_RATE (R15). -/
def execCellErrorCorrected (cell count cycle : Nat) (s : State) : Host.Outcome State Fault Refusal :=
  if !(cellUp s cell && decide (cell < cellCount) && cellInUse s cell) then .next s
  else
    let before := (cellSt s cell).superCount
    let s1 := updCell cell (fun x => { x with corrections := sat 16 (x.corrections + count), superCount := before + count }) s
    .next (if before ≤ 16 ∧ 16 < before + count then cellReport 0x01 cell cycle scopeCell 0 0 s1 else s1)

/-- An uncorrectable result is retried once; a successful retry is counted, a failed one isolates the cell. With `sequencer` the check
that fails is the block's own (R16, R17). -/
def execCellUncorrectable (cell : Nat) (retryOk sequencer : Bool) (cycle : Nat) (s : State) : Host.Outcome State Fault Refusal :=
  if !(cellUp s cell && cellInUse s cell) then .next s
  else if sequencer then .next (sequencerFault cell cycle s)
  else
    match cellId cell with
    | none => .next s
    | some c =>
      if retryOk then
        let k := 64 * c.region + c.block
        .next { s with faults := { s.faults with retried := assocPut k (assocGet 0 k s.faults.retried + 1) s.faults.retried } }
      else .next (isolateCell 0x02 cell cycle 1 s)

/-- The lockstep comparators disagree: global safe state and a SYSTEM reset (R20, Table 1-4). -/
def execLockstepMismatch (cell cycle : Nat) (s : State) : Host.Outcome State Fault Refusal :=
  if !s.regionUp 0 then .next s
  else .next (safetyFault (reportFrom 0x04 0 (54 + cell % 2) cycle scopeRegion s.outletMask 6 s))

/-- Cell index of a region's clock monitor (R14). -/
def clockCell (region : Nat) : Nat := ([56, 269, 670, 687, 776, 1279] : List Nat).getD region 1280

/-- Cells of a region, its clock monitor apart. -/
def clockedCells (region : Nat) : List Nat :=
  let lo := if region = 0 then 0 else clockCell (region - 1) + 1
  (List.range (clockCell region - lo)).map (· + lo)

/-- A clock monitor detects loss or a wrong frequency (Table 1-6). For the reference clock it is a SYSTEM source, and on a loss the
region's other cells report the same signature (R90, worked example of Chapter 1), 10 cycles after the monitor and at the latest at cycle
1,250: the example gives only a range (R25; DESIGN CHOICE, log 44). The loss of the modulator PLL is R161's. -/
def execClockMonitorFault (region : Nat) (lossNotFreq : Bool) (source cycle : Nat) (s : State) :
    Host.Outcome State Fault Refusal :=
  if !(s.regionUp region && decide (region ≤ 5) && decide (1 ≤ source) && decide (source ≤ 3)) then .next s
  else if source = 2 ∧ region = 1 ∧ lossNotFreq then .next (if s.fe.mclkStopped then s else modPllLost cycle s)
  else
    let cls : Byte := if lossNotFreq then 0x05 else 0x06
    let all := s.outletMask
    if source ≠ 1 then .next (reportFrom cls source (clockCell region) cycle scopeRegion all 0 s)
    else
      let s1 := reportFrom cls 1 (clockCell region) cycle scopeRegion all 6 s
      let s1 := if lossNotFreq then
          (clockedCells region).foldl (fun s i => reportFrom cls 1 i (min 1250 (cycle + 10)) scopeCell all 0 s) s1 else s1
      let s1 := if region = 0 then globalSafeNow s1 else s1
      .next (assertSource srcClockMonitor s1)

/-- A faulty supply monitor or reset controller: a POWER region fault, which gives a SYSTEM reset (Table 1-4). -/
def execSupplyFault (rail cycle : Nat) (s : State) : Host.Outcome State Fault Refusal :=
  if !s.regionUp 3 then .next s
  else .next (assertSource srcPowerFault (report
    { cls := 0x07, key := rail % 2 ^ 16, cycle := cycle, region := 3, block := originBlock 0x07 rail, cell := originCell 0x07 rail,
      scope := scopeRegion, outlets := s.outletMask, reaction := 6 } s))

/-! Missed deadlines. -/

/-- Statistics of a job instance (Table 15-9). -/
def jobSt (s : State) (job inst : Nat) : JobStat := assocGet {} (8 * job + inst) s.faults.jobs

/-- A job instance rewritten. -/
def updJob (job inst : Nat) (f : JobStat → JobStat) (s : State) : State :=
  { s with faults := { s.faults with jobs := assocPut (8 * job + inst) (f (jobSt s job inst)) s.faults.jobs } }

/-- Jobs whose late frames queue (R222). -/
def queues (job : Nat) : Bool := job == 2 || job == 6 || job == 7 || job == 9

/-- Instances of a job (Table 15-3). -/
def instances (job : Nat) : Nat :=
  ([0, 1, 4, 8, 1, 4, 4, 4, 2, 8, 8, 1, 1] : List Nat).getD job 0

/-- Region of a job (Table 1-5); fault collection is the chip's. -/
def jobRegion (job : Nat) : Nat :=
  ([0, 0, 1, 2, 3, 3, 1, 1, 0, 1, 2, 1, 6] : List Nat).getD job 6

/-- Consecutive misses at which a job escalates; the save escalates by the clock (Table 15-3). -/
def escalatesAt (job : Nat) : Nat :=
  ([0, 1, 5, 1, 8, 8, 5, 5, 1, 5, 1, 0, 4] : List Nat).getD job 0

/-- The active outlets of a job instance. -/
def jobOutlets (s : State) (job inst : Nat) : List Nat :=
  (match job with
    | 2 => [2 * inst, 2 * inst + 1]
    | 6 => [2 * inst, 2 * inst + 1]
    | 7 => [2 * inst, 2 * inst + 1]
    | 3 => [inst]
    | 9 => [inst]
    | 10 => [inst]
    | 1 => s.outlets
    | 8 => s.outlets
    | 11 => s.outlets
    | _ => []).filter s.present

/-- The job instance runs in this frame (Table 1-5), or has frames queued. -/
def jobRuns (s : State) (job inst : Nat) : Bool :=
  decide (1 ≤ job) && decide (inst < instances job) &&
    (match job with
      | 3 => s.present inst
      | 9 => s.present inst
      | 10 => s.present inst
      | 7 => s.clock.legal % 5 == 4 || (jobSt s 7 inst).backlog != 0
      | 11 => s.energy.taken.isSome
      | _ => true)

/-- A report of class DEADLINE (R464). -/
def deadlineReport (job inst cycle : Nat) (esc : Bool) (outs : List Nat) (reaction : Nat) (s : State) : State :=
  let key := 256 * job + (if esc then 128 else 0) + inst
  report { cls := 0x08, key := key, cycle := cycle, region := jobRegion job, block := originBlock 0x08 key,
           cell := originCell 0x08 key, scope := if !esc then scopeBlock else if job = 12 then scopeChip else scopeRegion,
           outlets := maskOf 8 outs, reaction := reaction } s

/-- The energy job loses its oldest frame of work: one share, of the oldest period that is ready when no share waits (R223). -/
def loseShare (n : Nat) (s : State) : State :=
  let s1 := if (eng s n).queue.isEmpty then periodPower n s else s
  updEng n (fun x => { x with queue := match x.queue with
                                | [] => []
                                | sh :: t => if sh.left ≤ 1 then t else { sh with left := sh.left - 1, due := sh.due + 1 } :: t }) s1

/-- The queue of a job overflows: its oldest frame is discarded and counted, without an estimate, and a boundary before which its shares
lay is committed without them (R223, R467). -/
def overflow (job inst : Nat) (outs : List Nat) (s : State) : State :=
  let s1 := if job = 2 then loseValues inst s else if job = 6 then loseControl inst s
    else if job = 7 then loseBilling inst s else loseShare inst s
  outs.foldl (fun s n => setSessionFlag n 19 (countInvalid n s)) s1

/-- The reaction of an escalation (Table 15-3). The block that it isolates is the one that the report names. -/
def escalate (job inst : Nat) (outs : List Nat) (s : State) : State :=
  let key := 256 * job + 128 + inst
  let s1 := if job = 12 ∨ job = 4 then s
    else if job = 5 then isolateBlock 3 inst s else isolateBlock (jobRegion job) (originBlock 0x08 key) s
  match job with
  | 1 => safetyFault s1
  | 8 => safetyFault s1
  | 12 => safetyFault s1
  | 3 => linkFault outs s1
  | 10 => linkFault outs s1
  | 4 => { s1 with faults := { s1.faults with arbiter := true } }
  | 5 => isolateBank inst s1
  | _ => metrologyFault outs s1

/-- Its code in the report (Table 1-7). -/
def escalationCode (s : State) (job : Nat) (outs : List Nat) : Nat :=
  if job = 1 ∨ job = 8 ∨ job = 12 then 6 else if job = 4 ∨ job = 5 then 3 else stopReaction s outs

/-- An escalation is reported and acted on. -/
def escalation (job inst cycle : Nat) (s : State) : State :=
  let outs := jobOutlets s job inst
  escalate job inst outs (deadlineReport job inst cycle true outs (escalationCode s job outs) s)

/-- A miss is counted; the run goes on from the frame before, or while frames are queued (R24, R222). -/
def countMiss (job inst endCycle : Nat) (s : State) : State :=
  let now := s.now
  let legal := s.clock.legal
  updJob job inst (fun x =>
    let goes := x.run != 0 && (queues job || decide (x.lastTick + 1 = now))
    let run := if goes then x.run + 1 else 1
    { x with misses := satInc 16 x.misses, run := run, maxRun := max x.maxRun (sat 8 run), latest := max x.latest (sat 16 endCycle),
             lastMiss := legal, lastTick := now, backlog := if queues job then min 4 (x.backlog + 1) else 0 }) s

/-- A late frame's work on the outlets of a queueing job (R222). -/
def queueMiss (job n backlog : Nat) (s : State) : State :=
  setSessionFlag n 18 (updEng n (fun x =>
    let b := if job = 9 then min 4 (x.backlog + 1) else x.backlog
    { x with misses := satInc 16 x.misses, backlog := b, maxBacklog := max x.maxBacklog (max b backlog) }) s)

/-- A frame job has not finished by its deadline (R24, Table 15-3): the first miss of a run is reported, an escalation has a report of its
own, and a full queue loses its oldest frame at this and every later miss of the run (R223). At most one miss of an instance is counted in
a frame. -/
def execDeadlineMiss (job inst endCycle cycle : Nat) (s : State) : Host.Outcome State Fault Refusal :=
  if !(s.collecting && jobRuns s job inst) then .next s
  else if (jobSt s job inst).run ≠ 0 ∧ (jobSt s job inst).lastTick = s.now then .next s
  else
    let s1 := countMiss job inst endCycle s
    let run := (jobSt s1 job inst).run
    let outs := jobOutlets s job inst
    let s2 := if run = 1 then deadlineReport job inst cycle false outs 0 s1 else s1
    let s2 := if queues job then outs.foldl (fun s n => queueMiss job n (jobSt s1 job inst).backlog s) s2 else s2
    let full := queues job && decide (5 ≤ run) && (run == 5 || job != 7 || s.clock.legal % 5 == 4)
    let s3 := if full then overflow job inst outs s2 else s2
    .next (if run = escalatesAt job then escalation job inst cycle s3 else s3)

/-- At the end of a frame, a queueing job without a miss works one or two queued frames off; its run ends with the queue empty. Other
runs end by themselves with the first frame that meets the deadline (R24, R222). -/
def jobCatchUp (now legal : Nat) (p : Nat × JobStat) : Nat × JobStat :=
  let x := p.2
  let job := p.1 / 8
  if queues job && x.run != 0 && decide (x.lastTick + 1 < now) then
    let b := if job = 7 ∧ legal % 5 ≠ 4 then x.backlog - 2 else x.backlog - 1
    (p.1, { x with backlog := b, run := if b = 0 then 0 else x.run })
  else p

/-- Queues worked off in the frame that ends, and a save whose slot is written a frame late or not in time (R222, Table 15-3). -/
def jobsFrameEnd (s : State) : State :=
  let s1 := { s with faults := { s.faults with jobs := s.faults.jobs.map (jobCatchUp s.now (s.clock.legal - 1)) } }
  if s1.energy.taken.isSome then
    if (jobSt s1 11 0).run ≠ 0 ∧ (jobSt s1 11 0).lastTick + 1 = s1.now then
      (if s1.clock.legal % 400 = 0 then escalation 11 0 0 s1 else s1)
    else finishSave s1
  else s1

end Sys2Proof.Machine
end

