-- ==== Sys2Proof/Machine/Objects.lean ====
section
/-!
DEFINITION. The writable objects: their field maps, their content as kept, and who may write them (R10, R142, R144, R150). Readings:
log 31.
-/

namespace Sys2Proof.Machine

/-- The writable objects. -/
inductive Cfg where
  /-- HOST_PORT (0x0105) -/
  | hostPort
  /-- EASEMENT_CONFIG (0x0140) -/
  | easement
  /-- MOD_CONFIG (0x0200) -/
  | modulator
  /-- TONE_CONFIG (0x0207) -/
  | tone
  /-- ENERGY_CONFIG (0x0300) -/
  | energy
  /-- PULSE_CONFIG (0x0303) -/
  | pulse
  /-- VERIFY_CONFIG (0x0304) -/
  | verify
  /-- BILLING_CONFIG (0x0400) -/
  | billing
  /-- TARIFF (0x0401) -/
  | tariff
  /-- CAL (0x0408) -/
  | cal
  /-- LINK_CONFIG (0x0500) -/
  | link
  /-- LINK_GLOBAL (0x0502) -/
  | linkGlobal
  /-- SWITCH_CONFIG (0x0600) -/
  | switching
  /-- KDRV_CONFIG (0x0601) -/
  | drivers
  /-- PM_MAP (0x0603) -/
  | modules
  /-- PLUMB_CONFIG (0x0605) -/
  | plumb
  /-- SAFETY_IN_CONFIG (0x0607) -/
  | safetyIn
  /-- PM_BUS_CONFIG (0x060B) -/
  | moduleBus
  /-- LOAD_CONFIG (0x0700) -/
  | load
  /-- BANK_CONFIG (0x0701) -/
  | bank
  /-- TRV_CONFIG (0x0800) -/
  | traverse
  /-- READER_CONFIG (0x0900) -/
  | reader
  /-- WTAG_CONFIG (0x0902) -/
  | tag
  /-- DISPLAY_CONFIG (0x0A00) -/
  | display
deriving DecidableEq, Repr

/-- The number of a writable object (R140). -/
def Cfg.number : Cfg → Nat
  | .hostPort => 0x0105 | .easement => 0x0140 | .modulator => 0x0200 | .tone => 0x0207
  | .energy => 0x0300 | .pulse => 0x0303 | .verify => 0x0304 | .billing => 0x0400 | .tariff => 0x0401 | .cal => 0x0408
  | .link => 0x0500 | .linkGlobal => 0x0502 | .switching => 0x0600 | .drivers => 0x0601 | .modules => 0x0603
  | .plumb => 0x0605 | .safetyIn => 0x0607 | .moduleBus => 0x060B | .load => 0x0700 | .bank => 0x0701
  | .traverse => 0x0800 | .reader => 0x0900 | .tag => 0x0902 | .display => 0x0A00

/-- Every writable object. -/
def Cfg.all : List Cfg :=
  [.hostPort, .easement, .modulator, .tone, .energy, .pulse, .verify, .billing, .tariff, .cal, .link, .linkGlobal] ++
  [.switching, .drivers, .modules, .plumb, .safetyIn, .moduleBus, .load, .bank, .traverse, .reader, .tag, .display]

/-- The writable object that a number names. -/
def Cfg.ofNumber (n : Nat) : Option Cfg := Cfg.all.find? (fun c => c.number == n)

/-- Size in bytes (R142). -/
def Cfg.size : Cfg → Nat
  | .hostPort => 4 | .easement => 4 | .modulator => 4 | .tone => 4 | .energy => 8 | .pulse => 8 | .verify => 8 | .billing => 4
  | .tariff => 48 | .cal => 76 | .link => 8 | .linkGlobal => 8 | .switching => 8 | .drivers => 9 | .modules => 8 | .plumb => 8
  | .safetyIn => 6 | .moduleBus => 2 | .load => 12 | .bank => 2 | .traverse => 9 | .reader => 6 | .tag => 2 | .display => 18

/-- Access codes of a field of a writable object (Table 0-6). -/
inductive Access where
  | rw | ro | hw
deriving DecidableEq, Repr

/-- A field of a field map: its bits, access, level, and the values it takes. -/
structure Field where
  lo : Nat
  len : Nat
  access : Access := .rw
  expert : Bool := false
  least : Nat := 0
  most : Nat := 2 ^ 192

/-- The bits of a field. -/
def Field.bits (f : Field) : Nat := (2 ^ f.len - 1) * 2 ^ f.lo

/-- A plain field, one with a range, and the same for SEAL and expert fields. -/
def rw (lo len : Nat) : Field := { lo := lo, len := len }
def rwIn (lo len a b : Nat) : Field := { lo := lo, len := len, least := a, most := b }
def hw (lo len : Nat) : Field := { lo := lo, len := len, access := .hw }
def hwIn (lo len a b : Nat) : Field := { lo := lo, len := len, access := .hw, least := a, most := b }
def ex (lo len : Nat) : Field := { lo := lo, len := len, expert := true }
def exIn (lo len a b : Nat) : Field := { lo := lo, len := len, expert := true, least := a, most := b }

/-- The fields of entry i of a writable object, reserved bits left out (Tables 1-10, 4-13, 5-7, 5-10, 6-3, 6-6, 6-7, 7-7, 7-8, 7-14,
8-8, 8-9, 9-11, 9-12, 9-14, 9-16, 9-18, 9-21, 10-6, 10-7, 11-7, 12-7, 13-3; R408). -/
def Cfg.fields (c : Cfg) (i : Nat) : List Field :=
  match c with
  | .hostPort => [rw 0 1, rw 1 3, rwIn 8 12 30 3600]
  | .easement => [rwIn 0 16 200 20000, rw 16 4]
  | .modulator => [hw 0 8, hw 8 3, rwIn 16 8 1 255]
  | .tone => [hw 0 1, rwIn 8 16 1 65535]
  | .energy => [hwIn 0 16 0 3000, hwIn 16 32 0 1000000]
  | .pulse => [hwIn 0 4 0 8, hw 4 1, hw 5 1, hw 6 1, hwIn 8 17 1 100000, hwIn 32 17 1 100000]
  | .verify => [hwIn 0 16 20 5000, hwIn 16 16 100 10000, hw 32 1, hwIn 40 16 5 1000, hwIn 56 8 10 250]
  | .billing => [hw 0 1, rw 1 1, rwIn 8 8 1 60, rwIn 16 4 1 15]
  | .tariff => [{ lo := 0, len := 32, access := .ro }, rw 32 24, rw 64 32, rw 96 32, rw 128 32, rw 160 32, rw 192 192]
  | .cal => (List.range 16).map (fun k => hw (32 * k) 32) ++ [hwIn 512 16 50 1500, hw 544 32, hw 576 16]
  | .link => [rw 0 1, rw 1 1, rwIn 2 3 1 7, rw 5 1, rw 6 1, rw 7 1, rw 8 1, rwIn 16 12 20 4000, rw 28 12, exIn 40 8 50 80,
      rwIn 48 4 2 8, rw 52 8]
  | .linkGlobal => [rwIn 0 8 30 200, rwIn 8 8 20 50, rwIn 16 4 1 5, rwIn 20 4 0 3, rw 24 8, rwIn 32 9 5 300, rwIn 48 8 10 120,
      rwIn 56 4 1 15]
  | .switching => [rwIn 0 16 10 500, rwIn 16 8 10 100, rwIn 24 8 50 120, rwIn 32 8 2 50, rwIn 40 8 10 40, rwIn 48 8 60 120,
      rwIn 56 8 0 130]
  | .drivers => [if i < 16 then { lo := 0, len := 2, access := .ro } else rwIn 0 2 0 2, rwIn 8 8 20 200, rwIn 16 7 20 100,
      rwIn 24 8 10 250, rwIn 32 8 10 250, rwIn 40 16 10 1000, rwIn 56 16 0 500]
  | .modules => [rw 0 1, rw 1 1, rw 8 3, rwIn 16 16 1 3000, rwIn 32 16 50 1500, rw 48 1]
  | .plumb => [rw 0 1, rw 1 3, rwIn 4 2 0 2, rwIn 8 12 200 2000, rwIn 20 12 10 1000, rwIn 32 8 20 100, rwIn 40 12 100 2000,
      rwIn 52 12 50 1000]
  | .safetyIn => [rwIn 0 3 0 4, rw 3 1, rwIn 4 3 0 4, rwIn 7 3 0 4, rwIn 16 8 1 20, rwIn 24 8 10 250, rw 32 8, rw 40 1]
  | .moduleBus => [rwIn 0 11 0 0x7A0, rw 11 1, rw 12 1]
  | .load => [rwIn 0 3 0 5, ex 3 1, ex 4 4, exIn 8 8 1 100, exIn 16 8 1 100, exIn 32 16 0 10000, rwIn 48 16 0 4000,
      rwIn 64 16 0 2000, rw 80 2]
  | .bank => [rwIn 0 12 50 2000, rw 12 2]
  | .traverse => [rwIn 0 8 0 0xFD, rw 8 16, rw 24 1, rw 25 1, rwIn 32 11 0 2000, rwIn 48 6 5 50, exIn 56 5 0 30, ex 64 3,
      rwIn 68 4 1 15]
  | .reader => [rw 0 1, rwIn 1 3 1 7, rw 4 1, rw 5 2, rwIn 8 16 100 10000, exIn 24 8 10 100, exIn 32 8 5 200]
  | .tag => [rw 0 1, rwIn 8 8 1 60]
  | .display => [rwIn 0 11 400 1600, rwIn 11 11 200 1200, rw 22 1, rw 23 1, rwIn 24 7 20 120, rw 31 1, exIn 32 8 30 250,
      rw 40 11, rw 51 11, rwIn 62 2 0 2, rw 64 11, rw 75 11, rwIn 86 9 0 400, rwIn 95 8 0 200, rwIn 103 8 10 255,
      rwIn 111 8 1 200, rwIn 119 16 10 200]

/-- The bits of every field, and of the SEAL fields: RW fields count as 0 in MET_HASH (R263). -/
def fieldBits (l : List Field) : Nat := (l.map (·.bits)).foldl (· + ·) 0
def Cfg.sealBits (c : Cfg) : Nat := fieldBits ((c.fields 0).filter (fun f => f.access == .hw))

/-- The safety configuration (R336). -/
def Cfg.safety : Cfg → Bool
  | .switching | .drivers | .modules | .plumb | .safetyIn | .moduleBus => true
  | _ => false

/-- INDEX is in range: an outlet that is present, an entry of the array, or 0 (R4, R143). -/
def Cfg.has (c : Cfg) (i : Nat) (s : State) : Bool :=
  match c with
  | .modulator | .tone | .energy | .verify | .cal | .link | .switching | .plumb => s.present i
  | .pulse | .bank => decide (i < 4)
  | .tariff | .safetyIn => decide (i < 8)
  | .modules | .load => decide (i < 16)
  | .drivers => decide (i < 24)
  | _ => decide (i = 0)

/-- HOST_PORT: a change of QUAD or BAUD reads back before it takes effect (R152). -/
def hostPortValue (s : State) : Nat :=
  let l := match s.port.pendingLine.getLast? with
    | some x => x.2
    | none => (s.port.quad, s.port.baud)
  packBits [(b1 l.1, 1), (l.2, 3), (0, 4), (s.port.roleIdle.toNat, 12)]

/-- The content of entry i in force. -/
def Cfg.value (c : Cfg) (i : Nat) (s : State) : Nat :=
  match c with
  | .hostPort => hostPortValue s
  | .easement => packBits [(s.ease.vauxBudget.toNat, 16), (s.ease.bankOnVaux.toNat, 4)]
  | .modulator => (vget s.fe.modConfig i 0).toNat
  | .tone => (vget s.fe.toneConfig i 0).toNat
  | .energy => (vget s.energy.config i 0).toNat
  | .pulse => (vget s.energy.pulseConfig i 0).toNat
  | .verify => (vget s.energy.verify i 0).toNat
  | .billing => s.billing.config.toNat
  | .tariff => (vget s.billing.tariffs i 0).toNat
  | .cal => (vget s.seals.cal i 0).toNat
  | .link => (vget s.link.config i 0).toNat
  | .linkGlobal => s.link.global.toNat
  | .switching => (vget s.sw.config i 0).toNat
  | .drivers => (vget s.sw.kdrv i 0).toNat
  | .modules => (vget s.sw.pmMap i 0).toNat
  | .plumb => (vget s.sw.plumb i 0).toNat
  | .safetyIn => (vget s.sw.inputConfig i 0).toNat
  | .moduleBus => s.sw.busConfig.toNat
  | .load => (vget s.loads.config i 0).toNat
  | .bank => (vget s.loads.banksCfg i 0).toNat
  | .traverse => s.trv.config.toNat
  | .reader => s.rdr.config.toNat
  | .tag => s.tag.config.toNat
  | .display => s.disp.config.toNat

/-- The content of entry i replaced; QUAD and BAUD go another way (R152). -/
def Cfg.put (c : Cfg) (i v : Nat) (s : State) : State :=
  match c with
  | .hostPort => { s with port := { s.port with roleIdle := BitVec.ofNat 12 (v / 256) } }
  | .easement => { s with ease := { s.ease with vauxBudget := BitVec.ofNat 16 v, bankOnVaux := BitVec.ofNat 4 (v / 2 ^ 16) } }
  | .modulator => { s with fe := { s.fe with modConfig := vset s.fe.modConfig i (BitVec.ofNat 32 v) } }
  | .tone => { s with fe := { s.fe with toneConfig := vset s.fe.toneConfig i (BitVec.ofNat 32 v) } }
  | .energy => { s with energy := { s.energy with config := vset s.energy.config i (BitVec.ofNat 64 v) } }
  | .pulse => { s with energy := { s.energy with pulseConfig := vset s.energy.pulseConfig i (BitVec.ofNat 64 v) } }
  | .verify => { s with energy := { s.energy with verify := vset s.energy.verify i (BitVec.ofNat 64 v) } }
  | .billing => { s with billing := { s.billing with config := BitVec.ofNat 32 v } }
  | .tariff => { s with billing := { s.billing with tariffs := vset s.billing.tariffs i (BitVec.ofNat 384 v) } }
  | .cal => { s with seals := { s.seals with cal := vset s.seals.cal i (BitVec.ofNat 608 v) } }
  | .link => { s with link := { s.link with config := vset s.link.config i (BitVec.ofNat 64 v) } }
  | .linkGlobal => { s with link := { s.link with global := BitVec.ofNat 64 v } }
  | .switching => { s with sw := { s.sw with config := vset s.sw.config i (BitVec.ofNat 64 v) } }
  | .drivers => { s with sw := { s.sw with kdrv := vset s.sw.kdrv i (BitVec.ofNat 72 v) } }
  | .modules => { s with sw := { s.sw with pmMap := vset s.sw.pmMap i (BitVec.ofNat 64 v) } }
  | .plumb => { s with sw := { s.sw with plumb := vset s.sw.plumb i (BitVec.ofNat 64 v) } }
  | .safetyIn => { s with sw := { s.sw with inputConfig := vset s.sw.inputConfig i (BitVec.ofNat 48 v) } }
  | .moduleBus => { s with sw := { s.sw with busConfig := BitVec.ofNat 16 v } }
  | .load => { s with loads := { s.loads with config := vset s.loads.config i (BitVec.ofNat 96 v) } }
  | .bank => { s with loads := { s.loads with banksCfg := vset s.loads.banksCfg i (BitVec.ofNat 16 v) } }
  | .traverse => { s with trv := { s.trv with config := BitVec.ofNat 72 v } }
  | .reader => { s with rdr := { s.rdr with config := BitVec.ofNat 48 v } }
  | .tag => { s with tag := { s.tag with config := BitVec.ofNat 16 v } }
  | .display => { s with disp := { s.disp with config := BitVec.ofNat 144 v } }

/-- The content of a write put in place. -/
def Due.put (d : Due) (s : State) : State :=
  match Cfg.ofNumber d.object with
  | some c => c.put d.index d.value s
  | none => s

/-- The objects as they are kept: with every accepted write in place (R144). -/
def settled (s : State) : State := s.port.due.foldl (fun s d => d.put s) s

/-- What a reset finds: the kept objects, whether or not the frame tick came that puts a write into force (R144). -/
def keepDue (s : State) : State := s.port.due.foldl (fun s d => d.put s) { s with port := { s.port with due := [] } }

/-- The content as bytes (R142). -/
def Cfg.bytes (c : Cfg) (i : Nat) (s : State) : List Byte := le c.size (c.value i s)

/-- The lowest role that reads it. -/
def Cfg.lowest : Cfg → Nat
  | .hostPort | .tariff => 0
  | _ => 1

/-- The role writes it: CAL is VERIFIER's and VENDOR's, three objects are OPERATOR's and above, the others INSTALLER's and above. -/
def Cfg.writer (c : Cfg) (role : Nat) : Bool :=
  match c with
  | .cal => role == 3 || role == 4
  | .hostPort | .tariff | .bank => decide (1 ≤ role)
  | _ => decide (2 ≤ role)

/-- The parts of MET_HASH (R263). -/
def metParts (s : State) : List Byte :=
  let outs (c : Cfg) : List Byte := (s.outlets.map (fun n => le c.size (Nat.land (c.value n s) c.sealBits))).flatten
  outs .cal ++ outs .energy ++ ((List.range 4).map (fun k => le 8 (Nat.land (Cfg.pulse.value k s) Cfg.pulse.sealBits))).flatten ++
    outs .verify ++ outs .modulator ++ outs .tone ++ le 4 (Nat.land (Cfg.billing.value 0 s) Cfg.billing.sealBits)

/-- SEAL_STATE.MET_HASH is computed again over the kept objects (R263). -/
def metHashed (s : State) : State :=
  { s with seals := { s.seals with metHash := BitVec.ofNat 256 (ofBytes (sha256 (metParts (settled s)))) } }

end Sys2Proof.Machine
end

