-- ==== Sys2Proof/Machine/Roles.lean ====
section
/-!
DEFINITION. Access roles: challenge and proof, failures and lockouts, idle end, role keys (R145 to R149).
-/

namespace Sys2Proof.Machine

/-- The role unit rewritten. -/
def updRoles (f : RoleSt → RoleSt) (s : State) : State := { s with roles := f s.roles }

/-- The key of a role code 1 to 4. -/
def roleKey (s : State) (role : Nat) : BitVec 256 := vget s.roles.keys (role - 1) 0

/-- A lockout of the role is in force (R147). -/
def roleLocked (s : State) (role : Nat) : Bool :=
  match vget s.roles.lockedUntil (role - 1) none with
  | some t => decide (s.now < t)
  | none => false

/-- A ROLE byte of 1 to 4 (R146). -/
def roleCode (r : Nat) : Bool := decide (1 ≤ r) && decide (r ≤ 4)

/-- HOST_PROOF and DEV_PROOF under a key: HMAC-SHA-256 over the letters, ROLE, the two nonces and SERIAL (R146). -/
def hostProof (key : BitVec 256) (role : Nat) (dev host : BitVec 128) (serial : BitVec 64) : List Byte :=
  hmac (objBytes key) ([0x48, 0x58, 0x38, 0x48] ++ le 1 role ++ objBytes dev ++ objBytes host ++ objBytes serial)
def devProof (key : BitVec 256) (role : Nat) (dev host : BitVec 128) (serial : BitVec 64) : List Byte :=
  hmac (objBytes key) ([0x48, 0x58, 0x38, 0x44] ++ le 1 role ++ objBytes host ++ objBytes dev ++ objBytes serial)

/-- ROLE_ENDED (R148). -/
def roleEnded (reason : Nat) (s : State) : State := event 0x0116 (le 1 reason) s

/-- ROLE_CHALLENGE (R146). -/
def roleChallengeCmd (p : List Byte) (s : State) : Cmd :=
  let r := byteAt p 0
  let n := Config.devNonce s.factory.freeCtr
  let c : Challenge := { role := r, devNonce := n, hostNonce := BitVec.ofNat 128 (numAt p 1 16), since := s.now }
  { form := p.length == 17, params := roleCode r,
    run :=
      if !keySet s r || roleLocked s r then { st := s, status := .denied }
      else { st := updRoles (fun x => { x with challenge := some c }) s.drawFree, data := objBytes n } }

/-- ROLE_CHALLENGE (Table 4-10). -/
def execRoleChallenge (h : Hdr) (p : List Byte) (s : State) : Host.Outcome State Fault Refusal :=
  .next (hostCommand h 0x0110 p (roleChallengeCmd p) s)

/-- The lockout after a failure count: 60 s at the fifth, doubled by each further one, at most 3,600 s (R147). -/
def lockoutSeconds (fails : Nat) : Nat := min 3600 (60 * 2 ^ (fails - 5))

/-- A wrong HOST_PROOF: counted, reported, locked out from the fifth on (R147). -/
def roleFailed (r : Nat) (s : State) : State :=
  let n := satInc 8 (vget s.roles.fails (r - 1) 0)
  let lock := if 5 ≤ n then some (s.now + secF (lockoutSeconds n)) else none
  event 0x0115 (le 1 r ++ le 1 n)
    (updRoles (fun x => { x with fails := vset x.fails (r - 1) n, lastFail := r, challenge := none,
                                 lockedUntil := vset x.lockedUntil (r - 1) lock }) s)

/-- A right HOST_PROOF opens the session; an earlier one ends as replaced (R146, R148). -/
def roleOpened (r : Nat) (s : State) : State :=
  let s1 := updRoles (fun x => { x with fails := vset x.fails (r - 1) 0, lockedUntil := vset x.lockedUntil (r - 1) none,
                                        challenge := none, role := r }) s
  if s.roles.role = 0 then s1 else roleEnded 2 s1

/-- ROLE_OPEN (R146). -/
def roleOpenCmd (p : List Byte) (s : State) : Cmd :=
  let r := byteAt p 0
  { form := p.length == 33, params := roleCode r,
    run :=
      match s.roles.challenge with
      | none => { st := s, status := .timeout }
      | some c =>
        if c.role ≠ r ∨ c.since + secF 10 < s.now then { st := s, status := .timeout }
        else if p.drop 1 = hostProof (roleKey s r) r c.devNonce c.hostNonce s.factory.serial then
          { st := roleOpened r s, data := devProof (roleKey s r) r c.devNonce c.hostNonce s.factory.serial }
        else { st := roleFailed r s, status := .denied } }

/-- ROLE_OPEN (Table 4-10). -/
def execRoleOpen (h : Hdr) (p : List Byte) (s : State) : Host.Outcome State Fault Refusal :=
  .next (hostCommand h 0x0111 p (roleOpenCmd p) s)

/-- ROLE_CLOSE (R148). -/
def roleCloseCmd (p : List Byte) (s : State) : Cmd :=
  { form := p.length == 0,
    run := { st := if s.roles.role = 0 then s else roleEnded 0 (updRoles (fun x => { x with role := 0 }) s) } }

/-- ROLE_CLOSE (Table 4-10). -/
def execRoleClose (h : Hdr) (p : List Byte) (s : State) : Host.Outcome State Fault Refusal :=
  .next (hostCommand h 0x0112 p (roleCloseCmd p) s)

/-- No command for ROLE_IDLE seconds ends the session (R148). -/
def execRoleIdleTimeout (s : State) : Host.Outcome State Fault Refusal :=
  if s.running ∧ s.roles.role ≠ 0 ∧ s.roles.lastCmd + secF s.port.roleIdle.toNat ≤ s.now then
    .next (roleEnded 1 (updRoles (fun x => { x with role := 0 }) s))
  else .next s

/-- A lockout runs out (R147). -/
def execRoleLockoutEnd (role : Nat) (s : State) : Host.Outcome State Fault Refusal :=
  match vget s.roles.lockedUntil (role - 1) none with
  | some t =>
    if roleCode role ∧ t ≤ s.now then .next (updRoles (fun x => { x with lockedUntil := vset x.lockedUntil (role - 1) none }) s)
    else .next s
  | none => .next s

/-- The writers of a role's key (R149). -/
def mayWriteKey (role writer : Nat) : Bool :=
  if role = 1 ∨ role = 2 then writer == 2 || writer == 4 else if role = 3 then writer == 3 else if role = 4 then writer == 4 else true

/-- ROLE_KEY_SET (R149). -/
def roleKeySetCmd (p : List Byte) (s : State) : Cmd :=
  let r := byteAt p 0
  let k := BitVec.ofNat 256 (numAt p 1 32)
  { form := p.length == 33, role := mayWriteKey r s.roles.role, mode := s.modes.mode == .commissioning,
    unsealed := r != 3 || !s.seals.loopIntact, params := roleCode r && k != 0,
    run := { st := updRoles (fun x => { x with keys := vset x.keys (r - 1) k }) s } }

/-- ROLE_KEY_SET (Table 4-10). -/
def execRoleKeySet (h : Hdr) (p : List Byte) (s : State) : Host.Outcome State Fault Refusal :=
  .next (hostCommand h 0x0113 p (roleKeySetCmd p) s)

end Sys2Proof.Machine
end

