-- ==== Sys2Proof/Machine/Boot.lean ====
section
/-!
DEFINITION. What each reset reach clears, the boot steps, the restoring of registers, and READY (R87, R95 to R101, R108, R210 to R212,
R252, R472, R473).
-/

namespace Sys2Proof.Machine

/-! What a reset clears. -/

/-- The host port after a reset: events and settings are kept, commands and replies are not (Table 3-4, R131, R137, R152). -/
def Port.cleared (p : Port) : Port :=
  { p with quad := false, baud := 0, pendingLine := [], replies := [], awaiting := [], kept := [], rx := none, out := [],
           statusOut := [], lanes := [] }

/-- Statistics of the port end with a SYSTEM reset (R153, Table 15-8). -/
def Port.clearedStats (p : Port) : Port :=
  { p.cleared with downgraded := 0, crcErrors := 0, lenErrors := 0, gapDiscards := 0, overruns := 0, duplicates := 0, ackUnmatched := 0,
                   resent := 0, lost := 0 }

/-- Commands answered QUEUED and not completed are abandoned, and no completion event follows (R101). A decimator reset armed with WHEN 2,
answered OK, stays armed; a capture and its buffer are discarded (R191, R193). -/
def abandonQueued (s : State) : State :=
  let idle (j : BusJob) : Bool := j.phase == 0 || (j.join && j.phase == 1 && !(drv s j.driver).cmd)
  let js := s.sw.jobs.filter (fun j => !idle j)
  let s1 := (s.sw.jobs.filter (fun j => idle j && j.join && j.phase == 1)).foldl (fun s j => driverOff j.driver s) s
  { s1 with
    clock := { s1.clock with pendingStep := none, stepAck := false }
    rst := { s1.rst with forced := false, delayed := none, delayedRead := none }
    modes := { s1.modes with benchQueued := none }
    billing := { s1.billing with resetDue := none }
    fe := { s1.fe with scheduled := none, syncAck := false, fades := s1.fe.fades.map (fun f => { f with report := false }),
                       capture := none, buffer := [] }
    sw := { s1.sw with jobs := js.map (fun j => { j with report := false }), testAt := none, testAck := false,
                       inputs := s1.sw.inputs.map (fun x => { x with proven := false, seen := false }) }
    link := { s1.link with outs := s1.link.outs.map (fun o => { o with stopAck := false, stopAt := none }),
                           requests := s1.link.requests.map (fun r => { r with sent := false }) }
    trv := { s1.trv with sends := [] }
    rdr := { s1.rdr with apduReport := false, apduAck := false } }

/-- Charges and requests made for host commands and not yet begun are cleared (Table 3-4). -/
def clearHostLeave (s : State) : State :=
  { s with ease := { s.ease with requests := s.ease.requests.filter (fun r => !r.host),
                                 charges := s.ease.charges.filter (fun c => c.begun || !c.rq.host) } }

/-- An activation before its commit is abandoned by any reset (R447). -/
def dropActivation (s : State) : State :=
  if s.modes.activating then
    let s1 := abandonActivation s
    { s1 with store := { s1.store with abandonEv := true } }
  else s

/-- A reset of reach CORE: application cores, command interpreter and host port (R99, R101, Table 3-4). -/
def clearCore (s : State) : State :=
  let s1 := clearHostLeave (abandonQueued (displayCoreReset (loadsCoreReset (dropActivation s))))
  { s1 with port := s1.port.cleared, roles := { s1.roles with role := 0, challenge := none } }

/-- A cell after a reset of reach SYSTEM: what is counted since the reset ends. It stays as isolated as it was until its region is
released (R16, Table 15-7). -/
def CellState.cleared (x : CellState) : CellState := { isolations := x.isolations, since := x.since, state := x.state }

/-- A vehicle link after a reset of reach SYSTEM: the pilot of an absent outlet is held at high impedance, and every one while VP12 or
VN12 is down (R4, R271). -/
def linkCleared (s : State) (n : Nat) : LinkOut := if s.present n && s.pilotRails then {} else { drive := 3 }

/-- Volatile state of the regions (Table 3-4). Outputs are off; the 5 ms timers of the drivers run on (R20). -/
def clearRegions (s : State) : State :=
  let f := s.faults
  { s with
    clock := { s.clock with pendingStep := none, stepAck := false, pendingSet := none }
    modes := { s.modes with benchPending := false, benchQueued := none, commInput := 0 }
    rst := { s.rst with forced := false, delayed := none, delayedRead := none }
    faults := { cells := f.cells.map (fun p => (p.1, p.2.cleared)), closures := f.closures, lastId := f.lastId }
    ease := { vauxBudget := s.ease.vauxBudget, bankOnVaux := s.ease.bankOnVaux, nextId := s.ease.nextId, refusals := s.ease.refusals }
    fe := { modConfig := s.fe.modConfig, toneConfig := s.fe.toneConfig, paths := s.fe.paths, coefs := s.fe.coefs }
    energy := { config := s.energy.config, pulseConfig := s.energy.pulseConfig, verify := s.energy.verify, ring := s.energy.ring,
                slotSeq := s.energy.slotSeq, lastSlot := s.energy.lastSlot, lastKind := s.energy.lastKind,
                lastTime := s.energy.lastTime, tailLost := s.energy.tailLost, restored := s.energy.restored,
                outs := s.energy.outs.map (fun x =>
                  { acc := x.acc, standing := x.standing, unmetered := x.unmetered, invalidEver := x.invalidEver, warn := x.warn,
                    warnAt := x.warnAt }) }
    billing := { s.billing with evals := [], commits := [], resetDue := none, announced := false, mismatch := false,
                                tariffAdj := (s.billing.commits.head?.map (·.tariffAdj0)).getD s.billing.tariffAdj }
    log := { s.log with pendingEv := none }
    link := { config := s.link.config, global := s.link.global, seccKeys := s.link.seccKeys, certs := s.link.certs,
              requestCtr := s.link.requestCtr, outs := Vector.ofFn (fun n : Fin 8 => linkCleared s n.val) }
    sw := { config := s.sw.config, kdrv := s.sw.kdrv, pmMap := s.sw.pmMap, plumb := s.sw.plumb, inputConfig := s.sw.inputConfig,
            busConfig := s.sw.busConfig, proofHash := s.sw.proofHash, proofAt := s.sw.proofAt,
            testCut := s.sw.testCut || s.sw.testAt.isSome,
            drivers := s.sw.drivers.map (fun d =>
              { ops := d.ops, mainOpen := d.mainOpen, cmd := d.cmd && d.hwOff.isSome, hwOff := d.hwOff,
                state := if d.state = 4 then 4 else 0 }),
            seqs := s.sw.seqs.map (fun q => if q.state = 9 then { state := 9 } else {}) }
    loads := { config := s.loads.config, banksCfg := s.loads.banksCfg, chans := s.loads.chans.map (fun c => { ons := c.ons }),
               banks := Vector.ofFn (fun k : Fin 4 => { applied := vget s.loads.banksCfg k.val 0 }) }
    trv := { config := s.trv.config, keys := s.trv.keys, active := s.trv.active, counter := s.trv.counter, stored := s.trv.stored,
             ownSlew := s.trv.ownSlew }
    rdr := { offAt := s.rdr.offAt, config := s.rdr.config, active := s.rdr.config, commissionMv := s.rdr.commissionMv }
    tag := { s.tag with importReq := none, importing := none, waitMax := 0 } }

/-- A reset of reach SYSTEM (Table 3-4): everything but what is kept. -/
def clearSystem (s : State) : State :=
  let s1 := clearRegions (displaySystemReset (storageReset (keepDue s)))
  { s1 with port := s1.port.clearedStats, roles := { s1.roles with role := 0, challenge := none },
            chain := { s1.chain with report := false } }

/-- A reset of reach POWER-ON clears the count of REFUSE answers, the mask of RESET_N and the debug logic besides (Table 3-4). -/
def clearPowerOn (s : State) : State :=
  let s1 := clearSystem s
  { s1 with ease := { s1.ease with refusals := 0 }, rst := { s1.rst with masked := false, debugRun := false },
            trv := { s1.trv with ownSlew := 0 },
            chain := { s1.chain with entries := s1.chain.entries.map (fun e => { e with shown := false }) },
            faults := { s1.faults with cells := s1.faults.cells.map (fun p => (p.1, if p.2.state = 0 then { p.2 with since := 0 } else p.2)) },
            power := { s1.power with pfw := false, shutStep := 0, returned := false, surge := false, holdLow := false, retentionLost := false, vauxMv := 0,
                                     holdMv := 0, vbatMv := 0, vbatLow := false, dieTemp := 0, dieHot := false } }

/-- The reset takes effect: closures are cut short, volatile state is cleared, and event sources are released (R26, R31, R89, R94,
R466). -/
def takeEffect (s : State) : State :=
  let reach := s.rst.takes.toNat
  let s1 := if reach = 0 then clearCore s else if reach = 1 then clearSystem (closeAll s) else clearPowerOn (closeAll s)
  let s2 := releaseAll (fun x => x != srcResetN && decide (3 ≤ x)) s1
  updRst (fun r => { r with phase := .held (if reach = 0 then 5 else if reach = 1 then 1 else 0), takes := 0 }) s2

/-- RESET_TAKES_EFFECT: the reset controller's hold ends (R89). -/
def execResetTakesEffect (s : State) : Host.Outcome State Fault Refusal :=
  if s.power.supply = .on ∧ s.rst.phase = .asserted then .next (takeEffect s) else .next s

/-! Boot step 1. -/

/-- The majority of three readings of the straps (R58). -/
def majority (b : BootIn) : BitVec 8 :=
  (b.strapA &&& b.strapB) ||| (b.strapA &&& b.strapC) ||| (b.strapB &&& b.strapC)

/-- The majority of three readings of DBGEN_N: low (R58, R63). -/
def dbgenLow (b : BootIn) : Bool := (b.dbgenA && b.dbgenB) || (b.dbgenA && b.dbgenC) || (b.dbgenB && b.dbgenC)

/-- The three readings of a strap, or of DBGEN_N, disagree (Table 2-13). -/
def readingsSplit (b : BootIn) : Bool :=
  (b.strapA &&& 0x3F) != (b.strapB &&& 0x3F) || (b.strapB &&& 0x3F) != (b.strapC &&& 0x3F) || b.dbgenA != b.dbgenB ||
    b.dbgenB != b.dbgenC

/-- STRAPS as sampled, with BOOT_REFUSED and SPLIT (R61, Table 2-13). -/
def sampledStraps (locked : Bool) (b : BootIn) : BitVec 8 :=
  let v := majority b &&& 0x3F
  setBit (setBit v 6 (locked && fld v 0 2 == 0)) 7 (readingsSplit b)

/-- Factory test is strapped and the debug lock is open (R60, R61). -/
def factoryTest (s : State) : Bool := !s.rst.debugLocked && fld s.rst.straps 0 2 == 0

/-- The pilots of present outlets drive state F once VP12 and VN12 are up; those of absent ones stay at high impedance (R4, R53). -/
def pilotsUp (s : State) : State :=
  { s with link := { s.link with outs := s.link.outs.mapIdx (fun n y =>
      if s.present n then { y with drive := 2, pilot := 5 } else { y with drive := 3 }) } }

/-- Step 1 of a POWER-ON reset: straps and DBGEN_N sampled, rails up and in their windows, their sources released, RESET_N looked at (R58,
R63, R92, R94). DBGEN_N low in two successive readings, 10 us apart, is an access attempt on a locked device (R63). -/
def bootStep1 (b : BootIn) (s : State) : State :=
  let st := sampledStraps s.rst.debugLocked b
  let s1 := updRst (fun r => { r with straps := st, debugRun := dbgenLow b && !r.debugLocked, bootRefusedEv := bit st 6 }) s
  let s1 := if (b.dbgenA && b.dbgenB) || (b.dbgenB && b.dbgenC) then debugAttempt s1 else s1
  let s2 := releaseAll (fun x => x != srcResetN) (pilotsUp { s1 with power := { s1.power with rails := true, railOut := 0 } })
  let s3 := updRst (fun r => { r with phase := .held 1 }) s2
  if s3.rst.pinLow ∧ !s3.rst.masked then
    let s4 := updRst (fun r => { r with pinLowAt := s.now }) s3
    if s4.rst.asserted.contains srcResetN then s4
    else updRst (fun r => { r with asserted := r.asserted ++ [srcResetN] }) (noteSource srcResetN s4)
  else s3

/-! Boot step 3. -/

/-- The valid slot with the highest SLOT_SEQ, and its place (R208, R211). -/
def newestSlot (ring : Vector (Option Slot) 64) : Option (Nat × Slot) :=
  (List.range 64).foldl (fun best i =>
    match vget ring i none with
    | some c =>
      if c.torn then best
      else
        match best with
        | some (j, d) => if d.seq < c.seq then some (i, c) else some (j, d)
        | none => some (i, c)
    | none => best) none

/-- A torn slot newer than a sequence number (R211). -/
def tornAfter (ring : Vector (Option Slot) 64) (seq : Nat) : Bool :=
  ring.toList.any (fun o => match o with | some c => c.torn && decide (seq < c.seq) | none => false)

/-- Accumulators and counters of outlet n from a slot (R211). -/
def restoreOut (c : Slot) (n : Nat) (x : EnergyOut) : EnergyOut :=
  { x with acc := vget c.accs n {}, standing := vget c.standing n 0, unmetered := vget c.unmetered n 0,
           invalidEver := vget c.invalid n 0,
           warn := BitVec.ofNat 32 (fld x.warn 0 16 + 2 ^ 16 * (vget c.billing.sesFlags n 0).toNat) }

/-- Energy registers from a slot, with what SAVE_STATE shows of it (R211, R217, Table 6-11). -/
def restoreEnergy (i : Nat) (c : Slot) (s : State) : State :=
  let e := s.energy
  { s with energy := { e with
      outs := Vector.ofFn (fun n : Fin 8 => restoreOut c n.val (vget e.outs n.val {})),
      pulses := c.pulses.map (fun p => { acc := p.1, pending := p.2 }),
      restored := i, restoredEv := true, tailLost := c.kind == 1 && c.pfw, tornSeen := tornAfter e.ring c.seq,
      lastShare := c.accTo, lastInstant := c.instantTo } }

/-- A session found open, with its per-tariff values from the boundary record when that is newer (R252). -/
def restoreSession (newer : Bool) (b : Option Session) (x : Option Session) : Option Session :=
  match x, b with
  | some a, some l => if newer ∧ l.id = a.id then some { a with perTariff := l.perTariff, winImp := l.winImp, winExp := l.winExp } else some a
  | o, _ => o

/-- Tariff registers, demand and sessions from whichever is newer: the slot, or the last committed boundary (R252). -/
def restoreBilling (c : Slot) (s : State) : State :=
  let b := s.billing
  let l := b.last
  let v := c.billing
  let newer := decide (c.instantTo < l.instant)
  let fresh := newer && l.subStart != v.subStart
  let regs := if newer then l.regs
    else (List.range 18).foldl (fun r i => if v.active < 8 then vset r (16 * (i / 2) + 2 * v.active + i % 2) (vget v.regs i 0) else r) l.regs
  let dm := Vector.ofFn (fun u : Fin 9 =>
    let d := vget l.demand u.val {}
    { d with lastImp := 0, lastExp := 0, lastEnd := 0, lastPartial := false, lastAdjusted := false,
             subImp := if fresh then 0 else vget v.subs (2 * u.val) 0, subExp := if fresh then 0 else vget v.subs (2 * u.val + 1) 0 })
  { s with
    clock := { s.clock with slew := v.slew }
    billing := { b with
      regs := regs, demand := dm, active := if newer then l.after else v.active, since := if newer then l.since else v.since,
      subStart := if newer then l.subStart else v.subStart, adjusted := if newer then l.adjusted else v.adjusted,
      bench := if b.benchLost then subCount s else b.bench,
      sessions := Vector.ofFn (fun n : Fin 8 => restoreSession newer (vget l.sessions n.val none) (vget v.sessions n.val none)) } }

/-- The instant up to which the restored registers hold (R252). -/
def restoredPoint (s : State) : Nat := max s.energy.lastInstant s.billing.last.instant

/-- The closing record of a session is signed already (R105). -/
def closedAlready (s : State) (id : BitVec 64) : Bool :=
  (s.log.journal ++ s.log.overflow ++ s.log.stored).any (fun r => (r.type == 2 || r.type == 3) && r.session == id)

/-- Every session found open is closed with an INTERRUPTED record, in outlet order (R111, R211, R212). One on an outlet that the strap has
made absent makes the mode RECOVERY too, but no record may name that outlet (R4, R108; DESIGN CHOICE, log 42). -/
def signInterrupted (s0 : State) : State :=
  let s := { s0 with modes := { s0.modes with
    foundOpen := s0.modes.foundOpen || (List.range 8).any (fun n => match s0.session n with
      | some x => !closedAlready s0 x.id
      | none => false) } }
  s.outlets.foldl (fun s n =>
    match s.session n with
    | some x =>
      let s1 := if s.power.finalOk && !s.energy.tailLost then s else setSessionFlag n 22 s
      let s1 := if s.energy.tailLost then setSessionFlag n 21 s1 else s1
      let s2 := if closedAlready s x.id then s1 else
        { signClosing 0x03 n s.energy.lastInstant x s1 with
          modes := { s.modes with interruptedLeft := s.modes.interruptedLeft + 1 } }
      { s2 with billing := { s2.billing with sessions := vset s2.billing.sessions n none } }
    | none => s) s

/-- Ends of the sub-intervals that are to close at boot: that of the one open at the cut, and those whose window still holds some of the
time before it (R244, R252). Windows wholly in the time without VAUX are not created. -/
def rebuildEnds (s : State) : List Nat :=
  let len := subFrames s
  let e := (s.billing.subStart / len + 1) * len
  ((List.range (subCount s)).map (fun k => e + k * len)).filter (fun x => decide (x ≤ s.clock.legal))

/-- A window closes at boot, with the energy it holds (R252). -/
def rebuildWindow (s : State) (e : Nat) : State :=
  let tick := s.now - (s.clock.legal - e)
  takeBoundary { boundaryAt e tick s with window := true, rebuilt := true } (closeWindow e tick false s)

/-- Calendar entries that have passed, the latest first to hold (R252). -/
def passedEntry (s : State) : Option CalEntry :=
  latestEntry (calFind s (fun x => x.state == 1 && decide (x.start * 20000 ≤ s.clock.legal)))

/-- Calendar entries that have passed switch the tariff once, with the time of the latest (R252). -/
def rebuildTariff (s : State) : State :=
  match passedEntry s with
  | some e =>
    let due (x : CalEntry) : Bool := x.state == 1 && decide (x.start * 20000 ≤ s.clock.legal)
    let cal := s.billing.calendar.map (fun x => if due x then { x with state := 2, soon := false } else x)
    let t := e.start * 20000
    let c := boundaryAt t (s.now - (s.clock.legal - t)) s
    takeBoundary { c with after := e.tariff, rebuilt := true, switches := [{ before := c.before, after := e.tariff, instant := t }] }
      { s with billing := { s.billing with calendar := cal, active := e.tariff, since := t, tariffAdj := false } }
  | none => s

/-- The boundaries passed without VAUX, in the order of their instants; at one instant a window closes before the tariff switches (R249,
R252). -/
def rebuildBoundaries (s : State) : State :=
  if !s.clock.valid then s
  else
    let ends := rebuildEnds s
    let early (e : Nat) : Bool := (passedEntry s).all (fun x => decide (e ≤ x.start * 20000))
    let s1 := (ends.filter early).foldl rebuildWindow s
    let s2 := (ends.filter (fun e => !early e)).foldl rebuildWindow (rebuildTariff s1)
    if ends.isEmpty then s2 else { s2 with billing := { s2.billing with subStart := gridInstant s2 } }

/-- Entries processed after the restored point, whose boundary was never committed, are pending again (R252). -/
def reopenEntries (point : Nat) (s : State) : State :=
  { s with billing := { s.billing with calendar := s.billing.calendar.map (fun e =>
      if e.state = 2 ∧ point < e.start * 20000 then { e with state := 1 } else e) } }

/-- A latch made without VAUX, or an access attempt made while METROLOGY did not run, is recorded at boot, and the loop is read (R63,
R262). -/
def bootLatch (b : BootIn) (s : State) : State :=
  let s1 := s.seals.unrecorded.foldl (fun s c => signSealBroken c.2 c.1 s) { s with seals := { s.seals with unrecorded := [] } }
  { s1 with seals := { s1.seals with loopIntact := b.loopIntact, intactAt := s.now } }

/-- A lost retention flag: the time is not valid, and the seal counts as broken (R81). -/
def retentionSeal (legal : Nat) (s : State) : State :=
  { s with
    seals := { s.seals with tamper := true, broken := true, unverified := true,
                            brokenAt := if s.seals.broken then s.seals.brokenAt else legal }
    clock := { s.clock with valid := false }
    power := { s.power with retentionFlag := true, retentionLost := true } }

/-- The retention flag is looked at before anything is restored or signed (R81). A seal found broken by it has its record at once
(R262). -/
def bootRetention (s : State) : State :=
  if s.power.retentionFlag then s
  else
    let t := s.clock.legal
    let s1 := retentionSeal t s
    if s.seals.broken then s1 else { s1 with seals := { s1.seals with unrecorded := s1.seals.unrecorded ++ [(1, t)] } }

/-- The decimators are synchronised, and the 10 s without a valid tone window count from here (R176, R218). -/
def bootFilters (s : State) : State :=
  let now := s.now
  let s1 := decimatorReset 0 (startEngines s)
  { s1 with fe := { s1.fe with tone := s1.fe.tone.map (fun x => { x with lastValidAt := now }) } }

/-- The replay of an area at boot ends: what lies there without its COMMIT is discarded and counted (R436, R438). The POWER_FAIL record
is retired with it in the metrology area. -/
def metReplayed (s : State) : State :=
  let t := s.store
  let s1 := if t.metTorn then { s with store := { t with metTorn := false, torn := satInc 16 t.torn } } else s
  metRetire (fun r => r.type == 0x03) s1

/-- The application area likewise. -/
def appReplayed (s : State) : State :=
  let t := s.store
  if t.appTorn then { s with store := { t with appTorn := false, torn := satInc 16 t.torn } } else s

/-- Step 3 (R211, R252, R473): retention flag and latches, registers restored, decimators synchronised, records of what the cut or the
reset left open signed. -/
def bootStep3 (b : BootIn) (s : State) : State :=
  let s1 := bootFilters (bootRetention s)
  let s1 := updCause (fun c => { c with finalSaveOk := c.finalSaveOk && s1.power.finalOk, pfwSeen := c.pfwSeen || s1.power.pfSeen }) s1
  let s1 := match newestSlot s1.energy.ring with
    | some (i, c) => restoreBilling c (restoreEnergy i c s1)
    | none =>
      let s2 := restoreBilling {} (restoreEnergy 0 {} s1)
      { s2 with energy := { s2.energy with restoredEv := false } }
  let s1 := { s1 with modes := { s1.modes with interruptedLeft := ((unstoredRecords s1).filter (fun r => r.type == 3)).length } }
  let point := restoredPoint s1
  let s2 := signInterrupted (bootLatch b s1)
  let s3 := if s2.billing.benchLost then
      signBenchmark false s2.energy.lastInstant true (clearPulses { s2 with
        billing := { s2.billing with benchLost := false }, modes := { s2.modes with benchClosed := true } }) else s2
  metReplayed (commits (rebuildBoundaries (reopenEntries point s3)))

/-! Boot steps 2 to 6. -/

/-- Step 2: drivers proven off, contactor feedback read (Table 3-6). -/
def bootStep2 (b : BootIn) (s : State) : State :=
  { s with sw := { s.sw with drivers := Vector.ofFn (fun d : Fin 24 =>
      let x := vget s.sw.drivers d.val {}
      { x with cmd := false, hwOff := none, current := 0, expect := none, mainOpen := b.mirrors.contains d.val }) } }

/-- The cells of a region at its release: those out of use return, and those that fail the self-test are isolated again, with the region
fault that it gives (R16, R96). -/
def releaseCells (region legal : Nat) (s : State) : State :=
  { s with faults := { s.faults with cells := s.faults.cells.map (fun p =>
      if p.2.state ≠ 0 ∧ (cellId p.1).map (·.region) = some region then (p.1, { p.2 with state := 0, since := legal }) else p) } }

/-- The self-test of a region at its release (R16, R96). Its reports name reference cycle 0, for no rule gives it (R25; DESIGN CHOICE, log 44). -/
def selfTests (region : Nat) (b : BootIn) (s : State) : State :=
  (b.badCells.eraseDups.filter (fun i => (cellId i).map (·.region) == some region)).foldl (fun s i => isolateCell 0x0A i 0 3 s)
    (releaseCells region s.clock.legal s)

/-- A step of the boot is made, unless a region fault has called for a reset meanwhile (R93, R96). -/
def bootStepTo (k : Nat) (step : State → State) (s : State) : State :=
  if s.rst.phase = .asserted then s else step (updRst (fun r => { r with phase := .held k }) s)

/-- The dies above 150 degC latch, and Traverse receives (R343, Table 3-8). -/
def bootStep5 (b : BootIn) (s : State) : State :=
  let hot := s.loads.chans.mapIdx (fun c x => if b.hotDies.contains c then { x with latch := true } else x)
  { s with loads := { s.loads with chans := hot }, trv := { s.trv with running := true } }

/-- Steps 2 to 5: SAFETY, METROLOGY, VEHICLE LINK and SITE are released (Table 3-6). POWER, which step 1 released, has run its
self-test before. -/
def bootRegions (b : BootIn) (s : State) : State :=
  let s2 := bootStepTo 2 (fun s => selfTests 0 b (selfTests 3 b (bootStep2 b s))) s
  let s3 := bootStepTo 3 (fun s => selfTests 1 b (bootStep3 b s)) s2
  bootStepTo 5 (fun s => selfTests 4 b (bootStep5 b s)) (bootStepTo 4 (selfTests 2 b) s3)

/-- Recovery ROM or download strapped (Table 2-12, R450). -/
def romStrapped (s : State) : Bool := fld s.rst.straps 0 2 == 1 || fld s.rst.straps 0 2 == 2

/-- Step 6: boot record, image and settings after a wider reset; the firmware then confirms the sessions held (R95, R100, R446). -/
def bootStep6 (b : BootIn) (s : State) : State :=
  if s.rst.reachNow = 0 then updRst (fun r => { r with phase := .released, hold := none, holdMask := 0 }) s
  else
    let (s1, fell) := bootImage (romStrapped s) (appReplayed (selfTests 5 b s))
    if fell then assertSource srcImageFallback s1
    else updRst (fun r => { r with phase := .released, hold := none, holdMask := 0 }) s1

/-- The boot goes on from the end of step k as far as the asserted sources let it (R93, R95). Factory test is entered after step 1; the
spec says nothing of what runs there, and the model runs nothing until the next reset (DESIGN CHOICE, log 38). -/
def bootFrom (b : BootIn) (k : Nat) (s : State) : State :=
  let s1 := if k = 0 then bootStep1 b s else s
  if k < 5 ∧ s1.rst.asserted.any (fun x => decide (1 ≤ sourceReach x)) then s1
  else if k < 5 ∧ factoryTest s1 then updRst (fun r => { r with phase := .factory }) s1
  else
    let s2 := if k < 5 then bootRegions b s1 else s1
    match s2.rst.phase with
    | .held 5 => if s2.rst.asserted.isEmpty then bootStep6 b s2 else s2
    | _ => s2

/-- RESET_RELEASE: the regions are released in the order of Table 3-6. -/
def execResetRelease (b : BootIn) (s : State) : Host.Outcome State Fault Refusal :=
  match s.rst.phase with
  | .held k => if s.power.supply ≠ .on ∨ s.power.pfw then .next s else .next (bootFrom b k s)
  | _ => .next s

/-! READY. -/

/-- The mode entered after a reset of reach SYSTEM or POWER-ON (R108). -/
def bootMode (s : State) : Mode :=
  let e := s.rst.cause.headD {}
  let quiet : BitVec 17 := 2 ^ srcPor ||| 2 ^ srcPfReturn ||| 2 ^ srcResetN ||| 2 ^ srcCmdSystem
  if s.modes.foundOpen ∨ e.sources &&& ~~~ quiet ≠ 0 ∨ !e.finalSaveOk ∨ s.store.recoveryRom then .recovery
  else if commCondition s then .commissioning
  else .standby

/-- Payload of READY (Table 3-7). -/
def readyPayload (reach : Nat) (m : Mode) (count bootMs : Nat) : List Byte :=
  packBytes [(reach, 2), (m.code, 3), (0, 3), (count, 16), (sat 16 bootMs, 16), (0, 8)]

/-- READY is the first event, with SEQ 0; the events held follow it, renumbered (R97, R136, R137, R472). -/
def readyQueue (e : Event) (p : Port) : Port :=
  let held := (p.flight ++ p.fresh).map (fun x => { x with sentAt := none, due := false })
  let l := (e :: held).mapIdx (fun i x => { x with seq := BitVec.ofNat 8 i })
  { p with fresh := l, flight := [], evSeq := BitVec.ofNat 8 l.length, 
           blocked := decide (1024 ≤ (held.filter (·.ack)).length) || (p.blocked && decide (896 ≤ (held.filter (·.ack)).length)) }

/-- VBAT measured: VBAT_LOW below 2.2 V, again every 24 h (R80). The 24 h are counted on across a SYSTEM or CORE reset; after a POWER-ON
reset, which clears VBAT_LOW, a low voltage counts as new: the spec says nothing of resets here (DESIGN CHOICE, log 38). -/
def vbatMeasured (mv : Nat) (s : State) : State :=
  let low := decide (mv < 2200)
  let again := !s.power.vbatLow || decide (s.power.vbatLowAt + secF 86400 ≤ s.now)
  let s1 := { s with power := { s.power with vbatMv := sat 12 mv, vbatLow := low, vbatCheckAt := s.now } }
  if low ∧ again then
    event 0x0164 (le 2 mv ++ s.stamp) { s1 with power := { s1.power with vbatLowAt := s.now } }
  else s1

/-- Events and requests that follow READY after every reset. -/
def readyTail (vbatMv : Nat) (s : State) : State :=
  let s1 := match s.rst.stuckAt with
    | some t => event 0x0162 (stampB t) (updRst (fun r => { r with stuckAt := none }) s)
    | none => s
  let s1 := if s1.port.lostReset ≠ 0 then
      event eventLost (le 2 s1.port.lostReset) { s1 with port := { s1.port with lostReset := 0 } } else s1
  let s1 := if s1.clock.valid then s1 else event 0x0423 s1.stamp s1
  let s1 := storageReady (vbatMeasured vbatMv s1)
  requestImport (chainResume s1)

/-- BOOT_STRAP_REFUSED, once READY is reached (R61). -/
def bootRefusedReport (s : State) : State :=
  if s.rst.bootRefusedEv then event 0x0121 (objBytes s.rst.straps) (updRst (fun r => { r with bootRefusedEv := false }) s) else s

/-- What the restore of boot step 3 took, once READY is reached (R211). -/
def restoreReport (s : State) : State :=
  if s.energy.restoredEv then
    match vget s.energy.ring s.energy.restored none with
    | some c =>
      event 0x0324 (le 1 s.energy.restored ++ le 1 c.kind ++ le 8 c.seq ++ stampB c.accTo ++
          le 1 (b1 s.energy.tailLost + 2 * b1 s.energy.tornSeen)) { s with energy := { s.energy with restoredEv := false } }
    | none => s
  else s

/-- STARTUP_TEST_DONE with result 1 for a start-up test that the reset cut off, once READY is reached (R335). -/
def testCutReport (s : State) : State :=
  if s.sw.testCut then
    event 0x0629 (le 1 1 ++ (le 32 (configHash s).toNat).take 8) { s with sw := { s.sw with testCut := false } }
  else s

/-- After a reset of reach SYSTEM or wider: the mode is entered and reported, and the site functions begin (R107, R108, R211, R387). VAUX
counts as lost only when the rails fell: after PF_RETURN, where VAUX dipped and MONUMENT was not passed, the old mode is that before the
reset (DESIGN CHOICE, log 38: R107 does not say). -/
def readyWide (m : Mode) (s : State) : State :=
  let old := if s.power.vauxLost then 0 else s.rst.modeBefore.code
  let powerOn := s.rst.reachNow == 2
  let s1 := { s with modes := { s.modes with mode := m, recoveryReach := s.rst.reachNow },
                     ease := { s.ease with restoreAt := if powerOn ∧ m ≠ .recovery then some s.now else none } }
  let s1 := event 0x0161 (le 1 old ++ le 1 m.code ++ le 1 2 ++ le 1 0) s1
  let s1 := testCutReport (restoreReport (bootRefusedReport s1))
  let s1 := { s1 with trv := { s1.trv with transmit := true } }
  displayReady (witnessSync (requestTrv (priceCheck (reclaimResume s1))))

/-- After a reset of reach CORE: authorizations are asked again with the time left, and a withdrawn pull-in is requested anew (R100,
R101). -/
def readyCore (s : State) : State :=
  let s1 := (s.link.requests.filter (fun r => r.state == 0 && !r.sent)).reverse.foldl (fun s r => authEvent r s) s
  (List.range 8).foldl (fun s n =>
    if (sq s n).state = 1 ∧ !(drv s (2 * n)).cmd ∧ (drv s (2 * n)).req.isNone then requestPullIn [2 * n, 2 * n + 1] n false s else s) s1

/-- The EVENT records of the events held follow their new numbers (R136, R436). -/
def rekeyed (old new : List Event) (l : List JRec) : List JRec :=
  l.map (fun r =>
    match (old.zip new).find? (fun p => r.type == 0x11 && r.key == eventKey p.1.code p.1.seq) with
    | some p => { r with key := eventKey p.2.code p.2.seq }
    | none => r)

/-- READY: boot completes (R97). What PFW_SEEN and FINAL_SAVE_OK report ends here: a later SYSTEM or CORE entry with no new loss of VAUX
reads PFW_SEEN 0 (R102; DESIGN CHOICE, log 42). COUNTER of the Traverse link resumes above its stored value after any reset (R382).
BOOT_MS counts from t0 of Table 3-6. -/
def becomeReady (vbatMv : Nat) (s : State) : State :=
  let reach := s.rst.reachNow.toNat
  let m := if reach = 0 then s.modes.mode else bootMode s
  let s1 := if reach = 2 then updCause (fun c => { c with stamp := s.clock.legal }) s else s
  let e : Event := { code := 0x0160, payload := readyPayload reach m s.rst.count ((s.now - s.rst.bootAt) / 20) }
  let q := readyQueue e s1.port
  let s1 := { s1 with port := q, store := { s1.store with appLive := rekeyed (s1.port.flight ++ s1.port.fresh) q.fresh.tail s1.store.appLive } }
  let s1 := { updRst (fun r => { r with phase := .running }) s1 with
    modes := { s1.modes with foundOpen := false, benchClosed := false }
    power := { s1.power with readyAt := s.now, finalOk := if reach = 0 then s1.power.finalOk else true,
                             pfSeen := if reach = 0 then s1.power.pfSeen else false } }
  let s2 := if reach = 0 then readyCore (counterResume s1) else readyWide m (counterResume s1)
  let s3 := appRetire (fun r => r.type == 0x13) (readyTail vbatMv s2)
  { s3 with power := { s3.power with vauxLost := if reach = 0 then s3.power.vauxLost else false } }

/-- READY (R97). -/
def execReady (vbatMv : Nat) (s : State) : Host.Outcome State Fault Refusal :=
  if s.power.supply = .on ∧ s.rst.phase = .released ∧ !s.power.pfw then .next (becomeReady vbatMv s) else .next s

end Sys2Proof.Machine
end

