-- ==== Sys2Proof/Machine/Power.lean ====
section
/-!
DEFINITION. Supplies, power-fail warning, shutdown, drop-out and return of VAUX (R75 to R86, R209, R470, R472).
-/

namespace Sys2Proof.Machine

/-- The power unit rewritten. -/
def updPower (f : Power → Power) (s : State) : State := { s with power := f s.power }

/-! The shutdown sequence of Table 3-3. -/

/-- Step 1: every permit released; the drivers follow 5 ms later (R20). -/
def shutPermits (s : State) : State := armHwOff (List.range 24) { s with sw := { s.sw with permit := 0 } }

/-- Step 2: what stops at once, with its easement charges (Table 3-3). Contactors and note imports keep theirs. -/
def shutTransmitters (s : State) : State :=
  let s1 := displayShutdown (readerStop 0 (channelsOff (List.range 16) s))
  let s1 := trvSilent s1
  { s1 with trv := { s1.trv with transmit := false, leave := none, grant := false }
            ease := { s1.ease with requests := [],
                                   charges := s1.ease.charges.filter (fun c => c.begun && (c.rq.cls == 1 || c.rq.cls == 7)) } }

/-- Step 3: the final save and the POWER_FAIL record, while the metrology region runs (R84, R209, R436). BENCHMARK ends (R473). -/
def shutSave (s : State) : State :=
  let s1 := if s.regionsRun then finalSave s else s
  let s1 := if s.regionsRun then journalMet 0x03 0 9 s1 else s1
  benchEnds { s1 with power := { s1.power with finalOk := s1.power.finalOk || s.regionsRun, pfSeen := true } }

/-- POWER_FAIL (Table 4-18). -/
def powerFailEvent (s : State) : State :=
  event 0x0163 (stampB s.power.pfwLegal ++ le 2 s.power.pfwVaux ++ le 1 s.openMask.toNat) s

/-- Steps 1 to 4 of the shutdown sequence. The session hold ends without a ramp. -/
def powerFail (vauxMv : Nat) (s : State) : State :=
  let s1 := updPower (fun p => { p with pfw := true, pfwAt := s.now, pfwLegal := s.clock.legal, pfwVaux := sat 16 vauxMv,
                                        shutStep := 4 }) s
  let s2 := updRst (fun r => { r with hold := none, holdMask := 0 }) s1
  powerFailEvent (shutSave (shutTransmitters (shutPermits s2)))

/-- The power-fail warning (R83): VAUX has stayed below the threshold, 16.3 V at most, for the filter time. -/
def execPowerFailWarning (vauxMv : Nat) (s : State) : Host.Outcome State Fault Refusal :=
  if s.power.supply = .on ∧ !s.power.pfw ∧ vauxMv < 16300 then .next (powerFail vauxMv s) else .next s

/-- The tail slot: accumulation stops and the pulse outputs are released (R209). -/
def tailSave (s : State) : State :=
  if s.energy.stopped then s
  else
    let s1 := if s.regionsRun then writeSlot (slotContent 2 s) s else s
    releasePulses { s1 with energy := { s1.energy with stopped := true } }

/-- TAIL_SAVE: the last period before t0 + 5.75 ms has left the pipeline 180 frames after t0 (R209). -/
def execTailSave (s : State) : Host.Outcome State Fault Refusal :=
  if s.power.supply = .on ∧ s.power.pfw ∧ s.power.pfwAt + 180 ≤ s.now then .next (tailSave s) else .next s

/-- Step 6: application state and plain events written to the journal; the host port stops (Table 3-3, R472). -/
def shutStep6 (s : State) : State :=
  if 6 ≤ s.power.shutStep then s
  else
    let s1 := (s.port.fresh.filter (fun e => !e.ack)).foldl (fun s e => journalApp 0x13 (eventKey e.code e.seq) (2 + e.payload.length) s)
      (journalApp 0x13 0 8 s)
    { s1 with power := { s1.power with shutStep := 6 }, port := { s1.port with replies := [], awaiting := [] } }

/-- Every step of the sequence that waits for time is complete: drivers off, tail saved, totals stored, or 10 ms have passed. -/
def shutdownDue (s : State) : Bool :=
  s.power.pfw && decide (s.power.shutStep < 6) &&
    (decide (s.power.pfwAt + 200 ≤ s.now) ||
      (s.energy.stopped && (List.range 24).all (fun d => !(drv s d).cmd) && decide (s.power.pfwAt < s.tag.totalsAt)))

/-- Drivers off, in the last resort because nothing holds them (R54, R470). -/
def driversDead (s : State) : State :=
  { s with sw := { s.sw with permit := 0, drivers := s.sw.drivers.map (fun d => { d with cmd := false, hwOff := none, current := 0 }) } }

/-- Step 6 is made once it is due, 10 ms after the warning at the latest, with whatever earlier step is still missing; the reset of a
VAUX that is back follows (R83, R86). -/
def shutdownTick (s : State) : State :=
  if !shutdownDue s then s
  else
    let s1 := shutStep6 (tailSave (driversDead s))
    if s1.power.returned then assertSource srcPfReturn s1 else s1

/-! Drop-out and return. -/

/-- The last slot written is torn, or its place holds again what it held before (R211, R470). -/
def undoSlot (torn : Bool) (s : State) : State :=
  let e := s.energy
  let i := e.lastSlot
  let before := (i + 63) % 64
  let old := (vget e.ring before none).getD {}
  let ring := if torn then vmod e.ring i (Option.map (fun c => { c with torn := true })) else vset e.ring i e.overwritten
  { s with energy := { e with ring := ring, slotSeq := if torn then e.slotSeq else e.slotSeq - 1, lastSlot := before,
                              lastKind := old.kind, lastTime := old.savedAt } }

/-- A tail slot that HOLD cut off while it was written: torn or whole, a free value (R211; log 30). -/
def lostTail (s : State) : State :=
  if s.energy.stopped ∧ s.energy.lastKind = 2 ∧ s.energy.lastTime = s.clock.legal then
    (if Config.freeNat s.factory.freeCtr % 2 = 1 then undoSlot true s.drawFree else s.drawFree)
  else s

/-- A final save that HOLD cut off: it leaves a torn slot or none, no POWER_FAIL event follows, and neither the warning nor a
final save is seen at the next start (R85, R211, R470). Which record of step 3 the cut-off left without its commit word, if any, is a free
value (log 30). -/
def lostSave (steps : Nat) (s : State) : State :=
  let how := if steps = 2 then Config.freeNat s.factory.freeCtr % 3 else 0
  let s1 := if s.regionsRun then undoSlot (decide (how = 1)) s.drawFree else s.drawFree
  let gone (e : Event) : Bool := e.code == 0x0163 && (e.payload.take 6 == stampB s.power.pfwLegal)
  { s1 with power := { s1.power with finalOk := false, pfSeen := false },
            store := { s1.store with metLive := s1.store.metLive.filter (fun r => r.type != 0x03), metTorn := s1.store.metTorn || decide (how = 2) },
            port := { s1.port with fresh := s1.port.fresh.filter (fun e => !gone e),
                                   flight := s1.port.flight.filter (fun e => !gone e) } }

/-- The internal rails are off: MONUMENT. What is volatile is lost (Tables 3-3, 3-4, 3-11). -/
def railsOff (sup : Supply) (s : State) : State :=
  let s1 := driversDead (clearPowerOn (losePlain s))
  { s1 with
    link := { s1.link with outs := s1.link.outs.map (fun y => { y with drive := 3 }) }
    power := { s1.power with supply := sup, rails := false, railOut := 0, reversed := false, vauxLost := true }
    modes := { s1.modes with mode := .monument }
    rst := { s1.rst with phase := .held 0, hold := none, holdMask := 0, takes := 0,
                         asserted := s1.rst.asserted.filter (fun x => x != srcResetN && x != srcPor),
                         noted := s1.rst.noted ++ s1.rst.asserted.filter (fun x => x != srcPor && !s1.rst.noted.contains x) } }

/-- Application state that HOLD cut off in step 6: a record without its commit word or none, a free value (R436, R470; log 30). -/
def lostState (s : State) : State :=
  if s.power.shutStep < 6 then
    { s.drawFree with store := { s.store with appTorn := s.store.appTorn || decide (Config.freeNat s.factory.freeCtr % 2 = 1) } }
  else s

/-- HOLD falls to 7 V: the steps not yet complete are not made (R470). The step count matters while steps 3 to 6 may be incomplete. -/
def dropOut (steps : Nat) (s : State) : State :=
  let s1 := if steps < 3 ∧ s.power.shutStep = 4 ∧ s.now ≤ s.power.pfwAt + 4 then lostSave steps s
    else if 6 ≤ steps then shutStep6 s else lostState (lostTail s)
  railsOff (if s.power.reversed then .reversed else .off) s1

/-- HOLD_DROP_OUT (R470). -/
def execHoldDropOut (stepsDone : Nat) (s : State) : Host.Outcome State Fault Refusal :=
  if s.power.supply = .on ∧ s.power.pfw then .next (dropOut stepsDone s) else .next s

/-- PF_RETURN: VAUX is back before HOLD dropped out. The sequence runs to its end; then a POWER-ON reset follows, whose t0 is this moment
(R83, R86, R95). In a boot that has not ended step 1 there is nothing to stop, and the step begins anew. -/
def execPfReturn (s : State) : Host.Outcome State Fault Refusal :=
  if s.power.supply ≠ .on ∨ !s.power.pfw then .next s
  else
    let s1 := updRst (fun r => { r with bootAt := s.now }) (updPower (fun p => { p with returned := true, reversed := false }) s)
    if s1.rst.phase = .held 0 then
      .next (updPower (fun p => { p with pfw := false, shutStep := 0, returned := false }) (assertSource srcPfReturn (shutStep6 s1)))
    else if 6 ≤ s1.power.shutStep then .next (assertSource srcPfReturn s1)
    else .next s1

/-- VAUX reversed: the shutdown sequence runs while HOLD carries the rails; then every output is off, and the VBAT domain goes on as in
MONUMENT (R72, R78). -/
def execVauxReversed (s : State) : Host.Outcome State Fault Refusal :=
  match s.power.supply with
  | .reversed => .next s
  | .off => .next (updPower (fun p => { p with supply := .reversed }) s)
  | .on => .next (updPower (fun p => { p with reversed := true, returned := false }) (if s.power.pfw then s else powerFail 0 s))

/-- POWER_ON: VAUX rises through the power-on threshold, 17.6 V at least; a reset of reach POWER-ON begins (Table 3-1, R90, R95). Sources
seen in the shutdown are recorded in the new entry. -/
def execPowerOn (vauxMv : Nat) (s : State) : Host.Outcome State Fault Refusal :=
  if s.power.supply ≠ .on ∧ 17600 ≤ vauxMv then
    let s1 := { s with power := { s.power with supply := .on, rails := false, pfw := false, shutStep := 0 } }
    .next (updRst (fun r => { r with asserted := srcPor :: r.asserted, phase := .held 0, reachNow := 2, takes := 0, assertedAt := s.now,
                                     bootAt := s.now, modeBefore := .monument }) (openEntry srcPor 2 s1))
  else .next s

/-! Surges and VBAT. -/

/-- VAUX_SURGE (Table 4-18). -/
def surgeEvent (on : Bool) (ms : Nat) (s : State) : State := event 0x0165 (le 1 (b1 on) ++ le 4 ms ++ s.stamp) s

/-- Surge detection goes on: every load channel is switched off and held (R77). -/
def execVauxSurgeOn (s : State) : Host.Outcome State Fault Refusal :=
  if s.power.supply ≠ .on ∨ s.power.surge then .next s
  else
    let s1 := updPower (fun p => { p with surge := true, surgeAt := s.now }) s
    .next (surgeEvent true 0 ((List.range 4).foldl (fun s k => holdBank k s) s1))

/-- Surge detection goes off: channels that were on are switched on again, each asking leave (R77). -/
def execVauxSurgeOff (s : State) : Host.Outcome State Fault Refusal :=
  if s.power.supply ≠ .on ∨ !s.power.surge then .next s
  else
    let ms := (s.now - s.power.surgeAt) / 20
    let s1 := updPower (fun p => { p with surge := false }) s
    .next (surgeEvent false ms ((List.range 4).foldl (fun s k => releaseBank k s) s1))

/-- The hourly measurement of VBAT (R80). -/
def execVbatCheck (vbatMv : Nat) (s : State) : Host.Outcome State Fault Refusal :=
  if s.running ∧ s.power.vbatCheckAt + secF 3600 ≤ s.now then .next (vbatMeasured vbatMv s) else .next s

/-- The VBAT domain falls below its retention limit while VAUX is absent (R81). -/
def execRetentionLoss (s : State) : Host.Outcome State Fault Refusal :=
  if s.power.supply = .on then .next s else .next (updPower (fun p => { p with retentionFlag := false }) s)

/-- HOLD below 20 V with VAUX above 18 V, 1 s after READY: the hold-up capacitor is missing or has failed (R82). -/
def execHoldLowCheck (vauxMv holdMv : Nat) (s : State) : Host.Outcome State Fault Refusal :=
  if s.running ∧ s.power.readyAt + secF 1 ≤ s.now then
    .next (updPower (fun p => { p with holdLow := decide (holdMv < 20000) && decide (18000 < vauxMv) }) s)
  else .next s

end Sys2Proof.Machine
end

