-- ==== Sys2Proof/Machine/Modes.lean ====
section
/-!
DEFINITION. Commands that reset the device or change its mode (R103, R109, R110, R113, R115).
-/

namespace Sys2Proof.Machine

/-- A held stop of RESET with FORCE = 1: every open session ends as by LINK_STOP, with cause host reset (R103, Table 9-6). -/
def forceStops (s : State) : State :=
  let now := s.now
  (bitList s.openMask).foldl (fun s n =>
    stopLink n 1 11 (tRamp s n) (tell n ansStop (updLk n (fun y => { y with stopAt := some now, stopCmd := true }) s))) s

/-- RESET (Table 3-10). A second RESET while one is delayed only widens it. -/
def resetCmd (p : List Byte) (s : State) : Cmd :=
  let reach := byteAt p 0
  let open' := decide (reach = 1) && s.anySession
  let force := byteAt p 1 == 1
  { form := p.length == 2, role := decide (1 ≤ s.roles.role), params := decide (reach ≤ 1) && decide (byteAt p 1 ≤ 1),
    free := !open' || force,
    run :=
      if open' then { st := if s.rst.forced then s else forceStops (updRst (fun r => { r with forced := true }) s), status := .queued }
      else { st := updRst (fun r => { r with delayed := some (match r.delayed with
                                      | some (w, t) => (BitVec.ofNat 2 (max w.toNat reach), t)
                                      | none => (BitVec.ofNat 2 reach, s.now)) }) s } }

/-- RESET requests a reset (R103). -/
def execReset (h : Hdr) (p : List Byte) (s : State) : Host.Outcome State Fault Refusal :=
  .next (hostCommand h 0x0150 p (resetCmd p) s)

/-- With FORCE = 1 the reset follows the closing of the last session (R103). -/
def forcedReset (s : State) : State :=
  if s.rst.forced ∧ s.running ∧ !s.anySession then assertSource srcCmdSystem (updRst (fun r => { r with forced := false }) s) else s

/-- What MODE_SET does where the mode admits it (Table 3-13, rows 6 and 7). -/
def modeSetRun (h : Hdr) (bench : Bool) (s : State) : Result :=
  match s.modes.mode, bench with
  | .standby, true => { st := enterMode .benchmark 6 0 s }
  | .benchmark, false => { st := enterMode .standby 7 0 s }
  | .service, true =>
    if s.modes.benchPending then { st := s }
    else { st := { s with modes := { s.modes with benchPending := true, benchQueued := some (flagAck h.flags) } }, status := .queued }
  | .service, false => { st := if s.modes.benchPending then benchCancelled 0 s else s }
  | _, _ => { st := s }

/-- MODE_SET (R110). -/
def modeSetCmd (h : Hdr) (p : List Byte) (s : State) : Cmd :=
  let v := byteAt p 0
  let m := s.modes.mode
  { form := p.length == 1, role := decide (2 ≤ s.roles.role),
    mode := (m == .standby || m == .service || m == .benchmark) && !(v == 3 && commPending s),
    params := v == 1 || v == 3, run := modeSetRun h (v == 3) s }

/-- MODE_SET enters or leaves BENCHMARK, or asks for it (R110). -/
def execModeSet (h : Hdr) (p : List Byte) (s : State) : Host.Outcome State Fault Refusal :=
  .next (hostCommand h 0x0153 p (modeSetCmd h p) s)

/-- The acknowledgement leads on to COMMISSIONING or STANDBY; when a POWER-ON reset led into RECOVERY it is the restore point of
R41 (R113). -/
def recoveryAcked (s : State) : State :=
  let i := s.modes.commInput
  let s1 := if commCondition s then enterMode .commissioning 8 i s else enterMode .standby 8 0 s
  if s.modes.recoveryReach = 2 then { s1 with ease := { s1.ease with restoreAt := some s1.now, staggerAt := none } } else s1

/-- RECOVERY_ACK (R113); the recovery ROM is left only through IMAGE_ACTIVATE (R450). -/
def recoveryAckCmd (p : List Byte) (s : State) : Cmd :=
  { form := p.length == 0, role := decide (1 ≤ s.roles.role), mode := s.inRom || s.modes.mode == .recovery,
    free := s.inRom || s.modes.interruptedLeft == 0,
    run := if s.inRom then { st := s, status := .notConfirmed } else { st := recoveryAcked s } }

/-- RECOVERY_ACK leaves RECOVERY (R113). -/
def execRecoveryAck (h : Hdr) (p : List Byte) (s : State) : Host.Outcome State Fault Refusal :=
  .next (hostCommand h 0x0154 p (recoveryAckCmd p) s)

/-- COMMISSIONING_DONE (R115); its first OK sets the debug lock for good (R63). -/
def commissioningDoneCmd (p : List Byte) (s : State) : Cmd :=
  { form := p.length == 0, role := decide (2 ≤ s.roles.role), mode := s.modes.mode == .commissioning,
    run := if commCondition s then { st := s, status := .notConfirmed }
           else { st := enterMode .standby 9 0 (updRst (fun r => { r with debugLocked := true, debugRun := false }) s) } }

/-- COMMISSIONING_DONE leaves COMMISSIONING (R115). -/
def execCommissioningDone (h : Hdr) (p : List Byte) (s : State) : Host.Outcome State Fault Refusal :=
  .next (hostCommand h 0x0155 p (commissioningDoneCmd p) s)

end Sys2Proof.Machine
end

