-- ==== Sys2Proof/Machine/Leave.lean ====
section
/-!
DEFINITION. What an answer of the arbiter does to its requester, the evaluation of a frame's requests, and the end of leaves (R36 to R41).
-/

namespace Sys2Proof.Machine

/-- The drivers that a pull-in request covers. -/
def driversOf (s : State) (id : Nat) : List Nat := (List.range 24).filter (fun d => (drv s d).req == some id)

/-- The drivers that a leave covers may still close: an outlet's pair in PULL_IN with the agreement of R9, a matrix contactor for a
join whose owner is in ENERGY, an auxiliary output without an emergency stop (R305, R315, R319). -/
def mayPullIn (s : State) (d : Nat) : Bool :=
  if d < 16 then (sq s (d / 2)).state == 1 && mayDeliver s (d / 2)
  else
    match jobOf s d with
    | some j => j.join && (sq s j.owner).state == 5 && !s.shutting
    | none => isAux s d && !emergencyHeld s && !s.shutting && !s.faults.globalSafe

/-- A pull-in without leave: an outlet's sequence fails, a join ends, an auxiliary output stays off (R315, R319). -/
def pullInRefused (id : Nat) (s : State) : State :=
  let ds := driversOf s id
  let s1 := ds.foldl (fun s d => updDrv d (fun x => { x with req := none }) s) s
  let s2 := (s1.sw.jobs.filter (fun j => ds.contains j.driver)).foldl (fun s j => endJob j s) s1
  match ds.find? (fun d => decide (d < 16)) with
  | some d => failSequence (d / 2) 5 (endAfterStop (d / 2) 10 s2)
  | none => s2

/-- A pull-in begins: its drivers conduct, and a join moves on (R307, R319); one that may no longer close does not (R9). -/
def pullInGranted (id : Nat) (s : State) : State :=
  let ds := driversOf s id
  if ds.isEmpty then release id s
  else if !ds.all (mayPullIn s) then pullInRefused id (release id s)
  else
    let s1 := ds.foldl (fun s d => beginPullIn d s) (beginOp id s)
    { s1 with sw := { s1.sw with jobs := s1.sw.jobs.map (fun j => if ds.contains j.driver then { j with phase := 2 } else j) } }

/-- A vehicle link's leave: PWM5 may begin (R278). -/
def linkGranted (n id : Nat) (s : State) : State :=
  if (lk s n).phase = 1 ∧ (lk s n).leave = some id then beginOp id (updLk n (fun y => { y with phase := 2 }) s) else release id s

/-- The operation of a request begins, in the frame of its grant or of its reserved start (R36, R40). -/
def startOp (r : Request) (s : State) : State :=
  match r.cls with
  | 1 => pullInGranted r.id s
  | 2 => beginOp r.id s
  | 3 => loadStart r.requester r.id s
  | 4 => linkGranted r.requester r.id s
  | 5 => beginOp r.id { s with trv := { s.trv with grant := true } }
  | 6 => fieldGranted r.id s
  | 7 => importGranted r.id s
  | 8 => eraseGranted r.id s
  | _ => displayGranted r.id s

/-- The operation of a request does not take place. -/
def dropOp (r : Request) (s : State) : State :=
  match r.cls with
  | 1 => pullInRefused r.id s
  | 2 => updIns r.requester (fun x => { x with leaveAt := some s.now }) s
  | 3 => loadRefused r.requester r.id s
  | 4 => leaveRefused r.requester s
  | 5 => { s with trv := { s.trv with leave := none, leaveAt := some s.now, grant := false } }
  | 6 => fieldRefused r.id s
  | 7 => importRefused r.id s
  | 8 => eraseRefused r.id s
  | _ => displayRefused r.id s

/-- A host command that awaited the arbiter is answered: OK, QUEUED or NO_LEAVE (R36). -/
def answerReq (id : Nat) (a : Answer) (s : State) : State :=
  match s.port.awaiting.find? (fun w => w.req == id) with
  | none => s
  | some w =>
    match a with
    | .grant => answerAwaiting w .ok [] s
    | .defer _ => if w.opcode = 0x0710 then loadDeferred w (byteAt w.payload 0) s else answerAwaiting w .queued [] s
    | .refuse => answerAwaiting w .noLeave [] s

/-- A request is placed at tick a: charged, and begun when that is the present frame (R36, R37). -/
def putCharge (r : Request) (a : Nat) (s : State) : State :=
  let s1 := { s with ease := { s.ease with charges := s.ease.charges ++ [{ rq := r, start := a, granted := decide (a = s.now) }] } }
  if a = s.now then startOp r (answerReq r.id .grant s1) else answerReq r.id (.defer a) s1

/-- A request is refused (R36, R42). -/
def refuseReq (r : Request) (s : State) : State := dropOp r (answerReq r.id .refuse (refused r s))

/-- A displaced reservation is placed again, with LEAVE_REVISED and its new answer (R39). -/
def placeAgain (c : Charge) (s : State) : State :=
  match place s s.ease.charges c.rq with
  | some a =>
    let s1 := revised c.rq (some a) s
    let s2 := { s1 with ease := { s1.ease with charges := s1.ease.charges ++ [{ c with start := a, granted := decide (a = s.now) }] } }
    if a = s.now then startOp c.rq s2 else s2
  | none => dropOp c.rq (revised c.rq none (refused c.rq s))

/-- One request is evaluated (R37, R39). -/
def evaluateOne (r : Request) (s : State) : State :=
  if s.faults.arbiter then refuseReq r s
  else
    match place s s.ease.charges r with
    | some a => putCharge r a s
    | none =>
      if r.cls ≠ 1 then refuseReq r s
      else
        match displace s r (displaceOrder s.ease.charges) s.ease.charges [] with
        | some (gone, cs, a) =>
          let s1 := putCharge r a { s with ease := { s.ease with charges := cs } }
          gone.reverse.foldl (fun s c => placeAgain c s) s1
        | none => refuseReq r s

/-- The request of a waiting command is still with the arbiter, or has its answer there. -/
def stillAsked (s : State) (w : Awaiting) : Bool :=
  s.ease.requests.any (fun r => r.id == w.req) || s.ease.charges.any (fun c => c.rq.id == w.req)

/-- A command whose request was withdrawn before its answer is answered all the same: QUEUED when its load channel is held, which
ends by itself, otherwise NO_LEAVE (DESIGN CHOICE, log 25). A query that awaits authorization is no such command (R297). -/
def answerWithdrawn (s : State) : State :=
  (s.port.awaiting.filter (fun w => w.opcode != 0x0510 && !stillAsked s w)).foldl (fun s w =>
    if w.opcode = 0x0710 ∧ (chn s (byteAt w.payload 0)).state = 6 then loadDeferred w (byteAt w.payload 0) s
    else answerAwaiting w .noLeave [] s) s

/-- The requests of the frame that has ended are evaluated: not in a frame whose evaluation missed its deadline (Table 15-3), and those
of class 3 not during a surge (R77). -/
def evaluateLeave (s : State) : State :=
  if (jobSt s 4 0).run ≠ 0 ∧ (jobSt s 4 0).lastTick + 1 = s.now ∧ !s.faults.arbiter then s
  else
    let held := s.ease.requests.filter (fun r => s.power.surge && r.cls == 3)
    let due := s.ease.requests.filter (fun r => !(s.power.surge && r.cls == 3))
    answerWithdrawn ((byClass due).foldl (fun s r => evaluateOne r s) { s with ease := { s.ease with requests := held } })

/-- After a change of the VAUX budget every reservation not yet begun is placed again, from the frame that begins (R41). -/
def replaceAll (s : State) : State :=
  (chargesByClass (s.ease.charges.filter (fun c => !c.begun))).foldl (fun s c =>
    match place s s.ease.charges c.rq with
    | some a =>
      let s1 := if a = c.start then s else revised c.rq (some a) s
      { s1 with ease := { s1.ease with
          charges := s1.ease.charges ++ [{ c with start := a, granted := c.granted && decide (a = c.start) }] } }
    | none => dropOp c.rq (revised c.rq none (refused c.rq s)))
    { s with ease := { s.ease with charges := s.ease.charges.filter (·.begun) } }

/-- A deferred operation reaches its start frame and begins (R36). -/
def execDeferFrameReached (req : Nat) (s : State) : Host.Outcome State Fault Refusal :=
  match chargeOf req s with
  | some c =>
    if s.regionsRun ∧ !c.begun ∧ !c.granted ∧ c.start ≤ s.now ∧ s.now < c.start + 2 then
      let f (x : Charge) : Charge := if x.rq.id = req then { x with granted := true } else x
      .next (startOp c.rq { s with ease := { s.ease with charges := s.ease.charges.map f } })
    else .next s
  | none => .next s

/-- An operation that has not begun within 2 frames of its leave loses it (R40). -/
def execLeaveLapse (req : Nat) (s : State) : Host.Outcome State Fault Refusal :=
  match chargeOf req s with
  | some c => .next (if !c.begun ∧ c.start + 2 ≤ s.now then dropOp c.rq (release req s) else s)
  | none => .next s

/-- A requester reports the end of its peak phase (R40). -/
def execPeakPhaseEnd (req : Nat) (s : State) : Host.Outcome State Fault Refusal :=
  match chargeOf req s with
  | some c => .next (if c.begun ∧ !c.inHold ∧ !c.rq.standing then leavePeak req s else s)
  | none => .next s

/-- The declared duration has ended and the peak phase still runs (R40); a load channel cannot overrun. -/
def execEasementOverrun (req : Nat) (s : State) : Host.Outcome State Fault Refusal :=
  match chargeOf req s with
  | some c =>
    if c.begun ∧ !c.inHold ∧ !c.rq.standing ∧ !c.overrun ∧ c.rq.cls ≠ 3 ∧ c.start + c.rq.duration ≤ s.now then
      let r := c.rq
      let f (x : Charge) : Charge := if x.rq.id = req then { x with overrun := true } else x
      .next (event 0x0145 (le 1 r.cls ++ le 1 r.requester ++ le 2 r.duration ++ stampB (legalAt s (c.start + r.duration)))
        { s with ease := { s.ease with charges := s.ease.charges.map f } })
    else .next s
  | none => .next s

end Sys2Proof.Machine
end

