-- ==== Sys2Proof/Machine/ObjectWrite.lean ====
section
/-!
DEFINITION. OBJ_WRITE and the writes that have a behaviour of their own (R42, R116, R144, R152, R202, R216, R217, R235, R263, R266,
R269, R349, R389, R411). Readings: log 31.
-/

namespace Sys2Proof.Machine

/-- A value with the bits under a mask taken from data (R144). -/
def merge (old data mask : Nat) : Nat := old - Nat.land old mask + Nat.land data mask

/-- The mask covers a field, or touches it (R144). -/
def covers (mask : Nat) (f : Field) : Bool := Nat.land mask f.bits == f.bits
def touches (mask : Nat) (f : Field) : Bool := Nat.land mask f.bits != 0

/-- The mask is allowed at step 3 of Table 4-7: no field in part, no RO field, no expert field with EXPERT = 0 (R144, R150). -/
def maskOk (fs : List Field) (mask : Nat) (expert : Bool) : Bool :=
  fs.all (fun f => !touches mask f || (covers mask f && f.access != .ro && (!f.expert || expert)))

/-- The values under the mask lie in range, and no reserved bit is set under it (R12, R144). -/
def valuesOk (fs : List Field) (data mask : Nat) : Bool :=
  fs.all (fun f => !touches mask f || (decide (f.least ≤ bitsOf data f.lo f.len) && decide (bitsOf data f.lo f.len ≤ f.most))) &&
    Nat.land data mask == Nat.land (Nat.land data mask) (fieldBits fs)

/-- A SEAL field lies under the mask (R10). -/
def touchesSeal (fs : List Field) (mask : Nat) : Bool := fs.any (fun f => f.access == .hw && touches mask f)

/-- Bits lo to lo + len - 1 are under the mask. -/
def under (mask lo len : Nat) : Bool := Nat.land mask ((2 ^ len - 1) * 2 ^ lo) != 0

/-! Limits across objects. -/

/-- 120 % of FS_CURRENT lies below the overrange level under a calibration, in either direction; nothing to judge while GAIN_1 is 0
(R202, R265). -/
def rangeOk (fs : Nat) (cal : BitVec 608) : Bool :=
  let g := fld cal 64 32
  let off := (signedOf 32 (fld cal 96 32)).natAbs
  g == 0 || decide (12 * fs * 1000 * 2 ^ 40 + 10 * off * g < 9 * 2 ^ 30 * g)

/-- P_FS of a pulse source in W: FS_CURRENT times V_FS, summed over the active outlets for the total (R216). -/
def fullScaleW (s : State) (src : Nat) : Nat :=
  let p (n : Nat) : Nat := fsOf s n * fld (vget s.seals.cal n 0) 512 16
  if src = 8 then (s.outlets.map p).foldl (· + ·) 0 else p src

/-- Both constants of an enabled pulse output keep the limit C <= 6,000,000 / P_FS (R216). -/
def pulseLimit (s : State) (k : Nat) : Bool :=
  let c := plsCfg s k
  let w := fullScaleW s (fld c 0 4)
  !bit c 6 || (decide (fld c 8 17 * w ≤ 6000000000) && decide (fld c 32 17 * w ≤ 6000000000))

/-- Every enabled pulse output keeps it. -/
def pulseLimits (s : State) : Bool := (List.range 4).all (pulseLimit s)

/-! Per object: mode, parameters, resources, and what a write does beside the new content. -/

/-- The mode allows the write (Tables 5-7, 6-3, 7-7, 7-14, 8-8, 11-7, 13-3; R116). -/
def Cfg.modeOk (c : Cfg) (i mask new : Nat) (s : State) : Bool :=
  let m := s.modes.mode
  match c with
  | .modulator => !(s.sessionOpen i) || bitsOf new 0 11 == bitsOf (c.value i s) 0 11
  | .energy => !s.sessionOpen i
  | .billing => m == .commissioning || !(under mask 1 1 || under mask 8 8 || under mask 16 4)
  | .cal => m == .commissioning
  | .link | .traverse => standbyOrComm s
  | .display => m == .commissioning || (m == .standby && !(under mask 31 1 || under mask 40 24))
  | .switching | .drivers | .modules | .plumb | .safetyIn | .moduleBus => standbyOrComm s
  | _ => true

/-- A matrix driver joins a segment that has no outlet (R305). -/
def joinsAbsent (s : State) (d : Nat) : Bool := !(s.present (matrixJoins d).1 && s.present (matrixJoins d).2)

/-- Parameter rules beyond the ranges of the fields, on the new content (Table 4-7, step 7). `t` is the state with it in place. -/
def Cfg.valid (c : Cfg) (i mask new : Nat) (s t : State) : Bool :=
  let f (lo len : Nat) : Nat := bitsOf new lo len
  match c with
  | .energy => (f 0 16 == 0 || decide (10 ≤ f 0 16)) && rangeOk (f 0 16) (vget s.seals.cal i 0) && pulseLimits t
  | .pulse => (f 0 4 == 8 || s.present (f 0 4)) && pulseLimits t
  | .billing =>
    let l := f 8 8
    [1, 2, 3, 4, 5, 6, 10, 12, 15, 20, 30, 60].contains l &&
      (if f 1 1 = 0 then f 16 4 == 1 else decide (1 ≤ f 16 4) && l * 60 % max 1 (f 16 4) == 0)
  | .cal => rangeOk (fsOf s i) (BitVec.ofNat 608 new) && pulseLimits t
  | .link => !(under mask 16 12 || under mask 28 12) || decide (f 16 12 < f 28 12)
  | .switching => !(under mask 48 8 || under mask 56 8) || decide (f 48 8 < f 56 8)
  | .drivers => !(decide (16 ≤ i) && under mask 0 2 && f 0 2 == 0 && joinsAbsent s i)
  | .modules => !under mask 8 3 || s.present (f 8 3)
  | .plumb =>
    (!under mask 1 3 || s.outlets.all (fun n => n == i || plCode s n != f 1 3)) &&
      (!(under mask 40 12 || under mask 52 12) || decide (f 52 12 < f 40 12))
  | .load =>
    (!under mask 32 16 || f 32 16 == 0 || decide (10 ≤ f 32 16)) &&
      !(under mask 0 3 && f 0 3 != 0 && (under mask 3 21 || under mask 32 16))
  | .traverse => !under mask 0 8 || decide (f 0 8 ≤ 63) || f 0 8 == 0xFD
  | .display =>
    let g := BitVec.ofNat 144 new
    dcWidth g % 8 == 0 && dcPriceX g % 8 == 0 && dcAonX g % 8 == 0 && dcAonW g % 8 == 0 && scanFits g &&
      withinPanel g (priceArea g) && withinPanel g (aonArea g) && !overlaps (aonArea g) (priceArea g)
  | _ => true

/-- The resources are free: no link on the outlet, no use of the tariff (R235, R269). -/
def Cfg.free (c : Cfg) (i : Nat) (s : State) : Bool :=
  match c with
  | .link => !linkRuns s i && (lk s i).phase != 1
  | .tariff => i != s.billing.active && (calFind s (fun e => e.state == 1 && e.tariff == i)).isEmpty
  | _ => true

/-- The values of a channel profile: OPEN_LOAD_EN, RETRY_COUNT, INRUSH_MS, RETRY_BASE in 10 ms, OVERLOAD_MS (Table 10-3). -/
def profileValues : Nat → Nat
  | 1 => packBits [(1, 1), (15, 4), (5, 8), (10, 8), (0, 8), (0, 16)]
  | 2 => packBits [(1, 1), (15, 4), (100, 8), (50, 8), (0, 8), (1000, 16)]
  | 3 => packBits [(1, 1), (5, 4), (10, 8), (100, 8), (0, 8), (0, 16)]
  | 4 => packBits [(1, 1), (15, 4), (50, 8), (10, 8), (0, 8), (0, 16)]
  | _ => packBits [(0, 1), (3, 4), (20, 8), (100, 8), (0, 8), (500, 16)]

/-- The content that a write leaves, from the merged value: a non-zero PROFILE loads its values, an expert write sets PROFILE to 0
(R349); a tariff takes the next VERSION (R235). -/
def Cfg.settle (c : Cfg) (mask new : Nat) (s : State) : Nat :=
  match c with
  | .load =>
    if under mask 0 3 && bitsOf new 0 3 != 0 then
      merge new (profileValues (bitsOf new 0 3) * 2 ^ 3) ((2 ^ 45 - 1) * 2 ^ 3)
    else if under mask 3 21 || under mask 32 16 then merge new 0 7
    else new
  | .tariff => merge new (s.billing.version + 1) (2 ^ 32 - 1)
  | _ => new

/-- The open demand window closes as a split window before BILLING_CONFIG changes (Table 7-7). -/
def splitWindow (s : State) : State :=
  if s.clock.valid then
    commits (takeBoundary { boundaryAt s.clock.legal s.now s with window := true } (closeWindow s.clock.legal s.now true s))
  else s

/-- QUAD and BAUD of a write wait for its reply (R152). -/
def lineWritten (seq : Byte) (new : Nat) (s : State) : State :=
  if bitsOf (hostPortValue s) 0 4 = bitsOf new 0 4 then s
  else { s with port := { s.port with pendingLine := s.port.pendingLine ++ [(seq, bitsOf new 0 1 == 1, bitsOf new 1 3)] } }

/-- A write of the safety configuration leaves STANDBY (Table 3-13, row 11). -/
def provoke (s : State) : State :=
  let s1 := { s with sw := { s.sw with proofHash := none } }
  if s.modes.mode = .standby then enterMode .commissioning 11 0 s1 else s1

/-- What a write does at once, by itself (R152, R217, R235; Tables 3-13, 7-7). -/
def Cfg.atOnce (c : Cfg) (i : Nat) (seq : Byte) (mask new : Nat) (s : State) : State :=
  match c with
  | .hostPort => lineWritten seq new s
  | .billing => splitWindow s
  | .tariff => { s with billing := { s.billing with version := s.billing.version + 1 } }
  | .pulse =>
    if under mask 0 4 || under mask 8 17 || under mask 32 17 then
      updPls i (fun p => { p with acc := 0, pending := 0, backlogEv := false }) s
    else s
  | .switching | .drivers | .modules | .plumb | .safetyIn | .moduleBus => provoke s
  | _ => s

/-- An input that ENABLE newly sets becomes valid again (R162, R173). -/
def enabledAgain (i old new : Nat) (s : State) : State :=
  let now := s.now
  (List.range 8).foldl (fun s x =>
    if bitsOf old x 1 = 0 ∧ bitsOf new x 1 = 1 then updIn' i x (fun y => { y.disturb (unitOf now) with bad := true, cell := {}, slow := [] }) s else s) s

/-- The tone that ENABLE newly switches on: its 10 s without a valid window begin (R218). -/
def toneEnabled (i old new : Nat) (s : State) : State :=
  let now := s.now
  if bitsOf old 0 1 = 0 ∧ bitsOf new 0 1 = 1 then updTone i (fun t => { t with lastValidAt := now }) s else s

/-- What follows as the new content takes effect (R42, R116, R162, R389). The safety configuration, changed in STANDBY, leaves it. -/
def Cfg.after (c : Cfg) (i old mask new : Nat) (s : State) : State :=
  match c with
  | .easement => if under mask 0 16 then replaceAll s else s
  | .modulator => enabledAgain i old new s
  | .tone => toneEnabled i old new s
  | .traverse => trvRestart (bitsOf old 0 8) s
  | .switching | .drivers | .modules | .plumb | .safetyIn | .moduleBus => provoke s
  | _ => s

/-- A write takes effect (R144). -/
def Due.take (d : Due) (s : State) : State :=
  match Cfg.ofNumber d.object with
  | some c => c.after d.index (c.value d.index s) d.mask d.value (c.put d.index d.value s)
  | none => s

/-- The writes accepted since the last frame tick take effect (R144). -/
def takeDue (s : State) : State :=
  appRetire (fun r => r.type == 0x12) (s.port.due.foldl (fun s d => d.take s) { s with port := { s.port with due := [] } })

/-- The outlet that a PARAMETER record names: the index of an object that takes one, else none (R253, R263). -/
def Cfg.outlet (c : Cfg) (i : Nat) : Nat :=
  match c with
  | .modulator | .tone | .energy | .verify | .cal => i
  | _ => 255

/-- The content that a write of entry i leaves (R144). -/
def Cfg.written (c : Cfg) (i data mask : Nat) (s : State) : Nat := c.settle mask (merge (c.value i (settled s)) data mask) s

/-- A write is kept, with its OBJECT record, and waits for the frame tick (R144, R436). -/
def Cfg.keep (c : Cfg) (i : Nat) (seq : Byte) (data mask : Nat) (s : State) : State :=
  let new := c.written i data mask s
  let s1 := c.atOnce i seq mask new s
  journalApp 0x12 c.number (4 + 2 * c.size)
    { s1 with port := { s1.port with due := s1.port.due ++ [{ object := c.number, index := i, mask := mask, value := new }] } }

/-- An accepted write; one of a SEAL field is recorded (R144, R263). -/
def Cfg.write (c : Cfg) (i : Nat) (seq : Byte) (data mask : Nat) (s : State) : State :=
  let s1 := c.keep i seq data mask s
  if touchesSeal (c.fields i) mask then signParameter (c.outlet i) c.number i (c.bytes i (settled s1)) (metHashed s1) else s1

/-- The checks and the execution of a write of entry i (Table 4-7). -/
def Cfg.cmd (c : Cfg) (h : Hdr) (i : Nat) (data mask : List Byte) (s : State) : Cmd :=
  let d := ofBytes data
  let m := ofBytes mask
  let fs := c.fields i
  let u := settled s
  let new := merge (c.value i u) d m
  let sealed := touchesSeal fs m
  { level := .both,
    form := data.length == c.size && mask.length == c.size && maskOk fs m (flagExpert h.flags),
    role := c.writer s.roles.role, mode := c.modeOk i m new u, unsealed := !(sealed && s.seals.loopIntact),
    params := c.has i s && valuesOk fs d m && c.valid i m new u (c.put i new u),
    free := c.free i s && !(sealed && noRecordPlace s),
    run := { st := c.write i h.seq d m s } }

/-- OBJ_WRITE: an OBJECT that no role writes gives BAD_PARAM at step 3 (R143, R144). -/
def objWriteCmd (h : Hdr) (p : List Byte) (s : State) : Cmd :=
  match Cfg.ofNumber (numAt p 0 2) with
  | some c =>
    if p.length = 4 + 2 * c.size then c.cmd h (numAt p 2 2) ((p.drop 4).take c.size) (p.drop (4 + c.size)) s
    else { level := .both, form := false, run := { st := s } }
  | none => { level := .both, form := false, run := { st := s } }

/-- The payload of OBJ_WRITE (R144). -/
def writePayload (object i : Nat) (data mask : List Byte) : List Byte := le 2 object ++ le 2 i ++ data ++ mask

/-- The write of an object (R144). -/
def objWrite (h : Hdr) (p : List Byte) (s : State) : State := hostCommand h 0x0103 p (objWriteCmd h p) s

/-- The write of one entry of a given object. -/
def writeEntry (c : Cfg) (h : Hdr) (i : Nat) (data mask : List Byte) (s : State) : State :=
  objWrite h (writePayload c.number i data mask) s

/-- OBJ_WRITE (R144). -/
def execObjWrite (h : Hdr) (p : List Byte) (s : State) : Host.Outcome State Fault Refusal := .next (objWrite h p s)

/-- A write of HOST_PORT (R152). -/
def execHostPortWrite (h : Hdr) (data mask : List Byte) (s : State) : Host.Outcome State Fault Refusal :=
  .next (writeEntry .hostPort h 0 data mask s)

/-- A write of EASEMENT_CONFIG (R42). -/
def execEasementConfigWrite (h : Hdr) (data mask : List Byte) (s : State) : Host.Outcome State Fault Refusal :=
  .next (writeEntry .easement h 0 data mask s)

/-- A write of a safety-configuration object (R116, R336). -/
def execSafetyConfigWrite (h : Hdr) (p : List Byte) (s : State) : Host.Outcome State Fault Refusal := .next (objWrite h p s)

/-- A write of a SEAL field (R263). -/
def execSealFieldWrite (h : Hdr) (p : List Byte) (s : State) : Host.Outcome State Fault Refusal := .next (objWrite h p s)

/-- A write of TARIFF (R235). -/
def execTariffWrite (h : Hdr) (idx : Nat) (data mask : List Byte) (s : State) : Host.Outcome State Fault Refusal :=
  .next (writeEntry .tariff h idx data mask s)

/-- A write of PULSE_CONFIG (R216, R217). -/
def execPulseConfigWrite (h : Hdr) (idx : Nat) (data mask : List Byte) (s : State) : Host.Outcome State Fault Refusal :=
  .next (writeEntry .pulse h idx data mask s)

/-- A write of ENERGY_CONFIG (R202). -/
def execEnergyConfigWrite (h : Hdr) (idx : Nat) (data mask : List Byte) (s : State) : Host.Outcome State Fault Refusal :=
  .next (writeEntry .energy h idx data mask s)

/-- A write of CAL (R202, R265). -/
def execCalWrite (h : Hdr) (idx : Nat) (data mask : List Byte) (s : State) : Host.Outcome State Fault Refusal :=
  .next (writeEntry .cal h idx data mask s)

/-- A write of BILLING_CONFIG (R266). -/
def execBillingConfigWrite (h : Hdr) (data mask : List Byte) (s : State) : Host.Outcome State Fault Refusal :=
  .next (writeEntry .billing h 0 data mask s)

/-- A write of LINK_CONFIG (R269). -/
def execLinkConfigWrite (h : Hdr) (idx : Nat) (data mask : List Byte) (s : State) : Host.Outcome State Fault Refusal :=
  .next (writeEntry .link h idx data mask s)

/-- A write of LOAD_CONFIG (R349). -/
def execLoadConfigWrite (h : Hdr) (idx : Nat) (data mask : List Byte) (s : State) : Host.Outcome State Fault Refusal :=
  .next (writeEntry .load h idx data mask s)

/-- A write of TRV_CONFIG (R389). -/
def execTrvConfigWrite (h : Hdr) (data mask : List Byte) (s : State) : Host.Outcome State Fault Refusal :=
  .next (writeEntry .traverse h 0 data mask s)

/-- A write of DISPLAY_CONFIG (R411). -/
def execDisplayConfigWrite (h : Hdr) (data mask : List Byte) (s : State) : Host.Outcome State Fault Refusal :=
  .next (writeEntry .display h 0 data mask s)

/-- The copy of an activation has been checked (R447): the boot record is committed as trial and CMD_SYSTEM resets the device; with a
tag wrong the activation is abandoned. -/
def execActivationCopyDone (tagsOk : Bool) (s : State) : Host.Outcome State Fault Refusal :=
  if !s.modes.activating || decide (s.store.activateErased < 12) || !s.running || s.shutting then .next s
  else if tagsOk then .next (assertSource srcCmdSystem (commitTrial s))
  else .next (updateDone 5 (abandonActivation s))

end Sys2Proof.Machine
end

