-- ==== Sys2Proof/Machine/Frame.lean ====
section
/-!
DEFINITION. The frame tick and the superframe tick: what the static schedule of Table 1-5 does (R21 to R23, R233, R377).
-/

namespace Sys2Proof.Machine

/-- The frame tick: the tick counts in every state. METROLOGY counts legal time in frames; without VAUX the VBAT clock keeps it, in the
same frames (DESIGN CHOICE, log 39), until the VBAT domain loses its contents (R21, R79, R229). -/
def timeTick (s : State) : State :=
  let kept := s.power.supply == .on || s.power.retentionFlag
  { s with clock := { s.clock with tick := s.clock.tick + 1, legal := if kept then s.clock.legal + 1 else s.clock.legal, frameLen := 1250 } }

/-- A new frame of the site loop: the frequency estimate moves what the loop owes, and a debt of half a reference cycle or more lengthens
or shortens the frame by one cycle, where no slew does (R22, R377; the half cycle DESIGN CHOICE, log 26). -/
def siteTick (free : Bool) (s : State) : State :=
  let owed := s.trv.loopDebt - 5 * s.trv.freq
  if isMaster s then s
  else if free && decide (2000000 ≤ owed) then
    { s with clock := { s.clock with frameLen := 1251 }, trv := { s.trv with loopDebt := owed - 4000000 } }
  else if free && decide (owed ≤ -2000000) then
    { s with clock := { s.clock with frameLen := 1249 }, trv := { s.trv with loopDebt := owed + 4000000 } }
  else { s with trv := { s.trv with loopDebt := owed } }

/-- The new frame is shortened or lengthened by one reference cycle: by a slew in frames whose index mod 4 is 2, otherwise as the site loop
asks (R22, R233, R377). -/
def slewTick (s : State) : State :=
  let c := s.clock
  if c.legal % 20000 % 4 = 2 ∧ c.slew ≠ 0 then
    let d : Int := if 0 < c.slew then 1 else -1
    siteTick false { s with clock := { c with slew := c.slew - d, frameLen := (1250 - d).toNat },
                            trv := { s.trv with ownSlew := s.trv.ownSlew + d } }
  else siteTick true s

/-- The jobs of a frame in the regions that run. The energy jobs and the filter chain make the frame that ends; the others the frame
that begins (log 33). -/
def frameJobs (m : FrameIn) (s : State) : State :=
  let s1 := evaluateLeave (jobsFrameEnd s)
  let s2 := switchFrame m (chainFrame m.bits (energyFrame s1))
  let s3 := plumbFrame (billingFrame s2)
  let s4 := loadsFrame m (linkFrame s3)
  let s5 := storageFrame (displayFrame (readerFrame s4))
  forcedReset (reportLost (alignCheck s5))

/-- FRAME_TICK: accepted writes take effect, and the frame's jobs run (R21, R23, R144). -/
def execFrameTick (m : FrameIn) (s : State) : Host.Outcome State Fault Refusal :=
  let s1 := timeTick s
  .next (shutdownTick (if s1.regionsRun then frameJobs m (slewTick (takeDue s1)) else s1))

/-- The die temperature, and DIE_TEMP_HIGH with its hysteresis (R74). -/
def dieTemp (t : Int) (s : State) : State :=
  let hot := decide (1200 < t) || (s.power.dieHot && decide (1100 ≤ t))
  let s1 := updPower (fun p => { p with dieTemp := satInt 16 t, dieHot := hot }) s
  if hot && !s.power.dieHot then event 0x0123 (leInt 2 t ++ s.stamp) s1 else s1

/-- The seal loop as the superframe finds it: a loop that reads intact again counts from here, one that reads open has opened (R261,
R264). -/
def loopRead (intact : Bool) (s : State) : State :=
  if intact then
    if s.seals.loopIntact then s else { s with seals := { s.seals with loopIntact := true, intactAt := s.now } }
  else if s.seals.loopIntact then openSeal s else s

/-- The work of a superframe (R15, R34, R74, R82, R192, R219). -/
def superJobs (m : SuperIn) (s : State) : State :=
  let s1 := updPower (fun p => { p with vauxMv := sat 16 m.vauxMv, holdMv := sat 16 m.holdMv }) s
  let s1 := { s1 with clock := { s1.clock with superDone := s1.clock.tick + 1 },
                      faults := { s1.faults with cells := s1.faults.cells.map (fun p => (p.1, { p.2 with superCount := 0 })) } }
  let s2 := overRange (loopRead m.loopIntact (dieTemp m.dieTemp s1))
  let s3 := s2.outlets.foldl (fun s n => witnessSuper n s) (loadsSuper s2)
  if s3.running then witnessSync s3 else s3

/-- SUPERFRAME_TICK, once in a frame whose index is a multiple of 400 (R21). -/
def execSuperframeTick (m : SuperIn) (s : State) : Host.Outcome State Fault Refusal :=
  if atSuperframe s && s.clock.superDone != s.clock.tick + 1 then .next (superJobs m s) else .next s

end Sys2Proof.Machine
end

