-- ==== Sys2Proof/Machine/ObjectRead.lean ====
section
/-!
DEFINITION. OBJ_READ: the content of every object (R142, R143, and the field maps of chapters 01 to 15). Readings: log 32.
-/

namespace Sys2Proof.Machine

/-- An object as OBJ_READ sees it: the lowest role that reads it, its entries, their bytes, and the status of the reply. -/
structure ObjRead where
  role : Nat
  has : Nat → Bool
  data : Nat → List Byte
  status : Nat → Status := fun _ => .ok

/-- An object without entries: INDEX is 0 (R143). -/
def single (role : Nat) (data : List Byte) : ObjRead := { role := role, has := fun i => i == 0, data := fun _ => data }

/-- An object with n entries. -/
def entries (role n : Nat) (data : Nat → List Byte) : ObjRead := { role := role, has := fun i => decide (i < n), data := data }

/-- An object with an entry for each active outlet (R4). -/
def perOutlet (role : Nat) (s : State) (data : Nat → List Byte) : ObjRead := { role := role, has := s.present, data := data }

/-- A signed value in k bits. -/
def sgn (k : Nat) (n : Int) : Nat × Nat := (unsignedOf k n, k)

/-- Mask of the outlets, or channels, of 0 to n - 1 with a property. -/
def maskBy (n : Nat) (f : Nat → Bool) : Nat × Nat := ((maskOf n ((List.range n).filter f)).toNat, n)

/-- A time stamp field. -/
def stampF (legal : Nat) : Nat × Nat := (stampOf legal, 48)

/-! System group. -/

/-- IDENTITY (Table 4-12). -/
def identityBytes (s : State) : List Byte :=
  packBytes [(s.factory.serial.toNat, 64), (match s.factory.variant with | .hx8 => 8 | .hx4 => 4, 8), (s.outletCount, 4),
    (b1 s.rst.debugLocked, 1), (0, 3), (0x0100, 16), (s.factory.romVersion.toNat, 32), (vget s.store.versions (runningSlot s) 0, 32),
    (0, 32)]

/-- HOST_PORT_STATS (Table 4-14). -/
def portStatsBytes (s : State) : List Byte :=
  let p := s.port
  packBytes ([p.crcErrors, p.lenErrors, p.gapDiscards, p.overruns, p.duplicates, p.ackUnmatched, p.resent, p.lost].map (fun n => (n, 16)))

/-- ROLE_STATE (Table 4-15). -/
def roleStateBytes (s : State) : List Byte :=
  let r := s.roles
  let left := if r.role = 0 then 0 else (r.lastCmd + secF s.port.roleIdle.toNat - s.now) / 20000
  let locked (k : Nat) : Bool := match vget r.lockedUntil k none with | some t => decide (s.now < t) | none => false
  packBytes [(r.role, 3), (0, 1), maskBy 4 (fun k => keySet s (k + 1)), (left, 12), maskBy 4 locked,
    (if r.lastFail = 0 then 0 else vget r.fails (r.lastFail - 1) 0, 8)]

/-- EASEMENT_STATE (Table 1-11). -/
def easementStateBytes (s : State) : List Byte :=
  let c := s.ease.charges
  packBytes [(sat 16 (vauxTotal s c s.now), 16), (sat 16 (intTotal s c s.now), 16),
    (sat 8 (c.filter (fun x => !x.begun)).length, 8), (sat 8 (c.filter (fun x => x.begun && x.rq.standing)).length, 8),
    (s.ease.refusals, 16), (staggerLeft s, 16), (0, 16)]

/-- A RESET_CAUSE entry (Table 3-9). -/
def resetCauseBytes (c : ResetCause) : List Byte :=
  packBytes ([(c.sources.toNat, 17), (b1 c.stuck, 1), (c.reach.toNat, 2), (b1 c.sessionsOpen, 1), (b1 c.pfwSeen, 1),
    (b1 c.finalSaveOk, 1), (b1 c.holdExpired, 1)] ++ ((List.range 6).map (fun i => (c.order.getD i 0x1F, 5))) ++
    [(b1 (decide (6 < c.order.length)), 1), (0, 9), stampF c.stamp, (c.count, 16)])

/-- MODE (Table 3-12). -/
def modeBytes (s : State) : List Byte :=
  packBytes [(s.modes.mode.code, 3), (b1 s.modes.benchPending, 1), (b1 (commPending s), 1), (b1 (modeRefuses s), 1), (0, 2),
    (b1 (notProvisioned s), 1), (b1 (sealOpen s), 1), (b1 (safetyUnproven s), 1), (0, 5), (s.openMask.toNat, 8),
    (s.modes.interruptedLeft, 8)]

/-- SUPPLY_STATE (Table 3-2). -/
def supplyBytes (s : State) : List Byte :=
  let p := s.power
  packBytes [(p.vauxMv, 16), (p.holdMv, 16), (sat 12 p.vbatMv, 12), (b1 p.vbatLow, 1), (b1 p.surge, 1), (b1 p.retentionLost, 1),
    (b1 p.holdLow, 1), (0, 16)]

/-- Objects of group 0x01 that are not written (Table 4-9). -/
def readSystem (s : State) : Nat → Option ObjRead
  | 0x0101 => some (single 0 (identityBytes s))
  | 0x0106 => some (single 1 (portStatsBytes s))
  | 0x0114 => some (single 0 (roleStateBytes s))
  | 0x0120 => some (single 1 (le 2 s.rst.straps.toNat))
  | 0x0122 => some (single 0 (leInt 2 s.power.dieTemp))
  | 0x0141 => some (single 1 (easementStateBytes s))
  | 0x0151 => some (entries 1 8 (fun i => resetCauseBytes (s.rst.cause.getD i {})))
  | 0x0152 => some (single 0 (modeBytes s))
  | 0x0156 => some (single 0 (supplyBytes s))
  | _ => none

/-! Metrology front end. -/

/-- MOD_STATUS (Table 5-8). -/
def modStatusBytes (s : State) (n : Nat) : List Byte :=
  packBytes [maskBy 8 (inputValid s n), maskBy 8 (fun x => (modIn s n x).stuck),
    (b1 ((List.range 8).any (fun x => (modIn s n x).clockFault)), 1), (0, 7), maskBy 8 (fun x => (modIn s n x).overrange),
    (vget s.fe.invalidCount n 0, 16), (0, 16)]

/-- PATH_STATE (Table 5-9). -/
def pathStateBytes (s : State) (n : Nat) : List Byte :=
  packBytes [(fld (pathSt s n) 0 30, 30), (b1 (s.fe.fades.any (fun f => f.outlet == n)), 1), (0, 1)]

/-- TONE_STATE (05). -/
def toneStateBytes (s : State) (n : Nat) : List Byte :=
  let t := tone s n
  let r := t.ratios.take (toneAvg s n)
  packBytes [sgn 32 t.lastRatio, sgn 16 t.lastPhase, sgn 32 (meanInt (r.map (10 * ·))), (r.length, 16), (b1 t.valid, 1), (0, 31)]

/-- SYNC_STATE (05). -/
def syncStateBytes (s : State) : List Byte :=
  packBytes [stampF s.fe.lastSync, (s.fe.lastSource, 2), (b1 s.fe.armed, 1), (b1 s.fe.scheduled.isSome, 1), (0, 12),
    (s.fe.msyncIgnored, 16), (s.fe.msyncUnarmed, 16)]

/-- PLUMB_CORR (05). -/
def plumbCorrBytes (s : State) (n : Nat) : List Byte :=
  let p := corrOf s n
  packBytes ([stampF p.periodEnd, (p.periodSeq, 8), (p.validMask.toNat, 8)] ++
    ((List.range 8).map (fun q => [sgn 32 (vget p.corrP q 0), sgn 32 (vget p.corrN q 0)])).flatten ++ [(p.windowMin, 16), (0, 16)])

/-- The records of the capture buffer, 8 bytes each (Table 5-11). -/
def captureBytes (s : State) : List Byte :=
  (s.fe.buffer.map (fun r => packBytes [(r.1, 32), (r.2.1, 4), (0, 4), (r.2.2, 24)])).flatten

/-- CAPTURE: pages of 4,092 bytes; page 0 of an empty buffer is empty (R191). -/
def captureRead (s : State) : ObjRead :=
  { role := 1, has := fun i => i == 0 || decide (4092 * i < 8 * s.fe.buffer.length),
    data := fun i => ((captureBytes s).drop (4092 * i)).take 4092 }

/-- Objects of group 0x02 that are not written by OBJ_WRITE. -/
def readFrontEnd (s : State) : Nat → Option ObjRead
  | 0x0201 => some (perOutlet 1 s (modStatusBytes s))
  | 0x0202 => some (single 1 (syncStateBytes s))
  | 0x0203 => some (perOutlet 1 s (pathStateBytes s))
  | 0x0204 => some (entries 2 8 (fun i => objBytes (coefSet s i)))
  | 0x0205 => some (perOutlet 1 s (plumbCorrBytes s))
  | 0x0206 => some (perOutlet 1 s (toneStateBytes s))
  | 0x0208 => some (captureRead s)
  | _ => none

/-! Energy. -/

/-- Frames queued for an outlet: at its FIR engine or at the energy engine (R222). -/
def backlogOf (s : State) (n : Nat) : Nat :=
  max (eng s n).backlog
    (max (jobSt s 9 n).backlog (max (jobSt s 2 (n / 2)).backlog (max (jobSt s 6 (n / 2)).backlog (jobSt s 7 (n / 2)).backlog)))

/-- ENERGY_NOW (Table 6-4). -/
def energyNowBytes (s : State) (n : Nat) : List Byte :=
  let e := eng s n
  let a := match s.session n with | some x => x.acc | none => {}
  packBytes ([sgn 32 e.power, sgn 32 e.voltage, sgn 32 e.current, stampF e.instant, (b1 (s.sessionOpen n), 1), (0, 15)] ++
    ([a.rawImp, a.rawExp, a.cmpImp, a.cmpExp].map (fun v => (mwh v, 64))))

/-- ENERGY_ACC of an outlet, or of the total 8 (Table 6-5). -/
def energyAccBytes (s : State) (u : Nat) : List Byte :=
  let a := accOf s u
  let sum (f : EnergyOut → Nat) : Nat := if u < 8 then f (eng s u) else (s.outlets.map (fun n => f (eng s n))).foldl (· + ·) 0
  packBytes ([a.rawImp, a.rawExp, a.cmpImp, a.cmpExp, sum (·.standing), sum (·.unmetered)].map (fun v => (mwh v, 64)))

/-- METER_WARN (Table 6-8). -/
def meterWarnBytes (s : State) (n : Nat) : List Byte := packBytes [(meterWarn s n, 32), stampF (warnSince (eng s n))]

/-- WITNESS_STATE (Table 6-9). -/
def witnessStateBytes (s : State) (n : Nat) : List Byte :=
  let e := eng s n
  packBytes [sgn 32 e.lastDiv, sgn 32 (meanInt e.divs), (e.divs.length, 8), (b1 e.witValid, 1), (0, 7), sgn 32 e.qBill, sgn 32 e.qWit]

/-- ENERGY_DIAG (Table 6-10). -/
def energyDiagBytes (s : State) (n : Nat) : List Byte :=
  let e := eng s n
  packBytes [(e.creep, 32), (e.invalid, 32), (e.clamped, 32), (e.misses, 16), (min 4 (backlogOf s n), 3), (min 4 e.maxBacklog, 3), (0, 10)]

/-- SAVE_STATE (Table 6-11). -/
def saveStateBytes (s : State) : List Byte :=
  let e := s.energy
  packBytes [(e.slotSeq, 64), (e.lastSlot, 6), (e.lastKind, 2), stampF e.lastTime, (b1 e.tailLost, 1), (b1 e.tornSeen, 1), (0, 6),
    (e.restored, 6), (0, 10)]

/-- A count with its fraction: whole microwatt-hours and 2^-32 parts (R200). -/
def fracOf (e : Nat) : Nat := e % 2 ^ 32

/-- The four accumulators of a set. -/
def Acc.list (a : Acc) : List Nat := [a.rawImp, a.rawExp, a.cmpImp, a.cmpExp]

/-- Counts of 64 bits, then their fractions of 32 bits. -/
def countsAndFracs (l : List Nat) : List (Nat × Nat) := l.map (fun e => (uwh e, 64)) ++ l.map (fun e => (fracOf e, 32))

/-- A session in a save slot (Table 7-1). -/
def sessionFields (x : Option Session) (flags : BitVec 8) : List (Nat × Nat) :=
  match x with
  | some y => [(y.id.toNat, 64), stampF y.startL, (1, 1), (0, 7), (flags.toNat, 8)] ++ countsAndFracs y.acc.list ++
      [(uwh y.winImp, 64), (uwh y.winExp, 64)]
  | none => [(0, 64), (0, 48), (0, 1), (0, 7), (flags.toNat, 8)] ++ countsAndFracs [0, 0, 0, 0] ++ [(0, 64), (0, 64)]

/-- BILLING_STATE of a save slot (Table 7-1). -/
def billSaveFields (b : BillSave) : List (Nat × Nat) :=
  [(b.active, 8), (b1 b.timeValid, 1), (b1 b.adjusted, 1), (0, 6), stampF b.since, stampF b.subStart, (b.boundary, 64),
    sgn 32 (Int.tdiv b.slew 25), (0, 48)] ++
  ((List.range 18).map (fun r => [(uwh (vget b.regs r 0), 64), (fracOf (vget b.regs r 0), 32)])).flatten ++
  ((List.range 18).map (fun r => [(uwh (vget b.subs r 0), 64), (fracOf (vget b.subs r 0), 32)])).flatten ++
  ((List.range 8).map (fun n => sessionFields (vget b.sessions n none) (vget b.sesFlags n 0))).flatten

/-- Bits [16,319:0] of a save slot (Table 6-2). -/
def slotBody (c : Slot) : List Byte :=
  padTo 2040 (packBytes ([(c.seq, 64), (c.kind, 2), (0, 6), stampF c.savedAt, stampF c.accTo, (b1 c.pfw, 1), stampF c.instantTo, (0, 39)] ++
    ((List.range 8).map (fun n =>
      countsAndFracs (vget c.accs n {}).list ++
        [(uwh (vget c.standing n 0), 64), (mwh (vget c.unmetered n 0), 32), (sat 32 (vget c.invalid n 0), 32)])).flatten ++
    ((List.range 4).map (fun k => [((vget c.pulses k (0, 0)).1, 48), ((vget c.pulses k (0, 0)).2, 16)])).flatten ++
    billSaveFields c.billing))

/-- A save slot as bytes: its CRC, and the commit word written last (Table 6-2). The words of a torn slot are not stated: free
values (log 32). -/
def Slot.bytes (c : Slot) : List Byte :=
  let body := slotBody c
  if c.torn then body ++ le 4 (Config.freeNat c.seq) ++ le 4 (Config.freeNat (c.seq + 1))
  else body ++ le 4 (crc32c body) ++ le 4 c.seq

/-- Objects of group 0x03 that are not written. -/
def readEnergy (s : State) : Nat → Option ObjRead
  | 0x0301 => some { perOutlet 0 s (energyNowBytes s) with
      status := fun n => if backlogOf s n = 0 then .ok else .deadline }
  | 0x0302 => some { role := 0, has := fun u => u == 8 || s.present u, data := energyAccBytes s }
  | 0x0305 => some (perOutlet 0 s (meterWarnBytes s))
  | 0x0306 => some (perOutlet 1 s (witnessStateBytes s))
  | 0x0307 => some (perOutlet 1 s (energyDiagBytes s))
  | 0x0308 => some (single 1 (saveStateBytes s))
  | 0x0309 => some (entries 1 64 (fun i =>
      match vget s.energy.ring i none with | some c => c.bytes | none => List.replicate 2048 0))
  | _ => none

/-! Billing. -/

/-- A TARIFF_CALENDAR entry (Table 7-9). -/
def calendarBytes (s : State) (i : Nat) : List Byte :=
  let e := calEntry s i
  packBytes [(e.start, 32), (e.tariff, 8), (e.state, 2), (0, 6)]

/-- TARIFF_STATE (Table 7-10). -/
def tariffStateBytes (s : State) : List Byte :=
  let b := s.billing
  let e := nextEntry s
  packBytes [(b.active, 8), (versionOf s b.active, 32), (b.displayed, 32), stampF b.since,
    stampF (match e with | some x => x.start * 20000 | none => 0), (match e with | some x => x.tariff | none => 255, 8),
    (b1 b.mismatch, 1), (b1 b.announced, 1), (0, 14)]

/-- TARIFF_REG of unit u (Table 7-11). -/
def tariffRegBytes (s : State) (u : Nat) : List Byte := objBytes (tariffValues s u)

/-- DEMAND_STATE of unit u (Table 7-12). -/
def demandBytes (s : State) (u : Nat) : List Byte :=
  let d := vget s.billing.demand u {}
  packBytes [(d.maxImp, 32), stampF d.maxImpAt, (d.maxExp, 32), stampF d.maxExpAt, (d.lastImp, 32), (d.lastExp, 32), stampF d.lastEnd,
    (b1 d.lastPartial, 1), (b1 d.lastAdjusted, 1), (b1 d.maxImpAdj, 1), (b1 d.maxExpAdj, 1), (0, 12), stampF d.resetAt,
    (d.maxImpBnd, 64), (d.maxExpBnd, 64)]

/-- LEGAL_TIME (Table 7-13). -/
def legalTimeBytes (s : State) : List Byte :=
  packBytes [stampF s.clock.legal, (b1 s.clock.valid, 1), (b1 (s.clock.slew != 0), 1), (b1 s.trv.aligned, 1), (0, 13),
    sgn 32 (slewUs s), (sat 16 (slewSum s / 25000), 16), (s.clock.lastStepSeq.toNat, 64), (s.billing.boundary, 64)]

/-- SEAL_STATE (Table 7-15). -/
def sealStateBytes (s : State) : List Byte :=
  let x := s.seals
  packBytes [(b1 x.loopIntact, 1), (b1 x.broken, 1), (b1 x.unverified, 1), (b1 x.tamper, 1), (x.openCount, 4), stampF x.brokenAt,
    (x.brokenSeq, 64), stampF x.resealedAt, (x.resealSeq, 64), (0, 24), (x.metHash.toNat, 256)]

/-- LOG_STATE (Table 7-16). -/
def logStateBytes (s : State) : List Byte :=
  let l := s.log
  packBytes [(logCapacity, 32), (newestSeq s, 64), (l.acked, 64), (l.oldest, 64), (unacked s, 32), (logFree s, 32),
    (l.overflow.length, 16), (b1 l.nearlyFull, 1), (b1 l.full, 1), (b1 l.gap, 1), (0, 13)]

/-- A unit of the registers: an active outlet, or the total 8 (R4, R241). -/
def unitOk (s : State) (u : Nat) : Bool := u == 8 || s.present u

/-- Objects of group 0x04 that are not written by OBJ_WRITE. -/
def readBilling (s : State) : Nat → Option ObjRead
  | 0x0402 => some (entries 0 64 (calendarBytes s))
  | 0x0403 => some (single 0 (tariffStateBytes s))
  | 0x0404 => some { role := 0, has := unitOk s, data := tariffRegBytes s }
  | 0x0406 => some { role := 0, has := unitOk s, data := demandBytes s }
  | 0x0407 => some (single 0 (legalTimeBytes s))
  | 0x0409 => some (single 0 (sealStateBytes s))
  | 0x040A => some (single 1 (logStateBytes s))
  | 0x040B => some (single 0 (objBytes s.factory.signKey))
  | _ => none

/-! Vehicle link. -/

/-- PILOT of LINK_STATE: indeterminate while the last evaluated plateau falls in no band; the state before it is kept for every
decision (R274, Table 8-10; DEDUCED, log 24). -/
def pilotShown (x : LinkOut) : Nat := if x.indetRun ≠ 0 ∧ x.drive < 2 then 6 else x.pilot

/-- LINK_STATE (Table 8-10). -/
def linkStateBytes (s : State) (n : Nat) : List Byte :=
  let x := lk s n
  packBytes [(pilotShown x, 3), (x.drive, 2), (b1 x.diodeFault, 1), (x.pp, 2), (x.phase, 4), (x.protocol, 3), (b1 x.tls, 1),
    (sat 16 x.ppOhm, 16), sgn 16 x.posMv, sgn 16 x.negMv, (x.evMac, 48), ((vget s.factory.devMac n 0).toNat, 48), (x.margin, 16),
    (x.attempts, 8), (0, 8), ((s.session n).elim 0 (·.id.toNat), 64)]

/-- TRI_MATRIX (Table 8-11). -/
def triBytes (s : State) : List Byte :=
  let shown (n : Nat) : Bool := s.present n && !bit (lkCfg s n) 1
  packBytes (((List.range 64).map (fun k =>
      (if shown (k / 8) && shown (k % 8) then vget (vget s.link.tri (k / 8) (Vector.replicate 8 0)) (k % 8) 0 else 0, 16))) ++
    ((List.range 8).map (fun n => stampF (vget s.link.triAt n 0))))

/-- Objects of group 0x05 that are not written. -/
def readLink (s : State) : Nat → Option ObjRead
  | 0x0501 => some (perOutlet 1 s (linkStateBytes s))
  | 0x0503 => some (single 1 (triBytes s))
  | _ => none

/-! Switching and safety. -/

/-- KDRV_STATE (Table 9-13). -/
def driverBytes (s : State) (d : Nat) : List Byte :=
  let x := drv s d
  packBytes [(x.state, 3), (b1 x.cmd, 1), (b1 x.mainOpen, 1), (x.fault, 3), (sat 16 x.current, 16), (sat 32 x.ops, 32), (0, 8)]

/-- PM_STATE (Table 9-15). -/
def moduleBytes (s : State) (m : Nat) : List Byte :=
  let x := pmod s m
  packBytes [(if pmEnabled s m then x.health else 0, 2), (0, 6), (x.voltage, 16), sgn 16 x.current, (x.faultBits.toNat, 16), (x.temp, 8)]

/-- INSULATION (Table 9-17). -/
def insulationBytes (s : State) (n : Nat) : List Byte :=
  let x := ins s n
  packBytes [(x.rp, 32), (x.rn, 32), (x.rpar, 32), (x.group.toNat, 8), (x.expected.toNat, 8), (x.status, 2), (b1 x.split, 1),
    (b1 x.consistent, 1), (b1 x.located, 1), (0, 11), stampF x.stamp, (sat 16 x.udc, 16)]

/-- A safety input has a channel without a test source (Table 9-19). -/
def untested (s : State) (i : Nat) : Bool :=
  let c := vget s.sw.inputConfig i 0
  fld c 0 3 != 0 && (fld c 4 3 == 4 || fld c 7 3 == 4)

/-- SAFETY_STATE (Table 9-19). -/
def safetyStateBytes (s : State) : List Byte :=
  let x (i : Nat) : SafeIn := vget s.sw.inputs i {}
  packBytes [maskBy 8 (fun i => (x i).demand), maskBy 8 (fun i => (x i).fault), maskBy 8 (fun i => (x i).await), maskBy 8 (untested s),
    maskBy 8 (fun i => (x i).proven), (b1 (proofValid s), 1), (b1 s.sw.testAt.isSome, 1), (0, 6), ((configHash s).toNat, 256),
    stampF s.sw.proofAt]

/-- SEQ_STATE (Table 9-20). -/
def seqStateBytes (s : State) (n : Nat) : List Byte :=
  let x := sq s n
  packBytes [(x.state, 4), (x.lastCause, 4), (b1 x.late, 1), (b1 x.forced, 1), (0, 6), (sat 16 x.ucc, 16), (sat 16 x.limit, 16), (0, 16)]

/-- BUS_STATE (Table 9-21). A matrix contactor is confirmed closed while its driver holds and its mirror input reads off. -/
def busStateBytes (s : State) : List Byte :=
  packBytes (((List.range 8).map (fun m => ((vget s.sw.owner m none).getD 15, 4))) ++
    [maskBy 8 (fun i => fld (kCfg s (16 + i)) 0 2 == 0 && (drv s (16 + i)).cmd && !(drv s (16 + i)).mainOpen),
      (s.sw.permit.toNat, 8)])

/-- Objects of group 0x06 that are not written. -/
def readSwitching (s : State) : Nat → Option ObjRead
  | 0x0602 => some (entries 1 24 (driverBytes s))
  | 0x0604 => some (entries 1 16 (moduleBytes s))
  | 0x0606 => some (perOutlet 0 s (insulationBytes s))
  | 0x0608 => some (single 0 (safetyStateBytes s))
  | 0x0609 => some (perOutlet 1 s (seqStateBytes s))
  | 0x060A => some (single 0 (busStateBytes s))
  | _ => none

/-! Load channels. -/

/-- LOAD_STATE (Table 10-8). -/
def loadStateBytes (s : State) (c : Nat) : List Byte :=
  let x := chn s c
  let left := if x.state = 4 then (x.waitEnd - s.now) / 20 else 0
  packBytes [(x.state, 3), (b1 x.cmd, 1), (b1 x.pwm, 1), (x.fault, 3), (b1 x.latch, 1), (b1 x.openLoad, 1), (b1 x.inLimit, 1),
    (b1 x.window.isSome, 1), (x.retries, 4), (sat 16 x.current, 16), sgn 16 x.temp, (sat 16 left, 16), (x.duty, 16), (sat 32 x.ons, 32),
    (0, 16)]

/-- BANK_STATE (Table 10-9). -/
def bankStateBytes (s : State) (k : Nat) : List Byte :=
  let b := vget s.loads.banks k {}
  let overrange := match b.overAt with | some t => decide (s.now < t + secF 60) | none => false
  let busy := (bankChannels k).any (fun c => (chn s c).state == 1 || (chn s c).state == 2)
  packBytes [(sat 16 b.vbb, 16), (sat 16 b.current, 16), (b1 b.uv, 1), (b1 b.ov, 1), (b1 b.gndLost, 1), (b1 b.reverse, 1),
    (b1 b.lockout, 1), (b1 overrange, 1), (b1 busy, 1), (0, 1), (min 3 (b.uvAt.filter (fun t => decide (s.now < t + secF 60))).length, 2),
    (0, 6)]

/-- Objects of group 0x07 that are not written. -/
def readLoads (s : State) : Nat → Option ObjRead
  | 0x0702 => some (entries 0 16 (loadStateBytes s))
  | 0x0703 => some (entries 0 4 (bankStateBytes s))
  | _ => none

/-! Traverse link. -/

/-- TRV_STATE.STATE (Table 11-8). -/
def trvStateCode (s : State) : Nat :=
  if !trvReceives s then 0 else if !trvTransmits s then 1 else if isMaster s then 4 else if s.trv.parent = 0xFF ∧ ¬ s.trv.master < 64 then 2 else 3

/-- TRV_STATE (Table 11-8). -/
def trvStateBytes (s : State) : List Byte :=
  let t := s.trv
  packBytes [(trvStateCode s, 3), (b1 t.grant, 1), (b1 t.datumValid, 1), (b1 t.addrConflict, 1), (b1 t.yielded, 1), (0, 1), (masterShown s, 8),
    (t.parent, 8), (t.depth, 3), (0, 5), (t.gridMhz, 16), (t.phaseDeg, 12), (0, 4),
    ((t.neigh.toList.filter (·.usable)).length, 8), ((t.routes.toList.filter (fun r => r.next != 0xFF)).length, 8)]

/-- SITE_TIME (Table 11-9). -/
def siteTimeBytes (s : State) : List Byte :=
  let t := s.trv
  let age := match t.beaconAt with | some b => sat 16 ((s.now - b) / 20) | none => 0xFFFF
  packBytes [sgn 64 t.offset, sgn 32 (40 * slewD s), (b1 t.locked, 1), (b1 t.aligned, 1), (0, 30), sgn 32 t.freq, (age, 16),
    (sat 16 t.delayNs, 16)]

/-- TRV_NEIGHBOUR (Table 11-10). -/
def neighbourBytes (s : State) (n : Nat) : List Byte :=
  let x := ngh s n
  let cost := if x.heardAt.isSome then linkCost s x else 0xFFFF
  packBytes [(schemeFor s.now x, 4), (b1 x.usable, 1), (0, 3), (x.snr, 8), (cost, 16), (sat 8 (resentRate s.now x), 8), stampF x.lastHeard, (0, 8)]

/-- TRV_ROUTE (Table 11-11). -/
def routeBytes (s : State) (d : Nat) : List Byte :=
  let x := route s d
  packBytes [(x.next, 8), (x.hops, 3), (0, 5), (sat 16 x.cost, 16), stampF x.since, (x.changes, 16)]

/-- TRV_STATS (Table 11-12). -/
def trvStatsBytes (s : State) : List Byte :=
  let t := s.trv
  packBytes ([t.framesTx, t.framesRx, t.segResent, t.pktDropped, t.micFail, t.replays, t.blanked, t.beaconsMissed].map (fun n => (sat 16 n, 16)))

/-- Objects of group 0x08 that are not written. -/
def readTraverse (s : State) : Nat → Option ObjRead
  | 0x0801 => some (single 0 (trvStateBytes s))
  | 0x0802 => some (entries 1 64 (neighbourBytes s))
  | 0x0803 => some (entries 1 64 (routeBytes s))
  | 0x0804 => some (single 0 (siteTimeBytes s))
  | 0x0805 => some (single 1 (trvStatsBytes s))
  | _ => none

/-! Contactless and display. -/

/-- READER_STATE (Table 12-9). -/
def readerStateBytes (s : State) : List Byte :=
  let r := s.rdr
  packBytes [(r.state, 3), (b1 r.antennaFault, 1), (r.cards, 3), (0, 9), (sat 16 r.antennaMv, 16), (r.refusals, 16), (0, 16)]

/-- WTAG_STATE (Table 12-10). -/
def tagStateBytes (s : State) : List Byte :=
  let t := s.tag
  packBytes [(b1 t.field, 1), (b1 t.selected, 1), (0, 6),
    (((List.range 64).filter (fun k => noteValid s k && !bit (importedMask s) k)).length, 8),
    (((List.range 64).filter (noteFree s)).length, 8), (nextNoteNo s, 32), stampF t.lastTotals, (sat 16 t.waitMax, 16),
    (sat 16 t.torn, 16), (0, 24), (s.factory.tagUid.toNat, 56), (0, 8)]

/-- Objects of group 0x09 that are not written. -/
def readContactless (s : State) : Nat → Option ObjRead
  | 0x0901 => some (single 0 (readerStateBytes s))
  | 0x0903 => some (single 0 (tagStateBytes s))
  | 0x0904 => some (entries 1 64 (fun i => padTo 512 (s.tag.notes.getD i [])))
  | _ => none

/-- DISPLAY_STATE (Table 13-4). -/
def displayStateBytes (s : State) : List Byte :=
  let d := s.disp
  packBytes [(d.state, 3), (d.flight.length, 3), (d.queue.length, 4), (b1 d.crack, 1), (b1 d.tempFault, 1), (b1 d.railFault, 1),
    (b1 d.outOfBand, 1), (b1 d.dirty, 1), (b1 d.light, 1), sgn 16 d.temp, (d.band, 4), (0, 12), (sat 16 d.crackOhm, 16),
    (sat 32 d.updates, 32)]

/-- WAVEFORM of a band (R425). -/
def waveBytes (s : State) (b : Nat) : List Byte :=
  let w := vget s.disp.waves b {}
  packBytes ([sgn 8 w.low, sgn 8 w.high] ++ (w.scans.toList.map (fun n => (n, 16))))

/-- Objects of group 0x0A that are not written by OBJ_WRITE. -/
def readDisplay (s : State) : Nat → Option ObjRead
  | 0x0A01 => some (single 0 (displayStateBytes s))
  | 0x0A02 => some (entries 2 12 (waveBytes s))
  | _ => none

/-! Storage and update. -/

/-- The highest of a list. -/
def highest (l : List Nat) : Nat := l.foldl max 0

/-- STORAGE_STATE (Table 14-9). -/
def storageStateBytes (s : State) : List Byte :=
  let t := s.store
  packBytes [(sat 16 t.grownBad, 16), (t.spareLeft, 8), (logWhole s, 7), (b1 t.degraded, 1), (min 7 t.free.length, 3),
    (t.reclaim.elim 0 (·.step), 3), (0, 2), (sat 16 (highest (t.segments.map (·.erases) ++ t.free.map (·.2))), 16),
    (sat 16 (highest (t.eraseOther.map (·.2))), 16), (t.refreshes, 16), (t.uncorrectable, 16), (t.writeRefused, 16), (0, 8)]

/-- IMAGE_STATE (Table 14-10). -/
def imageStateBytes (s : State) : List Byte :=
  let t := s.store
  packBytes [(runningSlot s, 1), (b1 (trialRuns s), 1), (t.trialBoots, 2), (b1 t.recoveryRom, 1), (t.settingsCopy, 1), (b1 t.oldCopy, 1), (0, 1),
    (vget t.versions 0 0, 32), (vget t.versions 1 0, 32), (hdrVersion t.stagingSlot.header, 32), (s.chain.staging, 2), (t.lastFallback, 2),
    (0, 4), (t.minVersion, 32), (stagedHeld s, 13), (0, 3)]

/-- A CHAIN_STATE entry (Table 14-11). -/
def chainEntryBytes (x : ChainPos) : List Byte :=
  let e := if x.shown then x else {}
  packBytes [(e.node, 8), (e.state, 3), (b1 e.bypassed, 1), (0, 4), (sat 16 e.blocks, 16), (sat 32 e.rate, 32)]

/-- CHAIN_STATE: the chain on its origin; on another node INDEX 0 shows the node itself (Table 14-11). -/
def chainStateBytes (s : State) (i : Nat) : List Byte :=
  if isOrigin s then chainEntryBytes (s.chain.entries.getD i {})
  else if i = 0 then
    chainEntryBytes { node := trvNode s, state := if s.chain.staging = 0 then 0 else s.chain.staging + 1, blocks := stagedHeld s,
                      rate := incomingRate s }
  else chainEntryBytes {}

/-- JOURNAL_STATE (Table 14-12). -/
def journalStateBytes (s : State) : List Byte :=
  let t := s.store
  packBytes [(min 100 (liveBytes t.metLive * 100 / metArea), 8), (min 100 (liveBytes t.appLive * 100 / appArea), 8), (sat 16 t.torn, 16),
    (t.metJseq, 64), (t.appJseq, 64), (t.compactions, 16)]

/-- Objects of group 0x0B. -/
def readStorage (s : State) : Nat → Option ObjRead
  | 0x0B00 => some (single 1 (storageStateBytes s))
  | 0x0B01 => some (single 0 (imageStateBytes s))
  | 0x0B02 => some (entries 1 64 (chainStateBytes s))
  | 0x0B03 => some (single 1 (journalStateBytes s))
  | _ => none

/-! Diagnostics. -/

/-- A CLOSURE_STATUS entry (Table 15-6). -/
def closureBytes (c : Closure) : List Byte :=
  packBytes [stampF c.root.legal, (c.id, 16), (c.root.cls.toNat, 8), (c.root.key, 16), (c.root.scope, 2), (c.root.region, 3), (0, 3),
    (c.reaction, 8), (c.outlets.toNat, 8), (sat 16 c.echo, 16), (b1 c.lateEcho, 1), (b1 c.cutShort, 1), (b1 c.acked, 1), (0, 13),
    (sat 16 c.lateCount, 16)]

/-- A CELL_MAP entry (Table 15-7). -/
def cellBytes (s : State) (i : Nat) : List Byte :=
  match cellId i with
  | some c =>
    let x := cellSt s i
    packBytes [(c.region, 3), (0, 5), (c.block, 6), (0, 2), (c.cell, 8), (x.state.toNat, 2), (0, 6), (sat 16 x.corrections, 16),
      (sat 16 x.isolations, 16), stampF x.since, (0, 16)]
  | none => List.replicate 16 0

/-- DIAG_SUMMARY (Table 15-8). -/
def diagBytes (s : State) : List Byte :=
  let f := s.faults
  let cells (p : Nat → Bool) : Nat := (f.cells.filter (fun x => p x.2.state.toNat)).length
  packBytes [maskBy 6 (fun r => f.blocks.any (fun b => b.1 == r)), (0, 2), (cells (fun k => k == 1 || k == 3), 16),
    (cells (fun k => k == 2), 16), (f.lastId, 16), (s.port.held, 11), (b1 s.port.blocked, 1), (0, 12), (s.port.downgraded, 16),
    (sat 8 (f.jobs.filter (fun j => j.2.misses != 0)).length, 8), ((f.metFaulty ||| f.linkFaulty ||| f.safetyFaulty).toNat, 8), (0, 16)]

/-- LATEST_END: the latest late finish, or the latest on-time one, which lies before the deadline (Table 15-9). -/
def latestEnd (s : State) (i : Nat) : Nat :=
  let deadline := ([0, 250, 200, 400, 500, 600, 700, 1000, 1100, 1200, 1200, 1200, 1200] : List Nat).getD (i / 8) 0
  max (assocGet {} i s.faults.jobs).latest (min deadline (Config.onTimeEnd i))

/-- DEADLINE_STATS of a job instance (Table 15-9). -/
def deadlineBytes (s : State) (i : Nat) : List Byte :=
  let x := assocGet {} i s.faults.jobs
  packBytes [(sat 16 x.misses, 16), (sat 8 x.maxRun, 8), (0, 8), (sat 16 (latestEnd s i), 16), stampF x.lastMiss]

/-- The index names a job instance; one of an outlet, an active one (R4). -/
def jobKnown (s : State) (i : Nat) : Bool :=
  decide (i % 8 < instances (i / 8)) && (!([3, 9, 10].contains (i / 8)) || s.present (i % 8))

/-- Objects of group 0x0C. -/
def readDiagnostics (s : State) : Nat → Option ObjRead
  | 0x0C02 => some (entries 1 64 (fun i => match s.faults.closures[i]? with | some c => closureBytes c | none => List.replicate 20 0))
  | 0x0C03 => some (entries 1 cellCount (cellBytes s))
  | 0x0C04 => some (single 1 (diagBytes s))
  | 0x0C05 => some { role := 1, has := jobKnown s, data := deadlineBytes s }
  | _ => none

/-! OBJ_READ. -/

/-- An object as it is read. -/
def readObject (s : State) (n : Nat) : Option ObjRead :=
  match Cfg.ofNumber n with
  | some c => some { role := c.lowest, has := fun i => c.has i s, data := fun i => c.bytes i (settled s) }
  | none =>
    match n / 256 with
    | 0x01 => readSystem s n
    | 0x02 => readFrontEnd s n
    | 0x03 => readEnergy s n
    | 0x04 => readBilling s n
    | 0x05 => readLink s n
    | 0x06 => readSwitching s n
    | 0x07 => readLoads s n
    | 0x08 => readTraverse s n
    | 0x09 => readContactless s n
    | 0x0A => readDisplay s n
    | 0x0B => readStorage s n
    | 0x0C => readDiagnostics s n
    | _ => none

/-- OBJ_READ: the reply carries OBJECT, INDEX and the data (R143, R150). -/
def objReadCmd (p : List Byte) (s : State) : Cmd :=
  let i := numAt p 2 2
  match readObject s (numAt p 0 2) with
  | some o =>
    { level := .both, form := p.length == 4, role := decide (o.role ≤ s.roles.role), params := o.has i, readOnly := true, inShutdown := true,
      run := { st := s, status := o.status i, data := p ++ o.data i } }
  | none => { level := .both, form := false, readOnly := true, inShutdown := true, run := { st := s } }

/-- OBJ_READ (R143). -/
def execObjRead (h : Hdr) (p : List Byte) (s : State) : Host.Outcome State Fault Refusal :=
  .next (hostCommand h 0x0102 p (objReadCmd p) s)

end Sys2Proof.Machine
end

