-- ==== Sys2Proof/Machine/Dispatch.lean ====
section
/-!
DEFINITION. One arm per command: a direct call of the command's meaning.
-/

namespace Sys2Proof.Machine

/-- The effect of a command on everything but the queue. -/
def exec (i : Instr) (s : State) : Host.Outcome State Fault Refusal :=
  match i with
  | .nop h p => Sys2Proof.Machine.execNop h p s
  | .objRead h p => Sys2Proof.Machine.execObjRead h p s
  | .objWrite h p => Sys2Proof.Machine.execObjWrite h p s
  | .hostPortWrite h data mask => Sys2Proof.Machine.execHostPortWrite h data mask s
  | .easementConfigWrite h data mask => Sys2Proof.Machine.execEasementConfigWrite h data mask s
  | .safetyConfigWrite h p => Sys2Proof.Machine.execSafetyConfigWrite h p s
  | .sealFieldWrite h p => Sys2Proof.Machine.execSealFieldWrite h p s
  | .tariffWrite h idx data mask => Sys2Proof.Machine.execTariffWrite h idx data mask s
  | .pulseConfigWrite h idx data mask => Sys2Proof.Machine.execPulseConfigWrite h idx data mask s
  | .energyConfigWrite h idx data mask => Sys2Proof.Machine.execEnergyConfigWrite h idx data mask s
  | .calWrite h idx data mask => Sys2Proof.Machine.execCalWrite h idx data mask s
  | .billingConfigWrite h data mask => Sys2Proof.Machine.execBillingConfigWrite h data mask s
  | .linkConfigWrite h idx data mask => Sys2Proof.Machine.execLinkConfigWrite h idx data mask s
  | .loadConfigWrite h idx data mask => Sys2Proof.Machine.execLoadConfigWrite h idx data mask s
  | .trvConfigWrite h data mask => Sys2Proof.Machine.execTrvConfigWrite h data mask s
  | .displayConfigWrite h data mask => Sys2Proof.Machine.execDisplayConfigWrite h data mask s
  | .eventAcknowledgement seq flags code len => Sys2Proof.Machine.execEventAcknowledgement seq flags code len s
  | .crcErrorPacket seq => Sys2Proof.Machine.execCrcErrorPacket seq s
  | .writeOverrun sync len received => Sys2Proof.Machine.execWriteOverrun sync len received s
  | .spiRead clocked => Sys2Proof.Machine.execSpiRead clocked s
  | .spiStatus => Sys2Proof.Machine.execSpiStatus s
  | .uartGapDiscard bytes => Sys2Proof.Machine.execUartGapDiscard bytes s
  | .eventResend seq => Sys2Proof.Machine.execEventResend seq s
  | .roleChallenge h p => Sys2Proof.Machine.execRoleChallenge h p s
  | .roleOpen h p => Sys2Proof.Machine.execRoleOpen h p s
  | .roleClose h p => Sys2Proof.Machine.execRoleClose h p s
  | .roleIdleTimeout => Sys2Proof.Machine.execRoleIdleTimeout s
  | .roleLockoutEnd role => Sys2Proof.Machine.execRoleLockoutEnd role s
  | .roleKeySet h p => Sys2Proof.Machine.execRoleKeySet h p s
  | .reset h p => Sys2Proof.Machine.execReset h p s
  | .modeSet h p => Sys2Proof.Machine.execModeSet h p s
  | .recoveryAck h p => Sys2Proof.Machine.execRecoveryAck h p s
  | .commissioningDone h p => Sys2Proof.Machine.execCommissioningDone h p s
  | .powerOn vauxMv => Sys2Proof.Machine.execPowerOn vauxMv s
  | .powerFailWarning vauxMv => Sys2Proof.Machine.execPowerFailWarning vauxMv s
  | .tailSave => Sys2Proof.Machine.execTailSave s
  | .holdDropOut stepsDone => Sys2Proof.Machine.execHoldDropOut stepsDone s
  | .pfReturn => Sys2Proof.Machine.execPfReturn s
  | .railBor => Sys2Proof.Machine.execRailBor s
  | .vauxReversed => Sys2Proof.Machine.execVauxReversed s
  | .vauxSurgeOn => Sys2Proof.Machine.execVauxSurgeOn s
  | .vauxSurgeOff => Sys2Proof.Machine.execVauxSurgeOff s
  | .vbatCheck vbatMv => Sys2Proof.Machine.execVbatCheck vbatMv s
  | .retentionLoss => Sys2Proof.Machine.execRetentionLoss s
  | .holdLowCheck vauxMv holdMv => Sys2Proof.Machine.execHoldLowCheck vauxMv holdMv s
  | .resetNAssert => Sys2Proof.Machine.execResetNAssert s
  | .resetNRelease => Sys2Proof.Machine.execResetNRelease s
  | .stuckReset => Sys2Proof.Machine.execStuckReset s
  | .resetNRearm => Sys2Proof.Machine.execResetNRearm s
  | .regionWatchdog region => Sys2Proof.Machine.execRegionWatchdog region s
  | .appWatchdog => Sys2Proof.Machine.execAppWatchdog s
  | .resetTakesEffect => Sys2Proof.Machine.execResetTakesEffect s
  | .resetRelease b => Sys2Proof.Machine.execResetRelease b s
  | .ready vbatMv => Sys2Proof.Machine.execReady vbatMv s
  | .sessionHoldExpired => Sys2Proof.Machine.execSessionHoldExpired s
  | .frameTick m => Sys2Proof.Machine.execFrameTick m s
  | .superframeTick m => Sys2Proof.Machine.execSuperframeTick m s
  | .cellErrorCorrected cell count cycle => Sys2Proof.Machine.execCellErrorCorrected cell count cycle s
  | .cellUncorrectable cell retryOk sequencer cycle => Sys2Proof.Machine.execCellUncorrectable cell retryOk sequencer cycle s
  | .lockstepMismatch cell cycle => Sys2Proof.Machine.execLockstepMismatch cell cycle s
  | .clockMonitorFault region lossNotFreq source cycle => Sys2Proof.Machine.execClockMonitorFault region lossNotFreq source cycle s
  | .supplyFault rail cycle => Sys2Proof.Machine.execSupplyFault rail cycle s
  | .deadlineMiss job inst endCycle cycle => Sys2Proof.Machine.execDeadlineMiss job inst endCycle cycle s
  | .regionMergeWindowClose region cls key => Sys2Proof.Machine.execRegionMergeWindowClose region cls key s
  | .chipWindowClose cls key => Sys2Proof.Machine.execChipWindowClose cls key s
  | .closureOpenEnd id => Sys2Proof.Machine.execClosureOpenEnd id s
  | .deferFrameReached req => Sys2Proof.Machine.execDeferFrameReached req s
  | .leaveLapse req => Sys2Proof.Machine.execLeaveLapse req s
  | .peakPhaseEnd req => Sys2Proof.Machine.execPeakPhaseEnd req s
  | .easementOverrun req => Sys2Proof.Machine.execEasementOverrun req s
  | .modInputStuck outlet input => Sys2Proof.Machine.execModInputStuck outlet input s
  | .mclkReadbackFault outlet => Sys2Proof.Machine.execMclkReadbackFault outlet s
  | .modInputValid outlet input => Sys2Proof.Machine.execModInputValid outlet input s
  | .modPllLoss cycle => Sys2Proof.Machine.execModPllLoss cycle s
  | .stepDetected outlet input place => Sys2Proof.Machine.execStepDetected outlet input place s
  | .sync h p => Sys2Proof.Machine.execSync h p s
  | .syncScheduled => Sys2Proof.Machine.execSyncScheduled s
  | .msyncEdge => Sys2Proof.Machine.execMsyncEdge s
  | .decimatorReset => Sys2Proof.Machine.execDecimatorReset s
  | .coefLoad h p => Sys2Proof.Machine.execCoefLoad h p s
  | .pathSelect h p => Sys2Proof.Machine.execPathSelect h p s
  | .fadeDone outlet path input => Sys2Proof.Machine.execFadeDone outlet path input s
  | .captureStart h p => Sys2Proof.Machine.execCaptureStart h p s
  | .captureTrigger => Sys2Proof.Machine.execCaptureTrigger s
  | .captureDone => Sys2Proof.Machine.execCaptureDone s
  | .plumbStepBoundary => Sys2Proof.Machine.execPlumbStepBoundary s
  | .plumbPeriodEnd => Sys2Proof.Machine.execPlumbPeriodEnd s
  | .toneWindowEnd outlet => Sys2Proof.Machine.execToneWindowEnd outlet s
  | .toneUnavailable outlet => Sys2Proof.Machine.execToneUnavailable outlet s
  | .pulseEnd k => Sys2Proof.Machine.execPulseEnd k s
  | .standingEnergy outlet => Sys2Proof.Machine.execStandingEnergy outlet s
  | .meterWarnClear h p => Sys2Proof.Machine.execMeterWarnClear h p s
  | .timeSet h p => Sys2Proof.Machine.execTimeSet h p s
  | .timeSetApply => Sys2Proof.Machine.execTimeSetApply s
  | .clockStep => Sys2Proof.Machine.execClockStep s
  | .tariffAnnounce h p => Sys2Proof.Machine.execTariffAnnounce h p s
  | .tariffBoundary => Sys2Proof.Machine.execTariffBoundary s
  | .calendarEntryExpiry entry => Sys2Proof.Machine.execCalendarEntryExpiry entry s
  | .demandWindowEnd => Sys2Proof.Machine.execDemandWindowEnd s
  | .demandEvaluation => Sys2Proof.Machine.execDemandEvaluation s
  | .demandReset h p => Sys2Proof.Machine.execDemandReset h p s
  | .demandResetApply => Sys2Proof.Machine.execDemandResetApply s
  | .logRead h p => Sys2Proof.Machine.execLogRead h p s
  | .logAck h p => Sys2Proof.Machine.execLogAck h p s
  | .logRecordStore => Sys2Proof.Machine.execLogRecordStore s
  | .logPageProgram ok => Sys2Proof.Machine.execLogPageProgram ok s
  | .sealOpening => Sys2Proof.Machine.execSealOpening s
  | .debugAccessAttempt => Sys2Proof.Machine.execDebugAccessAttempt s
  | .reseal h p => Sys2Proof.Machine.execReseal h p s
  | .pilotStateChange pl => Sys2Proof.Machine.execPilotStateChange pl s
  | .ppChange outlet mv => Sys2Proof.Machine.execPpChange outlet mv s
  | .pwmLeaveRetry outlet => Sys2Proof.Machine.execPwmLeaveRetry outlet s
  | .cmSlacParmReq mac run atten => Sys2Proof.Machine.execCmSlacParmReq mac run atten s
  | .soundingReceived mac run atten => Sys2Proof.Machine.execSoundingReceived mac run atten s
  | .attenCollectionEnd mac run => Sys2Proof.Machine.execAttenCollectionEnd mac run s
  | .cmSlacMatchReq mac run => Sys2Proof.Machine.execCmSlacMatchReq mac run s
  | .cmValidateReq outlet mac => Sys2Proof.Machine.execCmValidateReq outlet mac s
  | .vehicleJoin mac run => Sys2Proof.Machine.execVehicleJoin mac run s
  | .joinTimeout mac run => Sys2Proof.Machine.execJoinTimeout mac run s
  | .soundingSetTimeout mac run => Sys2Proof.Machine.execSoundingSetTimeout mac run s
  | .associationWindowEnd outlet => Sys2Proof.Machine.execAssociationWindowEnd outlet s
  | .pilotRestartEnd outlet => Sys2Proof.Machine.execPilotRestartEnd outlet s
  | .t1sLinkUp outlet mac => Sys2Proof.Machine.execT1sLinkUp outlet mac s
  | .t1sLinkLoss outlet => Sys2Proof.Machine.execT1sLinkLoss outlet s
  | .supportedAppProtocolReq outlet offered => Sys2Proof.Machine.execSupportedAppProtocolReq outlet offered s
  | .authorizationReq outlet mac method contract chain => Sys2Proof.Machine.execAuthorizationReq outlet mac method contract chain s
  | .refuseHoldExpiry outlet => Sys2Proof.Machine.execRefuseHoldExpiry outlet s
  | .authDeadlineExpiry outlet => Sys2Proof.Machine.execAuthDeadlineExpiry outlet s
  | .authDecide h p => Sys2Proof.Machine.execAuthDecide h p s
  | .linkStop h p => Sys2Proof.Machine.execLinkStop h p s
  | .stopGraceExpiry outlet => Sys2Proof.Machine.execStopGraceExpiry outlet s
  | .protocolTimerExpiry outlet => Sys2Proof.Machine.execProtocolTimerExpiry outlet s
  | .seccCsr h p => Sys2Proof.Machine.execSeccCsr h p s
  | .seccCertSet h p => Sys2Proof.Machine.execSeccCertSet h p s
  | .cableCheckReq outlet maxV => Sys2Proof.Machine.execCableCheckReq outlet maxV s
  | .prechargeReq outlet target => Sys2Proof.Machine.execPrechargeReq outlet target s
  | .powerDeliveryReq outlet start => Sys2Proof.Machine.execPowerDeliveryReq outlet start s
  | .currentDemandReq outlet amps10 => Sys2Proof.Machine.execCurrentDemandReq outlet amps10 s
  | .pullInEnd driver => Sys2Proof.Machine.execPullInEnd driver s
  | .mirrorConfirmed driver readsOn => Sys2Proof.Machine.execMirrorConfirmed driver readsOn s
  | .feedbackTimeout driver cycle => Sys2Proof.Machine.execFeedbackTimeout driver cycle s
  | .driverFault driver cause cycle => Sys2Proof.Machine.execDriverFault driver cause cycle s
  | .driverOffTimer driver => Sys2Proof.Machine.execDriverOffTimer driver s
  | .shortTestEnd outlet => Sys2Proof.Machine.execShortTestEnd outlet s
  | .ccTimeout outlet => Sys2Proof.Machine.execCcTimeout outlet s
  | .contactorNotConducting outlet => Sys2Proof.Machine.execContactorNotConducting outlet s
  | .rampLate outlet => Sys2Proof.Machine.execRampLate outlet s
  | .rampForced outlet => Sys2Proof.Machine.execRampForced outlet s
  | .fastOvercurrent outlet v1 v2 => Sys2Proof.Machine.execFastOvercurrent outlet v1 v2 s
  | .weldVoltageTestEnd outlet => Sys2Proof.Machine.execWeldVoltageTestEnd outlet s
  | .busJoin h p => Sys2Proof.Machine.execBusJoin h p s
  | .segmentVoltageMatched segment => Sys2Proof.Machine.execSegmentVoltageMatched segment s
  | .busRelease h p => Sys2Proof.Machine.execBusRelease h p s
  | .pmTargetTransmit bus => Sys2Proof.Machine.execPmTargetTransmit bus s
  | .pmStatusFrame module payload => Sys2Proof.Machine.execPmStatusFrame module payload s
  | .pmFaultFrame module payload => Sys2Proof.Machine.execPmFaultFrame module payload s
  | .pmLost module => Sys2Proof.Machine.execPmLost module s
  | .safetyInputDemand input a b => Sys2Proof.Machine.execSafetyInputDemand input a b s
  | .safetyDemandEnd input a b => Sys2Proof.Machine.execSafetyDemandEnd input a b s
  | .discrepancyTimeout input => Sys2Proof.Machine.execDiscrepancyTimeout input s
  | .inputTestPulse k readsOff => Sys2Proof.Machine.execInputTestPulse k readsOff s
  | .driverTestPulse driver padOk cycle => Sys2Proof.Machine.execDriverTestPulse driver padOk cycle s
  | .safetyReset h p => Sys2Proof.Machine.execSafetyReset h p s
  | .startupTest h p => Sys2Proof.Machine.execStartupTest h p s
  | .startupTestTimeout => Sys2Proof.Machine.execStartupTestTimeout s
  | .weldClear h p => Sys2Proof.Machine.execWeldClear h p s
  | .auxContactor h p => Sys2Proof.Machine.execAuxContactor h p s
  | .loadSet h p => Sys2Proof.Machine.execLoadSet h p s
  | .loadBankReset h p => Sys2Proof.Machine.execLoadBankReset h p s
  | .inrushWindowEnd ch => Sys2Proof.Machine.execInrushWindowEnd ch s
  | .pwmPeriodBoundary bank => Sys2Proof.Machine.execPwmPeriodBoundary bank s
  | .thermalShutdown ch ma temp => Sys2Proof.Machine.execThermalShutdown ch ma temp s
  | .thermalLatchRelease ch temp => Sys2Proof.Machine.execThermalLatchRelease ch temp s
  | .channelOverload ch ma temp => Sys2Proof.Machine.execChannelOverload ch ma temp s
  | .openLoadDetected ch => Sys2Proof.Machine.execOpenLoadDetected ch s
  | .openLoadCleared ch => Sys2Proof.Machine.execOpenLoadCleared ch s
  | .retryWaitEnd ch => Sys2Proof.Machine.execRetryWaitEnd ch s
  | .retriesReset ch => Sys2Proof.Machine.execRetriesReset ch s
  | .bankUndervoltage bank vbbMv => Sys2Proof.Machine.execBankUndervoltage bank vbbMv s
  | .bankOvervoltage bank vbbMv => Sys2Proof.Machine.execBankOvervoltage bank vbbMv s
  | .bankGroundLoss bank vbbMv => Sys2Proof.Machine.execBankGroundLoss bank vbbMv s
  | .bankReverseSupply bank => Sys2Proof.Machine.execBankReverseSupply bank s
  | .bankOverload bank vbbMv => Sys2Proof.Machine.execBankOverload bank vbbMv s
  | .bankHoldRelease bank cause vbbMv good100ms => Sys2Proof.Machine.execBankHoldRelease bank cause vbbMv good100ms s
  | .trvSend h p => Sys2Proof.Machine.execTrvSend h p s
  | .trvKeySet h p => Sys2Proof.Machine.execTrvKeySet h p s
  | .trvKeyUse h p => Sys2Proof.Machine.execTrvKeyUse h p s
  | .trvKeySwitch => Sys2Proof.Machine.execTrvKeySwitch s
  | .datumEdge rising gridMhz phaseDeg => Sys2Proof.Machine.execDatumEdge rising gridMhz phaseDeg s
  | .datumLoss => Sys2Proof.Machine.execDatumLoss s
  | .beaconSlot slot => Sys2Proof.Machine.execBeaconSlot slot s
  | .beaconReceived b => Sys2Proof.Machine.execBeaconReceived b s
  | .lockTimeout => Sys2Proof.Machine.execLockTimeout s
  | .contentionAccess backoff => Sys2Proof.Machine.execContentionAccess backoff s
  | .trvFrameReceived f => Sys2Proof.Machine.execTrvFrameReceived f s
  | .selectiveAckReceived fc => Sys2Proof.Machine.execSelectiveAckReceived fc s
  | .trvPacketReceived b => Sys2Proof.Machine.execTrvPacketReceived b s
  | .trvConfirmationTimeout handle => Sys2Proof.Machine.execTrvConfirmationTimeout handle s
  | .routingAdvertisement => Sys2Proof.Machine.execRoutingAdvertisement s
  | .routingWindowEnd => Sys2Proof.Machine.execRoutingWindowEnd s
  | .neighbourUnusable node => Sys2Proof.Machine.execNeighbourUnusable node s
  | .noRouteDrop tag => Sys2Proof.Machine.execNoRouteDrop tag s
  | .trvGrantRetry => Sys2Proof.Machine.execTrvGrantRetry s
  | .pollCycle amplitudeMv => Sys2Proof.Machine.execPollCycle amplitudeMv s
  | .readerRoundEnd cards => Sys2Proof.Machine.execReaderRoundEnd cards s
  | .cardHoldTimeout => Sys2Proof.Machine.execCardHoldTimeout s
  | .cardApdu h p => Sys2Proof.Machine.execCardApdu h p s
  | .cardApduDone result response => Sys2Proof.Machine.execCardApduDone result response s
  | .wtagSelect aid => Sys2Proof.Machine.execWtagSelect aid s
  | .wtagReadBinary block le => Sys2Proof.Machine.execWtagReadBinary block le s
  | .getLiveStatus le harvestMv => Sys2Proof.Machine.execGetLiveStatus le harvestMv s
  | .appendNote harvestMv reserveMv data lastStep => Sys2Proof.Machine.execAppendNote harvestMv reserveMv data lastStep s
  | .visitNoteImport => Sys2Proof.Machine.execVisitNoteImport s
  | .totalsSnapshot waitUs => Sys2Proof.Machine.execTotalsSnapshot waitUs s
  | .displayWrite h p => Sys2Proof.Machine.execDisplayWrite h p s
  | .displayUpdate h p => Sys2Proof.Machine.execDisplayUpdate h p s
  | .displayLight h p => Sys2Proof.Machine.execDisplayLight h p s
  | .wfLoad h p => Sys2Proof.Machine.execWfLoad h p s
  | .scanStart temp crackOhm => Sys2Proof.Machine.execScanStart temp crackOhm s
  | .waveformEnd rect => Sys2Proof.Machine.execWaveformEnd rect s
  | .railStartDone => Sys2Proof.Machine.execRailStartDone s
  | .railFeedbackTimeout rail => Sys2Proof.Machine.execRailFeedbackTimeout rail s
  | .railRetry => Sys2Proof.Machine.execRailRetry s
  | .railFallStart => Sys2Proof.Machine.execRailFallStart s
  | .panelTempReading temp => Sys2Proof.Machine.execPanelTempReading temp s
  | .crackCheck ohm10 ohm10b => Sys2Proof.Machine.execCrackCheck ohm10 ohm10b s
  | .displayRequestRetry rect => Sys2Proof.Machine.execDisplayRequestRetry rect s
  | .aonRefresh => Sys2Proof.Machine.execAonRefresh s
  | .benchmarkTotalsRedraw => Sys2Proof.Machine.execBenchmarkTotalsRedraw s
  | .updateStart h p => Sys2Proof.Machine.execUpdateStart h p s
  | .stagingSlotReady => Sys2Proof.Machine.execStagingSlotReady s
  | .updateData h p => Sys2Proof.Machine.execUpdateData h p s
  | .updateAbort h p => Sys2Proof.Machine.execUpdateAbort h p s
  | .imageActivate h p => Sys2Proof.Machine.execImageActivate h p s
  | .activationCopyDone tagsOk => Sys2Proof.Machine.execActivationCopyDone tagsOk s
  | .confirmImage h p => Sys2Proof.Machine.execConfirmImage h p s
  | .chainOffer src origin header nodes position => Sys2Proof.Machine.execChainOffer src origin header nodes position s
  | .chainAnswer src imageId result firstBlock => Sys2Proof.Machine.execChainAnswer src imageId result firstBlock s
  | .chainBlock src imageId block half data tag => Sys2Proof.Machine.execChainBlock src imageId block half data tag s
  | .chainBlockAck src imageId highest => Sys2Proof.Machine.execChainBlockAck src imageId highest s
  | .chainProgress src imageId highest rate => Sys2Proof.Machine.execChainProgress src imageId highest rate s
  | .chainProgressSend => Sys2Proof.Machine.execChainProgressSend s
  | .chainReroute src imageId next position => Sys2Proof.Machine.execChainReroute src imageId next position s
  | .chainAbort src imageId => Sys2Proof.Machine.execChainAbort src imageId s
  | .chainDone src imageId result => Sys2Proof.Machine.execChainDone src imageId result s
  | .chainReceiverSilent => Sys2Proof.Machine.execChainReceiverSilent s
  | .chainStall => Sys2Proof.Machine.execChainStall s
  | .updateProgress => Sys2Proof.Machine.execUpdateProgress s
  | .reclaimStart refreshSegment => Sys2Proof.Machine.execReclaimStart refreshSegment s
  | .reclaimStepDone ok => Sys2Proof.Machine.execReclaimStepDone ok s
  | .uartPacketSend hcsLow => Sys2Proof.Machine.execUartPacketSend hcsLow s
  | .resetDelayEnd => Sys2Proof.Machine.execResetDelayEnd s
  | .unknownOpcodeCommand h opcode p => Sys2Proof.Machine.execUnknownOpcodeCommand h opcode p s
  | .loadLeaveRetry ch => Sys2Proof.Machine.execLoadLeaveRetry ch s
  | .readerLeaveRenew => Sys2Proof.Machine.execReaderLeaveRenew s
  | .selectiveAckMissing dst frameSeq => Sys2Proof.Machine.execSelectiveAckMissing dst frameSeq s
  | .v2gRequest outlet kind => Sys2Proof.Machine.execV2gRequest outlet kind s
  | .wtagFieldChange present harvestMv => Sys2Proof.Machine.execWtagFieldChange present harvestMv s
  | .railFallDone => Sys2Proof.Machine.execRailFallDone s
  | .nandBlockRefresh partition block uncorrectable => Sys2Proof.Machine.execNandBlockRefresh partition block uncorrectable s

end Sys2Proof.Machine
end

