-- ==== Sys2Proof/Safety.lean ====
section
/-!
DEFINITION. What counts as a safe run, in the terms that claims use.
-/

namespace Sys2Proof.Safety

open Sys2Proof.Machine

/-- A step that goes on. -/
def StepsTo (s t : State) : Prop := step s = .next t

/-- A state that runs of the machine lead to from s. -/
inductive Reach (s : State) : State → Prop where
  | here : Reach s s
  | more (t u : State) : Reach s t → StepsTo t u → Reach s u

/-- A property that every step keeps. -/
def Keeps (inv : State → Prop) : Prop := ∀ s t, inv s → StepsTo s t → inv t

/-- A property that every step keeps holds of every state that is reached (the induction of runs, once). -/
theorem Keeps.reach {inv : State → Prop} (h : Keeps inv) {s t : State} (hs : inv s) (r : Reach s t) : inv t := by
  induction r with
  | here => exact hs
  | more t u _ hu ih => exact h t u ih hu

/-- The parts of the state (the top level of State). -/
inductive Part where
  | factory | clock | power | rst | modes | port | roles | faults | ease | fe | energy | billing
  | seals | log | link | sw | loads | trv | rdr | tag | disp | chain | store | pending
deriving DecidableEq, Repr

/-- A part has the same content in two states. -/
def Part.same (s t : State) : Part → Prop
  | .factory => t.factory = s.factory
  | .clock => t.clock = s.clock
  | .power => t.power = s.power
  | .rst => t.rst = s.rst
  | .modes => t.modes = s.modes
  | .port => t.port = s.port
  | .roles => t.roles = s.roles
  | .faults => t.faults = s.faults
  | .ease => t.ease = s.ease
  | .fe => t.fe = s.fe
  | .energy => t.energy = s.energy
  | .billing => t.billing = s.billing
  | .seals => t.seals = s.seals
  | .log => t.log = s.log
  | .link => t.link = s.link
  | .sw => t.sw = s.sw
  | .loads => t.loads = s.loads
  | .trv => t.trv = s.trv
  | .rdr => t.rdr = s.rdr
  | .tag => t.tag = s.tag
  | .disp => t.disp = s.disp
  | .chain => t.chain = s.chain
  | .store => t.store = s.store
  | .pending => t.pending = s.pending

/-- Every part outside a list is as it was: registers, flags, counters, latches, memories and queues. -/
def OnlyChanges (l : List Part) (s t : State) : Prop := ∀ p, p ∉ l → p.same s t

/-- A command packet that reaches the checks of Table 4-7 and is executed for the first time: the host port runs, fewer than 8
commands wait for their reply, no shutdown, no retransmission, FLAGS of a command without EXPERT (R118, R131, R135). -/
structure Accepted (h : Hdr) (opcode : Nat) (p : List Byte) (s : State) : Prop where
  runs : s.portRuns = true
  free : s.port.awaiting.length < 8
  short : p.length ≤ 4096
  fresh : s.port.kept.find? (fun k => k.seq == h.seq && k.crc == commandCrc h opcode p) = none
  rom : s.inRom = true → romCommands.contains opcode = true
  up : s.shutting = false
  flags : commandFlags h.flags = true
  basic : flagExpert h.flags = false

/-- The same for a command in its expert form (R150). -/
structure AcceptedExpert (h : Hdr) (opcode : Nat) (p : List Byte) (s : State) : Prop where
  runs : s.portRuns = true
  free : s.port.awaiting.length < 8
  short : p.length ≤ 4096
  fresh : s.port.kept.find? (fun k => k.seq == h.seq && k.crc == commandCrc h opcode p) = none
  rom : s.inRom = true → romCommands.contains opcode = true
  up : s.shutting = false
  flags : commandFlags h.flags = true
  expert : flagExpert h.flags = true
  role : 2 ≤ s.roles.role

/-- The reply of a command: SEQ and EXPERT of the command, its OPCODE, a status and result data (R133). -/
def commandReply (h : Hdr) (opcode : Nat) (st : Status) (data : List Byte) : Reply :=
  { seq := h.seq, flags := if flagExpert h.flags then 0x05 else 0x01, opcode := opcode, status := st, payload := data }

/-- t with what the host has read of s during a packet: on SPI the status byte as it stood, on HIO1 with the code byte (R119, R120). -/
def shown (s t : State) : State :=
  if bit s.rst.straps 5 then { t with port := { t.port with statusOut := [statusByte s], lanes := singleLane (statusByte s) } } else t

/-- t with the reply of a command executed in s queued, and kept for a retransmission (R119, R131, R133). -/
def answered (s : State) (h : Hdr) (opcode : Nat) (p : List Byte) (st : Status) (data : List Byte) (t : State) : State :=
  let r := commandReply h opcode st data
  shown s { t with port := { t.port with
      replies := t.port.replies ++ [r], kept := ({ seq := h.seq, crc := commandCrc h opcode p, reply := r } :: t.port.kept).take 16 } }

/-- t with the status reply of a command that s has not executed: queued, and not kept (R119, R131, R135). -/
def refusedIn (s : State) (h : Hdr) (opcode : Nat) (st : Status) (t : State) : State :=
  shown s { t with port := { t.port with replies := t.port.replies ++ [commandReply h opcode st []] } }

/-- s with the status reply of a command that it has not executed. -/
def turnedAway (s : State) (h : Hdr) (opcode : Nat) (st : Status) : State := refusedIn s h opcode st (touchRole s)

/-- The parts that a write of an object may change before the frame tick (R116, R144, R217, R235, R263, R336). -/
def cfgParts : Cfg → List Part
  | .modulator | .tone | .energy | .verify | .cal => [.port, .seals, .log, .tag, .store]
  | .pulse => [.port, .energy, .seals, .log, .tag, .store]
  | .billing => [.clock, .port, .energy, .billing, .seals, .log, .tag, .store]
  | .tariff => [.port, .billing, .store]
  | .switching | .drivers | .modules | .plumb | .safetyIn | .moduleBus => [.modes, .port, .energy, .billing, .log, .sw, .tag, .store]
  | .hostPort | .easement | .link | .linkGlobal | .load | .bank | .traverse | .reader | .tag | .display => [.port, .store]

/-- The parts that OBJ_WRITE may change, by the OBJECT in its payload (R144). -/
def writeParts (p : List Byte) : List Part :=
  match Cfg.ofNumber (numAt p 0 2) with
  | some c => cfgParts c
  | none => []

/-- The parts that a packet with header h may change: those of an acknowledgement where REPLY and EVENT are set, whatever command the packet
names, and l where they are not (R139). -/
def taken (h : Hdr) (l : List Part) : List Part := if isAck h.flags then [.port, .faults, .store] else l

/-- The parts of the state that each command may change: its frame. -/
def parts : Instr → List Part
  | .nop h _ | .objRead h _ | .roleKeySet h _ | .logRead h _ | .unknownOpcodeCommand h _ _ => taken h [.port, .roles]
  | .roleOpen h _ | .roleClose h _ | .confirmImage h _ => taken h [.port, .roles, .store]
  | .eventAcknowledgement .. | .chipWindowClose .. => [.port, .faults, .store]
  | .crcErrorPacket .. | .writeOverrun .. | .spiStatus | .uartGapDiscard .. | .eventResend .. => [.port]
  | .spiRead .. | .uartPacketSend .. => [.rst, .port, .store]
  | .roleChallenge h _ => taken h [.factory, .port, .roles]
  | .roleIdleTimeout => [.port, .roles, .store]
  | .roleLockoutEnd .. => [.roles]
  | .reset h _ => taken h [.rst, .port, .roles, .ease, .billing, .link, .sw, .store]
  | .modeSet h _ => taken h [.modes, .port, .roles, .energy, .billing, .log, .tag, .store]
  | .recoveryAck h _ => taken h [.modes, .port, .roles, .ease, .energy, .billing, .log, .tag, .store]
  | .commissioningDone h _ => taken h [.rst, .modes, .port, .roles, .energy, .billing, .log, .tag, .store]
  | .powerOn .. => [.power, .rst]
  | .powerFailWarning .. | .vauxReversed => [.power, .rst, .port, .ease, .energy, .billing, .sw, .loads, .trv, .rdr, .disp, .store]
  | .tailSave => [.energy, .store]
  | .pulseEnd .. => [.energy]
  | .holdDropOut .. => [.factory, .clock, .power, .rst, .modes, .port, .roles, .faults, .ease, .fe, .energy, .billing, .seals, .log,
      .link, .sw, .loads, .trv, .rdr, .tag, .disp, .chain, .store]
  | .pfReturn => [.power, .rst, .port, .ease, .energy, .billing, .link, .sw, .loads, .trv, .rdr, .disp, .store]
  | .resetNAssert | .resetDelayEnd => [.rst, .port, .ease, .energy, .billing, .link, .sw, .loads, .trv, .rdr, .disp, .store]
  | .railBor => [.factory, .power, .rst, .port, .ease, .energy, .billing, .link, .sw, .loads, .trv, .rdr, .disp, .store]
  | .vauxSurgeOn | .vauxSurgeOff => [.power, .port, .ease, .loads, .store]
  | .vbatCheck .. => [.power, .port, .store]
  | .retentionLoss | .holdLowCheck .. => [.power]
  | .resetNRelease | .stuckReset | .resetNRearm => [.rst]
  | .regionWatchdog .. | .appWatchdog | .lockstepMismatch .. | .supplyFault ..
    | .cellUncorrectable .. => [.rst, .port, .faults, .ease, .energy, .billing, .link, .sw, .loads, .trv, .rdr, .disp, .store]
  | .deadlineMiss ..
    | .clockMonitorFault .. => [.rst, .port, .faults, .ease, .fe, .energy, .billing, .link, .sw, .loads, .trv, .rdr, .disp, .store]
  | .resetTakesEffect => [.clock, .power, .rst, .modes, .port, .roles, .faults, .ease, .fe, .energy, .billing, .seals, .log, .link, .sw,
      .loads, .trv, .rdr, .tag, .disp, .chain, .store]
  | .resetRelease .. => [.clock, .power, .rst, .modes, .port, .faults, .ease, .fe, .energy, .billing, .seals, .log, .link, .sw, .loads,
      .trv, .rdr, .tag, .disp, .store]
  | .ready .. => [.factory, .power, .rst, .modes, .port, .ease, .energy, .billing, .log, .sw, .trv, .tag, .disp, .chain, .store]
  | .sessionHoldExpired => [.rst, .port, .ease, .billing, .link, .sw, .store]
  | .frameTick .. => [.clock, .power, .rst, .modes, .port, .faults, .ease, .fe, .energy, .billing, .seals, .log, .link, .sw, .loads,
      .trv, .rdr, .tag, .disp, .chain, .store]
  | .superframeTick .. => [.clock, .power, .modes, .port, .faults, .ease, .fe, .energy, .billing, .seals, .log, .tag, .store]
  | .cellErrorCorrected .. | .regionMergeWindowClose .. | .closureOpenEnd .. => [.faults]
  | .deferFrameReached .. | .leaveLapse .. => [.port, .ease, .billing, .link, .sw, .loads, .trv, .rdr, .tag, .disp, .store]
  | .peakPhaseEnd .. => [.ease]
  | .easementOverrun .. => [.port, .ease, .store]
  | .modInputStuck .. | .mclkReadbackFault .. => [.port, .ease, .fe, .energy, .billing, .link, .sw, .store]
  | .plumbPeriodEnd => [.port, .ease, .fe, .billing, .link, .sw, .store]
  | .modInputValid .. | .syncScheduled | .msyncEdge | .decimatorReset | .fadeDone .. | .captureDone => [.port, .fe, .store]
  | .modPllLoss .. => [.port, .faults, .ease, .fe, .energy, .billing, .link, .sw, .store]
  | .stepDetected .. | .captureTrigger | .plumbStepBoundary => [.fe]
  | .sync h _ => taken h [.port, .roles, .fe, .store]
  | .coefLoad h _ | .pathSelect h _ | .captureStart h _ => taken h [.port, .roles, .fe]
  | .toneWindowEnd .. => [.port, .fe, .energy, .store]
  | .toneUnavailable .. | .standingEnergy .. => [.port, .energy, .store]
  | .meterWarnClear h _ => taken h [.port, .roles, .energy, .log, .tag, .store]
  | .timeSet h _ => taken h [.clock, .port, .roles, .store]
  | .timeSetApply | .tariffBoundary | .demandResetApply | .clockStep | .demandWindowEnd
    | .demandEvaluation => [.clock, .port, .billing, .log, .tag, .store]
  | .tariffAnnounce h _ | .demandReset h _ => taken h [.port, .roles, .billing]
  | .calendarEntryExpiry .. => [.billing]
  | .logAck h _ => taken h [.port, .roles, .log, .store]
  | .logRecordStore => [.modes, .port, .log, .tag, .store]
  | .logPageProgram .. => [.port, .log, .store]
  | .sealOpening | .debugAccessAttempt => [.modes, .port, .energy, .billing, .seals, .log, .tag, .store]
  | .reseal h _ => taken h [.port, .roles, .seals, .log, .tag, .store]
  | .pilotStateChange .. | .ppChange .. | .t1sLinkLoss .. | .supportedAppProtocolReq .. | .stopGraceExpiry .. | .protocolTimerExpiry ..
    | .cableCheckReq .. | .powerDeliveryReq .. | .mirrorConfirmed .. | .shortTestEnd .. | .ccTimeout .. | .contactorNotConducting ..
    | .fastOvercurrent .. | .pmStatusFrame .. | .pmFaultFrame .. | .pmLost .. | .safetyInputDemand .. | .discrepancyTimeout ..
    | .inputTestPulse .. | .v2gRequest .. => [.port, .ease, .billing, .link, .sw, .store]
  | .weldVoltageTestEnd .. | .feedbackTimeout .. | .driverFault ..
    | .driverTestPulse .. => [.port, .faults, .ease, .billing, .link, .sw, .store]
  | .pwmLeaveRetry .. => [.ease, .link]
  | .cmSlacParmReq .. | .attenCollectionEnd .. => [.factory, .port, .ease, .link, .store]
  | .soundingReceived .. | .soundingSetTimeout .. | .pilotRestartEnd .. | .cmValidateReq .. => [.link]
  | .cmSlacMatchReq .. => [.factory, .link]
  | .vehicleJoin .. | .t1sLinkUp .. | .authorizationReq .. => [.port, .link, .store]
  | .joinTimeout .. | .associationWindowEnd .. | .refuseHoldExpiry .. | .authDeadlineExpiry .. => [.port, .ease, .link, .store]
  | .authDecide h _ => taken h [.port, .roles, .ease, .link, .store]
  | .linkStop h _ | .seccCertSet h _ => taken h [.port, .roles, .link]
  | .seccCsr h _ => taken h [.factory, .port, .roles, .link]
  | .prechargeReq .. => [.port, .link, .sw, .store]
  | .currentDemandReq .. => [.link, .sw]
  | .pullInEnd .. | .driverOffTimer .. | .segmentVoltageMatched .. => [.ease, .sw]
  | .rampLate .. | .pmTargetTransmit .. => [.sw]
  | .rampForced .. => [.port, .ease, .sw, .store]
  | .busJoin h _ | .busRelease h _ => taken h [.port, .roles, .sw]
  | .safetyReset h _ | .startupTest h _ | .weldClear h _ => taken h [.port, .roles, .sw, .store]
  | .safetyDemandEnd .. | .startupTestTimeout => [.port, .sw, .store]
  | .auxContactor h _ => taken h [.port, .roles, .ease, .sw]
  | .loadSet h _ | .loadBankReset h _ => taken h [.port, .roles, .ease, .loads, .store]
  | .inrushWindowEnd .. | .thermalShutdown .. | .channelOverload .. | .retryWaitEnd .. | .bankUndervoltage .. | .bankOvervoltage ..
    | .bankGroundLoss .. | .bankReverseSupply .. | .bankOverload .. | .bankHoldRelease .. => [.port, .ease, .loads, .store]
  | .pwmPeriodBoundary .. | .thermalLatchRelease .. | .retriesReset .. => [.loads]
  | .openLoadDetected .. | .openLoadCleared .. => [.port, .loads, .store]
  | .trvSend h _ => taken h [.port, .roles, .trv, .store]
  | .trvKeySet h _ | .trvKeyUse h _ => taken h [.port, .roles, .trv]
  | .trvKeySwitch | .routingAdvertisement | .trvFrameReceived .. => [.trv]
  | .datumEdge .. | .datumLoss | .lockTimeout | .selectiveAckReceived .. | .trvConfirmationTimeout .. | .routingWindowEnd
    | .neighbourUnusable .. | .noRouteDrop .. | .selectiveAckMissing .. | .trvPacketReceived ..
    | .contentionAccess .. => [.port, .trv, .store]
  | .beaconSlot .. => [.factory, .trv]
  | .beaconReceived .. => [.factory, .port, .trv, .store]
  | .trvGrantRetry => [.ease, .trv]
  | .pollCycle .. | .readerRoundEnd .. | .cardApduDone .. => [.port, .ease, .rdr, .store]
  | .cardHoldTimeout | .readerLeaveRenew => [.ease, .rdr]
  | .cardApdu h _ => taken h [.port, .roles, .rdr]
  | .wtagSelect .. | .wtagReadBinary .. | .getLiveStatus .. | .wtagFieldChange .. | .appendNote .. | .totalsSnapshot .. => [.tag]
  | .visitNoteImport => [.ease, .tag]
  | .displayWrite h _ | .displayUpdate h _ | .wfLoad h _ => taken h [.port, .roles, .ease, .disp]
  | .displayLight h _ => taken h [.port, .roles, .disp, .store]
  | .scanStart .. | .panelTempReading .. => [.port, .ease, .disp, .store]
  | .waveformEnd .. | .crackCheck .. => [.port, .ease, .billing, .disp, .store]
  | .railStartDone | .railRetry | .railFallStart | .railFallDone => [.disp]
  | .railFeedbackTimeout .. => [.port, .faults, .ease, .billing, .disp, .store]
  | .displayRequestRetry .. | .aonRefresh | .benchmarkTotalsRedraw => [.ease, .disp]
  | .updateStart h _ | .updateAbort h _ => taken h [.port, .roles, .ease, .trv, .chain, .store]
  | .stagingSlotReady | .chainBlock .. | .chainProgress .. => [.port, .trv, .chain, .store]
  | .updateData h _ => taken h [.port, .roles, .trv, .chain, .store]
  | .imageActivate h _ => taken h [.modes, .port, .roles, .ease, .store]
  | .activationCopyDone .. => [.rst, .modes, .port, .ease, .energy, .billing, .link, .sw, .loads, .trv, .rdr, .disp, .store]
  | .chainOffer .. => [.ease, .trv, .chain, .store]
  | .chainAnswer .. | .chainBlockAck .. | .chainProgressSend | .chainReroute .. | .chainReceiverSilent => [.trv, .chain]
  | .chainAbort .. => [.port, .ease, .chain, .store]
  | .chainDone .. | .updateProgress => [.port, .chain, .store]
  | .chainStall => [.port, .ease, .trv, .chain, .store]
  | .reclaimStart .. => [.store]
  | .reclaimStepDone .. => [.port, .ease, .log, .store]
  | .loadLeaveRetry .. => [.ease, .loads]
  | .nandBlockRefresh .. => [.factory, .port, .ease, .log, .store]
  | .objWrite h p => taken h ([.port, .roles] ++ writeParts p)
  | .hostPortWrite h _ _ => taken h ([.port, .roles] ++ cfgParts .hostPort)
  | .easementConfigWrite h _ _ => taken h ([.port, .roles] ++ cfgParts .easement)
  | .safetyConfigWrite h p => taken h ([.port, .roles] ++ writeParts p)
  | .sealFieldWrite h p => taken h ([.port, .roles] ++ writeParts p)
  | .tariffWrite h _ _ _ => taken h ([.port, .roles] ++ cfgParts .tariff)
  | .pulseConfigWrite h _ _ _ => taken h ([.port, .roles] ++ cfgParts .pulse)
  | .energyConfigWrite h _ _ _ => taken h ([.port, .roles] ++ cfgParts .energy)
  | .calWrite h _ _ _ => taken h ([.port, .roles] ++ cfgParts .cal)
  | .billingConfigWrite h _ _ => taken h ([.port, .roles] ++ cfgParts .billing)
  | .linkConfigWrite h _ _ _ => taken h ([.port, .roles] ++ cfgParts .link)
  | .loadConfigWrite h _ _ _ => taken h ([.port, .roles] ++ cfgParts .load)
  | .trvConfigWrite h _ _ => taken h ([.port, .roles] ++ cfgParts .traverse)
  | .displayConfigWrite h _ _ => taken h ([.port, .roles] ++ cfgParts .display)

end Sys2Proof.Safety
end

