-- ==== Sys2Proof/Certificates/Slice0/Obligations.lean ====
section
/-!
DEFINITION. The statements for the provers. Each says of one or more commands what the rules give: that the command completes, the next
state, and that nothing else changes. Parts of the state are named as in Safety.
-/

open Sys2Proof Sys2Proof.Machine Sys2Proof.Safety

/-- O1. The block executes the command at the front of its queue, on the state with the rest of the queue. -/
def Obligations.StepRunsFrontCommand : Prop :=
  ∀ (c : Instr) (rest : List Instr) (s : State),
    step { s with pending := c :: rest } = Machine.exec c { s with pending := rest }

/-- O2. With no command waiting the block idles (the model's choice, log 6), and no word spells a command. -/
def Obligations.EmptyQueueIdles : Prop :=
  (∀ s : State, s.pending = [] → step s = .next s) ∧ (∀ nbits w, decodeTableWord nbits w = none) ∧
    (∀ (s : State) nbits w, s.withFetchWord nbits w = s)

/-- O3. What a command leaves as it was: the queue of waiting commands, and the identity that manufacture fixed, so that an HX4 never
has more than four outlets (R2). -/
def Obligations.EffectsSpareQueueAndIdentity : Prop :=
  ∀ (c : Instr) (s t : State), Machine.exec c s = .next t →
    t.pending = s.pending ∧ t.factory.variant = s.factory.variant ∧ t.factory.serial = s.factory.serial ∧
      (s.factory.variant = .hx4 → t.outletCount = 4)

/-- The addressed buffers in canonical form: the witness store reads 0x00 and the panel's two images 15 where nothing is listed. -/
def Sys2Proof.Safety.BuffersCanonical (s : State) : Prop :=
  Memory.wf 0 s.tag.store = true ∧ Memory.wf 15 s.disp.shown = true ∧ Memory.wf 15 s.disp.target = true

/-- O4. The buffers are in canonical form as the device leaves manufacture. -/
def Obligations.BuffersCanonicalAtReset : Prop := BuffersCanonical State.reset

/-- O5. Every step keeps the canonical form of the witness store and of the panel. -/
def Obligations.StepsKeepBuffersCanonical : Prop := Keeps BuffersCanonical

/-- O6. Frames only count up, SEQUENCE and the session counter never fall, and the debug lock once set stays (R21, R63, R255, R256), in
every run. -/
def Obligations.CountersNeverFall : Prop :=
  ∀ s t : State, Reach s t →
    s.clock.tick ≤ t.clock.tick ∧ s.log.seq ≤ t.log.seq ∧ s.billing.sessionCtr ≤ t.billing.sessionCtr ∧
      (s.rst.debugLocked = true → t.rst.debugLocked = true)

/-- O7. Nothing but an executed RESEAL clears SEAL_BROKEN: not closing the loop, no reset, no loss of supply (R261, R264). -/
def Obligations.OnlyResealClearsBrokenSeal : Prop :=
  ∀ (c : Instr) (s t : State), Machine.exec c s = .next t → s.seals.broken = true → t.seals.broken = false → ∃ h p, c = .reseal h p

/-- O8. The device right after manufacture, in the POWER-ON reset of its first start (R87, R93, R145, R255, R256): what the rules give. -/
def Obligations.ResetStateHolds : Prop :=
  State.reset.rst.phase = .held 0 ∧ State.reset.rst.asserted = [0] ∧ State.reset.roles.role = 0 ∧ State.reset.modes.mode = .standby ∧
    State.reset.log.seq = 1 ∧ State.reset.billing.sessionCtr = 1 ∧ State.reset.pending = [] ∧ State.reset.port.kept = [] ∧
    State.reset.port.replies = [] ∧ State.reset.anySession = false ∧ State.reset.sw.permit = 0 ∧
    (∀ d, (drv State.reset d).cmd = false) ∧ portOpen State.reset = false

/-! The host port and roles (chapter 4). -/

/-- O9. NOP answers OK with its payload unchanged. -/
def Obligations.NopEchoes : Prop :=
  ∀ h p s, Accepted h 0x0100 p s → Machine.exec (.nop h p) s = .next (answered s h 0x0100 p .ok p (touchRole s))

/-- O10. OBJ_READ answers OBJECT, INDEX and the object's bytes, OK or the object's own status, and changes no object. -/
def Obligations.ReadAnswersObject : Prop :=
  ∀ h n i s (o : ObjRead), Accepted h 0x0102 (le 2 n ++ le 2 i) s → n < 2 ^ 16 → i < 2 ^ 16 →
    readObject (touchRole s) n = some o → o.role ≤ s.roles.role → o.has i = true →
    Machine.exec (.objRead h (le 2 n ++ le 2 i)) s =
      .next (answered s h 0x0102 (le 2 n ++ le 2 i) (o.status i) (le 2 n ++ le 2 i ++ o.data i) (touchRole s))

/-- O11. A retransmission of any host command is answered from the kept reply, counted, and not executed (R131). -/
def Obligations.RetransmissionNotExecuted : Prop :=
  ∀ h opcode p cmd s k, s.portRuns = true → s.port.awaiting.length < 8 → p.length ≤ 4096 →
    isAck h.flags = false → s.port.kept.find? (fun k => k.seq == h.seq && k.crc == commandCrc h opcode p) = some k →
    (hostCommand h opcode p cmd s).port.replies = s.port.replies ++ [k.reply] ∧
    (hostCommand h opcode p cmd s).port.duplicates = satInc 16 s.port.duplicates ∧
    (hostCommand h opcode p cmd s).port.kept = s.port.kept ∧
    OnlyChanges [.port, .roles] s (hostCommand h opcode p cmd s) ∧ (hostCommand h opcode p cmd s).roles.role = s.roles.role

/-- O12. The first check of Table 4-7 that fails gives the reply's status, and the command is neither executed nor kept; so an
OPCODE that names no command, whatever its role (R131, R135). -/
def Obligations.ChecksInOrder : Prop :=
  (∀ h opcode p cmd s, s.portRuns = true → s.port.awaiting.length < 8 → p.length ≤ 4096 → s.inRom = false → isAck h.flags = false →
    s.port.kept.find? (fun k => k.seq == h.seq && k.crc == commandCrc h opcode p) = none →
    let c := cmd (touchRole s)
    let form := c.level.formOk h.flags && c.form
    let role := c.role && (!flagExpert h.flags || c.readOnly || decide (2 ≤ s.roles.role))
    let refuse := fun st => hostCommand h opcode p cmd s = turnedAway s h opcode st
    (form = false → refuse .badParam) ∧
    (form = true → role = false → refuse .denied) ∧
    (form = true → role = true → c.mode = false → refuse .badMode) ∧
    (form = true → role = true → c.mode = true → c.unsealed = false → refuse .sealedHw) ∧
    (form = true → role = true → c.mode = true → c.unsealed = true → c.params = false → refuse .badParam) ∧
    (form = true → role = true → c.mode = true → c.unsealed = true → c.params = true →
      (s.shutting && !c.inShutdown || !c.free) = true → refuse .busy)) ∧
  (∀ h opcode p s, s.portRuns = true → s.port.awaiting.length < 8 → p.length ≤ 4096 → isAck h.flags = false → opcode < 65536 →
    commandOpcodes.contains opcode = false → s.port.kept.find? (fun k => k.seq == h.seq && k.crc == commandCrc h opcode p) = none →
    ∃ t, Machine.exec (.unknownOpcodeCommand h opcode p) s = .next t ∧
      t.port.replies = s.port.replies ++ [commandReply h opcode .unknownOpcode []] ∧ t.port.kept = s.port.kept ∧ OnlyChanges [.port, .roles] s t)

/-- O13. A whole command whose OPCODE names none is answered UNKNOWN_OPCODE; a whole packet with a wrong CRC is answered CRC_ERROR
with OPCODE 0 and counted; neither is executed (R129, R135). -/
def Obligations.BadPacketsAnswered : Prop :=
  (∀ h opcode p s, Accepted h opcode p s → opcode < 65536 → commandOpcodes.contains opcode = false →
    Machine.exec (.unknownOpcodeCommand h opcode p) s = .next (turnedAway s h opcode .unknownOpcode)) ∧
  (∀ seq s, s.portRuns = true → s.port.awaiting.length < 8 →
    Machine.exec (.crcErrorPacket seq) s = .next (shown s { s with port := { s.port with
      replies := s.port.replies ++ [{ seq := seq, flags := 0x01, opcode := 0, status := .crcError }],
      crcErrors := satInc 16 s.port.crcErrors } }))

/-- O14. A WRITE cut short, with a wrong first byte or a LEN outside 4 to 4,100 is counted in LEN_ERRORS; one begun while RX_READY is 0
in OVERRUNS, whatever its CRC; a gap on the UART discards and counts the packet in assembly, if one is, and the hunt restarts; a packet
with a wrong CRC is counted in CRC_ERRORS, or in OVERRUNS when no place is free (R121, R125, R126, R129). -/
def Obligations.LostPacketsCounted : Prop :=
  (∀ sync len received s, s.portRuns = true → s.port.awaiting.length < 8 → bit s.rst.straps 5 = true →
    (sync ≠ 0x7E ∨ len < 4 ∨ 4100 < len ∨ received < len + 7) →
    Machine.exec (.writeOverrun sync len received) s =
      .next (shown s { s with port := { s.port with lenErrors := satInc 16 s.port.lenErrors } })) ∧
  (∀ sync len received s, s.portRuns = true → 8 ≤ s.port.awaiting.length →
    Machine.exec (.writeOverrun sync len received) s =
      .next (shown s { s with port := { s.port with overruns := satInc 16 s.port.overruns } })) ∧
  (∀ seq s, s.portRuns = true → ∃ t, Machine.exec (.crcErrorPacket seq) s = .next t ∧ t.port.kept = s.port.kept ∧ OnlyChanges [.port] s t ∧
    (s.port.awaiting.length < 8 → t.port.crcErrors = satInc 16 s.port.crcErrors ∧ t.port.overruns = s.port.overruns) ∧
    (8 ≤ s.port.awaiting.length → t.port.overruns = satInc 16 s.port.overruns ∧ t.port.replies = s.port.replies)) ∧
  (∀ bytes s, s.portRuns = true → bit s.rst.straps 5 = false →
    Machine.exec (.uartGapDiscard bytes) s = .next { s with
      port := { s.port with
        rx := none,
        gapDiscards := if (bytes.foldl uartByte s.port.rx).isSome then satInc 16 s.port.gapDiscards else s.port.gapDiscards } })

/-- O15. A READ and a UART packet deliver the oldest reply first; a READ that ends early leaves it pending, and one with nothing pending
gives 0x00 bytes (R122, R125, R134). -/
def Obligations.OldestReplyDelivered : Prop :=
  (∀ clocked s r rest, s.portRuns = true → s.v3dUp = true → bit s.rst.straps 5 = true → s.port.replies = r :: rest → r.bytes.length ≤ clocked →
    ∃ t, Machine.exec (.spiRead clocked) s = .next t ∧ t.port.replies = rest ∧ t.port.out = padTo clocked r.bytes ∧
      OnlyChanges [.port, .rst] s t) ∧
  (∀ clocked s r rest, s.portRuns = true → s.v3dUp = true → bit s.rst.straps 5 = true → s.port.replies = r :: rest → clocked < r.bytes.length →
    Machine.exec (.spiRead clocked) s = .next { s with port := { s.port with
      out := padTo clocked r.bytes, statusOut := [statusByte s],
      lanes := singleLane (statusByte s) ++ quietLanes 8 ++ byteLanes s.port.quad (padTo clocked r.bytes) } }) ∧
  (∀ clocked s, s.portRuns = true → s.v3dUp = true → bit s.rst.straps 5 = true → nextPacket s.port = none →
    Machine.exec (.spiRead clocked) s = .next { s with port := { s.port with
      out := List.replicate clocked 0, statusOut := [statusByte s],
      lanes := singleLane (statusByte s) ++ quietLanes 8 ++ byteLanes s.port.quad (List.replicate clocked 0) } }) ∧
  (∀ s r rest, s.portRuns = true → bit s.rst.straps 5 = false → s.port.quietAt ≤ s.now → s.port.replies = r :: rest →
    ∃ t, Machine.exec (.uartPacketSend true) s = .next t ∧ t.port.replies = rest ∧ t.port.out = r.bytes ∧ OnlyChanges [.port, .rst] s t)

/-- O16. A STATUS transaction answers the status byte, the length of the next packet and the number pending (Tables 4-1, 4-2); an
unacknowledged event is due again 1 s after its delivery (R137). -/
def Obligations.StatusAndResend : Prop :=
  (∀ s r rest, s.portRuns = true → s.v3dUp = true → bit s.rst.straps 5 = true → s.port.replies = r :: rest →
    Machine.exec .spiStatus s = .next { s with port := { s.port with
      statusOut := [statusByte s, statusByte s] ++ le 2 r.bytes.length ++ le 1 (min 255 (pendingCount s.port)),
      lanes := singleLane (statusByte s) ++
        byteLanes s.port.quad ([statusByte s] ++ le 2 r.bytes.length ++ le 1 (min 255 (pendingCount s.port))) } }) ∧
  (∀ s e rest, s.portRuns = true → s.port.flight = e :: rest → e.due = false → (∃ d, e.sentAt = some d ∧ d + 20000 ≤ s.clock.tick) →
    Machine.exec (.eventResend e.seq) s = .next { s with port := { s.port with flight := { e with due := true } :: rest } })

/-- O17. R139: an acknowledgement that matches no unacknowledged event, or whose LEN is not 4 or reserved flags are not 0, is ignored
and counted; none is ever replied to. -/
def Obligations.UnmatchedAcknowledgementCounted : Prop :=
  (∀ seq flags code len s, s.portRuns = true → s.port.awaiting.length < 8 → flagReply flags = true → flagEvent flags = true →
    4 ≤ len → len ≤ 4100 →
    (len ≠ 4 ∨ 16 ≤ flags.toNat ∨ (s.port.flight ++ s.port.fresh).any (fun e => e.ack && e.seq == seq && e.code == code) = false) →
    Machine.exec (.eventAcknowledgement seq flags code len) s =
      .next (shown s { s with port := { s.port with ackUnmatched := satInc 16 s.port.ackUnmatched } })) ∧
  (∀ seq flags code len s t, Machine.exec (.eventAcknowledgement seq flags code len) s = .next t → t.port.replies = s.port.replies)

/-- O18. An acknowledgement that matches an unacknowledged event, delivered or not, releases it and retires its journal record; new sessions
are admitted again below 896 held (R137, R139, R436). -/
def Obligations.AcknowledgementReleasesEvent : Prop :=
  ∀ seq flags code s, s.portRuns = true → s.port.awaiting.length < 8 → flagReply flags = true → flagEvent flags = true → flags.toNat < 16 →
    (s.port.flight ++ s.port.fresh).any (fun e => e.ack && e.seq == seq && e.code == code) = true →
    ∃ t, Machine.exec (.eventAcknowledgement seq flags code 4) s = .next t ∧
      t.port.flight = s.port.flight.filter (fun e => !(e.ack && e.seq == seq && e.code == code)) ∧
      t.port.fresh = s.port.fresh.filter (fun e => !(e.ack && e.seq == seq && e.code == code)) ∧
      t.port.ackUnmatched = s.port.ackUnmatched ∧ t.port.blocked = (s.port.blocked && decide (896 ≤ t.port.held)) ∧
      (t.store.appLive.any (fun r => r.type == 0x11 && r.key == 256 * code + seq.toNat)) = false ∧ OnlyChanges [.port, .faults, .store] s t

/-- O19. ROLE_CHALLENGE draws DEV_NONCE and keeps the challenge; ROLE_OPEN with the right HOST_PROOF within 10 s uses it up, opens the
session and clears the failures; with a wrong one it is DENIED (R146, R147). -/
def Obligations.RoleOpensByProof : Prop :=
  (∀ h r nonce s, Accepted h 0x0110 (le 1 r ++ le 16 nonce) s → 1 ≤ r → r ≤ 4 → nonce < 2 ^ 128 → keySet s r = true → roleLocked s r = false →
    ∃ t, Machine.exec (.roleChallenge h (le 1 r ++ le 16 nonce)) s =
        .next (answered s h 0x0110 (le 1 r ++ le 16 nonce) .ok (objBytes (Config.devNonce s.factory.freeCtr)) t) ∧
      t.roles.role = s.roles.role ∧
      t.roles.challenge = some { role := r, devNonce := Config.devNonce s.factory.freeCtr, hostNonce := BitVec.ofNat 128 nonce, since := s.clock.tick } ∧
      OnlyChanges [.roles, .factory] s t) ∧
  (∀ h proof s c, Accepted h 0x0111 (le 1 c.role ++ proof) s → proof.length = 32 → 1 ≤ c.role → c.role ≤ 4 →
    s.roles.challenge = some c → s.clock.tick ≤ c.since + 200000 →
    proof = hostProof (roleKey s c.role) c.role c.devNonce c.hostNonce s.factory.serial → s.roles.role = 0 →
    ∃ t, Machine.exec (.roleOpen h (le 1 c.role ++ proof)) s =
        .next (answered s h 0x0111 (le 1 c.role ++ proof) .ok (devProof (roleKey s c.role) c.role c.devNonce c.hostNonce s.factory.serial) t) ∧
      t.roles.role = c.role ∧ t.roles.challenge = none ∧ vget t.roles.fails (c.role - 1) 0 = 0 ∧ OnlyChanges [.roles] s t) ∧
  (∀ h proof s c, Accepted h 0x0111 (le 1 c.role ++ proof) s → proof.length = 32 → 1 ≤ c.role → c.role ≤ 4 →
    s.roles.challenge = some c → s.clock.tick ≤ c.since + 200000 →
    proof ≠ hostProof (roleKey s c.role) c.role c.devNonce c.hostNonce s.factory.serial →
    ∃ t, Machine.exec (.roleOpen h (le 1 c.role ++ proof)) s = .next (answered s h 0x0111 (le 1 c.role ++ proof) .denied [] t) ∧
      t.roles.role = s.roles.role ∧ t.roles.challenge = none ∧
      vget t.roles.fails (c.role - 1) 0 = satInc 8 (vget s.roles.fails (c.role - 1) 0) ∧ OnlyChanges [.roles, .port, .store] s t)

/-- O20. A role session ends on ROLE_CLOSE and after ROLE_IDLE seconds without a command, with ROLE_ENDED and its reason; a lockout runs
out; a role key is replaced in COMMISSIONING by a role that may write it (R147 to R149). -/
def Obligations.RolesEndAndKeysSet : Prop :=
  (∀ h s, Accepted h 0x0112 [] s → s.roles.role ≠ 0 →
    Machine.exec (.roleClose h []) s = .next (answered s h 0x0112 [] .ok []
      (event 0x0116 [0] { s with roles := { s.roles with role := 0, lastCmd := s.clock.tick } }))) ∧
  (∀ s, s.running = true → s.roles.role ≠ 0 → s.roles.lastCmd + s.port.roleIdle.toNat * 20000 ≤ s.clock.tick →
    Machine.exec .roleIdleTimeout s = .next (event 0x0116 [1] { s with roles := { s.roles with role := 0 } })) ∧
  (∀ s r t, 1 ≤ r → r ≤ 4 → vget s.roles.lockedUntil (r - 1) none = some t → t ≤ s.clock.tick →
    Machine.exec (.roleLockoutEnd r) s =
      .next { s with roles := { s.roles with lockedUntil := vset s.roles.lockedUntil (r - 1) none } }) ∧
  (∀ h r key s, Accepted h 0x0113 (le 1 r ++ le 32 key) s → s.modes.mode = .commissioning → key < 2 ^ 256 → key ≠ 0 →
    ((r = 1 ∨ r = 2) ∧ (s.roles.role = 2 ∨ s.roles.role = 4) ∨ r = 4 ∧ s.roles.role = 4 ∨ r = 3 ∧ s.roles.role = 3 ∧ s.seals.loopIntact = false) →
    Machine.exec (.roleKeySet h (le 1 r ++ le 32 key)) s = .next (answered s h 0x0113 (le 1 r ++ le 32 key) .ok []
      { s with roles := { s.roles with keys := vset s.roles.keys (r - 1) (BitVec.ofNat 256 key), lastCmd := s.clock.tick } }))

/-! Writes of objects (R116, R144, R152, R235, R263, R349). -/

/-- The row of the command table that carries a write of entry i of an object. -/
def Sys2Proof.Safety.writeOf (c : Cfg) (h : Hdr) (i : Nat) (data mask : List Byte) : Instr :=
  match c with
  | .hostPort => .hostPortWrite h data mask
  | .easement => .easementConfigWrite h data mask
  | .billing => .billingConfigWrite h data mask
  | .traverse => .trvConfigWrite h data mask
  | .display => .displayConfigWrite h data mask
  | .tariff => .tariffWrite h i data mask
  | .pulse => .pulseConfigWrite h i data mask
  | .energy => .energyConfigWrite h i data mask
  | .cal => .calWrite h i data mask
  | .link => .linkConfigWrite h i data mask
  | .load => .loadConfigWrite h i data mask
  | .switching | .drivers | .modules | .plumb | .safetyIn | .moduleBus => .safetyConfigWrite h (writePayload c.number i data mask)
  | .modulator | .tone | .verify => .sealFieldWrite h (writePayload c.number i data mask)
  | .linkGlobal | .bank | .reader | .tag => .objWrite h (writePayload c.number i data mask)

/-- A write passes the checks of Table 4-7: its size, its mask, role, mode, seal, index, values, resources; the objects as they are kept. -/
structure Sys2Proof.Safety.WritePasses (c : Cfg) (expert : Bool) (i : Nat) (data mask : List Byte) (s : State) : Prop where
  size : data.length = c.size ∧ mask.length = c.size ∧ i < 65536
  covered : maskOk (c.fields i) (ofBytes mask) expert = true
  role : c.writer s.roles.role = true
  mode : c.modeOk i (ofBytes mask) (merge (c.value i (settled s)) (ofBytes data) (ofBytes mask)) (settled s) = true
  seals : touchesSeal (c.fields i) (ofBytes mask) = true → s.seals.loopIntact = false ∧ noRecordPlace s = false
  index : c.has i s = true
  values : valuesOk (c.fields i) (ofBytes data) (ofBytes mask) = true
  rules : c.valid i (ofBytes mask) (merge (c.value i (settled s)) (ofBytes data) (ofBytes mask)) (settled s)
    (c.put i (merge (c.value i (settled s)) (ofBytes data) (ofBytes mask)) (settled s)) = true
  free : c.free i s = true

/-- O21. A write that passes every check is answered OK and written, in its plain and in its expert form (R144, R150). -/
def Obligations.AcceptedWriteIsWritten : Prop :=
  (∀ (c : Cfg) h i data mask s, Accepted h 0x0103 (writePayload c.number i data mask) s → WritePasses c false i data mask (touchRole s) →
    (c = .hostPort ∨ c = .easement ∨ c = .billing ∨ c = .traverse ∨ c = .display → i = 0) →
    Machine.exec (writeOf c h i data mask) s = .next (answered s h 0x0103 (writePayload c.number i data mask) .ok []
      (c.write i h.seq (ofBytes data) (ofBytes mask) (touchRole s)))) ∧
  (∀ c h i data mask s, AcceptedExpert h 0x0103 (writePayload c.number i data mask) s → WritePasses c true i data mask (touchRole s) →
    (c = .hostPort ∨ c = .easement ∨ c = .billing ∨ c = .traverse ∨ c = .display → i = 0) →
    Machine.exec (writeOf c h i data mask) s = .next (answered s h 0x0103 (writePayload c.number i data mask) .ok []
      (c.write i h.seq (ofBytes data) (ofBytes mask) (touchRole s))))

/-- O22. What a write leaves in the object: under MASK bits of 1 the bits of DATA, elsewhere the bits that were there. It is kept at once and
in force from the next frame tick on; what is in force then is what is kept (R144). Of LOAD_CONFIG, TARIFF and HOST_PORT what their own rules
add is stated apart. -/
def Obligations.WriteChangesMaskedBitsOnly : Prop :=
  (∀ old data mask k, (merge old data mask).testBit k = if mask.testBit k then data.testBit k else old.testBit k) ∧
  (∀ (c : Cfg) i seq data mask s, c ≠ .hostPort → c ≠ .load → c ≠ .tariff → c.has i s = true → data < 256 ^ c.size → mask < 256 ^ c.size →
    (c = .easement → data < 2 ^ 20) →
    c.value i (settled (c.write i seq data mask s)) = merge (c.value i (settled s)) data mask ∧
    c.value i (c.write i seq data mask s) = c.value i s) ∧
  (∀ m s, s.regionsRun = true → Machine.exec (.frameTick m) s = .next (shutdownTick (frameJobs m (slewTick (takeDue (timeTick s)))))) ∧
  (∀ (c : Cfg) i s, c.value i (takeDue s) = c.value i (settled s) ∧ (takeDue s).port.due = [])

/-- O23. The writes with a rule of their own: a tariff takes the next VERSION of the device-wide counter (R235); a non-zero PROFILE sets the
expert fields of Table 10-3 (R349), here the resistive one; QUAD and BAUD wait for the reply of the write (R152). -/
def Obligations.WritesWithOwnRule : Prop :=
  (∀ i seq data mask s, i < 8 → s.billing.version + 1 < 2 ^ 32 → data < 256 ^ 48 → mask < 256 ^ 48 →
    (Cfg.tariff.write i seq data mask s).billing.version = s.billing.version + 1 ∧
    Cfg.tariff.value i (settled (Cfg.tariff.write i seq data mask s)) % 2 ^ 32 = s.billing.version + 1 ∧
    OnlyChanges [.port, .billing, .store] s (Cfg.tariff.write i seq data mask s)) ∧
  (∀ i seq s, i < 16 →
    bitsOf (Cfg.load.value i (settled (Cfg.load.write i seq 1 7 s))) 0 3 = 1 ∧
    bitsOf (Cfg.load.value i (settled (Cfg.load.write i seq 1 7 s))) 3 1 = 1 ∧
    bitsOf (Cfg.load.value i (settled (Cfg.load.write i seq 1 7 s))) 4 4 = 15 ∧
    bitsOf (Cfg.load.value i (settled (Cfg.load.write i seq 1 7 s))) 8 8 = 5 ∧
    bitsOf (Cfg.load.value i (settled (Cfg.load.write i seq 1 7 s))) 16 8 = 10 ∧
    bitsOf (Cfg.load.value i (settled (Cfg.load.write i seq 1 7 s))) 32 16 = 0 ∧
    OnlyChanges [.port, .store] s (Cfg.load.write i seq 1 7 s)) ∧
  (∀ seq baud s, 1 ≤ baud → baud < 8 → s.port.pendingLine = [] → s.port.quad = false → s.port.baud = 0 →
    (Cfg.hostPort.write 0 seq (2 * baud) 15 s).port.baud = 0 ∧
    (Cfg.hostPort.write 0 seq (2 * baud) 15 s).port.pendingLine = [(seq, false, baud)] ∧
    ∀ r : Reply, r.seq = seq → (Cfg.hostPort.write 0 seq (2 * baud) 15 s).port.replies = [] →
      (replyDelivered r { Cfg.hostPort.write 0 seq (2 * baud) 15 s with
        port := { (Cfg.hostPort.write 0 seq (2 * baud) 15 s).port with replies := [r] } }).port.baud = baud)

/-- O24. R116: in a mode other than STANDBY and COMMISSIONING, a write of a safety-configuration object that passes the checks before the
mode's is answered BAD_MODE and changes nothing, in its plain and in its expert form. -/
def Obligations.SafetyWritesNeedMode : Prop :=
  (∀ (c : Cfg) h i data mask s, c.safety = true → Accepted h 0x0103 (writePayload c.number i data mask) s →
    data.length = c.size → mask.length = c.size → i < 65536 → maskOk (c.fields i) (ofBytes mask) false = true → 2 ≤ s.roles.role →
    s.modes.mode ≠ .standby → s.modes.mode ≠ .commissioning →
    Machine.exec (.safetyConfigWrite h (writePayload c.number i data mask)) s =
      .next (turnedAway s h 0x0103 .badMode)) ∧
  (∀ (c : Cfg) h i data mask s, c.safety = true → AcceptedExpert h 0x0103 (writePayload c.number i data mask) s →
    data.length = c.size → mask.length = c.size → i < 65536 → maskOk (c.fields i) (ofBytes mask) true = true → 2 ≤ s.roles.role →
    s.modes.mode ≠ .standby → s.modes.mode ≠ .commissioning →
    Machine.exec (.safetyConfigWrite h (writePayload c.number i data mask)) s =
      .next (turnedAway s h 0x0103 .badMode))

/-- O25. While the seal loop is intact every write of a SEAL field is refused with SEALED, after form, role and mode (R261); an accepted one
signs a PARAMETER record, so that SEQUENCE rises by one, and computes MET_HASH anew (R263). -/
def Obligations.SealedFieldsRefusedAndRecorded : Prop :=
  (∀ (c : Cfg) h i data mask s, Accepted h 0x0103 (writePayload c.number i data mask) s → data.length = c.size → mask.length = c.size → i < 65536 →
    maskOk (c.fields i) (ofBytes mask) false = true → c.writer s.roles.role = true →
    c.modeOk i (ofBytes mask) (merge (c.value i (settled (touchRole s))) (ofBytes data) (ofBytes mask)) (settled (touchRole s)) = true →
    touchesSeal (c.fields i) (ofBytes mask) = true → s.seals.loopIntact = true →
    Machine.exec (.objWrite h (writePayload c.number i data mask)) s =
      .next (turnedAway s h 0x0103 .sealedHw)) ∧
  (∀ (c : Cfg) i seq data mask s, touchesSeal (c.fields i) mask = true →
    (c.write i seq data mask s).log.seq = (c.keep i seq data mask s).log.seq + 1 ∧
    (c.write i seq data mask s).seals.metHash = BitVec.ofNat 256 (ofBytes (sha256 (metParts (settled (c.keep i seq data mask s))))))

/-! The frame of every command. -/

/-- O26. Every command completes in every state, none stops the block, and it leaves every part of the state as it was but the few that
the rules let it change, listed in Safety.parts: registers, flags, counters, latches, memories and queues of every other unit, and the
queue of commands; a packet with REPLY and EVENT set is an acknowledgement whatever command it names (R139). -/
def Obligations.CommandsKeepOtherParts : Prop :=
  ∀ (c : Instr) (s : State), ∃ t, Machine.exec c s = .next t ∧ OnlyChanges (parts c) s t

/-! Supplies, resets, boot and modes (chapter 3). -/

/-- O27. VAUX at 17.6 V or more begins a POWER-ON reset and leaves legal time as it ran; below the warning threshold the shutdown sequence
runs: permits released, requests of leave dropped, the Traverse transmitter off, the POWER_FAIL record in the journal; the tail slot stops
accumulation; step 6 ends the sequence, with every driver off, and a VAUX that is back by then resets with reach POWER-ON (R79, R83, R84,
R86, R90, R209, R436). -/
def Obligations.PowerOnAndShutdown : Prop :=
  (∀ v s, s.power.supply ≠ .on → 17600 ≤ v → ∃ t, Machine.exec (.powerOn v) s = .next t ∧ t.power.supply = .on ∧ t.power.pfw = false ∧
    t.rst.phase = .held 0 ∧ t.rst.reachNow = 2 ∧ t.rst.asserted = 0 :: s.rst.asserted ∧ t.rst.count = 1 ∧ t.clock = s.clock) ∧
  (∀ v s, s.power.supply = .on → s.power.pfw = false → v < 16300 → ∃ t, Machine.exec (.powerFailWarning v) s = .next t ∧ t.power.pfw = true ∧
    t.power.pfwAt = s.clock.tick ∧ t.power.shutStep = 4 ∧ t.rst.hold = none ∧ t.sw.permit = 0 ∧ t.ease.requests = [] ∧
    t.trv.transmit = false ∧ t.disp.light = false ∧ (s.regionsRun = true → t.store.metLive.any (fun r => r.type == 3) = true)) ∧
  (∀ s, s.power.supply = .on → s.power.pfw = true → s.power.pfwAt + 180 ≤ s.clock.tick → ∃ t, Machine.exec .tailSave s = .next t ∧
    t.energy.stopped = true ∧ (s.energy.stopped = false → ∀ k, k < 4 → (vget t.energy.pulses k {}).low = false)) ∧
  (∀ s, s.power.pfw = true → s.power.shutStep < 6 → s.power.pfwAt + 200 ≤ s.clock.tick →
    (shutdownTick s).power.shutStep = 6 ∧ (shutdownTick s).energy.stopped = true ∧ (shutdownTick s).sw.permit = 0 ∧
    (∀ d, (drv (shutdownTick s) d).cmd = false)) ∧
  (∀ s, s.power.supply = .on → s.power.pfw = true → s.rst.phase ≠ .held 0 → s.power.shutStep < 6 →
    Machine.exec .pfReturn s = .next { s with power := { s.power with returned := true, reversed := false },
                                              rst := { s.rst with bootAt := s.clock.tick } }) ∧
  (∀ s, s.power.supply = .on → s.power.pfw = true → s.rst.phase = .running → 6 ≤ s.power.shutStep → s.rst.asserted.contains 1 = false →
    ∃ t, Machine.exec .pfReturn s = .next t ∧ t.rst.asserted = s.rst.asserted ++ [1] ∧ t.rst.phase = .asserted ∧ t.rst.reachNow = 2)

/-- O28. When HOLD drops out the device is in MONUMENT with every driver and permit off; a reversed VAUX runs the shutdown sequence first, while
HOLD carries the rails (R72, R78, R85, R470). -/
def Obligations.SupplyLostIsMonument : Prop :=
  (∀ k s, s.power.supply = .on → s.power.pfw = true → ∃ t, Machine.exec (.holdDropOut k) s = .next t ∧
    t.power.supply = (if s.power.reversed then .reversed else .off) ∧
    t.modes.mode = .monument ∧ t.sw.permit = 0 ∧ (∀ d, (drv t d).cmd = false) ∧ t.roles.role = 0 ∧ t.power.vauxLost = true) ∧
  (∀ s, s.power.supply = .on → s.power.pfw = false → ∃ t, Machine.exec .vauxReversed s = .next t ∧ t.power.supply = .on ∧
    t.power.reversed = true ∧ t.power.pfw = true ∧ t.power.shutStep = 4 ∧ t.sw.permit = 0) ∧
  (∀ s, s.power.supply = .on → s.power.pfw = true →
    Machine.exec .vauxReversed s = .next { s with power := { s.power with reversed := true, returned := false } }) ∧
  (∀ s, s.power.supply = .off → Machine.exec .vauxReversed s = .next { s with power := { s.power with supply := .reversed } })

/-- O29. A surge leaves no load channel on or waiting for leave, and its end leaves the channels it did not hold as they were; VBAT is measured
every hour and VBAT_LOW reported below 2.2 V, not again within 24 h; below the retention limit the retention flag is lost; HOLD_LOW follows
its two thresholds (R77, R80 to R82). -/
def Obligations.SurgeAndVbat : Prop :=
  (∀ s, s.power.supply = .on → s.power.surge = false → ∃ t, Machine.exec .vauxSurgeOn s = .next t ∧ t.power.surge = true ∧
    t.power.surgeAt = s.clock.tick ∧ ∀ c, c < 16 → (chn t c).state ≠ 1 ∧ (chn t c).state ≠ 2 ∧ (chn t c).state ≠ 3) ∧
  (∀ s, s.power.supply = .on → s.power.surge = true → ∃ t, Machine.exec .vauxSurgeOff s = .next t ∧ t.power.surge = false ∧
    ∀ c, c < 16 → (chn s c).state ≠ 6 → (chn s c).state ≠ 1 → (chn t c).state = (chn s c).state) ∧
  (∀ mv s, s.running = true → s.power.vbatCheckAt + 72000000 ≤ s.clock.tick → 2200 ≤ mv →
    Machine.exec (.vbatCheck mv) s = .next { s with power := { s.power with vbatMv := sat 12 mv, vbatLow := false, vbatCheckAt := s.clock.tick } }) ∧
  (∀ mv s, s.running = true → s.power.vbatCheckAt + 72000000 ≤ s.clock.tick → mv < 2200 → s.power.vbatLow = false →
    Machine.exec (.vbatCheck mv) s = .next (event 0x0164 (le 2 mv ++ stampB s.clock.legal) { s with power := { s.power with
      vbatMv := sat 12 mv, vbatLow := true, vbatCheckAt := s.clock.tick, vbatLowAt := s.clock.tick } })) ∧
  (∀ mv s, s.running = true → s.power.vbatCheckAt + 72000000 ≤ s.clock.tick → mv < 2200 → s.power.vbatLow = true →
    s.clock.tick < s.power.vbatLowAt + 1728000000 → Machine.exec (.vbatCheck mv) s =
      .next { s with power := { s.power with vbatMv := sat 12 mv, vbatLow := true, vbatCheckAt := s.clock.tick } }) ∧
  (∀ s, s.power.supply ≠ .on → Machine.exec .retentionLoss s = .next { s with power := { s.power with retentionFlag := false } }) ∧
  (∀ vaux hold s, s.running = true → s.power.readyAt + 20000 ≤ s.clock.tick →
    Machine.exec (.holdLowCheck vaux hold) s = .next { s with power := { s.power with holdLow := decide (hold < 20000) && decide (18000 < vaux) } })

/-- O30. RESET_N low is a SYSTEM source with a level, released when the pin goes high; after 10 s the pin is masked and its source counts as
released; high for 100 ms arms it again (R92, R94). A commanded reset waits for its reply (R103). -/
def Obligations.ResetPinAndCommand : Prop :=
  (∀ s, s.rst.pinLow = false → s.rst.masked = false → s.running = true → s.power.pfw = false → s.rst.asserted = [] →
    ∃ t, Machine.exec .resetNAssert s = .next t ∧ t.rst.pinLow = true ∧ t.rst.asserted = [3] ∧ t.rst.phase = .asserted ∧ t.rst.reachNow = 1 ∧
      t.sw.permit = 0) ∧
  (∀ s, s.rst.pinLow = false → s.rst.masked = true →
    Machine.exec .resetNAssert s = .next { s with rst := { s.rst with pinLow := true, pinLowAt := s.clock.tick } }) ∧
  (∀ s, s.rst.pinLow = true → ∃ t, Machine.exec .resetNRelease s = .next t ∧ t.rst.pinLow = false ∧ t.rst.pinHighAt = s.clock.tick ∧
    t.rst.asserted = s.rst.asserted.filter (fun x => x != 3)) ∧
  (∀ s, s.power.supply = .on → s.rst.pinLow = true → s.rst.masked = false → s.rst.asserted.contains 3 = true →
    s.rst.pinLowAt + 200000 ≤ s.clock.tick → ∃ t, Machine.exec .stuckReset s = .next t ∧ t.rst.masked = true ∧
      t.rst.asserted = s.rst.asserted.filter (fun x => x != 3) ∧ t.rst.stuckAt = some s.clock.legal) ∧
  (∀ s, s.power.supply = .on → s.rst.masked = true → s.rst.pinLow = false → s.rst.pinHighAt + 2000 ≤ s.clock.tick →
    Machine.exec .resetNRearm s = .next { s with rst := { s.rst with masked := false } }) ∧
  (∀ h r s, Accepted h 0x0150 (le 1 r ++ le 1 0) s → 1 ≤ s.roles.role → r ≤ 1 → (r = 1 → s.anySession = false) → s.rst.delayed = none →
    Machine.exec (.reset h (le 1 r ++ le 1 0)) s = .next (answered s h 0x0150 (le 1 r ++ le 1 0) .ok []
      { touchRole s with rst := { s.rst with delayed := some (BitVec.ofNat 2 r, s.clock.tick) } })) ∧
  (∀ r t0 s, s.rst.delayed = some (r, t0) → s.running = true → t0 + 200 ≤ s.clock.tick → s.power.pfw = false → s.rst.asserted = [] →
    ∃ t, Machine.exec .resetDelayEnd s = .next t ∧ t.rst.phase = .asserted ∧ t.rst.delayed = none ∧
      t.rst.asserted = [if r = 0 then 10 else 11] ∧ (r = 0 → t.rst.reachNow = 0) ∧ (r ≠ 0 → t.rst.reachNow = 1))

/-- O31. The other reset sources: a watchdog, an internal rail (R90); a source is recorded with its reach, and 500 ms after the first CORE
source the sessions still held are stopped (R100). -/
def Obligations.ResetSources : Prop :=
  (∀ region s, region ≤ 4 → s.running = true → s.power.pfw = false → s.rst.asserted = [] →
    ∃ t, Machine.exec (.regionWatchdog region) s = .next t ∧ t.rst.asserted = [region + 4] ∧ t.rst.phase = .asserted ∧ t.rst.reachNow = 1) ∧
  (∀ s, s.running = true → s.power.pfw = false → s.rst.asserted = [] →
    ∃ t, Machine.exec .appWatchdog s = .next t ∧ t.rst.asserted = [9] ∧ t.rst.phase = .asserted ∧ t.rst.reachNow = 0 ∧
      t.sw.permit = s.sw.permit) ∧
  (∀ s, s.running = true → s.power.pfw = false → s.rst.asserted = [] →
    ∃ t, Machine.exec .railBor s = .next t ∧ t.rst.asserted = [2] ∧ t.rst.phase = .asserted ∧ t.rst.reachNow = 2 ∧ t.sw.permit = 0) ∧
  (∀ s t0, s.rst.hold = some t0 → s.rst.holdMask ≠ 0 → t0 + 10000 ≤ s.clock.tick →
    ∃ t, Machine.exec .sessionHoldExpired s = .next t ∧ t.rst.hold = none ∧ t.rst.holdMask = 0 ∧
      (∀ n, n < 8 → bit s.rst.holdMask n = true → ¬ (2 ≤ (sq t n).state ∧ (sq t n).state ≤ 5)))

/-- O32. A reset takes effect: the role session ends and no command is kept; a CORE reset leaves sessions, energy and sequences running; a
wider one clears every leave, switches every load channel off and holds the boot at step 1, or before it for POWER-ON (Table 3-4, R89,
R99). -/
def Obligations.ResetTakesEffect : Prop :=
  ∀ s, s.power.supply = .on → s.rst.phase = .asserted → ∃ t, Machine.exec .resetTakesEffect s = .next t ∧
    t.roles.role = 0 ∧ t.roles.challenge = none ∧ t.port.replies = [] ∧ t.port.kept = [] ∧ t.port.quad = false ∧ t.port.baud = 0 ∧
    (s.rst.takes = 0 → t.billing.sessions = s.billing.sessions ∧ t.rst.phase = .held 5 ∧ t.energy = s.energy ∧ t.sw.seqs = s.sw.seqs ∧ t.sw.permit = s.sw.permit) ∧
    (s.rst.takes = 1 → t.rst.phase = .held 1 ∧ t.rst.masked = s.rst.masked) ∧
    (s.rst.takes = 2 → t.rst.phase = .held 0 ∧ t.rst.masked = false ∧ t.rst.debugRun = false ∧ t.ease.refusals = 0) ∧
    (s.rst.takes ≠ 0 → t.ease.requests = [] ∧ t.ease.charges = [] ∧ (∀ c, c < 16 → (chn t c).state = 0 ∧ (chn t c).cmd = false) ∧
      t.modes.benchPending = false ∧ t.sw.permit = 0 ∧ t.ease.vauxBudget = (settled s).ease.vauxBudget)

/-- O33. The boot: step 1 samples the straps by majority; an unlocked device strapped for it goes from step 1 into factory test, in which
the model runs nothing (its choice, log 38), and a locked one never does; after step 5 a CORE reset goes on to READY, which enters the mode of R108 after a wider reset
and leaves the mode and the sessions after a CORE reset (R58, R61, R95, R97, R108). -/
def Obligations.BootReleasesAndReady : Prop :=
  (∀ b s, s.power.supply = .on → s.power.pfw = false → s.rst.phase = .held 0 →
    ∃ t, Machine.exec (.resetRelease b) s = .next t ∧ t.rst.straps = sampledStraps s.rst.debugLocked b ∧
      (s.rst.debugLocked = true → t.rst.phase ≠ .factory)) ∧
  (∀ b s, s.power.supply = .on → s.power.pfw = false → s.rst.phase = .held 0 → s.rst.debugLocked = false → fld (majority b) 0 2 = 0 →
    s.rst.asserted.all (fun x => decide (x ≤ 16)) = true → s.rst.asserted.contains 3 = false → (s.rst.pinLow = false ∨ s.rst.masked = true) →
    ∃ t, Machine.exec (.resetRelease b) s = .next t ∧ t.rst.phase = .factory) ∧
  (∀ b s, s.power.supply = .on → s.power.pfw = false → s.rst.phase = .held 5 → s.rst.asserted = [] → s.rst.reachNow = 0 →
    Machine.exec (.resetRelease b) s = .next { s with rst := { s.rst with phase := .released, hold := none, holdMask := 0 } }) ∧
  (∀ mv s, s.power.supply = .on → s.power.pfw = false → s.rst.phase = .released → s.rst.reachNow = 0 →
    ∃ t, Machine.exec (.ready mv) s = .next t ∧ t.rst.phase = .running ∧ t.modes.mode = s.modes.mode ∧ t.power.readyAt = s.clock.tick ∧
      t.port.flight = [] ∧ t.billing.sessions = s.billing.sessions) ∧
  (∀ mv s, s.power.supply = .on → s.power.pfw = false → s.rst.phase = .released → s.rst.reachNow ≠ 0 →
    ∃ t, Machine.exec (.ready mv) s = .next t ∧ t.rst.phase = .running ∧ t.modes.mode = bootMode s ∧ t.power.readyAt = s.clock.tick ∧
      t.port.flight = [])

/-- O34. The commands that change the mode: MODE_SET to BENCHMARK from STANDBY at once and from SERVICE queued, MODE_SET back to STANDBY,
RECOVERY_ACK, and COMMISSIONING_DONE, which locks the debug port or is not confirmed; entering or leaving BENCHMARK clears the pulse
accumulators; the image commands, from the staging slot to the confirmation, are answered and leave the mode as it is (R107, R110, R113,
R115, R217, R447, R449, R451). -/
def Obligations.ModeCommands : Prop :=
  (∀ h s, Accepted h 0x0153 [3] s → 2 ≤ s.roles.role → s.modes.mode = .standby →
    Machine.exec (.modeSet h [3]) s = .next (answered s h 0x0153 [3] .ok [] (enterMode .benchmark 6 0 (touchRole s)))) ∧
  (∀ h s, Accepted h 0x0153 [1] s → 2 ≤ s.roles.role → s.modes.mode = .benchmark →
    Machine.exec (.modeSet h [1]) s = .next (answered s h 0x0153 [1] .ok [] (enterMode .standby 7 0 (touchRole s)))) ∧
  (∀ h s, Accepted h 0x0153 [3] s → 2 ≤ s.roles.role → s.modes.mode = .service → s.modes.benchPending = false → commCondition s = false →
    Machine.exec (.modeSet h [3]) s = .next (answered s h 0x0153 [3] .queued [] { touchRole s with modes := { s.modes with
      benchPending := true, benchQueued := some (flagAck h.flags) } })) ∧
  (∀ h s, Accepted h 0x0154 [] s → 1 ≤ s.roles.role → s.inRom = false → s.modes.mode = .recovery → s.modes.interruptedLeft = 0 →
    ∃ t, Machine.exec (.recoveryAck h []) s = .next (answered s h 0x0154 [] .ok [] t) ∧
      t.modes.mode = if commCondition s then .commissioning else .standby) ∧
  (∀ h s, Accepted h 0x0155 [] s → 2 ≤ s.roles.role → s.modes.mode = .commissioning → commCondition s = false →
    ∃ t, Machine.exec (.commissioningDone h []) s = .next (answered s h 0x0155 [] .ok [] t) ∧ t.modes.mode = .standby ∧
      t.rst.debugLocked = true ∧ t.rst.debugRun = false) ∧
  (∀ h s, Accepted h 0x0155 [] s → 2 ≤ s.roles.role → s.modes.mode = .commissioning → commCondition s = true →
    Machine.exec (.commissioningDone h []) s = .next (answered s h 0x0155 [] .notConfirmed [] (touchRole s))) ∧
  (∀ m i j s, (enterMode m i j s).modes.mode = m ∧ ((s.modes.mode = .benchmark ∨ m = .benchmark) →
    ∀ k, k < 4 → (vget (enterMode m i j s).energy.pulses k {}).acc = 0 ∧ (vget (enterMode m i j s).energy.pulses k {}).pending = 0)) ∧
  (∀ h hdr s, Accepted h 0x0B10 (hdr ++ [0]) s → 2 ≤ s.roles.role → hdr.length = 512 → stagingRuns s = false → s.modes.activating = false →
    headerOk s hdr = true → ∃ t, Machine.exec (.updateStart h (hdr ++ [0])) s = .next (answered s h 0x0B10 (hdr ++ [0]) .queued [] t) ∧
      t.modes = s.modes ∧ t.chain.staging = 1) ∧
  (∀ s, s.regionsRun = true → stagingRuns s = true → s.chain.ready = false → s.chain.erased = 12 →
    ∃ t, Machine.exec .stagingSlotReady s = .next t ∧ t.modes = s.modes ∧ t.chain.ready = true) ∧
  (∀ h k half data tag s, Accepted h 0x0B11 (le 4 k ++ le 1 half ++ data ++ tag) s → 2 ≤ s.roles.role → half ≤ 1 → data.length = 2048 →
    tag.length = 16 * half → stagingRuns s = true → s.chain.ready = true → s.chain.byHost = true → k < stagedBlocks s → k < 2 ^ 32 →
    (stageHalf k half data tag s).2 = true → ∃ t, Machine.exec (.updateData h (le 4 k ++ le 1 half ++ data ++ tag)) s =
      .next (answered s h 0x0B11 (le 4 k ++ le 1 half ++ data ++ tag) .ok [] t) ∧ t.modes = s.modes) ∧
  (∀ h s, Accepted h 0x0B12 [] s → 2 ≤ s.roles.role → stagingRuns s = true → ∃ t, Machine.exec (.updateAbort h []) s =
    .next (answered s h 0x0B12 [] .ok [] t) ∧ t.modes = s.modes ∧ t.chain.staging = 0) ∧
  (∀ s, s.running = true → stagingRuns s = true → s.chain.reportAt + secF 10 ≤ s.now → ∃ t, Machine.exec .updateProgress s = .next t ∧
    t.modes = s.modes ∧ t.chain.reportAt = s.now) ∧
  (∀ h s, Accepted h 0x0B13 [] s → 2 ≤ s.roles.role → standbyOrComm s = true → s.modes.activating = false → s.chain.staging = 2 →
    s.store.stagingSlot.complete = true → trialRuns s = false → ∃ t, Machine.exec (.imageActivate h []) s =
      .next (answered s h 0x0B13 [] .queued [] t) ∧ t.modes = { s.modes with activating := true }) ∧
  (∀ s, s.modes.activating = true → 12 ≤ s.store.activateErased → s.running = true → s.shutting = false → s.power.supply = .on →
    ∃ t, Machine.exec (.activationCopyDone true) s = .next t ∧ t.modes = { s.modes with activating := false } ∧ t.store.trial = true) ∧
  (∀ h s, Accepted h 0x0B14 [] s → 2 ≤ s.roles.role → trialRuns s = true →
    ∃ t, Machine.exec (.confirmImage h []) s = .next (answered s h 0x0B14 [] .ok [] t) ∧ t.modes = s.modes ∧ t.store.trial = false)

/-- O35. A frame tick counts one frame in every state, and legal time while VAUX or the VBAT domain keeps it (R21, R79, R229; that the
VBAT clock counts in the same frames is the model's choice, log 39); while the regions are held and no shutdown runs nothing else happens.
A superframe does its work once, reads the temperature with its hysteresis, and an open seal loop breaks the seal (R74, R261). -/
def Obligations.TicksCountTime : Prop :=
  (∀ m s, s.regionsRun = true → ∃ t, Machine.exec (.frameTick m) s = .next t ∧ t.clock.tick = s.clock.tick + 1) ∧
  (∀ m s, s.regionsRun = false → s.power.pfw = false → Machine.exec (.frameTick m) s = .next { s with clock := { s.clock with
    tick := s.clock.tick + 1, frameLen := 1250,
    legal := if s.power.supply = .on ∨ s.power.retentionFlag = true then s.clock.legal + 1 else s.clock.legal } }) ∧
  (∀ m s, atSuperframe s = true → s.clock.superDone ≠ s.clock.tick + 1 → ∃ t, Machine.exec (.superframeTick m) s = .next t ∧
    t.clock.superDone = s.clock.tick + 1 ∧ t.power.vauxMv = sat 16 m.vauxMv ∧ t.power.dieTemp = satInt 16 m.dieTemp ∧
    (t.power.dieHot = true ↔ 1200 < m.dieTemp ∨ (s.power.dieHot = true ∧ 1100 ≤ m.dieTemp)) ∧
    (m.loopIntact = false → t.seals.loopIntact = false ∧ (s.seals.loopIntact = true → t.seals.broken = true))) ∧
  (∀ m s, s.clock.superDone = s.clock.tick + 1 → Machine.exec (.superframeTick m) s = .next s)

/-! Faults and closures (chapter 1). -/

/-- O36. Corrected errors are counted, and only the correction that passes 16 in a superframe reports CORRECTION_RATE; the cell keeps
operating (R15). A successful retry is counted and not reported (R16). -/
def Obligations.CorrectionsCounted : Prop :=
  (∀ cell count cycle s, cellUp s cell = true → cell < cellCount → cellInUse s cell = true → (cellSt s cell).superCount + count ≤ 16 →
    ∃ t, Machine.exec (.cellErrorCorrected cell count cycle) s = .next t ∧
      cellSt t cell = { cellSt s cell with corrections := sat 16 ((cellSt s cell).corrections + count), superCount := (cellSt s cell).superCount + count } ∧
      t.faults.windows = s.faults.windows ∧ (∀ i, i ≠ cell → cellSt t i = cellSt s i)) ∧
  (∀ cell count cycle s, cellUp s cell = true → cell < cellCount → cellInUse s cell = true → (cellSt s cell).superCount ≤ 16 →
    16 < (cellSt s cell).superCount + count →
    ∃ u, Machine.exec (.cellErrorCorrected cell count cycle) s = .next (cellReport 0x01 cell cycle scopeCell 0 0 u) ∧
      (cellSt u cell).superCount = (cellSt s cell).superCount + count ∧ (cellSt u cell).state = (cellSt s cell).state) ∧
  (∀ cell c cycle s, cellUp s cell = true → cellInUse s cell = true → cellId cell = some c →
    ∃ t, Machine.exec (.cellUncorrectable cell true false cycle) s = .next t ∧ cellSt t cell = cellSt s cell ∧
      t.faults.windows = s.faults.windows ∧
      assocGet 0 (64 * c.region + c.block) t.faults.retried = assocGet 0 (64 * c.region + c.block) s.faults.retried + 1)

/-- O37. A failed retry isolates the cell (R16), a failed check of a block's own sequencer the block (R17, R18); a lockstep mismatch is the
global safe state and a SYSTEM source (R20); a lost reference clock and a faulty supply are SYSTEM sources (R90, Table 1-4), the reference of
region 0 also the global safe state; a fault of the POWER clock's monitor changes the fault records alone; the loss of the modulator PLL makes
METROLOGY faulty for every active outlet and a readback fault marks its outlet's inputs invalid (R161). -/
def Obligations.FaultsIsolateAndReset : Prop :=
  (∀ cell c cycle s, cellUp s cell = true → cellInUse s cell = true → cellId cell = some c →
    ∃ t, Machine.exec (.cellUncorrectable cell false false cycle) s = .next t ∧ (cellSt t cell).state ≠ 0 ∧
      (cellSt t cell).isolations = satInc 16 (cellSt s cell).isolations ∧ (cellSt t cell).since = s.clock.legal) ∧
  (∀ cell c ok cycle s, cellUp s cell = true → cellInUse s cell = true → cellId cell = some c → c.type ≠ .load →
    ∃ t, Machine.exec (.cellUncorrectable cell ok true cycle) s = .next t ∧ t.faults.blocks.contains (c.region, c.block) = true ∧
      cellSt t cell = cellSt s cell) ∧
  (∀ cell cycle s, s.regionUp 0 = true → ∃ t, Machine.exec (.lockstepMismatch cell cycle) s = .next t ∧ t.faults.globalSafe = true ∧
    t.sw.permit = 0 ∧ t.rst.asserted.contains 12 = true) ∧
  (∀ region loss cycle s, s.regionUp region = true → region ≤ 5 → ∃ t, Machine.exec (.clockMonitorFault region loss 1 cycle) s = .next t ∧
    t.rst.asserted.contains 13 = true ∧ (region = 0 → t.faults.globalSafe = true ∧ t.sw.permit = 0)) ∧
  (∀ region loss cycle s, s.regionUp region = true → region ≤ 5 → ∃ t, Machine.exec (.clockMonitorFault region loss 3 cycle) s = .next t ∧
    OnlyChanges [.faults] s t) ∧
  (∀ cycle s, s.regionsRun = true → s.fe.mclkStopped = false → ∃ t, Machine.exec (.modPllLoss cycle) s = .next t ∧ t.fe.mclkStopped = true ∧
    ∀ n, s.present n = true → bit t.faults.metFaulty n = true) ∧
  (∀ n s, s.regionsRun = true → s.present n = true → ∃ t, Machine.exec (.mclkReadbackFault n) s = .next t ∧
    ∀ x, modEnabled s n x = true → inputValid t n x = false) ∧
  (∀ rail cycle s, s.regionUp 3 = true → ∃ t, Machine.exec (.supplyFault rail cycle) s = .next t ∧ t.rst.asserted.contains 15 = true)

/-- O38. A missed deadline is counted once a frame for its job instance, and a miss that follows a met deadline is a new run (R24, Table
15-3). -/
def Obligations.MissesCounted : Prop :=
  (∀ job inst e cycle s, s.collecting = true → jobRuns s job inst = true →
    ((jobSt s job inst).run = 0 ∨ (jobSt s job inst).lastTick ≠ s.clock.tick) →
    ∃ t, Machine.exec (.deadlineMiss job inst e cycle) s = .next t ∧ (jobSt t job inst).misses = satInc 16 (jobSt s job inst).misses ∧
      (jobSt t job inst).lastTick = s.clock.tick ∧ (jobSt t job inst).lastMiss = s.clock.legal ∧
      ((jobSt s job inst).run = 0 → (jobSt t job inst).run = 1)) ∧
  (∀ job inst e cycle s, s.collecting = true → jobRuns s job inst = true → (jobSt s job inst).run ≠ 0 → (jobSt s job inst).lastTick = s.clock.tick →
    Machine.exec (.deadlineMiss job inst e cycle) s = .next s)

/-- O39. Merging: a region's window of 2 frames hands its reports to the chip collector (R27); the chip's window of 2 frames ends in one
closure with the next number, the root cause of R28, and FAULT_PRIMARY (R28, R31); a superframe later a closure no longer covers regions
(R29). -/
def Obligations.ReportsMergeIntoClosures : Prop :=
  (∀ region cls key w r rs s, s.faults.windows.find? (fun w => w.region == region && w.is cls key && decide (w.opened + 2 ≤ s.clock.tick)) = some w →
    w.reports = r :: rs → s.faults.closures.any (recentClosure s.clock.tick r.cls r.key) = false → s.faults.chip.any (Merge.is r.cls r.key) = false →
    Machine.exec (.regionMergeWindowClose region cls key) s = .next { s with faults := { s.faults with
      windows := s.faults.windows.erase w, chip := s.faults.chip ++ [{ region := 6, opened := s.clock.tick, reports := w.reports }] } }) ∧
  (∀ cls key w r rs s, s.faults.chip.find? (fun w => w.is cls key && decide (w.opened + 2 ≤ s.clock.tick)) = some w → w.reports = r :: rs →
    ∃ t c, Machine.exec (.chipWindowClose cls key) s = .next t ∧ t.faults.closures = (c :: s.faults.closures).take 64 ∧
      c.id = nextClosureId s.faults.lastId ∧ t.faults.lastId = c.id ∧ c.root = rootOf rs r ∧ c.echo = sat 16 rs.length ∧
      c.emitted = s.clock.tick ∧ t.faults.chip = s.faults.chip.filter (fun x => !Merge.is r.cls r.key x) ∧
      (s.port.held < 1024 → ∃ e, t.port.fresh = s.port.fresh ++ [e] ∧ e.code = 0x0C01 ∧ e.payload = primaryPayload c)) ∧
  (∀ id c rest s, s.faults.closures = c :: rest → c.id = id → c.isOpen = true → c.emitted + 400 ≤ s.clock.tick →
    Machine.exec (.closureOpenEnd id) s = .next { s with faults := { s.faults with
      closures := { c with isOpen := false, openRegions := [] } :: rest } })

/-- O40. Of two reports the root cause is the earlier; of equal stamps the wider scope; then the lower region, block, cell (R28). -/
def Obligations.RootCauseOrder : Prop :=
  ∀ (rs : List Report) (r : Report), (rootOf rs r = r ∨ rootOf rs r ∈ rs) ∧
    ∀ x, x ∈ r :: rs → x.before (rootOf rs r) = false

/-! The easement arbiter (chapter 1). -/

/-- O41. In the frame of its reservation an operation of every class is answered, and one of class 5, the Traverse transmitter, begins
(R36); one that has not begun within 2 frames of its leave loses it; the end of a peak phase leaves the hold, or nothing; a peak that
outlasts its declared duration is an overrun and stays charged (R40). -/
def Obligations.LeaveBeginsAndEnds : Prop :=
  (∀ req c s, chargeOf req s = some c → s.regionsRun = true → c.begun = false → c.granted = false → c.start ≤ s.clock.tick → s.clock.tick < c.start + 2 → c.rq.cls = 5 →
    ∃ t, Machine.exec (.deferFrameReached req) s = .next t ∧ t.trv.grant = true ∧
      (∀ d, chargeOf req t = some d → d.begun = true ∧ d.granted = true) ∧ OnlyChanges [.ease, .trv] s t) ∧
  (∀ req c s, chargeOf req s = some c → s.regionsRun = true → c.begun = false → c.granted = false → c.start ≤ s.clock.tick → s.clock.tick < c.start + 2 →
    ∃ t, Machine.exec (.deferFrameReached req) s = .next t) ∧
  (∀ req c s, chargeOf req s = some c → c.begun = false → c.start + 2 ≤ s.clock.tick →
    ∃ t, Machine.exec (.leaveLapse req) s = .next t ∧ chargeOf req t = none) ∧
  (∀ req c s, chargeOf req s = some c → c.begun = true → c.inHold = false → c.rq.standing = false →
    ∃ t, Machine.exec (.peakPhaseEnd req) s = .next t ∧ OnlyChanges [.ease] s t ∧
      (∀ x, x ∈ t.ease.charges ↔ (x ∈ s.ease.charges ∧ x.rq.id ≠ req) ∨
        ∃ y, y ∈ s.ease.charges ∧ y.rq.id = req ∧ y.rq.hold ≠ 0 ∧ x = { y with inHold := true })) ∧
  (∀ req c s, chargeOf req s = some c → c.begun = true → c.inHold = false → c.rq.standing = false → c.overrun = false → c.rq.cls ≠ 3 →
    c.start + c.rq.duration ≤ s.clock.tick → ∃ t, Machine.exec (.easementOverrun req) s = .next t ∧
      t.ease.charges = s.ease.charges.map (fun x => if x.rq.id = req then { x with overrun := true } else x) ∧ OnlyChanges [.port, .ease, .store] s t)

/-- O42. Placement: what the arbiter places starts no earlier than the present frame and its slot and no later than its latest start, and
keeps both budgets in every frame where a charge starts or ends from there on (R34, R37). -/
def Obligations.PlacementKeepsBudgets : Prop :=
  ∀ (s : State) (cs : List Charge) (r : Request) (a : Nat), place s cs r = some a →
    s.clock.tick ≤ a ∧ r.slot ≤ a ∧ a ≤ r.latest ∧
      ∀ t, (t = a ∨ t = a + r.duration ∨ (a < t ∧ t ∈ changePoints cs)) →
        vauxTotal s ({ rq := r, start := a } :: cs) t ≤ s.ease.vauxBudget.toNat ∧ intTotal s ({ rq := r, start := a } :: cs) t ≤ intBudget

/-! The metrology front end (chapter 5). -/

/-- O43. An input is marked invalid once for each cause, counted when it was valid, and valid again after 400 clean frames, which a
repetition starts again; the loss of the modulator clock marks every enabled input and makes METROLOGY faulty for every active outlet; a
step disturbs its input, at the FAST value from which the change exceeds STEP_THRESHOLD (R160 to R162, R173, R174). -/
def Obligations.InputsMarkedInvalid : Prop :=
  (∀ n x s, s.regionsRun = true → s.present n = true → modEnabled s n x = true → (modIn s n x).stuck = false →
    ∃ t, Machine.exec (.modInputStuck n x) s = .next t ∧ (modIn t n x).stuck = true ∧ (modIn t n x).badAt = s.clock.tick ∧
      inputValid t n x = false ∧
      (inputValid s n x = true → vget t.fe.invalidCount n 0 = satInc 16 (vget s.fe.invalidCount n 0)) ∧
      (5 ≤ x → OnlyChanges [.port, .fe, .store] s t)) ∧
  (∀ n x s, s.regionsRun = true → s.present n = true → modEnabled s n x = true → (modIn s n x).stuck = true →
    Machine.exec (.modInputStuck n x) s = .next (updIn' n x (fun i => { i with badAt := s.clock.tick }) s)) ∧
  (∀ n s, s.regionsRun = true → s.present n = true → ∃ t, Machine.exec (.mclkReadbackFault n) s = .next t ∧
    ∀ x, modEnabled s n x = true → (modIn t n x).clockFault = true ∧ inputValid t n x = false) ∧
  (∀ n x s, s.regionsRun = true → s.present n = true → modEnabled s n x = true → ((modIn s n x).stuck = true ∨ (modIn s n x).clockFault = true) →
    (modIn s n x).badAt + 400 ≤ s.clock.tick → s.fe.mclkStopped = false →
    Machine.exec (.modInputValid n x) s = .next (event 0x0221 (le 1 n ++ le 1 x ++ stampB s.clock.legal)
      (updIn' n x (fun i => { i with stuck := false, clockFault := false, marks := unitOf s.clock.tick :: i.marks }) s))) ∧
  (∀ cycle s, s.regionsRun = true → s.fe.mclkStopped = false → ∃ t, Machine.exec (.modPllLoss cycle) s = .next t ∧ t.fe.mclkStopped = true ∧
    ∀ n, s.present n = true → bit t.faults.metFaulty n = true ∧ ∀ x, modEnabled s n x = true → (modIn t n x).clockFault = true) ∧
  (∀ cycle s, s.fe.mclkStopped = true → Machine.exec (.modPllLoss cycle) s = .next s) ∧
  (∀ n x place s, s.regionsRun = true → s.present n = true → modEnabled s n x = true → place < 64 → stepAt s n x place = true →
    ∃ t, Machine.exec (.stepDetected n x place) s = .next t ∧ (modIn t n x).marks = fastUnit s.clock.tick place :: (modIn s n x).marks ∧
      OnlyChanges [.fe] s t) ∧
  (∀ n x place s, stepAt s n x place = false → Machine.exec (.stepDetected n x place) s = .next s)

/-- O44. SYNC schedules, arms or cancels; a decimator reset disturbs every input and restarts Plumb; an edge on MSYNC_N is taken while
armed, ignored with a session open or in the frame in which the last one closed, counted while not armed; a stuck input is marked in its
frame and valid again after 400 clean frames, and a step is marked at its FAST value (R160, R162, R173, R176 to R178, R193). -/
def Obligations.DecimatorsRestart : Prop :=
  (∀ t0 s, s.fe.scheduled = some t0 → s.regionsRun = true → t0 ≤ s.clock.legal → s.anySession = false →
    ∃ t, Machine.exec .syncScheduled s = .next t ∧ t.fe.scheduled = none ∧ t.fe.lastSync = s.clock.legal ∧ t.fe.lastSource = 1 ∧
      t.fe.plumbSince = none ∧ t.fe.resetAt = s.clock.tick ∧
      (∀ i, i < 64 → (vget t.fe.inputs i {}).marks.head? = some (unitOf s.clock.tick) ∧ (vget t.fe.inputs i {}).cell = {}) ∧ OnlyChanges [.port, .fe, .store] s t) ∧
  (∀ t0 s, s.fe.edgeAt = some t0 → s.regionsRun = true → t0 < s.clock.tick →
    ∃ t, Machine.exec .decimatorReset s = .next t ∧ t.fe.edgeAt = none ∧ t.fe.lastSync = s.clock.legal ∧ t.fe.lastSource = 2 ∧
      t.fe.plumbSince = none ∧ t.fe.resetAt = s.clock.tick ∧
      (∀ i, i < 64 → (vget t.fe.inputs i {}).marks.head? = some (unitOf s.clock.tick) ∧ (vget t.fe.inputs i {}).cell = {}) ∧ OnlyChanges [.port, .fe, .store] s t) ∧
  (∀ s, s.regionsRun = true → s.fe.armed = false →
    Machine.exec .msyncEdge s = .next { s with fe := { s.fe with msyncUnarmed := satInc 16 s.fe.msyncUnarmed } }) ∧
  (∀ s, s.regionsRun = true → s.fe.armed = true → (s.anySession = true ∨ s.fe.closedAt = some s.clock.tick) →
    Machine.exec .msyncEdge s = .next (event 0x0223 (stampB s.clock.legal) { s with fe := { s.fe with
      msyncIgnored := satInc 16 s.fe.msyncIgnored } })) ∧
  (∀ s, s.regionsRun = true → s.fe.armed = true → s.anySession = false → s.fe.closedAt ≠ some s.clock.tick →
    Machine.exec .msyncEdge s = .next { s with fe := { s.fe with armed := false, edgeAt := some s.clock.tick } }) ∧
  (∀ h f s, Accepted h 0x0210 (le 1 0 ++ le 6 f) s → 2 ≤ s.roles.role → s.anySession = false → s.fe.scheduled = none → s.fe.armed = false →
    s.fe.edgeAt = none → Machine.exec (.sync h (le 1 0 ++ le 6 f)) s = .next (answered s h 0x0210 (le 1 0 ++ le 6 f) .queued []
      { touchRole s with fe := { s.fe with scheduled := some (s.clock.legal / 400 * 400 + 400), syncAck := flagAck h.flags } })) ∧
  (∀ h f l s, Accepted h 0x0210 (le 1 1 ++ le 6 f) s → 2 ≤ s.roles.role → s.anySession = false → s.fe.scheduled = none → s.fe.armed = false →
    s.fe.edgeAt = none → f < 2 ^ 48 → frameOf f = some l → s.clock.legal ≤ l → l ≤ s.clock.legal + 1728000000 →
    Machine.exec (.sync h (le 1 1 ++ le 6 f)) s = .next (answered s h 0x0210 (le 1 1 ++ le 6 f) .queued []
      { touchRole s with fe := { s.fe with scheduled := some l, syncAck := flagAck h.flags } })) ∧
  (∀ h f s, Accepted h 0x0210 (le 1 2 ++ le 6 f) s → 2 ≤ s.roles.role → s.anySession = false → s.fe.scheduled = none → s.fe.armed = false →
    s.fe.edgeAt = none → Machine.exec (.sync h (le 1 2 ++ le 6 f)) s = .next (answered s h 0x0210 (le 1 2 ++ le 6 f) .ok []
      { touchRole s with fe := { s.fe with armed := true, armAck := flagAck h.flags } })) ∧
  (∀ h f s, Accepted h 0x0210 (le 1 3 ++ le 6 f) s → 2 ≤ s.roles.role → s.anySession = false →
    ∃ t, Machine.exec (.sync h (le 1 3 ++ le 6 f)) s = .next (answered s h 0x0210 (le 1 3 ++ le 6 f) .ok [] t) ∧ t.fe.scheduled = none ∧
      t.fe.armed = false ∧ t.fe.lastSync = s.fe.lastSync) ∧
  (∀ n x s, s.regionsRun = true → s.present n = true → modEnabled s n x = true → (modIn s n x).stuck = false →
    ∃ t, Machine.exec (.modInputStuck n x) s = .next t ∧ inputValid t n x = false ∧ (modIn t n x).badAt = s.clock.tick) ∧
  (∀ n x s, s.regionsRun = true → s.present n = true → modEnabled s n x = true → ((modIn s n x).stuck = true ∨ (modIn s n x).clockFault = true) →
    (modIn s n x).badAt + 400 ≤ s.clock.tick → s.fe.mclkStopped = false → ∃ t, Machine.exec (.modInputValid n x) s = .next t ∧
      inputValid t n x = true ∧ (modIn t n x).marks.head? = some (unitOf s.clock.tick) ∧ OnlyChanges [.port, .fe, .store] s t) ∧
  (∀ n x place s, s.regionsRun = true → s.present n = true → modEnabled s n x = true → place < 64 → stepAt s n x place = true →
    ∃ t, Machine.exec (.stepDetected n x place) s = .next t ∧ (modIn t n x).marks.head? = some (fastUnit s.clock.tick place) ∧ OnlyChanges [.fe] s t)

/-- O45. COEF_LOAD stores a set that no path uses; PATH_SELECT selects a source and fades to it, with PATH_CHANGED at the end of the fade;
a capture is started, triggered, and ends with its records or, untriggered, after 60 s (R181 to R183, R191, R193). -/
def Obligations.PathsAndCapture : Prop :=
  (∀ h bank k n body s, AcceptedExpert h 0x0211 (le 1 bank ++ le 1 k ++ le 1 n ++ body) s → k ≤ 3 → body.length = 3 * n →
    ((bank = 0 ∧ n = 22 ∧ (2 * coefSum body n - 4194304).natAbs * 10000 ≤ 4194304) ∨ (bank = 1 ∧ n = 16)) → setInUse s bank k = false →
    Machine.exec (.coefLoad h (le 1 bank ++ le 1 k ++ le 1 n ++ body)) s =
      .next (answered s h 0x0211 (le 1 bank ++ le 1 k ++ le 1 n ++ body) .ok [] { touchRole s with fe := { s.fe with
        coefs := vset s.fe.coefs (4 * bank + k) (BitVec.ofNat 536 (n + 256 * ofBytes body)) } })) ∧
  (∀ h n path x src f s, AcceptedExpert h 0x0212 (le 1 n ++ le 1 path ++ le 1 x ++ le 1 src ++ le 2 f) s → s.present n = true → path ≤ 1 →
    x ≤ 7 → src ≤ 4 → 8 ≤ f → f ≤ 256 → (src = 0 ∨ fld (coefSet s (4 * path + (src - 1))) 0 8 ≠ 0) →
    s.fe.fades.any (fun g => g.outlet == n && g.path == path && (path == 1 || g.input == x)) = false →
    (s.fe.fades.filter (fun g => g.outlet / 2 == n / 2)).length < 2 →
    ∃ t d, Machine.exec (.pathSelect h (le 1 n ++ le 1 path ++ le 1 x ++ le 1 src ++ le 2 f)) s =
        .next (answered s h 0x0212 (le 1 n ++ le 1 path ++ le 1 x ++ le 1 src ++ le 2 f) .queued [] t) ∧
      (path = 0 → fld (pathSt t n) (3 * x) 3 = src) ∧ (path = 1 → fld (pathSt t n) 24 3 = x ∧ fld (pathSt t n) 27 3 = src) ∧
      t.fe.fades = s.fe.fades ++ [d] ∧ d.len = f ∧ d.source = src ∧ d.outlet = n ∧ d.done = 0 ∧ OnlyChanges [.fe, .roles] s t) ∧
  (∀ n path x f s, s.fe.fades.find? (fun f => f.outlet == n && f.path == path && f.input == x && decide (f.len ≤ f.done)) = some f →
    Machine.exec (.fadeDone n path x) s = .next (if f.report then emit 0x0224 (le 1 n ++ le 1 path ++ le 1 x ++ le 1 f.source) f.ack
      { s with fe := { s.fe with fades := s.fe.fades.erase f } } else { s with fe := { s.fe with fades := s.fe.fades.erase f } })) ∧
  (∀ h n x path k tr s, Accepted h 0x0213 (le 1 n ++ le 1 x ++ le 1 path ++ le 2 k ++ le 1 tr) s → 1 ≤ s.roles.role → s.present n = true →
    modEnabled s n x = true → path ≤ 3 →
    (path = 2 → x ≤ 1 ∨ fld (pathSt s n) 24 3 = x) → 1 ≤ k → k ≤ 32768 → tr ≤ 2 → s.fe.capture = none →
    ∃ t c, Machine.exec (.captureStart h (le 1 n ++ le 1 x ++ le 1 path ++ le 2 k ++ le 1 tr)) s =
        .next (answered s h 0x0213 (le 1 n ++ le 1 x ++ le 1 path ++ le 2 k ++ le 1 tr) .queued [] t) ∧ t.fe.capture = some c ∧
      c.outlet = n ∧ c.input = x ∧ c.path = path ∧ c.count = k ∧ c.recording = decide (tr = 0) ∧ c.since = s.clock.tick ∧
      OnlyChanges [.fe, .roles] s t) ∧
  (∀ c u s, s.fe.capture = some c → s.regionsRun = true → c.recording = false →
    ((c.trigger = 1 ∧ c.step = some u) ∨ (c.trigger = 2 ∧ s.clock.legal % 2000 = 0 ∧ u = unitOf s.clock.tick)) →
    ∃ t d, Machine.exec .captureTrigger s = .next t ∧ t.fe.capture = some d ∧ d.recording = true ∧ d.first = u ∧ d.count = c.count ∧
      OnlyChanges [.fe] s t ∧ (c.path ≠ 0 → d = { c with recording := true, first := u })) ∧
  (∀ c s, s.fe.capture = some c → c.recording = true → c.recs.length = c.count →
    ∃ t, Machine.exec .captureDone s = .next t ∧ t.fe.capture = none ∧ t.fe.buffer.length = c.count ∧
      OnlyChanges [.port, .fe, .store] s t) ∧
  (∀ c s, s.fe.capture = some c → c.recording = false → c.since + 1200000 ≤ s.clock.tick →
    ∃ t, Machine.exec .captureDone s = .next t ∧ t.fe.capture = none ∧ t.fe.buffer = [] ∧ OnlyChanges [.port, .fe, .store] s t) ∧
  (∀ legal now y c, (c : Capture).recording = true → c.recs.length < c.count → c.first ≤ y.instant →
    (c.put legal now y).recs = (y.code, y.flags, y.instant) :: c.recs)

/-! Insulation, tone, energy and pulses (chapters 6 and 9). -/

/-- O46. Plumb's steps and periods, and what a period's reading says: below the fault threshold the status is fault, without a reading
invalid (R324, R327); a tone window's reading; the sticky flags of METER_WARN and METER_WARN_CLEAR; the end of a pulse (R190, R207, R214,
R218, R220, R221). -/
def Obligations.InsulationToneAndWarnings : Prop :=
  (∀ s, s.regionsRun = true → s.clock.legal % 2000 = 0 → s.fe.steps.head?.map (·.start) ≠ some s.clock.tick →
    ∃ t p, Machine.exec .plumbStepBoundary s = .next t ∧ t.fe.steps = (p :: s.fe.steps).take 18 ∧ p.start = s.clock.tick ∧
      p.number = (match s.fe.steps with | [] => 0 | q :: _ => q.number + 1) ∧ t.fe.plumbStep = p.number % 8 ∧ OnlyChanges [.fe] s t) ∧
  (∀ p rest s, s.regionsRun = true → s.fe.steps = p :: rest → p.number % 8 = 0 → s.fe.plumbPeriod < p.number / 8 →
    p.start + 8 ≤ s.clock.tick →
    ∃ t, Machine.exec .plumbPeriodEnd s = .next t ∧ t.fe.plumbPeriod = p.number / 8 ∧
      ∀ n, s.present n = true → (ins t n).stamp = s.clock.legal) ∧
  (∀ n g e s, n < 8 → (ins (judgeIns n g e none s) n).status = 3) ∧
  (∀ n g e (r : Reading) s, n < 8 → bit s.faults.plumbCells n = false → 100 * min r.rp r.rn < fld (plCfg s n) 52 12 * groupVfs s g →
    (ins (judgeIns n g e (some r) s) n).status = 2) ∧
  (∀ n i q s, s.regionsRun = true → s.present n = true → modEnabled s n 0 = true → (tone s n).ended = some (i, q, true) →
    ∃ t, Machine.exec (.toneWindowEnd n) s = .next t ∧ (tone t n).valid = true ∧ (tone t n).lastRatio = satInt 32 (toneRatio s n i q) ∧
      (tone t n).lastPhase = satInt 16 (tonePhaseOf s n i q) ∧ (tone t n).lastValidAt = s.clock.tick ∧ (tone t n).ended = none ∧
      (toneDrift t n = true → bit (eng t n).warn 0 = true) ∧ (tonePhase t n = true → bit (eng t n).warn 1 = true)) ∧
  (∀ n i q s, s.regionsRun = true → s.present n = true → modEnabled s n 0 = true → (tone s n).ended = some (i, q, false) →
    Machine.exec (.toneWindowEnd n) s = .next (updTone n (fun t => { t with ended := none, valid := false }) s)) ∧
  (∀ n s, s.regionsRun = true → s.present n = true → toneMissing s n = true →
    ∃ t, Machine.exec (.toneUnavailable n) s = .next t ∧ bit (eng t n).warn 2 = true ∧ OnlyChanges [.port, .energy, .store] s t) ∧
  (∀ k s, (pls s k).low = true → (pls s k).endAt ≤ s.clock.tick →
    Machine.exec (.pulseEnd k) s = .next (updPls k (fun y => { y with low := false, relAt := s.clock.tick }) s)) ∧
  (∀ n s, s.regionsRun = true → s.present n = true → standing1s s n = true → (eng s n).standEv = none →
    ∃ t, Machine.exec (.standingEnergy n) s = .next t ∧ (eng t n).standEv = some s.clock.tick ∧ bit (eng t n).warn 5 = true ∧
      OnlyChanges [.port, .energy, .store] s t) ∧
  (∀ h n mask s, Accepted h 0x0310 (le 1 n ++ le 2 mask) s → s.roles.role = 3 → s.modes.mode = .commissioning → s.present n = true → mask < 64 →
    noRecordPlace s = false → (∀ b, b < 6 → mask.testBit b = true → warnHolds s n b = false) →
    ∃ t, Machine.exec (.meterWarnClear h (le 1 n ++ le 2 mask)) s = .next (answered s h 0x0310 (le 1 n ++ le 2 mask) .ok [] t) ∧
      (eng t n).warn = (eng s n).warn &&& ~~~ BitVec.ofNat 32 mask ∧ t.log.seq = s.log.seq + 1) ∧
  (∀ h n mask b s, Accepted h 0x0310 (le 1 n ++ le 2 mask) s → s.roles.role = 3 → s.modes.mode = .commissioning → s.present n = true → mask < 64 →
    noRecordPlace s = false → b < 6 → mask.testBit b = true → warnHolds s n b = true →
    Machine.exec (.meterWarnClear h (le 1 n ++ le 2 mask)) s = .next (answered s h 0x0310 (le 1 n ++ le 2 mask) .notConfirmed [] (touchRole s)))

/-! Legal time, tariffs, demand, records and the seal (chapter 7). -/

/-- O47. TIME_SET: a set from invalid time waits for the superframe tick, a small correction slews, a larger one needs ALLOW_STEP and is
queued; the set and the step as they apply (R231 to R234). -/
def Obligations.LegalTimeSet : Prop :=
  (∀ h f g a s, Accepted h 0x0410 (le 6 f ++ le 1 a) s → 1 ≤ s.roles.role → f < 2 ^ 48 → frameOf f = some g → a ≤ 1 → s.clock.valid = false →
    Machine.exec (.timeSet h (le 6 f ++ le 1 a)) s = .next (answered s h 0x0410 (le 6 f ++ le 1 a) .ok []
      { touchRole s with clock := { s.clock with pendingSet := some (g, s.clock.tick), stepAck := flagAck h.flags } })) ∧
  (∀ h f g a (d : Int) s, Accepted h 0x0410 (le 6 f ++ le 1 a) s → 1 ≤ s.roles.role → f < 2 ^ 48 → frameOf f = some g → a ≤ 1 →
    s.clock.valid = true → d = ((g : Int) - s.clock.legal) * 1250 → d.natAbs + slewSum s ≤ 225000000 →
    Machine.exec (.timeSet h (le 6 f ++ le 1 a)) s = .next (answered s h 0x0410 (le 6 f ++ le 1 a) .ok []
      (timeAdjusted 0 (d / 25000) s.clock.legal 0 (flagAck h.flags) { touchRole s with clock := { s.clock with
        slew := d, pendingStep := none, slews := (s.clock.tick, d.natAbs) :: s.clock.slews } }))) ∧
  (∀ h f g (d : Int) s, Accepted h 0x0410 (le 6 f ++ le 1 0) s → 1 ≤ s.roles.role → f < 2 ^ 48 → frameOf f = some g → s.clock.valid = true →
    d = ((g : Int) - s.clock.legal) * 1250 → 225000000 < d.natAbs + slewSum s →
    Machine.exec (.timeSet h (le 6 f ++ le 1 0)) s = .next (answered s h 0x0410 (le 6 f ++ le 1 0) .notConfirmed [] (touchRole s))) ∧
  (∀ h f g (d : Int) s, Accepted h 0x0410 (le 6 f ++ le 1 1) s → 1 ≤ s.roles.role → f < 2 ^ 48 → frameOf f = some g → s.clock.valid = true →
    d = ((g : Int) - s.clock.legal) * 1250 → 225000000 < d.natAbs + slewSum s → roundSuper ((g : Int) - s.clock.legal) ≠ 0 →
    noRecordPlace s = false →
    Machine.exec (.timeSet h (le 6 f ++ le 1 1)) s = .next (answered s h 0x0410 (le 6 f ++ le 1 1) .queued []
      { touchRole s with clock := { s.clock with pendingStep := some d, stepAck := flagAck h.flags } })) ∧
  (∀ g t0 s, s.clock.pendingSet = some (g, t0) → atSuperframe s = true → ∃ t, Machine.exec .timeSetApply s = .next t ∧ t.clock.valid = true ∧
    t.clock.pendingSet = none ∧ t.clock.legal = (roundSuper ((g + (s.clock.tick - t0) : Nat) : Int)).toNat ∧ t.log.seq = s.log.seq + 1 ∧
    t.clock.tick = s.clock.tick) ∧
  (∀ d s, stepDue s = some d → ∃ t, Machine.exec .clockStep s = .next t ∧ t.clock.pendingStep = none ∧
    t.clock.legal = ((s.clock.legal : Int) + roundSuper (d / 1250)).toNat ∧ t.clock.slew = d - roundSuper (d / 1250) * 1250 ∧
    t.clock.tick = s.clock.tick ∧ t.billing.subStart = t.clock.legal)

/-- O48. TARIFF_ANNOUNCE puts an entry into the calendar; at its second its tariff becomes active; a processed entry leaves after 24 h
(R236, R238). A sub-interval boundary closes the window; once every share before it is in, the boundary is committed and the window's
demand and maximum are kept; DEMAND_RESET clears the maxima in a boundary of its own at the next superframe tick (R244, R245, R248 to
R250). -/
def Obligations.TariffsAndDemand : Prop :=
  (∀ h start tf s, Accepted h 0x0411 (le 1 1 ++ le 4 start ++ le 1 tf ++ le 1 0) s → 1 ≤ s.roles.role → s.billing.active < 8 → tf ≤ 7 →
    start < 2 ^ 32 → versionOf s tf ≠ 0 → start * 20000 ≤ s.clock.legal + 691200000000 → s.clock.legal + 1200000 ≤ start * 20000 →
    (calFind s (fun e => e.state != 0)).length ≤ 63 → (∀ e ∈ calFind s (fun e => e.state != 0), e.start ≠ start) →
    ∃ t, Machine.exec (.tariffAnnounce h (le 1 1 ++ le 4 start ++ le 1 tf ++ le 1 0)) s =
        .next (answered s h 0x0411 (le 1 1 ++ le 4 start ++ le 1 tf ++ le 1 0) .ok [] t) ∧
      t.billing.calendar.any (fun e => e.state == 1 && e.start == start && e.tariff == tf) = true ∧ t.billing.active = s.billing.active ∧
      OnlyChanges [.billing, .roles] s t) ∧
  (∀ e s, s.regionsRun = true → dueEntry s = some e → stepDue s = none →
    ∃ t, Machine.exec .tariffBoundary s = .next t ∧ t.billing.active = e.tariff ∧
      ∀ i, i < 64 → entryDue s (calEntry s i) = true → (calEntry t i).state = 2) ∧
  (∀ i s, s.regionsRun = true → (calEntry s i).state = 2 → ((calEntry s i).start + 86400) * 20000 ≤ s.clock.legal →
    Machine.exec (.calendarEntryExpiry i) s = .next { s with billing := { s.billing with calendar := vset s.billing.calendar i {} } }) ∧
  (∀ s, s.regionsRun = true → windowDue s = true → stepDue s = none → ∃ t, Machine.exec .demandWindowEnd s = .next t ∧
    t.billing.subStart = gridInstant s ∧ ∀ u, u < 9 → (vget t.billing.demand u {}).subImp = 0 ∧ (vget t.billing.demand u {}).subExp = 0) ∧
  (∀ c rest e s, s.regionsRun = true → s.billing.commits = c :: rest → behind s c.tick = false → c.reset = none →
    rest.head?.all (fun d => behind s d.tick) = true → s.billing.evals.filter (fun x => x.tick == c.tick) = [e] → e.frozen = false →
    ∃ t, Machine.exec .demandEvaluation s = .next t ∧ t.billing.commits = rest ∧ t.billing.boundary = s.billing.boundary + 1 ∧
      t.billing.evals = s.billing.evals.filter (fun x => x.tick != c.tick) ∧
      ∀ u ∈ units s, (vget t.billing.demand u {}).lastImp = sat 32 (demandW e.minutes (vget e.energy u (0, 0)).1) ∧
        (vget t.billing.demand u {}).maxImp = max (vget s.billing.demand u {}).maxImp (sat 32 (demandW e.minutes (vget e.energy u (0, 0)).1))) ∧
  (∀ c rest e s, s.regionsRun = true → s.billing.commits = c :: rest → behind s c.tick = false → c.reset = none →
    rest.head?.all (fun d => behind s d.tick) = true → s.billing.evals.filter (fun x => x.tick == c.tick) = [e] → e.frozen = true →
    ∃ t, Machine.exec .demandEvaluation s = .next t ∧ t.billing.commits = rest ∧ t.billing.demand = s.billing.demand) ∧
  (∀ c rest s, s.billing.commits = c :: rest → behind s c.tick = true → Machine.exec .demandEvaluation s = .next s) ∧
  (∀ h s, Accepted h 0x0412 [] s → 1 ≤ s.roles.role → (s.modes.mode = .standby ∨ s.modes.mode = .service) → s.billing.resetDue = none →
    noRecordPlace s = false → Machine.exec (.demandReset h []) s = .next (answered s h 0x0412 [] .queued []
      { touchRole s with billing := { s.billing with resetDue := some (flagAck h.flags) } })) ∧
  (∀ a s, resetReady s = some a → windowDue s = false → dueEntry s = none → stepDue s = none → s.billing.commits = [] →
    ∃ t, Machine.exec .demandResetApply s = .next t ∧
      (behind s s.clock.tick = true →
        t.billing.commits = [{ boundaryAt s.clock.legal s.clock.tick s with reset := some (a, s.clock.legal) }] ∧ OnlyChanges [.billing] s t) ∧
      (behind s s.clock.tick = false → t.billing.resetDue = none ∧ t.log.seq = s.log.seq + (units s).length ∧
        ∀ u, u < 9 → (vget t.billing.demand u {}).maxImp = 0 ∧ (vget t.billing.demand u {}).maxExp = 0 ∧
          (vget t.billing.demand u {}).resetAt = s.clock.legal))

/-- O49. Records are read, acknowledged and stored in sequence; opening the loop latches the seal and signs, every opening is counted; an
access attempt under the debug lock is recorded once; RESEAL clears the latches only with the loop intact for 1 s; a
segment's reclaim and a block's refresh leave the records as they are (R63, R259 to R264, R431, R441, R442). -/
def Obligations.RecordsAndSeal : Prop :=
  (∀ h q k s, Accepted h 0x0413 (le 8 q ++ le 1 k) s → 1 ≤ s.roles.role → q < 2 ^ 64 → s.log.oldest ≤ q → 1 ≤ k → k ≤ 15 →
    Machine.exec (.logRead h (le 8 q ++ le 1 k)) s = .next (answered s h 0x0413 (le 8 q ++ le 1 k) .ok
      (le 1 (readRecords s k q).length ++ (readRecords s k q).flatten) (touchRole s))) ∧
  (∀ h q s, Accepted h 0x0414 (le 8 q) s → 1 ≤ s.roles.role → q < 2 ^ 64 → q ≤ newestSeq s → ∃ t, Machine.exec (.logAck h (le 8 q)) s =
    .next (answered s h 0x0414 (le 8 q) .ok [] t) ∧ t.log.acked = max s.log.acked q ∧ t.log.journal = s.log.journal) ∧
  (∀ r rest s, s.running = true → s.log.overflow = [] → unstoredRecords s = r :: rest → s.log.storedHi - s.log.acked < logCapacity →
    ∃ t, Machine.exec .logRecordStore s = .next t ∧ t.log.storedHi = r.seq) ∧
  (∀ l t0 s, s.regionsRun = true → s.power.pfw = false → nextPage s = some l → headSegment ((l.map (·.seq)).headD 0) s.store = some t0 →
    ∃ t, Machine.exec (.logPageProgram true) s = .next t ∧ t.log.stored = l.reverse ++ s.log.stored ∧
      ∀ r ∈ t.log.journal, ∀ q ∈ l, r.seq ≠ q.seq) ∧
  (∀ s, ∃ t, Machine.exec .sealOpening s = .next t ∧ t.seals.broken = true ∧ t.seals.unverified = true ∧
    t.seals.loopIntact = false ∧ t.seals.openCount = sat 4 (s.seals.openCount + 1) ∧
    (s.seals.broken = true → OnlyChanges [.seals] s t ∧ t.seals.brokenAt = s.seals.brokenAt) ∧
    (s.seals.broken = false → s.regionsRun = true → s.log.seq < t.log.seq ∧ (s.modes.mode = .standby → t.modes.mode = .commissioning)) ∧
    (s.seals.broken = false → s.regionsRun = false → t.seals.unrecorded = s.seals.unrecorded ++ [(0, s.clock.legal)] ∧
      OnlyChanges [.seals] s t)) ∧
  (∀ s, s.regionsRun = true → s.v3dUp = true → s.rst.debugLocked = true → s.seals.attemptDone = false →
    ∃ t, Machine.exec .debugAccessAttempt s = .next t ∧ t.seals.tamper = true ∧ t.seals.unverified = true ∧ t.seals.attemptDone = true ∧
      t.seals.broken = s.seals.broken ∧ s.log.seq < t.log.seq) ∧
  (∀ s, s.v3dUp = true → s.regionsRun = false → s.rst.debugLocked = true → s.seals.attemptDone = false →
    Machine.exec .debugAccessAttempt s = .next { s with
      seals := { s.seals with
        tamper := true, unverified := true, attemptDone := true, unrecorded := s.seals.unrecorded ++ [(2, s.clock.legal)] } }) ∧
  (∀ s, s.seals.attemptDone = true ∨ s.v3dUp = false ∨ s.rst.debugLocked = false → Machine.exec .debugAccessAttempt s = .next s) ∧
  (∀ h s, Accepted h 0x0415 [] s → s.roles.role = 3 → s.modes.mode = .commissioning → noRecordPlace s = false → s.seals.loopIntact = true →
    s.seals.intactAt + 20000 ≤ s.clock.tick → ∃ t, Machine.exec (.reseal h []) s = .next (answered s h 0x0415 [] .queued [] t) ∧
      t.seals.broken = false ∧ t.seals.unverified = false ∧ t.seals.tamper = false ∧ t.seals.openCount = 0 ∧
      t.seals.resealedAt = s.clock.legal ∧ t.log.seq = s.log.seq + 1 ∧ t.modes = s.modes) ∧
  (∀ h s, Accepted h 0x0415 [] s → s.roles.role = 3 → s.modes.mode = .commissioning → noRecordPlace s = false →
    (s.seals.loopIntact = false ∨ s.clock.tick < s.seals.intactAt + 20000) →
    Machine.exec (.reseal h []) s = .next (answered s h 0x0415 [] .notConfirmed [] (touchRole s))) ∧
  (∀ d g r s, s.regionsRun = true → s.shutting = false → s.store.reclaim = none → reclaimSource d s = some (g, r) →
    (r = false ∨ (leastErased s.store.free).isSome = true) → ∃ t q, Machine.exec (.reclaimStart d) s = .next t ∧
      t.store.reclaim = some q ∧ q.source = g.id ∧ t.log = s.log ∧ OnlyChanges [.store] s t) ∧
  (∀ r s, s.regionsRun = true → s.shutting = false → s.store.reclaim = some r → pageWaits s = false → r.step = 1 →
    ∃ t q, Machine.exec (.reclaimStepDone true) s = .next t ∧ t.store.reclaim = some q ∧ q.step = 2 ∧ t.log.seq = s.log.seq) ∧
  (∀ part b s, s.regionsRun = true → s.shutting = false → part < 5 → part ≠ 3 → ∃ t, Machine.exec (.nandBlockRefresh part b false) s = .next t ∧
    t.store.refreshes = satInc 16 s.store.refreshes ∧ t.log = s.log)

/-! The vehicle link (chapter 8). -/

/-- O50. A plateau within a band gives the pilot its state, and a disturbed one is counted; proximity takes a class that two
frames agree on; leave refused is asked again after 10 s; an association window that runs out makes a pilot restart, and after RESTARTS of
them the link fails (R273 to R278, R288). -/
def Obligations.PilotAndProximity : Prop :=
  (∀ (pl : Plateau) l p s, s.regionsRun = true → s.present pl.outlet = true → (lk s pl.outlet).drive ≤ 1 → pl.positive = true →
    l = plateauSamples (lk s pl.outlet).drive pl.samples → l ≠ [] → plateauSpan l ≤ 1500 →
    pilotBand (plateauMv l) = some p → (lk s pl.outlet).diodeFault = false →
    ∃ t, Machine.exec (.pilotStateChange pl) s = .next t ∧ (lk t pl.outlet).pilot = p ∧ (lk t pl.outlet).posMv = satInt 16 (plateauMv l) ∧
      (lk t pl.outlet).disturbedRun = 0) ∧
  (∀ (pl : Plateau) s, s.regionsRun = true → s.present pl.outlet = true → plateauForms (lk s pl.outlet).drive pl.positive = true →
    1500 < plateauSpan (plateauSamples (lk s pl.outlet).drive pl.samples) → (lk s pl.outlet).disturbedRun ≠ 2 → (pl.positive = true ∨ (lk s pl.outlet).diodeCheck = 0) → Machine.exec (.pilotStateChange pl) s =
      .next (updLk pl.outlet (fun y => { y with disturbedRun := (lk s pl.outlet).disturbedRun + 1 }) s)) ∧
  (∀ n mv s, s.regionsRun = true → s.present n = true → bit (lkCfg s n) 8 = true → ppClass s n mv ≠ (lk s n).pp →
    (lk s n).ppCandidate ≠ some (ppClass s n mv) → Machine.exec (.ppChange n mv) s =
      .next (updLk n (fun y => { y with ppCandidate := some (ppClass s n mv) }) (updLk n (fun y => { y with ppOhm := ppOhms mv }) s))) ∧
  (∀ n mv s, s.regionsRun = true → s.present n = true → bit (lkCfg s n) 8 = true → ppClass s n mv ≠ (lk s n).pp →
    (lk s n).ppCandidate = some (ppClass s n mv) → ∃ t, Machine.exec (.ppChange n mv) s = .next t ∧ (lk t n).pp = ppClass s n mv) ∧
  (∀ n t0 s, n < 8 → (lk s n).leaveAt = some t0 → (lk s n).phase = 1 → (lk s n).leave = none → t0 + 200000 ≤ s.clock.tick → (lk s n).pilot = 1 →
    linkWorks s = true → available s n = true → ppOk s n = true → (lk s n).drive = 0 → isT1s s n = false → (lk s n).needA = false →
    ∃ t, Machine.exec (.pwmLeaveRetry n) s = .next t ∧ (lk t n).phase = 1 ∧ (lk t n).leave = some s.ease.nextId ∧ (lk t n).leaveAt = none ∧
      t.ease.nextId = s.ease.nextId + 1 ∧ OnlyChanges [.ease, .link] s t) ∧
  (∀ n t0 s, n < 8 → (lk s n).pwmAt = some t0 → (lk s n).phase = 2 → linkWorks s = true → (lk s n).windowOpen = true → t0 + slacInit s ≤ s.clock.tick →
    ∃ t, Machine.exec (.associationWindowEnd n) s = .next t ∧ (lk t n).windowOpen = false ∧ (lk t n).leave = none ∧
      (slacRestarts s ≤ (lk s n).restarts → (lk t n).phase = 9) ∧
      ((lk s n).restarts < slacRestarts s → (lk t n).phase = 8 ∧ (lk t n).drive = 2 ∧ (lk t n).restarts = (lk s n).restarts + 1 ∧
        (lk t n).restartAt = some s.clock.tick)) ∧
  (∀ n t0 s, (lk s n).restartAt = some t0 → linkWorks s = true → (lk s n).phase = 8 → t0 + 80000 ≤ s.clock.tick →
    Machine.exec (.pilotRestartEnd n) s = .next (updLk n (fun y => { y with drive := 0, restartAt := none }) s))

/-- O51. Triangulation: the strongest line alone answers and begins a set; a sounding renews the set; the end of the collection stamps the
line's triangulation and answers a set that goes on; a match draws a new membership key; the join binds the link; a vehicle that does not
join, or a set that falls silent, ends its set (R281 to R285). -/
def Obligations.TriangulationBinds : Prop :=
  (∀ mac run atten c a d s, strongest (heardLines s atten) = some (c, a) → linkWorks s = true → setOf s mac run = none →
    s.link.sets.length < 8 → (lk s c).phase = 2 → (lk s c).windowOpen = true → s.link.sets.any (fun t => t.cand == c) = false →
    lowestMargin c a (heardLines s atten) = some d →
    ∃ t x, Machine.exec (.cmSlacParmReq mac run atten) s = .next t ∧ t.link.sets = s.link.sets ++ [x] ∧ x.mac = mac ∧ x.run = run ∧
      x.cand = c ∧ x.margin = satInt 16 d ∧ x.stage = 1 ∧ t.link.answer = ansParm ∧ t.link.answerOut = c ∧ OnlyChanges [.link] s t) ∧
  (∀ mac run atten x s, setOf s mac run = some x → x.stage ≤ 2 → linkWorks s = true →
    ∃ t u, Machine.exec (.soundingReceived mac run atten) s = .next t ∧ setOf t mac run = some u ∧ u.stage = 2 ∧ u.last = s.clock.tick ∧
      u.cand = x.cand ∧ OnlyChanges [.link] s t) ∧
  (∀ mac run x s, setOf s mac run = some x → x.stage ≤ 2 → x.cand < 8 → linkWorks s = true →
    ∃ t, Machine.exec (.attenCollectionEnd mac run) s = .next t ∧ vget t.link.triAt x.cand 0 = s.clock.legal ∧
      ∀ u, setOf t mac run = some u → u.stage = 3 ∧ t.link.answer = ansAtten ∧ t.link.answerOut = x.cand) ∧
  (∀ mac run x s, setOf s mac run = some x → x.stage = 3 → x.cand < 8 → linkWorks s = true → (lk s x.cand).windowOpen = true → (lk s x.cand).pilot = 1 →
    ∃ t u, Machine.exec (.cmSlacMatchReq mac run) s = .next t ∧ setOf t mac run = some u ∧ u.stage = 4 ∧ u.matchAt = s.clock.tick ∧
      (lk t x.cand).nmk = some (Config.membershipKey s.factory.freeCtr) ∧
      (lk t x.cand).nid = some (Config.networkId (Config.membershipKey s.factory.freeCtr)) ∧ (lk t x.cand).evMac = mac ∧ (lk t x.cand).windowOpen = false ∧
      t.link.answer = ansMatch ∧ OnlyChanges [.factory, .link] s t) ∧
  (∀ n mac s, linkWorks s = true → ccsLine s n = true → s.link.sets.any (fun t => t.mac == mac && t.cand == n) = true →
    Machine.exec (.cmValidateReq n mac) s = .next { s with link := { s.link with answer := ansValidate, answerOut := n } }) ∧
  (∀ mac run x s, setOf s mac run = some x → x.stage = 4 → x.cand < 8 → linkWorks s = true → (lk s x.cand).phase = 2 →
    ∃ t, Machine.exec (.vehicleJoin mac run) s = .next t ∧ (lk t x.cand).phase = 3 ∧ (lk t x.cand).evMac = (lk s x.cand).evMac ∧
      setOf t mac run = none ∧ OnlyChanges [.port, .link, .store] s t) ∧
  (∀ mac run x s, setOf s mac run = some x → x.stage = 4 → x.cand < 8 → linkWorks s = true → x.matchAt + 240000 ≤ s.clock.tick →
    ∃ t, Machine.exec (.joinTimeout mac run) s = .next t ∧ (lk t x.cand).evMac = 0 ∧ (lk t x.cand).nmk = none ∧ setOf t mac run = none) ∧
  (∀ mac run x s, setOf s mac run = some x → x.stage < 4 → linkWorks s = true → x.last + 40000 ≤ s.clock.tick →
    Machine.exec (.soundingSetTimeout mac run) s = .next (endSet mac run s))

/-- O52. T1S links, the protocol chosen in the order of R291, the requests of a bound vehicle, and what ends a link that delivers nothing: a
lost T1S link, no protocol in common, a timer of the protocol, a session stop, a stop's grace (R290 to R298). -/
def Obligations.LinksRunAndEnd : Prop :=
  (∀ n mac s, linkWorks s = true → available s n = true → isT1s s n = true → ppOk s n = true → pilotReady s n = true →
    linkRuns s n = false → ∃ t, Machine.exec (.t1sLinkUp n mac) s = .next t ∧ (lk t n).phase = 3 ∧ (lk t n).plca = true ∧
      (lk t n).evMac = mac % 2 ^ 48 ∧ (lk t n).lastFrame = s.clock.tick ∧ OnlyChanges [.port, .link, .store] s t) ∧
  (∀ n s, linkWorks s = true → isT1s s n = true → linkRuns s n = true → ∃ t, Machine.exec (.t1sLinkLoss n) s = .next t ∧ (lk t n).plca = false ∧
    ((sq s n).state = 0 → (lk t n).phase = 0 ∧ (lk t n).evMac = 0)) ∧
  (∀ n offered k s, linkWorks s = true → frameTaken s n = true → (lk s n).phase = 3 → chooseProtocol s n offered = some k →
    Machine.exec (.supportedAppProtocolReq n offered) s = .next (tell n ansOk (updLk n (fun y =>
      { y with phase := 4, protocol := k, tls := k == 3 || (k == 2 && y.tls), lastFrame := s.clock.tick }) s))) ∧
  (∀ n offered s, n < 8 → linkWorks s = true → frameTaken s n = true → (lk s n).phase = 3 → chooseProtocol s n offered = none → (sq s n).state = 0 →
    ∃ t, Machine.exec (.supportedAppProtocolReq n offered) s = .next t ∧ (lk t n).phase = 0 ∧ t.link.answer = ansFailed) ∧
  (∀ n s, n < 8 → linkWorks s = true → 3 ≤ (lk s n).phase → (lk s n).phase ≤ 7 → ∃ t, Machine.exec (.protocolTimerExpiry n) s = .next t ∧
    ((sq s n).state = 0 → (lk t n).phase = 0) ∧ (2 ≤ (sq s n).state → (sq s n).state ≤ 5 → (sq t n).state = 6 ∧ (lk t n).phase = 7)) ∧
  (∀ n kind s, n < 8 → linkWorks s = true → frameTaken s n = true → 3 ≤ (lk s n).phase → (lk s n).phase ≤ 7 →
    ∃ t, Machine.exec (.v2gRequest n kind) s = .next t ∧ (kind = 1 → (lk t n).tls = ((lk s n).protocol != 1) ∧ t.link.answer = ansOk) ∧
    (kind = 3 → (lk t n).offer = servicesOf s n ∧ t.link.answer = ansOk) ∧ (kind = 5 → (sq s n).state = 0 → (lk t n).phase = 0) ∧
    (kind = 6 → t.link.answer = ansFailed) ∧ (kind = 7 → t.link.schedule = vehicleSchedule s ∧ t.link.answer = ansOk) ∧
    (kind ≠ 5 → (lk t n).lastFrame = s.clock.tick ∧ OnlyChanges [.link] s t)) ∧
  (∀ h n g s, Accepted h 0x0511 (le 1 n ++ le 1 g) s → 1 ≤ s.roles.role → (s.modes.mode = .standby ∨ s.modes.mode = .service) →
    s.present n = true → g ≤ 2 → linkRuns s n = true → (lk s n).stopAt = none →
    ∃ t, Machine.exec (.linkStop h (le 1 n ++ le 1 g)) s = .next (answered s h 0x0511 (le 1 n ++ le 1 g) .queued [] t) ∧
      (lk t n).stopAt = some s.clock.tick ∧ (lk t n).phase = 7 ∧ t.link.answer = ansStop ∧ OnlyChanges [.link, .roles] s t) ∧
  (∀ n t0 s, n < 8 → (lk s n).stopAt = some t0 → linkWorks s = true → t0 + stopGrace s ≤ s.clock.tick → ∃ t, Machine.exec (.stopGraceExpiry n) s = .next t ∧
    (lk t n).stopAt = none ∧ ((sq s n).state = 0 → linkRuns s n = true → (lk t n).phase = 0))

/-- O53. Authorization: the request of a bound vehicle, a refusal that persists, a deadline that passes, the host's denial and its accept in
the frame after the command, which opens the session (R295 to R297); SECC keys and certificates (R301). -/
def Obligations.AuthorizationDecides : Prop :=
  (∀ n method contract chain s, n < 8 → linkWorks s = true → frameTaken s n = true → (lk s n).phase = 4 → refuseCause s n = 0 →
    ∃ t r, Machine.exec (.authorizationReq n (lk s n).evMac method contract chain) s = .next t ∧ (lk t n).phase = 5 ∧
      t.link.requests = (r :: s.link.requests).take 64 ∧ r.outlet = n ∧ r.state = 0 ∧ r.deadline = s.clock.tick + authDeadline s ∧
      r.number = (s.link.requestCtr + 1) % 2 ^ 32 ∧ t.link.answer = ansOngoing) ∧
  (∀ n method contract chain s, n < 8 → linkWorks s = true → frameTaken s n = true → (lk s n).phase = 4 → refuseCause s n ≠ 0 →
    ∃ t, Machine.exec (.authorizationReq n (lk s n).evMac method contract chain) s = .next t ∧ (lk t n).phase = 5 ∧
      t.link.requests = s.link.requests ∧ (lk t n).refuseAt = some s.clock.tick) ∧
  (∀ n t0 s, n < 8 → (lk s n).refuseAt = some t0 → linkWorks s = true → (lk s n).phase = 5 → t0 + refuseHold s ≤ s.clock.tick → refuseCause s n ≠ 0 →
    ∃ t, Machine.exec (.refuseHoldExpiry n) s = .next t ∧ (lk t n).phase = 0 ∧ (lk t n).refuseAt = none) ∧
  (∀ n r s, n < 8 → openAuth s n = some r → linkWorks s = true → r.deadline ≤ s.clock.tick → linkRuns s n = true →
    ∃ t, Machine.exec (.authDeadlineExpiry n) s = .next t ∧ (lk t n).phase = 0 ∧ openAuth t n = none) ∧
  (∀ h k rest r s, Accepted h 0x0510 (le 4 k ++ le 1 0 ++ le 1 0 ++ le 4 rest) s → 1 ≤ s.roles.role →
    (s.modes.mode = .standby ∨ s.modes.mode = .service) → k < 2 ^ 32 → authNo s k = some r → r.state = 0 → r.outlet < 8 →
    linkRuns s r.outlet = true → ∃ t, Machine.exec (.authDecide h (le 4 k ++ le 1 0 ++ le 1 0 ++ le 4 rest)) s =
        .next (answered s h 0x0510 (le 4 k ++ le 1 0 ++ le 1 0 ++ le 4 rest) .ok [] t) ∧ (lk t r.outlet).phase = 0) ∧
  (∀ h k rest r s, Accepted h 0x0510 (le 4 k ++ le 1 1 ++ le 1 0 ++ le 4 rest) s → 1 ≤ s.roles.role →
    (s.modes.mode = .standby ∨ s.modes.mode = .service) → k < 2 ^ 32 → authNo s k = some r → r.state = 0 →
    ∃ t a, Machine.exec (.authDecide h (le 4 k ++ le 1 1 ++ le 1 0 ++ le 4 rest)) s = .next t ∧
      t.port.awaiting = s.port.awaiting ++ [a] ∧ a.payload = le 4 k ++ le 1 1 ++ le 1 0 ++ le 4 rest ∧ a.opcode = 0x0510 ∧
      t.port.replies = s.port.replies ∧ OnlyChanges [.port, .roles, .ease] s t) ∧
  (∀ a r s, authNo s (numAt a.payload 0 4) = some r → r.state = 0 → s.present r.outlet = true → (lk s r.outlet).phase = 5 → refuseCause s r.outlet = 0 →
    (lk s r.outlet).talker = (lk s r.outlet).evMac → ppOk s r.outlet = true → s.sessionOpen r.outlet = false → (acceptAuth a s).sessionOpen r.outlet = true ∧
      (lk (acceptAuth a s) r.outlet).phase = 6 ∧ (acceptAuth a s).billing.sessionCtr = s.billing.sessionCtr + 1 ∧
      (s.modes.mode = .standby → (acceptAuth a s).modes.mode = .service)) ∧
  (∀ h k subject s, Accepted h 0x0512 (le 1 k ++ subject) s → 2 ≤ s.roles.role → standbyOrComm s = true → k ≤ 1 → subject.length = 64 →
    ∃ t, Machine.exec (.seccCsr h (le 1 k ++ subject)) s = .next (answered s h 0x0512 (le 1 k ++ subject) .ok
        ((Config.certRequest (Config.seccKey s.factory.freeCtr) subject).take 4096) t) ∧
      vget t.link.seccKeys k none = some (Config.seccKey s.factory.freeCtr) ∧ OnlyChanges [.factory, .link, .roles] s t) ∧
  (∀ h k der s, Accepted h 0x0513 (le 1 k ++ le 2 der.length ++ der) s → 2 ≤ s.roles.role → standbyOrComm s = true → k ≤ 5 →
    1 ≤ der.length → der.length ≤ 4000 → Machine.exec (.seccCertSet h (le 1 k ++ le 2 der.length ++ der)) s = .next
      (if Config.derWellFormed der && (decide (2 ≤ k) || (vget s.link.seccKeys k none).any (Config.derCarriesKey der)) then
        answered s h 0x0513 (le 1 k ++ le 2 der.length ++ der) .ok [] { touchRole s with link := { s.link with certs := vset s.link.certs k der } }
       else turnedAway s h 0x0513 .badParam))

/-! DC switching and safety functions (chapter 9). -/

/-- O54. The sequence of Table 9-4 and its stops: what each request and each end of a wait does, the driver's own events, and the stops that
a failed check, a weld, a late ramp or an overcurrent starts (R307 to R311, R315 to R322, R332). -/
def Obligations.SwitchingSequence : Prop :=
  (∀ n maxV s, mayDeliver s n = true → (sq s n).state = 0 → ownerOf s n = none →
    s.sw.jobs.any (fun j => bit j.segments n) = false → (sq s n).vVeh.natAbs < 60000 → (sq s n).vBus.natAbs < 60000 →
    (drv s (2 * n)).state = 0 → (drv s (2 * n + 1)).state = 0 →
    ∃ t r, Machine.exec (.cableCheckReq n maxV) s = .next t ∧ (sq t n).state = 1 ∧ ownerOf t n = some n ∧ r.cls = 1 ∧
      t.ease.requests = s.ease.requests ++ [r] ∧ (drv t (2 * n)).req = some s.ease.nextId ∧ (drv t (2 * n + 1)).req = some s.ease.nextId ∧
      t.link.answer = ansOngoing) ∧
  (∀ n maxV s, s.regionsRun = true → s.shutting = false → s.present n = true → s.sessionOpen n = true → (sq s n).state = 0 →
    mayDeliver s n = false → Machine.exec (.cableCheckReq n maxV) s = .next (tell n ansOngoing s)) ∧
  (∀ n v s, s.regionsRun = true → s.shutting = false → s.present n = true → (sq s n).state = 3 → 2 ≤ (sq s n).passRun → ∃ t, Machine.exec (.prechargeReq n v) s = .next t ∧
    (sq t n).state = 4 ∧ (sq t n).target = sat 16 v ∧ OnlyChanges [.port, .link, .sw, .store] s t) ∧
  (∀ n s, s.regionsRun = true → s.shutting = false → s.present n = true → (sq s n).state = 4 → 10 ≤ (sq s n).matchRun →
    ∃ t, Machine.exec (.powerDeliveryReq n true) s = .next t ∧ (sq t n).state = 5 ∧ t.link.answer = ansOk ∧ OnlyChanges [.port, .link, .sw, .store] s t) ∧
  (∀ n s, s.regionsRun = true → s.shutting = false → s.present n = true → 2 ≤ (sq s n).state → (sq s n).state ≤ 5 →
    ∃ t r, Machine.exec (.powerDeliveryReq n false) s = .next t ∧ (sq t n).state = 6 ∧ (sq t n).lastCause = 0 ∧ (sq t n).ramp = some r ∧
      r.t0 = s.now ∧ r.len = msF (tRamp s n) ∧ r.threshold = max 2000 ((sq s n).iOut.natAbs / 20)) ∧
  (∀ n a s, s.regionsRun = true → s.shutting = false → s.present n = true → (sq s n).state = 5 → Machine.exec (.currentDemandReq n a) s =
    .next (tell n ansOk (updSq n (fun y => { y with request := a, limit := sat 16 (currentLimit s n (decide (a < 0))) }) s))) ∧
  (∀ d s, (drv s d).state = 1 → (drv s d).pullAt + msF (pullInMs s d) ≤ s.now → ∃ t, Machine.exec (.pullInEnd d) s = .next t ∧
    (drv t d).state = 2 ∧ OnlyChanges [.ease, .sw] s t) ∧
  (∀ d on s, d < 24 → s.power.supply = .on → ∃ t, Machine.exec (.mirrorConfirmed d on) s = .next t ∧ (drv t d).mainOpen = on) ∧
  (∀ n (b : Bool) s, n < 8 → s.power.supply = .on → s.shutting = false → s.faults.globalSafe = false → (sq s n).state = 1 → (drv s (2 * n)).cmd = true → (drv s (2 * n + 1)).cmd = true →
    (drv s (2 * n + b1 (!b))).mainOpen = false → ∃ t, Machine.exec (.mirrorConfirmed (2 * n + b1 b) false) s = .next t ∧
      (sq t n).state = 2 ∧ t.sw.permit = s.sw.permit ||| groupOf s n) ∧
  (∀ n (b : Bool) s, n < 8 → s.power.supply = .on → (sq s n).state = 7 → (drv s (2 * n)).cmd = false → (drv s (2 * n + 1)).cmd = false →
    (drv s (2 * n + b1 (!b))).mainOpen = true → 100000 ≤ (sq s n).vVeh → ∃ t, Machine.exec (.mirrorConfirmed (2 * n + b1 b) true) s = .next t ∧
      (sq t n).state = 8 ∧ (sq t n).discharge = true ∧ (sq t n).opened = some (s.now, s.clock.legal)) ∧
  (∀ d c s, d < 16 → s.present (d / 2) = true → (drv s d).expect = some true → (drv s d).changedAt + msF (fld (kCfg s d) 32 8) ≤ s.now →
    ∃ t, Machine.exec (.feedbackTimeout d c) s = .next t ∧ (drv t d).state = 4 ∧ (drv t d).fault = 4 ∧ (sq t (d / 2)).state = 9) ∧
  (∀ d c s, d < 16 → (drv s d).expect = some false → (drv s d).changedAt + msF (fld (kCfg s d) 24 8) ≤ s.now →
    ∃ t, Machine.exec (.feedbackTimeout d c) s = .next t ∧ (drv t d).fault = 3 ∧ (drv t d).cmd = false) ∧
  (∀ d k c s, d < 16 → k = 1 ∨ k = 2 → (drv s d).state ≠ 3 → s.regionsRun = true → ∃ t, Machine.exec (.driverFault d k c) s = .next t ∧
    (drv t d).state = 3 ∧ (drv t d).fault = k ∧ (drv t d).cmd = false ∧ (s.present (d / 2) = true → bit t.sw.unavailable (d / 2) = true)) ∧
  (∀ d t0 s, d < 24 → (drv s d).hwOff = some t0 → t0 + msF 5 ≤ s.now → ∃ t, Machine.exec (.driverOffTimer d) s = .next t ∧
    (drv t d).cmd = false ∧ (drv t d).hwOff = none ∧ OnlyChanges [.ease, .sw] s t) ∧
  (∀ n s, n < 8 → (sq s n).state = 2 → (sq s n).since + msF 100 ≤ s.now → ∃ t, Machine.exec (.shortTestEnd n) s = .next t ∧
    (40000 ≤ (sq s n).vVeh → (sq t n).state = 3 ∧ OnlyChanges [.port, .sw, .store] s t) ∧
    ((sq s n).vVeh < 40000 → (sq t n).lastCause = 9 ∧ t.link.answer = ansFailed ∧ t.link.answerOut = n ∧ (drv t (2 * n)).cmd = false ∧ (drv t (2 * n + 1)).cmd = false)) ∧
  (∀ n s, n < 8 → (sq s n).state = 3 → (sq s n).passRun < 2 → (sq s n).since + secF (fld (swCfg s n) 40 8) ≤ s.now →
    ∃ t, Machine.exec (.ccTimeout n) s = .next t ∧ (sq t n).lastCause = 10 ∧ t.link.answer = ansFailed ∧ t.link.answerOut = n ∧ (drv t (2 * n)).cmd = false ∧ (drv t (2 * n + 1)).cmd = false) ∧
  (∀ n s, n < 8 → 2 ≤ (sq s n).state → (sq s n).state ≤ 5 → 10 ≤ (sq s n).apartRun → ∃ t, Machine.exec (.contactorNotConducting n) s = .next t ∧
    (sq t n).state = 6 ∧ (sq t n).lastCause = 5 ∧ (lk t n).endCause.isSome = true) ∧
  (∀ n r s, n < 8 → (sq s n).ramp = some r → (sq s n).state = 6 → r.t0 + r.len ≤ s.now → r.threshold ≤ (sq s n).iOut.natAbs →
    (r.late = false → Machine.exec (.rampLate n) s =
      .next (updSq n (fun y => { y with late := true, ramp := some { r with late := true } }) s)) ∧
    (r.t0 + r.len + msF 20 ≤ s.now → ∃ t, Machine.exec (.rampForced n) s = .next t ∧ (sq t n).state = 7 ∧ (sq t n).forced = true ∧
      t.sw.permit = s.sw.permit &&& ~~~ groupOf s n ∧ ((drv t (2 * n)).cmd = true → (drv t (2 * n)).hwOff.isSome = true))) ∧
  (∀ n v w s, s.regionsRun = true → s.present n = true → modEnabled s n 1 = true → fastOc s n v = true →
    fastOc s n w = true → 1 ≤ (sq s n).state → (sq s n).state ≤ 6 →
    ∃ t, Machine.exec (.fastOvercurrent n v w) s = .next t ∧ (sq t n).lastCause = 4 ∧ t.sw.permit = s.sw.permit &&& ~~~ groupOf s n ∧
      ((drv t (2 * n)).cmd = true → (sq t n).state = 7 ∧ (drv t (2 * n)).hwOff.isSome = true)) ∧
  (∀ n s, n < 8 → (sq s n).state = 8 → (sq s n).discharge = true → (sq s n).welded = false → (sq s n).since + msF 200 ≤ s.now →
    ∃ t, Machine.exec (.weldVoltageTestEnd n) s = .next t ∧ (sq t n).discharge = false ∧
      ((sq s n).follows = true → 50000 ≤ (sq s n).busAt - (sq s n).vBus → (sq t n).state = 9 ∧ (drv t (2 * n)).state = 4 ∧ (drv t (2 * n + 1)).state = 4) ∧
      ((sq s n).follows = false ∨ (sq s n).busAt - (sq s n).vBus < 50000 → (sq t n).state ≠ 9 ∧ drv t (2 * n) = drv s (2 * n)))

/-- O55. Joins and releases of segments, the power modules on their buses, the safety inputs with their demands, tests and resets, welds
cleared and auxiliary outputs (R305, R312 to R314, R319, R331 to R336, R340). -/
def Obligations.BusesModulesSafety : Prop :=
  (∀ h n m d s, Accepted h 0x0610 (le 1 n ++ le 1 m) s → 1 ≤ s.roles.role → s.modes.mode = .service → s.present n = true → s.present m = true →
    n ≠ m → joinDriver s n m = some d → matrixClosed s < 7 → (sq s n).state = 5 → (sq s m).state = 0 → ownerOf s m = none →
    s.sw.jobs.any (fun j => bit j.segments m) = false → pullInFits s d = true →
    ∃ t j, Machine.exec (.busJoin h (le 1 n ++ le 1 m)) s = .next (answered s h 0x0610 (le 1 n ++ le 1 m) .queued [] t) ∧
      t.sw.jobs = s.sw.jobs ++ [j] ∧ j.segment = m ∧ j.owner = n ∧ j.driver = d ∧ j.join = true ∧ OnlyChanges [.sw, .roles] s t) ∧
  (∀ m j s, s.sw.jobs.find? (fun j => j.segment == m && j.join && j.phase == 0 && decide (10 ≤ j.run)) = some j →
    ∃ t r, Machine.exec (.segmentVoltageMatched m) s = .next t ∧ t.ease.requests = s.ease.requests ++ [r] ∧ r.cls = 1 ∧
      (j.driver < 24 → (drv t j.driver).req = some s.ease.nextId) ∧ OnlyChanges [.ease, .sw] s t) ∧
  (∀ h m n s, Accepted h 0x0611 (le 1 m) s → 1 ≤ s.roles.role → s.modes.mode = .service → s.present m = true → ownerOf s m = some n → n ≠ m →
    (busReleaseCmd h (le 1 m) s).params = true → s.sw.jobs.any (fun j => j.segments &&& releaseSet s n m != 0) = false →
    ∃ t j, Machine.exec (.busRelease h (le 1 m)) s = .next (answered s h 0x0611 (le 1 m) .queued [] t) ∧
      t.sw.jobs = s.sw.jobs ++ [j] ∧ j.segment = m ∧ j.segments = releaseSet s n m ∧ j.owner = n ∧ j.join = false ∧ OnlyChanges [.sw, .roles] s t) ∧
  (∀ b s, s.regionsRun = true → b < 2 → s.now % 10 = 0 → ∃ t, Machine.exec (.pmTargetTransmit b) s = .next t ∧
    t.sw.txCounter = s.sw.txCounter + BitVec.ofNat 8 t.sw.canOut.length ∧ t.sw.modules = s.sw.modules ∧
    (∀ f ∈ t.sw.canOut, f.2.length ≤ 64 ∧ numAt f.2 (f.2.length - 4) 4 = crc32c (f.2.take (f.2.length - 4))) ∧ OnlyChanges [.sw] s t) ∧
  (∀ m p s, s.regionsRun = true → pmReached s m = true → m < 16 → canValid 8 (pmod s m).counter p = true →
    ∃ t, Machine.exec (.pmStatusFrame m p) s = .next t ∧ (pmod t m).health = (if numAt p 6 2 = 0 then 1 else 2) ∧
      (pmod t m).voltage = numAt p 1 2 ∧ (pmod t m).lastAt = s.now ∧ (numAt p 6 2 = 0 → OnlyChanges [.sw] s t)) ∧
  (∀ m p s, s.regionsRun = true → pmReached s m = true → m < 16 → canValid 4 (pmod s m).faultCounter p = true →
    ∃ t, Machine.exec (.pmFaultFrame m p) s = .next t ∧ (pmod t m).health = 2 ∧ (pmod t m).faultBits = BitVec.ofNat 16 (numAt p 0 2)) ∧
  (∀ m s, s.regionsRun = true → pmEnabled s m = true → m < 16 → (pmod s m).health ≠ 3 → (pmod s m).lastAt + msF 50 ≤ s.now →
    ∃ t, Machine.exec (.pmLost m) s = .next t ∧ (pmod t m).health = 3) ∧
  (∀ i a b s, s.regionsRun = true → i < 8 → inFunc s i ≠ 0 →
    (demandA (confirmedA s i a) = true ∨ demandB (inCfg s i) (confirmedB s i b) = true) →
    ∃ t, Machine.exec (.safetyInputDemand i a b) s = .next t ∧ (sin t i).demand = true ∧
      (inFunc s i = 1 → (sin s i).demand = false → ∀ n, n < 8 → s.present n = true → bit (inScope s i) n = true →
        (drv t (2 * n)).cmd = false ∨ (sq s n).state = 0 ∨ 8 ≤ (sq s n).state)) ∧
  (∀ i a b s, s.regionsRun = true → i < 8 → (sin s i).demand = true → (sin s i).fault = false → inputIsolated s i = false →
    demandA (confirmedA s i a) = false → demandB (inCfg s i) (confirmedB s i b) = false →
    ∃ t, Machine.exec (.safetyDemandEnd i a b) s = .next t ∧ (sin t i).demand = false ∧
      (bit (inCfg s i) 40 = true → (sin t i).await = true ∧ OnlyChanges [.sw] s t)) ∧
  (∀ i t0 s, s.regionsRun = true → i < 8 → (sin s i).apartAt = some t0 → t0 + msF (fld (inCfg s i) 24 8) ≤ s.now →
    ∃ t, Machine.exec (.discrepancyTimeout i) s = .next t ∧ (sin t i).fault = true ∧ ((sin s i).fault = false → (sin t i).demand = true)) ∧
  (∀ k s, s.regionsRun = true → k < 4 → s.clock.legal % 20000 = k * 5000 → (∀ i, i < 8 → inFunc s i = 0 ∨ (sin s i).demand = true ∨
    (4 ≤ fld (inCfg s i) 4 3 ∧ 4 ≤ fld (inCfg s i) 7 3)) → Machine.exec (.inputTestPulse k []) s = .next s) ∧
  (∀ k i s, s.regionsRun = true → k < 4 → s.clock.legal % 20000 = k * 5000 → i < 8 → inFunc s i ≠ 0 → (sin s i).demand = false →
    fld (inCfg s i) 4 3 = k → ∃ t, Machine.exec (.inputTestPulse k []) s = .next t ∧ (sin t i).fault = true) ∧
  (∀ d c s, s.regionsRun = true → d < 16 → s.clock.legal % 20000 = 800 * d → (drv s d).hwOff = none → (drv s d).state ≤ 2 →
    (Machine.exec (.driverTestPulse d true c) s =
      .next (updDrv d (fun y => { y with testSwitch := if y.cmd then !y.testSwitch else y.testSwitch }) s)) ∧
    ∃ t, Machine.exec (.driverTestPulse d false c) s = .next t ∧ (drv t d).state = 3 ∧ (drv t d).fault = 5 ∧ (drv t d).cmd = false ∧
      (s.present (d / 2) = true → (sq s (d / 2)).state = 5 → t.sw.permit &&& groupOf s (d / 2) = 0)) ∧
  (∀ h i s, Accepted h 0x0612 (le 1 (2 ^ i)) s → 1 ≤ s.roles.role → i < 8 → (sin s i).demand = false → (sin s i).fault = false →
    ∃ t, Machine.exec (.safetyReset h (le 1 (2 ^ i))) s = .next (answered s h 0x0612 (le 1 (2 ^ i)) .ok [] t) ∧ (sin t i).await = false) ∧
  (∀ h s, Accepted h 0x0613 [] s → 2 ≤ s.roles.role → s.modes.mode = .commissioning → s.sw.testAt = none →
    ∃ t, Machine.exec (.startupTest h []) s = .next (answered s h 0x0613 [] .queued [] t) ∧
      ((∃ i, i < 8 ∧ inFunc s i ≠ 0) → t.sw.testAt = some s.now ∧ OnlyChanges [.sw, .roles] s t)) ∧
  (∀ t0 s, s.sw.testAt = some t0 → t0 + secF 1800 ≤ s.now → ∃ t, Machine.exec .startupTestTimeout s = .next t ∧ t.sw.testAt = none ∧
    t.sw.proofHash = s.sw.proofHash ∧ OnlyChanges [.port, .sw, .store] s t) ∧
  (∀ h n s, Accepted h 0x0614 (le 1 n) s → 2 ≤ s.roles.role → standbyOrComm s = true → s.present n = true → (sq s n).state = 9 →
    ∃ t, Machine.exec (.weldClear h (le 1 n)) s = .next (answered s h 0x0614 (le 1 n)
        (if (drv s (2 * n)).mainOpen && (drv s (2 * n + 1)).mainOpen then .ok else .notConfirmed) [] t) ∧
      ((drv s (2 * n)).mainOpen = true → (drv s (2 * n + 1)).mainOpen = true → (sq t n).state = 0 ∧ (drv t (2 * n)).state ≠ 4)) ∧
  (∀ h d s, Accepted h 0x0615 (le 1 d ++ le 1 0) s → 1 ≤ s.roles.role → (s.modes.mode = .standby ∨ s.modes.mode = .service ∨ s.modes.mode = .commissioning) → isAux s d = true →
    ∃ t, Machine.exec (.auxContactor h (le 1 d ++ le 1 0)) s = .next (answered s h 0x0615 (le 1 d ++ le 1 0) .ok [] t) ∧ (drv t d).cmd = false ∧
      OnlyChanges [.ease, .sw, .roles] s t) ∧
  (∀ h d s, Accepted h 0x0615 (le 1 d ++ le 1 1) s → 1 ≤ s.roles.role → (s.modes.mode = .standby ∨ s.modes.mode = .service ∨ s.modes.mode = .commissioning) → isAux s d = true →
    emergencyHeld s = false → (drv s d).state = 0 → (drv s d).cmd = false → (drv s d).req = none → ∃ t r a, Machine.exec (.auxContactor h (le 1 d ++ le 1 1)) s = .next t ∧
      t.ease.requests = s.ease.requests ++ [r] ∧ r.cls = 1 ∧ (drv t d).req = some s.ease.nextId ∧ t.port.awaiting = s.port.awaiting ++ [a] ∧
      t.port.replies = s.port.replies) ∧
  (∀ h n m d s, Accepted h 0x0610 (le 1 n ++ le 1 m) s → 1 ≤ s.roles.role → s.modes.mode = .service → s.present n = true → s.present m = true →
    n ≠ m → joinDriver s n m = some d → matrixClosed s < 7 → (sq s n).state = 5 → (sq s m).state = 0 → ownerOf s m = none →
    s.sw.jobs.any (fun j => bit j.segments m) = false → pullInFits s d = false →
    Machine.exec (.busJoin h (le 1 n ++ le 1 m)) s = .next (turnedAway s h 0x0610 .noLeave))

/-! Load switch channels (chapter 10). -/

/-- O56. The channels of Table 10-4 and the banks of Table 10-5: commands, the inrush window, faults, latch, retries, open load, holds and
their release (R345 to R356). -/
def Obligations.LoadChannelsFollowTable : Prop :=
  (∀ h c d s, Accepted h 0x0710 (le 1 c ++ le 1 1 ++ le 2 d) s → 1 ≤ s.roles.role → s.modes.mode ≠ .monument → c < 16 → (chn s c).state = 0 →
    (chn s c).isolated = false → bankHeld s (c / 4) = false → windowBusy s (c / 4) = false → (bnk s (c / 4)).queue = [] → (chn s c).req = none →
    ∃ t r a, Machine.exec (.loadSet h (le 1 c ++ le 1 1 ++ le 2 d)) s = .next t ∧ (chn t c).state = 1 ∧ (chn t c).cmd = true ∧
      (chn t c).req = some s.ease.nextId ∧ t.ease.requests = s.ease.requests ++ [r] ∧ r.cls = 3 ∧ t.port.replies = s.port.replies ∧
      t.port.awaiting = s.port.awaiting ++ [a]) ∧
  (∀ h c d s, Accepted h 0x0710 (le 1 c ++ le 1 2 ++ le 2 d) s → 1 ≤ s.roles.role → s.modes.mode ≠ .monument → c < 16 → 1 ≤ d → d ≤ 999 →
    (chn s c).state = 3 → (chn s c).isolated = false → (bnk s (c / 4)).isolated = false →
    Machine.exec (.loadSet h (le 1 c ++ le 1 2 ++ le 2 d)) s = .next (answered s h 0x0710 (le 1 c ++ le 1 2 ++ le 2 d) .ok []
      (updCh c (fun y => { y with next := some (true, d), retries := 0 }) (touchRole s)))) ∧
  (∀ h c d s, Accepted h 0x0710 (le 1 c ++ le 1 0 ++ le 2 d) s → 1 ≤ s.roles.role → s.modes.mode ≠ .monument → c < 16 →
    ∃ t, Machine.exec (.loadSet h (le 1 c ++ le 1 0 ++ le 2 d)) s = .next (answered s h 0x0710 (le 1 c ++ le 1 0 ++ le 2 d) .ok [] t) ∧
      (chn t c).state = 0 ∧ (chn t c).cmd = false ∧ (chn t c).retries = 0) ∧
  (∀ h k s, Accepted h 0x0711 (le 1 k) s → 1 ≤ s.roles.role → s.modes.mode ≠ .monument → k < 4 → (bnk s k).gndLost = true →
    (bnk s k).gndGood = true → 17500 ≤ (bnk s k).vbb → ∃ t, Machine.exec (.loadBankReset h (le 1 k)) s =
      .next (answered s h 0x0711 (le 1 k) .ok [] t) ∧ (bnk t k).gndLost = false ∧ (bnk t k).lockout = false) ∧
  (∀ c t0 s, (chn s c).retryAt = some t0 → (chn s c).state = 1 → t0 + secF 1 ≤ s.now → windowBusy s (c / 4) = false → (bnk s (c / 4)).queue = [] →
    c < 16 → (chn s c).req = none → ∃ t, Machine.exec (.loadLeaveRetry c) s = .next t ∧ (chn t c).req = some s.ease.nextId ∧
      t.ease.nextId = s.ease.nextId + 1 ∧ OnlyChanges [.ease, .loads] s t) ∧
  (∀ c t0 s, c < 16 → (chn s c).window = some t0 → (chn s c).state = 2 → t0 + msF (inrushMs (chn s c).active) ≤ s.now →
    ∃ t, Machine.exec (.inrushWindowEnd c) s = .next t ∧ (chn t c).state = 3 ∧ (chn t c).window = none ∧
      OnlyChanges [.port, .ease, .loads, .store] s t) ∧
  (∀ k s, s.regionsRun = true → k < 4 → periodOver s k = true → ∃ t, Machine.exec (.pwmPeriodBoundary k) s = .next t ∧
    (∀ c m d, c / 4 = k → (chn s c).next = some (m, d) → (chn t c).pwm = m ∧ (chn t c).duty = d ∧ (chn t c).next = none) ∧
    (bnk t k).applied = vget s.loads.banksCfg k 0 ∧ (bnk t k).periodAt = some s.now ∧ (∀ c, c / 4 ≠ k → chn t c = chn s c) ∧ OnlyChanges [.loads] s t) ∧
  (∀ c ma temp s, s.regionsRun = true → c < 16 → 1700 ≤ temp → ∃ t, Machine.exec (.thermalShutdown c ma temp) s = .next t ∧
    (chn t c).latch = true ∧ (chOn s c = true → (chn t c).state = 4 ∧ (chn t c).fault = 1) ∧
    (chOn s c = false → t = updCh c (fun y => { y with latch := true }) s)) ∧
  (∀ c temp s, s.regionsRun = true → temp ≤ 1550 →
    Machine.exec (.thermalLatchRelease c temp) s = .next (updCh c (fun y => { y with latch := false }) s)) ∧
  (∀ c ma temp s, c < 16 → (chn s c).state = 3 → overloadMs (chn s c).active ≠ 0 →
    10000 * overloadMs (chn s c).active ≤ (chn s c).limitTime → ∃ t, Machine.exec (.channelOverload c ma temp) s = .next t ∧ (chn t c).state = 4 ∧
      (chn t c).fault = 2 ∧ (chn t c).latch = (chn s c).latch ∧ (chn t c).waitEnd = s.now + retryWait (chn s c)) ∧
  (∀ c s, c < 16 → (chn s c).state = 3 → openLoadEn (chn s c).active = true → (chn s c).openLoad = false → openDue s c = true →
    ∃ t, Machine.exec (.openLoadDetected c) s = .next t ∧ (chn t c).openLoad = true ∧ (chn t c).state = 3 ∧ OnlyChanges [.port, .loads, .store] s t) ∧
  (∀ c s, c < 16 → (chn s c).state = 3 → (chn s c).openLoad = true → openDue s c = true →
    ∃ t, Machine.exec (.openLoadCleared c) s = .next t ∧ (chn t c).openLoad = false ∧ (chn t c).state = 3 ∧ OnlyChanges [.port, .loads, .store] s t) ∧
  (∀ c s, c < 16 → (chn s c).state = 4 → (chn s c).waitEnd ≤ s.now → (chn s c).latch = false → ∃ t, Machine.exec (.retryWaitEnd c) s = .next t ∧
    (retryCount (chn s c).active ≤ (chn s c).retries → (chn t c).state = 5) ∧
    ((chn s c).retries < retryCount (chn s c).active → bankHeld s (c / 4) = false → (chn t c).state = 1 ∧ (chn t c).auto = true ∧
      (chn t c).retries = (chn s c).retries + 1) ∧
    ((chn s c).retries < retryCount (chn s c).active → bankHeld s (c / 4) = true → t = s)) ∧
  (∀ c s, chOn s c = true → (chn s c).onAt + secF 10 ≤ s.now →
    Machine.exec (.retriesReset c) s = .next (updCh c (fun y => { y with retries := 0 }) s)) ∧
  (∀ k mv s, s.regionsRun = true → k < 4 → (bnk s k).uv = false → mv ≤ 16500 → ∃ t, Machine.exec (.bankUndervoltage k mv) s = .next t ∧
    (bnk t k).uv = true ∧ (∀ c, c < 16 → c / 4 = k → chOn s c = true → (chn t c).state = 6 ∧ (chn t c).fault = 4) ∧
    (3 ≤ ((bnk s k).uvAt.filter (fun t => decide (s.now < t + secF 60))).length → (bnk t k).lockout = true)) ∧
  (∀ k mv s, s.regionsRun = true → k < 4 → (bnk s k).ov = false → 35000 ≤ mv → ∃ t, Machine.exec (.bankOvervoltage k mv) s = .next t ∧
    (bnk t k).ov = true ∧ ∀ c, c < 16 → c / 4 = k → chOn s c = true → (chn t c).state = 6 ∧ (chn t c).fault = 4) ∧
  (∀ k mv s, s.regionsRun = true → k < 4 → (bnk s k).gndLost = false → ∃ t, Machine.exec (.bankGroundLoss k mv) s = .next t ∧
    (bnk t k).gndLost = true ∧ ∀ c, c < 16 → c / 4 = k → chOn s c = true → (chn t c).state = 6 ∧ (chn t c).fault = 4) ∧
  (∀ k s, s.regionsRun = true → k < 4 → (bnk s k).reverse = false → ∃ t, Machine.exec (.bankReverseSupply k) s = .next t ∧
    (bnk t k).reverse = true ∧ ∀ c, c < 16 → c / 4 = k → chOn s c = true → (chn t c).state = 6 ∧ (chn t c).fault = 4) ∧
  (∀ k mv t0 c s, s.regionsRun = true → k < 4 → (bnk s k).overSince = some t0 → latestOn s k = some c → t0 + secF 1 ≤ s.now → c < 16 →
    ∃ t, Machine.exec (.bankOverload k mv) s = .next t ∧ (chn t c).state = 4 ∧ (chn t c).fault = 3 ∧ (bnk t k).overSince = none ∧
      ∀ e, e ≠ c → chOn s e = true → chOn t e = true) ∧
  (∀ k mv s, s.regionsRun = true → k < 4 → (bnk s k).ov = true → mv < 35000 → ∃ t, Machine.exec (.bankHoldRelease k 2 mv true) s = .next t ∧
    (bnk t k).ov = false ∧ (bnk t k).vbb = sat 16 mv) ∧
  (∀ k mv s, s.regionsRun = true → k < 4 → (bnk s k).uv = true → (bnk s k).lockout = false → 17000 ≤ mv →
    ∃ t, Machine.exec (.bankHoldRelease k 1 mv true) s = .next t ∧ (bnk t k).uv = false ∧
      ∀ c, c < 16 → c / 4 = k → (chn s c).state = 6 → (chn s c).isolated = false → (chn s c).cmd = false → bankHeld t k = false →
        (chn t c).state = 0)

/-! The Traverse link (chapter 11). -/

/-- O57. Traverse: packets and keys the host commands, frames, acknowledgements and retries, replay and forwarding, routes and their loss,
the datum, beacons and the lock they give; a frame takes the segments that end before the guard and within half a mains cycle; an image's
messages along the chain (R366, R368 to R375, R378, R379, R381 to R386, R390, R451 to R455). -/
def Obligations.TraverseLink : Prop :=
  (∀ h d f m s, Accepted h 0x0810 (le 1 d ++ le 1 f ++ le 2 m.length ++ m) s → 1 ≤ s.roles.role → d < 64 → d ≠ trvNode s → f ≤ 1 → 1 ≤ m.length →
    m.length ≤ 4000 → s.trv.sends.length < 16 → trvTransmits s = true → ∃ t k x, Machine.exec (.trvSend h (le 1 d ++ le 1 f ++ le 2 m.length ++ m)) s =
        .next (answered s h 0x0810 (le 1 d ++ le 1 f ++ le 2 m.length ++ m) .queued (le 2 ((s.trv.handleCtr + 1) % 65536)) t) ∧
      t.trv.own = s.trv.own ++ [k] ∧ k.payload = m ∧ k.final = d ∧ k.counter = s.trv.counter ∧ t.trv.counter = (s.trv.counter + 1) % 2 ^ 40 ∧
      t.trv.sends = s.trv.sends ++ [x] ∧ x.counter = s.trv.counter ∧ x.confirm = (f == 1) ∧ OnlyChanges [.trv, .roles] s t) ∧
  (∀ h k n s, Accepted h 0x0811 (le 1 k ++ le 16 n) s → 2 ≤ s.roles.role → k ≤ 1 → 0 < n → n < 2 ^ 128 → k ≠ s.trv.active →
    Machine.exec (.trvKeySet h (le 1 k ++ le 16 n)) s = .next (answered s h 0x0811 (le 1 k ++ le 16 n) .ok []
      { touchRole s with trv := { s.trv with keys := vset s.trv.keys k { key := BitVec.ofNat 128 n } } })) ∧
  (∀ h k n f s, Accepted h 0x0812 (le 1 k ++ le 6 n) s → 2 ≤ s.roles.role → k ≤ 1 → n < 2 ^ 48 → frameOf n = some f → trvKey s k ≠ 0 →
    ∃ t, Machine.exec (.trvKeyUse h (le 1 k ++ le 6 n)) s = .next (answered s h 0x0812 (le 1 k ++ le 6 n) .ok [] t) ∧
      (f ≤ s.clock.legal → t.trv.active = k ∧ t.trv.switchTo = none) ∧
      (s.clock.legal < f → t.trv.active = s.trv.active ∧ t.trv.switchTo = some (k, f)) ∧ OnlyChanges [.trv, .roles] s t) ∧
  (∀ k f s, s.trv.switchTo = some (k, f) → s.regionsRun = true → s.clock.legal % 400 = 0 → f ≤ s.clock.legal →
    Machine.exec .trvKeySwitch s = .next { s with trv := { s.trv with active := k, switchTo := none } }) ∧
  (∀ n x s, s.trv.sends.find? (fun x => x.handle == n && x.confirm) = some x → s.trv.own.any (fun k => k.counter == x.counter) = false →
    s.trv.inFlight = none → x.since + secF 10 ≤ s.now → ∃ t, Machine.exec (.trvConfirmationTimeout n) s = .next t ∧
      t.trv.sends = s.trv.sends.filter (fun y => y.counter != x.counter) ∧ OnlyChanges [.port, .trv, .store] s t) ∧
  (∀ b k n s, trvTransmits s = true → s.trv.inFlight = none → nextToSend s = some k → b < contentionWindow s k.cls → mediumIdle b s = true →
    n = segmentsFit s (frameScheme s (firstTx k s)) (firstTx k s).segs.length → 0 < n →
    ∃ t, Machine.exec (.contentionAccess b) s = .next t ∧ t.trv.frameSeq = s.trv.frameSeq + 1 ∧ t.trv.own = s.trv.own.filter (fun x => x != k) ∧
      t.trv.air.length = 1 ∧ (k.final < 64 → ∃ x, t.trv.inFlight = some x ∧ x.pkt = k ∧ x.dst = (route s k.final).next ∧ x.waiting = true ∧
        x.frame = x.segs.take n) ∧ (64 ≤ k.final → n = (firstTx k s).segs.length → t.trv.inFlight = none)) ∧
  (∀ b x new s, nextFrame s = some (x, new) → segmentsFit s (frameScheme s x) x.segs.length = 0 ∨ mediumIdle b s = false →
    Machine.exec (.contentionAccess b) s = .next s) ∧
  (∀ b x n s, trvTransmits s = true → s.trv.inFlight = some x → x.waiting = false → x.dst ≠ 0xFF → b < contentionWindow s x.pkt.cls →
    mediumIdle b s = true → n = segmentsFit s (frameScheme s x) x.segs.length → 0 < n →
    ∃ t y, Machine.exec (.contentionAccess b) s = .next t ∧ t.trv.inFlight = some y ∧ y.pkt = x.pkt ∧ y.segs = x.segs ∧ y.frame = x.segs.take n ∧
      y.sends = y.frame.foldl (fun v i => vmod v i (· + 1)) x.sends ∧ y.waiting = true ∧ OnlyChanges [.trv] s t) ∧
  (∀ (f : TrvFrameIn) s, trvTransmits s = true → siteFrame 1 f.fc s = true → byteAt f.fc 5 = trvNode s → byteAt f.fc 1 % 2 = 0 →
    ∃ t a, Machine.exec (.trvFrameReceived f) s = .next t ∧ t.trv.air = [a] ∧ a = ackFrame f s ∧ a.length = 20 ∧ byteAt a 0 = 2 ∧
      byteAt a 5 = byteAt f.fc 4 ∧ t.trv.frameSeq = s.trv.frameSeq + 1 ∧ t.trv.framesRx = satInc 16 s.trv.framesRx ∧
      t.trv.blanked = sat 16 (s.trv.blanked + (erasedSymbols (byteAt f.fc 6) (numAt f.fc 8 2) f.samples).length) ∧ t.trv.own = s.trv.own ∧
      OnlyChanges [.trv] s t) ∧
  (∀ fc x s, trvReceives s = true → siteFrame 2 fc s = true → byteAt fc 5 = trvNode s → s.trv.inFlight = some x → x.waiting = true →
    x.dst = byteAt fc 4 → x.dst < 64 → x.frame = x.segs → (∀ i, i < x.frame.length → bit (BitVec.ofNat 32 (numAt fc 12 4)) i = true) →
    ∃ t, Machine.exec (.selectiveAckReceived fc) s = .next t ∧ t.trv.inFlight = none ∧ t.trv.cw = 0 ∧ (ngh t x.dst).exhausted = 0 ∧
      (ngh t x.dst).snr = sat 8 (byteAt fc 11)) ∧
  (∀ fc x s, trvReceives s = true → siteFrame 2 fc s = true → byteAt fc 5 = trvNode s → s.trv.inFlight = some x → x.waiting = true →
    x.dst = byteAt fc 4 → x.dst < 64 → (∀ i, i < x.frame.length → bit (BitVec.ofNat 32 (numAt fc 12 4)) i = false) → x.segs ≠ [] →
    (∀ i ∈ x.segs, vget x.sends i 0 < arqRetries s) → ∃ t, Machine.exec (.selectiveAckReceived fc) s = .next t ∧
      t.trv.inFlight = some { x with waiting := false } ∧ t.trv.cw = 0) ∧
  (∀ dst seq x s, trvReceives s = true → s.trv.inFlight = some x → x.waiting = true → x.dst = dst → x.seq = seq →
    ∃ t, Machine.exec (.selectiveAckMissing dst seq) s = .next t ∧ t.trv.cw = min 8 (s.trv.cw + 1) ∧
      ((∀ i ∈ x.segs, vget x.sends i 0 < arqRetries s) → t.trv.inFlight = some { x with waiting := false }) ∧
      ((∃ i ∈ x.segs, arqRetries s ≤ vget x.sends i 0) → t.trv.inFlight = none ∧ t.trv.pktDropped = satInc 16 s.trv.pktDropped)) ∧
  (∀ b s, trvReceives s = true → byteAt b 0 % 16 = 1 → (packetHeader b).serial ≠ s.factory.serial → floodSeen (packetHeader b) s = false →
    trvKey s (packetHeader b).slot = 0 ∨ openPayload s b = none → ∃ t, Machine.exec (.trvPacketReceived b) s = .next t ∧
      t.trv.micFail = satInc 16 s.trv.micFail ∧ t.trv.own = s.trv.own ∧ t.trv.store = s.trv.store ∧ t.trv.replay = s.trv.replay) ∧
  (∀ b p w s, trvReceives s = true → byteAt b 0 % 16 = 1 → (packetHeader b).serial ≠ s.factory.serial → floodSeen (packetHeader b) s = false →
    trvKey s (packetHeader b).slot ≠ 0 → openPayload s b = some p →
    s.trv.replay.find? (fun w => w.serial == (packetHeader b).serial) = some w → replayCheck w (packetHeader b).counter = none →
    ∃ t, Machine.exec (.trvPacketReceived b) s = .next t ∧ t.trv.replays = satInc 16 s.trv.replays ∧ t.trv.own = s.trv.own ∧
      t.trv.store = s.trv.store ∧ t.trv.replay = s.trv.replay) ∧
  (∀ b p k s, k = packetHeader b → trvReceives s = true → byteAt b 0 % 16 = 1 → k.serial ≠ s.factory.serial → k.final < 64 →
    trvKey s k.slot ≠ 0 → openPayload s b = some p → s.trv.replay.find? (fun w => w.serial == k.serial) = none →
    ∃ t w, Machine.exec (.trvPacketReceived b) s = .next t ∧ t.trv.replay = s.trv.replay ++ [w] ∧ w.serial = k.serial ∧ w.highest = k.counter ∧
      (k.final = trvNode s → bit k.flags 1 = false → bit k.flags 0 = true → ∃ c, t.trv.own = s.trv.own ++ [c] ∧
        c.final = k.origin ∧ c.flags = 0x02 ∧ c.payload = le 5 k.counter) ∧
      (k.final ≠ trvNode s → 1 < k.hop → s.trv.store.length < 64 → ∃ q, t.trv.store = s.trv.store ++ [q] ∧ q.hop = k.hop - 1 ∧
        q.payload = p ∧ q.counter = k.counter ∧ q.final = k.final) ∧
      (k.final ≠ trvNode s → k.hop ≤ 1 → t.trv.store = s.trv.store ∧ t.trv.pktDropped = satInc 16 s.trv.pktDropped)) ∧
  (∀ n k s, (s.trv.own ++ s.trv.store).find? (fun k => k.tag == n && routeless k s) = some k → ∃ t, Machine.exec (.noRouteDrop n) s = .next t ∧
    k ∉ t.trv.own ∧ k ∉ t.trv.store ∧ t.trv.pktDropped = satInc 16 s.trv.pktDropped) ∧
  (∀ n s, trvReceives s = true → (ngh s n).usable = true → nghLost s n = true → ∃ t, Machine.exec (.neighbourUnusable n) s = .next t ∧
    (ngh t n).usable = false ∧ ∀ d, d < 64 → (route t d).next ≠ n) ∧
  (∀ s, trvReceives s = true → s.trv.windowAt ≠ s.clock.legal / 200000 * 10 → ∃ t, Machine.exec .routingWindowEnd s = .next t ∧
    t.trv.windowAt = s.clock.legal / 200000 * 10 ∧ t.trv.own = s.trv.own) ∧
  (∀ s, trvTransmits s = true → advertDue s = true → ∃ t k, Machine.exec .routingAdvertisement s = .next t ∧ t.trv.own = s.trv.own ++ [k] ∧ k.service = 1 ∧
    k.final = 0xFF ∧ k.payload.length = 256 ∧ k.counter = s.trv.counter ∧ advertDue t = false ∧ OnlyChanges [.trv] s t) ∧
  (∀ t0 s, s.trv.leaveAt = some t0 → trvReceives s = true → s.trv.transmit = true → s.trv.leave = none → t0 + secF 10 ≤ s.now →
    ∃ t r, Machine.exec .trvGrantRetry s = .next t ∧ t.ease.requests = s.ease.requests ++ [r] ∧ r.cls = 5 ∧ r.standing = true ∧
      t.trv.leave = some s.ease.nextId ∧ OnlyChanges [.ease, .trv] s t) ∧
  (∀ t0 s, s.trv.beaconAt = some t0 → isMaster s = false → s.trv.locked = true → t0 + secF 10 ≤ s.now →
    ∃ t, Machine.exec .lockTimeout s = .next t ∧ t.trv.locked = false ∧ t.trv.aligned = false ∧ OnlyChanges [.port, .trv, .store] s t) ∧
  (∀ f p s, Machine.exec (.datumEdge (bit s.trv.config 25) f p) s = .next s) ∧
  (∀ f p s, s.trv.running = true → s.power.supply = .on → bit s.rst.straps 3 = true → ∃ t, Machine.exec (.datumEdge (!bit s.trv.config 25) f p) s = .next t ∧
    t.trv.datumValid = (decide (45000 ≤ f) && decide (f ≤ 55000)) ∧ t.trv.gridMhz = sat 16 f ∧
    (isMaster s = true → 45000 ≤ f → f ≤ 55000 → t.trv.periodNo = (s.trv.periodNo + 1) % 65536) ∧
    (isMaster s = false → t.trv.periodNo = s.trv.periodNo ∧ t.trv.phaseDeg = p % 3600) ∧ OnlyChanges [.port, .trv, .store] s t) ∧
  (∀ t0 s, s.trv.datumAt = some t0 → s.trv.running = true → s.trv.datumValid = true → t0 + msF 100 ≤ s.now →
    ∃ t, Machine.exec .datumLoss s = .next t ∧ t.trv.datumValid = false ∧ OnlyChanges [.port, .trv, .store] s t) ∧
  (∀ k s, trvTransmits s = true → k = beaconSlotOf (isMaster s) (trvNode s) → slotNow k s = true →
    (isMaster s || periodNow s % 16 == trvNode s % 16) = true → ∃ t a, Machine.exec (.beaconSlot k) s = .next t ∧ t.trv.air = [a] ∧
      byteAt a 0 = 0 ∧ byteAt a 5 = 0xFF ∧ t.trv.frameSeq = s.trv.frameSeq + 1 ∧ t.trv.lastTx.frame = s.clock.legal ∧ slotNow k t = false ∧
      OnlyChanges [.factory, .trv] s t) ∧
  (∀ (b : BeaconIn) p k s, k = packetHeader (b.block.take 136) → trvReceives s = true → siteFrame 0 b.fc s = true → byteAt b.fc 5 = 0xFF →
    byteAt (b.block.take 136) 0 % 16 = 1 → k.service = 2 → k.serial ≠ s.factory.serial → trvKey s k.slot ≠ 0 →
    openPayload s (b.block.take 136) = some p → s.trv.replay.find? (fun w => w.serial == k.serial) = none → byteAt p 0 < 64 →
    ∃ t, Machine.exec (.beaconReceived b) s = .next t ∧ t.trv.framesRx = satInc 16 s.trv.framesRx ∧
      (byteAt p 0 = trvNode s → s.trv.clashes.contains k.serial = false → t.trv.addrConflict = true ∧
        (k.serial.toNat < s.factory.serial.toNat → t.trv.stopped = true)) ∧
      (byteAt p 0 ≠ trvNode s → (ngh t (byteAt p 0)).heardAt = some s.now ∧ (ngh t (byteAt p 0)).serial = k.serial) ∧
      (byteAt p 0 ≠ trvNode s → isMaster s = true → byteAt p 1 % 2 = 1 → s.trv.conflicts.contains k.serial = false →
        k.serial.toNat < s.factory.serial.toNat → t.trv.yielded = true)) ∧
  (∀ src origin hdr nodes p s, chainListens s = true → headerOk s hdr = false → s.chain.staging = 0 → nodes.length ≤ 63 →
    ∃ t, Machine.exec (.chainOffer src origin hdr nodes p) s = .next t ∧ t.chain = s.chain) ∧
  (∀ src pos b s, s.chain.next = some (src, pos) → chainListens s = true → s.chain.staging ≠ 0 →
    ∃ t, Machine.exec (.chainAnswer src (stagedId s) 0 b) s = .next t ∧ t.chain.nextAnswered = true ∧ OnlyChanges [.trv, .chain] s t) ∧
  (∀ src k half data tag s, chainListens s = true → stagingRuns s = true → s.chain.byHost = false → s.chain.ready = true →
    s.chain.upstream = src → k < stagedBlocks s → half ≤ 1 → data.length = 2048 →
    ∃ t q, Machine.exec (.chainBlock src (stagedId s) k half data tag) s = .next t ∧ q ∈ t.trv.own ∧ q.final = src) ∧
  (∀ src pos k s, s.chain.next = some (src, pos) → chainListens s = true → s.chain.staging ≠ 0 → k < stagedBlocks s →
    ∃ t, Machine.exec (.chainBlockAck src (stagedId s) k) s = .next t ∧ k ≤ t.chain.nextAcked ∧ OnlyChanges [.trv, .chain] s t) ∧
  (∀ src k rate s, chainListens s = true → s.chain.byHost = true → s.chain.staging ≠ 0 → (s.chain.entries.drop 1).any (fun e => e.node == src) = true →
    k < 5120 → ∃ t e, Machine.exec (.chainProgress src (stagedId s) k rate) s = .next t ∧ e ∈ t.chain.entries ∧ e.node = src ∧ e.blocks = k + 1) ∧
  (∀ s, chainListens s = true → stagingRuns s = true → s.chain.byHost = false → s.chain.sentAt + secF 5 ≤ s.now →
    ∃ t, Machine.exec .chainProgressSend s = .next t ∧ t.chain.sentAt = s.now ∧ OnlyChanges [.trv, .chain] s t) ∧
  (∀ n pos s, chainListens s = true → s.chain.byHost = false → s.chain.staging ≠ 0 →
    ∃ t, Machine.exec (.chainReroute s.chain.origin (stagedId s) n pos) s = .next t ∧ t.chain.next = some (n, pos) ∧ OnlyChanges [.trv, .chain] s t) ∧
  (∀ s, chainListens s = true → s.chain.byHost = false → s.chain.staging ≠ 0 →
    ∃ t, Machine.exec (.chainAbort s.chain.origin (stagedId s)) s = .next t ∧ t.chain.staging = 0) ∧
  (∀ src res s, chainListens s = true → s.chain.byHost = true → s.chain.staging ≠ 0 →
    (s.chain.entries.drop 1).any (fun e => e.node == src && !e.ended) = true → ∃ t, Machine.exec (.chainDone src (stagedId s) res) s = .next t ∧
      t.chain.progressAt = s.now ∧ OnlyChanges [.port, .chain, .store] s t) ∧
  (∀ n pos s, chainListens s = true → s.chain.staging ≠ 0 → s.chain.next = some (n, pos) → s.chain.nextAcked + 1 < (stagedBlocks s : Int) →
    s.chain.heardAt + secF 10 ≤ s.now → ∃ t, Machine.exec .chainReceiverSilent s = .next t ∧ t.chain.heardAt = s.now ∧
      OnlyChanges [.trv, .chain] s t) ∧
  (∀ s, s.running = true → stagingRuns s = true → s.chain.progressAt + secF 600 ≤ s.now →
    ∃ t, Machine.exec .chainStall s = .next t ∧ t.chain.staging = 0)

/-! The card reader and the witness tag (chapter 12). -/

/-- O58. The reader's poll cycle, its rounds, the held card and its exchanges; the tag's commands from the field, notes in their steps and
their import, and the totals' snapshots (R393, R397 to R402, R405, R409). -/
def Obligations.ReaderAndWitnessTag : Prop :=
  (∀ mv s, s.rdr.pollAt = none → fieldRested s = true → readerOn s = true → s.rdr.req = none → s.rdr.held = none → ∃ t, Machine.exec (.pollCycle mv) s = .next t ∧
    t.rdr.pollAt = some s.now ∧
    (bit s.rdr.config 4 = false ∨ s.rdr.again = true → t.rdr.state = 2 ∧ t.rdr.req = some s.ease.nextId ∧
      ∃ r, t.ease.requests = s.ease.requests ++ [r] ∧ r.cls = 6) ∧
    (bit s.rdr.config 4 = true → s.rdr.again = false →
      1000 * ((mv : Int) - s.rdr.reference).natAbs ≤ fld s.rdr.config 32 8 * s.rdr.reference →
      t.rdr.reference = sat 16 mv ∧ t.rdr.state = (if t.rdr.antennaFault then 7 else 1) ∧ t.ease = s.ease)) ∧
  (∀ cards s, s.rdr.state = 3 → ∃ t, Machine.exec (.readerRoundEnd cards) s = .next t ∧ t.rdr.cards = (credentials s cards).length ∧
    t.rdr.roundAt = none ∧ (credentials s cards = [] → t.rdr.state = 1 ∧ t.rdr.held = none ∧ t.rdr.req = none) ∧
    (∀ c, credentials s cards = [c] → c.iso4 = true → t.rdr.state = 6 ∧ t.rdr.held = some c ∧ t.rdr.heldAt = s.now) ∧
    (∀ c, credentials s cards = [c] → c.iso4 = false → t.rdr.state = 4 ∧ t.rdr.held = none ∧ t.rdr.req = none) ∧
    (2 ≤ (credentials s cards).length → t.rdr.state = 5 ∧ t.rdr.several = (credentials s cards).map credBytes ∧ t.rdr.held = none)) ∧
  (∀ s, s.rdr.held.isSome = true → s.rdr.apdu = none → s.rdr.heldAt + secF 2 ≤ s.now → ∃ t, Machine.exec .cardHoldTimeout s = .next t ∧
    t.rdr.held = none ∧ t.rdr.state = 4 ∧ t.rdr.req = none ∧ OnlyChanges [.ease, .rdr] s t) ∧
  (∀ s, s.rdr.held.isSome = true → s.rdr.renewAt + msF 100 ≤ s.now → ∃ t, Machine.exec .readerLeaveRenew s = .next t ∧
    t.rdr.req = some s.ease.nextId ∧ t.rdr.renewAt = s.now ∧ t.rdr.held = s.rdr.held ∧ OnlyChanges [.ease, .rdr] s t) ∧
  (∀ h ms m s, Accepted h 0x0910 (le 2 ms ++ le 2 m.length ++ m) s → 1 ≤ s.roles.role → readerMode s = true → 10 ≤ ms → ms ≤ 5000 → 4 ≤ m.length →
    m.length ≤ 1024 → s.rdr.apdu = none →
    (s.rdr.held.isSome = true → ∃ t, Machine.exec (.cardApdu h (le 2 ms ++ le 2 m.length ++ m)) s =
        .next (answered s h 0x0910 (le 2 ms ++ le 2 m.length ++ m) .queued [] t) ∧ t.rdr.apdu = some (m, s.now, ms) ∧ t.rdr.heldAt = s.now ∧
        OnlyChanges [.rdr, .roles] s t) ∧
    (s.rdr.held = none → Machine.exec (.cardApdu h (le 2 ms ++ le 2 m.length ++ m)) s =
        .next (answered s h 0x0910 (le 2 ms ++ le 2 m.length ++ m) .notConfirmed [] (touchRole s)))) ∧
  (∀ rsp m t0 ms s, s.rdr.apdu = some (m, t0, ms) →
    (∃ t, Machine.exec (.cardApduDone 0 rsp) s = .next t ∧ t.rdr.apdu = none ∧ t.rdr.held = s.rdr.held ∧ t.rdr.heldAt = s.now ∧
      OnlyChanges [.port, .rdr, .store] s t) ∧
    (∃ t, Machine.exec (.cardApduDone 2 rsp) s = .next t ∧ t.rdr.apdu = none ∧ t.rdr.held = none ∧ t.rdr.state = 1)) ∧
  (∀ aid s, s.tag.field = true → ∃ t, Machine.exec (.wtagSelect aid) s = .next t ∧ t.tag.store = s.tag.store ∧
    (aid = witnessAid → t.tag.selected = true ∧ t.tag.response = [0x90, 0x00]) ∧
    (aid ≠ witnessAid → t.tag.selected = s.tag.selected ∧ t.tag.response = [0x6A, 0x82]) ∧ OnlyChanges [.tag] s t) ∧
  (∀ block n s, s.tag.field = true → 1 ≤ n → n ≤ 256 → ∃ t, Machine.exec (.wtagReadBinary block n) s = .next t ∧ t.tag.store = s.tag.store ∧
    (s.tag.selected = false → t.tag.response = [0x69, 0x86]) ∧
    (s.tag.selected = true → 1023 < block → t.tag.response = [0x6A, 0x86]) ∧
    (s.tag.selected = true → block ≤ 1023 → t.tag.response = storeBytes s (256 * block) n ++ [0x90, 0x00]) ∧ OnlyChanges [.tag] s t) ∧
  (∀ mv s, s.tag.field = true → s.tag.selected = true → ∃ t, Machine.exec (.getLiveStatus 16 mv) s = .next t ∧
    t.tag.response.length = 18 ∧ t.tag.response.drop 16 = [0x90, 0x00] ∧ numAt t.tag.response 0 6 = stampOf s.clock.legal % 2 ^ 48 ∧
    t.tag.store = s.tag.store ∧ OnlyChanges [.tag] s t) ∧
  (∀ mv rv data last k s, s.tag.field = true → s.tag.selected = true → 16 ≤ data.length → data.length ≤ 490 → 2400 ≤ mv → 2300 ≤ rv →
    Memory.wf 0 s.tag.store = true → chooseSlot s = some k → bit s.tag.config 0 = true →
    ∃ t, Machine.exec (.appendNote mv rv data last) s = .next t ∧ OnlyChanges [.tag] s t ∧
      (5 ≤ last → t.tag.response = le 4 (nextNoteNo s) ++ [0x90, 0x00] ∧ t.tag.lastStep = 5 ∧ nextNoteNo t = (nextNoteNo s + 1) % 2 ^ 32 ∧
        noteNo t k = nextNoteNo s ∧ noteValid t k = true ∧ bit (importedMask t) k = false) ∧
      (last < 5 → t.tag.field = false ∧ t.tag.selected = false ∧ t.tag.lastStep = last) ∧
      (last = 3 → t.tag.torn = satInc 16 s.tag.torn) ∧ (last < 2 → t.tag.store = s.tag.store)) ∧
  (∀ p mv s, ∃ t, Machine.exec (.wtagFieldChange p mv) s = .next t ∧ t.tag.field = p ∧ (p = false → t.tag.selected = false) ∧
    t.tag.store = s.tag.store ∧ OnlyChanges [.tag] s t) ∧
  (∀ k s, wireSide s = true → s.tag.importReq = none → nextImport s = some k → ∃ t r, Machine.exec .visitNoteImport s = .next t ∧
    t.tag.importReq = some s.ease.nextId ∧ t.ease.requests = s.ease.requests ++ [r] ∧ r.cls = 7 ∧ OnlyChanges [.ease, .tag] s t) ∧
  (∀ us s, wireSide s = true → s.tag.totalsAt = 0 → Memory.wf 0 s.tag.store = true → ∃ t, Machine.exec (.totalsSnapshot us) s = .next t ∧
    t.tag.totalsAt = s.now ∧ t.tag.lastTotals = s.energy.lastShare ∧
    ofBytes (storeBytes t 0xF0 1) = (if ofBytes (storeBytes s 0xF0 1) = 1 then 0 else 1) ∧ OnlyChanges [.tag] s t)

/-! The price display (chapter 13). -/

/-- O59. The display: what a write puts into the target image and an update into the queue, the light, waveform tables, a scan that rectangles
join, a waveform's end, the rails and their failures, temperature, the crack loop and the timed redraws (R411 to R424). -/
def Obligations.PriceDisplay : Prop :=
  (∀ h x y w k lv s, Accepted h 0x0A10 (le 2 x ++ le 2 y ++ le 2 w ++ le 2 k ++ lv) s → 1 ≤ s.roles.role → s.modes.mode ≠ .monument →
    rectOk s.disp.config (x, y, w, k) = true → lv.length = w * k / 2 → Memory.wf 15 s.disp.target = true →
    ∃ t, Machine.exec (.displayWrite h (le 2 x ++ le 2 y ++ le 2 w ++ le 2 k ++ lv)) s =
        .next (answered s h 0x0A10 (le 2 x ++ le 2 y ++ le 2 w ++ le 2 k ++ lv) .ok [] t) ∧
      (areaPixels s.disp.config (x, y, w, k)).map (Memory.read 15 t.disp.target) = unpackLevels lv ∧
      (∀ a, a ∉ areaPixels s.disp.config (x, y, w, k) → Memory.read 15 t.disp.target a = Memory.read 15 s.disp.target a) ∧
      t.disp.shown = s.disp.shown) ∧
  (∀ h x y w k kind s, Accepted h 0x0A11 (le 2 x ++ le 2 y ++ le 2 w ++ le 2 k ++ le 1 kind) s → 1 ≤ s.roles.role → s.modes.mode ≠ .monument →
    s.modes.mode ≠ .benchmark → rectOk s.disp.config (x, y, w, k) = true → kind ≤ 2 → hostQueued s.disp < 8 → s.faults.display = false →
    (s.disp.crack = false → ∃ t r, Machine.exec (.displayUpdate h (le 2 x ++ le 2 y ++ le 2 w ++ le 2 k ++ le 1 kind)) s =
        .next (answered s h 0x0A11 (le 2 x ++ le 2 y ++ le 2 w ++ le 2 k ++ le 1 kind) .queued (le 2 (nextHandle s.disp.handleCtr)) t) ∧
      t.disp.queue.length = s.disp.queue.length + 1 ∧ r ∈ t.disp.queue ∧ r.handle = nextHandle s.disp.handleCtr ∧ r.area = (x, y, w, k) ∧
      r.kind = kind ∧ t.disp.handleCtr = nextHandle s.disp.handleCtr ∧ OnlyChanges [.ease, .disp, .roles] s t) ∧
    (s.disp.crack = true → Machine.exec (.displayUpdate h (le 2 x ++ le 2 y ++ le 2 w ++ le 2 k ++ le 1 kind)) s =
        .next (answered s h 0x0A11 (le 2 x ++ le 2 y ++ le 2 w ++ le 2 k ++ le 1 kind) .notConfirmed [] (touchRole s)))) ∧
  (∀ h s, Accepted h 0x0A12 (le 1 1) s → 1 ≤ s.roles.role → s.modes.mode ≠ .monument → s.disp.crack = false → s.faults.display = false →
    s.faults.globalSafe = false → s.disp.light = false → ∃ t, Machine.exec (.displayLight h (le 1 1)) s =
        .next (answered s h 0x0A12 (le 1 1) (if lightFree s.disp then .ok else .queued) [] t) ∧ t.disp.light = lightFree s.disp ∧
      (lightFree s.disp = false → t.disp.lightWait = some (flagAck h.flags)) ∧ OnlyChanges [.disp, .roles] s t) ∧
  (∀ h s, Accepted h 0x0A12 (le 1 0) s → 1 ≤ s.roles.role → s.modes.mode ≠ .monument → s.disp.lightWait = none →
    Machine.exec (.displayLight h (le 1 0)) s = .next (answered s h 0x0A12 (le 1 0) .ok []
      (updDisp (fun d => { d with light := false }) (touchRole s)))) ∧
  (∀ h b lo hi kind n off data s, AcceptedExpert h 0x0A13
      (le 1 b ++ le 1 lo ++ le 1 hi ++ le 1 kind ++ le 2 n ++ le 4 off ++ le 2 data.length ++ data) s → s.modes.mode ≠ .monument → b < 12 →
    lo < 256 → hi < 256 → kind < 3 → 1 ≤ n → n ≤ 256 → data.length ≤ 4084 → off + data.length = 64 * n → signedOf 8 lo < signedOf 8 hi →
    bandsApart s.disp b (signedOf 8 lo) (signedOf 8 hi) = true → s.disp.flight.any (fun r => r.band == b) = false →
    ∃ t, Machine.exec (.wfLoad h (le 1 b ++ le 1 lo ++ le 1 hi ++ le 1 kind ++ le 2 n ++ le 4 off ++ le 2 data.length ++ data)) s =
        .next (answered s h 0x0A13 (le 1 b ++ le 1 lo ++ le 1 hi ++ le 1 kind ++ le 2 n ++ le 4 off ++ le 2 data.length ++ data) .ok [] t) ∧
      scansOf t.disp b kind = n ∧ (vget t.disp.waves b {}).low = signedOf 8 lo ∧
      vget (vget t.disp.waves b {}).tables kind [] = padTo off (vget (vget s.disp.waves b {}).loading kind []) ++ data) ∧
  (∀ temp ohm s, s.regionsRun = true → s.disp.state = 2 → s.disp.scanAt = none → ∃ t, Machine.exec (.scanStart temp ohm) s = .next t ∧
    t.disp.scanAt = some s.now ∧
    (s.disp.queue.any (·.granted) = false ∨ dcCrackMax s.disp.config * 10 < ohm → t.disp.flight.length = s.disp.flight.length) ∧
    (∀ r, s.disp.queue = [r] → r.granted = true → s.disp.flight = [] → s.disp.tempFault = false → -400 ≤ temp → temp ≤ 850 →
      ohm ≤ dcCrackMax s.disp.config * 10 → scansOf s.disp (bandAt s.disp temp) r.kind ≠ 0 →
      ∃ x, t.disp.flight = [x] ∧ t.disp.queue = [] ∧ x.handle = r.handle ∧ x.startAt = s.now ∧ x.band = bandAt s.disp temp)) ∧
  (∀ i r s, s.disp.flight[i]? = some r → s.regionsRun = true → r.scans * 20000 ≤ (s.now - r.startAt) * dcScanHz s.disp.config →
    ∃ t, Machine.exec (.waveformEnd i) s = .next t ∧ t.disp.flight = s.disp.flight.eraseIdx i ∧ t.disp.target = s.disp.target ∧
      (∀ a, a ∉ areaPixels s.disp.config r.area → Memory.read 15 t.disp.shown a = Memory.read 15 s.disp.shown a) ∧
      (r.flagged = false → t.disp.updates = satInc 32 s.disp.updates) ∧
      (r.flagged = false → r.price = true → t.billing.displayed = r.version ∧ t.disp.dirty = false) ∧
      (r.flagged = true → ∃ x q, t.disp.queue = x :: q ∧ x.redrive = true ∧ x.pixels = r.pixels ∧ x.handle = r.handle)) ∧
  (∀ s, s.regionsRun = true → s.disp.state = 1 → Machine.exec .railStartDone s =
    .next (updDisp (fun d => { d with state := 2, railTries := 0, idleAt := s.now, scanAt := none }) s)) ∧
  (∀ k s, s.regionsRun = true → s.disp.state = 1 → k < 5 → ∃ t, Machine.exec (.railFeedbackTimeout k) s = .next t ∧ t.disp.state = 3 ∧
    (s.disp.railTries = 0 → t.disp.retryAt = some s.now ∧ t.disp.railTries = 1 ∧ OnlyChanges [.disp] s t) ∧
    (s.disp.railTries ≠ 0 → t.disp.railFault = true ∧ t.faults.display = true ∧ t.disp.queue = [] ∧ t.disp.flight = [])) ∧
  (∀ t0 s, s.disp.retryAt = some t0 → s.regionsRun = true → s.disp.state = 0 → t0 + secF 1 ≤ s.now → displayUsable s = true →
    s.disp.queue.any (·.granted) = true → ∃ t, Machine.exec .railRetry s = .next t ∧ t.disp.state = 1 ∧ t.disp.retryAt = none ∧
      OnlyChanges [.disp] s t) ∧
  (∀ s, s.disp.state = 2 → s.disp.flight = [] → s.disp.idleAt + msF 50 ≤ s.now → ∃ t, Machine.exec .railFallStart s = .next t ∧
    t.disp.state = 3 ∧ OnlyChanges [.disp] s t) ∧
  (∀ s, s.disp.state = 3 → s.disp.queue.any (·.granted) = false →
    Machine.exec .railFallDone s = .next (updDisp (fun d => { d with state := 0 }) s)) ∧
  (∀ c s, s.regionsRun = true → ∃ t, Machine.exec (.panelTempReading c) s = .next t ∧ t.disp.temp = satInt 16 c ∧
    (-400 ≤ c → c ≤ 850 → t.disp.band = bandAt s.disp c) ∧ ((c < -400 ∨ 850 < c) → t.disp.band = 15 ∧ t.disp.tempFault = true)) ∧
  (∀ a b s, s.regionsRun = true → s.disp.crackAt + secF 60 ≤ s.now → ∃ t, Machine.exec (.crackCheck a b) s = .next t ∧
    (crackHigh s a = true → crackHigh s b = true → s.disp.crack = false → t.disp.crack = true ∧ t.disp.flight = [] ∧ t.disp.queue = [] ∧
      (dcCrackBlocks s.disp.config = true → t.billing.displayed = 0)) ∧
    (crackHigh s a = false ∨ crackHigh s b = false → t.disp.crack = false)) ∧
  (∀ i r t0 s, s.disp.queue[i]? = some r → r.retryAt = some t0 → s.regionsRun = true → t0 + secF 1 ≤ s.now →
    ∃ t x, Machine.exec (.displayRequestRetry i) s = .next t ∧ t.disp.queue[i]? = some x ∧ x.retryAt = none ∧ OnlyChanges [.ease, .disp] s t) ∧
  (∀ s, s.running = true → s.modes.mode = .standby → s.disp.aonAt + secF (dcAonRefresh s.disp.config) ≤ s.now →
    ∃ t, Machine.exec .aonRefresh s = .next t ∧ t.disp.aonAt = s.now ∧ (displayUsable s = true → hostQueued s.disp < 8 →
      dcAonW s.disp.config ≠ 0 → dcAonH s.disp.config ≠ 0 → t.disp.queue.length = s.disp.queue.length + 1)) ∧
  (∀ s, s.running = true → s.modes.mode = .benchmark → s.disp.benchAt + secF 10 ≤ s.now → ∃ t, Machine.exec .benchmarkTotalsRedraw s = .next t ∧
    t.disp.benchAt = s.now ∧ t.disp.shown = s.disp.shown ∧ OnlyChanges [.ease, .disp] s t)

/-! Storage and the chain update (chapter 14). -/

/-- O60. An image's way: staging by the host and along the chain, its blocks and acknowledgements, the slow and the silent receiver, abort, stall
and completion, activation and confirmation; the legal log's reclaim and a block's refresh (R430, R431, R441, R442, R445, R447, R449, R451 to
R456). -/
def Obligations.StorageAndChain : Prop :=
  (∀ h hdr s, Accepted h 0x0B10 (hdr ++ [0]) s → 2 ≤ s.roles.role → hdr.length = 512 → stagingRuns s = false → s.modes.activating = false →
    (headerOk s hdr = true → ∃ t, Machine.exec (.updateStart h (hdr ++ [0])) s = .next (answered s h 0x0B10 (hdr ++ [0]) .queued [] t) ∧
      t.chain.staging = 1 ∧ t.chain.byHost = true ∧ t.chain.ready = false ∧ t.store.stagingSlot = { header := hdr } ∧
      t.ease.nextId = s.ease.nextId + 1 ∧ OnlyChanges [.roles, .ease, .chain, .store] s t) ∧
    (headerOk s hdr = false → Machine.exec (.updateStart h (hdr ++ [0])) s = .next (turnedAway s h 0x0B10 .badParam))) ∧
  (∀ s, s.regionsRun = true → stagingRuns s = true → s.chain.ready = false → s.chain.erased = 12 →
    ∃ t, Machine.exec .stagingSlotReady s = .next t ∧ t.chain.ready = true ∧ (s.chain.byHost = true → t.trv = s.trv)) ∧
  (∀ h k half data tag s, Accepted h 0x0B11 (le 4 k ++ le 1 half ++ data ++ tag) s → 2 ≤ s.roles.role → half ≤ 1 → data.length = 2048 →
    tag.length = 16 * half → stagingRuns s = true → s.chain.ready = true → s.chain.byHost = true → k < stagedBlocks s → k < 2 ^ 32 →
    ∃ t, Machine.exec (.updateData h (le 4 k ++ le 1 half ++ data ++ tag)) s = .next (answered s h 0x0B11 (le 4 k ++ le 1 half ++ data ++ tag)
        (if (stageHalf k half data tag s).2 then .ok else .badParam) [] t) ∧ t.store.stagingSlot.header = s.store.stagingSlot.header ∧
      ((stageHalf k half data tag s).2 = true → holdsBlock s.store.stagingSlot k = false → half = 0 →
        ∃ b ∈ t.store.stagingSlot.blocks, b.index = k ∧ b.half0 = data) ∧
      ((stageHalf k half data tag s).2 = false → ∀ b ∈ t.store.stagingSlot.blocks, b.index ≠ k)) ∧
  (∀ h s, Accepted h 0x0B12 [] s → 2 ≤ s.roles.role → stagingRuns s = true → ∃ t, Machine.exec (.updateAbort h []) s =
    .next (answered s h 0x0B12 [] .ok [] t) ∧ t.store.stagingSlot = {} ∧ t.chain = {}) ∧
  (∀ h s, Accepted h 0x0B13 [] s → 2 ≤ s.roles.role → (s.inRom = true ∨ standbyOrComm s = true) → s.modes.activating = false →
    (s.chain.staging = 2 → s.store.stagingSlot.complete = true → trialRuns s = false → ∃ t, Machine.exec (.imageActivate h []) s =
      .next (answered s h 0x0B13 [] .queued [] t) ∧ t.modes.activating = true ∧ t.modes.mode = s.modes.mode ∧
        OnlyChanges [.modes, .roles, .ease, .store] s t) ∧
    (s.chain.staging ≠ 2 ∨ s.store.stagingSlot.complete = false ∨ trialRuns s = true → Machine.exec (.imageActivate h []) s =
      .next (answered s h 0x0B13 [] .notConfirmed [] (touchRole s)))) ∧
  (∀ s, s.modes.activating = true → 12 ≤ s.store.activateErased → s.running = true → s.shutting = false → s.power.supply = .on →
    (∃ t, Machine.exec (.activationCopyDone true) s = .next t ∧ t.store.trial = true ∧ t.store.trialBoots = 0 ∧ t.modes.activating = false ∧
      vget t.store.slots (otherSlot s) {} = s.store.stagingSlot ∧ t.rst.asserted.contains srcCmdSystem = true) ∧
    ∃ t, Machine.exec (.activationCopyDone false) s = .next t ∧ t.store.trial = s.store.trial ∧ t.modes.activating = false ∧
      vget t.store.slots (otherSlot s) {} = {} ∧ t.store.stagingSlot = s.store.stagingSlot) ∧
  (∀ h s, Accepted h 0x0B14 [] s → 2 ≤ s.roles.role →
    (trialRuns s = true → ∃ t, Machine.exec (.confirmImage h []) s = .next (answered s h 0x0B14 [] .ok [] t) ∧ t.store.running = otherSlot s ∧
      t.store.trial = false ∧ t.store.oldCopy = false ∧ t.store.minVersion = max s.store.minVersion (vget s.store.versions (otherSlot s) 0)) ∧
    (trialRuns s = false → Machine.exec (.confirmImage h []) s = .next (answered s h 0x0B14 [] .notConfirmed [] (touchRole s)))) ∧
  (∀ src origin hdr nodes p s, chainListens s = true → nodes.length ≤ 63 → s.chain.staging = 0 →
    ∃ t, Machine.exec (.chainOffer src origin hdr nodes p) s = .next t ∧
      (headerOk s hdr = true → s.modes.activating = false → t.chain.staging = 1 ∧ t.chain.byHost = false ∧ t.chain.upstream = src ∧
        t.chain.origin = origin ∧ t.store.stagingSlot = { header := hdr }) ∧
      (headerOk s hdr = false → t.chain = s.chain ∧ t.store.stagingSlot = s.store.stagingSlot ∧ t.trv.own.length = s.trv.own.length + 2)) ∧
  (∀ src pos res b s, s.chain.next = some (src, pos) → chainListens s = true → s.chain.staging ≠ 0 →
    ∃ t, Machine.exec (.chainAnswer src (stagedId s) res b) s = .next t ∧ (res = 0 → t.chain.nextAnswered = true ∧ b ≤ t.chain.nextFrom ∧
      t.chain.heardAt = s.now) ∧ (res ≠ 0 → t.chain.nextAnswered = false ∧ t.chain.next = successor s src) ∧
      OnlyChanges [.trv, .chain] s t) ∧
  (∀ src k half data tag s, chainListens s = true → stagingRuns s = true → s.chain.byHost = false → s.chain.ready = true →
    s.chain.upstream = src → k < stagedBlocks s → half ≤ 1 → data.length = 2048 →
    ∃ t q, Machine.exec (.chainBlock src (stagedId s) k half data tag) s = .next t ∧ q ∈ t.trv.own ∧ q.final = src ∧ q.service = 3 ∧
      q.payload = le 1 3 ++ le 16 (stagedId s) ++ leInt 4 ((stagedHeld (stageHalf k half data tag s).1 : Int) - 1)) ∧
  (∀ src pos k s, s.chain.next = some (src, pos) → chainListens s = true → s.chain.staging ≠ 0 → k < stagedBlocks s →
    ∃ t, Machine.exec (.chainBlockAck src (stagedId s) k) s = .next t ∧ t.chain.nextAcked = max s.chain.nextAcked k ∧ t.chain.heardAt = s.now ∧
      OnlyChanges [.trv, .chain] s t) ∧
  (∀ src k rate s, chainListens s = true → s.chain.byHost = true → s.chain.staging ≠ 0 → (s.chain.entries.drop 1).any (fun e => e.node == src) = true →
    k < 5120 → ∃ t e, Machine.exec (.chainProgress src (stagedId s) k rate) s = .next t ∧ e ∈ t.chain.entries ∧ e.node = src ∧
      e.heardAt = s.now ∧ e.blocks = k + 1) ∧
  (∀ s, chainListens s = true → stagingRuns s = true → s.chain.byHost = false → s.chain.sentAt + secF 5 ≤ s.now →
    ∃ t q, Machine.exec .chainProgressSend s = .next t ∧ t.trv.own = s.trv.own ++ [q] ∧ q.final = s.chain.origin ∧ t.chain.sentAt = s.now ∧
      OnlyChanges [.trv, .chain] s t) ∧
  (∀ n pos s, chainListens s = true → s.chain.byHost = false → s.chain.staging ≠ 0 →
    ∃ t q, Machine.exec (.chainReroute s.chain.origin (stagedId s) n pos) s = .next t ∧ t.chain.next = some (n, pos) ∧ t.chain.nextAcked = -1 ∧
      t.trv.own = s.trv.own ++ [q] ∧ q.final = n ∧ OnlyChanges [.trv, .chain] s t) ∧
  (∀ s, chainListens s = true → s.chain.byHost = false → s.chain.staging ≠ 0 →
    ∃ t, Machine.exec (.chainAbort s.chain.origin (stagedId s)) s = .next t ∧ t.chain = {} ∧ t.store.stagingSlot = {}) ∧
  (∀ src res s, chainListens s = true → s.chain.byHost = true → s.chain.staging ≠ 0 →
    (s.chain.entries.drop 1).any (fun e => e.node == src && !e.ended) = true → ∃ t, Machine.exec (.chainDone src (stagedId s) res) s = .next t ∧
      t.chain.progressAt = s.now ∧ (∃ e ∈ t.chain.entries, e.node = src ∧ e.state = (if res = 0 then 3 else if res = 2 ∨ res = 3 then 4 else 5)) ∧
      OnlyChanges [.port, .chain, .store] s t) ∧
  (∀ n pos s, chainListens s = true → s.chain.staging ≠ 0 → s.chain.next = some (n, pos) → s.chain.nextAcked + 1 < (stagedBlocks s : Int) →
    s.chain.heardAt + secF 10 ≤ s.now → ∃ t q, Machine.exec .chainReceiverSilent s = .next t ∧ t.trv.own = s.trv.own ++ [q] ∧ q.final = n ∧
      t.chain.nextAnswered = false ∧ t.chain.heardAt = s.now ∧ OnlyChanges [.trv, .chain] s t) ∧
  (∀ s, s.running = true → stagingRuns s = true → s.chain.progressAt + secF 600 ≤ s.now → ∃ t, Machine.exec .chainStall s = .next t ∧
    t.chain = {} ∧ t.store.stagingSlot = {}) ∧
  (∀ s, s.running = true → stagingRuns s = true → s.chain.reportAt + secF 10 ≤ s.now → ∃ t, Machine.exec .updateProgress s = .next t ∧
    t.chain.reportAt = s.now ∧ OnlyChanges [.port, .chain, .store] s t) ∧
  (∀ g s, s.regionsRun = true → s.shutting = false → s.store.reclaim = none → reclaimSource none s = some (g, false) →
    ∃ t r, Machine.exec (.reclaimStart none) s = .next t ∧ t.store.reclaim = some r ∧ r.source = g.id ∧ r.step = 1 ∧ r.lo = r.hi ∧
      OnlyChanges [.store] s t) ∧
  (∀ d g f s, s.regionsRun = true → s.shutting = false → s.store.reclaim = none → reclaimSource d s = some (g, true) →
    leastErased s.store.free = some f →
    ∃ t r, Machine.exec (.reclaimStart d) s = .next t ∧ t.store.reclaim = some r ∧ r.source = g.id ∧ r.dest = f.1 ∧ r.step = 1 ∧ r.lo = g.first ∧
      r.hi = g.first + g.count ∧ OnlyChanges [.store] s t) ∧
  (∀ r s, s.regionsRun = true → s.shutting = false → s.store.reclaim = some r → pageWaits s = false →
    ∃ t, Machine.exec (.reclaimStepDone true) s = .next t ∧
    (r.step ≤ 5 → 1 ≤ r.step → (r.step = 2 → r.destErased = true) → (r.step = 5 → r.erased = true) →
      ∃ q, t.store.reclaim = some q ∧ q.step = r.step + 1 ∧ q.source = r.source) ∧
    (6 ≤ r.step → t.store.reclaim = none ∧ t.store.free = s.store.free ++ (if r.gone then [] else [(r.source, r.hold + 1)]))) ∧
  (∀ part b s, s.regionsRun = true → s.shutting = false → part < 5 → part ≠ 3 → ∃ t, Machine.exec (.nandBlockRefresh part b false) s = .next t ∧
    t.store.refreshes = satInc 16 s.store.refreshes ∧ t.ease.nextId = s.ease.nextId + 1 ∧ OnlyChanges [.ease, .store] s t) ∧
  (∀ part b s, s.regionsRun = true → s.shutting = false → part < 2 → ∃ t, Machine.exec (.nandBlockRefresh part b true) s = .next t ∧
    t.store.uncorrectable = satInc 16 s.store.uncorrectable ∧ vget t.store.bootOk part true = false)
end

