-- ==== Sys2Proof/Laws/HostCommand.lean ====
section
/-!
SUPPORT. What the host port does with a command packet, said once: executed and answered, or refused at the first check that fails. And the
operand fields that a payload spells.
-/

namespace Sys2Proof.Machine

set_option linter.all false

open Sys2Proof.Safety

theorem le_length (k n : Nat) : (le k n).length = k := by
  induction k generalizing n with
  | zero => rfl
  | succ k ih => simp [le, ih]

theorem ofBytes_le (k n : Nat) : ofBytes (le k n) = n % 256 ^ k := by
  induction k generalizing n with
  | zero => simp [le, ofBytes, Nat.mod_one]
  | succ k ih =>
    have e : (256 : Nat) ^ (k + 1) = 256 * 256 ^ k := by rw [Nat.pow_succ, Nat.mul_comm]
    simp only [le, ofBytes, ih, BitVec.toNat_ofNat]
    rw [e, Nat.mod_mul]

/-- A field of k bytes at the front of a payload. -/
theorem numAt_le (k n : Nat) (q : List Byte) (h : n < 256 ^ k) : numAt (le k n ++ q) 0 k = n := by
  rw [numAt, List.drop_zero, List.take_left' (le_length k n), ofBytes_le, Nat.mod_eq_of_lt h]

/-- A field of k bytes behind i bytes. -/
theorem numAt_append (p q : List Byte) (i k n : Nat) (hp : p.length = i) (h : n < 256 ^ k) : numAt (p ++ (le k n ++ q)) i k = n := by
  rw [numAt, List.drop_left' hp, List.take_left' (le_length k n), ofBytes_le, Nat.mod_eq_of_lt h]

/-- The same at the end of a payload. -/
theorem numAt_last (p : List Byte) (i k n : Nat) (hp : p.length = i) (h : n < 256 ^ k) : numAt (p ++ le k n) i k = n := by
  have := numAt_append p [] i k n hp h
  rwa [List.append_nil] at this

theorem byteAt_le (n : Nat) (q : List Byte) (h : n < 256) : byteAt (le 1 n ++ q) 0 = n := by
  simp [byteAt, le, Nat.mod_eq_of_lt h]

/-- While the port runs its pads are configured. -/
theorem portOpen_of_runs {s : State} (h : s.portRuns = true) : portOpen s = true := by
  simp only [State.portRuns, State.running, Bool.and_eq_true, decide_eq_true_eq, beq_iff_eq] at h
  simp [portOpen, h]

theorem rxReady_of_free {s : State} (h : s.portRuns = true) (k : s.port.awaiting.length < 8) : rxReady s = true := by
  simp [rxReady, h, k]

/-- What a packet's transaction puts out while the port's pads are outputs. -/
theorem codeShifted_shown {s : State} (t : State) (r : portOpen s = true) : codeShifted s t = shown s t := by
  unfold codeShifted shown spiShown spiOpen codeByteOut
  cases e : onSpi s <;> simp_all [onSpi, spiOpen, quietLanes, byteLanes]

/-- The reply of an executed command, with what its transaction put out. -/
theorem shifted_answer {s : State} (h : Hdr) (opcode : Nat) (p : List Byte) (st : Status) (data : List Byte) (t : State) (r : portOpen s = true) :
    codeShifted s (answer h opcode (commandCrc h opcode p) st data t) = answered s h opcode p st data t :=
  codeShifted_shown _ r

/-- The reply of a command that is not executed. -/
theorem shifted_turnAway {s : State} (h : Hdr) (opcode : Nat) (st : Status) (t : State) (r : portOpen s = true) :
    codeShifted s (turnAway h opcode st t) = refusedIn s h opcode st t :=
  codeShifted_shown _ r

/-- A packet with the flags of a command is no acknowledgement. -/
theorem not_ack {f : Byte} (h : commandFlags f = true) : isAck f = false := by
  simp only [commandFlags, Bool.and_eq_true, Bool.not_eq_true'] at h
  simp [isAck, h]

/-- A command that passes every check is executed, and answered with what its execution yields. -/
theorem hostCommand_run {h : Hdr} {opcode : Nat} {p : List Byte} {cmd : State → Cmd} {s : State} (hr : s.portRuns = true)
    (hf : s.port.awaiting.length < 8) (hl : p.length ≤ 4096)
    (hk : s.port.kept.find? (fun k => k.seq == h.seq && k.crc == commandCrc h opcode p) = none)
    (hm : s.inRom = true → romCommands.contains opcode = true)
    (ha : isAck h.flags = false) (v : (cmd (touchRole s)).verdict h.flags (touchRole s) = none)
    (w : (cmd (touchRole s)).run.wait = none) (n : (cmd (touchRole s)).run.status ≠ .noLeave) :
    hostCommand h opcode p cmd s =
      answered s h opcode p (cmd (touchRole s)).run.status (cmd (touchRole s)).run.data (cmd (touchRole s)).run.st := by
  have h3 : ¬ 4096 < p.length := Nat.not_lt.mpr hl
  have h4 : (s.inRom && !romCommands.contains opcode) = false := by
    cases e : s.inRom
    · rfl
    · rw [hm e]; rfl
  unfold hostCommand packetTaken
  simp only [portOpen_of_runs hr, rxReady_of_free hr hf, h3, h4, ha, hk, v, finish, w, n, Bool.not_true, Bool.false_eq_true, if_false]
  exact shifted_answer _ _ _ _ _ _ (portOpen_of_runs hr)

/-- A command that fails a check is answered with that check's status, not executed and not kept. -/
theorem hostCommand_refuse {h : Hdr} {opcode : Nat} {p : List Byte} {cmd : State → Cmd} {s : State} {st : Status} (hr : s.portRuns = true)
    (hf : s.port.awaiting.length < 8) (hl : p.length ≤ 4096)
    (hk : s.port.kept.find? (fun k => k.seq == h.seq && k.crc == commandCrc h opcode p) = none)
    (hm : s.inRom = true → romCommands.contains opcode = true)
    (ha : isAck h.flags = false) (v : (cmd (touchRole s)).verdict h.flags (touchRole s) = some st) :
    hostCommand h opcode p cmd s = turnedAway s h opcode st := by
  have h3 : ¬ 4096 < p.length := Nat.not_lt.mpr hl
  have h4 : (s.inRom && !romCommands.contains opcode) = false := by
    cases e : s.inRom
    · rfl
    · rw [hm e]; rfl
  unfold hostCommand packetTaken
  simp only [portOpen_of_runs hr, rxReady_of_free hr hf, h3, h4, ha, hk, v, Bool.not_true, Bool.false_eq_true, if_false]
  exact shifted_turnAway _ _ _ _ (portOpen_of_runs hr)

/-- A command accepted in its plain form, whose own checks pass. -/
theorem hostCommand_accepted {h : Hdr} {opcode : Nat} {p : List Byte} {cmd : State → Cmd} {s : State} (a : Accepted h opcode p s)
    (l : (cmd (touchRole s)).level ≠ .expertOnly) (f : (cmd (touchRole s)).form = true) (r : (cmd (touchRole s)).role = true)
    (m : (cmd (touchRole s)).mode = true) (u : (cmd (touchRole s)).unsealed = true) (q : (cmd (touchRole s)).params = true)
    (e : (cmd (touchRole s)).free = true) (w : (cmd (touchRole s)).run.wait = none)
    (n : (cmd (touchRole s)).run.status ≠ .noLeave) :
    hostCommand h opcode p cmd s =
      answered s h opcode p (cmd (touchRole s)).run.status (cmd (touchRole s)).run.data (cmd (touchRole s)).run.st := by
  refine hostCommand_run a.runs a.free a.short a.fresh a.rom (not_ack a.flags) ?_ w n
  have h1 := a.flags
  have h2 := a.basic
  have h3 : (touchRole s).shutting = false := a.up
  have h4 : (cmd (touchRole s)).level.formOk h.flags = true := by
    unfold Level.formOk
    cases e : (cmd (touchRole s)).level <;> simp_all
  simp [Cmd.verdict, *]

/-- A command accepted in its expert form, whose own checks pass. -/
theorem hostCommand_expert {h : Hdr} {opcode : Nat} {p : List Byte} {cmd : State → Cmd} {s : State} (a : AcceptedExpert h opcode p s)
    (l : (cmd (touchRole s)).level ≠ .basic) (f : (cmd (touchRole s)).form = true) (r : (cmd (touchRole s)).role = true)
    (m : (cmd (touchRole s)).mode = true) (u : (cmd (touchRole s)).unsealed = true) (q : (cmd (touchRole s)).params = true)
    (e : (cmd (touchRole s)).free = true) (w : (cmd (touchRole s)).run.wait = none)
    (n : (cmd (touchRole s)).run.status ≠ .noLeave) :
    hostCommand h opcode p cmd s =
      answered s h opcode p (cmd (touchRole s)).run.status (cmd (touchRole s)).run.data (cmd (touchRole s)).run.st := by
  refine hostCommand_run a.runs a.free a.short a.fresh a.rom (not_ack a.flags) ?_ w n
  have h1 := a.flags
  have h2 := a.expert
  have h3 : (touchRole s).shutting = false := a.up
  have h5 : 2 ≤ (touchRole s).roles.role := a.role
  have h4 : (cmd (touchRole s)).level.formOk h.flags = true := by
    unfold Level.formOk
    cases e : (cmd (touchRole s)).level <;> simp_all
  simp [Cmd.verdict, *]

end Sys2Proof.Machine
end

