-- ==== Sys2Proof/Laws/Lasts.lean ====
section
/-!
SUPPORT. What every operation leaves behind it: the queue, the identity of the device, the canonical form of the addressed buffers, and the
counters and latches that never go back. One relation, closed under every update of the state; the other files of this group say it of each
operation.
-/

namespace Sys2Proof.Laws

set_option linter.all false

open Sys2Proof.Machine

/-- What lies between a state and a later one: nothing of the left side is lost. With `b` the seal latch counts as well. -/
structure Lasts (b : Bool) (s t : State) : Prop where
  pending : t.pending = s.pending
  variant : t.factory.variant = s.factory.variant
  serial : t.factory.serial = s.factory.serial
  store : Memory.wf 0 s.tag.store = true → Memory.wf 0 t.tag.store = true
  shown : Memory.wf 15 s.disp.shown = true → Memory.wf 15 t.disp.shown = true
  target : Memory.wf 15 s.disp.target = true → Memory.wf 15 t.disp.target = true
  tick : s.clock.tick ≤ t.clock.tick
  seq : s.log.seq ≤ t.log.seq
  sessions : s.billing.sessionCtr ≤ t.billing.sessionCtr
  locked : s.rst.debugLocked = true → t.rst.debugLocked = true
  broken : b = true → s.seals.broken = true → t.seals.broken = true

namespace Lasts

theorem refl (b : Bool) (s : State) : Lasts b s s :=
  ⟨rfl, rfl, rfl, id, id, id, Nat.le_refl _, Nat.le_refl _, Nat.le_refl _, id, fun _ => id⟩

theorem trans {b : Bool} {s t u : State} (h : Lasts b s t) (k : Lasts b t u) : Lasts b s u :=
  ⟨k.pending.trans h.pending, k.variant.trans h.variant, k.serial.trans h.serial, fun w => k.store (h.store w),
    fun w => k.shown (h.shown w), fun w => k.target (h.target w), Nat.le_trans h.tick k.tick, Nat.le_trans h.seq k.seq, Nat.le_trans h.sessions k.sessions,
    fun w => k.locked (h.locked w), fun e w => k.broken e (h.broken e w)⟩

/-- Any update that keeps the queue, seen field by field. -/
theorem upd {b : Bool} {u s : State} (h : Lasts b u s) {f : Factory} {c : Clock} {p : Power} {r : Reset} {m : ModeSt} {o : Port} {ro : RoleSt}
    {fa : Faults} {ea : Ease} {fe : FrontEnd} {en : Energy} {bi : Billing} {se : Seal} {lo : Log} {li : Link} {sw : Switch} {ld : Loads}
    {tr : Traverse} {rd : Reader} {tg : Tag} {di : Display} {ch : Chain} {st : Storage}
    (h1 : f.variant = s.factory.variant) (h2 : f.serial = s.factory.serial)
    (h3 : Memory.wf 0 s.tag.store = true → Memory.wf 0 tg.store = true)
    (h4 : Memory.wf 15 s.disp.shown = true → Memory.wf 15 di.shown = true)
    (h5 : Memory.wf 15 s.disp.target = true → Memory.wf 15 di.target = true)
    (h6 : s.clock.tick ≤ c.tick) (h7 : s.log.seq ≤ lo.seq) (h8 : s.billing.sessionCtr ≤ bi.sessionCtr)
    (h9 : s.rst.debugLocked = true → r.debugLocked = true)
    (h10 : b = true → s.seals.broken = true → se.broken = true) :
    Lasts b u ⟨f, c, p, r, m, o, ro, fa, ea, fe, en, bi, se, lo, li, sw, ld, tr, rd, tg, di, ch, st, s.pending⟩ :=
  h.trans ⟨rfl, h1, h2, h3, h4, h5, h6, h7, h8, h9, h10⟩

/-- Any update that keeps the queue and the eight parts that the relation speaks of. -/
theorem free {b : Bool} {u s : State} (h : Lasts b u s) {p : Power} {m : ModeSt} {o : Port} {ro : RoleSt} {fa : Faults} {ea : Ease} {fe : FrontEnd}
    {en : Energy} {li : Link} {sw : Switch} {ld : Loads} {tr : Traverse} {rd : Reader} {ch : Chain} {st : Storage} :
    Lasts b u ⟨s.factory, s.clock, p, s.rst, m, o, ro, fa, ea, fe, en, s.billing, s.seals, s.log, li, sw, ld, tr, rd, s.tag, s.disp, ch, st, s.pending⟩ :=
  h.trans ⟨rfl, rfl, rfl, id, id, id, Nat.le_refl _, Nat.le_refl _, Nat.le_refl _, id, fun _ => id⟩

theorem foldl {b : Bool} {α : Type} {u s : State} {f : State → α → State} {l : List α} (h : Lasts b u s)
    (hf : ∀ t x, Lasts b u t → Lasts b u (f t x)) : Lasts b u (l.foldl f s) := by
  induction l generalizing s with
  | nil => exact h
  | cons x l ih => exact ih (hf s x h)

theorem ite {b : Bool} {c : Prop} [Decidable c] {u s t : State} (h : Lasts b u s) (k : Lasts b u t) : Lasts b u (if c then s else t) := by
  split <;> assumption

end Lasts

/-- What a meaning keeps: where it answers a next state, nothing of the left side is lost. -/
def LastsEnds (b : Bool) (s : State) (o : Host.Outcome State Fault Refusal) : Prop := ∀ t, o = .next t → Lasts b s t

namespace LastsEnds

theorem elim {b : Bool} {s t : State} {o : Host.Outcome State Fault Refusal} (h : LastsEnds b s o) (e : o = .next t) : Lasts b s t := h t e

theorem next {b : Bool} {s t : State} (h : Lasts b s t) : LastsEnds b s (.next t) := by
  intro u e
  injection e with e
  exact e ▸ h

theorem fault {b : Bool} {s : State} (f : Fault) : LastsEnds b s (.fault f) := fun _ e => nomatch e

theorem refused {b : Bool} {s : State} (r : Refusal) : LastsEnds b s (.refused r) := fun _ e => nomatch e

theorem ite {b : Bool} {c : Prop} [Decidable c] {s : State} {o p : Host.Outcome State Fault Refusal} (h : LastsEnds b s o) (k : LastsEnds b s p) :
    LastsEnds b s (if c then o else p) := by
  split <;> assumption

end LastsEnds

end Sys2Proof.Laws
end

