-- ==== Sys2Proof/Laws/Memory.lean ====
section
/-!
SUPPORT. The addressed buffers: every write keeps the canonical form, reading back what was written, reading past it.
-/

namespace Sys2Proof.Machine

set_option linter.all false

theorem Memory.above_mono (d : Byte) {lo lo' : Nat} {l : List Host.Cell} (h : lo' ≤ lo) (k : Memory.above d lo l = true) :
    Memory.above d lo' l = true := by
  cases l with
  | nil => rfl
  | cons c t =>
    simp only [Memory.above, Bool.and_eq_true, decide_eq_true_eq] at k ⊢
    exact ⟨⟨Nat.le_trans h k.1.1, k.1.2⟩, k.2⟩

theorem Memory.write_above (d : Byte) (a : Nat) (v : Byte) {lo : Nat} {l : List Host.Cell} (h : lo ≤ a)
    (k : Memory.above d lo l = true) : Memory.above d lo (Memory.write d a v l) = true := by
  induction l generalizing lo with
  | nil =>
    unfold Memory.write
    split
    · rfl
    · simp [Memory.above, *]
  | cons c t ih =>
    simp only [Memory.above, Bool.and_eq_true, decide_eq_true_eq] at k
    obtain ⟨⟨k1, k2⟩, k3⟩ := k
    unfold Memory.write
    split
    · split
      · simp [Memory.above, k1, k2, k3]
      · rename_i hv
        have : a + 1 ≤ c.1 := by omega
        simp_all [Memory.above]
    · split
      · split
        · exact Memory.above_mono d (by omega) k3
        · rename_i ha hv
          simp_all [Memory.above]
      · have := ih (lo := c.1 + 1) (by omega) k3
        simp_all [Memory.above]

/-- A write keeps the canonical form. -/
theorem Memory.write_wf (d : Byte) (a : Nat) (v : Byte) {l : List Host.Cell} (k : Memory.wf d l = true) :
    Memory.wf d (Memory.write d a v l) = true :=
  Memory.write_above d a v (Nat.zero_le a) k

/-- So does a run of writes. -/
theorem Memory.writeAll_wf (d : Byte) (a : Nat) (b : List Byte) {l : List Host.Cell} (k : Memory.wf d l = true) :
    Memory.wf d (Memory.writeAll d a b l) = true := by
  induction b generalizing a l with
  | nil => exact k
  | cons v t ih => exact ih (a + 1) (Memory.write_wf d a v k)

/-- So do writes at scattered addresses. -/
theorem Memory.foldl_wf (d : Byte) {α : Type} (f : α → Nat) (g : α → Byte) (c : List α) {l : List Host.Cell} (k : Memory.wf d l = true) :
    Memory.wf d (c.foldl (fun m x => Memory.write d (f x) (g x) m) l) = true := by
  induction c generalizing l with
  | nil => exact k
  | cons x t ih => exact ih (Memory.write_wf d (f x) (g x) k)

/-- Below the lowest listed address every byte reads as unlisted. -/
theorem Memory.read_below (d : Byte) {lo a : Nat} {l : List Host.Cell} (h : a < lo) (k : Memory.above d lo l = true) :
    Memory.read d l a = d := by
  induction l generalizing lo with
  | nil => rfl
  | cons c t ih =>
    simp only [Memory.above, Bool.and_eq_true, decide_eq_true_eq] at k
    have : ¬ c.1 = a := by omega
    simp only [Memory.read, this, if_false]
    exact ih (lo := c.1 + 1) (by omega) k.2

/-- The byte read after a write: the one written at its address, the old one elsewhere. -/
theorem Memory.read_write (d : Byte) (a x : Nat) (v : Byte) {lo : Nat} {l : List Host.Cell} (k : Memory.above d lo l = true) :
    Memory.read d (Memory.write d a v l) x = if x = a then v else Memory.read d l x := by
  induction l generalizing lo with
  | nil =>
    unfold Memory.write
    split
    · rename_i hv
      simp [Memory.read, hv]
    · by_cases hx : a = x
      · simp [Memory.read, hx]
      · have : ¬ x = a := fun e => hx e.symm
        simp [Memory.read, hx, this]
  | cons c t ih =>
    simp only [Memory.above, Bool.and_eq_true, decide_eq_true_eq] at k
    obtain ⟨⟨_, k2⟩, k3⟩ := k
    unfold Memory.write
    split
    · rename_i hlt
      have hc : Memory.read d (c :: t) a = d :=
        Memory.read_below d (lo := c.1) hlt (by simp_all [Memory.above])
      split
      · rename_i hv
        by_cases hx : x = a
        · subst hx; simp [hv, hc]
        · simp [hx]
      · by_cases hx : x = a
        · simp [Memory.read, hx]
        · have : ¬ a = x := fun e => hx e.symm
          simp [Memory.read, hx, this]
    · split
      · rename_i ha
        split
        · rename_i hv
          by_cases hx : x = a
          · subst hx
            rw [Memory.read_below d (lo := c.1 + 1) (by omega) k3]; simp [hv]
          · have : ¬ c.1 = x := by omega
            simp [Memory.read, hx, this]
        · by_cases hx : x = a
          · simp [Memory.read, hx]
          · have h1 : ¬ a = x := fun e => hx e.symm
            have h2 : ¬ c.1 = x := by omega
            simp [Memory.read, hx, h1, h2]
      · rename_i h1 h2
        by_cases hx : c.1 = x
        · have : ¬ x = a := by omega
          simp [Memory.read, hx, this]
        · simp only [Memory.read, hx, if_false]
          exact ih k3

end Sys2Proof.Machine
end

