-- ==== Sys2Proof/Laws/LastsMemory.lean ====
section
/-!
SUPPORT. What the operations of Machine/Memory.lean keep (the relation of Lasts).
-/

namespace Sys2Proof.Machine

set_option linter.all false

open Sys2Proof.Laws

variable {b_ : Bool} {u_ : State}

theorem putStore_lasts (a : Nat) (c : List Byte) {s : State} (k : Lasts b_ u_ s) : Lasts b_ u_ (putStore a c s) := by
  unfold putStore
  apply Lasts.upd k <;>
    first | rfl | exact fun w => w | exact Nat.le_refl _ | exact fun _ w => w | exact fun w => Memory.writeAll_wf 0 a c w

theorem ringPut_lasts (base size head headBytes : Nat) (b : List Byte) {s : State} (h_ : Lasts b_ u_ s) : Lasts b_ u_ (ringPut base size head headBytes b s) := by
  unfold ringPut
  try dsimp only
  repeat' first | with_reducible assumption | with_reducible apply putStore_lasts | with_reducible apply Lasts.foldl | (intro _ _ _) | with_reducible apply Lasts.ite | split | with_reducible apply Lasts.free | (with_reducible apply Lasts.upd <;> first | with_reducible rfl | with_reducible exact fun w => w | with_reducible exact fun _ w => w | with_reducible exact Nat.le_refl _ | skip)
  all_goals first | rfl | exact fun w => w | exact fun _ w => w | exact Nat.le_refl _ | exact Nat.le_succ _ | exact fun _ => rfl | exact fun _ _ => rfl | skip

theorem witnessRecord_lasts (b : List Byte) {s : State} (h_ : Lasts b_ u_ s) : Lasts b_ u_ (witnessRecord b s) := by
  unfold witnessRecord
  try dsimp only
  repeat' first | with_reducible assumption | with_reducible apply ringPut_lasts | with_reducible apply Lasts.foldl | (intro _ _ _) | with_reducible apply Lasts.ite | split | with_reducible apply Lasts.free | (with_reducible apply Lasts.upd <;> first | with_reducible rfl | with_reducible exact fun w => w | with_reducible exact fun _ w => w | with_reducible exact Nat.le_refl _ | skip)
  all_goals first | rfl | exact fun w => w | exact fun _ w => w | exact Nat.le_refl _ | exact Nat.le_succ _ | exact fun _ => rfl | exact fun _ _ => rfl | skip

theorem witnessSealRecord_lasts (b : List Byte) {s : State} (h_ : Lasts b_ u_ s) : Lasts b_ u_ (witnessSealRecord b s) := by
  unfold witnessSealRecord
  try dsimp only
  repeat' first | with_reducible assumption | with_reducible apply ringPut_lasts | with_reducible apply Lasts.foldl | (intro _ _ _) | with_reducible apply Lasts.ite | split | with_reducible apply Lasts.free | (with_reducible apply Lasts.upd <;> first | with_reducible rfl | with_reducible exact fun w => w | with_reducible exact fun _ w => w | with_reducible exact Nat.le_refl _ | skip)
  all_goals first | rfl | exact fun w => w | exact fun _ w => w | exact Nat.le_refl _ | exact Nat.le_succ _ | exact fun _ => rfl | exact fun _ _ => rfl | skip

end Sys2Proof.Machine
end

