-- ==== Sys2Proof/Laws/LastsOps.lean ====
section
/-!
SUPPORT. What the operations of Machine/Ops.lean keep (the relation of Lasts).
-/

namespace Sys2Proof.Machine

set_option linter.all false

open Sys2Proof.Laws

variable {b_ : Bool} {u_ : State}

theorem State.drawFree_lasts  {s : State} (h_ : Lasts b_ u_ s) : Lasts b_ u_ (State.drawFree s) := by
  unfold State.drawFree
  try dsimp only
  repeat' first | with_reducible assumption | with_reducible apply Lasts.foldl | (intro _ _ _) | with_reducible apply Lasts.ite | split | with_reducible apply Lasts.free | (with_reducible apply Lasts.upd <;> first | with_reducible rfl | with_reducible exact fun w => w | with_reducible exact fun _ w => w | with_reducible exact Nat.le_refl _ | skip)
  all_goals first | rfl | exact fun w => w | exact fun _ w => w | exact Nat.le_refl _ | exact Nat.le_succ _ | exact fun _ => rfl | exact fun _ _ => rfl | skip

theorem journalApp_lasts (type key n : Nat) {s : State} (h_ : Lasts b_ u_ s) : Lasts b_ u_ (journalApp type key n s) := by
  unfold journalApp
  try dsimp only
  repeat' first | with_reducible assumption | with_reducible apply Lasts.foldl | (intro _ _ _) | with_reducible apply Lasts.ite | split | with_reducible apply Lasts.free | (with_reducible apply Lasts.upd <;> first | with_reducible rfl | with_reducible exact fun w => w | with_reducible exact fun _ w => w | with_reducible exact Nat.le_refl _ | skip)
  all_goals first | rfl | exact fun w => w | exact fun _ w => w | exact Nat.le_refl _ | exact Nat.le_succ _ | exact fun _ => rfl | exact fun _ _ => rfl | skip

theorem journalMet_lasts (type key n : Nat) {s : State} (h_ : Lasts b_ u_ s) : Lasts b_ u_ (journalMet type key n s) := by
  unfold journalMet
  try dsimp only
  repeat' first | with_reducible assumption | with_reducible apply Lasts.foldl | (intro _ _ _) | with_reducible apply Lasts.ite | split | with_reducible apply Lasts.free | (with_reducible apply Lasts.upd <;> first | with_reducible rfl | with_reducible exact fun w => w | with_reducible exact fun _ w => w | with_reducible exact Nat.le_refl _ | skip)
  all_goals first | rfl | exact fun w => w | exact fun _ w => w | exact Nat.le_refl _ | exact Nat.le_succ _ | exact fun _ => rfl | exact fun _ _ => rfl | skip

theorem appRetire_lasts (hit : JRec → Bool) {s : State} (h_ : Lasts b_ u_ s) : Lasts b_ u_ (appRetire hit s) := by
  unfold appRetire
  try dsimp only
  repeat' first | with_reducible assumption | with_reducible apply journalApp_lasts | with_reducible apply Lasts.foldl | (intro _ _ _) | with_reducible apply Lasts.ite | split | with_reducible apply Lasts.free | (with_reducible apply Lasts.upd <;> first | with_reducible rfl | with_reducible exact fun w => w | with_reducible exact fun _ w => w | with_reducible exact Nat.le_refl _ | skip)
  all_goals first | rfl | exact fun w => w | exact fun _ w => w | exact Nat.le_refl _ | exact Nat.le_succ _ | exact fun _ => rfl | exact fun _ _ => rfl | skip

theorem metRetire_lasts (hit : JRec → Bool) {s : State} (h_ : Lasts b_ u_ s) : Lasts b_ u_ (metRetire hit s) := by
  unfold metRetire
  try dsimp only
  repeat' first | with_reducible assumption | with_reducible apply journalMet_lasts | with_reducible apply Lasts.foldl | (intro _ _ _) | with_reducible apply Lasts.ite | split | with_reducible apply Lasts.free | (with_reducible apply Lasts.upd <;> first | with_reducible rfl | with_reducible exact fun w => w | with_reducible exact fun _ w => w | with_reducible exact Nat.le_refl _ | skip)
  all_goals first | rfl | exact fun w => w | exact fun _ w => w | exact Nat.le_refl _ | exact Nat.le_succ _ | exact fun _ => rfl | exact fun _ _ => rfl | skip

theorem journalNew_lasts (type key n : Nat) {s : State} (h_ : Lasts b_ u_ s) : Lasts b_ u_ (journalNew type key n s) := by
  unfold journalNew
  try dsimp only
  repeat' first | with_reducible assumption | with_reducible apply appRetire_lasts | with_reducible apply journalApp_lasts | with_reducible apply Lasts.foldl | (intro _ _ _) | with_reducible apply Lasts.ite | split | with_reducible apply Lasts.free | (with_reducible apply Lasts.upd <;> first | with_reducible rfl | with_reducible exact fun w => w | with_reducible exact fun _ w => w | with_reducible exact Nat.le_refl _ | skip)
  all_goals first | rfl | exact fun w => w | exact fun _ w => w | exact Nat.le_refl _ | exact Nat.le_succ _ | exact fun _ => rfl | exact fun _ _ => rfl | skip

theorem journalUpdate_lasts (slot kind n : Nat) {s : State} (h_ : Lasts b_ u_ s) : Lasts b_ u_ (journalUpdate slot kind n s) := by
  unfold journalUpdate
  try dsimp only
  repeat' first | with_reducible assumption | with_reducible apply journalNew_lasts | with_reducible apply Lasts.foldl | (intro _ _ _) | with_reducible apply Lasts.ite | split | with_reducible apply Lasts.free | (with_reducible apply Lasts.upd <;> first | with_reducible rfl | with_reducible exact fun w => w | with_reducible exact fun _ w => w | with_reducible exact Nat.le_refl _ | skip)
  all_goals first | rfl | exact fun w => w | exact fun _ w => w | exact Nat.le_refl _ | exact Nat.le_succ _ | exact fun _ => rfl | exact fun _ _ => rfl | skip

theorem emit_lasts (code : Nat) (payload : List Byte) (cmdAck : Bool) {s : State} (h_ : Lasts b_ u_ s) : Lasts b_ u_ (emit code payload cmdAck s) := by
  unfold emit
  try dsimp only
  repeat' first | with_reducible assumption | with_reducible apply journalApp_lasts | with_reducible apply Lasts.foldl | (intro _ _ _) | with_reducible apply Lasts.ite | split | with_reducible apply Lasts.free | (with_reducible apply Lasts.upd <;> first | with_reducible rfl | with_reducible exact fun w => w | with_reducible exact fun _ w => w | with_reducible exact Nat.le_refl _ | skip)
  all_goals first | rfl | exact fun w => w | exact fun _ w => w | exact Nat.le_refl _ | exact Nat.le_succ _ | exact fun _ => rfl | exact fun _ _ => rfl | skip

theorem event_lasts (code : Nat) (payload : List Byte) {s : State} (h_ : Lasts b_ u_ s) : Lasts b_ u_ (event code payload s) := by
  unfold event
  try dsimp only
  repeat' first | with_reducible assumption | with_reducible apply emit_lasts | with_reducible apply Lasts.foldl | (intro _ _ _) | with_reducible apply Lasts.ite | split | with_reducible apply Lasts.free | (with_reducible apply Lasts.upd <;> first | with_reducible rfl | with_reducible exact fun w => w | with_reducible exact fun _ w => w | with_reducible exact Nat.le_refl _ | skip)
  all_goals first | rfl | exact fun w => w | exact fun _ w => w | exact Nat.le_refl _ | exact Nat.le_succ _ | exact fun _ => rfl | exact fun _ _ => rfl | skip

end Sys2Proof.Machine
end

