-- ==== Sys2Proof/Laws/LastsRecords.lean ====
section
/-!
SUPPORT. What the operations of Machine/Records.lean keep (the relation of Lasts).
-/

namespace Sys2Proof.Machine

set_option linter.all false

open Sys2Proof.Laws

variable {b_ : Bool} {u_ : State}

theorem updEng_lasts (n : Nat) (f : EnergyOut → EnergyOut) {s : State} (h_ : Lasts b_ u_ s) : Lasts b_ u_ (updEng n f s) := by
  unfold updEng
  try dsimp only
  repeat' first | with_reducible assumption | with_reducible apply Lasts.foldl | (intro _ _ _) | with_reducible apply Lasts.ite | split | with_reducible apply Lasts.free | (with_reducible apply Lasts.upd <;> first | with_reducible rfl | with_reducible exact fun w => w | with_reducible exact fun _ w => w | with_reducible exact Nat.le_refl _ | skip)
  all_goals first | rfl | exact fun w => w | exact fun _ w => w | exact Nat.le_refl _ | exact Nat.le_succ _ | exact fun _ => rfl | exact fun _ _ => rfl | skip

theorem setWarn_lasts (n b : Nat) (value : Int) {s : State} (h_ : Lasts b_ u_ s) : Lasts b_ u_ (setWarn n b value s) := by
  unfold setWarn
  try dsimp only
  repeat' first | with_reducible assumption | with_reducible apply event_lasts | with_reducible apply updEng_lasts | with_reducible apply Lasts.foldl | (intro _ _ _) | with_reducible apply Lasts.ite | split | with_reducible apply Lasts.free | (with_reducible apply Lasts.upd <;> first | with_reducible rfl | with_reducible exact fun w => w | with_reducible exact fun _ w => w | with_reducible exact Nat.le_refl _ | skip)
  all_goals first | rfl | exact fun w => w | exact fun _ w => w | exact Nat.le_refl _ | exact Nat.le_succ _ | exact fun _ => rfl | exact fun _ _ => rfl | skip

theorem setSessionFlag_lasts (n b : Nat) {s : State} (h_ : Lasts b_ u_ s) : Lasts b_ u_ (setSessionFlag n b s) := by
  unfold setSessionFlag
  try dsimp only
  repeat' first | with_reducible assumption | with_reducible apply updEng_lasts | with_reducible apply Lasts.foldl | (intro _ _ _) | with_reducible apply Lasts.ite | split | with_reducible apply Lasts.free | (with_reducible apply Lasts.upd <;> first | with_reducible rfl | with_reducible exact fun w => w | with_reducible exact fun _ w => w | with_reducible exact Nat.le_refl _ | skip)
  all_goals first | rfl | exact fun w => w | exact fun _ w => w | exact Nat.le_refl _ | exact Nat.le_succ _ | exact fun _ => rfl | exact fun _ _ => rfl | skip

theorem recordsPending_lasts  {s : State} (h_ : Lasts b_ u_ s) : Lasts b_ u_ (recordsPending s) := by
  unfold recordsPending
  try dsimp only
  repeat' first | with_reducible assumption | with_reducible apply event_lasts | with_reducible apply Lasts.foldl | (intro _ _ _) | with_reducible apply Lasts.ite | split | with_reducible apply Lasts.free | (with_reducible apply Lasts.upd <;> first | with_reducible rfl | with_reducible exact fun w => w | with_reducible exact fun _ w => w | with_reducible exact Nat.le_refl _ | skip)
  all_goals first | rfl | exact fun w => w | exact fun _ w => w | exact Nat.le_refl _ | exact Nat.le_succ _ | exact fun _ => rfl | exact fun _ _ => rfl | skip

theorem signedRetire_lasts (l : List Record) {s : State} (h_ : Lasts b_ u_ s) : Lasts b_ u_ (signedRetire l s) := by
  unfold signedRetire
  try dsimp only
  repeat' first | with_reducible assumption | with_reducible apply metRetire_lasts | with_reducible apply Lasts.foldl | (intro _ _ _) | with_reducible apply Lasts.ite | split | with_reducible apply Lasts.free | (with_reducible apply Lasts.upd <;> first | with_reducible rfl | with_reducible exact fun w => w | with_reducible exact fun _ w => w | with_reducible exact Nat.le_refl _ | skip)
  all_goals first | rfl | exact fun w => w | exact fun _ w => w | exact Nat.le_refl _ | exact Nat.le_succ _ | exact fun _ => rfl | exact fun _ _ => rfl | skip

theorem sign_lasts (r : Record) {s : State} (h_ : Lasts b_ u_ s) : Lasts b_ u_ (sign r s) := by
  unfold sign
  try dsimp only
  repeat' first | with_reducible assumption | with_reducible apply witnessSealRecord_lasts | with_reducible apply recordsPending_lasts | with_reducible apply journalMet_lasts | with_reducible apply Lasts.foldl | (intro _ _ _) | with_reducible apply Lasts.ite | split | with_reducible apply Lasts.free | (with_reducible apply Lasts.upd <;> first | with_reducible rfl | with_reducible exact fun w => w | with_reducible exact fun _ w => w | with_reducible exact Nat.le_refl _ | skip)
  all_goals first | rfl | exact fun w => w | exact fun _ w => w | exact Nat.le_refl _ | exact Nat.le_succ _ | exact fun _ => rfl | exact fun _ _ => rfl | skip

theorem countGap_lasts  {s : State} (h_ : Lasts b_ u_ s) : Lasts b_ u_ (countGap s) := by
  unfold countGap
  try dsimp only
  repeat' first | with_reducible assumption | with_reducible apply event_lasts | with_reducible apply Lasts.foldl | (intro _ _ _) | with_reducible apply Lasts.ite | split | with_reducible apply Lasts.free | (with_reducible apply Lasts.upd <;> first | with_reducible rfl | with_reducible exact fun w => w | with_reducible exact fun _ w => w | with_reducible exact Nat.le_refl _ | skip)
  all_goals first | rfl | exact fun w => w | exact fun _ w => w | exact Nat.le_refl _ | exact Nat.le_succ _ | exact fun _ => rfl | exact fun _ _ => rfl | skip

theorem signSwitch_lasts (old new instant : Nat) (adjusted rebuilt : Bool) {s : State} (h_ : Lasts b_ u_ s) : Lasts b_ u_ (signSwitch old new instant adjusted rebuilt s) := by
  unfold signSwitch
  try dsimp only
  repeat' first | with_reducible assumption | with_reducible apply countGap_lasts | with_reducible apply sign_lasts | with_reducible apply Lasts.foldl | (intro _ _ _) | with_reducible apply Lasts.ite | split | with_reducible apply Lasts.free | (with_reducible apply Lasts.upd <;> first | with_reducible rfl | with_reducible exact fun w => w | with_reducible exact fun _ w => w | with_reducible exact Nat.le_refl _ | skip)
  all_goals first | rfl | exact fun w => w | exact fun _ w => w | exact Nat.le_refl _ | exact Nat.le_succ _ | exact fun _ => rfl | exact fun _ _ => rfl | skip

theorem signBenchmark_lasts (entry : Bool) (instant : Nat) (rebuilt : Bool) {s : State} (h_ : Lasts b_ u_ s) : Lasts b_ u_ (signBenchmark entry instant rebuilt s) := by
  unfold signBenchmark
  try dsimp only
  repeat' first | with_reducible assumption | with_reducible apply countGap_lasts | with_reducible apply sign_lasts | with_reducible apply Lasts.foldl | (intro _ _ _) | with_reducible apply Lasts.ite | split | with_reducible apply Lasts.free | (with_reducible apply Lasts.upd <;> first | with_reducible rfl | with_reducible exact fun w => w | with_reducible exact fun _ w => w | with_reducible exact Nat.le_refl _ | skip)
  all_goals first | rfl | exact fun w => w | exact fun _ w => w | exact Nat.le_refl _ | exact Nat.le_succ _ | exact fun _ => rfl | exact fun _ _ => rfl | skip

theorem signGap_lasts  {s : State} (h_ : Lasts b_ u_ s) : Lasts b_ u_ (signGap s) := by
  unfold signGap
  try dsimp only
  repeat' first | with_reducible assumption | with_reducible apply sign_lasts | with_reducible apply Lasts.foldl | (intro _ _ _) | with_reducible apply Lasts.ite | split | with_reducible apply Lasts.free | (with_reducible apply Lasts.upd <;> first | with_reducible rfl | with_reducible exact fun w => w | with_reducible exact fun _ w => w | with_reducible exact Nat.le_refl _ | skip)
  all_goals first | rfl | exact fun w => w | exact fun _ w => w | exact Nat.le_refl _ | exact Nat.le_succ _ | exact fun _ => rfl | exact fun _ _ => rfl | skip

theorem signDemandReset_lasts (instant : Nat) (adjusted : Bool) {s : State} (h_ : Lasts b_ u_ s) : Lasts b_ u_ (signDemandReset instant adjusted s) := by
  unfold signDemandReset
  try dsimp only
  repeat' first | with_reducible assumption | with_reducible apply sign_lasts | with_reducible apply Lasts.foldl | (intro _ _ _) | with_reducible apply Lasts.ite | split | with_reducible apply Lasts.free | (with_reducible apply Lasts.upd <;> first | with_reducible rfl | with_reducible exact fun w => w | with_reducible exact fun _ w => w | with_reducible exact Nat.le_refl _ | skip)
  all_goals first | rfl | exact fun w => w | exact fun _ w => w | exact Nat.le_refl _ | exact Nat.le_succ _ | exact fun _ => rfl | exact fun _ _ => rfl | skip

theorem signParameter_lasts (outlet object index : Nat) (content : List Byte) {s : State} (h_ : Lasts b_ u_ s) : Lasts b_ u_ (signParameter outlet object index content s) := by
  unfold signParameter
  try dsimp only
  repeat' first | with_reducible assumption | with_reducible apply sign_lasts | with_reducible apply Lasts.foldl | (intro _ _ _) | with_reducible apply Lasts.ite | split | with_reducible apply Lasts.free | (with_reducible apply Lasts.upd <;> first | with_reducible rfl | with_reducible exact fun w => w | with_reducible exact fun _ w => w | with_reducible exact Nat.le_refl _ | skip)
  all_goals first | rfl | exact fun w => w | exact fun _ w => w | exact Nat.le_refl _ | exact Nat.le_succ _ | exact fun _ => rfl | exact fun _ _ => rfl | skip

theorem signClosing_lasts (type n time : Nat) (x : Session) {s : State} (h_ : Lasts b_ u_ s) : Lasts b_ u_ (signClosing type n time x s) := by
  unfold signClosing
  try dsimp only
  repeat' first | with_reducible assumption | with_reducible apply sign_lasts | with_reducible apply Lasts.foldl | (intro _ _ _) | with_reducible apply Lasts.ite | split | with_reducible apply Lasts.free | (with_reducible apply Lasts.upd <;> first | with_reducible rfl | with_reducible exact fun w => w | with_reducible exact fun _ w => w | with_reducible exact Nat.le_refl _ | skip)
  all_goals first | rfl | exact fun w => w | exact fun _ w => w | exact Nat.le_refl _ | exact Nat.le_succ _ | exact fun _ => rfl | exact fun _ _ => rfl | skip

theorem clearPulses_lasts  {s : State} (h_ : Lasts b_ u_ s) : Lasts b_ u_ (clearPulses s) := by
  unfold clearPulses
  try dsimp only
  repeat' first | with_reducible assumption | with_reducible apply Lasts.foldl | (intro _ _ _) | with_reducible apply Lasts.ite | split | with_reducible apply Lasts.free | (with_reducible apply Lasts.upd <;> first | with_reducible rfl | with_reducible exact fun w => w | with_reducible exact fun _ w => w | with_reducible exact Nat.le_refl _ | skip)
  all_goals first | rfl | exact fun w => w | exact fun _ w => w | exact Nat.le_refl _ | exact Nat.le_succ _ | exact fun _ => rfl | exact fun _ _ => rfl | skip

theorem enterMode_lasts (new : Mode) (input pendingInput : Nat) {s : State} (h_ : Lasts b_ u_ s) : Lasts b_ u_ (enterMode new input pendingInput s) := by
  unfold enterMode
  try dsimp only
  repeat' first | with_reducible assumption | with_reducible apply signBenchmark_lasts | with_reducible apply clearPulses_lasts | with_reducible apply event_lasts | with_reducible apply Lasts.foldl | (intro _ _ _) | with_reducible apply Lasts.ite | split | with_reducible apply Lasts.free | (with_reducible apply Lasts.upd <;> first | with_reducible rfl | with_reducible exact fun w => w | with_reducible exact fun _ w => w | with_reducible exact Nat.le_refl _ | skip)
  all_goals first | rfl | exact fun w => w | exact fun _ w => w | exact Nat.le_refl _ | exact Nat.le_succ _ | exact fun _ => rfl | exact fun _ _ => rfl | skip

theorem benchCancelled_lasts (cause : Nat) {s : State} (h_ : Lasts b_ u_ s) : Lasts b_ u_ (benchCancelled cause s) := by
  unfold benchCancelled
  try dsimp only
  repeat' first | with_reducible assumption | with_reducible apply emit_lasts | with_reducible apply Lasts.foldl | (intro _ _ _) | with_reducible apply Lasts.ite | split | with_reducible apply Lasts.free | (with_reducible apply Lasts.upd <;> first | with_reducible rfl | with_reducible exact fun w => w | with_reducible exact fun _ w => w | with_reducible exact Nat.le_refl _ | skip)
  all_goals first | rfl | exact fun w => w | exact fun _ w => w | exact Nat.le_refl _ | exact Nat.le_succ _ | exact fun _ => rfl | exact fun _ _ => rfl | skip

theorem lastClosed_lasts  {s : State} (h_ : Lasts b_ u_ s) : Lasts b_ u_ (lastClosed s) := by
  unfold lastClosed
  try dsimp only
  repeat' first | with_reducible assumption | with_reducible apply enterMode_lasts | with_reducible apply benchCancelled_lasts | with_reducible apply Lasts.foldl | (intro _ _ _) | with_reducible apply Lasts.ite | split | with_reducible apply Lasts.free | (with_reducible apply Lasts.upd <;> first | with_reducible rfl | with_reducible exact fun w => w | with_reducible exact fun _ w => w | with_reducible exact Nat.le_refl _ | skip)
  all_goals first | rfl | exact fun w => w | exact fun _ w => w | exact Nat.le_refl _ | exact Nat.le_succ _ | exact fun _ => rfl | exact fun _ _ => rfl | skip

theorem cancelSync_lasts  {s : State} (h_ : Lasts b_ u_ s) : Lasts b_ u_ (cancelSync s) := by
  unfold cancelSync
  try dsimp only
  repeat' first | with_reducible assumption | with_reducible apply emit_lasts | with_reducible apply Lasts.foldl | (intro _ _ _) | with_reducible apply Lasts.ite | split | with_reducible apply Lasts.free | (with_reducible apply Lasts.upd <;> first | with_reducible rfl | with_reducible exact fun w => w | with_reducible exact fun _ w => w | with_reducible exact Nat.le_refl _ | skip)
  all_goals first | rfl | exact fun w => w | exact fun _ w => w | exact Nat.le_refl _ | exact Nat.le_succ _ | exact fun _ => rfl | exact fun _ _ => rfl | skip

theorem openSession_lasts (n : Nat) (exportOk : Bool) (maxImp maxExp : Nat) {s : State} (h_ : Lasts b_ u_ s) : Lasts b_ u_ (openSession n exportOk maxImp maxExp s) := by
  unfold openSession
  try dsimp only
  repeat' first | with_reducible assumption | with_reducible apply updEng_lasts | with_reducible apply sign_lasts | with_reducible apply cancelSync_lasts | with_reducible apply enterMode_lasts | with_reducible apply Lasts.foldl | (intro _ _ _) | with_reducible apply Lasts.ite | split | with_reducible apply Lasts.free | (with_reducible apply Lasts.upd <;> first | with_reducible rfl | with_reducible exact fun w => w | with_reducible exact fun _ w => w | with_reducible exact Nat.le_refl _ | skip)
  all_goals first | rfl | exact fun w => w | exact fun _ w => w | exact Nat.le_refl _ | exact Nat.le_succ _ | exact fun _ => rfl | exact fun _ _ => rfl | skip

theorem closeSession_lasts (n : Nat) {s : State} (h_ : Lasts b_ u_ s) : Lasts b_ u_ (closeSession n s) := by
  unfold closeSession
  try dsimp only
  repeat' first | with_reducible assumption | with_reducible apply signClosing_lasts | with_reducible apply lastClosed_lasts | with_reducible apply Lasts.foldl | (intro _ _ _) | with_reducible apply Lasts.ite | split | with_reducible apply Lasts.free | (with_reducible apply Lasts.upd <;> first | with_reducible rfl | with_reducible exact fun w => w | with_reducible exact fun _ w => w | with_reducible exact Nat.le_refl _ | skip)
  all_goals first | rfl | exact fun w => w | exact fun _ w => w | exact Nat.le_refl _ | exact Nat.le_succ _ | exact fun _ => rfl | exact fun _ _ => rfl | skip

end Sys2Proof.Machine
end

