-- ==== Sys2Proof/Laws/LastsBilling.lean ====
section
/-!
SUPPORT. What the operations of Machine/Billing.lean keep (the relation of Lasts).
-/

namespace Sys2Proof.Machine

set_option linter.all false

open Sys2Proof.Laws

variable {b_ : Bool} {u_ : State}

theorem timeAdjusted_lasts (kind : Nat) (ms : Int) (after seq : Nat) (ack : Bool) {s : State} (h_ : Lasts b_ u_ s) : Lasts b_ u_ (timeAdjusted kind ms after seq ack s) := by
  unfold timeAdjusted
  try dsimp only
  repeat' first | with_reducible assumption | with_reducible apply emit_lasts | with_reducible apply Lasts.foldl | (intro _ _ _) | with_reducible apply Lasts.ite | split | with_reducible apply Lasts.free | (with_reducible apply Lasts.upd <;> first | with_reducible rfl | with_reducible exact fun w => w | with_reducible exact fun _ w => w | with_reducible exact Nat.le_refl _ | skip)
  all_goals first | rfl | exact fun w => w | exact fun _ w => w | exact Nat.le_refl _ | exact Nat.le_succ _ | exact fun _ => rfl | exact fun _ _ => rfl | skip

theorem priceCheck_lasts  {s : State} (h_ : Lasts b_ u_ s) : Lasts b_ u_ (priceCheck s) := by
  unfold priceCheck
  try dsimp only
  repeat' first | with_reducible assumption | with_reducible apply event_lasts | with_reducible apply Lasts.foldl | (intro _ _ _) | with_reducible apply Lasts.ite | split | with_reducible apply Lasts.free | (with_reducible apply Lasts.upd <;> first | with_reducible rfl | with_reducible exact fun w => w | with_reducible exact fun _ w => w | with_reducible exact Nat.le_refl _ | skip)
  all_goals first | rfl | exact fun w => w | exact fun _ w => w | exact Nat.le_refl _ | exact Nat.le_succ _ | exact fun _ => rfl | exact fun _ _ => rfl | skip

theorem takeBoundary_lasts (c : Commit) {s : State} (h_ : Lasts b_ u_ s) : Lasts b_ u_ (takeBoundary c s) := by
  unfold takeBoundary
  try dsimp only
  repeat' first | with_reducible assumption | with_reducible apply Lasts.foldl | (intro _ _ _) | with_reducible apply Lasts.ite | split | with_reducible apply Lasts.free | (with_reducible apply Lasts.upd <;> first | with_reducible rfl | with_reducible exact fun w => w | with_reducible exact fun _ w => w | with_reducible exact Nat.le_refl _ | skip)
  all_goals first | rfl | exact fun w => w | exact fun _ w => w | exact Nat.le_refl _ | exact Nat.le_succ _ | exact fun _ => rfl | exact fun _ _ => rfl | skip

theorem closeWindow_lasts (instant tick : Nat) (cut : Bool) {s : State} (h_ : Lasts b_ u_ s) : Lasts b_ u_ (closeWindow instant tick cut s) := by
  unfold closeWindow
  try dsimp only
  repeat' first | with_reducible assumption | with_reducible apply Lasts.foldl | (intro _ _ _) | with_reducible apply Lasts.ite | split | with_reducible apply Lasts.free | (with_reducible apply Lasts.upd <;> first | with_reducible rfl | with_reducible exact fun w => w | with_reducible exact fun _ w => w | with_reducible exact Nat.le_refl _ | skip)
  all_goals first | rfl | exact fun w => w | exact fun _ w => w | exact Nat.le_refl _ | exact Nat.le_succ _ | exact fun _ => rfl | exact fun _ _ => rfl | skip

theorem judgeMax_lasts (u d w no : Nat) (e : Eval) {s : State} (h_ : Lasts b_ u_ s) : Lasts b_ u_ (judgeMax u d w no e s) := by
  unfold judgeMax
  try dsimp only
  repeat' first | with_reducible assumption | with_reducible apply event_lasts | with_reducible apply Lasts.foldl | (intro _ _ _) | with_reducible apply Lasts.ite | split | with_reducible apply Lasts.free | (with_reducible apply Lasts.upd <;> first | with_reducible rfl | with_reducible exact fun w => w | with_reducible exact fun _ w => w | with_reducible exact Nat.le_refl _ | skip)
  all_goals first | rfl | exact fun w => w | exact fun _ w => w | exact Nat.le_refl _ | exact Nat.le_succ _ | exact fun _ => rfl | exact fun _ _ => rfl | skip

theorem evaluateWindow_lasts (no : Nat) (e : Eval) {s : State} (h_ : Lasts b_ u_ s) : Lasts b_ u_ (evaluateWindow no e s) := by
  unfold evaluateWindow
  try dsimp only
  repeat' first | with_reducible assumption | with_reducible apply judgeMax_lasts | with_reducible apply Lasts.foldl | (intro _ _ _) | with_reducible apply Lasts.ite | split | with_reducible apply Lasts.free | (with_reducible apply Lasts.upd <;> first | with_reducible rfl | with_reducible exact fun w => w | with_reducible exact fun _ w => w | with_reducible exact Nat.le_refl _ | skip)
  all_goals first | rfl | exact fun w => w | exact fun _ w => w | exact Nat.le_refl _ | exact Nat.le_succ _ | exact fun _ => rfl | exact fun _ _ => rfl | skip

theorem evaluateAt_lasts (c : Commit) {s : State} (h_ : Lasts b_ u_ s) : Lasts b_ u_ (evaluateAt c s) := by
  unfold evaluateAt
  try dsimp only
  repeat' first | with_reducible assumption | with_reducible apply evaluateWindow_lasts | with_reducible apply Lasts.foldl | (intro _ _ _) | with_reducible apply Lasts.ite | split | with_reducible apply Lasts.free | (with_reducible apply Lasts.upd <;> first | with_reducible rfl | with_reducible exact fun w => w | with_reducible exact fun _ w => w | with_reducible exact Nat.le_refl _ | skip)
  all_goals first | rfl | exact fun w => w | exact fun _ w => w | exact Nat.le_refl _ | exact Nat.le_succ _ | exact fun _ => rfl | exact fun _ _ => rfl | skip

theorem commitRecord_lasts (c : Commit) {s : State} (h_ : Lasts b_ u_ s) : Lasts b_ u_ (commitRecord c s) := by
  unfold commitRecord
  try dsimp only
  repeat' first | with_reducible assumption | with_reducible apply journalMet_lasts | with_reducible apply Lasts.foldl | (intro _ _ _) | with_reducible apply Lasts.ite | split | with_reducible apply Lasts.free | (with_reducible apply Lasts.upd <;> first | with_reducible rfl | with_reducible exact fun w => w | with_reducible exact fun _ w => w | with_reducible exact Nat.le_refl _ | skip)
  all_goals first | rfl | exact fun w => w | exact fun _ w => w | exact Nat.le_refl _ | exact Nat.le_succ _ | exact fun _ => rfl | exact fun _ _ => rfl | skip

theorem commitStep_lasts (c : Commit) {s : State} (h_ : Lasts b_ u_ s) : Lasts b_ u_ (commitStep c s) := by
  unfold commitStep
  try dsimp only
  repeat' first | with_reducible assumption | with_reducible apply sign_lasts | with_reducible apply timeAdjusted_lasts | with_reducible apply Lasts.foldl | (intro _ _ _) | with_reducible apply Lasts.ite | split | with_reducible apply Lasts.free | (with_reducible apply Lasts.upd <;> first | with_reducible rfl | with_reducible exact fun w => w | with_reducible exact fun _ w => w | with_reducible exact Nat.le_refl _ | skip)
  all_goals first | rfl | exact fun w => w | exact fun _ w => w | exact Nat.le_refl _ | exact Nat.le_succ _ | exact fun _ => rfl | exact fun _ _ => rfl | skip

theorem commitSwitch_lasts (adjusted rebuilt : Bool) (w : TariffChange) {s : State} (h_ : Lasts b_ u_ s) : Lasts b_ u_ (commitSwitch adjusted rebuilt w s) := by
  unfold commitSwitch
  try dsimp only
  repeat' first | with_reducible assumption | with_reducible apply event_lasts | with_reducible apply signSwitch_lasts | with_reducible apply Lasts.foldl | (intro _ _ _) | with_reducible apply Lasts.ite | split | with_reducible apply Lasts.free | (with_reducible apply Lasts.upd <;> first | with_reducible rfl | with_reducible exact fun w => w | with_reducible exact fun _ w => w | with_reducible exact Nat.le_refl _ | skip)
  all_goals first | rfl | exact fun w => w | exact fun _ w => w | exact Nat.le_refl _ | exact Nat.le_succ _ | exact fun _ => rfl | exact fun _ _ => rfl | skip

theorem commitSwitches_lasts (byStep : Bool) (c : Commit) {s : State} (h_ : Lasts b_ u_ s) : Lasts b_ u_ (commitSwitches byStep c s) := by
  unfold commitSwitches
  try dsimp only
  repeat' first | with_reducible assumption | with_reducible apply commitSwitch_lasts | with_reducible apply Lasts.foldl | (intro _ _ _) | with_reducible apply Lasts.ite | split | with_reducible apply Lasts.free | (with_reducible apply Lasts.upd <;> first | with_reducible rfl | with_reducible exact fun w => w | with_reducible exact fun _ w => w | with_reducible exact Nat.le_refl _ | skip)
  all_goals first | rfl | exact fun w => w | exact fun _ w => w | exact Nat.le_refl _ | exact Nat.le_succ _ | exact fun _ => rfl | exact fun _ _ => rfl | skip

theorem commitReset_lasts (c : Commit) {s : State} (h_ : Lasts b_ u_ s) : Lasts b_ u_ (commitReset c s) := by
  unfold commitReset
  try dsimp only
  repeat' first | with_reducible assumption | with_reducible apply signDemandReset_lasts | with_reducible apply emit_lasts | with_reducible apply Lasts.foldl | (intro _ _ _) | with_reducible apply Lasts.ite | split | with_reducible apply Lasts.free | (with_reducible apply Lasts.upd <;> first | with_reducible rfl | with_reducible exact fun w => w | with_reducible exact fun _ w => w | with_reducible exact Nat.le_refl _ | skip)
  all_goals first | rfl | exact fun w => w | exact fun _ w => w | exact Nat.le_refl _ | exact Nat.le_succ _ | exact fun _ => rfl | exact fun _ _ => rfl | skip

theorem commitOne_lasts (c : Commit) {s : State} (h_ : Lasts b_ u_ s) : Lasts b_ u_ (commitOne c s) := by
  unfold commitOne
  try dsimp only
  repeat' first | with_reducible assumption | with_reducible apply commitReset_lasts | with_reducible apply commitSwitches_lasts | with_reducible apply commitStep_lasts | with_reducible apply commitRecord_lasts | with_reducible apply evaluateAt_lasts | with_reducible apply Lasts.foldl | (intro _ _ _) | with_reducible apply Lasts.ite | split | with_reducible apply Lasts.free | (with_reducible apply Lasts.upd <;> first | with_reducible rfl | with_reducible exact fun w => w | with_reducible exact fun _ w => w | with_reducible exact Nat.le_refl _ | skip)
  all_goals first | rfl | exact fun w => w | exact fun _ w => w | exact Nat.le_refl _ | exact Nat.le_succ _ | exact fun _ => rfl | exact fun _ _ => rfl | skip

theorem runCommits_lasts (k : Nat) {s : State} (h_ : Lasts b_ u_ s) : Lasts b_ u_ (runCommits k s) := by
  induction k generalizing s with
  | zero => exact h_
  | succ k ih =>
    unfold runCommits
    split
    · split
      · exact h_
      · exact ih (commitOne_lasts _ h_)
    · exact h_

theorem commits_lasts  {s : State} (h_ : Lasts b_ u_ s) : Lasts b_ u_ (commits s) := by
  unfold commits
  try dsimp only
  repeat' first | with_reducible assumption | with_reducible apply runCommits_lasts | with_reducible apply Lasts.foldl | (intro _ _ _) | with_reducible apply Lasts.ite | split | with_reducible apply Lasts.free | (with_reducible apply Lasts.upd <;> first | with_reducible rfl | with_reducible exact fun w => w | with_reducible exact fun _ w => w | with_reducible exact Nat.le_refl _ | skip)
  all_goals first | rfl | exact fun w => w | exact fun _ w => w | exact Nat.le_refl _ | exact Nat.le_succ _ | exact fun _ => rfl | exact fun _ _ => rfl | skip

theorem windowNow_lasts  {s : State} (h_ : Lasts b_ u_ s) : Lasts b_ u_ (windowNow s) := by
  unfold windowNow
  try dsimp only
  repeat' first | with_reducible assumption | with_reducible apply takeBoundary_lasts | with_reducible apply closeWindow_lasts | with_reducible apply Lasts.foldl | (intro _ _ _) | with_reducible apply Lasts.ite | split | with_reducible apply Lasts.free | (with_reducible apply Lasts.upd <;> first | with_reducible rfl | with_reducible exact fun w => w | with_reducible exact fun _ w => w | with_reducible exact Nat.le_refl _ | skip)
  all_goals first | rfl | exact fun w => w | exact fun _ w => w | exact Nat.le_refl _ | exact Nat.le_succ _ | exact fun _ => rfl | exact fun _ _ => rfl | skip

theorem tariffNow_lasts  {s : State} (h_ : Lasts b_ u_ s) : Lasts b_ u_ (tariffNow s) := by
  unfold tariffNow
  try dsimp only
  repeat' first | with_reducible assumption | with_reducible apply priceCheck_lasts | with_reducible apply takeBoundary_lasts | with_reducible apply Lasts.foldl | (intro _ _ _) | with_reducible apply Lasts.ite | split | with_reducible apply Lasts.free | (with_reducible apply Lasts.upd <;> first | with_reducible rfl | with_reducible exact fun w => w | with_reducible exact fun _ w => w | with_reducible exact Nat.le_refl _ | skip)
  all_goals first | rfl | exact fun w => w | exact fun _ w => w | exact Nat.le_refl _ | exact Nat.le_succ _ | exact fun _ => rfl | exact fun _ _ => rfl | skip

theorem splitAtStep_lasts  {s : State} (h_ : Lasts b_ u_ s) : Lasts b_ u_ (splitAtStep s) := by
  unfold splitAtStep
  try dsimp only
  repeat' first | with_reducible assumption | with_reducible apply closeWindow_lasts | with_reducible apply Lasts.foldl | (intro _ _ _) | with_reducible apply Lasts.ite | split | with_reducible apply Lasts.free | (with_reducible apply Lasts.upd <;> first | with_reducible rfl | with_reducible exact fun w => w | with_reducible exact fun _ w => w | with_reducible exact Nat.le_refl _ | skip)
  all_goals first | rfl | exact fun w => w | exact fun _ w => w | exact Nat.le_refl _ | exact Nat.le_succ _ | exact fun _ => rfl | exact fun _ _ => rfl | skip

theorem stepNow_lasts (d : Int) {s : State} (h_ : Lasts b_ u_ s) : Lasts b_ u_ (stepNow d s) := by
  unfold stepNow
  try dsimp only
  repeat' first | with_reducible assumption | with_reducible apply splitAtStep_lasts | with_reducible apply priceCheck_lasts | with_reducible apply takeBoundary_lasts | with_reducible apply Lasts.foldl | (intro _ _ _) | with_reducible apply Lasts.ite | split | with_reducible apply Lasts.free | (with_reducible apply Lasts.upd <;> first | with_reducible rfl | with_reducible exact fun w => w | with_reducible exact fun _ w => w | with_reducible exact Nat.le_refl _ | skip)
  all_goals first | rfl | exact fun w => w | exact fun _ w => w | exact Nat.le_refl _ | exact Nat.le_succ _ | exact fun _ => rfl | exact fun _ _ => rfl | skip

theorem resetTaken_lasts  {s : State} (h_ : Lasts b_ u_ s) : Lasts b_ u_ (resetTaken s) := by
  unfold resetTaken
  try dsimp only
  repeat' first | with_reducible assumption | with_reducible apply takeBoundary_lasts | with_reducible apply Lasts.foldl | (intro _ _ _) | with_reducible apply Lasts.ite | split | with_reducible apply Lasts.free | (with_reducible apply Lasts.upd <;> first | with_reducible rfl | with_reducible exact fun w => w | with_reducible exact fun _ w => w | with_reducible exact Nat.le_refl _ | skip)
  all_goals first | rfl | exact fun w => w | exact fun _ w => w | exact Nat.le_refl _ | exact Nat.le_succ _ | exact fun _ => rfl | exact fun _ _ => rfl | skip

theorem boundaryNow_lasts  {s : State} (h_ : Lasts b_ u_ s) : Lasts b_ u_ (boundaryNow s) := by
  unfold boundaryNow
  try dsimp only
  repeat' first | with_reducible assumption | with_reducible apply tariffNow_lasts | with_reducible apply windowNow_lasts | with_reducible apply commits_lasts | with_reducible apply resetTaken_lasts | with_reducible apply stepNow_lasts | with_reducible apply Lasts.foldl | (intro _ _ _) | with_reducible apply Lasts.ite | split | with_reducible apply Lasts.free | (with_reducible apply Lasts.upd <;> first | with_reducible rfl | with_reducible exact fun w => w | with_reducible exact fun _ w => w | with_reducible exact Nat.le_refl _ | skip)
  all_goals first | rfl | exact fun w => w | exact fun _ w => w | exact Nat.le_refl _ | exact Nat.le_succ _ | exact fun _ => rfl | exact fun _ _ => rfl | skip

theorem logThresholds_lasts  {s : State} (h_ : Lasts b_ u_ s) : Lasts b_ u_ (logThresholds s) := by
  unfold logThresholds
  try dsimp only
  repeat' first | with_reducible assumption | with_reducible apply event_lasts | with_reducible apply Lasts.foldl | (intro _ _ _) | with_reducible apply Lasts.ite | split | with_reducible apply Lasts.free | (with_reducible apply Lasts.upd <;> first | with_reducible rfl | with_reducible exact fun w => w | with_reducible exact fun _ w => w | with_reducible exact Nat.le_refl _ | skip)
  all_goals first | rfl | exact fun w => w | exact fun _ w => w | exact Nat.le_refl _ | exact Nat.le_succ _ | exact fun _ => rfl | exact fun _ _ => rfl | skip

theorem countInterrupted_lasts (r : Record) {s : State} (h_ : Lasts b_ u_ s) : Lasts b_ u_ (countInterrupted r s) := by
  unfold countInterrupted
  try dsimp only
  repeat' first | with_reducible assumption | with_reducible apply Lasts.foldl | (intro _ _ _) | with_reducible apply Lasts.ite | split | with_reducible apply Lasts.free | (with_reducible apply Lasts.upd <;> first | with_reducible rfl | with_reducible exact fun w => w | with_reducible exact fun _ w => w | with_reducible exact Nat.le_refl _ | skip)
  all_goals first | rfl | exact fun w => w | exact fun _ w => w | exact Nat.le_refl _ | exact Nat.le_succ _ | exact fun _ => rfl | exact fun _ _ => rfl | skip

theorem storeOverflow_lasts (r : Record) {s : State} (h_ : Lasts b_ u_ s) : Lasts b_ u_ (storeOverflow r s) := by
  unfold storeOverflow
  try dsimp only
  repeat' first | with_reducible assumption | with_reducible apply logThresholds_lasts | with_reducible apply witnessRecord_lasts | with_reducible apply journalMet_lasts | with_reducible apply Lasts.foldl | (intro _ _ _) | with_reducible apply Lasts.ite | split | with_reducible apply Lasts.free | (with_reducible apply Lasts.upd <;> first | with_reducible rfl | with_reducible exact fun w => w | with_reducible exact fun _ w => w | with_reducible exact Nat.le_refl _ | skip)
  all_goals first | rfl | exact fun w => w | exact fun _ w => w | exact Nat.le_refl _ | exact Nat.le_succ _ | exact fun _ => rfl | exact fun _ _ => rfl | skip

theorem storeSigned_lasts (q : Record) {s : State} (h_ : Lasts b_ u_ s) : Lasts b_ u_ (storeSigned q s) := by
  unfold storeSigned
  try dsimp only
  repeat' first | with_reducible assumption | with_reducible apply logThresholds_lasts | with_reducible apply witnessRecord_lasts | with_reducible apply countInterrupted_lasts | with_reducible apply Lasts.foldl | (intro _ _ _) | with_reducible apply Lasts.ite | split | with_reducible apply Lasts.free | (with_reducible apply Lasts.upd <;> first | with_reducible rfl | with_reducible exact fun w => w | with_reducible exact fun _ w => w | with_reducible exact Nat.le_refl _ | skip)
  all_goals first | rfl | exact fun w => w | exact fun _ w => w | exact Nat.le_refl _ | exact Nat.le_succ _ | exact fun _ => rfl | exact fun _ _ => rfl | skip

theorem overflowSigned_lasts (q : Record) {s : State} (h_ : Lasts b_ u_ s) : Lasts b_ u_ (overflowSigned q s) := by
  unfold overflowSigned
  try dsimp only
  repeat' first | with_reducible assumption | with_reducible apply logThresholds_lasts | with_reducible apply signedRetire_lasts | with_reducible apply countInterrupted_lasts | with_reducible apply Lasts.foldl | (intro _ _ _) | with_reducible apply Lasts.ite | split | with_reducible apply Lasts.free | (with_reducible apply Lasts.upd <;> first | with_reducible rfl | with_reducible exact fun w => w | with_reducible exact fun _ w => w | with_reducible exact Nat.le_refl _ | skip)
  all_goals first | rfl | exact fun w => w | exact fun _ w => w | exact Nat.le_refl _ | exact Nat.le_succ _ | exact fun _ => rfl | exact fun _ _ => rfl | skip

theorem storeRecord_lasts  {s : State} (h_ : Lasts b_ u_ s) : Lasts b_ u_ (storeRecord s) := by
  unfold storeRecord
  try dsimp only
  repeat' first | with_reducible assumption | with_reducible apply storeOverflow_lasts | with_reducible apply storeSigned_lasts | with_reducible apply overflowSigned_lasts | with_reducible apply Lasts.foldl | (intro _ _ _) | with_reducible apply Lasts.ite | split | with_reducible apply Lasts.free | (with_reducible apply Lasts.upd <;> first | with_reducible rfl | with_reducible exact fun w => w | with_reducible exact fun _ w => w | with_reducible exact Nat.le_refl _ | skip)
  all_goals first | rfl | exact fun w => w | exact fun _ w => w | exact Nat.le_refl _ | exact Nat.le_succ _ | exact fun _ => rfl | exact fun _ _ => rfl | skip

theorem sealModeChange_lasts  {s : State} (h_ : Lasts b_ u_ s) : Lasts b_ u_ (sealModeChange s) := by
  unfold sealModeChange
  try dsimp only
  repeat' first | with_reducible assumption | with_reducible apply enterMode_lasts | with_reducible apply Lasts.foldl | (intro _ _ _) | with_reducible apply Lasts.ite | split | with_reducible apply Lasts.free | (with_reducible apply Lasts.upd <;> first | with_reducible rfl | with_reducible exact fun w => w | with_reducible exact fun _ w => w | with_reducible exact Nat.le_refl _ | skip)
  all_goals first | rfl | exact fun w => w | exact fun _ w => w | exact Nat.le_refl _ | exact Nat.le_succ _ | exact fun _ => rfl | exact fun _ _ => rfl | skip

theorem signSealBroken_lasts (time cause : Nat) {s : State} (h_ : Lasts b_ u_ s) : Lasts b_ u_ (signSealBroken time cause s) := by
  unfold signSealBroken
  try dsimp only
  repeat' first | with_reducible assumption | with_reducible apply sign_lasts | with_reducible apply event_lasts | with_reducible apply Lasts.foldl | (intro _ _ _) | with_reducible apply Lasts.ite | split | with_reducible apply Lasts.free | (with_reducible apply Lasts.upd <;> first | with_reducible rfl | with_reducible exact fun w => w | with_reducible exact fun _ w => w | with_reducible exact Nat.le_refl _ | skip)
  all_goals first | rfl | exact fun w => w | exact fun _ w => w | exact Nat.le_refl _ | exact Nat.le_succ _ | exact fun _ => rfl | exact fun _ _ => rfl | skip

theorem sealBreaks_lasts (cause : Nat) {s : State} (h_ : Lasts b_ u_ s) : Lasts b_ u_ (sealBreaks cause s) := by
  unfold sealBreaks
  try dsimp only
  repeat' first | with_reducible assumption | with_reducible apply sealModeChange_lasts | with_reducible apply signSealBroken_lasts | with_reducible apply Lasts.foldl | (intro _ _ _) | with_reducible apply Lasts.ite | split | with_reducible apply Lasts.free | (with_reducible apply Lasts.upd <;> first | with_reducible rfl | with_reducible exact fun w => w | with_reducible exact fun _ w => w | with_reducible exact Nat.le_refl _ | skip)
  all_goals first | rfl | exact fun w => w | exact fun _ w => w | exact Nat.le_refl _ | exact Nat.le_succ _ | exact fun _ => rfl | exact fun _ _ => rfl | skip

theorem openSeal_lasts  {s : State} (h_ : Lasts b_ u_ s) : Lasts b_ u_ (openSeal s) := by
  unfold openSeal
  try dsimp only
  repeat' first | with_reducible assumption | with_reducible apply sealBreaks_lasts | with_reducible apply Lasts.foldl | (intro _ _ _) | with_reducible apply Lasts.ite | split | with_reducible apply Lasts.free | (with_reducible apply Lasts.upd <;> first | with_reducible rfl | with_reducible exact fun w => w | with_reducible exact fun _ w => w | with_reducible exact Nat.le_refl _ | skip)
  all_goals first | rfl | exact fun w => w | exact fun _ w => w | exact Nat.le_refl _ | exact Nat.le_succ _ | exact fun _ => rfl | exact fun _ _ => rfl | skip

theorem debugAttempt_lasts  {s : State} (h_ : Lasts b_ u_ s) : Lasts b_ u_ (debugAttempt s) := by
  unfold debugAttempt
  try dsimp only
  repeat' first | with_reducible assumption | with_reducible apply sealBreaks_lasts | with_reducible apply Lasts.foldl | (intro _ _ _) | with_reducible apply Lasts.ite | split | with_reducible apply Lasts.free | (with_reducible apply Lasts.upd <;> first | with_reducible rfl | with_reducible exact fun w => w | with_reducible exact fun _ w => w | with_reducible exact Nat.le_refl _ | skip)
  all_goals first | rfl | exact fun w => w | exact fun _ w => w | exact Nat.le_refl _ | exact Nat.le_succ _ | exact fun _ => rfl | exact fun _ _ => rfl | skip

theorem clearSeal_lasts (seq : Nat) {s : State} (hb : b_ = false) (h_ : Lasts b_ u_ s) : Lasts b_ u_ (clearSeal seq s) := by
  unfold clearSeal
  subst hb
  apply Lasts.upd h_ <;> first | rfl | exact fun w => w | exact Nat.le_refl _ | exact fun e => nomatch e

theorem signReseal_lasts  {s : State} (h_ : Lasts b_ u_ s) : Lasts b_ u_ (signReseal s) := by
  unfold signReseal
  try dsimp only
  repeat' first | with_reducible assumption | with_reducible apply sign_lasts | with_reducible apply Lasts.foldl | (intro _ _ _) | with_reducible apply Lasts.ite | split | with_reducible apply Lasts.free | (with_reducible apply Lasts.upd <;> first | with_reducible rfl | with_reducible exact fun w => w | with_reducible exact fun _ w => w | with_reducible exact Nat.le_refl _ | skip)
  all_goals first | rfl | exact fun w => w | exact fun _ w => w | exact Nat.le_refl _ | exact Nat.le_succ _ | exact fun _ => rfl | exact fun _ _ => rfl | skip

theorem billingFrame_lasts  {s : State} (h_ : Lasts b_ u_ s) : Lasts b_ u_ (billingFrame s) := by
  unfold billingFrame
  try dsimp only
  repeat' first | with_reducible assumption | with_reducible apply commits_lasts | with_reducible apply closeSession_lasts | with_reducible apply Lasts.foldl | (intro _ _ _) | with_reducible apply Lasts.ite | split | with_reducible apply Lasts.free | (with_reducible apply Lasts.upd <;> first | with_reducible rfl | with_reducible exact fun w => w | with_reducible exact fun _ w => w | with_reducible exact Nat.le_refl _ | skip)
  all_goals first | rfl | exact fun w => w | exact fun _ w => w | exact Nat.le_refl _ | exact Nat.le_succ _ | exact fun _ => rfl | exact fun _ _ => rfl | skip

end Sys2Proof.Machine
end

