-- ==== Sys2Proof/Laws/LastsEasement.lean ====
section
/-!
SUPPORT. What the operations of Machine/Easement.lean keep (the relation of Lasts).
-/

namespace Sys2Proof.Machine

set_option linter.all false

open Sys2Proof.Laws

variable {b_ : Bool} {u_ : State}

theorem submit_lasts (r : Request) {s : State} (h_ : Lasts b_ u_ s) : Lasts b_ u_ (submit r s) := by
  unfold submit
  try dsimp only
  repeat' first | with_reducible assumption | with_reducible apply Lasts.foldl | (intro _ _ _) | with_reducible apply Lasts.ite | split | with_reducible apply Lasts.free | (with_reducible apply Lasts.upd <;> first | with_reducible rfl | with_reducible exact fun w => w | with_reducible exact fun _ w => w | with_reducible exact Nat.le_refl _ | skip)
  all_goals first | rfl | exact fun w => w | exact fun _ w => w | exact Nat.le_refl _ | exact Nat.le_succ _ | exact fun _ => rfl | exact fun _ _ => rfl | skip

theorem release_lasts (id : Nat) {s : State} (h_ : Lasts b_ u_ s) : Lasts b_ u_ (release id s) := by
  unfold release
  try dsimp only
  repeat' first | with_reducible assumption | with_reducible apply Lasts.foldl | (intro _ _ _) | with_reducible apply Lasts.ite | split | with_reducible apply Lasts.free | (with_reducible apply Lasts.upd <;> first | with_reducible rfl | with_reducible exact fun w => w | with_reducible exact fun _ w => w | with_reducible exact Nat.le_refl _ | skip)
  all_goals first | rfl | exact fun w => w | exact fun _ w => w | exact Nat.le_refl _ | exact Nat.le_succ _ | exact fun _ => rfl | exact fun _ _ => rfl | skip

theorem releaseOpt_lasts (id : Option Nat) {s : State} (h_ : Lasts b_ u_ s) : Lasts b_ u_ (releaseOpt id s) := by
  unfold releaseOpt
  try dsimp only
  repeat' first | with_reducible assumption | with_reducible apply release_lasts | with_reducible apply Lasts.foldl | (intro _ _ _) | with_reducible apply Lasts.ite | split | with_reducible apply Lasts.free | (with_reducible apply Lasts.upd <;> first | with_reducible rfl | with_reducible exact fun w => w | with_reducible exact fun _ w => w | with_reducible exact Nat.le_refl _ | skip)
  all_goals first | rfl | exact fun w => w | exact fun _ w => w | exact Nat.le_refl _ | exact Nat.le_succ _ | exact fun _ => rfl | exact fun _ _ => rfl | skip

theorem leavePeak_lasts (id : Nat) {s : State} (h_ : Lasts b_ u_ s) : Lasts b_ u_ (leavePeak id s) := by
  unfold leavePeak
  try dsimp only
  repeat' first | with_reducible assumption | with_reducible apply Lasts.foldl | (intro _ _ _) | with_reducible apply Lasts.ite | split | with_reducible apply Lasts.free | (with_reducible apply Lasts.upd <;> first | with_reducible rfl | with_reducible exact fun w => w | with_reducible exact fun _ w => w | with_reducible exact Nat.le_refl _ | skip)
  all_goals first | rfl | exact fun w => w | exact fun _ w => w | exact Nat.le_refl _ | exact Nat.le_succ _ | exact fun _ => rfl | exact fun _ _ => rfl | skip

theorem beginOp_lasts (id : Nat) {s : State} (h_ : Lasts b_ u_ s) : Lasts b_ u_ (beginOp id s) := by
  unfold beginOp
  try dsimp only
  repeat' first | with_reducible assumption | with_reducible apply Lasts.foldl | (intro _ _ _) | with_reducible apply Lasts.ite | split | with_reducible apply Lasts.free | (with_reducible apply Lasts.upd <;> first | with_reducible rfl | with_reducible exact fun w => w | with_reducible exact fun _ w => w | with_reducible exact Nat.le_refl _ | skip)
  all_goals first | rfl | exact fun w => w | exact fun _ w => w | exact Nat.le_refl _ | exact Nat.le_succ _ | exact fun _ => rfl | exact fun _ _ => rfl | skip

theorem refused_lasts (r : Request) {s : State} (h_ : Lasts b_ u_ s) : Lasts b_ u_ (refused r s) := by
  unfold refused
  try dsimp only
  repeat' first | with_reducible assumption | with_reducible apply event_lasts | with_reducible apply Lasts.foldl | (intro _ _ _) | with_reducible apply Lasts.ite | split | with_reducible apply Lasts.free | (with_reducible apply Lasts.upd <;> first | with_reducible rfl | with_reducible exact fun w => w | with_reducible exact fun _ w => w | with_reducible exact Nat.le_refl _ | skip)
  all_goals first | rfl | exact fun w => w | exact fun _ w => w | exact Nat.le_refl _ | exact Nat.le_succ _ | exact fun _ => rfl | exact fun _ _ => rfl | skip

theorem revised_lasts (r : Request) (a : Option Nat) {s : State} (h_ : Lasts b_ u_ s) : Lasts b_ u_ (revised r a s) := by
  unfold revised
  try dsimp only
  repeat' first | with_reducible assumption | with_reducible apply event_lasts | with_reducible apply Lasts.foldl | (intro _ _ _) | with_reducible apply Lasts.ite | split | with_reducible apply Lasts.free | (with_reducible apply Lasts.upd <;> first | with_reducible rfl | with_reducible exact fun w => w | with_reducible exact fun _ w => w | with_reducible exact Nat.le_refl _ | skip)
  all_goals first | rfl | exact fun w => w | exact fun _ w => w | exact Nat.le_refl _ | exact Nat.le_succ _ | exact fun _ => rfl | exact fun _ _ => rfl | skip

end Sys2Proof.Machine
end

