-- ==== Sys2Proof/Laws/LastsStorage.lean ====
section
/-!
SUPPORT. What the operations of Machine/Storage.lean keep (the relation of Lasts).
-/

namespace Sys2Proof.Machine

set_option linter.all false

open Sys2Proof.Laws

variable {b_ : Bool} {u_ : State}

theorem updStore_lasts (f : Storage → Storage) {s : State} (h_ : Lasts b_ u_ s) : Lasts b_ u_ (updStore f s) := by
  unfold updStore
  try dsimp only
  repeat' first | with_reducible assumption | with_reducible apply Lasts.foldl | (intro _ _ _) | with_reducible apply Lasts.ite | split | with_reducible apply Lasts.free | (with_reducible apply Lasts.upd <;> first | with_reducible rfl | with_reducible exact fun w => w | with_reducible exact fun _ w => w | with_reducible exact Nat.le_refl _ | skip)
  all_goals first | rfl | exact fun w => w | exact fun _ w => w | exact Nat.le_refl _ | exact Nat.le_succ _ | exact fun _ => rfl | exact fun _ _ => rfl | skip

theorem storageFault_lasts (kind part block : Nat) {s : State} (h_ : Lasts b_ u_ s) : Lasts b_ u_ (storageFault kind part block s) := by
  unfold storageFault
  try dsimp only
  repeat' first | with_reducible assumption | with_reducible apply event_lasts | with_reducible apply Lasts.foldl | (intro _ _ _) | with_reducible apply Lasts.ite | split | with_reducible apply Lasts.free | (with_reducible apply Lasts.upd <;> first | with_reducible rfl | with_reducible exact fun w => w | with_reducible exact fun _ w => w | with_reducible exact Nat.le_refl _ | skip)
  all_goals first | rfl | exact fun w => w | exact fun _ w => w | exact Nat.le_refl _ | exact Nat.le_succ _ | exact fun _ => rfl | exact fun _ _ => rfl | skip

theorem takeSpare_lasts  {s : State} (h_ : Lasts b_ u_ s) : Lasts b_ u_ (takeSpare s) := by
  unfold takeSpare
  try dsimp only
  repeat' first | with_reducible assumption | with_reducible apply updStore_lasts | with_reducible apply storageFault_lasts | with_reducible apply Lasts.foldl | (intro _ _ _) | with_reducible apply Lasts.ite | split | with_reducible apply Lasts.free | (with_reducible apply Lasts.upd <;> first | with_reducible rfl | with_reducible exact fun w => w | with_reducible exact fun _ w => w | with_reducible exact Nat.le_refl _ | skip)
  all_goals first | rfl | exact fun w => w | exact fun _ w => w | exact Nat.le_refl _ | exact Nat.le_succ _ | exact fun _ => rfl | exact fun _ _ => rfl | skip

theorem segmentLost_lasts (seg : Nat) {s : State} (h_ : Lasts b_ u_ s) : Lasts b_ u_ (segmentLost seg s) := by
  unfold segmentLost
  try dsimp only
  repeat' first | with_reducible assumption | with_reducible apply updStore_lasts | with_reducible apply storageFault_lasts | with_reducible apply Lasts.foldl | (intro _ _ _) | with_reducible apply Lasts.ite | split | with_reducible apply Lasts.free | (with_reducible apply Lasts.upd <;> first | with_reducible rfl | with_reducible exact fun w => w | with_reducible exact fun _ w => w | with_reducible exact Nat.le_refl _ | skip)
  all_goals first | rfl | exact fun w => w | exact fun _ w => w | exact Nat.le_refl _ | exact Nat.le_succ _ | exact fun _ => rfl | exact fun _ _ => rfl | skip

theorem retireBlock_lasts (part block : Nat) {s : State} (h_ : Lasts b_ u_ s) : Lasts b_ u_ (retireBlock part block s) := by
  unfold retireBlock
  try dsimp only
  repeat' first | with_reducible assumption | with_reducible apply storageFault_lasts | with_reducible apply updStore_lasts | with_reducible apply takeSpare_lasts | with_reducible apply segmentLost_lasts | with_reducible apply Lasts.foldl | (intro _ _ _) | with_reducible apply Lasts.ite | split | with_reducible apply Lasts.free | (with_reducible apply Lasts.upd <;> first | with_reducible rfl | with_reducible exact fun w => w | with_reducible exact fun _ w => w | with_reducible exact Nat.le_refl _ | skip)
  all_goals first | rfl | exact fun w => w | exact fun _ w => w | exact Nat.le_refl _ | exact Nat.le_succ _ | exact fun _ => rfl | exact fun _ _ => rfl | skip

theorem askErase_lasts (e : Erase) {s : State} (h_ : Lasts b_ u_ s) : Lasts b_ u_ (askErase e s) := by
  unfold askErase
  try dsimp only
  repeat' first | with_reducible assumption | with_reducible apply updStore_lasts | with_reducible apply submit_lasts | with_reducible apply Lasts.foldl | (intro _ _ _) | with_reducible apply Lasts.ite | split | with_reducible apply Lasts.free | (with_reducible apply Lasts.upd <;> first | with_reducible rfl | with_reducible exact fun w => w | with_reducible exact fun _ w => w | with_reducible exact Nat.le_refl _ | skip)
  all_goals first | rfl | exact fun w => w | exact fun _ w => w | exact Nat.le_refl _ | exact Nat.le_succ _ | exact fun _ => rfl | exact fun _ _ => rfl | skip

theorem askGroup_lasts (what part k : Nat) {s : State} (h_ : Lasts b_ u_ s) : Lasts b_ u_ (askGroup what part k s) := by
  unfold askGroup
  try dsimp only
  repeat' first | with_reducible assumption | with_reducible apply askErase_lasts | with_reducible apply Lasts.foldl | (intro _ _ _) | with_reducible apply Lasts.ite | split | with_reducible apply Lasts.free | (with_reducible apply Lasts.upd <;> first | with_reducible rfl | with_reducible exact fun w => w | with_reducible exact fun _ w => w | with_reducible exact Nat.le_refl _ | skip)
  all_goals first | rfl | exact fun w => w | exact fun _ w => w | exact Nat.le_refl _ | exact Nat.le_succ _ | exact fun _ => rfl | exact fun _ _ => rfl | skip

theorem eraseDone_lasts (e : Erase) {s : State} (h_ : Lasts b_ u_ s) : Lasts b_ u_ (eraseDone e s) := by
  unfold eraseDone
  try dsimp only
  repeat' first | with_reducible assumption | with_reducible apply releaseOpt_lasts | with_reducible apply updStore_lasts | with_reducible apply askGroup_lasts | with_reducible apply Lasts.foldl | (intro _ _ _) | with_reducible apply Lasts.ite | split | with_reducible apply Lasts.free | (with_reducible apply Lasts.upd <;> first | with_reducible rfl | with_reducible exact fun w => w | with_reducible exact fun _ w => w | with_reducible exact Nat.le_refl _ | skip)
  all_goals first | rfl | exact fun w => w | exact fun _ w => w | exact Nat.le_refl _ | exact Nat.le_succ _ | exact fun _ => rfl | exact fun _ _ => rfl | skip

theorem eraseGranted_lasts (id : Nat) {s : State} (h_ : Lasts b_ u_ s) : Lasts b_ u_ (eraseGranted id s) := by
  unfold eraseGranted
  try dsimp only
  repeat' first | with_reducible assumption | with_reducible apply updStore_lasts | with_reducible apply beginOp_lasts | with_reducible apply release_lasts | with_reducible apply Lasts.foldl | (intro _ _ _) | with_reducible apply Lasts.ite | split | with_reducible apply Lasts.free | (with_reducible apply Lasts.upd <;> first | with_reducible rfl | with_reducible exact fun w => w | with_reducible exact fun _ w => w | with_reducible exact Nat.le_refl _ | skip)
  all_goals first | rfl | exact fun w => w | exact fun _ w => w | exact Nat.le_refl _ | exact Nat.le_succ _ | exact fun _ => rfl | exact fun _ _ => rfl | skip

theorem eraseRefused_lasts (id : Nat) {s : State} (h_ : Lasts b_ u_ s) : Lasts b_ u_ (eraseRefused id s) := by
  unfold eraseRefused
  try dsimp only
  repeat' first | with_reducible assumption | with_reducible apply updStore_lasts | with_reducible apply Lasts.foldl | (intro _ _ _) | with_reducible apply Lasts.ite | split | with_reducible apply Lasts.free | (with_reducible apply Lasts.upd <;> first | with_reducible rfl | with_reducible exact fun w => w | with_reducible exact fun _ w => w | with_reducible exact Nat.le_refl _ | skip)
  all_goals first | rfl | exact fun w => w | exact fun _ w => w | exact Nat.le_refl _ | exact Nat.le_succ _ | exact fun _ => rfl | exact fun _ _ => rfl | skip

theorem dropErases_lasts (what : Nat) {s : State} (h_ : Lasts b_ u_ s) : Lasts b_ u_ (dropErases what s) := by
  unfold dropErases
  try dsimp only
  repeat' first | with_reducible assumption | with_reducible apply updStore_lasts | with_reducible apply releaseOpt_lasts | with_reducible apply Lasts.foldl | (intro _ _ _) | with_reducible apply Lasts.ite | split | with_reducible apply Lasts.free | (with_reducible apply Lasts.upd <;> first | with_reducible rfl | with_reducible exact fun w => w | with_reducible exact fun _ w => w | with_reducible exact Nat.le_refl _ | skip)
  all_goals first | rfl | exact fun w => w | exact fun _ w => w | exact Nat.le_refl _ | exact Nat.le_succ _ | exact fun _ => rfl | exact fun _ _ => rfl | skip

theorem storageFrame_lasts  {s : State} (h_ : Lasts b_ u_ s) : Lasts b_ u_ (storageFrame s) := by
  unfold storageFrame
  try dsimp only
  repeat' first | with_reducible assumption | with_reducible apply eraseDone_lasts | with_reducible apply askErase_lasts | with_reducible apply updStore_lasts | with_reducible apply Lasts.foldl | (intro _ _ _) | with_reducible apply Lasts.ite | split | with_reducible apply Lasts.free | (with_reducible apply Lasts.upd <;> first | with_reducible rfl | with_reducible exact fun w => w | with_reducible exact fun _ w => w | with_reducible exact Nat.le_refl _ | skip)
  all_goals first | rfl | exact fun w => w | exact fun _ w => w | exact Nat.le_refl _ | exact Nat.le_succ _ | exact fun _ => rfl | exact fun _ _ => rfl | skip

theorem updReclaim_lasts (f : Reclaim → Reclaim) {s : State} (h_ : Lasts b_ u_ s) : Lasts b_ u_ (updReclaim f s) := by
  unfold updReclaim
  try dsimp only
  repeat' first | with_reducible assumption | with_reducible apply updStore_lasts | with_reducible apply Lasts.foldl | (intro _ _ _) | with_reducible apply Lasts.ite | split | with_reducible apply Lasts.free | (with_reducible apply Lasts.upd <;> first | with_reducible rfl | with_reducible exact fun w => w | with_reducible exact fun _ w => w | with_reducible exact Nat.le_refl _ | skip)
  all_goals first | rfl | exact fun w => w | exact fun _ w => w | exact Nat.le_refl _ | exact Nat.le_succ _ | exact fun _ => rfl | exact fun _ _ => rfl | skip

theorem reclaimMap_lasts (r : Reclaim) {s : State} (h_ : Lasts b_ u_ s) : Lasts b_ u_ (reclaimMap r s) := by
  unfold reclaimMap
  try dsimp only
  repeat' first | with_reducible assumption | with_reducible apply journalNew_lasts | with_reducible apply updStore_lasts | with_reducible apply Lasts.foldl | (intro _ _ _) | with_reducible apply Lasts.ite | split | with_reducible apply Lasts.free | (with_reducible apply Lasts.upd <;> first | with_reducible rfl | with_reducible exact fun w => w | with_reducible exact fun _ w => w | with_reducible exact Nat.le_refl _ | skip)
  all_goals first | rfl | exact fun w => w | exact fun _ w => w | exact Nat.le_refl _ | exact Nat.le_succ _ | exact fun _ => rfl | exact fun _ _ => rfl | skip

theorem reclaimOver_lasts (r : Reclaim) {s : State} (h_ : Lasts b_ u_ s) : Lasts b_ u_ (reclaimOver r s) := by
  unfold reclaimOver
  try dsimp only
  repeat' first | with_reducible assumption | with_reducible apply appRetire_lasts | with_reducible apply journalApp_lasts | with_reducible apply Lasts.foldl | (intro _ _ _) | with_reducible apply Lasts.ite | split | with_reducible apply Lasts.free | (with_reducible apply Lasts.upd <;> first | with_reducible rfl | with_reducible exact fun w => w | with_reducible exact fun _ w => w | with_reducible exact Nat.le_refl _ | skip)
  all_goals first | rfl | exact fun w => w | exact fun _ w => w | exact Nat.le_refl _ | exact Nat.le_succ _ | exact fun _ => rfl | exact fun _ _ => rfl | skip

theorem reclaimRefill_lasts (r : Reclaim) {s : State} (h_ : Lasts b_ u_ s) : Lasts b_ u_ (reclaimRefill r s) := by
  unfold reclaimRefill
  try dsimp only
  repeat' first | with_reducible assumption | with_reducible apply retireBlock_lasts | with_reducible apply askErase_lasts | with_reducible apply updReclaim_lasts | with_reducible apply appRetire_lasts | with_reducible apply updStore_lasts | with_reducible apply Lasts.foldl | (intro _ _ _) | with_reducible apply Lasts.ite | split | with_reducible apply Lasts.free | (with_reducible apply Lasts.upd <;> first | with_reducible rfl | with_reducible exact fun w => w | with_reducible exact fun _ w => w | with_reducible exact Nat.le_refl _ | skip)
  all_goals first | rfl | exact fun w => w | exact fun _ w => w | exact Nat.le_refl _ | exact Nat.le_succ _ | exact fun _ => rfl | exact fun _ _ => rfl | skip

theorem reclaimStep_lasts (r : Reclaim) (ok : Bool) {s : State} (h_ : Lasts b_ u_ s) : Lasts b_ u_ (reclaimStep r ok s) := by
  unfold reclaimStep
  try dsimp only
  repeat' first | with_reducible assumption | with_reducible apply updReclaim_lasts | with_reducible apply reclaimRefill_lasts | with_reducible apply reclaimMap_lasts | with_reducible apply askErase_lasts | with_reducible apply retireBlock_lasts | with_reducible apply reclaimOver_lasts | with_reducible apply updStore_lasts | with_reducible apply Lasts.foldl | (intro _ _ _) | with_reducible apply Lasts.ite | split | with_reducible apply Lasts.free | (with_reducible apply Lasts.upd <;> first | with_reducible rfl | with_reducible exact fun w => w | with_reducible exact fun _ w => w | with_reducible exact Nat.le_refl _ | skip)
  all_goals first | rfl | exact fun w => w | exact fun _ w => w | exact Nat.le_refl _ | exact Nat.le_succ _ | exact fun _ => rfl | exact fun _ _ => rfl | skip

theorem reclaimResume_lasts  {s : State} (h_ : Lasts b_ u_ s) : Lasts b_ u_ (reclaimResume s) := by
  unfold reclaimResume
  try dsimp only
  repeat' first | with_reducible assumption | with_reducible apply askErase_lasts | with_reducible apply updReclaim_lasts | with_reducible apply reclaimStep_lasts | with_reducible apply Lasts.foldl | (intro _ _ _) | with_reducible apply Lasts.ite | split | with_reducible apply Lasts.free | (with_reducible apply Lasts.upd <;> first | with_reducible rfl | with_reducible exact fun w => w | with_reducible exact fun _ w => w | with_reducible exact Nat.le_refl _ | skip)
  all_goals first | rfl | exact fun w => w | exact fun _ w => w | exact Nat.le_refl _ | exact Nat.le_succ _ | exact fun _ => rfl | exact fun _ _ => rfl | skip

theorem applySettings_lasts (x : Settings) {s : State} (h_ : Lasts b_ u_ s) : Lasts b_ u_ (applySettings x s) := by
  unfold applySettings
  try dsimp only
  repeat' first | with_reducible assumption | with_reducible apply Lasts.foldl | (intro _ _ _) | with_reducible apply Lasts.ite | split | with_reducible apply Lasts.free | (with_reducible apply Lasts.upd <;> first | with_reducible rfl | with_reducible exact fun w => w | with_reducible exact fun _ w => w | with_reducible exact Nat.le_refl _ | skip)
  all_goals first | rfl | exact fun w => w | exact fun _ w => w | exact Nat.le_refl _ | exact Nat.le_succ _ | exact fun _ => rfl | exact fun _ _ => rfl | skip

theorem migrateSettings_lasts  {s : State} (h_ : Lasts b_ u_ s) : Lasts b_ u_ (migrateSettings s) := by
  unfold migrateSettings
  try dsimp only
  repeat' first | with_reducible assumption | with_reducible apply applySettings_lasts | with_reducible apply journalUpdate_lasts | with_reducible apply updStore_lasts | with_reducible apply Lasts.foldl | (intro _ _ _) | with_reducible apply Lasts.ite | split | with_reducible apply Lasts.free | (with_reducible apply Lasts.upd <;> first | with_reducible rfl | with_reducible exact fun w => w | with_reducible exact fun _ w => w | with_reducible exact Nat.le_refl _ | skip)
  all_goals first | rfl | exact fun w => w | exact fun _ w => w | exact Nat.le_refl _ | exact Nat.le_succ _ | exact fun _ => rfl | exact fun _ _ => rfl | skip

theorem fallBack_lasts (cause : Nat) {s : State} (h_ : Lasts b_ u_ s) : Lasts b_ u_ (fallBack cause s) := by
  unfold fallBack
  try dsimp only
  repeat' first | with_reducible assumption | with_reducible apply applySettings_lasts | with_reducible apply updStore_lasts | with_reducible apply journalUpdate_lasts | with_reducible apply Lasts.foldl | (intro _ _ _) | with_reducible apply Lasts.ite | split | with_reducible apply Lasts.free | (with_reducible apply Lasts.upd <;> first | with_reducible rfl | with_reducible exact fun w => w | with_reducible exact fun _ w => w | with_reducible exact Nat.le_refl _ | skip)
  all_goals first | rfl | exact fun w => w | exact fun _ w => w | exact Nat.le_refl _ | exact Nat.le_succ _ | exact fun _ => rfl | exact fun _ _ => rfl | skip

theorem bootImage_lasts (rom : Bool) {s : State} (h_ : Lasts b_ u_ s) : Lasts b_ u_ (bootImage rom s).1 := by
  unfold bootImage
  try dsimp only
  repeat' first | with_reducible exact h_ | split | with_reducible apply fallBack_lasts | with_reducible apply journalUpdate_lasts | with_reducible apply updStore_lasts | with_reducible apply migrateSettings_lasts

theorem abandonActivation_lasts  {s : State} (h_ : Lasts b_ u_ s) : Lasts b_ u_ (abandonActivation s) := by
  unfold abandonActivation
  try dsimp only
  repeat' first | with_reducible assumption | with_reducible apply dropErases_lasts | with_reducible apply Lasts.foldl | (intro _ _ _) | with_reducible apply Lasts.ite | split | with_reducible apply Lasts.free | (with_reducible apply Lasts.upd <;> first | with_reducible rfl | with_reducible exact fun w => w | with_reducible exact fun _ w => w | with_reducible exact Nat.le_refl _ | skip)
  all_goals first | rfl | exact fun w => w | exact fun _ w => w | exact Nat.le_refl _ | exact Nat.le_succ _ | exact fun _ => rfl | exact fun _ _ => rfl | skip

theorem updateDone_lasts (result : Nat) {s : State} (h_ : Lasts b_ u_ s) : Lasts b_ u_ (updateDone result s) := by
  unfold updateDone
  try dsimp only
  repeat' first | with_reducible assumption | with_reducible apply event_lasts | with_reducible apply Lasts.foldl | (intro _ _ _) | with_reducible apply Lasts.ite | split | with_reducible apply Lasts.free | (with_reducible apply Lasts.upd <;> first | with_reducible rfl | with_reducible exact fun w => w | with_reducible exact fun _ w => w | with_reducible exact Nat.le_refl _ | skip)
  all_goals first | rfl | exact fun w => w | exact fun _ w => w | exact Nat.le_refl _ | exact Nat.le_succ _ | exact fun _ => rfl | exact fun _ _ => rfl | skip

theorem commitTrial_lasts  {s : State} (h_ : Lasts b_ u_ s) : Lasts b_ u_ (commitTrial s) := by
  unfold commitTrial
  try dsimp only
  repeat' first | with_reducible assumption | with_reducible apply journalUpdate_lasts | with_reducible apply updStore_lasts | with_reducible apply Lasts.foldl | (intro _ _ _) | with_reducible apply Lasts.ite | split | with_reducible apply Lasts.free | (with_reducible apply Lasts.upd <;> first | with_reducible rfl | with_reducible exact fun w => w | with_reducible exact fun _ w => w | with_reducible exact Nat.le_refl _ | skip)
  all_goals first | rfl | exact fun w => w | exact fun _ w => w | exact Nat.le_refl _ | exact Nat.le_succ _ | exact fun _ => rfl | exact fun _ _ => rfl | skip

theorem storageReady_lasts  {s : State} (h_ : Lasts b_ u_ s) : Lasts b_ u_ (storageReady s) := by
  unfold storageReady
  try dsimp only
  repeat' first | with_reducible assumption | with_reducible apply event_lasts | with_reducible apply updStore_lasts | with_reducible apply updateDone_lasts | with_reducible apply Lasts.foldl | (intro _ _ _) | with_reducible apply Lasts.ite | split | with_reducible apply Lasts.free | (with_reducible apply Lasts.upd <;> first | with_reducible rfl | with_reducible exact fun w => w | with_reducible exact fun _ w => w | with_reducible exact Nat.le_refl _ | skip)
  all_goals first | rfl | exact fun w => w | exact fun _ w => w | exact Nat.le_refl _ | exact Nat.le_succ _ | exact fun _ => rfl | exact fun _ _ => rfl | skip

theorem storageReset_lasts  {s : State} (h_ : Lasts b_ u_ s) : Lasts b_ u_ (storageReset s) := by
  unfold storageReset
  try dsimp only
  repeat' first | with_reducible assumption | with_reducible apply updStore_lasts | with_reducible apply abandonActivation_lasts | with_reducible apply Lasts.foldl | (intro _ _ _) | with_reducible apply Lasts.ite | split | with_reducible apply Lasts.free | (with_reducible apply Lasts.upd <;> first | with_reducible rfl | with_reducible exact fun w => w | with_reducible exact fun _ w => w | with_reducible exact Nat.le_refl _ | skip)
  all_goals first | rfl | exact fun w => w | exact fun _ w => w | exact Nat.le_refl _ | exact Nat.le_succ _ | exact fun _ => rfl | exact fun _ _ => rfl | skip

end Sys2Proof.Machine
end

