-- ==== Sys2Proof/Laws/LastsTraverse.lean ====
section
/-!
SUPPORT. What the operations of Machine/Traverse.lean keep (the relation of Lasts).
-/

namespace Sys2Proof.Machine

set_option linter.all false

open Sys2Proof.Laws

variable {b_ : Bool} {u_ : State}

theorem updNgh_lasts (n : Nat) (f : Neigh → Neigh) {s : State} (h_ : Lasts b_ u_ s) : Lasts b_ u_ (updNgh n f s) := by
  unfold updNgh
  try dsimp only
  repeat' first | with_reducible assumption | with_reducible apply Lasts.foldl | (intro _ _ _) | with_reducible apply Lasts.ite | split | with_reducible apply Lasts.free | (with_reducible apply Lasts.upd <;> first | with_reducible rfl | with_reducible exact fun w => w | with_reducible exact fun _ w => w | with_reducible exact Nat.le_refl _ | skip)
  all_goals first | rfl | exact fun w => w | exact fun _ w => w | exact Nat.le_refl _ | exact Nat.le_succ _ | exact fun _ => rfl | exact fun _ _ => rfl | skip

theorem setRoute_lasts (d : Nat) (r : Option (Nat × Nat × Nat)) {s : State} (h_ : Lasts b_ u_ s) : Lasts b_ u_ (setRoute d r s) := by
  unfold setRoute
  try dsimp only
  repeat' first | with_reducible assumption | with_reducible apply event_lasts | with_reducible apply Lasts.foldl | (intro _ _ _) | with_reducible apply Lasts.ite | split | with_reducible apply Lasts.free | (with_reducible apply Lasts.upd <;> first | with_reducible rfl | with_reducible exact fun w => w | with_reducible exact fun _ w => w | with_reducible exact Nat.le_refl _ | skip)
  all_goals first | rfl | exact fun w => w | exact fun _ w => w | exact Nat.le_refl _ | exact Nat.le_succ _ | exact fun _ => rfl | exact fun _ _ => rfl | skip

theorem updateParent_lasts  {s : State} (h_ : Lasts b_ u_ s) : Lasts b_ u_ (updateParent s) := by
  unfold updateParent
  try dsimp only
  repeat' first | with_reducible assumption | with_reducible apply Lasts.foldl | (intro _ _ _) | with_reducible apply Lasts.ite | split | with_reducible apply Lasts.free | (with_reducible apply Lasts.upd <;> first | with_reducible rfl | with_reducible exact fun w => w | with_reducible exact fun _ w => w | with_reducible exact Nat.le_refl _ | skip)
  all_goals first | rfl | exact fun w => w | exact fun _ w => w | exact Nat.le_refl _ | exact Nat.le_succ _ | exact fun _ => rfl | exact fun _ _ => rfl | skip

theorem neighbourLost_lasts (n : Nat) {s : State} (h_ : Lasts b_ u_ s) : Lasts b_ u_ (neighbourLost n s) := by
  unfold neighbourLost
  try dsimp only
  repeat' first | with_reducible assumption | with_reducible apply updNgh_lasts | with_reducible apply updateParent_lasts | with_reducible apply setRoute_lasts | with_reducible apply Lasts.foldl | (intro _ _ _) | with_reducible apply Lasts.ite | split | with_reducible apply Lasts.free | (with_reducible apply Lasts.upd <;> first | with_reducible rfl | with_reducible exact fun w => w | with_reducible exact fun _ w => w | with_reducible exact Nat.le_refl _ | skip)
  all_goals first | rfl | exact fun w => w | exact fun _ w => w | exact Nat.le_refl _ | exact Nat.le_succ _ | exact fun _ => rfl | exact fun _ _ => rfl | skip

theorem recompute_lasts  {s : State} (h_ : Lasts b_ u_ s) : Lasts b_ u_ (recompute s) := by
  unfold recompute
  try dsimp only
  repeat' first | with_reducible assumption | with_reducible apply neighbourLost_lasts | with_reducible apply updateParent_lasts | with_reducible apply setRoute_lasts | with_reducible apply Lasts.foldl | (intro _ _ _) | with_reducible apply Lasts.ite | split | with_reducible apply Lasts.free | (with_reducible apply Lasts.upd <;> first | with_reducible rfl | with_reducible exact fun w => w | with_reducible exact fun _ w => w | with_reducible exact Nat.le_refl _ | skip)
  all_goals first | rfl | exact fun w => w | exact fun _ w => w | exact Nat.le_refl _ | exact Nat.le_succ _ | exact fun _ => rfl | exact fun _ _ => rfl | skip

theorem takeCounter_lasts {s : State} (h_ : Lasts b_ u_ s) : Lasts b_ u_ (takeCounter s).2 := by
  unfold takeCounter
  apply Lasts.upd h_ <;> first | rfl | exact fun w => w | exact Nat.le_refl _ | exact fun _ w => w

theorem counterResume_lasts  {s : State} (h_ : Lasts b_ u_ s) : Lasts b_ u_ (counterResume s) := by
  unfold counterResume
  try dsimp only
  repeat' first | with_reducible assumption | with_reducible apply Lasts.foldl | (intro _ _ _) | with_reducible apply Lasts.ite | split | with_reducible apply Lasts.free | (with_reducible apply Lasts.upd <;> first | with_reducible rfl | with_reducible exact fun w => w | with_reducible exact fun _ w => w | with_reducible exact Nat.le_refl _ | skip)
  all_goals first | rfl | exact fun w => w | exact fun _ w => w | exact Nat.le_refl _ | exact Nat.le_succ _ | exact fun _ => rfl | exact fun _ _ => rfl | skip

theorem ownPacket_lasts (service final : Nat) (flags : Byte) (payload : List Byte) (cls : Nat) {s : State} (h_ : Lasts b_ u_ s) :
    Lasts b_ u_ (ownPacket service final flags payload cls s).2 := takeCounter_lasts h_

theorem queueOwn_lasts (k : TrvPkt) {s : State} (h_ : Lasts b_ u_ s) : Lasts b_ u_ (queueOwn k s) := by
  unfold queueOwn
  try dsimp only
  repeat' first | with_reducible assumption | with_reducible apply Lasts.foldl | (intro _ _ _) | with_reducible apply Lasts.ite | split | with_reducible apply Lasts.free | (with_reducible apply Lasts.upd <;> first | with_reducible rfl | with_reducible exact fun w => w | with_reducible exact fun _ w => w | with_reducible exact Nat.le_refl _ | skip)
  all_goals first | rfl | exact fun w => w | exact fun _ w => w | exact Nat.le_refl _ | exact Nat.le_succ _ | exact fun _ => rfl | exact fun _ _ => rfl | skip

theorem trvSent_lasts (counter result : Nat) {s : State} (h_ : Lasts b_ u_ s) : Lasts b_ u_ (trvSent counter result s) := by
  unfold trvSent
  try dsimp only
  repeat' first | with_reducible assumption | with_reducible apply emit_lasts | with_reducible apply Lasts.foldl | (intro _ _ _) | with_reducible apply Lasts.ite | split | with_reducible apply Lasts.free | (with_reducible apply Lasts.upd <;> first | with_reducible rfl | with_reducible exact fun w => w | with_reducible exact fun _ w => w | with_reducible exact Nat.le_refl _ | skip)
  all_goals first | rfl | exact fun w => w | exact fun _ w => w | exact Nat.le_refl _ | exact Nat.le_succ _ | exact fun _ => rfl | exact fun _ _ => rfl | skip

theorem trvSilent_lasts  {s : State} (h_ : Lasts b_ u_ s) : Lasts b_ u_ (trvSilent s) := by
  unfold trvSilent
  try dsimp only
  repeat' first | with_reducible assumption | with_reducible apply trvSent_lasts | with_reducible apply Lasts.foldl | (intro _ _ _) | with_reducible apply Lasts.ite | split | with_reducible apply Lasts.free | (with_reducible apply Lasts.upd <;> first | with_reducible rfl | with_reducible exact fun w => w | with_reducible exact fun _ w => w | with_reducible exact Nat.le_refl _ | skip)
  all_goals first | rfl | exact fun w => w | exact fun _ w => w | exact Nat.le_refl _ | exact Nat.le_succ _ | exact fun _ => rfl | exact fun _ _ => rfl | skip

theorem dropPacket_lasts (k : TrvPkt) (result : Nat) {s : State} (h_ : Lasts b_ u_ s) : Lasts b_ u_ (dropPacket k result s) := by
  unfold dropPacket
  try dsimp only
  repeat' first | with_reducible assumption | with_reducible apply trvSent_lasts | with_reducible apply Lasts.foldl | (intro _ _ _) | with_reducible apply Lasts.ite | split | with_reducible apply Lasts.free | (with_reducible apply Lasts.upd <;> first | with_reducible rfl | with_reducible exact fun w => w | with_reducible exact fun _ w => w | with_reducible exact Nat.le_refl _ | skip)
  all_goals first | rfl | exact fun w => w | exact fun _ w => w | exact Nat.le_refl _ | exact Nat.le_succ _ | exact fun _ => rfl | exact fun _ _ => rfl | skip

theorem forwardPacket_lasts (k : TrvPkt) {s : State} (h_ : Lasts b_ u_ s) : Lasts b_ u_ (forwardPacket k s) := by
  unfold forwardPacket
  try dsimp only
  repeat' first | with_reducible assumption | with_reducible apply Lasts.foldl | (intro _ _ _) | with_reducible apply Lasts.ite | split | with_reducible apply Lasts.free | (with_reducible apply Lasts.upd <;> first | with_reducible rfl | with_reducible exact fun w => w | with_reducible exact fun _ w => w | with_reducible exact Nat.le_refl _ | skip)
  all_goals first | rfl | exact fun w => w | exact fun _ w => w | exact Nat.le_refl _ | exact Nat.le_succ _ | exact fun _ => rfl | exact fun _ _ => rfl | skip

theorem trvSecurity_lasts (kind origin : Nat) {s : State} (h_ : Lasts b_ u_ s) : Lasts b_ u_ (trvSecurity kind origin s) := by
  unfold trvSecurity
  try dsimp only
  repeat' first | with_reducible assumption | with_reducible apply event_lasts | with_reducible apply Lasts.foldl | (intro _ _ _) | with_reducible apply Lasts.ite | split | with_reducible apply Lasts.free | (with_reducible apply Lasts.upd <;> first | with_reducible rfl | with_reducible exact fun w => w | with_reducible exact fun _ w => w | with_reducible exact Nat.le_refl _ | skip)
  all_goals first | rfl | exact fun w => w | exact fun _ w => w | exact Nat.le_refl _ | exact Nat.le_succ _ | exact fun _ => rfl | exact fun _ _ => rfl | skip

theorem screenPacket_lasts (k : TrvPkt) (micOk : Bool) {s : State} (h_ : Lasts b_ u_ s) :
    Lasts b_ u_ (screenPacket k micOk s).2 := by
  unfold screenPacket
  try dsimp only
  repeat' first | with_reducible exact h_ | split | with_reducible apply trvSecurity_lasts | with_reducible apply Lasts.upd
  all_goals first | with_reducible rfl | with_reducible exact fun w => w | with_reducible exact fun _ w => w | with_reducible exact Nat.le_refl _ | rfl | exact fun w => w | exact fun _ w => w

theorem deliverPacket_lasts (k : TrvPkt) {s : State} (h_ : Lasts b_ u_ s) : Lasts b_ u_ (deliverPacket k s) := by
  unfold deliverPacket
  try dsimp only
  repeat' first | with_reducible assumption | with_reducible apply updNgh_lasts | with_reducible apply trvSent_lasts | with_reducible apply event_lasts | with_reducible apply ownPacket_lasts | with_reducible apply queueOwn_lasts | with_reducible apply Lasts.foldl | (intro _ _ _) | with_reducible apply Lasts.ite | split | with_reducible apply Lasts.free | (with_reducible apply Lasts.upd <;> first | with_reducible rfl | with_reducible exact fun w => w | with_reducible exact fun _ w => w | with_reducible exact Nat.le_refl _ | skip)
  all_goals first | rfl | exact fun w => w | exact fun _ w => w | exact Nat.le_refl _ | exact Nat.le_succ _ | exact fun _ => rfl | exact fun _ _ => rfl | skip

theorem takePacket_lasts (k : TrvPkt) {s : State} (h_ : Lasts b_ u_ s) : Lasts b_ u_ (takePacket k s) := by
  unfold takePacket
  try dsimp only
  repeat' first | with_reducible assumption | with_reducible apply forwardPacket_lasts | with_reducible apply deliverPacket_lasts | with_reducible apply Lasts.foldl | (intro _ _ _) | with_reducible apply Lasts.ite | split | with_reducible apply Lasts.free | (with_reducible apply Lasts.upd <;> first | with_reducible rfl | with_reducible exact fun w => w | with_reducible exact fun _ w => w | with_reducible exact Nat.le_refl _ | skip)
  all_goals first | rfl | exact fun w => w | exact fun _ w => w | exact Nat.le_refl _ | exact Nat.le_succ _ | exact fun _ => rfl | exact fun _ _ => rfl | skip

theorem unqueue_lasts (k : TrvPkt) {s : State} (h_ : Lasts b_ u_ s) : Lasts b_ u_ (unqueue k s) := by
  unfold unqueue
  try dsimp only
  repeat' first | with_reducible assumption | with_reducible apply Lasts.foldl | (intro _ _ _) | with_reducible apply Lasts.ite | split | with_reducible apply Lasts.free | (with_reducible apply Lasts.upd <;> first | with_reducible rfl | with_reducible exact fun w => w | with_reducible exact fun _ w => w | with_reducible exact Nat.le_refl _ | skip)
  all_goals first | rfl | exact fun w => w | exact fun _ w => w | exact Nat.le_refl _ | exact Nat.le_succ _ | exact fun _ => rfl | exact fun _ _ => rfl | skip

theorem occupy_lasts (tenths : Nat) {s : State} (h_ : Lasts b_ u_ s) : Lasts b_ u_ (occupy tenths s) := by
  unfold occupy
  try dsimp only
  repeat' first | with_reducible assumption | with_reducible apply Lasts.foldl | (intro _ _ _) | with_reducible apply Lasts.ite | split | with_reducible apply Lasts.free | (with_reducible apply Lasts.upd <;> first | with_reducible rfl | with_reducible exact fun w => w | with_reducible exact fun _ w => w | with_reducible exact Nat.le_refl _ | skip)
  all_goals first | rfl | exact fun w => w | exact fun _ w => w | exact Nat.le_refl _ | exact Nat.le_succ _ | exact fun _ => rfl | exact fun _ _ => rfl | skip

theorem hearFrame_lasts (fc : List Byte) {s : State} (h_ : Lasts b_ u_ s) : Lasts b_ u_ (hearFrame fc s) := by
  unfold hearFrame
  try dsimp only
  repeat' first | with_reducible assumption | with_reducible apply occupy_lasts | with_reducible apply Lasts.foldl | (intro _ _ _) | with_reducible apply Lasts.ite | split | with_reducible apply Lasts.free | (with_reducible apply Lasts.upd <;> first | with_reducible rfl | with_reducible exact fun w => w | with_reducible exact fun _ w => w | with_reducible exact Nat.le_refl _ | skip)
  all_goals first | rfl | exact fun w => w | exact fun _ w => w | exact Nat.le_refl _ | exact Nat.le_succ _ | exact fun _ => rfl | exact fun _ _ => rfl | skip

theorem countFrame_lasts (fc : List Byte) {s : State} (h_ : Lasts b_ u_ s) : Lasts b_ u_ (countFrame fc s) := by
  unfold countFrame
  try dsimp only
  repeat' first | with_reducible assumption | with_reducible apply Lasts.foldl | (intro _ _ _) | with_reducible apply Lasts.ite | split | with_reducible apply Lasts.free | (with_reducible apply Lasts.upd <;> first | with_reducible rfl | with_reducible exact fun w => w | with_reducible exact fun _ w => w | with_reducible exact Nat.le_refl _ | skip)
  all_goals first | rfl | exact fun w => w | exact fun _ w => w | exact Nat.le_refl _ | exact Nat.le_succ _ | exact fun _ => rfl | exact fun _ _ => rfl | skip

theorem sendSegments_lasts (t : TrvTx) (k : Nat) {s : State} (h_ : Lasts b_ u_ s) : Lasts b_ u_ (sendSegments t k s) := by
  unfold sendSegments
  try dsimp only
  repeat' first | with_reducible assumption | with_reducible apply updNgh_lasts | with_reducible apply Lasts.foldl | (intro _ _ _) | with_reducible apply Lasts.ite | split | with_reducible apply Lasts.free | (with_reducible apply Lasts.upd <;> first | with_reducible rfl | with_reducible exact fun w => w | with_reducible exact fun _ w => w | with_reducible exact Nat.le_refl _ | skip)
  all_goals first | rfl | exact fun w => w | exact fun _ w => w | exact Nat.le_refl _ | exact Nat.le_succ _ | exact fun _ => rfl | exact fun _ _ => rfl | skip

theorem sendBroadcast_lasts (t : TrvTx) (k : Nat) {s : State} (h_ : Lasts b_ u_ s) : Lasts b_ u_ (sendBroadcast t k s) := by
  unfold sendBroadcast
  try dsimp only
  repeat' first | with_reducible assumption | with_reducible apply trvSent_lasts | with_reducible apply Lasts.foldl | (intro _ _ _) | with_reducible apply Lasts.ite | split | with_reducible apply Lasts.free | (with_reducible apply Lasts.upd <;> first | with_reducible rfl | with_reducible exact fun w => w | with_reducible exact fun _ w => w | with_reducible exact Nat.le_refl _ | skip)
  all_goals first | rfl | exact fun w => w | exact fun _ w => w | exact Nat.le_refl _ | exact Nat.le_succ _ | exact fun _ => rfl | exact fun _ _ => rfl | skip

theorem beginTx_lasts (t : TrvTx) {s : State} (h_ : Lasts b_ u_ s) : Lasts b_ u_ (beginTx t s) := by
  unfold beginTx
  try dsimp only
  repeat' first | with_reducible assumption | with_reducible apply unqueue_lasts | with_reducible apply updNgh_lasts | with_reducible apply Lasts.foldl | (intro _ _ _) | with_reducible apply Lasts.ite | split | with_reducible apply Lasts.free | (with_reducible apply Lasts.upd <;> first | with_reducible rfl | with_reducible exact fun w => w | with_reducible exact fun _ w => w | with_reducible exact Nat.le_refl _ | skip)
  all_goals first | rfl | exact fun w => w | exact fun _ w => w | exact Nat.le_refl _ | exact Nat.le_succ _ | exact fun _ => rfl | exact fun _ _ => rfl | skip

theorem sendAck_lasts (f : TrvFrameIn) {s : State} (h_ : Lasts b_ u_ s) : Lasts b_ u_ (sendAck f s) := by
  unfold sendAck
  try dsimp only
  repeat' first | with_reducible assumption | with_reducible apply occupy_lasts | with_reducible apply Lasts.foldl | (intro _ _ _) | with_reducible apply Lasts.ite | split | with_reducible apply Lasts.free | (with_reducible apply Lasts.upd <;> first | with_reducible rfl | with_reducible exact fun w => w | with_reducible exact fun _ w => w | with_reducible exact Nat.le_refl _ | skip)
  all_goals first | rfl | exact fun w => w | exact fun _ w => w | exact Nat.le_refl _ | exact Nat.le_succ _ | exact fun _ => rfl | exact fun _ _ => rfl | skip

theorem takeFrame_lasts (f : TrvFrameIn) {s : State} (h_ : Lasts b_ u_ s) : Lasts b_ u_ (takeFrame f s) := by
  unfold takeFrame
  try dsimp only
  repeat' first | with_reducible assumption | with_reducible apply Lasts.foldl | (intro _ _ _) | with_reducible apply Lasts.ite | split | with_reducible apply Lasts.free | (with_reducible apply Lasts.upd <;> first | with_reducible rfl | with_reducible exact fun w => w | with_reducible exact fun _ w => w | with_reducible exact Nat.le_refl _ | skip)
  all_goals first | rfl | exact fun w => w | exact fun _ w => w | exact Nat.le_refl _ | exact Nat.le_succ _ | exact fun _ => rfl | exact fun _ _ => rfl | skip

theorem segmentsLeft_lasts (t : TrvTx) (left : List Nat) {s : State} (h_ : Lasts b_ u_ s) : Lasts b_ u_ (segmentsLeft t left s) := by
  unfold segmentsLeft
  try dsimp only
  repeat' first | with_reducible assumption | with_reducible apply dropPacket_lasts | with_reducible apply updNgh_lasts | with_reducible apply Lasts.foldl | (intro _ _ _) | with_reducible apply Lasts.ite | split | with_reducible apply Lasts.free | (with_reducible apply Lasts.upd <;> first | with_reducible rfl | with_reducible exact fun w => w | with_reducible exact fun _ w => w | with_reducible exact Nat.le_refl _ | skip)
  all_goals first | rfl | exact fun w => w | exact fun _ w => w | exact Nat.le_refl _ | exact Nat.le_succ _ | exact fun _ => rfl | exact fun _ _ => rfl | skip

theorem ackTakenBy_lasts (t : TrvTx) (bitmap : BitVec 32) (snr : Nat) {s : State} (h_ : Lasts b_ u_ s) : Lasts b_ u_ (ackTakenBy t bitmap snr s) := by
  unfold ackTakenBy
  try dsimp only
  repeat' first | with_reducible assumption | with_reducible apply updNgh_lasts | with_reducible apply trvSent_lasts | with_reducible apply segmentsLeft_lasts | with_reducible apply Lasts.foldl | (intro _ _ _) | with_reducible apply Lasts.ite | split | with_reducible apply Lasts.free | (with_reducible apply Lasts.upd <;> first | with_reducible rfl | with_reducible exact fun w => w | with_reducible exact fun _ w => w | with_reducible exact Nat.le_refl _ | skip)
  all_goals first | rfl | exact fun w => w | exact fun _ w => w | exact Nat.le_refl _ | exact Nat.le_succ _ | exact fun _ => rfl | exact fun _ _ => rfl | skip

theorem datumTo_lasts (v : Bool) {s : State} (h_ : Lasts b_ u_ s) : Lasts b_ u_ (datumTo v s) := by
  unfold datumTo
  try dsimp only
  repeat' first | with_reducible assumption | with_reducible apply event_lasts | with_reducible apply Lasts.foldl | (intro _ _ _) | with_reducible apply Lasts.ite | split | with_reducible apply Lasts.free | (with_reducible apply Lasts.upd <;> first | with_reducible rfl | with_reducible exact fun w => w | with_reducible exact fun _ w => w | with_reducible exact Nat.le_refl _ | skip)
  all_goals first | rfl | exact fun w => w | exact fun _ w => w | exact Nat.le_refl _ | exact Nat.le_succ _ | exact fun _ => rfl | exact fun _ _ => rfl | skip

theorem alignCheck_lasts  {s : State} (h_ : Lasts b_ u_ s) : Lasts b_ u_ (alignCheck s) := by
  unfold alignCheck
  try dsimp only
  repeat' first | with_reducible assumption | with_reducible apply event_lasts | with_reducible apply Lasts.foldl | (intro _ _ _) | with_reducible apply Lasts.ite | split | with_reducible apply Lasts.free | (with_reducible apply Lasts.upd <;> first | with_reducible rfl | with_reducible exact fun w => w | with_reducible exact fun _ w => w | with_reducible exact Nat.le_refl _ | skip)
  all_goals first | rfl | exact fun w => w | exact fun _ w => w | exact Nat.le_refl _ | exact Nat.le_succ _ | exact fun _ => rfl | exact fun _ _ => rfl | skip

theorem sendBeacon_lasts  {s : State} (h_ : Lasts b_ u_ s) : Lasts b_ u_ (sendBeacon s) := by
  unfold sendBeacon
  try dsimp only
  repeat' first | with_reducible assumption | with_reducible apply ownPacket_lasts | with_reducible apply State.drawFree_lasts | with_reducible apply occupy_lasts | with_reducible apply Lasts.foldl | (intro _ _ _) | with_reducible apply Lasts.ite | split | with_reducible apply Lasts.free | (with_reducible apply Lasts.upd <;> first | with_reducible rfl | with_reducible exact fun w => w | with_reducible exact fun _ w => w | with_reducible exact Nat.le_refl _ | skip)
  all_goals first | rfl | exact fun w => w | exact fun _ w => w | exact Nat.le_refl _ | exact Nat.le_succ _ | exact fun _ => rfl | exact fun _ _ => rfl | skip

theorem masterConflict_lasts (b : BeaconSeen) {s : State} (h_ : Lasts b_ u_ s) : Lasts b_ u_ (masterConflict b s) := by
  unfold masterConflict
  try dsimp only
  repeat' first | with_reducible assumption | with_reducible apply event_lasts | with_reducible apply Lasts.foldl | (intro _ _ _) | with_reducible apply Lasts.ite | split | with_reducible apply Lasts.free | (with_reducible apply Lasts.upd <;> first | with_reducible rfl | with_reducible exact fun w => w | with_reducible exact fun _ w => w | with_reducible exact Nat.le_refl _ | skip)
  all_goals first | rfl | exact fun w => w | exact fun _ w => w | exact Nat.le_refl _ | exact Nat.le_succ _ | exact fun _ => rfl | exact fun _ _ => rfl | skip

theorem measure_lasts (b : BeaconSeen) {s : State} (h_ : Lasts b_ u_ s) : Lasts b_ u_ (measure b s) := by
  unfold measure
  try dsimp only
  repeat' first | with_reducible assumption | with_reducible apply State.drawFree_lasts | with_reducible apply Lasts.foldl | (intro _ _ _) | with_reducible apply Lasts.ite | split | with_reducible apply Lasts.free | (with_reducible apply Lasts.upd <;> first | with_reducible rfl | with_reducible exact fun w => w | with_reducible exact fun _ w => w | with_reducible exact Nat.le_refl _ | skip)
  all_goals first | rfl | exact fun w => w | exact fun _ w => w | exact Nat.le_refl _ | exact Nat.le_succ _ | exact fun _ => rfl | exact fun _ _ => rfl | skip

theorem addressClash_lasts (b : BeaconSeen) {s : State} (h_ : Lasts b_ u_ s) : Lasts b_ u_ (addressClash b s) := by
  unfold addressClash
  try dsimp only
  repeat' first | with_reducible assumption | with_reducible apply event_lasts | with_reducible apply trvSilent_lasts | with_reducible apply Lasts.foldl | (intro _ _ _) | with_reducible apply Lasts.ite | split | with_reducible apply Lasts.free | (with_reducible apply Lasts.upd <;> first | with_reducible rfl | with_reducible exact fun w => w | with_reducible exact fun _ w => w | with_reducible exact Nat.le_refl _ | skip)
  all_goals first | rfl | exact fun w => w | exact fun _ w => w | exact Nat.le_refl _ | exact Nat.le_succ _ | exact fun _ => rfl | exact fun _ _ => rfl | skip

theorem beaconHeard_lasts (b : BeaconSeen) {s : State} (h_ : Lasts b_ u_ s) : Lasts b_ u_ (beaconHeard b s) := by
  unfold beaconHeard
  try dsimp only
  repeat' first | with_reducible assumption | with_reducible apply updNgh_lasts | with_reducible apply Lasts.foldl | (intro _ _ _) | with_reducible apply Lasts.ite | split | with_reducible apply Lasts.free | (with_reducible apply Lasts.upd <;> first | with_reducible rfl | with_reducible exact fun w => w | with_reducible exact fun _ w => w | with_reducible exact Nat.le_refl _ | skip)
  all_goals first | rfl | exact fun w => w | exact fun _ w => w | exact Nat.le_refl _ | exact Nat.le_succ _ | exact fun _ => rfl | exact fun _ _ => rfl | skip

theorem beaconRoutes_lasts (b : BeaconSeen) {s : State} (h_ : Lasts b_ u_ s) : Lasts b_ u_ (beaconRoutes b s) := by
  unfold beaconRoutes
  try dsimp only
  repeat' first | with_reducible assumption | with_reducible apply neighbourLost_lasts | with_reducible apply updateParent_lasts | with_reducible apply updNgh_lasts | with_reducible apply Lasts.foldl | (intro _ _ _) | with_reducible apply Lasts.ite | split | with_reducible apply Lasts.free | (with_reducible apply Lasts.upd <;> first | with_reducible rfl | with_reducible exact fun w => w | with_reducible exact fun _ w => w | with_reducible exact Nat.le_refl _ | skip)
  all_goals first | rfl | exact fun w => w | exact fun _ w => w | exact Nat.le_refl _ | exact Nat.le_succ _ | exact fun _ => rfl | exact fun _ _ => rfl | skip

theorem beaconTimes_lasts (b : BeaconSeen) {s : State} (h_ : Lasts b_ u_ s) : Lasts b_ u_ (beaconTimes b s) := by
  unfold beaconTimes
  try dsimp only
  repeat' first | with_reducible assumption | with_reducible apply alignCheck_lasts | with_reducible apply measure_lasts | with_reducible apply Lasts.foldl | (intro _ _ _) | with_reducible apply Lasts.ite | split | with_reducible apply Lasts.free | (with_reducible apply Lasts.upd <;> first | with_reducible rfl | with_reducible exact fun w => w | with_reducible exact fun _ w => w | with_reducible exact Nat.le_refl _ | skip)
  all_goals first | rfl | exact fun w => w | exact fun _ w => w | exact Nat.le_refl _ | exact Nat.le_succ _ | exact fun _ => rfl | exact fun _ _ => rfl | skip

theorem useBeacon_lasts (b : BeaconSeen) {s : State} (h_ : Lasts b_ u_ s) : Lasts b_ u_ (useBeacon b s) := by
  unfold useBeacon
  try dsimp only
  repeat' first | with_reducible assumption | with_reducible apply addressClash_lasts | with_reducible apply beaconTimes_lasts | with_reducible apply beaconRoutes_lasts | with_reducible apply beaconHeard_lasts | with_reducible apply masterConflict_lasts | with_reducible apply Lasts.foldl | (intro _ _ _) | with_reducible apply Lasts.ite | split | with_reducible apply Lasts.free | (with_reducible apply Lasts.upd <;> first | with_reducible rfl | with_reducible exact fun w => w | with_reducible exact fun _ w => w | with_reducible exact Nat.le_refl _ | skip)
  all_goals first | rfl | exact fun w => w | exact fun _ w => w | exact Nat.le_refl _ | exact Nat.le_succ _ | exact fun _ => rfl | exact fun _ _ => rfl | skip

theorem takeBeacon_lasts (b : BeaconIn) {s : State} (h_ : Lasts b_ u_ s) : Lasts b_ u_ (takeBeacon b s) := by
  unfold takeBeacon
  try dsimp only
  repeat' first | with_reducible assumption | with_reducible apply screenPacket_lasts | with_reducible apply useBeacon_lasts | with_reducible apply Lasts.foldl | (intro _ _ _) | with_reducible apply Lasts.ite | split | with_reducible apply Lasts.free | (with_reducible apply Lasts.upd <;> first | with_reducible rfl | with_reducible exact fun w => w | with_reducible exact fun _ w => w | with_reducible exact Nat.le_refl _ | skip)
  all_goals first | rfl | exact fun w => w | exact fun _ w => w | exact Nat.le_refl _ | exact Nat.le_succ _ | exact fun _ => rfl | exact fun _ _ => rfl | skip

theorem requestTrv_lasts  {s : State} (h_ : Lasts b_ u_ s) : Lasts b_ u_ (requestTrv s) := by
  unfold requestTrv
  try dsimp only
  repeat' first | with_reducible assumption | with_reducible apply submit_lasts | with_reducible apply Lasts.foldl | (intro _ _ _) | with_reducible apply Lasts.ite | split | with_reducible apply Lasts.free | (with_reducible apply Lasts.upd <;> first | with_reducible rfl | with_reducible exact fun w => w | with_reducible exact fun _ w => w | with_reducible exact Nat.le_refl _ | skip)
  all_goals first | rfl | exact fun w => w | exact fun _ w => w | exact Nat.le_refl _ | exact Nat.le_succ _ | exact fun _ => rfl | exact fun _ _ => rfl | skip

theorem requeue_lasts  {s : State} (h_ : Lasts b_ u_ s) : Lasts b_ u_ (requeue s) := by
  unfold requeue
  try dsimp only
  repeat' first | with_reducible assumption | with_reducible apply Lasts.foldl | (intro _ _ _) | with_reducible apply Lasts.ite | split | with_reducible apply Lasts.free | (with_reducible apply Lasts.upd <;> first | with_reducible rfl | with_reducible exact fun w => w | with_reducible exact fun _ w => w | with_reducible exact Nat.le_refl _ | skip)
  all_goals first | rfl | exact fun w => w | exact fun _ w => w | exact Nat.le_refl _ | exact Nat.le_succ _ | exact fun _ => rfl | exact fun _ _ => rfl | skip

theorem trvRestart_lasts (oldNode : Nat) {s : State} (h_ : Lasts b_ u_ s) : Lasts b_ u_ (trvRestart oldNode s) := by
  unfold trvRestart
  try dsimp only
  repeat' first | with_reducible assumption | with_reducible apply setRoute_lasts | with_reducible apply requeue_lasts | with_reducible apply alignCheck_lasts | with_reducible apply trvSilent_lasts | with_reducible apply Lasts.foldl | (intro _ _ _) | with_reducible apply Lasts.ite | split | with_reducible apply Lasts.free | (with_reducible apply Lasts.upd <;> first | with_reducible rfl | with_reducible exact fun w => w | with_reducible exact fun _ w => w | with_reducible exact Nat.le_refl _ | skip)
  all_goals first | rfl | exact fun w => w | exact fun _ w => w | exact Nat.le_refl _ | exact Nat.le_succ _ | exact fun _ => rfl | exact fun _ _ => rfl | skip

end Sys2Proof.Machine
end

