-- ==== Sys2Proof/Laws/LastsChain.lean ====
section
/-!
SUPPORT. What the operations of Machine/Chain.lean keep (the relation of Lasts).
-/

namespace Sys2Proof.Machine

set_option linter.all false

open Sys2Proof.Laws

variable {b_ : Bool} {u_ : State}

theorem updChain_lasts (f : Chain → Chain) {s : State} (h_ : Lasts b_ u_ s) : Lasts b_ u_ (updChain f s) := by
  unfold updChain
  try dsimp only
  repeat' first | with_reducible assumption | with_reducible apply Lasts.foldl | (intro _ _ _) | with_reducible apply Lasts.ite | split | with_reducible apply Lasts.free | (with_reducible apply Lasts.upd <;> first | with_reducible rfl | with_reducible exact fun w => w | with_reducible exact fun _ w => w | with_reducible exact Nat.le_refl _ | skip)
  all_goals first | rfl | exact fun w => w | exact fun _ w => w | exact Nat.le_refl _ | exact Nat.le_succ _ | exact fun _ => rfl | exact fun _ _ => rfl | skip

theorem chainSend_lasts (dst type : Nat) (body : List Byte) {s : State} (h_ : Lasts b_ u_ s) : Lasts b_ u_ (chainSend dst type body s) := by
  unfold chainSend
  try dsimp only
  repeat' first | with_reducible assumption | with_reducible apply ownPacket_lasts | with_reducible apply queueOwn_lasts | with_reducible apply Lasts.foldl | (intro _ _ _) | with_reducible apply Lasts.ite | split | with_reducible apply Lasts.free | (with_reducible apply Lasts.upd <;> first | with_reducible rfl | with_reducible exact fun w => w | with_reducible exact fun _ w => w | with_reducible exact Nat.le_refl _ | skip)
  all_goals first | rfl | exact fun w => w | exact fun _ w => w | exact Nat.le_refl _ | exact Nat.le_succ _ | exact fun _ => rfl | exact fun _ _ => rfl | skip

theorem sendOffer_lasts  {s : State} (h_ : Lasts b_ u_ s) : Lasts b_ u_ (sendOffer s) := by
  unfold sendOffer
  try dsimp only
  repeat' first | with_reducible assumption | with_reducible apply updChain_lasts | with_reducible apply chainSend_lasts | with_reducible apply Lasts.foldl | (intro _ _ _) | with_reducible apply Lasts.ite | split | with_reducible apply Lasts.free | (with_reducible apply Lasts.upd <;> first | with_reducible rfl | with_reducible exact fun w => w | with_reducible exact fun _ w => w | with_reducible exact Nat.le_refl _ | skip)
  all_goals first | rfl | exact fun w => w | exact fun _ w => w | exact Nat.le_refl _ | exact Nat.le_succ _ | exact fun _ => rfl | exact fun _ _ => rfl | skip

theorem sendAnswer_lasts (dst result first : Nat) {s : State} (h_ : Lasts b_ u_ s) : Lasts b_ u_ (sendAnswer dst result first s) := by
  unfold sendAnswer
  try dsimp only
  repeat' first | with_reducible assumption | with_reducible apply chainSend_lasts | with_reducible apply Lasts.foldl | (intro _ _ _) | with_reducible apply Lasts.ite | split | with_reducible apply Lasts.free | (with_reducible apply Lasts.upd <;> first | with_reducible rfl | with_reducible exact fun w => w | with_reducible exact fun _ w => w | with_reducible exact Nat.le_refl _ | skip)
  all_goals first | rfl | exact fun w => w | exact fun _ w => w | exact Nat.le_refl _ | exact Nat.le_succ _ | exact fun _ => rfl | exact fun _ _ => rfl | skip

theorem sendBlock_lasts (dst k : Nat) {s : State} (h_ : Lasts b_ u_ s) : Lasts b_ u_ (sendBlock dst k s) := by
  unfold sendBlock
  try dsimp only
  repeat' first | with_reducible assumption | with_reducible apply chainSend_lasts | with_reducible apply Lasts.foldl | (intro _ _ _) | with_reducible apply Lasts.ite | split | with_reducible apply Lasts.free | (with_reducible apply Lasts.upd <;> first | with_reducible rfl | with_reducible exact fun w => w | with_reducible exact fun _ w => w | with_reducible exact Nat.le_refl _ | skip)
  all_goals first | rfl | exact fun w => w | exact fun _ w => w | exact Nat.le_refl _ | exact Nat.le_succ _ | exact fun _ => rfl | exact fun _ _ => rfl | skip

theorem pump_lasts (k : Nat) {s : State} (h_ : Lasts b_ u_ s) : Lasts b_ u_ (pump k s) := by
  induction k generalizing s with
  | zero => exact h_
  | succ k ih =>
    unfold pump
    try dsimp only
    repeat' first | with_reducible exact h_ | split | apply ih | with_reducible apply updChain_lasts | with_reducible apply sendBlock_lasts

theorem forward16_lasts  {s : State} (h_ : Lasts b_ u_ s) : Lasts b_ u_ (forward16 s) := by
  unfold forward16
  try dsimp only
  repeat' first | with_reducible assumption | with_reducible apply pump_lasts | with_reducible apply Lasts.foldl | (intro _ _ _) | with_reducible apply Lasts.ite | split | with_reducible apply Lasts.free | (with_reducible apply Lasts.upd <;> first | with_reducible rfl | with_reducible exact fun w => w | with_reducible exact fun _ w => w | with_reducible exact Nat.le_refl _ | skip)
  all_goals first | rfl | exact fun w => w | exact fun _ w => w | exact Nat.le_refl _ | exact Nat.le_succ _ | exact fun _ => rfl | exact fun _ _ => rfl | skip

theorem stagingDone_lasts (result : Nat) {s : State} (h_ : Lasts b_ u_ s) : Lasts b_ u_ (stagingDone result s) := by
  unfold stagingDone
  try dsimp only
  repeat' first | with_reducible assumption | with_reducible apply updateDone_lasts | with_reducible apply Lasts.foldl | (intro _ _ _) | with_reducible apply Lasts.ite | split | with_reducible apply Lasts.free | (with_reducible apply Lasts.upd <;> first | with_reducible rfl | with_reducible exact fun w => w | with_reducible exact fun _ w => w | with_reducible exact Nat.le_refl _ | skip)
  all_goals first | rfl | exact fun w => w | exact fun _ w => w | exact Nat.le_refl _ | exact Nat.le_succ _ | exact fun _ => rfl | exact fun _ _ => rfl | skip

theorem updateProgressEvent_lasts  {s : State} (h_ : Lasts b_ u_ s) : Lasts b_ u_ (updateProgressEvent s) := by
  unfold updateProgressEvent
  try dsimp only
  repeat' first | with_reducible assumption | with_reducible apply event_lasts | with_reducible apply updChain_lasts | with_reducible apply Lasts.foldl | (intro _ _ _) | with_reducible apply Lasts.ite | split | with_reducible apply Lasts.free | (with_reducible apply Lasts.upd <;> first | with_reducible rfl | with_reducible exact fun w => w | with_reducible exact fun _ w => w | with_reducible exact Nat.le_refl _ | skip)
  all_goals first | rfl | exact fun w => w | exact fun _ w => w | exact Nat.le_refl _ | exact Nat.le_succ _ | exact fun _ => rfl | exact fun _ _ => rfl | skip

theorem beginStaging_lasts (header : List Byte) (c : Chain) {s : State} (h_ : Lasts b_ u_ s) : Lasts b_ u_ (beginStaging header c s) := by
  unfold beginStaging
  try dsimp only
  repeat' first | with_reducible assumption | with_reducible apply askGroup_lasts | with_reducible apply Lasts.foldl | (intro _ _ _) | with_reducible apply Lasts.ite | split | with_reducible apply Lasts.free | (with_reducible apply Lasts.upd <;> first | with_reducible rfl | with_reducible exact fun w => w | with_reducible exact fun _ w => w | with_reducible exact Nat.le_refl _ | skip)
  all_goals first | rfl | exact fun w => w | exact fun _ w => w | exact Nat.le_refl _ | exact Nat.le_succ _ | exact fun _ => rfl | exact fun _ _ => rfl | skip

theorem emptyStaging_lasts  {s : State} (h_ : Lasts b_ u_ s) : Lasts b_ u_ (emptyStaging s) := by
  unfold emptyStaging
  try dsimp only
  repeat' first | with_reducible assumption | with_reducible apply dropErases_lasts | with_reducible apply journalUpdate_lasts | with_reducible apply Lasts.foldl | (intro _ _ _) | with_reducible apply Lasts.ite | split | with_reducible apply Lasts.free | (with_reducible apply Lasts.upd <;> first | with_reducible rfl | with_reducible exact fun w => w | with_reducible exact fun _ w => w | with_reducible exact Nat.le_refl _ | skip)
  all_goals first | rfl | exact fun w => w | exact fun _ w => w | exact Nat.le_refl _ | exact Nat.le_succ _ | exact fun _ => rfl | exact fun _ _ => rfl | skip

theorem stagingComplete_lasts  {s : State} (h_ : Lasts b_ u_ s) : Lasts b_ u_ (stagingComplete s) := by
  unfold stagingComplete
  try dsimp only
  repeat' first | with_reducible assumption | with_reducible apply stagingDone_lasts | with_reducible apply journalUpdate_lasts | with_reducible apply chainSend_lasts | with_reducible apply Lasts.foldl | (intro _ _ _) | with_reducible apply Lasts.ite | split | with_reducible apply Lasts.free | (with_reducible apply Lasts.upd <;> first | with_reducible rfl | with_reducible exact fun w => w | with_reducible exact fun _ w => w | with_reducible exact Nat.le_refl _ | skip)
  all_goals first | rfl | exact fun w => w | exact fun _ w => w | exact Nat.le_refl _ | exact Nat.le_succ _ | exact fun _ => rfl | exact fun _ _ => rfl | skip

theorem stageHalf_lasts (k half : Nat) (data tag : List Byte) {s : State} (h_ : Lasts b_ u_ s) :
    Lasts b_ u_ (stageHalf k half data tag s).1 := by
  unfold stageHalf
  try dsimp only
  repeat' first | with_reducible exact h_ | split | with_reducible apply stagingComplete_lasts | with_reducible apply journalUpdate_lasts | with_reducible apply updChain_lasts | with_reducible apply Lasts.upd
  all_goals first | with_reducible rfl | with_reducible exact fun w => w | with_reducible exact fun _ w => w | with_reducible exact Nat.le_refl _ | rfl | exact fun w => w | exact fun _ w => w

theorem refuseOffer_lasts (src origin id result : Nat) {s : State} (h_ : Lasts b_ u_ s) : Lasts b_ u_ (refuseOffer src origin id result s) := by
  unfold refuseOffer
  try dsimp only
  repeat' first | with_reducible assumption | with_reducible apply ownPacket_lasts | with_reducible apply queueOwn_lasts | with_reducible apply Lasts.foldl | (intro _ _ _) | with_reducible apply Lasts.ite | split | with_reducible apply Lasts.free | (with_reducible apply Lasts.upd <;> first | with_reducible rfl | with_reducible exact fun w => w | with_reducible exact fun _ w => w | with_reducible exact Nat.le_refl _ | skip)
  all_goals first | rfl | exact fun w => w | exact fun _ w => w | exact Nat.le_refl _ | exact Nat.le_succ _ | exact fun _ => rfl | exact fun _ _ => rfl | skip

theorem resumeOffer_lasts (src origin : Nat) (nodes : List Nat) (position : Nat) (next : Option (Nat × Nat)) {s : State} (h_ : Lasts b_ u_ s) : Lasts b_ u_ (resumeOffer src origin nodes position next s) := by
  unfold resumeOffer
  try dsimp only
  repeat' first | with_reducible assumption | with_reducible apply updChain_lasts | with_reducible apply sendAnswer_lasts | with_reducible apply sendOffer_lasts | with_reducible apply Lasts.foldl | (intro _ _ _) | with_reducible apply Lasts.ite | split | with_reducible apply Lasts.free | (with_reducible apply Lasts.upd <;> first | with_reducible rfl | with_reducible exact fun w => w | with_reducible exact fun _ w => w | with_reducible exact Nat.le_refl _ | skip)
  all_goals first | rfl | exact fun w => w | exact fun _ w => w | exact Nat.le_refl _ | exact Nat.le_succ _ | exact fun _ => rfl | exact fun _ _ => rfl | skip

theorem chainNode_lasts (node result blocks : Nat) {s : State} (h_ : Lasts b_ u_ s) : Lasts b_ u_ (chainNode node result blocks s) := by
  unfold chainNode
  try dsimp only
  repeat' first | with_reducible assumption | with_reducible apply event_lasts | with_reducible apply Lasts.foldl | (intro _ _ _) | with_reducible apply Lasts.ite | split | with_reducible apply Lasts.free | (with_reducible apply Lasts.upd <;> first | with_reducible rfl | with_reducible exact fun w => w | with_reducible exact fun _ w => w | with_reducible exact Nat.le_refl _ | skip)
  all_goals first | rfl | exact fun w => w | exact fun _ w => w | exact Nat.le_refl _ | exact Nat.le_succ _ | exact fun _ => rfl | exact fun _ _ => rfl | skip

theorem updEntry_lasts (node : Nat) (f : ChainPos → ChainPos) {s : State} (h_ : Lasts b_ u_ s) : Lasts b_ u_ (updEntry node f s) := by
  unfold updEntry
  try dsimp only
  repeat' first | with_reducible assumption | with_reducible apply updChain_lasts | with_reducible apply Lasts.foldl | (intro _ _ _) | with_reducible apply Lasts.ite | split | with_reducible apply Lasts.free | (with_reducible apply Lasts.upd <;> first | with_reducible rfl | with_reducible exact fun w => w | with_reducible exact fun _ w => w | with_reducible exact Nat.le_refl _ | skip)
  all_goals first | rfl | exact fun w => w | exact fun _ w => w | exact Nat.le_refl _ | exact Nat.le_succ _ | exact fun _ => rfl | exact fun _ _ => rfl | skip

theorem markSlow_lasts  {s : State} (h_ : Lasts b_ u_ s) : Lasts b_ u_ (markSlow s) := by
  unfold markSlow
  try dsimp only
  repeat' first | with_reducible assumption | with_reducible apply updChain_lasts | with_reducible apply Lasts.foldl | (intro _ _ _) | with_reducible apply Lasts.ite | split | with_reducible apply Lasts.free | (with_reducible apply Lasts.upd <;> first | with_reducible rfl | with_reducible exact fun w => w | with_reducible exact fun _ w => w | with_reducible exact Nat.le_refl _ | skip)
  all_goals first | rfl | exact fun w => w | exact fun _ w => w | exact Nat.le_refl _ | exact Nat.le_succ _ | exact fun _ => rfl | exact fun _ _ => rfl | skip

theorem bypass_lasts (i : Nat) (r : ChainPos) {s : State} (h_ : Lasts b_ u_ s) : Lasts b_ u_ (bypass i r s) := by
  unfold bypass
  try dsimp only
  repeat' first | with_reducible assumption | with_reducible apply chainNode_lasts | with_reducible apply updChain_lasts | with_reducible apply sendOffer_lasts | with_reducible apply chainSend_lasts | with_reducible apply Lasts.foldl | (intro _ _ _) | with_reducible apply Lasts.ite | split | with_reducible apply Lasts.free | (with_reducible apply Lasts.upd <;> first | with_reducible rfl | with_reducible exact fun w => w | with_reducible exact fun _ w => w | with_reducible exact Nat.le_refl _ | skip)
  all_goals first | rfl | exact fun w => w | exact fun _ w => w | exact Nat.le_refl _ | exact Nat.le_succ _ | exact fun _ => rfl | exact fun _ _ => rfl | skip

theorem chainResume_lasts  {s : State} (h_ : Lasts b_ u_ s) : Lasts b_ u_ (chainResume s) := by
  unfold chainResume
  try dsimp only
  repeat' first | with_reducible assumption | with_reducible apply askErase_lasts | with_reducible apply journalUpdate_lasts | with_reducible apply State.drawFree_lasts | with_reducible apply askGroup_lasts | with_reducible apply dropErases_lasts | with_reducible apply sendAnswer_lasts | with_reducible apply Lasts.foldl | (intro _ _ _) | with_reducible apply Lasts.ite | split | with_reducible apply Lasts.free | (with_reducible apply Lasts.upd <;> first | with_reducible rfl | with_reducible exact fun w => w | with_reducible exact fun _ w => w | with_reducible exact Nat.le_refl _ | skip)
  all_goals first | rfl | exact fun w => w | exact fun _ w => w | exact Nat.le_refl _ | exact Nat.le_succ _ | exact fun _ => rfl | exact fun _ _ => rfl | skip

end Sys2Proof.Machine
end

