-- ==== Sys2Proof/Laws/LastsClosure.lean ====
section
/-!
SUPPORT. What the operations of Machine/Closure.lean keep (the relation of Lasts).
-/

namespace Sys2Proof.Machine

set_option linter.all false

open Sys2Proof.Laws

variable {b_ : Bool} {u_ : State}

theorem report_lasts (r : Report) {s : State} (h_ : Lasts b_ u_ s) : Lasts b_ u_ (report r s) := by
  unfold report
  try dsimp only
  repeat' first | with_reducible assumption | with_reducible apply Lasts.foldl | (intro _ _ _) | with_reducible apply Lasts.ite | split | with_reducible apply Lasts.free | (with_reducible apply Lasts.upd <;> first | with_reducible rfl | with_reducible exact fun w => w | with_reducible exact fun _ w => w | with_reducible exact Nat.le_refl _ | skip)
  all_goals first | rfl | exact fun w => w | exact fun _ w => w | exact Nat.le_refl _ | exact Nat.le_succ _ | exact fun _ => rfl | exact fun _ _ => rfl | skip

theorem reportFrom_lasts (cls : Byte) (key i cycle : Nat) (scope : Nat) (outlets : BitVec 8) (reaction : Nat) {s : State} (h_ : Lasts b_ u_ s) : Lasts b_ u_ (reportFrom cls key i cycle scope outlets reaction s) := by
  unfold reportFrom
  try dsimp only
  repeat' first | with_reducible assumption | with_reducible apply report_lasts | with_reducible apply Lasts.foldl | (intro _ _ _) | with_reducible apply Lasts.ite | split | with_reducible apply Lasts.free | (with_reducible apply Lasts.upd <;> first | with_reducible rfl | with_reducible exact fun w => w | with_reducible exact fun _ w => w | with_reducible exact Nat.le_refl _ | skip)
  all_goals first | rfl | exact fun w => w | exact fun _ w => w | exact Nat.le_refl _ | exact Nat.le_succ _ | exact fun _ => rfl | exact fun _ _ => rfl | skip

theorem cellReport_lasts (cls : Byte) (i cycle : Nat) (scope : Nat) (outlets : BitVec 8) (reaction : Nat) {s : State} (h_ : Lasts b_ u_ s) : Lasts b_ u_ (cellReport cls i cycle scope outlets reaction s) := by
  unfold cellReport
  try dsimp only
  repeat' first | with_reducible assumption | with_reducible apply reportFrom_lasts | with_reducible apply Lasts.foldl | (intro _ _ _) | with_reducible apply Lasts.ite | split | with_reducible apply Lasts.free | (with_reducible apply Lasts.upd <;> first | with_reducible rfl | with_reducible exact fun w => w | with_reducible exact fun _ w => w | with_reducible exact Nat.le_refl _ | skip)
  all_goals first | rfl | exact fun w => w | exact fun _ w => w | exact Nat.le_refl _ | exact Nat.le_succ _ | exact fun _ => rfl | exact fun _ _ => rfl | skip

theorem closeChip_lasts (cut : Bool) (w : Merge) {s : State} (h_ : Lasts b_ u_ s) : Lasts b_ u_ (closeChip cut w s) := by
  unfold closeChip
  try dsimp only
  repeat' first | with_reducible assumption | with_reducible apply event_lasts | with_reducible apply journalApp_lasts | with_reducible apply Lasts.foldl | (intro _ _ _) | with_reducible apply Lasts.ite | split | with_reducible apply Lasts.free | (with_reducible apply Lasts.upd <;> first | with_reducible rfl | with_reducible exact fun w => w | with_reducible exact fun _ w => w | with_reducible exact Nat.le_refl _ | skip)
  all_goals first | rfl | exact fun w => w | exact fun _ w => w | exact Nat.le_refl _ | exact Nat.le_succ _ | exact fun _ => rfl | exact fun _ _ => rfl | skip

theorem closeAll_lasts  {s : State} (h_ : Lasts b_ u_ s) : Lasts b_ u_ (closeAll s) := by
  unfold closeAll
  try dsimp only
  repeat' first | with_reducible assumption | with_reducible apply closeChip_lasts | with_reducible apply Lasts.foldl | (intro _ _ _) | with_reducible apply Lasts.ite | split | with_reducible apply Lasts.free | (with_reducible apply Lasts.upd <;> first | with_reducible rfl | with_reducible exact fun w => w | with_reducible exact fun _ w => w | with_reducible exact Nat.le_refl _ | skip)
  all_goals first | rfl | exact fun w => w | exact fun _ w => w | exact Nat.le_refl _ | exact Nat.le_succ _ | exact fun _ => rfl | exact fun _ _ => rfl | skip

end Sys2Proof.Machine
end

