-- ==== Sys2Proof/Laws/LastsContactless.lean ====
section
/-!
SUPPORT. What the operations of Machine/Contactless.lean keep (the relation of Lasts).
-/

namespace Sys2Proof.Machine

set_option linter.all false

open Sys2Proof.Laws

variable {b_ : Bool} {u_ : State}

theorem fieldOff_lasts (st : Nat) {s : State} (h_ : Lasts b_ u_ s) : Lasts b_ u_ (fieldOff st s) := by
  unfold fieldOff
  try dsimp only
  repeat' first | with_reducible assumption | with_reducible apply releaseOpt_lasts | with_reducible apply Lasts.foldl | (intro _ _ _) | with_reducible apply Lasts.ite | split | with_reducible apply Lasts.free | (with_reducible apply Lasts.upd <;> first | with_reducible rfl | with_reducible exact fun w => w | with_reducible exact fun _ w => w | with_reducible exact Nat.le_refl _ | skip)
  all_goals first | rfl | exact fun w => w | exact fun _ w => w | exact Nat.le_refl _ | exact Nat.le_succ _ | exact fun _ => rfl | exact fun _ _ => rfl | skip

theorem apduDone_lasts (result : Nat) (response : List Byte) {s : State} (h_ : Lasts b_ u_ s) : Lasts b_ u_ (apduDone result response s) := by
  unfold apduDone
  try dsimp only
  repeat' first | with_reducible assumption | with_reducible apply emit_lasts | with_reducible apply Lasts.foldl | (intro _ _ _) | with_reducible apply Lasts.ite | split | with_reducible apply Lasts.free | (with_reducible apply Lasts.upd <;> first | with_reducible rfl | with_reducible exact fun w => w | with_reducible exact fun _ w => w | with_reducible exact Nat.le_refl _ | skip)
  all_goals first | rfl | exact fun w => w | exact fun _ w => w | exact Nat.le_refl _ | exact Nat.le_succ _ | exact fun _ => rfl | exact fun _ _ => rfl | skip

theorem readerStop_lasts (st : Nat) {s : State} (h_ : Lasts b_ u_ s) : Lasts b_ u_ (readerStop st s) := by
  unfold readerStop
  try dsimp only
  repeat' first | with_reducible assumption | with_reducible apply apduDone_lasts | with_reducible apply fieldOff_lasts | with_reducible apply Lasts.foldl | (intro _ _ _) | with_reducible apply Lasts.ite | split | with_reducible apply Lasts.free | (with_reducible apply Lasts.upd <;> first | with_reducible rfl | with_reducible exact fun w => w | with_reducible exact fun _ w => w | with_reducible exact Nat.le_refl _ | skip)
  all_goals first | rfl | exact fun w => w | exact fun _ w => w | exact Nat.le_refl _ | exact Nat.le_succ _ | exact fun _ => rfl | exact fun _ _ => rfl | skip

theorem requestField_lasts  {s : State} (h_ : Lasts b_ u_ s) : Lasts b_ u_ (requestField s) := by
  unfold requestField
  try dsimp only
  repeat' first | with_reducible assumption | with_reducible apply submit_lasts | with_reducible apply releaseOpt_lasts | with_reducible apply Lasts.foldl | (intro _ _ _) | with_reducible apply Lasts.ite | split | with_reducible apply Lasts.free | (with_reducible apply Lasts.upd <;> first | with_reducible rfl | with_reducible exact fun w => w | with_reducible exact fun _ w => w | with_reducible exact Nat.le_refl _ | skip)
  all_goals first | rfl | exact fun w => w | exact fun _ w => w | exact Nat.le_refl _ | exact Nat.le_succ _ | exact fun _ => rfl | exact fun _ _ => rfl | skip

theorem fieldGranted_lasts (id : Nat) {s : State} (h_ : Lasts b_ u_ s) : Lasts b_ u_ (fieldGranted id s) := by
  unfold fieldGranted
  try dsimp only
  repeat' first | with_reducible assumption | with_reducible apply beginOp_lasts | with_reducible apply Lasts.foldl | (intro _ _ _) | with_reducible apply Lasts.ite | split | with_reducible apply Lasts.free | (with_reducible apply Lasts.upd <;> first | with_reducible rfl | with_reducible exact fun w => w | with_reducible exact fun _ w => w | with_reducible exact Nat.le_refl _ | skip)
  all_goals first | rfl | exact fun w => w | exact fun _ w => w | exact Nat.le_refl _ | exact Nat.le_succ _ | exact fun _ => rfl | exact fun _ _ => rfl | skip

theorem fieldRefused_lasts (id : Nat) {s : State} (h_ : Lasts b_ u_ s) : Lasts b_ u_ (fieldRefused id s) := by
  unfold fieldRefused
  try dsimp only
  repeat' first | with_reducible assumption | with_reducible apply readerStop_lasts | with_reducible apply Lasts.foldl | (intro _ _ _) | with_reducible apply Lasts.ite | split | with_reducible apply Lasts.free | (with_reducible apply Lasts.upd <;> first | with_reducible rfl | with_reducible exact fun w => w | with_reducible exact fun _ w => w | with_reducible exact Nat.le_refl _ | skip)
  all_goals first | rfl | exact fun w => w | exact fun _ w => w | exact Nat.le_refl _ | exact Nat.le_succ _ | exact fun _ => rfl | exact fun _ _ => rfl | skip

theorem antennaCheck_lasts (mv : Nat) {s : State} (h_ : Lasts b_ u_ s) : Lasts b_ u_ (antennaCheck mv s) := by
  unfold antennaCheck
  try dsimp only
  repeat' first | with_reducible assumption | with_reducible apply event_lasts | with_reducible apply Lasts.foldl | (intro _ _ _) | with_reducible apply Lasts.ite | split | with_reducible apply Lasts.free | (with_reducible apply Lasts.upd <;> first | with_reducible rfl | with_reducible exact fun w => w | with_reducible exact fun _ w => w | with_reducible exact Nat.le_refl _ | skip)
  all_goals first | rfl | exact fun w => w | exact fun _ w => w | exact Nat.le_refl _ | exact Nat.le_succ _ | exact fun _ => rfl | exact fun _ _ => rfl | skip

theorem cardPresented_lasts (c : Cred) {s : State} (h_ : Lasts b_ u_ s) : Lasts b_ u_ (cardPresented c s) := by
  unfold cardPresented
  try dsimp only
  repeat' first | with_reducible assumption | with_reducible apply event_lasts | with_reducible apply Lasts.foldl | (intro _ _ _) | with_reducible apply Lasts.ite | split | with_reducible apply Lasts.free | (with_reducible apply Lasts.upd <;> first | with_reducible rfl | with_reducible exact fun w => w | with_reducible exact fun _ w => w | with_reducible exact Nat.le_refl _ | skip)
  all_goals first | rfl | exact fun w => w | exact fun _ w => w | exact Nat.le_refl _ | exact Nat.le_succ _ | exact fun _ => rfl | exact fun _ _ => rfl | skip

theorem cardRemoved_lasts (c : Cred) {s : State} (h_ : Lasts b_ u_ s) : Lasts b_ u_ (cardRemoved c s) := by
  unfold cardRemoved
  try dsimp only
  repeat' first | with_reducible assumption | with_reducible apply event_lasts | with_reducible apply Lasts.foldl | (intro _ _ _) | with_reducible apply Lasts.ite | split | with_reducible apply Lasts.free | (with_reducible apply Lasts.upd <;> first | with_reducible rfl | with_reducible exact fun w => w | with_reducible exact fun _ w => w | with_reducible exact Nat.le_refl _ | skip)
  all_goals first | rfl | exact fun w => w | exact fun _ w => w | exact Nat.le_refl _ | exact Nat.le_succ _ | exact fun _ => rfl | exact fun _ _ => rfl | skip

theorem roundRemovals_lasts (found : List Cred) {s : State} (h_ : Lasts b_ u_ s) : Lasts b_ u_ (roundRemovals found s) := by
  unfold roundRemovals
  try dsimp only
  repeat' first | with_reducible assumption | with_reducible apply cardRemoved_lasts | with_reducible apply Lasts.foldl | (intro _ _ _) | with_reducible apply Lasts.ite | split | with_reducible apply Lasts.free | (with_reducible apply Lasts.upd <;> first | with_reducible rfl | with_reducible exact fun w => w | with_reducible exact fun _ w => w | with_reducible exact Nat.le_refl _ | skip)
  all_goals first | rfl | exact fun w => w | exact fun _ w => w | exact Nat.le_refl _ | exact Nat.le_succ _ | exact fun _ => rfl | exact fun _ _ => rfl | skip

theorem readerFrame_lasts  {s : State} (h_ : Lasts b_ u_ s) : Lasts b_ u_ (readerFrame s) := by
  unfold readerFrame
  try dsimp only
  repeat' first | with_reducible assumption | with_reducible apply readerStop_lasts | with_reducible apply fieldOff_lasts | with_reducible apply Lasts.foldl | (intro _ _ _) | with_reducible apply Lasts.ite | split | with_reducible apply Lasts.free | (with_reducible apply Lasts.upd <;> first | with_reducible rfl | with_reducible exact fun w => w | with_reducible exact fun _ w => w | with_reducible exact Nat.le_refl _ | skip)
  all_goals first | rfl | exact fun w => w | exact fun _ w => w | exact Nat.le_refl _ | exact Nat.le_succ _ | exact fun _ => rfl | exact fun _ _ => rfl | skip

theorem tagAnswer_lasts (data : List Byte) (sw1 sw2 : Byte) {s : State} (h_ : Lasts b_ u_ s) : Lasts b_ u_ (tagAnswer data sw1 sw2 s) := by
  unfold tagAnswer
  try dsimp only
  repeat' first | with_reducible assumption | with_reducible apply Lasts.foldl | (intro _ _ _) | with_reducible apply Lasts.ite | split | with_reducible apply Lasts.free | (with_reducible apply Lasts.upd <;> first | with_reducible rfl | with_reducible exact fun w => w | with_reducible exact fun _ w => w | with_reducible exact Nat.le_refl _ | skip)
  all_goals first | rfl | exact fun w => w | exact fun _ w => w | exact Nat.le_refl _ | exact Nat.le_succ _ | exact fun _ => rfl | exact fun _ _ => rfl | skip

theorem appendSteps_lasts (k : Nat) (data : List Byte) (lastStep : Nat) {s : State} (h_ : Lasts b_ u_ s) : Lasts b_ u_ (appendSteps k data lastStep s) := by
  unfold appendSteps
  try dsimp only
  repeat' first | with_reducible assumption | with_reducible apply putStore_lasts | with_reducible apply Lasts.foldl | (intro _ _ _) | with_reducible apply Lasts.ite | split | with_reducible apply Lasts.free | (with_reducible apply Lasts.upd <;> first | with_reducible rfl | with_reducible exact fun w => w | with_reducible exact fun _ w => w | with_reducible exact Nat.le_refl _ | skip)
  all_goals first | rfl | exact fun w => w | exact fun _ w => w | exact Nat.le_refl _ | exact Nat.le_succ _ | exact fun _ => rfl | exact fun _ _ => rfl | skip

theorem requestImport_lasts  {s : State} (h_ : Lasts b_ u_ s) : Lasts b_ u_ (requestImport s) := by
  unfold requestImport
  try dsimp only
  repeat' first | with_reducible assumption | with_reducible apply submit_lasts | with_reducible apply Lasts.foldl | (intro _ _ _) | with_reducible apply Lasts.ite | split | with_reducible apply Lasts.free | (with_reducible apply Lasts.upd <;> first | with_reducible rfl | with_reducible exact fun w => w | with_reducible exact fun _ w => w | with_reducible exact Nat.le_refl _ | skip)
  all_goals first | rfl | exact fun w => w | exact fun _ w => w | exact Nat.le_refl _ | exact Nat.le_succ _ | exact fun _ => rfl | exact fun _ _ => rfl | skip

theorem importGranted_lasts (id : Nat) {s : State} (h_ : Lasts b_ u_ s) : Lasts b_ u_ (importGranted id s) := by
  unfold importGranted
  try dsimp only
  repeat' first | with_reducible assumption | with_reducible apply release_lasts | with_reducible apply putStore_lasts | with_reducible apply requestImport_lasts | with_reducible apply event_lasts | with_reducible apply Lasts.foldl | (intro _ _ _) | with_reducible apply Lasts.ite | split | with_reducible apply Lasts.free | (with_reducible apply Lasts.upd <;> first | with_reducible rfl | with_reducible exact fun w => w | with_reducible exact fun _ w => w | with_reducible exact Nat.le_refl _ | skip)
  all_goals first | rfl | exact fun w => w | exact fun _ w => w | exact Nat.le_refl _ | exact Nat.le_succ _ | exact fun _ => rfl | exact fun _ _ => rfl | skip

theorem importRefused_lasts (id : Nat) {s : State} (h_ : Lasts b_ u_ s) : Lasts b_ u_ (importRefused id s) := by
  unfold importRefused
  try dsimp only
  repeat' first | with_reducible assumption | with_reducible apply Lasts.foldl | (intro _ _ _) | with_reducible apply Lasts.ite | split | with_reducible apply Lasts.free | (with_reducible apply Lasts.upd <;> first | with_reducible rfl | with_reducible exact fun w => w | with_reducible exact fun _ w => w | with_reducible exact Nat.le_refl _ | skip)
  all_goals first | rfl | exact fun w => w | exact fun _ w => w | exact Nat.le_refl _ | exact Nat.le_succ _ | exact fun _ => rfl | exact fun _ _ => rfl | skip

theorem writeTotals_lasts  {s : State} (h_ : Lasts b_ u_ s) : Lasts b_ u_ (writeTotals s) := by
  unfold writeTotals
  try dsimp only
  repeat' first | with_reducible assumption | with_reducible apply putStore_lasts | with_reducible apply Lasts.foldl | (intro _ _ _) | with_reducible apply Lasts.ite | split | with_reducible apply Lasts.free | (with_reducible apply Lasts.upd <;> first | with_reducible rfl | with_reducible exact fun w => w | with_reducible exact fun _ w => w | with_reducible exact Nat.le_refl _ | skip)
  all_goals first | rfl | exact fun w => w | exact fun _ w => w | exact Nat.le_refl _ | exact Nat.le_succ _ | exact fun _ => rfl | exact fun _ _ => rfl | skip

theorem witnessSync_lasts  {s : State} (h_ : Lasts b_ u_ s) : Lasts b_ u_ (witnessSync s) := by
  unfold witnessSync
  try dsimp only
  repeat' first | with_reducible assumption | with_reducible apply putStore_lasts | with_reducible apply Lasts.foldl | (intro _ _ _) | with_reducible apply Lasts.ite | split | with_reducible apply Lasts.free | (with_reducible apply Lasts.upd <;> first | with_reducible rfl | with_reducible exact fun w => w | with_reducible exact fun _ w => w | with_reducible exact Nat.le_refl _ | skip)
  all_goals first | rfl | exact fun w => w | exact fun _ w => w | exact Nat.le_refl _ | exact Nat.le_succ _ | exact fun _ => rfl | exact fun _ _ => rfl | skip

end Sys2Proof.Machine
end

