-- ==== Sys2Proof/Laws/LastsDisplay.lean ====
section
/-!
SUPPORT. What the operations of Machine/Display.lean keep (the relation of Lasts).
-/

namespace Sys2Proof.Machine

set_option linter.all false

open Sys2Proof.Laws

variable {b_ : Bool} {u_ : State}

theorem displayDone_lasts (r : Rect) (result : Nat) {s : State} (h_ : Lasts b_ u_ s) : Lasts b_ u_ (displayDone r result s) := by
  unfold displayDone
  try dsimp only
  repeat' first | with_reducible assumption | with_reducible apply emit_lasts | with_reducible apply Lasts.foldl | (intro _ _ _) | with_reducible apply Lasts.ite | split | with_reducible apply Lasts.free | (with_reducible apply Lasts.upd <;> first | with_reducible rfl | with_reducible exact fun w => w | with_reducible exact fun _ w => w | with_reducible exact Nat.le_refl _ | skip)
  all_goals first | rfl | exact fun w => w | exact fun _ w => w | exact Nat.le_refl _ | exact Nat.le_succ _ | exact fun _ => rfl | exact fun _ _ => rfl | skip

theorem displayFault_lasts (kind : Nat) (detail : Int) {s : State} (h_ : Lasts b_ u_ s) : Lasts b_ u_ (displayFault kind detail s) := by
  unfold displayFault
  try dsimp only
  repeat' first | with_reducible assumption | with_reducible apply event_lasts | with_reducible apply Lasts.foldl | (intro _ _ _) | with_reducible apply Lasts.ite | split | with_reducible apply Lasts.free | (with_reducible apply Lasts.upd <;> first | with_reducible rfl | with_reducible exact fun w => w | with_reducible exact fun _ w => w | with_reducible exact Nat.le_refl _ | skip)
  all_goals first | rfl | exact fun w => w | exact fun _ w => w | exact Nat.le_refl _ | exact Nat.le_succ _ | exact fun _ => rfl | exact fun _ _ => rfl | skip

theorem lightEvent_lasts (on ack : Bool) {s : State} (h_ : Lasts b_ u_ s) : Lasts b_ u_ (lightEvent on ack s) := by
  unfold lightEvent
  try dsimp only
  repeat' first | with_reducible assumption | with_reducible apply emit_lasts | with_reducible apply Lasts.foldl | (intro _ _ _) | with_reducible apply Lasts.ite | split | with_reducible apply Lasts.free | (with_reducible apply Lasts.upd <;> first | with_reducible rfl | with_reducible exact fun w => w | with_reducible exact fun _ w => w | with_reducible exact Nat.le_refl _ | skip)
  all_goals first | rfl | exact fun w => w | exact fun _ w => w | exact Nat.le_refl _ | exact Nat.le_succ _ | exact fun _ => rfl | exact fun _ _ => rfl | skip

theorem updDisp_lasts {f : Display → Display} {s : State} (h_ : Lasts b_ u_ s)
    (h1 : Memory.wf 15 s.disp.shown = true → Memory.wf 15 (f s.disp).shown = true)
    (h2 : Memory.wf 15 s.disp.target = true → Memory.wf 15 (f s.disp).target = true) : Lasts b_ u_ (updDisp f s) := by
  unfold updDisp
  apply Lasts.upd h_ <;> first | rfl | exact fun w => w | exact Nat.le_refl _ | exact fun _ w => w | exact h1 | exact h2

theorem updQueue_lasts (i : Nat) (f : Rect → Rect) {s : State} (h_ : Lasts b_ u_ s) : Lasts b_ u_ (updQueue i f s) := by
  unfold updQueue
  try dsimp only
  repeat' first | with_reducible assumption | with_reducible apply updDisp_lasts | with_reducible apply Lasts.foldl | (intro _ _ _) | with_reducible apply Lasts.ite | split | with_reducible apply Lasts.free | (with_reducible apply Lasts.upd <;> first | with_reducible rfl | with_reducible exact fun w => w | with_reducible exact fun _ w => w | with_reducible exact Nat.le_refl _ | skip)
  all_goals first | rfl | exact fun w => w | exact fun _ w => w | exact Nat.le_refl _ | exact Nat.le_succ _ | exact fun _ => rfl | exact fun _ _ => rfl | skip

theorem askRect_lasts (i : Nat) (r : Rect) {s : State} (h_ : Lasts b_ u_ s) : Lasts b_ u_ (askRect i r s) := by
  unfold askRect
  try dsimp only
  repeat' first | with_reducible assumption | with_reducible apply updQueue_lasts | with_reducible apply submit_lasts | with_reducible apply Lasts.foldl | (intro _ _ _) | with_reducible apply Lasts.ite | split | with_reducible apply Lasts.free | (with_reducible apply Lasts.upd <;> first | with_reducible rfl | with_reducible exact fun w => w | with_reducible exact fun _ w => w | with_reducible exact Nat.le_refl _ | skip)
  all_goals first | rfl | exact fun w => w | exact fun _ w => w | exact Nat.le_refl _ | exact Nat.le_succ _ | exact fun _ => rfl | exact fun _ _ => rfl | skip

theorem serveQueue_lasts  {s : State} (h_ : Lasts b_ u_ s) : Lasts b_ u_ (serveQueue s) := by
  unfold serveQueue
  try dsimp only
  repeat' first | with_reducible assumption | with_reducible apply askRect_lasts | with_reducible apply Lasts.foldl | (intro _ _ _) | with_reducible apply Lasts.ite | split | with_reducible apply Lasts.free | (with_reducible apply Lasts.upd <;> first | with_reducible rfl | with_reducible exact fun w => w | with_reducible exact fun _ w => w | with_reducible exact Nat.le_refl _ | skip)
  all_goals first | rfl | exact fun w => w | exact fun _ w => w | exact Nat.le_refl _ | exact Nat.le_succ _ | exact fun _ => rfl | exact fun _ _ => rfl | skip

theorem queueTail_lasts (r : Rect) {s : State} (h_ : Lasts b_ u_ s) : Lasts b_ u_ (queueTail r s) := by
  unfold queueTail
  try dsimp only
  repeat' first | with_reducible assumption | with_reducible apply serveQueue_lasts | with_reducible apply updDisp_lasts | with_reducible apply Lasts.foldl | (intro _ _ _) | with_reducible apply Lasts.ite | split | with_reducible apply Lasts.free | (with_reducible apply Lasts.upd <;> first | with_reducible rfl | with_reducible exact fun w => w | with_reducible exact fun _ w => w | with_reducible exact Nat.le_refl _ | skip)
  all_goals first | rfl | exact fun w => w | exact fun _ w => w | exact Nat.le_refl _ | exact Nat.le_succ _ | exact fun _ => rfl | exact fun _ _ => rfl | skip

theorem queueHead_lasts (r : Rect) {s : State} (h_ : Lasts b_ u_ s) : Lasts b_ u_ (queueHead r s) := by
  unfold queueHead
  try dsimp only
  repeat' first | with_reducible assumption | with_reducible apply serveQueue_lasts | with_reducible apply updDisp_lasts | with_reducible apply Lasts.foldl | (intro _ _ _) | with_reducible apply Lasts.ite | split | with_reducible apply Lasts.free | (with_reducible apply Lasts.upd <;> first | with_reducible rfl | with_reducible exact fun w => w | with_reducible exact fun _ w => w | with_reducible exact Nat.le_refl _ | skip)
  all_goals first | rfl | exact fun w => w | exact fun _ w => w | exact Nat.le_refl _ | exact Nat.le_succ _ | exact fun _ => rfl | exact fun _ _ => rfl | skip

theorem queueAreas_lasts (as : List Area) (kind : Nat) (totals : Bool) {s : State} (h_ : Lasts b_ u_ s) : Lasts b_ u_ (queueAreas as kind totals s) := by
  unfold queueAreas
  try dsimp only
  repeat' first | with_reducible assumption | with_reducible apply queueTail_lasts | with_reducible apply Lasts.foldl | (intro _ _ _) | with_reducible apply Lasts.ite | split | with_reducible apply Lasts.free | (with_reducible apply Lasts.upd <;> first | with_reducible rfl | with_reducible exact fun w => w | with_reducible exact fun _ w => w | with_reducible exact Nat.le_refl _ | skip)
  all_goals first | rfl | exact fun w => w | exact fun _ w => w | exact Nat.le_refl _ | exact Nat.le_succ _ | exact fun _ => rfl | exact fun _ _ => rfl | skip

theorem requestPrice_lasts  {s : State} (h_ : Lasts b_ u_ s) : Lasts b_ u_ (requestPrice s) := by
  unfold requestPrice
  try dsimp only
  repeat' first | with_reducible assumption | with_reducible apply releaseOpt_lasts | with_reducible apply updDisp_lasts | with_reducible apply queueHead_lasts | with_reducible apply Lasts.foldl | (intro _ _ _) | with_reducible apply Lasts.ite | split | with_reducible apply Lasts.free | (with_reducible apply Lasts.upd <;> first | with_reducible rfl | with_reducible exact fun w => w | with_reducible exact fun _ w => w | with_reducible exact Nat.le_refl _ | skip)
  all_goals first | rfl | exact fun w => w | exact fun _ w => w | exact Nat.le_refl _ | exact Nat.le_succ _ | exact fun _ => rfl | exact fun _ _ => rfl | skip

theorem followPrice_lasts  {s : State} (h_ : Lasts b_ u_ s) : Lasts b_ u_ (followPrice s) := by
  unfold followPrice
  try dsimp only
  repeat' first | with_reducible assumption | with_reducible apply requestPrice_lasts | with_reducible apply Lasts.foldl | (intro _ _ _) | with_reducible apply Lasts.ite | split | with_reducible apply Lasts.free | (with_reducible apply Lasts.upd <;> first | with_reducible rfl | with_reducible exact fun w => w | with_reducible exact fun _ w => w | with_reducible exact Nat.le_refl _ | skip)
  all_goals first | rfl | exact fun w => w | exact fun _ w => w | exact Nat.le_refl _ | exact Nat.le_succ _ | exact fun _ => rfl | exact fun _ _ => rfl | skip

theorem priceInterrupted_lasts  {s : State} (h_ : Lasts b_ u_ s) : Lasts b_ u_ (priceInterrupted s) := by
  unfold priceInterrupted
  try dsimp only
  repeat' first | with_reducible assumption | with_reducible apply priceCheck_lasts | with_reducible apply journalApp_lasts | with_reducible apply Lasts.foldl | (intro _ _ _) | with_reducible apply Lasts.ite | split | with_reducible apply Lasts.free | (with_reducible apply Lasts.upd <;> first | with_reducible rfl | with_reducible exact fun w => w | with_reducible exact fun _ w => w | with_reducible exact Nat.le_refl _ | skip)
  all_goals first | rfl | exact fun w => w | exact fun _ w => w | exact Nat.le_refl _ | exact Nat.le_succ _ | exact fun _ => rfl | exact fun _ _ => rfl | skip

theorem abandonAll_lasts (result : Nat) (queuedToo : Bool) {s : State} (h_ : Lasts b_ u_ s) : Lasts b_ u_ (abandonAll result queuedToo s) := by
  unfold abandonAll
  try dsimp only
  repeat' first | with_reducible assumption | with_reducible apply releaseOpt_lasts | with_reducible apply updDisp_lasts | with_reducible apply displayDone_lasts | with_reducible apply priceInterrupted_lasts | with_reducible apply Lasts.foldl | (intro _ _ _) | with_reducible apply Lasts.ite | split | with_reducible apply Lasts.free | (with_reducible apply Lasts.upd <;> first | with_reducible rfl | with_reducible exact fun w => w | with_reducible exact fun _ w => w | with_reducible exact Nat.le_refl _ | skip)
  all_goals first | rfl | exact fun w => w | exact fun _ w => w | exact Nat.le_refl _ | exact Nat.le_succ _ | exact fun _ => rfl | exact fun _ _ => rfl | skip

theorem startRails_lasts  {s : State} (h_ : Lasts b_ u_ s) : Lasts b_ u_ (startRails s) := by
  unfold startRails
  try dsimp only
  repeat' first | with_reducible assumption | with_reducible apply updDisp_lasts | with_reducible apply Lasts.foldl | (intro _ _ _) | with_reducible apply Lasts.ite | split | with_reducible apply Lasts.free | (with_reducible apply Lasts.upd <;> first | with_reducible rfl | with_reducible exact fun w => w | with_reducible exact fun _ w => w | with_reducible exact Nat.le_refl _ | skip)
  all_goals first | rfl | exact fun w => w | exact fun _ w => w | exact Nat.le_refl _ | exact Nat.le_succ _ | exact fun _ => rfl | exact fun _ _ => rfl | skip

theorem lowerRails_lasts  {s : State} (h_ : Lasts b_ u_ s) : Lasts b_ u_ (lowerRails s) := by
  unfold lowerRails
  try dsimp only
  repeat' first | with_reducible assumption | with_reducible apply updDisp_lasts | with_reducible apply Lasts.foldl | (intro _ _ _) | with_reducible apply Lasts.ite | split | with_reducible apply Lasts.free | (with_reducible apply Lasts.upd <;> first | with_reducible rfl | with_reducible exact fun w => w | with_reducible exact fun _ w => w | with_reducible exact Nat.le_refl _ | skip)
  all_goals first | rfl | exact fun w => w | exact fun _ w => w | exact Nat.le_refl _ | exact Nat.le_succ _ | exact fun _ => rfl | exact fun _ _ => rfl | skip

theorem displayGranted_lasts (id : Nat) {s : State} (h_ : Lasts b_ u_ s) : Lasts b_ u_ (displayGranted id s) := by
  unfold displayGranted
  try dsimp only
  repeat' first | with_reducible assumption | with_reducible apply beginOp_lasts | with_reducible apply startRails_lasts | with_reducible apply updDisp_lasts | with_reducible apply release_lasts | with_reducible apply Lasts.foldl | (intro _ _ _) | with_reducible apply Lasts.ite | split | with_reducible apply Lasts.free | (with_reducible apply Lasts.upd <;> first | with_reducible rfl | with_reducible exact fun w => w | with_reducible exact fun _ w => w | with_reducible exact Nat.le_refl _ | skip)
  all_goals first | rfl | exact fun w => w | exact fun _ w => w | exact Nat.le_refl _ | exact Nat.le_succ _ | exact fun _ => rfl | exact fun _ _ => rfl | skip

theorem displayRefused_lasts (id : Nat) {s : State} (h_ : Lasts b_ u_ s) : Lasts b_ u_ (displayRefused id s) := by
  unfold displayRefused
  try dsimp only
  repeat' first | with_reducible assumption | with_reducible apply updDisp_lasts | with_reducible apply Lasts.foldl | (intro _ _ _) | with_reducible apply Lasts.ite | split | with_reducible apply Lasts.free | (with_reducible apply Lasts.upd <;> first | with_reducible rfl | with_reducible exact fun w => w | with_reducible exact fun _ w => w | with_reducible exact Nat.le_refl _ | skip)
  all_goals first | rfl | exact fun w => w | exact fun _ w => w | exact Nat.le_refl _ | exact Nat.le_succ _ | exact fun _ => rfl | exact fun _ _ => rfl | skip

theorem panelTemp_lasts (t : Int) {s : State} (h_ : Lasts b_ u_ s) : Lasts b_ u_ (panelTemp t s) := by
  unfold panelTemp
  try dsimp only
  repeat' first | with_reducible assumption | with_reducible apply updDisp_lasts | with_reducible apply displayFault_lasts | with_reducible apply Lasts.foldl | (intro _ _ _) | with_reducible apply Lasts.ite | split | with_reducible apply Lasts.free | (with_reducible apply Lasts.upd <;> first | with_reducible rfl | with_reducible exact fun w => w | with_reducible exact fun _ w => w | with_reducible exact Nat.le_refl _ | skip)
  all_goals first | rfl | exact fun w => w | exact fun _ w => w | exact Nat.le_refl _ | exact Nat.le_succ _ | exact fun _ => rfl | exact fun _ _ => rfl | skip

theorem joinRect_lasts (i : Nat) (r : Rect) {s : State} (h_ : Lasts b_ u_ s) : Lasts b_ u_ (joinRect i r s) := by
  unfold joinRect
  try dsimp only
  repeat' first | with_reducible assumption | with_reducible apply updDisp_lasts | with_reducible apply Lasts.foldl | (intro _ _ _) | with_reducible apply Lasts.ite | split | with_reducible apply Lasts.free | (with_reducible apply Lasts.upd <;> first | with_reducible rfl | with_reducible exact fun w => w | with_reducible exact fun _ w => w | with_reducible exact Nat.le_refl _ | skip)
  all_goals first | rfl | exact fun w => w | exact fun _ w => w | exact Nat.le_refl _ | exact Nat.le_succ _ | exact fun _ => rfl | exact fun _ _ => rfl | skip

theorem outOfBand_lasts (i : Nat) (r : Rect) {s : State} (h_ : Lasts b_ u_ s) : Lasts b_ u_ (outOfBand i r s) := by
  unfold outOfBand
  try dsimp only
  repeat' first | with_reducible assumption | with_reducible apply releaseOpt_lasts | with_reducible apply updQueue_lasts | with_reducible apply displayFault_lasts | with_reducible apply updDisp_lasts | with_reducible apply Lasts.foldl | (intro _ _ _) | with_reducible apply Lasts.ite | split | with_reducible apply Lasts.free | (with_reducible apply Lasts.upd <;> first | with_reducible rfl | with_reducible exact fun w => w | with_reducible exact fun _ w => w | with_reducible exact Nat.le_refl _ | skip)
  all_goals first | rfl | exact fun w => w | exact fun _ w => w | exact Nat.le_refl _ | exact Nat.le_succ _ | exact fun _ => rfl | exact fun _ _ => rfl | skip

theorem joinFrom_lasts (k i : Nat) {s : State} (h_ : Lasts b_ u_ s) : Lasts b_ u_ (joinFrom k i s) := by
  induction k generalizing i s with
  | zero => exact h_
  | succ k ih =>
    unfold joinFrom
    repeat' first | with_reducible exact h_ | split | apply ih | with_reducible apply outOfBand_lasts | with_reducible apply joinRect_lasts

theorem serveLight_lasts  {s : State} (h_ : Lasts b_ u_ s) : Lasts b_ u_ (serveLight s) := by
  unfold serveLight
  try dsimp only
  repeat' first | with_reducible assumption | with_reducible apply lightEvent_lasts | with_reducible apply updDisp_lasts | with_reducible apply Lasts.foldl | (intro _ _ _) | with_reducible apply Lasts.ite | split | with_reducible apply Lasts.free | (with_reducible apply Lasts.upd <;> first | with_reducible rfl | with_reducible exact fun w => w | with_reducible exact fun _ w => w | with_reducible exact Nat.le_refl _ | skip)
  all_goals first | rfl | exact fun w => w | exact fun _ w => w | exact Nat.le_refl _ | exact Nat.le_succ _ | exact fun _ => rfl | exact fun _ _ => rfl | skip

theorem crackFound_lasts (ohm10 : Nat) {s : State} (h_ : Lasts b_ u_ s) : Lasts b_ u_ (crackFound ohm10 s) := by
  unfold crackFound
  try dsimp only
  repeat' first | with_reducible assumption | with_reducible apply lowerRails_lasts | with_reducible apply abandonAll_lasts | with_reducible apply displayFault_lasts | with_reducible apply updDisp_lasts | with_reducible apply priceCheck_lasts | with_reducible apply Lasts.foldl | (intro _ _ _) | with_reducible apply Lasts.ite | split | with_reducible apply Lasts.free | (with_reducible apply Lasts.upd <;> first | with_reducible rfl | with_reducible exact fun w => w | with_reducible exact fun _ w => w | with_reducible exact Nat.le_refl _ | skip)
  all_goals first | rfl | exact fun w => w | exact fun _ w => w | exact Nat.le_refl _ | exact Nat.le_succ _ | exact fun _ => rfl | exact fun _ _ => rfl | skip

theorem queueAon_lasts  {s : State} (h_ : Lasts b_ u_ s) : Lasts b_ u_ (queueAon s) := by
  unfold queueAon
  try dsimp only
  repeat' first | with_reducible assumption | with_reducible apply queueAreas_lasts | with_reducible apply Lasts.foldl | (intro _ _ _) | with_reducible apply Lasts.ite | split | with_reducible apply Lasts.free | (with_reducible apply Lasts.upd <;> first | with_reducible rfl | with_reducible exact fun w => w | with_reducible exact fun _ w => w | with_reducible exact Nat.le_refl _ | skip)
  all_goals first | rfl | exact fun w => w | exact fun _ w => w | exact Nat.le_refl _ | exact Nat.le_succ _ | exact fun _ => rfl | exact fun _ _ => rfl | skip

theorem drawTotals_lasts  {s : State} (h_ : Lasts b_ u_ s) : Lasts b_ u_ (drawTotals s) := by
  unfold drawTotals
  try dsimp only
  repeat' first | with_reducible assumption | with_reducible apply queueAreas_lasts | with_reducible apply updDisp_lasts | with_reducible apply Lasts.foldl | (intro _ _ _) | with_reducible apply Lasts.ite | split | with_reducible apply Lasts.free | (with_reducible apply Lasts.upd <;> first | with_reducible rfl | with_reducible exact fun w => w | with_reducible exact fun _ w => w | with_reducible exact Nat.le_refl _ | skip)
  all_goals first | rfl | exact fun w => w | exact fun _ w => w | exact Nat.le_refl _ | exact Nat.le_succ _ | exact fun _ => rfl | exact fun _ _ => rfl | skip

theorem displayBenchmarkEntry_lasts  {s : State} (h_ : Lasts b_ u_ s) : Lasts b_ u_ (displayBenchmarkEntry s) := by
  unfold displayBenchmarkEntry
  try dsimp only
  repeat' first | with_reducible assumption | with_reducible apply requestPrice_lasts | with_reducible apply drawTotals_lasts | with_reducible apply Lasts.foldl | (intro _ _ _) | with_reducible apply Lasts.ite | split | with_reducible apply Lasts.free | (with_reducible apply Lasts.upd <;> first | with_reducible rfl | with_reducible exact fun w => w | with_reducible exact fun _ w => w | with_reducible exact Nat.le_refl _ | skip)
  all_goals first | rfl | exact fun w => w | exact fun _ w => w | exact Nat.le_refl _ | exact Nat.le_succ _ | exact fun _ => rfl | exact fun _ _ => rfl | skip

theorem displayBenchmarkExit_lasts  {s : State} (h_ : Lasts b_ u_ s) : Lasts b_ u_ (displayBenchmarkExit s) := by
  unfold displayBenchmarkExit
  try dsimp only
  repeat' first | with_reducible assumption | with_reducible apply requestPrice_lasts | with_reducible apply queueAreas_lasts | with_reducible apply Lasts.foldl | (intro _ _ _) | with_reducible apply Lasts.ite | split | with_reducible apply Lasts.free | (with_reducible apply Lasts.upd <;> first | with_reducible rfl | with_reducible exact fun w => w | with_reducible exact fun _ w => w | with_reducible exact Nat.le_refl _ | skip)
  all_goals first | rfl | exact fun w => w | exact fun _ w => w | exact Nat.le_refl _ | exact Nat.le_succ _ | exact fun _ => rfl | exact fun _ _ => rfl | skip

theorem displayFrame_lasts  {s : State} (h_ : Lasts b_ u_ s) : Lasts b_ u_ (displayFrame s) := by
  unfold displayFrame
  try dsimp only
  repeat' first | with_reducible assumption | with_reducible apply displayBenchmarkEntry_lasts | with_reducible apply updDisp_lasts | with_reducible apply displayBenchmarkExit_lasts | with_reducible apply serveQueue_lasts | with_reducible apply serveLight_lasts | with_reducible apply followPrice_lasts | with_reducible apply Lasts.foldl | (intro _ _ _) | with_reducible apply Lasts.ite | split | with_reducible apply Lasts.free | (with_reducible apply Lasts.upd <;> first | with_reducible rfl | with_reducible exact fun w => w | with_reducible exact fun _ w => w | with_reducible exact Nat.le_refl _ | skip)
  all_goals first | rfl | exact fun w => w | exact fun _ w => w | exact Nat.le_refl _ | exact Nat.le_succ _ | exact fun _ => rfl | exact fun _ _ => rfl | skip

theorem displayBlockFaulty_lasts  {s : State} (h_ : Lasts b_ u_ s) : Lasts b_ u_ (displayBlockFaulty s) := by
  unfold displayBlockFaulty
  try dsimp only
  repeat' first | with_reducible assumption | with_reducible apply lowerRails_lasts | with_reducible apply abandonAll_lasts | with_reducible apply displayFault_lasts | with_reducible apply Lasts.foldl | (intro _ _ _) | with_reducible apply Lasts.ite | split | with_reducible apply Lasts.free | (with_reducible apply Lasts.upd <;> first | with_reducible rfl | with_reducible exact fun w => w | with_reducible exact fun _ w => w | with_reducible exact Nat.le_refl _ | skip)
  all_goals first | rfl | exact fun w => w | exact fun _ w => w | exact Nat.le_refl _ | exact Nat.le_succ _ | exact fun _ => rfl | exact fun _ _ => rfl | skip

theorem displayShutdown_lasts  {s : State} (h_ : Lasts b_ u_ s) : Lasts b_ u_ (displayShutdown s) := by
  unfold displayShutdown
  try dsimp only
  repeat' first | with_reducible assumption | with_reducible apply lowerRails_lasts | with_reducible apply abandonAll_lasts | with_reducible apply lightEvent_lasts | with_reducible apply updDisp_lasts | with_reducible apply Lasts.foldl | (intro _ _ _) | with_reducible apply Lasts.ite | split | with_reducible apply Lasts.free | (with_reducible apply Lasts.upd <;> first | with_reducible rfl | with_reducible exact fun w => w | with_reducible exact fun _ w => w | with_reducible exact Nat.le_refl _ | skip)
  all_goals first | rfl | exact fun w => w | exact fun _ w => w | exact Nat.le_refl _ | exact Nat.le_succ _ | exact fun _ => rfl | exact fun _ _ => rfl | skip

theorem displayCoreReset_lasts  {s : State} (h_ : Lasts b_ u_ s) : Lasts b_ u_ (displayCoreReset s) := by
  unfold displayCoreReset
  try dsimp only
  repeat' first | with_reducible assumption | with_reducible apply releaseOpt_lasts | with_reducible apply updDisp_lasts | with_reducible apply Lasts.foldl | (intro _ _ _) | with_reducible apply Lasts.ite | split | with_reducible apply Lasts.free | (with_reducible apply Lasts.upd <;> first | with_reducible rfl | with_reducible exact fun w => w | with_reducible exact fun _ w => w | with_reducible exact Nat.le_refl _ | skip)
  all_goals first | rfl | exact fun w => w | exact fun _ w => w | exact Nat.le_refl _ | exact Nat.le_succ _ | exact fun _ => rfl | exact fun _ _ => rfl | skip

theorem displaySystemReset_lasts  {s : State} (h_ : Lasts b_ u_ s) : Lasts b_ u_ (displaySystemReset s) := by
  unfold displaySystemReset
  try dsimp only
  repeat' first | with_reducible assumption | with_reducible apply Lasts.foldl | (intro _ _ _) | with_reducible apply Lasts.ite | split | with_reducible apply Lasts.free | (with_reducible apply Lasts.upd <;> first | with_reducible rfl | with_reducible exact fun w => w | with_reducible exact fun _ w => w | with_reducible exact Nat.le_refl _ | skip)
  all_goals first | rfl | exact fun w => w | exact fun _ w => w | exact Nat.le_refl _ | exact Nat.le_succ _ | exact fun _ => rfl | exact fun _ _ => rfl | skip

theorem displayReady_lasts  {s : State} (h_ : Lasts b_ u_ s) : Lasts b_ u_ (displayReady s) := by
  unfold displayReady
  try dsimp only
  repeat' first | with_reducible assumption | with_reducible apply requestPrice_lasts | with_reducible apply Lasts.foldl | (intro _ _ _) | with_reducible apply Lasts.ite | split | with_reducible apply Lasts.free | (with_reducible apply Lasts.upd <;> first | with_reducible rfl | with_reducible exact fun w => w | with_reducible exact fun _ w => w | with_reducible exact Nat.le_refl _ | skip)
  all_goals first | rfl | exact fun w => w | exact fun _ w => w | exact Nat.le_refl _ | exact Nat.le_succ _ | exact fun _ => rfl | exact fun _ _ => rfl | skip

end Sys2Proof.Machine
end

