-- ==== Sys2Proof/Laws/LastsStops.lean ====
section
/-!
SUPPORT. What the operations of Machine/Stops.lean keep (the relation of Lasts).
-/

namespace Sys2Proof.Machine

set_option linter.all false

open Sys2Proof.Laws

variable {b_ : Bool} {u_ : State}

theorem updDrv_lasts (d : Nat) (f : Driver → Driver) {s : State} (h_ : Lasts b_ u_ s) : Lasts b_ u_ (updDrv d f s) := by
  unfold updDrv
  try dsimp only
  repeat' first | with_reducible assumption | with_reducible apply Lasts.foldl | (intro _ _ _) | with_reducible apply Lasts.ite | split | with_reducible apply Lasts.free | (with_reducible apply Lasts.upd <;> first | with_reducible rfl | with_reducible exact fun w => w | with_reducible exact fun _ w => w | with_reducible exact Nat.le_refl _ | skip)
  all_goals first | rfl | exact fun w => w | exact fun _ w => w | exact Nat.le_refl _ | exact Nat.le_succ _ | exact fun _ => rfl | exact fun _ _ => rfl | skip

theorem updSq_lasts (n : Nat) (f : Seq → Seq) {s : State} (h_ : Lasts b_ u_ s) : Lasts b_ u_ (updSq n f s) := by
  unfold updSq
  try dsimp only
  repeat' first | with_reducible assumption | with_reducible apply Lasts.foldl | (intro _ _ _) | with_reducible apply Lasts.ite | split | with_reducible apply Lasts.free | (with_reducible apply Lasts.upd <;> first | with_reducible rfl | with_reducible exact fun w => w | with_reducible exact fun _ w => w | with_reducible exact Nat.le_refl _ | skip)
  all_goals first | rfl | exact fun w => w | exact fun _ w => w | exact Nat.le_refl _ | exact Nat.le_succ _ | exact fun _ => rfl | exact fun _ _ => rfl | skip

theorem updLk_lasts (n : Nat) (f : LinkOut → LinkOut) {s : State} (h_ : Lasts b_ u_ s) : Lasts b_ u_ (updLk n f s) := by
  unfold updLk
  try dsimp only
  repeat' first | with_reducible assumption | with_reducible apply Lasts.foldl | (intro _ _ _) | with_reducible apply Lasts.ite | split | with_reducible apply Lasts.free | (with_reducible apply Lasts.upd <;> first | with_reducible rfl | with_reducible exact fun w => w | with_reducible exact fun _ w => w | with_reducible exact Nat.le_refl _ | skip)
  all_goals first | rfl | exact fun w => w | exact fun _ w => w | exact Nat.le_refl _ | exact Nat.le_succ _ | exact fun _ => rfl | exact fun _ _ => rfl | skip

theorem updSession_lasts (n : Nat) (f : Session → Session) {s : State} (h_ : Lasts b_ u_ s) : Lasts b_ u_ (updSession n f s) := by
  unfold updSession
  try dsimp only
  repeat' first | with_reducible assumption | with_reducible apply Lasts.foldl | (intro _ _ _) | with_reducible apply Lasts.ite | split | with_reducible apply Lasts.free | (with_reducible apply Lasts.upd <;> first | with_reducible rfl | with_reducible exact fun w => w | with_reducible exact fun _ w => w | with_reducible exact Nat.le_refl _ | skip)
  all_goals first | rfl | exact fun w => w | exact fun _ w => w | exact Nat.le_refl _ | exact Nat.le_succ _ | exact fun _ => rfl | exact fun _ _ => rfl | skip

theorem closeAt_lasts (n : Nat) {s : State} (h_ : Lasts b_ u_ s) : Lasts b_ u_ (closeAt n s) := by
  unfold closeAt
  try dsimp only
  repeat' first | with_reducible assumption | with_reducible apply updSession_lasts | with_reducible apply Lasts.foldl | (intro _ _ _) | with_reducible apply Lasts.ite | split | with_reducible apply Lasts.free | (with_reducible apply Lasts.upd <;> first | with_reducible rfl | with_reducible exact fun w => w | with_reducible exact fun _ w => w | with_reducible exact Nat.le_refl _ | skip)
  all_goals first | rfl | exact fun w => w | exact fun _ w => w | exact Nat.le_refl _ | exact Nat.le_succ _ | exact fun _ => rfl | exact fun _ _ => rfl | skip

theorem setOwner_lasts (m : Nat) (o : Option Nat) {s : State} (h_ : Lasts b_ u_ s) : Lasts b_ u_ (setOwner m o s) := by
  unfold setOwner
  try dsimp only
  repeat' first | with_reducible assumption | with_reducible apply Lasts.foldl | (intro _ _ _) | with_reducible apply Lasts.ite | split | with_reducible apply Lasts.free | (with_reducible apply Lasts.upd <;> first | with_reducible rfl | with_reducible exact fun w => w | with_reducible exact fun _ w => w | with_reducible exact Nat.le_refl _ | skip)
  all_goals first | rfl | exact fun w => w | exact fun _ w => w | exact Nat.le_refl _ | exact Nat.le_succ _ | exact fun _ => rfl | exact fun _ _ => rfl | skip

theorem driverOff_lasts (d : Nat) {s : State} (h_ : Lasts b_ u_ s) : Lasts b_ u_ (driverOff d s) := by
  unfold driverOff
  try dsimp only
  repeat' first | with_reducible assumption | with_reducible apply updDrv_lasts | with_reducible apply releaseOpt_lasts | with_reducible apply Lasts.foldl | (intro _ _ _) | with_reducible apply Lasts.ite | split | with_reducible apply Lasts.free | (with_reducible apply Lasts.upd <;> first | with_reducible rfl | with_reducible exact fun w => w | with_reducible exact fun _ w => w | with_reducible exact Nat.le_refl _ | skip)
  all_goals first | rfl | exact fun w => w | exact fun _ w => w | exact Nat.le_refl _ | exact Nat.le_succ _ | exact fun _ => rfl | exact fun _ _ => rfl | skip

theorem armHwOff_lasts (ds : List Nat) {s : State} (h_ : Lasts b_ u_ s) : Lasts b_ u_ (armHwOff ds s) := by
  unfold armHwOff
  try dsimp only
  repeat' first | with_reducible assumption | with_reducible apply updDrv_lasts | with_reducible apply Lasts.foldl | (intro _ _ _) | with_reducible apply Lasts.ite | split | with_reducible apply Lasts.free | (with_reducible apply Lasts.upd <;> first | with_reducible rfl | with_reducible exact fun w => w | with_reducible exact fun _ w => w | with_reducible exact Nat.le_refl _ | skip)
  all_goals first | rfl | exact fun w => w | exact fun _ w => w | exact Nat.le_refl _ | exact Nat.le_succ _ | exact fun _ => rfl | exact fun _ _ => rfl | skip

theorem releasePermits_lasts (mask : BitVec 8) {s : State} (h_ : Lasts b_ u_ s) : Lasts b_ u_ (releasePermits mask s) := by
  unfold releasePermits
  try dsimp only
  repeat' first | with_reducible assumption | with_reducible apply armHwOff_lasts | with_reducible apply Lasts.foldl | (intro _ _ _) | with_reducible apply Lasts.ite | split | with_reducible apply Lasts.free | (with_reducible apply Lasts.upd <;> first | with_reducible rfl | with_reducible exact fun w => w | with_reducible exact fun _ w => w | with_reducible exact Nat.le_refl _ | skip)
  all_goals first | rfl | exact fun w => w | exact fun _ w => w | exact Nat.le_refl _ | exact Nat.le_succ _ | exact fun _ => rfl | exact fun _ _ => rfl | skip

theorem givePermits_lasts (n : Nat) {s : State} (h_ : Lasts b_ u_ s) : Lasts b_ u_ (givePermits n s) := by
  unfold givePermits
  try dsimp only
  repeat' first | with_reducible assumption | with_reducible apply Lasts.foldl | (intro _ _ _) | with_reducible apply Lasts.ite | split | with_reducible apply Lasts.free | (with_reducible apply Lasts.upd <;> first | with_reducible rfl | with_reducible exact fun w => w | with_reducible exact fun _ w => w | with_reducible exact Nat.le_refl _ | skip)
  all_goals first | rfl | exact fun w => w | exact fun _ w => w | exact Nat.le_refl _ | exact Nat.le_succ _ | exact fun _ => rfl | exact fun _ _ => rfl | skip

theorem beginPullIn_lasts (d : Nat) {s : State} (h_ : Lasts b_ u_ s) : Lasts b_ u_ (beginPullIn d s) := by
  unfold beginPullIn
  try dsimp only
  repeat' first | with_reducible assumption | with_reducible apply updDrv_lasts | with_reducible apply Lasts.foldl | (intro _ _ _) | with_reducible apply Lasts.ite | split | with_reducible apply Lasts.free | (with_reducible apply Lasts.upd <;> first | with_reducible rfl | with_reducible exact fun w => w | with_reducible exact fun _ w => w | with_reducible exact Nat.le_refl _ | skip)
  all_goals first | rfl | exact fun w => w | exact fun _ w => w | exact Nat.le_refl _ | exact Nat.le_succ _ | exact fun _ => rfl | exact fun _ _ => rfl | skip

theorem requestPullIn_lasts (ds : List Nat) (lowest : Nat) (host : Bool) {s : State} (h_ : Lasts b_ u_ s) : Lasts b_ u_ (requestPullIn ds lowest host s) := by
  unfold requestPullIn
  try dsimp only
  repeat' first | with_reducible assumption | with_reducible apply submit_lasts | with_reducible apply updDrv_lasts | with_reducible apply Lasts.foldl | (intro _ _ _) | with_reducible apply Lasts.ite | split | with_reducible apply Lasts.free | (with_reducible apply Lasts.upd <;> first | with_reducible rfl | with_reducible exact fun w => w | with_reducible exact fun _ w => w | with_reducible exact Nat.le_refl _ | skip)
  all_goals first | rfl | exact fun w => w | exact fun _ w => w | exact Nat.le_refl _ | exact Nat.le_succ _ | exact fun _ => rfl | exact fun _ _ => rfl | skip

theorem seqTo_lasts (n new : Nat) {s : State} (h_ : Lasts b_ u_ s) : Lasts b_ u_ (seqTo n new s) := by
  unfold seqTo
  try dsimp only
  repeat' first | with_reducible assumption | with_reducible apply event_lasts | with_reducible apply updSq_lasts | with_reducible apply Lasts.foldl | (intro _ _ _) | with_reducible apply Lasts.ite | split | with_reducible apply Lasts.free | (with_reducible apply Lasts.upd <;> first | with_reducible rfl | with_reducible exact fun w => w | with_reducible exact fun _ w => w | with_reducible exact Nat.le_refl _ | skip)
  all_goals first | rfl | exact fun w => w | exact fun _ w => w | exact Nat.le_refl _ | exact Nat.le_succ _ | exact fun _ => rfl | exact fun _ _ => rfl | skip

theorem tell_lasts (n code : Nat) {s : State} (h_ : Lasts b_ u_ s) : Lasts b_ u_ (tell n code s) := by
  unfold tell
  try dsimp only
  repeat' first | with_reducible assumption | with_reducible apply Lasts.foldl | (intro _ _ _) | with_reducible apply Lasts.ite | split | with_reducible apply Lasts.free | (with_reducible apply Lasts.upd <;> first | with_reducible rfl | with_reducible exact fun w => w | with_reducible exact fun _ w => w | with_reducible exact Nat.le_refl _ | skip)
  all_goals first | rfl | exact fun w => w | exact fun _ w => w | exact Nat.le_refl _ | exact Nat.le_succ _ | exact fun _ => rfl | exact fun _ _ => rfl | skip

theorem dropLeave_lasts (n : Nat) {s : State} (h_ : Lasts b_ u_ s) : Lasts b_ u_ (dropLeave n s) := by
  unfold dropLeave
  try dsimp only
  repeat' first | with_reducible assumption | with_reducible apply updLk_lasts | with_reducible apply releaseOpt_lasts | with_reducible apply Lasts.foldl | (intro _ _ _) | with_reducible apply Lasts.ite | split | with_reducible apply Lasts.free | (with_reducible apply Lasts.upd <;> first | with_reducible rfl | with_reducible exact fun w => w | with_reducible exact fun _ w => w | with_reducible exact Nat.le_refl _ | skip)
  all_goals first | rfl | exact fun w => w | exact fun _ w => w | exact Nat.le_refl _ | exact Nat.le_succ _ | exact fun _ => rfl | exact fun _ _ => rfl | skip

theorem withdrawAuth_lasts (n : Nat) {s : State} (h_ : Lasts b_ u_ s) : Lasts b_ u_ (withdrawAuth n s) := by
  unfold withdrawAuth
  try dsimp only
  repeat' first | with_reducible assumption | with_reducible apply Lasts.foldl | (intro _ _ _) | with_reducible apply Lasts.ite | split | with_reducible apply Lasts.free | (with_reducible apply Lasts.upd <;> first | with_reducible rfl | with_reducible exact fun w => w | with_reducible exact fun _ w => w | with_reducible exact Nat.le_refl _ | skip)
  all_goals first | rfl | exact fun w => w | exact fun _ w => w | exact Nat.le_refl _ | exact Nat.le_succ _ | exact fun _ => rfl | exact fun _ _ => rfl | skip

theorem linkEnd_lasts (n cause : Nat) {s : State} (h_ : Lasts b_ u_ s) : Lasts b_ u_ (linkEnd n cause s) := by
  unfold linkEnd
  try dsimp only
  repeat' first | with_reducible assumption | with_reducible apply dropLeave_lasts | with_reducible apply releaseOpt_lasts | with_reducible apply withdrawAuth_lasts | with_reducible apply event_lasts | with_reducible apply updLk_lasts | with_reducible apply Lasts.foldl | (intro _ _ _) | with_reducible apply Lasts.ite | split | with_reducible apply Lasts.free | (with_reducible apply Lasts.upd <;> first | with_reducible rfl | with_reducible exact fun w => w | with_reducible exact fun _ w => w | with_reducible exact Nat.le_refl _ | skip)
  all_goals first | rfl | exact fun w => w | exact fun _ w => w | exact Nat.le_refl _ | exact Nat.le_succ _ | exact fun _ => rfl | exact fun _ _ => rfl | skip

theorem modulesOff_lasts (n : Nat) {s : State} (h_ : Lasts b_ u_ s) : Lasts b_ u_ (modulesOff n s) := by
  unfold modulesOff
  try dsimp only
  repeat' first | with_reducible assumption | with_reducible apply Lasts.foldl | (intro _ _ _) | with_reducible apply Lasts.ite | split | with_reducible apply Lasts.free | (with_reducible apply Lasts.upd <;> first | with_reducible rfl | with_reducible exact fun w => w | with_reducible exact fun _ w => w | with_reducible exact Nat.le_refl _ | skip)
  all_goals first | rfl | exact fun w => w | exact fun _ w => w | exact Nat.le_refl _ | exact Nat.le_succ _ | exact fun _ => rfl | exact fun _ _ => rfl | skip

theorem busChanged_lasts (ack : Bool) {s : State} (h_ : Lasts b_ u_ s) : Lasts b_ u_ (busChanged ack s) := by
  unfold busChanged
  try dsimp only
  repeat' first | with_reducible assumption | with_reducible apply emit_lasts | with_reducible apply Lasts.foldl | (intro _ _ _) | with_reducible apply Lasts.ite | split | with_reducible apply Lasts.free | (with_reducible apply Lasts.upd <;> first | with_reducible rfl | with_reducible exact fun w => w | with_reducible exact fun _ w => w | with_reducible exact Nat.le_refl _ | skip)
  all_goals first | rfl | exact fun w => w | exact fun _ w => w | exact Nat.le_refl _ | exact Nat.le_succ _ | exact fun _ => rfl | exact fun _ _ => rfl | skip

theorem endJob_lasts (j : BusJob) {s : State} (h_ : Lasts b_ u_ s) : Lasts b_ u_ (endJob j s) := by
  unfold endJob
  try dsimp only
  repeat' first | with_reducible assumption | with_reducible apply busChanged_lasts | with_reducible apply Lasts.foldl | (intro _ _ _) | with_reducible apply Lasts.ite | split | with_reducible apply Lasts.free | (with_reducible apply Lasts.upd <;> first | with_reducible rfl | with_reducible exact fun w => w | with_reducible exact fun _ w => w | with_reducible exact Nat.le_refl _ | skip)
  all_goals first | rfl | exact fun w => w | exact fun _ w => w | exact Nat.le_refl _ | exact Nat.le_succ _ | exact fun _ => rfl | exact fun _ _ => rfl | skip

theorem dropJobs_lasts (n : Nat) {s : State} (h_ : Lasts b_ u_ s) : Lasts b_ u_ (dropJobs n s) := by
  unfold dropJobs
  try dsimp only
  repeat' first | with_reducible assumption | with_reducible apply driverOff_lasts | with_reducible apply endJob_lasts | with_reducible apply Lasts.foldl | (intro _ _ _) | with_reducible apply Lasts.ite | split | with_reducible apply Lasts.free | (with_reducible apply Lasts.upd <;> first | with_reducible rfl | with_reducible exact fun w => w | with_reducible exact fun _ w => w | with_reducible exact Nat.le_refl _ | skip)
  all_goals first | rfl | exact fun w => w | exact fun _ w => w | exact Nat.le_refl _ | exact Nat.le_succ _ | exact fun _ => rfl | exact fun _ _ => rfl | skip

theorem dropPullIn_lasts (ds : List Nat) {s : State} (h_ : Lasts b_ u_ s) : Lasts b_ u_ (dropPullIn ds s) := by
  unfold dropPullIn
  try dsimp only
  repeat' first | with_reducible assumption | with_reducible apply driverOff_lasts | with_reducible apply Lasts.foldl | (intro _ _ _) | with_reducible apply Lasts.ite | split | with_reducible apply Lasts.free | (with_reducible apply Lasts.upd <;> first | with_reducible rfl | with_reducible exact fun w => w | with_reducible exact fun _ w => w | with_reducible exact Nat.le_refl _ | skip)
  all_goals first | rfl | exact fun w => w | exact fun _ w => w | exact Nat.le_refl _ | exact Nat.le_succ _ | exact fun _ => rfl | exact fun _ _ => rfl | skip

theorem lockOutlet_lasts (n : Nat) {s : State} (h_ : Lasts b_ u_ s) : Lasts b_ u_ (lockOutlet n s) := by
  unfold lockOutlet
  try dsimp only
  repeat' first | with_reducible assumption | with_reducible apply modulesOff_lasts | with_reducible apply closeAt_lasts | with_reducible apply driverOff_lasts | with_reducible apply dropJobs_lasts | with_reducible apply setOwner_lasts | with_reducible apply updSq_lasts | with_reducible apply seqTo_lasts | with_reducible apply linkEnd_lasts | with_reducible apply Lasts.foldl | (intro _ _ _) | with_reducible apply Lasts.ite | split | with_reducible apply Lasts.free | (with_reducible apply Lasts.upd <;> first | with_reducible rfl | with_reducible exact fun w => w | with_reducible exact fun _ w => w | with_reducible exact Nat.le_refl _ | skip)
  all_goals first | rfl | exact fun w => w | exact fun _ w => w | exact Nat.le_refl _ | exact Nat.le_succ _ | exact fun _ => rfl | exact fun _ _ => rfl | skip

theorem weldDone_lasts (n : Nat) {s : State} (h_ : Lasts b_ u_ s) : Lasts b_ u_ (weldDone n s) := by
  unfold weldDone
  try dsimp only
  repeat' first | with_reducible assumption | with_reducible apply lockOutlet_lasts | with_reducible apply setOwner_lasts | with_reducible apply seqTo_lasts | with_reducible apply updSq_lasts | with_reducible apply linkEnd_lasts | with_reducible apply Lasts.foldl | (intro _ _ _) | with_reducible apply Lasts.ite | split | with_reducible apply Lasts.free | (with_reducible apply Lasts.upd <;> first | with_reducible rfl | with_reducible exact fun w => w | with_reducible exact fun _ w => w | with_reducible exact Nat.le_refl _ | skip)
  all_goals first | rfl | exact fun w => w | exact fun _ w => w | exact Nat.le_refl _ | exact Nat.le_succ _ | exact fun _ => rfl | exact fun _ _ => rfl | skip

theorem pairOpened_lasts (n : Nat) {s : State} (h_ : Lasts b_ u_ s) : Lasts b_ u_ (pairOpened n s) := by
  unfold pairOpened
  try dsimp only
  repeat' first | with_reducible assumption | with_reducible apply closeAt_lasts | with_reducible apply updSq_lasts | with_reducible apply driverOff_lasts | with_reducible apply weldDone_lasts | with_reducible apply seqTo_lasts | with_reducible apply Lasts.foldl | (intro _ _ _) | with_reducible apply Lasts.ite | split | with_reducible apply Lasts.free | (with_reducible apply Lasts.upd <;> first | with_reducible rfl | with_reducible exact fun w => w | with_reducible exact fun _ w => w | with_reducible exact Nat.le_refl _ | skip)
  all_goals first | rfl | exact fun w => w | exact fun _ w => w | exact Nat.le_refl _ | exact Nat.le_succ _ | exact fun _ => rfl | exact fun _ _ => rfl | skip

theorem openPair_lasts (n : Nat) {s : State} (h_ : Lasts b_ u_ s) : Lasts b_ u_ (openPair n s) := by
  unfold openPair
  try dsimp only
  repeat' first | with_reducible assumption | with_reducible apply modulesOff_lasts | with_reducible apply driverOff_lasts | with_reducible apply dropJobs_lasts | with_reducible apply pairOpened_lasts | with_reducible apply seqTo_lasts | with_reducible apply Lasts.foldl | (intro _ _ _) | with_reducible apply Lasts.ite | split | with_reducible apply Lasts.free | (with_reducible apply Lasts.upd <;> first | with_reducible rfl | with_reducible exact fun w => w | with_reducible exact fun _ w => w | with_reducible exact Nat.le_refl _ | skip)
  all_goals first | rfl | exact fun w => w | exact fun _ w => w | exact Nat.le_refl _ | exact Nat.le_succ _ | exact fun _ => rfl | exact fun _ _ => rfl | skip

theorem safeStopEvent_lasts (n result : Nat) (r : Ramp) {s : State} (h_ : Lasts b_ u_ s) : Lasts b_ u_ (safeStopEvent n result r s) := by
  unfold safeStopEvent
  try dsimp only
  repeat' first | with_reducible assumption | with_reducible apply event_lasts | with_reducible apply Lasts.foldl | (intro _ _ _) | with_reducible apply Lasts.ite | split | with_reducible apply Lasts.free | (with_reducible apply Lasts.upd <;> first | with_reducible rfl | with_reducible exact fun w => w | with_reducible exact fun _ w => w | with_reducible exact Nat.le_refl _ | skip)
  all_goals first | rfl | exact fun w => w | exact fun _ w => w | exact Nat.le_refl _ | exact Nat.le_succ _ | exact fun _ => rfl | exact fun _ _ => rfl | skip

theorem safeRampStop_lasts (n cause ms : Nat) {s : State} (h_ : Lasts b_ u_ s) : Lasts b_ u_ (safeRampStop n cause ms s) := by
  unfold safeRampStop
  try dsimp only
  repeat' first | with_reducible assumption | with_reducible apply openPair_lasts | with_reducible apply updSq_lasts | with_reducible apply seqTo_lasts | with_reducible apply Lasts.foldl | (intro _ _ _) | with_reducible apply Lasts.ite | split | with_reducible apply Lasts.free | (with_reducible apply Lasts.upd <;> first | with_reducible rfl | with_reducible exact fun w => w | with_reducible exact fun _ w => w | with_reducible exact Nat.le_refl _ | skip)
  all_goals first | rfl | exact fun w => w | exact fun _ w => w | exact Nat.le_refl _ | exact Nat.le_succ _ | exact fun _ => rfl | exact fun _ _ => rfl | skip

theorem failSequence_lasts (n cause : Nat) {s : State} (h_ : Lasts b_ u_ s) : Lasts b_ u_ (failSequence n cause s) := by
  unfold failSequence
  try dsimp only
  repeat' first | with_reducible assumption | with_reducible apply tell_lasts | with_reducible apply openPair_lasts | with_reducible apply updSq_lasts | with_reducible apply Lasts.foldl | (intro _ _ _) | with_reducible apply Lasts.ite | split | with_reducible apply Lasts.free | (with_reducible apply Lasts.upd <;> first | with_reducible rfl | with_reducible exact fun w => w | with_reducible exact fun _ w => w | with_reducible exact Nat.le_refl _ | skip)
  all_goals first | rfl | exact fun w => w | exact fun _ w => w | exact Nat.le_refl _ | exact Nat.le_succ _ | exact fun _ => rfl | exact fun _ _ => rfl | skip

theorem endAfterStop_lasts (n cause : Nat) {s : State} (h_ : Lasts b_ u_ s) : Lasts b_ u_ (endAfterStop n cause s) := by
  unfold endAfterStop
  try dsimp only
  repeat' first | with_reducible assumption | with_reducible apply updLk_lasts | with_reducible apply Lasts.foldl | (intro _ _ _) | with_reducible apply Lasts.ite | split | with_reducible apply Lasts.free | (with_reducible apply Lasts.upd <;> first | with_reducible rfl | with_reducible exact fun w => w | with_reducible exact fun _ w => w | with_reducible exact Nat.le_refl _ | skip)
  all_goals first | rfl | exact fun w => w | exact fun _ w => w | exact Nat.le_refl _ | exact Nat.le_succ _ | exact fun _ => rfl | exact fun _ _ => rfl | skip

theorem demandStop_lasts (n cause ms : Nat) {s : State} (h_ : Lasts b_ u_ s) : Lasts b_ u_ (demandStop n cause ms s) := by
  unfold demandStop
  try dsimp only
  repeat' first | with_reducible assumption | with_reducible apply linkEnd_lasts | with_reducible apply closeAt_lasts | with_reducible apply safeRampStop_lasts | with_reducible apply endAfterStop_lasts | with_reducible apply Lasts.foldl | (intro _ _ _) | with_reducible apply Lasts.ite | split | with_reducible apply Lasts.free | (with_reducible apply Lasts.upd <;> first | with_reducible rfl | with_reducible exact fun w => w | with_reducible exact fun _ w => w | with_reducible exact Nat.le_refl _ | skip)
  all_goals first | rfl | exact fun w => w | exact fun _ w => w | exact Nat.le_refl _ | exact Nat.le_succ _ | exact fun _ => rfl | exact fun _ _ => rfl | skip

theorem fastStop_lasts (n cause : Nat) (atOnce : Bool) {s : State} (h_ : Lasts b_ u_ s) : Lasts b_ u_ (fastStop n cause atOnce s) := by
  unfold fastStop
  try dsimp only
  repeat' first | with_reducible assumption | with_reducible apply modulesOff_lasts | with_reducible apply updSq_lasts | with_reducible apply releasePermits_lasts | with_reducible apply endAfterStop_lasts | with_reducible apply dropPullIn_lasts | with_reducible apply dropJobs_lasts | with_reducible apply driverOff_lasts | with_reducible apply armHwOff_lasts | with_reducible apply pairOpened_lasts | with_reducible apply event_lasts | with_reducible apply seqTo_lasts | with_reducible apply Lasts.foldl | (intro _ _ _) | with_reducible apply Lasts.ite | split | with_reducible apply Lasts.free | (with_reducible apply Lasts.upd <;> first | with_reducible rfl | with_reducible exact fun w => w | with_reducible exact fun _ w => w | with_reducible exact Nat.le_refl _ | skip)
  all_goals first | rfl | exact fun w => w | exact fun _ w => w | exact Nat.le_refl _ | exact Nat.le_succ _ | exact fun _ => rfl | exact fun _ _ => rfl | skip

theorem updCh_lasts (c : Nat) (f : Chan → Chan) {s : State} (h_ : Lasts b_ u_ s) : Lasts b_ u_ (updCh c f s) := by
  unfold updCh
  try dsimp only
  repeat' first | with_reducible assumption | with_reducible apply Lasts.foldl | (intro _ _ _) | with_reducible apply Lasts.ite | split | with_reducible apply Lasts.free | (with_reducible apply Lasts.upd <;> first | with_reducible rfl | with_reducible exact fun w => w | with_reducible exact fun _ w => w | with_reducible exact Nat.le_refl _ | skip)
  all_goals first | rfl | exact fun w => w | exact fun _ w => w | exact Nat.le_refl _ | exact Nat.le_succ _ | exact fun _ => rfl | exact fun _ _ => rfl | skip

theorem updBank_lasts (k : Nat) (f : Bank → Bank) {s : State} (h_ : Lasts b_ u_ s) : Lasts b_ u_ (updBank k f s) := by
  unfold updBank
  try dsimp only
  repeat' first | with_reducible assumption | with_reducible apply Lasts.foldl | (intro _ _ _) | with_reducible apply Lasts.ite | split | with_reducible apply Lasts.free | (with_reducible apply Lasts.upd <;> first | with_reducible rfl | with_reducible exact fun w => w | with_reducible exact fun _ w => w | with_reducible exact Nat.le_refl _ | skip)
  all_goals first | rfl | exact fun w => w | exact fun _ w => w | exact Nat.le_refl _ | exact Nat.le_succ _ | exact fun _ => rfl | exact fun _ _ => rfl | skip

theorem chTo_lasts (c new : Nat) {s : State} (h_ : Lasts b_ u_ s) : Lasts b_ u_ (chTo c new s) := by
  unfold chTo
  try dsimp only
  repeat' first | with_reducible assumption | with_reducible apply releaseOpt_lasts | with_reducible apply updCh_lasts | with_reducible apply updBank_lasts | with_reducible apply emit_lasts | with_reducible apply event_lasts | with_reducible apply Lasts.foldl | (intro _ _ _) | with_reducible apply Lasts.ite | split | with_reducible apply Lasts.free | (with_reducible apply Lasts.upd <;> first | with_reducible rfl | with_reducible exact fun w => w | with_reducible exact fun _ w => w | with_reducible exact Nat.le_refl _ | skip)
  all_goals first | rfl | exact fun w => w | exact fun _ w => w | exact Nat.le_refl _ | exact Nat.le_succ _ | exact fun _ => rfl | exact fun _ _ => rfl | skip

theorem channelsOff_lasts (cs : List Nat) {s : State} (h_ : Lasts b_ u_ s) : Lasts b_ u_ (channelsOff cs s) := by
  unfold channelsOff
  try dsimp only
  repeat' first | with_reducible assumption | with_reducible apply updCh_lasts | with_reducible apply chTo_lasts | with_reducible apply Lasts.foldl | (intro _ _ _) | with_reducible apply Lasts.ite | split | with_reducible apply Lasts.free | (with_reducible apply Lasts.upd <;> first | with_reducible rfl | with_reducible exact fun w => w | with_reducible exact fun _ w => w | with_reducible exact Nat.le_refl _ | skip)
  all_goals first | rfl | exact fun w => w | exact fun _ w => w | exact Nat.le_refl _ | exact Nat.le_succ _ | exact fun _ => rfl | exact fun _ _ => rfl | skip

theorem releasePulses_lasts  {s : State} (h_ : Lasts b_ u_ s) : Lasts b_ u_ (releasePulses s) := by
  unfold releasePulses
  try dsimp only
  repeat' first | with_reducible assumption | with_reducible apply Lasts.foldl | (intro _ _ _) | with_reducible apply Lasts.ite | split | with_reducible apply Lasts.free | (with_reducible apply Lasts.upd <;> first | with_reducible rfl | with_reducible exact fun w => w | with_reducible exact fun _ w => w | with_reducible exact Nat.le_refl _ | skip)
  all_goals first | rfl | exact fun w => w | exact fun _ w => w | exact Nat.le_refl _ | exact Nat.le_succ _ | exact fun _ => rfl | exact fun _ _ => rfl | skip

theorem safeSeq_lasts (n : Nat) {s : State} (h_ : Lasts b_ u_ s) : Lasts b_ u_ (safeSeq s n) := by
  unfold safeSeq
  try dsimp only
  repeat' first | with_reducible assumption | with_reducible apply modulesOff_lasts | with_reducible apply dropJobs_lasts | with_reducible apply seqTo_lasts | with_reducible apply updSq_lasts | with_reducible apply Lasts.foldl | (intro _ _ _) | with_reducible apply Lasts.ite | split | with_reducible apply Lasts.free | (with_reducible apply Lasts.upd <;> first | with_reducible rfl | with_reducible exact fun w => w | with_reducible exact fun _ w => w | with_reducible exact Nat.le_refl _ | skip)
  all_goals first | rfl | exact fun w => w | exact fun _ w => w | exact Nat.le_refl _ | exact Nat.le_succ _ | exact fun _ => rfl | exact fun _ _ => rfl | skip

theorem pilotsSafe_lasts  {s : State} (h_ : Lasts b_ u_ s) : Lasts b_ u_ (pilotsSafe s) := by
  unfold pilotsSafe
  try dsimp only
  repeat' first | with_reducible assumption | with_reducible apply Lasts.foldl | (intro _ _ _) | with_reducible apply Lasts.ite | split | with_reducible apply Lasts.free | (with_reducible apply Lasts.upd <;> first | with_reducible rfl | with_reducible exact fun w => w | with_reducible exact fun _ w => w | with_reducible exact Nat.le_refl _ | skip)
  all_goals first | rfl | exact fun w => w | exact fun _ w => w | exact Nat.le_refl _ | exact Nat.le_succ _ | exact fun _ => rfl | exact fun _ _ => rfl | skip

theorem lightSafe_lasts  {s : State} (h_ : Lasts b_ u_ s) : Lasts b_ u_ (lightSafe s) := by
  unfold lightSafe
  try dsimp only
  repeat' first | with_reducible assumption | with_reducible apply event_lasts | with_reducible apply Lasts.foldl | (intro _ _ _) | with_reducible apply Lasts.ite | split | with_reducible apply Lasts.free | (with_reducible apply Lasts.upd <;> first | with_reducible rfl | with_reducible exact fun w => w | with_reducible exact fun _ w => w | with_reducible exact Nat.le_refl _ | skip)
  all_goals first | rfl | exact fun w => w | exact fun _ w => w | exact Nat.le_refl _ | exact Nat.le_succ _ | exact fun _ => rfl | exact fun _ _ => rfl | skip

theorem outputsSafe_lasts  {s : State} (h_ : Lasts b_ u_ s) : Lasts b_ u_ (outputsSafe s) := by
  unfold outputsSafe
  try dsimp only
  repeat' first | with_reducible assumption | with_reducible apply dropPullIn_lasts | with_reducible apply armHwOff_lasts | with_reducible apply releasePulses_lasts | with_reducible apply lightSafe_lasts | with_reducible apply pilotsSafe_lasts | with_reducible apply channelsOff_lasts | with_reducible apply safeSeq_lasts | with_reducible apply Lasts.foldl | (intro _ _ _) | with_reducible apply Lasts.ite | split | with_reducible apply Lasts.free | (with_reducible apply Lasts.upd <;> first | with_reducible rfl | with_reducible exact fun w => w | with_reducible exact fun _ w => w | with_reducible exact Nat.le_refl _ | skip)
  all_goals first | rfl | exact fun w => w | exact fun _ w => w | exact Nat.le_refl _ | exact Nat.le_succ _ | exact fun _ => rfl | exact fun _ _ => rfl | skip

end Sys2Proof.Machine
end

