-- ==== Sys2Proof/Laws/LastsEnergy.lean ====
section
/-!
SUPPORT. What the operations of Machine/Energy.lean keep (the relation of Lasts).
-/

namespace Sys2Proof.Machine

set_option linter.all false

open Sys2Proof.Laws

variable {b_ : Bool} {u_ : State}

theorem countInvalid_lasts (n : Nat) {s : State} (h_ : Lasts b_ u_ s) : Lasts b_ u_ (countInvalid n s) := by
  unfold countInvalid
  try dsimp only
  repeat' first | with_reducible assumption | with_reducible apply updEng_lasts | with_reducible apply Lasts.foldl | (intro _ _ _) | with_reducible apply Lasts.ite | split | with_reducible apply Lasts.free | (with_reducible apply Lasts.upd <;> first | with_reducible rfl | with_reducible exact fun w => w | with_reducible exact fun _ w => w | with_reducible exact Nat.le_refl _ | skip)
  all_goals first | rfl | exact fun w => w | exact fun _ w => w | exact Nat.le_refl _ | exact Nat.le_succ _ | exact fun _ => rfl | exact fun _ _ => rfl | skip

theorem standingTrack_lasts (n : Nat) (flows : Bool) {s : State} (h_ : Lasts b_ u_ s) : Lasts b_ u_ (standingTrack n flows s) := by
  unfold standingTrack
  try dsimp only
  repeat' first | with_reducible assumption | with_reducible apply updEng_lasts | with_reducible apply Lasts.foldl | (intro _ _ _) | with_reducible apply Lasts.ite | split | with_reducible apply Lasts.free | (with_reducible apply Lasts.upd <;> first | with_reducible rfl | with_reducible exact fun w => w | with_reducible exact fun _ w => w | with_reducible exact Nat.le_refl _ | skip)
  all_goals first | rfl | exact fun w => w | exact fun _ w => w | exact Nat.le_refl _ | exact Nat.le_succ _ | exact fun _ => rfl | exact fun _ _ => rfl | skip

theorem periodPower_lasts (n : Nat) {s : State} (h_ : Lasts b_ u_ s) : Lasts b_ u_ (periodPower n s) := by
  unfold periodPower
  try dsimp only
  repeat' first | with_reducible assumption | with_reducible apply updEng_lasts | with_reducible apply setSessionFlag_lasts | with_reducible apply countInvalid_lasts | with_reducible apply standingTrack_lasts | with_reducible apply Lasts.foldl | (intro _ _ _) | with_reducible apply Lasts.ite | split | with_reducible apply Lasts.free | (with_reducible apply Lasts.upd <;> first | with_reducible rfl | with_reducible exact fun w => w | with_reducible exact fun _ w => w | with_reducible exact Nat.le_refl _ | skip)
  all_goals first | rfl | exact fun w => w | exact fun _ w => w | exact Nat.le_refl _ | exact Nat.le_succ _ | exact fun _ => rfl | exact fun _ _ => rfl | skip

theorem billDelivered_lasts (n : Nat) (p : Nat × Nat) (y0 y1 y2 : Sample) {s : State} (h_ : Lasts b_ u_ s) : Lasts b_ u_ (billDelivered n p y0 y1 y2 s) := by
  unfold billDelivered
  try dsimp only
  repeat' first | with_reducible assumption | with_reducible apply updEng_lasts | with_reducible apply Lasts.foldl | (intro _ _ _) | with_reducible apply Lasts.ite | split | with_reducible apply Lasts.free | (with_reducible apply Lasts.upd <;> first | with_reducible rfl | with_reducible exact fun w => w | with_reducible exact fun _ w => w | with_reducible exact Nat.le_refl _ | skip)
  all_goals first | rfl | exact fun w => w | exact fun _ w => w | exact Nat.le_refl _ | exact Nat.le_succ _ | exact fun _ => rfl | exact fun _ _ => rfl | skip

theorem billLost_lasts (n : Nat) (p : Nat × Nat) {s : State} (h_ : Lasts b_ u_ s) : Lasts b_ u_ (billLost n p s) := by
  unfold billLost
  try dsimp only
  repeat' first | with_reducible assumption | with_reducible apply updEng_lasts | with_reducible apply Lasts.foldl | (intro _ _ _) | with_reducible apply Lasts.ite | split | with_reducible apply Lasts.free | (with_reducible apply Lasts.upd <;> first | with_reducible rfl | with_reducible exact fun w => w | with_reducible exact fun _ w => w | with_reducible exact Nat.le_refl _ | skip)
  all_goals first | rfl | exact fun w => w | exact fun _ w => w | exact Nat.le_refl _ | exact Nat.le_succ _ | exact fun _ => rfl | exact fun _ _ => rfl | skip

theorem addTariff_lasts (n t : Nat) (imp : Bool) (e : Nat) {s : State} (h_ : Lasts b_ u_ s) : Lasts b_ u_ (addTariff n t imp e s) := by
  unfold addTariff
  try dsimp only
  repeat' first | with_reducible assumption | with_reducible apply Lasts.foldl | (intro _ _ _) | with_reducible apply Lasts.ite | split | with_reducible apply Lasts.free | (with_reducible apply Lasts.upd <;> first | with_reducible rfl | with_reducible exact fun w => w | with_reducible exact fun _ w => w | with_reducible exact Nat.le_refl _ | skip)
  all_goals first | rfl | exact fun w => w | exact fun _ w => w | exact Nat.le_refl _ | exact Nat.le_succ _ | exact fun _ => rfl | exact fun _ _ => rfl | skip

theorem addDemandU_lasts (u tick : Nat) (imp : Bool) (e : Nat) {s : State} (h_ : Lasts b_ u_ s) : Lasts b_ u_ (addDemandU u tick imp e s) := by
  unfold addDemandU
  try dsimp only
  repeat' first | with_reducible assumption | with_reducible apply Lasts.foldl | (intro _ _ _) | with_reducible apply Lasts.ite | split | with_reducible apply Lasts.free | (with_reducible apply Lasts.upd <;> first | with_reducible rfl | with_reducible exact fun w => w | with_reducible exact fun _ w => w | with_reducible exact Nat.le_refl _ | skip)
  all_goals first | rfl | exact fun w => w | exact fun _ w => w | exact Nat.le_refl _ | exact Nat.le_succ _ | exact fun _ => rfl | exact fun _ _ => rfl | skip

theorem addShare_lasts (n : Nat) (sh : Share) {s : State} (h_ : Lasts b_ u_ s) : Lasts b_ u_ (addShare n sh s) := by
  unfold addShare
  try dsimp only
  repeat' first | with_reducible assumption | with_reducible apply addTariff_lasts | with_reducible apply updEng_lasts | with_reducible apply updSession_lasts | with_reducible apply addDemandU_lasts | with_reducible apply Lasts.foldl | (intro _ _ _) | with_reducible apply Lasts.ite | split | with_reducible apply Lasts.free | (with_reducible apply Lasts.upd <;> first | with_reducible rfl | with_reducible exact fun w => w | with_reducible exact fun _ w => w | with_reducible exact Nat.le_refl _ | skip)
  all_goals first | rfl | exact fun w => w | exact fun _ w => w | exact Nat.le_refl _ | exact Nat.le_succ _ | exact fun _ => rfl | exact fun _ _ => rfl | skip

theorem runShare_lasts (n : Nat) {s : State} (h_ : Lasts b_ u_ s) : Lasts b_ u_ (runShare n s) := by
  unfold runShare
  try dsimp only
  repeat' first | with_reducible assumption | with_reducible apply addShare_lasts | with_reducible apply updEng_lasts | with_reducible apply Lasts.foldl | (intro _ _ _) | with_reducible apply Lasts.ite | split | with_reducible apply Lasts.free | (with_reducible apply Lasts.upd <;> first | with_reducible rfl | with_reducible exact fun w => w | with_reducible exact fun _ w => w | with_reducible exact Nat.le_refl _ | skip)
  all_goals first | rfl | exact fun w => w | exact fun _ w => w | exact Nat.le_refl _ | exact Nat.le_succ _ | exact fun _ => rfl | exact fun _ _ => rfl | skip

theorem energyUnit_lasts (n : Nat) {s : State} (h_ : Lasts b_ u_ s) : Lasts b_ u_ (energyUnit n s) := by
  unfold energyUnit
  try dsimp only
  repeat' first | with_reducible assumption | with_reducible apply runShare_lasts | with_reducible apply periodPower_lasts | with_reducible apply Lasts.foldl | (intro _ _ _) | with_reducible apply Lasts.ite | split | with_reducible apply Lasts.free | (with_reducible apply Lasts.upd <;> first | with_reducible rfl | with_reducible exact fun w => w | with_reducible exact fun _ w => w | with_reducible exact Nat.le_refl _ | skip)
  all_goals first | rfl | exact fun w => w | exact fun _ w => w | exact Nat.le_refl _ | exact Nat.le_succ _ | exact fun _ => rfl | exact fun _ _ => rfl | skip

theorem energyJob_lasts (n : Nat) {s : State} (h_ : Lasts b_ u_ s) : Lasts b_ u_ (energyJob n s) := by
  unfold energyJob
  try dsimp only
  repeat' first | with_reducible assumption | with_reducible apply updEng_lasts | with_reducible apply energyUnit_lasts | with_reducible apply Lasts.foldl | (intro _ _ _) | with_reducible apply Lasts.ite | split | with_reducible apply Lasts.free | (with_reducible apply Lasts.upd <;> first | with_reducible rfl | with_reducible exact fun w => w | with_reducible exact fun _ w => w | with_reducible exact Nat.le_refl _ | skip)
  all_goals first | rfl | exact fun w => w | exact fun _ w => w | exact Nat.le_refl _ | exact Nat.le_succ _ | exact fun _ => rfl | exact fun _ _ => rfl | skip

theorem updPls_lasts (k : Nat) (f : Pulse → Pulse) {s : State} (h_ : Lasts b_ u_ s) : Lasts b_ u_ (updPls k f s) := by
  unfold updPls
  try dsimp only
  repeat' first | with_reducible assumption | with_reducible apply Lasts.foldl | (intro _ _ _) | with_reducible apply Lasts.ite | split | with_reducible apply Lasts.free | (with_reducible apply Lasts.upd <;> first | with_reducible rfl | with_reducible exact fun w => w | with_reducible exact fun _ w => w | with_reducible exact Nat.le_refl _ | skip)
  all_goals first | rfl | exact fun w => w | exact fun _ w => w | exact Nat.le_refl _ | exact Nat.le_succ _ | exact fun _ => rfl | exact fun _ _ => rfl | skip

theorem pulseTick_lasts (k : Nat) {s : State} (h_ : Lasts b_ u_ s) : Lasts b_ u_ (pulseTick k s) := by
  unfold pulseTick
  try dsimp only
  repeat' first | with_reducible assumption | with_reducible apply updPls_lasts | with_reducible apply Lasts.foldl | (intro _ _ _) | with_reducible apply Lasts.ite | split | with_reducible apply Lasts.free | (with_reducible apply Lasts.upd <;> first | with_reducible rfl | with_reducible exact fun w => w | with_reducible exact fun _ w => w | with_reducible exact Nat.le_refl _ | skip)
  all_goals first | rfl | exact fun w => w | exact fun _ w => w | exact Nat.le_refl _ | exact Nat.le_succ _ | exact fun _ => rfl | exact fun _ _ => rfl | skip

theorem pulseAcc_lasts (k inc : Nat) {s : State} (h_ : Lasts b_ u_ s) : Lasts b_ u_ (pulseAcc k inc s) := by
  unfold pulseAcc
  try dsimp only
  repeat' first | with_reducible assumption | with_reducible apply updPls_lasts | with_reducible apply event_lasts | with_reducible apply Lasts.foldl | (intro _ _ _) | with_reducible apply Lasts.ite | split | with_reducible apply Lasts.free | (with_reducible apply Lasts.upd <;> first | with_reducible rfl | with_reducible exact fun w => w | with_reducible exact fun _ w => w | with_reducible exact Nat.le_refl _ | skip)
  all_goals first | rfl | exact fun w => w | exact fun _ w => w | exact Nat.le_refl _ | exact Nat.le_succ _ | exact fun _ => rfl | exact fun _ _ => rfl | skip

theorem pulseJob_lasts (before : List Nat) {s : State} (h_ : Lasts b_ u_ s) : Lasts b_ u_ (pulseJob before s) := by
  unfold pulseJob
  try dsimp only
  repeat' first | with_reducible assumption | with_reducible apply pulseAcc_lasts | with_reducible apply Lasts.foldl | (intro _ _ _) | with_reducible apply Lasts.ite | split | with_reducible apply Lasts.free | (with_reducible apply Lasts.upd <;> first | with_reducible rfl | with_reducible exact fun w => w | with_reducible exact fun _ w => w | with_reducible exact Nat.le_refl _ | skip)
  all_goals first | rfl | exact fun w => w | exact fun _ w => w | exact Nat.le_refl _ | exact Nat.le_succ _ | exact fun _ => rfl | exact fun _ _ => rfl | skip

theorem boundaryRetire_lasts  {s : State} (h_ : Lasts b_ u_ s) : Lasts b_ u_ (boundaryRetire s) := by
  unfold boundaryRetire
  try dsimp only
  repeat' first | with_reducible assumption | with_reducible apply metRetire_lasts | with_reducible apply Lasts.foldl | (intro _ _ _) | with_reducible apply Lasts.ite | split | with_reducible apply Lasts.free | (with_reducible apply Lasts.upd <;> first | with_reducible rfl | with_reducible exact fun w => w | with_reducible exact fun _ w => w | with_reducible exact Nat.le_refl _ | skip)
  all_goals first | rfl | exact fun w => w | exact fun _ w => w | exact Nat.le_refl _ | exact Nat.le_succ _ | exact fun _ => rfl | exact fun _ _ => rfl | skip

theorem writeSlot_lasts (c : Slot) {s : State} (h_ : Lasts b_ u_ s) : Lasts b_ u_ (writeSlot c s) := by
  unfold writeSlot
  try dsimp only
  repeat' first | with_reducible assumption | with_reducible apply boundaryRetire_lasts | with_reducible apply Lasts.foldl | (intro _ _ _) | with_reducible apply Lasts.ite | split | with_reducible apply Lasts.free | (with_reducible apply Lasts.upd <;> first | with_reducible rfl | with_reducible exact fun w => w | with_reducible exact fun _ w => w | with_reducible exact Nat.le_refl _ | skip)
  all_goals first | rfl | exact fun w => w | exact fun _ w => w | exact Nat.le_refl _ | exact Nat.le_succ _ | exact fun _ => rfl | exact fun _ _ => rfl | skip

theorem finishSave_lasts  {s : State} (h_ : Lasts b_ u_ s) : Lasts b_ u_ (finishSave s) := by
  unfold finishSave
  try dsimp only
  repeat' first | with_reducible assumption | with_reducible apply writeSlot_lasts | with_reducible apply Lasts.foldl | (intro _ _ _) | with_reducible apply Lasts.ite | split | with_reducible apply Lasts.free | (with_reducible apply Lasts.upd <;> first | with_reducible rfl | with_reducible exact fun w => w | with_reducible exact fun _ w => w | with_reducible exact Nat.le_refl _ | skip)
  all_goals first | rfl | exact fun w => w | exact fun _ w => w | exact Nat.le_refl _ | exact Nat.le_succ _ | exact fun _ => rfl | exact fun _ _ => rfl | skip

theorem finalSave_lasts  {s : State} (h_ : Lasts b_ u_ s) : Lasts b_ u_ (finalSave s) := by
  unfold finalSave
  try dsimp only
  repeat' first | with_reducible assumption | with_reducible apply finishSave_lasts | with_reducible apply writeSlot_lasts | with_reducible apply Lasts.foldl | (intro _ _ _) | with_reducible apply Lasts.ite | split | with_reducible apply Lasts.free | (with_reducible apply Lasts.upd <;> first | with_reducible rfl | with_reducible exact fun w => w | with_reducible exact fun _ w => w | with_reducible exact Nat.le_refl _ | skip)
  all_goals first | rfl | exact fun w => w | exact fun _ w => w | exact Nat.le_refl _ | exact Nat.le_succ _ | exact fun _ => rfl | exact fun _ _ => rfl | skip

theorem pipelineCut_lasts  {s : State} (h_ : Lasts b_ u_ s) : Lasts b_ u_ (pipelineCut s) := by
  unfold pipelineCut
  try dsimp only
  repeat' first | with_reducible assumption | with_reducible apply setSessionFlag_lasts | with_reducible apply updEng_lasts | with_reducible apply Lasts.foldl | (intro _ _ _) | with_reducible apply Lasts.ite | split | with_reducible apply Lasts.free | (with_reducible apply Lasts.upd <;> first | with_reducible rfl | with_reducible exact fun w => w | with_reducible exact fun _ w => w | with_reducible exact Nat.le_refl _ | skip)
  all_goals first | rfl | exact fun w => w | exact fun _ w => w | exact Nat.le_refl _ | exact Nat.le_succ _ | exact fun _ => rfl | exact fun _ _ => rfl | skip

theorem updTone_lasts (n : Nat) (f : ToneState → ToneState) {s : State} (h_ : Lasts b_ u_ s) : Lasts b_ u_ (updTone n f s) := by
  unfold updTone
  try dsimp only
  repeat' first | with_reducible assumption | with_reducible apply Lasts.foldl | (intro _ _ _) | with_reducible apply Lasts.ite | split | with_reducible apply Lasts.free | (with_reducible apply Lasts.upd <;> first | with_reducible rfl | with_reducible exact fun w => w | with_reducible exact fun _ w => w | with_reducible exact Nat.le_refl _ | skip)
  all_goals first | rfl | exact fun w => w | exact fun _ w => w | exact Nat.le_refl _ | exact Nat.le_succ _ | exact fun _ => rfl | exact fun _ _ => rfl | skip

theorem toneFrame_lasts  {s : State} (h_ : Lasts b_ u_ s) : Lasts b_ u_ (toneFrame s) := by
  unfold toneFrame
  try dsimp only
  repeat' first | with_reducible assumption | with_reducible apply Lasts.foldl | (intro _ _ _) | with_reducible apply Lasts.ite | split | with_reducible apply Lasts.free | (with_reducible apply Lasts.upd <;> first | with_reducible rfl | with_reducible exact fun w => w | with_reducible exact fun _ w => w | with_reducible exact Nat.le_refl _ | skip)
  all_goals first | rfl | exact fun w => w | exact fun _ w => w | exact Nat.le_refl _ | exact Nat.le_succ _ | exact fun _ => rfl | exact fun _ _ => rfl | skip

theorem witnessSuper_lasts (n : Nat) {s : State} (h_ : Lasts b_ u_ s) : Lasts b_ u_ (witnessSuper n s) := by
  unfold witnessSuper
  try dsimp only
  repeat' first | with_reducible assumption | with_reducible apply updEng_lasts | with_reducible apply setWarn_lasts | with_reducible apply Lasts.foldl | (intro _ _ _) | with_reducible apply Lasts.ite | split | with_reducible apply Lasts.free | (with_reducible apply Lasts.upd <;> first | with_reducible rfl | with_reducible exact fun w => w | with_reducible exact fun _ w => w | with_reducible exact Nat.le_refl _ | skip)
  all_goals first | rfl | exact fun w => w | exact fun _ w => w | exact Nat.le_refl _ | exact Nat.le_succ _ | exact fun _ => rfl | exact fun _ _ => rfl | skip

theorem toneWindow_lasts (n : Nat) (i q : Int) (ok : Bool) {s : State} (h_ : Lasts b_ u_ s) : Lasts b_ u_ (toneWindow n i q ok s) := by
  unfold toneWindow
  try dsimp only
  repeat' first | with_reducible assumption | with_reducible apply updTone_lasts | with_reducible apply setWarn_lasts | with_reducible apply Lasts.foldl | (intro _ _ _) | with_reducible apply Lasts.ite | split | with_reducible apply Lasts.free | (with_reducible apply Lasts.upd <;> first | with_reducible rfl | with_reducible exact fun w => w | with_reducible exact fun _ w => w | with_reducible exact Nat.le_refl _ | skip)
  all_goals first | rfl | exact fun w => w | exact fun _ w => w | exact Nat.le_refl _ | exact Nat.le_succ _ | exact fun _ => rfl | exact fun _ _ => rfl | skip

theorem energyJobs_lasts  {s : State} (h_ : Lasts b_ u_ s) : Lasts b_ u_ (energyJobs s) := by
  unfold energyJobs
  try dsimp only
  repeat' first | with_reducible assumption | with_reducible apply pulseJob_lasts | with_reducible apply energyJob_lasts | with_reducible apply Lasts.foldl | (intro _ _ _) | with_reducible apply Lasts.ite | split | with_reducible apply Lasts.free | (with_reducible apply Lasts.upd <;> first | with_reducible rfl | with_reducible exact fun w => w | with_reducible exact fun _ w => w | with_reducible exact Nat.le_refl _ | skip)
  all_goals first | rfl | exact fun w => w | exact fun _ w => w | exact Nat.le_refl _ | exact Nat.le_succ _ | exact fun _ => rfl | exact fun _ _ => rfl | skip

theorem pulsePads_lasts  {s : State} (h_ : Lasts b_ u_ s) : Lasts b_ u_ (pulsePads s) := by
  unfold pulsePads
  try dsimp only
  repeat' first | with_reducible assumption | with_reducible apply pulseTick_lasts | with_reducible apply Lasts.foldl | (intro _ _ _) | with_reducible apply Lasts.ite | split | with_reducible apply Lasts.free | (with_reducible apply Lasts.upd <;> first | with_reducible rfl | with_reducible exact fun w => w | with_reducible exact fun _ w => w | with_reducible exact Nat.le_refl _ | skip)
  all_goals first | rfl | exact fun w => w | exact fun _ w => w | exact Nat.le_refl _ | exact Nat.le_succ _ | exact fun _ => rfl | exact fun _ _ => rfl | skip

theorem takeSave_lasts  {s : State} (h_ : Lasts b_ u_ s) : Lasts b_ u_ (takeSave s) := by
  unfold takeSave
  try dsimp only
  repeat' first | with_reducible assumption | with_reducible apply Lasts.foldl | (intro _ _ _) | with_reducible apply Lasts.ite | split | with_reducible apply Lasts.free | (with_reducible apply Lasts.upd <;> first | with_reducible rfl | with_reducible exact fun w => w | with_reducible exact fun _ w => w | with_reducible exact Nat.le_refl _ | skip)
  all_goals first | rfl | exact fun w => w | exact fun _ w => w | exact Nat.le_refl _ | exact Nat.le_succ _ | exact fun _ => rfl | exact fun _ _ => rfl | skip

theorem energyFrame_lasts  {s : State} (h_ : Lasts b_ u_ s) : Lasts b_ u_ (energyFrame s) := by
  unfold energyFrame
  try dsimp only
  repeat' first | with_reducible assumption | with_reducible apply takeSave_lasts | with_reducible apply pulsePads_lasts | with_reducible apply energyJobs_lasts | with_reducible apply Lasts.foldl | (intro _ _ _) | with_reducible apply Lasts.ite | split | with_reducible apply Lasts.free | (with_reducible apply Lasts.upd <;> first | with_reducible rfl | with_reducible exact fun w => w | with_reducible exact fun _ w => w | with_reducible exact Nat.le_refl _ | skip)
  all_goals first | rfl | exact fun w => w | exact fun _ w => w | exact Nat.le_refl _ | exact Nat.le_succ _ | exact fun _ => rfl | exact fun _ _ => rfl | skip

end Sys2Proof.Machine
end

