-- ==== Sys2Proof/Laws/LastsFrontEnd.lean ====
section
/-!
SUPPORT. What the operations of Machine/FrontEnd.lean keep (the relation of Lasts).
-/

namespace Sys2Proof.Machine

set_option linter.all false

open Sys2Proof.Laws

variable {b_ : Bool} {u_ : State}

theorem metrologyFault_lasts (outs : List Nat) {s : State} (h_ : Lasts b_ u_ s) : Lasts b_ u_ (metrologyFault outs s) := by
  unfold metrologyFault
  try dsimp only
  repeat' first | with_reducible assumption | with_reducible apply demandStop_lasts | with_reducible apply Lasts.foldl | (intro _ _ _) | with_reducible apply Lasts.ite | split | with_reducible apply Lasts.free | (with_reducible apply Lasts.upd <;> first | with_reducible rfl | with_reducible exact fun w => w | with_reducible exact fun _ w => w | with_reducible exact Nat.le_refl _ | skip)
  all_goals first | rfl | exact fun w => w | exact fun _ w => w | exact Nat.le_refl _ | exact Nat.le_succ _ | exact fun _ => rfl | exact fun _ _ => rfl | skip

theorem updIns_lasts (n : Nat) (f : Insul → Insul) {s : State} (h_ : Lasts b_ u_ s) : Lasts b_ u_ (updIns n f s) := by
  unfold updIns
  try dsimp only
  repeat' first | with_reducible assumption | with_reducible apply Lasts.foldl | (intro _ _ _) | with_reducible apply Lasts.ite | split | with_reducible apply Lasts.free | (with_reducible apply Lasts.upd <;> first | with_reducible rfl | with_reducible exact fun w => w | with_reducible exact fun _ w => w | with_reducible exact Nat.le_refl _ | skip)
  all_goals first | rfl | exact fun w => w | exact fun _ w => w | exact Nat.le_refl _ | exact Nat.le_succ _ | exact fun _ => rfl | exact fun _ _ => rfl | skip

theorem proofLapses_lasts (n : Nat) {s : State} (h_ : Lasts b_ u_ s) : Lasts b_ u_ (proofLapses n s) := by
  unfold proofLapses
  try dsimp only
  repeat' first | with_reducible assumption | with_reducible apply updSq_lasts | with_reducible apply updIns_lasts | with_reducible apply Lasts.foldl | (intro _ _ _) | with_reducible apply Lasts.ite | split | with_reducible apply Lasts.free | (with_reducible apply Lasts.upd <;> first | with_reducible rfl | with_reducible exact fun w => w | with_reducible exact fun _ w => w | with_reducible exact Nat.le_refl _ | skip)
  all_goals first | rfl | exact fun w => w | exact fun _ w => w | exact Nat.le_refl _ | exact Nat.le_succ _ | exact fun _ => rfl | exact fun _ _ => rfl | skip

theorem invalidReaction_lasts (n x : Nat) {s : State} (h_ : Lasts b_ u_ s) : Lasts b_ u_ (invalidReaction n x s) := by
  unfold invalidReaction
  try dsimp only
  repeat' first | with_reducible assumption | with_reducible apply demandStop_lasts | with_reducible apply fastStop_lasts | with_reducible apply setWarn_lasts | with_reducible apply updEng_lasts | with_reducible apply proofLapses_lasts | with_reducible apply Lasts.foldl | (intro _ _ _) | with_reducible apply Lasts.ite | split | with_reducible apply Lasts.free | (with_reducible apply Lasts.upd <;> first | with_reducible rfl | with_reducible exact fun w => w | with_reducible exact fun _ w => w | with_reducible exact Nat.le_refl _ | skip)
  all_goals first | rfl | exact fun w => w | exact fun _ w => w | exact Nat.le_refl _ | exact Nat.le_succ _ | exact fun _ => rfl | exact fun _ _ => rfl | skip

theorem invalidate_lasts (n x cause : Nat) {s : State} (h_ : Lasts b_ u_ s) : Lasts b_ u_ (invalidate n x cause s) := by
  unfold invalidate
  try dsimp only
  repeat' first | with_reducible assumption | with_reducible apply updIn'_lasts | with_reducible apply event_lasts | with_reducible apply invalidReaction_lasts | with_reducible apply Lasts.foldl | (intro _ _ _) | with_reducible apply Lasts.ite | split | with_reducible apply Lasts.free | (with_reducible apply Lasts.upd <;> first | with_reducible rfl | with_reducible exact fun w => w | with_reducible exact fun _ w => w | with_reducible exact Nat.le_refl _ | skip)
  all_goals first | rfl | exact fun w => w | exact fun _ w => w | exact Nat.le_refl _ | exact Nat.le_succ _ | exact fun _ => rfl | exact fun _ _ => rfl | skip

theorem modPllLost_lasts (cycle : Nat) {s : State} (h_ : Lasts b_ u_ s) : Lasts b_ u_ (modPllLost cycle s) := by
  unfold modPllLost
  try dsimp only
  repeat' first | with_reducible assumption | with_reducible apply reportFrom_lasts | with_reducible apply invalidate_lasts | with_reducible apply metrologyFault_lasts | with_reducible apply Lasts.foldl | (intro _ _ _) | with_reducible apply Lasts.ite | split | with_reducible apply Lasts.free | (with_reducible apply Lasts.upd <;> first | with_reducible rfl | with_reducible exact fun w => w | with_reducible exact fun _ w => w | with_reducible exact Nat.le_refl _ | skip)
  all_goals first | rfl | exact fun w => w | exact fun _ w => w | exact Nat.le_refl _ | exact Nat.le_succ _ | exact fun _ => rfl | exact fun _ _ => rfl | skip

theorem decimatorReset_lasts (source : Nat) {s : State} (h_ : Lasts b_ u_ s) : Lasts b_ u_ (decimatorReset source s) := by
  unfold decimatorReset
  try dsimp only
  repeat' first | with_reducible assumption | with_reducible apply Lasts.foldl | (intro _ _ _) | with_reducible apply Lasts.ite | split | with_reducible apply Lasts.free | (with_reducible apply Lasts.upd <;> first | with_reducible rfl | with_reducible exact fun w => w | with_reducible exact fun _ w => w | with_reducible exact Nat.le_refl _ | skip)
  all_goals first | rfl | exact fun w => w | exact fun _ w => w | exact Nat.le_refl _ | exact Nat.le_succ _ | exact fun _ => rfl | exact fun _ _ => rfl | skip

theorem syncDone_lasts (result source : Nat) (ack : Bool) {s : State} (h_ : Lasts b_ u_ s) : Lasts b_ u_ (syncDone result source ack s) := by
  unfold syncDone
  try dsimp only
  repeat' first | with_reducible assumption | with_reducible apply emit_lasts | with_reducible apply Lasts.foldl | (intro _ _ _) | with_reducible apply Lasts.ite | split | with_reducible apply Lasts.free | (with_reducible apply Lasts.upd <;> first | with_reducible rfl | with_reducible exact fun w => w | with_reducible exact fun _ w => w | with_reducible exact Nat.le_refl _ | skip)
  all_goals first | rfl | exact fun w => w | exact fun _ w => w | exact Nat.le_refl _ | exact Nat.le_succ _ | exact fun _ => rfl | exact fun _ _ => rfl | skip

theorem captureTake_lasts (n x path : Nat) (y : Sample) {s : State} (h_ : Lasts b_ u_ s) : Lasts b_ u_ (captureTake n x path y s) := by
  unfold captureTake
  try dsimp only
  repeat' first | with_reducible assumption | with_reducible apply Lasts.foldl | (intro _ _ _) | with_reducible apply Lasts.ite | split | with_reducible apply Lasts.free | (with_reducible apply Lasts.upd <;> first | with_reducible rfl | with_reducible exact fun w => w | with_reducible exact fun _ w => w | with_reducible exact Nat.le_refl _ | skip)
  all_goals first | rfl | exact fun w => w | exact fun _ w => w | exact Nat.le_refl _ | exact Nat.le_succ _ | exact fun _ => rfl | exact fun _ _ => rfl | skip

theorem captureFast_lasts  {s : State} (h_ : Lasts b_ u_ s) : Lasts b_ u_ (captureFast s) := by
  unfold captureFast
  try dsimp only
  repeat' first | with_reducible assumption | with_reducible apply captureTake_lasts | with_reducible apply Lasts.foldl | (intro _ _ _) | with_reducible apply Lasts.ite | split | with_reducible apply Lasts.free | (with_reducible apply Lasts.upd <;> first | with_reducible rfl | with_reducible exact fun w => w | with_reducible exact fun _ w => w | with_reducible exact Nat.le_refl _ | skip)
  all_goals first | rfl | exact fun w => w | exact fun _ w => w | exact Nat.le_refl _ | exact Nat.le_succ _ | exact fun _ => rfl | exact fun _ _ => rfl | skip

theorem captureEnd_lasts (c : Capture) (result : Nat) (recs : List (Int × Nat × Nat)) (legal : Nat) {s : State} (h_ : Lasts b_ u_ s) : Lasts b_ u_ (captureEnd c result recs legal s) := by
  unfold captureEnd
  try dsimp only
  repeat' first | with_reducible assumption | with_reducible apply emit_lasts | with_reducible apply Lasts.foldl | (intro _ _ _) | with_reducible apply Lasts.ite | split | with_reducible apply Lasts.free | (with_reducible apply Lasts.upd <;> first | with_reducible rfl | with_reducible exact fun w => w | with_reducible exact fun _ w => w | with_reducible exact Nat.le_refl _ | skip)
  all_goals first | rfl | exact fun w => w | exact fun _ w => w | exact Nat.le_refl _ | exact Nat.le_succ _ | exact fun _ => rfl | exact fun _ _ => rfl | skip

theorem plumbTake_lasts (n : Nat) (y3 y4 : Sample) {s : State} (h_ : Lasts b_ u_ s) : Lasts b_ u_ (plumbTake n y3 y4 s) := by
  unfold plumbTake
  try dsimp only
  repeat' first | with_reducible assumption | with_reducible apply Lasts.foldl | (intro _ _ _) | with_reducible apply Lasts.ite | split | with_reducible apply Lasts.free | (with_reducible apply Lasts.upd <;> first | with_reducible rfl | with_reducible exact fun w => w | with_reducible exact fun _ w => w | with_reducible exact Nat.le_refl _ | skip)
  all_goals first | rfl | exact fun w => w | exact fun _ w => w | exact Nat.le_refl _ | exact Nat.le_succ _ | exact fun _ => rfl | exact fun _ _ => rfl | skip

theorem controlInput_lasts (n x j : Nat) {s : State} (h_ : Lasts b_ u_ s) : Lasts b_ u_ (controlInput n x j s) := by
  unfold controlInput
  try dsimp only
  repeat' first | with_reducible assumption | with_reducible apply captureTake_lasts | with_reducible apply updIn'_lasts | with_reducible apply Lasts.foldl | (intro _ _ _) | with_reducible apply Lasts.ite | split | with_reducible apply Lasts.free | (with_reducible apply Lasts.upd <;> first | with_reducible rfl | with_reducible exact fun w => w | with_reducible exact fun _ w => w | with_reducible exact Nat.le_refl _ | skip)
  all_goals first | rfl | exact fun w => w | exact fun _ w => w | exact Nat.le_refl _ | exact Nat.le_succ _ | exact fun _ => rfl | exact fun _ _ => rfl | skip

theorem fadeMade_lasts (path n j : Nat) {s : State} (h_ : Lasts b_ u_ s) : Lasts b_ u_ (fadeMade path n j s) := by
  unfold fadeMade
  try dsimp only
  repeat' first | with_reducible assumption | with_reducible apply Lasts.foldl | (intro _ _ _) | with_reducible apply Lasts.ite | split | with_reducible apply Lasts.free | (with_reducible apply Lasts.upd <;> first | with_reducible rfl | with_reducible exact fun w => w | with_reducible exact fun _ w => w | with_reducible exact Nat.le_refl _ | skip)
  all_goals first | rfl | exact fun w => w | exact fun _ w => w | exact Nat.le_refl _ | exact Nat.le_succ _ | exact fun _ => rfl | exact fun _ _ => rfl | skip

theorem controlOutlet_lasts (n j : Nat) {s : State} (h_ : Lasts b_ u_ s) : Lasts b_ u_ (controlOutlet n j s) := by
  unfold controlOutlet
  try dsimp only
  repeat' first | with_reducible assumption | with_reducible apply fadeMade_lasts | with_reducible apply controlInput_lasts | with_reducible apply Lasts.foldl | (intro _ _ _) | with_reducible apply Lasts.ite | split | with_reducible apply Lasts.free | (with_reducible apply Lasts.upd <;> first | with_reducible rfl | with_reducible exact fun w => w | with_reducible exact fun _ w => w | with_reducible exact Nat.le_refl _ | skip)
  all_goals first | rfl | exact fun w => w | exact fun _ w => w | exact Nat.le_refl _ | exact Nat.le_succ _ | exact fun _ => rfl | exact fun _ _ => rfl | skip

theorem captureDiag_lasts (n x : Nat) (y : Sample) {s : State} (h_ : Lasts b_ u_ s) : Lasts b_ u_ (captureDiag n x y s) := by
  unfold captureDiag
  try dsimp only
  repeat' first | with_reducible assumption | with_reducible apply captureTake_lasts | with_reducible apply Lasts.foldl | (intro _ _ _) | with_reducible apply Lasts.ite | split | with_reducible apply Lasts.free | (with_reducible apply Lasts.upd <;> first | with_reducible rfl | with_reducible exact fun w => w | with_reducible exact fun _ w => w | with_reducible exact Nat.le_refl _ | skip)
  all_goals first | rfl | exact fun w => w | exact fun _ w => w | exact Nat.le_refl _ | exact Nat.le_succ _ | exact fun _ => rfl | exact fun _ _ => rfl | skip

theorem diagPlace_lasts (n j q : Nat) {s : State} (h_ : Lasts b_ u_ s) : Lasts b_ u_ (diagPlace n j q s) := by
  unfold diagPlace
  try dsimp only
  repeat' first | with_reducible assumption | with_reducible apply updTone_lasts | with_reducible apply captureDiag_lasts | with_reducible apply Lasts.foldl | (intro _ _ _) | with_reducible apply Lasts.ite | split | with_reducible apply Lasts.free | (with_reducible apply Lasts.upd <;> first | with_reducible rfl | with_reducible exact fun w => w | with_reducible exact fun _ w => w | with_reducible exact Nat.le_refl _ | skip)
  all_goals first | rfl | exact fun w => w | exact fun _ w => w | exact Nat.le_refl _ | exact Nat.le_succ _ | exact fun _ => rfl | exact fun _ _ => rfl | skip

theorem diagOutlet_lasts (n j : Nat) {s : State} (h_ : Lasts b_ u_ s) : Lasts b_ u_ (diagOutlet n j s) := by
  unfold diagOutlet
  try dsimp only
  repeat' first | with_reducible assumption | with_reducible apply fadeMade_lasts | with_reducible apply diagPlace_lasts | with_reducible apply Lasts.foldl | (intro _ _ _) | with_reducible apply Lasts.ite | split | with_reducible apply Lasts.free | (with_reducible apply Lasts.upd <;> first | with_reducible rfl | with_reducible exact fun w => w | with_reducible exact fun _ w => w | with_reducible exact Nat.le_refl _ | skip)
  all_goals first | rfl | exact fun w => w | exact fun _ w => w | exact Nat.le_refl _ | exact Nat.le_succ _ | exact fun _ => rfl | exact fun _ _ => rfl | skip

theorem billingOutlet_lasts (n : Nat) (p : Nat × Nat) {s : State} (h_ : Lasts b_ u_ s) : Lasts b_ u_ (billingOutlet n p s) := by
  unfold billingOutlet
  try dsimp only
  repeat' first | with_reducible assumption | with_reducible apply billDelivered_lasts | with_reducible apply plumbTake_lasts | with_reducible apply captureTake_lasts | with_reducible apply Lasts.foldl | (intro _ _ _) | with_reducible apply Lasts.ite | split | with_reducible apply Lasts.free | (with_reducible apply Lasts.upd <;> first | with_reducible rfl | with_reducible exact fun w => w | with_reducible exact fun _ w => w | with_reducible exact Nat.le_refl _ | skip)
  all_goals first | rfl | exact fun w => w | exact fun _ w => w | exact Nat.le_refl _ | exact Nat.le_succ _ | exact fun _ => rfl | exact fun _ _ => rfl | skip

theorem engineFrame_lasts (e : Nat) {s : State} (h_ : Lasts b_ u_ s) : Lasts b_ u_ (engineFrame s e) := by
  unfold engineFrame
  try dsimp only
  repeat' first | with_reducible assumption | with_reducible apply periodStart_lasts | with_reducible apply handOver_lasts | with_reducible apply controlOutlet_lasts | with_reducible apply diagOutlet_lasts | with_reducible apply billingOutlet_lasts | with_reducible apply updEngine_lasts | with_reducible apply Lasts.foldl | (intro _ _ _) | with_reducible apply Lasts.ite | split | with_reducible apply Lasts.free | (with_reducible apply Lasts.upd <;> first | with_reducible rfl | with_reducible exact fun w => w | with_reducible exact fun _ w => w | with_reducible exact Nat.le_refl _ | skip)
  all_goals first | rfl | exact fun w => w | exact fun _ w => w | exact Nat.le_refl _ | exact Nat.le_succ _ | exact fun _ => rfl | exact fun _ _ => rfl | skip

theorem stuckFrame_lasts (m : List (Nat × Nat × BitVec 1024)) {s : State} (h_ : Lasts b_ u_ s) : Lasts b_ u_ (stuckFrame m s) := by
  unfold stuckFrame
  try dsimp only
  repeat' first | with_reducible assumption | with_reducible apply invalidate_lasts | with_reducible apply Lasts.foldl | (intro _ _ _) | with_reducible apply Lasts.ite | split | with_reducible apply Lasts.free | (with_reducible apply Lasts.upd <;> first | with_reducible rfl | with_reducible exact fun w => w | with_reducible exact fun _ w => w | with_reducible exact Nat.le_refl _ | skip)
  all_goals first | rfl | exact fun w => w | exact fun _ w => w | exact Nat.le_refl _ | exact Nat.le_succ _ | exact fun _ => rfl | exact fun _ _ => rfl | skip

theorem chainFrame_lasts (m : List (Nat × Nat × BitVec 1024)) {s : State} (h_ : Lasts b_ u_ s) : Lasts b_ u_ (chainFrame m s) := by
  unfold chainFrame
  try dsimp only
  repeat' first | with_reducible assumption | with_reducible apply engineFrame_lasts | with_reducible apply captureFast_lasts | with_reducible apply cellsFrame_lasts | with_reducible apply stuckFrame_lasts | with_reducible apply toneFrame_lasts | with_reducible apply Lasts.foldl | (intro _ _ _) | with_reducible apply Lasts.ite | split | with_reducible apply Lasts.free | (with_reducible apply Lasts.upd <;> first | with_reducible rfl | with_reducible exact fun w => w | with_reducible exact fun _ w => w | with_reducible exact Nat.le_refl _ | skip)
  all_goals first | rfl | exact fun w => w | exact fun _ w => w | exact Nat.le_refl _ | exact Nat.le_succ _ | exact fun _ => rfl | exact fun _ _ => rfl | skip

theorem loseValues_lasts (e : Nat) {s : State} (h_ : Lasts b_ u_ s) : Lasts b_ u_ (loseValues e s) := by
  unfold loseValues
  try dsimp only
  repeat' first | with_reducible assumption | with_reducible apply updIn'_lasts | with_reducible apply updEngine_lasts | with_reducible apply Lasts.foldl | (intro _ _ _) | with_reducible apply Lasts.ite | split | with_reducible apply Lasts.free | (with_reducible apply Lasts.upd <;> first | with_reducible rfl | with_reducible exact fun w => w | with_reducible exact fun _ w => w | with_reducible exact Nat.le_refl _ | skip)
  all_goals first | rfl | exact fun w => w | exact fun _ w => w | exact Nat.le_refl _ | exact Nat.le_succ _ | exact fun _ => rfl | exact fun _ _ => rfl | skip

theorem loseControl_lasts (e : Nat) {s : State} (h_ : Lasts b_ u_ s) : Lasts b_ u_ (loseControl e s) := by
  unfold loseControl
  try dsimp only
  repeat' first | with_reducible assumption | with_reducible apply updEngine_lasts | with_reducible apply Lasts.foldl | (intro _ _ _) | with_reducible apply Lasts.ite | split | with_reducible apply Lasts.free | (with_reducible apply Lasts.upd <;> first | with_reducible rfl | with_reducible exact fun w => w | with_reducible exact fun _ w => w | with_reducible exact Nat.le_refl _ | skip)
  all_goals first | rfl | exact fun w => w | exact fun _ w => w | exact Nat.le_refl _ | exact Nat.le_succ _ | exact fun _ => rfl | exact fun _ _ => rfl | skip

theorem loseBilling_lasts (e : Nat) {s : State} (h_ : Lasts b_ u_ s) : Lasts b_ u_ (loseBilling e s) := by
  unfold loseBilling
  try dsimp only
  repeat' first | with_reducible assumption | with_reducible apply billLost_lasts | with_reducible apply updEngine_lasts | with_reducible apply Lasts.foldl | (intro _ _ _) | with_reducible apply Lasts.ite | split | with_reducible apply Lasts.free | (with_reducible apply Lasts.upd <;> first | with_reducible rfl | with_reducible exact fun w => w | with_reducible exact fun _ w => w | with_reducible exact Nat.le_refl _ | skip)
  all_goals first | rfl | exact fun w => w | exact fun _ w => w | exact Nat.le_refl _ | exact Nat.le_succ _ | exact fun _ => rfl | exact fun _ _ => rfl | skip

end Sys2Proof.Machine
end

