-- ==== Sys2Proof/Laws/LastsHostPort.lean ====
section
/-!
SUPPORT. What the operations of Machine/HostPort.lean keep (the relation of Lasts).
-/

namespace Sys2Proof.Machine

set_option linter.all false

open Sys2Proof.Laws

variable {b_ : Bool} {u_ : State}

theorem countOverrun_lasts  {s : State} (h_ : Lasts b_ u_ s) : Lasts b_ u_ (countOverrun s) := by
  unfold countOverrun
  try dsimp only
  repeat' first | with_reducible assumption | with_reducible apply Lasts.foldl | (intro _ _ _) | with_reducible apply Lasts.ite | split | with_reducible apply Lasts.free | (with_reducible apply Lasts.upd <;> first | with_reducible rfl | with_reducible exact fun w => w | with_reducible exact fun _ w => w | with_reducible exact Nat.le_refl _ | skip)
  all_goals first | rfl | exact fun w => w | exact fun _ w => w | exact Nat.le_refl _ | exact Nat.le_succ _ | exact fun _ => rfl | exact fun _ _ => rfl | skip

theorem queueReply_lasts (r : Reply) {s : State} (h_ : Lasts b_ u_ s) : Lasts b_ u_ (queueReply r s) := by
  unfold queueReply
  try dsimp only
  repeat' first | with_reducible assumption | with_reducible apply Lasts.foldl | (intro _ _ _) | with_reducible apply Lasts.ite | split | with_reducible apply Lasts.free | (with_reducible apply Lasts.upd <;> first | with_reducible rfl | with_reducible exact fun w => w | with_reducible exact fun _ w => w | with_reducible exact Nat.le_refl _ | skip)
  all_goals first | rfl | exact fun w => w | exact fun _ w => w | exact Nat.le_refl _ | exact Nat.le_succ _ | exact fun _ => rfl | exact fun _ _ => rfl | skip

theorem turnAway_lasts (h : Hdr) (opcode : Nat) (st : Status) {s : State} (h_ : Lasts b_ u_ s) : Lasts b_ u_ (turnAway h opcode st s) := by
  unfold turnAway
  try dsimp only
  repeat' first | with_reducible assumption | with_reducible apply queueReply_lasts | with_reducible apply Lasts.foldl | (intro _ _ _) | with_reducible apply Lasts.ite | split | with_reducible apply Lasts.free | (with_reducible apply Lasts.upd <;> first | with_reducible rfl | with_reducible exact fun w => w | with_reducible exact fun _ w => w | with_reducible exact Nat.le_refl _ | skip)
  all_goals first | rfl | exact fun w => w | exact fun _ w => w | exact Nat.le_refl _ | exact Nat.le_succ _ | exact fun _ => rfl | exact fun _ _ => rfl | skip

theorem answer_lasts (h : Hdr) (opcode : Nat) (crc : BitVec 32) (st : Status) (data : List Byte) {s : State} (h_ : Lasts b_ u_ s) : Lasts b_ u_ (answer h opcode crc st data s) := by
  unfold answer
  try dsimp only
  repeat' first | with_reducible assumption | with_reducible apply queueReply_lasts | with_reducible apply Lasts.foldl | (intro _ _ _) | with_reducible apply Lasts.ite | split | with_reducible apply Lasts.free | (with_reducible apply Lasts.upd <;> first | with_reducible rfl | with_reducible exact fun w => w | with_reducible exact fun _ w => w | with_reducible exact Nat.le_refl _ | skip)
  all_goals first | rfl | exact fun w => w | exact fun _ w => w | exact Nat.le_refl _ | exact Nat.le_succ _ | exact fun _ => rfl | exact fun _ _ => rfl | skip

theorem touchRole_lasts  {s : State} (h_ : Lasts b_ u_ s) : Lasts b_ u_ (touchRole s) := by
  unfold touchRole
  try dsimp only
  repeat' first | with_reducible assumption | with_reducible apply Lasts.foldl | (intro _ _ _) | with_reducible apply Lasts.ite | split | with_reducible apply Lasts.free | (with_reducible apply Lasts.upd <;> first | with_reducible rfl | with_reducible exact fun w => w | with_reducible exact fun _ w => w | with_reducible exact Nat.le_refl _ | skip)
  all_goals first | rfl | exact fun w => w | exact fun _ w => w | exact Nat.le_refl _ | exact Nat.le_succ _ | exact fun _ => rfl | exact fun _ _ => rfl | skip

theorem finish_lasts (h : Hdr) (opcode : Nat) (crc : BitVec 32) (p : List Byte) {r : Result} (k : Lasts b_ u_ r.st) :
    Lasts b_ u_ (finish h opcode crc p r) := by
  unfold finish
  split
  · apply Lasts.upd k <;> first | rfl | exact fun w => w | exact Nat.le_refl _ | exact fun _ w => w
  · split
    · exact turnAway_lasts _ _ _ k
    · exact answer_lasts _ _ _ _ _ k

theorem spiShown_lasts (before : State) (dummy : Nat) (out : List Byte) {s : State} (h_ : Lasts b_ u_ s) : Lasts b_ u_ (spiShown before dummy out s) := by
  unfold spiShown
  try dsimp only
  repeat' first | with_reducible assumption | with_reducible apply Lasts.foldl | (intro _ _ _) | with_reducible apply Lasts.ite | split | with_reducible apply Lasts.free | (with_reducible apply Lasts.upd <;> first | with_reducible rfl | with_reducible exact fun w => w | with_reducible exact fun _ w => w | with_reducible exact Nat.le_refl _ | skip)
  all_goals first | rfl | exact fun w => w | exact fun _ w => w | exact Nat.le_refl _ | exact Nat.le_succ _ | exact fun _ => rfl | exact fun _ _ => rfl | skip

theorem codeShifted_lasts (before : State) {s : State} (h_ : Lasts b_ u_ s) : Lasts b_ u_ (codeShifted before s) := by
  unfold codeShifted
  with_reducible apply Lasts.ite
  · exact spiShown_lasts _ _ _ (by apply Lasts.upd h_ <;> first | rfl | exact fun w => w | exact Nat.le_refl _ | exact fun _ w => w)
  · exact h_

theorem unheard_lasts  {s : State} (h_ : Lasts b_ u_ s) : Lasts b_ u_ (unheard s) := by
  unfold unheard
  try dsimp only
  repeat' first | with_reducible assumption | with_reducible apply codeShifted_lasts | with_reducible apply Lasts.foldl | (intro _ _ _) | with_reducible apply Lasts.ite | split | with_reducible apply Lasts.free | (with_reducible apply Lasts.upd <;> first | with_reducible rfl | with_reducible exact fun w => w | with_reducible exact fun _ w => w | with_reducible exact Nat.le_refl _ | skip)
  all_goals first | rfl | exact fun w => w | exact fun _ w => w | exact Nat.le_refl _ | exact Nat.le_succ _ | exact fun _ => rfl | exact fun _ _ => rfl | skip

theorem packetTaken_lasts (h : Hdr) (opcode : Nat) (p : List Byte) {cmd : State → Cmd} {s : State} (k : Lasts b_ u_ s)
    (hr : ∀ t, Lasts b_ u_ t → Lasts b_ u_ (cmd t).run.st) : Lasts b_ u_ (packetTaken h opcode p cmd s) := by
  unfold packetTaken
  try dsimp only
  repeat' first | exact k | split | apply countOverrun_lasts | apply answer_lasts | apply turnAway_lasts | apply finish_lasts | apply hr | apply touchRole_lasts | apply queueReply_lasts | apply Lasts.upd
  all_goals first | rfl | exact fun w => w | exact Nat.le_refl _ | exact fun _ w => w

theorem acknowledge_lasts (seq : Byte) (code : Nat) {s : State} (h_ : Lasts b_ u_ s) : Lasts b_ u_ (acknowledge seq code s) := by
  unfold acknowledge
  try dsimp only
  repeat' first | with_reducible assumption | with_reducible apply appRetire_lasts | with_reducible apply Lasts.foldl | (intro _ _ _) | with_reducible apply Lasts.ite | split | with_reducible apply Lasts.free | (with_reducible apply Lasts.upd <;> first | with_reducible rfl | with_reducible exact fun w => w | with_reducible exact fun _ w => w | with_reducible exact Nat.le_refl _ | skip)
  all_goals first | rfl | exact fun w => w | exact fun _ w => w | exact Nat.le_refl _ | exact Nat.le_succ _ | exact fun _ => rfl | exact fun _ _ => rfl | skip

theorem ackTaken_lasts (seq flags : Byte) (code len : Nat) {s : State} (h_ : Lasts b_ u_ s) : Lasts b_ u_ (ackTaken seq flags code len s) := by
  unfold ackTaken
  try dsimp only
  repeat' first | with_reducible assumption | with_reducible apply countOverrun_lasts | with_reducible apply acknowledge_lasts | with_reducible apply Lasts.foldl | (intro _ _ _) | with_reducible apply Lasts.ite | split | with_reducible apply Lasts.free | (with_reducible apply Lasts.upd <;> first | with_reducible rfl | with_reducible exact fun w => w | with_reducible exact fun _ w => w | with_reducible exact Nat.le_refl _ | skip)
  all_goals first | rfl | exact fun w => w | exact fun _ w => w | exact Nat.le_refl _ | exact Nat.le_succ _ | exact fun _ => rfl | exact fun _ _ => rfl | skip

theorem hostCommand_lasts (h : Hdr) (opcode : Nat) (p : List Byte) {cmd : State → Cmd} {s : State} (k : Lasts b_ u_ s)
    (hr : ∀ t, Lasts b_ u_ t → Lasts b_ u_ (cmd t).run.st) : Lasts b_ u_ (hostCommand h opcode p cmd s) := by
  unfold hostCommand
  with_reducible apply Lasts.ite (unheard_lasts k)
  with_reducible apply codeShifted_lasts
  with_reducible exact Lasts.ite (ackTaken_lasts _ _ _ _ k) (packetTaken_lasts _ _ _ k hr)

theorem answerAwaiting_lasts (a : Awaiting) (st : Status) (data : List Byte) {s : State} (h_ : Lasts b_ u_ s) : Lasts b_ u_ (answerAwaiting a st data s) := by
  unfold answerAwaiting
  try dsimp only
  repeat' first | with_reducible assumption | with_reducible apply turnAway_lasts | with_reducible apply answer_lasts | with_reducible apply Lasts.foldl | (intro _ _ _) | with_reducible apply Lasts.ite | split | with_reducible apply Lasts.free | (with_reducible apply Lasts.upd <;> first | with_reducible rfl | with_reducible exact fun w => w | with_reducible exact fun _ w => w | with_reducible exact Nat.le_refl _ | skip)
  all_goals first | rfl | exact fun w => w | exact fun _ w => w | exact Nat.le_refl _ | exact Nat.le_succ _ | exact fun _ => rfl | exact fun _ _ => rfl | skip

theorem replyDelivered_lasts (r : Reply) {s : State} (h_ : Lasts b_ u_ s) : Lasts b_ u_ (replyDelivered r s) := by
  unfold replyDelivered
  try dsimp only
  repeat' first | with_reducible assumption | with_reducible apply Lasts.foldl | (intro _ _ _) | with_reducible apply Lasts.ite | split | with_reducible apply Lasts.free | (with_reducible apply Lasts.upd <;> first | with_reducible rfl | with_reducible exact fun w => w | with_reducible exact fun _ w => w | with_reducible exact Nat.le_refl _ | skip)
  all_goals first | rfl | exact fun w => w | exact fun _ w => w | exact Nat.le_refl _ | exact Nat.le_succ _ | exact fun _ => rfl | exact fun _ _ => rfl | skip

theorem reportLost_lasts  {s : State} (h_ : Lasts b_ u_ s) : Lasts b_ u_ (reportLost s) := by
  unfold reportLost
  try dsimp only
  repeat' first | with_reducible assumption | with_reducible apply event_lasts | with_reducible apply Lasts.foldl | (intro _ _ _) | with_reducible apply Lasts.ite | split | with_reducible apply Lasts.free | (with_reducible apply Lasts.upd <;> first | with_reducible rfl | with_reducible exact fun w => w | with_reducible exact fun _ w => w | with_reducible exact Nat.le_refl _ | skip)
  all_goals first | rfl | exact fun w => w | exact fun _ w => w | exact Nat.le_refl _ | exact Nat.le_succ _ | exact fun _ => rfl | exact fun _ _ => rfl | skip

theorem delivered_lasts (k : NextPacket) {s : State} (h_ : Lasts b_ u_ s) : Lasts b_ u_ (delivered k s) := by
  unfold delivered
  try dsimp only
  repeat' first | with_reducible assumption | with_reducible apply replyDelivered_lasts | with_reducible apply reportLost_lasts | with_reducible apply Lasts.foldl | (intro _ _ _) | with_reducible apply Lasts.ite | split | with_reducible apply Lasts.free | (with_reducible apply Lasts.upd <;> first | with_reducible rfl | with_reducible exact fun w => w | with_reducible exact fun _ w => w | with_reducible exact Nat.le_refl _ | skip)
  all_goals first | rfl | exact fun w => w | exact fun _ w => w | exact Nat.le_refl _ | exact Nat.le_succ _ | exact fun _ => rfl | exact fun _ _ => rfl | skip

theorem unknownTaken_lasts (h : Hdr) (opcode : Nat) (p : List Byte) {s : State} (h_ : Lasts b_ u_ s) : Lasts b_ u_ (unknownTaken h opcode p s) := by
  unfold unknownTaken
  try dsimp only
  repeat' first | with_reducible assumption | with_reducible apply countOverrun_lasts | with_reducible apply queueReply_lasts | with_reducible apply touchRole_lasts | with_reducible apply turnAway_lasts | with_reducible apply Lasts.foldl | (intro _ _ _) | with_reducible apply Lasts.ite | split | with_reducible apply Lasts.free | (with_reducible apply Lasts.upd <;> first | with_reducible rfl | with_reducible exact fun w => w | with_reducible exact fun _ w => w | with_reducible exact Nat.le_refl _ | skip)
  all_goals first | rfl | exact fun w => w | exact fun _ w => w | exact Nat.le_refl _ | exact Nat.le_succ _ | exact fun _ => rfl | exact fun _ _ => rfl | skip

theorem crcErrorTaken_lasts (seq : Byte) {s : State} (h_ : Lasts b_ u_ s) : Lasts b_ u_ (crcErrorTaken seq s) := by
  unfold crcErrorTaken
  try dsimp only
  repeat' first | with_reducible assumption | with_reducible apply countOverrun_lasts | with_reducible apply queueReply_lasts | with_reducible apply Lasts.foldl | (intro _ _ _) | with_reducible apply Lasts.ite | split | with_reducible apply Lasts.free | (with_reducible apply Lasts.upd <;> first | with_reducible rfl | with_reducible exact fun w => w | with_reducible exact fun _ w => w | with_reducible exact Nat.le_refl _ | skip)
  all_goals first | rfl | exact fun w => w | exact fun _ w => w | exact Nat.le_refl _ | exact Nat.le_succ _ | exact fun _ => rfl | exact fun _ _ => rfl | skip

theorem writeDiscarded_lasts (sync : Byte) (len received : Nat) {s : State} (h_ : Lasts b_ u_ s) : Lasts b_ u_ (writeDiscarded sync len received s) := by
  unfold writeDiscarded
  try dsimp only
  repeat' first | with_reducible assumption | with_reducible apply countOverrun_lasts | with_reducible apply Lasts.foldl | (intro _ _ _) | with_reducible apply Lasts.ite | split | with_reducible apply Lasts.free | (with_reducible apply Lasts.upd <;> first | with_reducible rfl | with_reducible exact fun w => w | with_reducible exact fun _ w => w | with_reducible exact Nat.le_refl _ | skip)
  all_goals first | rfl | exact fun w => w | exact fun _ w => w | exact Nat.le_refl _ | exact Nat.le_succ _ | exact fun _ => rfl | exact fun _ _ => rfl | skip

end Sys2Proof.Machine
end

