-- ==== Sys2Proof/Laws/LastsLoads.lean ====
section
/-!
SUPPORT. What the operations of Machine/Loads.lean keep (the relation of Lasts).
-/

namespace Sys2Proof.Machine

set_option linter.all false

open Sys2Proof.Laws

variable {b_ : Bool} {u_ : State}

theorem requestLoad_lasts (c : Nat) {s : State} (h_ : Lasts b_ u_ s) : Lasts b_ u_ (requestLoad c s) := by
  unfold requestLoad
  try dsimp only
  repeat' first | with_reducible assumption | with_reducible apply updCh_lasts | with_reducible apply submit_lasts | with_reducible apply Lasts.foldl | (intro _ _ _) | with_reducible apply Lasts.ite | split | with_reducible apply Lasts.free | (with_reducible apply Lasts.upd <;> first | with_reducible rfl | with_reducible exact fun w => w | with_reducible exact fun _ w => w | with_reducible exact Nat.le_refl _ | skip)
  all_goals first | rfl | exact fun w => w | exact fun _ w => w | exact Nat.le_refl _ | exact Nat.le_succ _ | exact fun _ => rfl | exact fun _ _ => rfl | skip

theorem serveBank_lasts (k : Nat) {s : State} (h_ : Lasts b_ u_ s) : Lasts b_ u_ (serveBank k s) := by
  unfold serveBank
  try dsimp only
  repeat' first | with_reducible assumption | with_reducible apply requestLoad_lasts | with_reducible apply updBank_lasts | with_reducible apply Lasts.foldl | (intro _ _ _) | with_reducible apply Lasts.ite | split | with_reducible apply Lasts.free | (with_reducible apply Lasts.upd <;> first | with_reducible rfl | with_reducible exact fun w => w | with_reducible exact fun _ w => w | with_reducible exact Nat.le_refl _ | skip)
  all_goals first | rfl | exact fun w => w | exact fun _ w => w | exact Nat.le_refl _ | exact Nat.le_succ _ | exact fun _ => rfl | exact fun _ _ => rfl | skip

theorem joinQueue_lasts (c : Nat) (auto : Bool) {s : State} (h_ : Lasts b_ u_ s) : Lasts b_ u_ (joinQueue c auto s) := by
  unfold joinQueue
  try dsimp only
  repeat' first | with_reducible assumption | with_reducible apply chTo_lasts | with_reducible apply updCh_lasts | with_reducible apply serveBank_lasts | with_reducible apply updBank_lasts | with_reducible apply Lasts.foldl | (intro _ _ _) | with_reducible apply Lasts.ite | split | with_reducible apply Lasts.free | (with_reducible apply Lasts.upd <;> first | with_reducible rfl | with_reducible exact fun w => w | with_reducible exact fun _ w => w | with_reducible exact Nat.le_refl _ | skip)
  all_goals first | rfl | exact fun w => w | exact fun _ w => w | exact Nat.le_refl _ | exact Nat.le_succ _ | exact fun _ => rfl | exact fun _ _ => rfl | skip

theorem loadStart_lasts (c id : Nat) {s : State} (h_ : Lasts b_ u_ s) : Lasts b_ u_ (loadStart c id s) := by
  unfold loadStart
  try dsimp only
  repeat' first | with_reducible assumption | with_reducible apply updCh_lasts | with_reducible apply chTo_lasts | with_reducible apply beginOp_lasts | with_reducible apply Lasts.foldl | (intro _ _ _) | with_reducible apply Lasts.ite | split | with_reducible apply Lasts.free | (with_reducible apply Lasts.upd <;> first | with_reducible rfl | with_reducible exact fun w => w | with_reducible exact fun _ w => w | with_reducible exact Nat.le_refl _ | skip)
  all_goals first | rfl | exact fun w => w | exact fun _ w => w | exact Nat.le_refl _ | exact Nat.le_succ _ | exact fun _ => rfl | exact fun _ _ => rfl | skip

theorem loadRefused_lasts (c id : Nat) {s : State} (h_ : Lasts b_ u_ s) : Lasts b_ u_ (loadRefused c id s) := by
  unfold loadRefused
  try dsimp only
  repeat' first | with_reducible assumption | with_reducible apply serveBank_lasts | with_reducible apply updCh_lasts | with_reducible apply chTo_lasts | with_reducible apply Lasts.foldl | (intro _ _ _) | with_reducible apply Lasts.ite | split | with_reducible apply Lasts.free | (with_reducible apply Lasts.upd <;> first | with_reducible rfl | with_reducible exact fun w => w | with_reducible exact fun _ w => w | with_reducible exact Nat.le_refl _ | skip)
  all_goals first | rfl | exact fun w => w | exact fun _ w => w | exact Nat.le_refl _ | exact Nat.le_succ _ | exact fun _ => rfl | exact fun _ _ => rfl | skip

theorem bankEvent_lasts (k cause st vbb : Nat) {s : State} (h_ : Lasts b_ u_ s) : Lasts b_ u_ (bankEvent k cause st vbb s) := by
  unfold bankEvent
  try dsimp only
  repeat' first | with_reducible assumption | with_reducible apply event_lasts | with_reducible apply Lasts.foldl | (intro _ _ _) | with_reducible apply Lasts.ite | split | with_reducible apply Lasts.free | (with_reducible apply Lasts.upd <;> first | with_reducible rfl | with_reducible exact fun w => w | with_reducible exact fun _ w => w | with_reducible exact Nat.le_refl _ | skip)
  all_goals first | rfl | exact fun w => w | exact fun _ w => w | exact Nat.le_refl _ | exact Nat.le_succ _ | exact fun _ => rfl | exact fun _ _ => rfl | skip

theorem overReleased_lasts (c : Nat) {s : State} (h_ : Lasts b_ u_ s) : Lasts b_ u_ (overReleased c s) := by
  unfold overReleased
  try dsimp only
  repeat' first | with_reducible assumption | with_reducible apply bankEvent_lasts | with_reducible apply updBank_lasts | with_reducible apply Lasts.foldl | (intro _ _ _) | with_reducible apply Lasts.ite | split | with_reducible apply Lasts.free | (with_reducible apply Lasts.upd <;> first | with_reducible rfl | with_reducible exact fun w => w | with_reducible exact fun _ w => w | with_reducible exact Nat.le_refl _ | skip)
  all_goals first | rfl | exact fun w => w | exact fun _ w => w | exact Nat.le_refl _ | exact Nat.le_succ _ | exact fun _ => rfl | exact fun _ _ => rfl | skip

theorem channelFault_lasts (c cause ma : Nat) (temp : Int) {s : State} (h_ : Lasts b_ u_ s) : Lasts b_ u_ (channelFault c cause ma temp s) := by
  unfold channelFault
  try dsimp only
  repeat' first | with_reducible assumption | with_reducible apply updCh_lasts | with_reducible apply event_lasts | with_reducible apply serveBank_lasts | with_reducible apply chTo_lasts | with_reducible apply Lasts.foldl | (intro _ _ _) | with_reducible apply Lasts.ite | split | with_reducible apply Lasts.free | (with_reducible apply Lasts.upd <;> first | with_reducible rfl | with_reducible exact fun w => w | with_reducible exact fun _ w => w | with_reducible exact Nat.le_refl _ | skip)
  all_goals first | rfl | exact fun w => w | exact fun _ w => w | exact Nat.le_refl _ | exact Nat.le_succ _ | exact fun _ => rfl | exact fun _ _ => rfl | skip

theorem holdBank_lasts (k : Nat) {s : State} (h_ : Lasts b_ u_ s) : Lasts b_ u_ (holdBank k s) := by
  unfold holdBank
  try dsimp only
  repeat' first | with_reducible assumption | with_reducible apply updBank_lasts | with_reducible apply chTo_lasts | with_reducible apply updCh_lasts | with_reducible apply Lasts.foldl | (intro _ _ _) | with_reducible apply Lasts.ite | split | with_reducible apply Lasts.free | (with_reducible apply Lasts.upd <;> first | with_reducible rfl | with_reducible exact fun w => w | with_reducible exact fun _ w => w | with_reducible exact Nat.le_refl _ | skip)
  all_goals first | rfl | exact fun w => w | exact fun _ w => w | exact Nat.le_refl _ | exact Nat.le_succ _ | exact fun _ => rfl | exact fun _ _ => rfl | skip

theorem releaseBank_lasts (k : Nat) {s : State} (h_ : Lasts b_ u_ s) : Lasts b_ u_ (releaseBank k s) := by
  unfold releaseBank
  try dsimp only
  repeat' first | with_reducible assumption | with_reducible apply joinQueue_lasts | with_reducible apply chTo_lasts | with_reducible apply Lasts.foldl | (intro _ _ _) | with_reducible apply Lasts.ite | split | with_reducible apply Lasts.free | (with_reducible apply Lasts.upd <;> first | with_reducible rfl | with_reducible exact fun w => w | with_reducible exact fun _ w => w | with_reducible exact Nat.le_refl _ | skip)
  all_goals first | rfl | exact fun w => w | exact fun _ w => w | exact Nat.le_refl _ | exact Nat.le_succ _ | exact fun _ => rfl | exact fun _ _ => rfl | skip

theorem loadDeferred_lasts (a : Awaiting) (c : Nat) {s : State} (h_ : Lasts b_ u_ s) : Lasts b_ u_ (loadDeferred a c s) := by
  unfold loadDeferred
  try dsimp only
  repeat' first | with_reducible assumption | with_reducible apply answerAwaiting_lasts | with_reducible apply updCh_lasts | with_reducible apply Lasts.foldl | (intro _ _ _) | with_reducible apply Lasts.ite | split | with_reducible apply Lasts.free | (with_reducible apply Lasts.upd <;> first | with_reducible rfl | with_reducible exact fun w => w | with_reducible exact fun _ w => w | with_reducible exact Nat.le_refl _ | skip)
  all_goals first | rfl | exact fun w => w | exact fun _ w => w | exact Nat.le_refl _ | exact Nat.le_succ _ | exact fun _ => rfl | exact fun _ _ => rfl | skip

theorem withdrawOn_lasts (c : Nat) {s : State} (h_ : Lasts b_ u_ s) : Lasts b_ u_ (withdrawOn c s) := by
  unfold withdrawOn
  try dsimp only
  repeat' first | with_reducible assumption | with_reducible apply updCh_lasts | with_reducible apply releaseOpt_lasts | with_reducible apply serveBank_lasts | with_reducible apply updBank_lasts | with_reducible apply Lasts.foldl | (intro _ _ _) | with_reducible apply Lasts.ite | split | with_reducible apply Lasts.free | (with_reducible apply Lasts.upd <;> first | with_reducible rfl | with_reducible exact fun w => w | with_reducible exact fun _ w => w | with_reducible exact Nat.le_refl _ | skip)
  all_goals first | rfl | exact fun w => w | exact fun _ w => w | exact Nat.le_refl _ | exact Nat.le_succ _ | exact fun _ => rfl | exact fun _ _ => rfl | skip

theorem loadsCoreReset_lasts  {s : State} (h_ : Lasts b_ u_ s) : Lasts b_ u_ (loadsCoreReset s) := by
  unfold loadsCoreReset
  try dsimp only
  repeat' first | with_reducible assumption | with_reducible apply withdrawOn_lasts | with_reducible apply updCh_lasts | with_reducible apply Lasts.foldl | (intro _ _ _) | with_reducible apply Lasts.ite | split | with_reducible apply Lasts.free | (with_reducible apply Lasts.upd <;> first | with_reducible rfl | with_reducible exact fun w => w | with_reducible exact fun _ w => w | with_reducible exact Nat.le_refl _ | skip)
  all_goals first | rfl | exact fun w => w | exact fun _ w => w | exact Nat.le_refl _ | exact Nat.le_succ _ | exact fun _ => rfl | exact fun _ _ => rfl | skip

theorem isolateChannel_lasts (c : Nat) {s : State} (h_ : Lasts b_ u_ s) : Lasts b_ u_ (isolateChannel c s) := by
  unfold isolateChannel
  try dsimp only
  repeat' first | with_reducible assumption | with_reducible apply serveBank_lasts | with_reducible apply chTo_lasts | with_reducible apply updCh_lasts | with_reducible apply overReleased_lasts | with_reducible apply Lasts.foldl | (intro _ _ _) | with_reducible apply Lasts.ite | split | with_reducible apply Lasts.free | (with_reducible apply Lasts.upd <;> first | with_reducible rfl | with_reducible exact fun w => w | with_reducible exact fun _ w => w | with_reducible exact Nat.le_refl _ | skip)
  all_goals first | rfl | exact fun w => w | exact fun _ w => w | exact Nat.le_refl _ | exact Nat.le_succ _ | exact fun _ => rfl | exact fun _ _ => rfl | skip

theorem isolateBank_lasts (k : Nat) {s : State} (h_ : Lasts b_ u_ s) : Lasts b_ u_ (isolateBank k s) := by
  unfold isolateBank
  try dsimp only
  repeat' first | with_reducible assumption | with_reducible apply channelsOff_lasts | with_reducible apply updBank_lasts | with_reducible apply Lasts.foldl | (intro _ _ _) | with_reducible apply Lasts.ite | split | with_reducible apply Lasts.free | (with_reducible apply Lasts.upd <;> first | with_reducible rfl | with_reducible exact fun w => w | with_reducible exact fun _ w => w | with_reducible exact Nat.le_refl _ | skip)
  all_goals first | rfl | exact fun w => w | exact fun _ w => w | exact Nat.le_refl _ | exact Nat.le_succ _ | exact fun _ => rfl | exact fun _ _ => rfl | skip

theorem loadReading_lasts (l : LoadIn) {s : State} (h_ : Lasts b_ u_ s) : Lasts b_ u_ (loadReading l s) := by
  unfold loadReading
  try dsimp only
  repeat' first | with_reducible assumption | with_reducible apply updCh_lasts | with_reducible apply Lasts.foldl | (intro _ _ _) | with_reducible apply Lasts.ite | split | with_reducible apply Lasts.free | (with_reducible apply Lasts.upd <;> first | with_reducible rfl | with_reducible exact fun w => w | with_reducible exact fun _ w => w | with_reducible exact Nat.le_refl _ | skip)
  all_goals first | rfl | exact fun w => w | exact fun _ w => w | exact Nat.le_refl _ | exact Nat.le_succ _ | exact fun _ => rfl | exact fun _ _ => rfl | skip

theorem loadsFrame_lasts (m : FrameIn) {s : State} (h_ : Lasts b_ u_ s) : Lasts b_ u_ (loadsFrame m s) := by
  unfold loadsFrame
  try dsimp only
  repeat' first | with_reducible assumption | with_reducible apply loadReading_lasts | with_reducible apply updBank_lasts | with_reducible apply Lasts.foldl | (intro _ _ _) | with_reducible apply Lasts.ite | split | with_reducible apply Lasts.free | (with_reducible apply Lasts.upd <;> first | with_reducible rfl | with_reducible exact fun w => w | with_reducible exact fun _ w => w | with_reducible exact Nat.le_refl _ | skip)
  all_goals first | rfl | exact fun w => w | exact fun _ w => w | exact Nat.le_refl _ | exact Nat.le_succ _ | exact fun _ => rfl | exact fun _ _ => rfl | skip

theorem loadsSuper_lasts  {s : State} (h_ : Lasts b_ u_ s) : Lasts b_ u_ (loadsSuper s) := by
  unfold loadsSuper
  try dsimp only
  repeat' first | with_reducible assumption | with_reducible apply Lasts.foldl | (intro _ _ _) | with_reducible apply Lasts.ite | split | with_reducible apply Lasts.free | (with_reducible apply Lasts.upd <;> first | with_reducible rfl | with_reducible exact fun w => w | with_reducible exact fun _ w => w | with_reducible exact Nat.le_refl _ | skip)
  all_goals first | rfl | exact fun w => w | exact fun _ w => w | exact Nat.le_refl _ | exact Nat.le_succ _ | exact fun _ => rfl | exact fun _ _ => rfl | skip

end Sys2Proof.Machine
end

