-- ==== Sys2Proof/Laws/LastsReset.lean ====
section
/-!
SUPPORT. What the operations of Machine/Reset.lean keep (the relation of Lasts).
-/

namespace Sys2Proof.Machine

set_option linter.all false

open Sys2Proof.Laws

variable {b_ : Bool} {u_ : State}

theorem updRst_lasts {f : Reset → Reset} {s : State} (h_ : Lasts b_ u_ s)
    (h1 : s.rst.debugLocked = true → (f s.rst).debugLocked = true) : Lasts b_ u_ (updRst f s) := by
  unfold updRst
  apply Lasts.upd h_ <;> first | rfl | exact fun w => w | exact Nat.le_refl _ | exact fun _ w => w | exact h1

theorem updCause_lasts (f : ResetCause → ResetCause) {s : State} (h_ : Lasts b_ u_ s) : Lasts b_ u_ (updCause f s) := by
  unfold updCause
  exact updRst_lasts h_ (fun w => w)

theorem noteSource_lasts (src : Nat) {s : State} (h_ : Lasts b_ u_ s) : Lasts b_ u_ (noteSource src s) := by
  unfold noteSource
  try dsimp only
  repeat' first | with_reducible assumption | with_reducible apply updCause_lasts | with_reducible apply Lasts.foldl | (intro _ _ _) | with_reducible apply Lasts.ite | split | with_reducible apply Lasts.free | (with_reducible apply Lasts.upd <;> first | with_reducible rfl | with_reducible exact fun w => w | with_reducible exact fun _ w => w | with_reducible exact Nat.le_refl _ | skip)
  all_goals first | rfl | exact fun w => w | exact fun _ w => w | exact Nat.le_refl _ | exact Nat.le_succ _ | exact fun _ => rfl | exact fun _ _ => rfl | skip

theorem releaseSource_lasts (src : Nat) {s : State} (h_ : Lasts b_ u_ s) : Lasts b_ u_ (releaseSource src s) := by
  unfold releaseSource
  try dsimp only
  repeat' first | with_reducible assumption | with_reducible refine updRst_lasts ?_ (fun w_ => w_) | with_reducible apply updCause_lasts | with_reducible apply Lasts.foldl | (intro _ _ _) | with_reducible apply Lasts.ite | split | with_reducible apply Lasts.free | (with_reducible apply Lasts.upd <;> first | with_reducible rfl | with_reducible exact fun w => w | with_reducible exact fun _ w => w | with_reducible exact Nat.le_refl _ | skip)
  all_goals first | rfl | exact fun w => w | exact fun _ w => w | exact Nat.le_refl _ | exact Nat.le_succ _ | exact fun _ => rfl | exact fun _ _ => rfl | skip

theorem releaseAll_lasts (p : Nat → Bool) {s : State} (h_ : Lasts b_ u_ s) : Lasts b_ u_ (releaseAll p s) := by
  unfold releaseAll
  try dsimp only
  repeat' first | with_reducible assumption | with_reducible apply releaseSource_lasts | with_reducible apply Lasts.foldl | (intro _ _ _) | with_reducible apply Lasts.ite | split | with_reducible apply Lasts.free | (with_reducible apply Lasts.upd <;> first | with_reducible rfl | with_reducible exact fun w => w | with_reducible exact fun _ w => w | with_reducible exact Nat.le_refl _ | skip)
  all_goals first | rfl | exact fun w => w | exact fun _ w => w | exact Nat.le_refl _ | exact Nat.le_succ _ | exact fun _ => rfl | exact fun _ _ => rfl | skip

theorem openEntry_lasts (src reach : Nat) {s : State} (h_ : Lasts b_ u_ s) : Lasts b_ u_ (openEntry src reach s) := by
  unfold openEntry
  try dsimp only
  repeat' first | with_reducible assumption | with_reducible refine updRst_lasts ?_ (fun w_ => w_) | with_reducible apply Lasts.foldl | (intro _ _ _) | with_reducible apply Lasts.ite | split | with_reducible apply Lasts.free | (with_reducible apply Lasts.upd <;> first | with_reducible rfl | with_reducible exact fun w => w | with_reducible exact fun _ w => w | with_reducible exact Nat.le_refl _ | skip)
  all_goals first | rfl | exact fun w => w | exact fun _ w => w | exact Nat.le_refl _ | exact Nat.le_succ _ | exact fun _ => rfl | exact fun _ _ => rfl | skip

theorem coreAssert_lasts  {s : State} (h_ : Lasts b_ u_ s) : Lasts b_ u_ (coreAssert s) := by
  unfold coreAssert
  try dsimp only
  repeat' first | with_reducible assumption | with_reducible refine updRst_lasts ?_ (fun w_ => w_) | with_reducible apply driverOff_lasts | with_reducible apply Lasts.foldl | (intro _ _ _) | with_reducible apply Lasts.ite | split | with_reducible apply Lasts.free | (with_reducible apply Lasts.upd <;> first | with_reducible rfl | with_reducible exact fun w => w | with_reducible exact fun _ w => w | with_reducible exact Nat.le_refl _ | skip)
  all_goals first | rfl | exact fun w => w | exact fun _ w => w | exact Nat.le_refl _ | exact Nat.le_succ _ | exact fun _ => rfl | exact fun _ _ => rfl | skip

theorem benchEnds_lasts  {s : State} (h_ : Lasts b_ u_ s) : Lasts b_ u_ (benchEnds s) := by
  unfold benchEnds
  try dsimp only
  repeat' first | with_reducible assumption | with_reducible apply Lasts.foldl | (intro _ _ _) | with_reducible apply Lasts.ite | split | with_reducible apply Lasts.free | (with_reducible apply Lasts.upd <;> first | with_reducible rfl | with_reducible exact fun w => w | with_reducible exact fun _ w => w | with_reducible exact Nat.le_refl _ | skip)
  all_goals first | rfl | exact fun w => w | exact fun _ w => w | exact Nat.le_refl _ | exact Nat.le_succ _ | exact fun _ => rfl | exact fun _ _ => rfl | skip

theorem assertSave_lasts  {s : State} (h_ : Lasts b_ u_ s) : Lasts b_ u_ (assertSave s) := by
  unfold assertSave
  try dsimp only
  repeat' first | with_reducible assumption | with_reducible apply finalSave_lasts | with_reducible apply pipelineCut_lasts | with_reducible apply benchEnds_lasts | with_reducible apply Lasts.foldl | (intro _ _ _) | with_reducible apply Lasts.ite | split | with_reducible apply Lasts.free | (with_reducible apply Lasts.upd <;> first | with_reducible rfl | with_reducible exact fun w => w | with_reducible exact fun _ w => w | with_reducible exact Nat.le_refl _ | skip)
  all_goals first | rfl | exact fun w => w | exact fun _ w => w | exact Nat.le_refl _ | exact Nat.le_succ _ | exact fun _ => rfl | exact fun _ _ => rfl | skip

theorem sitePadsOff_lasts  {s : State} (h_ : Lasts b_ u_ s) : Lasts b_ u_ (sitePadsOff s) := by
  unfold sitePadsOff
  try dsimp only
  repeat' first | with_reducible assumption | with_reducible apply fieldOff_lasts | with_reducible apply lowerRails_lasts | with_reducible apply Lasts.foldl | (intro _ _ _) | with_reducible apply Lasts.ite | split | with_reducible apply Lasts.free | (with_reducible apply Lasts.upd <;> first | with_reducible rfl | with_reducible exact fun w => w | with_reducible exact fun _ w => w | with_reducible exact Nat.le_refl _ | skip)
  all_goals first | rfl | exact fun w => w | exact fun _ w => w | exact Nat.le_refl _ | exact Nat.le_succ _ | exact fun _ => rfl | exact fun _ _ => rfl | skip

theorem systemAssert_lasts (ran : Bool) {s : State} (h_ : Lasts b_ u_ s) : Lasts b_ u_ (systemAssert ran s) := by
  unfold systemAssert
  try dsimp only
  repeat' first | with_reducible assumption | with_reducible apply sitePadsOff_lasts | with_reducible refine updRst_lasts ?_ (fun w_ => w_) | with_reducible apply outputsSafe_lasts | with_reducible apply assertSave_lasts | with_reducible apply Lasts.foldl | (intro _ _ _) | with_reducible apply Lasts.ite | split | with_reducible apply Lasts.free | (with_reducible apply Lasts.upd <;> first | with_reducible rfl | with_reducible exact fun w => w | with_reducible exact fun _ w => w | with_reducible exact Nat.le_refl _ | skip)
  all_goals first | rfl | exact fun w => w | exact fun _ w => w | exact Nat.le_refl _ | exact Nat.le_succ _ | exact fun _ => rfl | exact fun _ _ => rfl | skip

theorem losePlain_lasts  {s : State} (h_ : Lasts b_ u_ s) : Lasts b_ u_ (losePlain s) := by
  unfold losePlain
  try dsimp only
  repeat' first | with_reducible assumption | with_reducible apply Lasts.foldl | (intro _ _ _) | with_reducible apply Lasts.ite | split | with_reducible apply Lasts.free | (with_reducible apply Lasts.upd <;> first | with_reducible rfl | with_reducible exact fun w => w | with_reducible exact fun _ w => w | with_reducible exact Nat.le_refl _ | skip)
  all_goals first | rfl | exact fun w => w | exact fun _ w => w | exact Nat.le_refl _ | exact Nat.le_succ _ | exact fun _ => rfl | exact fun _ _ => rfl | skip

theorem beginReset_lasts (src reach : Nat) {s0 : State} (h_ : Lasts b_ u_ s0) : Lasts b_ u_ (beginReset src reach s0) := by
  unfold beginReset
  try dsimp only
  repeat' first | with_reducible assumption | with_reducible apply losePlain_lasts | with_reducible refine updRst_lasts ?_ (fun w_ => w_) | with_reducible apply noteSource_lasts | with_reducible apply openEntry_lasts | with_reducible apply coreAssert_lasts | with_reducible apply systemAssert_lasts | with_reducible apply Lasts.foldl | (intro _ _ _) | with_reducible apply Lasts.ite | split | with_reducible apply Lasts.free | (with_reducible apply Lasts.upd <;> first | with_reducible rfl | with_reducible exact fun w => w | with_reducible exact fun _ w => w | with_reducible exact Nat.le_refl _ | skip)
  all_goals first | rfl | exact fun w => w | exact fun _ w => w | exact Nat.le_refl _ | exact Nat.le_succ _ | exact fun _ => rfl | exact fun _ _ => rfl | skip

theorem widenReset_lasts (src reach : Nat) {s : State} (h_ : Lasts b_ u_ s) : Lasts b_ u_ (widenReset src reach s) := by
  unfold widenReset
  try dsimp only
  repeat' first | with_reducible assumption | with_reducible apply noteSource_lasts | with_reducible apply updCause_lasts | with_reducible refine updRst_lasts ?_ (fun w_ => w_) | with_reducible apply Lasts.foldl | (intro _ _ _) | with_reducible apply Lasts.ite | split | with_reducible apply Lasts.free | (with_reducible apply Lasts.upd <;> first | with_reducible rfl | with_reducible exact fun w => w | with_reducible exact fun _ w => w | with_reducible exact Nat.le_refl _ | skip)
  all_goals first | rfl | exact fun w => w | exact fun _ w => w | exact Nat.le_refl _ | exact Nat.le_succ _ | exact fun _ => rfl | exact fun _ _ => rfl | skip

theorem assertBooting_lasts (src reach : Nat) {s : State} (h_ : Lasts b_ u_ s) : Lasts b_ u_ (assertBooting src reach s) := by
  unfold assertBooting
  try dsimp only
  repeat' first | with_reducible assumption | with_reducible apply widenReset_lasts | with_reducible apply releaseSource_lasts | with_reducible apply coreAssert_lasts | with_reducible refine updRst_lasts ?_ (fun w_ => w_) | with_reducible apply systemAssert_lasts | with_reducible apply Lasts.foldl | (intro _ _ _) | with_reducible apply Lasts.ite | split | with_reducible apply Lasts.free | (with_reducible apply Lasts.upd <;> first | with_reducible rfl | with_reducible exact fun w => w | with_reducible exact fun _ w => w | with_reducible exact Nat.le_refl _ | skip)
  all_goals first | rfl | exact fun w => w | exact fun _ w => w | exact Nat.le_refl _ | exact Nat.le_succ _ | exact fun _ => rfl | exact fun _ _ => rfl | skip

theorem assertSource_lasts (src : Nat) {s : State} (h_ : Lasts b_ u_ s) : Lasts b_ u_ (assertSource src s) := by
  unfold assertSource
  try dsimp only
  repeat' first | with_reducible assumption | with_reducible refine updRst_lasts ?_ (fun w_ => w_) | with_reducible apply beginReset_lasts | with_reducible apply widenReset_lasts | with_reducible apply systemAssert_lasts | with_reducible apply assertBooting_lasts | with_reducible apply Lasts.foldl | (intro _ _ _) | with_reducible apply Lasts.ite | split | with_reducible apply Lasts.free | (with_reducible apply Lasts.upd <;> first | with_reducible rfl | with_reducible exact fun w => w | with_reducible exact fun _ w => w | with_reducible exact Nat.le_refl _ | skip)
  all_goals first | rfl | exact fun w => w | exact fun _ w => w | exact Nat.le_refl _ | exact Nat.le_succ _ | exact fun _ => rfl | exact fun _ _ => rfl | skip

theorem railFails_lasts  {s : State} (h_ : Lasts b_ u_ s) : Lasts b_ u_ (railFails s) := by
  unfold railFails
  try dsimp only
  repeat' first | with_reducible assumption | with_reducible apply Lasts.foldl | (intro _ _ _) | with_reducible apply Lasts.ite | split | with_reducible apply Lasts.free | (with_reducible apply Lasts.upd <;> first | with_reducible rfl | with_reducible exact fun w => w | with_reducible exact fun _ w => w | with_reducible exact Nat.le_refl _ | skip)
  all_goals first | rfl | exact fun w => w | exact fun _ w => w | exact Nat.le_refl _ | exact Nat.le_succ _ | exact fun _ => rfl | exact fun _ _ => rfl | skip

end Sys2Proof.Machine
end

