-- ==== Sys2Proof/Laws/LastsSwitching.lean ====
section
/-!
SUPPORT. What the operations of Machine/Switching.lean keep (the relation of Lasts).
-/

namespace Sys2Proof.Machine

set_option linter.all false

open Sys2Proof.Laws

variable {b_ : Bool} {u_ : State}

theorem updPm_lasts (m : Nat) (f : Module → Module) {s : State} (h_ : Lasts b_ u_ s) : Lasts b_ u_ (updPm m f s) := by
  unfold updPm
  try dsimp only
  repeat' first | with_reducible assumption | with_reducible apply Lasts.foldl | (intro _ _ _) | with_reducible apply Lasts.ite | split | with_reducible apply Lasts.free | (with_reducible apply Lasts.upd <;> first | with_reducible rfl | with_reducible exact fun w => w | with_reducible exact fun _ w => w | with_reducible exact Nat.le_refl _ | skip)
  all_goals first | rfl | exact fun w => w | exact fun _ w => w | exact Nat.le_refl _ | exact Nat.le_succ _ | exact fun _ => rfl | exact fun _ _ => rfl | skip

theorem joinConfirmed_lasts (j : BusJob) {s : State} (h_ : Lasts b_ u_ s) : Lasts b_ u_ (joinConfirmed j s) := by
  unfold joinConfirmed
  try dsimp only
  repeat' first | with_reducible assumption | with_reducible apply setOwner_lasts | with_reducible apply givePermits_lasts | with_reducible apply endJob_lasts | with_reducible apply Lasts.foldl | (intro _ _ _) | with_reducible apply Lasts.ite | split | with_reducible apply Lasts.free | (with_reducible apply Lasts.upd <;> first | with_reducible rfl | with_reducible exact fun w => w | with_reducible exact fun _ w => w | with_reducible exact Nat.le_refl _ | skip)
  all_goals first | rfl | exact fun w => w | exact fun _ w => w | exact Nat.le_refl _ | exact Nat.le_succ _ | exact fun _ => rfl | exact fun _ _ => rfl | skip

theorem releaseConfirmed_lasts (j : BusJob) {s : State} (h_ : Lasts b_ u_ s) : Lasts b_ u_ (releaseConfirmed j s) := by
  unfold releaseConfirmed
  try dsimp only
  repeat' first | with_reducible assumption | with_reducible apply endJob_lasts | with_reducible apply setOwner_lasts | with_reducible apply Lasts.foldl | (intro _ _ _) | with_reducible apply Lasts.ite | split | with_reducible apply Lasts.free | (with_reducible apply Lasts.upd <;> first | with_reducible rfl | with_reducible exact fun w => w | with_reducible exact fun _ w => w | with_reducible exact Nat.le_refl _ | skip)
  all_goals first | rfl | exact fun w => w | exact fun _ w => w | exact Nat.le_refl _ | exact Nat.le_succ _ | exact fun _ => rfl | exact fun _ _ => rfl | skip

theorem feedbackReport_lasts (d cycle : Nat) {s : State} (h_ : Lasts b_ u_ s) : Lasts b_ u_ (feedbackReport d cycle s) := by
  unfold feedbackReport
  try dsimp only
  repeat' first | with_reducible assumption | with_reducible apply report_lasts | with_reducible apply Lasts.foldl | (intro _ _ _) | with_reducible apply Lasts.ite | split | with_reducible apply Lasts.free | (with_reducible apply Lasts.upd <;> first | with_reducible rfl | with_reducible exact fun w => w | with_reducible exact fun _ w => w | with_reducible exact Nat.le_refl _ | skip)
  all_goals first | rfl | exact fun w => w | exact fun _ w => w | exact Nat.le_refl _ | exact Nat.le_succ _ | exact fun _ => rfl | exact fun _ _ => rfl | skip

theorem matrixWelded_lasts (n : Nat) {s : State} (h_ : Lasts b_ u_ s) : Lasts b_ u_ (matrixWelded n s) := by
  unfold matrixWelded
  try dsimp only
  repeat' first | with_reducible assumption | with_reducible apply lockOutlet_lasts | with_reducible apply demandStop_lasts | with_reducible apply updSq_lasts | with_reducible apply Lasts.foldl | (intro _ _ _) | with_reducible apply Lasts.ite | split | with_reducible apply Lasts.free | (with_reducible apply Lasts.upd <;> first | with_reducible rfl | with_reducible exact fun w => w | with_reducible exact fun _ w => w | with_reducible exact Nat.le_refl _ | skip)
  all_goals first | rfl | exact fun w => w | exact fun _ w => w | exact Nat.le_refl _ | exact Nat.le_succ _ | exact fun _ => rfl | exact fun _ _ => rfl | skip

theorem stopWithoutModule_lasts (n : Nat) {s : State} (h_ : Lasts b_ u_ s) : Lasts b_ u_ (stopWithoutModule n s) := by
  unfold stopWithoutModule
  try dsimp only
  repeat' first | with_reducible assumption | with_reducible apply safeRampStop_lasts | with_reducible apply endAfterStop_lasts | with_reducible apply openPair_lasts | with_reducible apply safeStopEvent_lasts | with_reducible apply updSq_lasts | with_reducible apply Lasts.foldl | (intro _ _ _) | with_reducible apply Lasts.ite | split | with_reducible apply Lasts.free | (with_reducible apply Lasts.upd <;> first | with_reducible rfl | with_reducible exact fun w => w | with_reducible exact fun _ w => w | with_reducible exact Nat.le_refl _ | skip)
  all_goals first | rfl | exact fun w => w | exact fun _ w => w | exact Nat.le_refl _ | exact Nat.le_succ _ | exact fun _ => rfl | exact fun _ _ => rfl | skip

theorem moduleGone_lasts (m : Nat) {s : State} (h_ : Lasts b_ u_ s) : Lasts b_ u_ (moduleGone m s) := by
  unfold moduleGone
  try dsimp only
  repeat' first | with_reducible assumption | with_reducible apply stopWithoutModule_lasts | with_reducible apply Lasts.foldl | (intro _ _ _) | with_reducible apply Lasts.ite | split | with_reducible apply Lasts.free | (with_reducible apply Lasts.upd <;> first | with_reducible rfl | with_reducible exact fun w => w | with_reducible exact fun _ w => w | with_reducible exact Nat.le_refl _ | skip)
  all_goals first | rfl | exact fun w => w | exact fun _ w => w | exact Nat.le_refl _ | exact Nat.le_succ _ | exact fun _ => rfl | exact fun _ _ => rfl | skip

theorem updIn_lasts (i : Nat) (f : SafeIn → SafeIn) {s : State} (h_ : Lasts b_ u_ s) : Lasts b_ u_ (updIn i f s) := by
  unfold updIn
  try dsimp only
  repeat' first | with_reducible assumption | with_reducible apply Lasts.foldl | (intro _ _ _) | with_reducible apply Lasts.ite | split | with_reducible apply Lasts.free | (with_reducible apply Lasts.upd <;> first | with_reducible rfl | with_reducible exact fun w => w | with_reducible exact fun _ w => w | with_reducible exact Nat.le_refl _ | skip)
  all_goals first | rfl | exact fun w => w | exact fun _ w => w | exact Nat.le_refl _ | exact Nat.le_succ _ | exact fun _ => rfl | exact fun _ _ => rfl | skip

theorem demandReaction_lasts (i : Nat) {s : State} (h_ : Lasts b_ u_ s) : Lasts b_ u_ (demandReaction i s) := by
  unfold demandReaction
  try dsimp only
  repeat' first | with_reducible assumption | with_reducible apply fastStop_lasts | with_reducible apply driverOff_lasts | with_reducible apply demandStop_lasts | with_reducible apply Lasts.foldl | (intro _ _ _) | with_reducible apply Lasts.ite | split | with_reducible apply Lasts.free | (with_reducible apply Lasts.upd <;> first | with_reducible rfl | with_reducible exact fun w => w | with_reducible exact fun _ w => w | with_reducible exact Nat.le_refl _ | skip)
  all_goals first | rfl | exact fun w => w | exact fun _ w => w | exact Nat.le_refl _ | exact Nat.le_succ _ | exact fun _ => rfl | exact fun _ _ => rfl | skip

theorem enterDemand_lasts (i : Nat) {s : State} (h_ : Lasts b_ u_ s) : Lasts b_ u_ (enterDemand i s) := by
  unfold enterDemand
  try dsimp only
  repeat' first | with_reducible assumption | with_reducible apply updIn_lasts | with_reducible apply demandReaction_lasts | with_reducible apply event_lasts | with_reducible apply Lasts.foldl | (intro _ _ _) | with_reducible apply Lasts.ite | split | with_reducible apply Lasts.free | (with_reducible apply Lasts.upd <;> first | with_reducible rfl | with_reducible exact fun w => w | with_reducible exact fun _ w => w | with_reducible exact Nat.le_refl _ | skip)
  all_goals first | rfl | exact fun w => w | exact fun _ w => w | exact Nat.le_refl _ | exact Nat.le_succ _ | exact fun _ => rfl | exact fun _ _ => rfl | skip

theorem isolatedDemands_lasts  {s : State} (h_ : Lasts b_ u_ s) : Lasts b_ u_ (isolatedDemands s) := by
  unfold isolatedDemands
  try dsimp only
  repeat' first | with_reducible assumption | with_reducible apply enterDemand_lasts | with_reducible apply Lasts.foldl | (intro _ _ _) | with_reducible apply Lasts.ite | split | with_reducible apply Lasts.free | (with_reducible apply Lasts.upd <;> first | with_reducible rfl | with_reducible exact fun w => w | with_reducible exact fun _ w => w | with_reducible exact Nat.le_refl _ | skip)
  all_goals first | rfl | exact fun w => w | exact fun _ w => w | exact Nat.le_refl _ | exact Nat.le_succ _ | exact fun _ => rfl | exact fun _ _ => rfl | skip

theorem inputFaulty_lasts (i kind : Nat) {s : State} (h_ : Lasts b_ u_ s) : Lasts b_ u_ (inputFaulty i kind s) := by
  unfold inputFaulty
  try dsimp only
  repeat' first | with_reducible assumption | with_reducible apply updIn_lasts | with_reducible apply enterDemand_lasts | with_reducible apply event_lasts | with_reducible apply Lasts.foldl | (intro _ _ _) | with_reducible apply Lasts.ite | split | with_reducible apply Lasts.free | (with_reducible apply Lasts.upd <;> first | with_reducible rfl | with_reducible exact fun w => w | with_reducible exact fun _ w => w | with_reducible exact Nat.le_refl _ | skip)
  all_goals first | rfl | exact fun w => w | exact fun _ w => w | exact Nat.le_refl _ | exact Nat.le_succ _ | exact fun _ => rfl | exact fun _ _ => rfl | skip

theorem testDone_lasts (result : Nat) {s : State} (h_ : Lasts b_ u_ s) : Lasts b_ u_ (testDone result s) := by
  unfold testDone
  try dsimp only
  repeat' first | with_reducible assumption | with_reducible apply emit_lasts | with_reducible apply Lasts.foldl | (intro _ _ _) | with_reducible apply Lasts.ite | split | with_reducible apply Lasts.free | (with_reducible apply Lasts.upd <;> first | with_reducible rfl | with_reducible exact fun w => w | with_reducible exact fun _ w => w | with_reducible exact Nat.le_refl _ | skip)
  all_goals first | rfl | exact fun w => w | exact fun _ w => w | exact Nat.le_refl _ | exact Nat.le_succ _ | exact fun _ => rfl | exact fun _ _ => rfl | skip

theorem testCheck_lasts  {s : State} (h_ : Lasts b_ u_ s) : Lasts b_ u_ (testCheck s) := by
  unfold testCheck
  try dsimp only
  repeat' first | with_reducible assumption | with_reducible apply testDone_lasts | with_reducible apply Lasts.foldl | (intro _ _ _) | with_reducible apply Lasts.ite | split | with_reducible apply Lasts.free | (with_reducible apply Lasts.upd <;> first | with_reducible rfl | with_reducible exact fun w => w | with_reducible exact fun _ w => w | with_reducible exact Nat.le_refl _ | skip)
  all_goals first | rfl | exact fun w => w | exact fun _ w => w | exact Nat.le_refl _ | exact Nat.le_succ _ | exact fun _ => rfl | exact fun _ _ => rfl | skip

theorem demandEnded_lasts (i : Nat) {s : State} (h_ : Lasts b_ u_ s) : Lasts b_ u_ (demandEnded i s) := by
  unfold demandEnded
  try dsimp only
  repeat' first | with_reducible assumption | with_reducible apply updIn_lasts | with_reducible apply testCheck_lasts | with_reducible apply event_lasts | with_reducible apply Lasts.foldl | (intro _ _ _) | with_reducible apply Lasts.ite | split | with_reducible apply Lasts.free | (with_reducible apply Lasts.upd <;> first | with_reducible rfl | with_reducible exact fun w => w | with_reducible exact fun _ w => w | with_reducible exact Nat.le_refl _ | skip)
  all_goals first | rfl | exact fun w => w | exact fun _ w => w | exact Nat.le_refl _ | exact Nat.le_succ _ | exact fun _ => rfl | exact fun _ _ => rfl | skip

theorem ctrlFrame_lasts (n : Nat) {s : State} (h_ : Lasts b_ u_ s) : Lasts b_ u_ (ctrlFrame n s) := by
  unfold ctrlFrame
  try dsimp only
  repeat' first | with_reducible assumption | with_reducible apply updSq_lasts | with_reducible apply openPair_lasts | with_reducible apply safeStopEvent_lasts | with_reducible apply Lasts.foldl | (intro _ _ _) | with_reducible apply Lasts.ite | split | with_reducible apply Lasts.free | (with_reducible apply Lasts.upd <;> first | with_reducible rfl | with_reducible exact fun w => w | with_reducible exact fun _ w => w | with_reducible exact Nat.le_refl _ | skip)
  all_goals first | rfl | exact fun w => w | exact fun _ w => w | exact Nat.le_refl _ | exact Nat.le_succ _ | exact fun _ => rfl | exact fun _ _ => rfl | skip

theorem plugFrame_lasts (n : Nat) (t : Int) (ok : Bool) {s : State} (h_ : Lasts b_ u_ s) : Lasts b_ u_ (plugFrame n t ok s) := by
  unfold plugFrame
  try dsimp only
  repeat' first | with_reducible assumption | with_reducible apply updSq_lasts | with_reducible apply demandStop_lasts | with_reducible apply Lasts.foldl | (intro _ _ _) | with_reducible apply Lasts.ite | split | with_reducible apply Lasts.free | (with_reducible apply Lasts.upd <;> first | with_reducible rfl | with_reducible exact fun w => w | with_reducible exact fun _ w => w | with_reducible exact Nat.le_refl _ | skip)
  all_goals first | rfl | exact fun w => w | exact fun _ w => w | exact Nat.le_refl _ | exact Nat.le_succ _ | exact fun _ => rfl | exact fun _ _ => rfl | skip

theorem targetsFrame_lasts  {s : State} (h_ : Lasts b_ u_ s) : Lasts b_ u_ (targetsFrame s) := by
  unfold targetsFrame
  try dsimp only
  repeat' first | with_reducible assumption | with_reducible apply updPm_lasts | with_reducible apply Lasts.foldl | (intro _ _ _) | with_reducible apply Lasts.ite | split | with_reducible apply Lasts.free | (with_reducible apply Lasts.upd <;> first | with_reducible rfl | with_reducible exact fun w => w | with_reducible exact fun _ w => w | with_reducible exact Nat.le_refl _ | skip)
  all_goals first | rfl | exact fun w => w | exact fun _ w => w | exact Nat.le_refl _ | exact Nat.le_succ _ | exact fun _ => rfl | exact fun _ _ => rfl | skip

theorem jobsFrame_lasts  {s : State} (h_ : Lasts b_ u_ s) : Lasts b_ u_ (jobsFrame s) := by
  unfold jobsFrame
  try dsimp only
  repeat' first | with_reducible assumption | with_reducible apply driverOff_lasts | with_reducible apply Lasts.foldl | (intro _ _ _) | with_reducible apply Lasts.ite | split | with_reducible apply Lasts.free | (with_reducible apply Lasts.upd <;> first | with_reducible rfl | with_reducible exact fun w => w | with_reducible exact fun _ w => w | with_reducible exact Nat.le_refl _ | skip)
  all_goals first | rfl | exact fun w => w | exact fun _ w => w | exact Nat.le_refl _ | exact Nat.le_succ _ | exact fun _ => rfl | exact fun _ _ => rfl | skip

theorem switchFrame_lasts (m : FrameIn) {s : State} (h_ : Lasts b_ u_ s) : Lasts b_ u_ (switchFrame m s) := by
  unfold switchFrame
  try dsimp only
  repeat' first | with_reducible assumption | with_reducible apply ctrlFrame_lasts | with_reducible apply plugFrame_lasts | with_reducible apply updDrv_lasts | with_reducible apply targetsFrame_lasts | with_reducible apply jobsFrame_lasts | with_reducible apply isolatedDemands_lasts | with_reducible apply Lasts.foldl | (intro _ _ _) | with_reducible apply Lasts.ite | split | with_reducible apply Lasts.free | (with_reducible apply Lasts.upd <;> first | with_reducible rfl | with_reducible exact fun w => w | with_reducible exact fun _ w => w | with_reducible exact Nat.le_refl _ | skip)
  all_goals first | rfl | exact fun w => w | exact fun _ w => w | exact Nat.le_refl _ | exact Nat.le_succ _ | exact fun _ => rfl | exact fun _ _ => rfl | skip

end Sys2Proof.Machine
end

