-- ==== Sys2Proof/Laws/LastsFaults.lean ====
section
/-!
SUPPORT. What the operations of Machine/Faults.lean keep (the relation of Lasts).
-/

namespace Sys2Proof.Machine

set_option linter.all false

open Sys2Proof.Laws

variable {b_ : Bool} {u_ : State}

theorem updCell_lasts (i : Nat) (f : CellState → CellState) {s : State} (h_ : Lasts b_ u_ s) : Lasts b_ u_ (updCell i f s) := by
  unfold updCell
  try dsimp only
  repeat' first | with_reducible assumption | with_reducible apply Lasts.foldl | (intro _ _ _) | with_reducible apply Lasts.ite | split | with_reducible apply Lasts.free | (with_reducible apply Lasts.upd <;> first | with_reducible rfl | with_reducible exact fun w => w | with_reducible exact fun _ w => w | with_reducible exact Nat.le_refl _ | skip)
  all_goals first | rfl | exact fun w => w | exact fun _ w => w | exact Nat.le_refl _ | exact Nat.le_succ _ | exact fun _ => rfl | exact fun _ _ => rfl | skip

theorem globalSafeNow_lasts  {s : State} (h_ : Lasts b_ u_ s) : Lasts b_ u_ (globalSafeNow s) := by
  unfold globalSafeNow
  try dsimp only
  repeat' first | with_reducible assumption | with_reducible apply outputsSafe_lasts | with_reducible apply Lasts.foldl | (intro _ _ _) | with_reducible apply Lasts.ite | split | with_reducible apply Lasts.free | (with_reducible apply Lasts.upd <;> first | with_reducible rfl | with_reducible exact fun w => w | with_reducible exact fun _ w => w | with_reducible exact Nat.le_refl _ | skip)
  all_goals first | rfl | exact fun w => w | exact fun _ w => w | exact Nat.le_refl _ | exact Nat.le_succ _ | exact fun _ => rfl | exact fun _ _ => rfl | skip

theorem safetyFault_lasts  {s : State} (h_ : Lasts b_ u_ s) : Lasts b_ u_ (safetyFault s) := by
  unfold safetyFault
  try dsimp only
  repeat' first | with_reducible assumption | with_reducible apply assertSource_lasts | with_reducible apply globalSafeNow_lasts | with_reducible apply Lasts.foldl | (intro _ _ _) | with_reducible apply Lasts.ite | split | with_reducible apply Lasts.free | (with_reducible apply Lasts.upd <;> first | with_reducible rfl | with_reducible exact fun w => w | with_reducible exact fun _ w => w | with_reducible exact Nat.le_refl _ | skip)
  all_goals first | rfl | exact fun w => w | exact fun _ w => w | exact Nat.le_refl _ | exact Nat.le_succ _ | exact fun _ => rfl | exact fun _ _ => rfl | skip

theorem linkFault_lasts (outs : List Nat) {s : State} (h_ : Lasts b_ u_ s) : Lasts b_ u_ (linkFault outs s) := by
  unfold linkFault
  try dsimp only
  repeat' first | with_reducible assumption | with_reducible apply stopLink_lasts | with_reducible apply Lasts.foldl | (intro _ _ _) | with_reducible apply Lasts.ite | split | with_reducible apply Lasts.free | (with_reducible apply Lasts.upd <;> first | with_reducible rfl | with_reducible exact fun w => w | with_reducible exact fun _ w => w | with_reducible exact Nat.le_refl _ | skip)
  all_goals first | rfl | exact fun w => w | exact fun _ w => w | exact Nat.le_refl _ | exact Nat.le_succ _ | exact fun _ => rfl | exact fun _ _ => rfl | skip

theorem trvFault_lasts  {s : State} (h_ : Lasts b_ u_ s) : Lasts b_ u_ (trvFault s) := by
  unfold trvFault
  try dsimp only
  repeat' first | with_reducible assumption | with_reducible apply trvSilent_lasts | with_reducible apply releaseOpt_lasts | with_reducible apply Lasts.foldl | (intro _ _ _) | with_reducible apply Lasts.ite | split | with_reducible apply Lasts.free | (with_reducible apply Lasts.upd <;> first | with_reducible rfl | with_reducible exact fun w => w | with_reducible exact fun _ w => w | with_reducible exact Nat.le_refl _ | skip)
  all_goals first | rfl | exact fun w => w | exact fun _ w => w | exact Nat.le_refl _ | exact Nat.le_succ _ | exact fun _ => rfl | exact fun _ _ => rfl | skip

theorem readerFault_lasts  {s : State} (h_ : Lasts b_ u_ s) : Lasts b_ u_ (readerFault s) := by
  unfold readerFault
  try dsimp only
  repeat' first | with_reducible assumption | with_reducible apply readerStop_lasts | with_reducible apply Lasts.foldl | (intro _ _ _) | with_reducible apply Lasts.ite | split | with_reducible apply Lasts.free | (with_reducible apply Lasts.upd <;> first | with_reducible rfl | with_reducible exact fun w => w | with_reducible exact fun _ w => w | with_reducible exact Nat.le_refl _ | skip)
  all_goals first | rfl | exact fun w => w | exact fun _ w => w | exact Nat.le_refl _ | exact Nat.le_succ _ | exact fun _ => rfl | exact fun _ _ => rfl | skip

theorem witnessFault_lasts  {s : State} (h_ : Lasts b_ u_ s) : Lasts b_ u_ (witnessFault s) := by
  unfold witnessFault
  try dsimp only
  repeat' first | with_reducible assumption | with_reducible apply Lasts.foldl | (intro _ _ _) | with_reducible apply Lasts.ite | split | with_reducible apply Lasts.free | (with_reducible apply Lasts.upd <;> first | with_reducible rfl | with_reducible exact fun w => w | with_reducible exact fun _ w => w | with_reducible exact Nat.le_refl _ | skip)
  all_goals first | rfl | exact fun w => w | exact fun _ w => w | exact Nat.le_refl _ | exact Nat.le_succ _ | exact fun _ => rfl | exact fun _ _ => rfl | skip

theorem cellEffect_lasts (c : CellId) {s : State} (h_ : Lasts b_ u_ s) : Lasts b_ u_ (cellEffect c s) := by
  unfold cellEffect
  try dsimp only
  repeat' first | with_reducible assumption | with_reducible apply updDrv_lasts | with_reducible apply driverOff_lasts | with_reducible apply isolatedDemands_lasts | with_reducible apply proofLapses_lasts | with_reducible apply moduleGone_lasts | with_reducible apply updPm_lasts | with_reducible apply isolateChannel_lasts | with_reducible apply trvFault_lasts | with_reducible apply readerFault_lasts | with_reducible apply displayBlockFaulty_lasts | with_reducible apply witnessFault_lasts | with_reducible apply Lasts.foldl | (intro _ _ _) | with_reducible apply Lasts.ite | split | with_reducible apply Lasts.free | (with_reducible apply Lasts.upd <;> first | with_reducible rfl | with_reducible exact fun w => w | with_reducible exact fun _ w => w | with_reducible exact Nat.le_refl _ | skip)
  all_goals first | rfl | exact fun w => w | exact fun _ w => w | exact Nat.le_refl _ | exact Nat.le_succ _ | exact fun _ => rfl | exact fun _ _ => rfl | skip

theorem regionReaction_lasts (region : Nat) (outs : List Nat) {s : State} (h_ : Lasts b_ u_ s) : Lasts b_ u_ (regionReaction region outs s) := by
  unfold regionReaction
  try dsimp only
  repeat' first | with_reducible assumption | with_reducible apply safetyFault_lasts | with_reducible apply metrologyFault_lasts | with_reducible apply linkFault_lasts | with_reducible apply assertSource_lasts | with_reducible apply Lasts.foldl | (intro _ _ _) | with_reducible apply Lasts.ite | split | with_reducible apply Lasts.free | (with_reducible apply Lasts.upd <;> first | with_reducible rfl | with_reducible exact fun w => w | with_reducible exact fun _ w => w | with_reducible exact Nat.le_refl _ | skip)
  all_goals first | rfl | exact fun w => w | exact fun _ w => w | exact Nat.le_refl _ | exact Nat.le_succ _ | exact fun _ => rfl | exact fun _ _ => rfl | skip

theorem isolateBlock_lasts (region block : Nat) {s : State} (h_ : Lasts b_ u_ s) : Lasts b_ u_ (isolateBlock region block s) := by
  unfold isolateBlock
  try dsimp only
  repeat' first | with_reducible assumption | with_reducible apply Lasts.foldl | (intro _ _ _) | with_reducible apply Lasts.ite | split | with_reducible apply Lasts.free | (with_reducible apply Lasts.upd <;> first | with_reducible rfl | with_reducible exact fun w => w | with_reducible exact fun _ w => w | with_reducible exact Nat.le_refl _ | skip)
  all_goals first | rfl | exact fun w => w | exact fun _ w => w | exact Nat.le_refl _ | exact Nat.le_succ _ | exact fun _ => rfl | exact fun _ _ => rfl | skip

theorem isolateCell_lasts (cls : Byte) (i cycle failedState : Nat) {s : State} (h_ : Lasts b_ u_ s) : Lasts b_ u_ (isolateCell cls i cycle failedState s) := by
  unfold isolateCell
  try dsimp only
  repeat' first | with_reducible assumption | with_reducible apply updCell_lasts | with_reducible apply isolateBlock_lasts | with_reducible apply cellReport_lasts | with_reducible apply cellEffect_lasts | with_reducible apply regionReaction_lasts | with_reducible apply Lasts.foldl | (intro _ _ _) | with_reducible apply Lasts.ite | split | with_reducible apply Lasts.free | (with_reducible apply Lasts.upd <;> first | with_reducible rfl | with_reducible exact fun w => w | with_reducible exact fun _ w => w | with_reducible exact Nat.le_refl _ | skip)
  all_goals first | rfl | exact fun w => w | exact fun _ w => w | exact Nat.le_refl _ | exact Nat.le_succ _ | exact fun _ => rfl | exact fun _ _ => rfl | skip

theorem sequencerFault_lasts (i cycle : Nat) {s : State} (h_ : Lasts b_ u_ s) : Lasts b_ u_ (sequencerFault i cycle s) := by
  unfold sequencerFault
  try dsimp only
  repeat' first | with_reducible assumption | with_reducible apply report_lasts | with_reducible apply isolateBlock_lasts | with_reducible apply isolateBank_lasts | with_reducible apply cellEffect_lasts | with_reducible apply regionReaction_lasts | with_reducible apply Lasts.foldl | (intro _ _ _) | with_reducible apply Lasts.ite | split | with_reducible apply Lasts.free | (with_reducible apply Lasts.upd <;> first | with_reducible rfl | with_reducible exact fun w => w | with_reducible exact fun _ w => w | with_reducible exact Nat.le_refl _ | skip)
  all_goals first | rfl | exact fun w => w | exact fun _ w => w | exact Nat.le_refl _ | exact Nat.le_succ _ | exact fun _ => rfl | exact fun _ _ => rfl | skip

theorem updJob_lasts (job inst : Nat) (f : JobStat → JobStat) {s : State} (h_ : Lasts b_ u_ s) : Lasts b_ u_ (updJob job inst f s) := by
  unfold updJob
  try dsimp only
  repeat' first | with_reducible assumption | with_reducible apply Lasts.foldl | (intro _ _ _) | with_reducible apply Lasts.ite | split | with_reducible apply Lasts.free | (with_reducible apply Lasts.upd <;> first | with_reducible rfl | with_reducible exact fun w => w | with_reducible exact fun _ w => w | with_reducible exact Nat.le_refl _ | skip)
  all_goals first | rfl | exact fun w => w | exact fun _ w => w | exact Nat.le_refl _ | exact Nat.le_succ _ | exact fun _ => rfl | exact fun _ _ => rfl | skip

theorem deadlineReport_lasts (job inst cycle : Nat) (esc : Bool) (outs : List Nat) (reaction : Nat) {s : State} (h_ : Lasts b_ u_ s) : Lasts b_ u_ (deadlineReport job inst cycle esc outs reaction s) := by
  unfold deadlineReport
  try dsimp only
  repeat' first | with_reducible assumption | with_reducible apply report_lasts | with_reducible apply Lasts.foldl | (intro _ _ _) | with_reducible apply Lasts.ite | split | with_reducible apply Lasts.free | (with_reducible apply Lasts.upd <;> first | with_reducible rfl | with_reducible exact fun w => w | with_reducible exact fun _ w => w | with_reducible exact Nat.le_refl _ | skip)
  all_goals first | rfl | exact fun w => w | exact fun _ w => w | exact Nat.le_refl _ | exact Nat.le_succ _ | exact fun _ => rfl | exact fun _ _ => rfl | skip

theorem loseShare_lasts (n : Nat) {s : State} (h_ : Lasts b_ u_ s) : Lasts b_ u_ (loseShare n s) := by
  unfold loseShare
  try dsimp only
  repeat' first | with_reducible assumption | with_reducible apply periodPower_lasts | with_reducible apply updEng_lasts | with_reducible apply Lasts.foldl | (intro _ _ _) | with_reducible apply Lasts.ite | split | with_reducible apply Lasts.free | (with_reducible apply Lasts.upd <;> first | with_reducible rfl | with_reducible exact fun w => w | with_reducible exact fun _ w => w | with_reducible exact Nat.le_refl _ | skip)
  all_goals first | rfl | exact fun w => w | exact fun _ w => w | exact Nat.le_refl _ | exact Nat.le_succ _ | exact fun _ => rfl | exact fun _ _ => rfl | skip

theorem overflow_lasts (job inst : Nat) (outs : List Nat) {s : State} (h_ : Lasts b_ u_ s) : Lasts b_ u_ (overflow job inst outs s) := by
  unfold overflow
  try dsimp only
  repeat' first | with_reducible assumption | with_reducible apply loseValues_lasts | with_reducible apply loseControl_lasts | with_reducible apply loseBilling_lasts | with_reducible apply loseShare_lasts | with_reducible apply setSessionFlag_lasts | with_reducible apply countInvalid_lasts | with_reducible apply Lasts.foldl | (intro _ _ _) | with_reducible apply Lasts.ite | split | with_reducible apply Lasts.free | (with_reducible apply Lasts.upd <;> first | with_reducible rfl | with_reducible exact fun w => w | with_reducible exact fun _ w => w | with_reducible exact Nat.le_refl _ | skip)
  all_goals first | rfl | exact fun w => w | exact fun _ w => w | exact Nat.le_refl _ | exact Nat.le_succ _ | exact fun _ => rfl | exact fun _ _ => rfl | skip

theorem escalate_lasts (job inst : Nat) (outs : List Nat) {s : State} (h_ : Lasts b_ u_ s) : Lasts b_ u_ (escalate job inst outs s) := by
  unfold escalate
  try dsimp only
  repeat' first | with_reducible assumption | with_reducible apply isolateBlock_lasts | with_reducible apply safetyFault_lasts | with_reducible apply linkFault_lasts | with_reducible apply isolateBank_lasts | with_reducible apply metrologyFault_lasts | with_reducible apply Lasts.foldl | (intro _ _ _) | with_reducible apply Lasts.ite | split | with_reducible apply Lasts.free | (with_reducible apply Lasts.upd <;> first | with_reducible rfl | with_reducible exact fun w => w | with_reducible exact fun _ w => w | with_reducible exact Nat.le_refl _ | skip)
  all_goals first | rfl | exact fun w => w | exact fun _ w => w | exact Nat.le_refl _ | exact Nat.le_succ _ | exact fun _ => rfl | exact fun _ _ => rfl | skip

theorem escalation_lasts (job inst cycle : Nat) {s : State} (h_ : Lasts b_ u_ s) : Lasts b_ u_ (escalation job inst cycle s) := by
  unfold escalation
  try dsimp only
  repeat' first | with_reducible assumption | with_reducible apply escalate_lasts | with_reducible apply deadlineReport_lasts | with_reducible apply Lasts.foldl | (intro _ _ _) | with_reducible apply Lasts.ite | split | with_reducible apply Lasts.free | (with_reducible apply Lasts.upd <;> first | with_reducible rfl | with_reducible exact fun w => w | with_reducible exact fun _ w => w | with_reducible exact Nat.le_refl _ | skip)
  all_goals first | rfl | exact fun w => w | exact fun _ w => w | exact Nat.le_refl _ | exact Nat.le_succ _ | exact fun _ => rfl | exact fun _ _ => rfl | skip

theorem countMiss_lasts (job inst endCycle : Nat) {s : State} (h_ : Lasts b_ u_ s) : Lasts b_ u_ (countMiss job inst endCycle s) := by
  unfold countMiss
  try dsimp only
  repeat' first | with_reducible assumption | with_reducible apply updJob_lasts | with_reducible apply Lasts.foldl | (intro _ _ _) | with_reducible apply Lasts.ite | split | with_reducible apply Lasts.free | (with_reducible apply Lasts.upd <;> first | with_reducible rfl | with_reducible exact fun w => w | with_reducible exact fun _ w => w | with_reducible exact Nat.le_refl _ | skip)
  all_goals first | rfl | exact fun w => w | exact fun _ w => w | exact Nat.le_refl _ | exact Nat.le_succ _ | exact fun _ => rfl | exact fun _ _ => rfl | skip

theorem queueMiss_lasts (job n backlog : Nat) {s : State} (h_ : Lasts b_ u_ s) : Lasts b_ u_ (queueMiss job n backlog s) := by
  unfold queueMiss
  try dsimp only
  repeat' first | with_reducible assumption | with_reducible apply setSessionFlag_lasts | with_reducible apply updEng_lasts | with_reducible apply Lasts.foldl | (intro _ _ _) | with_reducible apply Lasts.ite | split | with_reducible apply Lasts.free | (with_reducible apply Lasts.upd <;> first | with_reducible rfl | with_reducible exact fun w => w | with_reducible exact fun _ w => w | with_reducible exact Nat.le_refl _ | skip)
  all_goals first | rfl | exact fun w => w | exact fun _ w => w | exact Nat.le_refl _ | exact Nat.le_succ _ | exact fun _ => rfl | exact fun _ _ => rfl | skip

theorem jobsFrameEnd_lasts  {s : State} (h_ : Lasts b_ u_ s) : Lasts b_ u_ (jobsFrameEnd s) := by
  unfold jobsFrameEnd
  try dsimp only
  repeat' first | with_reducible assumption | with_reducible apply escalation_lasts | with_reducible apply finishSave_lasts | with_reducible apply Lasts.foldl | (intro _ _ _) | with_reducible apply Lasts.ite | split | with_reducible apply Lasts.free | (with_reducible apply Lasts.upd <;> first | with_reducible rfl | with_reducible exact fun w => w | with_reducible exact fun _ w => w | with_reducible exact Nat.le_refl _ | skip)
  all_goals first | rfl | exact fun w => w | exact fun _ w => w | exact Nat.le_refl _ | exact Nat.le_succ _ | exact fun _ => rfl | exact fun _ _ => rfl | skip

end Sys2Proof.Machine
end

