-- ==== Sys2Proof/Laws/LastsObjects.lean ====
section
/-!
SUPPORT. What the operations of Machine/Objects.lean keep (the relation of Lasts).
-/

namespace Sys2Proof.Machine

set_option linter.all false

open Sys2Proof.Laws

variable {b_ : Bool} {u_ : State}

theorem Cfg.put_lasts (c : Cfg) (i v : Nat) {s : State} (h_ : Lasts b_ u_ s) : Lasts b_ u_ (Cfg.put c i v s) := by
  unfold Cfg.put
  try dsimp only
  repeat' first | with_reducible assumption | with_reducible apply Lasts.foldl | (intro _ _ _) | with_reducible apply Lasts.ite | split | with_reducible apply Lasts.free | (with_reducible apply Lasts.upd <;> first | with_reducible rfl | with_reducible exact fun w => w | with_reducible exact fun _ w => w | with_reducible exact Nat.le_refl _ | skip)
  all_goals first | rfl | exact fun w => w | exact fun _ w => w | exact Nat.le_refl _ | exact Nat.le_succ _ | exact fun _ => rfl | exact fun _ _ => rfl | skip

theorem Due.put_lasts (d : Due) {s : State} (h_ : Lasts b_ u_ s) : Lasts b_ u_ (Due.put d s) := by
  unfold Due.put
  try dsimp only
  repeat' first | with_reducible assumption | with_reducible apply Cfg.put_lasts | with_reducible apply Lasts.foldl | (intro _ _ _) | with_reducible apply Lasts.ite | split | with_reducible apply Lasts.free | (with_reducible apply Lasts.upd <;> first | with_reducible rfl | with_reducible exact fun w => w | with_reducible exact fun _ w => w | with_reducible exact Nat.le_refl _ | skip)
  all_goals first | rfl | exact fun w => w | exact fun _ w => w | exact Nat.le_refl _ | exact Nat.le_succ _ | exact fun _ => rfl | exact fun _ _ => rfl | skip

theorem settled_lasts  {s : State} (h_ : Lasts b_ u_ s) : Lasts b_ u_ (settled s) := by
  unfold settled
  try dsimp only
  repeat' first | with_reducible assumption | with_reducible apply Cfg.put_lasts | with_reducible apply Due.put_lasts | with_reducible apply Lasts.foldl | (intro _ _ _) | with_reducible apply Lasts.ite | split | with_reducible apply Lasts.free | (with_reducible apply Lasts.upd <;> first | with_reducible rfl | with_reducible exact fun w => w | with_reducible exact fun _ w => w | with_reducible exact Nat.le_refl _ | skip)
  all_goals first | rfl | exact fun w => w | exact fun _ w => w | exact Nat.le_refl _ | exact Nat.le_succ _ | exact fun _ => rfl | exact fun _ _ => rfl | skip

theorem keepDue_lasts  {s : State} (h_ : Lasts b_ u_ s) : Lasts b_ u_ (keepDue s) := by
  unfold keepDue
  try dsimp only
  repeat' first | with_reducible assumption | with_reducible apply Cfg.put_lasts | with_reducible apply Due.put_lasts | with_reducible apply Lasts.foldl | (intro _ _ _) | with_reducible apply Lasts.ite | split | with_reducible apply Lasts.free | (with_reducible apply Lasts.upd <;> first | with_reducible rfl | with_reducible exact fun w => w | with_reducible exact fun _ w => w | with_reducible exact Nat.le_refl _ | skip)
  all_goals first | rfl | exact fun w => w | exact fun _ w => w | exact Nat.le_refl _ | exact Nat.le_succ _ | exact fun _ => rfl | exact fun _ _ => rfl | skip

theorem metHashed_lasts  {s : State} (h_ : Lasts b_ u_ s) : Lasts b_ u_ (metHashed s) := by
  unfold metHashed
  try dsimp only
  repeat' first | with_reducible assumption | with_reducible apply settled_lasts | with_reducible apply Lasts.foldl | (intro _ _ _) | with_reducible apply Lasts.ite | split | with_reducible apply Lasts.free | (with_reducible apply Lasts.upd <;> first | with_reducible rfl | with_reducible exact fun w => w | with_reducible exact fun _ w => w | with_reducible exact Nat.le_refl _ | skip)
  all_goals first | rfl | exact fun w => w | exact fun _ w => w | exact Nat.le_refl _ | exact Nat.le_succ _ | exact fun _ => rfl | exact fun _ _ => rfl | skip

end Sys2Proof.Machine
end

