-- ==== Sys2Proof/Laws/LastsBoot.lean ====
section
/-!
SUPPORT. What the operations of Machine/Boot.lean keep (the relation of Lasts).
-/

namespace Sys2Proof.Machine

set_option linter.all false

open Sys2Proof.Laws

variable {b_ : Bool} {u_ : State}

theorem abandonQueued_lasts  {s : State} (h_ : Lasts b_ u_ s) : Lasts b_ u_ (abandonQueued s) := by
  unfold abandonQueued
  try dsimp only
  repeat' first | with_reducible assumption | with_reducible apply driverOff_lasts | with_reducible apply Lasts.foldl | (intro _ _ _) | with_reducible apply Lasts.ite | split | with_reducible apply Lasts.free | (with_reducible apply Lasts.upd <;> first | with_reducible rfl | with_reducible exact fun w => w | with_reducible exact fun _ w => w | with_reducible exact Nat.le_refl _ | skip)
  all_goals first | rfl | exact fun w => w | exact fun _ w => w | exact Nat.le_refl _ | exact Nat.le_succ _ | exact fun _ => rfl | exact fun _ _ => rfl | skip

theorem clearHostLeave_lasts  {s : State} (h_ : Lasts b_ u_ s) : Lasts b_ u_ (clearHostLeave s) := by
  unfold clearHostLeave
  try dsimp only
  repeat' first | with_reducible assumption | with_reducible apply Lasts.foldl | (intro _ _ _) | with_reducible apply Lasts.ite | split | with_reducible apply Lasts.free | (with_reducible apply Lasts.upd <;> first | with_reducible rfl | with_reducible exact fun w => w | with_reducible exact fun _ w => w | with_reducible exact Nat.le_refl _ | skip)
  all_goals first | rfl | exact fun w => w | exact fun _ w => w | exact Nat.le_refl _ | exact Nat.le_succ _ | exact fun _ => rfl | exact fun _ _ => rfl | skip

theorem dropActivation_lasts  {s : State} (h_ : Lasts b_ u_ s) : Lasts b_ u_ (dropActivation s) := by
  unfold dropActivation
  try dsimp only
  repeat' first | with_reducible assumption | with_reducible apply abandonActivation_lasts | with_reducible apply Lasts.foldl | (intro _ _ _) | with_reducible apply Lasts.ite | split | with_reducible apply Lasts.free | (with_reducible apply Lasts.upd <;> first | with_reducible rfl | with_reducible exact fun w => w | with_reducible exact fun _ w => w | with_reducible exact Nat.le_refl _ | skip)
  all_goals first | rfl | exact fun w => w | exact fun _ w => w | exact Nat.le_refl _ | exact Nat.le_succ _ | exact fun _ => rfl | exact fun _ _ => rfl | skip

theorem clearCore_lasts  {s : State} (h_ : Lasts b_ u_ s) : Lasts b_ u_ (clearCore s) := by
  unfold clearCore
  try dsimp only
  repeat' first | with_reducible assumption | with_reducible apply clearHostLeave_lasts | with_reducible apply abandonQueued_lasts | with_reducible apply displayCoreReset_lasts | with_reducible apply loadsCoreReset_lasts | with_reducible apply dropActivation_lasts | with_reducible apply Lasts.foldl | (intro _ _ _) | with_reducible apply Lasts.ite | split | with_reducible apply Lasts.free | (with_reducible apply Lasts.upd <;> first | with_reducible rfl | with_reducible exact fun w => w | with_reducible exact fun _ w => w | with_reducible exact Nat.le_refl _ | skip)
  all_goals first | rfl | exact fun w => w | exact fun _ w => w | exact Nat.le_refl _ | exact Nat.le_succ _ | exact fun _ => rfl | exact fun _ _ => rfl | skip

theorem clearRegions_lasts  {s : State} (h_ : Lasts b_ u_ s) : Lasts b_ u_ (clearRegions s) := by
  unfold clearRegions
  try dsimp only
  repeat' first | with_reducible assumption | with_reducible apply Lasts.foldl | (intro _ _ _) | with_reducible apply Lasts.ite | split | with_reducible apply Lasts.free | (with_reducible apply Lasts.upd <;> first | with_reducible rfl | with_reducible exact fun w => w | with_reducible exact fun _ w => w | with_reducible exact Nat.le_refl _ | skip)
  all_goals first | rfl | exact fun w => w | exact fun _ w => w | exact Nat.le_refl _ | exact Nat.le_succ _ | exact fun _ => rfl | exact fun _ _ => rfl | skip

theorem clearSystem_lasts  {s : State} (h_ : Lasts b_ u_ s) : Lasts b_ u_ (clearSystem s) := by
  unfold clearSystem
  try dsimp only
  repeat' first | with_reducible assumption | with_reducible apply clearRegions_lasts | with_reducible apply displaySystemReset_lasts | with_reducible apply storageReset_lasts | with_reducible apply keepDue_lasts | with_reducible apply Lasts.foldl | (intro _ _ _) | with_reducible apply Lasts.ite | split | with_reducible apply Lasts.free | (with_reducible apply Lasts.upd <;> first | with_reducible rfl | with_reducible exact fun w => w | with_reducible exact fun _ w => w | with_reducible exact Nat.le_refl _ | skip)
  all_goals first | rfl | exact fun w => w | exact fun _ w => w | exact Nat.le_refl _ | exact Nat.le_succ _ | exact fun _ => rfl | exact fun _ _ => rfl | skip

theorem clearPowerOn_lasts  {s : State} (h_ : Lasts b_ u_ s) : Lasts b_ u_ (clearPowerOn s) := by
  unfold clearPowerOn
  try dsimp only
  repeat' first | with_reducible assumption | with_reducible apply clearSystem_lasts | with_reducible apply Lasts.foldl | (intro _ _ _) | with_reducible apply Lasts.ite | split | with_reducible apply Lasts.free | (with_reducible apply Lasts.upd <;> first | with_reducible rfl | with_reducible exact fun w => w | with_reducible exact fun _ w => w | with_reducible exact Nat.le_refl _ | skip)
  all_goals first | rfl | exact fun w => w | exact fun _ w => w | exact Nat.le_refl _ | exact Nat.le_succ _ | exact fun _ => rfl | exact fun _ _ => rfl | skip

theorem takeEffect_lasts  {s : State} (h_ : Lasts b_ u_ s) : Lasts b_ u_ (takeEffect s) := by
  unfold takeEffect
  try dsimp only
  repeat' first | with_reducible assumption | with_reducible apply clearCore_lasts | with_reducible apply clearSystem_lasts | with_reducible apply closeAll_lasts | with_reducible apply clearPowerOn_lasts | with_reducible apply releaseAll_lasts | with_reducible refine updRst_lasts ?_ (fun w_ => w_) | with_reducible apply Lasts.foldl | (intro _ _ _) | with_reducible apply Lasts.ite | split | with_reducible apply Lasts.free | (with_reducible apply Lasts.upd <;> first | with_reducible rfl | with_reducible exact fun w => w | with_reducible exact fun _ w => w | with_reducible exact Nat.le_refl _ | skip)
  all_goals first | rfl | exact fun w => w | exact fun _ w => w | exact Nat.le_refl _ | exact Nat.le_succ _ | exact fun _ => rfl | exact fun _ _ => rfl | skip

theorem pilotsUp_lasts  {s : State} (h_ : Lasts b_ u_ s) : Lasts b_ u_ (pilotsUp s) := by
  unfold pilotsUp
  try dsimp only
  repeat' first | with_reducible assumption | with_reducible apply Lasts.foldl | (intro _ _ _) | with_reducible apply Lasts.ite | split | with_reducible apply Lasts.free | (with_reducible apply Lasts.upd <;> first | with_reducible rfl | with_reducible exact fun w => w | with_reducible exact fun _ w => w | with_reducible exact Nat.le_refl _ | skip)
  all_goals first | rfl | exact fun w => w | exact fun _ w => w | exact Nat.le_refl _ | exact Nat.le_succ _ | exact fun _ => rfl | exact fun _ _ => rfl | skip

theorem bootStep1_lasts (b : BootIn) {s : State} (h_ : Lasts b_ u_ s) : Lasts b_ u_ (bootStep1 b s) := by
  unfold bootStep1
  try dsimp only
  repeat' first | with_reducible assumption | with_reducible refine updRst_lasts ?_ (fun w_ => w_) | with_reducible apply debugAttempt_lasts | with_reducible apply releaseAll_lasts | with_reducible apply pilotsUp_lasts | with_reducible apply noteSource_lasts | with_reducible apply Lasts.foldl | (intro _ _ _) | with_reducible apply Lasts.ite | split | with_reducible apply Lasts.free | (with_reducible apply Lasts.upd <;> first | with_reducible rfl | with_reducible exact fun w => w | with_reducible exact fun _ w => w | with_reducible exact Nat.le_refl _ | skip)
  all_goals first | rfl | exact fun w => w | exact fun _ w => w | exact Nat.le_refl _ | exact Nat.le_succ _ | exact fun _ => rfl | exact fun _ _ => rfl | skip

theorem restoreEnergy_lasts (i : Nat) (c : Slot) {s : State} (h_ : Lasts b_ u_ s) : Lasts b_ u_ (restoreEnergy i c s) := by
  unfold restoreEnergy
  try dsimp only
  repeat' first | with_reducible assumption | with_reducible apply Lasts.foldl | (intro _ _ _) | with_reducible apply Lasts.ite | split | with_reducible apply Lasts.free | (with_reducible apply Lasts.upd <;> first | with_reducible rfl | with_reducible exact fun w => w | with_reducible exact fun _ w => w | with_reducible exact Nat.le_refl _ | skip)
  all_goals first | rfl | exact fun w => w | exact fun _ w => w | exact Nat.le_refl _ | exact Nat.le_succ _ | exact fun _ => rfl | exact fun _ _ => rfl | skip

theorem restoreBilling_lasts (c : Slot) {s : State} (h_ : Lasts b_ u_ s) : Lasts b_ u_ (restoreBilling c s) := by
  unfold restoreBilling
  try dsimp only
  repeat' first | with_reducible assumption | with_reducible apply Lasts.foldl | (intro _ _ _) | with_reducible apply Lasts.ite | split | with_reducible apply Lasts.free | (with_reducible apply Lasts.upd <;> first | with_reducible rfl | with_reducible exact fun w => w | with_reducible exact fun _ w => w | with_reducible exact Nat.le_refl _ | skip)
  all_goals first | rfl | exact fun w => w | exact fun _ w => w | exact Nat.le_refl _ | exact Nat.le_succ _ | exact fun _ => rfl | exact fun _ _ => rfl | skip

theorem signInterrupted_lasts  {s0 : State} (h_ : Lasts b_ u_ s0) : Lasts b_ u_ (signInterrupted s0) := by
  unfold signInterrupted
  try dsimp only
  repeat' first | with_reducible assumption | with_reducible apply setSessionFlag_lasts | with_reducible apply signClosing_lasts | with_reducible apply Lasts.foldl | (intro _ _ _) | with_reducible apply Lasts.ite | split | with_reducible apply Lasts.free | (with_reducible apply Lasts.upd <;> first | with_reducible rfl | with_reducible exact fun w => w | with_reducible exact fun _ w => w | with_reducible exact Nat.le_refl _ | skip)
  all_goals first | rfl | exact fun w => w | exact fun _ w => w | exact Nat.le_refl _ | exact Nat.le_succ _ | exact fun _ => rfl | exact fun _ _ => rfl | skip

theorem rebuildWindow_lasts (e : Nat) {s : State} (h_ : Lasts b_ u_ s) : Lasts b_ u_ (rebuildWindow s e) := by
  unfold rebuildWindow
  try dsimp only
  repeat' first | with_reducible assumption | with_reducible apply takeBoundary_lasts | with_reducible apply closeWindow_lasts | with_reducible apply Lasts.foldl | (intro _ _ _) | with_reducible apply Lasts.ite | split | with_reducible apply Lasts.free | (with_reducible apply Lasts.upd <;> first | with_reducible rfl | with_reducible exact fun w => w | with_reducible exact fun _ w => w | with_reducible exact Nat.le_refl _ | skip)
  all_goals first | rfl | exact fun w => w | exact fun _ w => w | exact Nat.le_refl _ | exact Nat.le_succ _ | exact fun _ => rfl | exact fun _ _ => rfl | skip

theorem rebuildTariff_lasts  {s : State} (h_ : Lasts b_ u_ s) : Lasts b_ u_ (rebuildTariff s) := by
  unfold rebuildTariff
  try dsimp only
  repeat' first | with_reducible assumption | with_reducible apply takeBoundary_lasts | with_reducible apply Lasts.foldl | (intro _ _ _) | with_reducible apply Lasts.ite | split | with_reducible apply Lasts.free | (with_reducible apply Lasts.upd <;> first | with_reducible rfl | with_reducible exact fun w => w | with_reducible exact fun _ w => w | with_reducible exact Nat.le_refl _ | skip)
  all_goals first | rfl | exact fun w => w | exact fun _ w => w | exact Nat.le_refl _ | exact Nat.le_succ _ | exact fun _ => rfl | exact fun _ _ => rfl | skip

theorem rebuildBoundaries_lasts  {s : State} (h_ : Lasts b_ u_ s) : Lasts b_ u_ (rebuildBoundaries s) := by
  unfold rebuildBoundaries
  try dsimp only
  repeat' first | with_reducible assumption | with_reducible apply rebuildWindow_lasts | with_reducible apply rebuildTariff_lasts | with_reducible apply Lasts.foldl | (intro _ _ _) | with_reducible apply Lasts.ite | split | with_reducible apply Lasts.free | (with_reducible apply Lasts.upd <;> first | with_reducible rfl | with_reducible exact fun w => w | with_reducible exact fun _ w => w | with_reducible exact Nat.le_refl _ | skip)
  all_goals first | rfl | exact fun w => w | exact fun _ w => w | exact Nat.le_refl _ | exact Nat.le_succ _ | exact fun _ => rfl | exact fun _ _ => rfl | skip

theorem reopenEntries_lasts (point : Nat) {s : State} (h_ : Lasts b_ u_ s) : Lasts b_ u_ (reopenEntries point s) := by
  unfold reopenEntries
  try dsimp only
  repeat' first | with_reducible assumption | with_reducible apply Lasts.foldl | (intro _ _ _) | with_reducible apply Lasts.ite | split | with_reducible apply Lasts.free | (with_reducible apply Lasts.upd <;> first | with_reducible rfl | with_reducible exact fun w => w | with_reducible exact fun _ w => w | with_reducible exact Nat.le_refl _ | skip)
  all_goals first | rfl | exact fun w => w | exact fun _ w => w | exact Nat.le_refl _ | exact Nat.le_succ _ | exact fun _ => rfl | exact fun _ _ => rfl | skip

theorem bootLatch_lasts (b : BootIn) {s : State} (h_ : Lasts b_ u_ s) : Lasts b_ u_ (bootLatch b s) := by
  unfold bootLatch
  try dsimp only
  repeat' first | with_reducible assumption | with_reducible apply signSealBroken_lasts | with_reducible apply Lasts.foldl | (intro _ _ _) | with_reducible apply Lasts.ite | split | with_reducible apply Lasts.free | (with_reducible apply Lasts.upd <;> first | with_reducible rfl | with_reducible exact fun w => w | with_reducible exact fun _ w => w | with_reducible exact Nat.le_refl _ | skip)
  all_goals first | rfl | exact fun w => w | exact fun _ w => w | exact Nat.le_refl _ | exact Nat.le_succ _ | exact fun _ => rfl | exact fun _ _ => rfl | skip

theorem retentionSeal_lasts (legal : Nat) {s : State} (h_ : Lasts b_ u_ s) : Lasts b_ u_ (retentionSeal legal s) := by
  unfold retentionSeal
  try dsimp only
  repeat' first | with_reducible assumption | with_reducible apply Lasts.foldl | (intro _ _ _) | with_reducible apply Lasts.ite | split | with_reducible apply Lasts.free | (with_reducible apply Lasts.upd <;> first | with_reducible rfl | with_reducible exact fun w => w | with_reducible exact fun _ w => w | with_reducible exact Nat.le_refl _ | skip)
  all_goals first | rfl | exact fun w => w | exact fun _ w => w | exact Nat.le_refl _ | exact Nat.le_succ _ | exact fun _ => rfl | exact fun _ _ => rfl | skip

theorem bootRetention_lasts  {s : State} (h_ : Lasts b_ u_ s) : Lasts b_ u_ (bootRetention s) := by
  unfold bootRetention
  try dsimp only
  repeat' first | with_reducible assumption | with_reducible apply retentionSeal_lasts | with_reducible apply Lasts.foldl | (intro _ _ _) | with_reducible apply Lasts.ite | split | with_reducible apply Lasts.free | (with_reducible apply Lasts.upd <;> first | with_reducible rfl | with_reducible exact fun w => w | with_reducible exact fun _ w => w | with_reducible exact Nat.le_refl _ | skip)
  all_goals first | rfl | exact fun w => w | exact fun _ w => w | exact Nat.le_refl _ | exact Nat.le_succ _ | exact fun _ => rfl | exact fun _ _ => rfl | skip

theorem bootFilters_lasts  {s : State} (h_ : Lasts b_ u_ s) : Lasts b_ u_ (bootFilters s) := by
  unfold bootFilters
  try dsimp only
  repeat' first | with_reducible assumption | with_reducible apply decimatorReset_lasts | with_reducible apply startEngines_lasts | with_reducible apply Lasts.foldl | (intro _ _ _) | with_reducible apply Lasts.ite | split | with_reducible apply Lasts.free | (with_reducible apply Lasts.upd <;> first | with_reducible rfl | with_reducible exact fun w => w | with_reducible exact fun _ w => w | with_reducible exact Nat.le_refl _ | skip)
  all_goals first | rfl | exact fun w => w | exact fun _ w => w | exact Nat.le_refl _ | exact Nat.le_succ _ | exact fun _ => rfl | exact fun _ _ => rfl | skip

theorem metReplayed_lasts  {s : State} (h_ : Lasts b_ u_ s) : Lasts b_ u_ (metReplayed s) := by
  unfold metReplayed
  try dsimp only
  repeat' first | with_reducible assumption | with_reducible apply metRetire_lasts | with_reducible apply Lasts.foldl | (intro _ _ _) | with_reducible apply Lasts.ite | split | with_reducible apply Lasts.free | (with_reducible apply Lasts.upd <;> first | with_reducible rfl | with_reducible exact fun w => w | with_reducible exact fun _ w => w | with_reducible exact Nat.le_refl _ | skip)
  all_goals first | rfl | exact fun w => w | exact fun _ w => w | exact Nat.le_refl _ | exact Nat.le_succ _ | exact fun _ => rfl | exact fun _ _ => rfl | skip

theorem appReplayed_lasts  {s : State} (h_ : Lasts b_ u_ s) : Lasts b_ u_ (appReplayed s) := by
  unfold appReplayed
  try dsimp only
  repeat' first | with_reducible assumption | with_reducible apply Lasts.foldl | (intro _ _ _) | with_reducible apply Lasts.ite | split | with_reducible apply Lasts.free | (with_reducible apply Lasts.upd <;> first | with_reducible rfl | with_reducible exact fun w => w | with_reducible exact fun _ w => w | with_reducible exact Nat.le_refl _ | skip)
  all_goals first | rfl | exact fun w => w | exact fun _ w => w | exact Nat.le_refl _ | exact Nat.le_succ _ | exact fun _ => rfl | exact fun _ _ => rfl | skip

theorem bootStep3_lasts (b : BootIn) {s : State} (h_ : Lasts b_ u_ s) : Lasts b_ u_ (bootStep3 b s) := by
  unfold bootStep3
  try dsimp only
  repeat' first | with_reducible assumption | with_reducible apply bootFilters_lasts | with_reducible apply bootRetention_lasts | with_reducible apply updCause_lasts | with_reducible apply restoreBilling_lasts | with_reducible apply restoreEnergy_lasts | with_reducible apply signInterrupted_lasts | with_reducible apply bootLatch_lasts | with_reducible apply signBenchmark_lasts | with_reducible apply clearPulses_lasts | with_reducible apply metReplayed_lasts | with_reducible apply commits_lasts | with_reducible apply rebuildBoundaries_lasts | with_reducible apply reopenEntries_lasts | with_reducible apply Lasts.foldl | (intro _ _ _) | with_reducible apply Lasts.ite | split | with_reducible apply Lasts.free | (with_reducible apply Lasts.upd <;> first | with_reducible rfl | with_reducible exact fun w => w | with_reducible exact fun _ w => w | with_reducible exact Nat.le_refl _ | skip)
  all_goals first | rfl | exact fun w => w | exact fun _ w => w | exact Nat.le_refl _ | exact Nat.le_succ _ | exact fun _ => rfl | exact fun _ _ => rfl | skip

theorem bootStep2_lasts (b : BootIn) {s : State} (h_ : Lasts b_ u_ s) : Lasts b_ u_ (bootStep2 b s) := by
  unfold bootStep2
  try dsimp only
  repeat' first | with_reducible assumption | with_reducible apply Lasts.foldl | (intro _ _ _) | with_reducible apply Lasts.ite | split | with_reducible apply Lasts.free | (with_reducible apply Lasts.upd <;> first | with_reducible rfl | with_reducible exact fun w => w | with_reducible exact fun _ w => w | with_reducible exact Nat.le_refl _ | skip)
  all_goals first | rfl | exact fun w => w | exact fun _ w => w | exact Nat.le_refl _ | exact Nat.le_succ _ | exact fun _ => rfl | exact fun _ _ => rfl | skip

theorem releaseCells_lasts (region legal : Nat) {s : State} (h_ : Lasts b_ u_ s) : Lasts b_ u_ (releaseCells region legal s) := by
  unfold releaseCells
  try dsimp only
  repeat' first | with_reducible assumption | with_reducible apply Lasts.foldl | (intro _ _ _) | with_reducible apply Lasts.ite | split | with_reducible apply Lasts.free | (with_reducible apply Lasts.upd <;> first | with_reducible rfl | with_reducible exact fun w => w | with_reducible exact fun _ w => w | with_reducible exact Nat.le_refl _ | skip)
  all_goals first | rfl | exact fun w => w | exact fun _ w => w | exact Nat.le_refl _ | exact Nat.le_succ _ | exact fun _ => rfl | exact fun _ _ => rfl | skip

theorem selfTests_lasts (region : Nat) (b : BootIn) {s : State} (h_ : Lasts b_ u_ s) : Lasts b_ u_ (selfTests region b s) := by
  unfold selfTests
  try dsimp only
  repeat' first | with_reducible assumption | with_reducible apply isolateCell_lasts | with_reducible apply releaseCells_lasts | with_reducible apply Lasts.foldl | (intro _ _ _) | with_reducible apply Lasts.ite | split | with_reducible apply Lasts.free | (with_reducible apply Lasts.upd <;> first | with_reducible rfl | with_reducible exact fun w => w | with_reducible exact fun _ w => w | with_reducible exact Nat.le_refl _ | skip)
  all_goals first | rfl | exact fun w => w | exact fun _ w => w | exact Nat.le_refl _ | exact Nat.le_succ _ | exact fun _ => rfl | exact fun _ _ => rfl | skip

theorem bootStepTo_lasts (k : Nat) {step : State → State} {s : State} (h_ : Lasts b_ u_ s)
    (hr_ : ∀ t, Lasts b_ u_ t → Lasts b_ u_ (step t)) : Lasts b_ u_ (bootStepTo k step s) := by
  unfold bootStepTo
  with_reducible apply Lasts.ite h_
  exact hr_ _ (updRst_lasts h_ (fun w => w))

theorem bootStep5_lasts (b : BootIn) {s : State} (h_ : Lasts b_ u_ s) : Lasts b_ u_ (bootStep5 b s) := by
  unfold bootStep5
  try dsimp only
  repeat' first | with_reducible assumption | with_reducible apply Lasts.foldl | (intro _ _ _) | with_reducible apply Lasts.ite | split | with_reducible apply Lasts.free | (with_reducible apply Lasts.upd <;> first | with_reducible rfl | with_reducible exact fun w => w | with_reducible exact fun _ w => w | with_reducible exact Nat.le_refl _ | skip)
  all_goals first | rfl | exact fun w => w | exact fun _ w => w | exact Nat.le_refl _ | exact Nat.le_succ _ | exact fun _ => rfl | exact fun _ _ => rfl | skip

theorem bootRegions_lasts (b : BootIn) {s : State} (h_ : Lasts b_ u_ s) : Lasts b_ u_ (bootRegions b s) := by
  unfold bootRegions
  try dsimp only
  repeat' first | with_reducible assumption | with_reducible refine bootStepTo_lasts _ ?_ (fun _ _ => ?_) | with_reducible apply selfTests_lasts | with_reducible apply bootStep2_lasts | with_reducible apply bootStep3_lasts | with_reducible apply bootStep5_lasts | with_reducible apply Lasts.foldl | (intro _ _ _) | with_reducible apply Lasts.ite | split | with_reducible apply Lasts.free | (with_reducible apply Lasts.upd <;> first | with_reducible rfl | with_reducible exact fun w => w | with_reducible exact fun _ w => w | with_reducible exact Nat.le_refl _ | skip)
  all_goals first | rfl | exact fun w => w | exact fun _ w => w | exact Nat.le_refl _ | exact Nat.le_succ _ | exact fun _ => rfl | exact fun _ _ => rfl | skip

theorem bootStep6_lasts (b : BootIn) {s : State} (h_ : Lasts b_ u_ s) : Lasts b_ u_ (bootStep6 b s) := by
  unfold bootStep6
  try dsimp only
  repeat' first | with_reducible assumption | with_reducible refine updRst_lasts ?_ (fun w_ => w_) | with_reducible apply bootImage_lasts | with_reducible apply appReplayed_lasts | with_reducible apply selfTests_lasts | with_reducible apply assertSource_lasts | with_reducible apply Lasts.foldl | (intro _ _ _) | with_reducible apply Lasts.ite | split | with_reducible apply Lasts.free | (with_reducible apply Lasts.upd <;> first | with_reducible rfl | with_reducible exact fun w => w | with_reducible exact fun _ w => w | with_reducible exact Nat.le_refl _ | skip)
  all_goals first | rfl | exact fun w => w | exact fun _ w => w | exact Nat.le_refl _ | exact Nat.le_succ _ | exact fun _ => rfl | exact fun _ _ => rfl | skip

theorem bootFrom_lasts (b : BootIn) (k : Nat) {s : State} (h_ : Lasts b_ u_ s) : Lasts b_ u_ (bootFrom b k s) := by
  unfold bootFrom
  try dsimp only
  repeat' first | with_reducible assumption | with_reducible apply bootStep1_lasts | with_reducible refine updRst_lasts ?_ (fun w_ => w_) | with_reducible apply bootRegions_lasts | with_reducible apply bootStep6_lasts | with_reducible apply Lasts.foldl | (intro _ _ _) | with_reducible apply Lasts.ite | split | with_reducible apply Lasts.free | (with_reducible apply Lasts.upd <;> first | with_reducible rfl | with_reducible exact fun w => w | with_reducible exact fun _ w => w | with_reducible exact Nat.le_refl _ | skip)
  all_goals first | rfl | exact fun w => w | exact fun _ w => w | exact Nat.le_refl _ | exact Nat.le_succ _ | exact fun _ => rfl | exact fun _ _ => rfl | skip

theorem vbatMeasured_lasts (mv : Nat) {s : State} (h_ : Lasts b_ u_ s) : Lasts b_ u_ (vbatMeasured mv s) := by
  unfold vbatMeasured
  try dsimp only
  repeat' first | with_reducible assumption | with_reducible apply event_lasts | with_reducible apply Lasts.foldl | (intro _ _ _) | with_reducible apply Lasts.ite | split | with_reducible apply Lasts.free | (with_reducible apply Lasts.upd <;> first | with_reducible rfl | with_reducible exact fun w => w | with_reducible exact fun _ w => w | with_reducible exact Nat.le_refl _ | skip)
  all_goals first | rfl | exact fun w => w | exact fun _ w => w | exact Nat.le_refl _ | exact Nat.le_succ _ | exact fun _ => rfl | exact fun _ _ => rfl | skip

theorem readyTail_lasts (vbatMv : Nat) {s : State} (h_ : Lasts b_ u_ s) : Lasts b_ u_ (readyTail vbatMv s) := by
  unfold readyTail
  try dsimp only
  repeat' first | with_reducible assumption | with_reducible apply event_lasts | with_reducible refine updRst_lasts ?_ (fun w_ => w_) | with_reducible apply storageReady_lasts | with_reducible apply vbatMeasured_lasts | with_reducible apply requestImport_lasts | with_reducible apply chainResume_lasts | with_reducible apply Lasts.foldl | (intro _ _ _) | with_reducible apply Lasts.ite | split | with_reducible apply Lasts.free | (with_reducible apply Lasts.upd <;> first | with_reducible rfl | with_reducible exact fun w => w | with_reducible exact fun _ w => w | with_reducible exact Nat.le_refl _ | skip)
  all_goals first | rfl | exact fun w => w | exact fun _ w => w | exact Nat.le_refl _ | exact Nat.le_succ _ | exact fun _ => rfl | exact fun _ _ => rfl | skip

theorem bootRefusedReport_lasts  {s : State} (h_ : Lasts b_ u_ s) : Lasts b_ u_ (bootRefusedReport s) := by
  unfold bootRefusedReport
  try dsimp only
  repeat' first | with_reducible assumption | with_reducible apply event_lasts | with_reducible refine updRst_lasts ?_ (fun w_ => w_) | with_reducible apply Lasts.foldl | (intro _ _ _) | with_reducible apply Lasts.ite | split | with_reducible apply Lasts.free | (with_reducible apply Lasts.upd <;> first | with_reducible rfl | with_reducible exact fun w => w | with_reducible exact fun _ w => w | with_reducible exact Nat.le_refl _ | skip)
  all_goals first | rfl | exact fun w => w | exact fun _ w => w | exact Nat.le_refl _ | exact Nat.le_succ _ | exact fun _ => rfl | exact fun _ _ => rfl | skip

theorem restoreReport_lasts  {s : State} (h_ : Lasts b_ u_ s) : Lasts b_ u_ (restoreReport s) := by
  unfold restoreReport
  try dsimp only
  repeat' first | with_reducible assumption | with_reducible apply event_lasts | with_reducible apply Lasts.foldl | (intro _ _ _) | with_reducible apply Lasts.ite | split | with_reducible apply Lasts.free | (with_reducible apply Lasts.upd <;> first | with_reducible rfl | with_reducible exact fun w => w | with_reducible exact fun _ w => w | with_reducible exact Nat.le_refl _ | skip)
  all_goals first | rfl | exact fun w => w | exact fun _ w => w | exact Nat.le_refl _ | exact Nat.le_succ _ | exact fun _ => rfl | exact fun _ _ => rfl | skip

theorem testCutReport_lasts  {s : State} (h_ : Lasts b_ u_ s) : Lasts b_ u_ (testCutReport s) := by
  unfold testCutReport
  try dsimp only
  repeat' first | with_reducible assumption | with_reducible apply event_lasts | with_reducible apply Lasts.foldl | (intro _ _ _) | with_reducible apply Lasts.ite | split | with_reducible apply Lasts.free | (with_reducible apply Lasts.upd <;> first | with_reducible rfl | with_reducible exact fun w => w | with_reducible exact fun _ w => w | with_reducible exact Nat.le_refl _ | skip)
  all_goals first | rfl | exact fun w => w | exact fun _ w => w | exact Nat.le_refl _ | exact Nat.le_succ _ | exact fun _ => rfl | exact fun _ _ => rfl | skip

theorem readyWide_lasts (m : Mode) {s : State} (h_ : Lasts b_ u_ s) : Lasts b_ u_ (readyWide m s) := by
  unfold readyWide
  try dsimp only
  repeat' first | with_reducible assumption | with_reducible apply event_lasts | with_reducible apply testCutReport_lasts | with_reducible apply restoreReport_lasts | with_reducible apply bootRefusedReport_lasts | with_reducible apply displayReady_lasts | with_reducible apply witnessSync_lasts | with_reducible apply requestTrv_lasts | with_reducible apply priceCheck_lasts | with_reducible apply reclaimResume_lasts | with_reducible apply Lasts.foldl | (intro _ _ _) | with_reducible apply Lasts.ite | split | with_reducible apply Lasts.free | (with_reducible apply Lasts.upd <;> first | with_reducible rfl | with_reducible exact fun w => w | with_reducible exact fun _ w => w | with_reducible exact Nat.le_refl _ | skip)
  all_goals first | rfl | exact fun w => w | exact fun _ w => w | exact Nat.le_refl _ | exact Nat.le_succ _ | exact fun _ => rfl | exact fun _ _ => rfl | skip

theorem readyCore_lasts  {s : State} (h_ : Lasts b_ u_ s) : Lasts b_ u_ (readyCore s) := by
  unfold readyCore
  try dsimp only
  repeat' first | with_reducible assumption | with_reducible apply authEvent_lasts | with_reducible apply requestPullIn_lasts | with_reducible apply Lasts.foldl | (intro _ _ _) | with_reducible apply Lasts.ite | split | with_reducible apply Lasts.free | (with_reducible apply Lasts.upd <;> first | with_reducible rfl | with_reducible exact fun w => w | with_reducible exact fun _ w => w | with_reducible exact Nat.le_refl _ | skip)
  all_goals first | rfl | exact fun w => w | exact fun _ w => w | exact Nat.le_refl _ | exact Nat.le_succ _ | exact fun _ => rfl | exact fun _ _ => rfl | skip

theorem becomeReady_lasts (vbatMv : Nat) {s : State} (h_ : Lasts b_ u_ s) : Lasts b_ u_ (becomeReady vbatMv s) := by
  unfold becomeReady
  try dsimp only
  repeat' first | with_reducible assumption | with_reducible apply updCause_lasts | with_reducible refine updRst_lasts ?_ (fun w_ => w_) | with_reducible apply readyCore_lasts | with_reducible apply counterResume_lasts | with_reducible apply readyWide_lasts | with_reducible apply appRetire_lasts | with_reducible apply readyTail_lasts | with_reducible apply Lasts.foldl | (intro _ _ _) | with_reducible apply Lasts.ite | split | with_reducible apply Lasts.free | (with_reducible apply Lasts.upd <;> first | with_reducible rfl | with_reducible exact fun w => w | with_reducible exact fun _ w => w | with_reducible exact Nat.le_refl _ | skip)
  all_goals first | rfl | exact fun w => w | exact fun _ w => w | exact Nat.le_refl _ | exact Nat.le_succ _ | exact fun _ => rfl | exact fun _ _ => rfl | skip

end Sys2Proof.Machine
end

