-- ==== Sys2Proof/Laws/LastsInsulation.lean ====
section
/-!
SUPPORT. What the operations of Machine/Insulation.lean keep (the relation of Lasts).
-/

namespace Sys2Proof.Machine

set_option linter.all false

open Sys2Proof.Laws

variable {b_ : Bool} {u_ : State}

theorem injectedFrame_lasts  {s : State} (h_ : Lasts b_ u_ s) : Lasts b_ u_ (injectedFrame s) := by
  unfold injectedFrame
  try dsimp only
  repeat' first | with_reducible assumption | with_reducible apply Lasts.foldl | (intro _ _ _) | with_reducible apply Lasts.ite | split | with_reducible apply Lasts.free | (with_reducible apply Lasts.upd <;> first | with_reducible rfl | with_reducible exact fun w => w | with_reducible exact fun _ w => w | with_reducible exact Nat.le_refl _ | skip)
  all_goals first | rfl | exact fun w => w | exact fun _ w => w | exact Nat.le_refl _ | exact Nat.le_succ _ | exact fun _ => rfl | exact fun _ _ => rfl | skip

theorem plumbFrame_lasts  {s0 : State} (h_ : Lasts b_ u_ s0) : Lasts b_ u_ (plumbFrame s0) := by
  unfold plumbFrame
  try dsimp only
  repeat' first | with_reducible assumption | with_reducible apply submit_lasts | with_reducible apply release_lasts | with_reducible apply injectedFrame_lasts | with_reducible apply Lasts.foldl | (intro _ _ _) | with_reducible apply Lasts.ite | split | with_reducible apply Lasts.free | (with_reducible apply Lasts.upd <;> first | with_reducible rfl | with_reducible exact fun w => w | with_reducible exact fun _ w => w | with_reducible exact Nat.le_refl _ | skip)
  all_goals first | rfl | exact fun w => w | exact fun _ w => w | exact Nat.le_refl _ | exact Nat.le_succ _ | exact fun _ => rfl | exact fun _ _ => rfl | skip

theorem insEvent_lasts (code n : Nat) {s : State} (h_ : Lasts b_ u_ s) : Lasts b_ u_ (insEvent code n s) := by
  unfold insEvent
  try dsimp only
  repeat' first | with_reducible assumption | with_reducible apply event_lasts | with_reducible apply Lasts.foldl | (intro _ _ _) | with_reducible apply Lasts.ite | split | with_reducible apply Lasts.free | (with_reducible apply Lasts.upd <;> first | with_reducible rfl | with_reducible exact fun w => w | with_reducible exact fun _ w => w | with_reducible exact Nat.le_refl _ | skip)
  all_goals first | rfl | exact fun w => w | exact fun _ w => w | exact Nat.le_refl _ | exact Nat.le_succ _ | exact fun _ => rfl | exact fun _ _ => rfl | skip

theorem markLocated_lasts (mask : BitVec 8) {s : State} (h_ : Lasts b_ u_ s) : Lasts b_ u_ (markLocated mask s) := by
  unfold markLocated
  try dsimp only
  repeat' first | with_reducible assumption | with_reducible apply updIns_lasts | with_reducible apply Lasts.foldl | (intro _ _ _) | with_reducible apply Lasts.ite | split | with_reducible apply Lasts.free | (with_reducible apply Lasts.upd <;> first | with_reducible rfl | with_reducible exact fun w => w | with_reducible exact fun _ w => w | with_reducible exact Nat.le_refl _ | skip)
  all_goals first | rfl | exact fun w => w | exact fun _ w => w | exact Nat.le_refl _ | exact Nat.le_succ _ | exact fun _ => rfl | exact fun _ _ => rfl | skip

theorem startLocate_lasts (n : Nat) {s : State} (h_ : Lasts b_ u_ s) : Lasts b_ u_ (startLocate n s) := by
  unfold startLocate
  try dsimp only
  repeat' first | with_reducible assumption | with_reducible apply event_lasts | with_reducible apply markLocated_lasts | with_reducible apply Lasts.foldl | (intro _ _ _) | with_reducible apply Lasts.ite | split | with_reducible apply Lasts.free | (with_reducible apply Lasts.upd <;> first | with_reducible rfl | with_reducible exact fun w => w | with_reducible exact fun _ w => w | with_reducible exact Nat.le_refl _ | skip)
  all_goals first | rfl | exact fun w => w | exact fun _ w => w | exact Nat.le_refl _ | exact Nat.le_succ _ | exact fun _ => rfl | exact fun _ _ => rfl | skip

theorem insulationStop_lasts (owner : Nat) {s : State} (h_ : Lasts b_ u_ s) : Lasts b_ u_ (insulationStop owner s) := by
  unfold insulationStop
  try dsimp only
  repeat' first | with_reducible assumption | with_reducible apply demandStop_lasts | with_reducible apply startLocate_lasts | with_reducible apply failSequence_lasts | with_reducible apply endAfterStop_lasts | with_reducible apply Lasts.foldl | (intro _ _ _) | with_reducible apply Lasts.ite | split | with_reducible apply Lasts.free | (with_reducible apply Lasts.upd <;> first | with_reducible rfl | with_reducible exact fun w => w | with_reducible exact fun _ w => w | with_reducible exact Nat.le_refl _ | skip)
  all_goals first | rfl | exact fun w => w | exact fun _ w => w | exact Nat.le_refl _ | exact Nat.le_succ _ | exact fun _ => rfl | exact fun _ _ => rfl | skip

theorem judgeIns_lasts (n : Nat) (g e : BitVec 8) (r : Option Reading) {s : State} (h_ : Lasts b_ u_ s) : Lasts b_ u_ (judgeIns n g e r s) := by
  unfold judgeIns
  try dsimp only
  repeat' first | with_reducible assumption | with_reducible apply updIns_lasts | with_reducible apply insEvent_lasts | with_reducible apply Lasts.foldl | (intro _ _ _) | with_reducible apply Lasts.ite | split | with_reducible apply Lasts.free | (with_reducible apply Lasts.upd <;> first | with_reducible rfl | with_reducible exact fun w => w | with_reducible exact fun _ w => w | with_reducible exact Nat.le_refl _ | skip)
  all_goals first | rfl | exact fun w => w | exact fun _ w => w | exact Nat.le_refl _ | exact Nat.le_succ _ | exact fun _ => rfl | exact fun _ _ => rfl | skip

theorem cableResult_lasts (n : Nat) {s : State} (h_ : Lasts b_ u_ s) : Lasts b_ u_ (cableResult n s) := by
  unfold cableResult
  try dsimp only
  repeat' first | with_reducible assumption | with_reducible apply updSq_lasts | with_reducible apply Lasts.foldl | (intro _ _ _) | with_reducible apply Lasts.ite | split | with_reducible apply Lasts.free | (with_reducible apply Lasts.upd <;> first | with_reducible rfl | with_reducible exact fun w => w | with_reducible exact fun _ w => w | with_reducible exact Nat.le_refl _ | skip)
  all_goals first | rfl | exact fun w => w | exact fun _ w => w | exact Nat.le_refl _ | exact Nat.le_succ _ | exact fun _ => rfl | exact fun _ _ => rfl | skip

theorem judgeGroup_lasts (n : Nat) (g e : BitVec 8) {s : State} (h_ : Lasts b_ u_ s) : Lasts b_ u_ (judgeGroup n g e s) := by
  unfold judgeGroup
  try dsimp only
  repeat' first | with_reducible assumption | with_reducible apply updIns_lasts | with_reducible apply event_lasts | with_reducible apply demandStop_lasts | with_reducible apply Lasts.foldl | (intro _ _ _) | with_reducible apply Lasts.ite | split | with_reducible apply Lasts.free | (with_reducible apply Lasts.upd <;> first | with_reducible rfl | with_reducible exact fun w => w | with_reducible exact fun _ w => w | with_reducible exact Nat.le_refl _ | skip)
  all_goals first | rfl | exact fun w => w | exact fun _ w => w | exact Nat.le_refl _ | exact Nat.le_succ _ | exact fun _ => rfl | exact fun _ _ => rfl | skip

theorem locatePeriod_lasts  {s : State} (h_ : Lasts b_ u_ s) : Lasts b_ u_ (locatePeriod s) := by
  unfold locatePeriod
  try dsimp only
  repeat' first | with_reducible assumption | with_reducible apply markLocated_lasts | with_reducible apply event_lasts | with_reducible apply Lasts.foldl | (intro _ _ _) | with_reducible apply Lasts.ite | split | with_reducible apply Lasts.free | (with_reducible apply Lasts.upd <;> first | with_reducible rfl | with_reducible exact fun w => w | with_reducible exact fun _ w => w | with_reducible exact Nat.le_refl _ | skip)
  all_goals first | rfl | exact fun w => w | exact fun _ w => w | exact Nat.le_refl _ | exact Nat.le_succ _ | exact fun _ => rfl | exact fun _ _ => rfl | skip

theorem updateCorr_lasts (k endLegal n : Nat) {s : State} (h_ : Lasts b_ u_ s) : Lasts b_ u_ (updateCorr k endLegal n s) := by
  unfold updateCorr
  try dsimp only
  repeat' first | with_reducible assumption | with_reducible apply Lasts.foldl | (intro _ _ _) | with_reducible apply Lasts.ite | split | with_reducible apply Lasts.free | (with_reducible apply Lasts.upd <;> first | with_reducible rfl | with_reducible exact fun w => w | with_reducible exact fun _ w => w | with_reducible exact Nat.le_refl _ | skip)
  all_goals first | rfl | exact fun w => w | exact fun _ w => w | exact Nat.le_refl _ | exact Nat.le_succ _ | exact fun _ => rfl | exact fun _ _ => rfl | skip

theorem judgePeriod_lasts  {s : State} (h_ : Lasts b_ u_ s) : Lasts b_ u_ (judgePeriod s) := by
  unfold judgePeriod
  try dsimp only
  repeat' first | with_reducible assumption | with_reducible apply judgeIns_lasts | with_reducible apply judgeGroup_lasts | with_reducible apply cableResult_lasts | with_reducible apply locatePeriod_lasts | with_reducible apply insulationStop_lasts | with_reducible apply Lasts.foldl | (intro _ _ _) | with_reducible apply Lasts.ite | split | with_reducible apply Lasts.free | (with_reducible apply Lasts.upd <;> first | with_reducible rfl | with_reducible exact fun w => w | with_reducible exact fun _ w => w | with_reducible exact Nat.le_refl _ | skip)
  all_goals first | rfl | exact fun w => w | exact fun _ w => w | exact Nat.le_refl _ | exact Nat.le_succ _ | exact fun _ => rfl | exact fun _ _ => rfl | skip

end Sys2Proof.Machine
end

