-- ==== Sys2Proof/Laws/LastsLeave.lean ====
section
/-!
SUPPORT. What the operations of Machine/Leave.lean keep (the relation of Lasts).
-/

namespace Sys2Proof.Machine

set_option linter.all false

open Sys2Proof.Laws

variable {b_ : Bool} {u_ : State}

theorem pullInRefused_lasts (id : Nat) {s : State} (h_ : Lasts b_ u_ s) : Lasts b_ u_ (pullInRefused id s) := by
  unfold pullInRefused
  try dsimp only
  repeat' first | with_reducible assumption | with_reducible apply updDrv_lasts | with_reducible apply endJob_lasts | with_reducible apply failSequence_lasts | with_reducible apply endAfterStop_lasts | with_reducible apply Lasts.foldl | (intro _ _ _) | with_reducible apply Lasts.ite | split | with_reducible apply Lasts.free | (with_reducible apply Lasts.upd <;> first | with_reducible rfl | with_reducible exact fun w => w | with_reducible exact fun _ w => w | with_reducible exact Nat.le_refl _ | skip)
  all_goals first | rfl | exact fun w => w | exact fun _ w => w | exact Nat.le_refl _ | exact Nat.le_succ _ | exact fun _ => rfl | exact fun _ _ => rfl | skip

theorem pullInGranted_lasts (id : Nat) {s : State} (h_ : Lasts b_ u_ s) : Lasts b_ u_ (pullInGranted id s) := by
  unfold pullInGranted
  try dsimp only
  repeat' first | with_reducible assumption | with_reducible apply release_lasts | with_reducible apply pullInRefused_lasts | with_reducible apply beginPullIn_lasts | with_reducible apply beginOp_lasts | with_reducible apply Lasts.foldl | (intro _ _ _) | with_reducible apply Lasts.ite | split | with_reducible apply Lasts.free | (with_reducible apply Lasts.upd <;> first | with_reducible rfl | with_reducible exact fun w => w | with_reducible exact fun _ w => w | with_reducible exact Nat.le_refl _ | skip)
  all_goals first | rfl | exact fun w => w | exact fun _ w => w | exact Nat.le_refl _ | exact Nat.le_succ _ | exact fun _ => rfl | exact fun _ _ => rfl | skip

theorem linkGranted_lasts (n id : Nat) {s : State} (h_ : Lasts b_ u_ s) : Lasts b_ u_ (linkGranted n id s) := by
  unfold linkGranted
  try dsimp only
  repeat' first | with_reducible assumption | with_reducible apply beginOp_lasts | with_reducible apply updLk_lasts | with_reducible apply release_lasts | with_reducible apply Lasts.foldl | (intro _ _ _) | with_reducible apply Lasts.ite | split | with_reducible apply Lasts.free | (with_reducible apply Lasts.upd <;> first | with_reducible rfl | with_reducible exact fun w => w | with_reducible exact fun _ w => w | with_reducible exact Nat.le_refl _ | skip)
  all_goals first | rfl | exact fun w => w | exact fun _ w => w | exact Nat.le_refl _ | exact Nat.le_succ _ | exact fun _ => rfl | exact fun _ _ => rfl | skip

theorem startOp_lasts (r : Request) {s : State} (h_ : Lasts b_ u_ s) : Lasts b_ u_ (startOp r s) := by
  unfold startOp
  try dsimp only
  repeat' first | with_reducible assumption | with_reducible apply pullInGranted_lasts | with_reducible apply beginOp_lasts | with_reducible apply loadStart_lasts | with_reducible apply linkGranted_lasts | with_reducible apply fieldGranted_lasts | with_reducible apply importGranted_lasts | with_reducible apply eraseGranted_lasts | with_reducible apply displayGranted_lasts | with_reducible apply Lasts.foldl | (intro _ _ _) | with_reducible apply Lasts.ite | split | with_reducible apply Lasts.free | (with_reducible apply Lasts.upd <;> first | with_reducible rfl | with_reducible exact fun w => w | with_reducible exact fun _ w => w | with_reducible exact Nat.le_refl _ | skip)
  all_goals first | rfl | exact fun w => w | exact fun _ w => w | exact Nat.le_refl _ | exact Nat.le_succ _ | exact fun _ => rfl | exact fun _ _ => rfl | skip

theorem dropOp_lasts (r : Request) {s : State} (h_ : Lasts b_ u_ s) : Lasts b_ u_ (dropOp r s) := by
  unfold dropOp
  try dsimp only
  repeat' first | with_reducible assumption | with_reducible apply pullInRefused_lasts | with_reducible apply updIns_lasts | with_reducible apply loadRefused_lasts | with_reducible apply leaveRefused_lasts | with_reducible apply fieldRefused_lasts | with_reducible apply importRefused_lasts | with_reducible apply eraseRefused_lasts | with_reducible apply displayRefused_lasts | with_reducible apply Lasts.foldl | (intro _ _ _) | with_reducible apply Lasts.ite | split | with_reducible apply Lasts.free | (with_reducible apply Lasts.upd <;> first | with_reducible rfl | with_reducible exact fun w => w | with_reducible exact fun _ w => w | with_reducible exact Nat.le_refl _ | skip)
  all_goals first | rfl | exact fun w => w | exact fun _ w => w | exact Nat.le_refl _ | exact Nat.le_succ _ | exact fun _ => rfl | exact fun _ _ => rfl | skip

theorem answerReq_lasts (id : Nat) (a : Answer) {s : State} (h_ : Lasts b_ u_ s) : Lasts b_ u_ (answerReq id a s) := by
  unfold answerReq
  try dsimp only
  repeat' first | with_reducible assumption | with_reducible apply answerAwaiting_lasts | with_reducible apply loadDeferred_lasts | with_reducible apply Lasts.foldl | (intro _ _ _) | with_reducible apply Lasts.ite | split | with_reducible apply Lasts.free | (with_reducible apply Lasts.upd <;> first | with_reducible rfl | with_reducible exact fun w => w | with_reducible exact fun _ w => w | with_reducible exact Nat.le_refl _ | skip)
  all_goals first | rfl | exact fun w => w | exact fun _ w => w | exact Nat.le_refl _ | exact Nat.le_succ _ | exact fun _ => rfl | exact fun _ _ => rfl | skip

theorem putCharge_lasts (r : Request) (a : Nat) {s : State} (h_ : Lasts b_ u_ s) : Lasts b_ u_ (putCharge r a s) := by
  unfold putCharge
  try dsimp only
  repeat' first | with_reducible assumption | with_reducible apply startOp_lasts | with_reducible apply answerReq_lasts | with_reducible apply Lasts.foldl | (intro _ _ _) | with_reducible apply Lasts.ite | split | with_reducible apply Lasts.free | (with_reducible apply Lasts.upd <;> first | with_reducible rfl | with_reducible exact fun w => w | with_reducible exact fun _ w => w | with_reducible exact Nat.le_refl _ | skip)
  all_goals first | rfl | exact fun w => w | exact fun _ w => w | exact Nat.le_refl _ | exact Nat.le_succ _ | exact fun _ => rfl | exact fun _ _ => rfl | skip

theorem refuseReq_lasts (r : Request) {s : State} (h_ : Lasts b_ u_ s) : Lasts b_ u_ (refuseReq r s) := by
  unfold refuseReq
  try dsimp only
  repeat' first | with_reducible assumption | with_reducible apply dropOp_lasts | with_reducible apply answerReq_lasts | with_reducible apply refused_lasts | with_reducible apply Lasts.foldl | (intro _ _ _) | with_reducible apply Lasts.ite | split | with_reducible apply Lasts.free | (with_reducible apply Lasts.upd <;> first | with_reducible rfl | with_reducible exact fun w => w | with_reducible exact fun _ w => w | with_reducible exact Nat.le_refl _ | skip)
  all_goals first | rfl | exact fun w => w | exact fun _ w => w | exact Nat.le_refl _ | exact Nat.le_succ _ | exact fun _ => rfl | exact fun _ _ => rfl | skip

theorem placeAgain_lasts (c : Charge) {s : State} (h_ : Lasts b_ u_ s) : Lasts b_ u_ (placeAgain c s) := by
  unfold placeAgain
  try dsimp only
  repeat' first | with_reducible assumption | with_reducible apply revised_lasts | with_reducible apply startOp_lasts | with_reducible apply dropOp_lasts | with_reducible apply refused_lasts | with_reducible apply Lasts.foldl | (intro _ _ _) | with_reducible apply Lasts.ite | split | with_reducible apply Lasts.free | (with_reducible apply Lasts.upd <;> first | with_reducible rfl | with_reducible exact fun w => w | with_reducible exact fun _ w => w | with_reducible exact Nat.le_refl _ | skip)
  all_goals first | rfl | exact fun w => w | exact fun _ w => w | exact Nat.le_refl _ | exact Nat.le_succ _ | exact fun _ => rfl | exact fun _ _ => rfl | skip

theorem evaluateOne_lasts (r : Request) {s : State} (h_ : Lasts b_ u_ s) : Lasts b_ u_ (evaluateOne r s) := by
  unfold evaluateOne
  try dsimp only
  repeat' first | with_reducible assumption | with_reducible apply refuseReq_lasts | with_reducible apply putCharge_lasts | with_reducible apply placeAgain_lasts | with_reducible apply Lasts.foldl | (intro _ _ _) | with_reducible apply Lasts.ite | split | with_reducible apply Lasts.free | (with_reducible apply Lasts.upd <;> first | with_reducible rfl | with_reducible exact fun w => w | with_reducible exact fun _ w => w | with_reducible exact Nat.le_refl _ | skip)
  all_goals first | rfl | exact fun w => w | exact fun _ w => w | exact Nat.le_refl _ | exact Nat.le_succ _ | exact fun _ => rfl | exact fun _ _ => rfl | skip

theorem answerWithdrawn_lasts  {s : State} (h_ : Lasts b_ u_ s) : Lasts b_ u_ (answerWithdrawn s) := by
  unfold answerWithdrawn
  try dsimp only
  repeat' first | with_reducible assumption | with_reducible apply loadDeferred_lasts | with_reducible apply answerAwaiting_lasts | with_reducible apply Lasts.foldl | (intro _ _ _) | with_reducible apply Lasts.ite | split | with_reducible apply Lasts.free | (with_reducible apply Lasts.upd <;> first | with_reducible rfl | with_reducible exact fun w => w | with_reducible exact fun _ w => w | with_reducible exact Nat.le_refl _ | skip)
  all_goals first | rfl | exact fun w => w | exact fun _ w => w | exact Nat.le_refl _ | exact Nat.le_succ _ | exact fun _ => rfl | exact fun _ _ => rfl | skip

theorem evaluateLeave_lasts  {s : State} (h_ : Lasts b_ u_ s) : Lasts b_ u_ (evaluateLeave s) := by
  unfold evaluateLeave
  try dsimp only
  repeat' first | with_reducible assumption | with_reducible apply answerWithdrawn_lasts | with_reducible apply evaluateOne_lasts | with_reducible apply Lasts.foldl | (intro _ _ _) | with_reducible apply Lasts.ite | split | with_reducible apply Lasts.free | (with_reducible apply Lasts.upd <;> first | with_reducible rfl | with_reducible exact fun w => w | with_reducible exact fun _ w => w | with_reducible exact Nat.le_refl _ | skip)
  all_goals first | rfl | exact fun w => w | exact fun _ w => w | exact Nat.le_refl _ | exact Nat.le_succ _ | exact fun _ => rfl | exact fun _ _ => rfl | skip

theorem replaceAll_lasts  {s : State} (h_ : Lasts b_ u_ s) : Lasts b_ u_ (replaceAll s) := by
  unfold replaceAll
  try dsimp only
  repeat' first | with_reducible assumption | with_reducible apply revised_lasts | with_reducible apply dropOp_lasts | with_reducible apply refused_lasts | with_reducible apply Lasts.foldl | (intro _ _ _) | with_reducible apply Lasts.ite | split | with_reducible apply Lasts.free | (with_reducible apply Lasts.upd <;> first | with_reducible rfl | with_reducible exact fun w => w | with_reducible exact fun _ w => w | with_reducible exact Nat.le_refl _ | skip)
  all_goals first | rfl | exact fun w => w | exact fun _ w => w | exact Nat.le_refl _ | exact Nat.le_succ _ | exact fun _ => rfl | exact fun _ _ => rfl | skip

end Sys2Proof.Machine
end

