-- ==== Sys2Proof/Laws/LastsModes.lean ====
section
/-!
SUPPORT. What the operations of Machine/Modes.lean keep (the relation of Lasts).
-/

namespace Sys2Proof.Machine

set_option linter.all false

open Sys2Proof.Laws

variable {b_ : Bool} {u_ : State}

theorem forceStops_lasts  {s : State} (h_ : Lasts b_ u_ s) : Lasts b_ u_ (forceStops s) := by
  unfold forceStops
  try dsimp only
  repeat' first | with_reducible assumption | with_reducible apply stopLink_lasts | with_reducible apply tell_lasts | with_reducible apply updLk_lasts | with_reducible apply Lasts.foldl | (intro _ _ _) | with_reducible apply Lasts.ite | split | with_reducible apply Lasts.free | (with_reducible apply Lasts.upd <;> first | with_reducible rfl | with_reducible exact fun w => w | with_reducible exact fun _ w => w | with_reducible exact Nat.le_refl _ | skip)
  all_goals first | rfl | exact fun w => w | exact fun _ w => w | exact Nat.le_refl _ | exact Nat.le_succ _ | exact fun _ => rfl | exact fun _ _ => rfl | skip

theorem forcedReset_lasts  {s : State} (h_ : Lasts b_ u_ s) : Lasts b_ u_ (forcedReset s) := by
  unfold forcedReset
  try dsimp only
  repeat' first | with_reducible assumption | with_reducible apply assertSource_lasts | with_reducible refine updRst_lasts ?_ (fun w_ => w_) | with_reducible apply Lasts.foldl | (intro _ _ _) | with_reducible apply Lasts.ite | split | with_reducible apply Lasts.free | (with_reducible apply Lasts.upd <;> first | with_reducible rfl | with_reducible exact fun w => w | with_reducible exact fun _ w => w | with_reducible exact Nat.le_refl _ | skip)
  all_goals first | rfl | exact fun w => w | exact fun _ w => w | exact Nat.le_refl _ | exact Nat.le_succ _ | exact fun _ => rfl | exact fun _ _ => rfl | skip

theorem recoveryAcked_lasts  {s : State} (h_ : Lasts b_ u_ s) : Lasts b_ u_ (recoveryAcked s) := by
  unfold recoveryAcked
  try dsimp only
  repeat' first | with_reducible assumption | with_reducible apply enterMode_lasts | with_reducible apply Lasts.foldl | (intro _ _ _) | with_reducible apply Lasts.ite | split | with_reducible apply Lasts.free | (with_reducible apply Lasts.upd <;> first | with_reducible rfl | with_reducible exact fun w => w | with_reducible exact fun _ w => w | with_reducible exact Nat.le_refl _ | skip)
  all_goals first | rfl | exact fun w => w | exact fun _ w => w | exact Nat.le_refl _ | exact Nat.le_succ _ | exact fun _ => rfl | exact fun _ _ => rfl | skip

end Sys2Proof.Machine
end

