-- ==== Sys2Proof/Laws/LastsPower.lean ====
section
/-!
SUPPORT. What the operations of Machine/Power.lean keep (the relation of Lasts).
-/

namespace Sys2Proof.Machine

set_option linter.all false

open Sys2Proof.Laws

variable {b_ : Bool} {u_ : State}

theorem updPower_lasts (f : Power → Power) {s : State} (h_ : Lasts b_ u_ s) : Lasts b_ u_ (updPower f s) := by
  unfold updPower
  try dsimp only
  repeat' first | with_reducible assumption | with_reducible apply Lasts.foldl | (intro _ _ _) | with_reducible apply Lasts.ite | split | with_reducible apply Lasts.free | (with_reducible apply Lasts.upd <;> first | with_reducible rfl | with_reducible exact fun w => w | with_reducible exact fun _ w => w | with_reducible exact Nat.le_refl _ | skip)
  all_goals first | rfl | exact fun w => w | exact fun _ w => w | exact Nat.le_refl _ | exact Nat.le_succ _ | exact fun _ => rfl | exact fun _ _ => rfl | skip

theorem shutPermits_lasts  {s : State} (h_ : Lasts b_ u_ s) : Lasts b_ u_ (shutPermits s) := by
  unfold shutPermits
  try dsimp only
  repeat' first | with_reducible assumption | with_reducible apply armHwOff_lasts | with_reducible apply Lasts.foldl | (intro _ _ _) | with_reducible apply Lasts.ite | split | with_reducible apply Lasts.free | (with_reducible apply Lasts.upd <;> first | with_reducible rfl | with_reducible exact fun w => w | with_reducible exact fun _ w => w | with_reducible exact Nat.le_refl _ | skip)
  all_goals first | rfl | exact fun w => w | exact fun _ w => w | exact Nat.le_refl _ | exact Nat.le_succ _ | exact fun _ => rfl | exact fun _ _ => rfl | skip

theorem shutTransmitters_lasts  {s : State} (h_ : Lasts b_ u_ s) : Lasts b_ u_ (shutTransmitters s) := by
  unfold shutTransmitters
  try dsimp only
  repeat' first | with_reducible assumption | with_reducible apply displayShutdown_lasts | with_reducible apply readerStop_lasts | with_reducible apply channelsOff_lasts | with_reducible apply trvSilent_lasts | with_reducible apply Lasts.foldl | (intro _ _ _) | with_reducible apply Lasts.ite | split | with_reducible apply Lasts.free | (with_reducible apply Lasts.upd <;> first | with_reducible rfl | with_reducible exact fun w => w | with_reducible exact fun _ w => w | with_reducible exact Nat.le_refl _ | skip)
  all_goals first | rfl | exact fun w => w | exact fun _ w => w | exact Nat.le_refl _ | exact Nat.le_succ _ | exact fun _ => rfl | exact fun _ _ => rfl | skip

theorem shutSave_lasts  {s : State} (h_ : Lasts b_ u_ s) : Lasts b_ u_ (shutSave s) := by
  unfold shutSave
  try dsimp only
  repeat' first | with_reducible assumption | with_reducible apply finalSave_lasts | with_reducible apply journalMet_lasts | with_reducible apply benchEnds_lasts | with_reducible apply Lasts.foldl | (intro _ _ _) | with_reducible apply Lasts.ite | split | with_reducible apply Lasts.free | (with_reducible apply Lasts.upd <;> first | with_reducible rfl | with_reducible exact fun w => w | with_reducible exact fun _ w => w | with_reducible exact Nat.le_refl _ | skip)
  all_goals first | rfl | exact fun w => w | exact fun _ w => w | exact Nat.le_refl _ | exact Nat.le_succ _ | exact fun _ => rfl | exact fun _ _ => rfl | skip

theorem powerFailEvent_lasts  {s : State} (h_ : Lasts b_ u_ s) : Lasts b_ u_ (powerFailEvent s) := by
  unfold powerFailEvent
  try dsimp only
  repeat' first | with_reducible assumption | with_reducible apply event_lasts | with_reducible apply Lasts.foldl | (intro _ _ _) | with_reducible apply Lasts.ite | split | with_reducible apply Lasts.free | (with_reducible apply Lasts.upd <;> first | with_reducible rfl | with_reducible exact fun w => w | with_reducible exact fun _ w => w | with_reducible exact Nat.le_refl _ | skip)
  all_goals first | rfl | exact fun w => w | exact fun _ w => w | exact Nat.le_refl _ | exact Nat.le_succ _ | exact fun _ => rfl | exact fun _ _ => rfl | skip

theorem powerFail_lasts (vauxMv : Nat) {s : State} (h_ : Lasts b_ u_ s) : Lasts b_ u_ (powerFail vauxMv s) := by
  unfold powerFail
  try dsimp only
  repeat' first | with_reducible assumption | with_reducible apply updPower_lasts | with_reducible refine updRst_lasts ?_ (fun w_ => w_) | with_reducible apply powerFailEvent_lasts | with_reducible apply shutSave_lasts | with_reducible apply shutTransmitters_lasts | with_reducible apply shutPermits_lasts | with_reducible apply Lasts.foldl | (intro _ _ _) | with_reducible apply Lasts.ite | split | with_reducible apply Lasts.free | (with_reducible apply Lasts.upd <;> first | with_reducible rfl | with_reducible exact fun w => w | with_reducible exact fun _ w => w | with_reducible exact Nat.le_refl _ | skip)
  all_goals first | rfl | exact fun w => w | exact fun _ w => w | exact Nat.le_refl _ | exact Nat.le_succ _ | exact fun _ => rfl | exact fun _ _ => rfl | skip

theorem tailSave_lasts  {s : State} (h_ : Lasts b_ u_ s) : Lasts b_ u_ (tailSave s) := by
  unfold tailSave
  try dsimp only
  repeat' first | with_reducible assumption | with_reducible apply writeSlot_lasts | with_reducible apply releasePulses_lasts | with_reducible apply Lasts.foldl | (intro _ _ _) | with_reducible apply Lasts.ite | split | with_reducible apply Lasts.free | (with_reducible apply Lasts.upd <;> first | with_reducible rfl | with_reducible exact fun w => w | with_reducible exact fun _ w => w | with_reducible exact Nat.le_refl _ | skip)
  all_goals first | rfl | exact fun w => w | exact fun _ w => w | exact Nat.le_refl _ | exact Nat.le_succ _ | exact fun _ => rfl | exact fun _ _ => rfl | skip

theorem shutStep6_lasts  {s : State} (h_ : Lasts b_ u_ s) : Lasts b_ u_ (shutStep6 s) := by
  unfold shutStep6
  try dsimp only
  repeat' first | with_reducible assumption | with_reducible apply journalApp_lasts | with_reducible apply Lasts.foldl | (intro _ _ _) | with_reducible apply Lasts.ite | split | with_reducible apply Lasts.free | (with_reducible apply Lasts.upd <;> first | with_reducible rfl | with_reducible exact fun w => w | with_reducible exact fun _ w => w | with_reducible exact Nat.le_refl _ | skip)
  all_goals first | rfl | exact fun w => w | exact fun _ w => w | exact Nat.le_refl _ | exact Nat.le_succ _ | exact fun _ => rfl | exact fun _ _ => rfl | skip

theorem driversDead_lasts  {s : State} (h_ : Lasts b_ u_ s) : Lasts b_ u_ (driversDead s) := by
  unfold driversDead
  try dsimp only
  repeat' first | with_reducible assumption | with_reducible apply Lasts.foldl | (intro _ _ _) | with_reducible apply Lasts.ite | split | with_reducible apply Lasts.free | (with_reducible apply Lasts.upd <;> first | with_reducible rfl | with_reducible exact fun w => w | with_reducible exact fun _ w => w | with_reducible exact Nat.le_refl _ | skip)
  all_goals first | rfl | exact fun w => w | exact fun _ w => w | exact Nat.le_refl _ | exact Nat.le_succ _ | exact fun _ => rfl | exact fun _ _ => rfl | skip

theorem shutdownTick_lasts  {s : State} (h_ : Lasts b_ u_ s) : Lasts b_ u_ (shutdownTick s) := by
  unfold shutdownTick
  try dsimp only
  repeat' first | with_reducible assumption | with_reducible apply shutStep6_lasts | with_reducible apply tailSave_lasts | with_reducible apply driversDead_lasts | with_reducible apply assertSource_lasts | with_reducible apply Lasts.foldl | (intro _ _ _) | with_reducible apply Lasts.ite | split | with_reducible apply Lasts.free | (with_reducible apply Lasts.upd <;> first | with_reducible rfl | with_reducible exact fun w => w | with_reducible exact fun _ w => w | with_reducible exact Nat.le_refl _ | skip)
  all_goals first | rfl | exact fun w => w | exact fun _ w => w | exact Nat.le_refl _ | exact Nat.le_succ _ | exact fun _ => rfl | exact fun _ _ => rfl | skip

theorem undoSlot_lasts (torn : Bool) {s : State} (h_ : Lasts b_ u_ s) : Lasts b_ u_ (undoSlot torn s) := by
  unfold undoSlot
  try dsimp only
  repeat' first | with_reducible assumption | with_reducible apply Lasts.foldl | (intro _ _ _) | with_reducible apply Lasts.ite | split | with_reducible apply Lasts.free | (with_reducible apply Lasts.upd <;> first | with_reducible rfl | with_reducible exact fun w => w | with_reducible exact fun _ w => w | with_reducible exact Nat.le_refl _ | skip)
  all_goals first | rfl | exact fun w => w | exact fun _ w => w | exact Nat.le_refl _ | exact Nat.le_succ _ | exact fun _ => rfl | exact fun _ _ => rfl | skip

theorem lostTail_lasts  {s : State} (h_ : Lasts b_ u_ s) : Lasts b_ u_ (lostTail s) := by
  unfold lostTail
  try dsimp only
  repeat' first | with_reducible assumption | with_reducible apply undoSlot_lasts | with_reducible apply State.drawFree_lasts | with_reducible apply Lasts.foldl | (intro _ _ _) | with_reducible apply Lasts.ite | split | with_reducible apply Lasts.free | (with_reducible apply Lasts.upd <;> first | with_reducible rfl | with_reducible exact fun w => w | with_reducible exact fun _ w => w | with_reducible exact Nat.le_refl _ | skip)
  all_goals first | rfl | exact fun w => w | exact fun _ w => w | exact Nat.le_refl _ | exact Nat.le_succ _ | exact fun _ => rfl | exact fun _ _ => rfl | skip

theorem lostSave_lasts (steps : Nat) {s : State} (h_ : Lasts b_ u_ s) : Lasts b_ u_ (lostSave steps s) := by
  unfold lostSave
  try dsimp only
  repeat' first | with_reducible assumption | with_reducible apply undoSlot_lasts | with_reducible apply State.drawFree_lasts | with_reducible apply Lasts.foldl | (intro _ _ _) | with_reducible apply Lasts.ite | split | with_reducible apply Lasts.free | (with_reducible apply Lasts.upd <;> first | with_reducible rfl | with_reducible exact fun w => w | with_reducible exact fun _ w => w | with_reducible exact Nat.le_refl _ | skip)
  all_goals first | rfl | exact fun w => w | exact fun _ w => w | exact Nat.le_refl _ | exact Nat.le_succ _ | exact fun _ => rfl | exact fun _ _ => rfl | skip

theorem railsOff_lasts (sup : Supply) {s : State} (h_ : Lasts b_ u_ s) : Lasts b_ u_ (railsOff sup s) := by
  unfold railsOff
  try dsimp only
  repeat' first | with_reducible assumption | with_reducible apply driversDead_lasts | with_reducible apply clearPowerOn_lasts | with_reducible apply losePlain_lasts | with_reducible apply Lasts.foldl | (intro _ _ _) | with_reducible apply Lasts.ite | split | with_reducible apply Lasts.free | (with_reducible apply Lasts.upd <;> first | with_reducible rfl | with_reducible exact fun w => w | with_reducible exact fun _ w => w | with_reducible exact Nat.le_refl _ | skip)
  all_goals first | rfl | exact fun w => w | exact fun _ w => w | exact Nat.le_refl _ | exact Nat.le_succ _ | exact fun _ => rfl | exact fun _ _ => rfl | skip

theorem lostState_lasts  {s : State} (h_ : Lasts b_ u_ s) : Lasts b_ u_ (lostState s) := by
  unfold lostState
  try dsimp only
  repeat' first | with_reducible assumption | with_reducible apply State.drawFree_lasts | with_reducible apply Lasts.foldl | (intro _ _ _) | with_reducible apply Lasts.ite | split | with_reducible apply Lasts.free | (with_reducible apply Lasts.upd <;> first | with_reducible rfl | with_reducible exact fun w => w | with_reducible exact fun _ w => w | with_reducible exact Nat.le_refl _ | skip)
  all_goals first | rfl | exact fun w => w | exact fun _ w => w | exact Nat.le_refl _ | exact Nat.le_succ _ | exact fun _ => rfl | exact fun _ _ => rfl | skip

theorem dropOut_lasts (steps : Nat) {s : State} (h_ : Lasts b_ u_ s) : Lasts b_ u_ (dropOut steps s) := by
  unfold dropOut
  try dsimp only
  repeat' first | with_reducible assumption | with_reducible apply lostSave_lasts | with_reducible apply shutStep6_lasts | with_reducible apply lostState_lasts | with_reducible apply lostTail_lasts | with_reducible apply railsOff_lasts | with_reducible apply Lasts.foldl | (intro _ _ _) | with_reducible apply Lasts.ite | split | with_reducible apply Lasts.free | (with_reducible apply Lasts.upd <;> first | with_reducible rfl | with_reducible exact fun w => w | with_reducible exact fun _ w => w | with_reducible exact Nat.le_refl _ | skip)
  all_goals first | rfl | exact fun w => w | exact fun _ w => w | exact Nat.le_refl _ | exact Nat.le_succ _ | exact fun _ => rfl | exact fun _ _ => rfl | skip

theorem surgeEvent_lasts (on : Bool) (ms : Nat) {s : State} (h_ : Lasts b_ u_ s) : Lasts b_ u_ (surgeEvent on ms s) := by
  unfold surgeEvent
  try dsimp only
  repeat' first | with_reducible assumption | with_reducible apply event_lasts | with_reducible apply Lasts.foldl | (intro _ _ _) | with_reducible apply Lasts.ite | split | with_reducible apply Lasts.free | (with_reducible apply Lasts.upd <;> first | with_reducible rfl | with_reducible exact fun w => w | with_reducible exact fun _ w => w | with_reducible exact Nat.le_refl _ | skip)
  all_goals first | rfl | exact fun w => w | exact fun _ w => w | exact Nat.le_refl _ | exact Nat.le_succ _ | exact fun _ => rfl | exact fun _ _ => rfl | skip

end Sys2Proof.Machine
end

