-- ==== Sys2Proof/Laws/LastsFrame.lean ====
section
/-!
SUPPORT. What the operations of Machine/Frame.lean keep (the relation of Lasts).
-/

namespace Sys2Proof.Machine

set_option linter.all false

open Sys2Proof.Laws

variable {b_ : Bool} {u_ : State}

theorem timeTick_lasts  {s : State} (h_ : Lasts b_ u_ s) : Lasts b_ u_ (timeTick s) := by
  unfold timeTick
  try dsimp only
  repeat' first | with_reducible assumption | with_reducible apply Lasts.foldl | (intro _ _ _) | with_reducible apply Lasts.ite | split | with_reducible apply Lasts.free | (with_reducible apply Lasts.upd <;> first | with_reducible rfl | with_reducible exact fun w => w | with_reducible exact fun _ w => w | with_reducible exact Nat.le_refl _ | skip)
  all_goals first | rfl | exact fun w => w | exact fun _ w => w | exact Nat.le_refl _ | exact Nat.le_succ _ | exact fun _ => rfl | exact fun _ _ => rfl | skip

theorem siteTick_lasts (free : Bool) {s : State} (h_ : Lasts b_ u_ s) : Lasts b_ u_ (siteTick free s) := by
  unfold siteTick
  try dsimp only
  repeat' first | with_reducible assumption | with_reducible apply Lasts.foldl | (intro _ _ _) | with_reducible apply Lasts.ite | split | with_reducible apply Lasts.free | (with_reducible apply Lasts.upd <;> first | with_reducible rfl | with_reducible exact fun w => w | with_reducible exact fun _ w => w | with_reducible exact Nat.le_refl _ | skip)
  all_goals first | rfl | exact fun w => w | exact fun _ w => w | exact Nat.le_refl _ | exact Nat.le_succ _ | exact fun _ => rfl | exact fun _ _ => rfl | skip

theorem slewTick_lasts  {s : State} (h_ : Lasts b_ u_ s) : Lasts b_ u_ (slewTick s) := by
  unfold slewTick
  try dsimp only
  repeat' first | with_reducible assumption | with_reducible apply siteTick_lasts | with_reducible apply Lasts.foldl | (intro _ _ _) | with_reducible apply Lasts.ite | split | with_reducible apply Lasts.free | (with_reducible apply Lasts.upd <;> first | with_reducible rfl | with_reducible exact fun w => w | with_reducible exact fun _ w => w | with_reducible exact Nat.le_refl _ | skip)
  all_goals first | rfl | exact fun w => w | exact fun _ w => w | exact Nat.le_refl _ | exact Nat.le_succ _ | exact fun _ => rfl | exact fun _ _ => rfl | skip

theorem frameJobs_lasts (m : FrameIn) {s : State} (h_ : Lasts b_ u_ s) : Lasts b_ u_ (frameJobs m s) := by
  unfold frameJobs
  try dsimp only
  repeat' first | with_reducible assumption | with_reducible apply evaluateLeave_lasts | with_reducible apply jobsFrameEnd_lasts | with_reducible apply switchFrame_lasts | with_reducible apply chainFrame_lasts | with_reducible apply energyFrame_lasts | with_reducible apply plumbFrame_lasts | with_reducible apply billingFrame_lasts | with_reducible apply loadsFrame_lasts | with_reducible apply linkFrame_lasts | with_reducible apply storageFrame_lasts | with_reducible apply displayFrame_lasts | with_reducible apply readerFrame_lasts | with_reducible apply forcedReset_lasts | with_reducible apply reportLost_lasts | with_reducible apply alignCheck_lasts | with_reducible apply Lasts.foldl | (intro _ _ _) | with_reducible apply Lasts.ite | split | with_reducible apply Lasts.free | (with_reducible apply Lasts.upd <;> first | with_reducible rfl | with_reducible exact fun w => w | with_reducible exact fun _ w => w | with_reducible exact Nat.le_refl _ | skip)
  all_goals first | rfl | exact fun w => w | exact fun _ w => w | exact Nat.le_refl _ | exact Nat.le_succ _ | exact fun _ => rfl | exact fun _ _ => rfl | skip

theorem dieTemp_lasts (t : Int) {s : State} (h_ : Lasts b_ u_ s) : Lasts b_ u_ (dieTemp t s) := by
  unfold dieTemp
  try dsimp only
  repeat' first | with_reducible assumption | with_reducible apply updPower_lasts | with_reducible apply event_lasts | with_reducible apply Lasts.foldl | (intro _ _ _) | with_reducible apply Lasts.ite | split | with_reducible apply Lasts.free | (with_reducible apply Lasts.upd <;> first | with_reducible rfl | with_reducible exact fun w => w | with_reducible exact fun _ w => w | with_reducible exact Nat.le_refl _ | skip)
  all_goals first | rfl | exact fun w => w | exact fun _ w => w | exact Nat.le_refl _ | exact Nat.le_succ _ | exact fun _ => rfl | exact fun _ _ => rfl | skip

theorem loopRead_lasts (intact : Bool) {s : State} (h_ : Lasts b_ u_ s) : Lasts b_ u_ (loopRead intact s) := by
  unfold loopRead
  try dsimp only
  repeat' first | with_reducible assumption | with_reducible apply openSeal_lasts | with_reducible apply Lasts.foldl | (intro _ _ _) | with_reducible apply Lasts.ite | split | with_reducible apply Lasts.free | (with_reducible apply Lasts.upd <;> first | with_reducible rfl | with_reducible exact fun w => w | with_reducible exact fun _ w => w | with_reducible exact Nat.le_refl _ | skip)
  all_goals first | rfl | exact fun w => w | exact fun _ w => w | exact Nat.le_refl _ | exact Nat.le_succ _ | exact fun _ => rfl | exact fun _ _ => rfl | skip

theorem superJobs_lasts (m : SuperIn) {s : State} (h_ : Lasts b_ u_ s) : Lasts b_ u_ (superJobs m s) := by
  unfold superJobs
  try dsimp only
  repeat' first | with_reducible assumption | with_reducible apply updPower_lasts | with_reducible apply overRange_lasts | with_reducible apply loopRead_lasts | with_reducible apply dieTemp_lasts | with_reducible apply witnessSuper_lasts | with_reducible apply loadsSuper_lasts | with_reducible apply witnessSync_lasts | with_reducible apply Lasts.foldl | (intro _ _ _) | with_reducible apply Lasts.ite | split | with_reducible apply Lasts.free | (with_reducible apply Lasts.upd <;> first | with_reducible rfl | with_reducible exact fun w => w | with_reducible exact fun _ w => w | with_reducible exact Nat.le_refl _ | skip)
  all_goals first | rfl | exact fun w => w | exact fun _ w => w | exact Nat.le_refl _ | exact Nat.le_succ _ | exact fun _ => rfl | exact fun _ _ => rfl | skip

end Sys2Proof.Machine
end

