-- ==== Sys2Proof/Laws/LastsObjectRead.lean ====
section
/-!
SUPPORT. What the operations of Machine/ObjectRead.lean keep (the relation of Lasts).
-/

namespace Sys2Proof.Machine

set_option linter.all false

open Sys2Proof.Laws

variable {b_ : Bool} {u_ : State}


end Sys2Proof.Machine
end

