-- ==== Sys2Proof/Laws/LastsObjectWrite.lean ====
section
/-!
SUPPORT. What the operations of Machine/ObjectWrite.lean keep (the relation of Lasts).
-/

namespace Sys2Proof.Machine

set_option linter.all false

open Sys2Proof.Laws

variable {b_ : Bool} {u_ : State}

theorem splitWindow_lasts  {s : State} (h_ : Lasts b_ u_ s) : Lasts b_ u_ (splitWindow s) := by
  unfold splitWindow
  try dsimp only
  repeat' first | with_reducible assumption | with_reducible apply commits_lasts | with_reducible apply takeBoundary_lasts | with_reducible apply closeWindow_lasts | with_reducible apply Lasts.foldl | (intro _ _ _) | with_reducible apply Lasts.ite | split | with_reducible apply Lasts.free | (with_reducible apply Lasts.upd <;> first | with_reducible rfl | with_reducible exact fun w => w | with_reducible exact fun _ w => w | with_reducible exact Nat.le_refl _ | skip)
  all_goals first | rfl | exact fun w => w | exact fun _ w => w | exact Nat.le_refl _ | exact Nat.le_succ _ | exact fun _ => rfl | exact fun _ _ => rfl | skip

theorem lineWritten_lasts (seq : Byte) (new : Nat) {s : State} (h_ : Lasts b_ u_ s) : Lasts b_ u_ (lineWritten seq new s) := by
  unfold lineWritten
  try dsimp only
  repeat' first | with_reducible assumption | with_reducible apply Lasts.foldl | (intro _ _ _) | with_reducible apply Lasts.ite | split | with_reducible apply Lasts.free | (with_reducible apply Lasts.upd <;> first | with_reducible rfl | with_reducible exact fun w => w | with_reducible exact fun _ w => w | with_reducible exact Nat.le_refl _ | skip)
  all_goals first | rfl | exact fun w => w | exact fun _ w => w | exact Nat.le_refl _ | exact Nat.le_succ _ | exact fun _ => rfl | exact fun _ _ => rfl | skip

theorem provoke_lasts  {s : State} (h_ : Lasts b_ u_ s) : Lasts b_ u_ (provoke s) := by
  unfold provoke
  try dsimp only
  repeat' first | with_reducible assumption | with_reducible apply enterMode_lasts | with_reducible apply Lasts.foldl | (intro _ _ _) | with_reducible apply Lasts.ite | split | with_reducible apply Lasts.free | (with_reducible apply Lasts.upd <;> first | with_reducible rfl | with_reducible exact fun w => w | with_reducible exact fun _ w => w | with_reducible exact Nat.le_refl _ | skip)
  all_goals first | rfl | exact fun w => w | exact fun _ w => w | exact Nat.le_refl _ | exact Nat.le_succ _ | exact fun _ => rfl | exact fun _ _ => rfl | skip

theorem Cfg.atOnce_lasts (c : Cfg) (i : Nat) (seq : Byte) (mask new : Nat) {s : State} (h_ : Lasts b_ u_ s) : Lasts b_ u_ (Cfg.atOnce c i seq mask new s) := by
  unfold Cfg.atOnce
  try dsimp only
  repeat' first | with_reducible assumption | with_reducible apply lineWritten_lasts | with_reducible apply splitWindow_lasts | with_reducible apply updPls_lasts | with_reducible apply provoke_lasts | with_reducible apply Lasts.foldl | (intro _ _ _) | with_reducible apply Lasts.ite | split | with_reducible apply Lasts.free | (with_reducible apply Lasts.upd <;> first | with_reducible rfl | with_reducible exact fun w => w | with_reducible exact fun _ w => w | with_reducible exact Nat.le_refl _ | skip)
  all_goals first | rfl | exact fun w => w | exact fun _ w => w | exact Nat.le_refl _ | exact Nat.le_succ _ | exact fun _ => rfl | exact fun _ _ => rfl | skip

theorem enabledAgain_lasts (i old new : Nat) {s : State} (h_ : Lasts b_ u_ s) : Lasts b_ u_ (enabledAgain i old new s) := by
  unfold enabledAgain
  try dsimp only
  repeat' first | with_reducible assumption | with_reducible apply updIn'_lasts | with_reducible apply Lasts.foldl | (intro _ _ _) | with_reducible apply Lasts.ite | split | with_reducible apply Lasts.free | (with_reducible apply Lasts.upd <;> first | with_reducible rfl | with_reducible exact fun w => w | with_reducible exact fun _ w => w | with_reducible exact Nat.le_refl _ | skip)
  all_goals first | rfl | exact fun w => w | exact fun _ w => w | exact Nat.le_refl _ | exact Nat.le_succ _ | exact fun _ => rfl | exact fun _ _ => rfl | skip

theorem toneEnabled_lasts (i old new : Nat) {s : State} (h_ : Lasts b_ u_ s) : Lasts b_ u_ (toneEnabled i old new s) := by
  unfold toneEnabled
  try dsimp only
  repeat' first | with_reducible assumption | with_reducible apply updTone_lasts | with_reducible apply Lasts.foldl | (intro _ _ _) | with_reducible apply Lasts.ite | split | with_reducible apply Lasts.free | (with_reducible apply Lasts.upd <;> first | with_reducible rfl | with_reducible exact fun w => w | with_reducible exact fun _ w => w | with_reducible exact Nat.le_refl _ | skip)
  all_goals first | rfl | exact fun w => w | exact fun _ w => w | exact Nat.le_refl _ | exact Nat.le_succ _ | exact fun _ => rfl | exact fun _ _ => rfl | skip

theorem Cfg.after_lasts (c : Cfg) (i old mask new : Nat) {s : State} (h_ : Lasts b_ u_ s) : Lasts b_ u_ (Cfg.after c i old mask new s) := by
  unfold Cfg.after
  try dsimp only
  repeat' first | with_reducible assumption | with_reducible apply replaceAll_lasts | with_reducible apply enabledAgain_lasts | with_reducible apply toneEnabled_lasts | with_reducible apply trvRestart_lasts | with_reducible apply provoke_lasts | with_reducible apply Lasts.foldl | (intro _ _ _) | with_reducible apply Lasts.ite | split | with_reducible apply Lasts.free | (with_reducible apply Lasts.upd <;> first | with_reducible rfl | with_reducible exact fun w => w | with_reducible exact fun _ w => w | with_reducible exact Nat.le_refl _ | skip)
  all_goals first | rfl | exact fun w => w | exact fun _ w => w | exact Nat.le_refl _ | exact Nat.le_succ _ | exact fun _ => rfl | exact fun _ _ => rfl | skip

theorem Due.take_lasts (d : Due) {s : State} (h_ : Lasts b_ u_ s) : Lasts b_ u_ (Due.take d s) := by
  unfold Due.take
  try dsimp only
  repeat' first | with_reducible assumption | with_reducible apply Cfg.after_lasts | with_reducible apply Cfg.put_lasts | with_reducible apply Due.put_lasts | with_reducible apply Lasts.foldl | (intro _ _ _) | with_reducible apply Lasts.ite | split | with_reducible apply Lasts.free | (with_reducible apply Lasts.upd <;> first | with_reducible rfl | with_reducible exact fun w => w | with_reducible exact fun _ w => w | with_reducible exact Nat.le_refl _ | skip)
  all_goals first | rfl | exact fun w => w | exact fun _ w => w | exact Nat.le_refl _ | exact Nat.le_succ _ | exact fun _ => rfl | exact fun _ _ => rfl | skip

theorem takeDue_lasts  {s : State} (h_ : Lasts b_ u_ s) : Lasts b_ u_ (takeDue s) := by
  unfold takeDue
  try dsimp only
  repeat' first | with_reducible assumption | with_reducible apply appRetire_lasts | with_reducible apply Due.take_lasts | with_reducible apply Lasts.foldl | (intro _ _ _) | with_reducible apply Lasts.ite | split | with_reducible apply Lasts.free | (with_reducible apply Lasts.upd <;> first | with_reducible rfl | with_reducible exact fun w => w | with_reducible exact fun _ w => w | with_reducible exact Nat.le_refl _ | skip)
  all_goals first | rfl | exact fun w => w | exact fun _ w => w | exact Nat.le_refl _ | exact Nat.le_succ _ | exact fun _ => rfl | exact fun _ _ => rfl | skip

theorem Cfg.keep_lasts (c : Cfg) (i : Nat) (seq : Byte) (data mask : Nat) {s : State} (h_ : Lasts b_ u_ s) : Lasts b_ u_ (Cfg.keep c i seq data mask s) := by
  unfold Cfg.keep
  try dsimp only
  repeat' first | with_reducible assumption | with_reducible apply Cfg.atOnce_lasts | with_reducible apply journalApp_lasts | with_reducible apply Lasts.foldl | (intro _ _ _) | with_reducible apply Lasts.ite | split | with_reducible apply Lasts.free | (with_reducible apply Lasts.upd <;> first | with_reducible rfl | with_reducible exact fun w => w | with_reducible exact fun _ w => w | with_reducible exact Nat.le_refl _ | skip)
  all_goals first | rfl | exact fun w => w | exact fun _ w => w | exact Nat.le_refl _ | exact Nat.le_succ _ | exact fun _ => rfl | exact fun _ _ => rfl | skip

theorem Cfg.write_lasts (c : Cfg) (i : Nat) (seq : Byte) (data mask : Nat) {s : State} (h_ : Lasts b_ u_ s) : Lasts b_ u_ (Cfg.write c i seq data mask s) := by
  unfold Cfg.write
  try dsimp only
  repeat' first | with_reducible assumption | with_reducible apply Cfg.keep_lasts | with_reducible apply signParameter_lasts | with_reducible apply settled_lasts | with_reducible apply metHashed_lasts | with_reducible apply Lasts.foldl | (intro _ _ _) | with_reducible apply Lasts.ite | split | with_reducible apply Lasts.free | (with_reducible apply Lasts.upd <;> first | with_reducible rfl | with_reducible exact fun w => w | with_reducible exact fun _ w => w | with_reducible exact Nat.le_refl _ | skip)
  all_goals first | rfl | exact fun w => w | exact fun _ w => w | exact Nat.le_refl _ | exact Nat.le_succ _ | exact fun _ => rfl | exact fun _ _ => rfl | skip

theorem objWriteCmd_lasts (h : Hdr) (p : List Byte) {s : State} (h_ : Lasts b_ u_ s) : Lasts b_ u_ (objWriteCmd h p s).run.st := by
  unfold objWriteCmd
  split
  · split
    · exact Cfg.write_lasts _ _ _ _ _ h_
    · exact h_
  · exact h_

theorem objWrite_lasts (h : Hdr) (p : List Byte) {s : State} (h_ : Lasts b_ u_ s) : Lasts b_ u_ (objWrite h p s) :=
  hostCommand_lasts _ _ _ h_ (fun _ k => objWriteCmd_lasts h p k)

theorem writeEntry_lasts (c : Cfg) (h : Hdr) (i : Nat) (data mask : List Byte) {s : State} (h_ : Lasts b_ u_ s) : Lasts b_ u_ (writeEntry c h i data mask s) := by
  unfold writeEntry
  try dsimp only
  repeat' first | with_reducible assumption | with_reducible apply objWrite_lasts | with_reducible apply Lasts.foldl | (intro _ _ _) | with_reducible apply Lasts.ite | split | with_reducible apply Lasts.free | (with_reducible apply Lasts.upd <;> first | with_reducible rfl | with_reducible exact fun w => w | with_reducible exact fun _ w => w | with_reducible exact Nat.le_refl _ | skip)
  all_goals first | rfl | exact fun w => w | exact fun _ w => w | exact Nat.le_refl _ | exact Nat.le_succ _ | exact fun _ => rfl | exact fun _ _ => rfl | skip

end Sys2Proof.Machine
end

