-- ==== Sys2Proof/Laws/LastsCommands.lean ====
section
/-!
SUPPORT. What the execution of each host command keeps (the relation of Lasts).
-/

namespace Sys2Proof.Machine

set_option linter.all false

open Sys2Proof.Laws

variable {b_ : Bool} {u_ : State}

theorem busJoinCmd_lasts (h : Hdr) (p : List Byte) {s : State} (h_ : Lasts b_ u_ s) : Lasts b_ u_ (busJoinCmd h p s).run.st := by
  unfold busJoinCmd
  try dsimp only
  repeat' first | with_reducible assumption | with_reducible apply Lasts.foldl | (intro _ _ _) | with_reducible apply Lasts.ite | split | with_reducible apply Lasts.free | (with_reducible apply Lasts.upd <;> first | with_reducible rfl | with_reducible exact fun w => w | with_reducible exact fun _ w => w | with_reducible exact Nat.le_refl _ | skip)
  all_goals first | rfl | exact fun w => w | exact fun _ w => w | exact fun _ => rfl | exact fun _ _ => rfl | exact Nat.le_succ _ | exact fun w => Memory.foldl_wf 15 _ _ _ w | skip

theorem busReleaseCmd_lasts (h : Hdr) (p : List Byte) {s : State} (h_ : Lasts b_ u_ s) : Lasts b_ u_ (busReleaseCmd h p s).run.st := by
  unfold busReleaseCmd
  try dsimp only
  repeat' first | with_reducible assumption | with_reducible apply Lasts.foldl | (intro _ _ _) | with_reducible apply Lasts.ite | split | with_reducible apply Lasts.free | (with_reducible apply Lasts.upd <;> first | with_reducible rfl | with_reducible exact fun w => w | with_reducible exact fun _ w => w | with_reducible exact Nat.le_refl _ | skip)
  all_goals first | rfl | exact fun w => w | exact fun _ w => w | exact fun _ => rfl | exact fun _ _ => rfl | exact Nat.le_succ _ | exact fun w => Memory.foldl_wf 15 _ _ _ w | skip

theorem safetyResetCmd_lasts (p : List Byte) {s : State} (h_ : Lasts b_ u_ s) : Lasts b_ u_ (safetyResetCmd p s).run.st := by
  unfold safetyResetCmd
  try dsimp only
  repeat' first | with_reducible assumption | with_reducible apply demandEnded_lasts | with_reducible apply Lasts.foldl | (intro _ _ _) | with_reducible apply Lasts.ite | split | with_reducible apply Lasts.free | (with_reducible apply Lasts.upd <;> first | with_reducible rfl | with_reducible exact fun w => w | with_reducible exact fun _ w => w | with_reducible exact Nat.le_refl _ | skip)
  all_goals first | rfl | exact fun w => w | exact fun _ w => w | exact fun _ => rfl | exact fun _ _ => rfl | exact Nat.le_succ _ | exact fun w => Memory.foldl_wf 15 _ _ _ w | skip

theorem startupTestCmd_lasts (h : Hdr) (p : List Byte) {s : State} (h_ : Lasts b_ u_ s) : Lasts b_ u_ (startupTestCmd h p s).run.st := by
  unfold startupTestCmd
  try dsimp only
  repeat' first | with_reducible assumption | with_reducible apply testCheck_lasts | with_reducible apply Lasts.foldl | (intro _ _ _) | with_reducible apply Lasts.ite | split | with_reducible apply Lasts.free | (with_reducible apply Lasts.upd <;> first | with_reducible rfl | with_reducible exact fun w => w | with_reducible exact fun _ w => w | with_reducible exact Nat.le_refl _ | skip)
  all_goals first | rfl | exact fun w => w | exact fun _ w => w | exact fun _ => rfl | exact fun _ _ => rfl | exact Nat.le_succ _ | exact fun w => Memory.foldl_wf 15 _ _ _ w | skip

theorem weldClearCmd_lasts (p : List Byte) {s : State} (h_ : Lasts b_ u_ s) : Lasts b_ u_ (weldClearCmd p s).run.st := by
  unfold weldClearCmd
  try dsimp only
  repeat' first | with_reducible assumption | with_reducible apply seqTo_lasts | with_reducible apply updDrv_lasts | with_reducible apply Lasts.foldl | (intro _ _ _) | with_reducible apply Lasts.ite | split | with_reducible apply Lasts.free | (with_reducible apply Lasts.upd <;> first | with_reducible rfl | with_reducible exact fun w => w | with_reducible exact fun _ w => w | with_reducible exact Nat.le_refl _ | skip)
  all_goals first | rfl | exact fun w => w | exact fun _ w => w | exact fun _ => rfl | exact fun _ _ => rfl | exact Nat.le_succ _ | exact fun w => Memory.foldl_wf 15 _ _ _ w | skip

theorem auxCmd_lasts (p : List Byte) {s : State} (h_ : Lasts b_ u_ s) : Lasts b_ u_ (auxCmd p s).run.st := by
  unfold auxCmd
  try dsimp only
  repeat' first | with_reducible assumption | with_reducible apply driverOff_lasts | with_reducible apply requestPullIn_lasts | with_reducible apply Lasts.foldl | (intro _ _ _) | with_reducible apply Lasts.ite | split | with_reducible apply Lasts.free | (with_reducible apply Lasts.upd <;> first | with_reducible rfl | with_reducible exact fun w => w | with_reducible exact fun _ w => w | with_reducible exact Nat.le_refl _ | skip)
  all_goals first | rfl | exact fun w => w | exact fun _ w => w | exact fun _ => rfl | exact fun _ _ => rfl | exact Nat.le_succ _ | exact fun w => Memory.foldl_wf 15 _ _ _ w | skip

theorem meterWarnClearCmd_lasts (p : List Byte) {s : State} (h_ : Lasts b_ u_ s) : Lasts b_ u_ (meterWarnClearCmd p s).run.st := by
  unfold meterWarnClearCmd
  try dsimp only
  repeat' first | with_reducible assumption | with_reducible apply updEng_lasts | with_reducible apply sign_lasts | with_reducible apply event_lasts | with_reducible apply Lasts.foldl | (intro _ _ _) | with_reducible apply Lasts.ite | split | with_reducible apply Lasts.free | (with_reducible apply Lasts.upd <;> first | with_reducible rfl | with_reducible exact fun w => w | with_reducible exact fun _ w => w | with_reducible exact Nat.le_refl _ | skip)
  all_goals first | rfl | exact fun w => w | exact fun _ w => w | exact fun _ => rfl | exact fun _ _ => rfl | exact Nat.le_succ _ | exact fun w => Memory.foldl_wf 15 _ _ _ w | skip

theorem timeSetCmd_lasts (h : Hdr) (p : List Byte) {s : State} (h_ : Lasts b_ u_ s) : Lasts b_ u_ (timeSetCmd h p s).run.st := by
  unfold timeSetCmd
  try dsimp only
  repeat' first | with_reducible assumption | with_reducible apply timeAdjusted_lasts | with_reducible apply Lasts.foldl | (intro _ _ _) | with_reducible apply Lasts.ite | split | with_reducible apply Lasts.free | (with_reducible apply Lasts.upd <;> first | with_reducible rfl | with_reducible exact fun w => w | with_reducible exact fun _ w => w | with_reducible exact Nat.le_refl _ | skip)
  all_goals first | rfl | exact fun w => w | exact fun _ w => w | exact fun _ => rfl | exact fun _ _ => rfl | exact Nat.le_succ _ | exact fun w => Memory.foldl_wf 15 _ _ _ w | skip

theorem tariffAnnounceCmd_lasts (p : List Byte) {s : State} (h_ : Lasts b_ u_ s) : Lasts b_ u_ (tariffAnnounceCmd p s).run.st := by
  unfold tariffAnnounceCmd
  try dsimp only
  repeat' first | with_reducible assumption | with_reducible apply Lasts.foldl | (intro _ _ _) | with_reducible apply Lasts.ite | split | with_reducible apply Lasts.free | (with_reducible apply Lasts.upd <;> first | with_reducible rfl | with_reducible exact fun w => w | with_reducible exact fun _ w => w | with_reducible exact Nat.le_refl _ | skip)
  all_goals first | rfl | exact fun w => w | exact fun _ w => w | exact fun _ => rfl | exact fun _ _ => rfl | exact Nat.le_succ _ | exact fun w => Memory.foldl_wf 15 _ _ _ w | skip

theorem demandResetCmd_lasts (h : Hdr) (p : List Byte) {s : State} (h_ : Lasts b_ u_ s) : Lasts b_ u_ (demandResetCmd h p s).run.st := by
  unfold demandResetCmd
  try dsimp only
  repeat' first | with_reducible assumption | with_reducible apply Lasts.foldl | (intro _ _ _) | with_reducible apply Lasts.ite | split | with_reducible apply Lasts.free | (with_reducible apply Lasts.upd <;> first | with_reducible rfl | with_reducible exact fun w => w | with_reducible exact fun _ w => w | with_reducible exact Nat.le_refl _ | skip)
  all_goals first | rfl | exact fun w => w | exact fun _ w => w | exact fun _ => rfl | exact fun _ _ => rfl | exact Nat.le_succ _ | exact fun w => Memory.foldl_wf 15 _ _ _ w | skip

theorem logReadCmd_lasts (p : List Byte) {s : State} (h_ : Lasts b_ u_ s) : Lasts b_ u_ (logReadCmd p s).run.st := by
  unfold logReadCmd
  try dsimp only
  repeat' first | with_reducible assumption | with_reducible apply Lasts.foldl | (intro _ _ _) | with_reducible apply Lasts.ite | split | with_reducible apply Lasts.free | (with_reducible apply Lasts.upd <;> first | with_reducible rfl | with_reducible exact fun w => w | with_reducible exact fun _ w => w | with_reducible exact Nat.le_refl _ | skip)
  all_goals first | rfl | exact fun w => w | exact fun _ w => w | exact fun _ => rfl | exact fun _ _ => rfl | exact Nat.le_succ _ | exact fun w => Memory.foldl_wf 15 _ _ _ w | skip

theorem logAckCmd_lasts (p : List Byte) {s : State} (h_ : Lasts b_ u_ s) : Lasts b_ u_ (logAckCmd p s).run.st := by
  unfold logAckCmd
  try dsimp only
  repeat' first | with_reducible assumption | with_reducible apply logThresholds_lasts | with_reducible apply Lasts.foldl | (intro _ _ _) | with_reducible apply Lasts.ite | split | with_reducible apply Lasts.free | (with_reducible apply Lasts.upd <;> first | with_reducible rfl | with_reducible exact fun w => w | with_reducible exact fun _ w => w | with_reducible exact Nat.le_refl _ | skip)
  all_goals first | rfl | exact fun w => w | exact fun _ w => w | exact fun _ => rfl | exact fun _ _ => rfl | exact Nat.le_succ _ | exact fun w => Memory.foldl_wf 15 _ _ _ w | skip

theorem resealCmd_lasts (h : Hdr) (p : List Byte) {s : State} (hb : b_ = false) (h_ : Lasts b_ u_ s) : Lasts b_ u_ (resealCmd h p s).run.st := by
  unfold resealCmd
  try dsimp only
  repeat' first | with_reducible assumption | with_reducible apply emit_lasts | with_reducible apply clearSeal_lasts | with_reducible apply signReseal_lasts | with_reducible apply Lasts.foldl | (intro _ _ _) | with_reducible apply Lasts.ite | split | with_reducible apply Lasts.free | (with_reducible apply Lasts.upd <;> first | with_reducible rfl | with_reducible exact fun w => w | with_reducible exact fun _ w => w | with_reducible exact Nat.le_refl _ | skip)
  all_goals first | rfl | exact fun w => w | exact fun _ w => w | exact fun _ => rfl | exact fun _ _ => rfl | exact Nat.le_succ _ | exact fun w => Memory.foldl_wf 15 _ _ _ w | exact hb | skip

theorem syncCmd_lasts (h : Hdr) (p : List Byte) {s : State} (h_ : Lasts b_ u_ s) : Lasts b_ u_ (syncCmd h p s).run.st := by
  unfold syncCmd
  try dsimp only
  repeat' first | with_reducible assumption | with_reducible apply cancelSync_lasts | with_reducible apply syncDone_lasts | with_reducible apply Lasts.foldl | (intro _ _ _) | with_reducible apply Lasts.ite | split | with_reducible apply Lasts.free | (with_reducible apply Lasts.upd <;> first | with_reducible rfl | with_reducible exact fun w => w | with_reducible exact fun _ w => w | with_reducible exact Nat.le_refl _ | skip)
  all_goals first | rfl | exact fun w => w | exact fun _ w => w | exact fun _ => rfl | exact fun _ _ => rfl | exact Nat.le_succ _ | exact fun w => Memory.foldl_wf 15 _ _ _ w | skip

theorem coefLoadCmd_lasts (p : List Byte) {s : State} (h_ : Lasts b_ u_ s) : Lasts b_ u_ (coefLoadCmd p s).run.st := by
  unfold coefLoadCmd
  try dsimp only
  repeat' first | with_reducible assumption | with_reducible apply Lasts.foldl | (intro _ _ _) | with_reducible apply Lasts.ite | split | with_reducible apply Lasts.free | (with_reducible apply Lasts.upd <;> first | with_reducible rfl | with_reducible exact fun w => w | with_reducible exact fun _ w => w | with_reducible exact Nat.le_refl _ | skip)
  all_goals first | rfl | exact fun w => w | exact fun _ w => w | exact fun _ => rfl | exact fun _ _ => rfl | exact Nat.le_succ _ | exact fun w => Memory.foldl_wf 15 _ _ _ w | skip

theorem pathSelectCmd_lasts (h : Hdr) (p : List Byte) {s : State} (h_ : Lasts b_ u_ s) : Lasts b_ u_ (pathSelectCmd h p s).run.st := by
  unfold pathSelectCmd
  try dsimp only
  repeat' first | with_reducible assumption | with_reducible apply Lasts.foldl | (intro _ _ _) | with_reducible apply Lasts.ite | split | with_reducible apply Lasts.free | (with_reducible apply Lasts.upd <;> first | with_reducible rfl | with_reducible exact fun w => w | with_reducible exact fun _ w => w | with_reducible exact Nat.le_refl _ | skip)
  all_goals first | rfl | exact fun w => w | exact fun _ w => w | exact fun _ => rfl | exact fun _ _ => rfl | exact Nat.le_succ _ | exact fun w => Memory.foldl_wf 15 _ _ _ w | skip

theorem captureStartCmd_lasts (h : Hdr) (p : List Byte) {s : State} (h_ : Lasts b_ u_ s) : Lasts b_ u_ (captureStartCmd h p s).run.st := by
  unfold captureStartCmd
  try dsimp only
  repeat' first | with_reducible assumption | with_reducible apply Lasts.foldl | (intro _ _ _) | with_reducible apply Lasts.ite | split | with_reducible apply Lasts.free | (with_reducible apply Lasts.upd <;> first | with_reducible rfl | with_reducible exact fun w => w | with_reducible exact fun _ w => w | with_reducible exact Nat.le_refl _ | skip)
  all_goals first | rfl | exact fun w => w | exact fun _ w => w | exact fun _ => rfl | exact fun _ _ => rfl | exact Nat.le_succ _ | exact fun w => Memory.foldl_wf 15 _ _ _ w | skip

theorem authDecideCmd_lasts (p : List Byte) {s : State} (h_ : Lasts b_ u_ s) : Lasts b_ u_ (authDecideCmd p s).run.st := by
  unfold authDecideCmd
  try dsimp only
  repeat' first | with_reducible assumption | with_reducible apply linkEnd_lasts | with_reducible apply tell_lasts | with_reducible apply setAuth_lasts | with_reducible apply Lasts.foldl | (intro _ _ _) | with_reducible apply Lasts.ite | split | with_reducible apply Lasts.free | (with_reducible apply Lasts.upd <;> first | with_reducible rfl | with_reducible exact fun w => w | with_reducible exact fun _ w => w | with_reducible exact Nat.le_refl _ | skip)
  all_goals first | rfl | exact fun w => w | exact fun _ w => w | exact fun _ => rfl | exact fun _ _ => rfl | exact Nat.le_succ _ | exact fun w => Memory.foldl_wf 15 _ _ _ w | skip

theorem linkStopCmd_lasts (h : Hdr) (p : List Byte) {s : State} (h_ : Lasts b_ u_ s) : Lasts b_ u_ (linkStopCmd h p s).run.st := by
  unfold linkStopCmd
  try dsimp only
  repeat' first | with_reducible assumption | with_reducible apply tell_lasts | with_reducible apply updLk_lasts | with_reducible apply Lasts.foldl | (intro _ _ _) | with_reducible apply Lasts.ite | split | with_reducible apply Lasts.free | (with_reducible apply Lasts.upd <;> first | with_reducible rfl | with_reducible exact fun w => w | with_reducible exact fun _ w => w | with_reducible exact Nat.le_refl _ | skip)
  all_goals first | rfl | exact fun w => w | exact fun _ w => w | exact fun _ => rfl | exact fun _ _ => rfl | exact Nat.le_succ _ | exact fun w => Memory.foldl_wf 15 _ _ _ w | skip

theorem seccCsrCmd_lasts (p : List Byte) {s : State} (h_ : Lasts b_ u_ s) : Lasts b_ u_ (seccCsrCmd p s).run.st := by
  unfold seccCsrCmd
  try dsimp only
  repeat' first | with_reducible assumption | with_reducible apply State.drawFree_lasts | with_reducible apply Lasts.foldl | (intro _ _ _) | with_reducible apply Lasts.ite | split | with_reducible apply Lasts.free | (with_reducible apply Lasts.upd <;> first | with_reducible rfl | with_reducible exact fun w => w | with_reducible exact fun _ w => w | with_reducible exact Nat.le_refl _ | skip)
  all_goals first | rfl | exact fun w => w | exact fun _ w => w | exact fun _ => rfl | exact fun _ _ => rfl | exact Nat.le_succ _ | exact fun w => Memory.foldl_wf 15 _ _ _ w | skip

theorem seccCertCmd_lasts (p : List Byte) {s : State} (h_ : Lasts b_ u_ s) : Lasts b_ u_ (seccCertCmd p s).run.st := by
  unfold seccCertCmd
  try dsimp only
  repeat' first | with_reducible assumption | with_reducible apply Lasts.foldl | (intro _ _ _) | with_reducible apply Lasts.ite | split | with_reducible apply Lasts.free | (with_reducible apply Lasts.upd <;> first | with_reducible rfl | with_reducible exact fun w => w | with_reducible exact fun _ w => w | with_reducible exact Nat.le_refl _ | skip)
  all_goals first | rfl | exact fun w => w | exact fun _ w => w | exact fun _ => rfl | exact fun _ _ => rfl | exact Nat.le_succ _ | exact fun w => Memory.foldl_wf 15 _ _ _ w | skip

theorem loadOn_lasts (h : Hdr) (c : Nat) (pwm : Bool) (duty : Nat) {s : State} (h_ : Lasts b_ u_ s) : Lasts b_ u_ (loadOn h c pwm duty s).st := by
  unfold loadOn
  try dsimp only
  repeat' first | with_reducible assumption | with_reducible apply updCh_lasts | with_reducible apply chTo_lasts | with_reducible apply overReleased_lasts | with_reducible apply joinQueue_lasts | with_reducible apply Lasts.foldl | (intro _ _ _) | with_reducible apply Lasts.ite | split | with_reducible apply Lasts.free | (with_reducible apply Lasts.upd <;> first | with_reducible rfl | with_reducible exact fun w => w | with_reducible exact fun _ w => w | with_reducible exact Nat.le_refl _ | skip)
  all_goals first | rfl | exact fun w => w | exact fun _ w => w | exact fun _ => rfl | exact fun _ _ => rfl | exact Nat.le_succ _ | exact fun w => Memory.foldl_wf 15 _ _ _ w | skip

theorem loadSetCmd_lasts (h : Hdr) (p : List Byte) {s : State} (h_ : Lasts b_ u_ s) : Lasts b_ u_ (loadSetCmd h p s).run.st := by
  unfold loadSetCmd
  try dsimp only
  repeat' first | with_reducible assumption | with_reducible apply updCh_lasts | with_reducible apply overReleased_lasts | with_reducible apply serveBank_lasts | with_reducible apply chTo_lasts | with_reducible apply loadOn_lasts | with_reducible apply Lasts.foldl | (intro _ _ _) | with_reducible apply Lasts.ite | split | with_reducible apply Lasts.free | (with_reducible apply Lasts.upd <;> first | with_reducible rfl | with_reducible exact fun w => w | with_reducible exact fun _ w => w | with_reducible exact Nat.le_refl _ | skip)
  all_goals first | rfl | exact fun w => w | exact fun _ w => w | exact fun _ => rfl | exact fun _ _ => rfl | exact Nat.le_succ _ | exact fun w => Memory.foldl_wf 15 _ _ _ w | skip

theorem bankResetCmd_lasts (p : List Byte) {s : State} (h_ : Lasts b_ u_ s) : Lasts b_ u_ (bankResetCmd p s).run.st := by
  unfold bankResetCmd
  try dsimp only
  repeat' first | with_reducible assumption | with_reducible apply updBank_lasts | with_reducible apply bankEvent_lasts | with_reducible apply releaseBank_lasts | with_reducible apply Lasts.foldl | (intro _ _ _) | with_reducible apply Lasts.ite | split | with_reducible apply Lasts.free | (with_reducible apply Lasts.upd <;> first | with_reducible rfl | with_reducible exact fun w => w | with_reducible exact fun _ w => w | with_reducible exact Nat.le_refl _ | skip)
  all_goals first | rfl | exact fun w => w | exact fun _ w => w | exact fun _ => rfl | exact fun _ _ => rfl | exact Nat.le_succ _ | exact fun w => Memory.foldl_wf 15 _ _ _ w | skip

theorem trvSendCmd_lasts (h : Hdr) (p : List Byte) {s : State} (h_ : Lasts b_ u_ s) : Lasts b_ u_ (trvSendCmd h p s).run.st := by
  unfold trvSendCmd
  try dsimp only
  repeat' first | with_reducible assumption | with_reducible apply ownPacket_lasts | with_reducible apply queueOwn_lasts | with_reducible apply trvSent_lasts | with_reducible apply Lasts.foldl | (intro _ _ _) | with_reducible apply Lasts.ite | split | with_reducible apply Lasts.free | (with_reducible apply Lasts.upd <;> first | with_reducible rfl | with_reducible exact fun w => w | with_reducible exact fun _ w => w | with_reducible exact Nat.le_refl _ | skip)
  all_goals first | rfl | exact fun w => w | exact fun _ w => w | exact fun _ => rfl | exact fun _ _ => rfl | exact Nat.le_succ _ | exact fun w => Memory.foldl_wf 15 _ _ _ w | skip

theorem trvKeySetCmd_lasts (p : List Byte) {s : State} (h_ : Lasts b_ u_ s) : Lasts b_ u_ (trvKeySetCmd p s).run.st := by
  unfold trvKeySetCmd
  try dsimp only
  repeat' first | with_reducible assumption | with_reducible apply Lasts.foldl | (intro _ _ _) | with_reducible apply Lasts.ite | split | with_reducible apply Lasts.free | (with_reducible apply Lasts.upd <;> first | with_reducible rfl | with_reducible exact fun w => w | with_reducible exact fun _ w => w | with_reducible exact Nat.le_refl _ | skip)
  all_goals first | rfl | exact fun w => w | exact fun _ w => w | exact fun _ => rfl | exact fun _ _ => rfl | exact Nat.le_succ _ | exact fun w => Memory.foldl_wf 15 _ _ _ w | skip

theorem trvKeyUseCmd_lasts (p : List Byte) {s : State} (h_ : Lasts b_ u_ s) : Lasts b_ u_ (trvKeyUseCmd p s).run.st := by
  unfold trvKeyUseCmd
  try dsimp only
  repeat' first | with_reducible assumption | with_reducible apply Lasts.foldl | (intro _ _ _) | with_reducible apply Lasts.ite | split | with_reducible apply Lasts.free | (with_reducible apply Lasts.upd <;> first | with_reducible rfl | with_reducible exact fun w => w | with_reducible exact fun _ w => w | with_reducible exact Nat.le_refl _ | skip)
  all_goals first | rfl | exact fun w => w | exact fun _ w => w | exact fun _ => rfl | exact fun _ _ => rfl | exact Nat.le_succ _ | exact fun w => Memory.foldl_wf 15 _ _ _ w | skip

theorem cardApduCmd_lasts (h : Hdr) (p : List Byte) {s : State} (h_ : Lasts b_ u_ s) : Lasts b_ u_ (cardApduCmd h p s).run.st := by
  unfold cardApduCmd
  try dsimp only
  repeat' first | with_reducible assumption | with_reducible apply Lasts.foldl | (intro _ _ _) | with_reducible apply Lasts.ite | split | with_reducible apply Lasts.free | (with_reducible apply Lasts.upd <;> first | with_reducible rfl | with_reducible exact fun w => w | with_reducible exact fun _ w => w | with_reducible exact Nat.le_refl _ | skip)
  all_goals first | rfl | exact fun w => w | exact fun _ w => w | exact fun _ => rfl | exact fun _ _ => rfl | exact Nat.le_succ _ | exact fun w => Memory.foldl_wf 15 _ _ _ w | skip

theorem displayWriteCmd_lasts (p : List Byte) {s : State} (h_ : Lasts b_ u_ s) : Lasts b_ u_ (displayWriteCmd p s).run.st := by
  unfold displayWriteCmd
  try dsimp only
  repeat' first | with_reducible assumption | with_reducible apply updDisp_lasts | with_reducible apply queueAon_lasts | with_reducible apply Lasts.foldl | (intro _ _ _) | with_reducible apply Lasts.ite | split | with_reducible apply Lasts.free | (with_reducible apply Lasts.upd <;> first | with_reducible rfl | with_reducible exact fun w => w | with_reducible exact fun _ w => w | with_reducible exact Nat.le_refl _ | skip)
  all_goals first | rfl | exact fun w => w | exact fun _ w => w | exact fun _ => rfl | exact fun _ _ => rfl | exact Nat.le_succ _ | exact fun w => Memory.foldl_wf 15 _ _ _ w | skip

theorem displayUpdateCmd_lasts (h : Hdr) (p : List Byte) {s : State} (h_ : Lasts b_ u_ s) : Lasts b_ u_ (displayUpdateCmd h p s).run.st := by
  unfold displayUpdateCmd
  try dsimp only
  repeat' first | with_reducible assumption | with_reducible apply queueTail_lasts | with_reducible apply updDisp_lasts | with_reducible apply Lasts.foldl | (intro _ _ _) | with_reducible apply Lasts.ite | split | with_reducible apply Lasts.free | (with_reducible apply Lasts.upd <;> first | with_reducible rfl | with_reducible exact fun w => w | with_reducible exact fun _ w => w | with_reducible exact Nat.le_refl _ | skip)
  all_goals first | rfl | exact fun w => w | exact fun _ w => w | exact fun _ => rfl | exact fun _ _ => rfl | exact Nat.le_succ _ | exact fun w => Memory.foldl_wf 15 _ _ _ w | skip

theorem displayLightCmd_lasts (h : Hdr) (p : List Byte) {s : State} (h_ : Lasts b_ u_ s) : Lasts b_ u_ (displayLightCmd h p s).run.st := by
  unfold displayLightCmd
  try dsimp only
  repeat' first | with_reducible assumption | with_reducible apply lightEvent_lasts | with_reducible apply updDisp_lasts | with_reducible apply Lasts.foldl | (intro _ _ _) | with_reducible apply Lasts.ite | split | with_reducible apply Lasts.free | (with_reducible apply Lasts.upd <;> first | with_reducible rfl | with_reducible exact fun w => w | with_reducible exact fun _ w => w | with_reducible exact Nat.le_refl _ | skip)
  all_goals first | rfl | exact fun w => w | exact fun _ w => w | exact fun _ => rfl | exact fun _ _ => rfl | exact Nat.le_succ _ | exact fun w => Memory.foldl_wf 15 _ _ _ w | skip

theorem wfLoadCmd_lasts (p : List Byte) {s : State} (h_ : Lasts b_ u_ s) : Lasts b_ u_ (wfLoadCmd p s).run.st := by
  unfold wfLoadCmd
  try dsimp only
  repeat' first | with_reducible assumption | with_reducible apply serveQueue_lasts | with_reducible apply updDisp_lasts | with_reducible apply Lasts.foldl | (intro _ _ _) | with_reducible apply Lasts.ite | split | with_reducible apply Lasts.free | (with_reducible apply Lasts.upd <;> first | with_reducible rfl | with_reducible exact fun w => w | with_reducible exact fun _ w => w | with_reducible exact Nat.le_refl _ | skip)
  all_goals first | rfl | exact fun w => w | exact fun _ w => w | exact fun _ => rfl | exact fun _ _ => rfl | exact Nat.le_succ _ | exact fun w => Memory.foldl_wf 15 _ _ _ w | skip

theorem imageActivateCmd_lasts (h : Hdr) (p : List Byte) {s : State} (h_ : Lasts b_ u_ s) : Lasts b_ u_ (imageActivateCmd h p s).run.st := by
  unfold imageActivateCmd
  try dsimp only
  repeat' first | with_reducible assumption | with_reducible apply updStore_lasts | with_reducible apply askGroup_lasts | with_reducible apply Lasts.foldl | (intro _ _ _) | with_reducible apply Lasts.ite | split | with_reducible apply Lasts.free | (with_reducible apply Lasts.upd <;> first | with_reducible rfl | with_reducible exact fun w => w | with_reducible exact fun _ w => w | with_reducible exact Nat.le_refl _ | skip)
  all_goals first | rfl | exact fun w => w | exact fun _ w => w | exact fun _ => rfl | exact fun _ _ => rfl | exact Nat.le_succ _ | exact fun w => Memory.foldl_wf 15 _ _ _ w | skip

theorem confirmImageCmd_lasts (p : List Byte) {s : State} (h_ : Lasts b_ u_ s) : Lasts b_ u_ (confirmImageCmd p s).run.st := by
  unfold confirmImageCmd
  try dsimp only
  repeat' first | with_reducible assumption | with_reducible apply journalUpdate_lasts | with_reducible apply updStore_lasts | with_reducible apply event_lasts | with_reducible apply Lasts.foldl | (intro _ _ _) | with_reducible apply Lasts.ite | split | with_reducible apply Lasts.free | (with_reducible apply Lasts.upd <;> first | with_reducible rfl | with_reducible exact fun w => w | with_reducible exact fun _ w => w | with_reducible exact Nat.le_refl _ | skip)
  all_goals first | rfl | exact fun w => w | exact fun _ w => w | exact fun _ => rfl | exact fun _ _ => rfl | exact Nat.le_succ _ | exact fun w => Memory.foldl_wf 15 _ _ _ w | skip

theorem updateStartCmd_lasts (h : Hdr) (p : List Byte) {s : State} (h_ : Lasts b_ u_ s) : Lasts b_ u_ (updateStartCmd h p s).run.st := by
  unfold updateStartCmd
  try dsimp only
  repeat' first | with_reducible assumption | with_reducible apply beginStaging_lasts | with_reducible apply updChain_lasts | with_reducible apply sendOffer_lasts | with_reducible apply Lasts.foldl | (intro _ _ _) | with_reducible apply Lasts.ite | split | with_reducible apply Lasts.free | (with_reducible apply Lasts.upd <;> first | with_reducible rfl | with_reducible exact fun w => w | with_reducible exact fun _ w => w | with_reducible exact Nat.le_refl _ | skip)
  all_goals first | rfl | exact fun w => w | exact fun _ w => w | exact fun _ => rfl | exact fun _ _ => rfl | exact Nat.le_succ _ | exact fun w => Memory.foldl_wf 15 _ _ _ w | skip

theorem updateDataCmd_lasts (p : List Byte) {s : State} (h_ : Lasts b_ u_ s) : Lasts b_ u_ (updateDataCmd p s).run.st := by
  unfold updateDataCmd
  try dsimp only
  repeat' first | with_reducible assumption | with_reducible apply stageHalf_lasts | with_reducible apply forward16_lasts | with_reducible apply Lasts.foldl | (intro _ _ _) | with_reducible apply Lasts.ite | split | with_reducible apply Lasts.free | (with_reducible apply Lasts.upd <;> first | with_reducible rfl | with_reducible exact fun w => w | with_reducible exact fun _ w => w | with_reducible exact Nat.le_refl _ | skip)
  all_goals first | rfl | exact fun w => w | exact fun _ w => w | exact fun _ => rfl | exact fun _ _ => rfl | exact Nat.le_succ _ | exact fun w => Memory.foldl_wf 15 _ _ _ w | skip

theorem updateAbortCmd_lasts (p : List Byte) {s : State} (h_ : Lasts b_ u_ s) : Lasts b_ u_ (updateAbortCmd p s).run.st := by
  unfold updateAbortCmd
  try dsimp only
  repeat' first | with_reducible assumption | with_reducible apply chainSend_lasts | with_reducible apply stagingDone_lasts | with_reducible apply emptyStaging_lasts | with_reducible apply Lasts.foldl | (intro _ _ _) | with_reducible apply Lasts.ite | split | with_reducible apply Lasts.free | (with_reducible apply Lasts.upd <;> first | with_reducible rfl | with_reducible exact fun w => w | with_reducible exact fun _ w => w | with_reducible exact Nat.le_refl _ | skip)
  all_goals first | rfl | exact fun w => w | exact fun _ w => w | exact fun _ => rfl | exact fun _ _ => rfl | exact Nat.le_succ _ | exact fun w => Memory.foldl_wf 15 _ _ _ w | skip

theorem roleChallengeCmd_lasts (p : List Byte) {s : State} (h_ : Lasts b_ u_ s) : Lasts b_ u_ (roleChallengeCmd p s).run.st := by
  unfold roleChallengeCmd
  try dsimp only
  repeat' first | with_reducible assumption | with_reducible apply updRoles_lasts | with_reducible apply State.drawFree_lasts | with_reducible apply Lasts.foldl | (intro _ _ _) | with_reducible apply Lasts.ite | split | with_reducible apply Lasts.free | (with_reducible apply Lasts.upd <;> first | with_reducible rfl | with_reducible exact fun w => w | with_reducible exact fun _ w => w | with_reducible exact Nat.le_refl _ | skip)
  all_goals first | rfl | exact fun w => w | exact fun _ w => w | exact fun _ => rfl | exact fun _ _ => rfl | exact Nat.le_succ _ | exact fun w => Memory.foldl_wf 15 _ _ _ w | skip

theorem roleOpenCmd_lasts (p : List Byte) {s : State} (h_ : Lasts b_ u_ s) : Lasts b_ u_ (roleOpenCmd p s).run.st := by
  unfold roleOpenCmd
  try dsimp only
  repeat' first | with_reducible assumption | with_reducible apply roleOpened_lasts | with_reducible apply roleFailed_lasts | with_reducible apply Lasts.foldl | (intro _ _ _) | with_reducible apply Lasts.ite | split | with_reducible apply Lasts.free | (with_reducible apply Lasts.upd <;> first | with_reducible rfl | with_reducible exact fun w => w | with_reducible exact fun _ w => w | with_reducible exact Nat.le_refl _ | skip)
  all_goals first | rfl | exact fun w => w | exact fun _ w => w | exact fun _ => rfl | exact fun _ _ => rfl | exact Nat.le_succ _ | exact fun w => Memory.foldl_wf 15 _ _ _ w | skip

theorem roleCloseCmd_lasts (p : List Byte) {s : State} (h_ : Lasts b_ u_ s) : Lasts b_ u_ (roleCloseCmd p s).run.st := by
  unfold roleCloseCmd
  try dsimp only
  repeat' first | with_reducible assumption | with_reducible apply roleEnded_lasts | with_reducible apply updRoles_lasts | with_reducible apply Lasts.foldl | (intro _ _ _) | with_reducible apply Lasts.ite | split | with_reducible apply Lasts.free | (with_reducible apply Lasts.upd <;> first | with_reducible rfl | with_reducible exact fun w => w | with_reducible exact fun _ w => w | with_reducible exact Nat.le_refl _ | skip)
  all_goals first | rfl | exact fun w => w | exact fun _ w => w | exact fun _ => rfl | exact fun _ _ => rfl | exact Nat.le_succ _ | exact fun w => Memory.foldl_wf 15 _ _ _ w | skip

theorem roleKeySetCmd_lasts (p : List Byte) {s : State} (h_ : Lasts b_ u_ s) : Lasts b_ u_ (roleKeySetCmd p s).run.st := by
  unfold roleKeySetCmd
  try dsimp only
  repeat' first | with_reducible assumption | with_reducible apply updRoles_lasts | with_reducible apply Lasts.foldl | (intro _ _ _) | with_reducible apply Lasts.ite | split | with_reducible apply Lasts.free | (with_reducible apply Lasts.upd <;> first | with_reducible rfl | with_reducible exact fun w => w | with_reducible exact fun _ w => w | with_reducible exact Nat.le_refl _ | skip)
  all_goals first | rfl | exact fun w => w | exact fun _ w => w | exact fun _ => rfl | exact fun _ _ => rfl | exact Nat.le_succ _ | exact fun w => Memory.foldl_wf 15 _ _ _ w | skip

theorem resetCmd_lasts (p : List Byte) {s : State} (h_ : Lasts b_ u_ s) : Lasts b_ u_ (resetCmd p s).run.st := by
  unfold resetCmd
  try dsimp only
  repeat' first | with_reducible assumption | with_reducible apply forceStops_lasts | with_reducible refine updRst_lasts ?_ (fun w_ => w_) | with_reducible apply Lasts.foldl | (intro _ _ _) | with_reducible apply Lasts.ite | split | with_reducible apply Lasts.free | (with_reducible apply Lasts.upd <;> first | with_reducible rfl | with_reducible exact fun w => w | with_reducible exact fun _ w => w | with_reducible exact Nat.le_refl _ | skip)
  all_goals first | rfl | exact fun w => w | exact fun _ w => w | exact fun _ => rfl | exact fun _ _ => rfl | exact Nat.le_succ _ | exact fun w => Memory.foldl_wf 15 _ _ _ w | skip

theorem modeSetRun_lasts (h : Hdr) (bench : Bool) {s : State} (h_ : Lasts b_ u_ s) : Lasts b_ u_ (modeSetRun h bench s).st := by
  unfold modeSetRun
  try dsimp only
  repeat' first | with_reducible assumption | with_reducible apply enterMode_lasts | with_reducible apply benchCancelled_lasts | with_reducible apply Lasts.foldl | (intro _ _ _) | with_reducible apply Lasts.ite | split | with_reducible apply Lasts.free | (with_reducible apply Lasts.upd <;> first | with_reducible rfl | with_reducible exact fun w => w | with_reducible exact fun _ w => w | with_reducible exact Nat.le_refl _ | skip)
  all_goals first | rfl | exact fun w => w | exact fun _ w => w | exact fun _ => rfl | exact fun _ _ => rfl | exact Nat.le_succ _ | exact fun w => Memory.foldl_wf 15 _ _ _ w | skip

theorem modeSetCmd_lasts (h : Hdr) (p : List Byte) {s : State} (h_ : Lasts b_ u_ s) : Lasts b_ u_ (modeSetCmd h p s).run.st := by
  unfold modeSetCmd
  try dsimp only
  repeat' first | with_reducible assumption | with_reducible apply modeSetRun_lasts | with_reducible apply Lasts.foldl | (intro _ _ _) | with_reducible apply Lasts.ite | split | with_reducible apply Lasts.free | (with_reducible apply Lasts.upd <;> first | with_reducible rfl | with_reducible exact fun w => w | with_reducible exact fun _ w => w | with_reducible exact Nat.le_refl _ | skip)
  all_goals first | rfl | exact fun w => w | exact fun _ w => w | exact fun _ => rfl | exact fun _ _ => rfl | exact Nat.le_succ _ | exact fun w => Memory.foldl_wf 15 _ _ _ w | skip

theorem recoveryAckCmd_lasts (p : List Byte) {s : State} (h_ : Lasts b_ u_ s) : Lasts b_ u_ (recoveryAckCmd p s).run.st := by
  unfold recoveryAckCmd
  try dsimp only
  repeat' first | with_reducible assumption | with_reducible apply recoveryAcked_lasts | with_reducible apply Lasts.foldl | (intro _ _ _) | with_reducible apply Lasts.ite | split | with_reducible apply Lasts.free | (with_reducible apply Lasts.upd <;> first | with_reducible rfl | with_reducible exact fun w => w | with_reducible exact fun _ w => w | with_reducible exact Nat.le_refl _ | skip)
  all_goals first | rfl | exact fun w => w | exact fun _ w => w | exact fun _ => rfl | exact fun _ _ => rfl | exact Nat.le_succ _ | exact fun w => Memory.foldl_wf 15 _ _ _ w | skip

theorem commissioningDoneCmd_lasts (p : List Byte) {s : State} (h_ : Lasts b_ u_ s) : Lasts b_ u_ (commissioningDoneCmd p s).run.st := by
  unfold commissioningDoneCmd
  try dsimp only
  repeat' first | with_reducible assumption | with_reducible apply enterMode_lasts | with_reducible refine updRst_lasts ?_ (fun _ => rfl) | with_reducible apply Lasts.foldl | (intro _ _ _) | with_reducible apply Lasts.ite | split | with_reducible apply Lasts.free | (with_reducible apply Lasts.upd <;> first | with_reducible rfl | with_reducible exact fun w => w | with_reducible exact fun _ w => w | with_reducible exact Nat.le_refl _ | skip)
  all_goals first | rfl | exact fun w => w | exact fun _ w => w | exact fun _ => rfl | exact fun _ _ => rfl | exact Nat.le_succ _ | exact fun w => Memory.foldl_wf 15 _ _ _ w | skip

theorem objReadCmd_lasts (p : List Byte) {s : State} (h_ : Lasts b_ u_ s) : Lasts b_ u_ (objReadCmd p s).run.st := by
  unfold objReadCmd
  try dsimp only
  repeat' first | with_reducible assumption | with_reducible apply Lasts.foldl | (intro _ _ _) | with_reducible apply Lasts.ite | split | with_reducible apply Lasts.free | (with_reducible apply Lasts.upd <;> first | with_reducible rfl | with_reducible exact fun w => w | with_reducible exact fun _ w => w | with_reducible exact Nat.le_refl _ | skip)
  all_goals first | rfl | exact fun w => w | exact fun _ w => w | exact fun _ => rfl | exact fun _ _ => rfl | exact Nat.le_succ _ | exact fun w => Memory.foldl_wf 15 _ _ _ w | skip

end Sys2Proof.Machine
end

