-- ==== Sys2Proof/Laws/LastsExec.lean ====
section
/-!
SUPPORT. What the meaning of each command keeps (the relation of Lasts): with the seal latch, but for RESEAL.
-/

namespace Sys2Proof.Machine

set_option linter.all false

open Sys2Proof.Laws

theorem execNop_lasts (h : Hdr) (p : List Byte) {s t_ : State} (e_ : execNop h p s = .next t_) : Lasts true s t_ := by
  refine LastsEnds.elim ?_ e_
  clear e_
  unfold execNop
  try dsimp only
  repeat' first | with_reducible exact Lasts.refl _ _ | with_reducible assumption | with_reducible apply LastsEnds.next | with_reducible apply LastsEnds.ite | with_reducible apply hostCommand_lasts | with_reducible apply Lasts.foldl | (intro _ _ _) | with_reducible apply Lasts.ite | split | (intro _ _) | with_reducible apply Lasts.free | (with_reducible apply Lasts.upd <;> first | with_reducible rfl | with_reducible exact fun w => w | with_reducible exact fun _ w => w | with_reducible exact Nat.le_refl _ | skip)
  all_goals first | rfl | exact fun w => w | exact fun _ w => w | exact fun _ => rfl | exact fun _ _ => rfl | exact Nat.le_succ _ | exact fun w => Memory.foldl_wf 15 _ _ _ w | skip

theorem execUnknownOpcodeCommand_lasts (h : Hdr) (opcode : Nat) (p : List Byte) {s t_ : State} (e_ : execUnknownOpcodeCommand h opcode p s = .next t_) : Lasts true s t_ := by
  refine LastsEnds.elim ?_ e_
  clear e_
  unfold execUnknownOpcodeCommand
  try dsimp only
  repeat' first | with_reducible exact Lasts.refl _ _ | with_reducible assumption | with_reducible apply LastsEnds.next | with_reducible apply LastsEnds.ite | with_reducible apply unheard_lasts | with_reducible apply codeShifted_lasts | with_reducible apply ackTaken_lasts | with_reducible apply unknownTaken_lasts | with_reducible apply Lasts.foldl | (intro _ _ _) | with_reducible apply Lasts.ite | split | (intro _ _) | with_reducible apply Lasts.free | (with_reducible apply Lasts.upd <;> first | with_reducible rfl | with_reducible exact fun w => w | with_reducible exact fun _ w => w | with_reducible exact Nat.le_refl _ | skip)
  all_goals first | rfl | exact fun w => w | exact fun _ w => w | exact fun _ => rfl | exact fun _ _ => rfl | exact Nat.le_succ _ | exact fun w => Memory.foldl_wf 15 _ _ _ w | skip

theorem execEventAcknowledgement_lasts (seq flags : Byte) (code len : Nat) {s t_ : State} (e_ : execEventAcknowledgement seq flags code len s = .next t_) : Lasts true s t_ := by
  refine LastsEnds.elim ?_ e_
  clear e_
  unfold execEventAcknowledgement
  try dsimp only
  repeat' first | with_reducible exact Lasts.refl _ _ | with_reducible assumption | with_reducible apply LastsEnds.next | with_reducible apply LastsEnds.ite | with_reducible apply unheard_lasts | with_reducible apply codeShifted_lasts | with_reducible apply ackTaken_lasts | with_reducible apply Lasts.foldl | (intro _ _ _) | with_reducible apply Lasts.ite | split | (intro _ _) | with_reducible apply Lasts.free | (with_reducible apply Lasts.upd <;> first | with_reducible rfl | with_reducible exact fun w => w | with_reducible exact fun _ w => w | with_reducible exact Nat.le_refl _ | skip)
  all_goals first | rfl | exact fun w => w | exact fun _ w => w | exact fun _ => rfl | exact fun _ _ => rfl | exact Nat.le_succ _ | exact fun w => Memory.foldl_wf 15 _ _ _ w | skip

theorem execCrcErrorPacket_lasts (seq : Byte) {s t_ : State} (e_ : execCrcErrorPacket seq s = .next t_) : Lasts true s t_ := by
  refine LastsEnds.elim ?_ e_
  clear e_
  unfold execCrcErrorPacket
  try dsimp only
  repeat' first | with_reducible exact Lasts.refl _ _ | with_reducible assumption | with_reducible apply LastsEnds.next | with_reducible apply LastsEnds.ite | with_reducible apply unheard_lasts | with_reducible apply codeShifted_lasts | with_reducible apply crcErrorTaken_lasts | with_reducible apply Lasts.foldl | (intro _ _ _) | with_reducible apply Lasts.ite | split | (intro _ _) | with_reducible apply Lasts.free | (with_reducible apply Lasts.upd <;> first | with_reducible rfl | with_reducible exact fun w => w | with_reducible exact fun _ w => w | with_reducible exact Nat.le_refl _ | skip)
  all_goals first | rfl | exact fun w => w | exact fun _ w => w | exact fun _ => rfl | exact fun _ _ => rfl | exact Nat.le_succ _ | exact fun w => Memory.foldl_wf 15 _ _ _ w | skip

theorem execWriteOverrun_lasts (sync : Byte) (len received : Nat) {s t_ : State} (e_ : execWriteOverrun sync len received s = .next t_) : Lasts true s t_ := by
  refine LastsEnds.elim ?_ e_
  clear e_
  unfold execWriteOverrun
  try dsimp only
  repeat' first | with_reducible exact Lasts.refl _ _ | with_reducible assumption | with_reducible apply LastsEnds.next | with_reducible apply LastsEnds.ite | with_reducible apply unheard_lasts | with_reducible apply codeShifted_lasts | with_reducible apply writeDiscarded_lasts | with_reducible apply Lasts.foldl | (intro _ _ _) | with_reducible apply Lasts.ite | split | (intro _ _) | with_reducible apply Lasts.free | (with_reducible apply Lasts.upd <;> first | with_reducible rfl | with_reducible exact fun w => w | with_reducible exact fun _ w => w | with_reducible exact Nat.le_refl _ | skip)
  all_goals first | rfl | exact fun w => w | exact fun _ w => w | exact fun _ => rfl | exact fun _ _ => rfl | exact Nat.le_succ _ | exact fun w => Memory.foldl_wf 15 _ _ _ w | skip

theorem execSpiRead_lasts (clocked : Nat) {s t_ : State} (e_ : execSpiRead clocked s = .next t_) : Lasts true s t_ := by
  refine LastsEnds.elim ?_ e_
  clear e_
  unfold execSpiRead
  try dsimp only
  repeat' first | with_reducible exact Lasts.refl _ _ | with_reducible assumption | with_reducible apply LastsEnds.next | with_reducible apply LastsEnds.ite | with_reducible apply spiShown_lasts | with_reducible apply delivered_lasts | with_reducible apply Lasts.foldl | (intro _ _ _) | with_reducible apply Lasts.ite | split | (intro _ _) | with_reducible apply Lasts.free | (with_reducible apply Lasts.upd <;> first | with_reducible rfl | with_reducible exact fun w => w | with_reducible exact fun _ w => w | with_reducible exact Nat.le_refl _ | skip)
  all_goals first | rfl | exact fun w => w | exact fun _ w => w | exact fun _ => rfl | exact fun _ _ => rfl | exact Nat.le_succ _ | exact fun w => Memory.foldl_wf 15 _ _ _ w | skip

theorem execSpiStatus_lasts  {s t_ : State} (e_ : execSpiStatus s = .next t_) : Lasts true s t_ := by
  refine LastsEnds.elim ?_ e_
  clear e_
  unfold execSpiStatus
  try dsimp only
  repeat' first | with_reducible exact Lasts.refl _ _ | with_reducible assumption | with_reducible apply LastsEnds.next | with_reducible apply LastsEnds.ite | with_reducible apply spiShown_lasts | with_reducible apply Lasts.foldl | (intro _ _ _) | with_reducible apply Lasts.ite | split | (intro _ _) | with_reducible apply Lasts.free | (with_reducible apply Lasts.upd <;> first | with_reducible rfl | with_reducible exact fun w => w | with_reducible exact fun _ w => w | with_reducible exact Nat.le_refl _ | skip)
  all_goals first | rfl | exact fun w => w | exact fun _ w => w | exact fun _ => rfl | exact fun _ _ => rfl | exact Nat.le_succ _ | exact fun w => Memory.foldl_wf 15 _ _ _ w | skip

theorem execUartGapDiscard_lasts (bytes : List Byte) {s t_ : State} (e_ : execUartGapDiscard bytes s = .next t_) : Lasts true s t_ := by
  refine LastsEnds.elim ?_ e_
  clear e_
  unfold execUartGapDiscard
  try dsimp only
  repeat' first | with_reducible exact Lasts.refl _ _ | with_reducible assumption | with_reducible apply LastsEnds.next | with_reducible apply LastsEnds.ite | with_reducible apply Lasts.foldl | (intro _ _ _) | with_reducible apply Lasts.ite | split | (intro _ _) | with_reducible apply Lasts.free | (with_reducible apply Lasts.upd <;> first | with_reducible rfl | with_reducible exact fun w => w | with_reducible exact fun _ w => w | with_reducible exact Nat.le_refl _ | skip)
  all_goals first | rfl | exact fun w => w | exact fun _ w => w | exact fun _ => rfl | exact fun _ _ => rfl | exact Nat.le_succ _ | exact fun w => Memory.foldl_wf 15 _ _ _ w | skip

theorem execEventResend_lasts (seq : Byte) {s t_ : State} (e_ : execEventResend seq s = .next t_) : Lasts true s t_ := by
  refine LastsEnds.elim ?_ e_
  clear e_
  unfold execEventResend
  try dsimp only
  repeat' first | with_reducible exact Lasts.refl _ _ | with_reducible assumption | with_reducible apply LastsEnds.next | with_reducible apply LastsEnds.ite | with_reducible apply Lasts.foldl | (intro _ _ _) | with_reducible apply Lasts.ite | split | (intro _ _) | with_reducible apply Lasts.free | (with_reducible apply Lasts.upd <;> first | with_reducible rfl | with_reducible exact fun w => w | with_reducible exact fun _ w => w | with_reducible exact Nat.le_refl _ | skip)
  all_goals first | rfl | exact fun w => w | exact fun _ w => w | exact fun _ => rfl | exact fun _ _ => rfl | exact Nat.le_succ _ | exact fun w => Memory.foldl_wf 15 _ _ _ w | skip

theorem execUartPacketSend_lasts (hcsLow : Bool) {s t_ : State} (e_ : execUartPacketSend hcsLow s = .next t_) : Lasts true s t_ := by
  refine LastsEnds.elim ?_ e_
  clear e_
  unfold execUartPacketSend
  try dsimp only
  repeat' first | with_reducible exact Lasts.refl _ _ | with_reducible assumption | with_reducible apply LastsEnds.next | with_reducible apply LastsEnds.ite | with_reducible apply delivered_lasts | with_reducible apply Lasts.foldl | (intro _ _ _) | with_reducible apply Lasts.ite | split | (intro _ _) | with_reducible apply Lasts.free | (with_reducible apply Lasts.upd <;> first | with_reducible rfl | with_reducible exact fun w => w | with_reducible exact fun _ w => w | with_reducible exact Nat.le_refl _ | skip)
  all_goals first | rfl | exact fun w => w | exact fun _ w => w | exact fun _ => rfl | exact fun _ _ => rfl | exact Nat.le_succ _ | exact fun w => Memory.foldl_wf 15 _ _ _ w | skip

theorem execRegionMergeWindowClose_lasts (region : Nat) (cls : Byte) (key : Nat) {s t_ : State} (e_ : execRegionMergeWindowClose region cls key s = .next t_) : Lasts true s t_ := by
  refine LastsEnds.elim ?_ e_
  clear e_
  unfold execRegionMergeWindowClose
  try dsimp only
  repeat' first | with_reducible exact Lasts.refl _ _ | with_reducible assumption | with_reducible apply LastsEnds.next | with_reducible apply LastsEnds.ite | with_reducible apply Lasts.foldl | (intro _ _ _) | with_reducible apply Lasts.ite | split | (intro _ _) | with_reducible apply Lasts.free | (with_reducible apply Lasts.upd <;> first | with_reducible rfl | with_reducible exact fun w => w | with_reducible exact fun _ w => w | with_reducible exact Nat.le_refl _ | skip)
  all_goals first | rfl | exact fun w => w | exact fun _ w => w | exact fun _ => rfl | exact fun _ _ => rfl | exact Nat.le_succ _ | exact fun w => Memory.foldl_wf 15 _ _ _ w | skip

theorem execChipWindowClose_lasts (cls : Byte) (key : Nat) {s t_ : State} (e_ : execChipWindowClose cls key s = .next t_) : Lasts true s t_ := by
  refine LastsEnds.elim ?_ e_
  clear e_
  unfold execChipWindowClose
  try dsimp only
  repeat' first | with_reducible exact Lasts.refl _ _ | with_reducible assumption | with_reducible apply LastsEnds.next | with_reducible apply LastsEnds.ite | with_reducible apply closeChip_lasts | with_reducible apply Lasts.foldl | (intro _ _ _) | with_reducible apply Lasts.ite | split | (intro _ _) | with_reducible apply Lasts.free | (with_reducible apply Lasts.upd <;> first | with_reducible rfl | with_reducible exact fun w => w | with_reducible exact fun _ w => w | with_reducible exact Nat.le_refl _ | skip)
  all_goals first | rfl | exact fun w => w | exact fun _ w => w | exact fun _ => rfl | exact fun _ _ => rfl | exact Nat.le_succ _ | exact fun w => Memory.foldl_wf 15 _ _ _ w | skip

theorem execClosureOpenEnd_lasts (id : Nat) {s t_ : State} (e_ : execClosureOpenEnd id s = .next t_) : Lasts true s t_ := by
  refine LastsEnds.elim ?_ e_
  clear e_
  unfold execClosureOpenEnd
  try dsimp only
  repeat' first | with_reducible exact Lasts.refl _ _ | with_reducible assumption | with_reducible apply LastsEnds.next | with_reducible apply LastsEnds.ite | with_reducible apply Lasts.foldl | (intro _ _ _) | with_reducible apply Lasts.ite | split | (intro _ _) | with_reducible apply Lasts.free | (with_reducible apply Lasts.upd <;> first | with_reducible rfl | with_reducible exact fun w => w | with_reducible exact fun _ w => w | with_reducible exact Nat.le_refl _ | skip)
  all_goals first | rfl | exact fun w => w | exact fun _ w => w | exact fun _ => rfl | exact fun _ _ => rfl | exact Nat.le_succ _ | exact fun w => Memory.foldl_wf 15 _ _ _ w | skip

theorem execCableCheckReq_lasts (outlet maxV : Nat) {s t_ : State} (e_ : execCableCheckReq outlet maxV s = .next t_) : Lasts true s t_ := by
  refine LastsEnds.elim ?_ e_
  clear e_
  unfold execCableCheckReq
  try dsimp only
  repeat' first | with_reducible exact Lasts.refl _ _ | with_reducible assumption | with_reducible apply LastsEnds.next | with_reducible apply LastsEnds.ite | with_reducible apply tell_lasts | with_reducible apply setOwner_lasts | with_reducible apply updSq_lasts | with_reducible apply seqTo_lasts | with_reducible apply requestPullIn_lasts | with_reducible apply failSequence_lasts | with_reducible apply endAfterStop_lasts | with_reducible apply Lasts.foldl | (intro _ _ _) | with_reducible apply Lasts.ite | split | (intro _ _) | with_reducible apply Lasts.free | (with_reducible apply Lasts.upd <;> first | with_reducible rfl | with_reducible exact fun w => w | with_reducible exact fun _ w => w | with_reducible exact Nat.le_refl _ | skip)
  all_goals first | rfl | exact fun w => w | exact fun _ w => w | exact fun _ => rfl | exact fun _ _ => rfl | exact Nat.le_succ _ | exact fun w => Memory.foldl_wf 15 _ _ _ w | skip

theorem execPrechargeReq_lasts (outlet target : Nat) {s t_ : State} (e_ : execPrechargeReq outlet target s = .next t_) : Lasts true s t_ := by
  refine LastsEnds.elim ?_ e_
  clear e_
  unfold execPrechargeReq
  try dsimp only
  repeat' first | with_reducible exact Lasts.refl _ _ | with_reducible assumption | with_reducible apply LastsEnds.next | with_reducible apply LastsEnds.ite | with_reducible apply tell_lasts | with_reducible apply seqTo_lasts | with_reducible apply updSq_lasts | with_reducible apply Lasts.foldl | (intro _ _ _) | with_reducible apply Lasts.ite | split | (intro _ _) | with_reducible apply Lasts.free | (with_reducible apply Lasts.upd <;> first | with_reducible rfl | with_reducible exact fun w => w | with_reducible exact fun _ w => w | with_reducible exact Nat.le_refl _ | skip)
  all_goals first | rfl | exact fun w => w | exact fun _ w => w | exact fun _ => rfl | exact fun _ _ => rfl | exact Nat.le_succ _ | exact fun w => Memory.foldl_wf 15 _ _ _ w | skip

theorem execPowerDeliveryReq_lasts (outlet : Nat) (start : Bool) {s t_ : State} (e_ : execPowerDeliveryReq outlet start s = .next t_) : Lasts true s t_ := by
  refine LastsEnds.elim ?_ e_
  clear e_
  unfold execPowerDeliveryReq
  try dsimp only
  repeat' first | with_reducible exact Lasts.refl _ _ | with_reducible assumption | with_reducible apply LastsEnds.next | with_reducible apply LastsEnds.ite | with_reducible apply tell_lasts | with_reducible apply seqTo_lasts | with_reducible apply safeRampStop_lasts | with_reducible apply endAfterStop_lasts | with_reducible apply Lasts.foldl | (intro _ _ _) | with_reducible apply Lasts.ite | split | (intro _ _) | with_reducible apply Lasts.free | (with_reducible apply Lasts.upd <;> first | with_reducible rfl | with_reducible exact fun w => w | with_reducible exact fun _ w => w | with_reducible exact Nat.le_refl _ | skip)
  all_goals first | rfl | exact fun w => w | exact fun _ w => w | exact fun _ => rfl | exact fun _ _ => rfl | exact Nat.le_succ _ | exact fun w => Memory.foldl_wf 15 _ _ _ w | skip

theorem execCurrentDemandReq_lasts (outlet : Nat) (amps10 : Int) {s t_ : State} (e_ : execCurrentDemandReq outlet amps10 s = .next t_) : Lasts true s t_ := by
  refine LastsEnds.elim ?_ e_
  clear e_
  unfold execCurrentDemandReq
  try dsimp only
  repeat' first | with_reducible exact Lasts.refl _ _ | with_reducible assumption | with_reducible apply LastsEnds.next | with_reducible apply LastsEnds.ite | with_reducible apply tell_lasts | with_reducible apply updSq_lasts | with_reducible apply Lasts.foldl | (intro _ _ _) | with_reducible apply Lasts.ite | split | (intro _ _) | with_reducible apply Lasts.free | (with_reducible apply Lasts.upd <;> first | with_reducible rfl | with_reducible exact fun w => w | with_reducible exact fun _ w => w | with_reducible exact Nat.le_refl _ | skip)
  all_goals first | rfl | exact fun w => w | exact fun _ w => w | exact fun _ => rfl | exact fun _ _ => rfl | exact Nat.le_succ _ | exact fun w => Memory.foldl_wf 15 _ _ _ w | skip

theorem execPullInEnd_lasts (driver : Nat) {s t_ : State} (e_ : execPullInEnd driver s = .next t_) : Lasts true s t_ := by
  refine LastsEnds.elim ?_ e_
  clear e_
  unfold execPullInEnd
  try dsimp only
  repeat' first | with_reducible exact Lasts.refl _ _ | with_reducible assumption | with_reducible apply LastsEnds.next | with_reducible apply LastsEnds.ite | with_reducible apply updDrv_lasts | with_reducible apply leavePeak_lasts | with_reducible apply Lasts.foldl | (intro _ _ _) | with_reducible apply Lasts.ite | split | (intro _ _) | with_reducible apply Lasts.free | (with_reducible apply Lasts.upd <;> first | with_reducible rfl | with_reducible exact fun w => w | with_reducible exact fun _ w => w | with_reducible exact Nat.le_refl _ | skip)
  all_goals first | rfl | exact fun w => w | exact fun _ w => w | exact fun _ => rfl | exact fun _ _ => rfl | exact Nat.le_succ _ | exact fun w => Memory.foldl_wf 15 _ _ _ w | skip

theorem execMirrorConfirmed_lasts (driver : Nat) (readsOn : Bool) {s t_ : State} (e_ : execMirrorConfirmed driver readsOn s = .next t_) : Lasts true s t_ := by
  refine LastsEnds.elim ?_ e_
  clear e_
  unfold execMirrorConfirmed
  try dsimp only
  repeat' first | with_reducible exact Lasts.refl _ _ | with_reducible assumption | with_reducible apply LastsEnds.next | with_reducible apply LastsEnds.ite | with_reducible apply updDrv_lasts | with_reducible apply givePermits_lasts | with_reducible apply seqTo_lasts | with_reducible apply pairOpened_lasts | with_reducible apply joinConfirmed_lasts | with_reducible apply releaseConfirmed_lasts | with_reducible apply weldDone_lasts | with_reducible apply Lasts.foldl | (intro _ _ _) | with_reducible apply Lasts.ite | split | (intro _ _) | with_reducible apply Lasts.free | (with_reducible apply Lasts.upd <;> first | with_reducible rfl | with_reducible exact fun w => w | with_reducible exact fun _ w => w | with_reducible exact Nat.le_refl _ | skip)
  all_goals first | rfl | exact fun w => w | exact fun _ w => w | exact fun _ => rfl | exact fun _ _ => rfl | exact Nat.le_succ _ | exact fun w => Memory.foldl_wf 15 _ _ _ w | skip

theorem execFeedbackTimeout_lasts (driver cycle : Nat) {s t_ : State} (e_ : execFeedbackTimeout driver cycle s = .next t_) : Lasts true s t_ := by
  refine LastsEnds.elim ?_ e_
  clear e_
  unfold execFeedbackTimeout
  try dsimp only
  repeat' first | with_reducible exact Lasts.refl _ _ | with_reducible assumption | with_reducible apply LastsEnds.next | with_reducible apply LastsEnds.ite | with_reducible apply feedbackReport_lasts | with_reducible apply updDrv_lasts | with_reducible apply event_lasts | with_reducible apply seqTo_lasts | with_reducible apply lockOutlet_lasts | with_reducible apply matrixWelded_lasts | with_reducible apply driverOff_lasts | with_reducible apply failSequence_lasts | with_reducible apply endAfterStop_lasts | with_reducible apply endJob_lasts | with_reducible apply Lasts.foldl | (intro _ _ _) | with_reducible apply Lasts.ite | split | (intro _ _) | with_reducible apply Lasts.free | (with_reducible apply Lasts.upd <;> first | with_reducible rfl | with_reducible exact fun w => w | with_reducible exact fun _ w => w | with_reducible exact Nat.le_refl _ | skip)
  all_goals first | rfl | exact fun w => w | exact fun _ w => w | exact fun _ => rfl | exact fun _ _ => rfl | exact Nat.le_succ _ | exact fun w => Memory.foldl_wf 15 _ _ _ w | skip

theorem execDriverFault_lasts (driver cause cycle : Nat) {s t_ : State} (e_ : execDriverFault driver cause cycle s = .next t_) : Lasts true s t_ := by
  refine LastsEnds.elim ?_ e_
  clear e_
  unfold execDriverFault
  try dsimp only
  repeat' first | with_reducible exact Lasts.refl _ _ | with_reducible assumption | with_reducible apply LastsEnds.next | with_reducible apply LastsEnds.ite | with_reducible apply feedbackReport_lasts | with_reducible apply updDrv_lasts | with_reducible apply driverOff_lasts | with_reducible apply demandStop_lasts | with_reducible apply Lasts.foldl | (intro _ _ _) | with_reducible apply Lasts.ite | split | (intro _ _) | with_reducible apply Lasts.free | (with_reducible apply Lasts.upd <;> first | with_reducible rfl | with_reducible exact fun w => w | with_reducible exact fun _ w => w | with_reducible exact Nat.le_refl _ | skip)
  all_goals first | rfl | exact fun w => w | exact fun _ w => w | exact fun _ => rfl | exact fun _ _ => rfl | exact Nat.le_succ _ | exact fun w => Memory.foldl_wf 15 _ _ _ w | skip

theorem execDriverOffTimer_lasts (driver : Nat) {s t_ : State} (e_ : execDriverOffTimer driver s = .next t_) : Lasts true s t_ := by
  refine LastsEnds.elim ?_ e_
  clear e_
  unfold execDriverOffTimer
  try dsimp only
  repeat' first | with_reducible exact Lasts.refl _ _ | with_reducible assumption | with_reducible apply LastsEnds.next | with_reducible apply LastsEnds.ite | with_reducible apply driverOff_lasts | with_reducible apply Lasts.foldl | (intro _ _ _) | with_reducible apply Lasts.ite | split | (intro _ _) | with_reducible apply Lasts.free | (with_reducible apply Lasts.upd <;> first | with_reducible rfl | with_reducible exact fun w => w | with_reducible exact fun _ w => w | with_reducible exact Nat.le_refl _ | skip)
  all_goals first | rfl | exact fun w => w | exact fun _ w => w | exact fun _ => rfl | exact fun _ _ => rfl | exact Nat.le_succ _ | exact fun w => Memory.foldl_wf 15 _ _ _ w | skip

theorem execShortTestEnd_lasts (outlet : Nat) {s t_ : State} (e_ : execShortTestEnd outlet s = .next t_) : Lasts true s t_ := by
  refine LastsEnds.elim ?_ e_
  clear e_
  unfold execShortTestEnd
  try dsimp only
  repeat' first | with_reducible exact Lasts.refl _ _ | with_reducible assumption | with_reducible apply LastsEnds.next | with_reducible apply LastsEnds.ite | with_reducible apply updSq_lasts | with_reducible apply seqTo_lasts | with_reducible apply failSequence_lasts | with_reducible apply endAfterStop_lasts | with_reducible apply Lasts.foldl | (intro _ _ _) | with_reducible apply Lasts.ite | split | (intro _ _) | with_reducible apply Lasts.free | (with_reducible apply Lasts.upd <;> first | with_reducible rfl | with_reducible exact fun w => w | with_reducible exact fun _ w => w | with_reducible exact Nat.le_refl _ | skip)
  all_goals first | rfl | exact fun w => w | exact fun _ w => w | exact fun _ => rfl | exact fun _ _ => rfl | exact Nat.le_succ _ | exact fun w => Memory.foldl_wf 15 _ _ _ w | skip

theorem execCcTimeout_lasts (outlet : Nat) {s t_ : State} (e_ : execCcTimeout outlet s = .next t_) : Lasts true s t_ := by
  refine LastsEnds.elim ?_ e_
  clear e_
  unfold execCcTimeout
  try dsimp only
  repeat' first | with_reducible exact Lasts.refl _ _ | with_reducible assumption | with_reducible apply LastsEnds.next | with_reducible apply LastsEnds.ite | with_reducible apply failSequence_lasts | with_reducible apply endAfterStop_lasts | with_reducible apply Lasts.foldl | (intro _ _ _) | with_reducible apply Lasts.ite | split | (intro _ _) | with_reducible apply Lasts.free | (with_reducible apply Lasts.upd <;> first | with_reducible rfl | with_reducible exact fun w => w | with_reducible exact fun _ w => w | with_reducible exact Nat.le_refl _ | skip)
  all_goals first | rfl | exact fun w => w | exact fun _ w => w | exact fun _ => rfl | exact fun _ _ => rfl | exact Nat.le_succ _ | exact fun w => Memory.foldl_wf 15 _ _ _ w | skip

theorem execContactorNotConducting_lasts (outlet : Nat) {s t_ : State} (e_ : execContactorNotConducting outlet s = .next t_) : Lasts true s t_ := by
  refine LastsEnds.elim ?_ e_
  clear e_
  unfold execContactorNotConducting
  try dsimp only
  repeat' first | with_reducible exact Lasts.refl _ _ | with_reducible assumption | with_reducible apply LastsEnds.next | with_reducible apply LastsEnds.ite | with_reducible apply demandStop_lasts | with_reducible apply Lasts.foldl | (intro _ _ _) | with_reducible apply Lasts.ite | split | (intro _ _) | with_reducible apply Lasts.free | (with_reducible apply Lasts.upd <;> first | with_reducible rfl | with_reducible exact fun w => w | with_reducible exact fun _ w => w | with_reducible exact Nat.le_refl _ | skip)
  all_goals first | rfl | exact fun w => w | exact fun _ w => w | exact fun _ => rfl | exact fun _ _ => rfl | exact Nat.le_succ _ | exact fun w => Memory.foldl_wf 15 _ _ _ w | skip

theorem execRampLate_lasts (outlet : Nat) {s t_ : State} (e_ : execRampLate outlet s = .next t_) : Lasts true s t_ := by
  refine LastsEnds.elim ?_ e_
  clear e_
  unfold execRampLate
  try dsimp only
  repeat' first | with_reducible exact Lasts.refl _ _ | with_reducible assumption | with_reducible apply LastsEnds.next | with_reducible apply LastsEnds.ite | with_reducible apply updSq_lasts | with_reducible apply Lasts.foldl | (intro _ _ _) | with_reducible apply Lasts.ite | split | (intro _ _) | with_reducible apply Lasts.free | (with_reducible apply Lasts.upd <;> first | with_reducible rfl | with_reducible exact fun w => w | with_reducible exact fun _ w => w | with_reducible exact Nat.le_refl _ | skip)
  all_goals first | rfl | exact fun w => w | exact fun _ w => w | exact fun _ => rfl | exact fun _ _ => rfl | exact Nat.le_succ _ | exact fun w => Memory.foldl_wf 15 _ _ _ w | skip

theorem execRampForced_lasts (outlet : Nat) {s t_ : State} (e_ : execRampForced outlet s = .next t_) : Lasts true s t_ := by
  refine LastsEnds.elim ?_ e_
  clear e_
  unfold execRampForced
  try dsimp only
  repeat' first | with_reducible exact Lasts.refl _ _ | with_reducible assumption | with_reducible apply LastsEnds.next | with_reducible apply LastsEnds.ite | with_reducible apply modulesOff_lasts | with_reducible apply releasePermits_lasts | with_reducible apply armHwOff_lasts | with_reducible apply dropJobs_lasts | with_reducible apply updSq_lasts | with_reducible apply seqTo_lasts | with_reducible apply safeStopEvent_lasts | with_reducible apply Lasts.foldl | (intro _ _ _) | with_reducible apply Lasts.ite | split | (intro _ _) | with_reducible apply Lasts.free | (with_reducible apply Lasts.upd <;> first | with_reducible rfl | with_reducible exact fun w => w | with_reducible exact fun _ w => w | with_reducible exact Nat.le_refl _ | skip)
  all_goals first | rfl | exact fun w => w | exact fun _ w => w | exact fun _ => rfl | exact fun _ _ => rfl | exact Nat.le_succ _ | exact fun w => Memory.foldl_wf 15 _ _ _ w | skip

theorem execFastOvercurrent_lasts (outlet : Nat) (v1 v2 : Int) {s t_ : State} (e_ : execFastOvercurrent outlet v1 v2 s = .next t_) : Lasts true s t_ := by
  refine LastsEnds.elim ?_ e_
  clear e_
  unfold execFastOvercurrent
  try dsimp only
  repeat' first | with_reducible exact Lasts.refl _ _ | with_reducible assumption | with_reducible apply LastsEnds.next | with_reducible apply LastsEnds.ite | with_reducible apply fastStop_lasts | with_reducible apply Lasts.foldl | (intro _ _ _) | with_reducible apply Lasts.ite | split | (intro _ _) | with_reducible apply Lasts.free | (with_reducible apply Lasts.upd <;> first | with_reducible rfl | with_reducible exact fun w => w | with_reducible exact fun _ w => w | with_reducible exact Nat.le_refl _ | skip)
  all_goals first | rfl | exact fun w => w | exact fun _ w => w | exact fun _ => rfl | exact fun _ _ => rfl | exact Nat.le_succ _ | exact fun w => Memory.foldl_wf 15 _ _ _ w | skip

theorem execWeldVoltageTestEnd_lasts (outlet : Nat) {s t_ : State} (e_ : execWeldVoltageTestEnd outlet s = .next t_) : Lasts true s t_ := by
  refine LastsEnds.elim ?_ e_
  clear e_
  unfold execWeldVoltageTestEnd
  try dsimp only
  repeat' first | with_reducible exact Lasts.refl _ _ | with_reducible assumption | with_reducible apply LastsEnds.next | with_reducible apply LastsEnds.ite | with_reducible apply updSq_lasts | with_reducible apply modulesOff_lasts | with_reducible apply feedbackReport_lasts | with_reducible apply updDrv_lasts | with_reducible apply lockOutlet_lasts | with_reducible apply event_lasts | with_reducible apply weldDone_lasts | with_reducible apply Lasts.foldl | (intro _ _ _) | with_reducible apply Lasts.ite | split | (intro _ _) | with_reducible apply Lasts.free | (with_reducible apply Lasts.upd <;> first | with_reducible rfl | with_reducible exact fun w => w | with_reducible exact fun _ w => w | with_reducible exact Nat.le_refl _ | skip)
  all_goals first | rfl | exact fun w => w | exact fun _ w => w | exact fun _ => rfl | exact fun _ _ => rfl | exact Nat.le_succ _ | exact fun w => Memory.foldl_wf 15 _ _ _ w | skip

theorem execBusJoin_lasts (h : Hdr) (p : List Byte) {s t_ : State} (e_ : execBusJoin h p s = .next t_) : Lasts true s t_ := by
  refine LastsEnds.elim ?_ e_
  clear e_
  unfold execBusJoin
  try dsimp only
  repeat' first | with_reducible exact Lasts.refl _ _ | with_reducible assumption | with_reducible apply LastsEnds.next | with_reducible apply LastsEnds.ite | with_reducible apply hostCommand_lasts | with_reducible apply busJoinCmd_lasts | with_reducible apply Lasts.foldl | (intro _ _ _) | with_reducible apply Lasts.ite | split | (intro _ _) | with_reducible apply Lasts.free | (with_reducible apply Lasts.upd <;> first | with_reducible rfl | with_reducible exact fun w => w | with_reducible exact fun _ w => w | with_reducible exact Nat.le_refl _ | skip)
  all_goals first | rfl | exact fun w => w | exact fun _ w => w | exact fun _ => rfl | exact fun _ _ => rfl | exact Nat.le_succ _ | exact fun w => Memory.foldl_wf 15 _ _ _ w | skip

theorem execSegmentVoltageMatched_lasts (segment : Nat) {s t_ : State} (e_ : execSegmentVoltageMatched segment s = .next t_) : Lasts true s t_ := by
  refine LastsEnds.elim ?_ e_
  clear e_
  unfold execSegmentVoltageMatched
  try dsimp only
  repeat' first | with_reducible exact Lasts.refl _ _ | with_reducible assumption | with_reducible apply LastsEnds.next | with_reducible apply LastsEnds.ite | with_reducible apply requestPullIn_lasts | with_reducible apply Lasts.foldl | (intro _ _ _) | with_reducible apply Lasts.ite | split | (intro _ _) | with_reducible apply Lasts.free | (with_reducible apply Lasts.upd <;> first | with_reducible rfl | with_reducible exact fun w => w | with_reducible exact fun _ w => w | with_reducible exact Nat.le_refl _ | skip)
  all_goals first | rfl | exact fun w => w | exact fun _ w => w | exact fun _ => rfl | exact fun _ _ => rfl | exact Nat.le_succ _ | exact fun w => Memory.foldl_wf 15 _ _ _ w | skip

theorem execBusRelease_lasts (h : Hdr) (p : List Byte) {s t_ : State} (e_ : execBusRelease h p s = .next t_) : Lasts true s t_ := by
  refine LastsEnds.elim ?_ e_
  clear e_
  unfold execBusRelease
  try dsimp only
  repeat' first | with_reducible exact Lasts.refl _ _ | with_reducible assumption | with_reducible apply LastsEnds.next | with_reducible apply LastsEnds.ite | with_reducible apply hostCommand_lasts | with_reducible apply busReleaseCmd_lasts | with_reducible apply Lasts.foldl | (intro _ _ _) | with_reducible apply Lasts.ite | split | (intro _ _) | with_reducible apply Lasts.free | (with_reducible apply Lasts.upd <;> first | with_reducible rfl | with_reducible exact fun w => w | with_reducible exact fun _ w => w | with_reducible exact Nat.le_refl _ | skip)
  all_goals first | rfl | exact fun w => w | exact fun _ w => w | exact fun _ => rfl | exact fun _ _ => rfl | exact Nat.le_succ _ | exact fun w => Memory.foldl_wf 15 _ _ _ w | skip

theorem execPmTargetTransmit_lasts (bus : Nat) {s t_ : State} (e_ : execPmTargetTransmit bus s = .next t_) : Lasts true s t_ := by
  refine LastsEnds.elim ?_ e_
  clear e_
  unfold execPmTargetTransmit
  try dsimp only
  repeat' first | with_reducible exact Lasts.refl _ _ | with_reducible assumption | with_reducible apply LastsEnds.next | with_reducible apply LastsEnds.ite | with_reducible apply Lasts.foldl | (intro _ _ _) | with_reducible apply Lasts.ite | split | (intro _ _) | with_reducible apply Lasts.free | (with_reducible apply Lasts.upd <;> first | with_reducible rfl | with_reducible exact fun w => w | with_reducible exact fun _ w => w | with_reducible exact Nat.le_refl _ | skip)
  all_goals first | rfl | exact fun w => w | exact fun _ w => w | exact fun _ => rfl | exact fun _ _ => rfl | exact Nat.le_succ _ | exact fun w => Memory.foldl_wf 15 _ _ _ w | skip

theorem execPmStatusFrame_lasts (module : Nat) (payload : List Byte) {s t_ : State} (e_ : execPmStatusFrame module payload s = .next t_) : Lasts true s t_ := by
  refine LastsEnds.elim ?_ e_
  clear e_
  unfold execPmStatusFrame
  try dsimp only
  repeat' first | with_reducible exact Lasts.refl _ _ | with_reducible assumption | with_reducible apply LastsEnds.next | with_reducible apply LastsEnds.ite | with_reducible apply updPm_lasts | with_reducible apply moduleGone_lasts | with_reducible apply Lasts.foldl | (intro _ _ _) | with_reducible apply Lasts.ite | split | (intro _ _) | with_reducible apply Lasts.free | (with_reducible apply Lasts.upd <;> first | with_reducible rfl | with_reducible exact fun w => w | with_reducible exact fun _ w => w | with_reducible exact Nat.le_refl _ | skip)
  all_goals first | rfl | exact fun w => w | exact fun _ w => w | exact fun _ => rfl | exact fun _ _ => rfl | exact Nat.le_succ _ | exact fun w => Memory.foldl_wf 15 _ _ _ w | skip

theorem execPmFaultFrame_lasts (module : Nat) (payload : List Byte) {s t_ : State} (e_ : execPmFaultFrame module payload s = .next t_) : Lasts true s t_ := by
  refine LastsEnds.elim ?_ e_
  clear e_
  unfold execPmFaultFrame
  try dsimp only
  repeat' first | with_reducible exact Lasts.refl _ _ | with_reducible assumption | with_reducible apply LastsEnds.next | with_reducible apply LastsEnds.ite | with_reducible apply moduleGone_lasts | with_reducible apply updPm_lasts | with_reducible apply Lasts.foldl | (intro _ _ _) | with_reducible apply Lasts.ite | split | (intro _ _) | with_reducible apply Lasts.free | (with_reducible apply Lasts.upd <;> first | with_reducible rfl | with_reducible exact fun w => w | with_reducible exact fun _ w => w | with_reducible exact Nat.le_refl _ | skip)
  all_goals first | rfl | exact fun w => w | exact fun _ w => w | exact fun _ => rfl | exact fun _ _ => rfl | exact Nat.le_succ _ | exact fun w => Memory.foldl_wf 15 _ _ _ w | skip

theorem execPmLost_lasts (module : Nat) {s t_ : State} (e_ : execPmLost module s = .next t_) : Lasts true s t_ := by
  refine LastsEnds.elim ?_ e_
  clear e_
  unfold execPmLost
  try dsimp only
  repeat' first | with_reducible exact Lasts.refl _ _ | with_reducible assumption | with_reducible apply LastsEnds.next | with_reducible apply LastsEnds.ite | with_reducible apply updPm_lasts | with_reducible apply moduleGone_lasts | with_reducible apply event_lasts | with_reducible apply Lasts.foldl | (intro _ _ _) | with_reducible apply Lasts.ite | split | (intro _ _) | with_reducible apply Lasts.free | (with_reducible apply Lasts.upd <;> first | with_reducible rfl | with_reducible exact fun w => w | with_reducible exact fun _ w => w | with_reducible exact Nat.le_refl _ | skip)
  all_goals first | rfl | exact fun w => w | exact fun _ w => w | exact fun _ => rfl | exact fun _ _ => rfl | exact Nat.le_succ _ | exact fun w => Memory.foldl_wf 15 _ _ _ w | skip

theorem execSafetyInputDemand_lasts (input : Nat) (aRead bRead : Bool) {s t_ : State} (e_ : execSafetyInputDemand input aRead bRead s = .next t_) : Lasts true s t_ := by
  refine LastsEnds.elim ?_ e_
  clear e_
  unfold execSafetyInputDemand
  try dsimp only
  repeat' first | with_reducible exact Lasts.refl _ _ | with_reducible assumption | with_reducible apply LastsEnds.next | with_reducible apply LastsEnds.ite | with_reducible apply updIn_lasts | with_reducible apply enterDemand_lasts | with_reducible apply Lasts.foldl | (intro _ _ _) | with_reducible apply Lasts.ite | split | (intro _ _) | with_reducible apply Lasts.free | (with_reducible apply Lasts.upd <;> first | with_reducible rfl | with_reducible exact fun w => w | with_reducible exact fun _ w => w | with_reducible exact Nat.le_refl _ | skip)
  all_goals first | rfl | exact fun w => w | exact fun _ w => w | exact fun _ => rfl | exact fun _ _ => rfl | exact Nat.le_succ _ | exact fun w => Memory.foldl_wf 15 _ _ _ w | skip

theorem execSafetyDemandEnd_lasts (input : Nat) (aRead bRead : Bool) {s t_ : State} (e_ : execSafetyDemandEnd input aRead bRead s = .next t_) : Lasts true s t_ := by
  refine LastsEnds.elim ?_ e_
  clear e_
  unfold execSafetyDemandEnd
  try dsimp only
  repeat' first | with_reducible exact Lasts.refl _ _ | with_reducible assumption | with_reducible apply LastsEnds.next | with_reducible apply LastsEnds.ite | with_reducible apply updIn_lasts | with_reducible apply demandEnded_lasts | with_reducible apply Lasts.foldl | (intro _ _ _) | with_reducible apply Lasts.ite | split | (intro _ _) | with_reducible apply Lasts.free | (with_reducible apply Lasts.upd <;> first | with_reducible rfl | with_reducible exact fun w => w | with_reducible exact fun _ w => w | with_reducible exact Nat.le_refl _ | skip)
  all_goals first | rfl | exact fun w => w | exact fun _ w => w | exact fun _ => rfl | exact fun _ _ => rfl | exact Nat.le_succ _ | exact fun w => Memory.foldl_wf 15 _ _ _ w | skip

theorem execDiscrepancyTimeout_lasts (input : Nat) {s t_ : State} (e_ : execDiscrepancyTimeout input s = .next t_) : Lasts true s t_ := by
  refine LastsEnds.elim ?_ e_
  clear e_
  unfold execDiscrepancyTimeout
  try dsimp only
  repeat' first | with_reducible exact Lasts.refl _ _ | with_reducible assumption | with_reducible apply LastsEnds.next | with_reducible apply LastsEnds.ite | with_reducible apply inputFaulty_lasts | with_reducible apply Lasts.foldl | (intro _ _ _) | with_reducible apply Lasts.ite | split | (intro _ _) | with_reducible apply Lasts.free | (with_reducible apply Lasts.upd <;> first | with_reducible rfl | with_reducible exact fun w => w | with_reducible exact fun _ w => w | with_reducible exact Nat.le_refl _ | skip)
  all_goals first | rfl | exact fun w => w | exact fun _ w => w | exact fun _ => rfl | exact fun _ _ => rfl | exact Nat.le_succ _ | exact fun w => Memory.foldl_wf 15 _ _ _ w | skip

theorem execInputTestPulse_lasts (k : Nat) (readsOff : List (Nat × Bool × Bool)) {s t_ : State} (e_ : execInputTestPulse k readsOff s = .next t_) : Lasts true s t_ := by
  refine LastsEnds.elim ?_ e_
  clear e_
  unfold execInputTestPulse
  try dsimp only
  repeat' first | with_reducible exact Lasts.refl _ _ | with_reducible assumption | with_reducible apply LastsEnds.next | with_reducible apply LastsEnds.ite | with_reducible apply inputFaulty_lasts | with_reducible apply Lasts.foldl | (intro _ _ _) | with_reducible apply Lasts.ite | split | (intro _ _) | with_reducible apply Lasts.free | (with_reducible apply Lasts.upd <;> first | with_reducible rfl | with_reducible exact fun w => w | with_reducible exact fun _ w => w | with_reducible exact Nat.le_refl _ | skip)
  all_goals first | rfl | exact fun w => w | exact fun _ w => w | exact fun _ => rfl | exact fun _ _ => rfl | exact Nat.le_succ _ | exact fun w => Memory.foldl_wf 15 _ _ _ w | skip

theorem execDriverTestPulse_lasts (driver : Nat) (padOk : Bool) (cycle : Nat) {s t_ : State} (e_ : execDriverTestPulse driver padOk cycle s = .next t_) : Lasts true s t_ := by
  refine LastsEnds.elim ?_ e_
  clear e_
  unfold execDriverTestPulse
  try dsimp only
  repeat' first | with_reducible exact Lasts.refl _ _ | with_reducible assumption | with_reducible apply LastsEnds.next | with_reducible apply LastsEnds.ite | with_reducible apply updDrv_lasts | with_reducible apply feedbackReport_lasts | with_reducible apply fastStop_lasts | with_reducible apply driverOff_lasts | with_reducible apply Lasts.foldl | (intro _ _ _) | with_reducible apply Lasts.ite | split | (intro _ _) | with_reducible apply Lasts.free | (with_reducible apply Lasts.upd <;> first | with_reducible rfl | with_reducible exact fun w => w | with_reducible exact fun _ w => w | with_reducible exact Nat.le_refl _ | skip)
  all_goals first | rfl | exact fun w => w | exact fun _ w => w | exact fun _ => rfl | exact fun _ _ => rfl | exact Nat.le_succ _ | exact fun w => Memory.foldl_wf 15 _ _ _ w | skip

theorem execSafetyReset_lasts (h : Hdr) (p : List Byte) {s t_ : State} (e_ : execSafetyReset h p s = .next t_) : Lasts true s t_ := by
  refine LastsEnds.elim ?_ e_
  clear e_
  unfold execSafetyReset
  try dsimp only
  repeat' first | with_reducible exact Lasts.refl _ _ | with_reducible assumption | with_reducible apply LastsEnds.next | with_reducible apply LastsEnds.ite | with_reducible apply hostCommand_lasts | with_reducible apply safetyResetCmd_lasts | with_reducible apply Lasts.foldl | (intro _ _ _) | with_reducible apply Lasts.ite | split | (intro _ _) | with_reducible apply Lasts.free | (with_reducible apply Lasts.upd <;> first | with_reducible rfl | with_reducible exact fun w => w | with_reducible exact fun _ w => w | with_reducible exact Nat.le_refl _ | skip)
  all_goals first | rfl | exact fun w => w | exact fun _ w => w | exact fun _ => rfl | exact fun _ _ => rfl | exact Nat.le_succ _ | exact fun w => Memory.foldl_wf 15 _ _ _ w | skip

theorem execStartupTest_lasts (h : Hdr) (p : List Byte) {s t_ : State} (e_ : execStartupTest h p s = .next t_) : Lasts true s t_ := by
  refine LastsEnds.elim ?_ e_
  clear e_
  unfold execStartupTest
  try dsimp only
  repeat' first | with_reducible exact Lasts.refl _ _ | with_reducible assumption | with_reducible apply LastsEnds.next | with_reducible apply LastsEnds.ite | with_reducible apply hostCommand_lasts | with_reducible apply startupTestCmd_lasts | with_reducible apply Lasts.foldl | (intro _ _ _) | with_reducible apply Lasts.ite | split | (intro _ _) | with_reducible apply Lasts.free | (with_reducible apply Lasts.upd <;> first | with_reducible rfl | with_reducible exact fun w => w | with_reducible exact fun _ w => w | with_reducible exact Nat.le_refl _ | skip)
  all_goals first | rfl | exact fun w => w | exact fun _ w => w | exact fun _ => rfl | exact fun _ _ => rfl | exact Nat.le_succ _ | exact fun w => Memory.foldl_wf 15 _ _ _ w | skip

theorem execStartupTestTimeout_lasts  {s t_ : State} (e_ : execStartupTestTimeout s = .next t_) : Lasts true s t_ := by
  refine LastsEnds.elim ?_ e_
  clear e_
  unfold execStartupTestTimeout
  try dsimp only
  repeat' first | with_reducible exact Lasts.refl _ _ | with_reducible assumption | with_reducible apply LastsEnds.next | with_reducible apply LastsEnds.ite | with_reducible apply testDone_lasts | with_reducible apply Lasts.foldl | (intro _ _ _) | with_reducible apply Lasts.ite | split | (intro _ _) | with_reducible apply Lasts.free | (with_reducible apply Lasts.upd <;> first | with_reducible rfl | with_reducible exact fun w => w | with_reducible exact fun _ w => w | with_reducible exact Nat.le_refl _ | skip)
  all_goals first | rfl | exact fun w => w | exact fun _ w => w | exact fun _ => rfl | exact fun _ _ => rfl | exact Nat.le_succ _ | exact fun w => Memory.foldl_wf 15 _ _ _ w | skip

theorem execWeldClear_lasts (h : Hdr) (p : List Byte) {s t_ : State} (e_ : execWeldClear h p s = .next t_) : Lasts true s t_ := by
  refine LastsEnds.elim ?_ e_
  clear e_
  unfold execWeldClear
  try dsimp only
  repeat' first | with_reducible exact Lasts.refl _ _ | with_reducible assumption | with_reducible apply LastsEnds.next | with_reducible apply LastsEnds.ite | with_reducible apply hostCommand_lasts | with_reducible apply weldClearCmd_lasts | with_reducible apply Lasts.foldl | (intro _ _ _) | with_reducible apply Lasts.ite | split | (intro _ _) | with_reducible apply Lasts.free | (with_reducible apply Lasts.upd <;> first | with_reducible rfl | with_reducible exact fun w => w | with_reducible exact fun _ w => w | with_reducible exact Nat.le_refl _ | skip)
  all_goals first | rfl | exact fun w => w | exact fun _ w => w | exact fun _ => rfl | exact fun _ _ => rfl | exact Nat.le_succ _ | exact fun w => Memory.foldl_wf 15 _ _ _ w | skip

theorem execAuxContactor_lasts (h : Hdr) (p : List Byte) {s t_ : State} (e_ : execAuxContactor h p s = .next t_) : Lasts true s t_ := by
  refine LastsEnds.elim ?_ e_
  clear e_
  unfold execAuxContactor
  try dsimp only
  repeat' first | with_reducible exact Lasts.refl _ _ | with_reducible assumption | with_reducible apply LastsEnds.next | with_reducible apply LastsEnds.ite | with_reducible apply hostCommand_lasts | with_reducible apply auxCmd_lasts | with_reducible apply Lasts.foldl | (intro _ _ _) | with_reducible apply Lasts.ite | split | (intro _ _) | with_reducible apply Lasts.free | (with_reducible apply Lasts.upd <;> first | with_reducible rfl | with_reducible exact fun w => w | with_reducible exact fun _ w => w | with_reducible exact Nat.le_refl _ | skip)
  all_goals first | rfl | exact fun w => w | exact fun _ w => w | exact fun _ => rfl | exact fun _ _ => rfl | exact Nat.le_succ _ | exact fun w => Memory.foldl_wf 15 _ _ _ w | skip

theorem execToneWindowEnd_lasts (outlet : Nat) {s t_ : State} (e_ : execToneWindowEnd outlet s = .next t_) : Lasts true s t_ := by
  refine LastsEnds.elim ?_ e_
  clear e_
  unfold execToneWindowEnd
  try dsimp only
  repeat' first | with_reducible exact Lasts.refl _ _ | with_reducible assumption | with_reducible apply LastsEnds.next | with_reducible apply LastsEnds.ite | with_reducible apply toneWindow_lasts | with_reducible apply updTone_lasts | with_reducible apply Lasts.foldl | (intro _ _ _) | with_reducible apply Lasts.ite | split | (intro _ _) | with_reducible apply Lasts.free | (with_reducible apply Lasts.upd <;> first | with_reducible rfl | with_reducible exact fun w => w | with_reducible exact fun _ w => w | with_reducible exact Nat.le_refl _ | skip)
  all_goals first | rfl | exact fun w => w | exact fun _ w => w | exact fun _ => rfl | exact fun _ _ => rfl | exact Nat.le_succ _ | exact fun w => Memory.foldl_wf 15 _ _ _ w | skip

theorem execToneUnavailable_lasts (outlet : Nat) {s t_ : State} (e_ : execToneUnavailable outlet s = .next t_) : Lasts true s t_ := by
  refine LastsEnds.elim ?_ e_
  clear e_
  unfold execToneUnavailable
  try dsimp only
  repeat' first | with_reducible exact Lasts.refl _ _ | with_reducible assumption | with_reducible apply LastsEnds.next | with_reducible apply LastsEnds.ite | with_reducible apply setWarn_lasts | with_reducible apply Lasts.foldl | (intro _ _ _) | with_reducible apply Lasts.ite | split | (intro _ _) | with_reducible apply Lasts.free | (with_reducible apply Lasts.upd <;> first | with_reducible rfl | with_reducible exact fun w => w | with_reducible exact fun _ w => w | with_reducible exact Nat.le_refl _ | skip)
  all_goals first | rfl | exact fun w => w | exact fun _ w => w | exact fun _ => rfl | exact fun _ _ => rfl | exact Nat.le_succ _ | exact fun w => Memory.foldl_wf 15 _ _ _ w | skip

theorem execPulseEnd_lasts (k : Nat) {s t_ : State} (e_ : execPulseEnd k s = .next t_) : Lasts true s t_ := by
  refine LastsEnds.elim ?_ e_
  clear e_
  unfold execPulseEnd
  try dsimp only
  repeat' first | with_reducible exact Lasts.refl _ _ | with_reducible assumption | with_reducible apply LastsEnds.next | with_reducible apply LastsEnds.ite | with_reducible apply updPls_lasts | with_reducible apply Lasts.foldl | (intro _ _ _) | with_reducible apply Lasts.ite | split | (intro _ _) | with_reducible apply Lasts.free | (with_reducible apply Lasts.upd <;> first | with_reducible rfl | with_reducible exact fun w => w | with_reducible exact fun _ w => w | with_reducible exact Nat.le_refl _ | skip)
  all_goals first | rfl | exact fun w => w | exact fun _ w => w | exact fun _ => rfl | exact fun _ _ => rfl | exact Nat.le_succ _ | exact fun w => Memory.foldl_wf 15 _ _ _ w | skip

theorem execStandingEnergy_lasts (outlet : Nat) {s t_ : State} (e_ : execStandingEnergy outlet s = .next t_) : Lasts true s t_ := by
  refine LastsEnds.elim ?_ e_
  clear e_
  unfold execStandingEnergy
  try dsimp only
  repeat' first | with_reducible exact Lasts.refl _ _ | with_reducible assumption | with_reducible apply LastsEnds.next | with_reducible apply LastsEnds.ite | with_reducible apply updEng_lasts | with_reducible apply setWarn_lasts | with_reducible apply event_lasts | with_reducible apply Lasts.foldl | (intro _ _ _) | with_reducible apply Lasts.ite | split | (intro _ _) | with_reducible apply Lasts.free | (with_reducible apply Lasts.upd <;> first | with_reducible rfl | with_reducible exact fun w => w | with_reducible exact fun _ w => w | with_reducible exact Nat.le_refl _ | skip)
  all_goals first | rfl | exact fun w => w | exact fun _ w => w | exact fun _ => rfl | exact fun _ _ => rfl | exact Nat.le_succ _ | exact fun w => Memory.foldl_wf 15 _ _ _ w | skip

theorem execMeterWarnClear_lasts (h : Hdr) (p : List Byte) {s t_ : State} (e_ : execMeterWarnClear h p s = .next t_) : Lasts true s t_ := by
  refine LastsEnds.elim ?_ e_
  clear e_
  unfold execMeterWarnClear
  try dsimp only
  repeat' first | with_reducible exact Lasts.refl _ _ | with_reducible assumption | with_reducible apply LastsEnds.next | with_reducible apply LastsEnds.ite | with_reducible apply hostCommand_lasts | with_reducible apply meterWarnClearCmd_lasts | with_reducible apply Lasts.foldl | (intro _ _ _) | with_reducible apply Lasts.ite | split | (intro _ _) | with_reducible apply Lasts.free | (with_reducible apply Lasts.upd <;> first | with_reducible rfl | with_reducible exact fun w => w | with_reducible exact fun _ w => w | with_reducible exact Nat.le_refl _ | skip)
  all_goals first | rfl | exact fun w => w | exact fun _ w => w | exact fun _ => rfl | exact fun _ _ => rfl | exact Nat.le_succ _ | exact fun w => Memory.foldl_wf 15 _ _ _ w | skip

theorem execTimeSet_lasts (h : Hdr) (p : List Byte) {s t_ : State} (e_ : execTimeSet h p s = .next t_) : Lasts true s t_ := by
  refine LastsEnds.elim ?_ e_
  clear e_
  unfold execTimeSet
  try dsimp only
  repeat' first | with_reducible exact Lasts.refl _ _ | with_reducible assumption | with_reducible apply LastsEnds.next | with_reducible apply LastsEnds.ite | with_reducible apply hostCommand_lasts | with_reducible apply timeSetCmd_lasts | with_reducible apply Lasts.foldl | (intro _ _ _) | with_reducible apply Lasts.ite | split | (intro _ _) | with_reducible apply Lasts.free | (with_reducible apply Lasts.upd <;> first | with_reducible rfl | with_reducible exact fun w => w | with_reducible exact fun _ w => w | with_reducible exact Nat.le_refl _ | skip)
  all_goals first | rfl | exact fun w => w | exact fun _ w => w | exact fun _ => rfl | exact fun _ _ => rfl | exact Nat.le_succ _ | exact fun w => Memory.foldl_wf 15 _ _ _ w | skip

theorem execTariffBoundary_lasts  {s t_ : State} (e_ : execTariffBoundary s = .next t_) : Lasts true s t_ := by
  refine LastsEnds.elim ?_ e_
  clear e_
  unfold execTariffBoundary
  try dsimp only
  repeat' first | with_reducible exact Lasts.refl _ _ | with_reducible assumption | with_reducible apply LastsEnds.next | with_reducible apply LastsEnds.ite | with_reducible apply boundaryNow_lasts | with_reducible apply Lasts.foldl | (intro _ _ _) | with_reducible apply Lasts.ite | split | (intro _ _) | with_reducible apply Lasts.free | (with_reducible apply Lasts.upd <;> first | with_reducible rfl | with_reducible exact fun w => w | with_reducible exact fun _ w => w | with_reducible exact Nat.le_refl _ | skip)
  all_goals first | rfl | exact fun w => w | exact fun _ w => w | exact fun _ => rfl | exact fun _ _ => rfl | exact Nat.le_succ _ | exact fun w => Memory.foldl_wf 15 _ _ _ w | skip

theorem execCalendarEntryExpiry_lasts (entry : Nat) {s t_ : State} (e_ : execCalendarEntryExpiry entry s = .next t_) : Lasts true s t_ := by
  refine LastsEnds.elim ?_ e_
  clear e_
  unfold execCalendarEntryExpiry
  try dsimp only
  repeat' first | with_reducible exact Lasts.refl _ _ | with_reducible assumption | with_reducible apply LastsEnds.next | with_reducible apply LastsEnds.ite | with_reducible apply Lasts.foldl | (intro _ _ _) | with_reducible apply Lasts.ite | split | (intro _ _) | with_reducible apply Lasts.free | (with_reducible apply Lasts.upd <;> first | with_reducible rfl | with_reducible exact fun w => w | with_reducible exact fun _ w => w | with_reducible exact Nat.le_refl _ | skip)
  all_goals first | rfl | exact fun w => w | exact fun _ w => w | exact fun _ => rfl | exact fun _ _ => rfl | exact Nat.le_succ _ | exact fun w => Memory.foldl_wf 15 _ _ _ w | skip

theorem execTariffAnnounce_lasts (h : Hdr) (p : List Byte) {s t_ : State} (e_ : execTariffAnnounce h p s = .next t_) : Lasts true s t_ := by
  refine LastsEnds.elim ?_ e_
  clear e_
  unfold execTariffAnnounce
  try dsimp only
  repeat' first | with_reducible exact Lasts.refl _ _ | with_reducible assumption | with_reducible apply LastsEnds.next | with_reducible apply LastsEnds.ite | with_reducible apply hostCommand_lasts | with_reducible apply tariffAnnounceCmd_lasts | with_reducible apply Lasts.foldl | (intro _ _ _) | with_reducible apply Lasts.ite | split | (intro _ _) | with_reducible apply Lasts.free | (with_reducible apply Lasts.upd <;> first | with_reducible rfl | with_reducible exact fun w => w | with_reducible exact fun _ w => w | with_reducible exact Nat.le_refl _ | skip)
  all_goals first | rfl | exact fun w => w | exact fun _ w => w | exact fun _ => rfl | exact fun _ _ => rfl | exact Nat.le_succ _ | exact fun w => Memory.foldl_wf 15 _ _ _ w | skip

theorem execDemandWindowEnd_lasts  {s t_ : State} (e_ : execDemandWindowEnd s = .next t_) : Lasts true s t_ := by
  refine LastsEnds.elim ?_ e_
  clear e_
  unfold execDemandWindowEnd
  try dsimp only
  repeat' first | with_reducible exact Lasts.refl _ _ | with_reducible assumption | with_reducible apply LastsEnds.next | with_reducible apply LastsEnds.ite | with_reducible apply boundaryNow_lasts | with_reducible apply Lasts.foldl | (intro _ _ _) | with_reducible apply Lasts.ite | split | (intro _ _) | with_reducible apply Lasts.free | (with_reducible apply Lasts.upd <;> first | with_reducible rfl | with_reducible exact fun w => w | with_reducible exact fun _ w => w | with_reducible exact Nat.le_refl _ | skip)
  all_goals first | rfl | exact fun w => w | exact fun _ w => w | exact fun _ => rfl | exact fun _ _ => rfl | exact Nat.le_succ _ | exact fun w => Memory.foldl_wf 15 _ _ _ w | skip

theorem execDemandEvaluation_lasts  {s t_ : State} (e_ : execDemandEvaluation s = .next t_) : Lasts true s t_ := by
  refine LastsEnds.elim ?_ e_
  clear e_
  unfold execDemandEvaluation
  try dsimp only
  repeat' first | with_reducible exact Lasts.refl _ _ | with_reducible assumption | with_reducible apply LastsEnds.next | with_reducible apply LastsEnds.ite | with_reducible apply commits_lasts | with_reducible apply Lasts.foldl | (intro _ _ _) | with_reducible apply Lasts.ite | split | (intro _ _) | with_reducible apply Lasts.free | (with_reducible apply Lasts.upd <;> first | with_reducible rfl | with_reducible exact fun w => w | with_reducible exact fun _ w => w | with_reducible exact Nat.le_refl _ | skip)
  all_goals first | rfl | exact fun w => w | exact fun _ w => w | exact fun _ => rfl | exact fun _ _ => rfl | exact Nat.le_succ _ | exact fun w => Memory.foldl_wf 15 _ _ _ w | skip

theorem execDemandReset_lasts (h : Hdr) (p : List Byte) {s t_ : State} (e_ : execDemandReset h p s = .next t_) : Lasts true s t_ := by
  refine LastsEnds.elim ?_ e_
  clear e_
  unfold execDemandReset
  try dsimp only
  repeat' first | with_reducible exact Lasts.refl _ _ | with_reducible assumption | with_reducible apply LastsEnds.next | with_reducible apply LastsEnds.ite | with_reducible apply hostCommand_lasts | with_reducible apply demandResetCmd_lasts | with_reducible apply Lasts.foldl | (intro _ _ _) | with_reducible apply Lasts.ite | split | (intro _ _) | with_reducible apply Lasts.free | (with_reducible apply Lasts.upd <;> first | with_reducible rfl | with_reducible exact fun w => w | with_reducible exact fun _ w => w | with_reducible exact Nat.le_refl _ | skip)
  all_goals first | rfl | exact fun w => w | exact fun _ w => w | exact fun _ => rfl | exact fun _ _ => rfl | exact Nat.le_succ _ | exact fun w => Memory.foldl_wf 15 _ _ _ w | skip

theorem execDemandResetApply_lasts  {s t_ : State} (e_ : execDemandResetApply s = .next t_) : Lasts true s t_ := by
  refine LastsEnds.elim ?_ e_
  clear e_
  unfold execDemandResetApply
  try dsimp only
  repeat' first | with_reducible exact Lasts.refl _ _ | with_reducible assumption | with_reducible apply LastsEnds.next | with_reducible apply LastsEnds.ite | with_reducible apply boundaryNow_lasts | with_reducible apply Lasts.foldl | (intro _ _ _) | with_reducible apply Lasts.ite | split | (intro _ _) | with_reducible apply Lasts.free | (with_reducible apply Lasts.upd <;> first | with_reducible rfl | with_reducible exact fun w => w | with_reducible exact fun _ w => w | with_reducible exact Nat.le_refl _ | skip)
  all_goals first | rfl | exact fun w => w | exact fun _ w => w | exact fun _ => rfl | exact fun _ _ => rfl | exact Nat.le_succ _ | exact fun w => Memory.foldl_wf 15 _ _ _ w | skip

theorem execClockStep_lasts  {s t_ : State} (e_ : execClockStep s = .next t_) : Lasts true s t_ := by
  refine LastsEnds.elim ?_ e_
  clear e_
  unfold execClockStep
  try dsimp only
  repeat' first | with_reducible exact Lasts.refl _ _ | with_reducible assumption | with_reducible apply LastsEnds.next | with_reducible apply LastsEnds.ite | with_reducible apply boundaryNow_lasts | with_reducible apply Lasts.foldl | (intro _ _ _) | with_reducible apply Lasts.ite | split | (intro _ _) | with_reducible apply Lasts.free | (with_reducible apply Lasts.upd <;> first | with_reducible rfl | with_reducible exact fun w => w | with_reducible exact fun _ w => w | with_reducible exact Nat.le_refl _ | skip)
  all_goals first | rfl | exact fun w => w | exact fun _ w => w | exact fun _ => rfl | exact fun _ _ => rfl | exact Nat.le_succ _ | exact fun w => Memory.foldl_wf 15 _ _ _ w | skip

theorem execTimeSetApply_lasts  {s t_ : State} (e_ : execTimeSetApply s = .next t_) : Lasts true s t_ := by
  refine LastsEnds.elim ?_ e_
  clear e_
  unfold execTimeSetApply
  try dsimp only
  repeat' first | with_reducible exact Lasts.refl _ _ | with_reducible assumption | with_reducible apply LastsEnds.next | with_reducible apply LastsEnds.ite | with_reducible apply sign_lasts | with_reducible apply timeAdjusted_lasts | with_reducible apply Lasts.foldl | (intro _ _ _) | with_reducible apply Lasts.ite | split | (intro _ _) | with_reducible apply Lasts.free | (with_reducible apply Lasts.upd <;> first | with_reducible rfl | with_reducible exact fun w => w | with_reducible exact fun _ w => w | with_reducible exact Nat.le_refl _ | skip)
  all_goals first | rfl | exact fun w => w | exact fun _ w => w | exact fun _ => rfl | exact fun _ _ => rfl | exact Nat.le_succ _ | exact fun w => Memory.foldl_wf 15 _ _ _ w | skip

theorem execLogRecordStore_lasts  {s t_ : State} (e_ : execLogRecordStore s = .next t_) : Lasts true s t_ := by
  refine LastsEnds.elim ?_ e_
  clear e_
  unfold execLogRecordStore
  try dsimp only
  repeat' first | with_reducible exact Lasts.refl _ _ | with_reducible assumption | with_reducible apply LastsEnds.next | with_reducible apply LastsEnds.ite | with_reducible apply storeRecord_lasts | with_reducible apply signGap_lasts | with_reducible apply Lasts.foldl | (intro _ _ _) | with_reducible apply Lasts.ite | split | (intro _ _) | with_reducible apply Lasts.free | (with_reducible apply Lasts.upd <;> first | with_reducible rfl | with_reducible exact fun w => w | with_reducible exact fun _ w => w | with_reducible exact Nat.le_refl _ | skip)
  all_goals first | rfl | exact fun w => w | exact fun _ w => w | exact fun _ => rfl | exact fun _ _ => rfl | exact Nat.le_succ _ | exact fun w => Memory.foldl_wf 15 _ _ _ w | skip

theorem execLogRead_lasts (h : Hdr) (p : List Byte) {s t_ : State} (e_ : execLogRead h p s = .next t_) : Lasts true s t_ := by
  refine LastsEnds.elim ?_ e_
  clear e_
  unfold execLogRead
  try dsimp only
  repeat' first | with_reducible exact Lasts.refl _ _ | with_reducible assumption | with_reducible apply LastsEnds.next | with_reducible apply LastsEnds.ite | with_reducible apply hostCommand_lasts | with_reducible apply logReadCmd_lasts | with_reducible apply Lasts.foldl | (intro _ _ _) | with_reducible apply Lasts.ite | split | (intro _ _) | with_reducible apply Lasts.free | (with_reducible apply Lasts.upd <;> first | with_reducible rfl | with_reducible exact fun w => w | with_reducible exact fun _ w => w | with_reducible exact Nat.le_refl _ | skip)
  all_goals first | rfl | exact fun w => w | exact fun _ w => w | exact fun _ => rfl | exact fun _ _ => rfl | exact Nat.le_succ _ | exact fun w => Memory.foldl_wf 15 _ _ _ w | skip

theorem execLogAck_lasts (h : Hdr) (p : List Byte) {s t_ : State} (e_ : execLogAck h p s = .next t_) : Lasts true s t_ := by
  refine LastsEnds.elim ?_ e_
  clear e_
  unfold execLogAck
  try dsimp only
  repeat' first | with_reducible exact Lasts.refl _ _ | with_reducible assumption | with_reducible apply LastsEnds.next | with_reducible apply LastsEnds.ite | with_reducible apply hostCommand_lasts | with_reducible apply logAckCmd_lasts | with_reducible apply Lasts.foldl | (intro _ _ _) | with_reducible apply Lasts.ite | split | (intro _ _) | with_reducible apply Lasts.free | (with_reducible apply Lasts.upd <;> first | with_reducible rfl | with_reducible exact fun w => w | with_reducible exact fun _ w => w | with_reducible exact Nat.le_refl _ | skip)
  all_goals first | rfl | exact fun w => w | exact fun _ w => w | exact fun _ => rfl | exact fun _ _ => rfl | exact Nat.le_succ _ | exact fun w => Memory.foldl_wf 15 _ _ _ w | skip

theorem execSealOpening_lasts  {s t_ : State} (e_ : execSealOpening s = .next t_) : Lasts true s t_ := by
  refine LastsEnds.elim ?_ e_
  clear e_
  unfold execSealOpening
  try dsimp only
  repeat' first | with_reducible exact Lasts.refl _ _ | with_reducible assumption | with_reducible apply LastsEnds.next | with_reducible apply LastsEnds.ite | with_reducible apply openSeal_lasts | with_reducible apply Lasts.foldl | (intro _ _ _) | with_reducible apply Lasts.ite | split | (intro _ _) | with_reducible apply Lasts.free | (with_reducible apply Lasts.upd <;> first | with_reducible rfl | with_reducible exact fun w => w | with_reducible exact fun _ w => w | with_reducible exact Nat.le_refl _ | skip)
  all_goals first | rfl | exact fun w => w | exact fun _ w => w | exact fun _ => rfl | exact fun _ _ => rfl | exact Nat.le_succ _ | exact fun w => Memory.foldl_wf 15 _ _ _ w | skip

theorem execDebugAccessAttempt_lasts  {s t_ : State} (e_ : execDebugAccessAttempt s = .next t_) : Lasts true s t_ := by
  refine LastsEnds.elim ?_ e_
  clear e_
  unfold execDebugAccessAttempt
  try dsimp only
  repeat' first | with_reducible exact Lasts.refl _ _ | with_reducible assumption | with_reducible apply LastsEnds.next | with_reducible apply LastsEnds.ite | with_reducible apply debugAttempt_lasts | with_reducible apply Lasts.foldl | (intro _ _ _) | with_reducible apply Lasts.ite | split | (intro _ _) | with_reducible apply Lasts.free | (with_reducible apply Lasts.upd <;> first | with_reducible rfl | with_reducible exact fun w => w | with_reducible exact fun _ w => w | with_reducible exact Nat.le_refl _ | skip)
  all_goals first | rfl | exact fun w => w | exact fun _ w => w | exact fun _ => rfl | exact fun _ _ => rfl | exact Nat.le_succ _ | exact fun w => Memory.foldl_wf 15 _ _ _ w | skip

theorem execReseal_lasts (h : Hdr) (p : List Byte) {s t_ : State} (e_ : execReseal h p s = .next t_) : Lasts false s t_ := by
  refine LastsEnds.elim ?_ e_
  clear e_
  unfold execReseal
  try dsimp only
  repeat' first | with_reducible exact Lasts.refl _ _ | with_reducible assumption | with_reducible apply LastsEnds.next | with_reducible apply LastsEnds.ite | with_reducible apply hostCommand_lasts | with_reducible apply resealCmd_lasts | with_reducible apply Lasts.foldl | (intro _ _ _) | with_reducible apply Lasts.ite | split | (intro _ _) | with_reducible apply Lasts.free | (with_reducible apply Lasts.upd <;> first | with_reducible rfl | with_reducible exact fun w => w | with_reducible exact fun _ w => w | with_reducible exact Nat.le_refl _ | skip)
  all_goals first | rfl | exact fun w => w | exact fun _ w => w | exact fun _ => rfl | exact fun _ _ => rfl | exact Nat.le_succ _ | exact fun w => Memory.foldl_wf 15 _ _ _ w | skip

theorem execModInputStuck_lasts (outlet input : Nat) {s t_ : State} (e_ : execModInputStuck outlet input s = .next t_) : Lasts true s t_ := by
  refine LastsEnds.elim ?_ e_
  clear e_
  unfold execModInputStuck
  try dsimp only
  repeat' first | with_reducible exact Lasts.refl _ _ | with_reducible assumption | with_reducible apply LastsEnds.next | with_reducible apply LastsEnds.ite | with_reducible apply invalidate_lasts | with_reducible apply Lasts.foldl | (intro _ _ _) | with_reducible apply Lasts.ite | split | (intro _ _) | with_reducible apply Lasts.free | (with_reducible apply Lasts.upd <;> first | with_reducible rfl | with_reducible exact fun w => w | with_reducible exact fun _ w => w | with_reducible exact Nat.le_refl _ | skip)
  all_goals first | rfl | exact fun w => w | exact fun _ w => w | exact fun _ => rfl | exact fun _ _ => rfl | exact Nat.le_succ _ | exact fun w => Memory.foldl_wf 15 _ _ _ w | skip

theorem execMclkReadbackFault_lasts (outlet : Nat) {s t_ : State} (e_ : execMclkReadbackFault outlet s = .next t_) : Lasts true s t_ := by
  refine LastsEnds.elim ?_ e_
  clear e_
  unfold execMclkReadbackFault
  try dsimp only
  repeat' first | with_reducible exact Lasts.refl _ _ | with_reducible assumption | with_reducible apply LastsEnds.next | with_reducible apply LastsEnds.ite | with_reducible apply invalidate_lasts | with_reducible apply Lasts.foldl | (intro _ _ _) | with_reducible apply Lasts.ite | split | (intro _ _) | with_reducible apply Lasts.free | (with_reducible apply Lasts.upd <;> first | with_reducible rfl | with_reducible exact fun w => w | with_reducible exact fun _ w => w | with_reducible exact Nat.le_refl _ | skip)
  all_goals first | rfl | exact fun w => w | exact fun _ w => w | exact fun _ => rfl | exact fun _ _ => rfl | exact Nat.le_succ _ | exact fun w => Memory.foldl_wf 15 _ _ _ w | skip

theorem execModInputValid_lasts (outlet input : Nat) {s t_ : State} (e_ : execModInputValid outlet input s = .next t_) : Lasts true s t_ := by
  refine LastsEnds.elim ?_ e_
  clear e_
  unfold execModInputValid
  try dsimp only
  repeat' first | with_reducible exact Lasts.refl _ _ | with_reducible assumption | with_reducible apply LastsEnds.next | with_reducible apply LastsEnds.ite | with_reducible apply event_lasts | with_reducible apply updIn'_lasts | with_reducible apply Lasts.foldl | (intro _ _ _) | with_reducible apply Lasts.ite | split | (intro _ _) | with_reducible apply Lasts.free | (with_reducible apply Lasts.upd <;> first | with_reducible rfl | with_reducible exact fun w => w | with_reducible exact fun _ w => w | with_reducible exact Nat.le_refl _ | skip)
  all_goals first | rfl | exact fun w => w | exact fun _ w => w | exact fun _ => rfl | exact fun _ _ => rfl | exact Nat.le_succ _ | exact fun w => Memory.foldl_wf 15 _ _ _ w | skip

theorem execModPllLoss_lasts (cycle : Nat) {s t_ : State} (e_ : execModPllLoss cycle s = .next t_) : Lasts true s t_ := by
  refine LastsEnds.elim ?_ e_
  clear e_
  unfold execModPllLoss
  try dsimp only
  repeat' first | with_reducible exact Lasts.refl _ _ | with_reducible assumption | with_reducible apply LastsEnds.next | with_reducible apply LastsEnds.ite | with_reducible apply modPllLost_lasts | with_reducible apply Lasts.foldl | (intro _ _ _) | with_reducible apply Lasts.ite | split | (intro _ _) | with_reducible apply Lasts.free | (with_reducible apply Lasts.upd <;> first | with_reducible rfl | with_reducible exact fun w => w | with_reducible exact fun _ w => w | with_reducible exact Nat.le_refl _ | skip)
  all_goals first | rfl | exact fun w => w | exact fun _ w => w | exact fun _ => rfl | exact fun _ _ => rfl | exact Nat.le_succ _ | exact fun w => Memory.foldl_wf 15 _ _ _ w | skip

theorem execStepDetected_lasts (outlet input place : Nat) {s t_ : State} (e_ : execStepDetected outlet input place s = .next t_) : Lasts true s t_ := by
  refine LastsEnds.elim ?_ e_
  clear e_
  unfold execStepDetected
  try dsimp only
  repeat' first | with_reducible exact Lasts.refl _ _ | with_reducible assumption | with_reducible apply LastsEnds.next | with_reducible apply LastsEnds.ite | with_reducible apply updIn'_lasts | with_reducible apply Lasts.foldl | (intro _ _ _) | with_reducible apply Lasts.ite | split | (intro _ _) | with_reducible apply Lasts.free | (with_reducible apply Lasts.upd <;> first | with_reducible rfl | with_reducible exact fun w => w | with_reducible exact fun _ w => w | with_reducible exact Nat.le_refl _ | skip)
  all_goals first | rfl | exact fun w => w | exact fun _ w => w | exact fun _ => rfl | exact fun _ _ => rfl | exact Nat.le_succ _ | exact fun w => Memory.foldl_wf 15 _ _ _ w | skip

theorem execSync_lasts (h : Hdr) (p : List Byte) {s t_ : State} (e_ : execSync h p s = .next t_) : Lasts true s t_ := by
  refine LastsEnds.elim ?_ e_
  clear e_
  unfold execSync
  try dsimp only
  repeat' first | with_reducible exact Lasts.refl _ _ | with_reducible assumption | with_reducible apply LastsEnds.next | with_reducible apply LastsEnds.ite | with_reducible apply hostCommand_lasts | with_reducible apply syncCmd_lasts | with_reducible apply Lasts.foldl | (intro _ _ _) | with_reducible apply Lasts.ite | split | (intro _ _) | with_reducible apply Lasts.free | (with_reducible apply Lasts.upd <;> first | with_reducible rfl | with_reducible exact fun w => w | with_reducible exact fun _ w => w | with_reducible exact Nat.le_refl _ | skip)
  all_goals first | rfl | exact fun w => w | exact fun _ w => w | exact fun _ => rfl | exact fun _ _ => rfl | exact Nat.le_succ _ | exact fun w => Memory.foldl_wf 15 _ _ _ w | skip

theorem execSyncScheduled_lasts  {s t_ : State} (e_ : execSyncScheduled s = .next t_) : Lasts true s t_ := by
  refine LastsEnds.elim ?_ e_
  clear e_
  unfold execSyncScheduled
  try dsimp only
  repeat' first | with_reducible exact Lasts.refl _ _ | with_reducible assumption | with_reducible apply LastsEnds.next | with_reducible apply LastsEnds.ite | with_reducible apply syncDone_lasts | with_reducible apply decimatorReset_lasts | with_reducible apply Lasts.foldl | (intro _ _ _) | with_reducible apply Lasts.ite | split | (intro _ _) | with_reducible apply Lasts.free | (with_reducible apply Lasts.upd <;> first | with_reducible rfl | with_reducible exact fun w => w | with_reducible exact fun _ w => w | with_reducible exact Nat.le_refl _ | skip)
  all_goals first | rfl | exact fun w => w | exact fun _ w => w | exact fun _ => rfl | exact fun _ _ => rfl | exact Nat.le_succ _ | exact fun w => Memory.foldl_wf 15 _ _ _ w | skip

theorem execMsyncEdge_lasts  {s t_ : State} (e_ : execMsyncEdge s = .next t_) : Lasts true s t_ := by
  refine LastsEnds.elim ?_ e_
  clear e_
  unfold execMsyncEdge
  try dsimp only
  repeat' first | with_reducible exact Lasts.refl _ _ | with_reducible assumption | with_reducible apply LastsEnds.next | with_reducible apply LastsEnds.ite | with_reducible apply event_lasts | with_reducible apply Lasts.foldl | (intro _ _ _) | with_reducible apply Lasts.ite | split | (intro _ _) | with_reducible apply Lasts.free | (with_reducible apply Lasts.upd <;> first | with_reducible rfl | with_reducible exact fun w => w | with_reducible exact fun _ w => w | with_reducible exact Nat.le_refl _ | skip)
  all_goals first | rfl | exact fun w => w | exact fun _ w => w | exact fun _ => rfl | exact fun _ _ => rfl | exact Nat.le_succ _ | exact fun w => Memory.foldl_wf 15 _ _ _ w | skip

theorem execDecimatorReset_lasts  {s t_ : State} (e_ : execDecimatorReset s = .next t_) : Lasts true s t_ := by
  refine LastsEnds.elim ?_ e_
  clear e_
  unfold execDecimatorReset
  try dsimp only
  repeat' first | with_reducible exact Lasts.refl _ _ | with_reducible assumption | with_reducible apply LastsEnds.next | with_reducible apply LastsEnds.ite | with_reducible apply syncDone_lasts | with_reducible apply decimatorReset_lasts | with_reducible apply Lasts.foldl | (intro _ _ _) | with_reducible apply Lasts.ite | split | (intro _ _) | with_reducible apply Lasts.free | (with_reducible apply Lasts.upd <;> first | with_reducible rfl | with_reducible exact fun w => w | with_reducible exact fun _ w => w | with_reducible exact Nat.le_refl _ | skip)
  all_goals first | rfl | exact fun w => w | exact fun _ w => w | exact fun _ => rfl | exact fun _ _ => rfl | exact Nat.le_succ _ | exact fun w => Memory.foldl_wf 15 _ _ _ w | skip

theorem execCoefLoad_lasts (h : Hdr) (p : List Byte) {s t_ : State} (e_ : execCoefLoad h p s = .next t_) : Lasts true s t_ := by
  refine LastsEnds.elim ?_ e_
  clear e_
  unfold execCoefLoad
  try dsimp only
  repeat' first | with_reducible exact Lasts.refl _ _ | with_reducible assumption | with_reducible apply LastsEnds.next | with_reducible apply LastsEnds.ite | with_reducible apply hostCommand_lasts | with_reducible apply coefLoadCmd_lasts | with_reducible apply Lasts.foldl | (intro _ _ _) | with_reducible apply Lasts.ite | split | (intro _ _) | with_reducible apply Lasts.free | (with_reducible apply Lasts.upd <;> first | with_reducible rfl | with_reducible exact fun w => w | with_reducible exact fun _ w => w | with_reducible exact Nat.le_refl _ | skip)
  all_goals first | rfl | exact fun w => w | exact fun _ w => w | exact fun _ => rfl | exact fun _ _ => rfl | exact Nat.le_succ _ | exact fun w => Memory.foldl_wf 15 _ _ _ w | skip

theorem execPathSelect_lasts (h : Hdr) (p : List Byte) {s t_ : State} (e_ : execPathSelect h p s = .next t_) : Lasts true s t_ := by
  refine LastsEnds.elim ?_ e_
  clear e_
  unfold execPathSelect
  try dsimp only
  repeat' first | with_reducible exact Lasts.refl _ _ | with_reducible assumption | with_reducible apply LastsEnds.next | with_reducible apply LastsEnds.ite | with_reducible apply hostCommand_lasts | with_reducible apply pathSelectCmd_lasts | with_reducible apply Lasts.foldl | (intro _ _ _) | with_reducible apply Lasts.ite | split | (intro _ _) | with_reducible apply Lasts.free | (with_reducible apply Lasts.upd <;> first | with_reducible rfl | with_reducible exact fun w => w | with_reducible exact fun _ w => w | with_reducible exact Nat.le_refl _ | skip)
  all_goals first | rfl | exact fun w => w | exact fun _ w => w | exact fun _ => rfl | exact fun _ _ => rfl | exact Nat.le_succ _ | exact fun w => Memory.foldl_wf 15 _ _ _ w | skip

theorem execFadeDone_lasts (outlet path input : Nat) {s t_ : State} (e_ : execFadeDone outlet path input s = .next t_) : Lasts true s t_ := by
  refine LastsEnds.elim ?_ e_
  clear e_
  unfold execFadeDone
  try dsimp only
  repeat' first | with_reducible exact Lasts.refl _ _ | with_reducible assumption | with_reducible apply LastsEnds.next | with_reducible apply LastsEnds.ite | with_reducible apply emit_lasts | with_reducible apply Lasts.foldl | (intro _ _ _) | with_reducible apply Lasts.ite | split | (intro _ _) | with_reducible apply Lasts.free | (with_reducible apply Lasts.upd <;> first | with_reducible rfl | with_reducible exact fun w => w | with_reducible exact fun _ w => w | with_reducible exact Nat.le_refl _ | skip)
  all_goals first | rfl | exact fun w => w | exact fun _ w => w | exact fun _ => rfl | exact fun _ _ => rfl | exact Nat.le_succ _ | exact fun w => Memory.foldl_wf 15 _ _ _ w | skip

theorem execCaptureStart_lasts (h : Hdr) (p : List Byte) {s t_ : State} (e_ : execCaptureStart h p s = .next t_) : Lasts true s t_ := by
  refine LastsEnds.elim ?_ e_
  clear e_
  unfold execCaptureStart
  try dsimp only
  repeat' first | with_reducible exact Lasts.refl _ _ | with_reducible assumption | with_reducible apply LastsEnds.next | with_reducible apply LastsEnds.ite | with_reducible apply hostCommand_lasts | with_reducible apply captureStartCmd_lasts | with_reducible apply Lasts.foldl | (intro _ _ _) | with_reducible apply Lasts.ite | split | (intro _ _) | with_reducible apply Lasts.free | (with_reducible apply Lasts.upd <;> first | with_reducible rfl | with_reducible exact fun w => w | with_reducible exact fun _ w => w | with_reducible exact Nat.le_refl _ | skip)
  all_goals first | rfl | exact fun w => w | exact fun _ w => w | exact fun _ => rfl | exact fun _ _ => rfl | exact Nat.le_succ _ | exact fun w => Memory.foldl_wf 15 _ _ _ w | skip

theorem execCaptureTrigger_lasts  {s t_ : State} (e_ : execCaptureTrigger s = .next t_) : Lasts true s t_ := by
  refine LastsEnds.elim ?_ e_
  clear e_
  unfold execCaptureTrigger
  try dsimp only
  repeat' first | with_reducible exact Lasts.refl _ _ | with_reducible assumption | with_reducible apply LastsEnds.next | with_reducible apply LastsEnds.ite | with_reducible apply captureFast_lasts | with_reducible apply Lasts.foldl | (intro _ _ _) | with_reducible apply Lasts.ite | split | (intro _ _) | with_reducible apply Lasts.free | (with_reducible apply Lasts.upd <;> first | with_reducible rfl | with_reducible exact fun w => w | with_reducible exact fun _ w => w | with_reducible exact Nat.le_refl _ | skip)
  all_goals first | rfl | exact fun w => w | exact fun _ w => w | exact fun _ => rfl | exact fun _ _ => rfl | exact Nat.le_succ _ | exact fun w => Memory.foldl_wf 15 _ _ _ w | skip

theorem execCaptureDone_lasts  {s t_ : State} (e_ : execCaptureDone s = .next t_) : Lasts true s t_ := by
  refine LastsEnds.elim ?_ e_
  clear e_
  unfold execCaptureDone
  try dsimp only
  repeat' first | with_reducible exact Lasts.refl _ _ | with_reducible assumption | with_reducible apply LastsEnds.next | with_reducible apply LastsEnds.ite | with_reducible apply captureEnd_lasts | with_reducible apply Lasts.foldl | (intro _ _ _) | with_reducible apply Lasts.ite | split | (intro _ _) | with_reducible apply Lasts.free | (with_reducible apply Lasts.upd <;> first | with_reducible rfl | with_reducible exact fun w => w | with_reducible exact fun _ w => w | with_reducible exact Nat.le_refl _ | skip)
  all_goals first | rfl | exact fun w => w | exact fun _ w => w | exact fun _ => rfl | exact fun _ _ => rfl | exact Nat.le_succ _ | exact fun w => Memory.foldl_wf 15 _ _ _ w | skip

theorem execPlumbStepBoundary_lasts  {s t_ : State} (e_ : execPlumbStepBoundary s = .next t_) : Lasts true s t_ := by
  refine LastsEnds.elim ?_ e_
  clear e_
  unfold execPlumbStepBoundary
  try dsimp only
  repeat' first | with_reducible exact Lasts.refl _ _ | with_reducible assumption | with_reducible apply LastsEnds.next | with_reducible apply LastsEnds.ite | with_reducible apply Lasts.foldl | (intro _ _ _) | with_reducible apply Lasts.ite | split | (intro _ _) | with_reducible apply Lasts.free | (with_reducible apply Lasts.upd <;> first | with_reducible rfl | with_reducible exact fun w => w | with_reducible exact fun _ w => w | with_reducible exact Nat.le_refl _ | skip)
  all_goals first | rfl | exact fun w => w | exact fun _ w => w | exact fun _ => rfl | exact fun _ _ => rfl | exact Nat.le_succ _ | exact fun w => Memory.foldl_wf 15 _ _ _ w | skip

theorem execPlumbPeriodEnd_lasts  {s t_ : State} (e_ : execPlumbPeriodEnd s = .next t_) : Lasts true s t_ := by
  refine LastsEnds.elim ?_ e_
  clear e_
  unfold execPlumbPeriodEnd
  try dsimp only
  repeat' first | with_reducible exact Lasts.refl _ _ | with_reducible assumption | with_reducible apply LastsEnds.next | with_reducible apply LastsEnds.ite | with_reducible apply judgePeriod_lasts | with_reducible apply updateCorr_lasts | with_reducible apply Lasts.foldl | (intro _ _ _) | with_reducible apply Lasts.ite | split | (intro _ _) | with_reducible apply Lasts.free | (with_reducible apply Lasts.upd <;> first | with_reducible rfl | with_reducible exact fun w => w | with_reducible exact fun _ w => w | with_reducible exact Nat.le_refl _ | skip)
  all_goals first | rfl | exact fun w => w | exact fun _ w => w | exact fun _ => rfl | exact fun _ _ => rfl | exact Nat.le_succ _ | exact fun w => Memory.foldl_wf 15 _ _ _ w | skip

theorem execPwmLeaveRetry_lasts (outlet : Nat) {s t_ : State} (e_ : execPwmLeaveRetry outlet s = .next t_) : Lasts true s t_ := by
  refine LastsEnds.elim ?_ e_
  clear e_
  unfold execPwmLeaveRetry
  try dsimp only
  repeat' first | with_reducible exact Lasts.refl _ _ | with_reducible assumption | with_reducible apply LastsEnds.next | with_reducible apply LastsEnds.ite | with_reducible apply connect_lasts | with_reducible apply updLk_lasts | with_reducible apply Lasts.foldl | (intro _ _ _) | with_reducible apply Lasts.ite | split | (intro _ _) | with_reducible apply Lasts.free | (with_reducible apply Lasts.upd <;> first | with_reducible rfl | with_reducible exact fun w => w | with_reducible exact fun _ w => w | with_reducible exact Nat.le_refl _ | skip)
  all_goals first | rfl | exact fun w => w | exact fun _ w => w | exact fun _ => rfl | exact fun _ _ => rfl | exact Nat.le_succ _ | exact fun w => Memory.foldl_wf 15 _ _ _ w | skip

theorem execPilotRestartEnd_lasts (outlet : Nat) {s t_ : State} (e_ : execPilotRestartEnd outlet s = .next t_) : Lasts true s t_ := by
  refine LastsEnds.elim ?_ e_
  clear e_
  unfold execPilotRestartEnd
  try dsimp only
  repeat' first | with_reducible exact Lasts.refl _ _ | with_reducible assumption | with_reducible apply LastsEnds.next | with_reducible apply LastsEnds.ite | with_reducible apply updLk_lasts | with_reducible apply Lasts.foldl | (intro _ _ _) | with_reducible apply Lasts.ite | split | (intro _ _) | with_reducible apply Lasts.free | (with_reducible apply Lasts.upd <;> first | with_reducible rfl | with_reducible exact fun w => w | with_reducible exact fun _ w => w | with_reducible exact Nat.le_refl _ | skip)
  all_goals first | rfl | exact fun w => w | exact fun _ w => w | exact fun _ => rfl | exact fun _ _ => rfl | exact Nat.le_succ _ | exact fun w => Memory.foldl_wf 15 _ _ _ w | skip

theorem execAssociationWindowEnd_lasts (outlet : Nat) {s t_ : State} (e_ : execAssociationWindowEnd outlet s = .next t_) : Lasts true s t_ := by
  refine LastsEnds.elim ?_ e_
  clear e_
  unfold execAssociationWindowEnd
  try dsimp only
  repeat' first | with_reducible exact Lasts.refl _ _ | with_reducible assumption | with_reducible apply LastsEnds.next | with_reducible apply LastsEnds.ite | with_reducible apply pilotRestart_lasts | with_reducible apply Lasts.foldl | (intro _ _ _) | with_reducible apply Lasts.ite | split | (intro _ _) | with_reducible apply Lasts.free | (with_reducible apply Lasts.upd <;> first | with_reducible rfl | with_reducible exact fun w => w | with_reducible exact fun _ w => w | with_reducible exact Nat.le_refl _ | skip)
  all_goals first | rfl | exact fun w => w | exact fun _ w => w | exact fun _ => rfl | exact fun _ _ => rfl | exact Nat.le_succ _ | exact fun w => Memory.foldl_wf 15 _ _ _ w | skip

theorem execPilotStateChange_lasts (pl : Plateau) {s t_ : State} (e_ : execPilotStateChange pl s = .next t_) : Lasts true s t_ := by
  refine LastsEnds.elim ?_ e_
  clear e_
  unfold execPilotStateChange
  try dsimp only
  repeat' first | with_reducible exact Lasts.refl _ _ | with_reducible assumption | with_reducible apply LastsEnds.next | with_reducible apply LastsEnds.ite | with_reducible apply updLk_lasts | with_reducible apply diodePeriod_lasts | with_reducible apply pilotFault_lasts | with_reducible apply negativePlateau_lasts | with_reducible apply positivePlateau_lasts | with_reducible apply Lasts.foldl | (intro _ _ _) | with_reducible apply Lasts.ite | split | (intro _ _) | with_reducible apply Lasts.free | (with_reducible apply Lasts.upd <;> first | with_reducible rfl | with_reducible exact fun w => w | with_reducible exact fun _ w => w | with_reducible exact Nat.le_refl _ | skip)
  all_goals first | rfl | exact fun w => w | exact fun _ w => w | exact fun _ => rfl | exact fun _ _ => rfl | exact Nat.le_succ _ | exact fun w => Memory.foldl_wf 15 _ _ _ w | skip

theorem execPpChange_lasts (outlet mv : Nat) {s t_ : State} (e_ : execPpChange outlet mv s = .next t_) : Lasts true s t_ := by
  refine LastsEnds.elim ?_ e_
  clear e_
  unfold execPpChange
  try dsimp only
  repeat' first | with_reducible exact Lasts.refl _ _ | with_reducible assumption | with_reducible apply LastsEnds.next | with_reducible apply LastsEnds.ite | with_reducible apply updLk_lasts | with_reducible apply stopLink_lasts | with_reducible apply dropLeave_lasts | with_reducible apply connect_lasts | with_reducible apply Lasts.foldl | (intro _ _ _) | with_reducible apply Lasts.ite | split | (intro _ _) | with_reducible apply Lasts.free | (with_reducible apply Lasts.upd <;> first | with_reducible rfl | with_reducible exact fun w => w | with_reducible exact fun _ w => w | with_reducible exact Nat.le_refl _ | skip)
  all_goals first | rfl | exact fun w => w | exact fun _ w => w | exact fun _ => rfl | exact fun _ _ => rfl | exact Nat.le_succ _ | exact fun w => Memory.foldl_wf 15 _ _ _ w | skip

theorem execCmSlacParmReq_lasts (mac run : Nat) (atten : List (Option Nat)) {s t_ : State} (e_ : execCmSlacParmReq mac run atten s = .next t_) : Lasts true s t_ := by
  refine LastsEnds.elim ?_ e_
  clear e_
  unfold execCmSlacParmReq
  try dsimp only
  repeat' first | with_reducible exact Lasts.refl _ _ | with_reducible assumption | with_reducible apply LastsEnds.next | with_reducible apply LastsEnds.ite | with_reducible apply tell_lasts | with_reducible apply updSet_lasts | with_reducible apply marginOr_lasts | with_reducible apply countAmbiguous_lasts | with_reducible apply ambiguous_lasts | with_reducible apply updLk_lasts | with_reducible apply Lasts.foldl | (intro _ _ _) | with_reducible apply Lasts.ite | split | (intro _ _) | with_reducible apply Lasts.free | (with_reducible apply Lasts.upd <;> first | with_reducible rfl | with_reducible exact fun w => w | with_reducible exact fun _ w => w | with_reducible exact Nat.le_refl _ | skip)
  all_goals first | rfl | exact fun w => w | exact fun _ w => w | exact fun _ => rfl | exact fun _ _ => rfl | exact Nat.le_succ _ | exact fun w => Memory.foldl_wf 15 _ _ _ w | skip

theorem execSoundingReceived_lasts (mac run : Nat) (atten : List (List Nat)) {s t_ : State} (e_ : execSoundingReceived mac run atten s = .next t_) : Lasts true s t_ := by
  refine LastsEnds.elim ?_ e_
  clear e_
  unfold execSoundingReceived
  try dsimp only
  repeat' first | with_reducible exact Lasts.refl _ _ | with_reducible assumption | with_reducible apply LastsEnds.next | with_reducible apply LastsEnds.ite | with_reducible apply updSet_lasts | with_reducible apply Lasts.foldl | (intro _ _ _) | with_reducible apply Lasts.ite | split | (intro _ _) | with_reducible apply Lasts.free | (with_reducible apply Lasts.upd <;> first | with_reducible rfl | with_reducible exact fun w => w | with_reducible exact fun _ w => w | with_reducible exact Nat.le_refl _ | skip)
  all_goals first | rfl | exact fun w => w | exact fun _ w => w | exact fun _ => rfl | exact fun _ _ => rfl | exact Nat.le_succ _ | exact fun w => Memory.foldl_wf 15 _ _ _ w | skip

theorem execAttenCollectionEnd_lasts (mac run : Nat) {s t_ : State} (e_ : execAttenCollectionEnd mac run s = .next t_) : Lasts true s t_ := by
  refine LastsEnds.elim ?_ e_
  clear e_
  unfold execAttenCollectionEnd
  try dsimp only
  repeat' first | with_reducible exact Lasts.refl _ _ | with_reducible assumption | with_reducible apply LastsEnds.next | with_reducible apply LastsEnds.ite | with_reducible apply countAmbiguous_lasts | with_reducible apply ambiguous_lasts | with_reducible apply endSet_lasts | with_reducible apply crosstalk_lasts | with_reducible apply tell_lasts | with_reducible apply updSet_lasts | with_reducible apply marginOr_lasts | with_reducible apply Lasts.foldl | (intro _ _ _) | with_reducible apply Lasts.ite | split | (intro _ _) | with_reducible apply Lasts.free | (with_reducible apply Lasts.upd <;> first | with_reducible rfl | with_reducible exact fun w => w | with_reducible exact fun _ w => w | with_reducible exact Nat.le_refl _ | skip)
  all_goals first | rfl | exact fun w => w | exact fun _ w => w | exact fun _ => rfl | exact fun _ _ => rfl | exact Nat.le_succ _ | exact fun w => Memory.foldl_wf 15 _ _ _ w | skip

theorem execCmSlacMatchReq_lasts (mac run : Nat) {s t_ : State} (e_ : execCmSlacMatchReq mac run s = .next t_) : Lasts true s t_ := by
  refine LastsEnds.elim ?_ e_
  clear e_
  unfold execCmSlacMatchReq
  try dsimp only
  repeat' first | with_reducible exact Lasts.refl _ _ | with_reducible assumption | with_reducible apply LastsEnds.next | with_reducible apply LastsEnds.ite | with_reducible apply tell_lasts | with_reducible apply updSet_lasts | with_reducible apply updLk_lasts | with_reducible apply State.drawFree_lasts | with_reducible apply Lasts.foldl | (intro _ _ _) | with_reducible apply Lasts.ite | split | (intro _ _) | with_reducible apply Lasts.free | (with_reducible apply Lasts.upd <;> first | with_reducible rfl | with_reducible exact fun w => w | with_reducible exact fun _ w => w | with_reducible exact Nat.le_refl _ | skip)
  all_goals first | rfl | exact fun w => w | exact fun _ w => w | exact fun _ => rfl | exact fun _ _ => rfl | exact Nat.le_succ _ | exact fun w => Memory.foldl_wf 15 _ _ _ w | skip

theorem execCmValidateReq_lasts (outlet mac : Nat) {s t_ : State} (e_ : execCmValidateReq outlet mac s = .next t_) : Lasts true s t_ := by
  refine LastsEnds.elim ?_ e_
  clear e_
  unfold execCmValidateReq
  try dsimp only
  repeat' first | with_reducible exact Lasts.refl _ _ | with_reducible assumption | with_reducible apply LastsEnds.next | with_reducible apply LastsEnds.ite | with_reducible apply tell_lasts | with_reducible apply Lasts.foldl | (intro _ _ _) | with_reducible apply Lasts.ite | split | (intro _ _) | with_reducible apply Lasts.free | (with_reducible apply Lasts.upd <;> first | with_reducible rfl | with_reducible exact fun w => w | with_reducible exact fun _ w => w | with_reducible exact Nat.le_refl _ | skip)
  all_goals first | rfl | exact fun w => w | exact fun _ w => w | exact fun _ => rfl | exact fun _ _ => rfl | exact Nat.le_succ _ | exact fun w => Memory.foldl_wf 15 _ _ _ w | skip

theorem execVehicleJoin_lasts (mac run : Nat) {s t_ : State} (e_ : execVehicleJoin mac run s = .next t_) : Lasts true s t_ := by
  refine LastsEnds.elim ?_ e_
  clear e_
  unfold execVehicleJoin
  try dsimp only
  repeat' first | with_reducible exact Lasts.refl _ _ | with_reducible assumption | with_reducible apply LastsEnds.next | with_reducible apply LastsEnds.ite | with_reducible apply event_lasts | with_reducible apply bindLink_lasts | with_reducible apply endSet_lasts | with_reducible apply Lasts.foldl | (intro _ _ _) | with_reducible apply Lasts.ite | split | (intro _ _) | with_reducible apply Lasts.free | (with_reducible apply Lasts.upd <;> first | with_reducible rfl | with_reducible exact fun w => w | with_reducible exact fun _ w => w | with_reducible exact Nat.le_refl _ | skip)
  all_goals first | rfl | exact fun w => w | exact fun _ w => w | exact fun _ => rfl | exact fun _ _ => rfl | exact Nat.le_succ _ | exact fun w => Memory.foldl_wf 15 _ _ _ w | skip

theorem execJoinTimeout_lasts (mac run : Nat) {s t_ : State} (e_ : execJoinTimeout mac run s = .next t_) : Lasts true s t_ := by
  refine LastsEnds.elim ?_ e_
  clear e_
  unfold execJoinTimeout
  try dsimp only
  repeat' first | with_reducible exact Lasts.refl _ _ | with_reducible assumption | with_reducible apply LastsEnds.next | with_reducible apply LastsEnds.ite | with_reducible apply updLk_lasts | with_reducible apply endSet_lasts | with_reducible apply ambiguous_lasts | with_reducible apply countAmbiguous_lasts | with_reducible apply pilotRestart_lasts | with_reducible apply Lasts.foldl | (intro _ _ _) | with_reducible apply Lasts.ite | split | (intro _ _) | with_reducible apply Lasts.free | (with_reducible apply Lasts.upd <;> first | with_reducible rfl | with_reducible exact fun w => w | with_reducible exact fun _ w => w | with_reducible exact Nat.le_refl _ | skip)
  all_goals first | rfl | exact fun w => w | exact fun _ w => w | exact fun _ => rfl | exact fun _ _ => rfl | exact Nat.le_succ _ | exact fun w => Memory.foldl_wf 15 _ _ _ w | skip

theorem execSoundingSetTimeout_lasts (mac run : Nat) {s t_ : State} (e_ : execSoundingSetTimeout mac run s = .next t_) : Lasts true s t_ := by
  refine LastsEnds.elim ?_ e_
  clear e_
  unfold execSoundingSetTimeout
  try dsimp only
  repeat' first | with_reducible exact Lasts.refl _ _ | with_reducible assumption | with_reducible apply LastsEnds.next | with_reducible apply LastsEnds.ite | with_reducible apply endSet_lasts | with_reducible apply Lasts.foldl | (intro _ _ _) | with_reducible apply Lasts.ite | split | (intro _ _) | with_reducible apply Lasts.free | (with_reducible apply Lasts.upd <;> first | with_reducible rfl | with_reducible exact fun w => w | with_reducible exact fun _ w => w | with_reducible exact Nat.le_refl _ | skip)
  all_goals first | rfl | exact fun w => w | exact fun _ w => w | exact fun _ => rfl | exact fun _ _ => rfl | exact Nat.le_succ _ | exact fun w => Memory.foldl_wf 15 _ _ _ w | skip

theorem execT1sLinkUp_lasts (outlet mac : Nat) {s t_ : State} (e_ : execT1sLinkUp outlet mac s = .next t_) : Lasts true s t_ := by
  refine LastsEnds.elim ?_ e_
  clear e_
  unfold execT1sLinkUp
  try dsimp only
  repeat' first | with_reducible exact Lasts.refl _ _ | with_reducible assumption | with_reducible apply LastsEnds.next | with_reducible apply LastsEnds.ite | with_reducible apply updLk_lasts | with_reducible apply event_lasts | with_reducible apply bindLink_lasts | with_reducible apply Lasts.foldl | (intro _ _ _) | with_reducible apply Lasts.ite | split | (intro _ _) | with_reducible apply Lasts.free | (with_reducible apply Lasts.upd <;> first | with_reducible rfl | with_reducible exact fun w => w | with_reducible exact fun _ w => w | with_reducible exact Nat.le_refl _ | skip)
  all_goals first | rfl | exact fun w => w | exact fun _ w => w | exact fun _ => rfl | exact fun _ _ => rfl | exact Nat.le_succ _ | exact fun w => Memory.foldl_wf 15 _ _ _ w | skip

theorem execT1sLinkLoss_lasts (outlet : Nat) {s t_ : State} (e_ : execT1sLinkLoss outlet s = .next t_) : Lasts true s t_ := by
  refine LastsEnds.elim ?_ e_
  clear e_
  unfold execT1sLinkLoss
  try dsimp only
  repeat' first | with_reducible exact Lasts.refl _ _ | with_reducible assumption | with_reducible apply LastsEnds.next | with_reducible apply LastsEnds.ite | with_reducible apply stopLink_lasts | with_reducible apply updLk_lasts | with_reducible apply Lasts.foldl | (intro _ _ _) | with_reducible apply Lasts.ite | split | (intro _ _) | with_reducible apply Lasts.free | (with_reducible apply Lasts.upd <;> first | with_reducible rfl | with_reducible exact fun w => w | with_reducible exact fun _ w => w | with_reducible exact Nat.le_refl _ | skip)
  all_goals first | rfl | exact fun w => w | exact fun _ w => w | exact fun _ => rfl | exact fun _ _ => rfl | exact Nat.le_succ _ | exact fun w => Memory.foldl_wf 15 _ _ _ w | skip

theorem execSupportedAppProtocolReq_lasts (outlet : Nat) (offered : List Nat) {s t_ : State} (e_ : execSupportedAppProtocolReq outlet offered s = .next t_) : Lasts true s t_ := by
  refine LastsEnds.elim ?_ e_
  clear e_
  unfold execSupportedAppProtocolReq
  try dsimp only
  repeat' first | with_reducible exact Lasts.refl _ _ | with_reducible assumption | with_reducible apply LastsEnds.next | with_reducible apply LastsEnds.ite | with_reducible apply tell_lasts | with_reducible apply updLk_lasts | with_reducible apply stopLink_lasts | with_reducible apply Lasts.foldl | (intro _ _ _) | with_reducible apply Lasts.ite | split | (intro _ _) | with_reducible apply Lasts.free | (with_reducible apply Lasts.upd <;> first | with_reducible rfl | with_reducible exact fun w => w | with_reducible exact fun _ w => w | with_reducible exact Nat.le_refl _ | skip)
  all_goals first | rfl | exact fun w => w | exact fun _ w => w | exact fun _ => rfl | exact fun _ _ => rfl | exact Nat.le_succ _ | exact fun w => Memory.foldl_wf 15 _ _ _ w | skip

theorem execProtocolTimerExpiry_lasts (outlet : Nat) {s t_ : State} (e_ : execProtocolTimerExpiry outlet s = .next t_) : Lasts true s t_ := by
  refine LastsEnds.elim ?_ e_
  clear e_
  unfold execProtocolTimerExpiry
  try dsimp only
  repeat' first | with_reducible exact Lasts.refl _ _ | with_reducible assumption | with_reducible apply LastsEnds.next | with_reducible apply LastsEnds.ite | with_reducible apply stopLink_lasts | with_reducible apply Lasts.foldl | (intro _ _ _) | with_reducible apply Lasts.ite | split | (intro _ _) | with_reducible apply Lasts.free | (with_reducible apply Lasts.upd <;> first | with_reducible rfl | with_reducible exact fun w => w | with_reducible exact fun _ w => w | with_reducible exact Nat.le_refl _ | skip)
  all_goals first | rfl | exact fun w => w | exact fun _ w => w | exact fun _ => rfl | exact fun _ _ => rfl | exact Nat.le_succ _ | exact fun w => Memory.foldl_wf 15 _ _ _ w | skip

theorem execV2gRequest_lasts (outlet kind : Nat) {s t_ : State} (e_ : execV2gRequest outlet kind s = .next t_) : Lasts true s t_ := by
  refine LastsEnds.elim ?_ e_
  clear e_
  unfold execV2gRequest
  try dsimp only
  repeat' first | with_reducible exact Lasts.refl _ _ | with_reducible assumption | with_reducible apply LastsEnds.next | with_reducible apply LastsEnds.ite | with_reducible apply updLk_lasts | with_reducible apply tell_lasts | with_reducible apply stopLink_lasts | with_reducible apply Lasts.foldl | (intro _ _ _) | with_reducible apply Lasts.ite | split | (intro _ _) | with_reducible apply Lasts.free | (with_reducible apply Lasts.upd <;> first | with_reducible rfl | with_reducible exact fun w => w | with_reducible exact fun _ w => w | with_reducible exact Nat.le_refl _ | skip)
  all_goals first | rfl | exact fun w => w | exact fun _ w => w | exact fun _ => rfl | exact fun _ _ => rfl | exact Nat.le_succ _ | exact fun w => Memory.foldl_wf 15 _ _ _ w | skip

theorem execAuthorizationReq_lasts (outlet mac : Nat) (method : Nat) (contract chain : List Byte) {s t_ : State} (e_ : execAuthorizationReq outlet mac method contract chain s = .next t_) : Lasts true s t_ := by
  refine LastsEnds.elim ?_ e_
  clear e_
  unfold execAuthorizationReq
  try dsimp only
  repeat' first | with_reducible exact Lasts.refl _ _ | with_reducible assumption | with_reducible apply LastsEnds.next | with_reducible apply LastsEnds.ite | with_reducible apply updLk_lasts | with_reducible apply tell_lasts | with_reducible apply newAuth_lasts | with_reducible apply Lasts.foldl | (intro _ _ _) | with_reducible apply Lasts.ite | split | (intro _ _) | with_reducible apply Lasts.free | (with_reducible apply Lasts.upd <;> first | with_reducible rfl | with_reducible exact fun w => w | with_reducible exact fun _ w => w | with_reducible exact Nat.le_refl _ | skip)
  all_goals first | rfl | exact fun w => w | exact fun _ w => w | exact fun _ => rfl | exact fun _ _ => rfl | exact Nat.le_succ _ | exact fun w => Memory.foldl_wf 15 _ _ _ w | skip

theorem execRefuseHoldExpiry_lasts (outlet : Nat) {s t_ : State} (e_ : execRefuseHoldExpiry outlet s = .next t_) : Lasts true s t_ := by
  refine LastsEnds.elim ?_ e_
  clear e_
  unfold execRefuseHoldExpiry
  try dsimp only
  repeat' first | with_reducible exact Lasts.refl _ _ | with_reducible assumption | with_reducible apply LastsEnds.next | with_reducible apply LastsEnds.ite | with_reducible apply event_lasts | with_reducible apply linkEnd_lasts | with_reducible apply tell_lasts | with_reducible apply Lasts.foldl | (intro _ _ _) | with_reducible apply Lasts.ite | split | (intro _ _) | with_reducible apply Lasts.free | (with_reducible apply Lasts.upd <;> first | with_reducible rfl | with_reducible exact fun w => w | with_reducible exact fun _ w => w | with_reducible exact Nat.le_refl _ | skip)
  all_goals first | rfl | exact fun w => w | exact fun _ w => w | exact fun _ => rfl | exact fun _ _ => rfl | exact Nat.le_succ _ | exact fun w => Memory.foldl_wf 15 _ _ _ w | skip

theorem execAuthDeadlineExpiry_lasts (outlet : Nat) {s t_ : State} (e_ : execAuthDeadlineExpiry outlet s = .next t_) : Lasts true s t_ := by
  refine LastsEnds.elim ?_ e_
  clear e_
  unfold execAuthDeadlineExpiry
  try dsimp only
  repeat' first | with_reducible exact Lasts.refl _ _ | with_reducible assumption | with_reducible apply LastsEnds.next | with_reducible apply LastsEnds.ite | with_reducible apply event_lasts | with_reducible apply linkEnd_lasts | with_reducible apply tell_lasts | with_reducible apply setAuth_lasts | with_reducible apply Lasts.foldl | (intro _ _ _) | with_reducible apply Lasts.ite | split | (intro _ _) | with_reducible apply Lasts.free | (with_reducible apply Lasts.upd <;> first | with_reducible rfl | with_reducible exact fun w => w | with_reducible exact fun _ w => w | with_reducible exact Nat.le_refl _ | skip)
  all_goals first | rfl | exact fun w => w | exact fun _ w => w | exact fun _ => rfl | exact fun _ _ => rfl | exact Nat.le_succ _ | exact fun w => Memory.foldl_wf 15 _ _ _ w | skip

theorem execAuthDecide_lasts (h : Hdr) (p : List Byte) {s t_ : State} (e_ : execAuthDecide h p s = .next t_) : Lasts true s t_ := by
  refine LastsEnds.elim ?_ e_
  clear e_
  unfold execAuthDecide
  try dsimp only
  repeat' first | with_reducible exact Lasts.refl _ _ | with_reducible assumption | with_reducible apply LastsEnds.next | with_reducible apply LastsEnds.ite | with_reducible apply hostCommand_lasts | with_reducible apply authDecideCmd_lasts | with_reducible apply Lasts.foldl | (intro _ _ _) | with_reducible apply Lasts.ite | split | (intro _ _) | with_reducible apply Lasts.free | (with_reducible apply Lasts.upd <;> first | with_reducible rfl | with_reducible exact fun w => w | with_reducible exact fun _ w => w | with_reducible exact Nat.le_refl _ | skip)
  all_goals first | rfl | exact fun w => w | exact fun _ w => w | exact fun _ => rfl | exact fun _ _ => rfl | exact Nat.le_succ _ | exact fun w => Memory.foldl_wf 15 _ _ _ w | skip

theorem execLinkStop_lasts (h : Hdr) (p : List Byte) {s t_ : State} (e_ : execLinkStop h p s = .next t_) : Lasts true s t_ := by
  refine LastsEnds.elim ?_ e_
  clear e_
  unfold execLinkStop
  try dsimp only
  repeat' first | with_reducible exact Lasts.refl _ _ | with_reducible assumption | with_reducible apply LastsEnds.next | with_reducible apply LastsEnds.ite | with_reducible apply hostCommand_lasts | with_reducible apply linkStopCmd_lasts | with_reducible apply Lasts.foldl | (intro _ _ _) | with_reducible apply Lasts.ite | split | (intro _ _) | with_reducible apply Lasts.free | (with_reducible apply Lasts.upd <;> first | with_reducible rfl | with_reducible exact fun w => w | with_reducible exact fun _ w => w | with_reducible exact Nat.le_refl _ | skip)
  all_goals first | rfl | exact fun w => w | exact fun _ w => w | exact fun _ => rfl | exact fun _ _ => rfl | exact Nat.le_succ _ | exact fun w => Memory.foldl_wf 15 _ _ _ w | skip

theorem execStopGraceExpiry_lasts (outlet : Nat) {s t_ : State} (e_ : execStopGraceExpiry outlet s = .next t_) : Lasts true s t_ := by
  refine LastsEnds.elim ?_ e_
  clear e_
  unfold execStopGraceExpiry
  try dsimp only
  repeat' first | with_reducible exact Lasts.refl _ _ | with_reducible assumption | with_reducible apply LastsEnds.next | with_reducible apply LastsEnds.ite | with_reducible apply stopLink_lasts | with_reducible apply updLk_lasts | with_reducible apply Lasts.foldl | (intro _ _ _) | with_reducible apply Lasts.ite | split | (intro _ _) | with_reducible apply Lasts.free | (with_reducible apply Lasts.upd <;> first | with_reducible rfl | with_reducible exact fun w => w | with_reducible exact fun _ w => w | with_reducible exact Nat.le_refl _ | skip)
  all_goals first | rfl | exact fun w => w | exact fun _ w => w | exact fun _ => rfl | exact fun _ _ => rfl | exact Nat.le_succ _ | exact fun w => Memory.foldl_wf 15 _ _ _ w | skip

theorem execSeccCsr_lasts (h : Hdr) (p : List Byte) {s t_ : State} (e_ : execSeccCsr h p s = .next t_) : Lasts true s t_ := by
  refine LastsEnds.elim ?_ e_
  clear e_
  unfold execSeccCsr
  try dsimp only
  repeat' first | with_reducible exact Lasts.refl _ _ | with_reducible assumption | with_reducible apply LastsEnds.next | with_reducible apply LastsEnds.ite | with_reducible apply hostCommand_lasts | with_reducible apply seccCsrCmd_lasts | with_reducible apply Lasts.foldl | (intro _ _ _) | with_reducible apply Lasts.ite | split | (intro _ _) | with_reducible apply Lasts.free | (with_reducible apply Lasts.upd <;> first | with_reducible rfl | with_reducible exact fun w => w | with_reducible exact fun _ w => w | with_reducible exact Nat.le_refl _ | skip)
  all_goals first | rfl | exact fun w => w | exact fun _ w => w | exact fun _ => rfl | exact fun _ _ => rfl | exact Nat.le_succ _ | exact fun w => Memory.foldl_wf 15 _ _ _ w | skip

theorem execSeccCertSet_lasts (h : Hdr) (p : List Byte) {s t_ : State} (e_ : execSeccCertSet h p s = .next t_) : Lasts true s t_ := by
  refine LastsEnds.elim ?_ e_
  clear e_
  unfold execSeccCertSet
  try dsimp only
  repeat' first | with_reducible exact Lasts.refl _ _ | with_reducible assumption | with_reducible apply LastsEnds.next | with_reducible apply LastsEnds.ite | with_reducible apply hostCommand_lasts | with_reducible apply seccCertCmd_lasts | with_reducible apply Lasts.foldl | (intro _ _ _) | with_reducible apply Lasts.ite | split | (intro _ _) | with_reducible apply Lasts.free | (with_reducible apply Lasts.upd <;> first | with_reducible rfl | with_reducible exact fun w => w | with_reducible exact fun _ w => w | with_reducible exact Nat.le_refl _ | skip)
  all_goals first | rfl | exact fun w => w | exact fun _ w => w | exact fun _ => rfl | exact fun _ _ => rfl | exact Nat.le_succ _ | exact fun w => Memory.foldl_wf 15 _ _ _ w | skip

theorem execLoadLeaveRetry_lasts (ch : Nat) {s t_ : State} (e_ : execLoadLeaveRetry ch s = .next t_) : Lasts true s t_ := by
  refine LastsEnds.elim ?_ e_
  clear e_
  unfold execLoadLeaveRetry
  try dsimp only
  repeat' first | with_reducible exact Lasts.refl _ _ | with_reducible assumption | with_reducible apply LastsEnds.next | with_reducible apply LastsEnds.ite | with_reducible apply updCh_lasts | with_reducible apply serveBank_lasts | with_reducible apply updBank_lasts | with_reducible apply Lasts.foldl | (intro _ _ _) | with_reducible apply Lasts.ite | split | (intro _ _) | with_reducible apply Lasts.free | (with_reducible apply Lasts.upd <;> first | with_reducible rfl | with_reducible exact fun w => w | with_reducible exact fun _ w => w | with_reducible exact Nat.le_refl _ | skip)
  all_goals first | rfl | exact fun w => w | exact fun _ w => w | exact fun _ => rfl | exact fun _ _ => rfl | exact Nat.le_succ _ | exact fun w => Memory.foldl_wf 15 _ _ _ w | skip

theorem execInrushWindowEnd_lasts (ch : Nat) {s t_ : State} (e_ : execInrushWindowEnd ch s = .next t_) : Lasts true s t_ := by
  refine LastsEnds.elim ?_ e_
  clear e_
  unfold execInrushWindowEnd
  try dsimp only
  repeat' first | with_reducible exact Lasts.refl _ _ | with_reducible assumption | with_reducible apply LastsEnds.next | with_reducible apply LastsEnds.ite | with_reducible apply leavePeak_lasts | with_reducible apply serveBank_lasts | with_reducible apply chTo_lasts | with_reducible apply updCh_lasts | with_reducible apply Lasts.foldl | (intro _ _ _) | with_reducible apply Lasts.ite | split | (intro _ _) | with_reducible apply Lasts.free | (with_reducible apply Lasts.upd <;> first | with_reducible rfl | with_reducible exact fun w => w | with_reducible exact fun _ w => w | with_reducible exact Nat.le_refl _ | skip)
  all_goals first | rfl | exact fun w => w | exact fun _ w => w | exact fun _ => rfl | exact fun _ _ => rfl | exact Nat.le_succ _ | exact fun w => Memory.foldl_wf 15 _ _ _ w | skip

theorem execPwmPeriodBoundary_lasts (bank : Nat) {s t_ : State} (e_ : execPwmPeriodBoundary bank s = .next t_) : Lasts true s t_ := by
  refine LastsEnds.elim ?_ e_
  clear e_
  unfold execPwmPeriodBoundary
  try dsimp only
  repeat' first | with_reducible exact Lasts.refl _ _ | with_reducible assumption | with_reducible apply LastsEnds.next | with_reducible apply LastsEnds.ite | with_reducible apply updCh_lasts | with_reducible apply updBank_lasts | with_reducible apply Lasts.foldl | (intro _ _ _) | with_reducible apply Lasts.ite | split | (intro _ _) | with_reducible apply Lasts.free | (with_reducible apply Lasts.upd <;> first | with_reducible rfl | with_reducible exact fun w => w | with_reducible exact fun _ w => w | with_reducible exact Nat.le_refl _ | skip)
  all_goals first | rfl | exact fun w => w | exact fun _ w => w | exact fun _ => rfl | exact fun _ _ => rfl | exact Nat.le_succ _ | exact fun w => Memory.foldl_wf 15 _ _ _ w | skip

theorem execThermalShutdown_lasts (ch ma : Nat) (temp : Int) {s t_ : State} (e_ : execThermalShutdown ch ma temp s = .next t_) : Lasts true s t_ := by
  refine LastsEnds.elim ?_ e_
  clear e_
  unfold execThermalShutdown
  try dsimp only
  repeat' first | with_reducible exact Lasts.refl _ _ | with_reducible assumption | with_reducible apply LastsEnds.next | with_reducible apply LastsEnds.ite | with_reducible apply channelFault_lasts | with_reducible apply updCh_lasts | with_reducible apply Lasts.foldl | (intro _ _ _) | with_reducible apply Lasts.ite | split | (intro _ _) | with_reducible apply Lasts.free | (with_reducible apply Lasts.upd <;> first | with_reducible rfl | with_reducible exact fun w => w | with_reducible exact fun _ w => w | with_reducible exact Nat.le_refl _ | skip)
  all_goals first | rfl | exact fun w => w | exact fun _ w => w | exact fun _ => rfl | exact fun _ _ => rfl | exact Nat.le_succ _ | exact fun w => Memory.foldl_wf 15 _ _ _ w | skip

theorem execThermalLatchRelease_lasts (ch : Nat) (temp : Int) {s t_ : State} (e_ : execThermalLatchRelease ch temp s = .next t_) : Lasts true s t_ := by
  refine LastsEnds.elim ?_ e_
  clear e_
  unfold execThermalLatchRelease
  try dsimp only
  repeat' first | with_reducible exact Lasts.refl _ _ | with_reducible assumption | with_reducible apply LastsEnds.next | with_reducible apply LastsEnds.ite | with_reducible apply updCh_lasts | with_reducible apply Lasts.foldl | (intro _ _ _) | with_reducible apply Lasts.ite | split | (intro _ _) | with_reducible apply Lasts.free | (with_reducible apply Lasts.upd <;> first | with_reducible rfl | with_reducible exact fun w => w | with_reducible exact fun _ w => w | with_reducible exact Nat.le_refl _ | skip)
  all_goals first | rfl | exact fun w => w | exact fun _ w => w | exact fun _ => rfl | exact fun _ _ => rfl | exact Nat.le_succ _ | exact fun w => Memory.foldl_wf 15 _ _ _ w | skip

theorem execChannelOverload_lasts (ch ma : Nat) (temp : Int) {s t_ : State} (e_ : execChannelOverload ch ma temp s = .next t_) : Lasts true s t_ := by
  refine LastsEnds.elim ?_ e_
  clear e_
  unfold execChannelOverload
  try dsimp only
  repeat' first | with_reducible exact Lasts.refl _ _ | with_reducible assumption | with_reducible apply LastsEnds.next | with_reducible apply LastsEnds.ite | with_reducible apply channelFault_lasts | with_reducible apply Lasts.foldl | (intro _ _ _) | with_reducible apply Lasts.ite | split | (intro _ _) | with_reducible apply Lasts.free | (with_reducible apply Lasts.upd <;> first | with_reducible rfl | with_reducible exact fun w => w | with_reducible exact fun _ w => w | with_reducible exact Nat.le_refl _ | skip)
  all_goals first | rfl | exact fun w => w | exact fun _ w => w | exact fun _ => rfl | exact fun _ _ => rfl | exact Nat.le_succ _ | exact fun w => Memory.foldl_wf 15 _ _ _ w | skip

theorem execOpenLoadDetected_lasts (ch : Nat) {s t_ : State} (e_ : execOpenLoadDetected ch s = .next t_) : Lasts true s t_ := by
  refine LastsEnds.elim ?_ e_
  clear e_
  unfold execOpenLoadDetected
  try dsimp only
  repeat' first | with_reducible exact Lasts.refl _ _ | with_reducible assumption | with_reducible apply LastsEnds.next | with_reducible apply LastsEnds.ite | with_reducible apply event_lasts | with_reducible apply updCh_lasts | with_reducible apply Lasts.foldl | (intro _ _ _) | with_reducible apply Lasts.ite | split | (intro _ _) | with_reducible apply Lasts.free | (with_reducible apply Lasts.upd <;> first | with_reducible rfl | with_reducible exact fun w => w | with_reducible exact fun _ w => w | with_reducible exact Nat.le_refl _ | skip)
  all_goals first | rfl | exact fun w => w | exact fun _ w => w | exact fun _ => rfl | exact fun _ _ => rfl | exact Nat.le_succ _ | exact fun w => Memory.foldl_wf 15 _ _ _ w | skip

theorem execOpenLoadCleared_lasts (ch : Nat) {s t_ : State} (e_ : execOpenLoadCleared ch s = .next t_) : Lasts true s t_ := by
  refine LastsEnds.elim ?_ e_
  clear e_
  unfold execOpenLoadCleared
  try dsimp only
  repeat' first | with_reducible exact Lasts.refl _ _ | with_reducible assumption | with_reducible apply LastsEnds.next | with_reducible apply LastsEnds.ite | with_reducible apply event_lasts | with_reducible apply updCh_lasts | with_reducible apply Lasts.foldl | (intro _ _ _) | with_reducible apply Lasts.ite | split | (intro _ _) | with_reducible apply Lasts.free | (with_reducible apply Lasts.upd <;> first | with_reducible rfl | with_reducible exact fun w => w | with_reducible exact fun _ w => w | with_reducible exact Nat.le_refl _ | skip)
  all_goals first | rfl | exact fun w => w | exact fun _ w => w | exact fun _ => rfl | exact fun _ _ => rfl | exact Nat.le_succ _ | exact fun w => Memory.foldl_wf 15 _ _ _ w | skip

theorem execRetryWaitEnd_lasts (ch : Nat) {s t_ : State} (e_ : execRetryWaitEnd ch s = .next t_) : Lasts true s t_ := by
  refine LastsEnds.elim ?_ e_
  clear e_
  unfold execRetryWaitEnd
  try dsimp only
  repeat' first | with_reducible exact Lasts.refl _ _ | with_reducible assumption | with_reducible apply LastsEnds.next | with_reducible apply LastsEnds.ite | with_reducible apply joinQueue_lasts | with_reducible apply overReleased_lasts | with_reducible apply updCh_lasts | with_reducible apply event_lasts | with_reducible apply chTo_lasts | with_reducible apply Lasts.foldl | (intro _ _ _) | with_reducible apply Lasts.ite | split | (intro _ _) | with_reducible apply Lasts.free | (with_reducible apply Lasts.upd <;> first | with_reducible rfl | with_reducible exact fun w => w | with_reducible exact fun _ w => w | with_reducible exact Nat.le_refl _ | skip)
  all_goals first | rfl | exact fun w => w | exact fun _ w => w | exact fun _ => rfl | exact fun _ _ => rfl | exact Nat.le_succ _ | exact fun w => Memory.foldl_wf 15 _ _ _ w | skip

theorem execRetriesReset_lasts (ch : Nat) {s t_ : State} (e_ : execRetriesReset ch s = .next t_) : Lasts true s t_ := by
  refine LastsEnds.elim ?_ e_
  clear e_
  unfold execRetriesReset
  try dsimp only
  repeat' first | with_reducible exact Lasts.refl _ _ | with_reducible assumption | with_reducible apply LastsEnds.next | with_reducible apply LastsEnds.ite | with_reducible apply updCh_lasts | with_reducible apply Lasts.foldl | (intro _ _ _) | with_reducible apply Lasts.ite | split | (intro _ _) | with_reducible apply Lasts.free | (with_reducible apply Lasts.upd <;> first | with_reducible rfl | with_reducible exact fun w => w | with_reducible exact fun _ w => w | with_reducible exact Nat.le_refl _ | skip)
  all_goals first | rfl | exact fun w => w | exact fun _ w => w | exact fun _ => rfl | exact fun _ _ => rfl | exact Nat.le_succ _ | exact fun w => Memory.foldl_wf 15 _ _ _ w | skip

theorem execBankUndervoltage_lasts (bank vbbMv : Nat) {s t_ : State} (e_ : execBankUndervoltage bank vbbMv s = .next t_) : Lasts true s t_ := by
  refine LastsEnds.elim ?_ e_
  clear e_
  unfold execBankUndervoltage
  try dsimp only
  repeat' first | with_reducible exact Lasts.refl _ _ | with_reducible assumption | with_reducible apply LastsEnds.next | with_reducible apply LastsEnds.ite | with_reducible apply updBank_lasts | with_reducible apply bankEvent_lasts | with_reducible apply holdBank_lasts | with_reducible apply Lasts.foldl | (intro _ _ _) | with_reducible apply Lasts.ite | split | (intro _ _) | with_reducible apply Lasts.free | (with_reducible apply Lasts.upd <;> first | with_reducible rfl | with_reducible exact fun w => w | with_reducible exact fun _ w => w | with_reducible exact Nat.le_refl _ | skip)
  all_goals first | rfl | exact fun w => w | exact fun _ w => w | exact fun _ => rfl | exact fun _ _ => rfl | exact Nat.le_succ _ | exact fun w => Memory.foldl_wf 15 _ _ _ w | skip

theorem execBankOvervoltage_lasts (bank vbbMv : Nat) {s t_ : State} (e_ : execBankOvervoltage bank vbbMv s = .next t_) : Lasts true s t_ := by
  refine LastsEnds.elim ?_ e_
  clear e_
  unfold execBankOvervoltage
  try dsimp only
  repeat' first | with_reducible exact Lasts.refl _ _ | with_reducible assumption | with_reducible apply LastsEnds.next | with_reducible apply LastsEnds.ite | with_reducible apply bankEvent_lasts | with_reducible apply holdBank_lasts | with_reducible apply updBank_lasts | with_reducible apply Lasts.foldl | (intro _ _ _) | with_reducible apply Lasts.ite | split | (intro _ _) | with_reducible apply Lasts.free | (with_reducible apply Lasts.upd <;> first | with_reducible rfl | with_reducible exact fun w => w | with_reducible exact fun _ w => w | with_reducible exact Nat.le_refl _ | skip)
  all_goals first | rfl | exact fun w => w | exact fun _ w => w | exact fun _ => rfl | exact fun _ _ => rfl | exact Nat.le_succ _ | exact fun w => Memory.foldl_wf 15 _ _ _ w | skip

theorem execBankGroundLoss_lasts (bank vbbMv : Nat) {s t_ : State} (e_ : execBankGroundLoss bank vbbMv s = .next t_) : Lasts true s t_ := by
  refine LastsEnds.elim ?_ e_
  clear e_
  unfold execBankGroundLoss
  try dsimp only
  repeat' first | with_reducible exact Lasts.refl _ _ | with_reducible assumption | with_reducible apply LastsEnds.next | with_reducible apply LastsEnds.ite | with_reducible apply bankEvent_lasts | with_reducible apply holdBank_lasts | with_reducible apply updBank_lasts | with_reducible apply Lasts.foldl | (intro _ _ _) | with_reducible apply Lasts.ite | split | (intro _ _) | with_reducible apply Lasts.free | (with_reducible apply Lasts.upd <;> first | with_reducible rfl | with_reducible exact fun w => w | with_reducible exact fun _ w => w | with_reducible exact Nat.le_refl _ | skip)
  all_goals first | rfl | exact fun w => w | exact fun _ w => w | exact fun _ => rfl | exact fun _ _ => rfl | exact Nat.le_succ _ | exact fun w => Memory.foldl_wf 15 _ _ _ w | skip

theorem execBankReverseSupply_lasts (bank : Nat) {s t_ : State} (e_ : execBankReverseSupply bank s = .next t_) : Lasts true s t_ := by
  refine LastsEnds.elim ?_ e_
  clear e_
  unfold execBankReverseSupply
  try dsimp only
  repeat' first | with_reducible exact Lasts.refl _ _ | with_reducible assumption | with_reducible apply LastsEnds.next | with_reducible apply LastsEnds.ite | with_reducible apply bankEvent_lasts | with_reducible apply holdBank_lasts | with_reducible apply updBank_lasts | with_reducible apply Lasts.foldl | (intro _ _ _) | with_reducible apply Lasts.ite | split | (intro _ _) | with_reducible apply Lasts.free | (with_reducible apply Lasts.upd <;> first | with_reducible rfl | with_reducible exact fun w => w | with_reducible exact fun _ w => w | with_reducible exact Nat.le_refl _ | skip)
  all_goals first | rfl | exact fun w => w | exact fun _ w => w | exact fun _ => rfl | exact fun _ _ => rfl | exact Nat.le_succ _ | exact fun w => Memory.foldl_wf 15 _ _ _ w | skip

theorem execBankOverload_lasts (bank vbbMv : Nat) {s t_ : State} (e_ : execBankOverload bank vbbMv s = .next t_) : Lasts true s t_ := by
  refine LastsEnds.elim ?_ e_
  clear e_
  unfold execBankOverload
  try dsimp only
  repeat' first | with_reducible exact Lasts.refl _ _ | with_reducible assumption | with_reducible apply LastsEnds.next | with_reducible apply LastsEnds.ite | with_reducible apply updBank_lasts | with_reducible apply channelFault_lasts | with_reducible apply bankEvent_lasts | with_reducible apply Lasts.foldl | (intro _ _ _) | with_reducible apply Lasts.ite | split | (intro _ _) | with_reducible apply Lasts.free | (with_reducible apply Lasts.upd <;> first | with_reducible rfl | with_reducible exact fun w => w | with_reducible exact fun _ w => w | with_reducible exact Nat.le_refl _ | skip)
  all_goals first | rfl | exact fun w => w | exact fun _ w => w | exact fun _ => rfl | exact fun _ _ => rfl | exact Nat.le_succ _ | exact fun w => Memory.foldl_wf 15 _ _ _ w | skip

theorem execBankHoldRelease_lasts (bank : Nat) (cause : Nat) (vbbMv : Nat) (good100ms : Bool) {s t_ : State} (e_ : execBankHoldRelease bank cause vbbMv good100ms s = .next t_) : Lasts true s t_ := by
  refine LastsEnds.elim ?_ e_
  clear e_
  unfold execBankHoldRelease
  try dsimp only
  repeat' first | with_reducible exact Lasts.refl _ _ | with_reducible assumption | with_reducible apply LastsEnds.next | with_reducible apply LastsEnds.ite | with_reducible apply updBank_lasts | with_reducible apply releaseBank_lasts | with_reducible apply bankEvent_lasts | with_reducible apply Lasts.foldl | (intro _ _ _) | with_reducible apply Lasts.ite | split | (intro _ _) | with_reducible apply Lasts.free | (with_reducible apply Lasts.upd <;> first | with_reducible rfl | with_reducible exact fun w => w | with_reducible exact fun _ w => w | with_reducible exact Nat.le_refl _ | skip)
  all_goals first | rfl | exact fun w => w | exact fun _ w => w | exact fun _ => rfl | exact fun _ _ => rfl | exact Nat.le_succ _ | exact fun w => Memory.foldl_wf 15 _ _ _ w | skip

theorem execLoadSet_lasts (h : Hdr) (p : List Byte) {s t_ : State} (e_ : execLoadSet h p s = .next t_) : Lasts true s t_ := by
  refine LastsEnds.elim ?_ e_
  clear e_
  unfold execLoadSet
  try dsimp only
  repeat' first | with_reducible exact Lasts.refl _ _ | with_reducible assumption | with_reducible apply LastsEnds.next | with_reducible apply LastsEnds.ite | with_reducible apply hostCommand_lasts | with_reducible apply loadSetCmd_lasts | with_reducible apply Lasts.foldl | (intro _ _ _) | with_reducible apply Lasts.ite | split | (intro _ _) | with_reducible apply Lasts.free | (with_reducible apply Lasts.upd <;> first | with_reducible rfl | with_reducible exact fun w => w | with_reducible exact fun _ w => w | with_reducible exact Nat.le_refl _ | skip)
  all_goals first | rfl | exact fun w => w | exact fun _ w => w | exact fun _ => rfl | exact fun _ _ => rfl | exact Nat.le_succ _ | exact fun w => Memory.foldl_wf 15 _ _ _ w | skip

theorem execLoadBankReset_lasts (h : Hdr) (p : List Byte) {s t_ : State} (e_ : execLoadBankReset h p s = .next t_) : Lasts true s t_ := by
  refine LastsEnds.elim ?_ e_
  clear e_
  unfold execLoadBankReset
  try dsimp only
  repeat' first | with_reducible exact Lasts.refl _ _ | with_reducible assumption | with_reducible apply LastsEnds.next | with_reducible apply LastsEnds.ite | with_reducible apply hostCommand_lasts | with_reducible apply bankResetCmd_lasts | with_reducible apply Lasts.foldl | (intro _ _ _) | with_reducible apply Lasts.ite | split | (intro _ _) | with_reducible apply Lasts.free | (with_reducible apply Lasts.upd <;> first | with_reducible rfl | with_reducible exact fun w => w | with_reducible exact fun _ w => w | with_reducible exact Nat.le_refl _ | skip)
  all_goals first | rfl | exact fun w => w | exact fun _ w => w | exact fun _ => rfl | exact fun _ _ => rfl | exact Nat.le_succ _ | exact fun w => Memory.foldl_wf 15 _ _ _ w | skip

theorem execNeighbourUnusable_lasts (node : Nat) {s t_ : State} (e_ : execNeighbourUnusable node s = .next t_) : Lasts true s t_ := by
  refine LastsEnds.elim ?_ e_
  clear e_
  unfold execNeighbourUnusable
  try dsimp only
  repeat' first | with_reducible exact Lasts.refl _ _ | with_reducible assumption | with_reducible apply LastsEnds.next | with_reducible apply LastsEnds.ite | with_reducible apply neighbourLost_lasts | with_reducible apply Lasts.foldl | (intro _ _ _) | with_reducible apply Lasts.ite | split | (intro _ _) | with_reducible apply Lasts.free | (with_reducible apply Lasts.upd <;> first | with_reducible rfl | with_reducible exact fun w => w | with_reducible exact fun _ w => w | with_reducible exact Nat.le_refl _ | skip)
  all_goals first | rfl | exact fun w => w | exact fun _ w => w | exact fun _ => rfl | exact fun _ _ => rfl | exact Nat.le_succ _ | exact fun w => Memory.foldl_wf 15 _ _ _ w | skip

theorem execRoutingWindowEnd_lasts  {s t_ : State} (e_ : execRoutingWindowEnd s = .next t_) : Lasts true s t_ := by
  refine LastsEnds.elim ?_ e_
  clear e_
  unfold execRoutingWindowEnd
  try dsimp only
  repeat' first | with_reducible exact Lasts.refl _ _ | with_reducible assumption | with_reducible apply LastsEnds.next | with_reducible apply LastsEnds.ite | with_reducible apply recompute_lasts | with_reducible apply Lasts.foldl | (intro _ _ _) | with_reducible apply Lasts.ite | split | (intro _ _) | with_reducible apply Lasts.free | (with_reducible apply Lasts.upd <;> first | with_reducible rfl | with_reducible exact fun w => w | with_reducible exact fun _ w => w | with_reducible exact Nat.le_refl _ | skip)
  all_goals first | rfl | exact fun w => w | exact fun _ w => w | exact fun _ => rfl | exact fun _ _ => rfl | exact Nat.le_succ _ | exact fun w => Memory.foldl_wf 15 _ _ _ w | skip

theorem execTrvPacketReceived_lasts (b : List Byte) {s t_ : State} (e_ : execTrvPacketReceived b s = .next t_) : Lasts true s t_ := by
  refine LastsEnds.elim ?_ e_
  clear e_
  unfold execTrvPacketReceived
  try dsimp only
  repeat' first | with_reducible exact Lasts.refl _ _ | with_reducible assumption | with_reducible apply LastsEnds.next | with_reducible apply LastsEnds.ite | with_reducible apply screenPacket_lasts | with_reducible apply takePacket_lasts | with_reducible apply Lasts.foldl | (intro _ _ _) | with_reducible apply Lasts.ite | split | (intro _ _) | with_reducible apply Lasts.free | (with_reducible apply Lasts.upd <;> first | with_reducible rfl | with_reducible exact fun w => w | with_reducible exact fun _ w => w | with_reducible exact Nat.le_refl _ | skip)
  all_goals first | rfl | exact fun w => w | exact fun _ w => w | exact fun _ => rfl | exact fun _ _ => rfl | exact Nat.le_succ _ | exact fun w => Memory.foldl_wf 15 _ _ _ w | skip

theorem execNoRouteDrop_lasts (tag : Nat) {s t_ : State} (e_ : execNoRouteDrop tag s = .next t_) : Lasts true s t_ := by
  refine LastsEnds.elim ?_ e_
  clear e_
  unfold execNoRouteDrop
  try dsimp only
  repeat' first | with_reducible exact Lasts.refl _ _ | with_reducible assumption | with_reducible apply LastsEnds.next | with_reducible apply LastsEnds.ite | with_reducible apply dropPacket_lasts | with_reducible apply Lasts.foldl | (intro _ _ _) | with_reducible apply Lasts.ite | split | (intro _ _) | with_reducible apply Lasts.free | (with_reducible apply Lasts.upd <;> first | with_reducible rfl | with_reducible exact fun w => w | with_reducible exact fun _ w => w | with_reducible exact Nat.le_refl _ | skip)
  all_goals first | rfl | exact fun w => w | exact fun _ w => w | exact fun _ => rfl | exact fun _ _ => rfl | exact Nat.le_succ _ | exact fun w => Memory.foldl_wf 15 _ _ _ w | skip

theorem execContentionAccess_lasts (backoff : Nat) {s t_ : State} (e_ : execContentionAccess backoff s = .next t_) : Lasts true s t_ := by
  refine LastsEnds.elim ?_ e_
  clear e_
  unfold execContentionAccess
  try dsimp only
  repeat' first | with_reducible exact Lasts.refl _ _ | with_reducible assumption | with_reducible apply LastsEnds.next | with_reducible apply LastsEnds.ite | with_reducible apply beginTx_lasts | with_reducible apply sendBroadcast_lasts | with_reducible apply sendSegments_lasts | with_reducible apply Lasts.foldl | (intro _ _ _) | with_reducible apply Lasts.ite | split | (intro _ _) | with_reducible apply Lasts.free | (with_reducible apply Lasts.upd <;> first | with_reducible rfl | with_reducible exact fun w => w | with_reducible exact fun _ w => w | with_reducible exact Nat.le_refl _ | skip)
  all_goals first | rfl | exact fun w => w | exact fun _ w => w | exact fun _ => rfl | exact fun _ _ => rfl | exact Nat.le_succ _ | exact fun w => Memory.foldl_wf 15 _ _ _ w | skip

theorem execTrvFrameReceived_lasts (f : TrvFrameIn) {s t_ : State} (e_ : execTrvFrameReceived f s = .next t_) : Lasts true s t_ := by
  refine LastsEnds.elim ?_ e_
  clear e_
  unfold execTrvFrameReceived
  try dsimp only
  repeat' first | with_reducible exact Lasts.refl _ _ | with_reducible assumption | with_reducible apply LastsEnds.next | with_reducible apply LastsEnds.ite | with_reducible apply countFrame_lasts | with_reducible apply hearFrame_lasts | with_reducible apply sendAck_lasts | with_reducible apply takeFrame_lasts | with_reducible apply Lasts.foldl | (intro _ _ _) | with_reducible apply Lasts.ite | split | (intro _ _) | with_reducible apply Lasts.free | (with_reducible apply Lasts.upd <;> first | with_reducible rfl | with_reducible exact fun w => w | with_reducible exact fun _ w => w | with_reducible exact Nat.le_refl _ | skip)
  all_goals first | rfl | exact fun w => w | exact fun _ w => w | exact fun _ => rfl | exact fun _ _ => rfl | exact Nat.le_succ _ | exact fun w => Memory.foldl_wf 15 _ _ _ w | skip

theorem execSelectiveAckReceived_lasts (fc : List Byte) {s t_ : State} (e_ : execSelectiveAckReceived fc s = .next t_) : Lasts true s t_ := by
  refine LastsEnds.elim ?_ e_
  clear e_
  unfold execSelectiveAckReceived
  try dsimp only
  repeat' first | with_reducible exact Lasts.refl _ _ | with_reducible assumption | with_reducible apply LastsEnds.next | with_reducible apply LastsEnds.ite | with_reducible apply countFrame_lasts | with_reducible apply hearFrame_lasts | with_reducible apply ackTakenBy_lasts | with_reducible apply Lasts.foldl | (intro _ _ _) | with_reducible apply Lasts.ite | split | (intro _ _) | with_reducible apply Lasts.free | (with_reducible apply Lasts.upd <;> first | with_reducible rfl | with_reducible exact fun w => w | with_reducible exact fun _ w => w | with_reducible exact Nat.le_refl _ | skip)
  all_goals first | rfl | exact fun w => w | exact fun _ w => w | exact fun _ => rfl | exact fun _ _ => rfl | exact Nat.le_succ _ | exact fun w => Memory.foldl_wf 15 _ _ _ w | skip

theorem execSelectiveAckMissing_lasts (dst : Nat) (frameSeq : Byte) {s t_ : State} (e_ : execSelectiveAckMissing dst frameSeq s = .next t_) : Lasts true s t_ := by
  refine LastsEnds.elim ?_ e_
  clear e_
  unfold execSelectiveAckMissing
  try dsimp only
  repeat' first | with_reducible exact Lasts.refl _ _ | with_reducible assumption | with_reducible apply LastsEnds.next | with_reducible apply LastsEnds.ite | with_reducible apply segmentsLeft_lasts | with_reducible apply Lasts.foldl | (intro _ _ _) | with_reducible apply Lasts.ite | split | (intro _ _) | with_reducible apply Lasts.free | (with_reducible apply Lasts.upd <;> first | with_reducible rfl | with_reducible exact fun w => w | with_reducible exact fun _ w => w | with_reducible exact Nat.le_refl _ | skip)
  all_goals first | rfl | exact fun w => w | exact fun _ w => w | exact fun _ => rfl | exact fun _ _ => rfl | exact Nat.le_succ _ | exact fun w => Memory.foldl_wf 15 _ _ _ w | skip

theorem execDatumEdge_lasts (rising : Bool) (gridMhz phaseDeg : Nat) {s t_ : State} (e_ : execDatumEdge rising gridMhz phaseDeg s = .next t_) : Lasts true s t_ := by
  refine LastsEnds.elim ?_ e_
  clear e_
  unfold execDatumEdge
  try dsimp only
  repeat' first | with_reducible exact Lasts.refl _ _ | with_reducible assumption | with_reducible apply LastsEnds.next | with_reducible apply LastsEnds.ite | with_reducible apply datumTo_lasts | with_reducible apply Lasts.foldl | (intro _ _ _) | with_reducible apply Lasts.ite | split | (intro _ _) | with_reducible apply Lasts.free | (with_reducible apply Lasts.upd <;> first | with_reducible rfl | with_reducible exact fun w => w | with_reducible exact fun _ w => w | with_reducible exact Nat.le_refl _ | skip)
  all_goals first | rfl | exact fun w => w | exact fun _ w => w | exact fun _ => rfl | exact fun _ _ => rfl | exact Nat.le_succ _ | exact fun w => Memory.foldl_wf 15 _ _ _ w | skip

theorem execDatumLoss_lasts  {s t_ : State} (e_ : execDatumLoss s = .next t_) : Lasts true s t_ := by
  refine LastsEnds.elim ?_ e_
  clear e_
  unfold execDatumLoss
  try dsimp only
  repeat' first | with_reducible exact Lasts.refl _ _ | with_reducible assumption | with_reducible apply LastsEnds.next | with_reducible apply LastsEnds.ite | with_reducible apply datumTo_lasts | with_reducible apply Lasts.foldl | (intro _ _ _) | with_reducible apply Lasts.ite | split | (intro _ _) | with_reducible apply Lasts.free | (with_reducible apply Lasts.upd <;> first | with_reducible rfl | with_reducible exact fun w => w | with_reducible exact fun _ w => w | with_reducible exact Nat.le_refl _ | skip)
  all_goals first | rfl | exact fun w => w | exact fun _ w => w | exact fun _ => rfl | exact fun _ _ => rfl | exact Nat.le_succ _ | exact fun w => Memory.foldl_wf 15 _ _ _ w | skip

theorem execBeaconSlot_lasts (slot : Nat) {s t_ : State} (e_ : execBeaconSlot slot s = .next t_) : Lasts true s t_ := by
  refine LastsEnds.elim ?_ e_
  clear e_
  unfold execBeaconSlot
  try dsimp only
  repeat' first | with_reducible exact Lasts.refl _ _ | with_reducible assumption | with_reducible apply LastsEnds.next | with_reducible apply LastsEnds.ite | with_reducible apply sendBeacon_lasts | with_reducible apply Lasts.foldl | (intro _ _ _) | with_reducible apply Lasts.ite | split | (intro _ _) | with_reducible apply Lasts.free | (with_reducible apply Lasts.upd <;> first | with_reducible rfl | with_reducible exact fun w => w | with_reducible exact fun _ w => w | with_reducible exact Nat.le_refl _ | skip)
  all_goals first | rfl | exact fun w => w | exact fun _ w => w | exact fun _ => rfl | exact fun _ _ => rfl | exact Nat.le_succ _ | exact fun w => Memory.foldl_wf 15 _ _ _ w | skip

theorem execBeaconReceived_lasts (b : BeaconIn) {s t_ : State} (e_ : execBeaconReceived b s = .next t_) : Lasts true s t_ := by
  refine LastsEnds.elim ?_ e_
  clear e_
  unfold execBeaconReceived
  try dsimp only
  repeat' first | with_reducible exact Lasts.refl _ _ | with_reducible assumption | with_reducible apply LastsEnds.next | with_reducible apply LastsEnds.ite | with_reducible apply countFrame_lasts | with_reducible apply hearFrame_lasts | with_reducible apply takeBeacon_lasts | with_reducible apply Lasts.foldl | (intro _ _ _) | with_reducible apply Lasts.ite | split | (intro _ _) | with_reducible apply Lasts.free | (with_reducible apply Lasts.upd <;> first | with_reducible rfl | with_reducible exact fun w => w | with_reducible exact fun _ w => w | with_reducible exact Nat.le_refl _ | skip)
  all_goals first | rfl | exact fun w => w | exact fun _ w => w | exact fun _ => rfl | exact fun _ _ => rfl | exact Nat.le_succ _ | exact fun w => Memory.foldl_wf 15 _ _ _ w | skip

theorem execLockTimeout_lasts  {s t_ : State} (e_ : execLockTimeout s = .next t_) : Lasts true s t_ := by
  refine LastsEnds.elim ?_ e_
  clear e_
  unfold execLockTimeout
  try dsimp only
  repeat' first | with_reducible exact Lasts.refl _ _ | with_reducible assumption | with_reducible apply LastsEnds.next | with_reducible apply LastsEnds.ite | with_reducible apply alignCheck_lasts | with_reducible apply Lasts.foldl | (intro _ _ _) | with_reducible apply Lasts.ite | split | (intro _ _) | with_reducible apply Lasts.free | (with_reducible apply Lasts.upd <;> first | with_reducible rfl | with_reducible exact fun w => w | with_reducible exact fun _ w => w | with_reducible exact Nat.le_refl _ | skip)
  all_goals first | rfl | exact fun w => w | exact fun _ w => w | exact fun _ => rfl | exact fun _ _ => rfl | exact Nat.le_succ _ | exact fun w => Memory.foldl_wf 15 _ _ _ w | skip

theorem execRoutingAdvertisement_lasts  {s t_ : State} (e_ : execRoutingAdvertisement s = .next t_) : Lasts true s t_ := by
  refine LastsEnds.elim ?_ e_
  clear e_
  unfold execRoutingAdvertisement
  try dsimp only
  repeat' first | with_reducible exact Lasts.refl _ _ | with_reducible assumption | with_reducible apply LastsEnds.next | with_reducible apply LastsEnds.ite | with_reducible apply ownPacket_lasts | with_reducible apply queueOwn_lasts | with_reducible apply Lasts.foldl | (intro _ _ _) | with_reducible apply Lasts.ite | split | (intro _ _) | with_reducible apply Lasts.free | (with_reducible apply Lasts.upd <;> first | with_reducible rfl | with_reducible exact fun w => w | with_reducible exact fun _ w => w | with_reducible exact Nat.le_refl _ | skip)
  all_goals first | rfl | exact fun w => w | exact fun _ w => w | exact fun _ => rfl | exact fun _ _ => rfl | exact Nat.le_succ _ | exact fun w => Memory.foldl_wf 15 _ _ _ w | skip

theorem execTrvGrantRetry_lasts  {s t_ : State} (e_ : execTrvGrantRetry s = .next t_) : Lasts true s t_ := by
  refine LastsEnds.elim ?_ e_
  clear e_
  unfold execTrvGrantRetry
  try dsimp only
  repeat' first | with_reducible exact Lasts.refl _ _ | with_reducible assumption | with_reducible apply LastsEnds.next | with_reducible apply LastsEnds.ite | with_reducible apply requestTrv_lasts | with_reducible apply Lasts.foldl | (intro _ _ _) | with_reducible apply Lasts.ite | split | (intro _ _) | with_reducible apply Lasts.free | (with_reducible apply Lasts.upd <;> first | with_reducible rfl | with_reducible exact fun w => w | with_reducible exact fun _ w => w | with_reducible exact Nat.le_refl _ | skip)
  all_goals first | rfl | exact fun w => w | exact fun _ w => w | exact fun _ => rfl | exact fun _ _ => rfl | exact Nat.le_succ _ | exact fun w => Memory.foldl_wf 15 _ _ _ w | skip

theorem execTrvSend_lasts (h : Hdr) (p : List Byte) {s t_ : State} (e_ : execTrvSend h p s = .next t_) : Lasts true s t_ := by
  refine LastsEnds.elim ?_ e_
  clear e_
  unfold execTrvSend
  try dsimp only
  repeat' first | with_reducible exact Lasts.refl _ _ | with_reducible assumption | with_reducible apply LastsEnds.next | with_reducible apply LastsEnds.ite | with_reducible apply hostCommand_lasts | with_reducible apply trvSendCmd_lasts | with_reducible apply Lasts.foldl | (intro _ _ _) | with_reducible apply Lasts.ite | split | (intro _ _) | with_reducible apply Lasts.free | (with_reducible apply Lasts.upd <;> first | with_reducible rfl | with_reducible exact fun w => w | with_reducible exact fun _ w => w | with_reducible exact Nat.le_refl _ | skip)
  all_goals first | rfl | exact fun w => w | exact fun _ w => w | exact fun _ => rfl | exact fun _ _ => rfl | exact Nat.le_succ _ | exact fun w => Memory.foldl_wf 15 _ _ _ w | skip

theorem execTrvConfirmationTimeout_lasts (handle : Nat) {s t_ : State} (e_ : execTrvConfirmationTimeout handle s = .next t_) : Lasts true s t_ := by
  refine LastsEnds.elim ?_ e_
  clear e_
  unfold execTrvConfirmationTimeout
  try dsimp only
  repeat' first | with_reducible exact Lasts.refl _ _ | with_reducible assumption | with_reducible apply LastsEnds.next | with_reducible apply LastsEnds.ite | with_reducible apply trvSent_lasts | with_reducible apply Lasts.foldl | (intro _ _ _) | with_reducible apply Lasts.ite | split | (intro _ _) | with_reducible apply Lasts.free | (with_reducible apply Lasts.upd <;> first | with_reducible rfl | with_reducible exact fun w => w | with_reducible exact fun _ w => w | with_reducible exact Nat.le_refl _ | skip)
  all_goals first | rfl | exact fun w => w | exact fun _ w => w | exact fun _ => rfl | exact fun _ _ => rfl | exact Nat.le_succ _ | exact fun w => Memory.foldl_wf 15 _ _ _ w | skip

theorem execTrvKeySet_lasts (h : Hdr) (p : List Byte) {s t_ : State} (e_ : execTrvKeySet h p s = .next t_) : Lasts true s t_ := by
  refine LastsEnds.elim ?_ e_
  clear e_
  unfold execTrvKeySet
  try dsimp only
  repeat' first | with_reducible exact Lasts.refl _ _ | with_reducible assumption | with_reducible apply LastsEnds.next | with_reducible apply LastsEnds.ite | with_reducible apply hostCommand_lasts | with_reducible apply trvKeySetCmd_lasts | with_reducible apply Lasts.foldl | (intro _ _ _) | with_reducible apply Lasts.ite | split | (intro _ _) | with_reducible apply Lasts.free | (with_reducible apply Lasts.upd <;> first | with_reducible rfl | with_reducible exact fun w => w | with_reducible exact fun _ w => w | with_reducible exact Nat.le_refl _ | skip)
  all_goals first | rfl | exact fun w => w | exact fun _ w => w | exact fun _ => rfl | exact fun _ _ => rfl | exact Nat.le_succ _ | exact fun w => Memory.foldl_wf 15 _ _ _ w | skip

theorem execTrvKeyUse_lasts (h : Hdr) (p : List Byte) {s t_ : State} (e_ : execTrvKeyUse h p s = .next t_) : Lasts true s t_ := by
  refine LastsEnds.elim ?_ e_
  clear e_
  unfold execTrvKeyUse
  try dsimp only
  repeat' first | with_reducible exact Lasts.refl _ _ | with_reducible assumption | with_reducible apply LastsEnds.next | with_reducible apply LastsEnds.ite | with_reducible apply hostCommand_lasts | with_reducible apply trvKeyUseCmd_lasts | with_reducible apply Lasts.foldl | (intro _ _ _) | with_reducible apply Lasts.ite | split | (intro _ _) | with_reducible apply Lasts.free | (with_reducible apply Lasts.upd <;> first | with_reducible rfl | with_reducible exact fun w => w | with_reducible exact fun _ w => w | with_reducible exact Nat.le_refl _ | skip)
  all_goals first | rfl | exact fun w => w | exact fun _ w => w | exact fun _ => rfl | exact fun _ _ => rfl | exact Nat.le_succ _ | exact fun w => Memory.foldl_wf 15 _ _ _ w | skip

theorem execTrvKeySwitch_lasts  {s t_ : State} (e_ : execTrvKeySwitch s = .next t_) : Lasts true s t_ := by
  refine LastsEnds.elim ?_ e_
  clear e_
  unfold execTrvKeySwitch
  try dsimp only
  repeat' first | with_reducible exact Lasts.refl _ _ | with_reducible assumption | with_reducible apply LastsEnds.next | with_reducible apply LastsEnds.ite | with_reducible apply Lasts.foldl | (intro _ _ _) | with_reducible apply Lasts.ite | split | (intro _ _) | with_reducible apply Lasts.free | (with_reducible apply Lasts.upd <;> first | with_reducible rfl | with_reducible exact fun w => w | with_reducible exact fun _ w => w | with_reducible exact Nat.le_refl _ | skip)
  all_goals first | rfl | exact fun w => w | exact fun _ w => w | exact fun _ => rfl | exact fun _ _ => rfl | exact Nat.le_succ _ | exact fun w => Memory.foldl_wf 15 _ _ _ w | skip

theorem execPollCycle_lasts (amplitudeMv : Nat) {s t_ : State} (e_ : execPollCycle amplitudeMv s = .next t_) : Lasts true s t_ := by
  refine LastsEnds.elim ?_ e_
  clear e_
  unfold execPollCycle
  try dsimp only
  repeat' first | with_reducible exact Lasts.refl _ _ | with_reducible assumption | with_reducible apply LastsEnds.next | with_reducible apply LastsEnds.ite | with_reducible apply readerStop_lasts | with_reducible apply antennaCheck_lasts | with_reducible apply requestField_lasts | with_reducible apply Lasts.foldl | (intro _ _ _) | with_reducible apply Lasts.ite | split | (intro _ _) | with_reducible apply Lasts.free | (with_reducible apply Lasts.upd <;> first | with_reducible rfl | with_reducible exact fun w => w | with_reducible exact fun _ w => w | with_reducible exact Nat.le_refl _ | skip)
  all_goals first | rfl | exact fun w => w | exact fun _ w => w | exact fun _ => rfl | exact fun _ _ => rfl | exact Nat.le_succ _ | exact fun w => Memory.foldl_wf 15 _ _ _ w | skip

theorem execReaderRoundEnd_lasts (cards : List Card) {s t_ : State} (e_ : execReaderRoundEnd cards s = .next t_) : Lasts true s t_ := by
  refine LastsEnds.elim ?_ e_
  clear e_
  unfold execReaderRoundEnd
  try dsimp only
  repeat' first | with_reducible exact Lasts.refl _ _ | with_reducible assumption | with_reducible apply LastsEnds.next | with_reducible apply LastsEnds.ite | with_reducible apply roundRemovals_lasts | with_reducible apply cardPresented_lasts | with_reducible apply event_lasts | with_reducible apply fieldOff_lasts | with_reducible apply Lasts.foldl | (intro _ _ _) | with_reducible apply Lasts.ite | split | (intro _ _) | with_reducible apply Lasts.free | (with_reducible apply Lasts.upd <;> first | with_reducible rfl | with_reducible exact fun w => w | with_reducible exact fun _ w => w | with_reducible exact Nat.le_refl _ | skip)
  all_goals first | rfl | exact fun w => w | exact fun _ w => w | exact fun _ => rfl | exact fun _ _ => rfl | exact Nat.le_succ _ | exact fun w => Memory.foldl_wf 15 _ _ _ w | skip

theorem execCardHoldTimeout_lasts  {s t_ : State} (e_ : execCardHoldTimeout s = .next t_) : Lasts true s t_ := by
  refine LastsEnds.elim ?_ e_
  clear e_
  unfold execCardHoldTimeout
  try dsimp only
  repeat' first | with_reducible exact Lasts.refl _ _ | with_reducible assumption | with_reducible apply LastsEnds.next | with_reducible apply LastsEnds.ite | with_reducible apply fieldOff_lasts | with_reducible apply Lasts.foldl | (intro _ _ _) | with_reducible apply Lasts.ite | split | (intro _ _) | with_reducible apply Lasts.free | (with_reducible apply Lasts.upd <;> first | with_reducible rfl | with_reducible exact fun w => w | with_reducible exact fun _ w => w | with_reducible exact Nat.le_refl _ | skip)
  all_goals first | rfl | exact fun w => w | exact fun _ w => w | exact fun _ => rfl | exact fun _ _ => rfl | exact Nat.le_succ _ | exact fun w => Memory.foldl_wf 15 _ _ _ w | skip

theorem execReaderLeaveRenew_lasts  {s t_ : State} (e_ : execReaderLeaveRenew s = .next t_) : Lasts true s t_ := by
  refine LastsEnds.elim ?_ e_
  clear e_
  unfold execReaderLeaveRenew
  try dsimp only
  repeat' first | with_reducible exact Lasts.refl _ _ | with_reducible assumption | with_reducible apply LastsEnds.next | with_reducible apply LastsEnds.ite | with_reducible apply requestField_lasts | with_reducible apply Lasts.foldl | (intro _ _ _) | with_reducible apply Lasts.ite | split | (intro _ _) | with_reducible apply Lasts.free | (with_reducible apply Lasts.upd <;> first | with_reducible rfl | with_reducible exact fun w => w | with_reducible exact fun _ w => w | with_reducible exact Nat.le_refl _ | skip)
  all_goals first | rfl | exact fun w => w | exact fun _ w => w | exact fun _ => rfl | exact fun _ _ => rfl | exact Nat.le_succ _ | exact fun w => Memory.foldl_wf 15 _ _ _ w | skip

theorem execCardApdu_lasts (h : Hdr) (p : List Byte) {s t_ : State} (e_ : execCardApdu h p s = .next t_) : Lasts true s t_ := by
  refine LastsEnds.elim ?_ e_
  clear e_
  unfold execCardApdu
  try dsimp only
  repeat' first | with_reducible exact Lasts.refl _ _ | with_reducible assumption | with_reducible apply LastsEnds.next | with_reducible apply LastsEnds.ite | with_reducible apply hostCommand_lasts | with_reducible apply cardApduCmd_lasts | with_reducible apply Lasts.foldl | (intro _ _ _) | with_reducible apply Lasts.ite | split | (intro _ _) | with_reducible apply Lasts.free | (with_reducible apply Lasts.upd <;> first | with_reducible rfl | with_reducible exact fun w => w | with_reducible exact fun _ w => w | with_reducible exact Nat.le_refl _ | skip)
  all_goals first | rfl | exact fun w => w | exact fun _ w => w | exact fun _ => rfl | exact fun _ _ => rfl | exact Nat.le_succ _ | exact fun w => Memory.foldl_wf 15 _ _ _ w | skip

theorem execCardApduDone_lasts (result : Nat) (response : List Byte) {s t_ : State} (e_ : execCardApduDone result response s = .next t_) : Lasts true s t_ := by
  refine LastsEnds.elim ?_ e_
  clear e_
  unfold execCardApduDone
  try dsimp only
  repeat' first | with_reducible exact Lasts.refl _ _ | with_reducible assumption | with_reducible apply LastsEnds.next | with_reducible apply LastsEnds.ite | with_reducible apply apduDone_lasts | with_reducible apply fieldOff_lasts | with_reducible apply Lasts.foldl | (intro _ _ _) | with_reducible apply Lasts.ite | split | (intro _ _) | with_reducible apply Lasts.free | (with_reducible apply Lasts.upd <;> first | with_reducible rfl | with_reducible exact fun w => w | with_reducible exact fun _ w => w | with_reducible exact Nat.le_refl _ | skip)
  all_goals first | rfl | exact fun w => w | exact fun _ w => w | exact fun _ => rfl | exact fun _ _ => rfl | exact Nat.le_succ _ | exact fun w => Memory.foldl_wf 15 _ _ _ w | skip

theorem execWtagSelect_lasts (aid : List Byte) {s t_ : State} (e_ : execWtagSelect aid s = .next t_) : Lasts true s t_ := by
  refine LastsEnds.elim ?_ e_
  clear e_
  unfold execWtagSelect
  try dsimp only
  repeat' first | with_reducible exact Lasts.refl _ _ | with_reducible assumption | with_reducible apply LastsEnds.next | with_reducible apply LastsEnds.ite | with_reducible apply tagAnswer_lasts | with_reducible apply Lasts.foldl | (intro _ _ _) | with_reducible apply Lasts.ite | split | (intro _ _) | with_reducible apply Lasts.free | (with_reducible apply Lasts.upd <;> first | with_reducible rfl | with_reducible exact fun w => w | with_reducible exact fun _ w => w | with_reducible exact Nat.le_refl _ | skip)
  all_goals first | rfl | exact fun w => w | exact fun _ w => w | exact fun _ => rfl | exact fun _ _ => rfl | exact Nat.le_succ _ | exact fun w => Memory.foldl_wf 15 _ _ _ w | skip

theorem execWtagReadBinary_lasts (block len : Nat) {s t_ : State} (e_ : execWtagReadBinary block len s = .next t_) : Lasts true s t_ := by
  refine LastsEnds.elim ?_ e_
  clear e_
  unfold execWtagReadBinary
  try dsimp only
  repeat' first | with_reducible exact Lasts.refl _ _ | with_reducible assumption | with_reducible apply LastsEnds.next | with_reducible apply LastsEnds.ite | with_reducible apply tagAnswer_lasts | with_reducible apply Lasts.foldl | (intro _ _ _) | with_reducible apply Lasts.ite | split | (intro _ _) | with_reducible apply Lasts.free | (with_reducible apply Lasts.upd <;> first | with_reducible rfl | with_reducible exact fun w => w | with_reducible exact fun _ w => w | with_reducible exact Nat.le_refl _ | skip)
  all_goals first | rfl | exact fun w => w | exact fun _ w => w | exact fun _ => rfl | exact fun _ _ => rfl | exact Nat.le_succ _ | exact fun w => Memory.foldl_wf 15 _ _ _ w | skip

theorem execGetLiveStatus_lasts (len harvestMv : Nat) {s t_ : State} (e_ : execGetLiveStatus len harvestMv s = .next t_) : Lasts true s t_ := by
  refine LastsEnds.elim ?_ e_
  clear e_
  unfold execGetLiveStatus
  try dsimp only
  repeat' first | with_reducible exact Lasts.refl _ _ | with_reducible assumption | with_reducible apply LastsEnds.next | with_reducible apply LastsEnds.ite | with_reducible apply tagAnswer_lasts | with_reducible apply Lasts.foldl | (intro _ _ _) | with_reducible apply Lasts.ite | split | (intro _ _) | with_reducible apply Lasts.free | (with_reducible apply Lasts.upd <;> first | with_reducible rfl | with_reducible exact fun w => w | with_reducible exact fun _ w => w | with_reducible exact Nat.le_refl _ | skip)
  all_goals first | rfl | exact fun w => w | exact fun _ w => w | exact fun _ => rfl | exact fun _ _ => rfl | exact Nat.le_succ _ | exact fun w => Memory.foldl_wf 15 _ _ _ w | skip

theorem execAppendNote_lasts (harvestMv reserveMv : Nat) (data : List Byte) (lastStep : Nat) {s t_ : State} (e_ : execAppendNote harvestMv reserveMv data lastStep s = .next t_) : Lasts true s t_ := by
  refine LastsEnds.elim ?_ e_
  clear e_
  unfold execAppendNote
  try dsimp only
  repeat' first | with_reducible exact Lasts.refl _ _ | with_reducible assumption | with_reducible apply LastsEnds.next | with_reducible apply LastsEnds.ite | with_reducible apply tagAnswer_lasts | with_reducible apply appendSteps_lasts | with_reducible apply Lasts.foldl | (intro _ _ _) | with_reducible apply Lasts.ite | split | (intro _ _) | with_reducible apply Lasts.free | (with_reducible apply Lasts.upd <;> first | with_reducible rfl | with_reducible exact fun w => w | with_reducible exact fun _ w => w | with_reducible exact Nat.le_refl _ | skip)
  all_goals first | rfl | exact fun w => w | exact fun _ w => w | exact fun _ => rfl | exact fun _ _ => rfl | exact Nat.le_succ _ | exact fun w => Memory.foldl_wf 15 _ _ _ w | skip

theorem execWtagFieldChange_lasts (present : Bool) (harvestMv : Nat) {s t_ : State} (e_ : execWtagFieldChange present harvestMv s = .next t_) : Lasts true s t_ := by
  refine LastsEnds.elim ?_ e_
  clear e_
  unfold execWtagFieldChange
  try dsimp only
  repeat' first | with_reducible exact Lasts.refl _ _ | with_reducible assumption | with_reducible apply LastsEnds.next | with_reducible apply LastsEnds.ite | with_reducible apply Lasts.foldl | (intro _ _ _) | with_reducible apply Lasts.ite | split | (intro _ _) | with_reducible apply Lasts.free | (with_reducible apply Lasts.upd <;> first | with_reducible rfl | with_reducible exact fun w => w | with_reducible exact fun _ w => w | with_reducible exact Nat.le_refl _ | skip)
  all_goals first | rfl | exact fun w => w | exact fun _ w => w | exact fun _ => rfl | exact fun _ _ => rfl | exact Nat.le_succ _ | exact fun w => Memory.foldl_wf 15 _ _ _ w | skip

theorem execVisitNoteImport_lasts  {s t_ : State} (e_ : execVisitNoteImport s = .next t_) : Lasts true s t_ := by
  refine LastsEnds.elim ?_ e_
  clear e_
  unfold execVisitNoteImport
  try dsimp only
  repeat' first | with_reducible exact Lasts.refl _ _ | with_reducible assumption | with_reducible apply LastsEnds.next | with_reducible apply LastsEnds.ite | with_reducible apply requestImport_lasts | with_reducible apply Lasts.foldl | (intro _ _ _) | with_reducible apply Lasts.ite | split | (intro _ _) | with_reducible apply Lasts.free | (with_reducible apply Lasts.upd <;> first | with_reducible rfl | with_reducible exact fun w => w | with_reducible exact fun _ w => w | with_reducible exact Nat.le_refl _ | skip)
  all_goals first | rfl | exact fun w => w | exact fun _ w => w | exact fun _ => rfl | exact fun _ _ => rfl | exact Nat.le_succ _ | exact fun w => Memory.foldl_wf 15 _ _ _ w | skip

theorem execTotalsSnapshot_lasts (waitUs : Nat) {s t_ : State} (e_ : execTotalsSnapshot waitUs s = .next t_) : Lasts true s t_ := by
  refine LastsEnds.elim ?_ e_
  clear e_
  unfold execTotalsSnapshot
  try dsimp only
  repeat' first | with_reducible exact Lasts.refl _ _ | with_reducible assumption | with_reducible apply LastsEnds.next | with_reducible apply LastsEnds.ite | with_reducible apply writeTotals_lasts | with_reducible apply Lasts.foldl | (intro _ _ _) | with_reducible apply Lasts.ite | split | (intro _ _) | with_reducible apply Lasts.free | (with_reducible apply Lasts.upd <;> first | with_reducible rfl | with_reducible exact fun w => w | with_reducible exact fun _ w => w | with_reducible exact Nat.le_refl _ | skip)
  all_goals first | rfl | exact fun w => w | exact fun _ w => w | exact fun _ => rfl | exact fun _ _ => rfl | exact Nat.le_succ _ | exact fun w => Memory.foldl_wf 15 _ _ _ w | skip

theorem execDisplayRequestRetry_lasts (rect : Nat) {s t_ : State} (e_ : execDisplayRequestRetry rect s = .next t_) : Lasts true s t_ := by
  refine LastsEnds.elim ?_ e_
  clear e_
  unfold execDisplayRequestRetry
  try dsimp only
  repeat' first | with_reducible exact Lasts.refl _ _ | with_reducible assumption | with_reducible apply LastsEnds.next | with_reducible apply LastsEnds.ite | with_reducible apply serveQueue_lasts | with_reducible apply updQueue_lasts | with_reducible apply Lasts.foldl | (intro _ _ _) | with_reducible apply Lasts.ite | split | (intro _ _) | with_reducible apply Lasts.free | (with_reducible apply Lasts.upd <;> first | with_reducible rfl | with_reducible exact fun w => w | with_reducible exact fun _ w => w | with_reducible exact Nat.le_refl _ | skip)
  all_goals first | rfl | exact fun w => w | exact fun _ w => w | exact fun _ => rfl | exact fun _ _ => rfl | exact Nat.le_succ _ | exact fun w => Memory.foldl_wf 15 _ _ _ w | skip

theorem execRailStartDone_lasts  {s t_ : State} (e_ : execRailStartDone s = .next t_) : Lasts true s t_ := by
  refine LastsEnds.elim ?_ e_
  clear e_
  unfold execRailStartDone
  try dsimp only
  repeat' first | with_reducible exact Lasts.refl _ _ | with_reducible assumption | with_reducible apply LastsEnds.next | with_reducible apply LastsEnds.ite | with_reducible apply updDisp_lasts | with_reducible apply Lasts.foldl | (intro _ _ _) | with_reducible apply Lasts.ite | split | (intro _ _) | with_reducible apply Lasts.free | (with_reducible apply Lasts.upd <;> first | with_reducible rfl | with_reducible exact fun w => w | with_reducible exact fun _ w => w | with_reducible exact Nat.le_refl _ | skip)
  all_goals first | rfl | exact fun w => w | exact fun _ w => w | exact fun _ => rfl | exact fun _ _ => rfl | exact Nat.le_succ _ | exact fun w => Memory.foldl_wf 15 _ _ _ w | skip

theorem execRailFeedbackTimeout_lasts (rail : Nat) {s t_ : State} (e_ : execRailFeedbackTimeout rail s = .next t_) : Lasts true s t_ := by
  refine LastsEnds.elim ?_ e_
  clear e_
  unfold execRailFeedbackTimeout
  try dsimp only
  repeat' first | with_reducible exact Lasts.refl _ _ | with_reducible assumption | with_reducible apply LastsEnds.next | with_reducible apply LastsEnds.ite | with_reducible apply lowerRails_lasts | with_reducible apply updDisp_lasts | with_reducible apply abandonAll_lasts | with_reducible apply displayFault_lasts | with_reducible apply Lasts.foldl | (intro _ _ _) | with_reducible apply Lasts.ite | split | (intro _ _) | with_reducible apply Lasts.free | (with_reducible apply Lasts.upd <;> first | with_reducible rfl | with_reducible exact fun w => w | with_reducible exact fun _ w => w | with_reducible exact Nat.le_refl _ | skip)
  all_goals first | rfl | exact fun w => w | exact fun _ w => w | exact fun _ => rfl | exact fun _ _ => rfl | exact Nat.le_succ _ | exact fun w => Memory.foldl_wf 15 _ _ _ w | skip

theorem execRailRetry_lasts  {s t_ : State} (e_ : execRailRetry s = .next t_) : Lasts true s t_ := by
  refine LastsEnds.elim ?_ e_
  clear e_
  unfold execRailRetry
  try dsimp only
  repeat' first | with_reducible exact Lasts.refl _ _ | with_reducible assumption | with_reducible apply LastsEnds.next | with_reducible apply LastsEnds.ite | with_reducible apply startRails_lasts | with_reducible apply updDisp_lasts | with_reducible apply Lasts.foldl | (intro _ _ _) | with_reducible apply Lasts.ite | split | (intro _ _) | with_reducible apply Lasts.free | (with_reducible apply Lasts.upd <;> first | with_reducible rfl | with_reducible exact fun w => w | with_reducible exact fun _ w => w | with_reducible exact Nat.le_refl _ | skip)
  all_goals first | rfl | exact fun w => w | exact fun _ w => w | exact fun _ => rfl | exact fun _ _ => rfl | exact Nat.le_succ _ | exact fun w => Memory.foldl_wf 15 _ _ _ w | skip

theorem execRailFallStart_lasts  {s t_ : State} (e_ : execRailFallStart s = .next t_) : Lasts true s t_ := by
  refine LastsEnds.elim ?_ e_
  clear e_
  unfold execRailFallStart
  try dsimp only
  repeat' first | with_reducible exact Lasts.refl _ _ | with_reducible assumption | with_reducible apply LastsEnds.next | with_reducible apply LastsEnds.ite | with_reducible apply lowerRails_lasts | with_reducible apply Lasts.foldl | (intro _ _ _) | with_reducible apply Lasts.ite | split | (intro _ _) | with_reducible apply Lasts.free | (with_reducible apply Lasts.upd <;> first | with_reducible rfl | with_reducible exact fun w => w | with_reducible exact fun _ w => w | with_reducible exact Nat.le_refl _ | skip)
  all_goals first | rfl | exact fun w => w | exact fun _ w => w | exact fun _ => rfl | exact fun _ _ => rfl | exact Nat.le_succ _ | exact fun w => Memory.foldl_wf 15 _ _ _ w | skip

theorem execRailFallDone_lasts  {s t_ : State} (e_ : execRailFallDone s = .next t_) : Lasts true s t_ := by
  refine LastsEnds.elim ?_ e_
  clear e_
  unfold execRailFallDone
  try dsimp only
  repeat' first | with_reducible exact Lasts.refl _ _ | with_reducible assumption | with_reducible apply LastsEnds.next | with_reducible apply LastsEnds.ite | with_reducible apply startRails_lasts | with_reducible apply updDisp_lasts | with_reducible apply Lasts.foldl | (intro _ _ _) | with_reducible apply Lasts.ite | split | (intro _ _) | with_reducible apply Lasts.free | (with_reducible apply Lasts.upd <;> first | with_reducible rfl | with_reducible exact fun w => w | with_reducible exact fun _ w => w | with_reducible exact Nat.le_refl _ | skip)
  all_goals first | rfl | exact fun w => w | exact fun _ w => w | exact fun _ => rfl | exact fun _ _ => rfl | exact Nat.le_succ _ | exact fun w => Memory.foldl_wf 15 _ _ _ w | skip

theorem execPanelTempReading_lasts (temp : Int) {s t_ : State} (e_ : execPanelTempReading temp s = .next t_) : Lasts true s t_ := by
  refine LastsEnds.elim ?_ e_
  clear e_
  unfold execPanelTempReading
  try dsimp only
  repeat' first | with_reducible exact Lasts.refl _ _ | with_reducible assumption | with_reducible apply LastsEnds.next | with_reducible apply LastsEnds.ite | with_reducible apply serveQueue_lasts | with_reducible apply panelTemp_lasts | with_reducible apply Lasts.foldl | (intro _ _ _) | with_reducible apply Lasts.ite | split | (intro _ _) | with_reducible apply Lasts.free | (with_reducible apply Lasts.upd <;> first | with_reducible rfl | with_reducible exact fun w => w | with_reducible exact fun _ w => w | with_reducible exact Nat.le_refl _ | skip)
  all_goals first | rfl | exact fun w => w | exact fun _ w => w | exact fun _ => rfl | exact fun _ _ => rfl | exact Nat.le_succ _ | exact fun w => Memory.foldl_wf 15 _ _ _ w | skip

theorem execScanStart_lasts (temp : Int) (crackOhm : Nat) {s t_ : State} (e_ : execScanStart temp crackOhm s = .next t_) : Lasts true s t_ := by
  refine LastsEnds.elim ?_ e_
  clear e_
  unfold execScanStart
  try dsimp only
  repeat' first | with_reducible exact Lasts.refl _ _ | with_reducible assumption | with_reducible apply LastsEnds.next | with_reducible apply LastsEnds.ite | with_reducible apply updDisp_lasts | with_reducible apply panelTemp_lasts | with_reducible apply joinFrom_lasts | with_reducible apply Lasts.foldl | (intro _ _ _) | with_reducible apply Lasts.ite | split | (intro _ _) | with_reducible apply Lasts.free | (with_reducible apply Lasts.upd <;> first | with_reducible rfl | with_reducible exact fun w => w | with_reducible exact fun _ w => w | with_reducible exact Nat.le_refl _ | skip)
  all_goals first | rfl | exact fun w => w | exact fun _ w => w | exact fun _ => rfl | exact fun _ _ => rfl | exact Nat.le_succ _ | exact fun w => Memory.foldl_wf 15 _ _ _ w | skip

theorem execWaveformEnd_lasts (rect : Nat) {s t_ : State} (e_ : execWaveformEnd rect s = .next t_) : Lasts true s t_ := by
  refine LastsEnds.elim ?_ e_
  clear e_
  unfold execWaveformEnd
  try dsimp only
  repeat' first | with_reducible exact Lasts.refl _ _ | with_reducible assumption | with_reducible apply LastsEnds.next | with_reducible apply LastsEnds.ite | with_reducible apply updDisp_lasts | with_reducible apply releaseOpt_lasts | with_reducible apply queueHead_lasts | with_reducible apply displayDone_lasts | with_reducible apply priceCheck_lasts | with_reducible apply appRetire_lasts | with_reducible apply serveQueue_lasts | with_reducible apply serveLight_lasts | with_reducible apply Lasts.foldl | (intro _ _ _) | with_reducible apply Lasts.ite | split | (intro _ _) | with_reducible apply Lasts.free | (with_reducible apply Lasts.upd <;> first | with_reducible rfl | with_reducible exact fun w => w | with_reducible exact fun _ w => w | with_reducible exact Nat.le_refl _ | skip)
  all_goals first | rfl | exact fun w => w | exact fun _ w => w | exact fun _ => rfl | exact fun _ _ => rfl | exact Nat.le_succ _ | exact fun w => Memory.foldl_wf 15 _ _ _ w | skip

theorem execCrackCheck_lasts (ohm10 ohm10b : Nat) {s t_ : State} (e_ : execCrackCheck ohm10 ohm10b s = .next t_) : Lasts true s t_ := by
  refine LastsEnds.elim ?_ e_
  clear e_
  unfold execCrackCheck
  try dsimp only
  repeat' first | with_reducible exact Lasts.refl _ _ | with_reducible assumption | with_reducible apply LastsEnds.next | with_reducible apply LastsEnds.ite | with_reducible apply updDisp_lasts | with_reducible apply crackFound_lasts | with_reducible apply requestPrice_lasts | with_reducible apply displayFault_lasts | with_reducible apply Lasts.foldl | (intro _ _ _) | with_reducible apply Lasts.ite | split | (intro _ _) | with_reducible apply Lasts.free | (with_reducible apply Lasts.upd <;> first | with_reducible rfl | with_reducible exact fun w => w | with_reducible exact fun _ w => w | with_reducible exact Nat.le_refl _ | skip)
  all_goals first | rfl | exact fun w => w | exact fun _ w => w | exact fun _ => rfl | exact fun _ _ => rfl | exact Nat.le_succ _ | exact fun w => Memory.foldl_wf 15 _ _ _ w | skip

theorem execAonRefresh_lasts  {s t_ : State} (e_ : execAonRefresh s = .next t_) : Lasts true s t_ := by
  refine LastsEnds.elim ?_ e_
  clear e_
  unfold execAonRefresh
  try dsimp only
  repeat' first | with_reducible exact Lasts.refl _ _ | with_reducible assumption | with_reducible apply LastsEnds.next | with_reducible apply LastsEnds.ite | with_reducible apply queueAon_lasts | with_reducible apply updDisp_lasts | with_reducible apply Lasts.foldl | (intro _ _ _) | with_reducible apply Lasts.ite | split | (intro _ _) | with_reducible apply Lasts.free | (with_reducible apply Lasts.upd <;> first | with_reducible rfl | with_reducible exact fun w => w | with_reducible exact fun _ w => w | with_reducible exact Nat.le_refl _ | skip)
  all_goals first | rfl | exact fun w => w | exact fun _ w => w | exact fun _ => rfl | exact fun _ _ => rfl | exact Nat.le_succ _ | exact fun w => Memory.foldl_wf 15 _ _ _ w | skip

theorem execBenchmarkTotalsRedraw_lasts  {s t_ : State} (e_ : execBenchmarkTotalsRedraw s = .next t_) : Lasts true s t_ := by
  refine LastsEnds.elim ?_ e_
  clear e_
  unfold execBenchmarkTotalsRedraw
  try dsimp only
  repeat' first | with_reducible exact Lasts.refl _ _ | with_reducible assumption | with_reducible apply LastsEnds.next | with_reducible apply LastsEnds.ite | with_reducible apply drawTotals_lasts | with_reducible apply Lasts.foldl | (intro _ _ _) | with_reducible apply Lasts.ite | split | (intro _ _) | with_reducible apply Lasts.free | (with_reducible apply Lasts.upd <;> first | with_reducible rfl | with_reducible exact fun w => w | with_reducible exact fun _ w => w | with_reducible exact Nat.le_refl _ | skip)
  all_goals first | rfl | exact fun w => w | exact fun _ w => w | exact fun _ => rfl | exact fun _ _ => rfl | exact Nat.le_succ _ | exact fun w => Memory.foldl_wf 15 _ _ _ w | skip

theorem execDisplayWrite_lasts (h : Hdr) (p : List Byte) {s t_ : State} (e_ : execDisplayWrite h p s = .next t_) : Lasts true s t_ := by
  refine LastsEnds.elim ?_ e_
  clear e_
  unfold execDisplayWrite
  try dsimp only
  repeat' first | with_reducible exact Lasts.refl _ _ | with_reducible assumption | with_reducible apply LastsEnds.next | with_reducible apply LastsEnds.ite | with_reducible apply hostCommand_lasts | with_reducible apply displayWriteCmd_lasts | with_reducible apply Lasts.foldl | (intro _ _ _) | with_reducible apply Lasts.ite | split | (intro _ _) | with_reducible apply Lasts.free | (with_reducible apply Lasts.upd <;> first | with_reducible rfl | with_reducible exact fun w => w | with_reducible exact fun _ w => w | with_reducible exact Nat.le_refl _ | skip)
  all_goals first | rfl | exact fun w => w | exact fun _ w => w | exact fun _ => rfl | exact fun _ _ => rfl | exact Nat.le_succ _ | exact fun w => Memory.foldl_wf 15 _ _ _ w | skip

theorem execDisplayUpdate_lasts (h : Hdr) (p : List Byte) {s t_ : State} (e_ : execDisplayUpdate h p s = .next t_) : Lasts true s t_ := by
  refine LastsEnds.elim ?_ e_
  clear e_
  unfold execDisplayUpdate
  try dsimp only
  repeat' first | with_reducible exact Lasts.refl _ _ | with_reducible assumption | with_reducible apply LastsEnds.next | with_reducible apply LastsEnds.ite | with_reducible apply hostCommand_lasts | with_reducible apply displayUpdateCmd_lasts | with_reducible apply Lasts.foldl | (intro _ _ _) | with_reducible apply Lasts.ite | split | (intro _ _) | with_reducible apply Lasts.free | (with_reducible apply Lasts.upd <;> first | with_reducible rfl | with_reducible exact fun w => w | with_reducible exact fun _ w => w | with_reducible exact Nat.le_refl _ | skip)
  all_goals first | rfl | exact fun w => w | exact fun _ w => w | exact fun _ => rfl | exact fun _ _ => rfl | exact Nat.le_succ _ | exact fun w => Memory.foldl_wf 15 _ _ _ w | skip

theorem execDisplayLight_lasts (h : Hdr) (p : List Byte) {s t_ : State} (e_ : execDisplayLight h p s = .next t_) : Lasts true s t_ := by
  refine LastsEnds.elim ?_ e_
  clear e_
  unfold execDisplayLight
  try dsimp only
  repeat' first | with_reducible exact Lasts.refl _ _ | with_reducible assumption | with_reducible apply LastsEnds.next | with_reducible apply LastsEnds.ite | with_reducible apply hostCommand_lasts | with_reducible apply displayLightCmd_lasts | with_reducible apply Lasts.foldl | (intro _ _ _) | with_reducible apply Lasts.ite | split | (intro _ _) | with_reducible apply Lasts.free | (with_reducible apply Lasts.upd <;> first | with_reducible rfl | with_reducible exact fun w => w | with_reducible exact fun _ w => w | with_reducible exact Nat.le_refl _ | skip)
  all_goals first | rfl | exact fun w => w | exact fun _ w => w | exact fun _ => rfl | exact fun _ _ => rfl | exact Nat.le_succ _ | exact fun w => Memory.foldl_wf 15 _ _ _ w | skip

theorem execWfLoad_lasts (h : Hdr) (p : List Byte) {s t_ : State} (e_ : execWfLoad h p s = .next t_) : Lasts true s t_ := by
  refine LastsEnds.elim ?_ e_
  clear e_
  unfold execWfLoad
  try dsimp only
  repeat' first | with_reducible exact Lasts.refl _ _ | with_reducible assumption | with_reducible apply LastsEnds.next | with_reducible apply LastsEnds.ite | with_reducible apply hostCommand_lasts | with_reducible apply wfLoadCmd_lasts | with_reducible apply Lasts.foldl | (intro _ _ _) | with_reducible apply Lasts.ite | split | (intro _ _) | with_reducible apply Lasts.free | (with_reducible apply Lasts.upd <;> first | with_reducible rfl | with_reducible exact fun w => w | with_reducible exact fun _ w => w | with_reducible exact Nat.le_refl _ | skip)
  all_goals first | rfl | exact fun w => w | exact fun _ w => w | exact fun _ => rfl | exact fun _ _ => rfl | exact Nat.le_succ _ | exact fun w => Memory.foldl_wf 15 _ _ _ w | skip

theorem execLogPageProgram_lasts (ok : Bool) {s t_ : State} (e_ : execLogPageProgram ok s = .next t_) : Lasts true s t_ := by
  refine LastsEnds.elim ?_ e_
  clear e_
  unfold execLogPageProgram
  try dsimp only
  repeat' first | with_reducible exact Lasts.refl _ _ | with_reducible assumption | with_reducible apply LastsEnds.next | with_reducible apply LastsEnds.ite | with_reducible apply signedRetire_lasts | with_reducible apply retireBlock_lasts | with_reducible apply Lasts.foldl | (intro _ _ _) | with_reducible apply Lasts.ite | split | (intro _ _) | with_reducible apply Lasts.free | (with_reducible apply Lasts.upd <;> first | with_reducible rfl | with_reducible exact fun w => w | with_reducible exact fun _ w => w | with_reducible exact Nat.le_refl _ | skip)
  all_goals first | rfl | exact fun w => w | exact fun _ w => w | exact fun _ => rfl | exact fun _ _ => rfl | exact Nat.le_succ _ | exact fun w => Memory.foldl_wf 15 _ _ _ w | skip

theorem execReclaimStart_lasts (refreshSegment : Option Nat) {s t_ : State} (e_ : execReclaimStart refreshSegment s = .next t_) : Lasts true s t_ := by
  refine LastsEnds.elim ?_ e_
  clear e_
  unfold execReclaimStart
  try dsimp only
  repeat' first | with_reducible exact Lasts.refl _ _ | with_reducible assumption | with_reducible apply LastsEnds.next | with_reducible apply LastsEnds.ite | with_reducible apply journalApp_lasts | with_reducible apply updStore_lasts | with_reducible apply Lasts.foldl | (intro _ _ _) | with_reducible apply Lasts.ite | split | (intro _ _) | with_reducible apply Lasts.free | (with_reducible apply Lasts.upd <;> first | with_reducible rfl | with_reducible exact fun w => w | with_reducible exact fun _ w => w | with_reducible exact Nat.le_refl _ | skip)
  all_goals first | rfl | exact fun w => w | exact fun _ w => w | exact fun _ => rfl | exact fun _ _ => rfl | exact Nat.le_succ _ | exact fun w => Memory.foldl_wf 15 _ _ _ w | skip

theorem execReclaimStepDone_lasts (ok : Bool) {s t_ : State} (e_ : execReclaimStepDone ok s = .next t_) : Lasts true s t_ := by
  refine LastsEnds.elim ?_ e_
  clear e_
  unfold execReclaimStepDone
  try dsimp only
  repeat' first | with_reducible exact Lasts.refl _ _ | with_reducible assumption | with_reducible apply LastsEnds.next | with_reducible apply LastsEnds.ite | with_reducible apply reclaimStep_lasts | with_reducible apply Lasts.foldl | (intro _ _ _) | with_reducible apply Lasts.ite | split | (intro _ _) | with_reducible apply Lasts.free | (with_reducible apply Lasts.upd <;> first | with_reducible rfl | with_reducible exact fun w => w | with_reducible exact fun _ w => w | with_reducible exact Nat.le_refl _ | skip)
  all_goals first | rfl | exact fun w => w | exact fun _ w => w | exact fun _ => rfl | exact fun _ _ => rfl | exact Nat.le_succ _ | exact fun w => Memory.foldl_wf 15 _ _ _ w | skip

theorem execNandBlockRefresh_lasts (partition block : Nat) (uncorrectable : Bool) {s t_ : State} (e_ : execNandBlockRefresh partition block uncorrectable s = .next t_) : Lasts true s t_ := by
  refine LastsEnds.elim ?_ e_
  clear e_
  unfold execNandBlockRefresh
  try dsimp only
  repeat' first | with_reducible exact Lasts.refl _ _ | with_reducible assumption | with_reducible apply LastsEnds.next | with_reducible apply LastsEnds.ite | with_reducible apply retireBlock_lasts | with_reducible apply storageFault_lasts | with_reducible apply updStore_lasts | with_reducible apply askErase_lasts | with_reducible apply State.drawFree_lasts | with_reducible apply Lasts.foldl | (intro _ _ _) | with_reducible apply Lasts.ite | split | (intro _ _) | with_reducible apply Lasts.free | (with_reducible apply Lasts.upd <;> first | with_reducible rfl | with_reducible exact fun w => w | with_reducible exact fun _ w => w | with_reducible exact Nat.le_refl _ | skip)
  all_goals first | rfl | exact fun w => w | exact fun _ w => w | exact fun _ => rfl | exact fun _ _ => rfl | exact Nat.le_succ _ | exact fun w => Memory.foldl_wf 15 _ _ _ w | skip

theorem execImageActivate_lasts (h : Hdr) (p : List Byte) {s t_ : State} (e_ : execImageActivate h p s = .next t_) : Lasts true s t_ := by
  refine LastsEnds.elim ?_ e_
  clear e_
  unfold execImageActivate
  try dsimp only
  repeat' first | with_reducible exact Lasts.refl _ _ | with_reducible assumption | with_reducible apply LastsEnds.next | with_reducible apply LastsEnds.ite | with_reducible apply hostCommand_lasts | with_reducible apply imageActivateCmd_lasts | with_reducible apply Lasts.foldl | (intro _ _ _) | with_reducible apply Lasts.ite | split | (intro _ _) | with_reducible apply Lasts.free | (with_reducible apply Lasts.upd <;> first | with_reducible rfl | with_reducible exact fun w => w | with_reducible exact fun _ w => w | with_reducible exact Nat.le_refl _ | skip)
  all_goals first | rfl | exact fun w => w | exact fun _ w => w | exact fun _ => rfl | exact fun _ _ => rfl | exact Nat.le_succ _ | exact fun w => Memory.foldl_wf 15 _ _ _ w | skip

theorem execConfirmImage_lasts (h : Hdr) (p : List Byte) {s t_ : State} (e_ : execConfirmImage h p s = .next t_) : Lasts true s t_ := by
  refine LastsEnds.elim ?_ e_
  clear e_
  unfold execConfirmImage
  try dsimp only
  repeat' first | with_reducible exact Lasts.refl _ _ | with_reducible assumption | with_reducible apply LastsEnds.next | with_reducible apply LastsEnds.ite | with_reducible apply hostCommand_lasts | with_reducible apply confirmImageCmd_lasts | with_reducible apply Lasts.foldl | (intro _ _ _) | with_reducible apply Lasts.ite | split | (intro _ _) | with_reducible apply Lasts.free | (with_reducible apply Lasts.upd <;> first | with_reducible rfl | with_reducible exact fun w => w | with_reducible exact fun _ w => w | with_reducible exact Nat.le_refl _ | skip)
  all_goals first | rfl | exact fun w => w | exact fun _ w => w | exact fun _ => rfl | exact fun _ _ => rfl | exact Nat.le_succ _ | exact fun w => Memory.foldl_wf 15 _ _ _ w | skip

theorem execUpdateStart_lasts (h : Hdr) (p : List Byte) {s t_ : State} (e_ : execUpdateStart h p s = .next t_) : Lasts true s t_ := by
  refine LastsEnds.elim ?_ e_
  clear e_
  unfold execUpdateStart
  try dsimp only
  repeat' first | with_reducible exact Lasts.refl _ _ | with_reducible assumption | with_reducible apply LastsEnds.next | with_reducible apply LastsEnds.ite | with_reducible apply hostCommand_lasts | with_reducible apply updateStartCmd_lasts | with_reducible apply Lasts.foldl | (intro _ _ _) | with_reducible apply Lasts.ite | split | (intro _ _) | with_reducible apply Lasts.free | (with_reducible apply Lasts.upd <;> first | with_reducible rfl | with_reducible exact fun w => w | with_reducible exact fun _ w => w | with_reducible exact Nat.le_refl _ | skip)
  all_goals first | rfl | exact fun w => w | exact fun _ w => w | exact fun _ => rfl | exact fun _ _ => rfl | exact Nat.le_succ _ | exact fun w => Memory.foldl_wf 15 _ _ _ w | skip

theorem execStagingSlotReady_lasts  {s t_ : State} (e_ : execStagingSlotReady s = .next t_) : Lasts true s t_ := by
  refine LastsEnds.elim ?_ e_
  clear e_
  unfold execStagingSlotReady
  try dsimp only
  repeat' first | with_reducible exact Lasts.refl _ _ | with_reducible assumption | with_reducible apply LastsEnds.next | with_reducible apply LastsEnds.ite | with_reducible apply updateProgressEvent_lasts | with_reducible apply updChain_lasts | with_reducible apply sendAnswer_lasts | with_reducible apply Lasts.foldl | (intro _ _ _) | with_reducible apply Lasts.ite | split | (intro _ _) | with_reducible apply Lasts.free | (with_reducible apply Lasts.upd <;> first | with_reducible rfl | with_reducible exact fun w => w | with_reducible exact fun _ w => w | with_reducible exact Nat.le_refl _ | skip)
  all_goals first | rfl | exact fun w => w | exact fun _ w => w | exact fun _ => rfl | exact fun _ _ => rfl | exact Nat.le_succ _ | exact fun w => Memory.foldl_wf 15 _ _ _ w | skip

theorem execUpdateData_lasts (h : Hdr) (p : List Byte) {s t_ : State} (e_ : execUpdateData h p s = .next t_) : Lasts true s t_ := by
  refine LastsEnds.elim ?_ e_
  clear e_
  unfold execUpdateData
  try dsimp only
  repeat' first | with_reducible exact Lasts.refl _ _ | with_reducible assumption | with_reducible apply LastsEnds.next | with_reducible apply LastsEnds.ite | with_reducible apply hostCommand_lasts | with_reducible apply updateDataCmd_lasts | with_reducible apply Lasts.foldl | (intro _ _ _) | with_reducible apply Lasts.ite | split | (intro _ _) | with_reducible apply Lasts.free | (with_reducible apply Lasts.upd <;> first | with_reducible rfl | with_reducible exact fun w => w | with_reducible exact fun _ w => w | with_reducible exact Nat.le_refl _ | skip)
  all_goals first | rfl | exact fun w => w | exact fun _ w => w | exact fun _ => rfl | exact fun _ _ => rfl | exact Nat.le_succ _ | exact fun w => Memory.foldl_wf 15 _ _ _ w | skip

theorem execUpdateAbort_lasts (h : Hdr) (p : List Byte) {s t_ : State} (e_ : execUpdateAbort h p s = .next t_) : Lasts true s t_ := by
  refine LastsEnds.elim ?_ e_
  clear e_
  unfold execUpdateAbort
  try dsimp only
  repeat' first | with_reducible exact Lasts.refl _ _ | with_reducible assumption | with_reducible apply LastsEnds.next | with_reducible apply LastsEnds.ite | with_reducible apply hostCommand_lasts | with_reducible apply updateAbortCmd_lasts | with_reducible apply Lasts.foldl | (intro _ _ _) | with_reducible apply Lasts.ite | split | (intro _ _) | with_reducible apply Lasts.free | (with_reducible apply Lasts.upd <;> first | with_reducible rfl | with_reducible exact fun w => w | with_reducible exact fun _ w => w | with_reducible exact Nat.le_refl _ | skip)
  all_goals first | rfl | exact fun w => w | exact fun _ w => w | exact fun _ => rfl | exact fun _ _ => rfl | exact Nat.le_succ _ | exact fun w => Memory.foldl_wf 15 _ _ _ w | skip

theorem execChainOffer_lasts (src origin : Nat) (header : List Byte) (nodes : List Nat) (position : Nat) {s t_ : State} (e_ : execChainOffer src origin header nodes position s = .next t_) : Lasts true s t_ := by
  refine LastsEnds.elim ?_ e_
  clear e_
  unfold execChainOffer
  try dsimp only
  repeat' first | with_reducible exact Lasts.refl _ _ | with_reducible assumption | with_reducible apply LastsEnds.next | with_reducible apply LastsEnds.ite | with_reducible apply refuseOffer_lasts | with_reducible apply resumeOffer_lasts | with_reducible apply sendOffer_lasts | with_reducible apply beginStaging_lasts | with_reducible apply Lasts.foldl | (intro _ _ _) | with_reducible apply Lasts.ite | split | (intro _ _) | with_reducible apply Lasts.free | (with_reducible apply Lasts.upd <;> first | with_reducible rfl | with_reducible exact fun w => w | with_reducible exact fun _ w => w | with_reducible exact Nat.le_refl _ | skip)
  all_goals first | rfl | exact fun w => w | exact fun _ w => w | exact fun _ => rfl | exact fun _ _ => rfl | exact Nat.le_succ _ | exact fun w => Memory.foldl_wf 15 _ _ _ w | skip

theorem execChainAnswer_lasts (src imageId result firstBlock : Nat) {s t_ : State} (e_ : execChainAnswer src imageId result firstBlock s = .next t_) : Lasts true s t_ := by
  refine LastsEnds.elim ?_ e_
  clear e_
  unfold execChainAnswer
  try dsimp only
  repeat' first | with_reducible exact Lasts.refl _ _ | with_reducible assumption | with_reducible apply LastsEnds.next | with_reducible apply LastsEnds.ite | with_reducible apply updChain_lasts | with_reducible apply forward16_lasts | with_reducible apply updEntry_lasts | with_reducible apply sendOffer_lasts | with_reducible apply Lasts.foldl | (intro _ _ _) | with_reducible apply Lasts.ite | split | (intro _ _) | with_reducible apply Lasts.free | (with_reducible apply Lasts.upd <;> first | with_reducible rfl | with_reducible exact fun w => w | with_reducible exact fun _ w => w | with_reducible exact Nat.le_refl _ | skip)
  all_goals first | rfl | exact fun w => w | exact fun _ w => w | exact fun _ => rfl | exact fun _ _ => rfl | exact Nat.le_succ _ | exact fun w => Memory.foldl_wf 15 _ _ _ w | skip

theorem execChainBlock_lasts (src imageId block half : Nat) (data tag : List Byte) {s t_ : State} (e_ : execChainBlock src imageId block half data tag s = .next t_) : Lasts true s t_ := by
  refine LastsEnds.elim ?_ e_
  clear e_
  unfold execChainBlock
  try dsimp only
  repeat' first | with_reducible exact Lasts.refl _ _ | with_reducible assumption | with_reducible apply LastsEnds.next | with_reducible apply LastsEnds.ite | with_reducible apply stageHalf_lasts | with_reducible apply forward16_lasts | with_reducible apply chainSend_lasts | with_reducible apply Lasts.foldl | (intro _ _ _) | with_reducible apply Lasts.ite | split | (intro _ _) | with_reducible apply Lasts.free | (with_reducible apply Lasts.upd <;> first | with_reducible rfl | with_reducible exact fun w => w | with_reducible exact fun _ w => w | with_reducible exact Nat.le_refl _ | skip)
  all_goals first | rfl | exact fun w => w | exact fun _ w => w | exact fun _ => rfl | exact fun _ _ => rfl | exact Nat.le_succ _ | exact fun w => Memory.foldl_wf 15 _ _ _ w | skip

theorem execChainBlockAck_lasts (src imageId highest : Nat) {s t_ : State} (e_ : execChainBlockAck src imageId highest s = .next t_) : Lasts true s t_ := by
  refine LastsEnds.elim ?_ e_
  clear e_
  unfold execChainBlockAck
  try dsimp only
  repeat' first | with_reducible exact Lasts.refl _ _ | with_reducible assumption | with_reducible apply LastsEnds.next | with_reducible apply LastsEnds.ite | with_reducible apply forward16_lasts | with_reducible apply updChain_lasts | with_reducible apply Lasts.foldl | (intro _ _ _) | with_reducible apply Lasts.ite | split | (intro _ _) | with_reducible apply Lasts.free | (with_reducible apply Lasts.upd <;> first | with_reducible rfl | with_reducible exact fun w => w | with_reducible exact fun _ w => w | with_reducible exact Nat.le_refl _ | skip)
  all_goals first | rfl | exact fun w => w | exact fun _ w => w | exact fun _ => rfl | exact fun _ _ => rfl | exact Nat.le_succ _ | exact fun w => Memory.foldl_wf 15 _ _ _ w | skip

theorem execChainProgress_lasts (src imageId highest rate : Nat) {s t_ : State} (e_ : execChainProgress src imageId highest rate s = .next t_) : Lasts true s t_ := by
  refine LastsEnds.elim ?_ e_
  clear e_
  unfold execChainProgress
  try dsimp only
  repeat' first | with_reducible exact Lasts.refl _ _ | with_reducible assumption | with_reducible apply LastsEnds.next | with_reducible apply LastsEnds.ite | with_reducible apply updEntry_lasts | with_reducible apply markSlow_lasts | with_reducible apply updChain_lasts | with_reducible apply bypass_lasts | with_reducible apply Lasts.foldl | (intro _ _ _) | with_reducible apply Lasts.ite | split | (intro _ _) | with_reducible apply Lasts.free | (with_reducible apply Lasts.upd <;> first | with_reducible rfl | with_reducible exact fun w => w | with_reducible exact fun _ w => w | with_reducible exact Nat.le_refl _ | skip)
  all_goals first | rfl | exact fun w => w | exact fun _ w => w | exact fun _ => rfl | exact fun _ _ => rfl | exact Nat.le_succ _ | exact fun w => Memory.foldl_wf 15 _ _ _ w | skip

theorem execChainProgressSend_lasts  {s t_ : State} (e_ : execChainProgressSend s = .next t_) : Lasts true s t_ := by
  refine LastsEnds.elim ?_ e_
  clear e_
  unfold execChainProgressSend
  try dsimp only
  repeat' first | with_reducible exact Lasts.refl _ _ | with_reducible assumption | with_reducible apply LastsEnds.next | with_reducible apply LastsEnds.ite | with_reducible apply updChain_lasts | with_reducible apply chainSend_lasts | with_reducible apply Lasts.foldl | (intro _ _ _) | with_reducible apply Lasts.ite | split | (intro _ _) | with_reducible apply Lasts.free | (with_reducible apply Lasts.upd <;> first | with_reducible rfl | with_reducible exact fun w => w | with_reducible exact fun _ w => w | with_reducible exact Nat.le_refl _ | skip)
  all_goals first | rfl | exact fun w => w | exact fun _ w => w | exact fun _ => rfl | exact fun _ _ => rfl | exact Nat.le_succ _ | exact fun w => Memory.foldl_wf 15 _ _ _ w | skip

theorem execChainReroute_lasts (src imageId next position : Nat) {s t_ : State} (e_ : execChainReroute src imageId next position s = .next t_) : Lasts true s t_ := by
  refine LastsEnds.elim ?_ e_
  clear e_
  unfold execChainReroute
  try dsimp only
  repeat' first | with_reducible exact Lasts.refl _ _ | with_reducible assumption | with_reducible apply LastsEnds.next | with_reducible apply LastsEnds.ite | with_reducible apply sendOffer_lasts | with_reducible apply updChain_lasts | with_reducible apply Lasts.foldl | (intro _ _ _) | with_reducible apply Lasts.ite | split | (intro _ _) | with_reducible apply Lasts.free | (with_reducible apply Lasts.upd <;> first | with_reducible rfl | with_reducible exact fun w => w | with_reducible exact fun _ w => w | with_reducible exact Nat.le_refl _ | skip)
  all_goals first | rfl | exact fun w => w | exact fun _ w => w | exact fun _ => rfl | exact fun _ _ => rfl | exact Nat.le_succ _ | exact fun w => Memory.foldl_wf 15 _ _ _ w | skip

theorem execChainAbort_lasts (src imageId : Nat) {s t_ : State} (e_ : execChainAbort src imageId s = .next t_) : Lasts true s t_ := by
  refine LastsEnds.elim ?_ e_
  clear e_
  unfold execChainAbort
  try dsimp only
  repeat' first | with_reducible exact Lasts.refl _ _ | with_reducible assumption | with_reducible apply LastsEnds.next | with_reducible apply LastsEnds.ite | with_reducible apply emptyStaging_lasts | with_reducible apply stagingDone_lasts | with_reducible apply Lasts.foldl | (intro _ _ _) | with_reducible apply Lasts.ite | split | (intro _ _) | with_reducible apply Lasts.free | (with_reducible apply Lasts.upd <;> first | with_reducible rfl | with_reducible exact fun w => w | with_reducible exact fun _ w => w | with_reducible exact Nat.le_refl _ | skip)
  all_goals first | rfl | exact fun w => w | exact fun _ w => w | exact fun _ => rfl | exact fun _ _ => rfl | exact Nat.le_succ _ | exact fun w => Memory.foldl_wf 15 _ _ _ w | skip

theorem execChainDone_lasts (src imageId result : Nat) {s t_ : State} (e_ : execChainDone src imageId result s = .next t_) : Lasts true s t_ := by
  refine LastsEnds.elim ?_ e_
  clear e_
  unfold execChainDone
  try dsimp only
  repeat' first | with_reducible exact Lasts.refl _ _ | with_reducible assumption | with_reducible apply LastsEnds.next | with_reducible apply LastsEnds.ite | with_reducible apply updEntry_lasts | with_reducible apply chainNode_lasts | with_reducible apply updChain_lasts | with_reducible apply Lasts.foldl | (intro _ _ _) | with_reducible apply Lasts.ite | split | (intro _ _) | with_reducible apply Lasts.free | (with_reducible apply Lasts.upd <;> first | with_reducible rfl | with_reducible exact fun w => w | with_reducible exact fun _ w => w | with_reducible exact Nat.le_refl _ | skip)
  all_goals first | rfl | exact fun w => w | exact fun _ w => w | exact fun _ => rfl | exact fun _ _ => rfl | exact Nat.le_succ _ | exact fun w => Memory.foldl_wf 15 _ _ _ w | skip

theorem execChainReceiverSilent_lasts  {s t_ : State} (e_ : execChainReceiverSilent s = .next t_) : Lasts true s t_ := by
  refine LastsEnds.elim ?_ e_
  clear e_
  unfold execChainReceiverSilent
  try dsimp only
  repeat' first | with_reducible exact Lasts.refl _ _ | with_reducible assumption | with_reducible apply LastsEnds.next | with_reducible apply LastsEnds.ite | with_reducible apply sendOffer_lasts | with_reducible apply Lasts.foldl | (intro _ _ _) | with_reducible apply Lasts.ite | split | (intro _ _) | with_reducible apply Lasts.free | (with_reducible apply Lasts.upd <;> first | with_reducible rfl | with_reducible exact fun w => w | with_reducible exact fun _ w => w | with_reducible exact Nat.le_refl _ | skip)
  all_goals first | rfl | exact fun w => w | exact fun _ w => w | exact fun _ => rfl | exact fun _ _ => rfl | exact Nat.le_succ _ | exact fun w => Memory.foldl_wf 15 _ _ _ w | skip

theorem execChainStall_lasts  {s t_ : State} (e_ : execChainStall s = .next t_) : Lasts true s t_ := by
  refine LastsEnds.elim ?_ e_
  clear e_
  unfold execChainStall
  try dsimp only
  repeat' first | with_reducible exact Lasts.refl _ _ | with_reducible assumption | with_reducible apply LastsEnds.next | with_reducible apply LastsEnds.ite | with_reducible apply chainNode_lasts | with_reducible apply updEntry_lasts | with_reducible apply chainSend_lasts | with_reducible apply stagingDone_lasts | with_reducible apply emptyStaging_lasts | with_reducible apply Lasts.foldl | (intro _ _ _) | with_reducible apply Lasts.ite | split | (intro _ _) | with_reducible apply Lasts.free | (with_reducible apply Lasts.upd <;> first | with_reducible rfl | with_reducible exact fun w => w | with_reducible exact fun _ w => w | with_reducible exact Nat.le_refl _ | skip)
  all_goals first | rfl | exact fun w => w | exact fun _ w => w | exact fun _ => rfl | exact fun _ _ => rfl | exact Nat.le_succ _ | exact fun w => Memory.foldl_wf 15 _ _ _ w | skip

theorem execUpdateProgress_lasts  {s t_ : State} (e_ : execUpdateProgress s = .next t_) : Lasts true s t_ := by
  refine LastsEnds.elim ?_ e_
  clear e_
  unfold execUpdateProgress
  try dsimp only
  repeat' first | with_reducible exact Lasts.refl _ _ | with_reducible assumption | with_reducible apply LastsEnds.next | with_reducible apply LastsEnds.ite | with_reducible apply updateProgressEvent_lasts | with_reducible apply Lasts.foldl | (intro _ _ _) | with_reducible apply Lasts.ite | split | (intro _ _) | with_reducible apply Lasts.free | (with_reducible apply Lasts.upd <;> first | with_reducible rfl | with_reducible exact fun w => w | with_reducible exact fun _ w => w | with_reducible exact Nat.le_refl _ | skip)
  all_goals first | rfl | exact fun w => w | exact fun _ w => w | exact fun _ => rfl | exact fun _ _ => rfl | exact Nat.le_succ _ | exact fun w => Memory.foldl_wf 15 _ _ _ w | skip

theorem execRoleChallenge_lasts (h : Hdr) (p : List Byte) {s t_ : State} (e_ : execRoleChallenge h p s = .next t_) : Lasts true s t_ := by
  refine LastsEnds.elim ?_ e_
  clear e_
  unfold execRoleChallenge
  try dsimp only
  repeat' first | with_reducible exact Lasts.refl _ _ | with_reducible assumption | with_reducible apply LastsEnds.next | with_reducible apply LastsEnds.ite | with_reducible apply hostCommand_lasts | with_reducible apply roleChallengeCmd_lasts | with_reducible apply Lasts.foldl | (intro _ _ _) | with_reducible apply Lasts.ite | split | (intro _ _) | with_reducible apply Lasts.free | (with_reducible apply Lasts.upd <;> first | with_reducible rfl | with_reducible exact fun w => w | with_reducible exact fun _ w => w | with_reducible exact Nat.le_refl _ | skip)
  all_goals first | rfl | exact fun w => w | exact fun _ w => w | exact fun _ => rfl | exact fun _ _ => rfl | exact Nat.le_succ _ | exact fun w => Memory.foldl_wf 15 _ _ _ w | skip

theorem execRoleOpen_lasts (h : Hdr) (p : List Byte) {s t_ : State} (e_ : execRoleOpen h p s = .next t_) : Lasts true s t_ := by
  refine LastsEnds.elim ?_ e_
  clear e_
  unfold execRoleOpen
  try dsimp only
  repeat' first | with_reducible exact Lasts.refl _ _ | with_reducible assumption | with_reducible apply LastsEnds.next | with_reducible apply LastsEnds.ite | with_reducible apply hostCommand_lasts | with_reducible apply roleOpenCmd_lasts | with_reducible apply Lasts.foldl | (intro _ _ _) | with_reducible apply Lasts.ite | split | (intro _ _) | with_reducible apply Lasts.free | (with_reducible apply Lasts.upd <;> first | with_reducible rfl | with_reducible exact fun w => w | with_reducible exact fun _ w => w | with_reducible exact Nat.le_refl _ | skip)
  all_goals first | rfl | exact fun w => w | exact fun _ w => w | exact fun _ => rfl | exact fun _ _ => rfl | exact Nat.le_succ _ | exact fun w => Memory.foldl_wf 15 _ _ _ w | skip

theorem execRoleClose_lasts (h : Hdr) (p : List Byte) {s t_ : State} (e_ : execRoleClose h p s = .next t_) : Lasts true s t_ := by
  refine LastsEnds.elim ?_ e_
  clear e_
  unfold execRoleClose
  try dsimp only
  repeat' first | with_reducible exact Lasts.refl _ _ | with_reducible assumption | with_reducible apply LastsEnds.next | with_reducible apply LastsEnds.ite | with_reducible apply hostCommand_lasts | with_reducible apply roleCloseCmd_lasts | with_reducible apply Lasts.foldl | (intro _ _ _) | with_reducible apply Lasts.ite | split | (intro _ _) | with_reducible apply Lasts.free | (with_reducible apply Lasts.upd <;> first | with_reducible rfl | with_reducible exact fun w => w | with_reducible exact fun _ w => w | with_reducible exact Nat.le_refl _ | skip)
  all_goals first | rfl | exact fun w => w | exact fun _ w => w | exact fun _ => rfl | exact fun _ _ => rfl | exact Nat.le_succ _ | exact fun w => Memory.foldl_wf 15 _ _ _ w | skip

theorem execRoleIdleTimeout_lasts  {s t_ : State} (e_ : execRoleIdleTimeout s = .next t_) : Lasts true s t_ := by
  refine LastsEnds.elim ?_ e_
  clear e_
  unfold execRoleIdleTimeout
  try dsimp only
  repeat' first | with_reducible exact Lasts.refl _ _ | with_reducible assumption | with_reducible apply LastsEnds.next | with_reducible apply LastsEnds.ite | with_reducible apply roleEnded_lasts | with_reducible apply updRoles_lasts | with_reducible apply Lasts.foldl | (intro _ _ _) | with_reducible apply Lasts.ite | split | (intro _ _) | with_reducible apply Lasts.free | (with_reducible apply Lasts.upd <;> first | with_reducible rfl | with_reducible exact fun w => w | with_reducible exact fun _ w => w | with_reducible exact Nat.le_refl _ | skip)
  all_goals first | rfl | exact fun w => w | exact fun _ w => w | exact fun _ => rfl | exact fun _ _ => rfl | exact Nat.le_succ _ | exact fun w => Memory.foldl_wf 15 _ _ _ w | skip

theorem execRoleLockoutEnd_lasts (role : Nat) {s t_ : State} (e_ : execRoleLockoutEnd role s = .next t_) : Lasts true s t_ := by
  refine LastsEnds.elim ?_ e_
  clear e_
  unfold execRoleLockoutEnd
  try dsimp only
  repeat' first | with_reducible exact Lasts.refl _ _ | with_reducible assumption | with_reducible apply LastsEnds.next | with_reducible apply LastsEnds.ite | with_reducible apply updRoles_lasts | with_reducible apply Lasts.foldl | (intro _ _ _) | with_reducible apply Lasts.ite | split | (intro _ _) | with_reducible apply Lasts.free | (with_reducible apply Lasts.upd <;> first | with_reducible rfl | with_reducible exact fun w => w | with_reducible exact fun _ w => w | with_reducible exact Nat.le_refl _ | skip)
  all_goals first | rfl | exact fun w => w | exact fun _ w => w | exact fun _ => rfl | exact fun _ _ => rfl | exact Nat.le_succ _ | exact fun w => Memory.foldl_wf 15 _ _ _ w | skip

theorem execRoleKeySet_lasts (h : Hdr) (p : List Byte) {s t_ : State} (e_ : execRoleKeySet h p s = .next t_) : Lasts true s t_ := by
  refine LastsEnds.elim ?_ e_
  clear e_
  unfold execRoleKeySet
  try dsimp only
  repeat' first | with_reducible exact Lasts.refl _ _ | with_reducible assumption | with_reducible apply LastsEnds.next | with_reducible apply LastsEnds.ite | with_reducible apply hostCommand_lasts | with_reducible apply roleKeySetCmd_lasts | with_reducible apply Lasts.foldl | (intro _ _ _) | with_reducible apply Lasts.ite | split | (intro _ _) | with_reducible apply Lasts.free | (with_reducible apply Lasts.upd <;> first | with_reducible rfl | with_reducible exact fun w => w | with_reducible exact fun _ w => w | with_reducible exact Nat.le_refl _ | skip)
  all_goals first | rfl | exact fun w => w | exact fun _ w => w | exact fun _ => rfl | exact fun _ _ => rfl | exact Nat.le_succ _ | exact fun w => Memory.foldl_wf 15 _ _ _ w | skip

theorem execRegionWatchdog_lasts (region : Nat) {s t_ : State} (e_ : execRegionWatchdog region s = .next t_) : Lasts true s t_ := by
  refine LastsEnds.elim ?_ e_
  clear e_
  unfold execRegionWatchdog
  try dsimp only
  repeat' first | with_reducible exact Lasts.refl _ _ | with_reducible assumption | with_reducible apply LastsEnds.next | with_reducible apply LastsEnds.ite | with_reducible apply assertSource_lasts | with_reducible apply report_lasts | with_reducible apply Lasts.foldl | (intro _ _ _) | with_reducible apply Lasts.ite | split | (intro _ _) | with_reducible apply Lasts.free | (with_reducible apply Lasts.upd <;> first | with_reducible rfl | with_reducible exact fun w => w | with_reducible exact fun _ w => w | with_reducible exact Nat.le_refl _ | skip)
  all_goals first | rfl | exact fun w => w | exact fun _ w => w | exact fun _ => rfl | exact fun _ _ => rfl | exact Nat.le_succ _ | exact fun w => Memory.foldl_wf 15 _ _ _ w | skip

theorem execAppWatchdog_lasts  {s t_ : State} (e_ : execAppWatchdog s = .next t_) : Lasts true s t_ := by
  refine LastsEnds.elim ?_ e_
  clear e_
  unfold execAppWatchdog
  try dsimp only
  repeat' first | with_reducible exact Lasts.refl _ _ | with_reducible assumption | with_reducible apply LastsEnds.next | with_reducible apply LastsEnds.ite | with_reducible apply assertSource_lasts | with_reducible apply report_lasts | with_reducible apply Lasts.foldl | (intro _ _ _) | with_reducible apply Lasts.ite | split | (intro _ _) | with_reducible apply Lasts.free | (with_reducible apply Lasts.upd <;> first | with_reducible rfl | with_reducible exact fun w => w | with_reducible exact fun _ w => w | with_reducible exact Nat.le_refl _ | skip)
  all_goals first | rfl | exact fun w => w | exact fun _ w => w | exact fun _ => rfl | exact fun _ _ => rfl | exact Nat.le_succ _ | exact fun w => Memory.foldl_wf 15 _ _ _ w | skip

theorem execResetNAssert_lasts  {s t_ : State} (e_ : execResetNAssert s = .next t_) : Lasts true s t_ := by
  refine LastsEnds.elim ?_ e_
  clear e_
  unfold execResetNAssert
  try dsimp only
  repeat' first | with_reducible exact Lasts.refl _ _ | with_reducible assumption | with_reducible apply LastsEnds.next | with_reducible apply LastsEnds.ite | with_reducible refine updRst_lasts ?_ (fun w_ => w_) | with_reducible apply assertSource_lasts | with_reducible apply Lasts.foldl | (intro _ _ _) | with_reducible apply Lasts.ite | split | (intro _ _) | with_reducible apply Lasts.free | (with_reducible apply Lasts.upd <;> first | with_reducible rfl | with_reducible exact fun w => w | with_reducible exact fun _ w => w | with_reducible exact Nat.le_refl _ | skip)
  all_goals first | rfl | exact fun w => w | exact fun _ w => w | exact fun _ => rfl | exact fun _ _ => rfl | exact Nat.le_succ _ | exact fun w => Memory.foldl_wf 15 _ _ _ w | skip

theorem execResetNRelease_lasts  {s t_ : State} (e_ : execResetNRelease s = .next t_) : Lasts true s t_ := by
  refine LastsEnds.elim ?_ e_
  clear e_
  unfold execResetNRelease
  try dsimp only
  repeat' first | with_reducible exact Lasts.refl _ _ | with_reducible assumption | with_reducible apply LastsEnds.next | with_reducible apply LastsEnds.ite | with_reducible apply releaseSource_lasts | with_reducible refine updRst_lasts ?_ (fun w_ => w_) | with_reducible apply Lasts.foldl | (intro _ _ _) | with_reducible apply Lasts.ite | split | (intro _ _) | with_reducible apply Lasts.free | (with_reducible apply Lasts.upd <;> first | with_reducible rfl | with_reducible exact fun w => w | with_reducible exact fun _ w => w | with_reducible exact Nat.le_refl _ | skip)
  all_goals first | rfl | exact fun w => w | exact fun _ w => w | exact fun _ => rfl | exact fun _ _ => rfl | exact Nat.le_succ _ | exact fun w => Memory.foldl_wf 15 _ _ _ w | skip

theorem execStuckReset_lasts  {s t_ : State} (e_ : execStuckReset s = .next t_) : Lasts true s t_ := by
  refine LastsEnds.elim ?_ e_
  clear e_
  unfold execStuckReset
  try dsimp only
  repeat' first | with_reducible exact Lasts.refl _ _ | with_reducible assumption | with_reducible apply LastsEnds.next | with_reducible apply LastsEnds.ite | with_reducible apply releaseSource_lasts | with_reducible apply updCause_lasts | with_reducible refine updRst_lasts ?_ (fun w_ => w_) | with_reducible apply Lasts.foldl | (intro _ _ _) | with_reducible apply Lasts.ite | split | (intro _ _) | with_reducible apply Lasts.free | (with_reducible apply Lasts.upd <;> first | with_reducible rfl | with_reducible exact fun w => w | with_reducible exact fun _ w => w | with_reducible exact Nat.le_refl _ | skip)
  all_goals first | rfl | exact fun w => w | exact fun _ w => w | exact fun _ => rfl | exact fun _ _ => rfl | exact Nat.le_succ _ | exact fun w => Memory.foldl_wf 15 _ _ _ w | skip

theorem execResetNRearm_lasts  {s t_ : State} (e_ : execResetNRearm s = .next t_) : Lasts true s t_ := by
  refine LastsEnds.elim ?_ e_
  clear e_
  unfold execResetNRearm
  try dsimp only
  repeat' first | with_reducible exact Lasts.refl _ _ | with_reducible assumption | with_reducible apply LastsEnds.next | with_reducible apply LastsEnds.ite | with_reducible refine updRst_lasts ?_ (fun w_ => w_) | with_reducible apply Lasts.foldl | (intro _ _ _) | with_reducible apply Lasts.ite | split | (intro _ _) | with_reducible apply Lasts.free | (with_reducible apply Lasts.upd <;> first | with_reducible rfl | with_reducible exact fun w => w | with_reducible exact fun _ w => w | with_reducible exact Nat.le_refl _ | skip)
  all_goals first | rfl | exact fun w => w | exact fun _ w => w | exact fun _ => rfl | exact fun _ _ => rfl | exact Nat.le_succ _ | exact fun w => Memory.foldl_wf 15 _ _ _ w | skip

theorem execRailBor_lasts  {s t_ : State} (e_ : execRailBor s = .next t_) : Lasts true s t_ := by
  refine LastsEnds.elim ?_ e_
  clear e_
  unfold execRailBor
  try dsimp only
  repeat' first | with_reducible exact Lasts.refl _ _ | with_reducible assumption | with_reducible apply LastsEnds.next | with_reducible apply LastsEnds.ite | with_reducible apply railFails_lasts | with_reducible apply assertSource_lasts | with_reducible apply State.drawFree_lasts | with_reducible refine updRst_lasts ?_ (fun w_ => w_) | with_reducible apply Lasts.foldl | (intro _ _ _) | with_reducible apply Lasts.ite | split | (intro _ _) | with_reducible apply Lasts.free | (with_reducible apply Lasts.upd <;> first | with_reducible rfl | with_reducible exact fun w => w | with_reducible exact fun _ w => w | with_reducible exact Nat.le_refl _ | skip)
  all_goals first | rfl | exact fun w => w | exact fun _ w => w | exact fun _ => rfl | exact fun _ _ => rfl | exact Nat.le_succ _ | exact fun w => Memory.foldl_wf 15 _ _ _ w | skip

theorem execSessionHoldExpired_lasts  {s t_ : State} (e_ : execSessionHoldExpired s = .next t_) : Lasts true s t_ := by
  refine LastsEnds.elim ?_ e_
  clear e_
  unfold execSessionHoldExpired
  try dsimp only
  repeat' first | with_reducible exact Lasts.refl _ _ | with_reducible assumption | with_reducible apply LastsEnds.next | with_reducible apply LastsEnds.ite | with_reducible apply demandStop_lasts | with_reducible apply event_lasts | with_reducible apply updCause_lasts | with_reducible refine updRst_lasts ?_ (fun w_ => w_) | with_reducible apply Lasts.foldl | (intro _ _ _) | with_reducible apply Lasts.ite | split | (intro _ _) | with_reducible apply Lasts.free | (with_reducible apply Lasts.upd <;> first | with_reducible rfl | with_reducible exact fun w => w | with_reducible exact fun _ w => w | with_reducible exact Nat.le_refl _ | skip)
  all_goals first | rfl | exact fun w => w | exact fun _ w => w | exact fun _ => rfl | exact fun _ _ => rfl | exact Nat.le_succ _ | exact fun w => Memory.foldl_wf 15 _ _ _ w | skip

theorem execResetDelayEnd_lasts  {s t_ : State} (e_ : execResetDelayEnd s = .next t_) : Lasts true s t_ := by
  refine LastsEnds.elim ?_ e_
  clear e_
  unfold execResetDelayEnd
  try dsimp only
  repeat' first | with_reducible exact Lasts.refl _ _ | with_reducible assumption | with_reducible apply LastsEnds.next | with_reducible apply LastsEnds.ite | with_reducible apply assertSource_lasts | with_reducible refine updRst_lasts ?_ (fun w_ => w_) | with_reducible apply Lasts.foldl | (intro _ _ _) | with_reducible apply Lasts.ite | split | (intro _ _) | with_reducible apply Lasts.free | (with_reducible apply Lasts.upd <;> first | with_reducible rfl | with_reducible exact fun w => w | with_reducible exact fun _ w => w | with_reducible exact Nat.le_refl _ | skip)
  all_goals first | rfl | exact fun w => w | exact fun _ w => w | exact fun _ => rfl | exact fun _ _ => rfl | exact Nat.le_succ _ | exact fun w => Memory.foldl_wf 15 _ _ _ w | skip

theorem execCellErrorCorrected_lasts (cell count cycle : Nat) {s t_ : State} (e_ : execCellErrorCorrected cell count cycle s = .next t_) : Lasts true s t_ := by
  refine LastsEnds.elim ?_ e_
  clear e_
  unfold execCellErrorCorrected
  try dsimp only
  repeat' first | with_reducible exact Lasts.refl _ _ | with_reducible assumption | with_reducible apply LastsEnds.next | with_reducible apply LastsEnds.ite | with_reducible apply updCell_lasts | with_reducible apply cellReport_lasts | with_reducible apply Lasts.foldl | (intro _ _ _) | with_reducible apply Lasts.ite | split | (intro _ _) | with_reducible apply Lasts.free | (with_reducible apply Lasts.upd <;> first | with_reducible rfl | with_reducible exact fun w => w | with_reducible exact fun _ w => w | with_reducible exact Nat.le_refl _ | skip)
  all_goals first | rfl | exact fun w => w | exact fun _ w => w | exact fun _ => rfl | exact fun _ _ => rfl | exact Nat.le_succ _ | exact fun w => Memory.foldl_wf 15 _ _ _ w | skip

theorem execCellUncorrectable_lasts (cell : Nat) (retryOk sequencer : Bool) (cycle : Nat) {s t_ : State} (e_ : execCellUncorrectable cell retryOk sequencer cycle s = .next t_) : Lasts true s t_ := by
  refine LastsEnds.elim ?_ e_
  clear e_
  unfold execCellUncorrectable
  try dsimp only
  repeat' first | with_reducible exact Lasts.refl _ _ | with_reducible assumption | with_reducible apply LastsEnds.next | with_reducible apply LastsEnds.ite | with_reducible apply sequencerFault_lasts | with_reducible apply isolateCell_lasts | with_reducible apply Lasts.foldl | (intro _ _ _) | with_reducible apply Lasts.ite | split | (intro _ _) | with_reducible apply Lasts.free | (with_reducible apply Lasts.upd <;> first | with_reducible rfl | with_reducible exact fun w => w | with_reducible exact fun _ w => w | with_reducible exact Nat.le_refl _ | skip)
  all_goals first | rfl | exact fun w => w | exact fun _ w => w | exact fun _ => rfl | exact fun _ _ => rfl | exact Nat.le_succ _ | exact fun w => Memory.foldl_wf 15 _ _ _ w | skip

theorem execLockstepMismatch_lasts (cell cycle : Nat) {s t_ : State} (e_ : execLockstepMismatch cell cycle s = .next t_) : Lasts true s t_ := by
  refine LastsEnds.elim ?_ e_
  clear e_
  unfold execLockstepMismatch
  try dsimp only
  repeat' first | with_reducible exact Lasts.refl _ _ | with_reducible assumption | with_reducible apply LastsEnds.next | with_reducible apply LastsEnds.ite | with_reducible apply safetyFault_lasts | with_reducible apply reportFrom_lasts | with_reducible apply Lasts.foldl | (intro _ _ _) | with_reducible apply Lasts.ite | split | (intro _ _) | with_reducible apply Lasts.free | (with_reducible apply Lasts.upd <;> first | with_reducible rfl | with_reducible exact fun w => w | with_reducible exact fun _ w => w | with_reducible exact Nat.le_refl _ | skip)
  all_goals first | rfl | exact fun w => w | exact fun _ w => w | exact fun _ => rfl | exact fun _ _ => rfl | exact Nat.le_succ _ | exact fun w => Memory.foldl_wf 15 _ _ _ w | skip

theorem execClockMonitorFault_lasts (region : Nat) (lossNotFreq : Bool) (source cycle : Nat) {s t_ : State} (e_ : execClockMonitorFault region lossNotFreq source cycle s = .next t_) : Lasts true s t_ := by
  refine LastsEnds.elim ?_ e_
  clear e_
  unfold execClockMonitorFault
  try dsimp only
  repeat' first | with_reducible exact Lasts.refl _ _ | with_reducible assumption | with_reducible apply LastsEnds.next | with_reducible apply LastsEnds.ite | with_reducible apply modPllLost_lasts | with_reducible apply reportFrom_lasts | with_reducible apply globalSafeNow_lasts | with_reducible apply assertSource_lasts | with_reducible apply Lasts.foldl | (intro _ _ _) | with_reducible apply Lasts.ite | split | (intro _ _) | with_reducible apply Lasts.free | (with_reducible apply Lasts.upd <;> first | with_reducible rfl | with_reducible exact fun w => w | with_reducible exact fun _ w => w | with_reducible exact Nat.le_refl _ | skip)
  all_goals first | rfl | exact fun w => w | exact fun _ w => w | exact fun _ => rfl | exact fun _ _ => rfl | exact Nat.le_succ _ | exact fun w => Memory.foldl_wf 15 _ _ _ w | skip

theorem execSupplyFault_lasts (rail cycle : Nat) {s t_ : State} (e_ : execSupplyFault rail cycle s = .next t_) : Lasts true s t_ := by
  refine LastsEnds.elim ?_ e_
  clear e_
  unfold execSupplyFault
  try dsimp only
  repeat' first | with_reducible exact Lasts.refl _ _ | with_reducible assumption | with_reducible apply LastsEnds.next | with_reducible apply LastsEnds.ite | with_reducible apply assertSource_lasts | with_reducible apply report_lasts | with_reducible apply Lasts.foldl | (intro _ _ _) | with_reducible apply Lasts.ite | split | (intro _ _) | with_reducible apply Lasts.free | (with_reducible apply Lasts.upd <;> first | with_reducible rfl | with_reducible exact fun w => w | with_reducible exact fun _ w => w | with_reducible exact Nat.le_refl _ | skip)
  all_goals first | rfl | exact fun w => w | exact fun _ w => w | exact fun _ => rfl | exact fun _ _ => rfl | exact Nat.le_succ _ | exact fun w => Memory.foldl_wf 15 _ _ _ w | skip

theorem execDeadlineMiss_lasts (job inst endCycle cycle : Nat) {s t_ : State} (e_ : execDeadlineMiss job inst endCycle cycle s = .next t_) : Lasts true s t_ := by
  refine LastsEnds.elim ?_ e_
  clear e_
  unfold execDeadlineMiss
  try dsimp only
  repeat' first | with_reducible exact Lasts.refl _ _ | with_reducible assumption | with_reducible apply LastsEnds.next | with_reducible apply LastsEnds.ite | with_reducible apply countMiss_lasts | with_reducible apply deadlineReport_lasts | with_reducible apply queueMiss_lasts | with_reducible apply overflow_lasts | with_reducible apply escalation_lasts | with_reducible apply Lasts.foldl | (intro _ _ _) | with_reducible apply Lasts.ite | split | (intro _ _) | with_reducible apply Lasts.free | (with_reducible apply Lasts.upd <;> first | with_reducible rfl | with_reducible exact fun w => w | with_reducible exact fun _ w => w | with_reducible exact Nat.le_refl _ | skip)
  all_goals first | rfl | exact fun w => w | exact fun _ w => w | exact fun _ => rfl | exact fun _ _ => rfl | exact Nat.le_succ _ | exact fun w => Memory.foldl_wf 15 _ _ _ w | skip

theorem execResetTakesEffect_lasts  {s t_ : State} (e_ : execResetTakesEffect s = .next t_) : Lasts true s t_ := by
  refine LastsEnds.elim ?_ e_
  clear e_
  unfold execResetTakesEffect
  try dsimp only
  repeat' first | with_reducible exact Lasts.refl _ _ | with_reducible assumption | with_reducible apply LastsEnds.next | with_reducible apply LastsEnds.ite | with_reducible apply takeEffect_lasts | with_reducible apply Lasts.foldl | (intro _ _ _) | with_reducible apply Lasts.ite | split | (intro _ _) | with_reducible apply Lasts.free | (with_reducible apply Lasts.upd <;> first | with_reducible rfl | with_reducible exact fun w => w | with_reducible exact fun _ w => w | with_reducible exact Nat.le_refl _ | skip)
  all_goals first | rfl | exact fun w => w | exact fun _ w => w | exact fun _ => rfl | exact fun _ _ => rfl | exact Nat.le_succ _ | exact fun w => Memory.foldl_wf 15 _ _ _ w | skip

theorem execResetRelease_lasts (b : BootIn) {s t_ : State} (e_ : execResetRelease b s = .next t_) : Lasts true s t_ := by
  refine LastsEnds.elim ?_ e_
  clear e_
  unfold execResetRelease
  try dsimp only
  repeat' first | with_reducible exact Lasts.refl _ _ | with_reducible assumption | with_reducible apply LastsEnds.next | with_reducible apply LastsEnds.ite | with_reducible apply bootFrom_lasts | with_reducible apply Lasts.foldl | (intro _ _ _) | with_reducible apply Lasts.ite | split | (intro _ _) | with_reducible apply Lasts.free | (with_reducible apply Lasts.upd <;> first | with_reducible rfl | with_reducible exact fun w => w | with_reducible exact fun _ w => w | with_reducible exact Nat.le_refl _ | skip)
  all_goals first | rfl | exact fun w => w | exact fun _ w => w | exact fun _ => rfl | exact fun _ _ => rfl | exact Nat.le_succ _ | exact fun w => Memory.foldl_wf 15 _ _ _ w | skip

theorem execReady_lasts (vbatMv : Nat) {s t_ : State} (e_ : execReady vbatMv s = .next t_) : Lasts true s t_ := by
  refine LastsEnds.elim ?_ e_
  clear e_
  unfold execReady
  try dsimp only
  repeat' first | with_reducible exact Lasts.refl _ _ | with_reducible assumption | with_reducible apply LastsEnds.next | with_reducible apply LastsEnds.ite | with_reducible apply becomeReady_lasts | with_reducible apply Lasts.foldl | (intro _ _ _) | with_reducible apply Lasts.ite | split | (intro _ _) | with_reducible apply Lasts.free | (with_reducible apply Lasts.upd <;> first | with_reducible rfl | with_reducible exact fun w => w | with_reducible exact fun _ w => w | with_reducible exact Nat.le_refl _ | skip)
  all_goals first | rfl | exact fun w => w | exact fun _ w => w | exact fun _ => rfl | exact fun _ _ => rfl | exact Nat.le_succ _ | exact fun w => Memory.foldl_wf 15 _ _ _ w | skip

theorem execPowerFailWarning_lasts (vauxMv : Nat) {s t_ : State} (e_ : execPowerFailWarning vauxMv s = .next t_) : Lasts true s t_ := by
  refine LastsEnds.elim ?_ e_
  clear e_
  unfold execPowerFailWarning
  try dsimp only
  repeat' first | with_reducible exact Lasts.refl _ _ | with_reducible assumption | with_reducible apply LastsEnds.next | with_reducible apply LastsEnds.ite | with_reducible apply powerFail_lasts | with_reducible apply Lasts.foldl | (intro _ _ _) | with_reducible apply Lasts.ite | split | (intro _ _) | with_reducible apply Lasts.free | (with_reducible apply Lasts.upd <;> first | with_reducible rfl | with_reducible exact fun w => w | with_reducible exact fun _ w => w | with_reducible exact Nat.le_refl _ | skip)
  all_goals first | rfl | exact fun w => w | exact fun _ w => w | exact fun _ => rfl | exact fun _ _ => rfl | exact Nat.le_succ _ | exact fun w => Memory.foldl_wf 15 _ _ _ w | skip

theorem execTailSave_lasts  {s t_ : State} (e_ : execTailSave s = .next t_) : Lasts true s t_ := by
  refine LastsEnds.elim ?_ e_
  clear e_
  unfold execTailSave
  try dsimp only
  repeat' first | with_reducible exact Lasts.refl _ _ | with_reducible assumption | with_reducible apply LastsEnds.next | with_reducible apply LastsEnds.ite | with_reducible apply tailSave_lasts | with_reducible apply Lasts.foldl | (intro _ _ _) | with_reducible apply Lasts.ite | split | (intro _ _) | with_reducible apply Lasts.free | (with_reducible apply Lasts.upd <;> first | with_reducible rfl | with_reducible exact fun w => w | with_reducible exact fun _ w => w | with_reducible exact Nat.le_refl _ | skip)
  all_goals first | rfl | exact fun w => w | exact fun _ w => w | exact fun _ => rfl | exact fun _ _ => rfl | exact Nat.le_succ _ | exact fun w => Memory.foldl_wf 15 _ _ _ w | skip

theorem execHoldDropOut_lasts (stepsDone : Nat) {s t_ : State} (e_ : execHoldDropOut stepsDone s = .next t_) : Lasts true s t_ := by
  refine LastsEnds.elim ?_ e_
  clear e_
  unfold execHoldDropOut
  try dsimp only
  repeat' first | with_reducible exact Lasts.refl _ _ | with_reducible assumption | with_reducible apply LastsEnds.next | with_reducible apply LastsEnds.ite | with_reducible apply dropOut_lasts | with_reducible apply Lasts.foldl | (intro _ _ _) | with_reducible apply Lasts.ite | split | (intro _ _) | with_reducible apply Lasts.free | (with_reducible apply Lasts.upd <;> first | with_reducible rfl | with_reducible exact fun w => w | with_reducible exact fun _ w => w | with_reducible exact Nat.le_refl _ | skip)
  all_goals first | rfl | exact fun w => w | exact fun _ w => w | exact fun _ => rfl | exact fun _ _ => rfl | exact Nat.le_succ _ | exact fun w => Memory.foldl_wf 15 _ _ _ w | skip

theorem execPfReturn_lasts  {s t_ : State} (e_ : execPfReturn s = .next t_) : Lasts true s t_ := by
  refine LastsEnds.elim ?_ e_
  clear e_
  unfold execPfReturn
  try dsimp only
  repeat' first | with_reducible exact Lasts.refl _ _ | with_reducible assumption | with_reducible apply LastsEnds.next | with_reducible apply LastsEnds.ite | with_reducible refine updRst_lasts ?_ (fun w_ => w_) | with_reducible apply updPower_lasts | with_reducible apply assertSource_lasts | with_reducible apply shutStep6_lasts | with_reducible apply Lasts.foldl | (intro _ _ _) | with_reducible apply Lasts.ite | split | (intro _ _) | with_reducible apply Lasts.free | (with_reducible apply Lasts.upd <;> first | with_reducible rfl | with_reducible exact fun w => w | with_reducible exact fun _ w => w | with_reducible exact Nat.le_refl _ | skip)
  all_goals first | rfl | exact fun w => w | exact fun _ w => w | exact fun _ => rfl | exact fun _ _ => rfl | exact Nat.le_succ _ | exact fun w => Memory.foldl_wf 15 _ _ _ w | skip

theorem execVauxReversed_lasts  {s t_ : State} (e_ : execVauxReversed s = .next t_) : Lasts true s t_ := by
  refine LastsEnds.elim ?_ e_
  clear e_
  unfold execVauxReversed
  try dsimp only
  repeat' first | with_reducible exact Lasts.refl _ _ | with_reducible assumption | with_reducible apply LastsEnds.next | with_reducible apply LastsEnds.ite | with_reducible apply updPower_lasts | with_reducible apply powerFail_lasts | with_reducible apply Lasts.foldl | (intro _ _ _) | with_reducible apply Lasts.ite | split | (intro _ _) | with_reducible apply Lasts.free | (with_reducible apply Lasts.upd <;> first | with_reducible rfl | with_reducible exact fun w => w | with_reducible exact fun _ w => w | with_reducible exact Nat.le_refl _ | skip)
  all_goals first | rfl | exact fun w => w | exact fun _ w => w | exact fun _ => rfl | exact fun _ _ => rfl | exact Nat.le_succ _ | exact fun w => Memory.foldl_wf 15 _ _ _ w | skip

theorem execPowerOn_lasts (vauxMv : Nat) {s t_ : State} (e_ : execPowerOn vauxMv s = .next t_) : Lasts true s t_ := by
  refine LastsEnds.elim ?_ e_
  clear e_
  unfold execPowerOn
  try dsimp only
  repeat' first | with_reducible exact Lasts.refl _ _ | with_reducible assumption | with_reducible apply LastsEnds.next | with_reducible apply LastsEnds.ite | with_reducible refine updRst_lasts ?_ (fun w_ => w_) | with_reducible apply openEntry_lasts | with_reducible apply Lasts.foldl | (intro _ _ _) | with_reducible apply Lasts.ite | split | (intro _ _) | with_reducible apply Lasts.free | (with_reducible apply Lasts.upd <;> first | with_reducible rfl | with_reducible exact fun w => w | with_reducible exact fun _ w => w | with_reducible exact Nat.le_refl _ | skip)
  all_goals first | rfl | exact fun w => w | exact fun _ w => w | exact fun _ => rfl | exact fun _ _ => rfl | exact Nat.le_succ _ | exact fun w => Memory.foldl_wf 15 _ _ _ w | skip

theorem execVauxSurgeOn_lasts  {s t_ : State} (e_ : execVauxSurgeOn s = .next t_) : Lasts true s t_ := by
  refine LastsEnds.elim ?_ e_
  clear e_
  unfold execVauxSurgeOn
  try dsimp only
  repeat' first | with_reducible exact Lasts.refl _ _ | with_reducible assumption | with_reducible apply LastsEnds.next | with_reducible apply LastsEnds.ite | with_reducible apply updPower_lasts | with_reducible apply surgeEvent_lasts | with_reducible apply holdBank_lasts | with_reducible apply Lasts.foldl | (intro _ _ _) | with_reducible apply Lasts.ite | split | (intro _ _) | with_reducible apply Lasts.free | (with_reducible apply Lasts.upd <;> first | with_reducible rfl | with_reducible exact fun w => w | with_reducible exact fun _ w => w | with_reducible exact Nat.le_refl _ | skip)
  all_goals first | rfl | exact fun w => w | exact fun _ w => w | exact fun _ => rfl | exact fun _ _ => rfl | exact Nat.le_succ _ | exact fun w => Memory.foldl_wf 15 _ _ _ w | skip

theorem execVauxSurgeOff_lasts  {s t_ : State} (e_ : execVauxSurgeOff s = .next t_) : Lasts true s t_ := by
  refine LastsEnds.elim ?_ e_
  clear e_
  unfold execVauxSurgeOff
  try dsimp only
  repeat' first | with_reducible exact Lasts.refl _ _ | with_reducible assumption | with_reducible apply LastsEnds.next | with_reducible apply LastsEnds.ite | with_reducible apply updPower_lasts | with_reducible apply surgeEvent_lasts | with_reducible apply releaseBank_lasts | with_reducible apply Lasts.foldl | (intro _ _ _) | with_reducible apply Lasts.ite | split | (intro _ _) | with_reducible apply Lasts.free | (with_reducible apply Lasts.upd <;> first | with_reducible rfl | with_reducible exact fun w => w | with_reducible exact fun _ w => w | with_reducible exact Nat.le_refl _ | skip)
  all_goals first | rfl | exact fun w => w | exact fun _ w => w | exact fun _ => rfl | exact fun _ _ => rfl | exact Nat.le_succ _ | exact fun w => Memory.foldl_wf 15 _ _ _ w | skip

theorem execVbatCheck_lasts (vbatMv : Nat) {s t_ : State} (e_ : execVbatCheck vbatMv s = .next t_) : Lasts true s t_ := by
  refine LastsEnds.elim ?_ e_
  clear e_
  unfold execVbatCheck
  try dsimp only
  repeat' first | with_reducible exact Lasts.refl _ _ | with_reducible assumption | with_reducible apply LastsEnds.next | with_reducible apply LastsEnds.ite | with_reducible apply vbatMeasured_lasts | with_reducible apply Lasts.foldl | (intro _ _ _) | with_reducible apply Lasts.ite | split | (intro _ _) | with_reducible apply Lasts.free | (with_reducible apply Lasts.upd <;> first | with_reducible rfl | with_reducible exact fun w => w | with_reducible exact fun _ w => w | with_reducible exact Nat.le_refl _ | skip)
  all_goals first | rfl | exact fun w => w | exact fun _ w => w | exact fun _ => rfl | exact fun _ _ => rfl | exact Nat.le_succ _ | exact fun w => Memory.foldl_wf 15 _ _ _ w | skip

theorem execRetentionLoss_lasts  {s t_ : State} (e_ : execRetentionLoss s = .next t_) : Lasts true s t_ := by
  refine LastsEnds.elim ?_ e_
  clear e_
  unfold execRetentionLoss
  try dsimp only
  repeat' first | with_reducible exact Lasts.refl _ _ | with_reducible assumption | with_reducible apply LastsEnds.next | with_reducible apply LastsEnds.ite | with_reducible apply updPower_lasts | with_reducible apply Lasts.foldl | (intro _ _ _) | with_reducible apply Lasts.ite | split | (intro _ _) | with_reducible apply Lasts.free | (with_reducible apply Lasts.upd <;> first | with_reducible rfl | with_reducible exact fun w => w | with_reducible exact fun _ w => w | with_reducible exact Nat.le_refl _ | skip)
  all_goals first | rfl | exact fun w => w | exact fun _ w => w | exact fun _ => rfl | exact fun _ _ => rfl | exact Nat.le_succ _ | exact fun w => Memory.foldl_wf 15 _ _ _ w | skip

theorem execHoldLowCheck_lasts (vauxMv holdMv : Nat) {s t_ : State} (e_ : execHoldLowCheck vauxMv holdMv s = .next t_) : Lasts true s t_ := by
  refine LastsEnds.elim ?_ e_
  clear e_
  unfold execHoldLowCheck
  try dsimp only
  repeat' first | with_reducible exact Lasts.refl _ _ | with_reducible assumption | with_reducible apply LastsEnds.next | with_reducible apply LastsEnds.ite | with_reducible apply updPower_lasts | with_reducible apply Lasts.foldl | (intro _ _ _) | with_reducible apply Lasts.ite | split | (intro _ _) | with_reducible apply Lasts.free | (with_reducible apply Lasts.upd <;> first | with_reducible rfl | with_reducible exact fun w => w | with_reducible exact fun _ w => w | with_reducible exact Nat.le_refl _ | skip)
  all_goals first | rfl | exact fun w => w | exact fun _ w => w | exact fun _ => rfl | exact fun _ _ => rfl | exact Nat.le_succ _ | exact fun w => Memory.foldl_wf 15 _ _ _ w | skip

theorem execReset_lasts (h : Hdr) (p : List Byte) {s t_ : State} (e_ : execReset h p s = .next t_) : Lasts true s t_ := by
  refine LastsEnds.elim ?_ e_
  clear e_
  unfold execReset
  try dsimp only
  repeat' first | with_reducible exact Lasts.refl _ _ | with_reducible assumption | with_reducible apply LastsEnds.next | with_reducible apply LastsEnds.ite | with_reducible apply hostCommand_lasts | with_reducible apply resetCmd_lasts | with_reducible apply Lasts.foldl | (intro _ _ _) | with_reducible apply Lasts.ite | split | (intro _ _) | with_reducible apply Lasts.free | (with_reducible apply Lasts.upd <;> first | with_reducible rfl | with_reducible exact fun w => w | with_reducible exact fun _ w => w | with_reducible exact Nat.le_refl _ | skip)
  all_goals first | rfl | exact fun w => w | exact fun _ w => w | exact fun _ => rfl | exact fun _ _ => rfl | exact Nat.le_succ _ | exact fun w => Memory.foldl_wf 15 _ _ _ w | skip

theorem execModeSet_lasts (h : Hdr) (p : List Byte) {s t_ : State} (e_ : execModeSet h p s = .next t_) : Lasts true s t_ := by
  refine LastsEnds.elim ?_ e_
  clear e_
  unfold execModeSet
  try dsimp only
  repeat' first | with_reducible exact Lasts.refl _ _ | with_reducible assumption | with_reducible apply LastsEnds.next | with_reducible apply LastsEnds.ite | with_reducible apply hostCommand_lasts | with_reducible apply modeSetCmd_lasts | with_reducible apply Lasts.foldl | (intro _ _ _) | with_reducible apply Lasts.ite | split | (intro _ _) | with_reducible apply Lasts.free | (with_reducible apply Lasts.upd <;> first | with_reducible rfl | with_reducible exact fun w => w | with_reducible exact fun _ w => w | with_reducible exact Nat.le_refl _ | skip)
  all_goals first | rfl | exact fun w => w | exact fun _ w => w | exact fun _ => rfl | exact fun _ _ => rfl | exact Nat.le_succ _ | exact fun w => Memory.foldl_wf 15 _ _ _ w | skip

theorem execRecoveryAck_lasts (h : Hdr) (p : List Byte) {s t_ : State} (e_ : execRecoveryAck h p s = .next t_) : Lasts true s t_ := by
  refine LastsEnds.elim ?_ e_
  clear e_
  unfold execRecoveryAck
  try dsimp only
  repeat' first | with_reducible exact Lasts.refl _ _ | with_reducible assumption | with_reducible apply LastsEnds.next | with_reducible apply LastsEnds.ite | with_reducible apply hostCommand_lasts | with_reducible apply recoveryAckCmd_lasts | with_reducible apply Lasts.foldl | (intro _ _ _) | with_reducible apply Lasts.ite | split | (intro _ _) | with_reducible apply Lasts.free | (with_reducible apply Lasts.upd <;> first | with_reducible rfl | with_reducible exact fun w => w | with_reducible exact fun _ w => w | with_reducible exact Nat.le_refl _ | skip)
  all_goals first | rfl | exact fun w => w | exact fun _ w => w | exact fun _ => rfl | exact fun _ _ => rfl | exact Nat.le_succ _ | exact fun w => Memory.foldl_wf 15 _ _ _ w | skip

theorem execCommissioningDone_lasts (h : Hdr) (p : List Byte) {s t_ : State} (e_ : execCommissioningDone h p s = .next t_) : Lasts true s t_ := by
  refine LastsEnds.elim ?_ e_
  clear e_
  unfold execCommissioningDone
  try dsimp only
  repeat' first | with_reducible exact Lasts.refl _ _ | with_reducible assumption | with_reducible apply LastsEnds.next | with_reducible apply LastsEnds.ite | with_reducible apply hostCommand_lasts | with_reducible apply commissioningDoneCmd_lasts | with_reducible apply Lasts.foldl | (intro _ _ _) | with_reducible apply Lasts.ite | split | (intro _ _) | with_reducible apply Lasts.free | (with_reducible apply Lasts.upd <;> first | with_reducible rfl | with_reducible exact fun w => w | with_reducible exact fun _ w => w | with_reducible exact Nat.le_refl _ | skip)
  all_goals first | rfl | exact fun w => w | exact fun _ w => w | exact fun _ => rfl | exact fun _ _ => rfl | exact Nat.le_succ _ | exact fun w => Memory.foldl_wf 15 _ _ _ w | skip

theorem execDeferFrameReached_lasts (req : Nat) {s t_ : State} (e_ : execDeferFrameReached req s = .next t_) : Lasts true s t_ := by
  refine LastsEnds.elim ?_ e_
  clear e_
  unfold execDeferFrameReached
  try dsimp only
  repeat' first | with_reducible exact Lasts.refl _ _ | with_reducible assumption | with_reducible apply LastsEnds.next | with_reducible apply LastsEnds.ite | with_reducible apply startOp_lasts | with_reducible apply Lasts.foldl | (intro _ _ _) | with_reducible apply Lasts.ite | split | (intro _ _) | with_reducible apply Lasts.free | (with_reducible apply Lasts.upd <;> first | with_reducible rfl | with_reducible exact fun w => w | with_reducible exact fun _ w => w | with_reducible exact Nat.le_refl _ | skip)
  all_goals first | rfl | exact fun w => w | exact fun _ w => w | exact fun _ => rfl | exact fun _ _ => rfl | exact Nat.le_succ _ | exact fun w => Memory.foldl_wf 15 _ _ _ w | skip

theorem execLeaveLapse_lasts (req : Nat) {s t_ : State} (e_ : execLeaveLapse req s = .next t_) : Lasts true s t_ := by
  refine LastsEnds.elim ?_ e_
  clear e_
  unfold execLeaveLapse
  try dsimp only
  repeat' first | with_reducible exact Lasts.refl _ _ | with_reducible assumption | with_reducible apply LastsEnds.next | with_reducible apply LastsEnds.ite | with_reducible apply dropOp_lasts | with_reducible apply release_lasts | with_reducible apply Lasts.foldl | (intro _ _ _) | with_reducible apply Lasts.ite | split | (intro _ _) | with_reducible apply Lasts.free | (with_reducible apply Lasts.upd <;> first | with_reducible rfl | with_reducible exact fun w => w | with_reducible exact fun _ w => w | with_reducible exact Nat.le_refl _ | skip)
  all_goals first | rfl | exact fun w => w | exact fun _ w => w | exact fun _ => rfl | exact fun _ _ => rfl | exact Nat.le_succ _ | exact fun w => Memory.foldl_wf 15 _ _ _ w | skip

theorem execPeakPhaseEnd_lasts (req : Nat) {s t_ : State} (e_ : execPeakPhaseEnd req s = .next t_) : Lasts true s t_ := by
  refine LastsEnds.elim ?_ e_
  clear e_
  unfold execPeakPhaseEnd
  try dsimp only
  repeat' first | with_reducible exact Lasts.refl _ _ | with_reducible assumption | with_reducible apply LastsEnds.next | with_reducible apply LastsEnds.ite | with_reducible apply leavePeak_lasts | with_reducible apply Lasts.foldl | (intro _ _ _) | with_reducible apply Lasts.ite | split | (intro _ _) | with_reducible apply Lasts.free | (with_reducible apply Lasts.upd <;> first | with_reducible rfl | with_reducible exact fun w => w | with_reducible exact fun _ w => w | with_reducible exact Nat.le_refl _ | skip)
  all_goals first | rfl | exact fun w => w | exact fun _ w => w | exact fun _ => rfl | exact fun _ _ => rfl | exact Nat.le_succ _ | exact fun w => Memory.foldl_wf 15 _ _ _ w | skip

theorem execEasementOverrun_lasts (req : Nat) {s t_ : State} (e_ : execEasementOverrun req s = .next t_) : Lasts true s t_ := by
  refine LastsEnds.elim ?_ e_
  clear e_
  unfold execEasementOverrun
  try dsimp only
  repeat' first | with_reducible exact Lasts.refl _ _ | with_reducible assumption | with_reducible apply LastsEnds.next | with_reducible apply LastsEnds.ite | with_reducible apply event_lasts | with_reducible apply Lasts.foldl | (intro _ _ _) | with_reducible apply Lasts.ite | split | (intro _ _) | with_reducible apply Lasts.free | (with_reducible apply Lasts.upd <;> first | with_reducible rfl | with_reducible exact fun w => w | with_reducible exact fun _ w => w | with_reducible exact Nat.le_refl _ | skip)
  all_goals first | rfl | exact fun w => w | exact fun _ w => w | exact fun _ => rfl | exact fun _ _ => rfl | exact Nat.le_succ _ | exact fun w => Memory.foldl_wf 15 _ _ _ w | skip

theorem execObjWrite_lasts (h : Hdr) (p : List Byte) {s t_ : State} (e_ : execObjWrite h p s = .next t_) : Lasts true s t_ := by
  refine LastsEnds.elim ?_ e_
  clear e_
  unfold execObjWrite
  try dsimp only
  repeat' first | with_reducible exact Lasts.refl _ _ | with_reducible assumption | with_reducible apply LastsEnds.next | with_reducible apply LastsEnds.ite | with_reducible apply objWrite_lasts | with_reducible apply Lasts.foldl | (intro _ _ _) | with_reducible apply Lasts.ite | split | (intro _ _) | with_reducible apply Lasts.free | (with_reducible apply Lasts.upd <;> first | with_reducible rfl | with_reducible exact fun w => w | with_reducible exact fun _ w => w | with_reducible exact Nat.le_refl _ | skip)
  all_goals first | rfl | exact fun w => w | exact fun _ w => w | exact fun _ => rfl | exact fun _ _ => rfl | exact Nat.le_succ _ | exact fun w => Memory.foldl_wf 15 _ _ _ w | skip

theorem execHostPortWrite_lasts (h : Hdr) (data mask : List Byte) {s t_ : State} (e_ : execHostPortWrite h data mask s = .next t_) : Lasts true s t_ := by
  refine LastsEnds.elim ?_ e_
  clear e_
  unfold execHostPortWrite
  try dsimp only
  repeat' first | with_reducible exact Lasts.refl _ _ | with_reducible assumption | with_reducible apply LastsEnds.next | with_reducible apply LastsEnds.ite | with_reducible apply writeEntry_lasts | with_reducible apply Lasts.foldl | (intro _ _ _) | with_reducible apply Lasts.ite | split | (intro _ _) | with_reducible apply Lasts.free | (with_reducible apply Lasts.upd <;> first | with_reducible rfl | with_reducible exact fun w => w | with_reducible exact fun _ w => w | with_reducible exact Nat.le_refl _ | skip)
  all_goals first | rfl | exact fun w => w | exact fun _ w => w | exact fun _ => rfl | exact fun _ _ => rfl | exact Nat.le_succ _ | exact fun w => Memory.foldl_wf 15 _ _ _ w | skip

theorem execEasementConfigWrite_lasts (h : Hdr) (data mask : List Byte) {s t_ : State} (e_ : execEasementConfigWrite h data mask s = .next t_) : Lasts true s t_ := by
  refine LastsEnds.elim ?_ e_
  clear e_
  unfold execEasementConfigWrite
  try dsimp only
  repeat' first | with_reducible exact Lasts.refl _ _ | with_reducible assumption | with_reducible apply LastsEnds.next | with_reducible apply LastsEnds.ite | with_reducible apply writeEntry_lasts | with_reducible apply Lasts.foldl | (intro _ _ _) | with_reducible apply Lasts.ite | split | (intro _ _) | with_reducible apply Lasts.free | (with_reducible apply Lasts.upd <;> first | with_reducible rfl | with_reducible exact fun w => w | with_reducible exact fun _ w => w | with_reducible exact Nat.le_refl _ | skip)
  all_goals first | rfl | exact fun w => w | exact fun _ w => w | exact fun _ => rfl | exact fun _ _ => rfl | exact Nat.le_succ _ | exact fun w => Memory.foldl_wf 15 _ _ _ w | skip

theorem execSafetyConfigWrite_lasts (h : Hdr) (p : List Byte) {s t_ : State} (e_ : execSafetyConfigWrite h p s = .next t_) : Lasts true s t_ := by
  refine LastsEnds.elim ?_ e_
  clear e_
  unfold execSafetyConfigWrite
  try dsimp only
  repeat' first | with_reducible exact Lasts.refl _ _ | with_reducible assumption | with_reducible apply LastsEnds.next | with_reducible apply LastsEnds.ite | with_reducible apply objWrite_lasts | with_reducible apply Lasts.foldl | (intro _ _ _) | with_reducible apply Lasts.ite | split | (intro _ _) | with_reducible apply Lasts.free | (with_reducible apply Lasts.upd <;> first | with_reducible rfl | with_reducible exact fun w => w | with_reducible exact fun _ w => w | with_reducible exact Nat.le_refl _ | skip)
  all_goals first | rfl | exact fun w => w | exact fun _ w => w | exact fun _ => rfl | exact fun _ _ => rfl | exact Nat.le_succ _ | exact fun w => Memory.foldl_wf 15 _ _ _ w | skip

theorem execSealFieldWrite_lasts (h : Hdr) (p : List Byte) {s t_ : State} (e_ : execSealFieldWrite h p s = .next t_) : Lasts true s t_ := by
  refine LastsEnds.elim ?_ e_
  clear e_
  unfold execSealFieldWrite
  try dsimp only
  repeat' first | with_reducible exact Lasts.refl _ _ | with_reducible assumption | with_reducible apply LastsEnds.next | with_reducible apply LastsEnds.ite | with_reducible apply objWrite_lasts | with_reducible apply Lasts.foldl | (intro _ _ _) | with_reducible apply Lasts.ite | split | (intro _ _) | with_reducible apply Lasts.free | (with_reducible apply Lasts.upd <;> first | with_reducible rfl | with_reducible exact fun w => w | with_reducible exact fun _ w => w | with_reducible exact Nat.le_refl _ | skip)
  all_goals first | rfl | exact fun w => w | exact fun _ w => w | exact fun _ => rfl | exact fun _ _ => rfl | exact Nat.le_succ _ | exact fun w => Memory.foldl_wf 15 _ _ _ w | skip

theorem execTariffWrite_lasts (h : Hdr) (idx : Nat) (data mask : List Byte) {s t_ : State} (e_ : execTariffWrite h idx data mask s = .next t_) : Lasts true s t_ := by
  refine LastsEnds.elim ?_ e_
  clear e_
  unfold execTariffWrite
  try dsimp only
  repeat' first | with_reducible exact Lasts.refl _ _ | with_reducible assumption | with_reducible apply LastsEnds.next | with_reducible apply LastsEnds.ite | with_reducible apply writeEntry_lasts | with_reducible apply Lasts.foldl | (intro _ _ _) | with_reducible apply Lasts.ite | split | (intro _ _) | with_reducible apply Lasts.free | (with_reducible apply Lasts.upd <;> first | with_reducible rfl | with_reducible exact fun w => w | with_reducible exact fun _ w => w | with_reducible exact Nat.le_refl _ | skip)
  all_goals first | rfl | exact fun w => w | exact fun _ w => w | exact fun _ => rfl | exact fun _ _ => rfl | exact Nat.le_succ _ | exact fun w => Memory.foldl_wf 15 _ _ _ w | skip

theorem execPulseConfigWrite_lasts (h : Hdr) (idx : Nat) (data mask : List Byte) {s t_ : State} (e_ : execPulseConfigWrite h idx data mask s = .next t_) : Lasts true s t_ := by
  refine LastsEnds.elim ?_ e_
  clear e_
  unfold execPulseConfigWrite
  try dsimp only
  repeat' first | with_reducible exact Lasts.refl _ _ | with_reducible assumption | with_reducible apply LastsEnds.next | with_reducible apply LastsEnds.ite | with_reducible apply writeEntry_lasts | with_reducible apply Lasts.foldl | (intro _ _ _) | with_reducible apply Lasts.ite | split | (intro _ _) | with_reducible apply Lasts.free | (with_reducible apply Lasts.upd <;> first | with_reducible rfl | with_reducible exact fun w => w | with_reducible exact fun _ w => w | with_reducible exact Nat.le_refl _ | skip)
  all_goals first | rfl | exact fun w => w | exact fun _ w => w | exact fun _ => rfl | exact fun _ _ => rfl | exact Nat.le_succ _ | exact fun w => Memory.foldl_wf 15 _ _ _ w | skip

theorem execEnergyConfigWrite_lasts (h : Hdr) (idx : Nat) (data mask : List Byte) {s t_ : State} (e_ : execEnergyConfigWrite h idx data mask s = .next t_) : Lasts true s t_ := by
  refine LastsEnds.elim ?_ e_
  clear e_
  unfold execEnergyConfigWrite
  try dsimp only
  repeat' first | with_reducible exact Lasts.refl _ _ | with_reducible assumption | with_reducible apply LastsEnds.next | with_reducible apply LastsEnds.ite | with_reducible apply writeEntry_lasts | with_reducible apply Lasts.foldl | (intro _ _ _) | with_reducible apply Lasts.ite | split | (intro _ _) | with_reducible apply Lasts.free | (with_reducible apply Lasts.upd <;> first | with_reducible rfl | with_reducible exact fun w => w | with_reducible exact fun _ w => w | with_reducible exact Nat.le_refl _ | skip)
  all_goals first | rfl | exact fun w => w | exact fun _ w => w | exact fun _ => rfl | exact fun _ _ => rfl | exact Nat.le_succ _ | exact fun w => Memory.foldl_wf 15 _ _ _ w | skip

theorem execCalWrite_lasts (h : Hdr) (idx : Nat) (data mask : List Byte) {s t_ : State} (e_ : execCalWrite h idx data mask s = .next t_) : Lasts true s t_ := by
  refine LastsEnds.elim ?_ e_
  clear e_
  unfold execCalWrite
  try dsimp only
  repeat' first | with_reducible exact Lasts.refl _ _ | with_reducible assumption | with_reducible apply LastsEnds.next | with_reducible apply LastsEnds.ite | with_reducible apply writeEntry_lasts | with_reducible apply Lasts.foldl | (intro _ _ _) | with_reducible apply Lasts.ite | split | (intro _ _) | with_reducible apply Lasts.free | (with_reducible apply Lasts.upd <;> first | with_reducible rfl | with_reducible exact fun w => w | with_reducible exact fun _ w => w | with_reducible exact Nat.le_refl _ | skip)
  all_goals first | rfl | exact fun w => w | exact fun _ w => w | exact fun _ => rfl | exact fun _ _ => rfl | exact Nat.le_succ _ | exact fun w => Memory.foldl_wf 15 _ _ _ w | skip

theorem execBillingConfigWrite_lasts (h : Hdr) (data mask : List Byte) {s t_ : State} (e_ : execBillingConfigWrite h data mask s = .next t_) : Lasts true s t_ := by
  refine LastsEnds.elim ?_ e_
  clear e_
  unfold execBillingConfigWrite
  try dsimp only
  repeat' first | with_reducible exact Lasts.refl _ _ | with_reducible assumption | with_reducible apply LastsEnds.next | with_reducible apply LastsEnds.ite | with_reducible apply writeEntry_lasts | with_reducible apply Lasts.foldl | (intro _ _ _) | with_reducible apply Lasts.ite | split | (intro _ _) | with_reducible apply Lasts.free | (with_reducible apply Lasts.upd <;> first | with_reducible rfl | with_reducible exact fun w => w | with_reducible exact fun _ w => w | with_reducible exact Nat.le_refl _ | skip)
  all_goals first | rfl | exact fun w => w | exact fun _ w => w | exact fun _ => rfl | exact fun _ _ => rfl | exact Nat.le_succ _ | exact fun w => Memory.foldl_wf 15 _ _ _ w | skip

theorem execLinkConfigWrite_lasts (h : Hdr) (idx : Nat) (data mask : List Byte) {s t_ : State} (e_ : execLinkConfigWrite h idx data mask s = .next t_) : Lasts true s t_ := by
  refine LastsEnds.elim ?_ e_
  clear e_
  unfold execLinkConfigWrite
  try dsimp only
  repeat' first | with_reducible exact Lasts.refl _ _ | with_reducible assumption | with_reducible apply LastsEnds.next | with_reducible apply LastsEnds.ite | with_reducible apply writeEntry_lasts | with_reducible apply Lasts.foldl | (intro _ _ _) | with_reducible apply Lasts.ite | split | (intro _ _) | with_reducible apply Lasts.free | (with_reducible apply Lasts.upd <;> first | with_reducible rfl | with_reducible exact fun w => w | with_reducible exact fun _ w => w | with_reducible exact Nat.le_refl _ | skip)
  all_goals first | rfl | exact fun w => w | exact fun _ w => w | exact fun _ => rfl | exact fun _ _ => rfl | exact Nat.le_succ _ | exact fun w => Memory.foldl_wf 15 _ _ _ w | skip

theorem execLoadConfigWrite_lasts (h : Hdr) (idx : Nat) (data mask : List Byte) {s t_ : State} (e_ : execLoadConfigWrite h idx data mask s = .next t_) : Lasts true s t_ := by
  refine LastsEnds.elim ?_ e_
  clear e_
  unfold execLoadConfigWrite
  try dsimp only
  repeat' first | with_reducible exact Lasts.refl _ _ | with_reducible assumption | with_reducible apply LastsEnds.next | with_reducible apply LastsEnds.ite | with_reducible apply writeEntry_lasts | with_reducible apply Lasts.foldl | (intro _ _ _) | with_reducible apply Lasts.ite | split | (intro _ _) | with_reducible apply Lasts.free | (with_reducible apply Lasts.upd <;> first | with_reducible rfl | with_reducible exact fun w => w | with_reducible exact fun _ w => w | with_reducible exact Nat.le_refl _ | skip)
  all_goals first | rfl | exact fun w => w | exact fun _ w => w | exact fun _ => rfl | exact fun _ _ => rfl | exact Nat.le_succ _ | exact fun w => Memory.foldl_wf 15 _ _ _ w | skip

theorem execTrvConfigWrite_lasts (h : Hdr) (data mask : List Byte) {s t_ : State} (e_ : execTrvConfigWrite h data mask s = .next t_) : Lasts true s t_ := by
  refine LastsEnds.elim ?_ e_
  clear e_
  unfold execTrvConfigWrite
  try dsimp only
  repeat' first | with_reducible exact Lasts.refl _ _ | with_reducible assumption | with_reducible apply LastsEnds.next | with_reducible apply LastsEnds.ite | with_reducible apply writeEntry_lasts | with_reducible apply Lasts.foldl | (intro _ _ _) | with_reducible apply Lasts.ite | split | (intro _ _) | with_reducible apply Lasts.free | (with_reducible apply Lasts.upd <;> first | with_reducible rfl | with_reducible exact fun w => w | with_reducible exact fun _ w => w | with_reducible exact Nat.le_refl _ | skip)
  all_goals first | rfl | exact fun w => w | exact fun _ w => w | exact fun _ => rfl | exact fun _ _ => rfl | exact Nat.le_succ _ | exact fun w => Memory.foldl_wf 15 _ _ _ w | skip

theorem execDisplayConfigWrite_lasts (h : Hdr) (data mask : List Byte) {s t_ : State} (e_ : execDisplayConfigWrite h data mask s = .next t_) : Lasts true s t_ := by
  refine LastsEnds.elim ?_ e_
  clear e_
  unfold execDisplayConfigWrite
  try dsimp only
  repeat' first | with_reducible exact Lasts.refl _ _ | with_reducible assumption | with_reducible apply LastsEnds.next | with_reducible apply LastsEnds.ite | with_reducible apply writeEntry_lasts | with_reducible apply Lasts.foldl | (intro _ _ _) | with_reducible apply Lasts.ite | split | (intro _ _) | with_reducible apply Lasts.free | (with_reducible apply Lasts.upd <;> first | with_reducible rfl | with_reducible exact fun w => w | with_reducible exact fun _ w => w | with_reducible exact Nat.le_refl _ | skip)
  all_goals first | rfl | exact fun w => w | exact fun _ w => w | exact fun _ => rfl | exact fun _ _ => rfl | exact Nat.le_succ _ | exact fun w => Memory.foldl_wf 15 _ _ _ w | skip

theorem execActivationCopyDone_lasts (tagsOk : Bool) {s t_ : State} (e_ : execActivationCopyDone tagsOk s = .next t_) : Lasts true s t_ := by
  refine LastsEnds.elim ?_ e_
  clear e_
  unfold execActivationCopyDone
  try dsimp only
  repeat' first | with_reducible exact Lasts.refl _ _ | with_reducible assumption | with_reducible apply LastsEnds.next | with_reducible apply LastsEnds.ite | with_reducible apply assertSource_lasts | with_reducible apply commitTrial_lasts | with_reducible apply updateDone_lasts | with_reducible apply abandonActivation_lasts | with_reducible apply Lasts.foldl | (intro _ _ _) | with_reducible apply Lasts.ite | split | (intro _ _) | with_reducible apply Lasts.free | (with_reducible apply Lasts.upd <;> first | with_reducible rfl | with_reducible exact fun w => w | with_reducible exact fun _ w => w | with_reducible exact Nat.le_refl _ | skip)
  all_goals first | rfl | exact fun w => w | exact fun _ w => w | exact fun _ => rfl | exact fun _ _ => rfl | exact Nat.le_succ _ | exact fun w => Memory.foldl_wf 15 _ _ _ w | skip

theorem execFrameTick_lasts (m : FrameIn) {s t_ : State} (e_ : execFrameTick m s = .next t_) : Lasts true s t_ := by
  refine LastsEnds.elim ?_ e_
  clear e_
  unfold execFrameTick
  try dsimp only
  repeat' first | with_reducible exact Lasts.refl _ _ | with_reducible assumption | with_reducible apply LastsEnds.next | with_reducible apply LastsEnds.ite | with_reducible apply timeTick_lasts | with_reducible apply shutdownTick_lasts | with_reducible apply frameJobs_lasts | with_reducible apply slewTick_lasts | with_reducible apply takeDue_lasts | with_reducible apply Lasts.foldl | (intro _ _ _) | with_reducible apply Lasts.ite | split | (intro _ _) | with_reducible apply Lasts.free | (with_reducible apply Lasts.upd <;> first | with_reducible rfl | with_reducible exact fun w => w | with_reducible exact fun _ w => w | with_reducible exact Nat.le_refl _ | skip)
  all_goals first | rfl | exact fun w => w | exact fun _ w => w | exact fun _ => rfl | exact fun _ _ => rfl | exact Nat.le_succ _ | exact fun w => Memory.foldl_wf 15 _ _ _ w | skip

theorem execSuperframeTick_lasts (m : SuperIn) {s t_ : State} (e_ : execSuperframeTick m s = .next t_) : Lasts true s t_ := by
  refine LastsEnds.elim ?_ e_
  clear e_
  unfold execSuperframeTick
  try dsimp only
  repeat' first | with_reducible exact Lasts.refl _ _ | with_reducible assumption | with_reducible apply LastsEnds.next | with_reducible apply LastsEnds.ite | with_reducible apply superJobs_lasts | with_reducible apply Lasts.foldl | (intro _ _ _) | with_reducible apply Lasts.ite | split | (intro _ _) | with_reducible apply Lasts.free | (with_reducible apply Lasts.upd <;> first | with_reducible rfl | with_reducible exact fun w => w | with_reducible exact fun _ w => w | with_reducible exact Nat.le_refl _ | skip)
  all_goals first | rfl | exact fun w => w | exact fun _ w => w | exact fun _ => rfl | exact fun _ _ => rfl | exact Nat.le_succ _ | exact fun w => Memory.foldl_wf 15 _ _ _ w | skip

theorem execObjRead_lasts (h : Hdr) (p : List Byte) {s t_ : State} (e_ : execObjRead h p s = .next t_) : Lasts true s t_ := by
  refine LastsEnds.elim ?_ e_
  clear e_
  unfold execObjRead
  try dsimp only
  repeat' first | with_reducible exact Lasts.refl _ _ | with_reducible assumption | with_reducible apply LastsEnds.next | with_reducible apply LastsEnds.ite | with_reducible apply hostCommand_lasts | with_reducible apply objReadCmd_lasts | with_reducible apply Lasts.foldl | (intro _ _ _) | with_reducible apply Lasts.ite | split | (intro _ _) | with_reducible apply Lasts.free | (with_reducible apply Lasts.upd <;> first | with_reducible rfl | with_reducible exact fun w => w | with_reducible exact fun _ w => w | with_reducible exact Nat.le_refl _ | skip)
  all_goals first | rfl | exact fun w => w | exact fun _ w => w | exact fun _ => rfl | exact fun _ _ => rfl | exact Nat.le_succ _ | exact fun w => Memory.foldl_wf 15 _ _ _ w | skip

end Sys2Proof.Machine
end

