-- ==== Sys2Proof/Laws/Only.lean ====
section
/-!
SUPPORT. The frame of every operation: the parts of the state it may change. OnlyChanges is closed under every update; the other files of this
group say it of each operation, for every list that holds the parts it touches.
-/

namespace Sys2Proof.Safety.OnlyChanges

set_option linter.all false

open Sys2Proof.Machine

theorem refl (l : List Part) (s : State) : OnlyChanges l s s := by
  intro p _
  cases p <;> rfl

theorem trans {l : List Part} {s t u : State} (h : OnlyChanges l s t) (k : OnlyChanges l t u) : OnlyChanges l s u := by
  intro p hp
  have h1 := h p hp
  have h2 := k p hp
  cases p <;> exact h2.trans h1

theorem mono {l m : List Part} {s t : State} (h : OnlyChanges l s t) (k : ∀ p, p ∈ l → p ∈ m) : OnlyChanges m s t :=
  fun p hp => h p (fun q => hp (k p q))

/-- Any update that keeps the queue, seen part by part. -/
theorem upd {l : List Part} {u s : State} (h : OnlyChanges l u s) {f : Factory} {c : Clock} {p : Power} {r : Reset} {m : ModeSt} {o : Port} {ro : RoleSt}
    {fa : Faults} {ea : Ease} {fe : FrontEnd} {en : Energy} {bi : Billing} {se : Seal} {lo : Log} {li : Link} {sw : Switch} {ld : Loads}
    {tr : Traverse} {rd : Reader} {tg : Tag} {di : Display} {ch : Chain} {st : Storage}
    (h1 : Part.factory ∉ l → f = s.factory) (h2 : Part.clock ∉ l → c = s.clock) (h3 : Part.power ∉ l → p = s.power)
    (h4 : Part.rst ∉ l → r = s.rst) (h5 : Part.modes ∉ l → m = s.modes) (h6 : Part.port ∉ l → o = s.port)
    (h7 : Part.roles ∉ l → ro = s.roles) (h8 : Part.faults ∉ l → fa = s.faults) (h9 : Part.ease ∉ l → ea = s.ease)
    (h10 : Part.fe ∉ l → fe = s.fe) (h11 : Part.energy ∉ l → en = s.energy) (h12 : Part.billing ∉ l → bi = s.billing)
    (h13 : Part.seals ∉ l → se = s.seals) (h14 : Part.log ∉ l → lo = s.log) (h15 : Part.link ∉ l → li = s.link)
    (h16 : Part.sw ∉ l → sw = s.sw) (h17 : Part.loads ∉ l → ld = s.loads) (h18 : Part.trv ∉ l → tr = s.trv)
    (h19 : Part.rdr ∉ l → rd = s.rdr) (h20 : Part.tag ∉ l → tg = s.tag) (h21 : Part.disp ∉ l → di = s.disp)
    (h22 : Part.chain ∉ l → ch = s.chain) (h23 : Part.store ∉ l → st = s.store) :
    OnlyChanges l u ⟨f, c, p, r, m, o, ro, fa, ea, fe, en, bi, se, lo, li, sw, ld, tr, rd, tg, di, ch, st, s.pending⟩ := by
  refine h.trans ?_
  intro q hq
  cases q with
  | factory => exact h1 hq
  | clock => exact h2 hq
  | power => exact h3 hq
  | rst => exact h4 hq
  | modes => exact h5 hq
  | port => exact h6 hq
  | roles => exact h7 hq
  | faults => exact h8 hq
  | ease => exact h9 hq
  | fe => exact h10 hq
  | energy => exact h11 hq
  | billing => exact h12 hq
  | seals => exact h13 hq
  | log => exact h14 hq
  | link => exact h15 hq
  | sw => exact h16 hq
  | loads => exact h17 hq
  | trv => exact h18 hq
  | rdr => exact h19 hq
  | tag => exact h20 hq
  | disp => exact h21 hq
  | chain => exact h22 hq
  | store => exact h23 hq
  | pending => rfl

theorem foldl {l : List Part} {α : Type} {u s : State} {f : State → α → State} {a : List α} (h : OnlyChanges l u s)
    (hf : ∀ t x, OnlyChanges l u t → OnlyChanges l u (f t x)) : OnlyChanges l u (a.foldl f s) := by
  induction a generalizing s with
  | nil => exact h
  | cons x a ih => exact ih (hf s x h)

theorem ite {l : List Part} {c : Prop} [Decidable c] {u s t : State} (h : OnlyChanges l u s) (k : OnlyChanges l u t) :
    OnlyChanges l u (if c then s else t) := by
  split <;> assumption

end Sys2Proof.Safety.OnlyChanges

namespace Sys2Proof.Safety

open Sys2Proof.Machine

/-- The frame of a meaning: where it answers a next state, that state differs from `s` in the listed parts only. -/
def OnlyEnds (l : List Part) (s : State) (o : Host.Outcome State Fault Refusal) : Prop := ∀ t, o = .next t → OnlyChanges l s t

namespace OnlyEnds

theorem elim {l : List Part} {s t : State} {o : Host.Outcome State Fault Refusal} (h : OnlyEnds l s o) (e : o = .next t) : OnlyChanges l s t := h t e

theorem next {l : List Part} {s t : State} (h : OnlyChanges l s t) : OnlyEnds l s (.next t) := by
  intro u e
  injection e with e
  exact e ▸ h

theorem fault {l : List Part} {s : State} (f : Fault) : OnlyEnds l s (.fault f) := fun _ e => nomatch e

theorem refused {l : List Part} {s : State} (r : Refusal) : OnlyEnds l s (.refused r) := fun _ e => nomatch e

theorem ite {l : List Part} {c : Prop} [Decidable c] {s : State} {o p : Host.Outcome State Fault Refusal} (h : OnlyEnds l s o) (k : OnlyEnds l s p) :
    OnlyEnds l s (if c then o else p) := by
  split <;> assumption

end OnlyEnds

end Sys2Proof.Safety
end

