-- ==== Sys2Proof/Laws/OnlyMemory.lean ====
section
/-!
SUPPORT. The frames of the operations of Machine/Memory.lean (OnlyChanges, for every list that holds the parts they touch).
-/

namespace Sys2Proof.Machine

set_option linter.all false

open Sys2Proof.Safety

variable {l_ : List Part} {u_ : State}

theorem putStore_only (a : Nat) (b : List Byte) {s : State} (ktag : Part.tag ∈ l_) (h_ : OnlyChanges l_ u_ s) : OnlyChanges l_ u_ (putStore a b s) := by
  unfold putStore
  try dsimp only
  repeat' first | with_reducible assumption | with_reducible refine OnlyChanges.foldl ?_ (fun _ _ _ => ?_) | with_reducible apply OnlyChanges.ite | split | (with_reducible apply OnlyChanges.upd <;> first | exact fun q => absurd (by assumption) q | with_reducible exact fun _ => rfl | skip)
  all_goals first | exact fun _ => rfl | skip

theorem ringPut_only (base size head headBytes : Nat) (b : List Byte) {s : State} (ktag : Part.tag ∈ l_) (h_ : OnlyChanges l_ u_ s) : OnlyChanges l_ u_ (ringPut base size head headBytes b s) := by
  unfold ringPut
  try dsimp only
  repeat' first | with_reducible assumption | with_reducible apply putStore_only | with_reducible refine OnlyChanges.foldl ?_ (fun _ _ _ => ?_) | with_reducible apply OnlyChanges.ite | split | (with_reducible apply OnlyChanges.upd <;> first | exact fun q => absurd (by assumption) q | with_reducible exact fun _ => rfl | skip)
  all_goals first | exact fun _ => rfl | skip

theorem witnessRecord_only (b : List Byte) {s : State} (ktag : Part.tag ∈ l_) (h_ : OnlyChanges l_ u_ s) : OnlyChanges l_ u_ (witnessRecord b s) := by
  unfold witnessRecord
  try dsimp only
  repeat' first | with_reducible assumption | with_reducible apply ringPut_only | with_reducible refine OnlyChanges.foldl ?_ (fun _ _ _ => ?_) | with_reducible apply OnlyChanges.ite | split | (with_reducible apply OnlyChanges.upd <;> first | exact fun q => absurd (by assumption) q | with_reducible exact fun _ => rfl | skip)
  all_goals first | exact fun _ => rfl | skip

theorem witnessSealRecord_only (b : List Byte) {s : State} (ktag : Part.tag ∈ l_) (h_ : OnlyChanges l_ u_ s) : OnlyChanges l_ u_ (witnessSealRecord b s) := by
  unfold witnessSealRecord
  try dsimp only
  repeat' first | with_reducible assumption | with_reducible apply ringPut_only | with_reducible refine OnlyChanges.foldl ?_ (fun _ _ _ => ?_) | with_reducible apply OnlyChanges.ite | split | (with_reducible apply OnlyChanges.upd <;> first | exact fun q => absurd (by assumption) q | with_reducible exact fun _ => rfl | skip)
  all_goals first | exact fun _ => rfl | skip

end Sys2Proof.Machine
end

