-- ==== Sys2Proof/Laws/OnlyOps.lean ====
section
/-!
SUPPORT. The frames of the operations of Machine/Ops.lean (OnlyChanges, for every list that holds the parts they touch).
-/

namespace Sys2Proof.Machine

set_option linter.all false

open Sys2Proof.Safety

variable {l_ : List Part} {u_ : State}

theorem State.drawFree_only  {s : State} (kfactory : Part.factory ∈ l_) (h_ : OnlyChanges l_ u_ s) : OnlyChanges l_ u_ (State.drawFree s) := by
  unfold State.drawFree
  try dsimp only
  repeat' first | with_reducible assumption | with_reducible refine OnlyChanges.foldl ?_ (fun _ _ _ => ?_) | with_reducible apply OnlyChanges.ite | split | (with_reducible apply OnlyChanges.upd <;> first | exact fun q => absurd (by assumption) q | with_reducible exact fun _ => rfl | skip)
  all_goals first | exact fun _ => rfl | skip

theorem journalApp_only (type key n : Nat) {s : State} (kstore : Part.store ∈ l_) (h_ : OnlyChanges l_ u_ s) : OnlyChanges l_ u_ (journalApp type key n s) := by
  unfold journalApp
  try dsimp only
  repeat' first | with_reducible assumption | with_reducible refine OnlyChanges.foldl ?_ (fun _ _ _ => ?_) | with_reducible apply OnlyChanges.ite | split | (with_reducible apply OnlyChanges.upd <;> first | exact fun q => absurd (by assumption) q | with_reducible exact fun _ => rfl | skip)
  all_goals first | exact fun _ => rfl | skip

theorem journalMet_only (type key n : Nat) {s : State} (kstore : Part.store ∈ l_) (h_ : OnlyChanges l_ u_ s) : OnlyChanges l_ u_ (journalMet type key n s) := by
  unfold journalMet
  try dsimp only
  repeat' first | with_reducible assumption | with_reducible refine OnlyChanges.foldl ?_ (fun _ _ _ => ?_) | with_reducible apply OnlyChanges.ite | split | (with_reducible apply OnlyChanges.upd <;> first | exact fun q => absurd (by assumption) q | with_reducible exact fun _ => rfl | skip)
  all_goals first | exact fun _ => rfl | skip

theorem appRetire_only (hit : JRec → Bool) {s : State} (kstore : Part.store ∈ l_) (h_ : OnlyChanges l_ u_ s) : OnlyChanges l_ u_ (appRetire hit s) := by
  unfold appRetire
  try dsimp only
  repeat' first | with_reducible assumption | with_reducible apply journalApp_only | with_reducible refine OnlyChanges.foldl ?_ (fun _ _ _ => ?_) | with_reducible apply OnlyChanges.ite | split | (with_reducible apply OnlyChanges.upd <;> first | exact fun q => absurd (by assumption) q | with_reducible exact fun _ => rfl | skip)
  all_goals first | exact fun _ => rfl | skip

theorem metRetire_only (hit : JRec → Bool) {s : State} (kstore : Part.store ∈ l_) (h_ : OnlyChanges l_ u_ s) : OnlyChanges l_ u_ (metRetire hit s) := by
  unfold metRetire
  try dsimp only
  repeat' first | with_reducible assumption | with_reducible apply journalMet_only | with_reducible refine OnlyChanges.foldl ?_ (fun _ _ _ => ?_) | with_reducible apply OnlyChanges.ite | split | (with_reducible apply OnlyChanges.upd <;> first | exact fun q => absurd (by assumption) q | with_reducible exact fun _ => rfl | skip)
  all_goals first | exact fun _ => rfl | skip

theorem journalNew_only (type key n : Nat) {s : State} (kstore : Part.store ∈ l_) (h_ : OnlyChanges l_ u_ s) : OnlyChanges l_ u_ (journalNew type key n s) := by
  unfold journalNew
  try dsimp only
  repeat' first | with_reducible assumption | with_reducible apply appRetire_only | with_reducible apply journalApp_only | with_reducible refine OnlyChanges.foldl ?_ (fun _ _ _ => ?_) | with_reducible apply OnlyChanges.ite | split | (with_reducible apply OnlyChanges.upd <;> first | exact fun q => absurd (by assumption) q | with_reducible exact fun _ => rfl | skip)
  all_goals first | exact fun _ => rfl | skip

theorem journalUpdate_only (slot kind n : Nat) {s : State} (kstore : Part.store ∈ l_) (h_ : OnlyChanges l_ u_ s) : OnlyChanges l_ u_ (journalUpdate slot kind n s) := by
  unfold journalUpdate
  try dsimp only
  repeat' first | with_reducible assumption | with_reducible apply journalNew_only | with_reducible refine OnlyChanges.foldl ?_ (fun _ _ _ => ?_) | with_reducible apply OnlyChanges.ite | split | (with_reducible apply OnlyChanges.upd <;> first | exact fun q => absurd (by assumption) q | with_reducible exact fun _ => rfl | skip)
  all_goals first | exact fun _ => rfl | skip

theorem emit_only (code : Nat) (payload : List Byte) (cmdAck : Bool) {s : State} (kport : Part.port ∈ l_) (kstore : Part.store ∈ l_) (h_ : OnlyChanges l_ u_ s) : OnlyChanges l_ u_ (emit code payload cmdAck s) := by
  unfold emit
  try dsimp only
  repeat' first | with_reducible assumption | with_reducible apply journalApp_only | with_reducible refine OnlyChanges.foldl ?_ (fun _ _ _ => ?_) | with_reducible apply OnlyChanges.ite | split | (with_reducible apply OnlyChanges.upd <;> first | exact fun q => absurd (by assumption) q | with_reducible exact fun _ => rfl | skip)
  all_goals first | exact fun _ => rfl | skip

theorem event_only (code : Nat) (payload : List Byte) {s : State} (kport : Part.port ∈ l_) (kstore : Part.store ∈ l_) (h_ : OnlyChanges l_ u_ s) : OnlyChanges l_ u_ (event code payload s) := by
  unfold event
  try dsimp only
  repeat' first | with_reducible assumption | with_reducible apply emit_only | with_reducible refine OnlyChanges.foldl ?_ (fun _ _ _ => ?_) | with_reducible apply OnlyChanges.ite | split | (with_reducible apply OnlyChanges.upd <;> first | exact fun q => absurd (by assumption) q | with_reducible exact fun _ => rfl | skip)
  all_goals first | exact fun _ => rfl | skip

end Sys2Proof.Machine
end

