-- ==== Sys2Proof/Laws/OnlyRecords.lean ====
section
/-!
SUPPORT. The frames of the operations of Machine/Records.lean (OnlyChanges, for every list that holds the parts they touch).
-/

namespace Sys2Proof.Machine

set_option linter.all false

open Sys2Proof.Safety

variable {l_ : List Part} {u_ : State}

theorem updEng_only (n : Nat) (f : EnergyOut → EnergyOut) {s : State} (kenergy : Part.energy ∈ l_) (h_ : OnlyChanges l_ u_ s) : OnlyChanges l_ u_ (updEng n f s) := by
  unfold updEng
  try dsimp only
  repeat' first | with_reducible assumption | with_reducible refine OnlyChanges.foldl ?_ (fun _ _ _ => ?_) | with_reducible apply OnlyChanges.ite | split | (with_reducible apply OnlyChanges.upd <;> first | exact fun q => absurd (by assumption) q | with_reducible exact fun _ => rfl | skip)
  all_goals first | exact fun _ => rfl | skip

theorem setWarn_only (n b : Nat) (value : Int) {s : State} (kport : Part.port ∈ l_) (kenergy : Part.energy ∈ l_) (kstore : Part.store ∈ l_) (h_ : OnlyChanges l_ u_ s) : OnlyChanges l_ u_ (setWarn n b value s) := by
  unfold setWarn
  try dsimp only
  repeat' first | with_reducible assumption | with_reducible apply event_only | with_reducible apply updEng_only | with_reducible refine OnlyChanges.foldl ?_ (fun _ _ _ => ?_) | with_reducible apply OnlyChanges.ite | split | (with_reducible apply OnlyChanges.upd <;> first | exact fun q => absurd (by assumption) q | with_reducible exact fun _ => rfl | skip)
  all_goals first | exact fun _ => rfl | skip

theorem setSessionFlag_only (n b : Nat) {s : State} (kenergy : Part.energy ∈ l_) (h_ : OnlyChanges l_ u_ s) : OnlyChanges l_ u_ (setSessionFlag n b s) := by
  unfold setSessionFlag
  try dsimp only
  repeat' first | with_reducible assumption | with_reducible apply updEng_only | with_reducible refine OnlyChanges.foldl ?_ (fun _ _ _ => ?_) | with_reducible apply OnlyChanges.ite | split | (with_reducible apply OnlyChanges.upd <;> first | exact fun q => absurd (by assumption) q | with_reducible exact fun _ => rfl | skip)
  all_goals first | exact fun _ => rfl | skip

theorem recordsPending_only  {s : State} (kport : Part.port ∈ l_) (klog : Part.log ∈ l_) (kstore : Part.store ∈ l_) (h_ : OnlyChanges l_ u_ s) : OnlyChanges l_ u_ (recordsPending s) := by
  unfold recordsPending
  try dsimp only
  repeat' first | with_reducible assumption | with_reducible apply event_only | with_reducible refine OnlyChanges.foldl ?_ (fun _ _ _ => ?_) | with_reducible apply OnlyChanges.ite | split | (with_reducible apply OnlyChanges.upd <;> first | exact fun q => absurd (by assumption) q | with_reducible exact fun _ => rfl | skip)
  all_goals first | exact fun _ => rfl | skip

theorem signedRetire_only (l : List Record) {s : State} (kstore : Part.store ∈ l_) (h_ : OnlyChanges l_ u_ s) : OnlyChanges l_ u_ (signedRetire l s) := by
  unfold signedRetire
  try dsimp only
  repeat' first | with_reducible assumption | with_reducible apply metRetire_only | with_reducible refine OnlyChanges.foldl ?_ (fun _ _ _ => ?_) | with_reducible apply OnlyChanges.ite | split | (with_reducible apply OnlyChanges.upd <;> first | exact fun q => absurd (by assumption) q | with_reducible exact fun _ => rfl | skip)
  all_goals first | exact fun _ => rfl | skip

theorem sign_only (r : Record) {s : State} (kport : Part.port ∈ l_) (klog : Part.log ∈ l_) (ktag : Part.tag ∈ l_) (kstore : Part.store ∈ l_) (h_ : OnlyChanges l_ u_ s) : OnlyChanges l_ u_ (sign r s) := by
  unfold sign
  try dsimp only
  repeat' first | with_reducible assumption | with_reducible apply witnessSealRecord_only | with_reducible apply recordsPending_only | with_reducible apply journalMet_only | with_reducible refine OnlyChanges.foldl ?_ (fun _ _ _ => ?_) | with_reducible apply OnlyChanges.ite | split | (with_reducible apply OnlyChanges.upd <;> first | exact fun q => absurd (by assumption) q | with_reducible exact fun _ => rfl | skip)
  all_goals first | exact fun _ => rfl | skip

theorem countGap_only  {s : State} (kport : Part.port ∈ l_) (klog : Part.log ∈ l_) (kstore : Part.store ∈ l_) (h_ : OnlyChanges l_ u_ s) : OnlyChanges l_ u_ (countGap s) := by
  unfold countGap
  try dsimp only
  repeat' first | with_reducible assumption | with_reducible apply event_only | with_reducible refine OnlyChanges.foldl ?_ (fun _ _ _ => ?_) | with_reducible apply OnlyChanges.ite | split | (with_reducible apply OnlyChanges.upd <;> first | exact fun q => absurd (by assumption) q | with_reducible exact fun _ => rfl | skip)
  all_goals first | exact fun _ => rfl | skip

theorem signSwitch_only (old new instant : Nat) (adjusted rebuilt : Bool) {s : State} (kport : Part.port ∈ l_) (klog : Part.log ∈ l_) (ktag : Part.tag ∈ l_) (kstore : Part.store ∈ l_) (h_ : OnlyChanges l_ u_ s) : OnlyChanges l_ u_ (signSwitch old new instant adjusted rebuilt s) := by
  unfold signSwitch
  try dsimp only
  repeat' first | with_reducible assumption | with_reducible apply countGap_only | with_reducible apply sign_only | with_reducible refine OnlyChanges.foldl ?_ (fun _ _ _ => ?_) | with_reducible apply OnlyChanges.ite | split | (with_reducible apply OnlyChanges.upd <;> first | exact fun q => absurd (by assumption) q | with_reducible exact fun _ => rfl | skip)
  all_goals first | exact fun _ => rfl | skip

theorem signBenchmark_only (entry : Bool) (instant : Nat) (rebuilt : Bool) {s : State} (kport : Part.port ∈ l_) (klog : Part.log ∈ l_) (ktag : Part.tag ∈ l_) (kstore : Part.store ∈ l_) (h_ : OnlyChanges l_ u_ s) : OnlyChanges l_ u_ (signBenchmark entry instant rebuilt s) := by
  unfold signBenchmark
  try dsimp only
  repeat' first | with_reducible assumption | with_reducible apply countGap_only | with_reducible apply sign_only | with_reducible refine OnlyChanges.foldl ?_ (fun _ _ _ => ?_) | with_reducible apply OnlyChanges.ite | split | (with_reducible apply OnlyChanges.upd <;> first | exact fun q => absurd (by assumption) q | with_reducible exact fun _ => rfl | skip)
  all_goals first | exact fun _ => rfl | skip

theorem signGap_only  {s : State} (kport : Part.port ∈ l_) (klog : Part.log ∈ l_) (ktag : Part.tag ∈ l_) (kstore : Part.store ∈ l_) (h_ : OnlyChanges l_ u_ s) : OnlyChanges l_ u_ (signGap s) := by
  unfold signGap
  try dsimp only
  repeat' first | with_reducible assumption | with_reducible apply sign_only | with_reducible refine OnlyChanges.foldl ?_ (fun _ _ _ => ?_) | with_reducible apply OnlyChanges.ite | split | (with_reducible apply OnlyChanges.upd <;> first | exact fun q => absurd (by assumption) q | with_reducible exact fun _ => rfl | skip)
  all_goals first | exact fun _ => rfl | skip

theorem signDemandReset_only (instant : Nat) (adjusted : Bool) {s : State} (kport : Part.port ∈ l_) (klog : Part.log ∈ l_) (ktag : Part.tag ∈ l_) (kstore : Part.store ∈ l_) (h_ : OnlyChanges l_ u_ s) : OnlyChanges l_ u_ (signDemandReset instant adjusted s) := by
  unfold signDemandReset
  try dsimp only
  repeat' first | with_reducible assumption | with_reducible apply sign_only | with_reducible refine OnlyChanges.foldl ?_ (fun _ _ _ => ?_) | with_reducible apply OnlyChanges.ite | split | (with_reducible apply OnlyChanges.upd <;> first | exact fun q => absurd (by assumption) q | with_reducible exact fun _ => rfl | skip)
  all_goals first | exact fun _ => rfl | skip

theorem signParameter_only (outlet object index : Nat) (content : List Byte) {s : State} (kport : Part.port ∈ l_) (klog : Part.log ∈ l_) (ktag : Part.tag ∈ l_) (kstore : Part.store ∈ l_) (h_ : OnlyChanges l_ u_ s) : OnlyChanges l_ u_ (signParameter outlet object index content s) := by
  unfold signParameter
  try dsimp only
  repeat' first | with_reducible assumption | with_reducible apply sign_only | with_reducible refine OnlyChanges.foldl ?_ (fun _ _ _ => ?_) | with_reducible apply OnlyChanges.ite | split | (with_reducible apply OnlyChanges.upd <;> first | exact fun q => absurd (by assumption) q | with_reducible exact fun _ => rfl | skip)
  all_goals first | exact fun _ => rfl | skip

theorem signClosing_only (type n time : Nat) (x : Session) {s : State} (kport : Part.port ∈ l_) (klog : Part.log ∈ l_) (ktag : Part.tag ∈ l_) (kstore : Part.store ∈ l_) (h_ : OnlyChanges l_ u_ s) : OnlyChanges l_ u_ (signClosing type n time x s) := by
  unfold signClosing
  try dsimp only
  repeat' first | with_reducible assumption | with_reducible apply sign_only | with_reducible refine OnlyChanges.foldl ?_ (fun _ _ _ => ?_) | with_reducible apply OnlyChanges.ite | split | (with_reducible apply OnlyChanges.upd <;> first | exact fun q => absurd (by assumption) q | with_reducible exact fun _ => rfl | skip)
  all_goals first | exact fun _ => rfl | skip

theorem clearPulses_only  {s : State} (kenergy : Part.energy ∈ l_) (h_ : OnlyChanges l_ u_ s) : OnlyChanges l_ u_ (clearPulses s) := by
  unfold clearPulses
  try dsimp only
  repeat' first | with_reducible assumption | with_reducible refine OnlyChanges.foldl ?_ (fun _ _ _ => ?_) | with_reducible apply OnlyChanges.ite | split | (with_reducible apply OnlyChanges.upd <;> first | exact fun q => absurd (by assumption) q | with_reducible exact fun _ => rfl | skip)
  all_goals first | exact fun _ => rfl | skip

theorem enterMode_only (new : Mode) (input pendingInput : Nat) {s : State} (kmodes : Part.modes ∈ l_) (kport : Part.port ∈ l_) (kenergy : Part.energy ∈ l_) (kbilling : Part.billing ∈ l_) (klog : Part.log ∈ l_) (ktag : Part.tag ∈ l_) (kstore : Part.store ∈ l_) (h_ : OnlyChanges l_ u_ s) : OnlyChanges l_ u_ (enterMode new input pendingInput s) := by
  unfold enterMode
  try dsimp only
  repeat' first | with_reducible assumption | with_reducible apply signBenchmark_only | with_reducible apply clearPulses_only | with_reducible apply event_only | with_reducible refine OnlyChanges.foldl ?_ (fun _ _ _ => ?_) | with_reducible apply OnlyChanges.ite | split | (with_reducible apply OnlyChanges.upd <;> first | exact fun q => absurd (by assumption) q | with_reducible exact fun _ => rfl | skip)
  all_goals first | exact fun _ => rfl | skip

theorem benchCancelled_only (cause : Nat) {s : State} (kmodes : Part.modes ∈ l_) (kport : Part.port ∈ l_) (kstore : Part.store ∈ l_) (h_ : OnlyChanges l_ u_ s) : OnlyChanges l_ u_ (benchCancelled cause s) := by
  unfold benchCancelled
  try dsimp only
  repeat' first | with_reducible assumption | with_reducible apply emit_only | with_reducible refine OnlyChanges.foldl ?_ (fun _ _ _ => ?_) | with_reducible apply OnlyChanges.ite | split | (with_reducible apply OnlyChanges.upd <;> first | exact fun q => absurd (by assumption) q | with_reducible exact fun _ => rfl | skip)
  all_goals first | exact fun _ => rfl | skip

theorem lastClosed_only  {s : State} (kmodes : Part.modes ∈ l_) (kport : Part.port ∈ l_) (kenergy : Part.energy ∈ l_) (kbilling : Part.billing ∈ l_) (klog : Part.log ∈ l_) (ktag : Part.tag ∈ l_) (kstore : Part.store ∈ l_) (h_ : OnlyChanges l_ u_ s) : OnlyChanges l_ u_ (lastClosed s) := by
  unfold lastClosed
  try dsimp only
  repeat' first | with_reducible assumption | with_reducible apply enterMode_only | with_reducible apply benchCancelled_only | with_reducible refine OnlyChanges.foldl ?_ (fun _ _ _ => ?_) | with_reducible apply OnlyChanges.ite | split | (with_reducible apply OnlyChanges.upd <;> first | exact fun q => absurd (by assumption) q | with_reducible exact fun _ => rfl | skip)
  all_goals first | exact fun _ => rfl | skip

theorem cancelSync_only  {s : State} (kport : Part.port ∈ l_) (kfe : Part.fe ∈ l_) (kstore : Part.store ∈ l_) (h_ : OnlyChanges l_ u_ s) : OnlyChanges l_ u_ (cancelSync s) := by
  unfold cancelSync
  try dsimp only
  repeat' first | with_reducible assumption | with_reducible apply emit_only | with_reducible refine OnlyChanges.foldl ?_ (fun _ _ _ => ?_) | with_reducible apply OnlyChanges.ite | split | (with_reducible apply OnlyChanges.upd <;> first | exact fun q => absurd (by assumption) q | with_reducible exact fun _ => rfl | skip)
  all_goals first | exact fun _ => rfl | skip

theorem openSession_only (n : Nat) (exportOk : Bool) (maxImp maxExp : Nat) {s : State} (kmodes : Part.modes ∈ l_) (kport : Part.port ∈ l_) (kfe : Part.fe ∈ l_) (kenergy : Part.energy ∈ l_) (kbilling : Part.billing ∈ l_) (klog : Part.log ∈ l_) (ktag : Part.tag ∈ l_) (kstore : Part.store ∈ l_) (h_ : OnlyChanges l_ u_ s) : OnlyChanges l_ u_ (openSession n exportOk maxImp maxExp s) := by
  unfold openSession
  try dsimp only
  repeat' first | with_reducible assumption | with_reducible apply updEng_only | with_reducible apply sign_only | with_reducible apply cancelSync_only | with_reducible apply enterMode_only | with_reducible refine OnlyChanges.foldl ?_ (fun _ _ _ => ?_) | with_reducible apply OnlyChanges.ite | split | (with_reducible apply OnlyChanges.upd <;> first | exact fun q => absurd (by assumption) q | with_reducible exact fun _ => rfl | skip)
  all_goals first | exact fun _ => rfl | skip

theorem closeSession_only (n : Nat) {s : State} (kmodes : Part.modes ∈ l_) (kport : Part.port ∈ l_) (kfe : Part.fe ∈ l_) (kenergy : Part.energy ∈ l_) (kbilling : Part.billing ∈ l_) (klog : Part.log ∈ l_) (ktag : Part.tag ∈ l_) (kstore : Part.store ∈ l_) (h_ : OnlyChanges l_ u_ s) : OnlyChanges l_ u_ (closeSession n s) := by
  unfold closeSession
  try dsimp only
  repeat' first | with_reducible assumption | with_reducible apply signClosing_only | with_reducible apply lastClosed_only | with_reducible refine OnlyChanges.foldl ?_ (fun _ _ _ => ?_) | with_reducible apply OnlyChanges.ite | split | (with_reducible apply OnlyChanges.upd <;> first | exact fun q => absurd (by assumption) q | with_reducible exact fun _ => rfl | skip)
  all_goals first | exact fun _ => rfl | skip

end Sys2Proof.Machine
end

