-- ==== Sys2Proof/Laws/OnlyBilling.lean ====
section
/-!
SUPPORT. The frames of the operations of Machine/Billing.lean (OnlyChanges, for every list that holds the parts they touch).
-/

namespace Sys2Proof.Machine

set_option linter.all false

open Sys2Proof.Safety

variable {l_ : List Part} {u_ : State}

theorem timeAdjusted_only (kind : Nat) (ms : Int) (after seq : Nat) (ack : Bool) {s : State} (kport : Part.port ∈ l_) (kstore : Part.store ∈ l_) (h_ : OnlyChanges l_ u_ s) : OnlyChanges l_ u_ (timeAdjusted kind ms after seq ack s) := by
  unfold timeAdjusted
  try dsimp only
  repeat' first | with_reducible assumption | with_reducible apply emit_only | with_reducible refine OnlyChanges.foldl ?_ (fun _ _ _ => ?_) | with_reducible apply OnlyChanges.ite | split | (with_reducible apply OnlyChanges.upd <;> first | exact fun q => absurd (by assumption) q | with_reducible exact fun _ => rfl | skip)
  all_goals first | exact fun _ => rfl | skip

theorem timeSetCmd_only (h : Hdr) (p : List Byte) {s : State} (kclock : Part.clock ∈ l_) (kport : Part.port ∈ l_) (kstore : Part.store ∈ l_) (h_ : OnlyChanges l_ u_ s) : OnlyChanges l_ u_ (timeSetCmd h p s).run.st := by
  unfold timeSetCmd
  try dsimp only
  repeat' first | with_reducible assumption | with_reducible apply timeAdjusted_only | with_reducible refine OnlyChanges.foldl ?_ (fun _ _ _ => ?_) | with_reducible apply OnlyChanges.ite | split | (with_reducible apply OnlyChanges.upd <;> first | exact fun q => absurd (by assumption) q | with_reducible exact fun _ => rfl | skip)
  all_goals first | exact fun _ => rfl | skip

theorem priceCheck_only  {s : State} (kport : Part.port ∈ l_) (kbilling : Part.billing ∈ l_) (kstore : Part.store ∈ l_) (h_ : OnlyChanges l_ u_ s) : OnlyChanges l_ u_ (priceCheck s) := by
  unfold priceCheck
  try dsimp only
  repeat' first | with_reducible assumption | with_reducible apply event_only | with_reducible refine OnlyChanges.foldl ?_ (fun _ _ _ => ?_) | with_reducible apply OnlyChanges.ite | split | (with_reducible apply OnlyChanges.upd <;> first | exact fun q => absurd (by assumption) q | with_reducible exact fun _ => rfl | skip)
  all_goals first | exact fun _ => rfl | skip

theorem takeBoundary_only (c : Commit) {s : State} (kbilling : Part.billing ∈ l_) (h_ : OnlyChanges l_ u_ s) : OnlyChanges l_ u_ (takeBoundary c s) := by
  unfold takeBoundary
  try dsimp only
  repeat' first | with_reducible assumption | with_reducible refine OnlyChanges.foldl ?_ (fun _ _ _ => ?_) | with_reducible apply OnlyChanges.ite | split | (with_reducible apply OnlyChanges.upd <;> first | exact fun q => absurd (by assumption) q | with_reducible exact fun _ => rfl | skip)
  all_goals first | exact fun _ => rfl | skip

theorem closeWindow_only (instant tick : Nat) (cut : Bool) {s : State} (kbilling : Part.billing ∈ l_) (h_ : OnlyChanges l_ u_ s) : OnlyChanges l_ u_ (closeWindow instant tick cut s) := by
  unfold closeWindow
  try dsimp only
  repeat' first | with_reducible assumption | with_reducible refine OnlyChanges.foldl ?_ (fun _ _ _ => ?_) | with_reducible apply OnlyChanges.ite | split | (with_reducible apply OnlyChanges.upd <;> first | exact fun q => absurd (by assumption) q | with_reducible exact fun _ => rfl | skip)
  all_goals first | exact fun _ => rfl | skip

theorem judgeMax_only (u d w no : Nat) (e : Eval) {s : State} (kport : Part.port ∈ l_) (kbilling : Part.billing ∈ l_) (kstore : Part.store ∈ l_) (h_ : OnlyChanges l_ u_ s) : OnlyChanges l_ u_ (judgeMax u d w no e s) := by
  unfold judgeMax
  try dsimp only
  repeat' first | with_reducible assumption | with_reducible apply event_only | with_reducible refine OnlyChanges.foldl ?_ (fun _ _ _ => ?_) | with_reducible apply OnlyChanges.ite | split | (with_reducible apply OnlyChanges.upd <;> first | exact fun q => absurd (by assumption) q | with_reducible exact fun _ => rfl | skip)
  all_goals first | exact fun _ => rfl | skip

theorem evaluateWindow_only (no : Nat) (e : Eval) {s : State} (kport : Part.port ∈ l_) (kbilling : Part.billing ∈ l_) (kstore : Part.store ∈ l_) (h_ : OnlyChanges l_ u_ s) : OnlyChanges l_ u_ (evaluateWindow no e s) := by
  unfold evaluateWindow
  try dsimp only
  repeat' first | with_reducible assumption | with_reducible apply judgeMax_only | with_reducible refine OnlyChanges.foldl ?_ (fun _ _ _ => ?_) | with_reducible apply OnlyChanges.ite | split | (with_reducible apply OnlyChanges.upd <;> first | exact fun q => absurd (by assumption) q | with_reducible exact fun _ => rfl | skip)
  all_goals first | exact fun _ => rfl | skip

theorem evaluateAt_only (c : Commit) {s : State} (kport : Part.port ∈ l_) (kbilling : Part.billing ∈ l_) (kstore : Part.store ∈ l_) (h_ : OnlyChanges l_ u_ s) : OnlyChanges l_ u_ (evaluateAt c s) := by
  unfold evaluateAt
  try dsimp only
  repeat' first | with_reducible assumption | with_reducible apply evaluateWindow_only | with_reducible refine OnlyChanges.foldl ?_ (fun _ _ _ => ?_) | with_reducible apply OnlyChanges.ite | split | (with_reducible apply OnlyChanges.upd <;> first | exact fun q => absurd (by assumption) q | with_reducible exact fun _ => rfl | skip)
  all_goals first | exact fun _ => rfl | skip

theorem commitRecord_only (c : Commit) {s : State} (kbilling : Part.billing ∈ l_) (kstore : Part.store ∈ l_) (h_ : OnlyChanges l_ u_ s) : OnlyChanges l_ u_ (commitRecord c s) := by
  unfold commitRecord
  try dsimp only
  repeat' first | with_reducible assumption | with_reducible apply journalMet_only | with_reducible refine OnlyChanges.foldl ?_ (fun _ _ _ => ?_) | with_reducible apply OnlyChanges.ite | split | (with_reducible apply OnlyChanges.upd <;> first | exact fun q => absurd (by assumption) q | with_reducible exact fun _ => rfl | skip)
  all_goals first | exact fun _ => rfl | skip

theorem commitStep_only (c : Commit) {s : State} (kclock : Part.clock ∈ l_) (kport : Part.port ∈ l_) (klog : Part.log ∈ l_) (ktag : Part.tag ∈ l_) (kstore : Part.store ∈ l_) (h_ : OnlyChanges l_ u_ s) : OnlyChanges l_ u_ (commitStep c s) := by
  unfold commitStep
  try dsimp only
  repeat' first | with_reducible assumption | with_reducible apply sign_only | with_reducible apply timeAdjusted_only | with_reducible refine OnlyChanges.foldl ?_ (fun _ _ _ => ?_) | with_reducible apply OnlyChanges.ite | split | (with_reducible apply OnlyChanges.upd <;> first | exact fun q => absurd (by assumption) q | with_reducible exact fun _ => rfl | skip)
  all_goals first | exact fun _ => rfl | skip

theorem commitSwitch_only (adjusted rebuilt : Bool) (w : TariffChange) {s : State} (kport : Part.port ∈ l_) (klog : Part.log ∈ l_) (ktag : Part.tag ∈ l_) (kstore : Part.store ∈ l_) (h_ : OnlyChanges l_ u_ s) : OnlyChanges l_ u_ (commitSwitch adjusted rebuilt w s) := by
  unfold commitSwitch
  try dsimp only
  repeat' first | with_reducible assumption | with_reducible apply event_only | with_reducible apply signSwitch_only | with_reducible refine OnlyChanges.foldl ?_ (fun _ _ _ => ?_) | with_reducible apply OnlyChanges.ite | split | (with_reducible apply OnlyChanges.upd <;> first | exact fun q => absurd (by assumption) q | with_reducible exact fun _ => rfl | skip)
  all_goals first | exact fun _ => rfl | skip

theorem commitSwitches_only (byStep : Bool) (c : Commit) {s : State} (kport : Part.port ∈ l_) (klog : Part.log ∈ l_) (ktag : Part.tag ∈ l_) (kstore : Part.store ∈ l_) (h_ : OnlyChanges l_ u_ s) : OnlyChanges l_ u_ (commitSwitches byStep c s) := by
  unfold commitSwitches
  try dsimp only
  repeat' first | with_reducible assumption | with_reducible apply commitSwitch_only | with_reducible refine OnlyChanges.foldl ?_ (fun _ _ _ => ?_) | with_reducible apply OnlyChanges.ite | split | (with_reducible apply OnlyChanges.upd <;> first | exact fun q => absurd (by assumption) q | with_reducible exact fun _ => rfl | skip)
  all_goals first | exact fun _ => rfl | skip

theorem commitReset_only (c : Commit) {s : State} (kport : Part.port ∈ l_) (kbilling : Part.billing ∈ l_) (klog : Part.log ∈ l_) (ktag : Part.tag ∈ l_) (kstore : Part.store ∈ l_) (h_ : OnlyChanges l_ u_ s) : OnlyChanges l_ u_ (commitReset c s) := by
  unfold commitReset
  try dsimp only
  repeat' first | with_reducible assumption | with_reducible apply signDemandReset_only | with_reducible apply emit_only | with_reducible refine OnlyChanges.foldl ?_ (fun _ _ _ => ?_) | with_reducible apply OnlyChanges.ite | split | (with_reducible apply OnlyChanges.upd <;> first | exact fun q => absurd (by assumption) q | with_reducible exact fun _ => rfl | skip)
  all_goals first | exact fun _ => rfl | skip

theorem commitOne_only (c : Commit) {s : State} (kclock : Part.clock ∈ l_) (kport : Part.port ∈ l_) (kbilling : Part.billing ∈ l_) (klog : Part.log ∈ l_) (ktag : Part.tag ∈ l_) (kstore : Part.store ∈ l_) (h_ : OnlyChanges l_ u_ s) : OnlyChanges l_ u_ (commitOne c s) := by
  unfold commitOne
  try dsimp only
  repeat' first | with_reducible assumption | with_reducible apply commitReset_only | with_reducible apply commitSwitches_only | with_reducible apply commitStep_only | with_reducible apply commitRecord_only | with_reducible apply evaluateAt_only | with_reducible refine OnlyChanges.foldl ?_ (fun _ _ _ => ?_) | with_reducible apply OnlyChanges.ite | split | (with_reducible apply OnlyChanges.upd <;> first | exact fun q => absurd (by assumption) q | with_reducible exact fun _ => rfl | skip)
  all_goals first | exact fun _ => rfl | skip

theorem runCommits_only (k : Nat) {s : State} (kclock : Part.clock ∈ l_) (kport : Part.port ∈ l_) (kbilling : Part.billing ∈ l_) (klog : Part.log ∈ l_) (ktag : Part.tag ∈ l_) (kstore : Part.store ∈ l_) (h_ : OnlyChanges l_ u_ s) : OnlyChanges l_ u_ (runCommits k s) := by
  induction k generalizing s with
  | zero => exact h_
  | succ k ih =>
    unfold runCommits
    try dsimp only
    repeat' first | with_reducible assumption | with_reducible apply commitOne_only | with_reducible apply ih | with_reducible refine OnlyChanges.foldl ?_ (fun _ _ _ => ?_) | with_reducible apply OnlyChanges.ite | split | (with_reducible apply OnlyChanges.upd <;> first | exact fun q => absurd (by assumption) q | with_reducible exact fun _ => rfl | skip)
    all_goals first | exact fun _ => rfl | skip

theorem commits_only  {s : State} (kclock : Part.clock ∈ l_) (kport : Part.port ∈ l_) (kbilling : Part.billing ∈ l_) (klog : Part.log ∈ l_) (ktag : Part.tag ∈ l_) (kstore : Part.store ∈ l_) (h_ : OnlyChanges l_ u_ s) : OnlyChanges l_ u_ (commits s) := by
  unfold commits
  try dsimp only
  repeat' first | with_reducible assumption | with_reducible apply runCommits_only | with_reducible refine OnlyChanges.foldl ?_ (fun _ _ _ => ?_) | with_reducible apply OnlyChanges.ite | split | (with_reducible apply OnlyChanges.upd <;> first | exact fun q => absurd (by assumption) q | with_reducible exact fun _ => rfl | skip)
  all_goals first | exact fun _ => rfl | skip

theorem windowNow_only  {s : State} (kbilling : Part.billing ∈ l_) (h_ : OnlyChanges l_ u_ s) : OnlyChanges l_ u_ (windowNow s) := by
  unfold windowNow
  try dsimp only
  repeat' first | with_reducible assumption | with_reducible apply takeBoundary_only | with_reducible apply closeWindow_only | with_reducible refine OnlyChanges.foldl ?_ (fun _ _ _ => ?_) | with_reducible apply OnlyChanges.ite | split | (with_reducible apply OnlyChanges.upd <;> first | exact fun q => absurd (by assumption) q | with_reducible exact fun _ => rfl | skip)
  all_goals first | exact fun _ => rfl | skip

theorem tariffNow_only  {s : State} (kport : Part.port ∈ l_) (kbilling : Part.billing ∈ l_) (kstore : Part.store ∈ l_) (h_ : OnlyChanges l_ u_ s) : OnlyChanges l_ u_ (tariffNow s) := by
  unfold tariffNow
  try dsimp only
  repeat' first | with_reducible assumption | with_reducible apply priceCheck_only | with_reducible apply takeBoundary_only | with_reducible refine OnlyChanges.foldl ?_ (fun _ _ _ => ?_) | with_reducible apply OnlyChanges.ite | split | (with_reducible apply OnlyChanges.upd <;> first | exact fun q => absurd (by assumption) q | with_reducible exact fun _ => rfl | skip)
  all_goals first | exact fun _ => rfl | skip

theorem splitAtStep_only  {s : State} (kbilling : Part.billing ∈ l_) (h_ : OnlyChanges l_ u_ s) : OnlyChanges l_ u_ (splitAtStep s) := by
  unfold splitAtStep
  try dsimp only
  repeat' first | with_reducible assumption | with_reducible apply closeWindow_only | with_reducible refine OnlyChanges.foldl ?_ (fun _ _ _ => ?_) | with_reducible apply OnlyChanges.ite | split | (with_reducible apply OnlyChanges.upd <;> first | exact fun q => absurd (by assumption) q | with_reducible exact fun _ => rfl | skip)
  all_goals first | exact fun _ => rfl | skip

theorem stepNow_only (d : Int) {s : State} (kclock : Part.clock ∈ l_) (kport : Part.port ∈ l_) (kbilling : Part.billing ∈ l_) (kstore : Part.store ∈ l_) (h_ : OnlyChanges l_ u_ s) : OnlyChanges l_ u_ (stepNow d s) := by
  unfold stepNow
  try dsimp only
  repeat' first | with_reducible assumption | with_reducible apply splitAtStep_only | with_reducible apply priceCheck_only | with_reducible apply takeBoundary_only | with_reducible refine OnlyChanges.foldl ?_ (fun _ _ _ => ?_) | with_reducible apply OnlyChanges.ite | split | (with_reducible apply OnlyChanges.upd <;> first | exact fun q => absurd (by assumption) q | with_reducible exact fun _ => rfl | skip)
  all_goals first | exact fun _ => rfl | skip

theorem resetTaken_only  {s : State} (kbilling : Part.billing ∈ l_) (h_ : OnlyChanges l_ u_ s) : OnlyChanges l_ u_ (resetTaken s) := by
  unfold resetTaken
  try dsimp only
  repeat' first | with_reducible assumption | with_reducible apply takeBoundary_only | with_reducible refine OnlyChanges.foldl ?_ (fun _ _ _ => ?_) | with_reducible apply OnlyChanges.ite | split | (with_reducible apply OnlyChanges.upd <;> first | exact fun q => absurd (by assumption) q | with_reducible exact fun _ => rfl | skip)
  all_goals first | exact fun _ => rfl | skip

theorem boundaryNow_only  {s : State} (kclock : Part.clock ∈ l_) (kport : Part.port ∈ l_) (kbilling : Part.billing ∈ l_) (klog : Part.log ∈ l_) (ktag : Part.tag ∈ l_) (kstore : Part.store ∈ l_) (h_ : OnlyChanges l_ u_ s) : OnlyChanges l_ u_ (boundaryNow s) := by
  unfold boundaryNow
  try dsimp only
  repeat' first | with_reducible assumption | with_reducible apply tariffNow_only | with_reducible apply windowNow_only | with_reducible apply commits_only | with_reducible apply resetTaken_only | with_reducible apply stepNow_only | with_reducible refine OnlyChanges.foldl ?_ (fun _ _ _ => ?_) | with_reducible apply OnlyChanges.ite | split | (with_reducible apply OnlyChanges.upd <;> first | exact fun q => absurd (by assumption) q | with_reducible exact fun _ => rfl | skip)
  all_goals first | exact fun _ => rfl | skip

theorem tariffAnnounceCmd_only (p : List Byte) {s : State} (kbilling : Part.billing ∈ l_) (h_ : OnlyChanges l_ u_ s) : OnlyChanges l_ u_ (tariffAnnounceCmd p s).run.st := by
  unfold tariffAnnounceCmd
  try dsimp only
  repeat' first | with_reducible assumption | with_reducible refine OnlyChanges.foldl ?_ (fun _ _ _ => ?_) | with_reducible apply OnlyChanges.ite | split | (with_reducible apply OnlyChanges.upd <;> first | exact fun q => absurd (by assumption) q | with_reducible exact fun _ => rfl | skip)
  all_goals first | exact fun _ => rfl | skip

theorem demandResetCmd_only (h : Hdr) (p : List Byte) {s : State} (kbilling : Part.billing ∈ l_) (h_ : OnlyChanges l_ u_ s) : OnlyChanges l_ u_ (demandResetCmd h p s).run.st := by
  unfold demandResetCmd
  try dsimp only
  repeat' first | with_reducible assumption | with_reducible refine OnlyChanges.foldl ?_ (fun _ _ _ => ?_) | with_reducible apply OnlyChanges.ite | split | (with_reducible apply OnlyChanges.upd <;> first | exact fun q => absurd (by assumption) q | with_reducible exact fun _ => rfl | skip)
  all_goals first | exact fun _ => rfl | skip

theorem logThresholds_only  {s : State} (kport : Part.port ∈ l_) (klog : Part.log ∈ l_) (kstore : Part.store ∈ l_) (h_ : OnlyChanges l_ u_ s) : OnlyChanges l_ u_ (logThresholds s) := by
  unfold logThresholds
  try dsimp only
  repeat' first | with_reducible assumption | with_reducible apply event_only | with_reducible refine OnlyChanges.foldl ?_ (fun _ _ _ => ?_) | with_reducible apply OnlyChanges.ite | split | (with_reducible apply OnlyChanges.upd <;> first | exact fun q => absurd (by assumption) q | with_reducible exact fun _ => rfl | skip)
  all_goals first | exact fun _ => rfl | skip

theorem countInterrupted_only (r : Record) {s : State} (kmodes : Part.modes ∈ l_) (h_ : OnlyChanges l_ u_ s) : OnlyChanges l_ u_ (countInterrupted r s) := by
  unfold countInterrupted
  try dsimp only
  repeat' first | with_reducible assumption | with_reducible refine OnlyChanges.foldl ?_ (fun _ _ _ => ?_) | with_reducible apply OnlyChanges.ite | split | (with_reducible apply OnlyChanges.upd <;> first | exact fun q => absurd (by assumption) q | with_reducible exact fun _ => rfl | skip)
  all_goals first | exact fun _ => rfl | skip

theorem storeOverflow_only (r : Record) {s : State} (kport : Part.port ∈ l_) (klog : Part.log ∈ l_) (ktag : Part.tag ∈ l_) (kstore : Part.store ∈ l_) (h_ : OnlyChanges l_ u_ s) : OnlyChanges l_ u_ (storeOverflow r s) := by
  unfold storeOverflow
  try dsimp only
  repeat' first | with_reducible assumption | with_reducible apply logThresholds_only | with_reducible apply witnessRecord_only | with_reducible apply journalMet_only | with_reducible refine OnlyChanges.foldl ?_ (fun _ _ _ => ?_) | with_reducible apply OnlyChanges.ite | split | (with_reducible apply OnlyChanges.upd <;> first | exact fun q => absurd (by assumption) q | with_reducible exact fun _ => rfl | skip)
  all_goals first | exact fun _ => rfl | skip

theorem storeSigned_only (q : Record) {s : State} (kmodes : Part.modes ∈ l_) (kport : Part.port ∈ l_) (klog : Part.log ∈ l_) (ktag : Part.tag ∈ l_) (kstore : Part.store ∈ l_) (h_ : OnlyChanges l_ u_ s) : OnlyChanges l_ u_ (storeSigned q s) := by
  unfold storeSigned
  try dsimp only
  repeat' first | with_reducible assumption | with_reducible apply logThresholds_only | with_reducible apply witnessRecord_only | with_reducible apply countInterrupted_only | with_reducible refine OnlyChanges.foldl ?_ (fun _ _ _ => ?_) | with_reducible apply OnlyChanges.ite | split | (with_reducible apply OnlyChanges.upd <;> first | exact fun q => absurd (by assumption) q | with_reducible exact fun _ => rfl | skip)
  all_goals first | exact fun _ => rfl | skip

theorem overflowSigned_only (q : Record) {s : State} (kmodes : Part.modes ∈ l_) (kport : Part.port ∈ l_) (klog : Part.log ∈ l_) (kstore : Part.store ∈ l_) (h_ : OnlyChanges l_ u_ s) : OnlyChanges l_ u_ (overflowSigned q s) := by
  unfold overflowSigned
  try dsimp only
  repeat' first | with_reducible assumption | with_reducible apply logThresholds_only | with_reducible apply signedRetire_only | with_reducible apply countInterrupted_only | with_reducible refine OnlyChanges.foldl ?_ (fun _ _ _ => ?_) | with_reducible apply OnlyChanges.ite | split | (with_reducible apply OnlyChanges.upd <;> first | exact fun q => absurd (by assumption) q | with_reducible exact fun _ => rfl | skip)
  all_goals first | exact fun _ => rfl | skip

theorem storeRecord_only  {s : State} (kmodes : Part.modes ∈ l_) (kport : Part.port ∈ l_) (klog : Part.log ∈ l_) (ktag : Part.tag ∈ l_) (kstore : Part.store ∈ l_) (h_ : OnlyChanges l_ u_ s) : OnlyChanges l_ u_ (storeRecord s) := by
  unfold storeRecord
  try dsimp only
  repeat' first | with_reducible assumption | with_reducible apply storeOverflow_only | with_reducible apply storeSigned_only | with_reducible apply overflowSigned_only | with_reducible refine OnlyChanges.foldl ?_ (fun _ _ _ => ?_) | with_reducible apply OnlyChanges.ite | split | (with_reducible apply OnlyChanges.upd <;> first | exact fun q => absurd (by assumption) q | with_reducible exact fun _ => rfl | skip)
  all_goals first | exact fun _ => rfl | skip

theorem logReadCmd_only (p : List Byte) {s : State}  (h_ : OnlyChanges l_ u_ s) : OnlyChanges l_ u_ (logReadCmd p s).run.st := by
  unfold logReadCmd
  try dsimp only
  repeat' first | with_reducible assumption | with_reducible refine OnlyChanges.foldl ?_ (fun _ _ _ => ?_) | with_reducible apply OnlyChanges.ite | split | (with_reducible apply OnlyChanges.upd <;> first | exact fun q => absurd (by assumption) q | with_reducible exact fun _ => rfl | skip)
  all_goals first | exact fun _ => rfl | skip

theorem logAckCmd_only (p : List Byte) {s : State} (kport : Part.port ∈ l_) (klog : Part.log ∈ l_) (kstore : Part.store ∈ l_) (h_ : OnlyChanges l_ u_ s) : OnlyChanges l_ u_ (logAckCmd p s).run.st := by
  unfold logAckCmd
  try dsimp only
  repeat' first | with_reducible assumption | with_reducible apply logThresholds_only | with_reducible refine OnlyChanges.foldl ?_ (fun _ _ _ => ?_) | with_reducible apply OnlyChanges.ite | split | (with_reducible apply OnlyChanges.upd <;> first | exact fun q => absurd (by assumption) q | with_reducible exact fun _ => rfl | skip)
  all_goals first | exact fun _ => rfl | skip

theorem sealModeChange_only  {s : State} (kmodes : Part.modes ∈ l_) (kport : Part.port ∈ l_) (kenergy : Part.energy ∈ l_) (kbilling : Part.billing ∈ l_) (klog : Part.log ∈ l_) (ktag : Part.tag ∈ l_) (kstore : Part.store ∈ l_) (h_ : OnlyChanges l_ u_ s) : OnlyChanges l_ u_ (sealModeChange s) := by
  unfold sealModeChange
  try dsimp only
  repeat' first | with_reducible assumption | with_reducible apply enterMode_only | with_reducible refine OnlyChanges.foldl ?_ (fun _ _ _ => ?_) | with_reducible apply OnlyChanges.ite | split | (with_reducible apply OnlyChanges.upd <;> first | exact fun q => absurd (by assumption) q | with_reducible exact fun _ => rfl | skip)
  all_goals first | exact fun _ => rfl | skip

theorem signSealBroken_only (time cause : Nat) {s : State} (kport : Part.port ∈ l_) (kseals : Part.seals ∈ l_) (klog : Part.log ∈ l_) (ktag : Part.tag ∈ l_) (kstore : Part.store ∈ l_) (h_ : OnlyChanges l_ u_ s) : OnlyChanges l_ u_ (signSealBroken time cause s) := by
  unfold signSealBroken
  try dsimp only
  repeat' first | with_reducible assumption | with_reducible apply sign_only | with_reducible apply event_only | with_reducible refine OnlyChanges.foldl ?_ (fun _ _ _ => ?_) | with_reducible apply OnlyChanges.ite | split | (with_reducible apply OnlyChanges.upd <;> first | exact fun q => absurd (by assumption) q | with_reducible exact fun _ => rfl | skip)
  all_goals first | exact fun _ => rfl | skip

theorem sealBreaks_only (cause : Nat) {s : State} (kmodes : Part.modes ∈ l_) (kport : Part.port ∈ l_) (kenergy : Part.energy ∈ l_) (kbilling : Part.billing ∈ l_) (kseals : Part.seals ∈ l_) (klog : Part.log ∈ l_) (ktag : Part.tag ∈ l_) (kstore : Part.store ∈ l_) (h_ : OnlyChanges l_ u_ s) : OnlyChanges l_ u_ (sealBreaks cause s) := by
  unfold sealBreaks
  try dsimp only
  repeat' first | with_reducible assumption | with_reducible apply sealModeChange_only | with_reducible apply signSealBroken_only | with_reducible refine OnlyChanges.foldl ?_ (fun _ _ _ => ?_) | with_reducible apply OnlyChanges.ite | split | (with_reducible apply OnlyChanges.upd <;> first | exact fun q => absurd (by assumption) q | with_reducible exact fun _ => rfl | skip)
  all_goals first | exact fun _ => rfl | skip

theorem openSeal_only  {s : State} (kmodes : Part.modes ∈ l_) (kport : Part.port ∈ l_) (kenergy : Part.energy ∈ l_) (kbilling : Part.billing ∈ l_) (kseals : Part.seals ∈ l_) (klog : Part.log ∈ l_) (ktag : Part.tag ∈ l_) (kstore : Part.store ∈ l_) (h_ : OnlyChanges l_ u_ s) : OnlyChanges l_ u_ (openSeal s) := by
  unfold openSeal
  try dsimp only
  repeat' first | with_reducible assumption | with_reducible apply sealBreaks_only | with_reducible refine OnlyChanges.foldl ?_ (fun _ _ _ => ?_) | with_reducible apply OnlyChanges.ite | split | (with_reducible apply OnlyChanges.upd <;> first | exact fun q => absurd (by assumption) q | with_reducible exact fun _ => rfl | skip)
  all_goals first | exact fun _ => rfl | skip

theorem debugAttempt_only  {s : State} (kmodes : Part.modes ∈ l_) (kport : Part.port ∈ l_) (kenergy : Part.energy ∈ l_) (kbilling : Part.billing ∈ l_) (kseals : Part.seals ∈ l_) (klog : Part.log ∈ l_) (ktag : Part.tag ∈ l_) (kstore : Part.store ∈ l_) (h_ : OnlyChanges l_ u_ s) : OnlyChanges l_ u_ (debugAttempt s) := by
  unfold debugAttempt
  try dsimp only
  repeat' first | with_reducible assumption | with_reducible apply sealBreaks_only | with_reducible refine OnlyChanges.foldl ?_ (fun _ _ _ => ?_) | with_reducible apply OnlyChanges.ite | split | (with_reducible apply OnlyChanges.upd <;> first | exact fun q => absurd (by assumption) q | with_reducible exact fun _ => rfl | skip)
  all_goals first | exact fun _ => rfl | skip

theorem clearSeal_only (seq : Nat) {s : State} (kseals : Part.seals ∈ l_) (h_ : OnlyChanges l_ u_ s) : OnlyChanges l_ u_ (clearSeal seq s) := by
  unfold clearSeal
  try dsimp only
  repeat' first | with_reducible assumption | with_reducible refine OnlyChanges.foldl ?_ (fun _ _ _ => ?_) | with_reducible apply OnlyChanges.ite | split | (with_reducible apply OnlyChanges.upd <;> first | exact fun q => absurd (by assumption) q | with_reducible exact fun _ => rfl | skip)
  all_goals first | exact fun _ => rfl | skip

theorem signReseal_only  {s : State} (kport : Part.port ∈ l_) (klog : Part.log ∈ l_) (ktag : Part.tag ∈ l_) (kstore : Part.store ∈ l_) (h_ : OnlyChanges l_ u_ s) : OnlyChanges l_ u_ (signReseal s) := by
  unfold signReseal
  try dsimp only
  repeat' first | with_reducible assumption | with_reducible apply sign_only | with_reducible refine OnlyChanges.foldl ?_ (fun _ _ _ => ?_) | with_reducible apply OnlyChanges.ite | split | (with_reducible apply OnlyChanges.upd <;> first | exact fun q => absurd (by assumption) q | with_reducible exact fun _ => rfl | skip)
  all_goals first | exact fun _ => rfl | skip

theorem resealCmd_only (h : Hdr) (p : List Byte) {s : State} (kport : Part.port ∈ l_) (kseals : Part.seals ∈ l_) (klog : Part.log ∈ l_) (ktag : Part.tag ∈ l_) (kstore : Part.store ∈ l_) (h_ : OnlyChanges l_ u_ s) : OnlyChanges l_ u_ (resealCmd h p s).run.st := by
  unfold resealCmd
  try dsimp only
  repeat' first | with_reducible assumption | with_reducible apply emit_only | with_reducible apply clearSeal_only | with_reducible apply signReseal_only | with_reducible refine OnlyChanges.foldl ?_ (fun _ _ _ => ?_) | with_reducible apply OnlyChanges.ite | split | (with_reducible apply OnlyChanges.upd <;> first | exact fun q => absurd (by assumption) q | with_reducible exact fun _ => rfl | skip)
  all_goals first | exact fun _ => rfl | skip

theorem billingFrame_only  {s : State} (kclock : Part.clock ∈ l_) (kmodes : Part.modes ∈ l_) (kport : Part.port ∈ l_) (kfe : Part.fe ∈ l_) (kenergy : Part.energy ∈ l_) (kbilling : Part.billing ∈ l_) (klog : Part.log ∈ l_) (ktag : Part.tag ∈ l_) (kstore : Part.store ∈ l_) (h_ : OnlyChanges l_ u_ s) : OnlyChanges l_ u_ (billingFrame s) := by
  unfold billingFrame
  try dsimp only
  repeat' first | with_reducible assumption | with_reducible apply commits_only | with_reducible apply closeSession_only | with_reducible refine OnlyChanges.foldl ?_ (fun _ _ _ => ?_) | with_reducible apply OnlyChanges.ite | split | (with_reducible apply OnlyChanges.upd <;> first | exact fun q => absurd (by assumption) q | with_reducible exact fun _ => rfl | skip)
  all_goals first | exact fun _ => rfl | skip

end Sys2Proof.Machine
end

