-- ==== Sys2Proof/Laws/OnlyEasement.lean ====
section
/-!
SUPPORT. The frames of the operations of Machine/Easement.lean (OnlyChanges, for every list that holds the parts they touch).
-/

namespace Sys2Proof.Machine

set_option linter.all false

open Sys2Proof.Safety

variable {l_ : List Part} {u_ : State}

theorem submit_only (r : Request) {s : State} (kease : Part.ease ∈ l_) (h_ : OnlyChanges l_ u_ s) : OnlyChanges l_ u_ (submit r s) := by
  unfold submit
  try dsimp only
  repeat' first | with_reducible assumption | with_reducible refine OnlyChanges.foldl ?_ (fun _ _ _ => ?_) | with_reducible apply OnlyChanges.ite | split | (with_reducible apply OnlyChanges.upd <;> first | exact fun q => absurd (by assumption) q | with_reducible exact fun _ => rfl | skip)
  all_goals first | exact fun _ => rfl | skip

theorem release_only (id : Nat) {s : State} (kease : Part.ease ∈ l_) (h_ : OnlyChanges l_ u_ s) : OnlyChanges l_ u_ (release id s) := by
  unfold release
  try dsimp only
  repeat' first | with_reducible assumption | with_reducible refine OnlyChanges.foldl ?_ (fun _ _ _ => ?_) | with_reducible apply OnlyChanges.ite | split | (with_reducible apply OnlyChanges.upd <;> first | exact fun q => absurd (by assumption) q | with_reducible exact fun _ => rfl | skip)
  all_goals first | exact fun _ => rfl | skip

theorem releaseOpt_only (id : Option Nat) {s : State} (kease : Part.ease ∈ l_) (h_ : OnlyChanges l_ u_ s) : OnlyChanges l_ u_ (releaseOpt id s) := by
  unfold releaseOpt
  try dsimp only
  repeat' first | with_reducible assumption | with_reducible apply release_only | with_reducible refine OnlyChanges.foldl ?_ (fun _ _ _ => ?_) | with_reducible apply OnlyChanges.ite | split | (with_reducible apply OnlyChanges.upd <;> first | exact fun q => absurd (by assumption) q | with_reducible exact fun _ => rfl | skip)
  all_goals first | exact fun _ => rfl | skip

theorem leavePeak_only (id : Nat) {s : State} (kease : Part.ease ∈ l_) (h_ : OnlyChanges l_ u_ s) : OnlyChanges l_ u_ (leavePeak id s) := by
  unfold leavePeak
  try dsimp only
  repeat' first | with_reducible assumption | with_reducible refine OnlyChanges.foldl ?_ (fun _ _ _ => ?_) | with_reducible apply OnlyChanges.ite | split | (with_reducible apply OnlyChanges.upd <;> first | exact fun q => absurd (by assumption) q | with_reducible exact fun _ => rfl | skip)
  all_goals first | exact fun _ => rfl | skip

theorem beginOp_only (id : Nat) {s : State} (kease : Part.ease ∈ l_) (h_ : OnlyChanges l_ u_ s) : OnlyChanges l_ u_ (beginOp id s) := by
  unfold beginOp
  try dsimp only
  repeat' first | with_reducible assumption | with_reducible refine OnlyChanges.foldl ?_ (fun _ _ _ => ?_) | with_reducible apply OnlyChanges.ite | split | (with_reducible apply OnlyChanges.upd <;> first | exact fun q => absurd (by assumption) q | with_reducible exact fun _ => rfl | skip)
  all_goals first | exact fun _ => rfl | skip

theorem refused_only (r : Request) {s : State} (kport : Part.port ∈ l_) (kease : Part.ease ∈ l_) (kstore : Part.store ∈ l_) (h_ : OnlyChanges l_ u_ s) : OnlyChanges l_ u_ (refused r s) := by
  unfold refused
  try dsimp only
  repeat' first | with_reducible assumption | with_reducible apply event_only | with_reducible refine OnlyChanges.foldl ?_ (fun _ _ _ => ?_) | with_reducible apply OnlyChanges.ite | split | (with_reducible apply OnlyChanges.upd <;> first | exact fun q => absurd (by assumption) q | with_reducible exact fun _ => rfl | skip)
  all_goals first | exact fun _ => rfl | skip

theorem revised_only (r : Request) (a : Option Nat) {s : State} (kport : Part.port ∈ l_) (kstore : Part.store ∈ l_) (h_ : OnlyChanges l_ u_ s) : OnlyChanges l_ u_ (revised r a s) := by
  unfold revised
  try dsimp only
  repeat' first | with_reducible assumption | with_reducible apply event_only | with_reducible refine OnlyChanges.foldl ?_ (fun _ _ _ => ?_) | with_reducible apply OnlyChanges.ite | split | (with_reducible apply OnlyChanges.upd <;> first | exact fun q => absurd (by assumption) q | with_reducible exact fun _ => rfl | skip)
  all_goals first | exact fun _ => rfl | skip

end Sys2Proof.Machine
end

