-- ==== Sys2Proof/Laws/OnlyStorage.lean ====
section
/-!
SUPPORT. The frames of the operations of Machine/Storage.lean (OnlyChanges, for every list that holds the parts they touch).
-/

namespace Sys2Proof.Machine

set_option linter.all false

open Sys2Proof.Safety

variable {l_ : List Part} {u_ : State}

theorem updStore_only (f : Storage → Storage) {s : State} (kstore : Part.store ∈ l_) (h_ : OnlyChanges l_ u_ s) : OnlyChanges l_ u_ (updStore f s) := by
  unfold updStore
  try dsimp only
  repeat' first | with_reducible assumption | with_reducible refine OnlyChanges.foldl ?_ (fun _ _ _ => ?_) | with_reducible apply OnlyChanges.ite | split | (with_reducible apply OnlyChanges.upd <;> first | exact fun q => absurd (by assumption) q | with_reducible exact fun _ => rfl | skip)
  all_goals first | exact fun _ => rfl | skip

theorem storageFault_only (kind part block : Nat) {s : State} (kport : Part.port ∈ l_) (kstore : Part.store ∈ l_) (h_ : OnlyChanges l_ u_ s) : OnlyChanges l_ u_ (storageFault kind part block s) := by
  unfold storageFault
  try dsimp only
  repeat' first | with_reducible assumption | with_reducible apply event_only | with_reducible refine OnlyChanges.foldl ?_ (fun _ _ _ => ?_) | with_reducible apply OnlyChanges.ite | split | (with_reducible apply OnlyChanges.upd <;> first | exact fun q => absurd (by assumption) q | with_reducible exact fun _ => rfl | skip)
  all_goals first | exact fun _ => rfl | skip

theorem takeSpare_only  {s : State} (kport : Part.port ∈ l_) (kstore : Part.store ∈ l_) (h_ : OnlyChanges l_ u_ s) : OnlyChanges l_ u_ (takeSpare s) := by
  unfold takeSpare
  try dsimp only
  repeat' first | with_reducible assumption | with_reducible apply updStore_only | with_reducible apply storageFault_only | with_reducible refine OnlyChanges.foldl ?_ (fun _ _ _ => ?_) | with_reducible apply OnlyChanges.ite | split | (with_reducible apply OnlyChanges.upd <;> first | exact fun q => absurd (by assumption) q | with_reducible exact fun _ => rfl | skip)
  all_goals first | exact fun _ => rfl | skip

theorem segmentLost_only (seg : Nat) {s : State} (kport : Part.port ∈ l_) (kstore : Part.store ∈ l_) (h_ : OnlyChanges l_ u_ s) : OnlyChanges l_ u_ (segmentLost seg s) := by
  unfold segmentLost
  try dsimp only
  repeat' first | with_reducible assumption | with_reducible apply updStore_only | with_reducible apply storageFault_only | with_reducible refine OnlyChanges.foldl ?_ (fun _ _ _ => ?_) | with_reducible apply OnlyChanges.ite | split | (with_reducible apply OnlyChanges.upd <;> first | exact fun q => absurd (by assumption) q | with_reducible exact fun _ => rfl | skip)
  all_goals first | exact fun _ => rfl | skip

theorem retireBlock_only (part block : Nat) {s : State} (kport : Part.port ∈ l_) (kstore : Part.store ∈ l_) (h_ : OnlyChanges l_ u_ s) : OnlyChanges l_ u_ (retireBlock part block s) := by
  unfold retireBlock
  try dsimp only
  repeat' first | with_reducible assumption | with_reducible apply storageFault_only | with_reducible apply updStore_only | with_reducible apply takeSpare_only | with_reducible apply segmentLost_only | with_reducible refine OnlyChanges.foldl ?_ (fun _ _ _ => ?_) | with_reducible apply OnlyChanges.ite | split | (with_reducible apply OnlyChanges.upd <;> first | exact fun q => absurd (by assumption) q | with_reducible exact fun _ => rfl | skip)
  all_goals first | exact fun _ => rfl | skip

theorem askErase_only (e : Erase) {s : State} (kease : Part.ease ∈ l_) (kstore : Part.store ∈ l_) (h_ : OnlyChanges l_ u_ s) : OnlyChanges l_ u_ (askErase e s) := by
  unfold askErase
  try dsimp only
  repeat' first | with_reducible assumption | with_reducible apply updStore_only | with_reducible apply submit_only | with_reducible refine OnlyChanges.foldl ?_ (fun _ _ _ => ?_) | with_reducible apply OnlyChanges.ite | split | (with_reducible apply OnlyChanges.upd <;> first | exact fun q => absurd (by assumption) q | with_reducible exact fun _ => rfl | skip)
  all_goals first | exact fun _ => rfl | skip

theorem askGroup_only (what part k : Nat) {s : State} (kease : Part.ease ∈ l_) (kstore : Part.store ∈ l_) (h_ : OnlyChanges l_ u_ s) : OnlyChanges l_ u_ (askGroup what part k s) := by
  unfold askGroup
  try dsimp only
  repeat' first | with_reducible assumption | with_reducible apply askErase_only | with_reducible refine OnlyChanges.foldl ?_ (fun _ _ _ => ?_) | with_reducible apply OnlyChanges.ite | split | (with_reducible apply OnlyChanges.upd <;> first | exact fun q => absurd (by assumption) q | with_reducible exact fun _ => rfl | skip)
  all_goals first | exact fun _ => rfl | skip

theorem eraseDone_only (e : Erase) {s : State} (kease : Part.ease ∈ l_) (kchain : Part.chain ∈ l_) (kstore : Part.store ∈ l_) (h_ : OnlyChanges l_ u_ s) : OnlyChanges l_ u_ (eraseDone e s) := by
  unfold eraseDone
  try dsimp only
  repeat' first | with_reducible assumption | with_reducible apply releaseOpt_only | with_reducible apply updStore_only | with_reducible apply askGroup_only | with_reducible refine OnlyChanges.foldl ?_ (fun _ _ _ => ?_) | with_reducible apply OnlyChanges.ite | split | (with_reducible apply OnlyChanges.upd <;> first | exact fun q => absurd (by assumption) q | with_reducible exact fun _ => rfl | skip)
  all_goals first | exact fun _ => rfl | skip

theorem eraseGranted_only (id : Nat) {s : State} (kease : Part.ease ∈ l_) (kstore : Part.store ∈ l_) (h_ : OnlyChanges l_ u_ s) : OnlyChanges l_ u_ (eraseGranted id s) := by
  unfold eraseGranted
  try dsimp only
  repeat' first | with_reducible assumption | with_reducible apply updStore_only | with_reducible apply beginOp_only | with_reducible apply release_only | with_reducible refine OnlyChanges.foldl ?_ (fun _ _ _ => ?_) | with_reducible apply OnlyChanges.ite | split | (with_reducible apply OnlyChanges.upd <;> first | exact fun q => absurd (by assumption) q | with_reducible exact fun _ => rfl | skip)
  all_goals first | exact fun _ => rfl | skip

theorem eraseRefused_only (id : Nat) {s : State} (kstore : Part.store ∈ l_) (h_ : OnlyChanges l_ u_ s) : OnlyChanges l_ u_ (eraseRefused id s) := by
  unfold eraseRefused
  try dsimp only
  repeat' first | with_reducible assumption | with_reducible apply updStore_only | with_reducible refine OnlyChanges.foldl ?_ (fun _ _ _ => ?_) | with_reducible apply OnlyChanges.ite | split | (with_reducible apply OnlyChanges.upd <;> first | exact fun q => absurd (by assumption) q | with_reducible exact fun _ => rfl | skip)
  all_goals first | exact fun _ => rfl | skip

theorem dropErases_only (what : Nat) {s : State} (kease : Part.ease ∈ l_) (kstore : Part.store ∈ l_) (h_ : OnlyChanges l_ u_ s) : OnlyChanges l_ u_ (dropErases what s) := by
  unfold dropErases
  try dsimp only
  repeat' first | with_reducible assumption | with_reducible apply updStore_only | with_reducible apply releaseOpt_only | with_reducible refine OnlyChanges.foldl ?_ (fun _ _ _ => ?_) | with_reducible apply OnlyChanges.ite | split | (with_reducible apply OnlyChanges.upd <;> first | exact fun q => absurd (by assumption) q | with_reducible exact fun _ => rfl | skip)
  all_goals first | exact fun _ => rfl | skip

theorem storageFrame_only  {s : State} (kease : Part.ease ∈ l_) (kchain : Part.chain ∈ l_) (kstore : Part.store ∈ l_) (h_ : OnlyChanges l_ u_ s) : OnlyChanges l_ u_ (storageFrame s) := by
  unfold storageFrame
  try dsimp only
  repeat' first | with_reducible assumption | with_reducible apply eraseDone_only | with_reducible apply askErase_only | with_reducible apply updStore_only | with_reducible refine OnlyChanges.foldl ?_ (fun _ _ _ => ?_) | with_reducible apply OnlyChanges.ite | split | (with_reducible apply OnlyChanges.upd <;> first | exact fun q => absurd (by assumption) q | with_reducible exact fun _ => rfl | skip)
  all_goals first | exact fun _ => rfl | skip

theorem updReclaim_only (f : Reclaim → Reclaim) {s : State} (kstore : Part.store ∈ l_) (h_ : OnlyChanges l_ u_ s) : OnlyChanges l_ u_ (updReclaim f s) := by
  unfold updReclaim
  try dsimp only
  repeat' first | with_reducible assumption | with_reducible apply updStore_only | with_reducible refine OnlyChanges.foldl ?_ (fun _ _ _ => ?_) | with_reducible apply OnlyChanges.ite | split | (with_reducible apply OnlyChanges.upd <;> first | exact fun q => absurd (by assumption) q | with_reducible exact fun _ => rfl | skip)
  all_goals first | exact fun _ => rfl | skip

theorem reclaimMap_only (r : Reclaim) {s : State} (klog : Part.log ∈ l_) (kstore : Part.store ∈ l_) (h_ : OnlyChanges l_ u_ s) : OnlyChanges l_ u_ (reclaimMap r s) := by
  unfold reclaimMap
  try dsimp only
  repeat' first | with_reducible assumption | with_reducible apply journalNew_only | with_reducible apply updStore_only | with_reducible refine OnlyChanges.foldl ?_ (fun _ _ _ => ?_) | with_reducible apply OnlyChanges.ite | split | (with_reducible apply OnlyChanges.upd <;> first | exact fun q => absurd (by assumption) q | with_reducible exact fun _ => rfl | skip)
  all_goals first | exact fun _ => rfl | skip

theorem reclaimOver_only (r : Reclaim) {s : State} (kstore : Part.store ∈ l_) (h_ : OnlyChanges l_ u_ s) : OnlyChanges l_ u_ (reclaimOver r s) := by
  unfold reclaimOver
  try dsimp only
  repeat' first | with_reducible assumption | with_reducible apply appRetire_only | with_reducible apply journalApp_only | with_reducible refine OnlyChanges.foldl ?_ (fun _ _ _ => ?_) | with_reducible apply OnlyChanges.ite | split | (with_reducible apply OnlyChanges.upd <;> first | exact fun q => absurd (by assumption) q | with_reducible exact fun _ => rfl | skip)
  all_goals first | exact fun _ => rfl | skip

theorem reclaimRefill_only (r : Reclaim) {s : State} (kport : Part.port ∈ l_) (kease : Part.ease ∈ l_) (kstore : Part.store ∈ l_) (h_ : OnlyChanges l_ u_ s) : OnlyChanges l_ u_ (reclaimRefill r s) := by
  unfold reclaimRefill
  try dsimp only
  repeat' first | with_reducible assumption | with_reducible apply retireBlock_only | with_reducible apply askErase_only | with_reducible apply updReclaim_only | with_reducible apply appRetire_only | with_reducible apply updStore_only | with_reducible refine OnlyChanges.foldl ?_ (fun _ _ _ => ?_) | with_reducible apply OnlyChanges.ite | split | (with_reducible apply OnlyChanges.upd <;> first | exact fun q => absurd (by assumption) q | with_reducible exact fun _ => rfl | skip)
  all_goals first | exact fun _ => rfl | skip

theorem reclaimStep_only (r : Reclaim) (ok : Bool) {s : State} (kport : Part.port ∈ l_) (kease : Part.ease ∈ l_) (klog : Part.log ∈ l_) (kstore : Part.store ∈ l_) (h_ : OnlyChanges l_ u_ s) : OnlyChanges l_ u_ (reclaimStep r ok s) := by
  unfold reclaimStep
  try dsimp only
  repeat' first | with_reducible assumption | with_reducible apply updReclaim_only | with_reducible apply reclaimRefill_only | with_reducible apply reclaimMap_only | with_reducible apply askErase_only | with_reducible apply retireBlock_only | with_reducible apply reclaimOver_only | with_reducible apply updStore_only | with_reducible refine OnlyChanges.foldl ?_ (fun _ _ _ => ?_) | with_reducible apply OnlyChanges.ite | split | (with_reducible apply OnlyChanges.upd <;> first | exact fun q => absurd (by assumption) q | with_reducible exact fun _ => rfl | skip)
  all_goals first | exact fun _ => rfl | skip

theorem reclaimResume_only  {s : State} (kport : Part.port ∈ l_) (kease : Part.ease ∈ l_) (klog : Part.log ∈ l_) (kstore : Part.store ∈ l_) (h_ : OnlyChanges l_ u_ s) : OnlyChanges l_ u_ (reclaimResume s) := by
  unfold reclaimResume
  try dsimp only
  repeat' first | with_reducible assumption | with_reducible apply askErase_only | with_reducible apply updReclaim_only | with_reducible apply reclaimStep_only | with_reducible refine OnlyChanges.foldl ?_ (fun _ _ _ => ?_) | with_reducible apply OnlyChanges.ite | split | (with_reducible apply OnlyChanges.upd <;> first | exact fun q => absurd (by assumption) q | with_reducible exact fun _ => rfl | skip)
  all_goals first | exact fun _ => rfl | skip

theorem applySettings_only (x : Settings) {s : State} (kport : Part.port ∈ l_) (kease : Part.ease ∈ l_) (kfe : Part.fe ∈ l_) (kbilling : Part.billing ∈ l_) (klink : Part.link ∈ l_) (ksw : Part.sw ∈ l_) (kloads : Part.loads ∈ l_) (ktrv : Part.trv ∈ l_) (krdr : Part.rdr ∈ l_) (ktag : Part.tag ∈ l_) (kdisp : Part.disp ∈ l_) (h_ : OnlyChanges l_ u_ s) : OnlyChanges l_ u_ (applySettings x s) := by
  unfold applySettings
  try dsimp only
  repeat' first | with_reducible assumption | with_reducible refine OnlyChanges.foldl ?_ (fun _ _ _ => ?_) | with_reducible apply OnlyChanges.ite | split | (with_reducible apply OnlyChanges.upd <;> first | exact fun q => absurd (by assumption) q | with_reducible exact fun _ => rfl | skip)
  all_goals first | exact fun _ => rfl | skip

theorem migrateSettings_only  {s : State} (kport : Part.port ∈ l_) (kease : Part.ease ∈ l_) (kfe : Part.fe ∈ l_) (kbilling : Part.billing ∈ l_) (klink : Part.link ∈ l_) (ksw : Part.sw ∈ l_) (kloads : Part.loads ∈ l_) (ktrv : Part.trv ∈ l_) (krdr : Part.rdr ∈ l_) (ktag : Part.tag ∈ l_) (kdisp : Part.disp ∈ l_) (kstore : Part.store ∈ l_) (h_ : OnlyChanges l_ u_ s) : OnlyChanges l_ u_ (migrateSettings s) := by
  unfold migrateSettings
  try dsimp only
  repeat' first | with_reducible assumption | with_reducible apply applySettings_only | with_reducible apply journalUpdate_only | with_reducible apply updStore_only | with_reducible refine OnlyChanges.foldl ?_ (fun _ _ _ => ?_) | with_reducible apply OnlyChanges.ite | split | (with_reducible apply OnlyChanges.upd <;> first | exact fun q => absurd (by assumption) q | with_reducible exact fun _ => rfl | skip)
  all_goals first | exact fun _ => rfl | skip

theorem fallBack_only (cause : Nat) {s : State} (kport : Part.port ∈ l_) (kease : Part.ease ∈ l_) (kfe : Part.fe ∈ l_) (kbilling : Part.billing ∈ l_) (klink : Part.link ∈ l_) (ksw : Part.sw ∈ l_) (kloads : Part.loads ∈ l_) (ktrv : Part.trv ∈ l_) (krdr : Part.rdr ∈ l_) (ktag : Part.tag ∈ l_) (kdisp : Part.disp ∈ l_) (kstore : Part.store ∈ l_) (h_ : OnlyChanges l_ u_ s) : OnlyChanges l_ u_ (fallBack cause s) := by
  unfold fallBack
  try dsimp only
  repeat' first | with_reducible assumption | with_reducible apply applySettings_only | with_reducible apply updStore_only | with_reducible apply journalUpdate_only | with_reducible refine OnlyChanges.foldl ?_ (fun _ _ _ => ?_) | with_reducible apply OnlyChanges.ite | split | (with_reducible apply OnlyChanges.upd <;> first | exact fun q => absurd (by assumption) q | with_reducible exact fun _ => rfl | skip)
  all_goals first | exact fun _ => rfl | skip

theorem bootImage_only (rom : Bool) {s : State} (kport : Part.port ∈ l_) (kease : Part.ease ∈ l_) (kfe : Part.fe ∈ l_) (kbilling : Part.billing ∈ l_) (klink : Part.link ∈ l_) (ksw : Part.sw ∈ l_) (kloads : Part.loads ∈ l_) (ktrv : Part.trv ∈ l_) (krdr : Part.rdr ∈ l_) (ktag : Part.tag ∈ l_) (kdisp : Part.disp ∈ l_) (kstore : Part.store ∈ l_) (h_ : OnlyChanges l_ u_ s) : OnlyChanges l_ u_ (bootImage rom s).1 := by
  unfold bootImage
  try dsimp only
  repeat' first | with_reducible assumption | with_reducible apply updStore_only | with_reducible apply journalUpdate_only | with_reducible apply fallBack_only | with_reducible apply migrateSettings_only | with_reducible refine OnlyChanges.foldl ?_ (fun _ _ _ => ?_) | with_reducible apply OnlyChanges.ite | split | (with_reducible apply OnlyChanges.upd <;> first | exact fun q => absurd (by assumption) q | with_reducible exact fun _ => rfl | skip)
  all_goals first | exact fun _ => rfl | skip

theorem imageActivateCmd_only (h : Hdr) (p : List Byte) {s : State} (kmodes : Part.modes ∈ l_) (kease : Part.ease ∈ l_) (kstore : Part.store ∈ l_) (h_ : OnlyChanges l_ u_ s) : OnlyChanges l_ u_ (imageActivateCmd h p s).run.st := by
  unfold imageActivateCmd
  try dsimp only
  repeat' first | with_reducible assumption | with_reducible apply updStore_only | with_reducible apply askGroup_only | with_reducible refine OnlyChanges.foldl ?_ (fun _ _ _ => ?_) | with_reducible apply OnlyChanges.ite | split | (with_reducible apply OnlyChanges.upd <;> first | exact fun q => absurd (by assumption) q | with_reducible exact fun _ => rfl | skip)
  all_goals first | exact fun _ => rfl | skip

theorem abandonActivation_only  {s : State} (kmodes : Part.modes ∈ l_) (kease : Part.ease ∈ l_) (kstore : Part.store ∈ l_) (h_ : OnlyChanges l_ u_ s) : OnlyChanges l_ u_ (abandonActivation s) := by
  unfold abandonActivation
  try dsimp only
  repeat' first | with_reducible assumption | with_reducible apply dropErases_only | with_reducible refine OnlyChanges.foldl ?_ (fun _ _ _ => ?_) | with_reducible apply OnlyChanges.ite | split | (with_reducible apply OnlyChanges.upd <;> first | exact fun q => absurd (by assumption) q | with_reducible exact fun _ => rfl | skip)
  all_goals first | exact fun _ => rfl | skip

theorem updateDone_only (result : Nat) {s : State} (kport : Part.port ∈ l_) (kstore : Part.store ∈ l_) (h_ : OnlyChanges l_ u_ s) : OnlyChanges l_ u_ (updateDone result s) := by
  unfold updateDone
  try dsimp only
  repeat' first | with_reducible assumption | with_reducible apply event_only | with_reducible refine OnlyChanges.foldl ?_ (fun _ _ _ => ?_) | with_reducible apply OnlyChanges.ite | split | (with_reducible apply OnlyChanges.upd <;> first | exact fun q => absurd (by assumption) q | with_reducible exact fun _ => rfl | skip)
  all_goals first | exact fun _ => rfl | skip

theorem commitTrial_only  {s : State} (kmodes : Part.modes ∈ l_) (kstore : Part.store ∈ l_) (h_ : OnlyChanges l_ u_ s) : OnlyChanges l_ u_ (commitTrial s) := by
  unfold commitTrial
  try dsimp only
  repeat' first | with_reducible assumption | with_reducible apply journalUpdate_only | with_reducible apply updStore_only | with_reducible refine OnlyChanges.foldl ?_ (fun _ _ _ => ?_) | with_reducible apply OnlyChanges.ite | split | (with_reducible apply OnlyChanges.upd <;> first | exact fun q => absurd (by assumption) q | with_reducible exact fun _ => rfl | skip)
  all_goals first | exact fun _ => rfl | skip

theorem confirmImageCmd_only (p : List Byte) {s : State} (kport : Part.port ∈ l_) (kstore : Part.store ∈ l_) (h_ : OnlyChanges l_ u_ s) : OnlyChanges l_ u_ (confirmImageCmd p s).run.st := by
  unfold confirmImageCmd
  try dsimp only
  repeat' first | with_reducible assumption | with_reducible apply journalUpdate_only | with_reducible apply updStore_only | with_reducible apply event_only | with_reducible refine OnlyChanges.foldl ?_ (fun _ _ _ => ?_) | with_reducible apply OnlyChanges.ite | split | (with_reducible apply OnlyChanges.upd <;> first | exact fun q => absurd (by assumption) q | with_reducible exact fun _ => rfl | skip)
  all_goals first | exact fun _ => rfl | skip

theorem storageReady_only  {s : State} (kport : Part.port ∈ l_) (kstore : Part.store ∈ l_) (h_ : OnlyChanges l_ u_ s) : OnlyChanges l_ u_ (storageReady s) := by
  unfold storageReady
  try dsimp only
  repeat' first | with_reducible assumption | with_reducible apply event_only | with_reducible apply updStore_only | with_reducible apply updateDone_only | with_reducible refine OnlyChanges.foldl ?_ (fun _ _ _ => ?_) | with_reducible apply OnlyChanges.ite | split | (with_reducible apply OnlyChanges.upd <;> first | exact fun q => absurd (by assumption) q | with_reducible exact fun _ => rfl | skip)
  all_goals first | exact fun _ => rfl | skip

theorem storageReset_only  {s : State} (kmodes : Part.modes ∈ l_) (kease : Part.ease ∈ l_) (kstore : Part.store ∈ l_) (h_ : OnlyChanges l_ u_ s) : OnlyChanges l_ u_ (storageReset s) := by
  unfold storageReset
  try dsimp only
  repeat' first | with_reducible assumption | with_reducible apply updStore_only | with_reducible apply abandonActivation_only | with_reducible refine OnlyChanges.foldl ?_ (fun _ _ _ => ?_) | with_reducible apply OnlyChanges.ite | split | (with_reducible apply OnlyChanges.upd <;> first | exact fun q => absurd (by assumption) q | with_reducible exact fun _ => rfl | skip)
  all_goals first | exact fun _ => rfl | skip

end Sys2Proof.Machine
end

