-- ==== Sys2Proof/Laws/OnlyTraverse.lean ====
section
/-!
SUPPORT. The frames of the operations of Machine/Traverse.lean (OnlyChanges, for every list that holds the parts they touch).
-/

namespace Sys2Proof.Machine

set_option linter.all false

open Sys2Proof.Safety

variable {l_ : List Part} {u_ : State}

theorem updNgh_only (n : Nat) (f : Neigh → Neigh) {s : State} (ktrv : Part.trv ∈ l_) (h_ : OnlyChanges l_ u_ s) : OnlyChanges l_ u_ (updNgh n f s) := by
  unfold updNgh
  try dsimp only
  repeat' first | with_reducible assumption | with_reducible refine OnlyChanges.foldl ?_ (fun _ _ _ => ?_) | with_reducible apply OnlyChanges.ite | split | (with_reducible apply OnlyChanges.upd <;> first | exact fun q => absurd (by assumption) q | with_reducible exact fun _ => rfl | skip)
  all_goals first | exact fun _ => rfl | skip

theorem setRoute_only (d : Nat) (r : Option (Nat × Nat × Nat)) {s : State} (kport : Part.port ∈ l_) (ktrv : Part.trv ∈ l_) (kstore : Part.store ∈ l_) (h_ : OnlyChanges l_ u_ s) : OnlyChanges l_ u_ (setRoute d r s) := by
  unfold setRoute
  try dsimp only
  repeat' first | with_reducible assumption | with_reducible apply event_only | with_reducible refine OnlyChanges.foldl ?_ (fun _ _ _ => ?_) | with_reducible apply OnlyChanges.ite | split | (with_reducible apply OnlyChanges.upd <;> first | exact fun q => absurd (by assumption) q | with_reducible exact fun _ => rfl | skip)
  all_goals first | exact fun _ => rfl | skip

theorem updateParent_only  {s : State} (ktrv : Part.trv ∈ l_) (h_ : OnlyChanges l_ u_ s) : OnlyChanges l_ u_ (updateParent s) := by
  unfold updateParent
  try dsimp only
  repeat' first | with_reducible assumption | with_reducible refine OnlyChanges.foldl ?_ (fun _ _ _ => ?_) | with_reducible apply OnlyChanges.ite | split | (with_reducible apply OnlyChanges.upd <;> first | exact fun q => absurd (by assumption) q | with_reducible exact fun _ => rfl | skip)
  all_goals first | exact fun _ => rfl | skip

theorem neighbourLost_only (n : Nat) {s : State} (kport : Part.port ∈ l_) (ktrv : Part.trv ∈ l_) (kstore : Part.store ∈ l_) (h_ : OnlyChanges l_ u_ s) : OnlyChanges l_ u_ (neighbourLost n s) := by
  unfold neighbourLost
  try dsimp only
  repeat' first | with_reducible assumption | with_reducible apply updNgh_only | with_reducible apply updateParent_only | with_reducible apply setRoute_only | with_reducible refine OnlyChanges.foldl ?_ (fun _ _ _ => ?_) | with_reducible apply OnlyChanges.ite | split | (with_reducible apply OnlyChanges.upd <;> first | exact fun q => absurd (by assumption) q | with_reducible exact fun _ => rfl | skip)
  all_goals first | exact fun _ => rfl | skip

theorem recompute_only  {s : State} (kport : Part.port ∈ l_) (ktrv : Part.trv ∈ l_) (kstore : Part.store ∈ l_) (h_ : OnlyChanges l_ u_ s) : OnlyChanges l_ u_ (recompute s) := by
  unfold recompute
  try dsimp only
  repeat' first | with_reducible assumption | with_reducible apply neighbourLost_only | with_reducible apply updateParent_only | with_reducible apply setRoute_only | with_reducible refine OnlyChanges.foldl ?_ (fun _ _ _ => ?_) | with_reducible apply OnlyChanges.ite | split | (with_reducible apply OnlyChanges.upd <;> first | exact fun q => absurd (by assumption) q | with_reducible exact fun _ => rfl | skip)
  all_goals first | exact fun _ => rfl | skip

theorem takeCounter_only  {s : State} (ktrv : Part.trv ∈ l_) (h_ : OnlyChanges l_ u_ s) : OnlyChanges l_ u_ (takeCounter s).2 := by
  unfold takeCounter
  try dsimp only
  repeat' first | with_reducible assumption | with_reducible refine OnlyChanges.foldl ?_ (fun _ _ _ => ?_) | with_reducible apply OnlyChanges.ite | split | (with_reducible apply OnlyChanges.upd <;> first | exact fun q => absurd (by assumption) q | with_reducible exact fun _ => rfl | skip)
  all_goals first | exact fun _ => rfl | skip

theorem counterResume_only  {s : State} (ktrv : Part.trv ∈ l_) (h_ : OnlyChanges l_ u_ s) : OnlyChanges l_ u_ (counterResume s) := by
  unfold counterResume
  try dsimp only
  repeat' first | with_reducible assumption | with_reducible refine OnlyChanges.foldl ?_ (fun _ _ _ => ?_) | with_reducible apply OnlyChanges.ite | split | (with_reducible apply OnlyChanges.upd <;> first | exact fun q => absurd (by assumption) q | with_reducible exact fun _ => rfl | skip)
  all_goals first | exact fun _ => rfl | skip

theorem ownPacket_only (service final : Nat) (flags : Byte) (payload : List Byte) (cls : Nat) {s : State} (ktrv : Part.trv ∈ l_) (h_ : OnlyChanges l_ u_ s) : OnlyChanges l_ u_ (ownPacket service final flags payload cls s).2 := by
  unfold ownPacket
  try dsimp only
  repeat' first | with_reducible assumption | with_reducible apply takeCounter_only | with_reducible refine OnlyChanges.foldl ?_ (fun _ _ _ => ?_) | with_reducible apply OnlyChanges.ite | split | (with_reducible apply OnlyChanges.upd <;> first | exact fun q => absurd (by assumption) q | with_reducible exact fun _ => rfl | skip)
  all_goals first | exact fun _ => rfl | skip

theorem queueOwn_only (k : TrvPkt) {s : State} (ktrv : Part.trv ∈ l_) (h_ : OnlyChanges l_ u_ s) : OnlyChanges l_ u_ (queueOwn k s) := by
  unfold queueOwn
  try dsimp only
  repeat' first | with_reducible assumption | with_reducible refine OnlyChanges.foldl ?_ (fun _ _ _ => ?_) | with_reducible apply OnlyChanges.ite | split | (with_reducible apply OnlyChanges.upd <;> first | exact fun q => absurd (by assumption) q | with_reducible exact fun _ => rfl | skip)
  all_goals first | exact fun _ => rfl | skip

theorem trvSent_only (counter result : Nat) {s : State} (kport : Part.port ∈ l_) (ktrv : Part.trv ∈ l_) (kstore : Part.store ∈ l_) (h_ : OnlyChanges l_ u_ s) : OnlyChanges l_ u_ (trvSent counter result s) := by
  unfold trvSent
  try dsimp only
  repeat' first | with_reducible assumption | with_reducible apply emit_only | with_reducible refine OnlyChanges.foldl ?_ (fun _ _ _ => ?_) | with_reducible apply OnlyChanges.ite | split | (with_reducible apply OnlyChanges.upd <;> first | exact fun q => absurd (by assumption) q | with_reducible exact fun _ => rfl | skip)
  all_goals first | exact fun _ => rfl | skip

theorem trvSilent_only  {s : State} (kport : Part.port ∈ l_) (ktrv : Part.trv ∈ l_) (kstore : Part.store ∈ l_) (h_ : OnlyChanges l_ u_ s) : OnlyChanges l_ u_ (trvSilent s) := by
  unfold trvSilent
  try dsimp only
  repeat' first | with_reducible assumption | with_reducible apply trvSent_only | with_reducible refine OnlyChanges.foldl ?_ (fun _ _ _ => ?_) | with_reducible apply OnlyChanges.ite | split | (with_reducible apply OnlyChanges.upd <;> first | exact fun q => absurd (by assumption) q | with_reducible exact fun _ => rfl | skip)
  all_goals first | exact fun _ => rfl | skip

theorem dropPacket_only (k : TrvPkt) (result : Nat) {s : State} (kport : Part.port ∈ l_) (ktrv : Part.trv ∈ l_) (kstore : Part.store ∈ l_) (h_ : OnlyChanges l_ u_ s) : OnlyChanges l_ u_ (dropPacket k result s) := by
  unfold dropPacket
  try dsimp only
  repeat' first | with_reducible assumption | with_reducible apply trvSent_only | with_reducible refine OnlyChanges.foldl ?_ (fun _ _ _ => ?_) | with_reducible apply OnlyChanges.ite | split | (with_reducible apply OnlyChanges.upd <;> first | exact fun q => absurd (by assumption) q | with_reducible exact fun _ => rfl | skip)
  all_goals first | exact fun _ => rfl | skip

theorem forwardPacket_only (k : TrvPkt) {s : State} (ktrv : Part.trv ∈ l_) (h_ : OnlyChanges l_ u_ s) : OnlyChanges l_ u_ (forwardPacket k s) := by
  unfold forwardPacket
  try dsimp only
  repeat' first | with_reducible assumption | with_reducible refine OnlyChanges.foldl ?_ (fun _ _ _ => ?_) | with_reducible apply OnlyChanges.ite | split | (with_reducible apply OnlyChanges.upd <;> first | exact fun q => absurd (by assumption) q | with_reducible exact fun _ => rfl | skip)
  all_goals first | exact fun _ => rfl | skip

theorem trvSecurity_only (kind origin : Nat) {s : State} (kport : Part.port ∈ l_) (ktrv : Part.trv ∈ l_) (kstore : Part.store ∈ l_) (h_ : OnlyChanges l_ u_ s) : OnlyChanges l_ u_ (trvSecurity kind origin s) := by
  unfold trvSecurity
  try dsimp only
  repeat' first | with_reducible assumption | with_reducible apply event_only | with_reducible refine OnlyChanges.foldl ?_ (fun _ _ _ => ?_) | with_reducible apply OnlyChanges.ite | split | (with_reducible apply OnlyChanges.upd <;> first | exact fun q => absurd (by assumption) q | with_reducible exact fun _ => rfl | skip)
  all_goals first | exact fun _ => rfl | skip

theorem screenPacket_only (k : TrvPkt) (micOk : Bool) {s : State} (kport : Part.port ∈ l_) (ktrv : Part.trv ∈ l_) (kstore : Part.store ∈ l_) (h_ : OnlyChanges l_ u_ s) : OnlyChanges l_ u_ (screenPacket k micOk s).2 := by
  unfold screenPacket
  try dsimp only
  repeat' first | with_reducible assumption | with_reducible apply trvSecurity_only | with_reducible refine OnlyChanges.foldl ?_ (fun _ _ _ => ?_) | with_reducible apply OnlyChanges.ite | split | (with_reducible apply OnlyChanges.upd <;> first | exact fun q => absurd (by assumption) q | with_reducible exact fun _ => rfl | skip)
  all_goals first | exact fun _ => rfl | skip

theorem deliverPacket_only (k : TrvPkt) {s : State} (kport : Part.port ∈ l_) (ktrv : Part.trv ∈ l_) (kstore : Part.store ∈ l_) (h_ : OnlyChanges l_ u_ s) : OnlyChanges l_ u_ (deliverPacket k s) := by
  unfold deliverPacket
  try dsimp only
  repeat' first | with_reducible assumption | with_reducible apply updNgh_only | with_reducible apply trvSent_only | with_reducible apply event_only | with_reducible apply ownPacket_only | with_reducible apply queueOwn_only | with_reducible refine OnlyChanges.foldl ?_ (fun _ _ _ => ?_) | with_reducible apply OnlyChanges.ite | split | (with_reducible apply OnlyChanges.upd <;> first | exact fun q => absurd (by assumption) q | with_reducible exact fun _ => rfl | skip)
  all_goals first | exact fun _ => rfl | skip

theorem takePacket_only (k : TrvPkt) {s : State} (kport : Part.port ∈ l_) (ktrv : Part.trv ∈ l_) (kstore : Part.store ∈ l_) (h_ : OnlyChanges l_ u_ s) : OnlyChanges l_ u_ (takePacket k s) := by
  unfold takePacket
  try dsimp only
  repeat' first | with_reducible assumption | with_reducible apply forwardPacket_only | with_reducible apply deliverPacket_only | with_reducible refine OnlyChanges.foldl ?_ (fun _ _ _ => ?_) | with_reducible apply OnlyChanges.ite | split | (with_reducible apply OnlyChanges.upd <;> first | exact fun q => absurd (by assumption) q | with_reducible exact fun _ => rfl | skip)
  all_goals first | exact fun _ => rfl | skip

theorem unqueue_only (k : TrvPkt) {s : State} (ktrv : Part.trv ∈ l_) (h_ : OnlyChanges l_ u_ s) : OnlyChanges l_ u_ (unqueue k s) := by
  unfold unqueue
  try dsimp only
  repeat' first | with_reducible assumption | with_reducible refine OnlyChanges.foldl ?_ (fun _ _ _ => ?_) | with_reducible apply OnlyChanges.ite | split | (with_reducible apply OnlyChanges.upd <;> first | exact fun q => absurd (by assumption) q | with_reducible exact fun _ => rfl | skip)
  all_goals first | exact fun _ => rfl | skip

theorem occupy_only (tenths : Nat) {s : State} (ktrv : Part.trv ∈ l_) (h_ : OnlyChanges l_ u_ s) : OnlyChanges l_ u_ (occupy tenths s) := by
  unfold occupy
  try dsimp only
  repeat' first | with_reducible assumption | with_reducible refine OnlyChanges.foldl ?_ (fun _ _ _ => ?_) | with_reducible apply OnlyChanges.ite | split | (with_reducible apply OnlyChanges.upd <;> first | exact fun q => absurd (by assumption) q | with_reducible exact fun _ => rfl | skip)
  all_goals first | exact fun _ => rfl | skip

theorem hearFrame_only (fc : List Byte) {s : State} (ktrv : Part.trv ∈ l_) (h_ : OnlyChanges l_ u_ s) : OnlyChanges l_ u_ (hearFrame fc s) := by
  unfold hearFrame
  try dsimp only
  repeat' first | with_reducible assumption | with_reducible apply occupy_only | with_reducible refine OnlyChanges.foldl ?_ (fun _ _ _ => ?_) | with_reducible apply OnlyChanges.ite | split | (with_reducible apply OnlyChanges.upd <;> first | exact fun q => absurd (by assumption) q | with_reducible exact fun _ => rfl | skip)
  all_goals first | exact fun _ => rfl | skip

theorem countFrame_only (fc : List Byte) {s : State} (ktrv : Part.trv ∈ l_) (h_ : OnlyChanges l_ u_ s) : OnlyChanges l_ u_ (countFrame fc s) := by
  unfold countFrame
  try dsimp only
  repeat' first | with_reducible assumption | with_reducible refine OnlyChanges.foldl ?_ (fun _ _ _ => ?_) | with_reducible apply OnlyChanges.ite | split | (with_reducible apply OnlyChanges.upd <;> first | exact fun q => absurd (by assumption) q | with_reducible exact fun _ => rfl | skip)
  all_goals first | exact fun _ => rfl | skip

theorem sendSegments_only (t : TrvTx) (k : Nat) {s : State} (ktrv : Part.trv ∈ l_) (h_ : OnlyChanges l_ u_ s) : OnlyChanges l_ u_ (sendSegments t k s) := by
  unfold sendSegments
  try dsimp only
  repeat' first | with_reducible assumption | with_reducible apply updNgh_only | with_reducible refine OnlyChanges.foldl ?_ (fun _ _ _ => ?_) | with_reducible apply OnlyChanges.ite | split | (with_reducible apply OnlyChanges.upd <;> first | exact fun q => absurd (by assumption) q | with_reducible exact fun _ => rfl | skip)
  all_goals first | exact fun _ => rfl | skip

theorem sendBroadcast_only (t : TrvTx) (k : Nat) {s : State} (kport : Part.port ∈ l_) (ktrv : Part.trv ∈ l_) (kstore : Part.store ∈ l_) (h_ : OnlyChanges l_ u_ s) : OnlyChanges l_ u_ (sendBroadcast t k s) := by
  unfold sendBroadcast
  try dsimp only
  repeat' first | with_reducible assumption | with_reducible apply trvSent_only | with_reducible refine OnlyChanges.foldl ?_ (fun _ _ _ => ?_) | with_reducible apply OnlyChanges.ite | split | (with_reducible apply OnlyChanges.upd <;> first | exact fun q => absurd (by assumption) q | with_reducible exact fun _ => rfl | skip)
  all_goals first | exact fun _ => rfl | skip

theorem beginTx_only (t : TrvTx) {s : State} (ktrv : Part.trv ∈ l_) (h_ : OnlyChanges l_ u_ s) : OnlyChanges l_ u_ (beginTx t s) := by
  unfold beginTx
  try dsimp only
  repeat' first | with_reducible assumption | with_reducible apply unqueue_only | with_reducible apply updNgh_only | with_reducible refine OnlyChanges.foldl ?_ (fun _ _ _ => ?_) | with_reducible apply OnlyChanges.ite | split | (with_reducible apply OnlyChanges.upd <;> first | exact fun q => absurd (by assumption) q | with_reducible exact fun _ => rfl | skip)
  all_goals first | exact fun _ => rfl | skip

theorem sendAck_only (f : TrvFrameIn) {s : State} (ktrv : Part.trv ∈ l_) (h_ : OnlyChanges l_ u_ s) : OnlyChanges l_ u_ (sendAck f s) := by
  unfold sendAck
  try dsimp only
  repeat' first | with_reducible assumption | with_reducible apply occupy_only | with_reducible refine OnlyChanges.foldl ?_ (fun _ _ _ => ?_) | with_reducible apply OnlyChanges.ite | split | (with_reducible apply OnlyChanges.upd <;> first | exact fun q => absurd (by assumption) q | with_reducible exact fun _ => rfl | skip)
  all_goals first | exact fun _ => rfl | skip

theorem takeFrame_only (f : TrvFrameIn) {s : State} (ktrv : Part.trv ∈ l_) (h_ : OnlyChanges l_ u_ s) : OnlyChanges l_ u_ (takeFrame f s) := by
  unfold takeFrame
  try dsimp only
  repeat' first | with_reducible assumption | with_reducible refine OnlyChanges.foldl ?_ (fun _ _ _ => ?_) | with_reducible apply OnlyChanges.ite | split | (with_reducible apply OnlyChanges.upd <;> first | exact fun q => absurd (by assumption) q | with_reducible exact fun _ => rfl | skip)
  all_goals first | exact fun _ => rfl | skip

theorem segmentsLeft_only (t : TrvTx) (left : List Nat) {s : State} (kport : Part.port ∈ l_) (ktrv : Part.trv ∈ l_) (kstore : Part.store ∈ l_) (h_ : OnlyChanges l_ u_ s) : OnlyChanges l_ u_ (segmentsLeft t left s) := by
  unfold segmentsLeft
  try dsimp only
  repeat' first | with_reducible assumption | with_reducible apply dropPacket_only | with_reducible apply updNgh_only | with_reducible refine OnlyChanges.foldl ?_ (fun _ _ _ => ?_) | with_reducible apply OnlyChanges.ite | split | (with_reducible apply OnlyChanges.upd <;> first | exact fun q => absurd (by assumption) q | with_reducible exact fun _ => rfl | skip)
  all_goals first | exact fun _ => rfl | skip

theorem ackTakenBy_only (t : TrvTx) (bitmap : BitVec 32) (snr : Nat) {s : State} (kport : Part.port ∈ l_) (ktrv : Part.trv ∈ l_) (kstore : Part.store ∈ l_) (h_ : OnlyChanges l_ u_ s) : OnlyChanges l_ u_ (ackTakenBy t bitmap snr s) := by
  unfold ackTakenBy
  try dsimp only
  repeat' first | with_reducible assumption | with_reducible apply updNgh_only | with_reducible apply trvSent_only | with_reducible apply segmentsLeft_only | with_reducible refine OnlyChanges.foldl ?_ (fun _ _ _ => ?_) | with_reducible apply OnlyChanges.ite | split | (with_reducible apply OnlyChanges.upd <;> first | exact fun q => absurd (by assumption) q | with_reducible exact fun _ => rfl | skip)
  all_goals first | exact fun _ => rfl | skip

theorem datumTo_only (v : Bool) {s : State} (kport : Part.port ∈ l_) (ktrv : Part.trv ∈ l_) (kstore : Part.store ∈ l_) (h_ : OnlyChanges l_ u_ s) : OnlyChanges l_ u_ (datumTo v s) := by
  unfold datumTo
  try dsimp only
  repeat' first | with_reducible assumption | with_reducible apply event_only | with_reducible refine OnlyChanges.foldl ?_ (fun _ _ _ => ?_) | with_reducible apply OnlyChanges.ite | split | (with_reducible apply OnlyChanges.upd <;> first | exact fun q => absurd (by assumption) q | with_reducible exact fun _ => rfl | skip)
  all_goals first | exact fun _ => rfl | skip

theorem alignCheck_only  {s : State} (kport : Part.port ∈ l_) (ktrv : Part.trv ∈ l_) (kstore : Part.store ∈ l_) (h_ : OnlyChanges l_ u_ s) : OnlyChanges l_ u_ (alignCheck s) := by
  unfold alignCheck
  try dsimp only
  repeat' first | with_reducible assumption | with_reducible apply event_only | with_reducible refine OnlyChanges.foldl ?_ (fun _ _ _ => ?_) | with_reducible apply OnlyChanges.ite | split | (with_reducible apply OnlyChanges.upd <;> first | exact fun q => absurd (by assumption) q | with_reducible exact fun _ => rfl | skip)
  all_goals first | exact fun _ => rfl | skip

theorem sendBeacon_only  {s : State} (kfactory : Part.factory ∈ l_) (ktrv : Part.trv ∈ l_) (h_ : OnlyChanges l_ u_ s) : OnlyChanges l_ u_ (sendBeacon s) := by
  unfold sendBeacon
  try dsimp only
  repeat' first | with_reducible assumption | with_reducible apply ownPacket_only | with_reducible apply State.drawFree_only | with_reducible apply occupy_only | with_reducible refine OnlyChanges.foldl ?_ (fun _ _ _ => ?_) | with_reducible apply OnlyChanges.ite | split | (with_reducible apply OnlyChanges.upd <;> first | exact fun q => absurd (by assumption) q | with_reducible exact fun _ => rfl | skip)
  all_goals first | exact fun _ => rfl | skip

theorem masterConflict_only (b : BeaconSeen) {s : State} (kport : Part.port ∈ l_) (ktrv : Part.trv ∈ l_) (kstore : Part.store ∈ l_) (h_ : OnlyChanges l_ u_ s) : OnlyChanges l_ u_ (masterConflict b s) := by
  unfold masterConflict
  try dsimp only
  repeat' first | with_reducible assumption | with_reducible apply event_only | with_reducible refine OnlyChanges.foldl ?_ (fun _ _ _ => ?_) | with_reducible apply OnlyChanges.ite | split | (with_reducible apply OnlyChanges.upd <;> first | exact fun q => absurd (by assumption) q | with_reducible exact fun _ => rfl | skip)
  all_goals first | exact fun _ => rfl | skip

theorem measure_only (b : BeaconSeen) {s : State} (kfactory : Part.factory ∈ l_) (ktrv : Part.trv ∈ l_) (h_ : OnlyChanges l_ u_ s) : OnlyChanges l_ u_ (measure b s) := by
  unfold measure
  try dsimp only
  repeat' first | with_reducible assumption | with_reducible apply State.drawFree_only | with_reducible refine OnlyChanges.foldl ?_ (fun _ _ _ => ?_) | with_reducible apply OnlyChanges.ite | split | (with_reducible apply OnlyChanges.upd <;> first | exact fun q => absurd (by assumption) q | with_reducible exact fun _ => rfl | skip)
  all_goals first | exact fun _ => rfl | skip

theorem addressClash_only (b : BeaconSeen) {s : State} (kport : Part.port ∈ l_) (ktrv : Part.trv ∈ l_) (kstore : Part.store ∈ l_) (h_ : OnlyChanges l_ u_ s) : OnlyChanges l_ u_ (addressClash b s) := by
  unfold addressClash
  try dsimp only
  repeat' first | with_reducible assumption | with_reducible apply event_only | with_reducible apply trvSilent_only | with_reducible refine OnlyChanges.foldl ?_ (fun _ _ _ => ?_) | with_reducible apply OnlyChanges.ite | split | (with_reducible apply OnlyChanges.upd <;> first | exact fun q => absurd (by assumption) q | with_reducible exact fun _ => rfl | skip)
  all_goals first | exact fun _ => rfl | skip

theorem beaconHeard_only (b : BeaconSeen) {s : State} (ktrv : Part.trv ∈ l_) (h_ : OnlyChanges l_ u_ s) : OnlyChanges l_ u_ (beaconHeard b s) := by
  unfold beaconHeard
  try dsimp only
  repeat' first | with_reducible assumption | with_reducible apply updNgh_only | with_reducible refine OnlyChanges.foldl ?_ (fun _ _ _ => ?_) | with_reducible apply OnlyChanges.ite | split | (with_reducible apply OnlyChanges.upd <;> first | exact fun q => absurd (by assumption) q | with_reducible exact fun _ => rfl | skip)
  all_goals first | exact fun _ => rfl | skip

theorem beaconRoutes_only (b : BeaconSeen) {s : State} (kport : Part.port ∈ l_) (ktrv : Part.trv ∈ l_) (kstore : Part.store ∈ l_) (h_ : OnlyChanges l_ u_ s) : OnlyChanges l_ u_ (beaconRoutes b s) := by
  unfold beaconRoutes
  try dsimp only
  repeat' first | with_reducible assumption | with_reducible apply neighbourLost_only | with_reducible apply updateParent_only | with_reducible apply updNgh_only | with_reducible refine OnlyChanges.foldl ?_ (fun _ _ _ => ?_) | with_reducible apply OnlyChanges.ite | split | (with_reducible apply OnlyChanges.upd <;> first | exact fun q => absurd (by assumption) q | with_reducible exact fun _ => rfl | skip)
  all_goals first | exact fun _ => rfl | skip

theorem beaconTimes_only (b : BeaconSeen) {s : State} (kfactory : Part.factory ∈ l_) (kport : Part.port ∈ l_) (ktrv : Part.trv ∈ l_) (kstore : Part.store ∈ l_) (h_ : OnlyChanges l_ u_ s) : OnlyChanges l_ u_ (beaconTimes b s) := by
  unfold beaconTimes
  try dsimp only
  repeat' first | with_reducible assumption | with_reducible apply alignCheck_only | with_reducible apply measure_only | with_reducible refine OnlyChanges.foldl ?_ (fun _ _ _ => ?_) | with_reducible apply OnlyChanges.ite | split | (with_reducible apply OnlyChanges.upd <;> first | exact fun q => absurd (by assumption) q | with_reducible exact fun _ => rfl | skip)
  all_goals first | exact fun _ => rfl | skip

theorem useBeacon_only (b : BeaconSeen) {s : State} (kfactory : Part.factory ∈ l_) (kport : Part.port ∈ l_) (ktrv : Part.trv ∈ l_) (kstore : Part.store ∈ l_) (h_ : OnlyChanges l_ u_ s) : OnlyChanges l_ u_ (useBeacon b s) := by
  unfold useBeacon
  try dsimp only
  repeat' first | with_reducible assumption | with_reducible apply addressClash_only | with_reducible apply beaconTimes_only | with_reducible apply beaconRoutes_only | with_reducible apply beaconHeard_only | with_reducible apply masterConflict_only | with_reducible refine OnlyChanges.foldl ?_ (fun _ _ _ => ?_) | with_reducible apply OnlyChanges.ite | split | (with_reducible apply OnlyChanges.upd <;> first | exact fun q => absurd (by assumption) q | with_reducible exact fun _ => rfl | skip)
  all_goals first | exact fun _ => rfl | skip

theorem takeBeacon_only (b : BeaconIn) {s : State} (kfactory : Part.factory ∈ l_) (kport : Part.port ∈ l_) (ktrv : Part.trv ∈ l_) (kstore : Part.store ∈ l_) (h_ : OnlyChanges l_ u_ s) : OnlyChanges l_ u_ (takeBeacon b s) := by
  unfold takeBeacon
  try dsimp only
  repeat' first | with_reducible assumption | with_reducible apply screenPacket_only | with_reducible apply useBeacon_only | with_reducible refine OnlyChanges.foldl ?_ (fun _ _ _ => ?_) | with_reducible apply OnlyChanges.ite | split | (with_reducible apply OnlyChanges.upd <;> first | exact fun q => absurd (by assumption) q | with_reducible exact fun _ => rfl | skip)
  all_goals first | exact fun _ => rfl | skip

theorem requestTrv_only  {s : State} (kease : Part.ease ∈ l_) (ktrv : Part.trv ∈ l_) (h_ : OnlyChanges l_ u_ s) : OnlyChanges l_ u_ (requestTrv s) := by
  unfold requestTrv
  try dsimp only
  repeat' first | with_reducible assumption | with_reducible apply submit_only | with_reducible refine OnlyChanges.foldl ?_ (fun _ _ _ => ?_) | with_reducible apply OnlyChanges.ite | split | (with_reducible apply OnlyChanges.upd <;> first | exact fun q => absurd (by assumption) q | with_reducible exact fun _ => rfl | skip)
  all_goals first | exact fun _ => rfl | skip

theorem requeue_only  {s : State} (ktrv : Part.trv ∈ l_) (kstore : Part.store ∈ l_) (h_ : OnlyChanges l_ u_ s) : OnlyChanges l_ u_ (requeue s) := by
  unfold requeue
  try dsimp only
  repeat' first | with_reducible assumption | with_reducible refine OnlyChanges.foldl ?_ (fun _ _ _ => ?_) | with_reducible apply OnlyChanges.ite | split | (with_reducible apply OnlyChanges.upd <;> first | exact fun q => absurd (by assumption) q | with_reducible exact fun _ => rfl | skip)
  all_goals first | exact fun _ => rfl | skip

theorem trvRestart_only (oldNode : Nat) {s : State} (kport : Part.port ∈ l_) (ktrv : Part.trv ∈ l_) (kstore : Part.store ∈ l_) (h_ : OnlyChanges l_ u_ s) : OnlyChanges l_ u_ (trvRestart oldNode s) := by
  unfold trvRestart
  try dsimp only
  repeat' first | with_reducible assumption | with_reducible apply setRoute_only | with_reducible apply requeue_only | with_reducible apply alignCheck_only | with_reducible apply trvSilent_only | with_reducible refine OnlyChanges.foldl ?_ (fun _ _ _ => ?_) | with_reducible apply OnlyChanges.ite | split | (with_reducible apply OnlyChanges.upd <;> first | exact fun q => absurd (by assumption) q | with_reducible exact fun _ => rfl | skip)
  all_goals first | exact fun _ => rfl | skip

theorem trvSendCmd_only (h : Hdr) (p : List Byte) {s : State} (kport : Part.port ∈ l_) (ktrv : Part.trv ∈ l_) (kstore : Part.store ∈ l_) (h_ : OnlyChanges l_ u_ s) : OnlyChanges l_ u_ (trvSendCmd h p s).run.st := by
  unfold trvSendCmd
  try dsimp only
  repeat' first | with_reducible assumption | with_reducible apply ownPacket_only | with_reducible apply queueOwn_only | with_reducible apply trvSent_only | with_reducible refine OnlyChanges.foldl ?_ (fun _ _ _ => ?_) | with_reducible apply OnlyChanges.ite | split | (with_reducible apply OnlyChanges.upd <;> first | exact fun q => absurd (by assumption) q | with_reducible exact fun _ => rfl | skip)
  all_goals first | exact fun _ => rfl | skip

theorem trvKeySetCmd_only (p : List Byte) {s : State} (ktrv : Part.trv ∈ l_) (h_ : OnlyChanges l_ u_ s) : OnlyChanges l_ u_ (trvKeySetCmd p s).run.st := by
  unfold trvKeySetCmd
  try dsimp only
  repeat' first | with_reducible assumption | with_reducible refine OnlyChanges.foldl ?_ (fun _ _ _ => ?_) | with_reducible apply OnlyChanges.ite | split | (with_reducible apply OnlyChanges.upd <;> first | exact fun q => absurd (by assumption) q | with_reducible exact fun _ => rfl | skip)
  all_goals first | exact fun _ => rfl | skip

theorem trvKeyUseCmd_only (p : List Byte) {s : State} (ktrv : Part.trv ∈ l_) (h_ : OnlyChanges l_ u_ s) : OnlyChanges l_ u_ (trvKeyUseCmd p s).run.st := by
  unfold trvKeyUseCmd
  try dsimp only
  repeat' first | with_reducible assumption | with_reducible refine OnlyChanges.foldl ?_ (fun _ _ _ => ?_) | with_reducible apply OnlyChanges.ite | split | (with_reducible apply OnlyChanges.upd <;> first | exact fun q => absurd (by assumption) q | with_reducible exact fun _ => rfl | skip)
  all_goals first | exact fun _ => rfl | skip

end Sys2Proof.Machine
end

