-- ==== Sys2Proof/Laws/OnlyChain.lean ====
section
/-!
SUPPORT. The frames of the operations of Machine/Chain.lean (OnlyChanges, for every list that holds the parts they touch).
-/

namespace Sys2Proof.Machine

set_option linter.all false

open Sys2Proof.Safety

variable {l_ : List Part} {u_ : State}

theorem updChain_only (f : Chain → Chain) {s : State} (kchain : Part.chain ∈ l_) (h_ : OnlyChanges l_ u_ s) : OnlyChanges l_ u_ (updChain f s) := by
  unfold updChain
  try dsimp only
  repeat' first | with_reducible assumption | with_reducible refine OnlyChanges.foldl ?_ (fun _ _ _ => ?_) | with_reducible apply OnlyChanges.ite | split | (with_reducible apply OnlyChanges.upd <;> first | exact fun q => absurd (by assumption) q | with_reducible exact fun _ => rfl | skip)
  all_goals first | exact fun _ => rfl | skip

theorem chainSend_only (dst type : Nat) (body : List Byte) {s : State} (ktrv : Part.trv ∈ l_) (h_ : OnlyChanges l_ u_ s) : OnlyChanges l_ u_ (chainSend dst type body s) := by
  unfold chainSend
  try dsimp only
  repeat' first | with_reducible assumption | with_reducible apply ownPacket_only | with_reducible apply queueOwn_only | with_reducible refine OnlyChanges.foldl ?_ (fun _ _ _ => ?_) | with_reducible apply OnlyChanges.ite | split | (with_reducible apply OnlyChanges.upd <;> first | exact fun q => absurd (by assumption) q | with_reducible exact fun _ => rfl | skip)
  all_goals first | exact fun _ => rfl | skip

theorem sendOffer_only  {s : State} (ktrv : Part.trv ∈ l_) (kchain : Part.chain ∈ l_) (h_ : OnlyChanges l_ u_ s) : OnlyChanges l_ u_ (sendOffer s) := by
  unfold sendOffer
  try dsimp only
  repeat' first | with_reducible assumption | with_reducible apply updChain_only | with_reducible apply chainSend_only | with_reducible refine OnlyChanges.foldl ?_ (fun _ _ _ => ?_) | with_reducible apply OnlyChanges.ite | split | (with_reducible apply OnlyChanges.upd <;> first | exact fun q => absurd (by assumption) q | with_reducible exact fun _ => rfl | skip)
  all_goals first | exact fun _ => rfl | skip

theorem sendAnswer_only (dst result first : Nat) {s : State} (ktrv : Part.trv ∈ l_) (h_ : OnlyChanges l_ u_ s) : OnlyChanges l_ u_ (sendAnswer dst result first s) := by
  unfold sendAnswer
  try dsimp only
  repeat' first | with_reducible assumption | with_reducible apply chainSend_only | with_reducible refine OnlyChanges.foldl ?_ (fun _ _ _ => ?_) | with_reducible apply OnlyChanges.ite | split | (with_reducible apply OnlyChanges.upd <;> first | exact fun q => absurd (by assumption) q | with_reducible exact fun _ => rfl | skip)
  all_goals first | exact fun _ => rfl | skip

theorem sendBlock_only (dst k : Nat) {s : State} (ktrv : Part.trv ∈ l_) (h_ : OnlyChanges l_ u_ s) : OnlyChanges l_ u_ (sendBlock dst k s) := by
  unfold sendBlock
  try dsimp only
  repeat' first | with_reducible assumption | with_reducible apply chainSend_only | with_reducible refine OnlyChanges.foldl ?_ (fun _ _ _ => ?_) | with_reducible apply OnlyChanges.ite | split | (with_reducible apply OnlyChanges.upd <;> first | exact fun q => absurd (by assumption) q | with_reducible exact fun _ => rfl | skip)
  all_goals first | exact fun _ => rfl | skip

theorem pump_only (k : Nat) {s : State} (ktrv : Part.trv ∈ l_) (kchain : Part.chain ∈ l_) (h_ : OnlyChanges l_ u_ s) : OnlyChanges l_ u_ (pump k s) := by
  induction k generalizing s with
  | zero => exact h_
  | succ k ih =>
    unfold pump
    try dsimp only
    repeat' first | with_reducible assumption | with_reducible apply updChain_only | with_reducible apply sendBlock_only | with_reducible apply ih | with_reducible refine OnlyChanges.foldl ?_ (fun _ _ _ => ?_) | with_reducible apply OnlyChanges.ite | split | (with_reducible apply OnlyChanges.upd <;> first | exact fun q => absurd (by assumption) q | with_reducible exact fun _ => rfl | skip)
    all_goals first | exact fun _ => rfl | skip

theorem forward16_only  {s : State} (ktrv : Part.trv ∈ l_) (kchain : Part.chain ∈ l_) (h_ : OnlyChanges l_ u_ s) : OnlyChanges l_ u_ (forward16 s) := by
  unfold forward16
  try dsimp only
  repeat' first | with_reducible assumption | with_reducible apply pump_only | with_reducible refine OnlyChanges.foldl ?_ (fun _ _ _ => ?_) | with_reducible apply OnlyChanges.ite | split | (with_reducible apply OnlyChanges.upd <;> first | exact fun q => absurd (by assumption) q | with_reducible exact fun _ => rfl | skip)
  all_goals first | exact fun _ => rfl | skip

theorem stagingDone_only (result : Nat) {s : State} (kport : Part.port ∈ l_) (kstore : Part.store ∈ l_) (h_ : OnlyChanges l_ u_ s) : OnlyChanges l_ u_ (stagingDone result s) := by
  unfold stagingDone
  try dsimp only
  repeat' first | with_reducible assumption | with_reducible apply updateDone_only | with_reducible refine OnlyChanges.foldl ?_ (fun _ _ _ => ?_) | with_reducible apply OnlyChanges.ite | split | (with_reducible apply OnlyChanges.upd <;> first | exact fun q => absurd (by assumption) q | with_reducible exact fun _ => rfl | skip)
  all_goals first | exact fun _ => rfl | skip

theorem updateProgressEvent_only  {s : State} (kport : Part.port ∈ l_) (kchain : Part.chain ∈ l_) (kstore : Part.store ∈ l_) (h_ : OnlyChanges l_ u_ s) : OnlyChanges l_ u_ (updateProgressEvent s) := by
  unfold updateProgressEvent
  try dsimp only
  repeat' first | with_reducible assumption | with_reducible apply event_only | with_reducible apply updChain_only | with_reducible refine OnlyChanges.foldl ?_ (fun _ _ _ => ?_) | with_reducible apply OnlyChanges.ite | split | (with_reducible apply OnlyChanges.upd <;> first | exact fun q => absurd (by assumption) q | with_reducible exact fun _ => rfl | skip)
  all_goals first | exact fun _ => rfl | skip

theorem beginStaging_only (header : List Byte) (c : Chain) {s : State} (kease : Part.ease ∈ l_) (kchain : Part.chain ∈ l_) (kstore : Part.store ∈ l_) (h_ : OnlyChanges l_ u_ s) : OnlyChanges l_ u_ (beginStaging header c s) := by
  unfold beginStaging
  try dsimp only
  repeat' first | with_reducible assumption | with_reducible apply askGroup_only | with_reducible refine OnlyChanges.foldl ?_ (fun _ _ _ => ?_) | with_reducible apply OnlyChanges.ite | split | (with_reducible apply OnlyChanges.upd <;> first | exact fun q => absurd (by assumption) q | with_reducible exact fun _ => rfl | skip)
  all_goals first | exact fun _ => rfl | skip

theorem emptyStaging_only  {s : State} (kease : Part.ease ∈ l_) (kchain : Part.chain ∈ l_) (kstore : Part.store ∈ l_) (h_ : OnlyChanges l_ u_ s) : OnlyChanges l_ u_ (emptyStaging s) := by
  unfold emptyStaging
  try dsimp only
  repeat' first | with_reducible assumption | with_reducible apply dropErases_only | with_reducible apply journalUpdate_only | with_reducible refine OnlyChanges.foldl ?_ (fun _ _ _ => ?_) | with_reducible apply OnlyChanges.ite | split | (with_reducible apply OnlyChanges.upd <;> first | exact fun q => absurd (by assumption) q | with_reducible exact fun _ => rfl | skip)
  all_goals first | exact fun _ => rfl | skip

theorem stagingComplete_only  {s : State} (kport : Part.port ∈ l_) (ktrv : Part.trv ∈ l_) (kchain : Part.chain ∈ l_) (kstore : Part.store ∈ l_) (h_ : OnlyChanges l_ u_ s) : OnlyChanges l_ u_ (stagingComplete s) := by
  unfold stagingComplete
  try dsimp only
  repeat' first | with_reducible assumption | with_reducible apply stagingDone_only | with_reducible apply journalUpdate_only | with_reducible apply chainSend_only | with_reducible refine OnlyChanges.foldl ?_ (fun _ _ _ => ?_) | with_reducible apply OnlyChanges.ite | split | (with_reducible apply OnlyChanges.upd <;> first | exact fun q => absurd (by assumption) q | with_reducible exact fun _ => rfl | skip)
  all_goals first | exact fun _ => rfl | skip

theorem stageHalf_only (k half : Nat) (data tag : List Byte) {s : State} (kport : Part.port ∈ l_) (ktrv : Part.trv ∈ l_) (kchain : Part.chain ∈ l_) (kstore : Part.store ∈ l_) (h_ : OnlyChanges l_ u_ s) : OnlyChanges l_ u_ (stageHalf k half data tag s).1 := by
  unfold stageHalf
  try dsimp only
  repeat' first | with_reducible assumption | with_reducible apply journalUpdate_only | with_reducible apply updChain_only | with_reducible apply stagingComplete_only | with_reducible refine OnlyChanges.foldl ?_ (fun _ _ _ => ?_) | with_reducible apply OnlyChanges.ite | split | (with_reducible apply OnlyChanges.upd <;> first | exact fun q => absurd (by assumption) q | with_reducible exact fun _ => rfl | skip)
  all_goals first | exact fun _ => rfl | skip

theorem updateStartCmd_only (h : Hdr) (p : List Byte) {s : State} (kease : Part.ease ∈ l_) (ktrv : Part.trv ∈ l_) (kchain : Part.chain ∈ l_) (kstore : Part.store ∈ l_) (h_ : OnlyChanges l_ u_ s) : OnlyChanges l_ u_ (updateStartCmd h p s).run.st := by
  unfold updateStartCmd
  try dsimp only
  repeat' first | with_reducible assumption | with_reducible apply beginStaging_only | with_reducible apply updChain_only | with_reducible apply sendOffer_only | with_reducible refine OnlyChanges.foldl ?_ (fun _ _ _ => ?_) | with_reducible apply OnlyChanges.ite | split | (with_reducible apply OnlyChanges.upd <;> first | exact fun q => absurd (by assumption) q | with_reducible exact fun _ => rfl | skip)
  all_goals first | exact fun _ => rfl | skip

theorem updateDataCmd_only (p : List Byte) {s : State} (kport : Part.port ∈ l_) (ktrv : Part.trv ∈ l_) (kchain : Part.chain ∈ l_) (kstore : Part.store ∈ l_) (h_ : OnlyChanges l_ u_ s) : OnlyChanges l_ u_ (updateDataCmd p s).run.st := by
  unfold updateDataCmd
  try dsimp only
  repeat' first | with_reducible assumption | with_reducible apply stageHalf_only | with_reducible apply forward16_only | with_reducible refine OnlyChanges.foldl ?_ (fun _ _ _ => ?_) | with_reducible apply OnlyChanges.ite | split | (with_reducible apply OnlyChanges.upd <;> first | exact fun q => absurd (by assumption) q | with_reducible exact fun _ => rfl | skip)
  all_goals first | exact fun _ => rfl | skip

theorem updateAbortCmd_only (p : List Byte) {s : State} (kport : Part.port ∈ l_) (kease : Part.ease ∈ l_) (ktrv : Part.trv ∈ l_) (kchain : Part.chain ∈ l_) (kstore : Part.store ∈ l_) (h_ : OnlyChanges l_ u_ s) : OnlyChanges l_ u_ (updateAbortCmd p s).run.st := by
  unfold updateAbortCmd
  try dsimp only
  repeat' first | with_reducible assumption | with_reducible apply chainSend_only | with_reducible apply stagingDone_only | with_reducible apply emptyStaging_only | with_reducible refine OnlyChanges.foldl ?_ (fun _ _ _ => ?_) | with_reducible apply OnlyChanges.ite | split | (with_reducible apply OnlyChanges.upd <;> first | exact fun q => absurd (by assumption) q | with_reducible exact fun _ => rfl | skip)
  all_goals first | exact fun _ => rfl | skip

theorem refuseOffer_only (src origin id result : Nat) {s : State} (ktrv : Part.trv ∈ l_) (h_ : OnlyChanges l_ u_ s) : OnlyChanges l_ u_ (refuseOffer src origin id result s) := by
  unfold refuseOffer
  try dsimp only
  repeat' first | with_reducible assumption | with_reducible apply ownPacket_only | with_reducible apply queueOwn_only | with_reducible refine OnlyChanges.foldl ?_ (fun _ _ _ => ?_) | with_reducible apply OnlyChanges.ite | split | (with_reducible apply OnlyChanges.upd <;> first | exact fun q => absurd (by assumption) q | with_reducible exact fun _ => rfl | skip)
  all_goals first | exact fun _ => rfl | skip

theorem resumeOffer_only (src origin : Nat) (nodes : List Nat) (position : Nat) (next : Option (Nat × Nat)) {s : State} (ktrv : Part.trv ∈ l_) (kchain : Part.chain ∈ l_) (h_ : OnlyChanges l_ u_ s) : OnlyChanges l_ u_ (resumeOffer src origin nodes position next s) := by
  unfold resumeOffer
  try dsimp only
  repeat' first | with_reducible assumption | with_reducible apply updChain_only | with_reducible apply sendAnswer_only | with_reducible apply sendOffer_only | with_reducible refine OnlyChanges.foldl ?_ (fun _ _ _ => ?_) | with_reducible apply OnlyChanges.ite | split | (with_reducible apply OnlyChanges.upd <;> first | exact fun q => absurd (by assumption) q | with_reducible exact fun _ => rfl | skip)
  all_goals first | exact fun _ => rfl | skip

theorem chainNode_only (node result blocks : Nat) {s : State} (kport : Part.port ∈ l_) (kstore : Part.store ∈ l_) (h_ : OnlyChanges l_ u_ s) : OnlyChanges l_ u_ (chainNode node result blocks s) := by
  unfold chainNode
  try dsimp only
  repeat' first | with_reducible assumption | with_reducible apply event_only | with_reducible refine OnlyChanges.foldl ?_ (fun _ _ _ => ?_) | with_reducible apply OnlyChanges.ite | split | (with_reducible apply OnlyChanges.upd <;> first | exact fun q => absurd (by assumption) q | with_reducible exact fun _ => rfl | skip)
  all_goals first | exact fun _ => rfl | skip

theorem updEntry_only (node : Nat) (f : ChainPos → ChainPos) {s : State} (kchain : Part.chain ∈ l_) (h_ : OnlyChanges l_ u_ s) : OnlyChanges l_ u_ (updEntry node f s) := by
  unfold updEntry
  try dsimp only
  repeat' first | with_reducible assumption | with_reducible apply updChain_only | with_reducible refine OnlyChanges.foldl ?_ (fun _ _ _ => ?_) | with_reducible apply OnlyChanges.ite | split | (with_reducible apply OnlyChanges.upd <;> first | exact fun q => absurd (by assumption) q | with_reducible exact fun _ => rfl | skip)
  all_goals first | exact fun _ => rfl | skip

theorem markSlow_only  {s : State} (kchain : Part.chain ∈ l_) (h_ : OnlyChanges l_ u_ s) : OnlyChanges l_ u_ (markSlow s) := by
  unfold markSlow
  try dsimp only
  repeat' first | with_reducible assumption | with_reducible apply updChain_only | with_reducible refine OnlyChanges.foldl ?_ (fun _ _ _ => ?_) | with_reducible apply OnlyChanges.ite | split | (with_reducible apply OnlyChanges.upd <;> first | exact fun q => absurd (by assumption) q | with_reducible exact fun _ => rfl | skip)
  all_goals first | exact fun _ => rfl | skip

theorem bypass_only (i : Nat) (r : ChainPos) {s : State} (kport : Part.port ∈ l_) (ktrv : Part.trv ∈ l_) (kchain : Part.chain ∈ l_) (kstore : Part.store ∈ l_) (h_ : OnlyChanges l_ u_ s) : OnlyChanges l_ u_ (bypass i r s) := by
  unfold bypass
  try dsimp only
  repeat' first | with_reducible assumption | with_reducible apply chainNode_only | with_reducible apply updChain_only | with_reducible apply sendOffer_only | with_reducible apply chainSend_only | with_reducible refine OnlyChanges.foldl ?_ (fun _ _ _ => ?_) | with_reducible apply OnlyChanges.ite | split | (with_reducible apply OnlyChanges.upd <;> first | exact fun q => absurd (by assumption) q | with_reducible exact fun _ => rfl | skip)
  all_goals first | exact fun _ => rfl | skip

theorem chainResume_only  {s : State} (kfactory : Part.factory ∈ l_) (kease : Part.ease ∈ l_) (ktrv : Part.trv ∈ l_) (kchain : Part.chain ∈ l_) (kstore : Part.store ∈ l_) (h_ : OnlyChanges l_ u_ s) : OnlyChanges l_ u_ (chainResume s) := by
  unfold chainResume
  try dsimp only
  repeat' first | with_reducible assumption | with_reducible apply askErase_only | with_reducible apply journalUpdate_only | with_reducible apply State.drawFree_only | with_reducible apply askGroup_only | with_reducible apply dropErases_only | with_reducible apply sendAnswer_only | with_reducible refine OnlyChanges.foldl ?_ (fun _ _ _ => ?_) | with_reducible apply OnlyChanges.ite | split | (with_reducible apply OnlyChanges.upd <;> first | exact fun q => absurd (by assumption) q | with_reducible exact fun _ => rfl | skip)
  all_goals first | exact fun _ => rfl | skip

end Sys2Proof.Machine
end

