-- ==== Sys2Proof/Laws/OnlyClosure.lean ====
section
/-!
SUPPORT. The frames of the operations of Machine/Closure.lean (OnlyChanges, for every list that holds the parts they touch).
-/

namespace Sys2Proof.Machine

set_option linter.all false

open Sys2Proof.Safety

variable {l_ : List Part} {u_ : State}

theorem report_only (r : Report) {s : State} (kfaults : Part.faults ∈ l_) (h_ : OnlyChanges l_ u_ s) : OnlyChanges l_ u_ (report r s) := by
  unfold report
  try dsimp only
  repeat' first | with_reducible assumption | with_reducible refine OnlyChanges.foldl ?_ (fun _ _ _ => ?_) | with_reducible apply OnlyChanges.ite | split | (with_reducible apply OnlyChanges.upd <;> first | exact fun q => absurd (by assumption) q | with_reducible exact fun _ => rfl | skip)
  all_goals first | exact fun _ => rfl | skip

theorem reportFrom_only (cls : Byte) (key i cycle : Nat) (scope : Nat) (outlets : BitVec 8) (reaction : Nat) {s : State} (kfaults : Part.faults ∈ l_) (h_ : OnlyChanges l_ u_ s) : OnlyChanges l_ u_ (reportFrom cls key i cycle scope outlets reaction s) := by
  unfold reportFrom
  try dsimp only
  repeat' first | with_reducible assumption | with_reducible apply report_only | with_reducible refine OnlyChanges.foldl ?_ (fun _ _ _ => ?_) | with_reducible apply OnlyChanges.ite | split | (with_reducible apply OnlyChanges.upd <;> first | exact fun q => absurd (by assumption) q | with_reducible exact fun _ => rfl | skip)
  all_goals first | exact fun _ => rfl | skip

theorem cellReport_only (cls : Byte) (i cycle : Nat) (scope : Nat) (outlets : BitVec 8) (reaction : Nat) {s : State} (kfaults : Part.faults ∈ l_) (h_ : OnlyChanges l_ u_ s) : OnlyChanges l_ u_ (cellReport cls i cycle scope outlets reaction s) := by
  unfold cellReport
  try dsimp only
  repeat' first | with_reducible assumption | with_reducible apply reportFrom_only | with_reducible refine OnlyChanges.foldl ?_ (fun _ _ _ => ?_) | with_reducible apply OnlyChanges.ite | split | (with_reducible apply OnlyChanges.upd <;> first | exact fun q => absurd (by assumption) q | with_reducible exact fun _ => rfl | skip)
  all_goals first | exact fun _ => rfl | skip

theorem closeChip_only (cut : Bool) (w : Merge) {s : State} (kport : Part.port ∈ l_) (kfaults : Part.faults ∈ l_) (kstore : Part.store ∈ l_) (h_ : OnlyChanges l_ u_ s) : OnlyChanges l_ u_ (closeChip cut w s) := by
  unfold closeChip
  try dsimp only
  repeat' first | with_reducible assumption | with_reducible apply event_only | with_reducible apply journalApp_only | with_reducible refine OnlyChanges.foldl ?_ (fun _ _ _ => ?_) | with_reducible apply OnlyChanges.ite | split | (with_reducible apply OnlyChanges.upd <;> first | exact fun q => absurd (by assumption) q | with_reducible exact fun _ => rfl | skip)
  all_goals first | exact fun _ => rfl | skip

theorem closeAll_only  {s : State} (kport : Part.port ∈ l_) (kfaults : Part.faults ∈ l_) (kstore : Part.store ∈ l_) (h_ : OnlyChanges l_ u_ s) : OnlyChanges l_ u_ (closeAll s) := by
  unfold closeAll
  try dsimp only
  repeat' first | with_reducible assumption | with_reducible apply closeChip_only | with_reducible refine OnlyChanges.foldl ?_ (fun _ _ _ => ?_) | with_reducible apply OnlyChanges.ite | split | (with_reducible apply OnlyChanges.upd <;> first | exact fun q => absurd (by assumption) q | with_reducible exact fun _ => rfl | skip)
  all_goals first | exact fun _ => rfl | skip

end Sys2Proof.Machine
end

