-- ==== Sys2Proof/Laws/OnlyContactless.lean ====
section
/-!
SUPPORT. The frames of the operations of Machine/Contactless.lean (OnlyChanges, for every list that holds the parts they touch).
-/

namespace Sys2Proof.Machine

set_option linter.all false

open Sys2Proof.Safety

variable {l_ : List Part} {u_ : State}

theorem fieldOff_only (st : Nat) {s : State} (kease : Part.ease ∈ l_) (krdr : Part.rdr ∈ l_) (h_ : OnlyChanges l_ u_ s) : OnlyChanges l_ u_ (fieldOff st s) := by
  unfold fieldOff
  try dsimp only
  repeat' first | with_reducible assumption | with_reducible apply releaseOpt_only | with_reducible refine OnlyChanges.foldl ?_ (fun _ _ _ => ?_) | with_reducible apply OnlyChanges.ite | split | (with_reducible apply OnlyChanges.upd <;> first | exact fun q => absurd (by assumption) q | with_reducible exact fun _ => rfl | skip)
  all_goals first | exact fun _ => rfl | skip

theorem apduDone_only (result : Nat) (response : List Byte) {s : State} (kport : Part.port ∈ l_) (krdr : Part.rdr ∈ l_) (kstore : Part.store ∈ l_) (h_ : OnlyChanges l_ u_ s) : OnlyChanges l_ u_ (apduDone result response s) := by
  unfold apduDone
  try dsimp only
  repeat' first | with_reducible assumption | with_reducible apply emit_only | with_reducible refine OnlyChanges.foldl ?_ (fun _ _ _ => ?_) | with_reducible apply OnlyChanges.ite | split | (with_reducible apply OnlyChanges.upd <;> first | exact fun q => absurd (by assumption) q | with_reducible exact fun _ => rfl | skip)
  all_goals first | exact fun _ => rfl | skip

theorem readerStop_only (st : Nat) {s : State} (kport : Part.port ∈ l_) (kease : Part.ease ∈ l_) (krdr : Part.rdr ∈ l_) (kstore : Part.store ∈ l_) (h_ : OnlyChanges l_ u_ s) : OnlyChanges l_ u_ (readerStop st s) := by
  unfold readerStop
  try dsimp only
  repeat' first | with_reducible assumption | with_reducible apply apduDone_only | with_reducible apply fieldOff_only | with_reducible refine OnlyChanges.foldl ?_ (fun _ _ _ => ?_) | with_reducible apply OnlyChanges.ite | split | (with_reducible apply OnlyChanges.upd <;> first | exact fun q => absurd (by assumption) q | with_reducible exact fun _ => rfl | skip)
  all_goals first | exact fun _ => rfl | skip

theorem requestField_only  {s : State} (kease : Part.ease ∈ l_) (krdr : Part.rdr ∈ l_) (h_ : OnlyChanges l_ u_ s) : OnlyChanges l_ u_ (requestField s) := by
  unfold requestField
  try dsimp only
  repeat' first | with_reducible assumption | with_reducible apply submit_only | with_reducible apply releaseOpt_only | with_reducible refine OnlyChanges.foldl ?_ (fun _ _ _ => ?_) | with_reducible apply OnlyChanges.ite | split | (with_reducible apply OnlyChanges.upd <;> first | exact fun q => absurd (by assumption) q | with_reducible exact fun _ => rfl | skip)
  all_goals first | exact fun _ => rfl | skip

theorem fieldGranted_only (id : Nat) {s : State} (kease : Part.ease ∈ l_) (krdr : Part.rdr ∈ l_) (h_ : OnlyChanges l_ u_ s) : OnlyChanges l_ u_ (fieldGranted id s) := by
  unfold fieldGranted
  try dsimp only
  repeat' first | with_reducible assumption | with_reducible apply beginOp_only | with_reducible refine OnlyChanges.foldl ?_ (fun _ _ _ => ?_) | with_reducible apply OnlyChanges.ite | split | (with_reducible apply OnlyChanges.upd <;> first | exact fun q => absurd (by assumption) q | with_reducible exact fun _ => rfl | skip)
  all_goals first | exact fun _ => rfl | skip

theorem fieldRefused_only (id : Nat) {s : State} (kport : Part.port ∈ l_) (kease : Part.ease ∈ l_) (krdr : Part.rdr ∈ l_) (kstore : Part.store ∈ l_) (h_ : OnlyChanges l_ u_ s) : OnlyChanges l_ u_ (fieldRefused id s) := by
  unfold fieldRefused
  try dsimp only
  repeat' first | with_reducible assumption | with_reducible apply readerStop_only | with_reducible refine OnlyChanges.foldl ?_ (fun _ _ _ => ?_) | with_reducible apply OnlyChanges.ite | split | (with_reducible apply OnlyChanges.upd <;> first | exact fun q => absurd (by assumption) q | with_reducible exact fun _ => rfl | skip)
  all_goals first | exact fun _ => rfl | skip

theorem antennaCheck_only (mv : Nat) {s : State} (kport : Part.port ∈ l_) (krdr : Part.rdr ∈ l_) (kstore : Part.store ∈ l_) (h_ : OnlyChanges l_ u_ s) : OnlyChanges l_ u_ (antennaCheck mv s) := by
  unfold antennaCheck
  try dsimp only
  repeat' first | with_reducible assumption | with_reducible apply event_only | with_reducible refine OnlyChanges.foldl ?_ (fun _ _ _ => ?_) | with_reducible apply OnlyChanges.ite | split | (with_reducible apply OnlyChanges.upd <;> first | exact fun q => absurd (by assumption) q | with_reducible exact fun _ => rfl | skip)
  all_goals first | exact fun _ => rfl | skip

theorem cardPresented_only (c : Cred) {s : State} (kport : Part.port ∈ l_) (kstore : Part.store ∈ l_) (h_ : OnlyChanges l_ u_ s) : OnlyChanges l_ u_ (cardPresented c s) := by
  unfold cardPresented
  try dsimp only
  repeat' first | with_reducible assumption | with_reducible apply event_only | with_reducible refine OnlyChanges.foldl ?_ (fun _ _ _ => ?_) | with_reducible apply OnlyChanges.ite | split | (with_reducible apply OnlyChanges.upd <;> first | exact fun q => absurd (by assumption) q | with_reducible exact fun _ => rfl | skip)
  all_goals first | exact fun _ => rfl | skip

theorem cardRemoved_only (c : Cred) {s : State} (kport : Part.port ∈ l_) (kstore : Part.store ∈ l_) (h_ : OnlyChanges l_ u_ s) : OnlyChanges l_ u_ (cardRemoved c s) := by
  unfold cardRemoved
  try dsimp only
  repeat' first | with_reducible assumption | with_reducible apply event_only | with_reducible refine OnlyChanges.foldl ?_ (fun _ _ _ => ?_) | with_reducible apply OnlyChanges.ite | split | (with_reducible apply OnlyChanges.upd <;> first | exact fun q => absurd (by assumption) q | with_reducible exact fun _ => rfl | skip)
  all_goals first | exact fun _ => rfl | skip

theorem roundRemovals_only (found : List Cred) {s : State} (kport : Part.port ∈ l_) (krdr : Part.rdr ∈ l_) (kstore : Part.store ∈ l_) (h_ : OnlyChanges l_ u_ s) : OnlyChanges l_ u_ (roundRemovals found s) := by
  unfold roundRemovals
  try dsimp only
  repeat' first | with_reducible assumption | with_reducible apply cardRemoved_only | with_reducible refine OnlyChanges.foldl ?_ (fun _ _ _ => ?_) | with_reducible apply OnlyChanges.ite | split | (with_reducible apply OnlyChanges.upd <;> first | exact fun q => absurd (by assumption) q | with_reducible exact fun _ => rfl | skip)
  all_goals first | exact fun _ => rfl | skip

theorem cardApduCmd_only (h : Hdr) (p : List Byte) {s : State} (krdr : Part.rdr ∈ l_) (h_ : OnlyChanges l_ u_ s) : OnlyChanges l_ u_ (cardApduCmd h p s).run.st := by
  unfold cardApduCmd
  try dsimp only
  repeat' first | with_reducible assumption | with_reducible refine OnlyChanges.foldl ?_ (fun _ _ _ => ?_) | with_reducible apply OnlyChanges.ite | split | (with_reducible apply OnlyChanges.upd <;> first | exact fun q => absurd (by assumption) q | with_reducible exact fun _ => rfl | skip)
  all_goals first | exact fun _ => rfl | skip

theorem readerFrame_only  {s : State} (kport : Part.port ∈ l_) (kease : Part.ease ∈ l_) (krdr : Part.rdr ∈ l_) (kstore : Part.store ∈ l_) (h_ : OnlyChanges l_ u_ s) : OnlyChanges l_ u_ (readerFrame s) := by
  unfold readerFrame
  try dsimp only
  repeat' first | with_reducible assumption | with_reducible apply readerStop_only | with_reducible apply fieldOff_only | with_reducible refine OnlyChanges.foldl ?_ (fun _ _ _ => ?_) | with_reducible apply OnlyChanges.ite | split | (with_reducible apply OnlyChanges.upd <;> first | exact fun q => absurd (by assumption) q | with_reducible exact fun _ => rfl | skip)
  all_goals first | exact fun _ => rfl | skip

theorem tagAnswer_only (data : List Byte) (sw1 sw2 : Byte) {s : State} (ktag : Part.tag ∈ l_) (h_ : OnlyChanges l_ u_ s) : OnlyChanges l_ u_ (tagAnswer data sw1 sw2 s) := by
  unfold tagAnswer
  try dsimp only
  repeat' first | with_reducible assumption | with_reducible refine OnlyChanges.foldl ?_ (fun _ _ _ => ?_) | with_reducible apply OnlyChanges.ite | split | (with_reducible apply OnlyChanges.upd <;> first | exact fun q => absurd (by assumption) q | with_reducible exact fun _ => rfl | skip)
  all_goals first | exact fun _ => rfl | skip

theorem appendSteps_only (k : Nat) (data : List Byte) (lastStep : Nat) {s : State} (ktag : Part.tag ∈ l_) (h_ : OnlyChanges l_ u_ s) : OnlyChanges l_ u_ (appendSteps k data lastStep s) := by
  unfold appendSteps
  try dsimp only
  repeat' first | with_reducible assumption | with_reducible apply putStore_only | with_reducible refine OnlyChanges.foldl ?_ (fun _ _ _ => ?_) | with_reducible apply OnlyChanges.ite | split | (with_reducible apply OnlyChanges.upd <;> first | exact fun q => absurd (by assumption) q | with_reducible exact fun _ => rfl | skip)
  all_goals first | exact fun _ => rfl | skip

theorem requestImport_only  {s : State} (kease : Part.ease ∈ l_) (ktag : Part.tag ∈ l_) (h_ : OnlyChanges l_ u_ s) : OnlyChanges l_ u_ (requestImport s) := by
  unfold requestImport
  try dsimp only
  repeat' first | with_reducible assumption | with_reducible apply submit_only | with_reducible refine OnlyChanges.foldl ?_ (fun _ _ _ => ?_) | with_reducible apply OnlyChanges.ite | split | (with_reducible apply OnlyChanges.upd <;> first | exact fun q => absurd (by assumption) q | with_reducible exact fun _ => rfl | skip)
  all_goals first | exact fun _ => rfl | skip

theorem importGranted_only (id : Nat) {s : State} (kport : Part.port ∈ l_) (kease : Part.ease ∈ l_) (ktag : Part.tag ∈ l_) (kstore : Part.store ∈ l_) (h_ : OnlyChanges l_ u_ s) : OnlyChanges l_ u_ (importGranted id s) := by
  unfold importGranted
  try dsimp only
  repeat' first | with_reducible assumption | with_reducible apply release_only | with_reducible apply putStore_only | with_reducible apply requestImport_only | with_reducible apply event_only | with_reducible refine OnlyChanges.foldl ?_ (fun _ _ _ => ?_) | with_reducible apply OnlyChanges.ite | split | (with_reducible apply OnlyChanges.upd <;> first | exact fun q => absurd (by assumption) q | with_reducible exact fun _ => rfl | skip)
  all_goals first | exact fun _ => rfl | skip

theorem importRefused_only (id : Nat) {s : State} (ktag : Part.tag ∈ l_) (h_ : OnlyChanges l_ u_ s) : OnlyChanges l_ u_ (importRefused id s) := by
  unfold importRefused
  try dsimp only
  repeat' first | with_reducible assumption | with_reducible refine OnlyChanges.foldl ?_ (fun _ _ _ => ?_) | with_reducible apply OnlyChanges.ite | split | (with_reducible apply OnlyChanges.upd <;> first | exact fun q => absurd (by assumption) q | with_reducible exact fun _ => rfl | skip)
  all_goals first | exact fun _ => rfl | skip

theorem writeTotals_only  {s : State} (ktag : Part.tag ∈ l_) (h_ : OnlyChanges l_ u_ s) : OnlyChanges l_ u_ (writeTotals s) := by
  unfold writeTotals
  try dsimp only
  repeat' first | with_reducible assumption | with_reducible apply putStore_only | with_reducible refine OnlyChanges.foldl ?_ (fun _ _ _ => ?_) | with_reducible apply OnlyChanges.ite | split | (with_reducible apply OnlyChanges.upd <;> first | exact fun q => absurd (by assumption) q | with_reducible exact fun _ => rfl | skip)
  all_goals first | exact fun _ => rfl | skip

theorem witnessSync_only  {s : State} (ktag : Part.tag ∈ l_) (h_ : OnlyChanges l_ u_ s) : OnlyChanges l_ u_ (witnessSync s) := by
  unfold witnessSync
  try dsimp only
  repeat' first | with_reducible assumption | with_reducible apply putStore_only | with_reducible refine OnlyChanges.foldl ?_ (fun _ _ _ => ?_) | with_reducible apply OnlyChanges.ite | split | (with_reducible apply OnlyChanges.upd <;> first | exact fun q => absurd (by assumption) q | with_reducible exact fun _ => rfl | skip)
  all_goals first | exact fun _ => rfl | skip

end Sys2Proof.Machine
end

