-- ==== Sys2Proof/Laws/OnlyDisplay.lean ====
section
/-!
SUPPORT. The frames of the operations of Machine/Display.lean (OnlyChanges, for every list that holds the parts they touch).
-/

namespace Sys2Proof.Machine

set_option linter.all false

open Sys2Proof.Safety

variable {l_ : List Part} {u_ : State}

theorem displayDone_only (r : Rect) (result : Nat) {s : State} (kport : Part.port ∈ l_) (kstore : Part.store ∈ l_) (h_ : OnlyChanges l_ u_ s) : OnlyChanges l_ u_ (displayDone r result s) := by
  unfold displayDone
  try dsimp only
  repeat' first | with_reducible assumption | with_reducible apply emit_only | with_reducible refine OnlyChanges.foldl ?_ (fun _ _ _ => ?_) | with_reducible apply OnlyChanges.ite | split | (with_reducible apply OnlyChanges.upd <;> first | exact fun q => absurd (by assumption) q | with_reducible exact fun _ => rfl | skip)
  all_goals first | exact fun _ => rfl | skip

theorem displayFault_only (kind : Nat) (detail : Int) {s : State} (kport : Part.port ∈ l_) (kstore : Part.store ∈ l_) (h_ : OnlyChanges l_ u_ s) : OnlyChanges l_ u_ (displayFault kind detail s) := by
  unfold displayFault
  try dsimp only
  repeat' first | with_reducible assumption | with_reducible apply event_only | with_reducible refine OnlyChanges.foldl ?_ (fun _ _ _ => ?_) | with_reducible apply OnlyChanges.ite | split | (with_reducible apply OnlyChanges.upd <;> first | exact fun q => absurd (by assumption) q | with_reducible exact fun _ => rfl | skip)
  all_goals first | exact fun _ => rfl | skip

theorem lightEvent_only (on ack : Bool) {s : State} (kport : Part.port ∈ l_) (kstore : Part.store ∈ l_) (h_ : OnlyChanges l_ u_ s) : OnlyChanges l_ u_ (lightEvent on ack s) := by
  unfold lightEvent
  try dsimp only
  repeat' first | with_reducible assumption | with_reducible apply emit_only | with_reducible refine OnlyChanges.foldl ?_ (fun _ _ _ => ?_) | with_reducible apply OnlyChanges.ite | split | (with_reducible apply OnlyChanges.upd <;> first | exact fun q => absurd (by assumption) q | with_reducible exact fun _ => rfl | skip)
  all_goals first | exact fun _ => rfl | skip

theorem updDisp_only (f : Display → Display) {s : State} (kdisp : Part.disp ∈ l_) (h_ : OnlyChanges l_ u_ s) : OnlyChanges l_ u_ (updDisp f s) := by
  unfold updDisp
  try dsimp only
  repeat' first | with_reducible assumption | with_reducible refine OnlyChanges.foldl ?_ (fun _ _ _ => ?_) | with_reducible apply OnlyChanges.ite | split | (with_reducible apply OnlyChanges.upd <;> first | exact fun q => absurd (by assumption) q | with_reducible exact fun _ => rfl | skip)
  all_goals first | exact fun _ => rfl | skip

theorem updQueue_only (i : Nat) (f : Rect → Rect) {s : State} (kdisp : Part.disp ∈ l_) (h_ : OnlyChanges l_ u_ s) : OnlyChanges l_ u_ (updQueue i f s) := by
  unfold updQueue
  try dsimp only
  repeat' first | with_reducible assumption | with_reducible apply updDisp_only | with_reducible refine OnlyChanges.foldl ?_ (fun _ _ _ => ?_) | with_reducible apply OnlyChanges.ite | split | (with_reducible apply OnlyChanges.upd <;> first | exact fun q => absurd (by assumption) q | with_reducible exact fun _ => rfl | skip)
  all_goals first | exact fun _ => rfl | skip

theorem askRect_only (i : Nat) (r : Rect) {s : State} (kease : Part.ease ∈ l_) (kdisp : Part.disp ∈ l_) (h_ : OnlyChanges l_ u_ s) : OnlyChanges l_ u_ (askRect i r s) := by
  unfold askRect
  try dsimp only
  repeat' first | with_reducible assumption | with_reducible apply updQueue_only | with_reducible apply submit_only | with_reducible refine OnlyChanges.foldl ?_ (fun _ _ _ => ?_) | with_reducible apply OnlyChanges.ite | split | (with_reducible apply OnlyChanges.upd <;> first | exact fun q => absurd (by assumption) q | with_reducible exact fun _ => rfl | skip)
  all_goals first | exact fun _ => rfl | skip

theorem serveQueue_only  {s : State} (kease : Part.ease ∈ l_) (kdisp : Part.disp ∈ l_) (h_ : OnlyChanges l_ u_ s) : OnlyChanges l_ u_ (serveQueue s) := by
  unfold serveQueue
  try dsimp only
  repeat' first | with_reducible assumption | with_reducible apply askRect_only | with_reducible refine OnlyChanges.foldl ?_ (fun _ _ _ => ?_) | with_reducible apply OnlyChanges.ite | split | (with_reducible apply OnlyChanges.upd <;> first | exact fun q => absurd (by assumption) q | with_reducible exact fun _ => rfl | skip)
  all_goals first | exact fun _ => rfl | skip

theorem queueTail_only (r : Rect) {s : State} (kease : Part.ease ∈ l_) (kdisp : Part.disp ∈ l_) (h_ : OnlyChanges l_ u_ s) : OnlyChanges l_ u_ (queueTail r s) := by
  unfold queueTail
  try dsimp only
  repeat' first | with_reducible assumption | with_reducible apply serveQueue_only | with_reducible apply updDisp_only | with_reducible refine OnlyChanges.foldl ?_ (fun _ _ _ => ?_) | with_reducible apply OnlyChanges.ite | split | (with_reducible apply OnlyChanges.upd <;> first | exact fun q => absurd (by assumption) q | with_reducible exact fun _ => rfl | skip)
  all_goals first | exact fun _ => rfl | skip

theorem queueHead_only (r : Rect) {s : State} (kease : Part.ease ∈ l_) (kdisp : Part.disp ∈ l_) (h_ : OnlyChanges l_ u_ s) : OnlyChanges l_ u_ (queueHead r s) := by
  unfold queueHead
  try dsimp only
  repeat' first | with_reducible assumption | with_reducible apply serveQueue_only | with_reducible apply updDisp_only | with_reducible refine OnlyChanges.foldl ?_ (fun _ _ _ => ?_) | with_reducible apply OnlyChanges.ite | split | (with_reducible apply OnlyChanges.upd <;> first | exact fun q => absurd (by assumption) q | with_reducible exact fun _ => rfl | skip)
  all_goals first | exact fun _ => rfl | skip

theorem queueAreas_only (as : List Area) (kind : Nat) (totals : Bool) {s : State} (kease : Part.ease ∈ l_) (kdisp : Part.disp ∈ l_) (h_ : OnlyChanges l_ u_ s) : OnlyChanges l_ u_ (queueAreas as kind totals s) := by
  unfold queueAreas
  try dsimp only
  repeat' first | with_reducible assumption | with_reducible apply queueTail_only | with_reducible refine OnlyChanges.foldl ?_ (fun _ _ _ => ?_) | with_reducible apply OnlyChanges.ite | split | (with_reducible apply OnlyChanges.upd <;> first | exact fun q => absurd (by assumption) q | with_reducible exact fun _ => rfl | skip)
  all_goals first | exact fun _ => rfl | skip

theorem requestPrice_only  {s : State} (kease : Part.ease ∈ l_) (kdisp : Part.disp ∈ l_) (h_ : OnlyChanges l_ u_ s) : OnlyChanges l_ u_ (requestPrice s) := by
  unfold requestPrice
  try dsimp only
  repeat' first | with_reducible assumption | with_reducible apply releaseOpt_only | with_reducible apply updDisp_only | with_reducible apply queueHead_only | with_reducible refine OnlyChanges.foldl ?_ (fun _ _ _ => ?_) | with_reducible apply OnlyChanges.ite | split | (with_reducible apply OnlyChanges.upd <;> first | exact fun q => absurd (by assumption) q | with_reducible exact fun _ => rfl | skip)
  all_goals first | exact fun _ => rfl | skip

theorem followPrice_only  {s : State} (kease : Part.ease ∈ l_) (kdisp : Part.disp ∈ l_) (h_ : OnlyChanges l_ u_ s) : OnlyChanges l_ u_ (followPrice s) := by
  unfold followPrice
  try dsimp only
  repeat' first | with_reducible assumption | with_reducible apply requestPrice_only | with_reducible refine OnlyChanges.foldl ?_ (fun _ _ _ => ?_) | with_reducible apply OnlyChanges.ite | split | (with_reducible apply OnlyChanges.upd <;> first | exact fun q => absurd (by assumption) q | with_reducible exact fun _ => rfl | skip)
  all_goals first | exact fun _ => rfl | skip

theorem priceInterrupted_only  {s : State} (kport : Part.port ∈ l_) (kbilling : Part.billing ∈ l_) (kdisp : Part.disp ∈ l_) (kstore : Part.store ∈ l_) (h_ : OnlyChanges l_ u_ s) : OnlyChanges l_ u_ (priceInterrupted s) := by
  unfold priceInterrupted
  try dsimp only
  repeat' first | with_reducible assumption | with_reducible apply priceCheck_only | with_reducible apply journalApp_only | with_reducible refine OnlyChanges.foldl ?_ (fun _ _ _ => ?_) | with_reducible apply OnlyChanges.ite | split | (with_reducible apply OnlyChanges.upd <;> first | exact fun q => absurd (by assumption) q | with_reducible exact fun _ => rfl | skip)
  all_goals first | exact fun _ => rfl | skip

theorem abandonAll_only (result : Nat) (queuedToo : Bool) {s : State} (kport : Part.port ∈ l_) (kease : Part.ease ∈ l_) (kbilling : Part.billing ∈ l_) (kdisp : Part.disp ∈ l_) (kstore : Part.store ∈ l_) (h_ : OnlyChanges l_ u_ s) : OnlyChanges l_ u_ (abandonAll result queuedToo s) := by
  unfold abandonAll
  try dsimp only
  repeat' first | with_reducible assumption | with_reducible apply releaseOpt_only | with_reducible apply updDisp_only | with_reducible apply displayDone_only | with_reducible apply priceInterrupted_only | with_reducible refine OnlyChanges.foldl ?_ (fun _ _ _ => ?_) | with_reducible apply OnlyChanges.ite | split | (with_reducible apply OnlyChanges.upd <;> first | exact fun q => absurd (by assumption) q | with_reducible exact fun _ => rfl | skip)
  all_goals first | exact fun _ => rfl | skip

theorem startRails_only  {s : State} (kdisp : Part.disp ∈ l_) (h_ : OnlyChanges l_ u_ s) : OnlyChanges l_ u_ (startRails s) := by
  unfold startRails
  try dsimp only
  repeat' first | with_reducible assumption | with_reducible apply updDisp_only | with_reducible refine OnlyChanges.foldl ?_ (fun _ _ _ => ?_) | with_reducible apply OnlyChanges.ite | split | (with_reducible apply OnlyChanges.upd <;> first | exact fun q => absurd (by assumption) q | with_reducible exact fun _ => rfl | skip)
  all_goals first | exact fun _ => rfl | skip

theorem lowerRails_only  {s : State} (kdisp : Part.disp ∈ l_) (h_ : OnlyChanges l_ u_ s) : OnlyChanges l_ u_ (lowerRails s) := by
  unfold lowerRails
  try dsimp only
  repeat' first | with_reducible assumption | with_reducible apply updDisp_only | with_reducible refine OnlyChanges.foldl ?_ (fun _ _ _ => ?_) | with_reducible apply OnlyChanges.ite | split | (with_reducible apply OnlyChanges.upd <;> first | exact fun q => absurd (by assumption) q | with_reducible exact fun _ => rfl | skip)
  all_goals first | exact fun _ => rfl | skip

theorem displayGranted_only (id : Nat) {s : State} (kease : Part.ease ∈ l_) (kdisp : Part.disp ∈ l_) (h_ : OnlyChanges l_ u_ s) : OnlyChanges l_ u_ (displayGranted id s) := by
  unfold displayGranted
  try dsimp only
  repeat' first | with_reducible assumption | with_reducible apply beginOp_only | with_reducible apply startRails_only | with_reducible apply updDisp_only | with_reducible apply release_only | with_reducible refine OnlyChanges.foldl ?_ (fun _ _ _ => ?_) | with_reducible apply OnlyChanges.ite | split | (with_reducible apply OnlyChanges.upd <;> first | exact fun q => absurd (by assumption) q | with_reducible exact fun _ => rfl | skip)
  all_goals first | exact fun _ => rfl | skip

theorem displayRefused_only (id : Nat) {s : State} (kdisp : Part.disp ∈ l_) (h_ : OnlyChanges l_ u_ s) : OnlyChanges l_ u_ (displayRefused id s) := by
  unfold displayRefused
  try dsimp only
  repeat' first | with_reducible assumption | with_reducible apply updDisp_only | with_reducible refine OnlyChanges.foldl ?_ (fun _ _ _ => ?_) | with_reducible apply OnlyChanges.ite | split | (with_reducible apply OnlyChanges.upd <;> first | exact fun q => absurd (by assumption) q | with_reducible exact fun _ => rfl | skip)
  all_goals first | exact fun _ => rfl | skip

theorem panelTemp_only (t : Int) {s : State} (kport : Part.port ∈ l_) (kdisp : Part.disp ∈ l_) (kstore : Part.store ∈ l_) (h_ : OnlyChanges l_ u_ s) : OnlyChanges l_ u_ (panelTemp t s) := by
  unfold panelTemp
  try dsimp only
  repeat' first | with_reducible assumption | with_reducible apply updDisp_only | with_reducible apply displayFault_only | with_reducible refine OnlyChanges.foldl ?_ (fun _ _ _ => ?_) | with_reducible apply OnlyChanges.ite | split | (with_reducible apply OnlyChanges.upd <;> first | exact fun q => absurd (by assumption) q | with_reducible exact fun _ => rfl | skip)
  all_goals first | exact fun _ => rfl | skip

theorem joinRect_only (i : Nat) (r : Rect) {s : State} (kdisp : Part.disp ∈ l_) (h_ : OnlyChanges l_ u_ s) : OnlyChanges l_ u_ (joinRect i r s) := by
  unfold joinRect
  try dsimp only
  repeat' first | with_reducible assumption | with_reducible apply updDisp_only | with_reducible refine OnlyChanges.foldl ?_ (fun _ _ _ => ?_) | with_reducible apply OnlyChanges.ite | split | (with_reducible apply OnlyChanges.upd <;> first | exact fun q => absurd (by assumption) q | with_reducible exact fun _ => rfl | skip)
  all_goals first | exact fun _ => rfl | skip

theorem outOfBand_only (i : Nat) (r : Rect) {s : State} (kport : Part.port ∈ l_) (kease : Part.ease ∈ l_) (kdisp : Part.disp ∈ l_) (kstore : Part.store ∈ l_) (h_ : OnlyChanges l_ u_ s) : OnlyChanges l_ u_ (outOfBand i r s) := by
  unfold outOfBand
  try dsimp only
  repeat' first | with_reducible assumption | with_reducible apply releaseOpt_only | with_reducible apply updQueue_only | with_reducible apply displayFault_only | with_reducible apply updDisp_only | with_reducible refine OnlyChanges.foldl ?_ (fun _ _ _ => ?_) | with_reducible apply OnlyChanges.ite | split | (with_reducible apply OnlyChanges.upd <;> first | exact fun q => absurd (by assumption) q | with_reducible exact fun _ => rfl | skip)
  all_goals first | exact fun _ => rfl | skip

theorem joinFrom_only (k i : Nat) {s : State} (kport : Part.port ∈ l_) (kease : Part.ease ∈ l_) (kdisp : Part.disp ∈ l_) (kstore : Part.store ∈ l_) (h_ : OnlyChanges l_ u_ s) : OnlyChanges l_ u_ (joinFrom k i s) := by
  induction k generalizing i s with
  | zero => exact h_
  | succ k ih =>
    unfold joinFrom
    try dsimp only
    repeat' first | with_reducible assumption | with_reducible apply outOfBand_only | with_reducible apply joinRect_only | with_reducible apply ih | with_reducible refine OnlyChanges.foldl ?_ (fun _ _ _ => ?_) | with_reducible apply OnlyChanges.ite | split | (with_reducible apply OnlyChanges.upd <;> first | exact fun q => absurd (by assumption) q | with_reducible exact fun _ => rfl | skip)
    all_goals first | exact fun _ => rfl | skip

theorem serveLight_only  {s : State} (kport : Part.port ∈ l_) (kdisp : Part.disp ∈ l_) (kstore : Part.store ∈ l_) (h_ : OnlyChanges l_ u_ s) : OnlyChanges l_ u_ (serveLight s) := by
  unfold serveLight
  try dsimp only
  repeat' first | with_reducible assumption | with_reducible apply lightEvent_only | with_reducible apply updDisp_only | with_reducible refine OnlyChanges.foldl ?_ (fun _ _ _ => ?_) | with_reducible apply OnlyChanges.ite | split | (with_reducible apply OnlyChanges.upd <;> first | exact fun q => absurd (by assumption) q | with_reducible exact fun _ => rfl | skip)
  all_goals first | exact fun _ => rfl | skip

theorem crackFound_only (ohm10 : Nat) {s : State} (kport : Part.port ∈ l_) (kease : Part.ease ∈ l_) (kbilling : Part.billing ∈ l_) (kdisp : Part.disp ∈ l_) (kstore : Part.store ∈ l_) (h_ : OnlyChanges l_ u_ s) : OnlyChanges l_ u_ (crackFound ohm10 s) := by
  unfold crackFound
  try dsimp only
  repeat' first | with_reducible assumption | with_reducible apply lowerRails_only | with_reducible apply abandonAll_only | with_reducible apply displayFault_only | with_reducible apply updDisp_only | with_reducible apply priceCheck_only | with_reducible refine OnlyChanges.foldl ?_ (fun _ _ _ => ?_) | with_reducible apply OnlyChanges.ite | split | (with_reducible apply OnlyChanges.upd <;> first | exact fun q => absurd (by assumption) q | with_reducible exact fun _ => rfl | skip)
  all_goals first | exact fun _ => rfl | skip

theorem queueAon_only  {s : State} (kease : Part.ease ∈ l_) (kdisp : Part.disp ∈ l_) (h_ : OnlyChanges l_ u_ s) : OnlyChanges l_ u_ (queueAon s) := by
  unfold queueAon
  try dsimp only
  repeat' first | with_reducible assumption | with_reducible apply queueAreas_only | with_reducible refine OnlyChanges.foldl ?_ (fun _ _ _ => ?_) | with_reducible apply OnlyChanges.ite | split | (with_reducible apply OnlyChanges.upd <;> first | exact fun q => absurd (by assumption) q | with_reducible exact fun _ => rfl | skip)
  all_goals first | exact fun _ => rfl | skip

theorem drawTotals_only  {s : State} (kease : Part.ease ∈ l_) (kdisp : Part.disp ∈ l_) (h_ : OnlyChanges l_ u_ s) : OnlyChanges l_ u_ (drawTotals s) := by
  unfold drawTotals
  try dsimp only
  repeat' first | with_reducible assumption | with_reducible apply queueAreas_only | with_reducible apply updDisp_only | with_reducible refine OnlyChanges.foldl ?_ (fun _ _ _ => ?_) | with_reducible apply OnlyChanges.ite | split | (with_reducible apply OnlyChanges.upd <;> first | exact fun q => absurd (by assumption) q | with_reducible exact fun _ => rfl | skip)
  all_goals first | exact fun _ => rfl | skip

theorem displayBenchmarkEntry_only  {s : State} (kease : Part.ease ∈ l_) (kdisp : Part.disp ∈ l_) (h_ : OnlyChanges l_ u_ s) : OnlyChanges l_ u_ (displayBenchmarkEntry s) := by
  unfold displayBenchmarkEntry
  try dsimp only
  repeat' first | with_reducible assumption | with_reducible apply requestPrice_only | with_reducible apply drawTotals_only | with_reducible refine OnlyChanges.foldl ?_ (fun _ _ _ => ?_) | with_reducible apply OnlyChanges.ite | split | (with_reducible apply OnlyChanges.upd <;> first | exact fun q => absurd (by assumption) q | with_reducible exact fun _ => rfl | skip)
  all_goals first | exact fun _ => rfl | skip

theorem displayBenchmarkExit_only  {s : State} (kease : Part.ease ∈ l_) (kdisp : Part.disp ∈ l_) (h_ : OnlyChanges l_ u_ s) : OnlyChanges l_ u_ (displayBenchmarkExit s) := by
  unfold displayBenchmarkExit
  try dsimp only
  repeat' first | with_reducible assumption | with_reducible apply requestPrice_only | with_reducible apply queueAreas_only | with_reducible refine OnlyChanges.foldl ?_ (fun _ _ _ => ?_) | with_reducible apply OnlyChanges.ite | split | (with_reducible apply OnlyChanges.upd <;> first | exact fun q => absurd (by assumption) q | with_reducible exact fun _ => rfl | skip)
  all_goals first | exact fun _ => rfl | skip

theorem displayWriteCmd_only (p : List Byte) {s : State} (kease : Part.ease ∈ l_) (kdisp : Part.disp ∈ l_) (h_ : OnlyChanges l_ u_ s) : OnlyChanges l_ u_ (displayWriteCmd p s).run.st := by
  unfold displayWriteCmd
  try dsimp only
  repeat' first | with_reducible assumption | with_reducible apply updDisp_only | with_reducible apply queueAon_only | with_reducible refine OnlyChanges.foldl ?_ (fun _ _ _ => ?_) | with_reducible apply OnlyChanges.ite | split | (with_reducible apply OnlyChanges.upd <;> first | exact fun q => absurd (by assumption) q | with_reducible exact fun _ => rfl | skip)
  all_goals first | exact fun _ => rfl | skip

theorem displayUpdateCmd_only (h : Hdr) (p : List Byte) {s : State} (kease : Part.ease ∈ l_) (kdisp : Part.disp ∈ l_) (h_ : OnlyChanges l_ u_ s) : OnlyChanges l_ u_ (displayUpdateCmd h p s).run.st := by
  unfold displayUpdateCmd
  try dsimp only
  repeat' first | with_reducible assumption | with_reducible apply queueTail_only | with_reducible apply updDisp_only | with_reducible refine OnlyChanges.foldl ?_ (fun _ _ _ => ?_) | with_reducible apply OnlyChanges.ite | split | (with_reducible apply OnlyChanges.upd <;> first | exact fun q => absurd (by assumption) q | with_reducible exact fun _ => rfl | skip)
  all_goals first | exact fun _ => rfl | skip

theorem displayLightCmd_only (h : Hdr) (p : List Byte) {s : State} (kport : Part.port ∈ l_) (kdisp : Part.disp ∈ l_) (kstore : Part.store ∈ l_) (h_ : OnlyChanges l_ u_ s) : OnlyChanges l_ u_ (displayLightCmd h p s).run.st := by
  unfold displayLightCmd
  try dsimp only
  repeat' first | with_reducible assumption | with_reducible apply lightEvent_only | with_reducible apply updDisp_only | with_reducible refine OnlyChanges.foldl ?_ (fun _ _ _ => ?_) | with_reducible apply OnlyChanges.ite | split | (with_reducible apply OnlyChanges.upd <;> first | exact fun q => absurd (by assumption) q | with_reducible exact fun _ => rfl | skip)
  all_goals first | exact fun _ => rfl | skip

theorem wfLoadCmd_only (p : List Byte) {s : State} (kease : Part.ease ∈ l_) (kdisp : Part.disp ∈ l_) (h_ : OnlyChanges l_ u_ s) : OnlyChanges l_ u_ (wfLoadCmd p s).run.st := by
  unfold wfLoadCmd
  try dsimp only
  repeat' first | with_reducible assumption | with_reducible apply serveQueue_only | with_reducible apply updDisp_only | with_reducible refine OnlyChanges.foldl ?_ (fun _ _ _ => ?_) | with_reducible apply OnlyChanges.ite | split | (with_reducible apply OnlyChanges.upd <;> first | exact fun q => absurd (by assumption) q | with_reducible exact fun _ => rfl | skip)
  all_goals first | exact fun _ => rfl | skip

theorem displayFrame_only  {s : State} (kport : Part.port ∈ l_) (kease : Part.ease ∈ l_) (kdisp : Part.disp ∈ l_) (kstore : Part.store ∈ l_) (h_ : OnlyChanges l_ u_ s) : OnlyChanges l_ u_ (displayFrame s) := by
  unfold displayFrame
  try dsimp only
  repeat' first | with_reducible assumption | with_reducible apply displayBenchmarkEntry_only | with_reducible apply updDisp_only | with_reducible apply displayBenchmarkExit_only | with_reducible apply serveQueue_only | with_reducible apply serveLight_only | with_reducible apply followPrice_only | with_reducible refine OnlyChanges.foldl ?_ (fun _ _ _ => ?_) | with_reducible apply OnlyChanges.ite | split | (with_reducible apply OnlyChanges.upd <;> first | exact fun q => absurd (by assumption) q | with_reducible exact fun _ => rfl | skip)
  all_goals first | exact fun _ => rfl | skip

theorem displayBlockFaulty_only  {s : State} (kport : Part.port ∈ l_) (kfaults : Part.faults ∈ l_) (kease : Part.ease ∈ l_) (kbilling : Part.billing ∈ l_) (kdisp : Part.disp ∈ l_) (kstore : Part.store ∈ l_) (h_ : OnlyChanges l_ u_ s) : OnlyChanges l_ u_ (displayBlockFaulty s) := by
  unfold displayBlockFaulty
  try dsimp only
  repeat' first | with_reducible assumption | with_reducible apply lowerRails_only | with_reducible apply abandonAll_only | with_reducible apply displayFault_only | with_reducible refine OnlyChanges.foldl ?_ (fun _ _ _ => ?_) | with_reducible apply OnlyChanges.ite | split | (with_reducible apply OnlyChanges.upd <;> first | exact fun q => absurd (by assumption) q | with_reducible exact fun _ => rfl | skip)
  all_goals first | exact fun _ => rfl | skip

theorem displayShutdown_only  {s : State} (kport : Part.port ∈ l_) (kease : Part.ease ∈ l_) (kbilling : Part.billing ∈ l_) (kdisp : Part.disp ∈ l_) (kstore : Part.store ∈ l_) (h_ : OnlyChanges l_ u_ s) : OnlyChanges l_ u_ (displayShutdown s) := by
  unfold displayShutdown
  try dsimp only
  repeat' first | with_reducible assumption | with_reducible apply lowerRails_only | with_reducible apply abandonAll_only | with_reducible apply lightEvent_only | with_reducible apply updDisp_only | with_reducible refine OnlyChanges.foldl ?_ (fun _ _ _ => ?_) | with_reducible apply OnlyChanges.ite | split | (with_reducible apply OnlyChanges.upd <;> first | exact fun q => absurd (by assumption) q | with_reducible exact fun _ => rfl | skip)
  all_goals first | exact fun _ => rfl | skip

theorem displayCoreReset_only  {s : State} (kease : Part.ease ∈ l_) (kdisp : Part.disp ∈ l_) (h_ : OnlyChanges l_ u_ s) : OnlyChanges l_ u_ (displayCoreReset s) := by
  unfold displayCoreReset
  try dsimp only
  repeat' first | with_reducible assumption | with_reducible apply releaseOpt_only | with_reducible apply updDisp_only | with_reducible refine OnlyChanges.foldl ?_ (fun _ _ _ => ?_) | with_reducible apply OnlyChanges.ite | split | (with_reducible apply OnlyChanges.upd <;> first | exact fun q => absurd (by assumption) q | with_reducible exact fun _ => rfl | skip)
  all_goals first | exact fun _ => rfl | skip

theorem displaySystemReset_only  {s : State} (kbilling : Part.billing ∈ l_) (kdisp : Part.disp ∈ l_) (h_ : OnlyChanges l_ u_ s) : OnlyChanges l_ u_ (displaySystemReset s) := by
  unfold displaySystemReset
  try dsimp only
  repeat' first | with_reducible assumption | with_reducible refine OnlyChanges.foldl ?_ (fun _ _ _ => ?_) | with_reducible apply OnlyChanges.ite | split | (with_reducible apply OnlyChanges.upd <;> first | exact fun q => absurd (by assumption) q | with_reducible exact fun _ => rfl | skip)
  all_goals first | exact fun _ => rfl | skip

theorem displayReady_only  {s : State} (kease : Part.ease ∈ l_) (kdisp : Part.disp ∈ l_) (h_ : OnlyChanges l_ u_ s) : OnlyChanges l_ u_ (displayReady s) := by
  unfold displayReady
  try dsimp only
  repeat' first | with_reducible assumption | with_reducible apply requestPrice_only | with_reducible refine OnlyChanges.foldl ?_ (fun _ _ _ => ?_) | with_reducible apply OnlyChanges.ite | split | (with_reducible apply OnlyChanges.upd <;> first | exact fun q => absurd (by assumption) q | with_reducible exact fun _ => rfl | skip)
  all_goals first | exact fun _ => rfl | skip

end Sys2Proof.Machine
end

