-- ==== Sys2Proof/Laws/OnlyStops.lean ====
section
/-!
SUPPORT. The frames of the operations of Machine/Stops.lean (OnlyChanges, for every list that holds the parts they touch).
-/

namespace Sys2Proof.Machine

set_option linter.all false

open Sys2Proof.Safety

variable {l_ : List Part} {u_ : State}

theorem updDrv_only (d : Nat) (f : Driver → Driver) {s : State} (ksw : Part.sw ∈ l_) (h_ : OnlyChanges l_ u_ s) : OnlyChanges l_ u_ (updDrv d f s) := by
  unfold updDrv
  try dsimp only
  repeat' first | with_reducible assumption | with_reducible refine OnlyChanges.foldl ?_ (fun _ _ _ => ?_) | with_reducible apply OnlyChanges.ite | split | (with_reducible apply OnlyChanges.upd <;> first | exact fun q => absurd (by assumption) q | with_reducible exact fun _ => rfl | skip)
  all_goals first | exact fun _ => rfl | skip

theorem updSq_only (n : Nat) (f : Seq → Seq) {s : State} (ksw : Part.sw ∈ l_) (h_ : OnlyChanges l_ u_ s) : OnlyChanges l_ u_ (updSq n f s) := by
  unfold updSq
  try dsimp only
  repeat' first | with_reducible assumption | with_reducible refine OnlyChanges.foldl ?_ (fun _ _ _ => ?_) | with_reducible apply OnlyChanges.ite | split | (with_reducible apply OnlyChanges.upd <;> first | exact fun q => absurd (by assumption) q | with_reducible exact fun _ => rfl | skip)
  all_goals first | exact fun _ => rfl | skip

theorem updLk_only (n : Nat) (f : LinkOut → LinkOut) {s : State} (klink : Part.link ∈ l_) (h_ : OnlyChanges l_ u_ s) : OnlyChanges l_ u_ (updLk n f s) := by
  unfold updLk
  try dsimp only
  repeat' first | with_reducible assumption | with_reducible refine OnlyChanges.foldl ?_ (fun _ _ _ => ?_) | with_reducible apply OnlyChanges.ite | split | (with_reducible apply OnlyChanges.upd <;> first | exact fun q => absurd (by assumption) q | with_reducible exact fun _ => rfl | skip)
  all_goals first | exact fun _ => rfl | skip

theorem updSession_only (n : Nat) (f : Session → Session) {s : State} (kbilling : Part.billing ∈ l_) (h_ : OnlyChanges l_ u_ s) : OnlyChanges l_ u_ (updSession n f s) := by
  unfold updSession
  try dsimp only
  repeat' first | with_reducible assumption | with_reducible refine OnlyChanges.foldl ?_ (fun _ _ _ => ?_) | with_reducible apply OnlyChanges.ite | split | (with_reducible apply OnlyChanges.upd <;> first | exact fun q => absurd (by assumption) q | with_reducible exact fun _ => rfl | skip)
  all_goals first | exact fun _ => rfl | skip

theorem closeAt_only (n : Nat) {s : State} (kbilling : Part.billing ∈ l_) (h_ : OnlyChanges l_ u_ s) : OnlyChanges l_ u_ (closeAt n s) := by
  unfold closeAt
  try dsimp only
  repeat' first | with_reducible assumption | with_reducible apply updSession_only | with_reducible refine OnlyChanges.foldl ?_ (fun _ _ _ => ?_) | with_reducible apply OnlyChanges.ite | split | (with_reducible apply OnlyChanges.upd <;> first | exact fun q => absurd (by assumption) q | with_reducible exact fun _ => rfl | skip)
  all_goals first | exact fun _ => rfl | skip

theorem setOwner_only (m : Nat) (o : Option Nat) {s : State} (ksw : Part.sw ∈ l_) (h_ : OnlyChanges l_ u_ s) : OnlyChanges l_ u_ (setOwner m o s) := by
  unfold setOwner
  try dsimp only
  repeat' first | with_reducible assumption | with_reducible refine OnlyChanges.foldl ?_ (fun _ _ _ => ?_) | with_reducible apply OnlyChanges.ite | split | (with_reducible apply OnlyChanges.upd <;> first | exact fun q => absurd (by assumption) q | with_reducible exact fun _ => rfl | skip)
  all_goals first | exact fun _ => rfl | skip

theorem driverOff_only (d : Nat) {s : State} (kease : Part.ease ∈ l_) (ksw : Part.sw ∈ l_) (h_ : OnlyChanges l_ u_ s) : OnlyChanges l_ u_ (driverOff d s) := by
  unfold driverOff
  try dsimp only
  repeat' first | with_reducible assumption | with_reducible apply updDrv_only | with_reducible apply releaseOpt_only | with_reducible refine OnlyChanges.foldl ?_ (fun _ _ _ => ?_) | with_reducible apply OnlyChanges.ite | split | (with_reducible apply OnlyChanges.upd <;> first | exact fun q => absurd (by assumption) q | with_reducible exact fun _ => rfl | skip)
  all_goals first | exact fun _ => rfl | skip

theorem armHwOff_only (ds : List Nat) {s : State} (ksw : Part.sw ∈ l_) (h_ : OnlyChanges l_ u_ s) : OnlyChanges l_ u_ (armHwOff ds s) := by
  unfold armHwOff
  try dsimp only
  repeat' first | with_reducible assumption | with_reducible apply updDrv_only | with_reducible refine OnlyChanges.foldl ?_ (fun _ _ _ => ?_) | with_reducible apply OnlyChanges.ite | split | (with_reducible apply OnlyChanges.upd <;> first | exact fun q => absurd (by assumption) q | with_reducible exact fun _ => rfl | skip)
  all_goals first | exact fun _ => rfl | skip

theorem releasePermits_only (mask : BitVec 8) {s : State} (ksw : Part.sw ∈ l_) (h_ : OnlyChanges l_ u_ s) : OnlyChanges l_ u_ (releasePermits mask s) := by
  unfold releasePermits
  try dsimp only
  repeat' first | with_reducible assumption | with_reducible apply armHwOff_only | with_reducible refine OnlyChanges.foldl ?_ (fun _ _ _ => ?_) | with_reducible apply OnlyChanges.ite | split | (with_reducible apply OnlyChanges.upd <;> first | exact fun q => absurd (by assumption) q | with_reducible exact fun _ => rfl | skip)
  all_goals first | exact fun _ => rfl | skip

theorem givePermits_only (n : Nat) {s : State} (ksw : Part.sw ∈ l_) (h_ : OnlyChanges l_ u_ s) : OnlyChanges l_ u_ (givePermits n s) := by
  unfold givePermits
  try dsimp only
  repeat' first | with_reducible assumption | with_reducible refine OnlyChanges.foldl ?_ (fun _ _ _ => ?_) | with_reducible apply OnlyChanges.ite | split | (with_reducible apply OnlyChanges.upd <;> first | exact fun q => absurd (by assumption) q | with_reducible exact fun _ => rfl | skip)
  all_goals first | exact fun _ => rfl | skip

theorem beginPullIn_only (d : Nat) {s : State} (ksw : Part.sw ∈ l_) (h_ : OnlyChanges l_ u_ s) : OnlyChanges l_ u_ (beginPullIn d s) := by
  unfold beginPullIn
  try dsimp only
  repeat' first | with_reducible assumption | with_reducible apply updDrv_only | with_reducible refine OnlyChanges.foldl ?_ (fun _ _ _ => ?_) | with_reducible apply OnlyChanges.ite | split | (with_reducible apply OnlyChanges.upd <;> first | exact fun q => absurd (by assumption) q | with_reducible exact fun _ => rfl | skip)
  all_goals first | exact fun _ => rfl | skip

theorem requestPullIn_only (ds : List Nat) (lowest : Nat) (host : Bool) {s : State} (kease : Part.ease ∈ l_) (ksw : Part.sw ∈ l_) (h_ : OnlyChanges l_ u_ s) : OnlyChanges l_ u_ (requestPullIn ds lowest host s) := by
  unfold requestPullIn
  try dsimp only
  repeat' first | with_reducible assumption | with_reducible apply submit_only | with_reducible apply updDrv_only | with_reducible refine OnlyChanges.foldl ?_ (fun _ _ _ => ?_) | with_reducible apply OnlyChanges.ite | split | (with_reducible apply OnlyChanges.upd <;> first | exact fun q => absurd (by assumption) q | with_reducible exact fun _ => rfl | skip)
  all_goals first | exact fun _ => rfl | skip

theorem seqTo_only (n new : Nat) {s : State} (kport : Part.port ∈ l_) (ksw : Part.sw ∈ l_) (kstore : Part.store ∈ l_) (h_ : OnlyChanges l_ u_ s) : OnlyChanges l_ u_ (seqTo n new s) := by
  unfold seqTo
  try dsimp only
  repeat' first | with_reducible assumption | with_reducible apply event_only | with_reducible apply updSq_only | with_reducible refine OnlyChanges.foldl ?_ (fun _ _ _ => ?_) | with_reducible apply OnlyChanges.ite | split | (with_reducible apply OnlyChanges.upd <;> first | exact fun q => absurd (by assumption) q | with_reducible exact fun _ => rfl | skip)
  all_goals first | exact fun _ => rfl | skip

theorem tell_only (n code : Nat) {s : State} (klink : Part.link ∈ l_) (h_ : OnlyChanges l_ u_ s) : OnlyChanges l_ u_ (tell n code s) := by
  unfold tell
  try dsimp only
  repeat' first | with_reducible assumption | with_reducible refine OnlyChanges.foldl ?_ (fun _ _ _ => ?_) | with_reducible apply OnlyChanges.ite | split | (with_reducible apply OnlyChanges.upd <;> first | exact fun q => absurd (by assumption) q | with_reducible exact fun _ => rfl | skip)
  all_goals first | exact fun _ => rfl | skip

theorem dropLeave_only (n : Nat) {s : State} (kease : Part.ease ∈ l_) (klink : Part.link ∈ l_) (h_ : OnlyChanges l_ u_ s) : OnlyChanges l_ u_ (dropLeave n s) := by
  unfold dropLeave
  try dsimp only
  repeat' first | with_reducible assumption | with_reducible apply updLk_only | with_reducible apply releaseOpt_only | with_reducible refine OnlyChanges.foldl ?_ (fun _ _ _ => ?_) | with_reducible apply OnlyChanges.ite | split | (with_reducible apply OnlyChanges.upd <;> first | exact fun q => absurd (by assumption) q | with_reducible exact fun _ => rfl | skip)
  all_goals first | exact fun _ => rfl | skip

theorem withdrawAuth_only (n : Nat) {s : State} (klink : Part.link ∈ l_) (h_ : OnlyChanges l_ u_ s) : OnlyChanges l_ u_ (withdrawAuth n s) := by
  unfold withdrawAuth
  try dsimp only
  repeat' first | with_reducible assumption | with_reducible refine OnlyChanges.foldl ?_ (fun _ _ _ => ?_) | with_reducible apply OnlyChanges.ite | split | (with_reducible apply OnlyChanges.upd <;> first | exact fun q => absurd (by assumption) q | with_reducible exact fun _ => rfl | skip)
  all_goals first | exact fun _ => rfl | skip

theorem linkEnd_only (n cause : Nat) {s : State} (kport : Part.port ∈ l_) (kease : Part.ease ∈ l_) (klink : Part.link ∈ l_) (kstore : Part.store ∈ l_) (h_ : OnlyChanges l_ u_ s) : OnlyChanges l_ u_ (linkEnd n cause s) := by
  unfold linkEnd
  try dsimp only
  repeat' first | with_reducible assumption | with_reducible apply dropLeave_only | with_reducible apply releaseOpt_only | with_reducible apply withdrawAuth_only | with_reducible apply event_only | with_reducible apply updLk_only | with_reducible refine OnlyChanges.foldl ?_ (fun _ _ _ => ?_) | with_reducible apply OnlyChanges.ite | split | (with_reducible apply OnlyChanges.upd <;> first | exact fun q => absurd (by assumption) q | with_reducible exact fun _ => rfl | skip)
  all_goals first | exact fun _ => rfl | skip

theorem modulesOff_only (n : Nat) {s : State} (ksw : Part.sw ∈ l_) (h_ : OnlyChanges l_ u_ s) : OnlyChanges l_ u_ (modulesOff n s) := by
  unfold modulesOff
  try dsimp only
  repeat' first | with_reducible assumption | with_reducible refine OnlyChanges.foldl ?_ (fun _ _ _ => ?_) | with_reducible apply OnlyChanges.ite | split | (with_reducible apply OnlyChanges.upd <;> first | exact fun q => absurd (by assumption) q | with_reducible exact fun _ => rfl | skip)
  all_goals first | exact fun _ => rfl | skip

theorem busChanged_only (ack : Bool) {s : State} (kport : Part.port ∈ l_) (kstore : Part.store ∈ l_) (h_ : OnlyChanges l_ u_ s) : OnlyChanges l_ u_ (busChanged ack s) := by
  unfold busChanged
  try dsimp only
  repeat' first | with_reducible assumption | with_reducible apply emit_only | with_reducible refine OnlyChanges.foldl ?_ (fun _ _ _ => ?_) | with_reducible apply OnlyChanges.ite | split | (with_reducible apply OnlyChanges.upd <;> first | exact fun q => absurd (by assumption) q | with_reducible exact fun _ => rfl | skip)
  all_goals first | exact fun _ => rfl | skip

theorem endJob_only (j : BusJob) {s : State} (kport : Part.port ∈ l_) (ksw : Part.sw ∈ l_) (kstore : Part.store ∈ l_) (h_ : OnlyChanges l_ u_ s) : OnlyChanges l_ u_ (endJob j s) := by
  unfold endJob
  try dsimp only
  repeat' first | with_reducible assumption | with_reducible apply busChanged_only | with_reducible refine OnlyChanges.foldl ?_ (fun _ _ _ => ?_) | with_reducible apply OnlyChanges.ite | split | (with_reducible apply OnlyChanges.upd <;> first | exact fun q => absurd (by assumption) q | with_reducible exact fun _ => rfl | skip)
  all_goals first | exact fun _ => rfl | skip

theorem dropJobs_only (n : Nat) {s : State} (kport : Part.port ∈ l_) (kease : Part.ease ∈ l_) (ksw : Part.sw ∈ l_) (kstore : Part.store ∈ l_) (h_ : OnlyChanges l_ u_ s) : OnlyChanges l_ u_ (dropJobs n s) := by
  unfold dropJobs
  try dsimp only
  repeat' first | with_reducible assumption | with_reducible apply driverOff_only | with_reducible apply endJob_only | with_reducible refine OnlyChanges.foldl ?_ (fun _ _ _ => ?_) | with_reducible apply OnlyChanges.ite | split | (with_reducible apply OnlyChanges.upd <;> first | exact fun q => absurd (by assumption) q | with_reducible exact fun _ => rfl | skip)
  all_goals first | exact fun _ => rfl | skip

theorem dropPullIn_only (ds : List Nat) {s : State} (kease : Part.ease ∈ l_) (ksw : Part.sw ∈ l_) (h_ : OnlyChanges l_ u_ s) : OnlyChanges l_ u_ (dropPullIn ds s) := by
  unfold dropPullIn
  try dsimp only
  repeat' first | with_reducible assumption | with_reducible apply driverOff_only | with_reducible refine OnlyChanges.foldl ?_ (fun _ _ _ => ?_) | with_reducible apply OnlyChanges.ite | split | (with_reducible apply OnlyChanges.upd <;> first | exact fun q => absurd (by assumption) q | with_reducible exact fun _ => rfl | skip)
  all_goals first | exact fun _ => rfl | skip

theorem lockOutlet_only (n : Nat) {s : State} (kport : Part.port ∈ l_) (kease : Part.ease ∈ l_) (kbilling : Part.billing ∈ l_) (klink : Part.link ∈ l_) (ksw : Part.sw ∈ l_) (kstore : Part.store ∈ l_) (h_ : OnlyChanges l_ u_ s) : OnlyChanges l_ u_ (lockOutlet n s) := by
  unfold lockOutlet
  try dsimp only
  repeat' first | with_reducible assumption | with_reducible apply modulesOff_only | with_reducible apply closeAt_only | with_reducible apply driverOff_only | with_reducible apply dropJobs_only | with_reducible apply setOwner_only | with_reducible apply updSq_only | with_reducible apply seqTo_only | with_reducible apply linkEnd_only | with_reducible refine OnlyChanges.foldl ?_ (fun _ _ _ => ?_) | with_reducible apply OnlyChanges.ite | split | (with_reducible apply OnlyChanges.upd <;> first | exact fun q => absurd (by assumption) q | with_reducible exact fun _ => rfl | skip)
  all_goals first | exact fun _ => rfl | skip

theorem weldDone_only (n : Nat) {s : State} (kport : Part.port ∈ l_) (kease : Part.ease ∈ l_) (kbilling : Part.billing ∈ l_) (klink : Part.link ∈ l_) (ksw : Part.sw ∈ l_) (kstore : Part.store ∈ l_) (h_ : OnlyChanges l_ u_ s) : OnlyChanges l_ u_ (weldDone n s) := by
  unfold weldDone
  try dsimp only
  repeat' first | with_reducible assumption | with_reducible apply lockOutlet_only | with_reducible apply setOwner_only | with_reducible apply seqTo_only | with_reducible apply updSq_only | with_reducible apply linkEnd_only | with_reducible refine OnlyChanges.foldl ?_ (fun _ _ _ => ?_) | with_reducible apply OnlyChanges.ite | split | (with_reducible apply OnlyChanges.upd <;> first | exact fun q => absurd (by assumption) q | with_reducible exact fun _ => rfl | skip)
  all_goals first | exact fun _ => rfl | skip

theorem pairOpened_only (n : Nat) {s : State} (kport : Part.port ∈ l_) (kease : Part.ease ∈ l_) (kbilling : Part.billing ∈ l_) (klink : Part.link ∈ l_) (ksw : Part.sw ∈ l_) (kstore : Part.store ∈ l_) (h_ : OnlyChanges l_ u_ s) : OnlyChanges l_ u_ (pairOpened n s) := by
  unfold pairOpened
  try dsimp only
  repeat' first | with_reducible assumption | with_reducible apply closeAt_only | with_reducible apply updSq_only | with_reducible apply driverOff_only | with_reducible apply weldDone_only | with_reducible apply seqTo_only | with_reducible refine OnlyChanges.foldl ?_ (fun _ _ _ => ?_) | with_reducible apply OnlyChanges.ite | split | (with_reducible apply OnlyChanges.upd <;> first | exact fun q => absurd (by assumption) q | with_reducible exact fun _ => rfl | skip)
  all_goals first | exact fun _ => rfl | skip

theorem openPair_only (n : Nat) {s : State} (kport : Part.port ∈ l_) (kease : Part.ease ∈ l_) (kbilling : Part.billing ∈ l_) (klink : Part.link ∈ l_) (ksw : Part.sw ∈ l_) (kstore : Part.store ∈ l_) (h_ : OnlyChanges l_ u_ s) : OnlyChanges l_ u_ (openPair n s) := by
  unfold openPair
  try dsimp only
  repeat' first | with_reducible assumption | with_reducible apply modulesOff_only | with_reducible apply driverOff_only | with_reducible apply dropJobs_only | with_reducible apply pairOpened_only | with_reducible apply seqTo_only | with_reducible refine OnlyChanges.foldl ?_ (fun _ _ _ => ?_) | with_reducible apply OnlyChanges.ite | split | (with_reducible apply OnlyChanges.upd <;> first | exact fun q => absurd (by assumption) q | with_reducible exact fun _ => rfl | skip)
  all_goals first | exact fun _ => rfl | skip

theorem safeStopEvent_only (n result : Nat) (r : Ramp) {s : State} (kport : Part.port ∈ l_) (kstore : Part.store ∈ l_) (h_ : OnlyChanges l_ u_ s) : OnlyChanges l_ u_ (safeStopEvent n result r s) := by
  unfold safeStopEvent
  try dsimp only
  repeat' first | with_reducible assumption | with_reducible apply event_only | with_reducible refine OnlyChanges.foldl ?_ (fun _ _ _ => ?_) | with_reducible apply OnlyChanges.ite | split | (with_reducible apply OnlyChanges.upd <;> first | exact fun q => absurd (by assumption) q | with_reducible exact fun _ => rfl | skip)
  all_goals first | exact fun _ => rfl | skip

theorem safeRampStop_only (n cause ms : Nat) {s : State} (kport : Part.port ∈ l_) (kease : Part.ease ∈ l_) (kbilling : Part.billing ∈ l_) (klink : Part.link ∈ l_) (ksw : Part.sw ∈ l_) (kstore : Part.store ∈ l_) (h_ : OnlyChanges l_ u_ s) : OnlyChanges l_ u_ (safeRampStop n cause ms s) := by
  unfold safeRampStop
  try dsimp only
  repeat' first | with_reducible assumption | with_reducible apply openPair_only | with_reducible apply updSq_only | with_reducible apply seqTo_only | with_reducible refine OnlyChanges.foldl ?_ (fun _ _ _ => ?_) | with_reducible apply OnlyChanges.ite | split | (with_reducible apply OnlyChanges.upd <;> first | exact fun q => absurd (by assumption) q | with_reducible exact fun _ => rfl | skip)
  all_goals first | exact fun _ => rfl | skip

theorem failSequence_only (n cause : Nat) {s : State} (kport : Part.port ∈ l_) (kease : Part.ease ∈ l_) (kbilling : Part.billing ∈ l_) (klink : Part.link ∈ l_) (ksw : Part.sw ∈ l_) (kstore : Part.store ∈ l_) (h_ : OnlyChanges l_ u_ s) : OnlyChanges l_ u_ (failSequence n cause s) := by
  unfold failSequence
  try dsimp only
  repeat' first | with_reducible assumption | with_reducible apply tell_only | with_reducible apply openPair_only | with_reducible apply updSq_only | with_reducible refine OnlyChanges.foldl ?_ (fun _ _ _ => ?_) | with_reducible apply OnlyChanges.ite | split | (with_reducible apply OnlyChanges.upd <;> first | exact fun q => absurd (by assumption) q | with_reducible exact fun _ => rfl | skip)
  all_goals first | exact fun _ => rfl | skip

theorem endAfterStop_only (n cause : Nat) {s : State} (klink : Part.link ∈ l_) (h_ : OnlyChanges l_ u_ s) : OnlyChanges l_ u_ (endAfterStop n cause s) := by
  unfold endAfterStop
  try dsimp only
  repeat' first | with_reducible assumption | with_reducible apply updLk_only | with_reducible refine OnlyChanges.foldl ?_ (fun _ _ _ => ?_) | with_reducible apply OnlyChanges.ite | split | (with_reducible apply OnlyChanges.upd <;> first | exact fun q => absurd (by assumption) q | with_reducible exact fun _ => rfl | skip)
  all_goals first | exact fun _ => rfl | skip

theorem demandStop_only (n cause ms : Nat) {s : State} (kport : Part.port ∈ l_) (kease : Part.ease ∈ l_) (kbilling : Part.billing ∈ l_) (klink : Part.link ∈ l_) (ksw : Part.sw ∈ l_) (kstore : Part.store ∈ l_) (h_ : OnlyChanges l_ u_ s) : OnlyChanges l_ u_ (demandStop n cause ms s) := by
  unfold demandStop
  try dsimp only
  repeat' first | with_reducible assumption | with_reducible apply linkEnd_only | with_reducible apply closeAt_only | with_reducible apply safeRampStop_only | with_reducible apply endAfterStop_only | with_reducible refine OnlyChanges.foldl ?_ (fun _ _ _ => ?_) | with_reducible apply OnlyChanges.ite | split | (with_reducible apply OnlyChanges.upd <;> first | exact fun q => absurd (by assumption) q | with_reducible exact fun _ => rfl | skip)
  all_goals first | exact fun _ => rfl | skip

theorem fastStop_only (n cause : Nat) (atOnce : Bool) {s : State} (kport : Part.port ∈ l_) (kease : Part.ease ∈ l_) (kbilling : Part.billing ∈ l_) (klink : Part.link ∈ l_) (ksw : Part.sw ∈ l_) (kstore : Part.store ∈ l_) (h_ : OnlyChanges l_ u_ s) : OnlyChanges l_ u_ (fastStop n cause atOnce s) := by
  unfold fastStop
  try dsimp only
  repeat' first | with_reducible assumption | with_reducible apply modulesOff_only | with_reducible apply updSq_only | with_reducible apply releasePermits_only | with_reducible apply endAfterStop_only | with_reducible apply dropPullIn_only | with_reducible apply dropJobs_only | with_reducible apply driverOff_only | with_reducible apply armHwOff_only | with_reducible apply pairOpened_only | with_reducible apply event_only | with_reducible apply seqTo_only | with_reducible refine OnlyChanges.foldl ?_ (fun _ _ _ => ?_) | with_reducible apply OnlyChanges.ite | split | (with_reducible apply OnlyChanges.upd <;> first | exact fun q => absurd (by assumption) q | with_reducible exact fun _ => rfl | skip)
  all_goals first | exact fun _ => rfl | skip

theorem updCh_only (c : Nat) (f : Chan → Chan) {s : State} (kloads : Part.loads ∈ l_) (h_ : OnlyChanges l_ u_ s) : OnlyChanges l_ u_ (updCh c f s) := by
  unfold updCh
  try dsimp only
  repeat' first | with_reducible assumption | with_reducible refine OnlyChanges.foldl ?_ (fun _ _ _ => ?_) | with_reducible apply OnlyChanges.ite | split | (with_reducible apply OnlyChanges.upd <;> first | exact fun q => absurd (by assumption) q | with_reducible exact fun _ => rfl | skip)
  all_goals first | exact fun _ => rfl | skip

theorem updBank_only (k : Nat) (f : Bank → Bank) {s : State} (kloads : Part.loads ∈ l_) (h_ : OnlyChanges l_ u_ s) : OnlyChanges l_ u_ (updBank k f s) := by
  unfold updBank
  try dsimp only
  repeat' first | with_reducible assumption | with_reducible refine OnlyChanges.foldl ?_ (fun _ _ _ => ?_) | with_reducible apply OnlyChanges.ite | split | (with_reducible apply OnlyChanges.upd <;> first | exact fun q => absurd (by assumption) q | with_reducible exact fun _ => rfl | skip)
  all_goals first | exact fun _ => rfl | skip

theorem chTo_only (c new : Nat) {s : State} (kport : Part.port ∈ l_) (kease : Part.ease ∈ l_) (kloads : Part.loads ∈ l_) (kstore : Part.store ∈ l_) (h_ : OnlyChanges l_ u_ s) : OnlyChanges l_ u_ (chTo c new s) := by
  unfold chTo
  try dsimp only
  repeat' first | with_reducible assumption | with_reducible apply releaseOpt_only | with_reducible apply updCh_only | with_reducible apply updBank_only | with_reducible apply emit_only | with_reducible apply event_only | with_reducible refine OnlyChanges.foldl ?_ (fun _ _ _ => ?_) | with_reducible apply OnlyChanges.ite | split | (with_reducible apply OnlyChanges.upd <;> first | exact fun q => absurd (by assumption) q | with_reducible exact fun _ => rfl | skip)
  all_goals first | exact fun _ => rfl | skip

theorem channelsOff_only (cs : List Nat) {s : State} (kport : Part.port ∈ l_) (kease : Part.ease ∈ l_) (kloads : Part.loads ∈ l_) (kstore : Part.store ∈ l_) (h_ : OnlyChanges l_ u_ s) : OnlyChanges l_ u_ (channelsOff cs s) := by
  unfold channelsOff
  try dsimp only
  repeat' first | with_reducible assumption | with_reducible apply updCh_only | with_reducible apply chTo_only | with_reducible refine OnlyChanges.foldl ?_ (fun _ _ _ => ?_) | with_reducible apply OnlyChanges.ite | split | (with_reducible apply OnlyChanges.upd <;> first | exact fun q => absurd (by assumption) q | with_reducible exact fun _ => rfl | skip)
  all_goals first | exact fun _ => rfl | skip

theorem releasePulses_only  {s : State} (kenergy : Part.energy ∈ l_) (h_ : OnlyChanges l_ u_ s) : OnlyChanges l_ u_ (releasePulses s) := by
  unfold releasePulses
  try dsimp only
  repeat' first | with_reducible assumption | with_reducible refine OnlyChanges.foldl ?_ (fun _ _ _ => ?_) | with_reducible apply OnlyChanges.ite | split | (with_reducible apply OnlyChanges.upd <;> first | exact fun q => absurd (by assumption) q | with_reducible exact fun _ => rfl | skip)
  all_goals first | exact fun _ => rfl | skip

theorem safeSeq_only (n : Nat) {s : State} (kport : Part.port ∈ l_) (kease : Part.ease ∈ l_) (ksw : Part.sw ∈ l_) (kstore : Part.store ∈ l_) (h_ : OnlyChanges l_ u_ s) : OnlyChanges l_ u_ (safeSeq s n) := by
  unfold safeSeq
  try dsimp only
  repeat' first | with_reducible assumption | with_reducible apply modulesOff_only | with_reducible apply dropJobs_only | with_reducible apply seqTo_only | with_reducible apply updSq_only | with_reducible refine OnlyChanges.foldl ?_ (fun _ _ _ => ?_) | with_reducible apply OnlyChanges.ite | split | (with_reducible apply OnlyChanges.upd <;> first | exact fun q => absurd (by assumption) q | with_reducible exact fun _ => rfl | skip)
  all_goals first | exact fun _ => rfl | skip

theorem pilotsSafe_only  {s : State} (klink : Part.link ∈ l_) (h_ : OnlyChanges l_ u_ s) : OnlyChanges l_ u_ (pilotsSafe s) := by
  unfold pilotsSafe
  try dsimp only
  repeat' first | with_reducible assumption | with_reducible refine OnlyChanges.foldl ?_ (fun _ _ _ => ?_) | with_reducible apply OnlyChanges.ite | split | (with_reducible apply OnlyChanges.upd <;> first | exact fun q => absurd (by assumption) q | with_reducible exact fun _ => rfl | skip)
  all_goals first | exact fun _ => rfl | skip

theorem lightSafe_only  {s : State} (kport : Part.port ∈ l_) (kdisp : Part.disp ∈ l_) (kstore : Part.store ∈ l_) (h_ : OnlyChanges l_ u_ s) : OnlyChanges l_ u_ (lightSafe s) := by
  unfold lightSafe
  try dsimp only
  repeat' first | with_reducible assumption | with_reducible apply event_only | with_reducible refine OnlyChanges.foldl ?_ (fun _ _ _ => ?_) | with_reducible apply OnlyChanges.ite | split | (with_reducible apply OnlyChanges.upd <;> first | exact fun q => absurd (by assumption) q | with_reducible exact fun _ => rfl | skip)
  all_goals first | exact fun _ => rfl | skip

theorem outputsSafe_only  {s : State} (kport : Part.port ∈ l_) (kease : Part.ease ∈ l_) (kenergy : Part.energy ∈ l_) (klink : Part.link ∈ l_) (ksw : Part.sw ∈ l_) (kloads : Part.loads ∈ l_) (kdisp : Part.disp ∈ l_) (kstore : Part.store ∈ l_) (h_ : OnlyChanges l_ u_ s) : OnlyChanges l_ u_ (outputsSafe s) := by
  unfold outputsSafe
  try dsimp only
  repeat' first | with_reducible assumption | with_reducible apply dropPullIn_only | with_reducible apply armHwOff_only | with_reducible apply releasePulses_only | with_reducible apply lightSafe_only | with_reducible apply pilotsSafe_only | with_reducible apply channelsOff_only | with_reducible apply safeSeq_only | with_reducible refine OnlyChanges.foldl ?_ (fun _ _ _ => ?_) | with_reducible apply OnlyChanges.ite | split | (with_reducible apply OnlyChanges.upd <;> first | exact fun q => absurd (by assumption) q | with_reducible exact fun _ => rfl | skip)
  all_goals first | exact fun _ => rfl | skip

end Sys2Proof.Machine
end

