-- ==== Sys2Proof/Laws/OnlyEnergy.lean ====
section
/-!
SUPPORT. The frames of the operations of Machine/Energy.lean (OnlyChanges, for every list that holds the parts they touch).
-/

namespace Sys2Proof.Machine

set_option linter.all false

open Sys2Proof.Safety

variable {l_ : List Part} {u_ : State}

theorem countInvalid_only (n : Nat) {s : State} (kenergy : Part.energy ∈ l_) (h_ : OnlyChanges l_ u_ s) : OnlyChanges l_ u_ (countInvalid n s) := by
  unfold countInvalid
  try dsimp only
  repeat' first | with_reducible assumption | with_reducible apply updEng_only | with_reducible refine OnlyChanges.foldl ?_ (fun _ _ _ => ?_) | with_reducible apply OnlyChanges.ite | split | (with_reducible apply OnlyChanges.upd <;> first | exact fun q => absurd (by assumption) q | with_reducible exact fun _ => rfl | skip)
  all_goals first | exact fun _ => rfl | skip

theorem standingTrack_only (n : Nat) (flows : Bool) {s : State} (kenergy : Part.energy ∈ l_) (h_ : OnlyChanges l_ u_ s) : OnlyChanges l_ u_ (standingTrack n flows s) := by
  unfold standingTrack
  try dsimp only
  repeat' first | with_reducible assumption | with_reducible apply updEng_only | with_reducible refine OnlyChanges.foldl ?_ (fun _ _ _ => ?_) | with_reducible apply OnlyChanges.ite | split | (with_reducible apply OnlyChanges.upd <;> first | exact fun q => absurd (by assumption) q | with_reducible exact fun _ => rfl | skip)
  all_goals first | exact fun _ => rfl | skip

theorem periodPower_only (n : Nat) {s : State} (kenergy : Part.energy ∈ l_) (h_ : OnlyChanges l_ u_ s) : OnlyChanges l_ u_ (periodPower n s) := by
  unfold periodPower
  try dsimp only
  repeat' first | with_reducible assumption | with_reducible apply updEng_only | with_reducible apply setSessionFlag_only | with_reducible apply countInvalid_only | with_reducible apply standingTrack_only | with_reducible refine OnlyChanges.foldl ?_ (fun _ _ _ => ?_) | with_reducible apply OnlyChanges.ite | split | (with_reducible apply OnlyChanges.upd <;> first | exact fun q => absurd (by assumption) q | with_reducible exact fun _ => rfl | skip)
  all_goals first | exact fun _ => rfl | skip

theorem billDelivered_only (n : Nat) (p : Nat × Nat) (y0 y1 y2 : Sample) {s : State} (kenergy : Part.energy ∈ l_) (h_ : OnlyChanges l_ u_ s) : OnlyChanges l_ u_ (billDelivered n p y0 y1 y2 s) := by
  unfold billDelivered
  try dsimp only
  repeat' first | with_reducible assumption | with_reducible apply updEng_only | with_reducible refine OnlyChanges.foldl ?_ (fun _ _ _ => ?_) | with_reducible apply OnlyChanges.ite | split | (with_reducible apply OnlyChanges.upd <;> first | exact fun q => absurd (by assumption) q | with_reducible exact fun _ => rfl | skip)
  all_goals first | exact fun _ => rfl | skip

theorem billLost_only (n : Nat) (p : Nat × Nat) {s : State} (kenergy : Part.energy ∈ l_) (h_ : OnlyChanges l_ u_ s) : OnlyChanges l_ u_ (billLost n p s) := by
  unfold billLost
  try dsimp only
  repeat' first | with_reducible assumption | with_reducible apply updEng_only | with_reducible refine OnlyChanges.foldl ?_ (fun _ _ _ => ?_) | with_reducible apply OnlyChanges.ite | split | (with_reducible apply OnlyChanges.upd <;> first | exact fun q => absurd (by assumption) q | with_reducible exact fun _ => rfl | skip)
  all_goals first | exact fun _ => rfl | skip

theorem addTariff_only (n t : Nat) (imp : Bool) (e : Nat) {s : State} (kbilling : Part.billing ∈ l_) (h_ : OnlyChanges l_ u_ s) : OnlyChanges l_ u_ (addTariff n t imp e s) := by
  unfold addTariff
  try dsimp only
  repeat' first | with_reducible assumption | with_reducible refine OnlyChanges.foldl ?_ (fun _ _ _ => ?_) | with_reducible apply OnlyChanges.ite | split | (with_reducible apply OnlyChanges.upd <;> first | exact fun q => absurd (by assumption) q | with_reducible exact fun _ => rfl | skip)
  all_goals first | exact fun _ => rfl | skip

theorem addDemandU_only (u tick : Nat) (imp : Bool) (e : Nat) {s : State} (kbilling : Part.billing ∈ l_) (h_ : OnlyChanges l_ u_ s) : OnlyChanges l_ u_ (addDemandU u tick imp e s) := by
  unfold addDemandU
  try dsimp only
  repeat' first | with_reducible assumption | with_reducible refine OnlyChanges.foldl ?_ (fun _ _ _ => ?_) | with_reducible apply OnlyChanges.ite | split | (with_reducible apply OnlyChanges.upd <;> first | exact fun q => absurd (by assumption) q | with_reducible exact fun _ => rfl | skip)
  all_goals first | exact fun _ => rfl | skip

theorem addShare_only (n : Nat) (sh : Share) {s : State} (kenergy : Part.energy ∈ l_) (kbilling : Part.billing ∈ l_) (h_ : OnlyChanges l_ u_ s) : OnlyChanges l_ u_ (addShare n sh s) := by
  unfold addShare
  try dsimp only
  repeat' first | with_reducible assumption | with_reducible apply addTariff_only | with_reducible apply updEng_only | with_reducible apply updSession_only | with_reducible apply addDemandU_only | with_reducible refine OnlyChanges.foldl ?_ (fun _ _ _ => ?_) | with_reducible apply OnlyChanges.ite | split | (with_reducible apply OnlyChanges.upd <;> first | exact fun q => absurd (by assumption) q | with_reducible exact fun _ => rfl | skip)
  all_goals first | exact fun _ => rfl | skip

theorem runShare_only (n : Nat) {s : State} (kenergy : Part.energy ∈ l_) (kbilling : Part.billing ∈ l_) (h_ : OnlyChanges l_ u_ s) : OnlyChanges l_ u_ (runShare n s) := by
  unfold runShare
  try dsimp only
  repeat' first | with_reducible assumption | with_reducible apply addShare_only | with_reducible apply updEng_only | with_reducible refine OnlyChanges.foldl ?_ (fun _ _ _ => ?_) | with_reducible apply OnlyChanges.ite | split | (with_reducible apply OnlyChanges.upd <;> first | exact fun q => absurd (by assumption) q | with_reducible exact fun _ => rfl | skip)
  all_goals first | exact fun _ => rfl | skip

theorem energyUnit_only (n : Nat) {s : State} (kenergy : Part.energy ∈ l_) (kbilling : Part.billing ∈ l_) (h_ : OnlyChanges l_ u_ s) : OnlyChanges l_ u_ (energyUnit n s) := by
  unfold energyUnit
  try dsimp only
  repeat' first | with_reducible assumption | with_reducible apply runShare_only | with_reducible apply periodPower_only | with_reducible refine OnlyChanges.foldl ?_ (fun _ _ _ => ?_) | with_reducible apply OnlyChanges.ite | split | (with_reducible apply OnlyChanges.upd <;> first | exact fun q => absurd (by assumption) q | with_reducible exact fun _ => rfl | skip)
  all_goals first | exact fun _ => rfl | skip

theorem energyJob_only (n : Nat) {s : State} (kenergy : Part.energy ∈ l_) (kbilling : Part.billing ∈ l_) (h_ : OnlyChanges l_ u_ s) : OnlyChanges l_ u_ (energyJob n s) := by
  unfold energyJob
  try dsimp only
  repeat' first | with_reducible assumption | with_reducible apply updEng_only | with_reducible apply energyUnit_only | with_reducible refine OnlyChanges.foldl ?_ (fun _ _ _ => ?_) | with_reducible apply OnlyChanges.ite | split | (with_reducible apply OnlyChanges.upd <;> first | exact fun q => absurd (by assumption) q | with_reducible exact fun _ => rfl | skip)
  all_goals first | exact fun _ => rfl | skip

theorem updPls_only (k : Nat) (f : Pulse → Pulse) {s : State} (kenergy : Part.energy ∈ l_) (h_ : OnlyChanges l_ u_ s) : OnlyChanges l_ u_ (updPls k f s) := by
  unfold updPls
  try dsimp only
  repeat' first | with_reducible assumption | with_reducible refine OnlyChanges.foldl ?_ (fun _ _ _ => ?_) | with_reducible apply OnlyChanges.ite | split | (with_reducible apply OnlyChanges.upd <;> first | exact fun q => absurd (by assumption) q | with_reducible exact fun _ => rfl | skip)
  all_goals first | exact fun _ => rfl | skip

theorem pulseTick_only (k : Nat) {s : State} (kenergy : Part.energy ∈ l_) (h_ : OnlyChanges l_ u_ s) : OnlyChanges l_ u_ (pulseTick k s) := by
  unfold pulseTick
  try dsimp only
  repeat' first | with_reducible assumption | with_reducible apply updPls_only | with_reducible refine OnlyChanges.foldl ?_ (fun _ _ _ => ?_) | with_reducible apply OnlyChanges.ite | split | (with_reducible apply OnlyChanges.upd <;> first | exact fun q => absurd (by assumption) q | with_reducible exact fun _ => rfl | skip)
  all_goals first | exact fun _ => rfl | skip

theorem pulseAcc_only (k inc : Nat) {s : State} (kport : Part.port ∈ l_) (kenergy : Part.energy ∈ l_) (kstore : Part.store ∈ l_) (h_ : OnlyChanges l_ u_ s) : OnlyChanges l_ u_ (pulseAcc k inc s) := by
  unfold pulseAcc
  try dsimp only
  repeat' first | with_reducible assumption | with_reducible apply updPls_only | with_reducible apply event_only | with_reducible refine OnlyChanges.foldl ?_ (fun _ _ _ => ?_) | with_reducible apply OnlyChanges.ite | split | (with_reducible apply OnlyChanges.upd <;> first | exact fun q => absurd (by assumption) q | with_reducible exact fun _ => rfl | skip)
  all_goals first | exact fun _ => rfl | skip

theorem pulseJob_only (before : List Nat) {s : State} (kport : Part.port ∈ l_) (kenergy : Part.energy ∈ l_) (kstore : Part.store ∈ l_) (h_ : OnlyChanges l_ u_ s) : OnlyChanges l_ u_ (pulseJob before s) := by
  unfold pulseJob
  try dsimp only
  repeat' first | with_reducible assumption | with_reducible apply pulseAcc_only | with_reducible refine OnlyChanges.foldl ?_ (fun _ _ _ => ?_) | with_reducible apply OnlyChanges.ite | split | (with_reducible apply OnlyChanges.upd <;> first | exact fun q => absurd (by assumption) q | with_reducible exact fun _ => rfl | skip)
  all_goals first | exact fun _ => rfl | skip

theorem boundaryRetire_only  {s : State} (kstore : Part.store ∈ l_) (h_ : OnlyChanges l_ u_ s) : OnlyChanges l_ u_ (boundaryRetire s) := by
  unfold boundaryRetire
  try dsimp only
  repeat' first | with_reducible assumption | with_reducible apply metRetire_only | with_reducible refine OnlyChanges.foldl ?_ (fun _ _ _ => ?_) | with_reducible apply OnlyChanges.ite | split | (with_reducible apply OnlyChanges.upd <;> first | exact fun q => absurd (by assumption) q | with_reducible exact fun _ => rfl | skip)
  all_goals first | exact fun _ => rfl | skip

theorem writeSlot_only (c : Slot) {s : State} (kenergy : Part.energy ∈ l_) (kstore : Part.store ∈ l_) (h_ : OnlyChanges l_ u_ s) : OnlyChanges l_ u_ (writeSlot c s) := by
  unfold writeSlot
  try dsimp only
  repeat' first | with_reducible assumption | with_reducible apply boundaryRetire_only | with_reducible refine OnlyChanges.foldl ?_ (fun _ _ _ => ?_) | with_reducible apply OnlyChanges.ite | split | (with_reducible apply OnlyChanges.upd <;> first | exact fun q => absurd (by assumption) q | with_reducible exact fun _ => rfl | skip)
  all_goals first | exact fun _ => rfl | skip

theorem finishSave_only  {s : State} (kenergy : Part.energy ∈ l_) (kstore : Part.store ∈ l_) (h_ : OnlyChanges l_ u_ s) : OnlyChanges l_ u_ (finishSave s) := by
  unfold finishSave
  try dsimp only
  repeat' first | with_reducible assumption | with_reducible apply writeSlot_only | with_reducible refine OnlyChanges.foldl ?_ (fun _ _ _ => ?_) | with_reducible apply OnlyChanges.ite | split | (with_reducible apply OnlyChanges.upd <;> first | exact fun q => absurd (by assumption) q | with_reducible exact fun _ => rfl | skip)
  all_goals first | exact fun _ => rfl | skip

theorem finalSave_only  {s : State} (kenergy : Part.energy ∈ l_) (kstore : Part.store ∈ l_) (h_ : OnlyChanges l_ u_ s) : OnlyChanges l_ u_ (finalSave s) := by
  unfold finalSave
  try dsimp only
  repeat' first | with_reducible assumption | with_reducible apply finishSave_only | with_reducible apply writeSlot_only | with_reducible refine OnlyChanges.foldl ?_ (fun _ _ _ => ?_) | with_reducible apply OnlyChanges.ite | split | (with_reducible apply OnlyChanges.upd <;> first | exact fun q => absurd (by assumption) q | with_reducible exact fun _ => rfl | skip)
  all_goals first | exact fun _ => rfl | skip

theorem pipelineCut_only  {s : State} (kenergy : Part.energy ∈ l_) (h_ : OnlyChanges l_ u_ s) : OnlyChanges l_ u_ (pipelineCut s) := by
  unfold pipelineCut
  try dsimp only
  repeat' first | with_reducible assumption | with_reducible apply setSessionFlag_only | with_reducible apply updEng_only | with_reducible refine OnlyChanges.foldl ?_ (fun _ _ _ => ?_) | with_reducible apply OnlyChanges.ite | split | (with_reducible apply OnlyChanges.upd <;> first | exact fun q => absurd (by assumption) q | with_reducible exact fun _ => rfl | skip)
  all_goals first | exact fun _ => rfl | skip

theorem updTone_only (n : Nat) (f : ToneState → ToneState) {s : State} (kfe : Part.fe ∈ l_) (h_ : OnlyChanges l_ u_ s) : OnlyChanges l_ u_ (updTone n f s) := by
  unfold updTone
  try dsimp only
  repeat' first | with_reducible assumption | with_reducible refine OnlyChanges.foldl ?_ (fun _ _ _ => ?_) | with_reducible apply OnlyChanges.ite | split | (with_reducible apply OnlyChanges.upd <;> first | exact fun q => absurd (by assumption) q | with_reducible exact fun _ => rfl | skip)
  all_goals first | exact fun _ => rfl | skip

theorem toneFrame_only  {s : State} (kfe : Part.fe ∈ l_) (h_ : OnlyChanges l_ u_ s) : OnlyChanges l_ u_ (toneFrame s) := by
  unfold toneFrame
  try dsimp only
  repeat' first | with_reducible assumption | with_reducible refine OnlyChanges.foldl ?_ (fun _ _ _ => ?_) | with_reducible apply OnlyChanges.ite | split | (with_reducible apply OnlyChanges.upd <;> first | exact fun q => absurd (by assumption) q | with_reducible exact fun _ => rfl | skip)
  all_goals first | exact fun _ => rfl | skip

theorem witnessSuper_only (n : Nat) {s : State} (kport : Part.port ∈ l_) (kenergy : Part.energy ∈ l_) (kstore : Part.store ∈ l_) (h_ : OnlyChanges l_ u_ s) : OnlyChanges l_ u_ (witnessSuper n s) := by
  unfold witnessSuper
  try dsimp only
  repeat' first | with_reducible assumption | with_reducible apply updEng_only | with_reducible apply setWarn_only | with_reducible refine OnlyChanges.foldl ?_ (fun _ _ _ => ?_) | with_reducible apply OnlyChanges.ite | split | (with_reducible apply OnlyChanges.upd <;> first | exact fun q => absurd (by assumption) q | with_reducible exact fun _ => rfl | skip)
  all_goals first | exact fun _ => rfl | skip

theorem toneWindow_only (n : Nat) (i q : Int) (ok : Bool) {s : State} (kport : Part.port ∈ l_) (kfe : Part.fe ∈ l_) (kenergy : Part.energy ∈ l_) (kstore : Part.store ∈ l_) (h_ : OnlyChanges l_ u_ s) : OnlyChanges l_ u_ (toneWindow n i q ok s) := by
  unfold toneWindow
  try dsimp only
  repeat' first | with_reducible assumption | with_reducible apply updTone_only | with_reducible apply setWarn_only | with_reducible refine OnlyChanges.foldl ?_ (fun _ _ _ => ?_) | with_reducible apply OnlyChanges.ite | split | (with_reducible apply OnlyChanges.upd <;> first | exact fun q => absurd (by assumption) q | with_reducible exact fun _ => rfl | skip)
  all_goals first | exact fun _ => rfl | skip

theorem meterWarnClearCmd_only (p : List Byte) {s : State} (kport : Part.port ∈ l_) (kenergy : Part.energy ∈ l_) (klog : Part.log ∈ l_) (ktag : Part.tag ∈ l_) (kstore : Part.store ∈ l_) (h_ : OnlyChanges l_ u_ s) : OnlyChanges l_ u_ (meterWarnClearCmd p s).run.st := by
  unfold meterWarnClearCmd
  try dsimp only
  repeat' first | with_reducible assumption | with_reducible apply updEng_only | with_reducible apply sign_only | with_reducible apply event_only | with_reducible refine OnlyChanges.foldl ?_ (fun _ _ _ => ?_) | with_reducible apply OnlyChanges.ite | split | (with_reducible apply OnlyChanges.upd <;> first | exact fun q => absurd (by assumption) q | with_reducible exact fun _ => rfl | skip)
  all_goals first | exact fun _ => rfl | skip

theorem energyJobs_only  {s : State} (kport : Part.port ∈ l_) (kenergy : Part.energy ∈ l_) (kbilling : Part.billing ∈ l_) (kstore : Part.store ∈ l_) (h_ : OnlyChanges l_ u_ s) : OnlyChanges l_ u_ (energyJobs s) := by
  unfold energyJobs
  try dsimp only
  repeat' first | with_reducible assumption | with_reducible apply pulseJob_only | with_reducible apply energyJob_only | with_reducible refine OnlyChanges.foldl ?_ (fun _ _ _ => ?_) | with_reducible apply OnlyChanges.ite | split | (with_reducible apply OnlyChanges.upd <;> first | exact fun q => absurd (by assumption) q | with_reducible exact fun _ => rfl | skip)
  all_goals first | exact fun _ => rfl | skip

theorem pulsePads_only  {s : State} (kenergy : Part.energy ∈ l_) (h_ : OnlyChanges l_ u_ s) : OnlyChanges l_ u_ (pulsePads s) := by
  unfold pulsePads
  try dsimp only
  repeat' first | with_reducible assumption | with_reducible apply pulseTick_only | with_reducible refine OnlyChanges.foldl ?_ (fun _ _ _ => ?_) | with_reducible apply OnlyChanges.ite | split | (with_reducible apply OnlyChanges.upd <;> first | exact fun q => absurd (by assumption) q | with_reducible exact fun _ => rfl | skip)
  all_goals first | exact fun _ => rfl | skip

theorem takeSave_only  {s : State} (kenergy : Part.energy ∈ l_) (h_ : OnlyChanges l_ u_ s) : OnlyChanges l_ u_ (takeSave s) := by
  unfold takeSave
  try dsimp only
  repeat' first | with_reducible assumption | with_reducible refine OnlyChanges.foldl ?_ (fun _ _ _ => ?_) | with_reducible apply OnlyChanges.ite | split | (with_reducible apply OnlyChanges.upd <;> first | exact fun q => absurd (by assumption) q | with_reducible exact fun _ => rfl | skip)
  all_goals first | exact fun _ => rfl | skip

theorem energyFrame_only  {s : State} (kport : Part.port ∈ l_) (kenergy : Part.energy ∈ l_) (kbilling : Part.billing ∈ l_) (kstore : Part.store ∈ l_) (h_ : OnlyChanges l_ u_ s) : OnlyChanges l_ u_ (energyFrame s) := by
  unfold energyFrame
  try dsimp only
  repeat' first | with_reducible assumption | with_reducible apply takeSave_only | with_reducible apply pulsePads_only | with_reducible apply energyJobs_only | with_reducible refine OnlyChanges.foldl ?_ (fun _ _ _ => ?_) | with_reducible apply OnlyChanges.ite | split | (with_reducible apply OnlyChanges.upd <;> first | exact fun q => absurd (by assumption) q | with_reducible exact fun _ => rfl | skip)
  all_goals first | exact fun _ => rfl | skip

end Sys2Proof.Machine
end

