-- ==== Sys2Proof/Laws/OnlyFilters.lean ====
section
/-!
SUPPORT. The frames of the operations of Machine/Filters.lean (OnlyChanges, for every list that holds the parts they touch).
-/

namespace Sys2Proof.Machine

set_option linter.all false

open Sys2Proof.Safety

variable {l_ : List Part} {u_ : State}

theorem updIn'_only (n x : Nat) (f : ModInput → ModInput) {s : State} (kfe : Part.fe ∈ l_) (h_ : OnlyChanges l_ u_ s) : OnlyChanges l_ u_ (updIn' n x f s) := by
  unfold updIn'
  try dsimp only
  repeat' first | with_reducible assumption | with_reducible refine OnlyChanges.foldl ?_ (fun _ _ _ => ?_) | with_reducible apply OnlyChanges.ite | split | (with_reducible apply OnlyChanges.upd <;> first | exact fun q => absurd (by assumption) q | with_reducible exact fun _ => rfl | skip)
  all_goals first | exact fun _ => rfl | skip

theorem updEngine_only (e : Nat) (f : Engine → Engine) {s : State} (kfe : Part.fe ∈ l_) (h_ : OnlyChanges l_ u_ s) : OnlyChanges l_ u_ (updEngine e f s) := by
  unfold updEngine
  try dsimp only
  repeat' first | with_reducible assumption | with_reducible refine OnlyChanges.foldl ?_ (fun _ _ _ => ?_) | with_reducible apply OnlyChanges.ite | split | (with_reducible apply OnlyChanges.upd <;> first | exact fun q => absurd (by assumption) q | with_reducible exact fun _ => rfl | skip)
  all_goals first | exact fun _ => rfl | skip

theorem cellsFrame_only (m : List (Nat × Nat × BitVec 1024)) {s : State} (kfe : Part.fe ∈ l_) (h_ : OnlyChanges l_ u_ s) : OnlyChanges l_ u_ (cellsFrame m s) := by
  unfold cellsFrame
  try dsimp only
  repeat' first | with_reducible assumption | with_reducible apply updIn'_only | with_reducible refine OnlyChanges.foldl ?_ (fun _ _ _ => ?_) | with_reducible apply OnlyChanges.ite | split | (with_reducible apply OnlyChanges.upd <;> first | exact fun q => absurd (by assumption) q | with_reducible exact fun _ => rfl | skip)
  all_goals first | exact fun _ => rfl | skip

theorem overRange_only  {s : State} (kfe : Part.fe ∈ l_) (h_ : OnlyChanges l_ u_ s) : OnlyChanges l_ u_ (overRange s) := by
  unfold overRange
  try dsimp only
  repeat' first | with_reducible assumption | with_reducible refine OnlyChanges.foldl ?_ (fun _ _ _ => ?_) | with_reducible apply OnlyChanges.ite | split | (with_reducible apply OnlyChanges.upd <;> first | exact fun q => absurd (by assumption) q | with_reducible exact fun _ => rfl | skip)
  all_goals first | exact fun _ => rfl | skip

theorem handOver_only (e : Nat) {s : State} (kfe : Part.fe ∈ l_) (h_ : OnlyChanges l_ u_ s) : OnlyChanges l_ u_ (handOver e s) := by
  unfold handOver
  try dsimp only
  repeat' first | with_reducible assumption | with_reducible apply updEngine_only | with_reducible refine OnlyChanges.foldl ?_ (fun _ _ _ => ?_) | with_reducible apply OnlyChanges.ite | split | (with_reducible apply OnlyChanges.upd <;> first | exact fun q => absurd (by assumption) q | with_reducible exact fun _ => rfl | skip)
  all_goals first | exact fun _ => rfl | skip

theorem periodStart_only (e : Nat) {s : State} (kfe : Part.fe ∈ l_) (h_ : OnlyChanges l_ u_ s) : OnlyChanges l_ u_ (periodStart e s) := by
  unfold periodStart
  try dsimp only
  repeat' first | with_reducible assumption | with_reducible apply updEngine_only | with_reducible refine OnlyChanges.foldl ?_ (fun _ _ _ => ?_) | with_reducible apply OnlyChanges.ite | split | (with_reducible apply OnlyChanges.upd <;> first | exact fun q => absurd (by assumption) q | with_reducible exact fun _ => rfl | skip)
  all_goals first | exact fun _ => rfl | skip

theorem startEngines_only  {s : State} (kfe : Part.fe ∈ l_) (h_ : OnlyChanges l_ u_ s) : OnlyChanges l_ u_ (startEngines s) := by
  unfold startEngines
  try dsimp only
  repeat' first | with_reducible assumption | with_reducible refine OnlyChanges.foldl ?_ (fun _ _ _ => ?_) | with_reducible apply OnlyChanges.ite | split | (with_reducible apply OnlyChanges.upd <;> first | exact fun q => absurd (by assumption) q | with_reducible exact fun _ => rfl | skip)
  all_goals first | exact fun _ => rfl | skip

end Sys2Proof.Machine
end

