-- ==== Sys2Proof/Laws/OnlyFrontEnd.lean ====
section
/-!
SUPPORT. The frames of the operations of Machine/FrontEnd.lean (OnlyChanges, for every list that holds the parts they touch).
-/

namespace Sys2Proof.Machine

set_option linter.all false

open Sys2Proof.Safety

variable {l_ : List Part} {u_ : State}

theorem metrologyFault_only (outs : List Nat) {s : State} (kport : Part.port ∈ l_) (kfaults : Part.faults ∈ l_) (kease : Part.ease ∈ l_) (kbilling : Part.billing ∈ l_) (klink : Part.link ∈ l_) (ksw : Part.sw ∈ l_) (kstore : Part.store ∈ l_) (h_ : OnlyChanges l_ u_ s) : OnlyChanges l_ u_ (metrologyFault outs s) := by
  unfold metrologyFault
  try dsimp only
  repeat' first | with_reducible assumption | with_reducible apply demandStop_only | with_reducible refine OnlyChanges.foldl ?_ (fun _ _ _ => ?_) | with_reducible apply OnlyChanges.ite | split | (with_reducible apply OnlyChanges.upd <;> first | exact fun q => absurd (by assumption) q | with_reducible exact fun _ => rfl | skip)
  all_goals first | exact fun _ => rfl | skip

theorem updIns_only (n : Nat) (f : Insul → Insul) {s : State} (ksw : Part.sw ∈ l_) (h_ : OnlyChanges l_ u_ s) : OnlyChanges l_ u_ (updIns n f s) := by
  unfold updIns
  try dsimp only
  repeat' first | with_reducible assumption | with_reducible refine OnlyChanges.foldl ?_ (fun _ _ _ => ?_) | with_reducible apply OnlyChanges.ite | split | (with_reducible apply OnlyChanges.upd <;> first | exact fun q => absurd (by assumption) q | with_reducible exact fun _ => rfl | skip)
  all_goals first | exact fun _ => rfl | skip

theorem proofLapses_only (n : Nat) {s : State} (ksw : Part.sw ∈ l_) (h_ : OnlyChanges l_ u_ s) : OnlyChanges l_ u_ (proofLapses n s) := by
  unfold proofLapses
  try dsimp only
  repeat' first | with_reducible assumption | with_reducible apply updSq_only | with_reducible apply updIns_only | with_reducible refine OnlyChanges.foldl ?_ (fun _ _ _ => ?_) | with_reducible apply OnlyChanges.ite | split | (with_reducible apply OnlyChanges.upd <;> first | exact fun q => absurd (by assumption) q | with_reducible exact fun _ => rfl | skip)
  all_goals first | exact fun _ => rfl | skip

theorem invalidReaction_only (n x : Nat) {s : State} (kport : Part.port ∈ l_) (kease : Part.ease ∈ l_) (kenergy : Part.energy ∈ l_) (kbilling : Part.billing ∈ l_) (klink : Part.link ∈ l_) (ksw : Part.sw ∈ l_) (kstore : Part.store ∈ l_) (h_ : OnlyChanges l_ u_ s) : OnlyChanges l_ u_ (invalidReaction n x s) := by
  unfold invalidReaction
  try dsimp only
  repeat' first | with_reducible assumption | with_reducible apply demandStop_only | with_reducible apply fastStop_only | with_reducible apply setWarn_only | with_reducible apply updEng_only | with_reducible apply proofLapses_only | with_reducible refine OnlyChanges.foldl ?_ (fun _ _ _ => ?_) | with_reducible apply OnlyChanges.ite | split | (with_reducible apply OnlyChanges.upd <;> first | exact fun q => absurd (by assumption) q | with_reducible exact fun _ => rfl | skip)
  all_goals first | exact fun _ => rfl | skip

theorem invalidate_only (n x cause : Nat) {s : State} (kport : Part.port ∈ l_) (kease : Part.ease ∈ l_) (kfe : Part.fe ∈ l_) (kenergy : Part.energy ∈ l_) (kbilling : Part.billing ∈ l_) (klink : Part.link ∈ l_) (ksw : Part.sw ∈ l_) (kstore : Part.store ∈ l_) (h_ : OnlyChanges l_ u_ s) : OnlyChanges l_ u_ (invalidate n x cause s) := by
  unfold invalidate
  try dsimp only
  repeat' first | with_reducible assumption | with_reducible apply updIn'_only | with_reducible apply event_only | with_reducible apply invalidReaction_only | with_reducible refine OnlyChanges.foldl ?_ (fun _ _ _ => ?_) | with_reducible apply OnlyChanges.ite | split | (with_reducible apply OnlyChanges.upd <;> first | exact fun q => absurd (by assumption) q | with_reducible exact fun _ => rfl | skip)
  all_goals first | exact fun _ => rfl | skip

theorem modPllLost_only (cycle : Nat) {s : State} (kport : Part.port ∈ l_) (kfaults : Part.faults ∈ l_) (kease : Part.ease ∈ l_) (kfe : Part.fe ∈ l_) (kenergy : Part.energy ∈ l_) (kbilling : Part.billing ∈ l_) (klink : Part.link ∈ l_) (ksw : Part.sw ∈ l_) (kstore : Part.store ∈ l_) (h_ : OnlyChanges l_ u_ s) : OnlyChanges l_ u_ (modPllLost cycle s) := by
  unfold modPllLost
  try dsimp only
  repeat' first | with_reducible assumption | with_reducible apply reportFrom_only | with_reducible apply invalidate_only | with_reducible apply metrologyFault_only | with_reducible refine OnlyChanges.foldl ?_ (fun _ _ _ => ?_) | with_reducible apply OnlyChanges.ite | split | (with_reducible apply OnlyChanges.upd <;> first | exact fun q => absurd (by assumption) q | with_reducible exact fun _ => rfl | skip)
  all_goals first | exact fun _ => rfl | skip

theorem decimatorReset_only (source : Nat) {s : State} (kfe : Part.fe ∈ l_) (h_ : OnlyChanges l_ u_ s) : OnlyChanges l_ u_ (decimatorReset source s) := by
  unfold decimatorReset
  try dsimp only
  repeat' first | with_reducible assumption | with_reducible refine OnlyChanges.foldl ?_ (fun _ _ _ => ?_) | with_reducible apply OnlyChanges.ite | split | (with_reducible apply OnlyChanges.upd <;> first | exact fun q => absurd (by assumption) q | with_reducible exact fun _ => rfl | skip)
  all_goals first | exact fun _ => rfl | skip

theorem syncDone_only (result source : Nat) (ack : Bool) {s : State} (kport : Part.port ∈ l_) (kstore : Part.store ∈ l_) (h_ : OnlyChanges l_ u_ s) : OnlyChanges l_ u_ (syncDone result source ack s) := by
  unfold syncDone
  try dsimp only
  repeat' first | with_reducible assumption | with_reducible apply emit_only | with_reducible refine OnlyChanges.foldl ?_ (fun _ _ _ => ?_) | with_reducible apply OnlyChanges.ite | split | (with_reducible apply OnlyChanges.upd <;> first | exact fun q => absurd (by assumption) q | with_reducible exact fun _ => rfl | skip)
  all_goals first | exact fun _ => rfl | skip

theorem syncCmd_only (h : Hdr) (p : List Byte) {s : State} (kport : Part.port ∈ l_) (kfe : Part.fe ∈ l_) (kstore : Part.store ∈ l_) (h_ : OnlyChanges l_ u_ s) : OnlyChanges l_ u_ (syncCmd h p s).run.st := by
  unfold syncCmd
  try dsimp only
  repeat' first | with_reducible assumption | with_reducible apply cancelSync_only | with_reducible apply syncDone_only | with_reducible refine OnlyChanges.foldl ?_ (fun _ _ _ => ?_) | with_reducible apply OnlyChanges.ite | split | (with_reducible apply OnlyChanges.upd <;> first | exact fun q => absurd (by assumption) q | with_reducible exact fun _ => rfl | skip)
  all_goals first | exact fun _ => rfl | skip

theorem coefLoadCmd_only (p : List Byte) {s : State} (kfe : Part.fe ∈ l_) (h_ : OnlyChanges l_ u_ s) : OnlyChanges l_ u_ (coefLoadCmd p s).run.st := by
  unfold coefLoadCmd
  try dsimp only
  repeat' first | with_reducible assumption | with_reducible refine OnlyChanges.foldl ?_ (fun _ _ _ => ?_) | with_reducible apply OnlyChanges.ite | split | (with_reducible apply OnlyChanges.upd <;> first | exact fun q => absurd (by assumption) q | with_reducible exact fun _ => rfl | skip)
  all_goals first | exact fun _ => rfl | skip

theorem pathSelectCmd_only (h : Hdr) (p : List Byte) {s : State} (kfe : Part.fe ∈ l_) (h_ : OnlyChanges l_ u_ s) : OnlyChanges l_ u_ (pathSelectCmd h p s).run.st := by
  unfold pathSelectCmd
  try dsimp only
  repeat' first | with_reducible assumption | with_reducible refine OnlyChanges.foldl ?_ (fun _ _ _ => ?_) | with_reducible apply OnlyChanges.ite | split | (with_reducible apply OnlyChanges.upd <;> first | exact fun q => absurd (by assumption) q | with_reducible exact fun _ => rfl | skip)
  all_goals first | exact fun _ => rfl | skip

theorem captureStartCmd_only (h : Hdr) (p : List Byte) {s : State} (kfe : Part.fe ∈ l_) (h_ : OnlyChanges l_ u_ s) : OnlyChanges l_ u_ (captureStartCmd h p s).run.st := by
  unfold captureStartCmd
  try dsimp only
  repeat' first | with_reducible assumption | with_reducible refine OnlyChanges.foldl ?_ (fun _ _ _ => ?_) | with_reducible apply OnlyChanges.ite | split | (with_reducible apply OnlyChanges.upd <;> first | exact fun q => absurd (by assumption) q | with_reducible exact fun _ => rfl | skip)
  all_goals first | exact fun _ => rfl | skip

theorem captureTake_only (n x path : Nat) (y : Sample) {s : State} (kfe : Part.fe ∈ l_) (h_ : OnlyChanges l_ u_ s) : OnlyChanges l_ u_ (captureTake n x path y s) := by
  unfold captureTake
  try dsimp only
  repeat' first | with_reducible assumption | with_reducible refine OnlyChanges.foldl ?_ (fun _ _ _ => ?_) | with_reducible apply OnlyChanges.ite | split | (with_reducible apply OnlyChanges.upd <;> first | exact fun q => absurd (by assumption) q | with_reducible exact fun _ => rfl | skip)
  all_goals first | exact fun _ => rfl | skip

theorem captureFast_only  {s : State} (kfe : Part.fe ∈ l_) (h_ : OnlyChanges l_ u_ s) : OnlyChanges l_ u_ (captureFast s) := by
  unfold captureFast
  try dsimp only
  repeat' first | with_reducible assumption | with_reducible apply captureTake_only | with_reducible refine OnlyChanges.foldl ?_ (fun _ _ _ => ?_) | with_reducible apply OnlyChanges.ite | split | (with_reducible apply OnlyChanges.upd <;> first | exact fun q => absurd (by assumption) q | with_reducible exact fun _ => rfl | skip)
  all_goals first | exact fun _ => rfl | skip

theorem captureEnd_only (c : Capture) (result : Nat) (recs : List (Int × Nat × Nat)) (legal : Nat) {s : State} (kport : Part.port ∈ l_) (kfe : Part.fe ∈ l_) (kstore : Part.store ∈ l_) (h_ : OnlyChanges l_ u_ s) : OnlyChanges l_ u_ (captureEnd c result recs legal s) := by
  unfold captureEnd
  try dsimp only
  repeat' first | with_reducible assumption | with_reducible apply emit_only | with_reducible refine OnlyChanges.foldl ?_ (fun _ _ _ => ?_) | with_reducible apply OnlyChanges.ite | split | (with_reducible apply OnlyChanges.upd <;> first | exact fun q => absurd (by assumption) q | with_reducible exact fun _ => rfl | skip)
  all_goals first | exact fun _ => rfl | skip

theorem plumbTake_only (n : Nat) (y3 y4 : Sample) {s : State} (kfe : Part.fe ∈ l_) (h_ : OnlyChanges l_ u_ s) : OnlyChanges l_ u_ (plumbTake n y3 y4 s) := by
  unfold plumbTake
  try dsimp only
  repeat' first | with_reducible assumption | with_reducible refine OnlyChanges.foldl ?_ (fun _ _ _ => ?_) | with_reducible apply OnlyChanges.ite | split | (with_reducible apply OnlyChanges.upd <;> first | exact fun q => absurd (by assumption) q | with_reducible exact fun _ => rfl | skip)
  all_goals first | exact fun _ => rfl | skip

theorem controlInput_only (n x j : Nat) {s : State} (kfe : Part.fe ∈ l_) (h_ : OnlyChanges l_ u_ s) : OnlyChanges l_ u_ (controlInput n x j s) := by
  unfold controlInput
  try dsimp only
  repeat' first | with_reducible assumption | with_reducible apply captureTake_only | with_reducible apply updIn'_only | with_reducible refine OnlyChanges.foldl ?_ (fun _ _ _ => ?_) | with_reducible apply OnlyChanges.ite | split | (with_reducible apply OnlyChanges.upd <;> first | exact fun q => absurd (by assumption) q | with_reducible exact fun _ => rfl | skip)
  all_goals first | exact fun _ => rfl | skip

theorem fadeMade_only (path n j : Nat) {s : State} (kfe : Part.fe ∈ l_) (h_ : OnlyChanges l_ u_ s) : OnlyChanges l_ u_ (fadeMade path n j s) := by
  unfold fadeMade
  try dsimp only
  repeat' first | with_reducible assumption | with_reducible refine OnlyChanges.foldl ?_ (fun _ _ _ => ?_) | with_reducible apply OnlyChanges.ite | split | (with_reducible apply OnlyChanges.upd <;> first | exact fun q => absurd (by assumption) q | with_reducible exact fun _ => rfl | skip)
  all_goals first | exact fun _ => rfl | skip

theorem controlOutlet_only (n j : Nat) {s : State} (kfe : Part.fe ∈ l_) (h_ : OnlyChanges l_ u_ s) : OnlyChanges l_ u_ (controlOutlet n j s) := by
  unfold controlOutlet
  try dsimp only
  repeat' first | with_reducible assumption | with_reducible apply fadeMade_only | with_reducible apply controlInput_only | with_reducible refine OnlyChanges.foldl ?_ (fun _ _ _ => ?_) | with_reducible apply OnlyChanges.ite | split | (with_reducible apply OnlyChanges.upd <;> first | exact fun q => absurd (by assumption) q | with_reducible exact fun _ => rfl | skip)
  all_goals first | exact fun _ => rfl | skip

theorem captureDiag_only (n x : Nat) (y : Sample) {s : State} (kfe : Part.fe ∈ l_) (h_ : OnlyChanges l_ u_ s) : OnlyChanges l_ u_ (captureDiag n x y s) := by
  unfold captureDiag
  try dsimp only
  repeat' first | with_reducible assumption | with_reducible apply captureTake_only | with_reducible refine OnlyChanges.foldl ?_ (fun _ _ _ => ?_) | with_reducible apply OnlyChanges.ite | split | (with_reducible apply OnlyChanges.upd <;> first | exact fun q => absurd (by assumption) q | with_reducible exact fun _ => rfl | skip)
  all_goals first | exact fun _ => rfl | skip

theorem diagPlace_only (n j q : Nat) {s : State} (kfe : Part.fe ∈ l_) (h_ : OnlyChanges l_ u_ s) : OnlyChanges l_ u_ (diagPlace n j q s) := by
  unfold diagPlace
  try dsimp only
  repeat' first | with_reducible assumption | with_reducible apply updTone_only | with_reducible apply captureDiag_only | with_reducible refine OnlyChanges.foldl ?_ (fun _ _ _ => ?_) | with_reducible apply OnlyChanges.ite | split | (with_reducible apply OnlyChanges.upd <;> first | exact fun q => absurd (by assumption) q | with_reducible exact fun _ => rfl | skip)
  all_goals first | exact fun _ => rfl | skip

theorem diagOutlet_only (n j : Nat) {s : State} (kfe : Part.fe ∈ l_) (h_ : OnlyChanges l_ u_ s) : OnlyChanges l_ u_ (diagOutlet n j s) := by
  unfold diagOutlet
  try dsimp only
  repeat' first | with_reducible assumption | with_reducible apply fadeMade_only | with_reducible apply diagPlace_only | with_reducible refine OnlyChanges.foldl ?_ (fun _ _ _ => ?_) | with_reducible apply OnlyChanges.ite | split | (with_reducible apply OnlyChanges.upd <;> first | exact fun q => absurd (by assumption) q | with_reducible exact fun _ => rfl | skip)
  all_goals first | exact fun _ => rfl | skip

theorem billingOutlet_only (n : Nat) (p : Nat × Nat) {s : State} (kfe : Part.fe ∈ l_) (kenergy : Part.energy ∈ l_) (h_ : OnlyChanges l_ u_ s) : OnlyChanges l_ u_ (billingOutlet n p s) := by
  unfold billingOutlet
  try dsimp only
  repeat' first | with_reducible assumption | with_reducible apply billDelivered_only | with_reducible apply plumbTake_only | with_reducible apply captureTake_only | with_reducible refine OnlyChanges.foldl ?_ (fun _ _ _ => ?_) | with_reducible apply OnlyChanges.ite | split | (with_reducible apply OnlyChanges.upd <;> first | exact fun q => absurd (by assumption) q | with_reducible exact fun _ => rfl | skip)
  all_goals first | exact fun _ => rfl | skip

theorem engineFrame_only (e : Nat) {s : State} (kfe : Part.fe ∈ l_) (kenergy : Part.energy ∈ l_) (h_ : OnlyChanges l_ u_ s) : OnlyChanges l_ u_ (engineFrame s e) := by
  unfold engineFrame
  try dsimp only
  repeat' first | with_reducible assumption | with_reducible apply periodStart_only | with_reducible apply handOver_only | with_reducible apply controlOutlet_only | with_reducible apply diagOutlet_only | with_reducible apply billingOutlet_only | with_reducible apply updEngine_only | with_reducible refine OnlyChanges.foldl ?_ (fun _ _ _ => ?_) | with_reducible apply OnlyChanges.ite | split | (with_reducible apply OnlyChanges.upd <;> first | exact fun q => absurd (by assumption) q | with_reducible exact fun _ => rfl | skip)
  all_goals first | exact fun _ => rfl | skip

theorem stuckFrame_only (m : List (Nat × Nat × BitVec 1024)) {s : State} (kport : Part.port ∈ l_) (kease : Part.ease ∈ l_) (kfe : Part.fe ∈ l_) (kenergy : Part.energy ∈ l_) (kbilling : Part.billing ∈ l_) (klink : Part.link ∈ l_) (ksw : Part.sw ∈ l_) (kstore : Part.store ∈ l_) (h_ : OnlyChanges l_ u_ s) : OnlyChanges l_ u_ (stuckFrame m s) := by
  unfold stuckFrame
  try dsimp only
  repeat' first | with_reducible assumption | with_reducible apply invalidate_only | with_reducible refine OnlyChanges.foldl ?_ (fun _ _ _ => ?_) | with_reducible apply OnlyChanges.ite | split | (with_reducible apply OnlyChanges.upd <;> first | exact fun q => absurd (by assumption) q | with_reducible exact fun _ => rfl | skip)
  all_goals first | exact fun _ => rfl | skip

theorem chainFrame_only (m : List (Nat × Nat × BitVec 1024)) {s : State} (kport : Part.port ∈ l_) (kease : Part.ease ∈ l_) (kfe : Part.fe ∈ l_) (kenergy : Part.energy ∈ l_) (kbilling : Part.billing ∈ l_) (klink : Part.link ∈ l_) (ksw : Part.sw ∈ l_) (kstore : Part.store ∈ l_) (h_ : OnlyChanges l_ u_ s) : OnlyChanges l_ u_ (chainFrame m s) := by
  unfold chainFrame
  try dsimp only
  repeat' first | with_reducible assumption | with_reducible apply engineFrame_only | with_reducible apply captureFast_only | with_reducible apply cellsFrame_only | with_reducible apply stuckFrame_only | with_reducible apply toneFrame_only | with_reducible refine OnlyChanges.foldl ?_ (fun _ _ _ => ?_) | with_reducible apply OnlyChanges.ite | split | (with_reducible apply OnlyChanges.upd <;> first | exact fun q => absurd (by assumption) q | with_reducible exact fun _ => rfl | skip)
  all_goals first | exact fun _ => rfl | skip

theorem loseValues_only (e : Nat) {s : State} (kfe : Part.fe ∈ l_) (h_ : OnlyChanges l_ u_ s) : OnlyChanges l_ u_ (loseValues e s) := by
  unfold loseValues
  try dsimp only
  repeat' first | with_reducible assumption | with_reducible apply updIn'_only | with_reducible apply updEngine_only | with_reducible refine OnlyChanges.foldl ?_ (fun _ _ _ => ?_) | with_reducible apply OnlyChanges.ite | split | (with_reducible apply OnlyChanges.upd <;> first | exact fun q => absurd (by assumption) q | with_reducible exact fun _ => rfl | skip)
  all_goals first | exact fun _ => rfl | skip

theorem loseControl_only (e : Nat) {s : State} (kfe : Part.fe ∈ l_) (h_ : OnlyChanges l_ u_ s) : OnlyChanges l_ u_ (loseControl e s) := by
  unfold loseControl
  try dsimp only
  repeat' first | with_reducible assumption | with_reducible apply updEngine_only | with_reducible refine OnlyChanges.foldl ?_ (fun _ _ _ => ?_) | with_reducible apply OnlyChanges.ite | split | (with_reducible apply OnlyChanges.upd <;> first | exact fun q => absurd (by assumption) q | with_reducible exact fun _ => rfl | skip)
  all_goals first | exact fun _ => rfl | skip

theorem loseBilling_only (e : Nat) {s : State} (kfe : Part.fe ∈ l_) (kenergy : Part.energy ∈ l_) (h_ : OnlyChanges l_ u_ s) : OnlyChanges l_ u_ (loseBilling e s) := by
  unfold loseBilling
  try dsimp only
  repeat' first | with_reducible assumption | with_reducible apply billLost_only | with_reducible apply updEngine_only | with_reducible refine OnlyChanges.foldl ?_ (fun _ _ _ => ?_) | with_reducible apply OnlyChanges.ite | split | (with_reducible apply OnlyChanges.upd <;> first | exact fun q => absurd (by assumption) q | with_reducible exact fun _ => rfl | skip)
  all_goals first | exact fun _ => rfl | skip

end Sys2Proof.Machine
end

