-- ==== Sys2Proof/Laws/OnlyHostPort.lean ====
section
/-!
SUPPORT. The frames of the operations of Machine/HostPort.lean (OnlyChanges, for every list that holds the parts they touch).
-/

namespace Sys2Proof.Machine

set_option linter.all false

open Sys2Proof.Safety

variable {l_ : List Part} {u_ : State}

theorem countOverrun_only  {s : State} (kport : Part.port ∈ l_) (h_ : OnlyChanges l_ u_ s) : OnlyChanges l_ u_ (countOverrun s) := by
  unfold countOverrun
  try dsimp only
  repeat' first | with_reducible assumption | with_reducible refine OnlyChanges.foldl ?_ (fun _ _ _ => ?_) | with_reducible apply OnlyChanges.ite | split | (with_reducible apply OnlyChanges.upd <;> first | exact fun q => absurd (by assumption) q | with_reducible exact fun _ => rfl | skip)
  all_goals first | exact fun _ => rfl | skip

theorem queueReply_only (r : Reply) {s : State} (kport : Part.port ∈ l_) (h_ : OnlyChanges l_ u_ s) : OnlyChanges l_ u_ (queueReply r s) := by
  unfold queueReply
  try dsimp only
  repeat' first | with_reducible assumption | with_reducible refine OnlyChanges.foldl ?_ (fun _ _ _ => ?_) | with_reducible apply OnlyChanges.ite | split | (with_reducible apply OnlyChanges.upd <;> first | exact fun q => absurd (by assumption) q | with_reducible exact fun _ => rfl | skip)
  all_goals first | exact fun _ => rfl | skip

theorem turnAway_only (h : Hdr) (opcode : Nat) (st : Status) {s : State} (kport : Part.port ∈ l_) (h_ : OnlyChanges l_ u_ s) : OnlyChanges l_ u_ (turnAway h opcode st s) := by
  unfold turnAway
  try dsimp only
  repeat' first | with_reducible assumption | with_reducible apply queueReply_only | with_reducible refine OnlyChanges.foldl ?_ (fun _ _ _ => ?_) | with_reducible apply OnlyChanges.ite | split | (with_reducible apply OnlyChanges.upd <;> first | exact fun q => absurd (by assumption) q | with_reducible exact fun _ => rfl | skip)
  all_goals first | exact fun _ => rfl | skip

theorem answer_only (h : Hdr) (opcode : Nat) (crc : BitVec 32) (st : Status) (data : List Byte) {s : State} (kport : Part.port ∈ l_) (h_ : OnlyChanges l_ u_ s) : OnlyChanges l_ u_ (answer h opcode crc st data s) := by
  unfold answer
  try dsimp only
  repeat' first | with_reducible assumption | with_reducible apply queueReply_only | with_reducible refine OnlyChanges.foldl ?_ (fun _ _ _ => ?_) | with_reducible apply OnlyChanges.ite | split | (with_reducible apply OnlyChanges.upd <;> first | exact fun q => absurd (by assumption) q | with_reducible exact fun _ => rfl | skip)
  all_goals first | exact fun _ => rfl | skip

theorem touchRole_only  {s : State} (kroles : Part.roles ∈ l_) (h_ : OnlyChanges l_ u_ s) : OnlyChanges l_ u_ (touchRole s) := by
  unfold touchRole
  try dsimp only
  repeat' first | with_reducible assumption | with_reducible refine OnlyChanges.foldl ?_ (fun _ _ _ => ?_) | with_reducible apply OnlyChanges.ite | split | (with_reducible apply OnlyChanges.upd <;> first | exact fun q => absurd (by assumption) q | with_reducible exact fun _ => rfl | skip)
  all_goals first | exact fun _ => rfl | skip

theorem finish_only (h : Hdr) (opcode : Nat) (crc : BitVec 32) (p : List Byte) {r : Result} (kport : Part.port ∈ l_) (h_ : OnlyChanges l_ u_ r.st) :
    OnlyChanges l_ u_ (finish h opcode crc p r) := by
  unfold finish
  repeat' first | with_reducible assumption | with_reducible apply turnAway_only | with_reducible apply answer_only | with_reducible refine OnlyChanges.foldl ?_ (fun _ _ _ => ?_) | with_reducible apply OnlyChanges.ite | split | (with_reducible apply OnlyChanges.upd <;> first | exact fun q => absurd (by assumption) q | with_reducible exact fun _ => rfl | skip)
  all_goals first | exact fun _ => rfl | skip

theorem spiShown_only (before : State) (dummy : Nat) (out : List Byte) {s : State} (kport : Part.port ∈ l_) (h_ : OnlyChanges l_ u_ s) : OnlyChanges l_ u_ (spiShown before dummy out s) := by
  unfold spiShown
  try dsimp only
  repeat' first | with_reducible assumption | with_reducible refine OnlyChanges.foldl ?_ (fun _ _ _ => ?_) | with_reducible apply OnlyChanges.ite | split | (with_reducible apply OnlyChanges.upd <;> first | exact fun q => absurd (by assumption) q | with_reducible exact fun _ => rfl | skip)
  all_goals first | exact fun _ => rfl | skip

theorem codeShifted_only (before : State) {s : State} (kport : Part.port ∈ l_) (h_ : OnlyChanges l_ u_ s) : OnlyChanges l_ u_ (codeShifted before s) := by
  unfold codeShifted
  with_reducible apply OnlyChanges.ite
  · refine spiShown_only _ _ _ kport ?_
    with_reducible apply OnlyChanges.upd h_ <;> first | with_reducible exact fun _ => rfl | exact fun q => absurd kport q
  · exact h_

theorem unheard_only  {s : State} (kport : Part.port ∈ l_) (h_ : OnlyChanges l_ u_ s) : OnlyChanges l_ u_ (unheard s) := by
  unfold unheard
  try dsimp only
  repeat' first | with_reducible assumption | with_reducible apply codeShifted_only | with_reducible refine OnlyChanges.foldl ?_ (fun _ _ _ => ?_) | with_reducible apply OnlyChanges.ite | split | (with_reducible apply OnlyChanges.upd <;> first | exact fun q => absurd (by assumption) q | with_reducible exact fun _ => rfl | skip)
  all_goals first | exact fun _ => rfl | skip

theorem packetTaken_only (h : Hdr) (opcode : Nat) (p : List Byte) {cmd : State → Cmd} {s : State} (kport : Part.port ∈ l_) (kroles : Part.roles ∈ l_) (h_ : OnlyChanges l_ u_ s)
    (hr_ : ∀ t, OnlyChanges l_ u_ t → OnlyChanges l_ u_ (cmd t).run.st) : OnlyChanges l_ u_ (packetTaken h opcode p cmd s) := by
  unfold packetTaken
  try dsimp only
  repeat' first | with_reducible assumption | split | with_reducible apply countOverrun_only | with_reducible apply touchRole_only | with_reducible apply queueReply_only | with_reducible apply answer_only | with_reducible apply turnAway_only | with_reducible apply finish_only | with_reducible apply hr_ | with_reducible apply OnlyChanges.upd
  all_goals first | exact fun q => absurd (by assumption) q | exact fun _ => rfl | skip

theorem acknowledge_only (seq : Byte) (code : Nat) {s : State} (kport : Part.port ∈ l_) (kfaults : Part.faults ∈ l_) (kstore : Part.store ∈ l_) (h_ : OnlyChanges l_ u_ s) : OnlyChanges l_ u_ (acknowledge seq code s) := by
  unfold acknowledge
  try dsimp only
  repeat' first | with_reducible assumption | with_reducible apply appRetire_only | with_reducible refine OnlyChanges.foldl ?_ (fun _ _ _ => ?_) | with_reducible apply OnlyChanges.ite | split | (with_reducible apply OnlyChanges.upd <;> first | exact fun q => absurd (by assumption) q | with_reducible exact fun _ => rfl | skip)
  all_goals first | exact fun _ => rfl | skip

theorem ackTaken_only (seq flags : Byte) (code len : Nat) {s : State} (kport : Part.port ∈ l_) (kfaults : Part.faults ∈ l_) (kstore : Part.store ∈ l_) (h_ : OnlyChanges l_ u_ s) : OnlyChanges l_ u_ (ackTaken seq flags code len s) := by
  unfold ackTaken
  try dsimp only
  repeat' first | with_reducible assumption | with_reducible apply countOverrun_only | with_reducible apply acknowledge_only | with_reducible refine OnlyChanges.foldl ?_ (fun _ _ _ => ?_) | with_reducible apply OnlyChanges.ite | split | (with_reducible apply OnlyChanges.upd <;> first | exact fun q => absurd (by assumption) q | with_reducible exact fun _ => rfl | skip)
  all_goals first | exact fun _ => rfl | skip

/-- A packet with REPLY and EVENT set, whatever command it names. -/
theorem hostCommand_ack (h : Hdr) (opcode : Nat) (p : List Byte) (cmd : State → Cmd) {s : State} (w_ : isAck h.flags = true)
    (kport : Part.port ∈ l_) (kfaults : Part.faults ∈ l_) (kstore : Part.store ∈ l_) (h_ : OnlyChanges l_ u_ s) :
    OnlyChanges l_ u_ (hostCommand h opcode p cmd s) := by
  unfold hostCommand
  rw [if_pos w_]
  with_reducible apply OnlyChanges.ite
  · exact unheard_only kport h_
  · exact codeShifted_only _ kport (ackTaken_only _ _ _ _ kport kfaults kstore h_)

theorem hostCommand_only (h : Hdr) (opcode : Nat) (p : List Byte) {cmd : State → Cmd} {s : State} (w_ : ¬ isAck h.flags = true)
    (kport : Part.port ∈ l_) (kroles : Part.roles ∈ l_) (h_ : OnlyChanges l_ u_ s)
    (hr_ : ∀ t, OnlyChanges l_ u_ t → OnlyChanges l_ u_ (cmd t).run.st) : OnlyChanges l_ u_ (hostCommand h opcode p cmd s) := by
  unfold hostCommand
  rw [if_neg w_]
  with_reducible apply OnlyChanges.ite
  · exact unheard_only kport h_
  · exact codeShifted_only _ kport (packetTaken_only _ _ _ kport kroles h_ hr_)

theorem answerAwaiting_only (a : Awaiting) (st : Status) (data : List Byte) {s : State} (kport : Part.port ∈ l_) (h_ : OnlyChanges l_ u_ s) : OnlyChanges l_ u_ (answerAwaiting a st data s) := by
  unfold answerAwaiting
  try dsimp only
  repeat' first | with_reducible assumption | with_reducible apply turnAway_only | with_reducible apply answer_only | with_reducible refine OnlyChanges.foldl ?_ (fun _ _ _ => ?_) | with_reducible apply OnlyChanges.ite | split | (with_reducible apply OnlyChanges.upd <;> first | exact fun q => absurd (by assumption) q | with_reducible exact fun _ => rfl | skip)
  all_goals first | exact fun _ => rfl | skip

theorem replyDelivered_only (r : Reply) {s : State} (krst : Part.rst ∈ l_) (kport : Part.port ∈ l_) (h_ : OnlyChanges l_ u_ s) : OnlyChanges l_ u_ (replyDelivered r s) := by
  unfold replyDelivered
  try dsimp only
  repeat' first | with_reducible assumption | with_reducible refine OnlyChanges.foldl ?_ (fun _ _ _ => ?_) | with_reducible apply OnlyChanges.ite | split | (with_reducible apply OnlyChanges.upd <;> first | exact fun q => absurd (by assumption) q | with_reducible exact fun _ => rfl | skip)
  all_goals first | exact fun _ => rfl | skip

theorem reportLost_only  {s : State} (kport : Part.port ∈ l_) (kstore : Part.store ∈ l_) (h_ : OnlyChanges l_ u_ s) : OnlyChanges l_ u_ (reportLost s) := by
  unfold reportLost
  try dsimp only
  repeat' first | with_reducible assumption | with_reducible apply event_only | with_reducible refine OnlyChanges.foldl ?_ (fun _ _ _ => ?_) | with_reducible apply OnlyChanges.ite | split | (with_reducible apply OnlyChanges.upd <;> first | exact fun q => absurd (by assumption) q | with_reducible exact fun _ => rfl | skip)
  all_goals first | exact fun _ => rfl | skip

theorem delivered_only (k : NextPacket) {s : State} (krst : Part.rst ∈ l_) (kport : Part.port ∈ l_) (kstore : Part.store ∈ l_) (h_ : OnlyChanges l_ u_ s) : OnlyChanges l_ u_ (delivered k s) := by
  unfold delivered
  try dsimp only
  repeat' first | with_reducible assumption | with_reducible apply replyDelivered_only | with_reducible apply reportLost_only | with_reducible refine OnlyChanges.foldl ?_ (fun _ _ _ => ?_) | with_reducible apply OnlyChanges.ite | split | (with_reducible apply OnlyChanges.upd <;> first | exact fun q => absurd (by assumption) q | with_reducible exact fun _ => rfl | skip)
  all_goals first | exact fun _ => rfl | skip

theorem unknownTaken_only (h : Hdr) (opcode : Nat) (p : List Byte) {s : State} (kport : Part.port ∈ l_) (kroles : Part.roles ∈ l_) (h_ : OnlyChanges l_ u_ s) : OnlyChanges l_ u_ (unknownTaken h opcode p s) := by
  unfold unknownTaken
  try dsimp only
  repeat' first | with_reducible assumption | with_reducible apply countOverrun_only | with_reducible apply queueReply_only | with_reducible apply touchRole_only | with_reducible apply turnAway_only | with_reducible refine OnlyChanges.foldl ?_ (fun _ _ _ => ?_) | with_reducible apply OnlyChanges.ite | split | (with_reducible apply OnlyChanges.upd <;> first | exact fun q => absurd (by assumption) q | with_reducible exact fun _ => rfl | skip)
  all_goals first | exact fun _ => rfl | skip

theorem crcErrorTaken_only (seq : Byte) {s : State} (kport : Part.port ∈ l_) (h_ : OnlyChanges l_ u_ s) : OnlyChanges l_ u_ (crcErrorTaken seq s) := by
  unfold crcErrorTaken
  try dsimp only
  repeat' first | with_reducible assumption | with_reducible apply countOverrun_only | with_reducible apply queueReply_only | with_reducible refine OnlyChanges.foldl ?_ (fun _ _ _ => ?_) | with_reducible apply OnlyChanges.ite | split | (with_reducible apply OnlyChanges.upd <;> first | exact fun q => absurd (by assumption) q | with_reducible exact fun _ => rfl | skip)
  all_goals first | exact fun _ => rfl | skip

theorem writeDiscarded_only (sync : Byte) (len received : Nat) {s : State} (kport : Part.port ∈ l_) (h_ : OnlyChanges l_ u_ s) : OnlyChanges l_ u_ (writeDiscarded sync len received s) := by
  unfold writeDiscarded
  try dsimp only
  repeat' first | with_reducible assumption | with_reducible apply countOverrun_only | with_reducible refine OnlyChanges.foldl ?_ (fun _ _ _ => ?_) | with_reducible apply OnlyChanges.ite | split | (with_reducible apply OnlyChanges.upd <;> first | exact fun q => absurd (by assumption) q | with_reducible exact fun _ => rfl | skip)
  all_goals first | exact fun _ => rfl | skip

end Sys2Proof.Machine
end

