-- ==== Sys2Proof/Laws/OnlyLink.lean ====
section
/-!
SUPPORT. The frames of the operations of Machine/Link.lean (OnlyChanges, for every list that holds the parts they touch).
-/

namespace Sys2Proof.Machine

set_option linter.all false

open Sys2Proof.Safety

variable {l_ : List Part} {u_ : State}

theorem stopLink_only (n cause last ms : Nat) {s : State} (kport : Part.port ∈ l_) (kease : Part.ease ∈ l_) (kbilling : Part.billing ∈ l_) (klink : Part.link ∈ l_) (ksw : Part.sw ∈ l_) (kstore : Part.store ∈ l_) (h_ : OnlyChanges l_ u_ s) : OnlyChanges l_ u_ (stopLink n cause last ms s) := by
  unfold stopLink
  try dsimp only
  repeat' first | with_reducible assumption | with_reducible apply linkEnd_only | with_reducible apply closeAt_only | with_reducible apply safeRampStop_only | with_reducible apply endAfterStop_only | with_reducible refine OnlyChanges.foldl ?_ (fun _ _ _ => ?_) | with_reducible apply OnlyChanges.ite | split | (with_reducible apply OnlyChanges.upd <;> first | exact fun q => absurd (by assumption) q | with_reducible exact fun _ => rfl | skip)
  all_goals first | exact fun _ => rfl | skip

theorem connect_only (n : Nat) {s : State} (kease : Part.ease ∈ l_) (klink : Part.link ∈ l_) (h_ : OnlyChanges l_ u_ s) : OnlyChanges l_ u_ (connect n s) := by
  unfold connect
  try dsimp only
  repeat' first | with_reducible assumption | with_reducible apply updLk_only | with_reducible apply submit_only | with_reducible refine OnlyChanges.foldl ?_ (fun _ _ _ => ?_) | with_reducible apply OnlyChanges.ite | split | (with_reducible apply OnlyChanges.upd <;> first | exact fun q => absurd (by assumption) q | with_reducible exact fun _ => rfl | skip)
  all_goals first | exact fun _ => rfl | skip

theorem leaveRefused_only (n : Nat) {s : State} (kport : Part.port ∈ l_) (klink : Part.link ∈ l_) (kstore : Part.store ∈ l_) (h_ : OnlyChanges l_ u_ s) : OnlyChanges l_ u_ (leaveRefused n s) := by
  unfold leaveRefused
  try dsimp only
  repeat' first | with_reducible assumption | with_reducible apply event_only | with_reducible apply updLk_only | with_reducible refine OnlyChanges.foldl ?_ (fun _ _ _ => ?_) | with_reducible apply OnlyChanges.ite | split | (with_reducible apply OnlyChanges.upd <;> first | exact fun q => absurd (by assumption) q | with_reducible exact fun _ => rfl | skip)
  all_goals first | exact fun _ => rfl | skip

theorem pilotRestart_only (n : Nat) {s : State} (kport : Part.port ∈ l_) (kease : Part.ease ∈ l_) (klink : Part.link ∈ l_) (kstore : Part.store ∈ l_) (h_ : OnlyChanges l_ u_ s) : OnlyChanges l_ u_ (pilotRestart n s) := by
  unfold pilotRestart
  try dsimp only
  repeat' first | with_reducible assumption | with_reducible apply linkEnd_only | with_reducible apply event_only | with_reducible apply releaseOpt_only | with_reducible apply updLk_only | with_reducible refine OnlyChanges.foldl ?_ (fun _ _ _ => ?_) | with_reducible apply OnlyChanges.ite | split | (with_reducible apply OnlyChanges.upd <;> first | exact fun q => absurd (by assumption) q | with_reducible exact fun _ => rfl | skip)
  all_goals first | exact fun _ => rfl | skip

theorem pilotFault_only (n kind : Nat) {s : State} (kport : Part.port ∈ l_) (kease : Part.ease ∈ l_) (kbilling : Part.billing ∈ l_) (klink : Part.link ∈ l_) (ksw : Part.sw ∈ l_) (kstore : Part.store ∈ l_) (h_ : OnlyChanges l_ u_ s) : OnlyChanges l_ u_ (pilotFault n kind s) := by
  unfold pilotFault
  try dsimp only
  repeat' first | with_reducible assumption | with_reducible apply stopLink_only | with_reducible apply event_only | with_reducible refine OnlyChanges.foldl ?_ (fun _ _ _ => ?_) | with_reducible apply OnlyChanges.ite | split | (with_reducible apply OnlyChanges.upd <;> first | exact fun q => absurd (by assumption) q | with_reducible exact fun _ => rfl | skip)
  all_goals first | exact fun _ => rfl | skip

theorem abandonSets_only (n : Nat) {s : State} (kport : Part.port ∈ l_) (klink : Part.link ∈ l_) (kstore : Part.store ∈ l_) (h_ : OnlyChanges l_ u_ s) : OnlyChanges l_ u_ (abandonSets n s) := by
  unfold abandonSets
  try dsimp only
  repeat' first | with_reducible assumption | with_reducible apply event_only | with_reducible refine OnlyChanges.foldl ?_ (fun _ _ _ => ?_) | with_reducible apply OnlyChanges.ite | split | (with_reducible apply OnlyChanges.upd <;> first | exact fun q => absurd (by assumption) q | with_reducible exact fun _ => rfl | skip)
  all_goals first | exact fun _ => rfl | skip

theorem pilotA_only (n : Nat) {s : State} (kport : Part.port ∈ l_) (kease : Part.ease ∈ l_) (kbilling : Part.billing ∈ l_) (klink : Part.link ∈ l_) (ksw : Part.sw ∈ l_) (kstore : Part.store ∈ l_) (h_ : OnlyChanges l_ u_ s) : OnlyChanges l_ u_ (pilotA n s) := by
  unfold pilotA
  try dsimp only
  repeat' first | with_reducible assumption | with_reducible apply stopLink_only | with_reducible apply dropLeave_only | with_reducible apply withdrawAuth_only | with_reducible apply updLk_only | with_reducible refine OnlyChanges.foldl ?_ (fun _ _ _ => ?_) | with_reducible apply OnlyChanges.ite | split | (with_reducible apply OnlyChanges.upd <;> first | exact fun q => absurd (by assumption) q | with_reducible exact fun _ => rfl | skip)
  all_goals first | exact fun _ => rfl | skip

theorem pilotB_only (n old : Nat) {s : State} (kport : Part.port ∈ l_) (kease : Part.ease ∈ l_) (kbilling : Part.billing ∈ l_) (klink : Part.link ∈ l_) (ksw : Part.sw ∈ l_) (kstore : Part.store ∈ l_) (h_ : OnlyChanges l_ u_ s) : OnlyChanges l_ u_ (pilotB n old s) := by
  unfold pilotB
  try dsimp only
  repeat' first | with_reducible assumption | with_reducible apply safeRampStop_only | with_reducible apply endAfterStop_only | with_reducible apply connect_only | with_reducible refine OnlyChanges.foldl ?_ (fun _ _ _ => ?_) | with_reducible apply OnlyChanges.ite | split | (with_reducible apply OnlyChanges.upd <;> first | exact fun q => absurd (by assumption) q | with_reducible exact fun _ => rfl | skip)
  all_goals first | exact fun _ => rfl | skip

theorem pilotF_only (n : Nat) {s : State} (kport : Part.port ∈ l_) (kease : Part.ease ∈ l_) (kbilling : Part.billing ∈ l_) (klink : Part.link ∈ l_) (ksw : Part.sw ∈ l_) (kstore : Part.store ∈ l_) (h_ : OnlyChanges l_ u_ s) : OnlyChanges l_ u_ (pilotF n s) := by
  unfold pilotF
  try dsimp only
  repeat' first | with_reducible assumption | with_reducible apply safeRampStop_only | with_reducible apply endAfterStop_only | with_reducible refine OnlyChanges.foldl ?_ (fun _ _ _ => ?_) | with_reducible apply OnlyChanges.ite | split | (with_reducible apply OnlyChanges.upd <;> first | exact fun q => absurd (by assumption) q | with_reducible exact fun _ => rfl | skip)
  all_goals first | exact fun _ => rfl | skip

theorem pilotActs_only (n old new : Nat) {s : State} (kport : Part.port ∈ l_) (kease : Part.ease ∈ l_) (kbilling : Part.billing ∈ l_) (klink : Part.link ∈ l_) (ksw : Part.sw ∈ l_) (kstore : Part.store ∈ l_) (h_ : OnlyChanges l_ u_ s) : OnlyChanges l_ u_ (pilotActs n old new s) := by
  unfold pilotActs
  try dsimp only
  repeat' first | with_reducible assumption | with_reducible apply pilotA_only | with_reducible apply pilotFault_only | with_reducible apply pilotF_only | with_reducible apply pilotB_only | with_reducible apply stopLink_only | with_reducible apply dropLeave_only | with_reducible refine OnlyChanges.foldl ?_ (fun _ _ _ => ?_) | with_reducible apply OnlyChanges.ite | split | (with_reducible apply OnlyChanges.upd <;> first | exact fun q => absurd (by assumption) q | with_reducible exact fun _ => rfl | skip)
  all_goals first | exact fun _ => rfl | skip

theorem pilotTo_only (n new : Nat) {s : State} (kport : Part.port ∈ l_) (kease : Part.ease ∈ l_) (kbilling : Part.billing ∈ l_) (klink : Part.link ∈ l_) (ksw : Part.sw ∈ l_) (kstore : Part.store ∈ l_) (h_ : OnlyChanges l_ u_ s) : OnlyChanges l_ u_ (pilotTo n new s) := by
  unfold pilotTo
  try dsimp only
  repeat' first | with_reducible assumption | with_reducible apply updLk_only | with_reducible apply event_only | with_reducible apply pilotActs_only | with_reducible apply abandonSets_only | with_reducible refine OnlyChanges.foldl ?_ (fun _ _ _ => ?_) | with_reducible apply OnlyChanges.ite | split | (with_reducible apply OnlyChanges.upd <;> first | exact fun q => absurd (by assumption) q | with_reducible exact fun _ => rfl | skip)
  all_goals first | exact fun _ => rfl | skip

theorem diodePeriod_only (n : Nat) {s : State} (klink : Part.link ∈ l_) (h_ : OnlyChanges l_ u_ s) : OnlyChanges l_ u_ (diodePeriod n s) := by
  unfold diodePeriod
  try dsimp only
  repeat' first | with_reducible assumption | with_reducible apply updLk_only | with_reducible refine OnlyChanges.foldl ?_ (fun _ _ _ => ?_) | with_reducible apply OnlyChanges.ite | split | (with_reducible apply OnlyChanges.upd <;> first | exact fun q => absurd (by assumption) q | with_reducible exact fun _ => rfl | skip)
  all_goals first | exact fun _ => rfl | skip

theorem negativePlateau_only (n : Nat) (mv : Int) {s : State} (kport : Part.port ∈ l_) (kease : Part.ease ∈ l_) (kbilling : Part.billing ∈ l_) (klink : Part.link ∈ l_) (ksw : Part.sw ∈ l_) (kstore : Part.store ∈ l_) (h_ : OnlyChanges l_ u_ s) : OnlyChanges l_ u_ (negativePlateau n mv s) := by
  unfold negativePlateau
  try dsimp only
  repeat' first | with_reducible assumption | with_reducible apply updLk_only | with_reducible apply pilotTo_only | with_reducible apply pilotFault_only | with_reducible refine OnlyChanges.foldl ?_ (fun _ _ _ => ?_) | with_reducible apply OnlyChanges.ite | split | (with_reducible apply OnlyChanges.upd <;> first | exact fun q => absurd (by assumption) q | with_reducible exact fun _ => rfl | skip)
  all_goals first | exact fun _ => rfl | skip

theorem positivePlateau_only (n : Nat) (mv : Int) {s : State} (kport : Part.port ∈ l_) (kease : Part.ease ∈ l_) (kbilling : Part.billing ∈ l_) (klink : Part.link ∈ l_) (ksw : Part.sw ∈ l_) (kstore : Part.store ∈ l_) (h_ : OnlyChanges l_ u_ s) : OnlyChanges l_ u_ (positivePlateau n mv s) := by
  unfold positivePlateau
  try dsimp only
  repeat' first | with_reducible assumption | with_reducible apply updLk_only | with_reducible apply pilotTo_only | with_reducible apply pilotFault_only | with_reducible refine OnlyChanges.foldl ?_ (fun _ _ _ => ?_) | with_reducible apply OnlyChanges.ite | split | (with_reducible apply OnlyChanges.upd <;> first | exact fun q => absurd (by assumption) q | with_reducible exact fun _ => rfl | skip)
  all_goals first | exact fun _ => rfl | skip

theorem updSet_only (mac run : Nat) (f : SoundSet → SoundSet) {s : State} (klink : Part.link ∈ l_) (h_ : OnlyChanges l_ u_ s) : OnlyChanges l_ u_ (updSet mac run f s) := by
  unfold updSet
  try dsimp only
  repeat' first | with_reducible assumption | with_reducible refine OnlyChanges.foldl ?_ (fun _ _ _ => ?_) | with_reducible apply OnlyChanges.ite | split | (with_reducible apply OnlyChanges.upd <;> first | exact fun q => absurd (by assumption) q | with_reducible exact fun _ => rfl | skip)
  all_goals first | exact fun _ => rfl | skip

theorem endSet_only (mac run : Nat) {s : State} (klink : Part.link ∈ l_) (h_ : OnlyChanges l_ u_ s) : OnlyChanges l_ u_ (endSet mac run s) := by
  unfold endSet
  try dsimp only
  repeat' first | with_reducible assumption | with_reducible refine OnlyChanges.foldl ?_ (fun _ _ _ => ?_) | with_reducible apply OnlyChanges.ite | split | (with_reducible apply OnlyChanges.upd <;> first | exact fun q => absurd (by assumption) q | with_reducible exact fun _ => rfl | skip)
  all_goals first | exact fun _ => rfl | skip

theorem marginOr_only (m : Option Int) {s : State} (kfactory : Part.factory ∈ l_) (h_ : OnlyChanges l_ u_ s) : OnlyChanges l_ u_ (marginOr m s).2 := by
  unfold marginOr
  try dsimp only
  repeat' first | with_reducible assumption | with_reducible apply State.drawFree_only | with_reducible refine OnlyChanges.foldl ?_ (fun _ _ _ => ?_) | with_reducible apply OnlyChanges.ite | split | (with_reducible apply OnlyChanges.upd <;> first | exact fun q => absurd (by assumption) q | with_reducible exact fun _ => rfl | skip)
  all_goals first | exact fun _ => rfl | skip

theorem ambiguous_only (cand cause line : Nat) (margin : Int) (mac : Nat) {s : State} (kport : Part.port ∈ l_) (kstore : Part.store ∈ l_) (h_ : OnlyChanges l_ u_ s) : OnlyChanges l_ u_ (ambiguous cand cause line margin mac s) := by
  unfold ambiguous
  try dsimp only
  repeat' first | with_reducible assumption | with_reducible apply event_only | with_reducible refine OnlyChanges.foldl ?_ (fun _ _ _ => ?_) | with_reducible apply OnlyChanges.ite | split | (with_reducible apply OnlyChanges.upd <;> first | exact fun q => absurd (by assumption) q | with_reducible exact fun _ => rfl | skip)
  all_goals first | exact fun _ => rfl | skip

theorem countAmbiguous_only (n : Nat) {s : State} (kport : Part.port ∈ l_) (kease : Part.ease ∈ l_) (klink : Part.link ∈ l_) (kstore : Part.store ∈ l_) (h_ : OnlyChanges l_ u_ s) : OnlyChanges l_ u_ (countAmbiguous n s) := by
  unfold countAmbiguous
  try dsimp only
  repeat' first | with_reducible assumption | with_reducible apply updLk_only | with_reducible apply pilotRestart_only | with_reducible refine OnlyChanges.foldl ?_ (fun _ _ _ => ?_) | with_reducible apply OnlyChanges.ite | split | (with_reducible apply OnlyChanges.upd <;> first | exact fun q => absurd (by assumption) q | with_reducible exact fun _ => rfl | skip)
  all_goals first | exact fun _ => rfl | skip

theorem crosstalk_only (c a : Nat) (l : List (Nat × Nat)) {s : State} (kport : Part.port ∈ l_) (klink : Part.link ∈ l_) (kstore : Part.store ∈ l_) (h_ : OnlyChanges l_ u_ s) : OnlyChanges l_ u_ (crosstalk c a l s) := by
  unfold crosstalk
  try dsimp only
  repeat' first | with_reducible assumption | with_reducible apply event_only | with_reducible refine OnlyChanges.foldl ?_ (fun _ _ _ => ?_) | with_reducible apply OnlyChanges.ite | split | (with_reducible apply OnlyChanges.upd <;> first | exact fun q => absurd (by assumption) q | with_reducible exact fun _ => rfl | skip)
  all_goals first | exact fun _ => rfl | skip

theorem bindLink_only (n mac : Nat) {s : State} (klink : Part.link ∈ l_) (h_ : OnlyChanges l_ u_ s) : OnlyChanges l_ u_ (bindLink n mac s) := by
  unfold bindLink
  try dsimp only
  repeat' first | with_reducible assumption | with_reducible apply updLk_only | with_reducible refine OnlyChanges.foldl ?_ (fun _ _ _ => ?_) | with_reducible apply OnlyChanges.ite | split | (with_reducible apply OnlyChanges.upd <;> first | exact fun q => absurd (by assumption) q | with_reducible exact fun _ => rfl | skip)
  all_goals first | exact fun _ => rfl | skip

theorem authEvent_only (r : AuthReq) {s : State} (kport : Part.port ∈ l_) (kstore : Part.store ∈ l_) (h_ : OnlyChanges l_ u_ s) : OnlyChanges l_ u_ (authEvent r s) := by
  unfold authEvent
  try dsimp only
  repeat' first | with_reducible assumption | with_reducible apply event_only | with_reducible refine OnlyChanges.foldl ?_ (fun _ _ _ => ?_) | with_reducible apply OnlyChanges.ite | split | (with_reducible apply OnlyChanges.upd <;> first | exact fun q => absurd (by assumption) q | with_reducible exact fun _ => rfl | skip)
  all_goals first | exact fun _ => rfl | skip

theorem newAuth_only (n : Nat) {s : State} (kport : Part.port ∈ l_) (klink : Part.link ∈ l_) (kstore : Part.store ∈ l_) (h_ : OnlyChanges l_ u_ s) : OnlyChanges l_ u_ (newAuth n s) := by
  unfold newAuth
  try dsimp only
  repeat' first | with_reducible assumption | with_reducible apply updLk_only | with_reducible apply authEvent_only | with_reducible refine OnlyChanges.foldl ?_ (fun _ _ _ => ?_) | with_reducible apply OnlyChanges.ite | split | (with_reducible apply OnlyChanges.upd <;> first | exact fun q => absurd (by assumption) q | with_reducible exact fun _ => rfl | skip)
  all_goals first | exact fun _ => rfl | skip

theorem setAuth_only (number st : Nat) {s : State} (klink : Part.link ∈ l_) (h_ : OnlyChanges l_ u_ s) : OnlyChanges l_ u_ (setAuth number st s) := by
  unfold setAuth
  try dsimp only
  repeat' first | with_reducible assumption | with_reducible refine OnlyChanges.foldl ?_ (fun _ _ _ => ?_) | with_reducible apply OnlyChanges.ite | split | (with_reducible apply OnlyChanges.upd <;> first | exact fun q => absurd (by assumption) q | with_reducible exact fun _ => rfl | skip)
  all_goals first | exact fun _ => rfl | skip

theorem authDecideCmd_only (p : List Byte) {s : State} (kport : Part.port ∈ l_) (kease : Part.ease ∈ l_) (klink : Part.link ∈ l_) (kstore : Part.store ∈ l_) (h_ : OnlyChanges l_ u_ s) : OnlyChanges l_ u_ (authDecideCmd p s).run.st := by
  unfold authDecideCmd
  try dsimp only
  repeat' first | with_reducible assumption | with_reducible apply linkEnd_only | with_reducible apply tell_only | with_reducible apply setAuth_only | with_reducible refine OnlyChanges.foldl ?_ (fun _ _ _ => ?_) | with_reducible apply OnlyChanges.ite | split | (with_reducible apply OnlyChanges.upd <;> first | exact fun q => absurd (by assumption) q | with_reducible exact fun _ => rfl | skip)
  all_goals first | exact fun _ => rfl | skip

theorem acceptAuth_only (a : Awaiting) {s : State} (kmodes : Part.modes ∈ l_) (kport : Part.port ∈ l_) (kfe : Part.fe ∈ l_) (kenergy : Part.energy ∈ l_) (kbilling : Part.billing ∈ l_) (klog : Part.log ∈ l_) (klink : Part.link ∈ l_) (ktag : Part.tag ∈ l_) (kstore : Part.store ∈ l_) (h_ : OnlyChanges l_ u_ s) : OnlyChanges l_ u_ (acceptAuth a s) := by
  unfold acceptAuth
  try dsimp only
  repeat' first | with_reducible assumption | with_reducible apply answerAwaiting_only | with_reducible apply openSession_only | with_reducible apply setAuth_only | with_reducible apply tell_only | with_reducible apply updLk_only | with_reducible refine OnlyChanges.foldl ?_ (fun _ _ _ => ?_) | with_reducible apply OnlyChanges.ite | split | (with_reducible apply OnlyChanges.upd <;> first | exact fun q => absurd (by assumption) q | with_reducible exact fun _ => rfl | skip)
  all_goals first | exact fun _ => rfl | skip

theorem linkStopCmd_only (h : Hdr) (p : List Byte) {s : State} (klink : Part.link ∈ l_) (h_ : OnlyChanges l_ u_ s) : OnlyChanges l_ u_ (linkStopCmd h p s).run.st := by
  unfold linkStopCmd
  try dsimp only
  repeat' first | with_reducible assumption | with_reducible apply tell_only | with_reducible apply updLk_only | with_reducible refine OnlyChanges.foldl ?_ (fun _ _ _ => ?_) | with_reducible apply OnlyChanges.ite | split | (with_reducible apply OnlyChanges.upd <;> first | exact fun q => absurd (by assumption) q | with_reducible exact fun _ => rfl | skip)
  all_goals first | exact fun _ => rfl | skip

theorem seccCsrCmd_only (p : List Byte) {s : State} (kfactory : Part.factory ∈ l_) (klink : Part.link ∈ l_) (h_ : OnlyChanges l_ u_ s) : OnlyChanges l_ u_ (seccCsrCmd p s).run.st := by
  unfold seccCsrCmd
  try dsimp only
  repeat' first | with_reducible assumption | with_reducible apply State.drawFree_only | with_reducible refine OnlyChanges.foldl ?_ (fun _ _ _ => ?_) | with_reducible apply OnlyChanges.ite | split | (with_reducible apply OnlyChanges.upd <;> first | exact fun q => absurd (by assumption) q | with_reducible exact fun _ => rfl | skip)
  all_goals first | exact fun _ => rfl | skip

theorem seccCertCmd_only (p : List Byte) {s : State} (klink : Part.link ∈ l_) (h_ : OnlyChanges l_ u_ s) : OnlyChanges l_ u_ (seccCertCmd p s).run.st := by
  unfold seccCertCmd
  try dsimp only
  repeat' first | with_reducible assumption | with_reducible refine OnlyChanges.foldl ?_ (fun _ _ _ => ?_) | with_reducible apply OnlyChanges.ite | split | (with_reducible apply OnlyChanges.upd <;> first | exact fun q => absurd (by assumption) q | with_reducible exact fun _ => rfl | skip)
  all_goals first | exact fun _ => rfl | skip

theorem driveFrame_only (n : Nat) {s : State} (kport : Part.port ∈ l_) (kease : Part.ease ∈ l_) (kbilling : Part.billing ∈ l_) (klink : Part.link ∈ l_) (ksw : Part.sw ∈ l_) (kstore : Part.store ∈ l_) (h_ : OnlyChanges l_ u_ s) : OnlyChanges l_ u_ (driveFrame n s) := by
  unfold driveFrame
  try dsimp only
  repeat' first | with_reducible assumption | with_reducible apply updLk_only | with_reducible apply stopLink_only | with_reducible apply dropLeave_only | with_reducible apply connect_only | with_reducible refine OnlyChanges.foldl ?_ (fun _ _ _ => ?_) | with_reducible apply OnlyChanges.ite | split | (with_reducible apply OnlyChanges.upd <;> first | exact fun q => absurd (by assumption) q | with_reducible exact fun _ => rfl | skip)
  all_goals first | exact fun _ => rfl | skip

theorem refuseFrame_only (n : Nat) {s : State} (kport : Part.port ∈ l_) (klink : Part.link ∈ l_) (kstore : Part.store ∈ l_) (h_ : OnlyChanges l_ u_ s) : OnlyChanges l_ u_ (refuseFrame n s) := by
  unfold refuseFrame
  try dsimp only
  repeat' first | with_reducible assumption | with_reducible apply newAuth_only | with_reducible refine OnlyChanges.foldl ?_ (fun _ _ _ => ?_) | with_reducible apply OnlyChanges.ite | split | (with_reducible apply OnlyChanges.upd <;> first | exact fun q => absurd (by assumption) q | with_reducible exact fun _ => rfl | skip)
  all_goals first | exact fun _ => rfl | skip

theorem linkFrame_only  {s : State} (kmodes : Part.modes ∈ l_) (kport : Part.port ∈ l_) (kease : Part.ease ∈ l_) (kfe : Part.fe ∈ l_) (kenergy : Part.energy ∈ l_) (kbilling : Part.billing ∈ l_) (klog : Part.log ∈ l_) (klink : Part.link ∈ l_) (ksw : Part.sw ∈ l_) (ktag : Part.tag ∈ l_) (kstore : Part.store ∈ l_) (h_ : OnlyChanges l_ u_ s) : OnlyChanges l_ u_ (linkFrame s) := by
  unfold linkFrame
  try dsimp only
  repeat' first | with_reducible assumption | with_reducible apply refuseFrame_only | with_reducible apply driveFrame_only | with_reducible apply acceptAuth_only | with_reducible refine OnlyChanges.foldl ?_ (fun _ _ _ => ?_) | with_reducible apply OnlyChanges.ite | split | (with_reducible apply OnlyChanges.upd <;> first | exact fun q => absurd (by assumption) q | with_reducible exact fun _ => rfl | skip)
  all_goals first | exact fun _ => rfl | skip

end Sys2Proof.Machine
end

