-- ==== Sys2Proof/Laws/OnlyLoads.lean ====
section
/-!
SUPPORT. The frames of the operations of Machine/Loads.lean (OnlyChanges, for every list that holds the parts they touch).
-/

namespace Sys2Proof.Machine

set_option linter.all false

open Sys2Proof.Safety

variable {l_ : List Part} {u_ : State}

theorem requestLoad_only (c : Nat) {s : State} (kease : Part.ease ∈ l_) (kloads : Part.loads ∈ l_) (h_ : OnlyChanges l_ u_ s) : OnlyChanges l_ u_ (requestLoad c s) := by
  unfold requestLoad
  try dsimp only
  repeat' first | with_reducible assumption | with_reducible apply updCh_only | with_reducible apply submit_only | with_reducible refine OnlyChanges.foldl ?_ (fun _ _ _ => ?_) | with_reducible apply OnlyChanges.ite | split | (with_reducible apply OnlyChanges.upd <;> first | exact fun q => absurd (by assumption) q | with_reducible exact fun _ => rfl | skip)
  all_goals first | exact fun _ => rfl | skip

theorem serveBank_only (k : Nat) {s : State} (kease : Part.ease ∈ l_) (kloads : Part.loads ∈ l_) (h_ : OnlyChanges l_ u_ s) : OnlyChanges l_ u_ (serveBank k s) := by
  unfold serveBank
  try dsimp only
  repeat' first | with_reducible assumption | with_reducible apply requestLoad_only | with_reducible apply updBank_only | with_reducible refine OnlyChanges.foldl ?_ (fun _ _ _ => ?_) | with_reducible apply OnlyChanges.ite | split | (with_reducible apply OnlyChanges.upd <;> first | exact fun q => absurd (by assumption) q | with_reducible exact fun _ => rfl | skip)
  all_goals first | exact fun _ => rfl | skip

theorem joinQueue_only (c : Nat) (auto : Bool) {s : State} (kport : Part.port ∈ l_) (kease : Part.ease ∈ l_) (kloads : Part.loads ∈ l_) (kstore : Part.store ∈ l_) (h_ : OnlyChanges l_ u_ s) : OnlyChanges l_ u_ (joinQueue c auto s) := by
  unfold joinQueue
  try dsimp only
  repeat' first | with_reducible assumption | with_reducible apply chTo_only | with_reducible apply updCh_only | with_reducible apply serveBank_only | with_reducible apply updBank_only | with_reducible refine OnlyChanges.foldl ?_ (fun _ _ _ => ?_) | with_reducible apply OnlyChanges.ite | split | (with_reducible apply OnlyChanges.upd <;> first | exact fun q => absurd (by assumption) q | with_reducible exact fun _ => rfl | skip)
  all_goals first | exact fun _ => rfl | skip

theorem loadStart_only (c id : Nat) {s : State} (kport : Part.port ∈ l_) (kease : Part.ease ∈ l_) (kloads : Part.loads ∈ l_) (kstore : Part.store ∈ l_) (h_ : OnlyChanges l_ u_ s) : OnlyChanges l_ u_ (loadStart c id s) := by
  unfold loadStart
  try dsimp only
  repeat' first | with_reducible assumption | with_reducible apply updCh_only | with_reducible apply chTo_only | with_reducible apply beginOp_only | with_reducible refine OnlyChanges.foldl ?_ (fun _ _ _ => ?_) | with_reducible apply OnlyChanges.ite | split | (with_reducible apply OnlyChanges.upd <;> first | exact fun q => absurd (by assumption) q | with_reducible exact fun _ => rfl | skip)
  all_goals first | exact fun _ => rfl | skip

theorem loadRefused_only (c id : Nat) {s : State} (kport : Part.port ∈ l_) (kease : Part.ease ∈ l_) (kloads : Part.loads ∈ l_) (kstore : Part.store ∈ l_) (h_ : OnlyChanges l_ u_ s) : OnlyChanges l_ u_ (loadRefused c id s) := by
  unfold loadRefused
  try dsimp only
  repeat' first | with_reducible assumption | with_reducible apply serveBank_only | with_reducible apply updCh_only | with_reducible apply chTo_only | with_reducible refine OnlyChanges.foldl ?_ (fun _ _ _ => ?_) | with_reducible apply OnlyChanges.ite | split | (with_reducible apply OnlyChanges.upd <;> first | exact fun q => absurd (by assumption) q | with_reducible exact fun _ => rfl | skip)
  all_goals first | exact fun _ => rfl | skip

theorem bankEvent_only (k cause st vbb : Nat) {s : State} (kport : Part.port ∈ l_) (kstore : Part.store ∈ l_) (h_ : OnlyChanges l_ u_ s) : OnlyChanges l_ u_ (bankEvent k cause st vbb s) := by
  unfold bankEvent
  try dsimp only
  repeat' first | with_reducible assumption | with_reducible apply event_only | with_reducible refine OnlyChanges.foldl ?_ (fun _ _ _ => ?_) | with_reducible apply OnlyChanges.ite | split | (with_reducible apply OnlyChanges.upd <;> first | exact fun q => absurd (by assumption) q | with_reducible exact fun _ => rfl | skip)
  all_goals first | exact fun _ => rfl | skip

theorem overReleased_only (c : Nat) {s : State} (kport : Part.port ∈ l_) (kloads : Part.loads ∈ l_) (kstore : Part.store ∈ l_) (h_ : OnlyChanges l_ u_ s) : OnlyChanges l_ u_ (overReleased c s) := by
  unfold overReleased
  try dsimp only
  repeat' first | with_reducible assumption | with_reducible apply bankEvent_only | with_reducible apply updBank_only | with_reducible refine OnlyChanges.foldl ?_ (fun _ _ _ => ?_) | with_reducible apply OnlyChanges.ite | split | (with_reducible apply OnlyChanges.upd <;> first | exact fun q => absurd (by assumption) q | with_reducible exact fun _ => rfl | skip)
  all_goals first | exact fun _ => rfl | skip

theorem channelFault_only (c cause ma : Nat) (temp : Int) {s : State} (kport : Part.port ∈ l_) (kease : Part.ease ∈ l_) (kloads : Part.loads ∈ l_) (kstore : Part.store ∈ l_) (h_ : OnlyChanges l_ u_ s) : OnlyChanges l_ u_ (channelFault c cause ma temp s) := by
  unfold channelFault
  try dsimp only
  repeat' first | with_reducible assumption | with_reducible apply updCh_only | with_reducible apply event_only | with_reducible apply serveBank_only | with_reducible apply chTo_only | with_reducible refine OnlyChanges.foldl ?_ (fun _ _ _ => ?_) | with_reducible apply OnlyChanges.ite | split | (with_reducible apply OnlyChanges.upd <;> first | exact fun q => absurd (by assumption) q | with_reducible exact fun _ => rfl | skip)
  all_goals first | exact fun _ => rfl | skip

theorem holdBank_only (k : Nat) {s : State} (kport : Part.port ∈ l_) (kease : Part.ease ∈ l_) (kloads : Part.loads ∈ l_) (kstore : Part.store ∈ l_) (h_ : OnlyChanges l_ u_ s) : OnlyChanges l_ u_ (holdBank k s) := by
  unfold holdBank
  try dsimp only
  repeat' first | with_reducible assumption | with_reducible apply updBank_only | with_reducible apply chTo_only | with_reducible apply updCh_only | with_reducible refine OnlyChanges.foldl ?_ (fun _ _ _ => ?_) | with_reducible apply OnlyChanges.ite | split | (with_reducible apply OnlyChanges.upd <;> first | exact fun q => absurd (by assumption) q | with_reducible exact fun _ => rfl | skip)
  all_goals first | exact fun _ => rfl | skip

theorem releaseBank_only (k : Nat) {s : State} (kport : Part.port ∈ l_) (kease : Part.ease ∈ l_) (kloads : Part.loads ∈ l_) (kstore : Part.store ∈ l_) (h_ : OnlyChanges l_ u_ s) : OnlyChanges l_ u_ (releaseBank k s) := by
  unfold releaseBank
  try dsimp only
  repeat' first | with_reducible assumption | with_reducible apply joinQueue_only | with_reducible apply chTo_only | with_reducible refine OnlyChanges.foldl ?_ (fun _ _ _ => ?_) | with_reducible apply OnlyChanges.ite | split | (with_reducible apply OnlyChanges.upd <;> first | exact fun q => absurd (by assumption) q | with_reducible exact fun _ => rfl | skip)
  all_goals first | exact fun _ => rfl | skip

theorem loadOn_only (h : Hdr) (c : Nat) (pwm : Bool) (duty : Nat) {s : State} (kport : Part.port ∈ l_) (kease : Part.ease ∈ l_) (kloads : Part.loads ∈ l_) (kstore : Part.store ∈ l_) (h_ : OnlyChanges l_ u_ s) : OnlyChanges l_ u_ (loadOn h c pwm duty s).st := by
  unfold loadOn
  try dsimp only
  repeat' first | with_reducible assumption | with_reducible apply updCh_only | with_reducible apply chTo_only | with_reducible apply overReleased_only | with_reducible apply joinQueue_only | with_reducible refine OnlyChanges.foldl ?_ (fun _ _ _ => ?_) | with_reducible apply OnlyChanges.ite | split | (with_reducible apply OnlyChanges.upd <;> first | exact fun q => absurd (by assumption) q | with_reducible exact fun _ => rfl | skip)
  all_goals first | exact fun _ => rfl | skip

theorem loadSetCmd_only (h : Hdr) (p : List Byte) {s : State} (kport : Part.port ∈ l_) (kease : Part.ease ∈ l_) (kloads : Part.loads ∈ l_) (kstore : Part.store ∈ l_) (h_ : OnlyChanges l_ u_ s) : OnlyChanges l_ u_ (loadSetCmd h p s).run.st := by
  unfold loadSetCmd
  try dsimp only
  repeat' first | with_reducible assumption | with_reducible apply updCh_only | with_reducible apply overReleased_only | with_reducible apply serveBank_only | with_reducible apply chTo_only | with_reducible apply loadOn_only | with_reducible refine OnlyChanges.foldl ?_ (fun _ _ _ => ?_) | with_reducible apply OnlyChanges.ite | split | (with_reducible apply OnlyChanges.upd <;> first | exact fun q => absurd (by assumption) q | with_reducible exact fun _ => rfl | skip)
  all_goals first | exact fun _ => rfl | skip

theorem loadDeferred_only (a : Awaiting) (c : Nat) {s : State} (kport : Part.port ∈ l_) (kloads : Part.loads ∈ l_) (h_ : OnlyChanges l_ u_ s) : OnlyChanges l_ u_ (loadDeferred a c s) := by
  unfold loadDeferred
  try dsimp only
  repeat' first | with_reducible assumption | with_reducible apply answerAwaiting_only | with_reducible apply updCh_only | with_reducible refine OnlyChanges.foldl ?_ (fun _ _ _ => ?_) | with_reducible apply OnlyChanges.ite | split | (with_reducible apply OnlyChanges.upd <;> first | exact fun q => absurd (by assumption) q | with_reducible exact fun _ => rfl | skip)
  all_goals first | exact fun _ => rfl | skip

theorem bankResetCmd_only (p : List Byte) {s : State} (kport : Part.port ∈ l_) (kease : Part.ease ∈ l_) (kloads : Part.loads ∈ l_) (kstore : Part.store ∈ l_) (h_ : OnlyChanges l_ u_ s) : OnlyChanges l_ u_ (bankResetCmd p s).run.st := by
  unfold bankResetCmd
  try dsimp only
  repeat' first | with_reducible assumption | with_reducible apply updBank_only | with_reducible apply bankEvent_only | with_reducible apply releaseBank_only | with_reducible refine OnlyChanges.foldl ?_ (fun _ _ _ => ?_) | with_reducible apply OnlyChanges.ite | split | (with_reducible apply OnlyChanges.upd <;> first | exact fun q => absurd (by assumption) q | with_reducible exact fun _ => rfl | skip)
  all_goals first | exact fun _ => rfl | skip

theorem withdrawOn_only (c : Nat) {s : State} (kease : Part.ease ∈ l_) (kloads : Part.loads ∈ l_) (h_ : OnlyChanges l_ u_ s) : OnlyChanges l_ u_ (withdrawOn c s) := by
  unfold withdrawOn
  try dsimp only
  repeat' first | with_reducible assumption | with_reducible apply updCh_only | with_reducible apply releaseOpt_only | with_reducible apply serveBank_only | with_reducible apply updBank_only | with_reducible refine OnlyChanges.foldl ?_ (fun _ _ _ => ?_) | with_reducible apply OnlyChanges.ite | split | (with_reducible apply OnlyChanges.upd <;> first | exact fun q => absurd (by assumption) q | with_reducible exact fun _ => rfl | skip)
  all_goals first | exact fun _ => rfl | skip

theorem loadsCoreReset_only  {s : State} (kease : Part.ease ∈ l_) (kloads : Part.loads ∈ l_) (h_ : OnlyChanges l_ u_ s) : OnlyChanges l_ u_ (loadsCoreReset s) := by
  unfold loadsCoreReset
  try dsimp only
  repeat' first | with_reducible assumption | with_reducible apply withdrawOn_only | with_reducible apply updCh_only | with_reducible refine OnlyChanges.foldl ?_ (fun _ _ _ => ?_) | with_reducible apply OnlyChanges.ite | split | (with_reducible apply OnlyChanges.upd <;> first | exact fun q => absurd (by assumption) q | with_reducible exact fun _ => rfl | skip)
  all_goals first | exact fun _ => rfl | skip

theorem isolateChannel_only (c : Nat) {s : State} (kport : Part.port ∈ l_) (kease : Part.ease ∈ l_) (kloads : Part.loads ∈ l_) (kstore : Part.store ∈ l_) (h_ : OnlyChanges l_ u_ s) : OnlyChanges l_ u_ (isolateChannel c s) := by
  unfold isolateChannel
  try dsimp only
  repeat' first | with_reducible assumption | with_reducible apply serveBank_only | with_reducible apply chTo_only | with_reducible apply updCh_only | with_reducible apply overReleased_only | with_reducible refine OnlyChanges.foldl ?_ (fun _ _ _ => ?_) | with_reducible apply OnlyChanges.ite | split | (with_reducible apply OnlyChanges.upd <;> first | exact fun q => absurd (by assumption) q | with_reducible exact fun _ => rfl | skip)
  all_goals first | exact fun _ => rfl | skip

theorem isolateBank_only (k : Nat) {s : State} (kport : Part.port ∈ l_) (kease : Part.ease ∈ l_) (kloads : Part.loads ∈ l_) (kstore : Part.store ∈ l_) (h_ : OnlyChanges l_ u_ s) : OnlyChanges l_ u_ (isolateBank k s) := by
  unfold isolateBank
  try dsimp only
  repeat' first | with_reducible assumption | with_reducible apply channelsOff_only | with_reducible apply updBank_only | with_reducible refine OnlyChanges.foldl ?_ (fun _ _ _ => ?_) | with_reducible apply OnlyChanges.ite | split | (with_reducible apply OnlyChanges.upd <;> first | exact fun q => absurd (by assumption) q | with_reducible exact fun _ => rfl | skip)
  all_goals first | exact fun _ => rfl | skip

theorem loadReading_only (l : LoadIn) {s : State} (kloads : Part.loads ∈ l_) (h_ : OnlyChanges l_ u_ s) : OnlyChanges l_ u_ (loadReading l s) := by
  unfold loadReading
  try dsimp only
  repeat' first | with_reducible assumption | with_reducible apply updCh_only | with_reducible refine OnlyChanges.foldl ?_ (fun _ _ _ => ?_) | with_reducible apply OnlyChanges.ite | split | (with_reducible apply OnlyChanges.upd <;> first | exact fun q => absurd (by assumption) q | with_reducible exact fun _ => rfl | skip)
  all_goals first | exact fun _ => rfl | skip

theorem loadsFrame_only (m : FrameIn) {s : State} (kloads : Part.loads ∈ l_) (h_ : OnlyChanges l_ u_ s) : OnlyChanges l_ u_ (loadsFrame m s) := by
  unfold loadsFrame
  try dsimp only
  repeat' first | with_reducible assumption | with_reducible apply loadReading_only | with_reducible apply updBank_only | with_reducible refine OnlyChanges.foldl ?_ (fun _ _ _ => ?_) | with_reducible apply OnlyChanges.ite | split | (with_reducible apply OnlyChanges.upd <;> first | exact fun q => absurd (by assumption) q | with_reducible exact fun _ => rfl | skip)
  all_goals first | exact fun _ => rfl | skip

theorem loadsSuper_only  {s : State} (kease : Part.ease ∈ l_) (h_ : OnlyChanges l_ u_ s) : OnlyChanges l_ u_ (loadsSuper s) := by
  unfold loadsSuper
  try dsimp only
  repeat' first | with_reducible assumption | with_reducible refine OnlyChanges.foldl ?_ (fun _ _ _ => ?_) | with_reducible apply OnlyChanges.ite | split | (with_reducible apply OnlyChanges.upd <;> first | exact fun q => absurd (by assumption) q | with_reducible exact fun _ => rfl | skip)
  all_goals first | exact fun _ => rfl | skip

end Sys2Proof.Machine
end

