-- ==== Sys2Proof/Laws/OnlyReset.lean ====
section
/-!
SUPPORT. The frames of the operations of Machine/Reset.lean (OnlyChanges, for every list that holds the parts they touch).
-/

namespace Sys2Proof.Machine

set_option linter.all false

open Sys2Proof.Safety

variable {l_ : List Part} {u_ : State}

theorem updRst_only (f : Reset → Reset) {s : State} (krst : Part.rst ∈ l_) (h_ : OnlyChanges l_ u_ s) : OnlyChanges l_ u_ (updRst f s) := by
  unfold updRst
  try dsimp only
  repeat' first | with_reducible assumption | with_reducible refine OnlyChanges.foldl ?_ (fun _ _ _ => ?_) | with_reducible apply OnlyChanges.ite | split | (with_reducible apply OnlyChanges.upd <;> first | exact fun q => absurd (by assumption) q | with_reducible exact fun _ => rfl | skip)
  all_goals first | exact fun _ => rfl | skip

theorem updCause_only (f : ResetCause → ResetCause) {s : State} (krst : Part.rst ∈ l_) (h_ : OnlyChanges l_ u_ s) : OnlyChanges l_ u_ (updCause f s) := by
  unfold updCause
  try dsimp only
  repeat' first | with_reducible assumption | with_reducible apply updRst_only | with_reducible refine OnlyChanges.foldl ?_ (fun _ _ _ => ?_) | with_reducible apply OnlyChanges.ite | split | (with_reducible apply OnlyChanges.upd <;> first | exact fun q => absurd (by assumption) q | with_reducible exact fun _ => rfl | skip)
  all_goals first | exact fun _ => rfl | skip

theorem noteSource_only (src : Nat) {s : State} (krst : Part.rst ∈ l_) (h_ : OnlyChanges l_ u_ s) : OnlyChanges l_ u_ (noteSource src s) := by
  unfold noteSource
  try dsimp only
  repeat' first | with_reducible assumption | with_reducible apply updCause_only | with_reducible refine OnlyChanges.foldl ?_ (fun _ _ _ => ?_) | with_reducible apply OnlyChanges.ite | split | (with_reducible apply OnlyChanges.upd <;> first | exact fun q => absurd (by assumption) q | with_reducible exact fun _ => rfl | skip)
  all_goals first | exact fun _ => rfl | skip

theorem releaseSource_only (src : Nat) {s : State} (krst : Part.rst ∈ l_) (h_ : OnlyChanges l_ u_ s) : OnlyChanges l_ u_ (releaseSource src s) := by
  unfold releaseSource
  try dsimp only
  repeat' first | with_reducible assumption | with_reducible apply updRst_only | with_reducible apply updCause_only | with_reducible refine OnlyChanges.foldl ?_ (fun _ _ _ => ?_) | with_reducible apply OnlyChanges.ite | split | (with_reducible apply OnlyChanges.upd <;> first | exact fun q => absurd (by assumption) q | with_reducible exact fun _ => rfl | skip)
  all_goals first | exact fun _ => rfl | skip

theorem releaseAll_only (p : Nat → Bool) {s : State} (krst : Part.rst ∈ l_) (h_ : OnlyChanges l_ u_ s) : OnlyChanges l_ u_ (releaseAll p s) := by
  unfold releaseAll
  try dsimp only
  repeat' first | with_reducible assumption | with_reducible apply releaseSource_only | with_reducible refine OnlyChanges.foldl ?_ (fun _ _ _ => ?_) | with_reducible apply OnlyChanges.ite | split | (with_reducible apply OnlyChanges.upd <;> first | exact fun q => absurd (by assumption) q | with_reducible exact fun _ => rfl | skip)
  all_goals first | exact fun _ => rfl | skip

theorem openEntry_only (src reach : Nat) {s : State} (krst : Part.rst ∈ l_) (h_ : OnlyChanges l_ u_ s) : OnlyChanges l_ u_ (openEntry src reach s) := by
  unfold openEntry
  try dsimp only
  repeat' first | with_reducible assumption | with_reducible apply updRst_only | with_reducible refine OnlyChanges.foldl ?_ (fun _ _ _ => ?_) | with_reducible apply OnlyChanges.ite | split | (with_reducible apply OnlyChanges.upd <;> first | exact fun q => absurd (by assumption) q | with_reducible exact fun _ => rfl | skip)
  all_goals first | exact fun _ => rfl | skip

theorem coreAssert_only  {s : State} (krst : Part.rst ∈ l_) (kease : Part.ease ∈ l_) (ksw : Part.sw ∈ l_) (h_ : OnlyChanges l_ u_ s) : OnlyChanges l_ u_ (coreAssert s) := by
  unfold coreAssert
  try dsimp only
  repeat' first | with_reducible assumption | with_reducible apply updRst_only | with_reducible apply driverOff_only | with_reducible refine OnlyChanges.foldl ?_ (fun _ _ _ => ?_) | with_reducible apply OnlyChanges.ite | split | (with_reducible apply OnlyChanges.upd <;> first | exact fun q => absurd (by assumption) q | with_reducible exact fun _ => rfl | skip)
  all_goals first | exact fun _ => rfl | skip

theorem benchEnds_only  {s : State} (kbilling : Part.billing ∈ l_) (h_ : OnlyChanges l_ u_ s) : OnlyChanges l_ u_ (benchEnds s) := by
  unfold benchEnds
  try dsimp only
  repeat' first | with_reducible assumption | with_reducible refine OnlyChanges.foldl ?_ (fun _ _ _ => ?_) | with_reducible apply OnlyChanges.ite | split | (with_reducible apply OnlyChanges.upd <;> first | exact fun q => absurd (by assumption) q | with_reducible exact fun _ => rfl | skip)
  all_goals first | exact fun _ => rfl | skip

theorem assertSave_only  {s : State} (kenergy : Part.energy ∈ l_) (kbilling : Part.billing ∈ l_) (kstore : Part.store ∈ l_) (h_ : OnlyChanges l_ u_ s) : OnlyChanges l_ u_ (assertSave s) := by
  unfold assertSave
  try dsimp only
  repeat' first | with_reducible assumption | with_reducible apply finalSave_only | with_reducible apply pipelineCut_only | with_reducible apply benchEnds_only | with_reducible refine OnlyChanges.foldl ?_ (fun _ _ _ => ?_) | with_reducible apply OnlyChanges.ite | split | (with_reducible apply OnlyChanges.upd <;> first | exact fun q => absurd (by assumption) q | with_reducible exact fun _ => rfl | skip)
  all_goals first | exact fun _ => rfl | skip

theorem sitePadsOff_only  {s : State} (kease : Part.ease ∈ l_) (ktrv : Part.trv ∈ l_) (krdr : Part.rdr ∈ l_) (kdisp : Part.disp ∈ l_) (h_ : OnlyChanges l_ u_ s) : OnlyChanges l_ u_ (sitePadsOff s) := by
  unfold sitePadsOff
  try dsimp only
  repeat' first | with_reducible assumption | with_reducible apply fieldOff_only | with_reducible apply lowerRails_only | with_reducible refine OnlyChanges.foldl ?_ (fun _ _ _ => ?_) | with_reducible apply OnlyChanges.ite | split | (with_reducible apply OnlyChanges.upd <;> first | exact fun q => absurd (by assumption) q | with_reducible exact fun _ => rfl | skip)
  all_goals first | exact fun _ => rfl | skip

theorem systemAssert_only (ran : Bool) {s : State} (krst : Part.rst ∈ l_) (kport : Part.port ∈ l_) (kease : Part.ease ∈ l_) (kenergy : Part.energy ∈ l_) (kbilling : Part.billing ∈ l_) (klink : Part.link ∈ l_) (ksw : Part.sw ∈ l_) (kloads : Part.loads ∈ l_) (ktrv : Part.trv ∈ l_) (krdr : Part.rdr ∈ l_) (kdisp : Part.disp ∈ l_) (kstore : Part.store ∈ l_) (h_ : OnlyChanges l_ u_ s) : OnlyChanges l_ u_ (systemAssert ran s) := by
  unfold systemAssert
  try dsimp only
  repeat' first | with_reducible assumption | with_reducible apply sitePadsOff_only | with_reducible apply updRst_only | with_reducible apply outputsSafe_only | with_reducible apply assertSave_only | with_reducible refine OnlyChanges.foldl ?_ (fun _ _ _ => ?_) | with_reducible apply OnlyChanges.ite | split | (with_reducible apply OnlyChanges.upd <;> first | exact fun q => absurd (by assumption) q | with_reducible exact fun _ => rfl | skip)
  all_goals first | exact fun _ => rfl | skip

theorem losePlain_only  {s : State} (kport : Part.port ∈ l_) (h_ : OnlyChanges l_ u_ s) : OnlyChanges l_ u_ (losePlain s) := by
  unfold losePlain
  try dsimp only
  repeat' first | with_reducible assumption | with_reducible refine OnlyChanges.foldl ?_ (fun _ _ _ => ?_) | with_reducible apply OnlyChanges.ite | split | (with_reducible apply OnlyChanges.upd <;> first | exact fun q => absurd (by assumption) q | with_reducible exact fun _ => rfl | skip)
  all_goals first | exact fun _ => rfl | skip

theorem beginReset_only (src reach : Nat) {s0 : State} (krst : Part.rst ∈ l_) (kport : Part.port ∈ l_) (kease : Part.ease ∈ l_) (kenergy : Part.energy ∈ l_) (kbilling : Part.billing ∈ l_) (klink : Part.link ∈ l_) (ksw : Part.sw ∈ l_) (kloads : Part.loads ∈ l_) (ktrv : Part.trv ∈ l_) (krdr : Part.rdr ∈ l_) (kdisp : Part.disp ∈ l_) (kstore : Part.store ∈ l_) (h_ : OnlyChanges l_ u_ s0) : OnlyChanges l_ u_ (beginReset src reach s0) := by
  unfold beginReset
  try dsimp only
  repeat' first | with_reducible assumption | with_reducible apply losePlain_only | with_reducible apply updRst_only | with_reducible apply noteSource_only | with_reducible apply openEntry_only | with_reducible apply coreAssert_only | with_reducible apply systemAssert_only | with_reducible refine OnlyChanges.foldl ?_ (fun _ _ _ => ?_) | with_reducible apply OnlyChanges.ite | split | (with_reducible apply OnlyChanges.upd <;> first | exact fun q => absurd (by assumption) q | with_reducible exact fun _ => rfl | skip)
  all_goals first | exact fun _ => rfl | skip

theorem widenReset_only (src reach : Nat) {s : State} (krst : Part.rst ∈ l_) (h_ : OnlyChanges l_ u_ s) : OnlyChanges l_ u_ (widenReset src reach s) := by
  unfold widenReset
  try dsimp only
  repeat' first | with_reducible assumption | with_reducible apply noteSource_only | with_reducible apply updCause_only | with_reducible apply updRst_only | with_reducible refine OnlyChanges.foldl ?_ (fun _ _ _ => ?_) | with_reducible apply OnlyChanges.ite | split | (with_reducible apply OnlyChanges.upd <;> first | exact fun q => absurd (by assumption) q | with_reducible exact fun _ => rfl | skip)
  all_goals first | exact fun _ => rfl | skip

theorem assertBooting_only (src reach : Nat) {s : State} (krst : Part.rst ∈ l_) (kport : Part.port ∈ l_) (kease : Part.ease ∈ l_) (kenergy : Part.energy ∈ l_) (kbilling : Part.billing ∈ l_) (klink : Part.link ∈ l_) (ksw : Part.sw ∈ l_) (kloads : Part.loads ∈ l_) (ktrv : Part.trv ∈ l_) (krdr : Part.rdr ∈ l_) (kdisp : Part.disp ∈ l_) (kstore : Part.store ∈ l_) (h_ : OnlyChanges l_ u_ s) : OnlyChanges l_ u_ (assertBooting src reach s) := by
  unfold assertBooting
  try dsimp only
  repeat' first | with_reducible assumption | with_reducible apply widenReset_only | with_reducible apply releaseSource_only | with_reducible apply coreAssert_only | with_reducible apply updRst_only | with_reducible apply systemAssert_only | with_reducible refine OnlyChanges.foldl ?_ (fun _ _ _ => ?_) | with_reducible apply OnlyChanges.ite | split | (with_reducible apply OnlyChanges.upd <;> first | exact fun q => absurd (by assumption) q | with_reducible exact fun _ => rfl | skip)
  all_goals first | exact fun _ => rfl | skip

theorem assertSource_only (src : Nat) {s : State} (krst : Part.rst ∈ l_) (kport : Part.port ∈ l_) (kease : Part.ease ∈ l_) (kenergy : Part.energy ∈ l_) (kbilling : Part.billing ∈ l_) (klink : Part.link ∈ l_) (ksw : Part.sw ∈ l_) (kloads : Part.loads ∈ l_) (ktrv : Part.trv ∈ l_) (krdr : Part.rdr ∈ l_) (kdisp : Part.disp ∈ l_) (kstore : Part.store ∈ l_) (h_ : OnlyChanges l_ u_ s) : OnlyChanges l_ u_ (assertSource src s) := by
  unfold assertSource
  try dsimp only
  repeat' first | with_reducible assumption | with_reducible apply updRst_only | with_reducible apply beginReset_only | with_reducible apply widenReset_only | with_reducible apply systemAssert_only | with_reducible apply assertBooting_only | with_reducible refine OnlyChanges.foldl ?_ (fun _ _ _ => ?_) | with_reducible apply OnlyChanges.ite | split | (with_reducible apply OnlyChanges.upd <;> first | exact fun q => absurd (by assumption) q | with_reducible exact fun _ => rfl | skip)
  all_goals first | exact fun _ => rfl | skip

theorem railFails_only  {s : State} (kpower : Part.power ∈ l_) (klink : Part.link ∈ l_) (h_ : OnlyChanges l_ u_ s) : OnlyChanges l_ u_ (railFails s) := by
  unfold railFails
  try dsimp only
  repeat' first | with_reducible assumption | with_reducible refine OnlyChanges.foldl ?_ (fun _ _ _ => ?_) | with_reducible apply OnlyChanges.ite | split | (with_reducible apply OnlyChanges.upd <;> first | exact fun q => absurd (by assumption) q | with_reducible exact fun _ => rfl | skip)
  all_goals first | exact fun _ => rfl | skip

end Sys2Proof.Machine
end

