-- ==== Sys2Proof/Laws/OnlySwitching.lean ====
section
/-!
SUPPORT. The frames of the operations of Machine/Switching.lean (OnlyChanges, for every list that holds the parts they touch).
-/

namespace Sys2Proof.Machine

set_option linter.all false

open Sys2Proof.Safety

variable {l_ : List Part} {u_ : State}

theorem updPm_only (m : Nat) (f : Module → Module) {s : State} (ksw : Part.sw ∈ l_) (h_ : OnlyChanges l_ u_ s) : OnlyChanges l_ u_ (updPm m f s) := by
  unfold updPm
  try dsimp only
  repeat' first | with_reducible assumption | with_reducible refine OnlyChanges.foldl ?_ (fun _ _ _ => ?_) | with_reducible apply OnlyChanges.ite | split | (with_reducible apply OnlyChanges.upd <;> first | exact fun q => absurd (by assumption) q | with_reducible exact fun _ => rfl | skip)
  all_goals first | exact fun _ => rfl | skip

theorem joinConfirmed_only (j : BusJob) {s : State} (kport : Part.port ∈ l_) (ksw : Part.sw ∈ l_) (kstore : Part.store ∈ l_) (h_ : OnlyChanges l_ u_ s) : OnlyChanges l_ u_ (joinConfirmed j s) := by
  unfold joinConfirmed
  try dsimp only
  repeat' first | with_reducible assumption | with_reducible apply setOwner_only | with_reducible apply givePermits_only | with_reducible apply endJob_only | with_reducible refine OnlyChanges.foldl ?_ (fun _ _ _ => ?_) | with_reducible apply OnlyChanges.ite | split | (with_reducible apply OnlyChanges.upd <;> first | exact fun q => absurd (by assumption) q | with_reducible exact fun _ => rfl | skip)
  all_goals first | exact fun _ => rfl | skip

theorem releaseConfirmed_only (j : BusJob) {s : State} (kport : Part.port ∈ l_) (ksw : Part.sw ∈ l_) (kstore : Part.store ∈ l_) (h_ : OnlyChanges l_ u_ s) : OnlyChanges l_ u_ (releaseConfirmed j s) := by
  unfold releaseConfirmed
  try dsimp only
  repeat' first | with_reducible assumption | with_reducible apply endJob_only | with_reducible apply setOwner_only | with_reducible refine OnlyChanges.foldl ?_ (fun _ _ _ => ?_) | with_reducible apply OnlyChanges.ite | split | (with_reducible apply OnlyChanges.upd <;> first | exact fun q => absurd (by assumption) q | with_reducible exact fun _ => rfl | skip)
  all_goals first | exact fun _ => rfl | skip

theorem feedbackReport_only (d cycle : Nat) {s : State} (kfaults : Part.faults ∈ l_) (h_ : OnlyChanges l_ u_ s) : OnlyChanges l_ u_ (feedbackReport d cycle s) := by
  unfold feedbackReport
  try dsimp only
  repeat' first | with_reducible assumption | with_reducible apply report_only | with_reducible refine OnlyChanges.foldl ?_ (fun _ _ _ => ?_) | with_reducible apply OnlyChanges.ite | split | (with_reducible apply OnlyChanges.upd <;> first | exact fun q => absurd (by assumption) q | with_reducible exact fun _ => rfl | skip)
  all_goals first | exact fun _ => rfl | skip

theorem matrixWelded_only (n : Nat) {s : State} (kport : Part.port ∈ l_) (kease : Part.ease ∈ l_) (kbilling : Part.billing ∈ l_) (klink : Part.link ∈ l_) (ksw : Part.sw ∈ l_) (kstore : Part.store ∈ l_) (h_ : OnlyChanges l_ u_ s) : OnlyChanges l_ u_ (matrixWelded n s) := by
  unfold matrixWelded
  try dsimp only
  repeat' first | with_reducible assumption | with_reducible apply lockOutlet_only | with_reducible apply demandStop_only | with_reducible apply updSq_only | with_reducible refine OnlyChanges.foldl ?_ (fun _ _ _ => ?_) | with_reducible apply OnlyChanges.ite | split | (with_reducible apply OnlyChanges.upd <;> first | exact fun q => absurd (by assumption) q | with_reducible exact fun _ => rfl | skip)
  all_goals first | exact fun _ => rfl | skip

theorem busJoinCmd_only (h : Hdr) (p : List Byte) {s : State} (ksw : Part.sw ∈ l_) (h_ : OnlyChanges l_ u_ s) : OnlyChanges l_ u_ (busJoinCmd h p s).run.st := by
  unfold busJoinCmd
  try dsimp only
  repeat' first | with_reducible assumption | with_reducible refine OnlyChanges.foldl ?_ (fun _ _ _ => ?_) | with_reducible apply OnlyChanges.ite | split | (with_reducible apply OnlyChanges.upd <;> first | exact fun q => absurd (by assumption) q | with_reducible exact fun _ => rfl | skip)
  all_goals first | exact fun _ => rfl | skip

theorem busReleaseCmd_only (h : Hdr) (p : List Byte) {s : State} (ksw : Part.sw ∈ l_) (h_ : OnlyChanges l_ u_ s) : OnlyChanges l_ u_ (busReleaseCmd h p s).run.st := by
  unfold busReleaseCmd
  try dsimp only
  repeat' first | with_reducible assumption | with_reducible refine OnlyChanges.foldl ?_ (fun _ _ _ => ?_) | with_reducible apply OnlyChanges.ite | split | (with_reducible apply OnlyChanges.upd <;> first | exact fun q => absurd (by assumption) q | with_reducible exact fun _ => rfl | skip)
  all_goals first | exact fun _ => rfl | skip

theorem stopWithoutModule_only (n : Nat) {s : State} (kport : Part.port ∈ l_) (kease : Part.ease ∈ l_) (kbilling : Part.billing ∈ l_) (klink : Part.link ∈ l_) (ksw : Part.sw ∈ l_) (kstore : Part.store ∈ l_) (h_ : OnlyChanges l_ u_ s) : OnlyChanges l_ u_ (stopWithoutModule n s) := by
  unfold stopWithoutModule
  try dsimp only
  repeat' first | with_reducible assumption | with_reducible apply safeRampStop_only | with_reducible apply endAfterStop_only | with_reducible apply openPair_only | with_reducible apply safeStopEvent_only | with_reducible apply updSq_only | with_reducible refine OnlyChanges.foldl ?_ (fun _ _ _ => ?_) | with_reducible apply OnlyChanges.ite | split | (with_reducible apply OnlyChanges.upd <;> first | exact fun q => absurd (by assumption) q | with_reducible exact fun _ => rfl | skip)
  all_goals first | exact fun _ => rfl | skip

theorem moduleGone_only (m : Nat) {s : State} (kport : Part.port ∈ l_) (kease : Part.ease ∈ l_) (kbilling : Part.billing ∈ l_) (klink : Part.link ∈ l_) (ksw : Part.sw ∈ l_) (kstore : Part.store ∈ l_) (h_ : OnlyChanges l_ u_ s) : OnlyChanges l_ u_ (moduleGone m s) := by
  unfold moduleGone
  try dsimp only
  repeat' first | with_reducible assumption | with_reducible apply stopWithoutModule_only | with_reducible refine OnlyChanges.foldl ?_ (fun _ _ _ => ?_) | with_reducible apply OnlyChanges.ite | split | (with_reducible apply OnlyChanges.upd <;> first | exact fun q => absurd (by assumption) q | with_reducible exact fun _ => rfl | skip)
  all_goals first | exact fun _ => rfl | skip

theorem updIn_only (i : Nat) (f : SafeIn → SafeIn) {s : State} (ksw : Part.sw ∈ l_) (h_ : OnlyChanges l_ u_ s) : OnlyChanges l_ u_ (updIn i f s) := by
  unfold updIn
  try dsimp only
  repeat' first | with_reducible assumption | with_reducible refine OnlyChanges.foldl ?_ (fun _ _ _ => ?_) | with_reducible apply OnlyChanges.ite | split | (with_reducible apply OnlyChanges.upd <;> first | exact fun q => absurd (by assumption) q | with_reducible exact fun _ => rfl | skip)
  all_goals first | exact fun _ => rfl | skip

theorem demandReaction_only (i : Nat) {s : State} (kport : Part.port ∈ l_) (kease : Part.ease ∈ l_) (kbilling : Part.billing ∈ l_) (klink : Part.link ∈ l_) (ksw : Part.sw ∈ l_) (kstore : Part.store ∈ l_) (h_ : OnlyChanges l_ u_ s) : OnlyChanges l_ u_ (demandReaction i s) := by
  unfold demandReaction
  try dsimp only
  repeat' first | with_reducible assumption | with_reducible apply fastStop_only | with_reducible apply driverOff_only | with_reducible apply demandStop_only | with_reducible refine OnlyChanges.foldl ?_ (fun _ _ _ => ?_) | with_reducible apply OnlyChanges.ite | split | (with_reducible apply OnlyChanges.upd <;> first | exact fun q => absurd (by assumption) q | with_reducible exact fun _ => rfl | skip)
  all_goals first | exact fun _ => rfl | skip

theorem enterDemand_only (i : Nat) {s : State} (kport : Part.port ∈ l_) (kease : Part.ease ∈ l_) (kbilling : Part.billing ∈ l_) (klink : Part.link ∈ l_) (ksw : Part.sw ∈ l_) (kstore : Part.store ∈ l_) (h_ : OnlyChanges l_ u_ s) : OnlyChanges l_ u_ (enterDemand i s) := by
  unfold enterDemand
  try dsimp only
  repeat' first | with_reducible assumption | with_reducible apply updIn_only | with_reducible apply demandReaction_only | with_reducible apply event_only | with_reducible refine OnlyChanges.foldl ?_ (fun _ _ _ => ?_) | with_reducible apply OnlyChanges.ite | split | (with_reducible apply OnlyChanges.upd <;> first | exact fun q => absurd (by assumption) q | with_reducible exact fun _ => rfl | skip)
  all_goals first | exact fun _ => rfl | skip

theorem isolatedDemands_only  {s : State} (kport : Part.port ∈ l_) (kease : Part.ease ∈ l_) (kbilling : Part.billing ∈ l_) (klink : Part.link ∈ l_) (ksw : Part.sw ∈ l_) (kstore : Part.store ∈ l_) (h_ : OnlyChanges l_ u_ s) : OnlyChanges l_ u_ (isolatedDemands s) := by
  unfold isolatedDemands
  try dsimp only
  repeat' first | with_reducible assumption | with_reducible apply enterDemand_only | with_reducible refine OnlyChanges.foldl ?_ (fun _ _ _ => ?_) | with_reducible apply OnlyChanges.ite | split | (with_reducible apply OnlyChanges.upd <;> first | exact fun q => absurd (by assumption) q | with_reducible exact fun _ => rfl | skip)
  all_goals first | exact fun _ => rfl | skip

theorem inputFaulty_only (i kind : Nat) {s : State} (kport : Part.port ∈ l_) (kease : Part.ease ∈ l_) (kbilling : Part.billing ∈ l_) (klink : Part.link ∈ l_) (ksw : Part.sw ∈ l_) (kstore : Part.store ∈ l_) (h_ : OnlyChanges l_ u_ s) : OnlyChanges l_ u_ (inputFaulty i kind s) := by
  unfold inputFaulty
  try dsimp only
  repeat' first | with_reducible assumption | with_reducible apply updIn_only | with_reducible apply enterDemand_only | with_reducible apply event_only | with_reducible refine OnlyChanges.foldl ?_ (fun _ _ _ => ?_) | with_reducible apply OnlyChanges.ite | split | (with_reducible apply OnlyChanges.upd <;> first | exact fun q => absurd (by assumption) q | with_reducible exact fun _ => rfl | skip)
  all_goals first | exact fun _ => rfl | skip

theorem testDone_only (result : Nat) {s : State} (kport : Part.port ∈ l_) (ksw : Part.sw ∈ l_) (kstore : Part.store ∈ l_) (h_ : OnlyChanges l_ u_ s) : OnlyChanges l_ u_ (testDone result s) := by
  unfold testDone
  try dsimp only
  repeat' first | with_reducible assumption | with_reducible apply emit_only | with_reducible refine OnlyChanges.foldl ?_ (fun _ _ _ => ?_) | with_reducible apply OnlyChanges.ite | split | (with_reducible apply OnlyChanges.upd <;> first | exact fun q => absurd (by assumption) q | with_reducible exact fun _ => rfl | skip)
  all_goals first | exact fun _ => rfl | skip

theorem testCheck_only  {s : State} (kport : Part.port ∈ l_) (ksw : Part.sw ∈ l_) (kstore : Part.store ∈ l_) (h_ : OnlyChanges l_ u_ s) : OnlyChanges l_ u_ (testCheck s) := by
  unfold testCheck
  try dsimp only
  repeat' first | with_reducible assumption | with_reducible apply testDone_only | with_reducible refine OnlyChanges.foldl ?_ (fun _ _ _ => ?_) | with_reducible apply OnlyChanges.ite | split | (with_reducible apply OnlyChanges.upd <;> first | exact fun q => absurd (by assumption) q | with_reducible exact fun _ => rfl | skip)
  all_goals first | exact fun _ => rfl | skip

theorem demandEnded_only (i : Nat) {s : State} (kport : Part.port ∈ l_) (ksw : Part.sw ∈ l_) (kstore : Part.store ∈ l_) (h_ : OnlyChanges l_ u_ s) : OnlyChanges l_ u_ (demandEnded i s) := by
  unfold demandEnded
  try dsimp only
  repeat' first | with_reducible assumption | with_reducible apply updIn_only | with_reducible apply testCheck_only | with_reducible apply event_only | with_reducible refine OnlyChanges.foldl ?_ (fun _ _ _ => ?_) | with_reducible apply OnlyChanges.ite | split | (with_reducible apply OnlyChanges.upd <;> first | exact fun q => absurd (by assumption) q | with_reducible exact fun _ => rfl | skip)
  all_goals first | exact fun _ => rfl | skip

theorem safetyResetCmd_only (p : List Byte) {s : State} (kport : Part.port ∈ l_) (ksw : Part.sw ∈ l_) (kstore : Part.store ∈ l_) (h_ : OnlyChanges l_ u_ s) : OnlyChanges l_ u_ (safetyResetCmd p s).run.st := by
  unfold safetyResetCmd
  try dsimp only
  repeat' first | with_reducible assumption | with_reducible apply demandEnded_only | with_reducible refine OnlyChanges.foldl ?_ (fun _ _ _ => ?_) | with_reducible apply OnlyChanges.ite | split | (with_reducible apply OnlyChanges.upd <;> first | exact fun q => absurd (by assumption) q | with_reducible exact fun _ => rfl | skip)
  all_goals first | exact fun _ => rfl | skip

theorem startupTestCmd_only (h : Hdr) (p : List Byte) {s : State} (kport : Part.port ∈ l_) (ksw : Part.sw ∈ l_) (kstore : Part.store ∈ l_) (h_ : OnlyChanges l_ u_ s) : OnlyChanges l_ u_ (startupTestCmd h p s).run.st := by
  unfold startupTestCmd
  try dsimp only
  repeat' first | with_reducible assumption | with_reducible apply testCheck_only | with_reducible refine OnlyChanges.foldl ?_ (fun _ _ _ => ?_) | with_reducible apply OnlyChanges.ite | split | (with_reducible apply OnlyChanges.upd <;> first | exact fun q => absurd (by assumption) q | with_reducible exact fun _ => rfl | skip)
  all_goals first | exact fun _ => rfl | skip

theorem weldClearCmd_only (p : List Byte) {s : State} (kport : Part.port ∈ l_) (ksw : Part.sw ∈ l_) (kstore : Part.store ∈ l_) (h_ : OnlyChanges l_ u_ s) : OnlyChanges l_ u_ (weldClearCmd p s).run.st := by
  unfold weldClearCmd
  try dsimp only
  repeat' first | with_reducible assumption | with_reducible apply seqTo_only | with_reducible apply updDrv_only | with_reducible refine OnlyChanges.foldl ?_ (fun _ _ _ => ?_) | with_reducible apply OnlyChanges.ite | split | (with_reducible apply OnlyChanges.upd <;> first | exact fun q => absurd (by assumption) q | with_reducible exact fun _ => rfl | skip)
  all_goals first | exact fun _ => rfl | skip

theorem auxCmd_only (p : List Byte) {s : State} (kease : Part.ease ∈ l_) (ksw : Part.sw ∈ l_) (h_ : OnlyChanges l_ u_ s) : OnlyChanges l_ u_ (auxCmd p s).run.st := by
  unfold auxCmd
  try dsimp only
  repeat' first | with_reducible assumption | with_reducible apply driverOff_only | with_reducible apply requestPullIn_only | with_reducible refine OnlyChanges.foldl ?_ (fun _ _ _ => ?_) | with_reducible apply OnlyChanges.ite | split | (with_reducible apply OnlyChanges.upd <;> first | exact fun q => absurd (by assumption) q | with_reducible exact fun _ => rfl | skip)
  all_goals first | exact fun _ => rfl | skip

theorem ctrlFrame_only (n : Nat) {s : State} (kport : Part.port ∈ l_) (kease : Part.ease ∈ l_) (kbilling : Part.billing ∈ l_) (klink : Part.link ∈ l_) (ksw : Part.sw ∈ l_) (kstore : Part.store ∈ l_) (h_ : OnlyChanges l_ u_ s) : OnlyChanges l_ u_ (ctrlFrame n s) := by
  unfold ctrlFrame
  try dsimp only
  repeat' first | with_reducible assumption | with_reducible apply updSq_only | with_reducible apply openPair_only | with_reducible apply safeStopEvent_only | with_reducible refine OnlyChanges.foldl ?_ (fun _ _ _ => ?_) | with_reducible apply OnlyChanges.ite | split | (with_reducible apply OnlyChanges.upd <;> first | exact fun q => absurd (by assumption) q | with_reducible exact fun _ => rfl | skip)
  all_goals first | exact fun _ => rfl | skip

theorem plugFrame_only (n : Nat) (t : Int) (ok : Bool) {s : State} (kport : Part.port ∈ l_) (kease : Part.ease ∈ l_) (kbilling : Part.billing ∈ l_) (klink : Part.link ∈ l_) (ksw : Part.sw ∈ l_) (kstore : Part.store ∈ l_) (h_ : OnlyChanges l_ u_ s) : OnlyChanges l_ u_ (plugFrame n t ok s) := by
  unfold plugFrame
  try dsimp only
  repeat' first | with_reducible assumption | with_reducible apply updSq_only | with_reducible apply demandStop_only | with_reducible refine OnlyChanges.foldl ?_ (fun _ _ _ => ?_) | with_reducible apply OnlyChanges.ite | split | (with_reducible apply OnlyChanges.upd <;> first | exact fun q => absurd (by assumption) q | with_reducible exact fun _ => rfl | skip)
  all_goals first | exact fun _ => rfl | skip

theorem targetsFrame_only  {s : State} (ksw : Part.sw ∈ l_) (h_ : OnlyChanges l_ u_ s) : OnlyChanges l_ u_ (targetsFrame s) := by
  unfold targetsFrame
  try dsimp only
  repeat' first | with_reducible assumption | with_reducible apply updPm_only | with_reducible refine OnlyChanges.foldl ?_ (fun _ _ _ => ?_) | with_reducible apply OnlyChanges.ite | split | (with_reducible apply OnlyChanges.upd <;> first | exact fun q => absurd (by assumption) q | with_reducible exact fun _ => rfl | skip)
  all_goals first | exact fun _ => rfl | skip

theorem jobsFrame_only  {s : State} (kease : Part.ease ∈ l_) (ksw : Part.sw ∈ l_) (h_ : OnlyChanges l_ u_ s) : OnlyChanges l_ u_ (jobsFrame s) := by
  unfold jobsFrame
  try dsimp only
  repeat' first | with_reducible assumption | with_reducible apply driverOff_only | with_reducible refine OnlyChanges.foldl ?_ (fun _ _ _ => ?_) | with_reducible apply OnlyChanges.ite | split | (with_reducible apply OnlyChanges.upd <;> first | exact fun q => absurd (by assumption) q | with_reducible exact fun _ => rfl | skip)
  all_goals first | exact fun _ => rfl | skip

theorem switchFrame_only (m : FrameIn) {s : State} (kport : Part.port ∈ l_) (kease : Part.ease ∈ l_) (kbilling : Part.billing ∈ l_) (klink : Part.link ∈ l_) (ksw : Part.sw ∈ l_) (kstore : Part.store ∈ l_) (h_ : OnlyChanges l_ u_ s) : OnlyChanges l_ u_ (switchFrame m s) := by
  unfold switchFrame
  try dsimp only
  repeat' first | with_reducible assumption | with_reducible apply ctrlFrame_only | with_reducible apply plugFrame_only | with_reducible apply updDrv_only | with_reducible apply targetsFrame_only | with_reducible apply jobsFrame_only | with_reducible apply isolatedDemands_only | with_reducible refine OnlyChanges.foldl ?_ (fun _ _ _ => ?_) | with_reducible apply OnlyChanges.ite | split | (with_reducible apply OnlyChanges.upd <;> first | exact fun q => absurd (by assumption) q | with_reducible exact fun _ => rfl | skip)
  all_goals first | exact fun _ => rfl | skip

end Sys2Proof.Machine
end

