-- ==== Sys2Proof/Laws/OnlyFaults.lean ====
section
/-!
SUPPORT. The frames of the operations of Machine/Faults.lean (OnlyChanges, for every list that holds the parts they touch).
-/

namespace Sys2Proof.Machine

set_option linter.all false

open Sys2Proof.Safety

variable {l_ : List Part} {u_ : State}

theorem updCell_only (i : Nat) (f : CellState → CellState) {s : State} (kfaults : Part.faults ∈ l_) (h_ : OnlyChanges l_ u_ s) : OnlyChanges l_ u_ (updCell i f s) := by
  unfold updCell
  try dsimp only
  repeat' first | with_reducible assumption | with_reducible refine OnlyChanges.foldl ?_ (fun _ _ _ => ?_) | with_reducible apply OnlyChanges.ite | split | (with_reducible apply OnlyChanges.upd <;> first | exact fun q => absurd (by assumption) q | with_reducible exact fun _ => rfl | skip)
  all_goals first | exact fun _ => rfl | skip

theorem globalSafeNow_only  {s : State} (kport : Part.port ∈ l_) (kfaults : Part.faults ∈ l_) (kease : Part.ease ∈ l_) (kenergy : Part.energy ∈ l_) (klink : Part.link ∈ l_) (ksw : Part.sw ∈ l_) (kloads : Part.loads ∈ l_) (kdisp : Part.disp ∈ l_) (kstore : Part.store ∈ l_) (h_ : OnlyChanges l_ u_ s) : OnlyChanges l_ u_ (globalSafeNow s) := by
  unfold globalSafeNow
  try dsimp only
  repeat' first | with_reducible assumption | with_reducible apply outputsSafe_only | with_reducible refine OnlyChanges.foldl ?_ (fun _ _ _ => ?_) | with_reducible apply OnlyChanges.ite | split | (with_reducible apply OnlyChanges.upd <;> first | exact fun q => absurd (by assumption) q | with_reducible exact fun _ => rfl | skip)
  all_goals first | exact fun _ => rfl | skip

theorem safetyFault_only  {s : State} (krst : Part.rst ∈ l_) (kport : Part.port ∈ l_) (kfaults : Part.faults ∈ l_) (kease : Part.ease ∈ l_) (kenergy : Part.energy ∈ l_) (kbilling : Part.billing ∈ l_) (klink : Part.link ∈ l_) (ksw : Part.sw ∈ l_) (kloads : Part.loads ∈ l_) (ktrv : Part.trv ∈ l_) (krdr : Part.rdr ∈ l_) (kdisp : Part.disp ∈ l_) (kstore : Part.store ∈ l_) (h_ : OnlyChanges l_ u_ s) : OnlyChanges l_ u_ (safetyFault s) := by
  unfold safetyFault
  try dsimp only
  repeat' first | with_reducible assumption | with_reducible apply assertSource_only | with_reducible apply globalSafeNow_only | with_reducible refine OnlyChanges.foldl ?_ (fun _ _ _ => ?_) | with_reducible apply OnlyChanges.ite | split | (with_reducible apply OnlyChanges.upd <;> first | exact fun q => absurd (by assumption) q | with_reducible exact fun _ => rfl | skip)
  all_goals first | exact fun _ => rfl | skip

theorem linkFault_only (outs : List Nat) {s : State} (kport : Part.port ∈ l_) (kfaults : Part.faults ∈ l_) (kease : Part.ease ∈ l_) (kbilling : Part.billing ∈ l_) (klink : Part.link ∈ l_) (ksw : Part.sw ∈ l_) (kstore : Part.store ∈ l_) (h_ : OnlyChanges l_ u_ s) : OnlyChanges l_ u_ (linkFault outs s) := by
  unfold linkFault
  try dsimp only
  repeat' first | with_reducible assumption | with_reducible apply stopLink_only | with_reducible refine OnlyChanges.foldl ?_ (fun _ _ _ => ?_) | with_reducible apply OnlyChanges.ite | split | (with_reducible apply OnlyChanges.upd <;> first | exact fun q => absurd (by assumption) q | with_reducible exact fun _ => rfl | skip)
  all_goals first | exact fun _ => rfl | skip

theorem trvFault_only  {s : State} (kport : Part.port ∈ l_) (kfaults : Part.faults ∈ l_) (kease : Part.ease ∈ l_) (ktrv : Part.trv ∈ l_) (kstore : Part.store ∈ l_) (h_ : OnlyChanges l_ u_ s) : OnlyChanges l_ u_ (trvFault s) := by
  unfold trvFault
  try dsimp only
  repeat' first | with_reducible assumption | with_reducible apply trvSilent_only | with_reducible apply releaseOpt_only | with_reducible refine OnlyChanges.foldl ?_ (fun _ _ _ => ?_) | with_reducible apply OnlyChanges.ite | split | (with_reducible apply OnlyChanges.upd <;> first | exact fun q => absurd (by assumption) q | with_reducible exact fun _ => rfl | skip)
  all_goals first | exact fun _ => rfl | skip

theorem readerFault_only  {s : State} (kport : Part.port ∈ l_) (kfaults : Part.faults ∈ l_) (kease : Part.ease ∈ l_) (krdr : Part.rdr ∈ l_) (kstore : Part.store ∈ l_) (h_ : OnlyChanges l_ u_ s) : OnlyChanges l_ u_ (readerFault s) := by
  unfold readerFault
  try dsimp only
  repeat' first | with_reducible assumption | with_reducible apply readerStop_only | with_reducible refine OnlyChanges.foldl ?_ (fun _ _ _ => ?_) | with_reducible apply OnlyChanges.ite | split | (with_reducible apply OnlyChanges.upd <;> first | exact fun q => absurd (by assumption) q | with_reducible exact fun _ => rfl | skip)
  all_goals first | exact fun _ => rfl | skip

theorem witnessFault_only  {s : State} (kfaults : Part.faults ∈ l_) (h_ : OnlyChanges l_ u_ s) : OnlyChanges l_ u_ (witnessFault s) := by
  unfold witnessFault
  try dsimp only
  repeat' first | with_reducible assumption | with_reducible refine OnlyChanges.foldl ?_ (fun _ _ _ => ?_) | with_reducible apply OnlyChanges.ite | split | (with_reducible apply OnlyChanges.upd <;> first | exact fun q => absurd (by assumption) q | with_reducible exact fun _ => rfl | skip)
  all_goals first | exact fun _ => rfl | skip

theorem cellEffect_only (c : CellId) {s : State} (kport : Part.port ∈ l_) (kfaults : Part.faults ∈ l_) (kease : Part.ease ∈ l_) (kenergy : Part.energy ∈ l_) (kbilling : Part.billing ∈ l_) (klink : Part.link ∈ l_) (ksw : Part.sw ∈ l_) (kloads : Part.loads ∈ l_) (ktrv : Part.trv ∈ l_) (krdr : Part.rdr ∈ l_) (kdisp : Part.disp ∈ l_) (kstore : Part.store ∈ l_) (h_ : OnlyChanges l_ u_ s) : OnlyChanges l_ u_ (cellEffect c s) := by
  unfold cellEffect
  try dsimp only
  repeat' first | with_reducible assumption | with_reducible apply updDrv_only | with_reducible apply driverOff_only | with_reducible apply isolatedDemands_only | with_reducible apply proofLapses_only | with_reducible apply moduleGone_only | with_reducible apply updPm_only | with_reducible apply isolateChannel_only | with_reducible apply trvFault_only | with_reducible apply readerFault_only | with_reducible apply displayBlockFaulty_only | with_reducible apply witnessFault_only | with_reducible refine OnlyChanges.foldl ?_ (fun _ _ _ => ?_) | with_reducible apply OnlyChanges.ite | split | (with_reducible apply OnlyChanges.upd <;> first | exact fun q => absurd (by assumption) q | with_reducible exact fun _ => rfl | skip)
  all_goals first | exact fun _ => rfl | skip

theorem regionReaction_only (region : Nat) (outs : List Nat) {s : State} (krst : Part.rst ∈ l_) (kport : Part.port ∈ l_) (kfaults : Part.faults ∈ l_) (kease : Part.ease ∈ l_) (kenergy : Part.energy ∈ l_) (kbilling : Part.billing ∈ l_) (klink : Part.link ∈ l_) (ksw : Part.sw ∈ l_) (kloads : Part.loads ∈ l_) (ktrv : Part.trv ∈ l_) (krdr : Part.rdr ∈ l_) (kdisp : Part.disp ∈ l_) (kstore : Part.store ∈ l_) (h_ : OnlyChanges l_ u_ s) : OnlyChanges l_ u_ (regionReaction region outs s) := by
  unfold regionReaction
  try dsimp only
  repeat' first | with_reducible assumption | with_reducible apply safetyFault_only | with_reducible apply metrologyFault_only | with_reducible apply linkFault_only | with_reducible apply assertSource_only | with_reducible refine OnlyChanges.foldl ?_ (fun _ _ _ => ?_) | with_reducible apply OnlyChanges.ite | split | (with_reducible apply OnlyChanges.upd <;> first | exact fun q => absurd (by assumption) q | with_reducible exact fun _ => rfl | skip)
  all_goals first | exact fun _ => rfl | skip

theorem isolateBlock_only (region block : Nat) {s : State} (kfaults : Part.faults ∈ l_) (h_ : OnlyChanges l_ u_ s) : OnlyChanges l_ u_ (isolateBlock region block s) := by
  unfold isolateBlock
  try dsimp only
  repeat' first | with_reducible assumption | with_reducible refine OnlyChanges.foldl ?_ (fun _ _ _ => ?_) | with_reducible apply OnlyChanges.ite | split | (with_reducible apply OnlyChanges.upd <;> first | exact fun q => absurd (by assumption) q | with_reducible exact fun _ => rfl | skip)
  all_goals first | exact fun _ => rfl | skip

theorem isolateCell_only (cls : Byte) (i cycle failedState : Nat) {s : State} (krst : Part.rst ∈ l_) (kport : Part.port ∈ l_) (kfaults : Part.faults ∈ l_) (kease : Part.ease ∈ l_) (kenergy : Part.energy ∈ l_) (kbilling : Part.billing ∈ l_) (klink : Part.link ∈ l_) (ksw : Part.sw ∈ l_) (kloads : Part.loads ∈ l_) (ktrv : Part.trv ∈ l_) (krdr : Part.rdr ∈ l_) (kdisp : Part.disp ∈ l_) (kstore : Part.store ∈ l_) (h_ : OnlyChanges l_ u_ s) : OnlyChanges l_ u_ (isolateCell cls i cycle failedState s) := by
  unfold isolateCell
  try dsimp only
  repeat' first | with_reducible assumption | with_reducible apply updCell_only | with_reducible apply isolateBlock_only | with_reducible apply cellReport_only | with_reducible apply cellEffect_only | with_reducible apply regionReaction_only | with_reducible refine OnlyChanges.foldl ?_ (fun _ _ _ => ?_) | with_reducible apply OnlyChanges.ite | split | (with_reducible apply OnlyChanges.upd <;> first | exact fun q => absurd (by assumption) q | with_reducible exact fun _ => rfl | skip)
  all_goals first | exact fun _ => rfl | skip

theorem sequencerFault_only (i cycle : Nat) {s : State} (krst : Part.rst ∈ l_) (kport : Part.port ∈ l_) (kfaults : Part.faults ∈ l_) (kease : Part.ease ∈ l_) (kenergy : Part.energy ∈ l_) (kbilling : Part.billing ∈ l_) (klink : Part.link ∈ l_) (ksw : Part.sw ∈ l_) (kloads : Part.loads ∈ l_) (ktrv : Part.trv ∈ l_) (krdr : Part.rdr ∈ l_) (kdisp : Part.disp ∈ l_) (kstore : Part.store ∈ l_) (h_ : OnlyChanges l_ u_ s) : OnlyChanges l_ u_ (sequencerFault i cycle s) := by
  unfold sequencerFault
  try dsimp only
  repeat' first | with_reducible assumption | with_reducible apply report_only | with_reducible apply isolateBlock_only | with_reducible apply isolateBank_only | with_reducible apply cellEffect_only | with_reducible apply regionReaction_only | with_reducible refine OnlyChanges.foldl ?_ (fun _ _ _ => ?_) | with_reducible apply OnlyChanges.ite | split | (with_reducible apply OnlyChanges.upd <;> first | exact fun q => absurd (by assumption) q | with_reducible exact fun _ => rfl | skip)
  all_goals first | exact fun _ => rfl | skip

theorem updJob_only (job inst : Nat) (f : JobStat → JobStat) {s : State} (kfaults : Part.faults ∈ l_) (h_ : OnlyChanges l_ u_ s) : OnlyChanges l_ u_ (updJob job inst f s) := by
  unfold updJob
  try dsimp only
  repeat' first | with_reducible assumption | with_reducible refine OnlyChanges.foldl ?_ (fun _ _ _ => ?_) | with_reducible apply OnlyChanges.ite | split | (with_reducible apply OnlyChanges.upd <;> first | exact fun q => absurd (by assumption) q | with_reducible exact fun _ => rfl | skip)
  all_goals first | exact fun _ => rfl | skip

theorem deadlineReport_only (job inst cycle : Nat) (esc : Bool) (outs : List Nat) (reaction : Nat) {s : State} (kfaults : Part.faults ∈ l_) (h_ : OnlyChanges l_ u_ s) : OnlyChanges l_ u_ (deadlineReport job inst cycle esc outs reaction s) := by
  unfold deadlineReport
  try dsimp only
  repeat' first | with_reducible assumption | with_reducible apply report_only | with_reducible refine OnlyChanges.foldl ?_ (fun _ _ _ => ?_) | with_reducible apply OnlyChanges.ite | split | (with_reducible apply OnlyChanges.upd <;> first | exact fun q => absurd (by assumption) q | with_reducible exact fun _ => rfl | skip)
  all_goals first | exact fun _ => rfl | skip

theorem loseShare_only (n : Nat) {s : State} (kenergy : Part.energy ∈ l_) (h_ : OnlyChanges l_ u_ s) : OnlyChanges l_ u_ (loseShare n s) := by
  unfold loseShare
  try dsimp only
  repeat' first | with_reducible assumption | with_reducible apply periodPower_only | with_reducible apply updEng_only | with_reducible refine OnlyChanges.foldl ?_ (fun _ _ _ => ?_) | with_reducible apply OnlyChanges.ite | split | (with_reducible apply OnlyChanges.upd <;> first | exact fun q => absurd (by assumption) q | with_reducible exact fun _ => rfl | skip)
  all_goals first | exact fun _ => rfl | skip

theorem overflow_only (job inst : Nat) (outs : List Nat) {s : State} (kfe : Part.fe ∈ l_) (kenergy : Part.energy ∈ l_) (h_ : OnlyChanges l_ u_ s) : OnlyChanges l_ u_ (overflow job inst outs s) := by
  unfold overflow
  try dsimp only
  repeat' first | with_reducible assumption | with_reducible apply loseValues_only | with_reducible apply loseControl_only | with_reducible apply loseBilling_only | with_reducible apply loseShare_only | with_reducible apply setSessionFlag_only | with_reducible apply countInvalid_only | with_reducible refine OnlyChanges.foldl ?_ (fun _ _ _ => ?_) | with_reducible apply OnlyChanges.ite | split | (with_reducible apply OnlyChanges.upd <;> first | exact fun q => absurd (by assumption) q | with_reducible exact fun _ => rfl | skip)
  all_goals first | exact fun _ => rfl | skip

theorem escalate_only (job inst : Nat) (outs : List Nat) {s : State} (krst : Part.rst ∈ l_) (kport : Part.port ∈ l_) (kfaults : Part.faults ∈ l_) (kease : Part.ease ∈ l_) (kenergy : Part.energy ∈ l_) (kbilling : Part.billing ∈ l_) (klink : Part.link ∈ l_) (ksw : Part.sw ∈ l_) (kloads : Part.loads ∈ l_) (ktrv : Part.trv ∈ l_) (krdr : Part.rdr ∈ l_) (kdisp : Part.disp ∈ l_) (kstore : Part.store ∈ l_) (h_ : OnlyChanges l_ u_ s) : OnlyChanges l_ u_ (escalate job inst outs s) := by
  unfold escalate
  try dsimp only
  repeat' first | with_reducible assumption | with_reducible apply isolateBlock_only | with_reducible apply safetyFault_only | with_reducible apply linkFault_only | with_reducible apply isolateBank_only | with_reducible apply metrologyFault_only | with_reducible refine OnlyChanges.foldl ?_ (fun _ _ _ => ?_) | with_reducible apply OnlyChanges.ite | split | (with_reducible apply OnlyChanges.upd <;> first | exact fun q => absurd (by assumption) q | with_reducible exact fun _ => rfl | skip)
  all_goals first | exact fun _ => rfl | skip

theorem escalation_only (job inst cycle : Nat) {s : State} (krst : Part.rst ∈ l_) (kport : Part.port ∈ l_) (kfaults : Part.faults ∈ l_) (kease : Part.ease ∈ l_) (kenergy : Part.energy ∈ l_) (kbilling : Part.billing ∈ l_) (klink : Part.link ∈ l_) (ksw : Part.sw ∈ l_) (kloads : Part.loads ∈ l_) (ktrv : Part.trv ∈ l_) (krdr : Part.rdr ∈ l_) (kdisp : Part.disp ∈ l_) (kstore : Part.store ∈ l_) (h_ : OnlyChanges l_ u_ s) : OnlyChanges l_ u_ (escalation job inst cycle s) := by
  unfold escalation
  try dsimp only
  repeat' first | with_reducible assumption | with_reducible apply escalate_only | with_reducible apply deadlineReport_only | with_reducible refine OnlyChanges.foldl ?_ (fun _ _ _ => ?_) | with_reducible apply OnlyChanges.ite | split | (with_reducible apply OnlyChanges.upd <;> first | exact fun q => absurd (by assumption) q | with_reducible exact fun _ => rfl | skip)
  all_goals first | exact fun _ => rfl | skip

theorem countMiss_only (job inst endCycle : Nat) {s : State} (kfaults : Part.faults ∈ l_) (h_ : OnlyChanges l_ u_ s) : OnlyChanges l_ u_ (countMiss job inst endCycle s) := by
  unfold countMiss
  try dsimp only
  repeat' first | with_reducible assumption | with_reducible apply updJob_only | with_reducible refine OnlyChanges.foldl ?_ (fun _ _ _ => ?_) | with_reducible apply OnlyChanges.ite | split | (with_reducible apply OnlyChanges.upd <;> first | exact fun q => absurd (by assumption) q | with_reducible exact fun _ => rfl | skip)
  all_goals first | exact fun _ => rfl | skip

theorem queueMiss_only (job n backlog : Nat) {s : State} (kenergy : Part.energy ∈ l_) (h_ : OnlyChanges l_ u_ s) : OnlyChanges l_ u_ (queueMiss job n backlog s) := by
  unfold queueMiss
  try dsimp only
  repeat' first | with_reducible assumption | with_reducible apply setSessionFlag_only | with_reducible apply updEng_only | with_reducible refine OnlyChanges.foldl ?_ (fun _ _ _ => ?_) | with_reducible apply OnlyChanges.ite | split | (with_reducible apply OnlyChanges.upd <;> first | exact fun q => absurd (by assumption) q | with_reducible exact fun _ => rfl | skip)
  all_goals first | exact fun _ => rfl | skip

theorem jobsFrameEnd_only  {s : State} (krst : Part.rst ∈ l_) (kport : Part.port ∈ l_) (kfaults : Part.faults ∈ l_) (kease : Part.ease ∈ l_) (kenergy : Part.energy ∈ l_) (kbilling : Part.billing ∈ l_) (klink : Part.link ∈ l_) (ksw : Part.sw ∈ l_) (kloads : Part.loads ∈ l_) (ktrv : Part.trv ∈ l_) (krdr : Part.rdr ∈ l_) (kdisp : Part.disp ∈ l_) (kstore : Part.store ∈ l_) (h_ : OnlyChanges l_ u_ s) : OnlyChanges l_ u_ (jobsFrameEnd s) := by
  unfold jobsFrameEnd
  try dsimp only
  repeat' first | with_reducible assumption | with_reducible apply escalation_only | with_reducible apply finishSave_only | with_reducible refine OnlyChanges.foldl ?_ (fun _ _ _ => ?_) | with_reducible apply OnlyChanges.ite | split | (with_reducible apply OnlyChanges.upd <;> first | exact fun q => absurd (by assumption) q | with_reducible exact fun _ => rfl | skip)
  all_goals first | exact fun _ => rfl | skip

end Sys2Proof.Machine
end

