-- ==== Sys2Proof/Laws/OnlyObjects.lean ====
section
/-!
SUPPORT. The frames of the operations of Machine/Objects.lean (OnlyChanges, for every list that holds the parts they touch).
-/

namespace Sys2Proof.Machine

set_option linter.all false

open Sys2Proof.Safety

variable {l_ : List Part} {u_ : State}

theorem Cfg.put_only (c : Cfg) (i v : Nat) {s : State} (kport : Part.port ∈ l_) (kease : Part.ease ∈ l_) (kfe : Part.fe ∈ l_) (kenergy : Part.energy ∈ l_) (kbilling : Part.billing ∈ l_) (kseals : Part.seals ∈ l_) (klink : Part.link ∈ l_) (ksw : Part.sw ∈ l_) (kloads : Part.loads ∈ l_) (ktrv : Part.trv ∈ l_) (krdr : Part.rdr ∈ l_) (ktag : Part.tag ∈ l_) (kdisp : Part.disp ∈ l_) (h_ : OnlyChanges l_ u_ s) : OnlyChanges l_ u_ (Cfg.put c i v s) := by
  unfold Cfg.put
  try dsimp only
  repeat' first | with_reducible assumption | with_reducible refine OnlyChanges.foldl ?_ (fun _ _ _ => ?_) | with_reducible apply OnlyChanges.ite | split | (with_reducible apply OnlyChanges.upd <;> first | exact fun q => absurd (by assumption) q | with_reducible exact fun _ => rfl | skip)
  all_goals first | exact fun _ => rfl | skip

theorem Due.put_only (d : Due) {s : State} (kport : Part.port ∈ l_) (kease : Part.ease ∈ l_) (kfe : Part.fe ∈ l_) (kenergy : Part.energy ∈ l_) (kbilling : Part.billing ∈ l_) (kseals : Part.seals ∈ l_) (klink : Part.link ∈ l_) (ksw : Part.sw ∈ l_) (kloads : Part.loads ∈ l_) (ktrv : Part.trv ∈ l_) (krdr : Part.rdr ∈ l_) (ktag : Part.tag ∈ l_) (kdisp : Part.disp ∈ l_) (h_ : OnlyChanges l_ u_ s) : OnlyChanges l_ u_ (Due.put d s) := by
  unfold Due.put
  try dsimp only
  repeat' first | with_reducible assumption | with_reducible apply Cfg.put_only | with_reducible refine OnlyChanges.foldl ?_ (fun _ _ _ => ?_) | with_reducible apply OnlyChanges.ite | split | (with_reducible apply OnlyChanges.upd <;> first | exact fun q => absurd (by assumption) q | with_reducible exact fun _ => rfl | skip)
  all_goals first | exact fun _ => rfl | skip

theorem settled_only  {s : State} (kport : Part.port ∈ l_) (kease : Part.ease ∈ l_) (kfe : Part.fe ∈ l_) (kenergy : Part.energy ∈ l_) (kbilling : Part.billing ∈ l_) (kseals : Part.seals ∈ l_) (klink : Part.link ∈ l_) (ksw : Part.sw ∈ l_) (kloads : Part.loads ∈ l_) (ktrv : Part.trv ∈ l_) (krdr : Part.rdr ∈ l_) (ktag : Part.tag ∈ l_) (kdisp : Part.disp ∈ l_) (h_ : OnlyChanges l_ u_ s) : OnlyChanges l_ u_ (settled s) := by
  unfold settled
  try dsimp only
  repeat' first | with_reducible assumption | with_reducible apply Cfg.put_only | with_reducible apply Due.put_only | with_reducible refine OnlyChanges.foldl ?_ (fun _ _ _ => ?_) | with_reducible apply OnlyChanges.ite | split | (with_reducible apply OnlyChanges.upd <;> first | exact fun q => absurd (by assumption) q | with_reducible exact fun _ => rfl | skip)
  all_goals first | exact fun _ => rfl | skip

theorem keepDue_only  {s : State} (kport : Part.port ∈ l_) (kease : Part.ease ∈ l_) (kfe : Part.fe ∈ l_) (kenergy : Part.energy ∈ l_) (kbilling : Part.billing ∈ l_) (kseals : Part.seals ∈ l_) (klink : Part.link ∈ l_) (ksw : Part.sw ∈ l_) (kloads : Part.loads ∈ l_) (ktrv : Part.trv ∈ l_) (krdr : Part.rdr ∈ l_) (ktag : Part.tag ∈ l_) (kdisp : Part.disp ∈ l_) (h_ : OnlyChanges l_ u_ s) : OnlyChanges l_ u_ (keepDue s) := by
  unfold keepDue
  try dsimp only
  repeat' first | with_reducible assumption | with_reducible apply Cfg.put_only | with_reducible apply Due.put_only | with_reducible refine OnlyChanges.foldl ?_ (fun _ _ _ => ?_) | with_reducible apply OnlyChanges.ite | split | (with_reducible apply OnlyChanges.upd <;> first | exact fun q => absurd (by assumption) q | with_reducible exact fun _ => rfl | skip)
  all_goals first | exact fun _ => rfl | skip

theorem metHashed_only {s : State} (kseals : Part.seals ∈ l_) (h_ : OnlyChanges l_ u_ s) : OnlyChanges l_ u_ (metHashed s) := by
  unfold metHashed
  with_reducible apply OnlyChanges.upd h_
  all_goals first | exact fun _ => rfl | exact fun q => absurd (by assumption) q

end Sys2Proof.Machine
end

