-- ==== Sys2Proof/Laws/OnlyBoot.lean ====
section
/-!
SUPPORT. The frames of the operations of Machine/Boot.lean (OnlyChanges, for every list that holds the parts they touch).
-/

namespace Sys2Proof.Machine

set_option linter.all false

open Sys2Proof.Safety

variable {l_ : List Part} {u_ : State}

theorem abandonQueued_only  {s : State} (kclock : Part.clock ∈ l_) (krst : Part.rst ∈ l_) (kmodes : Part.modes ∈ l_) (kease : Part.ease ∈ l_) (kfe : Part.fe ∈ l_) (kbilling : Part.billing ∈ l_) (klink : Part.link ∈ l_) (ksw : Part.sw ∈ l_) (ktrv : Part.trv ∈ l_) (krdr : Part.rdr ∈ l_) (h_ : OnlyChanges l_ u_ s) : OnlyChanges l_ u_ (abandonQueued s) := by
  unfold abandonQueued
  try dsimp only
  repeat' first | with_reducible assumption | with_reducible apply driverOff_only | with_reducible refine OnlyChanges.foldl ?_ (fun _ _ _ => ?_) | with_reducible apply OnlyChanges.ite | split | (with_reducible apply OnlyChanges.upd <;> first | exact fun q => absurd (by assumption) q | with_reducible exact fun _ => rfl | skip)
  all_goals first | exact fun _ => rfl | skip

theorem clearHostLeave_only  {s : State} (kease : Part.ease ∈ l_) (h_ : OnlyChanges l_ u_ s) : OnlyChanges l_ u_ (clearHostLeave s) := by
  unfold clearHostLeave
  try dsimp only
  repeat' first | with_reducible assumption | with_reducible refine OnlyChanges.foldl ?_ (fun _ _ _ => ?_) | with_reducible apply OnlyChanges.ite | split | (with_reducible apply OnlyChanges.upd <;> first | exact fun q => absurd (by assumption) q | with_reducible exact fun _ => rfl | skip)
  all_goals first | exact fun _ => rfl | skip

theorem dropActivation_only  {s : State} (kmodes : Part.modes ∈ l_) (kease : Part.ease ∈ l_) (kstore : Part.store ∈ l_) (h_ : OnlyChanges l_ u_ s) : OnlyChanges l_ u_ (dropActivation s) := by
  unfold dropActivation
  try dsimp only
  repeat' first | with_reducible assumption | with_reducible apply abandonActivation_only | with_reducible refine OnlyChanges.foldl ?_ (fun _ _ _ => ?_) | with_reducible apply OnlyChanges.ite | split | (with_reducible apply OnlyChanges.upd <;> first | exact fun q => absurd (by assumption) q | with_reducible exact fun _ => rfl | skip)
  all_goals first | exact fun _ => rfl | skip

theorem clearCore_only  {s : State} (kclock : Part.clock ∈ l_) (krst : Part.rst ∈ l_) (kmodes : Part.modes ∈ l_) (kport : Part.port ∈ l_) (kroles : Part.roles ∈ l_) (kease : Part.ease ∈ l_) (kfe : Part.fe ∈ l_) (kbilling : Part.billing ∈ l_) (klink : Part.link ∈ l_) (ksw : Part.sw ∈ l_) (kloads : Part.loads ∈ l_) (ktrv : Part.trv ∈ l_) (krdr : Part.rdr ∈ l_) (kdisp : Part.disp ∈ l_) (kstore : Part.store ∈ l_) (h_ : OnlyChanges l_ u_ s) : OnlyChanges l_ u_ (clearCore s) := by
  unfold clearCore
  try dsimp only
  repeat' first | with_reducible assumption | with_reducible apply clearHostLeave_only | with_reducible apply abandonQueued_only | with_reducible apply displayCoreReset_only | with_reducible apply loadsCoreReset_only | with_reducible apply dropActivation_only | with_reducible refine OnlyChanges.foldl ?_ (fun _ _ _ => ?_) | with_reducible apply OnlyChanges.ite | split | (with_reducible apply OnlyChanges.upd <;> first | exact fun q => absurd (by assumption) q | with_reducible exact fun _ => rfl | skip)
  all_goals first | exact fun _ => rfl | skip

theorem clearRegions_only  {s : State} (kclock : Part.clock ∈ l_) (krst : Part.rst ∈ l_) (kmodes : Part.modes ∈ l_) (kfaults : Part.faults ∈ l_) (kease : Part.ease ∈ l_) (kfe : Part.fe ∈ l_) (kenergy : Part.energy ∈ l_) (kbilling : Part.billing ∈ l_) (klog : Part.log ∈ l_) (klink : Part.link ∈ l_) (ksw : Part.sw ∈ l_) (kloads : Part.loads ∈ l_) (ktrv : Part.trv ∈ l_) (krdr : Part.rdr ∈ l_) (ktag : Part.tag ∈ l_) (h_ : OnlyChanges l_ u_ s) : OnlyChanges l_ u_ (clearRegions s) := by
  unfold clearRegions
  try dsimp only
  repeat' first | with_reducible assumption | with_reducible refine OnlyChanges.foldl ?_ (fun _ _ _ => ?_) | with_reducible apply OnlyChanges.ite | split | (with_reducible apply OnlyChanges.upd <;> first | exact fun q => absurd (by assumption) q | with_reducible exact fun _ => rfl | skip)
  all_goals first | exact fun _ => rfl | skip

theorem clearSystem_only  {s : State} (kclock : Part.clock ∈ l_) (krst : Part.rst ∈ l_) (kmodes : Part.modes ∈ l_) (kport : Part.port ∈ l_) (kroles : Part.roles ∈ l_) (kfaults : Part.faults ∈ l_) (kease : Part.ease ∈ l_) (kfe : Part.fe ∈ l_) (kenergy : Part.energy ∈ l_) (kbilling : Part.billing ∈ l_) (kseals : Part.seals ∈ l_) (klog : Part.log ∈ l_) (klink : Part.link ∈ l_) (ksw : Part.sw ∈ l_) (kloads : Part.loads ∈ l_) (ktrv : Part.trv ∈ l_) (krdr : Part.rdr ∈ l_) (ktag : Part.tag ∈ l_) (kdisp : Part.disp ∈ l_) (kchain : Part.chain ∈ l_) (kstore : Part.store ∈ l_) (h_ : OnlyChanges l_ u_ s) : OnlyChanges l_ u_ (clearSystem s) := by
  unfold clearSystem
  try dsimp only
  repeat' first | with_reducible assumption | with_reducible apply clearRegions_only | with_reducible apply displaySystemReset_only | with_reducible apply storageReset_only | with_reducible apply keepDue_only | with_reducible refine OnlyChanges.foldl ?_ (fun _ _ _ => ?_) | with_reducible apply OnlyChanges.ite | split | (with_reducible apply OnlyChanges.upd <;> first | exact fun q => absurd (by assumption) q | with_reducible exact fun _ => rfl | skip)
  all_goals first | exact fun _ => rfl | skip

theorem clearPowerOn_only  {s : State} (kclock : Part.clock ∈ l_) (kpower : Part.power ∈ l_) (krst : Part.rst ∈ l_) (kmodes : Part.modes ∈ l_) (kport : Part.port ∈ l_) (kroles : Part.roles ∈ l_) (kfaults : Part.faults ∈ l_) (kease : Part.ease ∈ l_) (kfe : Part.fe ∈ l_) (kenergy : Part.energy ∈ l_) (kbilling : Part.billing ∈ l_) (kseals : Part.seals ∈ l_) (klog : Part.log ∈ l_) (klink : Part.link ∈ l_) (ksw : Part.sw ∈ l_) (kloads : Part.loads ∈ l_) (ktrv : Part.trv ∈ l_) (krdr : Part.rdr ∈ l_) (ktag : Part.tag ∈ l_) (kdisp : Part.disp ∈ l_) (kchain : Part.chain ∈ l_) (kstore : Part.store ∈ l_) (h_ : OnlyChanges l_ u_ s) : OnlyChanges l_ u_ (clearPowerOn s) := by
  unfold clearPowerOn
  try dsimp only
  repeat' first | with_reducible assumption | with_reducible apply clearSystem_only | with_reducible refine OnlyChanges.foldl ?_ (fun _ _ _ => ?_) | with_reducible apply OnlyChanges.ite | split | (with_reducible apply OnlyChanges.upd <;> first | exact fun q => absurd (by assumption) q | with_reducible exact fun _ => rfl | skip)
  all_goals first | exact fun _ => rfl | skip

theorem takeEffect_only  {s : State} (kclock : Part.clock ∈ l_) (kpower : Part.power ∈ l_) (krst : Part.rst ∈ l_) (kmodes : Part.modes ∈ l_) (kport : Part.port ∈ l_) (kroles : Part.roles ∈ l_) (kfaults : Part.faults ∈ l_) (kease : Part.ease ∈ l_) (kfe : Part.fe ∈ l_) (kenergy : Part.energy ∈ l_) (kbilling : Part.billing ∈ l_) (kseals : Part.seals ∈ l_) (klog : Part.log ∈ l_) (klink : Part.link ∈ l_) (ksw : Part.sw ∈ l_) (kloads : Part.loads ∈ l_) (ktrv : Part.trv ∈ l_) (krdr : Part.rdr ∈ l_) (ktag : Part.tag ∈ l_) (kdisp : Part.disp ∈ l_) (kchain : Part.chain ∈ l_) (kstore : Part.store ∈ l_) (h_ : OnlyChanges l_ u_ s) : OnlyChanges l_ u_ (takeEffect s) := by
  unfold takeEffect
  try dsimp only
  repeat' first | with_reducible assumption | with_reducible apply clearCore_only | with_reducible apply clearSystem_only | with_reducible apply closeAll_only | with_reducible apply clearPowerOn_only | with_reducible apply releaseAll_only | with_reducible apply updRst_only | with_reducible refine OnlyChanges.foldl ?_ (fun _ _ _ => ?_) | with_reducible apply OnlyChanges.ite | split | (with_reducible apply OnlyChanges.upd <;> first | exact fun q => absurd (by assumption) q | with_reducible exact fun _ => rfl | skip)
  all_goals first | exact fun _ => rfl | skip

theorem pilotsUp_only  {s : State} (klink : Part.link ∈ l_) (h_ : OnlyChanges l_ u_ s) : OnlyChanges l_ u_ (pilotsUp s) := by
  unfold pilotsUp
  try dsimp only
  repeat' first | with_reducible assumption | with_reducible refine OnlyChanges.foldl ?_ (fun _ _ _ => ?_) | with_reducible apply OnlyChanges.ite | split | (with_reducible apply OnlyChanges.upd <;> first | exact fun q => absurd (by assumption) q | with_reducible exact fun _ => rfl | skip)
  all_goals first | exact fun _ => rfl | skip

theorem bootStep1_only (b : BootIn) {s : State} (kpower : Part.power ∈ l_) (krst : Part.rst ∈ l_) (kmodes : Part.modes ∈ l_) (kport : Part.port ∈ l_) (kenergy : Part.energy ∈ l_) (kbilling : Part.billing ∈ l_) (kseals : Part.seals ∈ l_) (klog : Part.log ∈ l_) (klink : Part.link ∈ l_) (ktag : Part.tag ∈ l_) (kstore : Part.store ∈ l_) (h_ : OnlyChanges l_ u_ s) : OnlyChanges l_ u_ (bootStep1 b s) := by
  unfold bootStep1
  try dsimp only
  repeat' first | with_reducible assumption | with_reducible apply updRst_only | with_reducible apply debugAttempt_only | with_reducible apply releaseAll_only | with_reducible apply pilotsUp_only | with_reducible apply noteSource_only | with_reducible refine OnlyChanges.foldl ?_ (fun _ _ _ => ?_) | with_reducible apply OnlyChanges.ite | split | (with_reducible apply OnlyChanges.upd <;> first | exact fun q => absurd (by assumption) q | with_reducible exact fun _ => rfl | skip)
  all_goals first | exact fun _ => rfl | skip

theorem restoreEnergy_only (i : Nat) (c : Slot) {s : State} (kenergy : Part.energy ∈ l_) (h_ : OnlyChanges l_ u_ s) : OnlyChanges l_ u_ (restoreEnergy i c s) := by
  unfold restoreEnergy
  try dsimp only
  repeat' first | with_reducible assumption | with_reducible refine OnlyChanges.foldl ?_ (fun _ _ _ => ?_) | with_reducible apply OnlyChanges.ite | split | (with_reducible apply OnlyChanges.upd <;> first | exact fun q => absurd (by assumption) q | with_reducible exact fun _ => rfl | skip)
  all_goals first | exact fun _ => rfl | skip

theorem restoreBilling_only (c : Slot) {s : State} (kclock : Part.clock ∈ l_) (kbilling : Part.billing ∈ l_) (h_ : OnlyChanges l_ u_ s) : OnlyChanges l_ u_ (restoreBilling c s) := by
  unfold restoreBilling
  try dsimp only
  repeat' first | with_reducible assumption | with_reducible refine OnlyChanges.foldl ?_ (fun _ _ _ => ?_) | with_reducible apply OnlyChanges.ite | split | (with_reducible apply OnlyChanges.upd <;> first | exact fun q => absurd (by assumption) q | with_reducible exact fun _ => rfl | skip)
  all_goals first | exact fun _ => rfl | skip

theorem signInterrupted_only  {s0 : State} (kmodes : Part.modes ∈ l_) (kport : Part.port ∈ l_) (kenergy : Part.energy ∈ l_) (kbilling : Part.billing ∈ l_) (klog : Part.log ∈ l_) (ktag : Part.tag ∈ l_) (kstore : Part.store ∈ l_) (h_ : OnlyChanges l_ u_ s0) : OnlyChanges l_ u_ (signInterrupted s0) := by
  unfold signInterrupted
  try dsimp only
  repeat' first | with_reducible assumption | with_reducible apply setSessionFlag_only | with_reducible apply signClosing_only | with_reducible refine OnlyChanges.foldl ?_ (fun _ _ _ => ?_) | with_reducible apply OnlyChanges.ite | split | (with_reducible apply OnlyChanges.upd <;> first | exact fun q => absurd (by assumption) q | with_reducible exact fun _ => rfl | skip)
  all_goals first | exact fun _ => rfl | skip

theorem rebuildWindow_only (e : Nat) {s : State} (kbilling : Part.billing ∈ l_) (h_ : OnlyChanges l_ u_ s) : OnlyChanges l_ u_ (rebuildWindow s e) := by
  unfold rebuildWindow
  try dsimp only
  repeat' first | with_reducible assumption | with_reducible apply takeBoundary_only | with_reducible apply closeWindow_only | with_reducible refine OnlyChanges.foldl ?_ (fun _ _ _ => ?_) | with_reducible apply OnlyChanges.ite | split | (with_reducible apply OnlyChanges.upd <;> first | exact fun q => absurd (by assumption) q | with_reducible exact fun _ => rfl | skip)
  all_goals first | exact fun _ => rfl | skip

theorem rebuildTariff_only  {s : State} (kbilling : Part.billing ∈ l_) (h_ : OnlyChanges l_ u_ s) : OnlyChanges l_ u_ (rebuildTariff s) := by
  unfold rebuildTariff
  try dsimp only
  repeat' first | with_reducible assumption | with_reducible apply takeBoundary_only | with_reducible refine OnlyChanges.foldl ?_ (fun _ _ _ => ?_) | with_reducible apply OnlyChanges.ite | split | (with_reducible apply OnlyChanges.upd <;> first | exact fun q => absurd (by assumption) q | with_reducible exact fun _ => rfl | skip)
  all_goals first | exact fun _ => rfl | skip

theorem rebuildBoundaries_only  {s : State} (kbilling : Part.billing ∈ l_) (h_ : OnlyChanges l_ u_ s) : OnlyChanges l_ u_ (rebuildBoundaries s) := by
  unfold rebuildBoundaries
  try dsimp only
  repeat' first | with_reducible assumption | with_reducible apply rebuildWindow_only | with_reducible apply rebuildTariff_only | with_reducible refine OnlyChanges.foldl ?_ (fun _ _ _ => ?_) | with_reducible apply OnlyChanges.ite | split | (with_reducible apply OnlyChanges.upd <;> first | exact fun q => absurd (by assumption) q | with_reducible exact fun _ => rfl | skip)
  all_goals first | exact fun _ => rfl | skip

theorem reopenEntries_only (point : Nat) {s : State} (kbilling : Part.billing ∈ l_) (h_ : OnlyChanges l_ u_ s) : OnlyChanges l_ u_ (reopenEntries point s) := by
  unfold reopenEntries
  try dsimp only
  repeat' first | with_reducible assumption | with_reducible refine OnlyChanges.foldl ?_ (fun _ _ _ => ?_) | with_reducible apply OnlyChanges.ite | split | (with_reducible apply OnlyChanges.upd <;> first | exact fun q => absurd (by assumption) q | with_reducible exact fun _ => rfl | skip)
  all_goals first | exact fun _ => rfl | skip

theorem bootLatch_only (b : BootIn) {s : State} (kport : Part.port ∈ l_) (kseals : Part.seals ∈ l_) (klog : Part.log ∈ l_) (ktag : Part.tag ∈ l_) (kstore : Part.store ∈ l_) (h_ : OnlyChanges l_ u_ s) : OnlyChanges l_ u_ (bootLatch b s) := by
  unfold bootLatch
  try dsimp only
  repeat' first | with_reducible assumption | with_reducible apply signSealBroken_only | with_reducible refine OnlyChanges.foldl ?_ (fun _ _ _ => ?_) | with_reducible apply OnlyChanges.ite | split | (with_reducible apply OnlyChanges.upd <;> first | exact fun q => absurd (by assumption) q | with_reducible exact fun _ => rfl | skip)
  all_goals first | exact fun _ => rfl | skip

theorem retentionSeal_only (legal : Nat) {s : State} (kclock : Part.clock ∈ l_) (kpower : Part.power ∈ l_) (kseals : Part.seals ∈ l_) (h_ : OnlyChanges l_ u_ s) : OnlyChanges l_ u_ (retentionSeal legal s) := by
  unfold retentionSeal
  try dsimp only
  repeat' first | with_reducible assumption | with_reducible refine OnlyChanges.foldl ?_ (fun _ _ _ => ?_) | with_reducible apply OnlyChanges.ite | split | (with_reducible apply OnlyChanges.upd <;> first | exact fun q => absurd (by assumption) q | with_reducible exact fun _ => rfl | skip)
  all_goals first | exact fun _ => rfl | skip

theorem bootRetention_only  {s : State} (kclock : Part.clock ∈ l_) (kpower : Part.power ∈ l_) (kseals : Part.seals ∈ l_) (h_ : OnlyChanges l_ u_ s) : OnlyChanges l_ u_ (bootRetention s) := by
  unfold bootRetention
  try dsimp only
  repeat' first | with_reducible assumption | with_reducible apply retentionSeal_only | with_reducible refine OnlyChanges.foldl ?_ (fun _ _ _ => ?_) | with_reducible apply OnlyChanges.ite | split | (with_reducible apply OnlyChanges.upd <;> first | exact fun q => absurd (by assumption) q | with_reducible exact fun _ => rfl | skip)
  all_goals first | exact fun _ => rfl | skip

theorem bootFilters_only  {s : State} (kfe : Part.fe ∈ l_) (h_ : OnlyChanges l_ u_ s) : OnlyChanges l_ u_ (bootFilters s) := by
  unfold bootFilters
  try dsimp only
  repeat' first | with_reducible assumption | with_reducible apply decimatorReset_only | with_reducible apply startEngines_only | with_reducible refine OnlyChanges.foldl ?_ (fun _ _ _ => ?_) | with_reducible apply OnlyChanges.ite | split | (with_reducible apply OnlyChanges.upd <;> first | exact fun q => absurd (by assumption) q | with_reducible exact fun _ => rfl | skip)
  all_goals first | exact fun _ => rfl | skip

theorem metReplayed_only  {s : State} (kstore : Part.store ∈ l_) (h_ : OnlyChanges l_ u_ s) : OnlyChanges l_ u_ (metReplayed s) := by
  unfold metReplayed
  try dsimp only
  repeat' first | with_reducible assumption | with_reducible apply metRetire_only | with_reducible refine OnlyChanges.foldl ?_ (fun _ _ _ => ?_) | with_reducible apply OnlyChanges.ite | split | (with_reducible apply OnlyChanges.upd <;> first | exact fun q => absurd (by assumption) q | with_reducible exact fun _ => rfl | skip)
  all_goals first | exact fun _ => rfl | skip

theorem appReplayed_only  {s : State} (kstore : Part.store ∈ l_) (h_ : OnlyChanges l_ u_ s) : OnlyChanges l_ u_ (appReplayed s) := by
  unfold appReplayed
  try dsimp only
  repeat' first | with_reducible assumption | with_reducible refine OnlyChanges.foldl ?_ (fun _ _ _ => ?_) | with_reducible apply OnlyChanges.ite | split | (with_reducible apply OnlyChanges.upd <;> first | exact fun q => absurd (by assumption) q | with_reducible exact fun _ => rfl | skip)
  all_goals first | exact fun _ => rfl | skip

theorem bootStep3_only (b : BootIn) {s : State} (kclock : Part.clock ∈ l_) (kpower : Part.power ∈ l_) (krst : Part.rst ∈ l_) (kmodes : Part.modes ∈ l_) (kport : Part.port ∈ l_) (kfe : Part.fe ∈ l_) (kenergy : Part.energy ∈ l_) (kbilling : Part.billing ∈ l_) (kseals : Part.seals ∈ l_) (klog : Part.log ∈ l_) (ktag : Part.tag ∈ l_) (kstore : Part.store ∈ l_) (h_ : OnlyChanges l_ u_ s) : OnlyChanges l_ u_ (bootStep3 b s) := by
  unfold bootStep3
  try dsimp only
  repeat' first | with_reducible assumption | with_reducible apply bootFilters_only | with_reducible apply bootRetention_only | with_reducible apply updCause_only | with_reducible apply restoreBilling_only | with_reducible apply restoreEnergy_only | with_reducible apply signInterrupted_only | with_reducible apply bootLatch_only | with_reducible apply signBenchmark_only | with_reducible apply clearPulses_only | with_reducible apply metReplayed_only | with_reducible apply commits_only | with_reducible apply rebuildBoundaries_only | with_reducible apply reopenEntries_only | with_reducible refine OnlyChanges.foldl ?_ (fun _ _ _ => ?_) | with_reducible apply OnlyChanges.ite | split | (with_reducible apply OnlyChanges.upd <;> first | exact fun q => absurd (by assumption) q | with_reducible exact fun _ => rfl | skip)
  all_goals first | exact fun _ => rfl | skip

theorem bootStep2_only (b : BootIn) {s : State} (ksw : Part.sw ∈ l_) (h_ : OnlyChanges l_ u_ s) : OnlyChanges l_ u_ (bootStep2 b s) := by
  unfold bootStep2
  try dsimp only
  repeat' first | with_reducible assumption | with_reducible refine OnlyChanges.foldl ?_ (fun _ _ _ => ?_) | with_reducible apply OnlyChanges.ite | split | (with_reducible apply OnlyChanges.upd <;> first | exact fun q => absurd (by assumption) q | with_reducible exact fun _ => rfl | skip)
  all_goals first | exact fun _ => rfl | skip

theorem releaseCells_only (region legal : Nat) {s : State} (kfaults : Part.faults ∈ l_) (h_ : OnlyChanges l_ u_ s) : OnlyChanges l_ u_ (releaseCells region legal s) := by
  unfold releaseCells
  try dsimp only
  repeat' first | with_reducible assumption | with_reducible refine OnlyChanges.foldl ?_ (fun _ _ _ => ?_) | with_reducible apply OnlyChanges.ite | split | (with_reducible apply OnlyChanges.upd <;> first | exact fun q => absurd (by assumption) q | with_reducible exact fun _ => rfl | skip)
  all_goals first | exact fun _ => rfl | skip

theorem selfTests_only (region : Nat) (b : BootIn) {s : State} (krst : Part.rst ∈ l_) (kport : Part.port ∈ l_) (kfaults : Part.faults ∈ l_) (kease : Part.ease ∈ l_) (kenergy : Part.energy ∈ l_) (kbilling : Part.billing ∈ l_) (klink : Part.link ∈ l_) (ksw : Part.sw ∈ l_) (kloads : Part.loads ∈ l_) (ktrv : Part.trv ∈ l_) (krdr : Part.rdr ∈ l_) (kdisp : Part.disp ∈ l_) (kstore : Part.store ∈ l_) (h_ : OnlyChanges l_ u_ s) : OnlyChanges l_ u_ (selfTests region b s) := by
  unfold selfTests
  try dsimp only
  repeat' first | with_reducible assumption | with_reducible apply isolateCell_only | with_reducible apply releaseCells_only | with_reducible refine OnlyChanges.foldl ?_ (fun _ _ _ => ?_) | with_reducible apply OnlyChanges.ite | split | (with_reducible apply OnlyChanges.upd <;> first | exact fun q => absurd (by assumption) q | with_reducible exact fun _ => rfl | skip)
  all_goals first | exact fun _ => rfl | skip

theorem bootStepTo_only (k : Nat) {step : State → State} {s : State} (krst : Part.rst ∈ l_) (h_ : OnlyChanges l_ u_ s)
    (hr_ : ∀ t, OnlyChanges l_ u_ t → OnlyChanges l_ u_ (step t)) : OnlyChanges l_ u_ (bootStepTo k step s) := by
  unfold bootStepTo
  with_reducible apply OnlyChanges.ite h_
  exact hr_ _ (updRst_only _ krst h_)

theorem bootStep5_only (b : BootIn) {s : State} (kloads : Part.loads ∈ l_) (ktrv : Part.trv ∈ l_) (h_ : OnlyChanges l_ u_ s) : OnlyChanges l_ u_ (bootStep5 b s) := by
  unfold bootStep5
  try dsimp only
  repeat' first | with_reducible assumption | with_reducible refine OnlyChanges.foldl ?_ (fun _ _ _ => ?_) | with_reducible apply OnlyChanges.ite | split | (with_reducible apply OnlyChanges.upd <;> first | exact fun q => absurd (by assumption) q | with_reducible exact fun _ => rfl | skip)
  all_goals first | exact fun _ => rfl | skip

theorem bootRegions_only (b : BootIn) {s : State} (kclock : Part.clock ∈ l_) (kpower : Part.power ∈ l_) (krst : Part.rst ∈ l_) (kmodes : Part.modes ∈ l_) (kport : Part.port ∈ l_) (kfaults : Part.faults ∈ l_) (kease : Part.ease ∈ l_) (kfe : Part.fe ∈ l_) (kenergy : Part.energy ∈ l_) (kbilling : Part.billing ∈ l_) (kseals : Part.seals ∈ l_) (klog : Part.log ∈ l_) (klink : Part.link ∈ l_) (ksw : Part.sw ∈ l_) (kloads : Part.loads ∈ l_) (ktrv : Part.trv ∈ l_) (krdr : Part.rdr ∈ l_) (ktag : Part.tag ∈ l_) (kdisp : Part.disp ∈ l_) (kstore : Part.store ∈ l_) (h_ : OnlyChanges l_ u_ s) : OnlyChanges l_ u_ (bootRegions b s) := by
  unfold bootRegions
  try dsimp only
  repeat' first | with_reducible assumption | with_reducible refine bootStepTo_only _ ?_ ?_ (fun _ _ => ?_) | with_reducible apply selfTests_only | with_reducible apply bootStep2_only | with_reducible apply bootStep3_only | with_reducible apply bootStep5_only | with_reducible refine OnlyChanges.foldl ?_ (fun _ _ _ => ?_) | with_reducible apply OnlyChanges.ite | split | (with_reducible apply OnlyChanges.upd <;> first | exact fun q => absurd (by assumption) q | with_reducible exact fun _ => rfl | skip)
  all_goals first | exact fun _ => rfl | skip

theorem bootStep6_only (b : BootIn) {s : State} (krst : Part.rst ∈ l_) (kport : Part.port ∈ l_) (kfaults : Part.faults ∈ l_) (kease : Part.ease ∈ l_) (kfe : Part.fe ∈ l_) (kenergy : Part.energy ∈ l_) (kbilling : Part.billing ∈ l_) (klink : Part.link ∈ l_) (ksw : Part.sw ∈ l_) (kloads : Part.loads ∈ l_) (ktrv : Part.trv ∈ l_) (krdr : Part.rdr ∈ l_) (ktag : Part.tag ∈ l_) (kdisp : Part.disp ∈ l_) (kstore : Part.store ∈ l_) (h_ : OnlyChanges l_ u_ s) : OnlyChanges l_ u_ (bootStep6 b s) := by
  unfold bootStep6
  try dsimp only
  repeat' first | with_reducible assumption | with_reducible apply updRst_only | with_reducible apply bootImage_only | with_reducible apply appReplayed_only | with_reducible apply selfTests_only | with_reducible apply assertSource_only | with_reducible refine OnlyChanges.foldl ?_ (fun _ _ _ => ?_) | with_reducible apply OnlyChanges.ite | split | (with_reducible apply OnlyChanges.upd <;> first | exact fun q => absurd (by assumption) q | with_reducible exact fun _ => rfl | skip)
  all_goals first | exact fun _ => rfl | skip

theorem bootFrom_only (b : BootIn) (k : Nat) {s : State} (kclock : Part.clock ∈ l_) (kpower : Part.power ∈ l_) (krst : Part.rst ∈ l_) (kmodes : Part.modes ∈ l_) (kport : Part.port ∈ l_) (kfaults : Part.faults ∈ l_) (kease : Part.ease ∈ l_) (kfe : Part.fe ∈ l_) (kenergy : Part.energy ∈ l_) (kbilling : Part.billing ∈ l_) (kseals : Part.seals ∈ l_) (klog : Part.log ∈ l_) (klink : Part.link ∈ l_) (ksw : Part.sw ∈ l_) (kloads : Part.loads ∈ l_) (ktrv : Part.trv ∈ l_) (krdr : Part.rdr ∈ l_) (ktag : Part.tag ∈ l_) (kdisp : Part.disp ∈ l_) (kstore : Part.store ∈ l_) (h_ : OnlyChanges l_ u_ s) : OnlyChanges l_ u_ (bootFrom b k s) := by
  unfold bootFrom
  try dsimp only
  repeat' first | with_reducible assumption | with_reducible apply bootStep1_only | with_reducible apply updRst_only | with_reducible apply bootRegions_only | with_reducible apply bootStep6_only | with_reducible refine OnlyChanges.foldl ?_ (fun _ _ _ => ?_) | with_reducible apply OnlyChanges.ite | split | (with_reducible apply OnlyChanges.upd <;> first | exact fun q => absurd (by assumption) q | with_reducible exact fun _ => rfl | skip)
  all_goals first | exact fun _ => rfl | skip

theorem vbatMeasured_only (mv : Nat) {s : State} (kpower : Part.power ∈ l_) (kport : Part.port ∈ l_) (kstore : Part.store ∈ l_) (h_ : OnlyChanges l_ u_ s) : OnlyChanges l_ u_ (vbatMeasured mv s) := by
  unfold vbatMeasured
  try dsimp only
  repeat' first | with_reducible assumption | with_reducible apply event_only | with_reducible refine OnlyChanges.foldl ?_ (fun _ _ _ => ?_) | with_reducible apply OnlyChanges.ite | split | (with_reducible apply OnlyChanges.upd <;> first | exact fun q => absurd (by assumption) q | with_reducible exact fun _ => rfl | skip)
  all_goals first | exact fun _ => rfl | skip

theorem readyTail_only (vbatMv : Nat) {s : State} (kfactory : Part.factory ∈ l_) (kpower : Part.power ∈ l_) (krst : Part.rst ∈ l_) (kport : Part.port ∈ l_) (kease : Part.ease ∈ l_) (ktrv : Part.trv ∈ l_) (ktag : Part.tag ∈ l_) (kchain : Part.chain ∈ l_) (kstore : Part.store ∈ l_) (h_ : OnlyChanges l_ u_ s) : OnlyChanges l_ u_ (readyTail vbatMv s) := by
  unfold readyTail
  try dsimp only
  repeat' first | with_reducible assumption | with_reducible apply event_only | with_reducible apply updRst_only | with_reducible apply storageReady_only | with_reducible apply vbatMeasured_only | with_reducible apply requestImport_only | with_reducible apply chainResume_only | with_reducible refine OnlyChanges.foldl ?_ (fun _ _ _ => ?_) | with_reducible apply OnlyChanges.ite | split | (with_reducible apply OnlyChanges.upd <;> first | exact fun q => absurd (by assumption) q | with_reducible exact fun _ => rfl | skip)
  all_goals first | exact fun _ => rfl | skip

theorem bootRefusedReport_only  {s : State} (krst : Part.rst ∈ l_) (kport : Part.port ∈ l_) (kstore : Part.store ∈ l_) (h_ : OnlyChanges l_ u_ s) : OnlyChanges l_ u_ (bootRefusedReport s) := by
  unfold bootRefusedReport
  try dsimp only
  repeat' first | with_reducible assumption | with_reducible apply event_only | with_reducible apply updRst_only | with_reducible refine OnlyChanges.foldl ?_ (fun _ _ _ => ?_) | with_reducible apply OnlyChanges.ite | split | (with_reducible apply OnlyChanges.upd <;> first | exact fun q => absurd (by assumption) q | with_reducible exact fun _ => rfl | skip)
  all_goals first | exact fun _ => rfl | skip

theorem restoreReport_only  {s : State} (kport : Part.port ∈ l_) (kenergy : Part.energy ∈ l_) (kstore : Part.store ∈ l_) (h_ : OnlyChanges l_ u_ s) : OnlyChanges l_ u_ (restoreReport s) := by
  unfold restoreReport
  try dsimp only
  repeat' first | with_reducible assumption | with_reducible apply event_only | with_reducible refine OnlyChanges.foldl ?_ (fun _ _ _ => ?_) | with_reducible apply OnlyChanges.ite | split | (with_reducible apply OnlyChanges.upd <;> first | exact fun q => absurd (by assumption) q | with_reducible exact fun _ => rfl | skip)
  all_goals first | exact fun _ => rfl | skip

theorem testCutReport_only  {s : State} (kport : Part.port ∈ l_) (ksw : Part.sw ∈ l_) (kstore : Part.store ∈ l_) (h_ : OnlyChanges l_ u_ s) : OnlyChanges l_ u_ (testCutReport s) := by
  unfold testCutReport
  try dsimp only
  repeat' first | with_reducible assumption | with_reducible apply event_only | with_reducible refine OnlyChanges.foldl ?_ (fun _ _ _ => ?_) | with_reducible apply OnlyChanges.ite | split | (with_reducible apply OnlyChanges.upd <;> first | exact fun q => absurd (by assumption) q | with_reducible exact fun _ => rfl | skip)
  all_goals first | exact fun _ => rfl | skip

theorem readyWide_only (m : Mode) {s : State} (krst : Part.rst ∈ l_) (kmodes : Part.modes ∈ l_) (kport : Part.port ∈ l_) (kease : Part.ease ∈ l_) (kenergy : Part.energy ∈ l_) (kbilling : Part.billing ∈ l_) (klog : Part.log ∈ l_) (ksw : Part.sw ∈ l_) (ktrv : Part.trv ∈ l_) (ktag : Part.tag ∈ l_) (kdisp : Part.disp ∈ l_) (kstore : Part.store ∈ l_) (h_ : OnlyChanges l_ u_ s) : OnlyChanges l_ u_ (readyWide m s) := by
  unfold readyWide
  try dsimp only
  repeat' first | with_reducible assumption | with_reducible apply event_only | with_reducible apply testCutReport_only | with_reducible apply restoreReport_only | with_reducible apply bootRefusedReport_only | with_reducible apply displayReady_only | with_reducible apply witnessSync_only | with_reducible apply requestTrv_only | with_reducible apply priceCheck_only | with_reducible apply reclaimResume_only | with_reducible refine OnlyChanges.foldl ?_ (fun _ _ _ => ?_) | with_reducible apply OnlyChanges.ite | split | (with_reducible apply OnlyChanges.upd <;> first | exact fun q => absurd (by assumption) q | with_reducible exact fun _ => rfl | skip)
  all_goals first | exact fun _ => rfl | skip

theorem readyCore_only  {s : State} (kport : Part.port ∈ l_) (kease : Part.ease ∈ l_) (ksw : Part.sw ∈ l_) (kstore : Part.store ∈ l_) (h_ : OnlyChanges l_ u_ s) : OnlyChanges l_ u_ (readyCore s) := by
  unfold readyCore
  try dsimp only
  repeat' first | with_reducible assumption | with_reducible apply authEvent_only | with_reducible apply requestPullIn_only | with_reducible refine OnlyChanges.foldl ?_ (fun _ _ _ => ?_) | with_reducible apply OnlyChanges.ite | split | (with_reducible apply OnlyChanges.upd <;> first | exact fun q => absurd (by assumption) q | with_reducible exact fun _ => rfl | skip)
  all_goals first | exact fun _ => rfl | skip

theorem becomeReady_only (vbatMv : Nat) {s : State} (kfactory : Part.factory ∈ l_) (kpower : Part.power ∈ l_) (krst : Part.rst ∈ l_) (kmodes : Part.modes ∈ l_) (kport : Part.port ∈ l_) (kease : Part.ease ∈ l_) (kenergy : Part.energy ∈ l_) (kbilling : Part.billing ∈ l_) (klog : Part.log ∈ l_) (ksw : Part.sw ∈ l_) (ktrv : Part.trv ∈ l_) (ktag : Part.tag ∈ l_) (kdisp : Part.disp ∈ l_) (kchain : Part.chain ∈ l_) (kstore : Part.store ∈ l_) (h_ : OnlyChanges l_ u_ s) : OnlyChanges l_ u_ (becomeReady vbatMv s) := by
  unfold becomeReady
  try dsimp only
  repeat' first | with_reducible assumption | with_reducible apply updCause_only | with_reducible apply updRst_only | with_reducible apply readyCore_only | with_reducible apply counterResume_only | with_reducible apply readyWide_only | with_reducible apply appRetire_only | with_reducible apply readyTail_only | with_reducible refine OnlyChanges.foldl ?_ (fun _ _ _ => ?_) | with_reducible apply OnlyChanges.ite | split | (with_reducible apply OnlyChanges.upd <;> first | exact fun q => absurd (by assumption) q | with_reducible exact fun _ => rfl | skip)
  all_goals first | exact fun _ => rfl | skip

end Sys2Proof.Machine
end

