-- ==== Sys2Proof/Laws/OnlyInsulation.lean ====
section
/-!
SUPPORT. The frames of the operations of Machine/Insulation.lean (OnlyChanges, for every list that holds the parts they touch).
-/

namespace Sys2Proof.Machine

set_option linter.all false

open Sys2Proof.Safety

variable {l_ : List Part} {u_ : State}

theorem injectedFrame_only  {s : State} (kfe : Part.fe ∈ l_) (h_ : OnlyChanges l_ u_ s) : OnlyChanges l_ u_ (injectedFrame s) := by
  unfold injectedFrame
  try dsimp only
  repeat' first | with_reducible assumption | with_reducible refine OnlyChanges.foldl ?_ (fun _ _ _ => ?_) | with_reducible apply OnlyChanges.ite | split | (with_reducible apply OnlyChanges.upd <;> first | exact fun q => absurd (by assumption) q | with_reducible exact fun _ => rfl | skip)
  all_goals first | exact fun _ => rfl | skip

theorem plumbFrame_only  {s0 : State} (kease : Part.ease ∈ l_) (kfe : Part.fe ∈ l_) (h_ : OnlyChanges l_ u_ s0) : OnlyChanges l_ u_ (plumbFrame s0) := by
  unfold plumbFrame
  try dsimp only
  repeat' first | with_reducible assumption | with_reducible apply submit_only | with_reducible apply release_only | with_reducible apply injectedFrame_only | with_reducible refine OnlyChanges.foldl ?_ (fun _ _ _ => ?_) | with_reducible apply OnlyChanges.ite | split | (with_reducible apply OnlyChanges.upd <;> first | exact fun q => absurd (by assumption) q | with_reducible exact fun _ => rfl | skip)
  all_goals first | exact fun _ => rfl | skip

theorem insEvent_only (code n : Nat) {s : State} (kport : Part.port ∈ l_) (kstore : Part.store ∈ l_) (h_ : OnlyChanges l_ u_ s) : OnlyChanges l_ u_ (insEvent code n s) := by
  unfold insEvent
  try dsimp only
  repeat' first | with_reducible assumption | with_reducible apply event_only | with_reducible refine OnlyChanges.foldl ?_ (fun _ _ _ => ?_) | with_reducible apply OnlyChanges.ite | split | (with_reducible apply OnlyChanges.upd <;> first | exact fun q => absurd (by assumption) q | with_reducible exact fun _ => rfl | skip)
  all_goals first | exact fun _ => rfl | skip

theorem markLocated_only (mask : BitVec 8) {s : State} (ksw : Part.sw ∈ l_) (h_ : OnlyChanges l_ u_ s) : OnlyChanges l_ u_ (markLocated mask s) := by
  unfold markLocated
  try dsimp only
  repeat' first | with_reducible assumption | with_reducible apply updIns_only | with_reducible refine OnlyChanges.foldl ?_ (fun _ _ _ => ?_) | with_reducible apply OnlyChanges.ite | split | (with_reducible apply OnlyChanges.upd <;> first | exact fun q => absurd (by assumption) q | with_reducible exact fun _ => rfl | skip)
  all_goals first | exact fun _ => rfl | skip

theorem startLocate_only (n : Nat) {s : State} (kport : Part.port ∈ l_) (ksw : Part.sw ∈ l_) (kstore : Part.store ∈ l_) (h_ : OnlyChanges l_ u_ s) : OnlyChanges l_ u_ (startLocate n s) := by
  unfold startLocate
  try dsimp only
  repeat' first | with_reducible assumption | with_reducible apply event_only | with_reducible apply markLocated_only | with_reducible refine OnlyChanges.foldl ?_ (fun _ _ _ => ?_) | with_reducible apply OnlyChanges.ite | split | (with_reducible apply OnlyChanges.upd <;> first | exact fun q => absurd (by assumption) q | with_reducible exact fun _ => rfl | skip)
  all_goals first | exact fun _ => rfl | skip

theorem insulationStop_only (owner : Nat) {s : State} (kport : Part.port ∈ l_) (kease : Part.ease ∈ l_) (kbilling : Part.billing ∈ l_) (klink : Part.link ∈ l_) (ksw : Part.sw ∈ l_) (kstore : Part.store ∈ l_) (h_ : OnlyChanges l_ u_ s) : OnlyChanges l_ u_ (insulationStop owner s) := by
  unfold insulationStop
  try dsimp only
  repeat' first | with_reducible assumption | with_reducible apply demandStop_only | with_reducible apply startLocate_only | with_reducible apply failSequence_only | with_reducible apply endAfterStop_only | with_reducible refine OnlyChanges.foldl ?_ (fun _ _ _ => ?_) | with_reducible apply OnlyChanges.ite | split | (with_reducible apply OnlyChanges.upd <;> first | exact fun q => absurd (by assumption) q | with_reducible exact fun _ => rfl | skip)
  all_goals first | exact fun _ => rfl | skip

theorem judgeIns_only (n : Nat) (g e : BitVec 8) (r : Option Reading) {s : State} (kport : Part.port ∈ l_) (ksw : Part.sw ∈ l_) (kstore : Part.store ∈ l_) (h_ : OnlyChanges l_ u_ s) : OnlyChanges l_ u_ (judgeIns n g e r s) := by
  unfold judgeIns
  try dsimp only
  repeat' first | with_reducible assumption | with_reducible apply updIns_only | with_reducible apply insEvent_only | with_reducible refine OnlyChanges.foldl ?_ (fun _ _ _ => ?_) | with_reducible apply OnlyChanges.ite | split | (with_reducible apply OnlyChanges.upd <;> first | exact fun q => absurd (by assumption) q | with_reducible exact fun _ => rfl | skip)
  all_goals first | exact fun _ => rfl | skip

theorem cableResult_only (n : Nat) {s : State} (ksw : Part.sw ∈ l_) (h_ : OnlyChanges l_ u_ s) : OnlyChanges l_ u_ (cableResult n s) := by
  unfold cableResult
  try dsimp only
  repeat' first | with_reducible assumption | with_reducible apply updSq_only | with_reducible refine OnlyChanges.foldl ?_ (fun _ _ _ => ?_) | with_reducible apply OnlyChanges.ite | split | (with_reducible apply OnlyChanges.upd <;> first | exact fun q => absurd (by assumption) q | with_reducible exact fun _ => rfl | skip)
  all_goals first | exact fun _ => rfl | skip

theorem judgeGroup_only (n : Nat) (g e : BitVec 8) {s : State} (kport : Part.port ∈ l_) (kease : Part.ease ∈ l_) (kbilling : Part.billing ∈ l_) (klink : Part.link ∈ l_) (ksw : Part.sw ∈ l_) (kstore : Part.store ∈ l_) (h_ : OnlyChanges l_ u_ s) : OnlyChanges l_ u_ (judgeGroup n g e s) := by
  unfold judgeGroup
  try dsimp only
  repeat' first | with_reducible assumption | with_reducible apply updIns_only | with_reducible apply event_only | with_reducible apply demandStop_only | with_reducible refine OnlyChanges.foldl ?_ (fun _ _ _ => ?_) | with_reducible apply OnlyChanges.ite | split | (with_reducible apply OnlyChanges.upd <;> first | exact fun q => absurd (by assumption) q | with_reducible exact fun _ => rfl | skip)
  all_goals first | exact fun _ => rfl | skip

theorem locatePeriod_only  {s : State} (kport : Part.port ∈ l_) (ksw : Part.sw ∈ l_) (kstore : Part.store ∈ l_) (h_ : OnlyChanges l_ u_ s) : OnlyChanges l_ u_ (locatePeriod s) := by
  unfold locatePeriod
  try dsimp only
  repeat' first | with_reducible assumption | with_reducible apply markLocated_only | with_reducible apply event_only | with_reducible refine OnlyChanges.foldl ?_ (fun _ _ _ => ?_) | with_reducible apply OnlyChanges.ite | split | (with_reducible apply OnlyChanges.upd <;> first | exact fun q => absurd (by assumption) q | with_reducible exact fun _ => rfl | skip)
  all_goals first | exact fun _ => rfl | skip

theorem updateCorr_only (k endLegal n : Nat) {s : State} (kfe : Part.fe ∈ l_) (h_ : OnlyChanges l_ u_ s) : OnlyChanges l_ u_ (updateCorr k endLegal n s) := by
  unfold updateCorr
  try dsimp only
  repeat' first | with_reducible assumption | with_reducible refine OnlyChanges.foldl ?_ (fun _ _ _ => ?_) | with_reducible apply OnlyChanges.ite | split | (with_reducible apply OnlyChanges.upd <;> first | exact fun q => absurd (by assumption) q | with_reducible exact fun _ => rfl | skip)
  all_goals first | exact fun _ => rfl | skip

theorem judgePeriod_only  {s : State} (kport : Part.port ∈ l_) (kease : Part.ease ∈ l_) (kbilling : Part.billing ∈ l_) (klink : Part.link ∈ l_) (ksw : Part.sw ∈ l_) (kstore : Part.store ∈ l_) (h_ : OnlyChanges l_ u_ s) : OnlyChanges l_ u_ (judgePeriod s) := by
  unfold judgePeriod
  try dsimp only
  repeat' first | with_reducible assumption | with_reducible apply judgeIns_only | with_reducible apply judgeGroup_only | with_reducible apply cableResult_only | with_reducible apply locatePeriod_only | with_reducible apply insulationStop_only | with_reducible refine OnlyChanges.foldl ?_ (fun _ _ _ => ?_) | with_reducible apply OnlyChanges.ite | split | (with_reducible apply OnlyChanges.upd <;> first | exact fun q => absurd (by assumption) q | with_reducible exact fun _ => rfl | skip)
  all_goals first | exact fun _ => rfl | skip

end Sys2Proof.Machine
end

