-- ==== Sys2Proof/Laws/OnlyLeave.lean ====
section
/-!
SUPPORT. The frames of the operations of Machine/Leave.lean (OnlyChanges, for every list that holds the parts they touch).
-/

namespace Sys2Proof.Machine

set_option linter.all false

open Sys2Proof.Safety

variable {l_ : List Part} {u_ : State}

theorem pullInRefused_only (id : Nat) {s : State} (kport : Part.port ∈ l_) (kease : Part.ease ∈ l_) (kbilling : Part.billing ∈ l_) (klink : Part.link ∈ l_) (ksw : Part.sw ∈ l_) (kstore : Part.store ∈ l_) (h_ : OnlyChanges l_ u_ s) : OnlyChanges l_ u_ (pullInRefused id s) := by
  unfold pullInRefused
  try dsimp only
  repeat' first | with_reducible assumption | with_reducible apply updDrv_only | with_reducible apply endJob_only | with_reducible apply failSequence_only | with_reducible apply endAfterStop_only | with_reducible refine OnlyChanges.foldl ?_ (fun _ _ _ => ?_) | with_reducible apply OnlyChanges.ite | split | (with_reducible apply OnlyChanges.upd <;> first | exact fun q => absurd (by assumption) q | with_reducible exact fun _ => rfl | skip)
  all_goals first | exact fun _ => rfl | skip

theorem pullInGranted_only (id : Nat) {s : State} (kport : Part.port ∈ l_) (kease : Part.ease ∈ l_) (kbilling : Part.billing ∈ l_) (klink : Part.link ∈ l_) (ksw : Part.sw ∈ l_) (kstore : Part.store ∈ l_) (h_ : OnlyChanges l_ u_ s) : OnlyChanges l_ u_ (pullInGranted id s) := by
  unfold pullInGranted
  try dsimp only
  repeat' first | with_reducible assumption | with_reducible apply release_only | with_reducible apply pullInRefused_only | with_reducible apply beginPullIn_only | with_reducible apply beginOp_only | with_reducible refine OnlyChanges.foldl ?_ (fun _ _ _ => ?_) | with_reducible apply OnlyChanges.ite | split | (with_reducible apply OnlyChanges.upd <;> first | exact fun q => absurd (by assumption) q | with_reducible exact fun _ => rfl | skip)
  all_goals first | exact fun _ => rfl | skip

theorem linkGranted_only (n id : Nat) {s : State} (kease : Part.ease ∈ l_) (klink : Part.link ∈ l_) (h_ : OnlyChanges l_ u_ s) : OnlyChanges l_ u_ (linkGranted n id s) := by
  unfold linkGranted
  try dsimp only
  repeat' first | with_reducible assumption | with_reducible apply beginOp_only | with_reducible apply updLk_only | with_reducible apply release_only | with_reducible refine OnlyChanges.foldl ?_ (fun _ _ _ => ?_) | with_reducible apply OnlyChanges.ite | split | (with_reducible apply OnlyChanges.upd <;> first | exact fun q => absurd (by assumption) q | with_reducible exact fun _ => rfl | skip)
  all_goals first | exact fun _ => rfl | skip

theorem startOp_only (r : Request) {s : State} (kport : Part.port ∈ l_) (kease : Part.ease ∈ l_) (kbilling : Part.billing ∈ l_) (klink : Part.link ∈ l_) (ksw : Part.sw ∈ l_) (kloads : Part.loads ∈ l_) (ktrv : Part.trv ∈ l_) (krdr : Part.rdr ∈ l_) (ktag : Part.tag ∈ l_) (kdisp : Part.disp ∈ l_) (kstore : Part.store ∈ l_) (h_ : OnlyChanges l_ u_ s) : OnlyChanges l_ u_ (startOp r s) := by
  unfold startOp
  try dsimp only
  repeat' first | with_reducible assumption | with_reducible apply pullInGranted_only | with_reducible apply beginOp_only | with_reducible apply loadStart_only | with_reducible apply linkGranted_only | with_reducible apply fieldGranted_only | with_reducible apply importGranted_only | with_reducible apply eraseGranted_only | with_reducible apply displayGranted_only | with_reducible refine OnlyChanges.foldl ?_ (fun _ _ _ => ?_) | with_reducible apply OnlyChanges.ite | split | (with_reducible apply OnlyChanges.upd <;> first | exact fun q => absurd (by assumption) q | with_reducible exact fun _ => rfl | skip)
  all_goals first | exact fun _ => rfl | skip

theorem dropOp_only (r : Request) {s : State} (kport : Part.port ∈ l_) (kease : Part.ease ∈ l_) (kbilling : Part.billing ∈ l_) (klink : Part.link ∈ l_) (ksw : Part.sw ∈ l_) (kloads : Part.loads ∈ l_) (ktrv : Part.trv ∈ l_) (krdr : Part.rdr ∈ l_) (ktag : Part.tag ∈ l_) (kdisp : Part.disp ∈ l_) (kstore : Part.store ∈ l_) (h_ : OnlyChanges l_ u_ s) : OnlyChanges l_ u_ (dropOp r s) := by
  unfold dropOp
  try dsimp only
  repeat' first | with_reducible assumption | with_reducible apply pullInRefused_only | with_reducible apply updIns_only | with_reducible apply loadRefused_only | with_reducible apply leaveRefused_only | with_reducible apply fieldRefused_only | with_reducible apply importRefused_only | with_reducible apply eraseRefused_only | with_reducible apply displayRefused_only | with_reducible refine OnlyChanges.foldl ?_ (fun _ _ _ => ?_) | with_reducible apply OnlyChanges.ite | split | (with_reducible apply OnlyChanges.upd <;> first | exact fun q => absurd (by assumption) q | with_reducible exact fun _ => rfl | skip)
  all_goals first | exact fun _ => rfl | skip

theorem answerReq_only (id : Nat) (a : Answer) {s : State} (kport : Part.port ∈ l_) (kloads : Part.loads ∈ l_) (h_ : OnlyChanges l_ u_ s) : OnlyChanges l_ u_ (answerReq id a s) := by
  unfold answerReq
  try dsimp only
  repeat' first | with_reducible assumption | with_reducible apply answerAwaiting_only | with_reducible apply loadDeferred_only | with_reducible refine OnlyChanges.foldl ?_ (fun _ _ _ => ?_) | with_reducible apply OnlyChanges.ite | split | (with_reducible apply OnlyChanges.upd <;> first | exact fun q => absurd (by assumption) q | with_reducible exact fun _ => rfl | skip)
  all_goals first | exact fun _ => rfl | skip

theorem putCharge_only (r : Request) (a : Nat) {s : State} (kport : Part.port ∈ l_) (kease : Part.ease ∈ l_) (kbilling : Part.billing ∈ l_) (klink : Part.link ∈ l_) (ksw : Part.sw ∈ l_) (kloads : Part.loads ∈ l_) (ktrv : Part.trv ∈ l_) (krdr : Part.rdr ∈ l_) (ktag : Part.tag ∈ l_) (kdisp : Part.disp ∈ l_) (kstore : Part.store ∈ l_) (h_ : OnlyChanges l_ u_ s) : OnlyChanges l_ u_ (putCharge r a s) := by
  unfold putCharge
  try dsimp only
  repeat' first | with_reducible assumption | with_reducible apply startOp_only | with_reducible apply answerReq_only | with_reducible refine OnlyChanges.foldl ?_ (fun _ _ _ => ?_) | with_reducible apply OnlyChanges.ite | split | (with_reducible apply OnlyChanges.upd <;> first | exact fun q => absurd (by assumption) q | with_reducible exact fun _ => rfl | skip)
  all_goals first | exact fun _ => rfl | skip

theorem refuseReq_only (r : Request) {s : State} (kport : Part.port ∈ l_) (kease : Part.ease ∈ l_) (kbilling : Part.billing ∈ l_) (klink : Part.link ∈ l_) (ksw : Part.sw ∈ l_) (kloads : Part.loads ∈ l_) (ktrv : Part.trv ∈ l_) (krdr : Part.rdr ∈ l_) (ktag : Part.tag ∈ l_) (kdisp : Part.disp ∈ l_) (kstore : Part.store ∈ l_) (h_ : OnlyChanges l_ u_ s) : OnlyChanges l_ u_ (refuseReq r s) := by
  unfold refuseReq
  try dsimp only
  repeat' first | with_reducible assumption | with_reducible apply dropOp_only | with_reducible apply answerReq_only | with_reducible apply refused_only | with_reducible refine OnlyChanges.foldl ?_ (fun _ _ _ => ?_) | with_reducible apply OnlyChanges.ite | split | (with_reducible apply OnlyChanges.upd <;> first | exact fun q => absurd (by assumption) q | with_reducible exact fun _ => rfl | skip)
  all_goals first | exact fun _ => rfl | skip

theorem placeAgain_only (c : Charge) {s : State} (kport : Part.port ∈ l_) (kease : Part.ease ∈ l_) (kbilling : Part.billing ∈ l_) (klink : Part.link ∈ l_) (ksw : Part.sw ∈ l_) (kloads : Part.loads ∈ l_) (ktrv : Part.trv ∈ l_) (krdr : Part.rdr ∈ l_) (ktag : Part.tag ∈ l_) (kdisp : Part.disp ∈ l_) (kstore : Part.store ∈ l_) (h_ : OnlyChanges l_ u_ s) : OnlyChanges l_ u_ (placeAgain c s) := by
  unfold placeAgain
  try dsimp only
  repeat' first | with_reducible assumption | with_reducible apply revised_only | with_reducible apply startOp_only | with_reducible apply dropOp_only | with_reducible apply refused_only | with_reducible refine OnlyChanges.foldl ?_ (fun _ _ _ => ?_) | with_reducible apply OnlyChanges.ite | split | (with_reducible apply OnlyChanges.upd <;> first | exact fun q => absurd (by assumption) q | with_reducible exact fun _ => rfl | skip)
  all_goals first | exact fun _ => rfl | skip

theorem evaluateOne_only (r : Request) {s : State} (kport : Part.port ∈ l_) (kease : Part.ease ∈ l_) (kbilling : Part.billing ∈ l_) (klink : Part.link ∈ l_) (ksw : Part.sw ∈ l_) (kloads : Part.loads ∈ l_) (ktrv : Part.trv ∈ l_) (krdr : Part.rdr ∈ l_) (ktag : Part.tag ∈ l_) (kdisp : Part.disp ∈ l_) (kstore : Part.store ∈ l_) (h_ : OnlyChanges l_ u_ s) : OnlyChanges l_ u_ (evaluateOne r s) := by
  unfold evaluateOne
  try dsimp only
  repeat' first | with_reducible assumption | with_reducible apply refuseReq_only | with_reducible apply putCharge_only | with_reducible apply placeAgain_only | with_reducible refine OnlyChanges.foldl ?_ (fun _ _ _ => ?_) | with_reducible apply OnlyChanges.ite | split | (with_reducible apply OnlyChanges.upd <;> first | exact fun q => absurd (by assumption) q | with_reducible exact fun _ => rfl | skip)
  all_goals first | exact fun _ => rfl | skip

theorem answerWithdrawn_only  {s : State} (kport : Part.port ∈ l_) (kloads : Part.loads ∈ l_) (h_ : OnlyChanges l_ u_ s) : OnlyChanges l_ u_ (answerWithdrawn s) := by
  unfold answerWithdrawn
  try dsimp only
  repeat' first | with_reducible assumption | with_reducible apply loadDeferred_only | with_reducible apply answerAwaiting_only | with_reducible refine OnlyChanges.foldl ?_ (fun _ _ _ => ?_) | with_reducible apply OnlyChanges.ite | split | (with_reducible apply OnlyChanges.upd <;> first | exact fun q => absurd (by assumption) q | with_reducible exact fun _ => rfl | skip)
  all_goals first | exact fun _ => rfl | skip

theorem evaluateLeave_only  {s : State} (kport : Part.port ∈ l_) (kease : Part.ease ∈ l_) (kbilling : Part.billing ∈ l_) (klink : Part.link ∈ l_) (ksw : Part.sw ∈ l_) (kloads : Part.loads ∈ l_) (ktrv : Part.trv ∈ l_) (krdr : Part.rdr ∈ l_) (ktag : Part.tag ∈ l_) (kdisp : Part.disp ∈ l_) (kstore : Part.store ∈ l_) (h_ : OnlyChanges l_ u_ s) : OnlyChanges l_ u_ (evaluateLeave s) := by
  unfold evaluateLeave
  try dsimp only
  repeat' first | with_reducible assumption | with_reducible apply answerWithdrawn_only | with_reducible apply evaluateOne_only | with_reducible refine OnlyChanges.foldl ?_ (fun _ _ _ => ?_) | with_reducible apply OnlyChanges.ite | split | (with_reducible apply OnlyChanges.upd <;> first | exact fun q => absurd (by assumption) q | with_reducible exact fun _ => rfl | skip)
  all_goals first | exact fun _ => rfl | skip

theorem replaceAll_only  {s : State} (kport : Part.port ∈ l_) (kease : Part.ease ∈ l_) (kbilling : Part.billing ∈ l_) (klink : Part.link ∈ l_) (ksw : Part.sw ∈ l_) (kloads : Part.loads ∈ l_) (ktrv : Part.trv ∈ l_) (krdr : Part.rdr ∈ l_) (ktag : Part.tag ∈ l_) (kdisp : Part.disp ∈ l_) (kstore : Part.store ∈ l_) (h_ : OnlyChanges l_ u_ s) : OnlyChanges l_ u_ (replaceAll s) := by
  unfold replaceAll
  try dsimp only
  repeat' first | with_reducible assumption | with_reducible apply revised_only | with_reducible apply dropOp_only | with_reducible apply refused_only | with_reducible refine OnlyChanges.foldl ?_ (fun _ _ _ => ?_) | with_reducible apply OnlyChanges.ite | split | (with_reducible apply OnlyChanges.upd <;> first | exact fun q => absurd (by assumption) q | with_reducible exact fun _ => rfl | skip)
  all_goals first | exact fun _ => rfl | skip

end Sys2Proof.Machine
end

