-- ==== Sys2Proof/Laws/OnlyModes.lean ====
section
/-!
SUPPORT. The frames of the operations of Machine/Modes.lean (OnlyChanges, for every list that holds the parts they touch).
-/

namespace Sys2Proof.Machine

set_option linter.all false

open Sys2Proof.Safety

variable {l_ : List Part} {u_ : State}

theorem forceStops_only  {s : State} (kport : Part.port ∈ l_) (kease : Part.ease ∈ l_) (kbilling : Part.billing ∈ l_) (klink : Part.link ∈ l_) (ksw : Part.sw ∈ l_) (kstore : Part.store ∈ l_) (h_ : OnlyChanges l_ u_ s) : OnlyChanges l_ u_ (forceStops s) := by
  unfold forceStops
  try dsimp only
  repeat' first | with_reducible assumption | with_reducible apply stopLink_only | with_reducible apply tell_only | with_reducible apply updLk_only | with_reducible refine OnlyChanges.foldl ?_ (fun _ _ _ => ?_) | with_reducible apply OnlyChanges.ite | split | (with_reducible apply OnlyChanges.upd <;> first | exact fun q => absurd (by assumption) q | with_reducible exact fun _ => rfl | skip)
  all_goals first | exact fun _ => rfl | skip

theorem resetCmd_only (p : List Byte) {s : State} (krst : Part.rst ∈ l_) (kport : Part.port ∈ l_) (kease : Part.ease ∈ l_) (kbilling : Part.billing ∈ l_) (klink : Part.link ∈ l_) (ksw : Part.sw ∈ l_) (kstore : Part.store ∈ l_) (h_ : OnlyChanges l_ u_ s) : OnlyChanges l_ u_ (resetCmd p s).run.st := by
  unfold resetCmd
  try dsimp only
  repeat' first | with_reducible assumption | with_reducible apply forceStops_only | with_reducible apply updRst_only | with_reducible refine OnlyChanges.foldl ?_ (fun _ _ _ => ?_) | with_reducible apply OnlyChanges.ite | split | (with_reducible apply OnlyChanges.upd <;> first | exact fun q => absurd (by assumption) q | with_reducible exact fun _ => rfl | skip)
  all_goals first | exact fun _ => rfl | skip

theorem forcedReset_only  {s : State} (krst : Part.rst ∈ l_) (kport : Part.port ∈ l_) (kease : Part.ease ∈ l_) (kenergy : Part.energy ∈ l_) (kbilling : Part.billing ∈ l_) (klink : Part.link ∈ l_) (ksw : Part.sw ∈ l_) (kloads : Part.loads ∈ l_) (ktrv : Part.trv ∈ l_) (krdr : Part.rdr ∈ l_) (kdisp : Part.disp ∈ l_) (kstore : Part.store ∈ l_) (h_ : OnlyChanges l_ u_ s) : OnlyChanges l_ u_ (forcedReset s) := by
  unfold forcedReset
  try dsimp only
  repeat' first | with_reducible assumption | with_reducible apply assertSource_only | with_reducible apply updRst_only | with_reducible refine OnlyChanges.foldl ?_ (fun _ _ _ => ?_) | with_reducible apply OnlyChanges.ite | split | (with_reducible apply OnlyChanges.upd <;> first | exact fun q => absurd (by assumption) q | with_reducible exact fun _ => rfl | skip)
  all_goals first | exact fun _ => rfl | skip

theorem modeSetRun_only (h : Hdr) (bench : Bool) {s : State} (kmodes : Part.modes ∈ l_) (kport : Part.port ∈ l_) (kenergy : Part.energy ∈ l_) (kbilling : Part.billing ∈ l_) (klog : Part.log ∈ l_) (ktag : Part.tag ∈ l_) (kstore : Part.store ∈ l_) (h_ : OnlyChanges l_ u_ s) : OnlyChanges l_ u_ (modeSetRun h bench s).st := by
  unfold modeSetRun
  try dsimp only
  repeat' first | with_reducible assumption | with_reducible apply enterMode_only | with_reducible apply benchCancelled_only | with_reducible refine OnlyChanges.foldl ?_ (fun _ _ _ => ?_) | with_reducible apply OnlyChanges.ite | split | (with_reducible apply OnlyChanges.upd <;> first | exact fun q => absurd (by assumption) q | with_reducible exact fun _ => rfl | skip)
  all_goals first | exact fun _ => rfl | skip

theorem modeSetCmd_only (h : Hdr) (p : List Byte) {s : State} (kmodes : Part.modes ∈ l_) (kport : Part.port ∈ l_) (kenergy : Part.energy ∈ l_) (kbilling : Part.billing ∈ l_) (klog : Part.log ∈ l_) (ktag : Part.tag ∈ l_) (kstore : Part.store ∈ l_) (h_ : OnlyChanges l_ u_ s) : OnlyChanges l_ u_ (modeSetCmd h p s).run.st := by
  unfold modeSetCmd
  try dsimp only
  repeat' first | with_reducible assumption | with_reducible apply modeSetRun_only | with_reducible refine OnlyChanges.foldl ?_ (fun _ _ _ => ?_) | with_reducible apply OnlyChanges.ite | split | (with_reducible apply OnlyChanges.upd <;> first | exact fun q => absurd (by assumption) q | with_reducible exact fun _ => rfl | skip)
  all_goals first | exact fun _ => rfl | skip

theorem recoveryAcked_only  {s : State} (kmodes : Part.modes ∈ l_) (kport : Part.port ∈ l_) (kease : Part.ease ∈ l_) (kenergy : Part.energy ∈ l_) (kbilling : Part.billing ∈ l_) (klog : Part.log ∈ l_) (ktag : Part.tag ∈ l_) (kstore : Part.store ∈ l_) (h_ : OnlyChanges l_ u_ s) : OnlyChanges l_ u_ (recoveryAcked s) := by
  unfold recoveryAcked
  try dsimp only
  repeat' first | with_reducible assumption | with_reducible apply enterMode_only | with_reducible refine OnlyChanges.foldl ?_ (fun _ _ _ => ?_) | with_reducible apply OnlyChanges.ite | split | (with_reducible apply OnlyChanges.upd <;> first | exact fun q => absurd (by assumption) q | with_reducible exact fun _ => rfl | skip)
  all_goals first | exact fun _ => rfl | skip

theorem recoveryAckCmd_only (p : List Byte) {s : State} (kmodes : Part.modes ∈ l_) (kport : Part.port ∈ l_) (kease : Part.ease ∈ l_) (kenergy : Part.energy ∈ l_) (kbilling : Part.billing ∈ l_) (klog : Part.log ∈ l_) (ktag : Part.tag ∈ l_) (kstore : Part.store ∈ l_) (h_ : OnlyChanges l_ u_ s) : OnlyChanges l_ u_ (recoveryAckCmd p s).run.st := by
  unfold recoveryAckCmd
  try dsimp only
  repeat' first | with_reducible assumption | with_reducible apply recoveryAcked_only | with_reducible refine OnlyChanges.foldl ?_ (fun _ _ _ => ?_) | with_reducible apply OnlyChanges.ite | split | (with_reducible apply OnlyChanges.upd <;> first | exact fun q => absurd (by assumption) q | with_reducible exact fun _ => rfl | skip)
  all_goals first | exact fun _ => rfl | skip

theorem commissioningDoneCmd_only (p : List Byte) {s : State} (krst : Part.rst ∈ l_) (kmodes : Part.modes ∈ l_) (kport : Part.port ∈ l_) (kenergy : Part.energy ∈ l_) (kbilling : Part.billing ∈ l_) (klog : Part.log ∈ l_) (ktag : Part.tag ∈ l_) (kstore : Part.store ∈ l_) (h_ : OnlyChanges l_ u_ s) : OnlyChanges l_ u_ (commissioningDoneCmd p s).run.st := by
  unfold commissioningDoneCmd
  try dsimp only
  repeat' first | with_reducible assumption | with_reducible apply enterMode_only | with_reducible apply updRst_only | with_reducible refine OnlyChanges.foldl ?_ (fun _ _ _ => ?_) | with_reducible apply OnlyChanges.ite | split | (with_reducible apply OnlyChanges.upd <;> first | exact fun q => absurd (by assumption) q | with_reducible exact fun _ => rfl | skip)
  all_goals first | exact fun _ => rfl | skip

end Sys2Proof.Machine
end

