-- ==== Sys2Proof/Laws/OnlyPower.lean ====
section
/-!
SUPPORT. The frames of the operations of Machine/Power.lean (OnlyChanges, for every list that holds the parts they touch).
-/

namespace Sys2Proof.Machine

set_option linter.all false

open Sys2Proof.Safety

variable {l_ : List Part} {u_ : State}

theorem updPower_only (f : Power → Power) {s : State} (kpower : Part.power ∈ l_) (h_ : OnlyChanges l_ u_ s) : OnlyChanges l_ u_ (updPower f s) := by
  unfold updPower
  try dsimp only
  repeat' first | with_reducible assumption | with_reducible refine OnlyChanges.foldl ?_ (fun _ _ _ => ?_) | with_reducible apply OnlyChanges.ite | split | (with_reducible apply OnlyChanges.upd <;> first | exact fun q => absurd (by assumption) q | with_reducible exact fun _ => rfl | skip)
  all_goals first | exact fun _ => rfl | skip

theorem shutPermits_only  {s : State} (ksw : Part.sw ∈ l_) (h_ : OnlyChanges l_ u_ s) : OnlyChanges l_ u_ (shutPermits s) := by
  unfold shutPermits
  try dsimp only
  repeat' first | with_reducible assumption | with_reducible apply armHwOff_only | with_reducible refine OnlyChanges.foldl ?_ (fun _ _ _ => ?_) | with_reducible apply OnlyChanges.ite | split | (with_reducible apply OnlyChanges.upd <;> first | exact fun q => absurd (by assumption) q | with_reducible exact fun _ => rfl | skip)
  all_goals first | exact fun _ => rfl | skip

theorem shutTransmitters_only  {s : State} (kport : Part.port ∈ l_) (kease : Part.ease ∈ l_) (kbilling : Part.billing ∈ l_) (kloads : Part.loads ∈ l_) (ktrv : Part.trv ∈ l_) (krdr : Part.rdr ∈ l_) (kdisp : Part.disp ∈ l_) (kstore : Part.store ∈ l_) (h_ : OnlyChanges l_ u_ s) : OnlyChanges l_ u_ (shutTransmitters s) := by
  unfold shutTransmitters
  try dsimp only
  repeat' first | with_reducible assumption | with_reducible apply displayShutdown_only | with_reducible apply readerStop_only | with_reducible apply channelsOff_only | with_reducible apply trvSilent_only | with_reducible refine OnlyChanges.foldl ?_ (fun _ _ _ => ?_) | with_reducible apply OnlyChanges.ite | split | (with_reducible apply OnlyChanges.upd <;> first | exact fun q => absurd (by assumption) q | with_reducible exact fun _ => rfl | skip)
  all_goals first | exact fun _ => rfl | skip

theorem shutSave_only  {s : State} (kpower : Part.power ∈ l_) (kenergy : Part.energy ∈ l_) (kbilling : Part.billing ∈ l_) (kstore : Part.store ∈ l_) (h_ : OnlyChanges l_ u_ s) : OnlyChanges l_ u_ (shutSave s) := by
  unfold shutSave
  try dsimp only
  repeat' first | with_reducible assumption | with_reducible apply finalSave_only | with_reducible apply journalMet_only | with_reducible apply benchEnds_only | with_reducible refine OnlyChanges.foldl ?_ (fun _ _ _ => ?_) | with_reducible apply OnlyChanges.ite | split | (with_reducible apply OnlyChanges.upd <;> first | exact fun q => absurd (by assumption) q | with_reducible exact fun _ => rfl | skip)
  all_goals first | exact fun _ => rfl | skip

theorem powerFailEvent_only  {s : State} (kport : Part.port ∈ l_) (kstore : Part.store ∈ l_) (h_ : OnlyChanges l_ u_ s) : OnlyChanges l_ u_ (powerFailEvent s) := by
  unfold powerFailEvent
  try dsimp only
  repeat' first | with_reducible assumption | with_reducible apply event_only | with_reducible refine OnlyChanges.foldl ?_ (fun _ _ _ => ?_) | with_reducible apply OnlyChanges.ite | split | (with_reducible apply OnlyChanges.upd <;> first | exact fun q => absurd (by assumption) q | with_reducible exact fun _ => rfl | skip)
  all_goals first | exact fun _ => rfl | skip

theorem powerFail_only (vauxMv : Nat) {s : State} (kpower : Part.power ∈ l_) (krst : Part.rst ∈ l_) (kport : Part.port ∈ l_) (kease : Part.ease ∈ l_) (kenergy : Part.energy ∈ l_) (kbilling : Part.billing ∈ l_) (ksw : Part.sw ∈ l_) (kloads : Part.loads ∈ l_) (ktrv : Part.trv ∈ l_) (krdr : Part.rdr ∈ l_) (kdisp : Part.disp ∈ l_) (kstore : Part.store ∈ l_) (h_ : OnlyChanges l_ u_ s) : OnlyChanges l_ u_ (powerFail vauxMv s) := by
  unfold powerFail
  try dsimp only
  repeat' first | with_reducible assumption | with_reducible apply updPower_only | with_reducible apply updRst_only | with_reducible apply powerFailEvent_only | with_reducible apply shutSave_only | with_reducible apply shutTransmitters_only | with_reducible apply shutPermits_only | with_reducible refine OnlyChanges.foldl ?_ (fun _ _ _ => ?_) | with_reducible apply OnlyChanges.ite | split | (with_reducible apply OnlyChanges.upd <;> first | exact fun q => absurd (by assumption) q | with_reducible exact fun _ => rfl | skip)
  all_goals first | exact fun _ => rfl | skip

theorem tailSave_only  {s : State} (kenergy : Part.energy ∈ l_) (kstore : Part.store ∈ l_) (h_ : OnlyChanges l_ u_ s) : OnlyChanges l_ u_ (tailSave s) := by
  unfold tailSave
  try dsimp only
  repeat' first | with_reducible assumption | with_reducible apply writeSlot_only | with_reducible apply releasePulses_only | with_reducible refine OnlyChanges.foldl ?_ (fun _ _ _ => ?_) | with_reducible apply OnlyChanges.ite | split | (with_reducible apply OnlyChanges.upd <;> first | exact fun q => absurd (by assumption) q | with_reducible exact fun _ => rfl | skip)
  all_goals first | exact fun _ => rfl | skip

theorem shutStep6_only  {s : State} (kpower : Part.power ∈ l_) (kport : Part.port ∈ l_) (kstore : Part.store ∈ l_) (h_ : OnlyChanges l_ u_ s) : OnlyChanges l_ u_ (shutStep6 s) := by
  unfold shutStep6
  try dsimp only
  repeat' first | with_reducible assumption | with_reducible apply journalApp_only | with_reducible refine OnlyChanges.foldl ?_ (fun _ _ _ => ?_) | with_reducible apply OnlyChanges.ite | split | (with_reducible apply OnlyChanges.upd <;> first | exact fun q => absurd (by assumption) q | with_reducible exact fun _ => rfl | skip)
  all_goals first | exact fun _ => rfl | skip

theorem driversDead_only  {s : State} (ksw : Part.sw ∈ l_) (h_ : OnlyChanges l_ u_ s) : OnlyChanges l_ u_ (driversDead s) := by
  unfold driversDead
  try dsimp only
  repeat' first | with_reducible assumption | with_reducible refine OnlyChanges.foldl ?_ (fun _ _ _ => ?_) | with_reducible apply OnlyChanges.ite | split | (with_reducible apply OnlyChanges.upd <;> first | exact fun q => absurd (by assumption) q | with_reducible exact fun _ => rfl | skip)
  all_goals first | exact fun _ => rfl | skip

theorem shutdownTick_only  {s : State} (kpower : Part.power ∈ l_) (krst : Part.rst ∈ l_) (kport : Part.port ∈ l_) (kease : Part.ease ∈ l_) (kenergy : Part.energy ∈ l_) (kbilling : Part.billing ∈ l_) (klink : Part.link ∈ l_) (ksw : Part.sw ∈ l_) (kloads : Part.loads ∈ l_) (ktrv : Part.trv ∈ l_) (krdr : Part.rdr ∈ l_) (kdisp : Part.disp ∈ l_) (kstore : Part.store ∈ l_) (h_ : OnlyChanges l_ u_ s) : OnlyChanges l_ u_ (shutdownTick s) := by
  unfold shutdownTick
  try dsimp only
  repeat' first | with_reducible assumption | with_reducible apply shutStep6_only | with_reducible apply tailSave_only | with_reducible apply driversDead_only | with_reducible apply assertSource_only | with_reducible refine OnlyChanges.foldl ?_ (fun _ _ _ => ?_) | with_reducible apply OnlyChanges.ite | split | (with_reducible apply OnlyChanges.upd <;> first | exact fun q => absurd (by assumption) q | with_reducible exact fun _ => rfl | skip)
  all_goals first | exact fun _ => rfl | skip

theorem undoSlot_only (torn : Bool) {s : State} (kenergy : Part.energy ∈ l_) (h_ : OnlyChanges l_ u_ s) : OnlyChanges l_ u_ (undoSlot torn s) := by
  unfold undoSlot
  try dsimp only
  repeat' first | with_reducible assumption | with_reducible refine OnlyChanges.foldl ?_ (fun _ _ _ => ?_) | with_reducible apply OnlyChanges.ite | split | (with_reducible apply OnlyChanges.upd <;> first | exact fun q => absurd (by assumption) q | with_reducible exact fun _ => rfl | skip)
  all_goals first | exact fun _ => rfl | skip

theorem lostTail_only  {s : State} (kfactory : Part.factory ∈ l_) (kenergy : Part.energy ∈ l_) (h_ : OnlyChanges l_ u_ s) : OnlyChanges l_ u_ (lostTail s) := by
  unfold lostTail
  try dsimp only
  repeat' first | with_reducible assumption | with_reducible apply undoSlot_only | with_reducible apply State.drawFree_only | with_reducible refine OnlyChanges.foldl ?_ (fun _ _ _ => ?_) | with_reducible apply OnlyChanges.ite | split | (with_reducible apply OnlyChanges.upd <;> first | exact fun q => absurd (by assumption) q | with_reducible exact fun _ => rfl | skip)
  all_goals first | exact fun _ => rfl | skip

theorem lostSave_only (steps : Nat) {s : State} (kfactory : Part.factory ∈ l_) (kpower : Part.power ∈ l_) (kport : Part.port ∈ l_) (kenergy : Part.energy ∈ l_) (kstore : Part.store ∈ l_) (h_ : OnlyChanges l_ u_ s) : OnlyChanges l_ u_ (lostSave steps s) := by
  unfold lostSave
  try dsimp only
  repeat' first | with_reducible assumption | with_reducible apply undoSlot_only | with_reducible apply State.drawFree_only | with_reducible refine OnlyChanges.foldl ?_ (fun _ _ _ => ?_) | with_reducible apply OnlyChanges.ite | split | (with_reducible apply OnlyChanges.upd <;> first | exact fun q => absurd (by assumption) q | with_reducible exact fun _ => rfl | skip)
  all_goals first | exact fun _ => rfl | skip

theorem railsOff_only (sup : Supply) {s : State} (kclock : Part.clock ∈ l_) (kpower : Part.power ∈ l_) (krst : Part.rst ∈ l_) (kmodes : Part.modes ∈ l_) (kport : Part.port ∈ l_) (kroles : Part.roles ∈ l_) (kfaults : Part.faults ∈ l_) (kease : Part.ease ∈ l_) (kfe : Part.fe ∈ l_) (kenergy : Part.energy ∈ l_) (kbilling : Part.billing ∈ l_) (kseals : Part.seals ∈ l_) (klog : Part.log ∈ l_) (klink : Part.link ∈ l_) (ksw : Part.sw ∈ l_) (kloads : Part.loads ∈ l_) (ktrv : Part.trv ∈ l_) (krdr : Part.rdr ∈ l_) (ktag : Part.tag ∈ l_) (kdisp : Part.disp ∈ l_) (kchain : Part.chain ∈ l_) (kstore : Part.store ∈ l_) (h_ : OnlyChanges l_ u_ s) : OnlyChanges l_ u_ (railsOff sup s) := by
  unfold railsOff
  try dsimp only
  repeat' first | with_reducible assumption | with_reducible apply driversDead_only | with_reducible apply clearPowerOn_only | with_reducible apply losePlain_only | with_reducible refine OnlyChanges.foldl ?_ (fun _ _ _ => ?_) | with_reducible apply OnlyChanges.ite | split | (with_reducible apply OnlyChanges.upd <;> first | exact fun q => absurd (by assumption) q | with_reducible exact fun _ => rfl | skip)
  all_goals first | exact fun _ => rfl | skip

theorem lostState_only  {s : State} (kfactory : Part.factory ∈ l_) (kstore : Part.store ∈ l_) (h_ : OnlyChanges l_ u_ s) : OnlyChanges l_ u_ (lostState s) := by
  unfold lostState
  try dsimp only
  repeat' first | with_reducible assumption | with_reducible apply State.drawFree_only | with_reducible refine OnlyChanges.foldl ?_ (fun _ _ _ => ?_) | with_reducible apply OnlyChanges.ite | split | (with_reducible apply OnlyChanges.upd <;> first | exact fun q => absurd (by assumption) q | with_reducible exact fun _ => rfl | skip)
  all_goals first | exact fun _ => rfl | skip

theorem dropOut_only (steps : Nat) {s : State} (kfactory : Part.factory ∈ l_) (kclock : Part.clock ∈ l_) (kpower : Part.power ∈ l_) (krst : Part.rst ∈ l_) (kmodes : Part.modes ∈ l_) (kport : Part.port ∈ l_) (kroles : Part.roles ∈ l_) (kfaults : Part.faults ∈ l_) (kease : Part.ease ∈ l_) (kfe : Part.fe ∈ l_) (kenergy : Part.energy ∈ l_) (kbilling : Part.billing ∈ l_) (kseals : Part.seals ∈ l_) (klog : Part.log ∈ l_) (klink : Part.link ∈ l_) (ksw : Part.sw ∈ l_) (kloads : Part.loads ∈ l_) (ktrv : Part.trv ∈ l_) (krdr : Part.rdr ∈ l_) (ktag : Part.tag ∈ l_) (kdisp : Part.disp ∈ l_) (kchain : Part.chain ∈ l_) (kstore : Part.store ∈ l_) (h_ : OnlyChanges l_ u_ s) : OnlyChanges l_ u_ (dropOut steps s) := by
  unfold dropOut
  try dsimp only
  repeat' first | with_reducible assumption | with_reducible apply lostSave_only | with_reducible apply shutStep6_only | with_reducible apply lostState_only | with_reducible apply lostTail_only | with_reducible apply railsOff_only | with_reducible refine OnlyChanges.foldl ?_ (fun _ _ _ => ?_) | with_reducible apply OnlyChanges.ite | split | (with_reducible apply OnlyChanges.upd <;> first | exact fun q => absurd (by assumption) q | with_reducible exact fun _ => rfl | skip)
  all_goals first | exact fun _ => rfl | skip

theorem surgeEvent_only (on : Bool) (ms : Nat) {s : State} (kport : Part.port ∈ l_) (kstore : Part.store ∈ l_) (h_ : OnlyChanges l_ u_ s) : OnlyChanges l_ u_ (surgeEvent on ms s) := by
  unfold surgeEvent
  try dsimp only
  repeat' first | with_reducible assumption | with_reducible apply event_only | with_reducible refine OnlyChanges.foldl ?_ (fun _ _ _ => ?_) | with_reducible apply OnlyChanges.ite | split | (with_reducible apply OnlyChanges.upd <;> first | exact fun q => absurd (by assumption) q | with_reducible exact fun _ => rfl | skip)
  all_goals first | exact fun _ => rfl | skip

end Sys2Proof.Machine
end

