-- ==== Sys2Proof/Laws/OnlyFrame.lean ====
section
/-!
SUPPORT. The frames of the operations of Machine/Frame.lean (OnlyChanges, for every list that holds the parts they touch).
-/

namespace Sys2Proof.Machine

set_option linter.all false

open Sys2Proof.Safety

variable {l_ : List Part} {u_ : State}

theorem timeTick_only  {s : State} (kclock : Part.clock ∈ l_) (h_ : OnlyChanges l_ u_ s) : OnlyChanges l_ u_ (timeTick s) := by
  unfold timeTick
  try dsimp only
  repeat' first | with_reducible assumption | with_reducible refine OnlyChanges.foldl ?_ (fun _ _ _ => ?_) | with_reducible apply OnlyChanges.ite | split | (with_reducible apply OnlyChanges.upd <;> first | exact fun q => absurd (by assumption) q | with_reducible exact fun _ => rfl | skip)
  all_goals first | exact fun _ => rfl | skip

theorem siteTick_only (free : Bool) {s : State} (kclock : Part.clock ∈ l_) (ktrv : Part.trv ∈ l_) (h_ : OnlyChanges l_ u_ s) : OnlyChanges l_ u_ (siteTick free s) := by
  unfold siteTick
  try dsimp only
  repeat' first | with_reducible assumption | with_reducible refine OnlyChanges.foldl ?_ (fun _ _ _ => ?_) | with_reducible apply OnlyChanges.ite | split | (with_reducible apply OnlyChanges.upd <;> first | exact fun q => absurd (by assumption) q | with_reducible exact fun _ => rfl | skip)
  all_goals first | exact fun _ => rfl | skip

theorem slewTick_only  {s : State} (kclock : Part.clock ∈ l_) (ktrv : Part.trv ∈ l_) (h_ : OnlyChanges l_ u_ s) : OnlyChanges l_ u_ (slewTick s) := by
  unfold slewTick
  try dsimp only
  repeat' first | with_reducible assumption | with_reducible apply siteTick_only | with_reducible refine OnlyChanges.foldl ?_ (fun _ _ _ => ?_) | with_reducible apply OnlyChanges.ite | split | (with_reducible apply OnlyChanges.upd <;> first | exact fun q => absurd (by assumption) q | with_reducible exact fun _ => rfl | skip)
  all_goals first | exact fun _ => rfl | skip

theorem frameJobs_only (m : FrameIn) {s : State} (kclock : Part.clock ∈ l_) (krst : Part.rst ∈ l_) (kmodes : Part.modes ∈ l_) (kport : Part.port ∈ l_) (kfaults : Part.faults ∈ l_) (kease : Part.ease ∈ l_) (kfe : Part.fe ∈ l_) (kenergy : Part.energy ∈ l_) (kbilling : Part.billing ∈ l_) (klog : Part.log ∈ l_) (klink : Part.link ∈ l_) (ksw : Part.sw ∈ l_) (kloads : Part.loads ∈ l_) (ktrv : Part.trv ∈ l_) (krdr : Part.rdr ∈ l_) (ktag : Part.tag ∈ l_) (kdisp : Part.disp ∈ l_) (kchain : Part.chain ∈ l_) (kstore : Part.store ∈ l_) (h_ : OnlyChanges l_ u_ s) : OnlyChanges l_ u_ (frameJobs m s) := by
  unfold frameJobs
  try dsimp only
  repeat' first | with_reducible assumption | with_reducible apply evaluateLeave_only | with_reducible apply jobsFrameEnd_only | with_reducible apply switchFrame_only | with_reducible apply chainFrame_only | with_reducible apply energyFrame_only | with_reducible apply plumbFrame_only | with_reducible apply billingFrame_only | with_reducible apply loadsFrame_only | with_reducible apply linkFrame_only | with_reducible apply storageFrame_only | with_reducible apply displayFrame_only | with_reducible apply readerFrame_only | with_reducible apply forcedReset_only | with_reducible apply reportLost_only | with_reducible apply alignCheck_only | with_reducible refine OnlyChanges.foldl ?_ (fun _ _ _ => ?_) | with_reducible apply OnlyChanges.ite | split | (with_reducible apply OnlyChanges.upd <;> first | exact fun q => absurd (by assumption) q | with_reducible exact fun _ => rfl | skip)
  all_goals first | exact fun _ => rfl | skip

theorem dieTemp_only (t : Int) {s : State} (kpower : Part.power ∈ l_) (kport : Part.port ∈ l_) (kstore : Part.store ∈ l_) (h_ : OnlyChanges l_ u_ s) : OnlyChanges l_ u_ (dieTemp t s) := by
  unfold dieTemp
  try dsimp only
  repeat' first | with_reducible assumption | with_reducible apply updPower_only | with_reducible apply event_only | with_reducible refine OnlyChanges.foldl ?_ (fun _ _ _ => ?_) | with_reducible apply OnlyChanges.ite | split | (with_reducible apply OnlyChanges.upd <;> first | exact fun q => absurd (by assumption) q | with_reducible exact fun _ => rfl | skip)
  all_goals first | exact fun _ => rfl | skip

theorem loopRead_only (intact : Bool) {s : State} (kmodes : Part.modes ∈ l_) (kport : Part.port ∈ l_) (kenergy : Part.energy ∈ l_) (kbilling : Part.billing ∈ l_) (kseals : Part.seals ∈ l_) (klog : Part.log ∈ l_) (ktag : Part.tag ∈ l_) (kstore : Part.store ∈ l_) (h_ : OnlyChanges l_ u_ s) : OnlyChanges l_ u_ (loopRead intact s) := by
  unfold loopRead
  try dsimp only
  repeat' first | with_reducible assumption | with_reducible apply openSeal_only | with_reducible refine OnlyChanges.foldl ?_ (fun _ _ _ => ?_) | with_reducible apply OnlyChanges.ite | split | (with_reducible apply OnlyChanges.upd <;> first | exact fun q => absurd (by assumption) q | with_reducible exact fun _ => rfl | skip)
  all_goals first | exact fun _ => rfl | skip

theorem superJobs_only (m : SuperIn) {s : State} (kclock : Part.clock ∈ l_) (kpower : Part.power ∈ l_) (kmodes : Part.modes ∈ l_) (kport : Part.port ∈ l_) (kfaults : Part.faults ∈ l_) (kease : Part.ease ∈ l_) (kfe : Part.fe ∈ l_) (kenergy : Part.energy ∈ l_) (kbilling : Part.billing ∈ l_) (kseals : Part.seals ∈ l_) (klog : Part.log ∈ l_) (ktag : Part.tag ∈ l_) (kstore : Part.store ∈ l_) (h_ : OnlyChanges l_ u_ s) : OnlyChanges l_ u_ (superJobs m s) := by
  unfold superJobs
  try dsimp only
  repeat' first | with_reducible assumption | with_reducible apply updPower_only | with_reducible apply overRange_only | with_reducible apply loopRead_only | with_reducible apply dieTemp_only | with_reducible apply witnessSuper_only | with_reducible apply loadsSuper_only | with_reducible apply witnessSync_only | with_reducible refine OnlyChanges.foldl ?_ (fun _ _ _ => ?_) | with_reducible apply OnlyChanges.ite | split | (with_reducible apply OnlyChanges.upd <;> first | exact fun q => absurd (by assumption) q | with_reducible exact fun _ => rfl | skip)
  all_goals first | exact fun _ => rfl | skip

end Sys2Proof.Machine
end

