-- ==== Sys2Proof/Laws/OnlyObjectRead.lean ====
section
/-!
SUPPORT. The frames of the operations of Machine/ObjectRead.lean (OnlyChanges, for every list that holds the parts they touch).
-/

namespace Sys2Proof.Machine

set_option linter.all false

open Sys2Proof.Safety

variable {l_ : List Part} {u_ : State}

theorem objReadCmd_only (p : List Byte) {s : State}  (h_ : OnlyChanges l_ u_ s) : OnlyChanges l_ u_ (objReadCmd p s).run.st := by
  unfold objReadCmd
  try dsimp only
  repeat' first | with_reducible assumption | with_reducible refine OnlyChanges.foldl ?_ (fun _ _ _ => ?_) | with_reducible apply OnlyChanges.ite | split | (with_reducible apply OnlyChanges.upd <;> first | exact fun q => absurd (by assumption) q | with_reducible exact fun _ => rfl | skip)
  all_goals first | exact fun _ => rfl | skip

end Sys2Proof.Machine
end

