-- ==== Sys2Proof/Laws/OnlyObjectWrite.lean ====
section
/-!
SUPPORT. The frames of the operations of Machine/ObjectWrite.lean (OnlyChanges, for every list that holds the parts they touch).
-/

namespace Sys2Proof.Machine

set_option linter.all false

open Sys2Proof.Safety

variable {l_ : List Part} {u_ : State}

theorem splitWindow_only  {s : State} (kclock : Part.clock ∈ l_) (kport : Part.port ∈ l_) (kbilling : Part.billing ∈ l_) (klog : Part.log ∈ l_) (ktag : Part.tag ∈ l_) (kstore : Part.store ∈ l_) (h_ : OnlyChanges l_ u_ s) : OnlyChanges l_ u_ (splitWindow s) := by
  unfold splitWindow
  try dsimp only
  repeat' first | with_reducible assumption | with_reducible apply commits_only | with_reducible apply takeBoundary_only | with_reducible apply closeWindow_only | with_reducible refine OnlyChanges.foldl ?_ (fun _ _ _ => ?_) | with_reducible apply OnlyChanges.ite | split | (with_reducible apply OnlyChanges.upd <;> first | exact fun q => absurd (by assumption) q | with_reducible exact fun _ => rfl | skip)
  all_goals first | exact fun _ => rfl | skip

theorem lineWritten_only (seq : Byte) (new : Nat) {s : State} (kport : Part.port ∈ l_) (h_ : OnlyChanges l_ u_ s) : OnlyChanges l_ u_ (lineWritten seq new s) := by
  unfold lineWritten
  try dsimp only
  repeat' first | with_reducible assumption | with_reducible refine OnlyChanges.foldl ?_ (fun _ _ _ => ?_) | with_reducible apply OnlyChanges.ite | split | (with_reducible apply OnlyChanges.upd <;> first | exact fun q => absurd (by assumption) q | with_reducible exact fun _ => rfl | skip)
  all_goals first | exact fun _ => rfl | skip

theorem provoke_only  {s : State} (kmodes : Part.modes ∈ l_) (kport : Part.port ∈ l_) (kenergy : Part.energy ∈ l_) (kbilling : Part.billing ∈ l_) (klog : Part.log ∈ l_) (ksw : Part.sw ∈ l_) (ktag : Part.tag ∈ l_) (kstore : Part.store ∈ l_) (h_ : OnlyChanges l_ u_ s) : OnlyChanges l_ u_ (provoke s) := by
  unfold provoke
  try dsimp only
  repeat' first | with_reducible assumption | with_reducible apply enterMode_only | with_reducible refine OnlyChanges.foldl ?_ (fun _ _ _ => ?_) | with_reducible apply OnlyChanges.ite | split | (with_reducible apply OnlyChanges.upd <;> first | exact fun q => absurd (by assumption) q | with_reducible exact fun _ => rfl | skip)
  all_goals first | exact fun _ => rfl | skip

theorem Cfg.atOnce_only (c : Cfg) (i : Nat) (seq : Byte) (mask new : Nat) {s : State} (k_ : ∀ p, p ∈ cfgParts c → p ∈ l_) (h_ : OnlyChanges l_ u_ s) :
    OnlyChanges l_ u_ (c.atOnce i seq mask new s) := by
  cases c <;> unfold Cfg.atOnce <;> dsimp only
  case tariff =>
    with_reducible apply OnlyChanges.upd h_
    all_goals first | exact fun _ => rfl | exact fun q => absurd (k_ _ (by decide)) q
  all_goals repeat' first | with_reducible exact h_ | split | with_reducible apply lineWritten_only | with_reducible apply splitWindow_only | with_reducible apply updPls_only | with_reducible apply provoke_only
  all_goals exact k_ _ (by decide)

theorem enabledAgain_only (i old new : Nat) {s : State} (kfe : Part.fe ∈ l_) (h_ : OnlyChanges l_ u_ s) : OnlyChanges l_ u_ (enabledAgain i old new s) := by
  unfold enabledAgain
  try dsimp only
  repeat' first | with_reducible assumption | with_reducible apply updIn'_only | with_reducible refine OnlyChanges.foldl ?_ (fun _ _ _ => ?_) | with_reducible apply OnlyChanges.ite | split | (with_reducible apply OnlyChanges.upd <;> first | exact fun q => absurd (by assumption) q | with_reducible exact fun _ => rfl | skip)
  all_goals first | exact fun _ => rfl | skip

theorem toneEnabled_only (i old new : Nat) {s : State} (kfe : Part.fe ∈ l_) (h_ : OnlyChanges l_ u_ s) : OnlyChanges l_ u_ (toneEnabled i old new s) := by
  unfold toneEnabled
  try dsimp only
  repeat' first | with_reducible assumption | with_reducible apply updTone_only | with_reducible refine OnlyChanges.foldl ?_ (fun _ _ _ => ?_) | with_reducible apply OnlyChanges.ite | split | (with_reducible apply OnlyChanges.upd <;> first | exact fun q => absurd (by assumption) q | with_reducible exact fun _ => rfl | skip)
  all_goals first | exact fun _ => rfl | skip

theorem Cfg.after_only (c : Cfg) (i old mask new : Nat) {s : State} (kmodes : Part.modes ∈ l_) (kport : Part.port ∈ l_) (kease : Part.ease ∈ l_) (kfe : Part.fe ∈ l_) (kenergy : Part.energy ∈ l_) (kbilling : Part.billing ∈ l_) (klog : Part.log ∈ l_) (klink : Part.link ∈ l_) (ksw : Part.sw ∈ l_) (kloads : Part.loads ∈ l_) (ktrv : Part.trv ∈ l_) (krdr : Part.rdr ∈ l_) (ktag : Part.tag ∈ l_) (kdisp : Part.disp ∈ l_) (kstore : Part.store ∈ l_) (h_ : OnlyChanges l_ u_ s) : OnlyChanges l_ u_ (Cfg.after c i old mask new s) := by
  unfold Cfg.after
  try dsimp only
  repeat' first | with_reducible assumption | with_reducible apply replaceAll_only | with_reducible apply enabledAgain_only | with_reducible apply toneEnabled_only | with_reducible apply trvRestart_only | with_reducible apply provoke_only | with_reducible refine OnlyChanges.foldl ?_ (fun _ _ _ => ?_) | with_reducible apply OnlyChanges.ite | split | (with_reducible apply OnlyChanges.upd <;> first | exact fun q => absurd (by assumption) q | with_reducible exact fun _ => rfl | skip)
  all_goals first | exact fun _ => rfl | skip

theorem Due.take_only (d : Due) {s : State} (kmodes : Part.modes ∈ l_) (kport : Part.port ∈ l_) (kease : Part.ease ∈ l_) (kfe : Part.fe ∈ l_) (kenergy : Part.energy ∈ l_) (kbilling : Part.billing ∈ l_) (kseals : Part.seals ∈ l_) (klog : Part.log ∈ l_) (klink : Part.link ∈ l_) (ksw : Part.sw ∈ l_) (kloads : Part.loads ∈ l_) (ktrv : Part.trv ∈ l_) (krdr : Part.rdr ∈ l_) (ktag : Part.tag ∈ l_) (kdisp : Part.disp ∈ l_) (kstore : Part.store ∈ l_) (h_ : OnlyChanges l_ u_ s) : OnlyChanges l_ u_ (Due.take d s) := by
  unfold Due.take
  try dsimp only
  repeat' first | with_reducible assumption | with_reducible apply Cfg.after_only | with_reducible apply Cfg.put_only | with_reducible apply Due.put_only | with_reducible refine OnlyChanges.foldl ?_ (fun _ _ _ => ?_) | with_reducible apply OnlyChanges.ite | split | (with_reducible apply OnlyChanges.upd <;> first | exact fun q => absurd (by assumption) q | with_reducible exact fun _ => rfl | skip)
  all_goals first | exact fun _ => rfl | skip

theorem takeDue_only  {s : State} (kmodes : Part.modes ∈ l_) (kport : Part.port ∈ l_) (kease : Part.ease ∈ l_) (kfe : Part.fe ∈ l_) (kenergy : Part.energy ∈ l_) (kbilling : Part.billing ∈ l_) (kseals : Part.seals ∈ l_) (klog : Part.log ∈ l_) (klink : Part.link ∈ l_) (ksw : Part.sw ∈ l_) (kloads : Part.loads ∈ l_) (ktrv : Part.trv ∈ l_) (krdr : Part.rdr ∈ l_) (ktag : Part.tag ∈ l_) (kdisp : Part.disp ∈ l_) (kstore : Part.store ∈ l_) (h_ : OnlyChanges l_ u_ s) : OnlyChanges l_ u_ (takeDue s) := by
  unfold takeDue
  try dsimp only
  repeat' first | with_reducible assumption | with_reducible apply appRetire_only | with_reducible apply Due.take_only | with_reducible refine OnlyChanges.foldl ?_ (fun _ _ _ => ?_) | with_reducible apply OnlyChanges.ite | split | (with_reducible apply OnlyChanges.upd <;> first | exact fun q => absurd (by assumption) q | with_reducible exact fun _ => rfl | skip)
  all_goals first | exact fun _ => rfl | skip

theorem Cfg.keep_only (c : Cfg) (i : Nat) (seq : Byte) (data mask : Nat) {s : State} (k_ : ∀ p, p ∈ cfgParts c → p ∈ l_) (h_ : OnlyChanges l_ u_ s) :
    OnlyChanges l_ u_ (c.keep i seq data mask s) := by
  have kport : Part.port ∈ l_ := k_ _ (by cases c <;> decide)
  have kstore : Part.store ∈ l_ := k_ _ (by cases c <;> decide)
  unfold Cfg.keep
  dsimp only
  refine journalApp_only _ _ _ kstore ?_
  with_reducible apply OnlyChanges.upd (Cfg.atOnce_only c _ _ _ _ k_ h_)
  all_goals first | exact fun _ => rfl | exact fun q => absurd kport q

/-- Only these objects have SEAL fields. -/
theorem touchesSeal_parts (c : Cfg) (i mask : Nat) (h : touchesSeal (c.fields i) mask = true) :
    ∀ p, p ∈ [Part.port, .seals, .log, .tag, .store] → p ∈ cfgParts c := by
  cases c <;> first | decide | (refine absurd h ?_; simp [touchesSeal, Cfg.fields, rw, rwIn, ex, exIn]; done) | (refine absurd h ?_; simp [touchesSeal, Cfg.fields, rw, rwIn, ex, exIn]; split <;> simp)

theorem Cfg.write_only (c : Cfg) (i : Nat) (seq : Byte) (data mask : Nat) {s : State} (k_ : ∀ p, p ∈ cfgParts c → p ∈ l_) (h_ : OnlyChanges l_ u_ s) :
    OnlyChanges l_ u_ (c.write i seq data mask s) := by
  unfold Cfg.write
  dsimp only
  split
  next q =>
    have m := touchesSeal_parts c i mask q
    apply signParameter_only
    all_goals first | exact k_ _ (m _ (by decide)) | skip
    exact metHashed_only (k_ _ (m _ (by decide))) (Cfg.keep_only c i seq data mask k_ h_)
  next => exact Cfg.keep_only c i seq data mask k_ h_

theorem Cfg.cmd_only (c : Cfg) (h : Hdr) (i : Nat) (data mask : List Byte) {s : State} (k_ : ∀ p, p ∈ cfgParts c → p ∈ l_) (h_ : OnlyChanges l_ u_ s) :
    OnlyChanges l_ u_ (c.cmd h i data mask s).run.st := Cfg.write_only c i h.seq _ _ k_ h_

theorem objWriteCmd_only (h : Hdr) (p : List Byte) {s : State} (k_ : ∀ q, q ∈ writeParts p → q ∈ l_) (h_ : OnlyChanges l_ u_ s) :
    OnlyChanges l_ u_ (objWriteCmd h p s).run.st := by
  unfold objWriteCmd
  unfold writeParts at k_
  cases e : Cfg.ofNumber (numAt p 0 2) with
  | none => exact h_
  | some c =>
    rw [e] at k_
    dsimp only
    split
    · exact Cfg.cmd_only c _ _ _ _ k_ h_
    · exact h_

theorem objWrite_only (h : Hdr) (p : List Byte) {s : State} (w_ : ¬ isAck h.flags = true) (kport : Part.port ∈ l_) (kroles : Part.roles ∈ l_)
    (k_ : ∀ q, q ∈ writeParts p → q ∈ l_) (h_ : OnlyChanges l_ u_ s) : OnlyChanges l_ u_ (objWrite h p s) :=
  hostCommand_only _ _ _ w_ kport kroles h_ (fun _ w => objWriteCmd_only h p k_ w)

theorem writeParts_of (c : Cfg) (i : Nat) (data mask : List Byte) : writeParts (writePayload c.number i data mask) = cfgParts c := by
  have e1 : numAt (writePayload c.number i data mask) 0 2 = c.number := by
    unfold writePayload
    rw [List.append_assoc, List.append_assoc]
    exact numAt_le 2 _ _ (by cases c <;> decide)
  unfold writeParts
  rw [e1]
  cases c <;> rfl

theorem writeEntry_only (c : Cfg) (h : Hdr) (i : Nat) (data mask : List Byte) {s : State} (w_ : ¬ isAck h.flags = true)
    (kport : Part.port ∈ l_) (kroles : Part.roles ∈ l_)
    (k_ : ∀ q, q ∈ cfgParts c → q ∈ l_) (h_ : OnlyChanges l_ u_ s) : OnlyChanges l_ u_ (writeEntry c h i data mask s) :=
  objWrite_only _ _ w_ kport kroles (by rw [writeParts_of]; exact k_) h_

end Sys2Proof.Machine
end

