-- ==== Sys2Proof/Laws/OnlyRoles.lean ====
section
/-!
SUPPORT. The frames of the operations of Machine/Roles.lean (OnlyChanges, for every list that holds the parts they touch).
-/

namespace Sys2Proof.Machine

set_option linter.all false

open Sys2Proof.Safety

variable {l_ : List Part} {u_ : State}

theorem updRoles_only (f : RoleSt → RoleSt) {s : State} (kroles : Part.roles ∈ l_) (h_ : OnlyChanges l_ u_ s) : OnlyChanges l_ u_ (updRoles f s) := by
  unfold updRoles
  try dsimp only
  repeat' first | with_reducible assumption | with_reducible refine OnlyChanges.foldl ?_ (fun _ _ _ => ?_) | with_reducible apply OnlyChanges.ite | split | (with_reducible apply OnlyChanges.upd <;> first | exact fun q => absurd (by assumption) q | with_reducible exact fun _ => rfl | skip)
  all_goals first | exact fun _ => rfl | skip

theorem roleEnded_only (reason : Nat) {s : State} (kport : Part.port ∈ l_) (kstore : Part.store ∈ l_) (h_ : OnlyChanges l_ u_ s) : OnlyChanges l_ u_ (roleEnded reason s) := by
  unfold roleEnded
  try dsimp only
  repeat' first | with_reducible assumption | with_reducible apply event_only | with_reducible refine OnlyChanges.foldl ?_ (fun _ _ _ => ?_) | with_reducible apply OnlyChanges.ite | split | (with_reducible apply OnlyChanges.upd <;> first | exact fun q => absurd (by assumption) q | with_reducible exact fun _ => rfl | skip)
  all_goals first | exact fun _ => rfl | skip

theorem roleChallengeCmd_only (p : List Byte) {s : State} (kfactory : Part.factory ∈ l_) (kroles : Part.roles ∈ l_) (h_ : OnlyChanges l_ u_ s) : OnlyChanges l_ u_ (roleChallengeCmd p s).run.st := by
  unfold roleChallengeCmd
  try dsimp only
  repeat' first | with_reducible assumption | with_reducible apply updRoles_only | with_reducible apply State.drawFree_only | with_reducible refine OnlyChanges.foldl ?_ (fun _ _ _ => ?_) | with_reducible apply OnlyChanges.ite | split | (with_reducible apply OnlyChanges.upd <;> first | exact fun q => absurd (by assumption) q | with_reducible exact fun _ => rfl | skip)
  all_goals first | exact fun _ => rfl | skip

theorem roleFailed_only (r : Nat) {s : State} (kport : Part.port ∈ l_) (kroles : Part.roles ∈ l_) (kstore : Part.store ∈ l_) (h_ : OnlyChanges l_ u_ s) : OnlyChanges l_ u_ (roleFailed r s) := by
  unfold roleFailed
  try dsimp only
  repeat' first | with_reducible assumption | with_reducible apply event_only | with_reducible apply updRoles_only | with_reducible refine OnlyChanges.foldl ?_ (fun _ _ _ => ?_) | with_reducible apply OnlyChanges.ite | split | (with_reducible apply OnlyChanges.upd <;> first | exact fun q => absurd (by assumption) q | with_reducible exact fun _ => rfl | skip)
  all_goals first | exact fun _ => rfl | skip

theorem roleOpened_only (r : Nat) {s : State} (kport : Part.port ∈ l_) (kroles : Part.roles ∈ l_) (kstore : Part.store ∈ l_) (h_ : OnlyChanges l_ u_ s) : OnlyChanges l_ u_ (roleOpened r s) := by
  unfold roleOpened
  try dsimp only
  repeat' first | with_reducible assumption | with_reducible apply updRoles_only | with_reducible apply roleEnded_only | with_reducible refine OnlyChanges.foldl ?_ (fun _ _ _ => ?_) | with_reducible apply OnlyChanges.ite | split | (with_reducible apply OnlyChanges.upd <;> first | exact fun q => absurd (by assumption) q | with_reducible exact fun _ => rfl | skip)
  all_goals first | exact fun _ => rfl | skip

theorem roleOpenCmd_only (p : List Byte) {s : State} (kport : Part.port ∈ l_) (kroles : Part.roles ∈ l_) (kstore : Part.store ∈ l_) (h_ : OnlyChanges l_ u_ s) : OnlyChanges l_ u_ (roleOpenCmd p s).run.st := by
  unfold roleOpenCmd
  try dsimp only
  repeat' first | with_reducible assumption | with_reducible apply roleOpened_only | with_reducible apply roleFailed_only | with_reducible refine OnlyChanges.foldl ?_ (fun _ _ _ => ?_) | with_reducible apply OnlyChanges.ite | split | (with_reducible apply OnlyChanges.upd <;> first | exact fun q => absurd (by assumption) q | with_reducible exact fun _ => rfl | skip)
  all_goals first | exact fun _ => rfl | skip

theorem roleCloseCmd_only (p : List Byte) {s : State} (kport : Part.port ∈ l_) (kroles : Part.roles ∈ l_) (kstore : Part.store ∈ l_) (h_ : OnlyChanges l_ u_ s) : OnlyChanges l_ u_ (roleCloseCmd p s).run.st := by
  unfold roleCloseCmd
  try dsimp only
  repeat' first | with_reducible assumption | with_reducible apply roleEnded_only | with_reducible apply updRoles_only | with_reducible refine OnlyChanges.foldl ?_ (fun _ _ _ => ?_) | with_reducible apply OnlyChanges.ite | split | (with_reducible apply OnlyChanges.upd <;> first | exact fun q => absurd (by assumption) q | with_reducible exact fun _ => rfl | skip)
  all_goals first | exact fun _ => rfl | skip

theorem roleKeySetCmd_only (p : List Byte) {s : State} (kroles : Part.roles ∈ l_) (h_ : OnlyChanges l_ u_ s) : OnlyChanges l_ u_ (roleKeySetCmd p s).run.st := by
  unfold roleKeySetCmd
  try dsimp only
  repeat' first | with_reducible assumption | with_reducible apply updRoles_only | with_reducible refine OnlyChanges.foldl ?_ (fun _ _ _ => ?_) | with_reducible apply OnlyChanges.ite | split | (with_reducible apply OnlyChanges.upd <;> first | exact fun q => absurd (by assumption) q | with_reducible exact fun _ => rfl | skip)
  all_goals first | exact fun _ => rfl | skip

end Sys2Proof.Machine
end

