-- ==== Sys2Proof/Laws/OnlyExec.lean ====
section
/-!
SUPPORT. The frame of the meaning of each command.
-/

namespace Sys2Proof.Machine

set_option linter.all false

open Sys2Proof.Safety

theorem execNop_only (h : Hdr) (p : List Byte) {s t_ : State} (e_ : execNop h p s = .next t_) : OnlyChanges (taken h ([.port, .roles])) s t_ := by
  unfold taken
  split
  next w_ =>
    unfold execNop at e_
    injection e_ with e_
    subst e_
    exact hostCommand_ack _ _ _ _ w_ (by decide) (by decide) (by decide) (OnlyChanges.refl _ _)
  rename_i w_
  refine OnlyEnds.elim ?_ e_
  clear e_
  unfold execNop
  try dsimp only
  repeat' first | with_reducible exact OnlyChanges.refl _ _ | with_reducible assumption | with_reducible apply OnlyEnds.next | with_reducible apply OnlyEnds.ite | with_reducible refine hostCommand_only _ _ _ w_ ?_ ?_ ?_ (fun _ _ => ?_) | with_reducible refine OnlyChanges.foldl ?_ (fun _ _ _ => ?_) | with_reducible apply OnlyChanges.ite | split | (with_reducible apply OnlyChanges.upd <;> first | with_reducible exact fun _ => rfl | exact fun q => absurd (by decide) q | skip)
  all_goals decide

theorem execUnknownOpcodeCommand_only (h : Hdr) (opcode : Nat) (p : List Byte) {s t_ : State}
    (e_ : execUnknownOpcodeCommand h opcode p s = .next t_) : OnlyChanges (taken h [.port, .roles]) s t_ := by
  refine OnlyEnds.elim ?_ e_
  clear e_
  unfold execUnknownOpcodeCommand taken
  split
  next w_ =>
    repeat' first | exact OnlyChanges.refl _ _ | with_reducible apply OnlyEnds.next | with_reducible apply OnlyEnds.ite | with_reducible apply unheard_only | with_reducible apply codeShifted_only | with_reducible refine ackTaken_only _ _ _ _ ?_ ?_ ?_ ?_
    all_goals decide
  next w_ =>
    repeat' first | exact OnlyChanges.refl _ _ | with_reducible apply OnlyEnds.next | with_reducible apply OnlyEnds.ite | with_reducible apply unheard_only | with_reducible apply codeShifted_only | with_reducible refine unknownTaken_only _ _ _ ?_ ?_ ?_
    all_goals decide

theorem execEventAcknowledgement_only (seq flags : Byte) (code len : Nat) {s t_ : State} (e_ : execEventAcknowledgement seq flags code len s = .next t_) : OnlyChanges ([.port, .faults, .store]) s t_ := by
  refine OnlyEnds.elim ?_ e_
  clear e_
  unfold execEventAcknowledgement
  try dsimp only
  repeat' first | with_reducible exact OnlyChanges.refl _ _ | with_reducible assumption | with_reducible apply OnlyEnds.next | with_reducible apply OnlyEnds.ite | with_reducible apply unheard_only | with_reducible apply codeShifted_only | with_reducible apply ackTaken_only | with_reducible refine OnlyChanges.foldl ?_ (fun _ _ _ => ?_) | with_reducible apply OnlyChanges.ite | split | (with_reducible apply OnlyChanges.upd <;> first | with_reducible exact fun _ => rfl | exact fun q => absurd (by decide) q | skip)
  all_goals decide

theorem execCrcErrorPacket_only (seq : Byte) {s t_ : State} (e_ : execCrcErrorPacket seq s = .next t_) : OnlyChanges ([.port]) s t_ := by
  refine OnlyEnds.elim ?_ e_
  clear e_
  unfold execCrcErrorPacket
  try dsimp only
  repeat' first | with_reducible exact OnlyChanges.refl _ _ | with_reducible assumption | with_reducible apply OnlyEnds.next | with_reducible apply OnlyEnds.ite | with_reducible apply unheard_only | with_reducible apply codeShifted_only | with_reducible apply crcErrorTaken_only | with_reducible refine OnlyChanges.foldl ?_ (fun _ _ _ => ?_) | with_reducible apply OnlyChanges.ite | split | (with_reducible apply OnlyChanges.upd <;> first | with_reducible exact fun _ => rfl | exact fun q => absurd (by decide) q | skip)
  all_goals decide

theorem execWriteOverrun_only (sync : Byte) (len received : Nat) {s t_ : State} (e_ : execWriteOverrun sync len received s = .next t_) : OnlyChanges ([.port]) s t_ := by
  refine OnlyEnds.elim ?_ e_
  clear e_
  unfold execWriteOverrun
  try dsimp only
  repeat' first | with_reducible exact OnlyChanges.refl _ _ | with_reducible assumption | with_reducible apply OnlyEnds.next | with_reducible apply OnlyEnds.ite | with_reducible apply unheard_only | with_reducible apply codeShifted_only | with_reducible apply writeDiscarded_only | with_reducible refine OnlyChanges.foldl ?_ (fun _ _ _ => ?_) | with_reducible apply OnlyChanges.ite | split | (with_reducible apply OnlyChanges.upd <;> first | with_reducible exact fun _ => rfl | exact fun q => absurd (by decide) q | skip)
  all_goals decide

theorem execSpiRead_only (clocked : Nat) {s t_ : State} (e_ : execSpiRead clocked s = .next t_) : OnlyChanges ([.rst, .port, .store]) s t_ := by
  refine OnlyEnds.elim ?_ e_
  clear e_
  unfold execSpiRead
  try dsimp only
  repeat' first | with_reducible exact OnlyChanges.refl _ _ | with_reducible assumption | with_reducible apply OnlyEnds.next | with_reducible apply OnlyEnds.ite | with_reducible apply spiShown_only | with_reducible apply delivered_only | with_reducible refine OnlyChanges.foldl ?_ (fun _ _ _ => ?_) | with_reducible apply OnlyChanges.ite | split | (with_reducible apply OnlyChanges.upd <;> first | with_reducible exact fun _ => rfl | exact fun q => absurd (by decide) q | skip)
  all_goals decide

theorem execSpiStatus_only  {s t_ : State} (e_ : execSpiStatus s = .next t_) : OnlyChanges ([.port]) s t_ := by
  refine OnlyEnds.elim ?_ e_
  clear e_
  unfold execSpiStatus
  try dsimp only
  repeat' first | with_reducible exact OnlyChanges.refl _ _ | with_reducible assumption | with_reducible apply OnlyEnds.next | with_reducible apply OnlyEnds.ite | with_reducible apply spiShown_only | with_reducible refine OnlyChanges.foldl ?_ (fun _ _ _ => ?_) | with_reducible apply OnlyChanges.ite | split | (with_reducible apply OnlyChanges.upd <;> first | with_reducible exact fun _ => rfl | exact fun q => absurd (by decide) q | skip)
  all_goals decide

theorem execUartGapDiscard_only (bytes : List Byte) {s t_ : State} (e_ : execUartGapDiscard bytes s = .next t_) : OnlyChanges ([.port]) s t_ := by
  refine OnlyEnds.elim ?_ e_
  clear e_
  unfold execUartGapDiscard
  try dsimp only
  repeat' first | with_reducible exact OnlyChanges.refl _ _ | with_reducible assumption | with_reducible apply OnlyEnds.next | with_reducible apply OnlyEnds.ite | with_reducible refine OnlyChanges.foldl ?_ (fun _ _ _ => ?_) | with_reducible apply OnlyChanges.ite | split | (with_reducible apply OnlyChanges.upd <;> first | with_reducible exact fun _ => rfl | exact fun q => absurd (by decide) q | skip)
  all_goals decide

theorem execEventResend_only (seq : Byte) {s t_ : State} (e_ : execEventResend seq s = .next t_) : OnlyChanges ([.port]) s t_ := by
  refine OnlyEnds.elim ?_ e_
  clear e_
  unfold execEventResend
  try dsimp only
  repeat' first | with_reducible exact OnlyChanges.refl _ _ | with_reducible assumption | with_reducible apply OnlyEnds.next | with_reducible apply OnlyEnds.ite | with_reducible refine OnlyChanges.foldl ?_ (fun _ _ _ => ?_) | with_reducible apply OnlyChanges.ite | split | (with_reducible apply OnlyChanges.upd <;> first | with_reducible exact fun _ => rfl | exact fun q => absurd (by decide) q | skip)
  all_goals decide

theorem execUartPacketSend_only (hcsLow : Bool) {s t_ : State} (e_ : execUartPacketSend hcsLow s = .next t_) : OnlyChanges ([.rst, .port, .store]) s t_ := by
  refine OnlyEnds.elim ?_ e_
  clear e_
  unfold execUartPacketSend
  try dsimp only
  repeat' first | with_reducible exact OnlyChanges.refl _ _ | with_reducible assumption | with_reducible apply OnlyEnds.next | with_reducible apply OnlyEnds.ite | with_reducible apply delivered_only | with_reducible refine OnlyChanges.foldl ?_ (fun _ _ _ => ?_) | with_reducible apply OnlyChanges.ite | split | (with_reducible apply OnlyChanges.upd <;> first | with_reducible exact fun _ => rfl | exact fun q => absurd (by decide) q | skip)
  all_goals decide

theorem execRegionMergeWindowClose_only (region : Nat) (cls : Byte) (key : Nat) {s t_ : State} (e_ : execRegionMergeWindowClose region cls key s = .next t_) : OnlyChanges ([.faults]) s t_ := by
  refine OnlyEnds.elim ?_ e_
  clear e_
  unfold execRegionMergeWindowClose
  try dsimp only
  repeat' first | with_reducible exact OnlyChanges.refl _ _ | with_reducible assumption | with_reducible apply OnlyEnds.next | with_reducible apply OnlyEnds.ite | with_reducible refine OnlyChanges.foldl ?_ (fun _ _ _ => ?_) | with_reducible apply OnlyChanges.ite | split | (with_reducible apply OnlyChanges.upd <;> first | with_reducible exact fun _ => rfl | exact fun q => absurd (by decide) q | skip)
  all_goals decide

theorem execChipWindowClose_only (cls : Byte) (key : Nat) {s t_ : State} (e_ : execChipWindowClose cls key s = .next t_) : OnlyChanges ([.port, .faults, .store]) s t_ := by
  refine OnlyEnds.elim ?_ e_
  clear e_
  unfold execChipWindowClose
  try dsimp only
  repeat' first | with_reducible exact OnlyChanges.refl _ _ | with_reducible assumption | with_reducible apply OnlyEnds.next | with_reducible apply OnlyEnds.ite | with_reducible apply closeChip_only | with_reducible refine OnlyChanges.foldl ?_ (fun _ _ _ => ?_) | with_reducible apply OnlyChanges.ite | split | (with_reducible apply OnlyChanges.upd <;> first | with_reducible exact fun _ => rfl | exact fun q => absurd (by decide) q | skip)
  all_goals decide

theorem execClosureOpenEnd_only (id : Nat) {s t_ : State} (e_ : execClosureOpenEnd id s = .next t_) : OnlyChanges ([.faults]) s t_ := by
  refine OnlyEnds.elim ?_ e_
  clear e_
  unfold execClosureOpenEnd
  try dsimp only
  repeat' first | with_reducible exact OnlyChanges.refl _ _ | with_reducible assumption | with_reducible apply OnlyEnds.next | with_reducible apply OnlyEnds.ite | with_reducible refine OnlyChanges.foldl ?_ (fun _ _ _ => ?_) | with_reducible apply OnlyChanges.ite | split | (with_reducible apply OnlyChanges.upd <;> first | with_reducible exact fun _ => rfl | exact fun q => absurd (by decide) q | skip)
  all_goals decide

theorem execCableCheckReq_only (outlet maxV : Nat) {s t_ : State} (e_ : execCableCheckReq outlet maxV s = .next t_) : OnlyChanges ([.port, .ease, .billing, .link, .sw, .store]) s t_ := by
  refine OnlyEnds.elim ?_ e_
  clear e_
  unfold execCableCheckReq
  try dsimp only
  repeat' first | with_reducible exact OnlyChanges.refl _ _ | with_reducible assumption | with_reducible apply OnlyEnds.next | with_reducible apply OnlyEnds.ite | with_reducible apply tell_only | with_reducible apply setOwner_only | with_reducible apply updSq_only | with_reducible apply seqTo_only | with_reducible apply requestPullIn_only | with_reducible apply failSequence_only | with_reducible apply endAfterStop_only | with_reducible refine OnlyChanges.foldl ?_ (fun _ _ _ => ?_) | with_reducible apply OnlyChanges.ite | split | (with_reducible apply OnlyChanges.upd <;> first | with_reducible exact fun _ => rfl | exact fun q => absurd (by decide) q | skip)
  all_goals decide

theorem execPrechargeReq_only (outlet target : Nat) {s t_ : State} (e_ : execPrechargeReq outlet target s = .next t_) : OnlyChanges ([.port, .link, .sw, .store]) s t_ := by
  refine OnlyEnds.elim ?_ e_
  clear e_
  unfold execPrechargeReq
  try dsimp only
  repeat' first | with_reducible exact OnlyChanges.refl _ _ | with_reducible assumption | with_reducible apply OnlyEnds.next | with_reducible apply OnlyEnds.ite | with_reducible apply tell_only | with_reducible apply seqTo_only | with_reducible apply updSq_only | with_reducible refine OnlyChanges.foldl ?_ (fun _ _ _ => ?_) | with_reducible apply OnlyChanges.ite | split | (with_reducible apply OnlyChanges.upd <;> first | with_reducible exact fun _ => rfl | exact fun q => absurd (by decide) q | skip)
  all_goals decide

theorem execPowerDeliveryReq_only (outlet : Nat) (start : Bool) {s t_ : State} (e_ : execPowerDeliveryReq outlet start s = .next t_) : OnlyChanges ([.port, .ease, .billing, .link, .sw, .store]) s t_ := by
  refine OnlyEnds.elim ?_ e_
  clear e_
  unfold execPowerDeliveryReq
  try dsimp only
  repeat' first | with_reducible exact OnlyChanges.refl _ _ | with_reducible assumption | with_reducible apply OnlyEnds.next | with_reducible apply OnlyEnds.ite | with_reducible apply tell_only | with_reducible apply seqTo_only | with_reducible apply safeRampStop_only | with_reducible apply endAfterStop_only | with_reducible refine OnlyChanges.foldl ?_ (fun _ _ _ => ?_) | with_reducible apply OnlyChanges.ite | split | (with_reducible apply OnlyChanges.upd <;> first | with_reducible exact fun _ => rfl | exact fun q => absurd (by decide) q | skip)
  all_goals decide

theorem execCurrentDemandReq_only (outlet : Nat) (amps10 : Int) {s t_ : State} (e_ : execCurrentDemandReq outlet amps10 s = .next t_) : OnlyChanges ([.link, .sw]) s t_ := by
  refine OnlyEnds.elim ?_ e_
  clear e_
  unfold execCurrentDemandReq
  try dsimp only
  repeat' first | with_reducible exact OnlyChanges.refl _ _ | with_reducible assumption | with_reducible apply OnlyEnds.next | with_reducible apply OnlyEnds.ite | with_reducible apply tell_only | with_reducible apply updSq_only | with_reducible refine OnlyChanges.foldl ?_ (fun _ _ _ => ?_) | with_reducible apply OnlyChanges.ite | split | (with_reducible apply OnlyChanges.upd <;> first | with_reducible exact fun _ => rfl | exact fun q => absurd (by decide) q | skip)
  all_goals decide

theorem execPullInEnd_only (driver : Nat) {s t_ : State} (e_ : execPullInEnd driver s = .next t_) : OnlyChanges ([.ease, .sw]) s t_ := by
  refine OnlyEnds.elim ?_ e_
  clear e_
  unfold execPullInEnd
  try dsimp only
  repeat' first | with_reducible exact OnlyChanges.refl _ _ | with_reducible assumption | with_reducible apply OnlyEnds.next | with_reducible apply OnlyEnds.ite | with_reducible apply updDrv_only | with_reducible apply leavePeak_only | with_reducible refine OnlyChanges.foldl ?_ (fun _ _ _ => ?_) | with_reducible apply OnlyChanges.ite | split | (with_reducible apply OnlyChanges.upd <;> first | with_reducible exact fun _ => rfl | exact fun q => absurd (by decide) q | skip)
  all_goals decide

theorem execMirrorConfirmed_only (driver : Nat) (readsOn : Bool) {s t_ : State} (e_ : execMirrorConfirmed driver readsOn s = .next t_) : OnlyChanges ([.port, .ease, .billing, .link, .sw, .store]) s t_ := by
  refine OnlyEnds.elim ?_ e_
  clear e_
  unfold execMirrorConfirmed
  try dsimp only
  repeat' first | with_reducible exact OnlyChanges.refl _ _ | with_reducible assumption | with_reducible apply OnlyEnds.next | with_reducible apply OnlyEnds.ite | with_reducible apply updDrv_only | with_reducible apply givePermits_only | with_reducible apply seqTo_only | with_reducible apply pairOpened_only | with_reducible apply joinConfirmed_only | with_reducible apply releaseConfirmed_only | with_reducible apply weldDone_only | with_reducible refine OnlyChanges.foldl ?_ (fun _ _ _ => ?_) | with_reducible apply OnlyChanges.ite | split | (with_reducible apply OnlyChanges.upd <;> first | with_reducible exact fun _ => rfl | exact fun q => absurd (by decide) q | skip)
  all_goals decide

theorem execFeedbackTimeout_only (driver cycle : Nat) {s t_ : State} (e_ : execFeedbackTimeout driver cycle s = .next t_) : OnlyChanges ([.port, .faults, .ease, .billing, .link, .sw, .store]) s t_ := by
  refine OnlyEnds.elim ?_ e_
  clear e_
  unfold execFeedbackTimeout
  try dsimp only
  repeat' first | with_reducible exact OnlyChanges.refl _ _ | with_reducible assumption | with_reducible apply OnlyEnds.next | with_reducible apply OnlyEnds.ite | with_reducible apply feedbackReport_only | with_reducible apply updDrv_only | with_reducible apply event_only | with_reducible apply seqTo_only | with_reducible apply lockOutlet_only | with_reducible apply matrixWelded_only | with_reducible apply driverOff_only | with_reducible apply failSequence_only | with_reducible apply endAfterStop_only | with_reducible apply endJob_only | with_reducible refine OnlyChanges.foldl ?_ (fun _ _ _ => ?_) | with_reducible apply OnlyChanges.ite | split | (with_reducible apply OnlyChanges.upd <;> first | with_reducible exact fun _ => rfl | exact fun q => absurd (by decide) q | skip)
  all_goals decide

theorem execDriverFault_only (driver cause cycle : Nat) {s t_ : State} (e_ : execDriverFault driver cause cycle s = .next t_) : OnlyChanges ([.port, .faults, .ease, .billing, .link, .sw, .store]) s t_ := by
  refine OnlyEnds.elim ?_ e_
  clear e_
  unfold execDriverFault
  try dsimp only
  repeat' first | with_reducible exact OnlyChanges.refl _ _ | with_reducible assumption | with_reducible apply OnlyEnds.next | with_reducible apply OnlyEnds.ite | with_reducible apply feedbackReport_only | with_reducible apply updDrv_only | with_reducible apply driverOff_only | with_reducible apply demandStop_only | with_reducible refine OnlyChanges.foldl ?_ (fun _ _ _ => ?_) | with_reducible apply OnlyChanges.ite | split | (with_reducible apply OnlyChanges.upd <;> first | with_reducible exact fun _ => rfl | exact fun q => absurd (by decide) q | skip)
  all_goals decide

theorem execDriverOffTimer_only (driver : Nat) {s t_ : State} (e_ : execDriverOffTimer driver s = .next t_) : OnlyChanges ([.ease, .sw]) s t_ := by
  refine OnlyEnds.elim ?_ e_
  clear e_
  unfold execDriverOffTimer
  try dsimp only
  repeat' first | with_reducible exact OnlyChanges.refl _ _ | with_reducible assumption | with_reducible apply OnlyEnds.next | with_reducible apply OnlyEnds.ite | with_reducible apply driverOff_only | with_reducible refine OnlyChanges.foldl ?_ (fun _ _ _ => ?_) | with_reducible apply OnlyChanges.ite | split | (with_reducible apply OnlyChanges.upd <;> first | with_reducible exact fun _ => rfl | exact fun q => absurd (by decide) q | skip)
  all_goals decide

theorem execShortTestEnd_only (outlet : Nat) {s t_ : State} (e_ : execShortTestEnd outlet s = .next t_) : OnlyChanges ([.port, .ease, .billing, .link, .sw, .store]) s t_ := by
  refine OnlyEnds.elim ?_ e_
  clear e_
  unfold execShortTestEnd
  try dsimp only
  repeat' first | with_reducible exact OnlyChanges.refl _ _ | with_reducible assumption | with_reducible apply OnlyEnds.next | with_reducible apply OnlyEnds.ite | with_reducible apply updSq_only | with_reducible apply seqTo_only | with_reducible apply failSequence_only | with_reducible apply endAfterStop_only | with_reducible refine OnlyChanges.foldl ?_ (fun _ _ _ => ?_) | with_reducible apply OnlyChanges.ite | split | (with_reducible apply OnlyChanges.upd <;> first | with_reducible exact fun _ => rfl | exact fun q => absurd (by decide) q | skip)
  all_goals decide

theorem execCcTimeout_only (outlet : Nat) {s t_ : State} (e_ : execCcTimeout outlet s = .next t_) : OnlyChanges ([.port, .ease, .billing, .link, .sw, .store]) s t_ := by
  refine OnlyEnds.elim ?_ e_
  clear e_
  unfold execCcTimeout
  try dsimp only
  repeat' first | with_reducible exact OnlyChanges.refl _ _ | with_reducible assumption | with_reducible apply OnlyEnds.next | with_reducible apply OnlyEnds.ite | with_reducible apply failSequence_only | with_reducible apply endAfterStop_only | with_reducible refine OnlyChanges.foldl ?_ (fun _ _ _ => ?_) | with_reducible apply OnlyChanges.ite | split | (with_reducible apply OnlyChanges.upd <;> first | with_reducible exact fun _ => rfl | exact fun q => absurd (by decide) q | skip)
  all_goals decide

theorem execContactorNotConducting_only (outlet : Nat) {s t_ : State} (e_ : execContactorNotConducting outlet s = .next t_) : OnlyChanges ([.port, .ease, .billing, .link, .sw, .store]) s t_ := by
  refine OnlyEnds.elim ?_ e_
  clear e_
  unfold execContactorNotConducting
  try dsimp only
  repeat' first | with_reducible exact OnlyChanges.refl _ _ | with_reducible assumption | with_reducible apply OnlyEnds.next | with_reducible apply OnlyEnds.ite | with_reducible apply demandStop_only | with_reducible refine OnlyChanges.foldl ?_ (fun _ _ _ => ?_) | with_reducible apply OnlyChanges.ite | split | (with_reducible apply OnlyChanges.upd <;> first | with_reducible exact fun _ => rfl | exact fun q => absurd (by decide) q | skip)
  all_goals decide

theorem execRampLate_only (outlet : Nat) {s t_ : State} (e_ : execRampLate outlet s = .next t_) : OnlyChanges ([.sw]) s t_ := by
  refine OnlyEnds.elim ?_ e_
  clear e_
  unfold execRampLate
  try dsimp only
  repeat' first | with_reducible exact OnlyChanges.refl _ _ | with_reducible assumption | with_reducible apply OnlyEnds.next | with_reducible apply OnlyEnds.ite | with_reducible apply updSq_only | with_reducible refine OnlyChanges.foldl ?_ (fun _ _ _ => ?_) | with_reducible apply OnlyChanges.ite | split | (with_reducible apply OnlyChanges.upd <;> first | with_reducible exact fun _ => rfl | exact fun q => absurd (by decide) q | skip)
  all_goals decide

theorem execRampForced_only (outlet : Nat) {s t_ : State} (e_ : execRampForced outlet s = .next t_) : OnlyChanges ([.port, .ease, .sw, .store]) s t_ := by
  refine OnlyEnds.elim ?_ e_
  clear e_
  unfold execRampForced
  try dsimp only
  repeat' first | with_reducible exact OnlyChanges.refl _ _ | with_reducible assumption | with_reducible apply OnlyEnds.next | with_reducible apply OnlyEnds.ite | with_reducible apply modulesOff_only | with_reducible apply releasePermits_only | with_reducible apply armHwOff_only | with_reducible apply dropJobs_only | with_reducible apply updSq_only | with_reducible apply seqTo_only | with_reducible apply safeStopEvent_only | with_reducible refine OnlyChanges.foldl ?_ (fun _ _ _ => ?_) | with_reducible apply OnlyChanges.ite | split | (with_reducible apply OnlyChanges.upd <;> first | with_reducible exact fun _ => rfl | exact fun q => absurd (by decide) q | skip)
  all_goals decide

theorem execFastOvercurrent_only (outlet : Nat) (v1 v2 : Int) {s t_ : State} (e_ : execFastOvercurrent outlet v1 v2 s = .next t_) : OnlyChanges ([.port, .ease, .billing, .link, .sw, .store]) s t_ := by
  refine OnlyEnds.elim ?_ e_
  clear e_
  unfold execFastOvercurrent
  try dsimp only
  repeat' first | with_reducible exact OnlyChanges.refl _ _ | with_reducible assumption | with_reducible apply OnlyEnds.next | with_reducible apply OnlyEnds.ite | with_reducible apply fastStop_only | with_reducible refine OnlyChanges.foldl ?_ (fun _ _ _ => ?_) | with_reducible apply OnlyChanges.ite | split | (with_reducible apply OnlyChanges.upd <;> first | with_reducible exact fun _ => rfl | exact fun q => absurd (by decide) q | skip)
  all_goals decide

theorem execWeldVoltageTestEnd_only (outlet : Nat) {s t_ : State} (e_ : execWeldVoltageTestEnd outlet s = .next t_) : OnlyChanges ([.port, .faults, .ease, .billing, .link, .sw, .store]) s t_ := by
  refine OnlyEnds.elim ?_ e_
  clear e_
  unfold execWeldVoltageTestEnd
  try dsimp only
  repeat' first | with_reducible exact OnlyChanges.refl _ _ | with_reducible assumption | with_reducible apply OnlyEnds.next | with_reducible apply OnlyEnds.ite | with_reducible apply updSq_only | with_reducible apply modulesOff_only | with_reducible apply feedbackReport_only | with_reducible apply updDrv_only | with_reducible apply lockOutlet_only | with_reducible apply event_only | with_reducible apply weldDone_only | with_reducible refine OnlyChanges.foldl ?_ (fun _ _ _ => ?_) | with_reducible apply OnlyChanges.ite | split | (with_reducible apply OnlyChanges.upd <;> first | with_reducible exact fun _ => rfl | exact fun q => absurd (by decide) q | skip)
  all_goals decide

theorem execBusJoin_only (h : Hdr) (p : List Byte) {s t_ : State} (e_ : execBusJoin h p s = .next t_) : OnlyChanges (taken h ([.port, .roles, .sw])) s t_ := by
  unfold taken
  split
  next w_ =>
    unfold execBusJoin at e_
    injection e_ with e_
    subst e_
    exact hostCommand_ack _ _ _ _ w_ (by decide) (by decide) (by decide) (OnlyChanges.refl _ _)
  rename_i w_
  refine OnlyEnds.elim ?_ e_
  clear e_
  unfold execBusJoin
  try dsimp only
  repeat' first | with_reducible exact OnlyChanges.refl _ _ | with_reducible assumption | with_reducible apply OnlyEnds.next | with_reducible apply OnlyEnds.ite | with_reducible refine hostCommand_only _ _ _ w_ ?_ ?_ ?_ (fun _ _ => ?_) | with_reducible apply busJoinCmd_only | with_reducible refine OnlyChanges.foldl ?_ (fun _ _ _ => ?_) | with_reducible apply OnlyChanges.ite | split | (with_reducible apply OnlyChanges.upd <;> first | with_reducible exact fun _ => rfl | exact fun q => absurd (by decide) q | skip)
  all_goals decide

theorem execSegmentVoltageMatched_only (segment : Nat) {s t_ : State} (e_ : execSegmentVoltageMatched segment s = .next t_) : OnlyChanges ([.ease, .sw]) s t_ := by
  refine OnlyEnds.elim ?_ e_
  clear e_
  unfold execSegmentVoltageMatched
  try dsimp only
  repeat' first | with_reducible exact OnlyChanges.refl _ _ | with_reducible assumption | with_reducible apply OnlyEnds.next | with_reducible apply OnlyEnds.ite | with_reducible apply requestPullIn_only | with_reducible refine OnlyChanges.foldl ?_ (fun _ _ _ => ?_) | with_reducible apply OnlyChanges.ite | split | (with_reducible apply OnlyChanges.upd <;> first | with_reducible exact fun _ => rfl | exact fun q => absurd (by decide) q | skip)
  all_goals decide

theorem execBusRelease_only (h : Hdr) (p : List Byte) {s t_ : State} (e_ : execBusRelease h p s = .next t_) : OnlyChanges (taken h ([.port, .roles, .sw])) s t_ := by
  unfold taken
  split
  next w_ =>
    unfold execBusRelease at e_
    injection e_ with e_
    subst e_
    exact hostCommand_ack _ _ _ _ w_ (by decide) (by decide) (by decide) (OnlyChanges.refl _ _)
  rename_i w_
  refine OnlyEnds.elim ?_ e_
  clear e_
  unfold execBusRelease
  try dsimp only
  repeat' first | with_reducible exact OnlyChanges.refl _ _ | with_reducible assumption | with_reducible apply OnlyEnds.next | with_reducible apply OnlyEnds.ite | with_reducible refine hostCommand_only _ _ _ w_ ?_ ?_ ?_ (fun _ _ => ?_) | with_reducible apply busReleaseCmd_only | with_reducible refine OnlyChanges.foldl ?_ (fun _ _ _ => ?_) | with_reducible apply OnlyChanges.ite | split | (with_reducible apply OnlyChanges.upd <;> first | with_reducible exact fun _ => rfl | exact fun q => absurd (by decide) q | skip)
  all_goals decide

theorem execPmTargetTransmit_only (bus : Nat) {s t_ : State} (e_ : execPmTargetTransmit bus s = .next t_) : OnlyChanges ([.sw]) s t_ := by
  refine OnlyEnds.elim ?_ e_
  clear e_
  unfold execPmTargetTransmit
  try dsimp only
  repeat' first | with_reducible exact OnlyChanges.refl _ _ | with_reducible assumption | with_reducible apply OnlyEnds.next | with_reducible apply OnlyEnds.ite | with_reducible refine OnlyChanges.foldl ?_ (fun _ _ _ => ?_) | with_reducible apply OnlyChanges.ite | split | (with_reducible apply OnlyChanges.upd <;> first | with_reducible exact fun _ => rfl | exact fun q => absurd (by decide) q | skip)
  all_goals decide

theorem execPmStatusFrame_only (module : Nat) (payload : List Byte) {s t_ : State} (e_ : execPmStatusFrame module payload s = .next t_) : OnlyChanges ([.port, .ease, .billing, .link, .sw, .store]) s t_ := by
  refine OnlyEnds.elim ?_ e_
  clear e_
  unfold execPmStatusFrame
  try dsimp only
  repeat' first | with_reducible exact OnlyChanges.refl _ _ | with_reducible assumption | with_reducible apply OnlyEnds.next | with_reducible apply OnlyEnds.ite | with_reducible apply updPm_only | with_reducible apply moduleGone_only | with_reducible refine OnlyChanges.foldl ?_ (fun _ _ _ => ?_) | with_reducible apply OnlyChanges.ite | split | (with_reducible apply OnlyChanges.upd <;> first | with_reducible exact fun _ => rfl | exact fun q => absurd (by decide) q | skip)
  all_goals decide

theorem execPmFaultFrame_only (module : Nat) (payload : List Byte) {s t_ : State} (e_ : execPmFaultFrame module payload s = .next t_) : OnlyChanges ([.port, .ease, .billing, .link, .sw, .store]) s t_ := by
  refine OnlyEnds.elim ?_ e_
  clear e_
  unfold execPmFaultFrame
  try dsimp only
  repeat' first | with_reducible exact OnlyChanges.refl _ _ | with_reducible assumption | with_reducible apply OnlyEnds.next | with_reducible apply OnlyEnds.ite | with_reducible apply moduleGone_only | with_reducible apply updPm_only | with_reducible refine OnlyChanges.foldl ?_ (fun _ _ _ => ?_) | with_reducible apply OnlyChanges.ite | split | (with_reducible apply OnlyChanges.upd <;> first | with_reducible exact fun _ => rfl | exact fun q => absurd (by decide) q | skip)
  all_goals decide

theorem execPmLost_only (module : Nat) {s t_ : State} (e_ : execPmLost module s = .next t_) : OnlyChanges ([.port, .ease, .billing, .link, .sw, .store]) s t_ := by
  refine OnlyEnds.elim ?_ e_
  clear e_
  unfold execPmLost
  try dsimp only
  repeat' first | with_reducible exact OnlyChanges.refl _ _ | with_reducible assumption | with_reducible apply OnlyEnds.next | with_reducible apply OnlyEnds.ite | with_reducible apply updPm_only | with_reducible apply moduleGone_only | with_reducible apply event_only | with_reducible refine OnlyChanges.foldl ?_ (fun _ _ _ => ?_) | with_reducible apply OnlyChanges.ite | split | (with_reducible apply OnlyChanges.upd <;> first | with_reducible exact fun _ => rfl | exact fun q => absurd (by decide) q | skip)
  all_goals decide

theorem execSafetyInputDemand_only (input : Nat) (aRead bRead : Bool) {s t_ : State} (e_ : execSafetyInputDemand input aRead bRead s = .next t_) : OnlyChanges ([.port, .ease, .billing, .link, .sw, .store]) s t_ := by
  refine OnlyEnds.elim ?_ e_
  clear e_
  unfold execSafetyInputDemand
  try dsimp only
  repeat' first | with_reducible exact OnlyChanges.refl _ _ | with_reducible assumption | with_reducible apply OnlyEnds.next | with_reducible apply OnlyEnds.ite | with_reducible apply updIn_only | with_reducible apply enterDemand_only | with_reducible refine OnlyChanges.foldl ?_ (fun _ _ _ => ?_) | with_reducible apply OnlyChanges.ite | split | (with_reducible apply OnlyChanges.upd <;> first | with_reducible exact fun _ => rfl | exact fun q => absurd (by decide) q | skip)
  all_goals decide

theorem execSafetyDemandEnd_only (input : Nat) (aRead bRead : Bool) {s t_ : State} (e_ : execSafetyDemandEnd input aRead bRead s = .next t_) : OnlyChanges ([.port, .sw, .store]) s t_ := by
  refine OnlyEnds.elim ?_ e_
  clear e_
  unfold execSafetyDemandEnd
  try dsimp only
  repeat' first | with_reducible exact OnlyChanges.refl _ _ | with_reducible assumption | with_reducible apply OnlyEnds.next | with_reducible apply OnlyEnds.ite | with_reducible apply updIn_only | with_reducible apply demandEnded_only | with_reducible refine OnlyChanges.foldl ?_ (fun _ _ _ => ?_) | with_reducible apply OnlyChanges.ite | split | (with_reducible apply OnlyChanges.upd <;> first | with_reducible exact fun _ => rfl | exact fun q => absurd (by decide) q | skip)
  all_goals decide

theorem execDiscrepancyTimeout_only (input : Nat) {s t_ : State} (e_ : execDiscrepancyTimeout input s = .next t_) : OnlyChanges ([.port, .ease, .billing, .link, .sw, .store]) s t_ := by
  refine OnlyEnds.elim ?_ e_
  clear e_
  unfold execDiscrepancyTimeout
  try dsimp only
  repeat' first | with_reducible exact OnlyChanges.refl _ _ | with_reducible assumption | with_reducible apply OnlyEnds.next | with_reducible apply OnlyEnds.ite | with_reducible apply inputFaulty_only | with_reducible refine OnlyChanges.foldl ?_ (fun _ _ _ => ?_) | with_reducible apply OnlyChanges.ite | split | (with_reducible apply OnlyChanges.upd <;> first | with_reducible exact fun _ => rfl | exact fun q => absurd (by decide) q | skip)
  all_goals decide

theorem execInputTestPulse_only (k : Nat) (readsOff : List (Nat × Bool × Bool)) {s t_ : State} (e_ : execInputTestPulse k readsOff s = .next t_) : OnlyChanges ([.port, .ease, .billing, .link, .sw, .store]) s t_ := by
  refine OnlyEnds.elim ?_ e_
  clear e_
  unfold execInputTestPulse
  try dsimp only
  repeat' first | with_reducible exact OnlyChanges.refl _ _ | with_reducible assumption | with_reducible apply OnlyEnds.next | with_reducible apply OnlyEnds.ite | with_reducible apply inputFaulty_only | with_reducible refine OnlyChanges.foldl ?_ (fun _ _ _ => ?_) | with_reducible apply OnlyChanges.ite | split | (with_reducible apply OnlyChanges.upd <;> first | with_reducible exact fun _ => rfl | exact fun q => absurd (by decide) q | skip)
  all_goals decide

theorem execDriverTestPulse_only (driver : Nat) (padOk : Bool) (cycle : Nat) {s t_ : State} (e_ : execDriverTestPulse driver padOk cycle s = .next t_) : OnlyChanges ([.port, .faults, .ease, .billing, .link, .sw, .store]) s t_ := by
  refine OnlyEnds.elim ?_ e_
  clear e_
  unfold execDriverTestPulse
  try dsimp only
  repeat' first | with_reducible exact OnlyChanges.refl _ _ | with_reducible assumption | with_reducible apply OnlyEnds.next | with_reducible apply OnlyEnds.ite | with_reducible apply updDrv_only | with_reducible apply feedbackReport_only | with_reducible apply fastStop_only | with_reducible apply driverOff_only | with_reducible refine OnlyChanges.foldl ?_ (fun _ _ _ => ?_) | with_reducible apply OnlyChanges.ite | split | (with_reducible apply OnlyChanges.upd <;> first | with_reducible exact fun _ => rfl | exact fun q => absurd (by decide) q | skip)
  all_goals decide

theorem execSafetyReset_only (h : Hdr) (p : List Byte) {s t_ : State} (e_ : execSafetyReset h p s = .next t_) : OnlyChanges (taken h ([.port, .roles, .sw, .store])) s t_ := by
  unfold taken
  split
  next w_ =>
    unfold execSafetyReset at e_
    injection e_ with e_
    subst e_
    exact hostCommand_ack _ _ _ _ w_ (by decide) (by decide) (by decide) (OnlyChanges.refl _ _)
  rename_i w_
  refine OnlyEnds.elim ?_ e_
  clear e_
  unfold execSafetyReset
  try dsimp only
  repeat' first | with_reducible exact OnlyChanges.refl _ _ | with_reducible assumption | with_reducible apply OnlyEnds.next | with_reducible apply OnlyEnds.ite | with_reducible refine hostCommand_only _ _ _ w_ ?_ ?_ ?_ (fun _ _ => ?_) | with_reducible apply safetyResetCmd_only | with_reducible refine OnlyChanges.foldl ?_ (fun _ _ _ => ?_) | with_reducible apply OnlyChanges.ite | split | (with_reducible apply OnlyChanges.upd <;> first | with_reducible exact fun _ => rfl | exact fun q => absurd (by decide) q | skip)
  all_goals decide

theorem execStartupTest_only (h : Hdr) (p : List Byte) {s t_ : State} (e_ : execStartupTest h p s = .next t_) : OnlyChanges (taken h ([.port, .roles, .sw, .store])) s t_ := by
  unfold taken
  split
  next w_ =>
    unfold execStartupTest at e_
    injection e_ with e_
    subst e_
    exact hostCommand_ack _ _ _ _ w_ (by decide) (by decide) (by decide) (OnlyChanges.refl _ _)
  rename_i w_
  refine OnlyEnds.elim ?_ e_
  clear e_
  unfold execStartupTest
  try dsimp only
  repeat' first | with_reducible exact OnlyChanges.refl _ _ | with_reducible assumption | with_reducible apply OnlyEnds.next | with_reducible apply OnlyEnds.ite | with_reducible refine hostCommand_only _ _ _ w_ ?_ ?_ ?_ (fun _ _ => ?_) | with_reducible apply startupTestCmd_only | with_reducible refine OnlyChanges.foldl ?_ (fun _ _ _ => ?_) | with_reducible apply OnlyChanges.ite | split | (with_reducible apply OnlyChanges.upd <;> first | with_reducible exact fun _ => rfl | exact fun q => absurd (by decide) q | skip)
  all_goals decide

theorem execStartupTestTimeout_only  {s t_ : State} (e_ : execStartupTestTimeout s = .next t_) : OnlyChanges ([.port, .sw, .store]) s t_ := by
  refine OnlyEnds.elim ?_ e_
  clear e_
  unfold execStartupTestTimeout
  try dsimp only
  repeat' first | with_reducible exact OnlyChanges.refl _ _ | with_reducible assumption | with_reducible apply OnlyEnds.next | with_reducible apply OnlyEnds.ite | with_reducible apply testDone_only | with_reducible refine OnlyChanges.foldl ?_ (fun _ _ _ => ?_) | with_reducible apply OnlyChanges.ite | split | (with_reducible apply OnlyChanges.upd <;> first | with_reducible exact fun _ => rfl | exact fun q => absurd (by decide) q | skip)
  all_goals decide

theorem execWeldClear_only (h : Hdr) (p : List Byte) {s t_ : State} (e_ : execWeldClear h p s = .next t_) : OnlyChanges (taken h ([.port, .roles, .sw, .store])) s t_ := by
  unfold taken
  split
  next w_ =>
    unfold execWeldClear at e_
    injection e_ with e_
    subst e_
    exact hostCommand_ack _ _ _ _ w_ (by decide) (by decide) (by decide) (OnlyChanges.refl _ _)
  rename_i w_
  refine OnlyEnds.elim ?_ e_
  clear e_
  unfold execWeldClear
  try dsimp only
  repeat' first | with_reducible exact OnlyChanges.refl _ _ | with_reducible assumption | with_reducible apply OnlyEnds.next | with_reducible apply OnlyEnds.ite | with_reducible refine hostCommand_only _ _ _ w_ ?_ ?_ ?_ (fun _ _ => ?_) | with_reducible apply weldClearCmd_only | with_reducible refine OnlyChanges.foldl ?_ (fun _ _ _ => ?_) | with_reducible apply OnlyChanges.ite | split | (with_reducible apply OnlyChanges.upd <;> first | with_reducible exact fun _ => rfl | exact fun q => absurd (by decide) q | skip)
  all_goals decide

theorem execAuxContactor_only (h : Hdr) (p : List Byte) {s t_ : State} (e_ : execAuxContactor h p s = .next t_) : OnlyChanges (taken h ([.port, .roles, .ease, .sw])) s t_ := by
  unfold taken
  split
  next w_ =>
    unfold execAuxContactor at e_
    injection e_ with e_
    subst e_
    exact hostCommand_ack _ _ _ _ w_ (by decide) (by decide) (by decide) (OnlyChanges.refl _ _)
  rename_i w_
  refine OnlyEnds.elim ?_ e_
  clear e_
  unfold execAuxContactor
  try dsimp only
  repeat' first | with_reducible exact OnlyChanges.refl _ _ | with_reducible assumption | with_reducible apply OnlyEnds.next | with_reducible apply OnlyEnds.ite | with_reducible refine hostCommand_only _ _ _ w_ ?_ ?_ ?_ (fun _ _ => ?_) | with_reducible apply auxCmd_only | with_reducible refine OnlyChanges.foldl ?_ (fun _ _ _ => ?_) | with_reducible apply OnlyChanges.ite | split | (with_reducible apply OnlyChanges.upd <;> first | with_reducible exact fun _ => rfl | exact fun q => absurd (by decide) q | skip)
  all_goals decide

theorem execToneWindowEnd_only (outlet : Nat) {s t_ : State} (e_ : execToneWindowEnd outlet s = .next t_) : OnlyChanges ([.port, .fe, .energy, .store]) s t_ := by
  refine OnlyEnds.elim ?_ e_
  clear e_
  unfold execToneWindowEnd
  try dsimp only
  repeat' first | with_reducible exact OnlyChanges.refl _ _ | with_reducible assumption | with_reducible apply OnlyEnds.next | with_reducible apply OnlyEnds.ite | with_reducible apply toneWindow_only | with_reducible apply updTone_only | with_reducible refine OnlyChanges.foldl ?_ (fun _ _ _ => ?_) | with_reducible apply OnlyChanges.ite | split | (with_reducible apply OnlyChanges.upd <;> first | with_reducible exact fun _ => rfl | exact fun q => absurd (by decide) q | skip)
  all_goals decide

theorem execToneUnavailable_only (outlet : Nat) {s t_ : State} (e_ : execToneUnavailable outlet s = .next t_) : OnlyChanges ([.port, .energy, .store]) s t_ := by
  refine OnlyEnds.elim ?_ e_
  clear e_
  unfold execToneUnavailable
  try dsimp only
  repeat' first | with_reducible exact OnlyChanges.refl _ _ | with_reducible assumption | with_reducible apply OnlyEnds.next | with_reducible apply OnlyEnds.ite | with_reducible apply setWarn_only | with_reducible refine OnlyChanges.foldl ?_ (fun _ _ _ => ?_) | with_reducible apply OnlyChanges.ite | split | (with_reducible apply OnlyChanges.upd <;> first | with_reducible exact fun _ => rfl | exact fun q => absurd (by decide) q | skip)
  all_goals decide

theorem execPulseEnd_only (k : Nat) {s t_ : State} (e_ : execPulseEnd k s = .next t_) : OnlyChanges ([.energy]) s t_ := by
  refine OnlyEnds.elim ?_ e_
  clear e_
  unfold execPulseEnd
  try dsimp only
  repeat' first | with_reducible exact OnlyChanges.refl _ _ | with_reducible assumption | with_reducible apply OnlyEnds.next | with_reducible apply OnlyEnds.ite | with_reducible apply updPls_only | with_reducible refine OnlyChanges.foldl ?_ (fun _ _ _ => ?_) | with_reducible apply OnlyChanges.ite | split | (with_reducible apply OnlyChanges.upd <;> first | with_reducible exact fun _ => rfl | exact fun q => absurd (by decide) q | skip)
  all_goals decide

theorem execStandingEnergy_only (outlet : Nat) {s t_ : State} (e_ : execStandingEnergy outlet s = .next t_) : OnlyChanges ([.port, .energy, .store]) s t_ := by
  refine OnlyEnds.elim ?_ e_
  clear e_
  unfold execStandingEnergy
  try dsimp only
  repeat' first | with_reducible exact OnlyChanges.refl _ _ | with_reducible assumption | with_reducible apply OnlyEnds.next | with_reducible apply OnlyEnds.ite | with_reducible apply updEng_only | with_reducible apply setWarn_only | with_reducible apply event_only | with_reducible refine OnlyChanges.foldl ?_ (fun _ _ _ => ?_) | with_reducible apply OnlyChanges.ite | split | (with_reducible apply OnlyChanges.upd <;> first | with_reducible exact fun _ => rfl | exact fun q => absurd (by decide) q | skip)
  all_goals decide

theorem execMeterWarnClear_only (h : Hdr) (p : List Byte) {s t_ : State} (e_ : execMeterWarnClear h p s = .next t_) : OnlyChanges (taken h ([.port, .roles, .energy, .log, .tag, .store])) s t_ := by
  unfold taken
  split
  next w_ =>
    unfold execMeterWarnClear at e_
    injection e_ with e_
    subst e_
    exact hostCommand_ack _ _ _ _ w_ (by decide) (by decide) (by decide) (OnlyChanges.refl _ _)
  rename_i w_
  refine OnlyEnds.elim ?_ e_
  clear e_
  unfold execMeterWarnClear
  try dsimp only
  repeat' first | with_reducible exact OnlyChanges.refl _ _ | with_reducible assumption | with_reducible apply OnlyEnds.next | with_reducible apply OnlyEnds.ite | with_reducible refine hostCommand_only _ _ _ w_ ?_ ?_ ?_ (fun _ _ => ?_) | with_reducible apply meterWarnClearCmd_only | with_reducible refine OnlyChanges.foldl ?_ (fun _ _ _ => ?_) | with_reducible apply OnlyChanges.ite | split | (with_reducible apply OnlyChanges.upd <;> first | with_reducible exact fun _ => rfl | exact fun q => absurd (by decide) q | skip)
  all_goals decide

theorem execTimeSet_only (h : Hdr) (p : List Byte) {s t_ : State} (e_ : execTimeSet h p s = .next t_) : OnlyChanges (taken h ([.clock, .port, .roles, .store])) s t_ := by
  unfold taken
  split
  next w_ =>
    unfold execTimeSet at e_
    injection e_ with e_
    subst e_
    exact hostCommand_ack _ _ _ _ w_ (by decide) (by decide) (by decide) (OnlyChanges.refl _ _)
  rename_i w_
  refine OnlyEnds.elim ?_ e_
  clear e_
  unfold execTimeSet
  try dsimp only
  repeat' first | with_reducible exact OnlyChanges.refl _ _ | with_reducible assumption | with_reducible apply OnlyEnds.next | with_reducible apply OnlyEnds.ite | with_reducible refine hostCommand_only _ _ _ w_ ?_ ?_ ?_ (fun _ _ => ?_) | with_reducible apply timeSetCmd_only | with_reducible refine OnlyChanges.foldl ?_ (fun _ _ _ => ?_) | with_reducible apply OnlyChanges.ite | split | (with_reducible apply OnlyChanges.upd <;> first | with_reducible exact fun _ => rfl | exact fun q => absurd (by decide) q | skip)
  all_goals decide

theorem execTariffBoundary_only  {s t_ : State} (e_ : execTariffBoundary s = .next t_) : OnlyChanges ([.clock, .port, .billing, .log, .tag, .store]) s t_ := by
  refine OnlyEnds.elim ?_ e_
  clear e_
  unfold execTariffBoundary
  try dsimp only
  repeat' first | with_reducible exact OnlyChanges.refl _ _ | with_reducible assumption | with_reducible apply OnlyEnds.next | with_reducible apply OnlyEnds.ite | with_reducible apply boundaryNow_only | with_reducible refine OnlyChanges.foldl ?_ (fun _ _ _ => ?_) | with_reducible apply OnlyChanges.ite | split | (with_reducible apply OnlyChanges.upd <;> first | with_reducible exact fun _ => rfl | exact fun q => absurd (by decide) q | skip)
  all_goals decide

theorem execCalendarEntryExpiry_only (entry : Nat) {s t_ : State} (e_ : execCalendarEntryExpiry entry s = .next t_) : OnlyChanges ([.billing]) s t_ := by
  refine OnlyEnds.elim ?_ e_
  clear e_
  unfold execCalendarEntryExpiry
  try dsimp only
  repeat' first | with_reducible exact OnlyChanges.refl _ _ | with_reducible assumption | with_reducible apply OnlyEnds.next | with_reducible apply OnlyEnds.ite | with_reducible refine OnlyChanges.foldl ?_ (fun _ _ _ => ?_) | with_reducible apply OnlyChanges.ite | split | (with_reducible apply OnlyChanges.upd <;> first | with_reducible exact fun _ => rfl | exact fun q => absurd (by decide) q | skip)
  all_goals decide

theorem execTariffAnnounce_only (h : Hdr) (p : List Byte) {s t_ : State} (e_ : execTariffAnnounce h p s = .next t_) : OnlyChanges (taken h ([.port, .roles, .billing])) s t_ := by
  unfold taken
  split
  next w_ =>
    unfold execTariffAnnounce at e_
    injection e_ with e_
    subst e_
    exact hostCommand_ack _ _ _ _ w_ (by decide) (by decide) (by decide) (OnlyChanges.refl _ _)
  rename_i w_
  refine OnlyEnds.elim ?_ e_
  clear e_
  unfold execTariffAnnounce
  try dsimp only
  repeat' first | with_reducible exact OnlyChanges.refl _ _ | with_reducible assumption | with_reducible apply OnlyEnds.next | with_reducible apply OnlyEnds.ite | with_reducible refine hostCommand_only _ _ _ w_ ?_ ?_ ?_ (fun _ _ => ?_) | with_reducible apply tariffAnnounceCmd_only | with_reducible refine OnlyChanges.foldl ?_ (fun _ _ _ => ?_) | with_reducible apply OnlyChanges.ite | split | (with_reducible apply OnlyChanges.upd <;> first | with_reducible exact fun _ => rfl | exact fun q => absurd (by decide) q | skip)
  all_goals decide

theorem execDemandWindowEnd_only  {s t_ : State} (e_ : execDemandWindowEnd s = .next t_) : OnlyChanges ([.clock, .port, .billing, .log, .tag, .store]) s t_ := by
  refine OnlyEnds.elim ?_ e_
  clear e_
  unfold execDemandWindowEnd
  try dsimp only
  repeat' first | with_reducible exact OnlyChanges.refl _ _ | with_reducible assumption | with_reducible apply OnlyEnds.next | with_reducible apply OnlyEnds.ite | with_reducible apply boundaryNow_only | with_reducible refine OnlyChanges.foldl ?_ (fun _ _ _ => ?_) | with_reducible apply OnlyChanges.ite | split | (with_reducible apply OnlyChanges.upd <;> first | with_reducible exact fun _ => rfl | exact fun q => absurd (by decide) q | skip)
  all_goals decide

theorem execDemandEvaluation_only  {s t_ : State} (e_ : execDemandEvaluation s = .next t_) : OnlyChanges ([.clock, .port, .billing, .log, .tag, .store]) s t_ := by
  refine OnlyEnds.elim ?_ e_
  clear e_
  unfold execDemandEvaluation
  try dsimp only
  repeat' first | with_reducible exact OnlyChanges.refl _ _ | with_reducible assumption | with_reducible apply OnlyEnds.next | with_reducible apply OnlyEnds.ite | with_reducible apply commits_only | with_reducible refine OnlyChanges.foldl ?_ (fun _ _ _ => ?_) | with_reducible apply OnlyChanges.ite | split | (with_reducible apply OnlyChanges.upd <;> first | with_reducible exact fun _ => rfl | exact fun q => absurd (by decide) q | skip)
  all_goals decide

theorem execDemandReset_only (h : Hdr) (p : List Byte) {s t_ : State} (e_ : execDemandReset h p s = .next t_) : OnlyChanges (taken h ([.port, .roles, .billing])) s t_ := by
  unfold taken
  split
  next w_ =>
    unfold execDemandReset at e_
    injection e_ with e_
    subst e_
    exact hostCommand_ack _ _ _ _ w_ (by decide) (by decide) (by decide) (OnlyChanges.refl _ _)
  rename_i w_
  refine OnlyEnds.elim ?_ e_
  clear e_
  unfold execDemandReset
  try dsimp only
  repeat' first | with_reducible exact OnlyChanges.refl _ _ | with_reducible assumption | with_reducible apply OnlyEnds.next | with_reducible apply OnlyEnds.ite | with_reducible refine hostCommand_only _ _ _ w_ ?_ ?_ ?_ (fun _ _ => ?_) | with_reducible apply demandResetCmd_only | with_reducible refine OnlyChanges.foldl ?_ (fun _ _ _ => ?_) | with_reducible apply OnlyChanges.ite | split | (with_reducible apply OnlyChanges.upd <;> first | with_reducible exact fun _ => rfl | exact fun q => absurd (by decide) q | skip)
  all_goals decide

theorem execDemandResetApply_only  {s t_ : State} (e_ : execDemandResetApply s = .next t_) : OnlyChanges ([.clock, .port, .billing, .log, .tag, .store]) s t_ := by
  refine OnlyEnds.elim ?_ e_
  clear e_
  unfold execDemandResetApply
  try dsimp only
  repeat' first | with_reducible exact OnlyChanges.refl _ _ | with_reducible assumption | with_reducible apply OnlyEnds.next | with_reducible apply OnlyEnds.ite | with_reducible apply boundaryNow_only | with_reducible refine OnlyChanges.foldl ?_ (fun _ _ _ => ?_) | with_reducible apply OnlyChanges.ite | split | (with_reducible apply OnlyChanges.upd <;> first | with_reducible exact fun _ => rfl | exact fun q => absurd (by decide) q | skip)
  all_goals decide

theorem execClockStep_only  {s t_ : State} (e_ : execClockStep s = .next t_) : OnlyChanges ([.clock, .port, .billing, .log, .tag, .store]) s t_ := by
  refine OnlyEnds.elim ?_ e_
  clear e_
  unfold execClockStep
  try dsimp only
  repeat' first | with_reducible exact OnlyChanges.refl _ _ | with_reducible assumption | with_reducible apply OnlyEnds.next | with_reducible apply OnlyEnds.ite | with_reducible apply boundaryNow_only | with_reducible refine OnlyChanges.foldl ?_ (fun _ _ _ => ?_) | with_reducible apply OnlyChanges.ite | split | (with_reducible apply OnlyChanges.upd <;> first | with_reducible exact fun _ => rfl | exact fun q => absurd (by decide) q | skip)
  all_goals decide

theorem execTimeSetApply_only  {s t_ : State} (e_ : execTimeSetApply s = .next t_) : OnlyChanges ([.clock, .port, .billing, .log, .tag, .store]) s t_ := by
  refine OnlyEnds.elim ?_ e_
  clear e_
  unfold execTimeSetApply
  try dsimp only
  repeat' first | with_reducible exact OnlyChanges.refl _ _ | with_reducible assumption | with_reducible apply OnlyEnds.next | with_reducible apply OnlyEnds.ite | with_reducible apply sign_only | with_reducible apply timeAdjusted_only | with_reducible refine OnlyChanges.foldl ?_ (fun _ _ _ => ?_) | with_reducible apply OnlyChanges.ite | split | (with_reducible apply OnlyChanges.upd <;> first | with_reducible exact fun _ => rfl | exact fun q => absurd (by decide) q | skip)
  all_goals decide

theorem execLogRecordStore_only  {s t_ : State} (e_ : execLogRecordStore s = .next t_) : OnlyChanges ([.modes, .port, .log, .tag, .store]) s t_ := by
  refine OnlyEnds.elim ?_ e_
  clear e_
  unfold execLogRecordStore
  try dsimp only
  repeat' first | with_reducible exact OnlyChanges.refl _ _ | with_reducible assumption | with_reducible apply OnlyEnds.next | with_reducible apply OnlyEnds.ite | with_reducible apply storeRecord_only | with_reducible apply signGap_only | with_reducible refine OnlyChanges.foldl ?_ (fun _ _ _ => ?_) | with_reducible apply OnlyChanges.ite | split | (with_reducible apply OnlyChanges.upd <;> first | with_reducible exact fun _ => rfl | exact fun q => absurd (by decide) q | skip)
  all_goals decide

theorem execLogRead_only (h : Hdr) (p : List Byte) {s t_ : State} (e_ : execLogRead h p s = .next t_) : OnlyChanges (taken h ([.port, .roles])) s t_ := by
  unfold taken
  split
  next w_ =>
    unfold execLogRead at e_
    injection e_ with e_
    subst e_
    exact hostCommand_ack _ _ _ _ w_ (by decide) (by decide) (by decide) (OnlyChanges.refl _ _)
  rename_i w_
  refine OnlyEnds.elim ?_ e_
  clear e_
  unfold execLogRead
  try dsimp only
  repeat' first | with_reducible exact OnlyChanges.refl _ _ | with_reducible assumption | with_reducible apply OnlyEnds.next | with_reducible apply OnlyEnds.ite | with_reducible refine hostCommand_only _ _ _ w_ ?_ ?_ ?_ (fun _ _ => ?_) | with_reducible apply logReadCmd_only | with_reducible refine OnlyChanges.foldl ?_ (fun _ _ _ => ?_) | with_reducible apply OnlyChanges.ite | split | (with_reducible apply OnlyChanges.upd <;> first | with_reducible exact fun _ => rfl | exact fun q => absurd (by decide) q | skip)
  all_goals decide

theorem execLogAck_only (h : Hdr) (p : List Byte) {s t_ : State} (e_ : execLogAck h p s = .next t_) : OnlyChanges (taken h ([.port, .roles, .log, .store])) s t_ := by
  unfold taken
  split
  next w_ =>
    unfold execLogAck at e_
    injection e_ with e_
    subst e_
    exact hostCommand_ack _ _ _ _ w_ (by decide) (by decide) (by decide) (OnlyChanges.refl _ _)
  rename_i w_
  refine OnlyEnds.elim ?_ e_
  clear e_
  unfold execLogAck
  try dsimp only
  repeat' first | with_reducible exact OnlyChanges.refl _ _ | with_reducible assumption | with_reducible apply OnlyEnds.next | with_reducible apply OnlyEnds.ite | with_reducible refine hostCommand_only _ _ _ w_ ?_ ?_ ?_ (fun _ _ => ?_) | with_reducible apply logAckCmd_only | with_reducible refine OnlyChanges.foldl ?_ (fun _ _ _ => ?_) | with_reducible apply OnlyChanges.ite | split | (with_reducible apply OnlyChanges.upd <;> first | with_reducible exact fun _ => rfl | exact fun q => absurd (by decide) q | skip)
  all_goals decide

theorem execSealOpening_only  {s t_ : State} (e_ : execSealOpening s = .next t_) : OnlyChanges ([.modes, .port, .energy, .billing, .seals, .log, .tag, .store]) s t_ := by
  refine OnlyEnds.elim ?_ e_
  clear e_
  unfold execSealOpening
  try dsimp only
  repeat' first | with_reducible exact OnlyChanges.refl _ _ | with_reducible assumption | with_reducible apply OnlyEnds.next | with_reducible apply OnlyEnds.ite | with_reducible apply openSeal_only | with_reducible refine OnlyChanges.foldl ?_ (fun _ _ _ => ?_) | with_reducible apply OnlyChanges.ite | split | (with_reducible apply OnlyChanges.upd <;> first | with_reducible exact fun _ => rfl | exact fun q => absurd (by decide) q | skip)
  all_goals decide

theorem execDebugAccessAttempt_only  {s t_ : State} (e_ : execDebugAccessAttempt s = .next t_) : OnlyChanges ([.modes, .port, .energy, .billing, .seals, .log, .tag, .store]) s t_ := by
  refine OnlyEnds.elim ?_ e_
  clear e_
  unfold execDebugAccessAttempt
  try dsimp only
  repeat' first | with_reducible exact OnlyChanges.refl _ _ | with_reducible assumption | with_reducible apply OnlyEnds.next | with_reducible apply OnlyEnds.ite | with_reducible apply debugAttempt_only | with_reducible refine OnlyChanges.foldl ?_ (fun _ _ _ => ?_) | with_reducible apply OnlyChanges.ite | split | (with_reducible apply OnlyChanges.upd <;> first | with_reducible exact fun _ => rfl | exact fun q => absurd (by decide) q | skip)
  all_goals decide

theorem execReseal_only (h : Hdr) (p : List Byte) {s t_ : State} (e_ : execReseal h p s = .next t_) : OnlyChanges (taken h ([.port, .roles, .seals, .log, .tag, .store])) s t_ := by
  unfold taken
  split
  next w_ =>
    unfold execReseal at e_
    injection e_ with e_
    subst e_
    exact hostCommand_ack _ _ _ _ w_ (by decide) (by decide) (by decide) (OnlyChanges.refl _ _)
  rename_i w_
  refine OnlyEnds.elim ?_ e_
  clear e_
  unfold execReseal
  try dsimp only
  repeat' first | with_reducible exact OnlyChanges.refl _ _ | with_reducible assumption | with_reducible apply OnlyEnds.next | with_reducible apply OnlyEnds.ite | with_reducible refine hostCommand_only _ _ _ w_ ?_ ?_ ?_ (fun _ _ => ?_) | with_reducible apply resealCmd_only | with_reducible refine OnlyChanges.foldl ?_ (fun _ _ _ => ?_) | with_reducible apply OnlyChanges.ite | split | (with_reducible apply OnlyChanges.upd <;> first | with_reducible exact fun _ => rfl | exact fun q => absurd (by decide) q | skip)
  all_goals decide

theorem execModInputStuck_only (outlet input : Nat) {s t_ : State} (e_ : execModInputStuck outlet input s = .next t_) : OnlyChanges ([.port, .ease, .fe, .energy, .billing, .link, .sw, .store]) s t_ := by
  refine OnlyEnds.elim ?_ e_
  clear e_
  unfold execModInputStuck
  try dsimp only
  repeat' first | with_reducible exact OnlyChanges.refl _ _ | with_reducible assumption | with_reducible apply OnlyEnds.next | with_reducible apply OnlyEnds.ite | with_reducible apply invalidate_only | with_reducible refine OnlyChanges.foldl ?_ (fun _ _ _ => ?_) | with_reducible apply OnlyChanges.ite | split | (with_reducible apply OnlyChanges.upd <;> first | with_reducible exact fun _ => rfl | exact fun q => absurd (by decide) q | skip)
  all_goals decide

theorem execMclkReadbackFault_only (outlet : Nat) {s t_ : State} (e_ : execMclkReadbackFault outlet s = .next t_) : OnlyChanges ([.port, .ease, .fe, .energy, .billing, .link, .sw, .store]) s t_ := by
  refine OnlyEnds.elim ?_ e_
  clear e_
  unfold execMclkReadbackFault
  try dsimp only
  repeat' first | with_reducible exact OnlyChanges.refl _ _ | with_reducible assumption | with_reducible apply OnlyEnds.next | with_reducible apply OnlyEnds.ite | with_reducible apply invalidate_only | with_reducible refine OnlyChanges.foldl ?_ (fun _ _ _ => ?_) | with_reducible apply OnlyChanges.ite | split | (with_reducible apply OnlyChanges.upd <;> first | with_reducible exact fun _ => rfl | exact fun q => absurd (by decide) q | skip)
  all_goals decide

theorem execModInputValid_only (outlet input : Nat) {s t_ : State} (e_ : execModInputValid outlet input s = .next t_) : OnlyChanges ([.port, .fe, .store]) s t_ := by
  refine OnlyEnds.elim ?_ e_
  clear e_
  unfold execModInputValid
  try dsimp only
  repeat' first | with_reducible exact OnlyChanges.refl _ _ | with_reducible assumption | with_reducible apply OnlyEnds.next | with_reducible apply OnlyEnds.ite | with_reducible apply event_only | with_reducible apply updIn'_only | with_reducible refine OnlyChanges.foldl ?_ (fun _ _ _ => ?_) | with_reducible apply OnlyChanges.ite | split | (with_reducible apply OnlyChanges.upd <;> first | with_reducible exact fun _ => rfl | exact fun q => absurd (by decide) q | skip)
  all_goals decide

theorem execModPllLoss_only (cycle : Nat) {s t_ : State} (e_ : execModPllLoss cycle s = .next t_) : OnlyChanges ([.port, .faults, .ease, .fe, .energy, .billing, .link, .sw, .store]) s t_ := by
  refine OnlyEnds.elim ?_ e_
  clear e_
  unfold execModPllLoss
  try dsimp only
  repeat' first | with_reducible exact OnlyChanges.refl _ _ | with_reducible assumption | with_reducible apply OnlyEnds.next | with_reducible apply OnlyEnds.ite | with_reducible apply modPllLost_only | with_reducible refine OnlyChanges.foldl ?_ (fun _ _ _ => ?_) | with_reducible apply OnlyChanges.ite | split | (with_reducible apply OnlyChanges.upd <;> first | with_reducible exact fun _ => rfl | exact fun q => absurd (by decide) q | skip)
  all_goals decide

theorem execStepDetected_only (outlet input place : Nat) {s t_ : State} (e_ : execStepDetected outlet input place s = .next t_) : OnlyChanges ([.fe]) s t_ := by
  refine OnlyEnds.elim ?_ e_
  clear e_
  unfold execStepDetected
  try dsimp only
  repeat' first | with_reducible exact OnlyChanges.refl _ _ | with_reducible assumption | with_reducible apply OnlyEnds.next | with_reducible apply OnlyEnds.ite | with_reducible apply updIn'_only | with_reducible refine OnlyChanges.foldl ?_ (fun _ _ _ => ?_) | with_reducible apply OnlyChanges.ite | split | (with_reducible apply OnlyChanges.upd <;> first | with_reducible exact fun _ => rfl | exact fun q => absurd (by decide) q | skip)
  all_goals decide

theorem execSync_only (h : Hdr) (p : List Byte) {s t_ : State} (e_ : execSync h p s = .next t_) : OnlyChanges (taken h ([.port, .roles, .fe, .store])) s t_ := by
  unfold taken
  split
  next w_ =>
    unfold execSync at e_
    injection e_ with e_
    subst e_
    exact hostCommand_ack _ _ _ _ w_ (by decide) (by decide) (by decide) (OnlyChanges.refl _ _)
  rename_i w_
  refine OnlyEnds.elim ?_ e_
  clear e_
  unfold execSync
  try dsimp only
  repeat' first | with_reducible exact OnlyChanges.refl _ _ | with_reducible assumption | with_reducible apply OnlyEnds.next | with_reducible apply OnlyEnds.ite | with_reducible refine hostCommand_only _ _ _ w_ ?_ ?_ ?_ (fun _ _ => ?_) | with_reducible apply syncCmd_only | with_reducible refine OnlyChanges.foldl ?_ (fun _ _ _ => ?_) | with_reducible apply OnlyChanges.ite | split | (with_reducible apply OnlyChanges.upd <;> first | with_reducible exact fun _ => rfl | exact fun q => absurd (by decide) q | skip)
  all_goals decide

theorem execSyncScheduled_only  {s t_ : State} (e_ : execSyncScheduled s = .next t_) : OnlyChanges ([.port, .fe, .store]) s t_ := by
  refine OnlyEnds.elim ?_ e_
  clear e_
  unfold execSyncScheduled
  try dsimp only
  repeat' first | with_reducible exact OnlyChanges.refl _ _ | with_reducible assumption | with_reducible apply OnlyEnds.next | with_reducible apply OnlyEnds.ite | with_reducible apply syncDone_only | with_reducible apply decimatorReset_only | with_reducible refine OnlyChanges.foldl ?_ (fun _ _ _ => ?_) | with_reducible apply OnlyChanges.ite | split | (with_reducible apply OnlyChanges.upd <;> first | with_reducible exact fun _ => rfl | exact fun q => absurd (by decide) q | skip)
  all_goals decide

theorem execMsyncEdge_only  {s t_ : State} (e_ : execMsyncEdge s = .next t_) : OnlyChanges ([.port, .fe, .store]) s t_ := by
  refine OnlyEnds.elim ?_ e_
  clear e_
  unfold execMsyncEdge
  try dsimp only
  repeat' first | with_reducible exact OnlyChanges.refl _ _ | with_reducible assumption | with_reducible apply OnlyEnds.next | with_reducible apply OnlyEnds.ite | with_reducible apply event_only | with_reducible refine OnlyChanges.foldl ?_ (fun _ _ _ => ?_) | with_reducible apply OnlyChanges.ite | split | (with_reducible apply OnlyChanges.upd <;> first | with_reducible exact fun _ => rfl | exact fun q => absurd (by decide) q | skip)
  all_goals decide

theorem execDecimatorReset_only  {s t_ : State} (e_ : execDecimatorReset s = .next t_) : OnlyChanges ([.port, .fe, .store]) s t_ := by
  refine OnlyEnds.elim ?_ e_
  clear e_
  unfold execDecimatorReset
  try dsimp only
  repeat' first | with_reducible exact OnlyChanges.refl _ _ | with_reducible assumption | with_reducible apply OnlyEnds.next | with_reducible apply OnlyEnds.ite | with_reducible apply syncDone_only | with_reducible apply decimatorReset_only | with_reducible refine OnlyChanges.foldl ?_ (fun _ _ _ => ?_) | with_reducible apply OnlyChanges.ite | split | (with_reducible apply OnlyChanges.upd <;> first | with_reducible exact fun _ => rfl | exact fun q => absurd (by decide) q | skip)
  all_goals decide

theorem execCoefLoad_only (h : Hdr) (p : List Byte) {s t_ : State} (e_ : execCoefLoad h p s = .next t_) : OnlyChanges (taken h ([.port, .roles, .fe])) s t_ := by
  unfold taken
  split
  next w_ =>
    unfold execCoefLoad at e_
    injection e_ with e_
    subst e_
    exact hostCommand_ack _ _ _ _ w_ (by decide) (by decide) (by decide) (OnlyChanges.refl _ _)
  rename_i w_
  refine OnlyEnds.elim ?_ e_
  clear e_
  unfold execCoefLoad
  try dsimp only
  repeat' first | with_reducible exact OnlyChanges.refl _ _ | with_reducible assumption | with_reducible apply OnlyEnds.next | with_reducible apply OnlyEnds.ite | with_reducible refine hostCommand_only _ _ _ w_ ?_ ?_ ?_ (fun _ _ => ?_) | with_reducible apply coefLoadCmd_only | with_reducible refine OnlyChanges.foldl ?_ (fun _ _ _ => ?_) | with_reducible apply OnlyChanges.ite | split | (with_reducible apply OnlyChanges.upd <;> first | with_reducible exact fun _ => rfl | exact fun q => absurd (by decide) q | skip)
  all_goals decide

theorem execPathSelect_only (h : Hdr) (p : List Byte) {s t_ : State} (e_ : execPathSelect h p s = .next t_) : OnlyChanges (taken h ([.port, .roles, .fe])) s t_ := by
  unfold taken
  split
  next w_ =>
    unfold execPathSelect at e_
    injection e_ with e_
    subst e_
    exact hostCommand_ack _ _ _ _ w_ (by decide) (by decide) (by decide) (OnlyChanges.refl _ _)
  rename_i w_
  refine OnlyEnds.elim ?_ e_
  clear e_
  unfold execPathSelect
  try dsimp only
  repeat' first | with_reducible exact OnlyChanges.refl _ _ | with_reducible assumption | with_reducible apply OnlyEnds.next | with_reducible apply OnlyEnds.ite | with_reducible refine hostCommand_only _ _ _ w_ ?_ ?_ ?_ (fun _ _ => ?_) | with_reducible apply pathSelectCmd_only | with_reducible refine OnlyChanges.foldl ?_ (fun _ _ _ => ?_) | with_reducible apply OnlyChanges.ite | split | (with_reducible apply OnlyChanges.upd <;> first | with_reducible exact fun _ => rfl | exact fun q => absurd (by decide) q | skip)
  all_goals decide

theorem execFadeDone_only (outlet path input : Nat) {s t_ : State} (e_ : execFadeDone outlet path input s = .next t_) : OnlyChanges ([.port, .fe, .store]) s t_ := by
  refine OnlyEnds.elim ?_ e_
  clear e_
  unfold execFadeDone
  try dsimp only
  repeat' first | with_reducible exact OnlyChanges.refl _ _ | with_reducible assumption | with_reducible apply OnlyEnds.next | with_reducible apply OnlyEnds.ite | with_reducible apply emit_only | with_reducible refine OnlyChanges.foldl ?_ (fun _ _ _ => ?_) | with_reducible apply OnlyChanges.ite | split | (with_reducible apply OnlyChanges.upd <;> first | with_reducible exact fun _ => rfl | exact fun q => absurd (by decide) q | skip)
  all_goals decide

theorem execCaptureStart_only (h : Hdr) (p : List Byte) {s t_ : State} (e_ : execCaptureStart h p s = .next t_) : OnlyChanges (taken h ([.port, .roles, .fe])) s t_ := by
  unfold taken
  split
  next w_ =>
    unfold execCaptureStart at e_
    injection e_ with e_
    subst e_
    exact hostCommand_ack _ _ _ _ w_ (by decide) (by decide) (by decide) (OnlyChanges.refl _ _)
  rename_i w_
  refine OnlyEnds.elim ?_ e_
  clear e_
  unfold execCaptureStart
  try dsimp only
  repeat' first | with_reducible exact OnlyChanges.refl _ _ | with_reducible assumption | with_reducible apply OnlyEnds.next | with_reducible apply OnlyEnds.ite | with_reducible refine hostCommand_only _ _ _ w_ ?_ ?_ ?_ (fun _ _ => ?_) | with_reducible apply captureStartCmd_only | with_reducible refine OnlyChanges.foldl ?_ (fun _ _ _ => ?_) | with_reducible apply OnlyChanges.ite | split | (with_reducible apply OnlyChanges.upd <;> first | with_reducible exact fun _ => rfl | exact fun q => absurd (by decide) q | skip)
  all_goals decide

theorem execCaptureTrigger_only  {s t_ : State} (e_ : execCaptureTrigger s = .next t_) : OnlyChanges ([.fe]) s t_ := by
  refine OnlyEnds.elim ?_ e_
  clear e_
  unfold execCaptureTrigger
  try dsimp only
  repeat' first | with_reducible exact OnlyChanges.refl _ _ | with_reducible assumption | with_reducible apply OnlyEnds.next | with_reducible apply OnlyEnds.ite | with_reducible apply captureFast_only | with_reducible refine OnlyChanges.foldl ?_ (fun _ _ _ => ?_) | with_reducible apply OnlyChanges.ite | split | (with_reducible apply OnlyChanges.upd <;> first | with_reducible exact fun _ => rfl | exact fun q => absurd (by decide) q | skip)
  all_goals decide

theorem execCaptureDone_only  {s t_ : State} (e_ : execCaptureDone s = .next t_) : OnlyChanges ([.port, .fe, .store]) s t_ := by
  refine OnlyEnds.elim ?_ e_
  clear e_
  unfold execCaptureDone
  try dsimp only
  repeat' first | with_reducible exact OnlyChanges.refl _ _ | with_reducible assumption | with_reducible apply OnlyEnds.next | with_reducible apply OnlyEnds.ite | with_reducible apply captureEnd_only | with_reducible refine OnlyChanges.foldl ?_ (fun _ _ _ => ?_) | with_reducible apply OnlyChanges.ite | split | (with_reducible apply OnlyChanges.upd <;> first | with_reducible exact fun _ => rfl | exact fun q => absurd (by decide) q | skip)
  all_goals decide

theorem execPlumbStepBoundary_only  {s t_ : State} (e_ : execPlumbStepBoundary s = .next t_) : OnlyChanges ([.fe]) s t_ := by
  refine OnlyEnds.elim ?_ e_
  clear e_
  unfold execPlumbStepBoundary
  try dsimp only
  repeat' first | with_reducible exact OnlyChanges.refl _ _ | with_reducible assumption | with_reducible apply OnlyEnds.next | with_reducible apply OnlyEnds.ite | with_reducible refine OnlyChanges.foldl ?_ (fun _ _ _ => ?_) | with_reducible apply OnlyChanges.ite | split | (with_reducible apply OnlyChanges.upd <;> first | with_reducible exact fun _ => rfl | exact fun q => absurd (by decide) q | skip)
  all_goals decide

theorem execPlumbPeriodEnd_only  {s t_ : State} (e_ : execPlumbPeriodEnd s = .next t_) : OnlyChanges ([.port, .ease, .fe, .billing, .link, .sw, .store]) s t_ := by
  refine OnlyEnds.elim ?_ e_
  clear e_
  unfold execPlumbPeriodEnd
  try dsimp only
  repeat' first | with_reducible exact OnlyChanges.refl _ _ | with_reducible assumption | with_reducible apply OnlyEnds.next | with_reducible apply OnlyEnds.ite | with_reducible apply judgePeriod_only | with_reducible apply updateCorr_only | with_reducible refine OnlyChanges.foldl ?_ (fun _ _ _ => ?_) | with_reducible apply OnlyChanges.ite | split | (with_reducible apply OnlyChanges.upd <;> first | with_reducible exact fun _ => rfl | exact fun q => absurd (by decide) q | skip)
  all_goals decide

theorem execPwmLeaveRetry_only (outlet : Nat) {s t_ : State} (e_ : execPwmLeaveRetry outlet s = .next t_) : OnlyChanges ([.ease, .link]) s t_ := by
  refine OnlyEnds.elim ?_ e_
  clear e_
  unfold execPwmLeaveRetry
  try dsimp only
  repeat' first | with_reducible exact OnlyChanges.refl _ _ | with_reducible assumption | with_reducible apply OnlyEnds.next | with_reducible apply OnlyEnds.ite | with_reducible apply connect_only | with_reducible apply updLk_only | with_reducible refine OnlyChanges.foldl ?_ (fun _ _ _ => ?_) | with_reducible apply OnlyChanges.ite | split | (with_reducible apply OnlyChanges.upd <;> first | with_reducible exact fun _ => rfl | exact fun q => absurd (by decide) q | skip)
  all_goals decide

theorem execPilotRestartEnd_only (outlet : Nat) {s t_ : State} (e_ : execPilotRestartEnd outlet s = .next t_) : OnlyChanges ([.link]) s t_ := by
  refine OnlyEnds.elim ?_ e_
  clear e_
  unfold execPilotRestartEnd
  try dsimp only
  repeat' first | with_reducible exact OnlyChanges.refl _ _ | with_reducible assumption | with_reducible apply OnlyEnds.next | with_reducible apply OnlyEnds.ite | with_reducible apply updLk_only | with_reducible refine OnlyChanges.foldl ?_ (fun _ _ _ => ?_) | with_reducible apply OnlyChanges.ite | split | (with_reducible apply OnlyChanges.upd <;> first | with_reducible exact fun _ => rfl | exact fun q => absurd (by decide) q | skip)
  all_goals decide

theorem execAssociationWindowEnd_only (outlet : Nat) {s t_ : State} (e_ : execAssociationWindowEnd outlet s = .next t_) : OnlyChanges ([.port, .ease, .link, .store]) s t_ := by
  refine OnlyEnds.elim ?_ e_
  clear e_
  unfold execAssociationWindowEnd
  try dsimp only
  repeat' first | with_reducible exact OnlyChanges.refl _ _ | with_reducible assumption | with_reducible apply OnlyEnds.next | with_reducible apply OnlyEnds.ite | with_reducible apply pilotRestart_only | with_reducible refine OnlyChanges.foldl ?_ (fun _ _ _ => ?_) | with_reducible apply OnlyChanges.ite | split | (with_reducible apply OnlyChanges.upd <;> first | with_reducible exact fun _ => rfl | exact fun q => absurd (by decide) q | skip)
  all_goals decide

theorem execPilotStateChange_only (pl : Plateau) {s t_ : State} (e_ : execPilotStateChange pl s = .next t_) : OnlyChanges ([.port, .ease, .billing, .link, .sw, .store]) s t_ := by
  refine OnlyEnds.elim ?_ e_
  clear e_
  unfold execPilotStateChange
  try dsimp only
  repeat' first | with_reducible exact OnlyChanges.refl _ _ | with_reducible assumption | with_reducible apply OnlyEnds.next | with_reducible apply OnlyEnds.ite | with_reducible apply updLk_only | with_reducible apply diodePeriod_only | with_reducible apply pilotFault_only | with_reducible apply negativePlateau_only | with_reducible apply positivePlateau_only | with_reducible refine OnlyChanges.foldl ?_ (fun _ _ _ => ?_) | with_reducible apply OnlyChanges.ite | split | (with_reducible apply OnlyChanges.upd <;> first | with_reducible exact fun _ => rfl | exact fun q => absurd (by decide) q | skip)
  all_goals decide

theorem execPpChange_only (outlet mv : Nat) {s t_ : State} (e_ : execPpChange outlet mv s = .next t_) : OnlyChanges ([.port, .ease, .billing, .link, .sw, .store]) s t_ := by
  refine OnlyEnds.elim ?_ e_
  clear e_
  unfold execPpChange
  try dsimp only
  repeat' first | with_reducible exact OnlyChanges.refl _ _ | with_reducible assumption | with_reducible apply OnlyEnds.next | with_reducible apply OnlyEnds.ite | with_reducible apply updLk_only | with_reducible apply stopLink_only | with_reducible apply dropLeave_only | with_reducible apply connect_only | with_reducible refine OnlyChanges.foldl ?_ (fun _ _ _ => ?_) | with_reducible apply OnlyChanges.ite | split | (with_reducible apply OnlyChanges.upd <;> first | with_reducible exact fun _ => rfl | exact fun q => absurd (by decide) q | skip)
  all_goals decide

theorem execCmSlacParmReq_only (mac run : Nat) (atten : List (Option Nat)) {s t_ : State} (e_ : execCmSlacParmReq mac run atten s = .next t_) : OnlyChanges ([.factory, .port, .ease, .link, .store]) s t_ := by
  refine OnlyEnds.elim ?_ e_
  clear e_
  unfold execCmSlacParmReq
  try dsimp only
  repeat' first | with_reducible exact OnlyChanges.refl _ _ | with_reducible assumption | with_reducible apply OnlyEnds.next | with_reducible apply OnlyEnds.ite | with_reducible apply tell_only | with_reducible apply updSet_only | with_reducible apply marginOr_only | with_reducible apply countAmbiguous_only | with_reducible apply ambiguous_only | with_reducible apply updLk_only | with_reducible refine OnlyChanges.foldl ?_ (fun _ _ _ => ?_) | with_reducible apply OnlyChanges.ite | split | (with_reducible apply OnlyChanges.upd <;> first | with_reducible exact fun _ => rfl | exact fun q => absurd (by decide) q | skip)
  all_goals decide

theorem execSoundingReceived_only (mac run : Nat) (atten : List (List Nat)) {s t_ : State} (e_ : execSoundingReceived mac run atten s = .next t_) : OnlyChanges ([.link]) s t_ := by
  refine OnlyEnds.elim ?_ e_
  clear e_
  unfold execSoundingReceived
  try dsimp only
  repeat' first | with_reducible exact OnlyChanges.refl _ _ | with_reducible assumption | with_reducible apply OnlyEnds.next | with_reducible apply OnlyEnds.ite | with_reducible apply updSet_only | with_reducible refine OnlyChanges.foldl ?_ (fun _ _ _ => ?_) | with_reducible apply OnlyChanges.ite | split | (with_reducible apply OnlyChanges.upd <;> first | with_reducible exact fun _ => rfl | exact fun q => absurd (by decide) q | skip)
  all_goals decide

theorem execAttenCollectionEnd_only (mac run : Nat) {s t_ : State} (e_ : execAttenCollectionEnd mac run s = .next t_) : OnlyChanges ([.factory, .port, .ease, .link, .store]) s t_ := by
  refine OnlyEnds.elim ?_ e_
  clear e_
  unfold execAttenCollectionEnd
  try dsimp only
  repeat' first | with_reducible exact OnlyChanges.refl _ _ | with_reducible assumption | with_reducible apply OnlyEnds.next | with_reducible apply OnlyEnds.ite | with_reducible apply countAmbiguous_only | with_reducible apply ambiguous_only | with_reducible apply endSet_only | with_reducible apply crosstalk_only | with_reducible apply tell_only | with_reducible apply updSet_only | with_reducible apply marginOr_only | with_reducible refine OnlyChanges.foldl ?_ (fun _ _ _ => ?_) | with_reducible apply OnlyChanges.ite | split | (with_reducible apply OnlyChanges.upd <;> first | with_reducible exact fun _ => rfl | exact fun q => absurd (by decide) q | skip)
  all_goals decide

theorem execCmSlacMatchReq_only (mac run : Nat) {s t_ : State} (e_ : execCmSlacMatchReq mac run s = .next t_) : OnlyChanges ([.factory, .link]) s t_ := by
  refine OnlyEnds.elim ?_ e_
  clear e_
  unfold execCmSlacMatchReq
  try dsimp only
  repeat' first | with_reducible exact OnlyChanges.refl _ _ | with_reducible assumption | with_reducible apply OnlyEnds.next | with_reducible apply OnlyEnds.ite | with_reducible apply tell_only | with_reducible apply updSet_only | with_reducible apply updLk_only | with_reducible apply State.drawFree_only | with_reducible refine OnlyChanges.foldl ?_ (fun _ _ _ => ?_) | with_reducible apply OnlyChanges.ite | split | (with_reducible apply OnlyChanges.upd <;> first | with_reducible exact fun _ => rfl | exact fun q => absurd (by decide) q | skip)
  all_goals decide

theorem execCmValidateReq_only (outlet mac : Nat) {s t_ : State} (e_ : execCmValidateReq outlet mac s = .next t_) : OnlyChanges ([.link]) s t_ := by
  refine OnlyEnds.elim ?_ e_
  clear e_
  unfold execCmValidateReq
  try dsimp only
  repeat' first | with_reducible exact OnlyChanges.refl _ _ | with_reducible assumption | with_reducible apply OnlyEnds.next | with_reducible apply OnlyEnds.ite | with_reducible apply tell_only | with_reducible refine OnlyChanges.foldl ?_ (fun _ _ _ => ?_) | with_reducible apply OnlyChanges.ite | split | (with_reducible apply OnlyChanges.upd <;> first | with_reducible exact fun _ => rfl | exact fun q => absurd (by decide) q | skip)
  all_goals decide

theorem execVehicleJoin_only (mac run : Nat) {s t_ : State} (e_ : execVehicleJoin mac run s = .next t_) : OnlyChanges ([.port, .link, .store]) s t_ := by
  refine OnlyEnds.elim ?_ e_
  clear e_
  unfold execVehicleJoin
  try dsimp only
  repeat' first | with_reducible exact OnlyChanges.refl _ _ | with_reducible assumption | with_reducible apply OnlyEnds.next | with_reducible apply OnlyEnds.ite | with_reducible apply event_only | with_reducible apply bindLink_only | with_reducible apply endSet_only | with_reducible refine OnlyChanges.foldl ?_ (fun _ _ _ => ?_) | with_reducible apply OnlyChanges.ite | split | (with_reducible apply OnlyChanges.upd <;> first | with_reducible exact fun _ => rfl | exact fun q => absurd (by decide) q | skip)
  all_goals decide

theorem execJoinTimeout_only (mac run : Nat) {s t_ : State} (e_ : execJoinTimeout mac run s = .next t_) : OnlyChanges ([.port, .ease, .link, .store]) s t_ := by
  refine OnlyEnds.elim ?_ e_
  clear e_
  unfold execJoinTimeout
  try dsimp only
  repeat' first | with_reducible exact OnlyChanges.refl _ _ | with_reducible assumption | with_reducible apply OnlyEnds.next | with_reducible apply OnlyEnds.ite | with_reducible apply updLk_only | with_reducible apply endSet_only | with_reducible apply ambiguous_only | with_reducible apply countAmbiguous_only | with_reducible apply pilotRestart_only | with_reducible refine OnlyChanges.foldl ?_ (fun _ _ _ => ?_) | with_reducible apply OnlyChanges.ite | split | (with_reducible apply OnlyChanges.upd <;> first | with_reducible exact fun _ => rfl | exact fun q => absurd (by decide) q | skip)
  all_goals decide

theorem execSoundingSetTimeout_only (mac run : Nat) {s t_ : State} (e_ : execSoundingSetTimeout mac run s = .next t_) : OnlyChanges ([.link]) s t_ := by
  refine OnlyEnds.elim ?_ e_
  clear e_
  unfold execSoundingSetTimeout
  try dsimp only
  repeat' first | with_reducible exact OnlyChanges.refl _ _ | with_reducible assumption | with_reducible apply OnlyEnds.next | with_reducible apply OnlyEnds.ite | with_reducible apply endSet_only | with_reducible refine OnlyChanges.foldl ?_ (fun _ _ _ => ?_) | with_reducible apply OnlyChanges.ite | split | (with_reducible apply OnlyChanges.upd <;> first | with_reducible exact fun _ => rfl | exact fun q => absurd (by decide) q | skip)
  all_goals decide

theorem execT1sLinkUp_only (outlet mac : Nat) {s t_ : State} (e_ : execT1sLinkUp outlet mac s = .next t_) : OnlyChanges ([.port, .link, .store]) s t_ := by
  refine OnlyEnds.elim ?_ e_
  clear e_
  unfold execT1sLinkUp
  try dsimp only
  repeat' first | with_reducible exact OnlyChanges.refl _ _ | with_reducible assumption | with_reducible apply OnlyEnds.next | with_reducible apply OnlyEnds.ite | with_reducible apply updLk_only | with_reducible apply event_only | with_reducible apply bindLink_only | with_reducible refine OnlyChanges.foldl ?_ (fun _ _ _ => ?_) | with_reducible apply OnlyChanges.ite | split | (with_reducible apply OnlyChanges.upd <;> first | with_reducible exact fun _ => rfl | exact fun q => absurd (by decide) q | skip)
  all_goals decide

theorem execT1sLinkLoss_only (outlet : Nat) {s t_ : State} (e_ : execT1sLinkLoss outlet s = .next t_) : OnlyChanges ([.port, .ease, .billing, .link, .sw, .store]) s t_ := by
  refine OnlyEnds.elim ?_ e_
  clear e_
  unfold execT1sLinkLoss
  try dsimp only
  repeat' first | with_reducible exact OnlyChanges.refl _ _ | with_reducible assumption | with_reducible apply OnlyEnds.next | with_reducible apply OnlyEnds.ite | with_reducible apply stopLink_only | with_reducible apply updLk_only | with_reducible refine OnlyChanges.foldl ?_ (fun _ _ _ => ?_) | with_reducible apply OnlyChanges.ite | split | (with_reducible apply OnlyChanges.upd <;> first | with_reducible exact fun _ => rfl | exact fun q => absurd (by decide) q | skip)
  all_goals decide

theorem execSupportedAppProtocolReq_only (outlet : Nat) (offered : List Nat) {s t_ : State} (e_ : execSupportedAppProtocolReq outlet offered s = .next t_) : OnlyChanges ([.port, .ease, .billing, .link, .sw, .store]) s t_ := by
  refine OnlyEnds.elim ?_ e_
  clear e_
  unfold execSupportedAppProtocolReq
  try dsimp only
  repeat' first | with_reducible exact OnlyChanges.refl _ _ | with_reducible assumption | with_reducible apply OnlyEnds.next | with_reducible apply OnlyEnds.ite | with_reducible apply tell_only | with_reducible apply updLk_only | with_reducible apply stopLink_only | with_reducible refine OnlyChanges.foldl ?_ (fun _ _ _ => ?_) | with_reducible apply OnlyChanges.ite | split | (with_reducible apply OnlyChanges.upd <;> first | with_reducible exact fun _ => rfl | exact fun q => absurd (by decide) q | skip)
  all_goals decide

theorem execProtocolTimerExpiry_only (outlet : Nat) {s t_ : State} (e_ : execProtocolTimerExpiry outlet s = .next t_) : OnlyChanges ([.port, .ease, .billing, .link, .sw, .store]) s t_ := by
  refine OnlyEnds.elim ?_ e_
  clear e_
  unfold execProtocolTimerExpiry
  try dsimp only
  repeat' first | with_reducible exact OnlyChanges.refl _ _ | with_reducible assumption | with_reducible apply OnlyEnds.next | with_reducible apply OnlyEnds.ite | with_reducible apply stopLink_only | with_reducible refine OnlyChanges.foldl ?_ (fun _ _ _ => ?_) | with_reducible apply OnlyChanges.ite | split | (with_reducible apply OnlyChanges.upd <;> first | with_reducible exact fun _ => rfl | exact fun q => absurd (by decide) q | skip)
  all_goals decide

theorem execV2gRequest_only (outlet kind : Nat) {s t_ : State} (e_ : execV2gRequest outlet kind s = .next t_) : OnlyChanges ([.port, .ease, .billing, .link, .sw, .store]) s t_ := by
  refine OnlyEnds.elim ?_ e_
  clear e_
  unfold execV2gRequest
  try dsimp only
  repeat' first | with_reducible exact OnlyChanges.refl _ _ | with_reducible assumption | with_reducible apply OnlyEnds.next | with_reducible apply OnlyEnds.ite | with_reducible apply updLk_only | with_reducible apply tell_only | with_reducible apply stopLink_only | with_reducible refine OnlyChanges.foldl ?_ (fun _ _ _ => ?_) | with_reducible apply OnlyChanges.ite | split | (with_reducible apply OnlyChanges.upd <;> first | with_reducible exact fun _ => rfl | exact fun q => absurd (by decide) q | skip)
  all_goals decide

theorem execAuthorizationReq_only (outlet mac : Nat) (method : Nat) (contract chain : List Byte) {s t_ : State} (e_ : execAuthorizationReq outlet mac method contract chain s = .next t_) : OnlyChanges ([.port, .link, .store]) s t_ := by
  refine OnlyEnds.elim ?_ e_
  clear e_
  unfold execAuthorizationReq
  try dsimp only
  repeat' first | with_reducible exact OnlyChanges.refl _ _ | with_reducible assumption | with_reducible apply OnlyEnds.next | with_reducible apply OnlyEnds.ite | with_reducible apply updLk_only | with_reducible apply tell_only | with_reducible apply newAuth_only | with_reducible refine OnlyChanges.foldl ?_ (fun _ _ _ => ?_) | with_reducible apply OnlyChanges.ite | split | (with_reducible apply OnlyChanges.upd <;> first | with_reducible exact fun _ => rfl | exact fun q => absurd (by decide) q | skip)
  all_goals decide

theorem execRefuseHoldExpiry_only (outlet : Nat) {s t_ : State} (e_ : execRefuseHoldExpiry outlet s = .next t_) : OnlyChanges ([.port, .ease, .link, .store]) s t_ := by
  refine OnlyEnds.elim ?_ e_
  clear e_
  unfold execRefuseHoldExpiry
  try dsimp only
  repeat' first | with_reducible exact OnlyChanges.refl _ _ | with_reducible assumption | with_reducible apply OnlyEnds.next | with_reducible apply OnlyEnds.ite | with_reducible apply event_only | with_reducible apply linkEnd_only | with_reducible apply tell_only | with_reducible refine OnlyChanges.foldl ?_ (fun _ _ _ => ?_) | with_reducible apply OnlyChanges.ite | split | (with_reducible apply OnlyChanges.upd <;> first | with_reducible exact fun _ => rfl | exact fun q => absurd (by decide) q | skip)
  all_goals decide

theorem execAuthDeadlineExpiry_only (outlet : Nat) {s t_ : State} (e_ : execAuthDeadlineExpiry outlet s = .next t_) : OnlyChanges ([.port, .ease, .link, .store]) s t_ := by
  refine OnlyEnds.elim ?_ e_
  clear e_
  unfold execAuthDeadlineExpiry
  try dsimp only
  repeat' first | with_reducible exact OnlyChanges.refl _ _ | with_reducible assumption | with_reducible apply OnlyEnds.next | with_reducible apply OnlyEnds.ite | with_reducible apply event_only | with_reducible apply linkEnd_only | with_reducible apply tell_only | with_reducible apply setAuth_only | with_reducible refine OnlyChanges.foldl ?_ (fun _ _ _ => ?_) | with_reducible apply OnlyChanges.ite | split | (with_reducible apply OnlyChanges.upd <;> first | with_reducible exact fun _ => rfl | exact fun q => absurd (by decide) q | skip)
  all_goals decide

theorem execAuthDecide_only (h : Hdr) (p : List Byte) {s t_ : State} (e_ : execAuthDecide h p s = .next t_) : OnlyChanges (taken h ([.port, .roles, .ease, .link, .store])) s t_ := by
  unfold taken
  split
  next w_ =>
    unfold execAuthDecide at e_
    injection e_ with e_
    subst e_
    exact hostCommand_ack _ _ _ _ w_ (by decide) (by decide) (by decide) (OnlyChanges.refl _ _)
  rename_i w_
  refine OnlyEnds.elim ?_ e_
  clear e_
  unfold execAuthDecide
  try dsimp only
  repeat' first | with_reducible exact OnlyChanges.refl _ _ | with_reducible assumption | with_reducible apply OnlyEnds.next | with_reducible apply OnlyEnds.ite | with_reducible refine hostCommand_only _ _ _ w_ ?_ ?_ ?_ (fun _ _ => ?_) | with_reducible apply authDecideCmd_only | with_reducible refine OnlyChanges.foldl ?_ (fun _ _ _ => ?_) | with_reducible apply OnlyChanges.ite | split | (with_reducible apply OnlyChanges.upd <;> first | with_reducible exact fun _ => rfl | exact fun q => absurd (by decide) q | skip)
  all_goals decide

theorem execLinkStop_only (h : Hdr) (p : List Byte) {s t_ : State} (e_ : execLinkStop h p s = .next t_) : OnlyChanges (taken h ([.port, .roles, .link])) s t_ := by
  unfold taken
  split
  next w_ =>
    unfold execLinkStop at e_
    injection e_ with e_
    subst e_
    exact hostCommand_ack _ _ _ _ w_ (by decide) (by decide) (by decide) (OnlyChanges.refl _ _)
  rename_i w_
  refine OnlyEnds.elim ?_ e_
  clear e_
  unfold execLinkStop
  try dsimp only
  repeat' first | with_reducible exact OnlyChanges.refl _ _ | with_reducible assumption | with_reducible apply OnlyEnds.next | with_reducible apply OnlyEnds.ite | with_reducible refine hostCommand_only _ _ _ w_ ?_ ?_ ?_ (fun _ _ => ?_) | with_reducible apply linkStopCmd_only | with_reducible refine OnlyChanges.foldl ?_ (fun _ _ _ => ?_) | with_reducible apply OnlyChanges.ite | split | (with_reducible apply OnlyChanges.upd <;> first | with_reducible exact fun _ => rfl | exact fun q => absurd (by decide) q | skip)
  all_goals decide

theorem execStopGraceExpiry_only (outlet : Nat) {s t_ : State} (e_ : execStopGraceExpiry outlet s = .next t_) : OnlyChanges ([.port, .ease, .billing, .link, .sw, .store]) s t_ := by
  refine OnlyEnds.elim ?_ e_
  clear e_
  unfold execStopGraceExpiry
  try dsimp only
  repeat' first | with_reducible exact OnlyChanges.refl _ _ | with_reducible assumption | with_reducible apply OnlyEnds.next | with_reducible apply OnlyEnds.ite | with_reducible apply stopLink_only | with_reducible apply updLk_only | with_reducible refine OnlyChanges.foldl ?_ (fun _ _ _ => ?_) | with_reducible apply OnlyChanges.ite | split | (with_reducible apply OnlyChanges.upd <;> first | with_reducible exact fun _ => rfl | exact fun q => absurd (by decide) q | skip)
  all_goals decide

theorem execSeccCsr_only (h : Hdr) (p : List Byte) {s t_ : State} (e_ : execSeccCsr h p s = .next t_) : OnlyChanges (taken h ([.factory, .port, .roles, .link])) s t_ := by
  unfold taken
  split
  next w_ =>
    unfold execSeccCsr at e_
    injection e_ with e_
    subst e_
    exact hostCommand_ack _ _ _ _ w_ (by decide) (by decide) (by decide) (OnlyChanges.refl _ _)
  rename_i w_
  refine OnlyEnds.elim ?_ e_
  clear e_
  unfold execSeccCsr
  try dsimp only
  repeat' first | with_reducible exact OnlyChanges.refl _ _ | with_reducible assumption | with_reducible apply OnlyEnds.next | with_reducible apply OnlyEnds.ite | with_reducible refine hostCommand_only _ _ _ w_ ?_ ?_ ?_ (fun _ _ => ?_) | with_reducible apply seccCsrCmd_only | with_reducible refine OnlyChanges.foldl ?_ (fun _ _ _ => ?_) | with_reducible apply OnlyChanges.ite | split | (with_reducible apply OnlyChanges.upd <;> first | with_reducible exact fun _ => rfl | exact fun q => absurd (by decide) q | skip)
  all_goals decide

theorem execSeccCertSet_only (h : Hdr) (p : List Byte) {s t_ : State} (e_ : execSeccCertSet h p s = .next t_) : OnlyChanges (taken h ([.port, .roles, .link])) s t_ := by
  unfold taken
  split
  next w_ =>
    unfold execSeccCertSet at e_
    injection e_ with e_
    subst e_
    exact hostCommand_ack _ _ _ _ w_ (by decide) (by decide) (by decide) (OnlyChanges.refl _ _)
  rename_i w_
  refine OnlyEnds.elim ?_ e_
  clear e_
  unfold execSeccCertSet
  try dsimp only
  repeat' first | with_reducible exact OnlyChanges.refl _ _ | with_reducible assumption | with_reducible apply OnlyEnds.next | with_reducible apply OnlyEnds.ite | with_reducible refine hostCommand_only _ _ _ w_ ?_ ?_ ?_ (fun _ _ => ?_) | with_reducible apply seccCertCmd_only | with_reducible refine OnlyChanges.foldl ?_ (fun _ _ _ => ?_) | with_reducible apply OnlyChanges.ite | split | (with_reducible apply OnlyChanges.upd <;> first | with_reducible exact fun _ => rfl | exact fun q => absurd (by decide) q | skip)
  all_goals decide

theorem execLoadLeaveRetry_only (ch : Nat) {s t_ : State} (e_ : execLoadLeaveRetry ch s = .next t_) : OnlyChanges ([.ease, .loads]) s t_ := by
  refine OnlyEnds.elim ?_ e_
  clear e_
  unfold execLoadLeaveRetry
  try dsimp only
  repeat' first | with_reducible exact OnlyChanges.refl _ _ | with_reducible assumption | with_reducible apply OnlyEnds.next | with_reducible apply OnlyEnds.ite | with_reducible apply updCh_only | with_reducible apply serveBank_only | with_reducible apply updBank_only | with_reducible refine OnlyChanges.foldl ?_ (fun _ _ _ => ?_) | with_reducible apply OnlyChanges.ite | split | (with_reducible apply OnlyChanges.upd <;> first | with_reducible exact fun _ => rfl | exact fun q => absurd (by decide) q | skip)
  all_goals decide

theorem execInrushWindowEnd_only (ch : Nat) {s t_ : State} (e_ : execInrushWindowEnd ch s = .next t_) : OnlyChanges ([.port, .ease, .loads, .store]) s t_ := by
  refine OnlyEnds.elim ?_ e_
  clear e_
  unfold execInrushWindowEnd
  try dsimp only
  repeat' first | with_reducible exact OnlyChanges.refl _ _ | with_reducible assumption | with_reducible apply OnlyEnds.next | with_reducible apply OnlyEnds.ite | with_reducible apply leavePeak_only | with_reducible apply serveBank_only | with_reducible apply chTo_only | with_reducible apply updCh_only | with_reducible refine OnlyChanges.foldl ?_ (fun _ _ _ => ?_) | with_reducible apply OnlyChanges.ite | split | (with_reducible apply OnlyChanges.upd <;> first | with_reducible exact fun _ => rfl | exact fun q => absurd (by decide) q | skip)
  all_goals decide

theorem execPwmPeriodBoundary_only (bank : Nat) {s t_ : State} (e_ : execPwmPeriodBoundary bank s = .next t_) : OnlyChanges ([.loads]) s t_ := by
  refine OnlyEnds.elim ?_ e_
  clear e_
  unfold execPwmPeriodBoundary
  try dsimp only
  repeat' first | with_reducible exact OnlyChanges.refl _ _ | with_reducible assumption | with_reducible apply OnlyEnds.next | with_reducible apply OnlyEnds.ite | with_reducible apply updCh_only | with_reducible apply updBank_only | with_reducible refine OnlyChanges.foldl ?_ (fun _ _ _ => ?_) | with_reducible apply OnlyChanges.ite | split | (with_reducible apply OnlyChanges.upd <;> first | with_reducible exact fun _ => rfl | exact fun q => absurd (by decide) q | skip)
  all_goals decide

theorem execThermalShutdown_only (ch ma : Nat) (temp : Int) {s t_ : State} (e_ : execThermalShutdown ch ma temp s = .next t_) : OnlyChanges ([.port, .ease, .loads, .store]) s t_ := by
  refine OnlyEnds.elim ?_ e_
  clear e_
  unfold execThermalShutdown
  try dsimp only
  repeat' first | with_reducible exact OnlyChanges.refl _ _ | with_reducible assumption | with_reducible apply OnlyEnds.next | with_reducible apply OnlyEnds.ite | with_reducible apply channelFault_only | with_reducible apply updCh_only | with_reducible refine OnlyChanges.foldl ?_ (fun _ _ _ => ?_) | with_reducible apply OnlyChanges.ite | split | (with_reducible apply OnlyChanges.upd <;> first | with_reducible exact fun _ => rfl | exact fun q => absurd (by decide) q | skip)
  all_goals decide

theorem execThermalLatchRelease_only (ch : Nat) (temp : Int) {s t_ : State} (e_ : execThermalLatchRelease ch temp s = .next t_) : OnlyChanges ([.loads]) s t_ := by
  refine OnlyEnds.elim ?_ e_
  clear e_
  unfold execThermalLatchRelease
  try dsimp only
  repeat' first | with_reducible exact OnlyChanges.refl _ _ | with_reducible assumption | with_reducible apply OnlyEnds.next | with_reducible apply OnlyEnds.ite | with_reducible apply updCh_only | with_reducible refine OnlyChanges.foldl ?_ (fun _ _ _ => ?_) | with_reducible apply OnlyChanges.ite | split | (with_reducible apply OnlyChanges.upd <;> first | with_reducible exact fun _ => rfl | exact fun q => absurd (by decide) q | skip)
  all_goals decide

theorem execChannelOverload_only (ch ma : Nat) (temp : Int) {s t_ : State} (e_ : execChannelOverload ch ma temp s = .next t_) : OnlyChanges ([.port, .ease, .loads, .store]) s t_ := by
  refine OnlyEnds.elim ?_ e_
  clear e_
  unfold execChannelOverload
  try dsimp only
  repeat' first | with_reducible exact OnlyChanges.refl _ _ | with_reducible assumption | with_reducible apply OnlyEnds.next | with_reducible apply OnlyEnds.ite | with_reducible apply channelFault_only | with_reducible refine OnlyChanges.foldl ?_ (fun _ _ _ => ?_) | with_reducible apply OnlyChanges.ite | split | (with_reducible apply OnlyChanges.upd <;> first | with_reducible exact fun _ => rfl | exact fun q => absurd (by decide) q | skip)
  all_goals decide

theorem execOpenLoadDetected_only (ch : Nat) {s t_ : State} (e_ : execOpenLoadDetected ch s = .next t_) : OnlyChanges ([.port, .loads, .store]) s t_ := by
  refine OnlyEnds.elim ?_ e_
  clear e_
  unfold execOpenLoadDetected
  try dsimp only
  repeat' first | with_reducible exact OnlyChanges.refl _ _ | with_reducible assumption | with_reducible apply OnlyEnds.next | with_reducible apply OnlyEnds.ite | with_reducible apply event_only | with_reducible apply updCh_only | with_reducible refine OnlyChanges.foldl ?_ (fun _ _ _ => ?_) | with_reducible apply OnlyChanges.ite | split | (with_reducible apply OnlyChanges.upd <;> first | with_reducible exact fun _ => rfl | exact fun q => absurd (by decide) q | skip)
  all_goals decide

theorem execOpenLoadCleared_only (ch : Nat) {s t_ : State} (e_ : execOpenLoadCleared ch s = .next t_) : OnlyChanges ([.port, .loads, .store]) s t_ := by
  refine OnlyEnds.elim ?_ e_
  clear e_
  unfold execOpenLoadCleared
  try dsimp only
  repeat' first | with_reducible exact OnlyChanges.refl _ _ | with_reducible assumption | with_reducible apply OnlyEnds.next | with_reducible apply OnlyEnds.ite | with_reducible apply event_only | with_reducible apply updCh_only | with_reducible refine OnlyChanges.foldl ?_ (fun _ _ _ => ?_) | with_reducible apply OnlyChanges.ite | split | (with_reducible apply OnlyChanges.upd <;> first | with_reducible exact fun _ => rfl | exact fun q => absurd (by decide) q | skip)
  all_goals decide

theorem execRetryWaitEnd_only (ch : Nat) {s t_ : State} (e_ : execRetryWaitEnd ch s = .next t_) : OnlyChanges ([.port, .ease, .loads, .store]) s t_ := by
  refine OnlyEnds.elim ?_ e_
  clear e_
  unfold execRetryWaitEnd
  try dsimp only
  repeat' first | with_reducible exact OnlyChanges.refl _ _ | with_reducible assumption | with_reducible apply OnlyEnds.next | with_reducible apply OnlyEnds.ite | with_reducible apply joinQueue_only | with_reducible apply overReleased_only | with_reducible apply updCh_only | with_reducible apply event_only | with_reducible apply chTo_only | with_reducible refine OnlyChanges.foldl ?_ (fun _ _ _ => ?_) | with_reducible apply OnlyChanges.ite | split | (with_reducible apply OnlyChanges.upd <;> first | with_reducible exact fun _ => rfl | exact fun q => absurd (by decide) q | skip)
  all_goals decide

theorem execRetriesReset_only (ch : Nat) {s t_ : State} (e_ : execRetriesReset ch s = .next t_) : OnlyChanges ([.loads]) s t_ := by
  refine OnlyEnds.elim ?_ e_
  clear e_
  unfold execRetriesReset
  try dsimp only
  repeat' first | with_reducible exact OnlyChanges.refl _ _ | with_reducible assumption | with_reducible apply OnlyEnds.next | with_reducible apply OnlyEnds.ite | with_reducible apply updCh_only | with_reducible refine OnlyChanges.foldl ?_ (fun _ _ _ => ?_) | with_reducible apply OnlyChanges.ite | split | (with_reducible apply OnlyChanges.upd <;> first | with_reducible exact fun _ => rfl | exact fun q => absurd (by decide) q | skip)
  all_goals decide

theorem execBankUndervoltage_only (bank vbbMv : Nat) {s t_ : State} (e_ : execBankUndervoltage bank vbbMv s = .next t_) : OnlyChanges ([.port, .ease, .loads, .store]) s t_ := by
  refine OnlyEnds.elim ?_ e_
  clear e_
  unfold execBankUndervoltage
  try dsimp only
  repeat' first | with_reducible exact OnlyChanges.refl _ _ | with_reducible assumption | with_reducible apply OnlyEnds.next | with_reducible apply OnlyEnds.ite | with_reducible apply updBank_only | with_reducible apply bankEvent_only | with_reducible apply holdBank_only | with_reducible refine OnlyChanges.foldl ?_ (fun _ _ _ => ?_) | with_reducible apply OnlyChanges.ite | split | (with_reducible apply OnlyChanges.upd <;> first | with_reducible exact fun _ => rfl | exact fun q => absurd (by decide) q | skip)
  all_goals decide

theorem execBankOvervoltage_only (bank vbbMv : Nat) {s t_ : State} (e_ : execBankOvervoltage bank vbbMv s = .next t_) : OnlyChanges ([.port, .ease, .loads, .store]) s t_ := by
  refine OnlyEnds.elim ?_ e_
  clear e_
  unfold execBankOvervoltage
  try dsimp only
  repeat' first | with_reducible exact OnlyChanges.refl _ _ | with_reducible assumption | with_reducible apply OnlyEnds.next | with_reducible apply OnlyEnds.ite | with_reducible apply bankEvent_only | with_reducible apply holdBank_only | with_reducible apply updBank_only | with_reducible refine OnlyChanges.foldl ?_ (fun _ _ _ => ?_) | with_reducible apply OnlyChanges.ite | split | (with_reducible apply OnlyChanges.upd <;> first | with_reducible exact fun _ => rfl | exact fun q => absurd (by decide) q | skip)
  all_goals decide

theorem execBankGroundLoss_only (bank vbbMv : Nat) {s t_ : State} (e_ : execBankGroundLoss bank vbbMv s = .next t_) : OnlyChanges ([.port, .ease, .loads, .store]) s t_ := by
  refine OnlyEnds.elim ?_ e_
  clear e_
  unfold execBankGroundLoss
  try dsimp only
  repeat' first | with_reducible exact OnlyChanges.refl _ _ | with_reducible assumption | with_reducible apply OnlyEnds.next | with_reducible apply OnlyEnds.ite | with_reducible apply bankEvent_only | with_reducible apply holdBank_only | with_reducible apply updBank_only | with_reducible refine OnlyChanges.foldl ?_ (fun _ _ _ => ?_) | with_reducible apply OnlyChanges.ite | split | (with_reducible apply OnlyChanges.upd <;> first | with_reducible exact fun _ => rfl | exact fun q => absurd (by decide) q | skip)
  all_goals decide

theorem execBankReverseSupply_only (bank : Nat) {s t_ : State} (e_ : execBankReverseSupply bank s = .next t_) : OnlyChanges ([.port, .ease, .loads, .store]) s t_ := by
  refine OnlyEnds.elim ?_ e_
  clear e_
  unfold execBankReverseSupply
  try dsimp only
  repeat' first | with_reducible exact OnlyChanges.refl _ _ | with_reducible assumption | with_reducible apply OnlyEnds.next | with_reducible apply OnlyEnds.ite | with_reducible apply bankEvent_only | with_reducible apply holdBank_only | with_reducible apply updBank_only | with_reducible refine OnlyChanges.foldl ?_ (fun _ _ _ => ?_) | with_reducible apply OnlyChanges.ite | split | (with_reducible apply OnlyChanges.upd <;> first | with_reducible exact fun _ => rfl | exact fun q => absurd (by decide) q | skip)
  all_goals decide

theorem execBankOverload_only (bank vbbMv : Nat) {s t_ : State} (e_ : execBankOverload bank vbbMv s = .next t_) : OnlyChanges ([.port, .ease, .loads, .store]) s t_ := by
  refine OnlyEnds.elim ?_ e_
  clear e_
  unfold execBankOverload
  try dsimp only
  repeat' first | with_reducible exact OnlyChanges.refl _ _ | with_reducible assumption | with_reducible apply OnlyEnds.next | with_reducible apply OnlyEnds.ite | with_reducible apply updBank_only | with_reducible apply channelFault_only | with_reducible apply bankEvent_only | with_reducible refine OnlyChanges.foldl ?_ (fun _ _ _ => ?_) | with_reducible apply OnlyChanges.ite | split | (with_reducible apply OnlyChanges.upd <;> first | with_reducible exact fun _ => rfl | exact fun q => absurd (by decide) q | skip)
  all_goals decide

theorem execBankHoldRelease_only (bank : Nat) (cause : Nat) (vbbMv : Nat) (good100ms : Bool) {s t_ : State} (e_ : execBankHoldRelease bank cause vbbMv good100ms s = .next t_) : OnlyChanges ([.port, .ease, .loads, .store]) s t_ := by
  refine OnlyEnds.elim ?_ e_
  clear e_
  unfold execBankHoldRelease
  try dsimp only
  repeat' first | with_reducible exact OnlyChanges.refl _ _ | with_reducible assumption | with_reducible apply OnlyEnds.next | with_reducible apply OnlyEnds.ite | with_reducible apply updBank_only | with_reducible apply releaseBank_only | with_reducible apply bankEvent_only | with_reducible refine OnlyChanges.foldl ?_ (fun _ _ _ => ?_) | with_reducible apply OnlyChanges.ite | split | (with_reducible apply OnlyChanges.upd <;> first | with_reducible exact fun _ => rfl | exact fun q => absurd (by decide) q | skip)
  all_goals decide

theorem execLoadSet_only (h : Hdr) (p : List Byte) {s t_ : State} (e_ : execLoadSet h p s = .next t_) : OnlyChanges (taken h ([.port, .roles, .ease, .loads, .store])) s t_ := by
  unfold taken
  split
  next w_ =>
    unfold execLoadSet at e_
    injection e_ with e_
    subst e_
    exact hostCommand_ack _ _ _ _ w_ (by decide) (by decide) (by decide) (OnlyChanges.refl _ _)
  rename_i w_
  refine OnlyEnds.elim ?_ e_
  clear e_
  unfold execLoadSet
  try dsimp only
  repeat' first | with_reducible exact OnlyChanges.refl _ _ | with_reducible assumption | with_reducible apply OnlyEnds.next | with_reducible apply OnlyEnds.ite | with_reducible refine hostCommand_only _ _ _ w_ ?_ ?_ ?_ (fun _ _ => ?_) | with_reducible apply loadSetCmd_only | with_reducible refine OnlyChanges.foldl ?_ (fun _ _ _ => ?_) | with_reducible apply OnlyChanges.ite | split | (with_reducible apply OnlyChanges.upd <;> first | with_reducible exact fun _ => rfl | exact fun q => absurd (by decide) q | skip)
  all_goals decide

theorem execLoadBankReset_only (h : Hdr) (p : List Byte) {s t_ : State} (e_ : execLoadBankReset h p s = .next t_) : OnlyChanges (taken h ([.port, .roles, .ease, .loads, .store])) s t_ := by
  unfold taken
  split
  next w_ =>
    unfold execLoadBankReset at e_
    injection e_ with e_
    subst e_
    exact hostCommand_ack _ _ _ _ w_ (by decide) (by decide) (by decide) (OnlyChanges.refl _ _)
  rename_i w_
  refine OnlyEnds.elim ?_ e_
  clear e_
  unfold execLoadBankReset
  try dsimp only
  repeat' first | with_reducible exact OnlyChanges.refl _ _ | with_reducible assumption | with_reducible apply OnlyEnds.next | with_reducible apply OnlyEnds.ite | with_reducible refine hostCommand_only _ _ _ w_ ?_ ?_ ?_ (fun _ _ => ?_) | with_reducible apply bankResetCmd_only | with_reducible refine OnlyChanges.foldl ?_ (fun _ _ _ => ?_) | with_reducible apply OnlyChanges.ite | split | (with_reducible apply OnlyChanges.upd <;> first | with_reducible exact fun _ => rfl | exact fun q => absurd (by decide) q | skip)
  all_goals decide

theorem execNeighbourUnusable_only (node : Nat) {s t_ : State} (e_ : execNeighbourUnusable node s = .next t_) : OnlyChanges ([.port, .trv, .store]) s t_ := by
  refine OnlyEnds.elim ?_ e_
  clear e_
  unfold execNeighbourUnusable
  try dsimp only
  repeat' first | with_reducible exact OnlyChanges.refl _ _ | with_reducible assumption | with_reducible apply OnlyEnds.next | with_reducible apply OnlyEnds.ite | with_reducible apply neighbourLost_only | with_reducible refine OnlyChanges.foldl ?_ (fun _ _ _ => ?_) | with_reducible apply OnlyChanges.ite | split | (with_reducible apply OnlyChanges.upd <;> first | with_reducible exact fun _ => rfl | exact fun q => absurd (by decide) q | skip)
  all_goals decide

theorem execRoutingWindowEnd_only  {s t_ : State} (e_ : execRoutingWindowEnd s = .next t_) : OnlyChanges ([.port, .trv, .store]) s t_ := by
  refine OnlyEnds.elim ?_ e_
  clear e_
  unfold execRoutingWindowEnd
  try dsimp only
  repeat' first | with_reducible exact OnlyChanges.refl _ _ | with_reducible assumption | with_reducible apply OnlyEnds.next | with_reducible apply OnlyEnds.ite | with_reducible apply recompute_only | with_reducible refine OnlyChanges.foldl ?_ (fun _ _ _ => ?_) | with_reducible apply OnlyChanges.ite | split | (with_reducible apply OnlyChanges.upd <;> first | with_reducible exact fun _ => rfl | exact fun q => absurd (by decide) q | skip)
  all_goals decide

theorem execTrvPacketReceived_only (b : List Byte) {s t_ : State} (e_ : execTrvPacketReceived b s = .next t_) : OnlyChanges ([.port, .trv, .store]) s t_ := by
  refine OnlyEnds.elim ?_ e_
  clear e_
  unfold execTrvPacketReceived
  try dsimp only
  repeat' first | with_reducible exact OnlyChanges.refl _ _ | with_reducible assumption | with_reducible apply OnlyEnds.next | with_reducible apply OnlyEnds.ite | with_reducible apply screenPacket_only | with_reducible apply takePacket_only | with_reducible refine OnlyChanges.foldl ?_ (fun _ _ _ => ?_) | with_reducible apply OnlyChanges.ite | split | (with_reducible apply OnlyChanges.upd <;> first | with_reducible exact fun _ => rfl | exact fun q => absurd (by decide) q | skip)
  all_goals decide

theorem execNoRouteDrop_only (tag : Nat) {s t_ : State} (e_ : execNoRouteDrop tag s = .next t_) : OnlyChanges ([.port, .trv, .store]) s t_ := by
  refine OnlyEnds.elim ?_ e_
  clear e_
  unfold execNoRouteDrop
  try dsimp only
  repeat' first | with_reducible exact OnlyChanges.refl _ _ | with_reducible assumption | with_reducible apply OnlyEnds.next | with_reducible apply OnlyEnds.ite | with_reducible apply dropPacket_only | with_reducible refine OnlyChanges.foldl ?_ (fun _ _ _ => ?_) | with_reducible apply OnlyChanges.ite | split | (with_reducible apply OnlyChanges.upd <;> first | with_reducible exact fun _ => rfl | exact fun q => absurd (by decide) q | skip)
  all_goals decide

theorem execContentionAccess_only (backoff : Nat) {s t_ : State} (e_ : execContentionAccess backoff s = .next t_) : OnlyChanges ([.port, .trv, .store]) s t_ := by
  refine OnlyEnds.elim ?_ e_
  clear e_
  unfold execContentionAccess
  try dsimp only
  repeat' first | with_reducible exact OnlyChanges.refl _ _ | with_reducible assumption | with_reducible apply OnlyEnds.next | with_reducible apply OnlyEnds.ite | with_reducible apply beginTx_only | with_reducible apply sendBroadcast_only | with_reducible apply sendSegments_only | with_reducible refine OnlyChanges.foldl ?_ (fun _ _ _ => ?_) | with_reducible apply OnlyChanges.ite | split | (with_reducible apply OnlyChanges.upd <;> first | with_reducible exact fun _ => rfl | exact fun q => absurd (by decide) q | skip)
  all_goals decide

theorem execTrvFrameReceived_only (f : TrvFrameIn) {s t_ : State} (e_ : execTrvFrameReceived f s = .next t_) : OnlyChanges ([.trv]) s t_ := by
  refine OnlyEnds.elim ?_ e_
  clear e_
  unfold execTrvFrameReceived
  try dsimp only
  repeat' first | with_reducible exact OnlyChanges.refl _ _ | with_reducible assumption | with_reducible apply OnlyEnds.next | with_reducible apply OnlyEnds.ite | with_reducible apply countFrame_only | with_reducible apply hearFrame_only | with_reducible apply sendAck_only | with_reducible apply takeFrame_only | with_reducible refine OnlyChanges.foldl ?_ (fun _ _ _ => ?_) | with_reducible apply OnlyChanges.ite | split | (with_reducible apply OnlyChanges.upd <;> first | with_reducible exact fun _ => rfl | exact fun q => absurd (by decide) q | skip)
  all_goals decide

theorem execSelectiveAckReceived_only (fc : List Byte) {s t_ : State} (e_ : execSelectiveAckReceived fc s = .next t_) : OnlyChanges ([.port, .trv, .store]) s t_ := by
  refine OnlyEnds.elim ?_ e_
  clear e_
  unfold execSelectiveAckReceived
  try dsimp only
  repeat' first | with_reducible exact OnlyChanges.refl _ _ | with_reducible assumption | with_reducible apply OnlyEnds.next | with_reducible apply OnlyEnds.ite | with_reducible apply countFrame_only | with_reducible apply hearFrame_only | with_reducible apply ackTakenBy_only | with_reducible refine OnlyChanges.foldl ?_ (fun _ _ _ => ?_) | with_reducible apply OnlyChanges.ite | split | (with_reducible apply OnlyChanges.upd <;> first | with_reducible exact fun _ => rfl | exact fun q => absurd (by decide) q | skip)
  all_goals decide

theorem execSelectiveAckMissing_only (dst : Nat) (frameSeq : Byte) {s t_ : State} (e_ : execSelectiveAckMissing dst frameSeq s = .next t_) : OnlyChanges ([.port, .trv, .store]) s t_ := by
  refine OnlyEnds.elim ?_ e_
  clear e_
  unfold execSelectiveAckMissing
  try dsimp only
  repeat' first | with_reducible exact OnlyChanges.refl _ _ | with_reducible assumption | with_reducible apply OnlyEnds.next | with_reducible apply OnlyEnds.ite | with_reducible apply segmentsLeft_only | with_reducible refine OnlyChanges.foldl ?_ (fun _ _ _ => ?_) | with_reducible apply OnlyChanges.ite | split | (with_reducible apply OnlyChanges.upd <;> first | with_reducible exact fun _ => rfl | exact fun q => absurd (by decide) q | skip)
  all_goals decide

theorem execDatumEdge_only (rising : Bool) (gridMhz phaseDeg : Nat) {s t_ : State} (e_ : execDatumEdge rising gridMhz phaseDeg s = .next t_) : OnlyChanges ([.port, .trv, .store]) s t_ := by
  refine OnlyEnds.elim ?_ e_
  clear e_
  unfold execDatumEdge
  try dsimp only
  repeat' first | with_reducible exact OnlyChanges.refl _ _ | with_reducible assumption | with_reducible apply OnlyEnds.next | with_reducible apply OnlyEnds.ite | with_reducible apply datumTo_only | with_reducible refine OnlyChanges.foldl ?_ (fun _ _ _ => ?_) | with_reducible apply OnlyChanges.ite | split | (with_reducible apply OnlyChanges.upd <;> first | with_reducible exact fun _ => rfl | exact fun q => absurd (by decide) q | skip)
  all_goals decide

theorem execDatumLoss_only  {s t_ : State} (e_ : execDatumLoss s = .next t_) : OnlyChanges ([.port, .trv, .store]) s t_ := by
  refine OnlyEnds.elim ?_ e_
  clear e_
  unfold execDatumLoss
  try dsimp only
  repeat' first | with_reducible exact OnlyChanges.refl _ _ | with_reducible assumption | with_reducible apply OnlyEnds.next | with_reducible apply OnlyEnds.ite | with_reducible apply datumTo_only | with_reducible refine OnlyChanges.foldl ?_ (fun _ _ _ => ?_) | with_reducible apply OnlyChanges.ite | split | (with_reducible apply OnlyChanges.upd <;> first | with_reducible exact fun _ => rfl | exact fun q => absurd (by decide) q | skip)
  all_goals decide

theorem execBeaconSlot_only (slot : Nat) {s t_ : State} (e_ : execBeaconSlot slot s = .next t_) : OnlyChanges ([.factory, .trv]) s t_ := by
  refine OnlyEnds.elim ?_ e_
  clear e_
  unfold execBeaconSlot
  try dsimp only
  repeat' first | with_reducible exact OnlyChanges.refl _ _ | with_reducible assumption | with_reducible apply OnlyEnds.next | with_reducible apply OnlyEnds.ite | with_reducible apply sendBeacon_only | with_reducible refine OnlyChanges.foldl ?_ (fun _ _ _ => ?_) | with_reducible apply OnlyChanges.ite | split | (with_reducible apply OnlyChanges.upd <;> first | with_reducible exact fun _ => rfl | exact fun q => absurd (by decide) q | skip)
  all_goals decide

theorem execBeaconReceived_only (b : BeaconIn) {s t_ : State} (e_ : execBeaconReceived b s = .next t_) : OnlyChanges ([.factory, .port, .trv, .store]) s t_ := by
  refine OnlyEnds.elim ?_ e_
  clear e_
  unfold execBeaconReceived
  try dsimp only
  repeat' first | with_reducible exact OnlyChanges.refl _ _ | with_reducible assumption | with_reducible apply OnlyEnds.next | with_reducible apply OnlyEnds.ite | with_reducible apply countFrame_only | with_reducible apply hearFrame_only | with_reducible apply takeBeacon_only | with_reducible refine OnlyChanges.foldl ?_ (fun _ _ _ => ?_) | with_reducible apply OnlyChanges.ite | split | (with_reducible apply OnlyChanges.upd <;> first | with_reducible exact fun _ => rfl | exact fun q => absurd (by decide) q | skip)
  all_goals decide

theorem execLockTimeout_only  {s t_ : State} (e_ : execLockTimeout s = .next t_) : OnlyChanges ([.port, .trv, .store]) s t_ := by
  refine OnlyEnds.elim ?_ e_
  clear e_
  unfold execLockTimeout
  try dsimp only
  repeat' first | with_reducible exact OnlyChanges.refl _ _ | with_reducible assumption | with_reducible apply OnlyEnds.next | with_reducible apply OnlyEnds.ite | with_reducible apply alignCheck_only | with_reducible refine OnlyChanges.foldl ?_ (fun _ _ _ => ?_) | with_reducible apply OnlyChanges.ite | split | (with_reducible apply OnlyChanges.upd <;> first | with_reducible exact fun _ => rfl | exact fun q => absurd (by decide) q | skip)
  all_goals decide

theorem execRoutingAdvertisement_only  {s t_ : State} (e_ : execRoutingAdvertisement s = .next t_) : OnlyChanges ([.trv]) s t_ := by
  refine OnlyEnds.elim ?_ e_
  clear e_
  unfold execRoutingAdvertisement
  try dsimp only
  repeat' first | with_reducible exact OnlyChanges.refl _ _ | with_reducible assumption | with_reducible apply OnlyEnds.next | with_reducible apply OnlyEnds.ite | with_reducible apply ownPacket_only | with_reducible apply queueOwn_only | with_reducible refine OnlyChanges.foldl ?_ (fun _ _ _ => ?_) | with_reducible apply OnlyChanges.ite | split | (with_reducible apply OnlyChanges.upd <;> first | with_reducible exact fun _ => rfl | exact fun q => absurd (by decide) q | skip)
  all_goals decide

theorem execTrvGrantRetry_only  {s t_ : State} (e_ : execTrvGrantRetry s = .next t_) : OnlyChanges ([.ease, .trv]) s t_ := by
  refine OnlyEnds.elim ?_ e_
  clear e_
  unfold execTrvGrantRetry
  try dsimp only
  repeat' first | with_reducible exact OnlyChanges.refl _ _ | with_reducible assumption | with_reducible apply OnlyEnds.next | with_reducible apply OnlyEnds.ite | with_reducible apply requestTrv_only | with_reducible refine OnlyChanges.foldl ?_ (fun _ _ _ => ?_) | with_reducible apply OnlyChanges.ite | split | (with_reducible apply OnlyChanges.upd <;> first | with_reducible exact fun _ => rfl | exact fun q => absurd (by decide) q | skip)
  all_goals decide

theorem execTrvSend_only (h : Hdr) (p : List Byte) {s t_ : State} (e_ : execTrvSend h p s = .next t_) : OnlyChanges (taken h ([.port, .roles, .trv, .store])) s t_ := by
  unfold taken
  split
  next w_ =>
    unfold execTrvSend at e_
    injection e_ with e_
    subst e_
    exact hostCommand_ack _ _ _ _ w_ (by decide) (by decide) (by decide) (OnlyChanges.refl _ _)
  rename_i w_
  refine OnlyEnds.elim ?_ e_
  clear e_
  unfold execTrvSend
  try dsimp only
  repeat' first | with_reducible exact OnlyChanges.refl _ _ | with_reducible assumption | with_reducible apply OnlyEnds.next | with_reducible apply OnlyEnds.ite | with_reducible refine hostCommand_only _ _ _ w_ ?_ ?_ ?_ (fun _ _ => ?_) | with_reducible apply trvSendCmd_only | with_reducible refine OnlyChanges.foldl ?_ (fun _ _ _ => ?_) | with_reducible apply OnlyChanges.ite | split | (with_reducible apply OnlyChanges.upd <;> first | with_reducible exact fun _ => rfl | exact fun q => absurd (by decide) q | skip)
  all_goals decide

theorem execTrvConfirmationTimeout_only (handle : Nat) {s t_ : State} (e_ : execTrvConfirmationTimeout handle s = .next t_) : OnlyChanges ([.port, .trv, .store]) s t_ := by
  refine OnlyEnds.elim ?_ e_
  clear e_
  unfold execTrvConfirmationTimeout
  try dsimp only
  repeat' first | with_reducible exact OnlyChanges.refl _ _ | with_reducible assumption | with_reducible apply OnlyEnds.next | with_reducible apply OnlyEnds.ite | with_reducible apply trvSent_only | with_reducible refine OnlyChanges.foldl ?_ (fun _ _ _ => ?_) | with_reducible apply OnlyChanges.ite | split | (with_reducible apply OnlyChanges.upd <;> first | with_reducible exact fun _ => rfl | exact fun q => absurd (by decide) q | skip)
  all_goals decide

theorem execTrvKeySet_only (h : Hdr) (p : List Byte) {s t_ : State} (e_ : execTrvKeySet h p s = .next t_) : OnlyChanges (taken h ([.port, .roles, .trv])) s t_ := by
  unfold taken
  split
  next w_ =>
    unfold execTrvKeySet at e_
    injection e_ with e_
    subst e_
    exact hostCommand_ack _ _ _ _ w_ (by decide) (by decide) (by decide) (OnlyChanges.refl _ _)
  rename_i w_
  refine OnlyEnds.elim ?_ e_
  clear e_
  unfold execTrvKeySet
  try dsimp only
  repeat' first | with_reducible exact OnlyChanges.refl _ _ | with_reducible assumption | with_reducible apply OnlyEnds.next | with_reducible apply OnlyEnds.ite | with_reducible refine hostCommand_only _ _ _ w_ ?_ ?_ ?_ (fun _ _ => ?_) | with_reducible apply trvKeySetCmd_only | with_reducible refine OnlyChanges.foldl ?_ (fun _ _ _ => ?_) | with_reducible apply OnlyChanges.ite | split | (with_reducible apply OnlyChanges.upd <;> first | with_reducible exact fun _ => rfl | exact fun q => absurd (by decide) q | skip)
  all_goals decide

theorem execTrvKeyUse_only (h : Hdr) (p : List Byte) {s t_ : State} (e_ : execTrvKeyUse h p s = .next t_) : OnlyChanges (taken h ([.port, .roles, .trv])) s t_ := by
  unfold taken
  split
  next w_ =>
    unfold execTrvKeyUse at e_
    injection e_ with e_
    subst e_
    exact hostCommand_ack _ _ _ _ w_ (by decide) (by decide) (by decide) (OnlyChanges.refl _ _)
  rename_i w_
  refine OnlyEnds.elim ?_ e_
  clear e_
  unfold execTrvKeyUse
  try dsimp only
  repeat' first | with_reducible exact OnlyChanges.refl _ _ | with_reducible assumption | with_reducible apply OnlyEnds.next | with_reducible apply OnlyEnds.ite | with_reducible refine hostCommand_only _ _ _ w_ ?_ ?_ ?_ (fun _ _ => ?_) | with_reducible apply trvKeyUseCmd_only | with_reducible refine OnlyChanges.foldl ?_ (fun _ _ _ => ?_) | with_reducible apply OnlyChanges.ite | split | (with_reducible apply OnlyChanges.upd <;> first | with_reducible exact fun _ => rfl | exact fun q => absurd (by decide) q | skip)
  all_goals decide

theorem execTrvKeySwitch_only  {s t_ : State} (e_ : execTrvKeySwitch s = .next t_) : OnlyChanges ([.trv]) s t_ := by
  refine OnlyEnds.elim ?_ e_
  clear e_
  unfold execTrvKeySwitch
  try dsimp only
  repeat' first | with_reducible exact OnlyChanges.refl _ _ | with_reducible assumption | with_reducible apply OnlyEnds.next | with_reducible apply OnlyEnds.ite | with_reducible refine OnlyChanges.foldl ?_ (fun _ _ _ => ?_) | with_reducible apply OnlyChanges.ite | split | (with_reducible apply OnlyChanges.upd <;> first | with_reducible exact fun _ => rfl | exact fun q => absurd (by decide) q | skip)
  all_goals decide

theorem execPollCycle_only (amplitudeMv : Nat) {s t_ : State} (e_ : execPollCycle amplitudeMv s = .next t_) : OnlyChanges ([.port, .ease, .rdr, .store]) s t_ := by
  refine OnlyEnds.elim ?_ e_
  clear e_
  unfold execPollCycle
  try dsimp only
  repeat' first | with_reducible exact OnlyChanges.refl _ _ | with_reducible assumption | with_reducible apply OnlyEnds.next | with_reducible apply OnlyEnds.ite | with_reducible apply readerStop_only | with_reducible apply antennaCheck_only | with_reducible apply requestField_only | with_reducible refine OnlyChanges.foldl ?_ (fun _ _ _ => ?_) | with_reducible apply OnlyChanges.ite | split | (with_reducible apply OnlyChanges.upd <;> first | with_reducible exact fun _ => rfl | exact fun q => absurd (by decide) q | skip)
  all_goals decide

theorem execReaderRoundEnd_only (cards : List Card) {s t_ : State} (e_ : execReaderRoundEnd cards s = .next t_) : OnlyChanges ([.port, .ease, .rdr, .store]) s t_ := by
  refine OnlyEnds.elim ?_ e_
  clear e_
  unfold execReaderRoundEnd
  try dsimp only
  repeat' first | with_reducible exact OnlyChanges.refl _ _ | with_reducible assumption | with_reducible apply OnlyEnds.next | with_reducible apply OnlyEnds.ite | with_reducible apply roundRemovals_only | with_reducible apply cardPresented_only | with_reducible apply event_only | with_reducible apply fieldOff_only | with_reducible refine OnlyChanges.foldl ?_ (fun _ _ _ => ?_) | with_reducible apply OnlyChanges.ite | split | (with_reducible apply OnlyChanges.upd <;> first | with_reducible exact fun _ => rfl | exact fun q => absurd (by decide) q | skip)
  all_goals decide

theorem execCardHoldTimeout_only  {s t_ : State} (e_ : execCardHoldTimeout s = .next t_) : OnlyChanges ([.ease, .rdr]) s t_ := by
  refine OnlyEnds.elim ?_ e_
  clear e_
  unfold execCardHoldTimeout
  try dsimp only
  repeat' first | with_reducible exact OnlyChanges.refl _ _ | with_reducible assumption | with_reducible apply OnlyEnds.next | with_reducible apply OnlyEnds.ite | with_reducible apply fieldOff_only | with_reducible refine OnlyChanges.foldl ?_ (fun _ _ _ => ?_) | with_reducible apply OnlyChanges.ite | split | (with_reducible apply OnlyChanges.upd <;> first | with_reducible exact fun _ => rfl | exact fun q => absurd (by decide) q | skip)
  all_goals decide

theorem execReaderLeaveRenew_only  {s t_ : State} (e_ : execReaderLeaveRenew s = .next t_) : OnlyChanges ([.ease, .rdr]) s t_ := by
  refine OnlyEnds.elim ?_ e_
  clear e_
  unfold execReaderLeaveRenew
  try dsimp only
  repeat' first | with_reducible exact OnlyChanges.refl _ _ | with_reducible assumption | with_reducible apply OnlyEnds.next | with_reducible apply OnlyEnds.ite | with_reducible apply requestField_only | with_reducible refine OnlyChanges.foldl ?_ (fun _ _ _ => ?_) | with_reducible apply OnlyChanges.ite | split | (with_reducible apply OnlyChanges.upd <;> first | with_reducible exact fun _ => rfl | exact fun q => absurd (by decide) q | skip)
  all_goals decide

theorem execCardApdu_only (h : Hdr) (p : List Byte) {s t_ : State} (e_ : execCardApdu h p s = .next t_) : OnlyChanges (taken h ([.port, .roles, .rdr])) s t_ := by
  unfold taken
  split
  next w_ =>
    unfold execCardApdu at e_
    injection e_ with e_
    subst e_
    exact hostCommand_ack _ _ _ _ w_ (by decide) (by decide) (by decide) (OnlyChanges.refl _ _)
  rename_i w_
  refine OnlyEnds.elim ?_ e_
  clear e_
  unfold execCardApdu
  try dsimp only
  repeat' first | with_reducible exact OnlyChanges.refl _ _ | with_reducible assumption | with_reducible apply OnlyEnds.next | with_reducible apply OnlyEnds.ite | with_reducible refine hostCommand_only _ _ _ w_ ?_ ?_ ?_ (fun _ _ => ?_) | with_reducible apply cardApduCmd_only | with_reducible refine OnlyChanges.foldl ?_ (fun _ _ _ => ?_) | with_reducible apply OnlyChanges.ite | split | (with_reducible apply OnlyChanges.upd <;> first | with_reducible exact fun _ => rfl | exact fun q => absurd (by decide) q | skip)
  all_goals decide

theorem execCardApduDone_only (result : Nat) (response : List Byte) {s t_ : State} (e_ : execCardApduDone result response s = .next t_) : OnlyChanges ([.port, .ease, .rdr, .store]) s t_ := by
  refine OnlyEnds.elim ?_ e_
  clear e_
  unfold execCardApduDone
  try dsimp only
  repeat' first | with_reducible exact OnlyChanges.refl _ _ | with_reducible assumption | with_reducible apply OnlyEnds.next | with_reducible apply OnlyEnds.ite | with_reducible apply apduDone_only | with_reducible apply fieldOff_only | with_reducible refine OnlyChanges.foldl ?_ (fun _ _ _ => ?_) | with_reducible apply OnlyChanges.ite | split | (with_reducible apply OnlyChanges.upd <;> first | with_reducible exact fun _ => rfl | exact fun q => absurd (by decide) q | skip)
  all_goals decide

theorem execWtagSelect_only (aid : List Byte) {s t_ : State} (e_ : execWtagSelect aid s = .next t_) : OnlyChanges ([.tag]) s t_ := by
  refine OnlyEnds.elim ?_ e_
  clear e_
  unfold execWtagSelect
  try dsimp only
  repeat' first | with_reducible exact OnlyChanges.refl _ _ | with_reducible assumption | with_reducible apply OnlyEnds.next | with_reducible apply OnlyEnds.ite | with_reducible apply tagAnswer_only | with_reducible refine OnlyChanges.foldl ?_ (fun _ _ _ => ?_) | with_reducible apply OnlyChanges.ite | split | (with_reducible apply OnlyChanges.upd <;> first | with_reducible exact fun _ => rfl | exact fun q => absurd (by decide) q | skip)
  all_goals decide

theorem execWtagReadBinary_only (block len : Nat) {s t_ : State} (e_ : execWtagReadBinary block len s = .next t_) : OnlyChanges ([.tag]) s t_ := by
  refine OnlyEnds.elim ?_ e_
  clear e_
  unfold execWtagReadBinary
  try dsimp only
  repeat' first | with_reducible exact OnlyChanges.refl _ _ | with_reducible assumption | with_reducible apply OnlyEnds.next | with_reducible apply OnlyEnds.ite | with_reducible apply tagAnswer_only | with_reducible refine OnlyChanges.foldl ?_ (fun _ _ _ => ?_) | with_reducible apply OnlyChanges.ite | split | (with_reducible apply OnlyChanges.upd <;> first | with_reducible exact fun _ => rfl | exact fun q => absurd (by decide) q | skip)
  all_goals decide

theorem execGetLiveStatus_only (len harvestMv : Nat) {s t_ : State} (e_ : execGetLiveStatus len harvestMv s = .next t_) : OnlyChanges ([.tag]) s t_ := by
  refine OnlyEnds.elim ?_ e_
  clear e_
  unfold execGetLiveStatus
  try dsimp only
  repeat' first | with_reducible exact OnlyChanges.refl _ _ | with_reducible assumption | with_reducible apply OnlyEnds.next | with_reducible apply OnlyEnds.ite | with_reducible apply tagAnswer_only | with_reducible refine OnlyChanges.foldl ?_ (fun _ _ _ => ?_) | with_reducible apply OnlyChanges.ite | split | (with_reducible apply OnlyChanges.upd <;> first | with_reducible exact fun _ => rfl | exact fun q => absurd (by decide) q | skip)
  all_goals decide

theorem execAppendNote_only (harvestMv reserveMv : Nat) (data : List Byte) (lastStep : Nat) {s t_ : State} (e_ : execAppendNote harvestMv reserveMv data lastStep s = .next t_) : OnlyChanges ([.tag]) s t_ := by
  refine OnlyEnds.elim ?_ e_
  clear e_
  unfold execAppendNote
  try dsimp only
  repeat' first | with_reducible exact OnlyChanges.refl _ _ | with_reducible assumption | with_reducible apply OnlyEnds.next | with_reducible apply OnlyEnds.ite | with_reducible apply tagAnswer_only | with_reducible apply appendSteps_only | with_reducible refine OnlyChanges.foldl ?_ (fun _ _ _ => ?_) | with_reducible apply OnlyChanges.ite | split | (with_reducible apply OnlyChanges.upd <;> first | with_reducible exact fun _ => rfl | exact fun q => absurd (by decide) q | skip)
  all_goals decide

theorem execWtagFieldChange_only (present : Bool) (harvestMv : Nat) {s t_ : State} (e_ : execWtagFieldChange present harvestMv s = .next t_) : OnlyChanges ([.tag]) s t_ := by
  refine OnlyEnds.elim ?_ e_
  clear e_
  unfold execWtagFieldChange
  try dsimp only
  repeat' first | with_reducible exact OnlyChanges.refl _ _ | with_reducible assumption | with_reducible apply OnlyEnds.next | with_reducible apply OnlyEnds.ite | with_reducible refine OnlyChanges.foldl ?_ (fun _ _ _ => ?_) | with_reducible apply OnlyChanges.ite | split | (with_reducible apply OnlyChanges.upd <;> first | with_reducible exact fun _ => rfl | exact fun q => absurd (by decide) q | skip)
  all_goals decide

theorem execVisitNoteImport_only  {s t_ : State} (e_ : execVisitNoteImport s = .next t_) : OnlyChanges ([.ease, .tag]) s t_ := by
  refine OnlyEnds.elim ?_ e_
  clear e_
  unfold execVisitNoteImport
  try dsimp only
  repeat' first | with_reducible exact OnlyChanges.refl _ _ | with_reducible assumption | with_reducible apply OnlyEnds.next | with_reducible apply OnlyEnds.ite | with_reducible apply requestImport_only | with_reducible refine OnlyChanges.foldl ?_ (fun _ _ _ => ?_) | with_reducible apply OnlyChanges.ite | split | (with_reducible apply OnlyChanges.upd <;> first | with_reducible exact fun _ => rfl | exact fun q => absurd (by decide) q | skip)
  all_goals decide

theorem execTotalsSnapshot_only (waitUs : Nat) {s t_ : State} (e_ : execTotalsSnapshot waitUs s = .next t_) : OnlyChanges ([.tag]) s t_ := by
  refine OnlyEnds.elim ?_ e_
  clear e_
  unfold execTotalsSnapshot
  try dsimp only
  repeat' first | with_reducible exact OnlyChanges.refl _ _ | with_reducible assumption | with_reducible apply OnlyEnds.next | with_reducible apply OnlyEnds.ite | with_reducible apply writeTotals_only | with_reducible refine OnlyChanges.foldl ?_ (fun _ _ _ => ?_) | with_reducible apply OnlyChanges.ite | split | (with_reducible apply OnlyChanges.upd <;> first | with_reducible exact fun _ => rfl | exact fun q => absurd (by decide) q | skip)
  all_goals decide

theorem execDisplayRequestRetry_only (rect : Nat) {s t_ : State} (e_ : execDisplayRequestRetry rect s = .next t_) : OnlyChanges ([.ease, .disp]) s t_ := by
  refine OnlyEnds.elim ?_ e_
  clear e_
  unfold execDisplayRequestRetry
  try dsimp only
  repeat' first | with_reducible exact OnlyChanges.refl _ _ | with_reducible assumption | with_reducible apply OnlyEnds.next | with_reducible apply OnlyEnds.ite | with_reducible apply serveQueue_only | with_reducible apply updQueue_only | with_reducible refine OnlyChanges.foldl ?_ (fun _ _ _ => ?_) | with_reducible apply OnlyChanges.ite | split | (with_reducible apply OnlyChanges.upd <;> first | with_reducible exact fun _ => rfl | exact fun q => absurd (by decide) q | skip)
  all_goals decide

theorem execRailStartDone_only  {s t_ : State} (e_ : execRailStartDone s = .next t_) : OnlyChanges ([.disp]) s t_ := by
  refine OnlyEnds.elim ?_ e_
  clear e_
  unfold execRailStartDone
  try dsimp only
  repeat' first | with_reducible exact OnlyChanges.refl _ _ | with_reducible assumption | with_reducible apply OnlyEnds.next | with_reducible apply OnlyEnds.ite | with_reducible apply updDisp_only | with_reducible refine OnlyChanges.foldl ?_ (fun _ _ _ => ?_) | with_reducible apply OnlyChanges.ite | split | (with_reducible apply OnlyChanges.upd <;> first | with_reducible exact fun _ => rfl | exact fun q => absurd (by decide) q | skip)
  all_goals decide

theorem execRailFeedbackTimeout_only (rail : Nat) {s t_ : State} (e_ : execRailFeedbackTimeout rail s = .next t_) : OnlyChanges ([.port, .faults, .ease, .billing, .disp, .store]) s t_ := by
  refine OnlyEnds.elim ?_ e_
  clear e_
  unfold execRailFeedbackTimeout
  try dsimp only
  repeat' first | with_reducible exact OnlyChanges.refl _ _ | with_reducible assumption | with_reducible apply OnlyEnds.next | with_reducible apply OnlyEnds.ite | with_reducible apply lowerRails_only | with_reducible apply updDisp_only | with_reducible apply abandonAll_only | with_reducible apply displayFault_only | with_reducible refine OnlyChanges.foldl ?_ (fun _ _ _ => ?_) | with_reducible apply OnlyChanges.ite | split | (with_reducible apply OnlyChanges.upd <;> first | with_reducible exact fun _ => rfl | exact fun q => absurd (by decide) q | skip)
  all_goals decide

theorem execRailRetry_only  {s t_ : State} (e_ : execRailRetry s = .next t_) : OnlyChanges ([.disp]) s t_ := by
  refine OnlyEnds.elim ?_ e_
  clear e_
  unfold execRailRetry
  try dsimp only
  repeat' first | with_reducible exact OnlyChanges.refl _ _ | with_reducible assumption | with_reducible apply OnlyEnds.next | with_reducible apply OnlyEnds.ite | with_reducible apply startRails_only | with_reducible apply updDisp_only | with_reducible refine OnlyChanges.foldl ?_ (fun _ _ _ => ?_) | with_reducible apply OnlyChanges.ite | split | (with_reducible apply OnlyChanges.upd <;> first | with_reducible exact fun _ => rfl | exact fun q => absurd (by decide) q | skip)
  all_goals decide

theorem execRailFallStart_only  {s t_ : State} (e_ : execRailFallStart s = .next t_) : OnlyChanges ([.disp]) s t_ := by
  refine OnlyEnds.elim ?_ e_
  clear e_
  unfold execRailFallStart
  try dsimp only
  repeat' first | with_reducible exact OnlyChanges.refl _ _ | with_reducible assumption | with_reducible apply OnlyEnds.next | with_reducible apply OnlyEnds.ite | with_reducible apply lowerRails_only | with_reducible refine OnlyChanges.foldl ?_ (fun _ _ _ => ?_) | with_reducible apply OnlyChanges.ite | split | (with_reducible apply OnlyChanges.upd <;> first | with_reducible exact fun _ => rfl | exact fun q => absurd (by decide) q | skip)
  all_goals decide

theorem execRailFallDone_only  {s t_ : State} (e_ : execRailFallDone s = .next t_) : OnlyChanges ([.disp]) s t_ := by
  refine OnlyEnds.elim ?_ e_
  clear e_
  unfold execRailFallDone
  try dsimp only
  repeat' first | with_reducible exact OnlyChanges.refl _ _ | with_reducible assumption | with_reducible apply OnlyEnds.next | with_reducible apply OnlyEnds.ite | with_reducible apply startRails_only | with_reducible apply updDisp_only | with_reducible refine OnlyChanges.foldl ?_ (fun _ _ _ => ?_) | with_reducible apply OnlyChanges.ite | split | (with_reducible apply OnlyChanges.upd <;> first | with_reducible exact fun _ => rfl | exact fun q => absurd (by decide) q | skip)
  all_goals decide

theorem execPanelTempReading_only (temp : Int) {s t_ : State} (e_ : execPanelTempReading temp s = .next t_) : OnlyChanges ([.port, .ease, .disp, .store]) s t_ := by
  refine OnlyEnds.elim ?_ e_
  clear e_
  unfold execPanelTempReading
  try dsimp only
  repeat' first | with_reducible exact OnlyChanges.refl _ _ | with_reducible assumption | with_reducible apply OnlyEnds.next | with_reducible apply OnlyEnds.ite | with_reducible apply serveQueue_only | with_reducible apply panelTemp_only | with_reducible refine OnlyChanges.foldl ?_ (fun _ _ _ => ?_) | with_reducible apply OnlyChanges.ite | split | (with_reducible apply OnlyChanges.upd <;> first | with_reducible exact fun _ => rfl | exact fun q => absurd (by decide) q | skip)
  all_goals decide

theorem execScanStart_only (temp : Int) (crackOhm : Nat) {s t_ : State} (e_ : execScanStart temp crackOhm s = .next t_) : OnlyChanges ([.port, .ease, .disp, .store]) s t_ := by
  refine OnlyEnds.elim ?_ e_
  clear e_
  unfold execScanStart
  try dsimp only
  repeat' first | with_reducible exact OnlyChanges.refl _ _ | with_reducible assumption | with_reducible apply OnlyEnds.next | with_reducible apply OnlyEnds.ite | with_reducible apply updDisp_only | with_reducible apply panelTemp_only | with_reducible apply joinFrom_only | with_reducible refine OnlyChanges.foldl ?_ (fun _ _ _ => ?_) | with_reducible apply OnlyChanges.ite | split | (with_reducible apply OnlyChanges.upd <;> first | with_reducible exact fun _ => rfl | exact fun q => absurd (by decide) q | skip)
  all_goals decide

theorem execWaveformEnd_only (rect : Nat) {s t_ : State} (e_ : execWaveformEnd rect s = .next t_) : OnlyChanges ([.port, .ease, .billing, .disp, .store]) s t_ := by
  refine OnlyEnds.elim ?_ e_
  clear e_
  unfold execWaveformEnd
  try dsimp only
  repeat' first | with_reducible exact OnlyChanges.refl _ _ | with_reducible assumption | with_reducible apply OnlyEnds.next | with_reducible apply OnlyEnds.ite | with_reducible apply updDisp_only | with_reducible apply releaseOpt_only | with_reducible apply queueHead_only | with_reducible apply displayDone_only | with_reducible apply priceCheck_only | with_reducible apply appRetire_only | with_reducible apply serveQueue_only | with_reducible apply serveLight_only | with_reducible refine OnlyChanges.foldl ?_ (fun _ _ _ => ?_) | with_reducible apply OnlyChanges.ite | split | (with_reducible apply OnlyChanges.upd <;> first | with_reducible exact fun _ => rfl | exact fun q => absurd (by decide) q | skip)
  all_goals decide

theorem execCrackCheck_only (ohm10 ohm10b : Nat) {s t_ : State} (e_ : execCrackCheck ohm10 ohm10b s = .next t_) : OnlyChanges ([.port, .ease, .billing, .disp, .store]) s t_ := by
  refine OnlyEnds.elim ?_ e_
  clear e_
  unfold execCrackCheck
  try dsimp only
  repeat' first | with_reducible exact OnlyChanges.refl _ _ | with_reducible assumption | with_reducible apply OnlyEnds.next | with_reducible apply OnlyEnds.ite | with_reducible apply updDisp_only | with_reducible apply crackFound_only | with_reducible apply requestPrice_only | with_reducible apply displayFault_only | with_reducible refine OnlyChanges.foldl ?_ (fun _ _ _ => ?_) | with_reducible apply OnlyChanges.ite | split | (with_reducible apply OnlyChanges.upd <;> first | with_reducible exact fun _ => rfl | exact fun q => absurd (by decide) q | skip)
  all_goals decide

theorem execAonRefresh_only  {s t_ : State} (e_ : execAonRefresh s = .next t_) : OnlyChanges ([.ease, .disp]) s t_ := by
  refine OnlyEnds.elim ?_ e_
  clear e_
  unfold execAonRefresh
  try dsimp only
  repeat' first | with_reducible exact OnlyChanges.refl _ _ | with_reducible assumption | with_reducible apply OnlyEnds.next | with_reducible apply OnlyEnds.ite | with_reducible apply queueAon_only | with_reducible apply updDisp_only | with_reducible refine OnlyChanges.foldl ?_ (fun _ _ _ => ?_) | with_reducible apply OnlyChanges.ite | split | (with_reducible apply OnlyChanges.upd <;> first | with_reducible exact fun _ => rfl | exact fun q => absurd (by decide) q | skip)
  all_goals decide

theorem execBenchmarkTotalsRedraw_only  {s t_ : State} (e_ : execBenchmarkTotalsRedraw s = .next t_) : OnlyChanges ([.ease, .disp]) s t_ := by
  refine OnlyEnds.elim ?_ e_
  clear e_
  unfold execBenchmarkTotalsRedraw
  try dsimp only
  repeat' first | with_reducible exact OnlyChanges.refl _ _ | with_reducible assumption | with_reducible apply OnlyEnds.next | with_reducible apply OnlyEnds.ite | with_reducible apply drawTotals_only | with_reducible refine OnlyChanges.foldl ?_ (fun _ _ _ => ?_) | with_reducible apply OnlyChanges.ite | split | (with_reducible apply OnlyChanges.upd <;> first | with_reducible exact fun _ => rfl | exact fun q => absurd (by decide) q | skip)
  all_goals decide

theorem execDisplayWrite_only (h : Hdr) (p : List Byte) {s t_ : State} (e_ : execDisplayWrite h p s = .next t_) : OnlyChanges (taken h ([.port, .roles, .ease, .disp])) s t_ := by
  unfold taken
  split
  next w_ =>
    unfold execDisplayWrite at e_
    injection e_ with e_
    subst e_
    exact hostCommand_ack _ _ _ _ w_ (by decide) (by decide) (by decide) (OnlyChanges.refl _ _)
  rename_i w_
  refine OnlyEnds.elim ?_ e_
  clear e_
  unfold execDisplayWrite
  try dsimp only
  repeat' first | with_reducible exact OnlyChanges.refl _ _ | with_reducible assumption | with_reducible apply OnlyEnds.next | with_reducible apply OnlyEnds.ite | with_reducible refine hostCommand_only _ _ _ w_ ?_ ?_ ?_ (fun _ _ => ?_) | with_reducible apply displayWriteCmd_only | with_reducible refine OnlyChanges.foldl ?_ (fun _ _ _ => ?_) | with_reducible apply OnlyChanges.ite | split | (with_reducible apply OnlyChanges.upd <;> first | with_reducible exact fun _ => rfl | exact fun q => absurd (by decide) q | skip)
  all_goals decide

theorem execDisplayUpdate_only (h : Hdr) (p : List Byte) {s t_ : State} (e_ : execDisplayUpdate h p s = .next t_) : OnlyChanges (taken h ([.port, .roles, .ease, .disp])) s t_ := by
  unfold taken
  split
  next w_ =>
    unfold execDisplayUpdate at e_
    injection e_ with e_
    subst e_
    exact hostCommand_ack _ _ _ _ w_ (by decide) (by decide) (by decide) (OnlyChanges.refl _ _)
  rename_i w_
  refine OnlyEnds.elim ?_ e_
  clear e_
  unfold execDisplayUpdate
  try dsimp only
  repeat' first | with_reducible exact OnlyChanges.refl _ _ | with_reducible assumption | with_reducible apply OnlyEnds.next | with_reducible apply OnlyEnds.ite | with_reducible refine hostCommand_only _ _ _ w_ ?_ ?_ ?_ (fun _ _ => ?_) | with_reducible apply displayUpdateCmd_only | with_reducible refine OnlyChanges.foldl ?_ (fun _ _ _ => ?_) | with_reducible apply OnlyChanges.ite | split | (with_reducible apply OnlyChanges.upd <;> first | with_reducible exact fun _ => rfl | exact fun q => absurd (by decide) q | skip)
  all_goals decide

theorem execDisplayLight_only (h : Hdr) (p : List Byte) {s t_ : State} (e_ : execDisplayLight h p s = .next t_) : OnlyChanges (taken h ([.port, .roles, .disp, .store])) s t_ := by
  unfold taken
  split
  next w_ =>
    unfold execDisplayLight at e_
    injection e_ with e_
    subst e_
    exact hostCommand_ack _ _ _ _ w_ (by decide) (by decide) (by decide) (OnlyChanges.refl _ _)
  rename_i w_
  refine OnlyEnds.elim ?_ e_
  clear e_
  unfold execDisplayLight
  try dsimp only
  repeat' first | with_reducible exact OnlyChanges.refl _ _ | with_reducible assumption | with_reducible apply OnlyEnds.next | with_reducible apply OnlyEnds.ite | with_reducible refine hostCommand_only _ _ _ w_ ?_ ?_ ?_ (fun _ _ => ?_) | with_reducible apply displayLightCmd_only | with_reducible refine OnlyChanges.foldl ?_ (fun _ _ _ => ?_) | with_reducible apply OnlyChanges.ite | split | (with_reducible apply OnlyChanges.upd <;> first | with_reducible exact fun _ => rfl | exact fun q => absurd (by decide) q | skip)
  all_goals decide

theorem execWfLoad_only (h : Hdr) (p : List Byte) {s t_ : State} (e_ : execWfLoad h p s = .next t_) : OnlyChanges (taken h ([.port, .roles, .ease, .disp])) s t_ := by
  unfold taken
  split
  next w_ =>
    unfold execWfLoad at e_
    injection e_ with e_
    subst e_
    exact hostCommand_ack _ _ _ _ w_ (by decide) (by decide) (by decide) (OnlyChanges.refl _ _)
  rename_i w_
  refine OnlyEnds.elim ?_ e_
  clear e_
  unfold execWfLoad
  try dsimp only
  repeat' first | with_reducible exact OnlyChanges.refl _ _ | with_reducible assumption | with_reducible apply OnlyEnds.next | with_reducible apply OnlyEnds.ite | with_reducible refine hostCommand_only _ _ _ w_ ?_ ?_ ?_ (fun _ _ => ?_) | with_reducible apply wfLoadCmd_only | with_reducible refine OnlyChanges.foldl ?_ (fun _ _ _ => ?_) | with_reducible apply OnlyChanges.ite | split | (with_reducible apply OnlyChanges.upd <;> first | with_reducible exact fun _ => rfl | exact fun q => absurd (by decide) q | skip)
  all_goals decide

theorem execLogPageProgram_only (ok : Bool) {s t_ : State} (e_ : execLogPageProgram ok s = .next t_) : OnlyChanges ([.port, .log, .store]) s t_ := by
  refine OnlyEnds.elim ?_ e_
  clear e_
  unfold execLogPageProgram
  try dsimp only
  repeat' first | with_reducible exact OnlyChanges.refl _ _ | with_reducible assumption | with_reducible apply OnlyEnds.next | with_reducible apply OnlyEnds.ite | with_reducible apply signedRetire_only | with_reducible apply retireBlock_only | with_reducible refine OnlyChanges.foldl ?_ (fun _ _ _ => ?_) | with_reducible apply OnlyChanges.ite | split | (with_reducible apply OnlyChanges.upd <;> first | with_reducible exact fun _ => rfl | exact fun q => absurd (by decide) q | skip)
  all_goals decide

theorem execReclaimStart_only (refreshSegment : Option Nat) {s t_ : State} (e_ : execReclaimStart refreshSegment s = .next t_) : OnlyChanges ([.store]) s t_ := by
  refine OnlyEnds.elim ?_ e_
  clear e_
  unfold execReclaimStart
  try dsimp only
  repeat' first | with_reducible exact OnlyChanges.refl _ _ | with_reducible assumption | with_reducible apply OnlyEnds.next | with_reducible apply OnlyEnds.ite | with_reducible apply journalApp_only | with_reducible apply updStore_only | with_reducible refine OnlyChanges.foldl ?_ (fun _ _ _ => ?_) | with_reducible apply OnlyChanges.ite | split | (with_reducible apply OnlyChanges.upd <;> first | with_reducible exact fun _ => rfl | exact fun q => absurd (by decide) q | skip)
  all_goals decide

theorem execReclaimStepDone_only (ok : Bool) {s t_ : State} (e_ : execReclaimStepDone ok s = .next t_) : OnlyChanges ([.port, .ease, .log, .store]) s t_ := by
  refine OnlyEnds.elim ?_ e_
  clear e_
  unfold execReclaimStepDone
  try dsimp only
  repeat' first | with_reducible exact OnlyChanges.refl _ _ | with_reducible assumption | with_reducible apply OnlyEnds.next | with_reducible apply OnlyEnds.ite | with_reducible apply reclaimStep_only | with_reducible refine OnlyChanges.foldl ?_ (fun _ _ _ => ?_) | with_reducible apply OnlyChanges.ite | split | (with_reducible apply OnlyChanges.upd <;> first | with_reducible exact fun _ => rfl | exact fun q => absurd (by decide) q | skip)
  all_goals decide

theorem execNandBlockRefresh_only (partition block : Nat) (uncorrectable : Bool) {s t_ : State} (e_ : execNandBlockRefresh partition block uncorrectable s = .next t_) : OnlyChanges ([.factory, .port, .ease, .log, .store]) s t_ := by
  refine OnlyEnds.elim ?_ e_
  clear e_
  unfold execNandBlockRefresh
  try dsimp only
  repeat' first | with_reducible exact OnlyChanges.refl _ _ | with_reducible assumption | with_reducible apply OnlyEnds.next | with_reducible apply OnlyEnds.ite | with_reducible apply retireBlock_only | with_reducible apply storageFault_only | with_reducible apply updStore_only | with_reducible apply askErase_only | with_reducible apply State.drawFree_only | with_reducible refine OnlyChanges.foldl ?_ (fun _ _ _ => ?_) | with_reducible apply OnlyChanges.ite | split | (with_reducible apply OnlyChanges.upd <;> first | with_reducible exact fun _ => rfl | exact fun q => absurd (by decide) q | skip)
  all_goals decide

theorem execImageActivate_only (h : Hdr) (p : List Byte) {s t_ : State} (e_ : execImageActivate h p s = .next t_) : OnlyChanges (taken h ([.modes, .port, .roles, .ease, .store])) s t_ := by
  unfold taken
  split
  next w_ =>
    unfold execImageActivate at e_
    injection e_ with e_
    subst e_
    exact hostCommand_ack _ _ _ _ w_ (by decide) (by decide) (by decide) (OnlyChanges.refl _ _)
  rename_i w_
  refine OnlyEnds.elim ?_ e_
  clear e_
  unfold execImageActivate
  try dsimp only
  repeat' first | with_reducible exact OnlyChanges.refl _ _ | with_reducible assumption | with_reducible apply OnlyEnds.next | with_reducible apply OnlyEnds.ite | with_reducible refine hostCommand_only _ _ _ w_ ?_ ?_ ?_ (fun _ _ => ?_) | with_reducible apply imageActivateCmd_only | with_reducible refine OnlyChanges.foldl ?_ (fun _ _ _ => ?_) | with_reducible apply OnlyChanges.ite | split | (with_reducible apply OnlyChanges.upd <;> first | with_reducible exact fun _ => rfl | exact fun q => absurd (by decide) q | skip)
  all_goals decide

theorem execConfirmImage_only (h : Hdr) (p : List Byte) {s t_ : State} (e_ : execConfirmImage h p s = .next t_) : OnlyChanges (taken h ([.port, .roles, .store])) s t_ := by
  unfold taken
  split
  next w_ =>
    unfold execConfirmImage at e_
    injection e_ with e_
    subst e_
    exact hostCommand_ack _ _ _ _ w_ (by decide) (by decide) (by decide) (OnlyChanges.refl _ _)
  rename_i w_
  refine OnlyEnds.elim ?_ e_
  clear e_
  unfold execConfirmImage
  try dsimp only
  repeat' first | with_reducible exact OnlyChanges.refl _ _ | with_reducible assumption | with_reducible apply OnlyEnds.next | with_reducible apply OnlyEnds.ite | with_reducible refine hostCommand_only _ _ _ w_ ?_ ?_ ?_ (fun _ _ => ?_) | with_reducible apply confirmImageCmd_only | with_reducible refine OnlyChanges.foldl ?_ (fun _ _ _ => ?_) | with_reducible apply OnlyChanges.ite | split | (with_reducible apply OnlyChanges.upd <;> first | with_reducible exact fun _ => rfl | exact fun q => absurd (by decide) q | skip)
  all_goals decide

theorem execUpdateStart_only (h : Hdr) (p : List Byte) {s t_ : State} (e_ : execUpdateStart h p s = .next t_) : OnlyChanges (taken h ([.port, .roles, .ease, .trv, .chain, .store])) s t_ := by
  unfold taken
  split
  next w_ =>
    unfold execUpdateStart at e_
    injection e_ with e_
    subst e_
    exact hostCommand_ack _ _ _ _ w_ (by decide) (by decide) (by decide) (OnlyChanges.refl _ _)
  rename_i w_
  refine OnlyEnds.elim ?_ e_
  clear e_
  unfold execUpdateStart
  try dsimp only
  repeat' first | with_reducible exact OnlyChanges.refl _ _ | with_reducible assumption | with_reducible apply OnlyEnds.next | with_reducible apply OnlyEnds.ite | with_reducible refine hostCommand_only _ _ _ w_ ?_ ?_ ?_ (fun _ _ => ?_) | with_reducible apply updateStartCmd_only | with_reducible refine OnlyChanges.foldl ?_ (fun _ _ _ => ?_) | with_reducible apply OnlyChanges.ite | split | (with_reducible apply OnlyChanges.upd <;> first | with_reducible exact fun _ => rfl | exact fun q => absurd (by decide) q | skip)
  all_goals decide

theorem execStagingSlotReady_only  {s t_ : State} (e_ : execStagingSlotReady s = .next t_) : OnlyChanges ([.port, .trv, .chain, .store]) s t_ := by
  refine OnlyEnds.elim ?_ e_
  clear e_
  unfold execStagingSlotReady
  try dsimp only
  repeat' first | with_reducible exact OnlyChanges.refl _ _ | with_reducible assumption | with_reducible apply OnlyEnds.next | with_reducible apply OnlyEnds.ite | with_reducible apply updateProgressEvent_only | with_reducible apply updChain_only | with_reducible apply sendAnswer_only | with_reducible refine OnlyChanges.foldl ?_ (fun _ _ _ => ?_) | with_reducible apply OnlyChanges.ite | split | (with_reducible apply OnlyChanges.upd <;> first | with_reducible exact fun _ => rfl | exact fun q => absurd (by decide) q | skip)
  all_goals decide

theorem execUpdateData_only (h : Hdr) (p : List Byte) {s t_ : State} (e_ : execUpdateData h p s = .next t_) : OnlyChanges (taken h ([.port, .roles, .trv, .chain, .store])) s t_ := by
  unfold taken
  split
  next w_ =>
    unfold execUpdateData at e_
    injection e_ with e_
    subst e_
    exact hostCommand_ack _ _ _ _ w_ (by decide) (by decide) (by decide) (OnlyChanges.refl _ _)
  rename_i w_
  refine OnlyEnds.elim ?_ e_
  clear e_
  unfold execUpdateData
  try dsimp only
  repeat' first | with_reducible exact OnlyChanges.refl _ _ | with_reducible assumption | with_reducible apply OnlyEnds.next | with_reducible apply OnlyEnds.ite | with_reducible refine hostCommand_only _ _ _ w_ ?_ ?_ ?_ (fun _ _ => ?_) | with_reducible apply updateDataCmd_only | with_reducible refine OnlyChanges.foldl ?_ (fun _ _ _ => ?_) | with_reducible apply OnlyChanges.ite | split | (with_reducible apply OnlyChanges.upd <;> first | with_reducible exact fun _ => rfl | exact fun q => absurd (by decide) q | skip)
  all_goals decide

theorem execUpdateAbort_only (h : Hdr) (p : List Byte) {s t_ : State} (e_ : execUpdateAbort h p s = .next t_) : OnlyChanges (taken h ([.port, .roles, .ease, .trv, .chain, .store])) s t_ := by
  unfold taken
  split
  next w_ =>
    unfold execUpdateAbort at e_
    injection e_ with e_
    subst e_
    exact hostCommand_ack _ _ _ _ w_ (by decide) (by decide) (by decide) (OnlyChanges.refl _ _)
  rename_i w_
  refine OnlyEnds.elim ?_ e_
  clear e_
  unfold execUpdateAbort
  try dsimp only
  repeat' first | with_reducible exact OnlyChanges.refl _ _ | with_reducible assumption | with_reducible apply OnlyEnds.next | with_reducible apply OnlyEnds.ite | with_reducible refine hostCommand_only _ _ _ w_ ?_ ?_ ?_ (fun _ _ => ?_) | with_reducible apply updateAbortCmd_only | with_reducible refine OnlyChanges.foldl ?_ (fun _ _ _ => ?_) | with_reducible apply OnlyChanges.ite | split | (with_reducible apply OnlyChanges.upd <;> first | with_reducible exact fun _ => rfl | exact fun q => absurd (by decide) q | skip)
  all_goals decide

theorem execChainOffer_only (src origin : Nat) (header : List Byte) (nodes : List Nat) (position : Nat) {s t_ : State} (e_ : execChainOffer src origin header nodes position s = .next t_) : OnlyChanges ([.ease, .trv, .chain, .store]) s t_ := by
  refine OnlyEnds.elim ?_ e_
  clear e_
  unfold execChainOffer
  try dsimp only
  repeat' first | with_reducible exact OnlyChanges.refl _ _ | with_reducible assumption | with_reducible apply OnlyEnds.next | with_reducible apply OnlyEnds.ite | with_reducible apply refuseOffer_only | with_reducible apply resumeOffer_only | with_reducible apply sendOffer_only | with_reducible apply beginStaging_only | with_reducible refine OnlyChanges.foldl ?_ (fun _ _ _ => ?_) | with_reducible apply OnlyChanges.ite | split | (with_reducible apply OnlyChanges.upd <;> first | with_reducible exact fun _ => rfl | exact fun q => absurd (by decide) q | skip)
  all_goals decide

theorem execChainAnswer_only (src imageId result firstBlock : Nat) {s t_ : State} (e_ : execChainAnswer src imageId result firstBlock s = .next t_) : OnlyChanges ([.trv, .chain]) s t_ := by
  refine OnlyEnds.elim ?_ e_
  clear e_
  unfold execChainAnswer
  try dsimp only
  repeat' first | with_reducible exact OnlyChanges.refl _ _ | with_reducible assumption | with_reducible apply OnlyEnds.next | with_reducible apply OnlyEnds.ite | with_reducible apply updChain_only | with_reducible apply forward16_only | with_reducible apply updEntry_only | with_reducible apply sendOffer_only | with_reducible refine OnlyChanges.foldl ?_ (fun _ _ _ => ?_) | with_reducible apply OnlyChanges.ite | split | (with_reducible apply OnlyChanges.upd <;> first | with_reducible exact fun _ => rfl | exact fun q => absurd (by decide) q | skip)
  all_goals decide

theorem execChainBlock_only (src imageId block half : Nat) (data tag : List Byte) {s t_ : State} (e_ : execChainBlock src imageId block half data tag s = .next t_) : OnlyChanges ([.port, .trv, .chain, .store]) s t_ := by
  refine OnlyEnds.elim ?_ e_
  clear e_
  unfold execChainBlock
  try dsimp only
  repeat' first | with_reducible exact OnlyChanges.refl _ _ | with_reducible assumption | with_reducible apply OnlyEnds.next | with_reducible apply OnlyEnds.ite | with_reducible apply stageHalf_only | with_reducible apply forward16_only | with_reducible apply chainSend_only | with_reducible refine OnlyChanges.foldl ?_ (fun _ _ _ => ?_) | with_reducible apply OnlyChanges.ite | split | (with_reducible apply OnlyChanges.upd <;> first | with_reducible exact fun _ => rfl | exact fun q => absurd (by decide) q | skip)
  all_goals decide

theorem execChainBlockAck_only (src imageId highest : Nat) {s t_ : State} (e_ : execChainBlockAck src imageId highest s = .next t_) : OnlyChanges ([.trv, .chain]) s t_ := by
  refine OnlyEnds.elim ?_ e_
  clear e_
  unfold execChainBlockAck
  try dsimp only
  repeat' first | with_reducible exact OnlyChanges.refl _ _ | with_reducible assumption | with_reducible apply OnlyEnds.next | with_reducible apply OnlyEnds.ite | with_reducible apply forward16_only | with_reducible apply updChain_only | with_reducible refine OnlyChanges.foldl ?_ (fun _ _ _ => ?_) | with_reducible apply OnlyChanges.ite | split | (with_reducible apply OnlyChanges.upd <;> first | with_reducible exact fun _ => rfl | exact fun q => absurd (by decide) q | skip)
  all_goals decide

theorem execChainProgress_only (src imageId highest rate : Nat) {s t_ : State} (e_ : execChainProgress src imageId highest rate s = .next t_) : OnlyChanges ([.port, .trv, .chain, .store]) s t_ := by
  refine OnlyEnds.elim ?_ e_
  clear e_
  unfold execChainProgress
  try dsimp only
  repeat' first | with_reducible exact OnlyChanges.refl _ _ | with_reducible assumption | with_reducible apply OnlyEnds.next | with_reducible apply OnlyEnds.ite | with_reducible apply updEntry_only | with_reducible apply markSlow_only | with_reducible apply updChain_only | with_reducible apply bypass_only | with_reducible refine OnlyChanges.foldl ?_ (fun _ _ _ => ?_) | with_reducible apply OnlyChanges.ite | split | (with_reducible apply OnlyChanges.upd <;> first | with_reducible exact fun _ => rfl | exact fun q => absurd (by decide) q | skip)
  all_goals decide

theorem execChainProgressSend_only  {s t_ : State} (e_ : execChainProgressSend s = .next t_) : OnlyChanges ([.trv, .chain]) s t_ := by
  refine OnlyEnds.elim ?_ e_
  clear e_
  unfold execChainProgressSend
  try dsimp only
  repeat' first | with_reducible exact OnlyChanges.refl _ _ | with_reducible assumption | with_reducible apply OnlyEnds.next | with_reducible apply OnlyEnds.ite | with_reducible apply updChain_only | with_reducible apply chainSend_only | with_reducible refine OnlyChanges.foldl ?_ (fun _ _ _ => ?_) | with_reducible apply OnlyChanges.ite | split | (with_reducible apply OnlyChanges.upd <;> first | with_reducible exact fun _ => rfl | exact fun q => absurd (by decide) q | skip)
  all_goals decide

theorem execChainReroute_only (src imageId next position : Nat) {s t_ : State} (e_ : execChainReroute src imageId next position s = .next t_) : OnlyChanges ([.trv, .chain]) s t_ := by
  refine OnlyEnds.elim ?_ e_
  clear e_
  unfold execChainReroute
  try dsimp only
  repeat' first | with_reducible exact OnlyChanges.refl _ _ | with_reducible assumption | with_reducible apply OnlyEnds.next | with_reducible apply OnlyEnds.ite | with_reducible apply sendOffer_only | with_reducible apply updChain_only | with_reducible refine OnlyChanges.foldl ?_ (fun _ _ _ => ?_) | with_reducible apply OnlyChanges.ite | split | (with_reducible apply OnlyChanges.upd <;> first | with_reducible exact fun _ => rfl | exact fun q => absurd (by decide) q | skip)
  all_goals decide

theorem execChainAbort_only (src imageId : Nat) {s t_ : State} (e_ : execChainAbort src imageId s = .next t_) : OnlyChanges ([.port, .ease, .chain, .store]) s t_ := by
  refine OnlyEnds.elim ?_ e_
  clear e_
  unfold execChainAbort
  try dsimp only
  repeat' first | with_reducible exact OnlyChanges.refl _ _ | with_reducible assumption | with_reducible apply OnlyEnds.next | with_reducible apply OnlyEnds.ite | with_reducible apply emptyStaging_only | with_reducible apply stagingDone_only | with_reducible refine OnlyChanges.foldl ?_ (fun _ _ _ => ?_) | with_reducible apply OnlyChanges.ite | split | (with_reducible apply OnlyChanges.upd <;> first | with_reducible exact fun _ => rfl | exact fun q => absurd (by decide) q | skip)
  all_goals decide

theorem execChainDone_only (src imageId result : Nat) {s t_ : State} (e_ : execChainDone src imageId result s = .next t_) : OnlyChanges ([.port, .chain, .store]) s t_ := by
  refine OnlyEnds.elim ?_ e_
  clear e_
  unfold execChainDone
  try dsimp only
  repeat' first | with_reducible exact OnlyChanges.refl _ _ | with_reducible assumption | with_reducible apply OnlyEnds.next | with_reducible apply OnlyEnds.ite | with_reducible apply updEntry_only | with_reducible apply chainNode_only | with_reducible apply updChain_only | with_reducible refine OnlyChanges.foldl ?_ (fun _ _ _ => ?_) | with_reducible apply OnlyChanges.ite | split | (with_reducible apply OnlyChanges.upd <;> first | with_reducible exact fun _ => rfl | exact fun q => absurd (by decide) q | skip)
  all_goals decide

theorem execChainReceiverSilent_only  {s t_ : State} (e_ : execChainReceiverSilent s = .next t_) : OnlyChanges ([.trv, .chain]) s t_ := by
  refine OnlyEnds.elim ?_ e_
  clear e_
  unfold execChainReceiverSilent
  try dsimp only
  repeat' first | with_reducible exact OnlyChanges.refl _ _ | with_reducible assumption | with_reducible apply OnlyEnds.next | with_reducible apply OnlyEnds.ite | with_reducible apply sendOffer_only | with_reducible refine OnlyChanges.foldl ?_ (fun _ _ _ => ?_) | with_reducible apply OnlyChanges.ite | split | (with_reducible apply OnlyChanges.upd <;> first | with_reducible exact fun _ => rfl | exact fun q => absurd (by decide) q | skip)
  all_goals decide

theorem execChainStall_only  {s t_ : State} (e_ : execChainStall s = .next t_) : OnlyChanges ([.port, .ease, .trv, .chain, .store]) s t_ := by
  refine OnlyEnds.elim ?_ e_
  clear e_
  unfold execChainStall
  try dsimp only
  repeat' first | with_reducible exact OnlyChanges.refl _ _ | with_reducible assumption | with_reducible apply OnlyEnds.next | with_reducible apply OnlyEnds.ite | with_reducible apply chainNode_only | with_reducible apply updEntry_only | with_reducible apply chainSend_only | with_reducible apply stagingDone_only | with_reducible apply emptyStaging_only | with_reducible refine OnlyChanges.foldl ?_ (fun _ _ _ => ?_) | with_reducible apply OnlyChanges.ite | split | (with_reducible apply OnlyChanges.upd <;> first | with_reducible exact fun _ => rfl | exact fun q => absurd (by decide) q | skip)
  all_goals decide

theorem execUpdateProgress_only  {s t_ : State} (e_ : execUpdateProgress s = .next t_) : OnlyChanges ([.port, .chain, .store]) s t_ := by
  refine OnlyEnds.elim ?_ e_
  clear e_
  unfold execUpdateProgress
  try dsimp only
  repeat' first | with_reducible exact OnlyChanges.refl _ _ | with_reducible assumption | with_reducible apply OnlyEnds.next | with_reducible apply OnlyEnds.ite | with_reducible apply updateProgressEvent_only | with_reducible refine OnlyChanges.foldl ?_ (fun _ _ _ => ?_) | with_reducible apply OnlyChanges.ite | split | (with_reducible apply OnlyChanges.upd <;> first | with_reducible exact fun _ => rfl | exact fun q => absurd (by decide) q | skip)
  all_goals decide

theorem execRoleChallenge_only (h : Hdr) (p : List Byte) {s t_ : State} (e_ : execRoleChallenge h p s = .next t_) : OnlyChanges (taken h ([.factory, .port, .roles])) s t_ := by
  unfold taken
  split
  next w_ =>
    unfold execRoleChallenge at e_
    injection e_ with e_
    subst e_
    exact hostCommand_ack _ _ _ _ w_ (by decide) (by decide) (by decide) (OnlyChanges.refl _ _)
  rename_i w_
  refine OnlyEnds.elim ?_ e_
  clear e_
  unfold execRoleChallenge
  try dsimp only
  repeat' first | with_reducible exact OnlyChanges.refl _ _ | with_reducible assumption | with_reducible apply OnlyEnds.next | with_reducible apply OnlyEnds.ite | with_reducible refine hostCommand_only _ _ _ w_ ?_ ?_ ?_ (fun _ _ => ?_) | with_reducible apply roleChallengeCmd_only | with_reducible refine OnlyChanges.foldl ?_ (fun _ _ _ => ?_) | with_reducible apply OnlyChanges.ite | split | (with_reducible apply OnlyChanges.upd <;> first | with_reducible exact fun _ => rfl | exact fun q => absurd (by decide) q | skip)
  all_goals decide

theorem execRoleOpen_only (h : Hdr) (p : List Byte) {s t_ : State} (e_ : execRoleOpen h p s = .next t_) : OnlyChanges (taken h ([.port, .roles, .store])) s t_ := by
  unfold taken
  split
  next w_ =>
    unfold execRoleOpen at e_
    injection e_ with e_
    subst e_
    exact hostCommand_ack _ _ _ _ w_ (by decide) (by decide) (by decide) (OnlyChanges.refl _ _)
  rename_i w_
  refine OnlyEnds.elim ?_ e_
  clear e_
  unfold execRoleOpen
  try dsimp only
  repeat' first | with_reducible exact OnlyChanges.refl _ _ | with_reducible assumption | with_reducible apply OnlyEnds.next | with_reducible apply OnlyEnds.ite | with_reducible refine hostCommand_only _ _ _ w_ ?_ ?_ ?_ (fun _ _ => ?_) | with_reducible apply roleOpenCmd_only | with_reducible refine OnlyChanges.foldl ?_ (fun _ _ _ => ?_) | with_reducible apply OnlyChanges.ite | split | (with_reducible apply OnlyChanges.upd <;> first | with_reducible exact fun _ => rfl | exact fun q => absurd (by decide) q | skip)
  all_goals decide

theorem execRoleClose_only (h : Hdr) (p : List Byte) {s t_ : State} (e_ : execRoleClose h p s = .next t_) : OnlyChanges (taken h ([.port, .roles, .store])) s t_ := by
  unfold taken
  split
  next w_ =>
    unfold execRoleClose at e_
    injection e_ with e_
    subst e_
    exact hostCommand_ack _ _ _ _ w_ (by decide) (by decide) (by decide) (OnlyChanges.refl _ _)
  rename_i w_
  refine OnlyEnds.elim ?_ e_
  clear e_
  unfold execRoleClose
  try dsimp only
  repeat' first | with_reducible exact OnlyChanges.refl _ _ | with_reducible assumption | with_reducible apply OnlyEnds.next | with_reducible apply OnlyEnds.ite | with_reducible refine hostCommand_only _ _ _ w_ ?_ ?_ ?_ (fun _ _ => ?_) | with_reducible apply roleCloseCmd_only | with_reducible refine OnlyChanges.foldl ?_ (fun _ _ _ => ?_) | with_reducible apply OnlyChanges.ite | split | (with_reducible apply OnlyChanges.upd <;> first | with_reducible exact fun _ => rfl | exact fun q => absurd (by decide) q | skip)
  all_goals decide

theorem execRoleIdleTimeout_only  {s t_ : State} (e_ : execRoleIdleTimeout s = .next t_) : OnlyChanges ([.port, .roles, .store]) s t_ := by
  refine OnlyEnds.elim ?_ e_
  clear e_
  unfold execRoleIdleTimeout
  try dsimp only
  repeat' first | with_reducible exact OnlyChanges.refl _ _ | with_reducible assumption | with_reducible apply OnlyEnds.next | with_reducible apply OnlyEnds.ite | with_reducible apply roleEnded_only | with_reducible apply updRoles_only | with_reducible refine OnlyChanges.foldl ?_ (fun _ _ _ => ?_) | with_reducible apply OnlyChanges.ite | split | (with_reducible apply OnlyChanges.upd <;> first | with_reducible exact fun _ => rfl | exact fun q => absurd (by decide) q | skip)
  all_goals decide

theorem execRoleLockoutEnd_only (role : Nat) {s t_ : State} (e_ : execRoleLockoutEnd role s = .next t_) : OnlyChanges ([.roles]) s t_ := by
  refine OnlyEnds.elim ?_ e_
  clear e_
  unfold execRoleLockoutEnd
  try dsimp only
  repeat' first | with_reducible exact OnlyChanges.refl _ _ | with_reducible assumption | with_reducible apply OnlyEnds.next | with_reducible apply OnlyEnds.ite | with_reducible apply updRoles_only | with_reducible refine OnlyChanges.foldl ?_ (fun _ _ _ => ?_) | with_reducible apply OnlyChanges.ite | split | (with_reducible apply OnlyChanges.upd <;> first | with_reducible exact fun _ => rfl | exact fun q => absurd (by decide) q | skip)
  all_goals decide

theorem execRoleKeySet_only (h : Hdr) (p : List Byte) {s t_ : State} (e_ : execRoleKeySet h p s = .next t_) : OnlyChanges (taken h ([.port, .roles])) s t_ := by
  unfold taken
  split
  next w_ =>
    unfold execRoleKeySet at e_
    injection e_ with e_
    subst e_
    exact hostCommand_ack _ _ _ _ w_ (by decide) (by decide) (by decide) (OnlyChanges.refl _ _)
  rename_i w_
  refine OnlyEnds.elim ?_ e_
  clear e_
  unfold execRoleKeySet
  try dsimp only
  repeat' first | with_reducible exact OnlyChanges.refl _ _ | with_reducible assumption | with_reducible apply OnlyEnds.next | with_reducible apply OnlyEnds.ite | with_reducible refine hostCommand_only _ _ _ w_ ?_ ?_ ?_ (fun _ _ => ?_) | with_reducible apply roleKeySetCmd_only | with_reducible refine OnlyChanges.foldl ?_ (fun _ _ _ => ?_) | with_reducible apply OnlyChanges.ite | split | (with_reducible apply OnlyChanges.upd <;> first | with_reducible exact fun _ => rfl | exact fun q => absurd (by decide) q | skip)
  all_goals decide

theorem execRegionWatchdog_only (region : Nat) {s t_ : State} (e_ : execRegionWatchdog region s = .next t_) : OnlyChanges ([.rst, .port, .faults, .ease, .energy, .billing, .link, .sw, .loads, .trv, .rdr, .disp, .store]) s t_ := by
  refine OnlyEnds.elim ?_ e_
  clear e_
  unfold execRegionWatchdog
  try dsimp only
  repeat' first | with_reducible exact OnlyChanges.refl _ _ | with_reducible assumption | with_reducible apply OnlyEnds.next | with_reducible apply OnlyEnds.ite | with_reducible apply assertSource_only | with_reducible apply report_only | with_reducible refine OnlyChanges.foldl ?_ (fun _ _ _ => ?_) | with_reducible apply OnlyChanges.ite | split | (with_reducible apply OnlyChanges.upd <;> first | with_reducible exact fun _ => rfl | exact fun q => absurd (by decide) q | skip)
  all_goals decide

theorem execAppWatchdog_only  {s t_ : State} (e_ : execAppWatchdog s = .next t_) : OnlyChanges ([.rst, .port, .faults, .ease, .energy, .billing, .link, .sw, .loads, .trv, .rdr, .disp, .store]) s t_ := by
  refine OnlyEnds.elim ?_ e_
  clear e_
  unfold execAppWatchdog
  try dsimp only
  repeat' first | with_reducible exact OnlyChanges.refl _ _ | with_reducible assumption | with_reducible apply OnlyEnds.next | with_reducible apply OnlyEnds.ite | with_reducible apply assertSource_only | with_reducible apply report_only | with_reducible refine OnlyChanges.foldl ?_ (fun _ _ _ => ?_) | with_reducible apply OnlyChanges.ite | split | (with_reducible apply OnlyChanges.upd <;> first | with_reducible exact fun _ => rfl | exact fun q => absurd (by decide) q | skip)
  all_goals decide

theorem execResetNAssert_only  {s t_ : State} (e_ : execResetNAssert s = .next t_) : OnlyChanges ([.rst, .port, .ease, .energy, .billing, .link, .sw, .loads, .trv, .rdr, .disp, .store]) s t_ := by
  refine OnlyEnds.elim ?_ e_
  clear e_
  unfold execResetNAssert
  try dsimp only
  repeat' first | with_reducible exact OnlyChanges.refl _ _ | with_reducible assumption | with_reducible apply OnlyEnds.next | with_reducible apply OnlyEnds.ite | with_reducible apply updRst_only | with_reducible apply assertSource_only | with_reducible refine OnlyChanges.foldl ?_ (fun _ _ _ => ?_) | with_reducible apply OnlyChanges.ite | split | (with_reducible apply OnlyChanges.upd <;> first | with_reducible exact fun _ => rfl | exact fun q => absurd (by decide) q | skip)
  all_goals decide

theorem execResetNRelease_only  {s t_ : State} (e_ : execResetNRelease s = .next t_) : OnlyChanges ([.rst]) s t_ := by
  refine OnlyEnds.elim ?_ e_
  clear e_
  unfold execResetNRelease
  try dsimp only
  repeat' first | with_reducible exact OnlyChanges.refl _ _ | with_reducible assumption | with_reducible apply OnlyEnds.next | with_reducible apply OnlyEnds.ite | with_reducible apply releaseSource_only | with_reducible apply updRst_only | with_reducible refine OnlyChanges.foldl ?_ (fun _ _ _ => ?_) | with_reducible apply OnlyChanges.ite | split | (with_reducible apply OnlyChanges.upd <;> first | with_reducible exact fun _ => rfl | exact fun q => absurd (by decide) q | skip)
  all_goals decide

theorem execStuckReset_only  {s t_ : State} (e_ : execStuckReset s = .next t_) : OnlyChanges ([.rst]) s t_ := by
  refine OnlyEnds.elim ?_ e_
  clear e_
  unfold execStuckReset
  try dsimp only
  repeat' first | with_reducible exact OnlyChanges.refl _ _ | with_reducible assumption | with_reducible apply OnlyEnds.next | with_reducible apply OnlyEnds.ite | with_reducible apply releaseSource_only | with_reducible apply updCause_only | with_reducible apply updRst_only | with_reducible refine OnlyChanges.foldl ?_ (fun _ _ _ => ?_) | with_reducible apply OnlyChanges.ite | split | (with_reducible apply OnlyChanges.upd <;> first | with_reducible exact fun _ => rfl | exact fun q => absurd (by decide) q | skip)
  all_goals decide

theorem execResetNRearm_only  {s t_ : State} (e_ : execResetNRearm s = .next t_) : OnlyChanges ([.rst]) s t_ := by
  refine OnlyEnds.elim ?_ e_
  clear e_
  unfold execResetNRearm
  try dsimp only
  repeat' first | with_reducible exact OnlyChanges.refl _ _ | with_reducible assumption | with_reducible apply OnlyEnds.next | with_reducible apply OnlyEnds.ite | with_reducible apply updRst_only | with_reducible refine OnlyChanges.foldl ?_ (fun _ _ _ => ?_) | with_reducible apply OnlyChanges.ite | split | (with_reducible apply OnlyChanges.upd <;> first | with_reducible exact fun _ => rfl | exact fun q => absurd (by decide) q | skip)
  all_goals decide

theorem execRailBor_only  {s t_ : State} (e_ : execRailBor s = .next t_) : OnlyChanges ([.factory, .power, .rst, .port, .ease, .energy, .billing, .link, .sw, .loads, .trv, .rdr, .disp, .store]) s t_ := by
  refine OnlyEnds.elim ?_ e_
  clear e_
  unfold execRailBor
  try dsimp only
  repeat' first | with_reducible exact OnlyChanges.refl _ _ | with_reducible assumption | with_reducible apply OnlyEnds.next | with_reducible apply OnlyEnds.ite | with_reducible apply railFails_only | with_reducible apply assertSource_only | with_reducible apply State.drawFree_only | with_reducible apply updRst_only | with_reducible refine OnlyChanges.foldl ?_ (fun _ _ _ => ?_) | with_reducible apply OnlyChanges.ite | split | (with_reducible apply OnlyChanges.upd <;> first | with_reducible exact fun _ => rfl | exact fun q => absurd (by decide) q | skip)
  all_goals decide

theorem execSessionHoldExpired_only  {s t_ : State} (e_ : execSessionHoldExpired s = .next t_) : OnlyChanges ([.rst, .port, .ease, .billing, .link, .sw, .store]) s t_ := by
  refine OnlyEnds.elim ?_ e_
  clear e_
  unfold execSessionHoldExpired
  try dsimp only
  repeat' first | with_reducible exact OnlyChanges.refl _ _ | with_reducible assumption | with_reducible apply OnlyEnds.next | with_reducible apply OnlyEnds.ite | with_reducible apply demandStop_only | with_reducible apply event_only | with_reducible apply updCause_only | with_reducible apply updRst_only | with_reducible refine OnlyChanges.foldl ?_ (fun _ _ _ => ?_) | with_reducible apply OnlyChanges.ite | split | (with_reducible apply OnlyChanges.upd <;> first | with_reducible exact fun _ => rfl | exact fun q => absurd (by decide) q | skip)
  all_goals decide

theorem execResetDelayEnd_only  {s t_ : State} (e_ : execResetDelayEnd s = .next t_) : OnlyChanges ([.rst, .port, .ease, .energy, .billing, .link, .sw, .loads, .trv, .rdr, .disp, .store]) s t_ := by
  refine OnlyEnds.elim ?_ e_
  clear e_
  unfold execResetDelayEnd
  try dsimp only
  repeat' first | with_reducible exact OnlyChanges.refl _ _ | with_reducible assumption | with_reducible apply OnlyEnds.next | with_reducible apply OnlyEnds.ite | with_reducible apply assertSource_only | with_reducible apply updRst_only | with_reducible refine OnlyChanges.foldl ?_ (fun _ _ _ => ?_) | with_reducible apply OnlyChanges.ite | split | (with_reducible apply OnlyChanges.upd <;> first | with_reducible exact fun _ => rfl | exact fun q => absurd (by decide) q | skip)
  all_goals decide

theorem execCellErrorCorrected_only (cell count cycle : Nat) {s t_ : State} (e_ : execCellErrorCorrected cell count cycle s = .next t_) : OnlyChanges ([.faults]) s t_ := by
  refine OnlyEnds.elim ?_ e_
  clear e_
  unfold execCellErrorCorrected
  try dsimp only
  repeat' first | with_reducible exact OnlyChanges.refl _ _ | with_reducible assumption | with_reducible apply OnlyEnds.next | with_reducible apply OnlyEnds.ite | with_reducible apply updCell_only | with_reducible apply cellReport_only | with_reducible refine OnlyChanges.foldl ?_ (fun _ _ _ => ?_) | with_reducible apply OnlyChanges.ite | split | (with_reducible apply OnlyChanges.upd <;> first | with_reducible exact fun _ => rfl | exact fun q => absurd (by decide) q | skip)
  all_goals decide

theorem execCellUncorrectable_only (cell : Nat) (retryOk sequencer : Bool) (cycle : Nat) {s t_ : State} (e_ : execCellUncorrectable cell retryOk sequencer cycle s = .next t_) : OnlyChanges ([.rst, .port, .faults, .ease, .energy, .billing, .link, .sw, .loads, .trv, .rdr, .disp, .store]) s t_ := by
  refine OnlyEnds.elim ?_ e_
  clear e_
  unfold execCellUncorrectable
  try dsimp only
  repeat' first | with_reducible exact OnlyChanges.refl _ _ | with_reducible assumption | with_reducible apply OnlyEnds.next | with_reducible apply OnlyEnds.ite | with_reducible apply sequencerFault_only | with_reducible apply isolateCell_only | with_reducible refine OnlyChanges.foldl ?_ (fun _ _ _ => ?_) | with_reducible apply OnlyChanges.ite | split | (with_reducible apply OnlyChanges.upd <;> first | with_reducible exact fun _ => rfl | exact fun q => absurd (by decide) q | skip)
  all_goals decide

theorem execLockstepMismatch_only (cell cycle : Nat) {s t_ : State} (e_ : execLockstepMismatch cell cycle s = .next t_) : OnlyChanges ([.rst, .port, .faults, .ease, .energy, .billing, .link, .sw, .loads, .trv, .rdr, .disp, .store]) s t_ := by
  refine OnlyEnds.elim ?_ e_
  clear e_
  unfold execLockstepMismatch
  try dsimp only
  repeat' first | with_reducible exact OnlyChanges.refl _ _ | with_reducible assumption | with_reducible apply OnlyEnds.next | with_reducible apply OnlyEnds.ite | with_reducible apply safetyFault_only | with_reducible apply reportFrom_only | with_reducible refine OnlyChanges.foldl ?_ (fun _ _ _ => ?_) | with_reducible apply OnlyChanges.ite | split | (with_reducible apply OnlyChanges.upd <;> first | with_reducible exact fun _ => rfl | exact fun q => absurd (by decide) q | skip)
  all_goals decide

theorem execClockMonitorFault_only (region : Nat) (lossNotFreq : Bool) (source cycle : Nat) {s t_ : State} (e_ : execClockMonitorFault region lossNotFreq source cycle s = .next t_) : OnlyChanges ([.rst, .port, .faults, .ease, .fe, .energy, .billing, .link, .sw, .loads, .trv, .rdr, .disp, .store]) s t_ := by
  refine OnlyEnds.elim ?_ e_
  clear e_
  unfold execClockMonitorFault
  try dsimp only
  repeat' first | with_reducible exact OnlyChanges.refl _ _ | with_reducible assumption | with_reducible apply OnlyEnds.next | with_reducible apply OnlyEnds.ite | with_reducible apply modPllLost_only | with_reducible apply reportFrom_only | with_reducible apply globalSafeNow_only | with_reducible apply assertSource_only | with_reducible refine OnlyChanges.foldl ?_ (fun _ _ _ => ?_) | with_reducible apply OnlyChanges.ite | split | (with_reducible apply OnlyChanges.upd <;> first | with_reducible exact fun _ => rfl | exact fun q => absurd (by decide) q | skip)
  all_goals decide

theorem execSupplyFault_only (rail cycle : Nat) {s t_ : State} (e_ : execSupplyFault rail cycle s = .next t_) : OnlyChanges ([.rst, .port, .faults, .ease, .energy, .billing, .link, .sw, .loads, .trv, .rdr, .disp, .store]) s t_ := by
  refine OnlyEnds.elim ?_ e_
  clear e_
  unfold execSupplyFault
  try dsimp only
  repeat' first | with_reducible exact OnlyChanges.refl _ _ | with_reducible assumption | with_reducible apply OnlyEnds.next | with_reducible apply OnlyEnds.ite | with_reducible apply assertSource_only | with_reducible apply report_only | with_reducible refine OnlyChanges.foldl ?_ (fun _ _ _ => ?_) | with_reducible apply OnlyChanges.ite | split | (with_reducible apply OnlyChanges.upd <;> first | with_reducible exact fun _ => rfl | exact fun q => absurd (by decide) q | skip)
  all_goals decide

theorem execDeadlineMiss_only (job inst endCycle cycle : Nat) {s t_ : State} (e_ : execDeadlineMiss job inst endCycle cycle s = .next t_) : OnlyChanges ([.rst, .port, .faults, .ease, .fe, .energy, .billing, .link, .sw, .loads, .trv, .rdr, .disp, .store]) s t_ := by
  refine OnlyEnds.elim ?_ e_
  clear e_
  unfold execDeadlineMiss
  try dsimp only
  repeat' first | with_reducible exact OnlyChanges.refl _ _ | with_reducible assumption | with_reducible apply OnlyEnds.next | with_reducible apply OnlyEnds.ite | with_reducible apply countMiss_only | with_reducible apply deadlineReport_only | with_reducible apply queueMiss_only | with_reducible apply overflow_only | with_reducible apply escalation_only | with_reducible refine OnlyChanges.foldl ?_ (fun _ _ _ => ?_) | with_reducible apply OnlyChanges.ite | split | (with_reducible apply OnlyChanges.upd <;> first | with_reducible exact fun _ => rfl | exact fun q => absurd (by decide) q | skip)
  all_goals decide

theorem execResetTakesEffect_only  {s t_ : State} (e_ : execResetTakesEffect s = .next t_) : OnlyChanges ([.clock, .power, .rst, .modes, .port, .roles, .faults, .ease, .fe, .energy, .billing, .seals, .log, .link, .sw, .loads, .trv, .rdr, .tag, .disp, .chain, .store]) s t_ := by
  refine OnlyEnds.elim ?_ e_
  clear e_
  unfold execResetTakesEffect
  try dsimp only
  repeat' first | with_reducible exact OnlyChanges.refl _ _ | with_reducible assumption | with_reducible apply OnlyEnds.next | with_reducible apply OnlyEnds.ite | with_reducible apply takeEffect_only | with_reducible refine OnlyChanges.foldl ?_ (fun _ _ _ => ?_) | with_reducible apply OnlyChanges.ite | split | (with_reducible apply OnlyChanges.upd <;> first | with_reducible exact fun _ => rfl | exact fun q => absurd (by decide) q | skip)
  all_goals decide

theorem execResetRelease_only (b : BootIn) {s t_ : State} (e_ : execResetRelease b s = .next t_) : OnlyChanges ([.clock, .power, .rst, .modes, .port, .faults, .ease, .fe, .energy, .billing, .seals, .log, .link, .sw, .loads, .trv, .rdr, .tag, .disp, .store]) s t_ := by
  refine OnlyEnds.elim ?_ e_
  clear e_
  unfold execResetRelease
  try dsimp only
  repeat' first | with_reducible exact OnlyChanges.refl _ _ | with_reducible assumption | with_reducible apply OnlyEnds.next | with_reducible apply OnlyEnds.ite | with_reducible apply bootFrom_only | with_reducible refine OnlyChanges.foldl ?_ (fun _ _ _ => ?_) | with_reducible apply OnlyChanges.ite | split | (with_reducible apply OnlyChanges.upd <;> first | with_reducible exact fun _ => rfl | exact fun q => absurd (by decide) q | skip)
  all_goals decide

theorem execReady_only (vbatMv : Nat) {s t_ : State} (e_ : execReady vbatMv s = .next t_) : OnlyChanges ([.factory, .power, .rst, .modes, .port, .ease, .energy, .billing, .log, .sw, .trv, .tag, .disp, .chain, .store]) s t_ := by
  refine OnlyEnds.elim ?_ e_
  clear e_
  unfold execReady
  try dsimp only
  repeat' first | with_reducible exact OnlyChanges.refl _ _ | with_reducible assumption | with_reducible apply OnlyEnds.next | with_reducible apply OnlyEnds.ite | with_reducible apply becomeReady_only | with_reducible refine OnlyChanges.foldl ?_ (fun _ _ _ => ?_) | with_reducible apply OnlyChanges.ite | split | (with_reducible apply OnlyChanges.upd <;> first | with_reducible exact fun _ => rfl | exact fun q => absurd (by decide) q | skip)
  all_goals decide

theorem execPowerFailWarning_only (vauxMv : Nat) {s t_ : State} (e_ : execPowerFailWarning vauxMv s = .next t_) : OnlyChanges ([.power, .rst, .port, .ease, .energy, .billing, .sw, .loads, .trv, .rdr, .disp, .store]) s t_ := by
  refine OnlyEnds.elim ?_ e_
  clear e_
  unfold execPowerFailWarning
  try dsimp only
  repeat' first | with_reducible exact OnlyChanges.refl _ _ | with_reducible assumption | with_reducible apply OnlyEnds.next | with_reducible apply OnlyEnds.ite | with_reducible apply powerFail_only | with_reducible refine OnlyChanges.foldl ?_ (fun _ _ _ => ?_) | with_reducible apply OnlyChanges.ite | split | (with_reducible apply OnlyChanges.upd <;> first | with_reducible exact fun _ => rfl | exact fun q => absurd (by decide) q | skip)
  all_goals decide

theorem execTailSave_only  {s t_ : State} (e_ : execTailSave s = .next t_) : OnlyChanges ([.energy, .store]) s t_ := by
  refine OnlyEnds.elim ?_ e_
  clear e_
  unfold execTailSave
  try dsimp only
  repeat' first | with_reducible exact OnlyChanges.refl _ _ | with_reducible assumption | with_reducible apply OnlyEnds.next | with_reducible apply OnlyEnds.ite | with_reducible apply tailSave_only | with_reducible refine OnlyChanges.foldl ?_ (fun _ _ _ => ?_) | with_reducible apply OnlyChanges.ite | split | (with_reducible apply OnlyChanges.upd <;> first | with_reducible exact fun _ => rfl | exact fun q => absurd (by decide) q | skip)
  all_goals decide

theorem execHoldDropOut_only (stepsDone : Nat) {s t_ : State} (e_ : execHoldDropOut stepsDone s = .next t_) : OnlyChanges ([.factory, .clock, .power, .rst, .modes, .port, .roles, .faults, .ease, .fe, .energy, .billing, .seals, .log, .link, .sw, .loads, .trv, .rdr, .tag, .disp, .chain, .store]) s t_ := by
  refine OnlyEnds.elim ?_ e_
  clear e_
  unfold execHoldDropOut
  try dsimp only
  repeat' first | with_reducible exact OnlyChanges.refl _ _ | with_reducible assumption | with_reducible apply OnlyEnds.next | with_reducible apply OnlyEnds.ite | with_reducible apply dropOut_only | with_reducible refine OnlyChanges.foldl ?_ (fun _ _ _ => ?_) | with_reducible apply OnlyChanges.ite | split | (with_reducible apply OnlyChanges.upd <;> first | with_reducible exact fun _ => rfl | exact fun q => absurd (by decide) q | skip)
  all_goals decide

theorem execPfReturn_only  {s t_ : State} (e_ : execPfReturn s = .next t_) : OnlyChanges ([.power, .rst, .port, .ease, .energy, .billing, .link, .sw, .loads, .trv, .rdr, .disp, .store]) s t_ := by
  refine OnlyEnds.elim ?_ e_
  clear e_
  unfold execPfReturn
  try dsimp only
  repeat' first | with_reducible exact OnlyChanges.refl _ _ | with_reducible assumption | with_reducible apply OnlyEnds.next | with_reducible apply OnlyEnds.ite | with_reducible apply updRst_only | with_reducible apply updPower_only | with_reducible apply assertSource_only | with_reducible apply shutStep6_only | with_reducible refine OnlyChanges.foldl ?_ (fun _ _ _ => ?_) | with_reducible apply OnlyChanges.ite | split | (with_reducible apply OnlyChanges.upd <;> first | with_reducible exact fun _ => rfl | exact fun q => absurd (by decide) q | skip)
  all_goals decide

theorem execVauxReversed_only  {s t_ : State} (e_ : execVauxReversed s = .next t_) : OnlyChanges ([.power, .rst, .port, .ease, .energy, .billing, .sw, .loads, .trv, .rdr, .disp, .store]) s t_ := by
  refine OnlyEnds.elim ?_ e_
  clear e_
  unfold execVauxReversed
  try dsimp only
  repeat' first | with_reducible exact OnlyChanges.refl _ _ | with_reducible assumption | with_reducible apply OnlyEnds.next | with_reducible apply OnlyEnds.ite | with_reducible apply updPower_only | with_reducible apply powerFail_only | with_reducible refine OnlyChanges.foldl ?_ (fun _ _ _ => ?_) | with_reducible apply OnlyChanges.ite | split | (with_reducible apply OnlyChanges.upd <;> first | with_reducible exact fun _ => rfl | exact fun q => absurd (by decide) q | skip)
  all_goals decide

theorem execPowerOn_only (vauxMv : Nat) {s t_ : State} (e_ : execPowerOn vauxMv s = .next t_) : OnlyChanges ([.power, .rst]) s t_ := by
  refine OnlyEnds.elim ?_ e_
  clear e_
  unfold execPowerOn
  try dsimp only
  repeat' first | with_reducible exact OnlyChanges.refl _ _ | with_reducible assumption | with_reducible apply OnlyEnds.next | with_reducible apply OnlyEnds.ite | with_reducible apply updRst_only | with_reducible apply openEntry_only | with_reducible refine OnlyChanges.foldl ?_ (fun _ _ _ => ?_) | with_reducible apply OnlyChanges.ite | split | (with_reducible apply OnlyChanges.upd <;> first | with_reducible exact fun _ => rfl | exact fun q => absurd (by decide) q | skip)
  all_goals decide

theorem execVauxSurgeOn_only  {s t_ : State} (e_ : execVauxSurgeOn s = .next t_) : OnlyChanges ([.power, .port, .ease, .loads, .store]) s t_ := by
  refine OnlyEnds.elim ?_ e_
  clear e_
  unfold execVauxSurgeOn
  try dsimp only
  repeat' first | with_reducible exact OnlyChanges.refl _ _ | with_reducible assumption | with_reducible apply OnlyEnds.next | with_reducible apply OnlyEnds.ite | with_reducible apply updPower_only | with_reducible apply surgeEvent_only | with_reducible apply holdBank_only | with_reducible refine OnlyChanges.foldl ?_ (fun _ _ _ => ?_) | with_reducible apply OnlyChanges.ite | split | (with_reducible apply OnlyChanges.upd <;> first | with_reducible exact fun _ => rfl | exact fun q => absurd (by decide) q | skip)
  all_goals decide

theorem execVauxSurgeOff_only  {s t_ : State} (e_ : execVauxSurgeOff s = .next t_) : OnlyChanges ([.power, .port, .ease, .loads, .store]) s t_ := by
  refine OnlyEnds.elim ?_ e_
  clear e_
  unfold execVauxSurgeOff
  try dsimp only
  repeat' first | with_reducible exact OnlyChanges.refl _ _ | with_reducible assumption | with_reducible apply OnlyEnds.next | with_reducible apply OnlyEnds.ite | with_reducible apply updPower_only | with_reducible apply surgeEvent_only | with_reducible apply releaseBank_only | with_reducible refine OnlyChanges.foldl ?_ (fun _ _ _ => ?_) | with_reducible apply OnlyChanges.ite | split | (with_reducible apply OnlyChanges.upd <;> first | with_reducible exact fun _ => rfl | exact fun q => absurd (by decide) q | skip)
  all_goals decide

theorem execVbatCheck_only (vbatMv : Nat) {s t_ : State} (e_ : execVbatCheck vbatMv s = .next t_) : OnlyChanges ([.power, .port, .store]) s t_ := by
  refine OnlyEnds.elim ?_ e_
  clear e_
  unfold execVbatCheck
  try dsimp only
  repeat' first | with_reducible exact OnlyChanges.refl _ _ | with_reducible assumption | with_reducible apply OnlyEnds.next | with_reducible apply OnlyEnds.ite | with_reducible apply vbatMeasured_only | with_reducible refine OnlyChanges.foldl ?_ (fun _ _ _ => ?_) | with_reducible apply OnlyChanges.ite | split | (with_reducible apply OnlyChanges.upd <;> first | with_reducible exact fun _ => rfl | exact fun q => absurd (by decide) q | skip)
  all_goals decide

theorem execRetentionLoss_only  {s t_ : State} (e_ : execRetentionLoss s = .next t_) : OnlyChanges ([.power]) s t_ := by
  refine OnlyEnds.elim ?_ e_
  clear e_
  unfold execRetentionLoss
  try dsimp only
  repeat' first | with_reducible exact OnlyChanges.refl _ _ | with_reducible assumption | with_reducible apply OnlyEnds.next | with_reducible apply OnlyEnds.ite | with_reducible apply updPower_only | with_reducible refine OnlyChanges.foldl ?_ (fun _ _ _ => ?_) | with_reducible apply OnlyChanges.ite | split | (with_reducible apply OnlyChanges.upd <;> first | with_reducible exact fun _ => rfl | exact fun q => absurd (by decide) q | skip)
  all_goals decide

theorem execHoldLowCheck_only (vauxMv holdMv : Nat) {s t_ : State} (e_ : execHoldLowCheck vauxMv holdMv s = .next t_) : OnlyChanges ([.power]) s t_ := by
  refine OnlyEnds.elim ?_ e_
  clear e_
  unfold execHoldLowCheck
  try dsimp only
  repeat' first | with_reducible exact OnlyChanges.refl _ _ | with_reducible assumption | with_reducible apply OnlyEnds.next | with_reducible apply OnlyEnds.ite | with_reducible apply updPower_only | with_reducible refine OnlyChanges.foldl ?_ (fun _ _ _ => ?_) | with_reducible apply OnlyChanges.ite | split | (with_reducible apply OnlyChanges.upd <;> first | with_reducible exact fun _ => rfl | exact fun q => absurd (by decide) q | skip)
  all_goals decide

theorem execReset_only (h : Hdr) (p : List Byte) {s t_ : State} (e_ : execReset h p s = .next t_) : OnlyChanges (taken h ([.rst, .port, .roles, .ease, .billing, .link, .sw, .store])) s t_ := by
  unfold taken
  split
  next w_ =>
    unfold execReset at e_
    injection e_ with e_
    subst e_
    exact hostCommand_ack _ _ _ _ w_ (by decide) (by decide) (by decide) (OnlyChanges.refl _ _)
  rename_i w_
  refine OnlyEnds.elim ?_ e_
  clear e_
  unfold execReset
  try dsimp only
  repeat' first | with_reducible exact OnlyChanges.refl _ _ | with_reducible assumption | with_reducible apply OnlyEnds.next | with_reducible apply OnlyEnds.ite | with_reducible refine hostCommand_only _ _ _ w_ ?_ ?_ ?_ (fun _ _ => ?_) | with_reducible apply resetCmd_only | with_reducible refine OnlyChanges.foldl ?_ (fun _ _ _ => ?_) | with_reducible apply OnlyChanges.ite | split | (with_reducible apply OnlyChanges.upd <;> first | with_reducible exact fun _ => rfl | exact fun q => absurd (by decide) q | skip)
  all_goals decide

theorem execModeSet_only (h : Hdr) (p : List Byte) {s t_ : State} (e_ : execModeSet h p s = .next t_) : OnlyChanges (taken h ([.modes, .port, .roles, .energy, .billing, .log, .tag, .store])) s t_ := by
  unfold taken
  split
  next w_ =>
    unfold execModeSet at e_
    injection e_ with e_
    subst e_
    exact hostCommand_ack _ _ _ _ w_ (by decide) (by decide) (by decide) (OnlyChanges.refl _ _)
  rename_i w_
  refine OnlyEnds.elim ?_ e_
  clear e_
  unfold execModeSet
  try dsimp only
  repeat' first | with_reducible exact OnlyChanges.refl _ _ | with_reducible assumption | with_reducible apply OnlyEnds.next | with_reducible apply OnlyEnds.ite | with_reducible refine hostCommand_only _ _ _ w_ ?_ ?_ ?_ (fun _ _ => ?_) | with_reducible apply modeSetCmd_only | with_reducible refine OnlyChanges.foldl ?_ (fun _ _ _ => ?_) | with_reducible apply OnlyChanges.ite | split | (with_reducible apply OnlyChanges.upd <;> first | with_reducible exact fun _ => rfl | exact fun q => absurd (by decide) q | skip)
  all_goals decide

theorem execRecoveryAck_only (h : Hdr) (p : List Byte) {s t_ : State} (e_ : execRecoveryAck h p s = .next t_) : OnlyChanges (taken h ([.modes, .port, .roles, .ease, .energy, .billing, .log, .tag, .store])) s t_ := by
  unfold taken
  split
  next w_ =>
    unfold execRecoveryAck at e_
    injection e_ with e_
    subst e_
    exact hostCommand_ack _ _ _ _ w_ (by decide) (by decide) (by decide) (OnlyChanges.refl _ _)
  rename_i w_
  refine OnlyEnds.elim ?_ e_
  clear e_
  unfold execRecoveryAck
  try dsimp only
  repeat' first | with_reducible exact OnlyChanges.refl _ _ | with_reducible assumption | with_reducible apply OnlyEnds.next | with_reducible apply OnlyEnds.ite | with_reducible refine hostCommand_only _ _ _ w_ ?_ ?_ ?_ (fun _ _ => ?_) | with_reducible apply recoveryAckCmd_only | with_reducible refine OnlyChanges.foldl ?_ (fun _ _ _ => ?_) | with_reducible apply OnlyChanges.ite | split | (with_reducible apply OnlyChanges.upd <;> first | with_reducible exact fun _ => rfl | exact fun q => absurd (by decide) q | skip)
  all_goals decide

theorem execCommissioningDone_only (h : Hdr) (p : List Byte) {s t_ : State} (e_ : execCommissioningDone h p s = .next t_) : OnlyChanges (taken h ([.rst, .modes, .port, .roles, .energy, .billing, .log, .tag, .store])) s t_ := by
  unfold taken
  split
  next w_ =>
    unfold execCommissioningDone at e_
    injection e_ with e_
    subst e_
    exact hostCommand_ack _ _ _ _ w_ (by decide) (by decide) (by decide) (OnlyChanges.refl _ _)
  rename_i w_
  refine OnlyEnds.elim ?_ e_
  clear e_
  unfold execCommissioningDone
  try dsimp only
  repeat' first | with_reducible exact OnlyChanges.refl _ _ | with_reducible assumption | with_reducible apply OnlyEnds.next | with_reducible apply OnlyEnds.ite | with_reducible refine hostCommand_only _ _ _ w_ ?_ ?_ ?_ (fun _ _ => ?_) | with_reducible apply commissioningDoneCmd_only | with_reducible refine OnlyChanges.foldl ?_ (fun _ _ _ => ?_) | with_reducible apply OnlyChanges.ite | split | (with_reducible apply OnlyChanges.upd <;> first | with_reducible exact fun _ => rfl | exact fun q => absurd (by decide) q | skip)
  all_goals decide

theorem execDeferFrameReached_only (req : Nat) {s t_ : State} (e_ : execDeferFrameReached req s = .next t_) : OnlyChanges ([.port, .ease, .billing, .link, .sw, .loads, .trv, .rdr, .tag, .disp, .store]) s t_ := by
  refine OnlyEnds.elim ?_ e_
  clear e_
  unfold execDeferFrameReached
  try dsimp only
  repeat' first | with_reducible exact OnlyChanges.refl _ _ | with_reducible assumption | with_reducible apply OnlyEnds.next | with_reducible apply OnlyEnds.ite | with_reducible apply startOp_only | with_reducible refine OnlyChanges.foldl ?_ (fun _ _ _ => ?_) | with_reducible apply OnlyChanges.ite | split | (with_reducible apply OnlyChanges.upd <;> first | with_reducible exact fun _ => rfl | exact fun q => absurd (by decide) q | skip)
  all_goals decide

theorem execLeaveLapse_only (req : Nat) {s t_ : State} (e_ : execLeaveLapse req s = .next t_) : OnlyChanges ([.port, .ease, .billing, .link, .sw, .loads, .trv, .rdr, .tag, .disp, .store]) s t_ := by
  refine OnlyEnds.elim ?_ e_
  clear e_
  unfold execLeaveLapse
  try dsimp only
  repeat' first | with_reducible exact OnlyChanges.refl _ _ | with_reducible assumption | with_reducible apply OnlyEnds.next | with_reducible apply OnlyEnds.ite | with_reducible apply dropOp_only | with_reducible apply release_only | with_reducible refine OnlyChanges.foldl ?_ (fun _ _ _ => ?_) | with_reducible apply OnlyChanges.ite | split | (with_reducible apply OnlyChanges.upd <;> first | with_reducible exact fun _ => rfl | exact fun q => absurd (by decide) q | skip)
  all_goals decide

theorem execPeakPhaseEnd_only (req : Nat) {s t_ : State} (e_ : execPeakPhaseEnd req s = .next t_) : OnlyChanges ([.ease]) s t_ := by
  refine OnlyEnds.elim ?_ e_
  clear e_
  unfold execPeakPhaseEnd
  try dsimp only
  repeat' first | with_reducible exact OnlyChanges.refl _ _ | with_reducible assumption | with_reducible apply OnlyEnds.next | with_reducible apply OnlyEnds.ite | with_reducible apply leavePeak_only | with_reducible refine OnlyChanges.foldl ?_ (fun _ _ _ => ?_) | with_reducible apply OnlyChanges.ite | split | (with_reducible apply OnlyChanges.upd <;> first | with_reducible exact fun _ => rfl | exact fun q => absurd (by decide) q | skip)
  all_goals decide

theorem execEasementOverrun_only (req : Nat) {s t_ : State} (e_ : execEasementOverrun req s = .next t_) : OnlyChanges ([.port, .ease, .store]) s t_ := by
  refine OnlyEnds.elim ?_ e_
  clear e_
  unfold execEasementOverrun
  try dsimp only
  repeat' first | with_reducible exact OnlyChanges.refl _ _ | with_reducible assumption | with_reducible apply OnlyEnds.next | with_reducible apply OnlyEnds.ite | with_reducible apply event_only | with_reducible refine OnlyChanges.foldl ?_ (fun _ _ _ => ?_) | with_reducible apply OnlyChanges.ite | split | (with_reducible apply OnlyChanges.upd <;> first | with_reducible exact fun _ => rfl | exact fun q => absurd (by decide) q | skip)
  all_goals decide

theorem execObjWrite_only (h : Hdr) (p : List Byte) {s t_ : State} (e_ : execObjWrite h p s = .next t_) : OnlyChanges (taken h ([.port, .roles] ++ writeParts p)) s t_ := by
  injection e_ with e_
  subst e_
  unfold taken
  split
  next w_ => exact hostCommand_ack _ _ _ _ w_ (by decide) (by decide) (by decide) (OnlyChanges.refl _ _)
  next w_ =>
    exact objWrite_only _ _ w_ (List.mem_append_left _ (by decide)) (List.mem_append_left _ (by decide)) (fun _ w => List.mem_append_right _ w) (OnlyChanges.refl _ _)

theorem execHostPortWrite_only (h : Hdr) (data mask : List Byte) {s t_ : State} (e_ : execHostPortWrite h data mask s = .next t_) : OnlyChanges (taken h ([.port, .roles] ++ cfgParts .hostPort)) s t_ := by
  injection e_ with e_
  subst e_
  unfold taken
  split
  next w_ => exact hostCommand_ack _ _ _ _ w_ (by decide) (by decide) (by decide) (OnlyChanges.refl _ _)
  next w_ =>
    exact writeEntry_only _ _ _ _ _ w_ (by decide) (by decide) (fun _ w => List.mem_append_right _ w) (OnlyChanges.refl _ _)

theorem execEasementConfigWrite_only (h : Hdr) (data mask : List Byte) {s t_ : State} (e_ : execEasementConfigWrite h data mask s = .next t_) : OnlyChanges (taken h ([.port, .roles] ++ cfgParts .easement)) s t_ := by
  injection e_ with e_
  subst e_
  unfold taken
  split
  next w_ => exact hostCommand_ack _ _ _ _ w_ (by decide) (by decide) (by decide) (OnlyChanges.refl _ _)
  next w_ =>
    exact writeEntry_only _ _ _ _ _ w_ (by decide) (by decide) (fun _ w => List.mem_append_right _ w) (OnlyChanges.refl _ _)

theorem execSafetyConfigWrite_only (h : Hdr) (p : List Byte) {s t_ : State} (e_ : execSafetyConfigWrite h p s = .next t_) : OnlyChanges (taken h ([.port, .roles] ++ writeParts p)) s t_ := by
  injection e_ with e_
  subst e_
  unfold taken
  split
  next w_ => exact hostCommand_ack _ _ _ _ w_ (by decide) (by decide) (by decide) (OnlyChanges.refl _ _)
  next w_ =>
    exact objWrite_only _ _ w_ (List.mem_append_left _ (by decide)) (List.mem_append_left _ (by decide)) (fun _ w => List.mem_append_right _ w) (OnlyChanges.refl _ _)

theorem execSealFieldWrite_only (h : Hdr) (p : List Byte) {s t_ : State} (e_ : execSealFieldWrite h p s = .next t_) : OnlyChanges (taken h ([.port, .roles] ++ writeParts p)) s t_ := by
  injection e_ with e_
  subst e_
  unfold taken
  split
  next w_ => exact hostCommand_ack _ _ _ _ w_ (by decide) (by decide) (by decide) (OnlyChanges.refl _ _)
  next w_ =>
    exact objWrite_only _ _ w_ (List.mem_append_left _ (by decide)) (List.mem_append_left _ (by decide)) (fun _ w => List.mem_append_right _ w) (OnlyChanges.refl _ _)

theorem execTariffWrite_only (h : Hdr) (idx : Nat) (data mask : List Byte) {s t_ : State} (e_ : execTariffWrite h idx data mask s = .next t_) : OnlyChanges (taken h ([.port, .roles] ++ cfgParts .tariff)) s t_ := by
  injection e_ with e_
  subst e_
  unfold taken
  split
  next w_ => exact hostCommand_ack _ _ _ _ w_ (by decide) (by decide) (by decide) (OnlyChanges.refl _ _)
  next w_ =>
    exact writeEntry_only _ _ _ _ _ w_ (by decide) (by decide) (fun _ w => List.mem_append_right _ w) (OnlyChanges.refl _ _)

theorem execPulseConfigWrite_only (h : Hdr) (idx : Nat) (data mask : List Byte) {s t_ : State} (e_ : execPulseConfigWrite h idx data mask s = .next t_) : OnlyChanges (taken h ([.port, .roles] ++ cfgParts .pulse)) s t_ := by
  injection e_ with e_
  subst e_
  unfold taken
  split
  next w_ => exact hostCommand_ack _ _ _ _ w_ (by decide) (by decide) (by decide) (OnlyChanges.refl _ _)
  next w_ =>
    exact writeEntry_only _ _ _ _ _ w_ (by decide) (by decide) (fun _ w => List.mem_append_right _ w) (OnlyChanges.refl _ _)

theorem execEnergyConfigWrite_only (h : Hdr) (idx : Nat) (data mask : List Byte) {s t_ : State} (e_ : execEnergyConfigWrite h idx data mask s = .next t_) : OnlyChanges (taken h ([.port, .roles] ++ cfgParts .energy)) s t_ := by
  injection e_ with e_
  subst e_
  unfold taken
  split
  next w_ => exact hostCommand_ack _ _ _ _ w_ (by decide) (by decide) (by decide) (OnlyChanges.refl _ _)
  next w_ =>
    exact writeEntry_only _ _ _ _ _ w_ (by decide) (by decide) (fun _ w => List.mem_append_right _ w) (OnlyChanges.refl _ _)

theorem execCalWrite_only (h : Hdr) (idx : Nat) (data mask : List Byte) {s t_ : State} (e_ : execCalWrite h idx data mask s = .next t_) : OnlyChanges (taken h ([.port, .roles] ++ cfgParts .cal)) s t_ := by
  injection e_ with e_
  subst e_
  unfold taken
  split
  next w_ => exact hostCommand_ack _ _ _ _ w_ (by decide) (by decide) (by decide) (OnlyChanges.refl _ _)
  next w_ =>
    exact writeEntry_only _ _ _ _ _ w_ (by decide) (by decide) (fun _ w => List.mem_append_right _ w) (OnlyChanges.refl _ _)

theorem execBillingConfigWrite_only (h : Hdr) (data mask : List Byte) {s t_ : State} (e_ : execBillingConfigWrite h data mask s = .next t_) : OnlyChanges (taken h ([.port, .roles] ++ cfgParts .billing)) s t_ := by
  injection e_ with e_
  subst e_
  unfold taken
  split
  next w_ => exact hostCommand_ack _ _ _ _ w_ (by decide) (by decide) (by decide) (OnlyChanges.refl _ _)
  next w_ =>
    exact writeEntry_only _ _ _ _ _ w_ (by decide) (by decide) (fun _ w => List.mem_append_right _ w) (OnlyChanges.refl _ _)

theorem execLinkConfigWrite_only (h : Hdr) (idx : Nat) (data mask : List Byte) {s t_ : State} (e_ : execLinkConfigWrite h idx data mask s = .next t_) : OnlyChanges (taken h ([.port, .roles] ++ cfgParts .link)) s t_ := by
  injection e_ with e_
  subst e_
  unfold taken
  split
  next w_ => exact hostCommand_ack _ _ _ _ w_ (by decide) (by decide) (by decide) (OnlyChanges.refl _ _)
  next w_ =>
    exact writeEntry_only _ _ _ _ _ w_ (by decide) (by decide) (fun _ w => List.mem_append_right _ w) (OnlyChanges.refl _ _)

theorem execLoadConfigWrite_only (h : Hdr) (idx : Nat) (data mask : List Byte) {s t_ : State} (e_ : execLoadConfigWrite h idx data mask s = .next t_) : OnlyChanges (taken h ([.port, .roles] ++ cfgParts .load)) s t_ := by
  injection e_ with e_
  subst e_
  unfold taken
  split
  next w_ => exact hostCommand_ack _ _ _ _ w_ (by decide) (by decide) (by decide) (OnlyChanges.refl _ _)
  next w_ =>
    exact writeEntry_only _ _ _ _ _ w_ (by decide) (by decide) (fun _ w => List.mem_append_right _ w) (OnlyChanges.refl _ _)

theorem execTrvConfigWrite_only (h : Hdr) (data mask : List Byte) {s t_ : State} (e_ : execTrvConfigWrite h data mask s = .next t_) : OnlyChanges (taken h ([.port, .roles] ++ cfgParts .traverse)) s t_ := by
  injection e_ with e_
  subst e_
  unfold taken
  split
  next w_ => exact hostCommand_ack _ _ _ _ w_ (by decide) (by decide) (by decide) (OnlyChanges.refl _ _)
  next w_ =>
    exact writeEntry_only _ _ _ _ _ w_ (by decide) (by decide) (fun _ w => List.mem_append_right _ w) (OnlyChanges.refl _ _)

theorem execDisplayConfigWrite_only (h : Hdr) (data mask : List Byte) {s t_ : State} (e_ : execDisplayConfigWrite h data mask s = .next t_) : OnlyChanges (taken h ([.port, .roles] ++ cfgParts .display)) s t_ := by
  injection e_ with e_
  subst e_
  unfold taken
  split
  next w_ => exact hostCommand_ack _ _ _ _ w_ (by decide) (by decide) (by decide) (OnlyChanges.refl _ _)
  next w_ =>
    exact writeEntry_only _ _ _ _ _ w_ (by decide) (by decide) (fun _ w => List.mem_append_right _ w) (OnlyChanges.refl _ _)

theorem execActivationCopyDone_only (tagsOk : Bool) {s t_ : State} (e_ : execActivationCopyDone tagsOk s = .next t_) : OnlyChanges ([.rst, .modes, .port, .ease, .energy, .billing, .link, .sw, .loads, .trv, .rdr, .disp, .store]) s t_ := by
  refine OnlyEnds.elim ?_ e_
  clear e_
  unfold execActivationCopyDone
  try dsimp only
  repeat' first | with_reducible exact OnlyChanges.refl _ _ | with_reducible assumption | with_reducible apply OnlyEnds.next | with_reducible apply OnlyEnds.ite | with_reducible apply assertSource_only | with_reducible apply commitTrial_only | with_reducible apply updateDone_only | with_reducible apply abandonActivation_only | with_reducible refine OnlyChanges.foldl ?_ (fun _ _ _ => ?_) | with_reducible apply OnlyChanges.ite | split | (with_reducible apply OnlyChanges.upd <;> first | with_reducible exact fun _ => rfl | exact fun q => absurd (by decide) q | skip)
  all_goals decide

theorem execFrameTick_only (m : FrameIn) {s t_ : State} (e_ : execFrameTick m s = .next t_) : OnlyChanges ([.clock, .power, .rst, .modes, .port, .faults, .ease, .fe, .energy, .billing, .seals, .log, .link, .sw, .loads, .trv, .rdr, .tag, .disp, .chain, .store]) s t_ := by
  refine OnlyEnds.elim ?_ e_
  clear e_
  unfold execFrameTick
  try dsimp only
  repeat' first | with_reducible exact OnlyChanges.refl _ _ | with_reducible assumption | with_reducible apply OnlyEnds.next | with_reducible apply OnlyEnds.ite | with_reducible apply timeTick_only | with_reducible apply shutdownTick_only | with_reducible apply frameJobs_only | with_reducible apply slewTick_only | with_reducible apply takeDue_only | with_reducible refine OnlyChanges.foldl ?_ (fun _ _ _ => ?_) | with_reducible apply OnlyChanges.ite | split | (with_reducible apply OnlyChanges.upd <;> first | with_reducible exact fun _ => rfl | exact fun q => absurd (by decide) q | skip)
  all_goals decide

theorem execSuperframeTick_only (m : SuperIn) {s t_ : State} (e_ : execSuperframeTick m s = .next t_) : OnlyChanges ([.clock, .power, .modes, .port, .faults, .ease, .fe, .energy, .billing, .seals, .log, .tag, .store]) s t_ := by
  refine OnlyEnds.elim ?_ e_
  clear e_
  unfold execSuperframeTick
  try dsimp only
  repeat' first | with_reducible exact OnlyChanges.refl _ _ | with_reducible assumption | with_reducible apply OnlyEnds.next | with_reducible apply OnlyEnds.ite | with_reducible apply superJobs_only | with_reducible refine OnlyChanges.foldl ?_ (fun _ _ _ => ?_) | with_reducible apply OnlyChanges.ite | split | (with_reducible apply OnlyChanges.upd <;> first | with_reducible exact fun _ => rfl | exact fun q => absurd (by decide) q | skip)
  all_goals decide

theorem execObjRead_only (h : Hdr) (p : List Byte) {s t_ : State} (e_ : execObjRead h p s = .next t_) : OnlyChanges (taken h ([.port, .roles])) s t_ := by
  unfold taken
  split
  next w_ =>
    unfold execObjRead at e_
    injection e_ with e_
    subst e_
    exact hostCommand_ack _ _ _ _ w_ (by decide) (by decide) (by decide) (OnlyChanges.refl _ _)
  rename_i w_
  refine OnlyEnds.elim ?_ e_
  clear e_
  unfold execObjRead
  try dsimp only
  repeat' first | with_reducible exact OnlyChanges.refl _ _ | with_reducible assumption | with_reducible apply OnlyEnds.next | with_reducible apply OnlyEnds.ite | with_reducible refine hostCommand_only _ _ _ w_ ?_ ?_ ?_ (fun _ _ => ?_) | with_reducible apply objReadCmd_only | with_reducible refine OnlyChanges.foldl ?_ (fun _ _ _ => ?_) | with_reducible apply OnlyChanges.ite | split | (with_reducible apply OnlyChanges.upd <;> first | with_reducible exact fun _ => rfl | exact fun q => absurd (by decide) q | skip)
  all_goals decide

end Sys2Proof.Machine
end

