-- ==== Sys2Proof/Laws/State.lean ====
section
/-!
SUPPORT. One lemma per top-level field of State per update: each update of one unit leaves every other unit as it was.
The setters are the one way in which the proofs name an update.
-/

namespace Sys2Proof.Machine

set_option linter.all false

/-- s with its values fixed at manufacture replaced. -/
abbrev State.withFactory (s : State) (v : Factory) : State := { s with factory := v }
/-- s with its frames and legal time replaced. -/
abbrev State.withClock (s : State) (v : Clock) : State := { s with clock := v }
/-- s with its supplies and shutdown replaced. -/
abbrev State.withPower (s : State) (v : Power) : State := { s with power := v }
/-- s with its reset controller and boot replaced. -/
abbrev State.withRst (s : State) (v : Reset) : State := { s with rst := v }
/-- s with its operating mode replaced. -/
abbrev State.withModes (s : State) (v : ModeSt) : State := { s with modes := v }
/-- s with its host port replaced. -/
abbrev State.withPort (s : State) (v : Port) : State := { s with port := v }
/-- s with its access roles replaced. -/
abbrev State.withRoles (s : State) (v : RoleSt) : State := { s with roles := v }
/-- s with its cells, reports, closures replaced. -/
abbrev State.withFaults (s : State) (v : Faults) : State := { s with faults := v }
/-- s with its easement arbiter replaced. -/
abbrev State.withEase (s : State) (v : Ease) : State := { s with ease := v }
/-- s with its metrology front end replaced. -/
abbrev State.withFe (s : State) (v : FrontEnd) : State := { s with fe := v }
/-- s with its energy engine replaced. -/
abbrev State.withEnergy (s : State) (v : Energy) : State := { s with energy := v }
/-- s with its tariffs, demand, sessions replaced. -/
abbrev State.withBilling (s : State) (v : Billing) : State := { s with billing := v }
/-- s with its seal and calibration replaced. -/
abbrev State.withSeals (s : State) (v : Seal) : State := { s with seals := v }
/-- s with its sequence counter and legal log replaced. -/
abbrev State.withLog (s : State) (v : Log) : State := { s with log := v }
/-- s with its vehicle link replaced. -/
abbrev State.withLink (s : State) (v : Link) : State := { s with link := v }
/-- s with its switching, insulation, safety replaced. -/
abbrev State.withSw (s : State) (v : Switch) : State := { s with sw := v }
/-- s with its load channels replaced. -/
abbrev State.withLoads (s : State) (v : Loads) : State := { s with loads := v }
/-- s with its Traverse link replaced. -/
abbrev State.withTrv (s : State) (v : Traverse) : State := { s with trv := v }
/-- s with its card reader replaced. -/
abbrev State.withRdr (s : State) (v : Reader) : State := { s with rdr := v }
/-- s with its witness tag replaced. -/
abbrev State.withTag (s : State) (v : Tag) : State := { s with tag := v }
/-- s with its price display replaced. -/
abbrev State.withDisp (s : State) (v : Display) : State := { s with disp := v }
/-- s with its staging and chain update replaced. -/
abbrev State.withChain (s : State) (v : Chain) : State := { s with chain := v }
/-- s with its NAND, journal, images replaced. -/
abbrev State.withStore (s : State) (v : Storage) : State := { s with store := v }
/-- s with its the queue of commands that wait, first in first out (the block's own queue, required by the model's form) replaced. -/
abbrev State.withPending (s : State) (v : List Instr) : State := { s with pending := v }

@[simp] theorem State.withFactory_factory (s : State) (v : Factory) : (s.withFactory v).factory = v := rfl
@[simp] theorem State.withFactory_clock (s : State) (v : Factory) : (s.withFactory v).clock = s.clock := rfl
@[simp] theorem State.withFactory_power (s : State) (v : Factory) : (s.withFactory v).power = s.power := rfl
@[simp] theorem State.withFactory_rst (s : State) (v : Factory) : (s.withFactory v).rst = s.rst := rfl
@[simp] theorem State.withFactory_modes (s : State) (v : Factory) : (s.withFactory v).modes = s.modes := rfl
@[simp] theorem State.withFactory_port (s : State) (v : Factory) : (s.withFactory v).port = s.port := rfl
@[simp] theorem State.withFactory_roles (s : State) (v : Factory) : (s.withFactory v).roles = s.roles := rfl
@[simp] theorem State.withFactory_faults (s : State) (v : Factory) : (s.withFactory v).faults = s.faults := rfl
@[simp] theorem State.withFactory_ease (s : State) (v : Factory) : (s.withFactory v).ease = s.ease := rfl
@[simp] theorem State.withFactory_fe (s : State) (v : Factory) : (s.withFactory v).fe = s.fe := rfl
@[simp] theorem State.withFactory_energy (s : State) (v : Factory) : (s.withFactory v).energy = s.energy := rfl
@[simp] theorem State.withFactory_billing (s : State) (v : Factory) : (s.withFactory v).billing = s.billing := rfl
@[simp] theorem State.withFactory_seals (s : State) (v : Factory) : (s.withFactory v).seals = s.seals := rfl
@[simp] theorem State.withFactory_log (s : State) (v : Factory) : (s.withFactory v).log = s.log := rfl
@[simp] theorem State.withFactory_link (s : State) (v : Factory) : (s.withFactory v).link = s.link := rfl
@[simp] theorem State.withFactory_sw (s : State) (v : Factory) : (s.withFactory v).sw = s.sw := rfl
@[simp] theorem State.withFactory_loads (s : State) (v : Factory) : (s.withFactory v).loads = s.loads := rfl
@[simp] theorem State.withFactory_trv (s : State) (v : Factory) : (s.withFactory v).trv = s.trv := rfl
@[simp] theorem State.withFactory_rdr (s : State) (v : Factory) : (s.withFactory v).rdr = s.rdr := rfl
@[simp] theorem State.withFactory_tag (s : State) (v : Factory) : (s.withFactory v).tag = s.tag := rfl
@[simp] theorem State.withFactory_disp (s : State) (v : Factory) : (s.withFactory v).disp = s.disp := rfl
@[simp] theorem State.withFactory_chain (s : State) (v : Factory) : (s.withFactory v).chain = s.chain := rfl
@[simp] theorem State.withFactory_store (s : State) (v : Factory) : (s.withFactory v).store = s.store := rfl
@[simp] theorem State.withFactory_pending (s : State) (v : Factory) : (s.withFactory v).pending = s.pending := rfl
@[simp] theorem State.withClock_factory (s : State) (v : Clock) : (s.withClock v).factory = s.factory := rfl
@[simp] theorem State.withClock_clock (s : State) (v : Clock) : (s.withClock v).clock = v := rfl
@[simp] theorem State.withClock_power (s : State) (v : Clock) : (s.withClock v).power = s.power := rfl
@[simp] theorem State.withClock_rst (s : State) (v : Clock) : (s.withClock v).rst = s.rst := rfl
@[simp] theorem State.withClock_modes (s : State) (v : Clock) : (s.withClock v).modes = s.modes := rfl
@[simp] theorem State.withClock_port (s : State) (v : Clock) : (s.withClock v).port = s.port := rfl
@[simp] theorem State.withClock_roles (s : State) (v : Clock) : (s.withClock v).roles = s.roles := rfl
@[simp] theorem State.withClock_faults (s : State) (v : Clock) : (s.withClock v).faults = s.faults := rfl
@[simp] theorem State.withClock_ease (s : State) (v : Clock) : (s.withClock v).ease = s.ease := rfl
@[simp] theorem State.withClock_fe (s : State) (v : Clock) : (s.withClock v).fe = s.fe := rfl
@[simp] theorem State.withClock_energy (s : State) (v : Clock) : (s.withClock v).energy = s.energy := rfl
@[simp] theorem State.withClock_billing (s : State) (v : Clock) : (s.withClock v).billing = s.billing := rfl
@[simp] theorem State.withClock_seals (s : State) (v : Clock) : (s.withClock v).seals = s.seals := rfl
@[simp] theorem State.withClock_log (s : State) (v : Clock) : (s.withClock v).log = s.log := rfl
@[simp] theorem State.withClock_link (s : State) (v : Clock) : (s.withClock v).link = s.link := rfl
@[simp] theorem State.withClock_sw (s : State) (v : Clock) : (s.withClock v).sw = s.sw := rfl
@[simp] theorem State.withClock_loads (s : State) (v : Clock) : (s.withClock v).loads = s.loads := rfl
@[simp] theorem State.withClock_trv (s : State) (v : Clock) : (s.withClock v).trv = s.trv := rfl
@[simp] theorem State.withClock_rdr (s : State) (v : Clock) : (s.withClock v).rdr = s.rdr := rfl
@[simp] theorem State.withClock_tag (s : State) (v : Clock) : (s.withClock v).tag = s.tag := rfl
@[simp] theorem State.withClock_disp (s : State) (v : Clock) : (s.withClock v).disp = s.disp := rfl
@[simp] theorem State.withClock_chain (s : State) (v : Clock) : (s.withClock v).chain = s.chain := rfl
@[simp] theorem State.withClock_store (s : State) (v : Clock) : (s.withClock v).store = s.store := rfl
@[simp] theorem State.withClock_pending (s : State) (v : Clock) : (s.withClock v).pending = s.pending := rfl
@[simp] theorem State.withPower_factory (s : State) (v : Power) : (s.withPower v).factory = s.factory := rfl
@[simp] theorem State.withPower_clock (s : State) (v : Power) : (s.withPower v).clock = s.clock := rfl
@[simp] theorem State.withPower_power (s : State) (v : Power) : (s.withPower v).power = v := rfl
@[simp] theorem State.withPower_rst (s : State) (v : Power) : (s.withPower v).rst = s.rst := rfl
@[simp] theorem State.withPower_modes (s : State) (v : Power) : (s.withPower v).modes = s.modes := rfl
@[simp] theorem State.withPower_port (s : State) (v : Power) : (s.withPower v).port = s.port := rfl
@[simp] theorem State.withPower_roles (s : State) (v : Power) : (s.withPower v).roles = s.roles := rfl
@[simp] theorem State.withPower_faults (s : State) (v : Power) : (s.withPower v).faults = s.faults := rfl
@[simp] theorem State.withPower_ease (s : State) (v : Power) : (s.withPower v).ease = s.ease := rfl
@[simp] theorem State.withPower_fe (s : State) (v : Power) : (s.withPower v).fe = s.fe := rfl
@[simp] theorem State.withPower_energy (s : State) (v : Power) : (s.withPower v).energy = s.energy := rfl
@[simp] theorem State.withPower_billing (s : State) (v : Power) : (s.withPower v).billing = s.billing := rfl
@[simp] theorem State.withPower_seals (s : State) (v : Power) : (s.withPower v).seals = s.seals := rfl
@[simp] theorem State.withPower_log (s : State) (v : Power) : (s.withPower v).log = s.log := rfl
@[simp] theorem State.withPower_link (s : State) (v : Power) : (s.withPower v).link = s.link := rfl
@[simp] theorem State.withPower_sw (s : State) (v : Power) : (s.withPower v).sw = s.sw := rfl
@[simp] theorem State.withPower_loads (s : State) (v : Power) : (s.withPower v).loads = s.loads := rfl
@[simp] theorem State.withPower_trv (s : State) (v : Power) : (s.withPower v).trv = s.trv := rfl
@[simp] theorem State.withPower_rdr (s : State) (v : Power) : (s.withPower v).rdr = s.rdr := rfl
@[simp] theorem State.withPower_tag (s : State) (v : Power) : (s.withPower v).tag = s.tag := rfl
@[simp] theorem State.withPower_disp (s : State) (v : Power) : (s.withPower v).disp = s.disp := rfl
@[simp] theorem State.withPower_chain (s : State) (v : Power) : (s.withPower v).chain = s.chain := rfl
@[simp] theorem State.withPower_store (s : State) (v : Power) : (s.withPower v).store = s.store := rfl
@[simp] theorem State.withPower_pending (s : State) (v : Power) : (s.withPower v).pending = s.pending := rfl
@[simp] theorem State.withRst_factory (s : State) (v : Reset) : (s.withRst v).factory = s.factory := rfl
@[simp] theorem State.withRst_clock (s : State) (v : Reset) : (s.withRst v).clock = s.clock := rfl
@[simp] theorem State.withRst_power (s : State) (v : Reset) : (s.withRst v).power = s.power := rfl
@[simp] theorem State.withRst_rst (s : State) (v : Reset) : (s.withRst v).rst = v := rfl
@[simp] theorem State.withRst_modes (s : State) (v : Reset) : (s.withRst v).modes = s.modes := rfl
@[simp] theorem State.withRst_port (s : State) (v : Reset) : (s.withRst v).port = s.port := rfl
@[simp] theorem State.withRst_roles (s : State) (v : Reset) : (s.withRst v).roles = s.roles := rfl
@[simp] theorem State.withRst_faults (s : State) (v : Reset) : (s.withRst v).faults = s.faults := rfl
@[simp] theorem State.withRst_ease (s : State) (v : Reset) : (s.withRst v).ease = s.ease := rfl
@[simp] theorem State.withRst_fe (s : State) (v : Reset) : (s.withRst v).fe = s.fe := rfl
@[simp] theorem State.withRst_energy (s : State) (v : Reset) : (s.withRst v).energy = s.energy := rfl
@[simp] theorem State.withRst_billing (s : State) (v : Reset) : (s.withRst v).billing = s.billing := rfl
@[simp] theorem State.withRst_seals (s : State) (v : Reset) : (s.withRst v).seals = s.seals := rfl
@[simp] theorem State.withRst_log (s : State) (v : Reset) : (s.withRst v).log = s.log := rfl
@[simp] theorem State.withRst_link (s : State) (v : Reset) : (s.withRst v).link = s.link := rfl
@[simp] theorem State.withRst_sw (s : State) (v : Reset) : (s.withRst v).sw = s.sw := rfl
@[simp] theorem State.withRst_loads (s : State) (v : Reset) : (s.withRst v).loads = s.loads := rfl
@[simp] theorem State.withRst_trv (s : State) (v : Reset) : (s.withRst v).trv = s.trv := rfl
@[simp] theorem State.withRst_rdr (s : State) (v : Reset) : (s.withRst v).rdr = s.rdr := rfl
@[simp] theorem State.withRst_tag (s : State) (v : Reset) : (s.withRst v).tag = s.tag := rfl
@[simp] theorem State.withRst_disp (s : State) (v : Reset) : (s.withRst v).disp = s.disp := rfl
@[simp] theorem State.withRst_chain (s : State) (v : Reset) : (s.withRst v).chain = s.chain := rfl
@[simp] theorem State.withRst_store (s : State) (v : Reset) : (s.withRst v).store = s.store := rfl
@[simp] theorem State.withRst_pending (s : State) (v : Reset) : (s.withRst v).pending = s.pending := rfl
@[simp] theorem State.withModes_factory (s : State) (v : ModeSt) : (s.withModes v).factory = s.factory := rfl
@[simp] theorem State.withModes_clock (s : State) (v : ModeSt) : (s.withModes v).clock = s.clock := rfl
@[simp] theorem State.withModes_power (s : State) (v : ModeSt) : (s.withModes v).power = s.power := rfl
@[simp] theorem State.withModes_rst (s : State) (v : ModeSt) : (s.withModes v).rst = s.rst := rfl
@[simp] theorem State.withModes_modes (s : State) (v : ModeSt) : (s.withModes v).modes = v := rfl
@[simp] theorem State.withModes_port (s : State) (v : ModeSt) : (s.withModes v).port = s.port := rfl
@[simp] theorem State.withModes_roles (s : State) (v : ModeSt) : (s.withModes v).roles = s.roles := rfl
@[simp] theorem State.withModes_faults (s : State) (v : ModeSt) : (s.withModes v).faults = s.faults := rfl
@[simp] theorem State.withModes_ease (s : State) (v : ModeSt) : (s.withModes v).ease = s.ease := rfl
@[simp] theorem State.withModes_fe (s : State) (v : ModeSt) : (s.withModes v).fe = s.fe := rfl
@[simp] theorem State.withModes_energy (s : State) (v : ModeSt) : (s.withModes v).energy = s.energy := rfl
@[simp] theorem State.withModes_billing (s : State) (v : ModeSt) : (s.withModes v).billing = s.billing := rfl
@[simp] theorem State.withModes_seals (s : State) (v : ModeSt) : (s.withModes v).seals = s.seals := rfl
@[simp] theorem State.withModes_log (s : State) (v : ModeSt) : (s.withModes v).log = s.log := rfl
@[simp] theorem State.withModes_link (s : State) (v : ModeSt) : (s.withModes v).link = s.link := rfl
@[simp] theorem State.withModes_sw (s : State) (v : ModeSt) : (s.withModes v).sw = s.sw := rfl
@[simp] theorem State.withModes_loads (s : State) (v : ModeSt) : (s.withModes v).loads = s.loads := rfl
@[simp] theorem State.withModes_trv (s : State) (v : ModeSt) : (s.withModes v).trv = s.trv := rfl
@[simp] theorem State.withModes_rdr (s : State) (v : ModeSt) : (s.withModes v).rdr = s.rdr := rfl
@[simp] theorem State.withModes_tag (s : State) (v : ModeSt) : (s.withModes v).tag = s.tag := rfl
@[simp] theorem State.withModes_disp (s : State) (v : ModeSt) : (s.withModes v).disp = s.disp := rfl
@[simp] theorem State.withModes_chain (s : State) (v : ModeSt) : (s.withModes v).chain = s.chain := rfl
@[simp] theorem State.withModes_store (s : State) (v : ModeSt) : (s.withModes v).store = s.store := rfl
@[simp] theorem State.withModes_pending (s : State) (v : ModeSt) : (s.withModes v).pending = s.pending := rfl
@[simp] theorem State.withPort_factory (s : State) (v : Port) : (s.withPort v).factory = s.factory := rfl
@[simp] theorem State.withPort_clock (s : State) (v : Port) : (s.withPort v).clock = s.clock := rfl
@[simp] theorem State.withPort_power (s : State) (v : Port) : (s.withPort v).power = s.power := rfl
@[simp] theorem State.withPort_rst (s : State) (v : Port) : (s.withPort v).rst = s.rst := rfl
@[simp] theorem State.withPort_modes (s : State) (v : Port) : (s.withPort v).modes = s.modes := rfl
@[simp] theorem State.withPort_port (s : State) (v : Port) : (s.withPort v).port = v := rfl
@[simp] theorem State.withPort_roles (s : State) (v : Port) : (s.withPort v).roles = s.roles := rfl
@[simp] theorem State.withPort_faults (s : State) (v : Port) : (s.withPort v).faults = s.faults := rfl
@[simp] theorem State.withPort_ease (s : State) (v : Port) : (s.withPort v).ease = s.ease := rfl
@[simp] theorem State.withPort_fe (s : State) (v : Port) : (s.withPort v).fe = s.fe := rfl
@[simp] theorem State.withPort_energy (s : State) (v : Port) : (s.withPort v).energy = s.energy := rfl
@[simp] theorem State.withPort_billing (s : State) (v : Port) : (s.withPort v).billing = s.billing := rfl
@[simp] theorem State.withPort_seals (s : State) (v : Port) : (s.withPort v).seals = s.seals := rfl
@[simp] theorem State.withPort_log (s : State) (v : Port) : (s.withPort v).log = s.log := rfl
@[simp] theorem State.withPort_link (s : State) (v : Port) : (s.withPort v).link = s.link := rfl
@[simp] theorem State.withPort_sw (s : State) (v : Port) : (s.withPort v).sw = s.sw := rfl
@[simp] theorem State.withPort_loads (s : State) (v : Port) : (s.withPort v).loads = s.loads := rfl
@[simp] theorem State.withPort_trv (s : State) (v : Port) : (s.withPort v).trv = s.trv := rfl
@[simp] theorem State.withPort_rdr (s : State) (v : Port) : (s.withPort v).rdr = s.rdr := rfl
@[simp] theorem State.withPort_tag (s : State) (v : Port) : (s.withPort v).tag = s.tag := rfl
@[simp] theorem State.withPort_disp (s : State) (v : Port) : (s.withPort v).disp = s.disp := rfl
@[simp] theorem State.withPort_chain (s : State) (v : Port) : (s.withPort v).chain = s.chain := rfl
@[simp] theorem State.withPort_store (s : State) (v : Port) : (s.withPort v).store = s.store := rfl
@[simp] theorem State.withPort_pending (s : State) (v : Port) : (s.withPort v).pending = s.pending := rfl
@[simp] theorem State.withRoles_factory (s : State) (v : RoleSt) : (s.withRoles v).factory = s.factory := rfl
@[simp] theorem State.withRoles_clock (s : State) (v : RoleSt) : (s.withRoles v).clock = s.clock := rfl
@[simp] theorem State.withRoles_power (s : State) (v : RoleSt) : (s.withRoles v).power = s.power := rfl
@[simp] theorem State.withRoles_rst (s : State) (v : RoleSt) : (s.withRoles v).rst = s.rst := rfl
@[simp] theorem State.withRoles_modes (s : State) (v : RoleSt) : (s.withRoles v).modes = s.modes := rfl
@[simp] theorem State.withRoles_port (s : State) (v : RoleSt) : (s.withRoles v).port = s.port := rfl
@[simp] theorem State.withRoles_roles (s : State) (v : RoleSt) : (s.withRoles v).roles = v := rfl
@[simp] theorem State.withRoles_faults (s : State) (v : RoleSt) : (s.withRoles v).faults = s.faults := rfl
@[simp] theorem State.withRoles_ease (s : State) (v : RoleSt) : (s.withRoles v).ease = s.ease := rfl
@[simp] theorem State.withRoles_fe (s : State) (v : RoleSt) : (s.withRoles v).fe = s.fe := rfl
@[simp] theorem State.withRoles_energy (s : State) (v : RoleSt) : (s.withRoles v).energy = s.energy := rfl
@[simp] theorem State.withRoles_billing (s : State) (v : RoleSt) : (s.withRoles v).billing = s.billing := rfl
@[simp] theorem State.withRoles_seals (s : State) (v : RoleSt) : (s.withRoles v).seals = s.seals := rfl
@[simp] theorem State.withRoles_log (s : State) (v : RoleSt) : (s.withRoles v).log = s.log := rfl
@[simp] theorem State.withRoles_link (s : State) (v : RoleSt) : (s.withRoles v).link = s.link := rfl
@[simp] theorem State.withRoles_sw (s : State) (v : RoleSt) : (s.withRoles v).sw = s.sw := rfl
@[simp] theorem State.withRoles_loads (s : State) (v : RoleSt) : (s.withRoles v).loads = s.loads := rfl
@[simp] theorem State.withRoles_trv (s : State) (v : RoleSt) : (s.withRoles v).trv = s.trv := rfl
@[simp] theorem State.withRoles_rdr (s : State) (v : RoleSt) : (s.withRoles v).rdr = s.rdr := rfl
@[simp] theorem State.withRoles_tag (s : State) (v : RoleSt) : (s.withRoles v).tag = s.tag := rfl
@[simp] theorem State.withRoles_disp (s : State) (v : RoleSt) : (s.withRoles v).disp = s.disp := rfl
@[simp] theorem State.withRoles_chain (s : State) (v : RoleSt) : (s.withRoles v).chain = s.chain := rfl
@[simp] theorem State.withRoles_store (s : State) (v : RoleSt) : (s.withRoles v).store = s.store := rfl
@[simp] theorem State.withRoles_pending (s : State) (v : RoleSt) : (s.withRoles v).pending = s.pending := rfl
@[simp] theorem State.withFaults_factory (s : State) (v : Faults) : (s.withFaults v).factory = s.factory := rfl
@[simp] theorem State.withFaults_clock (s : State) (v : Faults) : (s.withFaults v).clock = s.clock := rfl
@[simp] theorem State.withFaults_power (s : State) (v : Faults) : (s.withFaults v).power = s.power := rfl
@[simp] theorem State.withFaults_rst (s : State) (v : Faults) : (s.withFaults v).rst = s.rst := rfl
@[simp] theorem State.withFaults_modes (s : State) (v : Faults) : (s.withFaults v).modes = s.modes := rfl
@[simp] theorem State.withFaults_port (s : State) (v : Faults) : (s.withFaults v).port = s.port := rfl
@[simp] theorem State.withFaults_roles (s : State) (v : Faults) : (s.withFaults v).roles = s.roles := rfl
@[simp] theorem State.withFaults_faults (s : State) (v : Faults) : (s.withFaults v).faults = v := rfl
@[simp] theorem State.withFaults_ease (s : State) (v : Faults) : (s.withFaults v).ease = s.ease := rfl
@[simp] theorem State.withFaults_fe (s : State) (v : Faults) : (s.withFaults v).fe = s.fe := rfl
@[simp] theorem State.withFaults_energy (s : State) (v : Faults) : (s.withFaults v).energy = s.energy := rfl
@[simp] theorem State.withFaults_billing (s : State) (v : Faults) : (s.withFaults v).billing = s.billing := rfl
@[simp] theorem State.withFaults_seals (s : State) (v : Faults) : (s.withFaults v).seals = s.seals := rfl
@[simp] theorem State.withFaults_log (s : State) (v : Faults) : (s.withFaults v).log = s.log := rfl
@[simp] theorem State.withFaults_link (s : State) (v : Faults) : (s.withFaults v).link = s.link := rfl
@[simp] theorem State.withFaults_sw (s : State) (v : Faults) : (s.withFaults v).sw = s.sw := rfl
@[simp] theorem State.withFaults_loads (s : State) (v : Faults) : (s.withFaults v).loads = s.loads := rfl
@[simp] theorem State.withFaults_trv (s : State) (v : Faults) : (s.withFaults v).trv = s.trv := rfl
@[simp] theorem State.withFaults_rdr (s : State) (v : Faults) : (s.withFaults v).rdr = s.rdr := rfl
@[simp] theorem State.withFaults_tag (s : State) (v : Faults) : (s.withFaults v).tag = s.tag := rfl
@[simp] theorem State.withFaults_disp (s : State) (v : Faults) : (s.withFaults v).disp = s.disp := rfl
@[simp] theorem State.withFaults_chain (s : State) (v : Faults) : (s.withFaults v).chain = s.chain := rfl
@[simp] theorem State.withFaults_store (s : State) (v : Faults) : (s.withFaults v).store = s.store := rfl
@[simp] theorem State.withFaults_pending (s : State) (v : Faults) : (s.withFaults v).pending = s.pending := rfl
@[simp] theorem State.withEase_factory (s : State) (v : Ease) : (s.withEase v).factory = s.factory := rfl
@[simp] theorem State.withEase_clock (s : State) (v : Ease) : (s.withEase v).clock = s.clock := rfl
@[simp] theorem State.withEase_power (s : State) (v : Ease) : (s.withEase v).power = s.power := rfl
@[simp] theorem State.withEase_rst (s : State) (v : Ease) : (s.withEase v).rst = s.rst := rfl
@[simp] theorem State.withEase_modes (s : State) (v : Ease) : (s.withEase v).modes = s.modes := rfl
@[simp] theorem State.withEase_port (s : State) (v : Ease) : (s.withEase v).port = s.port := rfl
@[simp] theorem State.withEase_roles (s : State) (v : Ease) : (s.withEase v).roles = s.roles := rfl
@[simp] theorem State.withEase_faults (s : State) (v : Ease) : (s.withEase v).faults = s.faults := rfl
@[simp] theorem State.withEase_ease (s : State) (v : Ease) : (s.withEase v).ease = v := rfl
@[simp] theorem State.withEase_fe (s : State) (v : Ease) : (s.withEase v).fe = s.fe := rfl
@[simp] theorem State.withEase_energy (s : State) (v : Ease) : (s.withEase v).energy = s.energy := rfl
@[simp] theorem State.withEase_billing (s : State) (v : Ease) : (s.withEase v).billing = s.billing := rfl
@[simp] theorem State.withEase_seals (s : State) (v : Ease) : (s.withEase v).seals = s.seals := rfl
@[simp] theorem State.withEase_log (s : State) (v : Ease) : (s.withEase v).log = s.log := rfl
@[simp] theorem State.withEase_link (s : State) (v : Ease) : (s.withEase v).link = s.link := rfl
@[simp] theorem State.withEase_sw (s : State) (v : Ease) : (s.withEase v).sw = s.sw := rfl
@[simp] theorem State.withEase_loads (s : State) (v : Ease) : (s.withEase v).loads = s.loads := rfl
@[simp] theorem State.withEase_trv (s : State) (v : Ease) : (s.withEase v).trv = s.trv := rfl
@[simp] theorem State.withEase_rdr (s : State) (v : Ease) : (s.withEase v).rdr = s.rdr := rfl
@[simp] theorem State.withEase_tag (s : State) (v : Ease) : (s.withEase v).tag = s.tag := rfl
@[simp] theorem State.withEase_disp (s : State) (v : Ease) : (s.withEase v).disp = s.disp := rfl
@[simp] theorem State.withEase_chain (s : State) (v : Ease) : (s.withEase v).chain = s.chain := rfl
@[simp] theorem State.withEase_store (s : State) (v : Ease) : (s.withEase v).store = s.store := rfl
@[simp] theorem State.withEase_pending (s : State) (v : Ease) : (s.withEase v).pending = s.pending := rfl
@[simp] theorem State.withFe_factory (s : State) (v : FrontEnd) : (s.withFe v).factory = s.factory := rfl
@[simp] theorem State.withFe_clock (s : State) (v : FrontEnd) : (s.withFe v).clock = s.clock := rfl
@[simp] theorem State.withFe_power (s : State) (v : FrontEnd) : (s.withFe v).power = s.power := rfl
@[simp] theorem State.withFe_rst (s : State) (v : FrontEnd) : (s.withFe v).rst = s.rst := rfl
@[simp] theorem State.withFe_modes (s : State) (v : FrontEnd) : (s.withFe v).modes = s.modes := rfl
@[simp] theorem State.withFe_port (s : State) (v : FrontEnd) : (s.withFe v).port = s.port := rfl
@[simp] theorem State.withFe_roles (s : State) (v : FrontEnd) : (s.withFe v).roles = s.roles := rfl
@[simp] theorem State.withFe_faults (s : State) (v : FrontEnd) : (s.withFe v).faults = s.faults := rfl
@[simp] theorem State.withFe_ease (s : State) (v : FrontEnd) : (s.withFe v).ease = s.ease := rfl
@[simp] theorem State.withFe_fe (s : State) (v : FrontEnd) : (s.withFe v).fe = v := rfl
@[simp] theorem State.withFe_energy (s : State) (v : FrontEnd) : (s.withFe v).energy = s.energy := rfl
@[simp] theorem State.withFe_billing (s : State) (v : FrontEnd) : (s.withFe v).billing = s.billing := rfl
@[simp] theorem State.withFe_seals (s : State) (v : FrontEnd) : (s.withFe v).seals = s.seals := rfl
@[simp] theorem State.withFe_log (s : State) (v : FrontEnd) : (s.withFe v).log = s.log := rfl
@[simp] theorem State.withFe_link (s : State) (v : FrontEnd) : (s.withFe v).link = s.link := rfl
@[simp] theorem State.withFe_sw (s : State) (v : FrontEnd) : (s.withFe v).sw = s.sw := rfl
@[simp] theorem State.withFe_loads (s : State) (v : FrontEnd) : (s.withFe v).loads = s.loads := rfl
@[simp] theorem State.withFe_trv (s : State) (v : FrontEnd) : (s.withFe v).trv = s.trv := rfl
@[simp] theorem State.withFe_rdr (s : State) (v : FrontEnd) : (s.withFe v).rdr = s.rdr := rfl
@[simp] theorem State.withFe_tag (s : State) (v : FrontEnd) : (s.withFe v).tag = s.tag := rfl
@[simp] theorem State.withFe_disp (s : State) (v : FrontEnd) : (s.withFe v).disp = s.disp := rfl
@[simp] theorem State.withFe_chain (s : State) (v : FrontEnd) : (s.withFe v).chain = s.chain := rfl
@[simp] theorem State.withFe_store (s : State) (v : FrontEnd) : (s.withFe v).store = s.store := rfl
@[simp] theorem State.withFe_pending (s : State) (v : FrontEnd) : (s.withFe v).pending = s.pending := rfl
@[simp] theorem State.withEnergy_factory (s : State) (v : Energy) : (s.withEnergy v).factory = s.factory := rfl
@[simp] theorem State.withEnergy_clock (s : State) (v : Energy) : (s.withEnergy v).clock = s.clock := rfl
@[simp] theorem State.withEnergy_power (s : State) (v : Energy) : (s.withEnergy v).power = s.power := rfl
@[simp] theorem State.withEnergy_rst (s : State) (v : Energy) : (s.withEnergy v).rst = s.rst := rfl
@[simp] theorem State.withEnergy_modes (s : State) (v : Energy) : (s.withEnergy v).modes = s.modes := rfl
@[simp] theorem State.withEnergy_port (s : State) (v : Energy) : (s.withEnergy v).port = s.port := rfl
@[simp] theorem State.withEnergy_roles (s : State) (v : Energy) : (s.withEnergy v).roles = s.roles := rfl
@[simp] theorem State.withEnergy_faults (s : State) (v : Energy) : (s.withEnergy v).faults = s.faults := rfl
@[simp] theorem State.withEnergy_ease (s : State) (v : Energy) : (s.withEnergy v).ease = s.ease := rfl
@[simp] theorem State.withEnergy_fe (s : State) (v : Energy) : (s.withEnergy v).fe = s.fe := rfl
@[simp] theorem State.withEnergy_energy (s : State) (v : Energy) : (s.withEnergy v).energy = v := rfl
@[simp] theorem State.withEnergy_billing (s : State) (v : Energy) : (s.withEnergy v).billing = s.billing := rfl
@[simp] theorem State.withEnergy_seals (s : State) (v : Energy) : (s.withEnergy v).seals = s.seals := rfl
@[simp] theorem State.withEnergy_log (s : State) (v : Energy) : (s.withEnergy v).log = s.log := rfl
@[simp] theorem State.withEnergy_link (s : State) (v : Energy) : (s.withEnergy v).link = s.link := rfl
@[simp] theorem State.withEnergy_sw (s : State) (v : Energy) : (s.withEnergy v).sw = s.sw := rfl
@[simp] theorem State.withEnergy_loads (s : State) (v : Energy) : (s.withEnergy v).loads = s.loads := rfl
@[simp] theorem State.withEnergy_trv (s : State) (v : Energy) : (s.withEnergy v).trv = s.trv := rfl
@[simp] theorem State.withEnergy_rdr (s : State) (v : Energy) : (s.withEnergy v).rdr = s.rdr := rfl
@[simp] theorem State.withEnergy_tag (s : State) (v : Energy) : (s.withEnergy v).tag = s.tag := rfl
@[simp] theorem State.withEnergy_disp (s : State) (v : Energy) : (s.withEnergy v).disp = s.disp := rfl
@[simp] theorem State.withEnergy_chain (s : State) (v : Energy) : (s.withEnergy v).chain = s.chain := rfl
@[simp] theorem State.withEnergy_store (s : State) (v : Energy) : (s.withEnergy v).store = s.store := rfl
@[simp] theorem State.withEnergy_pending (s : State) (v : Energy) : (s.withEnergy v).pending = s.pending := rfl
@[simp] theorem State.withBilling_factory (s : State) (v : Billing) : (s.withBilling v).factory = s.factory := rfl
@[simp] theorem State.withBilling_clock (s : State) (v : Billing) : (s.withBilling v).clock = s.clock := rfl
@[simp] theorem State.withBilling_power (s : State) (v : Billing) : (s.withBilling v).power = s.power := rfl
@[simp] theorem State.withBilling_rst (s : State) (v : Billing) : (s.withBilling v).rst = s.rst := rfl
@[simp] theorem State.withBilling_modes (s : State) (v : Billing) : (s.withBilling v).modes = s.modes := rfl
@[simp] theorem State.withBilling_port (s : State) (v : Billing) : (s.withBilling v).port = s.port := rfl
@[simp] theorem State.withBilling_roles (s : State) (v : Billing) : (s.withBilling v).roles = s.roles := rfl
@[simp] theorem State.withBilling_faults (s : State) (v : Billing) : (s.withBilling v).faults = s.faults := rfl
@[simp] theorem State.withBilling_ease (s : State) (v : Billing) : (s.withBilling v).ease = s.ease := rfl
@[simp] theorem State.withBilling_fe (s : State) (v : Billing) : (s.withBilling v).fe = s.fe := rfl
@[simp] theorem State.withBilling_energy (s : State) (v : Billing) : (s.withBilling v).energy = s.energy := rfl
@[simp] theorem State.withBilling_billing (s : State) (v : Billing) : (s.withBilling v).billing = v := rfl
@[simp] theorem State.withBilling_seals (s : State) (v : Billing) : (s.withBilling v).seals = s.seals := rfl
@[simp] theorem State.withBilling_log (s : State) (v : Billing) : (s.withBilling v).log = s.log := rfl
@[simp] theorem State.withBilling_link (s : State) (v : Billing) : (s.withBilling v).link = s.link := rfl
@[simp] theorem State.withBilling_sw (s : State) (v : Billing) : (s.withBilling v).sw = s.sw := rfl
@[simp] theorem State.withBilling_loads (s : State) (v : Billing) : (s.withBilling v).loads = s.loads := rfl
@[simp] theorem State.withBilling_trv (s : State) (v : Billing) : (s.withBilling v).trv = s.trv := rfl
@[simp] theorem State.withBilling_rdr (s : State) (v : Billing) : (s.withBilling v).rdr = s.rdr := rfl
@[simp] theorem State.withBilling_tag (s : State) (v : Billing) : (s.withBilling v).tag = s.tag := rfl
@[simp] theorem State.withBilling_disp (s : State) (v : Billing) : (s.withBilling v).disp = s.disp := rfl
@[simp] theorem State.withBilling_chain (s : State) (v : Billing) : (s.withBilling v).chain = s.chain := rfl
@[simp] theorem State.withBilling_store (s : State) (v : Billing) : (s.withBilling v).store = s.store := rfl
@[simp] theorem State.withBilling_pending (s : State) (v : Billing) : (s.withBilling v).pending = s.pending := rfl
@[simp] theorem State.withSeals_factory (s : State) (v : Seal) : (s.withSeals v).factory = s.factory := rfl
@[simp] theorem State.withSeals_clock (s : State) (v : Seal) : (s.withSeals v).clock = s.clock := rfl
@[simp] theorem State.withSeals_power (s : State) (v : Seal) : (s.withSeals v).power = s.power := rfl
@[simp] theorem State.withSeals_rst (s : State) (v : Seal) : (s.withSeals v).rst = s.rst := rfl
@[simp] theorem State.withSeals_modes (s : State) (v : Seal) : (s.withSeals v).modes = s.modes := rfl
@[simp] theorem State.withSeals_port (s : State) (v : Seal) : (s.withSeals v).port = s.port := rfl
@[simp] theorem State.withSeals_roles (s : State) (v : Seal) : (s.withSeals v).roles = s.roles := rfl
@[simp] theorem State.withSeals_faults (s : State) (v : Seal) : (s.withSeals v).faults = s.faults := rfl
@[simp] theorem State.withSeals_ease (s : State) (v : Seal) : (s.withSeals v).ease = s.ease := rfl
@[simp] theorem State.withSeals_fe (s : State) (v : Seal) : (s.withSeals v).fe = s.fe := rfl
@[simp] theorem State.withSeals_energy (s : State) (v : Seal) : (s.withSeals v).energy = s.energy := rfl
@[simp] theorem State.withSeals_billing (s : State) (v : Seal) : (s.withSeals v).billing = s.billing := rfl
@[simp] theorem State.withSeals_seals (s : State) (v : Seal) : (s.withSeals v).seals = v := rfl
@[simp] theorem State.withSeals_log (s : State) (v : Seal) : (s.withSeals v).log = s.log := rfl
@[simp] theorem State.withSeals_link (s : State) (v : Seal) : (s.withSeals v).link = s.link := rfl
@[simp] theorem State.withSeals_sw (s : State) (v : Seal) : (s.withSeals v).sw = s.sw := rfl
@[simp] theorem State.withSeals_loads (s : State) (v : Seal) : (s.withSeals v).loads = s.loads := rfl
@[simp] theorem State.withSeals_trv (s : State) (v : Seal) : (s.withSeals v).trv = s.trv := rfl
@[simp] theorem State.withSeals_rdr (s : State) (v : Seal) : (s.withSeals v).rdr = s.rdr := rfl
@[simp] theorem State.withSeals_tag (s : State) (v : Seal) : (s.withSeals v).tag = s.tag := rfl
@[simp] theorem State.withSeals_disp (s : State) (v : Seal) : (s.withSeals v).disp = s.disp := rfl
@[simp] theorem State.withSeals_chain (s : State) (v : Seal) : (s.withSeals v).chain = s.chain := rfl
@[simp] theorem State.withSeals_store (s : State) (v : Seal) : (s.withSeals v).store = s.store := rfl
@[simp] theorem State.withSeals_pending (s : State) (v : Seal) : (s.withSeals v).pending = s.pending := rfl
@[simp] theorem State.withLog_factory (s : State) (v : Log) : (s.withLog v).factory = s.factory := rfl
@[simp] theorem State.withLog_clock (s : State) (v : Log) : (s.withLog v).clock = s.clock := rfl
@[simp] theorem State.withLog_power (s : State) (v : Log) : (s.withLog v).power = s.power := rfl
@[simp] theorem State.withLog_rst (s : State) (v : Log) : (s.withLog v).rst = s.rst := rfl
@[simp] theorem State.withLog_modes (s : State) (v : Log) : (s.withLog v).modes = s.modes := rfl
@[simp] theorem State.withLog_port (s : State) (v : Log) : (s.withLog v).port = s.port := rfl
@[simp] theorem State.withLog_roles (s : State) (v : Log) : (s.withLog v).roles = s.roles := rfl
@[simp] theorem State.withLog_faults (s : State) (v : Log) : (s.withLog v).faults = s.faults := rfl
@[simp] theorem State.withLog_ease (s : State) (v : Log) : (s.withLog v).ease = s.ease := rfl
@[simp] theorem State.withLog_fe (s : State) (v : Log) : (s.withLog v).fe = s.fe := rfl
@[simp] theorem State.withLog_energy (s : State) (v : Log) : (s.withLog v).energy = s.energy := rfl
@[simp] theorem State.withLog_billing (s : State) (v : Log) : (s.withLog v).billing = s.billing := rfl
@[simp] theorem State.withLog_seals (s : State) (v : Log) : (s.withLog v).seals = s.seals := rfl
@[simp] theorem State.withLog_log (s : State) (v : Log) : (s.withLog v).log = v := rfl
@[simp] theorem State.withLog_link (s : State) (v : Log) : (s.withLog v).link = s.link := rfl
@[simp] theorem State.withLog_sw (s : State) (v : Log) : (s.withLog v).sw = s.sw := rfl
@[simp] theorem State.withLog_loads (s : State) (v : Log) : (s.withLog v).loads = s.loads := rfl
@[simp] theorem State.withLog_trv (s : State) (v : Log) : (s.withLog v).trv = s.trv := rfl
@[simp] theorem State.withLog_rdr (s : State) (v : Log) : (s.withLog v).rdr = s.rdr := rfl
@[simp] theorem State.withLog_tag (s : State) (v : Log) : (s.withLog v).tag = s.tag := rfl
@[simp] theorem State.withLog_disp (s : State) (v : Log) : (s.withLog v).disp = s.disp := rfl
@[simp] theorem State.withLog_chain (s : State) (v : Log) : (s.withLog v).chain = s.chain := rfl
@[simp] theorem State.withLog_store (s : State) (v : Log) : (s.withLog v).store = s.store := rfl
@[simp] theorem State.withLog_pending (s : State) (v : Log) : (s.withLog v).pending = s.pending := rfl
@[simp] theorem State.withLink_factory (s : State) (v : Link) : (s.withLink v).factory = s.factory := rfl
@[simp] theorem State.withLink_clock (s : State) (v : Link) : (s.withLink v).clock = s.clock := rfl
@[simp] theorem State.withLink_power (s : State) (v : Link) : (s.withLink v).power = s.power := rfl
@[simp] theorem State.withLink_rst (s : State) (v : Link) : (s.withLink v).rst = s.rst := rfl
@[simp] theorem State.withLink_modes (s : State) (v : Link) : (s.withLink v).modes = s.modes := rfl
@[simp] theorem State.withLink_port (s : State) (v : Link) : (s.withLink v).port = s.port := rfl
@[simp] theorem State.withLink_roles (s : State) (v : Link) : (s.withLink v).roles = s.roles := rfl
@[simp] theorem State.withLink_faults (s : State) (v : Link) : (s.withLink v).faults = s.faults := rfl
@[simp] theorem State.withLink_ease (s : State) (v : Link) : (s.withLink v).ease = s.ease := rfl
@[simp] theorem State.withLink_fe (s : State) (v : Link) : (s.withLink v).fe = s.fe := rfl
@[simp] theorem State.withLink_energy (s : State) (v : Link) : (s.withLink v).energy = s.energy := rfl
@[simp] theorem State.withLink_billing (s : State) (v : Link) : (s.withLink v).billing = s.billing := rfl
@[simp] theorem State.withLink_seals (s : State) (v : Link) : (s.withLink v).seals = s.seals := rfl
@[simp] theorem State.withLink_log (s : State) (v : Link) : (s.withLink v).log = s.log := rfl
@[simp] theorem State.withLink_link (s : State) (v : Link) : (s.withLink v).link = v := rfl
@[simp] theorem State.withLink_sw (s : State) (v : Link) : (s.withLink v).sw = s.sw := rfl
@[simp] theorem State.withLink_loads (s : State) (v : Link) : (s.withLink v).loads = s.loads := rfl
@[simp] theorem State.withLink_trv (s : State) (v : Link) : (s.withLink v).trv = s.trv := rfl
@[simp] theorem State.withLink_rdr (s : State) (v : Link) : (s.withLink v).rdr = s.rdr := rfl
@[simp] theorem State.withLink_tag (s : State) (v : Link) : (s.withLink v).tag = s.tag := rfl
@[simp] theorem State.withLink_disp (s : State) (v : Link) : (s.withLink v).disp = s.disp := rfl
@[simp] theorem State.withLink_chain (s : State) (v : Link) : (s.withLink v).chain = s.chain := rfl
@[simp] theorem State.withLink_store (s : State) (v : Link) : (s.withLink v).store = s.store := rfl
@[simp] theorem State.withLink_pending (s : State) (v : Link) : (s.withLink v).pending = s.pending := rfl
@[simp] theorem State.withSw_factory (s : State) (v : Switch) : (s.withSw v).factory = s.factory := rfl
@[simp] theorem State.withSw_clock (s : State) (v : Switch) : (s.withSw v).clock = s.clock := rfl
@[simp] theorem State.withSw_power (s : State) (v : Switch) : (s.withSw v).power = s.power := rfl
@[simp] theorem State.withSw_rst (s : State) (v : Switch) : (s.withSw v).rst = s.rst := rfl
@[simp] theorem State.withSw_modes (s : State) (v : Switch) : (s.withSw v).modes = s.modes := rfl
@[simp] theorem State.withSw_port (s : State) (v : Switch) : (s.withSw v).port = s.port := rfl
@[simp] theorem State.withSw_roles (s : State) (v : Switch) : (s.withSw v).roles = s.roles := rfl
@[simp] theorem State.withSw_faults (s : State) (v : Switch) : (s.withSw v).faults = s.faults := rfl
@[simp] theorem State.withSw_ease (s : State) (v : Switch) : (s.withSw v).ease = s.ease := rfl
@[simp] theorem State.withSw_fe (s : State) (v : Switch) : (s.withSw v).fe = s.fe := rfl
@[simp] theorem State.withSw_energy (s : State) (v : Switch) : (s.withSw v).energy = s.energy := rfl
@[simp] theorem State.withSw_billing (s : State) (v : Switch) : (s.withSw v).billing = s.billing := rfl
@[simp] theorem State.withSw_seals (s : State) (v : Switch) : (s.withSw v).seals = s.seals := rfl
@[simp] theorem State.withSw_log (s : State) (v : Switch) : (s.withSw v).log = s.log := rfl
@[simp] theorem State.withSw_link (s : State) (v : Switch) : (s.withSw v).link = s.link := rfl
@[simp] theorem State.withSw_sw (s : State) (v : Switch) : (s.withSw v).sw = v := rfl
@[simp] theorem State.withSw_loads (s : State) (v : Switch) : (s.withSw v).loads = s.loads := rfl
@[simp] theorem State.withSw_trv (s : State) (v : Switch) : (s.withSw v).trv = s.trv := rfl
@[simp] theorem State.withSw_rdr (s : State) (v : Switch) : (s.withSw v).rdr = s.rdr := rfl
@[simp] theorem State.withSw_tag (s : State) (v : Switch) : (s.withSw v).tag = s.tag := rfl
@[simp] theorem State.withSw_disp (s : State) (v : Switch) : (s.withSw v).disp = s.disp := rfl
@[simp] theorem State.withSw_chain (s : State) (v : Switch) : (s.withSw v).chain = s.chain := rfl
@[simp] theorem State.withSw_store (s : State) (v : Switch) : (s.withSw v).store = s.store := rfl
@[simp] theorem State.withSw_pending (s : State) (v : Switch) : (s.withSw v).pending = s.pending := rfl
@[simp] theorem State.withLoads_factory (s : State) (v : Loads) : (s.withLoads v).factory = s.factory := rfl
@[simp] theorem State.withLoads_clock (s : State) (v : Loads) : (s.withLoads v).clock = s.clock := rfl
@[simp] theorem State.withLoads_power (s : State) (v : Loads) : (s.withLoads v).power = s.power := rfl
@[simp] theorem State.withLoads_rst (s : State) (v : Loads) : (s.withLoads v).rst = s.rst := rfl
@[simp] theorem State.withLoads_modes (s : State) (v : Loads) : (s.withLoads v).modes = s.modes := rfl
@[simp] theorem State.withLoads_port (s : State) (v : Loads) : (s.withLoads v).port = s.port := rfl
@[simp] theorem State.withLoads_roles (s : State) (v : Loads) : (s.withLoads v).roles = s.roles := rfl
@[simp] theorem State.withLoads_faults (s : State) (v : Loads) : (s.withLoads v).faults = s.faults := rfl
@[simp] theorem State.withLoads_ease (s : State) (v : Loads) : (s.withLoads v).ease = s.ease := rfl
@[simp] theorem State.withLoads_fe (s : State) (v : Loads) : (s.withLoads v).fe = s.fe := rfl
@[simp] theorem State.withLoads_energy (s : State) (v : Loads) : (s.withLoads v).energy = s.energy := rfl
@[simp] theorem State.withLoads_billing (s : State) (v : Loads) : (s.withLoads v).billing = s.billing := rfl
@[simp] theorem State.withLoads_seals (s : State) (v : Loads) : (s.withLoads v).seals = s.seals := rfl
@[simp] theorem State.withLoads_log (s : State) (v : Loads) : (s.withLoads v).log = s.log := rfl
@[simp] theorem State.withLoads_link (s : State) (v : Loads) : (s.withLoads v).link = s.link := rfl
@[simp] theorem State.withLoads_sw (s : State) (v : Loads) : (s.withLoads v).sw = s.sw := rfl
@[simp] theorem State.withLoads_loads (s : State) (v : Loads) : (s.withLoads v).loads = v := rfl
@[simp] theorem State.withLoads_trv (s : State) (v : Loads) : (s.withLoads v).trv = s.trv := rfl
@[simp] theorem State.withLoads_rdr (s : State) (v : Loads) : (s.withLoads v).rdr = s.rdr := rfl
@[simp] theorem State.withLoads_tag (s : State) (v : Loads) : (s.withLoads v).tag = s.tag := rfl
@[simp] theorem State.withLoads_disp (s : State) (v : Loads) : (s.withLoads v).disp = s.disp := rfl
@[simp] theorem State.withLoads_chain (s : State) (v : Loads) : (s.withLoads v).chain = s.chain := rfl
@[simp] theorem State.withLoads_store (s : State) (v : Loads) : (s.withLoads v).store = s.store := rfl
@[simp] theorem State.withLoads_pending (s : State) (v : Loads) : (s.withLoads v).pending = s.pending := rfl
@[simp] theorem State.withTrv_factory (s : State) (v : Traverse) : (s.withTrv v).factory = s.factory := rfl
@[simp] theorem State.withTrv_clock (s : State) (v : Traverse) : (s.withTrv v).clock = s.clock := rfl
@[simp] theorem State.withTrv_power (s : State) (v : Traverse) : (s.withTrv v).power = s.power := rfl
@[simp] theorem State.withTrv_rst (s : State) (v : Traverse) : (s.withTrv v).rst = s.rst := rfl
@[simp] theorem State.withTrv_modes (s : State) (v : Traverse) : (s.withTrv v).modes = s.modes := rfl
@[simp] theorem State.withTrv_port (s : State) (v : Traverse) : (s.withTrv v).port = s.port := rfl
@[simp] theorem State.withTrv_roles (s : State) (v : Traverse) : (s.withTrv v).roles = s.roles := rfl
@[simp] theorem State.withTrv_faults (s : State) (v : Traverse) : (s.withTrv v).faults = s.faults := rfl
@[simp] theorem State.withTrv_ease (s : State) (v : Traverse) : (s.withTrv v).ease = s.ease := rfl
@[simp] theorem State.withTrv_fe (s : State) (v : Traverse) : (s.withTrv v).fe = s.fe := rfl
@[simp] theorem State.withTrv_energy (s : State) (v : Traverse) : (s.withTrv v).energy = s.energy := rfl
@[simp] theorem State.withTrv_billing (s : State) (v : Traverse) : (s.withTrv v).billing = s.billing := rfl
@[simp] theorem State.withTrv_seals (s : State) (v : Traverse) : (s.withTrv v).seals = s.seals := rfl
@[simp] theorem State.withTrv_log (s : State) (v : Traverse) : (s.withTrv v).log = s.log := rfl
@[simp] theorem State.withTrv_link (s : State) (v : Traverse) : (s.withTrv v).link = s.link := rfl
@[simp] theorem State.withTrv_sw (s : State) (v : Traverse) : (s.withTrv v).sw = s.sw := rfl
@[simp] theorem State.withTrv_loads (s : State) (v : Traverse) : (s.withTrv v).loads = s.loads := rfl
@[simp] theorem State.withTrv_trv (s : State) (v : Traverse) : (s.withTrv v).trv = v := rfl
@[simp] theorem State.withTrv_rdr (s : State) (v : Traverse) : (s.withTrv v).rdr = s.rdr := rfl
@[simp] theorem State.withTrv_tag (s : State) (v : Traverse) : (s.withTrv v).tag = s.tag := rfl
@[simp] theorem State.withTrv_disp (s : State) (v : Traverse) : (s.withTrv v).disp = s.disp := rfl
@[simp] theorem State.withTrv_chain (s : State) (v : Traverse) : (s.withTrv v).chain = s.chain := rfl
@[simp] theorem State.withTrv_store (s : State) (v : Traverse) : (s.withTrv v).store = s.store := rfl
@[simp] theorem State.withTrv_pending (s : State) (v : Traverse) : (s.withTrv v).pending = s.pending := rfl
@[simp] theorem State.withRdr_factory (s : State) (v : Reader) : (s.withRdr v).factory = s.factory := rfl
@[simp] theorem State.withRdr_clock (s : State) (v : Reader) : (s.withRdr v).clock = s.clock := rfl
@[simp] theorem State.withRdr_power (s : State) (v : Reader) : (s.withRdr v).power = s.power := rfl
@[simp] theorem State.withRdr_rst (s : State) (v : Reader) : (s.withRdr v).rst = s.rst := rfl
@[simp] theorem State.withRdr_modes (s : State) (v : Reader) : (s.withRdr v).modes = s.modes := rfl
@[simp] theorem State.withRdr_port (s : State) (v : Reader) : (s.withRdr v).port = s.port := rfl
@[simp] theorem State.withRdr_roles (s : State) (v : Reader) : (s.withRdr v).roles = s.roles := rfl
@[simp] theorem State.withRdr_faults (s : State) (v : Reader) : (s.withRdr v).faults = s.faults := rfl
@[simp] theorem State.withRdr_ease (s : State) (v : Reader) : (s.withRdr v).ease = s.ease := rfl
@[simp] theorem State.withRdr_fe (s : State) (v : Reader) : (s.withRdr v).fe = s.fe := rfl
@[simp] theorem State.withRdr_energy (s : State) (v : Reader) : (s.withRdr v).energy = s.energy := rfl
@[simp] theorem State.withRdr_billing (s : State) (v : Reader) : (s.withRdr v).billing = s.billing := rfl
@[simp] theorem State.withRdr_seals (s : State) (v : Reader) : (s.withRdr v).seals = s.seals := rfl
@[simp] theorem State.withRdr_log (s : State) (v : Reader) : (s.withRdr v).log = s.log := rfl
@[simp] theorem State.withRdr_link (s : State) (v : Reader) : (s.withRdr v).link = s.link := rfl
@[simp] theorem State.withRdr_sw (s : State) (v : Reader) : (s.withRdr v).sw = s.sw := rfl
@[simp] theorem State.withRdr_loads (s : State) (v : Reader) : (s.withRdr v).loads = s.loads := rfl
@[simp] theorem State.withRdr_trv (s : State) (v : Reader) : (s.withRdr v).trv = s.trv := rfl
@[simp] theorem State.withRdr_rdr (s : State) (v : Reader) : (s.withRdr v).rdr = v := rfl
@[simp] theorem State.withRdr_tag (s : State) (v : Reader) : (s.withRdr v).tag = s.tag := rfl
@[simp] theorem State.withRdr_disp (s : State) (v : Reader) : (s.withRdr v).disp = s.disp := rfl
@[simp] theorem State.withRdr_chain (s : State) (v : Reader) : (s.withRdr v).chain = s.chain := rfl
@[simp] theorem State.withRdr_store (s : State) (v : Reader) : (s.withRdr v).store = s.store := rfl
@[simp] theorem State.withRdr_pending (s : State) (v : Reader) : (s.withRdr v).pending = s.pending := rfl
@[simp] theorem State.withTag_factory (s : State) (v : Tag) : (s.withTag v).factory = s.factory := rfl
@[simp] theorem State.withTag_clock (s : State) (v : Tag) : (s.withTag v).clock = s.clock := rfl
@[simp] theorem State.withTag_power (s : State) (v : Tag) : (s.withTag v).power = s.power := rfl
@[simp] theorem State.withTag_rst (s : State) (v : Tag) : (s.withTag v).rst = s.rst := rfl
@[simp] theorem State.withTag_modes (s : State) (v : Tag) : (s.withTag v).modes = s.modes := rfl
@[simp] theorem State.withTag_port (s : State) (v : Tag) : (s.withTag v).port = s.port := rfl
@[simp] theorem State.withTag_roles (s : State) (v : Tag) : (s.withTag v).roles = s.roles := rfl
@[simp] theorem State.withTag_faults (s : State) (v : Tag) : (s.withTag v).faults = s.faults := rfl
@[simp] theorem State.withTag_ease (s : State) (v : Tag) : (s.withTag v).ease = s.ease := rfl
@[simp] theorem State.withTag_fe (s : State) (v : Tag) : (s.withTag v).fe = s.fe := rfl
@[simp] theorem State.withTag_energy (s : State) (v : Tag) : (s.withTag v).energy = s.energy := rfl
@[simp] theorem State.withTag_billing (s : State) (v : Tag) : (s.withTag v).billing = s.billing := rfl
@[simp] theorem State.withTag_seals (s : State) (v : Tag) : (s.withTag v).seals = s.seals := rfl
@[simp] theorem State.withTag_log (s : State) (v : Tag) : (s.withTag v).log = s.log := rfl
@[simp] theorem State.withTag_link (s : State) (v : Tag) : (s.withTag v).link = s.link := rfl
@[simp] theorem State.withTag_sw (s : State) (v : Tag) : (s.withTag v).sw = s.sw := rfl
@[simp] theorem State.withTag_loads (s : State) (v : Tag) : (s.withTag v).loads = s.loads := rfl
@[simp] theorem State.withTag_trv (s : State) (v : Tag) : (s.withTag v).trv = s.trv := rfl
@[simp] theorem State.withTag_rdr (s : State) (v : Tag) : (s.withTag v).rdr = s.rdr := rfl
@[simp] theorem State.withTag_tag (s : State) (v : Tag) : (s.withTag v).tag = v := rfl
@[simp] theorem State.withTag_disp (s : State) (v : Tag) : (s.withTag v).disp = s.disp := rfl
@[simp] theorem State.withTag_chain (s : State) (v : Tag) : (s.withTag v).chain = s.chain := rfl
@[simp] theorem State.withTag_store (s : State) (v : Tag) : (s.withTag v).store = s.store := rfl
@[simp] theorem State.withTag_pending (s : State) (v : Tag) : (s.withTag v).pending = s.pending := rfl
@[simp] theorem State.withDisp_factory (s : State) (v : Display) : (s.withDisp v).factory = s.factory := rfl
@[simp] theorem State.withDisp_clock (s : State) (v : Display) : (s.withDisp v).clock = s.clock := rfl
@[simp] theorem State.withDisp_power (s : State) (v : Display) : (s.withDisp v).power = s.power := rfl
@[simp] theorem State.withDisp_rst (s : State) (v : Display) : (s.withDisp v).rst = s.rst := rfl
@[simp] theorem State.withDisp_modes (s : State) (v : Display) : (s.withDisp v).modes = s.modes := rfl
@[simp] theorem State.withDisp_port (s : State) (v : Display) : (s.withDisp v).port = s.port := rfl
@[simp] theorem State.withDisp_roles (s : State) (v : Display) : (s.withDisp v).roles = s.roles := rfl
@[simp] theorem State.withDisp_faults (s : State) (v : Display) : (s.withDisp v).faults = s.faults := rfl
@[simp] theorem State.withDisp_ease (s : State) (v : Display) : (s.withDisp v).ease = s.ease := rfl
@[simp] theorem State.withDisp_fe (s : State) (v : Display) : (s.withDisp v).fe = s.fe := rfl
@[simp] theorem State.withDisp_energy (s : State) (v : Display) : (s.withDisp v).energy = s.energy := rfl
@[simp] theorem State.withDisp_billing (s : State) (v : Display) : (s.withDisp v).billing = s.billing := rfl
@[simp] theorem State.withDisp_seals (s : State) (v : Display) : (s.withDisp v).seals = s.seals := rfl
@[simp] theorem State.withDisp_log (s : State) (v : Display) : (s.withDisp v).log = s.log := rfl
@[simp] theorem State.withDisp_link (s : State) (v : Display) : (s.withDisp v).link = s.link := rfl
@[simp] theorem State.withDisp_sw (s : State) (v : Display) : (s.withDisp v).sw = s.sw := rfl
@[simp] theorem State.withDisp_loads (s : State) (v : Display) : (s.withDisp v).loads = s.loads := rfl
@[simp] theorem State.withDisp_trv (s : State) (v : Display) : (s.withDisp v).trv = s.trv := rfl
@[simp] theorem State.withDisp_rdr (s : State) (v : Display) : (s.withDisp v).rdr = s.rdr := rfl
@[simp] theorem State.withDisp_tag (s : State) (v : Display) : (s.withDisp v).tag = s.tag := rfl
@[simp] theorem State.withDisp_disp (s : State) (v : Display) : (s.withDisp v).disp = v := rfl
@[simp] theorem State.withDisp_chain (s : State) (v : Display) : (s.withDisp v).chain = s.chain := rfl
@[simp] theorem State.withDisp_store (s : State) (v : Display) : (s.withDisp v).store = s.store := rfl
@[simp] theorem State.withDisp_pending (s : State) (v : Display) : (s.withDisp v).pending = s.pending := rfl
@[simp] theorem State.withChain_factory (s : State) (v : Chain) : (s.withChain v).factory = s.factory := rfl
@[simp] theorem State.withChain_clock (s : State) (v : Chain) : (s.withChain v).clock = s.clock := rfl
@[simp] theorem State.withChain_power (s : State) (v : Chain) : (s.withChain v).power = s.power := rfl
@[simp] theorem State.withChain_rst (s : State) (v : Chain) : (s.withChain v).rst = s.rst := rfl
@[simp] theorem State.withChain_modes (s : State) (v : Chain) : (s.withChain v).modes = s.modes := rfl
@[simp] theorem State.withChain_port (s : State) (v : Chain) : (s.withChain v).port = s.port := rfl
@[simp] theorem State.withChain_roles (s : State) (v : Chain) : (s.withChain v).roles = s.roles := rfl
@[simp] theorem State.withChain_faults (s : State) (v : Chain) : (s.withChain v).faults = s.faults := rfl
@[simp] theorem State.withChain_ease (s : State) (v : Chain) : (s.withChain v).ease = s.ease := rfl
@[simp] theorem State.withChain_fe (s : State) (v : Chain) : (s.withChain v).fe = s.fe := rfl
@[simp] theorem State.withChain_energy (s : State) (v : Chain) : (s.withChain v).energy = s.energy := rfl
@[simp] theorem State.withChain_billing (s : State) (v : Chain) : (s.withChain v).billing = s.billing := rfl
@[simp] theorem State.withChain_seals (s : State) (v : Chain) : (s.withChain v).seals = s.seals := rfl
@[simp] theorem State.withChain_log (s : State) (v : Chain) : (s.withChain v).log = s.log := rfl
@[simp] theorem State.withChain_link (s : State) (v : Chain) : (s.withChain v).link = s.link := rfl
@[simp] theorem State.withChain_sw (s : State) (v : Chain) : (s.withChain v).sw = s.sw := rfl
@[simp] theorem State.withChain_loads (s : State) (v : Chain) : (s.withChain v).loads = s.loads := rfl
@[simp] theorem State.withChain_trv (s : State) (v : Chain) : (s.withChain v).trv = s.trv := rfl
@[simp] theorem State.withChain_rdr (s : State) (v : Chain) : (s.withChain v).rdr = s.rdr := rfl
@[simp] theorem State.withChain_tag (s : State) (v : Chain) : (s.withChain v).tag = s.tag := rfl
@[simp] theorem State.withChain_disp (s : State) (v : Chain) : (s.withChain v).disp = s.disp := rfl
@[simp] theorem State.withChain_chain (s : State) (v : Chain) : (s.withChain v).chain = v := rfl
@[simp] theorem State.withChain_store (s : State) (v : Chain) : (s.withChain v).store = s.store := rfl
@[simp] theorem State.withChain_pending (s : State) (v : Chain) : (s.withChain v).pending = s.pending := rfl
@[simp] theorem State.withStore_factory (s : State) (v : Storage) : (s.withStore v).factory = s.factory := rfl
@[simp] theorem State.withStore_clock (s : State) (v : Storage) : (s.withStore v).clock = s.clock := rfl
@[simp] theorem State.withStore_power (s : State) (v : Storage) : (s.withStore v).power = s.power := rfl
@[simp] theorem State.withStore_rst (s : State) (v : Storage) : (s.withStore v).rst = s.rst := rfl
@[simp] theorem State.withStore_modes (s : State) (v : Storage) : (s.withStore v).modes = s.modes := rfl
@[simp] theorem State.withStore_port (s : State) (v : Storage) : (s.withStore v).port = s.port := rfl
@[simp] theorem State.withStore_roles (s : State) (v : Storage) : (s.withStore v).roles = s.roles := rfl
@[simp] theorem State.withStore_faults (s : State) (v : Storage) : (s.withStore v).faults = s.faults := rfl
@[simp] theorem State.withStore_ease (s : State) (v : Storage) : (s.withStore v).ease = s.ease := rfl
@[simp] theorem State.withStore_fe (s : State) (v : Storage) : (s.withStore v).fe = s.fe := rfl
@[simp] theorem State.withStore_energy (s : State) (v : Storage) : (s.withStore v).energy = s.energy := rfl
@[simp] theorem State.withStore_billing (s : State) (v : Storage) : (s.withStore v).billing = s.billing := rfl
@[simp] theorem State.withStore_seals (s : State) (v : Storage) : (s.withStore v).seals = s.seals := rfl
@[simp] theorem State.withStore_log (s : State) (v : Storage) : (s.withStore v).log = s.log := rfl
@[simp] theorem State.withStore_link (s : State) (v : Storage) : (s.withStore v).link = s.link := rfl
@[simp] theorem State.withStore_sw (s : State) (v : Storage) : (s.withStore v).sw = s.sw := rfl
@[simp] theorem State.withStore_loads (s : State) (v : Storage) : (s.withStore v).loads = s.loads := rfl
@[simp] theorem State.withStore_trv (s : State) (v : Storage) : (s.withStore v).trv = s.trv := rfl
@[simp] theorem State.withStore_rdr (s : State) (v : Storage) : (s.withStore v).rdr = s.rdr := rfl
@[simp] theorem State.withStore_tag (s : State) (v : Storage) : (s.withStore v).tag = s.tag := rfl
@[simp] theorem State.withStore_disp (s : State) (v : Storage) : (s.withStore v).disp = s.disp := rfl
@[simp] theorem State.withStore_chain (s : State) (v : Storage) : (s.withStore v).chain = s.chain := rfl
@[simp] theorem State.withStore_store (s : State) (v : Storage) : (s.withStore v).store = v := rfl
@[simp] theorem State.withStore_pending (s : State) (v : Storage) : (s.withStore v).pending = s.pending := rfl
@[simp] theorem State.withPending_factory (s : State) (v : List Instr) : (s.withPending v).factory = s.factory := rfl
@[simp] theorem State.withPending_clock (s : State) (v : List Instr) : (s.withPending v).clock = s.clock := rfl
@[simp] theorem State.withPending_power (s : State) (v : List Instr) : (s.withPending v).power = s.power := rfl
@[simp] theorem State.withPending_rst (s : State) (v : List Instr) : (s.withPending v).rst = s.rst := rfl
@[simp] theorem State.withPending_modes (s : State) (v : List Instr) : (s.withPending v).modes = s.modes := rfl
@[simp] theorem State.withPending_port (s : State) (v : List Instr) : (s.withPending v).port = s.port := rfl
@[simp] theorem State.withPending_roles (s : State) (v : List Instr) : (s.withPending v).roles = s.roles := rfl
@[simp] theorem State.withPending_faults (s : State) (v : List Instr) : (s.withPending v).faults = s.faults := rfl
@[simp] theorem State.withPending_ease (s : State) (v : List Instr) : (s.withPending v).ease = s.ease := rfl
@[simp] theorem State.withPending_fe (s : State) (v : List Instr) : (s.withPending v).fe = s.fe := rfl
@[simp] theorem State.withPending_energy (s : State) (v : List Instr) : (s.withPending v).energy = s.energy := rfl
@[simp] theorem State.withPending_billing (s : State) (v : List Instr) : (s.withPending v).billing = s.billing := rfl
@[simp] theorem State.withPending_seals (s : State) (v : List Instr) : (s.withPending v).seals = s.seals := rfl
@[simp] theorem State.withPending_log (s : State) (v : List Instr) : (s.withPending v).log = s.log := rfl
@[simp] theorem State.withPending_link (s : State) (v : List Instr) : (s.withPending v).link = s.link := rfl
@[simp] theorem State.withPending_sw (s : State) (v : List Instr) : (s.withPending v).sw = s.sw := rfl
@[simp] theorem State.withPending_loads (s : State) (v : List Instr) : (s.withPending v).loads = s.loads := rfl
@[simp] theorem State.withPending_trv (s : State) (v : List Instr) : (s.withPending v).trv = s.trv := rfl
@[simp] theorem State.withPending_rdr (s : State) (v : List Instr) : (s.withPending v).rdr = s.rdr := rfl
@[simp] theorem State.withPending_tag (s : State) (v : List Instr) : (s.withPending v).tag = s.tag := rfl
@[simp] theorem State.withPending_disp (s : State) (v : List Instr) : (s.withPending v).disp = s.disp := rfl
@[simp] theorem State.withPending_chain (s : State) (v : List Instr) : (s.withPending v).chain = s.chain := rfl
@[simp] theorem State.withPending_store (s : State) (v : List Instr) : (s.withPending v).store = s.store := rfl
@[simp] theorem State.withPending_pending (s : State) (v : List Instr) : (s.withPending v).pending = v := rfl

end Sys2Proof.Machine
end

