-- ==== Sys2Proof/Machine/Pads.lean ====
section
/-!
DEFINITION. What the pads show, read off the state (R4, R20, R53 to R55, R98, R118; Tables 2-11, 3-8). Nothing here changes the state.
-/

namespace Sys2Proof.Machine

/-- The state of a pad. -/
inductive Pad where
  /-- high impedance -/
  | highZ
  /-- input with weak pull-up -/
  | pullUp
  /-- input, pull-up off -/
  | input
  /-- input current sink active; the value is used, or ignored -/
  | sink (used : Bool)
  /-- output, driven low or high -/
  | low
  | high
  /-- open-drain output, released -/
  | released
  /-- power output, receiver or generator -/
  | off
  | on
  /-- analog level in mV -/
  | level (mv : Nat)
  /-- a signed level in mV, and the 0.200 V peak tone of R188 summed to it -/
  | signal (mv : Int) (tone : Bool)
  /-- pilot drive: 0 constant 12 V, 1 PWM, 2 state F (R300) -/
  | pilot (drive : Nat)
  /-- transmitter, in dB below its full level (R364) -/
  | atten (db : Nat)
  /-- output pulsed: on-time, period, and start within the period, in 0.1 microseconds (R307, R348) -/
  | pulsed (on period start : Nat)
deriving DecidableEq, Repr

/-- The pads that Table 3-8 names for boot step k are configured. A reset wider than CORE returns them to Table 2-11 from its assertion;
CORE returns only those of the host port (R98). -/
def configured (s : State) (k : Nat) : Bool :=
  s.railsUp && (match s.rst.phase with
    | .asserted => s.rst.takes == 0 && decide (k < 6)
    | .held j => decide (k ≤ j)
    | .factory => decide (k ≤ 1)
    | .released => true
    | .running => true)

/-- A type D3 pad before its configuration (Table 2-11, R55). -/
def d3Unset (s : State) : Pad := if s.v3dUp then .pullUp else .highZ

/-- PERMIT_Nn: low only while the permit is given. -/
def permitPad (s : State) (n : Nat) : Pad := if configured s 2 && bit s.sw.permit n then .low else d3Unset s

/-- PULSEk: released but for a pulse under way, which runs to its end. -/
def pulsePad (s : State) (k : Nat) : Pad := if configured s 3 && (pls s k).low then .low else .released

/-- CPn: state F while the pilot rails are up and the pads are not configured; an absent outlet's is at high impedance (R4). -/
def cpPad (s : State) (n : Nat) : Pad :=
  if !s.pilotRails || !s.present n then .highZ
  else if configured s 4 then (if (lk s n).drive = 3 then .highZ else .pilot (lk s n).drive)
  else .pilot 2

/-- TPLUGAn, TPLUGBn. -/
def linkPad (s : State) (n : Nat) : Pad := if configured s 4 && s.present n then .on else .highZ

/-- PPn: its pull-up is on while PP_MODE = 1 (R277). -/
def ppPad (s : State) (n : Nat) : Pad := if configured s 4 && s.present n && bit (lkCfg s n) 8 then .on else .highZ

/-- GPTXn and GPRXn: the Green PHY modem of a T1S outlet is switched off (R269). -/
def modemPad (s : State) (n : Nat) : Pad := if configured s 4 && s.present n && !isT1s s n then .on else .highZ

/-- T1Pn and T1Nn: the T1S PHY of a CCS outlet carries nothing (R269). -/
def t1sPad (s : State) (n : Nat) : Pad := if configured s 4 && s.present n && isT1s s n then .on else .highZ

/-- KDRVd: full conduction in the pull-in, then PWM at 20 kHz and HOLD_DUTY, 100 % of it being full conduction again (R307); off from the
assertion of a reset wider than CORE (Table 2-11), though the driver's commanded state lasts until the hardware timer of R20 has run its 5
ms (R89; DESIGN CHOICE, log 42: the pad is the one, the state the other). -/
def driverPad (s : State) (d : Nat) : Pad :=
  let x := vget s.sw.drivers d {}
  let duty := fld (kCfg s d) 16 7
  if !configured s 2 then .off
  else if x.state == 1 || (x.state == 2 && decide (100 ≤ duty)) then .on
  else if x.state == 2 then .pulsed (5 * duty) 500 0
  else .off

/-- OUTc. -/
def channelPad (s : State) (c : Nat) : Pad :=
  if !(configured s 1 && chOn s c) then .off
  else if (chn s c).pwm then .pulsed (pulseOn s c) (pulsePeriod s (c / 4)) (pulseStart s c)
  else .on

/-- SENSEk: at high impedance until boot step 1 has configured it. -/
def sensePad (s : State) (k : Nat) : Pad := if configured s 1 then .level (senseMv s k) else .highZ

/-- KFB and SIN: the current sink is active from VAUX. -/
def feedbackPad (s : State) : Pad := if s.power.supply = .on then .sink (configured s 2) else .highZ

/-- TPO0 to TPO3: test pulses run from step 2 on. -/
def testPad (s : State) : Pad := if configured s 2 && !s.faults.globalSafe then .on else .off

/-- MCLKn. -/
def clockPad (s : State) (n : Nat) : Pad :=
  if configured s 3 && s.present n && !s.fe.mclkStopped then .on else d3Unset s

/-- MDATn_x, and MSYNC_N. -/
def dataPad (s : State) (n : Nat) : Pad := if configured s 3 && s.present n then .input else d3Unset s
def syncPad (s : State) : Pad := if configured s 3 then .input else d3Unset s

/-- The level that Plumb injects on outlet n now, in mV: plus or minus INJ_LEVEL with the sign of the running step, 0 V without injection
(R324). -/
def injectMv (s : State) (n : Nat) : Int :=
  match s.fe.steps with
  | p :: _ => if injects s n then injSign (plCode s n) p.number * (100 * fld (plCfg s n) 32 8 : Nat) else 0
  | [] => 0

/-- IMDINJn: the injected level, with the benchmark tone summed to it while TONE_CONFIG.ENABLE = 1 (R324, R325). -/
def injectPad (s : State) (n : Nat) : Pad :=
  if configured s 3 && s.present n then .signal (injectMv s n) (toneOn s n) else .highZ

/-- The Traverse pads: receiving from step 5 on, and transmitting at a level in dB below the full one (R364, R387). -/
def sitePad (s : State) : Pad :=
  if !(configured s 5 && s.trv.running) then .highZ else if trvTransmits s then .atten (txAtten s) else .on

/-- Carrier k of a frame that the device transmits, in dB below full level: no power inside a notch (R364, R365). -/
def carrierPad (s : State) (k : Nat) : Pad :=
  if !isCarrier k || notched s k then .off else sitePad s

/-- The reader's antenna driver: on while a full round runs or a card is held (R392, R399). -/
def readerPad (s : State) : Pad :=
  if !configured s 5 then .highZ else if fieldIsOn s then .on else .off

/-- The panel's rails. The sequencer completes their fall through every reset and the shutdown (R412). -/
def panelPad (s : State) : Pad :=
  if s.disp.state ≠ 0 then .on else if configured s 5 then .off else .highZ

/-- The gate pads: the set that GATE_IF selects runs while the panel is driven, the other is low (R410). `ckv` names EPCKV and EPSTV. -/
def gatePad (s : State) (ckv : Bool) : Pad :=
  if !configured s 5 then d3Unset s
  else if bit s.disp.config 23 != ckv then .low
  else if s.disp.state = 2 then .on else .low

/-- EPFL: low lights the panel; pulled high from step 5 on (R56, R414). -/
def lightPad (s : State) : Pad :=
  if !configured s 5 then d3Unset s else if s.disp.light then .low else .high

/-- HRDY_N: high until READY and after step 6 of the shutdown sequence, low while a command can be taken (R118). -/
def hrdyPad (s : State) : Pad := if !configured s 6 then d3Unset s else if rxReady s then .low else .high

/-- HIRQ_N: low while a packet waits to be delivered (R118). -/
def hirqPad (s : State) : Pad := if !configured s 6 then d3Unset s else if hirqLow s then .low else .high

/-- The pads of a transport, SPI or UART: inputs with pull-up unless HOSTSEL selects it, from step 6 on (R117). -/
def hostPad (s : State) (spi : Bool) : Pad := if configured s 6 && onSpi s == spi then .on else d3Unset s

/-- HIOk, k = 0 to 3, at clock j of the last SPI transaction: what the device drives, or an input (R119, R120). -/
def hioPad (s : State) (k j : Nat) : Pad :=
  if !(configured s 6 && onSpi s) then d3Unset s
  else
    match s.port.lanes[j]? with
    | some x => if bit x.driven k then (if bit x.level k then .high else .low) else .input
    | none => .input

/-- A strap pad, DBGEN_N and RESET_N: inputs with pull-up throughout (R53, R59, R92). -/
def strapPad (s : State) : Pad := d3Unset s

/-- DBGCK and DBGIO: the debug port runs, or they are inputs with pull-up (R63). -/
def debugPad (s : State) : Pad := if s.v3dUp && s.rst.debugRun then .on else d3Unset s

/-- CANkTX and CANkRX: driven and read once SAFETY is released in step 2, which Table 3-8 does not name (DESIGN CHOICE, log 42). -/
def canPad (s : State) : Pad := if configured s 2 then .on else d3Unset s

/-- ZCIN: an input that SITE reads from step 5 on (R53; the step DESIGN CHOICE, log 42). -/
def zeroPad (s : State) : Pad := if configured s 5 then .input else d3Unset s

/-- XIN and XOUT: the oscillator, or XIN as clock input and XOUT open, when CLKMODE reads 0 (R53, R60). V3A powers them. -/
def crystalPad (s : State) (xin : Bool) : Pad :=
  if !(s.railsUp && s.power.railOut != 3) then .highZ
  else if bit s.rst.straps 2 then .on else if xin then .input else .highZ

/-- EPVCOM, EPCRKA, EPCRKB and EPTEMP: high impedance with their rails off, until step 5 (R53, R412). -/
def panelAnalogPad (s : State) : Pad := if s.disp.state ≠ 0 then .on else .highZ

/-- EPSD0 to EPSD15, EPSDCLK, EPSDLE and EPSDOE: inputs with pull-up until step 5, then low but for the scans (R53, R410). -/
def sourcePad (s : State) : Pad := if !configured s 5 then d3Unset s else if s.disp.state = 2 then .on else .low

/-- WTAGA, WTAGB, SEALA, SEALB and the 32 kHz pads: running, whatever the supply; no reset acts on them. -/
def vbatPad : Pad := .on

end Sys2Proof.Machine
end

