-- ==== Sys2Proof/Machine/RomFilters.lean ====
section
/-!
DEFINITION. What the spec says of the taps of the metrology ROM, which Config leaves free: Table 5-4 of R171, and R196. The machine does
not evaluate these conditions; a statement about content other than DC takes the one that it needs as a premise, and so holds of every
set of taps that meets the spec (R158, R171, R196, R201).
-/

namespace Sys2Proof.Machine

/-- Response of n taps with 22 fraction bits at f Hz, r values a second apart, the phase counted from the first. -/
noncomputable def response (tap : Nat → Int) (n : Nat) (r f : ℝ) : ℂ :=
  ∑ k ∈ Finset.range n, ((tap k : ℝ) / 2 ^ 22 : ℝ) * Complex.exp (-(2 * Real.pi * f * k / r : ℝ) * Complex.I)

/-- Gain of the sinc5 filter of OSR 256 at f Hz (R164). -/
noncomputable def sinc5Gain (f : ℝ) : ℝ :=
  if f = 0 then 1 else (Real.sin (Real.pi * f / 80000) / (256 * Real.sin (Real.pi * f / 20480000))) ^ 5

/-- Gain in dB of a preset, sinc5 filter and FIR filter together, at f Hz. -/
noncomputable def presetDb (tap : Nat → Int) (n : Nat) (f : ℝ) : ℝ :=
  20 * Real.logb 10 (‖response tap n 80000 f‖ * |sinc5Gain f|)

/-- BILLING: a sum of exactly 2^22, ±0.002 dB up to 400 Hz, 100 dB from 3.6 kHz on, group delay 125.5 values (Table 5-4). -/
def BillingRom (tap : Nat → Int) : Prop :=
  (∑ k ∈ Finset.range 252, tap k) = 2 ^ 22 ∧ (∀ k, k < 252 → tap k = tap (251 - k)) ∧
    (∀ f : ℝ, 0 ≤ f → f ≤ 400 → |presetDb tap 252 f| ≤ 0.002) ∧ (∀ f : ℝ, 3600 ≤ f → f ≤ 40000 → presetDb tap 252 f ≤ -100)

/-- CONTROL: unity over the filter's response, ±0.05 dB up to 2 kHz, 60 dB from 10 kHz on, group delay 21.5 values (R158, Table 5-4). -/
def ControlRom (tap : Nat → Int) : Prop :=
  (∑ k ∈ Finset.range 44, tap k) = 2 ^ 22 ∧ (∀ k, k < 44 → tap k = tap (43 - k)) ∧
    (∀ f : ℝ, 0 ≤ f → f ≤ 2000 → |presetDb tap 44 f| ≤ 0.05) ∧ (∀ f : ℝ, 10000 ≤ f → f ≤ 40000 → presetDb tap 44 f ≤ -60)

/-- DIAGNOSTIC: unity over the filter's response, ±0.1 dB up to 25 kHz with the droop of the sinc5 filter corrected, group delay 7.5 values
(R158, Table 5-4). Its alias rejection is the sinc5 filter's. -/
def DiagnosticRom (tap : Nat → Int) : Prop :=
  (∑ k ∈ Finset.range 16, tap k) = 2 ^ 22 ∧ (∀ k, k < 16 → tap k = tap (15 - k)) ∧
    (∀ f : ℝ, 0 ≤ f → f ≤ 25000 → |presetDb tap 16 f| ≤ 0.1)

/-- The fractional delay over periods m − 3 to m + 4, 4,000 a second: DC gain exactly 1, gain 1 within 1 ppm up to 400 Hz, and v* taken
1/16 of a period after the voltage instant of period m, within 10 ns (R196). -/
def DelayRom (tap : Nat → Int) : Prop :=
  (∑ k ∈ Finset.range 8, tap k) = 2 ^ 22 ∧
    ∀ f : ℝ, 0 ≤ f → f ≤ 400 → |‖response tap 8 4000 f‖ - 1| ≤ 0.000001 ∧
      ∃ e : ℝ, |e| ≤ 0.00000001 ∧ response tap 8 4000 f =
        ‖response tap 8 4000 f‖ * Complex.exp (-(2 * Real.pi * f * ((4 - 1 / 16) / 4000 + e) : ℝ) * Complex.I)

/-- The taps of the metrology ROM as the spec describes them. -/
def RomFilters : Prop :=
  BillingRom Config.billingTap ∧ ControlRom Config.controlTap ∧ DiagnosticRom Config.diagTap ∧ DelayRom Config.delayTap

end Sys2Proof.Machine
end

