-- ==== Sys2Proof/WellFormed.lean ====
section
/-!
DEFINITION. Well-formed commands: operands that the packets, pads and units of the spec can carry.
-/

namespace Sys2Proof

/-- A payload of at most 4,096 bytes (R127). -/
def payloadOk (p : List Byte) : Bool := decide (p.length ≤ 4096)

/-- DATA and MASK of a write: n bytes each, in one packet (R127, R144). -/
def writeOk (data mask : List Byte) : Bool := data.length == mask.length && decide (4 + 2 * data.length ≤ 4096)

/-- An outlet, present or not (R2). -/
def outletOk (n : Nat) : Bool := decide (n < 8)

/-- A load channel, and a bank (R342). -/
def channelOk (c : Nat) : Bool := decide (c < 16)
def bankOk (k : Nat) : Bool := decide (k < 4)

/-- A contactor driver (R303). -/
def driverOk (d : Nat) : Bool := decide (d < 24)

/-- A monitored cell (R14). -/
def cellOk (c : Nat) : Bool := decide (c < 1280)

/-- A reference cycle of a frame (R22). -/
def cycleOk (c : Nat) : Bool := decide (c ≤ 1250)

/-- A Traverse node (R379). -/
def nodeOk (n : Nat) : Bool := decide (n < 64)

/-- A 16-bit number (R140). -/
def wordOk (n : Nat) : Bool := decide (n < 65536)

/-- A FAST value: steps of 4 within 2^14 (R158). -/
def fastOk (v : Int) : Bool := decide (v % 4 = 0) && decide (v.natAbs ≤ 16384)

/-- A well-formed command. -/
def Instr.wf : Instr → Bool
  | .nop _ p => payloadOk p
  | .objRead _ p => payloadOk p
  | .objWrite _ p => payloadOk p
  | .hostPortWrite _ data mask => writeOk data mask
  | .easementConfigWrite _ data mask => writeOk data mask
  | .safetyConfigWrite _ p => payloadOk p
  | .sealFieldWrite _ p => payloadOk p
  | .tariffWrite _ idx data mask => writeOk data mask && decide (idx < 65536)
  | .pulseConfigWrite _ idx data mask => writeOk data mask && decide (idx < 65536)
  | .energyConfigWrite _ idx data mask => writeOk data mask && decide (idx < 65536)
  | .calWrite _ idx data mask => writeOk data mask && decide (idx < 65536)
  | .billingConfigWrite _ data mask => writeOk data mask
  | .linkConfigWrite _ idx data mask => writeOk data mask && decide (idx < 65536)
  | .loadConfigWrite _ idx data mask => writeOk data mask && decide (idx < 65536)
  | .trvConfigWrite _ data mask => writeOk data mask
  | .displayConfigWrite _ data mask => writeOk data mask
  | .eventAcknowledgement _ _ code _ => wordOk code
  | .crcErrorPacket _ => true
  | .writeOverrun _ _ _ => true
  | .spiRead _ => true
  | .spiStatus => true
  | .uartGapDiscard _ => true
  | .eventResend _ => true
  | .roleChallenge _ p => payloadOk p
  | .roleOpen _ p => payloadOk p
  | .roleClose _ p => payloadOk p
  | .roleIdleTimeout => true
  | .roleLockoutEnd role => decide (1 ≤ role) && decide (role ≤ 4)
  | .roleKeySet _ p => payloadOk p
  | .reset _ p => payloadOk p
  | .modeSet _ p => payloadOk p
  | .recoveryAck _ p => payloadOk p
  | .commissioningDone _ p => payloadOk p
  | .powerOn _ => true
  | .powerFailWarning _ => true
  | .tailSave => true
  | .holdDropOut _ => true
  | .pfReturn => true
  | .railBor => true
  | .vauxReversed => true
  | .vauxSurgeOn => true
  | .vauxSurgeOff => true
  | .vbatCheck _ => true
  | .retentionLoss => true
  | .holdLowCheck _ _ => true
  | .resetNAssert => true
  | .resetNRelease => true
  | .stuckReset => true
  | .resetNRearm => true
  | .regionWatchdog region => decide (region < 6)
  | .appWatchdog => true
  | .resetTakesEffect => true
  | .resetRelease _ => true
  | .ready _ => true
  | .sessionHoldExpired => true
  | .frameTick m => m.bits.all (fun x => outletOk x.1 && decide (x.2.1 < 8))
  | .superframeTick _ => true
  | .cellErrorCorrected cell _ cycle => cellOk cell && cycleOk cycle
  | .cellUncorrectable cell _ _ cycle => cellOk cell && cycleOk cycle
  | .lockstepMismatch cell cycle => cellOk cell && cycleOk cycle
  | .clockMonitorFault region _ _ cycle => decide (region < 6) && cycleOk cycle
  | .supplyFault _ cycle => cycleOk cycle
  | .deadlineMiss job inst _ cycle => decide (1 ≤ job) && decide (job ≤ 12) && decide (inst < 8) && cycleOk cycle
  | .regionMergeWindowClose region _ key => decide (region < 6) && wordOk key
  | .chipWindowClose _ key => wordOk key
  | .closureOpenEnd _ => true
  | .deferFrameReached _ => true
  | .leaveLapse _ => true
  | .peakPhaseEnd _ => true
  | .easementOverrun _ => true
  | .modInputStuck outlet input => outletOk outlet && decide (input < 8)
  | .mclkReadbackFault outlet => outletOk outlet
  | .modInputValid outlet input => outletOk outlet && decide (input < 8)
  | .modPllLoss cycle => cycleOk cycle
  | .stepDetected outlet input place => outletOk outlet && decide (input < 8) && decide (place < 64)
  | .sync _ p => payloadOk p
  | .syncScheduled => true
  | .msyncEdge => true
  | .decimatorReset => true
  | .coefLoad _ p => payloadOk p
  | .pathSelect _ p => payloadOk p
  | .fadeDone outlet _ input => outletOk outlet && decide (input < 8)
  | .captureStart _ p => payloadOk p
  | .captureTrigger => true
  | .captureDone => true
  | .plumbStepBoundary => true
  | .plumbPeriodEnd => true
  | .toneWindowEnd outlet => outletOk outlet
  | .toneUnavailable outlet => outletOk outlet
  | .pulseEnd k => decide (k < 4)
  | .standingEnergy outlet => outletOk outlet
  | .meterWarnClear _ p => payloadOk p
  | .timeSet _ p => payloadOk p
  | .timeSetApply => true
  | .clockStep => true
  | .tariffAnnounce _ p => payloadOk p
  | .tariffBoundary => true
  | .calendarEntryExpiry entry => decide (entry < 64)
  | .demandWindowEnd => true
  | .demandEvaluation => true
  | .demandReset _ p => payloadOk p
  | .demandResetApply => true
  | .logRead _ p => payloadOk p
  | .logAck _ p => payloadOk p
  | .logRecordStore => true
  | .logPageProgram _ => true
  | .sealOpening => true
  | .debugAccessAttempt => true
  | .reseal _ p => payloadOk p
  | .pilotStateChange p => outletOk p.outlet
  | .ppChange outlet _ => outletOk outlet
  | .pwmLeaveRetry outlet => outletOk outlet
  | .cmSlacParmReq mac _ _ => decide (mac < 2 ^ 48)
  | .soundingReceived mac _ _ => decide (mac < 2 ^ 48)
  | .attenCollectionEnd mac _ => decide (mac < 2 ^ 48)
  | .cmSlacMatchReq mac _ => decide (mac < 2 ^ 48)
  | .cmValidateReq outlet mac => outletOk outlet && decide (mac < 2 ^ 48)
  | .vehicleJoin mac _ => decide (mac < 2 ^ 48)
  | .joinTimeout mac _ => decide (mac < 2 ^ 48)
  | .soundingSetTimeout mac _ => decide (mac < 2 ^ 48)
  | .associationWindowEnd outlet => outletOk outlet
  | .pilotRestartEnd outlet => outletOk outlet
  | .t1sLinkUp outlet mac => outletOk outlet && decide (mac < 2 ^ 48)
  | .t1sLinkLoss outlet => outletOk outlet
  | .supportedAppProtocolReq outlet _ => outletOk outlet
  | .authorizationReq outlet mac _ _ _ => outletOk outlet && decide (mac < 2 ^ 48)
  | .refuseHoldExpiry outlet => outletOk outlet
  | .authDeadlineExpiry outlet => outletOk outlet
  | .authDecide _ p => payloadOk p
  | .linkStop _ p => payloadOk p
  | .stopGraceExpiry outlet => outletOk outlet
  | .protocolTimerExpiry outlet => outletOk outlet
  | .seccCsr _ p => payloadOk p
  | .seccCertSet _ p => payloadOk p
  | .cableCheckReq outlet _ => outletOk outlet
  | .prechargeReq outlet _ => outletOk outlet
  | .powerDeliveryReq outlet _ => outletOk outlet
  | .currentDemandReq outlet _ => outletOk outlet
  | .pullInEnd driver => driverOk driver
  | .mirrorConfirmed driver _ => driverOk driver
  | .feedbackTimeout driver cycle => driverOk driver && cycleOk cycle
  | .driverFault driver _ cycle => driverOk driver && cycleOk cycle
  | .driverOffTimer driver => driverOk driver
  | .shortTestEnd outlet => outletOk outlet
  | .ccTimeout outlet => outletOk outlet
  | .contactorNotConducting outlet => outletOk outlet
  | .rampLate outlet => outletOk outlet
  | .rampForced outlet => outletOk outlet
  | .fastOvercurrent outlet v1 v2 => outletOk outlet && fastOk v1 && fastOk v2
  | .weldVoltageTestEnd outlet => outletOk outlet
  | .busJoin _ p => payloadOk p
  | .segmentVoltageMatched segment => decide (segment < 8)
  | .busRelease _ p => payloadOk p
  | .pmTargetTransmit bus => decide (bus < 2)
  | .pmStatusFrame module _ => decide (module < 16)
  | .pmFaultFrame module _ => decide (module < 16)
  | .pmLost module => decide (module < 16)
  | .safetyInputDemand input _ _ => decide (input < 8)
  | .safetyDemandEnd input _ _ => decide (input < 8)
  | .discrepancyTimeout input => decide (input < 8)
  | .inputTestPulse k _ => decide (k < 4)
  | .driverTestPulse driver _ cycle => driverOk driver && cycleOk cycle
  | .safetyReset _ p => payloadOk p
  | .startupTest _ p => payloadOk p
  | .startupTestTimeout => true
  | .weldClear _ p => payloadOk p
  | .auxContactor _ p => payloadOk p
  | .loadSet _ p => payloadOk p
  | .loadBankReset _ p => payloadOk p
  | .inrushWindowEnd ch => channelOk ch
  | .pwmPeriodBoundary bank => bankOk bank
  | .thermalShutdown ch _ _ => channelOk ch
  | .thermalLatchRelease ch _ => channelOk ch
  | .channelOverload ch _ _ => channelOk ch
  | .openLoadDetected ch => channelOk ch
  | .openLoadCleared ch => channelOk ch
  | .retryWaitEnd ch => channelOk ch
  | .retriesReset ch => channelOk ch
  | .bankUndervoltage bank _ => bankOk bank
  | .bankOvervoltage bank _ => bankOk bank
  | .bankGroundLoss bank _ => bankOk bank
  | .bankReverseSupply bank => bankOk bank
  | .bankOverload bank _ => bankOk bank
  | .bankHoldRelease bank _ _ _ => bankOk bank
  | .trvSend _ p => payloadOk p
  | .trvKeySet _ p => payloadOk p
  | .trvKeyUse _ p => payloadOk p
  | .trvKeySwitch => true
  | .datumEdge _ _ _ => true
  | .datumLoss => true
  | .beaconSlot _ => true
  | .beaconReceived _ => true
  | .lockTimeout => true
  | .contentionAccess _ => true
  | .trvFrameReceived _ => true
  | .selectiveAckReceived _ => true
  | .trvPacketReceived _ => true
  | .trvConfirmationTimeout _ => true
  | .routingAdvertisement => true
  | .routingWindowEnd => true
  | .neighbourUnusable node => nodeOk node
  | .noRouteDrop _ => true
  | .trvGrantRetry => true
  | .pollCycle _ => true
  | .readerRoundEnd _ => true
  | .cardHoldTimeout => true
  | .cardApdu _ p => payloadOk p
  | .cardApduDone _ _ => true
  | .wtagSelect _ => true
  | .wtagReadBinary _ _ => true
  | .getLiveStatus _ _ => true
  | .appendNote _ _ _ _ => true
  | .visitNoteImport => true
  | .totalsSnapshot _ => true
  | .displayWrite _ p => payloadOk p
  | .displayUpdate _ p => payloadOk p
  | .displayLight _ p => payloadOk p
  | .wfLoad _ p => payloadOk p
  | .scanStart _ _ => true
  | .waveformEnd _ => true
  | .railStartDone => true
  | .railFeedbackTimeout _ => true
  | .railRetry => true
  | .railFallStart => true
  | .panelTempReading _ => true
  | .crackCheck _ _ => true
  | .displayRequestRetry _ => true
  | .aonRefresh => true
  | .benchmarkTotalsRedraw => true
  | .updateStart _ p => payloadOk p
  | .stagingSlotReady => true
  | .updateData _ p => payloadOk p
  | .updateAbort _ p => payloadOk p
  | .imageActivate _ p => payloadOk p
  | .activationCopyDone _ => true
  | .confirmImage _ p => payloadOk p
  | .chainOffer src origin header nodes position => nodeOk src && nodeOk origin && decide (header.length = 512) && nodes.all nodeOk && decide (position < 64)
  | .chainAnswer src _ _ _ => nodeOk src
  | .chainBlock src _ _ half _ _ => nodeOk src && decide (half < 2)
  | .chainBlockAck src _ _ => nodeOk src
  | .chainProgress src _ _ _ => nodeOk src
  | .chainProgressSend => true
  | .chainReroute src _ _ position => nodeOk src && decide (position < 64)
  | .chainAbort src _ => nodeOk src
  | .chainDone src _ _ => nodeOk src
  | .chainReceiverSilent => true
  | .chainStall => true
  | .updateProgress => true
  | .reclaimStart _ => true
  | .reclaimStepDone _ => true
  | .uartPacketSend _ => true
  | .resetDelayEnd => true
  | .unknownOpcodeCommand _ opcode p => wordOk opcode && payloadOk p
  | .loadLeaveRetry ch => channelOk ch
  | .readerLeaveRenew => true
  | .selectiveAckMissing dst _ => nodeOk dst
  | .v2gRequest outlet _ => outletOk outlet
  | .wtagFieldChange _ _ => true
  | .railFallDone => true
  | .nandBlockRefresh partition _ _ => decide (partition < 5)

end Sys2Proof
end

