-- ==== Sys2Proof/Tests/Slice0.lean ====
section
/-!
SUPPORT. Small tests of the model, and for each statement with hypotheses a concrete state and operands that meet them.
-/

namespace Sys2Proof.Tests

open Sys2Proof Sys2Proof.Machine Sys2Proof.Safety

set_option Elab.async false
set_option linter.all false

/-! States for the tests. -/

/-- A device that runs in STANDBY for an INSTALLER: eight outlets, SPI. -/
def up : State :=
  { State.reset with
    clock := { State.reset.clock with tick := 40000000, legal := 40000000, valid := true },
    rst := { State.reset.rst with phase := .running, asserted := [], straps := 0x3B },
    power := { State.reset.power with supply := .on, rails := true },
    roles := { State.reset.roles with role := 2 } }

/-- A header of a command, and of one in its expert form. -/
def h0 : Hdr := ⟨1, 0⟩
def hx : Hdr := ⟨1, 4⟩

/-- A role, a mode, a tick. -/
def asRole (r : Nat) (s : State) : State := { s with roles := { s.roles with role := r } }
def inMode (m : Mode) (s : State) : State := { s with modes := { s.modes with mode := m } }

/-- A session on outlet n. -/
def withSession (n : Nat) (s : State) : State :=
  { s with billing := { s.billing with sessions := vset s.billing.sessions n (some {}) } }

/-- Modules 0 and 15 enabled, on the segments of outlets 0 and 1, healthy. -/
def pmUp : State :=
  updPm 15 (fun x => { x with health := 1 }) (updPm 0 (fun x => { x with health := 1 })
    { up with sw := { up.sw with pmMap := vset (vset up.sw.pmMap 0 (1 + 100 * 2 ^ 16)) 15 (1 + 2 ^ 8 + 100 * 2 ^ 16) } })

/-- Inputs 0 and 7 are emergency stops of outlet 0 with a test output each. -/
def inUp : State :=
  { up with
    clock := { up.clock with legal := 40000000 },
    sw := { up.sw with inputConfig := vset (vset up.sw.inputConfig 0 (1 + 2 ^ 7 + 2 ^ 32)) 7 (1 + 2 ^ 7 + 2 ^ 32 + 2 ^ 40) } }

/-- Driver 23 is an auxiliary output. -/
def auxUp : State := { up with sw := { up.sw with kdrv := vset up.sw.kdrv 23 1 } }

/-- One part of a state rewritten. -/
def wClock (f : Clock → Clock) (s : State) : State := { s with clock := f s.clock }
def wPower (f : Power → Power) (s : State) : State := { s with power := f s.power }
def wRst (f : Reset → Reset) (s : State) : State := { s with rst := f s.rst }
def wModes (f : ModeSt → ModeSt) (s : State) : State := { s with modes := f s.modes }
def wPort (f : Port → Port) (s : State) : State := { s with port := f s.port }
def wRoles (f : RoleSt → RoleSt) (s : State) : State := { s with roles := f s.roles }
def wFaults (f : Faults → Faults) (s : State) : State := { s with faults := f s.faults }
def wEase (f : Ease → Ease) (s : State) : State := { s with ease := f s.ease }
def wFe (f : FrontEnd → FrontEnd) (s : State) : State := { s with fe := f s.fe }
def wEnergy (f : Energy → Energy) (s : State) : State := { s with energy := f s.energy }
def wBilling (f : Billing → Billing) (s : State) : State := { s with billing := f s.billing }
def wSeals (f : Seal → Seal) (s : State) : State := { s with seals := f s.seals }
def wLog (f : Log → Log) (s : State) : State := { s with log := f s.log }
def wLink (f : Link → Link) (s : State) : State := { s with link := f s.link }
def wSw (f : Switch → Switch) (s : State) : State := { s with sw := f s.sw }
def wTrv (f : Traverse → Traverse) (s : State) : State := { s with trv := f s.trv }
def wRdr (f : Reader → Reader) (s : State) : State := { s with rdr := f s.rdr }
def wTag (f : Tag → Tag) (s : State) : State := { s with tag := f s.tag }
def wDisp (f : Display → Display) (s : State) : State := { s with disp := f s.disp }
def wChain (f : Chain → Chain) (s : State) : State := { s with chain := f s.chain }
def wStore (f : Storage → Storage) (s : State) : State := { s with store := f s.store }

/-- The device on its UART. -/
def uart : State := wRst (fun x => { x with straps := 0x1B }) up

/-- A device that is provisioned and proven. -/
def ready : State :=
  { up with
    roles := { up.roles with keys := #v[1, 2, 3, 4] }
    sw := { up.sw with proofHash := some (configHash up) } }

/-- Outlets 0 and 7 plugged, their pilots in state B. -/
def plugged : State := updLk 7 (fun x => { x with pp := 1, pilot := 1, drive := 0 }) (updLk 0 (fun x => { x with pp := 1, pilot := 1, drive := 0 }) up)

/-- Outlet 7 has a link in phase p. -/
def linked (p : Nat) : State := updLk 7 (fun x => { x with phase := p, evMac := 5 }) plugged

/-- Outlet 7 runs the T1S profile. -/
def t1s (s : State) : State := { s with link := { s.link with config := vset s.link.config 7 3 } }

/-- A sounding set of outlet 7 at a stage. -/
def sounding (k : Nat) : SoundSet := { mac := 5, run := 9, cand := 7, last := 39960000, stage := k }
def sounded (k : Nat) : State := wLink (fun x => { x with sets := [sounding k] }) (updLk 7 (fun y => { y with windowOpen := true }) (linked 2))

/-- A device that accepts sessions: provisioned, proven, with a tariff in force. -/
def trading : State :=
  { plugged with
    roles := { up.roles with keys := #v[1, 2, 3, 4] }
    sw := { up.sw with proofHash := some (configHash up) }
    billing := { up.billing with active := 0 }
    seals := { up.seals with cal := vset up.seals.cal 7 (1 + 2 ^ 64) }
    energy := { up.energy with config := vset up.energy.config 7 200 } }

/-- An authorization request of outlet 7. -/
def asking : AuthReq := { number := 4, outlet := 7, deadline := 40000000 }

/-- The link transmits: node 3 of site 9, a key in slot 0, node 5 a usable neighbour, a route to it. -/
def meshed : State :=
  { up with
    trv := { up.trv with config := 0x80000A000000000000 + 3 + 9 * 2 ^ 8, running := true, transmit := true,
                         keys := #v[{ key := 1 }, {}],
                         neigh := vset up.trv.neigh 5 { usable := true, heardAt := some 39999000 },
                         routes := vset up.trv.routes 5 { next := 5, hops := 1, cost := 100 } } }

/-- The same node as the master. -/
def master : State := wTrv (fun x => { x with config := x.config + 2 ^ 24 }) meshed

/-- A packet for node 5, and its transmission. -/
def pkt : TrvPkt := { final := 5, counter := 6, tag := 2, payload := [1] }
def sending (n : Nat) (w : Bool) : TrvTx :=
  { dst := 5, seq := 7, pkt := pkt, segs := [0, 1], frame := [0, 1], sends := Vector.replicate 16 n, segsTotal := 2, waiting := w }

/-- The contention region of node 5's beacon period is under way. -/
def talking : State := { meshed with trv := { meshed.trv with beaconAt := some 39999900, placeAt := some 39999900 } }

/-- Outlet 0 may deliver: a session, insulation measured, inputs 0 and 1 valid. -/
def delivering : State :=
  { withSession 0 up with sw := { up.sw with plumb := vset up.sw.plumb 0 1 } }

/-- Frame control of frames from node 5 of site 9: of a data frame to node 3, of a beacon, of an acknowledgement with both segments, of one with
none. -/
def dataFc : List Byte := [1, 0, 9, 0, 5, 3, 1, 4, 48, 0, 1, 0, 0, 0, 0, 0, 96, 209, 142, 116]
def beaconFc : List Byte := [0, 1, 9, 0, 5, 255, 0, 4, 48, 0, 1, 0, 0, 0, 0, 0, 84, 79, 57, 162]
def ackFc : List Byte := [2, 0, 9, 0, 5, 3, 0, 7, 0, 0, 0, 30, 3, 0, 0, 0, 184, 67, 201, 107]
def nackFc : List Byte := [2, 0, 9, 0, 5, 3, 0, 7, 0, 0, 0, 30, 0, 0, 0, 0, 129, 202, 235, 9]

/-- Packets from node 5, serial 77, counter 8, under key 1: to node 3, the same with a confirmation asked for, to node 6 with hops left; and two short
beacons of nodes 3 and 5. -/
def heard3 : List Byte := [1, 0, 5, 3, 7, 0, 2, 0, 77] ++ List.replicate 7 0 ++ [8] ++ List.replicate 7 0 ++ [100, 50, 209, 254, 178, 14, 235, 208, 228, 29]
def heard3c : List Byte := [1, 0, 5, 3, 7, 1, 2, 0, 77] ++ List.replicate 7 0 ++ [8] ++ List.replicate 7 0 ++ [100, 50, 43, 169, 76, 132, 54, 244, 137, 191]
def heard6 (hop : Byte) : List Byte :=
  [1, 0, 5, 6, hop, 0, 2, 0, 77] ++ List.replicate 7 0 ++ [8] ++ List.replicate 7 0 ++ [100, 50, 57, 66, 39, 30, 207, 19, 200, 221]
def beacon3 : List Byte := [1, 2, 5, 255, 0, 0, 2, 0, 77] ++ List.replicate 7 0 ++ [8] ++ List.replicate 7 0 ++ [102, 49, 88, 59, 23, 43, 128, 249, 180, 252]
def beacon5 : List Byte := [1, 2, 5, 255, 0, 0, 2, 0, 77] ++ List.replicate 7 0 ++ [8] ++ List.replicate 7 0 ++ [96, 49, 231, 135, 223, 78, 231, 66, 53, 173]
def beacon (p : List Byte) : BeaconIn := { fc := beaconFc, block := p, arrFrame := 5, arrCycle := 6 }

/-- A packet that names key slot 1. -/
def setSlot1 (p : List Byte) : List Byte := 17 :: p.drop 1

/-- A staged image of four blocks. -/
def header : List Byte := [0x48, 0x58, 0x49, 0x4D] ++ le 2 1 ++ le 2 1 ++ le 4 1 ++ le 4 0 ++ le 4 4 ++ le 16 99 ++ List.replicate 460 0 ++
  [186, 245, 2, 154, 88, 12, 225, 83, 233, 102, 72, 206, 96, 254, 232, 246]

/-- The node stages an image: from its host, or from node 5 as node 6 started it. -/
def staging (host : Bool) : State :=
  { meshed with
    chain := { up.chain with staging := 1, ready := true, byHost := host, origin := 6, upstream := 5, next := some (5, 2), position := 1, list := [5],
                             entries := [{ node := 3 }, { node := 5 }] }
    store := { up.store with stagingSlot := { header := header } } }

/-! The premises of a command that reaches its checks, as one Boolean. -/

def reaches (h : Hdr) (op : Nat) (p : List Byte) (s : State) : Bool :=
  s.portRuns && decide (s.port.awaiting.length < 8) && decide (p.length ≤ 4096) &&
    (s.port.kept.find? (fun k => k.seq == h.seq && k.crc == commandCrc h op p)).isNone && !s.inRom && !s.shutting && commandFlags h.flags

theorem accepted_of {h : Hdr} {op : Nat} {p : List Byte} {s : State} (b : (reaches h op p s && !flagExpert h.flags) = true) :
    Accepted h op p s := by
  simp only [reaches, Bool.and_eq_true, decide_eq_true_eq, Bool.not_eq_true', Option.isNone_iff_eq_none] at b
  obtain ⟨⟨⟨⟨⟨⟨⟨h1, h2⟩, h3⟩, h4⟩, h5⟩, h6⟩, h7⟩, h8⟩ := b
  exact ⟨h1, h2, h3, h4, fun hr => by simp [h5] at hr, h6, h7, h8⟩

theorem acceptedExpert_of {h : Hdr} {op : Nat} {p : List Byte} {s : State}
    (b : (reaches h op p s && flagExpert h.flags && decide (2 ≤ s.roles.role)) = true) : AcceptedExpert h op p s := by
  simp only [reaches, Bool.and_eq_true, decide_eq_true_eq, Bool.not_eq_true', Option.isNone_iff_eq_none] at b
  obtain ⟨⟨⟨⟨⟨⟨⟨⟨h1, h2⟩, h3⟩, h4⟩, h5⟩, h6⟩, h7⟩, h8⟩, h9⟩ := b
  exact ⟨h1, h2, h3, h4, fun hr => by simp [h5] at hr, h6, h7, h8, h9⟩

/-! What a meaning answers. -/

def goesOn : Host.Outcome State Fault Refusal → Bool
  | .next _ => true
  | _ => false

def nextOf : Host.Outcome State Fault Refusal → State
  | .next t => t
  | _ => {}

theorem next_of {o : Host.Outcome State Fault Refusal} (h : goesOn o = true) : o = .next (nextOf o) := by
  cases o <;> simp_all [goesOn, nextOf]

/-! Note slots of a witness store. -/

theorem noteValid_blank {s : State} {k : Nat} (h : ∀ i, Memory.read 0 s.tag.store (noteAt k + i) = 0) : noteValid s k = false := by
  have e : storeBytes s (noteAt k) 512 = List.replicate 512 0 := by
    simp only [storeBytes, Memory.range, h]
    exact List.eq_replicate_iff.mpr ⟨by rw [List.length_map, List.length_range], fun b hb => by obtain ⟨_, _, rfl⟩ := List.mem_map.mp hb; rfl⟩
  unfold noteValid
  rw [e]
  decide +kernel

theorem chooseSlot_blank {s : State} (h : ∀ k, noteValid s k = false) : chooseSlot s = some 0 := by
  have e : newestNote s = none := by
    have f : (List.range 64).filter (noteValid s) = [] := List.filter_eq_nil_iff.mpr (fun k _ => by simp [h k])
    simp only [newestNote, f, List.foldl_nil]
  have z : noteFree s 0 = true := by simp [noteFree, h 0]
  unfold chooseSlot
  rw [e]
  exact List.find?_cons_of_pos z

theorem nextImport_first {s : State} (h : noteValid s 0 = true) (m : importedMask s = 0) (g : ∀ k, noteValid s (k + 1) = false) :
    nextImport s = some 0 := by
  have e : (List.range 64).filter (fun k => noteValid s k && !bit (importedMask s) k) = [0] := by
    rw [show List.range 64 = 0 :: (List.range 63).map (· + 1) from rfl, List.filter_cons_of_pos (by rw [m, h]; decide),
      List.filter_eq_nil_iff.mpr]
    intro x hx
    obtain ⟨y, _, rfl⟩ := List.mem_map.mp hx
    simp [g y]
  unfold nextImport
  rw [e]
  rfl
/-! Ill-formed commands: one for each check of well-formedness, refused. -/

theorem test_wf_payload : (Instr.nop h0 (List.replicate 4097 0)).wf = false := by decide +kernel
theorem test_wf_mask : (Instr.tariffWrite h0 0 [1] []).wf = false := by decide
theorem test_wf_write : (Instr.hostPortWrite h0 (List.replicate 2047 0) (List.replicate 2047 0)).wf = false := by decide +kernel
theorem test_wf_index : (Instr.calWrite h0 65536 [] []).wf = false := by decide
theorem test_wf_outlet : (Instr.stopGraceExpiry 8).wf = false := by decide
theorem test_wf_channel : (Instr.retryWaitEnd 16).wf = false := by decide
theorem test_wf_bank : (Instr.bankReverseSupply 4).wf = false := by decide
theorem test_wf_driver : (Instr.pullInEnd 24).wf = false := by decide
theorem test_wf_cell : (Instr.lockstepMismatch 1280 0).wf = false := by decide
theorem test_wf_frame : (Instr.frameTick { bits := [(0, 8, 0)] }).wf = false := by decide
theorem test_wf_pilot : (Instr.pilotStateChange { outlet := 8, positive := true, samples := [0] }).wf = false := by decide
theorem test_wf_cycle : (Instr.supplyFault 0 1251).wf = false := by decide
theorem test_wf_node : (Instr.neighbourUnusable 64).wf = false := by decide
theorem test_wf_word : (Instr.chipWindowClose 0 65536).wf = false := by decide
theorem test_wf_input : (Instr.modInputStuck 0 8).wf = false := by decide
theorem test_wf_region : (Instr.regionWatchdog 6).wf = false := by decide
theorem test_wf_role : (Instr.roleLockoutEnd 0).wf = false := by decide
theorem test_wf_role_high : (Instr.roleLockoutEnd 5).wf = false := by decide
theorem test_wf_job : (Instr.deadlineMiss 13 0 0 0).wf = false := by decide
theorem test_wf_job_zero : (Instr.deadlineMiss 0 0 0 0).wf = false := by decide
theorem test_wf_instance : (Instr.deadlineMiss 3 8 0 0).wf = false := by decide
theorem test_wf_pulse : (Instr.pulseEnd 4).wf = false := by decide
theorem test_wf_entry : (Instr.calendarEntryExpiry 64).wf = false := by decide
theorem test_wf_mac : (Instr.vehicleJoin (2 ^ 48) 0).wf = false := by decide
theorem test_wf_segment : (Instr.segmentVoltageMatched 8).wf = false := by decide
theorem test_wf_bus : (Instr.pmTargetTransmit 2).wf = false := by decide
theorem test_wf_module : (Instr.pmLost 16).wf = false := by decide
theorem test_wf_safety_input : (Instr.discrepancyTimeout 8).wf = false := by decide
theorem test_wf_header : (Instr.chainOffer 0 0 [] [] 0).wf = false := by decide
theorem test_wf_position : (Instr.chainReroute 0 0 0 64).wf = false := by decide
theorem test_wf_half : (Instr.chainBlock 0 0 0 2 [] []).wf = false := by decide
theorem test_wf_partition : (Instr.nandBlockRefresh 5 0 false).wf = false := by decide
theorem test_wf_ok : (Instr.nop h0 [1]).wf = true := by decide

/-! Single steps. -/

/-- The check value of CRC-32C over the nine digits. -/
theorem test_crc : crc32c [49, 50, 51, 52, 53, 54, 55, 56, 57] = 0xE3069283 := by decide +kernel

/-- SHA-256 of "abc", the first example of FIPS 180-4. -/
theorem test_sha : sha256 [97, 98, 99] = [186, 120, 22, 191, 143, 1, 207, 234, 65, 65, 64, 222, 93, 174, 34, 35, 176, 3, 97, 163,
    150, 23, 122, 156, 180, 16, 255, 97, 242, 0, 21, 173] := by decide +kernel

/-- HMAC-SHA-256, test case 2 of RFC 4231. -/
theorem test_hmac : hmac [74, 101, 102, 101]
    [119, 104, 97, 116, 32, 100, 111, 32, 121, 97, 32, 119, 97, 110, 116, 32, 102, 111, 114, 32, 110, 111, 116, 104, 105, 110, 103,
    63] =
    [91, 220, 193, 70, 191, 96, 117, 78, 106, 4, 36, 38, 8, 149, 117, 199, 90, 0, 63, 8, 157, 39, 57, 131, 157, 236, 88, 185, 100,
    236, 56, 67] := by decide +kernel

/-- AES-128, appendix C.1 of FIPS 197. -/
theorem test_aes : aes128 (le 16 0x0F0E0D0C0B0A09080706050403020100) (le 16 0xFFEEDDCCBBAA99887766554433221100) =
    le 16 0x5AC5B47080B7CDD830047B6AD8E0C469 := by decide +kernel

/-- AES-CCM, packet vector 1 of RFC 3610. -/
theorem test_ccm : aesCcm (le 16 0xCFCECDCCCBCAC9C8C7C6C5C4C3C2C1C0) (le 13 0xA5A4A3A2A1A000010203000000) (le 8 0x0706050403020100)
    (le 23 0x1E1D1C1B1A191817161514131211100F0E0D0C0B0A0908) =
    le 31 0xE026F9FD2CD1E81784C3DA616B5F6D8089F9C0C2D066F0D263C6619A978C58 := by decide +kernel

/-- R454: the node that REROUTE passes over goes to the end of the list; the last node is given it. -/
theorem test_rerouted_list : reroutedList (some (2, 2)) 3 [1, 2, 3, 4] = [1, 3, 4, 2] ∧ reroutedList none 2 [1, 2, 3, 4] = [1, 3, 4, 2] := by
  decide

/-- SHA-384 of "abc", the first example of FIPS 180-4. -/
theorem test_sha384 : beNat (sha384 [97, 98, 99]) =
    0xCB00753F45A35E8BB5A03D699AC65007272C32AB0EDED1631A8B605A43FF5BED8086072BA1E7CC2358BAECA134C825A7 := by decide +kernel

/-- AES-256-GCM, the tag of test case 14 of the GCM specification. -/
theorem test_gcm : beNat (gcmTag (List.replicate 32 0) (List.replicate 12 0) []
    (gcmStream (List.replicate 32 0) (List.replicate 12 0) (List.replicate 16 0))) = 0xD0D1C8A799996BF0265B98B5D48AB919 := by
  decide +kernel

/-- ECDSA over P-256 with SHA-256 of "sample", appendix A.2.5 of RFC 6979. -/
theorem test_ecdsa256 : beNat (le 64 (ecdsa256 0xC9AFA9D845BA75166B5C215767B1D6934E50C3DB36E89B127B8A622B120F6721
    [115, 97, 109, 112, 108, 101]).toNat) =
    0xEFD48B2AACB6A8FD1140DD9CD45E81D69D2C877B56AAF991C34D0EA84EAF3716F7CB1C942D657C41D436C7A1B6E29F65F3E900DBB9AFF4064DC4AB2F843ACDA8 := by
  decide +kernel

/-- ECDSA over P-384 with SHA-384 of "sample", appendix A.2.6 of RFC 6979. -/
theorem test_ecdsa384 : ecdsa384Ok (publicKey p384
      0x6B9D3DAD2E1B8C1C05B19875B6659F4DE23C3B667BF297BA9AA47740787137D896D5724E4C70A825F872C9EA60D2EDF5)
    [115, 97, 109, 112, 108, 101]
    0x94EDBB92A5ECB8AAD4736E56C691916B3F88140666CE9FA73D64C4EA95AD133C81A648152E44ACF96E36DD1E80FABE46
    0x99EF4AEB15F178CEA1FE40DB2603138F130E740A19624526203B6351D0A3A94FA329C145786E679E7B82C71A38628AC8 = true := by decide +kernel

/-- NOP answers OK with its payload (R140). -/
theorem test_nop : (nextOf (Machine.exec (.nop h0 [1, 2]) up)).port.replies = [{ seq := 1, flags := 1, opcode := 0x0100, payload := [1, 2] }] := by
  decide +kernel

/-- The front command runs, and only it leaves the queue. -/
theorem test_step : (nextOf (step { uart with pending := [.uartGapDiscard [], .spiStatus] })).pending = [.spiStatus] := by decide +kernel

/-- A frame is counted (R21). -/
theorem test_frame : (nextOf (Machine.exec (.frameTick {}) up)).clock.tick = 40000001 := by decide +kernel

/-- Nothing but power-up and its boot runs at reset. -/
theorem test_reset_silent : (nextOf (Machine.exec (.nop h0 []) State.reset)).port = State.reset.port := by decide +kernel

/-- The straps are the majority of three samples, and a disagreement is marked (R58, Table 2-13). -/
theorem test_boot : sampledStraps false { strapA := 0x3B, strapB := 0x3B, strapC := 0x3F } = 0xBB := by decide +kernel

/-- An unlocked device strapped for it goes into factory test (R61). -/
theorem test_factory :
    (nextOf (Machine.exec (.resetRelease { strapA := 0, strapB := 0, strapC := 0x3F }) State.reset)).rst.phase = .factory := by decide +kernel

/-- A stream of 1 bits alone gives the FAST value of full scale from the third value on, one of 0 bits its opposite (R158, R164). -/
def ones (k : Nat) : Cell := (List.range k).foldl (fun c j => (fastOut (feed (BitVec.allOnes 1024) j c)).1) {}
def zeros (k : Nat) : Cell := (List.range k).foldl (fun c j => (fastOut (feed 0 j c)).1) {}
theorem test_fast_high : (fastOut (feed (BitVec.allOnes 1024) 3 (ones 3))).2 = 16384 := by decide +kernel
theorem test_fast_low : (fastOut (feed 0 3 (zeros 3))).2 = -16384 := by decide +kernel

/-- A permit not given shows a weak pull-up once the rails are up, and high impedance before (R55). -/
theorem test_pad_up : permitPad up 7 = .pullUp := by decide +kernel
theorem test_pad_off : permitPad State.reset 7 = .highZ := by decide +kernel

/-- Severities of Table 15-2: STORAGE_FAULT by its kind; a number that is no event has none (R462). -/
theorem test_severity : ([0, 2].map (fun k => severity 0x0B26 [k]), severity 0x0C7F []) = ([some 3, some 4], none) := by decide

/-- Pilot states at the edges of Table 8-3. -/
theorem test_pilot : [13000, 11000, 10999, 8000, 7999, 5000, 2000, -1000, -1001].map pilotBand =
    [some 0, some 0, none, some 1, none, some 2, some 3, some 4, none] := by decide

/-- A die above 120 degrees stays hot down to 110 (R74). -/
theorem test_die : (nextOf (Machine.exec (.superframeTick { dieTemp := 1150 }) (wPower (fun x => { x with dieHot := true }) up))).power.dieHot = true := by
  decide +kernel

/-- A load channel is switched on within its settings and waits for its leave (R344). -/
theorem test_load : (chn (nextOf (Machine.exec (.loadSet h0 ([0x0F, 1] ++ le 2 0 ++ [0])) up)) 15).state ≠ 3 := by decide +kernel

/-- Every mirror that stays off while its driver is on cuts the driver at once: step 1 of Table 9-6. -/
theorem test_shutdown : (nextOf (Machine.exec (.powerFailWarning 16299) up)).sw.permit = 0 := by decide +kernel

/-- A meter warning is cleared by a VERIFIER alone (R221). -/
theorem test_warn : ((nextOf (Machine.exec (.meterWarnClear h0 [0, 1, 0]) up)).port.replies.map (·.status)) = [.denied] := by decide +kernel

/-- SPI READ drives the reply and zeros after it. -/
theorem test_spi : ((nextOf (Machine.exec (.spiRead 5) up)).port.out) = [0, 0, 0, 0, 0] := by decide +kernel

/-- A witness read past the last block is refused (Table 12-3). -/
theorem test_tag : (nextOf (Machine.exec (.wtagReadBinary 1024 1) (wTag (fun x => { x with field := true, selected := true }) up))).tag.response =
    [0x6A, 0x86] := by decide +kernel

/-- R395, the worked example: card P, whose last bit is 1, is found before card Q. -/
theorem test_anticollision :
    ([[4, 0xA3, 0x91, 0x46], [4, 0xA3, 0x91, 0xC6]].map (fun u => (⟨1, u, 0, false, 0⟩ : Card)) |> cardsFound 1).map (·.ident) =
      [[4, 0xA3, 0x91, 0xC6], [4, 0xA3, 0x91, 0x46]] := by decide +kernel

/-- A panel reading at the edge of its range is taken, one above it is none (R414). -/
theorem test_panel : (nextOf (Machine.exec (.panelTempReading 851) up)).disp.tempFault = true := by decide +kernel

/-- An update is aborted whole (R445). -/
theorem test_abort : (nextOf (Machine.exec (.updateAbort h0 []) (staging true))).store.stagingSlot = {} := by decide +kernel

/-! Statements with hypotheses. -/

/-- The hypotheses of O2 are met. -/
theorem witness_EmptyQueueIdles :
    ∃ (s : State), s.pending = [] :=
  ⟨up, by decide +kernel⟩

/-- The hypothesis of O3 is met: a command that goes on. -/
theorem witness_EffectsSpareQueueAndIdentity :
    ∃ (c : Instr) (s t : State), Machine.exec c s = .next t ∧ s.factory.variant = .hx4 :=
  ⟨.uartGapDiscard [], { uart with factory := { uart.factory with variant := .hx4 } }, _, next_of (by decide +kernel), by decide +kernel⟩

/-- A canonical state from which a step goes on. -/
theorem witness_StepsKeepBuffersCanonical : ∃ s t : State, BuffersCanonical s ∧ StepsTo s t :=
  ⟨{ uart with pending := [.uartGapDiscard []] }, _, ⟨by decide +kernel, by decide +kernel, by decide +kernel⟩, next_of (by decide +kernel)⟩

/-- A run of one step. -/
theorem witness_CountersNeverFall : ∃ s t : State, Reach s t ∧ s.pending ≠ t.pending ∧ s.rst.debugLocked = true :=
  let s : State := wRst (fun x => { x with debugLocked := true }) { uart with pending := [.uartGapDiscard []] }
  ⟨s, nextOf (step s), .more s _ .here (next_of (by decide +kernel)), by decide +kernel, by decide +kernel⟩

/-- A RESEAL that clears SEAL_BROKEN. -/
theorem witness_OnlyResealClearsBrokenSeal :
    ∃ (c : Instr) (s t : State), Machine.exec c s = .next t ∧ s.seals.broken = true ∧ t.seals.broken = false :=
  ⟨.reseal h0 [], inMode .commissioning (asRole 3 (wSeals (fun x => { x with loopIntact := true, broken := true, intactAt := 39980000 }) up)),
   _, next_of (by decide +kernel), by decide +kernel, by decide +kernel⟩

/-- The hypotheses of O9 are met. -/
theorem witness_NopEchoes :
    ∃ (h : Hdr) (p : List Byte) (s : State), Accepted h 0x0100 p s :=
  ⟨h0, [1, 2, 3], up, accepted_of (by decide +kernel)⟩

/-- The hypotheses of O10 are met: SYNC_STATE is read by an INSTALLER. -/
theorem witness_ReadAnswersObject :
    ∃ (h : Hdr) (n i : Nat) (s : State) (o : ObjRead), Accepted h 0x0102 (le 2 n ++ le 2 i) s ∧ n < 2 ^ 16 ∧ i < 2 ^ 16 ∧
      readObject (touchRole s) n = some o ∧ o.role ≤ s.roles.role ∧ o.has i = true := by
  have e : (readObject (touchRole up) 0x0202).any (fun o => decide (o.role ≤ up.roles.role) && o.has 0) = true := by decide +kernel
  obtain ⟨o, ho, hb⟩ := (Option.any_eq_true _ _).mp e
  simp only [Bool.and_eq_true, decide_eq_true_eq] at hb
  exact ⟨h0, 0x0202, 0, up, o, accepted_of (by decide +kernel), by decide, by decide, ho, hb.1, hb.2⟩

/-- The hypotheses of O11 are met. -/
theorem witness_RetransmissionNotExecuted :
    ∃ (h : Hdr) (opcode : Nat) (p : List Byte) (s : State) (k : Kept), s.portRuns = true ∧ s.port.awaiting.length < 8 ∧ p.length ≤ 4096
      ∧ isAck h.flags = false ∧ s.port.kept.find? (fun k => k.seq == h.seq && k.crc == commandCrc h opcode p) = some k :=
  ⟨h0, 0x0100, [7], wPort (fun x => { x with kept := [⟨1, commandCrc h0 0x0100 [7], {}⟩] }) up, ⟨1, commandCrc h0 0x0100 [7], {}⟩,
    by and_intros <;> decide +kernel⟩

/-- The hypotheses of O12 are met. -/
theorem witness_ChecksInOrder :
    (∃ (h : Hdr) (opcode : Nat) (p : List Byte) (s : State), s.portRuns = true ∧ s.port.awaiting.length < 8 ∧ p.length ≤ 4096 ∧ s.inRom
      = false ∧ isAck h.flags = false ∧ s.port.kept.find? (fun k => k.seq == h.seq && k.crc == commandCrc h opcode p) = none) ∧
    (∃ (h : Hdr) (opcode : Nat) (p : List Byte) (s : State), s.portRuns = true ∧ s.port.awaiting.length < 8 ∧ p.length ≤ 4096 ∧ isAck
      h.flags = false ∧ opcode < 65536 ∧ commandOpcodes.contains opcode = false ∧ s.port.kept.find? (fun k => k.seq == h.seq && k.crc ==
      commandCrc h opcode p) = none) :=
  ⟨⟨h0, 0x0100, [], up, by and_intros <;> decide +kernel⟩,
   ⟨h0, 0xFFFF, [], up, by and_intros <;> decide +kernel⟩⟩

/-- The hypotheses of O13 are met. -/
theorem witness_BadPacketsAnswered :
    (∃ (h : Hdr) (opcode : Nat) (p : List Byte) (s : State), Accepted h opcode p s ∧ opcode < 65536 ∧ commandOpcodes.contains opcode =
      false) ∧
    (∃ (s : State), s.portRuns = true ∧ s.port.awaiting.length < 8) :=
  ⟨⟨h0, 0xFFFF, [], up, accepted_of (by decide +kernel), by decide +kernel, by decide +kernel⟩,
   ⟨up, by decide +kernel, by decide +kernel⟩⟩

/-- The hypotheses of O14 are met. -/
theorem witness_LostPacketsCounted :
    (∃ (sync : Byte) (len : Nat) (received : Nat) (s : State), s.portRuns = true ∧ s.port.awaiting.length < 8 ∧ bit s.rst.straps 5 =
      true ∧ (sync ≠ 0x7E ∨ len < 4 ∨ 4100 < len ∨ received < len + 7)) ∧
    (∃ (s : State), s.portRuns = true ∧ 8 ≤ s.port.awaiting.length) ∧
    (∃ (s : State), s.portRuns = true) ∧
    (∃ (s : State), s.portRuns = true ∧ bit s.rst.straps 5 = false) :=
  ⟨⟨0x7F, 4, 11, up, by and_intros <;> decide +kernel⟩,
   ⟨wPort (fun x => { x with awaiting := List.replicate 8 {} }) up, by decide +kernel, by decide +kernel⟩,
   ⟨up, by decide +kernel⟩,
   ⟨uart, by decide +kernel, by decide +kernel⟩⟩

/-- The hypotheses of O15 are met. -/
theorem witness_OldestReplyDelivered :
    (∃ (clocked : Nat) (s : State) (r : Reply) (rest : List Reply), s.portRuns = true ∧ s.v3dUp = true ∧ bit s.rst.straps 5 = true ∧
      s.port.replies = r :: rest ∧ r.bytes.length ≤ clocked) ∧
    (∃ (clocked : Nat) (s : State) (r : Reply) (rest : List Reply), s.portRuns = true ∧ s.v3dUp = true ∧ bit s.rst.straps 5 = true ∧
      s.port.replies = r :: rest ∧ clocked < r.bytes.length) ∧
    (∃ (s : State), s.portRuns = true ∧ s.v3dUp = true ∧ bit s.rst.straps 5 = true ∧ nextPacket s.port = none) ∧
    (∃ (s : State) (r : Reply) (rest : List Reply), s.portRuns = true ∧ bit s.rst.straps 5 = false ∧ s.port.quietAt ≤ s.now ∧
      s.port.replies = r :: rest) :=
  ⟨⟨16, wPort (fun x => { x with replies := [{ seq := 3 }, { seq := 4 }] }) up, { seq := 3 }, [{ seq := 4 }],
     by and_intros <;> decide +kernel⟩,
   ⟨11, wPort (fun x => { x with replies := [{ seq := 3 }, { seq := 4 }] }) up, { seq := 3 }, [{ seq := 4 }],
     by and_intros <;> decide +kernel⟩,
   ⟨up, by and_intros <;> decide +kernel⟩,
   ⟨wPort (fun x => { x with replies := [{ seq := 3 }, { seq := 4 }], quietAt := 40000000 }) uart, { seq := 3 }, [{ seq := 4 }],
     by and_intros <;> decide +kernel⟩⟩

/-- The hypotheses of O16 are met. -/
theorem witness_StatusAndResend :
    (∃ (s : State) (r : Reply) (rest : List Reply), s.portRuns = true ∧ s.v3dUp = true ∧ bit s.rst.straps 5 = true ∧ s.port.replies = r
      :: rest) ∧
    (∃ (s : State) (e : Event) (rest : List Event), s.portRuns = true ∧ s.port.flight = e :: rest ∧ e.due = false ∧ (∃ d, e.sentAt =
      some d ∧ d + 20000 ≤ s.clock.tick)) :=
  ⟨⟨wPort (fun x => { x with replies := [{ seq := 3 }, { seq := 4 }] }) up, { seq := 3 }, [{ seq := 4 }],
     by and_intros <;> decide +kernel⟩,
   ⟨wPort (fun x => { x with flight := [{ seq := 3, sentAt := some 39980000 }] }) up, { seq := 3, sentAt := some 39980000 }, [],
     by decide +kernel, by decide +kernel, by decide +kernel, ⟨_, rfl, by decide +kernel⟩⟩⟩

/-- The hypotheses of O17 are met: an acknowledgement of the right length that matches no event. -/
theorem witness_UnmatchedAcknowledgementCounted :
    (∃ (seq flags : Byte) (code len : Nat) (s : State), s.portRuns = true ∧ flagReply flags = true ∧ flagEvent flags = true ∧
      (len ≠ 4 ∨ 16 ≤ flags.toNat ∨ s.port.flight.any (fun e => e.seq == seq && e.code == code) = false)) ∧
    (∃ (seq flags : Byte) (code len : Nat) (s t : State), Machine.exec (.eventAcknowledgement seq flags code len) s = .next t) :=
  ⟨⟨3, 3, 0x0C01, 4, up, by decide +kernel, by decide +kernel, by decide +kernel, by decide +kernel⟩,
   ⟨3, 3, 0x0C01, 4, up, _, next_of (by decide +kernel)⟩⟩

/-- The hypotheses of O18 are met. -/
theorem witness_AcknowledgementReleasesEvent :
    ∃ (seq : Byte) (flags : Byte) (code : Nat) (s : State), s.portRuns = true ∧ s.port.awaiting.length < 8 ∧ flagReply flags = true ∧
      flagEvent flags = true ∧ flags.toNat < 16 ∧ (s.port.flight ++ s.port.fresh).any (fun e => e.ack && e.seq == seq && e.code == code) =
      true :=
  ⟨3, 3, 0x0164, wPort (fun x => { x with flight := [{ seq := 3, code := 0x0164, ack := true }] }) up, by and_intros <;> decide +kernel⟩

/-- The hypotheses of O19 are met. -/
theorem witness_RoleOpensByProof :
    (∃ (h : Hdr) (r : Nat) (nonce : Nat) (s : State), Accepted h 0x0110 (le 1 r ++ le 16 nonce) s ∧ 1 ≤ r ∧ r ≤ 4 ∧ nonce < 2 ^ 128 ∧
      keySet s r = true ∧ roleLocked s r = false) ∧
    (∃ (h : Hdr) (proof : List Byte) (s : State) (c : Challenge), Accepted h 0x0111 (le 1 c.role ++ proof) s ∧ proof.length = 32 ∧ 1 ≤
      c.role ∧ c.role ≤ 4 ∧ s.roles.challenge = some c ∧ s.clock.tick ≤ c.since + 200000 ∧ proof = hostProof (roleKey s c.role) c.role
      c.devNonce c.hostNonce s.factory.serial ∧ s.roles.role = 0) ∧
    (∃ (h : Hdr) (proof : List Byte) (s : State) (c : Challenge), Accepted h 0x0111 (le 1 c.role ++ proof) s ∧ proof.length = 32 ∧ 1 ≤
      c.role ∧ c.role ≤ 4 ∧ s.roles.challenge = some c ∧ s.clock.tick ≤ c.since + 200000 ∧ proof ≠ hostProof (roleKey s c.role) c.role
      c.devNonce c.hostNonce s.factory.serial) :=
  ⟨⟨h0, 4, 0, up, accepted_of (by decide +kernel), by and_intros <;> decide +kernel⟩,
   ⟨h0, hostProof (roleKey up 4) 4 5 6 0, wRoles (fun x =>
     { x with role := 0, challenge := some { role := 4, devNonce := 5, hostNonce := 6, since := 39800000 } }) up,
     { role := 4, devNonce := 5, hostNonce := 6, since := 39800000 }, accepted_of (by decide +kernel), by and_intros <;> decide +kernel⟩,
   ⟨h0, List.replicate 32 0, wRoles (fun x =>
     { x with challenge := some { role := 4, devNonce := 5, hostNonce := 6, since := 39800000 } }) up,
     { role := 4, devNonce := 5, hostNonce := 6, since := 39800000 }, accepted_of (by decide +kernel), by and_intros <;> decide +kernel⟩⟩

/-- The hypotheses of O20 are met. -/
theorem witness_RolesEndAndKeysSet :
    (∃ (h : Hdr) (s : State), Accepted h 0x0112 [] s ∧ s.roles.role ≠ 0) ∧
    (∃ (s : State), s.running = true ∧ s.roles.role ≠ 0 ∧ s.roles.lastCmd + s.port.roleIdle.toNat * 20000 ≤ s.clock.tick) ∧
    (∃ (s : State) (r : Nat) (t : Nat), 1 ≤ r ∧ r ≤ 4 ∧ vget s.roles.lockedUntil (r - 1) none = some t ∧ t ≤ s.clock.tick) ∧
    (∃ (h : Hdr) (r : Nat) (key : Nat) (s : State), Accepted h 0x0113 (le 1 r ++ le 32 key) s ∧ s.modes.mode = .commissioning ∧ key < 2
      ^ 256 ∧ key ≠ 0 ∧ ((r = 1 ∨ r = 2) ∧ (s.roles.role = 2 ∨ s.roles.role = 4) ∨ r = 4 ∧ s.roles.role = 4 ∨ r = 3 ∧ s.roles.role = 3 ∧
      s.seals.loopIntact = false)) :=
  ⟨⟨h0, up, accepted_of (by decide +kernel), by decide +kernel⟩,
   ⟨wRoles (fun x => { x with lastCmd := 28000000 }) up, by and_intros <;> decide +kernel⟩,
   ⟨wRoles (fun x => { x with lockedUntil := vset x.lockedUntil 3 (some 40000000) }) up, 4, 40000000, by and_intros <;> decide +kernel⟩,
   ⟨h0, 1, 2 ^ 256 - 1, inMode .commissioning up, accepted_of (by decide +kernel), by and_intros <;> decide +kernel⟩⟩

/-- The hypotheses of O21 are met: LIMITS of a load bank are written by an INSTALLER. -/
theorem witness_AcceptedWriteIsWritten :
    (∃ (c : Cfg) (h : Hdr) (i : Nat) (data mask : List Byte) (s : State), Accepted h 0x0103 (writePayload c.number i data mask) s ∧
      WritePasses c false i data mask (touchRole s) ∧ (c = .hostPort ∨ c = .easement ∨ c = .billing ∨ c = .traverse ∨ c = .display → i = 0)) ∧
    (∃ (c : Cfg) (h : Hdr) (i : Nat) (data mask : List Byte) (s : State), AcceptedExpert h 0x0103 (writePayload c.number i data mask) s ∧
      WritePasses c true i data mask (touchRole s) ∧ (c = .hostPort ∨ c = .easement ∨ c = .billing ∨ c = .traverse ∨ c = .display → i = 0)) :=
  ⟨⟨.bank, h0, 3, [0xC8, 0x00], [0xFF, 0x0F], up, accepted_of (by decide +kernel),
    by constructor <;> decide +kernel, by decide +kernel⟩,
   ⟨.bank, hx, 0, [0xC8, 0x00], [0xFF, 0x0F], up, acceptedExpert_of (by decide +kernel),
    by constructor <;> decide +kernel, by decide +kernel⟩⟩

/-- The hypotheses of O22 are met. -/
theorem witness_WriteChangesMaskedBitsOnly :
    (∃ (c : Cfg) (i : Nat) (data : Nat) (mask : Nat) (s : State), c ≠ .hostPort ∧ c ≠ .load ∧ c ≠ .tariff ∧ c.has i s = true ∧ data <
      256 ^ c.size ∧ mask < 256 ^ c.size ∧ (c = .easement → data < 2 ^ 20)) ∧
    (∃ (s : State), s.regionsRun = true) :=
  ⟨⟨.cal, 7, 2 ^ 608 - 1, 2 ^ 32 - 1, up, by and_intros <;> decide +kernel⟩,
   ⟨wPort (fun x => { x with due := [⟨0x0140, 0, 0xFFFF, 500⟩] }) up, by decide +kernel⟩⟩

/-- The hypotheses of O23 are met. -/
theorem witness_WritesWithOwnRule :
    (∃ (i : Nat) (data : Nat) (mask : Nat) (s : State), i < 8 ∧ s.billing.version + 1 < 2 ^ 32 ∧ data < 256 ^ 48 ∧ mask < 256 ^ 48) ∧
    (∃ (i : Nat), i < 16) ∧
    (∃ (baud : Nat) (s : State), 1 ≤ baud ∧ baud < 8 ∧ s.port.pendingLine = [] ∧ s.port.quad = false ∧ s.port.baud = 0) :=
  ⟨⟨7, 5, 2 ^ 384 - 1, up, by and_intros <;> decide +kernel⟩,
   ⟨15, by decide +kernel⟩,
   ⟨7, up, by and_intros <;> decide +kernel⟩⟩

/-- The hypotheses of O24 are met. -/
theorem witness_SafetyWritesNeedMode :
    (∃ (c : Cfg) (h : Hdr) (i : Nat) (data : List Byte) (mask : List Byte) (s : State), c.safety = true ∧ Accepted h 0x0103
      (writePayload c.number i data mask) s ∧ data.length = c.size ∧ mask.length = c.size ∧ i < 65536 ∧ maskOk (c.fields i) (ofBytes mask)
      false = true ∧ 2 ≤ s.roles.role ∧ s.modes.mode ≠ .standby ∧ s.modes.mode ≠ .commissioning) ∧
    (∃ (c : Cfg) (h : Hdr) (i : Nat) (data : List Byte) (mask : List Byte) (s : State), c.safety = true ∧ AcceptedExpert h 0x0103
      (writePayload c.number i data mask) s ∧ data.length = c.size ∧ mask.length = c.size ∧ i < 65536 ∧ maskOk (c.fields i) (ofBytes mask)
      true = true ∧ 2 ≤ s.roles.role ∧ s.modes.mode ≠ .standby ∧ s.modes.mode ≠ .commissioning) :=
  ⟨⟨.switching, h0, 0, List.replicate 8 0, List.replicate 8 0, inMode .service up, by decide +kernel, accepted_of (by decide +kernel),
     by and_intros <;> decide +kernel⟩,
   ⟨.switching, hx, 0, List.replicate 8 0, List.replicate 8 0, inMode .service up, by decide +kernel, acceptedExpert_of
     (by decide +kernel), by and_intros <;> decide +kernel⟩⟩

/-- The hypotheses of O25 are met. -/
theorem witness_SealedFieldsRefusedAndRecorded :
    (∃ (c : Cfg) (h : Hdr) (i : Nat) (data : List Byte) (mask : List Byte) (s : State), Accepted h 0x0103 (writePayload c.number i data
      mask) s ∧ data.length = c.size ∧ mask.length = c.size ∧ i < 65536 ∧ maskOk (c.fields i) (ofBytes mask) false = true ∧ c.writer
      s.roles.role = true ∧ c.modeOk i (ofBytes mask) (merge (c.value i (settled (touchRole s))) (ofBytes data) (ofBytes mask)) (settled
      (touchRole s)) = true ∧ touchesSeal (c.fields i) (ofBytes mask) = true ∧ s.seals.loopIntact = true) ∧
    (∃ (c : Cfg) (i : Nat) (mask : Nat), touchesSeal (c.fields i) mask = true) :=
  ⟨⟨.energy, h0, 0, List.replicate 8 0, 255 :: 255 :: List.replicate 6 0, inMode .commissioning (asRole 3 (wSeals (fun x =>
     { x with loopIntact := true }) up)), accepted_of (by decide +kernel), by and_intros <;> decide +kernel⟩,
   ⟨.energy, 0, 255, by decide +kernel⟩⟩

/-- The hypothesis of O26 is met. -/
theorem witness_CommandsKeepOtherParts : ∃ (c : Instr) (s t : State), Machine.exec c s = .next t :=
  ⟨.uartGapDiscard [], uart, _, next_of (by decide +kernel)⟩

/-- The hypotheses of O27 are met. -/
theorem witness_PowerOnAndShutdown :
    (∃ (v : Nat) (s : State), s.power.supply ≠ .on ∧ 17600 ≤ v) ∧
    (∃ (v : Nat) (s : State), s.power.supply = .on ∧ s.power.pfw = false ∧ v < 16300) ∧
    (∃ (s : State), s.power.supply = .on ∧ s.power.pfw = true ∧ s.power.pfwAt + 180 ≤ s.clock.tick) ∧
    (∃ (s : State), s.power.pfw = true ∧ s.power.shutStep < 6 ∧ s.power.pfwAt + 200 ≤ s.clock.tick) ∧
    (∃ (s : State), s.power.supply = .on ∧ s.power.pfw = true ∧ s.rst.phase ≠ .held 0 ∧ s.power.shutStep < 6) ∧
    (∃ (s : State), s.power.supply = .on ∧ s.power.pfw = true ∧ s.rst.phase = .running ∧ 6 ≤ s.power.shutStep ∧ s.rst.asserted.contains
      1 = false) :=
  ⟨⟨17600, wPower (fun x => { x with supply := .off }) up, by decide +kernel, by decide +kernel⟩,
   ⟨16299, wEase (fun x => { x with requests := [{}] }) up, by and_intros <;> decide +kernel⟩,
   ⟨wPower (fun x => { x with pfw := true, pfwAt := 39999820 }) up, by and_intros <;> decide +kernel⟩,
   ⟨wPower (fun x => { x with pfw := true, pfwAt := 39999800 }) (updDrv 0 (fun y => { y with cmd := true }) up),
     by and_intros <;> decide +kernel⟩,
   ⟨wPower (fun x => { x with pfw := true, pfwAt := 39999999 }) up, by and_intros <;> decide +kernel⟩,
   ⟨wPower (fun x => { x with pfw := true, pfwAt := 39999800, shutStep := 6 }) up, by and_intros <;> decide +kernel⟩⟩

/-- The hypotheses of O28 are met. -/
theorem witness_SupplyLostIsMonument :
    (∃ (s : State), s.power.supply = .on ∧ s.power.pfw = true) ∧
    (∃ (s : State), s.power.supply = .on ∧ s.power.pfw = false) ∧
    (∃ (s : State), s.power.supply = .on ∧ s.power.pfw = true) ∧
    (∃ (s : State), s.power.supply = .off) :=
  ⟨⟨wPower (fun x => { x with pfw := true, pfwAt := 39999999 }) up, by decide +kernel, by decide +kernel⟩,
   ⟨updDrv 3 (fun x => { x with cmd := true }) up, by decide +kernel, by decide +kernel⟩,
   ⟨wPower (fun x => { x with pfw := true }) up, by decide +kernel, by decide +kernel⟩,
   ⟨wPower (fun x => { x with supply := .off }) up, by decide +kernel⟩⟩

/-- The hypotheses of O29 are met. -/
theorem witness_SurgeAndVbat :
    (∃ (s : State), s.power.supply = .on ∧ s.power.surge = false) ∧
    (∃ (s : State), s.power.supply = .on ∧ s.power.surge = true) ∧
    (∃ (mv : Nat) (s : State), s.running = true ∧ s.power.vbatCheckAt + 72000000 ≤ s.clock.tick ∧ 2200 ≤ mv) ∧
    (∃ (mv : Nat) (s : State), s.running = true ∧ s.power.vbatCheckAt + 72000000 ≤ s.clock.tick ∧ mv < 2200 ∧ s.power.vbatLow = false) ∧
    (∃ (mv : Nat) (s : State), s.running = true ∧ s.power.vbatCheckAt + 72000000 ≤ s.clock.tick ∧ mv < 2200 ∧ s.power.vbatLow = true ∧
      s.clock.tick < s.power.vbatLowAt + 1728000000) ∧
    (∃ (s : State), s.power.supply ≠ .on) ∧
    (∃ (s : State), s.running = true ∧ s.power.readyAt + 20000 ≤ s.clock.tick) :=
  ⟨⟨updCh 0 (fun x => { x with state := 3, cmd := true }) (updCh 15 (fun x => { x with state := 1 }) up), by decide +kernel,
     by decide +kernel⟩,
   ⟨updCh 7 (fun x => { x with state := 6 }) (wPower (fun x => { x with surge := true }) up), by decide +kernel, by decide +kernel⟩,
   ⟨2200, wClock (fun x => { x with tick := 72000000 }) up, by and_intros <;> decide +kernel⟩,
   ⟨2199, wClock (fun x => { x with tick := 72000000 }) up, by and_intros <;> decide +kernel⟩,
   ⟨2199, wClock (fun x => { x with tick := 72000000 }) (wPower (fun x => { x with vbatLow := true }) up),
     by and_intros <;> decide +kernel⟩,
   ⟨wPower (fun x => { x with supply := .off }) up, by decide +kernel⟩,
   ⟨up, by decide +kernel, by decide +kernel⟩⟩

/-- The hypotheses of O30 are met. -/
theorem witness_ResetPinAndCommand :
    (∃ (s : State), s.rst.pinLow = false ∧ s.rst.masked = false ∧ s.running = true ∧ s.power.pfw = false ∧ s.rst.asserted = []) ∧
    (∃ (s : State), s.rst.pinLow = false ∧ s.rst.masked = true) ∧
    (∃ (s : State), s.rst.pinLow = true) ∧
    (∃ (s : State), s.power.supply = .on ∧ s.rst.pinLow = true ∧ s.rst.masked = false ∧ s.rst.asserted.contains 3 = true ∧
      s.rst.pinLowAt + 200000 ≤ s.clock.tick) ∧
    (∃ (s : State), s.power.supply = .on ∧ s.rst.masked = true ∧ s.rst.pinLow = false ∧ s.rst.pinHighAt + 2000 ≤ s.clock.tick) ∧
    (∃ (h : Hdr) (r : Nat) (s : State), Accepted h 0x0150 (le 1 r ++ le 1 0) s ∧ 1 ≤ s.roles.role ∧ r ≤ 1 ∧ (r = 1 → s.anySession =
      false) ∧ s.rst.delayed = none) ∧
    (∃ (r : BitVec 2) (t0 : Nat) (s : State), s.rst.delayed = some (r, t0) ∧ s.running = true ∧ t0 + 200 ≤ s.clock.tick ∧ s.power.pfw =
      false ∧ s.rst.asserted = []) :=
  ⟨⟨up, by and_intros <;> decide +kernel⟩,
   ⟨wRst (fun x => { x with masked := true }) up, by decide +kernel, by decide +kernel⟩,
   ⟨wRst (fun x => { x with pinLow := true, asserted := [3] }) up, by decide +kernel⟩,
   ⟨wRst (fun x => { x with pinLow := true, asserted := [3], phase := .asserted, pinLowAt := 39800000 }) up,
     by and_intros <;> decide +kernel⟩,
   ⟨wRst (fun x => { x with masked := true, pinHighAt := 39998000 }) up, by and_intros <;> decide +kernel⟩,
   ⟨h0, 0, withSession 7 up, accepted_of (by decide +kernel), by and_intros <;> decide +kernel⟩,
   ⟨0, 39999800, wRst (fun x => { x with delayed := some (0, 39999800) }) up, by and_intros <;> decide +kernel⟩⟩

/-- The hypotheses of O31 are met. -/
theorem witness_ResetSources :
    (∃ (region : Nat) (s : State), region ≤ 4 ∧ s.running = true ∧ s.power.pfw = false ∧ s.rst.asserted = []) ∧
    (∃ (s : State), s.running = true ∧ s.power.pfw = false ∧ s.rst.asserted = []) ∧
    (∃ (s : State), s.running = true ∧ s.power.pfw = false ∧ s.rst.asserted = []) ∧
    (∃ (s : State) (t0 : Nat), s.rst.hold = some t0 ∧ s.rst.holdMask ≠ 0 ∧ t0 + 10000 ≤ s.clock.tick) :=
  ⟨⟨0, up, by and_intros <;> decide +kernel⟩,
   ⟨up, by and_intros <;> decide +kernel⟩,
   ⟨up, by and_intros <;> decide +kernel⟩,
   ⟨wRst (fun x => { x with hold := some 39990000, holdMask := 0x81 }) (updSq 7 (fun y => { y with state := 5 }) (updSq 0 (fun y =>
     { y with state := 2 }) (withSession 0 up))), 39990000, by and_intros <;> decide +kernel⟩⟩

/-- The hypotheses of O32 are met. -/
theorem witness_ResetTakesEffect :
    ∃ (s : State), s.power.supply = .on ∧ s.rst.phase = .asserted :=
  ⟨wRst (fun x => { x with phase := .asserted, reachNow := 0, asserted := [10] }) up, by decide +kernel, by decide +kernel⟩

/-- The hypotheses of O33 are met. -/
theorem witness_BootReleasesAndReady :
    (∃ (s : State), s.power.supply = .on ∧ s.power.pfw = false ∧ s.rst.phase = .held 0) ∧
    (∃ (b : BootIn) (s : State), s.power.supply = .on ∧ s.power.pfw = false ∧ s.rst.phase = .held 0 ∧ s.rst.debugLocked = false ∧ fld
      (majority b) 0 2 = 0 ∧ s.rst.asserted.all (fun x => decide (x ≤ 16)) = true ∧ s.rst.asserted.contains 3 = false ∧ (s.rst.pinLow =
      false ∨ s.rst.masked = true)) ∧
    (∃ (s : State), s.power.supply = .on ∧ s.power.pfw = false ∧ s.rst.phase = .held 5 ∧ s.rst.asserted = [] ∧ s.rst.reachNow = 0) ∧
    (∃ (s : State), s.power.supply = .on ∧ s.power.pfw = false ∧ s.rst.phase = .released ∧ s.rst.reachNow = 0) ∧
    (∃ (s : State), s.power.supply = .on ∧ s.power.pfw = false ∧ s.rst.phase = .released ∧ s.rst.reachNow ≠ 0) :=
  ⟨⟨State.reset, by and_intros <;> decide +kernel⟩,
   ⟨{ strapA := 0, strapB := 0, strapC := 0 }, State.reset, by and_intros <;> decide +kernel⟩,
   ⟨wRst (fun x => { x with phase := .held 5, reachNow := 0, hold := some 5 }) up, by and_intros <;> decide +kernel⟩,
   ⟨wRst (fun x => { x with phase := .released, reachNow := 0 }) up, by and_intros <;> decide +kernel⟩,
   ⟨wRst (fun x => { x with phase := .released, reachNow := 2 }) up, by and_intros <;> decide +kernel⟩⟩

/-- The hypotheses of O34 are met. -/
theorem witness_ModeCommands :
    (∃ (h : Hdr) (s : State), Accepted h 0x0153 [3] s ∧ 2 ≤ s.roles.role ∧ s.modes.mode = .standby) ∧
    (∃ (h : Hdr) (s : State), Accepted h 0x0153 [1] s ∧ 2 ≤ s.roles.role ∧ s.modes.mode = .benchmark) ∧
    (∃ (h : Hdr) (s : State), Accepted h 0x0153 [3] s ∧ 2 ≤ s.roles.role ∧ s.modes.mode = .service ∧ s.modes.benchPending = false ∧
      commCondition s = false) ∧
    (∃ (h : Hdr) (s : State), Accepted h 0x0154 [] s ∧ 1 ≤ s.roles.role ∧ s.inRom = false ∧ s.modes.mode = .recovery ∧
      s.modes.interruptedLeft = 0) ∧
    (∃ (h : Hdr) (s : State), Accepted h 0x0155 [] s ∧ 2 ≤ s.roles.role ∧ s.modes.mode = .commissioning ∧ commCondition s = false) ∧
    (∃ (h : Hdr) (s : State), Accepted h 0x0155 [] s ∧ 2 ≤ s.roles.role ∧ s.modes.mode = .commissioning ∧ commCondition s = true) ∧
    (∃ (h : Hdr) (hdr : List Byte) (s : State), Accepted h 0x0B10 (hdr ++ [0]) s ∧ 2 ≤ s.roles.role ∧ hdr.length = 512 ∧ stagingRuns s =
      false ∧ s.modes.activating = false ∧ headerOk s hdr = true) ∧
    (∃ (s : State), s.regionsRun = true ∧ stagingRuns s = true ∧ s.chain.ready = false ∧ s.chain.erased = 12) ∧
    (∃ (h : Hdr) (k : Nat) (half : Nat) (data : List Byte) (tag : List Byte) (s : State), Accepted h 0x0B11 (le 4 k ++ le 1 half ++ data
      ++ tag) s ∧ 2 ≤ s.roles.role ∧ half ≤ 1 ∧ data.length = 2048 ∧ tag.length = 16 * half ∧ stagingRuns s = true ∧ s.chain.ready = true
      ∧ s.chain.byHost = true ∧ k < stagedBlocks s ∧ k < 2 ^ 32 ∧ (stageHalf k half data tag s).2 = true) ∧
    (∃ (h : Hdr) (s : State), Accepted h 0x0B12 [] s ∧ 2 ≤ s.roles.role ∧ stagingRuns s = true) ∧
    (∃ (s : State), s.running = true ∧ stagingRuns s = true ∧ s.chain.reportAt + secF 10 ≤ s.now) ∧
    (∃ (h : Hdr) (s : State), Accepted h 0x0B13 [] s ∧ 2 ≤ s.roles.role ∧ standbyOrComm s = true ∧ s.modes.activating = false ∧
      s.chain.staging = 2 ∧ s.store.stagingSlot.complete = true ∧ trialRuns s = false) ∧
    (∃ (s : State), s.modes.activating = true ∧ 12 ≤ s.store.activateErased ∧ s.running = true ∧ s.shutting = false ∧ s.power.supply =
      .on) ∧
    (∃ (h : Hdr) (s : State), Accepted h 0x0B14 [] s ∧ 2 ≤ s.roles.role ∧ trialRuns s = true) :=
  ⟨⟨h0, up, accepted_of (by decide +kernel), by decide +kernel, by decide +kernel⟩,
   ⟨h0, inMode .benchmark up, accepted_of (by decide +kernel), by decide +kernel, by decide +kernel⟩,
   ⟨h0, inMode .service ready, accepted_of (by decide +kernel), by and_intros <;> decide +kernel⟩,
   ⟨h0, inMode .recovery up, accepted_of (by decide +kernel), by and_intros <;> decide +kernel⟩,
   ⟨h0, inMode .commissioning ready, accepted_of (by decide +kernel), by and_intros <;> decide +kernel⟩,
   ⟨h0, inMode .commissioning up, accepted_of (by decide +kernel), by and_intros <;> decide +kernel⟩,
   ⟨h0, header, up, accepted_of (by decide +kernel), by and_intros <;> decide +kernel⟩,
   ⟨wChain (fun x => { x with ready := false, erased := 12 }) (staging true), by and_intros <;> decide +kernel⟩,
   ⟨h0, 3, 0, List.replicate 2048 1, [], staging true, accepted_of (by decide +kernel), by and_intros <;> decide +kernel⟩,
   ⟨h0, staging true, accepted_of (by decide +kernel), by decide +kernel, by decide +kernel⟩,
   ⟨staging true, by and_intros <;> decide +kernel⟩,
   ⟨h0,
     { staging true with chain := { up.chain with staging := 2 }, store := { up.store with stagingSlot := { header := header, complete := true } } },
     accepted_of (by decide +kernel), by and_intros <;> decide +kernel⟩,
   ⟨wModes (fun x => { x with activating := true }) (wStore (fun x => { x with activateErased := 12 }) (staging true)),
     by and_intros <;> decide +kernel⟩,
   ⟨h0, wStore (fun x => { x with trial := true, trialBoots := 1 }) up, accepted_of (by decide +kernel), by decide +kernel,
     by decide +kernel⟩⟩

/-- The hypotheses of O35 are met. -/
theorem witness_TicksCountTime :
    (∃ (s : State), s.regionsRun = true) ∧
    (∃ (s : State), s.regionsRun = false ∧ s.power.pfw = false) ∧
    (∃ (s : State), atSuperframe s = true ∧ s.clock.superDone ≠ s.clock.tick + 1) ∧
    (∃ (s : State), s.clock.superDone = s.clock.tick + 1) :=
  ⟨⟨up, by decide +kernel⟩,
   ⟨State.reset, by decide +kernel, by decide +kernel⟩,
   ⟨wSeals (fun x => { x with loopIntact := true }) up, by decide +kernel, by decide +kernel⟩,
   ⟨wClock (fun x => { x with superDone := 40000001 }) up, by decide +kernel⟩⟩

/-- The hypotheses of O36 are met. -/
theorem witness_CorrectionsCounted :
    (∃ (cell : Nat) (count : Nat) (s : State), cellUp s cell = true ∧ cell < cellCount ∧ cellInUse s cell = true ∧ (cellSt s
      cell).superCount + count ≤ 16) ∧
    (∃ (cell : Nat) (count : Nat) (s : State), cellUp s cell = true ∧ cell < cellCount ∧ cellInUse s cell = true ∧ (cellSt s
      cell).superCount ≤ 16 ∧ 16 < (cellSt s cell).superCount + count) ∧
    (∃ (cell : Nat) (c : CellId) (s : State), cellUp s cell = true ∧ cellInUse s cell = true ∧ cellId cell = some c) :=
  ⟨⟨0, 16, up, by and_intros <;> decide +kernel⟩,
   ⟨0, 17, up, by and_intros <;> decide +kernel⟩,
   ⟨5, (cellId 5).getD ⟨0, 0, 0, .driver, 0⟩, up, by and_intros <;> decide +kernel⟩⟩

/-- The hypotheses of O37 are met. -/
theorem witness_FaultsIsolateAndReset :
    (∃ (cell : Nat) (c : CellId) (s : State), cellUp s cell = true ∧ cellInUse s cell = true ∧ cellId cell = some c) ∧
    (∃ (cell : Nat) (c : CellId) (s : State), cellUp s cell = true ∧ cellInUse s cell = true ∧ cellId cell = some c ∧ c.type ≠ .load) ∧
    (∃ (s : State), s.regionUp 0 = true) ∧
    (∃ (region : Nat) (s : State), s.regionUp region = true ∧ region ≤ 5) ∧
    (∃ (region : Nat) (s : State), s.regionUp region = true ∧ region ≤ 5) ∧
    (∃ (s : State), s.regionsRun = true ∧ s.fe.mclkStopped = false) ∧
    (∃ (n : Nat) (s : State), s.regionsRun = true ∧ s.present n = true) ∧
    (∃ (s : State), s.regionUp 3 = true) :=
  ⟨⟨5, (cellId 5).getD ⟨0, 0, 0, .driver, 0⟩, up, by and_intros <;> decide +kernel⟩,
   ⟨5, (cellId 5).getD ⟨0, 0, 0, .driver, 0⟩, up, by and_intros <;> decide +kernel⟩,
   ⟨up, by decide +kernel⟩,
   ⟨0, up, by decide +kernel, by decide +kernel⟩,
   ⟨5, up, by decide +kernel, by decide +kernel⟩,
   ⟨up, by decide +kernel, by decide +kernel⟩,
   ⟨7, up, by decide +kernel, by decide +kernel⟩,
   ⟨up, by decide +kernel⟩⟩

/-- The hypotheses of O38 are met. -/
theorem witness_MissesCounted :
    (∃ (job : Nat) (inst : Nat) (s : State), s.collecting = true ∧ jobRuns s job inst = true ∧ ((jobSt s job inst).run = 0 ∨ (jobSt s
      job inst).lastTick ≠ s.clock.tick)) ∧
    (∃ (job : Nat) (inst : Nat) (s : State), s.collecting = true ∧ jobRuns s job inst = true ∧ (jobSt s job inst).run ≠ 0 ∧ (jobSt s job
      inst).lastTick = s.clock.tick) :=
  ⟨⟨3, 7, up, by and_intros <;> decide +kernel⟩,
   ⟨3, 7, wFaults (fun x => { x with jobs := [(31, { run := 1, lastTick := 40000000 })] }) up, by and_intros <;> decide +kernel⟩⟩

/-- The hypotheses of O39 are met. -/
theorem witness_ReportsMergeIntoClosures :
    (∃ (region : Nat) (cls : Byte) (key : Nat) (w : Merge) (r : Report) (rs : List Report) (s : State), s.faults.windows.find? (fun w =>
      w.region == region && w.is cls key && decide (w.opened + 2 ≤ s.clock.tick)) = some w ∧ w.reports = r :: rs ∧ s.faults.closures.any
      (recentClosure s.clock.tick r.cls r.key) = false ∧ s.faults.chip.any (Merge.is r.cls r.key) = false) ∧
    (∃ (cls : Byte) (key : Nat) (w : Merge) (r : Report) (rs : List Report) (s : State), s.faults.chip.find? (fun w => w.is cls key &&
      decide (w.opened + 2 ≤ s.clock.tick)) = some w ∧ w.reports = r :: rs) ∧
    (∃ (id : Nat) (c : Closure) (rest : List Closure) (s : State), s.faults.closures = c :: rest ∧ c.id = id ∧ c.isOpen = true ∧
      c.emitted + 400 ≤ s.clock.tick) :=
  ⟨⟨2, 3, 5, ⟨2, 39999998, [{ cls := 3, key := 5 }]⟩, { cls := 3, key := 5 }, [], wFaults (fun x =>
     { x with windows := [⟨2, 39999998, [{ cls := 3, key := 5 }]⟩] }) up, by and_intros <;> decide +kernel⟩,
   ⟨3, 5, ⟨6, 39999998, [{ cls := 3, key := 5 }, { cls := 3, key := 5, cycle := 4 }]⟩, { cls := 3, key := 5 },
     [{ cls := 3, key := 5, cycle := 4 }], wFaults (fun x =>
     { x with chip := [⟨6, 39999998, [{ cls := 3, key := 5 }, { cls := 3, key := 5, cycle := 4 }]⟩] }) up, by decide +kernel,
     by decide +kernel⟩,
   ⟨4, { id := 4, isOpen := true, emitted := 39999600, openRegions := [1] }, [], wFaults (fun x =>
     { x with closures := [{ id := 4, isOpen := true, emitted := 39999600, openRegions := [1] }] }) up, by and_intros <;> decide +kernel⟩⟩

/-- The hypotheses of O41 are met. -/
theorem witness_LeaveBeginsAndEnds :
    (∃ (req : Nat) (c : Charge) (s : State), chargeOf req s = some c ∧ s.regionsRun = true ∧ c.begun = false ∧ c.granted = false ∧
      c.start ≤ s.clock.tick ∧ s.clock.tick < c.start + 2 ∧ c.rq.cls = 5) ∧
    (∃ (req : Nat) (c : Charge) (s : State), chargeOf req s = some c ∧ s.regionsRun = true ∧ c.begun = false ∧ c.granted = false ∧
      c.start ≤ s.clock.tick ∧ s.clock.tick < c.start + 2) ∧
    (∃ (req : Nat) (c : Charge) (s : State), chargeOf req s = some c ∧ c.begun = false ∧ c.start + 2 ≤ s.clock.tick) ∧
    (∃ (req : Nat) (c : Charge) (s : State), chargeOf req s = some c ∧ c.begun = true ∧ c.inHold = false ∧ c.rq.standing = false) ∧
    (∃ (req : Nat) (c : Charge) (s : State), chargeOf req s = some c ∧ c.begun = true ∧ c.inHold = false ∧ c.rq.standing = false ∧
      c.overrun = false ∧ c.rq.cls ≠ 3 ∧ c.start + c.rq.duration ≤ s.clock.tick) :=
  ⟨⟨3, { rq := { id := 3, cls := 5, standing := true }, start := 40000000 }, wEase (fun x =>
     { x with charges := [{ rq := { id := 3, cls := 5, standing := true }, start := 40000000 }] }) up, by and_intros <;> decide +kernel⟩,
   ⟨3, { rq := { id := 3, cls := 6 }, start := 40000000 }, wEase (fun x =>
     { x with charges := [{ rq := { id := 3, cls := 6 }, start := 40000000 }] }) up, by and_intros <;> decide +kernel⟩,
   ⟨3, { rq := { id := 3, cls := 4 }, start := 39999998, granted := true }, wEase (fun x =>
     { x with charges := [{ rq := { id := 3, cls := 4 }, start := 39999998, granted := true }] }) up, by and_intros <;> decide +kernel⟩,
   ⟨3, { rq := { id := 3, cls := 6, hold := 2 }, start := 39999998, begun := true }, wEase (fun x =>
     { x with charges := [{ rq := { id := 3, cls := 6, hold := 2 }, start := 39999998, begun := true }] }) up,
     by and_intros <;> decide +kernel⟩,
   ⟨3, { rq := { id := 3, cls := 6, duration := 2 }, start := 39999998, begun := true }, wEase (fun x =>
     { x with charges := [{ rq := { id := 3, cls := 6, duration := 2 }, start := 39999998, begun := true }] }) up,
     by and_intros <;> decide +kernel⟩⟩

/-- The hypotheses of O42 are met. -/
theorem witness_PlacementKeepsBudgets :
    ∃ (s : State) (cs : List Charge) (r : Request) (a : Nat), place s cs r = some a :=
  ⟨up, [], { id := 3, intPeak := 10, vauxPeak := 20, duration := 4, slot := 40000000, latest := 40000010 }, 40000000, by decide +kernel⟩

/-- The hypotheses of O43 are met. -/
theorem witness_InputsMarkedInvalid :
    (∃ (n : Nat) (x : Nat) (s : State), s.regionsRun = true ∧ s.present n = true ∧ modEnabled s n x = true ∧ (modIn s n x).stuck =
      false) ∧
    (∃ (n : Nat) (x : Nat) (s : State), s.regionsRun = true ∧ s.present n = true ∧ modEnabled s n x = true ∧ (modIn s n x).stuck = true) ∧
    (∃ (n : Nat) (s : State), s.regionsRun = true ∧ s.present n = true) ∧
    (∃ (n : Nat) (x : Nat) (s : State), s.regionsRun = true ∧ s.present n = true ∧ modEnabled s n x = true ∧ ((modIn s n x).stuck = true
      ∨ (modIn s n x).clockFault = true) ∧ (modIn s n x).badAt + 400 ≤ s.clock.tick ∧ s.fe.mclkStopped = false) ∧
    (∃ (s : State), s.regionsRun = true ∧ s.fe.mclkStopped = false) ∧
    (∃ (s : State), s.fe.mclkStopped = true) ∧
    (∃ (n : Nat) (x : Nat) (place : Nat) (s : State), s.regionsRun = true ∧ s.present n = true ∧ modEnabled s n x = true ∧ place < 64 ∧
      stepAt s n x place = true) ∧
    (∃ (n : Nat) (x : Nat) (place : Nat) (s : State), stepAt s n x place = false) :=
  ⟨⟨0, 1, up, by and_intros <;> decide +kernel⟩,
   ⟨7, 6, updIn' 7 6 (fun i => { i with stuck := true }) up, by and_intros <;> decide +kernel⟩,
   ⟨7, up, by decide +kernel, by decide +kernel⟩,
   ⟨7, 6, updIn' 7 6 (fun i => { i with stuck := true, badAt := 39999600 }) up, by and_intros <;> decide +kernel⟩,
   ⟨up, by decide +kernel, by decide +kernel⟩,
   ⟨wFe (fun x => { x with mclkStopped := true }) up, by decide +kernel⟩,
   ⟨0, 0, 63, updIn' 0 0 (fun i => { i with fast := [2000] }) up, by and_intros <;> decide +kernel⟩,
   ⟨0, 0, 63, up, by decide +kernel⟩⟩

/-- The hypotheses of O44 are met. -/
theorem witness_DecimatorsRestart :
    (∃ (t0 : Nat) (s : State), s.fe.scheduled = some t0 ∧ s.regionsRun = true ∧ t0 ≤ s.clock.legal ∧ s.anySession = false) ∧
    (∃ (t0 : Nat) (s : State), s.fe.edgeAt = some t0 ∧ s.regionsRun = true ∧ t0 < s.clock.tick) ∧
    (∃ (s : State), s.regionsRun = true ∧ s.fe.armed = false) ∧
    (∃ (s : State), s.regionsRun = true ∧ s.fe.armed = true ∧ (s.anySession = true ∨ s.fe.closedAt = some s.clock.tick)) ∧
    (∃ (s : State), s.regionsRun = true ∧ s.fe.armed = true ∧ s.anySession = false ∧ s.fe.closedAt ≠ some s.clock.tick) ∧
    (∃ (h : Hdr) (f : Nat) (s : State), Accepted h 0x0210 (le 1 0 ++ le 6 f) s ∧ 2 ≤ s.roles.role ∧ s.anySession = false ∧
      s.fe.scheduled = none ∧ s.fe.armed = false ∧ s.fe.edgeAt = none) ∧
    (∃ (h : Hdr) (f : Nat) (l : Nat) (s : State), Accepted h 0x0210 (le 1 1 ++ le 6 f) s ∧ 2 ≤ s.roles.role ∧ s.anySession = false ∧
      s.fe.scheduled = none ∧ s.fe.armed = false ∧ s.fe.edgeAt = none ∧ f < 2 ^ 48 ∧ frameOf f = some l ∧ s.clock.legal ≤ l ∧ l ≤
      s.clock.legal + 1728000000) ∧
    (∃ (h : Hdr) (f : Nat) (s : State), Accepted h 0x0210 (le 1 2 ++ le 6 f) s ∧ 2 ≤ s.roles.role ∧ s.anySession = false ∧
      s.fe.scheduled = none ∧ s.fe.armed = false ∧ s.fe.edgeAt = none) ∧
    (∃ (h : Hdr) (f : Nat) (s : State), Accepted h 0x0210 (le 1 3 ++ le 6 f) s ∧ 2 ≤ s.roles.role ∧ s.anySession = false) ∧
    (∃ (n : Nat) (x : Nat) (s : State), s.regionsRun = true ∧ s.present n = true ∧ modEnabled s n x = true ∧ (modIn s n x).stuck =
      false) ∧
    (∃ (n : Nat) (x : Nat) (s : State), s.regionsRun = true ∧ s.present n = true ∧ modEnabled s n x = true ∧ ((modIn s n x).stuck = true
      ∨ (modIn s n x).clockFault = true) ∧ (modIn s n x).badAt + 400 ≤ s.clock.tick ∧ s.fe.mclkStopped = false) ∧
    (∃ (n : Nat) (x : Nat) (place : Nat) (s : State), s.regionsRun = true ∧ s.present n = true ∧ modEnabled s n x = true ∧ place < 64 ∧
      stepAt s n x place = true) :=
  ⟨⟨40000000, wFe (fun x => { x with scheduled := some 40000000 }) up, by and_intros <;> decide +kernel⟩,
   ⟨39999999, wFe (fun x => { x with edgeAt := some 39999999 }) up, by and_intros <;> decide +kernel⟩,
   ⟨up, by decide +kernel, by decide +kernel⟩,
   ⟨wFe (fun x => { x with armed := true }) (withSession 7 up), by and_intros <;> decide +kernel⟩,
   ⟨wFe (fun x => { x with armed := true }) up, by and_intros <;> decide +kernel⟩,
   ⟨h0, 0, up, accepted_of (by decide +kernel), by and_intros <;> decide +kernel⟩,
   ⟨h0, 2000 * 65536, 40000000, up, accepted_of (by decide +kernel), by and_intros <;> decide +kernel⟩,
   ⟨h0, 0, up, accepted_of (by decide +kernel), by and_intros <;> decide +kernel⟩,
   ⟨h0, 0, wFe (fun x => { x with armed := true }) up, accepted_of (by decide +kernel), by decide +kernel, by decide +kernel⟩,
   ⟨7, 5, up, by and_intros <;> decide +kernel⟩,
   ⟨7, 6, updIn' 7 6 (fun i => { i with stuck := true, badAt := 39999600 }) up, by and_intros <;> decide +kernel⟩,
   ⟨0, 0, 63, updIn' 0 0 (fun i => { i with fast := [2000] }) up, by and_intros <;> decide +kernel⟩⟩

/-- The hypotheses of O45 are met. -/
theorem witness_PathsAndCapture :
    (∃ (h : Hdr) (bank : Nat) (k : Nat) (n : Nat) (body : List Byte) (s : State), AcceptedExpert h 0x0211 (le 1 bank ++ le 1 k ++ le 1 n
      ++ body) s ∧ k ≤ 3 ∧ body.length = 3 * n ∧ ((bank = 0 ∧ n = 22 ∧ (2 * coefSum body n - 4194304).natAbs * 10000 ≤ 4194304) ∨ (bank =
      1 ∧ n = 16)) ∧ setInUse s bank k = false) ∧
    (∃ (h : Hdr) (n : Nat) (path : Nat) (x : Nat) (src : Nat) (f : Nat) (s : State), AcceptedExpert h 0x0212 (le 1 n ++ le 1 path ++ le
      1 x ++ le 1 src ++ le 2 f) s ∧ s.present n = true ∧ path ≤ 1 ∧ x ≤ 7 ∧ src ≤ 4 ∧ 8 ≤ f ∧ f ≤ 256 ∧ (src = 0 ∨ fld (coefSet s (4 *
      path + (src - 1))) 0 8 ≠ 0) ∧ s.fe.fades.any (fun g => g.outlet == n && g.path == path && (path == 1 || g.input == x)) = false ∧
      (s.fe.fades.filter (fun g => g.outlet / 2 == n / 2)).length < 2) ∧
    (∃ (n : Nat) (path : Nat) (x : Nat) (f : Fade) (s : State), s.fe.fades.find? (fun f => f.outlet == n && f.path == path && f.input ==
      x && decide (f.len ≤ f.done)) = some f) ∧
    (∃ (h : Hdr) (n : Nat) (x : Nat) (path : Nat) (k : Nat) (tr : Nat) (s : State), Accepted h 0x0213 (le 1 n ++ le 1 x ++ le 1 path ++
      le 2 k ++ le 1 tr) s ∧ 1 ≤ s.roles.role ∧ s.present n = true ∧ modEnabled s n x = true ∧ path ≤ 3 ∧ (path = 2 → x ≤ 1 ∨ fld (pathSt
      s n) 24 3 = x) ∧ 1 ≤ k ∧ k ≤ 32768 ∧ tr ≤ 2 ∧ s.fe.capture = none) ∧
    (∃ (c : Capture) (u : Nat) (s : State), s.fe.capture = some c ∧ s.regionsRun = true ∧ c.recording = false ∧ ((c.trigger = 1 ∧ c.step
      = some u) ∨ (c.trigger = 2 ∧ s.clock.legal % 2000 = 0 ∧ u = unitOf s.clock.tick))) ∧
    (∃ (c : Capture) (s : State), s.fe.capture = some c ∧ c.recording = true ∧ c.recs.length = c.count) ∧
    (∃ (c : Capture) (s : State), s.fe.capture = some c ∧ c.recording = false ∧ c.since + 1200000 ≤ s.clock.tick) ∧
    (∃ (y : Sample) (c : Capture), (c : Capture).recording = true ∧ c.recs.length < c.count ∧ c.first ≤ y.instant) :=
  ⟨⟨hx, 0, 3, 22, le 3 2097152 ++ List.replicate 63 0, up, acceptedExpert_of (by decide +kernel), by and_intros <;> decide +kernel⟩,
   ⟨hx, 7, 0, 7, 0, 8, up, acceptedExpert_of (by decide +kernel), by and_intros <;> decide +kernel⟩,
   ⟨7, 1, 0, { outlet := 7, path := 1, len := 8, done := 8 }, wFe (fun x =>
     { x with fades := [{ outlet := 7, path := 1, len := 8, done := 8 }] }) up, by decide +kernel⟩,
   ⟨h0, 7, 0, 2, 32768, 2, up, accepted_of (by decide +kernel), by and_intros <;> decide +kernel⟩,
   ⟨{ outlet := 7, trigger := 2, count := 4 }, unitOf 40000000, wFe (fun x =>
     { x with capture := some { outlet := 7, trigger := 2, count := 4 } }) up, by and_intros <;> decide +kernel⟩,
   ⟨{ recording := true, recs := [(5, 3, 9)] }, wFe (fun x => { x with capture := some { recording := true, recs := [(5, 3, 9)] } }) up,
     by and_intros <;> decide +kernel⟩,
   ⟨{ since := 38800000 }, wFe (fun x => { x with capture := some { since := 38800000 } }) up, by and_intros <;> decide +kernel⟩,
   ⟨{ code := -5, flags := 3, instant := 9 }, { recording := true, count := 2 }, by and_intros <;> decide +kernel⟩⟩

/-- The hypotheses of O46 are met. -/
theorem witness_InsulationToneAndWarnings :
    (∃ (s : State), s.regionsRun = true ∧ s.clock.legal % 2000 = 0 ∧ s.fe.steps.head?.map (·.start) ≠ some s.clock.tick) ∧
    (∃ (p : PlumbStep) (rest : List PlumbStep) (s : State), s.regionsRun = true ∧ s.fe.steps = p :: rest ∧ p.number % 8 = 0 ∧
      s.fe.plumbPeriod < p.number / 8 ∧ p.start + 8 ≤ s.clock.tick) ∧
    (∃ (n : Nat), n < 8) ∧
    (∃ (n : Nat) (g : BitVec 8) (r : Reading) (s : State), n < 8 ∧ bit s.faults.plumbCells n = false ∧ 100 * min r.rp r.rn < fld (plCfg
      s n) 52 12 * groupVfs s g) ∧
    (∃ (n : Nat) (i : Int) (q : Int) (s : State), s.regionsRun = true ∧ s.present n = true ∧ modEnabled s n 0 = true ∧ (tone s n).ended
      = some (i, q, true)) ∧
    (∃ (n : Nat) (i : Int) (q : Int) (s : State), s.regionsRun = true ∧ s.present n = true ∧ modEnabled s n 0 = true ∧ (tone s n).ended
      = some (i, q, false)) ∧
    (∃ (n : Nat) (s : State), s.regionsRun = true ∧ s.present n = true ∧ toneMissing s n = true) ∧
    (∃ (k : Nat) (s : State), (pls s k).low = true ∧ (pls s k).endAt ≤ s.clock.tick) ∧
    (∃ (n : Nat) (s : State), s.regionsRun = true ∧ s.present n = true ∧ standing1s s n = true ∧ (eng s n).standEv = none) ∧
    (∃ (h : Hdr) (n : Nat) (mask : Nat) (s : State), Accepted h 0x0310 (le 1 n ++ le 2 mask) s ∧ s.roles.role = 3 ∧ s.modes.mode =
      .commissioning ∧ s.present n = true ∧ mask < 64 ∧ noRecordPlace s = false ∧ (∀ b, b < 6 → mask.testBit b = true → warnHolds s n b =
      false)) ∧
    (∃ (h : Hdr) (n : Nat) (mask : Nat) (b : Nat) (s : State), Accepted h 0x0310 (le 1 n ++ le 2 mask) s ∧ s.roles.role = 3 ∧
      s.modes.mode = .commissioning ∧ s.present n = true ∧ mask < 64 ∧ noRecordPlace s = false ∧ b < 6 ∧ mask.testBit b = true ∧ warnHolds
      s n b = true) :=
  ⟨⟨up, by and_intros <;> decide +kernel⟩,
   ⟨{ number := 8, start := 39999992 }, [], wFe (fun x => { x with steps := [{ number := 8, start := 39999992 }] }) up,
     by and_intros <;> decide +kernel⟩,
   ⟨7, by decide +kernel⟩,
   ⟨7, 0x80, { rp := 5, rn := 900, rpar := 5, udc := 800, split := false, consistent := true }, up, by and_intros <;> decide +kernel⟩,
   ⟨7, 1000, 20, updTone 7 (fun x => { x with ended := some (1000, 20, true) }) up, by and_intros <;> decide +kernel⟩,
   ⟨7, 1000, 20, updTone 7 (fun x => { x with ended := some (1000, 20, false) }) up, by and_intros <;> decide +kernel⟩,
   ⟨0, up, by and_intros <;> decide +kernel⟩,
   ⟨3, updPls 3 (fun y => { y with low := true, endAt := 40000000 }) up, by decide +kernel, by decide +kernel⟩,
   ⟨7, updEng 7 (fun y => { y with standSince := some 39980000 }) up, by and_intros <;> decide +kernel⟩,
   ⟨h0, 7, 0x3F, inMode .commissioning (asRole 3 (updTone 7 (fun x => { x with lastValidAt := 40000000, lastRatio := 1 }) up)),
     accepted_of (by decide +kernel), by and_intros <;> decide +kernel⟩,
   ⟨h0, 7, 0x3F, 2, inMode .commissioning (asRole 3 up), accepted_of (by decide +kernel), by and_intros <;> decide +kernel⟩⟩

/-- The hypotheses of O47 are met. -/
theorem witness_LegalTimeSet :
    (∃ (h : Hdr) (f : Nat) (g : Nat) (a : Nat) (s : State), Accepted h 0x0410 (le 6 f ++ le 1 a) s ∧ 1 ≤ s.roles.role ∧ f < 2 ^ 48 ∧
      frameOf f = some g ∧ a ≤ 1 ∧ s.clock.valid = false) ∧
    (∃ (h : Hdr) (f : Nat) (g : Nat) (a : Nat) (d : Int) (s : State), Accepted h 0x0410 (le 6 f ++ le 1 a) s ∧ 1 ≤ s.roles.role ∧ f < 2
      ^ 48 ∧ frameOf f = some g ∧ a ≤ 1 ∧ s.clock.valid = true ∧ d = ((g : Int) - s.clock.legal) * 1250 ∧ d.natAbs + slewSum s ≤
      225000000) ∧
    (∃ (h : Hdr) (f : Nat) (g : Nat) (d : Int) (s : State), Accepted h 0x0410 (le 6 f ++ le 1 0) s ∧ 1 ≤ s.roles.role ∧ f < 2 ^ 48 ∧
      frameOf f = some g ∧ s.clock.valid = true ∧ d = ((g : Int) - s.clock.legal) * 1250 ∧ 225000000 < d.natAbs + slewSum s) ∧
    (∃ (h : Hdr) (f : Nat) (g : Nat) (d : Int) (s : State), Accepted h 0x0410 (le 6 f ++ le 1 1) s ∧ 1 ≤ s.roles.role ∧ f < 2 ^ 48 ∧
      frameOf f = some g ∧ s.clock.valid = true ∧ d = ((g : Int) - s.clock.legal) * 1250 ∧ 225000000 < d.natAbs + slewSum s ∧ roundSuper
      ((g : Int) - s.clock.legal) ≠ 0 ∧ noRecordPlace s = false) ∧
    (∃ (g : Nat) (t0 : Nat) (s : State), s.clock.pendingSet = some (g, t0) ∧ atSuperframe s = true) ∧
    (∃ (d : Int) (s : State), stepDue s = some d) :=
  ⟨⟨h0, 3000 * 65536, 60000000, 1, wClock (fun x => { x with valid := false }) up, accepted_of (by decide +kernel),
     by and_intros <;> decide +kernel⟩,
   ⟨h0, 2000 * 65536 + 19999, 40019999, 0, 24998750, up, accepted_of (by decide +kernel), by and_intros <;> decide +kernel⟩,
   ⟨h0, 2009 * 65536 + 1, 40180001, 225001250, up, accepted_of (by decide +kernel), by and_intros <;> decide +kernel⟩,
   ⟨h0, 2009 * 65536 + 1, 40180001, 225001250, up, accepted_of (by decide +kernel), by and_intros <;> decide +kernel⟩,
   ⟨60000000, 39999999, wClock (fun x => { x with pendingSet := some (60000000, 39999999) }) up, by decide +kernel, by decide +kernel⟩,
   ⟨-225001250, wClock (fun x => { x with pendingStep := some (-225001250) }) up, by decide +kernel⟩⟩

/-- The hypotheses of O48 are met. -/
theorem witness_TariffsAndDemand :
    (∃ (h : Hdr) (start : Nat) (tf : Nat) (s : State), Accepted h 0x0411 (le 1 1 ++ le 4 start ++ le 1 tf ++ le 1 0) s ∧ 1 ≤
      s.roles.role ∧ s.billing.active < 8 ∧ tf ≤ 7 ∧ start < 2 ^ 32 ∧ versionOf s tf ≠ 0 ∧ start * 20000 ≤ s.clock.legal + 691200000000 ∧
      s.clock.legal + 1200000 ≤ start * 20000 ∧ (calFind s (fun e => e.state != 0)).length ≤ 63 ∧ (∀ e ∈ calFind s (fun e => e.state !=
      0), e.start ≠ start)) ∧
    (∃ (e : CalEntry) (s : State), s.regionsRun = true ∧ dueEntry s = some e ∧ stepDue s = none) ∧
    (∃ (i : Nat) (s : State), s.regionsRun = true ∧ (calEntry s i).state = 2 ∧ ((calEntry s i).start + 86400) * 20000 ≤ s.clock.legal) ∧
    (∃ (s : State), s.regionsRun = true ∧ windowDue s = true ∧ stepDue s = none) ∧
    (∃ (c : Commit) (rest : List Commit) (e : Eval) (s : State), s.regionsRun = true ∧ s.billing.commits = c :: rest ∧ behind s c.tick =
      false ∧ c.reset = none ∧ rest.head?.all (fun d => behind s d.tick) = true ∧ s.billing.evals.filter (fun x => x.tick == c.tick) = [e]
      ∧ e.frozen = false) ∧
    (∃ (c : Commit) (rest : List Commit) (e : Eval) (s : State), s.regionsRun = true ∧ s.billing.commits = c :: rest ∧ behind s c.tick =
      false ∧ c.reset = none ∧ rest.head?.all (fun d => behind s d.tick) = true ∧ s.billing.evals.filter (fun x => x.tick == c.tick) = [e]
      ∧ e.frozen = true) ∧
    (∃ (c : Commit) (rest : List Commit) (s : State), s.billing.commits = c :: rest ∧ behind s c.tick = true) ∧
    (∃ (h : Hdr) (s : State), Accepted h 0x0412 [] s ∧ 1 ≤ s.roles.role ∧ (s.modes.mode = .standby ∨ s.modes.mode = .service) ∧
      s.billing.resetDue = none ∧ noRecordPlace s = false) ∧
    (∃ (a : Bool) (s : State), resetReady s = some a ∧ windowDue s = false ∧ dueEntry s = none ∧ stepDue s = none ∧ s.billing.commits =
      []) :=
  ⟨⟨h0, 2060, 7, wBilling (fun x => { x with active := 7, tariffs := vset x.tariffs 7 5 }) up, accepted_of (by decide +kernel),
     by and_intros <;> decide +kernel⟩,
   ⟨{ start := 2000, tariff := 7, state := 1 }, wBilling (fun x =>
     { x with calendar := vset x.calendar 63 { start := 2000, tariff := 7, state := 1 } }) up, by and_intros <;> decide +kernel⟩,
   ⟨63, wBilling (fun x => { x with calendar := vset x.calendar 63 { start := 2000, tariff := 7, state := 2 } }) (wClock (fun x =>
     { x with legal := 88400 * 20000 }) up), by and_intros <;> decide +kernel⟩,
   ⟨up, by and_intros <;> decide +kernel⟩,
   ⟨{ tick := 39990000 }, [], { tick := 39990000, energy := Vector.replicate 9 (3600000000, 5) }, wBilling (fun x =>
     { x with commits := [{ tick := 39990000 }], evals := [{ tick := 39990000, energy := Vector.replicate 9 (3600000000, 5) }] }) up,
     by and_intros <;> decide +kernel⟩,
   ⟨{ tick := 39990000 }, [], { tick := 39990000, frozen := true }, wBilling (fun x =>
     { x with commits := [{ tick := 39990000 }], evals := [{ tick := 39990000, frozen := true }] }) up, by and_intros <;> decide +kernel⟩,
   ⟨{ tick := 39999999 }, [], wBilling (fun x => { x with commits := [{ tick := 39999999 }] }) up, by decide +kernel, by decide +kernel⟩,
   ⟨h0, inMode .service up, accepted_of (by decide +kernel), by and_intros <;> decide +kernel⟩,
   ⟨true, wBilling (fun x => { x with resetDue := some true, subStart := 36000000 }) up, by and_intros <;> decide +kernel⟩⟩

/-- The hypotheses of O49 are met. -/
theorem witness_RecordsAndSeal :
    (∃ (h : Hdr) (q : Nat) (k : Nat) (s : State), Accepted h 0x0413 (le 8 q ++ le 1 k) s ∧ 1 ≤ s.roles.role ∧ q < 2 ^ 64 ∧ s.log.oldest
      ≤ q ∧ 1 ≤ k ∧ k ≤ 15) ∧
    (∃ (h : Hdr) (q : Nat) (s : State), Accepted h 0x0414 (le 8 q) s ∧ 1 ≤ s.roles.role ∧ q < 2 ^ 64 ∧ q ≤ newestSeq s) ∧
    (∃ (r : Record) (rest : List Record) (s : State), s.running = true ∧ s.log.overflow = [] ∧ unstoredRecords s = r :: rest ∧
      s.log.storedHi - s.log.acked < logCapacity) ∧
    (∃ (l : List Record) (t0 : Storage) (s : State), s.regionsRun = true ∧ s.power.pfw = false ∧ nextPage s = some l ∧ headSegment
      ((l.map (·.seq)).headD 0) s.store = some t0) ∧
    (∃ (s : State), s.regionsRun = true ∧ s.v3dUp = true ∧ s.rst.debugLocked = true ∧ s.seals.attemptDone = false) ∧
    (∃ (s : State), s.v3dUp = true ∧ s.regionsRun = false ∧ s.rst.debugLocked = true ∧ s.seals.attemptDone = false) ∧
    (∃ (s : State), (s.seals.attemptDone = true ∨ s.v3dUp = false ∨ s.rst.debugLocked = false)) ∧
    (∃ (h : Hdr) (s : State), Accepted h 0x0415 [] s ∧ s.roles.role = 3 ∧ s.modes.mode = .commissioning ∧ noRecordPlace s = false ∧
      s.seals.loopIntact = true ∧ s.seals.intactAt + 20000 ≤ s.clock.tick) ∧
    (∃ (h : Hdr) (s : State), Accepted h 0x0415 [] s ∧ s.roles.role = 3 ∧ s.modes.mode = .commissioning ∧ noRecordPlace s = false ∧
      (s.seals.loopIntact = false ∨ s.clock.tick < s.seals.intactAt + 20000)) ∧
    (∃ (d : Option Nat) (g : Segment) (r : Bool) (s : State), s.regionsRun = true ∧ s.shutting = false ∧ s.store.reclaim = none ∧
      reclaimSource d s = some (g, r) ∧ (r = false ∨ (leastErased s.store.free).isSome = true)) ∧
    (∃ (r : Reclaim) (s : State), s.regionsRun = true ∧ s.shutting = false ∧ s.store.reclaim = some r ∧ pageWaits s = false ∧ r.step =
      1) ∧
    (∃ (part : Nat) (s : State), s.regionsRun = true ∧ s.shutting = false ∧ part < 5 ∧ part ≠ 3) :=
  ⟨⟨h0, 1, 15, up, accepted_of (by decide +kernel), by and_intros <;> decide +kernel⟩,
   ⟨h0, 3, wLog (fun x => { x with seq := 4 }) up, accepted_of (by decide +kernel), by and_intros <;> decide +kernel⟩,
   ⟨{ seq := 1 }, [], wLog (fun x => { x with seq := 2, journal := [{ seq := 1 }] }) up, by and_intros <;> decide +kernel⟩,
   ⟨(List.range 16).map (fun i => { seq := i + 1 }), (headSegment 1 up.store).getD {}, wLog (fun x =>
     { x with seq := 17, storedHi := 16, journal := (List.range 16).map (fun i => { seq := i + 1 }) }) up,
     by and_intros <;> decide +kernel⟩,
   ⟨wRst (fun x => { x with debugLocked := true }) up, by and_intros <;> decide +kernel⟩,
   ⟨wRst (fun x => { x with phase := .held 2, debugLocked := true }) up, by and_intros <;> decide +kernel⟩,
   ⟨wSeals (fun x => { x with attemptDone := true }) up, by decide +kernel⟩,
   ⟨h0, inMode .commissioning (asRole 3 (wSeals (fun x => { x with loopIntact := true, broken := true, intactAt := 39980000 }) up)),
     accepted_of (by decide +kernel), by and_intros <;> decide +kernel⟩,
   ⟨h0, inMode .commissioning (asRole 3 (wSeals (fun x => { x with loopIntact := true, broken := true, intactAt := 39980001 }) up)),
     accepted_of (by decide +kernel), by and_intros <;> decide +kernel⟩,
   ⟨none, { id := 3, first := 1, count := 5 }, false, wLog (fun x => { x with acked := 5 }) (wStore (fun x =>
     { x with free := [], segments := [{ id := 3, first := 1, count := 5 }] }) up), by and_intros <;> decide +kernel⟩,
   ⟨{ step := 1, source := 3 }, wStore (fun x => { x with reclaim := some { step := 1, source := 3 } }) up,
     by and_intros <;> decide +kernel⟩,
   ⟨4, up, by and_intros <;> decide +kernel⟩⟩

/-- The hypotheses of O50 are met. -/
theorem witness_PilotAndProximity :
    (∃ (pl : Plateau) (l : List Int) (p : Nat) (s : State), s.regionsRun = true ∧ s.present pl.outlet = true ∧ (lk s pl.outlet).drive ≤
      1 ∧ pl.positive = true ∧ l = plateauSamples (lk s pl.outlet).drive pl.samples ∧ l ≠ [] ∧ plateauSpan l ≤ 1500 ∧ pilotBand (plateauMv
      l) = some p ∧ (lk s pl.outlet).diodeFault = false) ∧
    (∃ (pl : Plateau) (s : State), s.regionsRun = true ∧ s.present pl.outlet = true ∧ plateauForms (lk s pl.outlet).drive pl.positive =
      true ∧ 1500 < plateauSpan (plateauSamples (lk s pl.outlet).drive pl.samples) ∧ (lk s pl.outlet).disturbedRun ≠ 2 ∧ (pl.positive =
      true ∨ (lk s pl.outlet).diodeCheck = 0)) ∧
    (∃ (n : Nat) (mv : Nat) (s : State), s.regionsRun = true ∧ s.present n = true ∧ bit (lkCfg s n) 8 = true ∧ ppClass s n mv ≠ (lk s
      n).pp ∧ (lk s n).ppCandidate ≠ some (ppClass s n mv)) ∧
    (∃ (n : Nat) (mv : Nat) (s : State), s.regionsRun = true ∧ s.present n = true ∧ bit (lkCfg s n) 8 = true ∧ ppClass s n mv ≠ (lk s
      n).pp ∧ (lk s n).ppCandidate = some (ppClass s n mv)) ∧
    (∃ (n : Nat) (t0 : Nat) (s : State), n < 8 ∧ (lk s n).leaveAt = some t0 ∧ (lk s n).phase = 1 ∧ (lk s n).leave = none ∧ t0 + 200000 ≤
      s.clock.tick ∧ (lk s n).pilot = 1 ∧ linkWorks s = true ∧ available s n = true ∧ ppOk s n = true ∧ (lk s n).drive = 0 ∧ isT1s s n =
      false ∧ (lk s n).needA = false) ∧
    (∃ (n : Nat) (t0 : Nat) (s : State), n < 8 ∧ (lk s n).pwmAt = some t0 ∧ (lk s n).phase = 2 ∧ linkWorks s = true ∧ (lk s
      n).windowOpen = true ∧ t0 + slacInit s ≤ s.clock.tick) ∧
    (∃ (n : Nat) (t0 : Nat) (s : State), (lk s n).restartAt = some t0 ∧ linkWorks s = true ∧ (lk s n).phase = 8 ∧ t0 + 80000 ≤
      s.clock.tick) :=
  ⟨⟨{ outlet := 7, positive := true, samples := List.replicate 64 8000 }, List.replicate 64 8000, 1, plugged,
     by and_intros <;> decide +kernel⟩,
   ⟨{ outlet := 0, positive := true, samples := [8000, 9501] }, plugged, by and_intros <;> decide +kernel⟩,
   ⟨7, 4800, plugged, by and_intros <;> decide +kernel⟩,
   ⟨7, 4800, updLk 7 (fun x => { x with ppCandidate := some 0 }) plugged, by and_intros <;> decide +kernel⟩,
   ⟨7, 39800000, updLk 7 (fun x => { x with leaveAt := some 39800000 }) (linked 1), by and_intros <;> decide +kernel⟩,
   ⟨7, 38000000, updLk 7 (fun x => { x with pwmAt := some 38000000, windowOpen := true }) (linked 2), by and_intros <;> decide +kernel⟩,
   ⟨7, 39920000, updLk 7 (fun x => { x with restartAt := some 39920000 }) (linked 8), by and_intros <;> decide +kernel⟩⟩

/-- The hypotheses of O51 are met. -/
theorem witness_TriangulationBinds :
    (∃ (mac : Nat) (run : Nat) (atten : List (Option Nat)) (c : Nat) (a : Nat) (d : Int) (s : State), strongest (heardLines s atten) =
      some (c, a) ∧ linkWorks s = true ∧ setOf s mac run = none ∧ s.link.sets.length < 8 ∧ (lk s c).phase = 2 ∧ (lk s c).windowOpen = true
      ∧ s.link.sets.any (fun t => t.cand == c) = false ∧ lowestMargin c a (heardLines s atten) = some d) ∧
    (∃ (mac : Nat) (run : Nat) (x : SoundSet) (s : State), setOf s mac run = some x ∧ x.stage ≤ 2 ∧ linkWorks s = true) ∧
    (∃ (mac : Nat) (run : Nat) (x : SoundSet) (s : State), setOf s mac run = some x ∧ x.stage ≤ 2 ∧ x.cand < 8 ∧ linkWorks s = true) ∧
    (∃ (mac : Nat) (run : Nat) (x : SoundSet) (s : State), setOf s mac run = some x ∧ x.stage = 3 ∧ x.cand < 8 ∧ linkWorks s = true ∧
      (lk s x.cand).windowOpen = true ∧ (lk s x.cand).pilot = 1) ∧
    (∃ (n : Nat) (mac : Nat) (s : State), linkWorks s = true ∧ ccsLine s n = true ∧ s.link.sets.any (fun t => t.mac == mac && t.cand ==
      n) = true) ∧
    (∃ (mac : Nat) (run : Nat) (x : SoundSet) (s : State), setOf s mac run = some x ∧ x.stage = 4 ∧ x.cand < 8 ∧ linkWorks s = true ∧
      (lk s x.cand).phase = 2) ∧
    (∃ (mac : Nat) (run : Nat) (x : SoundSet) (s : State), setOf s mac run = some x ∧ x.stage = 4 ∧ x.cand < 8 ∧ linkWorks s = true ∧
      x.matchAt + 240000 ≤ s.clock.tick) ∧
    (∃ (mac : Nat) (run : Nat) (x : SoundSet) (s : State), setOf s mac run = some x ∧ x.stage < 4 ∧ linkWorks s = true ∧ x.last + 40000
      ≤ s.clock.tick) :=
  ⟨⟨5, 9, [some 30, none, none, none, none, none, none, some 20], 7, 20, 10, updLk 0 (fun y => { y with phase := 2 }) (updLk 7 (fun y =>
     { y with windowOpen := true }) (linked 2)), by and_intros <;> decide +kernel⟩,
   ⟨5, 9, sounding 2, sounded 2, by and_intros <;> decide +kernel⟩,
   ⟨5, 9, sounding 2, sounded 2, by and_intros <;> decide +kernel⟩,
   ⟨5, 9, sounding 3, sounded 3, by and_intros <;> decide +kernel⟩,
   ⟨7, 5, sounded 3, by and_intros <;> decide +kernel⟩,
   ⟨5, 9, sounding 4, sounded 4, by and_intros <;> decide +kernel⟩,
   ⟨5, 9, sounding 4, sounded 4, by and_intros <;> decide +kernel⟩,
   ⟨5, 9, sounding 3, sounded 3, by and_intros <;> decide +kernel⟩⟩

/-- The hypotheses of O52 are met. -/
theorem witness_LinksRunAndEnd :
    (∃ (n : Nat) (s : State), linkWorks s = true ∧ available s n = true ∧ isT1s s n = true ∧ ppOk s n = true ∧ pilotReady s n = true ∧
      linkRuns s n = false) ∧
    (∃ (n : Nat) (s : State), linkWorks s = true ∧ isT1s s n = true ∧ linkRuns s n = true) ∧
    (∃ (n : Nat) (offered : List Nat) (k : Nat) (s : State), linkWorks s = true ∧ frameTaken s n = true ∧ (lk s n).phase = 3 ∧
      chooseProtocol s n offered = some k) ∧
    (∃ (n : Nat) (offered : List Nat) (s : State), n < 8 ∧ linkWorks s = true ∧ frameTaken s n = true ∧ (lk s n).phase = 3 ∧
      chooseProtocol s n offered = none ∧ (sq s n).state = 0) ∧
    (∃ (n : Nat) (s : State), n < 8 ∧ linkWorks s = true ∧ 3 ≤ (lk s n).phase ∧ (lk s n).phase ≤ 7) ∧
    (∃ (n : Nat) (s : State), n < 8 ∧ linkWorks s = true ∧ frameTaken s n = true ∧ 3 ≤ (lk s n).phase ∧ (lk s n).phase ≤ 7) ∧
    (∃ (h : Hdr) (n : Nat) (g : Nat) (s : State), Accepted h 0x0511 (le 1 n ++ le 1 g) s ∧ 1 ≤ s.roles.role ∧ (s.modes.mode = .standby ∨
      s.modes.mode = .service) ∧ s.present n = true ∧ g ≤ 2 ∧ linkRuns s n = true ∧ (lk s n).stopAt = none) ∧
    (∃ (n : Nat) (t0 : Nat) (s : State), n < 8 ∧ (lk s n).stopAt = some t0 ∧ linkWorks s = true ∧ t0 + stopGrace s ≤ s.clock.tick) :=
  ⟨⟨7, t1s plugged, by and_intros <;> decide +kernel⟩,
   ⟨7, t1s (linked 3), by and_intros <;> decide +kernel⟩,
   ⟨7, [1, 3], 3, linked 3, by and_intros <;> decide +kernel⟩,
   ⟨7, [9], linked 3, by and_intros <;> decide +kernel⟩,
   ⟨7, linked 3, by and_intros <;> decide +kernel⟩,
   ⟨7, linked 3, by and_intros <;> decide +kernel⟩,
   ⟨h0, 7, 2, linked 2, accepted_of (by decide +kernel), by and_intros <;> decide +kernel⟩,
   ⟨7, 39000000, updLk 7 (fun y => { y with stopAt := some 39000000 }) (linked 7), by and_intros <;> decide +kernel⟩⟩

/-- The hypotheses of O53 are met. -/
theorem witness_AuthorizationDecides :
    (∃ (n : Nat) (s : State), n < 8 ∧ linkWorks s = true ∧ frameTaken s n = true ∧ (lk s n).phase = 4 ∧ refuseCause s n = 0) ∧
    (∃ (n : Nat) (s : State), n < 8 ∧ linkWorks s = true ∧ frameTaken s n = true ∧ (lk s n).phase = 4 ∧ refuseCause s n ≠ 0) ∧
    (∃ (n : Nat) (t0 : Nat) (s : State), n < 8 ∧ (lk s n).refuseAt = some t0 ∧ linkWorks s = true ∧ (lk s n).phase = 5 ∧ t0 + refuseHold
      s ≤ s.clock.tick ∧ refuseCause s n ≠ 0) ∧
    (∃ (n : Nat) (r : AuthReq) (s : State), n < 8 ∧ openAuth s n = some r ∧ linkWorks s = true ∧ r.deadline ≤ s.clock.tick ∧ linkRuns s
      n = true) ∧
    (∃ (h : Hdr) (k : Nat) (rest : Nat) (r : AuthReq) (s : State), Accepted h 0x0510 (le 4 k ++ le 1 0 ++ le 1 0 ++ le 4 rest) s ∧ 1 ≤
      s.roles.role ∧ (s.modes.mode = .standby ∨ s.modes.mode = .service) ∧ k < 2 ^ 32 ∧ authNo s k = some r ∧ r.state = 0 ∧ r.outlet < 8 ∧
      linkRuns s r.outlet = true) ∧
    (∃ (h : Hdr) (k : Nat) (rest : Nat) (r : AuthReq) (s : State), Accepted h 0x0510 (le 4 k ++ le 1 1 ++ le 1 0 ++ le 4 rest) s ∧ 1 ≤
      s.roles.role ∧ (s.modes.mode = .standby ∨ s.modes.mode = .service) ∧ k < 2 ^ 32 ∧ authNo s k = some r ∧ r.state = 0) ∧
    (∃ (a : Awaiting) (r : AuthReq) (s : State), authNo s (numAt a.payload 0 4) = some r ∧ r.state = 0 ∧ s.present r.outlet = true ∧ (lk
      s r.outlet).phase = 5 ∧ refuseCause s r.outlet = 0 ∧ (lk s r.outlet).talker = (lk s r.outlet).evMac ∧ ppOk s r.outlet = true ∧
      s.sessionOpen r.outlet = false) ∧
    (∃ (h : Hdr) (k : Nat) (subject : List Byte) (s : State), Accepted h 0x0512 (le 1 k ++ subject) s ∧ 2 ≤ s.roles.role ∧ standbyOrComm
      s = true ∧ k ≤ 1 ∧ subject.length = 64) ∧
    (∃ (h : Hdr) (k : Nat) (der : List Byte) (s : State), Accepted h 0x0513 (le 1 k ++ le 2 der.length ++ der) s ∧ 2 ≤ s.roles.role ∧
      standbyOrComm s = true ∧ k ≤ 5 ∧ 1 ≤ der.length ∧ der.length ≤ 4000) :=
  ⟨⟨7, updLk 7 (fun y => { y with phase := 4 }) trading, by and_intros <;> decide +kernel⟩,
   ⟨7, linked 4, by and_intros <;> decide +kernel⟩,
   ⟨7, 38000000, updLk 7 (fun y => { y with refuseAt := some 38000000 }) (linked 5), by and_intros <;> decide +kernel⟩,
   ⟨7, asking, wLink (fun x => { x with requests := [asking] }) (linked 5), by and_intros <;> decide +kernel⟩,
   ⟨h0, 4, 77, asking, wLink (fun x => { x with requests := [asking] }) (linked 5), accepted_of (by decide +kernel),
     by and_intros <;> decide +kernel⟩,
   ⟨h0, 4, 77, asking, wLink (fun x => { x with requests := [asking] }) (linked 5), accepted_of (by decide +kernel),
     by and_intros <;> decide +kernel⟩,
   ⟨{ payload := [4] }, asking, wLink (fun x => { x with requests := [asking] }) (updLk 7 (fun y => { y with phase := 5 }) trading),
     by and_intros <;> decide +kernel⟩,
   ⟨h0, 1, List.replicate 64 7, up, accepted_of (by decide +kernel), by and_intros <;> decide +kernel⟩,
   ⟨h0, 5, [48], up, accepted_of (by decide +kernel), by and_intros <;> decide +kernel⟩⟩

/-- The hypotheses of O54 are met. -/
theorem witness_SwitchingSequence :
    (∃ (n : Nat) (s : State), mayDeliver s n = true ∧ (sq s n).state = 0 ∧ ownerOf s n = none ∧ s.sw.jobs.any (fun j => bit j.segments
      n) = false ∧ (sq s n).vVeh.natAbs < 60000 ∧ (sq s n).vBus.natAbs < 60000 ∧ (drv s (2 * n)).state = 0 ∧ (drv s (2 * n + 1)).state =
      0) ∧
    (∃ (n : Nat) (s : State), s.regionsRun = true ∧ s.shutting = false ∧ s.present n = true ∧ s.sessionOpen n = true ∧ (sq s n).state =
      0 ∧ mayDeliver s n = false) ∧
    (∃ (n : Nat) (s : State), s.regionsRun = true ∧ s.shutting = false ∧ s.present n = true ∧ (sq s n).state = 3 ∧ 2 ≤ (sq s n).passRun) ∧
    (∃ (n : Nat) (s : State), s.regionsRun = true ∧ s.shutting = false ∧ s.present n = true ∧ (sq s n).state = 4 ∧ 10 ≤ (sq s
      n).matchRun) ∧
    (∃ (n : Nat) (s : State), s.regionsRun = true ∧ s.shutting = false ∧ s.present n = true ∧ 2 ≤ (sq s n).state ∧ (sq s n).state ≤ 5) ∧
    (∃ (n : Nat) (s : State), s.regionsRun = true ∧ s.shutting = false ∧ s.present n = true ∧ (sq s n).state = 5) ∧
    (∃ (d : Nat) (s : State), (drv s d).state = 1 ∧ (drv s d).pullAt + msF (pullInMs s d) ≤ s.now) ∧
    (∃ (d : Nat) (s : State), d < 24 ∧ s.power.supply = .on) ∧
    (∃ (n : Nat) (b : Bool) (s : State), n < 8 ∧ s.power.supply = .on ∧ s.shutting = false ∧ s.faults.globalSafe = false ∧ (sq s
      n).state = 1 ∧ (drv s (2 * n)).cmd = true ∧ (drv s (2 * n + 1)).cmd = true ∧ (drv s (2 * n + b1 (!b))).mainOpen = false) ∧
    (∃ (n : Nat) (b : Bool) (s : State), n < 8 ∧ s.power.supply = .on ∧ (sq s n).state = 7 ∧ (drv s (2 * n)).cmd = false ∧ (drv s (2 * n
      + 1)).cmd = false ∧ (drv s (2 * n + b1 (!b))).mainOpen = true ∧ 100000 ≤ (sq s n).vVeh) ∧
    (∃ (d : Nat) (s : State), d < 16 ∧ s.present (d / 2) = true ∧ (drv s d).expect = some true ∧ (drv s d).changedAt + msF (fld (kCfg s
      d) 32 8) ≤ s.now) ∧
    (∃ (d : Nat) (s : State), d < 16 ∧ (drv s d).expect = some false ∧ (drv s d).changedAt + msF (fld (kCfg s d) 24 8) ≤ s.now) ∧
    (∃ (d : Nat) (k : Nat) (s : State), d < 16 ∧ (k = 1 ∨ k = 2) ∧ (drv s d).state ≠ 3 ∧ s.regionsRun = true) ∧
    (∃ (d : Nat) (t0 : Nat) (s : State), d < 24 ∧ (drv s d).hwOff = some t0 ∧ t0 + msF 5 ≤ s.now) ∧
    (∃ (n : Nat) (s : State), n < 8 ∧ (sq s n).state = 2 ∧ (sq s n).since + msF 100 ≤ s.now) ∧
    (∃ (n : Nat) (s : State), n < 8 ∧ (sq s n).state = 3 ∧ (sq s n).passRun < 2 ∧ (sq s n).since + secF (fld (swCfg s n) 40 8) ≤ s.now) ∧
    (∃ (n : Nat) (s : State), n < 8 ∧ 2 ≤ (sq s n).state ∧ (sq s n).state ≤ 5 ∧ 10 ≤ (sq s n).apartRun) ∧
    (∃ (n : Nat) (r : Ramp) (s : State), n < 8 ∧ (sq s n).ramp = some r ∧ (sq s n).state = 6 ∧ r.t0 + r.len ≤ s.now ∧ r.threshold ≤ (sq
      s n).iOut.natAbs) ∧
    (∃ (n : Nat) (v : Int) (w : Int) (s : State), s.regionsRun = true ∧ s.present n = true ∧ modEnabled s n 1 = true ∧ fastOc s n v =
      true ∧ fastOc s n w = true ∧ 1 ≤ (sq s n).state ∧ (sq s n).state ≤ 6) ∧
    (∃ (n : Nat) (s : State), n < 8 ∧ (sq s n).state = 8 ∧ (sq s n).discharge = true ∧ (sq s n).welded = false ∧ (sq s n).since + msF
      200 ≤ s.now) :=
  ⟨⟨0, delivering, by and_intros <;> decide +kernel⟩,
   ⟨0, updIn' 0 0 (fun i => { i with stuck := true }) (withSession 0 up), by and_intros <;> decide +kernel⟩,
   ⟨0, updSq 0 (fun y => { y with state := 3, passRun := 2 }) up, by and_intros <;> decide +kernel⟩,
   ⟨0, updSq 0 (fun y => { y with state := 4, matchRun := 10 }) up, by and_intros <;> decide +kernel⟩,
   ⟨7, updSq 7 (fun y => { y with state := 2, iOut := -100000 }) up, by and_intros <;> decide +kernel⟩,
   ⟨0, updSq 0 (fun y => { y with state := 5 }) up, by and_intros <;> decide +kernel⟩,
   ⟨23, updDrv 23 (fun y => { y with state := 1 }) up, by decide +kernel, by decide +kernel⟩,
   ⟨16, up, by decide +kernel, by decide +kernel⟩,
   ⟨0, true, updSq 0 (fun y => { y with state := 1 }) (updDrv 0 (fun y => { y with cmd := true }) (updDrv 1 (fun y =>
     { y with cmd := true }) up)), by and_intros <;> decide +kernel⟩,
   ⟨7, false, updSq 7 (fun y => { y with state := 7, vVeh := 100000 }) (updDrv 15 (fun y => { y with mainOpen := true }) up),
     by and_intros <;> decide +kernel⟩,
   ⟨15, updDrv 15 (fun y => { y with expect := some true }) up, by and_intros <;> decide +kernel⟩,
   ⟨0, updSq 0 (fun y => { y with state := 1 }) (updDrv 0 (fun y => { y with expect := some false, cmd := true }) up),
     by and_intros <;> decide +kernel⟩,
   ⟨15, 2, updDrv 15 (fun y => { y with cmd := true }) up, by and_intros <;> decide +kernel⟩,
   ⟨23, 39999900, updDrv 23 (fun y => { y with hwOff := some 39999900, cmd := true }) up, by and_intros <;> decide +kernel⟩,
   ⟨7, updSq 7 (fun y => { y with state := 2, since := 39998000, vVeh := 40000 }) up, by and_intros <;> decide +kernel⟩,
   ⟨0, updSq 0 (fun y => { y with state := 3, passRun := 1 }) up, by and_intros <;> decide +kernel⟩,
   ⟨0, updSq 0 (fun y => { y with state := 5, apartRun := 10 }) up, by and_intros <;> decide +kernel⟩,
   ⟨0, { t0 := 39999000, len := 400, threshold := 2000 }, updSq 0 (fun y =>
     { y with state := 6, iOut := 5000, ramp := some { t0 := 39999000, len := 400, threshold := 2000 } }) (updDrv 0 (fun y =>
     { y with cmd := true }) up), by and_intros <;> decide +kernel⟩,
   ⟨0, 16380, -16380, updSq 0 (fun y => { y with state := 5 }) (updDrv 0 (fun y => { y with cmd := true }) (wSeals (fun x =>
     { x with cal := vset x.cal 0 (2 ^ 64) }) up)), by and_intros <;> decide +kernel⟩,
   ⟨0, updSq 0 (fun y => { y with state := 8, discharge := true, since := 39996000, follows := true, busAt := 400000, vBus := 350000 })
     up, by and_intros <;> decide +kernel⟩⟩

/-- The hypotheses of O55 are met. -/
theorem witness_BusesModulesSafety :
    (∃ (h : Hdr) (n : Nat) (m : Nat) (d : Nat) (s : State), Accepted h 0x0610 (le 1 n ++ le 1 m) s ∧ 1 ≤ s.roles.role ∧ s.modes.mode =
      .service ∧ s.present n = true ∧ s.present m = true ∧ n ≠ m ∧ joinDriver s n m = some d ∧ matrixClosed s < 7 ∧ (sq s n).state = 5 ∧
      (sq s m).state = 0 ∧ ownerOf s m = none ∧ s.sw.jobs.any (fun j => bit j.segments m) = false ∧ pullInFits s d = true) ∧
    (∃ (m : Nat) (j : BusJob) (s : State), s.sw.jobs.find? (fun j => j.segment == m && j.join && j.phase == 0 && decide (10 ≤ j.run)) =
      some j) ∧
    (∃ (h : Hdr) (m : Nat) (n : Nat) (s : State), Accepted h 0x0611 (le 1 m) s ∧ 1 ≤ s.roles.role ∧ s.modes.mode = .service ∧ s.present
      m = true ∧ ownerOf s m = some n ∧ n ≠ m ∧ (busReleaseCmd h (le 1 m) s).params = true ∧ s.sw.jobs.any (fun j => j.segments &&&
      releaseSet s n m != 0) = false) ∧
    (∃ (b : Nat) (s : State), s.regionsRun = true ∧ b < 2 ∧ s.now % 10 = 0) ∧
    (∃ (m : Nat) (p : List Byte) (s : State), s.regionsRun = true ∧ pmReached s m = true ∧ m < 16 ∧ canValid 8 (pmod s m).counter p =
      true) ∧
    (∃ (m : Nat) (p : List Byte) (s : State), s.regionsRun = true ∧ pmReached s m = true ∧ m < 16 ∧ canValid 4 (pmod s m).faultCounter p
      = true) ∧
    (∃ (m : Nat) (s : State), s.regionsRun = true ∧ pmEnabled s m = true ∧ m < 16 ∧ (pmod s m).health ≠ 3 ∧ (pmod s m).lastAt + msF 50 ≤
      s.now) ∧
    (∃ (i : Nat) (a : Bool) (b : Bool) (s : State), s.regionsRun = true ∧ i < 8 ∧ inFunc s i ≠ 0 ∧ (demandA (confirmedA s i a) = true ∨
      demandB (inCfg s i) (confirmedB s i b) = true)) ∧
    (∃ (i : Nat) (a : Bool) (b : Bool) (s : State), s.regionsRun = true ∧ i < 8 ∧ (sin s i).demand = true ∧ (sin s i).fault = false ∧
      inputIsolated s i = false ∧ demandA (confirmedA s i a) = false ∧ demandB (inCfg s i) (confirmedB s i b) = false) ∧
    (∃ (i : Nat) (t0 : Nat) (s : State), s.regionsRun = true ∧ i < 8 ∧ (sin s i).apartAt = some t0 ∧ t0 + msF (fld (inCfg s i) 24 8) ≤
      s.now) ∧
    (∃ (k : Nat) (s : State), s.regionsRun = true ∧ k < 4 ∧ s.clock.legal % 20000 = k * 5000 ∧ (∀ i, i < 8 → inFunc s i = 0 ∨ (sin s
      i).demand = true ∨ (4 ≤ fld (inCfg s i) 4 3 ∧ 4 ≤ fld (inCfg s i) 7 3))) ∧
    (∃ (k : Nat) (i : Nat) (s : State), s.regionsRun = true ∧ k < 4 ∧ s.clock.legal % 20000 = k * 5000 ∧ i < 8 ∧ inFunc s i ≠ 0 ∧ (sin s
      i).demand = false ∧ fld (inCfg s i) 4 3 = k) ∧
    (∃ (d : Nat) (s : State), s.regionsRun = true ∧ d < 16 ∧ s.clock.legal % 20000 = 800 * d ∧ (drv s d).hwOff = none ∧ (drv s d).state
      ≤ 2) ∧
    (∃ (h : Hdr) (i : Nat) (s : State), Accepted h 0x0612 (le 1 (2 ^ i)) s ∧ 1 ≤ s.roles.role ∧ i < 8 ∧ (sin s i).demand = false ∧ (sin
      s i).fault = false) ∧
    (∃ (h : Hdr) (s : State), Accepted h 0x0613 [] s ∧ 2 ≤ s.roles.role ∧ s.modes.mode = .commissioning ∧ s.sw.testAt = none) ∧
    (∃ (t0 : Nat) (s : State), s.sw.testAt = some t0 ∧ t0 + secF 1800 ≤ s.now) ∧
    (∃ (h : Hdr) (n : Nat) (s : State), Accepted h 0x0614 (le 1 n) s ∧ 2 ≤ s.roles.role ∧ standbyOrComm s = true ∧ s.present n = true ∧
      (sq s n).state = 9) ∧
    (∃ (h : Hdr) (d : Nat) (s : State), Accepted h 0x0615 (le 1 d ++ le 1 0) s ∧ 1 ≤ s.roles.role ∧ (s.modes.mode = .standby ∨
      s.modes.mode = .service ∨ s.modes.mode = .commissioning) ∧ isAux s d = true) ∧
    (∃ (h : Hdr) (d : Nat) (s : State), Accepted h 0x0615 (le 1 d ++ le 1 1) s ∧ 1 ≤ s.roles.role ∧ (s.modes.mode = .standby ∨
      s.modes.mode = .service ∨ s.modes.mode = .commissioning) ∧ isAux s d = true ∧ emergencyHeld s = false ∧ (drv s d).state = 0 ∧ (drv s
      d).cmd = false ∧ (drv s d).req = none) ∧
    (∃ (h : Hdr) (n : Nat) (m : Nat) (d : Nat) (s : State), Accepted h 0x0610 (le 1 n ++ le 1 m) s ∧ 1 ≤ s.roles.role ∧ s.modes.mode =
      .service ∧ s.present n = true ∧ s.present m = true ∧ n ≠ m ∧ joinDriver s n m = some d ∧ matrixClosed s < 7 ∧ (sq s n).state = 5 ∧
      (sq s m).state = 0 ∧ ownerOf s m = none ∧ s.sw.jobs.any (fun j => bit j.segments m) = false ∧ pullInFits s d = false) :=
  ⟨⟨h0, 0, 1, 16, inMode .service (updSq 0 (fun y => { y with state := 5 }) (setOwner 0 (some 0) up)), accepted_of (by decide +kernel),
     by and_intros <;> decide +kernel⟩,
   ⟨1, { segment := 1, segments := 2, run := 10 },
     { up with sw := { up.sw with jobs := [{ segment := 1, segments := 2, run := 10 }] } }, by decide +kernel⟩,
   ⟨h0, 1, 0, inMode .service (setOwner 0 (some 0) (setOwner 1 (some 0) (updDrv 16 (fun y => { y with cmd := true }) up))), accepted_of
     (by decide +kernel), by and_intros <;> decide +kernel⟩,
   ⟨1, up, by and_intros <;> decide +kernel⟩,
   ⟨0, canPayload (le 1 0 ++ le 2 5000 ++ le 2 10 ++ le 1 65 ++ le 2 0) 7, pmUp, by and_intros <;> decide +kernel⟩,
   ⟨0, canPayload (le 2 3 ++ le 2 0) 7, pmUp, by and_intros <;> decide +kernel⟩,
   ⟨15, pmUp, by and_intros <;> decide +kernel⟩,
   ⟨0, false, false, updSq 0 (fun y => { y with state := 5 }) (updDrv 0 (fun y => { y with cmd := true }) inUp),
     by and_intros <;> decide +kernel⟩,
   ⟨0, true, true, updIn 0 (fun x => { x with demand := true }) inUp, by and_intros <;> decide +kernel⟩,
   ⟨7, 39000000, updIn 7 (fun x => { x with apartAt := some 39000000 }) inUp, by and_intros <;> decide +kernel⟩,
   ⟨3, { up with clock := { up.clock with legal := 15000 } }, by and_intros <;> decide +kernel⟩,
   ⟨0, 0, inUp, by and_intros <;> decide +kernel⟩,
   ⟨15, { up with clock := { up.clock with legal := 12000 } }, by and_intros <;> decide +kernel⟩,
   ⟨h0, 7, updIn 7 (fun x => { x with await := true }) inUp, accepted_of (by decide +kernel), by and_intros <;> decide +kernel⟩,
   ⟨h0, inMode .commissioning inUp, accepted_of (by decide +kernel), by and_intros <;> decide +kernel⟩,
   ⟨1000000, { up with sw := { up.sw with testAt := some 1000000 } }, by decide +kernel, by decide +kernel⟩,
   ⟨h0, 7, updSq 7 (fun y => { y with state := 9 }) (updDrv 14 (fun y => { y with state := 4, mainOpen := true }) (updDrv 15 (fun y =>
     { y with mainOpen := true }) up)), accepted_of (by decide +kernel), by and_intros <;> decide +kernel⟩,
   ⟨h0, 23, auxUp, accepted_of (by decide +kernel), by and_intros <;> decide +kernel⟩,
   ⟨h0, 23, auxUp, accepted_of (by decide +kernel), by and_intros <;> decide +kernel⟩,
   ⟨h0, 0, 1, 16, wEase (fun x => { x with vauxBudget := 0 }) (inMode .service (updSq 0 (fun y => { y with state := 5 }) (setOwner 0
     (some 0) { up with sw := { up.sw with kdrv := vset up.sw.kdrv 16 (2 ^ 41) } }))), accepted_of (by decide +kernel),
     by and_intros <;> decide +kernel⟩⟩

/-- The hypotheses of O56 are met. -/
theorem witness_LoadChannelsFollowTable :
    (∃ (h : Hdr) (c : Nat) (d : Nat) (s : State), Accepted h 0x0710 (le 1 c ++ le 1 1 ++ le 2 d) s ∧ 1 ≤ s.roles.role ∧ s.modes.mode ≠
      .monument ∧ c < 16 ∧ (chn s c).state = 0 ∧ (chn s c).isolated = false ∧ bankHeld s (c / 4) = false ∧ windowBusy s (c / 4) = false ∧
      (bnk s (c / 4)).queue = [] ∧ (chn s c).req = none) ∧
    (∃ (h : Hdr) (c : Nat) (d : Nat) (s : State), Accepted h 0x0710 (le 1 c ++ le 1 2 ++ le 2 d) s ∧ 1 ≤ s.roles.role ∧ s.modes.mode ≠
      .monument ∧ c < 16 ∧ 1 ≤ d ∧ d ≤ 999 ∧ (chn s c).state = 3 ∧ (chn s c).isolated = false ∧ (bnk s (c / 4)).isolated = false) ∧
    (∃ (h : Hdr) (c : Nat) (d : Nat) (s : State), Accepted h 0x0710 (le 1 c ++ le 1 0 ++ le 2 d) s ∧ 1 ≤ s.roles.role ∧ s.modes.mode ≠
      .monument ∧ c < 16) ∧
    (∃ (h : Hdr) (k : Nat) (s : State), Accepted h 0x0711 (le 1 k) s ∧ 1 ≤ s.roles.role ∧ s.modes.mode ≠ .monument ∧ k < 4 ∧ (bnk s
      k).gndLost = true ∧ (bnk s k).gndGood = true ∧ 17500 ≤ (bnk s k).vbb) ∧
    (∃ (c : Nat) (t0 : Nat) (s : State), (chn s c).retryAt = some t0 ∧ (chn s c).state = 1 ∧ t0 + secF 1 ≤ s.now ∧ windowBusy s (c / 4)
      = false ∧ (bnk s (c / 4)).queue = [] ∧ c < 16 ∧ (chn s c).req = none) ∧
    (∃ (c : Nat) (t0 : Nat) (s : State), c < 16 ∧ (chn s c).window = some t0 ∧ (chn s c).state = 2 ∧ t0 + msF (inrushMs (chn s
      c).active) ≤ s.now) ∧
    (∃ (k : Nat) (s : State), s.regionsRun = true ∧ k < 4 ∧ periodOver s k = true) ∧
    (∃ (c : Nat) (temp : Int) (s : State), s.regionsRun = true ∧ c < 16 ∧ 1700 ≤ temp) ∧
    (∃ (temp : Int) (s : State), s.regionsRun = true ∧ temp ≤ 1550) ∧
    (∃ (c : Nat) (s : State), c < 16 ∧ (chn s c).state = 3 ∧ overloadMs (chn s c).active ≠ 0 ∧ 10000 * overloadMs (chn s c).active ≤
      (chn s c).limitTime) ∧
    (∃ (c : Nat) (s : State), c < 16 ∧ (chn s c).state = 3 ∧ openLoadEn (chn s c).active = true ∧ (chn s c).openLoad = false ∧ openDue s
      c = true) ∧
    (∃ (c : Nat) (s : State), c < 16 ∧ (chn s c).state = 3 ∧ (chn s c).openLoad = true ∧ openDue s c = true) ∧
    (∃ (c : Nat) (s : State), c < 16 ∧ (chn s c).state = 4 ∧ (chn s c).waitEnd ≤ s.now ∧ (chn s c).latch = false) ∧
    (∃ (c : Nat) (s : State), chOn s c = true ∧ (chn s c).onAt + secF 10 ≤ s.now) ∧
    (∃ (k : Nat) (mv : Nat) (s : State), s.regionsRun = true ∧ k < 4 ∧ (bnk s k).uv = false ∧ mv ≤ 16500) ∧
    (∃ (k : Nat) (mv : Nat) (s : State), s.regionsRun = true ∧ k < 4 ∧ (bnk s k).ov = false ∧ 35000 ≤ mv) ∧
    (∃ (k : Nat) (s : State), s.regionsRun = true ∧ k < 4 ∧ (bnk s k).gndLost = false) ∧
    (∃ (k : Nat) (s : State), s.regionsRun = true ∧ k < 4 ∧ (bnk s k).reverse = false) ∧
    (∃ (k : Nat) (t0 : Nat) (c : Nat) (s : State), s.regionsRun = true ∧ k < 4 ∧ (bnk s k).overSince = some t0 ∧ latestOn s k = some c ∧
      t0 + secF 1 ≤ s.now ∧ c < 16) ∧
    (∃ (k : Nat) (mv : Nat) (s : State), s.regionsRun = true ∧ k < 4 ∧ (bnk s k).ov = true ∧ mv < 35000) ∧
    (∃ (k : Nat) (mv : Nat) (s : State), s.regionsRun = true ∧ k < 4 ∧ (bnk s k).uv = true ∧ (bnk s k).lockout = false ∧ 17000 ≤ mv) :=
  ⟨⟨h0, 15, 0, up, accepted_of (by decide +kernel), by and_intros <;> decide +kernel⟩,
   ⟨h0, 0, 999, updCh 0 (fun y => { y with state := 3 }) up, accepted_of (by decide +kernel), by and_intros <;> decide +kernel⟩,
   ⟨h0, 15, 0, updCh 15 (fun y => { y with state := 6, cmd := true, retries := 2 }) up, accepted_of (by decide +kernel),
     by and_intros <;> decide +kernel⟩,
   ⟨h0, 3, updBank 3 (fun b => { b with gndLost := true, gndGood := true, vbb := 17500 }) up, accepted_of (by decide +kernel),
     by and_intros <;> decide +kernel⟩,
   ⟨15, 39000000, updCh 15 (fun y => { y with state := 1, retryAt := some 39000000 }) up, by and_intros <;> decide +kernel⟩,
   ⟨15, 39000000, updCh 15 (fun y => { y with state := 2, window := some 39000000 }) up, by and_intros <;> decide +kernel⟩,
   ⟨3, updCh 15 (fun y => { y with next := some (true, 500) }) up, by and_intros <;> decide +kernel⟩,
   ⟨15, 1700, updCh 15 (fun y => { y with state := 3 }) up, by and_intros <;> decide +kernel⟩,
   ⟨1550, updCh 15 (fun y => { y with latch := true }) up, by decide +kernel, by decide +kernel⟩,
   ⟨0, updCh 0 (fun y => { y with state := 3, limitTime := 100000, active := 0x0005000A0003 }) up, by and_intros <;> decide +kernel⟩,
   ⟨0, updCh 0 (fun y => { y with state := 3, active := 8, openTime := 500000 }) up, by and_intros <;> decide +kernel⟩,
   ⟨15, updCh 15 (fun y => { y with state := 3, openLoad := true, openTime := 500000 }) up, by and_intros <;> decide +kernel⟩,
   ⟨0, updCh 0 (fun y => { y with state := 4, active := 0x30, retries := 2 }) up, by and_intros <;> decide +kernel⟩,
   ⟨0, updCh 0 (fun y => { y with state := 3, retries := 2 }) up, by decide +kernel, by decide +kernel⟩,
   ⟨3, 16500, updCh 15 (fun y => { y with state := 3 }) (updBank 3 (fun b => { b with uvAt := [39999000, 39998000, 39997000] }) up),
     by and_intros <;> decide +kernel⟩,
   ⟨3, 35000, updCh 15 (fun y => { y with state := 3 }) up, by and_intros <;> decide +kernel⟩,
   ⟨0, updCh 0 (fun y => { y with state := 2 }) up, by and_intros <;> decide +kernel⟩,
   ⟨0, updCh 3 (fun y => { y with state := 2 }) up, by and_intros <;> decide +kernel⟩,
   ⟨3, 39000000, 13, updCh 12 (fun y => { y with state := 3, order := 1 }) (updCh 13 (fun y => { y with state := 3, order := 2 })
     (updBank 3 (fun b => { b with overSince := some 39000000 }) up)), by and_intros <;> decide +kernel⟩,
   ⟨3, 34999, updBank 3 (fun b => { b with ov := true }) (updCh 15 (fun y => { y with state := 6, cmd := true }) up),
     by and_intros <;> decide +kernel⟩,
   ⟨3, 17000, updBank 3 (fun b => { b with uv := true }) (updCh 15 (fun y => { y with state := 6 }) up),
     by and_intros <;> decide +kernel⟩⟩

/-- The hypotheses of O57 are met. -/
theorem witness_TraverseLink :
    (∃ (h : Hdr) (d : Nat) (f : Nat) (m : List Byte) (s : State), Accepted h 0x0810 (le 1 d ++ le 1 f ++ le 2 m.length ++ m) s ∧ 1 ≤
      s.roles.role ∧ d < 64 ∧ d ≠ trvNode s ∧ f ≤ 1 ∧ 1 ≤ m.length ∧ m.length ≤ 4000 ∧ s.trv.sends.length < 16 ∧ trvTransmits s = true) ∧
    (∃ (h : Hdr) (k : Nat) (n : Nat) (s : State), Accepted h 0x0811 (le 1 k ++ le 16 n) s ∧ 2 ≤ s.roles.role ∧ k ≤ 1 ∧ 0 < n ∧ n < 2 ^
      128 ∧ k ≠ s.trv.active) ∧
    (∃ (h : Hdr) (k : Nat) (n : Nat) (f : Nat) (s : State), Accepted h 0x0812 (le 1 k ++ le 6 n) s ∧ 2 ≤ s.roles.role ∧ k ≤ 1 ∧ n < 2 ^
      48 ∧ frameOf n = some f ∧ trvKey s k ≠ 0) ∧
    (∃ (k : Nat) (f : Nat) (s : State), s.trv.switchTo = some (k, f) ∧ s.regionsRun = true ∧ s.clock.legal % 400 = 0 ∧ f ≤
      s.clock.legal) ∧
    (∃ (n : Nat) (x : TrvSend) (s : State), s.trv.sends.find? (fun x => x.handle == n && x.confirm) = some x ∧ s.trv.own.any (fun k =>
      k.counter == x.counter) = false ∧ s.trv.inFlight = none ∧ x.since + secF 10 ≤ s.now) ∧
    (∃ (b : Nat) (k : TrvPkt) (n : Nat) (s : State), trvTransmits s = true ∧ s.trv.inFlight = none ∧ nextToSend s = some k ∧ b <
      contentionWindow s k.cls ∧ mediumIdle b s = true ∧ n = segmentsFit s (frameScheme s (firstTx k s)) (firstTx k s).segs.length ∧ 0 <
      n) ∧
    (∃ (b : Nat) (x : TrvTx) (new : Bool) (s : State), nextFrame s = some (x, new) ∧ (segmentsFit s (frameScheme s x) x.segs.length = 0
      ∨ mediumIdle b s = false)) ∧
    (∃ (b : Nat) (x : TrvTx) (n : Nat) (s : State), trvTransmits s = true ∧ s.trv.inFlight = some x ∧ x.waiting = false ∧ x.dst ≠ 0xFF ∧
      b < contentionWindow s x.pkt.cls ∧ mediumIdle b s = true ∧ n = segmentsFit s (frameScheme s x) x.segs.length ∧ 0 < n) ∧
    (∃ (f : TrvFrameIn) (s : State), trvTransmits s = true ∧ siteFrame 1 f.fc s = true ∧ byteAt f.fc 5 = trvNode s ∧ byteAt f.fc 1 % 2 =
      0) ∧
    (∃ (fc : List Byte) (x : TrvTx) (s : State), trvReceives s = true ∧ siteFrame 2 fc s = true ∧ byteAt fc 5 = trvNode s ∧
      s.trv.inFlight = some x ∧ x.waiting = true ∧ x.dst = byteAt fc 4 ∧ x.dst < 64 ∧ x.frame = x.segs ∧ (∀ i, i < x.frame.length → bit
      (BitVec.ofNat 32 (numAt fc 12 4)) i = true)) ∧
    (∃ (fc : List Byte) (x : TrvTx) (s : State), trvReceives s = true ∧ siteFrame 2 fc s = true ∧ byteAt fc 5 = trvNode s ∧
      s.trv.inFlight = some x ∧ x.waiting = true ∧ x.dst = byteAt fc 4 ∧ x.dst < 64 ∧ (∀ i, i < x.frame.length → bit (BitVec.ofNat 32
      (numAt fc 12 4)) i = false) ∧ x.segs ≠ [] ∧ (∀ i ∈ x.segs, vget x.sends i 0 < arqRetries s)) ∧
    (∃ (dst : Nat) (seq : Byte) (x : TrvTx) (s : State), trvReceives s = true ∧ s.trv.inFlight = some x ∧ x.waiting = true ∧ x.dst = dst
      ∧ x.seq = seq) ∧
    (∃ (b : List Byte) (s : State), trvReceives s = true ∧ byteAt b 0 % 16 = 1 ∧ (packetHeader b).serial ≠ s.factory.serial ∧ floodSeen
      (packetHeader b) s = false ∧ (trvKey s (packetHeader b).slot = 0 ∨ openPayload s b = none)) ∧
    (∃ (b : List Byte) (p : List Byte) (w : Replay) (s : State), trvReceives s = true ∧ byteAt b 0 % 16 = 1 ∧ (packetHeader b).serial ≠
      s.factory.serial ∧ floodSeen (packetHeader b) s = false ∧ trvKey s (packetHeader b).slot ≠ 0 ∧ openPayload s b = some p ∧
      s.trv.replay.find? (fun w => w.serial == (packetHeader b).serial) = some w ∧ replayCheck w (packetHeader b).counter = none) ∧
    (∃ (b : List Byte) (p : List Byte) (k : TrvPkt) (s : State), k = packetHeader b ∧ trvReceives s = true ∧ byteAt b 0 % 16 = 1 ∧
      k.serial ≠ s.factory.serial ∧ k.final < 64 ∧ trvKey s k.slot ≠ 0 ∧ openPayload s b = some p ∧ s.trv.replay.find? (fun w => w.serial
      == k.serial) = none) ∧
    (∃ (n : Nat) (k : TrvPkt) (s : State), (s.trv.own ++ s.trv.store).find? (fun k => k.tag == n && routeless k s) = some k) ∧
    (∃ (n : Nat) (s : State), trvReceives s = true ∧ (ngh s n).usable = true ∧ nghLost s n = true) ∧
    (∃ (s : State), trvReceives s = true ∧ s.trv.windowAt ≠ s.clock.legal / 200000 * 10) ∧
    (∃ (s : State), trvTransmits s = true ∧ advertDue s = true) ∧
    (∃ (t0 : Nat) (s : State), s.trv.leaveAt = some t0 ∧ trvReceives s = true ∧ s.trv.transmit = true ∧ s.trv.leave = none ∧ t0 + secF
      10 ≤ s.now) ∧
    (∃ (t0 : Nat) (s : State), s.trv.beaconAt = some t0 ∧ isMaster s = false ∧ s.trv.locked = true ∧ t0 + secF 10 ≤ s.now) ∧
    (∃ (s : State), s.trv.running = true ∧ s.power.supply = .on ∧ bit s.rst.straps 3 = true) ∧
    (∃ (t0 : Nat) (s : State), s.trv.datumAt = some t0 ∧ s.trv.running = true ∧ s.trv.datumValid = true ∧ t0 + msF 100 ≤ s.now) ∧
    (∃ (k : Nat) (s : State), trvTransmits s = true ∧ k = beaconSlotOf (isMaster s) (trvNode s) ∧ slotNow k s = true ∧ (isMaster s ||
      periodNow s % 16 == trvNode s % 16) = true) ∧
    (∃ (b : BeaconIn) (p : List Byte) (k : TrvPkt) (s : State), k = packetHeader (b.block.take 136) ∧ trvReceives s = true ∧ siteFrame 0
      b.fc s = true ∧ byteAt b.fc 5 = 0xFF ∧ byteAt (b.block.take 136) 0 % 16 = 1 ∧ k.service = 2 ∧ k.serial ≠ s.factory.serial ∧ trvKey s
      k.slot ≠ 0 ∧ openPayload s (b.block.take 136) = some p ∧ s.trv.replay.find? (fun w => w.serial == k.serial) = none ∧ byteAt p 0 <
      64) ∧
    (∃ (hdr : List Byte) (nodes : List Nat) (s : State), chainListens s = true ∧ headerOk s hdr = false ∧ s.chain.staging = 0 ∧
      nodes.length ≤ 63) ∧
    (∃ (src : Nat) (pos : Nat) (s : State), s.chain.next = some (src, pos) ∧ chainListens s = true ∧ s.chain.staging ≠ 0) ∧
    (∃ (src : Nat) (k : Nat) (half : Nat) (data : List Byte) (s : State), chainListens s = true ∧ stagingRuns s = true ∧ s.chain.byHost
      = false ∧ s.chain.ready = true ∧ s.chain.upstream = src ∧ k < stagedBlocks s ∧ half ≤ 1 ∧ data.length = 2048) ∧
    (∃ (src : Nat) (pos : Nat) (k : Nat) (s : State), s.chain.next = some (src, pos) ∧ chainListens s = true ∧ s.chain.staging ≠ 0 ∧ k <
      stagedBlocks s) ∧
    (∃ (src : Nat) (k : Nat) (s : State), chainListens s = true ∧ s.chain.byHost = true ∧ s.chain.staging ≠ 0 ∧ (s.chain.entries.drop
      1).any (fun e => e.node == src) = true ∧ k < 5120) ∧
    (∃ (s : State), chainListens s = true ∧ stagingRuns s = true ∧ s.chain.byHost = false ∧ s.chain.sentAt + secF 5 ≤ s.now) ∧
    (∃ (s : State), chainListens s = true ∧ s.chain.byHost = false ∧ s.chain.staging ≠ 0) ∧
    (∃ (s : State), chainListens s = true ∧ s.chain.byHost = false ∧ s.chain.staging ≠ 0) ∧
    (∃ (src : Nat) (s : State), chainListens s = true ∧ s.chain.byHost = true ∧ s.chain.staging ≠ 0 ∧ (s.chain.entries.drop 1).any (fun
      e => e.node == src && !e.ended) = true) ∧
    (∃ (n : Nat) (pos : Nat) (s : State), chainListens s = true ∧ s.chain.staging ≠ 0 ∧ s.chain.next = some (n, pos) ∧ s.chain.nextAcked
      + 1 < (stagedBlocks s : Int) ∧ s.chain.heardAt + secF 10 ≤ s.now) ∧
    (∃ (s : State), s.running = true ∧ stagingRuns s = true ∧ s.chain.progressAt + secF 600 ≤ s.now) :=
  ⟨⟨h0, 5, 1, [7, 8], meshed, accepted_of (by decide +kernel), by and_intros <;> decide +kernel⟩,
   ⟨h0, 1, 2 ^ 128 - 1, meshed, accepted_of (by decide +kernel), by and_intros <;> decide +kernel⟩,
   ⟨h0, 0, 2000 * 65536, 40000000, meshed, accepted_of (by decide +kernel), by and_intros <;> decide +kernel⟩,
   ⟨1, 40000000, wTrv (fun x => { x with switchTo := some (1, 40000000) }) meshed, by and_intros <;> decide +kernel⟩,
   ⟨4, { handle := 4, counter := 6, confirm := true, since := 39800000 }, wTrv (fun x =>
     { x with sends := [{ handle := 4, counter := 6, confirm := true, since := 39800000 }] }) meshed, by and_intros <;> decide +kernel⟩,
   ⟨0, pkt, 1, wTrv (fun x => { x with own := [pkt] }) talking, by and_intros <;> decide +kernel⟩,
   ⟨0, sending 2 false, false, wTrv (fun x => { x with inFlight := some (sending 2 false) }) meshed, by decide +kernel,
     by decide +kernel⟩,
   ⟨7, sending 2 false, 2, wTrv (fun x => { x with inFlight := some (sending 2 false) }) talking, by and_intros <;> decide +kernel⟩,
   ⟨{ fc := dataFc, snr := 30, samples := [], segs := [[]] }, meshed, by and_intros <;> decide +kernel⟩,
   ⟨ackFc, sending 1 true, wTrv (fun x => { x with inFlight := some (sending 1 true) }) meshed, by and_intros <;> decide +kernel⟩,
   ⟨nackFc, sending 1 true, wTrv (fun x => { x with inFlight := some (sending 1 true) }) meshed, by and_intros <;> decide +kernel⟩,
   ⟨5, 7, sending 1 true, wTrv (fun x => { x with inFlight := some (sending 1 true) }) meshed, by and_intros <;> decide +kernel⟩,
   ⟨setSlot1 heard3, meshed, by and_intros <;> decide +kernel⟩,
   ⟨heard3, [1, 2], { serial := 77, highest := 8 }, wTrv (fun x => { x with replay := [{ serial := 77, highest := 8 }] }) meshed,
     by and_intros <;> decide +kernel⟩,
   ⟨heard3c, [1, 2], packetHeader heard3c, meshed, by and_intros <;> decide +kernel⟩,
   ⟨2, { pkt with final := 6 }, wTrv (fun x => { x with own := [{ pkt with final := 6 }] }) meshed, by decide +kernel⟩,
   ⟨5, wTrv (fun x => { x with neigh := vset x.neigh 5 { usable := true } }) meshed, by and_intros <;> decide +kernel⟩,
   ⟨meshed, by decide +kernel, by decide +kernel⟩,
   ⟨wClock (fun x => { x with legal := 40006000 }) meshed, by decide +kernel, by decide +kernel⟩,
   ⟨39800000, wTrv (fun x => { x with leaveAt := some 39800000 }) meshed, by and_intros <;> decide +kernel⟩,
   ⟨39800000, wTrv (fun x => { x with beaconAt := some 39800000, locked := true }) meshed, by and_intros <;> decide +kernel⟩,
   ⟨meshed, by and_intros <;> decide +kernel⟩,
   ⟨39998000, wTrv (fun x => { x with datumAt := some 39998000, datumValid := true }) meshed, by and_intros <;> decide +kernel⟩,
   ⟨0, wTrv (fun x => { x with datumAt := some 39999980 }) master, by and_intros <;> decide +kernel⟩,
   ⟨beacon beacon3, [3, 1], packetHeader beacon3, meshed, by and_intros <;> decide +kernel⟩,
   ⟨[], [5, 6], meshed, by and_intros <;> decide +kernel⟩,
   ⟨5, 2, staging true, by and_intros <;> decide +kernel⟩,
   ⟨5, 3, 0, List.replicate 2048 1, staging false, by and_intros <;> decide +kernel⟩,
   ⟨5, 2, 3, staging true, by and_intros <;> decide +kernel⟩,
   ⟨5, 3, staging true, by and_intros <;> decide +kernel⟩,
   ⟨staging false, by and_intros <;> decide +kernel⟩,
   ⟨staging false, by and_intros <;> decide +kernel⟩,
   ⟨staging false, by and_intros <;> decide +kernel⟩,
   ⟨5, staging true, by and_intros <;> decide +kernel⟩,
   ⟨5, 2, staging true, by and_intros <;> decide +kernel⟩,
   ⟨staging true, by and_intros <;> decide +kernel⟩⟩

/-- The hypotheses of O58 are met. -/
theorem witness_ReaderAndWitnessTag :
    (∃ (s : State), s.rdr.pollAt = none ∧ fieldRested s = true ∧ readerOn s = true ∧ s.rdr.req = none ∧ s.rdr.held = none) ∧
    (∃ (s : State), s.rdr.state = 3) ∧
    (∃ (s : State), s.rdr.held.isSome = true ∧ s.rdr.apdu = none ∧ s.rdr.heldAt + secF 2 ≤ s.now) ∧
    (∃ (s : State), s.rdr.held.isSome = true ∧ s.rdr.renewAt + msF 100 ≤ s.now) ∧
    (∃ (h : Hdr) (ms : Nat) (m : List Byte) (s : State), Accepted h 0x0910 (le 2 ms ++ le 2 m.length ++ m) s ∧ 1 ≤ s.roles.role ∧
      readerMode s = true ∧ 10 ≤ ms ∧ ms ≤ 5000 ∧ 4 ≤ m.length ∧ m.length ≤ 1024 ∧ s.rdr.apdu = none) ∧
    (∃ (m : List Byte) (t0 : Nat) (ms : Nat) (s : State), s.rdr.apdu = some (m, t0, ms)) ∧
    (∃ (s : State), s.tag.field = true) ∧
    (∃ (n : Nat) (s : State), s.tag.field = true ∧ 1 ≤ n ∧ n ≤ 256) ∧
    (∃ (s : State), s.tag.field = true ∧ s.tag.selected = true) ∧
    (∃ (mv : Nat) (rv : Nat) (data : List Byte) (k : Nat) (s : State), s.tag.field = true ∧ s.tag.selected = true ∧ 16 ≤ data.length ∧
      data.length ≤ 490 ∧ 2400 ≤ mv ∧ 2300 ≤ rv ∧ Memory.wf 0 s.tag.store = true ∧ chooseSlot s = some k ∧ bit s.tag.config 0 = true) ∧
    (∃ (k : Nat) (s : State), wireSide s = true ∧ s.tag.importReq = none ∧ nextImport s = some k) ∧
    (∃ (s : State), wireSide s = true ∧ s.tag.totalsAt = 0 ∧ Memory.wf 0 s.tag.store = true) :=
  ⟨⟨wRdr (fun x => { x with config := x.config ||| 1 }) up, by and_intros <;> decide +kernel⟩,
   ⟨wRdr (fun x => { x with state := 3 }) up, by decide +kernel⟩,
   ⟨wRdr (fun x => { x with held := some {}, heldAt := 39960000 }) up, by and_intros <;> decide +kernel⟩,
   ⟨wRdr (fun x => { x with held := some {}, renewAt := 39998000 }) up, by decide +kernel, by decide +kernel⟩,
   ⟨h0, 5000, [1, 2, 3, 4], wRdr (fun x => { x with held := some {} }) up, accepted_of (by decide +kernel),
     by and_intros <;> decide +kernel⟩,
   ⟨[1, 2, 3, 4], 39999999, 100, wRdr (fun x => { x with held := some {}, apdu := some ([1, 2, 3, 4], 39999999, 100) }) up,
     by decide +kernel⟩,
   ⟨wTag (fun x => { x with field := true }) up, by decide +kernel⟩,
   ⟨256, wTag (fun x => { x with field := true, selected := true }) up, by and_intros <;> decide +kernel⟩,
   ⟨wTag (fun x => { x with field := true, selected := true }) up, by decide +kernel, by decide +kernel⟩,
   ⟨2400, 2300, List.replicate 16 1, 0, wTag (fun x => { x with field := true, selected := true }) up, by decide +kernel,
     by decide +kernel, by decide +kernel, by decide +kernel, by decide +kernel, by decide +kernel, by decide +kernel, chooseSlot_blank
     (fun _ => noteValid_blank (fun _ => rfl)), by decide +kernel⟩,
   ⟨0, wTag (fun x => { x with store := [(0x7000 + 508, 153), (0x7000 + 509, 66), (0x7000 + 510, 151), (0x7000 + 511, 103)] }) up,
     by decide +kernel, by decide +kernel, nextImport_first (by decide +kernel) (by decide +kernel) (fun k => noteValid_blank (fun i => by
     simp only [wTag, Memory.read, noteAt] <;> repeat rw [if_neg (by omega)]))⟩,
   ⟨up, by and_intros <;> decide +kernel⟩⟩

/-- The hypotheses of O59 are met. -/
theorem witness_PriceDisplay :
    (∃ (h : Hdr) (x : Nat) (y : Nat) (w : Nat) (k : Nat) (lv : List Byte) (s : State), Accepted h 0x0A10 (le 2 x ++ le 2 y ++ le 2 w ++
      le 2 k ++ lv) s ∧ 1 ≤ s.roles.role ∧ s.modes.mode ≠ .monument ∧ rectOk s.disp.config (x, y, w, k) = true ∧ lv.length = w * k / 2 ∧
      Memory.wf 15 s.disp.target = true) ∧
    (∃ (h : Hdr) (x : Nat) (y : Nat) (w : Nat) (k : Nat) (kind : Nat) (s : State), Accepted h 0x0A11 (le 2 x ++ le 2 y ++ le 2 w ++ le 2
      k ++ le 1 kind) s ∧ 1 ≤ s.roles.role ∧ s.modes.mode ≠ .monument ∧ s.modes.mode ≠ .benchmark ∧ rectOk s.disp.config (x, y, w, k) =
      true ∧ kind ≤ 2 ∧ hostQueued s.disp < 8 ∧ s.faults.display = false) ∧
    (∃ (h : Hdr) (s : State), Accepted h 0x0A12 (le 1 1) s ∧ 1 ≤ s.roles.role ∧ s.modes.mode ≠ .monument ∧ s.disp.crack = false ∧
      s.faults.display = false ∧ s.faults.globalSafe = false ∧ s.disp.light = false) ∧
    (∃ (h : Hdr) (s : State), Accepted h 0x0A12 (le 1 0) s ∧ 1 ≤ s.roles.role ∧ s.modes.mode ≠ .monument ∧ s.disp.lightWait = none) ∧
    (∃ (h : Hdr) (b : Nat) (lo : Nat) (hi : Nat) (kind : Nat) (n : Nat) (off : Nat) (data : List Byte) (s : State), AcceptedExpert h
      0x0A13 (le 1 b ++ le 1 lo ++ le 1 hi ++ le 1 kind ++ le 2 n ++ le 4 off ++ le 2 data.length ++ data) s ∧ s.modes.mode ≠ .monument ∧
      b < 12 ∧ lo < 256 ∧ hi < 256 ∧ kind < 3 ∧ 1 ≤ n ∧ n ≤ 256 ∧ data.length ≤ 4084 ∧ off + data.length = 64 * n ∧ signedOf 8 lo <
      signedOf 8 hi ∧ bandsApart s.disp b (signedOf 8 lo) (signedOf 8 hi) = true ∧ s.disp.flight.any (fun r => r.band == b) = false) ∧
    (∃ (s : State), s.regionsRun = true ∧ s.disp.state = 2 ∧ s.disp.scanAt = none) ∧
    (∃ (i : Nat) (r : Rect) (s : State), s.disp.flight[i]? = some r ∧ s.regionsRun = true ∧ r.scans * 20000 ≤ (s.now - r.startAt) *
      dcScanHz s.disp.config) ∧
    (∃ (s : State), s.regionsRun = true ∧ s.disp.state = 1) ∧
    (∃ (k : Nat) (s : State), s.regionsRun = true ∧ s.disp.state = 1 ∧ k < 5) ∧
    (∃ (t0 : Nat) (s : State), s.disp.retryAt = some t0 ∧ s.regionsRun = true ∧ s.disp.state = 0 ∧ t0 + secF 1 ≤ s.now ∧ displayUsable s
      = true ∧ s.disp.queue.any (·.granted) = true) ∧
    (∃ (s : State), s.disp.state = 2 ∧ s.disp.flight = [] ∧ s.disp.idleAt + msF 50 ≤ s.now) ∧
    (∃ (s : State), s.disp.state = 3 ∧ s.disp.queue.any (·.granted) = false) ∧
    (∃ (s : State), s.regionsRun = true) ∧
    (∃ (s : State), s.regionsRun = true ∧ s.disp.crackAt + secF 60 ≤ s.now) ∧
    (∃ (i : Nat) (r : Rect) (t0 : Nat) (s : State), s.disp.queue[i]? = some r ∧ r.retryAt = some t0 ∧ s.regionsRun = true ∧ t0 + secF 1
      ≤ s.now) ∧
    (∃ (s : State), s.running = true ∧ s.modes.mode = .standby ∧ s.disp.aonAt + secF (dcAonRefresh s.disp.config) ≤ s.now) ∧
    (∃ (s : State), s.running = true ∧ s.modes.mode = .benchmark ∧ s.disp.benchAt + secF 10 ≤ s.now) :=
  ⟨⟨h0, 0, 400, 8, 2, List.replicate 8 0x25, up, accepted_of (by decide +kernel), by and_intros <;> decide +kernel⟩,
   ⟨h0, 0, 400, 8, 2, 2, up, accepted_of (by decide +kernel), by and_intros <;> decide +kernel⟩,
   ⟨h0, up, accepted_of (by decide +kernel), by and_intros <;> decide +kernel⟩,
   ⟨h0, wDisp (fun x => { x with light := true }) up, accepted_of (by decide +kernel), by and_intros <;> decide +kernel⟩,
   ⟨hx, 11, 236, 30, 2, 1, 0, List.replicate 64 1, up, acceptedExpert_of (by decide +kernel), by and_intros <;> decide +kernel⟩,
   ⟨wDisp (fun x =>
     { x with state := 2, queue := [{ handle := 4, granted := true }], waves := vset x.waves 3 { low := 0, high := 50, scans := #v[4, 4, 4] } })
     up, by and_intros <;> decide +kernel⟩,
   ⟨0, { handle := 4, scans := 4, startAt := 39990000, price := true, version := 9, pixels := [1] }, wDisp (fun x =>
     { x with flight := [{ handle := 4, scans := 4, startAt := 39990000, price := true, version := 9, pixels := [1] }] }) up,
     by and_intros <;> decide +kernel⟩,
   ⟨wDisp (fun x => { x with state := 1 }) up, by decide +kernel, by decide +kernel⟩,
   ⟨4, wDisp (fun x => { x with state := 1 }) up, by and_intros <;> decide +kernel⟩,
   ⟨39980000, wDisp (fun x => { x with retryAt := some 39980000, queue := [{ granted := true }] }) up, by and_intros <;> decide +kernel⟩,
   ⟨wDisp (fun x => { x with state := 2 }) up, by and_intros <;> decide +kernel⟩,
   ⟨wDisp (fun x => { x with state := 3 }) up, by decide +kernel, by decide +kernel⟩,
   ⟨up, by decide +kernel⟩,
   ⟨wDisp (fun x => { x with queue := [{}] }) up, by decide +kernel, by decide +kernel⟩,
   ⟨0, { retryAt := some 39980000 }, 39980000, wDisp (fun x => { x with queue := [{ retryAt := some 39980000 }] }) up,
     by and_intros <;> decide +kernel⟩,
   ⟨up, by and_intros <;> decide +kernel⟩,
   ⟨inMode .benchmark up, by and_intros <;> decide +kernel⟩⟩

/-- The hypotheses of O60 are met. -/
theorem witness_StorageAndChain :
    (∃ (h : Hdr) (hdr : List Byte) (s : State), Accepted h 0x0B10 (hdr ++ [0]) s ∧ 2 ≤ s.roles.role ∧ hdr.length = 512 ∧ stagingRuns s =
      false ∧ s.modes.activating = false) ∧
    (∃ (s : State), s.regionsRun = true ∧ stagingRuns s = true ∧ s.chain.ready = false ∧ s.chain.erased = 12) ∧
    (∃ (h : Hdr) (k : Nat) (half : Nat) (data : List Byte) (tag : List Byte) (s : State), Accepted h 0x0B11 (le 4 k ++ le 1 half ++ data
      ++ tag) s ∧ 2 ≤ s.roles.role ∧ half ≤ 1 ∧ data.length = 2048 ∧ tag.length = 16 * half ∧ stagingRuns s = true ∧ s.chain.ready = true
      ∧ s.chain.byHost = true ∧ k < stagedBlocks s ∧ k < 2 ^ 32) ∧
    (∃ (h : Hdr) (s : State), Accepted h 0x0B12 [] s ∧ 2 ≤ s.roles.role ∧ stagingRuns s = true) ∧
    (∃ (h : Hdr) (s : State), Accepted h 0x0B13 [] s ∧ 2 ≤ s.roles.role ∧ (s.inRom = true ∨ standbyOrComm s = true) ∧ s.modes.activating
      = false) ∧
    (∃ (s : State), s.modes.activating = true ∧ 12 ≤ s.store.activateErased ∧ s.running = true ∧ s.shutting = false ∧ s.power.supply =
      .on) ∧
    (∃ (h : Hdr) (s : State), Accepted h 0x0B14 [] s ∧ 2 ≤ s.roles.role) ∧
    (∃ (nodes : List Nat) (s : State), chainListens s = true ∧ nodes.length ≤ 63 ∧ s.chain.staging = 0) ∧
    (∃ (src : Nat) (pos : Nat) (s : State), s.chain.next = some (src, pos) ∧ chainListens s = true ∧ s.chain.staging ≠ 0) ∧
    (∃ (src : Nat) (k : Nat) (half : Nat) (data : List Byte) (s : State), chainListens s = true ∧ stagingRuns s = true ∧ s.chain.byHost
      = false ∧ s.chain.ready = true ∧ s.chain.upstream = src ∧ k < stagedBlocks s ∧ half ≤ 1 ∧ data.length = 2048) ∧
    (∃ (src : Nat) (pos : Nat) (k : Nat) (s : State), s.chain.next = some (src, pos) ∧ chainListens s = true ∧ s.chain.staging ≠ 0 ∧ k <
      stagedBlocks s) ∧
    (∃ (src : Nat) (k : Nat) (s : State), chainListens s = true ∧ s.chain.byHost = true ∧ s.chain.staging ≠ 0 ∧ (s.chain.entries.drop
      1).any (fun e => e.node == src) = true ∧ k < 5120) ∧
    (∃ (s : State), chainListens s = true ∧ stagingRuns s = true ∧ s.chain.byHost = false ∧ s.chain.sentAt + secF 5 ≤ s.now) ∧
    (∃ (s : State), chainListens s = true ∧ s.chain.byHost = false ∧ s.chain.staging ≠ 0) ∧
    (∃ (s : State), chainListens s = true ∧ s.chain.byHost = false ∧ s.chain.staging ≠ 0) ∧
    (∃ (src : Nat) (s : State), chainListens s = true ∧ s.chain.byHost = true ∧ s.chain.staging ≠ 0 ∧ (s.chain.entries.drop 1).any (fun
      e => e.node == src && !e.ended) = true) ∧
    (∃ (n : Nat) (pos : Nat) (s : State), chainListens s = true ∧ s.chain.staging ≠ 0 ∧ s.chain.next = some (n, pos) ∧ s.chain.nextAcked
      + 1 < (stagedBlocks s : Int) ∧ s.chain.heardAt + secF 10 ≤ s.now) ∧
    (∃ (s : State), s.running = true ∧ stagingRuns s = true ∧ s.chain.progressAt + secF 600 ≤ s.now) ∧
    (∃ (s : State), s.running = true ∧ stagingRuns s = true ∧ s.chain.reportAt + secF 10 ≤ s.now) ∧
    (∃ (g : Segment) (s : State), s.regionsRun = true ∧ s.shutting = false ∧ s.store.reclaim = none ∧ reclaimSource none s = some (g,
      false)) ∧
    (∃ (d : Option Nat) (g : Segment) (f : Nat × Nat) (s : State), s.regionsRun = true ∧ s.shutting = false ∧ s.store.reclaim = none ∧
      reclaimSource d s = some (g, true) ∧ leastErased s.store.free = some f) ∧
    (∃ (r : Reclaim) (s : State), s.regionsRun = true ∧ s.shutting = false ∧ s.store.reclaim = some r ∧ pageWaits s = false) ∧
    (∃ (part : Nat) (s : State), s.regionsRun = true ∧ s.shutting = false ∧ part < 5 ∧ part ≠ 3) ∧
    (∃ (part : Nat) (s : State), s.regionsRun = true ∧ s.shutting = false ∧ part < 2) :=
  ⟨⟨h0, header, up, accepted_of (by decide +kernel), by and_intros <;> decide +kernel⟩,
   ⟨wChain (fun x => { x with ready := false, erased := 12 }) (staging true), by and_intros <;> decide +kernel⟩,
   ⟨h0, 3, 0, List.replicate 2048 1, [], staging true, accepted_of (by decide +kernel), by and_intros <;> decide +kernel⟩,
   ⟨h0, staging true, accepted_of (by decide +kernel), by decide +kernel, by decide +kernel⟩,
   ⟨h0,
     { staging true with chain := { up.chain with staging := 2 }, store := { up.store with stagingSlot := { header := header, complete := true } } },
     accepted_of (by decide +kernel), by and_intros <;> decide +kernel⟩,
   ⟨wModes (fun x => { x with activating := true }) (wStore (fun x => { x with activateErased := 12 }) (staging true)),
     by and_intros <;> decide +kernel⟩,
   ⟨h0, wStore (fun x => { x with trial := true, trialBoots := 1 }) up, accepted_of (by decide +kernel), by decide +kernel⟩,
   ⟨[5, 6], meshed, by and_intros <;> decide +kernel⟩,
   ⟨5, 2, staging true, by and_intros <;> decide +kernel⟩,
   ⟨5, 3, 0, List.replicate 2048 1, staging false, by and_intros <;> decide +kernel⟩,
   ⟨5, 2, 3, staging true, by and_intros <;> decide +kernel⟩,
   ⟨5, 3, staging true, by and_intros <;> decide +kernel⟩,
   ⟨staging false, by and_intros <;> decide +kernel⟩,
   ⟨staging false, by and_intros <;> decide +kernel⟩,
   ⟨staging false, by and_intros <;> decide +kernel⟩,
   ⟨5, staging true, by and_intros <;> decide +kernel⟩,
   ⟨5, 2, staging true, by and_intros <;> decide +kernel⟩,
   ⟨staging true, by and_intros <;> decide +kernel⟩,
   ⟨staging true, by and_intros <;> decide +kernel⟩,
   ⟨{ id := 3, first := 1, count := 5 }, wLog (fun x => { x with acked := 5 }) (wStore (fun x =>
     { x with free := [], segments := [{ id := 3, first := 1, count := 5 }] }) up), by and_intros <;> decide +kernel⟩,
   ⟨none, { id := 3, first := 1, count := 5, repair := true }, (7, 2), wStore (fun x =>
     { x with free := [(9, 5), (7, 2), (8, 4)], segments := [{ id := 3, first := 1, count := 5, repair := true }] }) up,
     by and_intros <;> decide +kernel⟩,
   ⟨{ step := 2, source := 3 }, wStore (fun x => { x with reclaim := some { step := 2, source := 3 } }) up,
     by and_intros <;> decide +kernel⟩,
   ⟨4, up, by and_intros <;> decide +kernel⟩,
   ⟨1, up, by and_intros <;> decide +kernel⟩⟩

end Sys2Proof.Tests
end

/-!
PROOF. What a command leaves behind it, whatever the command (chapter 0): the lemma on each meaning, brought together over the arms of exec.
-/

namespace Sys2Proof.Laws

open Sys2Proof.Machine

/-- A RESEAL is the one command after which the seal latch may be lost (R264); every other command keeps it. -/
def sparesSeal : Instr → Bool
  | .reseal .. => false
  | _ => true

/-- No command loses anything of the left side of Lasts: one arm of exec, one lemma on its meaning. -/
theorem exec_lasts {c : Instr} {s t : State} (e : exec c s = .next t) : Lasts (sparesSeal c) s t := by
  cases c with
  | nop h p => exact execNop_lasts h p e
  | objRead h p => exact execObjRead_lasts h p e
  | objWrite h p => exact execObjWrite_lasts h p e
  | hostPortWrite h data mask => exact execHostPortWrite_lasts h data mask e
  | easementConfigWrite h data mask => exact execEasementConfigWrite_lasts h data mask e
  | safetyConfigWrite h p => exact execSafetyConfigWrite_lasts h p e
  | sealFieldWrite h p => exact execSealFieldWrite_lasts h p e
  | tariffWrite h idx data mask => exact execTariffWrite_lasts h idx data mask e
  | pulseConfigWrite h idx data mask => exact execPulseConfigWrite_lasts h idx data mask e
  | energyConfigWrite h idx data mask => exact execEnergyConfigWrite_lasts h idx data mask e
  | calWrite h idx data mask => exact execCalWrite_lasts h idx data mask e
  | billingConfigWrite h data mask => exact execBillingConfigWrite_lasts h data mask e
  | linkConfigWrite h idx data mask => exact execLinkConfigWrite_lasts h idx data mask e
  | loadConfigWrite h idx data mask => exact execLoadConfigWrite_lasts h idx data mask e
  | trvConfigWrite h data mask => exact execTrvConfigWrite_lasts h data mask e
  | displayConfigWrite h data mask => exact execDisplayConfigWrite_lasts h data mask e
  | eventAcknowledgement seq flags code len => exact execEventAcknowledgement_lasts seq flags code len e
  | crcErrorPacket seq => exact execCrcErrorPacket_lasts seq e
  | writeOverrun sync len received => exact execWriteOverrun_lasts sync len received e
  | spiRead clocked => exact execSpiRead_lasts clocked e
  | spiStatus => exact execSpiStatus_lasts e
  | uartGapDiscard bytes => exact execUartGapDiscard_lasts bytes e
  | eventResend seq => exact execEventResend_lasts seq e
  | roleChallenge h p => exact execRoleChallenge_lasts h p e
  | roleOpen h p => exact execRoleOpen_lasts h p e
  | roleClose h p => exact execRoleClose_lasts h p e
  | roleIdleTimeout => exact execRoleIdleTimeout_lasts e
  | roleLockoutEnd role => exact execRoleLockoutEnd_lasts role e
  | roleKeySet h p => exact execRoleKeySet_lasts h p e
  | reset h p => exact execReset_lasts h p e
  | modeSet h p => exact execModeSet_lasts h p e
  | recoveryAck h p => exact execRecoveryAck_lasts h p e
  | commissioningDone h p => exact execCommissioningDone_lasts h p e
  | powerOn vauxMv => exact execPowerOn_lasts vauxMv e
  | powerFailWarning vauxMv => exact execPowerFailWarning_lasts vauxMv e
  | tailSave => exact execTailSave_lasts e
  | holdDropOut stepsDone => exact execHoldDropOut_lasts stepsDone e
  | pfReturn => exact execPfReturn_lasts e
  | railBor => exact execRailBor_lasts e
  | vauxReversed => exact execVauxReversed_lasts e
  | vauxSurgeOn => exact execVauxSurgeOn_lasts e
  | vauxSurgeOff => exact execVauxSurgeOff_lasts e
  | vbatCheck vbatMv => exact execVbatCheck_lasts vbatMv e
  | retentionLoss => exact execRetentionLoss_lasts e
  | holdLowCheck vauxMv holdMv => exact execHoldLowCheck_lasts vauxMv holdMv e
  | resetNAssert => exact execResetNAssert_lasts e
  | resetNRelease => exact execResetNRelease_lasts e
  | stuckReset => exact execStuckReset_lasts e
  | resetNRearm => exact execResetNRearm_lasts e
  | regionWatchdog region => exact execRegionWatchdog_lasts region e
  | appWatchdog => exact execAppWatchdog_lasts e
  | resetTakesEffect => exact execResetTakesEffect_lasts e
  | resetRelease b => exact execResetRelease_lasts b e
  | ready vbatMv => exact execReady_lasts vbatMv e
  | sessionHoldExpired => exact execSessionHoldExpired_lasts e
  | frameTick m => exact execFrameTick_lasts m e
  | superframeTick m => exact execSuperframeTick_lasts m e
  | cellErrorCorrected cell count cycle => exact execCellErrorCorrected_lasts cell count cycle e
  | cellUncorrectable cell retryOk sequencer cycle => exact execCellUncorrectable_lasts cell retryOk sequencer cycle e
  | lockstepMismatch cell cycle => exact execLockstepMismatch_lasts cell cycle e
  | clockMonitorFault region lossNotFreq source cycle => exact execClockMonitorFault_lasts region lossNotFreq source cycle e
  | supplyFault rail cycle => exact execSupplyFault_lasts rail cycle e
  | deadlineMiss job inst endCycle cycle => exact execDeadlineMiss_lasts job inst endCycle cycle e
  | regionMergeWindowClose region cls key => exact execRegionMergeWindowClose_lasts region cls key e
  | chipWindowClose cls key => exact execChipWindowClose_lasts cls key e
  | closureOpenEnd id => exact execClosureOpenEnd_lasts id e
  | deferFrameReached req => exact execDeferFrameReached_lasts req e
  | leaveLapse req => exact execLeaveLapse_lasts req e
  | peakPhaseEnd req => exact execPeakPhaseEnd_lasts req e
  | easementOverrun req => exact execEasementOverrun_lasts req e
  | modInputStuck outlet input => exact execModInputStuck_lasts outlet input e
  | mclkReadbackFault outlet => exact execMclkReadbackFault_lasts outlet e
  | modInputValid outlet input => exact execModInputValid_lasts outlet input e
  | modPllLoss cycle => exact execModPllLoss_lasts cycle e
  | stepDetected outlet input place => exact execStepDetected_lasts outlet input place e
  | sync h p => exact execSync_lasts h p e
  | syncScheduled => exact execSyncScheduled_lasts e
  | msyncEdge => exact execMsyncEdge_lasts e
  | decimatorReset => exact execDecimatorReset_lasts e
  | coefLoad h p => exact execCoefLoad_lasts h p e
  | pathSelect h p => exact execPathSelect_lasts h p e
  | fadeDone outlet path input => exact execFadeDone_lasts outlet path input e
  | captureStart h p => exact execCaptureStart_lasts h p e
  | captureTrigger => exact execCaptureTrigger_lasts e
  | captureDone => exact execCaptureDone_lasts e
  | plumbStepBoundary => exact execPlumbStepBoundary_lasts e
  | plumbPeriodEnd => exact execPlumbPeriodEnd_lasts e
  | toneWindowEnd outlet => exact execToneWindowEnd_lasts outlet e
  | toneUnavailable outlet => exact execToneUnavailable_lasts outlet e
  | pulseEnd k => exact execPulseEnd_lasts k e
  | standingEnergy outlet => exact execStandingEnergy_lasts outlet e
  | meterWarnClear h p => exact execMeterWarnClear_lasts h p e
  | timeSet h p => exact execTimeSet_lasts h p e
  | timeSetApply => exact execTimeSetApply_lasts e
  | clockStep => exact execClockStep_lasts e
  | tariffAnnounce h p => exact execTariffAnnounce_lasts h p e
  | tariffBoundary => exact execTariffBoundary_lasts e
  | calendarEntryExpiry entry => exact execCalendarEntryExpiry_lasts entry e
  | demandWindowEnd => exact execDemandWindowEnd_lasts e
  | demandEvaluation => exact execDemandEvaluation_lasts e
  | demandReset h p => exact execDemandReset_lasts h p e
  | demandResetApply => exact execDemandResetApply_lasts e
  | logRead h p => exact execLogRead_lasts h p e
  | logAck h p => exact execLogAck_lasts h p e
  | logRecordStore => exact execLogRecordStore_lasts e
  | logPageProgram ok => exact execLogPageProgram_lasts ok e
  | sealOpening => exact execSealOpening_lasts e
  | debugAccessAttempt => exact execDebugAccessAttempt_lasts e
  | reseal h p => exact execReseal_lasts h p e
  | pilotStateChange pl => exact execPilotStateChange_lasts pl e
  | ppChange outlet mv => exact execPpChange_lasts outlet mv e
  | pwmLeaveRetry outlet => exact execPwmLeaveRetry_lasts outlet e
  | cmSlacParmReq mac run atten => exact execCmSlacParmReq_lasts mac run atten e
  | soundingReceived mac run atten => exact execSoundingReceived_lasts mac run atten e
  | attenCollectionEnd mac run => exact execAttenCollectionEnd_lasts mac run e
  | cmSlacMatchReq mac run => exact execCmSlacMatchReq_lasts mac run e
  | cmValidateReq outlet mac => exact execCmValidateReq_lasts outlet mac e
  | vehicleJoin mac run => exact execVehicleJoin_lasts mac run e
  | joinTimeout mac run => exact execJoinTimeout_lasts mac run e
  | soundingSetTimeout mac run => exact execSoundingSetTimeout_lasts mac run e
  | associationWindowEnd outlet => exact execAssociationWindowEnd_lasts outlet e
  | pilotRestartEnd outlet => exact execPilotRestartEnd_lasts outlet e
  | t1sLinkUp outlet mac => exact execT1sLinkUp_lasts outlet mac e
  | t1sLinkLoss outlet => exact execT1sLinkLoss_lasts outlet e
  | supportedAppProtocolReq outlet offered => exact execSupportedAppProtocolReq_lasts outlet offered e
  | authorizationReq outlet mac method contract chain => exact execAuthorizationReq_lasts outlet mac method contract chain e
  | refuseHoldExpiry outlet => exact execRefuseHoldExpiry_lasts outlet e
  | authDeadlineExpiry outlet => exact execAuthDeadlineExpiry_lasts outlet e
  | authDecide h p => exact execAuthDecide_lasts h p e
  | linkStop h p => exact execLinkStop_lasts h p e
  | stopGraceExpiry outlet => exact execStopGraceExpiry_lasts outlet e
  | protocolTimerExpiry outlet => exact execProtocolTimerExpiry_lasts outlet e
  | seccCsr h p => exact execSeccCsr_lasts h p e
  | seccCertSet h p => exact execSeccCertSet_lasts h p e
  | cableCheckReq outlet maxV => exact execCableCheckReq_lasts outlet maxV e
  | prechargeReq outlet target => exact execPrechargeReq_lasts outlet target e
  | powerDeliveryReq outlet start => exact execPowerDeliveryReq_lasts outlet start e
  | currentDemandReq outlet amps10 => exact execCurrentDemandReq_lasts outlet amps10 e
  | pullInEnd driver => exact execPullInEnd_lasts driver e
  | mirrorConfirmed driver readsOn => exact execMirrorConfirmed_lasts driver readsOn e
  | feedbackTimeout driver cycle => exact execFeedbackTimeout_lasts driver cycle e
  | driverFault driver cause cycle => exact execDriverFault_lasts driver cause cycle e
  | driverOffTimer driver => exact execDriverOffTimer_lasts driver e
  | shortTestEnd outlet => exact execShortTestEnd_lasts outlet e
  | ccTimeout outlet => exact execCcTimeout_lasts outlet e
  | contactorNotConducting outlet => exact execContactorNotConducting_lasts outlet e
  | rampLate outlet => exact execRampLate_lasts outlet e
  | rampForced outlet => exact execRampForced_lasts outlet e
  | fastOvercurrent outlet v1 v2 => exact execFastOvercurrent_lasts outlet v1 v2 e
  | weldVoltageTestEnd outlet => exact execWeldVoltageTestEnd_lasts outlet e
  | busJoin h p => exact execBusJoin_lasts h p e
  | segmentVoltageMatched segment => exact execSegmentVoltageMatched_lasts segment e
  | busRelease h p => exact execBusRelease_lasts h p e
  | pmTargetTransmit bus => exact execPmTargetTransmit_lasts bus e
  | pmStatusFrame module payload => exact execPmStatusFrame_lasts module payload e
  | pmFaultFrame module payload => exact execPmFaultFrame_lasts module payload e
  | pmLost module => exact execPmLost_lasts module e
  | safetyInputDemand input a b => exact execSafetyInputDemand_lasts input a b e
  | safetyDemandEnd input a b => exact execSafetyDemandEnd_lasts input a b e
  | discrepancyTimeout input => exact execDiscrepancyTimeout_lasts input e
  | inputTestPulse k readsOff => exact execInputTestPulse_lasts k readsOff e
  | driverTestPulse driver padOk cycle => exact execDriverTestPulse_lasts driver padOk cycle e
  | safetyReset h p => exact execSafetyReset_lasts h p e
  | startupTest h p => exact execStartupTest_lasts h p e
  | startupTestTimeout => exact execStartupTestTimeout_lasts e
  | weldClear h p => exact execWeldClear_lasts h p e
  | auxContactor h p => exact execAuxContactor_lasts h p e
  | loadSet h p => exact execLoadSet_lasts h p e
  | loadBankReset h p => exact execLoadBankReset_lasts h p e
  | inrushWindowEnd ch => exact execInrushWindowEnd_lasts ch e
  | pwmPeriodBoundary bank => exact execPwmPeriodBoundary_lasts bank e
  | thermalShutdown ch ma temp => exact execThermalShutdown_lasts ch ma temp e
  | thermalLatchRelease ch temp => exact execThermalLatchRelease_lasts ch temp e
  | channelOverload ch ma temp => exact execChannelOverload_lasts ch ma temp e
  | openLoadDetected ch => exact execOpenLoadDetected_lasts ch e
  | openLoadCleared ch => exact execOpenLoadCleared_lasts ch e
  | retryWaitEnd ch => exact execRetryWaitEnd_lasts ch e
  | retriesReset ch => exact execRetriesReset_lasts ch e
  | bankUndervoltage bank vbbMv => exact execBankUndervoltage_lasts bank vbbMv e
  | bankOvervoltage bank vbbMv => exact execBankOvervoltage_lasts bank vbbMv e
  | bankGroundLoss bank vbbMv => exact execBankGroundLoss_lasts bank vbbMv e
  | bankReverseSupply bank => exact execBankReverseSupply_lasts bank e
  | bankOverload bank vbbMv => exact execBankOverload_lasts bank vbbMv e
  | bankHoldRelease bank cause vbbMv good100ms => exact execBankHoldRelease_lasts bank cause vbbMv good100ms e
  | trvSend h p => exact execTrvSend_lasts h p e
  | trvKeySet h p => exact execTrvKeySet_lasts h p e
  | trvKeyUse h p => exact execTrvKeyUse_lasts h p e
  | trvKeySwitch => exact execTrvKeySwitch_lasts e
  | datumEdge rising gridMhz phaseDeg => exact execDatumEdge_lasts rising gridMhz phaseDeg e
  | datumLoss => exact execDatumLoss_lasts e
  | beaconSlot slot => exact execBeaconSlot_lasts slot e
  | beaconReceived b => exact execBeaconReceived_lasts b e
  | lockTimeout => exact execLockTimeout_lasts e
  | contentionAccess backoff => exact execContentionAccess_lasts backoff e
  | trvFrameReceived f => exact execTrvFrameReceived_lasts f e
  | selectiveAckReceived fc => exact execSelectiveAckReceived_lasts fc e
  | trvPacketReceived b => exact execTrvPacketReceived_lasts b e
  | trvConfirmationTimeout handle => exact execTrvConfirmationTimeout_lasts handle e
  | routingAdvertisement => exact execRoutingAdvertisement_lasts e
  | routingWindowEnd => exact execRoutingWindowEnd_lasts e
  | neighbourUnusable node => exact execNeighbourUnusable_lasts node e
  | noRouteDrop tag => exact execNoRouteDrop_lasts tag e
  | trvGrantRetry => exact execTrvGrantRetry_lasts e
  | pollCycle amplitudeMv => exact execPollCycle_lasts amplitudeMv e
  | readerRoundEnd cards => exact execReaderRoundEnd_lasts cards e
  | cardHoldTimeout => exact execCardHoldTimeout_lasts e
  | cardApdu h p => exact execCardApdu_lasts h p e
  | cardApduDone result response => exact execCardApduDone_lasts result response e
  | wtagSelect aid => exact execWtagSelect_lasts aid e
  | wtagReadBinary block le => exact execWtagReadBinary_lasts block le e
  | getLiveStatus le harvestMv => exact execGetLiveStatus_lasts le harvestMv e
  | appendNote harvestMv reserveMv data lastStep => exact execAppendNote_lasts harvestMv reserveMv data lastStep e
  | visitNoteImport => exact execVisitNoteImport_lasts e
  | totalsSnapshot waitUs => exact execTotalsSnapshot_lasts waitUs e
  | displayWrite h p => exact execDisplayWrite_lasts h p e
  | displayUpdate h p => exact execDisplayUpdate_lasts h p e
  | displayLight h p => exact execDisplayLight_lasts h p e
  | wfLoad h p => exact execWfLoad_lasts h p e
  | scanStart temp crackOhm => exact execScanStart_lasts temp crackOhm e
  | waveformEnd rect => exact execWaveformEnd_lasts rect e
  | railStartDone => exact execRailStartDone_lasts e
  | railFeedbackTimeout rail => exact execRailFeedbackTimeout_lasts rail e
  | railRetry => exact execRailRetry_lasts e
  | railFallStart => exact execRailFallStart_lasts e
  | panelTempReading temp => exact execPanelTempReading_lasts temp e
  | crackCheck ohm10 ohm10b => exact execCrackCheck_lasts ohm10 ohm10b e
  | displayRequestRetry rect => exact execDisplayRequestRetry_lasts rect e
  | aonRefresh => exact execAonRefresh_lasts e
  | benchmarkTotalsRedraw => exact execBenchmarkTotalsRedraw_lasts e
  | updateStart h p => exact execUpdateStart_lasts h p e
  | stagingSlotReady => exact execStagingSlotReady_lasts e
  | updateData h p => exact execUpdateData_lasts h p e
  | updateAbort h p => exact execUpdateAbort_lasts h p e
  | imageActivate h p => exact execImageActivate_lasts h p e
  | activationCopyDone tagsOk => exact execActivationCopyDone_lasts tagsOk e
  | confirmImage h p => exact execConfirmImage_lasts h p e
  | chainOffer src origin header nodes position => exact execChainOffer_lasts src origin header nodes position e
  | chainAnswer src imageId result firstBlock => exact execChainAnswer_lasts src imageId result firstBlock e
  | chainBlock src imageId block half data tag => exact execChainBlock_lasts src imageId block half data tag e
  | chainBlockAck src imageId highest => exact execChainBlockAck_lasts src imageId highest e
  | chainProgress src imageId highest rate => exact execChainProgress_lasts src imageId highest rate e
  | chainProgressSend => exact execChainProgressSend_lasts e
  | chainReroute src imageId next position => exact execChainReroute_lasts src imageId next position e
  | chainAbort src imageId => exact execChainAbort_lasts src imageId e
  | chainDone src imageId result => exact execChainDone_lasts src imageId result e
  | chainReceiverSilent => exact execChainReceiverSilent_lasts e
  | chainStall => exact execChainStall_lasts e
  | updateProgress => exact execUpdateProgress_lasts e
  | reclaimStart refreshSegment => exact execReclaimStart_lasts refreshSegment e
  | reclaimStepDone ok => exact execReclaimStepDone_lasts ok e
  | uartPacketSend hcsLow => exact execUartPacketSend_lasts hcsLow e
  | resetDelayEnd => exact execResetDelayEnd_lasts e
  | unknownOpcodeCommand h opcode p => exact execUnknownOpcodeCommand_lasts h opcode p e
  | loadLeaveRetry ch => exact execLoadLeaveRetry_lasts ch e
  | readerLeaveRenew => exact execReaderLeaveRenew_lasts e
  | selectiveAckMissing dst frameSeq => exact execSelectiveAckMissing_lasts dst frameSeq e
  | v2gRequest outlet kind => exact execV2gRequest_lasts outlet kind e
  | wtagFieldChange present harvestMv => exact execWtagFieldChange_lasts present harvestMv e
  | railFallDone => exact execRailFallDone_lasts e
  | nandBlockRefresh partition block uncorrectable => exact execNandBlockRefresh_lasts partition block uncorrectable e

/-- An HX4 has four outlets, however STRAP4 is set (R2). -/
theorem outletCount_of_hx4 {s : State} (h : s.factory.variant = .hx4) : s.outletCount = 4 := by
  simp only [State.outletCount, h]

/-- Settles O3: every command keeps the queue and the manufactured identity, and the number of outlets of an HX4 follows from its variant
alone. -/
theorem effectsSpareQueueAndIdentity : Obligations.EffectsSpareQueueAndIdentity := by
  unfold Obligations.EffectsSpareQueueAndIdentity
  intro c s t e
  have k : Lasts (sparesSeal c) s t := exec_lasts e
  exact ⟨k.pending, k.variant, k.serial, fun hx4 => outletCount_of_hx4 (k.variant.trans hx4)⟩

end Sys2Proof.Laws

/-!
PROOF. What no run undoes (chapters 0, 1, 2 and 7): frames, SEQUENCE and the session counter only rise, and the debug lock stays.
-/

namespace Sys2Proof.Laws

open Sys2Proof.Machine Sys2Proof.Safety

/-- The step that goes on either executes the front command on the rest of the queue, or idles. -/
theorem stepsTo_cases {s t : State} (h : StepsTo s t) :
    (∃ c rest, s.pending = c :: rest ∧ exec c { s with pending := rest } = .next t) ∨ (s.pending = [] ∧ t = s) := by
  unfold StepsTo step at h
  split at h
  case h_1 c rest hp => exact .inl ⟨c, rest, hp, h⟩
  case h_2 hp =>
    injection h with h
    exact .inr ⟨hp, h.symm⟩

/-- What the counters and the debug lock of t are, seen from s. -/
structure CountersLast (s t : State) : Prop where
  tick : s.clock.tick ≤ t.clock.tick
  seq : s.log.seq ≤ t.log.seq
  sessions : s.billing.sessionCtr ≤ t.billing.sessionCtr
  locked : s.rst.debugLocked = true → t.rst.debugLocked = true

namespace CountersLast

theorem refl (s : State) : CountersLast s s := ⟨Nat.le_refl _, Nat.le_refl _, Nat.le_refl _, id⟩

theorem trans {s t u : State} (h : CountersLast s t) (k : CountersLast t u) : CountersLast s u :=
  ⟨h.tick.trans k.tick, h.seq.trans k.seq, h.sessions.trans k.sessions, k.locked ∘ h.locked⟩

/-- One step: the queue is none of the counters, and exec_lasts says the rest of every command. -/
theorem of_step {s t : State} (h : StepsTo s t) : CountersLast s t := by
  obtain ⟨c, rest, -, e⟩ | ⟨-, rfl⟩ := stepsTo_cases h
  · have k := exec_lasts e
    exact ⟨k.tick, k.seq, k.sessions, k.locked⟩
  · exact refl _

end CountersLast

/-- Settles O6, by the induction of runs on what each step keeps of the state it started from. -/
theorem countersNeverFall : Obligations.CountersNeverFall := by
  unfold Obligations.CountersNeverFall
  intro s t r
  have keeps : Keeps (CountersLast s) := fun _ _ h step => h.trans (.of_step step)
  have h := keeps.reach (.refl s) r
  exact ⟨h.tick, h.seq, h.sessions, h.locked⟩

end Sys2Proof.Laws

/-!
PROOF. The frame of an operation read at a single part: what an operation changes elsewhere leaves that part as it was. The equations here are
the ones that the proofs below rewrite with.
-/

namespace Sys2Proof.Laws

open Sys2Proof.Machine Sys2Proof.Safety

/-- Every part of the state but one. -/
def Part.except (p : Part) : List Part :=
  [.factory, .clock, .power, .rst, .modes, .port, .roles, .faults, .ease, .fe, .energy, .billing, .seals, .log, .link, .sw, .loads, .trv,
    .rdr, .tag, .disp, .chain, .store, .pending].filter (· ≠ p)

@[simp] theorem mem_except (p q : Part) : q ∈ Part.except p ↔ q ≠ p := by
  cases q <;> simp [Part.except]

/-- A change of other parts keeps a part. -/
theorem Part.kept {p : Part} {s t : State} (h : OnlyChanges (Part.except p) s t) : p.same s t :=
  h p (by simp)

/-- What every operation of a run over a list keeps, the run keeps. -/
theorem foldl_kept {α β : Type} {f : State → α → State} (g : State → β) (hf : ∀ s x, g (f s x) = g s) (l : List α) (s : State) :
    g (l.foldl f s) = g s := by
  induction l generalizing s with
  | nil => rfl
  | cons x l ih => exact (ih _).trans (hf s x)

/-! The fault records. -/

@[simp] theorem event_faults (code : Nat) (payload : List Byte) (s : State) : (event code payload s).faults = s.faults :=
  Part.kept (p := .faults) (by simp [event_only, OnlyChanges.refl])

@[simp] theorem journalApp_faults (type key n : Nat) (s : State) : (journalApp type key n s).faults = s.faults :=
  Part.kept (p := .faults) (by simp [journalApp_only, OnlyChanges.refl])

@[simp] theorem releaseOpt_faults (id : Option Nat) (s : State) : (releaseOpt id s).faults = s.faults :=
  Part.kept (p := .faults) (by simp [releaseOpt_only, OnlyChanges.refl])

@[simp] theorem updDrv_faults (d : Nat) (f : Driver → Driver) (s : State) : (updDrv d f s).faults = s.faults :=
  Part.kept (p := .faults) (by simp [updDrv_only, OnlyChanges.refl])

@[simp] theorem updPm_faults (m : Nat) (f : Module → Module) (s : State) : (updPm m f s).faults = s.faults :=
  Part.kept (p := .faults) (by simp [updPm_only, OnlyChanges.refl])

@[simp] theorem driverOff_faults (d : Nat) (s : State) : (driverOff d s).faults = s.faults :=
  Part.kept (p := .faults) (by simp [driverOff_only, OnlyChanges.refl])

@[simp] theorem demandStop_faults (n cause ms : Nat) (s : State) : (demandStop n cause ms s).faults = s.faults :=
  Part.kept (p := .faults) (by simp [demandStop_only, OnlyChanges.refl])

@[simp] theorem stopLink_faults (n cause last ms : Nat) (s : State) : (stopLink n cause last ms s).faults = s.faults :=
  Part.kept (p := .faults) (by simp [stopLink_only, OnlyChanges.refl])

@[simp] theorem proofLapses_faults (n : Nat) (s : State) : (proofLapses n s).faults = s.faults :=
  Part.kept (p := .faults) (by simp [proofLapses_only, OnlyChanges.refl])

@[simp] theorem moduleGone_faults (m : Nat) (s : State) : (moduleGone m s).faults = s.faults :=
  Part.kept (p := .faults) (by simp [moduleGone_only, OnlyChanges.refl])

@[simp] theorem isolatedDemands_faults (s : State) : (isolatedDemands s).faults = s.faults :=
  Part.kept (p := .faults) (by simp [isolatedDemands_only, OnlyChanges.refl])

@[simp] theorem outputsSafe_faults (s : State) : (outputsSafe s).faults = s.faults :=
  Part.kept (p := .faults) (by simp [outputsSafe_only, OnlyChanges.refl])

@[simp] theorem trvSilent_faults (s : State) : (trvSilent s).faults = s.faults :=
  Part.kept (p := .faults) (by simp [trvSilent_only, OnlyChanges.refl])

@[simp] theorem readerStop_faults (st : Nat) (s : State) : (readerStop st s).faults = s.faults :=
  Part.kept (p := .faults) (by simp [readerStop_only, OnlyChanges.refl])

@[simp] theorem lowerRails_faults (s : State) : (lowerRails s).faults = s.faults :=
  Part.kept (p := .faults) (by simp [lowerRails_only, OnlyChanges.refl])

@[simp] theorem abandonAll_faults (result : Nat) (queuedToo : Bool) (s : State) : (abandonAll result queuedToo s).faults = s.faults :=
  Part.kept (p := .faults) (by simp [abandonAll_only, OnlyChanges.refl])

@[simp] theorem displayFault_faults (kind : Nat) (detail : Int) (s : State) : (displayFault kind detail s).faults = s.faults :=
  Part.kept (p := .faults) (by simp [displayFault_only, OnlyChanges.refl])

@[simp] theorem isolateChannel_faults (c : Nat) (s : State) : (isolateChannel c s).faults = s.faults :=
  Part.kept (p := .faults) (by simp [isolateChannel_only, OnlyChanges.refl])

@[simp] theorem isolateBank_faults (k : Nat) (s : State) : (isolateBank k s).faults = s.faults :=
  Part.kept (p := .faults) (by simp [isolateBank_only, OnlyChanges.refl])

@[simp] theorem assertSource_faults (src : Nat) (s : State) : (assertSource src s).faults = s.faults :=
  Part.kept (p := .faults) (by simp [assertSource_only, OnlyChanges.refl])

@[simp] theorem overflow_faults (job inst : Nat) (outs : List Nat) (s : State) : (overflow job inst outs s).faults = s.faults :=
  Part.kept (p := .faults) (by simp [overflow_only, OnlyChanges.refl])

@[simp] theorem queueMiss_faults (job n backlog : Nat) (s : State) : (queueMiss job n backlog s).faults = s.faults :=
  Part.kept (p := .faults) (by simp [queueMiss_only, OnlyChanges.refl])

/-! The arbiter. -/

@[simp] theorem updDrv_ease (d : Nat) (f : Driver → Driver) (s : State) : (updDrv d f s).ease = s.ease :=
  Part.kept (p := .ease) (by simp [updDrv_only, OnlyChanges.refl])

@[simp] theorem updSq_ease (n : Nat) (f : Seq → Seq) (s : State) : (updSq n f s).ease = s.ease :=
  Part.kept (p := .ease) (by simp [updSq_only, OnlyChanges.refl])

@[simp] theorem updLk_ease (n : Nat) (f : LinkOut → LinkOut) (s : State) : (updLk n f s).ease = s.ease :=
  Part.kept (p := .ease) (by simp [updLk_only, OnlyChanges.refl])

@[simp] theorem updIns_ease (n : Nat) (f : Insul → Insul) (s : State) : (updIns n f s).ease = s.ease :=
  Part.kept (p := .ease) (by simp [updIns_only, OnlyChanges.refl])

@[simp] theorem setOwner_ease (m : Nat) (o : Option Nat) (s : State) : (setOwner m o s).ease = s.ease :=
  Part.kept (p := .ease) (by simp [setOwner_only, OnlyChanges.refl])

@[simp] theorem emit_ease (code : Nat) (payload : List Byte) (cmdAck : Bool) (s : State) : (emit code payload cmdAck s).ease = s.ease :=
  Part.kept (p := .ease) (by simp [emit_only, OnlyChanges.refl])

@[simp] theorem event_ease (code : Nat) (payload : List Byte) (s : State) : (event code payload s).ease = s.ease :=
  Part.kept (p := .ease) (by simp [event_only, OnlyChanges.refl])

@[simp] theorem seqTo_ease (n new : Nat) (s : State) : (seqTo n new s).ease = s.ease :=
  Part.kept (p := .ease) (by simp [seqTo_only, OnlyChanges.refl])

@[simp] theorem endJob_ease (j : BusJob) (s : State) : (endJob j s).ease = s.ease :=
  Part.kept (p := .ease) (by simp [endJob_only, OnlyChanges.refl])

@[simp] theorem apduDone_ease (result : Nat) (response : List Byte) (s : State) : (apduDone result response s).ease = s.ease :=
  Part.kept (p := .ease) (by simp [apduDone_only, OnlyChanges.refl])

@[simp] theorem importRefused_ease (id : Nat) (s : State) : (importRefused id s).ease = s.ease :=
  Part.kept (p := .ease) (by simp [importRefused_only, OnlyChanges.refl])

@[simp] theorem eraseRefused_ease (id : Nat) (s : State) : (eraseRefused id s).ease = s.ease :=
  Part.kept (p := .ease) (by simp [eraseRefused_only, OnlyChanges.refl])

@[simp] theorem displayRefused_ease (id : Nat) (s : State) : (displayRefused id s).ease = s.ease :=
  Part.kept (p := .ease) (by simp [displayRefused_only, OnlyChanges.refl])

@[simp] theorem leaveRefused_ease (n : Nat) (s : State) : (leaveRefused n s).ease = s.ease :=
  Part.kept (p := .ease) (by simp [leaveRefused_only, OnlyChanges.refl])

/-! The host port. -/

@[simp] theorem journalApp_port (type key n : Nat) (s : State) : (journalApp type key n s).port = s.port :=
  Part.kept (p := .port) (by simp [journalApp_only, OnlyChanges.refl])

/-! The reset controller. -/

@[simp] theorem outputsSafe_rst (s : State) : (outputsSafe s).rst = s.rst :=
  Part.kept (p := .rst) (by simp [outputsSafe_only, OnlyChanges.refl])

@[simp] theorem sitePadsOff_rst (s : State) : (sitePadsOff s).rst = s.rst :=
  Part.kept (p := .rst) (by simp [sitePadsOff_only, OnlyChanges.refl])

@[simp] theorem assertSave_rst (s : State) : (assertSave s).rst = s.rst :=
  Part.kept (p := .rst) (by simp [assertSave_only, OnlyChanges.refl])

@[simp] theorem losePlain_rst (s : State) : (losePlain s).rst = s.rst :=
  Part.kept (p := .rst) (by simp [losePlain_only, OnlyChanges.refl])

/-! Switching. -/

@[simp] theorem event_sw (code : Nat) (payload : List Byte) (s : State) : (event code payload s).sw = s.sw :=
  Part.kept (p := .sw) (by simp [event_only, OnlyChanges.refl])

@[simp] theorem releaseOpt_sw (id : Option Nat) (s : State) : (releaseOpt id s).sw = s.sw :=
  Part.kept (p := .sw) (by simp [releaseOpt_only, OnlyChanges.refl])

@[simp] theorem busChanged_sw (ack : Bool) (s : State) : (busChanged ack s).sw = s.sw :=
  Part.kept (p := .sw) (by simp [busChanged_only, OnlyChanges.refl])

@[simp] theorem channelsOff_sw (cs : List Nat) (s : State) : (channelsOff cs s).sw = s.sw :=
  Part.kept (p := .sw) (by simp [channelsOff_only, OnlyChanges.refl])

@[simp] theorem pilotsSafe_sw (s : State) : (pilotsSafe s).sw = s.sw :=
  Part.kept (p := .sw) (by simp [pilotsSafe_only, OnlyChanges.refl])

@[simp] theorem lightSafe_sw (s : State) : (lightSafe s).sw = s.sw :=
  Part.kept (p := .sw) (by simp [lightSafe_only, OnlyChanges.refl])

@[simp] theorem releasePulses_sw (s : State) : (releasePulses s).sw = s.sw :=
  Part.kept (p := .sw) (by simp [releasePulses_only, OnlyChanges.refl])

@[simp] theorem sitePadsOff_sw (s : State) : (sitePadsOff s).sw = s.sw :=
  Part.kept (p := .sw) (by simp [sitePadsOff_only, OnlyChanges.refl])

@[simp] theorem assertSave_sw (s : State) : (assertSave s).sw = s.sw :=
  Part.kept (p := .sw) (by simp [assertSave_only, OnlyChanges.refl])

@[simp] theorem losePlain_sw (s : State) : (losePlain s).sw = s.sw :=
  Part.kept (p := .sw) (by simp [losePlain_only, OnlyChanges.refl])

@[simp] theorem openEntry_sw (src reach : Nat) (s : State) : (openEntry src reach s).sw = s.sw :=
  Part.kept (p := .sw) (by simp [openEntry_only, OnlyChanges.refl])

@[simp] theorem noteSource_sw (src : Nat) (s : State) : (noteSource src s).sw = s.sw :=
  Part.kept (p := .sw) (by simp [noteSource_only, OnlyChanges.refl])

@[simp] theorem widenReset_sw (src reach : Nat) (s : State) : (widenReset src reach s).sw = s.sw :=
  Part.kept (p := .sw) (by simp [widenReset_only, OnlyChanges.refl])

/-! The supplies. -/

@[simp] theorem event_power (code : Nat) (payload : List Byte) (s : State) : (event code payload s).power = s.power :=
  Part.kept (p := .power) (by simp [event_only, OnlyChanges.refl])

@[simp] theorem report_power (r : Report) (s : State) : (report r s).power = s.power :=
  Part.kept (p := .power) (by simp [report_only, OnlyChanges.refl])

@[simp] theorem reportFrom_power (cls : Byte) (key i cycle : Nat) (scope : Nat) (outlets : BitVec 8) (reaction : Nat) (s : State) :
    (reportFrom cls key i cycle scope outlets reaction s).power = s.power :=
  Part.kept (p := .power) (by simp [reportFrom_only, OnlyChanges.refl])

@[simp] theorem outputsSafe_power (s : State) : (outputsSafe s).power = s.power :=
  Part.kept (p := .power) (by simp [outputsSafe_only, OnlyChanges.refl])

@[simp] theorem globalSafeNow_power (s : State) : (globalSafeNow s).power = s.power :=
  Part.kept (p := .power) (by simp [globalSafeNow_only, OnlyChanges.refl])

@[simp] theorem loopRead_power (intact : Bool) (s : State) : (loopRead intact s).power = s.power :=
  Part.kept (p := .power) (by simp [loopRead_only, OnlyChanges.refl])

@[simp] theorem overRange_power (s : State) : (overRange s).power = s.power :=
  Part.kept (p := .power) (by simp [overRange_only, OnlyChanges.refl])

@[simp] theorem loadsSuper_power (s : State) : (loadsSuper s).power = s.power :=
  Part.kept (p := .power) (by simp [loadsSuper_only, OnlyChanges.refl])

@[simp] theorem witnessSuper_power (n : Nat) (s : State) : (witnessSuper n s).power = s.power :=
  Part.kept (p := .power) (by simp [witnessSuper_only, OnlyChanges.refl])

@[simp] theorem witnessSync_power (s : State) : (witnessSync s).power = s.power :=
  Part.kept (p := .power) (by simp [witnessSync_only, OnlyChanges.refl])

/-! The front end. -/

@[simp] theorem event_fe (code : Nat) (payload : List Byte) (s : State) : (event code payload s).fe = s.fe :=
  Part.kept (p := .fe) (by simp [event_only, OnlyChanges.refl])

@[simp] theorem reportFrom_fe (cls : Byte) (key i cycle : Nat) (scope : Nat) (outlets : BitVec 8) (reaction : Nat) (s : State) :
    (reportFrom cls key i cycle scope outlets reaction s).fe = s.fe :=
  Part.kept (p := .fe) (by simp [reportFrom_only, OnlyChanges.refl])

@[simp] theorem invalidReaction_fe (n x : Nat) (s : State) : (invalidReaction n x s).fe = s.fe :=
  Part.kept (p := .fe) (by simp [invalidReaction_only, OnlyChanges.refl])

@[simp] theorem metrologyFault_fe (outs : List Nat) (s : State) : (metrologyFault outs s).fe = s.fe :=
  Part.kept (p := .fe) (by simp [metrologyFault_only, OnlyChanges.refl])

/-! The clock. -/

@[simp] theorem sign_clock (r : Record) (s : State) : (sign r s).clock = s.clock :=
  Part.kept (p := .clock) (by simp [sign_only, OnlyChanges.refl])

@[simp] theorem timeAdjusted_clock (kind : Nat) (ms : Int) (after seq : Nat) (ack : Bool) (s : State) :
    (timeAdjusted kind ms after seq ack s).clock = s.clock :=
  Part.kept (p := .clock) (by simp [timeAdjusted_only, OnlyChanges.refl])

@[simp] theorem commitReset_clock (c : Commit) (s : State) : (commitReset c s).clock = s.clock :=
  Part.kept (p := .clock) (by simp [commitReset_only, OnlyChanges.refl])

@[simp] theorem commitSwitches_clock (byStep : Bool) (c : Commit) (s : State) : (commitSwitches byStep c s).clock = s.clock :=
  Part.kept (p := .clock) (by simp [commitSwitches_only, OnlyChanges.refl])

@[simp] theorem commitRecord_clock (c : Commit) (s : State) : (commitRecord c s).clock = s.clock :=
  Part.kept (p := .clock) (by simp [commitRecord_only, OnlyChanges.refl])

@[simp] theorem evaluateAt_clock (c : Commit) (s : State) : (evaluateAt c s).clock = s.clock :=
  Part.kept (p := .clock) (by simp [evaluateAt_only, OnlyChanges.refl])

@[simp] theorem closeSession_clock (n : Nat) (s : State) : (closeSession n s).clock = s.clock :=
  Part.kept (p := .clock) (by simp [closeSession_only, OnlyChanges.refl])

@[simp] theorem takeDue_clock (s : State) : (takeDue s).clock = s.clock :=
  Part.kept (p := .clock) (by simp [takeDue_only, OnlyChanges.refl])

@[simp] theorem jobsFrameEnd_clock (s : State) : (jobsFrameEnd s).clock = s.clock :=
  Part.kept (p := .clock) (by simp [jobsFrameEnd_only, OnlyChanges.refl])

@[simp] theorem evaluateLeave_clock (s : State) : (evaluateLeave s).clock = s.clock :=
  Part.kept (p := .clock) (by simp [evaluateLeave_only, OnlyChanges.refl])

@[simp] theorem energyFrame_clock (s : State) : (energyFrame s).clock = s.clock :=
  Part.kept (p := .clock) (by simp [energyFrame_only, OnlyChanges.refl])

@[simp] theorem chainFrame_clock (m : List (Nat × Nat × BitVec 1024)) (s : State) : (chainFrame m s).clock = s.clock :=
  Part.kept (p := .clock) (by simp [chainFrame_only, OnlyChanges.refl])

@[simp] theorem switchFrame_clock (m : FrameIn) (s : State) : (switchFrame m s).clock = s.clock :=
  Part.kept (p := .clock) (by simp [switchFrame_only, OnlyChanges.refl])

@[simp] theorem plumbFrame_clock (s : State) : (plumbFrame s).clock = s.clock :=
  Part.kept (p := .clock) (by simp [plumbFrame_only, OnlyChanges.refl])

@[simp] theorem linkFrame_clock (s : State) : (linkFrame s).clock = s.clock :=
  Part.kept (p := .clock) (by simp [linkFrame_only, OnlyChanges.refl])

@[simp] theorem loadsFrame_clock (m : FrameIn) (s : State) : (loadsFrame m s).clock = s.clock :=
  Part.kept (p := .clock) (by simp [loadsFrame_only, OnlyChanges.refl])

@[simp] theorem readerFrame_clock (s : State) : (readerFrame s).clock = s.clock :=
  Part.kept (p := .clock) (by simp [readerFrame_only, OnlyChanges.refl])

@[simp] theorem displayFrame_clock (s : State) : (displayFrame s).clock = s.clock :=
  Part.kept (p := .clock) (by simp [displayFrame_only, OnlyChanges.refl])

@[simp] theorem storageFrame_clock (s : State) : (storageFrame s).clock = s.clock :=
  Part.kept (p := .clock) (by simp [storageFrame_only, OnlyChanges.refl])

@[simp] theorem alignCheck_clock (s : State) : (alignCheck s).clock = s.clock :=
  Part.kept (p := .clock) (by simp [alignCheck_only, OnlyChanges.refl])

@[simp] theorem reportLost_clock (s : State) : (reportLost s).clock = s.clock :=
  Part.kept (p := .clock) (by simp [reportLost_only, OnlyChanges.refl])

@[simp] theorem forcedReset_clock (s : State) : (forcedReset s).clock = s.clock :=
  Part.kept (p := .clock) (by simp [forcedReset_only, OnlyChanges.refl])

@[simp] theorem shutdownTick_clock (s : State) : (shutdownTick s).clock = s.clock :=
  Part.kept (p := .clock) (by simp [shutdownTick_only, OnlyChanges.refl])

@[simp] theorem dieTemp_clock (t : Int) (s : State) : (dieTemp t s).clock = s.clock :=
  Part.kept (p := .clock) (by simp [dieTemp_only, OnlyChanges.refl])

@[simp] theorem loopRead_clock (intact : Bool) (s : State) : (loopRead intact s).clock = s.clock :=
  Part.kept (p := .clock) (by simp [loopRead_only, OnlyChanges.refl])

@[simp] theorem overRange_clock (s : State) : (overRange s).clock = s.clock :=
  Part.kept (p := .clock) (by simp [overRange_only, OnlyChanges.refl])

@[simp] theorem loadsSuper_clock (s : State) : (loadsSuper s).clock = s.clock :=
  Part.kept (p := .clock) (by simp [loadsSuper_only, OnlyChanges.refl])

@[simp] theorem witnessSuper_clock (n : Nat) (s : State) : (witnessSuper n s).clock = s.clock :=
  Part.kept (p := .clock) (by simp [witnessSuper_only, OnlyChanges.refl])

@[simp] theorem witnessSync_clock (s : State) : (witnessSync s).clock = s.clock :=
  Part.kept (p := .clock) (by simp [witnessSync_only, OnlyChanges.refl])

/-! The seals. -/

@[simp] theorem event_seals (code : Nat) (payload : List Byte) (s : State) : (event code payload s).seals = s.seals :=
  Part.kept (p := .seals) (by simp [event_only, OnlyChanges.refl])

@[simp] theorem sign_seals (r : Record) (s : State) : (sign r s).seals = s.seals :=
  Part.kept (p := .seals) (by simp [sign_only, OnlyChanges.refl])

@[simp] theorem sealModeChange_seals (s : State) : (sealModeChange s).seals = s.seals :=
  Part.kept (p := .seals) (by simp [sealModeChange_only, OnlyChanges.refl])

@[simp] theorem dieTemp_seals (t : Int) (s : State) : (dieTemp t s).seals = s.seals :=
  Part.kept (p := .seals) (by simp [dieTemp_only, OnlyChanges.refl])

@[simp] theorem overRange_seals (s : State) : (overRange s).seals = s.seals :=
  Part.kept (p := .seals) (by simp [overRange_only, OnlyChanges.refl])

@[simp] theorem loadsSuper_seals (s : State) : (loadsSuper s).seals = s.seals :=
  Part.kept (p := .seals) (by simp [loadsSuper_only, OnlyChanges.refl])

@[simp] theorem witnessSuper_seals (n : Nat) (s : State) : (witnessSuper n s).seals = s.seals :=
  Part.kept (p := .seals) (by simp [witnessSuper_only, OnlyChanges.refl])

@[simp] theorem witnessSync_seals (s : State) : (witnessSync s).seals = s.seals :=
  Part.kept (p := .seals) (by simp [witnessSync_only, OnlyChanges.refl])

end Sys2Proof.Laws

/-!
PROOF. Reports and closures (chapter 1): the order of root causes is a strict weak order, so that the root cause of R28 comes first among
its reports; and what the windows of R27 to R29 hand on when they end.
-/

namespace Sys2Proof.Laws

open Sys2Proof.Machine Sys2Proof.Safety

/-- The order of root causes, level by level: time stamp, cycle, wider scope, region, block, cell (R28). -/
theorem before_iff (a b : Report) : a.before b = true ↔
    a.tick < b.tick ∨ (a.tick = b.tick ∧ (a.cycle < b.cycle ∨ (a.cycle = b.cycle ∧ (b.scope < a.scope ∨ (a.scope = b.scope ∧
      (a.region < b.region ∨ (a.region = b.region ∧ (a.block < b.block ∨ (a.block = b.block ∧ a.cell < b.cell))))))))) := by
  unfold Report.before
  repeat' split
  all_goals simp only [decide_eq_true_eq]; omega

theorem before_asymm {a b : Report} (h : a.before b = true) : b.before a = false := by
  rw [Bool.eq_false_iff, Ne, before_iff]
  rw [before_iff] at h
  omega

/-- A report that does not come before one that does not come before a third does not come before the third. -/
theorem before_negTrans {a b c : Report} (h : a.before b = false) (k : b.before c = false) : a.before c = false := by
  rw [Bool.eq_false_iff, Ne, before_iff] at *
  omega

theorem before_irrefl (a : Report) : a.before a = false := by
  rw [Bool.eq_false_iff, Ne, before_iff]
  omega

/-- The root cause is one of the reports. -/
theorem rootOf_mem (rs : List Report) (r : Report) : rootOf rs r = r ∨ rootOf rs r ∈ rs := by
  induction rs generalizing r with
  | nil => exact .inl rfl
  | cons y ys ih =>
    obtain h | h := ih (if y.before r then y else r)
    · rw [rootOf, h]
      split
      case isTrue => exact .inr List.mem_cons_self
      case isFalse => exact .inl rfl
    · exact .inr (List.mem_cons_of_mem y h)

/-- No report comes before the root cause. -/
theorem not_before_rootOf (rs : List Report) (r x : Report) (hx : x ∈ r :: rs) : x.before (rootOf rs r) = false := by
  induction rs generalizing r x with
  | nil =>
    obtain rfl := List.mem_singleton.mp hx
    exact before_irrefl x
  | cons y ys ih =>
    have best : (if y.before r then y else r).before (rootOf (y :: ys) r) = false := ih _ _ (List.mem_cons_self)
    obtain rfl | hx := List.mem_cons.mp hx
    · split at best
      case isTrue hb => exact before_negTrans (before_asymm hb) best
      case isFalse => exact best
    obtain rfl | hx := List.mem_cons.mp hx
    · split at best
      case isTrue => exact best
      case isFalse hb => exact before_negTrans (Bool.eq_false_iff.mpr hb) best
    · exact ih _ x (List.mem_cons_of_mem _ hx)

/-- Settles O40: the root cause is a report, and none comes before it. -/
theorem rootCauseOrder : Obligations.RootCauseOrder := by
  unfold Obligations.RootCauseOrder
  exact fun rs r => ⟨rootOf_mem rs r, not_before_rootOf rs r⟩

/-! The windows of R27 to R29. -/

/-- A merged report of a signature that has neither a recent closure nor a chip window opens a chip window of its own (R27, R28). -/
theorem forward_opens {now : Nat} {w : Merge} {r : Report} {rs : List Report} {f : Faults} (h : w.reports = r :: rs)
    (hc : f.closures.any (recentClosure now r.cls r.key) = false) (hw : f.chip.any (Merge.is r.cls r.key) = false) :
    forward now w f = { f with chip := f.chip ++ [{ region := 6, opened := now, reports := w.reports }] } := by
  simp only [forward, h, hc, hw, Bool.false_eq_true, if_false]

/-- A region's window that is due goes to the chip collector (R27). -/
theorem execRegionMergeWindowClose_due {region : Nat} {cls : Byte} {key : Nat} {w : Merge} {s : State}
    (h : s.faults.windows.find? (fun w => w.region == region && w.is cls key && decide (w.opened + 2 ≤ s.now)) = some w) :
    execRegionMergeWindowClose region cls key s =
      .next { s with faults := forward s.now w { s.faults with windows := s.faults.windows.erase w } } := by
  simp only [execRegionMergeWindowClose, h]

/-- A chip window that is due ends in a closure (R28). -/
theorem execChipWindowClose_due {cls : Byte} {key : Nat} {w : Merge} {s : State}
    (h : s.faults.chip.find? (fun w => w.is cls key && decide (w.opened + 2 ≤ s.now)) = some w) :
    execChipWindowClose cls key s = .next (closeChip false w s) := by
  simp only [execChipWindowClose, h]

/-- While the queue of held events has a place, an event of Table 15-2 enters it (R136, R137). -/
theorem event_ack_fresh {code : Nat} {payload : List Byte} {s : State} (hc : ackCodes.contains code = true) (hh : s.port.held < 1024) :
    (event code payload s).port.fresh = s.port.fresh ++ [{ seq := s.port.evSeq, code := code, ack := true, payload := payload }] := by
  simp only [event, emit, hc, hh, Bool.or_false, Bool.true_and, decide_true, if_true, journalApp_port]

/-- The closure with which the chip collector ends a window (R28, R29, R31). -/
def closureOf (cut : Bool) (w : Merge) (r : Report) (rs : List Report) (s : State) : Closure :=
  let root := rootOf rs r
  let own := s.faults.scopes.filter (fun o => o.cls == r.cls && o.key == r.key)
  let deps := (own.map (·.dependents)).foldl (· + ·) 0
  { id := nextClosureId s.faults.lastId, root := root, echo := sat 16 rs.length,
    reaction := (w.reports.map (·.reaction)).foldl max 0,
    outlets := (w.reports.map (·.outlets)).foldl (· ||| ·) 0, dependents := sat 16 deps,
    opened := (own.map (·.opened)).headD root.moment, emitted := s.now, openRegions := coverage w.reports,
    isOpen := decide (2 ≤ widest w.reports), cutShort := cut, delivered := true }

/-- The fault records after a chip window has ended. -/
theorem closeChip_faults (cut : Bool) {w : Merge} {r : Report} {rs : List Report} (s : State) (h : w.reports = r :: rs) :
    (closeChip cut w s).faults = { s.faults with
      chip := s.faults.chip.filter (fun x => !Merge.is r.cls r.key x),
      scopes := s.faults.scopes.filter (fun o => !(o.cls == r.cls && o.key == r.key)),
      closures := (closureOf cut w r rs s :: s.faults.closures).take 64, lastId := nextClosureId s.faults.lastId } := by
  simp only [closeChip, h, event_faults, journalApp_faults, closureOf]

/-- FAULT_PRIMARY is emitted with the closure (R31). -/
theorem closeChip_fresh (cut : Bool) {w : Merge} {r : Report} {rs : List Report} {s : State} (h : w.reports = r :: rs)
    (hh : s.port.held < 1024) : (closeChip cut w s).port.fresh = s.port.fresh ++
      [{ seq := s.port.evSeq, code := 0x0C01, ack := true, payload := primaryPayload (closureOf cut w r rs s) }] := by
  simp only [closeChip, h]
  rw [event_ack_fresh (by decide) (by rw [journalApp_port]; exact hh)]
  simp only [journalApp_port, closureOf, h]

/-- Settles O39: the three windows of the merging, each by what it hands on. -/
theorem reportsMergeIntoClosures : Obligations.ReportsMergeIntoClosures := by
  unfold Obligations.ReportsMergeIntoClosures
  refine ⟨?region, ?chip, ?closure⟩
  case region =>
    intro region cls key w r rs s hw hr hc hk
    have handed := forward_opens (f := { s.faults with windows := s.faults.windows.erase w }) hr hc hk
    exact (execRegionMergeWindowClose_due hw).trans (congrArg (Host.Outcome.next ∘ s.withFaults) handed)
  case chip =>
    intro cls key w r rs s hw hr
    refine ⟨closeChip false w s, closureOf false w r rs s, execChipWindowClose_due hw, ?_, rfl, ?_, rfl, rfl, rfl, ?_, ?_⟩
    · rw [closeChip_faults false s hr]
    · rw [closeChip_faults false s hr]; rfl
    · rw [closeChip_faults false s hr]
    · exact fun hh => ⟨_, closeChip_fresh false hr hh, rfl, rfl⟩
  case closure =>
    intro id c rest s hcs hid hopen hdue
    show execClosureOpenEnd id s = _
    have done : (c.id == id && c.isOpen && decide (c.emitted + superframe ≤ s.now)) = true := by
      simp [hid, hopen, superframe, State.now, hdue]
    simp only [execClosureOpenEnd, hcs, updFirst, done, if_true]

end Sys2Proof.Laws

/-!
PROOF. The easement arbiter (chapter 1): what a placement keeps (R34, R37).
-/

namespace Sys2Proof.Laws

open Sys2Proof.Machine Sys2Proof.Safety

/-- Request r fits from frame a on when both budgets hold in a, at the end of its peak, and in every later frame where a charge starts or
ends (R37). -/
theorem fits_iff (s : State) (cs : List Charge) (r : Request) (a : Nat) : fits s cs r a = true ↔
    ∀ t, (t = a ∨ t = a + r.duration ∨ (a < t ∧ t ∈ changePoints cs)) →
      vauxTotal s ({ rq := r, start := a } :: cs) t ≤ s.ease.vauxBudget.toNat ∧ intTotal s ({ rq := r, start := a } :: cs) t ≤ intBudget := by
  simp only [fits, List.all_eq_true, Bool.and_eq_true, decide_eq_true_eq, List.mem_cons, List.mem_filter, and_comm]

/-- What the arbiter places starts at the first frame open to it or at the later end of a peak, at its latest start at the latest, and
fits there (R37). -/
theorem place_spec {s : State} {cs : List Charge} {r : Request} {a : Nat} (h : place s cs r = some a) :
    max s.now r.slot ≤ a ∧ a ≤ r.latest ∧ fits s cs r a = true := by
  have hfits := List.find?_some h
  have hmem := List.mem_of_find?_eq_some h
  simp only [List.mem_filter, List.mem_cons, decide_eq_true_eq] at hmem
  obtain ⟨hfirst, hlatest⟩ := hmem
  refine ⟨?_, hlatest, hfits⟩
  obtain rfl | ⟨-, hlater⟩ := hfirst
  · exact Nat.le_refl _
  · exact Nat.le_of_lt hlater

/-- Settles O42: the frame that place finds is one that the request allows, and the request fits there. -/
theorem placementKeepsBudgets : Obligations.PlacementKeepsBudgets := by
  unfold Obligations.PlacementKeepsBudgets
  intro s cs r a h
  obtain ⟨hfirst, hlatest, hfits⟩ := place_spec h
  exact ⟨(Nat.le_max_left _ _).trans hfirst, (Nat.le_max_right _ _).trans hfirst, hlatest, (fits_iff s cs r a).mp hfits⟩

end Sys2Proof.Laws

/-!
PROOF. The operations that give leave up (R33, R40): they never charge a request anew, so what has lost its leave holds none after them.
-/

namespace Sys2Proof.Laws

open Sys2Proof.Machine Sys2Proof.Safety

/-! Requests that hold no charge. -/

/-- No charge of the arbiter is request id's. -/
def Uncharged (id : Nat) (s : State) : Prop := ∀ c ∈ s.ease.charges, c.rq.id ≠ id

theorem uncharged_iff_chargeOf {id : Nat} {s : State} : Uncharged id s ↔ chargeOf id s = none := by
  simp [Uncharged, chargeOf, List.find?_eq_none]

section

variable {id : Nat} {s t : State}

theorem Uncharged.of_ease (u : Uncharged id s) (h : t.ease = s.ease) : Uncharged id t := by
  rwa [Uncharged, h]

theorem Uncharged.ite {p : Prop} [Decidable p] (u : Uncharged id s) (v : Uncharged id t) : Uncharged id (if p then s else t) := by
  split
  · exact u
  · exact v

theorem Uncharged.foldl {α : Type} {f : State → α → State} {l : List α} (hf : ∀ s x, Uncharged id s → Uncharged id (f s x))
    (u : Uncharged id s) : Uncharged id (l.foldl f s) := by
  induction l generalizing s with
  | nil => exact u
  | cons x l ih => exact ih (hf s x u)

theorem withSw_uncharged (v : Switch) (u : Uncharged id s) : Uncharged id (s.withSw v) := u
theorem updSq_uncharged (n : Nat) (f : Seq → Seq) (u : Uncharged id s) : Uncharged id (updSq n f s) := u
theorem withLink_uncharged (v : Link) (u : Uncharged id s) : Uncharged id (s.withLink v) := u
theorem updLk_uncharged (n : Nat) (f : LinkOut → LinkOut) (u : Uncharged id s) : Uncharged id (updLk n f s) := u
theorem withdrawAuth_uncharged (n : Nat) (u : Uncharged id s) : Uncharged id (withdrawAuth n s) := u
theorem updCh_uncharged (c : Nat) (f : Chan → Chan) (u : Uncharged id s) : Uncharged id (updCh c f s) := u
theorem updBank_uncharged (k : Nat) (f : Bank → Bank) (u : Uncharged id s) : Uncharged id (updBank k f s) := u
theorem modulesOff_uncharged (n : Nat) (u : Uncharged id s) : Uncharged id (modulesOff n s) := u
theorem closeAt_uncharged (n : Nat) (u : Uncharged id s) : Uncharged id (closeAt n s) := u
theorem tell_uncharged (n code : Nat) (u : Uncharged id s) : Uncharged id (tell n code s) := u
theorem endAfterStop_uncharged (n cause : Nat) (u : Uncharged id s) : Uncharged id (endAfterStop n cause s) := u

theorem emit_uncharged (code : Nat) (payload : List Byte) (ack : Bool) (u : Uncharged id s) : Uncharged id (emit code payload ack s) :=
  u.of_ease (emit_ease code payload ack s)

theorem seqTo_uncharged (n new : Nat) (u : Uncharged id s) : Uncharged id (seqTo n new s) := u.of_ease (seqTo_ease n new s)

theorem release_uncharged (k : Nat) (u : Uncharged id s) : Uncharged id (release k s) :=
  fun c hc => u c (List.mem_of_mem_filter hc)

/-- What is released holds no charge any more. -/
theorem release_self_uncharged (id : Nat) (s : State) : Uncharged id (release id s) := by
  intro c hc
  simpa using (List.mem_filter.mp hc).2

theorem releaseOpt_uncharged (k : Option Nat) (u : Uncharged id s) : Uncharged id (releaseOpt k s) := by
  cases k with
  | none => exact u
  | some k => exact release_uncharged k u

theorem driverOff_uncharged (d : Nat) (u : Uncharged id s) : Uncharged id (driverOff d s) :=
  (releaseOpt_uncharged _ u).of_ease (updDrv_ease _ _ _)

theorem dropLeave_uncharged (n : Nat) (u : Uncharged id s) : Uncharged id (dropLeave n s) :=
  .ite (updLk_uncharged _ _ (releaseOpt_uncharged _ u)) u

theorem linkEnd_uncharged (n cause : Nat) (u : Uncharged id s) : Uncharged id (linkEnd n cause s) := by
  have withdrawn : ∀ v, Uncharged id (withdrawAuth n ((releaseOpt (lk s n).leave s).withLink v)) :=
    fun v => withdrawAuth_uncharged _ (withLink_uncharged v (releaseOpt_uncharged _ u))
  exact .ite (dropLeave_uncharged n u)
    (emit_uncharged _ _ _ (updLk_uncharged _ _ (.ite (emit_uncharged _ _ _ (withdrawn _)) (withdrawn _))))

theorem dropJobs_uncharged (n : Nat) (u : Uncharged id s) : Uncharged id (dropJobs n s) :=
  .foldl (fun s j v => v.of_ease (endJob_ease j s)) (.foldl (fun _ _ v => .ite (driverOff_uncharged _ v) v) u)

/-- Drivers 2n and 2n + 1 switched off, the jobs of the group dropped, with whatever leave they held. -/
theorem pairOff_uncharged (n : Nat) (u : Uncharged id s) :
    Uncharged id (driverOff (2 * n + 1) (driverOff (2 * n) (dropJobs n s))) :=
  driverOff_uncharged _ (driverOff_uncharged _ (dropJobs_uncharged n u))

theorem driversOff_uncharged (ds : List Nat) (u : Uncharged id s) : Uncharged id (ds.foldl (fun s d => driverOff d s) s) :=
  .foldl (fun _ d v => driverOff_uncharged d v) u

theorem ownersCleared_uncharged (ms : List Nat) (u : Uncharged id s) : Uncharged id (ms.foldl (fun s m => setOwner m none s) s) :=
  .foldl (fun s m v => v.of_ease (setOwner_ease m none s)) u

theorem lockOutlet_uncharged (n : Nat) (u : Uncharged id s) : Uncharged id (lockOutlet n s) := by
  unfold lockOutlet
  refine linkEnd_uncharged _ _ (seqTo_uncharged _ _ (.ite ?_ (seqTo_uncharged _ _ ?_))) <;>
    exact updSq_uncharged _ _ (ownersCleared_uncharged _ (driversOff_uncharged _ (pairOff_uncharged n
      (modulesOff_uncharged _ (closeAt_uncharged _ (withSw_uncharged _ u))))))

theorem weldDone_uncharged (n : Nat) (u : Uncharged id s) : Uncharged id (weldDone n s) := by
  unfold weldDone
  refine .ite (lockOutlet_uncharged n u) (.ite ?_ u)
  have dissolved : ∀ (ms : List Nat) (f : Seq → Seq), Uncharged id (seqTo n 0 (updSq n f (ms.foldl (fun s m => setOwner m none s) s))) :=
    fun ms f => seqTo_uncharged _ _ (updSq_uncharged _ _ (ownersCleared_uncharged ms u))
  dsimp only
  split
  · exact linkEnd_uncharged _ _ (dissolved _ _)
  · exact dissolved _ _

theorem pairOpened_uncharged (n : Nat) (u : Uncharged id s) : Uncharged id (pairOpened n s) :=
  .ite (weldDone_uncharged n (seqTo_uncharged _ _ (driversOff_uncharged _ (closeAt_uncharged _ (updSq_uncharged _ _ u))))) u

theorem openPair_uncharged (n : Nat) (u : Uncharged id s) : Uncharged id (openPair n s) :=
  pairOpened_uncharged n (seqTo_uncharged _ _ (pairOff_uncharged n (modulesOff_uncharged _ (withSw_uncharged _ u))))

theorem failSequence_uncharged (n cause : Nat) (u : Uncharged id s) : Uncharged id (failSequence n cause s) :=
  tell_uncharged _ _ (openPair_uncharged n (updSq_uncharged _ _ u))

theorem pullInRefused_uncharged (k : Nat) (u : Uncharged id s) : Uncharged id (pullInRefused k s) := by
  unfold pullInRefused
  have dropped : ∀ (ds : List Nat) (js : List BusJob) (f : Driver → Driver),
      Uncharged id (js.foldl (fun s j => endJob j s) (ds.foldl (fun s d => updDrv d f s) s)) :=
    fun ds js f => .foldl (fun s j v => v.of_ease (endJob_ease j s)) (.foldl (fun s d v => v.of_ease (updDrv_ease d f s)) u)
  dsimp only
  split
  · exact failSequence_uncharged _ _ (endAfterStop_uncharged _ _ (dropped _ _ _))
  · exact dropped _ _ _

theorem chTo_uncharged (c new : Nat) (u : Uncharged id s) : Uncharged id (chTo c new s) := by
  unfold chTo
  refine .ite u (.ite (emit_uncharged _ _ _ (updCh_uncharged _ _ ?_)) ?_) <;>
    exact emit_uncharged _ _ _ (.ite (updBank_uncharged _ _ (updCh_uncharged _ _ (.ite (releaseOpt_uncharged _ u) u)))
      (updCh_uncharged _ _ (.ite (releaseOpt_uncharged _ u) u)))

/-- A request that is submitted is not charged yet. -/
theorem requestLoad_uncharged (c : Nat) (u : Uncharged id s) : Uncharged id (requestLoad c s) := u

theorem serveBank_uncharged (k : Nat) (u : Uncharged id s) : Uncharged id (serveBank k s) := by
  unfold serveBank
  refine .ite u ?_
  split
  · exact u
  · exact requestLoad_uncharged _ u

theorem loadRefused_uncharged (c k : Nat) (u : Uncharged id s) : Uncharged id (loadRefused c k s) :=
  .ite (.ite (serveBank_uncharged _ (updCh_uncharged _ _ u)) (serveBank_uncharged _ (chTo_uncharged _ _ (updCh_uncharged _ _ u)))) u

theorem readerStop_uncharged (st : Nat) (u : Uncharged id s) : Uncharged id (readerStop st s) := by
  have ended : Uncharged id (if s.rdr.apdu.isSome then apduDone 2 [] s else s) := .ite (u.of_ease (apduDone_ease _ _ _)) u
  exact releaseOpt_uncharged _ ended

theorem fieldRefused_uncharged (k : Nat) (u : Uncharged id s) : Uncharged id (fieldRefused k s) :=
  .ite u (readerStop_uncharged _ u)

/-- An operation that does not take place, of whatever class, is charged nothing (R36, R40). -/
theorem dropOp_uncharged (r : Request) (u : Uncharged id s) : Uncharged id (dropOp r s) := by
  unfold dropOp
  split
  · exact pullInRefused_uncharged _ u
  · exact u.of_ease (updIns_ease _ _ _)
  · exact loadRefused_uncharged _ _ u
  · exact u.of_ease (leaveRefused_ease _ _)
  · exact u
  · exact fieldRefused_uncharged _ u
  · exact u.of_ease (importRefused_ease _ _)
  · exact u.of_ease (eraseRefused_ease _ _)
  · exact u.of_ease (displayRefused_ease _ _)

end

end Sys2Proof.Laws

/-!
PROOF. Leave begins and ends (chapter 1, R36, R40): a reserved operation in its frame, a lapse, the end of a peak, an overrun.
-/

namespace Sys2Proof.Laws

open Sys2Proof.Machine Sys2Proof.Safety

/-- The arbiter replaced is a change of its part alone. -/
theorem withEase_only {l : List Part} {u s : State} (v : Ease) (k : Part.ease ∈ l) (h : OnlyChanges l u s) : OnlyChanges l u (s.withEase v) := by
  refine h.trans fun p hp => ?_
  cases p with
  | ease => exact absurd k hp
  | _ => rfl

theorem withTrv_only {l : List Part} {u s : State} (v : Traverse) (k : Part.trv ∈ l) (h : OnlyChanges l u s) : OnlyChanges l u (s.withTrv v) := by
  refine h.trans fun p hp => ?_
  cases p with
  | trv => exact absurd k hp
  | _ => rfl

/-- The charge of a request is one of the arbiter's, and names the request. -/
theorem chargeOf_some {req : Nat} {s : State} {c : Charge} (h : chargeOf req s = some c) : c ∈ s.ease.charges ∧ c.rq.id = req :=
  ⟨List.mem_of_find?_eq_some h, by simpa using List.find?_some h⟩

/-- An operation that has begun is charged as begun and granted. -/
theorem chargeOf_beginOp {id : Nat} {s : State} {d : Charge} (h : chargeOf id (beginOp id s) = some d) : d.begun = true ∧ d.granted = true := by
  obtain ⟨hmem, hid⟩ := chargeOf_some h
  obtain ⟨x, -, rfl⟩ := List.mem_map.mp hmem
  by_cases hx : x.rq.id = id
  · simp [hx]
  · simp only [hx, if_false] at hid

/-- The charges after the end of request id's peak phase: the others as they were, its own in its hold if it has one (R40). -/
theorem mem_leavePeak (id : Nat) (s : State) (x : Charge) : x ∈ (leavePeak id s).ease.charges ↔
    (x ∈ s.ease.charges ∧ x.rq.id ≠ id) ∨ ∃ y, y ∈ s.ease.charges ∧ y.rq.id = id ∧ y.rq.hold ≠ 0 ∧ x = { y with inHold := true } := by
  simp only [leavePeak, List.mem_filter, List.mem_map, Bool.or_eq_true, bne_iff_ne]
  constructor
  · rintro ⟨⟨y, hy, rfl⟩, hkept⟩
    by_cases hid : y.rq.id = id
    · simp only [hid, if_true, ne_eq, not_true_eq_false, false_or] at hkept
      exact .inr ⟨y, hy, hid, hkept, if_pos hid⟩
    · exact .inl (by simpa [hid] using hy)
  · rintro (⟨hx, hid⟩ | ⟨y, hy, hid, hhold, rfl⟩)
    · exact ⟨⟨x, hx, if_neg hid⟩, .inl hid⟩
    · exact ⟨⟨y, hy, if_pos hid⟩, .inr hhold⟩

/-- The charge of a request in its frame is marked as granted, and its operation begins (R36). -/
theorem execDeferFrameReached_due {req : Nat} {c : Charge} {s : State} (h : chargeOf req s = some c) (hr : s.regionsRun = true)
    (hb : c.begun = false) (hg : c.granted = false) (h0 : c.start ≤ s.now) (h2 : s.now < c.start + 2) :
    execDeferFrameReached req s = .next (startOp c.rq { s with ease := { s.ease with
      charges := s.ease.charges.map (fun x => if x.rq.id = req then { x with granted := true } else x) } }) := by
  simp [execDeferFrameReached, h, hr, hb, hg, h0, h2]

/-- The Traverse transmitter's operation begins with its grant (R366). -/
theorem startOp_trv {r : Request} (h : r.cls = 5) (s : State) : startOp r s = beginOp r.id (s.withTrv { s.trv with grant := true }) := by
  simp [startOp, h]

/-- Leave that was not taken up lapses: it is released, and the operation does not take place (R40). -/
theorem execLeaveLapse_due {req : Nat} {c : Charge} {s : State} (h : chargeOf req s = some c) (hb : c.begun = false)
    (h2 : c.start + 2 ≤ s.now) : execLeaveLapse req s = .next (dropOp c.rq (release req s)) := by
  simp [execLeaveLapse, h, hb, h2]

/-- A peak phase that is reported over leaves the hold (R40). -/
theorem execPeakPhaseEnd_begun {req : Nat} {c : Charge} {s : State} (h : chargeOf req s = some c) (hb : c.begun = true)
    (hh : c.inHold = false) (hs : c.rq.standing = false) : execPeakPhaseEnd req s = .next (leavePeak req s) := by
  simp [execPeakPhaseEnd, h, hb, hh, hs]

/-- EASEMENT_OVERRUN marks the charge, which stays (R40). -/
theorem execEasementOverrun_late {req : Nat} {c : Charge} {s : State} (h : chargeOf req s = some c) (hb : c.begun = true)
    (hh : c.inHold = false) (hs : c.rq.standing = false) (ho : c.overrun = false) (hcls : c.rq.cls ≠ 3)
    (hlate : c.start + c.rq.duration ≤ s.now) :
    execEasementOverrun req s = .next (event 0x0145
      (le 1 c.rq.cls ++ le 1 c.rq.requester ++ le 2 c.rq.duration ++ stampB (legalAt s (c.start + c.rq.duration)))
      (s.withEase { s.ease with charges := s.ease.charges.map (fun x => if x.rq.id = req then { x with overrun := true } else x) })) := by
  simp [execEasementOverrun, h, hb, hh, hs, ho, hcls, hlate]

/-- Settles O41: each of the four ends of a leave by the operation that ends it. -/
theorem leaveBeginsAndEnds : Obligations.LeaveBeginsAndEnds := by
  unfold Obligations.LeaveBeginsAndEnds
  refine ⟨?begins, ?answered, ?lapses, ?peakEnds, ?overruns⟩
  case begins =>
    intro req c s h hr hb hg h0 h2 hcls
    obtain ⟨-, rfl⟩ := chargeOf_some h
    refine ⟨_, execDeferFrameReached_due h hr hb hg h0 h2, ?_⟩
    rw [startOp_trv hcls]
    exact ⟨rfl, fun d => chargeOf_beginOp, beginOp_only _ (by decide) (withTrv_only _ (by decide) (withEase_only _ (by decide) (.refl _ s)))⟩
  case answered => exact fun req c s h hr hb hg h0 h2 => ⟨_, execDeferFrameReached_due h hr hb hg h0 h2⟩
  case lapses =>
    intro req c s h hb h2
    exact ⟨_, execLeaveLapse_due h hb h2, uncharged_iff_chargeOf.mp (dropOp_uncharged _ (release_self_uncharged req s))⟩
  case peakEnds =>
    intro req c s h hb hh hs
    exact ⟨_, execPeakPhaseEnd_begun h hb hh hs, leavePeak_only req (by decide) (.refl _ s), mem_leavePeak req s⟩
  case overruns =>
    intro req c s h hb hh hs ho hcls hlate
    refine ⟨_, execEasementOverrun_late h hb hh hs ho hcls hlate, ?_, ?_⟩
    · rw [event_ease]
    · exact event_only _ _ (by decide) (by decide) (withEase_only _ (by decide) (.refl _ s))

end Sys2Proof.Laws

/-!
PROOF. Monitored cells (chapter 1): the tables keyed by a number, and the corrections of R15 and retries of R16.
-/

namespace Sys2Proof.Laws

open Sys2Proof.Machine Sys2Proof.Safety

/-! Tables keyed by a number. -/

theorem assocGet_cons {α : Type} (d : α) (k : Nat) (p : Nat × α) (l : List (Nat × α)) :
    assocGet d k (p :: l) = if p.1 = k then p.2 else assocGet d k l := by
  by_cases h : p.1 = k <;> simp [assocGet, h]

@[simp] theorem assocGet_assocPut_self {α : Type} (d v : α) (k : Nat) (l : List (Nat × α)) : assocGet d k (assocPut k v l) = v := by
  induction l with
  | nil => simp [assocPut, assocGet_cons]
  | cons p l ih =>
    unfold assocPut
    split
    · simp [assocGet_cons]
    split
    · simp [assocGet_cons]
    next hne _ => rw [assocGet_cons, if_neg hne, ih]

theorem assocGet_assocPut_of_ne {α : Type} (d v : α) {i k : Nat} (h : i ≠ k) (l : List (Nat × α)) :
    assocGet d i (assocPut k v l) = assocGet d i l := by
  induction l with
  | nil => rw [assocPut, assocGet_cons, if_neg h.symm]
  | cons p l ih =>
    unfold assocPut
    split
    next hp => rw [assocGet_cons, assocGet_cons, if_neg h.symm, if_neg (hp ▸ h.symm)]
    split
    · rw [assocGet_cons, if_neg h.symm]
    · rw [assocGet_cons, assocGet_cons, ih]

/-! Cells. -/

@[simp] theorem cellSt_updCell_self (i : Nat) (f : CellState → CellState) (s : State) : cellSt (updCell i f s) i = f (cellSt s i) :=
  assocGet_assocPut_self _ _ _ _

theorem cellSt_updCell_of_ne {i k : Nat} (h : k ≠ i) (f : CellState → CellState) (s : State) : cellSt (updCell i f s) k = cellSt s k :=
  assocGet_assocPut_of_ne _ _ h _

/-- A cell of a region that runs counts its corrections; the one that passes 16 in a superframe reports (R15). -/
theorem execCellErrorCorrected_up {cell count cycle : Nat} {s : State} (up : cellUp s cell = true) (hc : cell < cellCount)
    (hu : cellInUse s cell = true) : execCellErrorCorrected cell count cycle s =
      let t := updCell cell (fun x => { x with corrections := sat 16 (x.corrections + count), superCount := (cellSt s cell).superCount + count }) s
      .next (if (cellSt s cell).superCount ≤ 16 ∧ 16 < (cellSt s cell).superCount + count then cellReport 0x01 cell cycle scopeCell 0 0 t else t) := by
  simp [execCellErrorCorrected, up, hc, hu]

/-- A retry that succeeds is counted for its block, and nothing else changes (R16). -/
theorem execCellUncorrectable_retried {cell cycle : Nat} {c : CellId} {s : State} (up : cellUp s cell = true) (hu : cellInUse s cell = true)
    (hc : cellId cell = some c) : execCellUncorrectable cell true false cycle s = .next (s.withFaults { s.faults with
      retried := assocPut (64 * c.region + c.block) (assocGet 0 (64 * c.region + c.block) s.faults.retried + 1) s.faults.retried }) := by
  simp [execCellUncorrectable, up, hu, hc]

/-- Settles O36: a correction below the rate, one that passes it, and a retry that succeeds. -/
theorem correctionsCounted : Obligations.CorrectionsCounted := by
  unfold Obligations.CorrectionsCounted
  refine ⟨?counted, ?reported, ?retried⟩
  case counted =>
    intro cell count cycle s up hc hu hle
    refine ⟨_, (execCellErrorCorrected_up up hc hu).trans (congrArg _ (if_neg (by omega))), ?_, rfl, fun i hi => ?_⟩
    · rw [cellSt_updCell_self]
    · rw [cellSt_updCell_of_ne hi]
  case reported =>
    intro cell count cycle s up hc hu hle hlt
    refine ⟨_, (execCellErrorCorrected_up up hc hu).trans (congrArg _ (if_pos ⟨hle, hlt⟩)), ?_, ?_⟩ <;> rw [cellSt_updCell_self]
  case retried =>
    intro cell c cycle s up hu hc
    exact ⟨_, execCellUncorrectable_retried up hu hc, rfl, rfl, assocGet_assocPut_self _ _ _ _⟩

end Sys2Proof.Laws

/-!
PROOF. What a fault's reaction leaves of the fault records (chapter 1): reports, effects and reactions of a region touch neither the cells nor
the isolated blocks nor the statistics of the jobs. With it, the count of missed deadlines (R24).
-/

namespace Sys2Proof.Laws

open Sys2Proof.Machine Sys2Proof.Safety

/-- The records of cells, blocks and jobs, apart from collectors, closures and the faulty functions. -/
def records (f : Faults) : List (Nat × CellState) × List (Nat × Nat) × List (Nat × JobStat) := (f.cells, f.blocks, f.jobs)

theorem cellSt_of_cells {s t : State} (h : t.faults.cells = s.faults.cells) (i : Nat) : cellSt t i = cellSt s i := by
  rw [cellSt, cellSt, h]

theorem cells_of_records {s t : State} (h : records t.faults = records s.faults) : t.faults.cells = s.faults.cells :=
  congrArg (fun r => r.1) h

theorem blocks_of_records {s t : State} (h : records t.faults = records s.faults) : t.faults.blocks = s.faults.blocks :=
  congrArg (fun r => r.2.1) h

theorem jobs_of_records {s t : State} (h : records t.faults = records s.faults) : t.faults.jobs = s.faults.jobs :=
  congrArg (fun r => r.2.2) h

/-! Reports. -/

/-- A report reaches the collectors, and no record of cells, blocks or jobs (R26). -/
theorem collect_records (now : Nat) (r : Report) (f : Faults) : records (collect now r f) = records f := by
  unfold collect countDependent openScope
  dsimp only
  repeat' split
  all_goals rfl

@[simp] theorem report_records (r : Report) (s : State) : records (report r s).faults = records s.faults := collect_records _ _ _

@[simp] theorem reportFrom_records (cls : Byte) (key i cycle scope : Nat) (outlets : BitVec 8) (reaction : Nat) (s : State) :
    records (reportFrom cls key i cycle scope outlets reaction s).faults = records s.faults := by
  unfold reportFrom
  split
  · exact report_records _ _
  · rfl

@[simp] theorem cellReport_records (cls : Byte) (i cycle scope : Nat) (outlets : BitVec 8) (reaction : Nat) (s : State) :
    records (cellReport cls i cycle scope outlets reaction s).faults = records s.faults := reportFrom_records ..

/-! Reactions of the regions (Table 1-4). -/

theorem globalSafeNow_faults (s : State) : (globalSafeNow s).faults = { s.faults with globalSafe := true } :=
  outputsSafe_faults _

theorem safetyFault_faults (s : State) : (safetyFault s).faults = { s.faults with globalSafe := true } := by
  rw [safetyFault, assertSource_faults, globalSafeNow_faults]

theorem metrologyFault_faults (outs : List Nat) (s : State) : (metrologyFault outs s).faults =
    { s.faults with metFaulty := outs.foldl (fun m n => setBit m n true) s.faults.metFaulty } :=
  foldl_kept State.faults (fun _ _ => demandStop_faults _ _ _ _) _ _

theorem linkFault_faults (outs : List Nat) (s : State) : (linkFault outs s).faults =
    { s.faults with linkFaulty := outs.foldl (fun m n => setBit m n true) s.faults.linkFaulty } :=
  foldl_kept State.faults (fun _ _ => stopLink_faults _ _ _ _ _) _ _

@[simp] theorem safetyFault_records (s : State) : records (safetyFault s).faults = records s.faults := by
  rw [safetyFault_faults]; rfl

@[simp] theorem metrologyFault_records (outs : List Nat) (s : State) : records (metrologyFault outs s).faults = records s.faults := by
  rw [metrologyFault_faults]; rfl

@[simp] theorem linkFault_records (outs : List Nat) (s : State) : records (linkFault outs s).faults = records s.faults := by
  rw [linkFault_faults]; rfl

@[simp] theorem trvFault_records (s : State) : records (trvFault s).faults = records s.faults := by
  rw [trvFault, trvSilent_faults, releaseOpt_faults]; rfl

@[simp] theorem readerFault_records (s : State) : records (readerFault s).faults = records s.faults := by
  rw [readerFault, readerStop_faults]; rfl

@[simp] theorem displayBlockFaulty_records (s : State) : records (displayBlockFaulty s).faults = records s.faults := by
  unfold displayBlockFaulty
  split
  · rfl
  · rw [lowerRails_faults, abandonAll_faults, displayFault_faults]; rfl

@[simp] theorem witnessFault_records (s : State) : records (witnessFault s).faults = records s.faults := rfl

theorem regionReaction_records (region : Nat) (outs : List Nat) (s : State) :
    records (regionReaction region outs s).faults = records s.faults := by
  unfold regionReaction
  split <;> simp

/-- The effect of an isolation on what the cell served sets flags of its own (Table 1-3). -/
theorem cellEffect_records (c : CellId) (s : State) : records (cellEffect c s).faults = records s.faults := by
  unfold cellEffect
  split
  case h_1 => rw [updDrv_faults, driverOff_faults]; rfl
  case h_2 => rw [isolatedDemands_faults]; rfl
  case h_3 => rw [isolatedDemands_faults]; rfl
  case h_4 => rw [proofLapses_faults]; rfl
  case h_5 => exact foldl_kept (fun s => records s.faults) (fun s m => by simp only [moduleGone_faults, updPm_faults]) _ _
  case h_6 => rfl
  case h_7 => rw [isolateChannel_faults]
  case h_8 => exact trvFault_records s
  case h_9 => exact readerFault_records s
  case h_10 => exact displayBlockFaulty_records s
  case h_11 => exact witnessFault_records s
  case h_12 => split <;> simp
  case h_13 => rfl

/-! Isolated blocks. -/

/-- A block is isolated once (R18). -/
theorem mem_isolateBlock (region block : Nat) (s : State) : (region, block) ∈ (isolateBlock region block s).faults.blocks := by
  unfold isolateBlock
  split
  next h => simpa using h
  · simp

theorem isolateBlock_cells (region block : Nat) (s : State) : (isolateBlock region block s).faults.cells = s.faults.cells := by
  unfold isolateBlock
  split <;> rfl

theorem isolateBlock_jobs (region block : Nat) (s : State) : (isolateBlock region block s).faults.jobs = s.faults.jobs := by
  unfold isolateBlock
  split <;> rfl

/-! Jobs. -/

theorem jobSt_of_jobs {s t : State} (h : t.faults.jobs = s.faults.jobs) (job inst : Nat) : jobSt t job inst = jobSt s job inst := by
  rw [jobSt, jobSt, h]

@[simp] theorem jobSt_updJob_self (job inst : Nat) (f : JobStat → JobStat) (s : State) :
    jobSt (updJob job inst f s) job inst = f (jobSt s job inst) :=
  assocGet_assocPut_self _ _ _ _

theorem deadlineReport_jobs (job inst cycle : Nat) (esc : Bool) (outs : List Nat) (reaction : Nat) (s : State) :
    (deadlineReport job inst cycle esc outs reaction s).faults.jobs = s.faults.jobs :=
  jobs_of_records (report_records _ s)

/-- The reaction of an escalation leaves the statistics (Table 15-3). -/
theorem escalate_jobs (job inst : Nat) (outs : List Nat) (s : State) : (escalate job inst outs s).faults.jobs = s.faults.jobs := by
  unfold escalate
  dsimp only
  generalize isolated : (if job = 12 ∨ job = 4 then s else if job = 5 then isolateBlock 3 inst s
    else isolateBlock (jobRegion job) (originBlock 0x08 (256 * job + 128 + inst)) s) = s1
  have kept : s1.faults.jobs = s.faults.jobs := by
    subst isolated
    split
    · rfl
    split <;> exact isolateBlock_jobs ..
  refine Eq.trans (jobs_of_records (s := s1) ?_) kept
  split
  case h_1 | h_2 | h_3 => exact safetyFault_records _
  case h_4 | h_5 => exact linkFault_records _ _
  case h_6 => rfl
  case h_7 => rw [isolateBank_faults]
  case h_8 => exact metrologyFault_records _ _

theorem escalation_jobs (job inst cycle : Nat) (s : State) : (escalation job inst cycle s).faults.jobs = s.faults.jobs :=
  (escalate_jobs ..).trans (deadlineReport_jobs ..)

/-- The statistics of a job after a miss (R24): counted, and in a run of its own where the last deadline was met. -/
theorem jobSt_countMiss (job inst endCycle : Nat) (s : State) :
    let x := jobSt (countMiss job inst endCycle s) job inst
    x.misses = satInc 16 (jobSt s job inst).misses ∧ x.lastTick = s.now ∧ x.lastMiss = s.clock.legal ∧
      ((jobSt s job inst).run = 0 → x.run = 1) := by
  dsimp only [countMiss]
  rw [jobSt_updJob_self]
  exact ⟨rfl, rfl, rfl, fun h => by simp [h]⟩

/-- A miss of a job that runs changes its own statistics as countMiss does, whatever is reported, lost or escalated with it. -/
theorem execDeadlineMiss_jobs {job inst endCycle cycle : Nat} {s : State} (hc : s.collecting = true) (hj : jobRuns s job inst = true)
    (hnew : (jobSt s job inst).run = 0 ∨ (jobSt s job inst).lastTick ≠ s.now) :
    ∃ t, execDeadlineMiss job inst endCycle cycle s = .next t ∧ t.faults.jobs = (countMiss job inst endCycle s).faults.jobs := by
  have fresh : ¬ ((jobSt s job inst).run ≠ 0 ∧ (jobSt s job inst).lastTick = s.now) := by tauto
  have queued : ∀ (l : List Nat) (b : Nat) (u : State), (l.foldl (fun s n => queueMiss job n b s) u).faults = u.faults :=
    fun l b u => foldl_kept State.faults (fun s n => queueMiss_faults job n b s) l u
  refine ⟨_, by simp only [execDeadlineMiss, hc, hj, fresh, Bool.and_true, Bool.not_true, Bool.false_eq_true, if_false]; rfl, ?_⟩
  simp only [apply_ite State.faults, apply_ite Faults.jobs, escalation_jobs, overflow_faults, queued, deadlineReport_jobs, ite_self]

/-- Settles O38: the first miss of a frame, and one that follows it in the same frame. -/
theorem missesCounted : Obligations.MissesCounted := by
  unfold Obligations.MissesCounted
  refine ⟨?counted, ?again⟩
  case counted =>
    intro job inst e cycle s hc hj hnew
    obtain ⟨t, step, jobs⟩ := execDeadlineMiss_jobs (endCycle := e) (cycle := cycle) hc hj hnew
    exact ⟨t, step, jobSt_of_jobs jobs job inst ▸ jobSt_countMiss job inst e s⟩
  case again =>
    intro job inst e cycle s hc hj hrun hlast
    have again : (jobSt s job inst).run ≠ 0 ∧ (jobSt s job inst).lastTick = s.now := ⟨hrun, hlast⟩
    show execDeadlineMiss job inst e cycle s = _
    simp [execDeadlineMiss, hc, hj, again]

end Sys2Proof.Laws

/-!
PROOF. The safe state and the reset sources (chapters 1 and 3): every permit is released and stays so, and a source that is asserted is held
in the list of sources.
-/

namespace Sys2Proof.Laws

open Sys2Proof.Machine Sys2Proof.Safety

/-! Permits: the outputs' safe states release every one (R20), and what follows gives none. -/

@[simp] theorem updDrv_permit (d : Nat) (f : Driver → Driver) (s : State) : (updDrv d f s).sw.permit = s.sw.permit := rfl

@[simp] theorem driverOff_permit (d : Nat) (s : State) : (driverOff d s).sw.permit = s.sw.permit := by
  rw [driverOff, updDrv_permit, releaseOpt_sw]

@[simp] theorem armHwOff_permit (ds : List Nat) (s : State) : (armHwOff ds s).sw.permit = s.sw.permit :=
  foldl_kept (·.sw.permit) (fun s d => updDrv_permit d _ s) _ _

@[simp] theorem dropPullIn_permit (ds : List Nat) (s : State) : (dropPullIn ds s).sw.permit = s.sw.permit :=
  foldl_kept (·.sw.permit) (fun s d => driverOff_permit d s) _ _

@[simp] theorem endJob_permit (j : BusJob) (s : State) : (endJob j s).sw.permit = s.sw.permit := by
  unfold endJob
  dsimp only
  split
  · rw [busChanged_sw]
  · rfl

@[simp] theorem dropJobs_permit (n : Nat) (s : State) : (dropJobs n s).sw.permit = s.sw.permit := by
  refine (foldl_kept (·.sw.permit) (fun s j => endJob_permit j s) _ _).trans (foldl_kept (·.sw.permit) (fun s j => ?_) _ _)
  split
  · exact driverOff_permit _ _
  · rfl

@[simp] theorem seqTo_permit (n new : Nat) (s : State) : (seqTo n new s).sw.permit = s.sw.permit := by
  unfold seqTo
  dsimp only
  split
  · rfl
  · rw [event_sw]; rfl

@[simp] theorem safeSeq_permit (s : State) (n : Nat) : (safeSeq s n).sw.permit = s.sw.permit := by
  have off : (modulesOff n (dropJobs n s)).sw.permit = s.sw.permit := dropJobs_permit n s
  unfold safeSeq
  dsimp only
  split
  · rw [seqTo_permit]; exact off
  · exact off

/-- Every PERMIT is released when the outputs take their safe states (R20, R89). -/
@[simp] theorem outputsSafe_permit (s : State) : (outputsSafe s).sw.permit = 0 := by
  unfold outputsSafe
  dsimp only
  rw [releasePulses_sw, lightSafe_sw, pilotsSafe_sw, channelsOff_sw,
    foldl_kept (·.sw.permit) (fun s n => safeSeq_permit s n), dropPullIn_permit, armHwOff_permit]

@[simp] theorem globalSafeNow_permit (s : State) : (globalSafeNow s).sw.permit = 0 := outputsSafe_permit _

/-! A reset source of reach SYSTEM or wider. -/

@[simp] theorem updRst_sw (f : Reset → Reset) (s : State) : (updRst f s).sw = s.sw := rfl
@[simp] theorem updRst_rst (f : Reset → Reset) (s : State) : (updRst f s).rst = f s.rst := rfl
@[simp] theorem updCause_asserted (f : ResetCause → ResetCause) (s : State) : (updCause f s).rst.asserted = s.rst.asserted := rfl

/-- Such a source ends the session hold (R89); it releases every permit. -/
@[simp] theorem systemAssert_asserted (ran : Bool) (s : State) : (systemAssert ran s).rst.asserted = s.rst.asserted := by
  unfold systemAssert
  dsimp only
  split <;> simp

@[simp] theorem systemAssert_permit (ran : Bool) (s : State) : (systemAssert ran s).sw.permit = 0 := by
  unfold systemAssert
  dsimp only
  split <;> simp

@[simp] theorem widenReset_asserted (src reach : Nat) (s : State) : (widenReset src reach s).rst.asserted = s.rst.asserted ++ [src] := by
  have noted : (noteSource src s).rst.asserted = s.rst.asserted := rfl
  unfold widenReset
  by_cases h : reach = 2 <;> simp [h, noted]

theorem beginReset_asserts (src reach : Nat) (s : State) : src ∈ (beginReset src reach s).rst.asserted := by
  simp [beginReset]

theorem beginReset_permit {src reach : Nat} (hr : reach ≠ 0) (s : State) : (beginReset src reach s).sw.permit = 0 := by
  simp only [beginReset, hr, if_false, updRst_sw]
  rw [foldl_kept State.sw (fun s x => noteSource_sw x s), openEntry_sw, systemAssert_permit]

theorem assertBooting_asserts {src reach : Nat} (hr : reach ≠ 0) (s : State) : src ∈ (assertBooting src reach s).rst.asserted := by
  simp only [assertBooting, hr, if_false]
  split <;> simp

theorem assertBooting_permit {src reach : Nat} (hr : reach ≠ 0) {s : State} (hp : s.sw.permit = 0) :
    (assertBooting src reach s).sw.permit = 0 := by
  simp only [assertBooting, hr, if_false]
  split <;> simp [hp]

/-- A source of reach SYSTEM or wider that is asserted while VAUX is on is held, at once or for the next entry (R90, R94). -/
theorem assertSource_asserts {src : Nat} (hr : sourceReach src ≠ 0) {s : State} (hon : s.power.supply = .on) :
    src ∈ (assertSource src s).rst.asserted := by
  unfold assertSource
  dsimp only
  split
  next h => simpa [hon] using h
  split
  · simp
  split
  · exact beginReset_asserts _ _ _
  · split <;> simp
  · exact assertBooting_asserts hr _

/-- With no permit given, such a source gives none. -/
theorem assertSource_permit {src : Nat} (hr : sourceReach src ≠ 0) {s : State} (hp : s.sw.permit = 0) : (assertSource src s).sw.permit = 0 := by
  unfold assertSource
  dsimp only
  split
  · exact hp
  split
  · exact hp
  split
  · exact beginReset_permit hr _
  · split <;> simp [hp]
  · exact assertBooting_permit hr hp

/-- A region that runs is powered (R93). -/
theorem supply_of_regionUp {s : State} {region : Nat} (h : s.regionUp region = true) : s.power.supply = .on := by
  simp only [State.regionUp, State.railsUp, Bool.and_eq_true, beq_iff_eq] at h
  exact h.1.1

end Sys2Proof.Laws

/-!
PROOF. Faults that isolate or reset (chapter 1): what a failed retry, a failed sequencer check and the monitors leave behind (R16 to R20, R90,
R161).
-/

namespace Sys2Proof.Laws

open Sys2Proof.Machine Sys2Proof.Safety

/-! Fixed arrays and masks. -/

theorem vget_vmod_self {α : Type} {n i : Nat} (v : Vector α n) (f : α → α) (d : α) (h : i < n) : vget (vmod v i f) i d = f (vget v i d) := by
  simp [vget, vmod, h]

theorem vget_vmod_of_ne {α : Type} {n i j : Nat} (v : Vector α n) (f : α → α) (d : α) (h : j ≠ i) : vget (vmod v i f) j d = vget v j d := by
  unfold vmod
  split
  · simp [vget, Vector.getElem?_setIfInBounds_ne h.symm]
  · rfl

theorem bit_setBit_true {w : Nat} (r : BitVec w) (i j : Nat) : bit (setBit r i true) j = true ↔ bit r j = true ∨ (j = i ∧ j < w) := by
  simp only [bit, setBit, if_true, BitVec.getLsbD_or, Bool.or_eq_true, BitVec.getLsbD_ofNat, Nat.testBit_two_pow, Bool.and_eq_true,
    decide_eq_true_eq]
  tauto

/-- The bits set for a list: those that were set, and those of the list. -/
theorem bit_setBits {w : Nat} (l : List Nat) (r : BitVec w) (j : Nat) (hj : j < w) :
    bit (l.foldl (fun m n => setBit m n true) r) j = true ↔ bit r j = true ∨ j ∈ l := by
  induction l generalizing r with
  | nil => simp
  | cons i l ih =>
    rw [List.foldl_cons, ih, bit_setBit_true, List.mem_cons]
    tauto

/-- At most eight outlets are present (R2). -/
theorem lt_of_present {s : State} {n : Nat} (h : s.present n = true) : n < 8 := by
  have le : s.outletCount ≤ 8 := by
    unfold State.outletCount
    repeat' split
    all_goals omega
  simp only [State.present, decide_eq_true_eq] at h
  omega

/-! Inputs marked invalid. -/

/-- An input marked invalid changes its own record, and the count of its outlet (R160). -/
theorem invalidate_modConfig (n x cause : Nat) (s : State) : (invalidate n x cause s).fe.modConfig = s.fe.modConfig := by
  unfold invalidate
  dsimp only
  simp [apply_ite State.fe, apply_ite FrontEnd.modConfig, updIn']

theorem invalidate_mclkStopped (n x cause : Nat) (s : State) : (invalidate n x cause s).fe.mclkStopped = s.fe.mclkStopped := by
  unfold invalidate
  dsimp only
  simp [apply_ite State.fe, apply_ite FrontEnd.mclkStopped, updIn']

theorem invalidate_of_disabled {n x : Nat} {s : State} (h : modEnabled s n x = false) (cause : Nat) : invalidate n x cause s = s := by
  simp [invalidate, h]

/-- What a clock fault does to the record of an enabled input: it is one of those with a clock fault from now on, and no record loses its
clock fault (R160). -/
theorem invalidate_inputs {n x : Nat} {s : State} (h : modEnabled s n x = true) :
    ∃ f : ModInput → ModInput, (invalidate n x 2 s).fe.inputs = vmod s.fe.inputs (8 * n + x) f ∧
      (∀ i, i.clockFault = true → (f i).clockFault = true) ∧ (f (modIn s n x)).clockFault = true := by
  by_cases known : (modIn s n x).clockFault = true
  · refine ⟨fun i => { i with badAt := s.now }, ?_, fun _ hi => hi, known⟩
    simp [invalidate, h, known, updIn']
  · refine ⟨fun i => { i with stuck := i.stuck || false, clockFault := i.clockFault || true, badAt := s.now, bad := true }, ?_,
      fun _ _ => Bool.or_true _, Bool.or_true _⟩
    simp [invalidate, h, known, updIn', apply_ite State.fe, apply_ite FrontEnd.inputs]

/-- Once an input has a clock fault, marking inputs invalid leaves it so. -/
theorem invalidate_keeps_clockFault {n x m y : Nat} {s : State} (h : (modIn s m y).clockFault = true) :
    (modIn (invalidate n x 2 s) m y).clockFault = true := by
  by_cases enabled : modEnabled s n x = true
  · obtain ⟨f, inputs, keeps, -⟩ := invalidate_inputs enabled
    rw [modIn, inputs]
    by_cases same : 8 * m + y = 8 * n + x
    · by_cases inside : 8 * n + x < 64
      · rw [same, vget_vmod_self _ _ _ inside]
        exact keeps _ (by rwa [modIn, same] at h)
      · rw [modIn] at h
        simpa [vmod, inside] using h
    · rwa [vget_vmod_of_ne _ _ _ same]
  · rwa [invalidate_of_disabled (Bool.eq_false_iff.mpr enabled)]

theorem invalidate_sets_clockFault {n x : Nat} {s : State} (hn : n < 8) (h : modEnabled s n x = true) :
    (modIn (invalidate n x 2 s) n x).clockFault = true := by
  have hx : x < 8 := by
    simp only [modEnabled, Bool.and_eq_true, decide_eq_true_eq] at h
    exact h.1
  obtain ⟨f, inputs, -, sets⟩ := invalidate_inputs h
  rw [modIn, inputs, vget_vmod_self _ _ _ (by omega)]
  exact sets

theorem modEnabled_of_modConfig {s t : State} (h : t.fe.modConfig = s.fe.modConfig) (n x : Nat) : modEnabled t n x = modEnabled s n x := by
  rw [modEnabled, modEnabled, modCfg, modCfg, h]

/-- Every enabled input of an outlet, once all eight are marked for its clock, has a clock fault. -/
theorem invalidateAll_clockFault {n : Nat} (hn : n < 8) (l : List Nat) {s : State} {x : Nat} (h : modEnabled s n x = true)
    (hx : x ∈ l ∨ (modIn s n x).clockFault = true) :
    (modIn (l.foldl (fun s x => invalidate n x 2 s) s) n x).clockFault = true := by
  induction l generalizing s with
  | nil => simpa using hx
  | cons y l ih =>
    refine ih ((modEnabled_of_modConfig (invalidate_modConfig n y 2 s) n x).trans h) ?_
    obtain hx | known := hx
    · obtain rfl | hx := List.mem_cons.mp hx
      · exact .inr (invalidate_sets_clockFault hn h)
      · exact .inl hx
    · exact .inr (invalidate_keeps_clockFault known)

theorem inputValid_of_clockFault {s : State} {n x : Nat} (h : (modIn s n x).clockFault = true) : inputValid s n x = false := by
  simp [inputValid, ModInput.sound, h]

/-! A failed retry and a failed sequencer check. -/

/-- The record of a cell that is isolated after a failed retry (R16). -/
theorem cellSt_isolateCell {cls : Byte} {i cycle : Nat} {c : CellId} {s : State} (h : cellId i = some c) :
    let x := cellSt (isolateCell cls i cycle 1 s) i
    x.state ≠ 0 ∧ x.isolations = satInc 16 (cellSt s i).isolations ∧ x.since = s.clock.legal := by
  obtain ⟨f, cells, state, isolations, since⟩ : ∃ f : CellState → CellState,
      (isolateCell cls i cycle 1 s).faults.cells = (updCell i f s).faults.cells ∧ (f (cellSt s i)).state ≠ 0 ∧
      (f (cellSt s i)).isolations = satInc 16 (cellSt s i).isolations ∧ (f (cellSt s i)).since = s.clock.legal := by
    refine ⟨_, by
      simp only [isolateCell, h, apply_ite State.faults, apply_ite Faults.cells, cells_of_records (regionReaction_records _ _ _),
        cells_of_records (cellEffect_records _ _), cells_of_records (cellReport_records _ _ _ _ _ _ _), isolateBlock_cells, ite_self]
      rfl, ?_, rfl, rfl⟩
    dsimp only
    split <;> decide
  dsimp only
  rw [cellSt_of_cells cells, cellSt_updCell_self]
  exact ⟨state, isolations, since⟩

/-- A failed sequencer check isolates the block, and no cell (R17, R18). -/
theorem sequencerFault_records {i cycle : Nat} {c : CellId} {s : State} (h : cellId i = some c) (hl : c.type ≠ .load) :
    records (sequencerFault i cycle s).faults = records (isolateBlock c.region c.block s).faults := by
  simp only [sequencerFault, h, hl, if_false, regionReaction_records]
  rw [foldl_kept (fun s => records s.faults) (fun s d => cellEffect_records d s), report_records]

/-! The monitors. -/

/-- The loss of the modulator clock stops it, and makes METROLOGY faulty for every active outlet (R161). -/
theorem modPllLost_effect (cycle : Nat) (s : State) : (modPllLost cycle s).fe.mclkStopped = true ∧
    ∀ n, s.present n = true → bit (modPllLost cycle s).faults.metFaulty n = true := by
  constructor
  · unfold modPllLost
    dsimp only
    rw [metrologyFault_fe, foldl_kept (fun s : State => s.fe.mclkStopped) (fun s (i : Nat × Nat) => invalidate_mclkStopped i.1 i.2 2 s),
      foldl_kept State.fe (fun s i => reportFrom_fe _ _ _ _ _ _ _ s), reportFrom_fe]
  · intro n hn
    unfold modPllLost
    dsimp only
    rw [metrologyFault_faults]
    refine (bit_setBits _ _ _ (lt_of_present hn)).mpr (.inr ?_)
    simpa [State.outlets, State.present] using hn

/-- A fault of the reference clock: the reports of its region, the global safe state where the region is SAFETY, and a SYSTEM source
(R90, Table 1-4). -/
theorem execClockMonitorFault_reference {region cycle : Nat} {loss : Bool} {s : State} (up : s.regionUp region = true) (hr : region ≤ 5) :
    ∃ u : State, u.power = s.power ∧ execClockMonitorFault region loss 1 cycle s =
      .next (assertSource srcClockMonitor (if region = 0 then globalSafeNow u else u)) := by
  have guard : (!(s.regionUp region && decide (region ≤ 5) && decide (1 ≤ 1) && decide (1 ≤ 3))) = false := by simp [up, hr]
  refine ⟨_, ?_, by
    simp only [execClockMonitorFault, guard, Bool.false_eq_true, if_false, show ¬ (1 = 2) by decide, false_and, ne_eq, not_true_eq_false]
    rfl⟩
  simp only [apply_ite State.power, reportFrom_power, foldl_kept State.power (fun s i => reportFrom_power _ _ i _ _ _ _ s), ite_self]

/-- A fault of the POWER clock's monitor is reported, and no more (Table 1-4). -/
theorem execClockMonitorFault_power {region cycle : Nat} {loss : Bool} {s : State} (up : s.regionUp region = true) (hr : region ≤ 5) :
    ∃ cls, execClockMonitorFault region loss 3 cycle s =
      .next (reportFrom cls 3 (clockCell region) cycle scopeRegion s.outletMask 0 s) :=
  ⟨if loss then 0x05 else 0x06, by simp [execClockMonitorFault, up, hr]⟩

/-- A disagreement of the lockstep comparators is reported, and a SAFETY region fault (R20). -/
theorem execLockstepMismatch_up {cell cycle : Nat} {s : State} (up : s.regionUp 0 = true) :
    ∃ u : State, u.power = s.power ∧ execLockstepMismatch cell cycle s = .next (safetyFault u) :=
  ⟨_, reportFrom_power .., by simp only [execLockstepMismatch, up, Bool.not_true, Bool.false_eq_true, if_false]; rfl⟩

/-- A faulty supply is reported, and a SYSTEM source (Table 1-4). -/
theorem execSupplyFault_up {rail cycle : Nat} {s : State} (up : s.regionUp 3 = true) :
    ∃ u : State, u.power = s.power ∧ execSupplyFault rail cycle s = .next (assertSource srcPowerFault u) :=
  ⟨_, report_power .., by simp only [execSupplyFault, up, Bool.not_true, Bool.false_eq_true, if_false]; rfl⟩

/-- A lockstep mismatch, the reference clock and a faulty supply reset more than a boot's own block (Table 3-5). -/
theorem sourceReach_of_monitor {src : Nat} (h : src = srcSafetyFatal ∨ src = srcClockMonitor ∨ src = srcPowerFault) : sourceReach src ≠ 0 := by
  obtain rfl | rfl | rfl := h <;> simp [sourceReach, srcSafetyFatal, srcClockMonitor, srcPowerFault]

/-- A SAFETY region fault: global safe state, every permit released, and a SYSTEM source (Table 1-4). -/
theorem safetyFault_effect {s : State} (on : s.power.supply = .on) : (safetyFault s).faults.globalSafe = true ∧
    (safetyFault s).sw.permit = 0 ∧ srcSafetyFatal ∈ (safetyFault s).rst.asserted := by
  have reach := sourceReach_of_monitor (.inl rfl)
  refine ⟨?_, ?_, ?_⟩
  · rw [safetyFault_faults]
  · unfold safetyFault
    exact assertSource_permit reach (globalSafeNow_permit s)
  · unfold safetyFault
    exact assertSource_asserts reach (by rw [globalSafeNow_power, on])

/-- Settles O37, one clause for each fault, from the effect of its command. -/
theorem faultsIsolateAndReset : Obligations.FaultsIsolateAndReset := by
  unfold Obligations.FaultsIsolateAndReset
  refine ⟨?retry, ?sequencer, ?lockstep, ?reference, ?powerClock, ?pll, ?readback, ?supply⟩
  case retry =>
    intro cell c cycle s up hu hc
    refine ⟨_, ?_, cellSt_isolateCell (cls := 0x02) (cycle := cycle) hc⟩
    show execCellUncorrectable cell false false cycle s = _
    simp [execCellUncorrectable, up, hu, hc]
  case sequencer =>
    intro cell c ok cycle s up hu hc hl
    have kept := sequencerFault_records (cycle := cycle) (s := s) hc hl
    refine ⟨sequencerFault cell cycle s, ?_, ?_, ?_⟩
    · show execCellUncorrectable cell ok true cycle s = _
      simp [execCellUncorrectable, up, hu]
    · rw [blocks_of_records kept]
      exact List.contains_iff_mem.mpr (mem_isolateBlock ..)
    · exact cellSt_of_cells ((cells_of_records kept).trans (isolateBlock_cells ..)) cell
  case lockstep =>
    intro cell cycle s up
    obtain ⟨u, power, step⟩ := execLockstepMismatch_up (cell := cell) (cycle := cycle) up
    obtain ⟨safe, permit, source⟩ := safetyFault_effect (s := u) (by rw [power]; exact supply_of_regionUp up)
    exact ⟨_, step, safe, permit, List.contains_iff_mem.mpr source⟩
  case reference =>
    intro region loss cycle s up hr
    obtain ⟨u, power, step⟩ := execClockMonitorFault_reference (loss := loss) (cycle := cycle) up hr
    have on : (if region = 0 then globalSafeNow u else u).power.supply = .on := by
      rw [apply_ite State.power, globalSafeNow_power, ite_self, power]
      exact supply_of_regionUp up
    refine ⟨_, step, List.contains_iff_mem.mpr (assertSource_asserts (sourceReach_of_monitor (by simp)) on), fun h0 => ⟨?_, ?_⟩⟩
    · rw [assertSource_faults, if_pos h0, globalSafeNow_faults]
    · exact assertSource_permit (sourceReach_of_monitor (by simp)) (by rw [if_pos h0, globalSafeNow_permit])
  case powerClock =>
    intro region loss cycle s up hr
    obtain ⟨cls, step⟩ := execClockMonitorFault_power (loss := loss) (cycle := cycle) up hr
    exact ⟨_, step, reportFrom_only _ _ _ _ _ _ _ (by decide) (.refl _ s)⟩
  case pll =>
    intro cycle s hr hs
    refine ⟨modPllLost cycle s, ?_, modPllLost_effect cycle s⟩
    show execModPllLoss cycle s = _
    simp [execModPllLoss, hr, hs]
  case readback =>
    intro n s hr hn
    refine ⟨_, ?_, fun x hx => inputValid_of_clockFault (invalidateAll_clockFault (lt_of_present hn) (List.range 8) hx (.inl ?_))⟩
    · show execMclkReadbackFault n s = _
      simp [execMclkReadbackFault, hr, hn]
    · simp only [modEnabled, Bool.and_eq_true, decide_eq_true_eq] at hx
      exact List.mem_range.mpr hx.1
  case supply =>
    intro rail cycle s up
    obtain ⟨u, power, step⟩ := execSupplyFault_up (rail := rail) (cycle := cycle) up
    exact ⟨_, step, List.contains_iff_mem.mpr (assertSource_asserts (sourceReach_of_monitor (by simp)) (by rw [power]; exact supply_of_regionUp up))⟩

end Sys2Proof.Laws

/-!
PROOF. Ticks (chapter 1, with R74, R229 and R261): the frame tick counts one frame, whatever its jobs do, and a superframe reads the temperature
and the seal loop.
-/

namespace Sys2Proof.Laws

open Sys2Proof.Machine Sys2Proof.Safety

/-! The count of frames. Three parts of the frame's work write the clock: the slew, the site loop and the record of a clock step. -/

theorem siteTick_tick (free : Bool) (s : State) : (siteTick free s).clock.tick = s.clock.tick := by
  simp only [siteTick]
  repeat' split
  all_goals rfl

theorem slewTick_tick (s : State) : (slewTick s).clock.tick = s.clock.tick := by
  simp only [slewTick]
  split <;> exact siteTick_tick ..

theorem commitStep_tick (c : Commit) (s : State) : (commitStep c s).clock.tick = s.clock.tick := by
  unfold commitStep
  split
  · simp only [timeAdjusted_clock, sign_clock]
  · rfl

theorem commitOne_tick (c : Commit) (s : State) : (commitOne c s).clock.tick = s.clock.tick := by
  simp [commitOne, commitStep_tick]

theorem runCommits_tick (k : Nat) (s : State) : (runCommits k s).clock.tick = s.clock.tick := by
  induction k generalizing s with
  | zero => rfl
  | succ k ih =>
    simp only [runCommits]
    repeat' split
    · rfl
    · rw [ih, commitOne_tick]
    · rfl

theorem billingFrame_tick (s : State) : (billingFrame s).clock.tick = s.clock.tick := by
  unfold billingFrame
  dsimp only
  rw [foldl_kept State.clock (fun s n => by simp only [apply_ite State.clock, closeSession_clock, ite_self])]
  exact runCommits_tick _ _

/-- Of the frame's jobs the boundaries alone write the clock. -/
theorem frameJobs_tick (m : FrameIn) (s : State) : (frameJobs m s).clock.tick = s.clock.tick := by
  simp [frameJobs, billingFrame_tick]

theorem shutdownTick_of_no_warning {s : State} (h : s.power.pfw = false) : shutdownTick s = s := by
  simp [shutdownTick, shutdownDue, h]

/-! The superframe. -/

theorem dieTemp_power (t : Int) (s : State) : (dieTemp t s).power =
    { s.power with dieTemp := satInt 16 t, dieHot := decide (1200 < t) || (s.power.dieHot && decide (1100 ≤ t)) } := by
  simp only [dieTemp, apply_ite State.power, event_power, ite_self]
  rfl

theorem superJobs_clock (m : SuperIn) (s : State) : (superJobs m s).clock = { s.clock with superDone := s.clock.tick + 1 } := by
  simp only [superJobs, apply_ite State.clock, witnessSync_clock, foldl_kept State.clock (fun s n => witnessSuper_clock n s),
    loadsSuper_clock, overRange_clock, loopRead_clock, dieTemp_clock, ite_self]
  rfl

theorem superJobs_power (m : SuperIn) (s : State) : (superJobs m s).power = { s.power with
    vauxMv := sat 16 m.vauxMv, holdMv := sat 16 m.holdMv, dieTemp := satInt 16 m.dieTemp,
    dieHot := decide (1200 < m.dieTemp) || (s.power.dieHot && decide (1100 ≤ m.dieTemp)) } := by
  simp only [superJobs, apply_ite State.power, witnessSync_power, foldl_kept State.power (fun s n => witnessSuper_power n s),
    loadsSuper_power, overRange_power, loopRead_power, dieTemp_power, ite_self]
  rfl

/-- After the seal loop has been read, no job of the superframe writes the seals. -/
theorem superJobs_seals (m : SuperIn) (s : State) : ∃ u : State, u.seals = s.seals ∧ (superJobs m s).seals = (loopRead m.loopIntact u).seals := by
  refine ⟨?start, ?kept, ?read⟩
  case read =>
    simp only [superJobs, apply_ite State.seals, witnessSync_seals, foldl_kept State.seals (fun s n => witnessSuper_seals n s),
      loadsSuper_seals, overRange_seals, ite_self]
    rfl
  case kept => exact dieTemp_seals ..

/-- A record of a broken seal leaves the loop's reading and the latch (R261, R262). -/
theorem sealBreaks_latches (cause : Nat) (s : State) : (sealBreaks cause s).seals.loopIntact = s.seals.loopIntact ∧
    (sealBreaks cause s).seals.broken = s.seals.broken := by
  simp only [sealBreaks, signSealBroken, apply_ite State.seals, sealModeChange_seals, event_seals, sign_seals]
  repeat' split
  all_goals exact ⟨rfl, rfl⟩

theorem openSeal_latches (s : State) : (openSeal s).seals.loopIntact = false ∧ (openSeal s).seals.broken = true := by
  unfold openSeal
  dsimp only
  split
  · exact ⟨rfl, rfl⟩
  · exact sealBreaks_latches 0 _

/-- A loop that reads open is open, and where it read intact before, the seal is broken (R261). -/
theorem loopRead_open (s : State) : (loopRead false s).seals.loopIntact = false ∧
    (s.seals.loopIntact = true → (loopRead false s).seals.broken = true) := by
  unfold loopRead
  by_cases intact : s.seals.loopIntact = true
  · simpa [intact] using openSeal_latches s
  · simp [intact]

/-- Settles O35: the frame by the writers of the clock, the superframe by what each of its jobs keeps. -/
theorem ticksCountTime : Obligations.TicksCountTime := by
  unfold Obligations.TicksCountTime
  refine ⟨?run, ?held, ?super, ?done⟩
  case run =>
    intro m s run
    refine ⟨_, rfl, ?_⟩
    rw [shutdownTick_clock, if_pos (show (timeTick s).regionsRun = true from run), frameJobs_tick, slewTick_tick, takeDue_clock]
    rfl
  case held =>
    intro m s held quiet
    show execFrameTick m s = _
    have held : (timeTick s).regionsRun = false := held
    simp only [execFrameTick, held, Bool.false_eq_true, if_false]
    rw [shutdownTick_of_no_warning (s := timeTick s) quiet]
    simp [timeTick]
  case super =>
    intro m s at0 new
    obtain ⟨u, seals, read⟩ := superJobs_seals m s
    refine ⟨superJobs m s, ?_, ?_, ?_, ?_, ?_, fun opened => ?_⟩
    · show execSuperframeTick m s = _
      simp [execSuperframeTick, at0, new]
    · rw [superJobs_clock]
    · rw [superJobs_power]
    · rw [superJobs_power]
    · simp [superJobs_power]
    · rw [read, opened, ← seals]
      exact loopRead_open u
  case done =>
    intro m s done
    show execSuperframeTick m s = _
    simp [execSuperframeTick, done]

end Sys2Proof.Laws

/-!
PROOF. The reset controller and the straps (chapters 1 to 3, R58, R61, R93, R94): a source that is asserted or released samples no strap and calls
for no factory test.
-/

namespace Sys2Proof.Laws

open Sys2Proof.Machine Sys2Proof.Safety

/-- t has the straps of s, and stands in factory test only where s does. -/
structure StrapsLast (s t : State) : Prop where
  straps : t.rst.straps = s.rst.straps
  test : t.rst.phase = .factory → s.rst.phase = .factory

section

variable {u s t : State}

theorem StrapsLast.refl (s : State) : StrapsLast s s := ⟨rfl, id⟩

theorem StrapsLast.trans (h : StrapsLast u s) (k : StrapsLast s t) : StrapsLast u t := ⟨k.straps.trans h.straps, h.test ∘ k.test⟩

theorem StrapsLast.of_rst (h : StrapsLast u s) (e : t.rst = s.rst) : StrapsLast u t := h.trans ⟨by rw [e], by rw [e]; exact id⟩

theorem StrapsLast.ite {p : Prop} [Decidable p] (h : StrapsLast u s) (k : StrapsLast u t) : StrapsLast u (if p then s else t) := by
  split
  · exact h
  · exact k

theorem StrapsLast.foldl {α : Type} {f : State → α → State} {l : List α} (hf : ∀ s x, StrapsLast u s → StrapsLast u (f s x))
    (h : StrapsLast u s) : StrapsLast u (l.foldl f s) := by
  induction l generalizing s with
  | nil => exact h
  | cons x l ih => exact ih (hf s x h)

theorem updCause_straps (f : ResetCause → ResetCause) (h : StrapsLast u s) : StrapsLast u (updCause f s) := h.trans ⟨rfl, id⟩

theorem noteSource_straps (src : Nat) (h : StrapsLast u s) : StrapsLast u (noteSource src s) := updCause_straps _ h

theorem releaseSource_straps (src : Nat) (h : StrapsLast u s) : StrapsLast u (releaseSource src s) := by
  unfold releaseSource
  split
  · exact h.trans ⟨rfl, id⟩
  · refine .ite (updCause_straps _ (h.trans ⟨rfl, id⟩)) h

theorem releaseAll_straps (p : Nat → Bool) (h : StrapsLast u s) : StrapsLast u (releaseAll p s) :=
  .foldl (fun _ x k => releaseSource_straps x k) h

theorem openEntry_straps (src reach : Nat) (h : StrapsLast u s) : StrapsLast u (openEntry src reach s) := h.trans ⟨rfl, id⟩

@[simp] theorem driverOff_rst (d : Nat) (s : State) : (driverOff d s).rst = s.rst :=
  Part.kept (p := .rst) (by simp [driverOff_only, OnlyChanges.refl])

theorem coreAssert_straps (h : StrapsLast u s) : StrapsLast u (coreAssert s) := by
  unfold coreAssert
  refine .foldl (fun _ _ k => k.of_rst (by simp)) ?_
  split
  · exact h
  · exact h.trans ⟨rfl, id⟩

theorem systemAssert_straps (ran : Bool) (h : StrapsLast u s) : StrapsLast u (systemAssert ran s) := by
  have safe : StrapsLast u (sitePadsOff (updRst (fun r => { r with hold := none, holdMask := 0 }) (outputsSafe s))) :=
    h.trans ⟨by simp, by simp⟩
  exact (safe.of_rst (by simp)).ite safe

theorem widenReset_straps (src reach : Nat) (h : StrapsLast u s) : StrapsLast u (widenReset src reach s) := by
  unfold widenReset
  by_cases e : reach = 2
  · simp only [e, if_true]
    exact h.trans ⟨rfl, id⟩
  · simp only [e, if_false]
    exact h.trans ⟨rfl, id⟩

theorem beginReset_straps (src reach : Nat) (h : StrapsLast u s) : StrapsLast u (beginReset src reach s) := by
  have lost : StrapsLast u (losePlain s) := h.of_rst (by simp)
  have entered := openEntry_straps src reach ((coreAssert_straps lost).ite (p := reach = 0) (systemAssert_straps true lost))
  exact (StrapsLast.foldl (fun _ x k => noteSource_straps x k) entered).trans ⟨rfl, nofun⟩

theorem assertBooting_straps (src reach : Nat) (h : StrapsLast u s) : StrapsLast u (assertBooting src reach s) := by
  have wide := widenReset_straps src reach h
  have core := releaseSource_straps src ((coreAssert_straps wide).ite (p := s.rst.reachNow = 0) wide)
  exact .ite (.ite (core.trans ⟨rfl, nofun⟩) core) (wide.ite ((systemAssert_straps s.regionsRun wide).trans ⟨rfl, nofun⟩))

/-- A source is asserted without a sample of the straps, and no source calls for factory test (R58, R61, R93). -/
theorem assertSource_straps (src : Nat) (h : StrapsLast u s) : StrapsLast u (assertSource src s) := by
  unfold assertSource
  refine .ite h (.ite (h.trans ⟨rfl, id⟩) ?_)
  have wide := widenReset_straps src (sourceReach src) h
  split
  · exact beginReset_straps _ _ h
  · exact (systemAssert_straps _ wide).ite wide
  · exact assertBooting_straps _ _ h

end

end Sys2Proof.Laws

/-!
PROOF. The boot's steps and the straps (chapter 3, R58, R61, R95): step 1 samples them, the steps after it leave them, and factory test is
entered from step 1 alone.
-/

namespace Sys2Proof.Laws

open Sys2Proof.Machine Sys2Proof.Safety

@[simp] theorem globalSafeNow_rst (s : State) : (globalSafeNow s).rst = s.rst :=
  Part.kept (p := .rst) (by simp [globalSafeNow_only, OnlyChanges.refl])

@[simp] theorem metrologyFault_rst (outs : List Nat) (s : State) : (metrologyFault outs s).rst = s.rst :=
  Part.kept (p := .rst) (by simp [metrologyFault_only, OnlyChanges.refl])

@[simp] theorem linkFault_rst (outs : List Nat) (s : State) : (linkFault outs s).rst = s.rst :=
  Part.kept (p := .rst) (by simp [linkFault_only, OnlyChanges.refl])

@[simp] theorem cellReport_rst (cls : Byte) (i cycle scope : Nat) (outlets : BitVec 8) (reaction : Nat) (s : State) :
    (cellReport cls i cycle scope outlets reaction s).rst = s.rst :=
  Part.kept (p := .rst) (by simp [cellReport_only, OnlyChanges.refl])

@[simp] theorem cellEffect_rst (c : CellId) (s : State) : (cellEffect c s).rst = s.rst :=
  Part.kept (p := .rst) (by simp [cellEffect_only, OnlyChanges.refl])

@[simp] theorem isolateBlock_rst (region block : Nat) (s : State) : (isolateBlock region block s).rst = s.rst :=
  Part.kept (p := .rst) (by simp [isolateBlock_only, OnlyChanges.refl])

@[simp] theorem updCell_rst (i : Nat) (f : CellState → CellState) (s : State) : (updCell i f s).rst = s.rst :=
  Part.kept (p := .rst) (by simp [updCell_only, OnlyChanges.refl])

@[simp] theorem releaseCells_rst (region legal : Nat) (s : State) : (releaseCells region legal s).rst = s.rst :=
  Part.kept (p := .rst) (by simp [releaseCells_only, OnlyChanges.refl])

@[simp] theorem debugAttempt_rst (s : State) : (debugAttempt s).rst = s.rst :=
  Part.kept (p := .rst) (by simp [debugAttempt_only, OnlyChanges.refl])

@[simp] theorem pilotsUp_rst (s : State) : (pilotsUp s).rst = s.rst :=
  Part.kept (p := .rst) (by simp [pilotsUp_only, OnlyChanges.refl])

@[simp] theorem bootStep2_rst (b : BootIn) (s : State) : (bootStep2 b s).rst = s.rst :=
  Part.kept (p := .rst) (by simp [bootStep2_only, OnlyChanges.refl])

@[simp] theorem bootStep5_rst (b : BootIn) (s : State) : (bootStep5 b s).rst = s.rst :=
  Part.kept (p := .rst) (by simp [bootStep5_only, OnlyChanges.refl])

@[simp] theorem bootImage_rst (rom : Bool) (s : State) : (bootImage rom s).1.rst = s.rst :=
  Part.kept (p := .rst) (by simp [bootImage_only, OnlyChanges.refl])

@[simp] theorem appReplayed_rst (s : State) : (appReplayed s).rst = s.rst :=
  Part.kept (p := .rst) (by simp [appReplayed_only, OnlyChanges.refl])

@[simp] theorem metReplayed_rst (s : State) : (metReplayed s).rst = s.rst :=
  Part.kept (p := .rst) (by simp [metReplayed_only, OnlyChanges.refl])

@[simp] theorem commits_rst (s : State) : (commits s).rst = s.rst :=
  Part.kept (p := .rst) (by simp [commits_only, OnlyChanges.refl])

@[simp] theorem rebuildBoundaries_rst (s : State) : (rebuildBoundaries s).rst = s.rst :=
  Part.kept (p := .rst) (by simp [rebuildBoundaries_only, OnlyChanges.refl])

@[simp] theorem reopenEntries_rst (point : Nat) (s : State) : (reopenEntries point s).rst = s.rst :=
  Part.kept (p := .rst) (by simp [reopenEntries_only, OnlyChanges.refl])

@[simp] theorem signInterrupted_rst (s : State) : (signInterrupted s).rst = s.rst :=
  Part.kept (p := .rst) (by simp [signInterrupted_only, OnlyChanges.refl])

@[simp] theorem bootLatch_rst (b : BootIn) (s : State) : (bootLatch b s).rst = s.rst :=
  Part.kept (p := .rst) (by simp [bootLatch_only, OnlyChanges.refl])

@[simp] theorem signBenchmark_rst (entry : Bool) (instant : Nat) (rebuilt : Bool) (s : State) : (signBenchmark entry instant rebuilt s).rst = s.rst :=
  Part.kept (p := .rst) (by simp [signBenchmark_only, OnlyChanges.refl])

@[simp] theorem clearPulses_rst (s : State) : (clearPulses s).rst = s.rst :=
  Part.kept (p := .rst) (by simp [clearPulses_only, OnlyChanges.refl])

@[simp] theorem restoreBilling_rst (c : Slot) (s : State) : (restoreBilling c s).rst = s.rst :=
  Part.kept (p := .rst) (by simp [restoreBilling_only, OnlyChanges.refl])

@[simp] theorem restoreEnergy_rst (i : Nat) (c : Slot) (s : State) : (restoreEnergy i c s).rst = s.rst :=
  Part.kept (p := .rst) (by simp [restoreEnergy_only, OnlyChanges.refl])

@[simp] theorem bootFilters_rst (s : State) : (bootFilters s).rst = s.rst :=
  Part.kept (p := .rst) (by simp [bootFilters_only, OnlyChanges.refl])

@[simp] theorem bootRetention_rst (s : State) : (bootRetention s).rst = s.rst :=
  Part.kept (p := .rst) (by simp [bootRetention_only, OnlyChanges.refl])

section

variable {u s : State}

/-- The reaction of a region to its fault is a reset at most (Table 1-4). -/
theorem regionReaction_straps (region : Nat) (outs : List Nat) (h : StrapsLast u s) : StrapsLast u (regionReaction region outs s) := by
  unfold regionReaction
  split
  · exact assertSource_straps _ (h.of_rst (globalSafeNow_rst s))
  · exact h.of_rst (by simp)
  · exact h.of_rst (by simp)
  · exact assertSource_straps _ h
  · exact h

theorem isolateCell_straps (cls : Byte) (i cycle failed : Nat) (h : StrapsLast u s) : StrapsLast u (isolateCell cls i cycle failed s) := by
  unfold isolateCell
  split
  · exact h
  · refine .ite (regionReaction_straps _ _ ?_) ?_ <;> exact h.of_rst (by simp [apply_ite State.rst])

theorem selfTests_straps (region : Nat) (b : BootIn) (h : StrapsLast u s) : StrapsLast u (selfTests region b s) :=
  .foldl (fun _ i k => isolateCell_straps _ i _ _ k) (h.of_rst (releaseCells_rst ..))

/-- Of the reset controller boot step 3 writes the entry of the reset's cause alone (R102). -/
theorem bootStep3_rst (b : BootIn) (s : State) : let s1 := bootFilters (bootRetention s)
    (bootStep3 b s).rst = (updCause (fun c =>
      { c with finalSaveOk := c.finalSaveOk && s1.power.finalOk, pfwSeen := c.pfwSeen || s1.power.pfSeen }) s1).rst := by
  simp only [bootStep3, metReplayed_rst, commits_rst, rebuildBoundaries_rst, reopenEntries_rst, apply_ite State.rst, signBenchmark_rst,
    clearPulses_rst, ite_self, signInterrupted_rst, bootLatch_rst]
  split <;> rw [restoreBilling_rst, restoreEnergy_rst]

theorem bootStep3_straps (b : BootIn) (h : StrapsLast u s) : StrapsLast u (bootStep3 b s) :=
  (updCause_straps _ (h.of_rst (by simp))).of_rst (bootStep3_rst b s)

theorem bootStepTo_straps {step : State → State} (k : Nat) (hs : ∀ {t}, StrapsLast u t → StrapsLast u (step t)) (h : StrapsLast u s) :
    StrapsLast u (bootStepTo k step s) :=
  .ite h (hs (h.trans ⟨rfl, nofun⟩))

theorem bootRegions_straps (b : BootIn) (h : StrapsLast u s) : StrapsLast u (bootRegions b s) := by
  unfold bootRegions
  refine bootStepTo_straps 5 (fun k => selfTests_straps 4 b (k.of_rst (by simp))) (bootStepTo_straps 4 (selfTests_straps 2 b)
    (bootStepTo_straps 3 (fun k => selfTests_straps 1 b (bootStep3_straps b k)) (bootStepTo_straps 2 (fun k => ?_) h)))
  exact selfTests_straps 0 b (selfTests_straps 3 b (k.of_rst (by simp)))

theorem bootStep6_straps (b : BootIn) (h : StrapsLast u s) : StrapsLast u (bootStep6 b s) := by
  unfold bootStep6
  have image := (selfTests_straps 5 b h).of_rst ((bootImage_rst (romStrapped s) _).trans (appReplayed_rst _))
  exact .ite (h.trans ⟨rfl, nofun⟩) (.ite (assertSource_straps _ image) (image.trans ⟨rfl, nofun⟩))

end

/-! Bits and fields. -/

theorem bit_setBit_of_ne {w i j : Nat} (h : j ≠ i) (r : BitVec w) (v : Bool) : bit (setBit r i v) j = bit r j := by
  have off : (BitVec.ofNat w (2 ^ i)).getLsbD j = false := by
    rw [BitVec.getLsbD_ofNat, Nat.testBit_two_pow_of_ne h.symm, Bool.and_false]
  cases v
  · simp only [bit, setBit, Bool.false_eq_true, if_false, BitVec.getLsbD_and, BitVec.getLsbD_not, off, Bool.not_false, Bool.and_true]
    simpa using BitVec.lt_of_getLsbD
  · simp only [bit, setBit, if_true, BitVec.getLsbD_or, off, Bool.or_false]

/-- A field is its bits. -/
theorem fld_congr {w lo len : Nat} {r q : BitVec w} (h : ∀ i, i < len → bit r (lo + i) = bit q (lo + i)) : fld r lo len = fld q lo len := by
  refine Nat.eq_of_testBit_eq fun i => ?_
  simp only [fld, bitsOf, Nat.testBit_mod_two_pow, Nat.testBit_div_two_pow, BitVec.testBit_toNat]
  by_cases hi : i < len
  · rw [Nat.add_comm i lo]
    exact congrArg _ (h i hi)
  · simp [hi]

/-- The boot mode as sampled is the majority's (R58, Table 2-12). -/
theorem fld_sampledStraps (locked : Bool) (b : BootIn) : fld (sampledStraps locked b) 0 2 = fld (majority b) 0 2 := by
  refine fld_congr fun i hi => ?_
  rw [sampledStraps, bit_setBit_of_ne (by omega), bit_setBit_of_ne (by omega)]
  interval_cases i <;> simp [bit]

/-! The release of the sources at the end of boot step 1 (R94). -/

/-- What the release of sources leaves: straps, debug lock, and RESET_N as it reads. -/
def readings (r : Reset) : BitVec 8 × Bool × Bool × Bool := (r.straps, r.debugLocked, r.pinLow, r.masked)

theorem releaseSource_readings (src : Nat) (s : State) : readings (releaseSource src s).rst = readings s.rst := by
  unfold releaseSource
  split
  · rfl
  · split <;> rfl

theorem releaseAll_readings (p : Nat → Bool) (s : State) : readings (releaseAll p s).rst = readings s.rst :=
  foldl_kept (fun s => readings s.rst) (fun s x => releaseSource_readings x s) _ _

theorem releaseSource_asserted (src : Nat) (s : State) : (releaseSource src s).rst.asserted = s.rst.asserted.filter (· != src) := by
  unfold releaseSource
  split
  · rfl
  split
  · rfl
  next h =>
    refine (List.filter_eq_self.mpr fun x hx => ?_).symm
    rw [bne_iff_ne]
    rintro rfl
    exact h (List.contains_iff_mem.mpr hx)

theorem mem_foldl_releaseSource (l : List Nat) (s : State) (x : Nat) :
    x ∈ (l.foldl (fun s x => releaseSource x s) s).rst.asserted ↔ x ∈ s.rst.asserted ∧ x ∉ l := by
  induction l generalizing s with
  | nil => simp
  | cons y l ih => simp [ih, releaseSource_asserted, and_assoc]

/-- What stays asserted is what the release does not name (R94). -/
theorem mem_releaseAll (p : Nat → Bool) (s : State) (x : Nat) :
    x ∈ (releaseAll p s).rst.asserted ↔ x ∈ s.rst.asserted ∧ ¬ (x < 17 ∧ p x = true) := by
  rw [releaseAll, mem_foldl_releaseSource]
  simp only [List.mem_filter, List.mem_range, List.contains_iff_mem]
  tauto

/-- Step 1 samples the straps, and ends (R58). -/
theorem bootStep1_straps (b : BootIn) (s : State) : (bootStep1 b s).rst.straps = sampledStraps s.rst.debugLocked b ∧
    (bootStep1 b s).rst.phase = .held 1 := by
  unfold bootStep1
  dsimp only
  generalize sampled : pilotsUp _ = u
  have straps : (releaseAll (fun x => x != srcResetN) u).rst.straps = sampledStraps s.rst.debugLocked b := by
    refine (congrArg Prod.fst (releaseAll_readings _ u)).trans ?_
    subst sampled
    simp [apply_ite State.rst, readings]
  split
  · split <;> exact ⟨straps, rfl⟩
  · exact ⟨straps, rfl⟩

/-- With RESET_N high, or masked, step 1 ends with the release of the other sources (R92, R94). -/
theorem bootStep1_of_pin {b : BootIn} {s : State} (pin : s.rst.pinLow = false ∨ s.rst.masked = true) : ∃ u : State,
    u.rst = { s.rst with straps := sampledStraps s.rst.debugLocked b, debugRun := dbgenLow b && !s.rst.debugLocked,
                         bootRefusedEv := bit (sampledStraps s.rst.debugLocked b) 6 } ∧
    bootStep1 b s = updRst (fun r => { r with phase := .held 1 }) (releaseAll (fun x => x != srcResetN) u) := by
  unfold bootStep1
  dsimp only
  generalize sampled : pilotsUp _ = u
  have rst : u.rst = { s.rst with straps := sampledStraps s.rst.debugLocked b, debugRun := dbgenLow b && !s.rst.debugLocked,
                                  bootRefusedEv := bit (sampledStraps s.rst.debugLocked b) 6 } := by
    subst sampled
    simp [apply_ite State.rst]
  have released := releaseAll_readings (fun x => x != srcResetN) u
  simp only [readings, rst, Prod.mk.injEq] at released
  obtain ⟨-, -, low, masked⟩ := released
  refine ⟨u, rst, if_neg ?_⟩
  rw [updRst_rst]
  obtain pin | pin := pin <;> simp [low, masked, pin]

/-! The boot from its start. -/

/-- The boot goes on from step 1 with its straps; factory test is all that it can enter besides, and with the lock open alone (R58, R61). -/
theorem bootFrom_zero_straps (b : BootIn) (s : State) : (bootFrom b 0 s).rst.straps = sampledStraps s.rst.debugLocked b ∧
    (s.rst.debugLocked = true → (bootFrom b 0 s).rst.phase ≠ .factory) := by
  obtain ⟨straps, held⟩ := bootStep1_straps b s
  have booting (t : State) (h : StrapsLast (bootStep1 b s) t) : t.rst.straps = sampledStraps s.rst.debugLocked b ∧
      (s.rst.debugLocked = true → t.rst.phase ≠ .factory) :=
    ⟨h.straps.trans straps, fun _ k => by simpa [held] using h.test k⟩
  unfold bootFrom
  simp only [if_true, Nat.zero_lt_succ, true_and]
  split
  · exact booting _ (.refl _)
  split
  next test =>
    refine ⟨straps, fun locked => ?_⟩
    have locked : (bootStep1 b s).rst.debugLocked = true := (bootStep1_lasts b (Lasts.refl true s)).locked locked
    simp [factoryTest, locked] at test
  · have regions := bootRegions_straps b (.refl (bootStep1 b s))
    split
    · exact booting _ (.ite (bootStep6_straps b regions) regions)
    · exact booting _ regions

/-- An unlocked device strapped for it is in factory test after step 1, once step 1 has released the sources (R61). -/
theorem bootFrom_zero_factory {b : BootIn} {s : State} (unlocked : s.rst.debugLocked = false) (strapped : fld (majority b) 0 2 = 0)
    (sources : ∀ x ∈ s.rst.asserted, x < 17 ∧ x ≠ srcResetN) (pin : s.rst.pinLow = false ∨ s.rst.masked = true) :
    (bootFrom b 0 s).rst.phase = .factory := by
  obtain ⟨u, rst, step1⟩ := bootStep1_of_pin (b := b) pin
  have released : (bootStep1 b s).rst.asserted = [] := by
    rw [step1, updRst_rst]
    refine List.eq_nil_iff_forall_not_mem.mpr fun x hx => ?_
    rw [mem_releaseAll, rst] at hx
    simpa using hx.2 ⟨(sources x hx.1).1, by simpa using (sources x hx.1).2⟩
  have test : factoryTest (bootStep1 b s) = true := by
    have kept := releaseAll_readings (fun x => x != srcResetN) u
    simp only [readings, rst, Prod.mk.injEq] at kept
    simp [factoryTest, step1, kept, unlocked, fld_sampledStraps, strapped]
  simp [bootFrom, released, test]

/-- The reset's end frees the boot at a step (R93). -/
theorem execResetRelease_held {b : BootIn} {k : Nat} {s : State} (on : s.power.supply = .on) (pfw : s.power.pfw = false)
    (held : s.rst.phase = .held k) : execResetRelease b s = .next (bootFrom b k s) := by
  simp [execResetRelease, held, on, pfw]

end Sys2Proof.Laws

/-!
PROOF. READY (chapter 3, R97, R100, R108): what READY sets stays as it is through all that follows it.
-/

namespace Sys2Proof.Laws

open Sys2Proof.Machine Sys2Proof.Safety

/-- What READY has set, and the sessions, are in t as in s. -/
structure ReadyLasts (s t : State) : Prop where
  phase : t.rst.phase = s.rst.phase
  mode : t.modes.mode = s.modes.mode
  readyAt : t.power.readyAt = s.power.readyAt
  flight : t.port.flight = s.port.flight
  sessions : t.billing.sessions = s.billing.sessions

/-- The parts in which nothing of that stands. -/
def readySpares : List Part :=
  [.factory, .clock, .roles, .faults, .ease, .fe, .energy, .seals, .log, .link, .sw, .loads, .trv, .rdr, .tag, .disp, .chain, .store]

section

variable {u s t : State}

theorem ReadyLasts.refl (s : State) : ReadyLasts s s := ⟨rfl, rfl, rfl, rfl, rfl⟩

theorem ReadyLasts.trans (h : ReadyLasts u s) (k : ReadyLasts s t) : ReadyLasts u t :=
  ⟨k.phase.trans h.phase, k.mode.trans h.mode, k.readyAt.trans h.readyAt, k.flight.trans h.flight, k.sessions.trans h.sessions⟩

theorem ReadyLasts.of_only (h : ReadyLasts u s) (k : OnlyChanges readySpares s t) : ReadyLasts u t := by
  have rst : t.rst = s.rst := k .rst (by decide)
  have modes : t.modes = s.modes := k .modes (by decide)
  have power : t.power = s.power := k .power (by decide)
  have port : t.port = s.port := k .port (by decide)
  have billing : t.billing = s.billing := k .billing (by decide)
  exact h.trans ⟨by rw [rst], by rw [modes], by rw [power], by rw [port], by rw [billing]⟩

theorem ReadyLasts.ite {p : Prop} [Decidable p] (h : ReadyLasts u s) (k : ReadyLasts u t) : ReadyLasts u (if p then s else t) := by
  split
  · exact h
  · exact k

theorem ReadyLasts.foldl {α : Type} {f : State → α → State} {l : List α} (hf : ∀ s x, ReadyLasts u s → ReadyLasts u (f s x))
    (h : ReadyLasts u s) : ReadyLasts u (l.foldl f s) := by
  induction l generalizing s with
  | nil => exact h
  | cons x l ih => exact ih (hf s x h)

/-! An event that is emitted waits behind those delivered (R136 to R138). -/

theorem pushPlain_flight (e : Event) (p : Port) : (pushPlain e p).flight = p.flight := by
  unfold pushPlain
  split <;> rfl

@[simp] theorem emit_flight (code : Nat) (payload : List Byte) (ack : Bool) (s : State) : (emit code payload ack s).port.flight = s.port.flight := by
  unfold emit
  dsimp only
  split
  · rw [journalApp_port]; rfl
  split <;> exact pushPlain_flight _ _

theorem event_ready (code : Nat) (payload : List Byte) (h : ReadyLasts u s) : ReadyLasts u (event code payload s) := by
  have k : OnlyChanges [.port, .store] s (event code payload s) := event_only _ _ (by decide) (by decide) (.refl _ s)
  have rst : (event code payload s).rst = s.rst := k .rst (by decide)
  have modes : (event code payload s).modes = s.modes := k .modes (by decide)
  have billing : (event code payload s).billing = s.billing := k .billing (by decide)
  exact h.trans ⟨by rw [rst], by rw [modes], by rw [event_power], emit_flight .., by rw [billing]⟩

/-! What follows READY after every reset. -/

theorem vbatMeasured_ready (mv : Nat) (h : ReadyLasts u s) : ReadyLasts u (vbatMeasured mv s) :=
  .ite (event_ready _ _ (h.trans ⟨rfl, rfl, rfl, rfl, rfl⟩)) (h.trans ⟨rfl, rfl, rfl, rfl, rfl⟩)

theorem storageReady_ready (h : ReadyLasts u s) : ReadyLasts u (storageReady s) := by
  have stored (f : Storage → Storage) {s : State} (k : ReadyLasts u s) : ReadyLasts u (updStore f s) := k.trans ⟨rfl, rfl, rfl, rfl, rfl⟩
  unfold storageReady
  dsimp only
  split
  case h_1 =>
    refine .ite (event_ready _ _ (stored _ (.ite (event_ready _ _ (stored _ ?_)) ?_))) (.ite (event_ready _ _ (stored _ ?_)) ?_) <;>
      exact event_ready _ _ (stored _ h)
  case h_2 => exact .ite (event_ready _ _ (stored _ (.ite (event_ready _ _ (stored _ h)) h))) (.ite (event_ready _ _ (stored _ h)) h)

theorem chainResume_ready (h : ReadyLasts u s) : ReadyLasts u (chainResume s) :=
  h.of_only (chainResume_only (by decide) (by decide) (by decide) (by decide) (by decide) (.refl _ s))

theorem requestImport_ready (h : ReadyLasts u s) : ReadyLasts u (requestImport s) :=
  h.of_only (requestImport_only (by decide) (by decide) (.refl _ s))

theorem readyTail_ready (mv : Nat) (h : ReadyLasts u s) : ReadyLasts u (readyTail mv s) := by
  unfold readyTail
  dsimp only
  refine requestImport_ready (chainResume_ready (storageReady_ready (vbatMeasured_ready mv ?_)))
  have counted {s : State} (k : ReadyLasts u s) (payload : List Byte) :
      ReadyLasts u (event eventLost payload { s with port := { s.port with lostReset := 0 } }) :=
    event_ready _ _ (k.trans ⟨rfl, rfl, rfl, rfl, rfl⟩)
  split
  case h_1 =>
    refine .ite (.ite (counted ?_ _) ?_) (event_ready _ _ (.ite (counted ?_ _) ?_)) <;> exact event_ready _ _ (h.trans ⟨rfl, rfl, rfl, rfl, rfl⟩)
  case h_2 => exact .ite (.ite (counted h _) h) (event_ready _ _ (.ite (counted h _) h))

/-! What follows READY after a reset of reach CORE. -/

theorem readyCore_ready (h : ReadyLasts u s) : ReadyLasts u (readyCore s) :=
  .foldl (fun s n k => .ite (k.of_only (requestPullIn_only _ _ _ (by decide) (by decide) (.refl _ s))) k)
    (.foldl (fun _ _ k => event_ready _ _ k) h)

/-! What follows READY after a wider reset. -/

theorem bootRefusedReport_ready (h : ReadyLasts u s) : ReadyLasts u (bootRefusedReport s) :=
  .ite (event_ready _ _ (h.trans ⟨rfl, rfl, rfl, rfl, rfl⟩)) h

theorem restoreReport_ready (h : ReadyLasts u s) : ReadyLasts u (restoreReport s) := by
  unfold restoreReport
  refine .ite ?_ h
  split
  · exact event_ready _ _ (h.trans ⟨rfl, rfl, rfl, rfl, rfl⟩)
  · exact h

theorem testCutReport_ready (h : ReadyLasts u s) : ReadyLasts u (testCutReport s) :=
  .ite (event_ready _ _ (h.trans ⟨rfl, rfl, rfl, rfl, rfl⟩)) h

theorem priceCheck_ready (h : ReadyLasts u s) : ReadyLasts u (priceCheck s) :=
  .ite h (event_ready _ _ (h.trans ⟨rfl, rfl, rfl, rfl, rfl⟩))

theorem updReclaim_ready (f : Reclaim → Reclaim) (h : ReadyLasts u s) : ReadyLasts u (updReclaim f s) := h.trans ⟨rfl, rfl, rfl, rfl, rfl⟩

theorem askErase_ready (e : Erase) (h : ReadyLasts u s) : ReadyLasts u (askErase e s) :=
  h.of_only (askErase_only e (by decide) (by decide) (.refl _ s))

theorem reclaimStep_ready (r : Reclaim) (h : ReadyLasts u s) : ReadyLasts u (reclaimStep r true s) := by
  unfold reclaimStep
  split
  · exact updReclaim_ready _ h
  · exact .ite (updReclaim_ready _ h) h
  · rw [Bool.true_or, if_pos rfl]
    exact updReclaim_ready _ h
  · exact askErase_ready _ (updReclaim_ready _ (h.of_only (reclaimMap_only r (by decide) (by decide) (.refl _ s))))
  · rw [if_pos rfl]
    exact .ite (updReclaim_ready _ h) h
  · exact h.of_only (reclaimOver_only r (by decide) (updStore_only _ (by decide) (.refl _ s)))

theorem reclaimResume_ready (h : ReadyLasts u s) : ReadyLasts u (reclaimResume s) := by
  unfold reclaimResume
  split
  · exact h
  · exact .ite h (.ite (.ite (askErase_ready _ (updReclaim_ready _ h)) (updReclaim_ready _ h))
      (.ite (askErase_ready _ (updReclaim_ready _ h)) (reclaimStep_ready _ h)))

theorem requestTrv_ready (h : ReadyLasts u s) : ReadyLasts u (requestTrv s) :=
  h.of_only (requestTrv_only (by decide) (by decide) (.refl _ s))

theorem witnessSync_ready (h : ReadyLasts u s) : ReadyLasts u (witnessSync s) := h.of_only (witnessSync_only (by decide) (.refl _ s))

theorem displayReady_ready (h : ReadyLasts u s) : ReadyLasts u (displayReady s) :=
  h.of_only (displayReady_only (by decide) (by decide) (.refl _ s))

/-- After the mode has been entered the reports, and what the site functions ask for, leave it. -/
theorem readyWide_ready (m : Mode) (s : State) : ReadyLasts { s with modes := { s.modes with mode := m } } (readyWide m s) := by
  unfold readyWide
  refine displayReady_ready (witnessSync_ready (requestTrv_ready (priceCheck_ready (reclaimResume_ready ?_))))
  refine ReadyLasts.trans (testCutReport_ready (restoreReport_ready (bootRefusedReport_ready (event_ready _ _ ?_)))) ⟨rfl, rfl, rfl, rfl, rfl⟩
  exact ⟨rfl, rfl, rfl, rfl, rfl⟩

end

theorem appRetire_ready {u s : State} (hit : JRec → Bool) (h : ReadyLasts u s) : ReadyLasts u (appRetire hit s) :=
  h.of_only (appRetire_only _ (by decide) (.refl _ s))

/-- READY is queued and the device runs; then comes what follows the reset's reach, and what follows READY after every reset (R97). -/
theorem becomeReady_ready (mv : Nat) (s : State) : ∃ u : State,
    (u.rst.phase = .running ∧ u.modes.mode = s.modes.mode ∧ u.power.readyAt = s.clock.tick ∧ u.port.flight = [] ∧
      u.billing.sessions = s.billing.sessions) ∧
    ReadyLasts (if s.rst.reachNow.toNat = 0 then readyCore u else readyWide (bootMode s) u) (becomeReady mv s) := by
  unfold becomeReady
  extract_lets reach m stamped ready queue _ queued started _ _ running followed done _
  have mode : stamped.modes.mode = s.modes.mode := by simp [stamped, apply_ite State.modes, updCause, updRst]
  have sessions : stamped.billing.sessions = s.billing.sessions := by simp [stamped, apply_ite State.billing, updCause, updRst]
  have tail : ReadyLasts followed done := appRetire_ready _ (readyTail_ready mv (.refl followed))
  have byReach : followed = if reach = 0 then readyCore (counterResume running) else readyWide (bootMode s) (counterResume running) := by
    by_cases core : reach = 0 <;> simp [followed, m, core]
  refine ⟨counterResume running, ⟨rfl, mode, rfl, rfl, sessions⟩, ?_⟩
  rw [← byReach]
  exact tail.trans ⟨rfl, rfl, rfl, rfl, rfl⟩

theorem execReady_released {mv : Nat} {s : State} (on : s.power.supply = .on) (pfw : s.power.pfw = false)
    (released : s.rst.phase = .released) : execReady mv s = .next (becomeReady mv s) := by
  simp [execReady, on, pfw, released]

/-- READY after a reset of reach CORE (R97, R100). -/
theorem becomeReady_core {s : State} (mv : Nat) (core : s.rst.reachNow = 0) : let t := becomeReady mv s
    t.rst.phase = .running ∧ t.modes.mode = s.modes.mode ∧ t.power.readyAt = s.clock.tick ∧ t.port.flight = [] ∧
      t.billing.sessions = s.billing.sessions := by
  obtain ⟨u, ⟨phase, mode, readyAt, flight, sessions⟩, later⟩ := becomeReady_ready mv s
  rw [if_pos (by rw [core]; rfl)] at later
  have k := (readyCore_ready (.refl u)).trans later
  exact ⟨k.phase.trans phase, k.mode.trans mode, k.readyAt.trans readyAt, k.flight.trans flight, k.sessions.trans sessions⟩

/-- READY after a wider reset, in the mode of R108. -/
theorem becomeReady_wide {s : State} (mv : Nat) (wide : s.rst.reachNow ≠ 0) : let t := becomeReady mv s
    t.rst.phase = .running ∧ t.modes.mode = bootMode s ∧ t.power.readyAt = s.clock.tick ∧ t.port.flight = [] := by
  obtain ⟨u, ⟨phase, -, readyAt, flight, -⟩, later⟩ := becomeReady_ready mv s
  have n : s.rst.reachNow.toNat ≠ 0 := fun h => wide (BitVec.eq_of_toNat_eq h)
  rw [if_neg n] at later
  have k := (readyWide_ready (bootMode s) u).trans later
  exact ⟨k.phase.trans phase, k.mode, k.readyAt.trans readyAt, k.flight.trans flight⟩

/-- Settles O33: the two ends of boot step 1, the end of a CORE reset's boot, and READY after each reach. -/
theorem bootReleasesAndReady : Obligations.BootReleasesAndReady := by
  unfold Obligations.BootReleasesAndReady
  refine ⟨?straps, ?factory, ?released, ?core, ?wide⟩
  case straps =>
    intro b s on pfw held
    exact ⟨_, execResetRelease_held on pfw held, bootFrom_zero_straps b s⟩
  case factory =>
    intro b s on pfw held unlocked strapped known resetN pin
    simp only [List.all_eq_true, decide_eq_true_eq] at known
    refine ⟨_, execResetRelease_held on pfw held, bootFrom_zero_factory unlocked strapped (fun x hx => ⟨?_, ?_⟩) pin⟩
    · exact Nat.lt_succ_of_le (known x hx)
    · rintro rfl
      exact Bool.false_ne_true (resetN.symm.trans (List.contains_iff_mem.mpr hx))
  case released =>
    intro b s on pfw held none core
    refine (execResetRelease_held on pfw held).trans ?_
    simp [bootFrom, held, none, bootStep6, core, updRst]
  case core =>
    intro mv s on pfw released core
    exact ⟨_, execReady_released on pfw released, becomeReady_core mv core⟩
  case wide =>
    intro mv s on pfw released wide
    exact ⟨_, execReady_released on pfw released, becomeReady_wide mv wide⟩

end Sys2Proof.Laws

/-!
PROOF. The legal log (chapters 7 and 14, R255 to R260, R440): records are signed, stored, read, acknowledged and programmed in sequence.
-/

namespace Sys2Proof.Laws

open Sys2Proof.Machine Sys2Proof.Safety

@[simp] theorem emit_log (code : Nat) (payload : List Byte) (ack : Bool) (s : State) : (emit code payload ack s).log = s.log :=
  Part.kept (p := .log) (by simp [emit_only, OnlyChanges.refl])

@[simp] theorem event_log (code : Nat) (payload : List Byte) (s : State) : (event code payload s).log = s.log := emit_log ..

@[simp] theorem journalMet_log (type key n : Nat) (s : State) : (journalMet type key n s).log = s.log :=
  Part.kept (p := .log) (by simp [journalMet_only, OnlyChanges.refl])

@[simp] theorem signedRetire_log (l : List Record) (s : State) : (signedRetire l s).log = s.log :=
  Part.kept (p := .log) (by simp [signedRetire_only, OnlyChanges.refl])

@[simp] theorem witnessRecord_log (b : List Byte) (s : State) : (witnessRecord b s).log = s.log :=
  Part.kept (p := .log) (by simp [witnessRecord_only, OnlyChanges.refl])

@[simp] theorem countInterrupted_log (r : Record) (s : State) : (countInterrupted r s).log = s.log :=
  Part.kept (p := .log) (by simp [countInterrupted_only, OnlyChanges.refl])

@[simp] theorem askErase_log (e : Erase) (s : State) : (askErase e s).log = s.log :=
  Part.kept (p := .log) (by simp [askErase_only, OnlyChanges.refl])

/-- The records and the counts of the legal log, apart from its warnings and the gap. -/
def sequences (l : Log) : Nat × List Record × Nat × Nat := (l.seq, l.journal, l.storedHi, l.acked)

/-- A threshold that is passed is reported, and the records stay (R260). -/
theorem logThresholds_sequences (s : State) : sequences (logThresholds s).log = sequences s.log := by
  unfold logThresholds
  dsimp only
  repeat' split
  all_goals simp only [event_log]
  all_goals rfl

theorem recordsPending_sequences (s : State) : sequences (recordsPending s).log = sequences s.log := by
  simp only [recordsPending, apply_ite State.log, apply_ite sequences, event_log]
  exact ite_self _

@[simp] theorem witnessSealRecord_log (b : List Byte) (s : State) : (witnessSealRecord b s).log = s.log :=
  Part.kept (p := .log) (by simp [witnessSealRecord_only, OnlyChanges.refl])

/-- A record that is signed takes the next SEQUENCE, and is not stored yet (R255, R258). -/
theorem sign_log (r : Record) (s : State) : (sign r s).log.seq = s.log.seq + 1 ∧ (sign r s).log.storedHi = s.log.storedHi := by
  have pending (t : State) : (recordsPending t).log.seq = t.log.seq ∧ (recordsPending t).log.storedHi = t.log.storedHi := by
    simpa [sequences] using congrArg (fun q => (q.1, q.2.2.1)) (recordsPending_sequences t)
  unfold sign
  dsimp only
  rw [(pending _).1, (pending _).2, journalMet_log]
  dsimp only
  split
  · rw [witnessSealRecord_log]
    exact ⟨rfl, rfl⟩
  · exact ⟨rfl, rfl⟩

theorem signGap_storedHi (s : State) : (signGap s).log.storedHi = s.log.storedHi :=
  foldl_kept (·.log.storedHi) (fun s _ => (sign_log _ s).2) _ _

/-- With no overflow and room in the log the next signed record is stored (R258). -/
theorem storeRecord_room {r : Record} {rest : List Record} {s : State} (overflow : s.log.overflow = [])
    (next : unstoredRecords s = r :: rest) (room : s.log.storedHi - s.log.acked < logCapacity) : storeRecord s = storeSigned r s := by
  simp [storeRecord, overflow, next, room]

theorem storeSigned_storedHi (r : Record) (s : State) : (storeSigned r s).log.storedHi = r.seq := by
  refine (congrArg (·.2.2.1) (logThresholds_sequences _)).trans ?_
  rw [witnessRecord_log, countInterrupted_log]
  rfl

theorem execLogRecordStore_running {s : State} (run : s.running = true) : execLogRecordStore s =
    .next (if (storeRecord s).log.gap ∧ !noRecordPlace (storeRecord s) then signGap (storeRecord s) else storeRecord s) := by
  simp [execLogRecordStore, run]

theorem readRecords_touchRole (s : State) (k q : Nat) : readRecords (touchRole s) k q = readRecords s k q := by
  induction k generalizing q with
  | zero => rfl
  | succ k ih =>
    have next : newestSeq (touchRole s) = newestSeq s := rfl
    have found : findRecord (touchRole s) q = findRecord s q := rfl
    simp only [readRecords, next, found, ih]

/-! The host's commands on the log (R259). -/

/-- A byte at the end of a payload. -/
theorem byteAt_last (p : List Byte) {n : Nat} (h : n < 256) : byteAt (p ++ le 1 n) p.length = n := by
  simp [byteAt, le, Nat.mod_eq_of_lt h]

/-- A command accepted in its plain form whose checks have all been made is answered with what its execution yields. -/
theorem hostCommand_checked {h : Hdr} {opcode : Nat} {p : List Byte} {cmd : State → Cmd} {s : State} {read : Bool} {r : Result}
    (a : Accepted h opcode p s) (e : cmd (touchRole s) = { readOnly := read, run := r }) (w : r.wait = none) (n : r.status ≠ .noLeave) :
    hostCommand h opcode p cmd s = answered s h opcode p r.status r.data r.st := by
  have run := hostCommand_accepted (cmd := cmd) a
  rw [e] at run
  exact run nofun rfl rfl rfl rfl rfl rfl w n

/-- LOG_READ answers the records from q (R259). -/
theorem execLogRead_accepted {h : Hdr} {q k : Nat} {s : State} (a : Accepted h 0x0413 (le 8 q ++ le 1 k) s) (role : 1 ≤ s.roles.role)
    (hq : q < 2 ^ 64) (old : s.log.oldest ≤ q) (hk : 1 ≤ k) (hk' : k ≤ 15) : execLogRead h (le 8 q ++ le 1 k) s =
      .next (answered s h 0x0413 (le 8 q ++ le 1 k) .ok (le 1 (readRecords s k q).length ++ (readRecords s k q).flatten) (touchRole s)) := by
  have first : numAt (le 8 q ++ le 1 k) 0 8 = q := numAt_le 8 q _ hq
  have count : byteAt (le 8 q ++ le 1 k) 8 = k := byteAt_last (le 8 q) (by omega)
  have role : 1 ≤ (touchRole s).roles.role := role
  have old : (touchRole s).log.oldest ≤ q := old
  have cmd : logReadCmd (le 8 q ++ le 1 k) (touchRole s) = { readOnly := true, run :=
      { st := touchRole s, data := le 1 (readRecords s k q).length ++ (readRecords s k q).flatten } } := by
    simp [logReadCmd, first, count, readRecords_touchRole, le_length, role, old, hk, hk']
  exact congrArg _ (hostCommand_checked a cmd rfl nofun)

/-- LOG_ACK acknowledges up to q (R259). -/
theorem execLogAck_accepted {h : Hdr} {q : Nat} {s : State} (a : Accepted h 0x0414 (le 8 q) s) (role : 1 ≤ s.roles.role)
    (hq : q < 2 ^ 64) (signed : q ≤ newestSeq s) : execLogAck h (le 8 q) s = .next (answered s h 0x0414 (le 8 q) .ok []
      (if q ≤ s.log.acked then touchRole s else logThresholds { touchRole s with log := { s.log with acked := q } })) := by
  have first : numAt (le 8 q) 0 8 = q := numAt_last [] 0 8 q rfl hq
  have role : 1 ≤ (touchRole s).roles.role := role
  have signed : q ≤ newestSeq (touchRole s) := signed
  have log : (touchRole s).log = s.log := rfl
  have cmd : logAckCmd (le 8 q) (touchRole s) = { readOnly := false, run := { st := (if q ≤ s.log.acked then touchRole s
      else logThresholds { touchRole s with log := { s.log with acked := q } }) } } := by
    simp [logAckCmd, first, le_length, role, signed, log]
  exact congrArg _ (hostCommand_checked a cmd rfl nofun)

/-- The records stay, and the count of those acknowledged never falls (R259). -/
theorem acknowledged_log (q : Nat) (s : State) :
    let t := if q ≤ s.log.acked then touchRole s else logThresholds { touchRole s with log := { s.log with acked := q } }
    t.log.acked = max s.log.acked q ∧ t.log.journal = s.log.journal := by
  dsimp only
  split
  next old => exact ⟨(Nat.max_eq_left old).symm, rfl⟩
  next new =>
    have kept := logThresholds_sequences { touchRole s with log := { s.log with acked := q } }
    simp only [sequences, Prod.mk.injEq] at kept
    obtain ⟨-, journal, -, acked⟩ := kept
    exact ⟨acked.trans (Nat.max_eq_right (by omega)).symm, journal⟩

/-- A page that is verified moves its 16 records from the journal to the NAND (R440). -/
theorem execLogPageProgram_verified {l : List Record} {t : Storage} {s : State} (run : s.regionsRun = true) (up : s.power.pfw = false)
    (page : nextPage s = some l) (head : headSegment ((l.map (·.seq)).headD 0) s.store = some t) : ∃ u, execLogPageProgram true s = .next u ∧
      u.log = { s.log with journal := s.log.journal.filter (fun r => !l.any (fun q => q.seq == r.seq)), stored := l.reverse ++ s.log.stored } := by
  have up : s.shutting = false := up
  refine ⟨_, by
    simp only [execLogPageProgram, run, up, page, head, Bool.not_true, Bool.or_self, Bool.false_eq_true, if_false, if_true]; rfl, ?_⟩
  rw [signedRetire_log]

end Sys2Proof.Laws

/-!
PROOF. The seal and what becomes of the records (chapters 2, 7 and 14, R63, R261 to R264, R431, R441, R442): latches, their records, RESEAL,
reclaim and refresh.
-/

namespace Sys2Proof.Laws

open Sys2Proof.Machine Sys2Proof.Safety

@[simp] theorem emit_seals (code : Nat) (payload : List Byte) (ack : Bool) (s : State) : (emit code payload ack s).seals = s.seals :=
  Part.kept (p := .seals) (by simp [emit_only, OnlyChanges.refl])

@[simp] theorem emit_modes (code : Nat) (payload : List Byte) (ack : Bool) (s : State) : (emit code payload ack s).modes = s.modes :=
  Part.kept (p := .modes) (by simp [emit_only, OnlyChanges.refl])

@[simp] theorem event_modes (code : Nat) (payload : List Byte) (s : State) : (event code payload s).modes = s.modes := emit_modes ..

@[simp] theorem sign_modes (r : Record) (s : State) : (sign r s).modes = s.modes :=
  Part.kept (p := .modes) (by simp [sign_only, OnlyChanges.refl])

@[simp] theorem signBenchmark_modes (entry : Bool) (instant : Nat) (rebuilt : Bool) (s : State) :
    (signBenchmark entry instant rebuilt s).modes = s.modes :=
  Part.kept (p := .modes) (by simp [signBenchmark_only, OnlyChanges.refl])

@[simp] theorem clearPulses_modes (s : State) : (clearPulses s).modes = s.modes :=
  Part.kept (p := .modes) (by simp [clearPulses_only, OnlyChanges.refl])

@[simp] theorem signSealBroken_modes (time cause : Nat) (s : State) : (signSealBroken time cause s).modes = s.modes :=
  Part.kept (p := .modes) (by simp [signSealBroken_only, OnlyChanges.refl])

/-- The seals rewritten are a change of their part alone. -/
theorem withSeals_only (v : Seal) (s : State) : OnlyChanges [.seals] s { s with seals := v } := by
  intro p hp
  cases p with
  | seals => exact absurd (List.mem_singleton.mpr rfl) hp
  | _ => rfl

theorem enterMode_mode (new : Mode) (input pending : Nat) (s : State) : (enterMode new input pending s).modes.mode = new := by
  simp [enterMode, apply_ite State.modes]

/-! A SEAL_BROKEN record (R262). -/

theorem signSealBroken_seals (time cause : Nat) (s : State) : (signSealBroken time cause s).seals =
    if cause = 2 then s.seals else { s.seals with brokenSeq := s.log.seq } := by
  simp only [signSealBroken, event_seals, apply_ite State.seals, sign_seals]

theorem signSealBroken_seq (time cause : Nat) (s : State) : (signSealBroken time cause s).log.seq = s.log.seq + 1 := by
  simp only [signSealBroken, event_log, apply_ite State.log, ite_self, sign_log]

theorem sealBreaks_running {cause : Nat} {s : State} (run : s.regionsRun = true) :
    sealBreaks cause s = sealModeChange (signSealBroken s.clock.legal cause s) := if_pos run

/-- Without METROLOGY the record is due in the next boot step 3. -/
theorem sealBreaks_held {cause : Nat} {s : State} (held : s.regionsRun = false) :
    sealBreaks cause s = { s with seals := { s.seals with unrecorded := s.seals.unrecorded ++ [(cause, s.clock.legal)] } } :=
  if_neg (by simp [held])

/-- The record alters of the seals what names it, and no latch. -/
theorem sealBreaks_seals (cause : Nat) (s : State) : ∃ seq unrecorded,
    (sealBreaks cause s).seals = { s.seals with brokenSeq := seq, unrecorded := unrecorded } := by
  by_cases run : s.regionsRun = true
  · rw [sealBreaks_running run, sealModeChange_seals, signSealBroken_seals]
    split <;> exact ⟨_, _, rfl⟩
  · rw [sealBreaks_held (Bool.eq_false_iff.mpr run)]
    exact ⟨_, _, rfl⟩

theorem sealBreaks_seq {cause : Nat} {s : State} (run : s.regionsRun = true) : s.log.seq < (sealBreaks cause s).log.seq := by
  rw [sealBreaks_running run]
  exact Nat.lt_of_lt_of_le (by rw [signSealBroken_seq]; exact Nat.lt_succ_self _) (sealModeChange_lasts (Lasts.refl true _)).seq

/-- In STANDBY a broken seal makes the mode COMMISSIONING (Table 3-13). -/
theorem sealBreaks_standby {cause : Nat} {s : State} (run : s.regionsRun = true) (standby : s.modes.mode = .standby) :
    (sealBreaks cause s).modes.mode = .commissioning := by
  rw [sealBreaks_running run, sealModeChange, signSealBroken_modes, standby]
  exact enterMode_mode ..

/-! The seal opens (R261). -/

/-- s with one more opening latched and counted. -/
def opened (s : State) : State :=
  { s with seals := { s.seals with loopIntact := false, openCount := sat 4 (s.seals.openCount + 1), broken := true, unverified := true,
                                   brokenAt := if s.seals.broken then s.seals.brokenAt else s.clock.legal } }

theorem openSeal_eq (s : State) : openSeal s = if s.seals.broken then opened s else sealBreaks 0 (opened s) := rfl

/-- Every opening is latched and counted, recorded or not. -/
theorem openSeal_seals (s : State) : let t := openSeal s
    t.seals.broken = true ∧ t.seals.unverified = true ∧ t.seals.loopIntact = false ∧ t.seals.openCount = sat 4 (s.seals.openCount + 1) := by
  obtain ⟨seq, unrecorded, recorded⟩ := sealBreaks_seals 0 (opened s)
  dsimp only
  rw [openSeal_eq, apply_ite State.seals, recorded]
  split <;> exact ⟨rfl, rfl, rfl, rfl⟩

/-! Access attempts on the debug port (R63). -/

/-- s with an access attempt latched. -/
def attempted (s : State) : State := { s with seals := { s.seals with tamper := true, unverified := true, attemptDone := true } }

theorem execDebugAccessAttempt_first {s : State} (up : s.v3dUp = true) (locked : s.rst.debugLocked = true) (first : s.seals.attemptDone = false) :
    execDebugAccessAttempt s = .next (sealBreaks 2 (attempted s)) := by
  simp [execDebugAccessAttempt, up, debugAttempt, locked, first, attempted]

theorem execDebugAccessAttempt_none {s : State} (h : s.seals.attemptDone = true ∨ s.v3dUp = false ∨ s.rst.debugLocked = false) :
    execDebugAccessAttempt s = .next s := by
  obtain done | down | unlocked := h
  · simp [execDebugAccessAttempt, debugAttempt, done]
  · simp [execDebugAccessAttempt, down]
  · simp [execDebugAccessAttempt, debugAttempt, unlocked]

/-! RESEAL (R264). -/

theorem signReseal_clock (s : State) : (signReseal s).clock = s.clock := sign_clock ..

theorem signReseal_modes (s : State) : (signReseal s).modes = s.modes := sign_modes ..

theorem signReseal_seq (s : State) : (signReseal s).log.seq = s.log.seq + 1 := by
  unfold signReseal
  exact (sign_log _ s).1

/-- One record is signed, and every latch is cleared. -/
theorem clearSeal_signReseal (seq : Nat) (s : State) : let t := clearSeal seq (signReseal s)
    t.seals.broken = false ∧ t.seals.unverified = false ∧ t.seals.tamper = false ∧ t.seals.openCount = 0 ∧
      t.seals.resealedAt = s.clock.legal ∧ t.log.seq = s.log.seq + 1 ∧ t.modes = s.modes := by
  rw [← signReseal_clock s, ← signReseal_seq s, ← signReseal_modes s]
  generalize signReseal s = u
  exact ⟨rfl, rfl, rfl, rfl, rfl, rfl, rfl⟩

theorem resealCmd_checked {h : Hdr} {s : State} (role : s.roles.role = 3) (mode : s.modes.mode = .commissioning)
    (place : noRecordPlace s = false) : resealCmd h [] (touchRole s) = { readOnly := false, run := (resealCmd h [] (touchRole s)).run } := by
  have role : (touchRole s).roles.role = 3 := role
  have mode : (touchRole s).modes.mode = .commissioning := mode
  have place : noRecordPlace (touchRole s) = false := place
  simp [resealCmd, role, mode, place]

/-- RESEAL while the loop is not intact for 1 s. -/
theorem execReseal_refused {h : Hdr} {s : State} (a : Accepted h 0x0415 [] s) (role : s.roles.role = 3) (mode : s.modes.mode = .commissioning)
    (place : noRecordPlace s = false) (loop : s.seals.loopIntact = false ∨ s.clock.tick < s.seals.intactAt + 20000) :
    execReseal h [] s = .next (answered s h 0x0415 [] .notConfirmed [] (touchRole s)) := by
  have loop : ((touchRole s).seals.loopIntact && decide ((touchRole s).seals.intactAt + secF 1 ≤ (touchRole s).now)) = false := by
    obtain opened | short := loop
    · exact Bool.and_eq_false_imp.mpr fun intact => absurd (opened.symm.trans intact) Bool.false_ne_true
    · have late : ¬ ((touchRole s).seals.intactAt + secF 1 ≤ (touchRole s).now) := Nat.not_le.mpr short
      rw [decide_eq_false late, Bool.and_false]
  have run : (resealCmd h [] (touchRole s)).run = { st := touchRole s, status := .notConfirmed } := if_pos (by rw [loop]; rfl)
  have cmd := resealCmd_checked (h := h) role mode place
  rw [run] at cmd
  exact congrArg _ (hostCommand_checked (cmd := fun s => resealCmd h [] s) a cmd rfl nofun)

/-- RESEAL with the loop intact for 1 s clears the latches and signs its record. -/
theorem execReseal_done {h : Hdr} {s : State} (a : Accepted h 0x0415 [] s) (role : s.roles.role = 3) (mode : s.modes.mode = .commissioning)
    (place : noRecordPlace s = false) (intact : s.seals.loopIntact = true) (long : s.seals.intactAt + 20000 ≤ s.clock.tick) :
    ∃ payload, execReseal h [] s = .next (answered s h 0x0415 [] .queued []
      (emit 0x0425 payload (flagAck h.flags) (clearSeal s.log.seq (signReseal (touchRole s))))) := by
  have loop : ((touchRole s).seals.loopIntact && decide ((touchRole s).seals.intactAt + secF 1 ≤ (touchRole s).now)) = true :=
    Bool.and_eq_true_iff.mpr ⟨intact, decide_eq_true long⟩
  refine ⟨le 8 s.log.seq ++ (objBytes s.seals.metHash).take 8, ?_⟩
  have run : (resealCmd h [] (touchRole s)).run =
      { st := (emit 0x0425 (le 8 s.log.seq ++ (objBytes s.seals.metHash).take 8) (flagAck h.flags)
          (clearSeal s.log.seq (signReseal (touchRole s)))), status := .queued } := if_neg (by rw [loop]; exact Bool.false_ne_true)
  have cmd := resealCmd_checked (h := h) role mode place
  rw [run] at cmd
  have done := hostCommand_checked (cmd := fun s => resealCmd h [] s) a cmd rfl nofun
  dsimp only at done
  exact congrArg _ done

/-! Reclaim and refresh (R431, R441, R442). -/

theorem journalApp_reclaim (type key n : Nat) (s : State) : (journalApp type key n s).store.reclaim = s.store.reclaim := by
  unfold journalApp
  dsimp only
  split <;> rfl

/-- A reclaim that starts takes its source (R441); its frame is execReclaimStart_only. -/
theorem execReclaimStart_source {d : Option Nat} {g : Segment} {due : Bool} {s : State} (run : s.regionsRun = true) (up : s.shutting = false)
    (idle : s.store.reclaim = none) (source : reclaimSource d s = some (g, due))
    (room : due = false ∨ (leastErased s.store.free).isSome = true) :
    ∃ t q, execReclaimStart d s = .next t ∧ t.store.reclaim = some q ∧ q.source = g.id := by
  have started : ∃ q : Reclaim, q.source = g.id ∧
      execReclaimStart d s = .next (journalApp 0x15 g.id 24 (updStore (fun t => { t with reclaim := some q }) s)) := by
    simp only [execReclaimStart, run, up, idle, source, Bool.not_true, Bool.or_self, Option.isSome_none, Bool.false_eq_true, if_false]
    split
    next none => simp [none] at room
    · exact ⟨_, rfl, rfl⟩
  obtain ⟨q, named, step⟩ := started
  exact ⟨_, q, step, journalApp_reclaim .., named⟩

/-- Step 1 of Table 14-6 ends behind no page that waits (R433, R442). -/
theorem execReclaimStepDone_first {r : Reclaim} {s : State} (run : s.regionsRun = true) (up : s.shutting = false)
    (under : s.store.reclaim = some r) (free : pageWaits s = false) (first : r.step = 1) :
    execReclaimStepDone true s = .next (updReclaim (fun r => { r with step := 2 }) s) := by
  simp [execReclaimStepDone, run, up, under, free, reclaimStep, first]

/-- A block outside the log that is due is erased once it is copied, and the refresh is counted (R431). -/
theorem execNandBlockRefresh_due {part b : Nat} {s : State} (run : s.regionsRun = true) (up : s.shutting = false) (known : part < 5)
    (other : part ≠ 3) : execNandBlockRefresh part b false s = .next (askErase { what := 4, part := part, block := b, count := 1 }
      (updStore (fun t => { t with refreshes := satInc 16 t.refreshes }) s)) := by
  have known : decide (5 ≤ part) = false := decide_eq_false (Nat.not_le.mpr known)
  simp [execNandBlockRefresh, run, up, known, other]

theorem askErase_refreshes (e : Erase) (s : State) : (askErase e s).store.refreshes = s.store.refreshes := rfl

/-- Settles O49, one clause for each command, from the effect of that command. -/
theorem recordsAndSeal : Obligations.RecordsAndSeal := by
  unfold Obligations.RecordsAndSeal
  refine ⟨?read, ?acked, ?stored, ?programmed, ?opening, ?attempt, ?attemptHeld, ?noAttempt, ?reseal, ?resealRefused, ?reclaim, ?step, ?refresh⟩
  case read => exact fun h q k s a role hq old hk hk' => execLogRead_accepted a role hq old hk hk'
  case acked => exact fun h q s a role hq signed => ⟨_, execLogAck_accepted a role hq signed, acknowledged_log q s⟩
  case stored =>
    intro r rest s run overflow next room
    refine ⟨_, execLogRecordStore_running run, ?_⟩
    rw [storeRecord_room overflow next room, apply_ite State.log, apply_ite Log.storedHi, signGap_storedHi, ite_self, storeSigned_storedHi]
  case programmed =>
    intro l t0 s run up page head
    obtain ⟨u, step, log⟩ := execLogPageProgram_verified run up page head
    refine ⟨u, step, by rw [log], fun r hr q hq same => ?_⟩
    rw [log] at hr
    simp only [List.mem_filter, Bool.not_eq_true', List.any_eq_false, beq_iff_eq] at hr
    exact hr.2 q hq same.symm
  case opening =>
    intro s
    obtain ⟨broken, unverified, intact, count⟩ := openSeal_seals s
    refine ⟨openSeal s, rfl, broken, unverified, intact, count, fun again => ?_, fun first run => ?_, fun first held => ?_⟩
    · rw [openSeal_eq, if_pos again]
      exact ⟨withSeals_only _ s, if_pos again⟩
    · rw [openSeal_eq, first]
      exact ⟨sealBreaks_seq (s := opened s) run, sealBreaks_standby (s := opened s) run⟩
    · rw [openSeal_eq, first]
      have held : (opened s).regionsRun = false := held
      rw [if_neg Bool.false_ne_true, sealBreaks_held held]
      exact ⟨rfl, withSeals_only _ s⟩
  case attempt =>
    intro s run up locked first
    obtain ⟨seq, unrecorded, seals⟩ := sealBreaks_seals 2 (attempted s)
    refine ⟨_, execDebugAccessAttempt_first up locked first, ?_⟩
    rw [seals]
    exact ⟨rfl, rfl, rfl, rfl, sealBreaks_seq (s := attempted s) run⟩
  case attemptHeld =>
    intro s up held locked first
    have held : (attempted s).regionsRun = false := held
    exact (execDebugAccessAttempt_first up locked first).trans (congrArg _ (sealBreaks_held held))
  case noAttempt => exact fun s h => execDebugAccessAttempt_none h
  case reseal =>
    intro h s a role mode place intact long
    obtain ⟨payload, step⟩ := execReseal_done a role mode place intact long
    refine ⟨_, step, ?_⟩
    rw [emit_seals, emit_log, emit_modes]
    exact clearSeal_signReseal s.log.seq (touchRole s)
  case resealRefused => exact fun h s a role mode place loop => execReseal_refused a role mode place loop
  case reclaim =>
    intro d g due s run up idle source room
    obtain ⟨t, q, step, started, named⟩ := execReclaimStart_source run up idle source room
    have only : OnlyChanges [.store] s t := execReclaimStart_only d step
    exact ⟨t, q, step, started, named, only .log (by decide), only⟩
  case step =>
    intro r s run up under free first
    refine ⟨_, { r with step := 2 }, execReclaimStepDone_first run up under free first, ?_, rfl, rfl⟩
    simp [updReclaim, updStore, under]
  case refresh =>
    intro part b s run up known other
    exact ⟨_, execNandBlockRefresh_due run up known other, askErase_refreshes .., askErase_log ..⟩

end Sys2Proof.Laws

/-!
PROOF. The device right after manufacture (chapters 3, 4 and 7, R87, R93, R145, R255, R256), and writes of the safety configuration (R116).
-/

namespace Sys2Proof.Laws

open Sys2Proof.Machine Sys2Proof.Safety

/-! Right after manufacture. -/

theorem vget_replicate {α : Type} (n i : Nat) (a : α) : vget (Vector.replicate n a) i a = a := by
  by_cases h : i < n <;> simp [vget, h]

/-- No driver is commanded on at manufacture. -/
theorem drv_reset (d : Nat) : drv State.reset d = {} := vget_replicate 24 d ({} : Driver)

/-- Settles O8: the values of the reset state, the drivers' by the array that holds them. -/
theorem resetStateHolds : Obligations.ResetStateHolds := by
  unfold Obligations.ResetStateHolds
  refine ⟨rfl, rfl, rfl, rfl, rfl, rfl, rfl, rfl, rfl, ?sessions, rfl, ?drivers, rfl⟩
  case sessions => decide
  case drivers => exact fun d => congrArg Driver.cmd (drv_reset d)

/-! What a write of the safety configuration names (R144). -/

theorem ofNumber_number (c : Cfg) : Cfg.ofNumber c.number = some c := by
  cases c <;> rfl

theorem number_lt (c : Cfg) : c.number < 256 ^ 2 := by
  cases c <;> decide

/-- The payload of a write spells its object, its index, its data and its mask (R144). -/
theorem objWriteCmd_writePayload (h : Hdr) {c : Cfg} {i : Nat} {data mask : List Byte} (hd : data.length = c.size) (hm : mask.length = c.size)
    (hi : i < 65536) (s : State) : objWriteCmd h (writePayload c.number i data mask) s = c.cmd h i data mask s := by
  have payload : writePayload c.number i data mask = le 2 c.number ++ (le 2 i ++ (data ++ mask)) := by simp [writePayload]
  have object : numAt (writePayload c.number i data mask) 0 2 = c.number := payload ▸ numAt_le 2 c.number _ (number_lt c)
  have index : numAt (writePayload c.number i data mask) 2 2 = i := payload ▸ numAt_append _ _ 2 2 i (le_length 2 _) hi
  have fields : (writePayload c.number i data mask).drop 4 = data ++ mask := by
    rw [writePayload, List.append_assoc _ data mask]
    exact List.drop_left' (by simp [le_length])
  have first : ((writePayload c.number i data mask).drop 4).take c.size = data := by rw [fields, List.take_left' hd]
  have second : (writePayload c.number i data mask).drop (4 + c.size) = mask := by rw [← List.drop_drop, fields, List.drop_left' hd]
  have size : (writePayload c.number i data mask).length = 4 + 2 * c.size := by
    simp only [payload, List.length_append, le_length, hd, hm]
    omega
  simp only [objWriteCmd, object, ofNumber_number, size, if_true, index, first, second]

/-! The mode's check (R116). -/

theorem writer_of_safety {c : Cfg} (safety : c.safety = true) {role : Nat} (h : 2 ≤ role) : c.writer role = true := by
  revert safety
  cases c <;> simp [Cfg.safety, Cfg.writer, h]

theorem modeOk_of_safety {c : Cfg} (safety : c.safety = true) (i mask new : Nat) (s : State) : c.modeOk i mask new s = standbyOrComm s := by
  revert safety
  cases c <;> simp [Cfg.safety, Cfg.modeOk]

@[simp] theorem settled_modes (s : State) : (settled s).modes = s.modes :=
  Part.kept (p := .modes) (by simp [settled_only, OnlyChanges.refl])

/-- A command whose form and role are right and whose mode is not (Table 4-7). -/
theorem verdict_badMode {c : Cmd} {f : Byte} {s : State} (form : (c.level.formOk f && c.form) = true)
    (role : (c.role && (!flagExpert f || c.readOnly || decide (2 ≤ s.roles.role))) = true) (mode : c.mode = false) :
    c.verdict f s = some .badMode := by
  simp [Cmd.verdict, form, role, mode]

/-- The checks of a write of the safety configuration before the mode's pass, and the mode's fails (R116), in either form. -/
theorem safetyWrite_verdict {c : Cfg} {h : Hdr} {i : Nat} {data mask : List Byte} {s : State} (safety : c.safety = true)
    (flags : commandFlags h.flags = true) (hd : data.length = c.size) (hm : mask.length = c.size)
    (fields : maskOk (c.fields i) (ofBytes mask) (flagExpert h.flags) = true) (role : 2 ≤ s.roles.role) (standby : s.modes.mode ≠ .standby)
    (comm : s.modes.mode ≠ .commissioning) : (c.cmd h i data mask (touchRole s)).verdict h.flags (touchRole s) = some .badMode := by
  have role : 2 ≤ (touchRole s).roles.role := role
  have standby : (touchRole s).modes.mode ≠ .standby := standby
  have comm : (touchRole s).modes.mode ≠ .commissioning := comm
  refine verdict_badMode ?form ?role ?mode
  case form => simp [Cfg.cmd, Level.formOk, flags, hd, hm, fields]
  case role => simp [Cfg.cmd, writer_of_safety safety role, role]
  case mode => simp [Cfg.cmd, modeOk_of_safety safety, standbyOrComm, standby, comm]

/-- Settles O24: both forms fail the same check, the mode's. -/
theorem safetyWritesNeedMode : Obligations.SafetyWritesNeedMode := by
  unfold Obligations.SafetyWritesNeedMode
  refine ⟨?plain, ?expert⟩
  case plain =>
    intro c h i data mask s safety a hd hm hi fields role standby comm
    refine congrArg _ (hostCommand_refuse a.runs a.free a.short a.fresh a.rom (not_ack a.flags) ?_)
    rw [objWriteCmd_writePayload h hd hm hi]
    exact safetyWrite_verdict safety a.flags hd hm (by rw [a.basic, fields]) role standby comm
  case expert =>
    intro c h i data mask s safety a hd hm hi fields role standby comm
    refine congrArg _ (hostCommand_refuse a.runs a.free a.short a.fresh a.rom (not_ack a.flags) ?_)
    rw [objWriteCmd_writePayload h hd hm hi]
    exact safetyWrite_verdict safety a.flags hd hm (by rw [a.expert, fields]) role standby comm

end Sys2Proof.Laws

/-!
PROOF. Reset sources that a state keeps from acting (chapter 3, R83, R90, R92): a shutdown keeps the stuck button, and rails that are down a
watchdog.
-/

namespace Sys2Proof.Laws

open Sys2Proof.Machine Sys2Proof.Safety

/-- From the power-fail warning on no pin counts as stuck: its 10 s are judged outside a shutdown alone. -/
theorem execStuckReset_shutting {s : State} (warned : s.power.pfw = true) : execStuckReset s = .next s := by
  simp [execStuckReset, warned]

/-- RESET_N has been low for 10 s, its source asserted and the pin armed, in a shutdown. -/
def stuckInShutdown : State :=
  { State.reset with
    clock := { State.reset.clock with tick := 200000 }
    power := { State.reset.power with pfw := true }
    rst := { State.reset.rst with asserted := [3], phase := .asserted, pinLow := true } }

/-- Refutes O30: its fourth clause masks a pin that is low for 10 s in every state with VAUX on, and the model masks none from a power-fail
warning on; stuckInShutdown meets the clause's premises and keeps its pin armed. -/
theorem not_resetPinAndCommand : ¬ Obligations.ResetPinAndCommand := by
  unfold Obligations.ResetPinAndCommand
  rintro ⟨-, -, -, stuck, -⟩
  obtain ⟨t, step, masked, -⟩ := stuck stuckInShutdown rfl rfl rfl rfl (Nat.le_refl _)
  have kept : exec .stuckReset stuckInShutdown = .next stuckInShutdown := execStuckReset_shutting rfl
  obtain rfl : stuckInShutdown = t := Host.Outcome.next.inj (kept.symm.trans step)
  exact Bool.false_ne_true masked

/-- A region that is not up has no watchdog. -/
theorem execRegionWatchdog_down {region : Nat} {s : State} (down : s.regionUp region = false) : execRegionWatchdog region s = .next s := by
  unfold execRegionWatchdog
  split
  · rw [down]
    rfl
  · rfl

/-- Every step of the boot is made, no source is asserted, and the internal rails are down. -/
def runningWithoutRails : State := { State.reset with rst := { State.reset.rst with asserted := [], phase := .running } }

/-- Refutes O31: its first clause asks that the device runs, and not that its rails are up, without which no region is; the watchdog of region
0 changes nothing in runningWithoutRails. -/
theorem not_resetSources : ¬ Obligations.ResetSources := by
  unfold Obligations.ResetSources
  rintro ⟨watchdog, -⟩
  obtain ⟨t, step, asserted, -⟩ := watchdog 0 runningWithoutRails (Nat.zero_le _) rfl rfl rfl
  have kept : exec (.regionWatchdog 0) runningWithoutRails = .next runningWithoutRails :=
    execRegionWatchdog_down (region := 0) (s := runningWithoutRails) rfl
  obtain rfl : runningWithoutRails = t := Host.Outcome.next.inj (kept.symm.trans step)
  exact List.cons_ne_nil _ _ asserted.symm

end Sys2Proof.Laws

/-!
PROOF. The reset controller as seen by the other parts (chapter 3, R89, R93, R94): what outlasts the safe states of the outputs outlasts every
assertion of a source. So it is of drivers that are off, of an accumulation that has stopped, and of the mark of a trial image.
-/

namespace Sys2Proof.Laws

open Sys2Proof.Machine Sys2Proof.Safety

/-! What the reset controller itself changes. -/

@[simp] theorem assertSource_power (src : Nat) (s : State) : (assertSource src s).power = s.power :=
  Part.kept (p := .power) (by simp [assertSource_only, OnlyChanges.refl])

@[simp] theorem assertSource_modes (src : Nat) (s : State) : (assertSource src s).modes = s.modes :=
  Part.kept (p := .modes) (by simp [assertSource_only, OnlyChanges.refl])

@[simp] theorem systemAssert_power (ran : Bool) (s : State) : (systemAssert ran s).power = s.power :=
  Part.kept (p := .power) (by simp [systemAssert_only, OnlyChanges.refl])

theorem systemAssert_sw (ran : Bool) (s : State) : (systemAssert ran s).sw = (outputsSafe s).sw := by
  unfold systemAssert
  dsimp only
  split <;> simp

/-- A reset that begins from normal operation holds its source, and its reach (R93). -/
theorem beginReset_rst (src reach : Nat) (s : State) : let t := beginReset src reach s
    t.rst.asserted = s.rst.asserted ++ [src] ∧ t.rst.phase = .asserted ∧ t.rst.reachNow = BitVec.ofNat 2 reach := by
  have noted (u : State) (l : List Nat) : (l.foldl (fun s x => noteSource x s) u).rst.asserted = u.rst.asserted :=
    foldl_kept (·.rst.asserted) (fun s x => updCause_asserted _ s) _ _
  have core (u : State) : (coreAssert u).rst.asserted = u.rst.asserted := by
    unfold coreAssert
    rw [foldl_kept State.rst (fun s n => by rw [driverOff_rst, driverOff_rst])]
    split <;> rfl
  have entered (u : State) : (openEntry src reach u).rst.asserted = u.rst.asserted := rfl
  refine ⟨?_, rfl, rfl⟩
  show _ ++ [src] = _
  rw [noted, entered]
  split
  · rw [core, losePlain_rst]
  · rw [systemAssert_asserted, losePlain_rst]

/-- A source that is new in normal operation begins a reset (R93, R94). -/
theorem assertSource_running {src : Nat} {s : State} (on : s.power.supply = .on) (new : s.rst.asserted.contains src = false)
    (now : sourceWaits src s = false) (run : s.rst.phase = .running) : assertSource src s = beginReset src (sourceReach src) s := by
  have new : src ∉ s.rst.asserted := by simpa using new
  simp [assertSource, on, new, now, run]

/-! What outlasts a reset's sources. -/

/-- A property of the other parts that the two reactions to a source keep: that of a CORE source and that of a wider one. -/
structure OutlastsSources (P : State → Prop) : Prop where
  elsewhere : ∀ {s t : State}, OnlyChanges [.rst, .port] s t → P s → P t
  core : ∀ {s : State}, P s → P (coreAssert s)
  system : ∀ (ran : Bool) {s : State}, P s → P (systemAssert ran s)

section

variable {P : State → Prop} {s : State}

theorem OutlastsSources.ite {p : Prop} [Decidable p] {t : State} (h : P s) (k : P t) : P (if p then s else t) := by
  split
  · exact h
  · exact k

theorem OutlastsSources.updRst (k : OutlastsSources P) (f : Reset → Reset) (h : P s) : P (updRst f s) :=
  k.elsewhere (updRst_only _ (by decide) (.refl _ s)) h

theorem OutlastsSources.beginReset (k : OutlastsSources P) (src reach : Nat) (h : P s) : P (beginReset src reach s) := by
  have lost : P (losePlain s) := k.elsewhere (losePlain_only (by decide) (.refl _ s)) h
  have entered := k.elsewhere (openEntry_only src reach (by decide) (.refl _ _)) (ite (p := reach = 0) (k.core lost) (k.system true lost))
  unfold Machine.beginReset
  exact k.updRst _ (k.elsewhere (.foldl (.refl _ _) (fun _ x h => noteSource_only x (by decide) h)) entered)

theorem OutlastsSources.assertBooting (k : OutlastsSources P) (src reach : Nat) (h : P s) : P (assertBooting src reach s) := by
  have wide : P (widenReset src reach s) := k.elsewhere (widenReset_only src reach (by decide) (.refl _ s)) h
  have core := k.elsewhere (releaseSource_only src (by decide) (.refl _ _)) (ite (p := s.rst.reachNow = 0) (k.core wide) wide)
  exact ite (ite (k.updRst _ core) core) (ite wide (k.updRst _ (k.system _ wide)))

/-- Whatever the boot stands at, a source that is asserted reacts in one of these ways (R90, R93, R94). -/
theorem OutlastsSources.assertSource (k : OutlastsSources P) (src : Nat) (h : P s) : P (assertSource src s) := by
  unfold Machine.assertSource
  refine ite h (ite (k.updRst _ h) ?_)
  have wide : P (widenReset src (sourceReach src) s) := k.elsewhere (widenReset_only src _ (by decide) (.refl _ s)) h
  split
  · exact k.beginReset _ _ h
  · exact ite (k.system _ wide) wide
  · exact k.assertBooting _ _ h

end

/-! Drivers that are off stay off. -/

/-- No driver is commanded on. -/
def DriversOff (s : State) : Prop := ∀ d, (drv s d).cmd = false

section

variable {s t : State}

theorem DriversOff.of_drivers (h : DriversOff s) (e : t.sw.drivers = s.sw.drivers) : DriversOff t := fun d => by
  rw [drv, e]
  exact h d

theorem DriversOff.of_sw (h : DriversOff s) (e : t.sw = s.sw) : DriversOff t := h.of_drivers (by rw [e])

theorem DriversOff.foldl {α : Type} {f : State → α → State} {l : List α} (hf : ∀ s x, DriversOff s → DriversOff (f s x))
    (h : DriversOff s) : DriversOff (l.foldl f s) := by
  induction l generalizing s with
  | nil => exact h
  | cons x l ih => exact ih (hf s x h)

theorem updDrv_driversOff (d : Nat) {f : Driver → Driver} (hf : ∀ x, x.cmd = false → (f x).cmd = false) (h : DriversOff s) :
    DriversOff (updDrv d f s) := by
  intro e
  show (vget (vmod s.sw.drivers d f) e {}).cmd = false
  by_cases same : e = d
  · by_cases inside : d < 24
    · rw [same, vget_vmod_self _ _ _ inside]
      exact hf _ (h d)
    · have same : vmod s.sw.drivers d f = s.sw.drivers := by simp [vmod, inside]
      rw [same]
      exact h e
  · rw [vget_vmod_of_ne _ _ _ same]
    exact h e

theorem driverOff_driversOff (d : Nat) (h : DriversOff s) : DriversOff (driverOff d s) :=
  updDrv_driversOff d (fun _ _ => rfl) (h.of_sw (releaseOpt_sw _ s))

theorem armHwOff_driversOff (ds : List Nat) (h : DriversOff s) : DriversOff (armHwOff ds s) :=
  .foldl (fun _ d k => updDrv_driversOff d (fun x hx => by simp [hx]) k) h

theorem dropPullIn_driversOff (ds : List Nat) (h : DriversOff s) : DriversOff (dropPullIn ds s) :=
  .foldl (fun _ d k => driverOff_driversOff d k) h

theorem endJob_driversOff (j : BusJob) (h : DriversOff s) : DriversOff (endJob j s) := by
  unfold endJob
  dsimp only
  split
  · exact h.of_drivers (by rw [busChanged_sw])
  · exact h.of_drivers rfl

theorem dropJobs_driversOff (n : Nat) (h : DriversOff s) : DriversOff (dropJobs n s) := by
  refine .foldl (fun _ j k => endJob_driversOff j k) (.foldl (fun _ j k => ?_) h)
  split
  · exact driverOff_driversOff _ k
  · exact k

theorem seqTo_driversOff (n new : Nat) (h : DriversOff s) : DriversOff (seqTo n new s) := by
  unfold seqTo
  dsimp only
  split
  · exact h
  · exact h.of_drivers (by rw [event_sw]; rfl)

theorem safeSeq_driversOff (n : Nat) (h : DriversOff s) : DriversOff (safeSeq s n) := by
  have off : DriversOff (modulesOff n (dropJobs n s)) := (dropJobs_driversOff n h).of_drivers rfl
  unfold safeSeq
  dsimp only
  split
  · exact seqTo_driversOff _ _ (off.of_drivers rfl)
  · exact off

theorem outputsSafe_driversOff (h : DriversOff s) : DriversOff (outputsSafe s) := by
  have released : DriversOff { s with sw := { s.sw with permit := 0 } } := h.of_drivers rfl
  have safe := DriversOff.foldl (l := List.range 8) (fun _ n k => safeSeq_driversOff n k)
    (dropPullIn_driversOff (List.range 24) (armHwOff_driversOff (List.range 24) released))
  exact safe.of_sw (by rw [outputsSafe, releasePulses_sw, lightSafe_sw, pilotsSafe_sw, channelsOff_sw])

theorem coreAssert_driversOff (h : DriversOff s) : DriversOff (coreAssert s) := by
  unfold coreAssert
  refine .foldl (fun _ n k => driverOff_driversOff _ (driverOff_driversOff _ k)) ?_
  split
  · exact h
  · exact h.of_drivers rfl

theorem driversOff_outlasts : OutlastsSources DriversOff where
  elsewhere o h := h.of_sw (o .sw (by decide))
  core := coreAssert_driversOff
  system ran _ h := (outputsSafe_driversOff h).of_sw (systemAssert_sw ran _)

end

/-! After the power-fail warning an accumulation that has stopped stays so: the safe states release pulses, and the final save of a reset is not
made (R84, R209). -/

@[simp] theorem channelsOff_energy (cs : List Nat) (s : State) : (channelsOff cs s).energy = s.energy :=
  Part.kept (p := .energy) (by simp [channelsOff_only, OnlyChanges.refl])

@[simp] theorem lightSafe_energy (s : State) : (lightSafe s).energy = s.energy :=
  Part.kept (p := .energy) (by simp [lightSafe_only, OnlyChanges.refl])

@[simp] theorem safeSeq_energy (s : State) (n : Nat) : (safeSeq s n).energy = s.energy :=
  Part.kept (p := .energy) (by simp [safeSeq_only, OnlyChanges.refl])

@[simp] theorem dropPullIn_energy (ds : List Nat) (s : State) : (dropPullIn ds s).energy = s.energy :=
  Part.kept (p := .energy) (by simp [dropPullIn_only, OnlyChanges.refl])

@[simp] theorem armHwOff_energy (ds : List Nat) (s : State) : (armHwOff ds s).energy = s.energy :=
  Part.kept (p := .energy) (by simp [armHwOff_only, OnlyChanges.refl])

@[simp] theorem pilotsSafe_energy (s : State) : (pilotsSafe s).energy = s.energy := rfl

@[simp] theorem sitePadsOff_energy (s : State) : (sitePadsOff s).energy = s.energy :=
  Part.kept (p := .energy) (by simp [sitePadsOff_only, OnlyChanges.refl])

@[simp] theorem sitePadsOff_power (s : State) : (sitePadsOff s).power = s.power :=
  Part.kept (p := .power) (by simp [sitePadsOff_only, OnlyChanges.refl])

@[simp] theorem updRst_power (f : Reset → Reset) (s : State) : (updRst f s).power = s.power := rfl

theorem releasePulses_stopped (s : State) : (releasePulses s).energy.stopped = s.energy.stopped := rfl

theorem outputsSafe_stopped (s : State) : (outputsSafe s).energy.stopped = s.energy.stopped := by
  unfold outputsSafe
  dsimp only
  rw [releasePulses_stopped, lightSafe_energy, pilotsSafe_energy, channelsOff_energy, foldl_kept State.energy safeSeq_energy,
    dropPullIn_energy, armHwOff_energy]

theorem assertSave_warned {s : State} (warned : s.power.pfw = true) : assertSave s = s := by
  simp [assertSave, warned]

theorem systemAssert_warned {s : State} (warned : s.power.pfw = true) (ran : Bool) :
    systemAssert ran s = sitePadsOff (updRst (fun r => { r with hold := none, holdMask := 0 }) (outputsSafe s)) := by
  unfold systemAssert
  dsimp only
  rw [assertSave_warned (by simp [warned]), ite_self]

theorem stopped_outlasts : OutlastsSources (fun s => s.power.pfw = true ∧ s.energy.stopped = true) where
  elsewhere {s t} o h := by
    have power : t.power = s.power := o .power (by decide)
    have energy : t.energy = s.energy := o .energy (by decide)
    rwa [power, energy]
  core {s} h := by
    have o := coreAssert_only (l_ := [.rst, .ease, .sw]) (by decide) (by decide) (by decide) (.refl _ s)
    have power : (coreAssert s).power = s.power := o .power (by decide)
    have energy : (coreAssert s).energy = s.energy := o .energy (by decide)
    rwa [power, energy]
  system ran {s} h := by
    obtain ⟨warned, stopped⟩ := h
    refine ⟨by rw [systemAssert_power, warned], ?_⟩
    rw [systemAssert_warned warned, sitePadsOff_energy]
    exact (outputsSafe_stopped s).trans stopped

end Sys2Proof.Laws

/-!
PROOF. VAUX comes, warns, and is back (chapter 3, R79, R83, R84, R86, R90; chapter 6, R209).
-/

namespace Sys2Proof.Laws

open Sys2Proof.Machine Sys2Proof.Safety

/-! What the power-fail warning leaves (R83): steps 1 to 4 of the shutdown sequence. -/

/-- Whether the regions run is the supply's and the reset's alone. -/
theorem regionsRun_congr {s t : State} (supply : t.power.supply = s.power.supply) (rst : t.rst.phase = s.rst.phase)
    (reach : t.rst.reachNow = s.rst.reachNow) : t.regionsRun = s.regionsRun := by
  simp only [State.regionsRun, supply, rst, reach]

@[simp] theorem displayShutdown_light (s : State) : (displayShutdown s).disp.light = false := by
  have updated (f : Display → Display) (t : State) : (updDisp f t).disp = f t.disp := rfl
  have kept (t : State) : (lightEvent false false t).disp = t.disp :=
    Part.kept (p := .disp) (by simp [lightEvent_only, OnlyChanges.refl])
  unfold displayShutdown
  dsimp only
  rw [updated]
  split
  · rw [kept, updated]
  · next dark => exact Bool.eq_false_iff.mpr dark

@[simp] theorem shutTransmitters_light (s : State) : (shutTransmitters s).disp.light = false := by
  have kept (t : State) : (trvSilent t).disp = t.disp := Part.kept (p := .disp) (by simp [trvSilent_only, OnlyChanges.refl])
  unfold shutTransmitters
  dsimp only
  rw [kept, displayShutdown_light]

/-- A copy keeps the type of its record (R437). -/
theorem journalCopies_types (q : Nat) (l : List JRec) : (journalCopies q l).map (·.type) = l.map (·.type) :=
  List.ext_getElem (by simp [journalCopies]) (by simp [journalCopies])

/-- A record that the metrology area takes is live from then on (R436). -/
theorem journalMet_live {type : Nat} (kept : type ≠ retireType) (key n : Nat) (s : State) :
    type ∈ (journalMet type key n s).store.metLive.map (·.type) := by
  have last (q : Nat) (l : List JRec) : type ∈ (journalLive q type key n l).map (·.type) := by simp [journalLive, kept]
  unfold journalMet
  dsimp only
  split
  · exact (journalCopies_types _ _).symm ▸ last _ _
  · exact last _ _

@[simp] theorem event_metLive (code : Nat) (payload : List Byte) (s : State) : (event code payload s).store.metLive = s.store.metLive := by
  have app (type key n : Nat) (t : State) : (journalApp type key n t).store.metLive = t.store.metLive := by
    unfold journalApp
    dsimp only
    split <;> rfl
  unfold event emit
  dsimp only
  split
  · exact app _ _ _ _
  · split <;> rfl

/-- The POWER_FAIL record is made while the metrology region runs (R436). -/
theorem shutSave_record {s : State} (runs : s.regionsRun = true) : 3 ∈ (shutSave s).store.metLive.map (·.type) := by
  simp only [shutSave, benchEnds, runs, if_true]
  exact journalMet_live (by decide) 0 9 _

/-- The state that steps 1 to 4 of the shutdown sequence begin from: the warning noted, the session hold ended. -/
def warned (v : Nat) (s : State) : State :=
  updRst (fun r => { r with hold := none, holdMask := 0 })
    (updPower (fun p => { p with pfw := true, pfwAt := s.now, pfwLegal := s.clock.legal, pfwVaux := sat 16 v, shutStep := 4 }) s)

theorem powerFail_eq (v : Nat) (s : State) : powerFail v s = powerFailEvent (shutSave (shutTransmitters (shutPermits (warned v s)))) := rfl

section

variable (v : Nat) (s : State)

/-- Steps 3 and 4 leave what steps 1 and 2 made of the other parts. -/
theorem shutSave_event_only (t : State) : OnlyChanges [.power, .energy, .billing, .port, .store] t (powerFailEvent (shutSave t)) := by
  simp [powerFailEvent_only, shutSave_only, OnlyChanges.refl]

theorem shutTransmitters_permits_only (t : State) :
    OnlyChanges [.port, .ease, .billing, .sw, .loads, .trv, .rdr, .disp, .store] t (shutTransmitters (shutPermits t)) := by
  simp [shutTransmitters_only, shutPermits_only, OnlyChanges.refl]

theorem shutSave_power (t : State) : (shutSave t).power = { t.power with finalOk := t.power.finalOk || t.regionsRun, pfSeen := true } := by
  have met (t : State) : (journalMet 0x03 0 9 t).power = t.power := Part.kept (p := .power) (by simp [journalMet_only, OnlyChanges.refl])
  have save (t : State) : (finalSave t).power = t.power := Part.kept (p := .power) (by simp [finalSave_only, OnlyChanges.refl])
  simp only [shutSave, benchEnds]
  split <;> simp [met, save]

theorem powerFail_power : let p := (powerFail v s).power
    p.supply = s.power.supply ∧ p.pfw = true ∧ p.pfwAt = s.clock.tick ∧ p.shutStep = 4 := by
  have event (t : State) : (powerFailEvent t).power = t.power := Part.kept (p := .power) (by simp [powerFailEvent_only, OnlyChanges.refl])
  have stopped := shutTransmitters_permits_only (warned v s) .power (by decide)
  rw [powerFail_eq, event, shutSave_power, stopped]
  exact ⟨rfl, rfl, rfl, rfl⟩

theorem powerFail_rst : (powerFail v s).rst = { s.rst with hold := none, holdMask := 0 } :=
  (shutSave_event_only _ .rst (by decide)).trans (shutTransmitters_permits_only (warned v s) .rst (by decide))

theorem powerFail_permit : (powerFail v s).sw.permit = 0 := by
  have saved (t : State) : (powerFailEvent (shutSave t)).sw = t.sw := shutSave_event_only t .sw (by decide)
  have stopped (t : State) : (shutTransmitters t).sw = t.sw := Part.kept (p := .sw) (by simp [shutTransmitters_only, OnlyChanges.refl])
  rw [powerFail_eq, saved, stopped, shutPermits, armHwOff_permit]

/-- What a shutdown stops at once has stopped: the requests of leave, the Traverse transmitter and the panel light (Table 3-3). -/
theorem powerFail_stops :
    (powerFail v s).ease.requests = [] ∧ (powerFail v s).trv.transmit = false ∧ (powerFail v s).disp.light = false := by
  have ease (t : State) : (powerFailEvent (shutSave t)).ease = t.ease := shutSave_event_only t .ease (by decide)
  have trv (t : State) : (powerFailEvent (shutSave t)).trv = t.trv := shutSave_event_only t .trv (by decide)
  have disp (t : State) : (powerFailEvent (shutSave t)).disp = t.disp := shutSave_event_only t .disp (by decide)
  rw [powerFail_eq, ease, trv, disp, shutTransmitters_light]
  exact ⟨rfl, rfl, rfl⟩

theorem powerFail_record (runs : s.regionsRun = true) : (powerFail v s).store.metLive.any (fun r => r.type == 3) = true := by
  have begun : (shutTransmitters (shutPermits (warned v s))).regionsRun = true := by
    have power := shutTransmitters_permits_only (warned v s) .power (by decide)
    have rst := shutTransmitters_permits_only (warned v s) .rst (by decide)
    exact (regionsRun_congr (congrArg Power.supply power) (congrArg Reset.phase rst) (congrArg Reset.reachNow rst)).trans runs
  obtain ⟨r, live, type⟩ := List.mem_map.mp (shutSave_record begun)
  rw [powerFail_eq, powerFailEvent, event_metLive]
  exact List.any_eq_true.mpr ⟨r, live, beq_iff_eq.mpr type⟩

end

/-! The tail slot, and the end of the sequence (R84, R86, R209). -/

theorem releasePulses_low (s : State) {k : Nat} (inside : k < 4) : (vget (releasePulses s).energy.pulses k {}).low = false := by
  simp [releasePulses, vget, inside]

theorem tailSave_stopped (s : State) : (tailSave s).energy.stopped = true := by
  unfold tailSave
  split
  · next stopped => exact stopped
  · rfl

theorem tailSave_low {s : State} (runs : s.energy.stopped = false) {k : Nat} (inside : k < 4) :
    (vget (tailSave s).energy.pulses k {}).low = false := by
  simp only [tailSave, runs, Bool.false_eq_true, if_false]
  exact releasePulses_low _ inside

theorem driversDead_driversOff (s : State) : DriversOff (driversDead s) := fun d => by
  by_cases inside : d < 24 <;> simp [drv, driversDead, vget, inside]

/-- Step 6, with whatever earlier step is still missing (R83). -/
def lastStep (s : State) : State := shutStep6 (tailSave (driversDead s))

theorem shutdownTick_due {s : State} (warned : s.power.pfw = true) (step : s.power.shutStep < 6) (due : s.power.pfwAt + 200 ≤ s.clock.tick) :
    shutdownTick s = if (lastStep s).power.returned then assertSource srcPfReturn (lastStep s) else lastStep s := by
  have due : shutdownDue s = true := by simp [shutdownDue, warned, step, State.now, due]
  simp only [shutdownTick, due, Bool.not_true, Bool.false_eq_true, if_false]
  rfl

theorem lastStep_power {s : State} (step : s.power.shutStep < 6) : (lastStep s).power = { s.power with shutStep := 6 } := by
  have tail (t : State) : (tailSave t).power = t.power := Part.kept (p := .power) (by simp [tailSave_only, OnlyChanges.refl])
  have app (type key n : Nat) (t : State) : (journalApp type key n t).power = t.power :=
    Part.kept (p := .power) (by simp [journalApp_only, OnlyChanges.refl])
  have step : ¬ 6 ≤ (tailSave (driversDead s)).power.shutStep := by
    rw [tail]
    exact Nat.not_le.mpr step
  simp only [lastStep, shutStep6, step, if_false]
  rw [foldl_kept State.power (fun t e => app _ _ _ t), app, tail]
  rfl

theorem lastStep_stopped (s : State) : (lastStep s).energy.stopped = true := by
  have kept (t : State) : (shutStep6 t).energy = t.energy := Part.kept (p := .energy) (by simp [shutStep6_only, OnlyChanges.refl])
  rw [lastStep, kept, tailSave_stopped]

theorem lastStep_sw (s : State) : (lastStep s).sw = (driversDead s).sw :=
  Part.kept (p := .sw) (by simp [lastStep, shutStep6_only, tailSave_only, OnlyChanges.refl])

/-- The end of the sequence with the reset of a VAUX that is back: nothing of what the sequence switched off comes on again. -/
theorem shutdownTick_end {s : State} (warned : s.power.pfw = true) (step : s.power.shutStep < 6) (due : s.power.pfwAt + 200 ≤ s.clock.tick) :
    let t := shutdownTick s
    t.power.shutStep = 6 ∧ t.energy.stopped = true ∧ t.sw.permit = 0 ∧ ∀ d, (drv t d).cmd = false := by
  have power := lastStep_power step
  have pfw : (lastStep s).power.pfw = true := by rw [power, warned]
  have off : DriversOff (lastStep s) := (driversDead_driversOff s).of_sw (lastStep_sw s)
  have permit : (lastStep s).sw.permit = 0 := by rw [lastStep_sw]; rfl
  rw [shutdownTick_due warned step due]
  split
  case isTrue =>
    have stopped := (stopped_outlasts.assertSource srcPfReturn ⟨pfw, lastStep_stopped s⟩).2
    refine ⟨?_, stopped, assertSource_permit (by decide) permit, driversOff_outlasts.assertSource _ off⟩
    rw [assertSource_power, power]
  case isFalse => exact ⟨by rw [power], lastStep_stopped s, permit, off⟩

/-! VAUX is back during a shutdown (R86, R90). -/

theorem execPfReturn_waits {s : State} (on : s.power.supply = .on) (warned : s.power.pfw = true) (phase : s.rst.phase ≠ .held 0)
    (step : s.power.shutStep < 6) : execPfReturn s = .next { s with
      power := { s.power with returned := true, reversed := false }, rst := { s.rst with bootAt := s.clock.tick } } := by
  have step : ¬ 6 ≤ s.power.shutStep := Nat.not_le.mpr step
  simp [execPfReturn, on, warned, updRst, updPower, phase, step, State.now]

/-- The state that execPfReturn asserts its source in: VAUX is back. -/
def returned (s : State) : State :=
  { s with power := { s.power with returned := true, reversed := false }, rst := { s.rst with bootAt := s.clock.tick } }

theorem execPfReturn_resets {s : State} (on : s.power.supply = .on) (warned : s.power.pfw = true) (run : s.rst.phase = .running)
    (step : 6 ≤ s.power.shutStep) (new : s.rst.asserted.contains srcPfReturn = false) :
    execPfReturn s = .next (beginReset srcPfReturn 2 (returned s)) := by
  have now : sourceWaits srcPfReturn (returned s) = false := by
    simp [sourceWaits]
  have resets : assertSource srcPfReturn (returned s) = beginReset srcPfReturn 2 (returned s) := assertSource_running on new now run
  rw [← resets]
  simp [execPfReturn, on, warned, updRst, updPower, run, step, State.now, returned]

/-- Settles O27: the steps of the shutdown sequence one by one, and what the reset after it keeps of them. -/
theorem powerOnAndShutdown : Obligations.PowerOnAndShutdown := by
  unfold Obligations.PowerOnAndShutdown
  refine ⟨?comes, ?warns, ?tail, ?ends, ?waits, ?resets⟩
  case comes => exact fun v s off enough => ⟨_, if_pos ⟨off, enough⟩, rfl, rfl, rfl, rfl, rfl, rfl, rfl⟩
  case warns =>
    intro v s on quiet low
    obtain ⟨-, pfw, at_, step⟩ := powerFail_power v s
    obtain ⟨requests, transmit, light⟩ := powerFail_stops v s
    refine ⟨powerFail v s, if_pos ⟨on, by simp [quiet], low⟩, pfw, at_, step, ?_, powerFail_permit v s, requests, transmit, light,
      powerFail_record v s⟩
    rw [powerFail_rst]
  case tail =>
    exact fun s on warned due => ⟨tailSave s, if_pos ⟨on, warned, due⟩, tailSave_stopped s, fun runs _ => tailSave_low runs⟩
  case ends => exact fun s warned step due => shutdownTick_end warned step due
  case waits => exact fun s on warned phase step => execPfReturn_waits on warned phase step
  case resets =>
    exact fun s on warned run step new => ⟨_, execPfReturn_resets on warned run step new, beginReset_rst srcPfReturn 2 (returned s)⟩

end Sys2Proof.Laws

/-!
PROOF. The supply lost, surges and VBAT (chapter 3, R72, R77, R78, R80 to R82, R85, R470).
-/

namespace Sys2Proof.Laws

open Sys2Proof.Machine Sys2Proof.Safety

/-- The hold-up capacitor is spent: every driver and permit is off, and the role session with what is volatile is gone (R85, Table 3-4). -/
theorem dropOut_monument (steps : Nat) (s : State) : let t := dropOut steps s
    t.power.supply = (if s.power.reversed then .reversed else .off) ∧ t.modes.mode = .monument ∧ t.sw.permit = 0 ∧
      (∀ d, (drv t d).cmd = false) ∧ t.roles.role = 0 ∧ t.power.vauxLost = true :=
  ⟨rfl, rfl, rfl, (driversDead_driversOff _).of_sw rfl, rfl, rfl⟩

/-- Settles O28: a reversed VAUX runs the shutdown sequence that runs after a warning, unless one runs already. -/
theorem supplyLostIsMonument : Obligations.SupplyLostIsMonument := by
  unfold Obligations.SupplyLostIsMonument
  refine ⟨?drops, ?reverses, ?reversing, ?unpowered⟩
  case drops => exact fun k s on warned => ⟨dropOut k s, if_pos ⟨on, warned⟩, dropOut_monument k s⟩
  case reverses =>
    intro s on quiet
    have runs : execVauxReversed s = .next (updPower (fun p => { p with reversed := true, returned := false }) (powerFail 0 s)) := by
      simp [execVauxReversed, on, quiet]
    obtain ⟨supply, pfw, -, step⟩ := powerFail_power 0 s
    have permit := powerFail_permit 0 s
    generalize powerFail 0 s = t at *
    exact ⟨_, runs, supply.trans on, rfl, pfw, step, permit⟩
  case reversing =>
    intro s on warned
    show execVauxReversed s = _
    simp [execVauxReversed, on, warned, updPower]
  case unpowered =>
    intro s off
    show execVauxReversed s = _
    simp [execVauxReversed, off, updPower]

/-! What a change of a load channel's state changes. -/

theorem chn_updCh_self {c : Nat} (inside : c < 16) (f : Chan → Chan) (s : State) : chn (updCh c f s) c = f (chn s c) :=
  vget_vmod_self _ _ _ inside

theorem chn_updCh_of_ne {c d : Nat} (other : d ≠ c) (f : Chan → Chan) (s : State) : chn (updCh c f s) d = chn s d :=
  vget_vmod_of_ne _ _ _ other

@[simp] theorem chn_updBank (k : Nat) (f : Bank → Bank) (s : State) (c : Nat) : chn (updBank k f s) c = chn s c := rfl

@[simp] theorem chn_releaseOpt (id : Option Nat) (s : State) (c : Nat) : chn (releaseOpt id s) c = chn s c := by
  cases id <;> rfl

@[simp] theorem chn_emit (code : Nat) (payload : List Byte) (ack : Bool) (s : State) (c : Nat) : chn (emit code payload ack s) c = chn s c := by
  rw [chn, show (emit code payload ack s).loads = s.loads from Part.kept (p := .loads) (by simp [emit_only, OnlyChanges.refl]), chn]

@[simp] theorem chn_event (code : Nat) (payload : List Byte) (s : State) (c : Nat) : chn (event code payload s) c = chn s c :=
  chn_emit code payload false s c

theorem chTo_state {c : Nat} (inside : c < 16) (new : Nat) (s : State) : (chn (chTo c new s) c).state = new := by
  unfold chTo
  dsimp only
  split
  case isTrue same => exact same
  case isFalse => split <;> split <;> split <;> simp [chn_updCh_self inside]

theorem chTo_of_ne {c d : Nat} (other : d ≠ c) (new : Nat) (s : State) : chn (chTo c new s) d = chn s d := by
  unfold chTo
  dsimp only
  split
  case isTrue => rfl
  case isFalse => split <;> split <;> split <;> simp [chn_updCh_of_ne other]

theorem updCh_state {f : Chan → Chan} (kept : ∀ x, (f x).state = x.state) (d : Nat) (s : State) (c : Nat) :
    (chn (updCh d f s) c).state = (chn s c).state := by
  by_cases same : c = d
  case neg => rw [chn_updCh_of_ne same]
  case pos =>
    subst same
    by_cases inside : c < 16
    · rw [chn_updCh_self inside, kept]
    · simp [chn, updCh, vmod, inside]

/-! A surge holds the channels that are on or wait for leave (R77). -/

/-- What every operation of a run over a list keeps and one of them establishes holds after the run. -/
theorem foldl_establishes {α : Type} {f : State → α → State} {P : State → Prop} {l : List α} {x : α} (mem : x ∈ l)
    (makes : ∀ s, P (f s x)) (keeps : ∀ s y, P s → P (f s y)) (s : State) : P (l.foldl f s) := by
  have kept (l : List α) (s : State) (h : P s) : P (l.foldl f s) := by
    induction l generalizing s with
    | nil => exact h
    | cons y l ih => exact ih _ (keeps s y h)
  obtain ⟨before, after, rfl⟩ := List.append_of_mem mem
  rw [List.foldl_append, List.foldl_cons]
  exact kept after _ (makes _)

/-- Channel c neither waits for leave nor is on. -/
def Quiet (c : Nat) (s : State) : Prop := (chn s c).state ≠ 1 ∧ (chn s c).state ≠ 2 ∧ (chn s c).state ≠ 3

/-- A channel as its bank is held. -/
def holdChannel (s : State) (c : Nat) : State :=
  if (chn s c).state = 1 ∨ (chn s c).state = 2 ∨ (chn s c).state = 3 then
    chTo c 6 (updCh c (fun y => { y with fault := 4, retryAt := none }) s)
  else s

theorem holdBank_eq (k : Nat) (s : State) :
    holdBank k s = (bankChannels k).foldl holdChannel (updBank k (fun b => { b with queue := [] }) s) := rfl

theorem holdChannel_quiet {c : Nat} (inside : c < 16) (s : State) : Quiet c (holdChannel s c) := by
  unfold holdChannel
  split
  · simp [Quiet, chTo_state inside]
  · next off => simpa [Quiet, not_or] using off

theorem holdChannel_keeps {c : Nat} (s : State) (d : Nat) (quiet : Quiet c s) : Quiet c (holdChannel s d) := by
  by_cases same : c = d
  · subst same
    obtain ⟨waits, inrush, on⟩ := quiet
    simpa [holdChannel, waits, inrush, on] using ⟨waits, inrush, on⟩
  · unfold holdChannel
    split
    · simpa [Quiet, chTo_of_ne same, chn_updCh_of_ne same] using quiet
    · exact quiet

theorem holdBank_keeps {c : Nat} (s : State) (k : Nat) (quiet : Quiet c s) : Quiet c (holdBank k s) := by
  rw [holdBank_eq]
  induction bankChannels k using List.reverseRecOn with
  | nil => exact quiet
  | append_singleton l d ih =>
    rw [List.foldl_append]
    exact holdChannel_keeps _ d ih

theorem holdBank_quiet {c : Nat} (inside : c < 16) (s : State) : Quiet c (holdBank (c / 4) s) := by
  have mem : c ∈ bankChannels (c / 4) := List.mem_map.mpr ⟨c % 4, List.mem_range.mpr (Nat.mod_lt _ (by decide)), Nat.mod_add_div c 4⟩
  rw [holdBank_eq]
  exact foldl_establishes (P := Quiet c) mem (holdChannel_quiet inside) holdChannel_keeps _

theorem surge_quiet {c : Nat} (inside : c < 16) (s : State) : Quiet c ((List.range 4).foldl (fun s k => holdBank k s) s) :=
  foldl_establishes (f := fun s k => holdBank k s) (P := Quiet c) (x := c / 4) (List.mem_range.mpr (by omega)) (holdBank_quiet inside)
    holdBank_keeps s

/-! The end of a surge asks leave for the channels that it held (R77). -/

theorem requestLoad_state (d : Nat) (s : State) (c : Nat) : (chn (requestLoad d s) c).state = (chn s c).state := by
  unfold requestLoad
  dsimp only
  refine Eq.trans (updCh_state ?_ d _ c) rfl
  exact fun _ => rfl

theorem serveBank_state (k : Nat) (s : State) (c : Nat) : (chn (serveBank k s) c).state = (chn s c).state := by
  unfold serveBank
  split
  · rfl
  · split
    · rfl
    · exact requestLoad_state _ _ c

theorem joinQueue_of_ne {c d : Nat} (other : c ≠ d) (auto : Bool) (s : State) : (chn (joinQueue d auto s) c).state = (chn s c).state := by
  unfold joinQueue
  dsimp only
  rw [serveBank_state, chn_updBank, chTo_of_ne other, chn_updCh_of_ne other]

/-- A channel as its bank is released. -/
def releaseChannel (s : State) (c : Nat) : State :=
  if (chn s c).state = 6 ∧ !(chn s c).isolated then (if (chn s c).cmd then joinQueue c true s else chTo c 0 s) else s

theorem releaseChannel_state {c : Nat} (s : State) (d : Nat) (free : (chn s c).state ≠ 6) :
    (chn (releaseChannel s d) c).state = (chn s c).state := by
  by_cases same : c = d
  · subst same
    simp [releaseChannel, free]
  · unfold releaseChannel
    split
    · split
      · exact joinQueue_of_ne same true s
      · rw [chTo_of_ne same]
    · rfl

theorem releaseBank_state {c : Nat} (s : State) (k : Nat) (free : (chn s c).state ≠ 6) :
    (chn (releaseBank k s) c).state = (chn s c).state := by
  unfold releaseBank
  split
  · rfl
  · show (chn ((bankChannels k).foldl releaseChannel s) c).state = _
    induction bankChannels k using List.reverseRecOn with
    | nil => rfl
    | append_singleton l d ih =>
      rw [List.foldl_append]
      exact (releaseChannel_state _ d (by rw [ih]; exact free)).trans ih

theorem surgeEnd_state {c : Nat} (s : State) (free : (chn s c).state ≠ 6) :
    (chn ((List.range 4).foldl (fun s k => releaseBank k s) s) c).state = (chn s c).state := by
  induction List.range 4 using List.reverseRecOn with
  | nil => rfl
  | append_singleton l k ih =>
    rw [List.foldl_append]
    exact (releaseBank_state _ k (by rw [ih]; exact free)).trans ih

@[simp] theorem holdBank_power (k : Nat) (s : State) : (holdBank k s).power = s.power :=
  Part.kept (p := .power) (by simp [holdBank_only, OnlyChanges.refl])

@[simp] theorem releaseBank_power (k : Nat) (s : State) : (releaseBank k s).power = s.power :=
  Part.kept (p := .power) (by simp [releaseBank_only, OnlyChanges.refl])

theorem execVbatCheck_due {s : State} (run : s.running = true) (due : s.power.vbatCheckAt + 72000000 ≤ s.clock.tick) (mv : Nat) :
    execVbatCheck mv s = .next (vbatMeasured mv s) :=
  if_pos ⟨run, due⟩

/-- Settles O29: channel by channel for a surge, and case by case for a measurement. -/
theorem surgeAndVbat : Obligations.SurgeAndVbat := by
  unfold Obligations.SurgeAndVbat
  refine ⟨?begins, ?ends, ?measured, ?low, ?lowAgain, ?retention, ?hold⟩
  case begins =>
    intro s on calm
    have runs : execVauxSurgeOn s = .next (surgeEvent true 0 ((List.range 4).foldl (fun s k => holdBank k s)
        (updPower (fun p => { p with surge := true, surgeAt := s.now }) s))) := by simp [execVauxSurgeOn, on, calm]
    refine ⟨_, runs, ?_, ?_, fun c inside => ?_⟩
    · rw [surgeEvent, event_power, foldl_kept State.power (fun s k => holdBank_power k s)]
      rfl
    · rw [surgeEvent, event_power, foldl_kept State.power (fun s k => holdBank_power k s)]
      rfl
    · rw [surgeEvent, chn_event]
      exact surge_quiet inside _
  case ends =>
    intro s on surge
    have runs : execVauxSurgeOff s = .next (surgeEvent false ((s.now - s.power.surgeAt) / 20) ((List.range 4).foldl (fun s k => releaseBank k s)
        (updPower (fun p => { p with surge := false }) s))) := by simp [execVauxSurgeOff, on, surge]
    refine ⟨_, runs, ?_, fun c _ free _ => ?_⟩
    · rw [surgeEvent, event_power, foldl_kept State.power (fun s k => releaseBank_power k s)]
      rfl
    · rw [surgeEvent, chn_event]
      exact surgeEnd_state _ free
  case measured =>
    intro mv s run due enough
    have fine : ¬ mv < 2200 := Nat.not_lt.mpr enough
    refine (execVbatCheck_due run due mv).trans (congrArg _ ?_)
    simp [vbatMeasured, State.now, fine]
  case low =>
    intro mv s run due low fresh
    refine (execVbatCheck_due run due mv).trans (congrArg _ ?_)
    simp [vbatMeasured, State.now, State.stamp, low, fresh]
  case lowAgain =>
    intro mv s run due low known recent
    have early : ¬ s.power.vbatLowAt + secF 86400 ≤ s.clock.tick := Nat.not_le.mpr recent
    refine (execVbatCheck_due run due mv).trans (congrArg _ ?_)
    simp [vbatMeasured, State.now, low, known, early]
  case retention => exact fun s off => if_neg off
  case hold => exact fun vaux hold s run due => if_pos ⟨run, due⟩

end Sys2Proof.Laws

/-!
PROOF. A reset takes effect (chapter 3, Table 3-4, R89, R99).
-/

namespace Sys2Proof.Laws

open Sys2Proof.Machine Sys2Proof.Safety

/-! What a CORE reset leaves (R99). -/

@[simp] theorem driverOff_seqs (d : Nat) (s : State) : (driverOff d s).sw.seqs = s.sw.seqs := by
  show (releaseOpt (drv s d).req s).sw.seqs = s.sw.seqs
  rw [releaseOpt_sw]

theorem abandonQueued_seqs (s : State) : (abandonQueued s).sw.seqs = s.sw.seqs := by
  unfold abandonQueued
  dsimp only
  rw [foldl_kept (fun s => s.sw.seqs) fun s (j : BusJob) => driverOff_seqs j.driver s]

theorem abandonQueued_permit (s : State) : (abandonQueued s).sw.permit = s.sw.permit := by
  unfold abandonQueued
  dsimp only
  rw [foldl_kept (fun s => s.sw.permit) fun s (j : BusJob) => driverOff_permit j.driver s]

theorem abandonQueued_sessions (s : State) : (abandonQueued s).billing.sessions = s.billing.sessions := by
  have off (d : Nat) (s : State) : (driverOff d s).billing = s.billing := Part.kept (p := .billing) (by simp [driverOff_only, OnlyChanges.refl])
  unfold abandonQueued
  dsimp only
  rw [foldl_kept (fun s => s.billing) fun s (j : BusJob) => off j.driver s]

/-- What a CORE reset does before it abandons what is queued. -/
theorem coreBegun_only (s : State) :
    OnlyChanges [.modes, .ease, .store, .loads, .disp] s (displayCoreReset (loadsCoreReset (dropActivation s))) :=
  displayCoreReset_only (by decide) (by decide) (loadsCoreReset_only (by decide) (by decide)
    (dropActivation_only (by decide) (by decide) (by decide) (.refl _ s)))

theorem clearCore_runs (s : State) : let t := clearCore s
    t.billing.sessions = s.billing.sessions ∧ t.energy = s.energy ∧ t.sw.seqs = s.sw.seqs ∧ t.sw.permit = s.sw.permit := by
  have energy : (clearCore s).energy = s.energy := Part.kept (p := .energy) (by simp [clearCore_only, OnlyChanges.refl])
  have sw := coreBegun_only s .sw (by decide)
  have billing := coreBegun_only s .billing (by decide)
  refine ⟨?_, energy, ?_⟩ <;> unfold clearCore <;> generalize displayCoreReset (loadsCoreReset (dropActivation s)) = t at *
  · exact (abandonQueued_sessions t).trans (congrArg Billing.sessions billing)
  · exact ⟨(abandonQueued_seqs t).trans (congrArg Switch.seqs sw), (abandonQueued_permit t).trans (congrArg Switch.permit sw)⟩

/-! What a wider reset finds of the leave's settings (R144). -/

theorem Due.put_ease (d : Due) {s t : State} (same : s.ease = t.ease) : (d.put s).ease = (d.put t).ease := by
  unfold Due.put
  split
  · next c _ => cases c <;> simp [Cfg.put, same]
  · exact same

theorem foldl_put_ease (l : List Due) {s t : State} (same : s.ease = t.ease) :
    (l.foldl (fun s d => d.put s) s).ease = (l.foldl (fun s d => d.put s) t).ease := by
  induction l generalizing s t with
  | nil => exact same
  | cons d l ih => exact ih (Due.put_ease d same)

@[simp] theorem event_due (code : Nat) (payload : List Byte) (s : State) : (event code payload s).port.due = s.port.due := by
  have pushed (e : Event) (p : Port) : (pushPlain e p).due = p.due := by
    unfold pushPlain
    split <;> rfl
  unfold event emit
  dsimp only
  split
  · rw [journalApp_port]
    rfl
  · split <;> exact pushed _ _

theorem closeChip_due (cut : Bool) (w : Merge) (s : State) : (closeChip cut w s).port.due = s.port.due := by
  unfold closeChip
  split
  · rfl
  · rw [event_due, journalApp_port]

theorem keepDue_closeAll_ease (s : State) : (keepDue (closeAll s)).ease = (settled s).ease := by
  have due : (closeAll s).port.due = s.port.due := foldl_kept (·.port.due) (fun s w => closeChip_due true w s) _ _
  have ease : (closeAll s).ease = s.ease := Part.kept (p := .ease) (by simp [closeAll_only, OnlyChanges.refl])
  unfold keepDue settled
  rw [due]
  exact foldl_put_ease _ ease

theorem storageReset_budget (s : State) : (storageReset s).ease.vauxBudget = s.ease.vauxBudget := by
  have released (id : Option Nat) (s : State) : (releaseOpt id s).ease.vauxBudget = s.ease.vauxBudget := by
    cases id <;> rfl
  unfold storageReset
  dsimp only
  split
  · exact foldl_kept (fun s => s.ease.vauxBudget) (fun s (e : Erase) => released e.req s) _ s
  · rfl

theorem clearSystem_budget (s : State) : (clearSystem s).ease.vauxBudget = (keepDue s).ease.vauxBudget :=
  storageReset_budget (keepDue s)

/-! What a wider reset clears (Table 3-4). -/

/-- What both of the wider resets clear. -/
structure Cleared (s : State) : Prop where
  requests : s.ease.requests = []
  charges : s.ease.charges = []
  channels : ∀ c, c < 16 → (chn s c).state = 0 ∧ (chn s c).cmd = false
  bench : s.modes.benchPending = false
  permit : s.sw.permit = 0

theorem clearSystem_cleared (s : State) : Cleared (clearSystem s) where
  requests := rfl
  charges := rfl
  channels c inside := by simp [clearSystem, clearRegions, chn, vget, inside]
  bench := rfl
  permit := rfl

theorem clearPowerOn_cleared (s : State) : Cleared (clearPowerOn s) where
  requests := rfl
  charges := rfl
  channels := (clearSystem_cleared s).channels
  bench := rfl
  permit := rfl

/-- What a reset of whatever reach ends: the role session, and the commands and settings of the host port (R89, R131). -/
structure PortCleared (s : State) : Prop where
  role : s.roles.role = 0
  challenge : s.roles.challenge = none
  replies : s.port.replies = []
  kept : s.port.kept = []
  quad : s.port.quad = false
  baud : s.port.baud = 0

/-- What the reset of reach r clears. -/
def clearReach (r : Nat) (s : State) : State :=
  if r = 0 then clearCore s else if r = 1 then clearSystem (closeAll s) else clearPowerOn (closeAll s)

theorem clearReach_port (r : Nat) (s : State) : PortCleared (clearReach r s) := by
  unfold clearReach
  split
  · exact ⟨rfl, rfl, rfl, rfl, rfl, rfl⟩
  split <;> exact ⟨rfl, rfl, rfl, rfl, rfl, rfl⟩

theorem clearReach_cleared {r : Nat} (wide : r ≠ 0) (s : State) : Cleared (clearReach r s) := by
  simp only [clearReach, wide, if_false]
  split
  · exact clearSystem_cleared _
  · exact clearPowerOn_cleared _

theorem clearReach_budget {r : Nat} (wide : r ≠ 0) (s : State) : (clearReach r s).ease.vauxBudget = (settled s).ease.vauxBudget := by
  have system : (clearSystem (closeAll s)).ease.vauxBudget = (settled s).ease.vauxBudget := by
    rw [clearSystem_budget, keepDue_closeAll_ease]
  simp only [clearReach, wide, if_false]
  split <;> exact system

theorem clearSystem_masked (s : State) : (clearSystem (closeAll s)).rst.masked = s.rst.masked := by
  have found : (displaySystemReset (storageReset (keepDue (closeAll s)))).rst = s.rst := by
    have o := displaySystemReset_only (l_ := Part.except .rst) (by decide) (by decide) (storageReset_only (by decide) (by decide) (by decide)
      (keepDue_only (by decide) (by decide) (by decide) (by decide) (by decide) (by decide) (by decide) (by decide) (by decide) (by decide)
        (by decide) (by decide) (by decide) (closeAll_only (by decide) (by decide) (by decide) (.refl _ s))))
    exact Part.kept o
  unfold clearSystem
  generalize displaySystemReset (storageReset (keepDue (closeAll s))) = t at *
  exact (congrArg Reset.masked found :)

theorem releaseAll_debugRun (p : Nat → Bool) (s : State) : (releaseAll p s).rst.debugRun = s.rst.debugRun := by
  have released (x : Nat) (s : State) : (releaseSource x s).rst.debugRun = s.rst.debugRun := by
    unfold releaseSource
    split
    · rfl
    · split <;> rfl
  exact foldl_kept (·.rst.debugRun) (fun s x => released x s) _ s

/-! The reset itself. -/

/-- Where the boot begins for a reset of reach r. -/
def heldAfter (r : Nat) : BootPhase := .held (if r = 0 then 5 else if r = 1 then 1 else 0)

theorem takeEffect_eq (s : State) : takeEffect s = updRst (fun r => { r with phase := heldAfter s.rst.takes.toNat, takes := 0 })
    (releaseAll (fun x => x != srcResetN && decide (3 ≤ x)) (clearReach s.rst.takes.toNat s)) := rfl

theorem takeEffect_only (s : State) : OnlyChanges [.rst] (clearReach s.rst.takes.toNat s) (takeEffect s) := by
  rw [takeEffect_eq]
  simp [updRst_only, releaseAll_only, OnlyChanges.refl]

theorem takeEffect_rst (s : State) : (takeEffect s).rst.phase = heldAfter s.rst.takes.toNat ∧
    (takeEffect s).rst.masked = (clearReach s.rst.takes.toNat s).rst.masked ∧
    (takeEffect s).rst.debugRun = (clearReach s.rst.takes.toNat s).rst.debugRun := by
  have kept := releaseAll_readings (fun x => x != srcResetN && decide (3 ≤ x)) (clearReach s.rst.takes.toNat s)
  exact ⟨rfl, congrArg (·.2.2.2) kept, releaseAll_debugRun _ _⟩

theorem toNat_ne_zero {r : BitVec 2} (wide : r ≠ 0) : r.toNat ≠ 0 := fun zero => wide (BitVec.eq_of_toNat_eq zero)

/-- Settles O32: what the reset of each reach clears; the release of its sources, which follows, changes the reset controller alone. -/
theorem resetTakesEffect : Obligations.ResetTakesEffect := by
  unfold Obligations.ResetTakesEffect
  intro s on asserted
  have frame := takeEffect_only s
  obtain ⟨phase, masked, debugRun⟩ := takeEffect_rst s
  have runs : exec .resetTakesEffect s = .next (takeEffect s) := if_pos ⟨on, asserted⟩
  have cleared := clearReach_port s.rst.takes.toNat s
  have roles := frame .roles (by decide)
  have port := frame .port (by decide)
  have sw := frame .sw (by decide)
  have energy := frame .energy (by decide)
  have billing := frame .billing (by decide)
  have ease := frame .ease (by decide)
  have loads := frame .loads (by decide)
  have modes := frame .modes (by decide)
  generalize takeEffect s = t at *
  simp only [Part.same] at roles port sw energy billing ease loads modes
  refine ⟨t, runs, ?role, ?challenge, ?replies, ?kept, ?quad, ?baud, ?core, ?system, ?powerOn, ?wide⟩
  case role => rw [roles, cleared.role]
  case challenge => rw [roles, cleared.challenge]
  case replies => rw [port, cleared.replies]
  case kept => rw [port, cleared.kept]
  case quad => rw [port, cleared.quad]
  case baud => rw [port, cleared.baud]
  case core =>
    intro takes
    rw [takes] at phase sw energy billing
    obtain ⟨sessions, volumes, seqs, permit⟩ := clearCore_runs s
    exact ⟨by rw [billing]; exact sessions, phase, energy.trans volumes, by rw [sw]; exact seqs, by rw [sw]; exact permit⟩
  case system =>
    intro takes
    rw [takes] at phase masked
    exact ⟨phase, masked.trans (clearSystem_masked s)⟩
  case powerOn =>
    intro takes
    rw [takes] at phase masked debugRun ease
    exact ⟨phase, masked, debugRun, by rw [ease]; rfl⟩
  case wide =>
    intro wide
    have reach : s.rst.takes.toNat ≠ 0 := toNat_ne_zero wide
    obtain ⟨requests, charges, channels, bench, permit⟩ := clearReach_cleared reach s
    refine ⟨by rw [ease, requests], by rw [ease, charges], fun c inside => ?_, by rw [modes, bench], by rw [sw, permit], ?_⟩
    · have same : chn t c = chn (clearReach s.rst.takes.toNat s) c := by rw [chn, loads, chn]
      rw [same]
      exact channels c inside
    · rw [ease, clearReach_budget reach]

end Sys2Proof.Laws

/-!
PROOF. The mark of a trial image (chapter 14, R447) outlasts the reset that starts it: no journal record and no safe state touches it.
-/

namespace Sys2Proof.Laws

open Sys2Proof.Machine Sys2Proof.Safety

/-- A part other than storage that changes leaves the mark. -/
theorem trial_of_only {s t : State} (o : OnlyChanges (Part.except .store) s t) : t.store.trial = s.store.trial :=
  congrArg Storage.trial (Part.kept o)

/-! Records and slots. -/

@[simp] theorem journalApp_trial (type key n : Nat) (s : State) : (journalApp type key n s).store.trial = s.store.trial := by
  unfold journalApp
  dsimp only
  split <;> rfl

@[simp] theorem journalMet_trial (type key n : Nat) (s : State) : (journalMet type key n s).store.trial = s.store.trial := by
  unfold journalMet
  dsimp only
  split <;> rfl

@[simp] theorem appRetire_trial (hit : JRec → Bool) (s : State) : (appRetire hit s).store.trial = s.store.trial := by
  unfold appRetire
  split
  · rfl
  · rw [foldl_kept (fun s => s.store.trial) fun s (r : JRec) => journalApp_trial retireType r.origin 8 s]

@[simp] theorem metRetire_trial (hit : JRec → Bool) (s : State) : (metRetire hit s).store.trial = s.store.trial := by
  unfold metRetire
  split
  · rfl
  · rw [foldl_kept (fun s => s.store.trial) fun s (r : JRec) => journalMet_trial retireType r.origin 8 s]

@[simp] theorem journalUpdate_trial (slot kind n : Nat) (s : State) : (journalUpdate slot kind n s).store.trial = s.store.trial := by
  simp [journalUpdate, journalNew]

@[simp] theorem writeSlot_trial (c : Slot) (s : State) : (writeSlot c s).store.trial = s.store.trial := by
  simp [writeSlot, boundaryRetire]

@[simp] theorem finalSave_trial (s : State) : (finalSave s).store.trial = s.store.trial := by
  simp only [finalSave, writeSlot_trial, finishSave]
  split
  · exact writeSlot_trial _ s
  · rfl

@[simp] theorem emit_trial (code : Nat) (payload : List Byte) (ack : Bool) (s : State) :
    (emit code payload ack s).store.trial = s.store.trial := by
  unfold emit
  dsimp only
  split
  · exact journalApp_trial _ _ _ _
  · split <;> rfl

@[simp] theorem event_trial (code : Nat) (payload : List Byte) (s : State) : (event code payload s).store.trial = s.store.trial :=
  emit_trial code payload false s

/-! The safe states of the outputs (R20, R89). -/

@[simp] theorem releaseOpt_trial (id : Option Nat) (s : State) : (releaseOpt id s).store.trial = s.store.trial := by
  cases id <;> rfl

@[simp] theorem driverOff_trial (d : Nat) (s : State) : (driverOff d s).store.trial = s.store.trial :=
  trial_of_only (by simp [driverOff_only, OnlyChanges.refl])

theorem chTo_trial (c new : Nat) (s : State) : (chTo c new s).store.trial = s.store.trial := by
  unfold chTo
  dsimp only
  split
  case isTrue => rfl
  case isFalse => split <;> split <;> split <;> simp [updCh, updBank]

theorem channelsOff_trial (cs : List Nat) (s : State) : (channelsOff cs s).store.trial = s.store.trial := by
  refine foldl_kept (fun s => s.store.trial) (fun s c => ?_) cs s
  dsimp only
  split
  · rfl
  · exact chTo_trial c 0 _

theorem endJob_trial (j : BusJob) (s : State) : (endJob j s).store.trial = s.store.trial := by
  unfold endJob
  dsimp only
  split
  · exact emit_trial _ _ _ _
  · rfl

theorem dropJobs_trial (n : Nat) (s : State) : (dropJobs n s).store.trial = s.store.trial := by
  have dropped (s : State) (j : BusJob) : (if j.join then driverOff j.driver s else s).store.trial = s.store.trial := by
    split
    · exact driverOff_trial _ s
    · rfl
  unfold dropJobs
  dsimp only
  rw [foldl_kept (fun s => s.store.trial) fun s j => endJob_trial j s, foldl_kept (fun s => s.store.trial) dropped]

theorem seqTo_trial (n new : Nat) (s : State) : (seqTo n new s).store.trial = s.store.trial := by
  unfold seqTo
  dsimp only
  split
  · rfl
  · exact event_trial _ _ _

theorem safeSeq_trial (s : State) (n : Nat) : (safeSeq s n).store.trial = s.store.trial := by
  have off : (modulesOff n (dropJobs n s)).store.trial = s.store.trial := dropJobs_trial n s
  unfold safeSeq
  dsimp only
  split
  · exact (seqTo_trial n 7 _).trans off
  · exact off

theorem lightSafe_trial (s : State) : (lightSafe s).store.trial = s.store.trial := by
  unfold lightSafe
  split
  · exact event_trial _ _ _
  · rfl

theorem outputsSafe_trial (s : State) : (outputsSafe s).store.trial = s.store.trial := by
  have armed (s : State) : (dropPullIn (List.range 24) (armHwOff (List.range 24) s)).store.trial = s.store.trial :=
    trial_of_only (by simp [dropPullIn_only, armHwOff_only, OnlyChanges.refl])
  have pulses (s : State) : (releasePulses s).store.trial = s.store.trial := rfl
  have pilots (s : State) : (pilotsSafe s).store.trial = s.store.trial := rfl
  unfold outputsSafe
  dsimp only
  rw [pulses, lightSafe_trial, pilots, channelsOff_trial, foldl_kept (fun s => s.store.trial) safeSeq_trial, armed]

/-! The reset's sources. -/

theorem assertSave_trial (s : State) : (assertSave s).store.trial = s.store.trial := by
  have cut : (pipelineCut s).store.trial = s.store.trial := trial_of_only (by simp [pipelineCut_only, OnlyChanges.refl])
  unfold assertSave
  split
  · rfl
  · exact (finalSave_trial _).trans cut

theorem systemAssert_trial (ran : Bool) (s : State) : (systemAssert ran s).store.trial = s.store.trial := by
  have released (f : Reset → Reset) (s : State) : (sitePadsOff (updRst f s)).store.trial = s.store.trial :=
    trial_of_only (by simp [sitePadsOff_only, updRst_only, OnlyChanges.refl])
  unfold systemAssert
  dsimp only
  split
  · rw [assertSave_trial, released, outputsSafe_trial]
  · rw [released, outputsSafe_trial]

theorem trial_outlasts : OutlastsSources (fun s => s.store.trial = true) where
  elsewhere o h := (congrArg Storage.trial (o .store (by decide))).trans h
  core h := (trial_of_only (coreAssert_only (by decide) (by decide) (by decide) (.refl _ _))).trans h
  system ran _ h := (systemAssert_trial ran _).trans h

end Sys2Proof.Laws

/-!
PROOF. The commands that change the mode (chapter 3, R107, R110, R113, R115; chapter 6, R217), and the image commands (chapter 14, R447, R449,
R451), which leave it.
-/

namespace Sys2Proof.Laws

open Sys2Proof.Machine Sys2Proof.Safety

/-- A command accepted in its plain form whose checks have all been made answers its status and data, and leaves its state. -/
theorem hostCommand_done {h : Hdr} {opcode : Nat} {p : List Byte} {cmd : State → Cmd} {s t : State} {status : Status} {data : List Byte}
    (a : Accepted h opcode p s) (e : cmd (touchRole s) = { run := { st := t, status := status, data := data } }) (n : status ≠ .noLeave) :
    hostCommand h opcode p cmd s = answered s h opcode p status data t :=
  hostCommand_checked a e rfl n

/-! MODE_SET (R110, R217). -/

/-- What a command finds of the role, whose session it keeps alive (R147). -/
theorem role_le_touchRole {n : Nat} {s : State} (role : n ≤ s.roles.role) : n ≤ (touchRole s).roles.role := role

theorem modeSetCmd_checked {h : Hdr} {v : BitVec 8} {s : State} (role : 2 ≤ s.roles.role)
    (mode : s.modes.mode = .standby ∨ s.modes.mode = .service ∨ s.modes.mode = .benchmark) (value : v = 1 ∨ v = 3)
    (calm : v = 3 → commPending s = false) :
    modeSetCmd h [v] (touchRole s) = { run := modeSetRun h (v == 3) (touchRole s) } := by
  have role := role_le_touchRole role
  have mode : (s.modes.mode == .standby || s.modes.mode == .service || s.modes.mode == .benchmark) = true := by
    obtain m | m | m := mode <;> simp [m]
  have modes : (touchRole s).modes = s.modes := rfl
  have pending : commPending (touchRole s) = commPending s := rfl
  obtain rfl | rfl := value
  · simp [modeSetCmd, byteAt, role, modes, mode]
  · simp [modeSetCmd, byteAt, role, modes, mode, pending, calm rfl]

theorem execModeSet_accepted {h : Hdr} {v : BitVec 8} {s t : State} {status : Status} (a : Accepted h 0x0153 [v] s) (role : 2 ≤ s.roles.role)
    (mode : s.modes.mode = .standby ∨ s.modes.mode = .service ∨ s.modes.mode = .benchmark) (value : v = 1 ∨ v = 3)
    (calm : v = 3 → commPending s = false) (run : modeSetRun h (v == 3) (touchRole s) = { st := t, status := status })
    (answers : status ≠ .noLeave) : execModeSet h [v] s = .next (answered s h 0x0153 [v] status [] t) := by
  have cmd := modeSetCmd_checked (h := h) role mode value calm
  rw [run] at cmd
  exact congrArg _ (hostCommand_done a cmd answers)

theorem commPending_standby {s : State} (mode : s.modes.mode = .standby) : commPending s = false := by
  simp [commPending, mode]

theorem commPending_calm {s : State} (calm : commCondition s = false) : commPending s = false := by
  simp [commPending, calm]

/-- BENCHMARK from STANDBY, at once. -/
theorem execModeSet_enters {h : Hdr} {s : State} (a : Accepted h 0x0153 [3] s) (role : 2 ≤ s.roles.role) (mode : s.modes.mode = .standby) :
    execModeSet h [3] s = .next (answered s h 0x0153 [3] .ok [] (enterMode .benchmark 6 0 (touchRole s))) := by
  have run : modeSetRun h true (touchRole s) = { st := enterMode .benchmark 6 0 (touchRole s) } := by
    simp only [modeSetRun, show (touchRole s).modes.mode = .standby from mode]
  exact execModeSet_accepted a role (.inl mode) (.inr rfl) (fun _ => commPending_standby mode) run nofun

/-- Back to STANDBY. -/
theorem execModeSet_leaves {h : Hdr} {s : State} (a : Accepted h 0x0153 [1] s) (role : 2 ≤ s.roles.role) (mode : s.modes.mode = .benchmark) :
    execModeSet h [1] s = .next (answered s h 0x0153 [1] .ok [] (enterMode .standby 7 0 (touchRole s))) := by
  have run : modeSetRun h false (touchRole s) = { st := enterMode .standby 7 0 (touchRole s) } := by
    simp [modeSetRun, show (touchRole s).modes.mode = .benchmark from mode]
  exact execModeSet_accepted a role (.inr (.inr mode)) (.inl rfl) nofun run nofun

/-- BENCHMARK from SERVICE, once the sessions have ended. -/
theorem execModeSet_queues {h : Hdr} {s : State} (a : Accepted h 0x0153 [3] s) (role : 2 ≤ s.roles.role) (mode : s.modes.mode = .service)
    (first : s.modes.benchPending = false) (calm : commCondition s = false) :
    execModeSet h [3] s = .next (answered s h 0x0153 [3] .queued [] { touchRole s with modes := { s.modes with
      benchPending := true, benchQueued := some (flagAck h.flags) } }) := by
  have run : modeSetRun h true (touchRole s) = { st := { touchRole s with modes := { s.modes with
      benchPending := true, benchQueued := some (flagAck h.flags) } }, status := .queued } := by
    have modes : (touchRole s).modes = s.modes := rfl
    simp [modeSetRun, modes, mode, first]
  exact execModeSet_accepted a role (.inr (.inl mode)) (.inr rfl) (fun _ => commPending_calm calm) run nofun

theorem clearPulses_acc (s : State) {k : Nat} (inside : k < 4) :
    (vget (clearPulses s).energy.pulses k {}).acc = 0 ∧ (vget (clearPulses s).energy.pulses k {}).pending = 0 := by
  simp [clearPulses, vget, inside]

/-- BENCHMARK begins and ends with the pulse accumulators at 0 (R217). -/
theorem enterMode_pulses {new : Mode} {s : State} (bench : s.modes.mode = .benchmark ∨ new = .benchmark) (input pending : Nat) {k : Nat}
    (inside : k < 4) : (vget (enterMode new input pending s).energy.pulses k {}).acc = 0 ∧
      (vget (enterMode new input pending s).energy.pulses k {}).pending = 0 := by
  have kept (code : Nat) (payload : List Byte) (t : State) : (event code payload t).energy = t.energy :=
    Part.kept (p := .energy) (by simp [event_only, OnlyChanges.refl])
  simp only [enterMode, bench, if_true, kept]
  exact clearPulses_acc _ inside

/-! RECOVERY_ACK and COMMISSIONING_DONE (R113, R115). -/

theorem recoveryAcked_mode (s : State) : (recoveryAcked s).modes.mode = if commCondition s then .commissioning else .standby := by
  have mode : (if commCondition s then enterMode .commissioning 8 s.modes.commInput s else enterMode .standby 8 0 s).modes.mode =
      if commCondition s then .commissioning else .standby := by
    split <;> rw [enterMode_mode]
  unfold recoveryAcked
  dsimp only
  split <;> exact mode

theorem execRecoveryAck_accepted {h : Hdr} {s : State} (a : Accepted h 0x0154 [] s) (role : 1 ≤ s.roles.role) (rom : s.inRom = false)
    (mode : s.modes.mode = .recovery) (none : s.modes.interruptedLeft = 0) :
    execRecoveryAck h [] s = .next (answered s h 0x0154 [] .ok [] (recoveryAcked (touchRole s))) := by
  have role := role_le_touchRole role
  have rom : (touchRole s).inRom = false := rom
  have mode : (touchRole s).modes.mode = .recovery := mode
  have none : (touchRole s).modes.interruptedLeft = 0 := none
  have cmd : recoveryAckCmd [] (touchRole s) = { run := { st := recoveryAcked (touchRole s) } } := by
    simp [recoveryAckCmd, role, rom, mode, none]
  exact congrArg _ (hostCommand_done a cmd nofun)

/-- COMMISSIONING_DONE runs whichever way the condition of R114 stands. -/
theorem execCommissioningDone_accepted {h : Hdr} {s t : State} {status : Status} (a : Accepted h 0x0155 [] s) (role : 2 ≤ s.roles.role)
    (mode : s.modes.mode = .commissioning) (run : (commissioningDoneCmd [] (touchRole s)).run = { st := t, status := status })
    (answers : status ≠ .noLeave) : execCommissioningDone h [] s = .next (answered s h 0x0155 [] status [] t) := by
  have role := role_le_touchRole role
  have mode : (touchRole s).modes.mode = .commissioning := mode
  have cmd : commissioningDoneCmd [] (touchRole s) = { run := (commissioningDoneCmd [] (touchRole s)).run } := by
    simp [commissioningDoneCmd, role, mode]
  rw [run] at cmd
  exact congrArg _ (hostCommand_done a cmd answers)

@[simp] theorem enterMode_rst (new : Mode) (input pending : Nat) (s : State) : (enterMode new input pending s).rst = s.rst :=
  Part.kept (p := .rst) (by simp [enterMode_only, OnlyChanges.refl])

/-- The debug port is locked (R63) and the device leaves COMMISSIONING. -/
def commissioned (s : State) : State := enterMode .standby 9 0 (updRst (fun r => { r with debugLocked := true, debugRun := false }) s)

theorem commissioned_rst (s : State) : (commissioned s).rst = { s.rst with debugLocked := true, debugRun := false } := by
  rw [commissioned, enterMode_rst, updRst_rst]

/-! The staging commands (R451, R453, R456). -/

/-- The staging that UPDATE_START begins with an empty list of nodes. -/
def staged (h : Hdr) (hdr : List Byte) (s : State) : State :=
  beginStaging hdr { byHost := true, ack := flagAck h.flags, origin := trvNode s, entries := [{ node := trvNode s, state := 2 }] } s

theorem execUpdateStart_accepted {h : Hdr} {hdr : List Byte} {s : State} (a : Accepted h 0x0B10 (hdr ++ [0]) s) (role : 2 ≤ s.roles.role)
    (size : hdr.length = 512) (idle : stagingRuns s = false) (active : s.modes.activating = false) (ok : headerOk s hdr = true) :
    execUpdateStart h (hdr ++ [0]) s = .next (answered s h 0x0B10 (hdr ++ [0]) .queued [] (staged h hdr (touchRole s))) := by
  have role := role_le_touchRole role
  have idle : stagingRuns (touchRole s) = false := idle
  have active : (touchRole s).modes.activating = false := active
  have ok : headerOk (touchRole s) hdr = true := ok
  have header : (hdr ++ [0]).take 512 = hdr := List.take_left' size
  have none : (hdr ++ [0]).drop 513 = [] := List.drop_eq_nil_of_le (by simp [size])
  have count : byteAt (hdr ++ [0]) 512 = 0 := by rw [← size]; exact byteAt_last hdr (n := 0) (by decide)
  have cmd : updateStartCmd h (hdr ++ [0]) (touchRole s) =
      { run := { st := staged h hdr (touchRole s), status := .queued } } := by
    simp only [updateStartCmd, header, none, count, ok]
    simp [role, idle, active, size, staged]
  exact congrArg _ (hostCommand_done a cmd nofun)

theorem updateProgressEvent_chain (s : State) : (updateProgressEvent s).chain = { s.chain with reportAt := s.now } := by
  have kept (code : Nat) (payload : List Byte) (t : State) : (event code payload t).chain = t.chain :=
    Part.kept (p := .chain) (by simp [event_only, OnlyChanges.refl])
  exact kept _ _ _

@[simp] theorem updateProgressEvent_modes (s : State) : (updateProgressEvent s).modes = s.modes :=
  Part.kept (p := .modes) (by simp [updateProgressEvent_only, OnlyChanges.refl])

theorem execStagingSlotReady_erased {s : State} (run : s.regionsRun = true) (staging : stagingRuns s = true) (first : s.chain.ready = false)
    (erased : s.chain.erased = 12) : ∃ t, execStagingSlotReady s = .next t ∧ t.modes = s.modes ∧ t.chain.ready = true := by
  have answer (d r f : Nat) (t : State) : OnlyChanges [.trv] t (sendAnswer d r f t) := sendAnswer_only d r f (by decide) (.refl _ t)
  simp only [execStagingSlotReady, run, staging, first, erased, Bool.not_false, Bool.and_self, beq_self_eq_true, if_true]
  refine ⟨_, rfl, ?_⟩
  split
  · exact ⟨updateProgressEvent_modes _, by rw [updateProgressEvent_chain]; rfl⟩
  · have modes (d r f : Nat) (t : State) : (sendAnswer d r f t).modes = t.modes := answer d r f t .modes (by decide)
    have chain (d r f : Nat) (t : State) : (sendAnswer d r f t).chain = t.chain := answer d r f t .chain (by decide)
    rw [modes, chain, updateProgressEvent_chain, updateProgressEvent_modes]
    exact ⟨rfl, rfl⟩

theorem byteAt_append_left {p : List Byte} {i : Nat} (inside : i < p.length) (q : List Byte) : byteAt (p ++ q) i = byteAt p i := by
  simp [byteAt, List.getElem?_append_left inside]

/-- Whether the tag of a half block holds is the slot's alone. -/
theorem stageHalf_ok (k half : Nat) (data tag : List Byte) (s : State) : (stageHalf k half data tag s).2 =
    (holdsBlock s.store.stagingSlot k || (putHalf s k half data tag s.store.stagingSlot).2) := by
  unfold stageHalf
  split <;> simp [*]

theorem stageHalf_touchRole (k half : Nat) (data tag : List Byte) (s : State) :
    (stageHalf k half data tag (touchRole s)).2 = (stageHalf k half data tag s).2 := by
  rw [stageHalf_ok, stageHalf_ok]
  rfl

theorem execUpdateData_accepted {h : Hdr} {k half : Nat} {data tag : List Byte} {s : State}
    (a : Accepted h 0x0B11 (le 4 k ++ le 1 half ++ data ++ tag) s) (role : 2 ≤ s.roles.role) (known : half ≤ 1) (size : data.length = 2048)
    (tagged : tag.length = 16 * half) (staging : stagingRuns s = true) (ready : s.chain.ready = true) (host : s.chain.byHost = true)
    (inside : k < stagedBlocks s) (small : k < 2 ^ 32) (ok : (stageHalf k half data tag s).2 = true) :
    execUpdateData h (le 4 k ++ le 1 half ++ data ++ tag) s = .next (answered s h 0x0B11 (le 4 k ++ le 1 half ++ data ++ tag) .ok []
      (forward16 (stageHalf k half data tag (touchRole s)).1)) := by
  have role := role_le_touchRole role
  have staging : stagingRuns (touchRole s) = true := staging
  have ready : (touchRole s).chain.ready = true := ready
  have host : isOrigin (touchRole s) = true := host
  have inside : k < stagedBlocks (touchRole s) := inside
  have ok : (stageHalf k half data tag (touchRole s)).2 = true := (stageHalf_touchRole ..).trans ok
  have payload : le 4 k ++ le 1 half ++ data ++ tag = le 4 k ++ (le 1 half ++ data ++ tag) := by simp
  have block : numAt (le 4 k ++ le 1 half ++ data ++ tag) 0 4 = k := payload ▸ numAt_le 4 k _ small
  have which : byteAt (le 4 k ++ le 1 half ++ data ++ tag) 4 = half := by
    rw [byteAt_append_left (by simp [le_length]), byteAt_append_left (by simp [le_length])]
    exact byteAt_last (le 4 k) (by omega)
  have bytes : ((le 4 k ++ le 1 half ++ data ++ tag).drop 5).take 2048 = data := by
    rw [List.append_assoc _ data tag, List.drop_left' (by simp [le_length]), List.take_left' size]
  have mac : (le 4 k ++ le 1 half ++ data ++ tag).drop 2053 = tag := List.drop_left' (by simp [le_length, size])
  have length : (le 4 k ++ le 1 half ++ data ++ tag).length = if half = 0 then 2053 else 2069 := by
    simp only [List.length_append, le_length, size, tagged]
    split <;> omega
  have cmd : updateDataCmd (le 4 k ++ le 1 half ++ data ++ tag) (touchRole s) =
      { run := { st := forward16 (stageHalf k half data tag (touchRole s)).1 } } := by
    simp only [updateDataCmd, block, which, bytes, mac, length, ok]
    simp [role, known, staging, ready, host, inside]
  exact congrArg _ (hostCommand_done a cmd nofun)

theorem stageHalf_forward_modes (k half : Nat) (data tag : List Byte) (s : State) :
    (forward16 (stageHalf k half data tag s).1).modes = s.modes :=
  forward16_only (l_ := Part.except .modes) (by decide) (by decide)
    (stageHalf_only k half data tag (by decide) (by decide) (by decide) (by decide) (.refl _ s)) .modes (by decide)

/-- UPDATE_ABORT ends the staging and tells the nodes of its chain (R456). -/
def aborted (s : State) : State :=
  emptyStaging (stagingDone 1 (if isOrigin s then s.chain.list.foldl (fun s n => chainSend n 6 [] s) s else s))

theorem execUpdateAbort_accepted {h : Hdr} {s : State} (a : Accepted h 0x0B12 [] s) (role : 2 ≤ s.roles.role)
    (staging : stagingRuns s = true) : execUpdateAbort h [] s = .next (answered s h 0x0B12 [] .ok [] (aborted (touchRole s))) := by
  have role := role_le_touchRole role
  have staging : stagingRuns (touchRole s) = true := staging
  have cmd : updateAbortCmd [] (touchRole s) = { run := { st := aborted (touchRole s) } } := by
    simp [updateAbortCmd, role, staging, aborted]
  exact congrArg _ (hostCommand_done a cmd nofun)

theorem aborted_modes (s : State) : (aborted s).modes = s.modes := by
  have told : OnlyChanges (Part.except .modes) s (if isOrigin s then s.chain.list.foldl (fun s n => chainSend n 6 [] s) s else s) :=
    .ite (.foldl (.refl _ s) fun _ n o => chainSend_only n 6 [] (by decide) o) (.refl _ s)
  exact emptyStaging_only (by decide) (by decide) (by decide) (stagingDone_only 1 (by decide) (by decide) told) .modes (by decide)

theorem emptyStaging_staging (s : State) : (emptyStaging s).chain.staging = 0 := by
  have kept (t : State) : (journalUpdate 2 0 8 t).chain = t.chain := Part.kept (p := .chain) (by simp [journalUpdate_only, OnlyChanges.refl])
  unfold emptyStaging
  dsimp only
  rw [kept]

/-! The image commands (R447, R449). -/

/-- The copy of the staging slot begins, its erase first. -/
def activating (h : Hdr) (s : State) : State :=
  askGroup 1 (otherSlot s) 0 (updStore (fun t => { t with activateAck := flagAck h.flags, activateErased := 0 })
    { s with modes := { s.modes with activating := true } })

theorem activating_modes (h : Hdr) (s : State) : (activating h s).modes = { s.modes with activating := true } := by
  have kept (what part k : Nat) (t : State) : (askGroup what part k t).modes = t.modes :=
    Part.kept (p := .modes) (by simp [askGroup_only, OnlyChanges.refl])
  exact kept _ _ _ _

theorem execImageActivate_accepted {h : Hdr} {s : State} (a : Accepted h 0x0B13 [] s) (role : 2 ≤ s.roles.role)
    (mode : standbyOrComm s = true) (idle : s.modes.activating = false) (whole : s.chain.staging = 2)
    (complete : s.store.stagingSlot.complete = true) (confirmed : trialRuns s = false) :
    execImageActivate h [] s = .next (answered s h 0x0B13 [] .queued [] (activating h (touchRole s))) := by
  have role := role_le_touchRole role
  have mode : standbyOrComm (touchRole s) = true := mode
  have idle : (touchRole s).modes.activating = false := idle
  have whole : (touchRole s).chain.staging = 2 := whole
  have complete : (touchRole s).store.stagingSlot.complete = true := complete
  have confirmed : trialRuns (touchRole s) = false := confirmed
  have cmd : imageActivateCmd h [] (touchRole s) =
      { run := { st := activating h (touchRole s), status := .queued } } := by
    simp only [imageActivateCmd, whole, complete, confirmed]
    simp [role, mode, idle, activating]
  exact congrArg _ (hostCommand_done a cmd nofun)

theorem commitTrial_trial (s : State) : (commitTrial s).store.trial = true := by
  unfold commitTrial
  dsimp only
  rw [journalUpdate_trial]
  rfl

@[simp] theorem journalUpdate_modes (slot kind n : Nat) (s : State) : (journalUpdate slot kind n s).modes = s.modes :=
  Part.kept (p := .modes) (by simp [journalUpdate_only, OnlyChanges.refl])

theorem commitTrial_modes (s : State) : (commitTrial s).modes = { s.modes with activating := false } :=
  journalUpdate_modes _ _ _ _

/-- The boot record names the copied slot as trial, and the reset that follows keeps it (R447). -/
theorem execActivationCopyDone_ok {s : State} (active : s.modes.activating = true) (erased : 12 ≤ s.store.activateErased)
    (run : s.running = true) (up : s.shutting = false) :
    execActivationCopyDone true s = .next (assertSource srcCmdSystem (commitTrial s)) := by
  have erased : ¬ s.store.activateErased < 12 := Nat.not_lt.mpr erased
  simp [execActivationCopyDone, active, erased, run, up]

theorem confirmImage_run {s : State} (trial : trialRuns s = true) :
    ∃ t, (confirmImageCmd [] s).run = { st := t } ∧ t.modes = s.modes ∧ t.store.trial = false := by
  simp only [confirmImageCmd, trial, Bool.not_true, Bool.false_eq_true, if_false]
  refine ⟨_, rfl, ?_, ?_⟩
  · simp only [event_modes, journalUpdate_modes]
    rfl
  · simp only [event_trial, journalUpdate_trial]
    rfl

/-- The trial image is confirmed: it is the running one for good (R449). -/
theorem execConfirmImage_accepted {h : Hdr} {s : State} (a : Accepted h 0x0B14 [] s) (role : 2 ≤ s.roles.role) (trial : trialRuns s = true) :
    ∃ t, execConfirmImage h [] s = .next (answered s h 0x0B14 [] .ok [] t) ∧ t.modes = s.modes ∧ t.store.trial = false := by
  have role := role_le_touchRole role
  have cmd : confirmImageCmd [] (touchRole s) = { run := (confirmImageCmd [] (touchRole s)).run } := by
    simp [confirmImageCmd, role]
  obtain ⟨t, run, modes, off⟩ := confirmImage_run (s := touchRole s) trial
  rw [run] at cmd
  exact ⟨t, congrArg _ (hostCommand_done a cmd nofun), modes, off⟩

/-- Settles O34, one clause for each command, from the effect of that command. -/
theorem modeCommands : Obligations.ModeCommands := by
  unfold Obligations.ModeCommands
  refine ⟨?enters, ?leaves, ?queues, ?recovery, ?done, ?notDone, ?pulses, ?start, ?ready, ?data, ?abort, ?progress, ?activate,
    ?copied, ?confirm⟩
  case enters => exact fun h s a role mode => execModeSet_enters a role mode
  case leaves => exact fun h s a role mode => execModeSet_leaves a role mode
  case queues => exact fun h s a role mode first calm => execModeSet_queues a role mode first calm
  case recovery => exact fun h s a role rom mode none => ⟨_, execRecoveryAck_accepted a role rom mode none, recoveryAcked_mode (touchRole s)⟩
  case done =>
    intro h s a role mode calm
    have run : (commissioningDoneCmd [] (touchRole s)).run = { st := commissioned (touchRole s) } :=
      if_neg (Bool.eq_false_iff.mp calm)
    refine ⟨_, execCommissioningDone_accepted a role mode run nofun, enterMode_mode _ _ _ _, ?_⟩
    rw [commissioned_rst]
    exact ⟨rfl, rfl⟩
  case notDone =>
    intro h s a role mode holds
    have run : (commissioningDoneCmd [] (touchRole s)).run = { st := touchRole s, status := .notConfirmed } := if_pos holds
    exact execCommissioningDone_accepted a role mode run nofun
  case pulses => exact fun m i j s => ⟨enterMode_mode m i j s, fun bench _ inside => enterMode_pulses bench i j inside⟩
  case start =>
    intro h hdr s a role size idle active ok
    refine ⟨_, execUpdateStart_accepted a role size idle active ok, ?_, rfl⟩
    exact beginStaging_only _ _ (l_ := Part.except .modes) (by decide) (by decide) (by decide) (.refl _ _) .modes (by decide)
  case ready => exact fun s run staging first erased => execStagingSlotReady_erased run staging first erased
  case data =>
    intro h k half data tag s a role known size tagged staging ready host inside small ok
    exact ⟨_, execUpdateData_accepted a role known size tagged staging ready host inside small ok, stageHalf_forward_modes k half data tag _⟩
  case abort =>
    exact fun h s a role staging => ⟨_, execUpdateAbort_accepted a role staging, aborted_modes (touchRole s), emptyStaging_staging _⟩
  case progress =>
    intro s run staging due
    refine ⟨updateProgressEvent s, if_pos ?_, updateProgressEvent_modes s, by rw [updateProgressEvent_chain]⟩
    simp [run, staging, due]
  case activate =>
    intro h s a role mode idle whole complete confirmed
    exact ⟨_, execImageActivate_accepted a role mode idle whole complete confirmed, activating_modes h (touchRole s)⟩
  case copied =>
    intro s active erased run up on
    refine ⟨_, execActivationCopyDone_ok active erased run up, ?_, trial_outlasts.assertSource _ (commitTrial_trial s)⟩
    rw [assertSource_modes, commitTrial_modes]
  case confirm => exact fun h s a role trial => execConfirmImage_accepted a role trial

end Sys2Proof.Laws

/-!
PROOF. Inputs marked invalid, and valid again (chapter 5, R160 to R162, R173, R174).
-/

namespace Sys2Proof.Laws

open Sys2Proof.Machine Sys2Proof.Safety

/-! The record of one input. -/

theorem lt_of_modEnabled {s : State} {n x : Nat} (enabled : modEnabled s n x = true) : x < 8 := by
  simp only [modEnabled, Bool.and_eq_true, decide_eq_true_eq] at enabled
  exact enabled.1

theorem modIn_updIn'_self {n x : Nat} (hn : n < 8) (hx : x < 8) (f : ModInput → ModInput) (s : State) :
    modIn (updIn' n x f s) n x = f (modIn s n x) :=
  vget_vmod_self _ _ _ (by omega)

theorem modIn_of_fe {s t : State} (same : t.fe = s.fe) (n x : Nat) : modIn t n x = modIn s n x := by
  rw [modIn, same, modIn]

/-- The front end replaced is a change of its part alone. -/
theorem withFe_only {l : List Part} {u s : State} (v : FrontEnd) (k : Part.fe ∈ l) (h : OnlyChanges l u s) : OnlyChanges l u (s.withFe v) := by
  refine h.trans fun p hp => ?_
  cases p with
  | fe => exact absurd k hp
  | _ => rfl

theorem inputValid_of_stuck {s : State} {n x : Nat} (stuck : (modIn s n x).stuck = true) : inputValid s n x = false := by
  simp [inputValid, ModInput.sound, stuck]

/-! Stuck inputs (R160). -/

/-- The record of an input found stuck in a frame. -/
def foundStuck (now : Nat) (i : ModInput) : ModInput := { i with stuck := true, badAt := now, bad := true }

/-- A new stuck cause changes the record of the input, and the count of its outlet where the input was valid. -/
theorem invalidate_stuck_fe {n x : Nat} {s : State} (enabled : modEnabled s n x = true) (new : (modIn s n x).stuck = false) :
    (invalidate n x 1 s).fe = { s.fe with
      inputs := vmod s.fe.inputs (8 * n + x) (foundStuck s.now)
      invalidCount := if inputValid s n x then vmod s.fe.invalidCount n (satInc 16) else s.fe.invalidCount } := by
  cases valid : inputValid s n x <;> simp [invalidate, enabled, new, valid, updIn'] <;> rfl

theorem modIn_invalidate_stuck {n x : Nat} {s : State} (hn : n < 8) (enabled : modEnabled s n x = true) (new : (modIn s n x).stuck = false) :
    modIn (invalidate n x 1 s) n x = foundStuck s.now (modIn s n x) := by
  have hx := lt_of_modEnabled enabled
  rw [modIn, invalidate_stuck_fe enabled new]
  exact vget_vmod_self _ _ _ (by omega)

/-- A valid input that is marked invalid is counted (R160). -/
theorem invalidCount_invalidate_stuck {n x : Nat} {s : State} (hn : n < 8) (enabled : modEnabled s n x = true)
    (new : (modIn s n x).stuck = false) (valid : inputValid s n x = true) :
    vget (invalidate n x 1 s).fe.invalidCount n 0 = satInc 16 (vget s.fe.invalidCount n 0) := by
  rw [invalidate_stuck_fe enabled new]
  simp only [valid, if_true]
  exact vget_vmod_self _ _ _ hn

/-- Inputs 5 to 7 have no reaction of their own (Table 5-3). -/
theorem invalidReaction_spare {x : Nat} (spare : 5 ≤ x) (n : Nat) (s : State) : invalidReaction n x s = s := by
  unfold invalidReaction
  split
  case h_6 => rfl
  all_goals omega

theorem invalidate_spare_only {x : Nat} (spare : 5 ≤ x) (n cause : Nat) (s : State) :
    OnlyChanges [.port, .fe, .store] s (invalidate n x cause s) := by
  unfold invalidate
  dsimp only
  simp only [invalidReaction_spare spare, ite_self]
  refine .ite (.refl _ s) (.ite (updIn'_only n x _ (by decide) (.refl _ s)) (event_only _ _ (by decide) (by decide) ?_))
  have marked (f : ModInput → ModInput) : OnlyChanges [.port, .fe, .store] s (updIn' n x f s) := updIn'_only n x f (by decide) (.refl _ s)
  exact .ite (withFe_only _ (by decide) (marked _)) (marked _)

/-- A stuck input that is found stuck again starts its 400 frames anew, and that is all (R160, R162). -/
theorem invalidate_stuck_again {n x : Nat} {s : State} (enabled : modEnabled s n x = true) (known : (modIn s n x).stuck = true) :
    invalidate n x 1 s = updIn' n x (fun i => { i with badAt := s.now }) s := by
  simp [invalidate, enabled, known]

theorem execModInputStuck_up {n x : Nat} {s : State} (run : s.regionsRun = true) (present : s.present n = true) :
    execModInputStuck n x s = .next (invalidate n x 1 s) := by
  simp [execModInputStuck, run, present]

/-- A stuck cause that is new, on an enabled input. -/
theorem execModInputStuck_new {n x : Nat} {s : State} (run : s.regionsRun = true) (present : s.present n = true)
    (enabled : modEnabled s n x = true) (new : (modIn s n x).stuck = false) : let t := invalidate n x 1 s
    execModInputStuck n x s = .next t ∧ (modIn t n x).stuck = true ∧ (modIn t n x).badAt = s.clock.tick ∧ inputValid t n x = false := by
  have record := modIn_invalidate_stuck (lt_of_present present) enabled new
  have stuck : (modIn (invalidate n x 1 s) n x).stuck = true := by rw [record]; rfl
  exact ⟨execModInputStuck_up run present, stuck, by rw [record]; rfl, inputValid_of_stuck stuck⟩

/-! Inputs that are clean again (R162). -/

/-- An input that has run clean is valid again, and disturbed. -/
def cleanAgain (n x : Nat) (s : State) : State :=
  updIn' n x (fun i => { i with stuck := false, clockFault := false, marks := unitOf s.clock.tick :: i.marks }) s

theorem execModInputValid_clean {n x : Nat} {s : State} (run : s.regionsRun = true) (present : s.present n = true)
    (enabled : modEnabled s n x = true) (marked : (modIn s n x).stuck = true ∨ (modIn s n x).clockFault = true)
    (clean : (modIn s n x).badAt + 400 ≤ s.clock.tick) (clock : s.fe.mclkStopped = false) :
    execModInputValid n x s = .next (event 0x0221 (le 1 n ++ le 1 x ++ stampB s.clock.legal) (cleanAgain n x s)) := by
  have clean : (modIn s n x).badAt + 400 ≤ s.now := clean
  have marked : ((modIn s n x).stuck || (modIn s n x).clockFault) = true := by simpa using marked
  unfold execModInputValid
  exact if_pos ⟨run, present, enabled, marked, clean, by simp [clock]⟩

theorem cleanAgain_input {n x : Nat} {s : State} (hn : n < 8) (enabled : modEnabled s n x = true) (code : Nat) (payload : List Byte) :
    let t := event code payload (cleanAgain n x s)
    inputValid t n x = true ∧ (modIn t n x).marks.head? = some (unitOf s.clock.tick) := by
  have record : modIn (event code payload (cleanAgain n x s)) n x = _ :=
    (modIn_of_fe (event_fe ..) n x).trans (modIn_updIn'_self hn (lt_of_modEnabled enabled) _ s)
  have enabled : modEnabled (event code payload (cleanAgain n x s)) n x = true := (modEnabled_of_modConfig (by simp; rfl) n x).trans enabled
  dsimp only
  rw [inputValid, enabled, record]
  exact ⟨rfl, rfl⟩

/-! The loss of the modulator clock (R161). -/

/-- The pairs of a list, once all are marked for their clock, have a clock fault where they are enabled. -/
theorem invalidatePairs_clockFault {n x : Nat} (hn : n < 8) (l : List (Nat × Nat)) {s : State} (enabled : modEnabled s n x = true)
    (hx : (n, x) ∈ l ∨ (modIn s n x).clockFault = true) :
    (modIn (l.foldl (fun s i => invalidate i.1 i.2 2 s) s) n x).clockFault = true := by
  induction l generalizing s with
  | nil => simpa using hx
  | cons i l ih =>
    refine ih ((modEnabled_of_modConfig (invalidate_modConfig i.1 i.2 2 s) n x).trans enabled) ?_
    obtain hx | known := hx
    · obtain rfl | hx := List.mem_cons.mp hx
      · exact .inr (invalidate_sets_clockFault hn enabled)
      · exact .inl hx
    · exact .inr (invalidate_keeps_clockFault known)

theorem mem_outlets {s : State} {n : Nat} (present : s.present n = true) : n ∈ s.outlets := by
  simpa [State.outlets, State.present] using present

theorem modPllLost_clockFault (cycle : Nat) {s : State} {n x : Nat} (present : s.present n = true) (enabled : modEnabled s n x = true) :
    (modIn (modPllLost cycle s) n x).clockFault = true := by
  unfold modPllLost
  dsimp only
  rw [modIn_of_fe (metrologyFault_fe _ _)]
  refine invalidatePairs_clockFault (lt_of_present present) _ ?_ (.inl ?_)
  · refine Eq.trans (modEnabled_of_modConfig ?_ n x) enabled
    rw [foldl_kept State.fe (fun s i => reportFrom_fe _ _ _ _ _ _ _ s), reportFrom_fe]
  · simp only [List.mem_flatten, List.mem_map]
    exact ⟨_, ⟨n, mem_outlets present, rfl⟩, List.mem_map.mpr ⟨x, List.mem_filter.mpr
      ⟨List.mem_range.mpr (lt_of_modEnabled enabled), enabled⟩, rfl⟩⟩

/-! Steps (R174). -/

theorem execStepDetected_step {n x place : Nat} {s : State} (run : s.regionsRun = true) (present : s.present n = true)
    (enabled : modEnabled s n x = true) (inside : place < 64) (step : stepAt s n x place = true) :
    ∃ t, execStepDetected n x place s = .next t ∧ (modIn t n x).marks = fastUnit s.clock.tick place :: (modIn s n x).marks ∧
      OnlyChanges [.fe] s t := by
  have hx := lt_of_modEnabled enabled
  have taken : execStepDetected n x place s = .next _ := if_pos ⟨run, present, enabled, inside, step⟩
  exact ⟨_, taken, congrArg ModInput.marks (modIn_updIn'_self (lt_of_present present) hx (ModInput.disturb (fastUnit s.now place)) s),
    execStepDetected_only n x place taken⟩

theorem execStepDetected_calm {n x place : Nat} {s : State} (calm : stepAt s n x place = false) : execStepDetected n x place s = .next s := by
  simp [execStepDetected, calm]

/-- Settles O43, one clause for each command and what it finds of the input. -/
theorem inputsMarkedInvalid : Obligations.InputsMarkedInvalid := by
  unfold Obligations.InputsMarkedInvalid
  refine ⟨?stuck, ?again, ?readback, ?clean, ?clockLost, ?lostAgain, ?step, ?calm⟩
  case stuck =>
    intro n x s run present enabled new
    obtain ⟨step, stuck, since, invalid⟩ := execModInputStuck_new run present enabled new
    exact ⟨_, step, stuck, since, invalid, invalidCount_invalidate_stuck (lt_of_present present) enabled new,
      fun spare => invalidate_spare_only spare n 1 s⟩
  case again =>
    intro n x s run present enabled known
    exact (execModInputStuck_up run present).trans (congrArg _ (invalidate_stuck_again enabled known))
  case readback =>
    intro n s run present
    have step : execMclkReadbackFault n s = .next ((List.range 8).foldl (fun s x => invalidate n x 2 s) s) := if_pos ⟨run, present⟩
    refine ⟨_, step, fun x enabled => ?_⟩
    have fault := invalidateAll_clockFault (lt_of_present present) (List.range 8) enabled (.inl (List.mem_range.mpr (lt_of_modEnabled enabled)))
    exact ⟨fault, inputValid_of_clockFault fault⟩
  case clean => exact fun n x s run present enabled marked clean clock => execModInputValid_clean run present enabled marked clean clock
  case clockLost =>
    intro cycle s run first
    have step : execModPllLoss cycle s = .next (modPllLost cycle s) := by simp [execModPllLoss, run, first]
    obtain ⟨stopped, faulty⟩ := modPllLost_effect cycle s
    exact ⟨_, step, stopped, fun n present => ⟨faulty n present, fun x enabled => modPllLost_clockFault cycle present enabled⟩⟩
  case lostAgain =>
    intro cycle s stopped
    show execModPllLoss cycle s = _
    simp [execModPllLoss, stopped]
  case step => exact fun n x place s run present enabled inside step => execStepDetected_step run present enabled inside step
  case calm => exact fun n x place s calm => execStepDetected_calm calm

end Sys2Proof.Laws


/-!
PROOF. The decimators restart (chapter 5, R176 to R178, R193): SYNC, the edge on MSYNC_N, and what a reset of the decimators leaves.
-/

namespace Sys2Proof.Laws

open Sys2Proof.Machine Sys2Proof.Safety

@[simp] theorem emit_fe (code : Nat) (payload : List Byte) (ack : Bool) (s : State) : (emit code payload ack s).fe = s.fe :=
  Part.kept (p := .fe) (by simp [emit_only, OnlyChanges.refl])

@[simp] theorem syncDone_fe (result source : Nat) (ack : Bool) (s : State) : (syncDone result source ack s).fe = s.fe := emit_fe ..

theorem vget_map {α : Type} {n i : Nat} (inside : i < n) (v : Vector α n) (f : α → α) (d : α) : vget (v.map f) i d = f (vget v i d) := by
  simp [vget, inside]

/-! The decimator reset (R176). -/

/-- The front end just after a decimator reset by `source`: its instant, and every decimator cell empty with its input disturbed. -/
structure Restarted (source : Nat) (s : State) (fe : FrontEnd) : Prop where
  sync : fe.lastSync = s.clock.legal
  source : fe.lastSource = source
  plumb : fe.plumbSince = none
  instant : fe.resetAt = s.clock.tick
  cells : ∀ i, i < 64 → (vget fe.inputs i {}).marks.head? = some (unitOf s.clock.tick) ∧ (vget fe.inputs i {}).cell = {}

theorem decimatorReset_restarted (source : Nat) (s : State) : Restarted source s (decimatorReset source s).fe where
  sync := rfl
  source := rfl
  plumb := rfl
  instant := rfl
  cells i inside := by
    have cell : vget (decimatorReset source s).fe.inputs i {} = { (vget s.fe.inputs i {}).disturb (unitOf s.now) with cell := {} } :=
      vget_map inside _ (fun i : ModInput => { i.disturb (unitOf s.now) with cell := {} }) _
    rw [cell]
    exact ⟨rfl, rfl⟩

/-- SYNC_DONE tells of the reset, and leaves it as it is. -/
theorem syncDone_restarted (result source : Nat) (ack : Bool) (s : State) :
    Restarted source s (syncDone result source ack (decimatorReset source s)).fe := by
  rw [syncDone_fe]
  exact decimatorReset_restarted source s

/-- The scheduled frame: the pending SYNC is done, and completes. -/
theorem execSyncScheduled_due {t0 : Nat} {s : State} (pending : s.fe.scheduled = some t0) (run : s.regionsRun = true)
    (reached : t0 ≤ s.clock.legal) (calm : s.anySession = false) : execSyncScheduled s =
      .next (syncDone 0 1 s.fe.syncAck (decimatorReset 1 (s.withFe { s.fe with scheduled := none, syncAck := false }))) := by
  simp [execSyncScheduled, pending, run, reached, calm]

/-- The frame after an edge taken: its reset is done, and the arming SYNC completes. -/
theorem execDecimatorReset_due {t0 : Nat} {s : State} (taken : s.fe.edgeAt = some t0) (run : s.regionsRun = true)
    (later : t0 < s.clock.tick) : execDecimatorReset s =
      .next (syncDone 0 2 s.fe.armAck (decimatorReset 2 (s.withFe { s.fe with edgeAt := none, armAck := false }))) := by
  have later : t0 < s.now := later
  simp [execDecimatorReset, taken, run, later]

/-! The edge on MSYNC_N (R177, R178). -/

theorem execMsyncEdge_unarmed {s : State} (run : s.regionsRun = true) (unarmed : s.fe.armed = false) :
    execMsyncEdge s = .next (s.withFe { s.fe with msyncUnarmed := satInc 16 s.fe.msyncUnarmed }) := by
  simp [execMsyncEdge, run, unarmed]

theorem execMsyncEdge_ignored {s : State} (run : s.regionsRun = true) (armed : s.fe.armed = true)
    (busy : s.anySession = true ∨ s.fe.closedAt = some s.clock.tick) :
    execMsyncEdge s = .next (event 0x0223 (stampB s.clock.legal) (s.withFe { s.fe with msyncIgnored := satInc 16 s.fe.msyncIgnored })) := by
  have busy : (s.anySession || s.fe.closedAt == some s.now) = true := by simpa [State.now] using busy
  simp only [execMsyncEdge, run, armed, busy, Bool.not_true, Bool.false_eq_true, if_false, if_true]
  rfl

theorem execMsyncEdge_taken {s : State} (run : s.regionsRun = true) (armed : s.fe.armed = true) (calm : s.anySession = false)
    (apart : s.fe.closedAt ≠ some s.clock.tick) :
    execMsyncEdge s = .next (s.withFe { s.fe with armed := false, edgeAt := some s.clock.tick }) := by
  have calm : (s.anySession || s.fe.closedAt == some s.now) = false := by
    rw [calm, Bool.false_or]
    exact beq_eq_false_iff_ne.mpr apart
  simp only [execMsyncEdge, run, armed, calm, Bool.not_true, Bool.false_eq_true, if_false]
  rfl

/-! SYNC (R193). -/

/-- No SYNC is scheduled or armed, and no edge waits for its reset. -/
def SyncIdle (s : State) : Prop := s.fe.scheduled = none ∧ s.fe.armed = false ∧ s.fe.edgeAt = none

/-- TIME spells a frame that is not past, and at most a day ahead. -/
def SyncTime (s : State) (f : Nat) : Prop :=
  f < 2 ^ 48 ∧ ∃ l, frameOf f = some l ∧ s.clock.legal ≤ l ∧ l ≤ s.clock.legal + 1728000000

/-- SYNC is executed where its checks pass: WHAT is known, TIME is good where WHAT asks for it, and only a cancellation finds another SYNC
pending. -/
theorem execSync_accepted {h : Hdr} {w f : Nat} {s t : State} {status : Status} (a : Accepted h 0x0210 (le 1 w ++ le 6 f) s)
    (role : 2 ≤ s.roles.role) (calm : s.anySession = false) (known : w ≤ 3) (time : w = 1 → SyncTime s f) (free : w = 3 ∨ SyncIdle s)
    (run : (syncCmd h (le 1 w ++ le 6 f) (touchRole s)).run = { st := t, status := status }) (answers : status ≠ .noLeave) :
    execSync h (le 1 w ++ le 6 f) s = .next (answered s h 0x0210 (le 1 w ++ le 6 f) status [] t) := by
  have what : byteAt (le 1 w ++ le 6 f) 0 = w := byteAt_le w _ (by omega)
  have role := role_le_touchRole role
  have calm : (touchRole s).anySession = false := calm
  have params : (syncCmd h (le 1 w ++ le 6 f) (touchRole s)).params = true := by
    by_cases timed : w = 1
    · obtain ⟨inside, l, spelt, past, near⟩ := time timed
      have spelt : frameOf (numAt (le 1 w ++ le 6 f) 1 6) = some l := by rw [numAt_last (le 1 w) 1 6 f (le_length 1 w) inside, spelt]
      have legal : (touchRole s).clock.legal = s.clock.legal := rfl
      simp [syncCmd, what, known, spelt, legal, past, secF, near]
    · simp [syncCmd, what, known, timed]
  have free : (syncCmd h (le 1 w ++ le 6 f) (touchRole s)).free = true := by
    have fe : (touchRole s).fe = s.fe := rfl
    obtain rfl | ⟨scheduled, armed, edge⟩ := free
    · simp [syncCmd, what]
    · simp [syncCmd, what, fe, scheduled, armed, edge]
  have form : (syncCmd h (le 1 w ++ le 6 f) (touchRole s)).form = true := by simp [syncCmd, le_length]
  have role : (syncCmd h (le 1 w ++ le 6 f) (touchRole s)).role = true := decide_eq_true role
  have mode : (syncCmd h (le 1 w ++ le 6 f) (touchRole s)).mode = true := by simp [syncCmd, calm]
  have host := hostCommand_accepted (cmd := fun s => syncCmd h (le 1 w ++ le 6 f) s) a nofun form role mode rfl params free
    (by rw [run]) (by rw [run]; exact answers)
  rw [run] at host
  exact congrArg _ host

theorem syncCmd_now (h : Hdr) (f : Nat) (s : State) : (syncCmd h (le 1 0 ++ le 6 f) s).run =
    { st := s.withFe { s.fe with scheduled := some (s.clock.legal / 400 * 400 + 400), syncAck := flagAck h.flags }, status := .queued } := by
  simp only [syncCmd, byteAt_le 0 (le 6 f) (by decide)]

theorem syncCmd_later (h : Hdr) {f : Nat} (inside : f < 2 ^ 48) (s : State) : (syncCmd h (le 1 1 ++ le 6 f) s).run =
    { st := s.withFe { s.fe with scheduled := frameOf f, syncAck := flagAck h.flags }, status := .queued } := by
  simp only [syncCmd, byteAt_le 1 (le 6 f) (by decide), numAt_last (le 1 1) 1 6 f (le_length 1 1) inside]

theorem syncCmd_arm (h : Hdr) (f : Nat) (s : State) : (syncCmd h (le 1 2 ++ le 6 f) s).run =
    { st := s.withFe { s.fe with armed := true, armAck := flagAck h.flags } } := by
  simp only [syncCmd, byteAt_le 2 (le 6 f) (by decide)]

/-- What a cancellation makes of a state: nothing is scheduled, nothing armed. -/
theorem syncCmd_cancel (h : Hdr) (f : Nat) (s : State) : ∃ t, (syncCmd h (le 1 3 ++ le 6 f) s).run = { st := t } ∧
    t.fe.scheduled = none ∧ t.fe.armed = false ∧ t.fe.lastSync = s.fe.lastSync := by
  have cancelled : (cancelSync s).fe.scheduled = none ∧ (cancelSync s).fe.lastSync = s.fe.lastSync := by
    unfold cancelSync
    split
    case h_1 => simp
    case h_2 none => exact ⟨none, rfl⟩
  obtain ⟨scheduled, last⟩ := cancelled
  refine ⟨_, by simp only [syncCmd, byteAt_le 3 (le 6 f) (by decide)]; rfl, ?_⟩
  split
  next => exact ⟨by simpa using scheduled, by simp, by simpa using last⟩
  next unarmed => exact ⟨scheduled, Bool.eq_false_iff.mpr unarmed, last⟩

/-- Settles O44, one clause for each command and what it finds. -/
theorem decimatorsRestart : Obligations.DecimatorsRestart := by
  unfold Obligations.DecimatorsRestart
  refine ⟨?scheduled, ?edge, ?unarmed, ?ignored, ?taken, ?now, ?later, ?arm, ?cancel, ?stuck, ?clean, ?step⟩
  case scheduled =>
    intro t0 s pending run reached calm
    have step := execSyncScheduled_due pending run reached calm
    have r := syncDone_restarted 0 1 s.fe.syncAck (s.withFe { s.fe with scheduled := none, syncAck := false })
    exact ⟨_, step, by rw [syncDone_fe]; rfl, r.sync, r.source, r.plumb, r.instant, r.cells, execSyncScheduled_only step⟩
  case edge =>
    intro t0 s taken run later
    have step := execDecimatorReset_due taken run later
    have r := syncDone_restarted 0 2 s.fe.armAck (s.withFe { s.fe with edgeAt := none, armAck := false })
    exact ⟨_, step, by rw [syncDone_fe]; rfl, r.sync, r.source, r.plumb, r.instant, r.cells, execDecimatorReset_only step⟩
  case unarmed => exact fun s run unarmed => execMsyncEdge_unarmed run unarmed
  case ignored => exact fun s run armed busy => execMsyncEdge_ignored run armed busy
  case taken => exact fun s run armed calm apart => execMsyncEdge_taken run armed calm apart
  case now =>
    exact fun h f s a role calm scheduled armed edge =>
      execSync_accepted a role calm (by decide) nofun (.inr ⟨scheduled, armed, edge⟩) (syncCmd_now ..) nofun
  case later =>
    intro h f l s a role calm scheduled armed edge inside spelt past near
    have time : SyncTime s f := ⟨inside, l, spelt, past, near⟩
    have run := syncCmd_later h inside (touchRole s)
    rw [spelt] at run
    exact execSync_accepted a role calm (by decide) (fun _ => time) (.inr ⟨scheduled, armed, edge⟩) run nofun
  case arm =>
    exact fun h f s a role calm scheduled armed edge =>
      execSync_accepted a role calm (by decide) nofun (.inr ⟨scheduled, armed, edge⟩) (syncCmd_arm ..) nofun
  case cancel =>
    intro h f s a role calm
    obtain ⟨t, run, scheduled, armed, last⟩ := syncCmd_cancel h f (touchRole s)
    exact ⟨t, execSync_accepted a role calm (by decide) nofun (.inl rfl) run nofun, scheduled, armed, last⟩
  case stuck =>
    intro n x s run present enabled new
    obtain ⟨step, -, since, invalid⟩ := execModInputStuck_new run present enabled new
    exact ⟨_, step, invalid, since⟩
  case clean =>
    intro n x s run present enabled marked clean clock
    have step := execModInputValid_clean run present enabled marked clean clock
    obtain ⟨valid, mark⟩ := cleanAgain_input (lt_of_present present) enabled 0x0221 (le 1 n ++ le 1 x ++ stampB s.clock.legal)
    exact ⟨_, step, valid, mark, execModInputValid_only n x step⟩
  case step =>
    intro n x place s run present enabled inside step
    obtain ⟨t, taken, marks, only⟩ := execStepDetected_step run present enabled inside step
    exact ⟨t, taken, by rw [marks]; rfl, only⟩

end Sys2Proof.Laws


/-!
PROOF. The trigger of a capture (chapter 5, R191): a Plumb boundary starts the recording unless it is that of the frame in which the capture
started.
-/

namespace Sys2Proof.Laws

open Sys2Proof.Machine Sys2Proof.Safety

/-- A capture that waits for a Plumb boundary does not take that of its own frame, which is past: it waits for the next (R191). -/
theorem execCaptureTrigger_ownFrame {c : Capture} {s : State} (capture : s.fe.capture = some c) (kind : c.trigger = 2)
    (own : c.since = s.clock.tick) : execCaptureTrigger s = .next s := by
  have own : ¬ c.since < s.now := by
    rw [own]
    exact Nat.lt_irrefl _
  simp [execCaptureTrigger, capture, kind, own]

/-- A capture started in the frame under way, to begin at a Plumb boundary. -/
def awaitingBoundary : Capture := { trigger := 2, since := 2000, first := unitOf 2001 }

/-- The regions run, and the frame under way is a Plumb boundary, in which the capture awaitingBoundary has started. -/
def startedAtBoundary : State :=
  { State.reset with
    clock := { State.reset.clock with tick := 2000, legal := 2000 }
    rst := { State.reset.rst with asserted := [], phase := .running }
    fe := { State.reset.fe with capture := some awaitingBoundary } }

/-- Refutes O45: its clause on the trigger has a capture begin at the Plumb boundary of any frame, that of its start among them, at which the
model, as R191, waits for the next; in startedAtBoundary the capture goes on waiting. -/
theorem not_pathsAndCapture : ¬ Obligations.PathsAndCapture := by
  unfold Obligations.PathsAndCapture
  rintro ⟨-, -, -, -, trigger, -⟩
  obtain ⟨t, d, step, capture, recording, -⟩ := trigger awaitingBoundary (unitOf 2000) startedAtBoundary rfl rfl rfl (.inr ⟨rfl, rfl, rfl⟩)
  have waits : exec .captureTrigger startedAtBoundary = .next startedAtBoundary :=
    execCaptureTrigger_ownFrame (c := awaitingBoundary) (s := startedAtBoundary) rfl rfl rfl
  obtain rfl : startedAtBoundary = t := Host.Outcome.next.inj (waits.symm.trans step)
  obtain rfl : awaitingBoundary = d := Option.some.inj capture
  exact Bool.false_ne_true recording

end Sys2Proof.Laws


/-!
PROOF. Insulation (chapter 9, R324 to R329): the steps and the periods of Plumb, what a period's reading says, and that the stops that follow
from it leave the readings as they are.
-/

namespace Sys2Proof.Laws

open Sys2Proof.Machine Sys2Proof.Safety

/-! The readings outlast every stop: what a stop does to the switching leaves INSULATION as it was. -/

@[simp] theorem driverOff_insul (d : Nat) (s : State) : (driverOff d s).sw.insul = s.sw.insul := by
  show (releaseOpt (drv s d).req s).sw.insul = s.sw.insul
  rw [releaseOpt_sw]

@[simp] theorem driversOff_insul (ds : List Nat) (s : State) : (ds.foldl (fun s d => driverOff d s) s).sw.insul = s.sw.insul :=
  foldl_kept (·.sw.insul) (fun s d => driverOff_insul d s) _ _

@[simp] theorem setOwner_insul (m : Nat) (o : Option Nat) (s : State) : (setOwner m o s).sw.insul = s.sw.insul := rfl

@[simp] theorem ownersCleared_insul (ms : List Nat) (s : State) : (ms.foldl (fun s m => setOwner m none s) s).sw.insul = s.sw.insul :=
  foldl_kept (·.sw.insul) (fun s m => setOwner_insul m none s) _ _

@[simp] theorem updSq_insul (n : Nat) (f : Seq → Seq) (s : State) : (updSq n f s).sw.insul = s.sw.insul := rfl

@[simp] theorem modulesOff_insul (n : Nat) (s : State) : (modulesOff n s).sw.insul = s.sw.insul := rfl

@[simp] theorem closeAt_insul (n : Nat) (s : State) : (closeAt n s).sw.insul = s.sw.insul := rfl

@[simp] theorem endAfterStop_insul (n cause : Nat) (s : State) : (endAfterStop n cause s).sw.insul = s.sw.insul := rfl

@[simp] theorem linkEnd_sw (n cause : Nat) (s : State) : (linkEnd n cause s).sw = s.sw :=
  Part.kept (p := .sw) (by simp [linkEnd_only, OnlyChanges.refl])

@[simp] theorem endJob_insul (j : BusJob) (s : State) : (endJob j s).sw.insul = s.sw.insul := by
  unfold endJob
  dsimp only
  split
  · rw [busChanged_sw]
  · rfl

@[simp] theorem dropJobs_insul (n : Nat) (s : State) : (dropJobs n s).sw.insul = s.sw.insul := by
  refine (foldl_kept (·.sw.insul) (fun s j => endJob_insul j s) _ _).trans (foldl_kept (·.sw.insul) (fun s j => ?_) _ _)
  split
  · exact driverOff_insul _ _
  · rfl

@[simp] theorem seqTo_insul (n new : Nat) (s : State) : (seqTo n new s).sw.insul = s.sw.insul := by
  unfold seqTo
  dsimp only
  split
  · rfl
  · rw [event_sw, updSq_insul]

@[simp] theorem lockOutlet_insul (n : Nat) (s : State) : (lockOutlet n s).sw.insul = s.sw.insul := by
  unfold lockOutlet
  dsimp only
  rw [linkEnd_sw, seqTo_insul]
  split <;> simp

@[simp] theorem weldDone_insul (n : Nat) (s : State) : (weldDone n s).sw.insul = s.sw.insul := by
  unfold weldDone
  dsimp only
  split
  · exact lockOutlet_insul n s
  · split
    · split <;> simp
    · rfl

@[simp] theorem pairOpened_insul (n : Nat) (s : State) : (pairOpened n s).sw.insul = s.sw.insul := by
  unfold pairOpened
  dsimp only
  split
  · simp
  · rfl

@[simp] theorem openPair_insul (n : Nat) (s : State) : (openPair n s).sw.insul = s.sw.insul := by
  simp [openPair]

@[simp] theorem failSequence_insul (n cause : Nat) (s : State) : (failSequence n cause s).sw.insul = s.sw.insul :=
  openPair_insul n _

@[simp] theorem safeRampStop_insul (n cause ms : Nat) (s : State) : (safeRampStop n cause ms s).sw.insul = s.sw.insul := by
  unfold safeRampStop
  dsimp only
  repeat' split
  all_goals simp

@[simp] theorem demandStop_insul (n cause ms : Nat) (s : State) : (demandStop n cause ms s).sw.insul = s.sw.insul := by
  unfold demandStop
  split
  · split <;> simp
  · simp

/-! What a reading holds: the status and the stamp of an outlet. -/

theorem ins_of_insul {s t : State} (same : t.sw.insul = s.sw.insul) (n : Nat) : ins t n = ins s n := by
  rw [ins, same, ins]

/-- A field that a rewriting leaves in every record it leaves in every place of an array. -/
theorem vget_vmod_field {α β : Type} {n : Nat} (v : Vector α n) (i j : Nat) {f : α → α} (d : α) (g : α → β) (kept : ∀ x, g (f x) = g x) :
    g (vget (vmod v i f) j d) = g (vget v j d) := by
  by_cases same : j = i
  case neg => rw [vget_vmod_of_ne v f d same]
  case pos =>
    subst same
    by_cases inside : j < n
    · rw [vget_vmod_self v f d inside, kept]
    · simp [vmod, inside]

theorem updIns_stamp {f : Insul → Insul} (kept : ∀ x, (f x).stamp = x.stamp) (m : Nat) (s : State) (n : Nat) :
    (ins (updIns m f s) n).stamp = (ins s n).stamp :=
  vget_vmod_field s.sw.insul m n {} Insul.stamp kept

theorem markLocated_stamp (mask : BitVec 8) (s : State) (n : Nat) : (ins (markLocated mask s) n).stamp = (ins s n).stamp := by
  unfold markLocated
  exact foldl_kept (fun s => (ins s n).stamp)
    (fun s m => updIns_stamp (f := fun x => { x with located := bit mask m }) (fun _ => rfl) m s n) _ _

theorem stamp_of_sw {s t : State} (same : t.sw.insul = s.sw.insul) (n : Nat) : (ins t n).stamp = (ins s n).stamp := by
  rw [ins_of_insul same]

/-- The judgement of the groups, which stops their owners, leaves the stamps of the readings (R328). -/
theorem judgeGroup_stamp (m : Nat) (g e : BitVec 8) (s : State) (n : Nat) : (ins (judgeGroup m g e s) n).stamp = (ins s n).stamp := by
  have run (k : Nat) : (ins (updIns m (fun x => { x with mismatchRun := k }) s) n).stamp = (ins s n).stamp :=
    updIns_stamp (f := fun x => { x with mismatchRun := k }) (fun _ => rfl) m s n
  unfold judgeGroup
  dsimp only
  split
  · exact run 0
  · split
    · refine (stamp_of_sw ?_ n).trans (run ((ins s m).mismatchRun + 1))
      dsimp only
      rw [foldl_kept (·.sw.insul) (fun s o => demandStop_insul o 5 (tRampEmerg s o) s), event_sw]
    · exact run _

theorem cableResult_insul (n : Nat) (s : State) : (cableResult n s).sw.insul = s.sw.insul := by
  unfold cableResult
  dsimp only
  repeat' split
  all_goals rfl

theorem startLocate_stamp (m : Nat) (s : State) (n : Nat) : (ins (startLocate m s) n).stamp = (ins s n).stamp := by
  unfold startLocate
  dsimp only
  split
  · exact (stamp_of_sw (by rw [event_sw]) n).trans (markLocated_stamp _ s n)
  · rfl

theorem insulationStop_stamp (owner : Nat) (s : State) (n : Nat) : (ins (insulationStop owner s) n).stamp = (ins s n).stamp := by
  unfold insulationStop
  dsimp only
  split
  · rfl
  split
  · exact stamp_of_sw (demandStop_insul ..) n
  split
  · exact (stamp_of_sw (by simp) n).trans (startLocate_stamp owner s n)
  · exact (stamp_of_sw (demandStop_insul ..) n).trans (startLocate_stamp owner s n)

theorem locatePeriod_stamp (s : State) (n : Nat) : (ins (locatePeriod s) n).stamp = (ins s n).stamp := by
  unfold locatePeriod
  refine foldl_kept (fun s => (ins s n).stamp) (fun s l => ?_) _ _
  dsimp only
  split
  · rfl
  split
  · refine (stamp_of_sw (congrArg Switch.insul (event_sw ..)) n).trans ((markLocated_stamp _ _ n).trans ?_)
    rfl
  · rfl

/-! What a period's reading says (R327). -/

@[simp] theorem insEvent_sw (code n : Nat) (s : State) : (insEvent code n s).sw = s.sw := event_sw ..

/-- Without a reading the status is that there is no valid value. -/
theorem judgeIns_blind {n : Nat} {g e : BitVec 8} {r : Option Reading} {s : State} (blind : bit s.faults.plumbCells n = true ∨ r = none) :
    judgeIns n g e r s =
      updIns n (fun x => { x with status := 3, group := g, expected := e, stamp := s.clock.legal, warnRun := 0, okRun := 0 }) s := by
  obtain broken | rfl := blind
  · simp only [judgeIns, broken, if_true]
  · simp only [judgeIns, ite_self]

/-- A reading is stamped, and says fault when it is below the fault threshold. -/
theorem judgeIns_reads {n : Nat} {g e : BitVec 8} {r : Reading} {s : State} (works : bit s.faults.plumbCells n = false) :
    ∃ f : Insul → Insul, (judgeIns n g e (some r) s).sw.insul = vmod s.sw.insul n f ∧ (∀ x, (f x).stamp = s.clock.legal) ∧
      (100 * min r.rp r.rn < fld (plCfg s n) 52 12 * groupVfs s g → ∀ x, (f x).status = 2) := by
  simp only [judgeIns, works, Bool.false_eq_true, if_false, apply_ite State.sw, insEvent_sw, ite_self]
  refine ⟨_, rfl, fun _ => rfl, fun low x => ?_⟩
  simp [low]

/-- Whatever a period reads, the outlet's record has the stamp of its judgement. -/
theorem judgeIns_insul (n : Nat) (g e : BitVec 8) (r : Option Reading) (s : State) :
    ∃ f : Insul → Insul, (judgeIns n g e r s).sw.insul = vmod s.sw.insul n f ∧ ∀ x, (f x).stamp = s.clock.legal := by
  by_cases blind : bit s.faults.plumbCells n = true ∨ r = none
  · exact ⟨_, by rw [judgeIns_blind blind]; rfl, fun _ => rfl⟩
  · obtain ⟨works, some⟩ := not_or.mp blind
    obtain ⟨r, rfl⟩ := Option.ne_none_iff_exists'.mp some
    obtain ⟨f, insul, stamp, -⟩ := judgeIns_reads (g := g) (e := e) (r := r) (Bool.eq_false_iff.mpr works)
    exact ⟨f, insul, stamp⟩

@[simp] theorem judgeIns_clock (n : Nat) (g e : BitVec 8) (r : Option Reading) (s : State) : (judgeIns n g e r s).clock = s.clock :=
  Part.kept (p := .clock) (by simp [judgeIns_only, OnlyChanges.refl])

/-- A judgement stamps its own outlet, and keeps the stamp of any other. -/
theorem judgeIns_stamp {m n : Nat} (hn : n < 8) (g e : BitVec 8) (r : Option Reading) (s : State) :
    (ins (judgeIns m g e r s) n).stamp = if n = m then s.clock.legal else (ins s n).stamp := by
  obtain ⟨f, insul, stamp⟩ := judgeIns_insul m g e r s
  rw [ins, insul]
  split
  next same => rw [same, vget_vmod_self _ _ _ (same ▸ hn), stamp]
  next other => rw [vget_vmod_of_ne _ _ _ other, ins]

/-- Once a list of outlets with their groups is judged, each of them has the stamp of this frame. -/
theorem judgeAll_stamp {n : Nat} (hn : n < 8) (l : List (Nat × BitVec 8 × BitVec 8)) {s : State}
    (judged : n ∈ l.map (·.1) ∨ (ins s n).stamp = s.clock.legal) :
    (ins (l.foldl (fun s g => judgeIns g.1 g.2.1 g.2.2 (convert s g.2.1) s) s) n).stamp = s.clock.legal := by
  induction l generalizing s with
  | nil => simpa using judged
  | cons g l ih =>
    refine (ih ?_).trans (congrArg Clock.legal (judgeIns_clock ..))
    rw [judgeIns_stamp hn, judgeIns_clock]
    by_cases own : n = g.1
    · exact .inr (if_pos own)
    · rw [if_neg own]
      simpa [own] using judged

/-! Steps and periods (R324). -/

/-- At the end of a period every active outlet has a reading of this frame (R326 to R329). -/
theorem judgePeriod_stamp {s : State} {n : Nat} (present : s.present n = true) : (ins (judgePeriod s) n).stamp = s.clock.legal := by
  unfold judgePeriod
  dsimp only
  rw [locatePeriod_stamp, foldl_kept (fun s => (ins s n).stamp) (fun s o => insulationStop_stamp o s n),
    foldl_kept (fun s => (ins s n).stamp) (fun s (a : Nat × BitVec 8 × BitVec 8) => stamp_of_sw (cableResult_insul a.1 s) n),
    foldl_kept (fun s => (ins s n).stamp) (fun s (a : Nat × BitVec 8 × BitVec 8) => judgeGroup_stamp a.1 a.2.1 a.2.2 s n)]
  refine judgeAll_stamp (lt_of_present present) _ (.inl ?_)
  simpa using mem_outlets present

@[simp] theorem judgePeriod_fe (s : State) : (judgePeriod s).fe = s.fe :=
  Part.kept (p := .fe) (by simp [judgePeriod_only, OnlyChanges.refl])

/-- The correlations of a period change PLUMB_CORR alone. -/
theorem updateCorr_period (k endLegal n : Nat) (s : State) : (updateCorr k endLegal n s).fe.plumbPeriod = s.fe.plumbPeriod := rfl

theorem execPlumbPeriodEnd_due {p : PlumbStep} {rest : List PlumbStep} {s : State} (run : s.regionsRun = true) (steps : s.fe.steps = p :: rest)
    (first : p.number % 8 = 0) (new : s.fe.plumbPeriod < p.number / 8) (due : p.start + 8 ≤ s.clock.tick) :
    execPlumbPeriodEnd s = .next (judgePeriod (s.outlets.foldl (fun s n => updateCorr (p.number / 8 - 1) p.legal n s)
      (s.withFe { s.fe with plumbPeriod := p.number / 8 }))) := by
  have new : ¬ p.number / 8 ≤ s.fe.plumbPeriod := Nat.not_le.mpr new
  have due : ¬ s.now < p.start + 8 := Nat.not_lt.mpr due
  simp only [execPlumbPeriodEnd, steps, run, first, new, due, Bool.not_true, Bool.false_eq_true, ne_eq, not_true_eq_false, or_self, if_false]
  rfl

/-- A period ends once: its number is kept, and every active outlet is judged in this frame. -/
theorem execPlumbPeriodEnd_judges {p : PlumbStep} {rest : List PlumbStep} {s : State} (run : s.regionsRun = true)
    (steps : s.fe.steps = p :: rest) (first : p.number % 8 = 0) (new : s.fe.plumbPeriod < p.number / 8) (due : p.start + 8 ≤ s.clock.tick) :
    ∃ t, execPlumbPeriodEnd s = .next t ∧ t.fe.plumbPeriod = p.number / 8 ∧ ∀ n, s.present n = true → (ins t n).stamp = s.clock.legal := by
  refine ⟨_, execPlumbPeriodEnd_due run steps first new due, ?_, fun n present => ?_⟩
  · rw [judgePeriod_fe, foldl_kept (·.fe.plumbPeriod) (fun s n => updateCorr_period _ _ n s)]
  · have only : OnlyChanges [.fe] s (s.outlets.foldl (fun s n => updateCorr (p.number / 8 - 1) p.legal n s)
        (s.withFe { s.fe with plumbPeriod := p.number / 8 })) :=
      .foldl (withFe_only _ (by decide) (.refl _ s)) (fun _ n h => updateCorr_only _ _ n (by decide) h)
    refine (judgePeriod_stamp ?_).trans (congrArg Clock.legal (only .clock (by decide)))
    rw [State.present, State.outletCount, only .factory (by decide), only .rst (by decide)]
    exact present

/-- A boundary begins the next step of the code. -/
theorem execPlumbStepBoundary_due {s : State} (run : s.regionsRun = true) (boundary : s.clock.legal % 2000 = 0)
    (new : s.fe.steps.head?.map (·.start) ≠ some s.clock.tick) :
    ∃ t p, execPlumbStepBoundary s = .next t ∧ t.fe.steps = (p :: s.fe.steps).take 18 ∧ p.start = s.clock.tick ∧
      p.number = (match s.fe.steps with | [] => 0 | q :: _ => q.number + 1) ∧ t.fe.plumbStep = p.number % 8 := by
  refine ⟨_, _, if_neg ?_, rfl, rfl, rfl, rfl⟩
  simpa [run, boundary, State.now] using new

end Sys2Proof.Laws


/-!
PROOF. Tone windows, the sticky flags of METER_WARN, and pulse ends (chapters 5 and 6, R190, R207, R214, R218, R220, R221).
-/

namespace Sys2Proof.Laws

open Sys2Proof.Machine Sys2Proof.Safety

/-! The records of one outlet. -/

@[simp] theorem event_energy (code : Nat) (payload : List Byte) (s : State) : (event code payload s).energy = s.energy :=
  Part.kept (p := .energy) (by simp [event_only, OnlyChanges.refl])

@[simp] theorem sign_energy (r : Record) (s : State) : (sign r s).energy = s.energy :=
  Part.kept (p := .energy) (by simp [sign_only, OnlyChanges.refl])

theorem eng_of_energy {s t : State} (same : t.energy = s.energy) (n : Nat) : eng t n = eng s n := by
  rw [eng, same, eng]

theorem eng_updEng_self {n : Nat} (hn : n < 8) (f : EnergyOut → EnergyOut) (s : State) : eng (updEng n f s) n = f (eng s n) :=
  vget_vmod_self _ _ _ hn

theorem tone_of_fe {s t : State} (same : t.fe = s.fe) (n : Nat) : tone t n = tone s n := by
  rw [tone, same, tone]

theorem tone_updTone_self {n : Nat} (hn : n < 8) (f : ToneState → ToneState) (s : State) : tone (updTone n f s) n = f (tone s n) :=
  vget_vmod_self _ _ _ hn

theorem vmod_vmod {α : Type} {n : Nat} (v : Vector α n) (i : Nat) (f g : α → α) : vmod (vmod v i f) i g = vmod v i (fun x => g (f x)) := by
  by_cases inside : i < n <;> simp [vmod, inside]

/-! Sticky flags (R220). -/

/-- A flag that is set is set from then on, and the others stay. -/
theorem setWarn_warn {n b : Nat} (hn : n < 8) (hb : b < 32) (value : Int) (s : State) (c : Nat) :
    bit (eng (setWarn n b value s) n).warn c = true ↔ bit (eng s n).warn c = true ∨ c = b := by
  unfold setWarn
  split
  next known => exact ⟨.inl, fun h => h.elim id (fun same => same ▸ known)⟩
  next new =>
    dsimp only
    rw [eng_of_energy (event_energy ..), eng_updEng_self hn]
    refine (bit_setBit_true _ b c).trans ?_
    exact or_congr_right ⟨And.left, fun same => ⟨same, same ▸ hb⟩⟩

@[simp] theorem setWarn_fe (n b : Nat) (value : Int) (s : State) : (setWarn n b value s).fe = s.fe :=
  Part.kept (p := .fe) (by simp [setWarn_only, OnlyChanges.refl])

@[simp] theorem setWarn_verify (n b : Nat) (value : Int) (s : State) : (setWarn n b value s).energy.verify = s.energy.verify := by
  unfold setWarn
  split
  · rfl
  · rw [event_energy]; rfl

/-- A flag changes none of the times of STANDING_ENERGY. -/
theorem setWarn_standEv (n b : Nat) (value : Int) (s : State) : (eng (setWarn n b value s) n).standEv = (eng s n).standEv := by
  unfold setWarn
  split
  · rfl
  · rw [eng_of_energy (event_energy ..)]
    exact vget_vmod_field s.energy.outs n n {} EnergyOut.standEv (fun _ => rfl)

/-- A flag whose condition holds. -/
def warnIf (holds : Bool) (n b : Nat) (value : Int) (s : State) : State := if holds then setWarn n b value s else s

theorem warnIf_sets {n b : Nat} (hn : n < 8) (hb : b < 32) (value : Int) (s : State) : bit (eng (warnIf true n b value s) n).warn b = true :=
  (setWarn_warn hn hb value s b).mpr (.inr rfl)

theorem warnIf_keeps {n b c : Nat} (hn : n < 8) (hb : b < 32) (holds : Bool) (value : Int) {s : State} (set : bit (eng s n).warn c = true) :
    bit (eng (warnIf holds n b value s) n).warn c = true := by
  cases holds
  case false => exact set
  case true => exact (setWarn_warn hn hb value s c).mpr (.inl set)

@[simp] theorem warnIf_fe (holds : Bool) (n b : Nat) (value : Int) (s : State) : (warnIf holds n b value s).fe = s.fe := by
  cases holds
  case false => rfl
  case true => exact setWarn_fe n b value s

@[simp] theorem warnIf_verify (holds : Bool) (n b : Nat) (value : Int) (s : State) :
    (warnIf holds n b value s).energy.verify = s.energy.verify := by
  cases holds
  case false => rfl
  case true => exact setWarn_verify n b value s

/-! Tone windows (R190, R218). -/

/-- The checks on the tone look at its readings and its settings alone. -/
theorem toneDrift_congr {s t : State} (fe : t.fe = s.fe) (verify : t.energy.verify = s.energy.verify) (n : Nat) : toneDrift t n = toneDrift s n := by
  unfold toneDrift toneAvg verCfg
  rw [tone_of_fe fe, fe, verify]

theorem tonePhase_congr {s t : State} (fe : t.fe = s.fe) (n : Nat) : tonePhase t n = tonePhase s n := by
  rw [tonePhase, tonePhase, tone_of_fe fe]

/-- TONE_STATE with the readings of a valid window. -/
def toneRead (n : Nat) (i q : Int) (s : State) : State :=
  updTone n (fun t => { t with
    lastRatio := satInt 32 (toneRatio s n i q), lastPhase := satInt 16 (tonePhaseOf s n i q)
    ratios := (toneRatio s n i q :: t.ratios).take (toneAvg s n), valid := true, lastValidAt := s.now
    phaseRun := if fld (verCfg s n) 16 16 < (tonePhaseOf s n i q).natAbs then t.phaseRun + 1 else 0 }) s

/-- A valid window: its readings, then the flags of the two checks on them. -/
theorem toneWindow_valid (n : Nat) (i q : Int) (s : State) : ∃ mean : Int,
    toneWindow n i q true s = warnIf (tonePhase (toneRead n i q s) n) n 1 (toneRatio s n i q)
      (warnIf (toneDrift (toneRead n i q s) n) n 0 mean (toneRead n i q s)) := by
  refine ⟨meanInt (tone (toneRead n i q s) n).ratios, ?_⟩
  rw [← tonePhase_congr (warnIf_fe (toneDrift (toneRead n i q s) n) n 0 (meanInt (tone (toneRead n i q s) n).ratios) (toneRead n i q s))]
  rfl

/-- The window that has ended is taken. -/
def windowTaken (n : Nat) (s : State) : State := updTone n (fun t => { t with ended := none }) s

theorem execToneWindowEnd_ended {n : Nat} {i q : Int} {ok : Bool} {s : State} (run : s.regionsRun = true) (present : s.present n = true)
    (enabled : modEnabled s n 0 = true) (ended : (tone s n).ended = some (i, q, ok)) :
    execToneWindowEnd n s = .next (toneWindow n i q ok (windowTaken n s)) := by
  simp [execToneWindowEnd, run, present, enabled, ended, windowTaken]

/-- What a valid window leaves: its readings, and each flag whose check fails. -/
theorem toneWindow_read {n : Nat} (hn : n < 8) (i q : Int) (s : State) : let t := toneWindow n i q true (windowTaken n s)
    tone t n = { tone s n with
      ended := none, lastRatio := satInt 32 (toneRatio s n i q), lastPhase := satInt 16 (tonePhaseOf s n i q)
      ratios := (toneRatio s n i q :: (tone s n).ratios).take (toneAvg s n), valid := true, lastValidAt := s.now
      phaseRun := if fld (verCfg s n) 16 16 < (tonePhaseOf s n i q).natAbs then (tone s n).phaseRun + 1 else 0 } ∧
    (toneDrift t n = true → bit (eng t n).warn 0 = true) ∧ (tonePhase t n = true → bit (eng t n).warn 1 = true) := by
  obtain ⟨mean, window⟩ := toneWindow_valid n i q (windowTaken n s)
  have fe : (toneWindow n i q true (windowTaken n s)).fe = (toneRead n i q (windowTaken n s)).fe := by rw [window, warnIf_fe, warnIf_fe]
  have verify : (toneWindow n i q true (windowTaken n s)).energy.verify = (toneRead n i q (windowTaken n s)).energy.verify := by
    rw [window, warnIf_verify, warnIf_verify]
  dsimp only
  refine ⟨?_, fun drift => ?_, fun phase => ?_⟩
  · rw [tone_of_fe fe, toneRead, tone_updTone_self hn, windowTaken, tone_updTone_self hn]
    rfl
  · rw [toneDrift_congr fe verify] at drift
    rw [window, drift]
    exact warnIf_keeps hn (by decide) _ _ (warnIf_sets hn (by decide) _ _)
  · rw [tonePhase_congr fe] at phase
    rw [window, phase]
    exact warnIf_sets hn (by decide) _ _

/-- A window that is not valid leaves the run of R218 as it is (log 34). -/
theorem toneWindow_invalid (n : Nat) (i q : Int) (s : State) :
    toneWindow n i q false (windowTaken n s) = updTone n (fun t => { t with ended := none, valid := false }) s := by
  show updTone n _ (windowTaken n s) = _
  simp only [windowTaken, updTone, vmod_vmod]

theorem execToneUnavailable_missing {n : Nat} {s : State} (run : s.regionsRun = true) (present : s.present n = true)
    (missing : toneMissing s n = true) : execToneUnavailable n s = .next (setWarn n 2 (tone s n).lastRatio s) := by
  simp [execToneUnavailable, run, present, missing]

/-! Standing energy and pulses (R207, R214). -/

/-- The first STANDING_ENERGY of a current that flows without a session. -/
theorem execStandingEnergy_first {n : Nat} {s : State} (run : s.regionsRun = true) (present : s.present n = true)
    (standing : standing1s s n = true) (first : (eng s n).standEv = none) :
    ∃ t, execStandingEnergy n s = .next t ∧ (eng t n).standEv = some s.clock.tick ∧ bit (eng t n).warn 5 = true := by
  have hn := lt_of_present present
  refine ⟨_, by simp only [execStandingEnergy, run, present, standing, first, Bool.and_self, if_true]; rfl, ?_, ?_⟩
  · rw [setWarn_standEv, eng_of_energy (event_energy ..), eng_updEng_self hn]
    rfl
  · exact (setWarn_warn hn (by decide) _ _ 5).mpr (.inr rfl)

theorem execPulseEnd_due {k : Nat} {s : State} (low : (pls s k).low = true) (due : (pls s k).endAt ≤ s.clock.tick) :
    execPulseEnd k s = .next (updPls k (fun y => { y with low := false, relAt := s.clock.tick }) s) :=
  if_pos ⟨low, due⟩

/-! METER_WARN_CLEAR (R221). -/

/-- The bits of MASK. -/
theorem bitsOf_one (m b : Nat) : bitsOf m b 1 = 1 ↔ m.testBit b = true := by
  simp [bitsOf, Nat.testBit, Nat.shiftRight_eq_div_pow, Nat.one_and_eq_mod_two]

/-- Some flag of MASK has a condition that holds. -/
def warnStands (s : State) (n mask : Nat) : Bool :=
  ((List.range 6).filter (fun b => decide (bitsOf mask b 1 = 1))).any (warnHolds s n)

theorem warnStands_iff (s : State) (n mask : Nat) :
    warnStands s n mask = true ↔ ∃ b, b < 6 ∧ mask.testBit b = true ∧ warnHolds s n b = true := by
  simp [warnStands, bitsOf_one]

/-- The flags of MASK are cleared, and the clearing is signed and told. -/
def warnCleared (n mask : Nat) (s : State) : State :=
  let s1 := updEng n (fun x => { x with warn := x.warn &&& ~~~ BitVec.ofNat 32 mask }) s
  let s2 := sign { type := 0x0B, outlet := n, time := s1.clock.legal, timeStatus := timeStatus s1 false false,
                   values := BitVec.ofNat 256 mask } s1
  event 0x0321 (le 1 n ++ le 2 mask ++ s2.stamp) s2

theorem warnCleared_warn {n : Nat} (hn : n < 8) (mask : Nat) (s : State) :
    (eng (warnCleared n mask s) n).warn = (eng s n).warn &&& ~~~ BitVec.ofNat 32 mask := by
  rw [warnCleared, eng_of_energy (event_energy ..), eng_of_energy (sign_energy ..), eng_updEng_self hn]

theorem warnCleared_seq (n mask : Nat) (s : State) : (warnCleared n mask s).log.seq = s.log.seq + 1 := by
  rw [warnCleared, event_log]
  exact (sign_log _ _).1

/-- METER_WARN_CLEAR is executed where its checks pass, and refuses while a condition stands. -/
theorem execMeterWarnClear_accepted {h : Hdr} {n mask : Nat} {s : State} (a : Accepted h 0x0310 (le 1 n ++ le 2 mask) s)
    (role : s.roles.role = 3) (mode : s.modes.mode = .commissioning) (present : s.present n = true) (small : mask < 64)
    (place : noRecordPlace s = false) : execMeterWarnClear h (le 1 n ++ le 2 mask) s =
      .next (if warnStands s n mask then answered s h 0x0310 (le 1 n ++ le 2 mask) .notConfirmed [] (touchRole s)
        else answered s h 0x0310 (le 1 n ++ le 2 mask) .ok [] (warnCleared n mask (touchRole s))) := by
  have hn := lt_of_present present
  have outlet : byteAt (le 1 n ++ le 2 mask) 0 = n := byteAt_le n _ (by omega)
  have bits : numAt (le 1 n ++ le 2 mask) 1 2 = mask := numAt_last (le 1 n) 1 2 mask (le_length 1 n) (by omega)
  have run : (meterWarnClearCmd (le 1 n ++ le 2 mask) (touchRole s)).run =
      if warnStands s n mask then { st := touchRole s, status := .notConfirmed } else { st := warnCleared n mask (touchRole s) } := by
    unfold meterWarnClearCmd
    rw [outlet, bits]
    rfl
  have form : (meterWarnClearCmd (le 1 n ++ le 2 mask) (touchRole s)).form = true := by simp [meterWarnClearCmd, le_length]
  have role : (meterWarnClearCmd (le 1 n ++ le 2 mask) (touchRole s)).role = true := beq_iff_eq.mpr role
  have mode : (meterWarnClearCmd (le 1 n ++ le 2 mask) (touchRole s)).mode = true := by
    have mode : (touchRole s).modes.mode = .commissioning := mode
    simp [meterWarnClearCmd, mode]
  have params : (meterWarnClearCmd (le 1 n ++ le 2 mask) (touchRole s)).params = true := by
    have present : (touchRole s).present n = true := present
    simp [meterWarnClearCmd, outlet, bits, present, small]
  have free : (meterWarnClearCmd (le 1 n ++ le 2 mask) (touchRole s)).free = true := by
    have place : noRecordPlace (touchRole s) = false := place
    simp [meterWarnClearCmd, place]
  have host := hostCommand_accepted (cmd := meterWarnClearCmd (le 1 n ++ le 2 mask)) a nofun form role mode rfl params free
    (by rw [run]; split <;> rfl) (by rw [run]; split <;> nofun)
  rw [run] at host
  refine congrArg _ (host.trans ?_)
  by_cases stands : warnStands s n mask = true
  · simp only [if_pos stands]
  · simp only [if_neg stands]

/-- Settles O46, one clause for each command or judgement and what it finds. -/
theorem insulationToneAndWarnings : Obligations.InsulationToneAndWarnings := by
  unfold Obligations.InsulationToneAndWarnings
  refine ⟨?boundary, ?period, ?blind, ?fault, ?valid, ?invalid, ?unavailable, ?pulse, ?standing, ?clears, ?refuses⟩
  case boundary =>
    intro s run boundary new
    obtain ⟨t, p, step, steps, start, number, place⟩ := execPlumbStepBoundary_due run boundary new
    exact ⟨t, p, step, steps, start, number, place, execPlumbStepBoundary_only step⟩
  case period => exact fun p rest s run steps first new due => execPlumbPeriodEnd_judges run steps first new due
  case blind =>
    intro n g e s hn
    rw [judgeIns_blind (.inr rfl)]
    exact congrArg Insul.status (vget_vmod_self _ _ _ hn)
  case fault =>
    intro n g e r s hn works low
    obtain ⟨f, insul, -, status⟩ := judgeIns_reads (g := g) (e := e) (r := r) works
    rw [ins, insul, vget_vmod_self _ _ _ hn]
    exact status low _
  case valid =>
    intro n i q s run present enabled ended
    obtain ⟨record, drift, phase⟩ := toneWindow_read (lt_of_present present) i q s
    refine ⟨_, execToneWindowEnd_ended run present enabled ended, ?_, ?_, ?_, ?_, ?_, drift, phase⟩
    all_goals rw [record]
    all_goals rfl
  case invalid =>
    exact fun n i q s run present enabled ended =>
      (execToneWindowEnd_ended run present enabled ended).trans (congrArg _ (toneWindow_invalid n i q s))
  case unavailable =>
    intro n s run present missing
    have step := execToneUnavailable_missing run present missing
    exact ⟨_, step, (setWarn_warn (lt_of_present present) (by decide) _ _ 2).mpr (.inr rfl), execToneUnavailable_only n step⟩
  case pulse => exact fun k s low due => execPulseEnd_due low due
  case standing =>
    intro n s run present standing first
    obtain ⟨t, step, told, warned⟩ := execStandingEnergy_first run present standing first
    exact ⟨t, step, told, warned, execStandingEnergy_only n step⟩
  case clears =>
    intro h n mask s a role mode present small place calm
    have calm : ¬ warnStands s n mask = true := fun stands => by
      obtain ⟨b, known, masked, holds⟩ := (warnStands_iff s n mask).mp stands
      exact Bool.false_ne_true ((calm b known masked).symm.trans holds)
    have step := execMeterWarnClear_accepted a role mode present small place
    rw [if_neg calm] at step
    exact ⟨_, step, warnCleared_warn (lt_of_present present) mask (touchRole s), warnCleared_seq n mask (touchRole s)⟩
  case refuses =>
    intro h n mask b s a role mode present small place known masked holds
    have step := execMeterWarnClear_accepted a role mode present small place
    rwa [if_pos ((warnStands_iff s n mask).mpr ⟨b, known, masked, holds⟩)] at step

end Sys2Proof.Laws

/-!
PROOF. The seal latch (chapter 7, R261, R264) outlasts every command but RESEAL; and the SEAL fields behind it (R261, R263): refused while the
loop is intact, recorded where a write is accepted.
-/

namespace Sys2Proof.Laws

open Sys2Proof.Machine Sys2Proof.Safety

/-- RESEAL is the only command that need not spare the seal latch. -/
theorem eq_reseal_of_sparesSeal_eq_false {c : Instr} (clears : sparesSeal c = false) : ∃ h p, c = .reseal h p := by
  unfold sparesSeal at clears
  split at clears
  next h p => exact ⟨h, p, rfl⟩
  next => exact nomatch clears

/-- Settles O7: a command that is not RESEAL keeps the latch, as it keeps all that Lasts speaks of. -/
theorem onlyResealClearsBrokenSeal : Obligations.OnlyResealClearsBrokenSeal := by
  unfold Obligations.OnlyResealClearsBrokenSeal
  intro c s t e broken cleared
  cases spares : sparesSeal c with
  | false => exact eq_reseal_of_sparesSeal_eq_false spares
  | true =>
    have kept : t.seals.broken = true := (exec_lasts e).broken spares broken
    exact absurd (kept.symm.trans cleared) (by decide)

/-! Writes of SEAL fields. -/

/-- A command whose form, role and mode are right, and which meets an intact seal (Table 4-7). -/
theorem verdict_sealedHw {c : Cmd} {f : Byte} {s : State} (form : (c.level.formOk f && c.form) = true)
    (role : (c.role && (!flagExpert f || c.readOnly || decide (2 ≤ s.roles.role))) = true) (mode : c.mode = true) (closed : c.unsealed = false) :
    c.verdict f s = some .sealedHw := by
  simp [Cmd.verdict, form, role, mode, closed]

/-- The checks of a write of a SEAL field before that of the seal pass, and that of the seal fails (R261). -/
theorem sealedWrite_verdict {c : Cfg} {h : Hdr} {i : Nat} {data mask : List Byte} {s : State} (flags : commandFlags h.flags = true)
    (basic : flagExpert h.flags = false) (hd : data.length = c.size) (hm : mask.length = c.size)
    (fields : maskOk (c.fields i) (ofBytes mask) false = true) (role : c.writer s.roles.role = true)
    (mode : c.modeOk i (ofBytes mask) (merge (c.value i (settled s)) (ofBytes data) (ofBytes mask)) (settled s) = true)
    (sealed : touchesSeal (c.fields i) (ofBytes mask) = true) (intact : s.seals.loopIntact = true) :
    (c.cmd h i data mask s).verdict h.flags s = some .sealedHw := by
  refine verdict_sealedHw ?form ?role ?mode ?closed
  case form => simp [Cfg.cmd, Level.formOk, flags, basic, hd, hm, fields]
  case role => simp [Cfg.cmd, role, basic]
  case mode => simp only [Cfg.cmd, mode]
  case closed => simp [Cfg.cmd, sealed, intact]

/-- A write of a SEAL field computes MET_HASH anew and signs a PARAMETER record (R263). -/
theorem write_of_touchesSeal {c : Cfg} {i mask : Nat} (sealed : touchesSeal (c.fields i) mask = true) (seq : Byte) (data : Nat) (s : State) :
    c.write i seq data mask s = signParameter (c.outlet i) c.number i (c.bytes i (settled (c.keep i seq data mask s)))
      (metHashed (c.keep i seq data mask s)) := if_pos sealed

theorem signParameter_seq (outlet object index : Nat) (content : List Byte) (s : State) :
    (signParameter outlet object index content s).log.seq = s.log.seq + 1 := by
  unfold signParameter
  exact (sign_log _ s).1

theorem signParameter_seals (outlet object index : Nat) (content : List Byte) (s : State) :
    (signParameter outlet object index content s).seals = s.seals := by
  unfold signParameter
  exact sign_seals _ s

/-- Settles O25: the seal's check is the first that fails; and the record of an accepted write takes the next SEQUENCE. -/
theorem sealedFieldsRefusedAndRecorded : Obligations.SealedFieldsRefusedAndRecorded := by
  unfold Obligations.SealedFieldsRefusedAndRecorded
  refine ⟨?refused, ?recorded⟩
  case refused =>
    intro c h i data mask s a hd hm hi fields role mode sealed intact
    refine congrArg _ (hostCommand_refuse a.runs a.free a.short a.fresh a.rom (not_ack a.flags) ?_)
    rw [objWriteCmd_writePayload h hd hm hi]
    exact sealedWrite_verdict a.flags a.basic hd hm fields role mode sealed intact
  case recorded =>
    intro c i seq data mask s sealed
    rw [write_of_touchesSeal sealed, signParameter_seq, signParameter_seals]
    exact ⟨rfl, rfl⟩

end Sys2Proof.Laws

/-!
PROOF. Boundaries (chapter 7, R249, R250): what the happenings of an instant, and the commits that follow them, leave of legal time, of the
tariffs and of the open demand window.
-/

namespace Sys2Proof.Laws

open Sys2Proof.Machine Sys2Proof.Safety

@[simp] theorem emit_billing (code : Nat) (payload : List Byte) (ack : Bool) (s : State) : (emit code payload ack s).billing = s.billing :=
  Part.kept (p := .billing) (by simp [emit_only, OnlyChanges.refl])

@[simp] theorem event_billing (code : Nat) (payload : List Byte) (s : State) : (event code payload s).billing = s.billing := emit_billing ..

@[simp] theorem journalMet_billing (type key n : Nat) (s : State) : (journalMet type key n s).billing = s.billing :=
  Part.kept (p := .billing) (by simp [journalMet_only, OnlyChanges.refl])

@[simp] theorem signDemandReset_billing (instant : Nat) (adjusted : Bool) (s : State) : (signDemandReset instant adjusted s).billing = s.billing :=
  Part.kept (p := .billing) (by simp [signDemandReset_only, OnlyChanges.refl])

@[simp] theorem commitStep_billing (c : Commit) (s : State) : (commitStep c s).billing = s.billing :=
  Part.kept (p := .billing) (by simp [commitStep_only, OnlyChanges.refl])

@[simp] theorem commitSwitches_billing (byStep : Bool) (c : Commit) (s : State) : (commitSwitches byStep c s).billing = s.billing :=
  Part.kept (p := .billing) (by simp [commitSwitches_only, OnlyChanges.refl])

@[simp] theorem windowNow_clock (s : State) : (windowNow s).clock = s.clock :=
  Part.kept (p := .clock) (by simp [windowNow_only, OnlyChanges.refl])

@[simp] theorem tariffNow_clock (s : State) : (tariffNow s).clock = s.clock :=
  Part.kept (p := .clock) (by simp [tariffNow_only, OnlyChanges.refl])

@[simp] theorem splitAtStep_clock (s : State) : (splitAtStep s).clock = s.clock :=
  Part.kept (p := .clock) (by simp [splitAtStep_only, OnlyChanges.refl])

@[simp] theorem priceCheck_clock (s : State) : (priceCheck s).clock = s.clock :=
  Part.kept (p := .clock) (by simp [priceCheck_only, OnlyChanges.refl])

@[simp] theorem takeBoundary_clock (c : Commit) (s : State) : (takeBoundary c s).clock = s.clock := rfl

@[simp] theorem resetTaken_clock (s : State) : (resetTaken s).clock = s.clock :=
  Part.kept (p := .clock) (by simp [resetTaken_only, OnlyChanges.refl])

/-! Legal time. -/

/-- Of the clock the record of a step writes LAST_STEP_SEQ alone. -/
theorem commitStep_clock (c : Commit) (s : State) : ∃ q, (commitStep c s).clock = { s.clock with lastStepSeq := q } := by
  unfold commitStep
  split
  next old n step => exact ⟨_, by simp only [timeAdjusted_clock, sign_clock]; rfl⟩
  next => exact ⟨s.clock.lastStepSeq, rfl⟩

theorem commitOne_clock (c : Commit) (s : State) : ∃ q, (commitOne c s).clock = { s.clock with lastStepSeq := q } := by
  simpa [commitOne] using commitStep_clock c (commitSwitches false c (commitRecord c (evaluateAt c s)))

theorem runCommits_clock (k : Nat) (s : State) : ∃ q, (runCommits k s).clock = { s.clock with lastStepSeq := q } := by
  induction k generalizing s with
  | zero => exact ⟨s.clock.lastStepSeq, rfl⟩
  | succ k ih =>
    simp only [runCommits]
    split
    next c rest list =>
      split
      · exact ⟨s.clock.lastStepSeq, rfl⟩
      · obtain ⟨q, clock⟩ := ih (commitOne c s)
        obtain ⟨r, one⟩ := commitOne_clock c s
        exact ⟨q, by rw [clock, one]⟩
    next => exact ⟨s.clock.lastStepSeq, rfl⟩

/-- Legal time and its corrections outlast the commits. -/
theorem commits_clock (s : State) : ∃ q, (commits s).clock = { s.clock with lastStepSeq := q } := runCommits_clock _ s

/-! The tariffs and the open window. -/

/-- The open demand window: its start and what each unit has taken and given since (R244). -/
def openWindow (b : Billing) : Nat × (Nat → Nat × Nat) :=
  (b.subStart, fun u => ((vget b.demand u {}).subImp, (vget b.demand u {}).subExp))

/-- What no commit touches of the tariffs and the demand. -/
def runsOn (b : Billing) : (Nat × (Nat → Nat × Nat)) × Nat × Vector CalEntry 64 := (openWindow b, b.active, b.calendar)

/-- Demand whose open sub-interval is the same for every unit. -/
theorem runsOn_demand (b : Billing) {l : Vector DemandU 9} (imp : ∀ u, (vget l u {}).subImp = (vget b.demand u {}).subImp)
    (exp : ∀ u, (vget l u {}).subExp = (vget b.demand u {}).subExp) : runsOn { b with demand := l } = runsOn b := by
  simp only [runsOn, openWindow, imp, exp]

/-- A unit's demand rewritten, but for its open sub-interval. -/
theorem runsOn_vmod (b : Billing) (u : Nat) {f : DemandU → DemandU} (imp : ∀ x, (f x).subImp = x.subImp) (exp : ∀ x, (f x).subExp = x.subExp) :
    runsOn { b with demand := vmod b.demand u f } = runsOn b :=
  runsOn_demand b (fun v => vget_vmod_field b.demand u v {} DemandU.subImp imp) (fun v => vget_vmod_field b.demand u v {} DemandU.subExp exp)

/-- The demand of a unit. -/
def demandOf (s : State) (u : Nat) : DemandU := vget s.billing.demand u {}

/-- The maximum of a unit in one direction (R245). -/
def maxOf (d : Nat) (x : DemandU) : Nat := if d = 0 then x.maxImp else x.maxExp

/-- A window kept as the maximum of a unit in one direction. -/
def newMax (d w no : Nat) (e : Eval) (x : DemandU) : DemandU :=
  if d = 0 then { x with maxImp := w, maxImpAt := e.instant, maxImpAdj := e.adjusted, maxImpBnd := no }
  else { x with maxExp := w, maxExpAt := e.instant, maxExpAdj := e.adjusted, maxExpBnd := no }

/-- A window is kept where it is larger than the maximum (R245). -/
theorem judgeMax_billing (u d w no : Nat) (e : Eval) (s : State) : (judgeMax u d w no e s).billing =
    if w ≤ maxOf d (demandOf s u) then s.billing else { s.billing with demand := vmod s.billing.demand u (newMax d w no e) } := by
  have cases := apply_ite State.billing (w ≤ maxOf d (demandOf s u)) s (event 0x0421 (le 1 u ++ le 1 d ++ le 4 w ++ stampB e.instant)
    (s.withBilling { s.billing with demand := vmod s.billing.demand u (newMax d w no e) }))
  rw [event_billing] at cases
  exact cases

theorem judgeMax_runsOn (u d w no : Nat) (e : Eval) (s : State) : runsOn (judgeMax u d w no e s).billing = runsOn s.billing := by
  rw [judgeMax_billing]
  split
  · rfl
  · exact runsOn_vmod s.billing u (fun x => by unfold newMax; split <;> rfl) (fun x => by unfold newMax; split <;> rfl)

/-- What a window took, in W, as a unit's demand keeps it (R245). -/
def windowImport (e : Eval) (u : Nat) : Nat := sat 32 (demandW e.minutes (vget e.energy u (0, 0)).1)

/-- What a window gave, likewise. -/
def windowExport (e : Eval) (u : Nat) : Nat := sat 32 (demandW e.minutes (vget e.energy u (0, 0)).2)

/-- s with a closed window kept as the last of unit u. -/
def lastWindow (wi we : Nat) (e : Eval) (u : Nat) (s : State) : State :=
  { s with billing := { s.billing with demand := vmod s.billing.demand u (fun y =>
    { y with lastImp := wi, lastExp := we, lastEnd := e.instant, lastPartial := e.cut, lastAdjusted := e.adjusted }) } }

/-- The evaluation of a closed window for one unit. -/
def evaluateUnit (no : Nat) (e : Eval) (s : State) (u : Nat) : State :=
  judgeMax u 1 (windowExport e u) no e (judgeMax u 0 (windowImport e u) no e (lastWindow (windowImport e u) (windowExport e u) e u s))

theorem evaluateWindow_eq (no : Nat) (e : Eval) (s : State) :
    evaluateWindow no e s = if e.frozen then s else (units s).foldl (evaluateUnit no e) s := by
  unfold evaluateWindow evaluateUnit lastWindow windowImport windowExport
  rfl

theorem evaluateUnit_runsOn (no : Nat) (e : Eval) (s : State) (u : Nat) : runsOn (evaluateUnit no e s u).billing = runsOn s.billing := by
  rw [evaluateUnit, judgeMax_runsOn, judgeMax_runsOn]
  exact runsOn_vmod s.billing u (fun _ => rfl) (fun _ => rfl)

theorem evaluateWindow_runsOn (no : Nat) (e : Eval) (s : State) : runsOn (evaluateWindow no e s).billing = runsOn s.billing := by
  rw [evaluateWindow_eq]
  split
  · rfl
  · exact foldl_kept (fun s => runsOn s.billing) (evaluateUnit_runsOn no e) _ _

theorem evaluateAt_runsOn (c : Commit) (s : State) : runsOn (evaluateAt c s).billing = runsOn s.billing :=
  foldl_kept (fun s => runsOn s.billing) (fun s e => evaluateWindow_runsOn _ e s) _ _

theorem commitRecord_runsOn (c : Commit) (s : State) : runsOn (commitRecord c s).billing = runsOn s.billing := by
  unfold commitRecord
  dsimp only
  rw [journalMet_billing]
  rfl

/-- A field that a rewriting of every entry keeps. -/
theorem vget_map_field {α β : Type} {n : Nat} (v : Vector α n) (i : Nat) {f : α → α} (d : α) (g : α → β) (kept : ∀ x, g (f x) = g x) :
    g (vget (v.map f) i d) = g (vget v i d) := by
  by_cases inside : i < n
  · rw [vget_map inside, kept]
  · simp [vget, inside]

theorem commitReset_runsOn (c : Commit) (s : State) : runsOn (commitReset c s).billing = runsOn s.billing := by
  unfold commitReset
  split
  next ack instant reset =>
    dsimp only
    rw [emit_billing, signDemandReset_billing, Commit.demand, reset]
    exact runsOn_demand s.billing (fun u => vget_map_field (f := DemandU.reset instant) _ u {} DemandU.subImp (fun _ => rfl))
      (fun u => vget_map_field (f := DemandU.reset instant) _ u {} DemandU.subExp (fun _ => rfl))
  next => rfl

theorem commitOne_runsOn (c : Commit) (s : State) : runsOn (commitOne c s).billing = runsOn s.billing := by
  rw [commitOne, commitReset_runsOn, commitSwitches_billing, commitStep_billing, commitSwitches_billing, commitRecord_runsOn,
    evaluateAt_runsOn]

theorem runCommits_runsOn (k : Nat) (s : State) : runsOn (runCommits k s).billing = runsOn s.billing := by
  induction k generalizing s with
  | zero => rfl
  | succ k ih =>
    simp only [runCommits]
    repeat' split
    · rfl
    · rw [ih, commitOne_runsOn]
    · rfl

theorem commits_runsOn (s : State) : runsOn (commits s).billing = runsOn s.billing := runCommits_runsOn _ s

theorem priceCheck_runsOn (s : State) : runsOn (priceCheck s).billing = runsOn s.billing := by
  unfold priceCheck
  dsimp only
  split
  · rfl
  · rw [event_billing]
    rfl

theorem takeBoundary_runsOn (c : Commit) (s : State) : runsOn (takeBoundary c s).billing = runsOn s.billing := rfl

theorem resetTaken_runsOn (s : State) : runsOn (resetTaken s).billing = runsOn s.billing := by
  unfold resetTaken
  split <;> rfl

theorem openWindow_of_runsOn {b d : Billing} (same : runsOn b = runsOn d) : openWindow b = openWindow d := congrArg (·.1) same

theorem subStart_of_runsOn {b d : Billing} (same : runsOn b = runsOn d) : b.subStart = d.subStart := congrArg (·.1.1) same

theorem active_of_runsOn {b d : Billing} (same : runsOn b = runsOn d) : b.active = d.active := congrArg (·.2.1) same

theorem calendar_of_runsOn {b d : Billing} (same : runsOn b = runsOn d) : b.calendar = d.calendar := congrArg (·.2.2) same

/-! The happenings of an instant (R249). -/

/-- A clock step is due as before where legal time, supply and reset controller are the same. -/
theorem stepDue_congr {s t : State} (clock : t.clock = s.clock) (power : t.power = s.power) (rst : t.rst = s.rst) : stepDue t = stepDue s := by
  have runs : t.regionsRun = s.regionsRun := regionsRun_congr (by rw [power]) (by rw [rst]) (by rw [rst])
  rw [stepDue, stepDue, atSuperframe, atSuperframe, runs, clock]

/-- The window and the tariff of an instant, which come before a step, leave it due. -/
theorem stepDue_tariffNow (s : State) : stepDue (tariffNow (windowNow s)) = stepDue s := by
  have only : OnlyChanges [.port, .billing, .store] s (tariffNow (windowNow s)) :=
    tariffNow_only (by decide) (by decide) (by decide) (windowNow_only (by decide) (.refl _ s))
  exact stepDue_congr (only .clock (by decide)) (only .power (by decide)) (only .rst (by decide))

theorem boundaryNow_step {d : Int} {s : State} (due : stepDue s = some d) :
    boundaryNow s = commits (resetTaken (stepNow d (tariffNow (windowNow s)))) := by
  unfold boundaryNow
  dsimp only
  rw [stepDue_tariffNow, due]

theorem boundaryNow_noStep {s : State} (calm : stepDue s = none) : boundaryNow s = commits (resetTaken (tariffNow (windowNow s))) := by
  unfold boundaryNow
  dsimp only
  rw [stepDue_tariffNow, calm]

theorem boundaryNow_runsOn {s : State} (calm : stepDue s = none) :
    runsOn (boundaryNow s).billing = runsOn (tariffNow (windowNow s)).billing := by
  rw [boundaryNow_noStep calm, commits_runsOn, resetTaken_runsOn]

end Sys2Proof.Laws

/-!
PROOF. Legal time (chapter 7, R231 to R234): TIME_SET, the set from invalid time, and the clock step.
-/

namespace Sys2Proof.Laws

open Sys2Proof.Machine Sys2Proof.Safety

/-! TIME_SET. -/

/-- The slew limit of R232: a correction by itself within 9 s is implied by the sum of 24 h. -/
theorem slewed_iff (d : Int) (n : Nat) :
    (decide (d.natAbs ≤ nineSeconds) && decide (d.natAbs + n ≤ nineSeconds)) = true ↔ d.natAbs + n ≤ 225000000 := by
  rw [Bool.and_eq_true, decide_eq_true_iff, decide_eq_true_iff, nineSeconds]
  exact ⟨And.right, fun sum => ⟨Nat.le_of_add_right_le sum, sum⟩⟩

section TimeSet

variable {h : Hdr} {f g a : Nat} {d : Int} {s : State}

/-- A TIME_SET that spells a frame is answered with what its execution yields. -/
theorem execTimeSet_accepted {r : Result} (acc : Accepted h 0x0410 (le 6 f ++ le 1 a) s) (role : 1 ≤ s.roles.role) (inside : f < 2 ^ 48)
    (spelt : frameOf f = some g) (flag : a ≤ 1)
    (cmd : (timeSetCmd h (le 6 f ++ le 1 a) (touchRole s)).free = true ∧ (timeSetCmd h (le 6 f ++ le 1 a) (touchRole s)).run = r)
    (w : r.wait = none) (n : r.status ≠ .noLeave) :
    execTimeSet h (le 6 f ++ le 1 a) s = .next (answered s h 0x0410 (le 6 f ++ le 1 a) r.status r.data r.st) := by
  have time : numAt (le 6 f ++ le 1 a) 0 6 = f := numAt_le 6 f _ inside
  have allow : byteAt (le 6 f ++ le 1 a) 6 = a := byteAt_last (le 6 f) (by omega)
  obtain ⟨free, run⟩ := cmd
  have form : (timeSetCmd h (le 6 f ++ le 1 a) (touchRole s)).form = true := by simp [timeSetCmd, le_length]
  have role : (timeSetCmd h (le 6 f ++ le 1 a) (touchRole s)).role = true := decide_eq_true role
  have params : (timeSetCmd h (le 6 f ++ le 1 a) (touchRole s)).params = true := by simp [timeSetCmd, time, allow, spelt, flag]
  have host := hostCommand_accepted (cmd := fun s => timeSetCmd h (le 6 f ++ le 1 a) s) acc nofun form role rfl rfl params free
    (by rw [run]; exact w) (by rw [run]; exact n)
  rw [run] at host
  exact congrArg _ host

/-- From invalid time the set waits for its superframe tick (R231). -/
theorem timeSetCmd_first (inside : f < 2 ^ 48) (spelt : frameOf f = some g) (invalid : s.clock.valid = false) :
    (timeSetCmd h (le 6 f ++ le 1 a) s).free = true ∧ (timeSetCmd h (le 6 f ++ le 1 a) s).run =
      { st := s.withClock { s.clock with pendingSet := some (g, s.clock.tick), stepAck := flagAck h.flags } } := by
  have time : numAt (le 6 f ++ le 1 a) 0 6 = f := numAt_le 6 f _ inside
  simp [timeSetCmd, time, spelt, invalid, State.now]

/-- A correction within the limit is slewed, and counts for 24 h (R232). -/
theorem timeSetCmd_slews (inside : f < 2 ^ 48) (spelt : frameOf f = some g) (valid : s.clock.valid = true)
    (correction : d = ((g : Int) - s.clock.legal) * 1250) (small : d.natAbs + slewSum s ≤ 225000000) :
    (timeSetCmd h (le 6 f ++ le 1 a) s).free = true ∧ (timeSetCmd h (le 6 f ++ le 1 a) s).run =
      { st := timeAdjusted 0 (d / 25000) s.clock.legal 0 (flagAck h.flags) (s.withClock { s.clock with
          slew := d, pendingStep := none, slews := (s.clock.tick, d.natAbs) :: s.clock.slews }) } := by
  have time : numAt (le 6 f ++ le 1 a) 0 6 = f := numAt_le 6 f _ inside
  subst correction
  have small := (slewed_iff _ _).mpr small
  simp only [timeSetCmd, time, spelt, valid, Option.getD_some, frameCycles, small]
  exact ⟨rfl, rfl⟩

/-- A larger one is not made unasked (R232). -/
theorem timeSetCmd_refuses (inside : f < 2 ^ 48) (spelt : frameOf f = some g) (valid : s.clock.valid = true)
    (correction : d = ((g : Int) - s.clock.legal) * 1250) (large : 225000000 < d.natAbs + slewSum s) :
    (timeSetCmd h (le 6 f ++ le 1 0) s).free = true ∧
      (timeSetCmd h (le 6 f ++ le 1 0) s).run = { st := s, status := .notConfirmed } := by
  have time : numAt (le 6 f ++ le 1 0) 0 6 = f := numAt_le 6 f _ inside
  have allow : byteAt (le 6 f ++ le 1 0) 6 = 0 := byteAt_last (le 6 f) (by decide)
  subst correction
  have large := Bool.eq_false_iff.mpr (mt (slewed_iff _ _).mp (Nat.not_le.mpr large))
  simp only [timeSetCmd, time, spelt, valid, Option.getD_some, frameCycles, large, allow]
  exact ⟨by simp, rfl⟩

/-- Asked for, it is queued as a step, where it has a superframe to make and its record a place (R234). -/
theorem timeSetCmd_steps (inside : f < 2 ^ 48) (spelt : frameOf f = some g) (valid : s.clock.valid = true)
    (correction : d = ((g : Int) - s.clock.legal) * 1250) (large : 225000000 < d.natAbs + slewSum s)
    (step : roundSuper ((g : Int) - s.clock.legal) ≠ 0) (place : noRecordPlace s = false) :
    (timeSetCmd h (le 6 f ++ le 1 1) s).free = true ∧ (timeSetCmd h (le 6 f ++ le 1 1) s).run =
      { st := s.withClock { s.clock with pendingStep := some d, stepAck := flagAck h.flags }, status := .queued } := by
  have time : numAt (le 6 f ++ le 1 1) 0 6 = f := numAt_le 6 f _ inside
  have allow : byteAt (le 6 f ++ le 1 1) 6 = 1 := byteAt_last (le 6 f) (by decide)
  subst correction
  have large := Bool.eq_false_iff.mpr (mt (slewed_iff _ _).mp (Nat.not_le.mpr large))
  simp only [timeSetCmd, time, spelt, valid, Option.getD_some, frameCycles, large, allow, place, step]
  exact ⟨by simp, rfl⟩

end TimeSet

/-! The set and the step as they apply. -/

theorem timeAdjusted_log (kind : Nat) (ms : Int) (after seq : Nat) (ack : Bool) (s : State) : (timeAdjusted kind ms after seq ack s).log = s.log :=
  emit_log ..

/-- At its superframe tick the set makes legal time valid, at the nearest superframe, and signs its record (R231). -/
theorem execTimeSetApply_due {g t0 : Nat} {s : State} (pending : s.clock.pendingSet = some (g, t0)) (tick : atSuperframe s = true) :
    ∃ t, execTimeSetApply s = .next t ∧ t.log.seq = s.log.seq + 1 ∧ ∃ slew, t.clock = { s.clock with
      legal := (roundSuper ((g + (s.clock.tick - t0) : Nat) : Int)).toNat, valid := true, slew := slew, pendingSet := none,
      pendingStep := none, stepAck := false } := by
  refine ⟨_, by simp only [execTimeSetApply, pending, tick, Bool.not_true, Bool.false_eq_true, if_false]; rfl, ?_⟩
  rw [timeAdjusted_log, timeAdjusted_clock, (sign_log _ _).1, sign_clock]
  exact ⟨rfl, _, rfl⟩

/-- A step moves legal time by whole superframes and leaves the rest to a slew (R234); a window begins at the new time (R251). -/
theorem stepNow_clock (d : Int) (s : State) : (stepNow d s).clock = { s.clock with
    legal := ((s.clock.legal : Int) + roundSuper (d / 1250)).toNat, slew := d - roundSuper (d / 1250) * 1250, pendingStep := none,
    stepAck := false } := by
  unfold stepNow
  dsimp only
  rw [priceCheck_clock, takeBoundary_clock, splitAtStep_clock]
  rfl

theorem stepNow_subStart (d : Int) (s : State) : (stepNow d s).billing.subStart = (stepNow d s).clock.legal := by
  rw [stepNow_clock]
  exact subStart_of_runsOn ((priceCheck_runsOn _).trans (takeBoundary_runsOn _ _))

theorem execClockStep_due {d : Int} {s : State} (due : stepDue s = some d) : execClockStep s = .next (boundaryNow s) := by
  simp [execClockStep, due]

/-- Settles O47: what TIME_SET executes in each case, and the two happenings it may lead to. -/
theorem legalTimeSet : Obligations.LegalTimeSet := by
  unfold Obligations.LegalTimeSet
  refine ⟨?first, ?slews, ?refuses, ?steps, ?set, ?step⟩
  case first =>
    exact fun h f g a s acc role inside spelt flag invalid =>
      execTimeSet_accepted acc role inside spelt flag (timeSetCmd_first (s := touchRole s) inside spelt invalid) rfl nofun
  case slews =>
    exact fun h f g a d s acc role inside spelt flag valid correction small =>
      execTimeSet_accepted acc role inside spelt flag (timeSetCmd_slews (s := touchRole s) inside spelt valid correction small) rfl nofun
  case refuses =>
    exact fun h f g d s acc role inside spelt valid correction large =>
      execTimeSet_accepted acc role inside spelt (by decide) (timeSetCmd_refuses (s := touchRole s) inside spelt valid correction large) rfl nofun
  case steps =>
    exact fun h f g d s acc role inside spelt valid correction large step place =>
      execTimeSet_accepted acc role inside spelt (by decide)
        (timeSetCmd_steps (s := touchRole s) inside spelt valid correction large step place) rfl nofun
  case set =>
    intro g t0 s pending tick
    obtain ⟨t, step, record, slew, clock⟩ := execTimeSetApply_due pending tick
    refine ⟨t, step, ?_⟩
    rw [clock]
    exact ⟨rfl, rfl, rfl, record, rfl⟩
  case step =>
    intro d s due
    refine ⟨_, execClockStep_due due, ?_⟩
    rw [boundaryNow_step due]
    obtain ⟨q, clock⟩ := commits_clock (resetTaken (stepNow d (tariffNow (windowNow s))))
    have window := subStart_of_runsOn ((commits_runsOn _).trans (resetTaken_runsOn (stepNow d (tariffNow (windowNow s)))))
    rw [window, stepNow_subStart, clock, resetTaken_clock, stepNow_clock, tariffNow_clock, windowNow_clock]
    exact ⟨rfl, rfl, rfl, rfl, rfl⟩

end Sys2Proof.Laws

/-!
PROOF. Tariffs (chapter 7, R235 to R239): an announced entry, the change at its second, and its expiry.
-/

namespace Sys2Proof.Laws

open Sys2Proof.Machine Sys2Proof.Safety

/-! TARIFF_ANNOUNCE (R236). -/

theorem vget_vset_self {α : Type} {n i : Nat} (inside : i < n) (v : Vector α n) (x d : α) : vget (vset v i x) i d = x := by
  simp [vget, vset, inside]

/-- An entry of an array is one of its elements. -/
theorem vget_mem {α : Type} {n i : Nat} (inside : i < n) (v : Vector α n) (d : α) : vget v i d ∈ v := by
  simp [vget, inside]

/-- A calendar with at most 63 entries has an empty place. -/
theorem exists_empty_entry {s : State} (room : (calFind s (fun e => e.state != 0)).length ≤ 63) :
    ∃ i, i < 64 ∧ (vget s.billing.calendar i {}).state = 0 := by
  by_contra full
  have used : ∀ e ∈ s.billing.calendar.toList, (e.state != 0) = true := by
    intro e he
    obtain ⟨i, inside, rfl⟩ := List.getElem_of_mem he
    have inside : i < 64 := by simpa using inside
    have occupied : (vget s.billing.calendar i {}).state ≠ 0 := fun empty => full ⟨i, inside, empty⟩
    simpa [vget, inside] using occupied
  rw [calFind, List.filter_eq_self.mpr used, Vector.length_toList] at room
  exact absurd room (by decide)

/-- An entry put into a calendar that has an empty place is in it. -/
theorem mem_putEntry {cal : Vector CalEntry 64} (e : CalEntry) (empty : ∃ i, i < 64 ∧ (vget cal i {}).state = 0) : e ∈ putEntry e cal := by
  obtain ⟨i, inside, free⟩ := empty
  unfold putEntry
  split
  next k found =>
    have inside : k < 64 := List.mem_range.mp (List.mem_of_find?_eq_some found)
    have mem := vget_mem inside (vset cal k e) {}
    rwa [vget_vset_self inside] at mem
  next none =>
    have occupied := List.find?_eq_none.mp none i (List.mem_range.mpr inside)
    exact absurd (beq_iff_eq.mpr free) occupied

/-- The payload of an announcement of one entry. -/
def announcement (start tf : Nat) : List Byte := le 1 1 ++ le 4 start ++ le 1 tf ++ le 1 0

theorem calActions_announcement {start tf : Nat} (hs : start < 2 ^ 32) (ht : tf ≤ 7) :
    calActions (announcement start tf) = [{ start := start, tariff := tf, action := 0 }] := by
  have count : byteAt (announcement start tf) 0 = 1 := rfl
  have first : numAt (announcement start tf) 1 4 = start := by
    have payload : announcement start tf = le 1 1 ++ (le 4 start ++ (le 1 tf ++ le 1 0)) := by simp [announcement]
    rw [payload, numAt_append (le 1 1) _ 1 4 start rfl hs]
  have second : byteAt (announcement start tf) 5 = tf := by
    have small : tf % 256 = tf := Nat.mod_eq_of_lt (by omega)
    simp [announcement, byteAt, le, small]
  have third : byteAt (announcement start tf) 6 = 0 := rfl
  simp [calActions, count, first, second, third]

/-- The entry of an announcement while a tariff is active. -/
def announced (start tf : Nat) : CalEntry := { start := start, tariff := tf, state := 1 }

/-- s with an entry put into the calendar. -/
def withEntry (e : CalEntry) (s : State) : State := s.withBilling { s.billing with calendar := putEntry e s.billing.calendar }

/-- An announcement of one entry while a tariff is active: the entry is put into the calendar (R236). -/
theorem execTariffAnnounce_accepted {h : Hdr} {start tf : Nat} {s : State} (a : Accepted h 0x0411 (announcement start tf) s)
    (role : 1 ≤ s.roles.role) (active : s.billing.active < 8) (known : tf ≤ 7) (inside : start < 2 ^ 32) (tariff : versionOf s tf ≠ 0)
    (near : start * 20000 ≤ s.clock.legal + 691200000000) (late : s.clock.legal + 1200000 ≤ start * 20000)
    (room : (calFind s (fun e => e.state != 0)).length ≤ 63) (apart : ∀ e ∈ calFind s (fun e => e.state != 0), e.start ≠ start) :
    execTariffAnnounce h (announcement start tf) s =
      .next (answered s h 0x0411 (announcement start tf) .ok [] (withEntry (announced start tf) (touchRole s))) := by
  have role := role_le_touchRole role
  have actions := calActions_announcement inside known
  have count : byteAt (announcement start tf) 0 = 1 := rfl
  have size : (announcement start tf).length = 7 := by simp [announcement, le_length]
  have billing : (touchRole s).billing = s.billing := rfl
  have legal : (touchRole s).clock.legal = s.clock.legal := rfl
  have version : versionOf (touchRole s) tf = versionOf s tf := rfl
  have entries : calFind (touchRole s) (fun e => e.state != 0) = calFind s (fun e => e.state != 0) := rfl
  have some : ¬ 8 ≤ s.billing.active := Nat.not_le.mpr active
  have fresh : (calFind s (fun e => e.state != 0)).any (fun e => e.start == start) = false := by
    simpa [List.any_eq_false] using apart
  have fits : (calFind s (fun e => e.state != 0)).length + 1 ≤ 64 := by omega
  have cmd : tariffAnnounceCmd (announcement start tf) (touchRole s) =
      { readOnly := false, run := { st := withEntry (announced start tf) (touchRole s) } } := by
    simp [tariffAnnounceCmd, actions, count, size, billing, legal, version, entries, role, known, tariff, near, late, some, fresh, fits,
      secF, withEntry, announced]
  exact congrArg _ (hostCommand_checked a cmd rfl nofun)

theorem withBilling_only {l : List Part} {u s : State} (v : Billing) (k : Part.billing ∈ l) (h : OnlyChanges l u s) :
    OnlyChanges l u (s.withBilling v) := by
  apply OnlyChanges.upd h
  case h12 => exact fun absent => absurd k absent
  all_goals exact fun _ => rfl

/-! The change at an entry's second (R238). -/

theorem windowNow_calendar (s : State) : (windowNow s).billing.calendar = s.billing.calendar := by
  unfold windowNow
  dsimp only
  split <;> rfl

theorem entryDue_windowNow (s : State) (e : CalEntry) : entryDue (windowNow s) e = entryDue s e := by
  simp only [entryDue, windowNow_clock]

/-- The window of an instant, which comes first, leaves the entry that is due. -/
theorem dueEntry_windowNow (s : State) : dueEntry (windowNow s) = dueEntry s := by
  have due : entryDue (windowNow s) = entryDue s := funext (entryDue_windowNow s)
  simp only [dueEntry, calFind, windowNow_clock, windowNow_calendar, due]

/-- The tariff of the due entry takes over, and every entry that is due is processed. -/
theorem tariffNow_due {e : CalEntry} {s : State} (due : dueEntry s = some e) : (tariffNow s).billing.active = e.tariff ∧
    (tariffNow s).billing.calendar = s.billing.calendar.map (fun x => if entryDue s x then { x with state := 2, soon := false } else x) := by
  unfold tariffNow
  rw [due]
  dsimp only
  exact ⟨active_of_runsOn ((priceCheck_runsOn _).trans (takeBoundary_runsOn _ _)),
    calendar_of_runsOn ((priceCheck_runsOn _).trans (takeBoundary_runsOn _ _))⟩

theorem tariffNow_openWindow (s : State) : openWindow (tariffNow s).billing = openWindow s.billing := by
  unfold tariffNow
  split
  next => rfl
  next e due =>
    dsimp only
    rw [openWindow_of_runsOn (priceCheck_runsOn _), openWindow_of_runsOn (takeBoundary_runsOn _ _)]
    rfl

theorem execTariffBoundary_due {e : CalEntry} {s : State} (run : s.regionsRun = true) (due : dueEntry s = some e) :
    execTariffBoundary s = .next (boundaryNow s) := by
  simp [execTariffBoundary, run, due]

/-- The boundary leaves the tariff and the calendar as the change of tariff has made them. -/
theorem boundaryNow_tariff {e : CalEntry} {s : State} (due : dueEntry s = some e) (calm : stepDue s = none) :
    (boundaryNow s).billing.active = e.tariff ∧
      (boundaryNow s).billing.calendar = s.billing.calendar.map (fun x => if entryDue s x then { x with state := 2, soon := false } else x) := by
  obtain ⟨active, calendar⟩ := tariffNow_due ((dueEntry_windowNow s).trans due)
  have kept := boundaryNow_runsOn calm
  rw [active_of_runsOn kept, calendar_of_runsOn kept, active, calendar, windowNow_calendar]
  exact ⟨rfl, congrArg (Vector.map · _) (funext fun x => by rw [entryDue_windowNow])⟩

/-- A processed entry leaves the calendar 24 h after its time (R236). -/
theorem execCalendarEntryExpiry_due {i : Nat} {s : State} (run : s.regionsRun = true) (processed : (calEntry s i).state = 2)
    (old : ((calEntry s i).start + 86400) * 20000 ≤ s.clock.legal) : execCalendarEntryExpiry i s =
      .next (s.withBilling { s.billing with calendar := vset s.billing.calendar i {} }) := by
  simp [execCalendarEntryExpiry, run, processed, old]

end Sys2Proof.Laws

/-!
PROOF. Maximum demand (chapter 7, R244, R245, R248 to R250): windows close, their boundaries are committed once their shares are in, and
DEMAND_RESET clears the maxima.
-/

namespace Sys2Proof.Laws

open Sys2Proof.Machine Sys2Proof.Safety

@[simp] theorem evaluateAt_log (c : Commit) (s : State) : (evaluateAt c s).log = s.log :=
  Part.kept (p := .log) (by simp [evaluateAt_only, OnlyChanges.refl])

@[simp] theorem commitRecord_log (c : Commit) (s : State) : (commitRecord c s).log = s.log :=
  Part.kept (p := .log) (by simp [commitRecord_only, OnlyChanges.refl])

/-! A sub-interval ends (R244). -/

/-- The closed window leaves a new one that begins at the boundary, with nothing in it. -/
theorem closeWindow_openWindow (instant tick : Nat) (cut : Bool) (s : State) :
    openWindow (closeWindow instant tick cut s).billing = (instant, fun _ => (0, 0)) := by
  unfold closeWindow openWindow
  dsimp only
  congr 1
  funext u
  by_cases inside : u < 9
  · simp [vget, inside]
  · simp [vget, inside]

theorem windowNow_due {s : State} (due : windowDue s = true) : openWindow (windowNow s).billing = (gridInstant s, fun _ => (0, 0)) := by
  unfold windowNow
  dsimp only
  rw [if_pos due]
  exact closeWindow_openWindow (gridInstant s) (s.now - (s.clock.legal - gridInstant s)) false s

theorem execDemandWindowEnd_due {s : State} (run : s.regionsRun = true) (due : windowDue s = true) :
    execDemandWindowEnd s = .next (boundaryNow s) := by
  simp [execDemandWindowEnd, run, due]

/-- No other happening of the boundary and no commit touches the new window. -/
theorem boundaryNow_openWindow {s : State} (due : windowDue s = true) (calm : stepDue s = none) :
    openWindow (boundaryNow s).billing = (gridInstant s, fun _ => (0, 0)) := by
  rw [openWindow_of_runsOn (boundaryNow_runsOn calm), tariffNow_openWindow, windowNow_due due]

/-! The evaluation of a window (R245). -/

/-- The billing state apart from the demand of the units. -/
def exceptDemand (b : Billing) : Billing := { b with demand := Vector.replicate 9 {} }

theorem judgeMax_exceptDemand (u d w no : Nat) (e : Eval) (s : State) :
    exceptDemand (judgeMax u d w no e s).billing = exceptDemand s.billing := by
  rw [judgeMax_billing]
  split <;> rfl

theorem evaluateUnit_exceptDemand (no : Nat) (e : Eval) (s : State) (u : Nat) :
    exceptDemand (evaluateUnit no e s u).billing = exceptDemand s.billing := by
  rw [evaluateUnit, judgeMax_exceptDemand, judgeMax_exceptDemand]
  rfl

theorem evaluateWindow_exceptDemand (no : Nat) (e : Eval) (s : State) :
    exceptDemand (evaluateWindow no e s).billing = exceptDemand s.billing := by
  rw [evaluateWindow_eq]
  split
  · rfl
  · exact foldl_kept (fun s => exceptDemand s.billing) (evaluateUnit_exceptDemand no e) _ _

/-- Beside the demand, an evaluation takes its windows from those that wait. -/
theorem evaluateAt_exceptDemand (c : Commit) (s : State) : exceptDemand (evaluateAt c s).billing =
    exceptDemand { s.billing with evals := s.billing.evals.filter (fun e => e.tick != c.tick) } :=
  foldl_kept (fun s => exceptDemand s.billing) (fun s e => evaluateWindow_exceptDemand _ e s) _ _

/-- The judgement of one unit leaves every other. -/
theorem demandOf_judgeMax_of_ne {u v : Nat} (other : u ≠ v) (d w no : Nat) (e : Eval) (s : State) :
    demandOf (judgeMax v d w no e s) u = demandOf s u := by
  rw [demandOf, judgeMax_billing]
  split
  · rfl
  · exact vget_vmod_of_ne _ _ _ other

/-- The judgement of the energy taken keeps the larger of the window and the maximum. -/
theorem demandOf_judgeMax_taken {u : Nat} (inside : u < 9) (w no : Nat) (e : Eval) (s : State) :
    (demandOf (judgeMax u 0 w no e s) u).maxImp = max (demandOf s u).maxImp w ∧
      (demandOf (judgeMax u 0 w no e s) u).lastImp = (demandOf s u).lastImp := by
  rw [demandOf, judgeMax_billing]
  split
  next small => exact ⟨(Nat.max_eq_left small).symm, rfl⟩
  next large =>
    rw [vget_vmod_self _ _ _ inside]
    exact ⟨(Nat.max_eq_right (Nat.le_of_not_le large)).symm, rfl⟩

/-- The judgement of the energy given leaves what is kept of the energy taken. -/
theorem demandOf_judgeMax_given (u v w no : Nat) (e : Eval) (s : State) :
    (demandOf (judgeMax v 1 w no e s) u).maxImp = (demandOf s u).maxImp ∧
      (demandOf (judgeMax v 1 w no e s) u).lastImp = (demandOf s u).lastImp := by
  rw [demandOf, judgeMax_billing]
  split
  next => exact ⟨rfl, rfl⟩
  next => exact ⟨vget_vmod_field _ _ _ _ DemandU.maxImp (fun _ => rfl), vget_vmod_field _ _ _ _ DemandU.lastImp (fun _ => rfl)⟩

theorem demandOf_evaluateUnit_of_ne {u v : Nat} (other : v ≠ u) (no : Nat) (e : Eval) (s : State) :
    demandOf (evaluateUnit no e s v) u = demandOf s u := by
  rw [evaluateUnit, demandOf_judgeMax_of_ne other.symm, demandOf_judgeMax_of_ne other.symm]
  exact vget_vmod_of_ne _ _ _ other.symm

theorem demandOf_lastWindow {u : Nat} (inside : u < 9) (wi we : Nat) (e : Eval) (s : State) :
    (demandOf (lastWindow wi we e u s) u).lastImp = wi ∧ (demandOf (lastWindow wi we e u s) u).maxImp = (demandOf s u).maxImp := by
  rw [demandOf, lastWindow, vget_vmod_self _ _ _ inside]
  exact ⟨rfl, rfl⟩

/-- One unit's evaluation: what the window took is the last demand, and the maximum where it is the larger. -/
theorem demandOf_evaluateUnit_self {u : Nat} (inside : u < 9) (no : Nat) (e : Eval) (s : State) :
    (demandOf (evaluateUnit no e s u) u).lastImp = windowImport e u ∧
      (demandOf (evaluateUnit no e s u) u).maxImp = max (demandOf s u).maxImp (windowImport e u) := by
  obtain ⟨kept, last⟩ := demandOf_judgeMax_taken inside (windowImport e u) no e (lastWindow (windowImport e u) (windowExport e u) e u s)
  obtain ⟨imp, before⟩ := demandOf_lastWindow inside (windowImport e u) (windowExport e u) e s
  rw [evaluateUnit, (demandOf_judgeMax_given ..).1, (demandOf_judgeMax_given ..).2, kept, last, imp, before]
  exact ⟨rfl, rfl⟩

/-- A run over a list without an item leaves a value that only this item touches. -/
theorem foldl_absent {α β γ : Type} {f : β → α → β} (g : β → γ) {x : α} {l : List α} (absent : x ∉ l)
    (other : ∀ s y, y ≠ x → g (f s y) = g s) (s : β) : g (l.foldl f s) = g s := by
  induction l generalizing s with
  | nil => rfl
  | cons y l ih =>
    obtain ⟨different, absent⟩ := List.ne_and_not_mem_of_not_mem_cons absent
    exact (ih absent _).trans (other s y different.symm)

/-- A run over a list without repetitions makes of such a value what its item makes of it. -/
theorem foldl_once {α β γ : Type} {f : β → α → β} (g : β → γ) {x : α} {l : List α} (nodup : l.Nodup) (mem : x ∈ l)
    (other : ∀ s y, y ≠ x → g (f s y) = g s) (s : β) : ∃ t, g t = g s ∧ g (l.foldl f s) = g (f t x) := by
  induction l generalizing s with
  | nil => exact nomatch mem
  | cons y l ih =>
    obtain ⟨absent, nodup⟩ := List.nodup_cons.mp nodup
    by_cases first : y = x
    · subst first
      exact ⟨s, rfl, foldl_absent g absent other _⟩
    · have mem : x ∈ l := (List.mem_cons.mp mem).resolve_left (Ne.symm first)
      obtain ⟨t, same, last⟩ := ih nodup mem (f s y)
      exact ⟨t, same.trans (other s y first), last⟩

theorem lt_of_mem_outlets {s : State} {n : Nat} (mem : n ∈ s.outlets) : n < 8 :=
  lt_of_present (decide_eq_true (List.mem_range.mp mem))

/-- The active outlets and the total are nine units at most, each of them once. -/
theorem units_nodup (s : State) : (units s).Nodup :=
  List.nodup_append.mpr ⟨List.nodup_range, List.nodup_singleton 8, fun _ outlet _ total =>
    Nat.ne_of_lt ((lt_of_mem_outlets outlet).trans_eq (List.mem_singleton.mp total).symm)⟩

theorem lt_of_mem_units {s : State} {u : Nat} (mem : u ∈ units s) : u < 9 := by
  obtain outlet | total := List.mem_append.mp mem
  · exact Nat.lt_succ_of_lt (lt_of_mem_outlets outlet)
  · rw [List.mem_singleton.mp total]
    decide

/-- A window that BENCHMARK does not freeze, evaluated for a unit. -/
theorem demandOf_evaluateWindow {e : Eval} {s : State} {u : Nat} (counts : e.frozen = false) (mem : u ∈ units s) (no : Nat) :
    (demandOf (evaluateWindow no e s) u).lastImp = windowImport e u ∧
      (demandOf (evaluateWindow no e s) u).maxImp = max (demandOf s u).maxImp (windowImport e u) := by
  obtain ⟨t, same, last⟩ := foldl_once (f := evaluateUnit no e) (fun s => demandOf s u) (units_nodup s) mem
    (fun s v other => demandOf_evaluateUnit_of_ne other no e s) s
  rw [evaluateWindow_eq, counts, if_neg Bool.false_ne_true, last, ← same]
  exact demandOf_evaluateUnit_self (lt_of_mem_units mem) no e t

/-- s without the windows that a boundary closes. -/
def windowsTaken (c : Commit) (s : State) : State :=
  s.withBilling { s.billing with evals := s.billing.evals.filter (fun e => e.tick != c.tick) }

/-- The boundary of a single window evaluates that window. -/
theorem evaluateAt_single {c : Commit} {e : Eval} {s : State} (single : s.billing.evals.filter (fun x => x.tick == c.tick) = [e]) :
    evaluateAt c s = evaluateWindow (s.billing.boundary + 1) e (windowsTaken c s) := by
  rw [evaluateAt, single]
  rfl

theorem demandOf_evaluateAt {c : Commit} {e : Eval} {s : State} {u : Nat} (single : s.billing.evals.filter (fun x => x.tick == c.tick) = [e])
    (counts : e.frozen = false) (mem : u ∈ units s) : (demandOf (evaluateAt c s) u).lastImp = windowImport e u ∧
      (demandOf (evaluateAt c s) u).maxImp = max (demandOf s u).maxImp (windowImport e u) := by
  rw [evaluateAt_single single]
  exact demandOf_evaluateWindow (s := windowsTaken c s) counts mem _

theorem evaluateAt_frozen {c : Commit} {e : Eval} {s : State} (single : s.billing.evals.filter (fun x => x.tick == c.tick) = [e])
    (frozen : e.frozen = true) : (evaluateAt c s).billing.demand = s.billing.demand := by
  rw [evaluateAt_single single, evaluateWindow_eq, if_pos frozen]
  rfl

/-! The commit of a boundary (R249, R250). -/

/-- Shares are awaited as before where nothing but billing, the log and what records them has changed. -/
theorem behind_congr {s t : State} (only : OnlyChanges [.clock, .port, .billing, .log, .tag, .store] s t)
    (tick : t.clock.tick = s.clock.tick) (k : Nat) : behind t k = behind s k := by
  have factory : t.factory = s.factory := only .factory (by decide)
  have power : t.power = s.power := only .power (by decide)
  have rst : t.rst = s.rst := only .rst (by decide)
  have fe : t.fe = s.fe := only .fe (by decide)
  have energy : t.energy = s.energy := only .energy (by decide)
  have runs : t.regionsRun = s.regionsRun := regionsRun_congr (by rw [power]) (by rw [rst]) (by rw [rst])
  have outlets : t.outlets = s.outlets := by rw [State.outlets, State.outlets, State.outletCount, State.outletCount, factory, rst]
  have eng : eng t = eng s := by
    funext n
    rw [eng, eng, energy]
  have enabled : modEnabled t = modEnabled s := by
    funext n x
    rw [modEnabled, modEnabled, modCfg, modCfg, fe]
  rw [behind, behind, outlets, runs, eng, enabled, State.now, State.now, tick]

/-- A run of commits stops at the first boundary that awaits its shares. -/
theorem runCommits_behind {s : State} (awaits : s.billing.commits.head?.all (fun d => behind s d.tick) = true) (k : Nat) :
    runCommits k s = s := by
  cases k with
  | zero => rfl
  | succ k =>
    unfold runCommits
    split
    next d rest list =>
      have awaits : behind s d.tick = true := by simpa [list] using awaits
      exact if_pos awaits
    next => rfl

theorem commits_awaiting {c : Commit} {rest : List Commit} {s : State} (list : s.billing.commits = c :: rest) (awaits : behind s c.tick = true) :
    commits s = s :=
  runCommits_behind (by simp [list, awaits]) _

/-- The billing state after the record of a boundary without a reset, apart from the demand: the boundary and its windows are gone. -/
theorem commitOne_billing {c : Commit} {s : State} (noReset : c.reset = none) : (commitOne c s).billing.commits = s.billing.commits.tail ∧
    (commitOne c s).billing.boundary = s.billing.boundary + 1 ∧
    (commitOne c s).billing.evals = s.billing.evals.filter (fun e => e.tick != c.tick) ∧
    (commitOne c s).billing.demand = (evaluateAt c s).billing.demand := by
  have evaluated := evaluateAt_exceptDemand c s
  have commits := congrArg Billing.commits evaluated
  have boundary := congrArg Billing.boundary evaluated
  have evals := congrArg Billing.evals evaluated
  dsimp only [exceptDemand] at commits boundary evals
  have reset (t : State) : commitReset c t = t := by simp [commitReset, noReset]
  rw [commitOne, reset, commitSwitches_billing, commitStep_billing, commitSwitches_billing, commitRecord,
    journalMet_billing, commits, boundary, evals]
  exact ⟨rfl, rfl, rfl, rfl⟩

/-- The oldest boundary alone is committed where the next one still awaits its shares. -/
theorem commits_oldest {c : Commit} {rest : List Commit} {s : State} (list : s.billing.commits = c :: rest) (ready : behind s c.tick = false)
    (noReset : c.reset = none) (next : rest.head?.all (fun d => behind s d.tick) = true) : commits s = commitOne c s := by
  have same (k : Nat) : behind (commitOne c s) k = behind s k :=
    behind_congr (commitOne_only c (by decide) (by decide) (by decide) (by decide) (by decide) (by decide) (.refl _ s)) (commitOne_tick c s) k
  have left : (commitOne c s).billing.commits = rest := by rw [(commitOne_billing noReset).1, list, List.tail_cons]
  have stops : (commitOne c s).billing.commits.head?.all (fun d => behind (commitOne c s) d.tick) = true := by
    simpa only [left, same] using next
  rw [commits, list, List.length_cons, runCommits]
  simp only [list, ready, Bool.false_eq_true, if_false]
  exact runCommits_behind stops _

theorem execDemandEvaluation_running {s : State} (run : s.regionsRun = true) : execDemandEvaluation s = .next (commits s) := by
  simp [execDemandEvaluation, run]

theorem execDemandEvaluation_awaiting {c : Commit} {rest : List Commit} {s : State} (list : s.billing.commits = c :: rest)
    (awaits : behind s c.tick = true) : execDemandEvaluation s = .next s := by
  rw [execDemandEvaluation, commits_awaiting list awaits, ite_self]

/-! DEMAND_RESET (R248). -/

/-- s with a demand reset asked for. -/
def resetAsked (ack : Bool) (s : State) : State := s.withBilling { s.billing with resetDue := some ack }

theorem execDemandReset_accepted {h : Hdr} {s : State} (a : Accepted h 0x0412 [] s) (role : 1 ≤ s.roles.role)
    (mode : s.modes.mode = .standby ∨ s.modes.mode = .service) (idle : s.billing.resetDue = none) (place : noRecordPlace s = false) :
    execDemandReset h [] s = .next (answered s h 0x0412 [] .queued [] (resetAsked (flagAck h.flags) (touchRole s))) := by
  have role := role_le_touchRole role
  have mode : (touchRole s).modes.mode = .standby ∨ (touchRole s).modes.mode = .service := mode
  have idle : (touchRole s).billing.resetDue = none := idle
  have place : noRecordPlace (touchRole s) = false := place
  have cmd : demandResetCmd h [] (touchRole s) =
      { readOnly := false, run := { st := resetAsked (flagAck h.flags) (touchRole s), status := .queued } } := by
    simp [demandResetCmd, role, mode, idle, place, resetAsked]
  exact congrArg _ (hostCommand_checked (cmd := fun s => demandResetCmd h [] s) a cmd rfl nofun)

/-- The boundary of a demand reset. -/
def resetBoundary (ack : Bool) (s : State) : Commit := { boundaryAt s.clock.legal s.clock.tick s with reset := some (ack, s.clock.legal) }

/-- s with the boundary of a demand reset taken. -/
def resetAwaits (ack : Bool) (s : State) : State := s.withBilling { s.billing with commits := [resetBoundary ack s] }

/-- With no other happening and no other boundary, the reset is the one that may be committed. -/
theorem boundaryNow_reset {ack : Bool} {s : State} (ready : resetReady s = some ack) (noWindow : windowDue s = false)
    (noTariff : dueEntry s = none) (noStep : stepDue s = none) (none : s.billing.commits = []) :
    boundaryNow s = commits (resetAwaits ack s) := by
  have window : windowNow s = s := by simp [windowNow, noWindow]
  have tariff : tariffNow s = s := by simp only [tariffNow, noTariff]
  have taken : resetTaken s = resetAwaits ack s := by
    simp only [resetTaken, ready, takeBoundary, none]
    rfl
  rw [boundaryNow_noStep noStep, window, tariff, taken]

theorem execDemandResetApply_ready {ack : Bool} {s : State} (ready : resetReady s = some ack) :
    execDemandResetApply s = .next (boundaryNow s) := by
  simp [execDemandResetApply, ready]

/-- The record set of a reset takes one SEQUENCE for each unit (R248, R255). -/
theorem signDemandReset_seq (instant : Nat) (adjusted : Bool) (s : State) :
    (signDemandReset instant adjusted s).log.seq = s.log.seq + (units s).length := by
  unfold signDemandReset
  generalize units s = l
  induction l generalizing s with
  | nil => rfl
  | cons u l ih =>
    rw [List.foldl_cons, ih, List.length_cons, (sign_log _ s).1]
    omega

theorem units_congr {s t : State} (factory : t.factory = s.factory) (rst : t.rst = s.rst) : units t = units s := by
  simp only [units, State.outlets, State.outletCount, factory, rst]

/-- A reset committed: the set is signed, and the maxima of every unit begin anew at its instant. -/
theorem commitReset_reset {c : Commit} {ack : Bool} {instant : Nat} (reset : c.reset = some (ack, instant)) (s : State) :
    (commitReset c s).log.seq = s.log.seq + (units s).length ∧ (commitReset c s).billing.resetDue = none ∧
      (commitReset c s).billing.demand = s.billing.demand.map (DemandU.reset instant) := by
  unfold commitReset
  rw [reset]
  dsimp only
  rw [emit_log, emit_billing, signDemandReset_billing]
  dsimp only
  rw [signDemandReset_seq, Commit.demand, reset]
  exact ⟨rfl, rfl, rfl⟩

theorem commitSwitches_none {c : Commit} (none : c.switches = []) (byStep : Bool) (s : State) : commitSwitches byStep c s = s := by
  simp [commitSwitches, none]

theorem commitStep_none {c : Commit} (none : c.step = none) (s : State) : commitStep c s = s := by
  simp [commitStep, none]

/-- The commit of a boundary that is a reset alone. -/
theorem commitOne_reset {c : Commit} {ack : Bool} {instant : Nat} (reset : c.reset = some (ack, instant)) (noSwitch : c.switches = [])
    (noStep : c.step = none) (s : State) : let t := commitOne c s
    t.billing.resetDue = none ∧ t.log.seq = s.log.seq + (units s).length ∧
      ∀ u, u < 9 → (demandOf t u).maxImp = 0 ∧ (demandOf t u).maxExp = 0 ∧ (demandOf t u).resetAt = instant := by
  have only : OnlyChanges [.port, .billing, .store] s (commitRecord c (evaluateAt c s)) :=
    commitRecord_only c (by decide) (by decide) (evaluateAt_only c (by decide) (by decide) (by decide) (.refl _ s))
  have units : units (commitRecord c (evaluateAt c s)) = units s := units_congr (only .factory (by decide)) (only .rst (by decide))
  obtain ⟨seq, due, demand⟩ := commitReset_reset reset (commitRecord c (evaluateAt c s))
  rw [units, commitRecord_log, evaluateAt_log] at seq
  simp only [commitOne, commitSwitches_none noSwitch, commitStep_none noStep]
  refine ⟨due, seq, fun u inside => ?_⟩
  rw [demandOf, demand, vget_map inside]
  exact ⟨rfl, rfl, rfl⟩

/-- The reset's boundary, the only one, is committed at once or waits for its shares (R250). -/
theorem commits_resetAwaits (ack : Bool) (s : State) : commits (resetAwaits ack s) =
    if behind s s.clock.tick then resetAwaits ack s else commitOne (resetBoundary ack s) (resetAwaits ack s) := by
  have same : behind (resetAwaits ack s) s.clock.tick = behind s s.clock.tick :=
    behind_congr (withBilling_only _ (by decide) (.refl _ s)) rfl _
  rw [← same]
  rfl

/-- Settles O48, one clause for each command, from what its boundary leaves behind. -/
theorem tariffsAndDemand : Obligations.TariffsAndDemand := by
  unfold Obligations.TariffsAndDemand
  refine ⟨?announce, ?switch, ?expiry, ?window, ?evaluated, ?frozen, ?awaits, ?ask, ?reset⟩
  case announce =>
    intro h start tf s a role active known inside tariff near late room apart
    refine ⟨_, execTariffAnnounce_accepted a role active known inside tariff near late room apart, ?_, rfl,
      withBilling_only _ (by decide) (touchRole_only (by decide) (.refl _ s))⟩
    exact Vector.any_eq_true'.mpr ⟨_, mem_putEntry (announced start tf) (exists_empty_entry room), by simp [announced]⟩
  case switch =>
    intro e s run due calm
    obtain ⟨active, calendar⟩ := boundaryNow_tariff due calm
    refine ⟨_, execTariffBoundary_due run due, active, fun i inside taken => ?_⟩
    have taken : entryDue s (vget s.billing.calendar i {}) = true := taken
    rw [calEntry, calendar, vget_map inside, if_pos taken]
  case expiry => exact fun i s run processed old => execCalendarEntryExpiry_due run processed old
  case window =>
    intro s run due calm
    have window := boundaryNow_openWindow due calm
    have taken (u : Nat) := congrFun (congrArg Prod.snd window) u
    exact ⟨_, execDemandWindowEnd_due run due, congrArg Prod.fst window, fun u _ => ⟨congrArg Prod.fst (taken u), congrArg Prod.snd (taken u)⟩⟩
  case evaluated =>
    intro c rest e s run list ready noReset next single counts
    obtain ⟨commits, boundary, evals, demand⟩ := commitOne_billing (s := s) noReset
    refine ⟨_, execDemandEvaluation_running run, ?_⟩
    rw [commits_oldest list ready noReset next, commits, list, demand]
    exact ⟨rfl, boundary, evals, fun u mem => demandOf_evaluateAt single counts mem⟩
  case frozen =>
    intro c rest e s run list ready noReset next single frozen
    obtain ⟨commits, -, -, demand⟩ := commitOne_billing (s := s) noReset
    refine ⟨_, execDemandEvaluation_running run, ?_⟩
    rw [commits_oldest list ready noReset next, commits, list, demand]
    exact ⟨rfl, evaluateAt_frozen single frozen⟩
  case awaits => exact fun c rest s list awaits => execDemandEvaluation_awaiting list awaits
  case ask => exact fun h s a role mode idle place => execDemandReset_accepted a role mode idle place
  case reset =>
    intro ack s ready noWindow noTariff noStep none
    refine ⟨_, execDemandResetApply_ready ready, ?_⟩
    rw [boundaryNow_reset ready noWindow noTariff noStep none, commits_resetAwaits]
    refine ⟨fun awaits => ?_, fun free => ?_⟩
    · rw [if_pos awaits]
      exact ⟨rfl, withBilling_only _ (by decide) (.refl _ s)⟩
    · rw [if_neg (Bool.eq_false_iff.mp free)]
      exact commitOne_reset (c := resetBoundary ack s) rfl rfl rfl (resetAwaits ack s)

end Sys2Proof.Laws

/-!
PROOF. The vehicle links (chapter 8): the record of an outlet's link, what ends a link, and what restarts its pilot.
-/

namespace Sys2Proof.Laws

open Sys2Proof.Machine Sys2Proof.Safety

@[simp] theorem emit_link (code : Nat) (payload : List Byte) (ack : Bool) (s : State) : (emit code payload ack s).link = s.link :=
  Part.kept (p := .link) (by simp [emit_only, OnlyChanges.refl])

@[simp] theorem event_link (code : Nat) (payload : List Byte) (s : State) : (event code payload s).link = s.link := emit_link ..

@[simp] theorem ambiguous_link (cand cause line : Nat) (margin : Int) (mac : Nat) (s : State) :
    (ambiguous cand cause line margin mac s).link = s.link := event_link ..

@[simp] theorem releaseOpt_link (id : Option Nat) (s : State) : (releaseOpt id s).link = s.link :=
  Part.kept (p := .link) (by simp [releaseOpt_only, OnlyChanges.refl])

theorem withLink_only {l : List Part} {u s : State} (v : Link) (k : Part.link ∈ l) (h : OnlyChanges l u s) :
    OnlyChanges l u (s.withLink v) := by
  apply OnlyChanges.upd h
  case h15 => exact fun absent => absurd k absent
  all_goals exact fun _ => rfl

/-! The record of one outlet. -/

theorem lk_of_outs {s t : State} (same : t.link.outs = s.link.outs) (n : Nat) : lk t n = lk s n := by
  rw [lk, same, lk]

theorem lk_event (code : Nat) (payload : List Byte) (s : State) (n : Nat) : lk (event code payload s) n = lk s n :=
  lk_of_outs (by rw [event_link]) n

theorem lk_updLk_self {n : Nat} (inside : n < 8) (f : LinkOut → LinkOut) (s : State) : lk (updLk n f s) n = f (lk s n) :=
  vget_vmod_self _ _ _ inside

/-- An outlet past the last has the record of a link that does not run. -/
theorem lk_outside {n : Nat} (outside : 8 ≤ n) (s : State) : lk s n = {} := by
  simp [lk, vget, outside]

/-! The end of a link (R278, R280, R282, R297, R298). -/

/-- An outlet's record after its link has ended with a cause. -/
def ended (cause : Nat) (x : LinkOut) : LinkOut :=
  { x with phase := if cause = 8 then 9 else 0, needA := true, protocol := 0, tls := false, evMac := 0, margin := 0, attempts := 0,
           restarts := 0, tried := 0, windowOpen := false, pwmAt := none, leave := none, leaveAt := none, restartAt := none, nmk := none,
           nid := none, talker := 0, keys := Vector.replicate 2 none, session := 0, refuseAt := none, stopAt := none, stopAck := false,
           stopCmd := false, endCause := none, plca := false }

/-- An outlet's record after a leave that no link holds is withdrawn. -/
def unasked (x : LinkOut) : LinkOut := { x with phase := 0, leave := none, leaveAt := none }

theorem linkEnd_running {n : Nat} {s : State} (runs : linkRuns s n = true) (cause : Nat) : (linkEnd n cause s).link =
    { s.link with sets := s.link.sets.filter (fun t => t.cand != n), outs := vmod s.link.outs n (ended cause),
                  requests := s.link.requests.map (fun r => if r.outlet = n ∧ r.state = 0 then { r with state := 2 } else r) } := by
  unfold linkEnd
  simp only [runs, Bool.not_true, Bool.false_eq_true, if_false, event_link, updLk, withdrawAuth, apply_ite State.link, ite_self,
    releaseOpt_link]
  rfl

theorem linkEnd_idle {n : Nat} {s : State} (idle : linkRuns s n = false) (cause : Nat) : linkEnd n cause s = dropLeave n s := by
  simp [linkEnd, idle]

theorem dropLeave_link (n : Nat) (s : State) : (dropLeave n s).link =
    if (lk s n).phase = 1 then { s.link with outs := vmod s.link.outs n unasked } else s.link := by
  unfold dropLeave
  split
  · simp only [updLk, releaseOpt_link]
    rfl
  · rfl

/-- The record of an outlet whose link has ended. -/
theorem lk_linkEnd {n : Nat} {s : State} (inside : n < 8) (runs : linkRuns s n = true) (cause : Nat) :
    lk (linkEnd n cause s) n = ended cause (lk s n) := by
  rw [lk, linkEnd_running runs]
  exact vget_vmod_self _ _ _ inside

/-- Without a sequence under way a stop ends the link at once (R298). -/
theorem stopLink_idle {n : Nat} {s : State} (idle : (sq s n).state = 0) (cause last ms : Nat) :
    stopLink n cause last ms s = linkEnd n cause (closeAt n s) := by
  simp [stopLink, idle]

/-- A link that runs is that of an outlet. -/
theorem lt_of_linkRuns {n : Nat} {s : State} (runs : linkRuns s n = true) : n < 8 := by
  by_contra outside
  have idle := lk_outside (Nat.not_lt.mp outside) s
  simp [linkRuns, idle] at runs

/-- A link runs in every phase from the window to the pilot restart. -/
theorem linkRuns_of_phase {n : Nat} {s : State} (low : 2 ≤ (lk s n).phase) (high : (lk s n).phase ≤ 8) : linkRuns s n = true := by
  simp [linkRuns, low, high]

theorem linkRuns_congr {s t : State} {n : Nat} (phase : (lk t n).phase = (lk s n).phase) (restarts : (lk t n).restarts = (lk s n).restarts) :
    linkRuns t n = linkRuns s n := by
  simp only [linkRuns, phase, restarts]

theorem linkRuns_event (code : Nat) (payload : List Byte) (s : State) (n : Nat) : linkRuns (event code payload s) n = linkRuns s n := by
  rw [linkRuns, lk_event, linkRuns]

/-! A pilot restart (R288). -/

/-- An outlet's record while its pilot restarts. -/
def restarting (now : Nat) (x : LinkOut) : LinkOut :=
  { x with phase := 8, restarts := x.restarts + 1, attempts := 0, windowOpen := false, evMac := 0, margin := 0, nmk := none, nid := none,
           leave := none, leaveAt := none, pwmAt := none, drive := 2, restartAt := some now }

theorem pilotRestart_more {n : Nat} {s : State} (more : (lk s n).restarts < slacRestarts s) : (pilotRestart n s).link =
    { s.link with sets := s.link.sets.filter (fun t => t.cand != n), outs := vmod s.link.outs n (restarting s.clock.tick) } := by
  unfold pilotRestart
  simp only [Nat.not_le.mpr more, if_false, updLk, releaseOpt_link]
  rfl

/-- After the last restart the link ends with SLAC_FAILED. -/
theorem pilotRestart_last {n : Nat} {s : State} (last : slacRestarts s ≤ (lk s n).restarts) :
    pilotRestart n s = linkEnd n 8 (event 0x0523 (le 1 n ++ le 1 (lk s n).restarts) s) := by
  simp [pilotRestart, last]

theorem lk_pilotRestart_more {n : Nat} {s : State} (inside : n < 8) (more : (lk s n).restarts < slacRestarts s) :
    lk (pilotRestart n s) n = restarting s.clock.tick (lk s n) := by
  rw [lk, pilotRestart_more more]
  exact vget_vmod_self _ _ _ inside

theorem lk_pilotRestart_last {n : Nat} {s : State} (inside : n < 8) (runs : linkRuns s n = true) (last : slacRestarts s ≤ (lk s n).restarts) :
    lk (pilotRestart n s) n = ended 8 (lk s n) := by
  rw [pilotRestart_last last, lk_linkEnd inside ((linkRuns_event _ _ s n).trans runs), lk_event]

end Sys2Proof.Laws

/-!
PROOF. Pilot and proximity (chapter 8, R273 to R278, R288): what plateaus and proximity voltages show outlasts every reaction to it.
-/

namespace Sys2Proof.Laws

open Sys2Proof.Machine Sys2Proof.Safety

/-! The readings outlast every stop: what ends a link leaves the readings of the pilot and of proximity. -/

/-- The readings of an outlet's record: pilot state, positive plateau, count of disturbed plateaus, class of proximity. -/
def pilotReadings (x : LinkOut) : Nat × Int × Nat × Nat := (x.pilot, x.posMv, x.disturbedRun, x.pp)

/-- The readings of outlet n. -/
def sensed (s : State) (n : Nat) : Nat × Int × Nat × Nat := pilotReadings (lk s n)

theorem sensed_of_link {s t : State} (same : t.link = s.link) (n : Nat) : sensed t n = sensed s n := by
  rw [sensed, sensed, lk_of_outs (congrArg Link.outs same)]

theorem sensed_vmod {s t : State} {i : Nat} {f : LinkOut → LinkOut} (outs : t.link.outs = vmod s.link.outs i f)
    (kept : ∀ x, pilotReadings (f x) = pilotReadings x) (n : Nat) : sensed t n = sensed s n := by
  rw [sensed, lk, outs]
  exact vget_vmod_field _ _ _ _ _ kept

theorem sensed_updLk (i : Nat) {f : LinkOut → LinkOut} (kept : ∀ x, pilotReadings (f x) = pilotReadings x) (s : State) (n : Nat) :
    sensed (updLk i f s) n = sensed s n :=
  sensed_vmod rfl kept n

@[simp] theorem sensed_event (code : Nat) (payload : List Byte) (s : State) (n : Nat) : sensed (event code payload s) n = sensed s n :=
  sensed_of_link (event_link ..) n

@[simp] theorem sensed_dropLeave (i : Nat) (s : State) (n : Nat) : sensed (dropLeave i s) n = sensed s n := by
  by_cases asks : (lk s i).phase = 1
  · exact sensed_vmod (f := unasked) (by rw [dropLeave_link, if_pos asks]) (fun _ => rfl) n
  · exact sensed_of_link (by rw [dropLeave_link, if_neg asks]) n

@[simp] theorem sensed_linkEnd (i cause : Nat) (s : State) (n : Nat) : sensed (linkEnd i cause s) n = sensed s n := by
  cases runs : linkRuns s i
  case true => exact sensed_vmod (f := ended cause) (by rw [linkEnd_running runs]) (fun _ => rfl) n
  case false => rw [linkEnd_idle runs, sensed_dropLeave]

@[simp] theorem sensed_withdrawAuth (i : Nat) (s : State) (n : Nat) : sensed (withdrawAuth i s) n = sensed s n := rfl

@[simp] theorem sensed_closeAt (i : Nat) (s : State) (n : Nat) : sensed (closeAt i s) n = sensed s n := rfl

@[simp] theorem sensed_modulesOff (i : Nat) (s : State) (n : Nat) : sensed (modulesOff i s) n = sensed s n := rfl

@[simp] theorem sensed_updSq (i : Nat) (f : Seq → Seq) (s : State) (n : Nat) : sensed (updSq i f s) n = sensed s n := rfl

@[simp] theorem sensed_endAfterStop (i cause : Nat) (s : State) (n : Nat) : sensed (endAfterStop i cause s) n = sensed s n := by
  refine sensed_updLk i ?_ s n
  exact fun _ => rfl

@[simp] theorem sensed_seqTo (i new : Nat) (s : State) (n : Nat) : sensed (seqTo i new s) n = sensed s n :=
  sensed_of_link (Part.kept (p := .link) (by simp [seqTo_only, OnlyChanges.refl])) n

@[simp] theorem sensed_dropJobs (i : Nat) (s : State) (n : Nat) : sensed (dropJobs i s) n = sensed s n :=
  sensed_of_link (Part.kept (p := .link) (by simp [dropJobs_only, OnlyChanges.refl])) n

@[simp] theorem sensed_driverOff (d : Nat) (s : State) (n : Nat) : sensed (driverOff d s) n = sensed s n :=
  sensed_of_link (Part.kept (p := .link) (by simp [driverOff_only, OnlyChanges.refl])) n

@[simp] theorem sensed_driversOff (ds : List Nat) (s : State) (n : Nat) : sensed (ds.foldl (fun s d => driverOff d s) s) n = sensed s n :=
  foldl_kept (sensed · n) (fun s d => sensed_driverOff d s n) _ _

@[simp] theorem sensed_ownersCleared (ms : List Nat) (s : State) (n : Nat) :
    sensed (ms.foldl (fun s m => setOwner m none s) s) n = sensed s n :=
  foldl_kept (f := fun s m => setOwner m none s) (sensed · n) (fun _ _ => rfl) _ _

@[simp] theorem sensed_lockOutlet (i : Nat) (s : State) (n : Nat) : sensed (lockOutlet i s) n = sensed s n := by
  have permits : sensed { s with sw := { s.sw with permit := s.sw.permit &&& ~~~ groupOf s i } } n = sensed s n := rfl
  unfold lockOutlet
  dsimp only
  split <;> simp [permits]

@[simp] theorem sensed_weldDone (i : Nat) (s : State) (n : Nat) : sensed (weldDone i s) n = sensed s n := by
  unfold weldDone
  dsimp only
  split
  · exact sensed_lockOutlet i s n
  · split
    · split <;> simp
    · rfl

@[simp] theorem sensed_pairOpened (i : Nat) (s : State) (n : Nat) : sensed (pairOpened i s) n = sensed s n := by
  unfold pairOpened
  dsimp only
  split
  · simp
  · rfl

@[simp] theorem sensed_openPair (i : Nat) (s : State) (n : Nat) : sensed (openPair i s) n = sensed s n := by
  have permits : sensed { s with sw := { s.sw with permit := s.sw.permit &&& ~~~ groupOf s i } } n = sensed s n := rfl
  simp [openPair, permits]

@[simp] theorem sensed_safeRampStop (i cause ms : Nat) (s : State) (n : Nat) : sensed (safeRampStop i cause ms s) n = sensed s n := by
  unfold safeRampStop
  dsimp only
  repeat' split
  all_goals simp

@[simp] theorem sensed_stopLink (i cause last ms : Nat) (s : State) (n : Nat) : sensed (stopLink i cause last ms s) n = sensed s n := by
  unfold stopLink
  split <;> simp

/-! So do the reactions to a pilot state. -/

@[simp] theorem sensed_pilotFault (i kind : Nat) (s : State) (n : Nat) : sensed (pilotFault i kind s) n = sensed s n := by
  simp [pilotFault]

/-- Sets that are abandoned leave the records of the outlets. -/
@[simp] theorem sensed_abandonSets (i : Nat) (s : State) (n : Nat) : sensed (abandonSets i s) n = sensed s n :=
  foldl_kept (sensed · n) (fun s _ => sensed_event _ _ s n) _ _

@[simp] theorem sensed_connect (i : Nat) (s : State) (n : Nat) : sensed (connect i s) n = sensed s n := by
  unfold connect
  dsimp only
  split
  · rfl
  · split
    · split
      · rfl
      · refine sensed_updLk i ?_ s n
        exact fun _ => rfl
    · split
      · rfl
      · refine (sensed_updLk i ?_ _ n).trans rfl
        exact fun _ => rfl

@[simp] theorem sensed_pilotA (i : Nat) (s : State) (n : Nat) : sensed (pilotA i s) n = sensed s n := by
  unfold pilotA
  dsimp only
  refine (sensed_updLk i ?_ _ n).trans ?_
  · exact fun _ => rfl
  split <;> simp

@[simp] theorem sensed_pilotB (i old : Nat) (s : State) (n : Nat) : sensed (pilotB i old s) n = sensed s n := by
  unfold pilotB
  dsimp only
  split <;> simp

@[simp] theorem sensed_pilotF (i : Nat) (s : State) (n : Nat) : sensed (pilotF i s) n = sensed s n := by
  unfold pilotF
  split <;> simp

@[simp] theorem sensed_pilotActs (i old new : Nat) (s : State) (n : Nat) : sensed (pilotActs i old new s) n = sensed s n := by
  unfold pilotActs
  repeat' split
  all_goals simp

/-- A pilot state is shown beside the other readings, whatever it calls for. -/
theorem sensed_pilotTo {n : Nat} (inside : n < 8) (new : Nat) (s : State) : sensed (pilotTo n new s) n = (new, (sensed s n).2) := by
  have shown : sensed (updLk n (fun y => { y with pilot := new }) s) n = (new, (sensed s n).2) := by
    rw [sensed, lk_updLk_self inside]
    rfl
  rw [← shown]
  unfold pilotTo
  simp only [sensed_pilotActs]
  repeat' split
  all_goals simp

/-! Plateaus (R273, R274). -/

/-- A level drive, or PWM5, forms positive plateaus. -/
theorem plateauForms_positive {drive : Nat} (up : drive ≤ 1) : plateauForms drive true = true := by
  obtain rfl | rfl := Nat.le_one_iff_eq_zero_or_eq_one.mp up <;> rfl

/-- The plateau leaves its value and ends the run of disturbed ones, and its band is the pilot's state. -/
def plateauTaken (n : Nat) (mv : Int) (s : State) : State :=
  updLk n (fun y => { y with indetRun := 0 }) (updLk n (fun y => { y with posMv := satInt 16 mv })
    (updLk n (fun y => { y with disturbedRun := 0 }) s))

theorem sensed_plateauTaken {n : Nat} (inside : n < 8) (mv : Int) (s : State) :
    sensed (plateauTaken n mv s) n = ((lk s n).pilot, satInt 16 mv, 0, (lk s n).pp) := by
  simp only [sensed, plateauTaken, lk_updLk_self inside]
  rfl

theorem execPilotStateChange_band {pl : Plateau} {l : List Int} {p : Nat} {s : State} (run : s.regionsRun = true)
    (present : s.present pl.outlet = true) (up : (lk s pl.outlet).drive ≤ 1) (positive : pl.positive = true)
    (samples : l = plateauSamples (lk s pl.outlet).drive pl.samples) (made : l ≠ []) (steady : plateauSpan l ≤ 1500)
    (band : pilotBand (plateauMv l) = some p) (sound : (lk s pl.outlet).diodeFault = false) :
    execPilotStateChange pl s = .next (pilotTo pl.outlet p (plateauTaken pl.outlet (plateauMv l) s)) := by
  have inside := lt_of_present present
  simp [execPilotStateChange, positivePlateau, plateauTaken, run, present, positive, plateauForms_positive up, ← samples, made,
    Nat.not_lt.mpr steady, band, sound, lk_updLk_self inside]

/-- A disturbed plateau is counted; with the third a fault would follow (R273). -/
theorem execPilotStateChange_disturbed {pl : Plateau} {s : State} (run : s.regionsRun = true) (present : s.present pl.outlet = true)
    (forms : plateauForms (lk s pl.outlet).drive pl.positive = true)
    (wide : 1500 < plateauSpan (plateauSamples (lk s pl.outlet).drive pl.samples)) (few : (lk s pl.outlet).disturbedRun ≠ 2)
    (unchecked : pl.positive = true ∨ (lk s pl.outlet).diodeCheck = 0) : execPilotStateChange pl s =
      .next (updLk pl.outlet (fun y => { y with disturbedRun := (lk s pl.outlet).disturbedRun + 1 }) s) := by
  have made : plateauSamples (lk s pl.outlet).drive pl.samples ≠ [] := by
    intro none
    rw [none] at wide
    exact absurd wide (by decide)
  have period : (if pl.positive then s else diodePeriod pl.outlet s) = s := by
    obtain positive | unchecked := unchecked
    · rw [if_pos positive]
    · simp [diodePeriod, unchecked]
  simp [execPilotStateChange, run, present, forms, wide, made, few, period]

/-! Proximity (R277). -/

theorem execPpChange_new {n mv : Nat} {s : State} (run : s.regionsRun = true) (present : s.present n = true) (used : bit (lkCfg s n) 8 = true)
    (other : ppClass s n mv ≠ (lk s n).pp) (first : (lk s n).ppCandidate ≠ some (ppClass s n mv)) : execPpChange n mv s =
      .next (updLk n (fun y => { y with ppCandidate := some (ppClass s n mv) }) (updLk n (fun y => { y with ppOhm := ppOhms mv }) s)) := by
  simp [execPpChange, run, present, used, other, first]

/-- The record of proximity after a class that two frames agree on. -/
def ppTaken (n mv : Nat) (s : State) : State :=
  updLk n (fun y => { y with pp := ppClass s n mv, ppCandidate := none }) (updLk n (fun y => { y with ppOhm := ppOhms mv }) s)

/-- The class is taken, and what follows from it leaves it. -/
theorem execPpChange_agreed {n mv : Nat} {s : State} (run : s.regionsRun = true) (present : s.present n = true)
    (used : bit (lkCfg s n) 8 = true) (other : ppClass s n mv ≠ (lk s n).pp) (again : (lk s n).ppCandidate = some (ppClass s n mv)) :
    ∃ t, execPpChange n mv s = .next t ∧ sensed t n = sensed (ppTaken n mv s) n := by
  simp only [execPpChange, run, present, used, other, again, Bool.and_self, Bool.not_true, Bool.false_eq_true, if_false, ne_eq,
    not_true_eq_false]
  split
  · refine ⟨_, rfl, ?_⟩
    split <;> simp [ppTaken]
  · split <;> exact ⟨_, rfl, by simp [ppTaken]⟩

/-! Leave and the association window (R278, R288). -/

/-- The class 4 request of outlet n (R278). -/
def leaveRequest (n now : Nat) : Request := { cls := 4, requester := n, intPeak := 35, vauxPeak := 5, latest := now + secF 3, standing := true }

/-- s with leave for PWM5 asked on outlet n. -/
def leaveAsked (n : Nat) (s : State) : State :=
  updLk n (fun y => { y with phase := 1, leave := some s.ease.nextId, leaveAt := none }) (submit (leaveRequest n s.clock.tick) s)

theorem lk_leaveAsked {n : Nat} (inside : n < 8) (s : State) :
    lk (leaveAsked n s) n = { lk s n with phase := 1, leave := some s.ease.nextId, leaveAt := none } :=
  lk_updLk_self inside _ _

theorem leaveAsked_only {l : List Part} {u s : State} (n : Nat) (ease : Part.ease ∈ l) (link : Part.link ∈ l) (h : OnlyChanges l u s) :
    OnlyChanges l u (leaveAsked n s) :=
  updLk_only _ _ link (submit_only _ ease h)

/-- A CCS outlet in B that no link and no earlier request holds asks leave (R278). -/
theorem connect_asks {n : Nat} {s : State} (works : linkWorks s = true) (free : available s n = true) (ccs : isT1s s n = false)
    (pp : ppOk s n = true) (pilot : (lk s n).pilot = 1) (high : (lk s n).drive = 0) (new : (lk s n).needA = false)
    (idle : (lk s n).phase = 0) : connect n s = leaveAsked n s := by
  simp only [connect, works, free, ccs, pp, pilot, high, new, idle]
  rfl

/-- s with outlet n ready to ask leave again. -/
def leaveDue (n : Nat) (s : State) : State := updLk n (fun y => { y with phase := 0, leaveAt := none }) s

theorem execPwmLeaveRetry_due {n t0 : Nat} {s : State} (inside : n < 8) (refused : (lk s n).leaveAt = some t0) (waits : (lk s n).phase = 1)
    (none : (lk s n).leave = none) (late : t0 + 200000 ≤ s.clock.tick) (pilot : (lk s n).pilot = 1) (works : linkWorks s = true)
    (free : available s n = true) (pp : ppOk s n = true) (high : (lk s n).drive = 0) (ccs : isT1s s n = false)
    (new : (lk s n).needA = false) : execPwmLeaveRetry n s = .next (leaveAsked n (leaveDue n s)) := by
  have late : t0 + secF 10 ≤ s.now := late
  have record : lk (leaveDue n s) n = { lk s n with phase := 0, leaveAt := Option.none } := lk_updLk_self inside _ s
  have pp : ppOk (leaveDue n s) n = true := by
    rw [ppOk, record]
    exact pp
  have asks : connect n (leaveDue n s) = leaveAsked n (leaveDue n s) :=
    connect_asks works free ccs pp (by rw [record]; exact pilot) (by rw [record]; exact high) (by rw [record]; exact new) (by rw [record])
  rw [← asks]
  simp only [execPwmLeaveRetry, refused, works, waits, none, late, pilot, Option.isNone_none, and_self, if_true]
  rfl

theorem execPilotRestartEnd_due {n t0 : Nat} {s : State} (since : (lk s n).restartAt = some t0) (works : linkWorks s = true)
    (restarts : (lk s n).phase = 8) (late : t0 + 80000 ≤ s.clock.tick) :
    execPilotRestartEnd n s = .next (updLk n (fun y => { y with drive := 0, restartAt := none }) s) := by
  have late : t0 + secF 4 ≤ s.now := late
  simp only [execPilotRestartEnd, since, works, restarts, late, and_self, if_true]

theorem execAssociationWindowEnd_due {n t0 : Nat} {s : State} (since : (lk s n).pwmAt = some t0) (window : (lk s n).phase = 2)
    (works : linkWorks s = true) (opened : (lk s n).windowOpen = true) (late : t0 + slacInit s ≤ s.clock.tick) :
    execAssociationWindowEnd n s = .next (pilotRestart n s) := by
  have late : t0 + slacInit s ≤ s.now := late
  simp only [execAssociationWindowEnd, since, works, window, opened, late, and_self, if_true]

/-- Settles O50, one clause for each row: what it executes, and that what follows leaves the readings. -/
theorem pilotAndProximity : Obligations.PilotAndProximity := by
  unfold Obligations.PilotAndProximity
  refine ⟨?band, ?disturbed, ?seen, ?agreed, ?retry, ?window, ?restart⟩
  case band =>
    intro pl l p s run present up positive samples made steady band sound
    have inside := lt_of_present present
    have shown := sensed_pilotTo inside p (plateauTaken pl.outlet (plateauMv l) s)
    rw [sensed_plateauTaken inside] at shown
    exact ⟨_, execPilotStateChange_band run present up positive samples made steady band sound, congrArg (·.1) shown,
      congrArg (·.2.1) shown, congrArg (·.2.2.1) shown⟩
  case disturbed => exact fun pl s run present forms wide few unchecked => execPilotStateChange_disturbed run present forms wide few unchecked
  case seen => exact fun n mv s run present used other first => execPpChange_new run present used other first
  case agreed =>
    intro n mv s run present used other again
    obtain ⟨t, step, taken⟩ := execPpChange_agreed run present used other again
    refine ⟨t, step, (congrArg (·.2.2.2) taken).trans ?_⟩
    exact congrArg LinkOut.pp (lk_updLk_self (lt_of_present present) _ _)
  case retry =>
    intro n t0 s inside refused waits none late pilot works free pp high ccs new
    refine ⟨_, execPwmLeaveRetry_due inside refused waits none late pilot works free pp high ccs new, ?_⟩
    rw [lk_leaveAsked inside]
    exact ⟨rfl, rfl, rfl, rfl, leaveAsked_only n (by decide) (by decide) (updLk_only _ _ (by decide) (.refl _ s))⟩
  case window =>
    intro n t0 s inside since window works opened late
    refine ⟨_, execAssociationWindowEnd_due since window works opened late, ?_⟩
    obtain last | more := (Nat.lt_or_ge (lk s n).restarts (slacRestarts s)).symm
    · have runs := linkRuns_of_phase (s := s) (n := n) (by omega) (by omega)
      rw [lk_pilotRestart_last inside runs last]
      exact ⟨rfl, rfl, fun _ => rfl, fun more => absurd more (Nat.not_lt.mpr last)⟩
    · rw [lk_pilotRestart_more inside more]
      exact ⟨rfl, rfl, fun last => absurd more (Nat.not_lt.mpr last), fun _ => ⟨rfl, rfl, rfl, rfl⟩⟩
  case restart => exact fun n t0 s since works restarts late => execPilotRestartEnd_due since works restarts late

end Sys2Proof.Laws

/-!
PROOF. Triangulation (chapter 8, R281 to R285): a set from its first request to the vehicle that joins, or to its end.
-/

namespace Sys2Proof.Laws

open Sys2Proof.Machine Sys2Proof.Safety

/-! The sets (R282). -/

theorem find?_updFirst {α : Type} {p : α → Bool} {f : α → α} {x : α} {l : List α} (found : l.find? p = some x) (kept : p (f x) = true) :
    (updFirst p f l).find? p = some (f x) := by
  induction l with
  | nil => exact nomatch found
  | cons a l ih =>
    rw [updFirst]
    cases hit : p a
    case true =>
      rw [List.find?_cons_of_pos hit, Option.some.injEq] at found
      subst found
      exact List.find?_cons_of_pos kept
    case false =>
      rw [List.find?_cons_of_neg (by simp [hit])] at found
      rw [if_neg Bool.false_ne_true, List.find?_cons_of_neg (by simp [hit])]
      exact ih found

/-- A set that is rewritten is still that of its vehicle and run. -/
theorem setOf_updSet {mac run : Nat} {x : SoundSet} {f : SoundSet → SoundSet} {s : State} (found : setOf s mac run = some x)
    (vehicle : (f x).mac = x.mac) (number : (f x).run = x.run) : setOf (updSet mac run f s) mac run = some (f x) := by
  have hit := List.find?_some found
  exact find?_updFirst found (by rwa [vehicle, number])

theorem setOf_endSet (mac run : Nat) (s : State) : setOf (endSet mac run s) mac run = none := by
  rw [Machine.setOf, endSet, List.find?_eq_none]
  intro x mem
  simpa [imp_iff_not_or] using (List.mem_filter.mp mem).2

/-- A set that has ended does not come back where sets only end. -/
theorem setOf_none_of_subset {mac run : Nat} {s t : State} (fewer : t.link.sets ⊆ s.link.sets) (gone : setOf s mac run = none) :
    setOf t mac run = none := by
  rw [Machine.setOf, List.find?_eq_none] at gone ⊢
  exact fun x mem => gone x (fewer mem)

/-! What the count of ambiguous sets, and a pilot restart, leave (R288). -/

theorem linkEnd_sets (n cause : Nat) (s : State) : (linkEnd n cause s).link.sets ⊆ s.link.sets := by
  cases runs : linkRuns s n
  case true =>
    rw [linkEnd_running runs]
    exact List.filter_subset_self _
  case false =>
    rw [linkEnd_idle runs, dropLeave_link]
    split <;> exact List.Subset.refl _

theorem linkEnd_triAt (n cause : Nat) (s : State) : (linkEnd n cause s).link.triAt = s.link.triAt := by
  cases runs : linkRuns s n
  case true => rw [linkEnd_running runs]
  case false =>
    rw [linkEnd_idle runs, dropLeave_link]
    split <;> rfl

theorem pilotRestart_sets (n : Nat) (s : State) : (pilotRestart n s).link.sets ⊆ s.link.sets := by
  obtain more | last := Nat.lt_or_ge (lk s n).restarts (slacRestarts s)
  · rw [pilotRestart_more more]
    exact List.filter_subset_self _
  · rw [pilotRestart_last last]
    refine List.Subset.trans (linkEnd_sets n 8 _) ?_
    rw [event_link]
    exact List.Subset.refl _

theorem pilotRestart_triAt (n : Nat) (s : State) : (pilotRestart n s).link.triAt = s.link.triAt := by
  obtain more | last := Nat.lt_or_ge (lk s n).restarts (slacRestarts s)
  · rw [pilotRestart_more more]
  · rw [pilotRestart_last last, linkEnd_triAt, event_link]

/-- s with one more ambiguous set counted on outlet n. -/
def ambiguityCounted (n : Nat) (s : State) : State := updLk n (fun y => { y with attempts := satInc 8 y.attempts }) s

/-- An ambiguous set is not counted, or counted, or the last that the window allows. -/
theorem countAmbiguous_cases (n : Nat) (s : State) :
    countAmbiguous n s = s ∨ countAmbiguous n s = ambiguityCounted n s ∨ countAmbiguous n s = pilotRestart n (ambiguityCounted n s) := by
  unfold countAmbiguous
  dsimp only
  split
  · split
    · exact .inr (.inr rfl)
    · exact .inr (.inl rfl)
  · exact .inl rfl

theorem countAmbiguous_sets (n : Nat) (s : State) : (countAmbiguous n s).link.sets ⊆ s.link.sets := by
  obtain same | counted | restart := countAmbiguous_cases n s
  · rw [same]
    exact List.Subset.refl _
  · rw [counted]
    exact List.Subset.refl _
  · rw [restart]
    exact pilotRestart_sets n (ambiguityCounted n s)

theorem countAmbiguous_triAt (n : Nat) (s : State) : (countAmbiguous n s).link.triAt = s.link.triAt := by
  obtain same | counted | restart := countAmbiguous_cases n s
  · rw [same]
  · rw [counted]
    rfl
  · rw [restart]
    exact pilotRestart_triAt n (ambiguityCounted n s)

/-- Outlet n holds no match: neither the vehicle's address nor a key (R285). -/
def Unmatched (n : Nat) (s : State) : Prop := (lk s n).evMac = 0 ∧ (lk s n).nmk = none

theorem dropLeave_unmatched {n : Nat} {s : State} (free : Unmatched n s) : Unmatched n (dropLeave n s) := by
  by_cases asks : (lk s n).phase = 1
  · have inside : n < 8 := by
      by_contra outside
      rw [lk_outside (Nat.not_lt.mp outside)] at asks
      exact absurd asks (by decide)
    have record : lk (dropLeave n s) n = unasked (lk s n) := by
      rw [lk, dropLeave_link, if_pos asks]
      exact vget_vmod_self _ _ _ inside
    rw [Unmatched, record]
    exact free
  · have same : lk (dropLeave n s) n = lk s n := lk_of_outs (by rw [dropLeave_link, if_neg asks]) n
    rw [Unmatched, same]
    exact free

theorem linkEnd_unmatched {n : Nat} {s : State} (free : Unmatched n s) (cause : Nat) : Unmatched n (linkEnd n cause s) := by
  cases runs : linkRuns s n
  case true =>
    rw [Unmatched, lk_linkEnd (lt_of_linkRuns runs) runs]
    exact ⟨rfl, rfl⟩
  case false =>
    rw [linkEnd_idle runs]
    exact dropLeave_unmatched free

theorem pilotRestart_unmatched {n : Nat} {s : State} (inside : n < 8) (free : Unmatched n s) : Unmatched n (pilotRestart n s) := by
  obtain more | last := Nat.lt_or_ge (lk s n).restarts (slacRestarts s)
  · rw [Unmatched, lk_pilotRestart_more inside more]
    exact ⟨rfl, rfl⟩
  · rw [pilotRestart_last last]
    apply linkEnd_unmatched
    rw [Unmatched, lk_event]
    exact free

theorem countAmbiguous_unmatched {n : Nat} {s : State} (inside : n < 8) (free : Unmatched n s) : Unmatched n (countAmbiguous n s) := by
  have counted : Unmatched n (ambiguityCounted n s) := by
    rw [Unmatched, ambiguityCounted, lk_updLk_self inside]
    exact free
  obtain same | once | restart := countAmbiguous_cases n s
  · rwa [same]
  · rwa [once]
  · rw [restart]
    exact pilotRestart_unmatched inside counted

/-! The first request (R282, R283). -/

/-- The set that a first request begins on line c. -/
def newSet (mac run c now : Nat) (margin : Int) : SoundSet := { mac := mac, run := run, cand := c, last := now, margin := margin }

/-- s with a set begun and answered on its candidate. -/
def setBegun (x : SoundSet) (s : State) : State :=
  tell x.cand ansParm (updLk x.cand (fun y => { y with tried := satInc 8 y.tried }) (s.withLink { s.link with sets := s.link.sets ++ [x] }))

/-- The strongest line begins a set and answers, when its window is open and no other set and no link holds it (R283). -/
theorem execCmSlacParmReq_first {mac run c a : Nat} {atten : List (Option Nat)} {d : Int} {s : State}
    (line : strongest (heardLines s atten) = some (c, a)) (works : linkWorks s = true) (first : setOf s mac run = none)
    (room : s.link.sets.length < 8) (window : (lk s c).phase = 2) (opened : (lk s c).windowOpen = true)
    (alone : s.link.sets.any (fun t => t.cand == c) = false) (margin : lowestMargin c a (heardLines s atten) = some d) :
    execCmSlacParmReq mac run atten s = .next (setBegun (newSet mac run c s.clock.tick (satInt 16 d)) s) := by
  simp only [execCmSlacParmReq, line, works, first, margin, marginOr, window, opened, alone, Nat.not_le.mpr room, Bool.not_true,
    Bool.false_eq_true, if_false]
  rfl

/-! Soundings (R284). -/

/-- A set with a sounding measured on the CCS lines of s. -/
def sounded (atten : List (List Nat)) (s : State) (x : SoundSet) : SoundSet :=
  { x with stage := 2, last := s.clock.tick, collectAt := if x.stage = 1 then s.clock.tick else x.collectAt,
           heard := ((List.range 8).filter (ccsLine s)).foldl (fun v r =>
             match (atten[r]?).getD [] with
             | [] => v
             | g => vmod v r (fun l => l ++ [g])) x.heard }

theorem execSoundingReceived_collecting {mac run : Nat} {x : SoundSet} {s : State} (found : setOf s mac run = some x) (stage : x.stage ≤ 2)
    (works : linkWorks s = true) (atten : List (List Nat)) : ∃ t, execSoundingReceived mac run atten s = .next t ∧
      setOf t mac run = some (sounded atten s x) ∧ OnlyChanges [.link] s t := by
  have stage : ¬ 2 < x.stage := Nat.not_lt.mpr stage
  refine ⟨_, rfl, ?_, updSet_only _ _ _ (by decide) (.refl _ s)⟩
  refine (setOf_updSet found ?_ ?_).trans (congrArg some ?_)
  all_goals rw [works, Bool.not_true, if_neg Bool.false_ne_true, if_neg stage]
  rfl

/-! The end of the collection (R284, R287). -/

/-- The sets and the stamps of a state. -/
def collected (s : State) : List SoundSet × Vector Nat 8 := (s.link.sets, s.link.triAt)

/-- A report of crosstalk leaves the sets and the stamps. -/
theorem crosstalk_collected (c a : Nat) (l : List (Nat × Nat)) (s : State) : collected (crosstalk c a l s) = collected s := by
  refine foldl_kept collected (fun s x => ?_) _ _
  dsimp only
  split
  · rw [collected, event_link]
    rfl
  · rfl

/-- The set of a collection that has ended: answered, with the margin measured. -/
def attenSent (m : Int) (x : SoundSet) : SoundSet := { x with stage := 3, margin := m }

/-- A collection that ends stamps the candidate's row, and either the set is ambiguous and over, or it is answered (R284). -/
theorem execAttenCollectionEnd_cases {mac run : Nat} {x : SoundSet} {s : State} (found : setOf s mac run = some x) (stage : x.stage ≤ 2)
    (works : linkWorks s = true) : ∃ u t, collected u = (s.link.sets, vset s.link.triAt x.cand s.clock.legal) ∧
      execAttenCollectionEnd mac run s = .next t ∧
      ((∃ cause line m, t = countAmbiguous x.cand (ambiguous x.cand cause line m mac (endSet mac run u))) ∨
        ∃ m, t = tell x.cand ansAtten (updSet mac run (attenSent m) u)) := by
  have stage : ¬ 2 < x.stage := Nat.not_lt.mpr stage
  simp only [execAttenCollectionEnd, found, stage, works, Bool.not_true, Bool.false_eq_true, or_self, if_false]
  split
  · exact ⟨_, _, rfl, rfl, .inl ⟨_, _, _, rfl⟩⟩
  · split
    · split
      · exact ⟨_, _, crosstalk_collected .., rfl, .inl ⟨_, _, _, rfl⟩⟩
      · exact ⟨_, _, crosstalk_collected .., rfl, .inr ⟨_, rfl⟩⟩
    · exact ⟨_, _, crosstalk_collected .., rfl, .inr ⟨_, rfl⟩⟩

/-! The match and the join (R280, R285). -/

/-- An outlet's record after a match with a vehicle, with a key of its own. -/
def matched (mac : Nat) (key : BitVec 128) (margin : Nat) (x : LinkOut) : LinkOut :=
  { x with nmk := some key, nid := some (Config.networkId key), evMac := mac, margin := margin, windowOpen := false }

/-- s with the set of a vehicle and run matched on its candidate. -/
def matchSent (mac run : Nat) (x : SoundSet) (s : State) : State :=
  tell x.cand ansMatch (updSet mac run (fun t => { t with stage := 4, last := s.clock.tick, matchAt := s.clock.tick })
    (updLk x.cand (matched mac (Config.membershipKey s.factory.freeCtr) x.margin.toNat) s.drawFree))

theorem lk_matchSent {mac run : Nat} {x : SoundSet} (inside : x.cand < 8) (s : State) : lk (matchSent mac run x s) x.cand =
    matched mac (Config.membershipKey s.factory.freeCtr) x.margin.toNat (lk s x.cand) :=
  lk_updLk_self inside _ s.drawFree

theorem setOf_matchSent {mac run : Nat} {x : SoundSet} {s : State} (found : setOf s mac run = some x) :
    setOf (matchSent mac run x s) mac run = some { x with stage := 4, last := s.clock.tick, matchAt := s.clock.tick } :=
  setOf_updSet (x := x) (s := updLk x.cand (matched mac (Config.membershipKey s.factory.freeCtr) x.margin.toNat) s.drawFree) found rfl rfl

theorem execCmSlacMatchReq_answered {mac run : Nat} {x : SoundSet} {s : State} (found : setOf s mac run = some x) (stage : x.stage = 3)
    (works : linkWorks s = true) (opened : (lk s x.cand).windowOpen = true) (pilot : (lk s x.cand).pilot = 1) :
    execCmSlacMatchReq mac run s = .next (matchSent mac run x s) := by
  simp only [execCmSlacMatchReq, found, stage, works, opened, pilot, Bool.not_true, Bool.false_eq_true, if_false, and_self, if_true]
  rfl

theorem execCmValidateReq_known {n mac : Nat} {s : State} (works : linkWorks s = true) (ccs : ccsLine s n = true)
    (known : s.link.sets.any (fun t => t.mac == mac && t.cand == n) = true) : execCmValidateReq n mac s = .next (tell n ansValidate s) := by
  simp [execCmValidateReq, works, ccs, known]

theorem lk_bindLink {n : Nat} (inside : n < 8) (mac : Nat) (s : State) :
    lk (bindLink n mac s) n = { lk s n with phase := 3, evMac := mac, talker := mac, keys := s.link.seccKeys } :=
  lk_updLk_self inside _ s

theorem execVehicleJoin_matched {mac run : Nat} {x : SoundSet} {s : State} (found : setOf s mac run = some x) (stage : x.stage = 4)
    (works : linkWorks s = true) (window : (lk s x.cand).phase = 2) : ∃ payload, execVehicleJoin mac run s =
      .next (event 0x0521 payload (bindLink x.cand (lk s x.cand).evMac (endSet mac run s))) := by
  simp only [execVehicleJoin, found, stage, works, window, and_self, if_true]
  exact ⟨_, rfl⟩

/-- SLAC_INIT has not run out since PWM5 started on outlet n (R278). -/
def windowLeft (s : State) (n : Nat) : Bool := (lk s n).pwmAt.any (fun p => decide (s.clock.tick < p + slacInit s))

/-- s with a match undone on its candidate, and the ambiguity of its set reported. -/
def matchUndone (mac run : Nat) (x : SoundSet) (s : State) : State :=
  ambiguous x.cand 6 x.cand x.margin mac (updLk x.cand (fun y =>
    { y with evMac := 0, margin := 0, nmk := none, nid := none, windowOpen := windowLeft s x.cand }) (endSet mac run s))

theorem matchUndone_unmatched {x : SoundSet} (inside : x.cand < 8) (mac run : Nat) (s : State) :
    Unmatched x.cand (matchUndone mac run x s) := by
  rw [Unmatched, matchUndone, ambiguous, lk_event, lk_updLk_self inside]
  exact ⟨rfl, rfl⟩

theorem setOf_matchUndone (mac run : Nat) (x : SoundSet) (s : State) : setOf (matchUndone mac run x s) mac run = none := by
  rw [Machine.setOf, matchUndone, ambiguous_link]
  exact setOf_endSet mac run s

/-- A match that 12 s have not led to a join is undone; the window goes on, or the pilot restarts (R285). -/
theorem execJoinTimeout_due {mac run : Nat} {x : SoundSet} {s : State} (found : setOf s mac run = some x) (stage : x.stage = 4)
    (works : linkWorks s = true) (late : x.matchAt + 240000 ≤ s.clock.tick) : execJoinTimeout mac run s =
      .next (if windowLeft s x.cand then countAmbiguous x.cand (matchUndone mac run x s) else pilotRestart x.cand (matchUndone mac run x s)) := by
  have late : x.matchAt + secF 12 ≤ s.now := late
  cases since : (lk s x.cand).pwmAt
  all_goals
    simp only [execJoinTimeout, found, stage, works, late, and_self, if_true, windowLeft, matchUndone, since]
    rfl

theorem execSoundingSetTimeout_due {mac run : Nat} {x : SoundSet} {s : State} (found : setOf s mac run = some x) (stage : x.stage < 4)
    (works : linkWorks s = true) (late : x.last + 40000 ≤ s.clock.tick) : execSoundingSetTimeout mac run s = .next (endSet mac run s) := by
  have late : x.last + secF 2 ≤ s.now := late
  simp only [execSoundingSetTimeout, found, works, stage, late, and_self, if_true]

/-- Settles O51, one clause for each row, in the order of an association. -/
theorem triangulationBinds : Obligations.TriangulationBinds := by
  unfold Obligations.TriangulationBinds
  refine ⟨?first, ?sounding, ?collection, ?matched, ?validate, ?join, ?unjoined, ?silent⟩
  case first =>
    intro mac run atten c a d s line works first room window opened alone margin
    exact ⟨_, _, execCmSlacParmReq_first line works first room window opened alone margin, rfl, rfl, rfl, rfl, rfl, rfl, rfl, rfl,
      tell_only _ _ (by decide) (updLk_only _ _ (by decide) (withLink_only _ (by decide) (.refl _ s)))⟩
  case sounding =>
    intro mac run atten x s found stage works
    obtain ⟨t, step, set, only⟩ := execSoundingReceived_collecting found stage works atten
    exact ⟨t, _, step, set, rfl, rfl, rfl, only⟩
  case collection =>
    intro mac run x s found stage inside works
    obtain ⟨u, t, same, step, ends | answered⟩ := execAttenCollectionEnd_cases found stage works
    all_goals obtain ⟨sets, stamps⟩ := Prod.mk.inj same
    · obtain ⟨cause, line, m, rfl⟩ := ends
      have gone : setOf (ambiguous x.cand cause line m mac (endSet mac run u)) mac run = none := by
        rw [Machine.setOf, ambiguous_link]
        exact setOf_endSet mac run u
      refine ⟨_, step, ?_, fun v set => ?_⟩
      · rw [countAmbiguous_triAt, ambiguous_link]
        exact (congrArg (vget · x.cand 0) stamps).trans (vget_vset_self inside _ _ _)
      · exact nomatch (setOf_none_of_subset (countAmbiguous_sets _ _) gone).symm.trans set
    · obtain ⟨m, rfl⟩ := answered
      have found : setOf u mac run = some x := by
        rw [Machine.setOf, sets]
        exact found
      refine ⟨_, step, (congrArg (vget · x.cand 0) stamps).trans (vget_vset_self inside _ _ _), fun v set => ?_⟩
      obtain rfl : attenSent m x = v := Option.some.inj ((setOf_updSet (f := attenSent m) found rfl rfl).symm.trans set)
      exact ⟨rfl, rfl, rfl⟩
  case matched =>
    intro mac run x s found stage inside works opened pilot
    refine ⟨_, _, execCmSlacMatchReq_answered found stage works opened pilot, setOf_matchSent found, rfl, rfl, ?_⟩
    rw [lk_matchSent inside]
    exact ⟨rfl, rfl, rfl, rfl, rfl, tell_only _ _ (by decide) (updSet_only _ _ _ (by decide) (updLk_only _ _ (by decide)
      (State.drawFree_only (by decide) (.refl _ s))))⟩
  case validate => exact fun n mac s works ccs known => execCmValidateReq_known works ccs known
  case join =>
    intro mac run x s found stage inside works window
    obtain ⟨payload, step⟩ := execVehicleJoin_matched found stage works window
    refine ⟨_, step, ?_⟩
    rw [lk_event, lk_bindLink inside]
    refine ⟨rfl, rfl, ?_, event_only _ _ (by decide) (by decide) (bindLink_only _ _ (by decide) (endSet_only _ _ (by decide) (.refl _ s)))⟩
    rw [Machine.setOf, event_link]
    exact setOf_endSet mac run s
  case unjoined =>
    intro mac run x s found stage inside works late
    have free := matchUndone_unmatched inside mac run s
    have gone := setOf_matchUndone mac run x s
    refine ⟨_, execJoinTimeout_due found stage works late, ?_⟩
    split
    · obtain ⟨address, key⟩ := countAmbiguous_unmatched inside free
      exact ⟨address, key, setOf_none_of_subset (countAmbiguous_sets _ _) gone⟩
    · obtain ⟨address, key⟩ := pilotRestart_unmatched inside free
      exact ⟨address, key, setOf_none_of_subset (pilotRestart_sets _ _) gone⟩
  case silent => exact fun mac run x s found stage works late => execSoundingSetTimeout_due found stage works late

end Sys2Proof.Laws

/-!
PROOF. The grace of a link's stop (chapter 8, R298): a link whose end waits with cause 8 ends as one that SLAC has failed.
-/

namespace Sys2Proof.Laws

open Sys2Proof.Machine Sys2Proof.Safety

/-- s with the stop of outlet n no longer awaited. -/
def stopTaken (n : Nat) (s : State) : State := updLk n (fun y => { y with stopAt := none }) s

/-- When the grace is over, the link stops with the cause that waits, 1 where none does. -/
theorem execStopGraceExpiry_due {n t0 : Nat} {s : State} (asked : (lk s n).stopAt = some t0) (works : linkWorks s = true)
    (late : t0 + stopGrace s ≤ s.clock.tick) : execStopGraceExpiry n s =
      .next (stopLink n ((lk s n).endCause.getD 1) 0 (tRamp s n) (stopTaken n s)) := by
  have late : t0 + stopGrace s ≤ s.now := late
  simp only [execStopGraceExpiry, asked, works, late, and_self, if_true]
  rfl

/-- Without a sequence under way the link ends with that cause. -/
theorem execStopGraceExpiry_idle {n t0 : Nat} {s : State} (asked : (lk s n).stopAt = some t0) (works : linkWorks s = true)
    (late : t0 + stopGrace s ≤ s.clock.tick) (idle : (sq s n).state = 0) (runs : linkRuns s n = true) :
    ∃ t, execStopGraceExpiry n s = .next t ∧ lk t n = ended ((lk s n).endCause.getD 1) { lk s n with stopAt := none } := by
  have inside := lt_of_linkRuns runs
  have record : lk (stopTaken n s) n = { lk s n with stopAt := none } := lk_updLk_self inside _ s
  have runs : linkRuns (stopTaken n s) n = true := (linkRuns_congr (by rw [record]) (by rw [record])).trans runs
  have idle : (sq (stopTaken n s) n).state = 0 := idle
  refine ⟨_, execStopGraceExpiry_due asked works late, ?_⟩
  rw [stopLink_idle idle, lk_linkEnd (s := closeAt n (stopTaken n s)) inside runs]
  exact congrArg _ record

/-- A link that delivers nothing has been asked to stop, and its end waits with cause 8. -/
def stoppingAsFailed : LinkOut := { phase := 7, stopAt := some 0, endCause := some 8 }

/-- The device runs, and STOP_GRACE is over for the link of outlet 0. -/
def graceOver : State :=
  { State.reset with
    clock := { State.reset.clock with tick := 100000 }
    rst := { State.reset.rst with asserted := [], phase := .running }
    link := { State.reset.link with outs := vset State.reset.link.outs 0 stoppingAsFailed } }

/-- Refutes O52: its last clause has the outlet idle when STOP_GRACE is over, whatever cause the link's end waits with, and cause 8, as after
SLAC_FAILED, leaves it waiting for state A; graceOver meets the clause's premises and comes to phase 9. -/
theorem not_linksRunAndEnd : ¬ Obligations.LinksRunAndEnd := by
  unfold Obligations.LinksRunAndEnd
  rintro ⟨-, -, -, -, -, -, -, grace⟩
  obtain ⟨t, step, -, idle⟩ := grace 0 0 graceOver (by decide) rfl rfl (by decide)
  obtain ⟨u, same, record⟩ := execStopGraceExpiry_idle (n := 0) (t0 := 0) (s := graceOver) rfl rfl (by decide) rfl rfl
  obtain rfl : u = t := Host.Outcome.next.inj (same.symm.trans step)
  have failed : (lk u 0).phase = 9 := by
    rw [record]
    rfl
  exact absurd (failed.symm.trans (idle rfl rfl)) (by decide)

end Sys2Proof.Laws

/-!
PROOF. Authorization (chapter 8, R295 to R297, R301): the request, its refusal, its deadline, the host's decision, and the SECC keys and
certificates.
-/

namespace Sys2Proof.Laws

open Sys2Proof.Machine Sys2Proof.Safety

/-! The request (R295). -/

/-- The request that outlet n makes in s (R296). -/
def requestOf (n : Nat) (s : State) : AuthReq :=
  { number := (s.link.requestCtr + 1) % 2 ^ 32, outlet := n, method := (lk s n).authMethod, protocol := (lk s n).protocol,
    contract := (lk s n).authContract, chain := (lk s n).authChain, deadline := s.clock.tick + authDeadline s }

theorem newAuth_link (n : Nat) (s : State) : (newAuth n s).link =
    { s.link with outs := vmod s.link.outs n (fun y => { y with refuseAt := none }), requestCtr := (requestOf n s).number,
                  requests := (requestOf n s :: s.link.requests).take 64 } := by
  simp only [newAuth, authEvent, event_link]
  rfl

theorem lk_newAuth {n : Nat} (inside : n < 8) (s : State) : lk (newAuth n s) n = { lk s n with refuseAt := none } := by
  rw [lk, newAuth_link]
  exact vget_vmod_self _ _ _ inside

/-- s with the identity bound to outlet n heard again. -/
def heardAgain (n : Nat) (s : State) : State := updLk n (fun y => { y with talker := (lk s n).evMac }) s

/-- s with the link of outlet n at the authorization step of its protocol. -/
def authorizationReached (n method : Nat) (contract : List Byte) (chain : Nat) (s : State) : State :=
  updLk n (fun y => { y with phase := 5, authMethod := method, authContract := contract, authChain := chain, refuseAt := some s.clock.tick,
                             lastFrame := s.clock.tick }) (heardAgain n s)

theorem authorizationReached_awaits {n : Nat} (inside : n < 8) (method : Nat) (contract : List Byte) (chain : Nat) (s : State) :
    let x := lk (authorizationReached n method contract chain s) n
    x.phase = 5 ∧ x.refuseAt = some s.clock.tick := by
  rw [authorizationReached, lk_updLk_self inside]
  exact ⟨rfl, rfl⟩

/-- The first request of a bound vehicle: the link reaches authorization, and the host is asked where nothing refuses it. -/
theorem execAuthorizationReq_first {n : Nat} {s : State} (works : linkWorks s = true) (frame : frameTaken s n = true)
    (agreed : (lk s n).phase = 4) (method : Nat) (contract chain : List Byte) : ∃ m c k,
      execAuthorizationReq n (lk s n).evMac method contract chain s = .next (tell n ansOngoing
        (if refuseCause s n = 0 then newAuth n (authorizationReached n m c k s) else authorizationReached n m c k s)) := by
  simp only [execAuthorizationReq, works, frame, agreed, Bool.and_self, Bool.not_true, Bool.false_eq_true, if_false, ne_eq,
    not_true_eq_false, if_true]
  exact ⟨_, _, _, rfl⟩

/-! A refusal that persists, and a deadline (R295, R296). -/

theorem execRefuseHoldExpiry_due {n t0 : Nat} {s : State} (since : (lk s n).refuseAt = some t0) (works : linkWorks s = true)
    (awaits : (lk s n).phase = 5) (late : t0 + refuseHold s ≤ s.clock.tick) (refuses : refuseCause s n ≠ 0) : execRefuseHoldExpiry n s =
      .next (event 0x0528 (le 1 n ++ le 1 (refuseCause s n)) (linkEnd n 7 (tell n ansFailed s))) := by
  have late : t0 + refuseHold s ≤ s.now := late
  simp only [execRefuseHoldExpiry, since, works, awaits, late, refuses, ne_eq, not_false_eq_true, and_self, if_true]

theorem execAuthDeadlineExpiry_due {n : Nat} {r : AuthReq} {s : State} (awaits : openAuth s n = some r) (works : linkWorks s = true)
    (late : r.deadline ≤ s.clock.tick) : execAuthDeadlineExpiry n s =
      .next (event 0x0526 (le 1 n ++ le 4 r.number) (linkEnd n 6 (tell n ansFailed (setAuth r.number 1 s)))) := by
  have late : r.deadline ≤ s.now := late
  simp only [execAuthDeadlineExpiry, awaits, works, late, and_self, if_true]

/-- The end of a link withdraws what it asks of the host (R297). -/
theorem openAuth_linkEnd {n : Nat} {s : State} (runs : linkRuns s n = true) (cause : Nat) : openAuth (linkEnd n cause s) n = none := by
  rw [openAuth, linkEnd_running runs, List.find?_eq_none]
  intro r mem
  obtain ⟨q, -, rfl⟩ := List.mem_map.mp mem
  split
  next => simp
  next others => simpa using others

/-! AUTH_DECIDE (R297). -/

/-- The payload of a decision that does not permit the vehicle to discharge. -/
def decision (k yes rest : Nat) : List Byte := le 4 k ++ le 1 yes ++ le 1 0 ++ le 4 rest

theorem decision_fields {k yes : Nat} (inside : k < 2 ^ 32) (flag : yes ≤ 1) (rest : Nat) : (decision k yes rest).length = 10 ∧
    numAt (decision k yes rest) 0 4 = k ∧ byteAt (decision k yes rest) 4 = yes ∧ byteAt (decision k yes rest) 5 = 0 := by
  have number : numAt (decision k yes rest) 0 4 = k := by
    rw [decision, List.append_assoc, List.append_assoc, numAt_le 4 k _ inside]
  have small : yes % 256 = yes := Nat.mod_eq_of_lt (by omega)
  exact ⟨by simp [decision, le_length], number, by simp [decision, byteAt, le, small], rfl⟩

/-- s with a request denied: the link that made it ends. -/
def denied (k n : Nat) (s : State) : State := linkEnd n 6 (tell n ansFailed (setAuth k 4 s))

theorem authDecideCmd_deny {k rest : Nat} {r : AuthReq} {s : State} (inside : k < 2 ^ 32) (role : 1 ≤ s.roles.role)
    (mode : s.modes.mode = .standby ∨ s.modes.mode = .service) (asked : authNo s k = some r) (pending : r.state = 0) :
    authDecideCmd (decision k 0 rest) (touchRole s) = { run := { st := denied k r.outlet (touchRole s) } } := by
  obtain ⟨length, number, yes, plain⟩ := decision_fields inside (Nat.zero_le 1) rest
  have role := role_le_touchRole role
  have mode : (touchRole s).modes.mode = .standby ∨ (touchRole s).modes.mode = .service := mode
  have asked : authNo (touchRole s) k = some r := asked
  simp [authDecideCmd, length, number, yes, plain, role, mode, asked, pending, denied]

theorem execAuthDecide_deny {h : Hdr} {k rest : Nat} {r : AuthReq} {s : State} (a : Accepted h 0x0510 (decision k 0 rest) s)
    (inside : k < 2 ^ 32) (role : 1 ≤ s.roles.role) (mode : s.modes.mode = .standby ∨ s.modes.mode = .service)
    (asked : authNo s k = some r) (pending : r.state = 0) : execAuthDecide h (decision k 0 rest) s =
      .next (answered s h 0x0510 (decision k 0 rest) .ok [] (denied k r.outlet (touchRole s))) :=
  congrArg _ (hostCommand_done a (authDecideCmd_deny inside role mode asked pending) nofun)

theorem lk_denied {n : Nat} {s : State} (inside : n < 8) (runs : linkRuns s n = true) (k : Nat) : lk (denied k n s) n = ended 6 (lk s n) :=
  lk_linkEnd (s := tell n ansFailed (setAuth k 4 s)) inside runs 6

/-- s with the number of the next easement request taken by a command that waits for its frame. -/
def waitTaken (s : State) : State := { s with ease := { s.ease with nextId := s.ease.nextId + 1 } }

theorem authDecideCmd_accept {k rest : Nat} {r : AuthReq} {s : State} (inside : k < 2 ^ 32) (role : 1 ≤ s.roles.role)
    (mode : s.modes.mode = .standby ∨ s.modes.mode = .service) (asked : authNo s k = some r) (pending : r.state = 0) :
    authDecideCmd (decision k 1 rest) (touchRole s) = { run := { st := waitTaken (touchRole s), wait := some s.ease.nextId } } := by
  obtain ⟨length, number, yes, plain⟩ := decision_fields inside (Nat.le_refl 1) rest
  have role := role_le_touchRole role
  have mode : (touchRole s).modes.mode = .standby ∨ (touchRole s).modes.mode = .service := mode
  have asked : authNo (touchRole s) k = some r := asked
  have next : nextReq (touchRole s) = s.ease.nextId := rfl
  simp [authDecideCmd, length, number, yes, plain, role, mode, asked, pending, waitTaken, next]

/-- s with a command left without a reply until request id is decided (R36, R297). -/
def awaiting (h : Hdr) (opcode : Nat) (p : List Byte) (id : Nat) (s : State) : State :=
  { s with port := { s.port with awaiting := s.port.awaiting ++
      [{ seq := h.seq, flags := h.flags, opcode := opcode, crc := commandCrc h opcode p, req := id, payload := p }] } }

/-- A command accepted in its plain form that waits for its answer. -/
theorem hostCommand_waits {h : Hdr} {opcode id : Nat} {p : List Byte} {cmd : State → Cmd} {s t : State} (a : Accepted h opcode p s)
    (e : cmd (touchRole s) = { run := { st := t, wait := some id } }) :
    hostCommand h opcode p cmd s = shown s (awaiting h opcode p id t) := by
  have pads := portOpen_of_runs a.runs
  have short : ¬ 4096 < p.length := Nat.not_lt.mpr a.short
  have rom : (s.inRom && !romCommands.contains opcode) = false := by
    cases inRom : s.inRom
    · rfl
    · rw [a.rom inRom]
      rfl
  have up : (touchRole s).shutting = false := a.up
  have checked : (cmd (touchRole s)).verdict h.flags (touchRole s) = none := by
    simp [Cmd.verdict, Level.formOk, e, a.flags, a.basic, up]
  unfold hostCommand packetTaken
  simp only [pads, rxReady_of_free a.runs a.free, short, rom, not_ack a.flags, a.fresh, checked, Bool.not_true, Bool.false_eq_true, if_false]
  rw [e]
  exact codeShifted_shown _ pads

/-- What the host has read of a transaction leaves the replies and the commands that wait. -/
theorem shown_port (s t : State) : (shown s t).port.awaiting = t.port.awaiting ∧ (shown s t).port.replies = t.port.replies := by
  unfold shown
  split <;> exact ⟨rfl, rfl⟩

theorem withPort_only {l : List Part} {u s : State} (v : Port) (k : Part.port ∈ l) (h : OnlyChanges l u s) :
    OnlyChanges l u (s.withPort v) := by
  apply OnlyChanges.upd h
  case h6 => exact fun absent => absurd k absent
  all_goals exact fun _ => rfl

theorem shown_only {l : List Part} {u t : State} (s : State) (k : Part.port ∈ l) (h : OnlyChanges l u t) : OnlyChanges l u (shown s t) := by
  unfold shown
  exact .ite (withPort_only _ k h) h

theorem waitTaken_only {l : List Part} {u s : State} (k : Part.ease ∈ l) (h : OnlyChanges l u s) : OnlyChanges l u (waitTaken s) := by
  apply OnlyChanges.upd h
  case h9 => exact fun absent => absurd k absent
  all_goals exact fun _ => rfl

/-- An accept is taken up in the next frame. -/
theorem execAuthDecide_accept {h : Hdr} {k rest : Nat} {r : AuthReq} {s : State} (a : Accepted h 0x0510 (decision k 1 rest) s)
    (inside : k < 2 ^ 32) (role : 1 ≤ s.roles.role) (mode : s.modes.mode = .standby ∨ s.modes.mode = .service)
    (asked : authNo s k = some r) (pending : r.state = 0) : execAuthDecide h (decision k 1 rest) s =
      .next (shown s (awaiting h 0x0510 (decision k 1 rest) s.ease.nextId (waitTaken (touchRole s)))) :=
  congrArg _ (hostCommand_waits a (authDecideCmd_accept inside role mode asked pending))

/-! An accept in the frame after its command (R297). -/

@[simp] theorem sign_billing (r : Record) (s : State) : (sign r s).billing = s.billing :=
  Part.kept (p := .billing) (by simp [sign_only, OnlyChanges.refl])

@[simp] theorem cancelSync_billing (s : State) : (cancelSync s).billing = s.billing :=
  Part.kept (p := .billing) (by simp [cancelSync_only, OnlyChanges.refl])

@[simp] theorem cancelSync_modes (s : State) : (cancelSync s).modes = s.modes :=
  Part.kept (p := .modes) (by simp [cancelSync_only, OnlyChanges.refl])

/-- STANDBY is left for SERVICE without a change of what is billed. -/
theorem enterMode_service_billing {s : State} (standby : s.modes.mode = .standby) (input pending : Nat) :
    (enterMode .service input pending s).billing = s.billing := by
  simp [enterMode, standby]

/-- A session opens on an outlet with the next identifier (R105, R206). -/
theorem openSession_billing (n : Nat) (exportOk : Bool) (maxImp maxExp : Nat) (s : State) : ∃ x,
    (openSession n exportOk maxImp maxExp s).billing =
      { s.billing with sessions := vset s.billing.sessions n (some x), sessionCtr := s.billing.sessionCtr + 1 } := by
  unfold openSession
  dsimp only
  split
  next standby => exact ⟨_, by rw [enterMode_service_billing standby, cancelSync_billing, sign_billing]; rfl⟩
  next => exact ⟨_, by rw [cancelSync_billing, sign_billing]; rfl⟩

/-- A session that opens in STANDBY leads to SERVICE (R107). -/
theorem openSession_standby {s : State} (standby : s.modes.mode = .standby) (n : Nat) (exportOk : Bool) (maxImp maxExp : Nat) :
    (openSession n exportOk maxImp maxExp s).modes.mode = .service := by
  unfold openSession
  dsimp only
  rw [if_pos (by rw [cancelSync_modes, sign_modes]; exact standby), enterMode_mode]

/-- s with request r accepted, and the session of its outlet open under the limits of the decision's payload. -/
def sessionGranted (p : List Byte) (r : AuthReq) (s : State) : State :=
  openSession r.outlet (byteAt p 5 == 1) (numAt p 6 2) (numAt p 8 2) (setAuth r.number 3 s)

/-- s with an accept answered, and the link of outlet n and its vehicle told of the session. -/
def acceptAnswered (a : Awaiting) (n : Nat) (s : State) : State :=
  let t := answerAwaiting a .ok (le 8 (sessionId s n)) s
  tell n ansOk (updLk n (fun y => { y with phase := 6, session := sessionId t n }) t)

theorem acceptAnswered_only (a : Awaiting) (n : Nat) (s : State) : OnlyChanges [.port, .link] s (acceptAnswered a n s) :=
  tell_only _ _ (by decide) (updLk_only _ _ (by decide) (answerAwaiting_only _ _ _ (by decide) (.refl _ s)))

theorem acceptAnswered_phase (a : Awaiting) {n : Nat} (inside : n < 8) (s : State) : (lk (acceptAnswered a n s) n).phase = 6 :=
  congrArg LinkOut.phase (lk_updLk_self inside _ (answerAwaiting a .ok (le 8 (sessionId s n)) s))

/-- An accept that no condition and no change of identity stops opens the session, and is answered with its identifier. -/
theorem acceptAuth_opens {a : Awaiting} {r : AuthReq} {s : State} (asked : authNo s (numAt a.payload 0 4) = some r) (pending : r.state = 0)
    (awaits : (lk s r.outlet).phase = 5) (clear : refuseCause s r.outlet = 0) (bound : (lk s r.outlet).talker = (lk s r.outlet).evMac)
    (pp : ppOk s r.outlet = true) (closed : s.sessionOpen r.outlet = false) :
    acceptAuth a s = acceptAnswered a r.outlet (sessionGranted a.payload r s) := by
  simp [acceptAuth, asked, pending, awaits, clear, bound, pp, closed, sessionGranted, acceptAnswered]

theorem sessionGranted_only (p : List Byte) (r : AuthReq) (s : State) :
    OnlyChanges [.modes, .port, .fe, .energy, .billing, .log, .link, .tag, .store] s (sessionGranted p r s) :=
  openSession_only _ _ _ _ (by decide) (by decide) (by decide) (by decide) (by decide) (by decide) (by decide) (by decide)
    (setAuth_only _ _ (by decide) (.refl _ s))

theorem sessionGranted_billing (p : List Byte) (r : AuthReq) (s : State) : ∃ x, (sessionGranted p r s).billing =
    { s.billing with sessions := vset s.billing.sessions r.outlet (some x), sessionCtr := s.billing.sessionCtr + 1 } := by
  rw [sessionGranted]
  exact openSession_billing r.outlet _ _ _ (setAuth r.number 3 s)

theorem sessionGranted_standby {s : State} (standby : s.modes.mode = .standby) (p : List Byte) (r : AuthReq) :
    (sessionGranted p r s).modes.mode = .service := by
  have standby : (setAuth r.number 3 s).modes.mode = .standby := standby
  rw [sessionGranted, openSession_standby standby]

theorem present_congr {s t : State} (factory : t.factory = s.factory) (rst : t.rst = s.rst) (n : Nat) : t.present n = s.present n := by
  rw [State.present, State.present, State.outletCount, State.outletCount, factory, rst]

/-- A session that is kept for a present outlet is open. -/
theorem sessionOpen_of_kept {n : Nat} {x : Session} {s : State} (present : s.present n = true) (kept : s.session n = some x) :
    s.sessionOpen n = true := by
  simp [State.sessionOpen, present, kept]

/-! SECC keys and certificates (R293, R301). -/

/-- s with a key drawn for SECC slot k. -/
def keyDrawn (k : Nat) (s : State) : State :=
  s.drawFree.withLink { s.link with seccKeys := vset s.link.seccKeys k (some (Config.seccKey s.factory.freeCtr)) }

theorem execSeccCsr_accepted {h : Hdr} {k : Nat} {subject : List Byte} {s : State} (a : Accepted h 0x0512 (le 1 k ++ subject) s)
    (role : 2 ≤ s.roles.role) (mode : standbyOrComm s = true) (slot : k ≤ 1) (length : subject.length = 64) :
    execSeccCsr h (le 1 k ++ subject) s = .next (answered s h 0x0512 (le 1 k ++ subject) .ok
      ((Config.certRequest (Config.seccKey s.factory.freeCtr) subject).take 4096) (keyDrawn k (touchRole s))) := by
  have role := role_le_touchRole role
  have mode : standbyOrComm (touchRole s) = true := mode
  have first : byteAt (le 1 k ++ subject) 0 = k := byteAt_le k subject (by omega)
  have size : (le 1 k ++ subject).length = 65 := by simp [le_length, length]
  have name : (le 1 k ++ subject).drop 1 = subject := List.drop_left' (le_length 1 k)
  have key : (touchRole s).factory.freeCtr = s.factory.freeCtr := rfl
  have cmd : seccCsrCmd (le 1 k ++ subject) (touchRole s) = { run :=
      { st := keyDrawn k (touchRole s), data := (Config.certRequest (Config.seccKey s.factory.freeCtr) subject).take 4096 } } := by
    simp [seccCsrCmd, role, mode, first, size, name, slot, keyDrawn, key]
  exact congrArg _ (hostCommand_done a cmd nofun)

/-- A certificate as SECC_CERT_SET carries it. -/
def certificate (k : Nat) (der : List Byte) : List Byte := le 1 k ++ le 2 der.length ++ der

/-- The certificate may be kept in slot k: well formed, and in a leaf's slot of the key that the slot holds (R301). -/
def certFits (s : State) (k : Nat) (der : List Byte) : Bool :=
  Config.derWellFormed der && (decide (2 ≤ k) || (vget s.link.seccKeys k none).any (Config.derCarriesKey der))

/-- s with a certificate kept in slot k. -/
def certKept (k : Nat) (der : List Byte) (s : State) : State := s.withLink { s.link with certs := vset s.link.certs k der }

theorem seccCertCmd_checked {k : Nat} {der : List Byte} {s : State} (role : 2 ≤ s.roles.role) (mode : standbyOrComm s = true) (slot : k ≤ 5)
    (some : 1 ≤ der.length) (short : der.length ≤ 4000) : seccCertCmd (certificate k der) (touchRole s) =
      { params := certFits s k der, run := { st := certKept k der (touchRole s) } } := by
  have role := role_le_touchRole role
  have mode : standbyOrComm (touchRole s) = true := mode
  have first : byteAt (certificate k der) 0 = k := by
    rw [certificate, List.append_assoc, byteAt_le k _ (by omega)]
  have size : (certificate k der).length = 3 + der.length := by simp [certificate, le_length]; omega
  have len : numAt (certificate k der) 1 2 = der.length := by
    rw [certificate, List.append_assoc, numAt_append _ _ 1 2 _ (le_length 1 k) (by omega)]
  have body : (certificate k der).drop 3 = der := List.drop_left' (by simp [le_length])
  have long : 4 ≤ 3 + der.length := by omega
  have keys : (touchRole s).link = s.link := rfl
  cases key : vget s.link.seccKeys k none <;>
    simp [seccCertCmd, role, mode, first, size, len, body, slot, short, long, keys, key, certFits, certKept]

theorem execSeccCertSet_accepted {h : Hdr} {k : Nat} {der : List Byte} {s : State} (a : Accepted h 0x0513 (certificate k der) s)
    (role : 2 ≤ s.roles.role) (mode : standbyOrComm s = true) (slot : k ≤ 5) (some : 1 ≤ der.length) (short : der.length ≤ 4000) :
    execSeccCertSet h (certificate k der) s = .next
      (if certFits s k der then answered s h 0x0513 (certificate k der) .ok [] (certKept k der (touchRole s))
       else turnedAway s h 0x0513 .badParam) := by
  have cmd := seccCertCmd_checked role mode slot some short
  cases fits : certFits s k der
  case true =>
    rw [fits] at cmd
    exact congrArg _ (hostCommand_done a cmd nofun)
  case false =>
    rw [fits] at cmd
    refine congrArg _ (hostCommand_refuse a.runs a.free a.short a.fresh a.rom (not_ack a.flags) ?_)
    simp [Cmd.verdict, Level.formOk, cmd, a.flags, a.basic]

/-- Settles O53, one clause for each way in which an authorization goes on, and one for each command on keys and certificates. -/
theorem authorizationDecides : Obligations.AuthorizationDecides := by
  unfold Obligations.AuthorizationDecides
  refine ⟨?asked, ?refused, ?held, ?expired, ?denied, ?waits, ?opens, ?key, ?certificate⟩
  case asked =>
    intro n method contract chain s inside works frame agreed clear
    obtain ⟨m, c, k, step⟩ := execAuthorizationReq_first works frame agreed method contract chain
    obtain ⟨awaits, -⟩ := authorizationReached_awaits inside m c k s
    rw [if_pos clear] at step
    exact ⟨_, _, step, (congrArg LinkOut.phase (lk_newAuth inside _)).trans awaits, congrArg Link.requests (newAuth_link n _),
      rfl, rfl, rfl, rfl, rfl⟩
  case refused =>
    intro n method contract chain s inside works frame agreed refuses
    obtain ⟨m, c, k, step⟩ := execAuthorizationReq_first works frame agreed method contract chain
    obtain ⟨awaits, since⟩ := authorizationReached_awaits inside m c k s
    rw [if_neg refuses] at step
    exact ⟨_, step, awaits, rfl, since⟩
  case held =>
    intro n t0 s inside since works awaits late refuses
    have runs : linkRuns (tell n ansFailed s) n = true := linkRuns_of_phase (s := s) (by omega) (by omega)
    refine ⟨_, execRefuseHoldExpiry_due since works awaits late refuses, ?_⟩
    rw [lk_event, lk_linkEnd inside runs]
    exact ⟨rfl, rfl⟩
  case expired =>
    intro n r s inside awaits works late runs
    have runs : linkRuns (tell n ansFailed (setAuth r.number 1 s)) n = true := runs
    refine ⟨_, execAuthDeadlineExpiry_due awaits works late, ?_, ?_⟩
    · rw [lk_event, lk_linkEnd inside runs]
      rfl
    · rw [openAuth, event_link]
      exact openAuth_linkEnd runs 6
  case denied =>
    intro h k rest r s a role mode small asked pending inside runs
    exact ⟨_, execAuthDecide_deny a small role mode asked pending, congrArg LinkOut.phase (lk_denied (s := touchRole s) inside runs k)⟩
  case waits =>
    intro h k rest r s a role mode small asked pending
    obtain ⟨waits, replies⟩ := shown_port s (awaiting h 0x0510 (decision k 1 rest) s.ease.nextId (waitTaken (touchRole s)))
    exact ⟨_, _, execAuthDecide_accept a small role mode asked pending, waits, rfl, rfl, replies,
      shown_only s (by decide) (withPort_only _ (by decide) (waitTaken_only (by decide) (touchRole_only (by decide) (.refl _ s))))⟩
  case opens =>
    intro a r s asked pending present awaits clear bound pp closed
    have inside := lt_of_present present
    rw [acceptAuth_opens asked pending awaits clear bound pp closed]
    have granted := sessionGranted_only a.payload r s
    obtain ⟨x, billing⟩ := sessionGranted_billing a.payload r s
    have service := fun standby => sessionGranted_standby (s := s) standby a.payload r
    generalize sessionGranted a.payload r s = u at *
    have only := acceptAnswered_only a r.outlet u
    have billing := (only .billing (by decide)).trans billing
    have still := present_congr ((only .factory (by decide)).trans (granted .factory (by decide)))
      ((only .rst (by decide)).trans (granted .rst (by decide))) r.outlet
    have kept : (acceptAnswered a r.outlet u).session r.outlet = some x := by
      rw [State.session, billing]
      exact vget_vset_self inside _ _ _
    refine ⟨sessionOpen_of_kept (still.trans present) kept, acceptAnswered_phase a inside u, by rw [billing], fun standby => ?_⟩
    exact (congrArg ModeSt.mode (only .modes (by decide))).trans (service standby)
  case key =>
    intro h k subject s a role mode slot length
    exact ⟨_, execSeccCsr_accepted a role mode slot length, vget_vset_self (by omega) _ _ _, withLink_only _ (by decide)
      (State.drawFree_only (by decide) (touchRole_only (by decide) (.refl _ s)))⟩
  case certificate => exact fun h k der s a role mode slot some short => execSeccCertSet_accepted a role mode slot some short

end Sys2Proof.Laws

/-!
PROOF. The switching (chapter 9): the records of drivers, sequences and modules, and what every stop of an outlet leaves as it was.
-/

namespace Sys2Proof.Laws

open Sys2Proof.Machine Sys2Proof.Safety

/-! The record of one driver, and of one sequence. -/

theorem drv_updDrv_self {d : Nat} (inside : d < 24) (f : Driver → Driver) (s : State) : drv (updDrv d f s) d = f (drv s d) :=
  vget_vmod_self _ _ _ inside

theorem drv_updDrv_of_ne {d e : Nat} (other : e ≠ d) (f : Driver → Driver) (s : State) : drv (updDrv d f s) e = drv s e :=
  vget_vmod_of_ne _ _ _ other

/-- A driver past the last has the record of one that is off. -/
theorem drv_outside {d : Nat} (outside : 24 ≤ d) (s : State) : drv s d = {} := by
  simp [drv, vget, outside]

/-- A driver that is not off is one of the device's. -/
theorem lt_of_drv_state {d : Nat} {s : State} (busy : (drv s d).state ≠ 0) : d < 24 := by
  by_contra outside
  rw [drv_outside (Nat.not_lt.mp outside)] at busy
  exact busy rfl

theorem sq_updSq_self {n : Nat} (inside : n < 8) (f : Seq → Seq) (s : State) : sq (updSq n f s) n = f (sq s n) :=
  vget_vmod_self _ _ _ inside

theorem sq_updSq_of_ne {n m : Nat} (other : m ≠ n) (f : Seq → Seq) (s : State) : sq (updSq n f s) m = sq s m :=
  vget_vmod_of_ne _ _ _ other

theorem drv_of_sw {s t : State} (same : t.sw = s.sw) (d : Nat) : drv t d = drv s d := by
  rw [drv, same, drv]

theorem sq_of_sw {s t : State} (same : t.sw = s.sw) (n : Nat) : sq t n = sq s n := by
  rw [Machine.sq, same, Machine.sq]

@[simp] theorem drv_event (code : Nat) (payload : List Byte) (s : State) (d : Nat) : drv (event code payload s) d = drv s d :=
  drv_of_sw (event_sw ..) d

@[simp] theorem sq_event (code : Nat) (payload : List Byte) (s : State) (n : Nat) : sq (event code payload s) n = sq s n :=
  sq_of_sw (event_sw ..) n

/-- A driver's record as it is switched off (R307, R310). -/
def switchedOff (now : Nat) (x : Driver) : Driver :=
  { x with cmd := false, state := if x.state = 3 ∨ x.state = 4 then x.state else 0, current := 0, req := none, hwOff := none,
           changedAt := if x.cmd then now else x.changedAt,
           expect := if x.cmd && !x.mainOpen then some true else if x.cmd then none else x.expect }

/-- The drivers after one is switched off; its leave ends with it. -/
theorem driverOff_sw (d : Nat) (s : State) : (driverOff d s).sw = { s.sw with drivers := vmod s.sw.drivers d (switchedOff s.now) } := by
  show { (releaseOpt (drv s d).req s).sw with drivers := vmod (releaseOpt (drv s d).req s).sw.drivers d (switchedOff s.now) } = _
  rw [releaseOpt_sw]

theorem drv_driverOff_self {d : Nat} (inside : d < 24) (s : State) : drv (driverOff d s) d = switchedOff s.now (drv s d) := by
  rw [drv, driverOff_sw]
  exact vget_vmod_self _ _ _ inside

/-- A driver that is switched off conducts no more. -/
theorem driverOff_cmd (d : Nat) (s : State) : (drv (driverOff d s) d).cmd = false := by
  by_cases inside : d < 24
  · rw [drv_driverOff_self inside]
    rfl
  · rw [drv_outside (Nat.not_lt.mp inside)]

@[simp] theorem sq_driverOff (d : Nat) (s : State) (n : Nat) : sq (driverOff d s) n = sq s n := by
  rw [Machine.sq, driverOff_sw, Machine.sq]

@[simp] theorem sq_driversOff (ds : List Nat) (s : State) (n : Nat) : sq (ds.foldl (fun s d => driverOff d s) s) n = sq s n :=
  foldl_kept (sq · n) (fun s d => sq_driverOff d s n) _ _

@[simp] theorem sq_ownersCleared (ms : List Nat) (s : State) (n : Nat) : sq (ms.foldl (fun s m => setOwner m none s) s) n = sq s n :=
  foldl_kept (f := fun s m => setOwner m none s) (sq · n) (fun _ _ => rfl) _ _

@[simp] theorem sq_linkEnd (i cause : Nat) (s : State) (n : Nat) : sq (linkEnd i cause s) n = sq s n := sq_of_sw (linkEnd_sw ..) n

/-- A sequence's record as it enters a state (Table 9-4). -/
def entered (new now : Nat) (x : Seq) : Seq := { x with state := new, since := now, matchRun := 0, apartRun := 0, ccSince := none }

theorem seqTo_same {n new : Nat} {s : State} (same : (sq s n).state = new) : seqTo n new s = s := by
  simp [seqTo, same]

theorem seqTo_sw {n new : Nat} {s : State} (other : (sq s n).state ≠ new) : (seqTo n new s).sw = (updSq n (entered new s.now) s).sw := by
  simp only [seqTo, other, if_false, event_sw]
  rfl

theorem sq_seqTo {n new : Nat} (inside : n < 8) {s : State} (other : (sq s n).state ≠ new) :
    sq (seqTo n new s) n = entered new s.now (sq s n) := by
  rw [sq_of_sw (seqTo_sw other), sq_updSq_self inside]

/-- Whatever state the sequence comes from, it is in the new one. -/
theorem sq_seqTo_state {n : Nat} (inside : n < 8) (new : Nat) (s : State) : (sq (seqTo n new s) n).state = new := by
  by_cases same : (sq s n).state = new
  · rw [seqTo_same same, same]
  · rw [sq_seqTo inside same]
    rfl

/-- What a change of state does not touch in a record it leaves in every sequence. -/
theorem sq_seqTo_field {β : Type} (g : Seq → β) (kept : ∀ new now x, g (entered new now x) = g x) (i new : Nat) (s : State) (n : Nat) :
    g (sq (seqTo i new s) n) = g (sq s n) := by
  by_cases same : (sq s i).state = new
  · rw [seqTo_same same]
  · rw [sq_of_sw (seqTo_sw same)]
    exact vget_vmod_field _ _ _ _ _ (kept new s.now)

@[simp] theorem drv_seqTo (i new : Nat) (s : State) (d : Nat) : drv (seqTo i new s) d = drv s d := by
  by_cases same : (sq s i).state = new
  · rw [seqTo_same same]
  · rw [drv_of_sw (seqTo_sw same)]
    rfl

@[simp] theorem seqTo_link (n new : Nat) (s : State) : (seqTo n new s).link = s.link :=
  Part.kept (p := .link) (by simp [seqTo_only, OnlyChanges.refl])

/-! The group of an outlet (R304). -/

theorem bit_outside {w : Nat} {r : BitVec w} {k : Nat} (outside : w ≤ k) : bit r k = false := BitVec.getLsbD_of_ge r k outside

theorem bit_maskOf {w k : Nat} (inside : k < w) (l : List Nat) : bit (maskOf w l) k = true ↔ k ∈ l := by
  rw [maskOf, bit_setBits l 0 k inside]
  simp [bit]

theorem bit_groupOf (s : State) (n k : Nat) : bit (groupOf s n) k = true ↔ k < 8 ∧ ownerOf s k = some n := by
  by_cases inside : k < 8
  · simp [groupOf, bit_maskOf inside, inside]
  · simp [bit_outside (Nat.not_lt.mp inside), inside]

/-- A segment that nobody owns any more gives no owner a segment. -/
theorem ownerOf_setOwner_none {m k n : Nat} {s : State} (owned : ownerOf (setOwner m none s) k = some n) : ownerOf s k = some n := by
  by_cases same : k = m
  · subst same
    by_cases inside : k < 8
    · rw [ownerOf, setOwner, vget_vset_self inside] at owned
      exact nomatch owned
    · simp [ownerOf, vget, inside] at owned
  · simpa [ownerOf, setOwner, vget, vset, Vector.getElem?_setIfInBounds_ne (Ne.symm same)] using owned

/-! What every stop leaves of the switching (R309, R319 to R322). -/

/-- What a stop leaves of a driver: its mirror input, its fault, and that it is held off or welded. It switches no driver on. -/
structure Rests (x y : Driver) : Prop where
  mainOpen : y.mainOpen = x.mainOpen
  fault : y.fault = x.fault
  held : x.state = 3 ∨ x.state = 4 → y.state = x.state
  off : x.cmd = false → y.cmd = false

theorem Rests.refl (x : Driver) : Rests x x := ⟨rfl, rfl, fun _ => rfl, id⟩

theorem Rests.trans {x y z : Driver} (h : Rests x y) (k : Rests y z) : Rests x z where
  mainOpen := k.mainOpen.trans h.mainOpen
  fault := k.fault.trans h.fault
  held e := (k.held (by rwa [h.held e])).trans (h.held e)
  off e := k.off (h.off e)

theorem switchedOff_rests (now : Nat) (x : Driver) : Rests x (switchedOff now x) :=
  ⟨rfl, rfl, fun held => if_pos held, fun _ => rfl⟩

/-- What a module reports of itself: health, voltage, fault bits and the time of its last status frame. -/
def reported (x : Module) : Nat × Nat × BitVec 16 × Nat := (x.health, x.voltage, x.faultBits, x.lastAt)

/-- What a stop of any outlet leaves: drivers at rest, what modules report, the safety inputs; it gives no permit. -/
structure SwitchLasts (s t : State) : Prop where
  drivers : ∀ d, Rests (drv s d) (drv t d)
  modules : ∀ m, reported (pmod t m) = reported (pmod s m)
  inputs : t.sw.inputs = s.sw.inputs
  inputConfig : t.sw.inputConfig = s.sw.inputConfig
  unavailable : t.sw.unavailable = s.sw.unavailable
  released : ∀ k, bit t.sw.permit k = true → bit s.sw.permit k = true

/-- What a stop of outlet n leaves: that, the other sequences, and the permits outside n's group, which only shrinks. With `named` the stop
has a cause of its own; without, the outlet's cause stays too. -/
structure StopLasts (named : Bool) (n : Nat) (s t : State) : Prop extends SwitchLasts s t where
  others : ∀ m, m ≠ n → sq t m = sq s m
  cause : named = false → (sq t n).lastCause = (sq s n).lastCause
  group : ∀ k, bit (groupOf t n) k = true → bit (groupOf s n) k = true
  spared : ∀ k, bit (groupOf s n) k = false → bit t.sw.permit k = bit s.sw.permit k

theorem SwitchLasts.refl (s : State) : SwitchLasts s s := ⟨fun _ => .refl _, fun _ => rfl, rfl, rfl, rfl, fun _ => id⟩

section

variable {s t u : State} {named : Bool} {n : Nat}

theorem SwitchLasts.trans (h : SwitchLasts u s) (k : SwitchLasts s t) : SwitchLasts u t where
  drivers d := (h.drivers d).trans (k.drivers d)
  modules m := (k.modules m).trans (h.modules m)
  inputs := k.inputs.trans h.inputs
  inputConfig := k.inputConfig.trans h.inputConfig
  unavailable := k.unavailable.trans h.unavailable
  released i e := h.released i (k.released i e)

theorem SwitchLasts.foldl {α : Type} {f : State → α → State} {l : List α} (hf : ∀ s x, SwitchLasts u s → SwitchLasts u (f s x))
    (h : SwitchLasts u s) : SwitchLasts u (l.foldl f s) :=
  List.foldlRecOn l f h (fun s k x _ => hf s x k)

namespace StopLasts

theorem refl (named : Bool) (n : Nat) (s : State) : StopLasts named n s s :=
  ⟨.refl s, fun _ _ => rfl, fun _ => rfl, fun _ => id, fun _ _ => rfl⟩

theorem trans (h : StopLasts named n u s) (k : StopLasts named n s t) : StopLasts named n u t where
  toSwitchLasts := h.toSwitchLasts.trans k.toSwitchLasts
  others m e := (k.others m e).trans (h.others m e)
  cause e := (k.cause e).trans (h.cause e)
  group i e := h.group i (k.group i e)
  spared i e := (k.spared i (Bool.eq_false_iff.mpr fun inGroup => Bool.eq_false_iff.mp e (h.group i inGroup))).trans (h.spared i e)

theorem foldl {α : Type} {f : State → α → State} {l : List α} (hf : ∀ s x, StopLasts named n u s → StopLasts named n u (f s x))
    (h : StopLasts named n u s) : StopLasts named n u (l.foldl f s) :=
  List.foldlRecOn l f h (fun s k x _ => hf s x k)

theorem ite {p : Prop} [Decidable p] (h : StopLasts named n u s) (k : StopLasts named n u t) : StopLasts named n u (if p then s else t) := by
  split
  · exact h
  · exact k

/-- Nothing of that is a matter of the jobs, or of another part of the state. -/
theorem of_jobs {jobs : List BusJob} (h : StopLasts named n u s) (same : t.sw = { s.sw with jobs := jobs }) : StopLasts named n u t := by
  have drivers (d : Nat) : drv t d = drv s d := by simp only [drv, same]
  have seqs (m : Nat) : sq t m = sq s m := by simp only [Machine.sq, same]
  have modules (m : Nat) : pmod t m = pmod s m := by simp only [pmod, same]
  have group : groupOf t n = groupOf s n := by simp only [groupOf, ownerOf, same]
  have permit : t.sw.permit = s.sw.permit := by rw [same]
  exact h.trans ⟨⟨fun d => drivers d ▸ .refl _, fun m => congrArg reported (modules m), by rw [same], by rw [same], by rw [same],
    fun k => permit ▸ id⟩, fun m _ => seqs m, fun _ => congrArg Seq.lastCause (seqs n), fun k => group ▸ id, fun k _ => by rw [permit]⟩

theorem of_sw (h : StopLasts named n u s) (same : t.sw = s.sw) : StopLasts named n u t := h.of_jobs (jobs := s.sw.jobs) same

end StopLasts

theorem updDrv_stopLasts (d : Nat) {f : Driver → Driver} (rests : ∀ x, Rests x (f x)) (h : StopLasts named n u s) :
    StopLasts named n u (updDrv d f s) := by
  refine h.trans ⟨⟨fun e => ?_, fun _ => rfl, rfl, rfl, rfl, fun _ => id⟩, fun _ _ => rfl, fun _ => rfl, fun _ => id, fun _ _ => rfl⟩
  by_cases same : e = d
  · subst same
    by_cases inside : e < 24
    · rw [drv_updDrv_self inside]
      exact rests _
    · rw [drv_outside (Nat.not_lt.mp inside), drv_outside (Nat.not_lt.mp inside)]
      exact .refl _
  · rw [drv_updDrv_of_ne same]
    exact .refl _

theorem updSq_stopLasts {f : Seq → Seq} (cause : named = false → ∀ x, (f x).lastCause = x.lastCause) (h : StopLasts named n u s) :
    StopLasts named n u (updSq n f s) :=
  h.trans ⟨.trans (.refl s) ⟨fun _ => .refl _, fun _ => rfl, rfl, rfl, rfl, fun _ => id⟩, fun _ other => sq_updSq_of_ne other f s,
    fun e => vget_vmod_field s.sw.seqs n n {} Seq.lastCause (cause e), fun _ => id, fun _ _ => rfl⟩

theorem driverOff_stopLasts (d : Nat) (h : StopLasts named n u s) : StopLasts named n u (driverOff d s) :=
  updDrv_stopLasts d (switchedOff_rests s.now) (h.of_sw (releaseOpt_sw _ s))

theorem driversOff_stopLasts (ds : List Nat) (h : StopLasts named n u s) : StopLasts named n u (ds.foldl (fun s d => driverOff d s) s) :=
  .foldl (fun _ d k => driverOff_stopLasts d k) h

theorem armHwOff_stopLasts (ds : List Nat) (h : StopLasts named n u s) : StopLasts named n u (armHwOff ds s) := by
  refine .foldl (fun _ d k => updDrv_stopLasts d (fun x => ?_) k) h
  split
  · exact ⟨rfl, rfl, fun _ => rfl, id⟩
  · exact .refl x

theorem dropPullIn_stopLasts (ds : List Nat) (h : StopLasts named n u s) : StopLasts named n u (dropPullIn ds s) :=
  driversOff_stopLasts _ h

/-- A release of the group's own permits. -/
theorem permitsReleased_stopLasts (h : StopLasts named n u s) :
    StopLasts named n u { s with sw := { s.sw with permit := s.sw.permit &&& ~~~ groupOf s n } } := by
  refine h.trans ⟨⟨fun _ => .refl _, fun _ => rfl, rfl, rfl, rfl, fun k => ?_⟩, fun _ _ => rfl, fun _ => rfl, fun _ => id, fun k out => ?_⟩
  · simp only [bit, BitVec.getLsbD_and, Bool.and_eq_true]
    exact And.left
  · by_cases inside : k < 8
    · rw [bit] at out
      simp only [bit, BitVec.getLsbD_and, BitVec.getLsbD_not, inside, out, decide_true, Bool.not_false, Bool.and_true]
    · rw [bit_outside (Nat.not_lt.mp inside), bit_outside (Nat.not_lt.mp inside)]

theorem releasePermits_stopLasts (h : StopLasts named n u s) : StopLasts named n u (releasePermits (groupOf s n) s) :=
  armHwOff_stopLasts _ (permitsReleased_stopLasts h)

theorem setOwner_stopLasts (m : Nat) (h : StopLasts named n u s) : StopLasts named n u (setOwner m none s) := by
  refine h.trans ⟨⟨fun _ => .refl _, fun _ => rfl, rfl, rfl, rfl, fun _ => id⟩, fun _ _ => rfl, fun _ => rfl, fun k => ?_, fun _ _ => rfl⟩
  rw [bit_groupOf, bit_groupOf]
  exact fun ⟨inside, owned⟩ => ⟨inside, ownerOf_setOwner_none owned⟩

theorem ownersCleared_stopLasts (ms : List Nat) (h : StopLasts named n u s) :
    StopLasts named n u (ms.foldl (fun s m => setOwner m none s) s) :=
  .foldl (fun _ m k => setOwner_stopLasts m k) h

/-- A module that is commanded off reports what it reported. -/
theorem modulesOff_stopLasts (m : Nat) (h : StopLasts named n u s) : StopLasts named n u (modulesOff m s) := by
  refine h.trans ⟨⟨fun _ => .refl _, fun i => ?_, rfl, rfl, rfl, fun _ => id⟩, fun _ _ => rfl, fun _ => rfl, fun _ => id, fun _ _ => rfl⟩
  refine List.foldlRecOn (motive := fun v => reported (vget v i {}) = reported (pmod s i)) _ _ rfl (fun v same k _ => ?_)
  split
  · refine (vget_vmod_field v k i {} reported ?_).trans same
    exact fun _ => rfl
  · exact same

theorem closeAt_stopLasts (m : Nat) (h : StopLasts named n u s) : StopLasts named n u (closeAt m s) := h.of_sw rfl

theorem endAfterStop_stopLasts (m cause : Nat) (h : StopLasts named n u s) : StopLasts named n u (endAfterStop m cause s) := h.of_sw rfl

theorem event_stopLasts (code : Nat) (payload : List Byte) (h : StopLasts named n u s) : StopLasts named n u (event code payload s) :=
  h.of_sw (event_sw ..)

theorem linkEnd_stopLasts (m cause : Nat) (h : StopLasts named n u s) : StopLasts named n u (linkEnd m cause s) := h.of_sw (linkEnd_sw ..)

theorem seqTo_stopLasts (new : Nat) (h : StopLasts named n u s) : StopLasts named n u (seqTo n new s) :=
  .ite h (event_stopLasts _ _ (updSq_stopLasts (fun _ _ => rfl) h))

theorem endJob_stopLasts (j : BusJob) (h : StopLasts named n u s) : StopLasts named n u (endJob j s) := by
  have ended : StopLasts named n u { s with sw := { s.sw with jobs := s.sw.jobs.filter (fun k => k.segment != j.segment) } } := h.of_jobs rfl
  exact .ite (ended.of_sw (busChanged_sw ..)) ended

theorem dropJobs_stopLasts (m : Nat) (h : StopLasts named n u s) : StopLasts named n u (dropJobs m s) :=
  .foldl (fun _ j k => endJob_stopLasts j k) (.foldl (fun _ j k => .ite (driverOff_stopLasts j.driver k) k) h)

theorem lockOutlet_stopLasts (h : StopLasts named n u s) : StopLasts named n u (lockOutlet n s) := by
  have modules := modulesOff_stopLasts n (closeAt_stopLasts n (permitsReleased_stopLasts h))
  have pair := driverOff_stopLasts (2 * n + 1) (driverOff_stopLasts (2 * n) (dropJobs_stopLasts n modules))
  refine linkEnd_stopLasts _ _ (seqTo_stopLasts _ ((fun cleared => .ite cleared (seqTo_stopLasts _ cleared)) ?_))
  refine updSq_stopLasts ?_ (ownersCleared_stopLasts _ (driversOff_stopLasts _ pair))
  exact fun _ _ => rfl

theorem weldDone_stopLasts (h : StopLasts named n u s) : StopLasts named n u (weldDone n s) := by
  have idle := seqTo_stopLasts 0 (updSq_stopLasts (f := fun y => { y with ramp := none, opened := none, fastAt := none }) (fun _ _ => rfl)
    (ownersCleared_stopLasts (bitList (groupOf s n)) h))
  unfold weldDone
  refine .ite (lockOutlet_stopLasts h) (.ite ?_ h)
  dsimp only
  split
  · exact linkEnd_stopLasts _ _ idle
  · exact idle

theorem pairOpened_stopLasts (h : StopLasts named n u s) : StopLasts named n u (pairOpened n s) := by
  unfold pairOpened
  refine .ite (weldDone_stopLasts (seqTo_stopLasts _ (driversOff_stopLasts _ (closeAt_stopLasts n (updSq_stopLasts ?_ h))))) h
  exact fun _ _ => rfl

theorem openPair_stopLasts (h : StopLasts named n u s) : StopLasts named n u (openPair n s) :=
  pairOpened_stopLasts (seqTo_stopLasts _ (driverOff_stopLasts _ (driverOff_stopLasts _ (dropJobs_stopLasts n
    (modulesOff_stopLasts n (permitsReleased_stopLasts h))))))

/-! The stops that give a cause of their own. -/

theorem updSq_namedLasts (f : Seq → Seq) (h : StopLasts true n u s) : StopLasts true n u (updSq n f s) :=
  updSq_stopLasts (fun unnamed => nomatch unnamed) h

theorem failSequence_stopLasts (cause : Nat) (h : StopLasts true n u s) : StopLasts true n u (failSequence n cause s) :=
  (openPair_stopLasts (updSq_namedLasts _ h)).of_sw rfl

theorem safeRampStop_stopLasts (cause ms : Nat) (h : StopLasts true n u s) : StopLasts true n u (safeRampStop n cause ms s) :=
  .ite (openPair_stopLasts (updSq_namedLasts _ h))
    (.ite (updSq_namedLasts _ h) (.ite (seqTo_stopLasts _ (updSq_namedLasts _ h)) h))

theorem demandStop_stopLasts (cause ms : Nat) (h : StopLasts true n u s) : StopLasts true n u (demandStop n cause ms s) :=
  .ite (.ite (linkEnd_stopLasts _ _ (closeAt_stopLasts n h)) h) (safeRampStop_stopLasts _ _ (endAfterStop_stopLasts n 10 h))

end

/-! The fast stop (R322). -/

/-- s with what a fast stop of outlet n does first: permits released, modules off, joins and releases ended, pull-ins withdrawn. -/
def fastReleased (n : Nat) (s : State) : State :=
  dropPullIn [2 * n, 2 * n + 1] (dropJobs n (modulesOff n (releasePermits (groupOf s n) (endAfterStop n 10 s))))

/-- s with that, and the drivers of the group off, at once or 5 ms later. -/
def fastSwitched (atOnce : Bool) (n : Nat) (s : State) : State :=
  if atOnce then (groupDrivers (fastReleased n s) n).foldl (fun s d => driverOff d s) (fastReleased n s)
  else armHwOff (groupDrivers (fastReleased n s) n) (fastReleased n s)

/-- s with that, and the sequence of outlet n in OPENING with the cause of the stop. -/
def fastOpening (cause : Nat) (atOnce : Bool) (n : Nat) (s : State) : State :=
  seqTo n 7 (event 0x0625 (le 1 n ++ le 1 cause ++ le 1 (groupOf s n).toNat ++ s.stamp)
    (updSq n (fun x => { x with lastCause := cause, ramp := none, fastAt := some s.clock.legal }) (fastSwitched atOnce n s)))

/-- From every state before OPENING a fast stop passes through OPENING. -/
theorem fastStop_early {n : Nat} {s : State} (early : (sq s n).state ≠ 0 ∧ (sq s n).state ≠ 7 ∧ (sq s n).state ≠ 8 ∧ (sq s n).state ≠ 9)
    (cause : Nat) (atOnce : Bool) : fastStop n cause atOnce s = pairOpened n (fastOpening cause atOnce n s) := by
  obtain ⟨idle, opening, check, locked⟩ := early
  simp only [fastStop, idle, opening, check, locked, or_self, if_false]
  rfl

theorem fastStop_opening {n : Nat} {s : State} (opening : (sq s n).state = 7) (cause : Nat) (atOnce : Bool) :
    fastStop n cause atOnce s = pairOpened n (fastSwitched atOnce n s) := by
  have under : ¬ ((sq s n).state = 0 ∨ (sq s n).state = 9) := by omega
  have before : (sq s n).state ≠ 8 := by omega
  simp only [fastStop, under, before, if_false, if_pos opening]
  rfl

section

variable {u s : State} {n : Nat}

/-- What follows the release of the permits in a fast stop is a stop of the outlet. -/
theorem fastSwitched_after {named : Bool} (atOnce : Bool)
    (h : StopLasts named n u (releasePermits (groupOf s n) (endAfterStop n 10 s))) : StopLasts named n u (fastSwitched atOnce n s) := by
  have released : StopLasts named n u (fastReleased n s) := dropPullIn_stopLasts _ (dropJobs_stopLasts n (modulesOff_stopLasts n h))
  exact .ite (driversOff_stopLasts _ released) (armHwOff_stopLasts _ released)

theorem fastOpening_after (cause : Nat) (atOnce : Bool)
    (h : StopLasts true n u (releasePermits (groupOf s n) (endAfterStop n 10 s))) : StopLasts true n u (fastOpening cause atOnce n s) :=
  seqTo_stopLasts _ (event_stopLasts _ _ (updSq_namedLasts _ (fastSwitched_after atOnce h)))

theorem fastStop_stopLasts (cause : Nat) (atOnce : Bool) (h : StopLasts true n u s) : StopLasts true n u (fastStop n cause atOnce s) := by
  have released : StopLasts true n u (releasePermits (groupOf s n) (endAfterStop n 10 s)) :=
    releasePermits_stopLasts (endAfterStop_stopLasts n 10 h)
  by_cases rests : (sq s n).state = 0 ∨ (sq s n).state = 9
  · simpa only [fastStop, if_pos rests] using h
  by_cases check : (sq s n).state = 8
  · simpa only [fastStop, if_neg rests, if_pos check] using modulesOff_stopLasts n (updSq_namedLasts _ h)
  by_cases opening : (sq s n).state = 7
  · rw [fastStop_opening opening]
    exact pairOpened_stopLasts (fastSwitched_after _ released)
  · obtain ⟨idle, locked⟩ := not_or.mp rests
    rw [fastStop_early ⟨idle, opening, check, locked⟩]
    exact pairOpened_stopLasts (fastOpening_after _ _ released)

end

/-! What a stop of outlet n does to the drivers of its pair. -/

/-- A driver's record with the 5 ms off timer started if it conducts (R309). -/
def timed (now : Nat) (x : Driver) : Driver := if x.cmd then { x with hwOff := some (x.hwOff.getD now) } else x

theorem timed_armed (now : Nat) (x : Driver) (on : (timed now x).cmd = true) : (timed now x).hwOff.isSome = true := by
  unfold timed at *
  split at on
  · rename_i conducts
    simp [conducts]
  · contradiction

/-- Started on a list, the timer runs on every driver of it that conducts. -/
theorem armHwOff_arms {d : Nat} {ds : List Nat} (mem : d ∈ ds) (s : State) (on : (drv (armHwOff ds s) d).cmd = true) :
    (drv (armHwOff ds s) d).hwOff.isSome = true := by
  have starts (t : State) (e : Nat) (k : e = d ∨ ((drv t d).cmd = true → (drv t d).hwOff.isSome = true)) :
      (drv (updDrv e (timed s.now) t) d).cmd = true → (drv (updDrv e (timed s.now) t) d).hwOff.isSome = true := by
    by_cases inside : d < 24
    case neg => simp [drv_outside (Nat.not_lt.mp inside)]
    by_cases same : d = e
    · subst same
      rw [drv_updDrv_self inside]
      exact timed_armed _ _
    · rw [drv_updDrv_of_ne same]
      exact k.resolve_left (Ne.symm same)
  exact foldl_establishes (f := fun t e => updDrv e (timed s.now) t)
    (P := fun t => (drv t d).cmd = true → (drv t d).hwOff.isSome = true) mem (fun t => starts t d (.inl rfl))
    (fun t e k => starts t e (.inr k)) s on

theorem mem_groupDrivers (s : State) (n : Nat) : 2 * n ∈ groupDrivers s n := by simp [groupDrivers]

/-- A list of drivers switched off: none of it conducts. -/
theorem driversOff_off {d : Nat} {ds : List Nat} (mem : d ∈ ds) (s : State) : (drv (ds.foldl (fun s d => driverOff d s) s) d).cmd = false := by
  refine foldl_establishes (f := fun s d => driverOff d s) (P := fun t => (drv t d).cmd = false) mem (fun t => driverOff_cmd d t)
    (fun t e off => ?_) s
  have stop : StopLasts true 0 t (driverOff e t) := driverOff_stopLasts e (.refl true 0 t)
  exact (stop.drivers d).off off

/-- A fast stop at once switches the pair off. -/
theorem fastSwitched_off (n : Nat) (s : State) : (drv (fastSwitched true n s) (2 * n)).cmd = false :=
  driversOff_off (mem_groupDrivers _ n) _

theorem fastSwitched_armed (n : Nat) (s : State) (on : (drv (fastSwitched false n s) (2 * n)).cmd = true) :
    (drv (fastSwitched false n s) (2 * n)).hwOff.isSome = true :=
  armHwOff_arms (mem_groupDrivers _ n) _ on

/-- A pair that conducts is not confirmed open. -/
theorem pairOpened_conducting {n : Nat} {s : State} (on : (drv s (2 * n)).cmd = true) : pairOpened n s = s := by
  simp [pairOpened, on]

/-- A driver that conducts at the end of a stop conducted before it. -/
theorem StopLasts.was_on {named : Bool} {n d : Nat} {s t : State} (h : StopLasts named n s t) (on : (drv t d).cmd = true) :
    (drv s d).cmd = true := by
  by_contra off
  exact absurd on (by simp [(h.drivers d).off (by simpa using off)])

/-- The permits of outlet n's group after its stop released them all: none of the group's is left, the others stay. -/
theorem StopLasts.permit_eq {named : Bool} {n : Nat} {s t : State} {p g : BitVec 8} (h : StopLasts named n s t)
    (released : s.sw.permit = p &&& ~~~ g) (group : groupOf s n = g) : t.sw.permit = p &&& ~~~ g := by
  refine BitVec.eq_of_getLsbD_eq fun k inside => ?_
  show bit t.sw.permit k = bit (p &&& ~~~ g) k
  rw [← released]
  cases own : bit g k
  case false => exact h.spared k (group ▸ own)
  case true =>
    have before : bit s.sw.permit k = false := by
      rw [bit] at own
      simp [bit, released, own, inside]
    rw [before]
    exact Bool.eq_false_iff.mpr fun after => Bool.eq_false_iff.mp before (h.released k after)

theorem releasePermits_groupOf (mask : BitVec 8) (s : State) (n : Nat) : groupOf (releasePermits mask s) n = groupOf s n := by
  have owner : (releasePermits mask s).sw.owner = s.sw.owner :=
    foldl_kept (f := fun t d => updDrv d (timed s.now) t) (·.sw.owner) (fun _ _ => rfl) _ _
  simp only [groupOf, ownerOf, owner]

theorem drv_fastOpening (cause : Nat) (atOnce : Bool) (n : Nat) (s : State) (d : Nat) :
    drv (fastOpening cause atOnce n s) d = drv (fastSwitched atOnce n s) d := by
  rw [fastOpening, drv_seqTo, drv_event]
  rfl

/-- What a fast stop that switches off 5 ms later leaves: its cause, no permit of the group, and a pair that is off or is timed. -/
theorem fastStop_effect {n : Nat} {s : State} (inside : n < 8)
    (early : (sq s n).state ≠ 0 ∧ (sq s n).state ≠ 7 ∧ (sq s n).state ≠ 8 ∧ (sq s n).state ≠ 9) (cause : Nat) :
    (sq (fastStop n cause false s) n).lastCause = cause ∧ (fastStop n cause false s).sw.permit = s.sw.permit &&& ~~~ groupOf s n ∧
    ((drv (fastStop n cause false s) (2 * n)).cmd = true → (sq (fastStop n cause false s) n).state = 7 ∧
      (drv (fastStop n cause false s) (2 * n)).hwOff.isSome = true) := by
  rw [fastStop_early early]
  have opened : StopLasts false n (fastOpening cause false n s) (pairOpened n (fastOpening cause false n s)) :=
    pairOpened_stopLasts (.refl false n _)
  refine ⟨?_, ?_, fun on => ?_⟩
  · rw [opened.cause rfl, fastOpening, sq_seqTo_field Seq.lastCause (fun _ _ _ => rfl), sq_event, sq_updSq_self inside]
  · refine StopLasts.permit_eq (pairOpened_stopLasts (fastOpening_after cause false (.refl true n _))) ?_ (releasePermits_groupOf ..)
    exact armHwOff_permit _ _
  · have conducts := opened.was_on on
    rw [pairOpened_conducting conducts]
    rw [drv_fastOpening] at conducts ⊢
    exact ⟨sq_seqTo_state inside 7 _, fastSwitched_armed n s conducts⟩

end Sys2Proof.Laws

/-!
PROOF. The switching sequence (chapter 9, R307 to R311, R315 to R322, R332): what each request and each end of a wait does, the drivers' own
events, and the stops.
-/

namespace Sys2Proof.Laws

open Sys2Proof.Machine Sys2Proof.Safety

/-! The vehicle's cues (Table 9-4). -/

/-- A pull-in asks one class 1 leave for all its drivers, and they hold its name (R33, R307). -/
theorem requestPullIn_asks (ds : List Nat) (lowest : Nat) (host : Bool) (s : State) : ∃ r : Request, r.cls = 1 ∧
    (requestPullIn ds lowest host s).ease.requests = s.ease.requests ++ [r] ∧
    ∀ d ∈ ds, d < 24 → (drv (requestPullIn ds lowest host s) d).req = some s.ease.nextId := by
  have asked (t : State) : (ds.foldl (fun t d => updDrv d (fun x => { x with req := some s.ease.nextId }) t) t).ease = t.ease :=
    foldl_kept State.ease (fun t d => updDrv_ease d _ t) _ _
  refine ⟨_, ?_, congrArg Ease.requests (asked _), fun d mem inside => ?_⟩
  · rfl
  · refine foldl_establishes (f := fun t e => updDrv e (fun x => { x with req := some s.ease.nextId }) t)
      (P := fun t => (drv t d).req = some s.ease.nextId) mem (fun t => ?_) (fun t e holds => ?_) _
    · rw [drv_updDrv_self inside]
    · by_cases same : d = e
      · subst same
        rw [drv_updDrv_self inside]
      · rw [drv_updDrv_of_ne same]
        exact holds

/-- The sequences and the owners of segments as a pull-in asks leave. -/
theorem requestPullIn_sw (ds : List Nat) (lowest : Nat) (host : Bool) (s : State) :
    (requestPullIn ds lowest host s).sw.seqs = s.sw.seqs ∧ (requestPullIn ds lowest host s).sw.owner = s.sw.owner :=
  ⟨foldl_kept (f := fun t d => updDrv d (fun x => { x with req := some s.ease.nextId }) t) (·.sw.seqs) (fun _ _ => rfl) _ _,
   foldl_kept (f := fun t d => updDrv d (fun x => { x with req := some s.ease.nextId }) t) (·.sw.owner) (fun _ _ => rfl) _ _⟩

/-- An outlet that may deliver has a session, and the regions run (R9). -/
theorem mayDeliver_open {n : Nat} {s : State} (may : mayDeliver s n = true) :
    s.regionsRun = true ∧ s.shutting = false ∧ s.present n = true ∧ s.sessionOpen n = true := by
  simp only [mayDeliver, Bool.and_eq_true, Bool.not_eq_true'] at may
  tauto

theorem seqTo_owner (n new : Nat) (s : State) : (seqTo n new s).sw.owner = s.sw.owner := by
  by_cases same : (sq s n).state = new
  · rw [seqTo_same same]
  · rw [seqTo_sw same]
    rfl

/-- s with the segment of outlet n its own, and its sequence in PULL_IN. -/
def pullInBegun (n maxV : Nat) (s : State) : State :=
  seqTo n 1 (updSq n (fun y => { y with
    ucc := uCc (setOwner n (some n) s) n maxV, passRun := 0, warned := false, late := false, forced := false, request := 0, welded := false,
    halted := false }) (setOwner n (some n) s))

theorem execCableCheckReq_begins {n maxV : Nat} {s : State} (may : mayDeliver s n = true) (idle : (sq s n).state = 0)
    (free : ownerOf s n = none) (calm : s.sw.jobs.any (fun j => bit j.segments n) = false) (vehicle : (sq s n).vVeh.natAbs < 60000)
    (bus : (sq s n).vBus.natAbs < 60000) (plus : (drv s (2 * n)).state = 0) (minus : (drv s (2 * n + 1)).state = 0) :
    execCableCheckReq n maxV s =
      .next (tell n ansOngoing (requestPullIn [2 * n, 2 * n + 1] n false (pullInBegun n maxV s))) := by
  obtain ⟨run, up, present, session⟩ := mayDeliver_open may
  simp [execCableCheckReq, run, up, present, session, may, idle, free, calm, vehicle, bus, plus, minus, pullInBegun]

theorem ownerOf_pullInBegun {n : Nat} (inside : n < 8) (maxV : Nat) (s : State) : ownerOf (pullInBegun n maxV s) n = some n := by
  rw [pullInBegun, ownerOf, seqTo_owner]
  exact vget_vset_self inside _ _ _

/-- Until the outlet may deliver, the cable check is ongoing (R9, R304). -/
theorem execCableCheckReq_waits {n : Nat} {s : State} (run : s.regionsRun = true) (up : s.shutting = false) (present : s.present n = true)
    (session : s.sessionOpen n = true) (idle : (sq s n).state = 0) (mayNot : mayDeliver s n = false) (maxV : Nat) :
    execCableCheckReq n maxV s = .next (tell n ansOngoing s) := by
  simp [execCableCheckReq, run, up, present, session, idle, mayNot]

theorem execPrechargeReq_begins {n : Nat} {s : State} (run : s.regionsRun = true) (up : s.shutting = false) (present : s.present n = true)
    (check : (sq s n).state = 3) (passed : 2 ≤ (sq s n).passRun) (v : Nat) : execPrechargeReq n v s =
      .next (tell n ansOngoing (seqTo n 4 (updSq n (fun y => { y with target := sat 16 v }) s))) := by
  simp [execPrechargeReq, run, up, present, check, passed]

theorem execPowerDeliveryReq_start {n : Nat} {s : State} (run : s.regionsRun = true) (up : s.shutting = false) (present : s.present n = true)
    (precharge : (sq s n).state = 4) (matched : 10 ≤ (sq s n).matchRun) :
    execPowerDeliveryReq n true s = .next (tell n ansOk (seqTo n 5 s)) := by
  simp [execPowerDeliveryReq, run, up, present, precharge, matched]

theorem execPowerDeliveryReq_stop {n : Nat} {s : State} (run : s.regionsRun = true) (up : s.shutting = false) (present : s.present n = true)
    (low : 2 ≤ (sq s n).state) (high : (sq s n).state ≤ 5) : execPowerDeliveryReq n false s =
      .next (tell n ansOk (safeRampStop n 0 (tRamp s n) (endAfterStop n 0 s))) := by
  simp [execPowerDeliveryReq, run, up, present, low, high]

theorem execCurrentDemandReq_energy {n : Nat} {s : State} (run : s.regionsRun = true) (up : s.shutting = false) (present : s.present n = true)
    (energy : (sq s n).state = 5) (a : Int) : execCurrentDemandReq n a s =
      .next (tell n ansOk (updSq n (fun y => { y with request := a, limit := sat 16 (currentLimit s n (decide (a < 0))) }) s)) := by
  simp [execCurrentDemandReq, run, up, present, energy]

/-! Safe Ramp Stop (R321, Table 9-6). -/

/-- The ramp of a Safe Ramp Stop that begins now. -/
def rampFrom (n ms : Nat) (s : State) : Ramp :=
  { t0 := s.now, legal := s.clock.legal, len := msF ms, threshold := max 2000 ((sq s n).iOut.natAbs / 20), start := (sq s n).iOut.natAbs }

/-- s with a Safe Ramp Stop begun on outlet n. -/
def rampBegun (n cause ms : Nat) (s : State) : State :=
  seqTo n 6 (updSq n (fun y => { y with lastCause := cause, late := false, forced := false, ramp := some (rampFrom n ms s) }) s)

theorem safeRampStop_delivering {n : Nat} {s : State} (low : 2 ≤ (sq s n).state) (high : (sq s n).state ≤ 5) (cause ms : Nat) :
    safeRampStop n cause ms s = rampBegun n cause ms s := by
  have before : (sq s n).state ≠ 1 := by omega
  have ramping : (sq s n).state ≠ 6 := by omega
  simp only [safeRampStop, before, ramping, low, high, if_false, and_self, if_true]
  rfl

theorem sq_rampBegun {n : Nat} (inside : n < 8) (cause ms : Nat) (s : State) : (sq (rampBegun n cause ms s) n).state = 6 ∧
    (sq (rampBegun n cause ms s) n).lastCause = cause ∧ (sq (rampBegun n cause ms s) n).ramp = some (rampFrom n ms s) := by
  refine ⟨sq_seqTo_state inside 6 _, ?_, ?_⟩
  · rw [rampBegun, sq_seqTo_field Seq.lastCause (fun _ _ _ => rfl), sq_updSq_self inside]
  · rw [rampBegun, sq_seqTo_field Seq.ramp (fun _ _ _ => rfl), sq_updSq_self inside]

/-- A stop that the device demands of an outlet that delivers. -/
theorem demandStop_delivering {n : Nat} {s : State} (low : 2 ≤ (sq s n).state) (high : (sq s n).state ≤ 5) (cause ms : Nat) :
    demandStop n cause ms s = rampBegun n cause ms (endAfterStop n 10 s) := by
  have busy : (sq s n).state ≠ 0 := by omega
  rw [demandStop, if_neg busy]
  exact safeRampStop_delivering (s := endAfterStop n 10 s) low high cause ms

/-- The end of the link waits for the end of such a stop. -/
theorem demandStop_endCause {n : Nat} (inside : n < 8) {s : State} (low : 2 ≤ (sq s n).state) (high : (sq s n).state ≤ 5) (cause ms : Nat) :
    (lk (demandStop n cause ms s) n).endCause.isSome = true := by
  have waits : (lk (endAfterStop n 10 s) n).endCause.isSome = true := by
    rw [endAfterStop, lk_updLk_self inside]
    rfl
  rw [demandStop_delivering low high, rampBegun, lk_of_outs (congrArg Link.outs (seqTo_link ..))]
  exact waits

/-- An outlet pair that is switched off stays off in what follows. -/
theorem openPair_off (n : Nat) (s : State) : (drv (openPair n s) (2 * n)).cmd = false ∧ (drv (openPair n s) (2 * n + 1)).cmd = false := by
  rw [openPair]
  generalize dropJobs n _ = u
  have second : StopLasts true n (driverOff (2 * n) u) (driverOff (2 * n + 1) (driverOff (2 * n) u)) := driverOff_stopLasts _ (.refl true n _)
  have follows : StopLasts true n (driverOff (2 * n + 1) (driverOff (2 * n) u))
      (pairOpened n (seqTo n 7 (driverOff (2 * n + 1) (driverOff (2 * n) u)))) := pairOpened_stopLasts (seqTo_stopLasts 7 (.refl true n _))
  exact ⟨((second.trans follows).drivers _).off (driverOff_cmd _ _), (follows.drivers _).off (driverOff_cmd _ _)⟩

/-- What a sequence that fails leaves: its cause, the protocol's failure told to the vehicle, and its pair off (R315). -/
theorem failSequence_effect {n : Nat} (inside : n < 8) (cause : Nat) (s : State) : let t := failSequence n cause s
    (sq t n).lastCause = cause ∧ t.link.answer = ansFailed ∧ t.link.answerOut = n ∧ (drv t (2 * n)).cmd = false ∧
      (drv t (2 * n + 1)).cmd = false := by
  refine ⟨((openPair_stopLasts (.refl false n _)).cause rfl).trans ?_, rfl, rfl, openPair_off n _⟩
  rw [sq_updSq_self inside]

/-! The drivers' own events (R307 to R311). -/

theorem execPullInEnd_due {d : Nat} {s : State} (pulls : (drv s d).state = 1) (due : (drv s d).pullAt + msF (pullInMs s d) ≤ s.now) :
    ∃ t, execPullInEnd d s = .next t ∧ t.sw = (updDrv d (fun y => { y with state := 2 }) s).sw ∧ OnlyChanges [.ease, .sw] s t := by
  have held : OnlyChanges [.ease, .sw] s (updDrv d (fun y => { y with state := 2 }) s) := updDrv_only _ _ (by decide) (.refl _ s)
  have ended (id : Nat) (t : State) : (if pullDone t id then leavePeak id t else t).sw = t.sw := by split <;> rfl
  simp only [execPullInEnd, pulls, due, and_self, if_true]
  split
  · exact ⟨_, rfl, ended _ _, .ite (leavePeak_only _ (by decide) held) held⟩
  · exact ⟨_, rfl, rfl, held⟩

theorem execDriverOffTimer_due {d t0 : Nat} {s : State} (timed : (drv s d).hwOff = some t0) (due : t0 + msF 5 ≤ s.now) :
    execDriverOffTimer d s = .next (driverOff d s) := by
  simp only [execDriverOffTimer, timed, due, if_true]

/-- s with what the mirror input of driver d reads. -/
def mirrorRead (d : Nat) (on : Bool) (s : State) : State :=
  updDrv d (fun y => { y with mainOpen := on, expect := if y.expect = some on then none else y.expect }) s

theorem mirrorRead_mainOpen {d : Nat} (inside : d < 24) (on : Bool) (s : State) : (drv (mirrorRead d on s) d).mainOpen = on := by
  rw [mirrorRead, drv_updDrv_self inside]

theorem mirrorRead_cmd (d : Nat) (on : Bool) (s : State) (e : Nat) : (drv (mirrorRead d on s) e).cmd = (drv s e).cmd := by
  refine vget_vmod_field s.sw.drivers d e {} Driver.cmd ?_
  exact fun _ => rfl

theorem b1_le_one (b : Bool) : b1 b ≤ 1 := by
  cases b
  · exact Nat.zero_le 1
  · exact Nat.le_refl 1

/-- The drivers of outlet n are 2n and 2n + 1 (R307). -/
theorem pair_lt {n : Nat} (inside : n < 8) (b : Bool) : 2 * n + b1 b < 16 := by
  have := b1_le_one b
  omega

theorem half_pair (n : Nat) (b : Bool) : (2 * n + b1 b) / 2 = n := by
  have := b1_le_one b
  omega

/-- A pair of which one mirror input reads as the other does. -/
theorem mirrorRead_pair {n : Nat} (inside : n < 8) {b on : Bool} {s : State} (other : (drv s (2 * n + b1 (!b))).mainOpen = on) :
    (drv (mirrorRead (2 * n + b1 b) on s) (2 * n)).mainOpen = on ∧ (drv (mirrorRead (2 * n + b1 b) on s) (2 * n + 1)).mainOpen = on := by
  have read : (drv (mirrorRead (2 * n + b1 b) on s) (2 * n + b1 b)).mainOpen = on :=
    mirrorRead_mainOpen (by have := pair_lt inside b; omega) on s
  have kept : (drv (mirrorRead (2 * n + b1 b) on s) (2 * n + b1 (!b))).mainOpen = on := by
    rw [mirrorRead, drv_updDrv_of_ne (by cases b <;> simp [b1]), other]
  cases b
  case false => exact ⟨read, kept⟩
  case true => exact ⟨kept, read⟩

/-- With the mirror inputs of a conducting pair both confirmed, PULL_IN ends (R315). -/
theorem execMirrorConfirmed_closed {n : Nat} (inside : n < 8) {b : Bool} {s : State} (powered : s.power.supply = .on)
    (pulls : (sq s n).state = 1) (plus : (drv s (2 * n)).cmd = true) (minus : (drv s (2 * n + 1)).cmd = true)
    (other : (drv s (2 * n + b1 (!b))).mainOpen = false) : execMirrorConfirmed (2 * n + b1 b) false s =
      .next (givePermits n (seqTo n 2 (mirrorRead (2 * n + b1 b) false s))) := by
  have pair := pair_lt inside b
  have known : ¬ (24 ≤ 2 * n + b1 b ∨ s.power.supply ≠ .on) := by simp [powered]; omega
  obtain ⟨first, second⟩ := mirrorRead_pair inside other
  have plus := (mirrorRead_cmd (2 * n + b1 b) false s (2 * n)).trans plus
  have minus := (mirrorRead_cmd (2 * n + b1 b) false s (2 * n + 1)).trans minus
  have pulls : (sq (mirrorRead (2 * n + b1 b) false s) n).state = 1 := pulls
  rw [mirrorRead] at first second plus minus pulls
  simp only [execMirrorConfirmed, known, pair, half_pair, if_false, if_true, pulls, plus, minus, first, second, Bool.not_false, and_self]
  rfl

/-- A mirror input that reads on may complete the opening of its pair (R320). -/
theorem execMirrorConfirmed_opened {d : Nat} {s : State} (pair : d < 16) (powered : s.power.supply = .on) :
    execMirrorConfirmed d true s = .next (pairOpened (d / 2) (mirrorRead d true s)) := by
  have known : ¬ (24 ≤ d ∨ s.power.supply ≠ .on) := by simp [powered]; omega
  simp only [execMirrorConfirmed, known, pair, if_false, if_true, Bool.not_true, Bool.false_eq_true, false_and]
  rfl

@[simp] theorem drv_givePermits (n : Nat) (s : State) (d : Nat) : drv (givePermits n s) d = drv s d := by
  unfold givePermits
  split <;> rfl

/-- A join or a release that is complete leaves what the mirror inputs read. -/
theorem joinConfirmed_mainOpen (j : BusJob) (s : State) (d : Nat) : (drv (joinConfirmed j s) d).mainOpen = (drv s d).mainOpen := by
  unfold joinConfirmed
  refine (((endJob_stopLasts j (.refl true 0 _)).drivers d).mainOpen).trans ?_
  split
  · rw [drv_givePermits]
    rfl
  · rfl

theorem releaseConfirmed_mainOpen (j : BusJob) (s : State) (d : Nat) : (drv (releaseConfirmed j s) d).mainOpen = (drv s d).mainOpen :=
  ((endJob_stopLasts j (ownersCleared_stopLasts (bitList j.segments)
    (.refl true 0 { s with sw := { s.sw with permit := s.sw.permit &&& ~~~ j.segments } }))).drivers d).mainOpen

/-- Whatever a mirror input's change leads to, the input reads as it does. -/
theorem execMirrorConfirmed_reads {d : Nat} (inside : d < 24) (on : Bool) {s : State} (powered : s.power.supply = .on) :
    ∃ t, execMirrorConfirmed d on s = .next t ∧ (drv t d).mainOpen = on := by
  have known : ¬ (24 ≤ d ∨ s.power.supply ≠ .on) := by simp [powered]; omega
  have read := mirrorRead_mainOpen inside on s
  rw [mirrorRead] at read
  simp only [execMirrorConfirmed, known, if_false]
  generalize updDrv d _ s = u at read ⊢
  repeat' split
  all_goals refine ⟨_, rfl, ?_⟩
  · rw [drv_givePermits, drv_seqTo, read]
  · exact ((pairOpened_stopLasts (.refl true _ u)).drivers d).mainOpen.trans read
  · exact (joinConfirmed_mainOpen ..).trans read
  · exact (releaseConfirmed_mainOpen ..).trans read
  · exact read
  · have checked : SwitchLasts u ((List.range 8).foldl (fun s n => weldDone n s) u) :=
      .foldl (fun _ n k => k.trans (weldDone_stopLasts (.refl true n _)).toSwitchLasts) (.refl u)
    exact (checked.drivers d).mainOpen.trans read

/-- A pair's record as it is confirmed open: the voltage test begins where the vehicle still has 100 V (R320). -/
def confirmedOpen (now legal : Nat) (y : Seq) : Seq :=
  { y with opened := some (now, legal), discharge := decide (100000 ≤ y.vVeh), busAt := y.vBus, follows := true }

/-- s with the pair of outlet n confirmed open, and its sequence in WELD_CHECK. -/
def pairConfirmed (n : Nat) (s : State) : State :=
  seqTo n 8 ((groupMatrix (closeAt n (updSq n (confirmedOpen s.now s.clock.legal) s)) n).foldl (fun s d => driverOff d s)
    (closeAt n (updSq n (confirmedOpen s.now s.clock.legal) s)))

theorem pairOpened_confirmed {n : Nat} {s : State} (opening : (sq s n).state = 7) (plus : (drv s (2 * n)).mainOpen = true)
    (minus : (drv s (2 * n + 1)).mainOpen = true) (off : (drv s (2 * n)).cmd = false) (off' : (drv s (2 * n + 1)).cmd = false) :
    pairOpened n s = weldDone n (pairConfirmed n s) := by
  simp only [pairOpened, opening, plus, minus, off, off', Bool.not_false, and_self, if_true]
  rfl

/-- While the voltage test runs, nothing ends WELD_CHECK. -/
theorem weldDone_testing {n : Nat} {s : State} (tests : (sq s n).discharge = true) : weldDone n s = s := by
  simp [weldDone, tests]

theorem sq_pairConfirmed {n : Nat} (inside : n < 8) (s : State) : (sq (pairConfirmed n s) n).state = 8 ∧
    (sq (pairConfirmed n s) n).discharge = decide (100000 ≤ (sq s n).vVeh) ∧
    (sq (pairConfirmed n s) n).opened = some (s.now, s.clock.legal) := by
  have record : sq (closeAt n (updSq n (confirmedOpen s.now s.clock.legal) s)) n = confirmedOpen s.now s.clock.legal (sq s n) :=
    sq_updSq_self inside _ s
  refine ⟨sq_seqTo_state inside 8 _, ?_, ?_⟩
  · rw [pairConfirmed, sq_seqTo_field Seq.discharge (fun _ _ _ => rfl), sq_driversOff, record]
    rfl
  · rw [pairConfirmed, sq_seqTo_field Seq.opened (fun _ _ _ => rfl), sq_driversOff, record]
    rfl

/-! A mirror input that does not follow (R310). -/

theorem feedbackReport_sw (d cycle : Nat) (s : State) : (feedbackReport d cycle s).sw = s.sw :=
  Part.kept (p := .sw) (by simp [feedbackReport_only, OnlyChanges.refl])

theorem feedbackReport_present (d cycle : Nat) (s : State) (n : Nat) : (feedbackReport d cycle s).present n = s.present n := by
  have only : OnlyChanges [.faults] s (feedbackReport d cycle s) := feedbackReport_only d cycle (by decide) (.refl _ s)
  exact present_congr (only .factory (by decide)) (only .rst (by decide)) n

/-- An outlet that is locked has no test under way (R315, R320). -/
theorem sq_lockOutlet {n : Nat} (inside : n < 8) (s : State) : (sq (lockOutlet n s) n).state = 9 ∧ (sq (lockOutlet n s) n).discharge = false := by
  unfold lockOutlet
  dsimp only
  rw [sq_linkEnd]
  refine ⟨sq_seqTo_state inside 9 _, ?_⟩
  rw [sq_seqTo_field Seq.discharge (fun _ _ _ => rfl)]
  split
  · rw [sq_updSq_self inside]
  · rw [sq_seqTo_field Seq.discharge (fun _ _ _ => rfl), sq_updSq_self inside]

/-- A driver that is welded. -/
def welded (x : Driver) : Driver := { x with state := 4, fault := 4, expect := none }

/-- s with driver d welded, which is reported. -/
def weldReported (d c : Nat) (s : State) : State :=
  event 0x0626 (le 1 d ++ le 1 0 ++ s.stamp) (updDrv d welded (feedbackReport d c s))

/-- An opening that the mirror input does not show is a weld: reported, and the outlet LOCKED (R310, R320). -/
theorem execFeedbackTimeout_welded {d c : Nat} {s : State} (pair : d < 16) (present : s.present (d / 2) = true)
    (expects : (drv s d).expect = some true) (due : (drv s d).changedAt + msF (fld (kCfg s d) 32 8) ≤ s.now) :
    ∃ u, u.sw = (updDrv d welded s).sw ∧ execFeedbackTimeout d c s =
      .next (if (sq u (d / 2)).state = 0 then seqTo (d / 2) 9 u else lockOutlet (d / 2) u) := by
  have due : ¬ s.now < (drv s d).changedAt + msF (fld (kCfg s d) 32 8) := Nat.not_lt.mpr due
  have outlet : driverOutlet (weldReported d c s) d = some (d / 2) := by
    have still : (weldReported d c s).present (d / 2) = true := by
      have only : OnlyChanges [.port, .faults, .sw, .store] s (weldReported d c s) :=
        event_only _ _ (by decide) (by decide) (updDrv_only _ _ (by decide) (feedbackReport_only d c (by decide) (.refl _ s)))
      rwa [present_congr (only .factory (by decide)) (only .rst (by decide))]
    simp [driverOutlet, pair, still]
  refine ⟨weldReported d c s, by simp only [weldReported, event_sw, updDrv, feedbackReport_sw], ?_⟩
  unfold weldReported welded at outlet
  simp only [execFeedbackTimeout, expects, due, Option.isNone_some, Bool.false_eq_true, or_self, if_false, if_true, pair, outlet]
  rfl

/-- The drivers' records after a welded mirror input: the stop that follows leaves the driver welded, and the outlet LOCKED. -/
theorem execFeedbackTimeout_locks {d c : Nat} {s : State} (pair : d < 16) (present : s.present (d / 2) = true)
    (expects : (drv s d).expect = some true) (due : (drv s d).changedAt + msF (fld (kCfg s d) 32 8) ≤ s.now) :
    ∃ t, execFeedbackTimeout d c s = .next t ∧ (drv t d).state = 4 ∧ (drv t d).fault = 4 ∧ (sq t (d / 2)).state = 9 := by
  obtain ⟨u, same, run⟩ := execFeedbackTimeout_welded (c := c) pair present expects due
  have record : drv u d = welded (drv s d) := by rw [drv_of_sw same, drv_updDrv_self (by omega)]
  have inside : d / 2 < 8 := by omega
  refine ⟨_, run, ?_⟩
  split
  · rw [drv_seqTo, record]
    exact ⟨rfl, rfl, sq_seqTo_state inside 9 u⟩
  · have rests : Rests (drv u d) (drv (lockOutlet (d / 2) u) d) := (lockOutlet_stopLasts (.refl true (d / 2) u)).drivers d
    rw [record] at rests
    exact ⟨rests.held (.inr rfl), rests.fault, (sq_lockOutlet inside u).1⟩

/-- A driver whose mirror input shows no closing (R310). -/
def unclosed (x : Driver) : Driver := { x with fault := 3, expect := none }

/-- A closing that the mirror input does not show is a fault, and the driver is off. -/
theorem execFeedbackTimeout_unclosed {d c : Nat} {s : State} (pair : d < 16) (expects : (drv s d).expect = some false)
    (due : (drv s d).changedAt + msF (fld (kCfg s d) 24 8) ≤ s.now) :
    ∃ t, execFeedbackTimeout d c s = .next t ∧ (drv t d).fault = 3 ∧ (drv t d).cmd = false := by
  have due : ¬ s.now < (drv s d).changedAt + msF (fld (kCfg s d) 24 8) := Nat.not_lt.mpr due
  have record : drv (updDrv d unclosed (driverOff d (feedbackReport d c s))) d = unclosed (drv (driverOff d (feedbackReport d c s)) d) :=
    drv_updDrv_self (by omega) _ _
  have off := driverOff_cmd d (feedbackReport d c s)
  unfold unclosed at record
  simp only [execFeedbackTimeout, expects, due, Option.isNone_some, Bool.false_eq_true, or_self, if_false, pair, if_true,
    Option.some.injEq]
  refine ⟨_, rfl, ?_⟩
  generalize updDrv d _ (driverOff d (feedbackReport d c s)) = u at record ⊢
  split
  · have rests := (failSequence_stopLasts 5 (endAfterStop_stopLasts (d / 2) 10 (.refl true (d / 2) u))).drivers d
    rw [record] at rests
    exact ⟨rests.fault, rests.off off⟩
  · rw [record]
    exact ⟨rfl, off⟩

/-! A driver's fault (R311). -/

theorem driverOutlet_pair {d : Nat} (pair : d < 16) (s : State) :
    driverOutlet s d = if s.present (d / 2) then some (d / 2) else none := by
  rw [driverOutlet, if_pos pair]

/-- A driver held off by a fault. -/
def heldOff (cause : Nat) (x : Driver) : Driver := { x with state := 3, fault := cause }

theorem drv_heldOff {d : Nat} (inside : d < 24) (cause : Nat) (s : State) : (drv (updDrv d (heldOff cause) (driverOff d s)) d).state = 3 ∧
    (drv (updDrv d (heldOff cause) (driverOff d s)) d).fault = cause ∧ (drv (updDrv d (heldOff cause) (driverOff d s)) d).cmd = false := by
  rw [drv_updDrv_self inside]
  exact ⟨rfl, rfl, driverOff_cmd d s⟩

/-- A fault holds the driver off, and its outlet is stopped and unavailable. -/
theorem execDriverFault_holds {d cause c : Nat} {s : State} (pair : d < 16) (known : cause = 1 ∨ cause = 2) (sound : (drv s d).state ≠ 3)
    (run : s.regionsRun = true) : ∃ t, execDriverFault d cause c s = .next t ∧ (drv t d).state = 3 ∧ (drv t d).fault = cause ∧
      (drv t d).cmd = false ∧ (s.present (d / 2) = true → bit t.sw.unavailable (d / 2) = true) := by
  have taken : ¬ (24 ≤ d ∨ ¬ (cause = 1 ∨ cause = 2) ∨ (drv s d).state = 3 ∨ (!s.regionsRun) = true) := by
    simp [known, sound, run]
    omega
  have held := drv_heldOff (d := d) (by omega) cause (feedbackReport d c s)
  unfold heldOff at held
  simp only [execDriverFault, if_neg taken, driverOutlet_pair pair, feedbackReport_present]
  generalize updDrv d _ (driverOff d (feedbackReport d c s)) = u at held ⊢
  obtain ⟨state, fault, cmd⟩ := held
  by_cases present : s.present (d / 2) = true
  case neg =>
    rw [if_neg present]
    exact ⟨u, rfl, state, fault, cmd, fun found => absurd found present⟩
  case pos =>
    rw [if_pos present]
    refine ⟨_, rfl, ?_⟩
    generalize same : ({ u with sw := { u.sw with unavailable := setBit u.sw.unavailable (d / 2) true } } : State) = v
    have stop : StopLasts true (d / 2) v (demandStop (d / 2) 5 (tRampEmerg v (d / 2)) v) := demandStop_stopLasts _ _ (.refl true _ v)
    have rests : Rests (drv u d) (drv (demandStop (d / 2) 5 (tRampEmerg v (d / 2)) v) d) := by
      have rests := stop.drivers d
      subst same
      exact rests
    refine ⟨(rests.held (.inl state)).trans state, rests.fault.trans fault, rests.off cmd, fun _ => ?_⟩
    rw [stop.unavailable, ← same]
    exact (bit_setBit_true ..).mpr (.inr ⟨rfl, by omega⟩)

/-! The sequence's own waits (R315 to R318). -/

theorem execShortTestEnd_passed {n : Nat} {s : State} (test : (sq s n).state = 2) (due : (sq s n).since + msF 100 ≤ s.now)
    (passed : 40000 ≤ (sq s n).vVeh) : execShortTestEnd n s = .next (seqTo n 3 (updSq n (fun y => { y with passRun := 0 }) s)) := by
  simp only [execShortTestEnd, test, due, passed, and_self, if_true]

theorem execShortTestEnd_failed {n : Nat} {s : State} (test : (sq s n).state = 2) (due : (sq s n).since + msF 100 ≤ s.now)
    (failed : (sq s n).vVeh < 40000) : execShortTestEnd n s =
      .next (failSequence n 9 (endAfterStop n 10 (updSq n (fun y => { y with passRun := 0 }) s))) := by
  have short : ¬ 40000 ≤ (sq s n).vVeh := Int.not_le.mpr failed
  simp only [execShortTestEnd, test, due, short, and_self, if_true, if_false]

theorem execCcTimeout_due {n : Nat} {s : State} (check : (sq s n).state = 3) (unpassed : (sq s n).passRun < 2)
    (due : (sq s n).since + secF (fld (swCfg s n) 40 8) ≤ s.now) :
    execCcTimeout n s = .next (failSequence n 10 (endAfterStop n 10 s)) := by
  simp only [execCcTimeout, check, unpassed, due, and_self, if_true]

theorem execContactorNotConducting_stops {n : Nat} {s : State} (low : 2 ≤ (sq s n).state) (high : (sq s n).state ≤ 5)
    (apart : 10 ≤ (sq s n).apartRun) : execContactorNotConducting n s = .next (demandStop n 5 (tRampEmerg s n) s) := by
  simp only [execContactorNotConducting, low, high, apart, and_self, if_true]

/-! A ramp that does not end in time (R321). -/

theorem execRampLate_late {n : Nat} {r : Ramp} {s : State} (ramp : (sq s n).ramp = some r) (ramping : (sq s n).state = 6)
    (past : r.t0 + r.len ≤ s.now) (current : r.threshold ≤ (sq s n).iOut.natAbs) (first : r.late = false) :
    execRampLate n s = .next (updSq n (fun y => { y with late := true, ramp := some { r with late := true } }) s) := by
  simp only [execRampLate, ramp, ramping, past, current, first, Bool.not_false, and_self, if_true]

/-- s with the permits of outlet n's group released, its modules off, its joins and releases ended and its drivers timed. -/
def forcedOff (n : Nat) (s : State) : State :=
  armHwOff (groupDrivers (modulesOff n (releasePermits (groupOf s n) s)) n) (dropJobs n (modulesOff n (releasePermits (groupOf s n) s)))

/-- A sequence's record as its ramp is cut short. -/
def cutShort (y : Seq) : Seq := { y with late := true, forced := true, ramp := none }

theorem execRampForced_forces {n : Nat} {r : Ramp} {s : State} (ramp : (sq s n).ramp = some r) (ramping : (sq s n).state = 6)
    (past : r.t0 + r.len + msF 20 ≤ s.now) (current : r.threshold ≤ (sq s n).iOut.natAbs) :
    execRampForced n s = .next (seqTo n 7 (safeStopEvent n 2 r (updSq n cutShort (forcedOff n s)))) := by
  simp only [execRampForced, ramp, ramping, past, current, and_self, if_true]
  rfl

theorem forcedOff_permit (n : Nat) (s : State) : (forcedOff n s).sw.permit = s.sw.permit &&& ~~~ groupOf s n := by
  rw [forcedOff, armHwOff_permit, dropJobs_permit]
  exact armHwOff_permit _ _

theorem forcedOff_armed (n : Nat) (s : State) (on : (drv (forcedOff n s) (2 * n)).cmd = true) :
    (drv (forcedOff n s) (2 * n)).hwOff.isSome = true :=
  armHwOff_arms (mem_groupDrivers _ n) _ on

/-- A forced opening: OPENING, no permit of the group, and a pair that is off or is timed. -/
theorem rampForced_effect {n : Nat} (inside : n < 8) (r : Ramp) (s : State) :
    let t := seqTo n 7 (safeStopEvent n 2 r (updSq n cutShort (forcedOff n s)))
    (sq t n).state = 7 ∧ (sq t n).forced = true ∧ t.sw.permit = s.sw.permit &&& ~~~ groupOf s n ∧
      ((drv t (2 * n)).cmd = true → (drv t (2 * n)).hwOff.isSome = true) := by
  have permit := forcedOff_permit n s
  have armed := forcedOff_armed n s
  generalize forcedOff n s = u at permit armed
  refine ⟨sq_seqTo_state inside 7 _, ?_, ?_, ?_⟩
  · rw [sq_seqTo_field Seq.forced (fun _ _ _ => rfl), safeStopEvent, sq_event, sq_updSq_self inside]
    rfl
  · rw [seqTo_permit, safeStopEvent, event_sw]
    exact permit
  · rw [drv_seqTo, safeStopEvent, drv_event]
    exact armed

/-- A measured overcurrent of a sequence that runs is a fast stop (R322). -/
theorem execFastOvercurrent_stops {n : Nat} {v w : Int} {s : State} (run : s.regionsRun = true) (present : s.present n = true)
    (watched : modEnabled s n 1 = true) (first : fastOc s n v = true) (second : fastOc s n w = true) :
    execFastOvercurrent n v w s = .next (fastStop n 4 false s) := by
  simp only [execFastOvercurrent, run, present, watched, first, second, and_self, if_true]

/-! The voltage test of the weld check (R320). -/

@[simp] theorem drv_linkEnd (i cause : Nat) (s : State) (d : Nat) : drv (linkEnd i cause s) d = drv s d := drv_of_sw (linkEnd_sw ..) d

@[simp] theorem drv_ownersCleared (ms : List Nat) (s : State) (d : Nat) : drv (ms.foldl (fun s m => setOwner m none s) s) d = drv s d :=
  foldl_kept (f := fun s m => setOwner m none s) (drv · d) (fun _ _ => rfl) _ _

/-- A weld check that finds no weld ends in IDLE, or waits for the matrix; either way no driver changes and no test begins. -/
theorem weldDone_sound {n : Nat} (inside : n < 8) {s : State} (sound : (sq s n).welded = false) :
    ((sq (weldDone n s) n).state = 0 ∨ (sq (weldDone n s) n).state = (sq s n).state) ∧
      (sq (weldDone n s) n).discharge = (sq s n).discharge ∧ ∀ d, drv (weldDone n s) d = drv s d := by
  unfold weldDone
  simp only [sound, Bool.false_eq_true, and_false, if_false]
  split
  case isFalse => exact ⟨.inr rfl, rfl, fun _ => rfl⟩
  case isTrue =>
    generalize recorded : updSq n _ (List.foldl _ s (bitList (groupOf s n))) = u
    have ended : (sq (seqTo n 0 u) n).state = 0 ∧ (sq (seqTo n 0 u) n).discharge = (sq s n).discharge ∧
        ∀ d, drv (seqTo n 0 u) d = drv s d := by
      subst recorded
      refine ⟨sq_seqTo_state inside 0 _, ?_, fun d => ?_⟩
      · rw [sq_seqTo_field Seq.discharge (fun _ _ _ => rfl), sq_updSq_self inside, sq_ownersCleared]
      · rw [drv_seqTo]
        exact drv_ownersCleared _ s d
    obtain ⟨state, discharge, drivers⟩ := ended
    split
    · exact ⟨.inl (by rw [sq_linkEnd, state]), by rw [sq_linkEnd, discharge], fun d => by rw [drv_linkEnd, drivers]⟩
    · exact ⟨.inl state, discharge, drivers⟩

/-- s at the end of the voltage test: modules off and the test over. -/
def testOver (n : Nat) (s : State) : State := updSq n (fun y => { y with discharge := false }) (modulesOff n s)

/-- A driver welded as the voltage test finds it. -/
def foundWelded (y : Driver) : Driver := { y with state := 4, fault := 4 }

/-- s with both drivers of the pair found welded, which is reported. -/
def pairWelded (n : Nat) (s : State) : State :=
  event 0x0626 (le 1 (2 * n) ++ le 1 1 ++ s.stamp) (updDrv (2 * n + 1) foundWelded (updDrv (2 * n) foundWelded
    (feedbackReport (2 * n + 1) 0 (feedbackReport (2 * n) 0 (testOver n s)))))

theorem execWeldVoltageTestEnd_weld {n : Nat} {s : State} (check : (sq s n).state = 8) (tests : (sq s n).discharge = true)
    (due : (sq s n).since + msF 200 ≤ s.now) (follows : (sq s n).follows = true) (fell : 50000 ≤ (sq s n).busAt - (sq s n).vBus) :
    execWeldVoltageTestEnd n s = .next (lockOutlet n (pairWelded n s)) := by
  simp only [execWeldVoltageTestEnd, check, tests, due, follows, fell, and_self, if_true]
  rfl

theorem execWeldVoltageTestEnd_sound {n : Nat} {s : State} (check : (sq s n).state = 8) (tests : (sq s n).discharge = true)
    (due : (sq s n).since + msF 200 ≤ s.now) (sound : ¬ ((sq s n).follows = true ∧ 50000 ≤ (sq s n).busAt - (sq s n).vBus)) :
    execWeldVoltageTestEnd n s = .next (weldDone n (testOver n s)) := by
  simp only [execWeldVoltageTestEnd, check, tests, due, sound, and_self, if_true, if_false]
  rfl

theorem drv_pairWelded {n : Nat} (inside : n < 8) (s : State) :
    (drv (pairWelded n s) (2 * n)).state = 4 ∧ (drv (pairWelded n s) (2 * n + 1)).state = 4 := by
  rw [pairWelded, drv_event, drv_event, drv_updDrv_of_ne (by omega), drv_updDrv_self (by omega), drv_updDrv_self (by omega)]
  exact ⟨rfl, rfl⟩

/-- A weld that the voltage test finds locks the outlet, its drivers welded. -/
theorem lockOutlet_pairWelded {n : Nat} (inside : n < 8) (s : State) : let t := lockOutlet n (pairWelded n s)
    (sq t n).state = 9 ∧ (sq t n).discharge = false ∧ (drv t (2 * n)).state = 4 ∧ (drv t (2 * n + 1)).state = 4 := by
  have lasts : StopLasts true n (pairWelded n s) (lockOutlet n (pairWelded n s)) := lockOutlet_stopLasts (.refl true n _)
  obtain ⟨plus, minus⟩ := drv_pairWelded inside s
  obtain ⟨locked, ended⟩ := sq_lockOutlet inside (pairWelded n s)
  exact ⟨locked, ended, ((lasts.drivers _).held (.inr plus)).trans plus, ((lasts.drivers _).held (.inr minus)).trans minus⟩

theorem weldDone_testOver {n : Nat} (inside : n < 8) {s : State} (check : (sq s n).state = 8) (sound : (sq s n).welded = false) :
    let t := weldDone n (testOver n s)
    (sq t n).discharge = false ∧ (sq t n).state ≠ 9 ∧ drv t (2 * n) = drv s (2 * n) := by
  have record : sq (testOver n s) n = { sq s n with discharge := false } := sq_updSq_self inside _ _
  obtain ⟨state, discharge, drivers⟩ := weldDone_sound (s := testOver n s) inside (by rw [record]; exact sound)
  rw [record] at state discharge
  exact ⟨discharge, by dsimp only at state; omega, drivers _⟩

/-! The vehicle's cues: what each leaves. -/

theorem pullInBegun_ease (n maxV : Nat) (s : State) : (pullInBegun n maxV s).ease = s.ease := by
  have only : OnlyChanges [.port, .sw, .store] s (pullInBegun n maxV s) :=
    seqTo_only _ _ (by decide) (by decide) (by decide) (updSq_only _ _ (by decide) (setOwner_only _ _ (by decide) (.refl _ s)))
  exact only .ease (by decide)

/-- A cable check that begins: PULL_IN, the segment its own, and one class 1 leave asked for both drivers (R307, R315). -/
theorem pullIn_asked {n : Nat} (inside : n < 8) (maxV : Nat) (s : State) : ∃ r : Request,
    let t := tell n ansOngoing (requestPullIn [2 * n, 2 * n + 1] n false (pullInBegun n maxV s))
    (sq t n).state = 1 ∧ ownerOf t n = some n ∧ r.cls = 1 ∧ t.ease.requests = s.ease.requests ++ [r] ∧
      (drv t (2 * n)).req = some s.ease.nextId ∧ (drv t (2 * n + 1)).req = some s.ease.nextId ∧ t.link.answer = ansOngoing := by
  obtain ⟨r, cls, requests, asked⟩ := requestPullIn_asks [2 * n, 2 * n + 1] n false (pullInBegun n maxV s)
  obtain ⟨seqs, owners⟩ := requestPullIn_sw [2 * n, 2 * n + 1] n false (pullInBegun n maxV s)
  have owner := ownerOf_pullInBegun inside maxV s
  have state : (sq (pullInBegun n maxV s) n).state = 1 := sq_seqTo_state inside 1 _
  rw [pullInBegun_ease] at requests asked
  generalize requestPullIn _ _ _ _ = u at requests asked seqs owners ⊢
  refine ⟨r, ?_, ?_, cls, requests, asked (2 * n) (by simp) (by omega), asked (2 * n + 1) (by simp) (by omega), rfl⟩
  · exact (congrArg (fun v => (vget v n ({} : Seq)).state) seqs).trans state
  · exact (congrArg (fun v => vget v n none) owners).trans owner

/-- Precharge begins: PRECHARGE, and the vehicle's target. -/
theorem precharge_begun {n : Nat} (inside : n < 8) (v : Nat) (s : State) :
    let t := tell n ansOngoing (seqTo n 4 (updSq n (fun y => { y with target := sat 16 v }) s))
    (sq t n).state = 4 ∧ (sq t n).target = sat 16 v ∧ OnlyChanges [.port, .link, .sw, .store] s t := by
  refine ⟨sq_seqTo_state inside 4 _, ?_, ?_⟩
  · show (sq (seqTo n 4 _) n).target = _
    rw [sq_seqTo_field Seq.target (fun _ _ _ => rfl), sq_updSq_self inside]
  · exact tell_only _ _ (by decide) (seqTo_only _ _ (by decide) (by decide) (by decide) (updSq_only _ _ (by decide) (.refl _ s)))

theorem energy_begun {n : Nat} (inside : n < 8) (s : State) : let t := tell n ansOk (seqTo n 5 s)
    (sq t n).state = 5 ∧ t.link.answer = ansOk ∧ OnlyChanges [.port, .link, .sw, .store] s t :=
  ⟨sq_seqTo_state inside 5 s, rfl, tell_only _ _ (by decide) (seqTo_only _ _ (by decide) (by decide) (by decide) (.refl _ s))⟩

/-- The pair confirmed closed: SHORT_TEST, and the permits of the group, where no pin and no global safe state holds them. -/
theorem closed_begun {n : Nat} (inside : n < 8) {d : Nat} {s : State} (up : s.shutting = false) (safe : s.faults.globalSafe = false) :
    let t := givePermits n (seqTo n 2 (mirrorRead d false s))
    (sq t n).state = 2 ∧ t.sw.permit = s.sw.permit ||| groupOf s n := by
  have state : (sq (seqTo n 2 (mirrorRead d false s)) n).state = 2 := sq_seqTo_state inside 2 _
  have permit : (seqTo n 2 (mirrorRead d false s)).sw.permit = s.sw.permit := seqTo_permit _ _ _
  have owner : (seqTo n 2 (mirrorRead d false s)).sw.owner = s.sw.owner := seqTo_owner _ _ _
  have only : OnlyChanges [.port, .sw, .store] s (seqTo n 2 (mirrorRead d false s)) :=
    seqTo_only _ _ (by decide) (by decide) (by decide) (updDrv_only _ _ (by decide) (.refl _ s))
  have free : ¬ (((seqTo n 2 (mirrorRead d false s)).shutting || (seqTo n 2 (mirrorRead d false s)).faults.globalSafe) = true) := by
    rw [show (seqTo n 2 (mirrorRead d false s)).faults = s.faults from only .faults (by decide)]
    have pinned : (seqTo n 2 (mirrorRead d false s)).shutting = s.shutting :=
      congrArg Power.pfw (only .power (by decide))
    simp [pinned, up, safe]
  rw [givePermits, if_neg free]
  exact ⟨state, by simp only [permit, groupOf, ownerOf, owner]⟩

/-- Settles O54: a lemma for each request, wait and driver event gives what it does to the outlet's record; what a stop leaves of the drivers
and the permits is `StopLasts`. -/
theorem switchingSequence : Obligations.SwitchingSequence := by
  refine ⟨?begins, ?waits, ?precharges, ?delivers, ?stops, ?demands, ?pulledIn, ?reads, ?closed, ?opened, ?welds, ?unclosed, ?faults, ?timer,
    ?shortTest, ?ccTimeout, ?apart, ?ramp, ?overcurrent, ?voltageTest⟩
  case begins =>
    intro n maxV s may idle free calm vehicle bus plus minus
    obtain ⟨r, left⟩ := pullIn_asked (lt_of_present (mayDeliver_open may).2.2.1) maxV s
    exact ⟨_, r, execCableCheckReq_begins may idle free calm vehicle bus plus minus, left⟩
  case waits => exact fun n maxV s run up present session idle mayNot => execCableCheckReq_waits run up present session idle mayNot maxV
  case precharges =>
    exact fun n v s run up present check passed =>
      ⟨_, execPrechargeReq_begins run up present check passed v, precharge_begun (lt_of_present present) v s⟩
  case delivers =>
    exact fun n s run up present precharge matched =>
      ⟨_, execPowerDeliveryReq_start run up present precharge matched, energy_begun (lt_of_present present) s⟩
  case stops =>
    intro n s run up present low high
    have inside := lt_of_present present
    obtain ⟨state, cause, ramp⟩ := sq_rampBegun inside 0 (tRamp s n) (endAfterStop n 0 s)
    refine ⟨_, rampFrom n (tRamp s n) s, execPowerDeliveryReq_stop run up present low high, ?_⟩
    rw [safeRampStop_delivering (s := endAfterStop n 0 s) low high]
    exact ⟨state, cause, ramp, rfl, rfl, rfl⟩
  case demands => exact fun n a s run up present energy => execCurrentDemandReq_energy run up present energy a
  case pulledIn =>
    intro d s pulls due
    have inside : d < 24 := lt_of_drv_state (s := s) (by simp [pulls])
    obtain ⟨t, ran, same, only⟩ := execPullInEnd_due pulls due
    refine ⟨t, ran, ?_, only⟩
    rw [drv_of_sw same, drv_updDrv_self inside]
  case reads => exact fun d on s inside powered => execMirrorConfirmed_reads inside on powered
  case closed =>
    exact fun n b s inside powered up safe pulls plus minus other =>
      ⟨_, execMirrorConfirmed_closed inside powered pulls plus minus other, closed_begun inside up safe⟩
  case opened =>
    intro n b s inside powered opening plus minus other charged
    obtain ⟨first, second⟩ := mirrorRead_pair inside other
    obtain ⟨state, tests, opened⟩ := sq_pairConfirmed inside (mirrorRead (2 * n + b1 b) true s)
    have charged : (sq (pairConfirmed n (mirrorRead (2 * n + b1 b) true s)) n).discharge = true := tests.trans (decide_eq_true charged)
    refine ⟨_, execMirrorConfirmed_opened (pair_lt inside b) powered, ?_⟩
    rw [half_pair, pairOpened_confirmed (s := mirrorRead (2 * n + b1 b) true s) opening first second
      ((mirrorRead_cmd ..).trans plus) ((mirrorRead_cmd ..).trans minus), weldDone_testing charged]
    exact ⟨state, charged, opened⟩
  case welds => exact fun d c s pair present expects due => execFeedbackTimeout_locks pair present expects due
  case unclosed => exact fun d c s pair expects due => execFeedbackTimeout_unclosed pair expects due
  case faults => exact fun d k c s pair known sound run => execDriverFault_holds pair known sound run
  case timer =>
    intro d t0 s inside timed due
    refine ⟨_, execDriverOffTimer_due timed due, driverOff_cmd d s, ?_, driverOff_only _ (by decide) (by decide) (.refl _ s)⟩
    rw [drv_driverOff_self inside]
    rfl
  case shortTest =>
    intro n s inside test due
    by_cases passed : 40000 ≤ (sq s n).vVeh
    · exact ⟨_, execShortTestEnd_passed test due passed, fun _ => ⟨sq_seqTo_state inside 3 _, seqTo_only _ _ (by decide) (by decide)
        (by decide) (updSq_only _ _ (by decide) (.refl _ s))⟩, fun failed => absurd passed (Int.not_le.mpr failed)⟩
    · exact ⟨_, execShortTestEnd_failed test due (Int.not_le.mp passed), fun passes => absurd passes passed,
        fun _ => failSequence_effect inside 9 _⟩
  case ccTimeout => exact fun n s inside check unpassed due => ⟨_, execCcTimeout_due check unpassed due, failSequence_effect inside 10 _⟩
  case apart =>
    intro n s inside low high apart
    obtain ⟨state, cause, -⟩ := sq_rampBegun inside 5 (tRampEmerg s n) (endAfterStop n 10 s)
    refine ⟨_, execContactorNotConducting_stops low high apart, ?_, ?_, demandStop_endCause inside low high 5 _⟩
    · rw [demandStop_delivering low high, state]
    · rw [demandStop_delivering low high, cause]
  case ramp =>
    exact fun n r s inside ramp ramping past current => ⟨fun first => execRampLate_late ramp ramping past current first,
      fun past => ⟨_, execRampForced_forces ramp ramping past current, rampForced_effect inside r s⟩⟩
  case overcurrent =>
    exact fun n v w s run present watched first second low high =>
      ⟨_, execFastOvercurrent_stops run present watched first second, fastStop_effect (lt_of_present present) (by omega) 4⟩
  case voltageTest =>
    intro n s inside check tests sound due
    by_cases weld : (sq s n).follows = true ∧ 50000 ≤ (sq s n).busAt - (sq s n).vBus
    · obtain ⟨locked, ended, drivers⟩ := lockOutlet_pairWelded inside s
      exact ⟨_, execWeldVoltageTestEnd_weld check tests due weld.1 weld.2, ended, fun _ _ => ⟨locked, drivers⟩,
        fun sound => absurd weld fun ⟨follows, fell⟩ => sound.elim (by simp [follows]) (Int.not_lt.mpr fell)⟩
    · obtain ⟨ended, unlocked, driver⟩ := weldDone_testOver inside check sound
      exact ⟨_, execWeldVoltageTestEnd_sound check tests due weld, ended, fun follows fell => absurd ⟨follows, fell⟩ weld,
        fun _ => ⟨unlocked, driver⟩⟩

end Sys2Proof.Laws

/-!
PROOF. Bus joins and releases, power modules, safety inputs, tests and resets, auxiliary outputs (chapter 9, R305, R312 to R314, R319, R331
to R336, R340).
-/

namespace Sys2Proof.Laws

open Sys2Proof.Machine Sys2Proof.Safety

/-! Joins and releases of segments (R305). -/

/-- s with a join or a release more under way. -/
def jobAdded (j : BusJob) (s : State) : State := { s with sw := { s.sw with jobs := s.sw.jobs ++ [j] } }

theorem withSw_only {l : List Part} {u s : State} (v : Switch) (ksw : Part.sw ∈ l) (h : OnlyChanges l u s) :
    OnlyChanges l u (s.withSw v) := by
  apply OnlyChanges.upd h
  case h16 => exact fun absent => absurd ksw absent
  all_goals exact fun _ => rfl

/-- Segment m may join outlet n over matrix driver d. -/
structure JoinFree (n m d : Nat) (s : State) : Prop where
  owner : s.present n = true
  joined : s.present m = true
  other : n ≠ m
  driver : joinDriver s n m = some d
  room : matrixClosed s < 7
  energy : (sq s n).state = 5
  idle : (sq s m).state = 0
  unowned : ownerOf s m = none
  calm : s.sw.jobs.any (fun j => bit j.segments m) = false

/-- The join of segment m to outlet n over driver d. -/
def joinJob (h : Hdr) (n m d : Nat) : BusJob := { segment := m, segments := maskOf 8 [m], owner := n, driver := d, ack := flagAck h.flags }

theorem busJoinCmd_free {h : Hdr} {n m d : Nat} {s : State} (role : 1 ≤ s.roles.role) (mode : s.modes.mode = .service)
    (free : JoinFree n m d s) : busJoinCmd h (le 1 n ++ le 1 m) s =
      { run := { st := if pullInFits s d then jobAdded (joinJob h n m d) s else s,
                 status := if pullInFits s d then .queued else .noLeave } } := by
  obtain ⟨owner, joined, other, driver, room, energy, idle, unowned, calm⟩ := free
  have first : byteAt (le 1 n ++ le 1 m) 0 = n := byteAt_le n _ (by have := lt_of_present owner; omega)
  have second : byteAt (le 1 n ++ le 1 m) 1 = m := byteAt_last (le 1 n) (by have := lt_of_present joined; omega)
  cases fits : pullInFits s d <;>
    simp [busJoinCmd, first, second, le_length, role, mode, owner, joined, other, driver, room, energy, idle, unowned, calm, fits, jobAdded,
      joinJob]

/-- A command that its budget gives no leave is turned away, and not kept (R131). -/
theorem hostCommand_noLeave {h : Hdr} {opcode : Nat} {p : List Byte} {cmd : State → Cmd} {s : State} (a : Accepted h opcode p s)
    (e : cmd (touchRole s) = { run := { st := touchRole s, status := .noLeave } }) :
    hostCommand h opcode p cmd s = turnedAway s h opcode .noLeave := by
  have pads := portOpen_of_runs a.runs
  have short : ¬ 4096 < p.length := Nat.not_lt.mpr a.short
  have rom : (s.inRom && !romCommands.contains opcode) = false := by
    cases inRom : s.inRom
    · rfl
    · rw [a.rom inRom]
      rfl
  have up : (touchRole s).shutting = false := a.up
  have checked : (cmd (touchRole s)).verdict h.flags (touchRole s) = none := by
    simp [Cmd.verdict, Level.formOk, e, a.flags, a.basic, up]
  unfold hostCommand packetTaken
  simp only [pads, rxReady_of_free a.runs a.free, short, rom, not_ack a.flags, a.fresh, checked, Bool.not_true, Bool.false_eq_true, if_false]
  rw [e]
  exact shifted_turnAway _ _ _ _ pads

/-- The release of the segments that hang on segment m of outlet n. -/
def releaseJob (h : Hdr) (n m : Nat) (s : State) : BusJob :=
  let ds := (groupMatrix s n).filter (fun d => bit (releaseSet s n m) (matrixJoins d).1 || bit (releaseSet s n m) (matrixJoins d).2)
  { segment := m, segments := releaseSet s n m, owner := n, driver := ds.headD 16, also := ds.tail, join := false, ack := flagAck h.flags }

theorem busReleaseCmd_free {h : Hdr} {n m : Nat} {s : State} (role : 1 ≤ s.roles.role) (mode : s.modes.mode = .service)
    (present : s.present m = true) (owned : ownerOf s m = some n) (params : (busReleaseCmd h (le 1 m) s).params = true)
    (calm : s.sw.jobs.any (fun j => j.segments &&& releaseSet s n m != 0) = false) :
    busReleaseCmd h (le 1 m) s = { run := { st := jobAdded (releaseJob h n m s) s, status := .queued } } := by
  have first : byteAt (le 1 m) 0 = m := byteAt_le m [] (by have := lt_of_present present; omega)
  simp only [busReleaseCmd, first, owned, Option.getD_some, calm, role, mode, le_length, decide_true, beq_self_eq_true, Bool.not_false]
    at params ⊢
  rw [params]
  rfl

theorem execSegmentVoltageMatched_joins {m : Nat} {j : BusJob} {s : State}
    (matched : s.sw.jobs.find? (fun j => j.segment == m && j.join && j.phase == 0 && decide (10 ≤ j.run)) = some j) :
    ∃ jobs, execSegmentVoltageMatched m s = .next (requestPullIn [j.driver] (min (matrixJoins j.driver).1 (matrixJoins j.driver).2) false
      { s with sw := { s.sw with jobs := jobs } }) := by
  rw [execSegmentVoltageMatched, matched]
  exact ⟨_, rfl⟩

/-! Frames to the power modules (R312, R313). -/

theorem crcBit_lt {c : Nat} (bound : c < 2 ^ 32) : crcBit c < 2 ^ 32 := by
  have half : c / 2 < 2 ^ 32 := by omega
  unfold crcBit
  split
  · exact Nat.xor_lt_two_pow half (by decide)
  · exact half

theorem crcByte_lt {c : Nat} (bound : c < 2 ^ 32) (b : Byte) : crcByte c b < 2 ^ 32 := by
  have byte : Nat.xor c b.toNat < 2 ^ 32 := Nat.xor_lt_two_pow bound (by have := b.isLt; omega)
  exact crcBit_lt (crcBit_lt (crcBit_lt (crcBit_lt (crcBit_lt (crcBit_lt (crcBit_lt (crcBit_lt byte)))))))

theorem crcBytes_nil (c : Nat) : crcBytes [] c = c := rfl

/-- The register after a byte, whichever of the two branches computes it. -/
theorem crcBytes_cons (b : Byte) (p : List Byte) (c : Nat) : crcBytes (b :: p) c = crcBytes p (crcByte c b) := by
  have step : crcBytes (b :: p) c = (match crcByte c b with | 0 => crcBytes p 0 | k + 1 => crcBytes p (k + 1)) := rfl
  rw [step]
  generalize crcByte c b = next
  cases next with
  | zero => rfl
  | succ k => rfl

theorem crcBytes_lt (p : List Byte) {c : Nat} (bound : c < 2 ^ 32) : crcBytes p c < 2 ^ 32 := by
  induction p generalizing c with
  | nil => rwa [crcBytes_nil]
  | cons b p ih =>
    rw [crcBytes_cons]
    exact ih (crcByte_lt bound b)

theorem crc32c_lt (p : List Byte) : crc32c p < 256 ^ 4 := by
  rw [show 256 ^ 4 = 2 ^ 32 from rfl]
  exact Nat.xor_lt_two_pow (crcBytes_lt p (by decide)) (by decide)

/-- The lengths of a CAN FD frame's data that a payload takes. -/
theorem canLength_bounds (n : Nat) : 8 ≤ canLength n ∧ canLength n ≤ 64 := by
  unfold canLength
  cases found : [8, 12, 16, 20, 24, 32, 48, 64].find? (fun l => decide (n ≤ l)) with
  | none => exact ⟨by decide, by decide⟩
  | some l =>
    have mem := List.mem_of_find?_eq_some found
    fin_cases mem <;> exact ⟨by decide, by decide⟩

theorem padTo_length (n : Nat) (p : List Byte) : (padTo n p).length = n := by simp [padTo]

/-- A frame's data ends with the CRC-32C of what stands before it. -/
theorem canPayload_checked (p : List Byte) (counter : Byte) : (canPayload p counter).length ≤ 64 ∧
    numAt (canPayload p counter) ((canPayload p counter).length - 4) 4 =
      crc32c ((canPayload p counter).take ((canPayload p counter).length - 4)) := by
  obtain ⟨low, high⟩ := canLength_bounds (p.length + 5)
  unfold canPayload
  dsimp only
  generalize body : padTo (canLength (p.length + 5) - 5) p ++ [counter] = b
  have length : b.length = canLength (p.length + 5) - 4 := by
    rw [← body, List.length_append, padTo_length, List.length_singleton]
    omega
  have whole : (b ++ le 4 (crc32c b)).length - 4 = b.length := by simp [le_length]
  rw [whole, List.take_left, numAt_last b _ 4 _ rfl (crc32c_lt b)]
  exact ⟨by rw [List.length_append, le_length]; omega, rfl⟩

theorem mem_targetFrames {s : State} {k base : Nat} {ms : List Nat} {c : Byte} {f : Nat × List Byte}
    (mem : f ∈ targetFrames s base k ms c) : ∃ p counter, f.2 = canPayload p counter := by
  induction k generalizing base ms c with
  | zero => exact nomatch mem
  | succ k ih =>
    rw [targetFrames] at mem
    split at mem
    · exact nomatch mem
    · rcases List.mem_cons.mp mem with rfl | later
      · exact ⟨_, _, rfl⟩
      · exact ih later

/-- A bus's frames of this turn take one counter value each, in one count for both buses (R312, R313). -/
theorem execPmTargetTransmit_frames {b : Nat} {s : State} (run : s.regionsRun = true) (bus : b < 2) (turn : s.now % 10 = 0) :
    ∃ t, execPmTargetTransmit b s = .next t ∧ t.sw.txCounter = s.sw.txCounter + BitVec.ofNat 8 t.sw.canOut.length ∧
      t.sw.modules = s.sw.modules ∧ (∀ f ∈ t.sw.canOut, ∃ p counter, f.2 = canPayload p counter) ∧ OnlyChanges [.sw] s t := by
  have taken : ¬ ((!s.regionsRun) = true ∨ 2 ≤ b ∨ s.now % 10 ≠ 0) := by
    simp [run, turn]
    omega
  rw [execPmTargetTransmit, if_neg taken]
  refine ⟨_, rfl, ?_, rfl, fun f mem => ?_, withSw_only _ (by decide) (.refl _ s)⟩
  · simp [BitVec.ofNat_add, BitVec.add_assoc]
  · rcases List.mem_append.mp mem with target | permits
    · exact mem_targetFrames target
    · split at permits
      · rw [List.mem_singleton.mp permits]
        exact ⟨_, _, rfl⟩
      · exact nomatch permits

/-! The power modules' own frames, and their loss (R313, R314). -/

theorem pmod_updPm_self {m : Nat} (inside : m < 16) (f : Module → Module) (s : State) : pmod (updPm m f s) m = f (pmod s m) :=
  vget_vmod_self _ _ _ inside

theorem pmod_of_sw {s t : State} (same : t.sw = s.sw) (m : Nat) : pmod t m = pmod s m := by
  rw [pmod, same, pmod]

/-- An outlet left without a healthy module is stopped, and that is all. -/
theorem stopWithoutModule_stopLasts {n : Nat} (s : State) : StopLasts true n s (stopWithoutModule n s) := by
  unfold stopWithoutModule
  refine .ite ?_ (.refl true n s)
  dsimp only
  have ramped : StopLasts true n s (if (sq s n).state = 6 then s else safeRampStop n 7 (tRampEmerg s n) (endAfterStop n 10 s)) :=
    .ite (.refl true n s) (safeRampStop_stopLasts _ _ (endAfterStop_stopLasts n 10 (.refl true n s)))
  split
  · exact openPair_stopLasts (event_stopLasts _ _ (updSq_namedLasts _ ramped))
  · exact ramped

/-- What a module reports stays, whatever stops without it. -/
theorem reported_moduleGone (i m : Nat) (s : State) : reported (pmod (moduleGone i s) m) = reported (pmod s m) := by
  unfold moduleGone
  split
  · exact (stopWithoutModule_stopLasts s).modules m
  · rfl

/-- A module's record as a status frame gives it. -/
def statusTaken (now : Nat) (p : List Byte) (x : Module) : Module :=
  { x with health := if numAt p 6 2 != 0 then 2 else 1, voltage := numAt p 1 2, current := signedOf 16 (numAt p 3 2), temp := byteAt p 5,
           faultBits := BitVec.ofNat 16 (numAt p 6 2), lastAt := now, counter := some (canCounter 8 p) }

theorem execPmStatusFrame_taken {m : Nat} {p : List Byte} {s : State} (run : s.regionsRun = true) (reached : pmReached s m = true)
    (valid : canValid 8 (pmod s m).counter p = true) : execPmStatusFrame m p s =
      .next (if numAt p 6 2 != 0 then moduleGone m (updPm m (statusTaken s.now p) s) else updPm m (statusTaken s.now p) s) := by
  rw [execPmStatusFrame, if_neg (by simp [run, reached, valid])]
  rfl

/-- A valid status frame gives the module's health, voltage and time; a faulty one stops what it leaves without a module. -/
theorem execPmStatusFrame_reports {m : Nat} {p : List Byte} {s : State} (inside : m < 16) (run : s.regionsRun = true)
    (reached : pmReached s m = true) (valid : canValid 8 (pmod s m).counter p = true) : ∃ t, execPmStatusFrame m p s = .next t ∧
      (pmod t m).health = (if numAt p 6 2 = 0 then 1 else 2) ∧ (pmod t m).voltage = numAt p 1 2 ∧ (pmod t m).lastAt = s.now ∧
      (numAt p 6 2 = 0 → OnlyChanges [.sw] s t) := by
  have taken : pmod (updPm m (statusTaken s.now p) s) m = statusTaken s.now p (pmod s m) := pmod_updPm_self inside _ s
  refine ⟨_, execPmStatusFrame_taken run reached valid, ?_⟩
  by_cases sound : numAt p 6 2 = 0
  · rw [if_neg (by simp [sound]), taken, if_pos sound]
    exact ⟨by simp [statusTaken, sound], rfl, rfl, fun _ => updPm_only _ _ (by decide) (.refl _ s)⟩
  · have kept := reported_moduleGone m m (updPm m (statusTaken s.now p) s)
    rw [taken] at kept
    simp only [reported, Prod.mk.injEq] at kept
    obtain ⟨health, voltage, -, lastAt⟩ := kept
    rw [if_pos (by simp [sound]), health, voltage, lastAt, if_neg sound]
    exact ⟨by simp [statusTaken, sound], rfl, rfl, fun zero => absurd zero sound⟩

theorem execPmFaultFrame_taken {m : Nat} {p : List Byte} {s : State} (run : s.regionsRun = true) (reached : pmReached s m = true)
    (valid : canValid 4 (pmod s m).faultCounter p = true) : execPmFaultFrame m p s = .next (moduleGone m (updPm m (fun x =>
      { x with health := 2, faultBits := BitVec.ofNat 16 (numAt p 0 2), faultCounter := some (canCounter 4 p) }) s)) := by
  simp only [execPmFaultFrame, run, reached, valid, Bool.and_self, Bool.not_true, Bool.false_eq_true, if_false]

theorem execPmFaultFrame_reports {m : Nat} {p : List Byte} {s : State} (inside : m < 16) (run : s.regionsRun = true)
    (reached : pmReached s m = true) (valid : canValid 4 (pmod s m).faultCounter p = true) : ∃ t, execPmFaultFrame m p s = .next t ∧
      (pmod t m).health = 2 ∧ (pmod t m).faultBits = BitVec.ofNat 16 (numAt p 0 2) := by
  refine ⟨_, execPmFaultFrame_taken run reached valid, ?_⟩
  have kept := reported_moduleGone m m (updPm m (fun x =>
    { x with health := 2, faultBits := BitVec.ofNat 16 (numAt p 0 2), faultCounter := some (canCounter 4 p) }) s)
  rw [pmod_updPm_self inside] at kept
  simp only [reported, Prod.mk.injEq] at kept
  exact ⟨kept.1, kept.2.2.1⟩

/-- s with module m lost, which is reported. -/
def moduleLost (m : Nat) (s : State) : State :=
  event 0x062A (le 1 m ++ le 1 (pmSegment s m) ++ s.stamp) (updPm m (fun y => { y with health := 3 }) s)

theorem execPmLost_lost {m : Nat} {s : State} (run : s.regionsRun = true) (watched : pmEnabled s m = true) (heard : (pmod s m).health ≠ 3)
    (silent : (pmod s m).lastAt + msF 50 ≤ s.now) : execPmLost m s = .next (moduleGone m (moduleLost m s)) := by
  simp only [execPmLost, run, watched, heard, silent, ne_eq, not_false_eq_true, and_self, if_true]
  rfl

/-- A module silent for 50 ms is lost. -/
theorem execPmLost_reports {m : Nat} {s : State} (inside : m < 16) (run : s.regionsRun = true) (watched : pmEnabled s m = true)
    (heard : (pmod s m).health ≠ 3) (silent : (pmod s m).lastAt + msF 50 ≤ s.now) :
    ∃ t, execPmLost m s = .next t ∧ (pmod t m).health = 3 := by
  have kept := congrArg Prod.fst (reported_moduleGone m m (moduleLost m s))
  rw [moduleLost, pmod_of_sw (event_sw ..), pmod_updPm_self inside] at kept
  exact ⟨_, execPmLost_lost run watched heard silent, kept⟩

/-! The safety inputs: what a demand does to them (R331 to R333). -/

theorem sin_updIn_self {i : Nat} (inside : i < 8) (f : SafeIn → SafeIn) (s : State) : sin (updIn i f s) i = f (sin s i) :=
  vget_vmod_self _ _ _ inside

theorem sin_updIn_of_ne {i j : Nat} (other : j ≠ i) (f : SafeIn → SafeIn) (s : State) : sin (updIn i f s) j = sin s j :=
  vget_vmod_of_ne _ _ _ other

theorem sin_of_inputs {s t : State} (same : t.sw.inputs = s.sw.inputs) (i : Nat) : sin t i = sin s i := by
  rw [sin, same, sin]

@[simp] theorem sin_event (code : Nat) (payload : List Byte) (s : State) (i : Nat) : sin (event code payload s) i = sin s i :=
  sin_of_inputs (congrArg Switch.inputs (event_sw ..)) i

/-- What a demand leads to: stops of outlets and auxiliary contactors off, no more. -/
theorem demandReaction_switchLasts (i : Nat) (s : State) : SwitchLasts s (demandReaction i s) := by
  have fast (ns : List Nat) : SwitchLasts s (ns.foldl (fun s n => fastStop n 3 true s) s) :=
    .foldl (fun _ n k => k.trans (fastStop_stopLasts 3 true (.refl true n _)).toSwitchLasts) (.refl s)
  have ramped (ns : List Nat) : SwitchLasts s (ns.foldl (fun s n => demandStop n 3 (tRampEmerg s n) s) s) :=
    .foldl (fun _ n k => k.trans (demandStop_stopLasts 3 _ (.refl true n _)).toSwitchLasts) (.refl s)
  unfold demandReaction
  dsimp only
  split
  · exact .foldl (fun _ d k => k.trans (driverOff_stopLasts d (.refl true 0 _)).toSwitchLasts) (fast _)
  split
  · exact ramped _
  · exact .refl s

/-- An input's record as its demand begins. -/
def demanded (x : SafeIn) : SafeIn := { x with demand := true, await := false, seen := true }

/-- s with the demand of input i begun and reported; the reaction follows. -/
def demandBegun (i : Nat) (s : State) : State := event 0x0627 (le 1 i ++ le 1 1 ++ s.stamp) (updIn i demanded s)

theorem enterDemand_begins {i : Nat} {s : State} (quiet : (sin s i).demand = false) :
    enterDemand i s = demandReaction i (demandBegun i s) := by
  simp only [enterDemand, quiet, Bool.false_eq_true, if_false]
  rfl

theorem enterDemand_again {i : Nat} {s : State} (demand : (sin s i).demand = true) : enterDemand i s = s := if_pos demand

/-- A demand changes the record of its own input alone, and no input's configuration. -/
theorem enterDemand_inputs (i : Nat) (s : State) : (enterDemand i s).sw.inputConfig = s.sw.inputConfig ∧
    (enterDemand i s).sw.inputs = if (sin s i).demand then s.sw.inputs else vmod s.sw.inputs i demanded := by
  cases demand : (sin s i).demand with
  | true =>
    rw [enterDemand_again demand]
    exact ⟨rfl, rfl⟩
  | false =>
    have lasts := demandReaction_switchLasts i (demandBegun i s)
    rw [enterDemand_begins demand]
    refine ⟨lasts.inputConfig.trans ?_, lasts.inputs.trans ?_⟩
    · rw [demandBegun, event_sw]
      rfl
    · rw [demandBegun, event_sw]
      rfl

theorem sin_enterDemand_self {i : Nat} (inside : i < 8) (s : State) :
    (sin (enterDemand i s) i).demand = true ∧ (sin (enterDemand i s) i).fault = (sin s i).fault := by
  rw [sin, (enterDemand_inputs i s).2]
  split
  case _ demand => exact ⟨demand, rfl⟩
  case _ =>
    rw [vget_vmod_self _ _ _ inside]
    exact ⟨rfl, rfl⟩

theorem sin_enterDemand_of_ne {i j : Nat} (other : j ≠ i) (s : State) : sin (enterDemand i s) j = sin s j := by
  rw [sin, (enterDemand_inputs i s).2]
  split
  · rfl
  · exact vget_vmod_of_ne _ _ _ other

/-! An emergency stop's demand switches the pairs of its scope off (R319, R322). -/

theorem fastStop_off {n : Nat} {s : State} (low : 1 ≤ (sq s n).state) (high : (sq s n).state ≤ 7) (cause : Nat) :
    (drv (fastStop n cause true s) (2 * n)).cmd = false := by
  by_cases opening : (sq s n).state = 7
  · rw [fastStop_opening opening]
    exact ((pairOpened_stopLasts (.refl true n _)).drivers _).off (fastSwitched_off n s)
  · rw [fastStop_early (by omega)]
    refine ((pairOpened_stopLasts (.refl true n _)).drivers _).off ?_
    rw [drv_fastOpening]
    exact fastSwitched_off n s

/-- Outlets stopped in turn: every pair among them whose sequence is between PULL_IN and OPENING is off. -/
theorem fastStops_off {n : Nat} {ns : List Nat} (mem : n ∈ ns) {s : State} (low : 1 ≤ (sq s n).state) (high : (sq s n).state ≤ 7)
    (cause : Nat) : (drv (ns.foldl (fun s n => fastStop n cause true s) s) (2 * n)).cmd = false := by
  obtain ⟨before, after, rfl, absent⟩ := List.eq_append_cons_of_mem mem
  rw [List.foldl_append, List.foldl_cons]
  have untouched : sq (before.foldl (fun s n => fastStop n cause true s) s) n = sq s n :=
    foldl_absent (f := fun s n => fastStop n cause true s) (sq · n) absent
      (fun t j other => (fastStop_stopLasts cause true (.refl true j t)).others n other.symm) s
  generalize before.foldl _ s = t at untouched
  have off : (drv (fastStop n cause true t) (2 * n)).cmd = false := fastStop_off (by rwa [untouched]) (by rwa [untouched]) cause
  have later : SwitchLasts (fastStop n cause true t) (after.foldl (fun s n => fastStop n cause true s) (fastStop n cause true t)) :=
    .foldl (fun _ j k => k.trans (fastStop_stopLasts cause true (.refl true j _)).toSwitchLasts) (.refl _)
  exact (later.drivers _).off off

/-- An emergency stop's demand switches off the pair of every outlet in its scope whose sequence is between PULL_IN and OPENING. -/
theorem demandReaction_emergency {i n : Nat} {s : State} (emergency : inFunc s i = 1) (present : s.present n = true)
    (scope : bit (inScope s i) n = true) (low : 1 ≤ (sq s n).state) (high : (sq s n).state ≤ 7) :
    (drv (demandReaction i s) (2 * n)).cmd = false := by
  have mem : n ∈ (bitList (inScope s i)).filter s.present := by
    simp [bitList, lt_of_present present, scope, present]
  have off := fastStops_off mem low high 3
  simp only [demandReaction, emergency, if_true]
  generalize List.foldl _ s _ = t at off ⊢
  have aux (ds : List Nat) : SwitchLasts t (ds.foldl (fun s d => driverOff d s) t) := (driversOff_stopLasts ds (.refl true 0 t)).toSwitchLasts
  exact ((aux _).drivers _).off off

/-- An input's record as its channels read, one of them in demand at least (R331, R332). -/
def readInDemand (a b da db : Bool) (now : Nat) (x : SafeIn) : SafeIn :=
  { x with a := a, b := b, bothSeen := x.bothSeen || (x.fault && da && db),
           apartAt := if da && db then none else some (x.apartAt.getD now) }

/-- s with input i read in demand. -/
def inputDemanded (i : Nat) (aRead bRead : Bool) (s : State) : State :=
  updIn i (readInDemand (confirmedA s i aRead) (confirmedB s i bRead) (demandA (confirmedA s i aRead))
    (demandB (inCfg s i) (confirmedB s i bRead)) s.now) s

theorem execSafetyInputDemand_demands {i : Nat} {a b : Bool} {s : State} (run : s.regionsRun = true) (inside : i < 8)
    (used : inFunc s i ≠ 0) (demand : demandA (confirmedA s i a) = true ∨ demandB (inCfg s i) (confirmedB s i b) = true) :
    execSafetyInputDemand i a b s = .next (enterDemand i (inputDemanded i a b s)) := by
  have taken : ¬ (!(s.regionsRun && decide (i < 8) && inFunc s i != 0 &&
      (demandA (confirmedA s i a) || demandB (inCfg s i) (confirmedB s i b)))) = true := by
    have demand := (Bool.or_eq_true _ _).mpr demand
    simp only [run, inside, bne_iff_ne.mpr used, demand]
    decide
  rw [execSafetyInputDemand, if_neg taken]
  rfl

/-- An emergency input newly in demand switches off the pairs of its scope. -/
theorem enterDemand_emergency {i n : Nat} (inside : i < 8) {a b : Bool} {s : State} (emergency : inFunc s i = 1)
    (quiet : (sin s i).demand = false) (present : s.present n = true) (scope : bit (inScope s i) n = true)
    (low : 1 ≤ (sq s n).state) (high : (sq s n).state ≤ 7) : (drv (enterDemand i (inputDemanded i a b s)) (2 * n)).cmd = false := by
  have quiet : (sin (inputDemanded i a b s) i).demand = false := by
    rw [inputDemanded, sin_updIn_self inside]
    exact quiet
  have config : inCfg (demandBegun i (inputDemanded i a b s)) i = inCfg s i := by
    rw [inCfg, demandBegun, event_sw]
    rfl
  have only : OnlyChanges [.port, .sw, .store] s (demandBegun i (inputDemanded i a b s)) :=
    event_only _ _ (by decide) (by decide) (updIn_only _ _ (by decide) (updIn_only _ _ (by decide) (.refl _ s)))
  have there := present_congr (only .factory (by decide)) (only .rst (by decide)) n
  have record : sq (demandBegun i (inputDemanded i a b s)) n = sq s n := by
    rw [demandBegun, sq_event]
    rfl
  rw [enterDemand_begins quiet]
  exact demandReaction_emergency (by rwa [inFunc, config]) (by rwa [there]) (by rwa [inScope, config]) (by rwa [record]) (by rwa [record])

/-! The end of a demand, and the start-up test (R333 to R335). -/

theorem emit_sw (code : Nat) (payload : List Byte) (ack : Bool) (s : State) : (emit code payload ack s).sw = s.sw :=
  Part.kept (p := .sw) (by simp [emit_only, OnlyChanges.refl])

/-- An input's record after a start-up test. -/
def untested (x : SafeIn) : SafeIn := { x with proven := false, seen := false }

/-- The end of a start-up test: none runs, the inputs' notes of it are gone, and a failed one proves nothing. -/
theorem testDone_sw (result : Nat) (s : State) : (testDone result s).sw.inputs = s.sw.inputs.map untested ∧
    (testDone result s).sw.testAt = none ∧ (result ≠ 0 → (testDone result s).sw.proofHash = s.sw.proofHash) := by
  unfold testDone
  dsimp only
  rw [emit_sw]
  by_cases proven : result = 0
  · rw [if_pos proven]
    exact ⟨rfl, rfl, fun failed => absurd proven failed⟩
  · rw [if_neg proven]
    exact ⟨rfl, rfl, fun _ => rfl⟩

/-- What the end of a test does not touch in an input's record stays, whether the test ends or not. -/
theorem sin_testCheck_field {β : Type} (g : SafeIn → β) (kept : ∀ x, g (untested x) = g x) (s : State) (i : Nat) :
    g (sin (testCheck s) i) = g (sin s i) := by
  unfold testCheck
  split
  · rw [sin, (testDone_sw 0 s).1]
    exact vget_map_field _ _ _ g kept
  · rfl

/-- An input's record as its demand ends without a reset (R333). -/
def endedDemand (testing : Bool) (x : SafeIn) : SafeIn := { x with await := false, proven := x.proven || (testing && x.seen) }

theorem sin_demandEnded_field {i : Nat} (inside : i < 8) {β : Type} (g : SafeIn → β) (kept : ∀ x, g (untested x) = g x) (s : State) :
    g (sin (demandEnded i s) i) = g (endedDemand s.sw.testAt.isSome (sin s i)) := by
  unfold demandEnded
  dsimp only
  rw [sin_testCheck_field g kept, sin_event, sin_updIn_self inside]
  rfl

/-- s with input i read with neither channel in demand. -/
def inputQuiet (i : Nat) (aRead bRead : Bool) (s : State) : State :=
  updIn i (fun x => { x with a := confirmedA s i aRead, b := confirmedB s i bRead, apartAt := none }) s

/-- A demand that ends waits for its reset, or ends there (R333). -/
theorem execSafetyDemandEnd_ends {i : Nat} {a b : Bool} {s : State} (run : s.regionsRun = true) (inside : i < 8)
    (demand : (sin s i).demand = true) (sound : (sin s i).fault = false) (live : inputIsolated s i = false)
    (quietA : demandA (confirmedA s i a) = false) (quietB : demandB (inCfg s i) (confirmedB s i b) = false) :
    execSafetyDemandEnd i a b s = .next (if bit (inCfg s i) 40 then
        updIn i (fun x => { x with fault := false, demand := false, await := true }) (inputQuiet i a b s)
      else demandEnded i (updIn i (fun x => { x with fault := false, demand := false }) (inputQuiet i a b s))) := by
  have taken : ¬ (!(s.regionsRun && decide (i < 8) && (sin s i).demand && !demandA (confirmedA s i a) &&
      !demandB (inCfg s i) (confirmedB s i b))) = true := by
    simp [run, inside, demand, quietA, quietB]
  rw [execSafetyDemandEnd]
  dsimp only
  rw [if_neg taken, if_neg (by simp [sound, live])]
  cases bit (inCfg s i) 40 <;> rfl

theorem safetyDemandEnd_effect {i : Nat} {a b : Bool} {s : State} (run : s.regionsRun = true) (inside : i < 8)
    (demand : (sin s i).demand = true) (sound : (sin s i).fault = false) (live : inputIsolated s i = false)
    (quietA : demandA (confirmedA s i a) = false) (quietB : demandB (inCfg s i) (confirmedB s i b) = false) :
    ∃ t, execSafetyDemandEnd i a b s = .next t ∧ (sin t i).demand = false ∧
      (bit (inCfg s i) 40 = true → (sin t i).await = true ∧ OnlyChanges [.sw] s t) := by
  refine ⟨_, execSafetyDemandEnd_ends run inside demand sound live quietA quietB, ?_⟩
  cases reset : bit (inCfg s i) 40 with
  | true =>
    rw [if_pos rfl, sin_updIn_self inside]
    exact ⟨rfl, fun _ => ⟨rfl, updIn_only _ _ (by decide) (updIn_only _ _ (by decide) (.refl _ s))⟩⟩
  | false =>
    refine ⟨?_, fun set => nomatch set⟩
    rw [if_neg Bool.false_ne_true, sin_demandEnded_field inside SafeIn.demand (fun _ => rfl), sin_updIn_self inside]
    rfl

/-! Faults of an input, and its test pulses (R332, R334). -/

/-- An input's record as it is found faulty. -/
def foundFaulty (x : SafeIn) : SafeIn := { x with fault := true, bothSeen := false }

/-- s with input i found faulty, which is reported; its demand follows. -/
def inputFailed (i kind : Nat) (s : State) : State := event 0x0628 (le 1 i ++ le 1 kind ++ s.stamp) (updIn i foundFaulty s)

theorem inputFaulty_new {i kind : Nat} {s : State} (sound : (sin s i).fault = false) :
    inputFaulty i kind s = enterDemand i (inputFailed i kind s) := by
  simp only [inputFaulty, sound, Bool.false_eq_true, if_false]
  rfl

theorem inputFaulty_known {i kind : Nat} {s : State} (faulty : (sin s i).fault = true) : inputFaulty i kind s = s := if_pos faulty

theorem sin_inputFaulty_self {i : Nat} (inside : i < 8) (kind : Nat) (s : State) : (sin (inputFaulty i kind s) i).fault = true ∧
    ((sin s i).fault = false → (sin (inputFaulty i kind s) i).demand = true) := by
  cases known : (sin s i).fault with
  | true =>
    rw [inputFaulty_known known]
    exact ⟨known, fun sound => nomatch sound⟩
  | false =>
    obtain ⟨demand, fault⟩ := sin_enterDemand_self inside (inputFailed i kind s)
    rw [inputFaulty_new known, fault, inputFailed, sin_event, sin_updIn_self inside]
    exact ⟨rfl, fun _ => demand⟩

/-- A faulty input leaves the others, and every configuration. -/
theorem inputFaulty_others {i j : Nat} (other : j ≠ i) (kind : Nat) (s : State) :
    sin (inputFaulty i kind s) j = sin s j ∧ (inputFaulty i kind s).sw.inputConfig = s.sw.inputConfig := by
  cases known : (sin s i).fault with
  | true =>
    rw [inputFaulty_known known]
    exact ⟨rfl, rfl⟩
  | false =>
    rw [inputFaulty_new known, sin_enterDemand_of_ne other, (enterDemand_inputs i _).1, inputFailed, sin_event, sin_updIn_of_ne other,
      event_sw]
    exact ⟨rfl, rfl⟩

/-- What pulse k of the test does to input i where no channel reads off (R334). -/
def pulsed (k : Nat) (s : State) (i : Nat) : State :=
  if inFunc s i = 0 ∨ (sin s i).demand then s
  else
    match pulseFault k (fld (inCfg s i) 4 3) true false, pulseFault k (fld (inCfg s i) 7 3) (!bit (inCfg s i) 3) false with
    | some f, _ => inputFaulty i f s
    | none, some f => inputFaulty i f s
    | none, none => s

theorem execInputTestPulse_due {k : Nat} {s : State} (run : s.regionsRun = true) (inside : k < 4) (due : s.clock.legal % 20000 = k * 5000) :
    execInputTestPulse k [] s = .next ((List.range 8).foldl (pulsed k) s) := by
  have taken : ¬ ((!s.regionsRun) = true ∨ 4 ≤ k ∨ s.clock.legal % 20000 ≠ k * 5000) := by
    simp [run, due]
    omega
  rw [execInputTestPulse, if_neg taken]
  rfl

/-- An input that the pulse cannot test: unused, in demand, or with no channel fed from a pulse source. -/
theorem pulsed_untested {k i : Nat} {s : State}
    (exempt : inFunc s i = 0 ∨ (sin s i).demand = true ∨ (4 ≤ fld (inCfg s i) 4 3 ∧ 4 ≤ fld (inCfg s i) 7 3)) : pulsed k s i = s := by
  rw [pulsed]
  split
  · rfl
  case isFalse tested =>
    obtain ⟨used, quiet⟩ := not_or.mp tested
    obtain ⟨first, second⟩ := (exempt.resolve_left used).resolve_left quiet
    simp [pulseFault, first, second]

theorem pulsed_others {k i j : Nat} (other : j ≠ i) (s : State) :
    sin (pulsed k s i) j = sin s j ∧ (pulsed k s i).sw.inputConfig = s.sw.inputConfig := by
  unfold pulsed
  split
  · exact ⟨rfl, rfl⟩
  split
  · exact inputFaulty_others other _ s
  · exact inputFaulty_others other _ s
  · exact ⟨rfl, rfl⟩

/-- A channel that its pulse does not switch off is faulty. -/
theorem pulsed_faulty {k i : Nat} {s : State} (inside : i < 8) (source : k < 4) (used : inFunc s i ≠ 0) (quiet : (sin s i).demand = false)
    (fed : fld (inCfg s i) 4 3 = k) : (sin (pulsed k s i) i).fault = true := by
  have found : pulseFault k (fld (inCfg s i) 4 3) true false = some 1 := by
    simp [pulseFault, fed, source]
  simp only [pulsed, used, quiet, Bool.false_eq_true, or_self, if_false, found]
  exact (sin_inputFaulty_self inside 1 s).1

theorem pulses_faulty {k i : Nat} {s : State} (inside : i < 8) (source : k < 4) (used : inFunc s i ≠ 0) (quiet : (sin s i).demand = false)
    (fed : fld (inCfg s i) 4 3 = k) : (sin ((List.range 8).foldl (pulsed k) s) i).fault = true := by
  obtain ⟨t, same, last⟩ := foldl_once (f := pulsed k) (fun t => (sin t i, t.sw.inputConfig)) List.nodup_range (List.mem_range.mpr inside)
    (fun t j other => Prod.ext_iff.mpr (pulsed_others other.symm t)) s
  simp only [Prod.mk.injEq] at same last
  obtain ⟨record, config⟩ := same
  have cfg : inCfg t i = inCfg s i := by
    rw [inCfg, config, inCfg]
  rw [last.1]
  exact pulsed_faulty inside source (by rwa [inFunc, cfg]) (by rwa [record]) (by rwa [cfg])

/-! The drivers' test pulses (R311). -/

/-- A test pulse that is due switches the driver's test switch; where the pad shows no pulse, the outlet stops and the driver is held off. -/
theorem execDriverTestPulse_due {d c : Nat} {padOk : Bool} {s : State} (run : s.regionsRun = true) (pair : d < 16)
    (due : s.clock.legal % 20000 = 800 * d) (untimed : (drv s d).hwOff = none) (sound : (drv s d).state ≤ 2) :
    execDriverTestPulse d padOk c s = .next (if padOk then
        updDrv d (fun y => { y with testSwitch := if y.cmd then !y.testSwitch else y.testSwitch }) s
      else updDrv d (heldOff 5) (driverOff d (if s.present (d / 2) then fastStop (d / 2) 5 false (feedbackReport d c s)
        else feedbackReport d c s))) := by
  have taken : ¬ ((!s.regionsRun) = true ∨ 24 ≤ d ∨ s.clock.legal % 20000 ≠ 800 * d ∨ (drv s d).hwOff.isSome = true ∨
      (!(drv s d).cmd && (decide (16 ≤ d) && fld (kCfg s d) 0 2 != 0)) = true ∨ (drv s d).state = 3 ∨ (drv s d).state = 4) := by
    simp [run, due, untimed]
    omega
  rw [execDriverTestPulse, if_neg taken]
  simp only [driverOutlet_pair pair, feedbackReport_present]
  cases padOk with
  | true => rfl
  | false => cases s.present (d / 2) <;> rfl

theorem and_not_and_self (p g : BitVec 8) : p &&& ~~~ g &&& g = 0 := by
  rw [BitVec.and_assoc, BitVec.and_comm (~~~ g), BitVec.and_not_self]
  simp

/-- The permits of the group after such a stop. -/
theorem testFailed_permit {d c : Nat} {s : State} (pair : d < 16) (energy : (sq s (d / 2)).state = 5) :
    (fastStop (d / 2) 5 false (feedbackReport d c s)).sw.permit &&& groupOf s (d / 2) = 0 := by
  have same := feedbackReport_sw d c s
  have record : (sq (feedbackReport d c s) (d / 2)).state = 5 := by rw [sq_of_sw same, energy]
  have group : groupOf (feedbackReport d c s) (d / 2) = groupOf s (d / 2) := by
    simp only [groupOf, ownerOf, same]
  have permit := (fastStop_effect (n := d / 2) (s := feedbackReport d c s) (by omega) (by omega) 5).2.1
  rw [permit, group]
  exact and_not_and_self _ _

/-! Resets, the start-up test, welds cleared, auxiliary contactors (R333, R335, R336, R340). -/

theorem bitList_one {i : Nat} (inside : i < 8) : bitList (BitVec.ofNat 8 (2 ^ i)) = [i] := by
  interval_cases i <;> rfl

theorem safetyResetCmd_one {i : Nat} {s : State} (inside : i < 8) (role : 1 ≤ s.roles.role) (quiet : (sin s i).demand = false)
    (sound : (sin s i).fault = false) :
    safetyResetCmd (le 1 (2 ^ i)) s = { run := { st := if (sin s i).await then demandEnded i s else s } } := by
  have small : 2 ^ i < 2 ^ 8 := Nat.pow_lt_pow_right (by decide) inside
  have named : byteAt (le 1 (2 ^ i)) 0 = 2 ^ i := byteAt_le _ [] small
  simp only [safetyResetCmd, named, bitList_one inside, quiet, sound, role, le_length, List.any_cons, List.any_nil, Bool.or_self,
    Bool.false_eq_true, if_false, List.foldl_cons, List.foldl_nil, beq_self_eq_true, decide_true]

/-- A reset leaves its input waiting for none. -/
theorem reset_await {i : Nat} (inside : i < 8) (s : State) : (sin (if (sin s i).await then demandEnded i s else s) i).await = false := by
  cases waits : (sin s i).await with
  | true =>
    rw [if_pos rfl, sin_demandEnded_field inside SafeIn.await (fun _ => rfl)]
    rfl
  | false =>
    rw [if_neg Bool.false_ne_true, waits]

/-- s with a start-up test begun: no input proven. -/
def testBegun (ack : Bool) (s : State) : State :=
  let ins := Vector.ofFn (fun i : Fin 8 =>
    { sin s i.val with proven := false, seen := (sin s i.val).demand && decide (3 ≤ inFunc s i.val) })
  { s with sw := { s.sw with testAt := some s.now, testAck := ack, inputs := ins } }

theorem startupTestCmd_free {h : Hdr} {s : State} (role : 2 ≤ s.roles.role) (mode : s.modes.mode = .commissioning)
    (free : s.sw.testAt = none) :
    startupTestCmd h [] s = { run := { st := testCheck (testBegun (flagAck h.flags) s), status := .queued } } := by
  simp only [startupTestCmd, role, mode, free, decide_true, beq_self_eq_true, Option.isNone_none, List.length_nil]
  rfl

/-- A test that has an input to prove does not end at once. -/
theorem testCheck_testBegun {i : Nat} {s : State} (inside : i < 8) (used : inFunc s i ≠ 0) (ack : Bool) :
    testCheck (testBegun ack s) = testBegun ack s := by
  have unproven : (sin (testBegun ack s) i).proven = false := by
    simp [sin, testBegun, vget, inside]
  have used : inFunc (testBegun ack s) i ≠ 0 := used
  refine if_neg fun ⟨_, complete⟩ => ?_
  have input := List.all_eq_true.mp complete i (List.mem_range.mpr inside)
  simp [used, unproven] at input

theorem execStartupTestTimeout_due {t0 : Nat} {s : State} (runs : s.sw.testAt = some t0) (due : t0 + secF 1800 ≤ s.now) :
    execStartupTestTimeout s = .next (testDone 1 s) := by
  simp only [execStartupTestTimeout, runs, due, if_true]

/-- A driver's record as its weld is cleared (R336). -/
def weldCleared (y : Driver) : Driver := if y.state = 4 then { y with state := 0, fault := 0 } else y

theorem weldCleared_state (y : Driver) : (weldCleared y).state ≠ 4 := by
  unfold weldCleared
  split
  · exact Nat.zero_ne_add_one 3
  · assumption

/-- s with the welds of outlet n's pair, and of every matrix driver that reads open, cleared, and its sequence in IDLE. -/
def outletCleared (n : Nat) (s : State) : State :=
  seqTo n 0 (([2 * n, 2 * n + 1] ++ ((List.range 8).map (· + 16)).filter (fun d => (drv s d).mainOpen)).foldl
    (fun s d => updDrv d weldCleared s) s)

theorem weldClearCmd_locked {n : Nat} {s : State} (role : 2 ≤ s.roles.role) (mode : standbyOrComm s = true) (present : s.present n = true)
    (locked : (sq s n).state = 9) : weldClearCmd (le 1 n) s =
      { run := { st := if (drv s (2 * n)).mainOpen && (drv s (2 * n + 1)).mainOpen then outletCleared n s else s,
                 status := if (drv s (2 * n)).mainOpen && (drv s (2 * n + 1)).mainOpen then .ok else .notConfirmed } } := by
  have named : byteAt (le 1 n) 0 = n := byteAt_le n [] (by have := lt_of_present present; omega)
  simp only [weldClearCmd, named, role, mode, present, locked, le_length, decide_true, beq_self_eq_true, if_true]
  cases (drv s (2 * n)).mainOpen && (drv s (2 * n + 1)).mainOpen <;> rfl

theorem outletCleared_effect {n : Nat} (inside : n < 8) (s : State) :
    (sq (outletCleared n s) n).state = 0 ∧ (drv (outletCleared n s) (2 * n)).state ≠ 4 := by
  refine ⟨sq_seqTo_state inside 0 _, ?_⟩
  have pair : 2 * n < 24 := by omega
  rw [outletCleared, drv_seqTo]
  refine foldl_establishes (f := fun s d => updDrv d weldCleared s) (P := fun t => (drv t (2 * n)).state ≠ 4) (x := 2 * n) (by simp)
    (fun t => ?_) (fun t e sound => ?_) s
  · rw [drv_updDrv_self pair]
    exact weldCleared_state _
  · by_cases same : 2 * n = e
    · rw [← same, drv_updDrv_self pair]
      exact weldCleared_state _
    · rwa [drv_updDrv_of_ne same]

theorem isAux_bounds {d : Nat} {s : State} (aux : isAux s d = true) : 16 ≤ d ∧ d < 24 := by
  simp only [isAux, Bool.and_eq_true, decide_eq_true_eq] at aux
  exact aux.1

/-- The modes in which AUX_CONTACTOR is taken (R340). -/
def auxMode (s : State) : Prop := s.modes.mode = .standby ∨ s.modes.mode = .service ∨ s.modes.mode = .commissioning

theorem auxCmd_off {d : Nat} {s : State} (role : 1 ≤ s.roles.role) (mode : auxMode s) (aux : isAux s d = true) :
    auxCmd (le 1 d ++ le 1 0) s = { run := { st := driverOff d s } } := by
  have first : byteAt (le 1 d ++ le 1 0) 0 = d := byteAt_le d _ (by have := isAux_bounds aux; omega)
  have second : byteAt (le 1 d ++ le 1 0) 1 = 0 := byteAt_last (le 1 d) (by decide)
  rcases mode with mode | mode | mode <;> simp [auxCmd, first, second, role, mode, aux, le_length]

theorem auxCmd_on {d : Nat} {s : State} (role : 1 ≤ s.roles.role) (mode : auxMode s) (aux : isAux s d = true)
    (released : emergencyHeld s = false) (idle : (drv s d).state = 0) (off : (drv s d).cmd = false) (free : (drv s d).req = none) :
    auxCmd (le 1 d ++ le 1 1) s = { run := { st := requestPullIn [d] 0 true s, wait := some (nextReq s) } } := by
  have first : byteAt (le 1 d ++ le 1 1) 0 = d := byteAt_le d _ (by have := isAux_bounds aux; omega)
  have second : byteAt (le 1 d ++ le 1 1) 1 = 1 := byteAt_last (le 1 d) (by decide)
  rcases mode with mode | mode | mode <;> simp [auxCmd, first, second, role, mode, aux, le_length, released, idle, off, free]

/-- What a command that waits shows: the state it left, and one command more that waits. -/
theorem awaiting_shown (s t : State) (h : Hdr) (opcode id : Nat) (p : List Byte) : ∃ a,
    (shown s (awaiting h opcode p id t)).port.awaiting = t.port.awaiting ++ [a] ∧
    (shown s (awaiting h opcode p id t)).port.replies = t.port.replies ∧ (shown s (awaiting h opcode p id t)).ease = t.ease ∧
    (shown s (awaiting h opcode p id t)).sw = t.sw := by
  obtain ⟨waits, replies⟩ := shown_port s (awaiting h opcode p id t)
  have only : OnlyChanges [.port] t (shown s (awaiting h opcode p id t)) := shown_only s (by decide) (withPort_only _ (by decide) (.refl _ t))
  exact ⟨_, waits, replies, only .ease (by decide), only .sw (by decide)⟩

/-- An auxiliary contactor that closes asks a class 1 leave, and its command waits for it (R340). -/
theorem auxContactor_asks {h : Hdr} {d : Nat} {s : State} (a : Accepted h 0x0615 (le 1 d ++ le 1 1) s) (role : 1 ≤ s.roles.role)
    (mode : auxMode s) (aux : isAux s d = true) (released : emergencyHeld s = false) (idle : (drv s d).state = 0)
    (off : (drv s d).cmd = false) (free : (drv s d).req = none) : ∃ t r w, execAuxContactor h (le 1 d ++ le 1 1) s = .next t ∧
      t.ease.requests = s.ease.requests ++ [r] ∧ r.cls = 1 ∧ (drv t d).req = some s.ease.nextId ∧
      t.port.awaiting = s.port.awaiting ++ [w] ∧ t.port.replies = s.port.replies := by
  obtain ⟨r, cls, requests, asked⟩ := requestPullIn_asks [d] 0 true (touchRole s)
  have only : OnlyChanges [.ease, .sw, .roles] s (requestPullIn [d] 0 true (touchRole s)) :=
    requestPullIn_only _ _ _ (by decide) (by decide) (touchRole_only (by decide) (.refl _ s))
  have port : (requestPullIn [d] 0 true (touchRole s)).port = s.port := only .port (by decide)
  have req := asked d (List.mem_singleton.mpr rfl) (isAux_bounds aux).2
  have run := hostCommand_waits (cmd := auxCmd (le 1 d ++ le 1 1)) a (auxCmd_on (s := touchRole s) role mode aux released idle off free)
  generalize requestPullIn [d] 0 true (touchRole s) = t at requests req port run
  obtain ⟨w, waits, replies, ease, sw⟩ := awaiting_shown s t h 0x0615 (nextReq (touchRole s)) (le 1 d ++ le 1 1)
  refine ⟨_, r, w, congrArg Host.Outcome.next run, ?_, cls, ?_, ?_, ?_⟩
  · rw [ease, requests]
    rfl
  · rw [drv_of_sw sw, req]
    rfl
  · rw [waits, port]
  · rw [replies, port]

/-- Settles O55: each command's checks pass and give its state; a stop leaves what modules report and the inputs' records (`SwitchLasts`),
and of several inputs or outlets each is met once. -/
theorem busesModulesSafety : Obligations.BusesModulesSafety := by
  refine ⟨?joins, ?matched, ?releases, ?frames, ?status, ?faultFrame, ?lost, ?demand, ?demandEnd, ?discrepancy, ?untested, ?pulse, ?driverTest,
    ?reset, ?startupTest, ?testTimeout, ?weldClear, ?auxOff, ?auxOn, ?noLeave⟩
  case joins =>
    intro h n m d s a role mode owner joined other driver room energy idle unowned calm fits
    have free : JoinFree n m d (touchRole s) := ⟨owner, joined, other, driver, room, energy, idle, unowned, calm⟩
    have cmd := busJoinCmd_free (h := h) (s := touchRole s) role mode free
    have fits : pullInFits (touchRole s) d = true := fits
    rw [fits, if_pos rfl, if_pos rfl] at cmd
    exact ⟨jobAdded (joinJob h n m d) (touchRole s), joinJob h n m d, congrArg _ (hostCommand_done a cmd nofun), rfl, rfl, rfl, rfl, rfl,
      withSw_only _ (by decide) (touchRole_only (by decide) (.refl _ s))⟩
  case matched =>
    intro m j s found
    obtain ⟨jobs, run⟩ := execSegmentVoltageMatched_joins found
    obtain ⟨r, cls, requests, asked⟩ := requestPullIn_asks [j.driver] (min (matrixJoins j.driver).1 (matrixJoins j.driver).2) false
      { s with sw := { s.sw with jobs := jobs } }
    exact ⟨_, r, run, requests, cls, asked _ (List.mem_singleton.mpr rfl),
      requestPullIn_only _ _ _ (by decide) (by decide) (withSw_only _ (by decide) (.refl _ s))⟩
  case releases =>
    intro h m n s a role mode present owned other params calm
    have cmd := busReleaseCmd_free (h := h) (s := touchRole s) role mode present owned params calm
    exact ⟨jobAdded (releaseJob h n m (touchRole s)) (touchRole s), releaseJob h n m (touchRole s),
      congrArg _ (hostCommand_done a cmd nofun), rfl, rfl, rfl, rfl, rfl,
      withSw_only _ (by decide) (touchRole_only (by decide) (.refl _ s))⟩
  case frames =>
    intro b s run bus turn
    obtain ⟨t, ran, counter, modules, built, only⟩ := execPmTargetTransmit_frames run bus turn
    refine ⟨t, ran, counter, modules, fun f mem => ?_, only⟩
    obtain ⟨p, counter, payload⟩ := built f mem
    rw [payload]
    exact canPayload_checked p counter
  case status => exact fun m p s run reached inside valid => execPmStatusFrame_reports inside run reached valid
  case faultFrame => exact fun m p s run reached inside valid => execPmFaultFrame_reports inside run reached valid
  case lost => exact fun m s run watched inside heard silent => execPmLost_reports inside run watched heard silent
  case demand =>
    intro i a b s run inside used demand
    refine ⟨_, execSafetyInputDemand_demands run inside used demand, (sin_enterDemand_self inside _).1,
      fun emergency quiet n _ present scope => ?_⟩
    by_cases rests : (sq s n).state = 0 ∨ 8 ≤ (sq s n).state
    · exact .inr rests
    · exact .inl (enterDemand_emergency inside emergency quiet present scope (by omega) (by omega))
  case demandEnd =>
    exact fun i a b s run inside demand sound live quietA quietB => safetyDemandEnd_effect run inside demand sound live quietA quietB
  case discrepancy =>
    intro i t0 s run inside apart due
    have taken : execDiscrepancyTimeout i s = .next (inputFaulty i 0 s) := by
      simp only [execDiscrepancyTimeout, apart, run, inside, due, and_self, if_true]
    exact ⟨_, taken, sin_inputFaulty_self inside 0 s⟩
  case untested =>
    intro k s run inside due exempt
    have same : (List.range 8).foldl (pulsed k) s = s := by
      refine List.foldlRecOn (motive := (· = s)) _ _ rfl (fun t same i mem => ?_)
      rw [same]
      exact pulsed_untested (exempt i (List.mem_range.mp mem))
    exact (execInputTestPulse_due run inside due).trans (congrArg _ same)
  case pulse =>
    exact fun k i s run source due inside used quiet fed =>
      ⟨_, execInputTestPulse_due run source due, pulses_faulty inside source used quiet fed⟩
  case driverTest =>
    intro d c s run pair due untimed sound
    obtain ⟨state, fault, cmd⟩ := drv_heldOff (d := d) (by omega) 5 (if s.present (d / 2) then
      fastStop (d / 2) 5 false (feedbackReport d c s) else feedbackReport d c s)
    refine ⟨execDriverTestPulse_due run pair due untimed sound, _, execDriverTestPulse_due run pair due untimed sound, state, fault, cmd,
      fun present energy => ?_⟩
    show (driverOff d _).sw.permit &&& _ = 0
    rw [driverOff_permit, if_pos present]
    exact testFailed_permit pair energy
  case reset =>
    intro h i s a role inside quiet sound
    exact ⟨_, congrArg _ (hostCommand_done a (safetyResetCmd_one (s := touchRole s) inside role quiet sound) nofun),
      reset_await inside (touchRole s)⟩
  case startupTest =>
    intro h s a role mode free
    refine ⟨_, congrArg _ (hostCommand_done a (startupTestCmd_free (s := touchRole s) role mode free) nofun), fun ⟨i, inside, used⟩ => ?_⟩
    rw [testCheck_testBegun (s := touchRole s) inside used]
    exact ⟨rfl, withSw_only _ (by decide) (touchRole_only (by decide) (.refl _ s))⟩
  case testTimeout =>
    intro t0 s runs due
    obtain ⟨-, ended, proof⟩ := testDone_sw 1 s
    exact ⟨_, execStartupTestTimeout_due runs due, ended, proof nofun, testDone_only 1 (by decide) (by decide) (by decide) (.refl _ s)⟩
  case weldClear =>
    intro h n s a role mode present locked
    have cmd := weldClearCmd_locked (s := touchRole s) role mode present locked
    refine ⟨_, congrArg _ (hostCommand_done a cmd (by split <;> nofun)), fun plus minus => ?_⟩
    have shut : ((drv (touchRole s) (2 * n)).mainOpen && (drv (touchRole s) (2 * n + 1)).mainOpen) = true := by
      rw [show (drv (touchRole s) (2 * n)).mainOpen = true from plus, show (drv (touchRole s) (2 * n + 1)).mainOpen = true from minus]
      rfl
    rw [if_pos shut]
    exact outletCleared_effect (lt_of_present present) (touchRole s)
  case auxOff =>
    intro h d s a role mode aux
    exact ⟨driverOff d (touchRole s), congrArg _ (hostCommand_done a (auxCmd_off (s := touchRole s) role mode aux) nofun), driverOff_cmd d _,
      driverOff_only d (by decide) (by decide) (touchRole_only (by decide) (.refl _ s))⟩
  case auxOn =>
    exact fun h d s a role mode aux released idle off free => auxContactor_asks a role mode aux released idle off free
  case noLeave =>
    intro h n m d s a role mode owner joined other driver room energy idle unowned calm short
    have free : JoinFree n m d (touchRole s) := ⟨owner, joined, other, driver, room, energy, idle, unowned, calm⟩
    have cmd := busJoinCmd_free (h := h) (s := touchRole s) role mode free
    have short : pullInFits (touchRole s) d = false := short
    rw [short, if_neg Bool.false_ne_true, if_neg Bool.false_ne_true] at cmd
    exact congrArg _ (hostCommand_noLeave a cmd)

end Sys2Proof.Laws

/-!
PROOF. The records of load channels and banks (chapter 10): what a change of state, a request for leave, a hold and a release write, and what
they leave.
-/

namespace Sys2Proof.Laws

open Sys2Proof.Machine Sys2Proof.Safety

/-! A channel's record, a bank's, and what the host is owed. -/

theorem chn_of_loads {s t : State} (same : t.loads = s.loads) (c : Nat) : chn t c = chn s c := by rw [chn, same, chn]

theorem bnk_of_loads {s t : State} (same : t.loads = s.loads) (k : Nat) : bnk t k = bnk s k := by rw [bnk, same, bnk]

/-- A channel past the last has the record of one that is off. -/
theorem chn_outside {c : Nat} (outside : 16 ≤ c) (s : State) : chn s c = {} := by simp [chn, vget, outside]

/-- A channel that is on is one of the device's. -/
theorem lt_of_chOn {c : Nat} {s : State} (on : chOn s c = true) : c < 16 := by
  by_contra outside
  rw [chOn, chn_outside (Nat.not_lt.mp outside)] at on
  exact absurd on (by decide)

theorem chOn_iff (s : State) (c : Nat) : chOn s c = true ↔ (chn s c).state = 2 ∨ (chn s c).state = 3 := by simp [chOn]

theorem bnk_updBank_self {k : Nat} (inside : k < 4) (f : Bank → Bank) (s : State) : bnk (updBank k f s) k = f (bnk s k) :=
  vget_vmod_self _ _ _ inside

@[simp] theorem bnk_updCh (c : Nat) (f : Chan → Chan) (s : State) (k : Nat) : bnk (updCh c f s) k = bnk s k := rfl

@[simp] theorem bnk_releaseOpt (id : Option Nat) (s : State) (k : Nat) : bnk (releaseOpt id s) k = bnk s k := by
  cases id <;> rfl

@[simp] theorem bnk_emit (code : Nat) (payload : List Byte) (ack : Bool) (s : State) (k : Nat) : bnk (emit code payload ack s) k = bnk s k :=
  bnk_of_loads (Part.kept (p := .loads) (by simp [emit_only, OnlyChanges.refl])) k

@[simp] theorem bnk_event (code : Nat) (payload : List Byte) (s : State) (k : Nat) : bnk (event code payload s) k = bnk s k :=
  bnk_emit code payload false s k

@[simp] theorem bnk_bankEvent (i cause st vbb : Nat) (s : State) (k : Nat) : bnk (bankEvent i cause st vbb s) k = bnk s k := bnk_event ..

@[simp] theorem chn_bankEvent (i cause st vbb : Nat) (s : State) (c : Nat) : chn (bankEvent i cause st vbb s) c = chn s c := chn_event ..

@[simp] theorem updCh_ease (c : Nat) (f : Chan → Chan) (s : State) : (updCh c f s).ease = s.ease := rfl

@[simp] theorem updBank_ease (k : Nat) (f : Bank → Bank) (s : State) : (updBank k f s).ease = s.ease := rfl

/-- What the host is owed: the replies that it has not read, and the commands whose reply waits. -/
def owed (s : State) : List Reply × List Awaiting := (s.port.replies, s.port.awaiting)

@[simp] theorem owed_emit (code : Nat) (payload : List Byte) (ack : Bool) (s : State) : owed (emit code payload ack s) = owed s := by
  have pushed (e : Event) (p : Port) : (pushPlain e p).replies = p.replies ∧ (pushPlain e p).awaiting = p.awaiting := by
    unfold pushPlain
    split <;> exact ⟨rfl, rfl⟩
  unfold emit owed
  dsimp only
  split
  · rw [journalApp_port]
    rfl
  · split
    · exact Prod.ext (pushed _ _).1 (pushed _ _).2
    · exact Prod.ext (pushed _ _).1 (pushed _ _).2

@[simp] theorem owed_event (code : Nat) (payload : List Byte) (s : State) : owed (event code payload s) = owed s := owed_emit code payload false s

@[simp] theorem owed_updCh (c : Nat) (f : Chan → Chan) (s : State) : owed (updCh c f s) = owed s := rfl

@[simp] theorem owed_updBank (k : Nat) (f : Bank → Bank) (s : State) : owed (updBank k f s) = owed s := rfl

@[simp] theorem owed_releaseOpt (id : Option Nat) (s : State) : owed (releaseOpt id s) = owed s := by
  cases id <;> rfl

/-! A channel changes state (Table 10-4). -/

/-- A channel's record as it enters another state: all but INRUSH and ON switch its output off. -/
def entersState (new : Nat) (x : Chan) : Chan :=
  let off := decide (new = 0) || decide (new = 1) || decide (4 ≤ new)
  { x with state := new, byCmd := if new = 0 ∨ new = 2 then none else x.byCmd, req := if off then none else x.req,
           window := if off then none else x.window, current := if off then 0 else x.current,
           inLimit := if off then false else x.inLimit, limitTime := if off then 0 else x.limitTime,
           openTime := if off then 0 else x.openTime, openLoad := if off then false else x.openLoad }

theorem chTo_same {c new : Nat} {s : State} (same : (chn s c).state = new) : chTo c new s = s := if_pos same

theorem chTo_self {c new : Nat} {s : State} (inside : c < 16) (other : (chn s c).state ≠ new) :
    chn (chTo c new s) c = entersState new (chn s c) := by
  simp only [chTo, other, if_false, entersState]
  generalize (decide (new = 0) || decide (new = 1) || decide (4 ≤ new)) = off
  cases off
  · simp [chn_updCh_self inside]
  · by_cases waits : new = 1 <;> cases loaded : (chn s c).openLoad <;> simp [chn_updCh_self inside, loaded, waits]

/-- What no change of state writes. -/
def settings (x : Chan) : Chan :=
  { x with state := 0, byCmd := none, req := none, window := none, current := 0, inLimit := false, limitTime := 0, openTime := 0,
           openLoad := false, retryAt := none }

@[simp] theorem settings_chTo (d new : Nat) (s : State) (c : Nat) : settings (chn (chTo d new s) c) = settings (chn s c) := by
  by_cases same : c = d
  case neg => rw [chTo_of_ne same]
  subst same
  by_cases inside : c < 16
  case neg => rw [chn_outside (Nat.not_lt.mp inside), chn_outside (Nat.not_lt.mp inside)]
  by_cases there : (chn s c).state = new
  · rw [chTo_same there]
  · rw [chTo_self inside there]
    rfl

/-- A bank but for its queue. -/
def conditions (b : Bank) : Bank := { b with queue := [] }

@[simp] theorem conditions_requeued (queue : Bank → List Nat) (i : Nat) (s : State) (k : Nat) :
    conditions (bnk (updBank i (fun b => { b with queue := queue b }) s) k) = conditions (bnk s k) :=
  vget_vmod_field _ _ _ _ conditions (fun _ => rfl)

@[simp] theorem conditions_chTo (c new : Nat) (s : State) (k : Nat) : conditions (bnk (chTo c new s) k) = conditions (bnk s k) := by
  unfold chTo
  dsimp only
  split
  · rfl
  · split <;> split <;> split <;> simp

@[simp] theorem owed_chTo (c new : Nat) (s : State) : owed (chTo c new s) = owed s := by
  unfold chTo
  dsimp only
  split
  · rfl
  · split <;> split <;> split <;> simp

/-- A channel that begins to wait stays in its bank's queue. -/
theorem bnk_chTo_waits (c : Nat) (s : State) (k : Nat) : bnk (chTo c 1 s) k = bnk s k := by
  unfold chTo
  dsimp only
  split
  · rfl
  · split <;> simp

/-- A channel with no request gives no leave back. -/
theorem chTo_ease {c new : Nat} {s : State} (free : (chn s c).req = none) : (chTo c new s).ease = s.ease := by
  unfold chTo
  dsimp only
  rw [free]
  split
  · rfl
  · split <;> split <;> split <;> simp [releaseOpt]

/-! A request for leave (R346, R347). -/

/-- A channel but for the request it has out. -/
def standing (x : Chan) : Chan := { x with req := none, retryAt := none }

theorem standing_requestLoad (d : Nat) (s : State) (c : Nat) : standing (chn (requestLoad d s) c) = standing (chn s c) :=
  vget_vmod_field _ _ _ _ standing (fun _ => rfl)

@[simp] theorem standing_serveBank (k : Nat) (s : State) (c : Nat) : standing (chn (serveBank k s) c) = standing (chn s c) := by
  unfold serveBank
  split
  · rfl
  · split
    · rfl
    · exact standing_requestLoad ..

@[simp] theorem settings_serveBank (k : Nat) (s : State) (c : Nat) : settings (chn (serveBank k s) c) = settings (chn s c) := by
  show settings (standing _) = settings (standing _)
  rw [standing_serveBank]

@[simp] theorem conditions_serveBank (i : Nat) (s : State) (k : Nat) : conditions (bnk (serveBank i s) k) = conditions (bnk s k) := by
  unfold serveBank
  split
  · rfl
  · split
    · rfl
    · exact conditions_requeued ..

@[simp] theorem owed_serveBank (k : Nat) (s : State) : owed (serveBank k s) = owed s := by
  unfold serveBank
  split
  · rfl
  · split <;> rfl

/-- A switch-on asks a class 3 leave. -/
theorem requestLoad_asks {c : Nat} (inside : c < 16) (s : State) : ∃ r : Request, r.cls = 3 ∧
    (requestLoad c s).ease.requests = s.ease.requests ++ [r] ∧ (requestLoad c s).ease.nextId = s.ease.nextId + 1 ∧
    (chn (requestLoad c s) c).req = some s.ease.nextId := by
  refine ⟨_, ?cls, rfl, rfl, ?_⟩
  case cls => rfl
  · unfold requestLoad
    dsimp only
    rw [chn_updCh_self inside]
    rfl

/-- A channel in its inrush window, or one that waits for leave. -/
def busy (x : Chan) : Bool := x.state == 2 || (x.state == 1 && x.req.isSome)

theorem mem_bankChannels (c k : Nat) : c ∈ bankChannels k ↔ c / 4 = k := by
  simp only [bankChannels, List.mem_map, List.mem_range]
  exact ⟨fun ⟨i, small, sum⟩ => by omega, fun bank => ⟨c % 4, by omega, by omega⟩⟩

theorem bankChannels_nodup (k : Nat) : (bankChannels k).Nodup :=
  List.nodup_range.map (add_left_injective (4 * k))

theorem windowBusy_eq_false (s : State) (k : Nat) : windowBusy s k = false ↔ ∀ c, c / 4 = k → busy (chn s c) = false := by
  simp only [windowBusy, List.any_eq_false, mem_bankChannels, Bool.not_eq_true, busy]

/-- Where only channel c changes, and is neither in its window nor waits for leave, no channel of the bank comes to be so. -/
theorem windowBusy_of_others {s t : State} {c k : Nat} (free : windowBusy s k = false) (others : ∀ d, d ≠ c → chn t d = chn s d)
    (idle : busy (chn t c) = false) : windowBusy t k = false := by
  rw [windowBusy_eq_false] at free ⊢
  intro d bank
  by_cases same : d = c
  · rwa [same]
  · rw [others d same]
    exact free d bank

/-- The one switch-on that waits in a bank without a window asks leave at once. -/
theorem serveBank_asks {c k : Nat} {s : State} (free : windowBusy s k = false) (first : (bnk s k).queue = [c]) :
    serveBank k s = requestLoad c (updBank k (fun b => { b with queue := [] }) s) := by
  simp [serveBank, free, first]

/-! A switch-on joins its bank's queue (R346). -/

/-- s with a switch-on of channel c last in the queue of its bank. -/
def queued (c : Nat) (auto : Bool) (s : State) : State :=
  updBank (c / 4) (fun b => { b with queue := b.queue ++ [c] }) (chTo c 1 (updCh c (fun y => { y with auto := auto }) s))

theorem joinQueue_eq (c : Nat) (auto : Bool) (s : State) : joinQueue c auto s = serveBank (c / 4) (queued c auto s) := rfl

theorem chn_queued_of_ne {c d : Nat} (other : d ≠ c) (auto : Bool) (s : State) : chn (queued c auto s) d = chn s d := by
  rw [queued, chn_updBank, chTo_of_ne other, chn_updCh_of_ne other]

theorem chn_queued_self {c : Nat} {s : State} (inside : c < 16) (off : (chn s c).state ≠ 1) (auto : Bool) :
    chn (queued c auto s) c = entersState 1 { chn s c with auto := auto } := by
  rw [queued, chn_updBank, chTo_self inside (by rwa [chn_updCh_self inside]), chn_updCh_self inside]

theorem standing_joinQueue_of_ne {c d : Nat} (other : c ≠ d) (auto : Bool) (s : State) :
    standing (chn (joinQueue d auto s) c) = standing (chn s c) := by
  rw [joinQueue_eq, standing_serveBank, chn_queued_of_ne other]

@[simp] theorem conditions_joinQueue (c : Nat) (auto : Bool) (s : State) (k : Nat) :
    conditions (bnk (joinQueue c auto s) k) = conditions (bnk s k) := by
  simp [joinQueue_eq, queued]

@[simp] theorem owed_joinQueue (c : Nat) (auto : Bool) (s : State) : owed (joinQueue c auto s) = owed s := by
  simp [joinQueue_eq, queued]

/-- A channel that is off waits for leave once it has joined the queue. -/
theorem joinQueue_self {c : Nat} {s : State} (inside : c < 16) (off : (chn s c).state ≠ 1) (auto : Bool) :
    standing (chn (joinQueue c auto s) c) = standing (entersState 1 { chn s c with auto := auto }) := by
  rw [joinQueue_eq, standing_serveBank, chn_queued_self inside off]

/-- In a bank without a window and without a queue it asks leave at once. -/
theorem joinQueue_asks {c : Nat} {s : State} (inside : c < 16) (off : (chn s c).state ≠ 1) (free : windowBusy s (c / 4) = false)
    (empty : (bnk s (c / 4)).queue = []) (idle : (chn s c).req = none) (auto : Bool) : ∃ r : Request, r.cls = 3 ∧
      (joinQueue c auto s).ease.requests = s.ease.requests ++ [r] ∧ (chn (joinQueue c auto s) c).req = some s.ease.nextId := by
  have first : (bnk (queued c auto s) (c / 4)).queue = [c] := by
    rw [queued, bnk_updBank_self (by omega), bnk_chTo_waits, bnk_updCh, empty]
    rfl
  have waits : windowBusy (queued c auto s) (c / 4) = false :=
    windowBusy_of_others free (fun d other => chn_queued_of_ne other auto s) (by rw [chn_queued_self inside off]; rfl)
  have ease : (queued c auto s).ease = s.ease :=
    chTo_ease (s := updCh c (fun y => { y with auto := auto }) s) (by rwa [chn_updCh_self inside])
  obtain ⟨r, cls, requests, -, req⟩ := requestLoad_asks inside (updBank (c / 4) (fun b => { b with queue := [] }) (queued c auto s))
  refine ⟨r, cls, ?_, ?_⟩
  · rw [joinQueue_eq, serveBank_asks waits first, requests]
    exact congrArg (·.requests ++ [r]) ease
  · rw [joinQueue_eq, serveBank_asks waits first, req]
    exact congrArg (some ·.nextId) ease

/-! The condition of a bank overload ends for a channel (Table 10-5). -/

@[simp] theorem chn_overReleased (d : Nat) (s : State) (c : Nat) : chn (overReleased d s) c = chn s c := by
  unfold overReleased
  split <;> simp

theorem bnk_overReleased (d : Nat) (s : State) (k : Nat) : ∃ chs, bnk (overReleased d s) k = { bnk s k with overChs := chs } := by
  unfold overReleased
  split
  · by_cases same : k = d / 4 ∧ k < 4
    · obtain ⟨rfl, inside⟩ := same
      exact ⟨_, by rw [bnk_bankEvent, bnk_updBank_self inside]⟩
    · refine ⟨(bnk s k).overChs, ?_⟩
      rw [bnk_bankEvent]
      by_cases bank : k = d / 4
      · have outside : ¬ k < 4 := fun inside => same ⟨bank, inside⟩
        simp [← bank, bnk, updBank, vmod, outside]
      · exact vget_vmod_of_ne _ _ _ bank
  · exact ⟨_, rfl⟩

theorem overReleased_ease (c : Nat) (s : State) : (overReleased c s).ease = s.ease :=
  overReleased_only c (l_ := [.port, .loads, .store]) (by decide) (by decide) (by decide) (.refl _ s) .ease (by decide)

@[simp] theorem owed_overReleased (c : Nat) (s : State) : owed (overReleased c s) = owed s := by
  unfold overReleased
  split
  · exact owed_event ..
  · rfl

/-! A hold, and its release (R356). -/

theorem holdChannel_of_ne {c d : Nat} (other : c ≠ d) (s : State) : chn (holdChannel s d) c = chn s c := by
  unfold holdChannel
  split
  · rw [chTo_of_ne other, chn_updCh_of_ne other]
  · rfl

theorem holdChannel_on {c : Nat} {s : State} (inside : c < 16) (on : chOn s c = true) :
    (chn (holdChannel s c) c).state = 6 ∧ (chn (holdChannel s c) c).fault = 4 := by
  have held : holdChannel s c = chTo c 6 (updCh c (fun y => { y with fault := 4, retryAt := none }) s) :=
    if_pos (.inr ((chOn_iff s c).mp on))
  rw [held]
  refine ⟨chTo_state inside 6 _, (congrArg Chan.fault (settings_chTo c 6 _ c)).trans ?_⟩
  rw [chn_updCh_self inside]
  rfl

/-- A hold switches every channel of its bank off that is on. -/
theorem holdBank_on {c k : Nat} {s : State} (bank : c / 4 = k) (on : chOn s c = true) :
    (chn (holdBank k s) c).state = 6 ∧ (chn (holdBank k s) c).fault = 4 := by
  obtain ⟨t, same, last⟩ := foldl_once (f := holdChannel) (chn · c) (bankChannels_nodup k) ((mem_bankChannels c k).mpr bank)
    (fun t d other => holdChannel_of_ne other.symm t) (updBank k (fun b => { b with queue := [] }) s)
  have same : chn t c = chn s c := same
  have last : chn (holdBank k s) c = chn (holdChannel t c) c := last
  rw [last]
  exact holdChannel_on (lt_of_chOn on) (by rwa [chOn, same])

@[simp] theorem conditions_holdBank (i : Nat) (s : State) (k : Nat) : conditions (bnk (holdBank i s) k) = conditions (bnk s k) := by
  rw [holdBank_eq]
  refine (foldl_kept (fun t => conditions (bnk t k)) (fun t d => ?_) _ _).trans (conditions_requeued ..)
  unfold holdChannel
  split <;> simp

theorem releaseBank_eq (k : Nat) (s : State) :
    releaseBank k s = if bankHeld s k then s else (bankChannels k).foldl releaseChannel s := rfl

@[simp] theorem conditions_releaseBank (i : Nat) (s : State) (k : Nat) : conditions (bnk (releaseBank i s) k) = conditions (bnk s k) := by
  rw [releaseBank_eq]
  split
  · rfl
  · refine foldl_kept (fun t => conditions (bnk t k)) (fun t d => ?_) _ _
    unfold releaseChannel
    split
    · split <;> simp
    · rfl

theorem bankHeld_of_conditions {s t : State} {k : Nat} (same : conditions (bnk t k) = conditions (bnk s k)) (power : t.power = s.power) :
    bankHeld t k = bankHeld s k := by
  have held (s : State) : bankHeld s k = (let b := conditions (bnk s k)
    b.uv || b.ov || b.gndLost || b.reverse || b.lockout || b.isolated || s.power.surge) := rfl
  rw [held, held, same, power]

theorem bankHeld_releaseBank (k : Nat) (s : State) : bankHeld (releaseBank k s) k = bankHeld s k :=
  bankHeld_of_conditions (conditions_releaseBank ..) (releaseBank_power k s)

theorem standing_releaseChannel_of_ne {c d : Nat} (other : c ≠ d) (s : State) :
    standing (chn (releaseChannel s d) c) = standing (chn s c) := by
  unfold releaseChannel
  split
  · split
    · exact standing_joinQueue_of_ne other true s
    · rw [chTo_of_ne other]
  · rfl

/-- A channel that the host has not asked on goes from HELD to OFF once nothing holds its bank. -/
theorem releaseBank_off {c k : Nat} {s : State} (inside : c < 16) (bank : c / 4 = k) (free : bankHeld s k = false)
    (held : (chn s c).state = 6) (sound : (chn s c).isolated = false) (off : (chn s c).cmd = false) :
    (chn (releaseBank k s) c).state = 0 := by
  obtain ⟨t, same, last⟩ := foldl_once (f := releaseChannel) (fun t => standing (chn t c)) (bankChannels_nodup k)
    ((mem_bankChannels c k).mpr bank) (fun t d other => standing_releaseChannel_of_ne other.symm t) s
  have held : (chn t c).state = 6 := (congrArg Chan.state same).trans held
  have sound : (chn t c).isolated = false := (congrArg Chan.isolated same).trans sound
  have off : (chn t c).cmd = false := (congrArg Chan.cmd same).trans off
  have goes : releaseChannel t c = chTo c 0 t := by simp [releaseChannel, held, sound, off]
  rw [releaseBank_eq, free]
  exact (congrArg Chan.state last).trans (by rw [goes]; exact chTo_state inside 0 t)

end Sys2Proof.Laws

/-!
PROOF. Load channels follow Table 10-4, and banks Table 10-5 (chapter 10, R345 to R356).
-/

namespace Sys2Proof.Laws

open Sys2Proof.Machine Sys2Proof.Safety

/-! A channel that changes state, after which its bank's queue is served. -/

theorem served_state {c : Nat} (inside : c < 16) (k new : Nat) (s : State) : (chn (serveBank k (chTo c new s)) c).state = new :=
  (serveBank_state ..).trans (chTo_state inside new s)

theorem served_settings (k d new : Nat) (s : State) (c : Nat) : settings (chn (serveBank k (chTo d new s)) c) = settings (chn s c) := by simp

/-! LOAD_SET (R354). -/

/-- The payload of a LOAD_SET. -/
def loadPayload (c a d : Nat) : List Byte := le 1 c ++ le 1 a ++ le 2 d

theorem loadPayload_fields {c a : Nat} (inside : c < 16) (action : a ≤ 2) (d : Nat) : (loadPayload c a d).length = 4 ∧
    byteAt (loadPayload c a d) 0 = c ∧ byteAt (loadPayload c a d) 1 = a := by
  have channel : byteAt (loadPayload c a d) 0 = c := by
    rw [loadPayload, List.append_assoc]
    exact byteAt_le c _ (by omega)
  have act : byteAt (loadPayload c a d) 1 = a := by
    rw [loadPayload, byteAt_append_left (by simp [le_length])]
    exact byteAt_last (le 1 c) (by omega)
  exact ⟨by simp [loadPayload, le_length], channel, act⟩

/-- s with channel c switched off by the host. -/
def loadOff (c : Nat) (s : State) : State :=
  serveBank (c / 4) (chTo c 0 (updCh c (fun y => { y with cmd := false, retries := 0, retryAt := none, next := none }) (overReleased c s)))

theorem loadOff_self {c : Nat} (inside : c < 16) (s : State) :
    (chn (loadOff c s) c).state = 0 ∧ (chn (loadOff c s) c).cmd = false ∧ (chn (loadOff c s) c).retries = 0 := by
  have record : settings (chn (loadOff c s) c) = settings { chn s c with cmd := false, retries := 0, retryAt := none, next := none } := by
    rw [loadOff, served_settings, chn_updCh_self inside, chn_overReleased]
  exact ⟨served_state inside .., congrArg Chan.cmd record, congrArg Chan.retries record⟩

theorem loadSetCmd_off {h : Hdr} {c : Nat} {s : State} (role : 1 ≤ s.roles.role) (mode : s.modes.mode ≠ .monument) (inside : c < 16)
    (d : Nat) : loadSetCmd h (loadPayload c 0 d) s = { run := { st := loadOff c s } } := by
  obtain ⟨length, channel, action⟩ := loadPayload_fields inside (Nat.zero_le 2) d
  simp [loadSetCmd, loadMode, length, channel, action, role, mode, inside, loadOff]

theorem loadSetCmd_on {h : Hdr} {c : Nat} {s : State} (role : 1 ≤ s.roles.role) (mode : s.modes.mode ≠ .monument) (inside : c < 16)
    (d : Nat) : loadSetCmd h (loadPayload c 1 d) s = { run := loadOn h c false 0 s } := by
  obtain ⟨length, channel, action⟩ := loadPayload_fields inside (Nat.le_succ 1) d
  simp [loadSetCmd, loadMode, length, channel, action, role, mode, inside]

theorem loadSetCmd_pwm {h : Hdr} {c d : Nat} {s : State} (role : 1 ≤ s.roles.role) (mode : s.modes.mode ≠ .monument) (inside : c < 16)
    (low : 1 ≤ d) (high : d ≤ 999) : loadSetCmd h (loadPayload c 2 d) s = { run := loadOn h c true d s } := by
  obtain ⟨length, channel, action⟩ := loadPayload_fields inside (Nat.le_refl 2) d
  have duty : numAt (loadPayload c 2 d) 2 2 = d := numAt_last _ 2 2 d (by simp [le_length]) (by omega)
  simp [loadSetCmd, loadMode, length, channel, action, duty, role, mode, inside, low, high]

/-- Of a channel that is on, mode and duty wait for the next period (R348). -/
theorem loadOn_of_on {c : Nat} {s : State} (on : (chn s c).state = 3) (sound : (chn s c).isolated = false)
    (bank : (bnk s (c / 4)).isolated = false) (h : Hdr) (pwm : Bool) (duty : Nat) :
    loadOn h c pwm duty s = { st := updCh c (fun y => { y with next := some (pwm, duty), retries := 0 }) s } := by
  simp [loadOn, on, sound, bank]

/-- s with channel c, which was off, asked on. -/
def loadAsked (c : Nat) (s : State) : State :=
  updCh c (fun y => { y with cmd := true, pwm := false, duty := 0, retries := 0, next := none }) (overReleased c s)

theorem chn_loadAsked_self {c : Nat} (inside : c < 16) (s : State) :
    chn (loadAsked c s) c = { chn s c with cmd := true, pwm := false, duty := 0, retries := 0, next := none } := by
  rw [loadAsked, chn_updCh_self inside, chn_overReleased]

theorem loadOn_of_off {h : Hdr} {c id : Nat} {s : State} (off : (chn s c).state = 0) (sound : (chn s c).isolated = false)
    (free : bankHeld s (c / 4) = false) (asks : (chn (joinQueue c false (loadAsked c s)) c).req = some id) :
    loadOn h c false 0 s = { st := joinQueue c false (loadAsked c s), wait := some id } := by
  have clear := free
  simp only [bankHeld, Bool.or_eq_false_iff] at clear
  obtain ⟨⟨⟨⟨⟨-, ground⟩, -⟩, lockout⟩, isolated⟩, -⟩ := clear
  unfold loadAsked at asks ⊢
  simp [loadOn, off, sound, free, ground, lockout, isolated, asks]

/-- A channel that is asked on in a free bank waits, with a class 3 request out. -/
theorem loadAsked_waits {c : Nat} {s : State} (inside : c < 16) (off : (chn s c).state = 0) (free : windowBusy s (c / 4) = false)
    (empty : (bnk s (c / 4)).queue = []) (idle : (chn s c).req = none) : ∃ r : Request, r.cls = 3 ∧
      (joinQueue c false (loadAsked c s)).ease.requests = s.ease.requests ++ [r] ∧
      (chn (joinQueue c false (loadAsked c s)) c).req = some s.ease.nextId ∧
      (chn (joinQueue c false (loadAsked c s)) c).state = 1 ∧ (chn (joinQueue c false (loadAsked c s)) c).cmd = true := by
  have record := chn_loadAsked_self inside s
  have others : ∀ d, d ≠ c → chn (loadAsked c s) d = chn s d := fun d other => by rw [loadAsked, chn_updCh_of_ne other, chn_overReleased]
  have calm : windowBusy (loadAsked c s) (c / 4) = false := windowBusy_of_others free others (by simp [record, busy, off])
  have waits : (bnk (loadAsked c s) (c / 4)).queue = [] := by
    obtain ⟨chs, bank⟩ := bnk_overReleased c s (c / 4)
    rw [loadAsked, bnk_updCh, bank]
    exact empty
  have ease : (loadAsked c s).ease = s.ease := overReleased_ease c s
  have rest : (chn (loadAsked c s) c).state ≠ 1 := by simp [record, off]
  obtain ⟨r, cls, requests, req⟩ := joinQueue_asks inside rest calm waits (by rw [record]; exact idle) false
  have joined := joinQueue_self inside rest false
  rw [ease] at requests req
  exact ⟨r, cls, requests, req, congrArg Chan.state joined, (congrArg Chan.cmd joined).trans (by rw [record]; rfl)⟩

/-- A command that waits leaves the channels. -/
theorem chn_awaiting (s t : State) (h : Hdr) (opcode id : Nat) (p : List Byte) (c : Nat) :
    chn (shown s (awaiting h opcode p id t)) c = chn t c := by
  have only : OnlyChanges [.port] t (shown s (awaiting h opcode p id t)) := shown_only s (by decide) (withPort_only _ (by decide) (.refl _ t))
  exact chn_of_loads (only .loads (by decide)) c

theorem execLoadSet_on {h : Hdr} {c d : Nat} {s : State} (a : Accepted h 0x0710 (loadPayload c 1 d) s) (role : 1 ≤ s.roles.role)
    (mode : s.modes.mode ≠ .monument) (inside : c < 16) (off : (chn s c).state = 0) (sound : (chn s c).isolated = false)
    (free : bankHeld s (c / 4) = false) (calm : windowBusy s (c / 4) = false) (empty : (bnk s (c / 4)).queue = [])
    (idle : (chn s c).req = none) : ∃ t r w, execLoadSet h (loadPayload c 1 d) s = .next t ∧ (chn t c).state = 1 ∧ (chn t c).cmd = true ∧
      (chn t c).req = some s.ease.nextId ∧ t.ease.requests = s.ease.requests ++ [r] ∧ r.cls = 3 ∧ t.port.replies = s.port.replies ∧
      t.port.awaiting = s.port.awaiting ++ [w] := by
  obtain ⟨r, cls, requests, req, state, cmd⟩ := loadAsked_waits (s := touchRole s) inside off calm empty idle
  have owes : owed (joinQueue c false (loadAsked c (touchRole s))) = owed (touchRole s) := by simp [loadAsked]
  have run := loadSetCmd_on (h := h) (s := touchRole s) role mode inside d
  rw [loadOn_of_off (s := touchRole s) off sound free req] at run
  generalize joinQueue c false (loadAsked c (touchRole s)) = t at requests req state cmd owes run
  obtain ⟨w, waits, replies, ease, -⟩ := awaiting_shown s t h 0x0710 (touchRole s).ease.nextId (loadPayload c 1 d)
  have chans := chn_awaiting s t h 0x0710 (touchRole s).ease.nextId (loadPayload c 1 d) c
  refine ⟨_, r, w, congrArg Host.Outcome.next (hostCommand_waits a run), ?_, ?_, ?_, ?_, cls, ?_, ?_⟩
  · rw [chans, state]
  · rw [chans, cmd]
  · rw [chans, req]
    rfl
  · rw [ease, requests]
    rfl
  · exact replies.trans (congrArg Prod.fst owes)
  · exact waits.trans (congrArg (·.2 ++ [w]) owes)

/-! LOAD_BANK_RESET (R356). -/

/-- s with the ground loss and the lockout of bank k ended. -/
def bankCleared (k : Nat) (s : State) : State :=
  let b := bnk s k
  let t := bankEvent k 3 0 b.vbb (updBank k (fun b => { b with gndLost := false, gndGood := false, lockout := false,
                                                               uv := if b.lockout then false else b.uv }) s)
  if b.lockout then bankEvent k 6 0 b.vbb (if b.uv then bankEvent k 1 0 b.vbb t else t) else t

theorem bankResetCmd_ground {k : Nat} {s : State} (role : 1 ≤ s.roles.role) (mode : s.modes.mode ≠ .monument) (inside : k < 4)
    (lost : (bnk s k).gndLost = true) (good : (bnk s k).gndGood = true) (level : 17500 ≤ (bnk s k).vbb) :
    bankResetCmd (le 1 k) s = { run := { st := releaseBank k (bankCleared k s) } } := by
  have bank : byteAt (le 1 k) 0 = k := byteAt_le k [] (by omega)
  simp [bankResetCmd, bankCleared, loadMode, bank, le_length, role, mode, inside, lost, good, level]

theorem bankCleared_bank {k : Nat} (inside : k < 4) (s : State) :
    (bnk (bankCleared k s) k).gndLost = false ∧ (bnk (bankCleared k s) k).lockout = false := by
  unfold bankCleared
  dsimp only
  split
  · split <;> simp [bnk_updBank_self inside]
  · simp [bnk_updBank_self inside]

/-! Leave asked again, and the end of a window (R345, R347). -/

theorem execLoadLeaveRetry_due {c t0 : Nat} {s : State} (refused : (chn s c).retryAt = some t0) (waits : (chn s c).state = 1)
    (due : t0 + secF 1 ≤ s.now) : execLoadLeaveRetry c s = .next (serveBank (c / 4) (updBank (c / 4)
      (fun b => { b with queue := b.queue ++ [c] }) (updCh c (fun y => { y with retryAt := none }) s))) := by
  simp [execLoadLeaveRetry, refused, waits, due]

theorem loadLeaveRetry_asks {c t0 : Nat} {s : State} (refused : (chn s c).retryAt = some t0) (waits : (chn s c).state = 1)
    (due : t0 + secF 1 ≤ s.now) (calm : windowBusy s (c / 4) = false) (empty : (bnk s (c / 4)).queue = []) (inside : c < 16)
    (idle : (chn s c).req = none) : ∃ t, execLoadLeaveRetry c s = .next t ∧ (chn t c).req = some s.ease.nextId ∧
      t.ease.nextId = s.ease.nextId + 1 := by
  have run := execLoadLeaveRetry_due refused waits due
  have first : (bnk (updBank (c / 4) (fun b => { b with queue := b.queue ++ [c] }) (updCh c (fun y => { y with retryAt := none }) s))
      (c / 4)).queue = [c] := by
    rw [bnk_updBank_self (by omega), bnk_updCh, empty]
    rfl
  have free : windowBusy (updBank (c / 4) (fun b => { b with queue := b.queue ++ [c] }) (updCh c (fun y => { y with retryAt := none }) s))
      (c / 4) = false :=
    windowBusy_of_others calm (fun d other => chn_updCh_of_ne other _ s) (by simp [chn_updCh_self inside, busy, waits, idle])
  rw [serveBank_asks free first] at run
  obtain ⟨-, -, -, next, req⟩ := requestLoad_asks inside (updBank (c / 4) (fun b => { b with queue := [] }) (updBank (c / 4)
    (fun b => { b with queue := b.queue ++ [c] }) (updCh c (fun y => { y with retryAt := none }) s)))
  exact ⟨_, run, req, next⟩

/-- A window's end: the leave of the peak, where one is held. -/
def peakLeft (id : Option Nat) (s : State) : State :=
  match id with
  | some i => leavePeak i s
  | none => s

theorem chn_peakLeft (id : Option Nat) (s : State) (c : Nat) : chn (peakLeft id s) c = chn s c := by
  cases id <;> rfl

theorem execInrushWindowEnd_due {c t0 : Nat} {s : State} (opened : (chn s c).window = some t0) (inrush : (chn s c).state = 2)
    (due : t0 + msF (inrushMs (chn s c).active) ≤ s.now) : execInrushWindowEnd c s = .next (serveBank (c / 4) (chTo c 3
      (updCh c (fun y => { y with window := none }) (peakLeft (chn s c).req s)))) := by
  simp only [execInrushWindowEnd, opened, inrush, due, and_self, if_true]
  cases (chn s c).req <;> rfl

theorem inrushWindowEnd_closed {c : Nat} {s : State} (inside : c < 16) (inrush : (chn s c).state = 2) (id : Option Nat) :
    (chn (serveBank (c / 4) (chTo c 3 (updCh c (fun y => { y with window := none }) (peakLeft id s)))) c).window = none := by
  have record : chn (updCh c (fun y => { y with window := none }) (peakLeft id s)) c = { chn s c with window := none } := by
    rw [chn_updCh_self inside, chn_peakLeft]
  refine (congrArg Chan.window (standing_serveBank ..)).trans ?_
  show (chn (chTo c 3 _) c).window = none
  rw [chTo_self inside (by simp [record, inrush]), record]
  rfl

/-- What a row for a monitored channel or bank asks first. -/
theorem monitored {i n : Nat} {p : Prop} {s : State} (run : s.regionsRun = true) (inside : i < n) (met : ¬ p) :
    ¬ ((!s.regionsRun) = true ∨ n ≤ i ∨ p) := by
  simp [run, inside, met]

/-! A period of a bank's pulse generator begins (R348). -/

/-- A channel as its bank's period begins. -/
def pulseBegins (s : State) (c : Nat) : State :=
  let ph := fld (ldCfg s c) 80 2
  updCh c (fun y =>
    let z := { y with active := setFld y.active 80 2 ph }
    match y.next with
    | some (m, d) => { z with pwm := m, duty := d, next := none }
    | none => z) s

theorem execPwmPeriodBoundary_due {k : Nat} {s : State} (run : s.regionsRun = true) (inside : k < 4) (ended : periodOver s k = true) :
    execPwmPeriodBoundary k s = .next (updBank k (fun b => { b with applied := vget s.loads.banksCfg k 0, periodAt := some s.now })
      ((bankChannels k).foldl pulseBegins s)) :=
  if_neg (monitored run inside (by simp [ended]))

theorem pulseBegins_of_ne {c d : Nat} (other : d ≠ c) (s : State) : chn (pulseBegins s c) d = chn s d := chn_updCh_of_ne other _ s

theorem pulseBegins_self {c d : Nat} {m : Bool} {s : State} (inside : c < 16) (pending : (chn s c).next = some (m, d)) :
    (chn (pulseBegins s c) c).pwm = m ∧ (chn (pulseBegins s c) c).duty = d ∧ (chn (pulseBegins s c) c).next = none := by
  simp [pulseBegins, chn_updCh_self inside, pending]

theorem pulsesBegin_pending {c k d : Nat} {m : Bool} {s : State} (inside : k < 4) (bank : c / 4 = k)
    (pending : (chn s c).next = some (m, d)) : let x := chn ((bankChannels k).foldl pulseBegins s) c
      x.pwm = m ∧ x.duty = d ∧ x.next = none := by
  obtain ⟨t, same, last⟩ := foldl_once (f := pulseBegins) (chn · c) (bankChannels_nodup k) ((mem_bankChannels c k).mpr bank)
    (fun t d other => pulseBegins_of_ne other.symm t) s
  dsimp only at same last ⊢
  rw [last]
  exact pulseBegins_self (by omega) (by rwa [same])

theorem pulsesBegin_of_other {c k : Nat} (other : c / 4 ≠ k) (s : State) : chn ((bankChannels k).foldl pulseBegins s) c = chn s c :=
  foldl_absent (chn · c) (fun mem => other ((mem_bankChannels c k).mp mem)) (fun t _ apart => pulseBegins_of_ne apart.symm t) s

/-! Channel faults (R350, R353). -/

/-- A channel's record as a fault of it is met. -/
def faulted (now cause : Nat) (temp : Int) (x : Chan) : Chan :=
  { x with fault := cause, latch := x.latch || cause == 1, waitEnd := now + retryWait x, temp := satInt 16 temp }

theorem channelFault_settings {c : Nat} (inside : c < 16) (cause ma : Nat) (temp : Int) (s : State) :
    settings (chn (channelFault c cause ma temp s) c) = settings (faulted s.now cause temp (chn s c)) := by
  unfold channelFault
  dsimp only
  rw [served_settings, chn_event, chn_updCh_self inside]
  rfl

theorem channelFault_self {c : Nat} (inside : c < 16) (cause ma : Nat) (temp : Int) (s : State) :
    let x := chn (channelFault c cause ma temp s) c
    x.state = 4 ∧ x.fault = cause ∧ x.latch = ((chn s c).latch || cause == 1) ∧ x.waitEnd = s.now + retryWait (chn s c) := by
  refine ⟨served_state inside .., ?_⟩
  have record := channelFault_settings inside cause ma temp s
  exact ⟨congrArg Chan.fault record, congrArg Chan.latch record, congrArg Chan.waitEnd record⟩

theorem channelFault_of_ne {c d : Nat} (other : d ≠ c) (cause ma : Nat) (temp : Int) (s : State) :
    (chn (channelFault c cause ma temp s) d).state = (chn s d).state := by
  unfold channelFault
  dsimp only
  rw [serveBank_state, chTo_of_ne other, chn_event, chn_updCh_of_ne other]

@[simp] theorem conditions_channelFault (c cause ma : Nat) (temp : Int) (s : State) (k : Nat) :
    conditions (bnk (channelFault c cause ma temp s) k) = conditions (bnk s k) := by
  simp [channelFault]

theorem execThermalShutdown_hot {c : Nat} {temp : Int} {s : State} (run : s.regionsRun = true) (inside : c < 16) (hot : 1700 ≤ temp)
    (ma : Nat) : execThermalShutdown c ma temp s = if chOn s c then .next (channelFault c 1 ma temp s)
      else .next (updCh c (fun y => { y with latch := true }) s) :=
  if_neg (monitored run inside (by omega))

/-! Retries (R353). -/

theorem execRetryWaitEnd_retries {c : Nat} {s : State} (backoff : (chn s c).state = 4) (due : (chn s c).waitEnd ≤ s.now)
    (clear : (chn s c).latch = false) (more : (chn s c).retries < retryCount (chn s c).active) : execRetryWaitEnd c s =
      .next (if bankHeld s (c / 4) then s
        else joinQueue c true (overReleased c (updCh c (fun y => { y with retries := y.retries + 1 }) s))) := by
  simp only [execRetryWaitEnd, backoff, due, clear, more, Bool.not_false, and_self, if_true]
  split <;> rfl

theorem execRetryWaitEnd_exhausted {c : Nat} {s : State} (backoff : (chn s c).state = 4) (due : (chn s c).waitEnd ≤ s.now)
    (clear : (chn s c).latch = false) (used : retryCount (chn s c).active ≤ (chn s c).retries) :
    execRetryWaitEnd c s = .next (event 0x0723 (le 1 c ++ s.stamp) (chTo c 5 s)) := by
  simp [execRetryWaitEnd, backoff, due, clear, Nat.not_lt.mpr used]

theorem retry_waits {c : Nat} {s : State} (inside : c < 16) (backoff : (chn s c).state = 4) :
    let x := chn (joinQueue c true (overReleased c (updCh c (fun y => { y with retries := y.retries + 1 }) s))) c
    x.state = 1 ∧ x.auto = true ∧ x.retries = (chn s c).retries + 1 := by
  have record : chn (overReleased c (updCh c (fun y => { y with retries := y.retries + 1 }) s)) c =
      { chn s c with retries := (chn s c).retries + 1 } := by rw [chn_overReleased, chn_updCh_self inside]
  generalize overReleased c (updCh c (fun y => { y with retries := y.retries + 1 }) s) = t at record ⊢
  have joined := joinQueue_self (s := t) inside (by simp [record, backoff]) true
  rw [record] at joined
  exact ⟨congrArg Chan.state joined, congrArg Chan.auto joined, congrArg Chan.retries joined⟩

/-! Bank conditions (R356, Table 10-5). -/

/-- A condition that begins is shown in its bank, and holds the channels that are on. -/
theorem begun_condition_holds {k : Nat} (inside : k < 4) (f : Bank → Bank) (s : State) (cause st mv : Nat) :
    let t := bankEvent k cause st mv (holdBank k (updBank k f s))
    conditions (bnk t k) = conditions (f (bnk s k)) ∧ ∀ c, c / 4 = k → chOn s c = true → (chn t c).state = 6 ∧ (chn t c).fault = 4 := by
  dsimp only
  refine ⟨by rw [bnk_bankEvent, conditions_holdBank, bnk_updBank_self inside], fun c bank on => ?_⟩
  rw [chn_bankEvent]
  exact holdBank_on bank on

/-- A bank's record at an undervoltage, by the undervoltages of the 60 s before (Table 10-5). -/
def undervolted (now mv : Nat) (recent : List Nat) (b : Bank) : Bank :=
  { b with uv := true, vbb := sat 16 mv, uvAt := (now :: recent).take 4, lockout := b.lockout || decide (3 ≤ recent.length) }

/-- The undervoltages of the 60 s before now. -/
def recentDips (s : State) (k : Nat) : List Nat := (bnk s k).uvAt.filter (fun t => decide (s.now < t + secF 60))

theorem execBankUndervoltage_begins {k mv : Nat} {s : State} (run : s.regionsRun = true) (inside : k < 4) (sound : (bnk s k).uv = false)
    (low : mv ≤ 16500) : ∃ lock : Bool, execBankUndervoltage k mv s =
      .next (let t := bankEvent k 1 1 mv (holdBank k (updBank k (undervolted s.now mv (recentDips s k)) s))
        if lock then bankEvent k 6 1 mv t else t) :=
  ⟨decide (3 ≤ (recentDips s k).length) && !(bnk s k).lockout, if_neg (monitored run inside (by simp [sound, low]))⟩

/-- A bank's record at an overvoltage. -/
def overvolted (mv : Nat) (b : Bank) : Bank := { b with ov := true, vbb := sat 16 mv }

theorem execBankOvervoltage_begins {k mv : Nat} {s : State} (run : s.regionsRun = true) (inside : k < 4) (sound : (bnk s k).ov = false)
    (high : 35000 ≤ mv) : execBankOvervoltage k mv s = .next (bankEvent k 2 1 mv (holdBank k (updBank k (overvolted mv) s))) :=
  if_neg (monitored run inside (by simp [sound, high]))

/-- A bank's record at a ground loss. -/
def groundLost (mv : Nat) (b : Bank) : Bank := { b with gndLost := true, gndGood := false, vbb := sat 16 mv }

theorem execBankGroundLoss_begins {k : Nat} {s : State} (run : s.regionsRun = true) (inside : k < 4) (sound : (bnk s k).gndLost = false)
    (mv : Nat) : execBankGroundLoss k mv s = .next (bankEvent k 3 1 mv (holdBank k (updBank k (groundLost mv) s))) :=
  if_neg (monitored run inside (by simp [sound]))

/-- A bank's record at a reversed supply. -/
def supplyReversed (b : Bank) : Bank := { b with reverse := true, vbb := 0 }

theorem execBankReverseSupply_begins {k : Nat} {s : State} (run : s.regionsRun = true) (inside : k < 4) (sound : (bnk s k).reverse = false) :
    execBankReverseSupply k s = .next (bankEvent k 4 1 0 (holdBank k (updBank k supplyReversed s))) :=
  if_neg (monitored run inside (by simp [sound]))

/-- s with a condition of bank k ended at mv, its holds not yet released. -/
def conditionCleared (k mv cause : Nat) (f : Bank → Bank) (s : State) : State :=
  bankEvent k cause 0 mv (updBank k f (updBank k (fun b => { b with vbb := sat 16 mv }) s))

theorem chn_conditionCleared (k mv cause : Nat) (f : Bank → Bank) (s : State) (c : Nat) :
    chn (conditionCleared k mv cause f s) c = chn s c := by simp [conditionCleared]

theorem ended_condition_releases {k : Nat} (inside : k < 4) (mv : Nat) (f : Bank → Bank) (s : State) (cause : Nat) :
    conditions (bnk (releaseBank k (conditionCleared k mv cause f s)) k) = conditions (f { bnk s k with vbb := sat 16 mv }) := by
  rw [conditions_releaseBank, conditionCleared, bnk_bankEvent, bnk_updBank_self inside, bnk_updBank_self inside]

theorem execBankHoldRelease_overvoltage {k mv : Nat} {s : State} (run : s.regionsRun = true) (inside : k < 4) (high : (bnk s k).ov = true)
    (low : mv < 35000) (good : Bool) : execBankHoldRelease k 2 mv good s =
      .next (releaseBank k (conditionCleared k mv 2 (fun b => { b with ov := false }) s)) := by
  simp [execBankHoldRelease, run, inside, high, low, conditionCleared]

theorem execBankHoldRelease_undervoltage {k mv : Nat} {s : State} (run : s.regionsRun = true) (inside : k < 4) (low : (bnk s k).uv = true)
    (unlocked : (bnk s k).lockout = false) (level : 17000 ≤ mv) : execBankHoldRelease k 1 mv true s =
      .next (releaseBank k (conditionCleared k mv 1 (fun b => { b with uv := false }) s)) := by
  simp [execBankHoldRelease, run, inside, low, unlocked, level, conditionCleared]

/-- The bank of channel c after a bank overload (Table 10-5). -/
def overloaded (k mv c : Nat) (s : State) : State :=
  bankEvent k 5 1 mv (updBank k (fun b =>
    { b with overAt := some s.now, overSince := none, overChs := b.overChs ++ [c], vbb := sat 16 mv }) s)

theorem execBankOverload_due {k mv t0 c : Nat} {s : State} (run : s.regionsRun = true) (since : (bnk s k).overSince = some t0)
    (latest : latestOn s k = some c) (due : t0 + secF 1 ≤ s.now) :
    execBankOverload k mv s = .next (channelFault c 3 (chn s c).current (chn s c).temp (overloaded k mv c s)) := by
  simp [execBankOverload, since, latest, run, due, overloaded]

/-- Settles O56, row by row of Tables 10-4 and 10-5. -/
theorem loadChannelsFollowTable : Obligations.LoadChannelsFollowTable := by
  unfold Obligations.LoadChannelsFollowTable
  refine ⟨?on, ?pwm, ?off, ?bankReset, ?leaveRetry, ?windowEnd, ?period, ?thermal, ?cooled, ?overload, ?openLoad, ?loaded, ?retry, ?settled,
    ?undervoltage, ?overvoltage, ?ground, ?reversed, ?bankOverload, ?overvoltageEnds, ?undervoltageEnds⟩
  case on =>
    exact fun h c d s a role mode inside off sound free calm empty idle =>
      execLoadSet_on a role mode inside off sound free calm empty idle
  case pwm =>
    intro h c d s a role mode inside low high on sound bank
    have run := loadSetCmd_pwm (h := h) (s := touchRole s) role mode inside low high
    rw [loadOn_of_on (s := touchRole s) on sound bank] at run
    exact congrArg _ (hostCommand_done a run nofun)
  case off =>
    intro h c d s a role mode inside
    obtain ⟨state, cmd, retries⟩ := loadOff_self inside (touchRole s)
    exact ⟨_, congrArg _ (hostCommand_done a (loadSetCmd_off (s := touchRole s) role mode inside d) nofun), state, cmd, retries⟩
  case bankReset =>
    intro h k s a role mode inside lost good level
    obtain ⟨ground, lockout⟩ := bankCleared_bank inside (touchRole s)
    have kept := conditions_releaseBank k (bankCleared k (touchRole s)) k
    exact ⟨_, congrArg _ (hostCommand_done a (bankResetCmd_ground (s := touchRole s) role mode inside lost good level) nofun),
      (congrArg Bank.gndLost kept).trans ground, (congrArg Bank.lockout kept).trans lockout⟩
  case leaveRetry =>
    intro c t0 s refused waits due calm empty inside idle
    obtain ⟨t, run, req, next⟩ := loadLeaveRetry_asks refused waits due calm empty inside idle
    exact ⟨t, run, req, next, execLoadLeaveRetry_only c run⟩
  case windowEnd =>
    intro c t0 s inside opened inrush due
    have run := execInrushWindowEnd_due opened inrush due
    exact ⟨_, run, served_state inside .., inrushWindowEnd_closed inside inrush _, execInrushWindowEnd_only c run⟩
  case period =>
    intro k s runs inside ended
    have run := execPwmPeriodBoundary_due runs inside ended
    refine ⟨_, run, fun c m d bank pending => ?_, ?_, ?_, fun c other => ?_, execPwmPeriodBoundary_only k run⟩
    · rw [chn_updBank]
      exact pulsesBegin_pending inside bank pending
    · rw [bnk_updBank_self inside]
    · rw [bnk_updBank_self inside]
    · rw [chn_updBank]
      exact pulsesBegin_of_other other s
  case thermal =>
    intro c ma temp s runs inside hot
    obtain ⟨state, fault, latch, -⟩ := channelFault_self inside 1 ma temp s
    have run := execThermalShutdown_hot runs inside hot ma
    cases on : chOn s c
    · rw [on, if_neg Bool.false_ne_true] at run
      exact ⟨_, run, by rw [chn_updCh_self inside], nofun, fun _ => rfl⟩
    · rw [on, if_pos rfl] at run
      exact ⟨_, run, latch.trans (Bool.or_true _), fun _ => ⟨state, fault⟩, nofun⟩
  case cooled => exact fun c temp s runs cool => if_pos ⟨runs, cool⟩
  case overload =>
    intro c ma temp s inside on limited long
    obtain ⟨state, fault, latch, wait⟩ := channelFault_self inside 2 ma temp s
    exact ⟨_, if_pos ⟨on, limited, long⟩, state, fault, latch.trans (Bool.or_false _), wait⟩
  case openLoad =>
    intro c s inside on enabled sound due
    have run : execOpenLoadDetected c s = .next (event 0x0722 (le 1 c ++ le 1 1 ++ s.stamp)
        (updCh c (fun y => { y with openLoad := true, openTime := 0 }) s)) := by simp [execOpenLoadDetected, on, enabled, sound, due]
    refine ⟨_, run, ?_, ?_, execOpenLoadDetected_only c run⟩ <;> rw [chn_event, chn_updCh_self inside]
    exact on
  case loaded =>
    intro c s inside on opened due
    have run : execOpenLoadCleared c s = .next (event 0x0722 (le 1 c ++ le 1 0 ++ s.stamp)
        (updCh c (fun y => { y with openLoad := false, openTime := 0 }) s)) := by simp [execOpenLoadCleared, on, opened, due]
    refine ⟨_, run, ?_, ?_, execOpenLoadCleared_only c run⟩ <;> rw [chn_event, chn_updCh_self inside]
    exact on
  case retry =>
    intro c s inside backoff due clear
    obtain more | used := Nat.lt_or_ge (chn s c).retries (retryCount (chn s c).active)
    · have run := execRetryWaitEnd_retries backoff due clear more
      refine ⟨_, run, fun used => absurd more (Nat.not_lt.mpr used), fun _ free => ?_, fun _ held => if_pos held⟩
      rw [free]
      exact retry_waits inside backoff
    · exact ⟨_, execRetryWaitEnd_exhausted backoff due clear used, fun _ => by rw [chn_event, chTo_state inside],
        fun more => absurd more (Nat.not_lt.mpr used), fun more => absurd more (Nat.not_lt.mpr used)⟩
  case settled => exact fun c s on due => if_pos ⟨on, due⟩
  case undervoltage =>
    intro k mv s runs inside sound low
    obtain ⟨lock, run⟩ := execBankUndervoltage_begins runs inside sound low
    obtain ⟨record, held⟩ := begun_condition_holds inside (undervolted s.now mv (recentDips s k)) s 1 1 mv
    generalize bankEvent k 1 1 mv _ = t at run record held
    have bank : bnk (if lock then bankEvent k 6 1 mv t else t) k = bnk t k := by split <;> simp
    have chans (c : Nat) : chn (if lock then bankEvent k 6 1 mv t else t) c = chn t c := by split <;> simp
    refine ⟨_, run, ?_, fun c _ of on => ?_, fun often => ?_⟩
    · rw [bank]
      exact congrArg Bank.uv record
    · rw [chans]
      exact held c of on
    · rw [bank]
      refine (congrArg Bank.lockout record).trans ?_
      exact Bool.or_eq_true_iff.mpr (.inr (decide_eq_true often))
  case overvoltage =>
    intro k mv s runs inside sound high
    obtain ⟨record, held⟩ := begun_condition_holds inside (overvolted mv) s 2 1 mv
    exact ⟨_, execBankOvervoltage_begins runs inside sound high, congrArg Bank.ov record, fun c _ bank on => held c bank on⟩
  case ground =>
    intro k mv s runs inside sound
    obtain ⟨record, held⟩ := begun_condition_holds inside (groundLost mv) s 3 1 mv
    exact ⟨_, execBankGroundLoss_begins runs inside sound mv, congrArg Bank.gndLost record, fun c _ bank on => held c bank on⟩
  case reversed =>
    intro k s runs inside sound
    obtain ⟨record, held⟩ := begun_condition_holds inside supplyReversed s 4 1 0
    exact ⟨_, execBankReverseSupply_begins runs inside sound, congrArg Bank.reverse record, fun c _ bank on => held c bank on⟩
  case bankOverload =>
    intro k mv t0 c s runs inside since latest due channel
    obtain ⟨state, fault, -⟩ := channelFault_self channel 3 (chn s c).current (chn s c).temp (overloaded k mv c s)
    refine ⟨_, execBankOverload_due runs since latest due, state, fault, ?_, fun e other on => ?_⟩
    · refine (congrArg Bank.overSince (conditions_channelFault ..)).trans ?_
      show (bnk (overloaded k mv c s) k).overSince = none
      rw [overloaded, bnk_bankEvent, bnk_updBank_self inside]
    · rw [chOn, channelFault_of_ne other, overloaded, chn_bankEvent, chn_updBank]
      exact on
  case overvoltageEnds =>
    intro k mv s runs inside high low
    have record := ended_condition_releases inside mv (fun b => { b with ov := false }) s 2
    exact ⟨_, execBankHoldRelease_overvoltage runs inside high low true, congrArg Bank.ov record, congrArg Bank.vbb record⟩
  case undervoltageEnds =>
    intro k mv s runs inside low unlocked level
    have record := ended_condition_releases inside mv (fun b => { b with uv := false }) s 1
    refine ⟨_, execBankHoldRelease_undervoltage runs inside low unlocked level, congrArg Bank.uv record,
      fun c channel bank held sound off free => ?_⟩
    rw [bankHeld_releaseBank] at free
    exact releaseBank_off channel bank free (by rwa [chn_conditionCleared]) (by rwa [chn_conditionCleared]) (by rwa [chn_conditionCleared])

end Sys2Proof.Laws

/-!
PROOF. The rules of the Traverse link's own state (chapter 11): what a completed TRV_SEND, a dropped packet, a security count and a frame
leave of it. An operation that goes through an event or the journal is said by its equation on the link.
-/

namespace Sys2Proof.Laws

open Sys2Proof.Machine Sys2Proof.Safety

@[simp] theorem emit_trv (code : Nat) (payload : List Byte) (ack : Bool) (s : State) : (emit code payload ack s).trv = s.trv :=
  Part.kept (p := .trv) (by simp [emit_only, OnlyChanges.refl])

@[simp] theorem event_trv (code : Nat) (payload : List Byte) (s : State) : (event code payload s).trv = s.trv := emit_trv ..

/-- A neighbour is read in the link's records of neighbours alone. -/
theorem ngh_congr {s t : State} (same : t.trv.neigh = s.trv.neigh) (n : Nat) : ngh t n = ngh s n := by rw [ngh, ngh, same]

theorem ngh_updNgh_self {n : Nat} (inside : n < 64) (f : Neigh → Neigh) (s : State) : ngh (updNgh n f s) n = f (ngh s n) :=
  vget_vmod_self s.trv.neigh f {} inside

/-- A TRV_SEND that completes is no longer held; one that is not held is none (Table 11-14). -/
@[simp] theorem trvSent_trv (counter result : Nat) (s : State) :
    (trvSent counter result s).trv = { s.trv with sends := s.trv.sends.filter (fun y => y.counter != counter) } := by
  rw [trvSent]
  split
  · rw [emit_trv]
  next none =>
    have kept : s.trv.sends.filter (fun y => y.counter != counter) = s.trv.sends :=
      List.filter_eq_self.mpr fun y mem => by simpa using List.find?_eq_none.mp none y mem
    rw [kept]

/-- A link that falls silent loses what waits for the medium, and its sends (R390). -/
theorem trvSilent_trv (s : State) : ∃ l, (trvSilent s).trv = { s.trv with own := [], inFlight := none, sends := l } := by
  have run (l : List TrvSend) (t : State) :
      ∃ m, (l.foldl (fun s x => trvSent x.counter 5 s) t).trv = { t.trv with sends := m } := by
    induction l generalizing t with
    | nil => exact ⟨t.trv.sends, rfl⟩
    | cons x l ih =>
      obtain ⟨m, same⟩ := ih (trvSent x.counter 5 t)
      exact ⟨m, same.trans (by rw [trvSent_trv])⟩
  exact run s.trv.sends { s with trv := { s.trv with own := [], inFlight := none } }

/-- A packet that is dropped is counted, and completes its TRV_SEND. -/
theorem dropPacket_trv (k : TrvPkt) (result : Nat) (s : State) :
    ∃ l, (dropPacket k result s).trv = { s.trv with pktDropped := satInc 16 s.trv.pktDropped, sends := l } := by
  rw [dropPacket]
  split
  · exact ⟨_, trvSent_trv ..⟩
  · exact ⟨s.trv.sends, rfl⟩

/-- A security count touches its own records alone (Table 11-14). -/
theorem trvSecurity_trv (kind origin : Nat) (s : State) :
    ∃ c a, (trvSecurity kind origin s).trv = { s.trv with secCount := c, secAt := a } := by
  unfold trvSecurity
  extract_lets count due
  split
  · exact ⟨_, _, event_trv ..⟩
  · exact ⟨_, s.trv.secAt, rfl⟩

end Sys2Proof.Laws

/-!
PROOF. The host's packets and keys on the Traverse link (R371, R381, R390): TRV_SEND, TRV_KEY_SET, TRV_KEY_USE, the switch of the key slot and
the end of a wait for a confirmation.
-/

namespace Sys2Proof.Laws

open Sys2Proof.Machine Sys2Proof.Safety

/-! TRV_SEND (R390). -/

/-- The payload of a TRV_SEND. -/
def sendPayload (d f : Nat) (m : List Byte) : List Byte := le 1 d ++ le 1 f ++ le 2 m.length ++ m

theorem sendPayload_fields {d f : Nat} {m : List Byte} (node : d < 64) (flag : f ≤ 1) (long : m.length ≤ 4000) :
    (sendPayload d f m).length = 4 + m.length ∧ byteAt (sendPayload d f m) 0 = d ∧ byteAt (sendPayload d f m) 1 = f ∧
      numAt (sendPayload d f m) 2 2 = m.length ∧ (sendPayload d f m).drop 4 = m := by
  have front : sendPayload d f m = le 1 d ++ le 1 f ++ (le 2 m.length ++ m) := List.append_assoc ..
  refine ⟨by simp [sendPayload, le_length]; omega, ?_, ?_, ?_, List.drop_left' (by simp [le_length])⟩
  · rw [front, List.append_assoc]
    exact byteAt_le d _ (by omega)
  · rw [front, byteAt_append_left (by simp [le_length])]
    exact byteAt_last (le 1 d) (by omega)
  · rw [front]
    exact numAt_append _ m 2 2 _ (by simp [le_length]) (by omega)

/-- The packet of a TRV_SEND in s. -/
def sentPacket (d f : Nat) (m : List Byte) (s : State) : TrvPkt := (ownPacket 0 d (BitVec.ofNat 8 f) m 2 s).1

/-- What is kept of a TRV_SEND in s until it completes. -/
def sendKept (h : Hdr) (d f : Nat) (s : State) : TrvSend :=
  { handle := (s.trv.handleCtr + 1) % 65536, counter := s.trv.counter, confirm := f == 1, final := d, since := s.now, ack := flagAck h.flags }

/-- s with a TRV_SEND taken: its packet waits for the medium. -/
def sendTaken (h : Hdr) (d f : Nat) (m : List Byte) (s : State) : State :=
  let s1 := (ownPacket 0 d (BitVec.ofNat 8 f) m 2 s).2
  queueOwn (sentPacket d f m s)
    (s1.withTrv { s1.trv with handleCtr := (s.trv.handleCtr + 1) % 65536, sends := s1.trv.sends ++ [sendKept h d f s] })

theorem trvSendCmd_taken {h : Hdr} {d f : Nat} {m : List Byte} {s : State} (role : 1 ≤ s.roles.role) (node : d < 64) (other : d ≠ trvNode s)
    (flag : f ≤ 1) (some : 1 ≤ m.length) (long : m.length ≤ 4000) (room : s.trv.sends.length < 16) (up : trvTransmits s = true) :
    trvSendCmd h (sendPayload d f m) s =
      { run := { st := sendTaken h d f m s, status := .queued, data := le 2 ((s.trv.handleCtr + 1) % 65536) } } := by
  obtain ⟨length, final, flags, size, rest⟩ := sendPayload_fields node flag long
  have single : d ≠ 0xFE := by omega
  simp only [trvSendCmd, length, final, flags, size, rest, up, single, if_false, if_true]
  simp [role, node, other, flag, some, long, room, single]
  rfl

theorem sendTaken_only (h : Hdr) (d f : Nat) (m : List Byte) {l : List Part} {u s : State} (k : Part.trv ∈ l) (only : OnlyChanges l u s) :
    OnlyChanges l u (sendTaken h d f m s) :=
  queueOwn_only _ k (withTrv_only _ k (ownPacket_only 0 d _ m 2 k only))

/-! TRV_KEY_SET and TRV_KEY_USE (R381, R390). -/

theorem keyPayload_fields {k w n : Nat} (slot : k ≤ 1) (inside : n < 256 ^ w) : (le 1 k ++ le w n).length = 1 + w ∧
    byteAt (le 1 k ++ le w n) 0 = k ∧ numAt (le 1 k ++ le w n) 1 w = n :=
  ⟨by simp [le_length], byteAt_le k _ (by omega), numAt_last _ 1 w n (by simp [le_length]) inside⟩

theorem trvKeySetCmd_taken {k n : Nat} {s : State} (role : 2 ≤ s.roles.role) (slot : k ≤ 1) (key : 0 < n) (size : n < 2 ^ 128)
    (unused : k ≠ s.trv.active) : trvKeySetCmd (le 1 k ++ le 16 n) s =
      { run := { st := { s with trv := { s.trv with keys := vset s.trv.keys k { key := BitVec.ofNat 128 n } } } } } := by
  obtain ⟨length, first, value⟩ := keyPayload_fields slot (w := 16) (n := n) size
  have set : BitVec.ofNat 128 n ≠ 0#128 := fun zero => by
    have := congrArg BitVec.toNat zero
    rw [BitVec.toNat_ofNat, Nat.mod_eq_of_lt size] at this
    exact absurd this (Nat.ne_of_gt key)
  simp only [trvKeySetCmd, length, first, value]
  simp [role, slot, set, unused]

/-- s with the transmit slot as a TRV_KEY_USE of slot k at legal frame f leaves it. -/
def keyUsed (k f : Nat) (s : State) : State :=
  if f ≤ s.clock.legal then s.withTrv { s.trv with active := k, switchTo := none } else s.withTrv { s.trv with switchTo := some (k, f) }

theorem keyUsed_only (k f : Nat) {l : List Part} {u s : State} (part : Part.trv ∈ l) (only : OnlyChanges l u s) :
    OnlyChanges l u (keyUsed k f s) :=
  .ite (withTrv_only _ part only) (withTrv_only _ part only)

theorem keyUsed_slot (k f : Nat) (s : State) :
    (f ≤ s.clock.legal → (keyUsed k f s).trv.active = k ∧ (keyUsed k f s).trv.switchTo = none) ∧
      (s.clock.legal < f → (keyUsed k f s).trv.active = s.trv.active ∧ (keyUsed k f s).trv.switchTo = some (k, f)) := by
  refine ⟨fun due => ?_, fun early => ?_⟩
  · rw [keyUsed, if_pos due]
    exact ⟨rfl, rfl⟩
  · rw [keyUsed, if_neg (Nat.not_le.mpr early)]
    exact ⟨rfl, rfl⟩

theorem trvKeyUseCmd_taken {k n f : Nat} {s : State} (role : 2 ≤ s.roles.role) (slot : k ≤ 1) (size : n < 2 ^ 48) (time : frameOf n = some f)
    (set : trvKey s k ≠ 0) : trvKeyUseCmd (le 1 k ++ le 6 n) s = { run := { st := keyUsed k f s } } := by
  obtain ⟨length, first, value⟩ := keyPayload_fields slot (w := 6) (n := n) size
  simp only [trvKeyUseCmd, length, first, value, time, set, if_false]
  simp only [keyUsed]
  by_cases due : f ≤ s.clock.legal <;> simp [role, slot, due]

/-- The first superframe tick at or after the time given switches the slot. -/
theorem execTrvKeySwitch_due {k f : Nat} {s : State} (pending : s.trv.switchTo = some (k, f)) (run : s.regionsRun = true)
    (tick : s.clock.legal % 400 = 0) (due : f ≤ s.clock.legal) :
    execTrvKeySwitch s = .next { s with trv := { s.trv with active := k, switchTo := none } } := by
  simp [execTrvKeySwitch, pending, run, tick, due]

/-! A confirmation that does not come (R390). -/

/-- The send whose packet has left this node, and whose confirmation is late, completes with result 4. -/
theorem execTrvConfirmationTimeout_due {n : Nat} {x : TrvSend} {s : State}
    (found : s.trv.sends.find? (fun x => x.handle == n && x.confirm) = some x)
    (gone : s.trv.own.any (fun k => k.counter == x.counter) = false) (idle : s.trv.inFlight = none) (late : x.since + secF 10 ≤ s.now) :
    execTrvConfirmationTimeout n s = .next (trvSent x.counter 4 s) := by
  simp only [execTrvConfirmationTimeout, found, gone, idle, late]
  rfl

end Sys2Proof.Laws

/-!
PROOF. Frames on the Traverse medium (R368 to R371, R375): access after the backoff, data frames and their acknowledgements, retries.
-/

namespace Sys2Proof.Laws

open Sys2Proof.Machine Sys2Proof.Safety

/-! Access to the medium (R375). -/

theorem receives_and_node_of_transmits {s : State} (up : trvTransmits s = true) : trvReceives s = true ∧ trvNode s < 64 := by
  simp only [trvTransmits, Bool.and_eq_true, decide_eq_true_eq] at up
  obtain ⟨⟨⟨⟨⟨⟨receives, -⟩, -⟩, -⟩, node⟩, -⟩, -⟩ := up
  exact ⟨receives, node⟩

/-- The state in which a frame starts: a new packet has left its queue. -/
def frameBegun (x : TrvTx) (new : Bool) (s : State) : State := if new then beginTx x s else s

theorem execContentionAccess_starts {b n : Nat} {x : TrvTx} {new : Bool} {s : State} (next : nextFrame s = some (x, new))
    (up : trvTransmits s = true) (drawn : b < contentionWindow s x.pkt.cls) (idle : mediumIdle b s = true)
    (count : n = segmentsFit s (frameScheme s x) x.segs.length) (fits : 0 < n) : execContentionAccess b s =
      .next (if x.dst = 0xFF then sendBroadcast x n (frameBegun x new s) else sendSegments x n (frameBegun x new s)) := by
  subst count
  simp only [execContentionAccess, next]
  rw [if_neg (by simp [up, idle, drawn, Nat.ne_of_gt fits])]
  rfl

theorem execContentionAccess_waits {b : Nat} {x : TrvTx} {new : Bool} {s : State} (next : nextFrame s = some (x, new))
    (no : segmentsFit s (frameScheme s x) x.segs.length = 0 ∨ mediumIdle b s = false) : execContentionAccess b s = .next s := by
  simp only [execContentionAccess, next]
  exact if_pos (by obtain none | busy := no <;> simp [*])

theorem nextFrame_new {k : TrvPkt} {s : State} (idle : s.trv.inFlight = none) (first : nextToSend s = some k) :
    nextFrame s = some (firstTx k s, true) := by simp [nextFrame, idle, first]

theorem nextFrame_again {x : TrvTx} {s : State} (under : s.trv.inFlight = some x) (waits : x.waiting = false) :
    nextFrame s = some (x, false) := by simp [nextFrame, under, waits]

/-- A packet for a node can go only when its route has a next hop (R383). -/
theorem route_of_nextToSend {k : TrvPkt} {s : State} (first : nextToSend s = some k) (single : k.final < 64) :
    (route s k.final).next ≠ 0xFF := by
  have mem : k ∈ (s.trv.own ++ s.trv.store).filter (fun k => decide (64 ≤ k.final) || (route s k.final).next != 0xFF) := by
    simp only [nextToSend] at first
    split at first
    · exact List.mem_of_find?_eq_some first
    · exact nomatch first
  have able := (List.mem_filter.mp mem).2
  simpa [Nat.not_le.mpr single] using able

/-! What a frame that starts leaves of the link. -/

theorem frameBegun_new (x : TrvTx) (s : State) : (frameBegun x true s).trv.own = s.trv.own.filter (fun y => y != x.pkt) ∧
    (frameBegun x true s).trv.frameSeq = s.trv.frameSeq := by
  rw [frameBegun, if_pos rfl, beginTx]
  split <;> exact ⟨rfl, rfl⟩

/-- A frame with the first n of the segments outstanding, as it is kept while its acknowledgement is awaited. -/
def sentFrame (x : TrvTx) (n : Nat) (s : State) : TrvTx :=
  { x with seq := s.trv.frameSeq, waiting := true, since := s.now, frame := x.segs.take n,
           sends := (x.segs.take n).foldl (fun v i => vmod v i (· + 1)) x.sends }

theorem sendSegments_link (x : TrvTx) (n : Nat) (s : State) : (sendSegments x n s).trv.frameSeq = s.trv.frameSeq + 1 ∧
    (sendSegments x n s).trv.own = s.trv.own ∧ (sendSegments x n s).trv.air.length = 1 ∧
    (sendSegments x n s).trv.inFlight = some (sentFrame x n s) := ⟨rfl, rfl, rfl, rfl⟩

theorem sendBroadcast_link (x : TrvTx) (n : Nat) (s : State) : (sendBroadcast x n s).trv.frameSeq = s.trv.frameSeq + 1 ∧
    (sendBroadcast x n s).trv.own = s.trv.own ∧ (sendBroadcast x n s).trv.air.length = 1 ∧
    (n = x.segs.length → (sendBroadcast x n s).trv.inFlight = none) := by
  have whole : n = x.segs.length → (x.segs.drop n).isEmpty = true := fun all => by simp [all]
  unfold sendBroadcast
  dsimp only
  split
  · rw [trvSent_trv]
    exact ⟨rfl, rfl, rfl, fun all => if_pos (whole all)⟩
  · exact ⟨rfl, rfl, rfl, fun all => if_pos (whole all)⟩

/-! Data frames received (R369 to R371). -/

theorem frameControl_length (s : State) (type flags dst mcs : Nat) (seq : Byte) (symbols segs snr bitmap : Nat) :
    (frameControl s type flags dst mcs seq symbols segs snr bitmap).length = 20 := by
  simp [frameControl, le_length]

/-- The bytes of a frame control that name its type and its destination (Table 11-3). -/
theorem frameControl_fields {type dst : Nat} (kind : type < 256) (node : dst < 256) (s : State) (flags mcs : Nat) (seq : Byte)
    (symbols segs snr bitmap : Nat) (q : List Byte) :
    byteAt (frameControl s type flags dst mcs seq symbols segs snr bitmap ++ q) 0 = type ∧
      byteAt (frameControl s type flags dst mcs seq symbols segs snr bitmap ++ q) 5 = dst := by
  simp [frameControl, byteAt, le, Nat.mod_eq_of_lt, kind, node]

theorem byteAt_lt (p : List Byte) (i : Nat) : byteAt p i < 256 := (p[i]?.getD 0).isLt

/-- A frame that is heard occupies the medium, and changes nothing else. -/
theorem hearFrame_trv (fc : List Byte) (s : State) : ∃ free, hearFrame fc s = s.withTrv { s.trv with mediumFree := free } := ⟨_, rfl⟩

/-- A frame of this site for this node is counted. -/
theorem countFrame_site {type : Nat} {fc : List Byte} {s : State} (site : siteFrame type fc s = true)
    (mine : byteAt fc 5 = trvNode s ∨ byteAt fc 5 = 0xFF) :
    countFrame fc s = s.withTrv { s.trv with framesRx := satInc 16 s.trv.framesRx } := by
  simp only [siteFrame, Bool.and_eq_true] at site
  obtain ⟨⟨⟨⟨-, good⟩, -⟩, -⟩, named⟩ := site
  have hit : (byteAt fc 5 == trvNode s || byteAt fc 5 == 0xFF || bit (BitVec.ofNat 8 (byteAt fc 1)) 0) = true := by
    obtain same | all := mine <;> simp [*]
  exact if_pos (by simp only [good, hit, named, Bool.true_or, Bool.and_self])

/-- s with a frame counted, and the medium occupied until free. -/
def frameCounted (free : Nat) (s : State) : State :=
  s.withTrv { s.trv with mediumFree := free, framesRx := satInc 16 s.trv.framesRx }

/-- s as a frame that it heard and counted leaves it. -/
theorem frameHeard {type : Nat} {fc : List Byte} {s : State} (site : siteFrame type fc s = true)
    (mine : byteAt fc 5 = trvNode s ∨ byteAt fc 5 = 0xFF) : ∃ free, countFrame fc (hearFrame fc s) = frameCounted free s := by
  obtain ⟨free, heard⟩ := hearFrame_trv fc s
  have same := countFrame_site (s := s.withTrv { s.trv with mediumFree := free }) site mine
  exact ⟨free, (congrArg _ heard).trans same⟩

/-- The flag of a frame for every node. -/
theorem not_forAll {n : Nat} (even : n % 2 = 0) : bit (BitVec.ofNat 8 n) 0 = false := by
  simp only [bit, BitVec.getLsbD_ofNat, Nat.testBit_zero]
  simp [even]

theorem execTrvFrameReceived_acknowledged {f : TrvFrameIn} {s : State} (up : trvTransmits s = true) (site : siteFrame 1 f.fc s = true)
    (mine : byteAt f.fc 5 = trvNode s) (single : byteAt f.fc 1 % 2 = 0) : ∃ free, execTrvFrameReceived f s =
      .next (sendAck f (takeFrame f (frameCounted free s))) := by
  obtain ⟨receives, node⟩ := receives_and_node_of_transmits up
  obtain ⟨free, heard⟩ := frameHeard site (.inl mine)
  have one : (trvNode s == 0xFF) = false := by simp; omega
  refine ⟨free, ?_⟩
  simp only [execTrvFrameReceived, receives, site, mine, heard, up, one, not_forAll single]
  simp

/-! Acknowledgements (R371). -/

theorem execSelectiveAckReceived_awaited {fc : List Byte} {x : TrvTx} {s : State} (site : siteFrame 2 fc s = true)
    (mine : byteAt fc 5 = trvNode s) (under : s.trv.inFlight = some x) (waits : x.waiting = true) (from_ : x.dst = byteAt fc 4) :
    ∃ free, execSelectiveAckReceived fc s = .next (ackTakenBy x (BitVec.ofNat 32 (numAt fc 12 4)) (byteAt fc 11)
      (frameCounted free s)) := by
  have receives : trvReceives s = true := by
    simp only [siteFrame, Bool.and_eq_true] at site
    obtain ⟨⟨⟨⟨receives, -⟩, -⟩, -⟩, -⟩ := site
    exact receives
  obtain ⟨free, heard⟩ := frameHeard site (.inl mine)
  refine ⟨free, ?_⟩
  simp [execSelectiveAckReceived, receives, heard, under, site, mine, waits, from_]

/-- The segments of a frame that the set bits of its acknowledgement name. -/
def ackedSegs (l : List Nat) (bitmap : BitVec 32) : List Nat :=
  (l.zip (List.range l.length)).filterMap (fun x => if bit bitmap x.2 then some x.1 else none)

theorem ackedSegs_all {l : List Nat} {bitmap : BitVec 32} (all : ∀ i, i < l.length → bit bitmap i = true) : ackedSegs l bitmap = l := by
  have each : ∀ y ∈ l.zip (List.range l.length), (if bit bitmap y.2 then some y.1 else none) = (some ∘ Prod.fst) y :=
    fun y mem => if_pos (all _ (List.mem_range.mp (List.of_mem_zip mem).2))
  rw [ackedSegs, List.filterMap_congr each, List.filterMap_eq_map, List.map_fst_zip (by simp)]

theorem ackedSegs_none {l : List Nat} {bitmap : BitVec 32} (none : ∀ i, i < l.length → bit bitmap i = false) : ackedSegs l bitmap = [] :=
  List.filterMap_eq_nil_iff.mpr fun y mem => if_neg (by simp [none _ (List.mem_range.mp (List.of_mem_zip mem).2)])

/-- The neighbour's SNR as an acknowledgement reports it, with the contention window closed again (R367, R375). -/
def ackReported (n snr : Nat) (s : State) : State :=
  updNgh n (fun x => { x with snr := sat 8 snr, reportAt := some s.now }) (s.withTrv { s.trv with cw := 0 })

/-- A packet whose segments have all arrived is no longer under way, and its neighbour has exhausted none (R371, R386). -/
def packetArrived (n snr : Nat) (s : State) : State :=
  let t := ackReported n snr s
  updNgh n (fun x => { x with exhausted := 0 }) (t.withTrv { t.trv with inFlight := none })

theorem packetArrived_ngh {n : Nat} (inside : n < 64) (snr : Nat) (s : State) : (ngh (packetArrived n snr s) n).exhausted = 0 ∧
    (ngh (packetArrived n snr s) n).snr = sat 8 snr := by
  rw [packetArrived, ngh_updNgh_self inside]
  refine ⟨rfl, ?_⟩
  show (ngh (ackReported n snr s) n).snr = _
  rw [ackReported, ngh_updNgh_self inside]

/-- The segments still outstanding after an acknowledgement. -/
def leftBy (x : TrvTx) (bitmap : BitVec 32) : List Nat := x.segs.filter (fun i => !(ackedSegs x.frame bitmap).contains i)

theorem ackTakenBy_eq (x : TrvTx) (bitmap : BitVec 32) (snr : Nat) (s : State) : ackTakenBy x bitmap snr s =
    if (leftBy x bitmap).isEmpty then
      if x.pkt.serial = s.factory.serial then
        if s.trv.sends.any (fun y => y.counter == x.pkt.counter && y.confirm) then
          (packetArrived x.dst snr s).withTrv { (packetArrived x.dst snr s).trv with
            sends := updFirst (fun y => y.counter == x.pkt.counter) (fun y => { y with since := s.now }) s.trv.sends }
        else trvSent x.pkt.counter 1 (packetArrived x.dst snr s)
      else packetArrived x.dst snr s
    else segmentsLeft x (leftBy x bitmap) (ackReported x.dst snr s) := rfl

theorem ackTakenBy_whole {x : TrvTx} {bitmap : BitVec 32} (whole : ackedSegs x.frame bitmap = x.segs) (node : x.dst < 64) (snr : Nat)
    (s : State) : (ackTakenBy x bitmap snr s).trv.inFlight = none ∧ (ackTakenBy x bitmap snr s).trv.cw = 0 ∧
      (ngh (ackTakenBy x bitmap snr s) x.dst).exhausted = 0 ∧ (ngh (ackTakenBy x bitmap snr s) x.dst).snr = sat 8 snr := by
  have empty : (leftBy x bitmap).isEmpty = true := by simp [leftBy, whole]
  have link : ∃ l, (ackTakenBy x bitmap snr s).trv = { (packetArrived x.dst snr s).trv with sends := l } := by
    rw [ackTakenBy_eq, if_pos empty]
    split
    · split
      · exact ⟨_, rfl⟩
      · exact ⟨_, trvSent_trv ..⟩
    · exact ⟨(packetArrived x.dst snr s).trv.sends, rfl⟩
  obtain ⟨l, link⟩ := link
  have neigh : (ackTakenBy x bitmap snr s).trv.neigh = (packetArrived x.dst snr s).trv.neigh := by rw [link]
  obtain ⟨exhausted, reported⟩ := packetArrived_ngh node snr s
  rw [ngh_congr neigh, link]
  exact ⟨rfl, rfl, exhausted, reported⟩

theorem ackTakenBy_missed {x : TrvTx} {bitmap : BitVec 32} (missed : ackedSegs x.frame bitmap = []) (some : x.segs ≠ []) (snr : Nat)
    (s : State) : ackTakenBy x bitmap snr s = segmentsLeft x x.segs (ackReported x.dst snr s) := by
  have all : leftBy x bitmap = x.segs := by simp [leftBy, missed]
  rw [ackTakenBy_eq, all, if_neg (by simpa using some)]

/-- No segment has been sent as often as ARQ_RETRIES allows: they wait for a later frame. -/
theorem segmentsLeft_again {x : TrvTx} {l : List Nat} {s : State} (few : ∀ i ∈ l, vget x.sends i 0 < arqRetries s) :
    segmentsLeft x l s = s.withTrv { s.trv with inFlight := some { x with segs := l, waiting := false } } :=
  if_neg (by simpa using few)

/-- A segment is exhausted: its packet is dropped (R371). -/
theorem segmentsLeft_exhausted {x : TrvTx} {l : List Nat} {s : State} (many : ∃ i ∈ l, arqRetries s ≤ vget x.sends i 0) :
    ∃ n m, (segmentsLeft x l s).trv =
      { s.trv with neigh := n, inFlight := none, pktDropped := satInc 16 s.trv.pktDropped, sends := m } := by
  obtain ⟨m, dropped⟩ := dropPacket_trv x.pkt 3 (updNgh x.dst (fun y => { y with exhausted := y.exhausted + 1 })
    (s.withTrv { s.trv with inFlight := none }))
  rw [segmentsLeft, if_pos (by simpa using many)]
  exact ⟨_, m, dropped⟩

/-- No acknowledgement comes for the frame that awaits it (R371, R375). -/
theorem execSelectiveAckMissing_awaited {x : TrvTx} {s : State} (receives : trvReceives s = true) (under : s.trv.inFlight = some x)
    (waits : x.waiting = true) : execSelectiveAckMissing x.dst x.seq s =
      .next (segmentsLeft x x.segs (s.withTrv { s.trv with cw := min 8 (s.trv.cw + 1) })) := by
  simp only [execSelectiveAckMissing, under]
  exact if_neg (by simp [receives, waits])

end Sys2Proof.Laws

/-!
PROOF. Packets received over Traverse (R381 to R383, R386): the checks of MIC, key slot and replay, delivery and its confirmation, forwarding,
and the packet that waits without a route.
-/

namespace Sys2Proof.Laws

open Sys2Proof.Machine Sys2Proof.Safety

/-! The checks (R381, R382). -/

/-- A packet of another node, taken up for its checks and failing one. -/
theorem execTrvPacketReceived_failed {b : List Byte} {s t : State} (receives : trvReceives s = true) (version : byteAt b 0 % 16 = 1)
    (other : (packetHeader b).serial ≠ s.factory.serial) (unseen : floodSeen (packetHeader b) s = false)
    (screened : screenPacket (packetHeader b) (openPayload s b).isSome s = (false, t)) : execTrvPacketReceived b s = .next t := by
  simp only [execTrvPacketReceived]
  rw [if_neg (by simp [receives, version, other, unseen]), screened]
  rfl

/-- A packet that passes them is taken with its payload. -/
theorem execTrvPacketReceived_passed {b p : List Byte} {s t : State} (receives : trvReceives s = true) (version : byteAt b 0 % 16 = 1)
    (other : (packetHeader b).serial ≠ s.factory.serial) (unseen : floodSeen (packetHeader b) s = false)
    (opened : openPayload s b = some p) (screened : screenPacket (packetHeader b) true s = (true, t)) :
    execTrvPacketReceived b s = .next (takePacket { packetHeader b with payload := p } t) := by
  simp only [execTrvPacketReceived]
  rw [if_neg (by simp [receives, version, other, unseen]), opened, Option.isSome_some, screened]
  rfl

theorem screenPacket_fails {k : TrvPkt} {micOk : Bool} {s : State} (bad : trvKey s k.slot = 0 ∨ micOk = false) : ∃ kind,
    screenPacket k micOk s = (false, trvSecurity kind k.origin (s.withTrv { s.trv with micFail := satInc 16 s.trv.micFail })) := by
  by_cases empty : trvKey s k.slot = 0
  · exact ⟨2, if_pos empty⟩
  · have mic : micOk = false := bad.resolve_left empty
    exact ⟨0, (if_neg empty).trans (if_pos (by simp [mic]))⟩

theorem screenPacket_replayed {k : TrvPkt} {w : Replay} {s : State} (key : trvKey s k.slot ≠ 0)
    (known : s.trv.replay.find? (fun w => w.serial == k.serial) = some w) (old : replayCheck w k.counter = none) :
    screenPacket k true s = (false, trvSecurity 1 k.origin (s.withTrv { s.trv with replays := satInc 16 s.trv.replays })) := by
  simp only [screenPacket, key, known, old, if_false]
  rfl

/-- s with the replay window of a new origin opened. -/
def originKnown (k : TrvPkt) (s : State) : State :=
  s.withTrv { s.trv with replay := s.trv.replay ++ [{ serial := k.serial, highest := k.counter }] }

/-- The first packet of an origin opens its replay window (R382). -/
theorem screenPacket_new {k : TrvPkt} {s : State} (key : trvKey s k.slot ≠ 0)
    (new : s.trv.replay.find? (fun w => w.serial == k.serial) = none) : screenPacket k true s =
      (true, originKnown k s) := by
  simp only [screenPacket, key, new, if_false]
  rfl

/-! Delivery (R383). -/

/-- s as the payload of a packet that is delivered leaves it. -/
def payloadTaken (k : TrvPkt) (s : State) : State :=
  if k.service = 1 then updNgh k.origin (fun x => { x with advert := parseAdvert 64 k.payload }) s
  else if k.service ≠ 0 then s
  else if bit k.flags 1 then trvSent (numAt k.payload 0 5) 0 s
  else event 0x0820 (le 1 k.origin ++ [k.flags] ++ le 2 k.payload.length ++ k.payload) s

theorem payloadTaken_trv (k : TrvPkt) (s : State) : ∃ n l, (payloadTaken k s).trv = { s.trv with neigh := n, sends := l } := by
  unfold payloadTaken
  split
  · exact ⟨_, s.trv.sends, rfl⟩
  · split
    · exact ⟨s.trv.neigh, s.trv.sends, rfl⟩
    · split
      · exact ⟨s.trv.neigh, _, trvSent_trv ..⟩
      · exact ⟨s.trv.neigh, s.trv.sends, event_trv ..⟩

/-- A requested confirmation goes back to the origin with the packet's COUNTER. -/
theorem deliverPacket_confirms {k : TrvPkt} {s : State} (asked : bit k.flags 0 = true) (plain : bit k.flags 1 = false)
    (mine : k.final = trvNode s) : ∃ c, (deliverPacket k s).trv.own = s.trv.own ++ [c] ∧ c.final = k.origin ∧ c.flags = 0x02 ∧
      c.payload = le 5 k.counter := by
  have sent : deliverPacket k s = queueOwn (ownPacket 0 k.origin 0x02 (le 5 k.counter) 3 (payloadTaken k s)).1
      (ownPacket 0 k.origin 0x02 (le 5 k.counter) 3 (payloadTaken k s)).2 := if_pos (by simp [asked, plain, mine])
  obtain ⟨n, l, taken⟩ := payloadTaken_trv k s
  have own : (payloadTaken k s).trv.own = s.trv.own := by rw [taken]
  exact ⟨_, (congrArg (·.trv.own) sent).trans (congrArg (· ++ [_]) own), rfl, rfl, rfl⟩

/-- What follows the payload leaves the replay windows. -/
theorem deliverPacket_replay (k : TrvPkt) (s : State) : (deliverPacket k s).trv.replay = s.trv.replay := by
  obtain ⟨n, l, taken⟩ := payloadTaken_trv k s
  have same : (payloadTaken k s).trv.replay = s.trv.replay := by rw [taken]
  rw [deliverPacket, ← payloadTaken]
  split <;> exact same

/-! Forwarding (R383). -/

theorem forwardPacket_stored {k : TrvPkt} {s : State} (hops : 1 < k.hop) (room : s.trv.store.length < 64) : forwardPacket k s =
    s.withTrv { s.trv with store := s.trv.store ++ [{ k with hop := k.hop - 1, since := s.now }] } := by
  have fits (q : TrvPkt) : trimStore (s.trv.store ++ [q]) = s.trv.store ++ [q] := if_pos (by simp; omega)
  refine (if_neg (by omega)).trans ?_
  simp only [fits, Nat.lt_irrefl, if_false]

theorem forwardPacket_spent {k : TrvPkt} {s : State} (spent : k.hop ≤ 1) :
    forwardPacket k s = s.withTrv { s.trv with pktDropped := satInc 16 s.trv.pktDropped } := if_pos spent

theorem forwardPacket_replay (k : TrvPkt) (s : State) : (forwardPacket k s).trv.replay = s.trv.replay := by
  rw [forwardPacket]
  split <;> rfl

/-! What a packet for one node does (R383). -/

theorem takePacket_own {k : TrvPkt} {s : State} (single : k.final < 64) (mine : k.final = trvNode s) : takePacket k s = deliverPacket k s :=
  (if_neg (by omega)).trans (if_pos (.inr mine))

theorem takePacket_other {k : TrvPkt} {s : State} (single : k.final < 64) (other : k.final ≠ trvNode s) :
    takePacket k s = forwardPacket k s :=
  (if_neg (by omega)).trans (if_neg (by omega))

theorem takePacket_replay {k : TrvPkt} {s : State} (single : k.final < 64) : (takePacket k s).trv.replay = s.trv.replay := by
  by_cases mine : k.final = trvNode s
  · rw [takePacket_own single mine, deliverPacket_replay]
  · rw [takePacket_other single mine, forwardPacket_replay]

/-- What a packet for one node does: it is confirmed here where that is asked, else forwarded with one hop less, or dropped with none left. -/
theorem takePacket_single {k : TrvPkt} (single : k.final < 64) (s : State) :
    (k.final = trvNode s → bit k.flags 1 = false → bit k.flags 0 = true → ∃ c, (takePacket k s).trv.own = s.trv.own ++ [c] ∧
      c.final = k.origin ∧ c.flags = 0x02 ∧ c.payload = le 5 k.counter) ∧
    (k.final ≠ trvNode s → 1 < k.hop → s.trv.store.length < 64 → ∃ q, (takePacket k s).trv.store = s.trv.store ++ [q] ∧
      q.hop = k.hop - 1 ∧ q.payload = k.payload ∧ q.counter = k.counter ∧ q.final = k.final) ∧
    (k.final ≠ trvNode s → k.hop ≤ 1 → (takePacket k s).trv.store = s.trv.store ∧
      (takePacket k s).trv.pktDropped = satInc 16 s.trv.pktDropped) := by
  refine ⟨fun mine plain asked => ?_, fun away hops room => ?_, fun away spent => ?_⟩
  · rw [takePacket_own single mine]
    exact deliverPacket_confirms asked plain mine
  · rw [takePacket_other single away, forwardPacket_stored hops room]
    exact ⟨_, rfl, rfl, rfl, rfl, rfl⟩
  · rw [takePacket_other single away, forwardPacket_spent spent]
    exact ⟨rfl, rfl⟩

theorem floodSeen_of_single {k : TrvPkt} (single : k.final < 64) (s : State) : floodSeen k s = false := by
  have no : (k.final == 0xFE) = false := by simp; omega
  simp [floodSeen, no]

/-! A packet without a route (R386). -/

theorem execNoRouteDrop_drops {n : Nat} {k : TrvPkt} {s : State}
    (found : (s.trv.own ++ s.trv.store).find? (fun k => k.tag == n && routeless k s) = some k) :
    execNoRouteDrop n s = .next (dropPacket k 2 (unqueue k s)) := by
  simp only [execNoRouteDrop, found]
  rfl

theorem unqueue_removes (k : TrvPkt) (s : State) : k ∉ (unqueue k s).trv.own ∧ k ∉ (unqueue k s).trv.store := by
  simp [unqueue]

end Sys2Proof.Laws

/-!
PROOF. Routes over Traverse (R384 to R387): what setting routes leaves of the link, a neighbour that is lost, the computation at a window's end,
the advertisement, and the standing grant.
-/

namespace Sys2Proof.Laws

open Sys2Proof.Machine Sys2Proof.Safety

/-! What routing leaves of the link (R385, R386). -/

/-- A neighbour's record but for its use. -/
def heard (x : Neigh) : Neigh := { x with usable := false }

/-- The link but for its routes, its parent and the use of its neighbours. -/
def unrouted (v : Traverse) : Traverse :=
  { v with neigh := v.neigh.map heard, routes := Vector.replicate 64 {}, parent := 0, depth := 0 }

theorem map_vmod {α β : Type} {n : Nat} {f : α → α} {g : α → β} (v : Vector α n) (i : Nat) (kept : ∀ x, g (f x) = g x) :
    (vmod v i f).map g = v.map g := by
  unfold vmod
  split
  next x at_ =>
    ext j inside
    by_cases same : i = j
    · subst same
      have here : v[i] = x := by simpa [inside] using at_
      simp [kept, here]
    · simp [same]
  · rfl

theorem unrouted_updNgh {f : Neigh → Neigh} (kept : ∀ x, heard (f x) = heard x) (n : Nat) (s : State) :
    unrouted (updNgh n f s).trv = unrouted s.trv := by
  simp only [unrouted, updNgh, map_vmod _ _ kept]

/-- A route that is set: its next hop is the one given, 0xFF for none. -/
theorem setRoute_trv (d : Nat) (r : Option (Nat × Nat × Nat)) (s : State) : ∃ x : Route, x.next = (r.getD (0xFF, 0xFFFF, 0)).1 ∧
    (setRoute d r s).trv = { s.trv with routes := vset s.trv.routes d x } := by
  rw [setRoute]
  obtain ⟨n, c, h⟩ := r.getD (0xFF, 0xFFFF, 0)
  dsimp only
  split
  · exact ⟨_, rfl, event_trv ..⟩
  · exact ⟨_, rfl, rfl⟩

@[simp] theorem unrouted_setRoute (d : Nat) (r : Option (Nat × Nat × Nat)) (s : State) : unrouted (setRoute d r s).trv = unrouted s.trv := by
  obtain ⟨x, -, same⟩ := setRoute_trv d r s
  rw [same]
  rfl

@[simp] theorem unrouted_updateParent (s : State) : unrouted (updateParent s).trv = unrouted s.trv := rfl

theorem unrouted_foldl {α : Type} {f : State → α → State} (kept : ∀ s x, unrouted (f s x).trv = unrouted s.trv) (l : List α) (s : State) :
    unrouted (l.foldl f s).trv = unrouted s.trv := foldl_kept (fun s => unrouted s.trv) kept l s

@[simp] theorem unrouted_neighbourLost (n : Nat) (s : State) : unrouted (neighbourLost n s).trv = unrouted s.trv := by
  rw [neighbourLost, unrouted_updateParent, unrouted_foldl]
  · exact unrouted_updNgh (f := heard) (fun _ => rfl) n s
  · intro t d
    split
    · exact unrouted_setRoute ..
    · rfl

@[simp] theorem unrouted_recompute (s : State) : unrouted (recompute s).trv = unrouted s.trv := by
  rw [recompute, unrouted_updateParent, unrouted_foldl, unrouted_foldl]
  · intro t n
    split
    · exact unrouted_neighbourLost ..
    · rfl
  · intro t d
    dsimp only
    split
    · exact unrouted_setRoute ..
    · exact unrouted_setRoute ..
    · split <;> exact unrouted_setRoute ..

theorem recompute_link (s : State) : (recompute s).trv.windowAt = s.trv.windowAt ∧ (recompute s).trv.own = s.trv.own := by
  have left := unrouted_recompute s
  exact ⟨(congrArg Traverse.windowAt left :), (congrArg Traverse.own left :)⟩

/-- So a neighbour stays as it was heard. -/
theorem heard_ngh {s t : State} (same : unrouted t.trv = unrouted s.trv) {n : Nat} (inside : n < 64) : heard (ngh t n) = heard (ngh s n) := by
  have map : t.trv.neigh.map heard = s.trv.neigh.map heard := congrArg Traverse.neigh same
  have place := congrArg (vget · n (heard {})) map
  have read (v : Vector Neigh 64) : vget (v.map heard) n (heard {}) = heard (vget v n {}) := by simp [vget, inside]
  rwa [read, read] at place

/-! A neighbour that is lost (R386). -/

theorem setRoute_neigh (d : Nat) (r : Option (Nat × Nat × Nat)) (s : State) : (setRoute d r s).trv.neigh = s.trv.neigh := by
  obtain ⟨x, -, same⟩ := setRoute_trv d r s
  rw [same]

theorem route_setRoute_self {d : Nat} (inside : d < 64) (r : Option (Nat × Nat × Nat)) (s : State) :
    (route (setRoute d r s) d).next = (r.getD (0xFF, 0xFFFF, 0)).1 := by
  obtain ⟨x, next, same⟩ := setRoute_trv d r s
  rw [route, same, vget_vset_self inside, next]

theorem route_setRoute_of_ne {d e : Nat} (other : e ≠ d) (r : Option (Nat × Nat × Nat)) (s : State) :
    route (setRoute d r s) e = route s e := by
  obtain ⟨x, -, same⟩ := setRoute_trv d r s
  simp [route, same, vget, vset, Vector.getElem?_setIfInBounds_ne other.symm]

theorem routeVia_unusable {x : Nat} {s : State} (unusable : (ngh s x).usable = false) (d : Nat) : routeVia s d x = none :=
  if_pos (by simp [unusable])

/-- The best route leads over a neighbour that is usable. -/
theorem bestRoute_usable {s : State} {d : Nat} : ∀ y ∈ bestRoute s d, (ngh s y.1).usable = true := by
  refine List.foldlRecOn (motive := fun m : Option (Nat × Nat × Nat) => ∀ y ∈ m, (ngh s y.1).usable = true) _ _ nofun fun m good x _ => ?_
  have able {v : Nat × Nat} (via : routeVia s d x = some v) : (ngh s x).usable = true := by
    by_contra unusable
    rw [routeVia_unusable (by simpa using unusable)] at via
    exact nomatch via
  split
  next via => exact fun y mem => by obtain rfl := Option.mem_some.mp mem; exact able via
  next via =>
    split
    · exact fun y mem => by obtain rfl := Option.mem_some.mp mem; exact able via
    · exact good
  · exact good

/-- s with the routes over node n moved, destination by destination. -/
def routesMoved (n : Nat) (s : State) (d : Nat) : State := if (route s d).next = n then setRoute d (bestRoute s d) s else s

theorem neighbourLost_eq (n : Nat) (s : State) :
    neighbourLost n s = updateParent ((List.range 64).foldl (routesMoved n) (updNgh n heard s)) := rfl

theorem routesMoved_neigh (n : Nat) (s : State) (d : Nat) : (routesMoved n s d).trv.neigh = s.trv.neigh := by
  rw [routesMoved]
  split
  · exact setRoute_neigh ..
  · rfl

theorem routesMoved_of_ne (n : Nat) {s : State} {d e : Nat} (other : e ≠ d) : route (routesMoved n s d) e = route s e := by
  rw [routesMoved]
  split
  · exact route_setRoute_of_ne other ..
  · rfl

theorem routesMoved_self {n d : Nat} {s : State} (node : n < 64) (inside : d < 64) (unusable : (ngh s n).usable = false) :
    (route (routesMoved n s d) d).next ≠ n := by
  rw [routesMoved]
  split
  · rw [route_setRoute_self inside]
    cases best : bestRoute s d with
    | none => exact Nat.ne_of_gt (Nat.lt_of_lt_of_le node (by decide))
    | some y =>
      intro same
      exact absurd (bestRoute_usable y best) (by rw [show y.1 = n from same, unusable]; exact Bool.false_ne_true)
  next => assumption

theorem ngh_updateParent (s : State) (n : Nat) : ngh (updateParent s) n = ngh s n := rfl

theorem route_updateParent (s : State) (d : Nat) : route (updateParent s) d = route s d := rfl

/-- No route leads over a neighbour that is lost. -/
theorem neighbourLost_moves {n : Nat} (node : n < 64) (s : State) : (ngh (neighbourLost n s) n).usable = false ∧
    ∀ d, d < 64 → (route (neighbourLost n s) d).next ≠ n := by
  have lost : (ngh (updNgh n heard s) n).usable = false := by rw [ngh_updNgh_self node]; rfl
  rw [neighbourLost_eq]
  refine ⟨?_, fun d inside => ?_⟩
  · rwa [ngh_updateParent, ngh_congr (foldl_kept (·.trv.neigh) (fun s d => routesMoved_neigh n s d) _ _)]
  · obtain ⟨t, same, last⟩ := foldl_once (f := routesMoved n) (fun s => (s.trv.neigh, route s d)) List.nodup_range
      (List.mem_range.mpr inside) (fun s e other => Prod.ext (routesMoved_neigh n s e) (routesMoved_of_ne n other.symm)) (updNgh n heard s)
    obtain ⟨neigh, -⟩ := Prod.ext_iff.mp same
    obtain ⟨-, moved⟩ := Prod.ext_iff.mp last
    dsimp only at neigh moved
    rw [route_updateParent, moved]
    exact routesMoved_self node inside (by rwa [ngh_congr neigh])

theorem ngh_outside {n : Nat} (outside : 64 ≤ n) (s : State) : ngh s n = {} := by simp [ngh, vget, outside]

theorem execNeighbourUnusable_lost {n : Nat} {s : State} (receives : trvReceives s = true) (usable : (ngh s n).usable = true)
    (lost : nghLost s n = true) : execNeighbourUnusable n s = .next (neighbourLost n s) := if_pos (by simp [receives, usable, lost])

theorem node_of_usable {n : Nat} {s : State} (usable : (ngh s n).usable = true) : n < 64 := by
  by_contra outside
  rw [ngh_outside (by omega)] at usable
  exact nomatch usable

/-! The routing window, the advertisement and the grant (R385, R387). -/

theorem execRoutingWindowEnd_due {s : State} (receives : trvReceives s = true) (due : s.trv.windowAt ≠ s.clock.legal / 200000 * 10) :
    execRoutingWindowEnd s = .next (recompute (s.withTrv { s.trv with windowAt := s.clock.legal / 200000 * 10 })) := if_pos ⟨receives, due⟩

/-- A route as an advertisement shows it. -/
def advertEntry (s : State) (d : Nat) : List Byte :=
  if d = trvNode s then le 1 d ++ le 1 0 ++ le 2 0 else le 1 (route s d).next ++ le 1 (route s d).hops ++ le 2 (route s d).cost

theorem advertEntry_length (s : State) (d : Nat) : (advertEntry s d).length = 4 := by
  rw [advertEntry]
  split <;> simp [le_length]

/-- The payload of an advertisement. -/
def advertBytes (s : State) : List Byte := ((List.range 64).map (advertEntry s)).flatten

theorem advertBytes_length (s : State) : (advertBytes s).length = 256 := by
  have each : ∀ b ∈ (List.range 64).map (advertEntry s), b.length = 4 := fun b mem => by
    obtain ⟨d, -, rfl⟩ := List.mem_map.mp mem
    exact advertEntry_length s d
  rw [advertBytes, List.length_flatten, List.sum_eq_card_nsmul _ 4 (by simpa using each)]
  simp

/-- s with its advertisement in the queue. -/
def advertised (s : State) : State :=
  let t := (ownPacket 1 0xFF 0 (advertBytes s) 3 s).2
  queueOwn (ownPacket 1 0xFF 0 (advertBytes s) 3 s).1 (t.withTrv { t.trv with advertAt := some (s.clock.legal / 200000) })

theorem execRoutingAdvertisement_due {s : State} (up : trvTransmits s = true) (due : advertDue s = true) :
    execRoutingAdvertisement s = .next (advertised s) := if_neg (by simp [up, due])

theorem advertDue_advertised (s : State) : advertDue (advertised s) = false := by
  have sent : (advertised s).trv.advertAt = some ((advertised s).clock.legal / 200000) := rfl
  simp [advertDue, sent]

theorem execTrvGrantRetry_due {t0 : Nat} {s : State} (refused : s.trv.leaveAt = some t0) (receives : trvReceives s = true)
    (transmit : s.trv.transmit = true) (none : s.trv.leave = none) (late : t0 + secF 10 ≤ s.now) :
    execTrvGrantRetry s = .next (requestTrv s) := by
  simp [execTrvGrantRetry, refused, receives, transmit, none, late]

end Sys2Proof.Laws

/-!
PROOF. The datum, beacons and site time (R372 to R374, R376 to R379): edges and their loss, the own beacon slot, a beacon received, the loss of
lock.
-/

namespace Sys2Proof.Laws

open Sys2Proof.Machine Sys2Proof.Safety

/-! Alignment and lock (R378). -/

theorem alignCheck_trv (s : State) : (alignCheck s).trv = { s.trv with aligned := alignedNow s } := by
  rw [alignCheck]
  dsimp only
  split
  next same => rw [← same]
  · rw [event_trv]

/-- s without lock. -/
def unlocked (s : State) : State := s.withTrv { s.trv with locked := false, lockRun := 0, slewBase := none }

theorem execLockTimeout_due {t0 : Nat} {s : State} (last : s.trv.beaconAt = some t0) (member : isMaster s = false)
    (locked : s.trv.locked = true) (late : t0 + secF 10 ≤ s.now) : execLockTimeout s = .next (alignCheck (unlocked s)) := by
  simp [execLockTimeout, last, member, locked, late, unlocked, State.withTrv]

theorem alignedNow_unlocked {s : State} (member : isMaster s = false) : alignedNow (unlocked s) = false := by
  have still : isMaster (unlocked s) = false := member
  have out : (unlocked s).trv.locked = false := rfl
  simp [alignedNow, still, out]

/-! The datum (R372, R373). -/

theorem datumTo_trv (v : Bool) (s : State) : (datumTo v s).trv = { s.trv with datumValid := v } := by
  rw [datumTo]
  split
  next same => rw [← same]
  · rw [event_trv]

/-- The link after an edge that marks the datum, valid or not. -/
def edgeTaken (ok : Bool) (f p : Nat) (s : State) : Traverse :=
  let t := { s.trv with datumAt := if ok then some s.now else s.trv.datumAt, gridMhz := sat 16 f,
                        phaseDeg := if isMaster s then 0 else p % 3600 }
  if isMaster s && ok then { t with periodUs := 1000000000 / f, periodNo := (t.periodNo + 1) % 65536 } else t

theorem execDatumEdge_50Hz {s : State} (run : s.trv.running = true) (on : s.power.supply = .on) (strap : bit s.rst.straps 3 = true)
    (f p : Nat) : execDatumEdge (!bit s.trv.config 25) f p s = .next (datumTo (decide (45000 ≤ f) && decide (f ≤ 55000))
      (s.withTrv (edgeTaken (decide (45000 ≤ f) && decide (f ≤ 55000)) f p s))) := by
  simp only [execDatumEdge, strap, if_true]
  rw [if_neg (by simp [run, on])]
  rfl

theorem execDatumEdge_unselected (f p : Nat) (s : State) : execDatumEdge (bit s.trv.config 25) f p s = .next s := if_pos (by simp)

theorem edgeTaken_period (ok : Bool) (f p : Nat) (s : State) : (edgeTaken ok f p s).gridMhz = sat 16 f ∧
    (isMaster s = true → ok = true → (edgeTaken ok f p s).periodNo = (s.trv.periodNo + 1) % 65536) ∧
    (isMaster s = false → (edgeTaken ok f p s).periodNo = s.trv.periodNo ∧ (edgeTaken ok f p s).phaseDeg = p % 3600) := by
  unfold edgeTaken
  dsimp only
  cases isMaster s <;> cases ok <;> simp

theorem execDatumLoss_due {t0 : Nat} {s : State} (last : s.trv.datumAt = some t0) (run : s.trv.running = true)
    (valid : s.trv.datumValid = true) (late : t0 + msF 100 ≤ s.now) : execDatumLoss s = .next (datumTo false s) := by
  simp [execDatumLoss, last, run, valid, late]

/-! The own beacon (R373, R374). -/

/-- s in the period of its own beacon slot: without a datum the master counts its periods here. -/
def beaconPeriod (s : State) : State :=
  if isMaster s && !s.trv.datumValid then s.withTrv { s.trv with periodNo := (s.trv.periodNo + 1) % 65536 } else s

theorem execBeaconSlot_own {s : State} (up : trvTransmits s = true) (now : slotNow (beaconSlotOf (isMaster s) (trvNode s)) s = true)
    (turn : (isMaster s || periodNow s % 16 == trvNode s % 16) = true) :
    execBeaconSlot (beaconSlotOf (isMaster s) (trvNode s)) s = .next (sendBeacon (beaconPeriod s)) := by
  simp only [execBeaconSlot]
  rw [if_neg (by simp only [up, now, turn]; simp)]
  rfl

/-- What the counting of a period leaves. -/
theorem beaconPeriod_keeps (s : State) : (beaconPeriod s).clock = s.clock ∧ (beaconPeriod s).trv.frameSeq = s.trv.frameSeq := by
  rw [beaconPeriod]
  split <;> exact ⟨rfl, rfl⟩

/-- The packet of the own beacon, and the state that has made it. -/
def ownBeacon (s : State) : TrvPkt × State := ownPacket 2 0xFF 0 (beaconBody s (Config.freeNat s.factory.freeCtr % 1250)) 3 s.drawFree

theorem sendBeacon_link (s : State) : ∃ a, (sendBeacon s).trv.air = [a] ∧ byteAt a 0 = 0 ∧ byteAt a 5 = 0xFF ∧
    (sendBeacon s).trv.frameSeq = s.trv.frameSeq + 1 ∧ (sendBeacon s).trv.lastTx.frame = s.clock.legal ∧
    (sendBeacon s).trv.slotAt = some (sendBeacon s).now := by
  obtain ⟨type, dst⟩ := frameControl_fields (type := 0) (dst := 0xFF) (by decide) (by decide) (ownBeacon s).2 1 0 s.trv.frameSeq
    (symbolsOf s 0 1280) 1 0 0 (padTo 160 (trvBytes (ownBeacon s).2 (ownBeacon s).1))
  exact ⟨_, rfl, type, dst, rfl, rfl, rfl⟩

theorem slotNow_used {s : State} (used : s.trv.slotAt = some s.now) (k : Nat) : slotNow k s = false := by
  simp only [slotNow]
  split
  · simp [used]
  · rfl

end Sys2Proof.Laws

/-!
PROOF. A beacon received (R370, R373, R376, R379, R386): its checks, an address or a master in conflict, the neighbour that sent it.
-/

namespace Sys2Proof.Laws

open Sys2Proof.Machine Sys2Proof.Safety

/-! Its checks. -/

/-- A payload is opened with the keys alone. -/
theorem openPayload_congr {s t : State} (keys : t.trv.keys = s.trv.keys) (b : List Byte) : openPayload t b = openPayload s b := by
  have same : trvKey t = trvKey s := funext fun k => by rw [trvKey, trvKey, keys]
  unfold openPayload
  rw [same]

theorem takeBeacon_used {b : BeaconIn} {p : List Byte} {k : TrvPkt} {s : State} (header : k = packetHeader (b.block.take 136))
    (version : byteAt (b.block.take 136) 0 % 16 = 1) (service : k.service = 2) (other : k.serial ≠ s.factory.serial)
    (key : trvKey s k.slot ≠ 0) (opened : openPayload s (b.block.take 136) = some p)
    (new : s.trv.replay.find? (fun w => w.serial == k.serial) = none) : takeBeacon b s =
      useBeacon (beaconSeen k.serial p { frame := b.arrFrame, cycle := b.arrCycle }) (originKnown k s) := by
  subst header
  simp only [takeBeacon]
  rw [if_neg (by simp [version, service, other]), opened, Option.isSome_some, screenPacket_new key new]
  rfl

theorem execBeaconReceived_used {b : BeaconIn} {p : List Byte} {k : TrvPkt} {s : State} (header : k = packetHeader (b.block.take 136))
    (receives : trvReceives s = true) (site : siteFrame 0 b.fc s = true) (all : byteAt b.fc 5 = 0xFF)
    (version : byteAt (b.block.take 136) 0 % 16 = 1) (service : k.service = 2) (other : k.serial ≠ s.factory.serial)
    (key : trvKey s k.slot ≠ 0) (opened : openPayload s (b.block.take 136) = some p)
    (new : s.trv.replay.find? (fun w => w.serial == k.serial) = none) : ∃ free, execBeaconReceived b s =
      .next (useBeacon (beaconSeen k.serial p { frame := b.arrFrame, cycle := b.arrCycle }) (originKnown k (frameCounted free s))) := by
  obtain ⟨free, heard⟩ := frameHeard site (.inr all)
  refine ⟨free, ?_⟩
  simp only [execBeaconReceived, receives, heard, site, Bool.not_true, Bool.false_eq_true, if_false, if_true]
  exact congrArg _ (takeBeacon_used header version service other key ((openPayload_congr rfl _).trans opened) new)

/-- A beacon that names this node's address. -/
theorem useBeacon_own {b : BeaconSeen} {s : State} (node : b.node < 64) (own : b.node = trvNode s) : useBeacon b s = addressClash b s :=
  (if_neg (by omega)).trans (if_pos own)

theorem useBeacon_other {b : BeaconSeen} {s : State} (node : b.node < 64) (other : b.node ≠ trvNode s) :
    useBeacon b s = beaconTimes b (beaconRoutes b (beaconHeard b (masterConflict b s))) :=
  (if_neg (by omega)).trans (if_neg other)

/-! Conflicts (R379). -/

/-- An address conflict is reported once; the node with the higher serial number stops. -/
theorem addressClash_link (b : BeaconSeen) (s : State) : (addressClash b s).trv.framesRx = s.trv.framesRx ∧
    (s.trv.clashes.contains b.serial = false → (addressClash b s).trv.addrConflict = true ∧
      (b.serial.toNat < s.factory.serial.toNat → (addressClash b s).trv.stopped = true)) := by
  rw [addressClash]
  split
  next known => exact ⟨rfl, fun new => absurd known (ne_true_of_eq_false new)⟩
  · extract_lets lose v t
    have link : t.trv = { s.trv with addrConflict := true, stopped := s.trv.stopped || lose, clashes := b.serial :: s.trv.clashes } :=
      event_trv ..
    obtain ⟨l, silent⟩ := trvSilent_trv t
    have stops : b.serial.toNat < s.factory.serial.toNat → (s.trv.stopped || lose) = true := fun lower => by simp [lose, lower]
    split
    · rw [silent, link]
      exact ⟨rfl, fun _ => ⟨rfl, stops⟩⟩
    · rw [link]
      exact ⟨rfl, fun _ => ⟨rfl, stops⟩⟩

/-- The master's flag is bit 0 of the body's second byte (Table 11-5). -/
theorem beaconSeen_flag (serial : BitVec 64) (p : List Byte) (arrival : Beat) :
    bit (beaconSeen serial p arrival).flags 0 = decide (byteAt p 1 % 2 = 1) := by
  show (p.getD 1 0).getLsbD 0 = _
  rw [List.getD_eq_getElem?_getD, ← BitVec.testBit_toNat, Nat.testBit_zero]
  rfl

theorem masterConflict_framesRx (b : BeaconSeen) (s : State) : (masterConflict b s).trv.framesRx = s.trv.framesRx := by
  rw [masterConflict]
  split
  · rfl
  · dsimp only
    rw [event_trv]

/-- Of two masters the one with the higher serial yields. -/
theorem masterConflict_yields {b : BeaconSeen} {s : State} (master : isMaster s = true) (flag : bit b.flags 0 = true)
    (new : s.trv.conflicts.contains b.serial = false) (lower : b.serial.toNat < s.factory.serial.toNat) :
    (masterConflict b s).trv.yielded = true := by
  rw [masterConflict, if_neg (by rw [master, flag, new]; decide)]
  dsimp only
  rw [event_trv]
  simp [lower]

theorem masterConflict_now (b : BeaconSeen) (s : State) : (masterConflict b s).now = s.now :=
  congrArg Clock.tick (Part.kept (p := .clock) (by simp [masterConflict_only, OnlyChanges.refl]))

/-! The neighbour (R378, R386). -/

theorem beaconHeard_ngh {b : BeaconSeen} (node : b.node < 64) (s : State) : (ngh (beaconHeard b s) b.node).heardAt = some s.now ∧
    (ngh (beaconHeard b s) b.node).serial = b.serial := by
  unfold beaconHeard
  dsimp only
  rw [ngh_updNgh_self node]
  exact ⟨rfl, rfl⟩

/-- What a beacon says of the neighbour's use and of the parent is routing alone. -/
theorem unrouted_beaconRoutes (b : BeaconSeen) (s : State) : unrouted (beaconRoutes b s).trv = unrouted s.trv := by
  rw [beaconRoutes]
  split
  · split
    · exact unrouted_neighbourLost ..
    · rfl
  · exact unrouted_updNgh (f := fun x => { x with usable := true }) (fun _ => rfl) b.node s

/-- What a beacon's times leave of the link. -/
def untimed (v : Traverse) : Nat × Vector Neigh 64 × Bool := (v.framesRx, v.neigh, v.yielded)

theorem untimed_alignCheck (s : State) : untimed (alignCheck s).trv = untimed s.trv := by rw [alignCheck_trv]; rfl

theorem untimed_measure (b : BeaconSeen) (s : State) : untimed (Machine.measure b s).trv = untimed s.trv := by
  rw [Machine.measure]
  dsimp only
  split <;> rfl

theorem untimed_beaconTimes (b : BeaconSeen) (s : State) : untimed (beaconTimes b s).trv = untimed s.trv := by
  rw [beaconTimes]
  split
  · exact untimed_alignCheck s
  · dsimp only
    rw [untimed_alignCheck]
    split
    · rw [untimed_measure]
      rfl
    · rfl

/-- A beacon of another node's address leaves the neighbour heard, and the rest of the link as a conflict of masters leaves it. -/
theorem useBeacon_hears {b : BeaconSeen} {s : State} (node : b.node < 64) (other : b.node ≠ trvNode s) :
    (useBeacon b s).trv.framesRx = s.trv.framesRx ∧ (useBeacon b s).trv.yielded = (masterConflict b s).trv.yielded ∧
      (ngh (useBeacon b s) b.node).heardAt = some s.now ∧ (ngh (useBeacon b s) b.node).serial = b.serial := by
  have times := untimed_beaconTimes b (beaconRoutes b (beaconHeard b (masterConflict b s)))
  have routes := unrouted_beaconRoutes b (beaconHeard b (masterConflict b s))
  obtain ⟨heardAt, serial⟩ := beaconHeard_ngh node (masterConflict b s)
  rw [useBeacon_other node other]
  have record := heard_ngh routes node
  rw [ngh_congr (congrArg (·.2.1) times)]
  refine ⟨?_, ?_, ?_, ?_⟩
  · exact (congrArg (·.1) times).trans ((congrArg Traverse.framesRx routes).trans (masterConflict_framesRx b s))
  · exact (congrArg (·.2.2) times).trans (congrArg Traverse.yielded routes)
  · exact (congrArg Neigh.heardAt record).trans (heardAt.trans (congrArg some (masterConflict_now b s)))
  · exact (congrArg Neigh.serial record).trans serial

end Sys2Proof.Laws

/-!
PROOF. The messages of an image along the chain (R451 to R456): offers and answers, blocks and their acknowledgements, progress, a hop that is
routed around, the ends of a staging.
-/

namespace Sys2Proof.Laws

open Sys2Proof.Machine Sys2Proof.Safety

/-! What a message leaves of the chain. -/

@[simp] theorem event_chain (code : Nat) (payload : List Byte) (s : State) : (event code payload s).chain = s.chain :=
  Part.kept (p := .chain) (by simp [event_only, OnlyChanges.refl])

/-- A message joins the queue of packets, and the chain stays as it is. -/
theorem chainSend_queued (dst type : Nat) (body : List Byte) (s : State) : (chainSend dst type body s).chain = s.chain ∧
    ∃ q, (chainSend dst type body s).trv.own = s.trv.own ++ [q] ∧ q.final = dst := ⟨rfl, _, rfl, rfl⟩

theorem sendOffer_next (s : State) : (sendOffer s).chain.next = s.chain.next := by
  rw [sendOffer]
  split <;> rfl

theorem sendOffer_entries (s : State) : (sendOffer s).chain.entries = s.chain.entries := by
  rw [sendOffer]
  split <;> rfl

/-- The wait for the next node counts from its OFFER. -/
theorem sendOffer_heardAt {n pos : Nat} {s : State} (next : s.chain.next = some (n, pos)) : (sendOffer s).chain.heardAt = s.now := by
  rw [sendOffer]
  split
  · rfl
  next none => exact absurd (none.symm.trans next) nofun

/-! Blocks that go on (R453). -/

theorem sendBlock_queued (dst k : Nat) (s : State) : (sendBlock dst k s).chain = s.chain ∧ ∃ l, (sendBlock dst k s).trv.own = s.trv.own ++ l := by
  rw [sendBlock]
  split
  next b _ =>
    obtain ⟨first, q, half0, -⟩ := chainSend_queued dst 2 (le 4 k ++ le 1 0 ++ b.half0) s
    obtain ⟨second, r, half1, -⟩ := chainSend_queued dst 2 (le 4 k ++ le 1 1 ++ b.half1 ++ b.tag)
      (chainSend dst 2 (le 4 k ++ le 1 0 ++ b.half0) s)
    exact ⟨second.trans first, [q] ++ [r], by rw [half1, half0, List.append_assoc]⟩
  · exact ⟨rfl, [], (List.append_nil _).symm⟩

/-- Blocks that go on join the queue, and of the chain count the next block alone. -/
theorem pump_queued (k : Nat) (s : State) : ∃ n l, (pump k s).chain = { s.chain with nextFrom := n } ∧ (pump k s).trv.own = s.trv.own ++ l := by
  have still (t : State) : ∃ n l, t.chain = { t.chain with nextFrom := n } ∧ t.trv.own = t.trv.own ++ l :=
    ⟨_, [], rfl, (List.append_nil _).symm⟩
  induction k generalizing s with
  | zero => exact still s
  | succ k ih =>
    rw [pump]
    split
    next dst _ _ =>
      dsimp only
      split
      · obtain ⟨kept, l, own⟩ := sendBlock_queued dst s.chain.nextFrom s
        obtain ⟨n, m, chain, more⟩ := ih (updChain (fun c => { c with nextFrom := s.chain.nextFrom + 1 }) (sendBlock dst s.chain.nextFrom s))
        refine ⟨n, l ++ m, chain.trans ?_, more.trans ?_⟩
        · simp only [updChain, kept]
        · rw [← List.append_assoc, ← own]
          rfl
      · exact still s
    · exact still s

/-! Entries of CHAIN_STATE (R454). -/

/-- The entries name a node with its blocks held. -/
def Shows (node blocks : Nat) (l : List ChainPos) : Prop := ∃ e ∈ l, e.node = node ∧ e.blocks = blocks

theorem Shows.map {node blocks : Nat} {l : List ChainPos} {f : ChainPos → ChainPos} (h : Shows node blocks l)
    (names : ∀ e, (f e).node = e.node) (counts : ∀ e, (f e).blocks = e.blocks) : Shows node blocks (l.map f) := by
  obtain ⟨e, mem, name, count⟩ := h
  exact ⟨f e, List.mem_map_of_mem mem, (names e).trans name, (counts e).trans count⟩

/-- An entry that moves to the end keeps its node and blocks. -/
theorem Shows.move {node blocks i : Nat} {l : List ChainPos} {r : ChainPos} (h : Shows node blocks l) (name : r.node = (l.getD i {}).node)
    (count : r.blocks = (l.getD i {}).blocks) : Shows node blocks (l.eraseIdx i ++ [r]) := by
  obtain ⟨e, mem, same, held⟩ := h
  obtain ⟨j, place⟩ := List.mem_iff_getElem?.mp mem
  by_cases here : j = i
  · subst here
    have entry : l.getD j {} = e := by simp [place]
    exact ⟨r, by simp, by rw [name, entry, same], by rw [count, entry, held]⟩
  · exact ⟨e, List.mem_append_left _ (List.mem_eraseIdx_iff_getElem?.mpr ⟨j, here, place⟩), same, held⟩

theorem mem_updFirst {α : Type} {p : α → Bool} {l : List α} (found : l.any p = true) (f : α → α) :
    ∃ a, p a = true ∧ f a ∈ updFirst p f l := by
  induction l with
  | nil => exact nomatch found
  | cons a l ih =>
    rw [updFirst]
    cases hit : p a
    · obtain ⟨b, hitb, mem⟩ := ih (by simpa [hit] using found)
      exact ⟨b, hitb, List.mem_cons_of_mem a mem⟩
    · exact ⟨a, hit, List.mem_cons_self⟩

/-- The entry of a node as a report rewrites it. -/
theorem updEntry_shows {node blocks : Nat} {f : ChainPos → ChainPos} {s : State}
    (known : (s.chain.entries.drop 1).any (fun e => e.node == node) = true) (names : ∀ e, (f e).node = e.node)
    (counts : ∀ e, (f e).blocks = blocks) : Shows node blocks (updEntry node f s).chain.entries := by
  have found : s.chain.entries.any (fun e => e.node == node) = true := by
    obtain ⟨e, mem, hit⟩ := List.any_eq_true.mp known
    exact List.any_eq_true.mpr ⟨e, List.mem_of_mem_drop mem, hit⟩
  obtain ⟨e, hit, mem⟩ := mem_updFirst found (fun e => { f e with shown := true })
  exact ⟨_, mem, (names e).trans (by simpa using hit), counts e⟩

theorem markSlow_shows {node blocks : Nat} {s : State} (h : Shows node blocks s.chain.entries) :
    Shows node blocks (markSlow s).chain.entries :=
  h.map (fun _ => by split <;> rfl) (fun _ => by split <;> rfl)

/-- The hop that is routed around goes to the end of the entries. -/
theorem bypass_entries (i : Nat) (r : ChainPos) (s : State) : (bypass i r s).chain.entries =
    s.chain.entries.eraseIdx i ++ [{ r with bypassed := true, slowAt := none, heardAt := s.now }] := by
  unfold bypass
  extract_lets es up succ last moved at1 s1 s2
  have told : s1.chain.entries = moved := congrArg Chain.entries (event_chain ..)
  have fed : s2.chain.entries = s1.chain.entries := by
    dsimp only [s2]
    split
    · exact sendOffer_entries _
    · rfl
  exact fed.trans told

theorem slowHop_entry {s : State} {i : Nat} {r : ChainPos} (slow : slowHop s = some (i, r)) : r = s.chain.entries.getD i {} := by
  obtain ⟨j, -, same⟩ := List.mem_map.mp (List.mem_of_find?_eq_some slow)
  obtain ⟨rfl, rfl⟩ := Prod.mk.inj same
  rfl

/-! Offers and answers (R452, R455). -/

theorem execChainOffer_refused {src origin pos : Nat} {hdr : List Byte} {nodes : List Nat} {s : State} (listens : chainListens s = true)
    (bad : headerOk s hdr = false) (idle : s.chain.staging = 0) (short : nodes.length ≤ 63) :
    execChainOffer src origin hdr nodes pos s = .next (refuseOffer src origin (hdrId hdr) 2 s) := by
  have none : stagingRuns s = false := by simp [stagingRuns, idle]
  simp only [execChainOffer]
  rw [if_neg (by simp [listens, short]), if_neg (by simp [none]), if_neg (by simp [idle]), if_pos (by simp [bad]), bad]
  rfl

/-- s with the next node's answer taken: it is sent blocks from the one that it names. -/
def answerTaken (src first : Nat) (s : State) : State :=
  let s1 := updChain (fun c => { c with nextAnswered := true, nextFrom := first, nextAcked := (first : Int) - 1, heardAt := s.now }) s
  if isOrigin s then updEntry src (fun e => if e.ended then e else { e with state := 2 }) s1 else s1

theorem execChainAnswer_accepted {src pos : Nat} {s : State} (next : s.chain.next = some (src, pos)) (listens : chainListens s = true)
    (staging : s.chain.staging ≠ 0) (first : Nat) :
    execChainAnswer src (stagedId s) 0 first s = .next (forward16 (answerTaken src first s)) := by
  simp only [execChainAnswer, next]
  exact (if_neg (by simp [listens, staging])).trans (if_pos trivial)

theorem forward16_answered (s : State) : (forward16 s).chain.nextAnswered = s.chain.nextAnswered := by
  obtain ⟨n, l, chain, -⟩ := pump_queued 16 s
  rw [forward16, chain]

theorem answerTaken_answered (src first : Nat) (s : State) : (answerTaken src first s).chain.nextAnswered = true := by
  unfold answerTaken
  dsimp only
  split <;> rfl

/-! Blocks (R453). -/

theorem execChainBlock_taken {src k half : Nat} {data tag : List Byte} {s : State} (listens : chainListens s = true)
    (staging : stagingRuns s = true) (member : s.chain.byHost = false) (ready : s.chain.ready = true) (up : s.chain.upstream = src)
    (inside : k < stagedBlocks s) (known : half ≤ 1) (size : data.length = 2048) : execChainBlock src (stagedId s) k half data tag s =
      .next (forward16 (chainSend src 3 (leInt 4 ((stagedHeld (stageHalf k half data tag s).1 : Int) - 1)) (stageHalf k half data tag s).1)) :=
  if_neg (by simp [isOrigin, listens, staging, member, ready, up, inside, known, size])

theorem execChainBlockAck_taken {src pos k : Nat} {s : State} (next : s.chain.next = some (src, pos)) (listens : chainListens s = true)
    (staging : s.chain.staging ≠ 0) (inside : k < stagedBlocks s) : execChainBlockAck src (stagedId s) k s =
      .next (forward16 (updChain (fun c => { c with nextAcked := max c.nextAcked k, heardAt := s.now }) s)) := by
  simp only [execChainBlockAck, next]
  exact if_neg (by simp [listens, staging, inside])

/-- An acknowledged block stays acknowledged as further ones go. -/
theorem forward16_acked (s : State) : (forward16 s).chain.nextAcked = s.chain.nextAcked := by
  obtain ⟨n, l, chain, -⟩ := pump_queued 16 s
  rw [forward16, chain]

/-! Progress (R454). -/

/-- The report of a node on k + 1 blocks held, taken at the origin. -/
def progressTaken (src k rate : Nat) (s : State) : State :=
  let held := (k + 1) % 2 ^ 32
  let grew := decide ((entryOf s src).blocks < held)
  markSlow (updChain (fun c => { c with progressAt := if grew then s.now else c.progressAt })
    (updEntry src (fun e => { e with blocks := sat 16 held, rate := sat 32 rate, heardAt := s.now,
                                     state := if e.ended then e.state else 2 }) s))

theorem progressTaken_shows {src k : Nat} {s : State} (known : (s.chain.entries.drop 1).any (fun e => e.node == src) = true)
    (small : k < 5120) (rate : Nat) : Shows src (k + 1) (progressTaken src k rate s).chain.entries := by
  have held : sat 16 ((k + 1) % 2 ^ 32) = k + 1 := by
    rw [Nat.mod_eq_of_lt (by omega), sat]
    omega
  refine markSlow_shows (show Shows src (k + 1) (updEntry src _ s).chain.entries from ?_)
  exact updEntry_shows known (fun _ => rfl) (fun _ => held)

theorem execChainProgress_shows {src k : Nat} {s : State} (listens : chainListens s = true) (origin : s.chain.byHost = true)
    (staging : s.chain.staging ≠ 0) (known : (s.chain.entries.drop 1).any (fun e => e.node == src) = true) (small : k < 5120) (rate : Nat) :
    ∃ t, execChainProgress src (stagedId s) k rate s = .next t ∧ Shows src (k + 1) t.chain.entries := by
  have shows_ := progressTaken_shows known small rate
  rw [execChainProgress, if_neg (by simp only [isOrigin, listens, origin, known]; simp [staging])]
  dsimp only
  split
  next i r slow =>
    refine ⟨_, rfl, ?_⟩
    rw [bypass_entries]
    obtain rfl := slowHop_entry slow
    exact shows_.move rfl rfl
  · exact ⟨_, rfl, shows_⟩

theorem execChainProgressSend_due {s : State} (listens : chainListens s = true) (staging : stagingRuns s = true)
    (member : s.chain.byHost = false) (due : s.chain.sentAt + secF 5 ≤ s.now) : execChainProgressSend s =
      .next (updChain (fun c => { c with sentAt := s.now })
        (chainSend s.chain.origin 4 (leInt 4 ((stagedHeld s : Int) - 1) ++ le 4 (incomingRate s)) s)) :=
  if_pos (by simp [isOrigin, listens, staging, member, due])

/-! REROUTE, ABORT, DONE, silence and stalls (R454 to R456). -/

theorem execChainReroute_taken {s : State} (listens : chainListens s = true) (member : s.chain.byHost = false)
    (staging : s.chain.staging ≠ 0) (n pos : Nat) : execChainReroute s.chain.origin (stagedId s) n pos s =
      .next (sendOffer (updChain (fun c =>
        { c with next := some (n, pos), nextAcked := -1, list := reroutedList c.next n c.list }) s)) :=
  if_pos (by simp [isOrigin, listens, member, staging])

theorem execChainAbort_taken {s : State} (listens : chainListens s = true) (member : s.chain.byHost = false) (staging : s.chain.staging ≠ 0) :
    execChainAbort s.chain.origin (stagedId s) s = .next (emptyStaging (if stagingRuns s then stagingDone 1 s else s)) :=
  if_pos (by simp [isOrigin, listens, member, staging])

theorem execChainDone_taken {src : Nat} {s : State} (listens : chainListens s = true) (origin : s.chain.byHost = true)
    (staging : s.chain.staging ≠ 0) (known : (s.chain.entries.drop 1).any (fun e => e.node == src && !e.ended) = true) (res : Nat) :
    ∃ k t, t.now = s.now ∧ execChainDone src (stagedId s) res s =
      .next (chainNode src res k (updChain (fun c => { c with progressAt := s.now }) t)) :=
  ⟨_, updEntry src _ s, rfl, if_neg (by simp only [isOrigin, listens, origin, known]; simp [staging])⟩

theorem execChainReceiverSilent_due {n pos : Nat} {s : State} (listens : chainListens s = true) (staging : s.chain.staging ≠ 0)
    (next : s.chain.next = some (n, pos)) (open_ : s.chain.nextAcked + 1 < (stagedBlocks s : Int)) (silent : s.chain.heardAt + secF 10 ≤ s.now) :
    execChainReceiverSilent s = .next (sendOffer s) :=
  if_pos (by simp [listens, staging, next, open_, silent])

theorem execChainStall_due {s : State} (run : s.running = true) (staging : stagingRuns s = true)
    (long : s.chain.progressAt + secF 600 ≤ s.now) : ∃ t, execChainStall s = .next (emptyStaging t) :=
  ⟨_, (if_neg (by simp [run, staging, long])).trans (congrArg _ (if_pos staging))⟩

end Sys2Proof.Laws

/-!
PROOF. The Traverse link (chapter 11, R366 to R390) and the image along the chain (R451 to R455): each row by what it executes.
-/

namespace Sys2Proof.Laws

open Sys2Proof.Machine Sys2Proof.Safety

/-- Settles O57: a lemma for each row says what it executes; what it leaves of the link and of the chain is read off the rules of their state. -/
theorem traverseLink : Obligations.TraverseLink := by
  unfold Obligations.TraverseLink
  refine ⟨?send, ?keySet, ?keyUse, ?keySwitch, ?unconfirmed, ?newFrame, ?waits, ?sameFrame, ?frame, ?acknowledged, ?nothingTaken, ?noAnswer,
    ?micFails, ?replayed, ?packet, ?routeless, ?lostNeighbour, ?window, ?advert, ?grant, ?lock, ?otherEdge, ?edge, ?datumLoss, ?slot, ?beacon,
    ?offer, ?answer, ?block, ?blockAck, ?progress, ?progressSend, ?reroute, ?abort, ?done, ?silent, ?stall⟩
  case send =>
    intro h d f m s a role node other flag some long room up
    have run := trvSendCmd_taken (h := h) (s := touchRole s) role node other flag some long room up
    exact ⟨_, sentPacket d f m (touchRole s), sendKept h d f (touchRole s), congrArg _ (hostCommand_done a run nofun), rfl, rfl, rfl, rfl, rfl,
      rfl, rfl, rfl, sendTaken_only h d f m (by decide) (touchRole_only (by decide) (.refl _ s))⟩
  case keySet =>
    intro h k n s a role slot key size unused
    exact congrArg _ (hostCommand_done a (trvKeySetCmd_taken (s := touchRole s) role slot key size unused) nofun)
  case keyUse =>
    intro h k n f s a role slot size time set
    have run := trvKeyUseCmd_taken (s := touchRole s) role slot size time set
    obtain ⟨due, early⟩ := keyUsed_slot k f (touchRole s)
    exact ⟨_, congrArg _ (hostCommand_done a run nofun), due, early, keyUsed_only k f (by decide) (touchRole_only (by decide) (.refl _ s))⟩
  case keySwitch => exact fun k f s pending run tick due => execTrvKeySwitch_due pending run tick due
  case unconfirmed =>
    intro n x s found gone idle late
    have run := execTrvConfirmationTimeout_due found gone idle late
    exact ⟨_, run, by rw [trvSent_trv], execTrvConfirmationTimeout_only n run⟩
  case newFrame =>
    intro b k n s up idle first drawn quiet count fits
    have run := execContentionAccess_starts (nextFrame_new idle first) up drawn quiet count fits
    obtain ⟨own, seq⟩ := frameBegun_new (firstTx k s) s
    by_cases single : k.final < 64
    · have dst : (firstTx k s).dst = (route s k.final).next := if_neg (by omega)
      obtain ⟨frameSeq, kept, air, flight⟩ := sendSegments_link (firstTx k s) n (frameBegun (firstTx k s) true s)
      rw [if_neg (by rw [dst]; exact route_of_nextToSend first single)] at run
      rw [seq] at frameSeq
      exact ⟨_, run, frameSeq, kept.trans own, air, fun _ => ⟨_, flight, rfl, dst, rfl, rfl⟩, fun many => absurd single (Nat.not_lt.mpr many)⟩
    · have dst : (firstTx k s).dst = 0xFF := if_pos (by omega)
      obtain ⟨frameSeq, kept, air, flight⟩ := sendBroadcast_link (firstTx k s) n (frameBegun (firstTx k s) true s)
      rw [if_pos dst] at run
      rw [seq] at frameSeq
      exact ⟨_, run, frameSeq, kept.trans own, air, fun one => absurd one single, fun _ all => flight all⟩
  case waits => exact fun b x new s next no => execContentionAccess_waits next no
  case sameFrame =>
    intro b x n s up under free one drawn quiet count fits
    have run := execContentionAccess_starts (nextFrame_again under free) up drawn quiet count fits
    rw [if_neg one] at run
    exact ⟨_, _, run, rfl, rfl, rfl, rfl, rfl, rfl, sendSegments_only _ _ (by decide) (.refl _ s)⟩
  case frame =>
    intro f s up site mine single
    obtain ⟨free, run⟩ := execTrvFrameReceived_acknowledged up site mine single
    obtain ⟨type, dst⟩ := frameControl_fields (type := 2) (by decide) (byteAt_lt f.fc 4) s 0 0 s.trv.frameSeq 0 (goodSegments f).length f.snr
      (((goodSegments f).map (2 ^ ·)).foldl (· + ·) 0) []
    rw [List.append_nil] at type dst
    exact ⟨_, ackFrame f s, run, rfl, rfl, frameControl_length .., type, dst, rfl, rfl, rfl, rfl, execTrvFrameReceived_only f run⟩
  case acknowledged =>
    intro fc x s _ site mine under waits from_ node whole all
    obtain ⟨free, run⟩ := execSelectiveAckReceived_awaited site mine under waits from_
    exact ⟨_, run, ackTakenBy_whole (by rw [ackedSegs_all all, whole]) node (byteAt fc 11) (frameCounted free s)⟩
  case nothingTaken =>
    intro fc x s _ site mine under waits from_ node none some few
    obtain ⟨free, run⟩ := execSelectiveAckReceived_awaited site mine under waits from_
    rw [ackTakenBy_missed (ackedSegs_none none) some, segmentsLeft_again (by exact few)] at run
    exact ⟨_, run, rfl, rfl⟩
  case noAnswer =>
    rintro _ _ x s receives under waits rfl rfl
    have run := execSelectiveAckMissing_awaited receives under waits
    by_cases few : ∀ i ∈ x.segs, vget x.sends i 0 < arqRetries s
    · rw [segmentsLeft_again (by exact few)] at run
      exact ⟨_, run, rfl, fun _ => rfl, fun ⟨i, mem, many⟩ => absurd (few i mem) (Nat.not_lt.mpr many)⟩
    · have many : ∃ i ∈ x.segs, arqRetries s ≤ vget x.sends i 0 := by simpa using few
      obtain ⟨n, m, left⟩ := segmentsLeft_exhausted (s := s.withTrv { s.trv with cw := min 8 (s.trv.cw + 1) }) many
      exact ⟨_, run, by rw [left], fun all => absurd all few, fun _ => by rw [left]; exact ⟨rfl, rfl⟩⟩
  case micFails =>
    intro b s receives version other unseen bad
    obtain ⟨kind, screened⟩ := screenPacket_fails (k := packetHeader b) (micOk := (openPayload s b).isSome) (s := s)
      (bad.imp_right fun none => by rw [none]; rfl)
    obtain ⟨c, a, link⟩ := trvSecurity_trv kind (packetHeader b).origin (s.withTrv { s.trv with micFail := satInc 16 s.trv.micFail })
    refine ⟨_, execTrvPacketReceived_failed receives version other unseen screened, ?_⟩
    rw [link]
    exact ⟨rfl, rfl, rfl, rfl⟩
  case replayed =>
    intro b p w s receives version other unseen key opened known old
    have screened := screenPacket_replayed key known old
    obtain ⟨c, a, link⟩ := trvSecurity_trv 1 (packetHeader b).origin (s.withTrv { s.trv with replays := satInc 16 s.trv.replays })
    refine ⟨_, execTrvPacketReceived_failed receives version other unseen (by rw [opened]; exact screened), ?_⟩
    rw [link]
    exact ⟨rfl, rfl, rfl, rfl⟩
  case packet =>
    rintro b p k s rfl receives version other single key opened new
    have run := execTrvPacketReceived_passed receives version other (floodSeen_of_single single s) opened (screenPacket_new key new)
    exact ⟨_, _, run, takePacket_replay single, rfl, rfl,
      takePacket_single (k := { packetHeader b with payload := p }) single (originKnown (packetHeader b) s)⟩
  case routeless =>
    intro n k s found
    obtain ⟨own, store⟩ := unqueue_removes k s
    obtain ⟨l, link⟩ := dropPacket_trv k 2 (unqueue k s)
    refine ⟨_, execNoRouteDrop_drops found, ?_⟩
    rw [link]
    exact ⟨own, store, rfl⟩
  case lostNeighbour =>
    intro n s receives usable lost
    exact ⟨_, execNeighbourUnusable_lost receives usable lost, neighbourLost_moves (node_of_usable usable) s⟩
  case window =>
    intro s receives due
    exact ⟨_, execRoutingWindowEnd_due receives due, recompute_link _⟩
  case advert =>
    intro s up due
    have run := execRoutingAdvertisement_due up due
    exact ⟨_, _, run, rfl, rfl, rfl, advertBytes_length s, rfl, advertDue_advertised s, execRoutingAdvertisement_only run⟩
  case grant =>
    intro t0 s refused receives transmit none late
    have run := execTrvGrantRetry_due refused receives transmit none late
    exact ⟨_, _, run, rfl, rfl, rfl, rfl, execTrvGrantRetry_only run⟩
  case lock =>
    intro t0 s last member locked late
    have run := execLockTimeout_due last member locked late
    have link := alignCheck_trv (unlocked s)
    exact ⟨_, run, by rw [link]; rfl, by rw [link]; exact alignedNow_unlocked member, execLockTimeout_only run⟩
  case otherEdge => exact execDatumEdge_unselected
  case edge =>
    intro f p s running on strap
    have run := execDatumEdge_50Hz running on strap f p
    obtain ⟨mhz, master, member⟩ := edgeTaken_period (decide (45000 ≤ f) && decide (f ≤ 55000)) f p s
    have link := datumTo_trv (decide (45000 ≤ f) && decide (f ≤ 55000))
      (s.withTrv (edgeTaken (decide (45000 ≤ f) && decide (f ≤ 55000)) f p s))
    refine ⟨_, run, by rw [link], by rw [link]; exact mhz, fun is low high => ?_, fun no => ?_, execDatumEdge_only _ f p run⟩
    · rw [link]
      exact master is (by simp [low, high])
    · rw [link]
      exact member no
  case datumLoss =>
    intro t0 s last running valid late
    have run := execDatumLoss_due last running valid late
    exact ⟨_, run, by rw [datumTo_trv], execDatumLoss_only run⟩
  case slot =>
    rintro _ s up rfl now turn
    have run := execBeaconSlot_own up now turn
    obtain ⟨clock, seq⟩ := beaconPeriod_keeps s
    obtain ⟨a, air, type, dst, frameSeq, frame, used⟩ := sendBeacon_link (beaconPeriod s)
    rw [seq] at frameSeq
    rw [clock] at frame
    exact ⟨_, a, run, air, type, dst, frameSeq, frame, slotNow_used used _, execBeaconSlot_only _ run⟩
  case beacon =>
    intro b p k s header receives site all version service other key opened new node
    obtain ⟨free, run⟩ := execBeaconReceived_used header receives site all version service other key opened new
    refine ⟨_, run, ?_, fun own new => ?_, fun away => ?_, fun away master flag first lower => ?_⟩
    · by_cases own : byteAt p 0 = trvNode s
      · rw [useBeacon_own node own]
        exact (addressClash_link ..).1
      · exact (useBeacon_hears node own).1
    · rw [useBeacon_own node own]
      exact (addressClash_link ..).2 new
    · obtain ⟨-, -, heardAt, serial⟩ := useBeacon_hears (s := originKnown k (frameCounted free s))
        (b := beaconSeen k.serial p { frame := b.arrFrame, cycle := b.arrCycle }) node away
      exact ⟨heardAt, serial⟩
    · obtain ⟨-, yields, -⟩ := useBeacon_hears (s := originKnown k (frameCounted free s))
        (b := beaconSeen k.serial p { frame := b.arrFrame, cycle := b.arrCycle }) node away
      exact yields.trans (masterConflict_yields master (by rw [beaconSeen_flag, flag]; rfl) first lower)
  case offer =>
    intro src origin hdr nodes pos s listens bad idle short
    exact ⟨_, execChainOffer_refused listens bad idle short, rfl⟩
  case answer =>
    intro src pos first s next listens staging
    have run := execChainAnswer_accepted next listens staging first
    exact ⟨_, run, (forward16_answered _).trans (answerTaken_answered ..), execChainAnswer_only _ _ _ _ run⟩
  case block =>
    intro src k half data tag s listens staging member ready up inside known size
    have run := execChainBlock_taken (tag := tag) listens staging member ready up inside known size
    generalize (stageHalf k half data tag s).1 = t at run
    obtain ⟨-, q, queued, final⟩ := chainSend_queued src 3 (leInt 4 ((stagedHeld t : Int) - 1)) t
    obtain ⟨n, l, -, own⟩ := pump_queued 16 (chainSend src 3 (leInt 4 ((stagedHeld t : Int) - 1)) t)
    exact ⟨_, q, run, by rw [forward16, own, queued]; simp, final⟩
  case blockAck =>
    intro src pos k s next listens staging inside
    have run := execChainBlockAck_taken next listens staging inside
    exact ⟨_, run, by rw [forward16_acked]; exact le_max_right .., execChainBlockAck_only _ _ _ run⟩
  case progress =>
    intro src k rate s listens origin staging known small
    obtain ⟨t, run, e, mem, name, count⟩ := execChainProgress_shows listens origin staging known small rate
    exact ⟨t, e, run, mem, name, count⟩
  case progressSend =>
    intro s listens staging member due
    have run := execChainProgressSend_due listens staging member due
    exact ⟨_, run, rfl, execChainProgressSend_only run⟩
  case reroute =>
    intro n pos s listens member staging
    have run := execChainReroute_taken listens member staging n pos
    exact ⟨_, run, sendOffer_next _, execChainReroute_only _ _ _ _ run⟩
  case abort =>
    intro s listens member staging
    exact ⟨_, execChainAbort_taken listens member staging, emptyStaging_staging _⟩
  case done =>
    intro src res s listens origin staging known
    obtain ⟨k, t, now, run⟩ := execChainDone_taken listens origin staging known res
    exact ⟨_, run, congrArg Chain.progressAt (event_chain ..), execChainDone_only _ _ _ run⟩
  case silent =>
    intro n pos s listens staging next open_ silent
    have run := execChainReceiverSilent_due listens staging next open_ silent
    exact ⟨_, run, sendOffer_heardAt next, execChainReceiverSilent_only run⟩
  case stall =>
    intro s running staging long
    obtain ⟨t, run⟩ := execChainStall_due running staging long
    exact ⟨_, run, emptyStaging_staging t⟩

end Sys2Proof.Laws

/-!
PROOF. The step of the block (chapter 0), and the canonical form of the witness store and of the panel, which every step keeps (chapters 12
and 13, R405, R411).
-/

namespace Sys2Proof.Laws

open Sys2Proof.Machine Sys2Proof.Safety

/-- Settles O1: a queue with a command in front is the first case of step. -/
theorem stepRunsFrontCommand : Obligations.StepRunsFrontCommand := fun _ _ _ => rfl

/-- An empty queue is the second case of step. -/
theorem step_of_empty {s : State} (empty : s.pending = []) : step s = .next s := by
  simp only [step, empty]

/-- Settles O2: an empty queue idles, and the decoder spells no command. -/
theorem emptyQueueIdles : Obligations.EmptyQueueIdles :=
  ⟨fun _ empty => step_of_empty empty, fun _ _ => rfl, fun _ _ _ => rfl⟩

/-- Settles O4: nothing is listed as the device leaves manufacture. -/
theorem buffersCanonicalAtReset : Obligations.BuffersCanonicalAtReset := ⟨rfl, rfl, rfl⟩

/-- The canonical form is on the left side of Lasts. -/
theorem buffersCanonical_of_lasts {b : Bool} {s t : State} (h : BuffersCanonical s) (k : Lasts b s t) : BuffersCanonical t := by
  obtain ⟨store, shown, target⟩ := h
  exact ⟨k.store store, k.shown shown, k.target target⟩

/-- Settles O5: a step idles or executes one command on the rest of the queue, and no command loses the canonical form (exec_lasts). -/
theorem stepsKeepBuffersCanonical : Obligations.StepsKeepBuffersCanonical := by
  unfold Obligations.StepsKeepBuffersCanonical
  intro s t canonical h
  obtain ⟨c, rest, -, run⟩ | ⟨-, rfl⟩ := stepsTo_cases h
  · have canonical : BuffersCanonical { s with pending := rest } := canonical
    exact buffersCanonical_of_lasts canonical (exec_lasts run)
  · exact canonical

end Sys2Proof.Laws

/-!
PROOF. The card reader (chapter 12, R393 to R399, R409): the field, poll cycles, rounds, the held card and its exchanges.
-/

namespace Sys2Proof.Laws

open Sys2Proof.Machine Sys2Proof.Safety

@[simp] theorem emit_rdr (code : Nat) (payload : List Byte) (ack : Bool) (s : State) : (emit code payload ack s).rdr = s.rdr :=
  Part.kept (p := .rdr) (by simp [emit_only, OnlyChanges.refl])

@[simp] theorem event_rdr (code : Nat) (payload : List Byte) (s : State) : (event code payload s).rdr = s.rdr := emit_rdr ..

@[simp] theorem releaseOpt_rdr (id : Option Nat) (s : State) : (releaseOpt id s).rdr = s.rdr :=
  Part.kept (p := .rdr) (by simp [releaseOpt_only, OnlyChanges.refl])

/-! The field (R393). -/

/-- A field that goes off leaves no leave, no round and no held card. -/
theorem fieldOff_rdr (st : Nat) (s : State) : ∃ off, (fieldOff st s).rdr =
    { s.rdr with req := none, roundAt := none, held := none, state := st, offAt := off } := by
  unfold fieldOff
  dsimp only
  rw [releaseOpt_rdr]
  exact ⟨_, rfl⟩

theorem requestField_rdr (s : State) : (requestField s).rdr = { s.rdr with req := some s.ease.nextId } := by
  unfold requestField
  dsimp only [submit]
  rw [releaseOpt_rdr]
  rfl

/-- A field that holds no leave yet asks for it in class 6. -/
theorem requestField_asks {s : State} (none : s.rdr.req = none) :
    ∃ r, (requestField s).ease.requests = s.ease.requests ++ [r] ∧ r.cls = 6 := by
  simp only [requestField, none, releaseOpt]
  exact ⟨_, rfl, rfl⟩

/-! Poll cycles (R393). -/

/-- The antenna's reading touches its own three fields. -/
theorem antennaCheck_rdr (mv : Nat) (s : State) : ∃ m bad ref, (antennaCheck mv s).rdr =
    { s.rdr with antennaMv := m, antennaFault := bad, commissionMv := ref } := by
  unfold antennaCheck
  dsimp only
  split
  · exact ⟨_, _, _, rfl⟩
  · rw [event_rdr]
    exact ⟨_, _, _, rfl⟩

@[simp] theorem antennaCheck_ease (mv : Nat) (s : State) : (antennaCheck mv s).ease = s.ease :=
  Part.kept (p := .ease) (by simp [antennaCheck_only, OnlyChanges.refl])

/-- s with a poll cycle begun and its detection pulse read. -/
def polled (mv : Nat) (s : State) : State :=
  antennaCheck mv { s with rdr := { s.rdr with pollAt := some s.now, active := s.rdr.config } }

theorem polled_rdr (mv : Nat) (s : State) : ∃ m bad ref, (polled mv s).rdr =
    { s.rdr with pollAt := some s.now, active := s.rdr.config, antennaMv := m, antennaFault := bad, commissionMv := ref } :=
  antennaCheck_rdr mv _

theorem polled_ease (mv : Nat) (s : State) : (polled mv s).ease = s.ease := antennaCheck_ease ..

/-- The amplitude has left the running reference by more than the threshold of the configuration. -/
def amplitudeMoved (mv : Nat) (s : State) : Bool :=
  s.rdr.reference != 0 && decide (fld s.rdr.config 32 8 * s.rdr.reference < 1000 * ((mv : Int) - s.rdr.reference).natAbs)

/-- A cycle that makes a full round: always without detection, else after a card or a moved amplitude. -/
def fullRound (mv : Nat) (s : State) : Bool := !bit s.rdr.config 4 || s.rdr.again || amplitudeMoved mv s

theorem execPollCycle_due {mv : Nat} {s : State} (first : s.rdr.pollAt = none) (rested : fieldRested s = true) (on : readerOn s = true)
    (req : s.rdr.req = none) (held : s.rdr.held = none) : execPollCycle mv s = .next (if fullRound mv s then
      requestField ((polled mv s).withRdr { (polled mv s).rdr with state := 2 })
      else (polled mv s).withRdr { (polled mv s).rdr with state := if (polled mv s).rdr.antennaFault then 7 else 1, reference := sat 16 mv }) := by
  have run : s.regionsRun = true := by
    simp only [readerOn, Bool.and_eq_true] at on
    exact on.1.1.1.1
  have still : readerOn { s with rdr := { s.rdr with pollAt := some s.now, active := s.rdr.config } } = true := on
  simp only [execPollCycle, first]
  rw [if_neg (by simp [run, rested]), if_neg (by simp [still]), if_neg (by simp [req, held])]
  exact (apply_ite ..).symm

/-! Rounds (R398, R399). -/

/-- u with a round's result shown. -/
def roundEnded (found : List Cred) (u : State) : State :=
  { u with rdr := { u.rdr with
      cards := found.length, several := if 2 ≤ found.length then found.map credBytes else [],
      again := !found.isEmpty || !u.rdr.present.isEmpty, roundAt := none } }

/-- A round without a card, and one with a card that is not held, end the field. -/
theorem execReaderRoundEnd_empty {cards : List Card} {s : State} (state : s.rdr.state = 3) (none : credentials s cards = []) :
    ∃ u, execReaderRoundEnd cards s = .next (fieldOff 1 (roundEnded [] u)) := by
  simp only [execReaderRoundEnd, state, none]
  exact ⟨_, rfl⟩

theorem execReaderRoundEnd_held {cards : List Card} {c : Cred} {s : State} (state : s.rdr.state = 3) (one : credentials s cards = [c])
    (iso4 : c.iso4 = true) : ∃ u, execReaderRoundEnd cards s = .next { roundEnded [c] u with
      rdr := { (roundEnded [c] u).rdr with state := 6, held := some c, heldAt := s.now, renewAt := s.now } } := by
  simp only [execReaderRoundEnd, state, one, iso4]
  exact ⟨_, rfl⟩

theorem execReaderRoundEnd_one {cards : List Card} {c : Cred} {s : State} (state : s.rdr.state = 3) (one : credentials s cards = [c])
    (iso4 : c.iso4 = false) : ∃ u, execReaderRoundEnd cards s = .next (fieldOff 4 (roundEnded [c] u)) := by
  simp only [execReaderRoundEnd, state, one, iso4]
  exact ⟨_, rfl⟩

theorem execReaderRoundEnd_several {cards : List Card} {a b : Cred} {l : List Cred} {s : State} (state : s.rdr.state = 3)
    (found : credentials s cards = a :: b :: l) : ∃ u, execReaderRoundEnd cards s = .next (fieldOff 5 (roundEnded (a :: b :: l) u)) := by
  simp only [execReaderRoundEnd, state, found]
  exact ⟨_, rfl⟩

/-! The held card (R399, R409). -/

theorem execCardHoldTimeout_due {s : State} (held : s.rdr.held.isSome = true) (idle : s.rdr.apdu = none)
    (late : s.rdr.heldAt + secF 2 ≤ s.now) : execCardHoldTimeout s = .next (fieldOff 4 s) :=
  if_pos ⟨held, by rw [idle]; rfl, late⟩

theorem execReaderLeaveRenew_due {s : State} (held : s.rdr.held.isSome = true) (due : s.rdr.renewAt + msF 100 ≤ s.now) :
    execReaderLeaveRenew s = .next (requestField (s.withRdr { s.rdr with renewAt := s.now })) :=
  if_pos ⟨held, due⟩

/-- s with an exchange begun. -/
def apduBegun (h : Hdr) (m : List Byte) (ms : Nat) (s : State) : State :=
  s.withRdr { s.rdr with apdu := some (m, s.now, ms), apduAck := flagAck h.flags, apduReport := true, heldAt := s.now }

theorem withRdr_only {l : List Part} {u s : State} (v : Reader) (k : Part.rdr ∈ l) (h : OnlyChanges l u s) :
    OnlyChanges l u (s.withRdr v) := by
  apply OnlyChanges.upd h
  case h19 => exact fun absent => absurd k absent
  all_goals exact fun _ => rfl

theorem cardApduCmd_accepted {h : Hdr} {ms : Nat} {m : List Byte} {s : State} (role : 1 ≤ s.roles.role) (mode : readerMode s = true)
    (low : 10 ≤ ms) (high : ms ≤ 5000) (long : 4 ≤ m.length) (short : m.length ≤ 1024) (idle : s.rdr.apdu = none) :
    cardApduCmd h (le 2 ms ++ le 2 m.length ++ m) s = { run := if s.rdr.held.isNone then { st := s, status := .notConfirmed }
      else { st := apduBegun h m ms s, status := .queued } } := by
  have payload : le 2 ms ++ le 2 m.length ++ m = le 2 ms ++ (le 2 m.length ++ m) := List.append_assoc ..
  have time : numAt (le 2 ms ++ le 2 m.length ++ m) 0 2 = ms := payload ▸ numAt_le 2 ms _ (by omega)
  have count : numAt (le 2 ms ++ le 2 m.length ++ m) 2 2 = m.length :=
    payload ▸ numAt_append (le 2 ms) m 2 2 m.length (le_length 2 ms) (by omega)
  have bytes : (le 2 ms ++ le 2 m.length ++ m).drop 4 = m := List.drop_left' (by simp [le_length])
  simp only [cardApduCmd, time, count, bytes, mode, idle]
  simp [le_length, role, low, high, long, short, apduBegun]
  omega

theorem apduDone_rdr {m : List Byte} {t0 ms : Nat} {s : State} (under : s.rdr.apdu = some (m, t0, ms)) (result : Nat) (rsp : List Byte) :
    (apduDone result rsp s).rdr = { s.rdr with apdu := none, apduAck := false, apduReport := true, heldAt := s.now } := by
  simp only [apduDone, under]
  split
  · exact emit_rdr ..
  · rfl

end Sys2Proof.Laws

/-!
PROOF. The witness tag (chapter 12, R400 to R406): what a write to its store leaves to read, the field's commands, notes and their import.
-/

namespace Sys2Proof.Laws

open Sys2Proof.Machine Sys2Proof.Safety

/-! Reading after a write. -/

/-- A run of writes is read back, and elsewhere the store reads as before. -/
theorem read_writeAll (d : Byte) (a : Nat) (b : List Byte) {l : List Host.Cell} (k : Memory.wf d l = true) (x : Nat) :
    Memory.read d (Memory.writeAll d a b l) x = if a ≤ x ∧ x < a + b.length then b.getD (x - a) d else Memory.read d l x := by
  induction b generalizing a l with
  | nil =>
    rw [if_neg (by simp only [List.length_nil]; omega)]
    rfl
  | cons v t ih =>
    rw [Memory.writeAll, ih (a + 1) (Memory.write_wf d a v k), Memory.read_write d a x v k]
    simp only [List.length_cons]
    by_cases at_ : x = a
    · subst at_
      rw [if_neg (by omega), if_pos rfl, if_pos (by omega), Nat.sub_self]
      rfl
    · rw [if_neg at_]
      by_cases inside : a + 1 ≤ x ∧ x < a + 1 + t.length
      · rw [if_pos inside, if_pos (by omega), show x - a = x - (a + 1) + 1 by omega]
        rfl
      · rw [if_neg inside, if_neg (by omega)]

/-- Bytes read where others were written stay as they were. -/
theorem storeBytes_putStore_apart {a x n : Nat} {b : List Byte} {s : State} (k : Memory.wf 0 s.tag.store = true)
    (apart : a + b.length ≤ x ∨ x + n ≤ a) : storeBytes (putStore a b s) x n = storeBytes s x n := by
  refine List.map_congr_left fun i mem => ?_
  have inside : i < n := List.mem_range.mp mem
  show Memory.read 0 (Memory.writeAll 0 a b s.tag.store) (x + i) = _
  rw [read_writeAll 0 a b k, if_neg (by omega)]

/-- What was written is read back, from its first byte on. -/
theorem storeBytes_putStore_self {a n : Nat} {b : List Byte} {s : State} (k : Memory.wf 0 s.tag.store = true) (inside : n ≤ b.length) :
    storeBytes (putStore a b s) a n = b.take n := by
  have bytes : storeBytes (putStore a b s) a n = (List.range n).map (fun i => b.getD i 0) := by
    refine List.map_congr_left fun i mem => ?_
    have short : i < n := List.mem_range.mp mem
    show Memory.read 0 (Memory.writeAll 0 a b s.tag.store) (a + i) = _
    rw [read_writeAll 0 a b k, if_pos (by omega), Nat.add_sub_cancel_left]
  rw [bytes]
  refine List.ext_getElem (by simp [inside]) fun i left right => ?_
  simp only [List.length_map, List.length_range] at left
  rw [List.getElem_map, List.getElem_range, List.getElem_take, List.getD_eq_getElem]

theorem storeBytes_add (s : State) (a n m : Nat) : storeBytes s a (n + m) = storeBytes s a n ++ storeBytes s (a + n) m := by
  simp only [storeBytes, Memory.range, List.range_add, List.map_append, List.map_map, Nat.add_assoc]
  rfl

theorem putStore_wf {a : Nat} {b : List Byte} {s : State} (k : Memory.wf 0 s.tag.store = true) :
    Memory.wf 0 (putStore a b s).tag.store = true := Memory.writeAll_wf 0 a b k

theorem putStore_torn (a : Nat) (b : List Byte) (s : State) : (putStore a b s).tag.torn = s.tag.torn := rfl

/-! Fields of bytes. -/

theorem ofBytes_lt (p : List Byte) : ofBytes p < 256 ^ p.length := by
  induction p with
  | nil => decide
  | cons b t ih =>
    have first : b.toNat < 256 := b.isLt
    rw [ofBytes, List.length_cons, Nat.pow_succ]
    omega

theorem le_take (k j n : Nat) : (le (k + j) n).take k = le k n := by
  induction k generalizing n with
  | zero => simp [le]
  | succ k ih => rw [Nat.succ_add, le, le, List.take_succ_cons, ih]

/-- The first field of a packed object of at least its width. -/
theorem packBits_first (v w : Nat) (l : List (Nat × Nat)) : packBits ((v, w) :: l) % 2 ^ w = v % 2 ^ w := by
  rw [packBits, Nat.add_mul_mod_self_left, Nat.mod_mod]

/-! The field side (R400, R401, R404). -/

theorem execWtagSelect_field {s : State} (field : s.tag.field = true) (aid : List Byte) : execWtagSelect aid s =
    .next (if aid = witnessAid then tagAnswer [] 0x90 0x00 { s with tag := { s.tag with selected := true } } else tagAnswer [] 0x6A 0x82 s) := by
  rw [execWtagSelect, if_neg (by simp [field])]
  exact (apply_ite ..).symm

theorem execGetLiveStatus_selected {s : State} (field : s.tag.field = true) (selected : s.tag.selected = true) (mv : Nat) : ∃ fields,
    packWidth ((stampOf s.clock.legal, 48) :: fields) = 128 ∧ execGetLiveStatus 16 mv s =
      .next (tagAnswer (packBytes ((stampOf s.clock.legal, 48) :: fields)) 0x90 0x00 (s.withTag { s.tag with harvestMv := sat 16 mv })) := by
  simp only [execGetLiveStatus, field, selected]
  exact ⟨_, by rfl, rfl⟩

/-- A packed object of 16 bytes begins with its first field. -/
theorem packBytes_time {t : Nat} {fields : List (Nat × Nat)} (width : packWidth ((t, 48) :: fields) = 128) :
    (packBytes ((t, 48) :: fields)).length = 16 ∧ ∀ q, numAt (packBytes ((t, 48) :: fields) ++ q) 0 6 = t % 2 ^ 48 := by
  rw [packBytes, width]
  refine ⟨le_length .., fun q => ?_⟩
  rw [numAt, List.drop_zero, List.take_append_of_le_length (by simp [le_length]), le_take 6 10, ofBytes_le]
  exact packBits_first ..

/-! Notes (R405, R406). -/

/-- What the store shows is read from its bytes. -/
theorem storeBytes_congr {s t : State} (same : t.tag.store = s.tag.store) : storeBytes t = storeBytes s := by
  funext a n
  rw [storeBytes, same]
  rfl

theorem nextNoteNo_congr {s t : State} (same : t.tag.store = s.tag.store) : nextNoteNo t = nextNoteNo s := by
  rw [nextNoteNo, storeBytes_congr same]
  rfl

theorem importedMask_congr {s t : State} (same : t.tag.store = s.tag.store) : importedMask t = importedMask s := by
  rw [importedMask, storeBytes_congr same]
  rfl

theorem noteNo_congr {s t : State} (same : t.tag.store = s.tag.store) (k : Nat) : noteNo t k = noteNo s k := by
  rw [noteNo, storeBytes_congr same]
  rfl

theorem noteValid_congr {s t : State} (same : t.tag.store = s.tag.store) (k : Nat) : noteValid t k = noteValid s k := by
  simp only [noteValid, storeBytes_congr same]

theorem slot_lt_of_chosen {s : State} {k : Nat} (chosen : chooseSlot s = some k) : k < 64 := by
  obtain ⟨i, -, slot⟩ := List.mem_map.mp (List.mem_of_find?_eq_some chosen)
  omega

theorem noteBytes_head (s : State) (data : List Byte) : ∃ r, noteBytes s data = le 4 (nextNoteNo s) ++ r := by
  simp only [noteBytes, List.append_assoc]
  exact ⟨_, rfl⟩

theorem noteBytes_length {s : State} {data : List Byte} (long : 16 ≤ data.length) : (noteBytes s data).length = 508 := by
  simp only [noteBytes, stampB, List.length_append, le_length, padTo_length, List.length_take, Nat.min_eq_left long]

/-- The commit word of a note: the complement of the CRC of its bytes (R406). -/
def commitWord (s : State) (data : List Byte) : Nat := 0xFFFFFFFF - crc32c ((noteBytes s data).take 504)

/-- s with every step of a note made: the word spoiled, the slot's IMPORTED bit cleared, the bytes, NEXT_NOTE_NO, the commit word. -/
def noteWritten (k : Nat) (data : List Byte) (word : Nat) (s : State) : State :=
  putStore (noteAt k + 508) (le 4 (commitWord s data)) (putStore 0xF4 (le 4 (nextNoteNo s + 1)) (putStore (noteAt k) (noteBytes s data)
    (putStore 0xF8 (objBytes (setBit (importedMask s) k false)) (putStore (noteAt k + 508) (le 4 word) s))))

theorem appendSteps_whole {last : Nat} (whole : 5 ≤ last) (k : Nat) (data : List Byte) (s : State) :
    ∃ word, appendSteps k data last s = noteWritten k data word s := by
  simp only [appendSteps]
  rw [if_pos (by omega), if_pos (by omega), if_pos (by omega)]
  exact ⟨_, rfl⟩

theorem appendSteps_none {last : Nat} (first : last < 2) (k : Nat) (data : List Byte) (s : State) : appendSteps k data last s = s := by
  simp only [appendSteps]
  rw [if_neg (by omega), if_neg (by omega), if_neg (by omega), if_neg (by omega)]

theorem appendSteps_torn (k : Nat) (data : List Byte) (s : State) : (appendSteps k data 3 s).tag.torn = satInc 16 s.tag.torn := by
  simp only [appendSteps]
  rw [if_neg (by omega), if_pos trivial, if_pos (by omega), if_pos (by omega)]
  simp only [putStore_torn]

theorem setBit_cleared {w : Nat} (r : BitVec w) (k : Nat) (inside : k < w) : bit (setBit r k false) k = false := by
  simp only [bit, setBit, Bool.false_eq_true, if_false, BitVec.getLsbD_and, BitVec.getLsbD_not, BitVec.getLsbD_ofNat, inside, decide_true,
    Nat.testBit_two_pow_self, Bool.and_self, Bool.not_true, Bool.and_false]

section

variable {k word : Nat} {data : List Byte} {s : State} (canonical : Memory.wf 0 s.tag.store = true) (long : 16 ≤ data.length)

include canonical long

/-- A note that is written whole is read back with its commit word; the head of the store shows the next number, and the slot
as not imported. -/
theorem noteWritten_bytes : storeBytes (noteWritten k data word s) (noteAt k) 512 = noteBytes s data ++ le 4 (commitWord s data) ∧
    storeBytes (noteWritten k data word s) 0xF4 4 = le 4 (nextNoteNo s + 1) ∧
    storeBytes (noteWritten k data word s) 0xF8 8 = objBytes (setBit (importedMask s) k false) := by
  have far : 0x7000 ≤ noteAt k := Nat.le_add_right ..
  have length := noteBytes_length (s := s) long
  have mask : (objBytes (setBit (importedMask s) k false)).length = 8 := le_length ..
  have wf1 := putStore_wf (a := noteAt k + 508) (b := le 4 word) canonical
  have wf2 := putStore_wf (a := 0xF8) (b := objBytes (setBit (importedMask s) k false)) wf1
  have wf3 := putStore_wf (a := noteAt k) (b := noteBytes s data) wf2
  have wf4 := putStore_wf (a := 0xF4) (b := le 4 (nextNoteNo s + 1)) wf3
  refine ⟨?_, ?_, ?_⟩
  · rw [storeBytes_add _ _ 508 4, noteWritten, storeBytes_putStore_apart wf4 (by omega), storeBytes_putStore_self wf4 (by simp [le_length]),
      storeBytes_putStore_apart wf3 (by simp only [le_length]; omega), storeBytes_putStore_self wf2 (by omega),
      List.take_of_length_le (by omega), List.take_of_length_le (by simp [le_length])]
  · rw [noteWritten, storeBytes_putStore_apart wf4 (by omega), storeBytes_putStore_self wf3 (by simp [le_length]),
      List.take_of_length_le (by simp [le_length])]
  · rw [noteWritten, storeBytes_putStore_apart wf4 (by omega), storeBytes_putStore_apart wf3 (by simp only [le_length]; omega),
      storeBytes_putStore_apart wf2 (by omega), storeBytes_putStore_self wf1 (by omega), List.take_of_length_le (by omega)]

theorem noteWritten_number : noteNo (noteWritten k data word s) k = nextNoteNo s := by
  obtain ⟨bytes, -, -⟩ := noteWritten_bytes (k := k) (word := word) canonical long
  obtain ⟨r, head⟩ := noteBytes_head s data
  have first := congrArg (List.take 4) ((storeBytes_add (noteWritten k data word s) (noteAt k) 4 508).symm.trans bytes)
  rw [List.take_left' (by simp [storeBytes, Memory.range]), head, List.append_assoc, List.take_left' (le_length ..)] at first
  rw [noteNo, first, ofBytes_le]
  refine Nat.mod_eq_of_lt ?_
  have bound := ofBytes_lt (storeBytes s 0xF4 4)
  rwa [show (storeBytes s 0xF4 4).length = 4 by simp [storeBytes, Memory.range]] at bound

theorem noteWritten_valid : noteValid (noteWritten k data word s) k = true := by
  obtain ⟨bytes, -, -⟩ := noteWritten_bytes (k := k) (word := word) canonical long
  have length := noteBytes_length (s := s) long
  have small : commitWord s data < 256 ^ 4 := by
    rw [commitWord]
    omega
  simp only [noteValid, bytes]
  rw [numAt_last _ 508 4 _ length small, List.take_append_of_le_length (by omega)]
  exact beq_self_eq_true _

end

theorem nextNoteNo_of_bytes {n : Nat} {t : State} (bytes : storeBytes t 0xF4 4 = le 4 n) : nextNoteNo t = n % 2 ^ 32 := by
  rw [nextNoteNo, bytes, ofBytes_le, show 256 ^ 4 = 2 ^ 32 from rfl]

theorem importedMask_of_bytes {mask : BitVec 64} {t : State} (bytes : storeBytes t 0xF8 8 = objBytes mask) : importedMask t = mask := by
  have whole : mask.toNat % 256 ^ 8 = mask.toNat := Nat.mod_eq_of_lt mask.isLt
  rw [importedMask, bytes, objBytes]
  show BitVec.ofNat 64 (ofBytes (le 8 mask.toNat)) = mask
  rw [ofBytes_le, whole, BitVec.ofNat_toNat, BitVec.setWidth_eq]

/-- s with an APPEND NOTE made as far as its field held. -/
def noteAppended (k : Nat) (data : List Byte) (last : Nat) (s : State) : State :=
  let u := appendSteps k data last s
  u.withTag { u.tag with lastStep := min last 5 }

theorem execAppendNote_taken {mv rv k : Nat} {data : List Byte} {s : State} (field : s.tag.field = true) (selected : s.tag.selected = true)
    (long : 16 ≤ data.length) (short : data.length ≤ 490) (harvest : 2400 ≤ mv) (reserve : 2300 ≤ rv) (chosen : chooseSlot s = some k)
    (enabled : bit s.tag.config 0 = true) (last : Nat) : execAppendNote mv rv data last s =
      .next (if 5 ≤ last then tagAnswer (le 4 (nextNoteNo s)) 0x90 0x00 (noteAppended k data last s)
        else (noteAppended k data last s).withTag { (noteAppended k data last s).tag with field := false, selected := false, response := [] }) := by
  simp only [execAppendNote, chosen]
  rw [if_neg (by simp [field]), if_neg (by simp [selected]), if_neg (by omega), if_neg (by omega), if_neg (by simp [enabled])]
  exact (apply_ite ..).symm

/-! The wire side (R402, R405). -/

theorem execVisitNoteImport_next {k : Nat} {s : State} (wire : wireSide s = true) (idle : s.tag.importReq = none) (next : nextImport s = some k) :
    ∃ r, r.cls = 7 ∧ execVisitNoteImport s = .next ((submit r s).withTag { s.tag with importReq := some s.ease.nextId }) := by
  have whole : s.faults.witness = false := by
    simp only [wireSide, Bool.and_eq_true, Bool.not_eq_true'] at wire
    exact wire.1.2
  simp only [execVisitNoteImport, wire, idle, requestImport, whole, next]
  exact ⟨_, rfl, rfl⟩

theorem execTotalsSnapshot_first {s : State} (wire : wireSide s = true) (first : s.tag.totalsAt = 0) (us : Nat) : ∃ w,
    execTotalsSnapshot us s = .next ((writeTotals s).withTag { (writeTotals s).tag with waitMax := w }) := by
  simp only [execTotalsSnapshot, wire, first]
  exact ⟨_, rfl⟩

/-- The copies are switched once the snapshots are written. -/
theorem writeTotals_copy {s : State} (canonical : Memory.wf 0 s.tag.store = true) :
    ofBytes (storeBytes (writeTotals s) 0xF0 1) = if ofBytes (storeBytes s 0xF0 1) = 1 then 0 else 1 := by
  have read (a n : Nat) (t : State) : storeBytes (writeTotals s) 0xF0 1 = storeBytes (putStore 0xF0
      (le 1 (if ofBytes (storeBytes s 0xF0 1) = 1 then 0 else 1)) (putStore (if ofBytes (storeBytes s 0xF0 1) = 1 then 0x1000 else 0x2000)
        (((List.range 9).map (snapshot s)).flatten) s)) 0xF0 1 := rfl
  rw [read 0 0 s, storeBytes_putStore_self (putStore_wf canonical) (by simp [le_length]), List.take_of_length_le (by simp [le_length]), ofBytes_le]
  split <;> rfl

end Sys2Proof.Laws

/-! PROOF. O58: the card reader and the witness tag (chapter 12). -/

namespace Sys2Proof.Laws

open Sys2Proof.Machine Sys2Proof.Safety

/-- A cycle that detects nothing: no card in the last round and no amplitude that moved by more than the threshold. -/
theorem fullRound_still {mv : Nat} {s : State} (detects : bit s.rdr.config 4 = true) (once : s.rdr.again = false)
    (still : 1000 * ((mv : Int) - s.rdr.reference).natAbs ≤ fld s.rdr.config 32 8 * s.rdr.reference) : fullRound mv s = false := by
  have unmoved : amplitudeMoved mv s = false := by
    rw [amplitudeMoved, decide_eq_false (Nat.not_lt.mpr still), Bool.and_false]
  rw [fullRound, detects, once, unmoved]
  rfl

theorem execCardApdu_begun {h : Hdr} {ms : Nat} {m : List Byte} {s : State} (a : Accepted h 0x0910 (le 2 ms ++ le 2 m.length ++ m) s)
    (role : 1 ≤ s.roles.role) (mode : readerMode s = true) (low : 10 ≤ ms) (high : ms ≤ 5000) (long : 4 ≤ m.length)
    (short : m.length ≤ 1024) (idle : s.rdr.apdu = none) : execCardApdu h (le 2 ms ++ le 2 m.length ++ m) s = .next (if s.rdr.held.isNone
      then answered s h 0x0910 (le 2 ms ++ le 2 m.length ++ m) .notConfirmed [] (touchRole s)
      else answered s h 0x0910 (le 2 ms ++ le 2 m.length ++ m) .queued [] (apduBegun h m ms (touchRole s))) := by
  have cmd := cardApduCmd_accepted (h := h) (s := touchRole s) (role_le_touchRole role) mode low high long short idle
  refine congrArg Host.Outcome.next ?_
  cases held : s.rdr.held with
  | none =>
    have held : (touchRole s).rdr.held = none := held
    rw [held] at cmd
    exact hostCommand_done a cmd nofun
  | some c =>
    have held : (touchRole s).rdr.held = some c := held
    rw [held] at cmd
    exact hostCommand_done a cmd nofun

/-- Settles O58, clause by clause: the reader's procedures by what they leave in its part, the tag's by what its store then reads. -/
theorem readerAndWitnessTag : Obligations.ReaderAndWitnessTag := by
  refine ⟨?poll, ?round, ?hold, ?renew, ?apdu, ?apduDone, ?select, ?read, ?live, ?note, ?field, ?imported, ?totals⟩
  case poll =>
    intro mv s first rested on req held
    obtain ⟨m, bad, ref, rdr⟩ := polled_rdr mv s
    have ease := polled_ease mv s
    refine ⟨_, execPollCycle_due first rested on req held, ?_, fun full => ?_, fun detects once still => ?_⟩
    · split
      · rw [requestField_rdr]
        exact congrArg Reader.pollAt rdr
      · exact congrArg Reader.pollAt rdr
    · have full : fullRound mv s = true := by
        rcases full with always | again
        · rw [fullRound, always]
          rfl
        · rw [fullRound, again, Bool.or_true]
          rfl
      rw [if_pos full, requestField_rdr]
      have none : ((polled mv s).withRdr { (polled mv s).rdr with state := 2 }).rdr.req = none := (congrArg Reader.req rdr).trans req
      obtain ⟨r, asked, cls⟩ := requestField_asks none
      exact ⟨rfl, congrArg (fun e => some (Ease.nextId e)) ease, r, asked.trans (congrArg (fun e => Ease.requests e ++ [r]) ease), cls⟩
    · rw [if_neg (by rw [fullRound_still detects once still]; nofun)]
      exact ⟨rfl, rfl, ease⟩
  case round =>
    intro cards s state
    match found : credentials s cards with
    | [] =>
      obtain ⟨u, run⟩ := execReaderRoundEnd_empty state found
      obtain ⟨off, rdr⟩ := fieldOff_rdr 1 (roundEnded [] u)
      refine ⟨_, run, ?_⟩
      rw [rdr]
      exact ⟨rfl, rfl, fun _ => ⟨rfl, rfl, rfl⟩, nofun, nofun, fun two => absurd two (by decide)⟩
    | [c] =>
      cases iso4 : c.iso4 with
      | true =>
        obtain ⟨u, run⟩ := execReaderRoundEnd_held state found iso4
        refine ⟨_, run, rfl, rfl, nofun, fun d one _ => ?_, fun d one other => ?_, fun two => absurd two (by simp)⟩
        · obtain rfl : c = d := (List.cons.inj one).1
          exact ⟨rfl, rfl, rfl⟩
        · obtain rfl : c = d := (List.cons.inj one).1
          exact absurd (iso4.symm.trans other) nofun
      | false =>
        obtain ⟨u, run⟩ := execReaderRoundEnd_one state found iso4
        obtain ⟨off, rdr⟩ := fieldOff_rdr 4 (roundEnded [c] u)
        refine ⟨_, run, ?_⟩
        rw [rdr]
        refine ⟨rfl, rfl, nofun, fun d one other => ?_, fun _ _ _ => ⟨rfl, rfl, rfl⟩, fun two => absurd two (by simp)⟩
        obtain rfl : c = d := (List.cons.inj one).1
        exact absurd (iso4.symm.trans other) nofun
    | a :: b :: l =>
      obtain ⟨u, run⟩ := execReaderRoundEnd_several state found
      obtain ⟨off, rdr⟩ := fieldOff_rdr 5 (roundEnded (a :: b :: l) u)
      refine ⟨_, run, ?_⟩
      rw [rdr]
      exact ⟨rfl, rfl, nofun, nofun, nofun, fun two => ⟨rfl, rfl, rfl⟩⟩
  case hold =>
    intro s held idle late
    have run := execCardHoldTimeout_due held idle late
    obtain ⟨off, rdr⟩ := fieldOff_rdr 4 s
    refine ⟨_, run, ?_, ?_, ?_, execCardHoldTimeout_only run⟩
    all_goals rw [rdr]
  case renew =>
    intro s held due
    have run := execReaderLeaveRenew_due held due
    refine ⟨_, run, ?_, ?_, ?_, execReaderLeaveRenew_only run⟩
    all_goals rw [requestField_rdr]
  case apdu =>
    intro h ms m s a role mode low high long short idle
    have run := execCardApdu_begun a role mode low high long short idle
    refine ⟨fun held => ?_, fun none => ?_⟩
    · rw [if_neg (by simpa [Option.isNone_iff_eq_none, Option.isSome_iff_ne_none] using held)] at run
      exact ⟨_, run, rfl, rfl, withRdr_only _ (by decide) (touchRole_only (by decide) (.refl _ s))⟩
    · rwa [if_pos (by rw [none]; rfl)] at run
  case apduDone =>
    intro rsp m t0 ms s under
    have done (result : Nat) := apduDone_rdr under result
    refine ⟨?_, ?_⟩
    · have run : execCardApduDone 0 rsp s = .next (apduDone 0 rsp s) := by rw [execCardApduDone, under]; rfl
      refine ⟨_, run, ?_, ?_, ?_, apduDone_only _ _ (by decide) (by decide) (by decide) (.refl _ s)⟩
      all_goals rw [done]
    · have run : execCardApduDone 2 rsp s = .next (fieldOff 1 (apduDone 2 [] s)) := by rw [execCardApduDone, under]; rfl
      obtain ⟨off, rdr⟩ := fieldOff_rdr 1 (apduDone 2 [] s)
      refine ⟨_, run, ?_, ?_, ?_⟩
      all_goals rw [rdr, done]
  case select =>
    intro aid s field
    have run := execWtagSelect_field field aid
    refine ⟨_, run, ?_, fun own => ?_, fun other => ?_, execWtagSelect_only _ run⟩
    · split <;> rfl
    · rw [if_pos own]
      exact ⟨rfl, rfl⟩
    · rw [if_neg other]
      exact ⟨rfl, rfl⟩
  case read =>
    intro block n s field low high
    cases selected : s.tag.selected with
    | false =>
      have run : execWtagReadBinary block n s = .next (tagAnswer [] 0x69 0x86 s) := by simp [execWtagReadBinary, field, selected]
      exact ⟨_, run, rfl, fun _ => rfl, nofun, nofun, execWtagReadBinary_only _ _ run⟩
    | true =>
      by_cases inside : block ≤ 1023
      · have length : (if n % 256 = 0 then 256 else n % 256) = n := by split <;> omega
        have run : execWtagReadBinary block n s = .next (tagAnswer (storeBytes s (256 * block) n) 0x90 0x00 s) := by
          simp [execWtagReadBinary, field, selected, Nat.not_lt.mpr inside, length]
        exact ⟨_, run, rfl, nofun, fun _ out => absurd inside (Nat.not_le.mpr out), fun _ _ => rfl, execWtagReadBinary_only _ _ run⟩
      · have run : execWtagReadBinary block n s = .next (tagAnswer [] 0x6A 0x86 s) := by
          simp [execWtagReadBinary, field, selected, Nat.not_le.mp inside]
        exact ⟨_, run, rfl, nofun, fun _ _ => rfl, fun _ inside' => absurd inside' inside, execWtagReadBinary_only _ _ run⟩
  case live =>
    intro mv s field selected
    obtain ⟨fields, width, run⟩ := execGetLiveStatus_selected field selected mv
    obtain ⟨length, time⟩ := packBytes_time width
    exact ⟨_, run, by simp [tagAnswer, length], List.drop_left' length, time _, rfl, execGetLiveStatus_only _ _ run⟩
  case note =>
    intro mv rv data last k s field selected long short harvest reserve canonical chosen enabled
    have run := execAppendNote_taken field selected long short harvest reserve chosen enabled last
    refine ⟨_, run, execAppendNote_only _ _ _ _ run, fun whole => ?_, fun torn => ?_, fun third => ?_, fun early => ?_⟩
    · obtain ⟨word, written⟩ := appendSteps_whole whole k data s
      obtain ⟨-, number, mask⟩ := noteWritten_bytes (k := k) (word := word) canonical long
      have next := nextNoteNo_of_bytes number
      have cleared := (congrArg (bit · k) (importedMask_of_bytes mask)).trans (setBit_cleared _ k (slot_lt_of_chosen chosen))
      have own := noteWritten_number (k := k) (word := word) canonical long
      have valid := noteWritten_valid (k := k) (word := word) canonical long
      rw [if_pos whole, noteAppended, written]
      generalize noteWritten k data word s = u at next cleared own valid
      exact ⟨rfl, Nat.min_eq_right whole, (nextNoteNo_congr rfl).trans next, (noteNo_congr rfl k).trans own, (noteValid_congr rfl k).trans valid,
        (congrArg (bit · k) (importedMask_congr rfl)).trans cleared⟩
    · rw [if_neg (by omega)]
      exact ⟨rfl, rfl, Nat.min_eq_left (by omega)⟩
    · subst third
      exact appendSteps_torn k data s
    · rw [if_neg (by omega)]
      exact congrArg (fun u => u.tag.store) (appendSteps_none early k data s)
  case field =>
    intro p mv s
    refine ⟨_, rfl, rfl, fun gone => ?_, rfl, execWtagFieldChange_only _ _ rfl⟩
    simp [gone]
  case imported =>
    intro k s wire idle next
    obtain ⟨r, cls, run⟩ := execVisitNoteImport_next wire idle next
    exact ⟨_, _, run, rfl, rfl, cls, execVisitNoteImport_only run⟩
  case totals =>
    intro us s wire first canonical
    obtain ⟨w, run⟩ := execTotalsSnapshot_first wire first us
    exact ⟨_, run, rfl, rfl, writeTotals_copy canonical, execTotalsSnapshot_only _ run⟩

end Sys2Proof.Laws

/-!
PROOF. The price display's state (chapter 13, R411 to R424): what the queue's requests, its events and its drives leave of the display, and
what a draw leaves to read of an image.
-/

namespace Sys2Proof.Laws

open Sys2Proof.Machine Sys2Proof.Safety

@[simp] theorem emit_disp (code : Nat) (payload : List Byte) (ack : Bool) (s : State) : (emit code payload ack s).disp = s.disp :=
  Part.kept (p := .disp) (by simp [emit_only, OnlyChanges.refl])

@[simp] theorem event_disp (code : Nat) (payload : List Byte) (s : State) : (event code payload s).disp = s.disp := emit_disp ..

@[simp] theorem displayFault_disp (kind : Nat) (detail : Int) (s : State) : (displayFault kind detail s).disp = s.disp := event_disp ..

@[simp] theorem displayDone_disp (r : Rect) (result : Nat) (s : State) : (displayDone r result s).disp = s.disp :=
  Part.kept (p := .disp) (by simp [displayDone_only, OnlyChanges.refl])

@[simp] theorem releaseOpt_disp (id : Option Nat) (s : State) : (releaseOpt id s).disp = s.disp :=
  Part.kept (p := .disp) (by simp [releaseOpt_only, OnlyChanges.refl])

@[simp] theorem priceCheck_disp (s : State) : (priceCheck s).disp = s.disp :=
  Part.kept (p := .disp) (by simp [priceCheck_only, OnlyChanges.refl])

@[simp] theorem journalApp_disp (type key n : Nat) (s : State) : (journalApp type key n s).disp = s.disp :=
  Part.kept (p := .disp) (by simp [journalApp_only, OnlyChanges.refl])

@[simp] theorem appRetire_disp (hit : JRec → Bool) (s : State) : (appRetire hit s).disp = s.disp :=
  Part.kept (p := .disp) (by simp [appRetire_only, OnlyChanges.refl])

/-! The queue and its requests (R413, R419). -/

/-- A rectangle apart from its request. -/
def requestless (r : Rect) : Rect := { r with req := none, retryAt := none }

/-- The display with the requests of its queue left out. -/
def served (d : Display) : Display := { d with queue := d.queue.map requestless }

/-- The display with its queue left out. -/
def unqueued (d : Display) : Display := { d with queue := [] }

theorem unqueued_of_served {d e : Display} (same : served d = served e) : unqueued d = unqueued e :=
  (congrArg unqueued same : unqueued (served d) = unqueued (served e))

theorem eq_of_unqueued {d e : Display} (same : unqueued d = unqueued e) : d = { e with queue := d.queue } :=
  (congrArg (fun x => { x with queue := d.queue }) same : { unqueued d with queue := d.queue } = { unqueued e with queue := d.queue })

theorem map_modify_of_comp {α β : Type} {f : α → α} {g : α → β} (same : ∀ x, g (f x) = g x) (l : List α) (i : Nat) :
    (l.modify i f).map g = l.map g := by
  refine List.ext_getElem? fun j => ?_
  rw [List.getElem?_map, List.getElem?_map, List.getElem?_modify]
  cases l[j]? with
  | none => rfl
  | some x =>
    by_cases at_ : i = j
    · simp [at_, same]
    · simp [at_]

theorem updQueue_served {f : Rect → Rect} (same : ∀ r, requestless (f r) = requestless r) (i : Nat) (s : State) :
    served (updQueue i f s).disp = served s.disp := by
  simp only [served, updQueue, updDisp, map_modify_of_comp same]

theorem askRect_served (i : Nat) (r : Rect) (s : State) : served (askRect i r s).disp = served s.disp :=
  updQueue_served (f := fun x => { x with req := some (nextReq s), retryAt := none }) (fun _ => rfl) i _

theorem serveQueue_served (s : State) : served (serveQueue s).disp = served s.disp := by
  unfold serveQueue
  split
  · rfl
  · refine foldl_kept (fun s => served s.disp) (fun s i => ?_) _ s
    split
    · split
      · exact askRect_served i _ s
      · rfl
    · rfl

theorem serveQueue_unqueued (s : State) : unqueued (serveQueue s).disp = unqueued s.disp := unqueued_of_served (serveQueue_served s)

/-- The queue as it is served: the same rectangles at the same places, their requests aside. -/
theorem serveQueue_queue (s : State) : (serveQueue s).disp.queue.map requestless = s.disp.queue.map requestless :=
  congrArg Display.queue (serveQueue_served s)

theorem serveQueue_length (s : State) : (serveQueue s).disp.queue.length = s.disp.queue.length := by
  simpa using congrArg List.length (serveQueue_queue s)

/-- A rectangle of the queue is still there when it has been served. -/
theorem mem_serveQueue {r : Rect} {s : State} (mem : r ∈ s.disp.queue) : ∃ x ∈ (serveQueue s).disp.queue, requestless x = requestless r := by
  have mem := List.mem_map_of_mem (f := requestless) mem
  rw [← serveQueue_queue] at mem
  exact List.mem_map.mp mem

theorem queueTail_unqueued (r : Rect) (s : State) : unqueued (queueTail r s).disp = unqueued s.disp := serveQueue_unqueued _

theorem queueTail_length (r : Rect) (s : State) : (queueTail r s).disp.queue.length = s.disp.queue.length + 1 :=
  (serveQueue_length _).trans List.length_append

theorem queueHead_unqueued (r : Rect) (s : State) : unqueued (queueHead r s).disp = unqueued s.disp := serveQueue_unqueued _

/-- A rectangle that joins the head of the queue is its head. -/
theorem queueHead_head (r : Rect) (s : State) : ∃ x q, (queueHead r s).disp.queue = x :: q ∧ requestless x = requestless r := by
  obtain ⟨x, q, queue, head, -⟩ := List.map_eq_cons_iff.mp (serveQueue_queue (updDisp (fun d => { d with queue := r :: d.queue }) s))
  exact ⟨x, q, queue, head⟩

theorem queueAreas_unqueued (as : List Area) (kind : Nat) (totals : Bool) (s : State) :
    unqueued (queueAreas as kind totals s).disp = unqueued s.disp := by
  refine foldl_kept (fun s => unqueued s.disp) (fun s a => ?_) as s
  split
  · exact queueTail_unqueued _ s
  · rfl

theorem queueAon_unqueued (s : State) : unqueued (queueAon s).disp = unqueued s.disp := by
  unfold queueAon
  dsimp only
  split
  · rfl
  · exact queueAreas_unqueued ..

/-- A place that is free takes the always-on area. -/
theorem queueAon_length {s : State} (usable : displayUsable s = true) (room : hostQueued s.disp < 8) (wide : dcAonW s.disp.config ≠ 0)
    (high : dcAonH s.disp.config ≠ 0) : (queueAon s).disp.queue.length = s.disp.queue.length + 1 := by
  have wide : (aonArea s.disp.config).2.2.1 ≠ 0 := wide
  have high : (aonArea s.disp.config).2.2.2 ≠ 0 := high
  simp only [queueAon, wide, high, or_self, if_false, queueAreas, List.foldl, usable, room, decide_true, Bool.and_self, if_true]
  exact queueTail_length _ s

/-- A price-area drive takes the place of the one still queued; of the rest of the display it notes what was asked for. -/
theorem requestPrice_unqueued (s : State) : ∃ w, unqueued (requestPrice s).disp = { unqueued s.disp with asked := w } := by
  have released (l : List Rect) : (l.foldl (fun s r => releaseOpt r.req s) s).disp = s.disp :=
    foldl_kept (·.disp) (fun s (r : Rect) => releaseOpt_disp r.req s) l s
  refine ⟨priceWanted s, ?_⟩
  unfold requestPrice
  dsimp only
  rw [queueHead_unqueued]
  simp only [updDisp, released]
  rfl

/-! The front light (R414). -/

/-- A display apart from its front light. -/
def unlit (d : Display) : Display := { d with light := false, lightWait := none }

theorem eq_of_unlit {d e : Display} (same : unlit d = unlit e) : d = { e with light := d.light, lightWait := d.lightWait } :=
  (congrArg (fun x => { x with light := d.light, lightWait := d.lightWait }) same :
    { unlit d with light := d.light, lightWait := d.lightWait } = { unlit e with light := d.light, lightWait := d.lightWait })

theorem serveLight_unlit (s : State) : unlit (serveLight s).disp = unlit s.disp := by
  unfold serveLight
  split
  · split
    · exact (congrArg unlit (emit_disp ..)).trans rfl
    · rfl
  · rfl

/-! Rectangles that are abandoned (R417, R424). -/

/-- Nothing stays in flight or queued, whatever the result. -/
theorem abandonAll_disp (result : Nat) (queuedToo : Bool) (s : State) : ∃ dirty, (abandonAll result queuedToo s).disp =
    { s.disp with flight := [], queue := [], idleAt := s.now, dirty := dirty } := by
  have released (l : List Rect) : (l.foldl (fun s r => releaseOpt r.req s) s).disp = s.disp :=
    foldl_kept (·.disp) (fun s (r : Rect) => releaseOpt_disp r.req s) l s
  have told (l : List Rect) (t : State) : (l.foldl (fun s r => displayDone r result s) t).disp = t.disp :=
    foldl_kept (·.disp) (fun s r => displayDone_disp r result s) l t
  unfold abandonAll
  dsimp only
  split
  · refine ⟨true, ?_⟩
    simp only [priceInterrupted, priceCheck_disp, journalApp_disp, told, updDisp, released]
  · refine ⟨s.disp.dirty, ?_⟩
    simp only [told, updDisp, released]

/-! The images (R415, R418). -/

theorem read_write_of_ne (d : Byte) {a x : Nat} (ne : x ≠ a) (v : Byte) (l : List Host.Cell) :
    Memory.read d (Memory.write d a v l) x = Memory.read d l x := by
  have ne' : a ≠ x := ne.symm
  induction l with
  | nil =>
    unfold Memory.write
    split <;> simp [Memory.read, ne']
  | cons c t ih =>
    unfold Memory.write
    split
    · split <;> simp [Memory.read, ne']
    · split
      next at_ => split <;> simp [Memory.read, ne', ← at_]
      · simp [Memory.read, ih]

section

variable {α : Type} (d : Byte) (f : α → Nat) (g : α → Byte)

/-- Writes at other addresses leave a byte as it was. -/
theorem read_foldl_write_apart {c : List α} {x : Nat} (apart : x ∉ c.map f) (l : List Host.Cell) :
    Memory.read d (c.foldl (fun m y => Memory.write d (f y) (g y) m) l) x = Memory.read d l x := by
  induction c generalizing l with
  | nil => rfl
  | cons y c ih =>
    simp only [List.map_cons, List.mem_cons, not_or] at apart
    exact (ih apart.2 _).trans (read_write_of_ne d apart.1 _ l)

/-- Writes at addresses that differ are all read back. -/
theorem read_foldl_write_self {c : List α} (differ : (c.map f).Nodup) {l : List Host.Cell} (k : Memory.wf d l = true) :
    c.map (fun y => Memory.read d (c.foldl (fun m y => Memory.write d (f y) (g y) m) l) (f y)) = c.map g := by
  induction c generalizing l with
  | nil => rfl
  | cons y c ih =>
    obtain ⟨head, tail⟩ := List.nodup_cons.mp differ
    refine List.cons_eq_cons.mpr ⟨?_, ih tail (Memory.write_wf d _ _ k)⟩
    refine (read_foldl_write_apart d f g head _).trans ?_
    rw [Memory.read_write d (f y) (f y) (g y) k, if_pos rfl]

end

theorem areaPixels_length (c : BitVec 144) (a : Area) : (areaPixels c a).length = a.2.2.2 * a.2.2.1 := by
  simp [areaPixels, List.length_flatten, Function.comp_def]

/-- The pixels of an area that lies within the panel's width are all different: their numbers rise. -/
theorem areaPixels_nodup {c : BitVec 144} {a : Area} (inside : a.1 + a.2.2.1 ≤ dcWidth c) : (areaPixels c a).Nodup := by
  refine List.Pairwise.imp (R := (· < ·)) (fun less => Nat.ne_of_lt less) (List.pairwise_flatten.mpr ⟨?_, ?_⟩)
  · intro row mem
    obtain ⟨j, -, rfl⟩ := List.mem_map.mp mem
    exact List.pairwise_map.mpr (List.pairwise_lt_range.imp fun less => by omega)
  · refine List.pairwise_map.mpr (List.pairwise_lt_range.imp fun {j k} less => ?_)
    intro x first y second
    obtain ⟨i, inI, rfl⟩ := List.mem_map.mp first
    obtain ⟨m, -, rfl⟩ := List.mem_map.mp second
    have inI := List.mem_range.mp inI
    have rows : (a.2.1 + j) * dcWidth c + dcWidth c ≤ (a.2.1 + k) * dcWidth c := by
      rw [← Nat.succ_mul]
      exact Nat.mul_le_mul_right _ (by omega)
    omega

theorem unpackLevels_length (p : List Byte) : (unpackLevels p).length = 2 * p.length := by
  simp [unpackLevels, List.length_flatten, Function.comp_def, Nat.mul_comm]

end Sys2Proof.Laws

/-! PROOF. The display's commands, scans, rails and readings (chapter 13, R411 to R424). -/

namespace Sys2Proof.Laws

open Sys2Proof.Machine Sys2Proof.Safety

/-! Rectangles that a payload names (R418). -/

theorem areaOf_le {x y w k : Nat} (x16 : x < 65536) (y16 : y < 65536) (w16 : w < 65536) (k16 : k < 65536) (r : List Byte) :
    areaOf (le 2 x ++ le 2 y ++ le 2 w ++ le 2 k ++ r) = (x, y, w, k) := by
  simp only [areaOf, List.append_assoc]
  rw [numAt_le 2 x _ x16, numAt_append (le 2 x) _ 2 2 y (by simp [le_length]) y16,
    ← List.append_assoc (le 2 x), numAt_append (le 2 x ++ le 2 y) _ 4 2 w (by simp [le_length]) w16,
    ← List.append_assoc (le 2 x ++ le 2 y), numAt_append (le 2 x ++ le 2 y ++ le 2 w) _ 6 2 k (by simp [le_length]) k16]

theorem fld_lt {w : Nat} (r : BitVec w) (lo len : Nat) : fld r lo len < 2 ^ len := Nat.mod_lt _ (Nat.two_pow_pos len)

/-- A host rectangle lies within the panel, and a row of it takes whole bytes. -/
theorem rectOk_bounds {g : BitVec 144} {x y w k : Nat} (ok : rectOk g (x, y, w, k) = true) :
    w % 8 = 0 ∧ x + w ≤ dcWidth g ∧ x < 65536 ∧ y < 65536 ∧ w < 65536 ∧ k < 65536 := by
  have wide : dcWidth g < 2048 := fld_lt ..
  have high : dcHeight g < 2048 := fld_lt ..
  simp only [rectOk, withinPanel, Bool.and_eq_true, decide_eq_true_eq] at ok
  omega

theorem areaOf_rect {g : BitVec 144} {x y w k : Nat} (ok : rectOk g (x, y, w, k) = true) (r : List Byte) :
    areaOf (le 2 x ++ le 2 y ++ le 2 w ++ le 2 k ++ r) = (x, y, w, k) := by
  obtain ⟨-, -, x16, y16, w16, k16⟩ := rectOk_bounds ok
  exact areaOf_le x16 y16 w16 k16 r

/-! DISPLAY_WRITE (R418). -/

/-- s with levels written into the target image over an area. -/
def imageWritten (a : Area) (levels : List Byte) (s : State) : State :=
  updDisp (fun d => { d with
    target := ((areaPixels s.disp.config a).zip levels).foldl (fun m c => Memory.write 15 c.1 c.2 m) d.target }) s

/-- s with a write made; in STANDBY one into the always-on area queues its refresh (R422). -/
def displayWritten (a : Area) (levels : List Byte) (s : State) : State :=
  if s.modes.mode = .standby && overlaps a (aonArea s.disp.config) then queueAon (imageWritten a levels s) else imageWritten a levels s

theorem displayWritten_disp (a : Area) (levels : List Byte) (s : State) :
    unqueued (displayWritten a levels s).disp = unqueued (imageWritten a levels s).disp := by
  unfold displayWritten
  split
  · exact queueAon_unqueued _
  · rfl

theorem execDisplayWrite_accepted {h : Hdr} {x y w k : Nat} {lv : List Byte} {s : State}
    (a : Accepted h 0x0A10 (le 2 x ++ le 2 y ++ le 2 w ++ le 2 k ++ lv) s) (role : 1 ≤ s.roles.role) (mode : s.modes.mode ≠ .monument)
    (ok : rectOk s.disp.config (x, y, w, k) = true) (length : lv.length = w * k / 2) :
    execDisplayWrite h (le 2 x ++ le 2 y ++ le 2 w ++ le 2 k ++ lv) s =
      .next (answered s h 0x0A10 (le 2 x ++ le 2 y ++ le 2 w ++ le 2 k ++ lv) .ok []
        (displayWritten (x, y, w, k) (unpackLevels lv) (touchRole s))) := by
  have area := areaOf_rect ok lv
  have levels : (le 2 x ++ le 2 y ++ le 2 w ++ le 2 k ++ lv).drop 8 = lv := List.drop_left' (by simp [le_length])
  have size : (le 2 x ++ le 2 y ++ le 2 w ++ le 2 k ++ lv).length = 8 + w * k / 2 := by
    simp only [List.length_append, le_length, length]
  have role := role_le_touchRole role
  have mode : (touchRole s).modes.mode ≠ .monument := mode
  have ok : rectOk (touchRole s).disp.config (x, y, w, k) = true := ok
  have cmd : displayWriteCmd (le 2 x ++ le 2 y ++ le 2 w ++ le 2 k ++ lv) (touchRole s) =
      { run := { st := displayWritten (x, y, w, k) (unpackLevels lv) (touchRole s) } } := by
    simp only [displayWriteCmd, area, levels, size, ok, decide_eq_true role, bne_iff_ne.mpr mode, beq_self_eq_true, Bool.and_self,
      Nat.le_add_right, decide_true]
    rfl
  exact congrArg _ (hostCommand_done a cmd nofun)

/-- What was written over an area is read back over it, pixel by pixel, and nowhere else. -/
theorem imageWritten_target {a : Area} {levels : List Byte} {s : State} (inside : a.1 + a.2.2.1 ≤ dcWidth s.disp.config)
    (length : levels.length = a.2.2.2 * a.2.2.1) (canonical : Memory.wf 15 s.disp.target = true) :
    (areaPixels s.disp.config a).map (Memory.read 15 (imageWritten a levels s).disp.target) = levels ∧
    ∀ x, x ∉ areaPixels s.disp.config a →
      Memory.read 15 (imageWritten a levels s).disp.target x = Memory.read 15 s.disp.target x := by
  have same : (areaPixels s.disp.config a).length = levels.length := (areaPixels_length ..).trans length.symm
  have pixels : ((areaPixels s.disp.config a).zip levels).map Prod.fst = areaPixels s.disp.config a := List.map_fst_zip same.le
  refine ⟨?_, fun x apart => read_foldl_write_apart 15 Prod.fst Prod.snd (by rwa [pixels]) _⟩
  have back := read_foldl_write_self 15 Prod.fst Prod.snd (pixels ▸ areaPixels_nodup inside) canonical
  rw [List.map_snd_zip same.ge] at back
  calc (areaPixels s.disp.config a).map (Memory.read 15 (imageWritten a levels s).disp.target)
      = (((areaPixels s.disp.config a).zip levels).map Prod.fst).map (Memory.read 15 (imageWritten a levels s).disp.target) := by rw [pixels]
    _ = levels := (List.map_map ..).trans back

/-! DISPLAY_UPDATE (R418, R419, R424). -/

/-- The rectangle that an update queues. -/
def updateRect (h : Hdr) (a : Area) (kind n : Nat) : Rect :=
  { handle := n, x := a.1, y := a.2.1, w := a.2.2.1, h := a.2.2.2, kind := kind, ack := flagAck h.flags }

/-- s with an update queued. -/
def updateQueued (h : Hdr) (a : Area) (kind : Nat) (s : State) : State :=
  queueTail (updateRect h a kind (nextHandle s.disp.handleCtr)) (updDisp (fun d => { d with handleCtr := nextHandle s.disp.handleCtr }) s)

theorem execDisplayUpdate_accepted {h : Hdr} {x y w k kind : Nat} {s : State}
    (a : Accepted h 0x0A11 (le 2 x ++ le 2 y ++ le 2 w ++ le 2 k ++ le 1 kind) s) (role : 1 ≤ s.roles.role)
    (mode : s.modes.mode ≠ .monument) (page : s.modes.mode ≠ .benchmark) (ok : rectOk s.disp.config (x, y, w, k) = true) (known : kind ≤ 2)
    (room : hostQueued s.disp < 8) (whole : s.faults.display = false) :
    execDisplayUpdate h (le 2 x ++ le 2 y ++ le 2 w ++ le 2 k ++ le 1 kind) s = .next (if s.disp.crack
      then answered s h 0x0A11 (le 2 x ++ le 2 y ++ le 2 w ++ le 2 k ++ le 1 kind) .notConfirmed [] (touchRole s)
      else answered s h 0x0A11 (le 2 x ++ le 2 y ++ le 2 w ++ le 2 k ++ le 1 kind) .queued (le 2 (nextHandle s.disp.handleCtr))
        (updateQueued h (x, y, w, k) kind (touchRole s))) := by
  have area := areaOf_rect ok (le 1 kind)
  have last : byteAt (le 2 x ++ le 2 y ++ le 2 w ++ le 2 k ++ le 1 kind) 8 = kind := by
    have last := byteAt_last (le 2 x ++ le 2 y ++ le 2 w ++ le 2 k) (n := kind) (by omega)
    rwa [show (le 2 x ++ le 2 y ++ le 2 w ++ le 2 k).length = 8 by simp [le_length]] at last
  have role := role_le_touchRole role
  have mode : (touchRole s).modes.mode ≠ .monument := mode
  have page : (touchRole s).modes.mode ≠ .benchmark := page
  have ok : rectOk (touchRole s).disp.config (x, y, w, k) = true := ok
  have room : hostQueued (touchRole s).disp < 8 := room
  have whole : (touchRole s).faults.display = false := whole
  have cmd : displayUpdateCmd h (le 2 x ++ le 2 y ++ le 2 w ++ le 2 k ++ le 1 kind) (touchRole s) = { run :=
      if (touchRole s).disp.crack then { st := touchRole s, status := .notConfirmed }
      else { st := updateQueued h (x, y, w, k) kind (touchRole s), status := .queued, data := le 2 (nextHandle s.disp.handleCtr) } } := by
    simp only [displayUpdateCmd, area, last, ok, whole]
    simp [role, mode, page, room, known, le_length]
    rfl
  refine congrArg Host.Outcome.next ?_
  cases crack : s.disp.crack with
  | true =>
    rw [show (touchRole s).disp.crack = true from crack] at cmd
    exact hostCommand_done a cmd nofun
  | false =>
    rw [show (touchRole s).disp.crack = false from crack] at cmd
    exact hostCommand_done a cmd nofun

theorem updateQueued_disp (h : Hdr) (a : Area) (kind : Nat) (s : State) :
    unqueued (updateQueued h a kind s).disp = { unqueued s.disp with handleCtr := nextHandle s.disp.handleCtr } := queueTail_unqueued ..

/-- The rectangle of an update stands in the queue. -/
theorem mem_updateQueued (h : Hdr) (a : Area) (kind : Nat) (s : State) : ∃ r ∈ (updateQueued h a kind s).disp.queue,
    requestless r = requestless (updateRect h a kind (nextHandle s.disp.handleCtr)) :=
  mem_serveQueue (by simp [updDisp])

/-! DISPLAY_LIGHT (R414). -/

theorem execDisplayLight_on {h : Hdr} {s : State} (a : Accepted h 0x0A12 (le 1 1) s) (role : 1 ≤ s.roles.role)
    (mode : s.modes.mode ≠ .monument) (uncracked : s.disp.crack = false) (whole : s.faults.display = false) (safe : s.faults.globalSafe = false)
    (dark : s.disp.light = false) : execDisplayLight h (le 1 1) s = .next (if lightFree s.disp
      then answered s h 0x0A12 (le 1 1) .ok [] (updDisp (fun d => { d with light := true }) (touchRole s))
      else answered s h 0x0A12 (le 1 1) .queued [] (updDisp (fun d => { d with lightWait := some (flagAck h.flags) }) (touchRole s))) := by
  have on : byteAt (le 1 1) 0 = 1 := rfl
  have role := role_le_touchRole role
  have mode : (touchRole s).modes.mode ≠ .monument := mode
  have uncracked : (touchRole s).disp.crack = false := uncracked
  have whole : (touchRole s).faults.display = false := whole
  have safe : (touchRole s).faults.globalSafe = false := safe
  have dark : (touchRole s).disp.light = false := dark
  have cmd : displayLightCmd h (le 1 1) (touchRole s) =
      { run := if lightFree (touchRole s).disp then { st := updDisp (fun d => { d with light := true }) (touchRole s) }
        else { st := updDisp (fun d => { d with lightWait := some (flagAck h.flags) }) (touchRole s), status := .queued } } := by
    simp only [displayLightCmd, on, uncracked, whole, safe, dark]
    simp [role, mode, le_length]
  refine congrArg Host.Outcome.next ?_
  cases free : lightFree s.disp with
  | true =>
    rw [show lightFree (touchRole s).disp = true from free] at cmd
    exact hostCommand_done a cmd nofun
  | false =>
    rw [show lightFree (touchRole s).disp = false from free] at cmd
    exact hostCommand_done a cmd nofun

theorem execDisplayLight_off {h : Hdr} {s : State} (a : Accepted h 0x0A12 (le 1 0) s) (role : 1 ≤ s.roles.role)
    (mode : s.modes.mode ≠ .monument) (none : s.disp.lightWait = none) : execDisplayLight h (le 1 0) s =
      .next (answered s h 0x0A12 (le 1 0) .ok [] (updDisp (fun d => { d with light := false }) (touchRole s))) := by
  have off : byteAt (le 1 0) 0 = 0 := rfl
  have role := role_le_touchRole role
  have mode : (touchRole s).modes.mode ≠ .monument := mode
  have none : (touchRole s).disp.lightWait = Option.none := none
  have cmd : displayLightCmd h (le 1 0) (touchRole s) = { run := { st := updDisp (fun d => { d with light := false }) (touchRole s) } } := by
    simp only [displayLightCmd, off, none]
    simp [role, mode, le_length]
  exact congrArg _ (hostCommand_done a cmd nofun)

end Sys2Proof.Laws

/-! PROOF. Waveform tables, scans, rails and the timed readings of the display (chapter 13, R411 to R417, R424). -/

namespace Sys2Proof.Laws

open Sys2Proof.Machine Sys2Proof.Safety

/-! WF_LOAD (R415). -/

/-- A byte behind i bytes. -/
theorem byteAt_append (p q : List Byte) (i n : Nat) (length : p.length = i) (small : n < 256) : byteAt (p ++ (le 1 n ++ q)) i = n := by
  simp [byteAt, ← length, le, Nat.mod_eq_of_lt small]

/-- A command of the expert level alone whose checks pass is answered with what its execution yields. -/
theorem hostCommand_expertDone {h : Hdr} {opcode : Nat} {p : List Byte} {cmd : State → Cmd} {s t : State} (a : AcceptedExpert h opcode p s)
    (e : cmd (touchRole s) = { level := .expertOnly, run := { st := t } }) :
    hostCommand h opcode p cmd s = answered s h opcode p .ok [] t := by
  have run := hostCommand_expert (cmd := cmd) a (by rw [e]; nofun) (by rw [e]) (by rw [e]) (by rw [e]) (by rw [e]) (by rw [e]) (by rw [e]) (by rw [e])
    (by rw [e]; nofun)
  rwa [e] at run

/-- d with a table taken whose last bytes have come. -/
def tableTaken (b kind n off : Nat) (lo hi : Int) (data : List Byte) (d : Display) : Display :=
  let w := vget d.waves b {}
  { d with waves := vset d.waves b { w with
      low := lo, high := hi, scans := vset w.scans kind n, tables := vset w.tables kind (padTo off (vget w.loading kind []) ++ data),
      loading := vset w.loading kind [] } }

/-- The payload of WF_LOAD. -/
def wavePayload (b lo hi kind n off : Nat) (data : List Byte) : List Byte :=
  le 1 b ++ le 1 lo ++ le 1 hi ++ le 1 kind ++ le 2 n ++ le 4 off ++ le 2 data.length ++ data

theorem wavePayload_fields {b lo hi kind n off : Nat} {data : List Byte} (band : b < 256) (low : lo < 256) (high : hi < 256) (known : kind < 256)
    (scans : n < 65536) (at_ : off < 4294967296) (length : data.length < 65536) :
    byteAt (wavePayload b lo hi kind n off data) 0 = b ∧ byteAt (wavePayload b lo hi kind n off data) 1 = lo ∧
    byteAt (wavePayload b lo hi kind n off data) 2 = hi ∧ byteAt (wavePayload b lo hi kind n off data) 3 = kind ∧
    numAt (wavePayload b lo hi kind n off data) 4 2 = n ∧ numAt (wavePayload b lo hi kind n off data) 6 4 = off ∧
    numAt (wavePayload b lo hi kind n off data) 10 2 = data.length ∧ (wavePayload b lo hi kind n off data).drop 12 = data ∧
    (wavePayload b lo hi kind n off data).length = 12 + data.length := by
  refine ⟨?_, ?_, ?_, ?_, ?_, ?_, ?_, List.drop_left' (by simp [le_length]), by simp only [wavePayload, List.length_append, le_length]⟩
  · simp only [wavePayload, List.append_assoc]
    exact byteAt_le b _ band
  · have field := byteAt_append (le 1 b) (le 1 hi ++ le 1 kind ++ le 2 n ++ le 4 off ++ le 2 data.length ++ data) 1 lo (by simp [le_length]) low
    simpa only [wavePayload, List.append_assoc] using field
  · have field := byteAt_append (le 1 b ++ le 1 lo) (le 1 kind ++ le 2 n ++ le 4 off ++ le 2 data.length ++ data) 2 hi (by simp [le_length]) high
    simpa only [wavePayload, List.append_assoc] using field
  · have field := byteAt_append (le 1 b ++ le 1 lo ++ le 1 hi) (le 2 n ++ le 4 off ++ le 2 data.length ++ data) 3 kind (by simp [le_length]) known
    simpa only [wavePayload, List.append_assoc] using field
  · have field := numAt_append (le 1 b ++ le 1 lo ++ le 1 hi ++ le 1 kind) (le 4 off ++ le 2 data.length ++ data) 4 2 n (by simp [le_length]) scans
    simpa only [wavePayload, List.append_assoc] using field
  · have field := numAt_append (le 1 b ++ le 1 lo ++ le 1 hi ++ le 1 kind ++ le 2 n) (le 2 data.length ++ data) 6 4 off (by simp [le_length]) at_
    simpa only [wavePayload, List.append_assoc] using field
  · have field := numAt_append (le 1 b ++ le 1 lo ++ le 1 hi ++ le 1 kind ++ le 2 n ++ le 4 off) data 10 2 data.length (by simp [le_length]) length
    simpa only [wavePayload, List.append_assoc] using field

theorem execWfLoad_last {h : Hdr} {b lo hi kind n off : Nat} {data : List Byte} {s : State}
    (a : AcceptedExpert h 0x0A13 (wavePayload b lo hi kind n off data) s) (mode : s.modes.mode ≠ .monument) (band : b < 12) (low : lo < 256)
    (high : hi < 256) (known : kind < 3) (rows : 1 ≤ n) (few : n ≤ 256) (short : data.length ≤ 4084) (last : off + data.length = 64 * n)
    (order : signedOf 8 lo < signedOf 8 hi) (apart : bandsApart s.disp b (signedOf 8 lo) (signedOf 8 hi) = true)
    (free : s.disp.flight.any (fun r => r.band == b) = false) :
    execWfLoad h (wavePayload b lo hi kind n off data) s = .next (answered s h 0x0A13 (wavePayload b lo hi kind n off data) .ok []
      (serveQueue (updDisp (tableTaken b kind n off (signedOf 8 lo) (signedOf 8 hi) data) (touchRole s)))) := by
  obtain ⟨f0, f1, f2, f3, f4, f6, f10, rest, length⟩ := wavePayload_fields (b := b) (lo := lo) (hi := hi) (kind := kind) (n := n) (off := off)
    (data := data) (by omega) low high (by omega) (by omega) (by omega) (by omega)
  have role := role_le_touchRole a.role
  have mode : (touchRole s).modes.mode ≠ .monument := mode
  have apart : bandsApart (touchRole s).disp b (signedOf 8 lo) (signedOf 8 hi) = true := apart
  have free : (touchRole s).disp.flight.any (fun r => r.band == b) = false := free
  have cmd : wfLoadCmd (wavePayload b lo hi kind n off data) (touchRole s) = { level := .expertOnly, run :=
      { st := serveQueue (updDisp (tableTaken b kind n off (signedOf 8 lo) (signedOf 8 hi) data) (touchRole s)) } } := by
    simp only [wfLoadCmd, f0, f1, f2, f3, f4, f6, f10, rest, length, apart, free, last, if_true, beq_self_eq_true, bne_iff_ne.mpr mode,
      decide_eq_true role, decide_eq_true band, decide_eq_true known, decide_eq_true rows, decide_eq_true few, decide_eq_true short,
      decide_eq_true order, Nat.le_add_right, Nat.le_refl, decide_true, Bool.and_self, Bool.not_false]
    rfl
  exact congrArg _ (hostCommand_expertDone a cmd)

/-! Scans (R411, R416). -/

/-- s when a scan has begun and the loop and EPTEMP have been read. -/
def scanRead (temp : Int) (ohm : Nat) (s : State) : State :=
  panelTemp temp (updDisp (fun d => { d with crackOhm := sat 16 ohm }) (updDisp (fun d => { d with scanAt := some s.now }) s))

/-- s when a scan has begun and its readings are made. -/
theorem execScanStart_due {s : State} (run : s.regionsRun = true) (up : s.disp.state = 2) (first : s.disp.scanAt = none) (temp : Int) (ohm : Nat) :
    execScanStart temp ohm s = .next (if s.disp.queue.any (·.granted) then
        if crackHigh (scanRead temp ohm s) ohm || (scanRead temp ohm s).disp.tempFault then scanRead temp ohm s
        else joinFrom (scanRead temp ohm s).disp.queue.length 0 (scanRead temp ohm s)
      else updDisp (fun d => { d with scanAt := some s.now }) s) := by
  simp only [execScanStart, first]
  rw [if_neg (by simp [run, up])]
  cases granted : s.disp.queue.any (·.granted) with
  | false => exact if_pos (by simpa [updDisp] using granted)
  | true =>
    rw [if_neg (by simpa [updDisp] using granted)]
    exact (apply_ite ..).symm

/-- A reading outside the range is a sensor fault, and gives no band. -/
theorem panelTemp_outside {temp : Int} (out : temp < -400 ∨ 850 < temp) (s : State) : (panelTemp temp s).disp =
    { s.disp with temp := satInt 16 temp, band := 15, goodTemps := 0, tempFault := true } := by
  have out : (decide (-400 ≤ temp) && decide (temp ≤ 850)) = false := by simpa using by omega
  simp only [panelTemp, out, Bool.not_false, if_true]
  split
  · rfl
  · rw [displayFault_disp]
    rfl

/-- A reading inside the range gives a band, and flags what has left its own. -/
theorem panelTemp_inside {temp : Int} (low : -400 ≤ temp) (high : temp ≤ 850) (s : State) :
    ∃ good gap, ∃ flag : Rect → Bool, (panelTemp temp s).disp =
    { s.disp with temp := satInt 16 temp, band := bandAt s.disp temp, goodTemps := good, tempFault := s.disp.tempFault && decide (good < 10),
                  outOfBand := gap, flight := s.disp.flight.map (fun r => if flag r then { r with flagged := true } else r) } := by
  have inside : (decide (-400 ≤ temp) && decide (temp ≤ 850)) = true := by simp [low, high]
  simp only [panelTemp, inside]
  exact ⟨_, _, _, rfl⟩

/-- What a reading of EPTEMP may touch of the display: the temperature, its band and faults, and the flags of what is in flight. -/
def unread (d : Display) : Display :=
  { d with temp := 0, band := 0, goodTemps := 0, tempFault := false, outOfBand := false, flight := [] }

theorem panelTemp_unread (temp : Int) (s : State) : unread (panelTemp temp s).disp = unread s.disp ∧
    (panelTemp temp s).disp.flight.length = s.disp.flight.length := by
  by_cases inside : -400 ≤ temp ∧ temp ≤ 850
  · obtain ⟨good, gap, flag, disp⟩ := panelTemp_inside inside.1 inside.2 s
    rw [disp]
    exact ⟨rfl, List.length_map ..⟩
  · rw [panelTemp_outside (by omega)]
    exact ⟨rfl, rfl⟩

theorem scanRead_unread (temp : Int) (ohm : Nat) (s : State) : unread (scanRead temp ohm s).disp =
      { unread s.disp with scanAt := some s.now, crackOhm := sat 16 ohm } ∧
    (scanRead temp ohm s).disp.flight.length = s.disp.flight.length := panelTemp_unread ..

/-- A scan whose reading is sound, and that a single rectangle that holds leave joins. -/
theorem joinFrom_single {r : Rect} {s : State} (queue : s.disp.queue = [r]) (granted : r.granted = true) (empty : s.disp.flight = [])
    (table : scansOf s.disp s.disp.band r.kind ≠ 0) : joinFrom 1 0 s = joinRect 0 r s := by
  have first : s.disp.queue[0]? = some r := by rw [queue]; rfl
  have start : canStart s.disp 0 r = true := by simp [canStart, empty]
  simp only [joinFrom, first, granted, empty, start]
  rw [if_neg table]
  rfl

/-! A waveform's end (R416, R419, R420). -/

/-- s with rectangle i of the flight ended and its new levels shown. -/
def waveEnded (i : Nat) (r : Rect) (s : State) : State :=
  updDisp (fun d => { d with
    flight := d.flight.eraseIdx i, idleAt := s.now,
    shown := ((areaPixels s.disp.config r.area).zip r.pixels).foldl (fun m c => Memory.write 15 c.1 (shownLevel s.disp.config c.2) m) d.shown })
    (releaseOpt r.req s)

theorem waveEnded_disp (i : Nat) (r : Rect) (s : State) : (waveEnded i r s).disp = { s.disp with
    flight := s.disp.flight.eraseIdx i, idleAt := s.now,
    shown := ((areaPixels s.disp.config r.area).zip r.pixels).foldl (fun m c => Memory.write 15 c.1 (shownLevel s.disp.config c.2) m)
      s.disp.shown } := by
  simp only [waveEnded, updDisp, releaseOpt_disp]

/-- Outside the rectangle the panel shows what it showed. -/
theorem waveEnded_shown (i : Nat) {a : Nat} {r : Rect} {s : State} (apart : a ∉ areaPixels s.disp.config r.area) :
    Memory.read 15 (waveEnded i r s).disp.shown a = Memory.read 15 s.disp.shown a := by
  rw [waveEnded_disp]
  refine read_foldl_write_apart 15 Prod.fst (fun c => shownLevel s.disp.config c.2) (fun mem => apart ?_) _
  obtain ⟨⟨x, v⟩, zipped, rfl⟩ := List.mem_map.mp mem
  exact (List.of_mem_zip zipped).1

/-- A rectangle that is driven again from the head of the queue. -/
def redriven (r : Rect) : Rect := { r with redrive := true, host := false, flagged := false, req := none, granted := false }

/-- s with a completed rectangle counted and reported; a price drive shows its version. -/
def waveDone (r : Rect) (s : State) : State :=
  let t := displayDone r (b1 r.redrive) (updDisp (fun d => { d with updates := satInc 32 d.updates }) s)
  if r.price then priceCheck (appRetire (fun j => j.type == 0x14)
    { t with billing := { t.billing with displayed := r.version, announced := r.announce != 0 }, disp := { t.disp with dirty := false } })
  else t

theorem execWaveformEnd_due {i : Nat} {r : Rect} {s : State} (flies : s.disp.flight[i]? = some r) (run : s.regionsRun = true)
    (passed : r.scans * 20000 ≤ (s.now - r.startAt) * dcScanHz s.disp.config) : execWaveformEnd i s =
      .next (if r.flagged then queueHead (redriven r) (waveEnded i r s) else serveQueue (serveLight (waveDone r (waveEnded i r s)))) := by
  simp only [execWaveformEnd, flies]
  rw [if_neg (by simp [run, passed])]
  exact (apply_ite ..).symm

theorem waveDone_disp (r : Rect) (s : State) : (waveDone r s).disp =
    { s.disp with updates := satInc 32 s.disp.updates, dirty := if r.price then false else s.disp.dirty } := by
  unfold waveDone
  dsimp only
  split
  · rw [priceCheck_disp, appRetire_disp, displayDone_disp]
    rfl
  · rw [displayDone_disp]
    rfl

end Sys2Proof.Laws

/-! PROOF. O59: scans, rails, readings and redraws of the display (chapter 13). -/

namespace Sys2Proof.Laws

open Sys2Proof.Machine Sys2Proof.Safety

/-! What a drive leaves of the price that is shown (R420). -/

@[simp] theorem serveQueue_billing (s : State) : (serveQueue s).billing = s.billing :=
  Part.kept (p := .billing) (by simp [serveQueue_only, OnlyChanges.refl])

@[simp] theorem serveLight_billing (s : State) : (serveLight s).billing = s.billing :=
  Part.kept (p := .billing) (by simp [serveLight_only, OnlyChanges.refl])

@[simp] theorem appRetire_billing (hit : JRec → Bool) (s : State) : (appRetire hit s).billing = s.billing :=
  Part.kept (p := .billing) (by simp [appRetire_only, OnlyChanges.refl])

theorem priceCheck_displayed (s : State) : (priceCheck s).billing.displayed = s.billing.displayed := by
  unfold priceCheck
  dsimp only
  split
  · rfl
  · rw [event_billing]

theorem waveDone_displayed {r : Rect} (price : r.price = true) (s : State) : (waveDone r s).billing.displayed = r.version := by
  simp only [waveDone, price, if_true]
  rw [priceCheck_displayed, appRetire_billing]

/-! Scans. -/

theorem outOfBand_scanAt (i : Nat) (r : Rect) (s : State) : (outOfBand i r s).disp.scanAt = s.disp.scanAt := by
  have released : (updQueue i (fun x => { x with req := none, granted := false }) (releaseOpt r.req s)).disp.scanAt = s.disp.scanAt :=
    congrArg (fun d => Display.scanAt { d with queue := [] }) (releaseOpt_disp r.req s)
  unfold outOfBand
  dsimp only
  split
  · exact released
  · rw [displayFault_disp]
    exact released

/-- Rectangles that join leave the scan's start as it is. -/
theorem joinFrom_scanAt (n i : Nat) (s : State) : (joinFrom n i s).disp.scanAt = s.disp.scanAt := by
  induction n generalizing i s with
  | zero => rfl
  | succ n ih =>
    unfold joinFrom
    split
    · rfl
    · split
      · split
        · exact (ih _ _).trans (outOfBand_scanAt ..)
        · exact ih ..
      · exact ih ..

/-! Rails (R412, R417). -/

theorem lowerRails_disp (s : State) : ∃ st scan, (lowerRails s).disp = { s.disp with state := st, scanAt := scan } := by
  unfold lowerRails
  split
  · exact ⟨_, _, rfl⟩
  · exact ⟨_, _, rfl⟩

theorem lowerRails_falls {s : State} (up : s.disp.state = 1 ∨ s.disp.state = 2) :
    lowerRails s = updDisp (fun d => { d with state := 3, scanAt := none }) s := if_pos up

theorem startRails_idle {s : State} (none : s.disp.queue.any (·.granted) = false) : startRails s = s :=
  if_neg fun ⟨_, _, _, granted⟩ => absurd (none.symm.trans granted) nofun

theorem startRails_starts {s : State} (down : s.disp.state = 0) (tried : s.disp.retryAt = none) (usable : displayUsable s = true)
    (granted : s.disp.queue.any (·.granted) = true) : startRails s = updDisp (fun d => { d with state := 1 }) s :=
  if_pos ⟨down, tried, usable, granted⟩

/-- The second failure of a rail start leaves the block faulty and nothing to drive. -/
theorem execRailFeedbackTimeout_again {k : Nat} {s : State} (run : s.regionsRun = true) (starts : s.disp.state = 1) (rail : k < 5)
    (again : s.disp.railTries ≠ 0) : ∃ t, execRailFeedbackTimeout k s = .next t ∧ t.disp.state = 3 ∧ t.disp.railFault = true ∧
      t.faults.display = true ∧ t.disp.queue = [] ∧ t.disp.flight = [] := by
  simp only [execRailFeedbackTimeout, lowerRails_falls (.inl starts)]
  rw [if_neg (by simp [run, starts, rail]), if_neg again]
  refine ⟨_, rfl, ?_⟩
  rw [abandonAll_faults, displayFault_faults]
  obtain ⟨dirty, disp⟩ := abandonAll_disp 2 true (displayFault 3 k
    { updDisp (fun d => { d with state := 3, scanAt := none }) s with
      disp := { (updDisp (fun d => { d with state := 3, scanAt := none }) s).disp with railFault := true, retryAt := none },
      faults := { (updDisp (fun d => { d with state := 3, scanAt := none }) s).faults with display := true } })
  rw [displayFault_disp] at disp
  rw [disp]
  exact ⟨rfl, rfl, rfl, rfl, rfl⟩

/-! The crack loop (R424). -/

/-- A crack leaves nothing to drive; where CRACK_BLOCKS says so no version counts as shown. -/
theorem crackFound_shows (ohm : Nat) (s : State) : (crackFound ohm s).disp.crack = true ∧ (crackFound ohm s).disp.flight = [] ∧
    (crackFound ohm s).disp.queue = [] ∧ (dcCrackBlocks s.disp.config = true → (crackFound ohm s).billing.displayed = 0) := by
  obtain ⟨dirty, abandoned⟩ := abandonAll_disp 2 false s
  obtain ⟨st, scan, lowered⟩ := lowerRails_disp (abandonAll 2 false s)
  have disp : (displayFault 1 (sat 16 ohm) (updDisp (fun d => { d with crack := true, retryAt := none })
      (lowerRails (abandonAll 2 false s)))).disp = { s.disp with
        flight := [], queue := [], idleAt := s.now, dirty := dirty, state := st, scanAt := scan, crack := true, retryAt := none } := by
    rw [displayFault_disp, updDisp, lowered, abandoned]
  unfold crackFound
  dsimp only
  split
  · rw [priceCheck_disp, disp]
    exact ⟨rfl, rfl, rfl, fun _ => by rw [priceCheck_displayed]⟩
  next blocks =>
    rw [disp]
    exact ⟨rfl, rfl, rfl, fun block => absurd block blocks⟩

/-- s with a loop reading kept, at the time of the periodic reading. -/
def crackRead (ohm : Nat) (s : State) : State := updDisp (fun d => { d with crackOhm := sat 16 ohm, crackAt := s.now }) s

theorem execCrackCheck_periodic {a b : Nat} {s : State} (run : s.regionsRun = true) (due : s.disp.crackAt + secF 60 ≤ s.now) :
    execCrackCheck a b s = .next (
      let t := crackRead (if crackHigh s a then b else a) s
      if crackHigh s a && crackHigh s b then (if s.disp.crack then t else crackFound b t)
      else if s.disp.crack then
        requestPrice (displayFault 0 (sat 16 (if crackHigh s a then b else a)) (updDisp (fun d => { d with crack := false }) t))
      else t) := by
  simp only [execCrackCheck, decide_eq_true due]
  rw [if_neg (by simp [run])]
  cases crackHigh s a && crackHigh s b with
  | true => exact (apply_ite ..).symm
  | false =>
    rw [Bool.and_true]
    exact (apply_ite ..).symm

/-! Requests that are made again (R413). -/

/-- Place i of the queue waits for no time to ask again. -/
def AsksAtOnce (i : Nat) (s : State) : Prop := ∃ x, s.disp.queue[i]? = some x ∧ x.retryAt = none

theorem askRect_asksAtOnce {i : Nat} {s : State} (idle : AsksAtOnce i s) (j : Nat) (r : Rect) : AsksAtOnce i (askRect j r s) := by
  obtain ⟨x, there, none⟩ := idle
  have place : (askRect j r s).disp.queue[i]? =
      (s.disp.queue[i]?).map (fun x => if j = i then { x with req := some (nextReq s), retryAt := Option.none } else x) :=
    List.getElem?_modify ..
  rw [there] at place
  refine ⟨_, place, ?_⟩
  dsimp only
  split
  · rfl
  · exact none

theorem serveQueue_asksAtOnce {i : Nat} {s : State} (idle : AsksAtOnce i s) : AsksAtOnce i (serveQueue s) := by
  unfold serveQueue
  split
  · exact idle
  · refine List.foldlRecOn _ _ idle fun t kept j _ => ?_
    split
    · split
      · exact askRect_asksAtOnce kept ..
      · exact kept
    · exact kept

theorem execDisplayRequestRetry_due {i t0 : Nat} {r : Rect} {s : State} (there : s.disp.queue[i]? = some r) (waits : r.retryAt = some t0)
    (run : s.regionsRun = true) (due : t0 + secF 1 ≤ s.now) :
    execDisplayRequestRetry i s = .next (serveQueue (updQueue i (fun x => { x with retryAt := none }) s)) := by
  simp only [execDisplayRequestRetry, there, waits]
  exact if_pos ⟨run, due⟩

theorem updQueue_asksAtOnce {i : Nat} {r : Rect} {s : State} (there : s.disp.queue[i]? = some r) :
    AsksAtOnce i (updQueue i (fun x => { x with retryAt := none }) s) := by
  have place : (updQueue i (fun x => { x with retryAt := none }) s).disp.queue[i]? =
      (s.disp.queue[i]?).map (fun x => if i = i then { x with retryAt := none } else x) := List.getElem?_modify ..
  rw [there] at place
  exact ⟨_, place, by dsimp only; rw [if_pos rfl]⟩

end Sys2Proof.Laws

/-! PROOF. O59: the price display (chapter 13). -/

namespace Sys2Proof.Laws

open Sys2Proof.Machine Sys2Proof.Safety

/-- A reading above CRACK_MAX keeps every rectangle out of the scan. -/
theorem scanRead_high {temp : Int} {ohm : Nat} {s : State} (high : dcCrackMax s.disp.config * 10 < ohm) :
    crackHigh (scanRead temp ohm s) ohm = true := by
  have config : (scanRead temp ohm s).disp.config = s.disp.config := (congrArg Display.config (scanRead_unread temp ohm s).1 :)
  rw [crackHigh, config, decide_eq_true high]

theorem panelTemp_clock (temp : Int) (s : State) : (panelTemp temp s).clock = s.clock :=
  Part.kept (p := .clock) (by simp [panelTemp_only, OnlyChanges.refl])

theorem scanRead_inside {temp : Int} (ohm : Nat) {s : State} (sound : s.disp.tempFault = false) (low : -400 ≤ temp) (high : temp ≤ 850) :
    ∃ gap, ∃ flag : Rect → Rect, (scanRead temp ohm s).disp = { s.disp with
      scanAt := some s.now, crackOhm := sat 16 ohm, temp := satInt 16 temp, band := bandAt s.disp temp, goodTemps := 0, tempFault := false,
      outOfBand := gap, flight := s.disp.flight.map flag } := by
  have inside : (decide (-400 ≤ temp) && decide (temp ≤ 850)) = true := by simp [low, high]
  simp only [scanRead, panelTemp, updDisp, inside, sound]
  exact ⟨_, _, rfl⟩

/-- The one rectangle that waits with leave joins a scan whose readings are sound, in the band of its temperature. -/
theorem scanRead_joins {temp : Int} {ohm : Nat} {r : Rect} {s : State} (queue : s.disp.queue = [r]) (granted : r.granted = true)
    (empty : s.disp.flight = []) (sound : s.disp.tempFault = false) (low : -400 ≤ temp) (high : temp ≤ 850)
    (whole : ohm ≤ dcCrackMax s.disp.config * 10) (table : scansOf s.disp (bandAt s.disp temp) r.kind ≠ 0) :
    (crackHigh (scanRead temp ohm s) ohm || (scanRead temp ohm s).disp.tempFault) = false ∧
    ∃ x, (joinFrom (scanRead temp ohm s).disp.queue.length 0 (scanRead temp ohm s)).disp.flight = [x] ∧
      (joinFrom (scanRead temp ohm s).disp.queue.length 0 (scanRead temp ohm s)).disp.queue = [] ∧
      x.handle = r.handle ∧ x.startAt = s.now ∧ x.band = bandAt s.disp temp := by
  obtain ⟨gap, flag, disp⟩ := scanRead_inside ohm sound low high
  have now : (scanRead temp ohm s).now = s.now :=
    congrArg Clock.tick (panelTemp_clock ..)
  generalize scanRead temp ohm s = u at disp now
  have waits : u.disp.queue = [r] := (congrArg Display.queue disp).trans queue
  have none : u.disp.flight = [] := (congrArg Display.flight disp).trans (congrArg (List.map _) empty)
  have band : u.disp.band = bandAt s.disp temp := congrArg Display.band disp
  have waves : scansOf u.disp u.disp.band r.kind = scansOf s.disp (bandAt s.disp temp) r.kind := by
    rw [band, scansOf, show u.disp.waves = s.disp.waves from (congrArg Display.waves disp :)]
    rfl
  have config : u.disp.config = s.disp.config := (congrArg Display.config disp :)
  have well : u.disp.tempFault = false := congrArg Display.tempFault disp
  refine ⟨by simp [crackHigh, config, whole, well], ?_⟩
  rw [waits, List.length_singleton, joinFrom_single waits granted none (by rwa [waves])]
  refine ⟨_, congrArg (· ++ _) none, congrArg (List.eraseIdx · 0) waits, rfl, now, band⟩

/-- What the end of a waveform changes of the display besides the queue and the light. -/
theorem waveCompleted_disp (r : Rect) (s : State) : (serveQueue (serveLight (waveDone r s))).disp = { s.disp with
    updates := satInc 32 s.disp.updates, dirty := if r.price then false else s.disp.dirty,
    light := (serveLight (waveDone r s)).disp.light, lightWait := (serveLight (waveDone r s)).disp.lightWait,
    queue := (serveQueue (serveLight (waveDone r s))).disp.queue } :=
  calc (serveQueue (serveLight (waveDone r s))).disp
      = { (serveLight (waveDone r s)).disp with queue := (serveQueue (serveLight (waveDone r s))).disp.queue } :=
        eq_of_unqueued (serveQueue_unqueued _)
    _ = { { (waveDone r s).disp with
          light := (serveLight (waveDone r s)).disp.light, lightWait := (serveLight (waveDone r s)).disp.lightWait } with
          queue := (serveQueue (serveLight (waveDone r s))).disp.queue } :=
        congrArg (fun d => { d with queue := (serveQueue (serveLight (waveDone r s))).disp.queue }) (eq_of_unlit (serveLight_unlit _))
    _ = _ := by rw [waveDone_disp]

/-- Settles O59, clause by clause: each by the equation of its command or row, and by what its steps leave of the display. -/
theorem priceDisplay : Obligations.PriceDisplay := by
  refine ⟨?write, ?update, ?lightOn, ?lightOff, ?load, ?scan, ?waveform, ?railsUp, ?railLate, ?railRetry, ?fallStart, ?fallDone, ?temperature,
    ?crack, ?retry, ?aon, ?totals⟩
  case write =>
    intro h x y w k lv s a role mode ok length canonical
    obtain ⟨bytes, inside, -⟩ := rectOk_bounds ok
    have pixels : (unpackLevels lv).length = k * w := by
      obtain ⟨m, rfl⟩ := Nat.dvd_of_mod_eq_zero bytes
      rw [unpackLevels_length, length, Nat.mul_comm k, show 8 * m * k = 2 * (4 * (m * k)) by ring, Nat.mul_div_cancel_left _ (by decide)]
    obtain ⟨drawn, rest⟩ := imageWritten_target (s := touchRole s) (a := (x, y, w, k)) inside pixels canonical
    have disp := displayWritten_disp (x, y, w, k) (unpackLevels lv) (touchRole s)
    have target := (congrArg Display.target disp :)
    change (displayWritten (x, y, w, k) (unpackLevels lv) (touchRole s)).disp.target =
      (imageWritten (x, y, w, k) (unpackLevels lv) (touchRole s)).disp.target at target
    refine ⟨_, execDisplayWrite_accepted a role mode ok length, ?_, ?_, (congrArg Display.shown disp :)⟩
    all_goals rw [target]
    · exact drawn
    · exact rest
  case update =>
    intro h x y w k kind s a role mode page ok known room whole
    have run := execDisplayUpdate_accepted a role mode page ok known room whole
    refine ⟨fun uncracked => ?_, fun cracked => ?_⟩
    · rw [if_neg (by simp [uncracked])] at run
      obtain ⟨r, mem, same⟩ := mem_updateQueued h (x, y, w, k) kind (touchRole s)
      exact ⟨_, r, run, queueTail_length .., mem, (congrArg Rect.handle same :), (congrArg Rect.area same :), (congrArg Rect.kind same :),
        (congrArg Display.handleCtr (updateQueued_disp h (x, y, w, k) kind (touchRole s)) :),
        queueTail_only _ (by decide) (by decide) (updDisp_only _ (by decide) (touchRole_only (by decide) (.refl _ s)))⟩
    · rwa [if_pos cracked] at run
  case lightOn =>
    intro h s a role mode uncracked whole safe dark
    have run := execDisplayLight_on a role mode uncracked whole safe dark
    cases free : lightFree s.disp with
    | true =>
      rw [if_pos free] at run
      exact ⟨_, run, rfl, nofun, updDisp_only _ (by decide) (touchRole_only (by decide) (.refl _ s))⟩
    | false =>
      rw [if_neg (by simp [free])] at run
      exact ⟨_, run, dark, fun _ => rfl, updDisp_only _ (by decide) (touchRole_only (by decide) (.refl _ s))⟩
  case lightOff =>
    intro h s a role mode none
    exact execDisplayLight_off a role mode none
  case load =>
    intro h b lo hi kind n off data s a mode band low high known some few short last order apart free
    have run := execWfLoad_last a mode band low high known some few short last order apart free
    have waves := congrArg Display.waves
      (serveQueue_unqueued (updDisp (tableTaken b kind n off (signedOf 8 lo) (signedOf 8 hi) data) (touchRole s)))
    change _ = vset s.disp.waves b _ at waves
    have wave := (congrArg (fun v => vget v b {}) waves).trans (vget_vset_self band ..)
    refine ⟨_, run, ?_, congrArg Wave.low wave, ?_⟩
    · exact (congrArg (fun w => vget (Wave.scans w) kind 0) wave).trans (vget_vset_self known ..)
    · exact (congrArg (fun w => vget (Wave.tables w) kind []) wave).trans (vget_vset_self known ..)
  case scan =>
    intro temp ohm s run up first
    have started := execScanStart_due run up first temp ohm
    obtain ⟨read, flights⟩ := scanRead_unread temp ohm s
    have begun : (scanRead temp ohm s).disp.scanAt = some s.now := (congrArg Display.scanAt read :)
    refine ⟨_, started, ?_, fun out => ?_, fun r queue granted empty sound low high whole table => ?_⟩
    · split
      · split
        · exact begun
        · exact (joinFrom_scanAt ..).trans begun
      · rfl
    · split
      next granted =>
        have high := out.resolve_left (by simp [granted])
        rw [if_pos (by rw [scanRead_high high, Bool.true_or])]
        exact flights
      · rfl
    · obtain ⟨passes, joins⟩ := scanRead_joins (ohm := ohm) queue granted empty sound low high whole table
      rw [if_pos (by simp [queue, granted]), passes, if_neg nofun]
      exact joins
  case waveform =>
    intro i r s flies run passed
    have done := execWaveformEnd_due flies run passed
    have ended := waveEnded_disp i r s
    cases flagged : r.flagged with
    | true =>
      rw [if_pos flagged] at done
      have disp := eq_of_unqueued (queueHead_unqueued (redriven r) (waveEnded i r s))
      obtain ⟨x, q, queue, head⟩ := queueHead_head (redriven r) (waveEnded i r s)
      refine ⟨_, done, ?_, ?_, fun a apart => ?_, nofun, nofun, fun _ => ⟨x, q, queue, ?_⟩⟩
      · rw [disp, ended]
      · rw [disp, ended]
      · rw [disp]
        exact waveEnded_shown i apart
      · exact ⟨(congrArg Rect.redrive head :), (congrArg Rect.pixels head :), (congrArg Rect.handle head :)⟩
    | false =>
      rw [if_neg (by simp [flagged])] at done
      have disp := waveCompleted_disp r (waveEnded i r s)
      refine ⟨_, done, ?_, ?_, fun a apart => ?_, fun _ => ?_, fun _ price => ⟨?_, ?_⟩, nofun⟩
      · rw [disp, ended]
      · rw [disp, ended]
      · rw [disp]
        exact waveEnded_shown i apart
      · rw [disp, ended]
      · rw [serveQueue_billing, serveLight_billing]
        exact waveDone_displayed price _
      · rw [disp, price]
        rfl
  case railsUp =>
    intro s run starts
    exact if_pos ⟨run, starts⟩
  case railLate =>
    intro k s run starts rail
    by_cases tries : s.disp.railTries = 0
    · have timeout : execRailFeedbackTimeout k s = .next (updDisp (fun d => { d with railTries := 1, retryAt := some s.now })
          (updDisp (fun d => { d with state := 3, scanAt := none }) s)) := by
        simp only [execRailFeedbackTimeout, lowerRails_falls (.inl starts)]
        rw [if_neg (by simp [run, starts, rail]), if_pos tries]
      exact ⟨_, timeout, rfl, fun _ => ⟨rfl, rfl, updDisp_only _ (by decide) (updDisp_only _ (by decide) (.refl _ s))⟩,
        fun again => absurd tries again⟩
    · obtain ⟨t, timeout, falls, rails, faulty, queue, flight⟩ := execRailFeedbackTimeout_again run starts rail tries
      exact ⟨t, timeout, falls, fun first => absurd first tries, fun _ => ⟨rails, faulty, queue, flight⟩⟩
  case railRetry =>
    intro t0 s waits run down due usable granted
    have retried : execRailRetry s = .next (updDisp (fun d => { d with state := 1 }) (updDisp (fun d => { d with retryAt := none }) s)) := by
      have starts : startRails (updDisp (fun d => { d with retryAt := none }) s) = _ := startRails_starts down rfl usable granted
      simp only [execRailRetry, waits]
      rw [if_pos ⟨run, down, due⟩, starts]
    exact ⟨_, retried, rfl, rfl, updDisp_only _ (by decide) (updDisp_only _ (by decide) (.refl _ s))⟩
  case fallStart =>
    intro s up empty idle
    have falls : execRailFallStart s = .next (updDisp (fun d => { d with state := 3, scanAt := none }) s) := by
      rw [execRailFallStart, if_pos ⟨up, empty, idle⟩, lowerRails_falls (.inr up)]
    exact ⟨_, falls, rfl, updDisp_only _ (by decide) (.refl _ s)⟩
  case fallDone =>
    intro s falls none
    have idle : startRails (updDisp (fun d => { d with state := 0 }) s) = _ := startRails_idle none
    exact (if_pos falls).trans (congrArg _ idle)
  case temperature =>
    intro c s run
    have read : execPanelTempReading c s = .next (serveQueue (panelTemp c s)) := if_pos run
    have disp := serveQueue_unqueued (panelTemp c s)
    by_cases inside : -400 ≤ c ∧ c ≤ 850
    · obtain ⟨good, gap, flag, shows⟩ := panelTemp_inside inside.1 inside.2 s
      exact ⟨_, read, (congrArg Display.temp disp).trans (congrArg Display.temp shows),
        fun _ _ => (congrArg Display.band disp).trans (congrArg Display.band shows), fun out => absurd inside (by omega)⟩
    · have shows := panelTemp_outside (temp := c) (by omega) s
      exact ⟨_, read, (congrArg Display.temp disp).trans (congrArg Display.temp shows), fun low high => absurd ⟨low, high⟩ inside,
        fun _ => ⟨(congrArg Display.band disp).trans (congrArg Display.band shows),
          (congrArg Display.tempFault disp).trans (congrArg Display.tempFault shows)⟩⟩
  case crack =>
    intro a b s run due
    refine ⟨_, execCrackCheck_periodic run due, fun first second uncracked => ?_, fun low => ?_⟩
    · dsimp only
      rw [if_pos (by rw [first, second]; rfl), if_neg (by simp [uncracked])]
      exact crackFound_shows b _
    · dsimp only
      rw [if_neg (by rcases low with low | low <;> simp [low])]
      split
      · obtain ⟨w, disp⟩ := requestPrice_unqueued (displayFault 0 (sat 16 (if crackHigh s a then b else a))
          (updDisp (fun d => { d with crack := false }) (crackRead (if crackHigh s a then b else a) s)))
        rw [displayFault_disp] at disp
        exact (congrArg Display.crack disp :)
      next uncracked => exact Bool.eq_false_iff.mpr uncracked
  case retry =>
    intro i r t0 s there waits run due
    have asked := execDisplayRequestRetry_due there waits run due
    obtain ⟨x, place, none⟩ := serveQueue_asksAtOnce (updQueue_asksAtOnce there)
    exact ⟨_, x, asked, place, none, execDisplayRequestRetry_only _ asked⟩
  case aon =>
    intro s run standby due
    have drawn : execAonRefresh s = .next (queueAon (updDisp (fun d => { d with aonAt := s.now }) s)) := if_pos ⟨run, standby, due⟩
    exact ⟨_, drawn, (congrArg Display.aonAt (queueAon_unqueued (updDisp (fun d => { d with aonAt := s.now }) s)) :),
      fun usable room wide high => queueAon_length usable room wide high⟩
  case totals =>
    intro s run bench due
    have drawn : execBenchmarkTotalsRedraw s = .next (drawTotals s) := if_pos ⟨run, bench, due⟩
    have disp := queueAreas_unqueued (hostAreas s.disp.config) 0 true (updDisp (fun d => { d with benchAt := s.now }) s)
    exact ⟨_, drawn, (congrArg Display.benchAt disp :), (congrArg Display.shown disp :), execBenchmarkTotalsRedraw_only drawn⟩

end Sys2Proof.Laws

/-!
PROOF. What journal records leave of the storage (chapter 14, R435 to R437): every field but those of the journal's own areas; and what the
sources of a reset leave of it.
-/

namespace Sys2Proof.Laws

open Sys2Proof.Machine Sys2Proof.Safety

/-- The storage apart from its journal. -/
def unjournalled (t : Storage) : Storage :=
  { t with metJseq := 0, appJseq := 0, metUsed := 0, appUsed := 0, metLive := [], appLive := [], compactions := 0 }

/-- A field that is no part of the journal is the same where the storages are the same apart from it. -/
theorem field_of_unjournalled {β : Type} (f : Storage → β) (reads : ∀ t, f (unjournalled t) = f t) {t u : Storage}
    (same : unjournalled t = unjournalled u) : f t = f u := (reads t).symm.trans ((congrArg f same).trans (reads u))

/-- Parts other than storage that change leave it whole. -/
theorem unjournalled_of_only {s t : State} (o : OnlyChanges (Part.except .store) s t) : unjournalled t.store = unjournalled s.store :=
  congrArg unjournalled (Part.kept o)

/-! Records. -/

@[simp] theorem journalApp_unjournalled (type key n : Nat) (s : State) : unjournalled (journalApp type key n s).store = unjournalled s.store := by
  unfold journalApp
  dsimp only
  split <;> rfl

@[simp] theorem journalMet_unjournalled (type key n : Nat) (s : State) : unjournalled (journalMet type key n s).store = unjournalled s.store := by
  unfold journalMet
  dsimp only
  split <;> rfl

@[simp] theorem appRetire_unjournalled (hit : JRec → Bool) (s : State) : unjournalled (appRetire hit s).store = unjournalled s.store := by
  unfold appRetire
  split
  · rfl
  · exact foldl_kept (fun s => unjournalled s.store) (fun s (r : JRec) => journalApp_unjournalled retireType r.origin 8 s) _ _

@[simp] theorem metRetire_unjournalled (hit : JRec → Bool) (s : State) : unjournalled (metRetire hit s).store = unjournalled s.store := by
  unfold metRetire
  split
  · rfl
  · exact foldl_kept (fun s => unjournalled s.store) (fun s (r : JRec) => journalMet_unjournalled retireType r.origin 8 s) _ _

@[simp] theorem journalNew_unjournalled (type key n : Nat) (s : State) : unjournalled (journalNew type key n s).store = unjournalled s.store := by
  simp [journalNew]

@[simp] theorem journalUpdate_unjournalled (slot kind n : Nat) (s : State) :
    unjournalled (journalUpdate slot kind n s).store = unjournalled s.store := journalNew_unjournalled ..

@[simp] theorem emit_unjournalled (code : Nat) (payload : List Byte) (ack : Bool) (s : State) :
    unjournalled (emit code payload ack s).store = unjournalled s.store := by
  unfold emit
  dsimp only
  split
  · exact journalApp_unjournalled ..
  · split <;> rfl

@[simp] theorem event_unjournalled (code : Nat) (payload : List Byte) (s : State) :
    unjournalled (event code payload s).store = unjournalled s.store := emit_unjournalled ..

/-! Sources of a reset (R89). -/

theorem writeSlot_unjournalled (c : Slot) (s : State) : unjournalled (writeSlot c s).store = unjournalled s.store := by
  simp [writeSlot, boundaryRetire]

theorem assertSave_unjournalled (s : State) : unjournalled (assertSave s).store = unjournalled s.store := by
  have cut : unjournalled (pipelineCut s).store = unjournalled s.store :=
    unjournalled_of_only (by simp [pipelineCut_only, OnlyChanges.refl])
  have finished : unjournalled (finishSave (pipelineCut s)).store = unjournalled (pipelineCut s).store := by
    unfold finishSave
    split
    · exact writeSlot_unjournalled ..
    · rfl
  unfold assertSave
  split
  · rfl
  · exact (writeSlot_unjournalled ..).trans (finished.trans cut)

@[simp] theorem releaseOpt_store (id : Option Nat) (s : State) : (releaseOpt id s).store = s.store := by
  cases id <;> rfl

theorem chTo_unjournalled (c new : Nat) (s : State) : unjournalled (chTo c new s).store = unjournalled s.store := by
  unfold chTo
  dsimp only
  split
  case isTrue => rfl
  case isFalse => split <;> split <;> split <;> simp [updCh, updBank]

theorem channelsOff_unjournalled (cs : List Nat) (s : State) : unjournalled (channelsOff cs s).store = unjournalled s.store := by
  refine foldl_kept (fun s => unjournalled s.store) (fun s c => ?_) cs s
  dsimp only
  split
  · rfl
  · exact chTo_unjournalled c 0 _

theorem dropJobs_unjournalled (n : Nat) (s : State) : unjournalled (dropJobs n s).store = unjournalled s.store := by
  have left (s : State) (j : BusJob) : unjournalled (if j.join then driverOff j.driver s else s).store = unjournalled s.store :=
    unjournalled_of_only (by split <;> simp [driverOff_only, OnlyChanges.refl])
  have ended (s : State) (j : BusJob) : unjournalled (endJob j s).store = unjournalled s.store := by
    unfold endJob
    dsimp only
    split
    · exact emit_unjournalled ..
    · rfl
  unfold dropJobs
  dsimp only
  rw [foldl_kept (fun s => unjournalled s.store) ended, foldl_kept (fun s => unjournalled s.store) left]

theorem safeSeq_unjournalled (s : State) (n : Nat) : unjournalled (safeSeq s n).store = unjournalled s.store := by
  have off : unjournalled (modulesOff n (dropJobs n s)).store = unjournalled s.store := dropJobs_unjournalled n s
  have moved (new : Nat) (t : State) : unjournalled (seqTo n new t).store = unjournalled t.store := by
    unfold seqTo
    dsimp only
    split
    · rfl
    · exact event_unjournalled ..
  unfold safeSeq
  dsimp only
  split
  · exact (moved 7 _).trans off
  · exact off

theorem outputsSafe_unjournalled (s : State) : unjournalled (outputsSafe s).store = unjournalled s.store := by
  have armed (s : State) : unjournalled (dropPullIn (List.range 24) (armHwOff (List.range 24) s)).store = unjournalled s.store :=
    unjournalled_of_only (by simp [dropPullIn_only, armHwOff_only, OnlyChanges.refl])
  have light (s : State) : unjournalled (lightSafe s).store = unjournalled s.store := by
    unfold lightSafe
    split
    · exact event_unjournalled ..
    · rfl
  have pulses (s : State) : unjournalled (releasePulses s).store = unjournalled s.store := rfl
  have pilots (s : State) : unjournalled (pilotsSafe s).store = unjournalled s.store := rfl
  unfold outputsSafe
  dsimp only
  rw [pulses, light, pilots, channelsOff_unjournalled, foldl_kept (fun s => unjournalled s.store) safeSeq_unjournalled, armed]

theorem systemAssert_unjournalled (ran : Bool) (s : State) : unjournalled (systemAssert ran s).store = unjournalled s.store := by
  have released (f : Reset → Reset) (s : State) : unjournalled (sitePadsOff (updRst f s)).store = unjournalled s.store :=
    unjournalled_of_only (by simp [sitePadsOff_only, updRst_only, OnlyChanges.refl])
  unfold systemAssert
  dsimp only
  split
  · rw [assertSave_unjournalled, released, outputsSafe_unjournalled]
  · rw [released, outputsSafe_unjournalled]

/-- A source of a reset touches the journal alone of the storage. -/
theorem unjournalled_outlasts (t : Storage) : OutlastsSources (fun s => unjournalled s.store = unjournalled t) where
  elsewhere o h := (congrArg unjournalled (o .store (by decide))).trans h
  core h := (unjournalled_of_only (coreAssert_only (by decide) (by decide) (by decide) (.refl _ _))).trans h
  system ran _ h := (systemAssert_unjournalled ran _).trans h

/-- A source that is asserted while the device runs stands among those asserted. -/
theorem assertSource_asserted {s : State} (on : s.power.supply = .on) (run : s.running = true) (src : Nat) :
    (assertSource src s).rst.asserted.contains src = true := by
  have phase : s.rst.phase = .running := by
    simp only [State.running, Bool.and_eq_true, beq_iff_eq] at run
    exact run.2
  unfold assertSource
  dsimp only
  split
  next there => exact there.resolve_left fun out => out on
  · split
    · simp [updRst]
    · rw [phase]
      simp [beginReset, updRst]

end Sys2Proof.Laws

/-!
PROOF. The image's way along the chain (chapter 14, R451 to R456): what staging, messages and the entries of CHAIN_STATE leave.
-/

namespace Sys2Proof.Laws

open Sys2Proof.Machine Sys2Proof.Safety

/-! The staging slot (R445, R451, R456). -/

theorem dropErases_store (what : Nat) (s : State) :
    (dropErases what s).store = { s.store with erasing := s.store.erasing.filter (fun e => e.what != what) } := by
  have released (l : List Erase) : (l.foldl (fun s e => releaseOpt e.req s) s).store = s.store :=
    foldl_kept (·.store) (fun s (e : Erase) => releaseOpt_store e.req s) l s
  simp only [dropErases, updStore, released]

@[simp] theorem journalUpdate_chain (slot kind n : Nat) (s : State) : (journalUpdate slot kind n s).chain = s.chain :=
  Part.kept (p := .chain) (by simp [journalUpdate_only, OnlyChanges.refl])

/-- An emptied staging leaves nothing of the image or of its chain. -/
theorem emptyStaging_empties (s : State) : (emptyStaging s).chain = {} ∧ (emptyStaging s).store.stagingSlot = {} := by
  unfold emptyStaging
  dsimp only
  exact ⟨journalUpdate_chain .., field_of_unjournalled Storage.stagingSlot (fun _ => rfl) (journalUpdate_unjournalled ..)⟩

theorem stagingDone_unjournalled (result : Nat) (s : State) : unjournalled (stagingDone result s).store = unjournalled s.store := by
  unfold stagingDone
  split
  · rfl
  · exact event_unjournalled ..

/-- A staging that ends whole marks its slot, and touches its blocks no more. -/
theorem stagingComplete_slot (s : State) :
    (stagingComplete s).store.stagingSlot = { s.store.stagingSlot with complete := true } := by
  have done : (stagingDone 0 (journalUpdate 2 0 8 { s with
      store := { s.store with stagingSlot := { s.store.stagingSlot with complete := true } },
      chain := { s.chain with staging := 2 } })).store.stagingSlot = { s.store.stagingSlot with complete := true } :=
    field_of_unjournalled Storage.stagingSlot (fun _ => rfl) ((stagingDone_unjournalled 0 _).trans (journalUpdate_unjournalled ..))
  unfold stagingComplete
  dsimp only
  split <;> exact done

/-- What a half block makes of the slot's blocks (R445). -/
def slotAfter (k half : Nat) (data tag : List Byte) (s : State) : ImgSlot :=
  if holdsBlock s.store.stagingSlot k then s.store.stagingSlot else (putHalf s k half data tag s.store.stagingSlot).1

/-- u with a half block stored: the progress word follows what is held, and a slot that is whole ends the staging. -/
def halfStored (before : Nat) (u : State) : State :=
  let t := if before < stagedHeld u then journalUpdate 2 0 8 (updChain (fun c => { c with progressAt := u.now }) u) else u
  if stagedHeld t = stagedBlocks t ∧ t.chain.staging = 1 then stagingComplete t else t

theorem halfStored_slot (before : Nat) (u : State) : ∃ whole,
    (halfStored before u).store.stagingSlot = { u.store.stagingSlot with complete := whole } := by
  unfold halfStored
  extract_lets t
  have noted : t.store.stagingSlot = u.store.stagingSlot := by
    dsimp only [t]
    split
    · exact field_of_unjournalled Storage.stagingSlot (fun _ => rfl) (journalUpdate_unjournalled ..)
    · rfl
  split
  · exact ⟨true, (stagingComplete_slot t).trans (by rw [noted])⟩
  · exact ⟨_, noted⟩

/-- s with the slot as a half block leaves it, and its bytes counted for the rate. -/
def slotPut (k half : Nat) (data tag : List Byte) (s : State) : State :=
  { s with
    store := { s.store with stagingSlot := (putHalf s k half data tag s.store.stagingSlot).1 },
    chain := { s.chain with rateBytes := (s.now, data.length + tag.length) ::
      s.chain.rateBytes.filter (fun y => decide (s.now < y.1 + secF 10)) } }

theorem stageHalf_new {k : Nat} {s : State} (new : holdsBlock s.store.stagingSlot k = false) (half : Nat) (data tag : List Byte) :
    stageHalf k half data tag s =
      (halfStored (stagedHeld s) (slotPut k half data tag s), (putHalf s k half data tag s.store.stagingSlot).2) :=
  if_neg (by simp [new])

theorem stageHalf_held {k : Nat} {s : State} (there : holdsBlock s.store.stagingSlot k = true) (half : Nat) (data tag : List Byte) :
    stageHalf k half data tag s = (s, true) := if_pos there

theorem slotPut_slot (k half : Nat) (data tag : List Byte) (s : State) :
    (slotPut k half data tag s).store.stagingSlot = (putHalf s k half data tag s.store.stagingSlot).1 := rfl

theorem stageHalf_slot (k half : Nat) (data tag : List Byte) (s : State) : ∃ whole,
    (stageHalf k half data tag s).1.store.stagingSlot = { slotAfter k half data tag s with complete := whole } := by
  cases there : holdsBlock s.store.stagingSlot k with
  | true =>
    rw [stageHalf_held there, slotAfter, if_pos there]
    exact ⟨_, rfl⟩
  | false =>
    obtain ⟨whole, slot⟩ := halfStored_slot (stagedHeld s) (slotPut k half data tag s)
    rw [slotPut_slot] at slot
    rw [stageHalf_new there, slotAfter, if_neg (by simp [there])]
    dsimp only at slot ⊢
    exact ⟨whole, slot⟩

/-- The block that a half block makes: the one that was there, or a new one. -/
def halfBlock (k half : Nat) (data tag : List Byte) (x : ImgSlot) : ImgBlock :=
  let b := (x.blocks.find? (fun b => b.index == k)).getD { index := k }
  if half = 0 then { b with half0 := data } else { b with half1 := data, tag := tag }

theorem halfBlock_index (k half : Nat) (data tag : List Byte) (x : ImgSlot) : (halfBlock k half data tag x).index = k := by
  have index : ((x.blocks.find? (fun b => b.index == k)).getD { index := k }).index = k := by
    cases found : x.blocks.find? (fun b => b.index == k) with
    | none => rfl
    | some b => simpa using List.find?_some found
  unfold halfBlock
  dsimp only
  split <;> exact index

/-- The slot without a block. -/
def withoutBlock (k : Nat) (x : ImgSlot) : ImgSlot := { x with blocks := x.blocks.filter (fun b => b.index != k) }

/-- A half block is stored, or the whole block that it makes is discarded for its tag. -/
theorem putHalf_cases (s : State) (k half : Nat) (data tag : List Byte) (x : ImgSlot) :
    putHalf s k half data tag x = (withoutBlock k x, false) ∨
    putHalf s k half data tag x = ({ withoutBlock k x with blocks := (withoutBlock k x).blocks ++ [halfBlock k half data tag x] }, true) := by
  have put : putHalf s k half data tag x =
      if (halfBlock k half data tag x).whole ∧ !blockOk s (hdrId x.header) (halfBlock k half data tag x) then (withoutBlock k x, false)
      else ({ withoutBlock k x with blocks := (withoutBlock k x).blocks ++ [halfBlock k half data tag x] }, true) := rfl
  rw [put]
  split
  · exact .inl rfl
  · exact .inr rfl

theorem putHalf_header (s : State) (k half : Nat) (data tag : List Byte) (x : ImgSlot) : (putHalf s k half data tag x).1.header = x.header := by
  rcases putHalf_cases s k half data tag x with put | put <;> rw [put] <;> rfl

/-- A first half that is stored stands in the slot. -/
theorem putHalf_stores {s : State} {k : Nat} {data tag : List Byte} {x : ImgSlot} (ok : (putHalf s k 0 data tag x).2 = true) :
    ∃ b ∈ (putHalf s k 0 data tag x).1.blocks, b.index = k ∧ b.half0 = data := by
  rcases putHalf_cases s k 0 data tag x with put | put
  · rw [put] at ok
    exact nomatch ok
  · rw [put]
    exact ⟨_, List.mem_append_right _ (List.mem_singleton_self _), halfBlock_index .., rfl⟩

/-- A block that is discarded is gone. -/
theorem putHalf_discards {s : State} {k half : Nat} {data tag : List Byte} {x : ImgSlot} (bad : (putHalf s k half data tag x).2 = false) :
    ∀ b ∈ (putHalf s k half data tag x).1.blocks, b.index ≠ k := by
  rcases putHalf_cases s k half data tag x with put | put
  · rw [put]
    intro b mem
    simpa using (List.mem_filter.mp mem).2
  · rw [put] at bad
    exact nomatch bad

theorem stageHalf_header (k half : Nat) (data tag : List Byte) (s : State) :
    (stageHalf k half data tag s).1.store.stagingSlot.header = s.store.stagingSlot.header := by
  obtain ⟨whole, slot⟩ := stageHalf_slot k half data tag s
  rw [slot]
  show (slotAfter k half data tag s).header = _
  unfold slotAfter
  split
  · rfl
  · exact putHalf_header ..

theorem stageHalf_blocks {k : Nat} {s : State} (new : holdsBlock s.store.stagingSlot k = false) (half : Nat) (data tag : List Byte) :
    (stageHalf k half data tag s).1.store.stagingSlot.blocks = (putHalf s k half data tag s.store.stagingSlot).1.blocks := by
  obtain ⟨whole, slot⟩ := stageHalf_slot k half data tag s
  rw [slot, slotAfter, if_neg (by simp [new])]

@[simp] theorem forward16_store (s : State) : (forward16 s).store = s.store :=
  Part.kept (p := .store) (by simp [forward16_only, OnlyChanges.refl])

/-! Offers (R451, R455, R456). -/

/-- An OFFER goes to the next node and to no other, and of the chain it starts the wait for the answer anew. -/
theorem sendOffer_sends {n pos : Nat} {s : State} (next : s.chain.next = some (n, pos)) :
    (sendOffer s).chain = { s.chain with nextAnswered := false, heardAt := s.now } ∧
    ∃ q, (sendOffer s).trv.own = s.trv.own ++ [q] ∧ q.final = n := by
  rw [sendOffer]
  split
  next m at_ there =>
    obtain ⟨rfl, -⟩ := Prod.mk.inj (Option.some.inj (there.symm.trans next))
    exact ⟨rfl, _, rfl, rfl⟩
  next none => exact absurd (none.symm.trans next) nofun

/-- An OFFER changes of the chain the wait for its answer alone. -/
theorem sendOffer_chain (s : State) : ∃ heard, (sendOffer s).chain = { s.chain with
    nextAnswered := if s.chain.next.isSome then false else s.chain.nextAnswered, heardAt := heard } := by
  rw [sendOffer]
  split
  next next =>
    rw [next]
    exact ⟨s.now, rfl⟩
  next none =>
    rw [none]
    exact ⟨_, rfl⟩

@[simp] theorem sendOffer_store (s : State) : (sendOffer s).store = s.store :=
  Part.kept (p := .store) (by simp [sendOffer_only, OnlyChanges.refl])

/-- A refused offer is answered upstream and reported to the origin. -/
theorem refuseOffer_answers (src origin id result : Nat) (s : State) : (refuseOffer src origin id result s).chain = s.chain ∧
    (refuseOffer src origin id result s).store = s.store ∧ (refuseOffer src origin id result s).trv.own.length = s.trv.own.length + 2 := by
  obtain ⟨q, r, own⟩ : ∃ q r, (refuseOffer src origin id result s).trv.own = (s.trv.own ++ [q]) ++ [r] := ⟨_, _, rfl⟩
  exact ⟨rfl, rfl, by simp [own]⟩

theorem beginStaging_begins (hdr : List Byte) (c : Chain) (s : State) : (beginStaging hdr c s).chain = { c with
      staging := 1, ready := false, erased := 0, progressAt := s.now, sentAt := s.now, reportAt := s.now, heardAt := s.now } ∧
    (beginStaging hdr c s).store.stagingSlot = { header := hdr } ∧ (beginStaging hdr c s).ease.nextId = s.ease.nextId + 1 := ⟨rfl, rfl, rfl⟩

/-- The chain of a member that takes an offer. -/
def offerChain (src origin : Nat) (nodes : List Nat) (pos : Nat) : Chain :=
  { byHost := false, origin := origin, upstream := src, position := pos, list := nodes,
    next := match nodes[pos]? with | some n => some (n, pos + 1) | none => none }

theorem execChainOffer_idle {src origin pos : Nat} {hdr : List Byte} {nodes : List Nat} {s : State} (listens : chainListens s = true)
    (short : nodes.length ≤ 63) (idle : s.chain.staging = 0) : execChainOffer src origin hdr nodes pos s = .next (
      if !headerOk s hdr || s.modes.activating then refuseOffer src origin (hdrId hdr) (if headerOk s hdr then 1 else 2) s
      else sendOffer (beginStaging hdr (offerChain src origin nodes pos) s)) := by
  have none : stagingRuns s = false := by simp [stagingRuns, idle]
  simp only [execChainOffer]
  rw [if_neg (by simp [listens, short]), if_neg (by simp [none]), if_neg (by simp [idle])]
  exact (apply_ite ..).symm

/-! Answers, blocks and progress (R452 to R454). -/

/-- Blocks that go on never go back. -/
theorem pump_advances (k : Nat) (s : State) : s.chain.nextFrom ≤ (pump k s).chain.nextFrom := by
  induction k generalizing s with
  | zero => exact Nat.le_refl _
  | succ k ih =>
    rw [pump]
    split
    next dst _ _ =>
      dsimp only
      split
      · exact Nat.le_of_succ_le (ih (updChain (fun c => { c with nextFrom := s.chain.nextFrom + 1 }) (sendBlock dst s.chain.nextFrom s)))
      · exact Nat.le_refl _
    · exact Nat.le_refl _

theorem answerTaken_chain (src first : Nat) (s : State) : ∃ entries, (answerTaken src first s).chain = { s.chain with
    nextAnswered := true, nextFrom := first, nextAcked := (first : Int) - 1, heardAt := s.now, entries := entries } := by
  unfold answerTaken
  dsimp only
  split
  · exact ⟨_, rfl⟩
  · exact ⟨_, rfl⟩

theorem execChainAnswer_refused {src pos res : Nat} {s : State} (next : s.chain.next = some (src, pos)) (listens : chainListens s = true)
    (staging : s.chain.staging ≠ 0) (refused : res ≠ 0) (first : Nat) : execChainAnswer src (stagedId s) res first s =
      .next (sendOffer (updChain (fun c => { c with next := successor s src, nextAnswered := false, nextAcked := -1 }) s)) := by
  simp only [execChainAnswer, next]
  exact (if_neg (by simp [listens, staging])).trans (if_neg refused)

/-- An acknowledgement carries the highest block held without a gap. -/
theorem chainSend_packet (dst type : Nat) (body : List Byte) (s : State) : ∃ q, (chainSend dst type body s).trv.own = s.trv.own ++ [q] ∧
    q.final = dst ∧ q.service = 3 ∧ q.payload = le 1 type ++ le 16 (stagedId s) ++ body := ⟨_, rfl, rfl, rfl, rfl⟩

/-- What a report leaves in the entries: the node, its blocks, and when it was heard. -/
def Heard (node blocks now : Nat) (e : ChainPos) : Prop := e.node = node ∧ e.blocks = blocks ∧ e.heardAt = now

theorem markSlow_heard {node blocks now : Nat} {s : State} (h : ∃ e ∈ s.chain.entries, Heard node blocks now e) :
    ∃ e ∈ (markSlow s).chain.entries, Heard node blocks now e := by
  obtain ⟨e, mem, name, count, heard⟩ := h
  refine ⟨_, List.mem_map_of_mem mem, ?_⟩
  split <;> exact ⟨name, count, heard⟩

/-- An entry that moves to the end is heard as it moves. -/
theorem bypass_heard {node blocks i : Nat} {r : ChainPos} {s : State} (slow : r = s.chain.entries.getD i {})
    (h : ∃ e ∈ s.chain.entries, Heard node blocks s.now e) : ∃ e ∈ (bypass i r s).chain.entries, Heard node blocks s.now e := by
  obtain ⟨e, mem, name, count, heard⟩ := h
  rw [bypass_entries]
  obtain ⟨j, place⟩ := List.mem_iff_getElem?.mp mem
  by_cases here : j = i
  · have entry : r = e := by rw [slow, ← here, List.getD_eq_getElem?_getD, place]; rfl
    rw [entry]
    exact ⟨_, List.mem_append_right _ (List.mem_singleton_self _), name, count, rfl⟩
  · exact ⟨e, List.mem_append_left _ (List.mem_eraseIdx_iff_getElem?.mpr ⟨j, here, place⟩), name, count, heard⟩

/-- The entry of a node that the entries name, as a report rewrites it. -/
theorem mem_updEntry {node : Nat} {s : State} {p : ChainPos → Bool} (known : (s.chain.entries.drop 1).any p = true)
    (names : ∀ e, p e = true → e.node = node) (f : ChainPos → ChainPos) :
    ∃ e, e.node = node ∧ { f e with shown := true } ∈ (updEntry node f s).chain.entries := by
  have found : s.chain.entries.any (fun e => e.node == node) = true := by
    obtain ⟨e, mem, hit⟩ := List.any_eq_true.mp known
    exact List.any_eq_true.mpr ⟨e, List.mem_of_mem_drop mem, by simpa using names e hit⟩
  obtain ⟨e, hit, mem⟩ := mem_updFirst found (fun e => { f e with shown := true })
  exact ⟨e, by simpa using hit, mem⟩

theorem progressTaken_heard {src k : Nat} {s : State} (known : (s.chain.entries.drop 1).any (fun e => e.node == src) = true)
    (small : k < 5120) (rate : Nat) : ∃ e ∈ (progressTaken src k rate s).chain.entries, Heard src (k + 1) s.now e := by
  have held : sat 16 ((k + 1) % 2 ^ 32) = k + 1 := by
    rw [Nat.mod_eq_of_lt (by omega), sat]
    omega
  obtain ⟨e, name, mem⟩ := mem_updEntry known (fun e hit => by simpa using hit) (fun e => { e with
    blocks := sat 16 ((k + 1) % 2 ^ 32), rate := sat 32 rate, heardAt := s.now, state := if e.ended then e.state else 2 })
  exact markSlow_heard ⟨_, mem, name, held, rfl⟩

theorem execChainProgress_taken {src k : Nat} {s : State} (listens : chainListens s = true) (origin : s.chain.byHost = true)
    (staging : s.chain.staging ≠ 0) (known : (s.chain.entries.drop 1).any (fun e => e.node == src) = true) (rate : Nat) :
    execChainProgress src (stagedId s) k rate s = match slowHop (progressTaken src k rate s) with
      | some (i, r) => .next (bypass i r (progressTaken src k rate s))
      | none => .next (progressTaken src k rate s) :=
  if_neg (by simp only [isOrigin, listens, origin, known]; simp [staging])

theorem execChainDone_entry {src : Nat} {s : State} (listens : chainListens s = true) (origin : s.chain.byHost = true)
    (staging : s.chain.staging ≠ 0) (known : (s.chain.entries.drop 1).any (fun e => e.node == src && !e.ended) = true) (res : Nat) :
    ∃ k, execChainDone src (stagedId s) res s = .next (chainNode src res k (updChain (fun c => { c with progressAt := s.now })
      (updEntry src (fun e => { e with state := if res = 0 then 3 else if res = 2 ∨ res = 3 then 4 else 5, blocks := sat 16 k }) s))) :=
  ⟨_, if_neg (by simp only [isOrigin, listens, origin, known]; simp [staging])⟩

end Sys2Proof.Laws

/-!
PROOF. The image commands (chapter 14, R445, R447, R449, R451, R456), and the storage's own procedures: reclaim and refresh (R430, R431, R441,
R442).
-/

namespace Sys2Proof.Laws

open Sys2Proof.Machine Sys2Proof.Safety

/-! Commands that are turned away for a parameter. -/

theorem verdict_badParam {c : Cmd} {f : Byte} {s : State} (form : (c.level.formOk f && c.form) = true)
    (role : (c.role && (!flagExpert f || c.readOnly || decide (2 ≤ s.roles.role))) = true) (mode : c.mode = true) (unsealed : c.unsealed = true)
    (bad : c.params = false) : c.verdict f s = some .badParam := by
  simp [Cmd.verdict, form, role, mode, unsealed, bad]

/-- A header that is not accepted turns UPDATE_START away (R445). -/
theorem execUpdateStart_badHeader {h : Hdr} {hdr : List Byte} {s : State} (a : Accepted h 0x0B10 (hdr ++ [0]) s) (role : 2 ≤ s.roles.role)
    (size : hdr.length = 512) (bad : headerOk s hdr = false) :
    execUpdateStart h (hdr ++ [0]) s = .next (turnedAway s h 0x0B10 .badParam) := by
  have role := role_le_touchRole role
  have bad : headerOk (touchRole s) hdr = false := bad
  have header : (hdr ++ [0]).take 512 = hdr := List.take_left' size
  refine congrArg _ (hostCommand_refuse a.runs a.free a.short a.fresh a.rom (not_ack a.flags) (verdict_badParam ?_ ?_ rfl rfl ?_))
  · simp [updateStartCmd, Level.formOk, a.flags, a.basic, size]
  · simp [updateStartCmd, role, a.basic]
  · simp only [updateStartCmd, header, bad, Bool.and_false, Bool.false_and]

/-! UPDATE_DATA (R445). -/

/-- The payload of UPDATE_DATA. -/
def dataPayload (k half : Nat) (data tag : List Byte) : List Byte := le 4 k ++ le 1 half ++ data ++ tag

theorem dataPayload_fields {k half : Nat} {data tag : List Byte} (known : half ≤ 1) (size : data.length = 2048)
    (tagged : tag.length = 16 * half) (small : k < 2 ^ 32) : numAt (dataPayload k half data tag) 0 4 = k ∧
    byteAt (dataPayload k half data tag) 4 = half ∧ ((dataPayload k half data tag).drop 5).take 2048 = data ∧
    (dataPayload k half data tag).drop 2053 = tag ∧ (dataPayload k half data tag).length = if half = 0 then 2053 else 2069 := by
  refine ⟨?_, ?_, ?_, List.drop_left' (by simp [le_length, size]), ?_⟩
  · simp only [dataPayload, List.append_assoc]
    exact numAt_le 4 k _ small
  · rw [dataPayload, byteAt_append_left (by simp [le_length]), byteAt_append_left (by simp [le_length])]
    exact byteAt_last (le 4 k) (by omega)
  · rw [dataPayload, List.append_assoc _ data tag, List.drop_left' (by simp [le_length]), List.take_left' size]
  · simp only [dataPayload, List.length_append, le_length, size, tagged]
    split <;> omega

/-- A half block of the host is stored and goes on along the chain, or is answered BAD_PARAM. -/
theorem execUpdateData_stored {h : Hdr} {k half : Nat} {data tag : List Byte} {s : State} (a : Accepted h 0x0B11 (dataPayload k half data tag) s)
    (role : 2 ≤ s.roles.role) (known : half ≤ 1) (size : data.length = 2048) (tagged : tag.length = 16 * half)
    (staging : stagingRuns s = true) (ready : s.chain.ready = true) (host : s.chain.byHost = true) (inside : k < stagedBlocks s)
    (small : k < 2 ^ 32) : ∃ t, execUpdateData h (dataPayload k half data tag) s = .next (answered s h 0x0B11 (dataPayload k half data tag)
        (if (stageHalf k half data tag s).2 then .ok else .badParam) [] t) ∧ t.store = (stageHalf k half data tag (touchRole s)).1.store := by
  obtain ⟨block, which, bytes, mac, length⟩ := dataPayload_fields known size tagged small
  have role := role_le_touchRole role
  have staging : stagingRuns (touchRole s) = true := staging
  have ready : (touchRole s).chain.ready = true := ready
  have host : isOrigin (touchRole s) = true := host
  have inside : k < stagedBlocks (touchRole s) := inside
  have run : updateDataCmd (dataPayload k half data tag) (touchRole s) = { run :=
      if (stageHalf k half data tag (touchRole s)).2 then { st := forward16 (stageHalf k half data tag (touchRole s)).1 }
      else { st := (stageHalf k half data tag (touchRole s)).1, status := .badParam } } := by
    simp only [updateDataCmd, block, which, bytes, mac, length]
    simp [role, known, staging, ready, host, inside]
  rw [stageHalf_touchRole] at run
  cases ok : (stageHalf k half data tag s).2 with
  | true =>
    rw [ok] at run
    exact ⟨_, congrArg Host.Outcome.next (hostCommand_done a run nofun), forward16_store _⟩
  | false =>
    rw [ok] at run
    exact ⟨_, congrArg Host.Outcome.next (hostCommand_done a run nofun), rfl⟩

/-! Activation and confirmation (R447, R449). -/

theorem execImageActivate_decided {h : Hdr} {s : State} (a : Accepted h 0x0B13 [] s) (role : 2 ≤ s.roles.role)
    (mode : s.inRom = true ∨ standbyOrComm s = true) (idle : s.modes.activating = false) : execImageActivate h [] s = .next (
      if s.chain.staging == 2 && s.store.stagingSlot.complete && !trialRuns s then answered s h 0x0B13 [] .queued [] (activating h (touchRole s))
      else answered s h 0x0B13 [] .notConfirmed [] (touchRole s)) := by
  have role := role_le_touchRole role
  have mode : ((touchRole s).inRom || standbyOrComm (touchRole s)) = true := Bool.or_eq_true_iff.mpr mode
  have idle : (touchRole s).modes.activating = false := idle
  have cmd : imageActivateCmd h [] (touchRole s) = { run :=
      if s.chain.staging == 2 && s.store.stagingSlot.complete && !trialRuns s then { st := activating h (touchRole s), status := .queued }
      else { st := touchRole s, status := .notConfirmed } } := by
    have ready : ((touchRole s).chain.staging == 2 && (touchRole s).store.stagingSlot.complete && !trialRuns (touchRole s)) =
        (s.chain.staging == 2 && s.store.stagingSlot.complete && !trialRuns s) := rfl
    simp only [imageActivateCmd, mode, idle, decide_eq_true role, ready]
    cases s.chain.staging == 2 && s.store.stagingSlot.complete && !trialRuns s <;> rfl
  refine congrArg Host.Outcome.next ?_
  split
  next ready =>
    rw [if_pos ready] at cmd
    exact hostCommand_done a cmd nofun
  next refused =>
    rw [if_neg refused] at cmd
    exact hostCommand_done a cmd nofun

/-- The copied slot is the trial one; the staging slot stays. -/
theorem commitTrial_store (s : State) : unjournalled (commitTrial s).store = unjournalled { s.store with
    slots := vset s.store.slots (otherSlot s) s.store.stagingSlot,
    versions := vset s.store.versions (otherSlot s) (hdrVersion s.store.stagingSlot.header),
    bootOk := vset s.store.bootOk (otherSlot s) (contentsOk s s.store.stagingSlot),
    trial := true, trialBoots := 0, migrated := false, activateErased := 0 } := by
  unfold commitTrial
  dsimp only
  rw [journalUpdate_unjournalled]
  rfl

theorem otherSlot_lt (s : State) : otherSlot s < 2 := Nat.lt_succ_of_le (Nat.sub_le ..)

theorem commitTrial_running (s : State) : (commitTrial s).running = s.running := by
  have power : (commitTrial s).power = s.power := Part.kept (commitTrial_only (l_ := Part.except .power) (by decide) (by decide) (.refl _ s))
  have rst : (commitTrial s).rst = s.rst := Part.kept (commitTrial_only (l_ := Part.except .rst) (by decide) (by decide) (.refl _ s))
  rw [State.running, power, rst]
  rfl

theorem commitTrial_supply (s : State) : (commitTrial s).power.supply = s.power.supply :=
  congrArg Power.supply (Part.kept (commitTrial_only (l_ := Part.except .power) (by decide) (by decide) (.refl _ s)))

/-- An activation whose copy fails ends before its boot record: the target slot is empty. -/
theorem execActivationCopyDone_bad {s : State} (active : s.modes.activating = true) (erased : 12 ≤ s.store.activateErased)
    (run : s.running = true) (up : s.shutting = false) : execActivationCopyDone false s = .next (updateDone 5 (abandonActivation s)) := by
  have erased : ¬ s.store.activateErased < 12 := Nat.not_lt.mpr erased
  simp [execActivationCopyDone, active, erased, run, up]

theorem abandonActivation_store (s : State) : (abandonActivation s).store = { s.store with
    erasing := s.store.erasing.filter (fun e => e.what != 1), slots := vset s.store.slots (otherSlot s) {},
    versions := vset s.store.versions (otherSlot s) 0, bootOk := vset s.store.bootOk (otherSlot s) false, activateErased := 0 } := by
  simp only [abandonActivation, dropErases_store]

/-- The trial image is the running one for good. -/
theorem execConfirmImage_trial {h : Hdr} {s : State} (a : Accepted h 0x0B14 [] s) (role : 2 ≤ s.roles.role) (trial : trialRuns s = true) :
    ∃ t, execConfirmImage h [] s = .next (answered s h 0x0B14 [] .ok [] t) ∧ unjournalled t.store = unjournalled { s.store with
      running := otherSlot s, trial := false, trialBoots := 0, migrated := false,
      minVersion := max s.store.minVersion (vget s.store.versions (otherSlot s) 0), oldCopy := false, oldSettings := none,
      settingsOk := vset s.store.settingsOk (1 - s.store.settingsCopy) false } := by
  have role := role_le_touchRole role
  have trial : trialRuns (touchRole s) = true := trial
  have cmd : confirmImageCmd [] (touchRole s) = { run := (confirmImageCmd [] (touchRole s)).run } := by
    simp [confirmImageCmd, role]
  obtain ⟨t, run, store⟩ : ∃ t, (confirmImageCmd [] (touchRole s)).run = { st := t } ∧ unjournalled t.store = unjournalled { s.store with
      running := otherSlot s, trial := false, trialBoots := 0, migrated := false,
      minVersion := max s.store.minVersion (vget s.store.versions (otherSlot s) 0), oldCopy := false, oldSettings := none,
      settingsOk := vset s.store.settingsOk (1 - s.store.settingsCopy) false } := by
    simp only [confirmImageCmd, trial, Bool.not_true, Bool.false_eq_true, if_false]
    exact ⟨_, rfl, (event_unjournalled ..).trans (journalUpdate_unjournalled ..)⟩
  rw [run] at cmd
  exact ⟨t, congrArg Host.Outcome.next (hostCommand_done a cmd nofun), store⟩

theorem execConfirmImage_refused {h : Hdr} {s : State} (a : Accepted h 0x0B14 [] s) (role : 2 ≤ s.roles.role) (none : trialRuns s = false) :
    execConfirmImage h [] s = .next (answered s h 0x0B14 [] .notConfirmed [] (touchRole s)) := by
  have role := role_le_touchRole role
  have none : trialRuns (touchRole s) = false := none
  have cmd : confirmImageCmd [] (touchRole s) = { run := { st := touchRole s, status := .notConfirmed } } := by
    simp [confirmImageCmd, role, none]
  exact congrArg Host.Outcome.next (hostCommand_done a cmd nofun)

/-! Reclaim (R441, R442). -/

/-- A reclaim of segment g as it starts: towards a destination, with its live range. -/
def begunReclaim (g : Segment) (dest hi : Nat) (due : Bool) : Reclaim :=
  { source := g.id, dest := dest, lo := g.first, hi := hi, step := 1, refresh := due, gone := !g.whole }

theorem execReclaimStart_acked {d : Option Nat} {g : Segment} {s : State} (run : s.regionsRun = true) (up : s.shutting = false)
    (idle : s.store.reclaim = none) (source : reclaimSource d s = some (g, false)) :
    execReclaimStart d s = .next (journalApp 0x15 g.id 24 (updStore (fun t =>
      { t with reclaim := some (begunReclaim g g.id g.first false) }) s)) := by
  simp only [execReclaimStart, run, up, idle, source]
  rfl

theorem execReclaimStart_due {d : Option Nat} {g : Segment} {f : Nat × Nat} {s : State} (run : s.regionsRun = true) (up : s.shutting = false)
    (idle : s.store.reclaim = none) (source : reclaimSource d s = some (g, true)) (free : leastErased s.store.free = some f) :
    execReclaimStart d s = .next (journalApp 0x15 g.id 24 (updStore (fun t =>
      { t with reclaim := some (begunReclaim g f.1 (g.first + g.count) true) }) s)) := by
  simp only [execReclaimStart, run, up, idle, source, free]
  rfl

theorem execReclaimStepDone_free {r : Reclaim} {s : State} (run : s.regionsRun = true) (up : s.shutting = false)
    (under : s.store.reclaim = some r) (free : pageWaits s = false) (ok : Bool) : execReclaimStepDone ok s = .next (reclaimStep r ok s) := by
  simp [execReclaimStepDone, run, up, under, free]

theorem journalNew_reclaim (type key n : Nat) (s : State) : (journalNew type key n s).store.reclaim = s.store.reclaim :=
  field_of_unjournalled Storage.reclaim (fun _ => rfl) (journalNew_unjournalled type key n s)

/-- Step 4 moves the live range, and leaves the reclaim as it is. -/
theorem reclaimMap_reclaim (r : Reclaim) (s : State) : (reclaimMap r s).store.reclaim = s.store.reclaim := by
  unfold reclaimMap
  split
  · rfl
  · dsimp only
    split
    · rw [journalNew_reclaim]
      rfl
    · rw [journalNew_reclaim]

/-- The steps 1 to 5 of Table 14-6, whose work is done and read back whole, lead to the next. -/
theorem reclaimStep_next {r : Reclaim} {s : State} (under : s.store.reclaim = some r) (first : 1 ≤ r.step) (last : r.step ≤ 5)
    (dest : r.step = 2 → r.destErased = true) (source : r.step = 5 → r.erased = true) :
    ∃ q, (reclaimStep r true s).store.reclaim = some q ∧ q.step = r.step + 1 ∧ q.source = r.source := by
  have moved (f : Reclaim → Reclaim) : (updReclaim f s).store.reclaim = some (f r) := congrArg (Option.map f) under
  obtain step | step | step | step | step : r.step = 1 ∨ r.step = 2 ∨ r.step = 3 ∨ r.step = 4 ∨ r.step = 5 := by omega
  · simp only [reclaimStep, step]
    exact ⟨_, moved _, rfl, rfl⟩
  · simp only [reclaimStep, step, dest step, if_true]
    exact ⟨_, moved _, rfl, rfl⟩
  · simp only [reclaimStep, step, Bool.true_or, if_true]
    exact ⟨_, moved _, rfl, rfl⟩
  · simp only [reclaimStep, step]
    exact ⟨_, congrArg (Option.map _) ((reclaimMap_reclaim r s).trans under), rfl, rfl⟩
  · simp only [reclaimStep, step, source step, if_true]
    exact ⟨_, moved _, rfl, rfl⟩

/-- Step 6 ends the reclaim: the source joins the free segments unless it is lost. -/
theorem reclaimStep_ends {r : Reclaim} (last : 6 ≤ r.step) (ok : Bool) (s : State) : (reclaimStep r ok s).store.reclaim = none ∧
    (reclaimStep r ok s).store.free = s.store.free ++ (if r.gone then [] else [(r.source, r.hold + 1)]) := by
  have over_ (t : State) : unjournalled (reclaimOver r t).store = unjournalled t.store :=
    (appRetire_unjournalled ..).trans (journalApp_unjournalled ..)
  have ended (t : State) : (reclaimOver r t).store.reclaim = t.store.reclaim := field_of_unjournalled Storage.reclaim (fun _ => rfl) (over_ t)
  have joined (t : State) : (reclaimOver r t).store.free = t.store.free := field_of_unjournalled Storage.free (fun _ => rfl) (over_ t)
  unfold reclaimStep
  split
  iterate 5 next step => omega
  rw [ended, joined]
  refine ⟨rfl, ?_⟩
  dsimp only [updStore]
  split
  · exact (List.append_nil _).symm
  · rfl

/-! Blocks that are lost (R430, R431). -/

theorem storageFault_uncorrectable (kind part block : Nat) (s : State) :
    (storageFault kind part block s).store.uncorrectable = s.store.uncorrectable :=
  field_of_unjournalled Storage.uncorrectable (fun _ => rfl) (event_unjournalled ..)

theorem takeSpare_uncorrectable (s : State) : (takeSpare s).store.uncorrectable = s.store.uncorrectable := by
  unfold takeSpare
  dsimp only
  split
  · rw [storageFault_uncorrectable]
    rfl
  · rfl

/-- A block of another partition than the log's is replaced; what has been lost is not counted again. -/
theorem retireBlock_uncorrectable {part : Nat} (other : part ≠ 3) (block : Nat) (s : State) :
    (retireBlock part block s).store.uncorrectable = s.store.uncorrectable := by
  have told : (storageFault 0 part block (updStore (fun t => { t with grownBad := satInc 16 t.grownBad }) s)).store.uncorrectable =
      s.store.uncorrectable := storageFault_uncorrectable ..
  unfold retireBlock
  dsimp only
  rw [if_neg other]
  split
  · exact told
  · split
    · exact (takeSpare_uncorrectable _).trans told
    · exact told

theorem execNandBlockRefresh_lost {part : Nat} {b : Nat} {s : State} (run : s.regionsRun = true) (up : s.shutting = false) (slot : part < 2) :
    ∃ t, execNandBlockRefresh part b true s = .next t ∧ t.store.uncorrectable = satInc 16 s.store.uncorrectable ∧
      vget t.store.bootOk part true = false := by
  have other : part ≠ 3 := by omega
  simp only [execNandBlockRefresh]
  rw [if_neg (by simp [run, up]; omega), if_neg other, if_pos trivial]
  refine ⟨_, rfl, ?_, ?_⟩
  · exact (retireBlock_uncorrectable other b _).trans (storageFault_uncorrectable ..)
  · simp only [updStore, slot, if_true]
    exact vget_vset_self slot ..

end Sys2Proof.Laws

/-! PROOF. O60: storage and the chain update (chapter 14). -/

namespace Sys2Proof.Laws

open Sys2Proof.Machine Sys2Proof.Safety

theorem withModes_only {l : List Part} {u s : State} (v : ModeSt) (k : Part.modes ∈ l) (h : OnlyChanges l u s) :
    OnlyChanges l u (s.withModes v) := by
  apply OnlyChanges.upd h
  case h5 => exact fun absent => absurd k absent
  all_goals exact fun _ => rfl

/-- A slot that is erased is ready; the host's own staging tells no other node (R451, R452). -/
theorem execStagingSlotReady_ready {s : State} (run : s.regionsRun = true) (staging : stagingRuns s = true) (first : s.chain.ready = false)
    (erased : s.chain.erased = 12) :
    ∃ t, execStagingSlotReady s = .next t ∧ t.chain.ready = true ∧ (s.chain.byHost = true → t.trv = s.trv) := by
  have chain (u : State) : (updateProgressEvent u).chain.ready = u.chain.ready := (congrArg Chain.ready (updateProgressEvent_chain u) :)
  have trv (u : State) : (updateProgressEvent u).trv = u.trv := Part.kept (p := .trv) (by simp [updateProgressEvent_only, OnlyChanges.refl])
  refine ⟨_, if_pos (by simp [run, staging, first, erased]), ?_, fun host => ?_⟩
  · split <;> exact chain _
  · have origin : isOrigin s = true := host
    rw [if_pos origin]
    exact trv _

/-- Settles O60, clause by clause: each by the equation of its command or row, and by what its steps leave of the slot and of the chain. -/
theorem storageAndChain : Obligations.StorageAndChain := by
  refine ⟨?start, ?ready, ?data, ?abort, ?activate, ?copied, ?confirm, ?offer, ?answer, ?block, ?blockAck, ?progress, ?progressSend, ?reroute,
    ?chainAbort, ?done, ?silent, ?stall, ?report, ?reclaimAcked, ?reclaimDue, ?step, ?refresh, ?lost⟩
  case start =>
    intro h hdr s a role size idle active
    refine ⟨fun ok => ?_, fun bad => execUpdateStart_badHeader a role size bad⟩
    exact ⟨_, execUpdateStart_accepted a role size idle active ok, rfl, rfl, rfl, rfl, rfl,
      beginStaging_only _ _ (by decide) (by decide) (by decide) (touchRole_only (by decide) (.refl _ s))⟩
  case ready => exact fun s run staging first erased => execStagingSlotReady_ready run staging first erased
  case data =>
    intro h k half data tag s a role known size tagged staging ready host inside small
    obtain ⟨t, run, store⟩ := execUpdateData_stored a role known size tagged staging ready host inside small
    refine ⟨t, run, ?_, fun ok new first => ?_, fun bad => ?_⟩
    · rw [store]
      exact stageHalf_header k half data tag (touchRole s)
    · subst first
      have new : holdsBlock (touchRole s).store.stagingSlot k = false := new
      rw [← stageHalf_touchRole, stageHalf_new new] at ok
      rw [store, stageHalf_blocks new]
      exact putHalf_stores ok
    · rw [← stageHalf_touchRole] at bad
      cases new : holdsBlock (touchRole s).store.stagingSlot k with
      | true =>
        rw [stageHalf_held new] at bad
        exact nomatch bad
      | false =>
        rw [stageHalf_new new] at bad
        rw [store, stageHalf_blocks new]
        exact putHalf_discards bad
  case abort =>
    intro h s a role staging
    obtain ⟨chain, slot⟩ := emptyStaging_empties
      (stagingDone 1 (if isOrigin (touchRole s) then s.chain.list.foldl (fun s n => chainSend n 6 [] s) (touchRole s) else touchRole s))
    exact ⟨_, execUpdateAbort_accepted a role staging, slot, chain⟩
  case activate =>
    intro h s a role mode idle
    have run := execImageActivate_decided a role mode idle
    refine ⟨fun whole complete confirmed => ?_, fun refused => ?_⟩
    · rw [if_pos (by simp [whole, complete, confirmed])] at run
      refine ⟨_, run, by rw [activating_modes], by rw [activating_modes]; rfl, ?_⟩
      have touched : OnlyChanges [.modes, .roles, .ease, .store] s (touchRole s) := touchRole_only (by decide) (.refl _ s)
      refine askGroup_only _ _ _ (by decide) (by decide) (updStore_only _ (by decide) ?_)
      exact withModes_only _ (by decide) touched
    · rwa [if_neg (by rcases refused with part | torn | trial <;> simp_all)] at run
  case copied =>
    intro s active erased run up on
    refine ⟨?_, ?_⟩
    · have store := ((unjournalled_outlasts (commitTrial s).store).assertSource srcCmdSystem rfl).trans (commitTrial_store s)
      refine ⟨_, execActivationCopyDone_ok active erased run up, field_of_unjournalled Storage.trial (fun _ => rfl) store,
        field_of_unjournalled Storage.trialBoots (fun _ => rfl) store, ?_, ?_, ?_⟩
      · rw [assertSource_modes, commitTrial_modes]
      · rw [field_of_unjournalled Storage.slots (fun _ => rfl) store]
        exact vget_vset_self (otherSlot_lt s) ..
      · exact assertSource_asserted ((commitTrial_supply s).trans on) ((commitTrial_running s).trans run) srcCmdSystem
    · have store : unjournalled (updateDone 5 (abandonActivation s)).store = unjournalled (abandonActivation s).store := event_unjournalled ..
      rw [abandonActivation_store] at store
      refine ⟨_, execActivationCopyDone_bad active erased run up, (field_of_unjournalled Storage.trial (fun _ => rfl) store :),
        by rw [updateDone, event_modes]; rfl, ?_,
        (field_of_unjournalled Storage.stagingSlot (fun _ => rfl) store :)⟩
      rw [field_of_unjournalled Storage.slots (fun _ => rfl) store]
      exact vget_vset_self (otherSlot_lt s) ..
  case confirm =>
    intro h s a role
    refine ⟨fun trial => ?_, fun none => execConfirmImage_refused a role none⟩
    obtain ⟨t, run, store⟩ := execConfirmImage_trial a role trial
    exact ⟨t, run, field_of_unjournalled Storage.running (fun _ => rfl) store, field_of_unjournalled Storage.trial (fun _ => rfl) store,
      field_of_unjournalled Storage.oldCopy (fun _ => rfl) store, field_of_unjournalled Storage.minVersion (fun _ => rfl) store⟩
  case offer =>
    intro src origin hdr nodes pos s listens short idle
    refine ⟨_, execChainOffer_idle listens short idle, fun ok rests => ?_, fun bad => ?_⟩
    · obtain ⟨chain, slot, -⟩ := beginStaging_begins hdr (offerChain src origin nodes pos) s
      obtain ⟨heard, offered⟩ := sendOffer_chain (beginStaging hdr (offerChain src origin nodes pos) s)
      rw [if_neg (by simp [ok, rests]), offered, sendOffer_store, chain]
      exact ⟨rfl, rfl, rfl, rfl, slot⟩
    · rw [if_pos (by simp [bad])]
      obtain ⟨chain, store, own⟩ := refuseOffer_answers src origin (hdrId hdr) (if headerOk s hdr then 1 else 2) s
      exact ⟨chain, congrArg Storage.stagingSlot store, own⟩
  case answer =>
    intro src pos res first s next listens staging
    by_cases accepts : res = 0
    · subst accepts
      have run := execChainAnswer_accepted next listens staging first
      obtain ⟨entries, taken⟩ := answerTaken_chain src first s
      obtain ⟨n, -, chain, -⟩ := pump_queued 16 (answerTaken src first s)
      have on : (answerTaken src first s).chain.nextFrom ≤ _ := pump_advances 16 (answerTaken src first s)
      refine ⟨_, run, fun _ => ⟨?_, ?_, ?_⟩, fun refused => absurd rfl refused, execChainAnswer_only _ _ _ _ run⟩
      · rw [forward16, chain, taken]
      · rwa [taken] at on
      · rw [forward16, chain, taken]
    · have run := execChainAnswer_refused next listens staging accepts first
      obtain ⟨heard, offered⟩ := sendOffer_chain
        (updChain (fun c => { c with next := successor s src, nextAnswered := false, nextAcked := -1 }) s)
      refine ⟨_, run, fun accepted => absurd accepted accepts, fun _ => ?_, execChainAnswer_only _ _ _ _ run⟩
      rw [offered]
      exact ⟨ite_self _, rfl⟩
  case block =>
    intro src k half data tag s listens staging member ready up inside known size
    have run := execChainBlock_taken (tag := tag) listens staging member ready up inside known size
    have id : stagedId (stageHalf k half data tag s).1 = stagedId s := congrArg hdrId (stageHalf_header k half data tag s)
    generalize (stageHalf k half data tag s).1 = t at run id
    obtain ⟨q, queued, final, service, payload⟩ := chainSend_packet src 3 (leInt 4 ((stagedHeld t : Int) - 1)) t
    obtain ⟨n, l, -, own⟩ := pump_queued 16 (chainSend src 3 (leInt 4 ((stagedHeld t : Int) - 1)) t)
    exact ⟨_, q, run, by rw [forward16, own, queued]; simp, final, service, by rw [payload, id]⟩
  case blockAck =>
    intro src pos k s next listens staging inside
    have run := execChainBlockAck_taken next listens staging inside
    obtain ⟨n, -, chain, -⟩ := pump_queued 16 (updChain (fun c => { c with nextAcked := max c.nextAcked k, heardAt := s.now }) s)
    refine ⟨_, run, ?_, ?_, execChainBlockAck_only _ _ _ run⟩
    · rw [forward16, chain]
      rfl
    · rw [forward16, chain]
      rfl
  case progress =>
    intro src k rate s listens origin staging known small
    have run := execChainProgress_taken (k := k) listens origin staging known rate
    have told := progressTaken_heard known small rate
    cases slow : slowHop (progressTaken src k rate s) with
    | none =>
      obtain ⟨e, mem, name, count, heard⟩ := told
      rw [slow] at run
      exact ⟨_, e, run, mem, name, heard, count⟩
    | some x =>
      obtain ⟨e, mem, name, count, heard⟩ := bypass_heard (i := x.1) (r := x.2) (slowHop_entry slow) told
      rw [slow] at run
      exact ⟨_, e, run, mem, name, heard, count⟩
  case progressSend =>
    intro s listens staging member due
    have run := execChainProgressSend_due listens staging member due
    obtain ⟨-, q, own, final⟩ := chainSend_queued s.chain.origin 4 (leInt 4 ((stagedHeld s : Int) - 1) ++ le 4 (incomingRate s)) s
    exact ⟨_, q, run, own, final, rfl, execChainProgressSend_only run⟩
  case reroute =>
    intro n pos s listens member staging
    have run := execChainReroute_taken listens member staging n pos
    obtain ⟨chain, q, own, final⟩ := sendOffer_sends (n := n) (pos := pos)
      (s := updChain (fun c => { c with next := some (n, pos), nextAcked := -1, list := reroutedList c.next n c.list }) s) rfl
    refine ⟨_, q, run, ?_, ?_, own, final, execChainReroute_only _ _ _ _ run⟩
    · rw [chain]
      rfl
    · rw [chain]
      rfl
  case chainAbort =>
    intro s listens member staging
    exact ⟨_, execChainAbort_taken listens member staging, emptyStaging_empties _⟩
  case done =>
    intro src res s listens origin staging known
    obtain ⟨k, run⟩ := execChainDone_entry listens origin staging known res
    have names (e : ChainPos) (hit : (e.node == src && !e.ended) = true) : e.node = src := by
      rw [Bool.and_eq_true, beq_iff_eq] at hit
      exact hit.1
    obtain ⟨e, name, mem⟩ := mem_updEntry known names (fun e => { e with
      state := if res = 0 then 3 else if res = 2 ∨ res = 3 then 4 else 5, blocks := sat 16 k })
    refine ⟨_, run, congrArg Chain.progressAt (event_chain ..), ?_, execChainDone_only _ _ _ run⟩
    rw [chainNode, event_chain]
    exact ⟨_, mem, name, rfl⟩
  case silent =>
    intro n pos s listens staging next open_ silent
    have run := execChainReceiverSilent_due listens staging next open_ silent
    obtain ⟨chain, q, own, final⟩ := sendOffer_sends next
    refine ⟨_, q, run, own, final, ?_, ?_, execChainReceiverSilent_only run⟩
    · rw [chain]
    · rw [chain]
  case stall =>
    intro s running staging long
    obtain ⟨t, run⟩ := execChainStall_due running staging long
    exact ⟨_, run, emptyStaging_empties t⟩
  case report =>
    intro s running staging due
    have run : execUpdateProgress s = .next (updateProgressEvent s) := if_pos (by simp [running, staging, due])
    exact ⟨_, run, congrArg Chain.reportAt (updateProgressEvent_chain s), execUpdateProgress_only run⟩
  case reclaimAcked =>
    intro g s run up idle source
    have started := execReclaimStart_acked run up idle source
    exact ⟨_, _, started, journalApp_reclaim .., rfl, rfl, rfl, execReclaimStart_only _ started⟩
  case reclaimDue =>
    intro d g f s run up idle source free
    have started := execReclaimStart_due run up idle source free
    exact ⟨_, _, started, journalApp_reclaim .., rfl, rfl, rfl, rfl, rfl, execReclaimStart_only _ started⟩
  case step =>
    intro r s run up under free
    refine ⟨_, execReclaimStepDone_free run up under free true, fun last first dest source => ?_, fun last => reclaimStep_ends last true s⟩
    exact reclaimStep_next under first last dest source
  case refresh =>
    intro part b s run up known other
    have refreshed := execNandBlockRefresh_due (b := b) run up known other
    refine ⟨_, refreshed, rfl, rfl, askErase_only _ (by decide) (by decide) (updStore_only _ (by decide) (.refl _ s))⟩
  case lost => exact fun part b s run up slot => execNandBlockRefresh_lost run up slot

end Sys2Proof.Laws
